-- ==== Sys2Proof/Word.lean ====
section
/-! DEFINITION. The words of the machine: a byte, a 32-bit register or scalar value, a 64-bit instruction word. -/

namespace Sys2Proof

/-- One byte of memory, of a frame or of a packet (R12). -/
abbrev Byte := BitVec 8

/-- One control-space register (R13) or one scalar register of a strand (R47). -/
abbrev Word := BitVec 32

/-- One instruction word (R54). -/
abbrev Word64 := BitVec 64

end Sys2Proof
end

