-- ==== Sys2Proof/Syntax.lean ====
section
/-! DEFINITION. The commands: one constructor of `Instr` per row of spec/opcode_table.json, with the kinds of data their
operands are made of. -/

namespace Sys2Proof.Machine

/-- Who makes a control-space access (R20, R22, R713). -/
inductive Requester where
  | session (slot : Nat)
  | firmware
  | core (c t : Nat)
deriving DecidableEq, Repr

/-- What has waited for AGE_US: a READY strand, or an item (R547, R553). -/
inductive Aging where
  | strand (c t : Nat)
  | item (q seq : Nat)
deriving DecidableEq, Repr

/-- The key of a work item between fetch and record: its queue, its sequence number, and the node for an item of a
graph launch (R504, R529). -/
structure ItemKey where
  queue : Nat
  seq : Nat
  node : Option Nat
deriving DecidableEq, Repr

/-- What an access meets at its home, as far as the cells decide it (R399). -/
inductive CellEvent where
  | clean | corrected | uncorrectable | onDie | parityOnce | parityTwice
deriving DecidableEq, Repr

/-- A fabric packet: the header of R585, its payload and the trailer's E2E. -/
structure Packet where
  type : Nat
  flags : Nat
  hops : Nat
  chamber : Nat
  dst : Nat
  src : Nat
  addr : Nat
  length : Nat
  txn : Nat
  arg : Nat
  queue : Nat
  qepoch : Nat
  stream : Nat
  lseq : Nat
  payload : List Byte
  e2e : Nat
deriving DecidableEq, Repr

/-- A frame of the control protocol as it travels: the fields of its header, its payload, enciphered where FLAGS says so, and then its
GCM tag of 16 bytes (R456, R465). -/
structure Frame where
  version : Nat
  type : Nat
  slot : Nat
  flags : Nat
  length : Nat
  reserved : Nat
  seq : Nat
  payload : List Byte
  tag : List Byte
deriving DecidableEq, Repr

end Sys2Proof.Machine

namespace Sys2Proof

open Sys2Proof.Machine

/-- The commands, in the order of the table, each with its rule. -/
inductive Instr where
  /-- REGISTER_WRITE (R15). -/
  | registerWrite (r : Requester) (a : Nat) (w : Word)
  /-- RC_READ (R16). -/
  | rcRead (r : Requester) (a : Nat)
  /-- COUNTER_LO_READ (R19). -/
  | counterLoRead (r : Requester) (a : Nat)
  /-- FLAGS_RC_READ (R160). -/
  | flagsRcRead (r : Requester) (a : Nat)
  /-- RATE_WINDOW_END (R40). -/
  | rateWindowEnd (d cycles : Nat) (coreCycles : List Nat)
  /-- STRAND_WAKE (R48). -/
  | strandWake (c t : Nat)
  /-- STRAND_QUANTUM_END (R50). -/
  | strandQuantumEnd (c t : Nat)
  /-- INSTRUCTION_FETCH (R54). -/
  | instructionFetch (c t : Nat)
  /-- S_LI (R55). -/
  | sLi (c t : Nat)
  /-- S_MOV (R55). -/
  | sMov (c t : Nat)
  /-- S_ADD (R55). -/
  | sAdd (c t : Nat)
  /-- S_SUB (R55). -/
  | sSub (c t : Nat)
  /-- S_MUL (R55). -/
  | sMul (c t : Nat)
  /-- S_MULHU (R55). -/
  | sMulhu (c t : Nat)
  /-- S_AND (R55). -/
  | sAnd (c t : Nat)
  /-- S_OR (R55). -/
  | sOr (c t : Nat)
  /-- S_XOR (R55). -/
  | sXor (c t : Nat)
  /-- S_SHL (R55). -/
  | sShl (c t : Nat)
  /-- S_SHR (R55). -/
  | sShr (c t : Nat)
  /-- S_SRA (R55). -/
  | sSra (c t : Nat)
  /-- S_SLT (R55). -/
  | sSlt (c t : Nat)
  /-- S_SLTU (R55). -/
  | sSltu (c t : Nat)
  /-- S_ADDP (R55). -/
  | sAddp (c t : Nat)
  /-- S_BR (R55). -/
  | sBr (c t : Nat)
  /-- S_BEQ (R55). -/
  | sBeq (c t : Nat)
  /-- S_BNE (R55). -/
  | sBne (c t : Nat)
  /-- S_BLT (R55). -/
  | sBlt (c t : Nat)
  /-- S_BGE (R55). -/
  | sBge (c t : Nat)
  /-- S_BLTU (R55). -/
  | sBltu (c t : Nat)
  /-- S_BGEU (R55). -/
  | sBgeu (c t : Nat)
  /-- S_CALL (R55). -/
  | sCall (c t : Nat)
  /-- S_JMP (R55). -/
  | sJmp (c t : Nat)
  /-- S_YIELD (R55). -/
  | sYield (c t : Nat)
  /-- S_NOP (R55). -/
  | sNop (c t : Nat)
  /-- SVY_STAGE (R94). -/
  | svyStage (r : Requester)
  /-- SVY_COMMIT (R95). -/
  | svyCommit (r : Requester)
  /-- SVY_ABORT (R110). -/
  | svyAbort (r : Requester)
  /-- STAGING_WINDOW_WRITE (R719). -/
  | stagingWindowWrite (r : Requester) (off : Nat) (words : List Word)
  /-- STAGE_BYTES_PROGRAMMED (R719). -/
  | stageBytesProgrammed
  /-- SVY_CHECK (R95). -/
  | svyCheck
  /-- SVY_ZEROISE (R99). -/
  | svyZeroise
  /-- ZEROISE_DONE (R108). -/
  | zeroiseDone (n : Nat) (share : Option Nat)
  /-- SVY_APPLY (R99). -/
  | svyApply
  /-- SVY_FLIP (R98). -/
  | svyFlip
  /-- SR_SEED_HI_WRITE (R140). -/
  | srSeedHiWrite (r : Requester) (c : Nat) (vxe : Bool) (hi : Nat)
  /-- SLOT_WRITE (R179). -/
  | slotWrite (r : Requester) (g : Nat) (nowait : Bool) (hold : Nat)
  /-- SLOT_WRITE_ABORT (R183). -/
  | slotWriteAbort (r : Requester) (g : Nat)
  /-- SLOT_WRITE_WRITING (R179). -/
  | slotWriteWriting (g : Nat)
  /-- HOLD_EXPIRED (R182). -/
  | holdExpired (g : Nat)
  /-- SLOT_WRITE_DONE (R179). -/
  | slotWriteDone (g : Nat)
  /-- MX_RUN (R208). -/
  | mxRun (c t : Nat)
  /-- MX_RUN_COMPLETE (R219). -/
  | mxRunComplete (c : Nat)
  /-- DUP_COMPARE (R229). -/
  | dupCompare (c : Nat) (upset : List (Nat × Nat))
  /-- MXE_DUP_CTRL_WRITE (R226). -/
  | mxeDupCtrlWrite (r : Requester) (c enable rate tol : Nat)
  /-- MXE_ABORT_ACK (R223). -/
  | mxeAbortAck (c : Nat)
  /-- VX_ADD (R239). -/
  | vxAdd (c t : Nat)
  /-- VX_SUB (R239). -/
  | vxSub (c t : Nat)
  /-- VX_MUL (R239). -/
  | vxMul (c t : Nat)
  /-- VX_FMA (R239). -/
  | vxFma (c t : Nat)
  /-- VX_MAX (R239). -/
  | vxMax (c t : Nat)
  /-- VX_MIN (R239). -/
  | vxMin (c t : Nat)
  /-- VX_UN (R239). -/
  | vxUn (c t : Nat)
  /-- VX_CMP (R239). -/
  | vxCmp (c t : Nat)
  /-- VX_SEL (R239). -/
  | vxSel (c t : Nat)
  /-- VX_CVT (R147). -/
  | vxCvt (c t : Nat)
  /-- VX_CSTORE (R193). -/
  | vxCstore (c t : Nat)
  /-- VX_RED (R246). -/
  | vxRed (c t : Nat)
  /-- VX_RSTAT (R256). -/
  | vxRstat (c t : Nat)
  /-- VX_RMSN (R259). -/
  | vxRmsn (c t : Nat)
  /-- VX_SMAX (R260). -/
  | vxSmax (c t : Nat)
  /-- VX_FN (R250). -/
  | vxFn (c t : Nat)
  /-- VXE_COMPLETE (R243). -/
  | vxeComplete (c : Nat)
  /-- VXE_ABORT_ACK (R264). -/
  | vxeAbortAck (c : Nat)
  /-- AT_RUN (R296). -/
  | atRun (c t : Nat)
  /-- AT_APPEND (R286). -/
  | atAppend (c t : Nat)
  /-- APPEND_RESUME (R283). -/
  | appendResume (c : Nat)
  /-- ATU_COMPLETE (R290). -/
  | atuComplete (c : Nat)
  /-- ATU_ABORT_ACK (R305). -/
  | atuAbortAck (c : Nat)
  /-- OPEN (R271). -/
  | seqOpen (c t : Nat)
  /-- OPEN_RETRY (R555). -/
  | openRetry (n : Nat)
  /-- COMMIT (R271). -/
  | seqCommit (c t : Nat)
  /-- TRUNCATE (R271). -/
  | seqTruncate (c t : Nat)
  /-- RELEASE (R271). -/
  | seqRelease (c t : Nat)
  /-- SEQ_OP_PROCEED (R306). -/
  | seqOpProceed (c : Nat)
  /-- POOL_PAGE_ZEROISED (R282). -/
  | poolPageZeroised (n : Nat)
  /-- RT_RUN (R326). -/
  | rtRun (c t : Nat)
  /-- BIAS_WINDOW_CLOSE (R320). -/
  | biasWindowClose (n p : Nat)
  /-- RT_RUN_COMPLETE (R341). -/
  | rtRunComplete (g epoch : Nat)
  /-- XC_RECV (R334). -/
  | xcRecv (c t : Nat)
  /-- XC_RECV_COMPLETE (R334). -/
  | xcRecvComplete (id : Nat)
  /-- XC_RETURN (R336). -/
  | xcReturn (c t : Nat)
  /-- RX_BUSY_RETRY (R333). -/
  | rxBusyRetry (txn dst : Nat)
  /-- RTE_BIAS_WRITE (R319). -/
  | rteBiasWrite (r : Requester) (g value : Nat)
  /-- RTE_CANCEL (R342). -/
  | rteCancel (r : Requester) (g epoch : Nat)
  /-- RTE_ABORT_ACK (R344). -/
  | rteAbortAck (g : Nat)
  /-- TRAIN_CLOSE (R366). -/
  | trainClose (r : Requester) (c entry : Nat)
  /-- TRAIN_CLOSE_ALL (R366). -/
  | trainCloseAll (r : Requester) (c : Nat)
  /-- TRAIN_REPLAY (R371). -/
  | trainReplay (r : Requester) (c entry fmt : Nat)
  /-- TRAIN_SKIP (R372). -/
  | trainSkip (r : Requester) (c entry : Nat)
  /-- MMU_INVALIDATE (R393). -/
  | mmuInvalidate (r : Requester) (n pages : Nat)
  /-- MMU_INVALIDATE_ALL (R393). -/
  | mmuInvalidateAll (r : Requester) (n : Nat)
  /-- MMU_INVALIDATE_DONE (R393). -/
  | mmuInvalidateDone (n : Nat)
  /-- HOME_ACCESS (R413). -/
  | homeAccess (id : Nat) (ev : CellEvent)
  /-- HBC_RETRAIN (R405). -/
  | hbcRetrain (st ch drift read write pause : Nat)
  /-- REFRESH (R379). -/
  | refresh (st ch : Nat)
  /-- TEMPERATURE_READOUT (R379). -/
  | temperatureReadout (st temp : Nat)
  /-- PATROL_SCRUB (R399). -/
  | patrolScrub (st : Nat) (ev : CellEvent)
  /-- MO_LD (R423). -/
  | moLd (c t : Nat)
  /-- MO_ST (R423). -/
  | moSt (c t : Nat)
  /-- ADD (R422). -/
  | add (c t : Nat)
  /-- FADD (R422). -/
  | fadd (c t : Nat)
  /-- SWAP (R422). -/
  | swap (c t : Nat)
  /-- CAS (R422). -/
  | cas (c t : Nat)
  /-- SMAX (R422). -/
  | smax (c t : Nat)
  /-- SMIN (R422). -/
  | smin (c t : Nat)
  /-- AMO_OR (R422). -/
  | amoOr (c t : Nat)
  /-- AMO_AND (R422). -/
  | amoAnd (c t : Nat)
  /-- FENCE_ACQUIRE (R431). -/
  | fenceAcquire (c t : Nat)
  /-- FENCE_RELEASE (R431). -/
  | fenceRelease (c t : Nat)
  /-- FENCE_FULL (R431). -/
  | fenceFull (c t : Nat)
  /-- MO_BAR (R606). -/
  | moBar (c t : Nat)
  /-- HELLO (R464). -/
  | hello (p : Nat) (f : Frame)
  /-- PROOF (R464). -/
  | proof (p : Nat) (f : Frame)
  /-- HEARTBEAT (R472). -/
  | heartbeat (p : Nat) (f : Frame)
  /-- CLOSE (R469). -/
  | close (p : Nat) (f : Frame)
  /-- REG_READ (R459). -/
  | regRead (p : Nat) (f : Frame)
  /-- REG_WRITE (R459). -/
  | regWrite (p : Nat) (f : Frame)
  /-- MEM_READ (R458). -/
  | memRead (p : Nat) (f : Frame) (evs : List CellEvent)
  /-- MEM_WRITE (R458). -/
  | memWrite (p : Nat) (f : Frame) (evs : List CellEvent)
  /-- DOORBELL (R521). -/
  | doorbell (p : Nat) (f : Frame)
  /-- POLL (R522). -/
  | poll (p : Nat) (f : Frame)
  /-- CLAIM (R473). -/
  | claim (p : Nat) (f : Frame)
  /-- ELECTION_CLOSE (R473). -/
  | electionClose
  /-- HANDOVER (R476). -/
  | handover (p : Nat) (f : Frame)
  /-- ATTEST (R492). -/
  | attest (p : Nat) (f : Frame)
  /-- ATTEST_REPORT (R462). -/
  | attestReport
  /-- KEY_ENROLL (R487). -/
  | keyEnroll (p : Nat) (f : Frame)
  /-- KEY_REVOKE (R487). -/
  | keyRevoke (p : Nat) (f : Frame)
  /-- KEYSET_ENROLL (R488). -/
  | keysetEnroll (p : Nat) (f : Frame)
  /-- KEYSET_REMOVE (R488). -/
  | keysetRemove (p : Nat) (f : Frame)
  /-- FW_STAGE (R486). -/
  | fwStage (p : Nat) (f : Frame)
  /-- FW_STAGE_WRITTEN (R461). -/
  | fwStageWritten
  /-- FW_COMMIT (R486). -/
  | fwCommit (p : Nat) (f : Frame)
  /-- FW_COMMIT_DONE (R486). -/
  | fwCommitDone
  /-- ADVANCE (R489). -/
  | advance (p : Nat) (f : Frame)
  /-- FLOOR (R486). -/
  | floor (p : Nat) (f : Frame)
  /-- UNKNOWN_TYPE (R457). -/
  | unknownType (p : Nat) (f : Frame)
  /-- SESSION_TIMEOUT (R469). -/
  | sessionTimeout (k : Nat)
  /-- HEARTBEAT_LOSS (R472). -/
  | heartbeatLoss
  /-- VIOL_WINDOW_END (R479). -/
  | violWindowEnd (p : Nat)
  /-- REENABLE_PORT (R480). -/
  | reenablePort (r : Requester) (p : Nat)
  /-- REENABLE_SLOTS (R479). -/
  | reenableSlots (r : Requester) (p mask : Nat)
  /-- LOSS_OF_LIGHT (R707). -/
  | lossOfLight
  /-- CREATE (R502). -/
  | create (r : Requester) (n : Nat)
  /-- QCB_READ (R503). -/
  | qcbRead (n : Nat)
  /-- DESTROY (R534). -/
  | destroy (r : Requester) (n q : Nat)
  /-- RECLAIM (R500). -/
  | reclaim (r : Requester) (n q : Nat)
  /-- TEARDOWN_DONE (R534). -/
  | teardownDone (q : Nat)
  /-- GRAPH_CREATE (R528). -/
  | graphCreate (r : Requester) (n g : Nat)
  /-- PATCH (R532). -/
  | patch (r : Requester) (n : Nat)
  /-- PATCH_DONE (R532). -/
  | patchDone (n : Nat)
  /-- GRAPH_DESTROY (R533). -/
  | graphDestroy (r : Requester) (n g : Nat)
  /-- Q_DB_WRITE (R504). -/
  | qDbWrite (r : Requester) (q tail : Nat)
  /-- Q_CACK_WRITE (R504). -/
  | qCackWrite (r : Requester) (q v : Nat)
  /-- Q_CANCEL (R524). -/
  | qCancel (r : Requester) (q seq : Nat)
  /-- ITEM_FETCH (R504). -/
  | itemFetch (n : Nat)
  /-- ITEM_DISPATCH (R510). -/
  | itemDispatch (n : Nat)
  /-- ITEM_BIND (R52). -/
  | itemBind (g : Nat)
  /-- MARKER_END (R509). -/
  | markerEnd (q seq : Nat)
  /-- GRAPH_NODE_DISPATCH (R529). -/
  | graphNodeDispatch (q seq k : Nat)
  /-- MESSAGE_DISPATCH (R517). -/
  | messageDispatch (q : Nat)
  /-- COPY_COMPLETE (R513). -/
  | copyComplete (k : ItemKey)
  /-- DMV_ABORT_ACK (R514). -/
  | dmvAbortAck (k : ItemKey)
  /-- ITEM_TIMEOUT (R523). -/
  | itemTimeout (q seq : Nat)
  /-- QW_END (R516). -/
  | qwEnd (c t : Nat)
  /-- QW_TAKE (R516). -/
  | qwTake (c t : Nat)
  /-- QW_DONE (R516). -/
  | qwDone (c t : Nat)
  /-- QW_EXIT (R516). -/
  | qwExit (c t : Nat)
  /-- QW_LIVE (R560). -/
  | qwLive (c t : Nat)
  /-- SURVEY_COMMIT (R537). -/
  | surveyCommit
  /-- MGMT_FW_COMMIT (R537). -/
  | mgmtFwCommit
  /-- SCAN (R537). -/
  | scan
  /-- FLUSH (R537). -/
  | flush
  /-- PORT_TEST (R610). -/
  | portTest
  /-- END_TEST (R610). -/
  | endTest
  /-- TEST_WINDOW_END (R610). -/
  | testWindowEnd (p : Nat)
  /-- AGE_EXPIRY (R547). -/
  | ageExpiry (a : Aging)
  /-- PREEMPT (R558). -/
  | preempt (g : Nat)
  /-- SUSPEND_DONE (R561). -/
  | suspendDone (c t : Nat)
  /-- RESUME (R563). -/
  | resume (c : Nat)
  /-- LANE_TRAIN (R584). -/
  | laneTrain (l : Nat) (ok : Bool)
  /-- LANE_TRAIN_RETRY (R584). -/
  | laneTrainRetry (l : Nat)
  /-- RETRAIN (R613). -/
  | retrain (r : Requester) (p k : Nat)
  /-- RD_REQ (R588). -/
  | rdReq (l : Nat) (p : Packet) (ev : CellEvent)
  /-- WR (R588). -/
  | wr (l : Nat) (p : Packet) (ev : CellEvent)
  /-- CLOSE_WR (R595). -/
  | closeWr (l : Nat) (p : Packet)
  /-- CLOSE_WR_PERFORM (R595). -/
  | closeWrPerform (src n req k : Nat)
  /-- CLOSE_TIMEOUT (R595). -/
  | closeTimeout (src n req k : Nat)
  /-- AMO (R588). -/
  | amo (l : Nat) (p : Packet) (ev : CellEvent)
  /-- ROW (R332). -/
  | row (l : Nat) (p : Packet)
  /-- ROW_END (R329). -/
  | rowEnd (l : Nat) (p : Packet)
  /-- BAR_ARRIVE (R607). -/
  | barArrive (l : Nat) (p : Packet)
  /-- BAR_RELEASE (R607). -/
  | barRelease (l : Nat) (p : Packet)
  /-- SYNC (R677). -/
  | sync (l : Nat) (p : Packet) (hopPs : Nat)
  /-- SYNC_SEND (R604). -/
  | syncSend
  /-- HOLDOVER (R678). -/
  | holdover
  /-- MEMBER_HEARTBEAT (R602). -/
  | memberHeartbeat (l : Nat) (p : Packet)
  /-- VIEW (R602). -/
  | view (l : Nat) (p : Packet) (changes : List (Nat × Bool))
  /-- LEAVE (R605). -/
  | leave (l : Nat) (p : Packet)
  /-- HEARTBEAT_SEND (R602). -/
  | heartbeatSend
  /-- MEMBER_DEPARTED (R602). -/
  | memberDeparted (d : Nat)
  /-- MASTER_LOST (R603). -/
  | masterLost
  /-- MASTER_TAKEOVER (R603). -/
  | masterTakeover
  /-- RD_RESP (R594). -/
  | rdResp (l : Nat) (p : Packet)
  /-- WR_ACK (R594). -/
  | wrAck (l : Nat) (p : Packet)
  /-- AMO_RESP (R586). -/
  | amoResp (l : Nat) (p : Packet)
  /-- ROW_DROP (R335). -/
  | rowDrop (l : Nat) (p : Packet)
  /-- RESULT (R338). -/
  | result (l : Nat) (p : Packet)
  /-- NAK (R593). -/
  | nak (l : Nat) (p : Packet)
  /-- PACKET_FORWARD (R591). -/
  | packetForward (l : Nat) (p : Packet)
  /-- CREDIT (R599). -/
  | credit (l : Nat) (p : Packet)
  /-- ACK (R598). -/
  | ack (l : Nat) (p : Packet)
  /-- REPLAY_REQ (R598). -/
  | replayReq (l : Nat) (p : Packet)
  /-- EQ_REQ (R600). -/
  | eqReq (l : Nat) (p : Packet)
  /-- EQ_RSP (R600). -/
  | eqRsp (l : Nat) (p : Packet)
  /-- PARAM (R601). -/
  | param (l : Nat) (p : Packet) (assignOk : Bool)
  /-- EQ_UPDATE (R600). -/
  | eqUpdate (l eyeH eyeV symErr corrected : Nat) (ask : Option (Nat × Nat))
  /-- LNK_VIOL_WINDOW_END (R609). -/
  | lnkViolWindowEnd (p : Nat)
  /-- LNK_REENABLE (R609). -/
  | lnkReenable (r : Requester) (p : Nat)
  /-- SCAN_WINDOW (R631). -/
  | scanWindow (g : Nat)
  /-- DUP_SCAN_WINDOW (R624). -/
  | dupScanWindow (c : Nat)
  /-- SCAN_DRAIN_END (R632). -/
  | scanDrainEnd
  /-- SCAN_QUIESCED (R632). -/
  | scanQuiesced
  /-- SCAN_SLATE_DONE (R633). -/
  | scanSlateDone (fails : List (Nat × Nat × Nat))
  /-- MARK_AMBER (R625). -/
  | markAmber (r : Requester) (u : Nat)
  /-- CLEAR_AMBER (R625). -/
  | clearAmber (r : Requester) (u : Nat)
  /-- RETIRE (R625). -/
  | retire (r : Requester) (u : Nat)
  /-- HEALTH_FLASH_WRITE (R626). -/
  | healthFlashWrite
  /-- LIFETIME_WRITE (R639). -/
  | lifetimeWrite
  /-- CVU_GO (R636). -/
  | cvuGo (r : Requester) (g u : Nat)
  /-- CVU_ABORT (R644). -/
  | cvuAbort (r : Requester) (g u : Nat)
  /-- CVU_RUN_DONE (R635). -/
  | cvuRunDone (g u : Nat)
  /-- POWER_ON (R648). -/
  | powerOn
  /-- RESET_N (R648). -/
  | resetN
  /-- WARM_RESET (R648). -/
  | warmReset (r : Requester)
  /-- PORT_RESET (R648). -/
  | portReset (r : Requester)
  /-- PWR_GOOD_FALL (R712). -/
  | pwrGoodFall
  /-- FIRMWARE_VERIFIED (R649). -/
  | firmwareVerified (vexps : List Nat)
  /-- STAGE_2_DONE (R651). -/
  | stage2Done
  /-- STACK_TRAINED (R649). -/
  | stackTrained (st : Nat) (ok : Bool)
  /-- EARLY_SERVICE (R655). -/
  | earlyService
  /-- STAGE_5 (R657). -/
  | stage5
  /-- EARLY_HANDOVER (R657). -/
  | earlyHandover
  /-- MARGIN_LOOP_STEP (R660). -/
  | marginLoopStep (d : Nat) (slack : Option (Nat × Nat))
  /-- CANARY_EMERGENCY (R661). -/
  | canaryEmergency (d slack : Nat)
  /-- POWER_WINDOW (R664). -/
  | powerWindow (doms : List Nat) (bytes : List (Nat × Nat)) (pkg : Nat)
  /-- POWER_LOOP_STEP (R665). -/
  | powerLoopStep (n : Nat)
  /-- PKG_GUARD_END (R666). -/
  | pkgGuardEnd
  /-- REGULATOR_SETTLED (R663). -/
  | regulatorSettled (d : Nat)
  /-- THERMAL_READ (R667). -/
  | thermalRead (temps : List Nat)
  /-- PMBUS_POLL (R646). -/
  | pmbusPoll (d : Nat) (acked : Bool) (vout : Nat) (fault : Bool)
  /-- PMBUS_ALERT (R646). -/
  | pmbusAlert (seg : Nat) (faults : List Nat)
  /-- SHUTDOWN (R669). -/
  | shutdown (r : Requester)
  /-- OFF_REQ (R669). -/
  | offReq
  /-- SHUTDOWN_DRAIN_END (R669). -/
  | shutdownDrainEnd
  /-- OFF_READY (R669). -/
  | offReady
  /-- REFCLK_LOSS (R706). -/
  | refclkLoss
  /-- TB_READ (R679). -/
  | tbRead (c t : Nat)
  /-- TR_MARK (R683). -/
  | trMark (c t : Nat)
  /-- PC_SAMPLE (R682). -/
  | pcSample (c : Nat)
  /-- TRU_DRAIN (R688). -/
  | truDrain (n : Nat)
  /-- TRIGGER (R687). -/
  | trigger (r : Requester) (n : Nat)
  /-- RESTART (R694). -/
  | restart (r : Requester) (n : Nat)
  /-- TRU_TIME_TRIGGER (R687). -/
  | truTimeTrigger (n : Nat)
  /-- I3C_WRITE (R702). -/
  | i3cWrite (addr : Nat) (bytes : List Byte)
  /-- I3C_READ (R702). -/
  | i3cRead (addr n : Nat)
  /-- ENTDAA (R703). -/
  | entdaa (addr : Nat)
  /-- SETDASA (R703). -/
  | setdasa (static addr : Nat)
  /-- RSTDAA (R703). -/
  | rstdaa
  /-- GETPID (R703). -/
  | getpid (addr : Nat)
  /-- GETBCR (R703). -/
  | getbcr (addr : Nat)
  /-- GETDCR (R703). -/
  | getdcr (addr : Nat)
  /-- GETSTATUS (R703). -/
  | getstatus (addr : Nat)
  /-- ENEC (R703). -/
  | enec (target : Option Nat) (events : Nat)
  /-- DISEC (R703). -/
  | disec (target : Option Nat) (events : Nat)
  /-- BYPASS (R704). -/
  | bypass (tdi : List Bool)
  /-- IDCODE (R704). -/
  | idcode (tdi : List Bool)
  /-- SAMPLE_PRELOAD (R704). -/
  | samplePreload (tdi : List Bool)
  /-- EXTEST (R705). -/
  | extest (tdi : List Bool)
  /-- CLAMP (R705). -/
  | clamp (tdi : List Bool)
  /-- HIGHZ (R705). -/
  | highz (tdi : List Bool)
  /-- TEST_LOGIC_RESET (R705). -/
  | testLogicReset
  /-- CS_LD (R713). -/
  | csLd (c t : Nat)
  /-- CS_ST (R713). -/
  | csSt (c t : Nat)
  /-- XC_RETURN_COMPLETE (R336). -/
  | xcReturnComplete (id : Nat)
  /-- GRAPH_CREATE_DONE (R528). -/
  | graphCreateDone (n : Nat)
  /-- BAD_OR_OUT_OF_ORDER_PACKET (R598). -/
  | badOrOutOfOrderPacket (l : Nat) (p : Packet) (bad : Bool)
  /-- UNKNOWN_PACKET_TYPE (R608). -/
  | unknownPacketType (l : Nat) (p : Packet)
  /-- UNCORRECTABLE_CODEWORD (R600). -/
  | uncorrectableCodeword (l : Nat)
  /-- OPTICAL_LINK_CHANGE (R496). -/
  | opticalLinkChange (p : Nat) (up : Bool)
  /-- COUNTER_HOLD_END (R677). -/
  | counterHoldEnd
  /-- VAUX_WITHIN_TOLERANCE (R702). -/
  | vauxWithinTolerance
  /-- RESET_N_RISES (R712). -/
  | resetNRises
  /-- UNCORRECTABLE_UNCORE_FAULT (R617). -/
  | uncorrectableUncoreFault
deriving DecidableEq, Repr

end Sys2Proof
end

