-- ==== Sys2Proof/Decode.lean ====
section
/-! DEFINITION. The command that a word spells by the table's bits. No row of the table gives bits: the commands of this block
reach it as accesses, frames, packets and events, so no word spells one. -/

namespace Sys2Proof

/-- The command spelled by a word of `nbits` bits. -/
def decodeTableWord (_nbits _w : Nat) : Option Instr := none

end Sys2Proof
end

