-- ==== Sys2Proof/Config.lean ====
section
/-! DEFINITION. What an implementation fixes and the spec leaves open: the free values. None of them has a body, so no
proof can see what they are, and a claim holds whatever they are. -/

namespace Sys2Proof.Config

/-- The free values, numbered in the order in which the machine draws them (State.free). -/
opaque freeNat : Nat → Nat

/-- The f32 result of a function table, given as its payload, on an input, given as an f32 encoding, that R250 does not
reach: an IN_MUL that makes an infinite product of a finite input. The same on every core and every run (R7, R250). -/
opaque openFunction : List Byte → Nat → Nat

/-- Whether an RSASSA-PSS signature (RSA-3072, SHA-384) verifies: key set, signed bytes, signature (R70, R483; log
entry 10). -/
opaque rsaVerifies : List Byte → List Byte → List Byte → Bool

/-- Whether an SLH-DSA signature (SHA2-192s) verifies: key set, signed bytes, signature (R70, R483; log entry 10). -/
opaque slhVerifies : List Byte → List Byte → List Byte → Bool

/-- The identity keys' signatures over some bytes, from the fuses (R482, R483): RSASSA-PSS, then SLH-DSA. -/
opaque identitySign : List Byte → List Byte

/-- HMAC-SHA-256 under the transport key, whose SHA-384 digest the fuses hold: digest, message (R464, R490; log entry 20). -/
opaque transportHmac : List Byte → List Byte → List Byte

/-- HKDF-Extract of the transport key: digest, salt (R465, R490; log entry 20). -/
opaque transportExtract : List Byte → List Byte → List Byte

/-- The vendor firmware key set whose digest boot ROM holds (R484). -/
opaque vendorKeys : List Byte

end Sys2Proof.Config
end

