-- ==== Sys2Proof/Machine/Bits.lean ====
section
/-! DEFINITION. Bit fields, two's complement and byte order: the helpers every other file uses (R11, R12). -/

namespace Sys2Proof.Machine

/-- Bits `[hi:lo]` of `x` (R11). -/
def bitsOf (x hi lo : Nat) : Nat := (x >>> lo) % 2 ^ (hi + 1 - lo)

/-- `x` with bits `[hi:lo]` replaced by the low bits of `v` (R11). -/
def setBitsOf (x hi lo v : Nat) : Nat :=
  x - (bitsOf x hi lo) <<< lo + (v % 2 ^ (hi + 1 - lo)) <<< lo

/-- Bit `i` of `x`. -/
def bitOf (x i : Nat) : Bool := (x >>> i) % 2 == 1

/-- 1 for true, 0 for false. -/
def b2n (b : Bool) : Nat := if b then 1 else 0

/-- The two's complement value of the low `w` bits of `x`. -/
def toSigned (w x : Nat) : Int :=
  let m := x % 2 ^ w
  if 2 * m < 2 ^ w then (m : Int) else (m : Int) - (2 ^ w : Nat)

/-- The low `w` bits of the two's complement form of `x`. -/
def ofSigned (w : Nat) (x : Int) : Nat := (x % (2 ^ w : Nat)).toNat

/-- The little-endian value of some bytes (R12). -/
def leVal : List Byte → Nat
  | [] => 0
  | b :: bs => b.toNat + 256 * leVal bs

/-- `n` bytes, least significant first (R12). -/
def leBytes : Nat → Nat → List Byte
  | 0, _ => []
  | n + 1, v => BitVec.ofNat 8 v :: leBytes n (v / 256)

/-- The `n` bytes of `bs` from offset `o`; offsets past the end read 0. -/
def slice (bs : List Byte) (o n : Nat) : List Byte :=
  let t := (bs.drop o).take n
  t ++ List.replicate (n - t.length) 0#8

/-- The little-endian field of `n` bytes at offset `o` of a structure (R12). -/
def fieldAt (bs : List Byte) (o n : Nat) : Nat := leVal (slice bs o n)

/-- Whether the `n` bytes from offset `o` are all 0. -/
def zeroAt (bs : List Byte) (o n : Nat) : Bool := (slice bs o n).all (· == 0#8)

/-- `x` rounded up to a multiple of `m`. -/
def roundUp (x m : Nat) : Nat := (x + m - 1) / m * m

/-- `a / b` rounded up. -/
def ceilDiv (a b : Nat) : Nat := (a + b - 1) / b

/-- `x`, or `m` where `x` is larger. -/
def saturate (m x : Nat) : Nat := if m < x then m else x

/-- The positions of the set bits of a mask of `n` bits, ascending. -/
def maskBits (n m : Nat) : List Nat := (List.range n).filter (bitOf m)

/-- How many of the low `n` bits of `m` are set. -/
def popCount (n m : Nat) : Nat := (maskBits n m).length

/-- The mask with the given bits set. -/
def maskOf (l : List Nat) : Nat := l.foldl (fun m i => m ||| 2 ^ i) 0

/-- The first element of `l` that has the least key (the earlier on a tie). -/
def argMin {α : Type} (key : α → Nat) : List α → Option α
  | [] => none
  | x :: xs =>
    match argMin key xs with
    | none => some x
    | some y => if key y < key x then some y else some x

/-- The first element of `l` that has the greatest key (the earlier on a tie). -/
def argMax {α : Type} (key : α → Nat) : List α → Option α
  | [] => none
  | x :: xs =>
    match argMax key xs with
    | none => some x
    | some y => if key x < key y then some y else some x

/-- Nearest integer to `a / b`, halves upwards. -/
def roundDiv (a b : Nat) : Nat := (2 * a + b) / (2 * b)

/-- The bytes `bs` with `new` written over them from offset `o`. -/
def overlay (bs : List Byte) (o : Nat) (new : List Byte) : List Byte :=
  bs.take o ++ new ++ bs.drop (o + new.length)

end Sys2Proof.Machine
end

