-- ==== Sys2Proof/Machine/Num.lean ====
section
/-! DEFINITION. Number Formats: encodings, exact values, rounding, special values and error-compensating pairs (R117 to
R152). -/

namespace Sys2Proof.Machine

/-! ### Values -/

/-- The value of an element: NaN, an infinity, or a finite magnitude with a sign, which zeros keep (R122 to R126). -/
inductive Val where
  | nan
  | inf (neg : Bool)
  | fin (neg : Bool) (mag : Rat)
deriving DecidableEq, Repr

/-- The sticky flags an operation sets (R154). -/
structure Flags where
  of : Bool
  uf : Bool
  ix : Bool
  iv : Bool
deriving DecidableEq, Repr

def Flags.zero : Flags := ⟨false, false, false, false⟩
def Flags.invalid : Flags := ⟨false, false, false, true⟩
def Flags.overflow : Flags := ⟨true, false, true, false⟩

def Flags.or (a b : Flags) : Flags := ⟨a.of || b.of, a.uf || b.uf, a.ix || b.ix, a.iv || b.iv⟩

/-- The flags in the order of FLAGS bits [3:0]: IV, IX, UF, OF (R159). -/
def Flags.bits (f : Flags) : Nat := b2n f.of + 2 * b2n f.uf + 4 * b2n f.ix + 8 * b2n f.iv

/-- 2 to an integer power. -/
def pow2 (e : Int) : Rat := if 0 ≤ e then ((2 ^ e.toNat : Nat) : Rat) else 1 / ((2 ^ (-e).toNat : Nat) : Rat)

/-- The signed rational of a finite value; 0 for the others. -/
def Val.rat : Val → Rat
  | .fin n m => if n then -m else m
  | _ => 0

def Val.ofRat (q : Rat) : Val := .fin (decide (q < 0)) (if q < 0 then -q else q)

def Val.isNan : Val → Bool
  | .nan => true
  | _ => false

def Val.isZero : Val → Bool
  | .fin _ m => m == 0
  | _ => false

def Val.isInf : Val → Bool
  | .inf _ => true
  | _ => false

def Val.isFin : Val → Bool
  | .fin _ _ => true
  | _ => false

def Val.neg : Val → Bool
  | .nan => false
  | .inf n => n
  | .fin n _ => n

def Val.negate : Val → Val
  | .nan => .nan
  | .inf n => .inf (!n)
  | .fin n m => .fin (!n) m

def Val.abs : Val → Val
  | .nan => .nan
  | .inf _ => .inf false
  | .fin _ m => .fin false m

def Val.zero : Val := .fin false 0
def Val.one : Val := .fin false 1

/-! ### Formats -/

/-- How a floating-point format ends: IEEE-like specials, one NaN and no infinity, or neither (R124, R125). -/
inductive Specials where
  | ieee | oneNan | noSpecials
deriving DecidableEq, Repr

/-- The parameters of a floating-point format (R122). -/
structure FloatFmt where
  ebits : Nat
  mbits : Nat
  bias : Int
  specials : Specials
deriving DecidableEq, Repr

def fmtF4 : FloatFmt := ⟨2, 1, 1, .noSpecials⟩
def fmtF8e4 : FloatFmt := ⟨4, 3, 7, .oneNan⟩
def fmtF8e5 : FloatFmt := ⟨5, 2, 15, .ieee⟩
def fmtF16 : FloatFmt := ⟨5, 10, 15, .ieee⟩
def fmtBf16 : FloatFmt := ⟨8, 7, 127, .ieee⟩
def fmtF32 : FloatFmt := ⟨8, 23, 127, .ieee⟩

/-- Format codes (R117). -/
def cI4 : Nat := 0x0
def cF4 : Nat := 0x1
def cI8 : Nat := 0x2
def cF8e4 : Nat := 0x3
def cF8e5 : Nat := 0x4
def cF16 : Nat := 0x5
def cBf16 : Nat := 0x6
def cF32 : Nat := 0x7
def cCb4 : Nat := 0x8
def cCb8 : Nat := 0x9
def cF16p : Nat := 0xA
def cBf16p : Nat := 0xB

/-- The floating-point format of a code, if it is one. -/
def floatOf (c : Nat) : Option FloatFmt :=
  match c with
  | 0x1 => some fmtF4
  | 0x3 => some fmtF8e4
  | 0x4 => some fmtF8e5
  | 0x5 => some fmtF16
  | 0x6 => some fmtBf16
  | 0x7 => some fmtF32
  | _ => none

/-- Element bits of a format code (R117). -/
def elemBits (c : Nat) : Nat :=
  match c with
  | 0x0 | 0x1 | 0x8 => 4
  | 0x2 | 0x3 | 0x4 | 0x9 => 8
  | 0x5 | 0x6 => 16
  | _ => 32

def isInt (c : Nat) : Bool := c == cI4 || c == cI8
def isPair (c : Nat) : Bool := c == cF16p || c == cBf16p
def isCb (c : Nat) : Bool := c == cCb4 || c == cCb8

/-- The part format of a pair. -/
def partFmt (c : Nat) : FloatFmt := if c = cF16p then fmtF16 else fmtBf16

/-- The largest finite magnitude (R122). -/
def FloatFmt.maxFinite (f : FloatFmt) : Rat :=
  let emax : Int := match f.specials with
    | .ieee => 2 ^ f.ebits - 2 - f.bias
    | _ => 2 ^ f.ebits - 1 - f.bias
  let top : Nat := match f.specials with
    | .oneNan => 2 ^ (f.mbits + 1) - 2
    | _ => 2 ^ (f.mbits + 1) - 1
  (top : Rat) * pow2 (emax - f.mbits)

/-- The encoding of the largest finite magnitude. -/
def FloatFmt.maxBits (f : FloatFmt) : Nat :=
  match f.specials with
  | .ieee => (2 ^ f.ebits - 1) * 2 ^ f.mbits - 1
  | .oneNan => 2 ^ (f.ebits + f.mbits) - 2
  | .noSpecials => 2 ^ (f.ebits + f.mbits) - 1

/-- The canonical NaN; the largest finite of a format that has none is never asked for (R125, R126). -/
def FloatFmt.nanBits (f : FloatFmt) : Nat :=
  match f.specials with
  | .ieee => (2 ^ f.ebits - 1) * 2 ^ f.mbits + 2 ^ (f.mbits - 1)
  | .oneNan => 2 ^ (f.ebits + f.mbits) - 1
  | .noSpecials => 0

def FloatFmt.infBits (f : FloatFmt) : Nat := (2 ^ f.ebits - 1) * 2 ^ f.mbits

/-- The value of an encoding (R122, R124, R125). -/
def FloatFmt.decode (f : FloatFmt) (x : Nat) : Val :=
  let s := bitOf x (f.ebits + f.mbits)
  let e := x / 2 ^ f.mbits % 2 ^ f.ebits
  let m := x % 2 ^ f.mbits
  let top := e == 2 ^ f.ebits - 1
  if top && f.specials == .ieee then (if m = 0 then .inf s else .nan)
  else if top && f.specials == .oneNan && m == 2 ^ f.mbits - 1 then .nan
  else if e = 0 then .fin s ((m : Rat) * pow2 (1 - f.bias - f.mbits))
  else .fin s (((2 ^ f.mbits + m : Nat) : Rat) * pow2 ((e : Int) - f.bias - f.mbits))

/-- The f32 at an offset. -/
def f32At (bs : List Byte) (o : Nat) : Val := fmtF32.decode (fieldAt bs o 4)

/-! ### Rounding (R133 to R138) -/

/-- RNE, or stochastic rounding with a 16-bit draw (R133, R138). -/
inductive Rounding where
  | rne
  | sr (r : Nat)
deriving DecidableEq, Repr

/-- The exponent of a positive rational: the greatest `e` with 2^e at most it. -/
def ratLog2 (q : Rat) : Int :=
  let e : Int := (Nat.log2 q.num.natAbs : Int) - (Nat.log2 q.den : Int)
  if q < pow2 e then e - 1 else if pow2 (e + 1) ≤ q then e + 1 else e

/-- A non-negative rational rounded to a whole number (R133, R138). -/
def roundWhole (mode : Rounding) (q : Rat) : Nat :=
  let k := q.floor.toNat
  let rem := q - (k : Rat)
  if rem = 0 then k else
  match mode with
  | .rne => if rem > 1 / 2 ∨ (rem = 1 / 2 ∧ k % 2 = 1) then k + 1 else k
  | .sr r => if 2 ^ 16 ≤ (rem * 2 ^ 16).floor.toNat + r then k + 1 else k

/-- Exponent of the unit in the last place at a magnitude. -/
def FloatFmt.ulpExp (f : FloatFmt) (q : Rat) : Int :=
  if q = 0 then 1 - f.bias - f.mbits else max (ratLog2 q) (1 - f.bias) - f.mbits

/-- Whether a magnitude is representable with an unbounded exponent range. -/
def FloatFmt.exact (f : FloatFmt) (q : Rat) : Bool := (q / pow2 (f.ulpExp q)).den == 1

/-- A finite value rounded once into a floating-point format, with the flags it sets (R134 to R137). -/
def FloatFmt.round (f : FloatFmt) (sat : Bool) (mode : Rounding) (neg : Bool) (q : Rat) : Nat × Flags :=
  let sign := if neg then 2 ^ (f.ebits + f.mbits) else 0
  if q = 0 then (sign, Flags.zero) else
  let u := f.ulpExp q
  let k := roundWhole mode (q / pow2 u)
  let r := (k : Rat) * pow2 u
  if f.maxFinite < r then
    (sign + (if f.specials == .ieee && !sat then f.infBits else f.maxBits), Flags.overflow)
  else
    let ix := r != q
    let tiny := decide (q < pow2 (1 - f.bias))
    (sign + ((u + f.mbits - (1 - f.bias)).toNat * 2 ^ f.mbits + k), ⟨false, tiny && ix, ix, false⟩)

/-- A value written into a floating-point format (R134, R149). -/
def FloatFmt.encode (f : FloatFmt) (sat : Bool) (mode : Rounding) : Val → Nat × Flags
  | .nan => if f.specials == .noSpecials then (0, Flags.invalid) else (f.nanBits, Flags.zero)
  | .inf n =>
    let sign := if n then 2 ^ (f.ebits + f.mbits) else 0
    if f.specials == .ieee && !sat then (sign + f.infBits, Flags.zero) else (sign + f.maxBits, Flags.overflow)
  | .fin n q => f.round sat mode n q

/-- A value written into a two's complement integer of `w` bits (R121, R134, R149). -/
def encodeInt (w : Nat) (mode : Rounding) : Val → Nat × Flags
  | .nan => (0, Flags.invalid)
  | .inf n => (if n then 2 ^ (w - 1) else 2 ^ (w - 1) - 1, Flags.overflow)
  | .fin n q =>
    let k := roundWhole mode q
    if n then
      if 2 ^ (w - 1) < k then (2 ^ (w - 1), Flags.overflow)
      else (ofSigned w (-(k : Int)), ⟨false, false, decide ((k : Rat) ≠ q), false⟩)
    else if 2 ^ (w - 1) - 1 < k then (2 ^ (w - 1) - 1, Flags.overflow)
    else (k, ⟨false, false, decide ((k : Rat) ≠ q), false⟩)

/-- A pair formed from a value: hi := RNE(x), lo := RNE(x − hi) (R149 to R152). -/
def encodePair (c : Nat) (sat : Bool) (v : Val) : Nat × Flags :=
  let f := partFmt c
  match v with
  | .nan => (f.nanBits * 2 ^ 16, Flags.zero)
  | .inf _ => let (h, fl) := f.encode sat .rne v; (h * 2 ^ 16, fl)
  | .fin n q =>
    let (h, fl) := f.round sat .rne n q
    if fl.of then (h * 2 ^ 16, Flags.overflow) else
    let d := v.rat - (f.decode h).rat
    let (l, _) := f.round sat .rne (if d = 0 then false else decide (d < 0)) (if d < 0 then -d else d)
    let sum := (f.decode h).rat + (f.decode l).rat
    let ix := decide (sum ≠ v.rat)
    (h * 2 ^ 16 + l, ⟨false, ix && decide (q ≠ 0 ∧ q < pow2 (1 - f.bias)), ix, false⟩)

/-- A value written into the format of code `c` (R117, R146 to R150). -/
def encode (c : Nat) (sat : Bool) (mode : Rounding) (v : Val) : Nat × Flags :=
  if isPair c then encodePair c sat v
  else if c = cI4 then encodeInt 4 mode v
  else if c = cI8 then encodeInt 8 mode v
  else match floatOf c with
    | some f => f.encode sat mode v
    | none => (0, Flags.zero)

/-- Whether stochastic rounding into code `c` would consume a draw: the value is not exactly representable (R138). -/
def drawsFor (c : Nat) (v : Val) : Bool :=
  match v with
  | .fin _ q => if isInt c then q.den != 1 else match floatOf c with
    | some f => q != 0 && !f.exact q
    | none => false
  | _ => false

/-! ### Arithmetic on values (R137, R142 to R145) -/

/-- A sum, and whether it forms a NaN from operands that are none (R137, R142). -/
def Val.add (a b : Val) : Val × Bool :=
  match a, b with
  | .nan, _ => (.nan, false)
  | _, .nan => (.nan, false)
  | .inf x, .inf y => if x = y then (.inf x, false) else (.nan, true)
  | .inf x, _ => (.inf x, false)
  | _, .inf y => (.inf y, false)
  | .fin x p, .fin y q =>
    if p = 0 ∧ q = 0 then (.fin (x && y) 0, false)
    else
      let r := (if x then -p else p) + (if y then -q else q)
      (if r = 0 then .fin false 0 else Val.ofRat r, false)

/-- A product, and whether it is 0 × ∞ (R137, R142). -/
def Val.mul (a b : Val) : Val × Bool :=
  match a, b with
  | .nan, _ => (.nan, false)
  | _, .nan => (.nan, false)
  | .inf x, .inf y => (.inf (x != y), false)
  | .inf x, .fin y q => if q = 0 then (.nan, true) else (.inf (x != y), false)
  | .fin x p, .inf y => if p = 0 then (.nan, true) else (.inf (x != y), false)
  | .fin x p, .fin y q => (.fin (x != y) (p * q), false)

/-- A fused multiply-add (R142). -/
def Val.fma (a b c : Val) : Val × Bool :=
  let (p, i) := a.mul b
  let (r, j) := p.add c
  (r, i || j)

/-- A quotient, with a zero divisor's infinity (R145): the value, and whether it is invalid. -/
def Val.div (a b : Val) : Val × Bool :=
  match a, b with
  | .nan, _ => (.nan, false)
  | _, .nan => (.nan, false)
  | .inf _, .inf _ => (.nan, true)
  | .inf x, .fin y _ => (.inf (x != y), false)
  | .fin x _, .inf y => (.fin (x != y) 0, false)
  | .fin x p, .fin y q =>
    if q = 0 then (if p = 0 then (.nan, true) else (.inf (x != y), false)) else (.fin (x != y) (p / q), false)

/-- Whether `a` is less than `b`; false with a NaN (R144). -/
def Val.lt (a b : Val) : Bool :=
  match a, b with
  | .nan, _ => false
  | _, .nan => false
  | .inf x, .inf y => x && !y
  | .inf x, _ => x
  | _, .inf y => !y
  | x, y => decide (x.rat < y.rat)

/-- Whether two values compare equal; zeros of either sign do (R143, R144). -/
def Val.eq (a b : Val) : Bool :=
  match a, b with
  | .nan, _ => false
  | _, .nan => false
  | .inf x, .inf y => x == y
  | .fin _ _, .fin _ _ => a.rat == b.rat
  | _, _ => false

/-- The maximum (R143). -/
def Val.max (a b : Val) : Val :=
  if a.isNan || b.isNan then .nan
  else if a.isZero && b.isZero then .fin (a.neg && b.neg) 0
  else if a.lt b then b else a

/-- The minimum (R143). -/
def Val.min (a b : Val) : Val :=
  if a.isNan || b.isNan then .nan
  else if a.isZero && b.isZero then .fin (a.neg || b.neg) 0
  else if b.lt a then b else a

/-! ### Reading elements -/

/-- The value of an encoding of code `c`; a pair is hi + lo (R121, R122, R153). -/
def decodeVal (c x : Nat) : Val :=
  if c = cI4 then Val.ofRat (toSigned 4 x : Rat)
  else if c = cI8 then Val.ofRat (toSigned 8 x : Rat)
  else if isPair c then
    let f := partFmt c
    ((f.decode (x / 2 ^ 16 % 2 ^ 16)).add (f.decode (x % 2 ^ 16))).1
  else match floatOf c with
    | some f => f.decode x
    | none => .nan

/-- A value rounded to f32 by RNE, as the VXE, the SFU and the RTE widen a pair (R153). -/
def toF32 (v : Val) : Val := fmtF32.decode (fmtF32.encode false .rne v).1

/-- The value of an encoding as the VXE, the SFU and the RTE read it (R153). -/
def decodeF32 (c x : Nat) : Val := if isPair c then toF32 (decodeVal c x) else decodeVal c x

/-- An e8s scale (R128). -/
def decodeE8s (e : Nat) : Val := if e = 0xFF then .nan else .fin false (pow2 ((e : Int) - 127))

/-- A scale of scale code 1 e8s or 2 s16; an infinite s16 scale acts as a NaN scale (R128, R129). -/
def decodeScale (code x : Nat) : Val :=
  if code = 1 then decodeE8s x
  else match fmtBf16.decode x with
    | .inf _ => .nan
    | v => v

/-- An element times its scale, exactly, and whether it sets the invalid flag: a NaN scale does, and 0 × ∞ (R129, R130). -/
def scaled (v scale : Val) : Val × Bool :=
  if scale.isNan then (.nan, true) else v.mul scale

/-- Element `i` of a tensor in memory, from the bytes of its row (R119, R120). -/
def elemAt (bs : List Byte) (bits i : Nat) : Nat :=
  if bits = 4 then bitsOf (fieldAt bs (i / 2) 1) (4 * (i % 2) + 3) (4 * (i % 2))
  else fieldAt bs (i * (bits / 8)) (bits / 8)

/-- Bytes of a row of `n` elements (R119). -/
def rowBytes (bits n : Nat) : Nat := (bits * n + 7) / 8

/-- Elements packed into a row; an odd last 4-bit element leaves bits [7:4] at 0 (R119, R120). -/
def packRow (bits : Nat) (l : List Nat) : List Byte :=
  let n := rowBytes bits l.length
  if bits = 4 then
    (List.range n).map (fun k => BitVec.ofNat 8 (l.getD (2 * k) 0 % 16 + 16 * (l.getD (2 * k + 1) 0 % 16)))
  else l.flatMap (leBytes (bits / 8))

/-- f32 addition with one RNE rounding and NaN per R142, as MO.AMO FADD performs it (R422). -/
def f32Add (a b : Word) : Word :=
  let (v, _) := (fmtF32.decode a.toNat).add (fmtF32.decode b.toNat)
  BitVec.ofNat 32 (fmtF32.encode false .rne v).1

end Sys2Proof.Machine
end

