-- ==== Sys2Proof/Machine/RegTypes.lean ====
section
/-! DEFINITION. The kinds of data that describe a control-space register: its place, its fields, the access code and the
reset value of each field (R13, R14, R18). -/

namespace Sys2Proof.Machine

/-- A register and its replicated instances: instance `(i, j)` lies at `base + s1 * i + s2 * j` (R717, R718). -/
structure Reg where
  base : Nat
  n1 : Nat
  s1 : Nat
  n2 : Nat
  s2 : Nat
deriving DecidableEq, Repr

/-- A named field: bits `[hi:lo]` of a register. -/
structure Fld where
  reg : Reg
  hi : Nat
  lo : Nat
deriving DecidableEq, Repr

/-- The access codes of R14. -/
inductive Access where
  | ro | rw | ow | w1c | w1s | wo | rc
deriving DecidableEq, Repr

/-- A field with its access code and its reset value. -/
structure FieldDesc where
  fld : Fld
  access : Access
  reset : Nat
deriving DecidableEq, Repr

/-- A register with its fields; bits that no field names are reserved (R17). -/
structure RegDesc where
  reg : Reg
  fields : List FieldDesc
deriving DecidableEq, Repr

end Sys2Proof.Machine
end

