-- ==== Sys2Proof/Machine/Registers.lean ====
section
/-! DEFINITION. The control-space registers: one `Reg` per register of the spec's layout tables (address, instances,
strides, R717, R718), one `Fld` per named field, and the access code and reset value of each field (R13, R14, R18).
Bits that no field names are reserved (R17). A reset the spec gives as a dash is 0 here (log entry 1). -/

namespace Sys2Proof.Machine

/-- `PWR_RATE_UNC` (R42). -/
def PWR_RATE_UNC : Reg := ⟨0x6100, 1, 0x0, 1, 0x0⟩
def PWR_RATE_UNC_VALID : Fld := ⟨PWR_RATE_UNC, 31, 31⟩
def PWR_RATE_UNC_CAPPED : Fld := ⟨PWR_RATE_UNC, 30, 30⟩
def PWR_RATE_UNC_RATIO : Fld := ⟨PWR_RATE_UNC, 27, 16⟩
def PWR_RATE_UNC_RATE_MHZ : Fld := ⟨PWR_RATE_UNC, 15, 0⟩
/-- `PWR_RATE_G` (R42). -/
def PWR_RATE_G : Reg := ⟨0x6104, 16, 0x4, 1, 0x0⟩
def PWR_RATE_G_VALID : Fld := ⟨PWR_RATE_G, 31, 31⟩
def PWR_RATE_G_CAPPED : Fld := ⟨PWR_RATE_G, 30, 30⟩
def PWR_RATE_G_RATIO : Fld := ⟨PWR_RATE_G, 27, 16⟩
def PWR_RATE_G_RATE_MHZ : Fld := ⟨PWR_RATE_G, 15, 0⟩
/-- `PWR_RATE_CORE` (R42). -/
def PWR_RATE_CORE : Reg := ⟨0x6200, 128, 0x4, 1, 0x0⟩
def PWR_RATE_CORE_VALID : Fld := ⟨PWR_RATE_CORE, 31, 31⟩
def PWR_RATE_CORE_CAPPED : Fld := ⟨PWR_RATE_CORE, 30, 30⟩
def PWR_RATE_CORE_RATIO : Fld := ⟨PWR_RATE_CORE, 27, 16⟩
def PWR_RATE_CORE_RATE_MHZ : Fld := ⟨PWR_RATE_CORE, 15, 0⟩
/-- `PWR_RATE_LOW_UNC` (R43). -/
def PWR_RATE_LOW_UNC : Reg := ⟨0x6144, 1, 0x0, 1, 0x0⟩
def PWR_RATE_LOW_UNC_VALID : Fld := ⟨PWR_RATE_LOW_UNC, 31, 31⟩
def PWR_RATE_LOW_UNC_LOW_MHZ : Fld := ⟨PWR_RATE_LOW_UNC, 15, 0⟩
/-- `PWR_RATE_LOW_G` (R43). -/
def PWR_RATE_LOW_G : Reg := ⟨0x6148, 16, 0x4, 1, 0x0⟩
def PWR_RATE_LOW_G_VALID : Fld := ⟨PWR_RATE_LOW_G, 31, 31⟩
def PWR_RATE_LOW_G_LOW_MHZ : Fld := ⟨PWR_RATE_LOW_G, 15, 0⟩
/-- `PWR_RATE_DEV` (R44). -/
def PWR_RATE_DEV : Reg := ⟨0x6400, 1, 0x0, 1, 0x0⟩
def PWR_RATE_DEV_VALID : Fld := ⟨PWR_RATE_DEV, 31, 31⟩
def PWR_RATE_DEV_MEAN_RATIO : Fld := ⟨PWR_RATE_DEV, 27, 16⟩
def PWR_RATE_DEV_LIVE_CORES : Fld := ⟨PWR_RATE_DEV, 7, 0⟩
/-- `SVY_CTRL` (R112). -/
def SVY_CTRL : Reg := ⟨0x0, 1, 0x0, 1, 0x0⟩
def SVY_CTRL_ABORT : Fld := ⟨SVY_CTRL, 2, 2⟩
def SVY_CTRL_COMMIT : Fld := ⟨SVY_CTRL, 1, 1⟩
def SVY_CTRL_STAGE : Fld := ⟨SVY_CTRL, 0, 0⟩
/-- `SVY_STATUS` (R113). -/
def SVY_STATUS : Reg := ⟨0x4, 1, 0x0, 1, 0x0⟩
def SVY_STATUS_STATE : Fld := ⟨SVY_STATUS, 31, 28⟩
def SVY_STATUS_ERR_CODE : Fld := ⟨SVY_STATUS, 23, 16⟩
def SVY_STATUS_ERR_SECTION : Fld := ⟨SVY_STATUS, 15, 0⟩
/-- `SVY_STAGE_LEN` (R114). -/
def SVY_STAGE_LEN : Reg := ⟨0x8, 1, 0x0, 1, 0x0⟩
def SVY_STAGE_LEN_LEN : Fld := ⟨SVY_STAGE_LEN, 25, 0⟩
/-- `SVY_STAGE_BASE_LO` (R114). -/
def SVY_STAGE_BASE_LO : Reg := ⟨0xc, 1, 0x0, 1, 0x0⟩
def SVY_STAGE_BASE_LO_ADDR : Fld := ⟨SVY_STAGE_BASE_LO, 31, 0⟩
/-- `SVY_STAGE_BASE_HI` (R114). -/
def SVY_STAGE_BASE_HI : Reg := ⟨0x10, 1, 0x0, 1, 0x0⟩
def SVY_STAGE_BASE_HI_ADDR : Fld := ⟨SVY_STAGE_BASE_HI, 31, 0⟩
/-- `SVY_ACTIVE_ID` (R114). -/
def SVY_ACTIVE_ID : Reg := ⟨0x14, 1, 0x0, 1, 0x0⟩
def SVY_ACTIVE_ID_ID : Fld := ⟨SVY_ACTIVE_ID, 31, 0⟩
/-- `SVY_ACTIVE_VER` (R114). -/
def SVY_ACTIVE_VER : Reg := ⟨0x18, 1, 0x0, 1, 0x0⟩
def SVY_ACTIVE_VER_VER : Fld := ⟨SVY_ACTIVE_VER, 31, 0⟩
/-- `SVY_FLASH` (R114). -/
def SVY_FLASH : Reg := ⟨0x1c, 1, 0x0, 1, 0x0⟩
def SVY_FLASH_ACTIVE : Fld := ⟨SVY_FLASH, 31, 31⟩
def SVY_FLASH_A_VALID : Fld := ⟨SVY_FLASH, 30, 30⟩
def SVY_FLASH_B_VALID : Fld := ⟨SVY_FLASH, 29, 29⟩
/-- `SVY_REFUSALS` (R114). -/
def SVY_REFUSALS : Reg := ⟨0x20, 1, 0x0, 1, 0x0⟩
def SVY_REFUSALS_COUNT : Fld := ⟨SVY_REFUSALS, 31, 0⟩
/-- `SVY_DIGEST` (R114). -/
def SVY_DIGEST : Reg := ⟨0x40, 12, 0x4, 1, 0x0⟩
def SVY_DIGEST_WORD : Fld := ⟨SVY_DIGEST, 31, 0⟩
/-- `CHB_STATE` (R116). -/
def CHB_STATE : Reg := ⟨0x1000, 16, 0x100, 1, 0x0⟩
def CHB_STATE_STATE : Fld := ⟨CHB_STATE, 31, 28⟩
def CHB_STATE_KIND : Fld := ⟨CHB_STATE, 27, 24⟩
def CHB_STATE_GALLERIES : Fld := ⟨CHB_STATE, 15, 0⟩
/-- `CHB_LIVE` (R116). -/
def CHB_LIVE : Reg := ⟨0x1004, 16, 0x100, 1, 0x0⟩
def CHB_LIVE_LIVE_GALLERIES : Fld := ⟨CHB_LIVE, 31, 16⟩
def CHB_LIVE_LIVE_CORES : Fld := ⟨CHB_LIVE, 7, 0⟩
/-- `CHB_STACKS` (R116). -/
def CHB_STACKS : Reg := ⟨0x1008, 16, 0x100, 1, 0x0⟩
def CHB_STACKS_STACKS : Fld := ⟨CHB_STACKS, 31, 16⟩
def CHB_STACKS_PER_STACK : Fld := ⟨CHB_STACKS, 15, 8⟩
/-- `CHB_PORTS` (R116). -/
def CHB_PORTS : Reg := ⟨0x100c, 16, 0x100, 1, 0x0⟩
def CHB_PORTS_OWNED : Fld := ⟨CHB_PORTS, 31, 16⟩
def CHB_PORTS_SHARED : Fld := ⟨CHB_PORTS, 15, 0⟩
/-- `CHB_BUDGET` (R116). -/
def CHB_BUDGET : Reg := ⟨0x1010, 16, 0x100, 1, 0x0⟩
def CHB_BUDGET_POWER_W : Fld := ⟨CHB_BUDGET, 31, 16⟩
def CHB_BUDGET_LOCK_OR_WEIGHT : Fld := ⟨CHB_BUDGET, 15, 0⟩
/-- `CHB_KV` (R116). -/
def CHB_KV : Reg := ⟨0x1014, 16, 0x100, 1, 0x0⟩
def CHB_KV_KV_GIB : Fld := ⟨CHB_KV, 31, 16⟩
/-- `CHB_LOADS` (R116). -/
def CHB_LOADS : Reg := ⟨0x1018, 16, 0x100, 1, 0x0⟩
def CHB_LOADS_COUNT : Fld := ⟨CHB_LOADS, 31, 0⟩
/-- `CHB_ZERO` (R116). -/
def CHB_ZERO : Reg := ⟨0x101c, 16, 0x100, 1, 0x0⟩
def CHB_ZERO_DONE : Fld := ⟨CHB_ZERO, 31, 31⟩
def CHB_ZERO_GRANULES_LEFT : Fld := ⟨CHB_ZERO, 15, 0⟩
/-- `CHB_DIGEST` (R116). -/
def CHB_DIGEST : Reg := ⟨0x1020, 16, 0x100, 12, 0x4⟩
def CHB_DIGEST_WORD : Fld := ⟨CHB_DIGEST, 31, 0⟩
/-- `MXE_FLAGS` (R159). -/
def MXE_FLAGS : Reg := ⟨0x200040, 128, 0x10000, 1, 0x0⟩
def MXE_FLAGS_FIRST_STRAND : Fld := ⟨MXE_FLAGS, 30, 18⟩
def MXE_FLAGS_IV : Fld := ⟨MXE_FLAGS, 3, 3⟩
def MXE_FLAGS_IX : Fld := ⟨MXE_FLAGS, 2, 2⟩
def MXE_FLAGS_UF : Fld := ⟨MXE_FLAGS, 1, 1⟩
def MXE_FLAGS_OF : Fld := ⟨MXE_FLAGS, 0, 0⟩
/-- `MXE_FLAGS_RC` (R159). -/
def MXE_FLAGS_RC : Reg := ⟨0x200044, 128, 0x10000, 1, 0x0⟩
def MXE_FLAGS_RC_FIRST_STRAND : Fld := ⟨MXE_FLAGS_RC, 30, 18⟩
def MXE_FLAGS_RC_IV : Fld := ⟨MXE_FLAGS_RC, 3, 3⟩
def MXE_FLAGS_RC_IX : Fld := ⟨MXE_FLAGS_RC, 2, 2⟩
def MXE_FLAGS_RC_UF : Fld := ⟨MXE_FLAGS_RC, 1, 1⟩
def MXE_FLAGS_RC_OF : Fld := ⟨MXE_FLAGS_RC, 0, 0⟩
/-- `VXE_FLAGS` (R159). -/
def VXE_FLAGS : Reg := ⟨0x201040, 128, 0x10000, 1, 0x0⟩
def VXE_FLAGS_FIRST_STRAND : Fld := ⟨VXE_FLAGS, 30, 18⟩
def VXE_FLAGS_IV : Fld := ⟨VXE_FLAGS, 3, 3⟩
def VXE_FLAGS_IX : Fld := ⟨VXE_FLAGS, 2, 2⟩
def VXE_FLAGS_UF : Fld := ⟨VXE_FLAGS, 1, 1⟩
def VXE_FLAGS_OF : Fld := ⟨VXE_FLAGS, 0, 0⟩
/-- `VXE_FLAGS_RC` (R159). -/
def VXE_FLAGS_RC : Reg := ⟨0x201044, 128, 0x10000, 1, 0x0⟩
def VXE_FLAGS_RC_FIRST_STRAND : Fld := ⟨VXE_FLAGS_RC, 30, 18⟩
def VXE_FLAGS_RC_IV : Fld := ⟨VXE_FLAGS_RC, 3, 3⟩
def VXE_FLAGS_RC_IX : Fld := ⟨VXE_FLAGS_RC, 2, 2⟩
def VXE_FLAGS_RC_UF : Fld := ⟨VXE_FLAGS_RC, 1, 1⟩
def VXE_FLAGS_RC_OF : Fld := ⟨VXE_FLAGS_RC, 0, 0⟩
/-- `SFU_FLAGS` (R159). -/
def SFU_FLAGS : Reg := ⟨0x202040, 128, 0x10000, 1, 0x0⟩
def SFU_FLAGS_FIRST_STRAND : Fld := ⟨SFU_FLAGS, 30, 18⟩
def SFU_FLAGS_IV : Fld := ⟨SFU_FLAGS, 3, 3⟩
def SFU_FLAGS_IX : Fld := ⟨SFU_FLAGS, 2, 2⟩
def SFU_FLAGS_UF : Fld := ⟨SFU_FLAGS, 1, 1⟩
def SFU_FLAGS_OF : Fld := ⟨SFU_FLAGS, 0, 0⟩
/-- `SFU_FLAGS_RC` (R159). -/
def SFU_FLAGS_RC : Reg := ⟨0x202044, 128, 0x10000, 1, 0x0⟩
def SFU_FLAGS_RC_FIRST_STRAND : Fld := ⟨SFU_FLAGS_RC, 30, 18⟩
def SFU_FLAGS_RC_IV : Fld := ⟨SFU_FLAGS_RC, 3, 3⟩
def SFU_FLAGS_RC_IX : Fld := ⟨SFU_FLAGS_RC, 2, 2⟩
def SFU_FLAGS_RC_UF : Fld := ⟨SFU_FLAGS_RC, 1, 1⟩
def SFU_FLAGS_RC_OF : Fld := ⟨SFU_FLAGS_RC, 0, 0⟩
/-- `ATU_FLAGS` (R159). -/
def ATU_FLAGS : Reg := ⟨0x203040, 128, 0x10000, 1, 0x0⟩
def ATU_FLAGS_FIRST_STRAND : Fld := ⟨ATU_FLAGS, 30, 18⟩
def ATU_FLAGS_IV : Fld := ⟨ATU_FLAGS, 3, 3⟩
def ATU_FLAGS_IX : Fld := ⟨ATU_FLAGS, 2, 2⟩
def ATU_FLAGS_UF : Fld := ⟨ATU_FLAGS, 1, 1⟩
def ATU_FLAGS_OF : Fld := ⟨ATU_FLAGS, 0, 0⟩
/-- `ATU_FLAGS_RC` (R159). -/
def ATU_FLAGS_RC : Reg := ⟨0x203044, 128, 0x10000, 1, 0x0⟩
def ATU_FLAGS_RC_FIRST_STRAND : Fld := ⟨ATU_FLAGS_RC, 30, 18⟩
def ATU_FLAGS_RC_IV : Fld := ⟨ATU_FLAGS_RC, 3, 3⟩
def ATU_FLAGS_RC_IX : Fld := ⟨ATU_FLAGS_RC, 2, 2⟩
def ATU_FLAGS_RC_UF : Fld := ⟨ATU_FLAGS_RC, 1, 1⟩
def ATU_FLAGS_RC_OF : Fld := ⟨ATU_FLAGS_RC, 0, 0⟩
/-- `RTE_FLAGS` (R159). -/
def RTE_FLAGS : Reg := ⟨0x101040, 16, 0x10000, 1, 0x0⟩
def RTE_FLAGS_FIRST_STRAND : Fld := ⟨RTE_FLAGS, 30, 18⟩
def RTE_FLAGS_IV : Fld := ⟨RTE_FLAGS, 3, 3⟩
def RTE_FLAGS_IX : Fld := ⟨RTE_FLAGS, 2, 2⟩
def RTE_FLAGS_UF : Fld := ⟨RTE_FLAGS, 1, 1⟩
def RTE_FLAGS_OF : Fld := ⟨RTE_FLAGS, 0, 0⟩
/-- `RTE_FLAGS_RC` (R159). -/
def RTE_FLAGS_RC : Reg := ⟨0x101044, 16, 0x10000, 1, 0x0⟩
def RTE_FLAGS_RC_FIRST_STRAND : Fld := ⟨RTE_FLAGS_RC, 30, 18⟩
def RTE_FLAGS_RC_IV : Fld := ⟨RTE_FLAGS_RC, 3, 3⟩
def RTE_FLAGS_RC_IX : Fld := ⟨RTE_FLAGS_RC, 2, 2⟩
def RTE_FLAGS_RC_UF : Fld := ⟨RTE_FLAGS_RC, 1, 1⟩
def RTE_FLAGS_RC_OF : Fld := ⟨RTE_FLAGS_RC, 0, 0⟩
/-- `MXE_SR_SEED_LO` (R162). -/
def MXE_SR_SEED_LO : Reg := ⟨0x200048, 128, 0x10000, 1, 0x0⟩
def MXE_SR_SEED_LO_SEED : Fld := ⟨MXE_SR_SEED_LO, 31, 0⟩
/-- `VXE_SR_SEED_LO` (R162). -/
def VXE_SR_SEED_LO : Reg := ⟨0x201048, 128, 0x10000, 1, 0x0⟩
def VXE_SR_SEED_LO_SEED : Fld := ⟨VXE_SR_SEED_LO, 31, 0⟩
/-- `MXE_SR_SEED_HI` (R162). -/
def MXE_SR_SEED_HI : Reg := ⟨0x20004c, 128, 0x10000, 1, 0x0⟩
def MXE_SR_SEED_HI_SEED : Fld := ⟨MXE_SR_SEED_HI, 31, 0⟩
/-- `VXE_SR_SEED_HI` (R162). -/
def VXE_SR_SEED_HI : Reg := ⟨0x20104c, 128, 0x10000, 1, 0x0⟩
def VXE_SR_SEED_HI_SEED : Fld := ⟨VXE_SR_SEED_HI, 31, 0⟩
/-- `CDC_SLOT_SEL` (R198). -/
def CDC_SLOT_SEL : Reg := ⟨0x100000, 16, 0x10000, 1, 0x0⟩
def CDC_SLOT_SEL_SLOT : Fld := ⟨CDC_SLOT_SEL, 8, 0⟩
/-- `CDC_SLOT_INFO` (R198). -/
def CDC_SLOT_INFO : Reg := ⟨0x100004, 16, 0x10000, 1, 0x0⟩
def CDC_SLOT_INFO_GEN : Fld := ⟨CDC_SLOT_INFO, 31, 16⟩
def CDC_SLOT_INFO_KIND : Fld := ⟨CDC_SLOT_INFO, 15, 14⟩
def CDC_SLOT_INFO_OWNED : Fld := ⟨CDC_SLOT_INFO, 13, 13⟩
def CDC_SLOT_INFO_PENDING : Fld := ⟨CDC_SLOT_INFO, 12, 12⟩
/-- `CDC_SLOT_REFS` (R198). -/
def CDC_SLOT_REFS : Reg := ⟨0x100008, 16, 0x10000, 1, 0x0⟩
def CDC_SLOT_REFS_REFS : Fld := ⟨CDC_SLOT_REFS, 15, 0⟩
/-- `CDC_WSRC_LO` (R198). -/
def CDC_WSRC_LO : Reg := ⟨0x10000c, 16, 0x10000, 1, 0x0⟩
def CDC_WSRC_LO_ADDR : Fld := ⟨CDC_WSRC_LO, 31, 0⟩
/-- `CDC_WSRC_HI` (R198). -/
def CDC_WSRC_HI : Reg := ⟨0x100010, 16, 0x10000, 1, 0x0⟩
def CDC_WSRC_HI_ADDR : Fld := ⟨CDC_WSRC_HI, 24, 0⟩
/-- `CDC_WLEN` (R198). -/
def CDC_WLEN : Reg := ⟨0x100014, 16, 0x10000, 1, 0x0⟩
def CDC_WLEN_LEN : Fld := ⟨CDC_WLEN, 15, 0⟩
/-- `CDC_WCTRL` (R198). -/
def CDC_WCTRL : Reg := ⟨0x100018, 16, 0x10000, 1, 0x0⟩
def CDC_WCTRL_GO : Fld := ⟨CDC_WCTRL, 31, 31⟩
def CDC_WCTRL_ABORT : Fld := ⟨CDC_WCTRL, 30, 30⟩
def CDC_WCTRL_NOWAIT : Fld := ⟨CDC_WCTRL, 16, 16⟩
def CDC_WCTRL_HOLD_US : Fld := ⟨CDC_WCTRL, 15, 0⟩
/-- `CDC_WSTATUS` (R198). -/
def CDC_WSTATUS : Reg := ⟨0x10001c, 16, 0x10000, 1, 0x0⟩
def CDC_WSTATUS_WSTATE : Fld := ⟨CDC_WSTATUS, 31, 28⟩
def CDC_WSTATUS_RESULT : Fld := ⟨CDC_WSTATUS, 23, 16⟩
def CDC_WSTATUS_NEW_GEN : Fld := ⟨CDC_WSTATUS, 15, 0⟩
/-- `CDC_BLK_LO` (R198). -/
def CDC_BLK_LO : Reg := ⟨0x100020, 16, 0x10000, 1, 0x0⟩
def CDC_BLK_LO_COUNT : Fld := ⟨CDC_BLK_LO, 31, 0⟩
/-- `CDC_BLK_HI` (R198). -/
def CDC_BLK_HI : Reg := ⟨0x100024, 16, 0x10000, 1, 0x0⟩
def CDC_BLK_HI_COUNT : Fld := ⟨CDC_BLK_HI, 31, 0⟩
/-- `CDC_BLK_ERR` (R198). -/
def CDC_BLK_ERR : Reg := ⟨0x100028, 16, 0x10000, 1, 0x0⟩
def CDC_BLK_ERR_COUNT : Fld := ⟨CDC_BLK_ERR, 31, 0⟩
/-- `CDC_ERR_LAST` (R198). -/
def CDC_ERR_LAST : Reg := ⟨0x10002c, 16, 0x10000, 1, 0x0⟩
def CDC_ERR_LAST_CAUSE : Fld := ⟨CDC_ERR_LAST, 31, 28⟩
def CDC_ERR_LAST_SLOT : Fld := ⟨CDC_ERR_LAST, 24, 16⟩
def CDC_ERR_LAST_GEN_FOUND : Fld := ⟨CDC_ERR_LAST, 15, 0⟩
/-- `CDC_GATED` (R198). -/
def CDC_GATED : Reg := ⟨0x100030, 16, 0x10000, 1, 0x0⟩
def CDC_GATED_COUNT : Fld := ⟨CDC_GATED, 31, 0⟩
/-- `CDC_DROPPED_LO` (R198). -/
def CDC_DROPPED_LO : Reg := ⟨0x100034, 16, 0x10000, 1, 0x0⟩
def CDC_DROPPED_LO_COUNT : Fld := ⟨CDC_DROPPED_LO, 31, 0⟩
/-- `CDC_DROPPED_HI` (R198). -/
def CDC_DROPPED_HI : Reg := ⟨0x100038, 16, 0x10000, 1, 0x0⟩
def CDC_DROPPED_HI_COUNT : Fld := ⟨CDC_DROPPED_HI, 31, 0⟩
/-- `CDC_GO_IGNORED` (R198). -/
def CDC_GO_IGNORED : Reg := ⟨0x10003c, 16, 0x10000, 1, 0x0⟩
def CDC_GO_IGNORED_COUNT : Fld := ⟨CDC_GO_IGNORED, 31, 0⟩
/-- `MXE_STATUS` (R234). -/
def MXE_STATUS : Reg := ⟨0x200000, 128, 0x10000, 1, 0x0⟩
def MXE_STATUS_BUSY : Fld := ⟨MXE_STATUS, 31, 31⟩
def MXE_STATUS_BANKS : Fld := ⟨MXE_STATUS, 30, 29⟩
def MXE_STATUS_QUEUED : Fld := ⟨MXE_STATUS, 28, 24⟩
def MXE_STATUS_STRAND : Fld := ⟨MXE_STATUS, 12, 0⟩
/-- `MXE_MAC_LO` (R234). -/
def MXE_MAC_LO : Reg := ⟨0x200004, 128, 0x10000, 1, 0x0⟩
def MXE_MAC_LO_COUNT : Fld := ⟨MXE_MAC_LO, 31, 0⟩
/-- `MXE_MAC_HI` (R234). -/
def MXE_MAC_HI : Reg := ⟨0x200008, 128, 0x10000, 1, 0x0⟩
def MXE_MAC_HI_COUNT : Fld := ⟨MXE_MAC_HI, 31, 0⟩
/-- `MXE_BUSY_LO` (R234). -/
def MXE_BUSY_LO : Reg := ⟨0x20000c, 128, 0x10000, 1, 0x0⟩
def MXE_BUSY_LO_COUNT : Fld := ⟨MXE_BUSY_LO, 31, 0⟩
/-- `MXE_BUSY_HI` (R234). -/
def MXE_BUSY_HI : Reg := ⟨0x200010, 128, 0x10000, 1, 0x0⟩
def MXE_BUSY_HI_COUNT : Fld := ⟨MXE_BUSY_HI, 31, 0⟩
/-- `MXE_STALL_LO` (R234). -/
def MXE_STALL_LO : Reg := ⟨0x200014, 128, 0x10000, 1, 0x0⟩
def MXE_STALL_LO_COUNT : Fld := ⟨MXE_STALL_LO, 31, 0⟩
/-- `MXE_STALL_HI` (R234). -/
def MXE_STALL_HI : Reg := ⟨0x200018, 128, 0x10000, 1, 0x0⟩
def MXE_STALL_HI_COUNT : Fld := ⟨MXE_STALL_HI, 31, 0⟩
/-- `MXE_RUNS` (R234). -/
def MXE_RUNS : Reg := ⟨0x20001c, 128, 0x10000, 1, 0x0⟩
def MXE_RUNS_COUNT : Fld := ⟨MXE_RUNS, 31, 0⟩
/-- `MXE_DUP_CTRL` (R234). -/
def MXE_DUP_CTRL : Reg := ⟨0x200020, 128, 0x10000, 1, 0x0⟩
def MXE_DUP_CTRL_ENABLE : Fld := ⟨MXE_DUP_CTRL, 31, 31⟩
def MXE_DUP_CTRL_RATE_LOG2 : Fld := ⟨MXE_DUP_CTRL, 20, 16⟩
def MXE_DUP_CTRL_TOL_MULT : Fld := ⟨MXE_DUP_CTRL, 11, 8⟩
/-- `MXE_DUP_SAMPLED` (R234). -/
def MXE_DUP_SAMPLED : Reg := ⟨0x200024, 128, 0x10000, 1, 0x0⟩
def MXE_DUP_SAMPLED_COUNT : Fld := ⟨MXE_DUP_SAMPLED, 31, 0⟩
/-- `MXE_DUP_MISMATCH` (R234). -/
def MXE_DUP_MISMATCH : Reg := ⟨0x200028, 128, 0x10000, 1, 0x0⟩
def MXE_DUP_MISMATCH_COUNT : Fld := ⟨MXE_DUP_MISMATCH, 31, 0⟩
/-- `MXE_DUP_SKIPPED` (R234). -/
def MXE_DUP_SKIPPED : Reg := ⟨0x20002c, 128, 0x10000, 1, 0x0⟩
def MXE_DUP_SKIPPED_COUNT : Fld := ⟨MXE_DUP_SKIPPED, 31, 0⟩
/-- `MXE_DUP_LAST` (R234). -/
def MXE_DUP_LAST : Reg := ⟨0x200030, 128, 0x10000, 1, 0x0⟩
def MXE_DUP_LAST_VALID : Fld := ⟨MXE_DUP_LAST, 31, 31⟩
def MXE_DUP_LAST_CHECKER : Fld := ⟨MXE_DUP_LAST, 22, 16⟩
def MXE_DUP_LAST_STRAND : Fld := ⟨MXE_DUP_LAST, 12, 0⟩
/-- `MXE_DUP_WORST` (R234). -/
def MXE_DUP_WORST : Reg := ⟨0x200034, 128, 0x10000, 1, 0x0⟩
def MXE_DUP_WORST_RATIO : Fld := ⟨MXE_DUP_WORST, 15, 0⟩
/-- `MXE_ABORTS` (R234). -/
def MXE_ABORTS : Reg := ⟨0x200038, 128, 0x10000, 1, 0x0⟩
def MXE_ABORTS_COUNT : Fld := ⟨MXE_ABORTS, 31, 0⟩
/-- `MXE_FAULT_LAST` (R234). -/
def MXE_FAULT_LAST : Reg := ⟨0x20003c, 128, 0x10000, 1, 0x0⟩
def MXE_FAULT_LAST_CODE : Fld := ⟨MXE_FAULT_LAST, 31, 24⟩
def MXE_FAULT_LAST_STRAND : Fld := ⟨MXE_FAULT_LAST, 12, 0⟩
/-- `VXE_STATUS` (R267). -/
def VXE_STATUS : Reg := ⟨0x201000, 128, 0x10000, 1, 0x0⟩
def VXE_STATUS_BUSY : Fld := ⟨VXE_STATUS, 31, 31⟩
def VXE_STATUS_QUEUED : Fld := ⟨VXE_STATUS, 28, 24⟩
def VXE_STATUS_ATU : Fld := ⟨VXE_STATUS, 23, 23⟩
def VXE_STATUS_STRAND : Fld := ⟨VXE_STATUS, 12, 0⟩
/-- `VXE_ELEM_LO` (R267). -/
def VXE_ELEM_LO : Reg := ⟨0x201004, 128, 0x10000, 1, 0x0⟩
def VXE_ELEM_LO_COUNT : Fld := ⟨VXE_ELEM_LO, 31, 0⟩
/-- `VXE_ELEM_HI` (R267). -/
def VXE_ELEM_HI : Reg := ⟨0x201008, 128, 0x10000, 1, 0x0⟩
def VXE_ELEM_HI_COUNT : Fld := ⟨VXE_ELEM_HI, 31, 0⟩
/-- `VXE_BUSY_LO` (R267). -/
def VXE_BUSY_LO : Reg := ⟨0x20100c, 128, 0x10000, 1, 0x0⟩
def VXE_BUSY_LO_COUNT : Fld := ⟨VXE_BUSY_LO, 31, 0⟩
/-- `VXE_BUSY_HI` (R267). -/
def VXE_BUSY_HI : Reg := ⟨0x201010, 128, 0x10000, 1, 0x0⟩
def VXE_BUSY_HI_COUNT : Fld := ⟨VXE_BUSY_HI, 31, 0⟩
/-- `VXE_STALL_LO` (R267). -/
def VXE_STALL_LO : Reg := ⟨0x201014, 128, 0x10000, 1, 0x0⟩
def VXE_STALL_LO_COUNT : Fld := ⟨VXE_STALL_LO, 31, 0⟩
/-- `VXE_STALL_HI` (R267). -/
def VXE_STALL_HI : Reg := ⟨0x201018, 128, 0x10000, 1, 0x0⟩
def VXE_STALL_HI_COUNT : Fld := ⟨VXE_STALL_HI, 31, 0⟩
/-- `VXE_INSTR` (R267). -/
def VXE_INSTR : Reg := ⟨0x20101c, 128, 0x10000, 1, 0x0⟩
def VXE_INSTR_COUNT : Fld := ⟨VXE_INSTR, 31, 0⟩
/-- `VXE_ATU_LO` (R267). -/
def VXE_ATU_LO : Reg := ⟨0x201020, 128, 0x10000, 1, 0x0⟩
def VXE_ATU_LO_COUNT : Fld := ⟨VXE_ATU_LO, 31, 0⟩
/-- `VXE_ATU_HI` (R267). -/
def VXE_ATU_HI : Reg := ⟨0x201024, 128, 0x10000, 1, 0x0⟩
def VXE_ATU_HI_COUNT : Fld := ⟨VXE_ATU_HI, 31, 0⟩
/-- `VXE_ABORTS` (R267). -/
def VXE_ABORTS : Reg := ⟨0x201028, 128, 0x10000, 1, 0x0⟩
def VXE_ABORTS_COUNT : Fld := ⟨VXE_ABORTS, 31, 0⟩
/-- `VXE_FAULT_LAST` (R267). -/
def VXE_FAULT_LAST : Reg := ⟨0x20102c, 128, 0x10000, 1, 0x0⟩
def VXE_FAULT_LAST_CODE : Fld := ⟨VXE_FAULT_LAST, 31, 24⟩
def VXE_FAULT_LAST_STRAND : Fld := ⟨VXE_FAULT_LAST, 12, 0⟩
/-- `SFU_STATUS` (R268). -/
def SFU_STATUS : Reg := ⟨0x202000, 128, 0x10000, 1, 0x0⟩
def SFU_STATUS_BUSY : Fld := ⟨SFU_STATUS, 31, 31⟩
def SFU_STATUS_LAST_GRANT : Fld := ⟨SFU_STATUS, 29, 28⟩
def SFU_STATUS_PENDING : Fld := ⟨SFU_STATUS, 27, 24⟩
def SFU_STATUS_SLOT : Fld := ⟨SFU_STATUS, 8, 0⟩
/-- `SFU_RESULTS_LO` (R268). -/
def SFU_RESULTS_LO : Reg := ⟨0x202004, 128, 0x10000, 1, 0x0⟩
def SFU_RESULTS_LO_COUNT : Fld := ⟨SFU_RESULTS_LO, 31, 0⟩
/-- `SFU_RESULTS_HI` (R268). -/
def SFU_RESULTS_HI : Reg := ⟨0x202008, 128, 0x10000, 1, 0x0⟩
def SFU_RESULTS_HI_COUNT : Fld := ⟨SFU_RESULTS_HI, 31, 0⟩
/-- `SFU_WAIT_LO` (R268). -/
def SFU_WAIT_LO : Reg := ⟨0x20200c, 128, 0x10000, 1, 0x0⟩
def SFU_WAIT_LO_COUNT : Fld := ⟨SFU_WAIT_LO, 31, 0⟩
/-- `SFU_WAIT_HI` (R268). -/
def SFU_WAIT_HI : Reg := ⟨0x202010, 128, 0x10000, 1, 0x0⟩
def SFU_WAIT_HI_COUNT : Fld := ⟨SFU_WAIT_HI, 31, 0⟩
/-- `SFU_DOMAIN` (R268). -/
def SFU_DOMAIN : Reg := ⟨0x202014, 128, 0x10000, 1, 0x0⟩
def SFU_DOMAIN_COUNT : Fld := ⟨SFU_DOMAIN, 31, 0⟩
/-- `SFU_TBL_SEL` (R268). -/
def SFU_TBL_SEL : Reg := ⟨0x202018, 128, 0x10000, 1, 0x0⟩
def SFU_TBL_SEL_SLOT : Fld := ⟨SFU_TBL_SEL, 8, 0⟩
/-- `SFU_TBL_INFO` (R268). -/
def SFU_TBL_INFO : Reg := ⟨0x20201c, 128, 0x10000, 1, 0x0⟩
def SFU_TBL_INFO_DIR : Fld := ⟨SFU_TBL_INFO, 31, 30⟩
def SFU_TBL_INFO_PRE : Fld := ⟨SFU_TBL_INFO, 29, 28⟩
def SFU_TBL_INFO_MAX_ULP : Fld := ⟨SFU_TBL_INFO, 15, 0⟩
/-- `ATU_STATUS` (R308). -/
def ATU_STATUS : Reg := ⟨0x203000, 128, 0x10000, 1, 0x0⟩
def ATU_STATUS_BUSY : Fld := ⟨ATU_STATUS, 31, 31⟩
def ATU_STATUS_MXE : Fld := ⟨ATU_STATUS, 30, 30⟩
def ATU_STATUS_QUEUED : Fld := ⟨ATU_STATUS, 28, 24⟩
def ATU_STATUS_STRAND : Fld := ⟨ATU_STATUS, 12, 0⟩
/-- `ATU_BLK_LO` (R308). -/
def ATU_BLK_LO : Reg := ⟨0x203004, 128, 0x10000, 1, 0x0⟩
def ATU_BLK_LO_COUNT : Fld := ⟨ATU_BLK_LO, 31, 0⟩
/-- `ATU_BLK_HI` (R308). -/
def ATU_BLK_HI : Reg := ⟨0x203008, 128, 0x10000, 1, 0x0⟩
def ATU_BLK_HI_COUNT : Fld := ⟨ATU_BLK_HI, 31, 0⟩
/-- `ATU_SKIP_LO` (R308). -/
def ATU_SKIP_LO : Reg := ⟨0x20300c, 128, 0x10000, 1, 0x0⟩
def ATU_SKIP_LO_COUNT : Fld := ⟨ATU_SKIP_LO, 31, 0⟩
/-- `ATU_SKIP_HI` (R308). -/
def ATU_SKIP_HI : Reg := ⟨0x203010, 128, 0x10000, 1, 0x0⟩
def ATU_SKIP_HI_COUNT : Fld := ⟨ATU_SKIP_HI, 31, 0⟩
/-- `ATU_STALL_LO` (R308). -/
def ATU_STALL_LO : Reg := ⟨0x203014, 128, 0x10000, 1, 0x0⟩
def ATU_STALL_LO_COUNT : Fld := ⟨ATU_STALL_LO, 31, 0⟩
/-- `ATU_STALL_HI` (R308). -/
def ATU_STALL_HI : Reg := ⟨0x203018, 128, 0x10000, 1, 0x0⟩
def ATU_STALL_HI_COUNT : Fld := ⟨ATU_STALL_HI, 31, 0⟩
/-- `ATU_RUNS` (R308). -/
def ATU_RUNS : Reg := ⟨0x20301c, 128, 0x10000, 1, 0x0⟩
def ATU_RUNS_COUNT : Fld := ⟨ATU_RUNS, 31, 0⟩
/-- `ATU_TOKENS_LO` (R308). -/
def ATU_TOKENS_LO : Reg := ⟨0x203020, 128, 0x10000, 1, 0x0⟩
def ATU_TOKENS_LO_COUNT : Fld := ⟨ATU_TOKENS_LO, 31, 0⟩
/-- `ATU_TOKENS_HI` (R308). -/
def ATU_TOKENS_HI : Reg := ⟨0x203024, 128, 0x10000, 1, 0x0⟩
def ATU_TOKENS_HI_COUNT : Fld := ⟨ATU_TOKENS_HI, 31, 0⟩
/-- `ATU_ABORTS` (R308). -/
def ATU_ABORTS : Reg := ⟨0x203028, 128, 0x10000, 1, 0x0⟩
def ATU_ABORTS_COUNT : Fld := ⟨ATU_ABORTS, 31, 0⟩
/-- `ATU_FAULT_LAST` (R308). -/
def ATU_FAULT_LAST : Reg := ⟨0x20302c, 128, 0x10000, 1, 0x0⟩
def ATU_FAULT_LAST_CODE : Fld := ⟨ATU_FAULT_LAST, 31, 24⟩
def ATU_FAULT_LAST_CAUSE : Fld := ⟨ATU_FAULT_LAST, 23, 20⟩
def ATU_FAULT_LAST_STRAND : Fld := ⟨ATU_FAULT_LAST, 12, 0⟩
/-- `ATU_WIDEN_SAT` (R308). -/
def ATU_WIDEN_SAT : Reg := ⟨0x203030, 128, 0x10000, 1, 0x0⟩
def ATU_WIDEN_SAT_COUNT : Fld := ⟨ATU_WIDEN_SAT, 31, 0⟩
/-- `ATU_POOL_TOTAL` (R309). -/
def ATU_POOL_TOTAL : Reg := ⟨0x20000, 16, 0x40, 1, 0x0⟩
def ATU_POOL_TOTAL_PAGES : Fld := ⟨ATU_POOL_TOTAL, 22, 0⟩
/-- `ATU_POOL_FREE` (R309). -/
def ATU_POOL_FREE : Reg := ⟨0x20004, 16, 0x40, 1, 0x0⟩
def ATU_POOL_FREE_PAGES : Fld := ⟨ATU_POOL_FREE, 22, 0⟩
/-- `ATU_POOL_RESV` (R309). -/
def ATU_POOL_RESV : Reg := ⟨0x20008, 16, 0x40, 1, 0x0⟩
def ATU_POOL_RESV_PAGES : Fld := ⟨ATU_POOL_RESV, 22, 0⟩
/-- `ATU_POOL_ZERO` (R309). -/
def ATU_POOL_ZERO : Reg := ⟨0x2000c, 16, 0x40, 1, 0x0⟩
def ATU_POOL_ZERO_PAGES : Fld := ⟨ATU_POOL_ZERO, 22, 0⟩
/-- `ATU_SEQ_OPEN` (R309). -/
def ATU_SEQ_OPEN : Reg := ⟨0x20010, 16, 0x40, 1, 0x0⟩
def ATU_SEQ_OPEN_COUNT : Fld := ⟨ATU_SEQ_OPEN, 16, 0⟩
/-- `ATU_SEQ_SEL` (R309). -/
def ATU_SEQ_SEL : Reg := ⟨0x20014, 16, 0x40, 1, 0x0⟩
def ATU_SEQ_SEL_SEQ : Fld := ⟨ATU_SEQ_SEL, 15, 0⟩
/-- `ATU_SEQ_GEN` (R309). -/
def ATU_SEQ_GEN : Reg := ⟨0x20018, 16, 0x40, 1, 0x0⟩
def ATU_SEQ_GEN_GEN : Fld := ⟨ATU_SEQ_GEN, 31, 0⟩
/-- `ATU_SEQ_STATE` (R309). -/
def ATU_SEQ_STATE : Reg := ⟨0x2001c, 16, 0x40, 1, 0x0⟩
def ATU_SEQ_STATE_STATE : Fld := ⟨ATU_SEQ_STATE, 31, 30⟩
def ATU_SEQ_STATE_REFS : Fld := ⟨ATU_SEQ_STATE, 15, 0⟩
/-- `ATU_SEQ_LENGTH` (R309). -/
def ATU_SEQ_LENGTH : Reg := ⟨0x20020, 16, 0x40, 1, 0x0⟩
def ATU_SEQ_LENGTH_TOKENS : Fld := ⟨ATU_SEQ_LENGTH, 20, 0⟩
/-- `ATU_SEQ_HIGH` (R309). -/
def ATU_SEQ_HIGH : Reg := ⟨0x20024, 16, 0x40, 1, 0x0⟩
def ATU_SEQ_HIGH_TOKENS : Fld := ⟨ATU_SEQ_HIGH, 20, 0⟩
/-- `ATU_SEQ_PAGES` (R309). -/
def ATU_SEQ_PAGES : Reg := ⟨0x20028, 16, 0x40, 1, 0x0⟩
def ATU_SEQ_PAGES_PAGES : Fld := ⟨ATU_SEQ_PAGES, 22, 0⟩
/-- `ATU_SEQ_MAX` (R309). -/
def ATU_SEQ_MAX : Reg := ⟨0x2002c, 16, 0x40, 1, 0x0⟩
def ATU_SEQ_MAX_TOKENS : Fld := ⟨ATU_SEQ_MAX, 20, 0⟩
/-- `ATU_MIDSTREAM` (R309). -/
def ATU_MIDSTREAM : Reg := ⟨0x20030, 16, 0x40, 1, 0x0⟩
def ATU_MIDSTREAM_COUNT : Fld := ⟨ATU_MIDSTREAM, 31, 0⟩
/-- `ATU_SUSPENDED` (R309). -/
def ATU_SUSPENDED : Reg := ⟨0x20034, 16, 0x40, 1, 0x0⟩
def ATU_SUSPENDED_COUNT : Fld := ⟨ATU_SUSPENDED, 16, 0⟩
/-- `RTE_STATUS` (R348). -/
def RTE_STATUS : Reg := ⟨0x101000, 16, 0x10000, 1, 0x0⟩
def RTE_STATUS_BUSY : Fld := ⟨RTE_STATUS, 31, 31⟩
def RTE_STATUS_IN_FLIGHT : Fld := ⟨RTE_STATUS, 28, 22⟩
def RTE_STATUS_QUEUED : Fld := ⟨RTE_STATUS, 21, 16⟩
def RTE_STATUS_CORE : Fld := ⟨RTE_STATUS, 15, 13⟩
def RTE_STATUS_STRAND : Fld := ⟨RTE_STATUS, 12, 0⟩
/-- `RTE_BATCHES` (R348). -/
def RTE_BATCHES : Reg := ⟨0x101004, 16, 0x10000, 1, 0x0⟩
def RTE_BATCHES_COUNT : Fld := ⟨RTE_BATCHES, 31, 0⟩
/-- `RTE_ASSIGN_LO` (R348). -/
def RTE_ASSIGN_LO : Reg := ⟨0x101008, 16, 0x10000, 1, 0x0⟩
def RTE_ASSIGN_LO_COUNT : Fld := ⟨RTE_ASSIGN_LO, 31, 0⟩
/-- `RTE_ASSIGN_HI` (R348). -/
def RTE_ASSIGN_HI : Reg := ⟨0x10100c, 16, 0x10000, 1, 0x0⟩
def RTE_ASSIGN_HI_COUNT : Fld := ⟨RTE_ASSIGN_HI, 31, 0⟩
/-- `RTE_DROPPED` (R348). -/
def RTE_DROPPED : Reg := ⟨0x101010, 16, 0x10000, 1, 0x0⟩
def RTE_DROPPED_COUNT : Fld := ⟨RTE_DROPPED, 31, 0⟩
/-- `RTE_NAN_TOKENS` (R348). -/
def RTE_NAN_TOKENS : Reg := ⟨0x101014, 16, 0x10000, 1, 0x0⟩
def RTE_NAN_TOKENS_COUNT : Fld := ⟨RTE_NAN_TOKENS, 31, 0⟩
/-- `RTE_SUMP_SWALLOWED` (R348). -/
def RTE_SUMP_SWALLOWED : Reg := ⟨0x101018, 16, 0x10000, 1, 0x0⟩
def RTE_SUMP_SWALLOWED_COUNT : Fld := ⟨RTE_SUMP_SWALLOWED, 31, 0⟩
/-- `RTE_SUMP_STRAY` (R348). -/
def RTE_SUMP_STRAY : Reg := ⟨0x10101c, 16, 0x10000, 1, 0x0⟩
def RTE_SUMP_STRAY_COUNT : Fld := ⟨RTE_SUMP_STRAY, 31, 0⟩
/-- `RTE_SUMP_BYTES_LO` (R348). -/
def RTE_SUMP_BYTES_LO : Reg := ⟨0x101020, 16, 0x10000, 1, 0x0⟩
def RTE_SUMP_BYTES_LO_COUNT : Fld := ⟨RTE_SUMP_BYTES_LO, 31, 0⟩
/-- `RTE_SUMP_BYTES_HI` (R348). -/
def RTE_SUMP_BYTES_HI : Reg := ⟨0x101024, 16, 0x10000, 1, 0x0⟩
def RTE_SUMP_BYTES_HI_COUNT : Fld := ⟨RTE_SUMP_BYTES_HI, 31, 0⟩
/-- `RTE_CANCEL` (R348). -/
def RTE_CANCEL : Reg := ⟨0x101028, 16, 0x10000, 1, 0x0⟩
def RTE_CANCEL_EPOCH : Fld := ⟨RTE_CANCEL, 31, 0⟩
/-- `RTE_EPOCH` (R348). -/
def RTE_EPOCH : Reg := ⟨0x10102c, 16, 0x10000, 1, 0x0⟩
def RTE_EPOCH_EPOCH : Fld := ⟨RTE_EPOCH, 31, 0⟩
/-- `RTE_FAULT_LAST` (R348). -/
def RTE_FAULT_LAST : Reg := ⟨0x101030, 16, 0x10000, 1, 0x0⟩
def RTE_FAULT_LAST_CODE : Fld := ⟨RTE_FAULT_LAST, 31, 24⟩
def RTE_FAULT_LAST_CAUSE : Fld := ⟨RTE_FAULT_LAST, 23, 20⟩
def RTE_FAULT_LAST_STRAND : Fld := ⟨RTE_FAULT_LAST, 12, 0⟩
/-- `RTE_PROF_SEL` (R348). -/
def RTE_PROF_SEL : Reg := ⟨0x101080, 16, 0x10000, 1, 0x0⟩
def RTE_PROF_SEL_PROFILE : Fld := ⟨RTE_PROF_SEL, 4, 0⟩
/-- `RTE_EXP_SEL` (R348). -/
def RTE_EXP_SEL : Reg := ⟨0x101084, 16, 0x10000, 1, 0x0⟩
def RTE_EXP_SEL_EXPERT : Fld := ⟨RTE_EXP_SEL, 9, 0⟩
/-- `RTE_BIAS` (R348). -/
def RTE_BIAS : Reg := ⟨0x101088, 16, 0x10000, 1, 0x0⟩
def RTE_BIAS_BIAS : Fld := ⟨RTE_BIAS, 15, 0⟩
/-- `RTE_LOAD` (R348). -/
def RTE_LOAD : Reg := ⟨0x10108c, 16, 0x10000, 1, 0x0⟩
def RTE_LOAD_COUNT : Fld := ⟨RTE_LOAD, 31, 0⟩
/-- `RTE_LOOP` (R348). -/
def RTE_LOOP : Reg := ⟨0x101090, 16, 0x10000, 1, 0x0⟩
def RTE_LOOP_ACTIVE : Fld := ⟨RTE_LOOP, 31, 31⟩
def RTE_LOOP_UPDATES : Fld := ⟨RTE_LOOP, 30, 16⟩
def RTE_LOOP_BATCHES : Fld := ⟨RTE_LOOP, 15, 0⟩
/-- `RTE_IMB` (R348). -/
def RTE_IMB : Reg := ⟨0x101094, 16, 0x10000, 1, 0x0⟩
def RTE_IMB_RATIO : Fld := ⟨RTE_IMB, 31, 16⟩
def RTE_IMB_EXPERT : Fld := ⟨RTE_IMB, 9, 0⟩
/-- `XCE_STATUS` (R350). -/
def XCE_STATUS : Reg := ⟨0xa000, 2, 0x1000, 1, 0x0⟩
def XCE_STATUS_BUSY : Fld := ⟨XCE_STATUS, 31, 31⟩
def XCE_STATUS_PORTS_UP : Fld := ⟨XCE_STATUS, 23, 16⟩
def XCE_STATUS_IN_FLIGHT : Fld := ⟨XCE_STATUS, 15, 0⟩
/-- `XCE_TX_ROWS_LO` (R350). -/
def XCE_TX_ROWS_LO : Reg := ⟨0xa100, 2, 0x1000, 16, 0x40⟩
def XCE_TX_ROWS_LO_COUNT : Fld := ⟨XCE_TX_ROWS_LO, 31, 0⟩
/-- `XCE_TX_ROWS_HI` (R350). -/
def XCE_TX_ROWS_HI : Reg := ⟨0xa104, 2, 0x1000, 16, 0x40⟩
def XCE_TX_ROWS_HI_COUNT : Fld := ⟨XCE_TX_ROWS_HI, 31, 0⟩
/-- `XCE_RX_ROWS_LO` (R350). -/
def XCE_RX_ROWS_LO : Reg := ⟨0xa108, 2, 0x1000, 16, 0x40⟩
def XCE_RX_ROWS_LO_COUNT : Fld := ⟨XCE_RX_ROWS_LO, 31, 0⟩
/-- `XCE_RX_ROWS_HI` (R350). -/
def XCE_RX_ROWS_HI : Reg := ⟨0xa10c, 2, 0x1000, 16, 0x40⟩
def XCE_RX_ROWS_HI_COUNT : Fld := ⟨XCE_RX_ROWS_HI, 31, 0⟩
/-- `XCE_RET_ROWS_LO` (R350). -/
def XCE_RET_ROWS_LO : Reg := ⟨0xa110, 2, 0x1000, 16, 0x40⟩
def XCE_RET_ROWS_LO_COUNT : Fld := ⟨XCE_RET_ROWS_LO, 31, 0⟩
/-- `XCE_RET_ROWS_HI` (R350). -/
def XCE_RET_ROWS_HI : Reg := ⟨0xa114, 2, 0x1000, 16, 0x40⟩
def XCE_RET_ROWS_HI_COUNT : Fld := ⟨XCE_RET_ROWS_HI, 31, 0⟩
/-- `XCE_LOOPBACK_LO` (R350). -/
def XCE_LOOPBACK_LO : Reg := ⟨0xa118, 2, 0x1000, 16, 0x40⟩
def XCE_LOOPBACK_LO_COUNT : Fld := ⟨XCE_LOOPBACK_LO, 31, 0⟩
/-- `XCE_LOOPBACK_HI` (R350). -/
def XCE_LOOPBACK_HI : Reg := ⟨0xa11c, 2, 0x1000, 16, 0x40⟩
def XCE_LOOPBACK_HI_COUNT : Fld := ⟨XCE_LOOPBACK_HI, 31, 0⟩
/-- `XCE_RETRIES` (R350). -/
def XCE_RETRIES : Reg := ⟨0xa120, 2, 0x1000, 16, 0x40⟩
def XCE_RETRIES_COUNT : Fld := ⟨XCE_RETRIES, 31, 0⟩
/-- `XCE_RX_OVF` (R350). -/
def XCE_RX_OVF : Reg := ⟨0xa124, 2, 0x1000, 16, 0x40⟩
def XCE_RX_OVF_COUNT : Fld := ⟨XCE_RX_OVF, 31, 0⟩
/-- `XCE_NAKS` (R350). -/
def XCE_NAKS : Reg := ⟨0xa128, 2, 0x1000, 16, 0x40⟩
def XCE_NAKS_COUNT : Fld := ⟨XCE_NAKS, 31, 0⟩
/-- `XCE_NAK_LAST` (R350). -/
def XCE_NAK_LAST : Reg := ⟨0xa12c, 2, 0x1000, 16, 0x40⟩
def XCE_NAK_LAST_DEVICE : Fld := ⟨XCE_NAK_LAST, 31, 16⟩
def XCE_NAK_LAST_CAUSE : Fld := ⟨XCE_NAK_LAST, 7, 0⟩
/-- `VXE_TRAIN_BASE_LO` (R377). -/
def VXE_TRAIN_BASE_LO : Reg := ⟨0x201080, 128, 0x10000, 1, 0x0⟩
def VXE_TRAIN_BASE_LO_ADDR : Fld := ⟨VXE_TRAIN_BASE_LO, 31, 6⟩
/-- `VXE_TRAIN_BASE_HI` (R377). -/
def VXE_TRAIN_BASE_HI : Reg := ⟨0x201084, 128, 0x10000, 1, 0x0⟩
def VXE_TRAIN_BASE_HI_ADDR : Fld := ⟨VXE_TRAIN_BASE_HI, 24, 0⟩
/-- `VXE_TRAIN_CTRL` (R377). -/
def VXE_TRAIN_CTRL : Reg := ⟨0x201088, 128, 0x10000, 1, 0x0⟩
def VXE_TRAIN_CTRL_ENABLE : Fld := ⟨VXE_TRAIN_CTRL, 31, 31⟩
def VXE_TRAIN_CTRL_ENTRIES : Fld := ⟨VXE_TRAIN_CTRL, 22, 16⟩
def VXE_TRAIN_CTRL_LOG_SLOTS : Fld := ⟨VXE_TRAIN_CTRL, 3, 0⟩
/-- `VXE_TRAIN_CLOSE` (R377). -/
def VXE_TRAIN_CLOSE : Reg := ⟨0x20108c, 128, 0x10000, 1, 0x0⟩
def VXE_TRAIN_CLOSE_ALL : Fld := ⟨VXE_TRAIN_CLOSE, 6, 6⟩
def VXE_TRAIN_CLOSE_ENTRY : Fld := ⟨VXE_TRAIN_CLOSE, 5, 0⟩
/-- `VXE_TRAIN_REPLAY` (R377). -/
def VXE_TRAIN_REPLAY : Reg := ⟨0x201090, 128, 0x10000, 1, 0x0⟩
def VXE_TRAIN_REPLAY_SKIP : Fld := ⟨VXE_TRAIN_REPLAY, 15, 15⟩
def VXE_TRAIN_REPLAY_FMT : Fld := ⟨VXE_TRAIN_REPLAY, 11, 8⟩
def VXE_TRAIN_REPLAY_ENTRY : Fld := ⟨VXE_TRAIN_REPLAY, 5, 0⟩
/-- `VXE_TRAIN_STATUS` (R377). -/
def VXE_TRAIN_STATUS : Reg := ⟨0x201094, 128, 0x10000, 1, 0x0⟩
def VXE_TRAIN_STATUS_BUSY : Fld := ⟨VXE_TRAIN_STATUS, 31, 31⟩
def VXE_TRAIN_STATUS_FAULT : Fld := ⟨VXE_TRAIN_STATUS, 30, 30⟩
/-- `HBC_STATUS` (R409). -/
def HBC_STATUS : Reg := ⟨0x10000, 16, 0x1000, 1, 0x0⟩
def HBC_STATUS_TRAINED : Fld := ⟨HBC_STATUS, 31, 31⟩
def HBC_STATUS_LOW_POWER : Fld := ⟨HBC_STATUS, 30, 30⟩
def HBC_STATUS_HOT : Fld := ⟨HBC_STATUS, 29, 29⟩
def HBC_STATUS_TEMP_C : Fld := ⟨HBC_STATUS, 23, 16⟩
def HBC_STATUS_LIVE_PC : Fld := ⟨HBC_STATUS, 5, 0⟩
/-- `HBC_PC_LIVE` (R409). -/
def HBC_PC_LIVE : Reg := ⟨0x10004, 16, 0x1000, 1, 0x0⟩
def HBC_PC_LIVE_MASK : Fld := ⟨HBC_PC_LIVE, 31, 0⟩
/-- `HBC_RD_LO` (R409). -/
def HBC_RD_LO : Reg := ⟨0x10008, 16, 0x1000, 1, 0x0⟩
def HBC_RD_LO_COUNT : Fld := ⟨HBC_RD_LO, 31, 0⟩
/-- `HBC_RD_HI` (R409). -/
def HBC_RD_HI : Reg := ⟨0x1000c, 16, 0x1000, 1, 0x0⟩
def HBC_RD_HI_COUNT : Fld := ⟨HBC_RD_HI, 31, 0⟩
/-- `HBC_WR_LO` (R409). -/
def HBC_WR_LO : Reg := ⟨0x10010, 16, 0x1000, 1, 0x0⟩
def HBC_WR_LO_COUNT : Fld := ⟨HBC_WR_LO, 31, 0⟩
/-- `HBC_WR_HI` (R409). -/
def HBC_WR_HI : Reg := ⟨0x10014, 16, 0x1000, 1, 0x0⟩
def HBC_WR_HI_COUNT : Fld := ⟨HBC_WR_HI, 31, 0⟩
/-- `HBC_CE` (R409). -/
def HBC_CE : Reg := ⟨0x10018, 16, 0x1000, 1, 0x0⟩
def HBC_CE_COUNT : Fld := ⟨HBC_CE, 31, 0⟩
/-- `HBC_UE` (R409). -/
def HBC_UE : Reg := ⟨0x1001c, 16, 0x1000, 1, 0x0⟩
def HBC_UE_COUNT : Fld := ⟨HBC_UE, 31, 0⟩
/-- `HBC_ODECC` (R409). -/
def HBC_ODECC : Reg := ⟨0x10020, 16, 0x1000, 1, 0x0⟩
def HBC_ODECC_COUNT : Fld := ⟨HBC_ODECC, 31, 0⟩
/-- `HBC_POISON` (R409). -/
def HBC_POISON : Reg := ⟨0x10024, 16, 0x1000, 1, 0x0⟩
def HBC_POISON_COUNT : Fld := ⟨HBC_POISON, 31, 0⟩
/-- `HBC_ERR_LAST` (R409). -/
def HBC_ERR_LAST : Reg := ⟨0x10028, 16, 0x1000, 1, 0x0⟩
def HBC_ERR_LAST_PC : Fld := ⟨HBC_ERR_LAST, 31, 27⟩
def HBC_ERR_LAST_KIND : Fld := ⟨HBC_ERR_LAST, 26, 24⟩
/-- `HBC_ERR_ADDR` (R409). -/
def HBC_ERR_ADDR : Reg := ⟨0x1002c, 16, 0x1000, 1, 0x0⟩
def HBC_ERR_ADDR_LINE : Fld := ⟨HBC_ERR_ADDR, 28, 0⟩
/-- `HBC_RETRAIN` (R409). -/
def HBC_RETRAIN : Reg := ⟨0x10030, 16, 0x1000, 1, 0x0⟩
def HBC_RETRAIN_COUNT : Fld := ⟨HBC_RETRAIN, 31, 0⟩
/-- `HBC_RETRAIN_FAIL` (R409). -/
def HBC_RETRAIN_FAIL : Reg := ⟨0x10034, 16, 0x1000, 1, 0x0⟩
def HBC_RETRAIN_FAIL_COUNT : Fld := ⟨HBC_RETRAIN_FAIL, 31, 0⟩
/-- `HBC_PAUSE_MAX` (R409). -/
def HBC_PAUSE_MAX : Reg := ⟨0x10038, 16, 0x1000, 1, 0x0⟩
def HBC_PAUSE_MAX_NS : Fld := ⟨HBC_PAUSE_MAX, 10, 0⟩
/-- `HBC_MARGIN` (R409). -/
def HBC_MARGIN : Reg := ⟨0x1003c, 16, 0x1000, 1, 0x0⟩
def HBC_MARGIN_CHANNEL : Fld := ⟨HBC_MARGIN, 31, 28⟩
def HBC_MARGIN_READ : Fld := ⟨HBC_MARGIN, 15, 8⟩
def HBC_MARGIN_WRITE : Fld := ⟨HBC_MARGIN, 7, 0⟩
/-- `HBC_RETRAIN_CTRL` (R409). -/
def HBC_RETRAIN_CTRL : Reg := ⟨0x10040, 16, 0x1000, 1, 0x0⟩
def HBC_RETRAIN_CTRL_DRIFT : Fld := ⟨HBC_RETRAIN_CTRL, 23, 16⟩
def HBC_RETRAIN_CTRL_PERIOD_US : Fld := ⟨HBC_RETRAIN_CTRL, 15, 0⟩
/-- `HBC_SCRUB` (R409). -/
def HBC_SCRUB : Reg := ⟨0x10044, 16, 0x1000, 1, 0x0⟩
def HBC_SCRUB_ENABLE : Fld := ⟨HBC_SCRUB, 31, 31⟩
def HBC_SCRUB_PERIOD_H : Fld := ⟨HBC_SCRUB, 7, 0⟩
/-- `MMU_STATUS` (R411). -/
def MMU_STATUS : Reg := ⟨0xc000, 2, 0x1000, 1, 0x0⟩
def MMU_STATUS_WALKS : Fld := ⟨MMU_STATUS, 6, 0⟩
/-- `MMU_ROOT_LO` (R411). -/
def MMU_ROOT_LO : Reg := ⟨0xc100, 2, 0x1000, 16, 0x40⟩
def MMU_ROOT_LO_ADDR : Fld := ⟨MMU_ROOT_LO, 31, 12⟩
def MMU_ROOT_LO_ENABLE : Fld := ⟨MMU_ROOT_LO, 0, 0⟩
/-- `MMU_ROOT_HI` (R411). -/
def MMU_ROOT_HI : Reg := ⟨0xc104, 2, 0x1000, 16, 0x40⟩
def MMU_ROOT_HI_ADDR : Fld := ⟨MMU_ROOT_HI, 15, 0⟩
/-- `MMU_INV_VA_LO` (R411). -/
def MMU_INV_VA_LO : Reg := ⟨0xc108, 2, 0x1000, 16, 0x40⟩
def MMU_INV_VA_LO_VA : Fld := ⟨MMU_INV_VA_LO, 31, 16⟩
/-- `MMU_INV_VA_HI` (R411). -/
def MMU_INV_VA_HI : Reg := ⟨0xc10c, 2, 0x1000, 16, 0x40⟩
def MMU_INV_VA_HI_VA : Fld := ⟨MMU_INV_VA_HI, 24, 0⟩
/-- `MMU_INV_CTRL` (R411). -/
def MMU_INV_CTRL : Reg := ⟨0xc110, 2, 0x1000, 16, 0x40⟩
def MMU_INV_CTRL_GO : Fld := ⟨MMU_INV_CTRL, 31, 31⟩
def MMU_INV_CTRL_ALL : Fld := ⟨MMU_INV_CTRL, 30, 30⟩
def MMU_INV_CTRL_PAGES : Fld := ⟨MMU_INV_CTRL, 19, 0⟩
/-- `MMU_INV_STATUS` (R411). -/
def MMU_INV_STATUS : Reg := ⟨0xc114, 2, 0x1000, 16, 0x40⟩
def MMU_INV_STATUS_BUSY : Fld := ⟨MMU_INV_STATUS, 31, 31⟩
/-- `MMU_FAULT_VA_LO` (R411). -/
def MMU_FAULT_VA_LO : Reg := ⟨0xc118, 2, 0x1000, 16, 0x40⟩
def MMU_FAULT_VA_LO_VA : Fld := ⟨MMU_FAULT_VA_LO, 31, 0⟩
/-- `MMU_FAULT_VA_HI` (R411). -/
def MMU_FAULT_VA_HI : Reg := ⟨0xc11c, 2, 0x1000, 16, 0x40⟩
def MMU_FAULT_VA_HI_VA : Fld := ⟨MMU_FAULT_VA_HI, 24, 0⟩
/-- `MMU_FAULT_INFO` (R411). -/
def MMU_FAULT_INFO : Reg := ⟨0xc120, 2, 0x1000, 16, 0x40⟩
def MMU_FAULT_INFO_CODE : Fld := ⟨MMU_FAULT_INFO, 31, 24⟩
def MMU_FAULT_INFO_CAUSE : Fld := ⟨MMU_FAULT_INFO, 23, 20⟩
def MMU_FAULT_INFO_WRITE : Fld := ⟨MMU_FAULT_INFO, 19, 19⟩
def MMU_FAULT_INFO_LEVEL : Fld := ⟨MMU_FAULT_INFO, 18, 16⟩
def MMU_FAULT_INFO_REQ : Fld := ⟨MMU_FAULT_INFO, 15, 8⟩
/-- `MMU_FAULTS` (R411). -/
def MMU_FAULTS : Reg := ⟨0xc124, 2, 0x1000, 16, 0x40⟩
def MMU_FAULTS_COUNT : Fld := ⟨MMU_FAULTS, 31, 0⟩
/-- `MMU_WALKS_LO` (R411). -/
def MMU_WALKS_LO : Reg := ⟨0xc128, 2, 0x1000, 16, 0x40⟩
def MMU_WALKS_LO_COUNT : Fld := ⟨MMU_WALKS_LO, 31, 0⟩
/-- `MMU_WALKS_HI` (R411). -/
def MMU_WALKS_HI : Reg := ⟨0xc12c, 2, 0x1000, 16, 0x40⟩
def MMU_WALKS_HI_COUNT : Fld := ⟨MMU_WALKS_HI, 31, 0⟩
/-- `MMU_HITS_LO` (R411). -/
def MMU_HITS_LO : Reg := ⟨0xc130, 2, 0x1000, 16, 0x40⟩
def MMU_HITS_LO_COUNT : Fld := ⟨MMU_HITS_LO, 31, 0⟩
/-- `MMU_HITS_HI` (R411). -/
def MMU_HITS_HI : Reg := ⟨0xc134, 2, 0x1000, 16, 0x40⟩
def MMU_HITS_HI_COUNT : Fld := ⟨MMU_HITS_HI, 31, 0⟩
/-- `MMU_ORD_CTRL` (R451). -/
def MMU_ORD_CTRL : Reg := ⟨0xc138, 2, 0x1000, 16, 0x40⟩
def MMU_ORD_CTRL_DEBUG : Fld := ⟨MMU_ORD_CTRL, 31, 31⟩
def MMU_ORD_CTRL_LAST_KIND : Fld := ⟨MMU_ORD_CTRL, 25, 24⟩
def MMU_ORD_CTRL_LAST_CORE : Fld := ⟨MMU_ORD_CTRL, 22, 16⟩
def MMU_ORD_CTRL_LAST_DEVICE : Fld := ⟨MMU_ORD_CTRL, 15, 0⟩
/-- `MMU_SCOPE_MISMATCH` (R451). -/
def MMU_SCOPE_MISMATCH : Reg := ⟨0xc13c, 2, 0x1000, 16, 0x40⟩
def MMU_SCOPE_MISMATCH_COUNT : Fld := ⟨MMU_SCOPE_MISMATCH, 31, 0⟩
/-- `CTP_PORT_STATUS` (R496). -/
def CTP_PORT_STATUS : Reg := ⟨0x2000, 2, 0x40, 1, 0x0⟩
def CTP_PORT_STATUS_LINK_UP : Fld := ⟨CTP_PORT_STATUS, 31, 31⟩
def CTP_PORT_STATUS_ISOLATED : Fld := ⟨CTP_PORT_STATUS, 30, 30⟩
def CTP_PORT_STATUS_SESSIONS : Fld := ⟨CTP_PORT_STATUS, 20, 16⟩
/-- `CTP_RX_FRAMES_LO` (R496). -/
def CTP_RX_FRAMES_LO : Reg := ⟨0x2004, 2, 0x40, 1, 0x0⟩
def CTP_RX_FRAMES_LO_COUNT : Fld := ⟨CTP_RX_FRAMES_LO, 31, 0⟩
/-- `CTP_RX_FRAMES_HI` (R496). -/
def CTP_RX_FRAMES_HI : Reg := ⟨0x2008, 2, 0x40, 1, 0x0⟩
def CTP_RX_FRAMES_HI_COUNT : Fld := ⟨CTP_RX_FRAMES_HI, 31, 0⟩
/-- `CTP_TX_FRAMES_LO` (R496). -/
def CTP_TX_FRAMES_LO : Reg := ⟨0x200c, 2, 0x40, 1, 0x0⟩
def CTP_TX_FRAMES_LO_COUNT : Fld := ⟨CTP_TX_FRAMES_LO, 31, 0⟩
/-- `CTP_TX_FRAMES_HI` (R496). -/
def CTP_TX_FRAMES_HI : Reg := ⟨0x2010, 2, 0x40, 1, 0x0⟩
def CTP_TX_FRAMES_HI_COUNT : Fld := ⟨CTP_TX_FRAMES_HI, 31, 0⟩
/-- `CTP_VIOL` (R496). -/
def CTP_VIOL : Reg := ⟨0x2014, 2, 0x40, 1, 0x0⟩
def CTP_VIOL_COUNT : Fld := ⟨CTP_VIOL, 31, 0⟩
/-- `CTP_DROPPED` (R496). -/
def CTP_DROPPED : Reg := ⟨0x2018, 2, 0x40, 1, 0x0⟩
def CTP_DROPPED_COUNT : Fld := ⟨CTP_DROPPED, 31, 0⟩
/-- `CTP_VIOL_LAST` (R496). -/
def CTP_VIOL_LAST : Reg := ⟨0x201c, 2, 0x40, 1, 0x0⟩
def CTP_VIOL_LAST_CAUSE : Fld := ⟨CTP_VIOL_LAST, 31, 24⟩
def CTP_VIOL_LAST_SLOT : Fld := ⟨CTP_VIOL_LAST, 19, 16⟩
def CTP_VIOL_LAST_ATTRIBUTED : Fld := ⟨CTP_VIOL_LAST, 15, 15⟩
def CTP_VIOL_LAST_TYPE : Fld := ⟨CTP_VIOL_LAST, 7, 0⟩
/-- `CTP_VIOL_CTRL` (R496). -/
def CTP_VIOL_CTRL : Reg := ⟨0x2020, 2, 0x40, 1, 0x0⟩
def CTP_VIOL_CTRL_WINDOW_MS : Fld := ⟨CTP_VIOL_CTRL, 31, 16⟩
def CTP_VIOL_CTRL_THRESHOLD : Fld := ⟨CTP_VIOL_CTRL, 15, 0⟩
/-- `CTP_REENABLE` (R496). -/
def CTP_REENABLE : Reg := ⟨0x2024, 2, 0x40, 1, 0x0⟩
def CTP_REENABLE_PORT : Fld := ⟨CTP_REENABLE, 31, 31⟩
def CTP_REENABLE_SLOTS : Fld := ⟨CTP_REENABLE, 15, 0⟩
/-- `CTP_SESS_STATE` (R496). -/
def CTP_SESS_STATE : Reg := ⟨0x2100, 16, 0x10, 1, 0x0⟩
def CTP_SESS_STATE_STATE : Fld := ⟨CTP_SESS_STATE, 31, 29⟩
def CTP_SESS_STATE_PORT : Fld := ⟨CTP_SESS_STATE, 28, 28⟩
def CTP_SESS_STATE_OWNER_CRED : Fld := ⟨CTP_SESS_STATE, 27, 27⟩
def CTP_SESS_STATE_KEY : Fld := ⟨CTP_SESS_STATE, 19, 16⟩
def CTP_SESS_STATE_RANK : Fld := ⟨CTP_SESS_STATE, 15, 0⟩
/-- `CTP_SESS_OPEN_LO` (R496). -/
def CTP_SESS_OPEN_LO : Reg := ⟨0x2104, 16, 0x10, 1, 0x0⟩
def CTP_SESS_OPEN_LO_TIME : Fld := ⟨CTP_SESS_OPEN_LO, 31, 0⟩
/-- `CTP_SESS_OPEN_HI` (R496). -/
def CTP_SESS_OPEN_HI : Reg := ⟨0x2108, 16, 0x10, 1, 0x0⟩
def CTP_SESS_OPEN_HI_TIME : Fld := ⟨CTP_SESS_OPEN_HI, 31, 0⟩
/-- `CTP_SESS_VIOL` (R496). -/
def CTP_SESS_VIOL : Reg := ⟨0x210c, 16, 0x10, 1, 0x0⟩
def CTP_SESS_VIOL_COUNT : Fld := ⟨CTP_SESS_VIOL, 31, 0⟩
/-- `CTP_OWNER` (R496). -/
def CTP_OWNER : Reg := ⟨0x2200, 1, 0x0, 1, 0x0⟩
def CTP_OWNER_VALID : Fld := ⟨CTP_OWNER, 31, 31⟩
def CTP_OWNER_SLOT : Fld := ⟨CTP_OWNER, 19, 16⟩
def CTP_OWNER_ELECTIONS : Fld := ⟨CTP_OWNER, 15, 0⟩
/-- `CTP_ELECTION` (R496). -/
def CTP_ELECTION : Reg := ⟨0x2204, 1, 0x0, 1, 0x0⟩
def CTP_ELECTION_OPEN : Fld := ⟨CTP_ELECTION, 31, 31⟩
def CTP_ELECTION_CANDIDATES : Fld := ⟨CTP_ELECTION, 15, 0⟩
/-- `CTP_UTC_BASE_LO` (R496). -/
def CTP_UTC_BASE_LO : Reg := ⟨0x2208, 1, 0x0, 1, 0x0⟩
def CTP_UTC_BASE_LO_UTC : Fld := ⟨CTP_UTC_BASE_LO, 31, 0⟩
/-- `CTP_UTC_BASE_HI` (R496). -/
def CTP_UTC_BASE_HI : Reg := ⟨0x220c, 1, 0x0, 1, 0x0⟩
def CTP_UTC_BASE_HI_UTC : Fld := ⟨CTP_UTC_BASE_HI, 31, 0⟩
/-- `SEC_LIFECYCLE` (R498). -/
def SEC_LIFECYCLE : Reg := ⟨0x3000, 1, 0x0, 1, 0x0⟩
def SEC_LIFECYCLE_STATE : Fld := ⟨SEC_LIFECYCLE, 31, 28⟩
def SEC_LIFECYCLE_DEBUG_LOCKED : Fld := ⟨SEC_LIFECYCLE, 27, 27⟩
def SEC_LIFECYCLE_TRANSPORT : Fld := ⟨SEC_LIFECYCLE, 26, 26⟩
/-- `SEC_FW_STATUS` (R498). -/
def SEC_FW_STATUS : Reg := ⟨0x3004, 1, 0x0, 1, 0x0⟩
def SEC_FW_STATUS_VERIFIED : Fld := ⟨SEC_FW_STATUS, 31, 31⟩
def SEC_FW_STATUS_ACTIVE : Fld := ⟨SEC_FW_STATUS, 30, 30⟩
def SEC_FW_STATUS_A_VALID : Fld := ⟨SEC_FW_STATUS, 29, 29⟩
def SEC_FW_STATUS_B_VALID : Fld := ⟨SEC_FW_STATUS, 28, 28⟩
def SEC_FW_STATUS_STAGE_STATE : Fld := ⟨SEC_FW_STATUS, 27, 24⟩
def SEC_FW_STATUS_ERR_CODE : Fld := ⟨SEC_FW_STATUS, 23, 16⟩
/-- `SEC_FW_VERSION` (R498). -/
def SEC_FW_VERSION : Reg := ⟨0x3008, 1, 0x0, 1, 0x0⟩
def SEC_FW_VERSION_VERSION : Fld := ⟨SEC_FW_VERSION, 31, 0⟩
/-- `SEC_FW_FLOOR` (R498). -/
def SEC_FW_FLOOR : Reg := ⟨0x300c, 1, 0x0, 1, 0x0⟩
def SEC_FW_FLOOR_FLOOR : Fld := ⟨SEC_FW_FLOOR, 31, 0⟩
/-- `SEC_KEYS` (R498). -/
def SEC_KEYS : Reg := ⟨0x3010, 1, 0x0, 1, 0x0⟩
def SEC_KEYS_KEYSETS : Fld := ⟨SEC_KEYS, 22, 20⟩
def SEC_KEYS_ENTRIES : Fld := ⟨SEC_KEYS, 15, 0⟩
/-- `SEC_AUTH_FAIL` (R498). -/
def SEC_AUTH_FAIL : Reg := ⟨0x3014, 1, 0x0, 1, 0x0⟩
def SEC_AUTH_FAIL_COUNT : Fld := ⟨SEC_AUTH_FAIL, 31, 0⟩
/-- `SEC_FW_DIGEST` (R498). -/
def SEC_FW_DIGEST : Reg := ⟨0x3040, 12, 0x4, 1, 0x0⟩
def SEC_FW_DIGEST_WORD : Fld := ⟨SEC_FW_DIGEST, 31, 0⟩
/-- `SEC_IDENT` (R498). -/
def SEC_IDENT : Reg := ⟨0x3080, 32, 0x4, 1, 0x0⟩
def SEC_IDENT_WORD : Fld := ⟨SEC_IDENT, 31, 0⟩
/-- `GFE_STATUS` (R540). -/
def GFE_STATUS : Reg := ⟨0x80000, 1, 0x0, 1, 0x0⟩
def GFE_STATUS_ACTIVE : Fld := ⟨GFE_STATUS, 28, 16⟩
def GFE_STATUS_DRAINING : Fld := ⟨GFE_STATUS, 12, 0⟩
/-- `GFE_QCMD_ADDR_LO` (R540). -/
def GFE_QCMD_ADDR_LO : Reg := ⟨0x80100, 16, 0x40, 1, 0x0⟩
def GFE_QCMD_ADDR_LO_ADDR : Fld := ⟨GFE_QCMD_ADDR_LO, 31, 6⟩
/-- `GFE_QCMD_ADDR_HI` (R540). -/
def GFE_QCMD_ADDR_HI : Reg := ⟨0x80104, 16, 0x40, 1, 0x0⟩
def GFE_QCMD_ADDR_HI_ADDR : Fld := ⟨GFE_QCMD_ADDR_HI, 24, 0⟩
/-- `GFE_QCMD` (R540). -/
def GFE_QCMD : Reg := ⟨0x80108, 16, 0x40, 1, 0x0⟩
def GFE_QCMD_GO : Fld := ⟨GFE_QCMD, 31, 31⟩
def GFE_QCMD_OP : Fld := ⟨GFE_QCMD, 17, 16⟩
def GFE_QCMD_QUEUE : Fld := ⟨GFE_QCMD, 11, 0⟩
/-- `GFE_QCMD_STATUS` (R540). -/
def GFE_QCMD_STATUS : Reg := ⟨0x8010c, 16, 0x40, 1, 0x0⟩
def GFE_QCMD_STATUS_STATE : Fld := ⟨GFE_QCMD_STATUS, 31, 28⟩
def GFE_QCMD_STATUS_REFUSED_BUSY : Fld := ⟨GFE_QCMD_STATUS, 24, 24⟩
def GFE_QCMD_STATUS_RESULT : Fld := ⟨GFE_QCMD_STATUS, 23, 16⟩
def GFE_QCMD_STATUS_QUEUE : Fld := ⟨GFE_QCMD_STATUS, 11, 0⟩
/-- `GFE_GCMD_ADDR_LO` (R540). -/
def GFE_GCMD_ADDR_LO : Reg := ⟨0x80110, 16, 0x40, 1, 0x0⟩
def GFE_GCMD_ADDR_LO_ADDR : Fld := ⟨GFE_GCMD_ADDR_LO, 31, 6⟩
/-- `GFE_GCMD_ADDR_HI` (R540). -/
def GFE_GCMD_ADDR_HI : Reg := ⟨0x80114, 16, 0x40, 1, 0x0⟩
def GFE_GCMD_ADDR_HI_ADDR : Fld := ⟨GFE_GCMD_ADDR_HI, 24, 0⟩
/-- `GFE_GCMD` (R540). -/
def GFE_GCMD : Reg := ⟨0x80118, 16, 0x40, 1, 0x0⟩
def GFE_GCMD_GO : Fld := ⟨GFE_GCMD, 31, 31⟩
def GFE_GCMD_OP : Fld := ⟨GFE_GCMD, 17, 16⟩
def GFE_GCMD_GRAPH : Fld := ⟨GFE_GCMD, 5, 0⟩
/-- `GFE_GCMD_STATUS` (R540). -/
def GFE_GCMD_STATUS : Reg := ⟨0x8011c, 16, 0x40, 1, 0x0⟩
def GFE_GCMD_STATUS_STATE : Fld := ⟨GFE_GCMD_STATUS, 31, 28⟩
def GFE_GCMD_STATUS_REFUSED_BUSY : Fld := ⟨GFE_GCMD_STATUS, 24, 24⟩
def GFE_GCMD_STATUS_RESULT : Fld := ⟨GFE_GCMD_STATUS, 23, 16⟩
def GFE_GCMD_STATUS_VERSION : Fld := ⟨GFE_GCMD_STATUS, 15, 0⟩
/-- `GFE_GAREA_LO` (R540). -/
def GFE_GAREA_LO : Reg := ⟨0x80120, 16, 0x40, 1, 0x0⟩
def GFE_GAREA_LO_ADDR : Fld := ⟨GFE_GAREA_LO, 31, 16⟩
/-- `GFE_GAREA_HI` (R540). -/
def GFE_GAREA_HI : Reg := ⟨0x80124, 16, 0x40, 1, 0x0⟩
def GFE_GAREA_HI_ADDR : Fld := ⟨GFE_GAREA_HI, 24, 0⟩
/-- `GFE_GAREA_SIZE` (R540). -/
def GFE_GAREA_SIZE : Reg := ⟨0x80128, 16, 0x40, 1, 0x0⟩
def GFE_GAREA_SIZE_MIB : Fld := ⟨GFE_GAREA_SIZE, 15, 0⟩
/-- `GFE_QUEUES` (R540). -/
def GFE_QUEUES : Reg := ⟨0x8012c, 16, 0x40, 1, 0x0⟩
def GFE_QUEUES_COUNT : Fld := ⟨GFE_QUEUES, 12, 0⟩
/-- `GFE_Q_DB` (R540). -/
def GFE_Q_DB : Reg := ⟨0x90000, 4096, 0x20, 1, 0x0⟩
def GFE_Q_DB_TAIL : Fld := ⟨GFE_Q_DB, 31, 0⟩
/-- `GFE_Q_STATE` (R540). -/
def GFE_Q_STATE : Reg := ⟨0x90004, 4096, 0x20, 1, 0x0⟩
def GFE_Q_STATE_STATE : Fld := ⟨GFE_Q_STATE, 31, 30⟩
def GFE_Q_STATE_CLASS : Fld := ⟨GFE_Q_STATE, 29, 29⟩
def GFE_Q_STATE_SERVED : Fld := ⟨GFE_Q_STATE, 28, 28⟩
def GFE_Q_STATE_OVERRUN : Fld := ⟨GFE_Q_STATE, 27, 27⟩
def GFE_Q_STATE_CFAULT : Fld := ⟨GFE_Q_STATE, 26, 26⟩
def GFE_Q_STATE_CHAMBER : Fld := ⟨GFE_Q_STATE, 19, 16⟩
def GFE_Q_STATE_EPOCH : Fld := ⟨GFE_Q_STATE, 15, 0⟩
/-- `GFE_Q_DONE_LO` (R540). -/
def GFE_Q_DONE_LO : Reg := ⟨0x90008, 4096, 0x20, 1, 0x0⟩
def GFE_Q_DONE_LO_COUNT : Fld := ⟨GFE_Q_DONE_LO, 31, 0⟩
/-- `GFE_Q_DONE_HI` (R540). -/
def GFE_Q_DONE_HI : Reg := ⟨0x9000c, 4096, 0x20, 1, 0x0⟩
def GFE_Q_DONE_HI_COUNT : Fld := ⟨GFE_Q_DONE_HI, 31, 0⟩
/-- `GFE_Q_FETCHED` (R540). -/
def GFE_Q_FETCHED : Reg := ⟨0x90010, 4096, 0x20, 1, 0x0⟩
def GFE_Q_FETCHED_COUNT : Fld := ⟨GFE_Q_FETCHED, 31, 0⟩
/-- `GFE_Q_CACK` (R540). -/
def GFE_Q_CACK : Reg := ⟨0x90014, 4096, 0x20, 1, 0x0⟩
def GFE_Q_CACK_COUNT : Fld := ⟨GFE_Q_CACK, 31, 0⟩
/-- `GFE_Q_CANCEL` (R540). -/
def GFE_Q_CANCEL : Reg := ⟨0x90018, 4096, 0x20, 1, 0x0⟩
def GFE_Q_CANCEL_SEQ : Fld := ⟨GFE_Q_CANCEL, 31, 0⟩
/-- `GFE_Q_FAULT_LAST` (R540). -/
def GFE_Q_FAULT_LAST : Reg := ⟨0x9001c, 4096, 0x20, 1, 0x0⟩
def GFE_Q_FAULT_LAST_CODE : Fld := ⟨GFE_Q_FAULT_LAST, 31, 24⟩
def GFE_Q_FAULT_LAST_CAUSE : Fld := ⟨GFE_Q_FAULT_LAST, 23, 16⟩
def GFE_Q_FAULT_LAST_SEQ : Fld := ⟨GFE_Q_FAULT_LAST, 15, 0⟩
/-- `LSQ_STATUS` (R541). -/
def LSQ_STATUS : Reg := ⟨0x102000, 16, 0x10000, 1, 0x0⟩
def LSQ_STATUS_WAITING : Fld := ⟨LSQ_STATUS, 31, 22⟩
def LSQ_STATUS_SCAN : Fld := ⟨LSQ_STATUS, 21, 21⟩
def LSQ_STATUS_FREE_STRANDS : Fld := ⟨LSQ_STATUS, 16, 0⟩
/-- `LSQ_BOUND_LO` (R541). -/
def LSQ_BOUND_LO : Reg := ⟨0x102004, 16, 0x10000, 1, 0x0⟩
def LSQ_BOUND_LO_COUNT : Fld := ⟨LSQ_BOUND_LO, 31, 0⟩
/-- `LSQ_BOUND_HI` (R541). -/
def LSQ_BOUND_HI : Reg := ⟨0x102008, 16, 0x10000, 1, 0x0⟩
def LSQ_BOUND_HI_COUNT : Fld := ⟨LSQ_BOUND_HI, 31, 0⟩
/-- `LSQ_ABORTS` (R541). -/
def LSQ_ABORTS : Reg := ⟨0x10200c, 16, 0x10000, 1, 0x0⟩
def LSQ_ABORTS_COUNT : Fld := ⟨LSQ_ABORTS, 31, 0⟩
/-- `LSQ_SUMP_SWALLOWED` (R541). -/
def LSQ_SUMP_SWALLOWED : Reg := ⟨0x102010, 16, 0x10000, 1, 0x0⟩
def LSQ_SUMP_SWALLOWED_COUNT : Fld := ⟨LSQ_SUMP_SWALLOWED, 31, 0⟩
/-- `LSQ_SUMP_BYTES_LO` (R541). -/
def LSQ_SUMP_BYTES_LO : Reg := ⟨0x102014, 16, 0x10000, 1, 0x0⟩
def LSQ_SUMP_BYTES_LO_COUNT : Fld := ⟨LSQ_SUMP_BYTES_LO, 31, 0⟩
/-- `LSQ_SUMP_BYTES_HI` (R541). -/
def LSQ_SUMP_BYTES_HI : Reg := ⟨0x102018, 16, 0x10000, 1, 0x0⟩
def LSQ_SUMP_BYTES_HI_COUNT : Fld := ⟨LSQ_SUMP_BYTES_HI, 31, 0⟩
/-- `LSQ_TASKS` (R541). -/
def LSQ_TASKS : Reg := ⟨0x10201c, 16, 0x10000, 1, 0x0⟩
def LSQ_TASKS_COUNT : Fld := ⟨LSQ_TASKS, 13, 0⟩
/-- `DMV_STATUS` (R541). -/
def DMV_STATUS : Reg := ⟨0x103000, 16, 0x10000, 4, 0x20⟩
def DMV_STATUS_BUSY : Fld := ⟨DMV_STATUS, 31, 31⟩
def DMV_STATUS_QUEUED : Fld := ⟨DMV_STATUS, 5, 0⟩
/-- `DMV_BYTES_LO` (R541). -/
def DMV_BYTES_LO : Reg := ⟨0x103004, 16, 0x10000, 4, 0x20⟩
def DMV_BYTES_LO_COUNT : Fld := ⟨DMV_BYTES_LO, 31, 0⟩
/-- `DMV_BYTES_HI` (R541). -/
def DMV_BYTES_HI : Reg := ⟨0x103008, 16, 0x10000, 4, 0x20⟩
def DMV_BYTES_HI_COUNT : Fld := ⟨DMV_BYTES_HI, 31, 0⟩
/-- `DMV_ABORTS` (R541). -/
def DMV_ABORTS : Reg := ⟨0x10300c, 16, 0x10000, 4, 0x20⟩
def DMV_ABORTS_COUNT : Fld := ⟨DMV_ABORTS, 31, 0⟩
/-- `DMV_FAULT_LAST` (R541). -/
def DMV_FAULT_LAST : Reg := ⟨0x103010, 16, 0x10000, 4, 0x20⟩
def DMV_FAULT_LAST_CODE : Fld := ⟨DMV_FAULT_LAST, 31, 24⟩
def DMV_FAULT_LAST_CAUSE : Fld := ⟨DMV_FAULT_LAST, 23, 16⟩
def DMV_FAULT_LAST_QUEUE : Fld := ⟨DMV_FAULT_LAST, 11, 0⟩
/-- `MGC_STATUS` (R542). -/
def MGC_STATUS : Reg := ⟨0x4000, 1, 0x0, 1, 0x0⟩
def MGC_STATUS_RUNNING : Fld := ⟨MGC_STATUS, 31, 31⟩
/-- `MGC_MQ_STATE` (R542). -/
def MGC_MQ_STATE : Reg := ⟨0x4010, 4, 0x4, 1, 0x0⟩
def MGC_MQ_STATE_DEPTH : Fld := ⟨MGC_MQ_STATE, 31, 26⟩
def MGC_MQ_STATE_DONE : Fld := ⟨MGC_MQ_STATE, 23, 0⟩
/-- `MGC_MQ_REC` (R542). -/
def MGC_MQ_REC : Reg := ⟨0x4100, 4, 0x20, 8, 0x4⟩
def MGC_MQ_REC_WORD : Fld := ⟨MGC_MQ_REC, 31, 0⟩
/-- `GFE_SCH_CTRL` (R581). -/
def GFE_SCH_CTRL : Reg := ⟨0x81000, 16, 0x40, 1, 0x0⟩
def GFE_SCH_CTRL_BE_HOLD : Fld := ⟨GFE_SCH_CTRL, 31, 31⟩
def GFE_SCH_CTRL_PREEMPT_MAX : Fld := ⟨GFE_SCH_CTRL, 23, 16⟩
def GFE_SCH_CTRL_AGE_US : Fld := ⟨GFE_SCH_CTRL, 15, 0⟩
/-- `GFE_SCH_BACKLOG` (R581). -/
def GFE_SCH_BACKLOG : Reg := ⟨0x81004, 16, 0x40, 1, 0x0⟩
def GFE_SCH_BACKLOG_LC_DEPTH : Fld := ⟨GFE_SCH_BACKLOG, 31, 16⟩
def GFE_SCH_BACKLOG_BE_DEPTH : Fld := ⟨GFE_SCH_BACKLOG, 15, 0⟩
/-- `GFE_SCH_SAVE_LO` (R581). -/
def GFE_SCH_SAVE_LO : Reg := ⟨0x81008, 16, 0x40, 1, 0x0⟩
def GFE_SCH_SAVE_LO_ADDR : Fld := ⟨GFE_SCH_SAVE_LO, 31, 16⟩
/-- `GFE_SCH_SAVE_HI` (R581). -/
def GFE_SCH_SAVE_HI : Reg := ⟨0x8100c, 16, 0x40, 1, 0x0⟩
def GFE_SCH_SAVE_HI_ADDR : Fld := ⟨GFE_SCH_SAVE_HI, 24, 0⟩
/-- `GFE_SCH_RESV` (R581). -/
def GFE_SCH_RESV : Reg := ⟨0x81010, 16, 0x40, 1, 0x0⟩
def GFE_SCH_RESV_S_LINES : Fld := ⟨GFE_SCH_RESV, 31, 16⟩
def GFE_SCH_RESV_A_LINES : Fld := ⟨GFE_SCH_RESV, 15, 0⟩
/-- `GFE_SCH_QUEUED` (R581). -/
def GFE_SCH_QUEUED : Reg := ⟨0x81014, 16, 0x40, 1, 0x0⟩
def GFE_SCH_QUEUED_LC : Fld := ⟨GFE_SCH_QUEUED, 31, 16⟩
def GFE_SCH_QUEUED_BE : Fld := ⟨GFE_SCH_QUEUED, 15, 0⟩
/-- `GFE_SCH_SUSP` (R581). -/
def GFE_SCH_SUSP : Reg := ⟨0x81018, 16, 0x40, 1, 0x0⟩
def GFE_SCH_SUSP_COUNT : Fld := ⟨GFE_SCH_SUSP, 31, 0⟩
/-- `GFE_SCH_PREEMPTS` (R581). -/
def GFE_SCH_PREEMPTS : Reg := ⟨0x8101c, 16, 0x40, 1, 0x0⟩
def GFE_SCH_PREEMPTS_COUNT : Fld := ⟨GFE_SCH_PREEMPTS, 31, 0⟩
/-- `GFE_SCH_REFUSED` (R581). -/
def GFE_SCH_REFUSED : Reg := ⟨0x81020, 16, 0x40, 1, 0x0⟩
def GFE_SCH_REFUSED_COUNT : Fld := ⟨GFE_SCH_REFUSED, 31, 0⟩
/-- `GFE_SCH_POWER` (R581). -/
def GFE_SCH_POWER : Reg := ⟨0x81024, 16, 0x40, 1, 0x0⟩
def GFE_SCH_POWER_CAPPED : Fld := ⟨GFE_SCH_POWER, 31, 31⟩
def GFE_SCH_POWER_MIN_RATIO : Fld := ⟨GFE_SCH_POWER, 27, 16⟩
/-- `GFE_QA_WAIT_LO` (R582). -/
def GFE_QA_WAIT_LO : Reg := ⟨0xc0000, 4096, 0x40, 1, 0x0⟩
def GFE_QA_WAIT_LO_NS : Fld := ⟨GFE_QA_WAIT_LO, 31, 0⟩
/-- `GFE_QA_WAIT_HI` (R582). -/
def GFE_QA_WAIT_HI : Reg := ⟨0xc0004, 4096, 0x40, 1, 0x0⟩
def GFE_QA_WAIT_HI_NS : Fld := ⟨GFE_QA_WAIT_HI, 31, 0⟩
/-- `GFE_QA_PREEMPT_LO` (R582). -/
def GFE_QA_PREEMPT_LO : Reg := ⟨0xc0008, 4096, 0x40, 1, 0x0⟩
def GFE_QA_PREEMPT_LO_COUNT : Fld := ⟨GFE_QA_PREEMPT_LO, 31, 0⟩
/-- `GFE_QA_PREEMPT_HI` (R582). -/
def GFE_QA_PREEMPT_HI : Reg := ⟨0xc000c, 4096, 0x40, 1, 0x0⟩
def GFE_QA_PREEMPT_HI_COUNT : Fld := ⟨GFE_QA_PREEMPT_HI, 31, 0⟩
/-- `GFE_QA_SERVICE_LO` (R582). -/
def GFE_QA_SERVICE_LO : Reg := ⟨0xc0010, 4096, 0x40, 1, 0x0⟩
def GFE_QA_SERVICE_LO_NS : Fld := ⟨GFE_QA_SERVICE_LO, 31, 0⟩
/-- `GFE_QA_SERVICE_HI` (R582). -/
def GFE_QA_SERVICE_HI : Reg := ⟨0xc0014, 4096, 0x40, 1, 0x0⟩
def GFE_QA_SERVICE_HI_NS : Fld := ⟨GFE_QA_SERVICE_HI, 31, 0⟩
/-- `GFE_QA_SOLO` (R582). -/
def GFE_QA_SOLO : Reg := ⟨0xc0018, 4096, 0x40, 1, 0x0⟩
def GFE_QA_SOLO_NS : Fld := ⟨GFE_QA_SOLO, 31, 0⟩
/-- `GFE_QA_SLOW` (R582). -/
def GFE_QA_SLOW : Reg := ⟨0xc001c, 4096, 0x40, 1, 0x0⟩
def GFE_QA_SLOW_BASELINE : Fld := ⟨GFE_QA_SLOW, 31, 31⟩
def GFE_QA_SLOW_RATIO : Fld := ⟨GFE_QA_SLOW, 15, 0⟩
/-- `GFE_QA_SOLO_TIME` (R582). -/
def GFE_QA_SOLO_TIME : Reg := ⟨0xc0020, 4096, 0x40, 1, 0x0⟩
def GFE_QA_SOLO_TIME_US : Fld := ⟨GFE_QA_SOLO_TIME, 31, 0⟩
/-- `GFE_QA_LATE` (R582). -/
def GFE_QA_LATE : Reg := ⟨0xc0024, 4096, 0x40, 1, 0x0⟩
def GFE_QA_LATE_COUNT : Fld := ⟨GFE_QA_LATE, 31, 0⟩
/-- `GFE_QA_REFUSED` (R582). -/
def GFE_QA_REFUSED : Reg := ⟨0xc0028, 4096, 0x40, 1, 0x0⟩
def GFE_QA_REFUSED_COUNT : Fld := ⟨GFE_QA_REFUSED, 31, 0⟩
/-- `LNK_PORT_STATUS` (R613). -/
def LNK_PORT_STATUS : Reg := ⟨0x9000, 16, 0x80, 1, 0x0⟩
def LNK_PORT_STATUS_STATE : Fld := ⟨LNK_PORT_STATUS, 31, 30⟩
def LNK_PORT_STATUS_TEST : Fld := ⟨LNK_PORT_STATUS, 29, 29⟩
def LNK_PORT_STATUS_IN_SERVICE : Fld := ⟨LNK_PORT_STATUS, 27, 24⟩
def LNK_PORT_STATUS_RETIRED : Fld := ⟨LNK_PORT_STATUS, 23, 20⟩
def LNK_PORT_STATUS_AMBER : Fld := ⟨LNK_PORT_STATUS, 19, 16⟩
def LNK_PORT_STATUS_PARTNER : Fld := ⟨LNK_PORT_STATUS, 15, 0⟩
/-- `LNK_PORT_CTRL` (R613). -/
def LNK_PORT_CTRL : Reg := ⟨0x9004, 16, 0x80, 1, 0x0⟩
def LNK_PORT_CTRL_DATELINE : Fld := ⟨LNK_PORT_CTRL, 31, 31⟩
/-- `LNK_TX_BYTES_LO` (R613). -/
def LNK_TX_BYTES_LO : Reg := ⟨0x9008, 16, 0x80, 1, 0x0⟩
def LNK_TX_BYTES_LO_COUNT : Fld := ⟨LNK_TX_BYTES_LO, 31, 0⟩
/-- `LNK_TX_BYTES_HI` (R613). -/
def LNK_TX_BYTES_HI : Reg := ⟨0x900c, 16, 0x80, 1, 0x0⟩
def LNK_TX_BYTES_HI_COUNT : Fld := ⟨LNK_TX_BYTES_HI, 31, 0⟩
/-- `LNK_RX_BYTES_LO` (R613). -/
def LNK_RX_BYTES_LO : Reg := ⟨0x9010, 16, 0x80, 1, 0x0⟩
def LNK_RX_BYTES_LO_COUNT : Fld := ⟨LNK_RX_BYTES_LO, 31, 0⟩
/-- `LNK_RX_BYTES_HI` (R613). -/
def LNK_RX_BYTES_HI : Reg := ⟨0x9014, 16, 0x80, 1, 0x0⟩
def LNK_RX_BYTES_HI_COUNT : Fld := ⟨LNK_RX_BYTES_HI, 31, 0⟩
/-- `LNK_REPLAY` (R613). -/
def LNK_REPLAY : Reg := ⟨0x9018, 16, 0x80, 1, 0x0⟩
def LNK_REPLAY_COUNT : Fld := ⟨LNK_REPLAY, 31, 0⟩
/-- `LNK_FEC_CORR` (R613). -/
def LNK_FEC_CORR : Reg := ⟨0x901c, 16, 0x80, 1, 0x0⟩
def LNK_FEC_CORR_COUNT : Fld := ⟨LNK_FEC_CORR, 31, 0⟩
/-- `LNK_FEC_UNCORR` (R613). -/
def LNK_FEC_UNCORR : Reg := ⟨0x9020, 16, 0x80, 1, 0x0⟩
def LNK_FEC_UNCORR_COUNT : Fld := ⟨LNK_FEC_UNCORR, 31, 0⟩
/-- `LNK_VIOL` (R613). -/
def LNK_VIOL : Reg := ⟨0x9024, 16, 0x80, 1, 0x0⟩
def LNK_VIOL_COUNT : Fld := ⟨LNK_VIOL, 31, 0⟩
/-- `LNK_DROPPED` (R613). -/
def LNK_DROPPED : Reg := ⟨0x9028, 16, 0x80, 1, 0x0⟩
def LNK_DROPPED_COUNT : Fld := ⟨LNK_DROPPED, 31, 0⟩
/-- `LNK_VIOL_LAST` (R613). -/
def LNK_VIOL_LAST : Reg := ⟨0x902c, 16, 0x80, 1, 0x0⟩
def LNK_VIOL_LAST_CAUSE : Fld := ⟨LNK_VIOL_LAST, 31, 24⟩
def LNK_VIOL_LAST_TYPE : Fld := ⟨LNK_VIOL_LAST, 23, 16⟩
def LNK_VIOL_LAST_SRC : Fld := ⟨LNK_VIOL_LAST, 15, 0⟩
/-- `LNK_VIOL_CTRL` (R613). -/
def LNK_VIOL_CTRL : Reg := ⟨0x9030, 16, 0x80, 1, 0x0⟩
def LNK_VIOL_CTRL_WINDOW_MS : Fld := ⟨LNK_VIOL_CTRL, 31, 16⟩
def LNK_VIOL_CTRL_THRESHOLD : Fld := ⟨LNK_VIOL_CTRL, 15, 0⟩
/-- `LNK_REENABLE` (R613). -/
def LNK_REENABLE : Reg := ⟨0x9034, 16, 0x80, 1, 0x0⟩
def LNK_REENABLE_PORT : Fld := ⟨LNK_REENABLE, 31, 31⟩
/-- `LNK_NAKS_TX` (R613). -/
def LNK_NAKS_TX : Reg := ⟨0x9038, 16, 0x80, 1, 0x0⟩
def LNK_NAKS_TX_COUNT : Fld := ⟨LNK_NAKS_TX, 31, 0⟩
/-- `LNK_HOP_DROP` (R613). -/
def LNK_HOP_DROP : Reg := ⟨0x903c, 16, 0x80, 1, 0x0⟩
def LNK_HOP_DROP_COUNT : Fld := ⟨LNK_HOP_DROP, 31, 0⟩
/-- `LNK_LANE_STATUS` (R613). -/
def LNK_LANE_STATUS : Reg := ⟨0x9040, 16, 0x80, 4, 0x10⟩
def LNK_LANE_STATUS_STATE : Fld := ⟨LNK_LANE_STATUS, 31, 30⟩
def LNK_LANE_STATUS_HEALTH : Fld := ⟨LNK_LANE_STATUS, 29, 28⟩
def LNK_LANE_STATUS_EYE_H : Fld := ⟨LNK_LANE_STATUS, 15, 8⟩
def LNK_LANE_STATUS_EYE_V : Fld := ⟨LNK_LANE_STATUS, 7, 0⟩
/-- `LNK_LANE_SYMERR` (R613). -/
def LNK_LANE_SYMERR : Reg := ⟨0x9044, 16, 0x80, 4, 0x10⟩
def LNK_LANE_SYMERR_COUNT : Fld := ⟨LNK_LANE_SYMERR, 31, 0⟩
/-- `LNK_LANE_EQ` (R613). -/
def LNK_LANE_EQ : Reg := ⟨0x9048, 16, 0x80, 4, 0x10⟩
def LNK_LANE_EQ_COUNT : Fld := ⟨LNK_LANE_EQ, 31, 0⟩
/-- `LNK_LANE_CTRL` (R613). -/
def LNK_LANE_CTRL : Reg := ⟨0x904c, 16, 0x80, 4, 0x10⟩
def LNK_LANE_CTRL_RETRAIN : Fld := ⟨LNK_LANE_CTRL, 31, 31⟩
/-- `LNK_GROUP_STATUS` (R613). -/
def LNK_GROUP_STATUS : Reg := ⟨0x9800, 1, 0x0, 1, 0x0⟩
def LNK_GROUP_STATUS_FORMED : Fld := ⟨LNK_GROUP_STATUS, 31, 31⟩
def LNK_GROUP_STATUS_IS_MASTER : Fld := ⟨LNK_GROUP_STATUS, 30, 30⟩
def LNK_GROUP_STATUS_MASTER_IDX : Fld := ⟨LNK_GROUP_STATUS, 29, 24⟩
def LNK_GROUP_STATUS_DEVICE_ID : Fld := ⟨LNK_GROUP_STATUS, 15, 0⟩
/-- `LNK_GROUP_MASTER` (R613). -/
def LNK_GROUP_MASTER : Reg := ⟨0x9804, 1, 0x0, 1, 0x0⟩
def LNK_GROUP_MASTER_DEVICE : Fld := ⟨LNK_GROUP_MASTER, 15, 0⟩
/-- `LNK_GROUP_VIEW` (R613). -/
def LNK_GROUP_VIEW : Reg := ⟨0x9808, 1, 0x0, 1, 0x0⟩
def LNK_GROUP_VIEW_VIEW : Fld := ⟨LNK_GROUP_VIEW, 31, 0⟩
/-- `LNK_GROUP_LIVE` (R613). -/
def LNK_GROUP_LIVE : Reg := ⟨0x980c, 1, 0x0, 1, 0x0⟩
def LNK_GROUP_LIVE_COUNT : Fld := ⟨LNK_GROUP_LIVE, 16, 0⟩
/-- `LNK_GROUP_CHANGES` (R613). -/
def LNK_GROUP_CHANGES : Reg := ⟨0x9810, 1, 0x0, 1, 0x0⟩
def LNK_GROUP_CHANGES_COUNT : Fld := ⟨LNK_GROUP_CHANGES, 31, 0⟩
/-- `LNK_STREAMS` (R613). -/
def LNK_STREAMS : Reg := ⟨0x9814, 1, 0x0, 1, 0x0⟩
def LNK_STREAMS_ENTRIES : Fld := ⟨LNK_STREAMS, 14, 0⟩
/-- `LNK_CLOSE_HELD` (R613). -/
def LNK_CLOSE_HELD : Reg := ⟨0x9818, 1, 0x0, 1, 0x0⟩
def LNK_CLOSE_HELD_COUNT : Fld := ⟨LNK_CLOSE_HELD, 17, 0⟩
/-- `LNK_CLOSE_CTRL` (R613). -/
def LNK_CLOSE_CTRL : Reg := ⟨0x981c, 1, 0x0, 1, 0x0⟩
def LNK_CLOSE_CTRL_HOLD_US : Fld := ⟨LNK_CLOSE_CTRL, 15, 0⟩
/-- `LNK_CLOSE_FAIL` (R613). -/
def LNK_CLOSE_FAIL : Reg := ⟨0x9820, 1, 0x0, 1, 0x0⟩
def LNK_CLOSE_FAIL_COUNT : Fld := ⟨LNK_CLOSE_FAIL, 31, 0⟩
/-- `LNK_E2E_FAIL` (R613). -/
def LNK_E2E_FAIL : Reg := ⟨0x9824, 1, 0x0, 1, 0x0⟩
def LNK_E2E_FAIL_COUNT : Fld := ⟨LNK_E2E_FAIL, 31, 0⟩
/-- `HLM_DEVICE` (R642). -/
def HLM_DEVICE : Reg := ⟨0x5000, 1, 0x0, 1, 0x0⟩
def HLM_DEVICE_STATE : Fld := ⟨HLM_DEVICE, 31, 30⟩
def HLM_DEVICE_CAUSE : Fld := ⟨HLM_DEVICE, 23, 16⟩
/-- `HLM_SUMMARY_CORE` (R642). -/
def HLM_SUMMARY_CORE : Reg := ⟨0x5004, 1, 0x0, 1, 0x0⟩
def HLM_SUMMARY_CORE_CORES_AMBER : Fld := ⟨HLM_SUMMARY_CORE, 31, 24⟩
def HLM_SUMMARY_CORE_CORES_UMBER : Fld := ⟨HLM_SUMMARY_CORE, 23, 16⟩
def HLM_SUMMARY_CORE_GALLERIES_AMBER : Fld := ⟨HLM_SUMMARY_CORE, 15, 8⟩
def HLM_SUMMARY_CORE_GALLERIES_UMBER : Fld := ⟨HLM_SUMMARY_CORE, 7, 0⟩
/-- `HLM_SUMMARY_MEM` (R642). -/
def HLM_SUMMARY_MEM : Reg := ⟨0x5008, 1, 0x0, 1, 0x0⟩
def HLM_SUMMARY_MEM_PC_AMBER : Fld := ⟨HLM_SUMMARY_MEM, 31, 16⟩
def HLM_SUMMARY_MEM_PC_UMBER : Fld := ⟨HLM_SUMMARY_MEM, 15, 0⟩
/-- `HLM_SUMMARY_LANE` (R642). -/
def HLM_SUMMARY_LANE : Reg := ⟨0x500c, 1, 0x0, 1, 0x0⟩
def HLM_SUMMARY_LANE_LANES_AMBER : Fld := ⟨HLM_SUMMARY_LANE, 15, 8⟩
def HLM_SUMMARY_LANE_LANES_UMBER : Fld := ⟨HLM_SUMMARY_LANE, 7, 0⟩
/-- `HLM_EVENTS` (R642). -/
def HLM_EVENTS : Reg := ⟨0x5010, 1, 0x0, 1, 0x0⟩
def HLM_EVENTS_COUNT : Fld := ⟨HLM_EVENTS, 31, 0⟩
/-- `HLM_EVT_LAST` (R642). -/
def HLM_EVT_LAST : Reg := ⟨0x5014, 1, 0x0, 1, 0x0⟩
def HLM_EVT_LAST_KIND : Fld := ⟨HLM_EVT_LAST, 31, 24⟩
def HLM_EVT_LAST_UNIT : Fld := ⟨HLM_EVT_LAST, 9, 0⟩
/-- `HLM_UNIT_SEL` (R642). -/
def HLM_UNIT_SEL : Reg := ⟨0x5020, 1, 0x0, 1, 0x0⟩
def HLM_UNIT_SEL_UNIT : Fld := ⟨HLM_UNIT_SEL, 9, 0⟩
/-- `HLM_UNIT_STATE` (R642). -/
def HLM_UNIT_STATE : Reg := ⟨0x5024, 1, 0x0, 1, 0x0⟩
def HLM_UNIT_STATE_STATE : Fld := ⟨HLM_UNIT_STATE, 31, 30⟩
def HLM_UNIT_STATE_HISTORY : Fld := ⟨HLM_UNIT_STATE, 29, 29⟩
def HLM_UNIT_STATE_ACTION : Fld := ⟨HLM_UNIT_STATE, 28, 28⟩
def HLM_UNIT_STATE_ESTIMATED : Fld := ⟨HLM_UNIT_STATE, 27, 27⟩
def HLM_UNIT_STATE_LAST_KIND : Fld := ⟨HLM_UNIT_STATE, 23, 16⟩
def HLM_UNIT_STATE_RECENT : Fld := ⟨HLM_UNIT_STATE, 15, 8⟩
/-- `HLM_UNIT_EVENTS` (R642). -/
def HLM_UNIT_EVENTS : Reg := ⟨0x5028, 1, 0x0, 1, 0x0⟩
def HLM_UNIT_EVENTS_COUNT : Fld := ⟨HLM_UNIT_EVENTS, 31, 0⟩
/-- `HLM_UNIT_LAST_LO` (R642). -/
def HLM_UNIT_LAST_LO : Reg := ⟨0x502c, 1, 0x0, 1, 0x0⟩
def HLM_UNIT_LAST_LO_UTC_US : Fld := ⟨HLM_UNIT_LAST_LO, 31, 0⟩
/-- `HLM_UNIT_LAST_HI` (R642). -/
def HLM_UNIT_LAST_HI : Reg := ⟨0x5030, 1, 0x0, 1, 0x0⟩
def HLM_UNIT_LAST_HI_UTC_US : Fld := ⟨HLM_UNIT_LAST_HI, 31, 0⟩
/-- `HLM_UNIT_CMD` (R642). -/
def HLM_UNIT_CMD : Reg := ⟨0x5034, 1, 0x0, 1, 0x0⟩
def HLM_UNIT_CMD_GO : Fld := ⟨HLM_UNIT_CMD, 31, 31⟩
def HLM_UNIT_CMD_UNIT : Fld := ⟨HLM_UNIT_CMD, 25, 16⟩
def HLM_UNIT_CMD_OP : Fld := ⟨HLM_UNIT_CMD, 1, 0⟩
/-- `HLM_SCAN_CTRL` (R642). -/
def HLM_SCAN_CTRL : Reg := ⟨0x5040, 1, 0x0, 1, 0x0⟩
def HLM_SCAN_CTRL_ENABLE : Fld := ⟨HLM_SCAN_CTRL, 31, 31⟩
def HLM_SCAN_CTRL_PERIOD_H : Fld := ⟨HLM_SCAN_CTRL, 23, 16⟩
def HLM_SCAN_CTRL_DRAIN_MS : Fld := ⟨HLM_SCAN_CTRL, 7, 0⟩
/-- `HLM_SCAN_STATUS` (R642). -/
def HLM_SCAN_STATUS : Reg := ⟨0x5044, 1, 0x0, 1, 0x0⟩
def HLM_SCAN_STATUS_STATE : Fld := ⟨HLM_SCAN_STATUS, 31, 28⟩
def HLM_SCAN_STATUS_GALLERY : Fld := ⟨HLM_SCAN_STATUS, 27, 24⟩
def HLM_SCAN_STATUS_LAST_RESULT : Fld := ⟨HLM_SCAN_STATUS, 23, 16⟩
/-- `HLM_SCAN_NEXT_LO` (R642). -/
def HLM_SCAN_NEXT_LO : Reg := ⟨0x5048, 1, 0x0, 1, 0x0⟩
def HLM_SCAN_NEXT_LO_TIME : Fld := ⟨HLM_SCAN_NEXT_LO, 31, 0⟩
/-- `HLM_SCAN_NEXT_HI` (R642). -/
def HLM_SCAN_NEXT_HI : Reg := ⟨0x504c, 1, 0x0, 1, 0x0⟩
def HLM_SCAN_NEXT_HI_TIME : Fld := ⟨HLM_SCAN_NEXT_HI, 31, 0⟩
/-- `HLM_SCANS` (R642). -/
def HLM_SCANS : Reg := ⟨0x5050, 1, 0x0, 1, 0x0⟩
def HLM_SCANS_COUNT : Fld := ⟨HLM_SCANS, 31, 0⟩
/-- `HLM_SCAN_FAILS` (R642). -/
def HLM_SCAN_FAILS : Reg := ⟨0x5054, 1, 0x0, 1, 0x0⟩
def HLM_SCAN_FAILS_COUNT : Fld := ⟨HLM_SCAN_FAILS, 31, 0⟩
/-- `HLM_FLASH` (R642). -/
def HLM_FLASH : Reg := ⟨0x5060, 1, 0x0, 1, 0x0⟩
def HLM_FLASH_PENDING : Fld := ⟨HLM_FLASH, 31, 31⟩
/-- `HLM_FLASH_LAST_LO` (R642). -/
def HLM_FLASH_LAST_LO : Reg := ⟨0x5064, 1, 0x0, 1, 0x0⟩
def HLM_FLASH_LAST_LO_TIME : Fld := ⟨HLM_FLASH_LAST_LO, 31, 0⟩
/-- `HLM_FLASH_LAST_HI` (R642). -/
def HLM_FLASH_LAST_HI : Reg := ⟨0x5068, 1, 0x0, 1, 0x0⟩
def HLM_FLASH_LAST_HI_TIME : Fld := ⟨HLM_FLASH_LAST_HI, 31, 0⟩
/-- `HLM_LIFE_SEL` (R642). -/
def HLM_LIFE_SEL : Reg := ⟨0x5070, 1, 0x0, 1, 0x0⟩
def HLM_LIFE_SEL_INDEX : Fld := ⟨HLM_LIFE_SEL, 7, 0⟩
/-- `HLM_LIFE_LO` (R642). -/
def HLM_LIFE_LO : Reg := ⟨0x5074, 1, 0x0, 1, 0x0⟩
def HLM_LIFE_LO_VALUE : Fld := ⟨HLM_LIFE_LO, 31, 0⟩
/-- `HLM_LIFE_HI` (R642). -/
def HLM_LIFE_HI : Reg := ⟨0x5078, 1, 0x0, 1, 0x0⟩
def HLM_LIFE_HI_VALUE : Fld := ⟨HLM_LIFE_HI, 31, 0⟩
/-- `CVU_CFG` (R644). -/
def CVU_CFG : Reg := ⟨0x104000, 16, 0x10000, 2, 0x80⟩
def CVU_CFG_MODE : Fld := ⟨CVU_CFG, 31, 29⟩
def CVU_CFG_CHUNK_LOG2 : Fld := ⟨CVU_CFG, 28, 24⟩
def CVU_CFG_FINAL_INV : Fld := ⟨CVU_CFG, 10, 10⟩
def CVU_CFG_REFOUT : Fld := ⟨CVU_CFG, 9, 9⟩
def CVU_CFG_REFIN : Fld := ⟨CVU_CFG, 8, 8⟩
def CVU_CFG_WIDTH : Fld := ⟨CVU_CFG, 6, 0⟩
/-- `CVU_POLY_LO` (R644). -/
def CVU_POLY_LO : Reg := ⟨0x104004, 16, 0x10000, 2, 0x80⟩
def CVU_POLY_LO_POLY : Fld := ⟨CVU_POLY_LO, 31, 0⟩
/-- `CVU_POLY_HI` (R644). -/
def CVU_POLY_HI : Reg := ⟨0x104008, 16, 0x10000, 2, 0x80⟩
def CVU_POLY_HI_POLY : Fld := ⟨CVU_POLY_HI, 31, 0⟩
/-- `CVU_INIT_LO` (R644). -/
def CVU_INIT_LO : Reg := ⟨0x10400c, 16, 0x10000, 2, 0x80⟩
def CVU_INIT_LO_INIT : Fld := ⟨CVU_INIT_LO, 31, 0⟩
/-- `CVU_INIT_HI` (R644). -/
def CVU_INIT_HI : Reg := ⟨0x104010, 16, 0x10000, 2, 0x80⟩
def CVU_INIT_HI_INIT : Fld := ⟨CVU_INIT_HI, 31, 0⟩
/-- `CVU_ADDR_LO` (R644). -/
def CVU_ADDR_LO : Reg := ⟨0x104014, 16, 0x10000, 2, 0x80⟩
def CVU_ADDR_LO_ADDR : Fld := ⟨CVU_ADDR_LO, 31, 6⟩
/-- `CVU_ADDR_HI` (R644). -/
def CVU_ADDR_HI : Reg := ⟨0x104018, 16, 0x10000, 2, 0x80⟩
def CVU_ADDR_HI_ADDR : Fld := ⟨CVU_ADDR_HI, 24, 0⟩
/-- `CVU_LEN_LO` (R644). -/
def CVU_LEN_LO : Reg := ⟨0x10401c, 16, 0x10000, 2, 0x80⟩
def CVU_LEN_LO_LEN : Fld := ⟨CVU_LEN_LO, 31, 0⟩
/-- `CVU_LEN_HI` (R644). -/
def CVU_LEN_HI : Reg := ⟨0x104020, 16, 0x10000, 2, 0x80⟩
def CVU_LEN_HI_LEN : Fld := ⟨CVU_LEN_HI, 15, 0⟩
/-- `CVU_TABLE_LO` (R644). -/
def CVU_TABLE_LO : Reg := ⟨0x104024, 16, 0x10000, 2, 0x80⟩
def CVU_TABLE_LO_ADDR : Fld := ⟨CVU_TABLE_LO, 31, 6⟩
/-- `CVU_TABLE_HI` (R644). -/
def CVU_TABLE_HI : Reg := ⟨0x104028, 16, 0x10000, 2, 0x80⟩
def CVU_TABLE_HI_ADDR : Fld := ⟨CVU_TABLE_HI, 24, 0⟩
/-- `CVU_CTRL` (R644). -/
def CVU_CTRL : Reg := ⟨0x10402c, 16, 0x10000, 2, 0x80⟩
def CVU_CTRL_GO : Fld := ⟨CVU_CTRL, 31, 31⟩
def CVU_CTRL_ABORT : Fld := ⟨CVU_CTRL, 30, 30⟩
/-- `CVU_STATUS` (R644). -/
def CVU_STATUS : Reg := ⟨0x104030, 16, 0x10000, 2, 0x80⟩
def CVU_STATUS_STATE : Fld := ⟨CVU_STATUS, 31, 28⟩
def CVU_STATUS_RESULT : Fld := ⟨CVU_STATUS, 23, 16⟩
def CVU_STATUS_FAULT : Fld := ⟨CVU_STATUS, 15, 8⟩
def CVU_STATUS_CAUSE : Fld := ⟨CVU_STATUS, 7, 0⟩
/-- `CVU_RESULT_LO` (R644). -/
def CVU_RESULT_LO : Reg := ⟨0x104034, 16, 0x10000, 2, 0x80⟩
def CVU_RESULT_LO_VALUE : Fld := ⟨CVU_RESULT_LO, 31, 0⟩
/-- `CVU_RESULT_HI` (R644). -/
def CVU_RESULT_HI : Reg := ⟨0x104038, 16, 0x10000, 2, 0x80⟩
def CVU_RESULT_HI_VALUE : Fld := ⟨CVU_RESULT_HI, 31, 0⟩
/-- `CVU_MISMATCH` (R644). -/
def CVU_MISMATCH : Reg := ⟨0x10403c, 16, 0x10000, 2, 0x80⟩
def CVU_MISMATCH_COUNT : Fld := ⟨CVU_MISMATCH, 31, 0⟩
/-- `CVU_FIRST_BAD` (R644). -/
def CVU_FIRST_BAD : Reg := ⟨0x104040, 16, 0x10000, 2, 0x80⟩
def CVU_FIRST_BAD_CHUNK : Fld := ⟨CVU_FIRST_BAD, 31, 0⟩
/-- `CVU_BYTES_LO` (R644). -/
def CVU_BYTES_LO : Reg := ⟨0x104044, 16, 0x10000, 2, 0x80⟩
def CVU_BYTES_LO_COUNT : Fld := ⟨CVU_BYTES_LO, 31, 0⟩
/-- `CVU_BYTES_HI` (R644). -/
def CVU_BYTES_HI : Reg := ⟨0x104048, 16, 0x10000, 2, 0x80⟩
def CVU_BYTES_HI_COUNT : Fld := ⟨CVU_BYTES_HI, 31, 0⟩
/-- `PWR_STATUS` (R674). -/
def PWR_STATUS : Reg := ⟨0x6000, 1, 0x0, 1, 0x0⟩
def PWR_STATUS_STAGE : Fld := ⟨PWR_STATUS, 31, 28⟩
def PWR_STATUS_CALIBRATED : Fld := ⟨PWR_STATUS, 27, 27⟩
def PWR_STATUS_PKG_LIMITED : Fld := ⟨PWR_STATUS, 26, 26⟩
def PWR_STATUS_THROTTLE : Fld := ⟨PWR_STATUS, 25, 25⟩
def PWR_STATUS_EARLY : Fld := ⟨PWR_STATUS, 24, 24⟩
def PWR_STATUS_SHUTDOWN : Fld := ⟨PWR_STATUS, 23, 23⟩
/-- `PWR_BOOT` (R674). -/
def PWR_BOOT : Reg := ⟨0x6004, 1, 0x0, 1, 0x0⟩
def PWR_BOOT_STACKS_READY : Fld := ⟨PWR_BOOT, 31, 16⟩
def PWR_BOOT_SURVEY : Fld := ⟨PWR_BOOT, 15, 14⟩
def PWR_BOOT_EARLY : Fld := ⟨PWR_BOOT, 11, 8⟩
def PWR_BOOT_RESET_KIND : Fld := ⟨PWR_BOOT, 7, 4⟩
def PWR_BOOT_LAST_TRIP : Fld := ⟨PWR_BOOT, 3, 0⟩
/-- `PWR_CTRL` (R674). -/
def PWR_CTRL : Reg := ⟨0x6008, 1, 0x0, 1, 0x0⟩
def PWR_CTRL_SHUTDOWN : Fld := ⟨PWR_CTRL, 31, 31⟩
def PWR_CTRL_WARM_RESET : Fld := ⟨PWR_CTRL, 30, 30⟩
def PWR_CTRL_PORT_RESET : Fld := ⟨PWR_CTRL, 29, 29⟩
def PWR_CTRL_BOOST : Fld := ⟨PWR_CTRL, 28, 28⟩
def PWR_CTRL_CAP_W : Fld := ⟨PWR_CTRL, 10, 0⟩
/-- `PWR_PKG` (R674). -/
def PWR_PKG : Reg := ⟨0x600c, 1, 0x0, 1, 0x0⟩
def PWR_PKG_MAX_W : Fld := ⟨PWR_PKG, 31, 16⟩
def PWR_PKG_NOW_W : Fld := ⟨PWR_PKG, 15, 0⟩
/-- `PWR_THERM` (R674). -/
def PWR_THERM : Reg := ⟨0x6010, 1, 0x0, 1, 0x0⟩
def PWR_THERM_HOT_C : Fld := ⟨PWR_THERM, 31, 24⟩
def PWR_THERM_HOT_DOMAIN : Fld := ⟨PWR_THERM, 23, 16⟩
def PWR_THERM_THROTTLE_C : Fld := ⟨PWR_THERM, 15, 8⟩
def PWR_THERM_STACK_HOT_C : Fld := ⟨PWR_THERM, 7, 0⟩
/-- `PWR_MARGIN` (R674). -/
def PWR_MARGIN : Reg := ⟨0x6014, 1, 0x0, 1, 0x0⟩
def PWR_MARGIN_FLOOR : Fld := ⟨PWR_MARGIN, 23, 16⟩
def PWR_MARGIN_HYST : Fld := ⟨PWR_MARGIN, 15, 8⟩
def PWR_MARGIN_EMERGENCY : Fld := ⟨PWR_MARGIN, 7, 0⟩
/-- `PWR_ENERGY_LO` (R674). -/
def PWR_ENERGY_LO : Reg := ⟨0x6018, 1, 0x0, 1, 0x0⟩
def PWR_ENERGY_LO_MJ : Fld := ⟨PWR_ENERGY_LO, 31, 0⟩
/-- `PWR_ENERGY_HI` (R674). -/
def PWR_ENERGY_HI : Reg := ⟨0x601c, 1, 0x0, 1, 0x0⟩
def PWR_ENERGY_HI_MJ : Fld := ⟨PWR_ENERGY_HI, 31, 0⟩
/-- `PWR_DOM_V` (R674). -/
def PWR_DOM_V : Reg := ⟨0x6600, 17, 0x10, 1, 0x0⟩
def PWR_DOM_V_TARGET_MV : Fld := ⟨PWR_DOM_V, 31, 16⟩
def PWR_DOM_V_MEASURED_MV : Fld := ⟨PWR_DOM_V, 15, 0⟩
/-- `PWR_DOM_SLACK` (R674). -/
def PWR_DOM_SLACK : Reg := ⟨0x6604, 17, 0x10, 1, 0x0⟩
def PWR_DOM_SLACK_WORST : Fld := ⟨PWR_DOM_SLACK, 31, 24⟩
def PWR_DOM_SLACK_CANARY : Fld := ⟨PWR_DOM_SLACK, 23, 18⟩
def PWR_DOM_SLACK_AMBER : Fld := ⟨PWR_DOM_SLACK, 17, 17⟩
def PWR_DOM_SLACK_STRETCH : Fld := ⟨PWR_DOM_SLACK, 16, 16⟩
def PWR_DOM_SLACK_LEARNED_MV : Fld := ⟨PWR_DOM_SLACK, 15, 8⟩
def PWR_DOM_SLACK_EMERG : Fld := ⟨PWR_DOM_SLACK, 7, 0⟩
/-- `PWR_DOM_TEMP` (R674). -/
def PWR_DOM_TEMP : Reg := ⟨0x6608, 17, 0x10, 1, 0x0⟩
def PWR_DOM_TEMP_TEMP_C : Fld := ⟨PWR_DOM_TEMP, 31, 24⟩
def PWR_DOM_TEMP_POWER_W : Fld := ⟨PWR_DOM_TEMP, 15, 0⟩
/-- `PWR_CH_POWER` (R674). -/
def PWR_CH_POWER : Reg := ⟨0x6800, 16, 0x10, 1, 0x0⟩
def PWR_CH_POWER_CAPPED : Fld := ⟨PWR_CH_POWER, 31, 31⟩
def PWR_CH_POWER_THROTTLED : Fld := ⟨PWR_CH_POWER, 30, 30⟩
def PWR_CH_POWER_RATE_MHZ : Fld := ⟨PWR_CH_POWER, 27, 16⟩
def PWR_CH_POWER_DRAW_W : Fld := ⟨PWR_CH_POWER, 15, 0⟩
/-- `TBC_NOW_LO` (R693). -/
def TBC_NOW_LO : Reg := ⟨0x7000, 1, 0x0, 1, 0x0⟩
def TBC_NOW_LO_TIME : Fld := ⟨TBC_NOW_LO, 31, 0⟩
/-- `TBC_NOW_HI` (R693). -/
def TBC_NOW_HI : Reg := ⟨0x7004, 1, 0x0, 1, 0x0⟩
def TBC_NOW_HI_TIME : Fld := ⟨TBC_NOW_HI, 31, 0⟩
/-- `TBC_STATUS` (R693). -/
def TBC_STATUS : Reg := ⟨0x7008, 1, 0x0, 1, 0x0⟩
def TBC_STATUS_LOCKED : Fld := ⟨TBC_STATUS, 31, 31⟩
def TBC_STATUS_MASTER : Fld := ⟨TBC_STATUS, 30, 30⟩
def TBC_STATUS_HOLDOVER : Fld := ⟨TBC_STATUS, 29, 29⟩
def TBC_STATUS_HELD : Fld := ⟨TBC_STATUS, 28, 28⟩
def TBC_STATUS_SYNC_PORT : Fld := ⟨TBC_STATUS, 19, 16⟩
def TBC_STATUS_HOPS : Fld := ⟨TBC_STATUS, 7, 0⟩
/-- `TBC_OFFSET` (R693). -/
def TBC_OFFSET : Reg := ⟨0x700c, 1, 0x0, 1, 0x0⟩
def TBC_OFFSET_PS : Fld := ⟨TBC_OFFSET, 31, 0⟩
/-- `TBC_SYNCS` (R693). -/
def TBC_SYNCS : Reg := ⟨0x7010, 1, 0x0, 1, 0x0⟩
def TBC_SYNCS_COUNT : Fld := ⟨TBC_SYNCS, 31, 0⟩
/-- `TBC_SYNC_LOST` (R693). -/
def TBC_SYNC_LOST : Reg := ⟨0x7014, 1, 0x0, 1, 0x0⟩
def TBC_SYNC_LOST_COUNT : Fld := ⟨TBC_SYNC_LOST, 31, 0⟩
/-- `TBC_STEPS` (R693). -/
def TBC_STEPS : Reg := ⟨0x7018, 1, 0x0, 1, 0x0⟩
def TBC_STEPS_COUNT : Fld := ⟨TBC_STEPS, 31, 0⟩
/-- `TRU_STATUS` (R694). -/
def TRU_STATUS : Reg := ⟨0x8000, 1, 0x0, 1, 0x0⟩
def TRU_STATUS_BUSY : Fld := ⟨TRU_STATUS, 31, 31⟩
def TRU_STATUS_FIFO_MAX : Fld := ⟨TRU_STATUS, 10, 0⟩
/-- `TRU_CTRL` (R694). -/
def TRU_CTRL : Reg := ⟨0x8100, 16, 0x40, 1, 0x0⟩
def TRU_CTRL_ENABLE : Fld := ⟨TRU_CTRL, 31, 31⟩
def TRU_CTRL_TRIGGER : Fld := ⟨TRU_CTRL, 30, 30⟩
def TRU_CTRL_RESTART : Fld := ⟨TRU_CTRL, 29, 29⟩
def TRU_CTRL_MODE : Fld := ⟨TRU_CTRL, 25, 24⟩
def TRU_CTRL_LOG_RECS : Fld := ⟨TRU_CTRL, 20, 16⟩
def TRU_CTRL_PC_LOG2 : Fld := ⟨TRU_CTRL, 12, 8⟩
def TRU_CTRL_EVENTS : Fld := ⟨TRU_CTRL, 4, 0⟩
/-- `TRU_BUF_LO` (R694). -/
def TRU_BUF_LO : Reg := ⟨0x8104, 16, 0x40, 1, 0x0⟩
def TRU_BUF_LO_ADDR : Fld := ⟨TRU_BUF_LO, 31, 6⟩
/-- `TRU_BUF_HI` (R694). -/
def TRU_BUF_HI : Reg := ⟨0x8108, 16, 0x40, 1, 0x0⟩
def TRU_BUF_HI_ADDR : Fld := ⟨TRU_BUF_HI, 24, 0⟩
/-- `TRU_POST` (R694). -/
def TRU_POST : Reg := ⟨0x810c, 16, 0x40, 1, 0x0⟩
def TRU_POST_POST : Fld := ⟨TRU_POST, 20, 0⟩
/-- `TRU_TRIG` (R694). -/
def TRU_TRIG : Reg := ⟨0x8110, 16, 0x40, 1, 0x0⟩
def TRU_TRIG_FAULT : Fld := ⟨TRU_TRIG, 31, 31⟩
def TRU_TRIG_LATE : Fld := ⟨TRU_TRIG, 30, 30⟩
def TRU_TRIG_TIME : Fld := ⟨TRU_TRIG, 29, 29⟩
/-- `TRU_TRIG_TIME_LO` (R694). -/
def TRU_TRIG_TIME_LO : Reg := ⟨0x8114, 16, 0x40, 1, 0x0⟩
def TRU_TRIG_TIME_LO_TIME : Fld := ⟨TRU_TRIG_TIME_LO, 31, 0⟩
/-- `TRU_TRIG_TIME_HI` (R694). -/
def TRU_TRIG_TIME_HI : Reg := ⟨0x8118, 16, 0x40, 1, 0x0⟩
def TRU_TRIG_TIME_HI_TIME : Fld := ⟨TRU_TRIG_TIME_HI, 31, 0⟩
/-- `TRU_STATE` (R694). -/
def TRU_STATE : Reg := ⟨0x811c, 16, 0x40, 1, 0x0⟩
def TRU_STATE_STATE : Fld := ⟨TRU_STATE, 31, 28⟩
def TRU_STATE_TRIG_VALID : Fld := ⟨TRU_STATE, 23, 23⟩
def TRU_STATE_TRIG_CORE : Fld := ⟨TRU_STATE, 22, 16⟩
/-- `TRU_DROPPED` (R694). -/
def TRU_DROPPED : Reg := ⟨0x8120, 16, 0x40, 1, 0x0⟩
def TRU_DROPPED_COUNT : Fld := ⟨TRU_DROPPED, 31, 0⟩
/-- `TRU_RECORDS_LO` (R694). -/
def TRU_RECORDS_LO : Reg := ⟨0x8124, 16, 0x40, 1, 0x0⟩
def TRU_RECORDS_LO_COUNT : Fld := ⟨TRU_RECORDS_LO, 31, 0⟩
/-- `TRU_RECORDS_HI` (R694). -/
def TRU_RECORDS_HI : Reg := ⟨0x8128, 16, 0x40, 1, 0x0⟩
def TRU_RECORDS_HI_COUNT : Fld := ⟨TRU_RECORDS_HI, 31, 0⟩
/-- `TRU_TRIG_IGNORED` (R694). -/
def TRU_TRIG_IGNORED : Reg := ⟨0x812c, 16, 0x40, 1, 0x0⟩
def TRU_TRIG_IGNORED_COUNT : Fld := ⟨TRU_TRIG_IGNORED, 31, 0⟩

end Sys2Proof.Machine
end

