-- ==== Sys2Proof/Machine/RegTable.lean ====
section
/-! DEFINITION. The access code and reset value of every field of every control-space register (R13 to R18), block by
block, and the look-up of a register by its address (R717, R718). A reset the spec gives as a dash is 0 here (log
entry 1). -/

namespace Sys2Proof.Machine

/-- The fields of the PWR registers, with the access code and reset value the layouts give. -/
def regsPWR : List RegDesc := [
  ⟨PWR_RATE_UNC, [⟨PWR_RATE_UNC_VALID, .ro, 0x0⟩, ⟨PWR_RATE_UNC_CAPPED, .ro, 0x0⟩, ⟨PWR_RATE_UNC_RATIO, .ro, 0x0⟩, ⟨PWR_RATE_UNC_RATE_MHZ, .ro, 0x0⟩]⟩,
  ⟨PWR_RATE_G, [⟨PWR_RATE_G_VALID, .ro, 0x0⟩, ⟨PWR_RATE_G_CAPPED, .ro, 0x0⟩, ⟨PWR_RATE_G_RATIO, .ro, 0x0⟩, ⟨PWR_RATE_G_RATE_MHZ, .ro, 0x0⟩]⟩,
  ⟨PWR_RATE_CORE, [⟨PWR_RATE_CORE_VALID, .ro, 0x0⟩, ⟨PWR_RATE_CORE_CAPPED, .ro, 0x0⟩, ⟨PWR_RATE_CORE_RATIO, .ro, 0x0⟩, ⟨PWR_RATE_CORE_RATE_MHZ, .ro, 0x0⟩]⟩,
  ⟨PWR_RATE_LOW_UNC, [⟨PWR_RATE_LOW_UNC_VALID, .rc, 0x0⟩, ⟨PWR_RATE_LOW_UNC_LOW_MHZ, .rc, 0x0⟩]⟩,
  ⟨PWR_RATE_LOW_G, [⟨PWR_RATE_LOW_G_VALID, .rc, 0x0⟩, ⟨PWR_RATE_LOW_G_LOW_MHZ, .rc, 0x0⟩]⟩,
  ⟨PWR_RATE_DEV, [⟨PWR_RATE_DEV_VALID, .ro, 0x0⟩, ⟨PWR_RATE_DEV_MEAN_RATIO, .ro, 0x0⟩, ⟨PWR_RATE_DEV_LIVE_CORES, .ro, 0x0⟩]⟩,
  ⟨PWR_STATUS, [⟨PWR_STATUS_STAGE, .ro, 0x1⟩, ⟨PWR_STATUS_CALIBRATED, .ro, 0x0⟩, ⟨PWR_STATUS_PKG_LIMITED, .ro, 0x0⟩, ⟨PWR_STATUS_THROTTLE, .ro, 0x0⟩, ⟨PWR_STATUS_EARLY, .ro, 0x0⟩, ⟨PWR_STATUS_SHUTDOWN, .ro, 0x0⟩]⟩,
  ⟨PWR_BOOT, [⟨PWR_BOOT_STACKS_READY, .ro, 0x0⟩, ⟨PWR_BOOT_SURVEY, .ro, 0x0⟩, ⟨PWR_BOOT_EARLY, .ro, 0x0⟩, ⟨PWR_BOOT_RESET_KIND, .ro, 0⟩, ⟨PWR_BOOT_LAST_TRIP, .ro, 0⟩]⟩,
  ⟨PWR_CTRL, [⟨PWR_CTRL_SHUTDOWN, .wo, 0x0⟩, ⟨PWR_CTRL_WARM_RESET, .wo, 0x0⟩, ⟨PWR_CTRL_PORT_RESET, .wo, 0x0⟩, ⟨PWR_CTRL_BOOST, .ow, 0x1⟩, ⟨PWR_CTRL_CAP_W, .ow, 0x708⟩]⟩,
  ⟨PWR_PKG, [⟨PWR_PKG_MAX_W, .rc, 0x0⟩, ⟨PWR_PKG_NOW_W, .ro, 0x0⟩]⟩,
  ⟨PWR_THERM, [⟨PWR_THERM_HOT_C, .ro, 0x0⟩, ⟨PWR_THERM_HOT_DOMAIN, .ro, 0x0⟩, ⟨PWR_THERM_THROTTLE_C, .ow, 0x64⟩, ⟨PWR_THERM_STACK_HOT_C, .ro, 0x0⟩]⟩,
  ⟨PWR_MARGIN, [⟨PWR_MARGIN_FLOOR, .ow, 0x14⟩, ⟨PWR_MARGIN_HYST, .ow, 0x8⟩, ⟨PWR_MARGIN_EMERGENCY, .ow, 0x4⟩]⟩,
  ⟨PWR_ENERGY_LO, [⟨PWR_ENERGY_LO_MJ, .ro, 0x0⟩]⟩,
  ⟨PWR_ENERGY_HI, [⟨PWR_ENERGY_HI_MJ, .ro, 0x0⟩]⟩,
  ⟨PWR_DOM_V, [⟨PWR_DOM_V_TARGET_MV, .ro, 0⟩, ⟨PWR_DOM_V_MEASURED_MV, .ro, 0⟩]⟩,
  ⟨PWR_DOM_SLACK, [⟨PWR_DOM_SLACK_WORST, .ro, 0x0⟩, ⟨PWR_DOM_SLACK_CANARY, .ro, 0x0⟩, ⟨PWR_DOM_SLACK_AMBER, .ro, 0x0⟩, ⟨PWR_DOM_SLACK_STRETCH, .ro, 0x0⟩, ⟨PWR_DOM_SLACK_LEARNED_MV, .ro, 0x0⟩, ⟨PWR_DOM_SLACK_EMERG, .rc, 0x0⟩]⟩,
  ⟨PWR_DOM_TEMP, [⟨PWR_DOM_TEMP_TEMP_C, .ro, 0x0⟩, ⟨PWR_DOM_TEMP_POWER_W, .ro, 0x0⟩]⟩,
  ⟨PWR_CH_POWER, [⟨PWR_CH_POWER_CAPPED, .ro, 0x0⟩, ⟨PWR_CH_POWER_THROTTLED, .ro, 0x0⟩, ⟨PWR_CH_POWER_RATE_MHZ, .ro, 0x0⟩, ⟨PWR_CH_POWER_DRAW_W, .ro, 0x0⟩]⟩]

/-- The fields of the SVY registers, with the access code and reset value the layouts give. -/
def regsSVY : List RegDesc := [
  ⟨SVY_CTRL, [⟨SVY_CTRL_ABORT, .wo, 0x0⟩, ⟨SVY_CTRL_COMMIT, .wo, 0x0⟩, ⟨SVY_CTRL_STAGE, .wo, 0x0⟩]⟩,
  ⟨SVY_STATUS, [⟨SVY_STATUS_STATE, .ro, 0x0⟩, ⟨SVY_STATUS_ERR_CODE, .ro, 0x0⟩, ⟨SVY_STATUS_ERR_SECTION, .ro, 0xffff⟩]⟩,
  ⟨SVY_STAGE_LEN, [⟨SVY_STAGE_LEN_LEN, .ow, 0x0⟩]⟩,
  ⟨SVY_STAGE_BASE_LO, [⟨SVY_STAGE_BASE_LO_ADDR, .ro, 0x2000000⟩]⟩,
  ⟨SVY_STAGE_BASE_HI, [⟨SVY_STAGE_BASE_HI_ADDR, .ro, 0x0⟩]⟩,
  ⟨SVY_ACTIVE_ID, [⟨SVY_ACTIVE_ID_ID, .ro, 0x0⟩]⟩,
  ⟨SVY_ACTIVE_VER, [⟨SVY_ACTIVE_VER_VER, .ro, 0x0⟩]⟩,
  ⟨SVY_FLASH, [⟨SVY_FLASH_ACTIVE, .ro, 0⟩, ⟨SVY_FLASH_A_VALID, .ro, 0⟩, ⟨SVY_FLASH_B_VALID, .ro, 0⟩]⟩,
  ⟨SVY_REFUSALS, [⟨SVY_REFUSALS_COUNT, .rc, 0x0⟩]⟩,
  ⟨SVY_DIGEST, [⟨SVY_DIGEST_WORD, .ro, 0x0⟩]⟩]

/-- The fields of the CHB registers, with the access code and reset value the layouts give. -/
def regsCHB : List RegDesc := [
  ⟨CHB_STATE, [⟨CHB_STATE_STATE, .ro, 0x0⟩, ⟨CHB_STATE_KIND, .ro, 0x0⟩, ⟨CHB_STATE_GALLERIES, .ro, 0x0⟩]⟩,
  ⟨CHB_LIVE, [⟨CHB_LIVE_LIVE_GALLERIES, .ro, 0x0⟩, ⟨CHB_LIVE_LIVE_CORES, .ro, 0x0⟩]⟩,
  ⟨CHB_STACKS, [⟨CHB_STACKS_STACKS, .ro, 0x0⟩, ⟨CHB_STACKS_PER_STACK, .ro, 0x0⟩]⟩,
  ⟨CHB_PORTS, [⟨CHB_PORTS_OWNED, .ro, 0x0⟩, ⟨CHB_PORTS_SHARED, .ro, 0x0⟩]⟩,
  ⟨CHB_BUDGET, [⟨CHB_BUDGET_POWER_W, .ro, 0x0⟩, ⟨CHB_BUDGET_LOCK_OR_WEIGHT, .ro, 0x0⟩]⟩,
  ⟨CHB_KV, [⟨CHB_KV_KV_GIB, .ro, 0x0⟩]⟩,
  ⟨CHB_LOADS, [⟨CHB_LOADS_COUNT, .ro, 0x0⟩]⟩,
  ⟨CHB_ZERO, [⟨CHB_ZERO_DONE, .ro, 0x1⟩, ⟨CHB_ZERO_GRANULES_LEFT, .ro, 0x0⟩]⟩,
  ⟨CHB_DIGEST, [⟨CHB_DIGEST_WORD, .ro, 0x0⟩]⟩]

/-- The fields of the MXE registers, with the access code and reset value the layouts give. -/
def regsMXE : List RegDesc := [
  ⟨MXE_FLAGS, [⟨MXE_FLAGS_FIRST_STRAND, .ro, 0x0⟩, ⟨MXE_FLAGS_IV, .w1c, 0x0⟩, ⟨MXE_FLAGS_IX, .w1c, 0x0⟩, ⟨MXE_FLAGS_UF, .w1c, 0x0⟩, ⟨MXE_FLAGS_OF, .w1c, 0x0⟩]⟩,
  ⟨MXE_FLAGS_RC, [⟨MXE_FLAGS_RC_FIRST_STRAND, .rc, 0x0⟩, ⟨MXE_FLAGS_RC_IV, .rc, 0x0⟩, ⟨MXE_FLAGS_RC_IX, .rc, 0x0⟩, ⟨MXE_FLAGS_RC_UF, .rc, 0x0⟩, ⟨MXE_FLAGS_RC_OF, .rc, 0x0⟩]⟩,
  ⟨MXE_SR_SEED_LO, [⟨MXE_SR_SEED_LO_SEED, .rw, 0⟩]⟩,
  ⟨MXE_SR_SEED_HI, [⟨MXE_SR_SEED_HI_SEED, .rw, 0⟩]⟩,
  ⟨MXE_STATUS, [⟨MXE_STATUS_BUSY, .ro, 0x0⟩, ⟨MXE_STATUS_BANKS, .ro, 0x0⟩, ⟨MXE_STATUS_QUEUED, .ro, 0x0⟩, ⟨MXE_STATUS_STRAND, .ro, 0x0⟩]⟩,
  ⟨MXE_MAC_LO, [⟨MXE_MAC_LO_COUNT, .ro, 0x0⟩]⟩,
  ⟨MXE_MAC_HI, [⟨MXE_MAC_HI_COUNT, .ro, 0x0⟩]⟩,
  ⟨MXE_BUSY_LO, [⟨MXE_BUSY_LO_COUNT, .ro, 0x0⟩]⟩,
  ⟨MXE_BUSY_HI, [⟨MXE_BUSY_HI_COUNT, .ro, 0x0⟩]⟩,
  ⟨MXE_STALL_LO, [⟨MXE_STALL_LO_COUNT, .ro, 0x0⟩]⟩,
  ⟨MXE_STALL_HI, [⟨MXE_STALL_HI_COUNT, .ro, 0x0⟩]⟩,
  ⟨MXE_RUNS, [⟨MXE_RUNS_COUNT, .rc, 0x0⟩]⟩,
  ⟨MXE_DUP_CTRL, [⟨MXE_DUP_CTRL_ENABLE, .ow, 0x1⟩, ⟨MXE_DUP_CTRL_RATE_LOG2, .ow, 0xa⟩, ⟨MXE_DUP_CTRL_TOL_MULT, .ow, 0x2⟩]⟩,
  ⟨MXE_DUP_SAMPLED, [⟨MXE_DUP_SAMPLED_COUNT, .rc, 0x0⟩]⟩,
  ⟨MXE_DUP_MISMATCH, [⟨MXE_DUP_MISMATCH_COUNT, .rc, 0x0⟩]⟩,
  ⟨MXE_DUP_SKIPPED, [⟨MXE_DUP_SKIPPED_COUNT, .rc, 0x0⟩]⟩,
  ⟨MXE_DUP_LAST, [⟨MXE_DUP_LAST_VALID, .ro, 0x0⟩, ⟨MXE_DUP_LAST_CHECKER, .ro, 0x0⟩, ⟨MXE_DUP_LAST_STRAND, .ro, 0x0⟩]⟩,
  ⟨MXE_DUP_WORST, [⟨MXE_DUP_WORST_RATIO, .rc, 0x0⟩]⟩,
  ⟨MXE_ABORTS, [⟨MXE_ABORTS_COUNT, .rc, 0x0⟩]⟩,
  ⟨MXE_FAULT_LAST, [⟨MXE_FAULT_LAST_CODE, .ro, 0x0⟩, ⟨MXE_FAULT_LAST_STRAND, .ro, 0x0⟩]⟩]

/-- The fields of the VXE registers, with the access code and reset value the layouts give. -/
def regsVXE : List RegDesc := [
  ⟨VXE_FLAGS, [⟨VXE_FLAGS_FIRST_STRAND, .ro, 0x0⟩, ⟨VXE_FLAGS_IV, .w1c, 0x0⟩, ⟨VXE_FLAGS_IX, .w1c, 0x0⟩, ⟨VXE_FLAGS_UF, .w1c, 0x0⟩, ⟨VXE_FLAGS_OF, .w1c, 0x0⟩]⟩,
  ⟨VXE_FLAGS_RC, [⟨VXE_FLAGS_RC_FIRST_STRAND, .rc, 0x0⟩, ⟨VXE_FLAGS_RC_IV, .rc, 0x0⟩, ⟨VXE_FLAGS_RC_IX, .rc, 0x0⟩, ⟨VXE_FLAGS_RC_UF, .rc, 0x0⟩, ⟨VXE_FLAGS_RC_OF, .rc, 0x0⟩]⟩,
  ⟨VXE_SR_SEED_LO, [⟨VXE_SR_SEED_LO_SEED, .rw, 0⟩]⟩,
  ⟨VXE_SR_SEED_HI, [⟨VXE_SR_SEED_HI_SEED, .rw, 0⟩]⟩,
  ⟨VXE_STATUS, [⟨VXE_STATUS_BUSY, .ro, 0x0⟩, ⟨VXE_STATUS_QUEUED, .ro, 0x0⟩, ⟨VXE_STATUS_ATU, .ro, 0x0⟩, ⟨VXE_STATUS_STRAND, .ro, 0x0⟩]⟩,
  ⟨VXE_ELEM_LO, [⟨VXE_ELEM_LO_COUNT, .ro, 0x0⟩]⟩,
  ⟨VXE_ELEM_HI, [⟨VXE_ELEM_HI_COUNT, .ro, 0x0⟩]⟩,
  ⟨VXE_BUSY_LO, [⟨VXE_BUSY_LO_COUNT, .ro, 0x0⟩]⟩,
  ⟨VXE_BUSY_HI, [⟨VXE_BUSY_HI_COUNT, .ro, 0x0⟩]⟩,
  ⟨VXE_STALL_LO, [⟨VXE_STALL_LO_COUNT, .ro, 0x0⟩]⟩,
  ⟨VXE_STALL_HI, [⟨VXE_STALL_HI_COUNT, .ro, 0x0⟩]⟩,
  ⟨VXE_INSTR, [⟨VXE_INSTR_COUNT, .rc, 0x0⟩]⟩,
  ⟨VXE_ATU_LO, [⟨VXE_ATU_LO_COUNT, .ro, 0x0⟩]⟩,
  ⟨VXE_ATU_HI, [⟨VXE_ATU_HI_COUNT, .ro, 0x0⟩]⟩,
  ⟨VXE_ABORTS, [⟨VXE_ABORTS_COUNT, .rc, 0x0⟩]⟩,
  ⟨VXE_FAULT_LAST, [⟨VXE_FAULT_LAST_CODE, .ro, 0x0⟩, ⟨VXE_FAULT_LAST_STRAND, .ro, 0x0⟩]⟩,
  ⟨VXE_TRAIN_BASE_LO, [⟨VXE_TRAIN_BASE_LO_ADDR, .rw, 0⟩]⟩,
  ⟨VXE_TRAIN_BASE_HI, [⟨VXE_TRAIN_BASE_HI_ADDR, .rw, 0⟩]⟩,
  ⟨VXE_TRAIN_CTRL, [⟨VXE_TRAIN_CTRL_ENABLE, .rw, 0x0⟩, ⟨VXE_TRAIN_CTRL_ENTRIES, .rw, 0x0⟩, ⟨VXE_TRAIN_CTRL_LOG_SLOTS, .rw, 0x4⟩]⟩,
  ⟨VXE_TRAIN_CLOSE, [⟨VXE_TRAIN_CLOSE_ALL, .wo, 0x0⟩, ⟨VXE_TRAIN_CLOSE_ENTRY, .wo, 0x0⟩]⟩,
  ⟨VXE_TRAIN_REPLAY, [⟨VXE_TRAIN_REPLAY_SKIP, .wo, 0x0⟩, ⟨VXE_TRAIN_REPLAY_FMT, .wo, 0x0⟩, ⟨VXE_TRAIN_REPLAY_ENTRY, .wo, 0x0⟩]⟩,
  ⟨VXE_TRAIN_STATUS, [⟨VXE_TRAIN_STATUS_BUSY, .ro, 0x0⟩, ⟨VXE_TRAIN_STATUS_FAULT, .ro, 0x0⟩]⟩]

/-- The fields of the SFU registers, with the access code and reset value the layouts give. -/
def regsSFU : List RegDesc := [
  ⟨SFU_FLAGS, [⟨SFU_FLAGS_FIRST_STRAND, .ro, 0x0⟩, ⟨SFU_FLAGS_IV, .w1c, 0x0⟩, ⟨SFU_FLAGS_IX, .w1c, 0x0⟩, ⟨SFU_FLAGS_UF, .w1c, 0x0⟩, ⟨SFU_FLAGS_OF, .w1c, 0x0⟩]⟩,
  ⟨SFU_FLAGS_RC, [⟨SFU_FLAGS_RC_FIRST_STRAND, .rc, 0x0⟩, ⟨SFU_FLAGS_RC_IV, .rc, 0x0⟩, ⟨SFU_FLAGS_RC_IX, .rc, 0x0⟩, ⟨SFU_FLAGS_RC_UF, .rc, 0x0⟩, ⟨SFU_FLAGS_RC_OF, .rc, 0x0⟩]⟩,
  ⟨SFU_STATUS, [⟨SFU_STATUS_BUSY, .ro, 0x0⟩, ⟨SFU_STATUS_LAST_GRANT, .ro, 0x0⟩, ⟨SFU_STATUS_PENDING, .ro, 0x0⟩, ⟨SFU_STATUS_SLOT, .ro, 0x0⟩]⟩,
  ⟨SFU_RESULTS_LO, [⟨SFU_RESULTS_LO_COUNT, .ro, 0x0⟩]⟩,
  ⟨SFU_RESULTS_HI, [⟨SFU_RESULTS_HI_COUNT, .ro, 0x0⟩]⟩,
  ⟨SFU_WAIT_LO, [⟨SFU_WAIT_LO_COUNT, .ro, 0x0⟩]⟩,
  ⟨SFU_WAIT_HI, [⟨SFU_WAIT_HI_COUNT, .ro, 0x0⟩]⟩,
  ⟨SFU_DOMAIN, [⟨SFU_DOMAIN_COUNT, .rc, 0x0⟩]⟩,
  ⟨SFU_TBL_SEL, [⟨SFU_TBL_SEL_SLOT, .rw, 0x140⟩]⟩,
  ⟨SFU_TBL_INFO, [⟨SFU_TBL_INFO_DIR, .ro, 0x0⟩, ⟨SFU_TBL_INFO_PRE, .ro, 0x0⟩, ⟨SFU_TBL_INFO_MAX_ULP, .ro, 0x0⟩]⟩]

/-- The fields of the ATU registers, with the access code and reset value the layouts give. -/
def regsATU : List RegDesc := [
  ⟨ATU_FLAGS, [⟨ATU_FLAGS_FIRST_STRAND, .ro, 0x0⟩, ⟨ATU_FLAGS_IV, .w1c, 0x0⟩, ⟨ATU_FLAGS_IX, .w1c, 0x0⟩, ⟨ATU_FLAGS_UF, .w1c, 0x0⟩, ⟨ATU_FLAGS_OF, .w1c, 0x0⟩]⟩,
  ⟨ATU_FLAGS_RC, [⟨ATU_FLAGS_RC_FIRST_STRAND, .rc, 0x0⟩, ⟨ATU_FLAGS_RC_IV, .rc, 0x0⟩, ⟨ATU_FLAGS_RC_IX, .rc, 0x0⟩, ⟨ATU_FLAGS_RC_UF, .rc, 0x0⟩, ⟨ATU_FLAGS_RC_OF, .rc, 0x0⟩]⟩,
  ⟨ATU_STATUS, [⟨ATU_STATUS_BUSY, .ro, 0x0⟩, ⟨ATU_STATUS_MXE, .ro, 0x0⟩, ⟨ATU_STATUS_QUEUED, .ro, 0x0⟩, ⟨ATU_STATUS_STRAND, .ro, 0x0⟩]⟩,
  ⟨ATU_BLK_LO, [⟨ATU_BLK_LO_COUNT, .ro, 0x0⟩]⟩,
  ⟨ATU_BLK_HI, [⟨ATU_BLK_HI_COUNT, .ro, 0x0⟩]⟩,
  ⟨ATU_SKIP_LO, [⟨ATU_SKIP_LO_COUNT, .ro, 0x0⟩]⟩,
  ⟨ATU_SKIP_HI, [⟨ATU_SKIP_HI_COUNT, .ro, 0x0⟩]⟩,
  ⟨ATU_STALL_LO, [⟨ATU_STALL_LO_COUNT, .ro, 0x0⟩]⟩,
  ⟨ATU_STALL_HI, [⟨ATU_STALL_HI_COUNT, .ro, 0x0⟩]⟩,
  ⟨ATU_RUNS, [⟨ATU_RUNS_COUNT, .rc, 0x0⟩]⟩,
  ⟨ATU_TOKENS_LO, [⟨ATU_TOKENS_LO_COUNT, .ro, 0x0⟩]⟩,
  ⟨ATU_TOKENS_HI, [⟨ATU_TOKENS_HI_COUNT, .ro, 0x0⟩]⟩,
  ⟨ATU_ABORTS, [⟨ATU_ABORTS_COUNT, .rc, 0x0⟩]⟩,
  ⟨ATU_FAULT_LAST, [⟨ATU_FAULT_LAST_CODE, .ro, 0x0⟩, ⟨ATU_FAULT_LAST_CAUSE, .ro, 0x0⟩, ⟨ATU_FAULT_LAST_STRAND, .ro, 0x0⟩]⟩,
  ⟨ATU_WIDEN_SAT, [⟨ATU_WIDEN_SAT_COUNT, .rc, 0x0⟩]⟩]

/-- The fields of the RTE registers, with the access code and reset value the layouts give. -/
def regsRTE : List RegDesc := [
  ⟨RTE_FLAGS, [⟨RTE_FLAGS_FIRST_STRAND, .ro, 0x0⟩, ⟨RTE_FLAGS_IV, .w1c, 0x0⟩, ⟨RTE_FLAGS_IX, .w1c, 0x0⟩, ⟨RTE_FLAGS_UF, .w1c, 0x0⟩, ⟨RTE_FLAGS_OF, .w1c, 0x0⟩]⟩,
  ⟨RTE_FLAGS_RC, [⟨RTE_FLAGS_RC_FIRST_STRAND, .rc, 0x0⟩, ⟨RTE_FLAGS_RC_IV, .rc, 0x0⟩, ⟨RTE_FLAGS_RC_IX, .rc, 0x0⟩, ⟨RTE_FLAGS_RC_UF, .rc, 0x0⟩, ⟨RTE_FLAGS_RC_OF, .rc, 0x0⟩]⟩,
  ⟨RTE_STATUS, [⟨RTE_STATUS_BUSY, .ro, 0x0⟩, ⟨RTE_STATUS_IN_FLIGHT, .ro, 0x0⟩, ⟨RTE_STATUS_QUEUED, .ro, 0x0⟩, ⟨RTE_STATUS_CORE, .ro, 0x0⟩, ⟨RTE_STATUS_STRAND, .ro, 0x0⟩]⟩,
  ⟨RTE_BATCHES, [⟨RTE_BATCHES_COUNT, .rc, 0x0⟩]⟩,
  ⟨RTE_ASSIGN_LO, [⟨RTE_ASSIGN_LO_COUNT, .ro, 0x0⟩]⟩,
  ⟨RTE_ASSIGN_HI, [⟨RTE_ASSIGN_HI_COUNT, .ro, 0x0⟩]⟩,
  ⟨RTE_DROPPED, [⟨RTE_DROPPED_COUNT, .rc, 0x0⟩]⟩,
  ⟨RTE_NAN_TOKENS, [⟨RTE_NAN_TOKENS_COUNT, .rc, 0x0⟩]⟩,
  ⟨RTE_SUMP_SWALLOWED, [⟨RTE_SUMP_SWALLOWED_COUNT, .rc, 0x0⟩]⟩,
  ⟨RTE_SUMP_STRAY, [⟨RTE_SUMP_STRAY_COUNT, .rc, 0x0⟩]⟩,
  ⟨RTE_SUMP_BYTES_LO, [⟨RTE_SUMP_BYTES_LO_COUNT, .ro, 0x0⟩]⟩,
  ⟨RTE_SUMP_BYTES_HI, [⟨RTE_SUMP_BYTES_HI_COUNT, .ro, 0x0⟩]⟩,
  ⟨RTE_CANCEL, [⟨RTE_CANCEL_EPOCH, .wo, 0x0⟩]⟩,
  ⟨RTE_EPOCH, [⟨RTE_EPOCH_EPOCH, .ro, 0x0⟩]⟩,
  ⟨RTE_FAULT_LAST, [⟨RTE_FAULT_LAST_CODE, .ro, 0x0⟩, ⟨RTE_FAULT_LAST_CAUSE, .ro, 0x0⟩, ⟨RTE_FAULT_LAST_STRAND, .ro, 0x0⟩]⟩,
  ⟨RTE_PROF_SEL, [⟨RTE_PROF_SEL_PROFILE, .rw, 0x0⟩]⟩,
  ⟨RTE_EXP_SEL, [⟨RTE_EXP_SEL_EXPERT, .rw, 0x0⟩]⟩,
  ⟨RTE_BIAS, [⟨RTE_BIAS_BIAS, .rw, 0x0⟩]⟩,
  ⟨RTE_LOAD, [⟨RTE_LOAD_COUNT, .ro, 0x0⟩]⟩,
  ⟨RTE_LOOP, [⟨RTE_LOOP_ACTIVE, .ro, 0x0⟩, ⟨RTE_LOOP_UPDATES, .ro, 0x0⟩, ⟨RTE_LOOP_BATCHES, .ro, 0x0⟩]⟩,
  ⟨RTE_IMB, [⟨RTE_IMB_RATIO, .ro, 0x0⟩, ⟨RTE_IMB_EXPERT, .ro, 0x0⟩]⟩]

/-- The fields of the CDC registers, with the access code and reset value the layouts give. -/
def regsCDC : List RegDesc := [
  ⟨CDC_SLOT_SEL, [⟨CDC_SLOT_SEL_SLOT, .rw, 0x0⟩]⟩,
  ⟨CDC_SLOT_INFO, [⟨CDC_SLOT_INFO_GEN, .ro, 0x0⟩, ⟨CDC_SLOT_INFO_KIND, .ro, 0x0⟩, ⟨CDC_SLOT_INFO_OWNED, .ro, 0x0⟩, ⟨CDC_SLOT_INFO_PENDING, .ro, 0x0⟩]⟩,
  ⟨CDC_SLOT_REFS, [⟨CDC_SLOT_REFS_REFS, .ro, 0x0⟩]⟩,
  ⟨CDC_WSRC_LO, [⟨CDC_WSRC_LO_ADDR, .rw, 0⟩]⟩,
  ⟨CDC_WSRC_HI, [⟨CDC_WSRC_HI_ADDR, .rw, 0⟩]⟩,
  ⟨CDC_WLEN, [⟨CDC_WLEN_LEN, .rw, 0x0⟩]⟩,
  ⟨CDC_WCTRL, [⟨CDC_WCTRL_GO, .wo, 0x0⟩, ⟨CDC_WCTRL_ABORT, .wo, 0x0⟩, ⟨CDC_WCTRL_NOWAIT, .rw, 0x0⟩, ⟨CDC_WCTRL_HOLD_US, .rw, 0x3e8⟩]⟩,
  ⟨CDC_WSTATUS, [⟨CDC_WSTATUS_WSTATE, .ro, 0x0⟩, ⟨CDC_WSTATUS_RESULT, .ro, 0x0⟩, ⟨CDC_WSTATUS_NEW_GEN, .ro, 0x0⟩]⟩,
  ⟨CDC_BLK_LO, [⟨CDC_BLK_LO_COUNT, .ro, 0x0⟩]⟩,
  ⟨CDC_BLK_HI, [⟨CDC_BLK_HI_COUNT, .ro, 0x0⟩]⟩,
  ⟨CDC_BLK_ERR, [⟨CDC_BLK_ERR_COUNT, .rc, 0x0⟩]⟩,
  ⟨CDC_ERR_LAST, [⟨CDC_ERR_LAST_CAUSE, .ro, 0x0⟩, ⟨CDC_ERR_LAST_SLOT, .ro, 0x0⟩, ⟨CDC_ERR_LAST_GEN_FOUND, .ro, 0x0⟩]⟩,
  ⟨CDC_GATED, [⟨CDC_GATED_COUNT, .rc, 0x0⟩]⟩,
  ⟨CDC_DROPPED_LO, [⟨CDC_DROPPED_LO_COUNT, .ro, 0x0⟩]⟩,
  ⟨CDC_DROPPED_HI, [⟨CDC_DROPPED_HI_COUNT, .ro, 0x0⟩]⟩,
  ⟨CDC_GO_IGNORED, [⟨CDC_GO_IGNORED_COUNT, .rc, 0x0⟩]⟩]

/-- The fields of the ATUSEQ registers, with the access code and reset value the layouts give. -/
def regsATUSEQ : List RegDesc := [
  ⟨ATU_POOL_TOTAL, [⟨ATU_POOL_TOTAL_PAGES, .ro, 0x0⟩]⟩,
  ⟨ATU_POOL_FREE, [⟨ATU_POOL_FREE_PAGES, .ro, 0x0⟩]⟩,
  ⟨ATU_POOL_RESV, [⟨ATU_POOL_RESV_PAGES, .ro, 0x0⟩]⟩,
  ⟨ATU_POOL_ZERO, [⟨ATU_POOL_ZERO_PAGES, .ro, 0x0⟩]⟩,
  ⟨ATU_SEQ_OPEN, [⟨ATU_SEQ_OPEN_COUNT, .ro, 0x0⟩]⟩,
  ⟨ATU_SEQ_SEL, [⟨ATU_SEQ_SEL_SEQ, .rw, 0x0⟩]⟩,
  ⟨ATU_SEQ_GEN, [⟨ATU_SEQ_GEN_GEN, .ro, 0x0⟩]⟩,
  ⟨ATU_SEQ_STATE, [⟨ATU_SEQ_STATE_STATE, .ro, 0x0⟩, ⟨ATU_SEQ_STATE_REFS, .ro, 0x0⟩]⟩,
  ⟨ATU_SEQ_LENGTH, [⟨ATU_SEQ_LENGTH_TOKENS, .ro, 0x0⟩]⟩,
  ⟨ATU_SEQ_HIGH, [⟨ATU_SEQ_HIGH_TOKENS, .ro, 0x0⟩]⟩,
  ⟨ATU_SEQ_PAGES, [⟨ATU_SEQ_PAGES_PAGES, .ro, 0x0⟩]⟩,
  ⟨ATU_SEQ_MAX, [⟨ATU_SEQ_MAX_TOKENS, .ro, 0x0⟩]⟩,
  ⟨ATU_MIDSTREAM, [⟨ATU_MIDSTREAM_COUNT, .rc, 0x0⟩]⟩,
  ⟨ATU_SUSPENDED, [⟨ATU_SUSPENDED_COUNT, .ro, 0x0⟩]⟩]

/-- The fields of the XCE registers, with the access code and reset value the layouts give. -/
def regsXCE : List RegDesc := [
  ⟨XCE_STATUS, [⟨XCE_STATUS_BUSY, .ro, 0x0⟩, ⟨XCE_STATUS_PORTS_UP, .ro, 0x0⟩, ⟨XCE_STATUS_IN_FLIGHT, .ro, 0x0⟩]⟩,
  ⟨XCE_TX_ROWS_LO, [⟨XCE_TX_ROWS_LO_COUNT, .ro, 0x0⟩]⟩,
  ⟨XCE_TX_ROWS_HI, [⟨XCE_TX_ROWS_HI_COUNT, .ro, 0x0⟩]⟩,
  ⟨XCE_RX_ROWS_LO, [⟨XCE_RX_ROWS_LO_COUNT, .ro, 0x0⟩]⟩,
  ⟨XCE_RX_ROWS_HI, [⟨XCE_RX_ROWS_HI_COUNT, .ro, 0x0⟩]⟩,
  ⟨XCE_RET_ROWS_LO, [⟨XCE_RET_ROWS_LO_COUNT, .ro, 0x0⟩]⟩,
  ⟨XCE_RET_ROWS_HI, [⟨XCE_RET_ROWS_HI_COUNT, .ro, 0x0⟩]⟩,
  ⟨XCE_LOOPBACK_LO, [⟨XCE_LOOPBACK_LO_COUNT, .ro, 0x0⟩]⟩,
  ⟨XCE_LOOPBACK_HI, [⟨XCE_LOOPBACK_HI_COUNT, .ro, 0x0⟩]⟩,
  ⟨XCE_RETRIES, [⟨XCE_RETRIES_COUNT, .rc, 0x0⟩]⟩,
  ⟨XCE_RX_OVF, [⟨XCE_RX_OVF_COUNT, .rc, 0x0⟩]⟩,
  ⟨XCE_NAKS, [⟨XCE_NAKS_COUNT, .rc, 0x0⟩]⟩,
  ⟨XCE_NAK_LAST, [⟨XCE_NAK_LAST_DEVICE, .ro, 0x0⟩, ⟨XCE_NAK_LAST_CAUSE, .ro, 0x0⟩]⟩]

/-- The fields of the HBC registers, with the access code and reset value the layouts give. -/
def regsHBC : List RegDesc := [
  ⟨HBC_STATUS, [⟨HBC_STATUS_TRAINED, .ro, 0x0⟩, ⟨HBC_STATUS_LOW_POWER, .ro, 0x0⟩, ⟨HBC_STATUS_HOT, .ro, 0x0⟩, ⟨HBC_STATUS_TEMP_C, .ro, 0x0⟩, ⟨HBC_STATUS_LIVE_PC, .ro, 0x0⟩]⟩,
  ⟨HBC_PC_LIVE, [⟨HBC_PC_LIVE_MASK, .ro, 0x0⟩]⟩,
  ⟨HBC_RD_LO, [⟨HBC_RD_LO_COUNT, .ro, 0x0⟩]⟩,
  ⟨HBC_RD_HI, [⟨HBC_RD_HI_COUNT, .ro, 0x0⟩]⟩,
  ⟨HBC_WR_LO, [⟨HBC_WR_LO_COUNT, .ro, 0x0⟩]⟩,
  ⟨HBC_WR_HI, [⟨HBC_WR_HI_COUNT, .ro, 0x0⟩]⟩,
  ⟨HBC_CE, [⟨HBC_CE_COUNT, .rc, 0x0⟩]⟩,
  ⟨HBC_UE, [⟨HBC_UE_COUNT, .rc, 0x0⟩]⟩,
  ⟨HBC_ODECC, [⟨HBC_ODECC_COUNT, .rc, 0x0⟩]⟩,
  ⟨HBC_POISON, [⟨HBC_POISON_COUNT, .ro, 0x0⟩]⟩,
  ⟨HBC_ERR_LAST, [⟨HBC_ERR_LAST_PC, .ro, 0x0⟩, ⟨HBC_ERR_LAST_KIND, .ro, 0x0⟩]⟩,
  ⟨HBC_ERR_ADDR, [⟨HBC_ERR_ADDR_LINE, .ro, 0x0⟩]⟩,
  ⟨HBC_RETRAIN, [⟨HBC_RETRAIN_COUNT, .rc, 0x0⟩]⟩,
  ⟨HBC_RETRAIN_FAIL, [⟨HBC_RETRAIN_FAIL_COUNT, .rc, 0x0⟩]⟩,
  ⟨HBC_PAUSE_MAX, [⟨HBC_PAUSE_MAX_NS, .rc, 0x0⟩]⟩,
  ⟨HBC_MARGIN, [⟨HBC_MARGIN_CHANNEL, .ro, 0x0⟩, ⟨HBC_MARGIN_READ, .ro, 0x0⟩, ⟨HBC_MARGIN_WRITE, .ro, 0x0⟩]⟩,
  ⟨HBC_RETRAIN_CTRL, [⟨HBC_RETRAIN_CTRL_DRIFT, .ow, 0x8⟩, ⟨HBC_RETRAIN_CTRL_PERIOD_US, .ow, 0xfa0⟩]⟩,
  ⟨HBC_SCRUB, [⟨HBC_SCRUB_ENABLE, .ow, 0x1⟩, ⟨HBC_SCRUB_PERIOD_H, .ow, 0x18⟩]⟩]

/-- The fields of the MMU registers, with the access code and reset value the layouts give. -/
def regsMMU : List RegDesc := [
  ⟨MMU_STATUS, [⟨MMU_STATUS_WALKS, .ro, 0x0⟩]⟩,
  ⟨MMU_ROOT_LO, [⟨MMU_ROOT_LO_ADDR, .rw, 0⟩, ⟨MMU_ROOT_LO_ENABLE, .rw, 0x0⟩]⟩,
  ⟨MMU_ROOT_HI, [⟨MMU_ROOT_HI_ADDR, .rw, 0⟩]⟩,
  ⟨MMU_INV_VA_LO, [⟨MMU_INV_VA_LO_VA, .rw, 0x0⟩]⟩,
  ⟨MMU_INV_VA_HI, [⟨MMU_INV_VA_HI_VA, .rw, 0x0⟩]⟩,
  ⟨MMU_INV_CTRL, [⟨MMU_INV_CTRL_GO, .wo, 0x0⟩, ⟨MMU_INV_CTRL_ALL, .rw, 0x0⟩, ⟨MMU_INV_CTRL_PAGES, .rw, 0x1⟩]⟩,
  ⟨MMU_INV_STATUS, [⟨MMU_INV_STATUS_BUSY, .ro, 0x0⟩]⟩,
  ⟨MMU_FAULT_VA_LO, [⟨MMU_FAULT_VA_LO_VA, .ro, 0x0⟩]⟩,
  ⟨MMU_FAULT_VA_HI, [⟨MMU_FAULT_VA_HI_VA, .ro, 0x0⟩]⟩,
  ⟨MMU_FAULT_INFO, [⟨MMU_FAULT_INFO_CODE, .ro, 0x0⟩, ⟨MMU_FAULT_INFO_CAUSE, .ro, 0x0⟩, ⟨MMU_FAULT_INFO_WRITE, .ro, 0x0⟩, ⟨MMU_FAULT_INFO_LEVEL, .ro, 0x0⟩, ⟨MMU_FAULT_INFO_REQ, .ro, 0x0⟩]⟩,
  ⟨MMU_FAULTS, [⟨MMU_FAULTS_COUNT, .rc, 0x0⟩]⟩,
  ⟨MMU_WALKS_LO, [⟨MMU_WALKS_LO_COUNT, .ro, 0x0⟩]⟩,
  ⟨MMU_WALKS_HI, [⟨MMU_WALKS_HI_COUNT, .ro, 0x0⟩]⟩,
  ⟨MMU_HITS_LO, [⟨MMU_HITS_LO_COUNT, .ro, 0x0⟩]⟩,
  ⟨MMU_HITS_HI, [⟨MMU_HITS_HI_COUNT, .ro, 0x0⟩]⟩,
  ⟨MMU_ORD_CTRL, [⟨MMU_ORD_CTRL_DEBUG, .rw, 0x0⟩, ⟨MMU_ORD_CTRL_LAST_KIND, .ro, 0x0⟩, ⟨MMU_ORD_CTRL_LAST_CORE, .ro, 0x0⟩, ⟨MMU_ORD_CTRL_LAST_DEVICE, .ro, 0x0⟩]⟩,
  ⟨MMU_SCOPE_MISMATCH, [⟨MMU_SCOPE_MISMATCH_COUNT, .rc, 0x0⟩]⟩]

/-- The fields of the CTP registers, with the access code and reset value the layouts give. -/
def regsCTP : List RegDesc := [
  ⟨CTP_PORT_STATUS, [⟨CTP_PORT_STATUS_LINK_UP, .ro, 0x0⟩, ⟨CTP_PORT_STATUS_ISOLATED, .ro, 0x0⟩, ⟨CTP_PORT_STATUS_SESSIONS, .ro, 0x0⟩]⟩,
  ⟨CTP_RX_FRAMES_LO, [⟨CTP_RX_FRAMES_LO_COUNT, .ro, 0x0⟩]⟩,
  ⟨CTP_RX_FRAMES_HI, [⟨CTP_RX_FRAMES_HI_COUNT, .ro, 0x0⟩]⟩,
  ⟨CTP_TX_FRAMES_LO, [⟨CTP_TX_FRAMES_LO_COUNT, .ro, 0x0⟩]⟩,
  ⟨CTP_TX_FRAMES_HI, [⟨CTP_TX_FRAMES_HI_COUNT, .ro, 0x0⟩]⟩,
  ⟨CTP_VIOL, [⟨CTP_VIOL_COUNT, .rc, 0x0⟩]⟩,
  ⟨CTP_DROPPED, [⟨CTP_DROPPED_COUNT, .rc, 0x0⟩]⟩,
  ⟨CTP_VIOL_LAST, [⟨CTP_VIOL_LAST_CAUSE, .ro, 0x0⟩, ⟨CTP_VIOL_LAST_SLOT, .ro, 0x0⟩, ⟨CTP_VIOL_LAST_ATTRIBUTED, .ro, 0x0⟩, ⟨CTP_VIOL_LAST_TYPE, .ro, 0x0⟩]⟩,
  ⟨CTP_VIOL_CTRL, [⟨CTP_VIOL_CTRL_WINDOW_MS, .ow, 0x3e8⟩, ⟨CTP_VIOL_CTRL_THRESHOLD, .ow, 0x40⟩]⟩,
  ⟨CTP_REENABLE, [⟨CTP_REENABLE_PORT, .wo, 0x0⟩, ⟨CTP_REENABLE_SLOTS, .wo, 0x0⟩]⟩,
  ⟨CTP_SESS_STATE, [⟨CTP_SESS_STATE_STATE, .ro, 0x0⟩, ⟨CTP_SESS_STATE_PORT, .ro, 0x0⟩, ⟨CTP_SESS_STATE_OWNER_CRED, .ro, 0x0⟩, ⟨CTP_SESS_STATE_KEY, .ro, 0x0⟩, ⟨CTP_SESS_STATE_RANK, .ro, 0x0⟩]⟩,
  ⟨CTP_SESS_OPEN_LO, [⟨CTP_SESS_OPEN_LO_TIME, .ro, 0x0⟩]⟩,
  ⟨CTP_SESS_OPEN_HI, [⟨CTP_SESS_OPEN_HI_TIME, .ro, 0x0⟩]⟩,
  ⟨CTP_SESS_VIOL, [⟨CTP_SESS_VIOL_COUNT, .rc, 0x0⟩]⟩,
  ⟨CTP_OWNER, [⟨CTP_OWNER_VALID, .ro, 0x0⟩, ⟨CTP_OWNER_SLOT, .ro, 0x0⟩, ⟨CTP_OWNER_ELECTIONS, .ro, 0x0⟩]⟩,
  ⟨CTP_ELECTION, [⟨CTP_ELECTION_OPEN, .ro, 0x0⟩, ⟨CTP_ELECTION_CANDIDATES, .ro, 0x0⟩]⟩,
  ⟨CTP_UTC_BASE_LO, [⟨CTP_UTC_BASE_LO_UTC, .ro, 0x0⟩]⟩,
  ⟨CTP_UTC_BASE_HI, [⟨CTP_UTC_BASE_HI_UTC, .ro, 0x0⟩]⟩]

/-- The fields of the SEC registers, with the access code and reset value the layouts give. -/
def regsSEC : List RegDesc := [
  ⟨SEC_LIFECYCLE, [⟨SEC_LIFECYCLE_STATE, .ro, 0⟩, ⟨SEC_LIFECYCLE_DEBUG_LOCKED, .ro, 0⟩, ⟨SEC_LIFECYCLE_TRANSPORT, .ro, 0⟩]⟩,
  ⟨SEC_FW_STATUS, [⟨SEC_FW_STATUS_VERIFIED, .ro, 0x0⟩, ⟨SEC_FW_STATUS_ACTIVE, .ro, 0⟩, ⟨SEC_FW_STATUS_A_VALID, .ro, 0⟩, ⟨SEC_FW_STATUS_B_VALID, .ro, 0⟩, ⟨SEC_FW_STATUS_STAGE_STATE, .ro, 0x0⟩, ⟨SEC_FW_STATUS_ERR_CODE, .ro, 0x0⟩]⟩,
  ⟨SEC_FW_VERSION, [⟨SEC_FW_VERSION_VERSION, .ro, 0⟩]⟩,
  ⟨SEC_FW_FLOOR, [⟨SEC_FW_FLOOR_FLOOR, .ro, 0⟩]⟩,
  ⟨SEC_KEYS, [⟨SEC_KEYS_KEYSETS, .ro, 0⟩, ⟨SEC_KEYS_ENTRIES, .ro, 0⟩]⟩,
  ⟨SEC_AUTH_FAIL, [⟨SEC_AUTH_FAIL_COUNT, .rc, 0x0⟩]⟩,
  ⟨SEC_FW_DIGEST, [⟨SEC_FW_DIGEST_WORD, .ro, 0⟩]⟩,
  ⟨SEC_IDENT, [⟨SEC_IDENT_WORD, .ro, 0⟩]⟩]

/-- The fields of the GFE registers, with the access code and reset value the layouts give. -/
def regsGFE : List RegDesc := [
  ⟨GFE_STATUS, [⟨GFE_STATUS_ACTIVE, .ro, 0x0⟩, ⟨GFE_STATUS_DRAINING, .ro, 0x0⟩]⟩,
  ⟨GFE_QCMD_ADDR_LO, [⟨GFE_QCMD_ADDR_LO_ADDR, .rw, 0⟩]⟩,
  ⟨GFE_QCMD_ADDR_HI, [⟨GFE_QCMD_ADDR_HI_ADDR, .rw, 0⟩]⟩,
  ⟨GFE_QCMD, [⟨GFE_QCMD_GO, .wo, 0x0⟩, ⟨GFE_QCMD_OP, .rw, 0x0⟩, ⟨GFE_QCMD_QUEUE, .rw, 0x0⟩]⟩,
  ⟨GFE_QCMD_STATUS, [⟨GFE_QCMD_STATUS_STATE, .ro, 0x0⟩, ⟨GFE_QCMD_STATUS_REFUSED_BUSY, .w1c, 0x0⟩, ⟨GFE_QCMD_STATUS_RESULT, .ro, 0x0⟩, ⟨GFE_QCMD_STATUS_QUEUE, .ro, 0x0⟩]⟩,
  ⟨GFE_GCMD_ADDR_LO, [⟨GFE_GCMD_ADDR_LO_ADDR, .rw, 0⟩]⟩,
  ⟨GFE_GCMD_ADDR_HI, [⟨GFE_GCMD_ADDR_HI_ADDR, .rw, 0⟩]⟩,
  ⟨GFE_GCMD, [⟨GFE_GCMD_GO, .wo, 0x0⟩, ⟨GFE_GCMD_OP, .rw, 0x0⟩, ⟨GFE_GCMD_GRAPH, .rw, 0x0⟩]⟩,
  ⟨GFE_GCMD_STATUS, [⟨GFE_GCMD_STATUS_STATE, .ro, 0x0⟩, ⟨GFE_GCMD_STATUS_REFUSED_BUSY, .w1c, 0x0⟩, ⟨GFE_GCMD_STATUS_RESULT, .ro, 0x0⟩, ⟨GFE_GCMD_STATUS_VERSION, .ro, 0x0⟩]⟩,
  ⟨GFE_GAREA_LO, [⟨GFE_GAREA_LO_ADDR, .rw, 0x0⟩]⟩,
  ⟨GFE_GAREA_HI, [⟨GFE_GAREA_HI_ADDR, .rw, 0x0⟩]⟩,
  ⟨GFE_GAREA_SIZE, [⟨GFE_GAREA_SIZE_MIB, .rw, 0x0⟩]⟩,
  ⟨GFE_QUEUES, [⟨GFE_QUEUES_COUNT, .ro, 0x0⟩]⟩,
  ⟨GFE_SCH_CTRL, [⟨GFE_SCH_CTRL_BE_HOLD, .ow, 0x1⟩, ⟨GFE_SCH_CTRL_PREEMPT_MAX, .ow, 0x8⟩, ⟨GFE_SCH_CTRL_AGE_US, .ow, 0x40⟩]⟩,
  ⟨GFE_SCH_BACKLOG, [⟨GFE_SCH_BACKLOG_LC_DEPTH, .ow, 0x100⟩, ⟨GFE_SCH_BACKLOG_BE_DEPTH, .ow, 0x400⟩]⟩,
  ⟨GFE_SCH_SAVE_LO, [⟨GFE_SCH_SAVE_LO_ADDR, .rw, 0x0⟩]⟩,
  ⟨GFE_SCH_SAVE_HI, [⟨GFE_SCH_SAVE_HI_ADDR, .rw, 0x0⟩]⟩,
  ⟨GFE_SCH_RESV, [⟨GFE_SCH_RESV_S_LINES, .ro, 0x0⟩, ⟨GFE_SCH_RESV_A_LINES, .ro, 0x0⟩]⟩,
  ⟨GFE_SCH_QUEUED, [⟨GFE_SCH_QUEUED_LC, .ro, 0x0⟩, ⟨GFE_SCH_QUEUED_BE, .ro, 0x0⟩]⟩,
  ⟨GFE_SCH_SUSP, [⟨GFE_SCH_SUSP_COUNT, .ro, 0x0⟩]⟩,
  ⟨GFE_SCH_PREEMPTS, [⟨GFE_SCH_PREEMPTS_COUNT, .rc, 0x0⟩]⟩,
  ⟨GFE_SCH_REFUSED, [⟨GFE_SCH_REFUSED_COUNT, .rc, 0x0⟩]⟩,
  ⟨GFE_SCH_POWER, [⟨GFE_SCH_POWER_CAPPED, .ro, 0x0⟩, ⟨GFE_SCH_POWER_MIN_RATIO, .ro, 0x0⟩]⟩]

/-- The fields of the GFEQ registers, with the access code and reset value the layouts give. -/
def regsGFEQ : List RegDesc := [
  ⟨GFE_Q_DB, [⟨GFE_Q_DB_TAIL, .wo, 0x0⟩]⟩,
  ⟨GFE_Q_STATE, [⟨GFE_Q_STATE_STATE, .ro, 0x0⟩, ⟨GFE_Q_STATE_CLASS, .ro, 0x0⟩, ⟨GFE_Q_STATE_SERVED, .ro, 0x0⟩, ⟨GFE_Q_STATE_OVERRUN, .w1c, 0x0⟩, ⟨GFE_Q_STATE_CFAULT, .ro, 0x0⟩, ⟨GFE_Q_STATE_CHAMBER, .ro, 0x0⟩, ⟨GFE_Q_STATE_EPOCH, .ro, 0x0⟩]⟩,
  ⟨GFE_Q_DONE_LO, [⟨GFE_Q_DONE_LO_COUNT, .ro, 0x0⟩]⟩,
  ⟨GFE_Q_DONE_HI, [⟨GFE_Q_DONE_HI_COUNT, .ro, 0x0⟩]⟩,
  ⟨GFE_Q_FETCHED, [⟨GFE_Q_FETCHED_COUNT, .ro, 0x0⟩]⟩,
  ⟨GFE_Q_CACK, [⟨GFE_Q_CACK_COUNT, .rw, 0x0⟩]⟩,
  ⟨GFE_Q_CANCEL, [⟨GFE_Q_CANCEL_SEQ, .wo, 0x0⟩]⟩,
  ⟨GFE_Q_FAULT_LAST, [⟨GFE_Q_FAULT_LAST_CODE, .ro, 0x0⟩, ⟨GFE_Q_FAULT_LAST_CAUSE, .ro, 0x0⟩, ⟨GFE_Q_FAULT_LAST_SEQ, .ro, 0x0⟩]⟩]

/-- The fields of the LSQ registers, with the access code and reset value the layouts give. -/
def regsLSQ : List RegDesc := [
  ⟨LSQ_STATUS, [⟨LSQ_STATUS_WAITING, .ro, 0x0⟩, ⟨LSQ_STATUS_SCAN, .ro, 0x0⟩, ⟨LSQ_STATUS_FREE_STRANDS, .ro, 0x10000⟩]⟩,
  ⟨LSQ_BOUND_LO, [⟨LSQ_BOUND_LO_COUNT, .ro, 0x0⟩]⟩,
  ⟨LSQ_BOUND_HI, [⟨LSQ_BOUND_HI_COUNT, .ro, 0x0⟩]⟩,
  ⟨LSQ_ABORTS, [⟨LSQ_ABORTS_COUNT, .rc, 0x0⟩]⟩,
  ⟨LSQ_SUMP_SWALLOWED, [⟨LSQ_SUMP_SWALLOWED_COUNT, .rc, 0x0⟩]⟩,
  ⟨LSQ_SUMP_BYTES_LO, [⟨LSQ_SUMP_BYTES_LO_COUNT, .ro, 0x0⟩]⟩,
  ⟨LSQ_SUMP_BYTES_HI, [⟨LSQ_SUMP_BYTES_HI_COUNT, .ro, 0x0⟩]⟩,
  ⟨LSQ_TASKS, [⟨LSQ_TASKS_COUNT, .ro, 0x0⟩]⟩]

/-- The fields of the DMV registers, with the access code and reset value the layouts give. -/
def regsDMV : List RegDesc := [
  ⟨DMV_STATUS, [⟨DMV_STATUS_BUSY, .ro, 0x0⟩, ⟨DMV_STATUS_QUEUED, .ro, 0x0⟩]⟩,
  ⟨DMV_BYTES_LO, [⟨DMV_BYTES_LO_COUNT, .ro, 0x0⟩]⟩,
  ⟨DMV_BYTES_HI, [⟨DMV_BYTES_HI_COUNT, .ro, 0x0⟩]⟩,
  ⟨DMV_ABORTS, [⟨DMV_ABORTS_COUNT, .rc, 0x0⟩]⟩,
  ⟨DMV_FAULT_LAST, [⟨DMV_FAULT_LAST_CODE, .ro, 0x0⟩, ⟨DMV_FAULT_LAST_CAUSE, .ro, 0x0⟩, ⟨DMV_FAULT_LAST_QUEUE, .ro, 0x0⟩]⟩]

/-- The fields of the MGC registers, with the access code and reset value the layouts give. -/
def regsMGC : List RegDesc := [
  ⟨MGC_STATUS, [⟨MGC_STATUS_RUNNING, .ro, 0x0⟩]⟩,
  ⟨MGC_MQ_STATE, [⟨MGC_MQ_STATE_DEPTH, .ro, 0x0⟩, ⟨MGC_MQ_STATE_DONE, .ro, 0x0⟩]⟩,
  ⟨MGC_MQ_REC, [⟨MGC_MQ_REC_WORD, .ro, 0x0⟩]⟩]

/-- The fields of the GFEQA registers, with the access code and reset value the layouts give. -/
def regsGFEQA : List RegDesc := [
  ⟨GFE_QA_WAIT_LO, [⟨GFE_QA_WAIT_LO_NS, .ro, 0x0⟩]⟩,
  ⟨GFE_QA_WAIT_HI, [⟨GFE_QA_WAIT_HI_NS, .ro, 0x0⟩]⟩,
  ⟨GFE_QA_PREEMPT_LO, [⟨GFE_QA_PREEMPT_LO_COUNT, .ro, 0x0⟩]⟩,
  ⟨GFE_QA_PREEMPT_HI, [⟨GFE_QA_PREEMPT_HI_COUNT, .ro, 0x0⟩]⟩,
  ⟨GFE_QA_SERVICE_LO, [⟨GFE_QA_SERVICE_LO_NS, .ro, 0x0⟩]⟩,
  ⟨GFE_QA_SERVICE_HI, [⟨GFE_QA_SERVICE_HI_NS, .ro, 0x0⟩]⟩,
  ⟨GFE_QA_SOLO, [⟨GFE_QA_SOLO_NS, .ro, 0x0⟩]⟩,
  ⟨GFE_QA_SLOW, [⟨GFE_QA_SLOW_BASELINE, .ro, 0x0⟩, ⟨GFE_QA_SLOW_RATIO, .ro, 0x0⟩]⟩,
  ⟨GFE_QA_SOLO_TIME, [⟨GFE_QA_SOLO_TIME_US, .ro, 0x0⟩]⟩,
  ⟨GFE_QA_LATE, [⟨GFE_QA_LATE_COUNT, .rc, 0x0⟩]⟩,
  ⟨GFE_QA_REFUSED, [⟨GFE_QA_REFUSED_COUNT, .rc, 0x0⟩]⟩]

/-- The fields of the LNK registers, with the access code and reset value the layouts give. -/
def regsLNK : List RegDesc := [
  ⟨LNK_PORT_STATUS, [⟨LNK_PORT_STATUS_STATE, .ro, 0x0⟩, ⟨LNK_PORT_STATUS_TEST, .ro, 0x0⟩, ⟨LNK_PORT_STATUS_IN_SERVICE, .ro, 0x0⟩, ⟨LNK_PORT_STATUS_RETIRED, .ro, 0x0⟩, ⟨LNK_PORT_STATUS_AMBER, .ro, 0x0⟩, ⟨LNK_PORT_STATUS_PARTNER, .ro, 0x0⟩]⟩,
  ⟨LNK_PORT_CTRL, [⟨LNK_PORT_CTRL_DATELINE, .ow, 0x0⟩]⟩,
  ⟨LNK_TX_BYTES_LO, [⟨LNK_TX_BYTES_LO_COUNT, .ro, 0x0⟩]⟩,
  ⟨LNK_TX_BYTES_HI, [⟨LNK_TX_BYTES_HI_COUNT, .ro, 0x0⟩]⟩,
  ⟨LNK_RX_BYTES_LO, [⟨LNK_RX_BYTES_LO_COUNT, .ro, 0x0⟩]⟩,
  ⟨LNK_RX_BYTES_HI, [⟨LNK_RX_BYTES_HI_COUNT, .ro, 0x0⟩]⟩,
  ⟨LNK_REPLAY, [⟨LNK_REPLAY_COUNT, .rc, 0x0⟩]⟩,
  ⟨LNK_FEC_CORR, [⟨LNK_FEC_CORR_COUNT, .rc, 0x0⟩]⟩,
  ⟨LNK_FEC_UNCORR, [⟨LNK_FEC_UNCORR_COUNT, .rc, 0x0⟩]⟩,
  ⟨LNK_VIOL, [⟨LNK_VIOL_COUNT, .rc, 0x0⟩]⟩,
  ⟨LNK_DROPPED, [⟨LNK_DROPPED_COUNT, .rc, 0x0⟩]⟩,
  ⟨LNK_VIOL_LAST, [⟨LNK_VIOL_LAST_CAUSE, .ro, 0x0⟩, ⟨LNK_VIOL_LAST_TYPE, .ro, 0x0⟩, ⟨LNK_VIOL_LAST_SRC, .ro, 0x0⟩]⟩,
  ⟨LNK_VIOL_CTRL, [⟨LNK_VIOL_CTRL_WINDOW_MS, .ow, 0x3e8⟩, ⟨LNK_VIOL_CTRL_THRESHOLD, .ow, 0x40⟩]⟩,
  ⟨LNK_REENABLE, [⟨LNK_REENABLE_PORT, .wo, 0x0⟩]⟩,
  ⟨LNK_NAKS_TX, [⟨LNK_NAKS_TX_COUNT, .rc, 0x0⟩]⟩,
  ⟨LNK_HOP_DROP, [⟨LNK_HOP_DROP_COUNT, .rc, 0x0⟩]⟩,
  ⟨LNK_LANE_STATUS, [⟨LNK_LANE_STATUS_STATE, .ro, 0x0⟩, ⟨LNK_LANE_STATUS_HEALTH, .ro, 0x0⟩, ⟨LNK_LANE_STATUS_EYE_H, .ro, 0x0⟩, ⟨LNK_LANE_STATUS_EYE_V, .ro, 0x0⟩]⟩,
  ⟨LNK_LANE_SYMERR, [⟨LNK_LANE_SYMERR_COUNT, .rc, 0x0⟩]⟩,
  ⟨LNK_LANE_EQ, [⟨LNK_LANE_EQ_COUNT, .rc, 0x0⟩]⟩,
  ⟨LNK_LANE_CTRL, [⟨LNK_LANE_CTRL_RETRAIN, .wo, 0x0⟩]⟩]

/-- The fields of the LNKG registers, with the access code and reset value the layouts give. -/
def regsLNKG : List RegDesc := [
  ⟨LNK_GROUP_STATUS, [⟨LNK_GROUP_STATUS_FORMED, .ro, 0x0⟩, ⟨LNK_GROUP_STATUS_IS_MASTER, .ro, 0x0⟩, ⟨LNK_GROUP_STATUS_MASTER_IDX, .ro, 0x0⟩, ⟨LNK_GROUP_STATUS_DEVICE_ID, .ro, 0x0⟩]⟩,
  ⟨LNK_GROUP_MASTER, [⟨LNK_GROUP_MASTER_DEVICE, .ro, 0x0⟩]⟩,
  ⟨LNK_GROUP_VIEW, [⟨LNK_GROUP_VIEW_VIEW, .ro, 0x0⟩]⟩,
  ⟨LNK_GROUP_LIVE, [⟨LNK_GROUP_LIVE_COUNT, .ro, 0x0⟩]⟩,
  ⟨LNK_GROUP_CHANGES, [⟨LNK_GROUP_CHANGES_COUNT, .rc, 0x0⟩]⟩,
  ⟨LNK_STREAMS, [⟨LNK_STREAMS_ENTRIES, .ro, 0x0⟩]⟩,
  ⟨LNK_CLOSE_HELD, [⟨LNK_CLOSE_HELD_COUNT, .ro, 0x0⟩]⟩,
  ⟨LNK_CLOSE_CTRL, [⟨LNK_CLOSE_CTRL_HOLD_US, .ow, 0x3e8⟩]⟩,
  ⟨LNK_CLOSE_FAIL, [⟨LNK_CLOSE_FAIL_COUNT, .rc, 0x0⟩]⟩,
  ⟨LNK_E2E_FAIL, [⟨LNK_E2E_FAIL_COUNT, .rc, 0x0⟩]⟩]

/-- The fields of the HLM registers, with the access code and reset value the layouts give. -/
def regsHLM : List RegDesc := [
  ⟨HLM_DEVICE, [⟨HLM_DEVICE_STATE, .ro, 0x0⟩, ⟨HLM_DEVICE_CAUSE, .ro, 0x0⟩]⟩,
  ⟨HLM_SUMMARY_CORE, [⟨HLM_SUMMARY_CORE_CORES_AMBER, .ro, 0x0⟩, ⟨HLM_SUMMARY_CORE_CORES_UMBER, .ro, 0x0⟩, ⟨HLM_SUMMARY_CORE_GALLERIES_AMBER, .ro, 0x0⟩, ⟨HLM_SUMMARY_CORE_GALLERIES_UMBER, .ro, 0x0⟩]⟩,
  ⟨HLM_SUMMARY_MEM, [⟨HLM_SUMMARY_MEM_PC_AMBER, .ro, 0x0⟩, ⟨HLM_SUMMARY_MEM_PC_UMBER, .ro, 0x0⟩]⟩,
  ⟨HLM_SUMMARY_LANE, [⟨HLM_SUMMARY_LANE_LANES_AMBER, .ro, 0x0⟩, ⟨HLM_SUMMARY_LANE_LANES_UMBER, .ro, 0x0⟩]⟩,
  ⟨HLM_EVENTS, [⟨HLM_EVENTS_COUNT, .rc, 0x0⟩]⟩,
  ⟨HLM_EVT_LAST, [⟨HLM_EVT_LAST_KIND, .ro, 0x0⟩, ⟨HLM_EVT_LAST_UNIT, .ro, 0x0⟩]⟩,
  ⟨HLM_UNIT_SEL, [⟨HLM_UNIT_SEL_UNIT, .rw, 0x0⟩]⟩,
  ⟨HLM_UNIT_STATE, [⟨HLM_UNIT_STATE_STATE, .ro, 0x0⟩, ⟨HLM_UNIT_STATE_HISTORY, .ro, 0x0⟩, ⟨HLM_UNIT_STATE_ACTION, .ro, 0x0⟩, ⟨HLM_UNIT_STATE_ESTIMATED, .ro, 0x0⟩, ⟨HLM_UNIT_STATE_LAST_KIND, .ro, 0x0⟩, ⟨HLM_UNIT_STATE_RECENT, .ro, 0x0⟩]⟩,
  ⟨HLM_UNIT_EVENTS, [⟨HLM_UNIT_EVENTS_COUNT, .ro, 0x0⟩]⟩,
  ⟨HLM_UNIT_LAST_LO, [⟨HLM_UNIT_LAST_LO_UTC_US, .ro, 0x0⟩]⟩,
  ⟨HLM_UNIT_LAST_HI, [⟨HLM_UNIT_LAST_HI_UTC_US, .ro, 0x0⟩]⟩,
  ⟨HLM_UNIT_CMD, [⟨HLM_UNIT_CMD_GO, .wo, 0x0⟩, ⟨HLM_UNIT_CMD_UNIT, .ow, 0x0⟩, ⟨HLM_UNIT_CMD_OP, .ow, 0x0⟩]⟩,
  ⟨HLM_SCAN_CTRL, [⟨HLM_SCAN_CTRL_ENABLE, .ow, 0x1⟩, ⟨HLM_SCAN_CTRL_PERIOD_H, .ow, 0x6⟩, ⟨HLM_SCAN_CTRL_DRAIN_MS, .ow, 0xa⟩]⟩,
  ⟨HLM_SCAN_STATUS, [⟨HLM_SCAN_STATUS_STATE, .ro, 0x0⟩, ⟨HLM_SCAN_STATUS_GALLERY, .ro, 0x0⟩, ⟨HLM_SCAN_STATUS_LAST_RESULT, .ro, 0x0⟩]⟩,
  ⟨HLM_SCAN_NEXT_LO, [⟨HLM_SCAN_NEXT_LO_TIME, .ro, 0x0⟩]⟩,
  ⟨HLM_SCAN_NEXT_HI, [⟨HLM_SCAN_NEXT_HI_TIME, .ro, 0x0⟩]⟩,
  ⟨HLM_SCANS, [⟨HLM_SCANS_COUNT, .rc, 0x0⟩]⟩,
  ⟨HLM_SCAN_FAILS, [⟨HLM_SCAN_FAILS_COUNT, .rc, 0x0⟩]⟩,
  ⟨HLM_FLASH, [⟨HLM_FLASH_PENDING, .ro, 0x0⟩]⟩,
  ⟨HLM_FLASH_LAST_LO, [⟨HLM_FLASH_LAST_LO_TIME, .ro, 0x0⟩]⟩,
  ⟨HLM_FLASH_LAST_HI, [⟨HLM_FLASH_LAST_HI_TIME, .ro, 0x0⟩]⟩,
  ⟨HLM_LIFE_SEL, [⟨HLM_LIFE_SEL_INDEX, .rw, 0x0⟩]⟩,
  ⟨HLM_LIFE_LO, [⟨HLM_LIFE_LO_VALUE, .ro, 0⟩]⟩,
  ⟨HLM_LIFE_HI, [⟨HLM_LIFE_HI_VALUE, .ro, 0⟩]⟩]

/-- The fields of the CVU registers, with the access code and reset value the layouts give. -/
def regsCVU : List RegDesc := [
  ⟨CVU_CFG, [⟨CVU_CFG_MODE, .rw, 0x0⟩, ⟨CVU_CFG_CHUNK_LOG2, .rw, 0x14⟩, ⟨CVU_CFG_FINAL_INV, .rw, 0x1⟩, ⟨CVU_CFG_REFOUT, .rw, 0x1⟩, ⟨CVU_CFG_REFIN, .rw, 0x1⟩, ⟨CVU_CFG_WIDTH, .rw, 0x20⟩]⟩,
  ⟨CVU_POLY_LO, [⟨CVU_POLY_LO_POLY, .rw, 0x1edc6f41⟩]⟩,
  ⟨CVU_POLY_HI, [⟨CVU_POLY_HI_POLY, .rw, 0x0⟩]⟩,
  ⟨CVU_INIT_LO, [⟨CVU_INIT_LO_INIT, .rw, 0xffffffff⟩]⟩,
  ⟨CVU_INIT_HI, [⟨CVU_INIT_HI_INIT, .rw, 0x0⟩]⟩,
  ⟨CVU_ADDR_LO, [⟨CVU_ADDR_LO_ADDR, .rw, 0⟩]⟩,
  ⟨CVU_ADDR_HI, [⟨CVU_ADDR_HI_ADDR, .rw, 0⟩]⟩,
  ⟨CVU_LEN_LO, [⟨CVU_LEN_LO_LEN, .rw, 0x0⟩]⟩,
  ⟨CVU_LEN_HI, [⟨CVU_LEN_HI_LEN, .rw, 0x0⟩]⟩,
  ⟨CVU_TABLE_LO, [⟨CVU_TABLE_LO_ADDR, .rw, 0⟩]⟩,
  ⟨CVU_TABLE_HI, [⟨CVU_TABLE_HI_ADDR, .rw, 0⟩]⟩,
  ⟨CVU_CTRL, [⟨CVU_CTRL_GO, .wo, 0x0⟩, ⟨CVU_CTRL_ABORT, .wo, 0x0⟩]⟩,
  ⟨CVU_STATUS, [⟨CVU_STATUS_STATE, .ro, 0x0⟩, ⟨CVU_STATUS_RESULT, .ro, 0x0⟩, ⟨CVU_STATUS_FAULT, .ro, 0x0⟩, ⟨CVU_STATUS_CAUSE, .ro, 0x0⟩]⟩,
  ⟨CVU_RESULT_LO, [⟨CVU_RESULT_LO_VALUE, .ro, 0x0⟩]⟩,
  ⟨CVU_RESULT_HI, [⟨CVU_RESULT_HI_VALUE, .ro, 0x0⟩]⟩,
  ⟨CVU_MISMATCH, [⟨CVU_MISMATCH_COUNT, .ro, 0x0⟩]⟩,
  ⟨CVU_FIRST_BAD, [⟨CVU_FIRST_BAD_CHUNK, .ro, 0xffffffff⟩]⟩,
  ⟨CVU_BYTES_LO, [⟨CVU_BYTES_LO_COUNT, .ro, 0x0⟩]⟩,
  ⟨CVU_BYTES_HI, [⟨CVU_BYTES_HI_COUNT, .ro, 0x0⟩]⟩]

/-- The fields of the TBC registers, with the access code and reset value the layouts give. -/
def regsTBC : List RegDesc := [
  ⟨TBC_NOW_LO, [⟨TBC_NOW_LO_TIME, .ro, 0x0⟩]⟩,
  ⟨TBC_NOW_HI, [⟨TBC_NOW_HI_TIME, .ro, 0x0⟩]⟩,
  ⟨TBC_STATUS, [⟨TBC_STATUS_LOCKED, .ro, 0x0⟩, ⟨TBC_STATUS_MASTER, .ro, 0x0⟩, ⟨TBC_STATUS_HOLDOVER, .ro, 0x0⟩, ⟨TBC_STATUS_HELD, .ro, 0x0⟩, ⟨TBC_STATUS_SYNC_PORT, .ro, 0x0⟩, ⟨TBC_STATUS_HOPS, .ro, 0x0⟩]⟩,
  ⟨TBC_OFFSET, [⟨TBC_OFFSET_PS, .ro, 0x0⟩]⟩,
  ⟨TBC_SYNCS, [⟨TBC_SYNCS_COUNT, .rc, 0x0⟩]⟩,
  ⟨TBC_SYNC_LOST, [⟨TBC_SYNC_LOST_COUNT, .rc, 0x0⟩]⟩,
  ⟨TBC_STEPS, [⟨TBC_STEPS_COUNT, .rc, 0x0⟩]⟩]

/-- The fields of the TRU registers, with the access code and reset value the layouts give. -/
def regsTRU : List RegDesc := [
  ⟨TRU_STATUS, [⟨TRU_STATUS_BUSY, .ro, 0x0⟩, ⟨TRU_STATUS_FIFO_MAX, .rc, 0x0⟩]⟩,
  ⟨TRU_CTRL, [⟨TRU_CTRL_ENABLE, .rw, 0x0⟩, ⟨TRU_CTRL_TRIGGER, .wo, 0x0⟩, ⟨TRU_CTRL_RESTART, .wo, 0x0⟩, ⟨TRU_CTRL_MODE, .rw, 0x0⟩, ⟨TRU_CTRL_LOG_RECS, .rw, 0xc⟩, ⟨TRU_CTRL_PC_LOG2, .rw, 0x10⟩, ⟨TRU_CTRL_EVENTS, .rw, 0x1f⟩]⟩,
  ⟨TRU_BUF_LO, [⟨TRU_BUF_LO_ADDR, .rw, 0⟩]⟩,
  ⟨TRU_BUF_HI, [⟨TRU_BUF_HI_ADDR, .rw, 0⟩]⟩,
  ⟨TRU_POST, [⟨TRU_POST_POST, .rw, 0x400⟩]⟩,
  ⟨TRU_TRIG, [⟨TRU_TRIG_FAULT, .rw, 0x0⟩, ⟨TRU_TRIG_LATE, .rw, 0x0⟩, ⟨TRU_TRIG_TIME, .rw, 0x0⟩]⟩,
  ⟨TRU_TRIG_TIME_LO, [⟨TRU_TRIG_TIME_LO_TIME, .rw, 0x0⟩]⟩,
  ⟨TRU_TRIG_TIME_HI, [⟨TRU_TRIG_TIME_HI_TIME, .rw, 0x0⟩]⟩,
  ⟨TRU_STATE, [⟨TRU_STATE_STATE, .ro, 0x0⟩, ⟨TRU_STATE_TRIG_VALID, .ro, 0x0⟩, ⟨TRU_STATE_TRIG_CORE, .ro, 0x0⟩]⟩,
  ⟨TRU_DROPPED, [⟨TRU_DROPPED_COUNT, .rc, 0x0⟩]⟩,
  ⟨TRU_RECORDS_LO, [⟨TRU_RECORDS_LO_COUNT, .ro, 0x0⟩]⟩,
  ⟨TRU_RECORDS_HI, [⟨TRU_RECORDS_HI_COUNT, .ro, 0x0⟩]⟩,
  ⟨TRU_TRIG_IGNORED, [⟨TRU_TRIG_IGNORED_COUNT, .rc, 0x0⟩]⟩]

/-- The registers of the gallery block at offset `o` of a gallery's 64 KiB (R718). -/
def galleryRegs (o : Nat) : List RegDesc :=
  if o < 0x1000 then regsCDC else if o < 0x2000 then regsRTE else if o < 0x3000 then regsLSQ else
  if o < 0x4000 then regsDMV else if o < 0x5000 then regsCVU else []

/-- The registers of the core block at offset `o` of a core's 64 KiB (R718). -/
def coreRegs (o : Nat) : List RegDesc :=
  if o < 0x1000 then regsMXE else if o < 0x2000 then regsVXE else if o < 0x3000 then regsSFU else
  if o < 0x4000 then regsATU else []

/-- The registers of the block that holds the control-space address `a`; none where the address is outside every span
(R715, R717). -/
def blockRegs (a : Nat) : Option (List RegDesc) :=
  if 0x0 ≤ a ∧ a < 0x1000 then some regsSVY else
  if 0x1000 ≤ a ∧ a < 0x2000 then some regsCHB else
  if 0x2000 ≤ a ∧ a < 0x3000 then some regsCTP else
  if 0x3000 ≤ a ∧ a < 0x4000 then some regsSEC else
  if 0x4000 ≤ a ∧ a < 0x5000 then some regsMGC else
  if 0x5000 ≤ a ∧ a < 0x6000 then some regsHLM else
  if 0x6000 ≤ a ∧ a < 0x7000 then some regsPWR else
  if 0x7000 ≤ a ∧ a < 0x8000 then some regsTBC else
  if 0x8000 ≤ a ∧ a < 0x9000 then some regsTRU else
  if 0x9000 ≤ a ∧ a < 0x9800 then some regsLNK else
  if 0x9800 ≤ a ∧ a < 0xa000 then some regsLNKG else
  if 0xa000 ≤ a ∧ a < 0xc000 then some regsXCE else
  if 0xc000 ≤ a ∧ a < 0xe000 then some regsMMU else
  if 0x10000 ≤ a ∧ a < 0x20000 then some regsHBC else
  if 0x20000 ≤ a ∧ a < 0x20400 then some regsATUSEQ else
  if 0x80000 ≤ a ∧ a < 0x90000 then some regsGFE else
  if 0x90000 ≤ a ∧ a < 0xb0000 then some regsGFEQ else
  if 0xc0000 ≤ a ∧ a < 0x100000 then some regsGFEQA else
  if 0x100000 ≤ a ∧ a < 0x200000 then some (galleryRegs (a % 0x10000)) else
  if 0x200000 ≤ a ∧ a < 0xa00000 then some (coreRegs (a % 0x10000)) else
  none

end Sys2Proof.Machine
end

