-- ==== Sys2Proof/Machine/SMap.lean ====
section
/-! DEFINITION. A sparse map with numbers for keys, as plain data in one canonical form: keys strictly rising, and no entry
equal to what an unlisted key reads as. Memory, the control-space registers and the tables of strands, queues, slots
and sequences are all held this way, so that equal contents are equal data. -/

namespace Sys2Proof.Machine

/-- What key `k` reads as: its entry, or the default where none is listed. -/
def smGet {α : Type} (dflt : Nat → α) : List (Nat × α) → Nat → α
  | [], k => dflt k
  | (j, v) :: m, k => if j = k then v else smGet dflt m k

/-- Key `k` listed with `v`, in the place its order gives it. -/
def smSet {α : Type} : List (Nat × α) → Nat → α → List (Nat × α)
  | [], k, v => [(k, v)]
  | (j, u) :: m, k, v =>
    if k < j then (k, v) :: (j, u) :: m else if k = j then (k, v) :: m else (j, u) :: smSet m k v

/-- Key `k` no longer listed. -/
def smErase {α : Type} (m : List (Nat × α)) (k : Nat) : List (Nat × α) := m.filter (fun e => e.1 != k)

/-- Key `k` set to `v`, keeping the canonical form: an entry equal to the default is removed. -/
def smPut {α : Type} [DecidableEq α] (dflt : Nat → α) (m : List (Nat × α)) (k : Nat) (v : α) : List (Nat × α) :=
  if v = dflt k then smErase m k else smSet m k v

/-- The canonical form above a lower bound on the keys. -/
def smWfFrom {α : Type} [DecidableEq α] (dflt : Nat → α) : Nat → List (Nat × α) → Bool
  | _, [] => true
  | lo, (k, v) :: m => decide (lo ≤ k) && decide (v ≠ dflt k) && smWfFrom dflt (k + 1) m

/-- The canonical form of a sparse map. -/
def smWf {α : Type} [DecidableEq α] (dflt : Nat → α) (m : List (Nat × α)) : Bool := smWfFrom dflt 0 m

/-- The map with every entry whose key satisfies `p` back at its default. -/
def smClear {α : Type} (p : Nat → Bool) (m : List (Nat × α)) : List (Nat × α) :=
  m.filter (fun e => !p e.1)

end Sys2Proof.Machine
end

