-- ==== Sys2Proof/Machine/State.lean ====
section
/-! DEFINITION. The state of the device, as plain data, and its value right after reset. -/

namespace Sys2Proof.Machine

/-! ### How a step can stop -/

/-- The machine's faults. The device reports every failure the spec describes in its registers, records and answers, so no
command ends in a fault. -/
inductive Fault where
  /-- A command whose operands name a unit the device does not have. Raised by no meaning: such a command changes nothing
  (safe). -/
  | noSuchUnit
deriving DecidableEq, Repr

/-- The machine's refusals. -/
inductive Refusal where
  /-- Raised by an arm of `exec` that has no meaning yet (safe). -/
  | notModelled (mnemonic : String)
deriving DecidableEq, Repr

/-! ### Strands and work items -/

/-- The states of R48. -/
inductive StrandMode where
  | free | ready | issuing | waiting | suspended
deriving DecidableEq, Repr

/-- What a WAITING strand waits for (R48). -/
inductive Wait where
  | none
  /-- Registers (a mask of s0 to s7) that await a value. -/
  | regs (mask : Nat)
  /-- A place in the queue of engine `e` (R32). -/
  | engine (e : Nat)
  /-- A MESSAGE item of the served queue (R516). -/
  | take
  /-- The end of the item, whose accesses are still being performed. -/
  | ending
  /-- Free pages for an OPEN (R555). -/
  | pages
  /-- The completion of barrier `id`, whose generation register `rd` receives (R606). -/
  | barrier (id rd : Nat)
  /-- The performing of every earlier access of the strand, before a barrier arrival (R606). -/
  | release
  /-- The releases and full fences at chamber scope or wider before a control-space access (R442). -/
  | fence
  /-- The line limit of unperformed writes (R436). -/
  | lines
  /-- A sequence command that must wait (R306). -/
  | sequence
deriving DecidableEq, Repr

/-- A strand context (R47). -/
structure Strand where
  mode : StrandMode
  pc : Nat
  regs : List Word
  /-- Mask of the registers that await an engine's status word or a memory value. -/
  notReady : Nat
  wait : Wait
  /-- The timebase at which it became READY (R49). -/
  readyAt : Nat
  /-- Instructions issued in a row (R50). -/
  run : Nat
  /-- The fetched instruction word that it issues next (R54). -/
  ir : Option Word64
  item : Option ItemKey
  task : Bool
  /-- The MESSAGE item a task holds (R516). -/
  taken : Option ItemKey
  /-- The MESSAGE item it held has timed out, and its program has not yet reached the next QW.TAKE (R538). -/
  dropped : Bool
  /-- Chosen as a victim: it issues nothing until it is saved and resumed (R561). -/
  victim : Bool
  /-- It has been READY for AGE_US and ranks as latency-critical for its next run (R547). -/
  aged : Bool
  /-- The declared live scratchpad range (R560). -/
  liveOff : Nat
  liveLen : Nat
  boundAt : Nat
deriving DecidableEq, Repr

/-- Where an item is between fetch and record. -/
inductive Phase where
  /-- Admitted, waiting in its class backlog (R553). -/
  | backlog
  /-- Waiting in the LSQ of gallery `g`, since `at_` (R52). -/
  | lsq (g at_ : Nat)
  | bound (c t : Nat)
  /-- On data mover `d` of gallery `g` (R513). -/
  | mover (g d : Nat)
  /-- In the GFE: a MARKER, or a GRAPH whose nodes run (R509). -/
  | gfe
  /-- A MESSAGE held by the task on strand `t` of core `c` (R516). -/
  | taken (c t : Nat)
  /-- Pre-empted on core `c`, strand `t`, since `at_` (R561). -/
  | suspended (c t at_ : Nat)
deriving DecidableEq, Repr

/-- A work item between its fetch and its record (R504 to R518). -/
structure Item where
  key : ItemKey
  /-- The 64 bytes of the item, read at its fetch. -/
  line : List Byte
  epoch : Nat
  fetchAt : Nat
  phase : Phase
  boundAt : Nat
  waitNs : Nat
  preempts : Nat
  sampled : Bool
  remote : Bool
  /-- The end it has reached, code and cause, while its accesses are still being performed (R525, R725). -/
  ending : Option (Nat × Nat)
  /-- The version a GRAPH item bound (R529). -/
  version : Nat
  /-- Nodes of a GRAPH launch that have ended: index, code, cause, time (R530). -/
  ended : List (Nat × Nat × Nat × Nat)
  /-- Whether no item of another queue has shared its core or mover so far (R567). -/
  solo : Bool
  /-- Bytes of a COPY already written. -/
  copied : Nat
  /-- The slot references it holds, with the generation taken (R177). -/
  slotRefs : List (Nat × Nat)
  /-- The sequence references it holds (Attention and the Key–Value Cache). -/
  seqRefs : List Nat
  /-- Sum of RATIO times ns over the rate windows of its run so far, and up to when (R566). -/
  ratioSum : Nat
  ratioAt : Nat
  /-- It has waited AGE_US and ranks in LC order (R553). -/
  aged : Bool
  /-- Its data mover has written the copy, or has acknowledged its abort (R514). -/
  unitDone : Bool
  /-- The core and strand that reached its end, and the id below which their accesses come before it (R439). -/
  ender : Option (Nat × Nat × Nat)
deriving DecidableEq, Repr

/-- What a queue holds beside its registers (R502). -/
structure Queue where
  ring : Nat
  cring : Nat
  logSize : Nat
  galleries : Nat
  timeoutUs : Nat
  weight : Nat
  inOrder : Bool
  tail : Nat
  /-- Credits left in the round of R548. -/
  credits : Nat
  /-- Exponentially weighted mean of R569, in 1/256 ns, and whether it holds a value. -/
  meanNs : Nat
  counted : Nat
  soloSum : Nat
  soloItems : Nat
  seqHi : Nat
deriving DecidableEq, Repr

/-- A parameter buffer of a graph version: where it lies in the area and how long it is (R532). -/
structure GraphBuf where
  off : Nat
  len : Nat
deriving DecidableEq, Repr

/-- A graph version (R531). -/
structure GraphVersion where
  version : Nat
  bufs : List GraphBuf
deriving DecidableEq, Repr

/-- A stored graph (R526 to R533). -/
structure Graph where
  /-- The node records of the image. -/
  nodes : List (List Byte)
  imageOff : Nat
  imageLen : Nat
  versions : List GraphVersion
  newest : Nat
  destroyed : Bool
deriving DecidableEq, Repr

/-- A queue or graph command as its GO write gave it: its operation, the queue or graph it names, and the address of its QCB,
image or patch record (R502, R528, R532; log entry 19). -/
structure GfeCmd where
  op : Nat
  arg : Nat
  addr : Nat
deriving DecidableEq, Repr

/-! ### Engines -/

/-- The engines that take instructions through a queue of 16 entries (R32), and the routing and exchange engines. -/
inductive Engine where
  | mxe | vxe | sfu | atu | rte | xce
deriving DecidableEq, Repr

/-- One output element of a sampled MX.RUN: the encodings that the primary and its checker hold, and the sum of the magnitudes of its
terms, none where one is infinite or NaN (R228, R229). -/
structure DupElem where
  primary : Nat
  copy : Nat
  magnitude : Option Rat
deriving DecidableEq, Repr

/-- An element written by an engine: its exact value before output rounding, the value whose exponent is observed, the value written,
and whether its write overflowed (R363). -/
structure Elem where
  exact : Val
  obs : Val
  val : Val
  excess : Bool
deriving DecidableEq, Repr

/-- Consecutive elements written from a virtual address, `bits` apart. -/
structure Written where
  va : Nat
  bits : Nat
  elems : List Elem
deriving DecidableEq, Repr

/-- The output of an MX.RUN while it drains: the lines still to be written, in the order they will be, those written, the elements as
the watch sees them, and the flags it raises (R218). -/
structure Tile where
  left : List (Nat × List Byte)
  done : List (Nat × List Byte)
  seen : List Written
  flags : Flags
deriving DecidableEq, Repr

/-- An engine instruction between its issue and its status word (R206). -/
structure EngOp where
  id : Nat
  eng : Engine
  core : Nat
  strand : Nat
  item : ItemKey
  sreg : Nat
  word : Word64
  desc : List Byte
  issuedAt : Nat
  /-- Accesses with a lower id come first (R437). -/
  mark : Nat
  sampled : Bool
  checker : Option Nat
  /-- Its status word, computed and held until its remote lines are acknowledged (R438). -/
  status : Option Nat
  aborted : Bool
  /-- Command decode has accepted it; until then it stands in the queue behind an item that is held (R181). -/
  decoded : Bool
  /-- It is held at command decode, and has counted in CDC_GATED (R181). -/
  gated : Bool
  /-- Further data of the instruction's own chapter. -/
  aux : List Nat
  /-- A sampled instruction's elements, until their compare (R228). -/
  dup : List DupElem
  /-- The tile of an MX.RUN that has begun to drain (R218). -/
  tile : Option Tile
deriving DecidableEq, Repr

/-- A stochastic-rounding generator (R139, R140): its state, the draws left of the current step, and the low seed half
written. -/
structure SrGen where
  x : Nat
  left : Nat
  seedLo : Nat
deriving DecidableEq, Repr

/-! ### Memory accesses -/

/-- What a memory instruction asks for (R420). -/
inductive OpKind where
  | load | store
  | amo (aop : Nat)
  /-- A fence of KIND 1 acquire, 2 release or 3 full (R431). -/
  | fence (kind : Nat)
deriving DecidableEq, Repr

/-- An access of a strand between its issue and its performing (R413). -/
structure MemOp where
  id : Nat
  core : Nat
  strand : Nat
  chamber : Nat
  item : ItemKey
  kind : OpKind
  /-- The target device: this device's id, or another's through a REMOTE leaf (R383). -/
  remote : Option Nat
  /-- The virtual address, and the address it reaches. -/
  va : Nat
  addr : Nat
  size : Nat
  data : Nat
  cmp : Nat
  rd : Nat
  sx : Bool
  acq : Bool
  rel : Bool
  scope : Nat
  bypass : Bool
  close : Bool
  issuedAt : Nat
  /-- When a remote access was sent. -/
  sent : Option Nat
  /-- The core's unperformed writes to its line when a remote load was sent: offset in the line and bytes (R436). -/
  own : List (Nat × List Byte)
deriving DecidableEq, Repr

/-- A translation held in a gallery's TLB partition (R392). -/
structure TlbEntry where
  gallery : Nat
  va : Nat
  size : Nat
  device : Option Nat
  pa : Nat
  writable : Bool
deriving DecidableEq, Repr

/-- An upper-level table entry held in a gallery's TLB partition: its level, the virtual address bits it serves, and the table it
names (R392). -/
structure UpperEntry where
  gallery : Nat
  level : Nat
  index : Nat
  table : Nat
deriving DecidableEq, Repr

/-- An invalidation written and not yet complete (R393). -/
structure Inval where
  chamber : Nat
  va : Nat
  pages : Nat
  all : Bool
  at_ : Nat
deriving DecidableEq, Repr

/-- A line in a core's read cache (R433). -/
structure CacheLine where
  core : Nat
  addr : Nat
  bytes : List Byte
  /-- Strands that have read a later write to it at the home, so that it serves them no longer (R415, R435). -/
  barred : List Nat
deriving DecidableEq, Repr

/-- The record of a location's last release, kept in ordering debug mode (R448). -/
structure RelRecord where
  addr : Nat
  scope : Nat
  core : Nat
  device : Nat
  chamber : Nat
deriving DecidableEq, Repr

/-- An unperformed write of its core that strand `strand` of core `core` has observed: the access by which it was observed, and the
write (R424, R436). -/
structure Observed where
  core : Nat
  strand : Nat
  access : Nat
  write : Nat
deriving DecidableEq, Repr

/-- On whose behalf a remote request was sent. -/
inductive Owner where
  | op (id : Nat)
  | eng (id : Nat)
  | copy (key : ItemKey)
  /-- A row of an RT.RUN: gallery, epoch, token and entry of the selection record (R328). -/
  | row (g epoch token k : Nat)
  /-- An end marker of an RT.RUN to a device (R329). -/
  | mark (g epoch device : Nat)
  /-- A trailer or table line of check-value unit `u` of a gallery (R635). -/
  | cvu (g u : Nat)
  /-- The payload of gallery `g`'s slot write (R179). -/
  | slot (g : Nat)
  /-- The fetch of an item of queue `q` (R504). -/
  | fetch (q : Nat)
  /-- A queue or graph command of a chamber set, numbered as in `gfeCmds` (R501, R526). -/
  | command (k : Nat)
deriving DecidableEq, Repr

/-- A line of another device that a remote read asks for: its device, its address there, the bytes wanted, and the virtual address
(R443). -/
structure Wanted where
  device : Nat
  addr : Nat
  len : Nat
  va : Nat
  gallery : Nat
  code : Nat
  chamber : Nat
deriving DecidableEq, Repr

/-- The memory system beside the bytes themselves. -/
structure MemSys where
  ops : List MemOp
  nextId : Nat
  tlb : List TlbEntry
  invals : List Inval
  cache : List CacheLine
  /-- Lines of a core's 64 KiB instruction cache (R54). -/
  icache : List CacheLine
  /-- Upper-level entries of the TLB partitions (R392). -/
  upper : List UpperEntry
  /-- Poisoned lines, and uncorrectable words of on-die SRAM, by device physical address (R400). -/
  poison : List Nat
  /-- Errors that lie undetected in stored words, by device physical address: what the next read of the word meets (R399). -/
  cells : List (Nat × CellEvent)
  /-- Events found and not yet taken by the health monitor: unit and kind (R399). -/
  found : List (Nat × Nat)
  records : List RelRecord
  observed : List Observed
  /-- The requester now running that may wait for remote lines; none between commands. -/
  asking : Option Owner
  /-- Remote lines that it asks for; empty between commands. -/
  wanted : List Wanted
  /-- Lines that answers have brought to requesters that wait for them: requester, line and bytes. -/
  fetched : List (Owner × Wanted × List Byte)
deriving DecidableEq, Repr

/-! ### Check-value units -/

/-- What a CVU is configured for. -/
structure CvuCfg where
  mode : Nat
  chunkLog2 : Nat
  finalInv : Bool
  refout : Bool
  refin : Bool
  width : Nat
  poly : Nat
  init : Nat
deriving DecidableEq, Repr

/-- A check-value run as its GO took it (R635; log entry 19). -/
structure CvuRun where
  cfg : CvuCfg
  addr : Nat
  len : Nat
  table : Nat
deriving DecidableEq, Repr

/-! ### Survey and chambers -/

/-- A chamber as the loaded survey defines it (R72, R78, R81). -/
structure Chamber where
  kind : Nat
  galleries : Nat
  powerW : Nat
  lockMhz : Nat
  weight : Nat
  lcShare : Nat
  kvGib : Nat
  queues : Nat
  persistent : Nat
  sequences : Nat
  stackMask : Nat
  perStack : Nat
  first : List Nat
  owned : Nat
  shared : Nat
  /-- The pseudo-channel list of R384: pseudo-channel and stack. -/
  pcs : List (Nat × Nat)
deriving DecidableEq, Repr

/-- A slot write between GO and its end (R179). -/
structure SlotWrite where
  gallery : Nat
  chamber : Nat
  writing : Bool
  src : Nat
  len : Nat
  holdUs : Nat
  goAt : Nat
  /-- The payload, once read. -/
  payload : List Byte
deriving DecidableEq, Repr

/-- A table slot (R84, R85, R175). -/
structure Slot where
  owner : Option Nat
  gen : Nat
  monotone : Bool
  content : List Byte
  write : Option SlotWrite
deriving DecidableEq, Repr

/-- The phases of a load after COMMIT (R99, R113). -/
inductive LoadPhase where
  | checking | draining | zeroising | applying | flipping
deriving DecidableEq, Repr

/-- A load between COMMIT and its end (R97, R99). -/
structure Load where
  phase : LoadPhase
  /-- The session that wrote COMMIT, or that posted the COMMIT item. -/
  session : Nat
  /-- Whether a management item posted the COMMIT (R537). -/
  viaMgc : Bool
  image : List Byte
  changed : List Nat
deriving DecidableEq, Repr

/-- Bytes on their way into flash, and the answer owed once they are programmed: session slot, frame type and SEQ, and cause
of a NAK or 0 (R719, R461). -/
structure Staged where
  off : Nat
  bytes : List Byte
  answer : Option (Nat × Nat × Nat × Nat)
deriving DecidableEq, Repr

/-- The survey loader beside its registers. -/
structure Survey where
  slotA : List Byte
  slotB : List Byte
  /-- Staged bytes not yet programmed into flash, in arrival order: offset and bytes (R719). -/
  unprogrammed : List Staged
  load : Option Load
  /-- The active survey (R98); empty while none is. -/
  running : List Byte
  /-- Shares still to be zeroised: chamber, and a stack or, with none, its galleries' SRAM (R108, R109). -/
  zeroing : List (Nat × Option Nat)
  /-- Galleries that a chamber has held since the reset (R106). -/
  used : Nat
  /-- The chambers of a survey that waits for stage 5 (R651). -/
  applied : Bool
deriving DecidableEq, Repr

/-! ### The key–value cache -/

/-- A page of the key–value window mapped by the allocator (R280). -/
structure KvPage where
  chamber : Nat
  /-- Virtual page number, of 64 KiB. -/
  vpage : Nat
  /-- Physical address of the page in the pool. -/
  ppage : Nat
deriving DecidableEq, Repr

/-- An entry of the sequence table (R270): STATE 0 FREE, 1 OPEN, 3 RELEASING; SUSPENDED is an OPEN entry whose append waits
for pages. -/
structure Seq where
  state : Nat
  gen : Nat
  d : Nat
  kfmt : Nat
  vfmt : Nat
  layers : Nat
  hkv : Nat
  stripPages : Nat
  tpp : Nat
  length : Nat
  high : Nat
  max : Nat
  /-- Reserved pages not yet drawn. -/
  reserved : Nat
deriving DecidableEq, Repr

/-- A window table of the allocator: its level, the virtual address bits above what it maps, and where it lies (R389, R394). -/
structure KvTable where
  chamber : Nat
  level : Nat
  index : Nat
  pa : Nat
deriving DecidableEq, Repr

/-- The key–value allocator and the sequence table beside their registers. -/
structure Kv where
  pages : List KvPage
  tables : List KvTable
  /-- Entries by 65,536 × chamber + id (R269). -/
  seqs : List (Nat × Seq)
  /-- Returned pages that await zeroisation: chamber and physical address (R282). -/
  zeroing : List (Nat × Nat)
deriving DecidableEq, Repr

/-! ### Routing and exchange -/

/-- An epoch of a gallery, kept for the last 4,096 (R331, R342, R343). -/
structure Epoch where
  gallery : Nat
  epoch : Nat
  live : Bool
  cancelled : Bool
deriving DecidableEq, Repr

/-- A kept assignment of a batch: entry `k` of a token's selection record (R325). -/
structure Assign where
  token : Nat
  k : Nat
  expert : Nat
  device : Nat
  localIdx : Nat
  weight : Word
  /-- Its row has left for its destination and may not be sent again. -/
  sent : Bool
  /-- Its result has returned, or its drop notice has (R335, R338). -/
  returned : Bool
  dropped : Bool
deriving DecidableEq, Repr

/-- An RT.RUN between decode and status word (R310). -/
structure Batch where
  /-- Its engine instruction. -/
  op : Nat
  gallery : Nat
  chamber : Nat
  epoch : Nat
  profile : Nat
  round : Nat
  tokens : Nat
  lc : Bool
  selectOnly : Bool
  sel : List Assign
  /-- The distinct devices of the expert map, in its order (R329). -/
  devices : List Nat
  /-- Its end markers have been sent. -/
  marked : Bool
  /-- The cause of R330 met, if any. -/
  cause : Option Nat
  /-- Flags set by its score arithmetic (R154). -/
  flags : Nat
deriving DecidableEq, Repr

/-- A half of a profile's receive area that a round owns (R333). -/
structure RxHalf where
  chamber : Nat
  profile : Nat
  parity : Nat
  round : Nat
  /-- End markers: device, gallery and the rows announced. -/
  markers : List (Nat × Nat × Nat)
  /-- Rows received or dropped, by device and gallery. -/
  rows : List (Nat × Nat × Nat)
  /-- Filled slots, by local expert. -/
  filled : List (Nat × Nat)
deriving DecidableEq, Repr

/-- The bias loop of one profile (R320, R348). -/
structure BiasLoop where
  batches : Nat
  counted : Nat
  updates : Nat
  ratio : Nat
  expert : Nat
deriving DecidableEq, Repr

/-- The routing engines and the exchange beside their registers. -/
structure Rte where
  /-- Routing profile records, by 32 × chamber + profile (R312). -/
  profiles : List (Nat × List Byte)
  epochs : List Epoch
  batches : List Batch
  halves : List RxHalf
  /-- Biases and window counts, by 1,024 × (32 × chamber + profile) + expert (R318, R320). -/
  bias : List (Nat × Word)
  load : List (Nat × Nat)
  loops : List (Nat × BiasLoop)
deriving DecidableEq, Repr

/-! ### Health -/

/-- The history of a unit (R626). -/
structure UnitHistory where
  kind : Nat
  stamp : Nat
  estimated : Bool
  /-- Stamps of its last three COUNT events, oldest first. -/
  stamps : List Nat
  total : Nat
  /-- Its amber action: whether CAP applies in place of MARGIN (R622). -/
  cap : Bool
deriving DecidableEq, Repr

/-- A slate window in progress (R632). -/
structure ScanWindow where
  gallery : Nat
  /-- The step reached: 1 and 2 dispatch stopped, 3 issue stopped, 5 the slate runs. -/
  step : Nat
  openedAt : Nat
  bringUp : Bool
  /-- The copies that its data movers ran when it opened. -/
  copies : List ItemKey
deriving DecidableEq, Repr

/-- A channel of a stack, at its latest retraining step: when it was, the read and write margins it left, in 1/256 UI, and the counts of
the on-die error check and scrub read in it (R379, R405, R406). -/
structure HbcChannel where
  stepAt : Nat
  read : Nat
  write : Nat
  scrubbed : Nat
deriving DecidableEq, Repr

/-- The health monitor beside its registers. -/
structure Hlm where
  history : List (Nat × UnitHistory)
  /-- The health area of flash: state and history of each unit with a record (R626). -/
  flash : List (Nat × (Nat × UnitHistory))
  /-- What retraining steps bring to the history: the latest of each channel, by 16 × stack + channel, and the copy in flash (R406;
  log entry 132). -/
  steps : List (Nat × HbcChannel)
  stepsFlash : List (Nat × HbcChannel)
  /-- Units whose change of state awaits its flash write. -/
  unwritten : List Nat
  /-- The time of the latest report of each unit and kind (R620). -/
  reports : List ((Nat × Nat) × Nat)
  /-- Times of corrected words or lines within the last hour, by unit (R619). -/
  corrected : List (Nat × List Nat)
  /-- DUP_MISMATCH events by unit: the partner core and the stamp (R624). -/
  partners : List (Nat × Nat × Nat)
  /-- Cores whose gallery awaits the window of R624. -/
  suspects : List Nat
  /-- Galleries asked for by SCAN, waiting for their window (R537, R640). -/
  asked : List Nat
  /-- Events on units of the gallery in a window, judged when it ends (R640). -/
  deferred : List (Nat × Nat)
  window : Option ScanWindow
  /-- Galleries that bring-up has scanned (R631). -/
  scanned : List Nat
  /-- Where the rotation of windows goes on from (R631). -/
  turn : Nat
  /-- Lifetime counters by index, and the copy in flash (R638, R639): POWER_ON in ns, ENERGY in 10 nJ, VT_ in units of
  0.1 mV times 10 µs. -/
  life : List (Nat × Nat)
  lifeFlash : List (Nat × Nat)
  /-- When POWER_ON was last brought up to date. -/
  lifeAt : Nat
  /-- The lowest hottest-junction value since the last thermal cycle, and whether it has risen 40 °C and to what. -/
  coolest : Nat
  hottest : Nat
  /-- The last UTC written to flash, and POWER_ON at that write (R627). -/
  utcFlash : Nat × Nat
deriving DecidableEq, Repr

/-! ### Stacks -/

/-- The controllers of the stacks beside their registers: channels by 16 × stack + channel, and the line that patrol scrub
reads next on each stack (R399). -/
structure Hbc where
  channels : List (Nat × HbcChannel)
  patrol : List (Nat × Nat)
deriving DecidableEq, Repr

/-! ### Power -/

/-- A power domain: galleries 0 to 15, then the uncore (R660 to R665). -/
structure PwrDomain where
  /-- Voltage target without the amber offset, in units of 0.1 mV. -/
  target : Nat
  /-- Rate target in kHz. -/
  rate : Nat
  /-- A higher rate target that waits for the regulator (R663). -/
  rise : Option Nat
  /-- Consecutive steps that held the slack floor, and steps below it at 0.85 V (R657, R662). -/
  held : Nat
  starved : Nat
  /-- Inserted delay for an emergency and for the package guard (R661, R666). -/
  emergency : Bool
  guard : Bool
  throttled : Bool
  /-- Its rate target has been lowered for the power or a thermal limit and has not yet returned to its ceiling (R572). -/
  capped : Bool
  /-- The regulator's VOUT_MODE exponent is −`vexp`, and the last VOUT_COMMAND sent to it (R646). -/
  vexp : Nat
  sent : Nat
  /-- Its regulator acknowledged no command: the gallery takes no work until the next POWER_ON reset (R701). -/
  mute : Bool
deriving DecidableEq, Repr

/-- Supplies, bring-up and the loops beside their registers. -/
structure Power where
  domains : List PwrDomain
  /-- The factory margin table in flash (R658). -/
  margin : List Byte
  /-- The draw of each chamber in the last ten windows, newest first, in mW (R665). -/
  draws : List (Nat × List Nat)
  /-- Failed trainings of each stack in this bring-up (R650). -/
  failures : List (Nat × Nat)
  /-- When the step in progress of early handover or of orderly power-down began (R657, R669), and whether the power-down has
  destroyed the queues. -/
  handoverAt : Option Nat
  shutdownAt : Option Nat
  drained : Bool
  guardAt : Option Nat
  /-- Bring-up waits in stage 2 with no survey (R651). -/
  waiting : Bool
  /-- Issue stopped for good by a trip, a loss of the reference clock or a loss of power. -/
  halted : Bool
  /-- The reference clock is lost: the clocked islands stand still (R706). -/
  dark : Bool
  /-- The device is held in reset; the kind of the reset that ends when it is released (R648, R705, R712). -/
  held : Bool
  kind : Nat
  /-- Stacks whose delays of the last training seed the next (R648). -/
  seeded : List Nat
  /-- The cause of the trip recorded in flash and not yet reported (R668). -/
  trip : Nat
  good : Bool
  /-- When a periodic action last ran, and since when a supply condition has lasted, by number. -/
  timers : List (Nat × Nat)
  /-- Package energy since reset, in units of 10 nJ (R674). -/
  energy : Nat
deriving DecidableEq, Repr

/-! ### Fabric -/

/-- The GROUP section of the running survey (R89). -/
structure GroupCfg where
  groupId : Nat
  deviceId : Nat
  masters : List Nat
  members : List (Nat × Nat)
  chambers : Nat
deriving DecidableEq, Repr

/-- A request that waits for its answer (R594). -/
structure Outstanding where
  packet : Packet
  owner : Owner
  resent : Bool
  /-- The requester of the stream, and whether it is a closing write (R445). -/
  requester : Nat
  busyAt : Option Nat
  /-- The virtual address it was made for, where it has one. -/
  va : Option Nat
  /-- When the queue timeout of the item that sends a row or marker expires, in ns (R333). -/
  expires : Option Nat
deriving DecidableEq, Repr

/-- The source's numbering of closing writes to one target (R595). -/
structure SourceStream where
  requester : Nat
  chamber : Nat
  target : Nat
  next : Nat
  count : Nat
deriving DecidableEq, Repr

/-- A closing write held at the target (R595). -/
structure HeldClose where
  packet : Packet
  port : Nat
  at_ : Nat
deriving DecidableEq, Repr

/-- The target's entry for one stream (R595, R596). -/
structure TargetStream where
  src : Nat
  chamber : Nat
  requester : Nat
  counters : List Nat
  /-- CIDX values under which a packet was refused. -/
  refused : List Nat
  held : List HeldClose
  /-- The CIDX of the closing write that is to be performed next. -/
  closed : Nat
  /-- Later closing writes that are discarded already. -/
  gone : List Nat
deriving DecidableEq, Repr

/-- A barrier as its counter has it: the master, or this device for a chamber outside the group (R606, R607). -/
structure Barrier where
  chamber : Nat
  id : Nat
  generation : Nat
  parties : Nat
  arrived : Nat
  /-- Devices that contributed. -/
  from_ : List Nat
deriving DecidableEq, Repr

/-- An arrival of a strand of this device that its barrier has not completed (R607). -/
structure Arrival where
  chamber : Nat
  id : Nat
  parties : Nat
  core : Nat
  strand : Nat
  item : Option ItemKey
  /-- The BAR_ARRIVE that carried it, once sent; an arrival counted here has none. -/
  txn : Option Nat
  counted : Bool
deriving DecidableEq, Repr

/-- A member as this device's view has it (R602). -/
structure Member where
  id : Nat
  live : Bool
  lastHeard : Nat
  liveSince : Nat
deriving DecidableEq, Repr

/-- One lane (R584, R598). -/
structure Lane where
  attempts : Nat
  retryAt : Nat
  /-- Next sequence number to send and to accept. -/
  txSeq : Nat
  rxSeq : Nat
  /-- Packets sent and not yet acknowledged, oldest first. -/
  replay : List Packet
  replays : Nat
  credits : List Nat
  /-- Codeword lock reached, and PARAM awaited (R584 step 4). -/
  locked : Bool
  /-- Transmitter tap values (R599). -/
  taps : List (Nat × Nat)
  eqAt : Nat
deriving DecidableEq, Repr

/-- The fabric beside its registers. -/
structure Fabric where
  group : Option GroupCfg
  /-- Port assignment of the running survey: ASSIGN, LANES, CHAMBERS (R81). -/
  ports : List (Nat × Nat × Nat)
  txn : Nat
  outstanding : List Outstanding
  sources : List SourceStream
  streams : List TargetStream
  barriers : List Barrier
  arrivals : List Arrival
  /-- When this device joined its group (R602). -/
  joinedAt : Option Nat
  members : List Member
  lanes : List (Nat × Lane)
  viewSent : Nat
  masterHeard : Nat
  lastSync : Nat
  lastBeat : Nat
  syncNo : Nat
  /-- Violations counted in the current window of each port, and when it began (R609). -/
  windows : List (Nat × Nat × Nat)
  /-- Open test windows: port and end (R610). -/
  tests : List (Nat × Nat)
  /-- Packets that wait for credits, by port, oldest first (R599). -/
  txq : List (Nat × Packet)
deriving DecidableEq, Repr

/-! ### Timebase and trace -/

/-- The servo of the timebase beside its registers (R677, R678). -/
structure Tbc where
  /-- Consecutive SYNCs with an offset within ±10 ns. -/
  good : Nat
  /-- What is left to trim, in ns. -/
  trim : Int
  /-- When the master reaches the value held. -/
  heldUntil : Nat
deriving DecidableEq, Repr

/-- A core's trace FIFO (R684). -/
structure Fifo where
  recs : List (List Byte)
  /-- The DROP record in it is still open. -/
  dropOpen : Bool
  /-- Losses that await a new DROP record: count, first and last time. -/
  later : Option (Nat × Nat × Nat)
deriving DecidableEq, Repr

/-- A core's slice of its chamber's trace buffer (R685). -/
structure Slice where
  core : Nat
  head : Nat
  dropped : Nat
  state : Nat
  trigIndex : Option Nat
  /-- Records still to be placed after a trigger (R686). -/
  post : Option Nat
deriving DecidableEq, Repr

/-- The trace unit beside its registers. -/
structure Tru where
  fifos : List (Nat × Fifo)
  slices : List Slice
  /-- Triggers that have counted and are not delivered yet: chamber, core and record (R687). -/
  fired : List (Nat × Nat × List Byte)
  /-- Chambers whose time trigger has fired since ENABLE or RESTART. -/
  timed : List Nat
deriving DecidableEq, Repr

/-! ### Control ports, sessions and security -/

/-- A session beside its CTP_SESS_ registers (R464 to R472). -/
structure Session where
  port : Nat
  /-- Its key; of the transport key, its SHA-384 digest. -/
  key : List Byte
  /-- Its key store entry; none for the transport key (R490). -/
  entry : Option Nat
  node : List Byte
  dev : List Byte
  /-- Its traffic keys, once it is accepted: for frames from the node, and for frames from the device (R465). -/
  fromNode : List Byte
  toNode : List Byte
  /-- The UTC of its HELLO, and the timebase at its arrival (R470). -/
  utc : Nat
  utcAt : Nat
  /-- The highest SEQ accepted, and the last SEQ sent (R466). -/
  rx : Nat
  tx : Nat
  /-- When a frame of it was last accepted. -/
  lastAt : Nat
deriving DecidableEq, Repr

/-- Violations of a port in its current window, and of each slot of it (R479). -/
structure ViolCount where
  since : Nat
  port : Nat
  slots : List (Nat × Nat)
deriving DecidableEq, Repr

/-- The control ports beside their registers. -/
structure Ctp where
  sessions : List (Nat × Session)
  /-- Isolated slots: slot, port and SHA-384 of the key held (R479). -/
  isolated : List (Nat × Nat × List Byte)
  viols : List (Nat × ViolCount)
  /-- When the owner became owner, or a frame of it was last accepted (R472). -/
  ownerAt : Nat
  /-- When the open election began, and the CLAIMs to answer: slot and SEQ (R473). -/
  electionAt : Nat
  claims : List (Nat × Nat)
  /-- The ATTEST whose report is being formed: slot, SEQ and nonce (R493). -/
  attest : Option (Nat × Nat × List Byte)
  /-- A HELLO has been accepted since power-up (R470). -/
  hello : Bool
  /-- Since when neither port has had light (R648). -/
  darkAt : Option Nat
deriving DecidableEq, Repr

/-- A firmware commit in progress (R486). -/
structure FwCommit where
  /-- The session that asked, and the SEQ to answer; none for a management item (R537). -/
  session : Nat
  seq : Option Nat
  length : Nat
  /-- The signature check has passed (R494). -/
  checked : Bool
deriving DecidableEq, Repr

/-- The security block beside its registers: the key store, the survey-signing key sets, the fuses and the firmware slots
(R464, R482 to R491). -/
structure Sec where
  keys : List (Nat × List Byte)
  keysets : List (List Byte)
  /-- SHA-384 of the transport key, while its fuse digest is live (R490). -/
  transport : Option (List Byte)
  certificate : List Byte
  slotA : List Byte
  slotB : List Byte
  /-- The slot the next reset boots: 0 A, 1 B (R486). -/
  nextSlot : Nat
  slate : List Byte
  /-- SHA-384 of the microcode that the running firmware loaded (R492). -/
  ucode : List Byte
  fwStaged : List Staged
  /-- The session that stages firmware. -/
  stager : Nat
  commit : Option FwCommit
deriving DecidableEq, Repr

/-! ### Management queues, side band and test access -/

/-- An item of a management queue (R537): its sequence number, the session that posted it, and its 64 bytes. -/
structure MgItem where
  seq : Nat
  session : Nat
  line : List Byte
  /-- It has begun, and waits for what it started to end. -/
  begun : Bool
deriving DecidableEq, Repr

/-- A management queue: what waits in it, and its counts. -/
structure MgQueue where
  items : List MgItem
  tail : Nat
  done : Nat
deriving DecidableEq, Repr

/-- The I3C target (R702, R703). -/
structure I3c where
  dynamic : Option Nat
  pointer : Nat
  /-- In-band interrupts enabled by ENEC. -/
  ibi : Bool
  /-- Offsets 0x04 and 0x05 as last reported. -/
  seen : Nat × Nat
  /-- Changed offsets whose interrupts wait to be sent. -/
  waiting : List Nat
  /-- The field being read: its offset and its bytes as latched (R703). -/
  latch : Option (Nat × List Byte)
  /-- When VAUX came within tolerance. -/
  vauxAt : Option Nat
deriving DecidableEq, Repr

/-- The instructions of the test access port (R704). -/
inductive TapIr where
  | idcode | bypass | samplePreload | extest | clamp | highz
deriving DecidableEq, Repr

/-- The test access port: its instruction, and the boundary register (R704, R705). -/
structure Tap where
  ir : TapIr
  boundary : List Bool
  /-- EXTEST, CLAMP or HIGHZ took effect, and the port has not passed through Test-Logic-Reset. -/
  hold : Bool
deriving DecidableEq, Repr

/-- The side-band lands (R699), by level: true is high. -/
structure Pins where
  pwrGood : Bool
  resetN : Bool
  offReqN : Bool
  offReadyN : Bool
  faultN : Bool
  thermtripN : Bool
deriving DecidableEq, Repr

/-- Everything the device sends out: answers and frames, packets, side-band bytes. -/
inductive OutEvent where
  /-- A frame on a control port, sealed where its type is encrypted (R465). -/
  | frame (port : Nat) (f : Frame)
  /-- A byte read by the I3C controller, or a common command code's answer. -/
  | i3c (bytes : List Byte)
  /-- An in-band interrupt with its mandatory byte. -/
  | ibi (offset : Nat)
  /-- What the test access port shifts out on TDO, least significant bit first. -/
  | tdo (bits : List Bool)
  /-- A PMBus command to a regulator: domain, command code and data. -/
  | pmbus (domain code data : Nat)
  /-- A packet, on the port chosen (R590). -/
  | packet (port : Nat) (p : Packet)
deriving DecidableEq, Repr

/-- The state of the device. -/
structure State where
  /-- The commands that wait, first in, first out. -/
  pending : List Instr
  /-- Timebase-tick time since power-on, in ns. -/
  now : Nat
  /-- The model's own counter of free values drawn. -/
  free : Nat
  mem : List Host.Cell
  regs : List (Nat × Word)
  /-- High-word shadows, by requester and address of the _HI word (R19, R20). -/
  shadows : List (Nat × Word)
  /-- Selector copies that differ from the reset value, by requester and address of the selector (R22). -/
  sels : List (Nat × Option Word)
  /-- Health state of each unit by unit index: 0 clear, 1 amber, 2 umber (R618). -/
  health : List (Nat × Nat)
  strands : List (Nat × Strand)
  items : List Item
  queues : List (Nat × Queue)
  graphs : List (Nat × Graph)
  /-- Where each chamber's fetch round stands, by 2 × chamber + class: the queue id from which it goes on (R548). -/
  gfeTurn : List (Nat × Nat)
  /-- The latest command of each chamber set, by 2 × chamber, or 2 × chamber + 1 for a graph command. -/
  gfeCmds : List (Nat × GfeCmd)
  /-- The latest run of each check-value unit, by 2 × gallery + instance. -/
  cvus : List (Nat × CvuRun)
  engOps : List EngOp
  /-- Generators by 2 × core, MXE then VXE (R139). -/
  sr : List (Nat × SrGen)
  /-- Sample counters of the cores; none where one awaits its load (R225, R226). -/
  samples : List (Nat × Option Nat)
  ms : MemSys
  chambers : List Chamber
  slots : List (Nat × Slot)
  svy : Survey
  fab : Fabric
  kv : Kv
  rte : Rte
  hlm : Hlm
  hbc : Hbc
  pwr : Power
  /-- The UTC in ns that corresponds to timebase 0, once set (R470). -/
  utcBase : Option Nat
  /-- Granules of 1 GiB on each stack: 24 on AXG-1624, 16 on AXG-1616 (R1, R380). -/
  granules : Nat
  /-- The 64-bit timebase (R34). -/
  tb : Nat
  tbc : Tbc
  tru : Tru
  ctp : Ctp
  sec : Sec
  /-- Management queues 0x1000 to 0x1003 (R537). -/
  mgc : List (Nat × MgQueue)
  i3c : I3c
  tap : Tap
  pins : Pins
  out : List OutEvent
deriving DecidableEq, Repr

/-! ### The state right after a POWER_ON reset (R18, R648) -/

/-- A power domain at its start-up voltage: 0.70 V, and 0.75 V for the uncore (R645). -/
def PwrDomain.atReset (d : Nat) : PwrDomain :=
  { target := if d < 16 then 7000 else 7500, rate := 0, rise := none, held := 0, starved := 0, emergency := false,
    guard := false, throttled := false, capped := false, vexp := 9, sent := 0, mute := false }

/-- Registers whose reset value the layouts leave to the part, and RESET_KIND: the lifecycle, the identity record and the voltage
targets (R481, R487, R498, R674; log entries 1 and 15). -/
def resetRegs : List (Nat × Word) :=
  [(0x3000, 0x1C00_0000#32), (0x3080, 0x4449_5841#32), (0x3084, 0x1624_0001#32), (0x30D0, 0x1#32), (0x6004, 0x10#32)] ++
  (List.range 17).map (fun d => (0x6600 + 0x10 * d, if d < 16 then 0x02BC_0000#32 else 0x02EE_0000#32))

def Hlm.atReset : Hlm :=
  { history := [], flash := [], steps := [], stepsFlash := [], unwritten := [], reports := [], corrected := [], partners := [], suspects := [], asked := [],
    deferred := [], window := none, scanned := [], turn := 0, life := [(5, 1)], lifeFlash := [], lifeAt := 0, coolest := 0xFF,
    hottest := 0, utcFlash := (0, 0) }

def Power.atReset : Power :=
  { domains := (List.range 17).map PwrDomain.atReset, margin := [], draws := [], failures := [], handoverAt := none,
    shutdownAt := none, drained := false, guardAt := none, waiting := false, halted := false, dark := false, held := false,
    kind := 1, seeded := [], trip := 0, good := true, timers := [], energy := 0 }

def Fabric.atReset : Fabric :=
  { group := none, ports := [], txn := 0, outstanding := [], sources := [], streams := [], barriers := [], arrivals := [],
    joinedAt := none, members := [], lanes := [], viewSent := 0, masterHeard := 0, lastSync := 0, lastBeat := 0, syncNo := 0,
    windows := [], tests := [], txq := [] }

def Ctp.atReset : Ctp :=
  { sessions := [], isolated := [], viols := [], ownerAt := 0, electionAt := 0, claims := [], attest := none, hello := false,
    darkAt := none }

def Sec.atReset : Sec :=
  { keys := [], keysets := [], transport := some (List.replicate 48 0#8), certificate := List.replicate 17184 0#8,
    slotA := [], slotB := [], nextSlot := 0, slate := [], ucode := List.replicate 48 0#8, fwStaged := [], stager := 0, commit := none }

/-- The machine right after reset: a part as delivered, with power good and stage 1 begun. Every register stands at its reset
value, no chamber is loaded, and memory lists nothing; what the spec leaves to the part is in log entries 1, 2 and 15. -/
def State.reset : State :=
  { pending := [], now := 0, free := 0, mem := [], regs := resetRegs, shadows := [], sels := [], health := [], strands := [],
    items := [], queues := [], graphs := [], gfeTurn := [], gfeCmds := [], cvus := [], engOps := [], sr := [], samples := [],
    ms := { ops := [], nextId := 0, tlb := [], invals := [], cache := [], icache := [], upper := [], poison := [], cells := [],
            found := [], records := [], observed := [], asking := none, wanted := [], fetched := [] },
    chambers := [], slots := [],
    svy := { slotA := [], slotB := [], unprogrammed := [], load := none, running := [], zeroing := [], used := 0, applied := false },
    fab := Fabric.atReset, kv := { pages := [], tables := [], seqs := [], zeroing := [] },
    rte := { profiles := [], epochs := [], batches := [], halves := [], bias := [], load := [], loops := [] },
    hlm := Hlm.atReset, hbc := { channels := [], patrol := [] }, pwr := Power.atReset, utcBase := none, granules := 24, tb := 0,
    tbc := { good := 0, trim := 0, heldUntil := 0 }, tru := { fifos := [], slices := [], fired := [], timed := [] },
    ctp := Ctp.atReset, sec := Sec.atReset, mgc := [],
    i3c := { dynamic := none, pointer := 0, ibi := false, seen := (1, 0), waiting := [], latch := none, vauxAt := some 0 },
    tap := { ir := .idcode, boundary := [], hold := false },
    pins := { pwrGood := true, resetN := true, offReqN := true, offReadyN := true, faultN := true, thermtripN := true },
    out := [] }

end Sys2Proof.Machine
end

