-- ==== Sys2Proof/Machine/Ops.lean ====
section
/-! DEFINITION. The named operations over the state: registers and their fields, counters, free values, health states,
strands and chambers. -/

namespace Sys2Proof.Machine

abbrev Result := Host.Outcome State Fault Refusal

/-! ### Registers by address -/

/-- The instance `(i, j)` of a register (R717, R718). -/
def regAddr (r : Reg) (i j : Nat) : Nat := r.base + r.s1 * i + r.s2 * j

/-- Which instance of `r` lies at address `a`. -/
def regInst (r : Reg) (a : Nat) : Option (Nat × Nat) :=
  if a < r.base then none else
  let o := a - r.base
  let i := if r.s1 = 0 then 0 else o / r.s1
  let q := if r.s1 = 0 then o else o % r.s1
  let j := if r.s2 = 0 then 0 else q / r.s2
  let q' := if r.s2 = 0 then q else q % r.s2
  if q' = 0 ∧ i < r.n1 ∧ j < r.n2 then some (i, j) else none

/-- The register at address `a`, if a layout lists one there (R715). -/
def regDescAt (a : Nat) : Option RegDesc :=
  match blockRegs a with
  | none => none
  | some l => l.find? (fun d => (regInst d.reg a).isSome)

/-- The reset value of a register: each field at its reset, reserved bits 0 (R17, R18). -/
def resetWord (d : RegDesc) : Word :=
  BitVec.ofNat 32 (d.fields.foldl (fun x f => setBitsOf x f.fld.hi f.fld.lo f.reset) 0)

/-- What the register at `a` holds after reset. -/
def resetAt (a : Nat) : Word :=
  match regDescAt a with
  | none => 0#32
  | some d => resetWord d

/-- The stored word of the register at `a`. -/
def State.rget (s : State) (a : Nat) : Word := smGet resetAt s.regs a

/-- The register at `a` set to `w`. -/
def State.rput (s : State) (a : Nat) (w : Word) : State := { s with regs := smPut resetAt s.regs a w }

/-- Field `f` of instance `(i, j)`. -/
def State.fget (s : State) (f : Fld) (i : Nat := 0) (j : Nat := 0) : Nat :=
  bitsOf (s.rget (regAddr f.reg i j)).toNat f.hi f.lo

/-- Field `f` of instance `(i, j)` set to `v`. -/
def State.fset (s : State) (f : Fld) (v : Nat) (i : Nat := 0) (j : Nat := 0) : State :=
  let a := regAddr f.reg i j
  s.rput a (BitVec.ofNat 32 (setBitsOf (s.rget a).toNat f.hi f.lo v))

/-- The whole word of instance `(i, j)` of a register set. -/
def State.wset (s : State) (r : Reg) (v : Nat) (i : Nat := 0) (j : Nat := 0) : State :=
  s.rput (regAddr r i j) (BitVec.ofNat 32 v)

/-- A count advanced by `n`; it saturates at the field's largest value (R690). -/
def State.bump (s : State) (f : Fld) (n : Nat := 1) (i : Nat := 0) (j : Nat := 0) : State :=
  s.fset f (saturate (2 ^ (f.hi + 1 - f.lo) - 1) (s.fget f i j + n)) i j

/-- A count advanced by `n` that wraps at the field's width. -/
def State.bumpWrap (s : State) (f : Fld) (n : Nat := 1) (i : Nat := 0) (j : Nat := 0) : State :=
  s.fset f (s.fget f i j + n) i j

/-- The value of a 64-bit counter held in a _LO/_HI pair (R19). -/
def State.pair (s : State) (lo hi : Fld) (i : Nat := 0) (j : Nat := 0) : Nat :=
  s.fget lo i j + 2 ^ 32 * s.fget hi i j

/-- A 64-bit counter set. -/
def State.pairSet (s : State) (lo hi : Fld) (v : Nat) (i : Nat := 0) (j : Nat := 0) : State :=
  (s.fset lo (v % 2 ^ 32) i j).fset hi (v / 2 ^ 32 % 2 ^ 32) i j

/-- A 64-bit counter advanced by `n`. -/
def State.bump64 (s : State) (lo hi : Fld) (n : Nat) (i : Nat := 0) (j : Nat := 0) : State :=
  s.pairSet lo hi (s.pair lo hi i j + n) i j

/-- Every register whose address lies in `[lo, hi)` back at its reset value (R18). -/
def State.resetRange (s : State) (lo hi : Nat) : State :=
  { s with regs := smClear (fun a => lo ≤ a && a < hi) s.regs }

/-! ### Selectors and shadows, kept per requester (R20, R22) -/

/-- A requester's number: sessions, then firmware, then cores (R20). -/
def Requester.number : Requester → Nat
  | .session k => k
  | .firmware => 16
  | .core c _ => 17 + c

/-- A requester's copy of the selector at `a`: its reset value until the requester sets it (R22). -/
def State.sel (s : State) (r : Requester) (a : Nat) : Word :=
  (smGet (fun _ => none) s.sels (r.number * 2 ^ 32 + a)).getD (resetAt a)

def State.setSel (s : State) (r : Requester) (a : Nat) (w : Word) : State :=
  { s with sels := smPut (fun _ => none) s.sels (r.number * 2 ^ 32 + a) (if w = resetAt a then none else some w) }

/-! ### Free values and output -/

/-- One free value below `bound`, and the state that has drawn it. -/
def State.draw (s : State) (bound : Nat) : Nat × State :=
  (Config.freeNat s.free % bound, { s with free := s.free + 1 })

/-- `n` free bytes. -/
def State.drawBytes (s : State) : Nat → List Byte × State
  | 0 => ([], s)
  | n + 1 =>
    let (b, s1) := s.draw 256
    let (bs, s2) := s1.drawBytes n
    (BitVec.ofNat 8 b :: bs, s2)

/-- `e` sent out, after everything sent before. -/
def State.emit (s : State) (e : OutEvent) : State := { s with out := s.out ++ [e] }

/-! ### Health states -/

def umber : Nat := 2

/-- The health state of unit `u`: 0 clear, 1 amber, 2 umber (R618). -/
def State.healthOf (s : State) (u : Nat) : Nat := smGet (fun _ => 0) s.health u

def unitCore (c : Nat) : Nat := c
def unitGallery (g : Nat) : Nat := 0x080 + g
def unitPc (st p : Nat) : Nat := 0x100 + 32 * st + p
def unitLane (l : Nat) : Nat := 0x300 + l

/-- A core is live while neither it nor its gallery is umber (R617). -/
def State.coreLive (s : State) (c : Nat) : Bool :=
  s.healthOf (unitCore c) != umber && s.healthOf (unitGallery (c / 8)) != umber

/-- Issue on core `c` is possible: the core is live, its gallery is not past the drain of a slate window, and nothing has
stopped the device (R632, R668, R706). -/
def State.coreRuns (s : State) (c : Nat) : Bool :=
  s.coreLive c && !s.pwr.halted &&
  (match s.hlm.window with
   | some w => w.gallery != c / 8 || w.step < 3
   | none => true)

/-- The live cores of gallery `g`, ascending. -/
def State.liveCores (s : State) (g : Nat) : List Nat :=
  ((List.range 8).map (8 * g + ·)).filter s.coreLive

/-- A gallery is live while it has a live core. -/
def State.galleryLive (s : State) (g : Nat) : Bool := !(s.liveCores g).isEmpty

/-! ### Chambers -/

/-- An empty chamber (KIND 0). -/
def Chamber.none : Chamber :=
  { kind := 0, galleries := 0, powerW := 0, lockMhz := 0, weight := 0, lcShare := 0, kvGib := 0, queues := 0,
    persistent := 0, sequences := 0, stackMask := 0, perStack := 0, first := [], owned := 0, shared := 0, pcs := [] }

def State.chamber (s : State) (n : Nat) : Chamber := s.chambers.getD n Chamber.none

/-- The chamber that owns gallery `g` (R73). -/
def State.chamberOf (s : State) (g : Nat) : Option Nat :=
  (List.range 16).find? (fun n => (s.chamber n).kind != 0 && bitOf (s.chamber n).galleries g)

/-- CHB_STATE values (R104). -/
def chbAbsent : Nat := 0
def chbLoading : Nat := 1
def chbLive : Nat := 2
def chbDraining : Nat := 3
def chbZeroising : Nat := 4

/-- Whether chamber `n` is LIVE (R104). -/
def State.chLive (s : State) (n : Nat) : Bool := n < 16 && s.fget CHB_STATE_STATE n == chbLive

/-- The galleries of chamber `n`. -/
def State.galleriesOf (s : State) (n : Nat) : List Nat := maskBits 16 (s.chamber n).galleries

/-- The live cores of chamber `n`. -/
def State.coresOf (s : State) (n : Nat) : List Nat := (s.galleriesOf n).flatMap s.liveCores

/-- The bytes of chamber `n`'s memory (R384). -/
def Chamber.memSize (c : Chamber) : Nat := c.pcs.length * c.perStack * 0x200_0000

/-- Whether chamber `n` takes part in group scope and the fabric (R89, R419). -/
def State.inGroup (s : State) (n : Nat) : Bool :=
  match s.fab.group with
  | none => false
  | some g => bitOf g.chambers n

/-- This device's 16-bit id; 0 without a GROUP section. -/
def State.deviceId (s : State) : Nat :=
  match s.fab.group with
  | none => 0
  | some g => g.deviceId

/-! ### Strands -/

/-- A FREE strand context (R48, R106). -/
def Strand.fresh : Strand :=
  { mode := .free, pc := 0, regs := List.replicate 8 0#32, notReady := 0, wait := .none, readyAt := 0, run := 0,
    ir := none, item := none, task := false, taken := none, dropped := false, victim := false,
    aged := false, liveOff := 0, liveLen := 0, boundAt := 0 }

def strandKey (c t : Nat) : Nat := 8192 * c + t

/-- The context of strand `t` of core `c`. -/
def State.strand (s : State) (c t : Nat) : Strand := smGet (fun _ => Strand.fresh) s.strands (strandKey c t)

/-- The context of strand `t` of core `c` replaced. -/
def State.setStrand (s : State) (c t : Nat) (x : Strand) : State :=
  { s with strands := smPut (fun _ => Strand.fresh) s.strands (strandKey c t) x }

/-- Scalar register `r` of a strand. -/
def Strand.reg (x : Strand) (r : Nat) : Word := x.regs.getD r 0#32

/-- Scalar register `r` of a strand set; a strand has eight (R47). -/
def Strand.setReg (x : Strand) (r : Nat) (w : Word) : Strand :=
  { x with regs := (List.range 8).map (fun k => if k = r then w else x.reg k) }

/-- The 57-bit address that an even and odd register pair holds. -/
def Strand.addrPair (x : Strand) (r : Nat) : Nat :=
  (x.reg r).toNat + 2 ^ 32 * ((x.reg (r + 1)).toNat % 2 ^ 25)

/-- A 57-bit address placed in a register pair: bits [31:0] in `r`, bits [56:32] in `r + 1`. -/
def Strand.setPair (x : Strand) (r v : Nat) : Strand :=
  (x.setReg r (BitVec.ofNat 32 v)).setReg (r + 1) (BitVec.ofNat 32 (v / 2 ^ 32 % 2 ^ 25))

/-- Registers marked as awaiting a value (R206). -/
def Strand.mark (x : Strand) (mask : Nat) : Strand := { x with notReady := x.notReady ||| mask }

/-- Registers no longer awaiting a value. -/
def Strand.unmark (x : Strand) (mask : Nat) : Strand :=
  { x with notReady := x.notReady - (x.notReady &&& mask) }

/-- The strands of core `c` that are not FREE, with their indices, ascending. -/
def State.boundStrands (s : State) (c : Nat) : List (Nat × Strand) :=
  (s.strands.filter (fun e => e.1 / 8192 == c && e.2.mode != .free)).map (fun e => (e.1 % 8192, e.2))

/-- How many strands of core `c` are FREE. -/
def State.freeStrands (s : State) (c : Nat) : Nat := 8192 - (s.boundStrands c).length

/-- The lowest FREE strand of core `c`. -/
def State.lowestFree (s : State) (c : Nat) : Option Nat :=
  let used := (s.boundStrands c).map (·.1)
  (List.range (used.length + 1)).find? (fun t => !used.contains t && t < 8192)

/-! ### Items and queues -/

/-- A queue id that holds no ring (R499). -/
def Queue.none : Queue :=
  { ring := 0, cring := 0, logSize := 6, galleries := 0, timeoutUs := 0, weight := 1, inOrder := false, tail := 0,
    credits := 0, meanNs := 0, counted := 0, soloSum := 0, soloItems := 0, seqHi := 0 }

def State.queue (s : State) (q : Nat) : Queue := smGet (fun _ => Queue.none) s.queues q

def State.setQueue (s : State) (q : Nat) (x : Queue) : State :=
  { s with queues := smPut (fun _ => Queue.none) s.queues q x }

/-- The item with key `k`, if it is between fetch and record. -/
def State.item (s : State) (k : ItemKey) : Option Item := s.items.find? (fun i => i.key == k)

/-- The item with key `k` changed by `f`. -/
def State.modItem (s : State) (k : ItemKey) (f : Item → Item) : State :=
  { s with items := s.items.map (fun i => if i.key == k then f i else i) }

/-- The item with key `k` removed. -/
def State.dropItem (s : State) (k : ItemKey) : State :=
  { s with items := s.items.filter (fun i => i.key != k) }

def Item.kind (i : Item) : Nat := fieldAt i.line 0 1
def Item.iflags (i : Item) : Nat := fieldAt i.line 1 1
def Item.affinity (i : Item) : Nat := fieldAt i.line 2 2
def Item.tag (i : Item) : Nat := fieldAt i.line 4 4
def Item.deadline (i : Item) : Nat := fieldAt i.line 8 8
def Item.scratch (i : Item) : Nat := fieldAt i.line 0x20 4
def Item.accum (i : Item) : Nat := fieldAt i.line 0x24 4

def kindLaunch : Nat := 0
def kindTask : Nat := 1
def kindGraph : Nat := 2
def kindCopy : Nat := 3
def kindMarker : Nat := 4
def kindMessage : Nat := 5
def kindMgmt : Nat := 6

/-- The chamber of queue `q` (R540). -/
def State.queueChamber (s : State) (q : Nat) : Nat := s.fget GFE_Q_STATE_CHAMBER q

/-- GFE_Q_STATE values (R499). -/
def qFree : Nat := 0
def qActive : Nat := 1
def qDraining : Nat := 2
def qTeardownDone : Nat := 3

def State.queueState (s : State) (q : Nat) : Nat := s.fget GFE_Q_STATE_STATE q

/-- 0 latency-critical, 1 best-effort (R543). -/
def State.queueClass (s : State) (q : Nat) : Nat := s.fget GFE_Q_STATE_CLASS q

/-! ### Memory bytes -/

/-- What a byte of memory that nothing has written reads as: 0, as after zeroisation (R106; log entry 2). -/
def memDefault (_ : Nat) : Byte := 0#8

/-- One byte at a device physical address. -/
def State.byte (s : State) (a : Nat) : Byte := smGet memDefault s.mem a

/-- `n` bytes from device physical address `a`. -/
def State.bytes (s : State) (a n : Nat) : List Byte := (List.range n).map (fun k => s.byte (a + k))

/-- Bytes written into a memory, lowest address first. -/
def memWrite : List Host.Cell → Nat → List Byte → List Host.Cell
  | m, _, [] => m
  | m, a, b :: bs => memWrite (smPut memDefault m a b) (a + 1) bs

/-- Bytes written from device physical address `a`. -/
def State.setBytes (s : State) (a : Nat) (bs : List Byte) : State := { s with mem := memWrite s.mem a bs }

/-- The canonical form of a memory: addresses strictly rising, no byte equal to what an unlisted address reads as. -/
def Memory.wf (m : List Host.Cell) : Bool := smWf memDefault m

/-- Every byte in `[lo, hi)` at 0 (R106). -/
def State.zeroBytes (s : State) (lo hi : Nat) : State :=
  { s with mem := smClear (fun a => lo ≤ a && a < hi) s.mem }

end Sys2Proof.Machine
end

