-- ==== Sys2Proof/Machine/Board.lean ====
section
/-! DEFINITION. What board management sees of the device over I3C, and the interrupts that a change raises (R702, R703). -/

namespace Sys2Proof.Machine

/-- Offset 0x04: the bring-up stage, 0 before stage 1. -/
def State.boardStage (s : State) : Nat := if s.pwr.held then 0 else s.fget PWR_STATUS_STAGE

/-- Offset 0x05: HLM_DEVICE.STATE, FAULT_N and THERMTRIP_N asserted. -/
def State.boardFaults (s : State) : Nat :=
  s.fget HLM_DEVICE_STATE + 64 * b2n (!s.pins.faultN) + 128 * b2n (!s.pins.thermtripN)

/-- A change of offset 0x04 or 0x05 raises an in-band interrupt, while they are enabled (R702, R703). -/
def State.noteBoard (s : State) : State :=
  let now := (s.boardStage, s.boardFaults)
  let changed := (if now.1 = s.i3c.seen.1 then [] else [4]) ++ (if now.2 = s.i3c.seen.2 then [] else [5])
  let waiting := if s.i3c.ibi then s.i3c.waiting ++ changed.filter (fun o => !s.i3c.waiting.contains o) else s.i3c.waiting
  { s with i3c := { s.i3c with seen := now, waiting := waiting } }

/-- Bring-up enters a stage. -/
def State.toStage (s : State) (n : Nat) : State := (s.fset PWR_STATUS_STAGE n).noteBoard

/-- The oldest interrupt that waits is sent (R702). -/
def State.sendIbi (s : State) : State :=
  match s.i3c.waiting with
  | [] => s
  | o :: rest => ({ s with i3c := { s.i3c with waiting := rest } } : State).emit (.ibi o)

end Sys2Proof.Machine
end

