-- ==== Sys2Proof/Machine/Check.lean ====
section
/-! DEFINITION. Check values: the general cyclic check of R634, CRC-32C (R69) and the end-to-end check of R597. -/

namespace Sys2Proof.Machine

/-- The low `w` bits of `x`, in reverse order. -/
def reflect : Nat → Nat → Nat
  | 0, _ => 0
  | w + 1, x => (x % 2) * 2 ^ w + reflect w (x / 2)

/-- `n` steps of the shift register of width `w`, most significant bit first. -/
def crcShift (w poly : Nat) : Nat → Nat → Nat
  | 0, r => r
  | n + 1, r =>
    let r' := (r * 2) % 2 ^ w
    crcShift w poly n (if bitOf r (w - 1) then r' ^^^ (poly % 2 ^ w) else r')

/-- One byte taken into the register, for a width of 8 or more. -/
def crcByte (w poly : Nat) (refin : Bool) (r : Nat) (b : Byte) : Nat :=
  let v := if refin then reflect 8 b.toNat else b.toNat
  crcShift w poly 8 (r ^^^ (v * 2 ^ (w - 8)))

/-- The register after some bytes. -/
def crcBytes (w poly : Nat) (refin : Bool) (r : Nat) (bs : List Byte) : Nat := bs.foldl (crcByte w poly refin) r

/-- The check value: register from `init`, reflected and inverted at the end as asked. -/
def crc (w poly init : Nat) (refin refout : Bool) (final : Nat) (bs : List Byte) : Nat :=
  let r := crcBytes w poly refin init bs
  (if refout then reflect w r else r) ^^^ final

/-- CRC-32C (R69). -/
def crc32c (bs : List Byte) : Nat := crc 32 0x1EDC6F41 0xFFFFFFFF true true 0xFFFFFFFF bs

/-- The end-to-end check (R597). -/
def crc64 (bs : List Byte) : Nat :=
  crc 64 0x42F0E1EBA9EA3693 0xFFFFFFFFFFFFFFFF true true 0xFFFFFFFFFFFFFFFF bs

end Sys2Proof.Machine
end

