-- ==== Sys2Proof/Machine/Mmu.lean ====
section
/-! DEFINITION. Memory System: the device physical space, chamber memory and its interleave, page walks, translations,
memory faults and line counters (R378 to R411, R722). -/

namespace Sys2Proof.Machine

/-! ### Event kinds of the health monitor (R619) -/

def kDupMismatch : Nat := 0x01
def kScanFail : Nat := 0x02
def kSramUe : Nat := 0x03
def kSramCe : Nat := 0x04
def kCanary : Nat := 0x05
def kHbmUe : Nat := 0x06
def kHbmCe : Nat := 0x07
def kRetrain : Nat := 0x08
def kCmdParity : Nat := 0x09
def kLaneTrain : Nat := 0x0A
def kLaneFec : Nat := 0x0B
def kLaneMargin : Nat := 0x0C
def kE2e : Nat := 0x0D
def kScrub : Nat := 0x0E
def kOwner : Nat := 0x0F

/-! ### Codes -/

/-- A memory fault: code and cause of R398, and the level of the failing entry (R411). -/
structure MFault where
  code : Nat
  cause : Nat
  level : Nat
deriving DecidableEq, Repr

/-- What a translation reaches: an address of this device, or another device's (R383). -/
structure Target where
  device : Option Nat
  pa : Nat
deriving DecidableEq, Repr

/-- Who an access is translated for: the gallery whose TLB partition serves it, and its REQ code (R411, R722). -/
structure MReq where
  gallery : Nat
  code : Nat
deriving DecidableEq, Repr

def fTranslation : Nat := 0x30
def fPermission : Nat := 0x31
def fMemory : Nat := 0x32
def fRemote : Nat := 0x33
def fRetired : Nat := 0x37

/-- The MMU instance of a requester: the MMU of its gallery's half (R722). -/
def MReq.inst (r : MReq) : Nat := r.gallery / 8

def reqCore (c : Nat) : MReq := ⟨c / 8, c⟩
def reqMover (g d : Nat) : MReq := ⟨g, 0x80 + 4 * g + d⟩
def reqRte (g : Nat) : MReq := ⟨g, 0xC0 + g⟩
def reqCdc (g : Nat) : MReq := ⟨g, 0xD0 + g⟩
def reqAlloc (c : Nat) : MReq := ⟨c / 8, 0xF0⟩

/-- The lowest gallery of chamber `n` that has a live core: it serves the requesters of no gallery (R722). -/
def State.lowGallery (s : State) (n : Nat) : Nat := ((s.galleriesOf n).find? s.galleryLive).getD 0

def State.reqGfe (s : State) (n : Nat) : MReq := ⟨s.lowGallery n, 0xF1⟩
def State.reqTru (s : State) (n : Nat) : MReq := ⟨s.lowGallery n, 0xF2⟩
def State.reqFw (s : State) (n : Nat) : MReq := ⟨s.lowGallery n, 0xF3⟩

/-! ### The device physical space (R381) -/

def hbmBase (n : Nat) : Nat := 0x80_0000_0000 * n
def rawBase (st : Nat) : Nat := 0x0800_0000_0000 + 0x8_0000_0000 * st
def scratchBase (c : Nat) : Nat := 0x0C00_0000_0000 + 0x20_0000 * c
def storeBase (g : Nat) : Nat := 0x0C10_0000_0000 + 0x100_0000 * g

/-- The regions of R381. -/
inductive Region where
  | hbm (n off : Nat)
  | raw (st off : Nat)
  | scratch (c off : Nat)
  | store (g off : Nat)
  | outside
deriving DecidableEq, Repr

/-- The region that holds a device physical address (R381). -/
def regionOf (s : State) (pa : Nat) : Region :=
  if pa < 0x0800_0000_0000 then
    let n := pa / 0x80_0000_0000
    if pa % 0x80_0000_0000 < (s.chamber n).memSize then .hbm n (pa % 0x80_0000_0000) else .outside
  else if pa < 0x0880_0000_0000 then
    let st := (pa - 0x0800_0000_0000) / 0x8_0000_0000
    let off := (pa - 0x0800_0000_0000) % 0x8_0000_0000
    if off < s.granules * 0x4000_0000 then .raw st off else .outside
  else if 0x0C00_0000_0000 ≤ pa ∧ pa < 0x0C00_1000_0000 then
    .scratch ((pa - 0x0C00_0000_0000) / 0x20_0000) ((pa - 0x0C00_0000_0000) % 0x20_0000)
  else if 0x0C10_0000_0000 ≤ pa ∧ pa < 0x0C10_1000_0000 then
    .store ((pa - 0x0C10_0000_0000) / 0x100_0000) ((pa - 0x0C10_0000_0000) % 0x100_0000)
  else .outside

/-- Where a chamber physical address lies: stack, pseudo-channel and raw stack offset (R385). -/
def Chamber.interleave (c : Chamber) (a : Nat) : Nat × Nat × Nat :=
  let n := c.pcs.length
  let u := a / 256
  let j := u % n
  let i := u / n
  let (p, st) := c.pcs.getD j (0, 0)
  let o := (c.first.getD st 0) * 2 ^ 25 + i * 256 + a % 256
  (st, p, o / 256 * 8192 + p * 256 + o % 256)

/-- The chamber's pseudo-channel list: non-umber pseudo-channels of its stacks, by pseudo-channel and then stack
(R384). -/
def State.pcList (s : State) (stackMask : Nat) : List (Nat × Nat) :=
  (List.range 32).flatMap fun p =>
    ((maskBits 16 stackMask).filter (fun st => s.healthOf (unitPc st p) != umber)).map (fun st => (p, st))

/-- Bytes of the window tables of chamber `c` (R394). -/
def Chamber.windowTables (c : Chamber) : Nat :=
  0x80_0000 + c.kvGib * 0x40_0000 + min (c.sequences * 0x1_0000) (c.kvGib * 0x400_0000)

/-- Whether a chamber physical address lies in the key–value pool or the window tables below it (R394). -/
def Chamber.inPool (c : Chamber) (off : Nat) : Bool :=
  c.memSize ≤ off + c.kvGib * 0x4000_0000 + c.windowTables

/-- What a chamber's access to a local physical address meets: its rights (R388, R395), retired units (R386, R397).
`priv` is the ATU allocator and the device's own cache writes. -/
def State.rights (s : State) (n pa : Nat) (wr priv : Bool) : Option MFault :=
  match regionOf s pa with
  | .hbm m off =>
    if m != n then some ⟨fPermission, 2, 0⟩
    else if wr && !priv && (s.chamber n).inPool off then some ⟨fPermission, 1, 0⟩
    else
      let (st, p, _) := (s.chamber n).interleave off
      if s.healthOf (unitPc st p) == umber then some ⟨fMemory, 3, 0⟩ else none
  | .scratch c _ =>
    if !bitOf (s.chamber n).galleries (c / 8) then some ⟨fPermission, 3, 0⟩
    else if !s.coreLive c then some ⟨fRetired, 0, 0⟩ else none
  | .store g _ =>
    if !bitOf (s.chamber n).galleries g then some ⟨fPermission, 3, 0⟩
    else if !s.galleryLive g then some ⟨fRetired, 0, 0⟩ else none
  | _ => some ⟨fPermission, 2, 0⟩

/-! ### Page walks (R389 to R391) -/

/-- A page that a leaf entry maps. -/
structure Leaf where
  device : Option Nat
  pa : Nat
  size : Nat
  writable : Bool
deriving DecidableEq, Repr

/-- The levels of R389: level, the virtual bits it indexes, and the table's size. -/
def walkLevels : List (Nat × Nat × Nat × Nat) :=
  [(0, 56, 48, 4096), (1, 47, 39, 4096), (2, 38, 30, 4096), (3, 29, 21, 4096), (4, 20, 16, 256)]

/-- Whether a table of `size` bytes at `t` lies in chamber `n`'s own HBM region, aligned to its size (R389). -/
def State.tableInside (s : State) (n t size : Nat) : Bool :=
  hbmBase n ≤ t && t + size ≤ hbmBase n + (s.chamber n).memSize && t % size == 0

/-- The size of the table that the next level reads. -/
def nextTableSize (level : Nat) : Nat := if level = 3 then 256 else 4096

/-- Whether an entry breaks R390 at `level`, whose pages have `size` bytes. -/
def badEntry (level size e : Nat) : Bool :=
  let leaf := bitOf e 2
  let remote := bitOf e 4
  let dev := bitsOf e 63 48
  let addr := bitsOf e 47 8 * 256
  bitsOf e 7 5 != 0 || bitOf e 1 ||
  (leaf && level ≤ 1) || (!leaf && level == 4) ||
  (if leaf then addr % size != 0 || (!remote && dev != 0)
   else addr % nextTableSize level != 0 || remote || bitOf e 3 || dev != 0)

/-! ### Cells, poison and line counters (R399 to R401, R409) -/

/-- The bytes whose cells an access of `n` bytes at `pa` reads together: the line in HBM, the words it touches in on-die SRAM
(R399). -/
def State.cellSpan (s : State) (pa n : Nat) : Nat × Nat :=
  match regionOf s pa with
  | .scratch _ _ => (pa / 8 * 8, roundUp (pa + n) 8)
  | .store _ _ => (pa / 8 * 8, roundUp (pa + n) 8)
  | _ => (pa / 64 * 64, pa / 64 * 64 + 64)

/-- Whether a read of `n` bytes at `pa` meets a poisoned line or a word found uncorrectable (R400). -/
def State.poisoned (s : State) (pa : Nat) (n : Nat := 64) : Bool :=
  let (lo, hi) := s.cellSpan pa n
  s.ms.poison.any (fun a => lo ≤ a && a < hi)

/-- The stack that holds a line of HBM. -/
def State.stackOf (s : State) (pa : Nat) : Option Nat :=
  match regionOf s pa with
  | .hbm n off => some ((s.chamber n).interleave off).1
  | .raw st _ => some st
  | _ => none

/-- One line read or written, counted at its HBC (R409). -/
def State.countLine (s : State) (pa : Nat) (wr : Bool) : State :=
  match s.stackOf pa with
  | some st => if wr then s.bump64 HBC_WR_LO_COUNT HBC_WR_HI_COUNT 1 st else s.bump64 HBC_RD_LO_COUNT HBC_RD_HI_COUNT 1 st
  | none => s

/-- The line or word at `a` poisoned or cleared, and its HBC's count of poisoned lines set (R400, R409). -/
def State.setPoison (s : State) (a : Nat) (on : Bool) : State :=
  if s.ms.poison.contains a == on then s else
  let s := { s with ms := { s.ms with
    poison := if on then a :: s.ms.poison else s.ms.poison.filter (· != a) } }
  match s.stackOf a with
  | some st => if on then s.bump HBC_POISON_COUNT 1 st else s.fset HBC_POISON_COUNT (s.fget HBC_POISON_COUNT st - 1) st
  | none => s

/-- How grave an event of the cells is; parity lies on the command path. -/
def CellEvent.rank : CellEvent → Nat
  | .onDie => 1
  | .corrected => 2
  | .uncorrectable => 3
  | _ => 0

/-- The gravest error that lies undetected in the cells of an access (R399). -/
def State.latent (s : State) (pa n : Nat) : CellEvent :=
  let (lo, hi) := s.cellSpan pa n
  (s.ms.cells.filter (fun e => lo ≤ e.1 && e.1 < hi)).foldl (fun w e => if w.rank < e.2.rank then e.2 else w) .clean

/-- The cells in `[lo, hi)` rewritten: what lay undetected in them is gone. -/
def State.rewriteCells (s : State) (lo hi : Nat) : State :=
  { s with ms := { s.ms with cells := s.ms.cells.filter (fun e => e.1 < lo || hi ≤ e.1) } }

/-- An event found in the cells, which the health monitor is to take: unit and kind (R399, R619). -/
def State.noteCell (s : State) (unit kind : Nat) : State :=
  { s with ms := { s.ms with found := s.ms.found ++ [(unit, kind)] } }

/-- The pseudo-channel of an HBM line and its line number within the stack: stack, pseudo-channel, raw line (R380,
R384). -/
def State.placeOf (s : State) (pa : Nat) : Option (Nat × Nat × Nat) :=
  match regionOf s pa with
  | .hbm n off =>
    let (st, p, raw) := (s.chamber n).interleave off
    some (st, p, raw / 64)
  | .raw st off => some (st, off / 256 % 32, off / 64)
  | _ => none

/-- The event registers of a stack (R409). -/
def State.errorAt (s : State) (st p raw kind : Nat) : State :=
  ((s.fset HBC_ERR_LAST_PC p st).fset HBC_ERR_LAST_KIND kind st).fset HBC_ERR_ADDR_LINE raw st

/-- The unit that protects an on-die SRAM word: a core's scratchpad, or a gallery store. -/
def sramUnit (s : State) (pa : Nat) : Option Nat :=
  match regionOf s pa with
  | .scratch c _ => some (unitCore c)
  | .store g _ => some (unitGallery g)
  | _ => none

/-- What a read of `n` bytes at `pa` meets in its cells, the event `ev` of this access included: counts, the latest event, poison,
and what the monitor is to hear; whether the data is uncorrectable (R379, R399, R400, R619). On-die SRAM rewrites a word it
corrects. -/
def State.meetCells (s : State) (pa n : Nat) (ev : CellEvent) : Bool × State :=
  let lat := s.latent pa n
  let worst := if ev.rank < lat.rank then lat else ev
  match s.placeOf pa with
  | some (st, p, raw) =>
    let u := unitPc st p
    match worst with
    | .clean => (false, s)
    | .onDie => (false, s.bump HBC_ODECC_COUNT 1 st)
    | .corrected => (false, ((s.bump HBC_CE_COUNT 1 st).errorAt st p raw 1).noteCell u kHbmCe)
    | .uncorrectable =>
      (true, ((((s.bump HBC_UE_COUNT 1 st).errorAt st p raw 2).setPoison (pa / 64 * 64) true).rewriteCells
        (pa / 64 * 64) (pa / 64 * 64 + 64)).noteCell u kHbmUe)
    | .parityOnce => (false, s)
    | .parityTwice => (false, (s.errorAt st p raw 3).noteCell (unitPc st (p / 2 * 2)) kCmdParity)
  | none =>
    match sramUnit s pa with
    | none => (false, s)
    | some u =>
      let (lo, hi) := s.cellSpan pa n
      match worst with
      | .corrected => (false, (s.rewriteCells lo hi).noteCell u kSramCe)
      | .uncorrectable =>
        let bad := ((s.ms.cells.filter (fun e => lo ≤ e.1 && e.1 < hi && e.2 == .uncorrectable)).map (fun e => e.1 / 8 * 8)).eraseDups
        let bad := if ev == .uncorrectable then lo :: bad else bad
        (true, ((bad.foldl (fun s a => s.setPoison a true) s).rewriteCells lo hi).noteCell u kSramUe)
      | _ => (false, s)

/-- A read at the home that stays within one line; `ev` is what this access shows beside what lies in its cells (R399, R400, R413,
R414). -/
def State.readLine (s : State) (pa n : Nat) (ev : CellEvent := .clean) : Except MFault (List Byte) × State :=
  let s := s.countLine pa false
  if s.poisoned pa n then (.error ⟨fMemory, 2, 0⟩, s) else
  match s.meetCells pa n ev with
  | (true, s) => (.error ⟨fMemory, 1, 0⟩, s)
  | (false, s) => (.ok (s.bytes pa n), s)

/-! ### Walks -/

/-- The level of the leaf entry that maps pages of `size` bytes (R389). -/
def levelOf (size : Nat) : Nat := if size = 2 ^ 30 then 2 else if size = 2 ^ 21 then 3 else 4

/-- The table entry at `ea`, read by a walk at `level`; the read is a line read (R391, R392, R400). -/
def State.readEntry (s : State) (n ea level : Nat) : Except MFault Nat × State :=
  match s.rights n ea false true with
  | some f => (.error { f with level := level }, s)
  | none =>
    match s.readLine (ea / 64 * 64) 64 with
    | (.error f, s) => (.error { f with level := level }, s)
    | (.ok b, s) => (.ok (fieldAt b (ea % 64) 8), s)

/-- An upper-level entry kept in the partition of gallery `g`, which holds 256; which one it replaces is open (R392). -/
def State.keepUpper (s : State) (e : UpperEntry) : State :=
  let mine := s.ms.upper.filter (fun x => x.gallery == e.gallery)
  if mine.length < 256 then { s with ms := { s.ms with upper := e :: s.ms.upper } }
  else
    let (k, s) := s.draw 256
    { s with ms := { s.ms with upper := e :: (mine.eraseIdx k ++ s.ms.upper.filter (fun x => x.gallery != e.gallery)) } }

/-- A walk from the table at `t` through the remaining levels, for the partition of gallery `g` (R391, R392). -/
def walk (s : State) (g n va : Nat) (t : Nat) : List (Nat × Nat × Nat × Nat) → Except MFault Leaf × State
  | [] => (.error ⟨fTranslation, 2, 4⟩, s)
  | (level, hi, lo, tsize) :: rest =>
    if !s.tableInside n t tsize then (.error ⟨fTranslation, 3, level⟩, s) else
    match s.readEntry n (t + 8 * bitsOf va hi lo) level with
    | (.error f, s) => (.error f, s)
    | (.ok e, s) =>
      if !bitOf e 0 then (.error ⟨fTranslation, 1, level⟩, s)
      else if badEntry level (2 ^ lo) e then (.error ⟨fTranslation, 2, level⟩, s)
      else
        let addr := bitsOf e 47 8 * 256
        if bitOf e 2 then
          (.ok { device := if bitOf e 4 then some (bitsOf e 63 48) else none, pa := addr, size := 2 ^ lo,
                 writable := bitOf e 3 }, s)
        else walk (s.keepUpper { gallery := g, level := level, index := va / 2 ^ lo, table := addr }) g n va addr rest

/-- Whether a virtual address lies in the key–value window (R387). -/
def inWindowVa (va : Nat) : Bool := 0x0100_0000_0000_0000 ≤ va && va < 0x0104_0000_0000_0000

/-- The root of the allocator's window tables, once it has one (R280, R394). -/
def State.windowRoot (s : State) (n : Nat) : Option Nat :=
  (s.kv.tables.find? (fun e => e.chamber == n && e.level == 0)).map (·.pa)

/-- A walk for gallery `g`: from the table that the deepest upper-level entry held names, else from the root: MMU_ROOT of the
requester's instance, or the allocator's for the key–value window (R387, R391, R392). -/
def State.walkFrom (s : State) (inst g n va : Nat) : Except MFault Leaf × State :=
  let held := fun (l : Nat × Nat × Nat × Nat) =>
    s.ms.upper.find? (fun e => e.gallery == g && e.level == l.1 && e.index == va / 2 ^ l.2.2.1)
  if !inWindowVa va && s.fget MMU_ROOT_LO_ENABLE inst n == 0 then (.error ⟨fTranslation, 4, 0⟩, s) else
  match (walkLevels.take 4).reverse.findSome? held with
  | some e => walk s g n va e.table (walkLevels.drop (e.level + 1))
  | none =>
    if inWindowVa va then
      match s.windowRoot n with
      | some t => walk s g n va t walkLevels
      | none => (.error ⟨fTranslation, 1, 0⟩, s)
    else walk s g n va (s.fget MMU_ROOT_HI_ADDR inst n * 2 ^ 32 + s.fget MMU_ROOT_LO_ADDR inst n * 4096) walkLevels

/-- A fault recorded in the chamber set of the requester's MMU instance (R411). -/
def State.recordFault (s : State) (r : MReq) (n va : Nat) (wr : Bool) (f : MFault) : State :=
  let i := r.inst
  let s := s.wset MMU_FAULT_VA_LO (va % 2 ^ 32) i n
  let s := s.wset MMU_FAULT_VA_HI (va / 2 ^ 32 % 2 ^ 25) i n
  let s := s.wset MMU_FAULT_INFO
    (f.code * 2 ^ 24 + f.cause % 16 * 2 ^ 20 + b2n wr * 2 ^ 19 + f.level % 8 * 2 ^ 16 + r.code * 2 ^ 8) i n
  s.bump MMU_FAULTS_COUNT 1 i n

/-- The translation of a general or window address for a requester: a hit in its gallery's TLB partition, or a walk that fills it;
each is counted (R392, R722). -/
def State.lookup (s : State) (r : MReq) (n va : Nat) : Except MFault Leaf × State :=
  match s.ms.tlb.find? (fun e => e.gallery == r.gallery && e.va ≤ va && va < e.va + e.size) with
  | some e => (.ok ⟨e.device, e.pa, e.size, e.writable⟩, s.bump64 MMU_HITS_LO_COUNT MMU_HITS_HI_COUNT 1 r.inst n)
  | none =>
    match (s.bump64 MMU_WALKS_LO_COUNT MMU_WALKS_HI_COUNT 1 r.inst n).walkFrom r.inst r.gallery n va with
    | (.error f, s) => (.error f, s)
    | (.ok l, s) =>
      let mine := s.ms.tlb.filter (fun e => e.gallery == r.gallery)
      let rest := s.ms.tlb.filter (fun e => e.gallery != r.gallery)
      let e : TlbEntry := { gallery := r.gallery, va := va / l.size * l.size, size := l.size, device := l.device,
                            pa := l.pa, writable := l.writable }
      if mine.length < 4096 then (.ok l, { s with ms := { s.ms with tlb := e :: s.ms.tlb } })
      else
        let (k, s) := s.draw 4096
        (.ok l, { s with ms := { s.ms with tlb := e :: (mine.eraseIdx k ++ rest) } })

/-- What an access of chamber `n` to a local physical address reaches, or the fault it meets (R388, R395). -/
def State.reachPa (s : State) (n pa : Nat) (wr priv : Bool) : Except MFault Target × State :=
  match s.rights n pa wr priv with
  | some f => (.error f, s)
  | none => (.ok ⟨none, pa⟩, s)

/-- The translation of one access that stays within a 64-byte line, without recording a fault: the virtual space of R387,
the rights of R388 to R391 and R395. -/
def State.resolve (s : State) (r : MReq) (n va : Nat) (wr priv : Bool) : Except MFault Target × State :=
  if 2 ^ 57 ≤ va ∨ (0x0104_0000_0000_0000 ≤ va ∧ va < 0x01FF_0000_0000_0000) then
    (.error ⟨fTranslation, 5, 0⟩, s)
  else if 0x01FF_0000_0000_0000 ≤ va then
    s.reachPa n (va - 0x01FF_0000_0000_0000) wr priv
  else
    match s.lookup r n va with
    | (.error f, s) => (.error f, s)
    | (.ok l, s) =>
      if wr && !l.writable then (.error ⟨fPermission, 1, levelOf l.size⟩, s) else
      match l.device with
      | some d =>
        if s.inGroup n then (.ok ⟨some d, l.pa + va % l.size⟩, s) else (.error ⟨fPermission, 4, levelOf l.size⟩, s)
      | none => s.reachPa n (l.pa + va % l.size) wr priv

/-- The translation of an access, with any fault recorded (R398). -/
def State.translate (s : State) (r : MReq) (n va : Nat) (wr priv : Bool) : Except MFault Target × State :=
  match s.resolve r n va wr priv with
  | (.error f, s) => (.error f, s.recordFault r n va wr f)
  | ok => ok

/-! ### Writes and wide accesses -/

/-- Whether a write to a line concerns a location with a release record: a plain write removes it (R449). -/
def MemSys.dropRecord (m : MemSys) (pa : Nat) : MemSys :=
  { m with records := m.records.filter (fun r => r.addr != pa / 64 * 64) }

/-- The line, or the words of on-die SRAM, that a write of `n` bytes at `pa` covers in part and that are read first (R401). -/
def State.partly (s : State) (pa n : Nat) : List Nat :=
  let (lo, hi) := s.cellSpan pa n
  match s.placeOf pa with
  | some _ => if n < 64 then [lo] else []
  | none => ((if pa = lo ∧ lo + 8 ≤ pa + n then [] else [lo]) ++ (if pa + n = hi then [] else [hi - 8])).eraseDups

/-- The lines or words that a write covers in part, read first: what stops the write (R400, R401). -/
def State.readFirst (s : State) (ev : CellEvent) : List Nat → Option MFault × State
  | [] => (none, s)
  | a :: l =>
    match s.readLine a 8 ev with
    | (.error f, s) => (some f, s)
    | (.ok _, s) => s.readFirst .clean l

/-- Bytes put at their home: the line is counted, and what they cover wholly is no longer poisoned (R400, R401, R409). -/
def State.putLine (s : State) (pa : Nat) (bs : List Byte) : State :=
  let (lo, hi) := s.cellSpan pa bs.length
  let s := (s.ms.poison.filter (fun a => lo ≤ a && a < hi)).foldl (fun s a => s.setPoison a false) (s.countLine pa true)
  let s := s.rewriteCells lo hi
  s.setBytes pa bs

/-- A write at the home that stays within one line. What it covers in part is read first, in the same indivisible update; a poisoned
line or an uncorrectable word there fails it and stays as it was (R400, R401). -/
def State.writeLine (s : State) (pa : Nat) (bs : List Byte) (ev : CellEvent := .clean) : Option MFault × State :=
  match s.readFirst ev (s.partly pa bs.length) with
  | (some f, s) => (some f, s)
  | (none, s) =>
    let s := s.putLine pa bs
    (none, { s with ms := s.ms.dropRecord pa })

/-- An access of `len` bytes from `va`, cut at the boundaries of 64-byte lines: address and length of each piece
(R414). -/
def linesOf (va len : Nat) : List (Nat × Nat) :=
  if len = 0 then [] else
  (List.range ((va + len - 1) / 64 - va / 64 + 1)).map fun k =>
    let lo := max va ((va / 64 + k) * 64)
    let hi := min (va + len) ((va / 64 + k + 1) * 64)
    (lo, hi - lo)

/-- Whether a line fetched for owner `o` is the one asked for. -/
def Wanted.same (w v : Wanted) : Bool := w.device == v.device && w.addr == v.addr && w.len == v.len && w.code == v.code

/-- A remote line read for the requester that runs: from the answer that has brought it, or asked for; meanwhile its bytes stand at
0, and what the requester makes of them is discarded. For a requester that cannot wait they are free (R443; log entry 3). -/
def State.remoteLine (s : State) (w : Wanted) : List Byte × State :=
  match s.ms.asking with
  | none => s.drawBytes w.len
  | some o =>
    match s.ms.fetched.find? (fun e => e.1 == o && e.2.1.same w) with
    | some e => (slice e.2.2 0 w.len, s)
    | none => (List.replicate w.len 0#8, { s with ms := { s.ms with wanted := s.ms.wanted ++ [w] } })

/-- A read of several pieces by an engine or by the device (R414, R443). -/
def State.readPieces (s : State) (r : MReq) (n : Nat) (priv : Bool) :
    List (Nat × Nat) → Except MFault (List Byte) × State
  | [] => (.ok [], s)
  | (va, len) :: rest =>
    match s.translate r n va false priv with
    | (.error f, s) => (.error f, s)
    | (.ok ⟨some d, pa⟩, s) =>
      let (bs, s) := s.remoteLine { device := d, addr := pa, len := len, va := va, gallery := r.gallery, code := r.code, chamber := n }
      match s.readPieces r n priv rest with
      | (.error f, s) => (.error f, s)
      | (.ok t, s) => (.ok (bs ++ t), s)
    | (.ok ⟨none, pa⟩, s) =>
      match s.readLine pa len with
      | (.error f, s) => (.error f, s.recordFault r n va false f)
      | (.ok bs, s) =>
        match s.readPieces r n priv rest with
        | (.error f, s) => (.error f, s)
        | (.ok t, s) => (.ok (bs ++ t), s)

/-- `len` bytes read at virtual address `va` of chamber `n` (R414). -/
def State.readVa (s : State) (r : MReq) (n va len : Nat) : Except MFault (List Byte) × State :=
  s.readPieces r n true (linesOf va len)

end Sys2Proof.Machine
end

