-- ==== Sys2Proof/Machine/Send.lean ====
section
/-! DEFINITION. Sending on the fabric: routes, credits, check values, the numbering of requests and of closing writes
(R585 to R599). -/

namespace Sys2Proof.Machine

/-! ### Packet types (R586) -/

def ptRdReq : Nat := 0x01
def ptWr : Nat := 0x02
def ptCloseWr : Nat := 0x03
def ptAmo : Nat := 0x04
def ptRow : Nat := 0x05
def ptRowEnd : Nat := 0x06
def ptBarArrive : Nat := 0x08
def ptBarRelease : Nat := 0x09
def ptSync : Nat := 0x0A
def ptMember : Nat := 0x0B
def ptRdResp : Nat := 0x41
def ptWrAck : Nat := 0x42
def ptAmoResp : Nat := 0x44
def ptRowDrop : Nat := 0x45
def ptResult : Nat := 0x47
def ptNak : Nat := 0x7F
def ptLink : Nat := 0xF0

/-- The virtual channel of a type: 0 requests, 1 answers, 2 group service; none for LINK and unknown types (R586). -/
def vcOf (type : Nat) : Option Nat :=
  if [0x01, 0x02, 0x03, 0x04, 0x05, 0x06].contains type then some 0
  else if [0x41, 0x42, 0x44, 0x45, 0x47, 0x7F].contains type then some 1
  else if [0x08, 0x09, 0x0A, 0x0B].contains type then some 2
  else none

/-! ### NAK causes (R593) -/

def nakNotMember : Nat := 1
def nakNoGroup : Nat := 2
def nakNotLive : Nat := 3
def nakOutOfRange : Nat := 4
def nakWriteDenied : Nat := 5
def nakMemory : Nat := 6
def nakRxBusy : Nat := 7
def nakBadProfile : Nat := 8
def nakCheck : Nat := 9
def nakCloseTimeout : Nat := 10
def nakCloseFailed : Nat := 11
def nakUnreachable : Nat := 12
def nakViolation : Nat := 13
def nakBarrier : Nat := 14

/-! ### The packet on the wire -/

/-- Deadlock class of a packet: FLAGS bits [3:2] (R585). -/
def Packet.dclass (p : Packet) : Nat := bitsOf p.flags 3 2

/-- The end-to-end check of a packet: CHAMBER, DST, SRC, ADDR, LENGTH and TXN, then the payload (R597). -/
def Packet.check (p : Packet) : Nat :=
  crc64 (leBytes 1 p.chamber ++ leBytes 2 p.dst ++ leBytes 2 p.src ++ leBytes 6 p.addr ++ leBytes 2 p.length ++
    leBytes 4 p.txn ++ p.payload)

/-- A packet that carries data, with its end-to-end check set (R597). -/
def Packet.seal (p : Packet) : Packet :=
  if p.payload.isEmpty then p else { p with flags := p.flags ||| 2, e2e := p.check }

/-- Bytes on the wire: header, payload and trailer, padded to 32 B (R585). -/
def Packet.wire (p : Packet) : Nat := roundUp (32 + p.payload.length + 16) 32

/-- A packet with nothing set. -/
def Packet.zero : Packet :=
  { type := 0, flags := 0, hops := 64, chamber := 0, dst := 0, src := 0, addr := 0, length := 0, txn := 0, arg := 0,
    queue := 0xFFFF, qepoch := 0, stream := 0, lseq := 0, payload := [], e2e := 0 }

/-! ### Lanes and routes -/

def Lane.fresh : Lane :=
  { attempts := 0, retryAt := 0, txSeq := 0, rxSeq := 0, replay := [], replays := 0, credits := List.replicate 9 0,
    locked := false, taps := [], eqAt := 0 }

def State.lane (s : State) (l : Nat) : Lane := smGet (fun _ => Lane.fresh) s.fab.lanes l

def State.setLane (s : State) (l : Nat) (x : Lane) : State :=
  { s with fab := { s.fab with lanes := smPut (fun _ => Lane.fresh) s.fab.lanes l x } }

/-- The lanes of port `p` in service (R601). -/
def State.lanesUp (s : State) (p : Nat) : List Nat :=
  (maskBits 4 (s.fget LNK_PORT_STATUS_IN_SERVICE p)).map (4 * p + ·)

/-- Port `p` can carry traffic: a lane in service, not isolated, not in a test window (R590). -/
def State.portUp (s : State) (p : Nat) : Bool :=
  s.fget LNK_PORT_STATUS_STATE p == 2 && s.fget LNK_PORT_STATUS_TEST p == 0 && !(s.lanesUp p).isEmpty

/-- Chamber `n` owns or shares port `p` (R82). -/
def State.mayUsePort (s : State) (n p : Nat) : Bool :=
  bitOf (s.chamber n).owned p || bitOf (s.chamber n).shared p

/-- Bytes a lane has sent and not yet had acknowledged. -/
def Lane.queued (x : Lane) : Nat := (x.replay.map Packet.wire).sum

/-- Bytes queued on port `p`. -/
def State.portQueued (s : State) (p : Nat) : Nat :=
  ((s.lanesUp p).map (fun l => (s.lane l).queued)).sum +
  ((s.fab.txq.filter (fun e => e.1 == p)).map (fun e => e.2.wire)).sum

/-- The egress port toward member `dst` for a packet of chamber `n` (R590); VC2 traffic uses any port of the mask. -/
def State.egress (s : State) (n dst : Nat) (vc2 : Bool) : Option Nat :=
  match s.fab.group with
  | none => none
  | some g =>
    match g.members.find? (fun m => m.1 == dst) with
    | none => none
    | some (_, mask) =>
      argMin s.portQueued ((maskBits 16 mask).filter (fun p => s.portUp p && (vc2 || s.mayUsePort n p)))

/-- The place of a packet's credits in a CREDIT message (R599). -/
def creditIndex (p : Packet) : Nat :=
  match vcOf p.type with
  | some 0 => p.dclass
  | some 1 => 4 + p.dclass
  | _ => 8

/-- A packet put on port `p`: on the lane with the fewest queued bytes whose credits cover it, else it waits for credits
(R590, R598, R599). -/
def State.putOn (s : State) (port : Nat) (p : Packet) : State :=
  let blocks := p.wire / 32
  let ok := (s.lanesUp port).filter (fun l => blocks ≤ (s.lane l).credits.getD (creditIndex p) 0)
  match argMin (fun l => (s.lane l).queued) ok with
  | none => { s with fab := { s.fab with txq := s.fab.txq ++ [(port, p)] } }
  | some l =>
    let x := s.lane l
    let p := { p with lseq := x.txSeq % 0x1_0000 }
    let k := creditIndex p
    let s := s.setLane l { x with
      txSeq := (x.txSeq + 1) % 0x1_0000, replay := x.replay ++ [p],
      credits := x.credits.set k (x.credits.getD k 0 - blocks) }
    (s.bump64 LNK_TX_BYTES_LO_COUNT LNK_TX_BYTES_HI_COUNT p.wire port).emit (.packet port p)

/-- A LINK packet to the adjacent port; it takes no credits and is never forwarded (R586, R599). -/
def State.sendLink (s : State) (port : Nat) (subtype : Nat) (payload : List Byte) : State :=
  let p := { Packet.zero with
    type := ptLink, arg := subtype, length := 32, src := s.deviceId, payload := slice payload 0 32 }
  (s.bump64 LNK_TX_BYTES_LO_COUNT LNK_TX_BYTES_HI_COUNT p.wire port).emit (.packet port p)

/-- A packet sent along its route; false where no port is left (R590). -/
def State.send (s : State) (p : Packet) : Bool × State :=
  match s.egress p.chamber p.dst (vcOf p.type == some 2) with
  | none => (false, s)
  | some port => (true, s.putOn port p.seal)

/-! ### Requests of this device -/

/-- The source's numbering of closing writes for one requester, chamber and target (R595). -/
def State.sourceStream (s : State) (req n dst : Nat) : SourceStream :=
  (s.fab.sources.find? (fun e => e.requester == req && e.chamber == n && e.target == dst)).getD
    { requester := req, chamber := n, target := dst, next := 0, count := 0 }

def State.setSource (s : State) (x : SourceStream) : State :=
  { s with fab := { s.fab with sources := x :: s.fab.sources.filter (fun e =>
      !(e.requester == x.requester && e.chamber == x.chamber && e.target == x.target)) } }

/-- Closing writes of a stream that wait for their answers (R446). -/
def State.closesOut (s : State) (req n dst : Nat) : Nat :=
  (s.fab.outstanding.filter (fun o => o.packet.type == ptCloseWr && o.requester == req &&
    o.packet.chamber == n && o.packet.dst == dst)).length

/-- A request sent to another device on behalf of `owner` (R585, R595): it takes the next transaction number and the
CIDX of its stream, and waits for its answer. With no route left it meets UNREACHABLE (R590). -/
def State.request (s : State) (type : Nat) (owner : Owner) (req n dst addr len : Nat) (payload : List Byte) (arg : Nat)
    (queue : Nat) (va : Option Nat := none) (expires : Option Nat := none) : Option MFault × State :=
  let ss := s.sourceStream req n dst
  let write := type == ptWr || type == ptAmo || type == ptCloseWr
  let arg := if type == ptCloseWr then ss.count else arg
  let p : Packet := { Packet.zero with
    type := type, flags := b2n (s.queueClass queue == 0), chamber := n, dst := dst, src := s.deviceId, addr := addr,
    length := len, txn := s.fab.txn, arg := arg, queue := queue, qepoch := s.fget GFE_Q_STATE_EPOCH queue,
    stream := req + (if write then 2 ^ 8 * (ss.next % 8) else 0), payload := payload }
  let p := p.seal
  match s.send p with
  | (false, s) => (some ⟨fRemote, nakUnreachable, 0⟩, s)
  | (true, s) =>
    let ss := if type == ptCloseWr then { ss with next := ss.next + 1, count := 0 }
      else if write then { ss with count := ss.count + 1 } else ss
    let s := if write then s.setSource ss else s
    (none, { s with fab := { s.fab with
      txn := (s.fab.txn + 1) % 2 ^ 32,
      outstanding := s.fab.outstanding ++ [
        { packet := p, owner := owner, resent := false, requester := req, busyAt := none, va := va,
          expires := expires }] } })

/-! ### Writes by engines and by the device -/

/-- A core's read cache without the line at `pa`. -/
def MemSys.uncache (m : MemSys) (c pa : Nat) : MemSys :=
  { m with cache := m.cache.filter (fun l => !(l.core == c && l.addr == pa / 64 * 64)) }

/-- The core whose strands read what a write brings, and whose cached copy of the line therefore goes: the writing core, or the core
that issued the engine instruction (R433, R438). -/
def State.readerCore (s : State) (r : MReq) (owner : Owner) : Option Nat :=
  match owner with
  | .eng id => ((s.engOps.find? (fun o => o.id == id)).map (·.core)).orElse (fun _ => if r.code < 0x80 then some r.code else none)
  | _ => if r.code < 0x80 then some r.code else none

/-- A write of several pieces on behalf of `owner`: local pieces are performed at their homes, and a core's cached copy of
the line goes (R433); remote ones are sent and
wait for their acknowledgements (R414, R438, R443). -/
def State.writePieces (s : State) (r : MReq) (n : Nat) (owner : Owner) (queue : Nat) (priv : Bool) :
    List (Nat × Nat) → List Byte → Option MFault × State
  | [], _ => (none, s)
  | (va, len) :: rest, bs =>
    match s.translate r n va true priv with
    | (.error f, s) => (some f, s)
    | (.ok ⟨some d, pa⟩, s) =>
      match s.request ptWr owner r.code n d pa len (bs.take len) 0 queue (some va) with
      | (some f, s) => (some f, s.recordFault r n va true f)
      | (none, s) => s.writePieces r n owner queue priv rest (bs.drop len)
    | (.ok ⟨none, pa⟩, s) =>
      match s.writeLine pa (bs.take len) with
      | (some f, s) => (some f, s.recordFault r n va true f)
      | (none, s) =>
        let s : State := match s.readerCore r owner with
          | some c => { s with ms := s.ms.uncache c pa }
          | none => s
        s.writePieces r n owner queue priv rest (bs.drop len)

/-- Bytes written from virtual address `va` of chamber `n`. -/
def State.writeVa (s : State) (r : MReq) (n : Nat) (owner : Owner) (queue va : Nat) (bs : List Byte) :
    Option MFault × State :=
  s.writePieces r n owner queue false (linesOf va bs.length) bs

/-- Whether a request on behalf of `o` still waits for its answer. -/
def State.awaits (s : State) (o : Owner) : Bool := s.fab.outstanding.any (fun x => x.owner == o)

/-! ### Remote reads by engines and by the device (R443) -/

/-- The lines in `l` asked of their devices; a line that no route reaches is answered by the fault (R590). -/
def State.askFor (s : State) (o : Owner) (queue : Nat) : List Wanted → Option (Wanted × MFault) × State
  | [] => (none, s)
  | w :: l =>
    match s.request ptRdReq o w.code w.chamber w.device w.addr w.len [] 0 queue (some w.va) with
    | (some f, s) => (some (w, f), s)
    | (none, s) => s.askFor o queue l

/-- `run` on behalf of `o`, which may read lines of other devices. While answers are awaited nothing happens; a run that meets lines
it does not have asks for them and leaves everything else as it was; `fail` is its end where no route is left (R443, R590). -/
def State.remotely (s : State) (o : Owner) (queue : Nat) (fail : MFault → State → State) (run : State → State) : State :=
  if s.fab.outstanding.any (fun x => x.owner == o && x.packet.type == ptRdReq) then s else
  let t := run { s with ms := { s.ms with asking := some o } }
  match t.ms.wanted with
  | [] => { t with ms := { t.ms with asking := none, fetched := t.ms.fetched.filter (fun e => e.1 != o) } }
  | l =>
    match s.askFor o queue l.eraseDups with
    | (none, s) => s
    | (some (w, f), s) => fail f (s.recordFault ⟨w.gallery, w.code⟩ w.chamber w.va false f)

/-- `run` on behalf of `o`, unless it meets a line of another device that is not at hand: then nothing happens. -/
def State.unlessRemote (s : State) (o : Owner) (run : State → State) : State :=
  let t := run { s with ms := { s.ms with asking := some o } }
  if t.ms.wanted.isEmpty then { t with ms := { t.ms with asking := none, fetched := t.ms.fetched.filter (fun e => e.1 != o) } } else s

/-- What remote reads brought for `o`, and the reads it still awaits, given up. -/
def State.forget (s : State) (o : Owner) : State :=
  { s with
    ms := { s.ms with fetched := s.ms.fetched.filter (fun e => e.1 != o) }
    fab := { s.fab with outstanding := s.fab.outstanding.filter (fun x => !(x.owner == o && x.packet.type == ptRdReq)) } }

/-- The answer to a remote read of `o` kept until `o` runs again. -/
def State.keepFetched (s : State) (x : Outstanding) (data : List Byte) : State :=
  let w : Wanted := { device := x.packet.dst, addr := x.packet.addr, len := x.packet.length, va := x.va.getD 0, gallery := 0,
                      code := x.requester, chamber := x.packet.chamber }
  { s with ms := { s.ms with fetched := s.ms.fetched ++ [(x.owner, w, data)] } }

end Sys2Proof.Machine
end

