-- ==== Sys2Proof/Machine/Batches.lean ====
section
/-! DEFINITION. Routing profiles, the bias loop and its windows, and the batches and epochs of the routing engines, as far as the end
of an instruction touches them (R312 to R321, R331, R342, R343). -/

namespace Sys2Proof.Machine

/-! ### Routing profiles (R312, R314) -/

/-- The routing profile record `p` of chamber `n`; empty where the survey holds none (R312). -/
def State.rprofile (s : State) (n p : Nat) : List Byte := smGet (fun _ => []) s.rte.profiles (32 * n + p)

def rpValid (b : List Byte) : Bool := bitOf (fieldAt b 0 1) 7
def rpMode (b : List Byte) : Nat := bitsOf (fieldAt b 0 1) 1 0
def rpScoreFn (b : List Byte) : Nat := bitsOf (fieldAt b 0 1) 3 2
def rpNorm (b : List Byte) : Bool := bitOf (fieldAt b 0 1) 4
def rpKmin (b : List Byte) : Nat := fieldAt b 1 1
def rpExperts (b : List Byte) : Nat := fieldAt b 2 2
def rpKmax (b : List Byte) : Nat := fieldAt b 4 1
def rpLogitFmt (b : List Byte) : Nat := fieldAt b 5 1
def rpRowFmt (b : List Byte) : Nat := fieldAt b 6 1
def rpRetFmt (b : List Byte) : Nat := fieldAt b 7 1
def rpThreshold (b : List Byte) : Val := f32At b 8
def rpCapacity (b : List Byte) : Nat := fieldAt b 0xC 4
def rpWeightScale (b : List Byte) : Val := f32At b 0x10
def rpFnSlot (b : List Byte) : Nat := fieldAt b 0x14 2
def rpHidden (b : List Byte) : Nat := fieldAt b 0x16 2
def rpBiasN (b : List Byte) : Nat := fieldAt b 0x18 2
def rpBiasGain (b : List Byte) : Val := fmtBf16.decode (fieldAt b 0x1A 2)
def rpBiasLimit (b : List Byte) : Val := fmtBf16.decode (fieldAt b 0x1C 2)
def rpLocalCount (b : List Byte) : Nat := fieldAt b 0x1E 2
def rpEmap (b : List Byte) : Nat := fieldAt b 0x20 8
def rpRxBase (b : List Byte) : Nat := fieldAt b 0x28 8
def rpRxRows (b : List Byte) : Nat := fieldAt b 0x30 4

/-- Bytes of a dispatched or returned row: HIDDEN elements of 2 bytes, rounded up to 64 (R330, R336). -/
def rpRowBytes (b : List Byte) : Nat := roundUp (2 * rpHidden b) 64

/-- Whether chamber `n` has the valid routing profile `p` (R313). -/
def State.rpOk (s : State) (n p : Nat) : Bool := p < 32 && rpValid (s.rprofile n p)

/-! ### Biases and windows (R318 to R321) -/

/-- The place of an expert of profile `p` of chamber `n` in the lists of biases and counts. -/
def biasKey (n p e : Nat) : Nat := 1024 * (32 * n + p) + e

/-- The bias of an expert, as bf16 (R318). -/
def State.biasOf (s : State) (n p e : Nat) : Nat := (smGet (fun _ => 0#32) s.rte.bias (biasKey n p e)).toNat

def State.setBias (s : State) (n p e v : Nat) : State :=
  { s with rte := { s.rte with bias := smPut (fun _ => 0#32) s.rte.bias (biasKey n p e) (BitVec.ofNat 32 v) } }

/-- A value clamped to ±BIAS_LIMIT, as bf16 (R319, R320). -/
def clampBias (b : List Byte) (code : Nat) : Nat :=
  let v := fmtBf16.decode code
  let lim := rpBiasLimit b
  if lim.lt v then fieldAt b 0x1C 2 else if v.lt lim.negate then fieldAt b 0x1C 2 + 0x8000 else code

/-- A loop that has counted nothing. -/
def BiasLoop.fresh : BiasLoop := ⟨0, 0, 0, 0, 0⟩

def State.loopOf (s : State) (n p : Nat) : BiasLoop := smGet (fun _ => BiasLoop.fresh) s.rte.loops (32 * n + p)

def State.setLoop (s : State) (n p : Nat) (L : BiasLoop) : State :=
  { s with rte := { s.rte with loops := smPut (fun _ => BiasLoop.fresh) s.rte.loops (32 * n + p) L } }

/-- The biases that a close of the window sets: RNE_bf16(bias_e + BIAS_GAIN × (c̄ − c_e) ÷ c̄), clamped (R320). -/
def State.moveBiases (s : State) (n p : Nat) (c : List Nat) : State :=
  let b := s.rprofile n p
  let mean : Rat := ((c.sum : Nat) : Rat) / (c.length : Rat)
  (List.range c.length).foldl (fun s e =>
    let old := fmtBf16.decode (s.biasOf n p e)
    let step := (rpBiasGain b).rat * (mean - ((c.getD e 0 : Nat) : Rat)) / mean
    s.setBias n p e (clampBias b (encode cBf16 false .rne (old.add (Val.ofRat step)).1).1)) s

/-- The window of profile `p` of chamber `n` closes: RTE_IMB shows its largest count, the loop moves every bias from the 64th
counted batch on, and the counts restart at 0 (R320, R348). -/
def State.closeWindow (s : State) (n p : Nat) : State :=
  let L := s.loopOf n p
  let c := (List.range (rpExperts (s.rprofile n p))).map (fun e => smGet (fun _ => 0) s.rte.load (biasKey n p e))
  let total := c.sum
  let top := (argMax (fun e => c.getD e 0) (List.range c.length)).getD 0
  let ratio := (((c.getD top 0 * 256 * c.length : Nat) : Rat) / (total : Rat)).floor.toNat
  let update := 64 ≤ L.counted && total != 0
  let L := { L with
    batches := 0, expert := if total = 0 then 0 else top, ratio := if total = 0 then 0 else saturate 0xFFFF ratio,
    updates := if update then saturate 0x7FFF (L.updates + 1) else L.updates }
  let s := (if update then s.moveBiases n p c else s).setLoop n p L
  { s with rte := { s.rte with load := smClear (fun k => k / 1024 == 32 * n + p) s.rte.load } }

/-- The counts of a batch that ended SERVED enter its window. A window that is full closes before the next batch counts, where
BIAS_WINDOW_CLOSE has not closed it (R320; log entry 119). -/
def State.countBatch (s : State) (b : Batch) : State :=
  let n := b.chamber
  let p := b.profile
  let s := if rpBiasN (s.rprofile n p) ≤ (s.loopOf n p).batches then s.closeWindow n p else s
  let L := s.loopOf n p
  let s := s.setLoop n p { L with batches := L.batches + 1, counted := L.counted + 1 }
  (b.sel.filter (fun a => !a.dropped)).foldl (fun s (a : Assign) =>
    let k := biasKey n p a.expert
    { s with rte := { s.rte with load := smPut (fun _ => 0) s.rte.load k (smGet (fun _ => 0) s.rte.load k + 1) } }) s

/-- The gallery whose RTE keeps the counts of chamber `n`: the lowest that has a live core (R321). -/
def State.keeper (s : State) (n : Nat) : Option Nat := (s.galleriesOf n).find? s.galleryLive

/-- The next keeper of chamber `n` starts a new window from zero counts; biases are kept (R345). -/
def State.restartWindows (s : State) (n : Nat) : State :=
  { s with rte := { s.rte with
    load := smClear (fun k => k / 1024 / 32 == n) s.rte.load
    loops := s.rte.loops.map (fun e => if e.1 / 32 == n then (e.1, { e.2 with batches := 0 }) else e) } }

/-! ### Batches and epochs (R331, R342, R343) -/

def State.batch (s : State) (g epoch : Nat) : Option Batch :=
  s.rte.batches.find? (fun b => b.gallery == g && b.epoch == epoch)

def State.setBatch (s : State) (b : Batch) : State :=
  { s with rte := { s.rte with batches := s.rte.batches.map (fun (x : Batch) =>
      if x.gallery == b.gallery && x.epoch == b.epoch then b else x) } }

/-- The assignment `(token, k)` of a batch changed by `f`. -/
def Batch.modSel (b : Batch) (token k : Nat) (f : Assign → Assign) : Batch :=
  { b with sel := b.sel.map (fun a => if a.token == token && a.k == k then f a else a) }

/-- The epoch of a batch is live no more; cancelled where its RT.RUN did not end SERVED (R342). -/
def State.closeEpoch (s : State) (g epoch : Nat) (cancelled : Bool) : State :=
  { s with rte := { s.rte with epochs := s.rte.epochs.map (fun (e : Epoch) =>
      if e.gallery == g && e.epoch == epoch && e.live then { e with live := false, cancelled := cancelled } else e) } }

/-- Whether a request is a row that a batch has not sent on: it waits for its half of the receive area (R333). -/
def Batch.unsent (b : Batch) (o : Owner) : Bool :=
  match o with
  | .row g e t k => g == b.gallery && e == b.epoch && b.sel.any (fun a => a.token == t && a.k == k && !a.sent)
  | _ => false

/-- The batch of instruction `op` is over: its epoch is live no more, and its rows that never left are forgotten; rows and markers
under way go on (R310, R342, R344). -/
def State.endBatch (s : State) (op : Nat) (cancelled : Bool) : State :=
  match s.rte.batches.find? (fun b => b.op == op) with
  | none => s
  | some b =>
    let s := s.closeEpoch b.gallery b.epoch cancelled
    { s with
      rte := { s.rte with batches := s.rte.batches.filter (fun x => x.op != op) }
      fab := { s.fab with outstanding := s.fab.outstanding.filter (fun x => !b.unsent x.owner) } }

/-- The next epoch of gallery `g`: from 1 after a reset, skipping 0 (R331). -/
def State.nextRteEpoch (s : State) (g : Nat) : Nat :=
  let e := (s.fget RTE_EPOCH_EPOCH g + 1) % 2 ^ 32
  if e = 0 then 1 else e

/-- Whether a request belongs to an epoch of gallery `g` that the gallery does not keep any more. -/
def lapsed (g : Nat) (kept : List Epoch) (o : Owner) : Bool :=
  let gone := fun (e : Nat) => !kept.any (fun x => x.epoch == e)
  match o with
  | .row h e _ _ => h == g && gone e
  | .mark h e _ => h == g && gone e
  | _ => false

/-- An epoch taken: it is live, and the gallery keeps its live epochs and its last 4,096 (R331, R342, R343). -/
def State.takeEpoch (s : State) (g epoch : Nat) : State :=
  let mine := s.rte.epochs.filter (fun e => e.gallery == g)
  let rest := s.rte.epochs.filter (fun e => e.gallery != g)
  let old := mine.length - 4095
  let kept := (mine.take old).filter (·.live) ++ mine.drop old ++
    [({ gallery := g, epoch := epoch, live := true, cancelled := false } : Epoch)]
  let s : State := { s with
    rte := { s.rte with epochs := rest ++ kept }
    fab := { s.fab with outstanding := s.fab.outstanding.filter (fun x => !lapsed g kept x.owner) } }
  s.fset RTE_EPOCH_EPOCH epoch g

/-- A return or notice for an epoch that is not live goes to the sump (R343). -/
def State.sump (s : State) (g epoch bytes : Nat) : State :=
  let mine := s.rte.epochs.filter (fun e => e.gallery == g)
  let last := mine.drop (mine.length - 4096)
  let s := s.bump64 RTE_SUMP_BYTES_LO_COUNT RTE_SUMP_BYTES_HI_COUNT bytes g
  if last.any (fun e => e.epoch == epoch && e.cancelled) then s.bump RTE_SUMP_SWALLOWED_COUNT 1 g
  else s.bump RTE_SUMP_STRAY_COUNT 1 g

/-- Whether an epoch of gallery `g` is live (R342). -/
def State.epochLive (s : State) (g epoch : Nat) : Bool :=
  s.rte.epochs.any (fun e => e.gallery == g && e.epoch == epoch && e.live)

end Sys2Proof.Machine
end

