-- ==== Sys2Proof/Machine/TraceFifo.lean ====
section
/-! DEFINITION. Trace records and the FIFO of a core: what is written, what is lost, and the firing of a trigger (R680 to R687). -/

namespace Sys2Proof.Machine

/-! ### Records (R680, R681) -/

def trPcSample : Nat := 1
def trItemBind : Nat := 2
def trItemEnd : Nat := 3
def trEngineEnd : Nat := 4
def trSwMark : Nat := 5
def trTrigger : Nat := 6
def trDrop : Nat := 7

/-- A trace record; unused DATA bytes are 0 (R680, R681). -/
def traceBytes (time type core strand : Nat) (data : List Byte) : List Byte :=
  leBytes 8 time ++ leBytes 1 type ++ leBytes 1 core ++ leBytes 2 strand ++ slice data 0 20

def recType (r : List Byte) : Nat := fieldAt r 8 1
def recTime (r : List Byte) : Nat := fieldAt r 0 8

/-! ### The FIFO (R684) -/

def Fifo.empty : Fifo := { recs := [], dropOpen := false, later := none }

def State.fifo (s : State) (c : Nat) : Fifo := smGet (fun _ => Fifo.empty) s.tru.fifos c

/-- The FIFO of core `c` replaced; its fill shows in TRU_STATUS (R694). -/
def State.setFifo (s : State) (c : Nat) (f : Fifo) : State :=
  let s : State := { s with tru := { s.tru with fifos := smPut (fun _ => Fifo.empty) s.tru.fifos c f } }
  let s := s.fset TRU_STATUS_FIFO_MAX (max (s.fget TRU_STATUS_FIFO_MAX) f.recs.length)
  s.fset TRU_STATUS_BUSY (b2n (s.tru.fifos.any (fun e => !e.2.recs.isEmpty)))

/-- Entries that neither reserve takes. -/
def Fifo.plain (f : Fifo) : Nat := (f.recs.filter (fun r => recType r != trTrigger && recType r != trDrop)).length

def dropBytes (core count first last : Nat) : List Byte :=
  traceBytes first trDrop core 0xFFFF (leBytes 4 count ++ leBytes 8 last)

/-- A loss: it opens the DROP entry, adds to the open one, or waits until a closed one has drained (R684). -/
def Fifo.lose (f : Fifo) (core time : Nat) : Fifo :=
  match f.recs.find? (fun r => recType r == trDrop) with
  | none => { f with recs := f.recs ++ [dropBytes core 1 time time], dropOpen := true }
  | some d =>
    if f.dropOpen then
      { f with recs := f.recs.map (fun r => if recType r == trDrop then
          dropBytes core (fieldAt d 0xC 4 + 1) (recTime d) time else r) }
    else
      match f.later with
      | none => { f with later := some (1, time, time) }
      | some (k, a, _) => { f with later := some (k + 1, a, time) }

/-- A record enters the FIFO, or is lost where 1,022 entries are full; a TRIGGER record always has its entry (R684). -/
def Fifo.push (f : Fifo) (core : Nat) (r : List Byte) : Fifo :=
  if recType r = trTrigger then { f with recs := f.recs ++ [r], dropOpen := false }
  else if f.plain < 1022 then { f with recs := f.recs ++ [r] }
  else f.lose core (recTime r)

/-- The oldest record taken out; losses that waited open a new DROP record once the first has drained (R684). -/
def Fifo.pop (f : Fifo) : Option (List Byte) × Fifo :=
  match f.recs with
  | [] => (none, f)
  | r :: rest =>
    if recType r ≠ trDrop then (some r, { f with recs := rest }) else
    match f.later with
    | none => (some r, { f with recs := rest, dropOpen := false })
    | some (k, a, b) =>
      (some r, { f with recs := rest ++ [dropBytes (fieldAt r 9 1) k a b], dropOpen := true, later := none })

/-! ### Writing records (R681, R687) -/

/-- The chamber whose trace a core writes. -/
def State.traceChamber (s : State) (c : Nat) : Option Nat :=
  match s.chamberOf (c / 8) with
  | some n => if s.fget TRU_CTRL_ENABLE n == 1 && s.fget TRU_STATE_STATE n != 5 then some n else none
  | none => none

/-- A record of a type 1 to 5 written by core `c`, when the chamber traces that type (R681). -/
def State.trace (s : State) (c strand type : Nat) (data : List Byte) : State :=
  match s.traceChamber c with
  | none => s
  | some n =>
    if !bitOf (s.fget TRU_CTRL_EVENTS n) (type - 1) then s else
    s.setFifo c ((s.fifo c).push c (traceBytes s.tb type c strand data))

/-- A trigger of chamber `n` fired by core `c`: the first since ENABLE or RESTART counts; every later one is ignored and
counted (R687). -/
def State.trigger (s : State) (n c strand source : Nat) (item : List Byte) : State :=
  if s.fget TRU_CTRL_ENABLE n == 0 || s.fget TRU_STATE_STATE n == 5 then s
  else if s.fget TRU_STATE_TRIG_VALID n == 1 then s.bump TRU_TRIG_IGNORED_COUNT 1 n
  else
    let r := traceBytes s.tb trTrigger c strand (leBytes 1 source ++ item)
    let s := s.setFifo c ((s.fifo c).push c r)
    let s := (s.fset TRU_STATE_TRIG_VALID 1 n).fset TRU_STATE_TRIG_CORE c n
    let s := s.fset TRU_STATE_STATE 2 n
    { s with tru := { s.tru with fired := s.tru.fired ++ [(n, c, r)] } }

/-- An item of queue `q`, sequence `seq`, bound to a strand (R681). -/
def State.traceBind (s : State) (c t q seq tag : Nat) : State :=
  s.trace c t trItemBind (leBytes 2 q ++ leBytes 4 seq ++ leBytes 4 tag)

/-- The end of an item, and the triggers of FAULT and LATE (R681, R694). -/
def State.traceEnd (s : State) (c strand q seq code cause : Nat) : State :=
  let s := s.trace c strand trItemEnd (leBytes 2 q ++ leBytes 4 seq ++ leBytes 1 code ++ leBytes 1 cause)
  match s.traceChamber c with
  | none => s
  | some n =>
    let item := leBytes 2 q ++ leBytes 4 seq ++ leBytes 1 code
    if s.fget TRU_TRIG_FAULT n == 1 && 0x30 ≤ code && code ≤ 0x39 then s.trigger n c strand 1 item
    else if s.fget TRU_TRIG_LATE n == 1 && code == 0x01 then s.trigger n c strand 2 item
    else s

/-- The end of an engine instruction; its length in cycles is open (R681). -/
def State.traceEngine (s : State) (c t engine opcode code : Nat) : State :=
  match s.traceChamber c with
  | none => s
  | some _ =>
    let (cycles, s) := s.draw (2 ^ 32)
    s.trace c t trEngineEnd (leBytes 1 engine ++ leBytes 1 opcode ++ leBytes 1 code ++ leBytes 4 cycles)

end Sys2Proof.Machine
end

