-- ==== Sys2Proof/Machine/Items.lean ====
section
/-! DEFINITION. How a work item ends: normal ends, faults and aborts, the completion record, accounting, and the ends of
graph nodes (R221, R515 to R538, R566 to R570). -/

namespace Sys2Proof.Machine

/-! ### Status codes (R519) -/

def cServed : Nat := 0x00
def cServedLate : Nat := 0x01
def cQueueFull : Nat := 0x10
def cKvCapacity : Nat := 0x11
def cKvMidstream : Nat := 0x12
def cDeadline : Nat := 0x13
def cChamberQuota : Nat := 0x14
def cPreemptLimit : Nat := 0x15
def cUnavailable : Nat := 0x16
def cAborted : Nat := 0x20
def cTimeout : Nat := 0x21
def cCancelled : Nat := 0x22
def cCodedBlock : Nat := 0x34
def cProgram : Nat := 0x35
def cDupMismatch : Nat := 0x36
def cUnitRetired : Nat := 0x37
def cKvCache : Nat := 0x38
def cExchange : Nat := 0x39
def cFormat : Nat := 0x40

/-! ### Who runs an item -/

/-- The core and strand that an item holds, if any. -/
def Item.strandOf (i : Item) : Option (Nat × Nat) :=
  match i.phase with
  | .bound c t => some (c, t)
  | .suspended c t _ => some (c, t)
  | _ => none

/-- The gallery whose unit runs an item (R566). -/
def Item.galleryOf (i : Item) : Option Nat :=
  match i.phase with
  | .bound c _ => some (c / 8)
  | .taken c _ => some (c / 8)
  | .mover g _ => some g
  | .lsq g _ => some g
  | .suspended c _ _ => some (c / 8)
  | _ => none

/-! ### What a release waits for (R425, R432, R439, R444) -/

def OpKind.reads : OpKind → Bool
  | .load => true
  | .amo _ => true
  | _ => false

def OpKind.writes : OpKind → Bool
  | .store => true
  | .amo _ => true
  | _ => false

/-- Whether something that a release by a strand must follow is not yet performed: its accesses with ids below `mark`, or a write that
it observed by one of them. A remote write is performed once its target has applied it, so a release at any scope waits for its
acknowledgement (R413, R424, R425; log entry 27). -/
def MemSys.owes (m : MemSys) (c t mark : Nat) : Bool :=
  m.ops.any (fun p => p.core == c && p.strand == t && p.id < mark) ||
  m.observed.any (fun e => e.core == c && e.strand == t && e.access < mark)

/-- Whether anything of the item is still under way: accesses, engine instructions, remote requests, a copy on its mover,
running nodes; and what its record, a release by the strand that ended it, must follow, the strand's engine instructions with it
(R425, R439, R514, R530). -/
def State.busyItem (s : State) (i : Item) : Bool :=
  (match i.ender with
   | some (c, t, mark) => s.ms.owes c t mark || s.engOps.any (fun o => o.core == c && o.strand == t && o.id < mark)
   | none => false) ||
  s.ms.ops.any (fun o => o.item == i.key) || s.engOps.any (fun o => o.item == i.key) ||
  s.awaits (.copy i.key) ||
  (match i.phase with
   | .mover _ _ => !i.unitDone
   | .gfe => s.items.any (fun j => j.key.queue == i.key.queue && j.key.seq == i.key.seq && j.key.node.isSome)
   | _ => false)

/-! ### Accounting (R566 to R570) -/

/-- An item's service time normalised to nominal rate, in ns; the rest of an unfinished window counts at the latest
RATIO (R566). -/
def State.serviceNs (s : State) (i : Item) : Nat :=
  match i.galleryOf with
  | none => 0
  | some g => (i.ratioSum + s.fget PWR_RATE_G_RATIO g * (s.now - i.ratioAt)) / 2048

/-- The accounting of a record with code `code` (R568 to R570, R582). The wait of an item that ends before it was ever bound is the
model's choice: it counts 0 (R52; log entry 107). -/
def State.account (s : State) (i : Item) (code : Nat) : State :=
  let q := i.key.queue
  let s := s.bump64 GFE_QA_WAIT_LO_NS GFE_QA_WAIT_HI_NS i.waitNs q
  let s := s.bump64 GFE_QA_PREEMPT_LO_COUNT GFE_QA_PREEMPT_HI_COUNT i.preempts q
  let s := if code == cServedLate then s.bump GFE_QA_LATE_COUNT 1 q else s
  let s := if cQueueFull ≤ code ∧ code ≤ cUnavailable then s.bump GFE_QA_REFUSED_COUNT 1 q else s
  if code != cServed && code != cServedLate then s else
  match i.galleryOf with
  | none => s
  | some _ =>
    let x := s.serviceNs i
    let s := s.bump64 GFE_QA_SERVICE_LO_NS GFE_QA_SERVICE_HI_NS x q
    let Q := s.queue q
    let mean := if Q.counted == 0 then 256 * x else Q.meanNs - Q.meanNs / 16 + 16 * x
    let Q := { Q with
      meanNs := mean, counted := Q.counted + 1,
      soloSum := Q.soloSum + (if i.solo then x else 0), soloItems := Q.soloItems + b2n i.solo }
    let s := s.setQueue q Q
    let s := s.fset GFE_QA_SOLO_TIME_US (saturate 0xFFFF_FFFF (Q.soloSum / 1000)) q
    if Q.soloSum < 1_000_000 ∨ Q.soloItems = 0 then s else
    let solo := Q.soloSum / Q.soloItems
    let s := s.fset GFE_QA_SOLO_NS solo q
    let s := s.fset GFE_QA_SLOW_BASELINE 1 q
    s.fset GFE_QA_SLOW_RATIO (if solo = 0 then 0xFFFF else saturate 0xFFFF (Q.meanNs / solo)) q

/-! ### The completion record (R518) -/

/-- The 32 bytes of a completion record (R518). -/
def recordBytes (seq code cause rflags tag detail tdone wait preempts epoch : Nat) : List Byte :=
  leBytes 4 seq ++ leBytes 1 code ++ leBytes 1 cause ++ leBytes 2 rflags ++ leBytes 4 tag ++ leBytes 4 detail ++
  leBytes 8 tdone ++ leBytes 4 wait ++ leBytes 2 preempts ++ leBytes 2 epoch

/-- The end of an item as its record reports it: SERVED becomes SERVED_LATE after the deadline, with the delay as DETAIL
(R520). -/
def Item.lateness (i : Item) (code detail tdone : Nat) : Nat × Nat :=
  if code == cServed && bitOf i.iflags 0 && i.deadline < tdone then
    (cServedLate, saturate 0xFFFF_FFFF (tdone - i.deadline))
  else (code, detail)

/-- RFLAGS: SAMPLED, GRAPH, TASK (R518). -/
def Item.rflags (i : Item) : Nat :=
  b2n i.sampled + 2 * b2n (i.kind == kindGraph) +
  4 * b2n (match i.phase with | .taken _ _ => true | _ => false)

/-- The core and strand under which trace records show an item: its own, or the lowest live core of its gallery or chamber
with no strand (R680). -/
def State.traceHome (s : State) (i : Item) : Nat × Nat :=
  match i.phase with
  | .bound c t => (c, t)
  | .suspended c t _ => (c, t)
  | .taken c t => (c, t)
  | .mover g _ => ((s.liveCores g).headD (8 * g), 0xFFFF)
  | .lsq g _ => ((s.liveCores g).headD (8 * g), 0xFFFF)
  | _ => ((s.coresOf (s.queueChamber i.key.queue)).headD 0, 0xFFFF)

/-- The ITEM_END record of an item, with the triggers it may fire (R681, R687). -/
def State.traceItem (s : State) (i : Item) (code cause : Nat) : State :=
  let (c, t) := s.traceHome i
  s.traceEnd c t i.key.queue i.key.seq code cause

/-- The record of item `i` written at its ring entry; DONE then advances. A write that meets a fault is not made, DONE
stays and the queue takes CFAULT; a queue with CFAULT writes no record, nor does a device that has tripped (R518, R668). -/
def State.writeRecord (s : State) (i : Item) (code cause detail : Nat) : State :=
  if s.pwr.halted then s else
  let q := i.key.queue
  let n := s.queueChamber q
  let Q := s.queue q
  let (code, detail) := i.lateness code detail s.tb
  let s := s.traceItem i code cause
  let s := if code != cServed && code != cServedLate then
      s.wset GFE_Q_FAULT_LAST (code * 2 ^ 24 + cause % 256 * 2 ^ 16 + i.key.seq % 2 ^ 16) q
    else s
  let s := s.account i code
  if s.fget GFE_Q_STATE_CFAULT q == 1 then s else
  let done := s.pair GFE_Q_DONE_LO_COUNT GFE_Q_DONE_HI_COUNT q
  let va := Q.cring + 32 * (done % 2 ^ Q.logSize)
  let rec_ := recordBytes i.key.seq code cause i.rflags i.tag detail s.tb i.waitNs i.preempts i.epoch
  match s.writeVa (s.reqGfe n) n (.copy i.key) q va rec_ with
  | (some _, s) => s.fset GFE_Q_STATE_CFAULT 1 q
  | (none, s) => s.bump64 GFE_Q_DONE_LO_COUNT GFE_Q_DONE_HI_COUNT 1 q

/-! ### The end of an item -/

/-- What an item held is given back: its strand becomes FREE; a task that held it keeps its strand (R516). -/
def State.releaseUnit (s : State) (i : Item) : State :=
  match i.phase with
  | .bound c t => s.setStrand c t Strand.fresh
  | .suspended c t _ => s.setStrand c t Strand.fresh
  | .taken c t =>
    let x := s.strand c t
    if x.taken = some i.key then s.setStrand c t { x with taken := none } else s
  | _ => s

/-- The graph node that failed first, by time and then by index (R530): index, code, cause, time. -/
def firstFailure (l : List (Nat × Nat × Nat × Nat)) : Option (Nat × Nat × Nat × Nat) :=
  argMin (fun e => e.2.2.2 * 4096 + e.1) (l.filter (fun e => e.2.1 != cServed && e.2.1 != cServedLate))

/-! ### Engine instructions that end (R234, R267, R308, R348) -/

/-- An MX.RUN that ends: counted, and its code kept when it is not SERVED (R234). -/
def State.mxEnded (s : State) (c t code : Nat) : State :=
  let s := s.bump MXE_RUNS_COUNT 1 c
  if code = 0 then s else (s.fset MXE_FAULT_LAST_CODE code c).fset MXE_FAULT_LAST_STRAND t c

/-- A VXE instruction that ends: counted, and its code kept when it is not SERVED (R267). -/
def State.vxEnded (s : State) (c t code : Nat) : State :=
  let s := s.bump VXE_INSTR_COUNT 1 c
  if code = 0 then s else (s.fset VXE_FAULT_LAST_CODE code c).fset VXE_FAULT_LAST_STRAND t c

/-- An ATU instruction that ends: counted, and its code kept when it is not SERVED (R308). -/
def State.atEnded (s : State) (c t code cause : Nat) : State :=
  let s := s.bump ATU_RUNS_COUNT 1 c
  if code = 0 then s else
  let s := s.fset ATU_FAULT_LAST_CODE code c
  let s := s.fset ATU_FAULT_LAST_CAUSE (if code = cKvCache then cause else 0) c
  s.fset ATU_FAULT_LAST_STRAND t c

/-- An RTE or XCE instruction of gallery `g` that ended otherwise than SERVED is recorded (R348). -/
def State.rteFault (s : State) (g t code cause : Nat) : State :=
  let s := s.fset RTE_FAULT_LAST_CODE code g
  let s := s.fset RTE_FAULT_LAST_CAUSE (if code = cExchange then cause else 0) g
  s.fset RTE_FAULT_LAST_STRAND t g

/-- An RT.RUN that ends: counted, and its code kept when it is not SERVED (R348). -/
def State.rtEnded (s : State) (g t code cause : Nat) : State :=
  let s := s.bump RTE_BATCHES_COUNT 1 g
  if code = cServed then s else s.rteFault g t code cause

/-- An engine instruction that ends with `code`, in the registers of its engine; a sampled one that ends before its compare ends
unchecked (R234); a batch that ends SERVED is counted in its window, and its epoch closes (R320, R342). -/
def State.opEnded (s : State) (o : EngOp) (code cause : Nat) : State :=
  match o.eng with
  | .mxe =>
    let unchecked := o.checker.isSome && code != cServed && code != cDupMismatch
    (if unchecked then s.bump MXE_DUP_SKIPPED_COUNT 1 o.core else s).mxEnded o.core o.strand code
  | .vxe => s.vxEnded o.core o.strand code
  | .sfu => s.vxEnded o.core o.strand code
  | .atu => s.atEnded o.core o.strand code cause
  | .rte =>
    let s := match s.rte.batches.find? (fun b => b.op == o.id) with
      | some b => if code = cServed then s.countBatch b else s
      | none => s
    (s.rtEnded (o.core / 8) o.strand code cause).endBatch o.id (code != cServed)
  | .xce => if code = cServed then s else s.rteFault (o.core / 8) o.strand code cause

/-- An instruction that is over; what remote reads had brought it goes with it. -/
def State.dropEng (s : State) (id : Nat) : State :=
  { s with engOps := s.engOps.filter (fun o => o.id != id)
           ms := { s.ms with fetched := s.ms.fetched.filter (fun e => e.1 != .eng id) } }

/-- The code with which an item's instructions end when they are stopped with it. -/
def State.endCode (s : State) (k : ItemKey) : Nat :=
  match s.item k with
  | some i => match i.ending with
    | some (code, _) => if code = cServed then cAborted else code
    | none => cAborted
  | none => cAborted

/-- An item that has ended and has nothing under way: its unit is freed, its references are released, and its record is
written. A node of a graph writes none, and its end is noted with its launch (R518, R529). -/
def State.finish (s : State) (i : Item) : State :=
  let (code, cause) := i.ending.getD (cServed, 0)
  match i.key.node with
  | some k =>
    let s := ((s.traceItem i code cause).releaseUnit i).dropItem i.key
    s.modItem { i.key with node := none } (fun p => { p with ended := p.ended ++ [(k, code, cause, s.tb)] })
  | none =>
    let (code, cause, detail) :=
      if i.kind == kindGraph && code == cServed then
        match firstFailure i.ended with
        | some (k, c, u, _) => (c, u, k)
        | none => (code, cause, 0)
      else (code, cause, 0)
    ((s.writeRecord i code cause detail).releaseUnit i).dropItem i.key

/-- Whether every node of a launch has ended, or one has failed and no node runs (R530). -/
def launchOver (nodes : Nat) (i : Item) : Bool :=
  (firstFailure i.ended).isSome || i.ended.length == nodes

/-- The graph with id `g` of chamber `n`. -/
def State.graph (s : State) (n g : Nat) : Option Graph := (s.graphs.find? (fun e => e.1 == 64 * n + g)).map (·.2)

/-- An item that has ended and has nothing under way any more is finished (R534). -/
def State.settle (s : State) (k : ItemKey) : State :=
  match s.item k with
  | none => s
  | some i =>
    if i.ending.isSome && !s.busyItem i then
      let s := s.finish i
      match k.node with
      | none => s
      | some _ =>
        match s.item { k with node := none } with
        | none => s
        | some p =>
          let nodes := match s.graph (s.queueChamber k.queue) (fieldAt p.line 0x10 1) with
            | some g => g.nodes.length
            | none => 0
          if !s.busyItem p && (p.ending.isSome || launchOver nodes p) then
            s.finish { p with ending := some (p.ending.getD (cServed, 0)) }
          else s
    else s

/-- Every item that has ended is settled. -/
def State.settleAll (s : State) : State := (s.items.map (·.key)).foldl State.settle s

/-- A strand that issues nothing further: it waits for its item's accesses (R221). -/
def State.stopStrand (s : State) (c t : Nat) : State :=
  let x := s.strand c t
  if x.mode == .free then s else s.setStrand c t { x with mode := .waiting, wait := .ending, ir := none }

/-- The end `code` and `cause` noted for an item, unless it has reached an end already (R525); a fault replaces a normal
end whose record is not written (R725). -/
def State.noteEnd (s : State) (k : ItemKey) (code cause : Nat) : State :=
  match s.item k with
  | none => s
  | some i =>
    let take := match i.ending with
      | none => true
      | some (c, _) => c == cServed && code != cServed
    let by_ := match i.phase with
      | .bound c t => some (c, t, s.ms.nextId)
      | .taken c t => some (c, t, s.ms.nextId)
      | _ => none
    let s := if take then s.modItem k (fun j => { j with ending := some (code, cause), ender := j.ender.orElse (fun _ => by_) })
      else s
    match i.strandOf with
    | some (c, t) => s.stopStrand c t
    | none => s

/-- An item ends with `code` and `cause`; its record follows once everything of it is performed (R221, R439). -/
def State.endItem (s : State) (k : ItemKey) (code cause : Nat) : State := (s.noteEnd k code cause).settle k

/-- The item of a strand ends with a fault; a task's taken item ends with it (R221, R517). -/
def State.failStrand (s : State) (c t code cause : Nat) : State :=
  let x := s.strand c t
  let s := match x.taken with
    | some k => s.endItem k code cause
    | none => s
  match x.item with
  | some k => s.endItem k code cause
  | none => s

/-- The item of a strand ends with a memory fault. -/
def State.failMem (s : State) (c t : Nat) (f : MFault) : State := s.failStrand c t f.code f.cause

/-! ### Aborts (R523, R524, R534) -/

/-- An item aborted alone with `code`: one that is not yet bound or dispatched, or is suspended, ends at once; the engines
that hold the others stop at their next boundary and acknowledge; a task that held it runs on (R523, R534, R538,
R579). -/
def State.abortOne (s : State) (k : ItemKey) (code : Nat) : State :=
  match s.item k with
  | none => s
  | some i =>
    if i.ending.isSome then s else
    match i.phase with
    | .taken c t =>
      let s := s.setStrand c t { s.strand c t with dropped := true }
      s.endItem k code 0
    | .bound c t =>
      let s := match (s.strand c t).taken with
        | some m => s.endItem m code 0
        | none => s
      let s := { s with engOps := s.engOps.map (fun (o : EngOp) => if o.item == k then { o with aborted := true } else o) }
      (s.bump LSQ_ABORTS_COUNT 1 (i.galleryOf.getD 0)).endItem k code 0
    | _ => s.endItem k code 0

/-- An item aborted with `code`, and with a GRAPH item every running node of its launch (R524). -/
def State.abortItem (s : State) (k : ItemKey) (code : Nat) : State :=
  let nodes := s.items.filter (fun j => j.key.queue == k.queue && j.key.seq == k.seq && j.key.node.isSome)
  let s := s.noteEnd k code 0 |> fun t => match s.item k with
    | some i => if i.kind == kindGraph then t else s
    | none => s
  let s := if k.node.isNone then nodes.foldl (fun s j => s.abortOne j.key code) s else s
  s.abortOne k code |>.settle k

end Sys2Proof.Machine
end

