-- ==== Sys2Proof/Machine/Cvu.lean ====
section
/-! DEFINITION. Check-value units: the check value over a byte range, the five modes of a run, and how a run stops early (R634
to R636, R640, R644). -/

namespace Sys2Proof.Machine

/-! ### The check value (R634) -/

/-- One bit of a message taken into the register. -/
def cvuBit (w poly reg : Nat) (b : Bool) : Nat :=
  let top := (bitOf reg (w - 1)) != b
  let reg := reg * 2 % 2 ^ w
  if top then reg ^^^ (poly % 2 ^ w) else reg

/-- One byte taken into the register, most significant bit first, or least first with REFIN. -/
def cvuByte (w poly : Nat) (refin : Bool) (reg : Nat) (b : Byte) : Nat :=
  (List.range 8).foldl (fun r i => cvuBit w poly r (bitOf b.toNat (if refin then i else 7 - i))) reg

/-- The lowest `w` bits of `x`, reversed. -/
def revBits (w x : Nat) : Nat := maskOf ((maskBits w x).map (fun i => w - 1 - i))

/-- The check value of a byte range. -/
def CvuCfg.value (c : CvuCfg) (bs : List Byte) : Nat :=
  let r := bs.foldl (cvuByte c.width c.poly c.refin) (c.init % 2 ^ c.width)
  let r := if c.refout then revBits c.width r else r
  if c.finalInv then r ^^^ (2 ^ c.width - 1) else r

/-! ### A run (R635, R636) -/

def State.cvuCfg (s : State) (g u : Nat) : CvuCfg :=
  { mode := s.fget CVU_CFG_MODE g u, chunkLog2 := s.fget CVU_CFG_CHUNK_LOG2 g u,
    finalInv := s.fget CVU_CFG_FINAL_INV g u == 1, refout := s.fget CVU_CFG_REFOUT g u == 1,
    refin := s.fget CVU_CFG_REFIN g u == 1, width := s.fget CVU_CFG_WIDTH g u,
    poly := s.pair CVU_POLY_LO_POLY CVU_POLY_HI_POLY g u, init := s.pair CVU_INIT_LO_INIT CVU_INIT_HI_INIT g u }

def State.cvuAddr (s : State) (g u : Nat) : Nat := s.fget CVU_ADDR_LO_ADDR g u * 64 + 2 ^ 32 * s.fget CVU_ADDR_HI_ADDR g u
def State.cvuTable (s : State) (g u : Nat) : Nat := s.fget CVU_TABLE_LO_ADDR g u * 64 + 2 ^ 32 * s.fget CVU_TABLE_HI_ADDR g u
def State.cvuLen (s : State) (g u : Nat) : Nat := s.fget CVU_LEN_LO_LEN g u + 2 ^ 32 * s.fget CVU_LEN_HI_LEN g u

/-- A mode with a table (R635). -/
def CvuCfg.table (c : CvuCfg) : Bool := c.mode == 3 || c.mode == 4

/-- CVU_STATUS set. -/
def State.cvuStatus (s : State) (g u state result fault cause : Nat) : State :=
  s.wset CVU_STATUS (state * 2 ^ 28 + result * 2 ^ 16 + fault * 2 ^ 8 + cause) g u

/-- No run. -/
def CvuRun.none : CvuRun := ⟨⟨0, 0, false, false, false, 0, 0, 0⟩, 0, 0, 0⟩

/-- The run of CVU `u` of gallery `g`, as its GO took it. -/
def State.cvuRunOf (s : State) (g u : Nat) : CvuRun := smGet (fun _ => CvuRun.none) s.cvus (2 * g + u)

def State.setCvuRun (s : State) (g u : Nat) (x : CvuRun) : State :=
  { s with cvus := smPut (fun _ => CvuRun.none) s.cvus (2 * g + u) x }

/-- CVU_RESULT set. -/
def State.cvuResult (s : State) (g u v : Nat) : State := s.pairSet CVU_RESULT_LO_VALUE CVU_RESULT_HI_VALUE v g u

/-- A mismatch of chunk `k` counted (R635, R644). -/
def State.cvuMismatch (s : State) (g u k : Nat) : State :=
  let s := if s.fget CVU_MISMATCH_COUNT g u = 0 then s.fset CVU_FIRST_BAD_CHUNK k g u else s
  s.bump CVU_MISMATCH_COUNT 1 g u

/-- The range digested chunk by chunk from chunk `k`, each against or into its table entry, `left` bytes being left and no
line past `limit` bytes being read (R635). -/
def State.cvuChunks (s : State) (g u n : Nat) (c : CvuCfg) : Nat → Nat → Nat → Nat → Option MFault × State
  | 0, _, _, _ => (none, s)
  | fuel + 1, k, left, limit =>
    if left = 0 then (none, s) else
    let size := min left (2 ^ c.chunkLog2)
    if limit < size then (none, s.bump64 CVU_BYTES_LO_COUNT CVU_BYTES_HI_COUNT limit g u) else
    match s.readVa (reqCdc g) n ((s.cvuRunOf g u).addr + k * 2 ^ c.chunkLog2) size with
    | (.error f, s) => (some f, s)
    | (.ok bs, s) =>
      let v := c.value bs
      let s := (s.bump64 CVU_BYTES_LO_COUNT CVU_BYTES_HI_COUNT size g u).cvuResult g u v
      let entry := (s.cvuRunOf g u).table + 8 * k
      if c.mode = 4 then
        match s.writeVa (reqCdc g) n (.cvu g u) 0xFFFF entry (leBytes 8 v) with
        | (some f, s) => (some f, s)
        | (none, s) => s.cvuChunks g u n c fuel (k + 1) (left - size) (limit - size)
      else
        match s.readVa (reqCdc g) n entry 8 with
        | (.error f, s) => (some f, s)
        | (.ok e, s) =>
          let s := if leVal e = v then s else s.cvuMismatch g u k
          s.cvuChunks g u n c fuel (k + 1) (left - size) (limit - size)

/-- A run over its range, of which no more than `limit` bytes are read; the trailer line is read or written once the range is
digested. CVU_FIRST_BAD after a CHECK_STRIP mismatch, which has no chunk, is free (R635, R636; log entry 13). -/
def State.cvuRun (s : State) (g u n limit : Nat) : Option MFault × State :=
  let c := (s.cvuRunOf g u).cfg
  let len := (s.cvuRunOf g u).len
  if c.table then s.cvuChunks g u n c (len / 2 ^ c.chunkLog2 + 1) 0 len limit else
  if limit < len then (none, s.bump64 CVU_BYTES_LO_COUNT CVU_BYTES_HI_COUNT limit g u) else
  match s.readVa (reqCdc g) n ((s.cvuRunOf g u).addr) len with
  | (.error f, s) => (some f, s)
  | (.ok bs, s) =>
    let v := c.value bs
    let s := (s.bump64 CVU_BYTES_LO_COUNT CVU_BYTES_HI_COUNT len g u).cvuResult g u v
    let trailer := (s.cvuRunOf g u).addr + (len + 63) / 64 * 64
    if c.mode = 1 then s.writeVa (reqCdc g) n (.cvu g u) 0xFFFF trailer (leBytes 64 v)
    else if c.mode = 2 then
      match s.readVa (reqCdc g) n trailer 8 with
      | (.error f, s) => (some f, s)
      | (.ok e, s) =>
        if leVal e = v then (none, s) else
        let (k, s) := s.draw (2 ^ 32)
        (none, s.cvuMismatch g u k)
    else (none, s)

/-- A run that stops before its end: it has digested an open number of bytes; of a range on another device whose lines it does not
have, none (R640, R644). -/
def State.cvuStop (s : State) (g u result fault : Nat) : State :=
  if s.fget CVU_STATUS_STATE g u ≠ 1 then s else
  let (k, s) := s.draw ((s.cvuRunOf g u).len / 64 + 1)
  let s := match s.chamberOf g with
    | some n => (s.unlessRemote (.cvu g u) (fun s => (s.cvuRun g u n (64 * k)).2)).forget (.cvu g u)
    | none => s
  s.cvuStatus g u 3 result fault 0

/-- The runs of gallery `g` stop: FAULT or RESULT say why (R640). -/
def State.stopCvus (s : State) (g result fault : Nat) : State := (s.cvuStop g 0 result fault).cvuStop g 1 result fault

end Sys2Proof.Machine
end

