-- ==== Sys2Proof/Machine/HealthBase.lean ====
section
/-! DEFINITION. Health events and what they lead to: the history of a unit, its moves between clear, amber and umber, and
what a unit that turns umber takes with it (R617 to R629). -/

namespace Sys2Proof.Machine

/-! ### Classes of events (R619) -/

/-- Events of class MARGIN (R619). -/
def isMargin (kind : Nat) : Bool := kind == kCanary || kind == kRetrain || kind == kLaneMargin

/-- Events of class COUNT (R619). -/
def isCount (kind : Nat) : Bool := !isMargin kind && kind != kScrub && kind != kOwner

/-- 30 days, in µs. -/
def days30 : Nat := 30 * 86_400_000_000

def oneSecond : Nat := 1_000_000_000
def oneHour : Nat := 3600 * oneSecond

/-! ### Stamps (R627) -/

/-- The lifetime counter POWER_ON in ns (R638). -/
def State.powerOnNs (s : State) : Nat := smGet (fun _ => 0) s.hlm.life 0 + (s.now - s.hlm.lifeAt)

/-- The UTC in µs, and whether it is an estimate (R627). -/
def State.utcNow (s : State) : Nat × Bool :=
  match s.utcBase with
  | some b => ((b + s.tb) % 2 ^ 64 / 1000, false)
  | none => (s.hlm.utcFlash.1 + (s.powerOnNs / 1_000_000_000 - s.hlm.utcFlash.2) * 1_000_000, true)

/-! ### Histories -/

def UnitHistory.empty : UnitHistory :=
  { kind := 0, stamp := 0, estimated := false, stamps := [], total := 0, cap := false }

def State.historyOf (s : State) (u : Nat) : UnitHistory := smGet (fun _ => UnitHistory.empty) s.hlm.history u

def State.setHistory (s : State) (u : Nat) (h : UnitHistory) : State :=
  { s with hlm := { s.hlm with history := smPut (fun _ => UnitHistory.empty) s.hlm.history u h } }

/-- COUNT events of a unit within the last 30 days (R642). -/
def State.recent (s : State) (u : Nat) : Nat :=
  ((s.historyOf u).stamps.filter (fun t => s.utcNow.1 ≤ t + days30)).length

/-! ### What the registers show of the units -/

/-- How many units with indices from `lo`, `n` of them, are in state `st`. -/
def State.countUnits (s : State) (lo n st : Nat) : Nat :=
  (s.health.filter (fun e => lo ≤ e.1 && e.1 < lo + n && e.2 == st)).length

/-- The device enters FAILED with a cause, 1 UNCORE, 2 NO_GALLERY, 3 NO_MEMORY, and asserts FAULT_N (R617, R699). -/
def State.deviceFails (s : State) (cause : Nat) : State :=
  let s : State := { s with pins := { s.pins with faultN := false } }
  (if s.fget HLM_DEVICE_STATE == 2 then s else (s.fset HLM_DEVICE_STATE 2).fset HLM_DEVICE_CAUSE cause).noteBoard

/-- HLM_DEVICE.STATE and CAUSE (R617): FAILED lasts until the next reset. -/
def State.refreshDevice (s : State) : State :=
  if s.fget HLM_DEVICE_STATE == 2 then s
  else if s.countUnits 0x080 16 umber == 16 then s.deviceFails 2
  else if s.countUnits 0x100 512 umber == 512 then s.deviceFails 3
  else (s.fset HLM_DEVICE_STATE (b2n (s.health.any (fun e => e.2 == umber)))).noteBoard

/-- The summary registers (R642). -/
def State.refreshSummary (s : State) : State :=
  let s := s.fset HLM_SUMMARY_CORE_CORES_AMBER (s.countUnits 0 128 1)
  let s := s.fset HLM_SUMMARY_CORE_CORES_UMBER (s.countUnits 0 128 umber)
  let s := s.fset HLM_SUMMARY_CORE_GALLERIES_AMBER (s.countUnits 0x080 16 1)
  let s := s.fset HLM_SUMMARY_CORE_GALLERIES_UMBER (s.countUnits 0x080 16 umber)
  let s := s.fset HLM_SUMMARY_MEM_PC_AMBER (s.countUnits 0x100 512 1)
  let s := s.fset HLM_SUMMARY_MEM_PC_UMBER (s.countUnits 0x100 512 umber)
  let s := s.fset HLM_SUMMARY_LANE_LANES_AMBER (s.countUnits 0x300 64 1)
  let s := s.fset HLM_SUMMARY_LANE_LANES_UMBER (s.countUnits 0x300 64 umber)
  s.refreshDevice

/-- CHB_LIVE of every chamber, and PWR_RATE_DEV.LIVE_CORES (R44, R116, R629). -/
def State.refreshLive (s : State) : State :=
  let s := (List.range 16).foldl (fun s n =>
    if (s.chamber n).kind == 0 then s else
    let s := s.fset CHB_LIVE_LIVE_GALLERIES (maskOf ((s.galleriesOf n).filter s.galleryLive)) n
    s.fset CHB_LIVE_LIVE_CORES (s.coresOf n).length n) s
  s.fset PWR_RATE_DEV_LIVE_CORES ((List.range 128).filter s.coreLive).length

/-- The live pseudo-channels of a trained stack (R409, R629). -/
def State.refreshStack (s : State) (st : Nat) : State :=
  if s.fget HBC_STATUS_TRAINED st == 0 then s else
  let live := (List.range 32).filter (fun p => s.healthOf (unitPc st p) != umber)
  (s.fset HBC_PC_LIVE_MASK (maskOf live) st).fset HBC_STATUS_LIVE_PC live.length st

/-- What the LNK_ registers show of a lane's health (R613). -/
def State.refreshLane (s : State) (l : Nat) : State :=
  let (p, k) := (l / 4, l % 4)
  let h := s.healthOf (unitLane l)
  let bit := fun (f : Fld) (on : Bool) (s : State) =>
    let m := s.fget f p
    s.fset f (if on then m ||| 2 ^ k else m - (m &&& 2 ^ k)) p
  let s := s.fset LNK_LANE_STATUS_HEALTH h p k
  let s := bit LNK_PORT_STATUS_RETIRED (h == umber) (bit LNK_PORT_STATUS_AMBER (h == 1) s)
  if h == umber then bit LNK_PORT_STATUS_IN_SERVICE false (s.fset LNK_LANE_STATUS_STATE 3 p k) else s

/-! ### The amber actions (R622) -/

/-- 25 mV, in units of 0.1 mV. -/
def amberOffset : Nat := 250

def PwrDomain.fresh : PwrDomain :=
  { target := 0, rate := 0, rise := none, held := 0, starved := 0, emergency := false, guard := false, throttled := false, capped := false,
    vexp := 9, sent := 0, mute := false }

def State.domain (s : State) (d : Nat) : PwrDomain := s.pwr.domains.getD d PwrDomain.fresh

/-- The units of gallery `g`: the gallery and its cores. -/
def galleryUnits (g : Nat) : List Nat := unitGallery g :: (List.range 8).map (fun k => unitCore (8 * g + k))

/-- Whether the amber offset applies to a domain: a unit of its gallery is amber with the MARGIN action (R622). -/
def State.amberDomain (s : State) (d : Nat) : Bool :=
  d < 16 && (galleryUnits d).any (fun u => s.healthOf u == 1 && !(s.historyOf u).cap)

/-- The slate runs on gallery `d`'s logic (R632 step 5). -/
def State.slateRuns (s : State) (d : Nat) : Bool :=
  match s.hlm.window with
  | some w => w.gallery == d && w.step == 5
  | none => false

/-- The voltage target of a domain as commanded, in units of 0.1 mV: the loop's target with any amber offset, less 25 mV
while the slate runs (R632, R660). -/
def State.commanded (s : State) (d : Nat) : Nat :=
  (s.domain d).target + (if s.amberDomain d then amberOffset else 0) - (if s.slateRuns d then amberOffset else 0)

def State.setDomain (s : State) (d : Nat) (x : PwrDomain) : State :=
  { s with pwr := { s.pwr with domains := s.pwr.domains.set d x } }

/-- VOUT_COMMAND sent to a domain's regulator when its target has come to another step of the regulator: ULINEAR16 with the
regulator's exponent, the nearest step (R646). -/
def State.sendVout (s : State) (d : Nat) : State :=
  let x := s.domain d
  let code := roundDiv (s.commanded d * 2 ^ x.vexp) 10_000
  if s.fget PWR_STATUS_STAGE < 2 ∨ code = x.sent then s
  else (s.setDomain d { x with sent := code }).emit (.pmbus d 0x21 code)

/-- PWR_DOMd_V.TARGET_MV and PWR_DOMd_SLACK.AMBER, and the regulator's command (R646, R674). -/
def State.refreshDomain (s : State) (d : Nat) : State :=
  ((s.fset PWR_DOM_V_TARGET_MV (roundDiv (s.commanded d) 10) d).fset PWR_DOM_SLACK_AMBER (b2n (s.amberDomain d)) d).sendVout d

/-- Whether an inserted-delay cap applies to core `c`: it or its gallery is amber with the CAP action (R42, R622). -/
def State.coreCapped (s : State) (c : Nat) : Bool :=
  [unitCore c, unitGallery (c / 8)].any (fun u => s.healthOf u == 1 && (s.historyOf u).cap)

/-- The rate registers of retired units of gallery `g` at 0: a retired unit shows no rate (R42). -/
def State.clearRates (s : State) (g : Nat) : State :=
  let s := if s.galleryLive g then s else s.wset PWR_RATE_G 0 g
  (List.range 8).foldl (fun s k => if s.coreLive (8 * g + k) then s else s.wset PWR_RATE_CORE 0 (8 * g + k)) s

/-- The gallery of a core or gallery unit. -/
def unitGalleryOf (u : Nat) : Option Nat :=
  if u < 0x080 then some (u / 8) else if u < 0x090 then some (u - 0x080) else none

/-- Everything the registers show of unit `u` and of the sums over units. -/
def State.refreshUnit (s : State) (u : Nat) : State :=
  let s := s.refreshSummary
  match unitGalleryOf u with
  | some g => ((s.refreshDomain g).clearRates g).refreshLive
  | none => if u < 0x300 then s.refreshStack ((u - 0x100) / 32) else s.refreshLane (u - 0x300)

/-! ### Retirement (R629) -/

/-- The items that hold something of core `c`. -/
def Item.onCore (i : Item) (c : Nat) : Bool :=
  match i.phase with
  | .bound d _ => d == c
  | .taken d _ => d == c
  | .suspended d _ _ => d == c
  | _ => false

/-- Engine instructions lost with their unit end 0x37 FAULT_UNIT_RETIRED (R234, R267, R308, R345, R348). -/
def State.loseOps (s : State) (l : List EngOp) : State :=
  l.foldl (fun s o => (s.opEnded o cUnitRetired 0).dropEng o.id) s

/-- A core out of service: its items end 0x37 FAULT_UNIT_RETIRED, its strands are freed and its references released; an
RT.RUN it issued is aborted; a compare on it is abandoned (R178, R224, R538, R579, R629). -/
def State.loseCore (s : State) (c : Nat) : State :=
  let skipped := (s.engOps.filter (fun o => o.checker == some c && o.core != c)).map (·.core)
  let s := s.loseOps (s.engOps.filter (fun (o : EngOp) => o.core == c && o.eng != Engine.rte))
  let s : State := { s with
    engOps := s.engOps.map (fun (o : EngOp) =>
      if o.core == c then { o with aborted := true }
      else if o.checker == some c then { o with checker := none } else o)
    ms := { s.ms with ops := s.ms.ops.filter (fun o => o.core != c) } }
  let s := skipped.foldl (fun s p => s.bump MXE_DUP_SKIPPED_COUNT 1 p) s
  let keys := (s.items.filter (fun i => i.onCore c)).map (·.key)
  let s := keys.foldl (fun s k => s.endItem k cUnitRetired 0) s
  (s.boundStrands c).foldl (fun s e => if (s.strand c e.1).item.isSome then s else s.setStrand c e.1 Strand.fresh) s

/-- A gallery out of service: all eight cores; items that wait in its LSQ are placed again; its copies end 0x37; its epochs
are cancelled; a check-value run ends ABORTED (R345, R538, R629, R640). -/
def State.loseGallery (s : State) (g : Nat) : State :=
  let s := s.loseOps (s.engOps.filter (fun (o : EngOp) => o.core / 8 == g && o.eng == Engine.rte))
  let s := (List.range 8).foldl (fun s k => s.loseCore (8 * g + k)) s
  let s := { s with items := s.items.map (fun (i : Item) =>
    match i.phase with
    | .lsq h _ => if h == g then { i with phase := .backlog } else i
    | .mover h _ => if h == g then { i with unitDone := true } else i
    | _ => i) }
  let copies := (s.items.filter (fun i => match i.phase with | .mover h _ => h == g | _ => false)).map (·.key)
  let s := copies.foldl (fun s k => s.endItem k cUnitRetired 0) s
  s.stopCvus g 0 cUnitRetired

/-- What a unit that turns umber takes with it; a lane's packets are sent again by the fabric (R386, R629). -/
def State.loseUnit (s : State) (u : Nat) : State :=
  if u < 0x080 then s.loseCore u else if u < 0x090 then s.loseGallery (u - 0x080) else s

/-! ### Changes of state (R620 to R626) -/

/-- The health state of unit `u` set to `st`: amber takes its action, umber retires it; the change awaits its flash write.
A chamber whose keeper gallery goes starts its windows anew (R345, R621 to R626, R629). -/
def State.setUnit (s : State) (u st : Nat) : State :=
  let kept := (unitGalleryOf u).bind (fun g => (s.chamberOf g).map (fun n => (n, s.keeper n)))
  let s := { s with health := smPut (fun _ => 0) s.health u st }
  let s := if st == 1 then
      match unitGalleryOf u with
      | some g => s.setHistory u { s.historyOf u with cap := decide (8500 < (s.domain g).target + amberOffset) }
      | none => s
    else s
  let s := { s with hlm := { s.hlm with unwritten := if s.hlm.unwritten.contains u then s.hlm.unwritten
                                                    else s.hlm.unwritten ++ [u] } }
  let s := (s.fset HLM_FLASH_PENDING 1).refreshUnit u
  let s := if st == umber then s.loseUnit u else s
  match kept with
  | some (n, g) => if s.keeper n = g then s else s.restartWindows n
  | none => s

/-- An event entered in the registers and the history of unit `u` (R619, R626). -/
def State.logEvent (s : State) (u kind : Nat) : State :=
  let s := s.bump HLM_EVENTS_COUNT
  let s := (s.fset HLM_EVT_LAST_KIND kind).fset HLM_EVT_LAST_UNIT u
  let (t, est) := s.utcNow
  let h := s.historyOf u
  let stamps := if isCount kind then (h.stamps ++ [t]).drop (h.stamps.length + 1 - 3) else h.stamps
  s.setHistory u { h with kind := kind, stamp := t, estimated := est, stamps := stamps, total := h.total + 1 }

/-- Whether a clear unit is judged permanent: a MARGIN event, or the third COUNT event within 30 days of the first
(R621). -/
def State.permanent (s : State) (u kind : Nat) : Bool :=
  isMargin kind ||
  match (s.historyOf u).stamps with
  | [a, _, c] => isCount kind && c ≤ a + days30
  | _ => false

/-- Whether a mismatch makes an amber core umber: its second within 30 days with a different partner (R624). -/
def State.secondPartner (s : State) (u partner : Nat) : Bool :=
  s.hlm.partners.any (fun e => e.1 == u && e.2.1 != partner && s.utcNow.1 ≤ e.2.2 + days30)

/-- One event judged: a clear unit may become amber, an amber one umber (R621, R623, R624). -/
def State.judge (s : State) (u kind partner : Nat) : State :=
  let second := s.secondPartner u partner
  let s := s.logEvent u kind
  let s := if kind == kDupMismatch then
      { s with hlm := { s.hlm with partners := s.hlm.partners ++ [(u, partner, s.utcNow.1)] } }
    else s
  match s.healthOf u with
  | 0 => if s.permanent u kind then s.setUnit u 1 else s
  | 1 =>
    if kind == kDupMismatch then (if second then s.setUnit u umber else s)
    else if isCount kind || isMargin kind then s.setUnit u umber else s
  | _ => s

/-- Whether unit `u` belongs to the gallery now in a slate window. -/
def State.inWindow (s : State) (u : Nat) : Bool :=
  match s.hlm.window, unitGalleryOf u with
  | some w, some g => w.gallery == g
  | _, _ => false

/-- The report of a `kind` against unit `u`: within 1 s of another such report it is the same event; on a unit of the
gallery in a window it is judged when the window ends (R620, R640). -/
def State.report (s : State) (u kind : Nat) (partner : Nat := 0x3FF) : State :=
  let last := s.hlm.reports.find? (fun e => e.1 == (u, kind))
  let s := { s with hlm := { s.hlm with
    reports := ((u, kind), s.now) :: s.hlm.reports.filter (fun e => e.1 != (u, kind)) } }
  match last with
  | some e => if s.now < e.2 + oneSecond then s else go s
  | none => go s
where
  go (s : State) : State :=
    if s.inWindow u then { s with hlm := { s.hlm with deferred := s.hlm.deferred ++ [(u, kind)] } }
    else s.judge u kind partner

/-- A SCRUB event, against the device alone (R619, R637). -/
def State.reportScrub (s : State) : State :=
  ((s.bump HLM_EVENTS_COUNT).fset HLM_EVT_LAST_KIND kScrub).fset HLM_EVT_LAST_UNIT 0x3FF

/-! ### What the cells of a line show (R399, R400) -/

/-- A corrected word or line of unit `u`: more than `limit` within one hour is an event of `kind` (R619). -/
def State.corrected (s : State) (u limit kind : Nat) : State :=
  let old := ((s.hlm.corrected.find? (fun e => e.1 == u)).map (·.2)).getD []
  let times := s.now :: old.filter (fun t => s.now < t + oneHour)
  let excess := limit < times.length
  let s := { s with hlm := { s.hlm with
    corrected := (u, if excess then [] else times) :: s.hlm.corrected.filter (fun e => e.1 != u) } }
  if excess then s.report u kind else s

/-- A command-path fault that makes one pseudo-channel of a channel umber retires the other as well (R406). -/
def State.retirePair (s : State) (p : Nat) : State :=
  if s.healthOf p == umber && s.healthOf (p + 1) != umber then s.setUnit (p + 1) umber
  else if s.healthOf (p + 1) == umber && s.healthOf p != umber then s.setUnit p umber
  else s

/-- One event found in the cells, as the monitor takes it: corrected words and lines are events only past their limits, and a second
parity failure is one of both pseudo-channels of its channel (R406, R619). -/
def State.takeEvent (s : State) (u kind : Nat) : State :=
  if kind == kHbmCe then s.corrected u 1024 kHbmCe
  else if kind == kSramCe then s.corrected u 16 kSramCe
  else if kind == kCmdParity then
    let both := s.healthOf u != umber && s.healthOf (u + 1) != umber
    let s := (s.report u kCmdParity).report (u + 1) kCmdParity
    if both then s.retirePair u else s
  else s.report u kind

/-- The monitor takes what accesses have found so far, in order (R399; log entry 118). -/
def State.deliver (s : State) : State :=
  s.ms.found.foldl (fun s e => s.takeEvent e.1 e.2) { s with ms := { s.ms with found := [] } }

/-- What an access meets in the cells of its line, taken by the monitor at once (R379, R399, R400, R619). -/
def State.cellEvent (s : State) (pa : Nat) (ev : CellEvent) : State := ((s.meetCells pa 64 ev).2).deliver

end Sys2Proof.Machine
end

