-- ==== Sys2Proof/Machine/Issue.lean ====
section
/-! DEFINITION. The issue stage of a core: which strand issues, stalls and completions, and the fields of an instruction word
(R47 to R56, R547). -/

namespace Sys2Proof.Machine

/-! ### Fields of an instruction word -/

def opcodeOf (w : Word64) : Nat := bitsOf w.toNat 63 56
def rdOf (w : Word64) : Nat := bitsOf w.toNat 55 53
def raOf (w : Word64) : Nat := bitsOf w.toNat 52 50
def rbOf (w : Word64) : Nat := bitsOf w.toNat 49 47
def immBit (w : Word64) : Bool := bitOf w.toNat 46
def immOf (w : Word64) : Nat := bitsOf w.toNat 31 0

/-- The mask of one register, and of an even and odd pair. -/
def regMask (r : Nat) : Nat := 2 ^ r
def pairMask (r : Nat) : Nat := 2 ^ r + 2 ^ (r + 1)

/-! ### Class and order -/

/-- The class a strand issues in: of the MESSAGE item it holds, else of its item's queue (R543). -/
def State.strandClass (s : State) (x : Strand) : Nat :=
  match x.taken, x.item with
  | some k, _ => s.queueClass k.queue
  | none, some k => s.queueClass k.queue
  | none, none => 1

/-- The chamber a core belongs to; 16 for a core of no chamber. -/
def State.coreChamber (s : State) (c : Nat) : Nat := (s.chamberOf (c / 8)).getD 16

/-- The ageing limit of chamber `n` in ns; 0 acts as 1 (R581). -/
def State.ageNs (s : State) (n : Nat) : Nat := 1000 * max 1 (s.fget GFE_SCH_CTRL_AGE_US n)

/-- Whether the HBCs, data movers and XCEs serve in LC order a request of chamber `n` for queue `q` that has waited since `since`: a
latency-critical one, or a best-effort one that has waited AGE_US (R549). -/
def State.lcOrder (s : State) (n q since : Nat) : Bool := s.queueClass q == 0 || since + s.ageNs n ≤ s.now

/-- The class a READY strand ranks in: a best-effort strand that has aged ranks as latency-critical (R547). -/
def State.rankClass (s : State) (x : Strand) : Nat :=
  if s.strandClass x == 0 || x.aged then 0 else 1

/-- The READY strand that the issue stage of core `c` picks (R49, R547). -/
def State.pickReady (s : State) (c : Nat) : Option Nat :=
  let ready := (s.boundStrands c).filter (fun e => e.2.mode == .ready && !e.2.victim)
  (argMin (fun (e : Nat × Strand) => (s.rankClass e.2 * 2 ^ 64 + e.2.readyAt) * 8192 + e.1) ready).map (·.1)

/-- The strand that issues next on core `c`: the ISSUING one while it keeps the stage, else the pick of R49 (R50). -/
def State.issuer (s : State) (c : Nat) : Option Nat :=
  match (s.boundStrands c).find? (fun e => e.2.mode == .issuing && !e.2.victim) with
  | some (t, x) => if x.run < 64 then some t else none
  | none => s.pickReady c

/-- Strand `t` of core `c` can issue the instruction word `w` now: it is its turn, and `w` is the word it has fetched. -/
def State.canIssue (s : State) (c t : Nat) (w : Word64) : Prop :=
  c < 128 ∧ t < 8192 ∧ s.coreRuns c = true ∧ s.issuer c = some t ∧ (s.strand c t).ir = some w

/-- The instruction issue shared by every strand instruction: when strand `t` of core `c` can issue a word that `mine`
accepts, `act` is its effect; otherwise nothing happens (log entry 4). -/
def State.issue (s : State) (c t : Nat) (mine : Word64 → Bool) (act : Word64 → Strand → State → State) : State :=
  if c < 128 ∧ t < 8192 ∧ s.coreRuns c = true ∧ s.issuer c = some t then
    match (s.strand c t).ir with
    | some w => if mine w then act w (s.strand c t) s else s
    | none => s
  else s

/-- The strand waits for `wt` and issues the same word again when it wakes (R48). -/
def State.stall (s : State) (c t : Nat) (wt : Wait) : State :=
  s.setStrand c t { s.strand c t with mode := .waiting, wait := wt, run := 0 }

/-- The strand's context after an instruction that leaves it ISSUING: PC at `pc`, the word used up, one more issued in a
row (R50, R54). -/
def Strand.issued (x : Strand) (pc : Nat) : Strand :=
  { x with mode := .issuing, run := x.run + 1, pc := pc % 2 ^ 57, ir := none, aged := false }

/-- An instruction that has issued: the strand's context becomes `x` with PC at the next word (R54). -/
def State.advance (s : State) (c t : Nat) (x : Strand) : State := s.setStrand c t (x.issued (x.pc + 8))

/-- The instruction's strand waits when one of the registers in `mask` awaits a value (R55, R206). -/
def State.needing (s : State) (c t : Nat) (mask : Nat) (k : State) : State :=
  if (s.strand c t).notReady &&& mask = 0 then k else s.stall c t (.regs mask)

/-- The index of an engine in a strand's wait. -/
def Engine.index : Engine → Nat
  | .mxe => 0
  | .vxe => 1
  | .sfu => 2
  | .atu => 3
  | .rte => 4
  | .xce => 5

/-- Whether engine `e` takes another instruction from core `c`. A core engine's queue of 16 counts the instructions it is executing, and
a gallery's queue of 32 its XC instructions until their status words; both are the model's choices (log entry 108). A batch that the RTE
has decoded has left the queue (R32, R310). -/
def State.engineRoom (s : State) (c e : Nat) : Bool :=
  if e < 4 then (s.engOps.filter (fun (o : EngOp) => o.core == c && o.eng.index == e)).length < 16
  else (s.engOps.filter (fun (o : EngOp) => o.core / 8 == c / 8 && 4 ≤ o.eng.index && !(o.eng == .rte && o.decoded))).length < 32

/-- A slot that no survey has named (R85). -/
def Slot.none : Slot := { owner := .none, gen := 0, monotone := false, content := [], write := .none }

def State.slot (s : State) (id : Nat) : Slot := smGet (fun _ => Slot.none) s.slots id

def State.setSlot (s : State) (id : Nat) (x : Slot) : State :=
  { s with slots := smPut (fun _ => Slot.none) s.slots id x }

/-- Lines of unperformed writes that core `c` holds: device and line (R436). -/
def State.pendingLines (s : State) (c : Nat) : List (Option Nat × Nat) :=
  ((s.ms.ops.filter (fun o => o.core == c && o.kind == .store)).map (fun o => (o.remote, o.addr / 64))).eraseDups

/-- Whether a release or full fence at chamber scope or wider of a strand is not yet performed (R442). -/
def MemSys.chamberRelease (m : MemSys) (c t : Nat) : Bool :=
  m.ops.any (fun p => p.core == c && p.strand == t && 2 ≤ p.scope && (p.rel || p.kind == .fence 2 || p.kind == .fence 3))

/-- A waiting strand's condition is met (R48). The waits that a row of the table of their own ends are not met here. -/
def State.waitMet (s : State) (c t : Nat) (x : Strand) : Bool :=
  match x.wait with
  | .none => true
  | .regs m => x.notReady &&& m == 0
  | .engine e => s.engineRoom c e
  | .take => x.taken.isSome
  | .release => !s.ms.owes c t s.ms.nextId
  | .fence => !s.ms.chamberRelease c t
  | .lines => (s.pendingLines c).length < 32
  | _ => false

/-- STRAND_WAKE: the condition a WAITING strand waits on is met, and it becomes READY (R48, R49). -/
def execStrandWake (c t : Nat) (s : State) : Result :=
  let x := s.strand c t
  .next (if x.mode = .waiting ∧ s.waitMet c t x = true then
    s.setStrand c t { x with mode := .ready, wait := .none, readyAt := s.tb, run := 0 } else s)

/-- STRAND_QUANTUM_END: after 64 instructions in a row the strand returns to READY with a new readiness time (R50). -/
def execStrandQuantumEnd (c t : Nat) (s : State) : Result :=
  let x := s.strand c t
  .next (if x.mode = .issuing ∧ 64 ≤ x.run then
    s.setStrand c t { x with mode := .ready, readyAt := s.tb, run := 0 } else s)

end Sys2Proof.Machine
end

