-- ==== Sys2Proof/Machine/Queues.lean ====
section
/-! DEFINITION. Queues: creation and teardown, doorbells, the fetch of items and their admission, dispatch, binding,
timeouts and cancellation, copies and the queue-work instructions (R499 to R525, R534 to R536, R543 to R560). -/

namespace Sys2Proof.Machine

/-! ### Who may act -/

/-- Whether a requester acts as the owner: the owner session, or management-core firmware acting for it (R14). -/
def State.owns (s : State) (r : Requester) : Bool :=
  match r with
  | .session k => s.fget CTP_OWNER_VALID == 1 && s.fget CTP_OWNER_SLOT == k
  | .firmware => true
  | .core _ _ => false

/-- Whether writes by code of chamber `n` are taken: not before the chamber is LIVE, nor once its zeroisation has begun (R721). -/
def State.codeWrites (s : State) (n : Nat) : Bool :=
  n < 16 && (s.fget CHB_STATE_STATE n == chbLive || s.fget CHB_STATE_STATE n == chbDraining)

/-- Whether a requester may write chamber set `n`: the owner, or code running in the chamber (R410, R539). -/
def State.mayWriteSet (s : State) (r : Requester) (n : Nat) : Bool :=
  match r with
  | .core c _ => s.coreChamber c == n && s.codeWrites n
  | _ => s.owns r

/-- Whether a requester may write queue set `q` (R539). -/
def State.mayWriteQueue (s : State) (r : Requester) (q : Nat) : Bool :=
  match r with
  | .core c _ => s.queueState q != qFree && s.queueChamber q == s.coreChamber c && s.codeWrites (s.coreChamber c)
  | _ => s.owns r

/-! ### Queue commands (R502, R503, R534) -/

/-- The queue ids that chamber `n` holds (R500). -/
def State.heldQueues (s : State) (n : Nat) : List Nat :=
  (List.range 4096).filter (fun q => s.queueState q != qFree && s.queueChamber q == n)

/-- GFE_QCMD_STATUS of chamber `n` set to a refusal (R503). -/
def State.qcmdRefuse (s : State) (n result q : Nat) : State :=
  let s := s.fset GFE_QCMD_STATUS_STATE 3 n
  let s := s.fset GFE_QCMD_STATUS_RESULT result n
  s.fset GFE_QCMD_STATUS_QUEUE q n

/-- GFE_QCMD_STATUS of chamber `n` set to DONE for queue `q`. -/
def State.qcmdDone (s : State) (n q : Nat) : State :=
  let s := s.fset GFE_QCMD_STATUS_STATE 2 n
  let s := s.fset GFE_QCMD_STATUS_RESULT 0 n
  s.fset GFE_QCMD_STATUS_QUEUE q n

/-- Strands whose task serves queue `q`: core, strand and the key of the TASK item. -/
def State.servers (s : State) (q : Nat) : List (Nat × Nat × ItemKey) :=
  s.strands.filterMap fun e =>
    match e.2.item with
    | some k => if e.2.task && (match s.item k with | some i => fieldAt i.line 0x28 2 == q | none => false)
        then some (e.1 / 8192, e.1 % 8192, k) else none
    | none => none

/-- The items of queue `q` between fetch and record, in fetch order. -/
def State.itemsOf (s : State) (q : Nat) : List Item := s.items.filter (fun i => i.key.queue == q)

/-- The teardown of queue `q`: it becomes DRAINING, its items end ABORTED at once or when their engines acknowledge, and
the tasks that serve it end with their TASK items ABORTED (R534). -/
def State.teardown (s : State) (q : Nat) : State :=
  let s := s.fset GFE_Q_STATE_STATE qDraining q
  let s := (s.servers q).foldl (fun s e => s.abortItem e.2.2 cAborted) s
  (s.itemsOf q).foldl (fun s i => s.abortItem i.key cAborted) s

/-- A command of a chamber set begins: STATE becomes BUSY, and it works with what its GO write gave (R503). -/
def State.beginCmd (s : State) (key : Nat) (c : GfeCmd) : State :=
  { s with gfeCmds := smPut (fun _ => ⟨0, 0, 0⟩) s.gfeCmds key c }

/-- The command that a chamber set runs or ran last. -/
def State.gfeCmd (s : State) (key : Nat) : GfeCmd := smGet (fun _ => ⟨0, 0, 0⟩) s.gfeCmds key

/-- The QCB address that GFE_QCMD_ADDR names. -/
def State.qcmdAddr (s : State) (n : Nat) : Nat :=
  s.fget GFE_QCMD_ADDR_LO_ADDR n * 64 + s.fget GFE_QCMD_ADDR_HI_ADDR n * 2 ^ 32

/-- The GO write of a queue command on chamber set `n`: OP 1 CREATE, 2 DESTROY, 3 RECLAIM, judged in the order of R503. -/
def State.qcmd (s : State) (n op q : Nat) : State :=
  if s.fget GFE_QCMD_STATUS_STATE n == 1 then s.fset GFE_QCMD_STATUS_REFUSED_BUSY 1 n
  else
    let s := s.fset GFE_QCMD_OP op n
    let s := s.fset GFE_QCMD_QUEUE q n
    if op == 0 then s.qcmdRefuse n 0x07 q
    else if !s.chLive n then s.qcmdRefuse n 0x03 q
    else if op == 1 then (s.fset GFE_QCMD_STATUS_STATE 1 n).beginCmd (2 * n) ⟨1, q, s.qcmdAddr n⟩
    else if s.queueChamber q != n || s.queueState q != (if op == 2 then qActive else qTeardownDone) then
      s.qcmdRefuse n 0x04 q
    else if op == 2 then (s.teardown q).qcmdDone n q
    else ((s.fset GFE_Q_STATE_STATE qFree q).setQueue q Queue.none).qcmdDone n q

/-- CREATE: the GO write of GFE_QCMD with OP CREATE (R502). -/
def execCreate (r : Requester) (n : Nat) (s : State) : Result :=
  .next (if s.mayWriteSet r n then s.qcmd n 1 (s.fget GFE_QCMD_QUEUE n) else s)

/-- DESTROY: the GO write of GFE_QCMD with OP DESTROY for queue `q` (R534). -/
def execDestroy (r : Requester) (n q : Nat) (s : State) : Result :=
  .next (if s.mayWriteSet r n then s.qcmd n 2 q else s)

/-- RECLAIM: the GO write of GFE_QCMD with OP RECLAIM for queue `q` (R500). -/
def execReclaim (r : Requester) (n q : Nat) (s : State) : Result :=
  .next (if s.mayWriteSet r n then s.qcmd n 3 q else s)

/-- A QCB whose fields lie in range and whose galleries lie in the chamber (R502, R503). -/
def qcbOk (galleries : Nat) (b : List Byte) : Bool :=
  fieldAt b 0 8 % 64 == 0 && fieldAt b 0 8 < 2 ^ 57 && fieldAt b 8 8 % 64 == 0 && fieldAt b 8 8 < 2 ^ 57 &&
  6 ≤ fieldAt b 0x10 1 && fieldAt b 0x10 1 ≤ 16 && fieldAt b 0x11 1 ≤ 1 &&
  fieldAt b 0x12 2 &&& galleries == fieldAt b 0x12 2 &&
  1 ≤ fieldAt b 0x18 2 && fieldAt b 0x18 2 ≤ 1000 && fieldAt b 0x1A 2 ≤ 3 && zeroAt b 0x1C 36

/-- The next epoch of a queue id: one more, skipping 0 (R501). -/
def nextEpoch (e : Nat) : Nat := if (e + 1) % 2 ^ 16 = 0 then 1 else (e + 1) % 2 ^ 16

/-- Queue `q` made ACTIVE for chamber `n` from its QCB; its counts and its accounting begin again (R502, R570). -/
def State.openQueue (s : State) (n q : Nat) (b : List Byte) : State :=
  let s := s.forget (.fetch q)
  let epoch := nextEpoch (s.fget GFE_Q_STATE_EPOCH q)
  let s := s.resetRange (regAddr GFE_Q_DB q 0) (regAddr GFE_Q_DB q 0 + 0x20)
  let s := s.resetRange (regAddr GFE_QA_WAIT_LO q 0) (regAddr GFE_QA_WAIT_LO q 0 + 0x40)
  let s := s.fset GFE_Q_STATE_STATE qActive q
  let s := s.fset GFE_Q_STATE_CLASS (fieldAt b 0x11 1) q
  let s := s.fset GFE_Q_STATE_SERVED (fieldAt b 0x1A 2) q
  let s := s.fset GFE_Q_STATE_CHAMBER n q
  let s := s.fset GFE_Q_STATE_EPOCH epoch q
  s.setQueue q { Queue.none with
    ring := fieldAt b 0 8, cring := fieldAt b 8 8, logSize := fieldAt b 0x10 1, galleries := fieldAt b 0x12 2,
    timeoutUs := fieldAt b 0x14 4, weight := fieldAt b 0x18 2, inOrder := bitOf (fieldAt b 0x1A 2) 1 }

/-- The QCB of chamber `n`'s running CREATE read, and the queue created or refused (R502, R503). -/
def State.qcbRead (s : State) (n : Nat) : State :=
  match s.readVa (s.reqGfe n) n (s.gfeCmd (2 * n)).addr 64 with
  | (.error _, s) => s.qcmdRefuse n 0x06 0
  | (.ok b, s) =>
    if !qcbOk (s.chamber n).galleries b then s.qcmdRefuse n 0x02 0
    else if (s.chamber n).queues ≤ (s.heldQueues n).length then s.qcmdRefuse n 0x01 0
    else match (List.range 4096).find? (fun q => s.queueState q == qFree) with
      | none => s.qcmdRefuse n 0x01 0
      | some q => (s.openQueue n q b).qcmdDone n q

/-- QCB_READ: the QCB read of a running CREATE completes, and the queue is created or refused; a chamber that is no longer LIVE gets
none (R105, R502, R503). -/
def execQcbRead (n : Nat) (s : State) : Result :=
  .next (
    if s.fget GFE_QCMD_STATUS_STATE n != 1 then s
    else if !s.chLive n then s.qcmdRefuse n 0x03 0
    else (s.remotely (.command (2 * n)) 0xFFFF (fun _ s => s.qcmdRefuse n 0x06 0) (fun s => s.qcbRead n)).deliver)

/-- TEARDOWN_DONE: every item of a DRAINING queue has its record and every engine has acknowledged (R499, R534). -/
def execTeardownDone (q : Nat) (s : State) : Result :=
  .next (
    let s := s.settleAll
    if s.queueState q = qDraining ∧ (s.itemsOf q).isEmpty = true ∧ (s.servers q).isEmpty = true then
      s.fset GFE_Q_STATE_STATE qTeardownDone q else s)

/-! ### Doorbells and rings (R504, R505) -/

/-- The distance from `b` to `a`, modulo 2^32 (R504). -/
def ahead (a b : Nat) : Nat := (a + 2 ^ 32 - b % 2 ^ 32) % 2 ^ 32

/-- A doorbell: TAIL is taken unless it lies more than the ring ahead of CACK, which sets OVERRUN; a queue that is not
ACTIVE is unchanged (R504, R505, R521). -/
def State.doorbell (s : State) (q tail : Nat) : State :=
  if s.queueState q != qActive then s
  else if 2 ^ (s.queue q).logSize < ahead tail (s.fget GFE_Q_CACK_COUNT q) then s.fset GFE_Q_STATE_OVERRUN 1 q
  else s.setQueue q { s.queue q with tail := tail % 2 ^ 32 }

/-- Q_DB_WRITE (R504). -/
def execQDbWrite (r : Requester) (q tail : Nat) (s : State) : Result :=
  .next (if s.mayWriteQueue r q then s.doorbell q tail else s)

/-- A write of GFE_Q_CACK; a value beyond DONE is taken as DONE (R504, R538). -/
def State.cack (s : State) (q v : Nat) : State :=
  let old := s.fget GFE_Q_CACK_COUNT q
  let done := s.fget GFE_Q_DONE_LO_COUNT q
  s.fset GFE_Q_CACK_COUNT (if ahead done old < ahead v old then done else v) q

/-- Q_CACK_WRITE (R504, R538). -/
def execQCackWrite (r : Requester) (q v : Nat) (s : State) : Result :=
  .next (if s.mayWriteQueue r q then s.cack q v else s)

/-- Q_CANCEL: the item with that SEQ ends CANCELLED; a SEQ that is not outstanding is ignored (R524). -/
def execQCancel (r : Requester) (q seq : Nat) (s : State) : Result :=
  .next (if s.mayWriteQueue r q then s.abortItem ⟨q, seq, none⟩ cCancelled else s)

/-! ### The fetch (R504, R548) -/

/-- The class backlog of chamber `n`: its admitted items that wait for dispatch (R553). -/
def State.backlog (s : State) (n cls : Nat) : List Item :=
  s.items.filter (fun i => i.phase == .backlog && s.queueChamber i.key.queue == n && s.queueClass i.key.queue == cls)

/-- The depth of a class backlog; 0 acts as 1 (R581). -/
def State.backlogDepth (s : State) (n cls : Nat) : Nat :=
  max 1 (if cls == 0 then s.fget GFE_SCH_BACKLOG_LC_DEPTH n else s.fget GFE_SCH_BACKLOG_BE_DEPTH n)

/-- The fetch conditions of R504 for queue `q`; a queue with CFAULT has stopped fetching (R518). -/
def State.fetchable (s : State) (q : Nat) : Bool :=
  s.queueState q == qActive && s.fget GFE_Q_STATE_CFAULT q == 0 &&
  s.fget GFE_Q_FETCHED_COUNT q != (s.queue q).tail &&
  ahead (s.fget GFE_Q_FETCHED_COUNT q) (s.fget GFE_Q_CACK_COUNT q) < 2 ^ (s.queue q).logSize

/-- The queues of one class of chamber `n` that the GFE may fetch from now: with BE_HOLD, no best-effort queue while the
best-effort backlog is full (R548, R552). -/
def State.fetchQueues (s : State) (n cls : Nat) : List Nat :=
  if cls == 1 && s.fget GFE_SCH_CTRL_BE_HOLD n == 1 && s.backlogDepth n 1 ≤ (s.backlog n 1).length then [] else
  (s.heldQueues n).filter (fun q => s.queueClass q == cls && s.fetchable q)

/-- A queue's turn taken: one credit spent, and the round stands past it (R548). -/
def State.spendTurn (s : State) (n cls q : Nat) : State :=
  let s := s.setQueue q { s.queue q with credits := (s.queue q).credits - 1 }
  { s with gfeTurn := smPut (fun _ => 0) s.gfeTurn (2 * n + cls) (q + 1) }

/-- The queue whose turn it is among `qs`, by deficit round robin: ascending id from where the round stands, passing over
queues without credits; a new round gives each queue its WEIGHT (R548). -/
def State.turn (s : State) (n cls : Nat) (qs : List Nat) : Option Nat × State :=
  let s := if qs.all (fun q => (s.queue q).credits == 0) then
      qs.foldl (fun s q => s.setQueue q { s.queue q with credits := (s.queue q).weight }) s
    else s
  let from_ := smGet (fun _ => 0) s.gfeTurn (2 * n + cls)
  let able := qs.filter (fun q => (s.queue q).credits != 0)
  match (able.find? (fun q => from_ ≤ q)).orElse (fun _ => able.head?) with
  | none => (none, s)
  | some q => (some q, s.spendTurn n cls q)

/-! ### Admission (R508, R550, R551) -/

/-- The galleries an item may use: the queue's, or the chamber's when it names none, within AFFINITY (R502, R506). -/
def State.itemGalleries (s : State) (i : Item) : List Nat :=
  let own := (s.chamber (s.queueChamber i.key.queue)).galleries
  let q := (s.queue i.key.queue).galleries
  let m := (if q = 0 then own else q) &&& own
  maskBits 16 (if i.affinity = 0 then m else m &&& i.affinity)

/-- An address field of an item: a multiple of 64 with bits [63:57] at 0 (R507). -/
def addrOk (b : List Byte) (o : Nat) : Bool := fieldAt b o 8 % 64 == 0 && fieldAt b o 8 < 2 ^ 57

/-- The body of an item keeps the layout of R507. -/
def bodyOk (b : List Byte) (kind : Nat) : Bool :=
  match kind with
  | 0 | 1 => addrOk b 0x10 && addrOk b 0x18 && fieldAt b 0x20 4 % 64 == 0 && fieldAt b 0x20 4 ≤ 2_097_152 &&
      fieldAt b 0x24 4 % 64 == 0 && fieldAt b 0x24 4 ≤ 524_288 && (kind == 1 || fieldAt b 0x28 2 == 0) && zeroAt b 0x2A 22
  | 2 => fieldAt b 0x10 1 ≤ 63 && zeroAt b 0x11 1 && zeroAt b 0x14 44
  | 3 => addrOk b 0x10 && addrOk b 0x18 && fieldAt b 0x20 4 % 64 == 0 && 64 ≤ fieldAt b 0x20 4 &&
      fieldAt b 0x24 1 ≤ 1 && zeroAt b 0x25 27
  | 4 => zeroAt b 0x10 48
  | 5 => true
  | _ => false

/-- The checks of R508 that need only the item and its queue. -/
def State.itemOk (s : State) (i : Item) : Bool :=
  let q := i.key.queue
  let served := s.fget GFE_Q_STATE_SERVED q == 1
  bodyOk i.line i.kind && i.iflags ≤ 1 && !(s.itemGalleries i).isEmpty &&
  (i.kind == kindMessage) == served &&
  (i.kind != kindTask ||
    (let v := fieldAt i.line 0x28 2
     v < 4096 && s.queueState v == qActive && s.fget GFE_Q_STATE_SERVED v == 1 && s.queueChamber v == s.queueChamber q))

/-- The mean RATIO of the chamber's live gallery domains in the latest window (R551). -/
def State.meanRatio (s : State) (n : Nat) : Nat :=
  let gs := (s.galleriesOf n).filter s.galleryLive
  if gs.isEmpty then 0 else (gs.map (fun g => s.fget PWR_RATE_G_RATIO g)).sum / gs.length

/-- The completion estimate of R551. -/
def State.estimate (s : State) (i : Item) : Nat :=
  let n := s.queueChamber i.key.queue
  let p := ((s.itemGalleries i).flatMap s.liveCores).length
  s.tb + s.fget GFE_QA_SOLO_NS i.key.queue * 2048 / s.meanRatio n *
    (1 + (s.backlog n (s.queueClass i.key.queue)).length / p)

/-- The first check of R550 that the fetched item fails, as its status code. -/
def State.admission (s : State) (i : Item) : Option Nat :=
  let n := s.queueChamber i.key.queue
  let cls := s.queueClass i.key.queue
  if !s.itemOk i then some cFormat
  else if !s.chLive n || !((s.itemGalleries i).any s.galleryLive) || s.pwr.shutdownAt.isSome || s.pwr.handoverAt.isSome then
    some cUnavailable
  else if bitOf i.iflags 0 && i.deadline ≤ s.tb then some cDeadline
  else if bitOf i.iflags 0 && s.fget GFE_QA_SLOW_BASELINE i.key.queue == 1 && i.deadline < s.estimate i then
    some cDeadline
  else if s.backlogDepth n cls ≤ (s.backlog n cls).length then some cQueueFull
  else none

/-- The live versions of a graph: the newest, and those that a launch without a record is bound to (R531). -/
def State.versionLive (s : State) (n g : Nat) (G : Graph) (v : Nat) : Bool :=
  v == G.newest || s.items.any (fun i => i.kind == kindGraph && s.queueChamber i.key.queue == n &&
    fieldAt i.line 0x10 1 == g && i.version == v)

/-- The version a GRAPH item binds at its fetch: the one it names, when live, or the newest (R529, R533). -/
def State.bindVersion (s : State) (i : Item) : Option Nat :=
  let n := s.queueChamber i.key.queue
  let g := fieldAt i.line 0x10 1
  match s.graph n g with
  | none => none
  | some G =>
    let v := fieldAt i.line 0x12 2
    if G.destroyed then none else if v = 0 then some G.newest
    else if G.versions.any (fun x => x.version == v) && s.versionLive n g G v then some v else none

/-- A newly fetched item. -/
def Item.fetched (k : ItemKey) (line : List Byte) (epoch now : Nat) : Item :=
  { key := k, line := line, epoch := epoch, fetchAt := now, phase := .backlog, boundAt := now, waitNs := 0,
    preempts := 0, sampled := false, remote := false, ending := none, ender := none, version := 0, ended := [], solo := true,
    copied := 0, slotRefs := [], seqRefs := [], ratioSum := 0, ratioAt := now, aged := false, unitDone := false }

/-- The item just read is admitted, or ends with the first check it fails (R550). -/
def State.admitItem (s : State) (i : Item) : State :=
  let n := s.queueChamber i.key.queue
  match s.admission i with
  | some code =>
    let s := if code != cFormat then s.bump GFE_SCH_REFUSED_COUNT 1 n else s
    s.finish { i with phase := .gfe, ending := some (code, 0) }
  | none =>
    if i.kind == kindGraph then
      match s.bindVersion i with
      | none => s.finish { i with phase := .gfe, ending := some (cUnavailable, 0) }
      | some v => { s with items := s.items ++ [{ i with phase := .gfe, version := v }] }
    else if i.kind == kindMarker then { s with items := s.items ++ [{ i with phase := .gfe }] }
    else { s with items := s.items ++ [i] }

/-- The next item of queue `q` fetched: its 64 bytes, or the fault that its read met, which ends it (R504, R550). -/
def State.fetchFrom (s : State) (q : Nat) (failed : Option MFault) : State :=
  let n := s.queueChamber q
  let k := s.fget GFE_Q_FETCHED_COUNT q
  let Q := s.queue q
  let s := s.bumpWrap GFE_Q_FETCHED_COUNT 1 q
  let fresh := fun (line : List Byte) (s : State) => Item.fetched ⟨q, k, none⟩ line (s.fget GFE_Q_STATE_EPOCH q) s.now
  let fail := fun (f : MFault) (s : State) =>
    s.finish { fresh (List.replicate 64 0#8) s with phase := .gfe, ending := some (f.code, f.cause) }
  match failed with
  | some f => fail f s
  | none =>
    match s.readVa (s.reqGfe n) n (Q.ring + 64 * (k % 2 ^ Q.logSize)) 64 with
    | (.error f, s) => fail f s
    | (.ok b, s) => s.admitItem (fresh b s)

/-- A fetch of queue `q` whose read another device refused (R504, R593). -/
def State.fetchFailed (s : State) (q : Nat) (f : MFault) : State :=
  if s.fetchable q then (s.spendTurn (s.queueChamber q) (s.queueClass q) q).fetchFrom q (some f) else s

/-- ITEM_FETCH: the GFE fetches the next item of chamber `n`, from its latency-critical queues before its best-effort ones,
and judges it (R504, R548, R550). -/
def execItemFetch (n : Nat) (s : State) : Result :=
  .next (
    let lc := s.fetchQueues n 0
    let (cls, qs) := if lc.isEmpty then (1, s.fetchQueues n 1) else (0, lc)
    match s.turn n cls qs with
    | (none, _) => s
    | (some q, _) =>
      (s.remotely (.fetch q) q (fun f s => s.fetchFailed q f) (fun s => (s.turn n cls qs).2.fetchFrom q none)).deliver)

/-! ### Dispatch and binding (R509, R510, R544, R553) -/

/-- Items waiting in the LSQ of gallery `g`, in arrival order. -/
def State.lsqItems (s : State) (g : Nat) : List Item :=
  s.items.filter (fun i => match i.phase with | .lsq h _ => h == g | _ => false)

/-- Copies queued on mover `d` of gallery `g`. -/
def State.moverItems (s : State) (g d : Nat) : List Item := s.items.filter (fun i => i.phase == .mover g d)

/-- Persistent tasks of core `c`. -/
def State.tasksOf (s : State) (c : Nat) : Nat := ((s.boundStrands c).filter (fun e => e.2.task)).length

/-- Persistent tasks of the whole device. -/
def State.allTasks (s : State) : Nat := (s.strands.filter (fun e => e.2.task)).length

/-- Persistent tasks of chamber `n`. -/
def State.chamberTasks (s : State) (n : Nat) : Nat := ((s.galleriesOf n).flatMap (fun g =>
  (List.range 8).map (fun k => s.tasksOf (8 * g + k)))).sum

/-- Whether gallery `g` takes no new work: a slate scan window holds it, or its regulator does not answer (R541, R632,
R701). -/
def State.scanning (s : State) (g : Nat) : Bool :=
  s.fget LSQ_STATUS_SCAN g == 1 || (match s.pwr.domains[g]? with | some x => x.mute | none => false)

/-- A copy that a slate window holds back: it was not running when the window opened (R632). -/
def State.copyHeld (s : State) (g : Nat) (k : ItemKey) : Bool :=
  match s.hlm.window with
  | some w => w.gallery == g && !w.copies.contains k
  | none => false

/-- The gallery an item is dispatched to: among the live galleries it may use that no scan window holds, with room in the
LSQ, the one with the fewest waiting items (R510, R515). -/
def State.pickGallery (s : State) (i : Item) : Option Nat :=
  argMin (fun g => (s.lsqItems g).length) ((s.itemGalleries i).filter (fun g =>
    s.galleryLive g && !s.scanning g && (s.lsqItems g).length < 512 &&
    (i.kind != kindTask || (s.liveCores g).any (fun c => s.tasksOf c < 1024))))

/-- The mover of gallery `g` with the fewest queued copies, with room for one more (R510, R541). -/
def State.pickMover (s : State) (g : Nat) : Option Nat :=
  argMin (fun d => (s.moverItems g d).length) ((List.range 4).filter (fun d => (s.moverItems g d).length < 32))

/-- Whether IN_ORDER lets an item be dispatched: the previous item's record is written (R502). -/
def State.inOrderOk (s : State) (i : Item) : Bool :=
  !(s.queue i.key.queue).inOrder ||
  !(s.items.any (fun j => j.key.queue == i.key.queue && ahead j.key.seq i.key.seq > 2 ^ 31 && j.key.node.isNone))

/-- The rank of an item in dispatch and binding: LC items and aged BE items first (R553). -/
def State.itemRank (s : State) (i : Item) : Nat := if s.queueClass i.key.queue == 0 || i.aged then 0 else 1

/-- An item placed with gallery `g`: in its LSQ, or on one of its data movers (R510). -/
def State.place (s : State) (i : Item) (g : Nat) : State :=
  if i.kind == kindCopy then
    match s.pickMover g with
    | none => s
    | some d =>
      let alone := (s.moverItems g d).all (fun j => j.key.queue == i.key.queue)
      let s := if alone then s else
        { s with items := s.items.map (fun (j : Item) => if j.phase == .mover g d then { j with solo := false } else j) }
      s.modItem i.key (fun j => { j with
        phase := .mover g d, waitNs := saturate 0xFFFF_FFFF (s.now - j.fetchAt), boundAt := s.now, ratioAt := s.now,
        solo := alone })
  else s.modItem i.key (fun j => { j with phase := .lsq g s.now })

/-- Every live core of every gallery a TASK may use already holds 1,024 tasks (R515). -/
def State.tasksFull (s : State) (i : Item) : Bool :=
  ((s.itemGalleries i).flatMap s.liveCores).all (fun c => 1024 ≤ s.tasksOf c)

/-- ITEM_DISPATCH: the first item of chamber `n`'s backlog that can be dispatched goes to an LSQ or a data mover
(R509, R510, R553). A MESSAGE waits for a task (R517). -/
def execItemDispatch (n : Nat) (s : State) : Result :=
  .next (
    let waiting := (s.backlog n 0 ++ s.backlog n 1).filter (fun i => i.kind != kindMessage && s.inOrderOk i &&
      ((s.pickGallery i).isSome || (i.kind == kindTask && s.tasksFull i)))
    let first := (s.items.filter (fun i => waiting.any (fun j => j.key == i.key)))
    match argMin s.itemRank first with
    | none => s
    | some i =>
      if i.kind == kindTask && s.tasksFull i then s.endItem i.key cChamberQuota 0
      else match s.pickGallery i with
        | none => s
        | some g => s.place i g)

/-- Declared bytes of the items bound to core `c` and not suspended, scratchpad and accumulator (R544). -/
def State.coreLoad (s : State) (c : Nat) : Nat × Nat :=
  let on := s.items.filter (fun i => match i.phase with | .bound d _ => d == c | _ => false)
  ((on.map Item.scratch).sum, (on.map Item.accum).sum)

/-- Whether core `c` admits an item within its budget, and has a FREE strand (R52, R515, R544). -/
def State.coreAdmits (s : State) (c : Nat) (i : Item) : Bool :=
  let (u, v) := s.coreLoad c
  u + i.scratch ≤ 2_097_152 && v + i.accum ≤ 524_288 && 0 < s.freeStrands c &&
  (i.kind != kindTask || s.tasksOf c < 1024)

/-- The core of gallery `g` an item binds to: the admitting one with the most FREE strands (R510). -/
def State.pickCore (s : State) (g : Nat) (i : Item) : Option Nat :=
  argMax s.freeStrands ((s.liveCores g).filter (fun c => s.coreAdmits c i))

/-- A core's instruction cache emptied, as at each binding (R54). -/
def MemSys.emptyIcache (m : MemSys) (c : Nat) : MemSys := { m with icache := m.icache.filter (fun l => l.core != c) }

/-- A core's read cache emptied (R434). -/
def MemSys.emptyCache (m : MemSys) (c : Nat) : MemSys := { m with cache := m.cache.filter (fun l => l.core != c) }

/-- The effect of an acquire at `scope` on the issuing core's caches (R54, R434). -/
def MemSys.acquire (m : MemSys) (c scope : Nat) : MemSys :=
  let m := if 1 ≤ scope then m.emptyCache c else m
  if 2 ≤ scope then m.emptyIcache c else m

/-- The context a bound strand starts with (R511). -/
def Strand.start (i : Item) (tb now : Nat) : Strand :=
  let args := fieldAt i.line 0x18 8
  { Strand.fresh with
    mode := .ready, pc := fieldAt i.line 0x10 8, readyAt := tb, item := some i.key, task := i.kind == kindTask,
    boundAt := now,
    regs := [BitVec.ofNat 32 args, BitVec.ofNat 32 (args / 2 ^ 32 % 2 ^ 25), BitVec.ofNat 32 i.key.seq,
             BitVec.ofNat 32 i.tag, BitVec.ofNat 32 i.key.queue, 0#32, 0#32, 0#32] }

/-- An item bound to core `c`: the lowest FREE strand starts at PROGRAM; the binding is an acquire at chamber scope, and
the core's instruction cache is emptied (R52, R54, R439, R511). -/
def State.bind (s : State) (i : Item) (c : Nat) : State :=
  match s.lowestFree c with
  | none => s
  | some t =>
    let on := fun (j : Item) => match j.phase with | .bound d _ => d == c | _ => false
    let alone := (s.items.filter on).all (fun j => j.key.queue == i.key.queue)
    let s := if alone then s else
      { s with items := s.items.map (fun (j : Item) => if on j then { j with solo := false } else j) }
    let s := s.modItem i.key (fun j => { j with
      phase := .bound c t, boundAt := s.now, waitNs := saturate 0xFFFF_FFFF (s.now - j.fetchAt), ratioAt := s.now,
      solo := j.solo && alone })
    let s := s.setStrand c t (Strand.start i s.tb s.now)
    let s := { s with ms := s.ms.acquire c 2 }
    (s.bump64 LSQ_BOUND_LO_COUNT LSQ_BOUND_HI_COUNT 1 (c / 8)).traceBind c t i.key.queue i.key.seq i.tag

/-- ITEM_BIND: the LSQ of gallery `g` binds the first waiting item, in the order of R553, that can bind on some allowed
core; a TASK beyond a quota ends REFUSED_CHAMBER_QUOTA (R52, R515, R544). -/
def execItemBind (g : Nat) (s : State) : Result :=
  .next (
    let n := (s.chamberOf g).getD 16
    let excess := fun (i : Item) => i.kind == kindTask &&
      ((s.chamber n).persistent ≤ s.chamberTasks n || 8192 ≤ s.allTasks || s.tasksFull i)
    let able := (s.lsqItems g).filter (fun i => !s.scanning g && (excess i || (s.pickCore g i).isSome))
    match argMin s.itemRank able with
    | none => s
    | some i =>
      if excess i then s.endItem i.key cChamberQuota 0
      else match s.pickCore g i with
        | none => s
        | some c => s.bind i c)

/-- What AGE_EXPIRY ages: a READY strand, or an item that waits (R547, R553). -/
def execAgeExpiry (a : Aging) (s : State) : Result :=
  .next (match a with
    | .strand c t =>
      let x := s.strand c t
      if x.mode = .ready ∧ x.readyAt + s.ageNs (s.coreChamber c) ≤ s.tb then s.setStrand c t { x with aged := true } else s
    | .item q seq =>
      s.modItem ⟨q, seq, none⟩ (fun i =>
        let waits := match i.phase with | .backlog => true | .lsq _ _ => true | _ => false
        if waits && i.fetchAt + s.ageNs (s.queueChamber q) ≤ s.now then { i with aged := true } else i))

/-! ### Markers, messages, copies, timeouts -/

/-- MARKER_END: a MARKER ends when every item of the queue with a lower SEQ has its record (R509). -/
def execMarkerEnd (q seq : Nat) (s : State) : Result :=
  .next (match s.item ⟨q, seq, none⟩ with
    | none => s
    | some i =>
      if i.kind = kindMarker ∧ i.phase = .gfe ∧
          s.items.all (fun j => j.key.queue != q || j.key.seq == seq || ahead j.key.seq seq < 2 ^ 31) = true then
        s.endItem i.key cServed 0 else s)

/-- The serving task of queue `q` that has waited in QW.TAKE longest; a tie goes to the lower strand index (R517). -/
def State.longestTaker (s : State) (q : Nat) : Option (Nat × Nat) :=
  let l := (s.servers q).filter (fun e => (s.strand e.1 e.2.1).mode == .waiting && (s.strand e.1 e.2.1).wait == .take)
  (argMin (fun (e : Nat × Nat × ItemKey) => ((s.strand e.1 e.2.1).readyAt * 8192 + e.2.1) * 128 + e.1) l).map
    (fun e => (e.1, e.2.1))

/-- MESSAGE_DISPATCH: the first waiting MESSAGE of queue `q` goes to the longest-waiting task, whose QW.TAKE completes with
the item's address (R516, R517). -/
def execMessageDispatch (q : Nat) (s : State) : Result :=
  .next (
    match (s.itemsOf q).find? (fun i => i.kind == kindMessage && i.phase == .backlog && s.inOrderOk i),
        s.longestTaker q with
    | some i, some (c, t) =>
      let x := s.strand c t
      let Q := s.queue q
      let rd := match x.ir with | some w => rdOf w | none => 0
      let x := x.setPair rd (Q.ring + 64 * (i.key.seq % 2 ^ Q.logSize))
      let s := s.setStrand c t { x with
        taken := some i.key, wait := .none, pc := (x.pc + 8) % 2 ^ 57, ir := none }
      s.modItem i.key (fun j => { j with
        phase := .taken c t, boundAt := s.now, waitNs := saturate 0xFFFF_FFFF (s.now - j.fetchAt), ratioAt := s.now })
    | _, _ => s)

/-- The pieces a copy writes: up to 4,096 B each, cut at 4,096 B of the destination (R587). -/
def copyPieces (va len : Nat) : List (Nat × Nat) :=
  if len = 0 then [] else
  (List.range ((va + len - 1) / 4096 - va / 4096 + 1)).map fun k =>
    let lo := max va ((va / 4096 + k) * 4096)
    (lo, min (va + len) ((va / 4096 + k + 1) * 4096) - lo)

/-- The device and the address there of a write at `va`, where it is remote; its translation is counted (R443). -/
def State.remoteDest (s : State) (r : MReq) (n va : Nat) : Option ((Nat × Nat) × State) :=
  match s.translate r n va true false with
  | (.ok ⟨some d, pa⟩, s) => some ((d, pa), s)
  | _ => none

/-- A write request of a copy; one that finds no route is a fault (R513, R590). -/
def State.copyAsk (s : State) (r : MReq) (n : Nat) (key : ItemKey) (type va d pa : Nat) (bs : List Byte) : Option MFault × State :=
  match s.request type (.copy key) r.code n d pa bs.length bs 0 key.queue (some va) with
  | (some f, s) => (some f, s.recordFault r n va true f)
  | (none, s) => (none, s)

/-- The pieces of a copy written by a mover: remote ones as WR packets, local ones line by line (R513). -/
def State.copyOut (s : State) (r : MReq) (n : Nat) (key : ItemKey) : List (Nat × Nat) → List Byte → Option MFault × State
  | [], _ => (none, s)
  | (va, len) :: rest, bs =>
    let write := match s.remoteDest r n va with
      | some ((d, pa), s) => s.copyAsk r n key ptWr va d pa (bs.take len)
      | none => s.writeVa r n (.copy key) key.queue va (bs.take len)
    match write with
    | (some f, s) => (some f, s)
    | (none, s) => s.copyOut r n key rest (bs.drop len)

/-- The last line of a COPY with CLOSE: a closing write where the destination is remote, else a release at chamber scope
(R445, R513). -/
def State.copyLast (s : State) (r : MReq) (n : Nat) (key : ItemKey) (va : Nat) (bs : List Byte) : Option MFault × State :=
  match s.remoteDest r n va with
  | some ((d, pa), s) => s.copyAsk r n key ptCloseWr va d pa bs
  | none => s.writeVa r n (.copy key) key.queue va bs

/-- Whether the last line of a COPY with CLOSE must wait: eight closing writes of its stream are unanswered (R446). -/
def State.closeBlocked (s : State) (r : MReq) (n va : Nat) : Bool :=
  match s.resolve r n va true false with
  | (.ok ⟨some d, _⟩, _) => 8 ≤ s.closesOut r.code n d
  | _ => false

/-- The end of the copy of item `k` on mover `d` of gallery `g`: its bytes counted, or its fault kept (R513, R514). -/
def State.copyOver (s : State) (k : ItemKey) (g d len : Nat) (f : Option MFault) : State :=
  let s := (s.modItem k (fun j => { j with unitDone := true, copied := len })).forget (.copy k)
  match f with
  | some f =>
    (s.wset DMV_FAULT_LAST (f.code * 2 ^ 24 + f.cause * 2 ^ 16 + k.queue % 4096) g d).endItem k f.code f.cause
  | none => (s.bump64 DMV_BYTES_LO_COUNT DMV_BYTES_HI_COUNT len g d).endItem k cServed 0

/-- The mover's work on a whole COPY: the source read, the destination written, and with CLOSE its last line last (R513). -/
def State.copyRun (s : State) (i : Item) (g d : Nat) : State :=
  let k := i.key
  let n := s.queueChamber k.queue
  let r := reqMover g d
  let dst := fieldAt i.line 0x18 8
  let len := fieldAt i.line 0x20 4
  let close := bitOf (fieldAt i.line 0x24 1) 0
  let body := if close then len - 64 else len
  match s.readVa r n (fieldAt i.line 0x10 8) len with
  | (.error f, s) => s.copyOver k g d len (some f)
  | (.ok bs, s) =>
    match s.copyOut r n k (copyPieces dst body) (bs.take body) with
    | (some f, s) => s.copyOver k g d len (some f)
    | (none, s) =>
      if !close then s.copyOver k g d len none else
      let (f, s) := s.copyLast r n k (dst + body) (bs.drop body)
      s.copyOver k g d len f

/-- Whether the copy of item `i` may run on mover `d` of gallery `g` (R446, R514, R632). -/
def State.copyMay (s : State) (i : Item) (g d : Nat) : Bool :=
  let last := fieldAt i.line 0x18 8 + fieldAt i.line 0x20 4 - 64
  !(i.ending.isSome || i.unitDone || s.copyHeld g i.key) &&
  !(bitOf (fieldAt i.line 0x24 1) 0 && s.closeBlocked (reqMover g d) (s.queueChamber i.key.queue) last)

/-- Whether mover `d` of gallery `g` serves a copy queued on it before that of `i`, a best-effort one that has not aged (R549; log entry
133). -/
def State.copyBehind (s : State) (i : Item) (g d : Nat) : Bool :=
  let first := fun (j : Item) => s.lcOrder (s.queueChamber j.key.queue) j.key.queue j.boundAt
  !first i && (s.moverItems g d).any (fun j => first j && s.copyMay j g d && !s.awaits (.copy j.key))

/-- COPY_COMPLETE: the mover of item `k` reads the source, in lines of other devices too, and writes the destination; the item ends
once every remote line is acknowledged (R438, R443, R513, R514, R549). -/
def execCopyComplete (k : ItemKey) (s : State) : Result :=
  .next (match s.item k with
    | none => s
    | some i =>
      match i.phase with
      | .mover g d =>
        if !s.copyMay i g d || s.copyBehind i g d then s else
        (s.remotely (.copy k) k.queue (fun f s => s.copyOver k g d (fieldAt i.line 0x20 4) (some f))
          (fun s => s.copyRun i g d)).deliver
      | _ => s)

/-- What an aborted copy of `lines` lines has written when it stops (R514, R536). -/
def State.copyPart (s : State) (i : Item) (g d lines : Nat) : State :=
  let n := s.queueChamber i.key.queue
  let r := reqMover g d
  match s.readVa r n (fieldAt i.line 0x10 8) (64 * lines) with
  | (.error _, s) => s
  | (.ok bs, s) => (s.copyOut r n i.key (copyPieces (fieldAt i.line 0x18 8) (64 * lines)) bs).2

/-- DMV_ABORT_ACK: an aborted copy has stopped after some lines, how many is open, and acknowledges; of a source on another device
whose lines it does not have it has written none (R514, R536). -/
def execDmvAbortAck (k : ItemKey) (s : State) : Result :=
  .next (match s.item k with
    | none => s
    | some i =>
      match i.phase with
      | .mover g d =>
        if i.ending.isNone || i.unitDone then s else
        let (lines, s) := s.draw (fieldAt i.line 0x20 4 / 64)
        let s := (s.unlessRemote (.copy k) (fun s => s.copyPart i g d lines)).forget (.copy k)
        let s := s.bump64 DMV_BYTES_LO_COUNT DMV_BYTES_HI_COUNT (64 * lines) g d
        let s := (s.bump DMV_ABORTS_COUNT 1 g d).bump LSQ_ABORTS_COUNT 1 g
        ((s.modItem k (fun j => { j with unitDone := true, copied := 64 * lines })).settle k).deliver
      | _ => s)

/-- An AT.APPEND that waits for pages (R283). -/
def EngOp.suspended (o : EngOp) : Bool := o.eng == .atu && opcodeOf o.word == 0x89 && o.aux.headD 0 == 1 && !o.aborted

/-- Whether the item has a suspended append. -/
def State.appendWaits (s : State) (k : ItemKey) : Bool := s.engOps.any (fun o => o.item == k && o.suspended)

/-- A suspended append of item `k` is given up and ends with `code`: its strand waits no longer for its status word (R283, R306, R308). -/
def State.dropAppend (s : State) (k : ItemKey) (code : Nat) : State :=
  match s.engOps.find? (fun o => o.item == k && o.suspended) with
  | none => s
  | some o =>
    let s := s.opEnded o code 0
    let x := (s.strand o.core o.strand).unmark (regMask o.sreg)
    let x := if x.mode = .waiting ∧ x.wait = .pages then
      { x with mode := .ready, wait := .none, readyAt := s.tb, run := 0 } else x
    (s.setStrand o.core o.strand x).dropEng o.id

/-- ITEM_TIMEOUT: TIMEOUT_US after its fetch an item is aborted alone (R523); with a suspended append it ends
REFUSED_KV_MIDSTREAM (R283). -/
def execItemTimeout (q seq : Nat) (s : State) : Result :=
  .next (match s.item ⟨q, seq, none⟩ with
    | none => s
    | some i =>
      let us := (s.queue q).timeoutUs
      if us ≠ 0 ∧ i.fetchAt + 1000 * us ≤ s.now then
        if s.appendWaits i.key then
          let s := s.bump ATU_MIDSTREAM_COUNT 1 (s.queueChamber q)
          (s.dropAppend i.key cKvMidstream).abortItem i.key cKvMidstream
        else s.abortItem i.key cTimeout
      else s)

/-! ### The queue-work instructions (R516, R560) -/

/-- A queue-work word with a bit of [52:0] set, or an odd register where an even one is required, is illegal (R56, R516;
log entry 5). -/
def qwBad (w : Word64) (even : Bool) : Bool := bitsOf w.toNat 52 0 != 0 || (even && rdOf w % 2 == 1)

/-- QW.END: ends the LAUNCH item; from a task strand, both its items end with cause WRONG_END (R516). -/
def execQwEnd (c t : Nat) (s : State) : Result :=
  .next (s.issue c t (fun w => opcodeOf w == 0xB0) fun w x s =>
    if qwBad w false then s.failStrand c t cProgram 1
    else if x.task then s.failStrand c t cProgram 4
    else match x.item with
      | some k => s.endItem k cServed 0
      | none => s)

/-- QW.TAKE: waits until a MESSAGE of the served queue is dispatched to this task (R516). -/
def execQwTake (c t : Nat) (s : State) : Result :=
  .next (s.issue c t (fun w => opcodeOf w == 0xB1) fun w x s =>
    if qwBad w true then s.failStrand c t cProgram 1
    else if !x.task then s.failStrand c t cProgram 2
    else if x.taken.isSome then s.failStrand c t cProgram 3
    else s.needing c t (pairMask (rdOf w))
      (s.setStrand c t { x with mode := .waiting, wait := .take, run := 0, readyAt := s.tb, dropped := false }))

/-- QW.DONE: completes the taken item as QW.END would; the task keeps its strand (R516). -/
def execQwDone (c t : Nat) (s : State) : Result :=
  .next (s.issue c t (fun w => opcodeOf w == 0xB2) fun w x s =>
    if qwBad w false then s.failStrand c t cProgram 1
    else if !x.task then s.failStrand c t cProgram 2
    else match x.taken with
      | some k => (s.advance c t { x with taken := none }).endItem k cServed 0
      | none => if x.dropped then s.advance c t { x with dropped := false } else s.failStrand c t cProgram 3)

/-- QW.EXIT: ends the task and its TASK item; a MESSAGE still held ends ABORTED (R516; log entry 6). -/
def execQwExit (c t : Nat) (s : State) : Result :=
  .next (s.issue c t (fun w => opcodeOf w == 0xB3) fun w x s =>
    if qwBad w false then s.failStrand c t cProgram 1
    else if !x.task then s.failStrand c t cProgram 2
    else
      let s := match x.taken with
        | some k => s.endItem k cAborted 0
        | none => s
      match x.item with
      | some k => s.endItem k cServed 0
      | none => s)

/-- QW.LIVE: declares where the strand's live scratchpad state lies (R560). -/
def execQwLive (c t : Nat) (s : State) : Result :=
  .next (s.issue c t (fun w => opcodeOf w == 0xB4) fun w x s =>
    let off := (x.reg (rdOf w)).toNat
    let len := (x.reg (rdOf w + 1)).toNat
    let declared := match x.item with
      | some k => match s.item k with | some i => i.scratch | none => 0
      | none => 0
    s.needing c t (pairMask (rdOf w))
      (if qwBad w true || off % 64 != 0 || len % 64 != 0 || declared < len || 0x20_0000 < off + len then
        s.failStrand c t cProgram 1
       else s.advance c t { x with liveOff := off, liveLen := len }))

end Sys2Proof.Machine
end

