-- ==== Sys2Proof/Machine/Graphs.lean ====
section
/-! DEFINITION. Stored graphs: images, versions, patches, the dispatch of nodes and destruction (R526 to R533). -/

namespace Sys2Proof.Machine

/-- GFE_GCMD_STATUS of chamber `n` after a command: DONE, or REFUSED with RESULT (R540). -/
def State.gcmdEnd (s : State) (n state result : Nat) : State :=
  let s := s.fset GFE_GCMD_STATUS_STATE state n
  s.fset GFE_GCMD_STATUS_RESULT result n

def State.gcmdRefuse (s : State) (n result : Nat) : State := s.gcmdEnd n 3 result

/-- The graph area of chamber `n`: base and bytes (R526, R540). -/
def State.graphArea (s : State) (n : Nat) : Nat × Nat :=
  (s.fget GFE_GAREA_HI_ADDR n * 2 ^ 32 + s.fget GFE_GAREA_LO_ADDR n * 2 ^ 16, s.fget GFE_GAREA_SIZE_MIB n * 2 ^ 20)

/-- Launches of graph `g` of chamber `n` that have no record. -/
def State.launches (s : State) (n g : Nat) : List Item :=
  s.items.filter (fun i => i.kind == kindGraph && i.key.node.isNone && s.queueChamber i.key.queue == n &&
    fieldAt i.line 0x10 1 == g)

/-- Graphs destroyed whose last launch has its record are gone, and versions that are not live are freed with every buffer
that no live version uses (R531, R533). -/
def State.pruneGraphs (s : State) : State :=
  let kept := s.graphs.filter (fun e => !(e.2.destroyed && (s.launches (e.1 / 64) (e.1 % 64)).isEmpty))
  { s with graphs := kept.map (fun (e : Nat × Graph) =>
      (e.1, { e.2 with versions := e.2.versions.filter (fun v => s.versionLive (e.1 / 64) (e.1 % 64) e.2 v.version) })) }

def State.setGraph (s : State) (n g : Nat) (G : Graph) : State :=
  { s with graphs := (64 * n + g, G) :: s.graphs.filter (fun e => e.1 != 64 * n + g) }

/-- Ranges of the area in use: images and buffers of live versions. -/
def State.areaUsed (s : State) (n : Nat) : List (Nat × Nat) :=
  (s.graphs.filter (fun e => e.1 / 64 == n)).flatMap (fun e =>
    (e.2.imageOff, e.2.imageLen) :: e.2.versions.flatMap (fun v => v.bufs.map (fun b => (b.off, b.len))))

/-- The lowest place in the area with room for `len` bytes, at a multiple of 64 (R528; log entry 18). -/
def State.areaPlace (s : State) (n len : Nat) : Option Nat :=
  let used := s.areaUsed n
  let size := (s.graphArea n).2
  let cands := (0 :: used.map (fun u => roundUp (u.1 + u.2) 64)).filter (fun o =>
    o + len ≤ size && used.all (fun u => !(o < u.1 + u.2 && u.1 < o + len)))
  argMin id cands

/-- The address a graph command names. -/
def State.gcmdAddr (s : State) (n : Nat) : Nat :=
  s.fget GFE_GCMD_ADDR_HI_ADDR n * 2 ^ 32 + s.fget GFE_GCMD_ADDR_LO_ADDR n * 64

/-- The GO write of a graph command on chamber set `n`: OP 1 CREATE, 2 PATCH, 3 DESTROY; BUSY, then BAD_OP, then NOT_LIVE
are judged here, the other refusals when the command runs (R503). DESTROY runs at once (R533). -/
def State.gcmd (s : State) (n op g : Nat) : State :=
  if s.fget GFE_GCMD_STATUS_STATE n == 1 then s.fset GFE_GCMD_STATUS_REFUSED_BUSY 1 n
  else
    let s := s.fset GFE_GCMD_OP op n
    let s := s.fset GFE_GCMD_GRAPH g n
    if op == 0 then s.gcmdRefuse n 0x08
    else if !s.chLive n then s.gcmdRefuse n 0x07
    else if op == 3 then
      let s := s.pruneGraphs
      match s.graph n g with
      | some G => if G.destroyed then s.gcmdRefuse n 0x04
          else ((s.setGraph n g { G with destroyed := true }).pruneGraphs).gcmdEnd n 2 0
      | none => s.gcmdRefuse n 0x04
    else (s.fset GFE_GCMD_STATUS_STATE 1 n).beginCmd (2 * n + 1) ⟨op, g, s.gcmdAddr n⟩

/-- GRAPH_CREATE: the GO write of GFE_GCMD with OP CREATE (R528). -/
def execGraphCreate (r : Requester) (n g : Nat) (s : State) : Result :=
  .next (if s.mayWriteSet r n then s.gcmd n 1 g else s)

/-- PATCH: the GO write of GFE_GCMD with OP PATCH (R532). -/
def execPatch (r : Requester) (n : Nat) (s : State) : Result :=
  .next (if s.mayWriteSet r n then s.gcmd n 2 (s.fget GFE_GCMD_GRAPH n) else s)

/-- GRAPH_DESTROY: the GO write of GFE_GCMD with OP DESTROY (R533). -/
def execGraphDestroy (r : Requester) (n g : Nat) (s : State) : Result :=
  .next (if s.mayWriteSet r n then s.gcmd n 3 g else s)

/-- Node record `k` of an image. -/
def nodeRecord (img : List Byte) (k : Nat) : List Byte := slice img (0x40 + 128 * k) 128

/-- A node record keeps R527: an item of kind LAUNCH, COPY or MARKER that R508 admits, dependencies lower than its own
index, and a parameter of the table. -/
def nodeOk (img : List Byte) (params k : Nat) : Bool :=
  let b := nodeRecord img k
  let kind := fieldAt b 0 1
  let deps := fieldAt b 0x40 1
  let par := fieldAt b 0x42 2
  (kind == kindLaunch || kind == kindCopy || kind == kindMarker) && bodyOk b kind && fieldAt b 1 1 ≤ 1 && deps ≤ 28 &&
  zeroAt b 0x41 1 && (par == 0xFFFF || par < params) && zeroAt b 0x44 4 &&
  (List.range deps).all (fun d => fieldAt b (0x48 + 2 * d) 2 < k)

/-- Parameter entry `p` of an image of `nodes` nodes: offset and length. -/
def paramEntry (img : List Byte) (nodes p : Nat) : Nat × Nat :=
  let o := 0x40 + 128 * nodes + 16 * p
  (fieldAt img o 4, fieldAt img (o + 4) 4)

/-- A parameter entry keeps R527. -/
def paramOk (img : List Byte) (nodes len p : Nat) : Bool :=
  let (o, l) := paramEntry img nodes p
  o % 64 == 0 && l % 64 == 0 && 64 ≤ l && l ≤ 1_048_576 && o + l ≤ len &&
  zeroAt img (0x40 + 128 * nodes + 16 * p + 8) 8

/-- An image keeps R527. -/
def imageOk (img : List Byte) : Bool :=
  let nodes := fieldAt img 4 2
  let params := fieldAt img 6 2
  let len := fieldAt img 8 4
  fieldAt img 0 4 == 0x52475841 && 1 ≤ nodes && nodes ≤ 4096 && params ≤ 256 && zeroAt img 0xC 52 &&
  0x40 + 128 * nodes + 16 * params ≤ len &&
  (List.range nodes).all (nodeOk img params) && (List.range params).all (paramOk img nodes len)

/-- A running CREATE copies its image into the area as version 1, or reports its refusal (R528). -/
def State.graphCreate (s : State) (n : Nat) : State :=
  let s := s.pruneGraphs
  let cmd := s.gfeCmd (2 * n + 1)
  let g := cmd.arg
  let r := s.reqGfe n
  match s.readVa r n (cmd.addr) 64 with
  | (.error _, s) => s.gcmdRefuse n 0x06
  | (.ok h, s) =>
    match s.readVa r n (cmd.addr) (fieldAt h 8 4) with
    | (.error _, s) => s.gcmdRefuse n 0x06
    | (.ok img, s) =>
      if !imageOk img then s.gcmdRefuse n 0x01
      else if (s.graph n g).isSome then s.gcmdRefuse n 0x04
      else match s.areaPlace n img.length with
        | none => s.gcmdRefuse n 0x02
        | some o =>
          match s.writeVa r n (.copy ⟨4096 + n, 0, none⟩) 0xFFFF ((s.graphArea n).1 + o) img with
          | (some _, s) => s.gcmdRefuse n 0x06
          | (none, s) =>
            let nodes := fieldAt img 4 2
            let bufs := (List.range (fieldAt img 6 2)).map (fun p =>
              let (po, pl) := paramEntry img nodes p
              ({ off := o + po, len := pl } : GraphBuf))
            let G : Graph := { nodes := (List.range nodes).map (nodeRecord img), imageOff := o, imageLen := img.length,
                               versions := [{ version := 1, bufs := bufs }], newest := 1, destroyed := false }
            ((s.setGraph n g G).gcmdEnd n 2 0).fset GFE_GCMD_STATUS_VERSION 1 n

/-- The running graph command of chamber set `n`, if its OP is `op`, run to its end; a chamber that is no longer LIVE refuses it (R105,
R443, R503). -/
def State.gcmdRun (s : State) (n op : Nat) (run : State → State) : State :=
  if s.fget GFE_GCMD_STATUS_STATE n != 1 || (s.gfeCmd (2 * n + 1)).op != op then s
  else if !s.chLive n then s.gcmdRefuse n 0x07
  else (s.remotely (.command (2 * n + 1)) 0xFFFF (fun _ s => s.gcmdRefuse n 0x06) run).deliver

/-- GRAPH_CREATE_DONE: the CREATE that runs in chamber set `n` ends (R528). -/
def execGraphCreateDone (n : Nat) (s : State) : Result := .next (s.gcmdRun n 1 (fun s => s.graphCreate n))

/-- Whether a launch bound to a live version may still read a buffer (R532). -/
def State.bufferInUse (s : State) (n g p : Nat) (G : Graph) (b : GraphBuf) : Bool :=
  (s.launches n g).any (fun i => G.versions.any (fun v => v.version == i.version && v.bufs.getD p ⟨0, 0⟩ == b))

/-- A version of graph `g` of chamber `n` with `new` in its buffer `p` from `off`: the buffer is copied first where a launch may still
read it (R531, R532). -/
def State.patchBuffer (s : State) (n g p off : Nat) (G : Graph) (bufs : List GraphBuf) (buf : GraphBuf) (new : List Byte) : State :=
  let r := s.reqGfe n
  let base := (s.graphArea n).1
  match (if s.bufferInUse n g p G buf then s.areaPlace n buf.len else some buf.off) with
  | none => s.gcmdRefuse n 0x02
  | some o =>
    match s.readVa r n (base + buf.off) buf.len with
    | (.error _, s) => s.gcmdRefuse n 0x06
    | (.ok old, s) =>
      match s.writeVa r n (.copy ⟨4096 + n, 0, none⟩) 0xFFFF (base + o) (overlay old off new) with
      | (some _, s) => s.gcmdRefuse n 0x06
      | (none, s) =>
        let v := nextEpoch G.newest
        let G := { G with versions := G.versions ++ [{ version := v, bufs := bufs.set p { off := o, len := buf.len } }], newest := v }
        (((s.setGraph n g G).pruneGraphs).gcmdEnd n 2 0).fset GFE_GCMD_STATUS_VERSION v n

/-- A running PATCH reads its record and makes the next version, which becomes the newest (R531, R532). -/
def State.graphPatch (s : State) (n : Nat) : State :=
  let s := s.pruneGraphs
  match s.readVa (s.reqGfe n) n (s.gfeCmd (2 * n + 1)).addr 32 with
  | (.error _, s) => s.gcmdRefuse n 0x06
  | (.ok b, s) =>
    let g := fieldAt b 0 2
    let p := fieldAt b 2 2
    let off := fieldAt b 4 4
    let len := fieldAt b 8 4
    match (if g < 64 then s.graph n g else none) with
    | none => s.gcmdRefuse n 0x04
    | some G =>
      let cur := (G.versions.find? (fun v => v.version == G.newest)).getD ⟨0, []⟩
      match cur.bufs[p]? with
      | none => s.gcmdRefuse n 0x04
      | some buf =>
        if G.destroyed || buf.len < off + len then s.gcmdRefuse n 0x04
        else if 16 ≤ G.versions.length then s.gcmdRefuse n 0x03
        else if s.bufferInUse n g p G buf && (s.areaPlace n buf.len).isNone then s.gcmdRefuse n 0x02
        else
          match s.readVa (s.reqGfe n) n (fieldAt b 0x10 8) len with
          | (.error _, s) => s.gcmdRefuse n 0x06
          | (.ok new, s) => s.patchBuffer n g p off G cur.bufs buf new

/-- PATCH_DONE: a running PATCH ends (R532). -/
def execPatchDone (n : Nat) (s : State) : Result := .next (s.gcmdRun n 2 (fun s => s.graphPatch n))

/-- The item of a node as a launch on `version` runs it: its PARAM buffer replaces ARGS in a LAUNCH and SRC in a COPY
(R527). -/
def State.nodeItem (s : State) (n : Nat) (G : Graph) (version : Nat) (rec_ : List Byte) : List Byte :=
  let line := slice rec_ 0 64
  let par := fieldAt rec_ 0x42 2
  match ((G.versions.find? (fun v => v.version == version)).getD ⟨0, []⟩).bufs[par]? with
  | none => line
  | some b =>
    let va := leBytes 8 ((s.graphArea n).1 + b.off)
    if fieldAt line 0 1 == kindLaunch then overlay line 0x18 va
    else if fieldAt line 0 1 == kindCopy then overlay line 0x10 va else line

/-- GRAPH_NODE_DISPATCH: a node is dispatched when every node it depends on has served and none has failed; a MARKER node
ends at once (R529, R530). -/
def execGraphNodeDispatch (q seq k : Nat) (s : State) : Result :=
  .next (match s.item ⟨q, seq, none⟩ with
    | none => s
    | some p =>
      let n := s.queueChamber q
      match s.graph n (fieldAt p.line 0x10 1) with
      | none => s
      | some G =>
        match G.nodes[k]? with
        | none => s
        | some rec_ =>
          let started := p.ended.any (fun e => e.1 == k) || (s.item ⟨q, seq, some k⟩).isSome
          let deps := (List.range (fieldAt rec_ 0x40 1)).map (fun d => fieldAt rec_ (0x48 + 2 * d) 2)
          let ready := deps.all (fun d => p.ended.any (fun e => e.1 == d))
          if p.kind != kindGraph || p.ending.isSome || started || !ready || (firstFailure p.ended).isSome then s else
          let i := Item.fetched ⟨q, seq, some k⟩ (s.nodeItem n G p.version rec_) p.epoch s.now
          if i.kind == kindMarker then
            ({ s with items := s.items ++ [{ i with phase := .gfe }] }).endItem i.key cServed 0
          else if (s.itemGalleries i).isEmpty || !((s.itemGalleries i).any s.galleryLive) then
            ({ s with items := s.items ++ [i] }).endItem i.key cUnavailable 0
          else match s.pickGallery i with
            | none => s
            | some g => ({ s with items := s.items ++ [i] }).place i g)

end Sys2Proof.Machine
end

