-- ==== Sys2Proof/Machine/Flags.lean ====
section
/-! DEFINITION. The sticky flags of the engines, the stochastic-rounding generators, and the rounding of a list of results
with them (R138 to R141, R154 to R161). -/

namespace Sys2Proof.Machine

/-! ### Sticky flags -/

/-- The engines that keep sticky flags (R154). -/
inductive FlagSet where
  | mxe | vxe | sfu | atu | rte
deriving DecidableEq, Repr

/-- The flag register of an engine (R158). -/
def FlagSet.reg : FlagSet → Reg
  | .mxe => MXE_FLAGS
  | .vxe => VXE_FLAGS
  | .sfu => SFU_FLAGS
  | .atu => ATU_FLAGS
  | .rte => RTE_FLAGS

/-- The four flags together, OF in bit 0 (R159). -/
def FlagSet.bits (e : FlagSet) : Fld := ⟨e.reg, 3, 0⟩

def FlagSet.first (e : FlagSet) : Fld := ⟨e.reg, 30, 18⟩

/-- Flags set by an instruction of `strand`: they stay until software clears them, and FIRST_STRAND is recorded when all
were clear; RTE_FLAGS reads 0 there (R154, R157, R159). -/
def State.raise (s : State) (e : FlagSet) (inst strand : Nat) (f : Flags) : State :=
  if f.bits = 0 then s else
  let old := s.fget e.bits inst
  let s := s.fset e.bits (old ||| f.bits) inst
  if old = 0 ∧ e ≠ .rte then s.fset e.first strand inst else s

/-- Flags cleared by software: FIRST_STRAND returns to 0 when none is left (R160, R161). -/
def State.lower (s : State) (e : FlagSet) (inst mask : Nat) : State :=
  let old := s.fget e.bits inst
  let left := old - (old &&& mask)
  let s := s.fset e.bits left inst
  if left = 0 then s.fset e.first 0 inst else s

/-- The union of some flags. -/
def Flags.all (l : List Flags) : Flags := l.foldl Flags.or Flags.zero

/-! ### Generators -/

/-- A generator as zeroisation leaves it, and, as the model's choice, at reset (R106, R163). -/
def SrGen.fresh : SrGen := { x := 1, left := 0, seedLo := 0 }

/-- One generator step (R139). -/
def srStep (x : Nat) : Nat :=
  let a := x ^^^ (x <<< 13) % 2 ^ 64
  let b := a ^^^ (a >>> 7)
  b ^^^ (b <<< 17) % 2 ^ 64

/-- The generator of core `c`: the MXE's for `vxe` false, the VXE's for true. -/
def State.srGen (s : State) (c : Nat) (vxe : Bool) : SrGen := smGet (fun _ => SrGen.fresh) s.sr (2 * c + b2n vxe)

def State.setSrGen (s : State) (c : Nat) (vxe : Bool) (g : SrGen) : State :=
  { s with sr := smPut (fun _ => SrGen.fresh) s.sr (2 * c + b2n vxe) g }

/-- The next 16-bit draw: each step yields four, from bits [63:48] down (R139). -/
def SrGen.next (g : SrGen) : Nat × SrGen :=
  let g := if g.left = 0 then { g with x := srStep g.x, left := 4 } else g
  (bitsOf g.x (16 * g.left - 1) (16 * g.left - 16), { g with left := g.left - 1 })

/-- `n` draws. -/
def SrGen.draws (g : SrGen) : Nat → List Nat × SrGen
  | 0 => ([], g)
  | n + 1 =>
    let (d, g) := g.next
    let (ds, g) := g.draws n
    (d :: ds, g)

/-- A list in an order the device does not define. -/
def State.shuffle (s : State) : Nat → List Nat → List Nat × State
  | 0, l => (l, s)
  | n + 1, l =>
    match l with
    | [] => ([], s)
    | _ =>
      let (k, s) := s.draw l.length
      let (r, s) := s.shuffle n (l.eraseIdx k)
      (l.getD k 0 :: r, s)

/-- SR_SEED_HI written: the generator loads the seed, 0 as 1 (R140). -/
def State.loadSeed (s : State) (c : Nat) (vxe : Bool) (hi : Nat) : State :=
  let g := s.srGen c vxe
  let x := hi % 2 ^ 32 * 2 ^ 32 + g.seedLo
  s.setSrGen c vxe { g with x := if x = 0 then 1 else x, left := 0 }

/-! ### Rounding results -/

/-- Values rounded by RNE into format `c`, with the flags they set. -/
def roundRne (c : Nat) (sat : Bool) (vals : List Val) : List Nat × Flags :=
  let r := vals.map (encode c sat .rne)
  (r.map (·.1), Flags.all (r.map (·.2)))

/-- Values rounded stochastically, one draw for each that is not representable. -/
def roundSr (c : Nat) (sat : Bool) : List Nat → List Val → List (Nat × Flags)
  | _, [] => []
  | ds, v :: vs =>
    let (r, ds') := if drawsFor c v then (ds.headD 0, ds.drop 1) else (0, ds)
    encode c sat (.sr r) v :: roundSr c sat ds' vs

/-- Results rounded into format `c`, each with its flags: by RNE, or stochastically with the generator of core `core`, which draw goes
to which element being open (R133, R138, R139). -/
def State.roundEach (s : State) (core : Nat) (vxe rnd : Bool) (c : Nat) (sat : Bool) (vals : List Val) :
    List (Nat × Flags) × State :=
  if !rnd then (vals.map (encode c sat .rne), s) else
  let n := (vals.filter (drawsFor c)).length
  let (ds, g) := (s.srGen core vxe).draws n
  let (ds, s) := (s.setSrGen core vxe g).shuffle n ds
  (roundSr c sat ds vals, s)

/-- The encodings of some rounded results, and the flags they set together. -/
def codesOf (r : List (Nat × Flags)) : List Nat := r.map (·.1)
def flagsOf (r : List (Nat × Flags)) : Flags := Flags.all (r.map (·.2))

/-! ### Sums whose error is open (R131) -/

/-- A free rational between −1 and 1: every one is possible. -/
def State.drawUnit (s : State) : Rat × State :=
  let a := Config.freeNat s.free
  let b := Config.freeNat (s.free + 1)
  ((((a % (2 * b + 3) : Nat) : Int) - (b + 1 : Nat) : Int) / ((b + 1 : Nat) : Rat), { s with free := s.free + 2 })

/-- The exact sum of finite terms, and the sum of their magnitudes. -/
def sums (terms : List Val) : Rat × Rat :=
  terms.foldl (fun a v => (a.1 + v.rat, a.2 + (if v.rat < 0 then -v.rat else v.rat))) (0, 0)

/-- A sum of `n` terms whose error is at most `u` times the sum of their magnitudes; NaN and infinities as R142 gives them,
and whether the sum forms a NaN. Two operands that cancel give an exact zero. With a NaN among opposite infinities the order decides
that, and it is open (R131, R137, R142). -/
def State.accumulate (s : State) (u : Rat) (terms : List Val) : (Val × Bool) × State :=
  let pos := terms.any (fun v => v == .inf false)
  let neg := terms.any (fun v => v == .inf true)
  if terms.any Val.isNan then
    if pos && neg then
      let (b, s) := s.draw 2
      ((.nan, b == 1), s)
    else ((.nan, false), s)
  else if pos && neg then ((.nan, true), s)
  else if pos then ((.inf false, false), s)
  else if neg then ((.inf true, false), s)
  else
    let (x, mag) := sums terms
    let one := (terms.filter (fun v => !v.isZero)).length ≤ 2 && x == 0
    let (e, s) := if terms.length ≤ 1 || one then (0, s) else s.drawUnit
    let y := x + e * u * mag
    if y = 0 then ((.fin (!terms.isEmpty && terms.all Val.neg) 0, false), s)
    else ((Val.ofRat y, false), s)

end Sys2Proof.Machine
end

