-- ==== Sys2Proof/Machine/Ordering.lean ====
section
/-! DEFINITION. Memory ordering: the memory instructions, the performing of their accesses at the home, fences, the read
cache and ordering debug mode (R412 to R452). -/

namespace Sys2Proof.Machine

/-! ### Fields and decode (R420, R421) -/

def moSize (w : Word64) : Nat := bitsOf w.toNat 43 42
def moOrd (w : Word64) : Nat := bitsOf w.toNat 41 40
def moScope (w : Word64) : Nat := bitsOf w.toNat 39 38
def moBypass (w : Word64) : Bool := bitOf w.toNat 37
def moClose (w : Word64) : Bool := bitOf w.toNat 36
def moAop (w : Word64) : Nat := bitsOf w.toNat 35 32
def moSx (w : Word64) : Bool := bitOf w.toNat 44

/-- Bytes of an access. -/
def moBytes (w : Word64) : Nat := 2 ^ moSize w

/-- ORD is admitted for the opcode (R420). -/
def ordOk (w : Word64) : Bool :=
  match opcodeOf w with
  | 0xA0 => moOrd w == 0 || moOrd w == 1
  | 0xA1 => moOrd w == 0 || moOrd w == 2
  | 0xA2 => true
  | _ => moOrd w != 0

/-- A memory word that decode rejects, but for the alignment of its address (R421). -/
def moMalformed (w : Word64) : Bool :=
  let op := opcodeOf w
  bitsOf w.toNat 46 45 != 0 || !ordOk w ||
  raOf w % 2 == 1 || (moSize w == 3 && rdOf w % 2 == 1) ||
  (moClose w && !(op == 0xA1 && moOrd w == 2 && moScope w == 3)) ||
  (moBypass w && op != 0xA0) || (moSx w && (op != 0xA0 || 2 ≤ moSize w)) ||
  (op == 0xA2 && moSize w == 3 && rbOf w % 2 == 1) ||
  (op == 0xA2 && (8 ≤ moAop w || moSize w < 2 || (moAop w == 1 && moSize w == 3)))

/-- The effective address (R420). -/
def moAddr (w : Word64) (x : Strand) : Nat := addr57' (x.addrPair (raOf w)) (toSigned 32 (immOf w))
where
  addr57' (a : Nat) (d : Int) : Nat := (((a : Int) + d) % (2 ^ 57 : Nat)).toNat

/-- The register that a size uses: one, or an even and odd pair (R423). -/
def sizedMask (r size : Nat) : Nat := if size = 3 then pairMask r else regMask r

/-- The value of a register, or of a pair for SIZE 3 (R423). -/
def Strand.sized (x : Strand) (r size : Nat) : Nat :=
  if size = 3 then (x.reg r).toNat + 2 ^ 32 * (x.reg (r + 1)).toNat else (x.reg r).toNat % 2 ^ (8 * 2 ^ size)

/-- A value placed in a register, or in a pair for SIZE 3 (R423). -/
def Strand.setSized (x : Strand) (r size v : Nat) : Strand :=
  if size = 3 then (x.setReg r (BitVec.ofNat 32 v)).setReg (r + 1) (BitVec.ofNat 32 (v / 2 ^ 32))
  else x.setReg r (BitVec.ofNat 32 v)

/-- A loaded value as RD receives it: zeros or copies of the top bit above 1 and 2 bytes (R423). -/
def extend (sx : Bool) (bytes v : Nat) : Nat :=
  if sx then ofSigned 32 (toSigned (8 * bytes) v) else v

/-! ### Issue -/

/-- Scope as it is performed: group scope acts at chamber scope for a chamber outside the mask (R419). -/
def State.effScope (s : State) (n scope : Nat) : Nat := if scope = 3 ∧ s.inGroup n = false then 2 else scope

/-- The item that a strand's accesses belong to: the MESSAGE it holds, else its own (R516). -/
def Strand.current (x : Strand) : Option ItemKey := x.taken.orElse (fun _ => x.item)

/-- A memory instruction issued: its address is translated, and its access joins those the core has not yet performed
(R413, R420 to R423). -/
def State.issueMem (s : State) (c t : Nat) (mine : Word64 → Bool) (kind : Word64 → OpKind) : State :=
  s.issue c t mine fun w x s =>
    let size := moSize w
    let k := kind w
    let data := match k with | .store => rdOf w | _ => rbOf w
    let need := pairMask (raOf w) ||| sizedMask (rdOf w) size |||
      (match k with | .amo _ => sizedMask (rbOf w) size | _ => 0)
    if moMalformed w then s.failStrand c t cFormat 0 else
    s.needing c t need (
      let va := moAddr w x
      let wr := match k with | .load => false | _ => true
      if va % moBytes w != 0 then s.failStrand c t cFormat 0
      else
        let n := s.coreChamber c
        match s.translate (reqCore c) n va wr false with
        | (.error f, s) => (s.deliver).failStrand c t f.code f.cause
        | (.ok tg, next) =>
          if k == .store && 32 ≤ (s.pendingLines c).length && !(s.pendingLines c).contains (tg.device, tg.pa / 64) then
            s.stall c t .lines
          else
          let s := next.deliver
          let ord := moOrd w
          let o : MemOp :=
            { id := s.ms.nextId, core := c, strand := t, chamber := n, item := x.current.getD ⟨0, 0, none⟩, kind := k,
              remote := tg.device, va := va, addr := tg.pa, size := size,
              data := (match k with | .amo 3 => x.sized (rdOf w) size | _ => x.sized data size),
              cmp := (match k with | .amo 3 => x.sized (rbOf w) size | _ => 0), rd := rdOf w, sx := moSx w,
              acq := ord == 1 || ord == 3, rel := ord == 2 || ord == 3, scope := s.effScope n (moScope w),
              bypass := moBypass w, close := moClose w && tg.device.isSome && s.inGroup n,
              issuedAt := s.now, sent := none, own := [] }
          let s : State := { s with ms := { s.ms with ops := s.ms.ops ++ [o], nextId := s.ms.nextId + 1 } }
          let s := if wr && tg.device.isSome then
              s.modItem o.item (fun i => { i with remote := true }) else s
          let mark := match k with | .store => 0 | _ => sizedMask (rdOf w) size
          s.advance c t (x.mark mark))

/-- MO.LD (R420, R423). -/
def execMoLd (c t : Nat) (s : State) : Result :=
  .next (s.issueMem c t (fun w => opcodeOf w == 0xA0) (fun _ => .load))

/-- MO.ST (R420, R423). -/
def execMoSt (c t : Nat) (s : State) : Result :=
  .next (s.issueMem c t (fun w => opcodeOf w == 0xA1) (fun _ => .store))

/-- The word is a MO.AMO with operation `aop`. -/
def isAmo (aop : Nat) (w : Word64) : Bool := opcodeOf w == 0xA2 && moAop w == aop

/-- MO.AMO ADD (R422). -/
def execAdd (c t : Nat) (s : State) : Result := .next (s.issueMem c t (isAmo 0) (fun _ => .amo 0))

/-- MO.AMO FADD (R422). -/
def execFadd (c t : Nat) (s : State) : Result := .next (s.issueMem c t (isAmo 1) (fun _ => .amo 1))

/-- MO.AMO SWAP (R422). -/
def execSwap (c t : Nat) (s : State) : Result := .next (s.issueMem c t (isAmo 2) (fun _ => .amo 2))

/-- MO.AMO CAS (R422). -/
def execCas (c t : Nat) (s : State) : Result := .next (s.issueMem c t (isAmo 3) (fun _ => .amo 3))

/-- MO.AMO SMAX (R422). -/
def execSmax (c t : Nat) (s : State) : Result := .next (s.issueMem c t (isAmo 4) (fun _ => .amo 4))

/-- MO.AMO SMIN (R422). -/
def execSmin (c t : Nat) (s : State) : Result := .next (s.issueMem c t (isAmo 5) (fun _ => .amo 5))

/-- MO.AMO OR (R422). -/
def execAmoOr (c t : Nat) (s : State) : Result := .next (s.issueMem c t (isAmo 6) (fun _ => .amo 6))

/-- MO.AMO AND (R422). -/
def execAmoAnd (c t : Nat) (s : State) : Result := .next (s.issueMem c t (isAmo 7) (fun _ => .amo 7))

/-! ### Fences (R431, R432) -/

/-- Accesses of the same strand issued before `o`. -/
def MemSys.earlier (m : MemSys) (o : MemOp) : List MemOp :=
  m.ops.filter (fun p => p.core == o.core && p.strand == o.strand && p.id < o.id)

/-- Whether a write that the strand of `o` observed before it is not yet performed (R424, R425). -/
def MemSys.awaitsObserved (m : MemSys) (o : MemOp) : Bool :=
  m.observed.any (fun e => e.core == o.core && e.strand == o.strand && e.access < o.id)

/-- A fence's orderings hold, so that it no longer holds anything back. An acquire fence also waits until the writes that the reads
before it observed are performed, so that what they release is (R428, R431). -/
def MemSys.fenceDone (m : MemSys) (o : MemOp) : Bool :=
  match o.kind with
  | .fence 1 => (m.earlier o).all (fun p => !p.kind.reads) && !m.awaitsObserved o
  | .fence _ => (m.earlier o).isEmpty && !m.awaitsObserved o
  | _ => false

/-- Fences whose orderings hold are done, in issue order; an acquire or full fence invalidates the read cache (R431,
R434). -/
def MemSys.sweep (m : MemSys) : MemSys :=
  (m.ops.filter (fun o => match o.kind with | .fence _ => true | _ => false)).foldl (fun m o =>
    if m.fenceDone o then
      let m := { m with ops := m.ops.filter (fun p => p.id != o.id) }
      if o.kind == .fence 2 then m else m.acquire o.core o.scope
    else m) m

/-- Fences swept, and the items that waited for them settled. -/
def State.sweep (s : State) : State := ({ s with ms := s.ms.sweep }).settleAll

/-- MO.FENCE of one KIND (R420, R431). -/
def State.issueFence (s : State) (c t kind : Nat) : State :=
  s.issue c t (fun w => opcodeOf w == 0xA3 && moOrd w == kind) fun w x s =>
    if moMalformed w then s.failStrand c t cFormat 0 else
    let n := s.coreChamber c
    let o : MemOp :=
      { id := s.ms.nextId, core := c, strand := t, chamber := n, item := x.current.getD ⟨0, 0, none⟩, kind := .fence kind,
        remote := none, va := 0, addr := 0, size := 0, data := 0, cmp := 0, rd := 0, sx := false, acq := false, rel := false,
        scope := s.effScope n (moScope w), bypass := false, close := false, issuedAt := s.now, sent := none, own := [] }
    let s := s.advance c t x
    ({ s with ms := { s.ms with ops := s.ms.ops ++ [o], nextId := s.ms.nextId + 1 } }).sweep

/-- MO.FENCE KIND 1, acquire (R431). -/
def execFenceAcquire (c t : Nat) (s : State) : Result := .next (s.issueFence c t 1)

/-- MO.FENCE KIND 2, release (R431). -/
def execFenceRelease (c t : Nat) (s : State) : Result := .next (s.issueFence c t 2)

/-- MO.FENCE KIND 3, full (R431, R432). -/
def execFenceFull (c t : Nat) (s : State) : Result := .next (s.issueFence c t 3)

/-! ### Performing an access (R413 to R447) -/

/-- Two accesses of one location (R412). -/
def MemOp.sameLine (o p : MemOp) : Bool := o.addr / 64 == p.addr / 64 && o.remote == p.remote

/-- The core's unperformed writes to the location of `o` that were issued before it, oldest first (R436). -/
def MemSys.forwarded (m : MemSys) (o : MemOp) : List MemOp :=
  m.ops.filter (fun p => p.core == o.core && p.id < o.id && p.kind == .store && p.sameLine o)

/-- One location: a strand's accesses to it in program order, and the core's writes to it in their issue order (R415). A load takes
the core's own unperformed writes, and an acquire waits for those of other strands, with which it may synchronise (R428, R436). -/
def MemSys.locationReady (m : MemSys) (o : MemOp) : Bool :=
  if o.kind == .load then
    (m.earlier o).all (fun p => !(p.sameLine o && p.kind.reads)) && (!o.acq || (m.forwarded o).all (fun p => p.strand == o.strand))
  else
    (m.earlier o).all (fun p => !p.sameLine o) &&
    m.ops.all (fun p => !(p.core == o.core && p.id < o.id && p.kind.writes && p.sameLine o))

/-- What a release waits for: every earlier access and every observed write; a closing write only for what lies outside its stream,
and for room at its target (R425, R445, R446). -/
def State.releaseReady (s : State) (o : MemOp) : Bool :=
  !s.ms.awaitsObserved o &&
  (if o.close then
    (s.ms.earlier o).all (fun p => p.remote == o.remote && p.kind == .store && p.sent.isSome) &&
      s.closesOut (reqCore o.core).code o.chamber (o.remote.getD 0) < 8
  else (s.ms.earlier o).isEmpty)

/-- Whether the rules let access `o` be performed (for a remote one, be sent) now: its location (R415); no write before an earlier read
has returned (R416); nothing before an earlier acquire (R426) nor past a fence (R431); an acquire after the strand's releases (R427);
a release after all that precedes it (R425). -/
def State.mayPerform (s : State) (o : MemOp) : Bool :=
  let e := s.ms.earlier o
  s.ms.locationReady o &&
  (!o.kind.writes || e.all (fun p => !p.kind.reads)) &&
  e.all (fun p => !(p.acq && p.kind.reads)) &&
  e.all (fun p => match p.kind with
    | .fence 2 => !o.kind.writes
    | .fence _ => false
    | _ => true) &&
  (!o.acq || e.all (fun p => !p.rel)) &&
  (!o.rel || s.releaseReady o)

/-- A line with some writes laid over it: their offsets in the line and bytes. -/
def overlayAll (line : List Byte) (l : List (Nat × List Byte)) : List Byte := l.foldl (fun b e => overlay b e.1 e.2) line

/-- A store's offset in its line and the bytes it brings. -/
def MemOp.piece (p : MemOp) : Nat × List Byte := (p.addr % 64, leBytes (2 ^ p.size) p.data)

/-- A line with some writes laid over it. -/
def overlayStores (line : List Byte) (l : List MemOp) : List Byte := overlayAll line (l.map MemOp.piece)

/-- Load `o` has read what the unperformed writes `fw` of other strands brought (R424, R436). -/
def State.observe (s : State) (o : MemOp) (fw : List MemOp) : State :=
  let new := (fw.filter (fun (p : MemOp) => p.strand != o.strand)).map fun (p : MemOp) =>
    ({ core := o.core, strand := o.strand, access := o.id, write := p.id } : Observed)
  { s with ms := { s.ms with observed := s.ms.observed ++ new } }

/-- An access performed: it leaves the list; writes it made are no longer unperformed. -/
def State.dropOp (s : State) (id : Nat) : State :=
  { s with ms := { s.ms with
      ops := s.ms.ops.filter (fun p => p.id != id), observed := s.ms.observed.filter (fun e => e.write != id) } }

/-- A value returned into RD (R422, R423). -/
def State.returnValue (s : State) (o : MemOp) (v : Nat) : State :=
  let x := s.strand o.core o.strand
  let v := if o.kind == .load then extend o.sx (2 ^ o.size) v else v
  s.setStrand o.core o.strand ((x.setSized o.rd o.size v).unmark (sizedMask o.rd o.size))

/-- What a strand's unperformed accesses come to after one that is never performed. -/
structure Behind where
  /-- Nothing later is performed: it stands behind an acquire or a full fence that never holds (R426, R431). -/
  all : Bool
  /-- No later write is performed: it stands behind a read that never returns, or a release fence (R416, R431). -/
  writes : Bool
  /-- No later acquire is performed: it stands behind a release that never is (R427). -/
  acquires : Bool

/-- What stands behind access `o`, which is never performed. -/
def Behind.add (b : Behind) (o : MemOp) : Behind :=
  { all := b.all || (o.acq && o.kind.reads) || o.kind == .fence 1 || o.kind == .fence 3,
    writes := b.writes || o.kind.reads || o.kind == .fence 2, acquires := b.acquires || o.rel }

/-- Access `o`, behind such accesses, is never performed either; nor is a release or a release fence (R452, R725). -/
def Behind.stops (b : Behind) (o : MemOp) : Bool :=
  b.all || o.rel || o.kind == .fence 2 || o.kind == .fence 3 || (b.writes && o.kind.writes) || (b.acquires && o.acq)

/-- The later accesses of a strand that are never performed once `o` has failed (R452, R725). -/
def MemSys.stopped (m : MemSys) (o : MemOp) : List Nat :=
  ((m.ops.filter (fun p => p.core == o.core && p.strand == o.strand && o.id < p.id && p.sent.isNone)).foldl
    (fun (a : Behind × List Nat) p => if a.1.stops p then (a.1.add p, p.id :: a.2) else a)
    (Behind.add ⟨false, false, false⟩ o, [])).2

/-- An access that fails ends its item with the fault (R398, R725), and the strand's item with it (R517); no later release of the
strand is performed, nor what is ordered behind one (R452). -/
def State.failOp (s : State) (o : MemOp) (f : MFault) : State :=
  let s := s.recordFault (reqCore o.core) o.chamber o.va o.kind.writes f
  let gone := o.id :: s.ms.stopped o
  let s : State := { s with ms := { s.ms with
    ops := s.ms.ops.filter (fun p => !gone.contains p.id),
    observed := s.ms.observed.filter (fun e => !gone.contains e.write) } }
  let s := s.noteEnd o.item f.code f.cause
  let x := s.strand o.core o.strand
  let s := (x.taken.toList ++ x.item.toList).foldl (fun s k => s.noteEnd k f.code f.cause) s
  s.sweep

/-- Scope `scope` of core `c` of a device contains core `d` of the same device (R418). -/
def scopeContains (scope c d : Nat) : Bool :=
  match scope with
  | 0 => c == d
  | 1 => c / 8 == d / 8
  | _ => true

/-- An acquire of a chamber in ordering debug mode compared with the location's record (R448): a failure of condition 2 or
3 of R428 is counted and recorded. -/
def State.compareRecord (s : State) (o : MemOp) (r : RelRecord) : State :=
  if !o.acq || s.fget MMU_ORD_CTRL_DEBUG (o.core / 64) o.chamber == 0 then s else
  let same := r.device == s.deviceId
  let relIn := if same then scopeContains r.scope r.core o.core else r.scope == 3
  let acqIn := if same then scopeContains o.scope o.core r.core else o.scope == 3
  if relIn && acqIn then s else
  let kind := b2n (!relIn) + 2 * b2n (!acqIn)
  let i := o.core / 64
  let s := s.fset MMU_ORD_CTRL_LAST_KIND kind i o.chamber
  let s := s.fset MMU_ORD_CTRL_LAST_CORE o.core i o.chamber
  let s := s.fset MMU_ORD_CTRL_LAST_DEVICE r.device i o.chamber
  s.bump MMU_SCOPE_MISMATCH_COUNT 1 i o.chamber

def State.compareAt (s : State) (o : MemOp) : State :=
  match s.ms.records.find? (fun r => r.addr == o.addr / 64 * 64) with
  | some r => s.compareRecord o r
  | none => s

/-- The release record of a location set by a release store or AMO, while DEBUG is 1 for the chamber (R448). -/
def State.noteRelease (s : State) (o : MemOp) : State :=
  if !o.rel || s.fget MMU_ORD_CTRL_DEBUG (o.core / 64) o.chamber == 0 then s else
  let r : RelRecord := { addr := o.addr / 64 * 64, scope := o.scope, core := o.core, device := s.deviceId,
                         chamber := o.chamber }
  { s with ms := { s.ms with records := r :: s.ms.records.filter (fun e => e.addr != r.addr) } }

/-- Whether a line may be held in a core's read cache: HBM of the chamber (R433). -/
def cacheable (s : State) (pa : Nat) : Bool := match regionOf s pa with | .hbm _ _ => true | _ => false

/-- A line put into a core's read cache of 512 lines, in place of an older copy; which other line it replaces is open (R433). -/
def State.fill (s : State) (c pa : Nat) (bytes : List Byte) : State :=
  let new : CacheLine := { core := c, addr := pa / 64 * 64, bytes := bytes, barred := [] }
  let cache := s.ms.cache.filter (fun l => !(l.core == c && l.addr == new.addr))
  let mine := cache.filter (fun l => l.core == c)
  if mine.length < 512 then { s with ms := { s.ms with cache := new :: cache } }
  else
    let (k, s) := s.draw 512
    { s with ms := { s.ms with cache := new :: (mine.eraseIdx k ++ cache.filter (fun l => l.core != c)) } }

/-- What AOP computes from the old value and the operand (R422). -/
def amoValue (aop size old operand cmp : Nat) : Nat :=
  let bits := 8 * 2 ^ size
  match aop with
  | 0 => (old + operand) % 2 ^ bits
  | 1 => (f32Add (BitVec.ofNat 32 old) (BitVec.ofNat 32 operand)).toNat
  | 2 => operand
  | 3 => if old = cmp then operand else old
  | 4 => if toSigned bits old < toSigned bits operand then operand else old
  | 5 => if toSigned bits operand < toSigned bits old then operand else old
  | 6 => old ||| operand
  | _ => old &&& operand

/-- The cached copy of a line that serves strand `t` of core `c`. -/
def MemSys.hit (m : MemSys) (c t line : Nat) : Option CacheLine :=
  m.cache.find? (fun l => l.core == c && l.addr == line && !l.barred.contains t)

/-- Strand `t` has read the line at the home past its core's cached copy, which therefore serves it no longer (R415, R435). -/
def MemSys.bar (m : MemSys) (c t line : Nat) : MemSys :=
  { m with cache := m.cache.map (fun l => if l.core == c && l.addr == line then { l with barred := t :: l.barred } else l) }

/-- The line that a local load reads: its core's cached copy, or the home's, which it then caches (R433 to R435). -/
def State.loadLine (s : State) (o : MemOp) (ev : CellEvent) : Except MFault (List Byte) × State :=
  let line := o.addr / 64 * 64
  match if o.bypass then none else s.ms.hit o.core o.strand line with
  | some l => (.ok l.bytes, s)
  | none =>
    match s.readLine line 64 ev with
    | (.error f, s) => (.error f, s)
    | (.ok b, s) =>
      (.ok b, if o.bypass then { s with ms := s.ms.bar o.core o.strand line }
        else if cacheable s line then s.fill o.core line b else s)

/-- A local access performed at its home, or served from the core's read cache (R413, R422, R433 to R436). -/
def State.performLocal (s : State) (o : MemOp) (ev : CellEvent) : State :=
  match s.rights o.chamber o.addr o.kind.writes true with
  | some f => s.failOp o f
  | none =>
  match o.kind with
  | .load =>
    let s := if o.acq then { s with ms := s.ms.acquire o.core o.scope } else s
    match s.loadLine o ev with
    | (.error f, s) => s.failOp o f
    | (.ok b, s) =>
      let fw := s.ms.forwarded o
      let v := fieldAt (overlayStores b fw) (o.addr % 64) (2 ^ o.size)
      ((((s.compareAt o).observe o fw).returnValue o v).dropOp o.id).sweep
  | .store =>
    match s.writeLine o.addr o.piece.2 ev with
    | (some f, s) => s.failOp o f
    | (none, s) =>
      let s : State := { s with ms := { s.ms with cache := s.ms.cache.map (fun (l : CacheLine) =>
        if l.core == o.core && l.addr == o.addr / 64 * 64 then { l with bytes := overlay l.bytes o.piece.1 o.piece.2 } else l) } }
      ((s.noteRelease o).dropOp o.id).sweep
  | .amo aop =>
    let s := if o.acq then { s with ms := s.ms.acquire o.core o.scope } else s
    let s : State := { s with ms := s.ms.uncache o.core o.addr }
    match s.readLine o.addr (2 ^ o.size) ev with
    | (.error f, s) => s.failOp o f
    | (.ok b, s) =>
      let old := leVal b
      let new := amoValue aop o.size old o.data o.cmp
      let s := s.compareAt o
      let s := if aop = 3 ∧ old ≠ o.cmp then s else (s.putLine o.addr (leBytes (2 ^ o.size) new)).noteRelease o
      ((s.returnValue o old).dropOp o.id).sweep
  | .fence _ => s

/-- A remote access sent to its target: RD_REQ, WR, CLOSE_WR or AMO (R443, R445, R585). A load takes the core's own unperformed writes
to the line with it (R436). -/
def State.performRemote (s : State) (o : MemOp) (d : Nat) : State :=
  let size := 2 ^ o.size
  let own := if o.kind == .load then s.ms.forwarded o else []
  let s := (if o.acq then { s with ms := s.ms.acquire o.core o.scope } else s).observe o own
  let sendIt := fun (type arg : Nat) (payload : List Byte) (s : State) =>
    let len := match o.kind with | .amo _ => 16 | _ => size
    match s.request type (.op o.id) (reqCore o.core).code o.chamber d o.addr len payload arg o.item.queue (some o.va) with
    | (some f, s) => s.failOp o f
    | (none, s) =>
      { s with ms := { s.ms with
          ops := s.ms.ops.map (fun (p : MemOp) =>
            if p.id == o.id then { p with sent := some s.now, own := own.map MemOp.piece } else p) } }
  match o.kind with
  | .load => sendIt ptRdReq 0 [] s
  | .store => sendIt (if o.close then ptCloseWr else ptWr) 0 (leBytes size o.data) s
  | .amo aop => sendIt ptAmo (aop + 16 * o.size) (leBytes 8 o.data ++ leBytes 8 o.cmp) s
  | .fence _ => s

/-- Whether the HBC of access `o`, a best-effort one that has not aged, has another of its chamber to serve before it: one to the same
pseudo-channel that may be performed and is served in LC order. That an access stands at its HBC as soon as it may be performed is the
model's choice (R549, R723; log entry 133). -/
def State.behindLc (s : State) (o : MemOp) : Bool :=
  !s.lcOrder o.chamber o.item.queue o.issuedAt &&
  match s.placeOf o.addr with
  | none => false
  | some (st, p, _) => s.ms.ops.any fun q =>
      q.chamber == o.chamber && q.remote == none && (q.kind.reads || q.kind.writes) &&
      (s.placeOf q.addr).any (fun e => e.1 == st && e.2.1 == p) && s.lcOrder q.chamber q.item.queue q.issuedAt && s.mayPerform q

/-- HOME_ACCESS: access `id` reaches its home and is performed, when the ordering rules and the order of its HBC let it; a remote one is
sent. `ev` is what the cells of its line show (R399, R413 to R447, R549). -/
def execHomeAccess (id : Nat) (ev : CellEvent) (s : State) : Result :=
  .next (match s.ms.ops.find? (fun o => o.id == id) with
    | none => s
    | some o =>
      if o.sent.isSome || !s.mayPerform o then s else
      match o.remote with
      | none => if s.behindLc o then s else (s.performLocal o ev).deliver
      | some d => s.performRemote o d)

/-- A remote access whose answer has come: a load or AMO returns its value, a write is acknowledged. An acquire empties the caches here
too, of what was filled since it was sent (R434, R443). -/
def State.remoteDone (s : State) (id : Nat) (data : List Byte) : State :=
  match s.ms.ops.find? (fun o => o.id == id) with
  | none => s
  | some o =>
    let s := if o.acq then { s with ms := s.ms.acquire o.core o.scope } else s
    let line := overlayAll (overlay (List.replicate 64 0) (o.addr % 64) (slice data 0 (2 ^ o.size))) o.own
    let s := if o.kind.reads then s.returnValue o (fieldAt line (o.addr % 64) (2 ^ o.size)) else s
    (s.dropOp o.id).sweep

/-- A remote access that ended with a NAK: 0x33 FAULT_REMOTE with its cause (R593). -/
def State.remoteFail (s : State) (id cause : Nat) : State :=
  match s.ms.ops.find? (fun o => o.id == id) with
  | none => s
  | some o => s.failOp o ⟨fRemote, cause, 0⟩

/-! ### Invalidations (R393) -/

/-- The GO write of MMU_INV_CTRL for chamber `n`: an invalidation joins those not yet complete, and BUSY is 1 in both
instances. -/
def State.invalidate (s : State) (n va pages : Nat) (all : Bool) : State :=
  let i : Inval := { chamber := n, va := va, pages := if pages = 0 then 1 else pages, all := all, at_ := s.now }
  let s : State := { s with ms := { s.ms with invals := s.ms.invals ++ [i] } }
  (s.fset MMU_INV_STATUS_BUSY 1 0 n).fset MMU_INV_STATUS_BUSY 1 1 n

/-- The address that MMU_INV_VA names. -/
def State.invVa (s : State) (n : Nat) : Nat :=
  s.fget MMU_INV_VA_HI_VA 0 n * 2 ^ 32 + s.fget MMU_INV_VA_LO_VA 0 n * 2 ^ 16

/-- MMU_INVALIDATE: GO with a page count (R393). -/
def execMmuInvalidate (r : Requester) (n pages : Nat) (s : State) : Result :=
  .next (if s.mayWriteSet r n then s.invalidate n (s.invVa n) pages false else s)

/-- MMU_INVALIDATE_ALL: GO with ALL (R393). -/
def execMmuInvalidateAll (r : Requester) (n : Nat) (s : State) : Result :=
  .next (if s.mayWriteSet r n then s.invalidate n (s.invVa n) 1 true else s)

/-- Whether an invalidation covers a page of `size` bytes at `va`. -/
def Inval.spans (i : Inval) (va size : Nat) : Bool := i.all || (va < i.va + i.pages * 0x1_0000 && i.va < va + size)

/-- Whether an invalidation covers a cached translation. -/
def Inval.covers (i : Inval) (e : TlbEntry) : Bool := i.spans e.va e.size

/-- Whether an invalidation covers what a cached upper-level entry leads to (R391, R392). -/
def Inval.coversUpper (i : Inval) (e : UpperEntry) : Bool :=
  walkLevels.any (fun l => l.1 == e.level && i.spans (e.index * 2 ^ l.2.2.1) (2 ^ l.2.2.1))

/-- Whether an access of chamber `n` that has used a translation `i` covers is still to be performed (R393). -/
def State.usesCovered (s : State) (n : Nat) (i : Inval) : Bool :=
  s.ms.ops.any (fun o => o.chamber == n && (o.kind.reads || o.kind.writes) && i.spans o.va 1) ||
  s.fab.outstanding.any (fun o => o.packet.chamber == n && o.va.any (fun va => i.spans va 1))

/-- MMU_INVALIDATE_DONE: the oldest invalidation of chamber `n` is complete once every access that has used a translation it covers is
performed; no requester of the chamber keeps such a translation, and BUSY falls with the last invalidation (R393). -/
def execMmuInvalidateDone (n : Nat) (s : State) : Result :=
  .next (match s.ms.invals.find? (fun i => i.chamber == n) with
    | none => s
    | some i =>
      if s.usesCovered n i then s else
      let mine := fun (g : Nat) => bitOf (s.chamber n).galleries g
      let s : State := { s with ms := { s.ms with
        tlb := s.ms.tlb.filter (fun e => !(mine e.gallery && i.covers e)),
        upper := s.ms.upper.filter (fun e => !(mine e.gallery && i.coversUpper e)), invals := s.ms.invals.erase i } }
      if s.ms.invals.any (fun j => j.chamber == n) then s
      else (s.fset MMU_INV_STATUS_BUSY 0 0 n).fset MMU_INV_STATUS_BUSY 0 1 n)

end Sys2Proof.Machine
end

