-- ==== Sys2Proof/Machine/Engines.lean ====
section
/-! DEFINITION. What every engine instruction shares: its acceptance with the slot references it takes, its descriptor, its
status word, its failure and its abort (R177, R181, R206, R219 to R224, R437, R438). -/

namespace Sys2Proof.Machine

/-! ### Slots (R169, R176, R177, R181) -/

/-- References held on slot `id` (R176). -/
def State.slotRefs (s : State) (id : Nat) : Nat := (s.items.filter (fun i => i.slotRefs.any (fun e => e.1 == id))).length

/-- The content of slot `id`, when chamber `n` owns it and it is not empty. -/
def State.slotContent (s : State) (n id : Nat) : Option (List Byte) :=
  let x := s.slot id
  if id < 0x200 ∧ x.owner = some n ∧ x.content ≠ [] then some x.content else none

/-- The item takes a reference on each slot and records its generation (R177). -/
def State.takeRefs (s : State) (k : ItemKey) (ids : List Nat) : State :=
  s.modItem k (fun i => { i with slotRefs := i.slotRefs ++
    ((ids.filter (fun id => !i.slotRefs.any (fun e => e.1 == id))).map (fun id => (id, (s.slot id).gen))) })

/-- The generation under which the item holds slot `id`. -/
def Item.genOf (i : Item) (id : Nat) : Nat := ((i.slotRefs.find? (fun e => e.1 == id)).map (·.2)).getD 0

/-! ### Descriptors -/

/-- `len` bytes of core `c`'s own scratchpad from offset `off`, a multiple of 64, read at their homes (R206, R433). -/
def State.ownScratch (s : State) (c off len : Nat) : Except MFault (List Byte) × State :=
  let base := scratchBase c + off
  (List.range (len / 64)).foldl (fun (a : Except MFault (List Byte) × State) k =>
    match a with
    | (.error f, s) => (.error f, s)
    | (.ok bs, s) =>
      match s.readLine (base + 64 * k) 64 with
      | (.error f, s) => (.error f, s)
      | (.ok b, s) => (.ok (bs ++ b), s)) ((.ok [], s) : Except MFault (List Byte) × State)

/-- The issue of an instruction whose descriptor of `len` bytes the engine copies: the strand waits until every access before it in
its program order is performed, since the copy is a read of the instruction (R206, R437; log entry 109). A read that fails ends the
item (R221). -/
def State.describe (s : State) (c t off len : Nat) (failed : MFault → State → State) (act : List Byte → State → State) : State :=
  if s.ms.owes c t s.ms.nextId then s.stall c t .release else
  match s.ownScratch c off len with
  | (.error f, s) => (failed f s.deliver).failMem c t f
  | (.ok d, s) => act d s.deliver

/-! ### Queues and command decode (R32, R177, R181, R310) -/

/-- The queue that an instruction stands in: its core's, or its gallery's for the RTE and the exchange (R32, R310). -/
def EngOp.queue (o : EngOp) : Nat := if o.eng.index < 4 then 4 * o.core + o.eng.index else 512 + o.core / 8

def State.engOp (s : State) (id : Nat) : Option EngOp := s.engOps.find? (fun o => o.id == id)

def State.modEng (s : State) (id : Nat) (f : EngOp → EngOp) : State :=
  { s with engOps := s.engOps.map (fun o => if o.id == id then f o else o) }

/-- An instruction joins its engine's queue, which has room: SREG is not ready until the status word (R32, R206). -/
def State.enqueue (s : State) (c t : Nat) (x : Strand) (w : Word64) (eng : Engine) (sreg : Nat) (desc : List Byte) (aux : List Nat)
    (sampled : Bool := false) (checker : Option Nat := none) : State :=
  let o : EngOp := { id := s.ms.nextId, eng := eng, core := c, strand := t, item := x.current.getD ⟨0, 0, none⟩, sreg := sreg,
                     word := w, desc := desc, issuedAt := s.now, mark := s.ms.nextId, sampled := sampled, checker := checker, status := none,
                     aborted := false, decoded := false, gated := false, aux := aux, dup := [], tile := none }
  let s := s.advance c t (x.mark (regMask sreg))
  { s with engOps := s.engOps ++ [o], ms := { s.ms with nextId := s.ms.nextId + 1 } }

/-- Whether a slot is closed to the item: a write of it runs, and the item holds no reference on it yet (R179, R181). -/
def State.closedTo (s : State) (k : ItemKey) (id : Nat) : Bool :=
  (s.slot id).write.isSome && !(match s.item k with
    | some i => i.slotRefs.any (fun e => e.1 == id)
    | none => false)

/-- An instruction that command decode accepts: its item takes its references (R177). -/
def State.take (s : State) (o : EngOp) (slots : List Nat) : State :=
  (s.takeRefs o.item slots).modEng o.id (fun o => { o with decoded := true })

/-- An instruction held at command decode, counted once (R181). -/
def State.gate (s : State) (o : EngOp) : State :=
  if o.gated then s else
  (s.bump CDC_GATED_COUNT 1 (o.core / 8)).modEng o.id (fun o => { o with gated := true })

/-- How an engine decodes: the slots an instruction names, whether it must wait for something else, and what decode does. -/
structure Decoder where
  names : State → EngOp → List Nat
  waits : State → EngOp → Bool
  decode : State → EngOp → State

/-- Command decode of the queues in `only`, each in its order. An instruction that names a closed slot is held, and its queue does not
advance past it (R181), nor past a decode that waits for lines of another device. -/
def State.decodePass (s : State) (d : Decoder) (only : EngOp → Bool) : State :=
  ((s.engOps.filter (fun o => !o.decoded && only o)).foldl (fun (a : List Nat × State) p =>
    match a.2.engOp p.id with
    | none => a
    | some o =>
      if a.1.contains o.queue || o.aborted then a
      else if (d.names a.2 o).any (a.2.closedTo o.item) then (o.queue :: a.1, a.2.gate o)
      else if d.waits a.2 o then (o.queue :: a.1, a.2)
      else
        let s := d.decode a.2 o
        (if (s.engOp o.id).any (fun p => !p.decoded) then o.queue :: a.1 else a.1, s)) ([], s)).2

/-- An instruction joins its queue, or its strand waits for a place there; then the queue is decoded as far as it can be (R32, R181). -/
def State.accept (s : State) (c t : Nat) (x : Strand) (w : Word64) (eng : Engine) (sreg : Nat) (desc : List Byte) (aux : List Nat)
    (d : Decoder) (sampled : Bool := false) (checker : Option Nat := none) : State :=
  if !s.engineRoom c eng.index then s.stall c t (.engine eng.index) else
  let q := if eng.index < 4 then 4 * c + eng.index else 512 + c / 8
  (s.enqueue c t x w eng sreg desc aux sampled checker).decodePass d (fun o => o.queue == q)

/-! ### Ends -/

/-- The status word: CODE, SAMPLED and the flags of this instruction alone (R220). -/
def statusWord (code : Nat) (sampled : Bool) (f : Flags) : Nat := code * 2 ^ 24 + b2n sampled * 2 ^ 7 + f.bits

/-- Every access that precedes the instruction in its strand's program order is performed (R437). -/
def State.engReady (s : State) (o : EngOp) : Bool :=
  !s.ms.ops.any (fun (p : MemOp) => p.core == o.core && p.strand == o.strand && p.id < o.mark)

/-- The oldest instruction of core `c` in engine `e`, once command decode has accepted it. One of a suspended strand is saved with it
(R561, R563). -/
def State.engHead (s : State) (c : Nat) (e : Engine) : Option EngOp :=
  (s.engOps.find? (fun o => o.core == c && o.eng == e && (s.strand c o.strand).mode != .suspended)).filter (·.decoded)

/-- The number of an engine in an ENGINE_END record (R681). -/
def Engine.traceNo : Engine → Nat
  | .mxe => 0
  | .vxe => 1
  | .sfu => 1
  | .atu => 2
  | .rte => 3
  | .xce => 3

/-- The ENGINE_END record of an instruction (R681). -/
def State.traceOp (s : State) (o : EngOp) (code : Nat) : State :=
  s.traceEngine o.core o.strand o.eng.traceNo (opcodeOf o.word) code

/-- The status word written into SREG: the register is ready, and the instruction is over (R219). -/
def State.writeStatus (s : State) (o : EngOp) (word : Nat) : State :=
  let s := s.traceOp o (word / 2 ^ 24)
  let x := s.strand o.core o.strand
  let s := s.setStrand o.core o.strand ((x.setReg o.sreg (BitVec.ofNat 32 word)).unmark (regMask o.sreg))
  (s.dropEng o.id).settle o.item

/-- A normal end: the status word follows once every remote line is acknowledged (R219, R438). -/
def State.engServed (s : State) (o : EngOp) (word : Nat) : State :=
  if s.awaits (.eng o.id) then s.modEng o.id (fun o => { o with status := some word })
  else (s.opEnded o cServed 0).writeStatus o word

/-- An instruction that ends with another code ends its item with it, and the item of its strand where that is another: a task ends with
the items it takes (R221, R517). -/
def State.engFailed (s : State) (o : EngOp) (code cause : Nat) : State :=
  ((((s.traceOp o code).opEnded o code cause).dropEng o.id).endItem o.item code cause).failStrand o.core o.strand code cause

/-- The aborted instructions of one item in one engine of a core, discarded together (R223). -/
def State.abortedWith (s : State) (o : EngOp) : List EngOp :=
  s.engOps.filter (fun p => p.aborted && p.core == o.core && p.eng == o.eng && p.item == o.item)

/-- The acknowledgement of an abort by engine `e` of core `c`: the aborted instruction and those of its item in the queue
have ended with the code their item ends with, and the item may settle. The number of instructions is answered too. -/
def State.ackAbort (s : State) (c : Nat) (e : Engine) : Nat × State :=
  match s.engOps.find? (fun o => o.core == c && o.eng == e && o.aborted) with
  | none => (0, s)
  | some o =>
    let l := s.abortedWith o
    let s := l.foldl (fun s p => (s.opEnded p (s.endCode p.item) 0).dropEng p.id) s
    (l.length, s.settle o.item)

/-! ### Reading operands -/

/-- A read of `len` bytes for an engine of core `c`, chamber `n`. -/
def State.engRead (s : State) (c n va len : Nat) : Except MFault (List Byte) × State := s.readVa (reqCore c) n va len

/-- Several ranges read, in order: address and length of each. -/
def State.engReads (s : State) (c n : Nat) : List (Nat × Nat) → Except MFault (List (List Byte)) × State
  | [] => (.ok [], s)
  | (va, len) :: l =>
    match s.engRead c n va len with
    | (.error f, s) => (.error f, s)
    | (.ok b, s) =>
      match s.engReads c n l with
      | (.error f, s) => (.error f, s)
      | (.ok bs, s) => (.ok (b :: bs), s)

/-- Some writes cut at the boundaries of 64-byte lines (R414). -/
def cutAtLines (l : List (Nat × List Byte)) : List (Nat × List Byte) :=
  l.flatMap (fun e => (linesOf e.1 e.2.length).map (fun p => (p.1, slice e.2 (p.1 - e.1) p.2)))

/-- Pieces of lines written by engine instruction `o`, in order up to the first fault, and how many were written (R218, R221). -/
def State.engWrites (s : State) (o : EngOp) (n : Nat) : List (Nat × List Byte) → (Option MFault × Nat) × State
  | [] => ((none, 0), s)
  | (va, bs) :: l =>
    match s.writeVa (reqCore o.core) n (.eng o.id) o.item.queue va bs with
    | (some f, s) => ((some f, 0), s)
    | (none, s) =>
      let ((f, k), s) := s.engWrites o n l
      ((f, k + 1), s)

end Sys2Proof.Machine
end

