-- ==== Sys2Proof/Machine/SfuTable.lean ====
section
/-! DEFINITION. Function tables: layout, evaluation, and the check of seams and monotone tables (R248 to R253). -/

namespace Sys2Proof.Machine

/-- A function table payload's fields (R248). -/
structure FnTable where
  pre : Nat
  sym : Nat
  p : Nat
  emin : Int
  dir : Nat
  pow : Nat
  inMul : Val
  outMul : Val
  highPos : Val
  highNeg : Val
  pinf : Val
  ninf : Val
  zero : Val
  maxUlp : Nat
  payload : List Byte
deriving DecidableEq

def parseFn (bs : List Byte) : FnTable :=
  { pre := fieldAt bs 1 1, sym := fieldAt bs 2 1, p := fieldAt bs 3 1, emin := toSigned 8 (fieldAt bs 4 1),
    dir := fieldAt bs 5 1, pow := fieldAt bs 6 1, inMul := f32At bs 8, outMul := f32At bs 0xC, highPos := f32At bs 0x10,
    highNeg := f32At bs 0x14, pinf := f32At bs 0x18, ninf := f32At bs 0x1C, zero := f32At bs 0x20,
    maxUlp := fieldAt bs 0x24 4, payload := bs }

/-- Whether the table keeps a region for each sign. -/
def FnTable.split (T : FnTable) : Bool := T.pre == 0 && T.sym == 0

/-- Segments of a region, and its octaves (R249). -/
def FnTable.region (T : FnTable) : Nat := if T.split then 128 else 256

def FnTable.octaves (T : FnTable) : Nat := T.region / 2 ^ T.p

/-- The layout rules of R248 and R249 (R253). -/
def fnLayoutOk (bs : List Byte) : Bool :=
  let T := parseFn bs
  bs.length == 3136 && fieldAt bs 0 1 == 1 && T.pre ≤ 3 && (if T.pre == 0 then T.sym ≤ 3 else T.sym == 0) &&
  T.p ≤ (if T.split then 7 else 8) && -126 ≤ T.emin && T.dir ≤ 2 && (if T.pre == 3 then T.pow ≤ 2 else T.pow == 0) &&
  fieldAt bs 7 1 == 0 && zeroAt bs 0x28 24 && T.emin + T.octaves ≤ 128

/-- The start of segment `k × 2^P + j` of a region (R249). -/
def FnTable.start (T : FnTable) (i : Nat) : Rat :=
  pow2 (T.emin + (i / 2 ^ T.p : Nat)) * (1 + ((i % 2 ^ T.p : Nat) : Rat) / ((2 ^ T.p : Nat) : Rat))

/-- The top boundary (R249). -/
def FnTable.top (T : FnTable) : Rat := pow2 (T.emin + T.octaves)

/-- The segment of a region that covers magnitude `m` below the top (R249). -/
def FnTable.segOf (T : FnTable) (m : Rat) : Nat :=
  if m < pow2 T.emin then 0 else
  let e := ratLog2 m
  (e - T.emin).toNat * 2 ^ T.p + ((m / pow2 e - 1) * ((2 ^ T.p : Nat) : Rat)).floor.toNat

/-- Coefficient `c` of segment `s` (R248). -/
def FnTable.coef (T : FnTable) (s c : Nat) : Val := f32At T.payload (0x40 + 12 * s + 4 * c)

/-- Two invalid results joined along an exact computation. -/
def both (r : Val × Bool) (f : Val → Val × Bool) : Val × Bool :=
  let (v, i) := f r.1
  (v, r.2 || i)

/-- The quadratic of segment `s` at `t`, exactly (R250). -/
def FnTable.poly (T : FnTable) (s : Nat) (t : Rat) : Val × Bool :=
  both ((T.coef s 1).mul (Val.ofRat t)) fun a =>
    both ((T.coef s 2).mul (Val.ofRat (t * t))) fun b =>
      both ((T.coef s 0).add a) fun u => u.add b

/-- A table field taken as a result: a NaN there is the canonical NaN with IV (R250). -/
def taken (v : Val) : Val × Bool := (v, v.isNan)

/-- The value of the region for `z`, before the symmetry and the reduction are undone (R249, R250). In a split table the
sign picks the region, and t is taken on the magnitude. -/
def FnTable.core (T : FnTable) (z : Rat) : Val × Bool :=
  let m := if z < 0 then -z else z
  if T.top ≤ m then taken (if T.split && z < 0 then T.highNeg else T.highPos)
  else
    let i := T.segOf m
    let s := if T.split && !(z < 0) then 128 + i else i
    T.poly s (m - T.start i)

/-- POW as half-powers of two: −1, −1/2 and +1/2 (R248). -/
def FnTable.halfPow (T : FnTable) : Int := if T.pow = 0 then -2 else if T.pow = 1 then -1 else 1

/-- The greatest even exponent with the quotient in [1, 4). -/
def evenLog (m : Rat) : Int := let e := ratLog2 m; if e % 2 = 0 then e else e - 1

/-- The table on a finite product y := x × IN_MUL, exactly, with whether it is invalid (R250). `neg` is the sign of x. -/
def FnTable.onProduct (T : FnTable) (y : Rat) (neg : Bool) : Val × Bool :=
  let m := if y < 0 then -y else y
  match T.pre with
  | 0 =>
    if T.sym = 3 ∧ y < 0 then (.nan, true) else
    let (v, i) := T.core y
    both ((if T.sym = 1 ∧ y < 0 then v.negate else v), i) fun v => v.mul T.outMul
  | 1 =>
    let n := y.floor
    both (both (T.core (y - (n : Rat))) fun v => v.mul (Val.ofRat (pow2 n))) fun v => v.mul T.outMul
  | 2 =>
    if y < 0 then (.nan, true) else if y = 0 then taken T.zero else
    let e := ratLog2 m
    both (both (T.core (m / pow2 e)) fun v => v.add (Val.ofRat (e : Rat))) fun v => v.mul T.outMul
  | _ =>
    if y < 0 ∧ T.pow ≠ 0 then (.nan, true)
    else if y = 0 then
      (if T.zero.isNan then taken T.zero
       else if T.pow = 2 then (T.zero, false)
       else ((if neg then T.zero.abs.negate else T.zero.abs), false))
    else
      let e := evenLog m
      both (both (T.core (m / pow2 e)) fun v =>
        ((if T.pow = 0 ∧ neg then v.negate else v).mul (Val.ofRat (pow2 (e * T.halfPow / 2))))) fun v => v.mul T.outMul

/-- The table on an infinite product of a finite input, `neg` its sign: a HIGH value under PRE 0, outside the domain where R250
says so of a negative y, and otherwise a result that R250 does not state: floor and exponent of an infinity (R249, R250). -/
def FnTable.onInfinite (T : FnTable) (x : Val) (neg : Bool) : Val × Bool :=
  if T.pre = 0 then
    if T.sym = 3 ∧ neg = true then (.nan, true) else
    let (v, i) := taken (if T.split && neg then T.highNeg else T.highPos)
    both ((if T.sym = 1 ∧ neg = true then v.negate else v), i) fun v => v.mul T.outMul
  else if neg = true ∧ (T.pre = 2 ∨ (T.pre = 3 ∧ T.pow ≠ 0)) then (.nan, true)
  else (fmtF32.decode (Config.openFunction T.payload (encode cF32 false .rne x).1 % 2 ^ 32), false)

/-- The table on an input, exactly, before the rounding into f32, with whether it is invalid (R250). -/
def FnTable.exact (T : FnTable) (x : Val) : Val × Bool :=
  match x with
  | .nan => (.nan, false)
  | .inf n => taken (if n then T.ninf else T.pinf)
  | .fin neg _ =>
    match x.mul T.inMul with
    | (.nan, i) => (.nan, i)
    | (.inf n, _) => T.onInfinite x n
    | (.fin _ _, _) => T.onProduct (x.mul T.inMul).1.rat neg

/-- The f32 result of a table on an input, with the flags of that rounding; IV where it is invalid (R250). -/
def FnTable.eval (T : FnTable) (x : Val) : Val × Flags :=
  let (v, i) := T.exact x
  let (w, f) := encode cF32 false .rne v
  (fmtF32.decode w, if i then f.or Flags.invalid else f)

/-! ### Seams and monotone tables (R252) -/

/-- A stretch of inputs under one rule, in the order of rising y: the exact values at its ends and the derivative in y
there. -/
structure Piece where
  lo : Val
  hi : Val
  dlo : Rat
  dhi : Rat

/-- The stretch of a region from magnitude `a` to `b` under segment `s`, whose start is `x`. -/
def FnTable.piece (T : FnTable) (s : Nat) (x a b : Rat) : Piece :=
  let d := fun t => (T.coef s 1).rat + 2 * (T.coef s 2).rat * t
  { lo := (T.poly s (a - x)).1, hi := (T.poly s (b - x)).1, dlo := d (a - x), dhi := d (b - x) }

/-- The stretches of a region for magnitudes from `zlo` to `zhi`, rising, `zhi` itself included where `incl` says so; `base` is the
region's first segment, and from the top boundary on they are one stretch at the HIGH value. -/
def FnTable.stretches (T : FnTable) (base : Nat) (high : Val) (zlo zhi : Rat) (incl : Bool) : List Piece :=
  let body := (List.range T.region).filterMap fun i =>
    let a := max zlo (if i = 0 then 0 else T.start i)
    let b := min zhi (if i + 1 = T.region then T.top else T.start (i + 1))
    if a < b ∨ (incl = true ∧ a = zhi ∧ a < T.top ∧ a = b) then some (T.piece (base + i) (T.start i) a b) else none
  if T.top < zhi ∨ (incl = true ∧ T.top = zhi) then body ++ [{ lo := high, hi := high, dlo := 0, dhi := 0 }] else body

/-- A stretch seen from the other side: with y falling. -/
def Piece.mirror (p : Piece) : Piece := { lo := p.hi, hi := p.lo, dlo := -p.dhi, dhi := -p.dlo }

/-- A stretch scaled by a rational. -/
def Piece.scale (p : Piece) (k : Val) : Piece :=
  { lo := (p.lo.mul k).1, hi := (p.hi.mul k).1, dlo := p.dlo * k.rat, dhi := p.dhi * k.rat }

/-- `a` at most `b`; an excluded NaN compares with nothing. -/
def leq (a b : Val) : Bool := a.isNan || b.isNan || a.lt b || a.eq b

/-- Rising within each stretch and across every seam between consecutive ones. -/
def rising : List Piece → Bool
  | [] => true
  | [p] => 0 ≤ p.dlo && 0 ≤ p.dhi
  | p :: q :: l => 0 ≤ p.dlo && 0 ≤ p.dhi && leq p.hi q.lo && rising (q :: l)

/-- The reachable coefficients are finite. -/
def FnTable.finite (T : FnTable) : Bool :=
  (List.range 256).all (fun s => (T.coef s 0).isFin && (T.coef s 1).isFin && (T.coef s 2).isFin) && T.inMul.isFin &&
    T.outMul.isFin

/-- The values at the ends of some stretches, each taken through `f`. -/
def ends (l : List Piece) (f : Val → Val) : List Val := l.flatMap (fun p => [f p.lo, f p.hi])

/-- The least and the greatest of some results; those that are NaN are excluded, and NaN stands for none (R252). -/
def least (l : List Val) : Val := l.foldl (fun m v => if v.isNan then m else if m.isNan || v.lt m then v else m) .nan
def greatest (l : List Val) : Val := l.foldl (fun m v => if v.isNan then m else if m.isNan || m.lt v then v else m) .nan

/-- The least magnitude of y above 0 and the greatest that finite inputs reach. -/
def FnTable.nearY (T : FnTable) : Rat := pow2 (-149) * T.inMul.abs.rat
def FnTable.farY (T : FnTable) : Rat := fmtF32.maxFinite * T.inMul.abs.rat

/-- The opposite sense where `b` asks for it, so that every requirement of R252 reads as rising. -/
def Val.turn (v : Val) (b : Bool) : Val := if b then v.negate else v

/-- RES_NINF and RES_PINF against each other and every other checked result (R252). -/
def FnTable.infOk (T : FnTable) (results : List Val) : Bool :=
  let d := T.dir == 2
  leq (T.ninf.turn d) (least results) && leq (greatest results) (T.pinf.turn d) && leq (T.ninf.turn d) (T.pinf.turn d)

/-- The check under PRE 0: the stretches of both signs, in the order of rising y (R252). -/
def FnTable.seams0 (T : FnTable) : Bool :=
  let d := T.dir == 2
  let pos := T.stretches (if T.split then 128 else 0) T.highPos 0 T.farY true
  let neg := if T.sym = 3 ∨ T.farY = 0 then [] else
    let l := T.stretches 0 (if T.split then T.highNeg else T.highPos) 0 T.farY true
    let l := if T.sym = 1 then l.map (·.scale (Val.ofRat (-1))) else l
    (l.map Piece.mirror).reverse
  let line := (neg ++ pos).map (·.scale (T.outMul.turn d))
  rising (if T.inMul.neg then (line.map Piece.mirror).reverse else line) && T.infOk (ends line id)

/-- The check under PRE 1: one unit step of y covers all. Results beyond 2^±4096 compare with every f32 as those at the bound do
(R252). -/
def FnTable.seams1 (T : FnTable) : Bool :=
  let d := T.dir == 2
  let far := min T.farY 4096
  let unit := fun (zlo zhi : Rat) (incl : Bool) => T.stretches 0 T.highPos zlo zhi incl
  let low := (-far).floor
  let high := far.floor
  let octaves : List (Int × List Piece) :=
    if far = 0 then [(0, unit 0 0 true)]
    else if far < 1 then [(-1, unit (1 - far) 1 false), (0, unit 0 far true)]
    else [(low, unit (-far - (low : Rat)) 1 false), (low + 1, unit 0 1 false), (high - 1, unit 0 1 false),
          (high, unit 0 (far - (high : Rat)) true)]
  let k := (T.outMul.turn d).turn T.inMul.neg
  let v0 := (T.poly 0 (-T.start 0)).1
  let v1 := ((unit 0 1 false).getLastD ⟨.zero, .zero, 0, 0⟩).hi
  let at_ := fun (n : Int) (v : Val) => (((v.mul (Val.ofRat (pow2 n))).1.mul T.outMul).1).turn d
  octaves.all (fun e => rising (e.2.map (·.scale k))) &&
    (far = 0 || leq (v1.mul k).1 ((v0.add v0).1.mul k).1) && T.infOk (octaves.flatMap (fun e => ends e.2 (at_ e.1)))

/-- The octaves that PRE 2 and PRE 3 reach at both ends, a partial and a whole one each, for a reduction to [1, `w`) whose exponent
is `log` and rises by `step`. -/
def FnTable.endOctaves (T : FnTable) (w : Rat) (step : Int) (log : Rat → Int) : List (Int × List Piece) :=
  let unit := fun (zlo zhi : Rat) (incl : Bool) => T.stretches 0 T.highPos zlo zhi incl
  if T.farY = 0 then [] else
  let lo := log T.nearY
  let hi := log T.farY
  [(lo, unit (T.nearY / pow2 lo) w false), (lo + step, unit 1 w false), (hi - step, unit 1 w false),
   (hi, unit 1 (T.farY / pow2 hi) true)]

/-- The check under PRE 2 (R252). -/
def FnTable.seams2 (T : FnTable) : Bool :=
  let d := T.dir == 2
  let z := T.zero.turn d
  let at_ := fun (e : Int) (v : Val) => (((v.add (Val.ofRat (e : Rat))).1.mul T.outMul).1).turn d
  let results := (T.endOctaves 2 1 ratLog2).flatMap (fun e => ends e.2 (at_ e.1))
  let k := (T.outMul.turn d).turn T.inMul.neg
  let l := (T.stretches 0 T.highPos 1 2 false).map (·.scale k)
  let v0 := (l.headD ⟨.zero, .zero, 0, 0⟩).lo
  let v1 := (l.getLastD ⟨.zero, .zero, 0, 0⟩).hi
  (T.farY = 0 || (rising l && leq v1 (v0.add k).1)) &&
    (if T.inMul.neg then leq (greatest results) z else leq z (least results)) && T.infOk (z :: results)

/-- The check under PRE 3. With POW 0 the function is odd in x; the sign of a result at x = −0 is not compared (R252). -/
def FnTable.seams3 (T : FnTable) : Bool :=
  let d := T.dir == 2
  let z := (if T.zero.isNan then .nan else if T.pow = 2 then T.zero else T.zero.abs).turn d
  let at_ := fun (e : Int) (v : Val) => (((v.mul (Val.ofRat (pow2 (e * T.halfPow / 2)))).1.mul T.outMul).1).turn d
  let right := (T.endOctaves 4 2 evenLog).flatMap (fun e => ends e.2 (at_ e.1))
  let left := right.map Val.negate
  let k := (T.outMul.turn d).turn (T.pow != 0 && T.inMul.neg)
  let l := (T.stretches 0 T.highPos 1 4 false).map (·.scale k)
  let v0 := (l.headD ⟨.zero, .zero, 0, 0⟩).lo
  let v1 := (l.getLastD ⟨.zero, .zero, 0, 0⟩).hi
  (T.farY = 0 || (rising l && leq v1 (v0.mul (Val.ofRat (pow2 T.halfPow))).1)) &&
    (if T.pow = 0 then
      leq (greatest left) z && leq z (least right) && leq (greatest left) (least right) && T.infOk (z :: (left ++ right))
     else if T.inMul.neg then leq (greatest right) z && T.infOk (z :: right)
     else leq z (least right) && T.infOk (z :: right))

/-- The check of a table with DIR ≠ 0 (R252). -/
def FnTable.seamsOk (T : FnTable) : Bool :=
  if T.dir = 0 then true
  else if T.pre = 0 ∧ T.sym = 2 then false
  else if !T.finite then false
  else match T.pre with
    | 0 => T.seams0
    | 1 => T.seams1
    | 2 => T.seams2
    | _ => T.seams3

end Sys2Proof.Machine
end

