-- ==== Sys2Proof/Machine/Codec.lean ====
section
/-! DEFINITION. Table slots and the codec: contents of each kind, slot writes, codebook blocks and compressed activation
blocks (R168 to R198). -/

namespace Sys2Proof.Machine

/-! ### Contents (R84, R168, R191, R192, R201 to R203) -/

/-- The kind of a slot id: 0 codebook, 1 compression table, 2 function table, 3 format table (R84). -/
def slotKind (id : Nat) : Nat := if id < 0x100 then 0 else if id < 0x140 then 1 else if id < 0x1C0 then 2 else 3

/-- Whether a payload length is one that a kind admits (R168, R191, R201, R248). -/
def lengthOk (kind len : Nat) : Bool :=
  match kind with
  | 0 => len == 48 || len == 528
  | 1 => len == 688
  | 2 => len == 3136
  | _ => len == 528

/-- A codebook payload (R168). -/
def codebookOk (b : List Byte) : Bool :=
  fieldAt b 0 1 ≤ 1 && (fieldAt b 1 1 == cF16 || fieldAt b 1 1 == cBf16) && zeroAt b 2 14 &&
  b.length == (if fieldAt b 0 1 == 0 then 48 else 528)

/-- Magnitudes `n` at offset `o`: finite, positive, strictly ascending, the last 1.0 (R192). -/
def magnitudesOk (b : List Byte) (o n : Nat) : Bool :=
  let l := (List.range n).map (fun k => f32At b (o + 4 * k))
  l.all (fun v => v.isFin && !v.neg && !v.isZero) &&
  (List.range (n - 1)).all (fun k => (l.getD k .nan).lt (l.getD (k + 1) .nan)) &&
  fieldAt b (o + 4 * (n - 1)) 4 == 0x3F80_0000

/-- A compression table payload (R191, R192). -/
def compressionOk (b : List Byte) : Bool :=
  b.length == 688 && fieldAt b 0 1 == 1 && zeroAt b 1 15 && magnitudesOk b 0x10 128 && magnitudesOk b 0x210 32 &&
  magnitudesOk b 0x290 8

/-! ### Format profiles (R202, R203) -/

/-- Profile `p` of a format table. -/
def profileAt (b : List Byte) (p : Nat) : Nat := fieldAt b (0x10 + 16 * p) 16

def pfA (x : Nat) : Nat := bitsOf x 3 0
def pfAScale (x : Nat) : Nat := bitsOf x 5 4
def pfAGroup (x : Nat) : Nat := bitsOf x 7 6
def pfB (x : Nat) : Nat := bitsOf x 11 8
def pfBScale (x : Nat) : Nat := bitsOf x 13 12
def pfBGroup (x : Nat) : Nat := bitsOf x 15 14
def pfC (x : Nat) : Nat := bitsOf x 19 16
def pfCin (x : Nat) : Nat := bitsOf x 27 24
def pfAComp (x : Nat) : Bool := bitOf x 39
def pfARate (x : Nat) : Nat := bitsOf x 33 32
def pfValid (x : Nat) : Bool := bitOf x 47
def pfRnd (x : Nat) : Bool := bitOf x 42
def pfSat (x : Nat) : Bool := bitOf x 41
def pfSparse (x : Nat) : Bool := bitOf x 40

/-- The pairing of an element format with a scale code (R167). -/
def scaleOk (fmt scale : Nat) : Bool :=
  if fmt == cF16 || fmt == cBf16 then scale == 0 else scale ≤ 2

def plainFormats : List Nat := [cI4, cF4, cI8, cF8e4, cF8e5, cF16, cBf16]

/-- A VALID profile keeps to R203 and R167; its reserved bits are 0 (R202). -/
def profileOk (x : Nat) : Bool :=
  bitsOf x 23 20 == 0 && bitsOf x 31 28 == 0 && bitsOf x 38 34 == 0 && bitsOf x 46 43 == 0 && x / 2 ^ 48 == 0 &&
  (if pfAComp x then (pfA x == cF16 || pfA x == cBf16) && pfAScale x == 0 && pfARate x ≤ 2
   else plainFormats.contains (pfA x) && scaleOk (pfA x) (pfAScale x) && pfARate x == 0) &&
  (plainFormats.contains (pfB x) || (!pfSparse x && isCb (pfB x))) && scaleOk (pfB x) (pfBScale x) &&
  (pfAScale x == 0 || pfAGroup x ≤ 2) && (pfBScale x == 0 || pfBGroup x ≤ 2) &&
  [cF8e4, cF8e5, cF16, cBf16, cF16p, cBf16p].contains (pfC x) &&
  [cF16, cBf16, cF16p, cBf16p].contains (pfCin x) && !(pfRnd x && isPair (pfC x))

/-- A format table payload (R201, R204). -/
def formatOk (b : List Byte) : Bool :=
  b.length == 528 && fieldAt b 0 1 == 1 && 1 ≤ fieldAt b 1 1 && fieldAt b 1 1 ≤ 32 && zeroAt b 2 14 &&
  (List.range 32).all (fun p => !pfValid (profileAt b p) || profileOk (profileAt b p))

/-- A payload's content for its kind, without the seam check (R184, R204, R253). -/
def contentOk (kind : Nat) (b : List Byte) : Bool :=
  match kind with
  | 0 => codebookOk b
  | 1 => compressionOk b
  | 2 => fnLayoutOk b
  | _ => formatOk b

/-! ### Slot writes (R179 to R186) -/

/-- CDC_WSTATUS results (R198). -/
def wOk : Nat := 0
def wNotOwned : Nat := 1
def wBusy : Nat := 2
def wInUse : Nat := 3
def wHoldExpired : Nat := 4
def wBadLength : Nat := 5
def wBadContent : Nat := 6
def wTableSeam : Nat := 7
def wNotLive : Nat := 8
def wSourceFault : Nat := 9
def wAbandoned : Nat := 10

/-- CDC_WSTATUS of gallery `g`: WSTATE, RESULT and NEW_GEN. -/
def State.wstatus (s : State) (g st res gen : Nat) : State :=
  s.wset CDC_WSTATUS (st * 2 ^ 28 + res * 2 ^ 16 + gen) g

/-- A slot write ends REFUSED: the slot is unchanged and reopens (R182, R184). -/
def State.refuseWrite (s : State) (g id res : Nat) : State :=
  (s.setSlot id { s.slot id with write := none }).wstatus g 4 res 0

/-- The slot that the write of gallery `g`'s instance concerns, and the write. -/
def State.writeOf (s : State) (g : Nat) : Option (Nat × SlotWrite) :=
  s.slots.findSome? (fun e => match e.2.write with
    | some w => if w.gallery == g then some (e.1, w) else none
    | none => none)

/-- Whether a requester may write gallery `g`'s CDC_ or CVU_ instance (R197, R643, R716). -/
def State.mayWriteGallery (s : State) (r : Requester) (g : Nat) : Bool :=
  match r with
  | .core c _ => s.codeWrites (s.coreChamber c) && s.chamberOf g == some (s.coreChamber c) && s.healthOf (unitGallery g) != umber
  | _ => s.owns r

/-- The generation after `g`, skipping 0 (R85, R175). -/
def nextGen (g : Nat) : Nat := if g = 0xFFFF then 1 else g + 1

/-- HELD writes of a chamber that leaves LIVE are refused (R186). -/
def State.dropHeldWrites (s : State) (n : Nat) : State :=
  (List.range 16).foldl (fun s g =>
    match s.writeOf g with
    | some (id, w) => if w.chamber == n && !w.writing then s.refuseWrite g id wNotLive else s
    | none => s) s

/-! ### Block headers (R172, R173) -/

/-- The first cause of R173 that a block header meets, 0 for none: `nnz` is the number of 1 bits of its bitmap and `cap`
the rate's cap. -/
def headerCause (h : List Byte) (slot gen kind info nnz cap : Nat) : Nat :=
  if fieldAt h 2 2 ≠ gen then 1
  else if fieldAt h 0 2 ≠ slot then 2
  else if fieldAt h 4 1 ≠ kind then 3
  else if fieldAt h 5 1 ≠ info then 4
  else if kind = 1 ∧ fieldAt h 7 1 ≠ nnz then 5
  else if kind = 1 ∧ cap < fieldAt h 7 1 then 6
  else 0

/-- A block refused: counted, with the slot the descriptor names and the GEN found (R174, R198). -/
def State.blockRefused (s : State) (g slot cause found : Nat) : State :=
  (s.bump CDC_BLK_ERR_COUNT 1 g).wset CDC_ERR_LAST (cause * 2 ^ 28 + slot * 2 ^ 16 + found) g

/-! ### Codebook operands (R168, R171) -/

/-- Entry `k` of a codebook payload. -/
def codebookEntry (b : List Byte) (k : Nat) : Val := decodeVal (fieldAt b 1 1) (fieldAt b (0x10 + 2 * k) 2)

/-- Indices in a body block of 4,096 B (R171). -/
def cbPerBlock (fmt : Nat) : Nat := if fmt = cCb4 then 8192 else 4096

/-- Whether a slot's codebook has the size an operand's format needs (R169). -/
def cbSlotOk (fmt : Nat) (content : List Byte) : Bool := content.length == (if fmt = cCb4 then 48 else 528)

/-- Codebook values `lo` to `hi` of an operand, its blocks' headers checked in ascending order: the values, or the cause
of R173. The header of block `b` is at `hdr + 8 × b` and its body at `body + 4,096 × b` (R171, R173). -/
def State.readCodebook (s : State) (c n fmt slot gen : Nat) (content : List Byte) (body hdr count : Nat) :
    Except (MFault ⊕ Nat) (List Val) × State :=
  let per := cbPerBlock fmt
  let blocks := ceilDiv count per
  (List.range blocks).foldl (fun (a : Except (MFault ⊕ Nat) (List Val) × State) b =>
    match a with
    | (.error e, s) => (.error e, s)
    | (.ok vs, s) =>
      match s.engRead c n (hdr + 8 * b) 8 with
      | (.error f, s) => (.error (.inl f), s)
      | (.ok h, s) =>
        let cause := headerCause h slot gen 0 (b2n (fmt == cCb8)) 0 0
        if cause ≠ 0 then (.error (.inr cause), s.blockRefused (c / 8) slot cause (fieldAt h 2 2)) else
        match s.engRead c n (body + 4096 * b) 4096 with
        | (.error f, s) => (.error (.inl f), s)
        | (.ok bs, s) =>
          let m := min per (count - per * b)
          let s := s.bump64 CDC_BLK_LO_COUNT CDC_BLK_HI_COUNT 1 (c / 8)
          (.ok (vs ++ (List.range m).map (fun k => codebookEntry content (elemAt bs (elemBits fmt) k))), s))
    ((.ok [], s) : Except (MFault ⊕ Nat) (List Val) × State)

/-! ### Compressed activation blocks (R187 to R193) -/

/-- Block size, value width, cap and list offset of a rate code (R187, R191). -/
def rateSize (rate : Nat) : Nat := if rate = 0 then 256 else if rate = 1 then 192 else 128
def rateWidth (rate : Nat) : Nat := if rate = 0 then 8 else if rate = 1 then 6 else 4
def rateCap (rate : Nat) : Nat := if rate = 0 then 216 else if rate = 1 then 202 else 176
def rateList (rate : Nat) : Nat := if rate = 0 then 0x10 else if rate = 1 then 0x210 else 0x290

/-- Magnitude `k` of a rate's list (R191). -/
def magnitude (table : List Byte) (rate k : Nat) : Val := f32At table (rateList rate + 4 * k)

/-- The element positions that a block's bitmap codes. -/
def codedOf (b : List Byte) : List Nat := (List.range 256).filter (fun i => bitOf (fieldAt b (8 + i / 8) 1) (i % 8))

/-- The 256 elements of a block whose header has passed (R189). -/
def decodeBlock (table : List Byte) (rate : Nat) (b : List Byte) : List Val :=
  let scale := fieldAt b 6 1
  let coded := codedOf b
  let w := rateWidth rate
  let field := leVal (b.drop 0x28)
  (List.range 256).map fun i =>
    if scale = 0xFF then .nan else
    match coded.idxOf? i with
    | none => Val.zero
    | some j =>
      let v := field / 2 ^ (j * w) % 2 ^ w
      let m := ((magnitude table rate (v % 2 ^ (w - 1))).mul (decodeE8s scale)).1
      if bitOf v (w - 1) then m.negate else m

/-- The blocks of a row of `blocks` blocks from `va`, each checked and decoded in ascending order, and whether one has a NaN scale,
which sets its consumer's invalid flag (R129, R173, R189, R209). -/
def State.readCompressed (s : State) (c n slot gen rate fmt : Nat) (table : List Byte) (va blocks : Nat) :
    Except (MFault ⊕ Nat) (List Val × Bool) × State :=
  (List.range blocks).foldl (fun (a : Except (MFault ⊕ Nat) (List Val × Bool) × State) b =>
    match a with
    | (.error e, s) => (.error e, s)
    | (.ok (vs, inv), s) =>
      match s.engRead c n (va + rateSize rate * b) (rateSize rate) with
      | (.error f, s) => (.error (.inl f), s)
      | (.ok bs, s) =>
        let cause := headerCause bs slot gen 1 (rate + 4 * b2n (fmt == cBf16)) (codedOf bs).length (rateCap rate)
        if cause ≠ 0 then (.error (.inr cause), s.blockRefused (c / 8) slot cause (fieldAt bs 2 2)) else
        (.ok (vs ++ decodeBlock table rate bs, inv || fieldAt bs 6 1 == 0xFF),
          s.bump64 CDC_BLK_LO_COUNT CDC_BLK_HI_COUNT 1 (c / 8)))
    ((.ok ([], false), s) : Except (MFault ⊕ Nat) (List Val × Bool) × State)

/-- The magnitude index whose member is nearest to `q`, none for zero; a tie goes to the smaller member (R193). -/
def nearest (table : List Byte) (rate : Nat) (q : Rat) : Option Nat :=
  let n := 2 ^ (rateWidth rate - 1)
  let dist := fun (m : Rat) => if m < q then q - m else m - q
  let best := (List.range n).foldl (fun (a : Option Nat × Rat) k =>
    let d := dist (magnitude table rate k).rat
    if d < a.2 then (some k, d) else a) (none, dist 0)
  best.1

/-- The smallest scale code with 2^(code − 127) at least `a`; 0xFE where none is (R193). -/
def blockScale (a : Rat) : Nat :=
  let e := ratLog2 a
  let e := if pow2 e = a then e else e + 1
  (max 0 (min 0xFE (e + 127))).toNat

/-- The result of a compressing store of one block: its bytes, its flags and how many values the cap dropped (R193). -/
structure Coded where
  bytes : List Byte
  flags : Flags
  dropped : Nat

/-- Bytes of a block from its header fields, the coded positions and the value field. -/
def blockBytes (slot gen rate fmt scale : Nat) (coded : List (Nat × Nat)) : List Byte :=
  let w := rateWidth rate
  let bitmap := coded.foldl (fun m e => m + 2 ^ e.1) 0
  let field := (coded.mapIdx (fun j e => e.2 * 2 ^ (j * w))).sum
  leBytes 2 slot ++ leBytes 2 gen ++ leBytes 1 1 ++ leBytes 1 (rate + 4 * b2n (fmt == cBf16)) ++ leBytes 1 scale ++
  leBytes 1 coded.length ++ leBytes 32 bitmap ++ leBytes (rateSize rate - 0x28) field

/-- One block of 256 source elements coded (R193). -/
def codeBlock (table : List Byte) (slot gen rate fmt : Nat) (xs : List Val) : Coded :=
  if xs.any (fun v => !v.isFin) then
    -- every decoded element is NaN, which differs from a source that is not
    { bytes := blockBytes slot gen rate fmt 0xFF [], dropped := 0,
      flags := ⟨false, false, xs.any (fun v => !v.isNan), xs.any Val.isInf⟩ }
  else if xs.all Val.isZero then { bytes := blockBytes slot gen rate fmt 0 [], flags := Flags.zero, dropped := 0 }
  else
    let mags := xs.map (fun v => v.abs.rat)
    let a := mags.foldl max 0
    let scale := blockScale a
    let s := pow2 ((scale : Int) - 127)
    let w := rateWidth rate
    let q : List (Nat × Nat) := (List.range 256).filterMap (fun i =>
      (nearest table rate (mags.getD i 0 / s)).map (fun k => (i, k + (if (xs.getD i .nan).neg then 2 ^ (w - 1) else 0))))
    let cap := rateCap rate
    let kept := if q.length ≤ cap then q else
      q.filter (fun e => (q.filter (fun f =>
        mags.getD e.1 0 < mags.getD f.1 0 || (mags.getD e.1 0 == mags.getD f.1 0 && f.1 < e.1))).length < cap)
    let b := blockBytes slot gen rate fmt scale kept
    let ix := (decodeBlock table rate b).zip xs |>.any (fun p => p.1.rat != p.2.rat)
    { bytes := b, flags := ⟨decide (pow2 127 < a), false, ix, false⟩, dropped := q.length - kept.length }

end Sys2Proof.Machine
end

