-- ==== Sys2Proof/Machine/Training.lean ====
section
/-! DEFINITION. The tensor watch, its estimates, closes and replays, and the event log of adapter training (R360 to
R377). -/

namespace Sys2Proof.Machine

/-! ### Elements written -/

/-- An element whose value the spec leaves unspecified, or that is written without rounding. -/
def Elem.plain (v : Val) : Elem := { exact := v, obs := v, val := v, excess := false }

/-- The element that an encoding of format `fmt` is. -/
def Elem.ofCode (fmt code : Nat) : Elem := .plain (decodeVal fmt code)

/-- Values and what they were rounded to, as watched elements. -/
def elemsOf (fmt : Nat) (vals : List Val) (r : List (Nat × Flags)) : List Elem :=
  List.zipWith (fun v (c : Nat × Flags) => { exact := v, obs := v, val := decodeVal fmt c.1, excess := c.2.of : Elem }) vals r

/-- A row of elements of format `fmt` written from a virtual address. -/
def Written.row (va fmt : Nat) (elems : List Elem) : Written := { va := va, bits := elemBits fmt, elems := elems }

/-- The f32 fields of the records of some rows as the watch sees them: their offsets in a record of 16 bytes, and the values and
roundings of each row (R256, R261, R362). -/
def recordsSeen (va : Nat) (offs : List Nat) (rows : List (List Val × List (Nat × Flags))) : List Written :=
  (rows.mapIdx (fun k r => (offs.zip (elemsOf cF32 r.1 r.2)).map (fun p => Written.row (va + 16 * k + p.1) cF32 [p.2]))).flatten

/-- What the watch sees of some elements when only the first `k` of the pieces that hold them were written (R221, R362). -/
def seenWithin (pieces : List (Nat × List Byte)) (k : Nat) (seen : List Written) : List Written :=
  (seen.flatMap (fun w => w.elems.mapIdx (fun i e => ({ w with va := w.va + i * w.bits / 8, elems := [e] } : Written)))).filter
    (fun w => (pieces.take k).any (fun p => p.1 ≤ w.va && w.va < p.1 + p.2.length))

/-! ### The training block (R360, R361) -/

def State.trainBase (s : State) (c : Nat) : Nat :=
  s.fget VXE_TRAIN_BASE_LO_ADDR c * 64 + 2 ^ 32 * s.fget VXE_TRAIN_BASE_HI_ADDR c

/-- An update that meets a fault sets FAULT and clears ENABLE (R364). -/
def State.trainFault (s : State) (c : Nat) : State := (s.fset VXE_TRAIN_STATUS_FAULT 1 c).fset VXE_TRAIN_CTRL_ENABLE 0 c

/-- One 64-byte line, or a record of it, of core `c`'s training block. -/
def State.trainRead (s : State) (c off len : Nat) : Except MFault (List Byte) × State :=
  s.readVa (reqCore c) (s.coreChamber c) (s.trainBase c + off) len

def State.trainWrite (s : State) (c off : Nat) (bs : List Byte) : State :=
  match s.writeVa (reqCore c) (s.coreChamber c) (.eng 0) 0 (s.trainBase c + off) bs with
  | (some _, s) => s.trainFault c
  | (none, s) => s

/-! ### Entry fields -/

/-- The 64 bytes of a watch entry with a field of `n` bytes at `o` replaced. -/
def putAt (e : List Byte) (o n v : Nat) : List Byte := overlay e o (leBytes n v)

def enArmed (e : List Byte) : Bool := bitOf (fieldAt e 0x10 1) 0
def enEstValid (e : List Byte) : Bool := bitOf (fieldAt e 0x10 1) 1
def enTrip (e : List Byte) : Bool := bitOf (fieldAt e 0x10 1) 2
def enHeadroom (e : List Byte) : Int := bitsOf (fieldAt e 0x10 1) 5 3
def enKind (e : List Byte) : Nat := bitsOf (fieldAt e 0x10 1) 7 6
def enObs (e : List Byte) : Option Int := if fieldAt e 0x14 2 = 0x8000 then none else some (toSigned 16 (fieldAt e 0x14 2))
def enEst (e : List Byte) : Int := toSigned 16 (fieldAt e 0x16 2)
def enCause (e : List Byte) : Nat := fieldAt e 0x1A 2 % 4

/-- A bit of CTRL set or cleared. -/
def putCtrl (e : List Byte) (i : Nat) (on : Bool) : List Byte :=
  putAt e 0x10 1 (setBitsOf (fieldAt e 0x10 1) i i (b2n on))

/-- Ef of R367; none for the other formats. -/
def efOf (fmt : Nat) : Option Int :=
  if fmt = cF4 then some 2 else if fmt = cF8e4 then some 8 else if fmt = cF8e5 then some 15
  else if fmt = cF16 then some 15 else if fmt = cBf16 then some 127 else none

/-- SCALE_E for an estimate (R367). -/
def scaleE (fmt : Nat) (est : Int) : Nat :=
  match efOf fmt with
  | none => 0x7F
  | some ef => (max 0 (min 0xFE (127 + est + 1 - ef))).toNat

/-- An entry with its estimate set, and SCALE_E with it (R367). -/
def putEst (e : List Byte) (est : Int) : List Byte :=
  putAt (putAt e 0x16 2 (ofSigned 16 est)) 0x12 1 (scaleE (fieldAt e 0x11 1) est)

/-- The counts at 0. -/
def clearCounts (e : List Byte) : List Byte := overlay e 0x1C (List.replicate 24 0#8)

/-! ### The event log (R373, R374) -/

def logClose : Nat := 1
def logTrip : Nat := 2
def logReplay : Nat := 3
def logSkip : Nat := 4
def logSeed : Nat := 5

/-- `x` per mille of `n`, cut off. -/
def permille (x n : Nat) : Nat := if n = 0 then 0 else x * 1000 / n

/-- An event record of entry `i` (R373). -/
def eventRecord (tb type i c : Nat) (e : List Byte) : List Byte :=
  let counts := type == logClose || type == logTrip
  let f := fun o => if counts then fieldAt e o 4 else 0
  leBytes 8 tb ++ leBytes 1 type ++ leBytes 1 i ++ leBytes 1 c ++ slice e 0x11 1 ++ slice e 0x16 2 ++ slice e 0x12 1 ++
  leBytes 1 (enCause e + 4 * (fieldAt e 0x13 1 % 4)) ++ leBytes 4 (f 0x1C) ++ leBytes 4 (f 0x28) ++ leBytes 4 (f 0x2C) ++
  leBytes 2 (permille (f 0x20) (f 0x1C)) ++ leBytes 2 (permille (f 0x24) (f 0x1C))

/-- A record logged, or dropped when the ring is full (R374). -/
def State.trainLog (s : State) (c type i : Nat) (e : List Byte) : State :=
  match s.trainRead c 0 64 with
  | (.error _, s) => s.trainFault c
  | (.ok h, s) =>
    let slots := 2 ^ max 4 (s.fget VXE_TRAIN_CTRL_LOG_SLOTS c)
    let head := fieldAt h 0 4
    let used := (head + 2 ^ 32 - fieldAt h 4 4) % 2 ^ 32
    if used = slots then s.trainWrite c 8 (leBytes 4 (fieldAt h 8 4 + 1))
    else (s.trainWrite c (0x1040 + 32 * (head % slots)) (eventRecord s.tb type i c e)).trainWrite c 0 (leBytes 4 (head + 1))

/-! ### The update of one instruction (R362 to R365, R368) -/

/-- A count of an entry raised, saturating (R363). -/
def addCount (e : List Byte) (o n : Nat) : List Byte := putAt e o 4 (saturate 0xFFFF_FFFF (fieldAt e o 4 + n))

/-- The largest exponent observed among some elements (R363). -/
def largestExp (l : List Elem) : Option Int :=
  (l.filter (fun x => x.exact.isFin && !x.exact.isZero)).foldl (fun a x => match x.obs with
    | .fin _ q => if q = 0 then a else some (match a with | some m => max m (ratLog2 q) | none => ratLog2 q)
    | _ => a) none

/-- How many elements satisfy `p`. -/
def countElems (l : List Elem) (p : Elem → Bool) : Nat := (l.filter p).length

/-- An entry after the elements of one instruction, before seeding and trips (R363, R354). -/
def entryUpdate (e : List Byte) (rnd : Bool) (l : List Elem) : List Byte :=
  let zero := fun (x : Elem) => x.val.isZero
  let e := addCount e 0x1C l.length
  let e := addCount e 0x20 (countElems l zero)
  let e := addCount e 0x24 (countElems l (fun x => zero x && !x.exact.isZero))
  let e := addCount e 0x28 (countElems l (·.excess))
  let e := addCount e 0x2C (countElems l (fun x => !x.val.isFin))
  let e := if !rnd && (enKind e == 1 || enKind e == 2) then addCount e 0x30 1 else e
  match largestExp l, enObs e with
  | none, _ => e
  | some m, some o => putAt e 0x14 2 (ofSigned 16 (max m o))
  | some m, none => putAt e 0x14 2 (ofSigned 16 m)

/-- The lowest armed entry in use whose range holds the line of a virtual address (R362). -/
def entryOf (entries : List (List Byte)) (va : Nat) : Option Nat :=
  (List.range entries.length).find? (fun i =>
    let e := entries.getD i []
    let line := va / 64 * 64
    enArmed e && fieldAt e 0 8 ≤ line && line < fieldAt e 0 8 + fieldAt e 8 8)

/-- The first `n` entries of core `c`'s block. -/
def State.trainEntries (s : State) (c : Nat) : Nat → Option (List (List Byte)) × State
  | 0 => (some [], s)
  | n + 1 =>
    match s.trainEntries c n with
    | (none, s) => (none, s)
    | (some l, s) =>
      match s.trainRead c (0x40 + 64 * n) 64 with
      | (.error _, s) => (none, s)
      | (.ok e, s) => (some (l ++ [e]), s)

/-- The elements of some rows that fall to entry `i`. -/
def fallTo (entries : List (List Byte)) (rows : List Written) (i : Nat) : List (List Elem) :=
  rows.filterMap fun r =>
    let l := (r.elems.mapIdx (fun k x => (k, x))).filter (fun p => entryOf entries (r.va + p.1 * r.bits / 8) == some i)
    if l.isEmpty then none else some (l.map (·.2))

/-- One entry's update by an instruction: the counts, then the seed, then the trip, each logged (R364, R365, R368). -/
def State.watchEntry (s : State) (c i : Nat) (e0 : List Byte) (rnd : Bool) (l : List (List Elem)) : State :=
  let off := 0x40 + 64 * i
  let e := (l.foldl (fun (a : List Byte × Bool) p => (entryUpdate a.1 (rnd || a.2) p, true)) (e0, false)).1
  let seed := !enEstValid e && (enObs e).isSome
  let e := if seed then putCtrl (putEst e ((enObs e).getD 0 + 2)) 1 true else e
  let nonfinite := fieldAt e0 0x2C 4 < fieldAt e 0x2C 4
  let trip := nonfinite && !bitOf (enCause e) 0
  let e := if nonfinite then putCtrl (putAt e 0x1A 2 (enCause e ||| 1)) 2 true else e
  let s := s.trainWrite c off e
  let s := if seed then s.trainLog c logSeed i e else s
  if trip then s.trainLog c logTrip i e else s

/-- The watch over everything one instruction of core `c` wrote (R362 to R364). -/
def State.watch (s : State) (c : Nat) (rnd : Bool) (rows : List Written) : State :=
  let n := min 64 (s.fget VXE_TRAIN_CTRL_ENTRIES c)
  if s.fget VXE_TRAIN_CTRL_ENABLE c == 0 || n == 0 then s else
  match s.trainEntries c n with
  | (none, s) => s.trainFault c
  | (some entries, s) =>
    (List.range n).foldl (fun s i =>
      let l := fallTo entries rows i
      if l.isEmpty then s else s.watchEntry c i (entries.getD i []) rnd l) s

/-! ### Closes (R366) -/

/-- An entry closed: its line after, and its line as the CLOSE record reports it; none where ELEMS is 0 (R366). -/
def closeEntry (e : List Byte) : Option (List Byte × List Byte) :=
  let elems := fieldAt e 0x1C 4
  if elems = 0 then none else
  let sat := fieldAt e 0x28 4
  let bad := fieldAt e 0x2C 4
  let cause := enCause e ||| (if fieldAt e 0x18 2 * elems < sat * 1000 then 2 else 0) ||| (if 0 < bad then 1 else 0)
  let e := putAt e 0x1A 2 cause
  let e := if cause ≠ 0 then putCtrl e 2 true else e
  let est := match enObs e with
    | some o => if sat ≠ 0 ∨ bad ≠ 0 then max (enEst e + 1) (o + enHeadroom e + 1) else max (o + enHeadroom e) (enEst e - 1)
    | none => if sat ≠ 0 ∨ bad ≠ 0 then enEst e + 1 else enEst e
  let e := putEst e est
  let after := putAt (putAt (clearCounts e) 0x14 2 0x8000) 0x1A 2 0
  some (putAt (putAt after 0x34 4 (fieldAt e 0x34 4 + 1)) 0x13 1 0, e)

/-- Entry `i` of core `c` closed (R366). -/
def State.trainClose (s : State) (c i : Nat) (armedOnly : Bool) : State :=
  match s.trainRead c (0x40 + 64 * i) 64 with
  | (.error _, s) => s.trainFault c
  | (.ok e, s) =>
    if armedOnly && !enArmed e then s else
    match closeEntry e with
    | none => s
    | some (after, rec_) => (s.trainWrite c (0x40 + 64 * i) after).trainLog c logClose i rec_

/-- Whether a requester may write the registers of core `c`'s engines: code of the chamber that holds the core (R266, R716). -/
def State.mayWriteCore (s : State) (r : Requester) (c : Nat) : Bool :=
  match r with
  | .core d _ => s.codeWrites (s.coreChamber d) && s.chamberOf (c / 8) == some (s.coreChamber d) && s.coreLive c
  | _ => false

/-- TRAIN_CLOSE: one entry of core `c` (R366). -/
def execTrainClose (r : Requester) (c i : Nat) (s : State) : Result :=
  .next (if s.mayWriteCore r c && i < 64 then s.trainClose c i false else s)

/-- Every armed entry of core `c` in use closed (R366). -/
def State.trainCloseAll (s : State) (c : Nat) : State :=
  (List.range (min 64 (s.fget VXE_TRAIN_CTRL_ENTRIES c))).foldl (fun s i => s.trainClose c i true) s

/-- TRAIN_CLOSE_ALL: every armed entry in use (R366). -/
def execTrainCloseAll (r : Requester) (c : Nat) (s : State) : Result :=
  .next (if s.mayWriteCore r c then s.trainCloseAll c else s)

/-! ### Replays (R371, R372) -/

/-- An entry moved to format `fmt` for a replay: none where it is not armed or already holds three replays (R371). -/
def replayEntry (e : List Byte) (fmt : Nat) : Option (List Byte) :=
  if !enArmed e || 3 ≤ fieldAt e 0x13 1 then none else
  let e := putEst (putAt e 0x11 1 fmt) (enEst e)
  some (putAt (clearCounts (putCtrl e 2 false)) 0x13 1 (fieldAt e 0x13 1 + 1))

/-- Entry `i` of core `c` replayed in format `fmt` (R371). -/
def State.trainReplay (s : State) (c i fmt : Nat) : State :=
  match s.trainRead c (0x40 + 64 * i) 64 with
  | (.error _, s) => s.trainFault c
  | (.ok e, s) =>
    match replayEntry e (fmt % 16) with
    | none => s
    | some e => (s.trainWrite c (0x40 + 64 * i) e).trainLog c logReplay i e

/-- Entry `i` of core `c` skipped (R372). -/
def State.trainSkip (s : State) (c i : Nat) : State :=
  match s.trainRead c (0x40 + 64 * i) 64 with
  | (.error _, s) => s.trainFault c
  | (.ok e, s) =>
    if !enArmed e then s else
    let e := putCtrl e 2 false
    (s.trainWrite c (0x40 + 64 * i) e).trainLog c logSkip i e

/-- TRAIN_REPLAY: SKIP 0 (R371). -/
def execTrainReplay (r : Requester) (c i fmt : Nat) (s : State) : Result :=
  .next (if s.mayWriteCore r c && i < 64 then s.trainReplay c i fmt else s)

/-- TRAIN_SKIP: SKIP 1 (R372). -/
def execTrainSkip (r : Requester) (c i : Nat) (s : State) : Result :=
  .next (if s.mayWriteCore r c && i < 64 then s.trainSkip c i else s)

end Sys2Proof.Machine
end

