-- ==== Sys2Proof/Machine/Matrix.lean ====
section
/-! DEFINITION. The matrix engine: MX.RUN, its completion, sampled duplicate execution and its abort (R199 to R234). -/

namespace Sys2Proof.Machine

/-! ### The descriptor (R205, R207) -/

/-- A decoded MX.RUN descriptor. -/
structure MxDesc where
  accIn : Bool
  noDup : Bool
  fmtSlot : Nat
  profile : Nat
  m : Nat
  n : Nat
  cb : Nat
  cmp : Nat
  k : Nat
  aStride : Nat
  bStride : Nat
  cStride : Nat
  aBase : Nat
  aScale : Nat
  bBase : Nat
  bScale : Nat
  bAux : Nat
  cBase : Nat
  cinBase : Nat
  cinStride : Nat

def parseMx (d : List Byte) : MxDesc :=
  { accIn := bitOf (fieldAt d 1 1) 0, noDup := bitOf (fieldAt d 1 1) 1, fmtSlot := fieldAt d 2 2,
    profile := fieldAt d 4 1, m := fieldAt d 6 2, n := fieldAt d 8 2, cb := fieldAt d 0xA 2, cmp := fieldAt d 0xC 2,
    k := fieldAt d 0x10 4, aStride := fieldAt d 0x14 4, bStride := fieldAt d 0x18 4, cStride := fieldAt d 0x1C 4,
    aBase := fieldAt d 0x20 8, aScale := fieldAt d 0x28 8, bBase := fieldAt d 0x30 8, bScale := fieldAt d 0x38 8,
    bAux := fieldAt d 0x40 8, cBase := fieldAt d 0x48 8, cinBase := fieldAt d 0x50 8, cinStride := fieldAt d 0x58 4 }

/-- The profile word that a descriptor names; 0 where its slot holds none (R201, R204). -/
def State.mxProfile (s : State) (n : Nat) (x : MxDesc) : Nat :=
  match s.slotContent n x.fmtSlot with
  | some b => if slotKind x.fmtSlot == 3 && x.profile < fieldAt b 1 1 then profileAt b x.profile else 0
  | none => 0

/-- Bytes of one row of A (R209). -/
def aRowBytes (p k : Nat) : Nat :=
  if pfAComp p then k / 256 * rateSize (pfARate p) else rowBytes (elemBits (pfA p)) k

/-- Bytes of one column of plain or sparse B (R209). -/
def bColBytes (p k : Nat) : Nat := rowBytes (elemBits (pfB p)) (if pfSparse p then k / 2 else k)

/-- A base address that the profile uses: 64-byte aligned and within 57 bits (R207, R208). -/
def baseOk (a : Nat) : Bool := a % 64 == 0 && a < 2 ^ 57

/-- A stride that the profile uses: a multiple of 64 and no smaller than one row (R208). -/
def strideOk (stride row : Nat) : Bool := stride % 64 == 0 && row ≤ stride

/-- Group size of a group code (R118). -/
def groupSize (g : Nat) : Nat := 32 * 2 ^ g

/-- The checks of R208 on a descriptor under its profile. -/
def State.mxOk (s : State) (n : Nat) (d : List Byte) : Bool :=
  let x := parseMx d
  let p := s.mxProfile n x
  fieldAt d 0 1 == 1 && fieldAt d 1 1 < 4 && zeroAt d 5 1 && zeroAt d 0xE 2 && zeroAt d 0x5C 36 && pfValid p &&
  1 ≤ x.m && x.m ≤ 512 && 1 ≤ x.n && x.n ≤ 128 && 32 ≤ x.k && x.k ≤ 1_048_576 && x.k % 32 == 0 &&
  (pfAScale p == 0 || (x.k % groupSize (pfAGroup p) == 0 && baseOk x.aScale)) &&
  (pfBScale p == 0 || (x.k % groupSize (pfBGroup p) == 0 && baseOk x.bScale)) &&
  (!pfAComp p || x.k % 256 == 0) &&
  baseOk x.aBase && baseOk x.bBase && baseOk x.cBase && (!(pfSparse p || isCb (pfB p)) || baseOk x.bAux) &&
  strideOk x.aStride (aRowBytes p x.k) &&
  (if isCb (pfB p) then x.bStride == 0 else strideOk x.bStride (bColBytes p x.k)) &&
  strideOk x.cStride (rowBytes (elemBits (pfC p)) x.n) &&
  (!x.accIn || (baseOk x.cinBase && strideOk x.cinStride (rowBytes (elemBits (pfCin p)) x.n))) &&
  (if isCb (pfB p) then
     slotKind x.cb == 0 && (match s.slotContent n x.cb with | some b => cbSlotOk (pfB p) b | none => false)
   else x.cb == 0xFFFF) &&
  (if pfAComp p then slotKind x.cmp == 1 && (s.slotContent n x.cmp).isSome else x.cmp == 0xFFFF)

/-- The slots that a descriptor names (R210). -/
def mxSlots (p : Nat) (x : MxDesc) : List Nat :=
  [x.fmtSlot] ++ (if isCb (pfB p) then [x.cb] else []) ++ (if pfAComp p then [x.cmp] else [])

/-! ### Sampling (R225 to R227) -/

/-- RATE_LOG2 in force. -/
def State.dupRate (s : State) (c : Nat) : Nat := min 20 (s.fget MXE_DUP_CTRL_RATE_LOG2 c)

/-- A value for a load of the sample counter: 1 to 2^(RATE_LOG2 + 1) − 1, which one being open (R225, R226). -/
def State.sampleLoad (s : State) (c : Nat) : Nat × State :=
  let (v, s) := s.draw (2 ^ (s.dupRate c + 1) - 1)
  (v + 1, s)

def State.setSample (s : State) (c : Nat) (v : Option Nat) : State :=
  { s with samples := smPut (fun _ => none) s.samples c v }

/-- The sample counter at the issue of an MX.RUN: whether it is sampled (R225). An instruction with NO_DUP leaves the counter
as it is. -/
def State.sampleStep (s : State) (c : Nat) (noDup : Bool) : Bool × State :=
  if noDup || s.fget MXE_DUP_CTRL_ENABLE c == 0 then (false, s) else
  match smGet (fun _ => (none : Option Nat)) s.samples c with
  | none =>
    let (v, s) := s.sampleLoad c
    (false, s.setSample c (some (v - 1)))
  | some 0 =>
    let (v, s) := s.sampleLoad c
    (true, s.setSample c (some v))
  | some (v + 1) => (false, s.setSample c (some v))

/-- The first of some lists that is not empty. -/
def firstOf (l : List (List Nat)) : List Nat := (l.find? (fun x => !x.isEmpty)).getD []

/-- The checker for core `c`: a live core of its gallery, else one of another gallery of the chamber; clear before amber, which of
equals is open (R227). -/
def State.pickChecker (s : State) (c : Nat) : Option Nat × State :=
  let clear := fun (l : List Nat) => l.filter (fun d => s.healthOf (unitCore d) == 0)
  let own := (s.liveCores (c / 8)).filter (· != c)
  let others := (s.coresOf (s.coreChamber c)).filter (fun d => d / 8 != c / 8)
  let l := firstOf [clear own, own, clear others, others]
  if l.isEmpty then (none, s) else
  let (k, s) := s.draw l.length
  (l[k]?, s)

/-- An MX.RUN sampled or not as it issues: whether it is, and its checker; one sampled with no other live core is skipped
(R225, R227). -/
def State.sample (s : State) (c : Nat) (item : ItemKey) (noDup : Bool) : Option Nat × State :=
  match s.sampleStep c noDup with
  | (false, s) => (none, s)
  | (true, s) =>
    match s.pickChecker c with
    | (none, s) => (none, s.bump MXE_DUP_SKIPPED_COUNT 1 c)
    | (some d, s) => (some d, s.modItem item (fun i => { i with sampled := true }))

/-! ### MX.RUN (R205 to R210) -/

def sregOf (w : Word64) : Nat := bitsOf w.toNat 55 53

/-- Command decode of MX.RUN: the descriptor is judged under its profile, and the item takes a reference on each slot it names (R208,
R210). -/
def mxDecoder : Decoder where
  names s o :=
    let x := parseMx o.desc
    mxSlots (s.mxProfile (s.coreChamber o.core) x) x
  waits _ _ := false
  decode s o :=
    let n := s.coreChamber o.core
    if !s.mxOk n o.desc then s.engFailed o cFormat 0 else
    let x := parseMx o.desc
    let p := s.mxProfile n x
    (s.take o (mxSlots p x)).modEng o.id (fun o => { o with aux := [p] })

/-- MX_RUN: the descriptor is copied, the instruction is sampled or not, and it joins the MXE's queue (R205, R206, R225 to R228). -/
def execMxRun (c t : Nat) (s : State) : Result :=
  .next (s.issue c t (fun w => opcodeOf w == 0x80) fun w x s =>
    s.needing c t (regMask (sregOf w)) (
      let off := bitsOf w.toNat 20 0
      if bitsOf w.toNat 52 21 ≠ 0 ∨ off % 128 ≠ 0 then (s.mxEnded c t cFormat).failStrand c t cFormat 0
      else if !s.engineRoom c Engine.mxe.index then s.stall c t (.engine Engine.mxe.index)
      else s.describe c t off 128 (fun f s => s.mxEnded c t f.code) fun d s =>
        let (checker, s) := s.sample c (x.current.getD ⟨0, 0, none⟩) (parseMx d).noDup
        s.accept c t x w .mxe (sregOf w) d [] mxDecoder checker.isSome checker))

/-! ### Operands -/

/-- A scale tensor's run for one index: K ÷ G scales, 1 B or 2 B each (R166). -/
def State.readScales (s : State) (c n code group k base index : Nat) : Except MFault (List Val) × State :=
  if code = 0 then (.ok [], s) else
  let cnt := k / groupSize group
  match s.engRead c n (base + index * cnt * code) (cnt * code) with
  | (.error f, s) => (.error f, s)
  | (.ok b, s) => (.ok ((List.range cnt).map (fun i => decodeScale code (fieldAt b (code * i) code))), s)

/-- Elements with their group's scale applied, and whether the invalid flag is set (R129, R130, R164). -/
def applyScales (code group : Nat) (scales vals : List Val) : List Val × Bool :=
  if code = 0 then (vals, false) else
  let r := vals.mapIdx (fun i v => scaled v (scales.getD (i / groupSize group) .nan))
  (r.map (·.1), r.any (·.2))

/-- The kept values of a sparse column at their dense places (R214, R215): two values for one place are summed, and whether such a sum
forms a NaN (R142). -/
def spreadSparse (kept : List Val) (nibbles : List Nat) : List (Val × Bool) :=
  nibbles.mapIdx (fun g m =>
    let v0 := kept.getD (2 * g) .nan
    let v1 := kept.getD (2 * g + 1) .nan
    (List.range 4).map (fun p =>
      if m % 4 = p ∧ m / 4 = p then v0.add v1 else (if m % 4 = p then v0 else if m / 4 = p then v1 else Val.zero, false)))
  |>.flatten

/-- What stops an instruction while it reads: a memory fault, or a coded block's cause. -/
abbrev Stop := MFault ⊕ Nat

/-- Row `r` of A in widened form, and whether a scale was invalid (R209). -/
def State.mxRowA (s : State) (o : EngOp) (n p : Nat) (x : MxDesc) (r : Nat) : Except Stop (List Val × Bool) × State :=
  let va := x.aBase + x.aStride * r
  if pfAComp p then
    let gen := ((s.item o.item).map (·.genOf x.cmp)).getD 0
    match s.readCompressed o.core n x.cmp gen (pfARate p) (pfA p) ((s.slotContent n x.cmp).getD []) va (x.k / 256) with
    | (.error e, s) => (.error e, s)
    | (.ok r, s) => (.ok r, s)
  else
    match s.engRead o.core n va (rowBytes (elemBits (pfA p)) x.k) with
    | (.error f, s) => (.error (.inl f), s)
    | (.ok b, s) =>
      match s.readScales o.core n (pfAScale p) (pfAGroup p) x.k x.aScale r with
      | (.error f, s) => (.error (.inl f), s)
      | (.ok sc, s) =>
        let v := (List.range x.k).map (fun i => decodeVal (pfA p) (elemAt b (elemBits (pfA p)) i))
        (.ok (applyScales (pfAScale p) (pfAGroup p) sc v), s)

/-- Column `j` of plain or sparse B in widened form (R209, R214). -/
def State.mxColB (s : State) (o : EngOp) (n p : Nat) (x : MxDesc) (j : Nat) : Except Stop (List Val × Bool) × State :=
  match s.engRead o.core n (x.bBase + x.bStride * j) (bColBytes p x.k) with
  | (.error f, s) => (.error (.inl f), s)
  | (.ok b, s) =>
    let bits := elemBits (pfB p)
    match (if pfSparse p then s.engRead o.core n (x.bAux + x.k / 8 * j) (x.k / 8) else (.ok [], s)) with
    | (.error f, s) => (.error (.inl f), s)
    | (.ok meta_, s) =>
      match s.readScales o.core n (pfBScale p) (pfBGroup p) x.k x.bScale j with
      | (.error f, s) => (.error (.inl f), s)
      | (.ok sc, s) =>
        let cnt := if pfSparse p then x.k / 2 else x.k
        let v := (List.range cnt).map (fun i => decodeVal (pfB p) (elemAt b bits i))
        if pfSparse p then
          -- the scale of a kept value is that of its place's group; four places share one group
          let r := v.mapIdx (fun i e =>
            if pfBScale p = 0 then (e, false) else scaled e (sc.getD (i / 2 * 4 / groupSize (pfBGroup p)) .nan))
          let nib := (List.range (x.k / 4)).map (fun g => elemAt meta_ 4 g)
          let dense := spreadSparse (r.map (·.1)) nib
          (.ok (dense.map (·.1), r.any (·.2) || dense.any (·.2)), s)
        else (.ok (applyScales (pfBScale p) (pfBGroup p) sc v), s)

/-- All of B: codebook blocks in order, or column by column. -/
def State.mxB (s : State) (o : EngOp) (n p : Nat) (x : MxDesc) : Except Stop (List (List Val) × Bool) × State :=
  if isCb (pfB p) then
    let gen := ((s.item o.item).map (·.genOf x.cb)).getD 0
    match s.readCodebook o.core n (pfB p) x.cb gen ((s.slotContent n x.cb).getD []) x.bBase x.bAux (x.n * x.k) with
    | (.error e, s) => (.error e, s)
    | (.ok v, s) =>
      (List.range x.n).foldl (fun (a : Except Stop (List (List Val) × Bool) × State) j =>
        match a with
        | (.error e, s) => (.error e, s)
        | (.ok (l, inv), s) =>
          match s.readScales o.core n (pfBScale p) (pfBGroup p) x.k x.bScale j with
          | (.error f, s) => (.error (.inl f), s)
          | (.ok sc, s) =>
            let (col, i) := applyScales (pfBScale p) (pfBGroup p) sc ((v.drop (j * x.k)).take x.k)
            (.ok (l ++ [col], inv || i), s)) ((.ok ([], false), s) : Except Stop (List (List Val) × Bool) × State)
  else
    (List.range x.n).foldl (fun (a : Except Stop (List (List Val) × Bool) × State) j =>
      match a with
      | (.error e, s) => (.error e, s)
      | (.ok (l, inv), s) =>
        match s.mxColB o n p x j with
        | (.error e, s) => (.error e, s)
        | (.ok (col, i), s) => (.ok (l ++ [col], inv || i), s))
      ((.ok ([], false), s) : Except Stop (List (List Val) × Bool) × State)

/-- All of A, row by row. -/
def State.mxA (s : State) (o : EngOp) (n p : Nat) (x : MxDesc) : Except Stop (List (List Val) × Bool) × State :=
  (List.range x.m).foldl (fun (a : Except Stop (List (List Val) × Bool) × State) r =>
    match a with
    | (.error e, s) => (.error e, s)
    | (.ok (l, inv), s) =>
      match s.mxRowA o n p x r with
      | (.error e, s) => (.error e, s)
      | (.ok (row, i), s) => (.ok (l ++ [row], inv || i), s))
    ((.ok ([], false), s) : Except Stop (List (List Val) × Bool) × State)

/-- The accumulate input, row by row; empty without ACC_IN (R213, R216). -/
def State.mxCin (s : State) (o : EngOp) (n p : Nat) (x : MxDesc) : Except MFault (List (List Val)) × State :=
  if !x.accIn then (.ok [], s) else
  let bits := elemBits (pfCin p)
  match s.engReads o.core n ((List.range x.m).map (fun r => (x.cinBase + x.cinStride * r, rowBytes bits x.n))) with
  | (.error f, s) => (.error f, s)
  | (.ok rows, s) =>
    (.ok (rows.map (fun b => (List.range x.n).map (fun j => decodeVal (pfCin p) (elemAt b bits j)))), s)

/-! ### The product (R131, R216) -/

/-- One output element: the products along K and the accumulate input, summed within the bound of R216; the value and
whether it is invalid (R142). -/
def State.mxElement (s : State) (a b : List Val) (cin : Option Val) : (Val × Bool) × State :=
  let prods := List.zipWith Val.mul a b
  let terms := prods.map (·.1) ++ cin.toList
  let ((v, i), s) := s.accumulate (((terms.length - 1 : Nat) : Rat) * pow2 (-24)) terms
  ((v, i || prods.any (·.2)), s)

/-- The tile in row order, and whether any element is invalid. -/
def State.mxTile (s : State) (A B cin : List (List Val)) : (List Val × Bool) × State :=
  (A.mapIdx (fun r a => (r, a))).foldl (fun (acc : (List Val × Bool) × State) ra =>
    (B.mapIdx (fun j b => (j, b))).foldl (fun (acc : (List Val × Bool) × State) jb =>
      let ((vs, inv), s) := acc
      let c := (cin[ra.1]?).bind (·[jb.1]?)
      let ((v, i), s) := s.mxElement ra.2 jb.2 c
      ((vs ++ [v], inv || i), s)) acc) (([], false), s)

/-! ### Overlaps (R222) -/

/-- Whether two byte ranges meet. -/
def meets (a b : Nat × Nat) : Bool := a.1 < b.1 + b.2 && b.1 < a.1 + a.2

/-- The ranges of C, and those of A, B, the scales and the metadata. -/
def mxRangesC (p : Nat) (x : MxDesc) : List (Nat × Nat) :=
  (List.range x.m).map (fun r => (x.cBase + x.cStride * r, rowBytes (elemBits (pfC p)) x.n))

def mxRangesIn (p : Nat) (x : MxDesc) : List (Nat × Nat) :=
  (List.range x.m).map (fun r => (x.aBase + x.aStride * r, aRowBytes p x.k)) ++
  (if isCb (pfB p) then
     let blocks := ceilDiv (x.n * x.k) (cbPerBlock (pfB p))
     [(x.bBase, 4096 * blocks), (x.bAux, 8 * blocks)]
   else (List.range x.n).map (fun j => (x.bBase + x.bStride * j, bColBytes p x.k))) ++
  (if pfSparse p then [(x.bAux, x.k / 8 * x.n)] else []) ++
  (if pfAScale p = 0 then [] else [(x.aScale, x.m * (x.k / groupSize (pfAGroup p)) * pfAScale p)]) ++
  (if pfBScale p = 0 then [] else [(x.bScale, x.n * (x.k / groupSize (pfBGroup p)) * pfBScale p)])

/-- Free encodings for elements whose values are unspecified. -/
def State.drawCodes (s : State) (bits : Nat) : Nat → List Nat × State
  | 0 => ([], s)
  | n + 1 =>
    let (v, s) := s.draw (2 ^ bits)
    let (l, s) := s.drawCodes bits n
    (v :: l, s)

/-! ### Completion (R212, R216 to R221) -/

/-- Rows of encodings as bytes to write, `cols` elements a row. -/
def rowsOut (base stride rows cols fmt : Nat) (codes : List Nat) : List (Nat × List Byte) :=
  (List.range rows).map (fun r => (base + stride * r, packRow (elemBits fmt) ((codes.drop (r * cols)).take cols)))

/-- The same rows as the tensor watch sees them. -/
def rowsSeen (base stride rows cols fmt : Nat) (elems : List Elem) : List Written :=
  (List.range rows).map (fun r => .row (base + stride * r) fmt ((elems.drop (r * cols)).take cols))

/-- K-step of an instruction (R199, R200, R214). -/
def kStep (p : Nat) : Nat :=
  let wide := fun f => f == cF16 || f == cBf16 || isCb f
  let mid := fun f => f == cI8 || f == cF8e4 || f == cF8e5
  let base := if pfAComp p || wide (pfA p) || wide (pfB p) then 64 else if mid (pfA p) || mid (pfB p) then 128 else 256
  if pfSparse p then 2 * base else base

/-- The counters of a finished instruction; the cycles it waited are open (R212, R234). -/
def State.mxCount (s : State) (c p : Nat) (x : MxDesc) : State :=
  let s := s.bump64 MXE_MAC_LO_COUNT MXE_MAC_HI_COUNT (x.m * x.n * x.k) c
  let s := s.bump64 MXE_BUSY_LO_COUNT MXE_BUSY_HI_COUNT (ceilDiv x.k (kStep p) * max x.m 32) c
  let (w, s) := s.draw (2 ^ 32)
  s.bump64 MXE_STALL_LO_COUNT MXE_STALL_HI_COUNT w c

/-- The operands of an instruction: the accumulate input, which is read before the first K-step, and A and B; and whether one is
invalid (R209, R213). -/
def State.mxOperands (s : State) (o : EngOp) (n p : Nat) (x : MxDesc) :
    Except Stop (List (List Val) × List (List Val) × List (List Val) × Bool) × State :=
  match s.mxCin o n p x with
  | (.error f, s) => (.error (.inl f), s)
  | (.ok cin, s) =>
  match s.mxA o n p x with
  | (.error e, s) => (.error e, s)
  | (.ok (A, ia), s) =>
  match s.mxB o n p x with
  | (.error e, s) => (.error e, s)
  | (.ok (B, ib), s) => (.ok (A, B, cin, ia || ib), s)

/-- The tile that core `o.core` computes: its values, what they round to, and whether one is invalid (R216, R217). -/
def State.mxProduct (s : State) (o : EngOp) (p : Nat) (ops : List (List Val) × List (List Val) × List (List Val) × Bool) :
    (List Val × List (Nat × Flags) × Bool) × State :=
  let ((vals, inv), s) := s.mxTile ops.1 ops.2.1 ops.2.2.1
  let (r, s) := s.roundEach o.core false (pfRnd p) (pfC p) (pfSat p) vals
  ((vals, r, ops.2.2.2 || inv), s)

/-- The sum of the magnitudes of each element's terms, as the checker forms it (R228). -/
def State.mxMagnitudes (s : State) (A B cin : List (List Val)) : List (Option Rat) × State :=
  let abs := fun (l : List (List Val)) => l.map (fun r => r.map Val.abs)
  let ((vals, _), s) := s.mxTile (abs A) (abs B) (abs cin)
  (vals.map (fun v => if v.isFin then some v.rat else none), s)

/-- The copy of a sampled instruction on its checker `d`, beside the encodings `codes` of the primary: the checker reads the same
operands and computes with its own roundings. Where the output overlaps an input its values are unspecified, and the copy has the
primary's (R222, R232); a copy that cannot read its operands leaves nothing to compare (R228; log entry 110). -/
def State.mxCopy (s : State) (o : EngOp) (d n p : Nat) (x : MxDesc) (clash : Bool) (codes : List Nat) : Option (List DupElem) × State :=
  let copy := { o with core := d }
  match s.mxOperands copy n p x with
  | (.error _, s) => (none, s)
  | (.ok ops, s) =>
    let ((_, mine, _), s) := s.mxProduct copy p ops
    let (mags, s) := s.mxMagnitudes ops.1 ops.2.1 ops.2.2.1
    let mine := if clash then codes else codesOf mine
    (some ((codes.zip (mine.zip mags)).map (fun e => { primary := e.1, copy := e.2.1, magnitude := e.2.2 })), s.mxCount d p x)

/-- The copy of a sampled instruction made, if it is one; with nothing to compare it goes on unsampled, and is counted (R224, R228). -/
def State.mxSampled (s : State) (o : EngOp) (n p : Nat) (x : MxDesc) (clash : Bool) (codes : List Nat) : State :=
  match o.checker with
  | none => s
  | some d =>
    match s.mxCopy o d n p x clash codes with
    | (some l, s) => s.modEng o.id (fun o => { o with dup := l })
    | (none, s) => (s.bump MXE_DUP_SKIPPED_COUNT 1 o.core).modEng o.id (fun o => { o with checker := none })

/-- The instruction computed, and its copy made where it is sampled: its tile, whose lines go out in no defined order; none where it
fails (R213, R216 to R218, R228). -/
def State.mxForm (s : State) (o : EngOp) : Option Tile × State :=
  let n := s.coreChamber o.core
  let x := parseMx o.desc
  let p := o.aux.headD 0
  match s.mxOperands o n p x with
  | (.error (.inl f), s) => (none, s.engFailed o f.code f.cause)
  | (.error (.inr cause), s) => (none, s.engFailed o cCodedBlock cause)
  | (.ok ops, s) =>
  let ((vals, r, inv), s) := s.mxProduct o p ops
  let fl := if inv then (flagsOf r).or Flags.invalid else flagsOf r
  let fmt := pfC p
  let clash := (mxRangesC p x).any (fun a => (mxRangesIn p x).any (meets a))
  let (codes, s) := if clash then s.drawCodes (elemBits fmt) r.length else (codesOf r, s)
  let elems := if clash then codes.map (Elem.ofCode fmt) else elemsOf fmt vals r
  let s := s.mxSampled o n p x clash codes
  let lines := cutAtLines (rowsOut x.cBase x.cStride x.m x.n fmt codes)
  let (order, s) := s.shuffle lines.length (List.range lines.length)
  (some { left := order.filterMap (fun i => lines[i]?), done := [], seen := rowsSeen x.cBase x.cStride x.m x.n fmt elems, flags := fl }, s)

/-- A tile of which `k` more lines are written. -/
def Tile.wrote (t : Tile) (k : Nat) : Tile := { t with left := t.left.drop k, done := t.done ++ t.left.take k }

/-- What the watch sees of the lines of a tile that are written. -/
def Tile.watched (t : Tile) : List Written := seenWithin t.done t.done.length t.seen

/-- Up to `k` more lines of a tile written; with the last one the instruction has its status word, which for a sampled one waits for
the compare (R218, R219, R221). -/
def State.mxDrain (s : State) (o : EngOp) (t : Tile) (k : Nat) : State :=
  let x := parseMx o.desc
  let p := o.aux.headD 0
  match s.engWrites o (s.coreChamber o.core) (t.left.take k) with
  | ((some f, j), s) =>
    ((s.watch o.core (pfRnd p) (t.wrote j).watched).raise .mxe o.core o.strand t.flags).engFailed o f.code f.cause
  | ((none, _), s) =>
    if k < t.left.length then s.modEng o.id (fun o => { o with tile := some (t.wrote k) }) else
    let s := s.watch o.core (pfRnd p) t.seen
    let s := (s.raise .mxe o.core o.strand t.flags).mxCount o.core p x
    if o.sampled then s.modEng o.id (fun o => { o with status := some (statusWord 0 true t.flags) })
    else s.engServed o (statusWord 0 false t.flags)

/-- The instruction computed, unless it has begun to drain, and its tile written to the end (R213, R218, R219). -/
def State.mxCompute (s : State) (o : EngOp) : State :=
  match o.tile with
  | some t => s.mxDrain o t t.left.length
  | none =>
    match s.mxForm o with
    | (none, s) => s
    | (some t, s) => s.mxDrain o t t.left.length

/-- An MXE goes on for a moment: it computes its tile, or writes one line of it, but for the last (R213, R218). -/
def State.mxGoOn (s : State) (o : EngOp) : State :=
  match o.tile with
  | some t => if t.left.length ≤ 1 then s else s.mxDrain o t 1
  | none =>
    match s.mxForm o with
    | (none, s) => s
    | (some t, s) => s.modEng o.id (fun o => { o with tile := some t })

/-- In a tick the MXE of an open core, or none, goes on with the instruction at its head (R218; log entry 28). -/
def State.drip (s : State) : State :=
  let (c, s) := s.draw 256
  match if c < 128 then s.engHead c .mxe else none with
  | none => s
  | some o =>
    if o.aborted || !s.engReady o || o.status.isSome then s else s.unlessRemote (.eng o.id) (fun s => s.mxGoOn o)

/-- The end of an instruction whose lines are acknowledged and whose compare, if any, is over: a sampled one whose compare was
abandoned ends with SAMPLED clear (R219, R224, R231). -/
def State.engOver (s : State) (o : EngOp) (w : Nat) : State :=
  (s.opEnded o cServed 0).writeStatus o (if o.sampled && o.checker.isNone then w - (w &&& 0x80) else w)

/-- Core `c`'s MXE queue decoded as far as it can be (R181). -/
def State.mxAdvance (s : State) (c : Nat) : State := s.decodePass mxDecoder (fun o => o.core == c && o.eng == .mxe)

/-- MX_RUN_COMPLETE: what core `c`'s MXE queue still awaited is decoded, and its head accumulates, drains and writes its status word; a
sampled one first waits for its compare (R181, R219, R228, R231). -/
def execMxRunComplete (c : Nat) (s : State) : Result :=
  let s := s.mxAdvance c
  .next (match s.engHead c .mxe with
    | none => s
    | some o =>
      if o.aborted || !s.engReady o then s else
      match o.status with
      | none => (s.remotely (.eng o.id) o.item.queue (fun f s => s.engFailed o f.code f.cause) (fun s => s.mxCompute o)).deliver
      | some w => if o.checker.isNone && !s.awaits (.eng o.id) then s.engOver o w else s)

/-- A remote line of an engine instruction is acknowledged: with the last one the status word follows (R438). -/
def State.engAcked (s : State) (id : Nat) : State :=
  match s.engOp id with
  | none => s
  | some o =>
    match o.status with
    | some w => if o.checker.isSome || s.awaits (.eng id) || o.aborted then s else s.engOver o w
    | none => s

/-! ### Compare (R229 to R231) -/

/-- Both cores of a mismatch are counted and reported, and each awaits a slate window (R231, R624). -/
def State.dupMismatch (s : State) (p c t : Nat) : State :=
  let s := (s.bump MXE_DUP_MISMATCH_COUNT 1 p).bump MXE_DUP_MISMATCH_COUNT 1 c
  let s := ((s.fset MXE_DUP_LAST_VALID 1 p).fset MXE_DUP_LAST_CHECKER c p).fset MXE_DUP_LAST_STRAND t p
  let s : State := { s with hlm := { s.hlm with suspects := s.hlm.suspects ++ [p, c] } }
  (s.report (unitCore p) kDupMismatch c).report (unitCore c) kDupMismatch p

/-- A magnitude. -/
def ratAbs (q : Rat) : Rat := if q < 0 then -q else q

/-- Whether an encoding is infinite or the largest finite value of its format, and then its sign (R230). -/
def extreme (fmt code : Nat) : Option Bool :=
  let f := if isPair fmt then partFmt fmt else (floatOf fmt).getD fmtF16
  match f.decode (if isPair fmt then code / 2 ^ 16 else code) with
  | .inf n => some n
  | .fin n m => if m = f.maxFinite then some n else none
  | .nan => none

/-- One unit in the last place of an output format at magnitude `q`; for a pair, the bound of R151 there (R229). -/
def dupUnit (fmt : Nat) (q : Rat) : Rat :=
  if fmt = cF16p then 10005 / 10000 * pow2 (-22) * q + pow2 (-25)
  else if fmt = cBf16p then 1004 / 1000 * pow2 (-16) * q + pow2 (-134)
  else pow2 (((floatOf fmt).getD fmtF16).ulpExp q)

/-- The difference of an element's two values as a fraction of its tolerance; none for a mismatch (R229, R230). `terms` is the number of
terms, `tol` the multiplier in force. -/
def DupElem.ratio (e : DupElem) (fmt terms tol : Nat) : Option Rat :=
  let a := decodeVal fmt e.primary
  let b := decodeVal fmt e.copy
  if a.isNan && b.isNan then some 0
  else if (extreme fmt e.primary).isSome && extreme fmt e.primary == extreme fmt e.copy then some 0
  else if !a.isFin || !b.isFin then none
  else
    let d := ratAbs (a.rat - b.rat)
    match e.magnitude with
    | none => some 0
    | some p =>
      let bound := (tol : Rat) * (((terms - 1 : Nat) : Rat) * pow2 (-23) * p + 2 * dupUnit fmt (max (ratAbs a.rat) (ratAbs b.rat)))
      if d ≤ bound then some (d / bound) else none

/-- The largest ratio over the elements, in units of 1/65,536 and rounded down (log entry 110); none where an element mismatches
(R231, R234). -/
def dupWorst (l : List DupElem) (fmt terms tol : Nat) : Option Nat :=
  l.foldl (fun a e => match a, e.ratio fmt terms tol with
    | some w, some r => some (max w (saturate 0xFFFF (r * 65536).floor.toNat))
    | _, _ => none) (some 0)

/-- TOL_MULT in force: 0 acts as 1 (R234). -/
def State.dupTol (s : State) (c : Nat) : Nat := max 1 (s.fget MXE_DUP_CTRL_TOL_MULT c)

/-- Elements of a copy as its checker hands them to the compare: `upset` names those that a fault of either core's hardware has changed,
and what the copy holds instead. -/
def upsetCopy (l : List DupElem) (upset : List (Nat × Nat)) : List DupElem :=
  l.mapIdx (fun i e => match upset.find? (fun u => u.1 == i) with
    | some u => { e with copy := u.2 }
    | none => e)

/-- DUP_COMPARE: the checker of core `c`'s head instruction has finished its copy, and every element is compared. Without an upset two
executions of one instruction pass (R229 to R232). -/
def execDupCompare (c : Nat) (upset : List (Nat × Nat)) (s : State) : Result :=
  .next (match s.engHead c .mxe with
    | none => s
    | some o =>
      match o.status, o.checker with
      | some w, some d =>
        if o.aborted || s.awaits (.eng o.id) then s else
        let x := parseMx o.desc
        match dupWorst (upsetCopy o.dup upset) (pfC (o.aux.headD 0)) (x.k + b2n x.accIn) (s.dupTol c) with
        | none => (s.dupMismatch c d o.strand).engFailed o cDupMismatch 0
        | some r =>
          let s := s.bump MXE_DUP_SAMPLED_COUNT 1 c
          (s.fset MXE_DUP_WORST_RATIO (max r (s.fget MXE_DUP_WORST_RATIO c)) c).engOver o w
      | _, _ => s)

/-- MXE_DUP_CTRL of core `c` written: a change of ENABLE or RATE_LOG2 reloads the sample counter (R226). -/
def State.dupCtrl (s : State) (c enable rate tol : Nat) : State :=
  let changed := s.fget MXE_DUP_CTRL_ENABLE c != enable % 2 || s.fget MXE_DUP_CTRL_RATE_LOG2 c != rate % 32
  let s := ((s.fset MXE_DUP_CTRL_ENABLE enable c).fset MXE_DUP_CTRL_RATE_LOG2 rate c).fset MXE_DUP_CTRL_TOL_MULT tol c
  if changed then s.setSample c none else s

/-- MXE_DUP_CTRL_WRITE (R226). -/
def execMxeDupCtrlWrite (r : Requester) (c enable rate tol : Nat) (s : State) : Result :=
  .next (if s.owns r && c < 128 then s.dupCtrl c enable rate tol else s)

/-- MXE_ABORT_ACK: an aborted MX.RUN has reached its K-step boundary; those of its item in the queue are discarded (R223). -/
def execMxeAbortAck (c : Nat) (s : State) : Result :=
  let (k, s) := s.ackAbort c .mxe
  .next (if k = 0 then s else (s.bump MXE_ABORTS_COUNT k c).mxAdvance c)

end Sys2Proof.Machine
end

