-- ==== Sys2Proof/Machine/Vector.lean ====
section
/-! DEFINITION. The vector engine and the special function unit: the VX instructions, their completion and their abort, and
the seeds of the generators (R140, R235 to R268). -/

namespace Sys2Proof.Machine

/-! ### The instruction word (R238) -/

def vxRx (w : Word64) : Nat := bitsOf w.toNat 46 44
def vxRn (w : Word64) : Nat := bitsOf w.toNat 43 41
def vxRm (w : Word64) : Nat := bitsOf w.toNat 40 38
def vxRs (w : Word64) : Nat := bitsOf w.toNat 37 35
def vxType (w : Word64) : Nat := bitsOf w.toNat 34 31
def vxDst (w : Word64) : Nat := bitsOf w.toNat 30 27
def vxRnd (w : Word64) : Bool := bitOf w.toNat 26
def vxSat (w : Word64) : Bool := bitOf w.toNat 25
def vxScale (w : Word64) : Nat := bitsOf w.toNat 24 23
def vxSdir (w : Word64) : Bool := bitOf w.toNat 22
def vxGroup (w : Word64) : Nat := bitsOf w.toNat 21 20
def vxSlot (w : Word64) : Nat := bitsOf w.toNat 19 11
def vxSub (w : Word64) : Nat := bitsOf w.toNat 10 8
def vxImm (w : Word64) : Nat := bitsOf w.toNat 7 0

def vAdd : Nat := 0x40
def vSub : Nat := 0x41
def vMul : Nat := 0x42
def vFma : Nat := 0x43
def vMax : Nat := 0x44
def vMin : Nat := 0x45
def vUn : Nat := 0x46
def vCmp : Nat := 0x50
def vSel : Nat := 0x51
def vCvt : Nat := 0x58
def vCstore : Nat := 0x59
def vRed : Nat := 0x60
def vRstat : Nat := 0x64
def vRmsn : Nat := 0x65
def vSmax : Nat := 0x66
def vFn : Nat := 0x70

/-- The classes that may take B from the register value (R239). -/
def bScalarOps : List Nat := [vAdd, vSub, vMul, vFma, vMax, vMin, vCmp]

/-- The row classes (R239, R240). -/
def rowOps : List Nat := [vRed, vRstat, vRmsn, vSmax]

/-- Whether B is the value of register RB. -/
def vxBScalar (w : Word64) : Bool := bScalarOps.contains (opcodeOf w) && bitOf w.toNat 0

/-- Whether the class reads B from the scratchpad. -/
def vxHasB (w : Word64) : Bool :=
  let op := opcodeOf w
  (bScalarOps.contains op && !vxBScalar w) || op == vSel || op == vRmsn || (op == vCvt && vxScale w != 0)

/-- Whether the class uses the operand at RX. -/
def vxHasX (w : Word64) : Bool :=
  let op := opcodeOf w
  op == vSel || op == vSmax || (op == vCvt && isCb (vxType w)) || (op == vRmsn && bitOf (vxSub w) 0)

/-- The scalar registers an instruction names: the operands its class uses and RS (R238, R243). -/
def vxMask (w : Word64) : Nat :=
  regMask (rdOf w) ||| regMask (raOf w) ||| regMask (vxRn w) ||| regMask (vxRs w) |||
  (if vxHasB w || vxBScalar w then regMask (rbOf w) else 0) ||| (if vxHasX w then regMask (vxRx w) else 0) |||
  (if rowOps.contains (opcodeOf w) then regMask (vxRm w) else 0)

/-- The format an instruction writes (R238, R239). -/
def vxOut (w : Word64) : Nat :=
  let op := opcodeOf w
  if op = vCmp then cI8 else if op = vCvt then vxDst w else if op = vRed then cF32
  else if vxDst w = 0 then vxType w else vxDst w

/-- 32-bit mode: TYPE or DST is f32 or a pair format (R235). -/
def vxWide (w : Word64) : Bool := [vxType w, vxDst w].any (fun f => f == cF32 || isPair f)

/-! ### Operands (R236, R243) -/

/-- The register operands copied at issue. -/
structure VxRegs where
  d : Nat
  a : Nat
  b : Nat
  x : Nat
  n : Nat
  m : Nat

def vxRegs (w : Word64) (x : Strand) : List Nat :=
  [rdOf w, raOf w, rbOf w, vxRx w, vxRn w, vxRm w].map (fun r => (x.reg r).toNat)

def VxRegs.of (l : List Nat) : VxRegs :=
  { d := l.getD 0 0, a := l.getD 1 0, b := l.getD 2 0, x := l.getD 3 0, n := l.getD 4 0, m := l.getD 5 0 }

/-- Bytes of a row of `n` elements, and its stride in a row class (R119, R240). -/
def fmtBytes (fmt n : Nat) : Nat := rowBytes (elemBits fmt) n
def rowStride (fmt n : Nat) : Nat := roundUp (fmtBytes fmt n) 64

/-- Bytes of `m` rows. -/
def rowsBytes (fmt n m : Nat) : Nat := rowStride fmt n * (m - 1) + fmtBytes fmt n

/-- The scratchpad ranges an instruction reads. -/
def vxReads (w : Word64) (r : VxRegs) : List (Nat × Nat) :=
  let op := opcodeOf w
  let t := vxType w
  let row := rowOps.contains op
  [(r.a, if row then rowsBytes t r.n r.m else fmtBytes t r.n)] ++
  (if vxHasB w then
     [(r.b, if op = vCvt then ceilDiv r.n (groupSize (vxGroup w)) * vxScale w else fmtBytes t r.n)] else []) ++
  (if op = vSel then [(r.x, r.n)] else []) ++
  (if op = vCvt ∧ isCb t = true then [(r.x, 8 * ceilDiv r.n (cbPerBlock t))] else []) ++
  (if op = vFma then [(r.d, fmtBytes (vxOut w) r.n)] else [])

/-- The scratchpad ranges an instruction writes. -/
def vxWrites (w : Word64) (r : VxRegs) : List (Nat × Nat) :=
  let op := opcodeOf w
  [(r.d, if op = vRed then 4 * r.m else if op = vRstat then 16 * r.m
         else if op = vCstore then rateSize (vxSub w) * (r.n / 256)
         else if rowOps.contains op then rowsBytes (vxOut w) r.n r.m else fmtBytes (vxOut w) r.n)] ++
  (if op = vSmax ∨ (op = vRmsn ∧ vxHasX w = true) then [(r.x, 16 * r.m)] else [])

/-! ### Command decode (R239, R240) -/

/-- TYPE and DST of an element-wise class: d takes TYPE unless DST names f32 or a pair, which asks for TYPE f32 and RND 0 (R239; log
entry 111). -/
def vxFormatsOk (w : Word64) : Bool :=
  [cF32, cF16, cBf16].contains (vxType w) &&
  (vxDst w == 0 || vxDst w == vxType w || (vxType w == cF32 && isPair (vxDst w) && !vxRnd w))

/-- TYPE and DST of VX.FN, VX.RMSN and VX.SMAX, whose results are rounded into DST: a 16-bit TYPE gives a 16-bit result, and a pair asks
for TYPE f32 and RND 0 (R239, R250, R259, R260; log entry 111). -/
def vxResultOk (w : Word64) : Bool :=
  [cF32, cF16, cBf16].contains (vxType w) &&
  (vxDst w == 0 || vxDst w == cF16 || vxDst w == cBf16 ||
    (vxType w == cF32 && (vxDst w == cF32 || (isPair (vxDst w) && !vxRnd w))))

/-- The fields of a convert (R146, R148, R150, R167). -/
def cvtOk (w : Word64) : Bool :=
  let src := vxType w
  let dst := vxDst w
  let side := if vxSdir w then dst else src
  src ≤ cBf16p && dst ≤ cBf16p && !isCb dst && !(vxRnd w && isPair dst) &&
  (vxScale w == 0 || (vxScale w ≤ 2 && vxGroup w ≤ 2 && ([cI4, cF4, cI8, cF8e4, cF8e5].contains side || isCb side))) &&
  (isCb src || vxSlot w == 0) && vxSub w == 0 && vxImm w == 0

/-- The fields that no other class than the convert gives a meaning. -/
def noScale (w : Word64) : Bool := vxScale w == 0 && !vxSdir w && vxGroup w == 0

/-- SUB, IMM, formats and reserved fields of a word (R239, R240). -/
def vxFieldsOk (w : Word64) : Bool :=
  let op := opcodeOf w
  let flt := [cF32, cF16, cBf16].contains (vxType w)
  let immBit0 := vxImm w ≤ 1
  if op == vCvt then cvtOk w
  else noScale w && flt &&
    (if bScalarOps.contains op && op != vCmp then vxFormatsOk w && vxSub w == 0 && immBit0 && vxSlot w == 0
     else if op == vUn then vxFormatsOk w && vxSub w ≤ 1 && vxImm w == 0 && vxSlot w == 0
     else if op == vCmp then (vxDst w == 0 || vxDst w == cI8) && vxSub w ≤ 3 && immBit0 && vxSlot w == 0
     else if op == vSel then vxFormatsOk w && vxSub w == 0 && vxImm w == 0 && vxSlot w == 0
     else if op == vCstore then vxType w != cF32 && vxDst w == 0 && vxSub w ≤ 2 && vxImm w == 0
     else if op == vRed then (vxDst w == 0 || vxDst w == cF32) && vxSub w ≤ 3 && vxImm w == 0 && vxSlot w == 0
     else if op == vRstat then vxDst w == 0 && vxSub w == 0 && vxImm w == 0 && vxSlot w == 0
     else if op == vRmsn then vxResultOk w && vxSub w ≤ 1 && vxSlot w == 0
     else if op == vSmax then vxResultOk w && vxSub w == 0 && vxImm w == 0
     else op == vFn && vxResultOk w && vxSub w == 0 && vxImm w == 0)

/-- The slot an instruction names, if its class names one (R241). -/
def vxSlots (w : Word64) : List Nat :=
  let op := opcodeOf w
  if op == vCstore || op == vSmax || op == vFn || (op == vCvt && isCb (vxType w)) then [vxSlot w] else []

/-- The slot named is non-empty, of the right kind, and the chamber's (R240). -/
def State.vxSlotOk (s : State) (n : Nat) (w : Word64) : Bool :=
  let op := opcodeOf w
  (vxSlots w).all fun id =>
    slotKind id == (if op == vCvt then 0 else if op == vCstore then 1 else 2) &&
    (match s.slotContent n id with
     | some b => op != vCvt || cbSlotOk (vxType w) b
     | none => false)

/-- The checks of R240. -/
def State.vxOk (s : State) (n : Nat) (w : Word64) (r : VxRegs) : Bool :=
  let op := opcodeOf w
  vxFieldsOk w &&
  (if rowOps.contains op then 1 ≤ r.n && r.n ≤ 65_536 && 1 ≤ r.m && r.m ≤ 4_096 else 1 ≤ r.n && r.n ≤ 1_048_576) &&
  (op != vCstore || r.n % 256 == 0) &&
  (vxReads w r ++ vxWrites w r).all (fun e => e.1 % 64 == 0 && e.1 + e.2 ≤ 0x20_0000) &&
  s.vxSlotOk n w

/-! ### Issue (R237 to R243) -/

/-- Command decode of a VX instruction: the word and its operands are judged, and the item takes a reference on its slot (R240, R241). -/
def vxDecoder : Decoder where
  names _ o := vxSlots o.word
  waits _ _ := false
  decode s o :=
    if s.vxOk (s.coreChamber o.core) o.word (VxRegs.of o.aux) then s.take o (vxSlots o.word) else s.engFailed o cFormat 0

/-- The issue shared by the VX instructions: the register operands are copied, and the instruction joins the VXE's queue (R237 to
R243). -/
def State.vxIssue (s : State) (c t op : Nat) : State :=
  s.issue c t (fun w => opcodeOf w == op) fun w x s =>
    s.needing c t (vxMask w) (s.accept c t x w .vxe (vxRs w) [] (vxRegs w x) vxDecoder)

/-- VX_ADD (R239). -/
def execVxAdd (c t : Nat) (s : State) : Result := .next (s.vxIssue c t vAdd)

/-- VX_SUB (R239). -/
def execVxSub (c t : Nat) (s : State) : Result := .next (s.vxIssue c t vSub)

/-- VX_MUL (R239). -/
def execVxMul (c t : Nat) (s : State) : Result := .next (s.vxIssue c t vMul)

/-- VX_FMA (R239, R245). -/
def execVxFma (c t : Nat) (s : State) : Result := .next (s.vxIssue c t vFma)

/-- VX_MAX (R143, R239). -/
def execVxMax (c t : Nat) (s : State) : Result := .next (s.vxIssue c t vMax)

/-- VX_MIN (R143, R239). -/
def execVxMin (c t : Nat) (s : State) : Result := .next (s.vxIssue c t vMin)

/-- VX_UN (R239). -/
def execVxUn (c t : Nat) (s : State) : Result := .next (s.vxIssue c t vUn)

/-- VX_CMP (R144, R239). -/
def execVxCmp (c t : Nat) (s : State) : Result := .next (s.vxIssue c t vCmp)

/-- VX_SEL (R239). -/
def execVxSel (c t : Nat) (s : State) : Result := .next (s.vxIssue c t vSel)

/-- VX_CVT (R146 to R149). -/
def execVxCvt (c t : Nat) (s : State) : Result := .next (s.vxIssue c t vCvt)

/-- VX_CSTORE (R193). -/
def execVxCstore (c t : Nat) (s : State) : Result := .next (s.vxIssue c t vCstore)

/-- VX_RED (R246). -/
def execVxRed (c t : Nat) (s : State) : Result := .next (s.vxIssue c t vRed)

/-- VX_RSTAT (R256). -/
def execVxRstat (c t : Nat) (s : State) : Result := .next (s.vxIssue c t vRstat)

/-- VX_RMSN (R259). -/
def execVxRmsn (c t : Nat) (s : State) : Result := .next (s.vxIssue c t vRmsn)

/-- VX_SMAX (R260). -/
def execVxSmax (c t : Nat) (s : State) : Result := .next (s.vxIssue c t vSmax)

/-- VX_FN (R250). -/
def execVxFn (c t : Nat) (s : State) : Result := .next (s.vxIssue c t vFn)

/-! ### Computing -/

/-- The virtual address of a scratchpad offset of core `c`, through the direct window (R236, R387). -/
def scratchVa (c off : Nat) : Nat := 0x01FF_0000_0000_0000 + scratchBase c + off

/-- What an instruction has computed: the bytes it writes, the elements the watch sees, the flags of the VXE and of the
SFU, elements processed, cycles in a pass, SFU evaluations, and results outside the domain. -/
structure VxDone where
  writes : List (Nat × List Byte)
  seen : List Written
  vfl : Flags
  sfl : Flags
  elems : Nat
  cycles : Nat
  evals : Nat
  domain : Nat

/-- A running instruction: its operation, chamber, word and registers. -/
structure VxRun where
  o : EngOp
  n : Nat
  w : Word64
  r : VxRegs

/-- `cnt` elements of format `fmt` from a scratchpad offset, widened (R153). -/
def State.vxElems (s : State) (y : VxRun) (fmt off cnt : Nat) : Except Stop (List Val) × State :=
  match s.engRead y.o.core y.n (scratchVa y.o.core off) (fmtBytes fmt cnt) with
  | (.error f, s) => (.error (.inl f), s)
  | (.ok b, s) => (.ok ((List.range cnt).map (fun i => decodeF32 fmt (elemAt b (elemBits fmt) i))), s)

/-- Cycles of a pass (R242). -/
def vxPass (w : Word64) (e rd wr f : Nat) : Nat :=
  max (max (ceilDiv e (if vxWide w then 128 else 256)) (ceilDiv rd 1024)) (max (ceilDiv wr 512) (ceilDiv f 32))

/-- Cycles of a one-pass instruction over its whole vector. -/
def VxRun.cycles (y : VxRun) (f : Nat) : Nat :=
  vxPass y.w y.r.n ((vxReads y.w y.r).map (·.2)).sum ((vxWrites y.w y.r).map (·.2)).sum f

/-- Codes of one vector written at D, watched, with flags. -/
def VxRun.vector (y : VxRun) (elems : List Elem) (codes : List Nat) (v s : Flags) (evals domain : Nat) : VxDone :=
  let f := vxOut y.w
  { writes := [(y.r.d, packRow (elemBits f) codes)],
    seen := [.row (scratchVa y.o.core y.r.d) f elems],
    vfl := v, sfl := s, elems := y.r.n, cycles := y.cycles evals, evals := evals, domain := domain }

/-- The exact result of an arithmetic class on widened operands, and whether it is invalid (R142, R143, R245). -/
def vxArith (op sub : Nat) (a b d : Val) : Val × Bool :=
  if op = vAdd then a.add b
  else if op = vSub then a.add b.negate
  else if op = vMul then a.mul b
  else if op = vFma then a.fma b d
  else if op = vMax then (a.max b, false)
  else if op = vMin then (a.min b, false)
  else if sub = 0 then (a.abs, false) else (a.negate, false)

/-- Operand B: the register value or the vector at RB; empty for a class without B. -/
def State.vxB (s : State) (y : VxRun) : Except Stop (List Val) × State :=
  let t := vxType y.w
  if vxBScalar y.w then (.ok (List.replicate y.r.n (decodeF32 t (y.r.b % 2 ^ elemBits t))), s)
  else if vxHasB y.w then s.vxElems y t y.r.b y.r.n
  else (.ok [], s)

/-- Values rounded into the output format and written (R245). -/
def State.vxRounded (s : State) (y : VxRun) (vals : List Val) (inv : Bool) : VxDone × State :=
  let f := vxOut y.w
  let (r, s) := s.roundEach y.o.core true (vxRnd y.w) f (vxSat y.w) vals
  (y.vector (elemsOf f vals r) (codesOf r) (if inv then (flagsOf r).or Flags.invalid else flagsOf r) Flags.zero 0 0, s)

/-- VX.ADD to VX.UN (R239, R245). -/
def State.vxElementwise (s : State) (y : VxRun) : Except Stop VxDone × State :=
  let op := opcodeOf y.w
  match s.vxElems y (vxType y.w) y.r.a y.r.n with
  | (.error e, s) => (.error e, s)
  | (.ok A, s) =>
  match s.vxB y with
  | (.error e, s) => (.error e, s)
  | (.ok B, s) =>
  match (if op = vFma then s.vxElems y (vxOut y.w) y.r.d y.r.n else (.ok [], s)) with
  | (.error e, s) => (.error e, s)
  | (.ok D, s) =>
    let r := A.mapIdx (fun i a => vxArith op (vxSub y.w) a (B.getD i .zero) (D.getD i .zero))
    let (z, s) := s.vxRounded y (r.map (·.1)) (r.any (·.2))
    (.ok z, s)

/-- The comparison of VX.CMP (R144). -/
def vxCompare (sub : Nat) (a b : Val) : Bool :=
  match sub with
  | 0 => a.eq b
  | 1 => !a.eq b
  | 2 => a.lt b
  | _ => a.lt b || a.eq b

/-- VX.CMP: i8 results, no flag (R144, R239). -/
def State.vxCmpRun (s : State) (y : VxRun) : Except Stop VxDone × State :=
  match s.vxElems y (vxType y.w) y.r.a y.r.n with
  | (.error e, s) => (.error e, s)
  | (.ok A, s) =>
  match s.vxB y with
  | (.error e, s) => (.error e, s)
  | (.ok B, s) =>
    let codes := A.mapIdx (fun i a => b2n (vxCompare (vxSub y.w) a (B.getD i .nan)))
    (.ok (y.vector (codes.map (Elem.ofCode cI8)) codes Flags.zero Flags.zero 0 0), s)

/-- VX.SEL (R239). -/
def State.vxSelRun (s : State) (y : VxRun) : Except Stop VxDone × State :=
  match s.vxElems y (vxType y.w) y.r.a y.r.n with
  | (.error e, s) => (.error e, s)
  | (.ok A, s) =>
  match s.vxB y with
  | (.error e, s) => (.error e, s)
  | (.ok B, s) =>
  match s.engRead y.o.core y.n (scratchVa y.o.core y.r.x) y.r.n with
  | (.error f, s) => (.error (.inl f), s)
  | (.ok m, s) =>
    let (z, s) := s.vxRounded y (A.mapIdx (fun i a => if m.getD i 0#8 = 0#8 then B.getD i .nan else a)) false
    (.ok z, s)

/-- The scales of a convert, one for each group (R118, R146, R238). -/
def State.vxScales (s : State) (y : VxRun) : Except Stop (List Val) × State :=
  let code := vxScale y.w
  if code = 0 then (.ok [], s) else
  let cnt := ceilDiv y.r.n (groupSize (vxGroup y.w))
  match s.engRead y.o.core y.n (scratchVa y.o.core y.r.b) (cnt * code) with
  | (.error f, s) => (.error (.inl f), s)
  | (.ok b, s) => (.ok ((List.range cnt).map (fun i => decodeScale code (fieldAt b (code * i) code))), s)

/-- Source × scale or source ÷ scale, exactly (R129, R145, R147). -/
def vxScaled (div : Bool) (v scale : Val) : Val × Bool :=
  if scale.isNan then (.nan, true) else if div then v.div scale else v.mul scale

/-- VX.CVT (R146 to R149, R241). -/
def State.vxCvtRun (s : State) (y : VxRun) : Except Stop VxDone × State :=
  let t := vxType y.w
  let id := vxSlot y.w
  match (if isCb t then
      s.readCodebook y.o.core y.n t id (((s.item y.o.item).map (·.genOf id)).getD 0) ((s.slotContent y.n id).getD [])
        (scratchVa y.o.core y.r.a) (scratchVa y.o.core y.r.x) y.r.n
    else s.vxElems y t y.r.a y.r.n) with
  | (.error e, s) => (.error e, s)
  | (.ok A, s) =>
  match s.vxScales y with
  | (.error e, s) => (.error e, s)
  | (.ok sc, s) =>
    let g := groupSize (vxGroup y.w)
    let r := A.mapIdx (fun i a =>
      if vxScale y.w = 0 then (a, false) else vxScaled (vxSdir y.w) a (sc.getD (i / g) .nan))
    let vals := r.map (·.1)
    let f := vxDst y.w
    let (z, s) := s.roundEach y.o.core true (vxRnd y.w) f (vxSat y.w) vals
    let elems := elemsOf f vals z
    let elems := if vxSdir y.w && vxScale y.w != 0 then
        List.zipWith (fun (e : Elem) a => { e with obs := a }) elems A else elems
    (.ok (y.vector elems (codesOf z) (if r.any (·.2) then (flagsOf z).or Flags.invalid else flagsOf z) Flags.zero 0 0), s)

/-- The elements of compressed block `b` as the watch sees them: spread evenly over the block's bytes, each written as it decodes (R189,
R362; log entry 112). -/
def VxRun.blockSeen (y : VxRun) (table : List Byte) (rate b : Nat) (bytes : List Byte) (xs : List Val) : Written :=
  { va := scratchVa y.o.core (y.r.d + rateSize rate * b), bits := rateSize rate / 32,
    elems := List.zipWith (fun x v => { Elem.plain x with val := v }) xs (decodeBlock table rate bytes) }

/-- VX.CSTORE: blocks of 256 elements coded with the slot's table (R187, R193, R196). -/
def State.vxCstoreRun (s : State) (y : VxRun) : Except Stop VxDone × State :=
  match s.vxElems y (vxType y.w) y.r.a y.r.n with
  | (.error e, s) => (.error e, s)
  | (.ok A, s) =>
    let id := vxSlot y.w
    let rate := vxSub y.w
    let table := (s.slotContent y.n id).getD []
    let gen := ((s.item y.o.item).map (·.genOf id)).getD 0
    let blocks := (List.range (y.r.n / 256)).map (fun b => codeBlock table id gen rate (vxType y.w) ((A.drop (256 * b)).take 256))
    let dropped := (blocks.map (·.dropped)).sum
    let s := s.bump64 CDC_DROPPED_LO_COUNT CDC_DROPPED_HI_COUNT dropped (y.o.core / 8)
    let cyc := max (blocks.map (fun b => if b.dropped = 0 then 1 else 4)).sum (y.cycles 0)
    let seen := blocks.mapIdx (fun b z => y.blockSeen table rate b z.bytes ((A.drop (256 * b)).take 256))
    (.ok { writes := [(y.r.d, blocks.flatMap (·.bytes))], seen := seen, vfl := Flags.all (blocks.map (·.flags)),
           sfl := Flags.zero, elems := y.r.n, cycles := cyc, evals := 0, domain := 0 }, s)

/-! ### Rows (R246, R255 to R261) -/

/-- The factor of R246 over a row of `n` terms, with `k` for the constant part. -/
def sumUnit (n k : Nat) : Rat := ((ceilDiv n 128 + k : Nat) : Rat) * pow2 (-24)

/-- The maximum or the minimum of a row (R143, R246). -/
def rowMax (l : List Val) : Val := match l with | [] => .zero | v :: vs => vs.foldl Val.max v
def rowMin (l : List Val) : Val := match l with | [] => .zero | v :: vs => vs.foldl Val.min v

/-- The pre-scale exponent of a row (R255); over its finite elements (R256). -/
def preScale (l : List Val) : Int :=
  (l.foldl (fun (a : Option Int) v => match v with
    | .fin _ q => if q = 0 then a else some (match a with | some m => max m (ratLog2 q) | none => ratLog2 q)
    | _ => a) none).getD 0

/-- Each element of a row times 2^-E (R255). -/
def preScaled (l : List Val) : List Val := l.map (fun v => (v.mul (Val.ofRat (pow2 (-preScale l)))).1)

/-- One row reduced (R246): the value and whether it is invalid. -/
def State.reduceRow (s : State) (sub : Nat) (l : List Val) : (Val × Bool) × State :=
  match sub with
  | 1 => ((rowMax l, false), s)
  | 2 => ((rowMin l, false), s)
  | 0 => s.accumulate (sumUnit l.length 6) l
  | _ => s.accumulate (sumUnit l.length 6) (l.map (fun v => (v.mul v).1))

/-- A fold over the rows of A, each widened: `f` answers what the row gives. -/
def State.vxRows {α : Type} (s : State) (y : VxRun) (f : Nat → List Val → State → α × State) :
    Except Stop (List α) × State :=
  let t := vxType y.w
  (List.range y.r.m).foldl (fun (a : Except Stop (List α) × State) k =>
    match a with
    | (.error e, s) => (.error e, s)
    | (.ok l, s) =>
      match s.vxElems y t (y.r.a + rowStride t y.r.n * k) y.r.n with
      | (.error e, s) => (.error e, s)
      | (.ok xs, s) =>
        let (v, s) := f k xs s
        (.ok (l ++ [v]), s)) ((.ok [], s) : Except Stop (List α) × State)

/-- VX.RED: one f32 per row, consecutive from D (R239, R246). -/
def State.vxRedRun (s : State) (y : VxRun) : Except Stop VxDone × State :=
  match s.vxRows y (fun _ xs s => s.reduceRow (vxSub y.w) xs) with
  | (.error e, s) => (.error e, s)
  | (.ok rows, s) =>
    let vals := rows.map (·.1)
    let r := vals.map (encode cF32 (vxSat y.w) .rne)
    let fl := flagsOf r
    let cyc := y.r.m * vxPass y.w y.r.n (fmtBytes (vxType y.w) y.r.n) 4 0
    (.ok { y.vector (elemsOf cF32 vals r) (codesOf r)
             (if rows.any (·.2) then fl.or Flags.invalid else fl) Flags.zero 0 0 with
           elems := y.r.n * y.r.m, cycles := cyc }, s)

/-- The statistics of a row: its record, the values its f32 fields round and their roundings, SUMSQ_S as written, and whether a sum is
invalid (R256, R257). -/
structure RowStats where
  bytes : List Byte
  vals : List Val
  fields : List (Nat × Flags)
  sumsq : Val
  invalid : Bool

/-- The flags that a row's record sets. -/
def RowStats.flags (z : RowStats) : Flags := if z.invalid then (flagsOf z.fields).or Flags.invalid else flagsOf z.fields

/-- `u × Σ` less what the rounding of the sum to f32 may add, so that the rounded sum stays within `u + 2^-24` of the exact one. -/
def beforeRounding (u : Rat) : Rat := u * (1 - pow2 (-24))

/-- The statistics of one row. With an infinity or a NaN both sums are NaN; whether forming them from an infinity sets the
invalid flag is open. The written SUMSQ_S stays within the bound of R257, its rounding to f32 included. -/
def State.rowStats (s : State) (xs : List Val) : RowStats × State :=
  let nan := xs.any Val.isNan
  let inf := xs.any Val.isInf
  let e := preScale xs
  let sx := preScaled xs
  let ((sum, sq, iv), s) :=
    if nan || inf then
      let (b, s) := if nan then (0, s) else s.draw 2
      ((Val.nan, Val.nan, b == 1), s)
    else
      let ((a, _), s) := s.accumulate (sumUnit xs.length 6) sx
      let ((q, _), s) := s.accumulate (beforeRounding (sumUnit xs.length 6)) (sx.map (fun v => (v.mul v).1))
      ((a, q, false), s)
  let vals := [rowMax xs, sum, sq]
  let r := vals.map (encode cF32 false .rne)
  let codes := codesOf r
  let flags := b2n nan + 2 * b2n inf + 4 * b2n (xs.all Val.isZero)
  ({ bytes := leBytes 4 (codes.getD 0 0) ++ leBytes 2 (ofSigned 16 e) ++ leBytes 2 flags ++ leBytes 4 (codes.getD 1 0) ++
       leBytes 4 (codes.getD 2 0),
     vals := vals, fields := r, sumsq := decodeVal cF32 (codes.getD 2 0), invalid := iv }, s)

/-- The statistics records of some rows as the watch sees them: MAX, SUM_S and SUMSQ_S. -/
def statsSeen (va : Nat) (rows : List RowStats) : List Written := recordsSeen va [0, 8, 12] (rows.map (fun z => (z.vals, z.fields)))

/-- VX.RSTAT: a record per row from D (R256). -/
def State.vxRstatRun (s : State) (y : VxRun) : Except Stop VxDone × State :=
  match s.vxRows y (fun _ xs s => s.rowStats xs) with
  | (.error e, s) => (.error e, s)
  | (.ok rows, s) =>
    (.ok { writes := [(y.r.d, rows.flatMap (·.bytes))], seen := statsSeen (scratchVa y.o.core y.r.d) rows,
           vfl := Flags.all (rows.map RowStats.flags), sfl := Flags.zero, elems := y.r.n * y.r.m,
           cycles := y.r.m * vxPass y.w y.r.n (fmtBytes (vxType y.w) y.r.n) 16 0, evals := 0, domain := 0 }, s)

/-- A rational within 2^-60, relatively, of 1 ÷ √q for a positive `q`. -/
def invSqrt (q : Rat) : Rat :=
  let e := evenLog q
  let m := q / pow2 e
  let k := Nat.sqrt ((pow2 160 / m).floor.toNat)
  (k : Rat) * pow2 (-80 - e / 2)

/-- r of R259, with a free relative error of at most 2^-22; NaN where the mean square is NaN, +∞ where it is 0. -/
def State.rmsFactor (s : State) (sumsq : Val) (n : Nat) (eps : Nat) (e : Int) : Val × State :=
  match sumsq with
  | .fin _ q =>
    let ms := q / (n : Rat) + (if eps = 0xFF then 0 else pow2 (-(eps : Int) - 2 * e))
    if ms ≤ 0 then (.inf false, s) else
    let (u, s) := s.drawUnit
    (Val.ofRat (invSqrt ms * (1 + u * (pow2 (-22) - pow2 (-50)))), s)
  | _ => (.nan, s)

/-- One row normalised: its elements, whether any is invalid, and its statistics (R259). -/
def State.rmsRow (s : State) (w : Word64) (gain xs : List Val) : (List Val × Bool × RowStats) × State :=
  let (st, s) := s.rowStats xs
  let eps := vxImm w
  if xs.all Val.isZero then
    if eps = 0xFF then ((xs.map (fun _ => .nan), true, st), s) else ((xs.map (fun _ => Val.zero), false, st), s)
  else
    let (r, s) := s.rmsFactor st.sumsq xs.length eps (preScale xs)
    let v := List.zipWith (fun a g => both (a.mul g) (fun p => p.mul r)) (preScaled xs) gain
    ((v.map (·.1), v.any (·.2) || st.invalid, st), s)

/-- Rows of codes from D, each on its stride. -/
def VxRun.rowsAt (y : VxRun) (codes : List (List Nat)) : List (Nat × List Byte) :=
  let f := vxOut y.w
  codes.mapIdx (fun k l => (y.r.d + rowStride f y.r.n * k, packRow (elemBits f) l))

/-- The same rows as the watch sees them. -/
def VxRun.rowsWatched (y : VxRun) (vals : List (List Val)) (r : List (List (Nat × Flags))) : List Written :=
  let f := vxOut y.w
  (List.zipWith (elemsOf f) vals r).mapIdx (fun k e => .row (scratchVa y.o.core (y.r.d + rowStride f y.r.n * k)) f e)

/-- Rows of values rounded into the output format, each element by RND, RNE or stochastically (R133, R238). -/
def State.roundRows (s : State) (y : VxRun) : List (List Val) → List (List (Nat × Flags)) × State
  | [] => ([], s)
  | v :: l =>
    let (r, s) := s.roundEach y.o.core true (vxRnd y.w) (vxOut y.w) (vxSat y.w) v
    let (rs, s) := s.roundRows y l
    (r :: rs, s)

/-- Cycles of the passes over each row of VX.RMSN and VX.SMAX: every pass reads the row, the last writes the output, and `last` more
bytes are read by the last; `f` SFU evaluations fall in the middle of three (R242; log entry 113). -/
def VxRun.rowCycles (y : VxRun) (passes last f : Nat) : Nat :=
  let row := fmtBytes (vxType y.w) y.r.n
  let plain := vxPass y.w y.r.n row 0 0
  let final := vxPass y.w y.r.n (row + last) (fmtBytes (vxOut y.w) y.r.n) 0
  y.r.m * (plain + (if passes = 3 then vxPass y.w y.r.n row 0 f else 0) + final)

/-- VX.RMSN (R259); the gain is one row of TYPE at RB. -/
def State.vxRmsnRun (s : State) (y : VxRun) : Except Stop VxDone × State :=
  match s.vxElems y (vxType y.w) y.r.b y.r.n with
  | (.error e, s) => (.error e, s)
  | (.ok gain, s) =>
  match s.vxRows y (fun _ xs s => s.rmsRow y.w gain xs) with
  | (.error e, s) => (.error e, s)
  | (.ok rows, s) =>
    let vals := rows.map (·.1)
    let (r, s) := s.roundRows y vals
    let stats := if bitOf (vxSub y.w) 0 then rows.map (·.2.2) else []
    let fl := Flags.all (r.map flagsOf ++ stats.map RowStats.flags)
    (.ok { writes := y.rowsAt (r.map codesOf) ++ (if stats.isEmpty then [] else [(y.r.x, stats.flatMap (·.bytes))]),
           seen := y.rowsWatched vals r ++ statsSeen (scratchVa y.o.core y.r.x) stats, vfl := if rows.any (·.2.1) then fl.or Flags.invalid else fl,
           sfl := Flags.zero, elems := y.r.n * y.r.m, cycles := y.rowCycles 2 (fmtBytes (vxType y.w) y.r.n) 0, evals := 0,
           domain := 0 }, s)

/-- A softmax row: outputs, its record's MAX and SUM, the flags of the VXE and of the SFU, and results outside the
domain. -/
structure SmaxRow where
  out : List Val
  max : Val
  sum : Val
  vfl : Flags
  sfl : Flags
  domain : Nat

/-- One softmax row (R260). -/
def State.smaxRow (s : State) (T : FnTable) (xs : List Val) : SmaxRow × State :=
  let all := fun v => xs.map (fun _ => v)
  if xs.any Val.isNan then
    ({ out := all .nan, max := .nan, sum := .nan, vfl := Flags.zero, sfl := Flags.zero, domain := 0 }, s)
  else if xs.any (fun v => v == .inf false) then
    ({ out := all .nan, max := .inf false, sum := .nan, vfl := Flags.invalid, sfl := Flags.zero, domain := 0 }, s)
  else if xs.all Val.isInf then
    ({ out := all .zero, max := .inf true, sum := .zero, vfl := Flags.zero, sfl := Flags.zero, domain := 0 }, s)
  else
    let m := rowMax xs
    let diffs := xs.map (fun v => fmtF32.encode false .rne (v.add m.negate).1)
    let es := List.zipWith (fun v (d : Nat × Flags) =>
      if v.isInf then (Val.zero, Flags.zero) else T.eval (fmtF32.decode d.1)) xs diffs
    let ((l, i), s) := s.accumulate (sumUnit xs.length 6) (es.map (·.1))
    let q := List.zipWith (fun v (e : Val × Flags) => if v.isInf then (Val.zero, false) else e.1.div l) xs es
    ({ out := q.map (·.1), max := m, sum := l,
       vfl := Flags.all (diffs.map (·.2) ++ [if i || q.any (·.2) then Flags.invalid else Flags.zero]),
       sfl := Flags.all (es.map (·.2)), domain := (es.filter (fun e => e.2.iv)).length }, s)

/-- A softmax record (R261). -/
def softmaxRecord (max sum : Nat) (count : Nat) : List Byte :=
  leBytes 4 max ++ leBytes 4 sum ++ leBytes 4 count ++ leBytes 4 0

/-- VX.SMAX (R260, R261). -/
def State.vxSmaxRun (s : State) (y : VxRun) : Except Stop VxDone × State :=
  let T := parseFn ((s.slotContent y.n (vxSlot y.w)).getD [])
  match s.vxRows y (fun _ xs s => s.smaxRow T xs) with
  | (.error e, s) => (.error e, s)
  | (.ok rows, s) =>
    let vals := rows.map (·.out)
    let (r, s) := s.roundRows y vals
    let recs := rows.map (fun (z : SmaxRow) => ([z.max, z.sum], [z.max, z.sum].map (encode cF32 false .rne)))
    (.ok { writes := y.rowsAt (r.map codesOf) ++
             [(y.r.x, recs.flatMap (fun z => softmaxRecord ((codesOf z.2).getD 0 0) ((codesOf z.2).getD 1 0) y.r.n))],
           seen := y.rowsWatched vals r ++ recordsSeen (scratchVa y.o.core y.r.x) [0, 4] recs,
           vfl := Flags.all (r.map flagsOf ++ recs.map (fun z => flagsOf z.2) ++ rows.map (fun (z : SmaxRow) => z.vfl)),
           sfl := Flags.all (rows.map (fun (z : SmaxRow) => z.sfl)), elems := y.r.n * y.r.m,
           cycles := y.rowCycles 3 0 y.r.n, evals := y.r.n * y.r.m, domain := (rows.map (fun (z : SmaxRow) => z.domain)).sum }, s)

/-- VX.FN: the table's f32 result rounded into D, with the SFU's flags (R154, R250). -/
def State.vxFnRun (s : State) (y : VxRun) : Except Stop VxDone × State :=
  let T := parseFn ((s.slotContent y.n (vxSlot y.w)).getD [])
  match s.vxElems y (vxType y.w) y.r.a y.r.n with
  | (.error e, s) => (.error e, s)
  | (.ok A, s) =>
    let r := A.map T.eval
    let vals := r.map (·.1)
    let f := vxOut y.w
    let (z, s) := s.roundEach y.o.core true (vxRnd y.w) f (vxSat y.w) vals
    (.ok (y.vector (elemsOf f vals z) (codesOf z) Flags.zero (Flags.all (flagsOf z :: r.map (·.2))) y.r.n
      (r.filter (fun e => e.2.iv)).length), s)

/-- What an instruction computes. -/
def State.vxCompute (s : State) (y : VxRun) : Except Stop VxDone × State :=
  let op := opcodeOf y.w
  if op = vCmp then s.vxCmpRun y
  else if op = vSel then s.vxSelRun y
  else if op = vCvt then s.vxCvtRun y
  else if op = vCstore then s.vxCstoreRun y
  else if op = vRed then s.vxRedRun y
  else if op = vRstat then s.vxRstatRun y
  else if op = vRmsn then s.vxRmsnRun y
  else if op = vSmax then s.vxSmaxRun y
  else if op = vFn then s.vxFnRun y
  else s.vxElementwise y

/-! ### Completion (R242 to R245) -/

/-- The values written are unspecified: an element-wise destination partly overlaps a source, or a row class's output
overlaps its input (R244); and two outputs of one instruction that overlap. -/
def vxClash (w : Word64) (r : VxRegs) : Bool :=
  let ins := vxReads w r
  let outs := vxWrites w r
  let row := rowOps.contains (opcodeOf w)
  outs.any (fun a => ins.any (fun b => meets a b && (row || a != b))) ||
  (outs.length == 2 && meets (outs.headD (0, 0)) (outs.getLastD (0, 0)))

/-- Free bytes in place of what was to be written. -/
def State.freeWrites (s : State) : List (Nat × List Byte) → List (Nat × List Byte) × State
  | [] => ([], s)
  | (off, bs) :: l =>
    let (b, s) := s.drawBytes bs.length
    let (r, s) := s.freeWrites l
    ((off, b) :: r, s)

/-- Watched elements whose values are unspecified: of 32-bit ones too, every value is a finite or special encoding. -/
def State.freeSeen (s : State) (f : Nat) : List Written → List Written × State
  | [] => ([], s)
  | x :: l =>
    let (codes, s) := s.drawCodes (elemBits f) x.elems.length
    let (r, s) := s.freeSeen f l
    ({ x with elems := codes.map (Elem.ofCode f) } :: r, s)

/-- The counters of a finished instruction; cycles lost or waited are open (R247, R267, R268). -/
def State.vxCount (s : State) (c : Nat) (w : Word64) (z : VxDone) : State :=
  let s := s.bump64 VXE_ELEM_LO_COUNT VXE_ELEM_HI_COUNT z.elems c
  let s := s.bump64 VXE_BUSY_LO_COUNT VXE_BUSY_HI_COUNT z.cycles c
  let (st, s) := s.draw (2 ^ 32)
  let s := s.bump64 VXE_STALL_LO_COUNT VXE_STALL_HI_COUNT st c
  if z.evals = 0 then s else
  let s := s.bump64 SFU_RESULTS_LO_COUNT SFU_RESULTS_HI_COUNT z.evals c
  let s := s.bump SFU_DOMAIN_COUNT z.domain c
  let (wt, s) := s.draw (2 ^ 32)
  let s := s.bump64 SFU_WAIT_LO_COUNT SFU_WAIT_HI_COUNT wt c
  let (g, s) := s.draw 4
  (s.fset SFU_STATUS_LAST_GRANT g c).fset SFU_STATUS_SLOT (vxSlot w) c

/-- The instruction's results written at its scratchpad offsets, then the watch, the flags and the counters; a fault that stops the
writes, and the flags of its status word (R243, R364). -/
def State.vxWrite (s : State) (y : VxRun) (z : VxDone) : Option MFault × State :=
  let o := y.o
  let clash := vxClash y.w y.r
  let (writes, s) := if clash then s.freeWrites z.writes else (z.writes, s)
  let (seen, s) := if clash then s.freeSeen (vxOut y.w) z.seen else (z.seen, s)
  let pieces := cutAtLines (writes.map (fun e => (scratchVa o.core e.1, e.2)))
  match s.engWrites o y.n pieces with
  | ((f, k), s) =>
    let s := s.watch o.core (vxRnd y.w) (if f.isSome then seenWithin pieces k seen else seen)
    let s := (s.raise .vxe o.core o.strand z.vfl).raise .sfu o.core o.strand z.sfl
    (f, if f.isSome then s else s.vxCount o.core y.w z)

/-- The instruction finished: its results and its status word (R243). -/
def State.vxFinish (s : State) (y : VxRun) (z : VxDone) : State :=
  match s.vxWrite y z with
  | (some f, s) => s.engFailed y.o f.code f.cause
  | (none, s) => s.engServed y.o (statusWord 0 false (z.vfl.or z.sfl))

/-- The run of an instruction. -/
def State.vxRunOf (s : State) (o : EngOp) : VxRun := { o := o, n := s.coreChamber o.core, w := o.word, r := VxRegs.of o.aux }

/-- An instruction computed and finished, or ended by what it meets (R243, R264). -/
def State.vxRun (s : State) (o : EngOp) : State :=
  let y := s.vxRunOf o
  match s.vxCompute y with
  | (.error (.inl f), s) => s.engFailed o f.code f.cause
  | (.error (.inr cause), s) => s.engFailed o cCodedBlock cause
  | (.ok z, s) => s.vxFinish y z

/-- Core `c`'s VXE queue decoded as far as it can be (R181). -/
def State.vxAdvance (s : State) (c : Nat) : State := s.decodePass vxDecoder (fun o => o.core == c && o.eng == .vxe)

/-- VXE_COMPLETE: what core `c`'s VXE queue still awaited is decoded, and its head has written its last result (R181, R237, R243). -/
def execVxeComplete (c : Nat) (s : State) : Result :=
  let s := s.vxAdvance c
  .next (match s.engHead c .vxe with
    | none => s
    | some o => if o.aborted || o.status.isSome || !s.engReady o then s else (s.vxRun o).deliver)

/-- The part of an instruction before boundary `k`: that many rows, or that many times 8,192 elements (R264). -/
def VxRun.part (y : VxRun) (k : Nat) : VxRun :=
  if rowOps.contains (opcodeOf y.w) then { y with r := { y.r with m := min y.r.m k } }
  else { y with r := { y.r with n := min y.r.n (8192 * k) } }

/-- How many boundaries lie within an instruction. -/
def VxRun.parts (y : VxRun) : Nat := if rowOps.contains (opcodeOf y.w) then y.r.m else y.r.n / 8192

/-- An aborted instruction stopped at a boundary, which one being open: the results before it are written, with no status word (R264). -/
def State.vxStop (s : State) (o : EngOp) : State :=
  let y := s.vxRunOf o
  let (k, s) := s.draw (y.parts + 1)
  if k = 0 then s else
  match s.vxCompute (y.part k) with
  | (.error _, s) => s
  | (.ok z, s) => (s.vxWrite (y.part k) z).2

/-- VXE_ABORT_ACK: an aborted VXE instruction has reached its boundary; those of its item in the queue are discarded
(R264). -/
def execVxeAbortAck (c : Nat) (s : State) : Result :=
  let s := match s.engHead c .vxe with
    | some o => if o.aborted && s.engReady o then (s.vxStop o).deliver else s
    | none => s
  let (k, s) := s.ackAbort c .vxe
  .next (if k = 0 then s else (s.bump VXE_ABORTS_COUNT k c).vxAdvance c)

/-! ### Seeds (R140, R163) -/

/-- SR_SEED_HI_WRITE: the write of P_SR_SEED_HI loads the generator of the MXE, or of the VXE for `vxe`, of core `c`. -/
def execSrSeedHiWrite (r : Requester) (c : Nat) (vxe : Bool) (hi : Nat) (s : State) : Result :=
  .next (if s.mayWriteCore r c then s.loadSeed c vxe hi else s)

end Sys2Proof.Machine
end

