-- ==== Sys2Proof/Machine/Exchange.lean ====
section
/-! DEFINITION. Routing batches and the exchange between their parts: the receive area, end markers, the sending of rows, and the return
of results (R328 to R343). -/

namespace Sys2Proof.Machine

/-! ### Tags (R328) -/

def tagBytes (device gallery profile epoch token k round expert weight : Nat) : List Byte :=
  leBytes 2 device ++ leBytes 1 gallery ++ leBytes 1 profile ++ leBytes 4 epoch ++ leBytes 2 token ++ leBytes 1 k ++
  leBytes 1 0 ++ leBytes 2 round ++ leBytes 2 expert ++ leBytes 4 weight ++ List.replicate 44 0#8

def tagDevice (t : List Byte) : Nat := fieldAt t 0 2
def tagGallery (t : List Byte) : Nat := fieldAt t 2 1
def tagProfile (t : List Byte) : Nat := fieldAt t 3 1
def tagEpoch (t : List Byte) : Nat := fieldAt t 4 4
def tagToken (t : List Byte) : Nat := fieldAt t 8 2
def tagK (t : List Byte) : Nat := fieldAt t 0xA 1
def tagRound (t : List Byte) : Nat := fieldAt t 0xC 2
def tagExpert (t : List Byte) : Nat := fieldAt t 0xE 2

/-! ### The receive area (R332 to R335) -/

def State.half (s : State) (n p parity : Nat) : Option RxHalf :=
  s.rte.halves.find? (fun h => h.chamber == n && h.profile == p && h.parity == parity)

def State.setHalf (s : State) (h : RxHalf) : State :=
  { s with rte := { s.rte with halves := h :: s.rte.halves.filter (fun x =>
      !(x.chamber == h.chamber && x.profile == h.profile && x.parity == h.parity)) } }

/-- The half freed (R333, R336). -/
def State.freeHalf (s : State) (h : RxHalf) : State :=
  { s with rte := { s.rte with halves := s.rte.halves.filter (fun x =>
      !(x.chamber == h.chamber && x.profile == h.profile && x.parity == h.parity)) } }

/-- The half that a row or marker of `round` uses: its own, or a free one, which it claims; none while another round owns
it (R333). -/
def State.claim (s : State) (n p round : Nat) : Option RxHalf :=
  match s.half n p (round % 2) with
  | some h => if h.round = round then some h else none
  | none => some { chamber := n, profile := p, parity := round % 2, round := round, markers := [], rows := [], filled := [] }

/-- Slots of local expert `x` filled so far. -/
def RxHalf.filledOf (h : RxHalf) (x : Nat) : Nat := ((h.filled.find? (fun e => e.1 == x)).map (·.2)).getD 0

/-- Rows of a source received or dropped so far. -/
def RxHalf.rowsOf (h : RxHalf) (dev g : Nat) : Nat :=
  ((h.rows.find? (fun e => e.1 == dev && e.2.1 == g)).map (·.2.2)).getD 0

def RxHalf.addRow (h : RxHalf) (dev g : Nat) : RxHalf :=
  { h with rows := (dev, g, h.rowsOf dev g + 1) :: h.rows.filter (fun e => !(e.1 == dev && e.2.1 == g)) }

/-- The address of slot `i` of local expert `x` (R332). -/
def slotAddr (b : List Byte) (parity x i : Nat) : Nat :=
  rpRxBase b + ((parity * rpLocalCount b + x) * rpRxRows b + i) * (64 + rpRowBytes b)

/-- What a memory fault at the receive area answers: MEMORY for a fault of the memory itself, else OUT_OF_RANGE. -/
def nakOfFault (f : MFault) : Nat := if f.code = fMemory ∨ f.code = fRetired then nakMemory else nakOutOfRange

/-- A row lands in the next free slot of its expert, or is dropped where the slots are full; or the NAK cause that refuses
it. XCE `x` counts it (R332, R333, R335, R588). -/
def State.landRow (s : State) (x n : Nat) (payload : List Byte) : Except Nat Bool × State :=
  let t := payload.take 64
  let p := tagProfile t
  let b := s.rprofile n p
  if !s.rpOk n p then (.error nakBadProfile, s) else
  match s.claim n p (tagRound t) with
  | none => (.error nakRxBusy, s)
  | some h =>
    if rpExperts b ≤ tagExpert t then (.error nakOutOfRange, s) else
    let r := reqRte (s.lowGallery n)
    match s.readVa r n (rpEmap b + 4 * tagExpert t) 4 with
    | (.error f, s) => (.error (nakOfFault f), s)
    | (.ok e, s) =>
      let l := fieldAt e 2 2
      if rpLocalCount b ≤ l then (.error nakOutOfRange, s) else
      let i := h.filledOf l
      let h' := h.addRow (tagDevice t) (tagGallery t)
      if rpRxRows b ≤ i then (.ok true, (s.setHalf h').bump XCE_RX_OVF_COUNT 1 x n) else
      match s.writeVa r n (.mark 0 0 0) 0xFFFF (slotAddr b h.parity l i) (slice payload 0 (64 + rpRowBytes b)) with
      | (some f, s) => (.error (nakOfFault f), s)
      | (none, s) =>
        let h' := { h' with filled := (l, i + 1) :: h'.filled.filter (fun (e : Nat × Nat) => e.1 != l) }
        (.ok false, (s.setHalf h').bump64 XCE_RX_ROWS_LO_COUNT XCE_RX_ROWS_HI_COUNT 1 x n)

/-- An end marker arrives: profile, round, sending gallery and rows announced by `dev` (R329, R333). -/
def State.landMark (s : State) (n dev : Nat) (payload : List Byte) : Option Nat × State :=
  let p := fieldAt payload 0 4
  let round := fieldAt payload 4 4
  if !s.rpOk n p then (some nakBadProfile, s) else
  match s.claim n p round with
  | none => (some nakRxBusy, s)
  | some h =>
    (none, s.setHalf { h with markers := h.markers ++ [(dev, fieldAt payload 8 4, fieldAt payload 0xC 4)] })

/-! ### Batches -/

/-- The item of a batch. -/
def State.batchItem (s : State) (b : Batch) : Option Item := (s.engOp b.op).bind (fun o => s.item o.item)

/-- The queue of a batch's item. -/
def State.batchQueue (s : State) (b : Batch) : Nat := ((s.engOp b.op).map (fun o => o.item.queue)).getD 0xFFFF

/-- When the queue timeout of a batch's item expires, in ns (R333, R523). -/
def State.batchExpiry (s : State) (b : Batch) : Option Nat :=
  let us := (s.queue (s.batchQueue b)).timeoutUs
  if us = 0 then none else (s.batchItem b).map (fun i => i.fetchAt + 1000 * us)

/-- Flags that a batch sets: sticky in its engine, and kept for its status word (R154, R220; log entry 117). -/
def State.batchRaise (s : State) (g epoch strand : Nat) (f : Flags) : State :=
  match s.batch g epoch with
  | none => s
  | some b => (s.setBatch { b with flags := b.flags ||| f.bits }).raise .rte g strand f

/-- The cause of R330 that a batch meets; the first counts. -/
def State.noteCause (s : State) (g epoch cause : Nat) : State :=
  match s.batch g epoch with
  | none => s
  | some b => s.setBatch { b with cause := some (b.cause.getD cause) }

/-- The cause of R330 for a NAK cause. -/
def exchangeCause (nak : Nat) : Nat :=
  if nak = nakNoGroup then 1 else if nak = nakNotMember ∨ nak = nakUnreachable then 2
  else if nak = nakOutOfRange then 4 else 3

/-! ### End markers (R329) -/

/-- Rows of a batch sent to a device so far. -/
def Batch.sentTo (b : Batch) (d : Nat) : Nat := (b.sel.filter (fun a => a.device == d && a.sent)).length

/-- A row or marker for this device that finds its half owned by another round waits like a request answered RX_BUSY
(R333). -/
def State.waitLocal (s : State) (b : Batch) (type : Nat) (owner : Owner) (payload : List Byte) : State :=
  let q := s.batchQueue b
  let r := (reqRte b.gallery).code
  let p : Packet := { Packet.zero with
    type := type, chamber := b.chamber, dst := s.deviceId, src := s.deviceId, length := payload.length % 0x1_0000,
    txn := s.fab.txn, queue := q, qepoch := s.fget GFE_Q_STATE_EPOCH q, stream := r, payload := payload }
  let x : Outstanding :=
    { packet := p, owner := owner, resent := false, requester := r, busyAt := some s.now, va := none, expires := s.batchExpiry b }
  { s with fab := { s.fab with txn := (s.fab.txn + 1) % 2 ^ 32, outstanding := s.fab.outstanding ++ [x] } }

/-- One end marker of a batch, with the rows sent to that device; one that finds no route, or is refused here, is a cause of R330
(R329, R330, R590). -/
def State.sendMark (s : State) (b : Batch) (d : Nat) : State :=
  let payload := leBytes 4 b.profile ++ leBytes 4 b.round ++ leBytes 4 b.gallery ++ leBytes 4 (b.sentTo d)
  let owner := Owner.mark b.gallery b.epoch d
  if d = s.deviceId then
    match s.landMark b.chamber d payload with
    | (some c, s) =>
      if c = nakRxBusy then s.waitLocal b ptRowEnd owner payload else s.noteCause b.gallery b.epoch (exchangeCause c)
    | (none, s) => s
  else
    match s.request ptRowEnd owner (reqRte b.gallery).code b.chamber d 0 16 payload 0 (s.batchQueue b) none (s.batchExpiry b) with
    | (some _, s) => s.noteCause b.gallery b.epoch (exchangeCause nakUnreachable)
    | (none, s) => s

/-- The end markers of the batch of instruction `op`, sent once (R329). -/
def State.markAll (s : State) (op : Nat) : State :=
  match s.rte.batches.find? (fun b => b.op == op) with
  | none => s
  | some b =>
    if b.marked || b.selectOnly then s
    else b.devices.foldl (fun s d => s.sendMark b d) (s.setBatch { b with marked := true })

/-- An RT.RUN that fails sends no further row; its markers leave, and it ends its item (R221, R330, R344). -/
def State.rtFailed (s : State) (o : EngOp) (code cause : Nat) : State := (s.markAll o.id).engFailed o code cause

/-- A batch ends its RT.RUN, and its item, with a fault (R221, R330). -/
def State.failBatch (s : State) (b : Batch) (code cause : Nat) : State :=
  match s.engOp b.op with
  | none => s
  | some o => s.rtFailed o code cause

/-- The end markers sent once every row is sent, or a cause of R330 stops the rows; the RT.RUN then ends with that cause
(R329, R330). -/
def State.sendMarks (s : State) (g epoch : Nat) : State :=
  match s.batch g epoch with
  | none => s
  | some b =>
    let s := if b.cause.isSome || b.sel.all (fun a => a.sent) then s.markAll b.op else s
    match s.batch g epoch with
    | none => s
    | some b =>
      match b.cause with
      | some c => s.failBatch b cExchange c
      | none => s

/-- A row or marker of a batch has met a NAK that is final: no further row is sent, the markers are, and the RT.RUN ends
0x39 FAULT_EXCHANGE (R330). -/
def State.exchangeNak (s : State) (g epoch nak : Nat) : State :=
  (s.noteCause g epoch (exchangeCause nak)).sendMarks g epoch

/-! ### Results (R335, R338 to R340, R343) -/

/-- The virtual address of an offset in gallery `g`'s store. -/
def storeVa (g off : Nat) : Nat := 0x01FF_0000_0000_0000 + storeBase g + off

/-- Elements of a row of 2-byte or 4-byte values. -/
def rowVals (fmt n : Nat) (bs : List Byte) : List Val :=
  (List.range n).map (fun i => decodeVal fmt (elemAt bs (elemBits fmt) i))

/-- Element-wise sums of several lists of terms, each with the open error of R131, and whether one of them is invalid (R142, R340). -/
def State.sumTerms (s : State) (u : Rat) : List (List Val) → (List Val × Bool) × State
  | [] => (([], false), s)
  | ts :: l =>
    let ((v, i), s) := s.accumulate u ts
    let ((vs, j), s) := s.sumTerms u l
    ((v :: vs, i || j), s)

/-- A row of results in OUT_FMT written for token `t`; a fault ends the batch. -/
def State.writeOut (s : State) (b : Batch) (o : EngOp) (t : Nat) (vals : List Val) : State :=
  let fmt := fieldAt o.desc 3 1
  let (codes, f) := roundRne fmt false vals
  let row := packRow (elemBits fmt) codes
  match s.writeVa (reqRte b.gallery) b.chamber (.eng o.id) o.item.queue (fieldAt o.desc 0x28 8 + t * row.length) row with
  | (some f, s) => s.failBatch b f.code f.cause
  | (none, s) => s.batchRaise b.gallery b.epoch o.strand f

/-- Flags of an operation that is invalid, or none. -/
def invalidIf (i : Bool) : Flags := if i then Flags.invalid else Flags.zero

/-- The output row of a token whose kept entries have all returned: its accumulator row, or Σ w_k × r_k over the returned
entries in ascending k (R338 to R340). -/
def State.tokenOut (s : State) (b : Batch) (o : EngOp) (t : Nat) : State :=
  let rp := s.rprofile b.chamber b.profile
  let h := rpHidden rp
  let r := reqRte b.gallery
  if b.lc then
    match s.readVa r b.chamber (storeVa b.gallery (fieldAt o.desc 8 4 + t * h * 4)) (4 * h) with
    | (.error f, s) => s.failBatch b f.code f.cause
    | (.ok bs, s) => s.writeOut b o t (rowVals cF32 h bs)
  else
    let mine := b.sel.filter (fun a => a.token == t && a.returned && !a.dropped)
    let rb := rpRowBytes rp
    let ranges := mine.map (fun a => (fieldAt o.desc 0x30 8 + (t * rpKmax rp + a.k) * rb, 2 * h))
    match readAll r b.chamber ranges s with
    | (.error f, s) => s.failBatch b f.code f.cause
    | (.ok rows, s) =>
      let rows := rows.map (rowVals (rpRetFmt rp) h)
      let ws := mine.map (fun a => fmtF32.decode a.weight.toNat)
      let terms := (List.range h).map (fun i => List.zipWith (fun (w : Val) (row : List Val) => w.mul (row.getD i .zero)) ws rows)
      let ((vals, i), s) := s.sumTerms (((mine.length - 1 : Nat) : Rat) * pow2 (-24)) (terms.map (fun l => l.map (·.1)))
      (s.batchRaise b.gallery b.epoch o.strand (invalidIf (i || terms.any (fun l => l.any (·.2))))).writeOut b o t vals
where
  readAll (r : MReq) (n : Nat) : List (Nat × Nat) → State → Except MFault (List (List Byte)) × State
    | [], s => (.ok [], s)
    | (va, len) :: l, s =>
      match s.readVa r n va len with
      | (.error f, s) => (.error f, s)
      | (.ok x, s) =>
        match readAll r n l s with
        | (.error f, s) => (.error f, s)
        | (.ok xs, s) => (.ok (x :: xs), s)

/-- The output row of token `t` is written when its last kept entry has returned (R338, R339). -/
def State.tokenCheck (s : State) (g epoch t : Nat) : State :=
  match s.batch g epoch with
  | none => s
  | some b =>
    match s.engOp b.op with
    | none => s
    | some o =>
      if (b.sel.filter (fun a => a.token == t)).all (fun a => a.returned) then s.tokenOut b o t else s

/-- An accumulator row with w × r added: each element is the exact acc + w × r rounded once into f32, and whether one of them is invalid
(R130, R133, R338, R340; log entry 120). -/
def addRow (w : Val) (acc row : List Val) : List Nat × Bool :=
  let sums := List.zipWith (fun (x y : Val) => w.fma y x) acc row
  ((roundRne cF32 false (sums.map (·.1))).1, sums.any (·.2))

/-- A returned row of a live batch is combined: added into the token's accumulator row, or kept in the return buffer
(R338, R339). -/
def State.combine (s : State) (b : Batch) (o : EngOp) (a : Assign) (row : List Byte) : State :=
  let rp := s.rprofile b.chamber b.profile
  let h := rpHidden rp
  let r := reqRte b.gallery
  let n := b.chamber
  if b.lc then
    let va := storeVa b.gallery (fieldAt o.desc 8 4 + a.token * h * 4)
    match s.readVa r n va (4 * h) with
    | (.error f, s) => s.failBatch b f.code f.cause
    | (.ok acc, s) =>
      let (codes, i) := addRow (fmtF32.decode a.weight.toNat) (rowVals cF32 h acc) (rowVals (rpRetFmt rp) h row)
      match s.writeVa r n (.eng o.id) o.item.queue va (packRow 32 codes) with
      | (some f, s) => s.failBatch b f.code f.cause
      | (none, s) => s.batchRaise b.gallery b.epoch o.strand (invalidIf i)
  else
    let va := fieldAt o.desc 0x30 8 + (a.token * rpKmax rp + a.k) * rpRowBytes rp
    match s.writeVa r n (.eng o.id) o.item.queue va (slice row 0 (rpRowBytes rp)) with
    | (some f, s) => s.failBatch b f.code f.cause
    | (none, s) => s

/-- The row that a return or drop notice answers is under way no more. -/
def State.rowAnswered (s : State) (t : List Byte) : State :=
  let owner := Owner.row (tagGallery t) (tagEpoch t) (tagToken t) (tagK t)
  { s with fab := { s.fab with outstanding := s.fab.outstanding.filter (fun x => x.owner != owner) } }

/-- The batch, the instruction and the assignment that a return or drop notice for a live epoch answers. -/
def State.answered (s : State) (t : List Byte) : Option (Batch × EngOp × Assign) :=
  (s.batch (tagGallery t) (tagEpoch t)).bind fun b =>
    (s.engOp b.op).bind fun o =>
      (b.sel.find? (fun a => a.token == tagToken t && a.k == tagK t && a.sent && !a.returned)).map fun a => (b, o, a)

/-- A return or drop notice with tag `t` reaches the gallery its tag names: for an epoch that is not live it goes to the sump; else
`act` takes what it answers (R343). -/
def State.comeBack (s : State) (n : Nat) (t : List Byte) (bytes : Nat) (act : Batch → EngOp → Assign → State → State) : State :=
  let g := tagGallery t
  if 16 ≤ g ∨ s.chamberOf g ≠ some n then s else
  let s := s.rowAnswered t
  if !s.epochLive g (tagEpoch t) then s.sump g (tagEpoch t) bytes else
  match s.answered t with
  | some (b, o, a) => act b o a s
  | none => s

/-- A result arrives at the gallery its tag names: it is combined, or swallowed (R338, R339, R343). -/
def State.resultIn (s : State) (n : Nat) (payload : List Byte) : State :=
  s.comeBack n (payload.take 64) payload.length fun b o a s =>
    let s := s.setBatch (b.modSel a.token a.k (fun (a : Assign) => { a with returned := true }))
    (s.combine b o a (payload.drop 64)).tokenCheck b.gallery b.epoch a.token

/-- A drop notice arrives: RX_DROP is set in the selection entry, which adds nothing (R335, R343). -/
def State.dropIn (s : State) (n : Nat) (t : List Byte) : State :=
  s.comeBack n t t.length fun b o a s =>
    let s := s.setBatch (b.modSel a.token a.k (fun (a : Assign) => { a with returned := true, dropped := true }))
    let s := s.bump RTE_DROPPED_COUNT 1 b.gallery
    let va := fieldAt o.desc 0x20 8 + 128 * a.token + 8 * a.k + 2
    match s.writeVa (reqRte b.gallery) n (.eng o.id) o.item.queue va (leBytes 1 (2 + b2n (a.device != s.deviceId))) with
    | (some f, s) => s.failBatch b f.code f.cause
    | (none, s) => s.tokenCheck b.gallery b.epoch a.token

/-! ### Sending rows (R328, R330) -/

/-- Whether the row of an assignment has left. -/
def State.markSent (s : State) (g epoch token k : Nat) (sent : Bool) : State :=
  match s.batch g epoch with
  | some b => s.setBatch (b.modSel token k (fun (a : Assign) => { a with sent := sent }))
  | none => s

/-- A row that has landed by loopback at XCE `x` of this device (R328, R335). -/
def State.rowLooped (s : State) (x n g epoch token k : Nat) (dropped : Bool) (payload : List Byte) : State :=
  let s := (s.bump64 XCE_LOOPBACK_LO_COUNT XCE_LOOPBACK_HI_COUNT 1 x n).markSent g epoch token k true
  if dropped then s.dropIn n (payload.take 64) else s

/-- The row of an assignment sent on: by loopback to this device, else over the fabric; one that meets a cause of R330 ends the batch
(R328 to R330, R333). -/
def State.sendRow (s : State) (b : Batch) (o : EngOp) (a : Assign) (row : List Byte) : State :=
  let g := b.gallery
  let n := b.chamber
  let x := g / 8
  let payload := tagBytes s.deviceId g b.profile b.epoch a.token a.k b.round a.expert a.weight.toNat ++ row
  let owner := Owner.row g b.epoch a.token a.k
  if a.device = s.deviceId then
    match s.landRow x n payload with
    | (.error c, s) =>
      if c = nakRxBusy then s.waitLocal b ptRow owner payload else s.exchangeNak g b.epoch c
    | (.ok dropped, s) => s.rowLooped x n g b.epoch a.token a.k dropped payload
  else if !s.inGroup n then s.exchangeNak g b.epoch nakNoGroup
  else if !s.fab.members.any (fun m => m.id == a.device && m.live) then s.exchangeNak g b.epoch nakUnreachable
  else
    match s.request ptRow owner (reqRte g).code n a.device 0 (payload.length % 0x1_0000) payload 0 o.item.queue none
        (s.batchExpiry b) with
    | (some _, s) => s.exchangeNak g b.epoch nakUnreachable
    | (none, s) => (s.bump64 XCE_TX_ROWS_LO_COUNT XCE_TX_ROWS_HI_COUNT 1 x n).markSent g b.epoch a.token a.k true

end Sys2Proof.Machine
end

