-- ==== Sys2Proof/Machine/Fabric.lean ====
section
/-! DEFINITION. Fabric Links: answers, violations, the arrival of a packet on a lane, packets that lose their lane or port, and
the end of a request at its source (R584 to R601, R608, R609). -/

namespace Sys2Proof.Machine

/-! ### Answers -/

/-- An answer to `p`: it leaves along its route, else by the port of arrival (R590, R610). -/
def State.answer (s : State) (port : Nat) (p : Packet) (type : Nat) (payload : List Byte) (arg : Nat) : State :=
  let a : Packet := { Packet.zero with
    type := type, flags := p.flags % 2, chamber := p.chamber % 16, dst := p.src, src := s.deviceId, addr := p.addr,
    length := payload.length % 0x1_0000, txn := p.txn, arg := arg, queue := p.queue, qepoch := p.qepoch,
    stream := p.stream, payload := payload }
  match s.send a with
  | (true, s) => s
  | (false, s) => s.putOn port a.seal

/-- A NAK: its cause, the violation cause and the offending TYPE; counted on the port that sends it (R586, R593, R613). -/
def State.nak (s : State) (port : Nat) (p : Packet) (cause viol : Nat) : State :=
  let out := (s.egress (p.chamber % 16) p.src false).getD port
  (s.answer port p ptNak [] (cause + viol * 2 ^ 8 + p.type * 2 ^ 16)).bump LNK_NAKS_TX_COUNT 1 out

/-! ### The end of a request at its source (R593, R594) -/

/-- An engine instruction whose request another device refused; an RT.RUN sends its end markers first (R593, R344). -/
def State.engRefused (s : State) (o : EngOp) (cause : Nat) : State :=
  if o.eng == .rte then s.rtFailed o fRemote cause else s.engFailed o fRemote cause

/-- A copy whose request another device refused; a record write that fails sets CFAULT (R513, R518, R593). -/
def State.copyRefused (s : State) (k : ItemKey) (cause queue : Nat) : State :=
  match s.item k with
  | some i =>
    let s := match i.phase with
      | .mover g d => s.wset DMV_FAULT_LAST (fRemote * 2 ^ 24 + cause * 2 ^ 16 + k.queue % 4096) g d
      | _ => s
    s.endItem k fRemote cause
  | none => if queue < 4096 then s.fset GFE_Q_STATE_CFAULT 1 queue else s

/-- A request of this device ends with a NAK cause: the memory instruction, the copy or the engine instruction that made it
ends 0x33 FAULT_REMOTE; a row or marker ends its RT.RUN by R330; a check-value run, a slot write, a fetch and a command end as
their own reads do (R184, R503, R504, R593, R635). -/
def State.ownerFail (s : State) (o : Owner) (cause : Nat) (queue : Nat) : State :=
  match o with
  | .op id => s.remoteFail id cause
  | .eng id =>
    match s.engOp id with
    | some e => s.engRefused e cause
    | none => s
  | .copy k => (s.forget o).copyRefused k cause queue
  | .row g e _ _ => s.exchangeNak g e cause
  | .mark g e _ => s.exchangeNak g e cause
  | .cvu g u =>
    if s.fget CVU_STATUS_STATE g u == 1 || s.fget CVU_STATUS_STATE g u == 2 then
      (s.forget o).wset CVU_STATUS (2 * 2 ^ 28 + 5 * 2 ^ 16 + fRemote * 2 ^ 8 + cause) g u
    else s
  | .slot g =>
    match s.writeOf g with
    | some (id, _) => (s.forget o).refuseWrite g id wSourceFault
    | none => s
  | .fetch q => (s.forget o).fetchFailed q ⟨fRemote, cause, 0⟩
  | .command k =>
    let n := k / 2
    let s := s.forget o
    if k % 2 == 0 then (if s.fget GFE_QCMD_STATUS_STATE n == 1 then s.qcmdRefuse n 0x06 0 else s)
    else if s.fget GFE_GCMD_STATUS_STATE n == 1 then s.gcmdRefuse n 0x06 else s

/-- The gallery of the requester with a STREAM code (R411, R585). -/
def galleryOfCode (code : Nat) : Nat :=
  let r := code % 256
  if r < 0x80 then r / 8 else if r < 0xC0 then (r - 0x80) / 4 else r % 16

/-- The fault of a refused request that had a virtual address, in the registers of its requester's MMU (R398, R411); a memory
instruction's own end records it. -/
def State.recordRefusal (s : State) (o : Outstanding) (cause : Nat) : State :=
  match o.owner, o.va with
  | .op _, _ => s
  | _, some va =>
    s.recordFault ⟨galleryOfCode o.requester, o.requester⟩ o.packet.chamber va (o.packet.type != ptRdReq) ⟨fRemote, cause, 0⟩
  | _, none => s

/-- The request with transaction number `txn` to device `dst`, and the state without it. -/
def State.takeOut (s : State) (txn dst : Nat) : Option Outstanding × State :=
  match s.fab.outstanding.find? (fun o => o.packet.txn == txn && o.packet.dst == dst) with
  | none => (none, s)
  | some o => (some o, { s with fab := { s.fab with outstanding := s.fab.outstanding.filter (fun x =>
      !(x.packet.txn == txn && x.packet.dst == dst)) } })

/-- A strand's barrier arrival refused: its item ends 0x33 FAULT_REMOTE with cause BARRIER (R593, R607). -/
def State.refuseArrivals (s : State) (p : Arrival → Bool) (cause : Nat) : State :=
  let mine := s.fab.arrivals.filter p
  let s : State := { s with fab := { s.fab with arrivals := s.fab.arrivals.filter (fun a => !p a) } }
  mine.foldl (fun s (a : Arrival) =>
    let x := s.strand a.core a.strand
    match x.wait with
    | .barrier id _ =>
      if id == a.id && x.item == a.item then s.failStrand a.core a.strand fRemote cause else s
    | _ => s) s

/-- A request of this device fails with a cause: the end at its source. -/
def State.requestFails (s : State) (txn dst cause : Nat) : State :=
  match s.takeOut txn dst with
  | (some o, s) => (s.recordRefusal o cause).ownerFail o.owner cause o.packet.queue
  | (none, s) => s.refuseArrivals (fun a => a.txn == some txn) cause

/-- A packet for which no route is left: a VC0 request is answered with UNREACHABLE, here or at its source; anything else is
lost (R590, R591, R598). -/
def State.unreachable (s : State) (port : Nat) (p : Packet) : State :=
  if p.src = s.deviceId then
    if vcOf p.type == some 0 || p.type == ptBarArrive then s.requestFails p.txn p.dst nakUnreachable else s
  else if vcOf p.type == some 0 then s.nak port p nakUnreachable 0 else s

/-! ### Lanes and ports -/

def State.laneInService (s : State) (l : Nat) : Bool := (s.lanesUp (l / 4)).contains l

/-- LNK_PORT_STATUS.STATE from its lanes; isolation lasts (R613). -/
def State.refreshPort (s : State) (p : Nat) : State :=
  if s.fget LNK_PORT_STATUS_STATE p == 3 then s else
  let training := (List.range 4).any (fun k => s.fget LNK_LANE_STATUS_STATE p k == 1)
  s.fset LNK_PORT_STATUS_STATE (if !(s.lanesUp p).isEmpty then 2 else if training then 1 else 0) p

/-- A lane leaves service: bit and state (R601). -/
def State.laneOut (s : State) (l state : Nat) : State :=
  let (p, k) := (l / 4, l % 4)
  let m := s.fget LNK_PORT_STATUS_IN_SERVICE p
  let s := s.fset LNK_PORT_STATUS_IN_SERVICE (m - (m &&& 2 ^ k)) p
  (s.fset LNK_LANE_STATUS_STATE state p k).refreshPort p

/-- A packet that has lost its lane goes over another lane of the port, else over another port of its route; one that waits on a
port in a test window moves to another port of its route, and else stays (R598, R610). -/
def State.resend (s : State) (port : Nat) (p : Packet) : State :=
  let here := s.fget LNK_PORT_STATUS_STATE port == 2 && !(s.lanesUp port).isEmpty
  if here && s.fget LNK_PORT_STATUS_TEST port == 0 then s.putOn port p else
  match s.egress p.chamber p.dst (vcOf p.type == some 2) with
  | some q => s.putOn q p
  | none => if here then s.putOn port p else s.unreachable port p

/-- Packets of lanes out of service, and packets that wait for credits, sent again in order (R598, R599, R609). -/
def State.flow (s : State) : State :=
  let lost := s.fab.lanes.filter (fun e => !s.laneInService e.1)
  let pend := lost.flatMap (fun e => e.2.replay.map (fun p => (e.1 / 4, p))) ++ s.fab.txq
  let s := lost.foldl (fun s (e : Nat × Lane) => s.setLane e.1 { e.2 with replay := [], replays := 0 }) s
  let s : State := { s with fab := { s.fab with txq := [] } }
  pend.foldl (fun s (e : Nat × Packet) => s.resend e.1 e.2) s

/-- A lane starts training from step 1 (R584, R613). -/
def State.trainLane (s : State) (l : Nat) : State :=
  if s.healthOf (unitLane l) == umber || !bitOf (s.fab.ports.getD (l / 4) (0, 0, 0)).2.1 (l % 4) then s else
  let x := s.lane l
  let s := s.setLane l { x with attempts := 0, retryAt := 0, locked := false }
  (s.laneOut l 1).flow

/-! ### Violations (R608, R609) -/

/-- Violations of the window of port `p` so far, and when it began. -/
def State.violWindow (s : State) (p : Nat) : Nat × Nat :=
  ((s.fab.windows.find? (fun e => e.1 == p)).map (·.2)).getD (0, s.now)

def State.setWindow (s : State) (p count start : Nat) : State :=
  { s with fab := { s.fab with windows := (p, count, start) :: s.fab.windows.filter (fun e => e.1 != p) } }

/-- A violation: counted, recorded and answered; at the threshold the port is isolated, but in a test window never (R608 to
R610). -/
def State.violate (s : State) (port cause : Nat) (p : Packet) : State :=
  let s := s.bump LNK_VIOL_COUNT 1 port
  let s := s.wset LNK_VIOL_LAST (cause * 2 ^ 24 + p.type % 256 * 2 ^ 16 + p.src % 2 ^ 16) port
  let s := if vcOf p.type == some 0 then s.nak port p nakViolation cause else s.bump LNK_DROPPED_COUNT 1 port
  let (count, start) := s.violWindow port
  let s := s.setWindow port (count + 1) start
  if count + 1 < max 1 (s.fget LNK_VIOL_CTRL_THRESHOLD port) ∨ s.fget LNK_PORT_STATUS_TEST port = 1 then s else
  (s.fset LNK_PORT_STATUS_STATE 3 port).flow

def vMalformed : Nat := 0x01
def vBadLength : Nat := 0x02
def vBadSeq : Nat := 0x04
def vGroupMismatch : Nat := 0x05
def vUnsolicited : Nat := 0x06
def vBadAddress : Nat := 0x07
def vBadClose : Nat := 0x08

/-- Reserved bits that a header has set, or an ARG that its type gives no meaning (R585, R586). -/
def Packet.reserved (p : Packet) : Bool :=
  16 ≤ p.flags || 16 ≤ p.chamber || 2 ^ 11 ≤ p.stream ||
  (if p.type = ptAmo then 64 ≤ p.arg || 8 ≤ p.arg % 16 || p.arg / 16 < 2
   else if p.type = ptNak then 2 ^ 24 ≤ p.arg
   else [ptRdReq, ptWr, ptRow, ptRowEnd, ptRdResp, ptWrAck, ptAmoResp, ptRowDrop, ptResult].contains p.type && p.arg != 0)

/-- LENGTH does not match the packet; rows may be longer than a LENGTH can say (R585). -/
def Packet.mismatched (p : Packet) : Bool := p.type != ptRdReq && p.length != p.payload.length % 0x1_0000

/-- The payload fits the type (R586). -/
def Packet.sized (p : Packet) : Bool :=
  let n := p.payload.length
  if p.type = ptRdReq then n == 0 && 1 ≤ p.length && p.length ≤ 4096
  else if p.type = ptWr ∨ p.type = ptRdResp then 1 ≤ n && n ≤ 4096
  else if p.type = ptCloseWr then 1 ≤ n && n ≤ 4096
  else if p.type = ptAmo ∨ p.type = ptRowEnd ∨ p.type = ptBarArrive ∨ p.type = ptSync then n == 16
  else if p.type = ptRow ∨ p.type = ptResult then 64 ≤ n
  else if p.type = ptMember ∨ p.type = ptRowDrop then n == 64
  else if p.type = ptAmoResp then n == 8
  else if p.type = ptLink then n == 32
  else n == 0

/-- The violation that the form of a packet is, if any; in the order of R608. -/
def Packet.malformed (p : Packet) : Option Nat :=
  if p.reserved || p.mismatched then some vMalformed
  else if !p.sized then some vBadLength else none

/-- Whether a packet that carries data or a row fails its end-to-end check (R597). -/
def Packet.corrupt (p : Packet) : Bool := !p.payload.isEmpty && (!bitOf p.flags 1 || p.e2e != p.check)

/-! ### Arrival -/

/-- The lane accepts the packet: it is next in sequence, its bytes are counted, it is acknowledged, and its blocks return as
credits (R598, R599). -/
def State.acceptOn (s : State) (l : Nat) (p : Packet) : State :=
  let port := l / 4
  let x := s.lane l
  let s := s.setLane l { x with rxSeq := (x.rxSeq + 1) % 0x1_0000 }
  let s := s.bump64 LNK_RX_BYTES_LO_COUNT LNK_RX_BYTES_HI_COUNT p.wire port
  let s := s.sendLink port 2 (leBytes 2 p.lseq)
  s.sendLink port 1 ((List.range 16).flatMap (fun i => leBytes 2 (if i = creditIndex p then p.wire / 32 else 0)))

/-- A packet of one of the types `mine` arrives in order on lane `l` for this device, well formed, and `act` is its effect. An
isolated port drops it; a packet that breaks its form is a violation (R598, R608, R609). -/
def State.arrive (s : State) (l : Nat) (p : Packet) (type : Nat) (act : State → State) : State :=
  let port := l / 4
  if 64 ≤ l ∨ p.type ≠ type ∨ s.fab.group.isNone = true ∨ p.dst ≠ s.deviceId ∨ s.laneInService l = false ∨
      p.lseq ≠ (s.lane l).rxSeq then s else
  let s := s.acceptOn l p
  if s.fget LNK_PORT_STATUS_STATE port = 3 then s.bump LNK_DROPPED_COUNT 1 port else
  match p.malformed with
  | some v => s.violate port v p
  | none => (act s).deliver

/-- A mismatch of the end-to-end check found on lane `l`: counted and reported (R597). -/
def State.e2eFail (s : State) (l : Nat) : State := (s.bump LNK_E2E_FAIL_COUNT).report (unitLane l) kE2e

end Sys2Proof.Machine
end

