-- ==== Sys2Proof/Machine/Target.lean ====
section
/-! DEFINITION. Requests at their target: rights, remote reads, writes and atomics, the stream table and closing writes, and
the rows and end markers that arrive (R332 to R335, R587 to R597). -/

namespace Sys2Proof.Machine

/-! ### Rights (R588) -/

/-- The first three conditions of R588: membership, chamber and port, LIVE. -/
def State.admitNak (s : State) (port : Nat) (p : Packet) : Option Nat :=
  if p.src = s.deviceId ∨ !s.fab.members.any (fun m => m.id == p.src && m.live) then some nakNotMember
  else if !s.inGroup p.chamber || !s.mayUsePort p.chamber port then some nakNoGroup
  else if !s.chLive p.chamber then some nakNotLive
  else none

/-- ADDR and LENGTH lie within the chamber's HBM, or a scratchpad or gallery store of its galleries (R588). -/
def State.inTarget (s : State) (n pa len : Nat) : Bool :=
  match regionOf s pa with
  | .hbm m off => m == n && off + len ≤ (s.chamber n).memSize
  | .scratch c off => bitOf (s.chamber n).galleries (c / 8) && off + len ≤ 0x20_0000
  | .store g off => bitOf (s.chamber n).galleries g && off + len ≤ 0x100_0000
  | _ => false

/-- A write into the key–value pool or its tables (R395, R588). -/
def State.intoPool (s : State) (n pa len : Nat) : Bool :=
  match regionOf s (pa + len - 1) with
  | .hbm m off => m == n && (s.chamber n).inPool off
  | _ => false

/-- A line of the range is poisoned, or on an umber pseudo-channel or core (R588). -/
def State.badLines (s : State) (n pa len : Nat) : Bool :=
  (linesOf pa len).any fun e =>
    s.poisoned e.1 ||
    (match regionOf s e.1 with
     | .hbm _ off =>
       let (st, p, _) := (s.chamber n).interleave off
       s.healthOf (unitPc st p) == umber
     | .scratch c _ => !s.coreLive c
     | .store g _ => !s.galleryLive g
     | _ => true)

/-- The conditions of R588 on the lines of an access. -/
def State.rangeNak (s : State) (p : Packet) (len : Nat) (wr : Bool) : Option Nat :=
  if !s.inTarget p.chamber p.addr len then some nakOutOfRange
  else if wr && s.intoPool p.chamber p.addr len then some nakWriteDenied
  else if s.badLines p.chamber p.addr len then some nakMemory
  else none

/-! ### Addresses (R587) -/

/-- A WR or RD_REQ keeps R587. -/
def addressOk (addr len : Nat) : Bool :=
  if 64 ≤ len then addr % 64 == 0 && len % 64 == 0 else addr / 64 == (addr + len - 1) / 64

/-- A CLOSE_WR keeps R587: an access of a MO.ST, or one line. -/
def closeOk (addr len : Nat) : Bool := [1, 2, 4, 8, 64].contains len && addr % len == 0

/-! ### Streams (R595, R596) -/

def streamReq (p : Packet) : Nat := p.stream % 256
def streamIx (p : Packet) : Nat := bitsOf p.stream 10 8

/-- The target's entry for the stream of `p`; one never used starts at closing write 0. -/
def State.stream (s : State) (p : Packet) : TargetStream :=
  (s.fab.streams.find? (fun e => e.src == p.src && e.chamber == p.chamber && e.requester == streamReq p)).getD
    { src := p.src, chamber := p.chamber, requester := streamReq p, counters := List.replicate 8 0, refused := [],
      held := [], closed := 0, gone := [] }

/-- An entry in use: a counter that is not 0, or a held closing write (R596). -/
def TargetStream.inUse (e : TargetStream) : Bool := e.counters.any (· != 0) || !e.held.isEmpty

/-- LNK_STREAMS and LNK_CLOSE_HELD (R613). -/
def State.refreshStreams (s : State) : State :=
  (s.fset LNK_STREAMS_ENTRIES (s.fab.streams.filter TargetStream.inUse).length).fset LNK_CLOSE_HELD_COUNT
    ((s.fab.streams.map (fun e => e.held.length)).sum)

def State.setStream (s : State) (x : TargetStream) : State :=
  let s : State := { s with fab := { s.fab with streams := x :: s.fab.streams.filter (fun e =>
    !(e.src == x.src && e.chamber == x.chamber && e.requester == x.requester)) } }
  s.refreshStreams

/-- A packet of a new stream finds the table full (R596). -/
def State.streamFull (s : State) (p : Packet) : Bool :=
  !(s.stream p).inUse && 16_384 ≤ (s.fab.streams.filter TargetStream.inUse).length

/-- One packet counted under its CIDX (R595 step 1); a counter may run ahead of a discarded closing write and wraps. -/
def TargetStream.count (e : TargetStream) (k : Nat) : TargetStream :=
  { e with counters := e.counters.set k ((e.counters.getD k 0 + 1) % 2 ^ 32) }

/-- Closing write `k` is over: its COUNT is taken off, and the next one is due (R595). -/
def TargetStream.closeOver (e : TargetStream) (k count : Nat) : TargetStream :=
  let e := { e with
    counters := e.counters.set k ((e.counters.getD k 0 + 2 ^ 32 - count % 2 ^ 32) % 2 ^ 32),
    refused := e.refused.filter (· != k),
    held := e.held.filter (fun h => streamIx h.packet != k) }
  if e.closed = k then skip 8 { e with closed := (k + 1) % 8 } else { e with gone := e.gone ++ [k] }
where
  skip : Nat → TargetStream → TargetStream
    | 0, e => e
    | i + 1, e =>
      if e.gone.contains e.closed then
        skip i { e with gone := e.gone.erase e.closed, closed := (e.closed + 1) % 8 }
      else e

/-- A held closing write discarded and answered (R595 steps 3 and 4). -/
def State.discardClose (s : State) (h : HeldClose) (cause : Nat) : State :=
  let p := h.packet
  let s := s.setStream ((s.stream p).closeOver (streamIx p) p.arg)
  (s.bump LNK_CLOSE_FAIL_COUNT).nak h.port p cause 0

/-- A write of a stream performed or refused: counted, and a held closing write of its CIDX fails with a refused one
(R595, R611). -/
def State.countWrite (s : State) (p : Packet) (refused : Bool) : State :=
  let k := streamIx p
  let e := (s.stream p).count k
  let s := s.setStream (if refused then { e with refused := k :: e.refused.filter (· != k) } else e)
  if !refused then s else
  match (s.stream p).held.find? (fun h => streamIx h.packet == k) with
  | some h => s.discardClose h nakCloseFailed
  | none => s

/-- Held closing writes of a chamber that leaves LIVE are discarded and answered per R105, and its entries are freed (R452,
R611). -/
def State.dropStreams (s : State) (n : Nat) : State :=
  let held := (s.fab.streams.filter (fun e => e.chamber == n)).flatMap (·.held)
  let s := held.foldl (fun s h => s.discardClose h nakNotLive) s
  let s : State := { s with fab := { s.fab with streams := s.fab.streams.filter (fun e => e.chamber != n) } }
  s.refreshStreams

/-! ### Reads, writes and atomics -/

/-- Bytes read at a target, piece by piece. -/
def State.readTarget (s : State) : List (Nat × Nat) → Except Nat (List Byte) × State
  | [] => (.ok [], s)
  | (pa, len) :: l =>
    match s.readLine pa len with
    | (.error _, s) => (.error nakMemory, s)
    | (.ok b, s) =>
      match s.readTarget l with
      | (.error c, s) => (.error c, s)
      | (.ok bs, s) => (.ok (b ++ bs), s)

/-- Bytes written at a target, line by line. -/
def State.writeTarget (s : State) : List (Nat × Nat) → List Byte → State
  | [], _ => s
  | (pa, len) :: l, bs => ((s.writeLine pa (bs.take len)).2).writeTarget l (bs.drop len)

/-- What every VC0 request to memory meets first: the end-to-end check, the address rules, and the conditions of R588; `act`
performs it. A refused write counts in its stream; a CHECK is resent and does not (R587, R588, R595, R597). -/
def State.judge0 (s : State) (l : Nat) (p : Packet) (len : Nat) (wr addrOk : Bool) (ev : CellEvent)
    (act : State → State) : State :=
  let port := l / 4
  if p.corrupt then ((s.e2eFail l).nak port p nakCheck 0) else
  let admitted := (s.admitNak port p).isNone
  let refuse := fun (s : State) => if wr && admitted then s.countWrite p true else s
  if !addrOk then refuse (s.violate port vBadAddress p) else
  match s.admitNak port p with
  | some c => s.nak port p c 0
  | none =>
    if wr && s.streamFull p then s.nak port p nakRxBusy 0 else
    let s := if s.inTarget p.chamber p.addr len then s.cellEvent (p.addr / 64 * 64) ev else s
    match s.rangeNak p len wr with
    | some c => refuse (s.nak port p c 0)
    | none => act s

/-- RD_REQ: a remote read arrives on lane `l`; `ev` is what the cells of its first line show (R588). -/
def execRdReq (l : Nat) (p : Packet) (ev : CellEvent) (s : State) : Result :=
  .next (s.arrive l p ptRdReq fun s =>
    s.judge0 l p p.length false (addressOk p.addr p.length) ev fun s =>
      match s.readTarget (linesOf p.addr p.length) with
      | (.error c, s) => s.nak (l / 4) p c 0
      | (.ok bs, s) => s.answer (l / 4) p ptRdResp bs 0)

/-- WR: a remote write arrives, is performed line by line and acknowledged (R588, R594, R595). -/
def execWr (l : Nat) (p : Packet) (ev : CellEvent) (s : State) : Result :=
  .next (s.arrive l p ptWr fun s =>
    let len := p.payload.length
    s.judge0 l p len true (addressOk p.addr len) ev fun s =>
      ((s.writeTarget (linesOf p.addr len) p.payload).countWrite p false).answer (l / 4) p ptWrAck [] 0)

/-- AMO: a remote atomic arrives, is performed in one step and answered with the previous value (R422, R587, R588). -/
def execAmo (l : Nat) (p : Packet) (ev : CellEvent) (s : State) : Result :=
  .next (s.arrive l p ptAmo fun s =>
    let size := p.arg / 16
    let n := 2 ^ size
    s.judge0 l p n true (p.addr % n == 0) ev fun s =>
      let old := leVal (s.bytes p.addr n)
      let operand := fieldAt p.payload 0 n
      let cmp := fieldAt p.payload 8 n
      let aop := p.arg % 16
      let s := s.countLine p.addr false
      let s := if aop = 3 ∧ old ≠ cmp then s
        else (s.writeLine p.addr (leBytes n (amoValue aop size old operand cmp))).2
      (s.countWrite p false).answer (l / 4) p ptAmoResp (leBytes 8 old) 0)

/-! ### Closing writes (R595) -/

/-- CLOSE_WR: a closing write arrives and is held; one whose stream has a refused write under its CIDX is discarded, and so
is a ninth held one (R446, R595, R608). -/
def execCloseWr (l : Nat) (p : Packet) (s : State) : Result :=
  .next (s.arrive l p ptCloseWr fun s =>
    let port := l / 4
    let len := p.payload.length
    let k := streamIx p
    if p.corrupt then (s.e2eFail l).nak port p nakCheck 0 else
    if !closeOk p.addr len then s.violate port vBadAddress p else
    if p.arg = 0 ∨ 8 ≤ (s.stream p).held.length then s.violate port vBadClose p else
    match s.admitNak port p with
    | some c => s.nak port p c 0
    | none =>
      if s.streamFull p then s.nak port p nakRxBusy 0 else
      match s.rangeNak p len true with
      | some c => (s.setStream ((s.stream p).closeOver k p.arg)).nak port p c 0
      | none =>
        let e := s.stream p
        let h : HeldClose := { packet := p, port := port, at_ := s.now }
        let s := s.setStream { e with held := e.held ++ [h] }
        if e.refused.contains k then s.discardClose h nakCloseFailed else s)

/-- The held closing write `k` of a stream. -/
def State.heldClose (s : State) (src n req k : Nat) : Option HeldClose :=
  match s.fab.streams.find? (fun e => e.src == src && e.chamber == n && e.requester == req) with
  | none => none
  | some e => e.held.find? (fun h => streamIx h.packet == k)

/-- The release record that a closing write leaves while DEBUG is 1 for the chamber (R445, R448). -/
def State.closeRecord (s : State) (p : Packet) : State :=
  if s.fget MMU_ORD_CTRL_DEBUG 0 p.chamber == 0 && s.fget MMU_ORD_CTRL_DEBUG 1 p.chamber == 0 then s else
  let r : RelRecord := { addr := p.addr / 64 * 64, scope := 3, core := streamReq p, device := p.src, chamber := p.chamber }
  { s with ms := { s.ms with records := r :: s.ms.records.filter (fun e => e.addr != r.addr) } }

/-- CLOSE_WR_PERFORM: closing write `k` of the stream of requester `req` of device `src` for chamber `n`: its counter equals
its COUNT and the one before it is over, and it is performed as one indivisible write (R587, R595). A condition of R588
that has failed meanwhile refuses it. -/
def execCloseWrPerform (src n req k : Nat) (s : State) : Result :=
  .next (match s.heldClose src n req k with
    | none => s
    | some h =>
      let p := h.packet
      let e := s.stream p
      if e.counters.getD k 0 ≠ p.arg ∨ e.closed ≠ k then s else
      match s.rangeNak p p.payload.length true with
      | some c => (s.setStream (e.closeOver k p.arg)).nak h.port p c 0
      | none =>
        let s := (((s.writeLine p.addr p.payload).2).closeRecord p).deliver
        (s.setStream (e.closeOver k p.arg)).answer h.port p ptWrAck [] 0)

/-- CLOSE_TIMEOUT: a closing write held for HOLD_US is discarded and answered CLOSE_TIMEOUT (R595). -/
def execCloseTimeout (src n req k : Nat) (s : State) : Result :=
  .next (match s.heldClose src n req k with
    | none => s
    | some h =>
      if s.now < h.at_ + 1000 * max 1 (s.fget LNK_CLOSE_CTRL_HOLD_US) then s else s.discardClose h nakCloseTimeout)

/-! ### Rows and markers (R332, R333) -/

/-- ROW: a dispatched row arrives; it lands in its expert's next free slot, or is dropped with a notice (R332, R335,
R588). -/
def execRow (l : Nat) (p : Packet) (s : State) : Result :=
  .next (s.arrive l p ptRow fun s =>
    let port := l / 4
    if p.corrupt then (s.e2eFail l).nak port p nakCheck 0 else
    match s.admitNak port p with
    | some c => s.nak port p c 0
    | none =>
      match s.landRow (port / 8) p.chamber p.payload with
      | (.error c, s) => s.nak port p c 0
      | (.ok true, s) => s.answer port p ptRowDrop (p.payload.take 64) 0
      | (.ok false, s) => s)

/-- ROW_END: an end marker arrives and is noted with its round (R329, R333, R588). -/
def execRowEnd (l : Nat) (p : Packet) (s : State) : Result :=
  .next (s.arrive l p ptRowEnd fun s =>
    let port := l / 4
    if p.corrupt then (s.e2eFail l).nak port p nakCheck 0 else
    match s.admitNak port p with
    | some c => s.nak port p c 0
    | none =>
      match s.landMark p.chamber p.src p.payload with
      | (some c, s) => s.nak port p c 0
      | (none, s) => s)

end Sys2Proof.Machine
end

