-- ==== Sys2Proof/Machine/Source.lean ====
section
/-! DEFINITION. Answers at the source of a request: data, acknowledgements, drop notices, results and NAKs, retries, and the
forwarding of packets for other devices (R501, R591 to R594, R597). -/

namespace Sys2Proof.Machine

/-! ### Which request an answer ends -/

/-- Whether an answer's queue and epoch are current (R501). -/
def State.currentAnswer (s : State) (p : Packet) : Bool :=
  p.queue == 0xFFFF || (s.queueState p.queue == qActive && s.fget GFE_Q_STATE_EPOCH p.queue == p.qepoch)

/-- The gallery that an answer reaches: that of the requester its STREAM names. -/
def answerGallery (p : Packet) : Nat := galleryOfCode p.stream

/-- A request given up without its answer: its access is over, and its item may settle. -/
def State.abandon (s : State) (o : Owner) : State :=
  match o with
  | .op id => (s.dropOp id).sweep
  | .eng id => s.engAcked id
  | .copy k => s.settle k
  | .row _ _ _ _ => s
  | .mark _ _ _ => s
  | .cvu _ _ => s
  | .slot _ => s
  | .fetch _ => s
  | .command _ => s

/-- A stale answer goes to the sump of its gallery: it writes nothing, and its request is over (R501). -/
def State.swallow (s : State) (p : Packet) : State :=
  let g := answerGallery p
  let s := (s.bump LSQ_SUMP_SWALLOWED_COUNT 1 g).bump64 LSQ_SUMP_BYTES_LO_COUNT LSQ_SUMP_BYTES_HI_COUNT p.payload.length g
  match s.takeOut p.txn p.src with
  | (some o, s) => s.abandon o.owner
  | (none, s) => s

/-- The request `txn` to device `dst` changed by `f`. -/
def State.modOut (s : State) (txn dst : Nat) (f : Outstanding → Outstanding) : State :=
  { s with fab := { s.fab with outstanding := s.fab.outstanding.map (fun (x : Outstanding) =>
      if x.packet.txn == txn && x.packet.dst == dst then f x else x) } }

/-- A request is sent again once (R597); one that finds no route ends UNREACHABLE. -/
def State.resendOnce (s : State) (o : Outstanding) (f : Outstanding → Outstanding) : State :=
  match s.send o.packet with
  | (false, s) => s.requestFails o.packet.txn o.packet.dst nakUnreachable
  | (true, s) => s.modOut o.packet.txn o.packet.dst f

/-- An answer of type `type` to a request of one of the types `asks`: a stale one is swallowed, one that matches nothing is a
violation, one whose data fails its check has its request issued again once; otherwise `act` ends the request (R501,
R597, R608). -/
def State.answerTo (s : State) (l : Nat) (p : Packet) (asks : List Nat) (act : Outstanding → State → State) : State :=
  if !s.currentAnswer p then s.swallow p else
  match s.fab.outstanding.find? (fun o => o.packet.txn == p.txn && o.packet.dst == p.src && asks.contains o.packet.type) with
  | none => s.violate (l / 4) vUnsolicited p
  | some o =>
    if p.corrupt then
      let s := s.e2eFail l
      if o.resent then s.requestFails p.txn p.src nakCheck
      else s.resendOnce o (fun x => { x with resent := true })
    else act o (s.takeOut p.txn p.src).2

/-- A write answered as it should be: the access, the engine instruction or the copy that made it goes on (R438, R443). -/
def State.ownerDone (s : State) (o : Owner) (data : List Byte) : State :=
  match o with
  | .op id => s.remoteDone id data
  | _ => s.abandon o

/-- Whether what reads by `o` bring is still wanted: its instruction, copy, run, write, queue or command goes on. -/
def State.wants (s : State) (o : Owner) : Bool :=
  match o with
  | .op _ => true
  | .eng id => (s.engOp id).isSome
  | .copy k => match s.item k with | some i => i.ending.isNone | none => false
  | .row _ _ _ _ => false
  | .mark _ _ _ => false
  | .cvu g u => s.fget CVU_STATUS_STATE g u == 1
  | .slot g => (s.writeOf g).isSome
  | .fetch q => s.fetchable q
  | .command k => if k % 2 == 0 then s.fget GFE_QCMD_STATUS_STATE (k / 2) == 1 else s.fget GFE_GCMD_STATUS_STATE (k / 2) == 1

/-- A read answered: a strand's access ends with its data; anything else keeps them until it runs on (R443, R594). -/
def State.readDone (s : State) (x : Outstanding) (data : List Byte) : State :=
  match x.owner with
  | .op id => s.remoteDone id data
  | o => (if s.wants o then s.keepFetched x data else s).abandon o

/-- RD_RESP: a read's data returns (R594). -/
def execRdResp (l : Nat) (p : Packet) (s : State) : Result :=
  .next (s.arrive l p ptRdResp fun s =>
    s.answerTo l p [ptRdReq] fun o s => s.readDone o p.payload)

/-- WR_ACK: a write or a closing write is acknowledged (R594). -/
def execWrAck (l : Nat) (p : Packet) (s : State) : Result :=
  .next (s.arrive l p ptWrAck fun s =>
    s.answerTo l p [ptWr, ptCloseWr] fun o s => s.ownerDone o.owner [])

/-- AMO_RESP: an atomic's previous value returns (R586). -/
def execAmoResp (l : Nat) (p : Packet) (s : State) : Result :=
  .next (s.arrive l p ptAmoResp fun s =>
    s.answerTo l p [ptAmo] fun o s => s.ownerDone o.owner p.payload)

/-! ### Rows that come back (R335, R338, R343, R589) -/

/-- ROW_DROP: a drop notice arrives (R335). -/
def execRowDrop (l : Nat) (p : Packet) (s : State) : Result :=
  .next (s.arrive l p ptRowDrop fun s => if p.corrupt then s.e2eFail l else s.dropIn p.chamber p.payload)

/-- RESULT: a returned row arrives (R338, R339). -/
def execResult (l : Nat) (p : Packet) (s : State) : Result :=
  .next (s.arrive l p ptResult fun s => if p.corrupt then s.e2eFail l else s.resultIn p.chamber p.payload)

/-! ### NAKs (R333, R593, R594, R597) -/

/-- A NAK that reaches the exchange is recorded, and counted but for RX_BUSY (R350). -/
def State.countXceNak (s : State) (p : Packet) (cause : Nat) : State :=
  let x := answerGallery p / 8
  let s := s.wset XCE_NAK_LAST (p.src % 2 ^ 16 * 2 ^ 16 + cause) x p.chamber
  if cause = nakRxBusy then s else s.bump XCE_NAKS_COUNT 1 x p.chamber

/-- Whether the row or marker of a batch was refused before its end markers left: its row is not sent yet. -/
def State.unsend (s : State) (o : Owner) : State :=
  match o with
  | .row g e t k =>
    match s.batch g e with
    | some b => if b.marked then s else s.markSent g e t k false
    | none => s
  | _ => s

/-- NAK: RX_BUSY makes the request wait for its retry, the first CHECK has it sent again, every other cause is final (R593,
R594, R597). -/
def execNak (l : Nat) (p : Packet) (s : State) : Result :=
  .next (s.arrive l p ptNak fun s =>
    let cause := p.arg % 256
    let type := p.arg / 2 ^ 16 % 256
    let xce := type = ptRow ∨ type = ptRowEnd
    if !s.currentAnswer p then s.swallow p else
    if type = ptBarArrive then s.refuseArrivals (fun a => a.txn == some p.txn) cause else
    let s := if xce then s.countXceNak p cause else s
    match s.fab.outstanding.find? (fun o => o.packet.txn == p.txn && o.packet.dst == p.src) with
    | none => if xce then s else s.violate (l / 4) vUnsolicited p
    | some o =>
      if cause = nakRxBusy then
        let s := s.unsend o.owner
        s.modOut p.txn p.src (fun x => { x with busyAt := some s.now })
      else if cause = nakCheck ∧ o.resent = false then s.resendOnce o (fun x => { x with resent := true })
      else s.requestFails p.txn p.src cause)

/-- The item on whose behalf a request was made has reached its end, or the queue timeout of a row or marker has expired: it is tried
no more (R333, R594). -/
def State.overdue (s : State) (x : Outstanding) : Bool :=
  let excess := fun (k : ItemKey) => match s.item k with | some i => i.ending.isSome | none => true
  match x.owner with
  | .op id => match s.ms.ops.find? (fun (m : MemOp) => m.id == id) with | some m => excess m.item | none => true
  | .eng id => match s.engOp id with | some e => e.aborted || excess e.item | none => true
  | .row _ _ _ _ => x.expires.any (· ≤ s.now)
  | .mark _ _ _ => x.expires.any (· ≤ s.now)
  | _ => false

/-- A retry of a row or marker is counted (R333, R350). -/
def State.countRetry (s : State) (o : Outstanding) : State :=
  match o.owner with
  | .row g _ _ _ => s.bump XCE_RETRIES_COUNT 1 (g / 8) o.packet.chamber
  | .mark g _ _ => s.bump XCE_RETRIES_COUNT 1 (g / 8) o.packet.chamber
  | _ => s

/-- A row or marker that waits for a half of this device is tried again (R333). -/
def State.retryLocal (s : State) (o : Outstanding) : State :=
  let n := o.packet.chamber
  let again := fun (s : State) => s.modOut o.packet.txn o.packet.dst (fun x => { x with busyAt := some s.now })
  match o.owner with
  | .row g e t k =>
    match s.landRow (g / 8) n o.packet.payload with
    | (.error c, s) =>
      if c = nakRxBusy then again s else ((s.takeOut o.packet.txn o.packet.dst).2).exchangeNak g e c
    | (.ok dropped, s) =>
      (((s.takeOut o.packet.txn o.packet.dst).2).rowLooped (g / 8) n g e t k dropped o.packet.payload).sendMarks g e
  | .mark g e _ =>
    match s.landMark n s.deviceId o.packet.payload with
    | (some c, s) =>
      if c = nakRxBusy then again s else ((s.takeOut o.packet.txn o.packet.dst).2).exchangeNak g e c
    | (none, s) => (s.takeOut o.packet.txn o.packet.dst).2
  | _ => s

/-- RX_BUSY_RETRY: 2 µs after RX_BUSY the request `txn` to device `dst` is tried again, until its item ends or the queue timeout
expires (R333, R594). -/
def execRxBusyRetry (txn dst : Nat) (s : State) : Result :=
  .next (match s.fab.outstanding.find? (fun o => o.packet.txn == txn && o.packet.dst == dst) with
    | none => s
    | some o =>
      match o.busyAt with
      | none => s
      | some t =>
        if s.now < t + 2000 then s else
        if s.overdue o then ((s.takeOut txn dst).2).abandon o.owner else
        let s := s.countRetry o
        if dst = s.deviceId then s.retryLocal o else
        let s := s.resendOnce o (fun x => { x with busyAt := none })
        match o.owner with
        | .row g e t k => (s.markSent g e t k true).sendMarks g e
        | _ => s)

/-! ### Forwarding (R591, R592) -/

/-- A packet dropped on its way: counted, and answered when it is a VC0 request (R591, R592). -/
def State.hopDrop (s : State) (port : Nat) (p : Packet) : State :=
  let s := s.bump LNK_HOP_DROP_COUNT 1 port
  if vcOf p.type == some 0 then s.nak port p nakUnreachable 0 else s

/-- PACKET_FORWARD: a packet for another device arrives on lane `l` and leaves by its route, one hop less; over a DATELINE
port of arrival its deadlock class rises (R590 to R592). -/
def execPacketForward (l : Nat) (p : Packet) (s : State) : Result :=
  .next (
    let port := l / 4
    if 64 ≤ l ∨ s.fab.group.isNone = true ∨ p.dst = s.deviceId ∨ (vcOf p.type).isNone = true ∨ s.laneInService l = false ∨
        p.lseq ≠ (s.lane l).rxSeq then s else
    let s := s.acceptOn l p
    if s.fget LNK_PORT_STATUS_STATE port = 3 then s.bump LNK_DROPPED_COUNT 1 port else
    if p.hops = 0 then s.hopDrop port p else
    let vc2 := vcOf p.type == some 2
    let cls := p.dclass + (if s.fget LNK_PORT_CTRL_DATELINE port == 1 && !vc2 then 1 else 0)
    if 4 ≤ cls then s.hopDrop port p else
    let n := p.chamber % 16
    let refuse := fun (c : Nat) (s : State) => if vcOf p.type == some 0 then s.nak port p c 0 else s
    let q := { p with hops := p.hops - 1, flags := setBitsOf p.flags 3 2 cls }
    if !vc2 && !s.mayUsePort n port then refuse nakNoGroup s else
    match s.egress n p.dst vc2 with
    | some out => s.putOn out q
    | none => refuse (if (s.egress n p.dst true).isSome then nakNoGroup else nakUnreachable) s)

end Sys2Proof.Machine
end

