-- ==== Sys2Proof/Machine/Groups.lean ====
section
/-! DEFINITION. Groups: membership, the master, and group barriers (R602, R603, R605 to R607). -/

namespace Sys2Proof.Machine

def oneMs : Nat := 1_000_000

/-! ### The master (R602, R603) -/

/-- The master list; empty without a GROUP section (R89). -/
def State.masterList (s : State) : List Nat := match s.fab.group with | some g => g.masters | none => []

/-- A device is live in this device's view; this device always is. -/
def State.liveMember (s : State) (d : Nat) : Bool :=
  d == s.deviceId || s.fab.members.any (fun m => m.id == d && m.live)

/-- The current master's index and id. -/
def State.masterIdx (s : State) : Nat := s.fget LNK_GROUP_STATUS_MASTER_IDX
def State.masterId (s : State) : Nat := s.fget LNK_GROUP_MASTER_DEVICE
def State.formed (s : State) : Bool := s.fget LNK_GROUP_STATUS_FORMED == 1
def State.isMaster (s : State) : Bool := s.fget LNK_GROUP_STATUS_IS_MASTER == 1

/-- LNK_GROUP_LIVE (R613). -/
def State.refreshLiveCount (s : State) : State :=
  s.fset LNK_GROUP_LIVE_COUNT (s.fab.members.filter (fun m => m.live)).length

/-- What TBC_STATUS shows of mastership: a device in no group, or the master, is always LOCKED (R678, R693). -/
def State.refreshTbc (s : State) : State :=
  let free := s.fab.group.isNone || !s.formed || s.isMaster
  let s : State := { s with tbc := { good := 0, trim := 0, heldUntil := 0 } }
  let s := (s.fset TBC_STATUS_MASTER (b2n free)).fset TBC_STATUS_LOCKED (b2n free)
  let s := (s.fset TBC_STATUS_HOLDOVER 0).fset TBC_STATUS_HELD 0
  if free then (s.fset TBC_STATUS_HOPS 0).fset TBC_STATUS_SYNC_PORT 0 else s

/-- Entry `i` of the master list taken as the master. -/
def State.setMaster (s : State) (i : Nat) : State :=
  let d := s.masterList.getD i 0
  let s := (s.fset LNK_GROUP_STATUS_FORMED 1).fset LNK_GROUP_STATUS_MASTER_IDX i
  let s := (s.fset LNK_GROUP_STATUS_IS_MASTER (b2n (d == s.deviceId))).fset LNK_GROUP_MASTER_DEVICE d
  let s : State := { s with fab := { s.fab with masterHeard := s.now, lastSync := s.now } }
  s.refreshTbc

/-- A change of master: counted; every pending arrival of a group barrier is refused, and generations restart at 0 (R603,
R607). -/
def State.changeMaster (s : State) (i : Nat) : State :=
  let s := (s.setMaster i).bump LNK_GROUP_CHANGES_COUNT
  let group := s.inGroup
  let s : State := { s with fab := { s.fab with barriers := s.fab.barriers.filter (fun b => !group b.chamber) } }
  s.refuseArrivals (fun a => group a.chamber) nakBarrier

/-- This device joins the group of its GROUP section when its first port comes up; every member counts as live until it is
judged departed, and the first live device of the master list is the master (R602, R603). -/
def State.joinGroup (s : State) : State :=
  match s.fab.group with
  | none => s
  | some g =>
    if s.fab.joinedAt.isSome then s else
    let s : State := { s with fab := { s.fab with
      joinedAt := some s.now,
      members := g.members.map (fun m => { id := m.1, live := true, lastHeard := s.now, liveSince := s.now }) } }
    let s := s.refreshLiveCount
    match (List.range g.masters.length).find? (fun i => s.liveMember (g.masters.getD i 0)) with
    | some i => s.setMaster i
    | none => s

/-- SYNC, BAR_RELEASE or another packet of the master heard: one from a device earlier in the list than the own master has
this device adopt it (R603). False where the sender is no master. -/
def State.fromMaster (s : State) (src : Nat) : Bool × State :=
  if !s.formed then (false, s) else
  if src = s.masterId && !s.isMaster then (true, { s with fab := { s.fab with masterHeard := s.now } }) else
  match (List.range s.masterIdx).find? (fun i => s.masterList.getD i 0 == src) with
  | some i => (true, s.changeMaster i)
  | none => (false, s)

/-! ### Group barriers (R606, R607) -/

/-- The barrier `id` of chamber `n` as its counter has it; generations start at 0 (R607). -/
def State.barrierOf (s : State) (n id : Nat) : Barrier :=
  (s.fab.barriers.find? (fun b => b.chamber == n && b.id == id)).getD
    { chamber := n, id := id, generation := 0, parties := 0, arrived := 0, from_ := [] }

def State.setBarrier (s : State) (b : Barrier) : State :=
  { s with fab := { s.fab with barriers := b :: s.fab.barriers.filter (fun x => !(x.chamber == b.chamber && x.id == b.id)) } }

/-- A generation is complete for this device: its waiting strands receive the generation and go on, an acquire at group
scope (R606, R607). -/
def State.completeBarrier (s : State) (n id gen : Nat) : State :=
  let mine := s.fab.arrivals.filter (fun a => a.chamber == n && a.id == id && (a.counted || a.txn.isSome))
  let s : State := { s with fab := { s.fab with arrivals := s.fab.arrivals.filter (fun a => !mine.contains a) } }
  mine.foldl (fun s (a : Arrival) =>
    let x := s.strand a.core a.strand
    match x.wait with
    | .barrier i rd =>
      if i == id && x.item == a.item then
        let x := x.setReg rd (BitVec.ofNat 32 gen)
        let s := s.setStrand a.core a.strand { x with mode := .ready, wait := .none, readyAt := s.tb, run := 0 }
        { s with ms := s.ms.acquire a.core 3 }
      else s
    | _ => s) s

/-- Arrivals counted at the master, or on this device for a chamber outside the group: false where PARTIES differs from the
generation's first arrival. When the count reaches PARTIES the generation is released to every device that contributed,
and the next one begins (R607). -/
def State.countArrivals (s : State) (n id dev parties count : Nat) : Bool × State :=
  let b := s.barrierOf n id
  if b.arrived ≠ 0 ∧ b.parties ≠ parties then (false, s) else
  let arrived := b.arrived + count
  let from_ := if b.from_.contains dev then b.from_ else b.from_ ++ [dev]
  if arrived < parties then
    (true, s.setBarrier { b with parties := parties, arrived := arrived, from_ := from_ })
  else
    let s := s.setBarrier { b with
      generation := (b.generation + 1) % 2 ^ 32, parties := 0, arrived := 0, from_ := [] }
    let release := fun (s : State) (d : Nat) =>
      if d = s.deviceId then s else
      (s.send { Packet.zero with
        type := ptBarRelease, chamber := n, dst := d, src := s.deviceId, addr := id, arg := b.generation }).2
    let s := if s.inGroup n then from_.foldl release s else s
    (true, s.completeBarrier n id b.generation)

/-- An earlier BAR_ARRIVE of the barrier has not yet been taken over by its link (R607). -/
def State.arriveInFlight (s : State) (n id : Nat) : Bool :=
  let mine := fun (p : Packet) => p.type == ptBarArrive && p.src == s.deviceId && p.chamber == n && p.addr == id
  s.fab.lanes.any (fun e => e.2.replay.any mine) || s.fab.txq.any (fun e => mine e.2)

/-- Arrivals that wait are sent to the master as one BAR_ARRIVE, once the earlier one is answered (R607). -/
def State.sendArrivals (s : State) (n id : Nat) : State :=
  let waiting := s.fab.arrivals.filter (fun a => a.chamber == n && a.id == id && a.txn.isNone && !a.counted)
  match waiting with
  | [] => s
  | a :: _ =>
    if s.arriveInFlight n id then s else
    let mine := waiting.filter (fun b => b.parties == a.parties)
    let txn := s.fab.txn
    let s : State := { s with fab := { s.fab with
      txn := (txn + 1) % 2 ^ 32,
      arrivals := s.fab.arrivals.map (fun (b : Arrival) => if mine.contains b then { b with txn := some txn } else b) } }
    let p : Packet := { Packet.zero with
      type := ptBarArrive, chamber := n, dst := s.masterId, src := s.deviceId, addr := id, length := 16, txn := txn,
      arg := a.parties,
      payload := leBytes 4 mine.length ++ leBytes 4 (s.barrierOf n id).generation ++ leBytes 8 0 }
    match s.formed, s.send p with
    | true, (true, s) => s
    | _, _ => s.refuseArrivals (fun b => b.txn == some txn) nakUnreachable

/-- Every barrier whose waiting arrivals can be sent now. -/
def State.sendAllArrivals (s : State) : State :=
  ((s.fab.arrivals.filter (fun a => a.txn.isNone && !a.counted)).map (fun a => (a.chamber, a.id))).eraseDups.foldl
    (fun s e => s.sendArrivals e.1 e.2) s

/-- MO_BAR: strand `t` of core `c` arrives at a barrier, a release at group scope, and waits for its generation (R606,
R607). -/
def execMoBar (c t : Nat) (s : State) : Result :=
  .next (s.issue c t (fun w => opcodeOf w == 0xA4) fun w x s =>
    if bitsOf w.toNat 49 0 ≠ 0 then s.failStrand c t cFormat 0 else
    s.needing c t (regMask (raOf w) ||| regMask (rdOf w)) (
      let v := (x.reg (raOf w)).toNat
      let id := v % 256
      let parties := v / 256
      let n := s.coreChamber c
      if parties = 0 then s.failStrand c t cFormat 0 else
      if s.ms.owes c t s.ms.nextId then
        s.stall c t .release
      else
        let s := s.advance c t x
        let s := s.setStrand c t { s.strand c t with mode := .waiting, wait := .barrier id (rdOf w), run := 0 }
        let here := !s.inGroup n || s.isMaster
        let a : Arrival := { chamber := n, id := id, parties := parties, core := c, strand := t, item := x.item,
                             txn := none, counted := here }
        let s : State := { s with fab := { s.fab with arrivals := s.fab.arrivals ++ [a] } }
        if here then
          match s.countArrivals n id s.deviceId parties 1 with
          | (true, s) => s
          | (false, s) => s.refuseArrivals (fun b => b == a) nakBarrier
        else s.sendArrivals n id))

/-- BAR_ARRIVE: the master counts a device's arrivals; it refuses those whose PARTIES differs, and a device that is not the
master refuses them (R607). -/
def execBarArrive (l : Nat) (p : Packet) (s : State) : Result :=
  .next (s.arrive l p ptBarArrive fun s =>
    let port := l / 4
    if !s.fab.members.any (fun m => m.id == p.src && m.live) then s.nak port p nakNotMember 0
    else if !s.inGroup p.chamber then s.nak port p nakNoGroup 0
    else if !s.isMaster then s.nak port p nakBarrier 0
    else
      match s.countArrivals p.chamber (p.addr % 256) p.src (p.arg % 2 ^ 24) (fieldAt p.payload 0 4) with
      | (true, s) => s
      | (false, s) => s.nak port p nakBarrier 0)

/-- BAR_RELEASE: the master has released a generation, and the strands of this device that wait for it go on (R603,
R607, R608). -/
def execBarRelease (l : Nat) (p : Packet) (s : State) : Result :=
  .next (s.arrive l p ptBarRelease fun s =>
    match s.fromMaster p.src with
    | (false, s) => s.violate (l / 4) vUnsolicited p
    | (true, s) =>
      let b := s.barrierOf p.chamber (p.addr % 256)
      (s.setBarrier { b with generation := (p.arg + 1) % 2 ^ 32 }).completeBarrier p.chamber (p.addr % 256) p.arg)

/-! ### Membership (R602, R605) -/

/-- Every request to a device ends UNREACHABLE (R602, R605). -/
def State.failTo (s : State) (p : Outstanding → Bool) (cause : Nat) : State :=
  (s.fab.outstanding.filter p).foldl (fun s (o : Outstanding) => s.requestFails o.packet.txn o.packet.dst cause) s

/-- A member's liveness as this device has it from now on; requests to a departed one end UNREACHABLE (R602). -/
def State.setLive (s : State) (d : Nat) (live : Bool) : State :=
  let s : State := { s with fab := { s.fab with members := s.fab.members.map (fun (m : Member) =>
    if m.id == d then { m with
      live := live, lastHeard := s.now, liveSince := if m.live then m.liveSince else s.now } else m) } }
  let s := s.refreshLiveCount
  if live then s else s.failTo (fun o => o.packet.dst == d) nakUnreachable

/-- A new view sent to every live member: its number and the range of changed members (R602). -/
def State.sendView (s : State) (d : Nat) : State :=
  let v := (s.fget LNK_GROUP_VIEW_VIEW + 1) % 2 ^ 32
  let s := s.fset LNK_GROUP_VIEW_VIEW v
  (s.fab.members.filter (fun m => m.live && m.id != s.deviceId)).foldl (fun s (m : Member) =>
    (s.send { Packet.zero with
      type := ptMember, dst := m.id, src := s.deviceId, length := 64, arg := 2,
      payload := slice (leBytes 4 v ++ leBytes 2 d ++ leBytes 2 d) 0 64 }).2) s

/-- MEMBER_HEARTBEAT: the master takes a member's heartbeat; a departed member is live again, in a new view (R602). -/
def execMemberHeartbeat (l : Nat) (p : Packet) (s : State) : Result :=
  .next (s.arrive l p ptMember fun s =>
    match s.fab.group with
    | none => s
    | some g =>
      if p.arg ≠ 1 ∨ s.isMaster = false ∨ fieldAt p.payload 0 4 ≠ g.groupId ∨ fieldAt p.payload 4 2 ≠ p.src then s else
      let was := s.liveMember p.src
      let s := s.setLive p.src true
      if was then s else s.sendView p.src)

/-- VIEW: a member applies a membership view with a number above the last one it applied; `changes` names the members that
the view changes and whether each is live (R602). -/
def execView (l : Nat) (p : Packet) (changes : List (Nat × Bool)) (s : State) : Result :=
  .next (s.arrive l p ptMember fun s =>
    let v := fieldAt p.payload 0 4
    if p.arg ≠ 2 then s else
    match s.fromMaster p.src with
    | (false, s) => s
    | (true, s) =>
      if v ≤ s.fget LNK_GROUP_VIEW_VIEW then s else
      changes.foldl (fun s e => s.setLive e.1 e.2) (s.fset LNK_GROUP_VIEW_VIEW v))

/-- LEAVE: a device leaves the group; the master gives the others a new view (R602, R605). -/
def execLeave (l : Nat) (p : Packet) (s : State) : Result :=
  .next (s.arrive l p ptMember fun s =>
    if p.arg ≠ 3 ∨ !s.fab.members.any (fun m => m.id == p.src && m.live) then s else
    let s := s.setLive p.src false
    if s.isMaster then s.sendView p.src else s)

/-- A MEMBER packet of this device to device `d`. -/
def State.sendMember (s : State) (d kind : Nat) : State :=
  match s.fab.group with
  | none => s
  | some g =>
    let ports := maskOf ((List.range 16).filter s.portUp)
    (s.send { Packet.zero with
      type := ptMember, dst := d, src := s.deviceId, length := 64, arg := kind,
      payload := slice (leBytes 4 g.groupId ++ leBytes 2 g.deviceId ++ leBytes 2 ports ++
        leBytes 4 (s.fget LNK_GROUP_VIEW_VIEW)) 0 64 }).2

/-- HEARTBEAT_SEND: every 1 ms the device sends its heartbeat to the master, unless it has FAILED (R602, R617). -/
def execHeartbeatSend (s : State) : Result :=
  .next (if s.formed = false ∨ s.isMaster = true ∨ s.now < s.fab.lastBeat + oneMs ∨ s.fget HLM_DEVICE_STATE = 2 then s else
    { s.sendMember s.masterId 1 with fab := { (s.sendMember s.masterId 1).fab with lastBeat := s.now } })

/-- MEMBER_DEPARTED: the master judges member `d` departed after 10 ms without a heartbeat, and sends the view (R602). -/
def execMemberDeparted (d : Nat) (s : State) : Result :=
  .next (match s.fab.members.find? (fun m => m.id == d && m.live) with
    | none => s
    | some m =>
      if s.isMaster = false ∨ d = s.deviceId ∨ s.now < m.lastHeard + 10 * oneMs then s
      else (s.setLive d false).sendView d)

/-- MASTER_LOST: the master has not been heard for 10 ms; the device moves to the next live device of the list (R603,
R611). -/
def execMasterLost (s : State) : Result :=
  .next (if s.formed = false ∨ s.isMaster = true ∨ s.now < s.fab.masterHeard + 10 * oneMs then s else
    let s := s.setLive s.masterId false
    let k := s.masterList.length
    let i := s.masterIdx
    match ((List.range k).map (fun j => (i + 1 + j) % max 1 k)).find? (fun j => s.liveMember (s.masterList.getD j 0)) with
    | some j => s.changeMaster j
    | none => s)

/-- MASTER_TAKEOVER: a device live for 1 s that stands earlier in the list than the master takes over (R603). -/
def execMasterTakeover (s : State) : Result :=
  .next (match s.fab.joinedAt with
    | none => s
    | some t =>
      if s.formed = false ∨ s.now < t + 1000 * oneMs then s else
      match (List.range s.masterIdx).find? (fun i => s.masterList.getD i 0 == s.deviceId) with
      | some i => s.changeMaster i
      | none => s)

end Sys2Proof.Machine
end

