-- ==== Sys2Proof/Machine/Links.lean ====
section
/-! DEFINITION. Lanes and LINK packets: training, credits, acknowledgement and replay, equalisation, violation windows and
isolation (R584, R598 to R601, R608, R609, R613). -/

namespace Sys2Proof.Machine

/-! ### Training (R584, R600, R601) -/

/-- A failed attempt: another follows after 10 ms; the third reports the lane and leaves it out of service (R584). -/
def State.trainFailed (s : State) (l : Nat) : State :=
  let x := s.lane l
  let x := { x with attempts := x.attempts + 1, locked := false, retryAt := s.now + 10 * oneMs }
  if x.attempts < 3 then s.setLane l x
  else ((s.setLane l { x with retryAt := 0 }).laneOut l 0).report (unitLane l) kLaneTrain

/-- Lane `l` is in training and not waiting for its next attempt. -/
def State.laneTraining (s : State) (l : Nat) : Bool :=
  l < 64 && s.fget LNK_LANE_STATUS_STATE (l / 4) (l % 4) == 1 && (s.lane l).retryAt == 0

/-- LANE_TRAIN: lane `l` finishes steps 1 to 3 of an attempt, well or not; the attempt counts in LINK_TRAININGS, and a lane
that has codeword lock sends its PARAM (R584, R599, R601, R638). -/
def execLaneTrain (l : Nat) (ok : Bool) (s : State) : Result :=
  .next (if s.laneTraining l = false ∨ (s.lane l).locked = true then s else
    let s : State := { s with hlm := { s.hlm with life := smPut (fun _ => 0) s.hlm.life 4 (smGet (fun _ => 0) s.hlm.life 4 + 1) } }
    if !ok then s.trainFailed l else
    let s := s.setLane l { s.lane l with locked := true }
    match s.fab.group with
    | none => s
    | some g =>
      s.sendLink (l / 4) 6 (leBytes 4 g.groupId ++ leBytes 2 g.deviceId ++ leBytes 1 (l / 4) ++ leBytes 1 (l % 4) ++
        leBytes 4 (s.fget SVY_ACTIVE_VER_VER) ++ leBytes 2 768 ++ leBytes 2 768 ++ leBytes 2 64))

/-- LANE_TRAIN_RETRY: 10 ms after a failed attempt the lane tries again from step 1 (R584). -/
def execLaneTrainRetry (l : Nat) (s : State) : Result :=
  .next (if 64 ≤ l ∨ s.fget LNK_LANE_STATUS_STATE (l / 4) (l % 4) ≠ 1 ∨ (s.lane l).retryAt = 0 ∨
      s.now < (s.lane l).retryAt then s else
    s.setLane l { s.lane l with retryAt := 0, locked := false })

/-- RETRAIN: LNK_LANE_CTRL.RETRAIN of lane `k` of port `p` written by the owner (R584, R613). -/
def execRetrain (r : Requester) (p k : Nat) (s : State) : Result :=
  .next (if s.owns r && p < 16 && k < 4 then s.trainLane (4 * p + k) else s)

/-- PARAM: the partner's PARAM arrives on a lane with codeword lock. The lane enters service when GROUP_ID, the partner's
membership and the port's ASSIGN agree, `assignOk` saying the last; in a test window the partner need not be a member.
Otherwise the attempt fails and is logged as GROUP_MISMATCH (R584, R599, R601, R602, R610). -/
def execParam (l : Nat) (p : Packet) (assignOk : Bool) (s : State) : Result :=
  .next (if s.laneTraining l = false ∨ (s.lane l).locked = false ∨ p.type ≠ ptLink ∨ p.arg ≠ 6 then s else
    let port := l / 4
    let s := s.bump64 LNK_RX_BYTES_LO_COUNT LNK_RX_BYTES_HI_COUNT p.wire port
    let partner := fieldAt p.payload 4 2
    let ok := match s.fab.group with
      | some g => fieldAt p.payload 0 4 == g.groupId && assignOk &&
          (g.members.any (fun m => m.1 == partner) || s.fget LNK_PORT_STATUS_TEST port == 1)
      | none => false
    if !ok then (s.violate port vGroupMismatch p).trainFailed l else
    let x := s.lane l
    let vc0 := fieldAt p.payload 0xC 2 / 4
    let vc1 := fieldAt p.payload 0xE 2 / 4
    let s := s.setLane l { x with
      attempts := 0, locked := false, txSeq := 0, rxSeq := 0, replay := [], replays := 0, eqAt := s.now,
      credits := List.replicate 4 vc0 ++ List.replicate 4 vc1 ++ [fieldAt p.payload 0x10 2] }
    let s := s.fset LNK_LANE_STATUS_STATE 2 port (l % 4)
    let s := s.fset LNK_PORT_STATUS_IN_SERVICE (s.fget LNK_PORT_STATUS_IN_SERVICE port ||| 2 ^ (l % 4)) port
    ((s.fset LNK_PORT_STATUS_PARTNER partner port).refreshPort port).joinGroup.flow)

/-! ### LINK packets (R599) -/

/-- A LINK packet of a subtype arrives on a lane in service; it is not sequenced and passes on an isolated port too (R599,
R609). -/
def State.arriveLink (s : State) (l : Nat) (p : Packet) (subtype : Nat) (act : State → State) : State :=
  if 64 ≤ l ∨ p.type ≠ ptLink ∨ p.arg ≠ subtype ∨ s.laneInService l = false then s else
  let s := s.bump64 LNK_RX_BYTES_LO_COUNT LNK_RX_BYTES_HI_COUNT p.wire (l / 4)
  match p.malformed with
  | some v => s.violate (l / 4) v p
  | none => act s

/-- CREDIT: blocks return to the lane's credits, and packets that wait for them go (R599). -/
def execCredit (l : Nat) (p : Packet) (s : State) : Result :=
  .next (s.arriveLink l p 1 fun s =>
    let x := s.lane l
    let s := s.setLane l { x with
      credits := (List.range 9).map (fun i => x.credits.getD i 0 + fieldAt p.payload (2 * i) 2) }
    s.flow)

/-- The replay buffer without the packets up to `k`, if it holds `k`. -/
def ackedUpTo (k : Nat) (l : List Packet) : List Packet :=
  if l.any (fun p => p.lseq == k) then (l.dropWhile (fun p => p.lseq != k)).drop 1 else l

/-- ACK: the packets accepted in order leave the replay buffer (R598). -/
def execAck (l : Nat) (p : Packet) (s : State) : Result :=
  .next (s.arriveLink l p 2 fun s =>
    let x := s.lane l
    let rest := ackedUpTo (fieldAt p.payload 0 2) x.replay
    (s.setLane l { x with
      replay := rest, replays := if rest.length == x.replay.length then x.replays else 0 }).sendAllArrivals)

/-- REPLAY_REQ: the packets from the one named are sent again; the eighth replay of one packet retrains the lane, whose
packets go over the others (R598). -/
def execReplayReq (l : Nat) (p : Packet) (s : State) : Result :=
  .next (s.arriveLink l p 3 fun s =>
    let x := s.lane l
    let again := x.replay.dropWhile (fun q => q.lseq != fieldAt p.payload 0 2)
    match again with
    | [] => s
    | _ =>
      let times := if again.length == x.replay.length then x.replays + 1 else 1
      let s := s.setLane l { x with replay := again, replays := times }
      if 8 < times then s.trainLane l else
      again.foldl (fun s (q : Packet) =>
        ((s.bump64 LNK_TX_BYTES_LO_COUNT LNK_TX_BYTES_HI_COUNT q.wire (l / 4)).bump LNK_REPLAY_COUNT 1 (l / 4)).emit
          (.packet (l / 4) q)) s)

/-- EQ_REQ: the partner asks for a step of a transmitter tap; the change applies at a codeword that EQ_RSP names, which one
being open (R599, R600). -/
def execEqReq (l : Nat) (p : Packet) (s : State) : Result :=
  .next (s.arriveLink l p 4 fun s =>
    let x := s.lane l
    let tap := fieldAt p.payload 0 1
    let old := smGet (fun _ => 0) x.taps tap
    let value := ofSigned 16 ((toSigned 16 old) + toSigned 8 (fieldAt p.payload 1 1))
    let s := s.setLane l { x with taps := smPut (fun _ => 0) x.taps tap value }
    let (at_, s) := s.draw (2 ^ 32)
    s.sendLink (l / 4) 5 (leBytes 1 tap ++ leBytes 2 value ++ leBytes 4 at_))

/-- EQ_RSP: the partner names the codeword at which a change that this device asked for applies; nothing else follows from it
(R599, R600). -/
def execEqRsp (l : Nat) (p : Packet) (s : State) : Result := .next (s.arriveLink l p 5 (fun s => s))

/-- EQ_UPDATE: every 1 ms the receiver of lane `l` reads its margins and its symbol errors, adjusts its equalisation, and may
ask the partner for a step of a tap; a margin below 1/16 UI is reported (R600, R613). -/
def execEqUpdate (l eyeH eyeV symErr corrected : Nat) (ask : Option (Nat × Nat)) (s : State) : Result :=
  .next (if 64 ≤ l ∨ s.laneInService l = false ∨ s.now < (s.lane l).eqAt + oneMs then s else
    let (p, k) := (l / 4, l % 4)
    let s := s.setLane l { s.lane l with eqAt := s.now }
    let s := (s.fset LNK_LANE_STATUS_EYE_H (saturate 0xFF eyeH) p k).fset LNK_LANE_STATUS_EYE_V (saturate 0xFF eyeV) p k
    let s := (s.bump LNK_LANE_SYMERR_COUNT symErr p k).bump LNK_LANE_EQ_COUNT 1 p k
    let s := s.bump LNK_FEC_CORR_COUNT corrected p
    let s := match ask with
      | some (tap, step) => s.sendLink p 4 (leBytes 1 tap ++ leBytes 1 step)
      | none => s
    if eyeH < 16 then (s.report (unitLane l) kLaneMargin).flow else s)

/-! ### Violations and errors (R598, R600, R608, R609) -/

/-- LNK_VIOL_WINDOW_END: the violation window of port `p` ends, and its count restarts (R609). -/
def execLnkViolWindowEnd (p : Nat) (s : State) : Result :=
  .next (if 16 ≤ p then s else
    let (_, start) := s.violWindow p
    if s.now < start + oneMs * max 1 (s.fget LNK_VIOL_CTRL_WINDOW_MS p) then s else s.setWindow p 0 s.now)

/-- The isolation of port `p`, if it is isolated, ended (R609). -/
def State.reenableLink (s : State) (p : Nat) : State :=
  if s.fget LNK_PORT_STATUS_STATE p == 3 then
    (((s.fset LNK_PORT_STATUS_STATE 0 p).refreshPort p).setWindow p 0 s.now).flow
  else s

/-- LNK_REENABLE: the owner ends the isolation of port `p` (R609, R613). -/
def execLnkReenable (r : Requester) (p : Nat) (s : State) : Result :=
  .next (if s.owns r && p < 16 then s.reenableLink p else s)

/-- BAD_OR_OUT_OF_ORDER_PACKET: a packet with a bad LCRC, or one that is not next in sequence, arrives on lane `l`: the
receiver asks for a replay from the first packet it has not accepted; an LSEQ outside the window of 512 packets is a
violation (R598, R608). -/
def execBadOrOutOfOrderPacket (l : Nat) (p : Packet) (bad : Bool) (s : State) : Result :=
  .next (if 64 ≤ l ∨ s.laneInService l = false ∨ (bad = false ∧ p.lseq = (s.lane l).rxSeq) then s else
    let want := (s.lane l).rxSeq
    let ahead := (p.lseq + 0x1_0000 - want) % 0x1_0000
    if !bad && 512 ≤ ahead && ahead ≤ 0x1_0000 - 512 then s.violate (l / 4) vBadSeq p
    else s.sendLink (l / 4) 3 (leBytes 2 want))

/-- UNKNOWN_PACKET_TYPE: a packet of a TYPE that R586 does not list arrives in order: a MALFORMED violation (R608). -/
def execUnknownPacketType (l : Nat) (p : Packet) (s : State) : Result :=
  .next (if 64 ≤ l ∨ s.laneInService l = false ∨ p.lseq ≠ (s.lane l).rxSeq ∨ p.type = ptLink ∨ (vcOf p.type).isSome = true then s
    else
      let s := s.acceptOn l p
      if s.fget LNK_PORT_STATUS_STATE (l / 4) = 3 then s.bump LNK_DROPPED_COUNT 1 (l / 4)
      else s.violate (l / 4) vMalformed p)

/-- UNCORRECTABLE_CODEWORD: counted and reported against the lane (R600, R613). -/
def execUncorrectableCodeword (l : Nat) (s : State) : Result :=
  .next (if 64 ≤ l ∨ s.laneInService l = false then s else
    ((s.bump LNK_FEC_UNCORR_COUNT 1 (l / 4)).report (unitLane l) kLaneFec).flow)

end Sys2Proof.Machine
end

