-- ==== Sys2Proof/Machine/PowerBase.lean ====
section
/-! DEFINITION. The factory margin table, rate targets, and what stops the device (R658, R659, R663, R668). -/

namespace Sys2Proof.Machine

/-! ### Periodic actions -/

/-- Whether `ns` have passed since periodic action `k` last ran. -/
def State.elapsed (s : State) (k ns : Nat) : Bool :=
  match s.pwr.timers.find? (fun e => e.1 == k) with
  | some e => e.2 + ns ≤ s.now
  | none => true

/-- Periodic action `k` runs now. -/
def State.mark (s : State) (k : Nat) : State :=
  { s with pwr := { s.pwr with timers := (k, s.now) :: s.pwr.timers.filter (fun e => e.1 != k) } }

/-- A condition `k` that lasts while `on`: since when it has. -/
def State.lasting (s : State) (k : Nat) (on : Bool) : Option Nat × State :=
  if !on then (none, { s with pwr := { s.pwr with timers := s.pwr.timers.filter (fun e => e.1 != k) } }) else
  match s.pwr.timers.find? (fun e => e.1 == k) with
  | some e => (some e.2, s)
  | none => (some s.now, s.mark k)

/-! ### The factory margin table (R658, R659) -/

/-- The check of the margin table holds. -/
def marginOk (m : List Byte) : Bool := m.length == 480 && crc32c (m.take 476) == fieldAt m 476 4

/-- The rate points of the table, in kHz. -/
def ratePoints : List Nat := [1_100_000, 1_450_000, 1_800_000, 2_120_000, 2_400_000, 2_660_000, 2_900_000]

/-- Voltage at 70 °C in 0.1 mV, and slope in 0.1 mV/°C, of entry `k` of a domain's row. -/
def marginEntry (m : List Byte) (d k : Nat) : Int × Int :=
  let o := 28 * d + 4 * k
  (10 * (fieldAt m o 2 : Int), toSigned 16 (fieldAt m (o + 2) 2))

/-- A linear interpolation between two points, to the nearest unit. -/
def between (x x0 x1 : Nat) (y0 y1 : Int) : Int :=
  if x1 ≤ x0 then y0 else
  let n := (x1 - x0 : Int)
  y0 + ((y1 - y0) * (x - x0 : Int) * 2 + n) / (2 * n)

/-- The table voltage of a domain for a rate in kHz at a temperature in °C, in 0.1 mV: linear between the points, corrected by
the slope; past the ends of the table, the end point; 0.85 V where the table's check fails (R659). -/
def tableVoltage (m : List Byte) (d khz temp : Nat) : Nat :=
  if !marginOk m then 8500 else
  let i := ((List.range 6).filter (fun k => ratePoints.getD k 0 ≤ khz)).getLast?.getD 0
  let x := min (max khz 1_100_000) 2_900_000
  let (x0, x1) := (ratePoints.getD i 0, ratePoints.getD (i + 1) 0)
  let (v0, t0) := marginEntry m d i
  let (v1, t1) := marginEntry m d (i + 1)
  (between x x0 x1 v0 v1 + between x x0 x1 t0 t1 * ((temp : Int) - 70)).toNat

/-- The temperature of a domain's hottest sensor (R674). -/
def State.domainTemp (s : State) (d : Nat) : Nat := s.fget PWR_DOM_TEMP_TEMP_C d

/-- A domain's table voltage for a rate at its present temperature. -/
def State.tableAt (s : State) (d khz : Nat) : Nat := tableVoltage s.pwr.margin d khz (s.domainTemp d)

/-- The target limited to 0.55 to 0.85 V (R660). -/
def limitTarget (v : Int) : Nat := if v < 5500 then 5500 else if 8500 < v then 8500 else v.toNat

/-- The learned offset of a domain: its target less the table voltage for its rate, or for the rate it is rising to, in 0.1 mV
(R662, R663). -/
def State.learned (s : State) (d : Nat) : Int :=
  let x := s.domain d
  (x.target : Int) - s.tableAt d (x.rise.getD x.rate)

/-! ### Rate targets (R663, R674) -/

/-- The ceiling of chamber `n`'s rate targets in kHz: LOCK_MHZ; or 2,400 MHz, and 2,900 with BOOST set and no domain above 90 °C;
in early service, the EARLY section's RATE_MHZ (R91, R656, R665). -/
def State.rateCeiling (s : State) (n : Nat) : Nat :=
  let c := s.chamber n
  if c.kind == 1 || s.fget PWR_STATUS_EARLY == 1 then 1000 * c.lockMhz
  else if s.fget PWR_CTRL_BOOST == 1 && (s.galleriesOf n).all (fun g => s.domainTemp g ≤ 90) then 2_900_000 else 2_400_000

/-- What PWR_CHn_POWER and GFE_SCH_POWER show of the chamber's rate targets (R572, R674). -/
def State.refreshChamberPower (s : State) (n : Nat) : State :=
  let gs := s.galleriesOf n
  let rates := gs.map (fun g => (s.domain g).rate)
  let short := (s.chamber n).kind == 1 && gs.any (fun g =>
    s.fget PWR_RATE_G_VALID g == 1 && 100 * s.fget PWR_RATE_G_RATE_MHZ g < 99 * (s.chamber n).lockMhz)
  let capped := b2n (short || gs.any (fun g => (s.domain g).capped))
  let s := (s.fset PWR_CH_POWER_CAPPED capped n).fset GFE_SCH_POWER_CAPPED capped n
  let s := s.fset PWR_CH_POWER_THROTTLED (b2n (gs.any (fun g => (s.domain g).throttled))) n
  let s := s.fset PWR_CH_POWER_RATE_MHZ ((argMin id rates).getD 0 / 1000) n
  s.fset PWR_STATUS_THROTTLE (b2n (s.pwr.domains.any (fun x => x.throttled)))

/-- A domain's rate target set: a rise raises the voltage first and waits for the regulator; a fall lowers the rate first. The
learned offset is kept (R663). -/
def State.setRate (s : State) (d khz : Nat) : State :=
  let x := s.domain d
  let v := limitTarget ((s.tableAt d khz : Int) + s.learned d)
  if khz = x.rate then (s.setDomain d { x with rise := none, target := v }).refreshDomain d
  else if x.rate < khz then (s.setDomain d { x with rise := some khz, target := v }).refreshDomain d
  else (s.setDomain d { x with rate := khz, rise := none, target := v }).refreshDomain d

/-- A domain placed at a rate at once, at its table voltage for `volts` kHz. -/
def State.placeRate (s : State) (d khz volts : Nat) : State :=
  (s.setDomain d { s.domain d with rate := khz, rise := none, target := limitTarget (s.tableAt d volts) }).refreshDomain d

/-- The rate targets of a sealed chamber go to its lock (R91). -/
def State.lockRates (s : State) (n : Nat) : State :=
  if (s.chamber n).kind ≠ 1 then s else
  ((s.galleriesOf n).foldl (fun s g => s.setRate g (1000 * (s.chamber n).lockMhz)) s).refreshChamberPower n

/-! ### Self refresh (R379, R409) -/

/-- A trained stack that no chamber holds is in self refresh. -/
def State.refreshSleep (s : State) : State :=
  (List.range 16).foldl (fun s st =>
    if s.fget HBC_STATUS_TRAINED st == 0 then s else
    s.fset HBC_STATUS_LOW_POWER (b2n (!s.chambers.any (fun c => c.kind != 0 && bitOf c.stackMask st))) st) s

/-! ### What stops the device (R668) -/

/-- A trip: issue stops on every core, the stacks enter self refresh, THERMTRIP_N is asserted and the cause goes to flash
(R668). -/
def State.tripNow (s : State) (cause : Nat) : State :=
  if s.pwr.halted then s else
  let s : State := { s with
    pwr := { s.pwr with halted := true, trip := cause }
    pins := { s.pins with thermtripN := false } }
  ((List.range 16).foldl (fun s st => s.fset HBC_STATUS_LOW_POWER 1 st) s).noteBoard

end Sys2Proof.Machine
end

