-- ==== Sys2Proof/Machine/Sha.lean ====
section
/-! DEFINITION. The digests that the spec names by their standards: SHA-384 (R70, R100) and HMAC-SHA-256 (R464), after
FIPS 180-4 and FIPS 198-1 (log entry 8). -/

namespace Sys2Proof.Machine

/-- The primes below 410: the eighty that FIPS 180-4 takes its constants from. -/
def shaPrimes : List Nat := (List.range 410).filter (fun n => 2 ≤ n && (List.range n).all (fun d => d < 2 || n % d != 0))

/-- The greatest `r` with `f r ≤ x`, for a rising `f`, with `r` below `2 ^ bits`. -/
def rootBy (f : Nat → Nat) (x : Nat) : Nat → Nat → Nat
  | 0, r => r
  | b + 1, r => rootBy f x b (if f (r + 2 ^ b) ≤ x then r + 2 ^ b else r)

/-- The first `w` bits of the fractional part of the cube root of `p`. -/
def cubeFrac (w p : Nat) : Nat := rootBy (fun r => r * r * r) (p * 2 ^ (3 * w)) (w + 4) 0 % 2 ^ w

/-- The first `w` bits of the fractional part of the square root of `p`. -/
def squareFrac (w p : Nat) : Nat := rootBy (fun r => r * r) (p * 2 ^ (2 * w)) (w + 5) 0 % 2 ^ w

/-- The parameters of a SHA-2 function: word width, round constants, initial value, and the rotations of its four
functions, the last of the two small ones a shift. -/
structure Sha where
  w : Nat
  ks : List Nat
  init : List Nat
  big0 : Nat × Nat × Nat
  big1 : Nat × Nat × Nat
  small0 : Nat × Nat × Nat
  small1 : Nat × Nat × Nat
  out : Nat

def sha256Par : Sha :=
  { w := 32, ks := (shaPrimes.take 64).map (cubeFrac 32), init := (shaPrimes.take 8).map (squareFrac 32),
    big0 := (2, 13, 22), big1 := (6, 11, 25), small0 := (7, 18, 3), small1 := (17, 19, 10), out := 8 }

def sha384Par : Sha :=
  { w := 64, ks := shaPrimes.map (cubeFrac 64), init := ((shaPrimes.drop 8).take 8).map (squareFrac 64),
    big0 := (28, 34, 39), big1 := (14, 18, 41), small0 := (1, 8, 7), small1 := (19, 61, 6), out := 6 }

/-- `x` of `w` bits rotated right by `n`. -/
def rotr (w n x : Nat) : Nat := (x >>> n) ||| (x <<< (w - n)) % 2 ^ w

def Sha.big (h : Sha) (r : Nat × Nat × Nat) (x : Nat) : Nat := rotr h.w r.1 x ^^^ rotr h.w r.2.1 x ^^^ rotr h.w r.2.2 x
def Sha.small (h : Sha) (r : Nat × Nat × Nat) (x : Nat) : Nat := rotr h.w r.1 x ^^^ rotr h.w r.2.1 x ^^^ (x >>> r.2.2)

/-- The message schedule, newest word first, extended by `n` words. -/
def Sha.schedule (h : Sha) : Nat → List Nat → List Nat
  | 0, ws => ws
  | n + 1, ws =>
    let t := fun i => ws.getD i 0
    h.schedule n ((h.small h.small1 (t 1) + t 6 + h.small h.small0 (t 14) + t 15) % 2 ^ h.w :: ws)

/-- One round on the eight working words. -/
def Sha.round (h : Sha) (v : List Nat) (kw : Nat × Nat) : List Nat :=
  match v with
  | [a, b, c, d, e, f, g, x] =>
    let ch := (e &&& f) ^^^ ((2 ^ h.w - 1 - e) &&& g)
    let maj := (a &&& b) ^^^ (a &&& c) ^^^ (b &&& c)
    let t1 := x + h.big h.big1 e + ch + kw.1 + kw.2
    [(t1 + h.big h.big0 a + maj) % 2 ^ h.w, a, b, c, (d + t1) % 2 ^ h.w, e, f, g]
  | _ => v

/-- One block taken into the chaining value. -/
def Sha.block (h : Sha) (v ws : List Nat) : List Nat :=
  let sched := (h.schedule (h.ks.length - 16) ws.reverse).reverse
  (List.zipWith (fun a b => (a + b) % 2 ^ h.w) v ((h.ks.zip sched).foldl h.round v))

/-- A big-endian number. -/
def beVal (bs : List Byte) : Nat := bs.foldl (fun v b => 256 * v + b.toNat) 0

def beBytes (n v : Nat) : List Byte := (leBytes n v).reverse

/-- `n` words of `k` bytes each, big-endian. -/
def beWords (k : Nat) : Nat → List Byte → List Nat
  | 0, _ => []
  | n + 1, bs => beVal (bs.take k) :: beWords k n (bs.drop k)

/-- The message padded to whole blocks. -/
def Sha.pad (h : Sha) (bs : List Byte) : List Byte :=
  let block := 2 * h.w
  let tail := h.w / 4
  let zeros := (block - (bs.length + 1 + tail) % block) % block
  bs ++ 0x80#8 :: (List.replicate zeros 0#8 ++ beBytes tail (8 * bs.length))

def Sha.blocks (h : Sha) : Nat → List Nat → List Byte → List Nat
  | 0, v, _ => v
  | n + 1, v, bs => h.blocks n (h.block v (beWords (h.w / 8) 16 bs)) (bs.drop (2 * h.w))

/-- The digest of a message. -/
def Sha.digest (h : Sha) (bs : List Byte) : List Byte :=
  let p := h.pad bs
  ((h.blocks (p.length / (2 * h.w)) h.init p).take h.out).flatMap (beBytes (h.w / 8))

def sha384 (bs : List Byte) : List Byte := sha384Par.digest bs

def sha256 (bs : List Byte) : List Byte := sha256Par.digest bs

/-- HMAC-SHA-256 with a key of at most 64 bytes. -/
def hmac256 (key bs : List Byte) : List Byte :=
  let k := slice key 0 64
  let x := fun (v : Byte) => k.map (· ^^^ v)
  sha256 (x 0x5C#8 ++ sha256 (x 0x36#8 ++ bs))

/-- The bytes of an ASCII text. -/
def ascii (t : String) : List Byte := t.toList.map (fun c => BitVec.ofNat 8 c.toNat)

end Sys2Proof.Machine
end

