-- ==== Sys2Proof/Machine/Aes.lean ====
section
/-! DEFINITION. The cipher and the key derivation that the spec names by their standards: AES-256-GCM and HKDF-SHA-256 (R456, R465),
after FIPS 197, SP 800-38D and RFC 5869 (log entry 9). -/

namespace Sys2Proof.Machine

/-! ### HKDF-SHA-256 (R465) -/

/-- HKDF-Expand to 32 bytes, which is one block of HMAC-SHA-256. -/
def hkdfExpand (prk info : List Byte) : List Byte := hmac256 prk (info ++ [1#8])

/-! ### AES-256 -/

/-- A byte of AES's field times x. -/
def xtime (b : Byte) : Byte := if b.msb then (b <<< 1) ^^^ 0x1B#8 else b <<< 1

/-- A product in AES's field, `n` bits of the second factor left. -/
def aesMul : Nat → Byte → Byte → Byte
  | 0, _, _ => 0#8
  | n + 1, a, b => (if b.getLsbD 0 then a else 0#8) ^^^ aesMul n (xtime a) (b >>> 1)

/-- The inverse in AES's field, the 254th power; 0 for 0. -/
def aesInverse (b : Byte) : Byte :=
  let sq := fun (a : Byte) => aesMul 8 a a
  ((List.range 6).foldl (fun (e : Byte × Byte) _ => (sq e.1, aesMul 8 e.2 (sq e.1))) (sq b, sq b)).2

/-- The substitution of one byte: the inverse, then the affine map. -/
def aesSubOf (b : Byte) : Byte :=
  let v := aesInverse b
  v ^^^ v.rotateLeft 1 ^^^ v.rotateLeft 2 ^^^ v.rotateLeft 3 ^^^ v.rotateLeft 4 ^^^ 0x63#8

def aesTable : List Byte := (List.range 256).map (fun n => aesSubOf (BitVec.ofNat 8 n))

def aesSub (b : Byte) : Byte := aesTable.getD b.toNat 0#8

/-- Bytes combined place by place. -/
def xorBytes (a b : List Byte) : List Byte := List.zipWith (· ^^^ ·) a b

/-- `n` more words of the key schedule, newest first; `i` is the next word's number. -/
def aesExpand : Nat → Nat → Byte → List (List Byte) → List (List Byte)
  | 0, _, _, ws => ws
  | n + 1, i, rcon, ws =>
    let t := ws.headD []
    let u := if i % 8 = 0 then xorBytes ((t.drop 1 ++ t.take 1).map aesSub) [rcon, 0#8, 0#8, 0#8]
      else if i % 8 = 4 then t.map aesSub else t
    aesExpand n (i + 1) (if i % 8 = 0 then xtime rcon else rcon) (xorBytes (ws.getD 7 []) u :: ws)

/-- A list in pieces of `k` bytes. -/
def piecesOf (k : Nat) : Nat → List Byte → List (List Byte)
  | 0, _ => []
  | n + 1, bs => bs.take k :: piecesOf k n (bs.drop k)

/-- The fifteen round keys of a key of 32 bytes. -/
def aesKeys (key : List Byte) : List (List Byte) :=
  piecesOf 16 15 (aesExpand 52 8 1#8 (piecesOf 4 8 (slice key 0 32)).reverse).reverse.flatten

/-- Each row of the state, which stands column by column, shifted left by its number. -/
def aesShift (x : List Byte) : List Byte := (List.range 16).map (fun i => x.getD ((i + 4 * (i % 4)) % 16) 0#8)

/-- One column mixed. -/
def aesColumn (c : List Byte) : List Byte :=
  (List.range 4).map fun i =>
    let a := fun k => c.getD ((i + k) % 4) 0#8
    xtime (a 0) ^^^ xtime (a 1) ^^^ a 1 ^^^ a 2 ^^^ a 3

/-- One block of 16 bytes encrypted under the round keys. -/
def aesBlock (keys : List (List Byte)) (x : List Byte) : List Byte :=
  let first := xorBytes x (keys.headD [])
  let mid := ((keys.drop 1).take 13).foldl (fun x k =>
    xorBytes ((piecesOf 4 4 (aesShift (x.map aesSub))).flatMap aesColumn) k) first
  xorBytes (aesShift (mid.map aesSub)) (keys.getD 14 [])

/-! ### GCM -/

/-- A product in GCM's field, whose elements stand as big-endian numbers; `n` bits of the second factor are left. -/
def gcmMul : Nat → Nat → Nat → Nat → Nat
  | 0, _, _, z => z
  | n + 1, v, y, z =>
    gcmMul n (if v % 2 = 1 then (v / 2) ^^^ (0xE1 <<< 120) else v / 2) y (if bitOf y n then z ^^^ v else z)

/-- The hash of whole blocks under the hash key `h`. -/
def ghash (h : Nat) : Nat → Nat → List Byte → Nat
  | 0, y, _ => y
  | n + 1, y, bs => ghash h n (gcmMul 128 h (y ^^^ beVal (bs.take 16)) 0) (bs.drop 16)

/-- Bytes filled up with zeros to whole blocks. -/
def blockPad (bs : List Byte) : List Byte := bs ++ List.replicate ((16 - bs.length % 16) % 16) 0#8

/-- The key stream of a nonce of 12 bytes, `n` blocks of it from counter `i` on. -/
def gcmStream (keys : List (List Byte)) (nonce : List Byte) : Nat → Nat → List Byte
  | 0, _ => []
  | n + 1, i => aesBlock keys (nonce ++ beBytes 4 i) ++ gcmStream keys nonce n (i + 1)

/-- Bytes enciphered or deciphered: the key stream from counter 2 on added to them. -/
def gcmCrypt (key nonce bs : List Byte) : List Byte :=
  xorBytes bs (gcmStream (aesKeys key) nonce ((bs.length + 15) / 16) 2)

/-- The tag over additional data and ciphertext. -/
def gcmTag (key nonce aad bs : List Byte) : List Byte :=
  let keys := aesKeys key
  let h := beVal (aesBlock keys (List.replicate 16 0#8))
  let m := blockPad aad ++ blockPad bs ++ beBytes 8 (8 * aad.length) ++ beBytes 8 (8 * bs.length)
  xorBytes (beBytes 16 (ghash h (m.length / 16) 0 m)) (aesBlock keys (nonce ++ beBytes 4 1))

end Sys2Proof.Machine
end

