-- ==== Sys2Proof/Machine/MgBase.lean ====
section
/-! DEFINITION. The management queues: their items, their order, and their records (R537, R542). -/

namespace Sys2Proof.Machine

def MgQueue.empty : MgQueue := { items := [], tail := 0, done := 0 }

def mqSurvey : Nat := 0
def mqSecurity : Nat := 1
def mqHealth : Nat := 2
def mqTest : Nat := 3

def State.mgQueue (s : State) (n : Nat) : MgQueue := smGet (fun _ => MgQueue.empty) s.mgc n

/-- A management queue replaced; MGC_MQn_STATE shows its depth and its count (R542). -/
def State.setMgQueue (s : State) (n : Nat) (q : MgQueue) : State :=
  let s : State := { s with mgc := smPut (fun _ => MgQueue.empty) s.mgc n q }
  (s.fset MGC_MQ_STATE_DEPTH q.items.length n).fset MGC_MQ_STATE_DONE (q.done % 2 ^ 24) n

def MgItem.command (i : MgItem) : Nat := fieldAt i.line 0x10 1

/-- Byte `k` of ARG. -/
def MgItem.arg (i : MgItem) (k : Nat) : Nat := fieldAt i.line (0x11 + k) 1

/-- Whether an item names a command of its queue with an ARG in range and no byte set beyond those its command uses (R506,
R537). -/
def mgOk (n : Nat) (i : MgItem) : Bool :=
  let used : Option (Nat × Bool) := match n, i.command with
    | 0, 1 => some (0, false)
    | 1, 1 => some (0, false)
    | 2, 1 => some (1, true)
    | 2, 2 => some (0, false)
    | 3, 1 => some (3, true)
    | 3, 2 => some (1, true)
    | _, _ => none
  fieldAt i.line 0 1 == kindMgmt && fieldAt i.line 1 1 ≤ 1 &&
  match used with
  | some (k, unit) => zeroAt i.line (0x11 + k) (47 - k) && (!unit || i.arg 0 < 16)
  | none => false

/-- The record of an item written in MGC_MQn_REC, and counted (R518, R542). -/
def State.mgRecord (s : State) (n : Nat) (i : MgItem) (code cause : Nat) : State :=
  let r := recordBytes i.seq code cause 0 (fieldAt i.line 4 4) 0 s.tb 0 0 0
  let s := (List.range 8).foldl (fun s k => s.wset MGC_MQ_REC (fieldAt r (4 * k) 4) n k) s
  s.setMgQueue n { s.mgQueue n with done := (s.mgQueue n).done + 1 }

/-- Items at the front that name no command end 0x40 FORMAT_ERROR, in order. -/
def State.mgSkip (s : State) (n : Nat) : Nat → State
  | 0 => s
  | fuel + 1 =>
    match (s.mgQueue n).items with
    | i :: rest =>
      if i.begun || mgOk n i then s
      else ((s.setMgQueue n { s.mgQueue n with items := rest }).mgRecord n i cFormat 0).mgSkip n fuel
    | [] => s

/-- The item that runs in queue `n` ends, and the next one comes to the front (R537). -/
def State.mgEnd (s : State) (n code cause : Nat) : State :=
  match (s.mgQueue n).items with
  | i :: rest => ((s.setMgQueue n { s.mgQueue n with items := rest }).mgRecord n i code cause).mgSkip n 32
  | [] => s

/-- A 64-byte item posted by a session; a full queue refuses it (R537). -/
def State.mgPost (s : State) (n session : Nat) (line : List Byte) : State :=
  let q := s.mgQueue n
  let i : MgItem := { seq := q.tail % 2 ^ 32, session := session, line := line, begun := false }
  let q := { q with tail := q.tail + 1 }
  if 32 ≤ q.items.length then (s.setMgQueue n q).mgRecord n i cQueueFull 0
  else (s.setMgQueue n { q with items := q.items ++ [i] }).mgSkip n 33

/-- The command at the front of queue `n` that has not begun, if it is `command`. -/
def State.mgNext (s : State) (n command : Nat) : Option MgItem :=
  match (s.mgQueue n).items with
  | i :: _ => if !i.begun && i.command == command then some i else none
  | [] => none

/-- The item at the front of queue `n` has begun. -/
def State.mgBegin (s : State) (n : Nat) : State :=
  let q := s.mgQueue n
  s.setMgQueue n { q with items := match q.items with
    | i :: rest => { i with begun := true } :: rest
    | [] => [] }

/-- Whether the item at the front of queue `n` runs. -/
def State.mgRunning (s : State) (n : Nat) : Bool :=
  match (s.mgQueue n).items with
  | i :: _ => i.begun
  | [] => false

end Sys2Proof.Machine
end

