-- ==== Sys2Proof/Machine/Kv.lean ====
section
/-! DEFINITION. The sequence table and the key–value pool: what AT.SEQ does and its waits, the page allocator with its window tables,
and zeroisation of returned pages (R269 to R283, R306, R394, R555, R556). -/

namespace Sys2Proof.Machine

def kvStale : Nat := 1
def kvRange : Nat := 2
def kvGap : Nat := 3
def kvLayout : Nat := 4
def kvPageHeader : Nat := 5

/-! ### Sequences (R269, R270) -/

/-- A FREE entry that was never opened. -/
def Seq.none : Seq :=
  { state := 0, gen := 0, d := 0, kfmt := 0, vfmt := 0, layers := 0, hkv := 0, stripPages := 0, tpp := 0, length := 0,
    high := 0, max := 0, reserved := 0 }

def seqKey (n id : Nat) : Nat := 65536 * n + id

def State.seq (s : State) (n id : Nat) : Seq := smGet (fun _ => Seq.none) s.kv.seqs (seqKey n id)

def State.setSeq (s : State) (n id : Nat) (x : Seq) : State :=
  { s with kv := { s.kv with seqs := smPut (fun _ => Seq.none) s.kv.seqs (seqKey n id) x } }

/-- Entries of chamber `n` that are not FREE (R269, R309). -/
def State.openSeqs (s : State) (n : Nat) : Nat := (s.kv.seqs.filter (fun e => e.1 / 65536 == n && e.2.state != 0)).length

/-- References on a sequence: one for each AT.RUN or AT.APPEND entry of an item without a record (R306). -/
def State.seqRefs (s : State) (n id : Nat) : Nat := (s.items.map (fun i => i.seqRefs.count (seqKey n id))).sum

/-- The generation after a release (R269). -/
def nextSeqGen (g : Nat) : Nat := if (g + 1) % 2 ^ 32 = 0 then 1 else (g + 1) % 2 ^ 32

/-- Bytes per token of a strip; `ks` and `vs` are 1 for scaled formats (R275). -/
def tokenBytes (d kfmt vfmt : Nat) : Nat :=
  d * (elemBits kfmt + elemBits vfmt) / 8 + d / 32 * (b2n (elemBits kfmt < 16) + b2n (elemBits vfmt < 16)) + d / 8

/-- Tokens per page (R275). -/
def tokensPerPage (d kfmt vfmt : Nat) : Nat := 32 * (65_472 / (32 * tokenBytes d kfmt vfmt))

/-- The reachable context (R276). -/
def Seq.reach (q : Seq) : Nat := min (2 ^ 20) (q.stripPages * q.tpp)

/-- Virtual page of page `j` of strip `t` of sequence `id` (R275, R276). -/
def kvWindowPage : Nat := 0x0100_0000_0000
def Seq.vpage (q : Seq) (id t j : Nat) : Nat := kvWindowPage + id * 2 ^ 18 + t * q.stripPages + j

/-! ### The pool (R280 to R282, R309) -/

def State.poolTotal (s : State) (n : Nat) : Nat := (s.chamber n).kvGib * 16_384

def State.poolHeld (s : State) (n : Nat) : Nat := (s.kv.pages.filter (fun e => e.chamber == n)).length

def State.poolReserved (s : State) (n : Nat) : Nat :=
  ((s.kv.seqs.filter (fun e => e.1 / 65536 == n)).map (fun e => e.2.reserved)).sum

def State.poolZero (s : State) (n : Nat) : Nat := (s.kv.zeroing.filter (fun e => e.1 == n)).length

/-- Pages neither held, reserved nor awaiting zeroisation. -/
def State.poolFree (s : State) (n : Nat) : Nat := s.poolTotal n - s.poolHeld n - s.poolReserved n - s.poolZero n

/-- The first byte of the pool: the top KV_GIB GiB of the chamber's memory (R394). -/
def State.poolBase (s : State) (n : Nat) : Nat :=
  hbmBase n + (s.chamber n).memSize - (s.chamber n).kvGib * 0x4000_0000

/-- Bytes `[lo, hi)` of device memory zeroised, with valid error-correction codes (R106). -/
def State.zeroRange (s : State) (lo hi : Nat) : State :=
  let s := (s.ms.poison.filter (fun a => lo ≤ a && a < hi)).foldl (fun s a => s.setPoison a false) s
  let s := (List.range ((hi - lo) / 64)).foldl (fun s k => s.countLine (lo + 64 * k) true) s
  s.zeroBytes lo hi

/-- Page `p` of chamber `n` zeroised and given back to the free pages (R282). -/
def State.zeroPage (s : State) (n p : Nat) : State :=
  let s := s.zeroRange p (p + 0x1_0000)
  { s with kv := { s.kv with zeroing := s.kv.zeroing.filter (fun e => !(e.1 == n && e.2 == p)) } }

/-- Physical pages of the pool that hold nothing. -/
def State.barePages (s : State) (n : Nat) : List Nat :=
  ((List.range (s.poolTotal n)).map (fun k => s.poolBase n + 0x1_0000 * k)).filter (fun p =>
    !s.kv.pages.any (fun e => e.chamber == n && e.ppage == p) && !s.kv.zeroing.contains (n, p))

/-! ### Window tables (R280, R389, R390, R394, R395) -/

/-- The virtual bits that a table of each level indexes: its highest and its lowest (R389). -/
def levelBits (level : Nat) : Nat × Nat :=
  match level with
  | 0 => (56, 48)
  | 1 => (47, 39)
  | 2 => (38, 30)
  | 3 => (29, 21)
  | _ => (20, 16)

/-- Bytes of a table of each level (R389). -/
def tableBytes (level : Nat) : Nat := if level = 4 then 256 else 4096

/-- Which entry of `level`, counted over all tables of that level, serves a virtual page; and which table. -/
def entryIndex (level vpage : Nat) : Nat := vpage * 2 ^ 16 / 2 ^ (levelBits level).2
def tableIndex (level vpage : Nat) : Nat := vpage * 2 ^ 16 / 2 ^ ((levelBits level).1 + 1)

def State.windowTable (s : State) (n level index : Nat) : Option KvTable :=
  s.kv.tables.find? (fun t => t.chamber == n && t.level == level && t.index == index)

/-- Entry `i` of `level`: a writable leaf at level 4, else the next table; 0 where there is none (R390). -/
def State.windowEntry (s : State) (n level i : Nat) : Nat :=
  if level = 4 then
    match s.kv.pages.find? (fun e => e.chamber == n && e.vpage == i) with
    | some e => e.ppage + 0xD
    | none => 0
  else
    match s.windowTable n (level + 1) i with
    | some t => t.pa + 1
    | none => 0

/-- The line that holds entry `i` of `level`, written by the allocator as the tables now stand; nothing where that table is not there. -/
def State.writeEntry (s : State) (n level i : Nat) : Option MFault × State :=
  let per := tableBytes level / 8
  match s.windowTable n level (i / per) with
  | none => (none, s)
  | some t =>
    let pa := t.pa + i % per / 8 * 64
    match s.rights n pa true true with
    | some f => (some f, s)
    | none => (none, s.putLine pa ((List.range 8).flatMap (fun k => leBytes 8 (s.windowEntry n level (i / 8 * 8 + k)))))

/-- Where a new table of `level` goes: the lowest place of the window tables' area that is free. Tables of 4 KiB lie from its first byte,
those of 256 B in its last KV_GIB × 4 MiB (R394; log entry 114). -/
def State.tablePlace (s : State) (n level : Nat) : Option Nat :=
  let c := s.chamber n
  let base := s.poolBase n - c.windowTables
  let small := c.kvGib * 0x40_0000
  let (lo, room) := if level = 4 then (base + c.windowTables - small, small / 256) else (base, (c.windowTables - small) / 4096)
  ((List.range (min room (s.kv.tables.length + 1))).map (fun k => lo + tableBytes level * k)).find? (fun pa =>
    !s.kv.tables.any (fun t => t.chamber == n && t.pa == pa))

/-- How an allocation went on: done, or stopped for want of room, or with a fault. -/
inductive Drawn where
  | done
  | short
  | fault (f : MFault)
deriving DecidableEq, Repr

/-- The table of `level` that serves a virtual page made, unless it is there, and entered in the table above it. -/
def State.ensureTable (s : State) (n vpage level : Nat) : Drawn × State :=
  if (s.windowTable n level (tableIndex level vpage)).isSome then (.done, s) else
  match s.tablePlace n level with
  | none => (.short, s)
  | some pa =>
    let s := s.zeroRange pa (pa + tableBytes level)
    let s := { s with kv := { s.kv with tables := { chamber := n, level := level, index := tableIndex level vpage, pa := pa } :: s.kv.tables } }
    if level = 0 then (.done, s) else
    match s.writeEntry n (level - 1) (tableIndex level vpage) with
    | (some f, s) => (.fault f, s)
    | (none, s) => (.done, s)

/-- The tables of some levels, from the root down. -/
def State.ensureTables (s : State) (n vpage : Nat) : List Nat → Drawn × State
  | [] => (.done, s)
  | level :: l =>
    match s.ensureTable n vpage level with
    | (.done, s) => s.ensureTables n vpage l
    | r => r

/-- A page drawn and mapped at a virtual page; which one is open. Where every page that holds nothing is awaiting
zeroisation, one is zeroised first (R280 to R282). -/
def State.drawPage (s : State) (n vpage : Nat) : Drawn × State :=
  match s.ensureTables n vpage [0, 1, 2, 3, 4] with
  | (.done, s) =>
    let s := if (s.barePages n).isEmpty then
        match s.kv.zeroing.find? (fun e => e.1 == n) with
        | some (_, p) => s.zeroPage n p
        | none => s
      else s
    let l := s.barePages n
    let (k, s) := s.draw (max 1 l.length)
    match l[k]? with
    | none => (.short, s)
    | some p =>
      let s := { s with kv := { s.kv with pages := { chamber := n, vpage := vpage, ppage := p } :: s.kv.pages } }
      match s.writeEntry n 4 vpage with
      | (some f, s) => (.fault f, s)
      | (none, s) => (.done, s)
  | r => r

/-- A table that serves none of the pages left, given back: zeroised, and taken out of the table above it. -/
def State.dropTable (s : State) (t : KvTable) : State :=
  let s := s.zeroRange t.pa (t.pa + tableBytes t.level)
  if t.level = 0 then s else (s.writeEntry t.chamber (t.level - 1) t.index).2

/-- Pages of chamber `n` that satisfy `p` go back to the pool and await zeroisation; the allocator removes their translations, and the
tables that serve no page any more (R280, R282, R395). -/
def State.returnPages (s : State) (n : Nat) (p : KvPage → Bool) : State :=
  let gone := s.kv.pages.filter (fun e => e.chamber == n && p e)
  let kept := s.kv.pages.filter (fun e => !(e.chamber == n && p e))
  let serves := fun (t : KvTable) => t.chamber != n || kept.any (fun e => e.chamber == n && tableIndex t.level e.vpage == t.index)
  let bare := s.kv.tables.filter (fun t => !serves t)
  let mine := fun (g : Nat) => s.chamberOf g == some n
  let s := { s with
    kv := { s.kv with pages := kept, tables := s.kv.tables.filter serves, zeroing := s.kv.zeroing ++ gone.map (fun e => (n, e.ppage)) },
    ms := { s.ms with
      tlb := s.ms.tlb.filter (fun e => !(mine e.gallery && gone.any (fun g => g.vpage * 0x1_0000 == e.va)))
      upper := s.ms.upper.filter (fun e => !(mine e.gallery && bare.any (fun t => t.level == e.level + 1 && t.index == e.index))) } }
  bare.foldl State.dropTable (gone.foldl (fun s e => (s.writeEntry n 4 e.vpage).2) s)

/-- Whether a page belongs to sequence `id`. -/
def KvPage.ofSeq (e : KvPage) (id : Nat) : Bool := (e.vpage - kvWindowPage) / 2 ^ 18 == id

/-- Pages a sequence holds (R270). -/
def State.seqPages (s : State) (n id : Nat) : Nat :=
  (s.kv.pages.filter (fun e => e.chamber == n && e.ofSeq id)).length

/-- The first position of a page of the sequence (R276). -/
def Seq.firstPos (q : Seq) (e : KvPage) : Nat := (e.vpage - kvWindowPage) % 2 ^ 18 % q.stripPages * q.tpp

/-- POOL_PAGE_ZEROISED: the oldest returned page of chamber `n` becomes free (R282). -/
def execPoolPageZeroised (n : Nat) (s : State) : Result :=
  .next (match s.kv.zeroing.find? (fun e => e.1 == n) with
    | none => s
    | some (_, p) => s.zeroPage n p)

/-- Every sequence of a chamber released with its pages and its window tables; generations stay (R306). -/
def State.releaseSeqs (s : State) (n : Nat) : State :=
  { s with kv := { s.kv with
    pages := s.kv.pages.filter (fun e => e.chamber != n),
    tables := s.kv.tables.filter (fun t => t.chamber != n),
    zeroing := s.kv.zeroing.filter (fun e => e.1 != n),
    seqs := s.kv.seqs.map (fun e => if e.1 / 65536 == n && e.2.state != 0 then
      (e.1, { Seq.none with gen := nextSeqGen e.2.gen }) else e) } }

/-! ### Ends of ATU instructions (R308) -/

/-- The status word of an ATU instruction; SAMPLED is 0 (R220, R306). -/
def State.atStatus (s : State) (o : EngOp) (f : Flags) : State := s.engServed o (statusWord 0 false f)

/-- The strand of an instruction that must wait does so, and wakes again (R48, R283, R306, R555). -/
def State.holdStrand (s : State) (o : EngOp) (wt : Wait) : State :=
  let x := s.strand o.core o.strand
  if x.mode = .ready ∨ x.mode = .issuing then
    s.setStrand o.core o.strand { x with mode := .waiting, wait := wt, run := 0 } else s

def State.wakeStrand (s : State) (o : EngOp) (wt : Wait) : State :=
  let x := s.strand o.core o.strand
  if x.mode = .waiting ∧ x.wait = wt then
    s.setStrand o.core o.strand { x with mode := .ready, wait := .none, readyAt := s.tb, run := 0 } else s

/-! ### AT.SEQ (R271 to R274) -/

def sqOp (d : List Byte) : Nat := fieldAt d 1 1
def sqSeq (d : List Byte) : Nat := fieldAt d 2 2
def sqGen (d : List Byte) : Nat := fieldAt d 4 4
def sqArg (d : List Byte) : Nat := fieldAt d 8 4

/-- The entry that an OPEN descriptor describes (R272, R275). -/
def sqEntry (d : List Byte) (gen : Nat) : Seq :=
  let D := fieldAt d 0x10 2
  let k := fieldAt d 0x12 1
  let v := fieldAt d 0x13 1
  let tpp := tokensPerPage D k v
  let strips := fieldAt d 0x14 2 * fieldAt d 0x16 2
  { state := 1, gen := gen, d := D, kfmt := k, vfmt := v, layers := fieldAt d 0x14 2, hkv := fieldAt d 0x16 2,
    stripPages := fieldAt d 0xC 4, tpp := tpp, length := 0, high := 0, max := sqArg d,
    reserved := strips * ceilDiv (sqArg d) tpp }

/-- The checks of R272 and R273 on an OPEN. -/
def openOk (d : List Byte) : Bool :=
  let q := sqEntry d 0
  plainFormats.contains q.kfmt && plainFormats.contains q.vfmt && [64, 128, 256].contains q.d &&
  1 ≤ q.layers && q.layers ≤ 256 && 1 ≤ q.hkv && q.hkv ≤ 256 && 1 ≤ q.stripPages && q.max ≤ 1_048_576 &&
  q.layers * q.hkv * q.stripPages ≤ 262_144 && q.max ≤ q.stripPages * q.tpp

/-- OPEN judged: refused, taken, or left waiting for pages (R273, R555). -/
def State.seqOpen (s : State) (o : EngOp) : State :=
  let n := s.coreChamber o.core
  let q := sqEntry o.desc 0
  if (s.chamber n).sequences ≤ s.openSeqs n then s.engFailed o cChamberQuota 0
  else if s.poolTotal n < q.reserved then s.engFailed o cKvCapacity 0
  else if s.poolFree n < q.reserved then
    (s.modEng o.id (fun (o : EngOp) => { o with aux := [1] })).holdStrand o .pages
  else
    let ids := (List.range 65536).filter (fun id => (s.seq n id).state == 0)
    let (k, s) := s.draw (max 1 ids.length)
    let id := ids.getD k 0
    let gen := max 1 (s.seq n id).gen
    let s := s.setSeq n id { q with gen := gen }
    let va := 0x01FF_0000_0000_0000 + scratchBase o.core + bitsOf o.word.toNat 20 0
    match s.engWrites o n [(va + 2, leBytes 2 id ++ leBytes 4 gen), (va + 0x18, leBytes 2 q.tpp)] with
    | ((some f, _), s) => s.engFailed o f.code f.cause
    | ((none, _), s) => (s.wakeStrand o .pages).atStatus o Flags.zero

/-- The pages of positions at or above `p` returned; those below MAX stay reserved (R271, R556). -/
def State.seqTruncate (s : State) (n id p : Nat) : State :=
  let q := s.seq n id
  let gone := s.kv.pages.filter (fun e => e.chamber == n && e.ofSeq id && p ≤ q.firstPos e)
  let back := (gone.filter (fun e => q.firstPos e < q.max)).length
  (s.returnPages n (fun e => e.ofSeq id && p ≤ q.firstPos e)).setSeq n id
    { q with high := p, length := min q.length p, reserved := q.reserved + back }

/-- A sequence given up: its pages and reservation return, and the next generation begins (R269, R271). -/
def State.seqRelease (s : State) (n id : Nat) : State :=
  let q := s.seq n id
  (s.returnPages n (fun e => e.ofSeq id)).setSeq n id { Seq.none with gen := nextSeqGen q.gen }

/-- Suspended appends of a sequence end CANCELLED (R306). -/
def State.cancelAppends (s : State) (n id : Nat) : State :=
  (s.engOps.filter (fun (o : EngOp) => o.suspended && o.aux.getD 1 0 == seqKey n id)).foldl
    (fun s (o : EngOp) => (s.dropAppend o.item cCancelled).abortItem o.item cCancelled) s

/-- TRUNCATE or RELEASE on a sequence with no references, else its wait (R306). -/
def State.seqEnd (s : State) (o : EngOp) : State :=
  let n := s.coreChamber o.core
  let id := sqSeq o.desc
  let q := s.seq n id
  if sqOp o.desc = 2 then
    if q.high < sqArg o.desc then (s.wakeStrand o .sequence).atStatus o Flags.zero
    else if s.seqRefs n id ≠ 0 then
      (s.modEng o.id (fun (o : EngOp) => { o with aux := [1] })).holdStrand o .sequence
    else ((s.seqTruncate n id (sqArg o.desc)).wakeStrand o .sequence).atStatus o Flags.zero
  else
    let s := s.cancelAppends n id
    if s.seqRefs n id ≠ 0 then
      ((s.setSeq n id { s.seq n id with state := 3 }).modEng o.id (fun (o : EngOp) => { o with aux := [1] })).holdStrand o
        .sequence
    else ((s.seqRelease n id).wakeStrand o .sequence).atStatus o Flags.zero

/-- An AT.SEQ at the head of its ATU queue (R271, R274). -/
def State.seqRun (s : State) (o : EngOp) : State :=
  let n := s.coreChamber o.core
  let q := s.seq n (sqSeq o.desc)
  if sqOp o.desc = 0 then s.seqOpen o
  else if q.state ≠ 1 ∨ q.gen ≠ sqGen o.desc then s.engFailed o cKvCache kvStale
  else if sqOp o.desc = 1 then (s.setSeq n (sqSeq o.desc) { q with length := q.high }).atStatus o Flags.zero
  else s.seqEnd o

/-- A RELEASE that stands behind a suspended append of its sequence in the same queue ends that append (R306). -/
def State.releaseOver (s : State) (c : Nat) : State :=
  match s.engHead c .atu with
  | none => s
  | some h =>
    let n := s.coreChamber c
    match s.engOps.find? (fun (o : EngOp) => o.core == c && opcodeOf o.word == 0x8A && sqOp o.desc == 3 &&
        h.suspended && seqKey n (sqSeq o.desc) == h.aux.getD 1 0 && (s.seq n (sqSeq o.desc)).gen == sqGen o.desc) with
    | none => s
    | some o => s.cancelAppends n (sqSeq o.desc)

/-- The head of core `c`'s ATU queue is run at once when it is an AT.SEQ that nothing precedes. -/
def State.seqStart (s : State) (c : Nat) : State :=
  let s := s.releaseOver c
  match s.engHead c .atu with
  | none => s
  | some o => if opcodeOf o.word == 0x8A && o.aux == [0] && !o.aborted && s.engReady o then s.seqRun o else s

end Sys2Proof.Machine
end

