-- ==== Sys2Proof/Machine/Reals.lean ====
section
/-! DEFINITION. Rational approximations of π, of the exponential and of sine and cosine, each far closer than any bound the
device states for a result that rests on it. -/

namespace Sys2Proof.Machine

/-- Fixed-point scale of the constants. -/
def fixOne : Int := 2 ^ 640

/-- arctan (1 ÷ k) by its series from term `i`, `t` being 2^640 ÷ k^(2i + 1). -/
def atanSum (k : Int) : Nat → Nat → Int → Int
  | 0, _, _ => 0
  | n + 1, i, t => (if i % 2 = 0 then t else -t) / (2 * i + 1) + atanSum k n (i + 1) (t / (k * k))

/-- π, within 2^-600. -/
def piQ : Rat := ((16 * atanSum 5 150 0 (fixOne / 5) - 4 * atanSum 239 60 0 (fixOne / 239) : Int) : Rat) / (fixOne : Rat)

/-- The series of ln 2 from term `i`, `t` being 2^640 ÷ 2^i. -/
def ln2Sum : Nat → Nat → Int → Int
  | 0, _, _ => 0
  | n + 1, i, t => t / i + ln2Sum n (i + 1) (t / 2)

/-- ln 2, within 2^-600. -/
def ln2Q : Rat := ((ln2Sum 640 1 (fixOne / 2) : Int) : Rat) / (fixOne : Rat)

/-- Σ xⁿ ÷ n! from term `i` in fixed point of 200 bits, `t` being term `i`. -/
def expSum (x : Int) : Nat → Nat → Int → Int
  | 0, _, _ => 0
  | n + 1, i, t => t + expSum x n (i + 1) (t * x / 2 ^ 200 / (i + 1))

/-- e to the power of a rational, within 2^-150 relatively; 0 far below every number format. -/
def expQ (x : Rat) : Rat :=
  if x < -65536 then 0 else
  let n := (x / ln2Q).floor
  let r := x - (n : Rat) * ln2Q
  ((expSum ((r * 2 ^ 200).floor) 60 0 (2 ^ 200) : Int) : Rat) / 2 ^ 200 * pow2 n

/-- The alternating series of sine (from 1) or cosine (from 0) at term index `i`, in fixed point of 200 bits. -/
def trigSum (x2 : Int) : Nat → Nat → Int → Int
  | 0, _, _ => 0
  | n + 1, i, t => t + trigSum x2 n (i + 2) (-(t * x2 / 2 ^ 200) / ((i + 1) * (i + 2)))

/-- An angle reduced modulo 2π, in fixed point of 200 bits (R287). -/
def reduceAngle (a : Rat) : Int :=
  let n := (a / (2 * piQ)).floor
  ((a - (n : Rat) * (2 * piQ)) * 2 ^ 200).floor

/-- The cosine of an angle, within 2^-150. -/
def cosQ (a : Rat) : Rat :=
  let x := reduceAngle a
  ((trigSum (x * x / 2 ^ 200) 60 0 (2 ^ 200) : Int) : Rat) / 2 ^ 200

/-- The sine of an angle, within 2^-150. -/
def sinQ (a : Rat) : Rat :=
  let x := reduceAngle a
  ((trigSum (x * x / 2 ^ 200) 60 1 x : Int) : Rat) / 2 ^ 200

end Sys2Proof.Machine
end

