-- ==== Sys2Proof/Machine/Append.lean ====
section
/-! DEFINITION. Appends to the key–value cache: page headers, rotary position codes, quantised storage and envelopes (R276 to R290). -/

namespace Sys2Proof.Machine

/-! ### Pages (R276 to R279) -/

/-- Offsets of the regions of a page (R277). -/
structure PageMap where
  ks : Nat
  vs : Nat
  keys : Nat
  vals : Nat

def Seq.map (q : Seq) : PageMap :=
  let env := roundUp (0x40 + q.tpp / 32 * (4 * q.d)) 64
  let ks := if elemBits q.kfmt < 16 then q.tpp * q.d / 32 else 0
  let vs := if elemBits q.vfmt < 16 then q.tpp * q.d / 32 else 0
  let a := roundUp (env + ks) 64
  let b := roundUp (a + vs) 64
  { ks := env, vs := a, keys := b, vals := roundUp (b + q.tpp * q.d * elemBits q.kfmt / 8) 64 }

/-- The page header of page `j` of strip `t` of sequence `id` (R278). -/
def Seq.header (q : Seq) (id t j : Nat) : List Byte :=
  leBytes 4 0x564B_5841 ++ leBytes 2 id ++ leBytes 2 q.d ++ leBytes 4 q.gen ++ leBytes 4 t ++ leBytes 4 j ++
  leBytes 1 q.kfmt ++ leBytes 1 q.vfmt ++ leBytes 2 q.tpp ++ leBytes 40 0

/-- The virtual address of page `j` of strip `t` (R276). -/
def Seq.pageVa (q : Seq) (id t j : Nat) : Nat := q.vpage id t j * 0x1_0000

/-- Bytes that an append writes into the key–value window (R280, R395). -/
def State.kvWrite (s : State) (o : EngOp) (n va : Nat) (bs : List Byte) : Option MFault × State :=
  s.writePieces (reqCore o.core) n (.eng o.id) o.item.queue true (linesOf va bs.length) bs

/-- Pieces of lines that an append writes, in order up to the first fault, and how many were written (R221). -/
def State.kvWrites (s : State) (o : EngOp) (n : Nat) : List (Nat × List Byte) → (Option MFault × Nat) × State
  | [] => ((none, 0), s)
  | (va, bs) :: l =>
    match s.kvWrite o n va bs with
    | (some f, s) => ((some f, 0), s)
    | (none, s) =>
      let ((f, k), s) := s.kvWrites o n l
      ((f, k + 1), s)

/-- Why an instruction stops: a memory fault, or a cause of FAULT_KV_CACHE. -/
abbrev KvStop := MFault ⊕ Nat

/-- The header of a page compared with what is expected (R279). -/
def State.checkPage (s : State) (o : EngOp) (n : Nat) (q : Seq) (id t j : Nat) : Except KvStop Unit × State :=
  match s.engRead o.core n (q.pageVa id t j) 64 with
  | (.error f, s) => (.error (.inl f), s)
  | (.ok h, s) => if h == q.header id t j then (.ok (), s) else (.error (.inr kvPageHeader), s)

/-! ### Rotary position codes (R286, R287) -/

/-- A value with a free error of at most 2^-21 × (|x| + |y|) (R287). -/
def State.rotError (s : State) (v : Val) (x y : Val) : Val × State :=
  match v, x, y with
  | .fin _ _, .fin _ p, .fin _ q =>
    let (e, s) := s.drawUnit
    (Val.ofRat (v.rat + e * pow2 (-21) * (p + q)), s)
  | v, _, _ => (v, s)

/-- A sum of two products, and whether it forms a NaN (R142). -/
def crossSum (a b c d : Val) : Val × Bool :=
  let p := a.mul b
  let q := c.mul d
  let r := p.1.add q.1
  (r.1, p.2 || q.2 || r.2)

/-- One pair rotated by an angle, and whether a NaN is formed (R142, R286). -/
def State.rotatePair (s : State) (x y : Val) (a : Rat) : (Val × Val × Bool) × State :=
  let c := Val.ofRat (cosQ a)
  let d := Val.ofRat (sinQ a)
  let p := crossSum x c y d.negate
  let q := crossSum x d y c
  let (u, s) := s.rotError p.1 x y
  let (v, s) := s.rotError q.1 x y
  ((u, v, p.2 || q.2), s)

/-- A row rotated at a position: the pairs of half-split or interleaved mode over `dims` dimensions; `back` rotates by the
negated angle. Whether a NaN is formed comes with it: an infinite frequency has no angle (R142, R286, R304). -/
def State.rotateRow (s : State) (mode dims : Nat) (freq : List Val) (pos : Nat) (back : Bool) (row : List Val) :
    (List Val × Bool) × State :=
  if mode = 0 then ((row, false), s) else
  (List.range (dims / 2)).foldl (fun (a : (List Val × Bool) × State) i =>
    let ((row, inv), s) := a
    let (j, k) := if mode = 1 then (i, i + dims / 2) else (2 * i, 2 * i + 1)
    match freq.getD i .zero with
    | .fin n th =>
      let ang := (if n then -th else th) * (pos : Rat) * (if back then -1 else 1)
      let ((u, v, iv), s) := s.rotatePair (row.getD j .zero) (row.getD k .zero) ang
      (((row.set j u).set k v, inv || iv), s)
    | th => (((row.set j .nan).set k .nan, inv || th.isInf), s)) ((row, false), s)

/-- The mode in force: 0 where the flag that asks for rotation is clear. -/
def ropeMode (on : Bool) (rope : Nat) : Nat := if on then rope else 0

/-- The frequencies of a descriptor (R284). -/
def State.readFreq (s : State) (o : EngOp) (n mode dims va : Nat) : Except MFault (List Val) × State :=
  if mode = 0 then (.ok [], s) else
  match s.engRead o.core n va (dims / 2 * 4) with
  | (.error f, s) => (.error f, s)
  | (.ok b, s) => (.ok ((List.range (dims / 2)).map (fun i => f32At b (4 * i))), s)

/-- An entry of an append (R284). -/
structure AppEntry where
  seq : Nat
  count : Nat
  gen : Nat
  pos : Nat
  /-- Tokens of the earlier entries. -/
  before : Nat

def appEntries (b : List Byte) (n : Nat) : List AppEntry :=
  (List.range n).foldl (fun (l : List AppEntry) i =>
    let o := 16 * i
    l ++ [{ seq := fieldAt b o 2, count := fieldAt b (o + 2) 2, gen := fieldAt b (o + 4) 4, pos := fieldAt b (o + 8) 4,
            before := (l.map (·.count)).sum }]) []

/-- The cause of R285 for an entry, 0 where it may be appended; `hkv` is that of the first entry. -/
def appendCause (q : Seq) (d : List Byte) (ps pv hkv : Nat) (e : AppEntry) : Nat :=
  if e.pos < q.length then kvRange
  else if q.high < e.pos then kvGap
  else if q.reach < e.pos + e.count then kvRange
  else if q.d ≠ fieldAt d 8 2 ∨ q.kfmt ≠ pfB ps ∨ q.vfmt ≠ pfB pv ∨ q.hkv ≠ hkv ∨ q.layers ≤ fieldAt d 0xA 2 then kvLayout
  else 0

/-- The pages an entry's tokens need: strip and page index. -/
def appendPages (q : Seq) (layer : Nat) (e : AppEntry) : List (Nat × Nat) :=
  (List.range q.hkv).flatMap fun h =>
    (List.range ((e.pos + e.count - 1) / q.tpp + 1 - e.pos / q.tpp)).map (fun k => (layer * q.hkv + h, e.pos / q.tpp + k))

/-! ### Drawing pages (R278, R281, R283, R556) -/

/-- How the drawing of an append's pages went on: done, stopped at a sequence for want of a page, or with a fault. -/
inductive AppDrawn where
  | done
  | short (id : Nat)
  | fault (f : MFault)

/-- One page of an append drawn and mapped, and its header written by the allocator (R278, R281, R556, R722). -/
def State.appendPage (s : State) (o : EngOp) (n id t j : Nat) : AppDrawn × State :=
  let q := s.seq n id
  let vp := q.vpage id t j
  if s.kv.pages.any (fun e => e.chamber == n && e.vpage == vp) then (.done, s) else
  let mine := q.max ≠ 0 ∧ j * q.tpp < q.max ∧ 0 < q.reserved
  if ¬mine ∧ s.poolFree n = 0 then (.short id, s) else
  match s.drawPage n vp with
  | (.short, s) => (.short id, s)
  | (.fault f, s) => (.fault f, s.recordFault (reqAlloc o.core) n (vp * 0x1_0000) true f)
  | (.done, s) =>
    let s := if mine then s.setSeq n id { s.seq n id with reserved := (s.seq n id).reserved - 1 } else s
    match s.writePieces (reqAlloc o.core) n (.eng o.id) o.item.queue true (linesOf (vp * 0x1_0000) 64) (q.header id t j) with
    | (some f, s) => (.fault f, s)
    | (none, s) => (.done, s)

/-- Some pages of an append, in order. -/
def State.appendDraw (s : State) (o : EngOp) (n : Nat) : List (Nat × Nat × Nat) → AppDrawn × State
  | [] => (.done, s)
  | (id, t, j) :: l =>
    match s.appendPage o n id t j with
    | (.done, s) => s.appendDraw o n l
    | r => r

/-! ### Storing rows (R286, R288, R289) -/

/-- The largest finite value that R286 divides by. -/
def kvMax (fmt : Nat) : Rat :=
  if fmt = cI8 then 127 else if fmt = cI4 then 7 else if fmt = cF4 then 6 else if fmt = cF8e4 then 448 else 57_344

/-- The smallest e8s code with a ÷ 2^(E − 127) at most the format's largest value; 0x7F for 0 (R286). -/
def kvScale (fmt : Nat) (a : Rat) : Nat :=
  if a = 0 then 0x7F else
  let q := a / kvMax fmt
  let e := ratLog2 q
  let e := if pow2 e = q then e else e + 1
  (max 0 (min 0xFE (e + 127))).toNat

/-- A code of format `fmt`, a NaN in its canonical form (R126). -/
def canonCode (fmt code : Nat) : Nat := if (decodeVal fmt code).isNan then (encode fmt false .rne .nan).1 else code

/-- A row as it is stored: its codes, the scales of its groups (none for a 16-bit format), the flags that storing sets, and what the
watch sees. -/
structure StoredRow where
  codes : List Nat
  scales : List Nat
  flags : Flags
  elems : List Elem

/-- A group of 32 stored, its scale last (R286). A group with a NaN or an infinity takes the NaN scale; its element codes are open, and
since the group decodes as NaN, an element that was none is inexact (R126, R136; log entry 115). -/
def State.storeGroup (s : State) (fmt : Nat) (xs : List Val) : StoredRow × State :=
  if xs.any (fun v => !v.isFin) then
    let (codes, s) := s.drawCodes (elemBits fmt) xs.length
    ({ codes := codes.map (canonCode fmt), scales := [0xFF],
       flags := ⟨false, false, xs.any (fun v => !v.isNan), xs.any Val.isInf⟩, elems := xs.map (fun _ => .plain .nan) }, s)
  else
    let e := kvScale fmt (xs.foldl (fun a v => max a v.abs.rat) 0)
    let ys := xs.map (fun v => (v.mul (Val.ofRat (pow2 (127 - (e : Int))))).1)
    let r := ys.map (encode fmt false .rne)
    ({ codes := codesOf r, scales := [e], flags := flagsOf r,
       elems := List.zipWith (fun v (x : Elem) => { x with obs := v }) xs (elemsOf fmt ys r) }, s)

/-- A row of D elements stored (R286). -/
def State.storeRow (s : State) (fmt : Nat) (row : List Val) : StoredRow × State :=
  if elemBits fmt = 16 then
    let r := row.map (encode fmt false .rne)
    ({ codes := codesOf r, scales := [], flags := flagsOf r, elems := elemsOf fmt row r }, s)
  else
    (List.range (row.length / 32)).foldl (fun (a : StoredRow × State) g =>
      let (x, s) := a
      let (y, s) := s.storeGroup fmt ((row.drop (32 * g)).take 32)
      ({ codes := x.codes ++ y.codes, scales := x.scales ++ y.scales, flags := x.flags.or y.flags, elems := x.elems ++ y.elems }, s))
      ({ codes := [], scales := [], flags := Flags.zero, elems := [] }, s)

/-- The values a stored row decodes to. -/
def storedVals (fmt : Nat) (codes scales : List Nat) : List Val :=
  codes.mapIdx (fun i c =>
    let v := decodeVal fmt c
    if elemBits fmt = 16 then v else (scaled v (decodeE8s (scales.getD (i / 32) 0xFF))).1)

/-- A value rounded towards +∞ (`up`) or −∞ into bf16 (R289). -/
def bf16Toward (up : Bool) (v : Val) : Nat :=
  let (c, _) := fmtBf16.encode false .rne v
  match v with
  | .fin _ _ =>
    let x := fmtBf16.decode c
    let wrong := if up then x.lt v else v.lt x
    if !wrong then c
    else
      let neg := bitOf c 15
      let m := c % 0x8000
      if m = 0 then (if up then 0x0001 else 0x8001)
      else if neg == up then (if neg then 0x8000 else 0) + m - 1
      else (if neg then 0x8000 else 0) + m + 1
  | _ => c

/-- An envelope after a key (R289): D maxima, then D minima, as bf16 codes. -/
def widenEnvelope (d : Nat) (env : List Nat) (key : List Val) : List Nat :=
  let val := fun (i : Nat) => fmtBf16.decode (env.getD i 0)
  let code := fun (v : Val) => (fmtBf16.encode false .rne v).1
  (List.range d).map (fun i => code ((val i).max (fmtBf16.decode (bf16Toward true (key.getD i .nan))))) ++
  (List.range d).map (fun i => code ((val (d + i)).min (fmtBf16.decode (bf16Toward false (key.getD i .nan)))))

/-! ### Appending (R286, R289, R290) -/

/-- What an append has done: what stopped it, its flags, and what the watch sees. -/
structure Appended where
  stop : Option KvStop
  flags : Flags
  seen : List Written

/-- An append stopped with nothing written. -/
def Appended.stopped (e : KvStop) : Appended := { stop := some e, flags := Flags.zero, seen := [] }

/-- The stored rows of one token and head, and the envelope they widen, written (R277, R286, R289). -/
def State.appendStore (s : State) (o : EngOp) (n : Nat) (q : Seq) (va slot : Nat) (key val : StoredRow) (env : List Nat) :
    Appended × State :=
  let m := q.map
  let kva := va + m.keys + slot * (q.d * elemBits q.kfmt / 8)
  let vva := va + m.vals + slot * (q.d * elemBits q.vfmt / 8)
  let pieces := cutAtLines ([(kva, packRow (elemBits q.kfmt) key.codes), (vva, packRow (elemBits q.vfmt) val.codes)] ++
      (if key.scales.isEmpty then [] else [(va + m.ks + slot * (q.d / 32), key.scales.flatMap (leBytes 1))]) ++
      (if val.scales.isEmpty then [] else [(va + m.vs + slot * (q.d / 32), val.scales.flatMap (leBytes 1))]) ++
      [(va + 0x40 + 4 * q.d * (slot / 32), env.flatMap (leBytes 2))])
  let seen := [Written.row kva q.kfmt key.elems, Written.row vva q.vfmt val.elems]
  match s.kvWrites o n pieces with
  | ((some f, k), s) => ({ stop := some (.inl f), flags := key.flags.or val.flags, seen := seenWithin pieces k seen }, s)
  | ((none, _), s) =>
    ({ stop := none, flags := key.flags.or val.flags, seen := seen },
     s.bump64 ATU_TOKENS_LO_COUNT ATU_TOKENS_HI_COUNT 1 o.core)

/-- One token of one head appended: its rows are read, its page's header compared, and its rows stored (R279, R284, R286, R289). -/
def State.appendToken (s : State) (o : EngOp) (n : Nat) (freq : List Val) (e : AppEntry) (i h : Nat) : Appended × State :=
  let d := o.desc
  let q := s.seq n e.seq
  let fmt := fieldAt d 6 1
  let len := q.d * elemBits fmt / 8
  let at_ := roundUp len 64 * ((e.before + i) * q.hkv + h)
  let pos := e.pos + i
  let strip := fieldAt d 0xA 2 * q.hkv + h
  let slot := pos % q.tpp
  let va := q.pageVa e.seq strip (pos / q.tpp)
  match s.engReads o.core n [(fieldAt d 0x18 8 + at_, len), (fieldAt d 0x20 8 + at_, len)] with
  | (.error f, s) => (.stopped (.inl f), s)
  | (.ok rows, s) =>
  match s.checkPage o n q e.seq strip (pos / q.tpp) with
  | (.error e, s) => (.stopped e, s)
  | (.ok _, s) =>
  match s.engRead o.core n (va + 0x40 + 4 * q.d * (slot / 32)) (4 * q.d) with
  | (.error f, s) => (.stopped (.inl f), s)
  | (.ok eb, s) =>
    let vals := fun (k : Nat) => (List.range q.d).map (fun j => decodeVal fmt (elemAt (rows.getD k []) (elemBits fmt) j))
    let ((key, inv), s) := s.rotateRow (ropeMode (bitOf (fieldAt d 1 1) 1) (fieldAt d 7 1)) (fieldAt d 0xE 2) freq pos false (vals 0)
    let (ks, s) := s.storeRow q.kfmt key
    let (vs, s) := s.storeRow q.vfmt (vals 1)
    let env := widenEnvelope q.d ((List.range (2 * q.d)).map (fun k => fieldAt eb (2 * k) 2)) (storedVals q.kfmt ks.codes ks.scales)
    let ks := if inv then { ks with flags := ks.flags.or Flags.invalid } else ks
    s.appendStore o n q va slot ks vs env

/-- Tokens and heads of an append, in order, up to what stops it. -/
def State.appendTokens (s : State) (o : EngOp) (n : Nat) (freq : List Val) : List (AppEntry × Nat × Nat) → Appended × State
  | [] => ({ stop := none, flags := Flags.zero, seen := [] }, s)
  | (e, i, h) :: l =>
    match s.appendToken o n freq e i h with
    | (x, s) =>
      if x.stop.isSome then (x, s) else
      let (y, s) := s.appendTokens o n freq l
      ({ stop := y.stop, flags := x.flags.or y.flags, seen := x.seen ++ y.seen }, s)

/-- An item ended by what stopped its ATU instruction (R221, R274, R279). -/
def State.atStopped (s : State) (o : EngOp) : KvStop → State
  | .inl f => s.engFailed o f.code f.cause
  | .inr cause => s.engFailed o cKvCache cause

/-- The entries of an append: command decode has put their list after the descriptor. -/
def appListed (o : EngOp) : List AppEntry := appEntries (o.desc.drop 128) (fieldAt o.desc 0xC 2)

/-- Every token and head of an append (R284). -/
def State.appendWork (s : State) (n : Nat) (entries : List AppEntry) : List (AppEntry × Nat × Nat) :=
  entries.flatMap (fun e => (List.range e.count).flatMap (fun i => (List.range (s.seq n e.seq).hkv).map (fun h => (e, i, h))))

/-- The pages of an append: sequence, strip and page. -/
def State.appendNeeds (s : State) (n : Nat) (d : List Byte) (entries : List AppEntry) : List (Nat × Nat × Nat) :=
  entries.flatMap (fun e => (appendPages (s.seq n e.seq) (fieldAt d 0xA 2) e).map (fun p => (e.seq, p.1, p.2)))

/-- What stops an append before it draws a page: the first cause of R285 among its entries, 0 for none. -/
def State.appendStops (s : State) (n : Nat) (o : EngOp) (entries : List AppEntry) : Nat :=
  let hkv := (s.seq n (entries.head?.map (·.seq) |>.getD 0)).hkv
  ((entries.map (fun e => appendCause (s.seq n e.seq) o.desc (o.aux.getD 1 0) (o.aux.getD 2 0) hkv e)).find? (· ≠ 0)).getD 0

/-- The first `k` tokens and heads of an append whose pages are drawn, with its flags and its watch; what stopped it is answered. -/
def State.appendFirst (s : State) (o : EngOp) (n k : Nat) : (Option KvStop × Flags) × State :=
  let d := o.desc
  match s.readFreq o n (ropeMode (bitOf (fieldAt d 1 1) 1) (fieldAt d 7 1)) (fieldAt d 0xE 2) (fieldAt d 0x28 8) with
  | (.error f, s) => ((some (.inl f), Flags.zero), s)
  | (.ok freq, s) =>
    let (x, s) := s.appendTokens o n freq ((s.appendWork n (appListed o)).take k)
    ((x.stop, x.flags), (s.watch o.core false x.seen).raise .atu o.core o.strand x.flags)

/-- The append whose pages are all drawn: its tokens are written, and HIGH rises with its normal end (R290). -/
def State.appendWrite (s : State) (o : EngOp) (n : Nat) : State :=
  match s.appendFirst o n (s.appendWork n (appListed o)).length with
  | ((some e, _), s) => s.atStopped o e
  | ((none, fl), s) =>
    ((appListed o).foldl (fun s e =>
      let q := s.seq n e.seq
      s.setSeq n e.seq { q with high := max q.high (e.pos + e.count) }) s).atStatus o fl

/-- An append at the head of its queue: its entries are checked, its pages drawn, then its tokens written; without a free page it
suspends (R281, R283, R285). -/
def State.appendRun (s : State) (o : EngOp) : State :=
  let n := s.coreChamber o.core
  let entries := appListed o
  let cause := s.appendStops n o entries
  if cause ≠ 0 then s.engFailed o cKvCache cause else
  match s.appendDraw o n (s.appendNeeds n o.desc entries) with
  | (.fault f, s) => s.engFailed o f.code f.cause
  | (.short id, s) =>
    (s.modEng o.id (fun (o : EngOp) => { o with aux := [1, seqKey n id] ++ o.aux.drop 1 })).holdStrand o .pages
  | (.done, s) => s.appendWrite o n

/-- An aborted append stopped at a token boundary, which one being open: the pages that it drew stay with the sequence, what it wrote
stays written, and HIGH is unchanged (R305). -/
def State.appendStop (s : State) (o : EngOp) : State :=
  let n := s.coreChamber o.core
  let entries := appListed o
  if s.appendStops n o entries ≠ 0 then s else
  let pages := s.appendNeeds n o.desc entries
  let (j, s) := s.draw (pages.length + 1)
  match s.appendDraw o n (pages.take j) with
  | (.done, s) =>
    if j < pages.length then s else
    let (k, s) := s.draw ((s.appendWork n entries).length + 1)
    if k = 0 then s else (s.appendFirst o n k).2
  | (_, s) => s

/-- APPEND_RESUME: the suspended append of core `c` goes on once its chamber has a free page (R283). -/
def execAppendResume (c : Nat) (s : State) : Result :=
  .next (match s.engHead c .atu with
    | none => s
    | some o =>
      if o.suspended && 0 < s.poolFree (s.coreChamber c) then
        s.remotely (.eng o.id) o.item.queue (fun f s => s.engFailed o f.code f.cause) (fun s =>
          let back : EngOp := { o with aux := 0 :: o.aux.drop 2 }
          ((s.modEng o.id (fun _ => back)).wakeStrand o .pages).appendRun back) |>.deliver
      else s)

end Sys2Proof.Machine
end

