-- ==== Sys2Proof/Machine/Attend.lean ====
section
/-! DEFINITION. The forward flow of AT.RUN: query rows, cached blocks, the online softmax with bounded skipping, and what it writes
(R291 to R300). -/

namespace Sys2Proof.Machine

/-! ### Entries (R291, R292) -/

/-- An entry of an AT.RUN (R291). -/
structure RunEntry where
  seq : Nat
  qcount : Nat
  gen : Nat
  qpos : Nat
  klen : Nat
  kstart : Nat
  /-- Query rows, and key rows, of the earlier entries. -/
  rows : Nat
  keys : Nat

def runEntries (b : List Byte) (g n : Nat) : List RunEntry :=
  (List.range n).foldl (fun (l : List RunEntry) i =>
    let o := 32 * i
    l ++ [{ seq := fieldAt b o 2, qcount := fieldAt b (o + 2) 2, gen := fieldAt b (o + 4) 4, qpos := fieldAt b (o + 8) 4,
            klen := fieldAt b (o + 0xC) 4, kstart := fieldAt b (o + 0x10) 4,
            rows := (l.map (fun e => e.qcount * g)).sum, keys := (l.map (fun e => e.klen - e.kstart)).sum }]) []

/-- Whether the mask admits key position `k` for query position `q` (R292). -/
def admits (mask w q k : Nat) : Bool :=
  match mask with
  | 0 => true
  | 1 => k ≤ q
  | 2 => q < k + w && k ≤ q
  | _ => k ≤ q || k < w

/-! ### Reading blocks (R279, R293, R294) -/

/-- A key element widened with its scale into the query's format (R293, R294): the value, its flags, and whether it was
saturated or rounded. -/
def widenKey (qfmt : Nat) (v : Val × Bool) : Val × Flags × Bool :=
  if v.2 then (.nan, Flags.invalid, false) else
  match v.1 with
  | .fin n m =>
    match floatOf qfmt with
    | none => (v.1, Flags.zero, false)
    | some f =>
      let (c, fl) := f.encode true .rne (.fin n m)
      (f.decode c, fl, fl.ix)
  | x => (x, Flags.zero, false)

/-- One cached token of a head: position, widened key, value, flags and how many key elements were saturated or
rounded. -/
structure CacheRow where
  pos : Nat
  key : List Val
  val : List Val
  flags : Flags
  sat : Nat

/-- The elements of a cached row with their scales, and whether a scale or product was invalid. -/
def cachedElems (fmt d slot : Nat) (elems scales : List Byte) : List (Val × Bool) :=
  let row := elems.drop (slot * (d * elemBits fmt / 8))
  (List.range d).map fun i =>
    let v := decodeVal fmt (elemAt row (elemBits fmt) i)
    if elemBits fmt = 16 then (v, false) else scaled v (decodeE8s (fieldAt scales (slot * (d / 32) + i / 32) 1))

/-- The 32 tokens of block `b` of a strip (R277). -/
def State.readBlock (s : State) (o : EngOp) (n : Nat) (q : Seq) (id t b qfmt : Nat) :
    Except KvStop (List CacheRow) × State :=
  let j := 32 * b / q.tpp
  let slot := 32 * b % q.tpp
  let va := q.pageVa id t j
  let m := q.map
  let kb := q.d * elemBits q.kfmt / 8
  let vb := q.d * elemBits q.vfmt / 8
  match s.checkPage o n q id t j with
  | (.error e, s) => (.error e, s)
  | (.ok _, s) =>
  match s.engReads o.core n [(va + m.keys + slot * kb, 32 * kb), (va + m.vals + slot * vb, 32 * vb),
      (va + m.ks + slot * (q.d / 32), if elemBits q.kfmt < 16 then q.d else 0),
      (va + m.vs + slot * (q.d / 32), if elemBits q.vfmt < 16 then q.d else 0)] with
  | (.error f, s) => (.error (.inl f), s)
  | (.ok bs, s) =>
    (.ok ((List.range 32).map (fun i =>
      let k := (cachedElems q.kfmt q.d i (bs.getD 0 []) (bs.getD 2 [])).map (widenKey qfmt)
      let v := cachedElems q.vfmt q.d i (bs.getD 1 []) (bs.getD 3 [])
      { pos := 32 * b + i, key := k.map (·.1), val := v.map (·.1),
        flags := (Flags.all (k.map (·.2.1))).or (if v.any (·.2) then Flags.invalid else Flags.zero),
        sat := (k.filter (·.2.2)).length })), s)

/-- The envelope of block `b`: maxima and minima (R277). -/
def State.readEnvelope (s : State) (o : EngOp) (n : Nat) (q : Seq) (id t b : Nat) :
    Except KvStop (List Val × List Val) × State :=
  let j := 32 * b / q.tpp
  match s.checkPage o n q id t j with
  | (.error e, s) => (.error e, s)
  | (.ok _, s) =>
  match s.engRead o.core n (q.pageVa id t j + 0x40 + 4 * q.d * (32 * b % q.tpp / 32)) (4 * q.d) with
  | (.error f, s) => (.error (.inl f), s)
  | (.ok e, s) =>
    let v := fun (i : Nat) => fmtBf16.decode (fieldAt e (2 * i) 2)
    (.ok ((List.range q.d).map v, (List.range q.d).map (fun i => v (q.d + i))), s)

/-- The counts of a block fetched: of the block, and of key elements saturated or rounded among the rows used (R294, R308). -/
def State.countBlock (s : State) (c : Nat) (used : List CacheRow) : State :=
  (s.bump64 ATU_BLK_LO_COUNT ATU_BLK_HI_COUNT 1 c).bump ATU_WIDEN_SAT_COUNT (used.map (·.sat)).sum c

/-! ### Query rows -/

/-- An admitted key that a row has taken in: its score, formed and exact, Σ |q k| × SM_SCALE, and its value row. -/
structure KeyTerm where
  score : Val
  exact : Val
  mag : Rat
  val : List Val

/-- A query row as the flow carries it: its position, its widened elements, its running statistics, the blocks skipped for it, and the
keys of the blocks visited. -/
structure QRow where
  pos : Nat
  q : List Val
  m : Val
  l : Rat
  skipped : Nat
  blocks : List (List KeyTerm)
  inv : Bool

def QRow.keys (r : QRow) : List KeyTerm := r.blocks.flatten

/-- Rows of `cnt` elements of format `fmt` from `base`, one each 64-byte-padded stride. -/
def State.readRows (s : State) (o : EngOp) (n fmt d base first cnt : Nat) : Except MFault (List (List Val)) × State :=
  let len := d * elemBits fmt / 8
  match s.engReads o.core n ((List.range cnt).map (fun i => (base + roundUp len 64 * (first + i), len))) with
  | (.error f, s) => (.error f, s)
  | (.ok rows, s) =>
    (.ok (rows.map (fun b => (List.range d).map (fun i => decodeVal fmt (elemAt b (elemBits fmt) i)))), s)

/-- The query rows of an entry, scaled, widened and rotated (R296). -/
def State.queryRows (s : State) (o : EngOp) (n ps : Nat) (freq : List Val) (e : RunEntry) :
    Except MFault (List QRow) × State :=
  let d := o.desc
  let D := fieldAt d 8 2
  let g := fieldAt d 0xA 1
  let cnt := e.qcount * g
  match s.readRows o n (pfA ps) D (fieldAt d 0x28 8) e.rows cnt with
  | (.error f, s) => (.error f, s)
  | (.ok rows, s) =>
  match (if pfAScale ps = 0 then (.ok [], s) else
      s.engRead o.core n (fieldAt d 0x30 8 + e.rows * (D / 32)) (cnt * (D / 32))) with
  | (.error f, s) => (.error f, s)
  | (.ok sc, s) =>
    let mode := ropeMode (bitOf (fieldAt d 1 1) 1) (fieldAt d 0xB 1)
    (rows.mapIdx (fun i r => (i, r))).foldl (fun (a : Except MFault (List QRow) × State) ir =>
      match a with
      | (.error f, s) => (.error f, s)
      | (.ok l, s) =>
        let (i, r) := ir
        let w := r.mapIdx (fun k v =>
          if pfAScale ps = 0 then (v, false) else scaled v (decodeE8s (fieldAt sc (i * (D / 32) + k / 32) 1)))
        let ((x, iv), s) := s.rotateRow mode (fieldAt d 0x12 2) freq (e.qpos + i / g) false (w.map (·.1))
        (.ok (l ++ [{ pos := e.qpos + i / g, q := x, m := .inf true, l := 0, skipped := 0, blocks := [], inv := iv || w.any (·.2) }]), s))
          ((.ok [], s) : Except MFault (List QRow) × State)

/-! ### The forward flow (R296 to R299) -/

/-- An entry's setting: descriptor, profiles, sequence, entry. -/
structure RunCtx where
  o : EngOp
  n : Nat
  ps : Nat
  pv : Nat
  q : Seq
  e : RunEntry
  strip : Nat

def RunCtx.mask (y : RunCtx) (row k : Nat) : Bool :=
  y.e.kstart ≤ k && k < y.e.klen && admits (fieldAt y.o.desc 6 1) (fieldAt y.o.desc 0x14 4) row k

/-- Admitted keys of a row in block `b`. -/
def RunCtx.admitted (y : RunCtx) (pos b : Nat) : Nat := ((List.range 32).filter (fun i => y.mask pos (32 * b + i))).length

/-- The blocks of an entry that hold admitted keys, in the order of R296. -/
def RunCtx.blockOrder (y : RunCtx) (rows : List QRow) : List Nat :=
  let lo := y.e.kstart / 32
  let l := ((List.range ((y.e.klen + 31) / 32 - lo)).map (lo + ·)).filter (fun b =>
    rows.any (fun (r : QRow) => y.admitted r.pos b != 0))
  match l.reverse with
  | [] => []
  | top :: rest => if lo != top && rest.contains lo then top :: lo :: rest.filter (· != lo) else top :: rest

def RunCtx.sm (y : RunCtx) : Rat := (f32At y.o.desc 0x18).rat

/-- A score as a row forms it with a key, within R131; and whether it is invalid (R142, R296). -/
def State.score (s : State) (sm : Rat) (q : List Val) (k : CacheRow) : (KeyTerm × Bool) × State :=
  let prods := List.zipWith Val.mul q k.key
  let terms := prods.map (·.1)
  let ((v, i), s) := s.accumulate (((terms.length - 1 : Nat) : Rat) * pow2 (-24)) terms
  let (x, mag) := sums terms
  (({ score := (v.mul (Val.ofRat sm)).1, exact := if v.isFin then Val.ofRat (x * sm) else v, mag := mag * sm, val := k.val },
    i || prods.any (·.2)), s)

/-- A finite value of f32 within `k` units in the last place of `q`, which one being open. -/
def State.nearF32 (s : State) (q : Rat) (k : Nat) : Val × State :=
  let u := pow2 (fmtF32.ulpExp q)
  let (e, s) := s.drawUnit
  let y := max 0 (q + e * (k : Rat) * u)
  let n := if q ≤ y then (y / u).floor else (y / u).ceil
  let v := (n : Rat) * u
  (if fmtF32.maxFinite < v then .inf false else Val.ofRat v, s)

/-- The exponential table at the difference of two scores, rounded into f32: within 3 units in the last place (R254, R263). -/
def State.tableExp (s : State) (a b : Val) : Val × State :=
  match toF32 (a.add b.negate).1 with
  | .nan => (.nan, s)
  | .inf true => (.zero, s)
  | .inf false => (.inf false, s)
  | .fin n x => if !n && 128 < x then (.inf false, s) else s.nearF32 (expQ (if n then -x else x)) 3

/-- The exponentials of the scores of a block against a maximum. -/
def State.tableExps (s : State) (m : Val) : List KeyTerm → List Val × State
  | [] => ([], s)
  | k :: l =>
    let (e, s) := s.tableExp k.score m
    let (r, s) := s.tableExps m l
    (e :: r, s)

/-- A row's statistics after a block, the sum with its roundings to f32 (R263). -/
def State.takeBlock (s : State) (m : Val) (l : Rat) (ks : List KeyTerm) : (Val × Rat) × State :=
  let m' := ks.foldl (fun a k => a.max k.score) m
  if !m'.isFin then ((m', l), s) else
  let (a, s) := s.tableExp m m'
  let (es, s) := s.tableExps m' ks
  let x := l * a.rat + (es.map Val.rat).sum
  let (e, s) := s.drawUnit
  ((m', x * (1 + e * ((ks.length + 1 : Nat) : Rat) * pow2 (-24))), s)

/-- The scores of a row with some keys. -/
def State.scores (s : State) (sm : Rat) (q : List Val) : List CacheRow → (List KeyTerm × Bool) × State
  | [] => (([], false), s)
  | k :: l =>
    let ((t, i), s) := s.score sm q k
    let ((r, j), s) := s.scores sm q l
    ((t :: r, i || j), s)

/-- A row after a block it does not skip: the scores of the keys its mask admits, and its statistics (R296). -/
def State.visitRow (s : State) (y : RunCtx) (block : List CacheRow) (r : QRow) : QRow × State :=
  let ks := block.filter (fun k => y.mask r.pos k.pos)
  if ks.isEmpty then (r, s) else
  let ((t, i), s) := s.scores y.sm r.q ks
  let ((m, l), s) := s.takeBlock r.m r.l t
  ({ r with m := m, l := l, blocks := r.blocks ++ [t], inv := r.inv || i }, s)

/-- A list of rows, each taken on by `f`. -/
def State.eachRow (s : State) (f : QRow → State → QRow × State) : List QRow → List QRow × State
  | [] => ([], s)
  | r :: l =>
    let (r, s) := f r s
    let (l, s) := s.eachRow f l
    (r :: l, s)

/-- U_b for a row, and the sum of the magnitudes of its terms; none where it is NaN (R298). -/
def upperBound (sm : Rat) (q mx mn : List Val) : Option (Val × Rat) :=
  let t := List.zipWith (fun a (p : Val × Val) => (a.mul p.1).1.max (a.mul p.2).1) q (List.zip mx mn)
  let u := t.foldl (fun a v => (a.add v).1) Val.zero
  match (u.mul (Val.ofRat sm)).1 with
  | .nan => none
  | v => some (v, (sums t).2 * sm)

/-- Σ exp (s_j − m) over the keys that a row has taken in, of their exact scores. -/
def QRow.exactSum (r : QRow) (m : Rat) : Rat :=
  (r.keys.map (fun k => if k.exact.isFin then expQ (k.exact.rat - m) else 0)).sum

/-- The skip test of R299 for one row. The ATU evaluates it with every rounding directed against skipping: a row passes only where the
exact statistics of the keys that it has taken in pass too, which bounds the share of R300; near the limit the outcome is open. -/
def State.skipRow (s : State) (y : RunCtx) (env : List Val × List Val) (b : Nat) (r : QRow) : Bool × State :=
  let cnt := y.admitted r.pos b
  if cnt = 0 then (true, s) else
  match upperBound y.sm r.q env.1 env.2, r.m with
  | some (u, mag), .fin _ _ =>
    match u with
    | .inf false => (false, s)
    | .inf true => (true, s)
    | _ =>
      let x := u.rat - r.m.rat
      if 128 < x then (false, s) else
      let v := (cnt : Rat) * expQ x
      let limit := pow2 (-(fieldAt y.o.desc 7 1 : Int)) * (1 - pow2 (-12)) * min r.l (r.exactSum r.m.rat)
      let near := expQ (((r.q.length + 1 : Nat) : Rat) * pow2 (-22) * mag) * (1 + pow2 (-10))
      if limit < v then (false, s)
      else if v * near ≤ limit then (true, s)
      else
        let (k, s) := s.draw 2
        (k == 1, s)
  | _, _ => (false, s)

/-- Whether every row of an entry passes the test. -/
def State.skipAll (s : State) (y : RunCtx) (env : List Val × List Val) (b : Nat) : List QRow → Bool × State
  | [] => (true, s)
  | r :: l =>
    match s.skipRow y env b r with
    | (false, s) => (false, s)
    | (true, s) => s.skipAll y env b l

/-- What a walk over blocks carries: the rows, and the flags of the keys read. -/
structure WalkState where
  rows : List QRow
  flags : Flags

/-- One block of an entry: the skip test where it applies, else its keys and values (R296, R299). -/
def State.visitBlock (s : State) (y : RunCtx) (exempt : Bool) (b : Nat) (z : WalkState) : Except KvStop WalkState × State :=
  let test : Except KvStop Bool × State :=
    if exempt || fieldAt y.o.desc 7 1 == 0 then (.ok false, s) else
    match s.readEnvelope y.o y.n y.q y.e.seq y.strip b with
    | (.error e, s) => (.error e, s)
    | (.ok env, s) =>
      let (k, s) := s.skipAll y env b z.rows
      (.ok k, s)
  match test with
  | (.error e, s) => (.error e, s)
  | (.ok true, s) =>
    (.ok { z with rows := z.rows.map (fun (r : QRow) =>
      if y.admitted r.pos b = 0 then r else { r with skipped := r.skipped + 1 }) },
     s.bump64 ATU_SKIP_LO_COUNT ATU_SKIP_HI_COUNT 1 y.o.core)
  | (.ok false, s) =>
    match s.readBlock y.o y.n y.q y.e.seq y.strip b (pfA y.ps) with
    | (.error e, s) => (.error e, s)
    | (.ok block, s) =>
      let used := block.filter (fun k => z.rows.any (fun (r : QRow) => y.mask r.pos k.pos))
      let (rows, s) := (s.countBlock y.o.core used).eachRow (fun r s => s.visitRow y block r) z.rows
      (.ok { rows := rows, flags := z.flags.or (Flags.all (used.map (·.flags))) }, s)

/-- The blocks of an entry in their order. -/
def State.visitBlocks (s : State) (y : RunCtx) (top : Nat) : List Nat → WalkState → Except KvStop WalkState × State
  | [], z => (.ok z, s)
  | b :: l, z =>
    match s.visitBlock y (b == top || b == y.e.kstart / 32) b z with
    | (.error e, s) => (.error e, s)
    | (.ok z, s) => s.visitBlocks y top l z

/-! ### Outputs (R296, R297) -/

/-- What step 7 of R296 takes a block with: the factor of the accumulator, and each key's weight in f16 with its value row. -/
structure BlockStep where
  factor : Val
  keys : List (Val × List Val)

/-- The steps of a row's blocks from a running maximum (R296). -/
def State.blockSteps (s : State) (m : Val) : List (List KeyTerm) → List BlockStep × State
  | [] => ([], s)
  | ks :: l =>
    let m' := ks.foldl (fun a k => a.max k.score) m
    let (a, s) := s.tableExp m m'
    let (es, s) := s.tableExps m' ks
    let p := es.map (fun e => fmtF16.decode (fmtF16.encode false .rne e).1)
    let (r, s) := s.blockSteps m' l
    ({ factor := if m'.isFin then a else .one, keys := if m'.isFin then List.zip p (ks.map (·.val)) else [] } :: r, s)

/-- Element `d` of a row's accumulator through its blocks, and whether a NaN is formed (R131, R142, R296). -/
def State.formAcc (s : State) (d : Nat) : List BlockStep → Val → Bool → (Val × Bool) × State
  | [], acc, inv => ((acc, inv), s)
  | b :: l, acc, inv =>
    let a := acc.mul b.factor
    let prods := b.keys.map (fun k => k.1.mul (k.2.getD d .zero))
    let ((v, i), s) := s.accumulate ((prods.length : Rat) * pow2 (-24)) (a.1 :: prods.map (·.1))
    s.formAcc d l v (inv || a.2 || i || prods.any (·.2))

/-- One output element before rounding, within the bound of R297: the softmax of the visited keys over element `d` of their values. -/
def State.boundElem (s : State) (r : QRow) (D : Nat) (ps : List Rat) (sigma : Rat) (vs : List Val) : Val × State :=
  let sum := ps.sum
  let num := (List.zipWith (fun p v => p * Val.rat v) ps vs).sum
  let mag := (List.zipWith (fun p v => p * Val.rat (Val.abs v)) ps vs).sum
  let (e, s) := s.drawUnit
  let err := (pow2 (-10) + pow2 (-22) * ((D : Rat) * sigma + 2 * (r.blocks.length : Rat) + 16)) * (mag / sum)
  let x := num / sum + e * err
  (if x = 0 then Val.zero else Val.ofRat x, s)

/-- One output element before rounding, and whether it is invalid. Where R297 bounds it, every value within the bound is possible; with
an infinite value, or with σ above 2^10, it is what the steps of R296 form. -/
def State.outElem (s : State) (r : QRow) (D d : Nat) (ps : List Rat) (sigma : Rat) (steps : List BlockStep) : (Val × Bool) × State :=
  let vs := r.keys.map (fun k => k.val.getD d .zero)
  if vs.any Val.isNan then ((.nan, false), s)
  else if vs.any Val.isInf || pow2 10 < sigma then
    let ((acc, i), s) := s.formAcc d steps Val.zero false
    let q := acc.div (Val.ofRat r.l)
    ((q.1, i || q.2), s)
  else
    let (x, s) := s.boundElem r D ps sigma vs
    ((x, false), s)

/-- A finished row: its outputs before rounding, MAX and SUM, and the flags of its statistics. -/
structure RowDone where
  out : List Val
  max : Val
  sum : Val
  flags : Flags

/-- The outputs and the record of a row (R260, R292, R296). -/
def State.rowDone (s : State) (D : Nat) (r : QRow) : RowDone × State :=
  let all := fun v => List.replicate D v
  let iv := if r.inv then Flags.invalid else Flags.zero
  let ss := r.keys.map (·.score)
  if ss.any Val.isNan then ({ out := all .nan, max := .nan, sum := .nan, flags := iv }, s)
  else if ss.any (fun v => v == .inf false) then
    ({ out := all .nan, max := .inf false, sum := .nan, flags := Flags.invalid }, s)
  else if ss.all Val.isInf then ({ out := all Val.zero, max := .inf true, sum := Val.zero, flags := iv }, s)
  else
    let exact := r.keys.map (·.exact)
    let top := exact.foldl (fun (a : Rat) v => if v.isFin then max a v.rat else a)
      (((exact.find? Val.isFin).map Val.rat).getD 0)
    let ps := exact.map (fun v => if v.isFin then expQ (v.rat - top) else 0)
    let sigma := r.keys.foldl (fun (a : Rat) k => if k.score.isFin then max a k.mag else a) 0
    let (steps, s) := s.blockSteps (.inf true) r.blocks
    let ((out, inv), s) := (List.range D).foldl (fun (a : (List Val × Bool) × State) d =>
      let ((l, i), s) := a
      let ((v, j), s) := s.outElem r D d ps sigma steps
      ((l ++ [v], i || j), s)) (([], false), s)
    let (ix, s) := s.draw 2
    ({ out := out, max := r.m, sum := Val.ofRat r.l, flags := iv.or ⟨false, false, ix == 1, inv⟩ }, s)

/-- The finished rows of an entry. -/
def State.rowsDone (s : State) (D : Nat) : List QRow → List RowDone × State
  | [] => ([], s)
  | r :: l =>
    let (x, s) := s.rowDone D r
    let (t, s) := s.rowsDone D l
    (x :: t, s)

/-- Rows of values rounded into an output format by the MXE's generator or by RNE (R133, R138). -/
def State.roundLists (s : State) (core fmt : Nat) (rnd sat : Bool) : List (List Val) → List (List (Nat × Flags)) × State
  | [] => ([], s)
  | v :: l =>
    let (r, s) := s.roundEach core false rnd fmt sat v
    let (rs, s) := s.roundLists core fmt rnd sat l
    (r :: rs, s)

/-- Rows written at a base, each on its padded stride, and the same rows as the watch sees them. -/
def rowsOutAt (base first fmt : Nat) (vals : List (List Val)) (r : List (List (Nat × Flags))) : List (Nat × List Byte) × List Written :=
  let bits := elemBits fmt
  let place := fun (i n : Nat) => base + roundUp (rowBytes bits n) 64 * (first + i)
  (r.mapIdx (fun i x => (place i x.length, packRow bits (codesOf x))),
   (List.zipWith (elemsOf fmt) vals r).mapIdx (fun i e => .row (place i e.length) fmt e))

/-- What an entry has done: what stopped it, its flags, and what the watch sees. -/
structure EntryDone where
  stop : Option KvStop
  flags : Flags
  seen : List Written

/-- An entry stopped with nothing written. -/
def EntryDone.stopped (e : KvStop) : EntryDone := { stop := some e, flags := Flags.zero, seen := [] }

/-- Everything that an entry writes, in order, up to a fault (R221, R362). -/
def State.entryWrite (s : State) (o : EngOp) (n : Nat) (flags : Flags) (writes : List (Nat × List Byte)) (seen : List Written) :
    EntryDone × State :=
  let pieces := cutAtLines writes
  match s.engWrites o n pieces with
  | ((some f, k), s) => ({ stop := some (.inl f), flags := flags, seen := seenWithin pieces k seen }, s)
  | ((none, _), s) => ({ stop := none, flags := flags, seen := seen }, s)

/-- The outputs and records of an entry written (R261, R296). -/
def State.forwardWrite (s : State) (y : RunCtx) (z : WalkState) : EntryDone × State :=
  let d := y.o.desc
  let fmt := pfC y.pv
  let (done, s) := s.rowsDone (fieldAt d 8 2) z.rows
  let vals := done.map (·.out)
  let (r, s) := s.roundLists y.o.core fmt (pfRnd y.pv) (pfSat y.pv) vals
  let (writes, seen) := rowsOutAt (fieldAt d 0x38 8) y.e.rows fmt vals r
  let stats := done.map (fun x => ([x.max, x.sum], [x.max, x.sum].map (encode cF32 false .rne)))
  let recs := List.zipWith (fun (c : List Val × List (Nat × Flags)) (r : QRow) =>
    leBytes 4 ((codesOf c.2).getD 0 0) ++ leBytes 4 ((codesOf c.2).getD 1 0) ++
      leBytes 4 ((List.range (y.e.klen - y.e.kstart)).filter (fun k => y.mask r.pos (y.e.kstart + k))).length ++
      leBytes 4 r.skipped) stats z.rows
  let base := fieldAt d 0x40 8
  let fl := (Flags.all (r.map flagsOf ++ done.map (·.flags))).or z.flags
  if base = 0 then s.entryWrite y.o y.n fl writes seen else
  s.entryWrite y.o y.n fl (writes ++ recs.mapIdx (fun i b => (base + 16 * (y.e.rows + i), b)))
    (seen ++ recordsSeen (base + 16 * y.e.rows) [0, 4] stats)

/-- An entry run forward. -/
def State.forwardEntry (s : State) (y : RunCtx) (freq : List Val) : EntryDone × State :=
  match s.queryRows y.o y.n y.ps freq y.e with
  | (.error f, s) => (.stopped (.inl f), s)
  | (.ok rows, s) =>
    let order := y.blockOrder rows
    match s.visitBlocks y (order.headD 0) order { rows := rows, flags := Flags.zero } with
    | (.error e, s) => (.stopped e, s)
    | (.ok z, s) => s.forwardWrite y z

end Sys2Proof.Machine
end

