-- ==== Sys2Proof/Machine/Backward.lean ====
section
/-! DEFINITION. The backward flow of AT.RUN, and the whole instruction (R303 to R305). -/

namespace Sys2Proof.Machine

/-! ### Backward (R303, R304) -/

/-- A dot product within R131, and whether it is invalid. -/
def State.dot (s : State) (a b : List Val) : (Val × Bool) × State :=
  let prods := List.zipWith Val.mul a b
  let ((v, i), s) := s.accumulate (((prods.length - 1 : Nat) : Rat) * pow2 (-24)) (prods.map (·.1))
  ((v, i || prods.any (·.2)), s)

/-- p_j of R303 from the record's MAX and SUM, and whether it is invalid (R142, R145). -/
def State.savedProb (s : State) (sc mx sm : Val) : (Val × Bool) × State :=
  let d := sc.add mx.negate
  let (e, s) := s.tableExp sc mx
  let q := e.div sm
  ((q.1, d.2 || q.2), s)

/-- A row of the backward pass: its query, dO, Δ, MAX and SUM. -/
structure BRow where
  pos : Nat
  q : List Val
  dO : List Val
  delta : Val
  max : Val
  sum : Val

/-- The backward rows of an entry, and whether a Δ is invalid. -/
def State.backRows (s : State) (y : RunCtx) (rows : List QRow) : Except MFault (List BRow × Bool) × State :=
  let d := y.o.desc
  let D := fieldAt d 8 2
  let fmt := pfC y.pv
  match s.readRows y.o y.n fmt D (fieldAt d 0x38 8) y.e.rows rows.length with
  | (.error f, s) => (.error f, s)
  | (.ok O, s) =>
  match s.readRows y.o y.n fmt D (fieldAt d 0x50 8) y.e.rows rows.length with
  | (.error f, s) => (.error f, s)
  | (.ok dO, s) =>
  match s.engRead y.o.core y.n (fieldAt d 0x40 8 + 16 * y.e.rows) (16 * rows.length) with
  | (.error f, s) => (.error f, s)
  | (.ok rec_, s) =>
    let (l, s) := (rows.mapIdx (fun i r => (i, r))).foldl (fun (a : (List BRow × Bool) × State) ir =>
      let ((l, inv), s) := a
      let (i, r) := ir
      let ((dl, iv), s) := s.dot (dO.getD i []) (O.getD i [])
      ((l ++ [{ pos := r.pos, q := r.q, dO := dO.getD i [], delta := dl, max := f32At rec_ (16 * i),
                sum := f32At rec_ (16 * i + 4) }], inv || iv), s)) (([], false), s)
    (.ok l, s)

/-- For one key: (p, dS) of every row, 0 where the mask excludes it; and whether one is invalid (R303). -/
def State.backKey (s : State) (y : RunCtx) (k : CacheRow) : List BRow → (List (Val × Val) × Bool) × State
  | [] => (([], false), s)
  | r :: l =>
    let ((x, iv), s) :=
      if !y.mask r.pos k.pos then (((Val.zero, Val.zero), false), s) else
      let ((sc, a), s) := s.score y.sm r.q k
      let ((p, b), s) := s.savedProb sc.score r.max r.sum
      let ((dv, c), s) := s.dot r.dO k.val
      let ((t, d), s) := s.accumulate (pow2 (-24)) [dv, r.delta.negate]
      let g := p.mul t
      (((p, g.1), a || b || c || d || g.2), s)
    let ((t, jv), s) := s.backKey y k l
    ((x :: t, iv || jv), s)

/-- Every key of an entry. -/
def State.backKeys (s : State) (y : RunCtx) (rows : List BRow) : List CacheRow → (List (List (Val × Val)) × Bool) × State
  | [] => (([], false), s)
  | k :: l =>
    let ((x, i), s) := s.backKey y k rows
    let ((t, j), s) := s.backKeys y rows l
    ((x :: t, i || j), s)

/-- `scale` × Σ w_i × row_i within R131, over `D` elements, and whether one is invalid. -/
def State.weighted (s : State) (D : Nat) (ws : List Val) (rows : List (List Val)) (scale : Rat) : (List Val × Bool) × State :=
  (List.range D).foldl (fun (a : (List Val × Bool) × State) d =>
    let ((l, inv), s) := a
    let ((v, i), s) := s.dot ws (rows.map (fun (r : List Val) => r.getD d .zero))
    ((l ++ [(v.mul (Val.ofRat scale)).1], inv || i), s)) (([], false), s)

/-- A gradient row: weighted, and rotated back at a position where the instruction asks for it (R304). -/
def State.gradRow (s : State) (y : RunCtx) (freq : List Val) (pos : Nat) (ws : List Val) (rows : List (List Val)) :
    (List Val × Bool) × State :=
  let d := y.o.desc
  let ((g, i), s) := s.weighted (fieldAt d 8 2) ws rows y.sm
  let ((g, j), s) := s.rotateRow (ropeMode (bitOf (fieldAt d 1 1) 1) (fieldAt d 0xB 1)) (fieldAt d 0x12 2) freq pos true g
  ((g, i || j), s)

/-- Blocks read one after another, each counted (R304, R308). -/
def State.readBlocks (s : State) (y : RunCtx) (rows : List QRow) : List Nat → Except KvStop (List CacheRow) × State
  | [] => (.ok [], s)
  | b :: l =>
    match s.readBlock y.o y.n y.q y.e.seq y.strip b (pfA y.ps) with
    | (.error e, s) => (.error e, s)
    | (.ok block, s) =>
      let used := block.filter (fun k => rows.any (fun (r : QRow) => y.mask r.pos k.pos))
      match (s.countBlock y.o.core used).readBlocks y rows l with
      | (.error e, s) => (.error e, s)
      | (.ok t, s) => (.ok (used ++ t), s)

/-- The gradient rows of an entry: dQ for each query row, dK and dV for each position from KSTART to KLEN − 1; and whether one is
invalid (R303). -/
def State.gradients (s : State) (y : RunCtx) (freq : List Val) (rows : List BRow) (keys : List CacheRow) :
    (List (List Val) × List (List Val) × List (List Val) × Bool) × State :=
  let ((w, i0), s) := s.backKeys y rows keys
  let ((dq, i1), s) := (rows.mapIdx (fun i r => (i, r))).foldl (fun (a : (List (List Val) × Bool) × State) ir =>
    let ((l, inv), s) := a
    let ((g, i), s) := s.gradRow y freq ir.2.pos (w.map (fun t => (t.getD ir.1 (.zero, .zero)).2)) (keys.map (·.key))
    ((l ++ [g], inv || i), s)) (([], false), s)
  let ((dkv, i2), s) := (List.range (y.e.klen - y.e.kstart)).foldl (fun (a : (List (List Val × List Val) × Bool) × State) i =>
    let ((l, inv), s) := a
    let pos := y.e.kstart + i
    let t := ((keys.zip w).find? (fun p => p.1.pos == pos)).map (·.2) |>.getD []
    let ((gk, i), s) := s.gradRow y freq pos (t.map (·.2)) (rows.map (·.q))
    let ((gv, j), s) := s.weighted (fieldAt y.o.desc 8 2) (t.map (·.1)) (rows.map (·.dO)) 1
    ((l ++ [(gk, gv)], inv || i || j), s)) (([], false), s)
  ((dq, dkv.map (·.1), dkv.map (·.2), i0 || i1 || i2), s)

/-- An entry run backward (R303, R304): gradients rounded stochastically from the MXE generator. -/
def State.backwardEntry (s : State) (y : RunCtx) (freq : List Val) : EntryDone × State :=
  let d := y.o.desc
  let fmt := pfC y.pv
  match s.queryRows y.o y.n y.ps freq y.e with
  | (.error f, s) => (.stopped (.inl f), s)
  | (.ok qrows, s) =>
  match s.backRows y qrows with
  | (.error f, s) => (.stopped (.inl f), s)
  | (.ok (rows, bad), s) =>
  match s.readBlocks y qrows (y.blockOrder qrows) with
  | (.error e, s) => (.stopped e, s)
  | (.ok used, s) =>
    let ((dq, dk, dv, inv), s) := s.gradients y freq rows used
    let (rq, s) := s.roundLists y.o.core fmt true (pfSat y.pv) dq
    let (rk, s) := s.roundLists y.o.core fmt true (pfSat y.pv) dk
    let (rv, s) := s.roundLists y.o.core fmt true (pfSat y.pv) dv
    let (w1, s1) := rowsOutAt (fieldAt d 0x58 8) y.e.rows fmt dq rq
    let (w2, s2) := rowsOutAt (fieldAt d 0x60 8) y.e.keys fmt dk rk
    let (w3, s3) := rowsOutAt (fieldAt d 0x68 8) y.e.keys fmt dv rv
    let fl := Flags.all ((rq ++ rk ++ rv).map flagsOf ++ used.map (·.flags))
    let fl := if bad || inv || qrows.any (·.inv) then fl.or Flags.invalid else fl
    s.entryWrite y.o y.n fl (w1 ++ w2 ++ w3) (s1 ++ s2 ++ s3)

/-! ### The whole instruction -/

/-- The cause that ends an AT.RUN at an entry, 0 for none (R292, R295). -/
def runCause (q : Seq) (d : List Byte) (ps pv : Nat) (e : RunEntry) : Nat :=
  if q.d ≠ fieldAt d 8 2 ∨ q.kfmt ≠ pfB ps ∨ q.vfmt ≠ pfB pv ∨ q.hkv ≤ fieldAt d 0xE 2 ∨ q.layers ≤ fieldAt d 0xC 2 then kvLayout
  else if q.high < e.klen ∨ e.kstart % 32 ≠ 0 ∨ e.klen ≤ e.kstart then kvRange
  else 0

/-- One entry of a run: the cause that stops it, or its forward or backward computation. -/
def State.runEntry (s : State) (o : EngOp) (n : Nat) (freq : List Val) (e : RunEntry) : EntryDone × State :=
  let q := s.seq n e.seq
  let ps := o.aux.getD 1 0
  let pv := o.aux.getD 2 0
  let cause := runCause q o.desc ps pv e
  if cause ≠ 0 then (.stopped (.inr cause), s) else
  let y : RunCtx := { o := o, n := n, ps := ps, pv := pv, q := q, e := e,
                      strip := fieldAt o.desc 0xC 2 * q.hkv + fieldAt o.desc 0xE 2 }
  if bitOf (fieldAt o.desc 1 1) 0 then s.backwardEntry y freq else s.forwardEntry y freq

/-- Entries run one after another, up to what stops the instruction. -/
def State.runEach (s : State) (o : EngOp) (n : Nat) (freq : List Val) : List RunEntry → EntryDone × State
  | [] => ({ stop := none, flags := Flags.zero, seen := [] }, s)
  | e :: l =>
    let (x, s) := s.runEntry o n freq e
    if x.stop.isSome then (x, s) else
    let (y, s) := s.runEach o n freq l
    ({ stop := y.stop, flags := x.flags.or y.flags, seen := x.seen ++ y.seen }, s)

/-- The counters of the steps of an AT.RUN; its waits, its lane cycles, its function results, the grants of the SFU and the slot that
holds the exponential table are open (R237, R247, R254, R268, R308). -/
def State.runCount (s : State) (c : Nat) : State :=
  let (a, s) := s.draw (2 ^ 32)
  let s := s.bump64 ATU_STALL_LO_COUNT ATU_STALL_HI_COUNT a c
  let (b, s) := s.draw (2 ^ 32)
  let s := s.bump64 VXE_ATU_LO_COUNT VXE_ATU_HI_COUNT b c
  let (k, s) := s.draw (2 ^ 32)
  let s := s.bump64 SFU_RESULTS_LO_COUNT SFU_RESULTS_HI_COUNT k c
  if k = 0 then s else
  let (w, s) := s.draw (2 ^ 32)
  let s := s.bump64 SFU_WAIT_LO_COUNT SFU_WAIT_HI_COUNT w c
  let (g, s) := s.draw 4
  let (t, s) := s.draw 512
  (s.fset SFU_STATUS_LAST_GRANT g c).fset SFU_STATUS_SLOT t c

/-- The entries of a run: command decode has put their list after the descriptor. -/
def runListed (o : EngOp) : List RunEntry := runEntries (o.desc.drop 128) (fieldAt o.desc 0xA 1) (fieldAt o.desc 0x10 2)

/-- The first `k` entries of a run, with its flags, its watch and its counters; what stopped it is answered (R296, R303). -/
def State.runFirst (s : State) (o : EngOp) (k : Nat) : (Option KvStop × Flags) × State :=
  let n := s.coreChamber o.core
  let d := o.desc
  match s.readFreq o n (ropeMode (bitOf (fieldAt d 1 1) 1) (fieldAt d 0xB 1)) (fieldAt d 0x12 2) (fieldAt d 0x48 8) with
  | (.error f, s) => ((some (.inl f), Flags.zero), s)
  | (.ok freq, s) =>
    let (x, s) := s.runEach o n freq ((runListed o).take k)
    let s := s.watch o.core (bitOf (fieldAt d 1 1) 0 || pfRnd (o.aux.getD 2 0)) x.seen
    ((x.stop, x.flags), (s.raise .atu o.core o.strand x.flags).runCount o.core)

/-- An AT.RUN at the head of its queue (R274, R296, R303). -/
def State.attendRun (s : State) (o : EngOp) : State :=
  match s.runFirst o (runListed o).length with
  | ((some e, _), s) => s.atStopped o e
  | ((none, fl), s) => s.atStatus o fl

/-- An aborted run stopped at a chunk boundary, which one being open: entries that it has finished stay written (R305). -/
def State.attendStop (s : State) (o : EngOp) : State :=
  let (k, s) := s.draw ((runListed o).length + 1)
  if k = 0 then s else (s.runFirst o k).2

end Sys2Proof.Machine
end

