-- ==== Sys2Proof/Machine/AtuQueue.lean ====
section
/-! DEFINITION. The ATU's queue: the issue of its three instructions, command decode with its references, completion and aborts (R271 to
R274, R284, R291 to R296, R305, R306). -/

namespace Sys2Proof.Machine

/-! ### Common decode (R293, R295) -/

/-- The cache formats' scale rule: e8s with group 32 for a narrow format, none for a 16-bit one (R295). -/
def kvScaleOk (fmt scale group : Nat) : Bool :=
  if elemBits fmt < 16 then scale == 1 && group == 0 else scale == 0

/-- The profile word of a format slot. -/
def State.profileOf (s : State) (n slot p : Nat) : Nat :=
  match s.slotContent n slot with
  | some b => if slotKind slot == 3 && p < fieldAt b 1 1 then profileAt b p else 0
  | none => 0

/-- What R295 asks of both profiles. -/
def kvProfilesOk (ps pv : Nat) : Bool :=
  pfValid ps && pfValid pv && kvScaleOk (pfB ps) (pfBScale ps) (pfBGroup ps) && kvScaleOk (pfB pv) (pfBScale pv) (pfBGroup pv) &&
  pfA pv == cF16 && !pfSparse ps && !pfSparse pv && !pfAComp ps && !pfAComp pv

/-- The rotary fields: mode, dimensions and the address of the frequencies, checked where a rotation is asked for. -/
def ropeOk (on : Bool) (rope dims d va : Nat) : Bool :=
  rope ≤ 2 && (!on || rope == 0 || (dims % 2 == 0 && 2 ≤ dims && dims ≤ d && baseOk va))

/-- The permitted query and key pairs (R293). -/
def pairOk (ps : Nat) : Bool :=
  let a := pfA ps
  let b := pfB ps
  let narrow := [cI4, cF4].contains b
  if a == cF16 || a == cBf16 then pfAScale ps == 0 && (b == a || [cI8, cF8e4, cF8e5].contains b || narrow)
  else (a == cF8e4 || a == cF8e5) && (pfAScale ps == 0 || (pfAScale ps == 1 && pfAGroup ps == 0)) && (b == a || narrow)

/-- What command decode asks of an AT.APPEND (R284, R293, R295); a D that no sequence has fails R285. -/
def State.appendOk (s : State) (n : Nat) (d : List Byte) : Bool :=
  let D := fieldAt d 8 2
  let slot := fieldAt d 2 2
  fieldAt d 0 1 == 3 && fieldAt d 1 1 &&& 0xFD == 0 && slotKind slot == 3 && slot < 0x200 &&
  kvProfilesOk (s.profileOf n slot (fieldAt d 4 1)) (s.profileOf n slot (fieldAt d 5 1)) && pairOk (s.profileOf n slot (fieldAt d 4 1)) &&
  [cF16, cBf16, cF32].contains (fieldAt d 6 1) &&
  ropeOk (bitOf (fieldAt d 1 1) 1) (fieldAt d 7 1) (fieldAt d 0xE 2) D (fieldAt d 0x28 8) &&
  1 ≤ fieldAt d 0xC 2 && fieldAt d 0xC 2 ≤ 512 &&
  baseOk (fieldAt d 0x10 8) && baseOk (fieldAt d 0x18 8) && baseOk (fieldAt d 0x20 8) && zeroAt d 0x30 80

/-- What command decode asks of an AT.RUN (R291, R293, R295); a D that no sequence has fails R295's layout. -/
def State.runOk (s : State) (n : Nat) (d : List Byte) : Bool :=
  let D := fieldAt d 8 2
  let slot := fieldAt d 2 2
  let back := bitOf (fieldAt d 1 1) 0
  let ps := s.profileOf n slot (fieldAt d 4 1)
  let pv := s.profileOf n slot (fieldAt d 5 1)
  let sm := f32At d 0x18
  let eps := fieldAt d 7 1
  fieldAt d 0 1 == 2 && fieldAt d 1 1 < 4 && slotKind slot == 3 && slot < 0x200 && kvProfilesOk ps pv && pairOk ps &&
  fieldAt d 6 1 ≤ 3 && (eps == 0 || (8 ≤ eps && eps ≤ 24)) &&
  1 ≤ fieldAt d 0xA 1 && fieldAt d 0xA 1 ≤ 16 &&
  ropeOk (bitOf (fieldAt d 1 1) 1) (fieldAt d 0xB 1) (fieldAt d 0x12 2) D (fieldAt d 0x48 8) &&
  1 ≤ fieldAt d 0x10 2 && fieldAt d 0x10 2 ≤ 512 && sm.isFin && !sm.neg && !sm.isZero && zeroAt d 0x1C 4 && zeroAt d 0x70 16 &&
  baseOk (fieldAt d 0x20 8) && baseOk (fieldAt d 0x28 8) && (pfAScale ps == 0 || baseOk (fieldAt d 0x30 8)) &&
  baseOk (fieldAt d 0x38 8) && baseOk (fieldAt d 0x40 8) &&
  (!back || (!isPair (pfC pv) && baseOk (fieldAt d 0x50 8) && baseOk (fieldAt d 0x58 8) && baseOk (fieldAt d 0x60 8) &&
    baseOk (fieldAt d 0x68 8)))

/-! ### Command decode (R177, R181, R274, R306) -/

def isSeq (o : EngOp) : Bool := opcodeOf o.word == 0x8A
def isAppend (o : EngOp) : Bool := opcodeOf o.word == 0x89

/-- What command decode asks of an AT.SEQ (R272, R273). -/
def seqOk (d : List Byte) : Bool := fieldAt d 0 1 == 4 && sqOp d < 4 && zeroAt d 0x1A 38 && (sqOp d != 0 || openOk d)

/-- Whether a sequence is OPEN, an append of it suspended or not, under a generation (R274). -/
def State.seqLive (s : State) (n id gen : Nat) : Bool :=
  let q := s.seq n id
  q.state == 1 && q.gen == gen

/-- The list of an AT.RUN or AT.APPEND: its address, and the bytes of an entry. -/
def listOf (o : EngOp) : Nat × Nat := if isAppend o then (fieldAt o.desc 0x10 8, 16) else (fieldAt o.desc 0x20 8, 32)

/-- Whether the entries of a list are well formed (R284, R291). -/
def listOk (o : EngOp) (b : List Byte) : Bool :=
  if isAppend o then
    (appEntries b (fieldAt o.desc 0xC 2)).all (fun e => 1 ≤ e.count && e.count ≤ 4096) &&
    (List.range (fieldAt o.desc 0xC 2)).all (fun i => zeroAt b (16 * i + 12) 4)
  else
    let g := fieldAt o.desc 0xA 1
    let l := runEntries b g (fieldAt o.desc 0x10 2)
    l.all (fun e => 1 ≤ e.qcount && e.qcount ≤ 512) && (l.map (fun e => e.qcount * g)).sum ≤ 4096 &&
    (List.range l.length).all (fun i => zeroAt b (32 * i + 20) 12)

/-- The sequences of a list and the generations that its entries name. -/
def listSeqs (o : EngOp) (b : List Byte) : List (Nat × Nat) :=
  if isAppend o then (appEntries b (fieldAt o.desc 0xC 2)).map (fun e => (e.seq, e.gen))
  else (runEntries b (fieldAt o.desc 0xA 1) (fieldAt o.desc 0x10 2)).map (fun e => (e.seq, e.gen))

/-- Command decode of an AT.RUN or AT.APPEND: its item takes a reference on FMT_SLOT and, entry by entry, on its sequences (R177, R274,
R295, R306). -/
def State.listDecode (s : State) (o : EngOp) : State :=
  let n := s.coreChamber o.core
  let d := o.desc
  let slot := fieldAt d 2 2
  if !(if isAppend o then s.appendOk n d else s.runOk n d) then s.engFailed o cFormat 0 else
  let count := if isAppend o then fieldAt d 0xC 2 else fieldAt d 0x10 2
  match s.engRead o.core n (listOf o).1 ((listOf o).2 * count) with
  | (.error f, s) => s.engFailed o f.code f.cause
  | (.ok b, s) =>
    if !listOk o b then s.engFailed o cFormat 0
    else if !(listSeqs o b).all (fun e => s.seqLive n e.1 e.2) then s.engFailed o cKvCache kvStale
    else
      ((s.take o [slot]).modItem o.item (fun i => { i with seqRefs := i.seqRefs ++ (listSeqs o b).map (fun e => seqKey n e.1) })).modEng
        o.id (fun o => { o with desc := d ++ b, aux := [0, s.profileOf n slot (fieldAt d 4 1), s.profileOf n slot (fieldAt d 5 1)] })

/-- Command decode of the ATU. An AT.RUN or AT.APPEND that stands behind an AT.SEQ of its queue is decoded once that is over: else its
reference could hold the very operation before it (R177, R306; log entry 116). -/
def atDecoder : Decoder where
  names _ o := if isSeq o then [] else [fieldAt o.desc 2 2]
  waits s o := !isSeq o && s.engOps.any (fun p => p.core == o.core && p.eng == .atu && p.id < o.id && isSeq p)
  decode s o :=
    if !isSeq o then
      s.remotely (.eng o.id) o.item.queue (fun f s => s.engFailed o f.code f.cause) (fun s => s.listDecode o)
    else if !seqOk o.desc then s.engFailed o cFormat 0
    else (s.take o []).seqStart o.core

/-- Core `c`'s ATU queue decoded and run as far as nothing but AT.SEQ stands at its head. -/
def State.atAdvance (s : State) (c : Nat) : State :=
  (s.seqStart c).decodePass atDecoder (fun o => o.core == c && o.eng == .atu)

/-! ### Issue (R205, R206) -/

/-- The word of an ATU instruction is well formed (R205). -/
def atWordOk (w : Word64) : Bool := bitsOf w.toNat 52 21 == 0 && bitsOf w.toNat 20 0 % 128 == 0

/-- The issue of an ATU instruction: its descriptor is copied, and it joins the ATU's queue; `skip` tells that another row stands for the
word (R205, R206, R271, R295). -/
def State.atIssue (s : State) (c t op len : Nat) (skip : List Byte → Bool) : State :=
  s.issue c t (fun w => opcodeOf w == op) fun w x s0 =>
    s0.needing c t (regMask (sregOf w)) (
      if !atWordOk w then (s0.atEnded c t cFormat 0).failStrand c t cFormat 0
      else if !s0.engineRoom c Engine.atu.index then s0.stall c t (.engine Engine.atu.index)
      else s0.describe c t (bitsOf w.toNat 20 0) len (fun f s => s.atEnded c t f.code f.cause) fun d s =>
        if skip d then s0 else s.accept c t x w .atu (sregOf w) d [0] atDecoder)

/-- AT_APPEND (R284, R286). -/
def execAtAppend (c t : Nat) (s : State) : Result := .next (s.atIssue c t 0x89 128 (fun _ => false))

/-- AT_RUN (R291, R296, R303). -/
def execAtRun (c t : Nat) (s : State) : Result := .next (s.atIssue c t 0x88 128 (fun _ => false))

/-- AT.SEQ with operation `op` issued (R271 to R273). A descriptor whose OP is none of the four is rejected under any of the four rows. -/
def State.seqIssue (s : State) (c t op : Nat) : State := s.atIssue c t 0x8A 64 (fun d => sqOp d < 4 && sqOp d != op)

/-- OPEN: AT.SEQ with OP 0 (R271). -/
def execOpen (c t : Nat) (s : State) : Result := .next (s.seqIssue c t 0)

/-- COMMIT: AT.SEQ with OP 1 (R271). -/
def execCommit (c t : Nat) (s : State) : Result := .next (s.seqIssue c t 1)

/-- TRUNCATE: AT.SEQ with OP 2 (R271). -/
def execTruncate (c t : Nat) (s : State) : Result := .next (s.seqIssue c t 2)

/-- RELEASE: AT.SEQ with OP 3 (R271). -/
def execRelease (c t : Nat) (s : State) : Result := .next (s.seqIssue c t 3)

/-! ### Waits, completion and aborts -/

/-- OPEN_RETRY: the waiting OPENs of chamber `n` are judged again, oldest first (R555). -/
def execOpenRetry (n : Nat) (s : State) : Result :=
  .next ((s.engOps.filter (fun (o : EngOp) => isSeq o && o.eng == .atu && sqOp o.desc == 0 &&
      o.aux == [1] && !o.aborted && s.coreChamber o.core == n)).foldl (fun s (o : EngOp) => (s.seqOpen o).atAdvance o.core) s)

/-- SEQ_OP_PROCEED: the waiting TRUNCATE or RELEASE of core `c` proceeds once the sequence's reference count is 0 (R306). -/
def execSeqOpProceed (c : Nat) (s : State) : Result :=
  .next (match s.engHead c .atu with
    | none => s
    | some o =>
      let n := s.coreChamber c
      if isSeq o && 2 ≤ sqOp o.desc && o.aux == [1] && !o.aborted && s.seqRefs n (sqSeq o.desc) == 0 then
        (s.seqEnd o).atAdvance c else s)

/-- The head of core `c`'s ATU queue run to its status word (R290, R296). -/
def State.atRunHead (s : State) (c : Nat) : State :=
  match s.engHead c .atu with
  | none => s
  | some o =>
    if o.aborted || o.status.isSome || o.aux.headD 0 == 1 || !s.engReady o then s
    else if isSeq o then s.seqRun o
    else s.remotely (.eng o.id) o.item.queue (fun f s => s.engFailed o f.code f.cause)
      (fun s => if isAppend o then s.appendRun o else s.attendRun o)

/-- ATU_COMPLETE: what the head of core `c`'s ATU queue still awaited is decoded, the head runs to its status word, then an AT.SEQ that
has become the head (R290, R296). -/
def execAtuComplete (c : Nat) (s : State) : Result :=
  .next (((s.decodePass atDecoder (fun o => o.core == c && o.eng == .atu)).atRunHead c).atAdvance c).deliver

/-- ATU_ABORT_ACK: an aborted ATU instruction has reached its boundary; those of its item in the queue are gone (R305). -/
def execAtuAbortAck (c : Nat) (s : State) : Result :=
  let s := match s.engHead c .atu with
    | some o =>
      if o.aborted && !isSeq o && o.aux.headD 0 == 0 && o.status.isNone && s.engReady o then
        s.unlessRemote (.eng o.id) (fun s => if isAppend o then s.appendStop o else s.attendStop o)
      else s
    | none => s
  let (k, s) := s.ackAbort c .atu
  .next (if k = 0 then s else ((s.bump ATU_ABORTS_COUNT k c).atAdvance c).deliver)

end Sys2Proof.Machine
end

