-- ==== Sys2Proof/Machine/Routing.lean ====
section
/-! DEFINITION. Expert Routing and Exchange: RT.RUN, XC.RECV and XC.RETURN, the bias loop, cancellation and abort (R310 to
R348). -/

namespace Sys2Proof.Machine

/-! ### Scores (R315 to R317) -/

/-- `a` ranks before `b` by score, then by the lower index (R317). -/
def ranksBefore (a b : Nat × Val) : Bool := b.2.lt a.2 || (a.2.eq b.2 && a.1 < b.1)

/-- Insertion of an entry into a ranked list. -/
def rankInsert (a : Nat × Val) : List (Nat × Val) → List (Nat × Val)
  | [] => [a]
  | b :: l => if ranksBefore a b then a :: b :: l else b :: rankInsert a l

/-- Entries in the order of R317; NaN scores are never selected. -/
def ranked (l : List (Nat × Val)) : List (Nat × Val) := (l.filter (fun e => !e.2.isNan)).foldr rankInsert []

/-- The scores of one token (R315), with the flags they set. -/
def State.tokenScores (s : State) (b : List Byte) (T : FnTable) (logits : List Val) : (List Val × Flags) × State :=
  match rpScoreFn b with
  | 0 =>
    let (codes, f) := roundRne cF32 false logits
    ((codes.map (decodeVal cF32), f), s)
  | 1 =>
    let (z, s) := s.smaxRow T logits
    let (codes, f) := roundRne cF32 false z.out
    ((codes.map (decodeVal cF32), Flags.all [f, z.vfl, z.sfl]), s)
  | _ =>
    let r := logits.map T.eval
    ((r.map (·.1), Flags.all (r.map (·.2))), s)

/-- The scores of all tokens. -/
def State.allScores (s : State) (b : List Byte) (T : FnTable) : List (List Val) → (List (List Val) × Flags) × State
  | [] => (([], Flags.zero), s)
  | x :: xs =>
    let ((v, f), s) := s.tokenScores b T x
    let ((vs, g), s) := s.allScores b T xs
    ((v :: vs, f.or g), s)

/-- Biased scores of a token, with the flags of the additions (R315). -/
def biased (bias scores : List Val) : List Val × Flags :=
  let r := List.zipWith (fun x y => x.add y) scores bias
  let (codes, f) := roundRne cF32 false (r.map (·.1))
  (codes.map (decodeVal cF32), if r.any (·.2) then f.or Flags.invalid else f)

/-! ### Selection (R322, R323) -/

/-- The experts of a token in threshold mode, before the capacity (R322 steps 1 to 3). -/
def thresholdPick (b : List Byte) (bs : List Val) : List Nat :=
  let r := ranked ((List.range bs.length).zip bs)
  let excess := (r.filter (fun e => !e.2.lt (rpThreshold b) && !(rpThreshold b).isNan)).length
  (r.take (min (rpKmax b) (max (rpKmin b) excess))).map (·.1)

/-- The best `cap` of the tokens that chose expert `e` (R322 step 4). -/
def capKeep (all : List (List Val)) (cap e : Nat) (tokens : List Nat) : List Nat :=
  if cap = 0 then tokens
  else ((ranked (tokens.map (fun t => (t, (all.getD t []).getD e .nan)))).take cap).map (·.1)

/-- The kept experts of each token, in the order of R317, and how many assignments were dropped (R322, R323). -/
def selection (b : List Byte) (all : List (List Val)) : List (List Nat) × Nat :=
  let tokens := List.range all.length
  let score := fun (t e : Nat) => (all.getD t []).getD e .nan
  let order := fun (t : Nat) (es : List Nat) => (ranked (es.map (fun e => (e, score t e)))).map (·.1)
  if rpMode b = 0 then
    let chosen := all.map (thresholdPick b)
    let keep := (List.range (rpExperts b)).map (fun e =>
      capKeep all (rpCapacity b) e (tokens.filter (fun t => (chosen.getD t []).contains e)))
    let kept := tokens.map (fun t => (chosen.getD t []).filter (fun e => (keep.getD e []).contains t))
    (kept, (chosen.map List.length).sum - (kept.map List.length).sum)
  else
    let takes := (List.range (rpExperts b)).map (fun e =>
      ((ranked (tokens.map (fun t => (t, score t e)))).take (rpCapacity b)).map (·.1))
    let chosen := tokens.map (fun t => order t ((List.range (rpExperts b)).filter (fun e => (takes.getD e []).contains t)))
    let kept := chosen.map (fun l => l.take (rpKmax b))
    (kept, (chosen.map List.length).sum - (kept.map List.length).sum)

/-- The sum of some scores, exact, and whether it is invalid (R142, R324). -/
def scoreSum (l : List Val) : Val × Bool :=
  l.foldl (fun (a : Val × Bool) v =>
    let (x, i) := a.1.add v
    (x, a.2 || i)) (Val.zero, false)

/-- The combine weights of a token's kept experts, from the unbiased scores, each exact before its one rounding, with the flags they set
(R154, R316, R324; log entry 117). -/
def combineWeights (b : List Byte) (scores : List Val) (kept : List Nat) : List Nat × Flags :=
  let ss := kept.map (fun e => scores.getD e .nan)
  let (total, i) := if rpNorm b then scoreSum ss else (Val.zero, false)
  if rpNorm b && total.isZero then (ss.map (fun _ => 0), invalidIf i) else
  let ws := ss.map (fun v =>
    let (x, j) := (rpWeightScale b).mul v
    let (y, k) := if rpNorm b then x.div total else (x, false)
    let (c, f) := fmtF32.encode false .rne y
    (c, f.or (invalidIf (j || k))))
  (ws.map (·.1), Flags.all (invalidIf i :: ws.map (·.2)))

/-- A selection record: 16 entries of 8 B; the weight of an unused entry is open (R325). -/
def State.selRecord (s : State) (l : List Assign) : List Byte × State :=
  (List.range 16).foldl (fun (a : List Byte × State) i =>
    match l[i]? with
    | some x =>
      (a.1 ++ leBytes 2 x.expert ++ leBytes 1 (b2n (x.device != a.2.deviceId)) ++ leBytes 1 0 ++ leBytes 4 x.weight.toNat, a.2)
    | none =>
      let (w, s) := a.2.drawBytes 4
      (a.1 ++ leBytes 2 0xFFFF ++ leBytes 2 0 ++ w, s)) ([], s)

/-! ### RT.RUN (R326 to R331) -/

/-- The checks of R326 and R327. -/
def State.rtOk (s : State) (n : Nat) (lc : Bool) (d : List Byte) : Bool :=
  let p := fieldAt d 2 1
  let b := s.rprofile n p
  let t := fieldAt d 4 2
  let acc := fieldAt d 8 4
  let addr := fun (o : Nat) => baseOk (fieldAt d o 8)
  fieldAt d 0 1 == 5 && fieldAt d 1 1 ≤ 1 && s.rpOk n p && [cF16, cBf16, cF32].contains (fieldAt d 3 1) &&
  1 ≤ t && t ≤ 8192 && acc % 64 == 0 && addr 0x10 && addr 0x18 && addr 0x20 && addr 0x28 && addr 0x30 &&
  zeroAt d 0x38 72 &&
  !(lc && fieldAt d 1 1 == 0 && 8_388_608 < acc + t * rpHidden b * 4) &&
  (if rpMode b = 0 then t * rpKmax b ≤ 65_536 else rpExperts b * min (rpCapacity b) t ≤ 65_536)

/-- The rows of a batch sent on in order, until one meets a cause of R330 (R328, R330). -/
def State.sendRows (s : State) (b : Batch) (o : EngOp) (tokens width : Nat) : List Assign → State
  | [] => s
  | a :: l =>
    match s.batch b.gallery b.epoch with
    | none => s
    | some x =>
      if x.cause.isSome then s else
      match s.readVa (reqRte b.gallery) b.chamber (tokens + a.token * width) width with
      | (.error f, s) => s.rtFailed o f.code f.cause
      | (.ok row, s) => (s.sendRow x o a row).sendRows b o tokens width l

/-- The scores, the biased scores and the kept experts of a batch from its logits, with the flags and counts they give. -/
structure Selected where
  sel : List Assign
  flags : Flags
  dropped : Nat
  nan : Nat

/-- Scores, selection and weights of the `t` tokens of a batch, with map entries from `map` (R315 to R317, R322 to R324). -/
def State.select (s : State) (n p t : Nat) (map lg : List Byte) : Selected × State :=
  let rp := s.rprofile n p
  let E := rpExperts rp
  let lf := rpLogitFmt rp
  let stride := rowStride lf E
  let logits := (List.range t).map (fun i => rowVals lf E (slice lg (stride * i) stride))
  let T := parseFn ((s.slotContent n (rpFnSlot rp)).getD [])
  let ((sc, f1), s) := s.allScores rp T logits
  let bias := (List.range E).map (fun e => fmtBf16.decode (s.biasOf n p e))
  let bb := sc.map (biased bias)
  let (kept, dropped) := selection rp (bb.map (·.1))
  let ws := (List.range t).map (fun i => combineWeights rp (sc.getD i []) (kept.getD i []))
  let sel := (List.range t).flatMap (fun i =>
    let es := kept.getD i []
    (List.range es.length).map (fun k =>
      let e := es.getD k 0
      ({ token := i, k := k, expert := e, device := fieldAt map (4 * e) 2, localIdx := fieldAt map (4 * e + 2) 2,
         weight := BitVec.ofNat 32 ((ws.getD i ([], Flags.zero)).1.getD k 0), sent := false, returned := false,
         dropped := false } : Assign)))
  ({ sel := sel, flags := Flags.all (f1 :: bb.map (·.2) ++ ws.map (·.2)), dropped := dropped,
     nan := (bb.filter (fun e => e.1.any Val.isNan)).length }, s)

/-- The selection records of `t` tokens (R325). -/
def State.selRecords (s : State) (sel : List Assign) (t : Nat) : List Byte × State :=
  (List.range t).foldl (fun (a : List Byte × State) i =>
    let (x, s) := a.2.selRecord (sel.filter (fun e => e.token == i))
    (a.1 ++ x, s)) (([], s) : List Byte × State)

/-- The batch of instruction `o` with its assignments: its records are written, its accumulator zeroed where it has one, and its rows
and end markers sent (R325, R328, R329, R338). -/
def State.rtDispatch (s : State) (o : EngOp) (b : Batch) : State :=
  let d := o.desc
  let r := reqRte b.gallery
  let width := 2 * rpHidden (s.rprofile b.chamber b.profile)
  let write := fun (va : Nat) (bs : List Byte) (s : State) => s.writeVa r b.chamber (.eng o.id) o.item.queue va bs
  let (recs, s) := s.selRecords b.sel b.tokens
  match write (fieldAt d 0x20 8) recs s with
  | (some f, s) => s.rtFailed o f.code f.cause
  | (none, s) =>
    if b.selectOnly then s else
    let zeroed := if !b.lc then (none, s)
      else write (storeVa b.gallery (fieldAt d 8 4)) (List.replicate (b.tokens * width * 2) 0#8) s
    match zeroed with
    | (some f, s) => s.rtFailed o f.code f.cause
    | (none, s) => (s.sendRows b o (fieldAt d 0x18 8) width b.sel).sendMarks b.gallery b.epoch

/-- An RT.RUN begun: its epoch is written into its descriptor, its tokens are scored and selected, and its rows leave (R315 to R331). -/
def State.rtStart (s : State) (o : EngOp) (lc : Bool) : State :=
  let d := o.desc
  let g := o.core / 8
  let n := s.coreChamber o.core
  let r := reqRte g
  let p := fieldAt d 2 1
  let rp := s.rprofile n p
  let t := fieldAt d 4 2
  let epoch := s.nextRteEpoch g
  let s := s.takeEpoch g epoch
  let b : Batch :=
    { op := o.id, gallery := g, chamber := n, epoch := epoch, profile := p, round := fieldAt d 6 2, tokens := t, lc := lc,
      selectOnly := fieldAt d 1 1 == 1, sel := [], devices := [], marked := false, cause := none, flags := 0 }
  let s : State := { s with rte := { s.rte with batches := s.rte.batches ++ [b] } }
  match s.writeVa r n (.eng o.id) o.item.queue (scratchVa o.core (bitsOf o.word.toNat 20 0 + 0xC)) (leBytes 4 epoch) with
  | (some f, s) => s.rtFailed o f.code f.cause
  | (none, s) =>
  match s.readVa r n (rpEmap rp) (4 * rpExperts rp) with
  | (.error f, s) => s.rtFailed o f.code f.cause
  | (.ok map, s) =>
  let b := { b with devices := ((List.range (rpExperts rp)).map (fun e => fieldAt map (4 * e) 2)).eraseDups }
  let s := s.setBatch b
  match s.readVa r n (fieldAt d 0x10 8) (rowStride (rpLogitFmt rp) (rpExperts rp) * t) with
  | (.error f, s) => s.rtFailed o f.code f.cause
  | (.ok lg, s) =>
  let (x, s) := s.select n p t map lg
  let b := { b with sel := x.sel, flags := x.flags.bits }
  let s := (s.setBatch b).raise .rte g o.strand x.flags
  let s := s.bump64 RTE_ASSIGN_LO_COUNT RTE_ASSIGN_HI_COUNT x.sel.length g
  let s := (s.bump RTE_DROPPED_COUNT x.dropped g).bump RTE_NAN_TOKENS_COUNT x.nan g
  s.rtDispatch o b

/-! ### Command decode (R310, R313, R326, R334, R336, R337) -/

def isRtRun (o : EngOp) : Bool := opcodeOf o.word == 0x90

def xcRefused : Nat := 3

/-- What command decode asks of an XC.RECV or XC.RETURN (R313, R334, R336). -/
def State.xcOk (s : State) (o : EngOp) (n : Nat) : Bool :=
  let d := o.desc
  let recv := opcodeOf o.word == 0x91
  fieldAt d 0 1 == (if recv then 6 else 7) && fieldAt d 1 1 == 0 && fieldAt d 3 1 == 0 && s.rpOk n (fieldAt d 2 1) &&
  (fieldAt d 6 2 != 0) == recv && zeroAt d 0x10 48

/-- Whether the round of an exchange instruction may use its half: an XC.RECV needs it free or its own, an XC.RETURN its own (R337). -/
def State.xcMay (s : State) (o : EngOp) (n : Nat) : Bool :=
  let round := fieldAt o.desc 4 2
  match s.half n (fieldAt o.desc 2 1) (round % 2) with
  | some h => h.round == round
  | none => opcodeOf o.word == 0x91

/-- Command decode of an RT.RUN: one that it accepts begins (R177, R313, R326, R327). -/
def State.rtDecode (s : State) (o : EngOp) : State :=
  let n := s.coreChamber o.core
  let lc := s.queueClass o.item.queue == 0
  if !s.rtOk n lc o.desc then s.engFailed o cFormat 0 else
  let rp := s.rprofile n (fieldAt o.desc 2 1)
  (s.take o (if rpScoreFn rp = 0 then [] else [rpFnSlot rp])).rtStart o lc

/-- Command decode of an XC.RECV or XC.RETURN (R313, R337). -/
def State.xcDecode (s : State) (o : EngOp) : State :=
  let n := s.coreChamber o.core
  if !s.xcOk o n then s.engFailed o cFormat 0
  else if !s.xcMay o n then s.engFailed o cExchange xcRefused
  else s.take o []

/-- Batches of gallery `g` between decode and status write (R310). -/
def State.batchesOf (s : State) (g : Nat) : Nat := (s.rte.batches.filter (fun b => b.gallery == g)).length

/-- Command decode of a gallery's queue: an RT.RUN names its profile's table slot, and the 65th batch waits (R181, R310, R315). -/
def rtDecoder : Decoder where
  names s o :=
    let rp := s.rprofile (s.coreChamber o.core) (fieldAt o.desc 2 1)
    if isRtRun o && s.rpOk (s.coreChamber o.core) (fieldAt o.desc 2 1) && rpScoreFn rp != 0 then [rpFnSlot rp] else []
  waits s o := isRtRun o && 64 ≤ s.batchesOf (o.core / 8)
  decode s o :=
    if isRtRun o then
      s.remotely (.eng o.id) o.item.queue (fun f s => s.rtFailed o f.code f.cause) (fun s => s.rtDecode o)
    else s.xcDecode o

/-- Gallery `g`'s queue decoded as far as it can be. -/
def State.rtAdvance (s : State) (g : Nat) : State := s.decodePass rtDecoder (fun o => o.core / 8 == g && 4 ≤ o.eng.index)

/-- The issue shared by the routing and exchange instructions: the word is decoded, the descriptor of `len` bytes copied, and the
instruction joins its gallery's queue; `fail` records a word or a copy that fails (R205, R206, R310, R437). -/
def State.rtIssue (s : State) (c t op len : Nat) (eng : Engine) (fail : Nat → State → State) : State :=
  s.issue c t (fun w => opcodeOf w == op) fun w x s =>
    s.needing c t (regMask (sregOf w)) (
      if bitsOf w.toNat 52 21 != 0 || bitsOf w.toNat 20 0 % len != 0 then (fail cFormat s).failStrand c t cFormat 0
      else if !s.engineRoom c eng.index then s.stall c t (.engine eng.index)
      else s.describe c t (bitsOf w.toNat 20 0) len (fun f s => fail f.code s) fun d s =>
        (s.accept c t x w eng (sregOf w) d [] rtDecoder).deliver)

/-- RT_RUN: RT.RUN scores, selects, writes the selection records, and dispatches rows and end markers (R310 to R331). -/
def execRtRun (c t : Nat) (s : State) : Result :=
  .next (s.rtIssue c t 0x90 128 .rte (fun code s => s.rtEnded (c / 8) t code 0))

/-- XC_RECV: XC.RECV waits for a round; one whose half another round owns ends REFUSED (R313, R334, R337). -/
def execXcRecv (c t : Nat) (s : State) : Result :=
  .next (s.rtIssue c t 0x91 64 .xce (fun code s => s.rteFault (c / 8) t code 0))

/-- XC_RETURN: XC.RETURN sends a round's results; one whose round does not own its half ends REFUSED (R313, R336, R337). -/
def execXcReturn (c t : Nat) (s : State) : Result :=
  .next (s.rtIssue c t 0x92 64 .xce (fun code s => s.rteFault (c / 8) t code 0))

/-! ### Completion (R334, R336 to R342) -/

/-- The tokens of a batch without a kept entry, written as +0 (R340). -/
def State.emptyRows (s : State) (b : Batch) (o : EngOp) : List Nat → State
  | [] => s
  | t :: l =>
    if b.sel.any (fun a => a.token == t) then s.emptyRows b o l else
    match s.batch b.gallery b.epoch with
    | none => s
    | some _ => (s.writeOut b o t (List.replicate (rpHidden (s.rprofile b.chamber b.profile)) Val.zero)).emptyRows b o l

/-- Every kept entry of a batch has returned: its last output rows are written, and its status word follows (R340, R341). -/
def State.batchOver (s : State) (b : Batch) (o : EngOp) : State :=
  let s := if b.selectOnly then s else s.emptyRows b o (List.range b.tokens)
  match s.batch b.gallery b.epoch with
  | none => s
  | some b => s.engServed o (b.flags + cServed * 2 ^ 24)

/-- RT_RUN_COMPLETE: every kept entry of the batch with this epoch has returned, its last output rows are written, and its
status word follows; the gallery's queue then goes on (R310, R338 to R342). -/
def execRtRunComplete (g epoch : Nat) (s : State) : Result :=
  let complete := fun (b : Batch) => b.selectOnly || (b.marked && b.sel.all (fun a => a.returned))
  let s := match s.batch g epoch with
    | none => s
    | some b =>
      match s.engOp b.op with
      | none => s
      | some o => if o.aborted || o.status.isSome || !complete b then s else s.batchOver b o
  .next (s.rtAdvance g).deliver

/-- An exchange instruction of opcode `op` that may complete now. -/
def State.xcReady (s : State) (id op : Nat) : Option EngOp :=
  (s.engOp id).filter (fun o => opcodeOf o.word == op && o.eng == Engine.xce && o.decoded && !o.aborted && o.status.isNone)

/-- An XC.RECV whose round has SOURCES end markers and every row they announce writes its counts, then its status word, an acquire at
chamber scope; one whose half another round has claimed since ends REFUSED (R334, R337). -/
def State.xcRecv (s : State) (o : EngOp) : State :=
  let n := s.coreChamber o.core
  let p := fieldAt o.desc 2 1
  if !s.xcMay o n then s.engFailed o cExchange xcRefused else
  match s.half n p (fieldAt o.desc 4 2 % 2) with
  | none => s
  | some h =>
    if h.markers.length < fieldAt o.desc 6 2 || h.markers.any (fun m => h.rowsOf m.1 m.2.1 < m.2.2) then s else
    let counts := (List.range (rpLocalCount (s.rprofile n p))).flatMap (fun x => leBytes 4 (h.filledOf x))
    match s.writeVa (reqRte (o.core / 8)) n (.eng o.id) o.item.queue (fieldAt o.desc 8 8) counts with
    | (some f, s) => s.engFailed o f.code f.cause
    | (none, s) =>
      let s : State := { s with ms := s.ms.acquire o.core 2 }
      s.engServed o (statusWord cServed false Flags.zero)

/-- XC_RECV_COMPLETE: XC.RECV `id` completes (R334, R337). -/
def execXcRecvComplete (id : Nat) (s : State) : Result :=
  .next (match s.xcReady id 0x91 with
    | none => s
    | some o => ((s.xcRecv o).rtAdvance (o.core / 8)).deliver)

/-- The results of a half sent back, slot by slot, to the gallery that each tag names (R336). -/
def State.returnRows (s : State) (o : EngOp) (n : Nat) (rp : List Byte) (h : RxHalf) :
    List (Nat × Nat) → Option MFault × State
  | [] => (none, s)
  | (x, i) :: l =>
    let r := reqRte (o.core / 8)
    let rb := rpRowBytes rp
    match s.readVa r n (slotAddr rp h.parity x i) 64 with
    | (.error f, s) => (some f, s)
    | (.ok tag, s) =>
      match s.readVa r n (fieldAt o.desc 8 8 + (x * rpRxRows rp + i) * rb) (2 * rpHidden rp) with
      | (.error f, s) => (some f, s)
      | (.ok row, s) =>
        let inst := o.core / 64
        let s := s.bump64 XCE_RET_ROWS_LO_COUNT XCE_RET_ROWS_HI_COUNT 1 inst n
        let s :=
          if tagDevice tag = s.deviceId then
            (s.bump64 XCE_LOOPBACK_LO_COUNT XCE_LOOPBACK_HI_COUNT 1 inst n).resultIn n (tag ++ row)
          else
            (s.send { Packet.zero with
              type := ptResult, chamber := n, dst := tagDevice tag, src := s.deviceId,
              length := (64 + row.length) % 0x1_0000, stream := r.code, payload := tag ++ row }).2
        s.returnRows o n rp h l

/-- An XC.RETURN sends every filled slot's result, frees the half, and writes its status word; one whose round owns the half no more
sends and frees nothing (R336, R337). -/
def State.xcReturn (s : State) (o : EngOp) : State :=
  let n := s.coreChamber o.core
  let p := fieldAt o.desc 2 1
  let rp := s.rprofile n p
  if !s.xcMay o n then s.engFailed o cExchange xcRefused else
  match s.half n p (fieldAt o.desc 4 2 % 2) with
  | none => s
  | some h =>
    let slots := (List.range (rpLocalCount rp)).flatMap (fun x => (List.range (h.filledOf x)).map (fun i => (x, i)))
    match s.returnRows o n rp h slots with
    | (some f, s) => s.engFailed o f.code f.cause
    | (none, s) => (s.freeHalf h).engServed o (statusWord cServed false Flags.zero)

/-- Whether the XCE of XC.RETURN `o` serves another of its chamber before it, a best-effort one that has not aged (R549; log entry
133). -/
def State.xcBehind (s : State) (o : EngOp) : Bool :=
  let n := s.coreChamber o.core
  let first := fun (p : EngOp) => s.lcOrder n p.item.queue p.issuedAt
  !first o && s.engOps.any (fun p =>
    (s.xcReady p.id 0x92).isSome && p.core / 64 == o.core / 64 && s.coreChamber p.core == n && first p && s.xcMay p n &&
    !s.awaits (.eng p.id))

/-- XC_RETURN_COMPLETE: XC.RETURN `id` completes, with results that lie on other devices too (R336, R337, R443, R549). -/
def execXcReturnComplete (id : Nat) (s : State) : Result :=
  .next (match s.xcReady id 0x92 with
    | none => s
    | some o => if s.xcBehind o then s else
      ((s.remotely (.eng o.id) o.item.queue (fun f s => s.engFailed o f.code f.cause) (fun s => s.xcReturn o)).rtAdvance
        (o.core / 8)).deliver)

/-! ### The bias loop (R319 to R321) -/

/-- BIAS_WINDOW_CLOSE: the window of profile `p` of chamber `n` closes after BIAS_N counted batches; from the 64th counted
batch on, the loop moves every bias (R320, R348). -/
def execBiasWindowClose (n p : Nat) (s : State) : Result :=
  .next (if 16 ≤ n ∨ s.rpOk n p = false ∨ (s.loopOf n p).batches < rpBiasN (s.rprofile n p) then s else s.closeWindow n p)

/-- Whether a requester may write gallery `g`'s RTE_ instance: code of its chamber (R163, R347, R716). -/
def State.mayWriteRte (s : State) (r : Requester) (g : Nat) : Bool :=
  match r with
  | .core _ _ => s.mayWriteGallery r g
  | _ => false

/-- The bias that a requester's selectors name in an instance of gallery `g` written; a NaN is ignored (R319, R347). -/
def State.biasWrite (s : State) (r : Requester) (g value : Nat) : State :=
  match s.chamberOf g with
  | none => s
  | some n =>
    let p := bitsOf (s.sel r (regAddr RTE_PROF_SEL g 0)).toNat 4 0
    let e := bitsOf (s.sel r (regAddr RTE_EXP_SEL g 0)).toNat 9 0
    let b := s.rprofile n p
    if s.rpOk n p = false ∨ rpExperts b ≤ e ∨ (fmtBf16.decode (value % 2 ^ 16)).isNan = true then s
    else s.setBias n p e (clampBias b (value % 2 ^ 16))

/-- RTE_BIAS_WRITE: RTE_BIAS written in an instance of gallery `g` (R319, R347). -/
def execRteBiasWrite (r : Requester) (g value : Nat) (s : State) : Result :=
  .next (if 16 ≤ g ∨ s.mayWriteRte r g = false then s else s.biasWrite r g value)

/-! ### Cancellation (R342, R344) -/

/-- A live epoch of gallery `g` cancelled: its RT.RUN ends 0x22 CANCELLED (R342). -/
def State.rteCancel (s : State) (g epoch : Nat) : State :=
  if s.epochLive g epoch = false then s else
  match s.batch g epoch with
  | none => s
  | some b =>
    match s.engOp b.op with
    | none => s
    | some o =>
      let s := (s.closeEpoch g epoch true).modEng o.id (fun (o : EngOp) => { o with aborted := true })
      s.noteEnd o.item cCancelled 0

/-- RTE_CANCEL: the epoch written, of gallery `g`, is cancelled (R342). -/
def execRteCancel (r : Requester) (g epoch : Nat) (s : State) : Result :=
  .next (if 16 ≤ g ∨ s.mayWriteRte r g = false then s else s.rteCancel g epoch)

/-- RTE_ABORT_ACK: an aborted RT.RUN of gallery `g` has stopped dispatch and sent its end markers, with the counts of the rows
sent, and acknowledges; aborted exchange instructions of the gallery stop with it (R342, R344, R348). -/
def execRteAbortAck (g : Nat) (s : State) : Result :=
  let mine := s.engOps.filter (fun (o : EngOp) => o.aborted && o.core / 8 == g && 4 ≤ o.eng.index)
  let s := mine.foldl (fun s (o : EngOp) =>
    (((s.markAll o.id).opEnded o (s.endCode o.item) 0).dropEng o.id).settle o.item) s
  .next (s.rtAdvance g).deliver

end Sys2Proof.Machine
end

