-- ==== Sys2Proof/Machine/SlotWrites.lean ====
section
/-! DEFINITION. Command decode of every queue, and the writes of table slots, which hold instructions there and let them go
(R177, R179 to R186). -/

namespace Sys2Proof.Machine

/-! ### Command decode of every engine -/

/-- How the engine of an instruction decodes it. -/
def decoderOf (o : EngOp) : Decoder :=
  match o.eng with
  | .mxe => mxDecoder
  | .vxe => vxDecoder
  | .sfu => vxDecoder
  | .atu => atDecoder
  | .rte => rtDecoder
  | .xce => rtDecoder

/-- Every queue decoded as far as it can be: the instructions that a slot write held go on (R181). -/
def State.decodeAll (s : State) : State :=
  s.decodePass { names := fun s o => (decoderOf o).names s o, waits := fun s o => (decoderOf o).waits s o,
                 decode := fun s o => (decoderOf o).decode s o } (fun _ => true)

/-! ### Slot writes (R179 to R186) -/

/-- The payload of gallery `g`'s write read and checked; a write refused here leaves the slot unchanged, and the instructions it held
go on (R179, R181, R184). -/
def State.checkPayload (s : State) (id : Nat) (w : SlotWrite) : State :=
  match s.readVa (reqCdc w.gallery) w.chamber w.src w.len with
  | (.error _, s) => (s.refuseWrite w.gallery id wSourceFault).decodeAll
  | (.ok b, s) =>
    if !contentOk (slotKind id) b then (s.refuseWrite w.gallery id wBadContent).decodeAll
    else if slotKind id == 2 && !(parseFn b).seamsOk then (s.refuseWrite w.gallery id wTableSeam).decodeAll
    else s.setSlot id { s.slot id with write := some { w with payload := b } }

/-- The payload read, in lines of other devices too (R184, R443). -/
def State.readPayload (s : State) (id : Nat) (w : SlotWrite) : State :=
  (s.remotely (.slot w.gallery) 0xFFFF (fun _ s => (s.refuseWrite w.gallery id wSourceFault).decodeAll)
    (fun s => s.checkPayload id w)).deliver

/-- Step 3: the write is WRITING, and its payload is read (R179). -/
def State.startWriting (s : State) (id : Nat) (w : SlotWrite) : State :=
  let w := { w with writing := true }
  ((s.setSlot id { s.slot id with write := some w }).wstatus w.gallery 2 0 0).readPayload id w

/-- The GO write of CDC_WCTRL at gallery `g` for slot `id` (R179, R180, R186). -/
def State.slotGo (s : State) (g id : Nat) (nowait : Bool) (hold : Nat) : State :=
  if (s.writeOf g).isSome then s.bump CDC_GO_IGNORED_COUNT 1 g else
  let x := s.slot id
  let len := s.fget CDC_WLEN_LEN g
  let src := s.fget CDC_WSRC_LO_ADDR g + 2 ^ 32 * s.fget CDC_WSRC_HI_ADDR g
  let refuse := fun res => s.wstatus g 4 res 0
  match s.chamberOf g with
  | none => refuse wNotOwned
  | some n =>
    if x.owner ≠ some n then refuse wNotOwned
    else if !s.chLive n then refuse wNotLive
    else if x.write.isSome then refuse wBusy
    else if !lengthOk (slotKind id) len then refuse wBadLength
    else if nowait && s.slotRefs id != 0 then refuse wInUse
    else
      let w : SlotWrite := { gallery := g, chamber := n, writing := false, src := src, len := len, holdUs := hold,
                             goAt := s.now, payload := [] }
      let s := (s.setSlot id { x with write := some w }).wstatus g 1 0 0
      if s.slotRefs id == 0 then s.startWriting id w else s

/-- SLOT_WRITE: CDC_WCTRL written with GO (R179, R180). -/
def execSlotWrite (r : Requester) (g : Nat) (nowait : Bool) (hold : Nat) (s : State) : Result :=
  .next (if s.mayWriteGallery r g then
    let s := (s.fset CDC_WCTRL_NOWAIT (b2n nowait) g).fset CDC_WCTRL_HOLD_US hold g
    s.slotGo g (bitsOf (s.sel r (regAddr CDC_SLOT_SEL g 0)).toNat 8 0) nowait (hold % 2 ^ 16)
  else s)

/-- A HELD write of gallery `g`'s instance abandoned (R183). -/
def State.slotAbort (s : State) (g : Nat) : State :=
  match s.writeOf g with
  | some (id, w) => if w.writing then s else (s.refuseWrite g id wAbandoned).decodeAll
  | none => s

/-- SLOT_WRITE_ABORT: CDC_WCTRL written with ABORT (R183). -/
def execSlotWriteAbort (r : Requester) (g : Nat) (s : State) : Result :=
  .next (if s.mayWriteGallery r g then s.slotAbort g else s)

/-- SLOT_WRITE_WRITING: the REFS of a HELD write's slot have reached 0 (R179). -/
def execSlotWriteWriting (g : Nat) (s : State) : Result :=
  .next (match s.writeOf g with
    | some (id, w) => if !w.writing && s.slotRefs id == 0 then s.startWriting id w else s
    | none => s)

/-- HOLD_EXPIRED: HOLD_US has passed since GO with references still held (R182). -/
def execHoldExpired (g : Nat) (s : State) : Result :=
  .next (match s.writeOf g with
    | some (id, w) =>
      if !w.writing && w.holdUs != 0 && w.goAt + 1000 * w.holdUs ≤ s.now && s.slotRefs id != 0 then
        (s.refuseWrite g id wHoldExpired).decodeAll
      else s
    | none => s)

/-- SLOT_WRITE_DONE: the copy is in every gallery, GEN advances and the slot reopens; the instructions it held take their references
under the new generation. A payload that is still being read is read on (R175, R179, R181). -/
def execSlotWriteDone (g : Nat) (s : State) : Result :=
  .next (match s.writeOf g with
    | some (id, w) =>
      if !w.writing then s
      else if w.payload.isEmpty then s.readPayload id w
      else
        let gen := nextGen (s.slot id).gen
        ((s.setSlot id { s.slot id with gen := gen, content := w.payload, write := none }).wstatus g 3 wOk gen).decodeAll
    | none => s)

end Sys2Proof.Machine
end

