-- ==== Sys2Proof/Machine/SurveyImage.lean ====
section
/-! DEFINITION. The survey image: its layout, the chambers, slots, profiles and ports it describes, and the checks of R95
that judge it (R65 to R101, R313, R394, R653). -/

namespace Sys2Proof.Machine

/-! ### Layout (R65 to R70) -/

def trailerSize : Nat := 16712

/-- A directory entry (R67), with its index. -/
structure DirEntry where
  index : Nat
  type : Nat
  inst : Nat
  off : Nat
  len : Nat
  check : Nat
deriving DecidableEq, Repr

/-- The directory of an image. -/
def dirOf (img : List Byte) : List DirEntry :=
  (List.range (fieldAt img 6 2)).map fun k =>
    let o := 0x40 + 16 * k
    { index := k, type := fieldAt img o 2, inst := fieldAt img (o + 2) 2, off := fieldAt img (o + 4) 4,
      len := fieldAt img (o + 8) 4, check := fieldAt img (o + 12) 4 }

/-- A section's directory index and body. -/
def sectionOf (img : List Byte) (type inst : Nat) : Option (Nat × List Byte) :=
  ((dirOf img).find? (fun e => e.type == type && e.inst == inst)).map (fun e => (e.index, slice img e.off e.len))

def bodyOf (img : List Byte) (type inst : Nat) : List Byte := ((sectionOf img type inst).map (·.2)).getD []

def indexOf (img : List Byte) (type inst : Nat) : Nat := ((sectionOf img type inst).map (·.1)).getD 0xFFFF

def secChambers : Nat := 1
def secMemory : Nat := 2
def secFabric : Nat := 3
def secAccess : Nat := 4
def secGroup : Nat := 5
def secEarly : Nat := 6
def secTables : Nat := 0x10
def secRouting : Nat := 0x11

/-- The digest that a trailer holds, the name of its key set, and the bytes its signatures cover (R70, R71). -/
def imageDigest (img : List Byte) : List Byte := slice img (img.length - trailerSize + 8) 48
def imageKeyset (img : List Byte) : List Byte := slice img (img.length - trailerSize + 0x38) 48
def imageSigned (img : List Byte) : List Byte := img.take (img.length - trailerSize + 0x68)

/-- A key set as it is held: its name is its digest (R488). -/
def keysetNamed (sets : List (List Byte)) (name : List Byte) : Option (List Byte) := sets.find? (fun k => sha384 k == name)

/-- Both signatures of a trailer verify under a key set (R71, R483). -/
def signaturesOk (keys img : List Byte) : Bool :=
  Config.rsaVerifies keys (imageSigned img) (slice img (img.length - trailerSize + 0x68) 384) &&
  Config.slhVerifies keys (imageSigned img) (slice img (img.length - trailerSize + 0x1E8) 16224)

/-! ### The chambers of an image (R72 to R82) -/

/-- The CHAMBERS entry of chamber `n`. -/
def chamberEntry (img : List Byte) (n : Nat) : List Byte := slice (bodyOf img secChambers 0xFFFF) (64 * n) 64

/-- The granule record of chamber `n`. -/
def granuleRecord (img : List Byte) (n : Nat) : List Byte := slice (bodyOf img secMemory 0xFFFF) (0x40 + 20 * n) 20

/-- The stack entry of stack `st`, and the port entry of port `p`. -/
def stackEntry (img : List Byte) (st : Nat) : List Byte := slice (bodyOf img secMemory 0xFFFF) (4 * st) 4
def portEntry (img : List Byte) (p : Nat) : List Byte := slice (bodyOf img secFabric 0xFFFF) (4 * p) 4

/-- Ports that a sealed chamber owns, and pooled ports that a chamber shares. -/
def ownedPorts (img : List Byte) (n : Nat) : Nat :=
  maskOf ((List.range 16).filter (fun p => fieldAt (portEntry img p) 0 1 == n))
def sharedPorts (img : List Byte) (n : Nat) : Nat :=
  maskOf ((List.range 16).filter (fun p => fieldAt (portEntry img p) 0 1 == 0xFE && bitOf (fieldAt (portEntry img p) 2 2) n))

/-- Chamber `n` as an image defines it; its pseudo-channel list is judged now (R384). -/
def State.imageChamber (s : State) (img : List Byte) (n : Nat) : Chamber :=
  let e := chamberEntry img n
  let r := granuleRecord img n
  if fieldAt e 1 1 = 0 then Chamber.none else
  { kind := fieldAt e 1 1, galleries := fieldAt e 2 2, powerW := fieldAt e 4 2, lockMhz := fieldAt e 6 2,
    weight := fieldAt e 8 2, lcShare := fieldAt e 0xA 2, kvGib := fieldAt e 0xC 2, queues := fieldAt e 0xE 2,
    persistent := fieldAt e 0x10 2, sequences := fieldAt e 0x14 4, stackMask := fieldAt r 0 2, perStack := fieldAt r 2 1,
    first := (List.range 16).map (fun st => fieldAt r (4 + st) 1), owned := ownedPorts img n,
    shared := sharedPorts img n, pcs := s.pcList (fieldAt r 0 2) }

/-- The slot records of a TABLES body (R83): slot id, kind, flags, payload, and whether the record is well formed. -/
structure SlotRecord where
  slot : Nat
  kind : Nat
  flags : Nat
  payload : List Byte
  ok : Bool
deriving DecidableEq, Repr

def slotRecords : Nat → List Byte → List SlotRecord
  | 0, _ => []
  | fuel + 1, b =>
    if b.isEmpty then [] else
    let len := fieldAt b 4 4
    let size := roundUp (16 + len) 64
    let r : SlotRecord := {
      slot := fieldAt b 0 2, kind := fieldAt b 2 1, flags := fieldAt b 3 1, payload := slice b 16 len,
      ok := size ≤ b.length && zeroAt b 8 8 && zeroAt b (16 + len) (size - 16 - len) }
    if r.ok then r :: slotRecords fuel (b.drop size) else [r]

/-- The slot records of chamber `n`. -/
def slotsOf (img : List Byte) (n : Nat) : List SlotRecord :=
  slotRecords ((bodyOf img secTables n).length / 64 + 1) (bodyOf img secTables n)

/-- The routing profile records of chamber `n` (R87). -/
def routingOf (img : List Byte) (n : Nat) : List (List Byte) :=
  let b := bodyOf img secRouting n
  (List.range (b.length / 128)).map (fun p => slice b (128 * p) 128)

/-- The ACCESS entries (R88). -/
def accessOf (img : List Byte) : List (List Byte) :=
  let b := bodyOf img secAccess 0xFFFF
  (List.range (b.length / 64)).map (fun k => slice b (64 * k) 64)

/-- The GROUP section (R89). -/
def groupOf (img : List Byte) : Option GroupCfg :=
  (sectionOf img secGroup 0xFFFF).map fun e =>
    let b := e.2
    let m := fieldAt b 6 2
    { groupId := fieldAt b 0 4, deviceId := fieldAt b 4 2,
      masters := (List.range m).map (fun k => fieldAt b (0x40 + 2 * k) 2),
      members := (List.range (fieldAt b 8 4)).map (fun k =>
        (fieldAt b (0x40 + 2 * m + 4 * k) 2, fieldAt b (0x42 + 2 * m + 4 * k) 2)),
      chambers := fieldAt b 0xC 2 }

/-- The port assignment of an image: ASSIGN, LANES, CHAMBERS (R81). -/
def portsOf (img : List Byte) : List (Nat × Nat × Nat) :=
  (List.range 16).map fun p =>
    let e := portEntry img p
    (fieldAt e 0 1, fieldAt e 1 1, fieldAt e 2 2)

/-! ### The content and digest of a chamber (R100) -/

/-- The content of chamber `n`. -/
def chamberContent (img : List Byte) (n : Nat) : List Byte :=
  let r := granuleRecord img n
  let zero := List.replicate 4 0#8
  let stackMask := (List.range 16).flatMap fun st =>
    let e := stackEntry img st
    let a := fieldAt e 0 1
    if a == n || (a == 0xFE && bitOf (fieldAt r 0 2) st) then e else zero
  let ports := (List.range 16).flatMap fun p =>
    let e := portEntry img p
    let a := fieldAt e 0 1
    if a == n then e
    else if a == 0xFE && bitOf (fieldAt e 2 2) n then e.take 2 ++ leBytes 2 (2 ^ n) else zero
  let tables := bodyOf img secTables n
  let routing := bodyOf img secRouting n
  chamberEntry img n ++ stackMask ++ r ++ ports ++ leBytes 4 tables.length ++ tables ++ leBytes 4 routing.length ++ routing

def chamberDigest (img : List Byte) (n : Nat) : List Byte := sha384 (chamberContent img n)

/-! ### Checks 3 to 11 (R95) -/

/-- A failed check: ERR_CODE and ERR_SECTION. -/
abbrev Failed := Nat × Nat

/-- The first failure of a list of checks. -/
def firstFailed : List (Bool × Failed) → Option Failed
  | [] => none
  | (ok, f) :: l => if ok then firstFailed l else some f

def none16 : Nat := 0xFFFF

/-- Check 3: header and trailer agree with the staged length. -/
def headerOk (img : List Byte) (len : Nat) : Bool :=
  let t := img.drop (len - trailerSize)
  64 + trailerSize ≤ len && len ≤ 2 ^ 25 && img.length == len && fieldAt img 0 4 == 0x5653_5841 && fieldAt img 4 2 == 1 &&
  fieldAt img 0x10 4 == len && fieldAt t 0 4 == 0x4753_5841 && fieldAt t 4 4 == 0x4148

def sectionTypes : List Nat := [1, 2, 3, 4, 5, 6, 0x10, 0x11]

/-- Two ranges share no byte. -/
def apart (a la b lb : Nat) : Bool := la == 0 || lb == 0 || a + la ≤ b || b + lb ≤ a

/-- Check 5, of one entry: its type and scope, its bounds and alignment, and that no earlier entry names the same section or
overlaps it. That an unknown type, a wrong scope and a repeated pair fail check 5, and that the later entry of two is the one ERR_SECTION
names, is the model's choice (log entry 123). -/
def entryOk (img : List Byte) (d : List DirEntry) (e : DirEntry) : Bool :=
  let before := d.take e.index
  sectionTypes.contains e.type && (if e.type < 0x10 then e.inst == 0xFFFF else e.inst < 16) && e.off % 64 == 0 &&
  0x40 + 16 * d.length ≤ e.off && e.off + e.len ≤ img.length - trailerSize &&
  before.all (fun f => !(f.type == e.type && f.inst == e.inst) && apart f.off f.len e.off e.len)

/-- Check 5 (R68, R95). An EARLY section is accepted though FLAGS bit 0 is 0, which is the model's choice (log entry 124). -/
def directoryCheck (img : List Byte) : Option Failed :=
  let d := dirOf img
  let fits := 1 ≤ d.length && d.length ≤ 64 && 0x40 + 16 * d.length ≤ img.length - trailerSize
  let required := [1, 2, 3, 4] ++ (if bitOf (fieldAt img 0x16 2) 0 then [6] else [])
  firstFailed ([(fits, (0x05, none16))] ++ d.map (fun e => (entryOk img d e, (0x05, e.index))) ++
    [(required.all (fun t => d.any (fun e => e.type == t)), (0x05, none16))])

/-- Checks 3 to 8, on an image with the key sets held. -/
def imageCheck (sets : List (List Byte)) (img : List Byte) (len : Nat) : Option Failed :=
  if !headerOk img len then some (0x03, none16)
  else if crc32c (img.take 0x3C) ≠ fieldAt img 0x3C 4 then some (0x04, none16)
  else match directoryCheck img with
    | some f => some f
    | none =>
      match firstFailed ((dirOf img).map (fun e => (crc32c (slice img e.off e.len) == e.check, (0x06, e.index)))) with
      | some f => some f
      | none =>
        if sha384 (img.take (img.length - trailerSize)) ≠ imageDigest img then some (0x07, none16)
        else match keysetNamed sets (imageKeyset img) with
          | none => some (0x08, none16)
          | some keys => if signaturesOk keys img then none else some (0x08, none16)

/-- Checks 9 to 11; `active` is none at boot, where check 11 does not apply (R651), and where no survey is active. -/
def fitCheck (ordering fw : Nat) (active : Option (List Byte)) (img : List Byte) : Option Failed :=
  firstFailed [
    (bitOf (fieldAt img 0x14 2) (if ordering == 0x1624 then 0 else 1), (0x09, none16)),
    (decide (fieldAt img 0x18 4 ≤ fw), (0x0A, none16)),
    ((match active with
      | some a => fieldAt img 8 4 == fieldAt a 8 4 && fieldAt a 0xC 4 < fieldAt img 0xC 4
      | none => true), (0x0B, none16))]

/-! ### Check 12 (R72 to R89, R313, R394, R653) -/

/-- The chambers whose KIND is not 0. -/
def usedChambers (img : List Byte) : List Nat :=
  (List.range 16).filter (fun n => fieldAt (chamberEntry img n) 1 1 != 0)

/-- The header's own ranges (R66). No check of R95 is named for VERSION, for the reserved bytes, or for the other bits of COMPAT and
FLAGS: that they are refused here, with 0x0C and section 0xFFFF, is the model's choice (log entry 122). -/
def headerRanges (img : List Byte) : Bool :=
  1 ≤ fieldAt img 0xC 4 && fieldAt img 0x14 2 < 4 && fieldAt img 0x16 2 < 2 && zeroAt img 0x1C 4 && zeroAt img 0x28 20

/-- A CHAMBERS entry's ranges (R72, R75). -/
def chamberRanges (img : List Byte) (n : Nat) : Bool :=
  let e := chamberEntry img n
  let kind := fieldAt e 1 1
  fieldAt e 0 1 == n && kind ≤ 2 && zeroAt e 0x12 2 && zeroAt e 0x18 40 &&
  (kind == 0 ||
    ((if kind == 1 then 1100 ≤ fieldAt e 6 2 && fieldAt e 6 2 ≤ 2900 && fieldAt e 8 2 == 0
      else fieldAt e 6 2 == 0 && 1 ≤ fieldAt e 8 2 && fieldAt e 8 2 ≤ 1000) &&
     fieldAt e 0xA 2 ≤ 1000 && 1 ≤ fieldAt e 0xC 2 && fieldAt e 0x10 2 ≤ 8192 * popCount 16 (fieldAt e 2 2)))

/-- Galleries belong to at most one chamber, and the sums of R74 hold. -/
def chamberSums (img : List Byte) : Bool :=
  let u := usedChambers img
  let sum := fun (o n : Nat) => (u.map (fun k => fieldAt (chamberEntry img k) o n)).sum
  (List.range 16).all (fun g => (u.filter (fun n => bitOf (fieldAt (chamberEntry img n) 2 2) g)).length ≤ 1) &&
  sum 4 2 ≤ 1800 && sum 0xE 2 ≤ 4096 && sum 0x10 2 ≤ 8192 && sum 0x14 4 ≤ 65536

/-- The kind of a chamber number as an image has it; 0 past 15. -/
def kindOf (img : List Byte) (n : Nat) : Nat := if n < 16 then fieldAt (chamberEntry img n) 1 1 else 0

/-- A stack entry (R77, R82); that its reserved bytes must be 0 is the model's choice (log entry 127). -/
def stackRanges (img : List Byte) (st : Nat) : Bool :=
  let e := stackEntry img st
  let a := fieldAt e 0 1
  zeroAt e 1 3 && (0xFE ≤ a || kindOf img a == 1)

/-- Granules of chamber `n` on stack `st`. -/
def granulesOn (img : List Byte) (n st : Nat) : List Nat :=
  let r := granuleRecord img n
  if bitOf (fieldAt r 0 2) st then (List.range (fieldAt r 2 1)).map (fieldAt r (4 + st) 1 + ·) else []

/-- A granule record (R78, R79, R82). -/
def granuleRanges (granules : Nat) (img : List Byte) (n : Nat) : Bool :=
  let r := granuleRecord img n
  let kind := kindOf img n
  if kind == 0 then zeroAt r 0 20 else
  fieldAt r 3 1 == 0 && (List.range 16).all fun st =>
    let mine := fieldAt (stackEntry img st) 0 1 == (if kind == 1 then n else 0xFE)
    let first := fieldAt r (4 + st) 1
    if bitOf (fieldAt r 0 2) st then
      mine && first + fieldAt r 2 1 ≤ granules && (kind == 2 || (first == 0 && fieldAt r 2 1 == granules))
    else first == 0xFF && !(kind == 1 && mine)

/-- No granule belongs to two chambers (R79). -/
def granulesApart (img : List Byte) : Bool :=
  (List.range 16).all fun st =>
    let all := (usedChambers img).flatMap (fun n => granulesOn img n st)
    decide (all.eraseDups.length = all.length)

/-- A port entry (R81, R82); that bits [7:4] of LANES must be 0 is the model's choice (log entry 126). -/
def portRanges (img : List Byte) (p : Nat) : Bool :=
  let e := portEntry img p
  let a := fieldAt e 0 1
  fieldAt e 1 1 < 16 &&
  (if a == 0xFE then (maskBits 16 (fieldAt e 2 2)).all (fun n => kindOf img n == 2)
   else fieldAt e 2 2 == 0 && (a == 0xFF || kindOf img a == 1))

/-- The ACCESS body (R68, R88); that no other bit of FLAGS may be set is the model's choice (log entry 125). -/
def accessRanges (img : List Byte) : Bool :=
  let b := bodyOf img secAccess 0xFFFF
  let l := accessOf img
  b.length % 64 == 0 && 1 ≤ l.length && l.length ≤ 16 && l.any (fun e => bitOf (fieldAt e 0x32 2) 0) &&
  l.all (fun e => fieldAt e 0x32 2 < 2 && zeroAt e 0x34 12)

/-- The GROUP body (R68, R89). -/
def groupRanges (b : List Byte) : Bool :=
  let m := fieldAt b 6 2
  let k := fieldAt b 8 4
  64 ≤ b.length && 1 ≤ m && m ≤ 64 && 1 ≤ k && k ≤ 65536 && zeroAt b 0xE 50 && b.length == roundUp (64 + 2 * m + 4 * k) 64

/-- The EARLY head's ranges (R653). -/
def earlyRanges (b : List Byte) : Bool :=
  let inside := fun (o n : Nat) => 1088 ≤ o && o % 64 == 0 && o + n ≤ b.length
  1088 ≤ b.length && fieldAt b 0 1 < 16 && fieldAt b 1 1 < 2 && fieldAt b 2 2 != 0 && fieldAt b 2 2 < 256 &&
  1100 ≤ fieldAt b 4 2 && fieldAt b 4 2 ≤ 2400 && fieldAt b 6 2 ≤ 1800 && 1 ≤ fieldAt b 8 1 && fieldAt b 8 1 ≤ 16 &&
  1 ≤ fieldAt b 9 1 && fieldAt b 9 1 ≤ 16 && 1 ≤ fieldAt b 0xA 2 && 1 ≤ fieldAt b 0x10 2 && fieldAt b 0x10 2 ≤ 10000 &&
  fieldAt b 0x12 2 ≤ 1000 && (fieldAt b 0x18 4 == 0 || inside (fieldAt b 0x14 4) (fieldAt b 0x18 4)) &&
  fieldAt b 0x20 4 % 64 == 0 && (fieldAt b 0x20 4 == 0 || inside (fieldAt b 0x1C 4) (fieldAt b 0x20 4)) &&
  zeroAt b 0x26 2 && zeroAt b 0x3C 4

/-- A slot record (R83, R84): its id and kind, its payload, and its flags: bit 0 says whether a function table's DIR is not 0 (R253). -/
def SlotRecord.good (r : SlotRecord) : Bool :=
  r.ok && r.slot < 0x200 && r.kind == slotKind r.slot &&
  r.flags == (if r.kind == 2 then b2n ((parseFn r.payload).dir != 0) else 0) &&
  lengthOk r.kind r.payload.length && contentOk r.kind r.payload

/-- A TABLES body: a used chamber, good records, and slot ids that no other record of the image names. That a TABLES or ROUTING section of
a chamber of KIND 0 is refused is the model's choice (log entry 128). -/
def tablesRanges (img : List Byte) (n : Nat) : Bool :=
  let ids := (List.range 16).flatMap (fun k => (slotsOf img k).map (·.slot))
  kindOf img n != 0 && (slotsOf img n).all (fun r => r.good && (ids.filter (· == r.slot)).length ≤ 1)

/-- A VALID routing profile's ranges (R312, R313). -/
def routingOk (fnSlots : List Nat) (b : List Byte) : Bool :=
  let mode := rpMode b
  let th := rpThreshold b
  zeroAt b 0x34 76 && bitsOf (fieldAt b 0 1) 6 5 == 0 && mode ≤ 1 && rpScoreFn b ≤ 2 &&
  1 ≤ rpKmax b && rpKmax b ≤ 16 && (if mode == 0 then rpKmin b ≤ rpKmax b else rpKmin b == 0) &&
  1 ≤ rpExperts b && rpExperts b ≤ 1024 && [cF16, cBf16, cF32].contains (rpLogitFmt b) &&
  [cF16, cBf16].contains (rpRowFmt b) && [cF16, cBf16].contains (rpRetFmt b) &&
  (mode == 1 || (!th.isNan && !(th.isInf && !th.neg))) &&
  rpCapacity b ≤ 8192 && (mode == 0 || 1 ≤ rpCapacity b) && (rpWeightScale b).isFin &&
  (if rpScoreFn b == 0 then rpFnSlot b == 0xFFFF else fnSlots.contains (rpFnSlot b)) &&
  32 ≤ rpHidden b && rpHidden b ≤ 32768 && rpHidden b % 32 == 0 && 1 ≤ rpBiasN b &&
  (rpBiasGain b).isFin && ((rpBiasGain b).isZero || !(rpBiasGain b).neg) && (rpBiasLimit b).isFin &&
  !(rpBiasLimit b).isZero && !(rpBiasLimit b).neg && rpLocalCount b ≤ 1024 && rpEmap b % 64 == 0 && rpRxBase b % 64 == 0 &&
  rpEmap b < 2 ^ 57 && rpRxBase b < 2 ^ 57 && 1 ≤ rpRxRows b && rpRxRows b ≤ 65536

/-- A ROUTING body of a used chamber (log entry 128). -/
def routingRanges (img : List Byte) (n : Nat) : Bool :=
  let b := bodyOf img secRouting n
  let fns := ((slotsOf img n).filter (fun r => r.kind == 2)).map (·.slot)
  kindOf img n != 0 && b.length % 128 == 0 && 1 ≤ b.length / 128 && b.length / 128 ≤ 32 &&
  (routingOf img n).all (fun r => !rpValid r || routingOk fns r)

/-- The memory test of R394. -/
def State.memoryOk (s : State) (img : List Byte) (n : Nat) : Bool :=
  let c := s.imageChamber img n
  decide (c.kvGib * 2 ^ 30 + c.windowTables ≤ c.memSize)

/-- The sections of a chamber type that an image holds: chamber and directory index. -/
def chamberSections (img : List Byte) (type : Nat) : List (Nat × Nat) :=
  ((dirOf img).filter (fun e => e.type == type)).map (fun e => (e.inst, e.index))

/-- Check 12, section by section (R95, R96; log entry 11). -/
def State.resourceCheck (s : State) (img : List Byte) : Option Failed :=
  let k1 := indexOf img secChambers 0xFFFF
  let k2 := indexOf img secMemory 0xFFFF
  let k3 := indexOf img secFabric 0xFFFF
  let optional := fun (t : Nat) (ok : List Byte → Bool) =>
    match sectionOf img t 0xFFFF with
    | some (k, b) => [(ok b, (0x0C, k))]
    | none => []
  firstFailed ([
    (headerRanges img, (0x0C, none16)),
    ((bodyOf img secChambers 0xFFFF).length == 1024 && (List.range 16).all (chamberRanges img) && chamberSums img,
      (0x0C, k1)),
    ((bodyOf img secMemory 0xFFFF).length == 384 && (List.range 16).all (stackRanges img) &&
      (List.range 16).all (granuleRanges s.granules img) && granulesApart img, (0x0C, k2)),
    ((bodyOf img secFabric 0xFFFF).length == 64 && (List.range 16).all (portRanges img), (0x0C, k3)),
    (accessRanges img, (0x0C, indexOf img secAccess 0xFFFF))] ++
    optional secGroup groupRanges ++ optional secEarly earlyRanges ++
    (chamberSections img secTables).map (fun e => (tablesRanges img e.1, (0x0C, e.2))) ++
    (chamberSections img secRouting).map (fun e => (routingRanges img e.1, (0x0C, e.2))) ++
    (usedChambers img).map (fun n => (s.memoryOk img n, (0x0C, k1))))

/-! ### Checks 13 to 15 -/

/-- Check 13: a live core and a live pseudo-channel for each chamber. -/
def State.retiredCheck (s : State) (img : List Byte) : Option Failed :=
  firstFailed ((usedChambers img).map (fun n =>
    let c := s.imageChamber img n
    ((maskBits 16 c.galleries).any s.galleryLive && !c.pcs.isEmpty, (0x0D, indexOf img secChambers 0xFFFF))))

/-- Check 14: the seam and monotonicity check of every function table (R86, R252, R253). -/
def seamCheck (img : List Byte) : Option Failed :=
  firstFailed ((chamberSections img secTables).map (fun e =>
    ((slotsOf img e.1).all (fun r => r.kind != 2 || (parseFn r.payload).seamsOk), (0x0E, e.2))))

/-- Checks 12 to 14. -/
def State.contentCheck (s : State) (img : List Byte) : Option Failed :=
  match s.resourceCheck img with
  | some f => some f
  | none =>
    match s.retiredCheck img with
    | some f => some f
    | none => seamCheck img

/-- The chambers that an image changes (R101). -/
def State.changedBy (s : State) (img : List Byte) : List Nat :=
  (List.range 16).filter fun n =>
    let was := (s.chamber n).kind != 0
    let is := kindOf img n != 0
    was != is || (is && was && chamberDigest img n != chamberDigest s.svy.running n)

/-- Check 15: the galleries, granules, and stacks and ports assigned whole, that a changed chamber takes are unassigned or
held by chambers that also change. -/
def State.scopeOk (s : State) (img : List Byte) (changed : List Nat) : Bool :=
  let kept := (List.range 16).filter (fun n => (s.chamber n).kind != 0 && !changed.contains n)
  changed.all fun n =>
    let c := s.imageChamber img n
    kept.all fun m =>
      let h := s.chamber m
      (c.galleries &&& h.galleries) == 0 && (c.owned &&& h.owned) == 0 && (c.shared &&& h.owned) == 0 &&
      (c.owned &&& h.shared) == 0 && (h.kind != 1 || (c.stackMask &&& h.stackMask) == 0) &&
      (c.kind != 1 || (c.stackMask &&& h.stackMask) == 0) &&
      (List.range 16).all (fun st => (granulesOn img n st).all (fun g =>
        !(bitOf h.stackMask st && (h.first.getD st 0) ≤ g && g < (h.first.getD st 0) + h.perStack)))

end Sys2Proof.Machine
end

