-- ==== Sys2Proof/Machine/Timebase.lean ====
section
/-! DEFINITION. The timebase: SYNC, holdover, holds, and TB.READ (R604, R675 to R679). -/

namespace Sys2Proof.Machine

/-- The period of SYNC, and what three SYNCs must keep to, in ps (R604, R678). -/
def syncPeriod : Nat := 100_000
def lockPs : Nat := 10_000

/-- A signed value held in a 32-bit register, saturating (R693). -/
def signed32 (x : Int) : Nat := ofSigned 32 (max (-2147483648) (min 2147483647 x))

/-- The counter ahead of its master by `ns` holds until the master reaches its value; a hold counts once (R677). -/
def State.hold (s : State) (ns : Nat) : State :=
  let s := if s.fget TBC_STATUS_HELD == 1 then s else s.bump TBC_STEPS_COUNT
  let s := s.fset TBC_STATUS_HELD 1
  { s with tbc := { s.tbc with trim := 0, heldUntil := s.now + ns } }

/-- The correction of an offset in ps (R677). -/
def State.correct (s : State) (ps : Int) : State :=
  let ns := ps.natAbs / 1000
  if s.fget TBC_STATUS_HELD = 1 ∧ ps < 0 then s.hold ns
  else if ps.natAbs ≤ 1_000_000 then { s.fset TBC_STATUS_HELD 0 with tbc := { s.tbc with trim := ps / 1000 } }
  else if ps < 0 then s.hold ns
  else
    let s := (s.fset TBC_STATUS_HELD 0).bump TBC_STEPS_COUNT
    { s with tb := (s.tb + ns) % 2 ^ 64, tbc := { s.tbc with trim := 0 } }

/-- LOCKED after three consecutive SYNCs with offsets within ±10 ns; one outside ends it (R678). -/
def State.lockOn (s : State) (ps : Int) : State :=
  let good := if ps.natAbs ≤ lockPs then s.tbc.good + 1 else 0
  let s : State := { s with tbc := { s.tbc with good := min 3 good } }
  s.fset TBC_STATUS_LOCKED (b2n (3 ≤ good))

/-- A SYNC sent to the device at the far end of each port of `ports`. -/
def State.spreadSync (s : State) (ports : List Nat) (src hops arg time delay : Nat) : State :=
  ports.foldl (fun s p =>
    if s.portUp p then
      s.putOn p (Packet.seal { Packet.zero with
        type := ptSync, hops := hops, dst := s.fget LNK_PORT_STATUS_PARTNER p, src := src, length := 16, arg := arg,
        payload := leBytes 8 time ++ leBytes 4 delay ++ leBytes 4 0 })
    else s) s

/-- The first port of the route to the master that is up (R604). -/
def State.syncPort (s : State) : Option Nat :=
  match s.fab.group with
  | none => none
  | some g => (maskBits 16 (((g.members.find? (fun m => m.1 == s.masterId)).map (·.2)).getD 0)).find? s.portUp

/-- SYNC: taken from the first port of the route to the master, applied, and sent on over the other ports with the measured
delay of the hop, `hopPs`, added; from a device that is no master it is a violation (R603, R604, R608, R677). -/
def execSync (l : Nat) (p : Packet) (hopPs : Nat) (s : State) : Result :=
  .next (s.arrive l p ptSync fun s =>
    match s.fromMaster p.src with
    | (false, s) => s.violate (l / 4) vUnsolicited p
    | (true, s) =>
      if s.isMaster = true ∨ s.syncPort ≠ some (l / 4) then s else
      let time := fieldAt p.payload 0 8
      let delay := (fieldAt p.payload 8 4 + hopPs) % 2 ^ 32
      let ps : Int := (time * 1000 + delay : Nat) - (s.tb * 1000 : Nat)
      let s := (s.fset TBC_OFFSET_PS (signed32 ps)).bump TBC_SYNCS_COUNT
      let s := (s.fset TBC_STATUS_SYNC_PORT (l / 4)).fset TBC_STATUS_HOPS (65 - min 65 p.hops)
      let s := s.fset TBC_STATUS_HOLDOVER 0
      let s : State := { s with fab := { s.fab with lastSync := s.now } }
      let s := (s.correct ps).lockOn ps
      if p.hops = 0 then s else
      s.spreadSync ((List.range 16).filter (· != l / 4)) p.src (p.hops - 1) p.arg time delay)

/-- SYNC_SEND: every 100 µs the master sends SYNC over its ports (R604). -/
def execSyncSend (s : State) : Result :=
  .next (if s.formed = false ∨ s.isMaster = false ∨ s.now < s.fab.lastSync + syncPeriod then s else
    let s : State := { s with fab := { s.fab with lastSync := s.now, syncNo := (s.fab.syncNo + 1) % 2 ^ 32 } }
    s.spreadSync (List.range 16) s.deviceId 64 s.fab.syncNo s.tb 0)

/-- HOLDOVER: no SYNC for 1 ms; the counter runs on, and the device is not LOCKED (R678). -/
def execHoldover (s : State) : Result :=
  .next (if s.formed = false ∨ s.isMaster = true ∨ s.fget TBC_STATUS_HOLDOVER = 1 ∨ s.now < s.fab.lastSync + oneMs then s
    else
      let s := ((s.fset TBC_STATUS_HOLDOVER 1).fset TBC_STATUS_LOCKED 0).bump TBC_SYNC_LOST_COUNT
      { s with tbc := { s.tbc with good := 0, trim := 0 } })

/-- COUNTER_HOLD_END: the master has reached the value held, and the counter counts again (R677). -/
def execCounterHoldEnd (s : State) : Result :=
  .next (if s.fget TBC_STATUS_HELD = 1 ∧ s.tbc.heldUntil ≤ s.now then s.fset TBC_STATUS_HELD 0 else s)

/-- What strikes the cells in one ns, at an open place: nothing, or an error that lies there until an access, a scrub or a patrol finds
it (R379, R399; log entry 131). -/
def State.struck (s : State) : List (Nat × CellEvent) :=
  let a := Config.freeNat (s.free + 1) % 2 ^ 44
  match Config.freeNat s.free % 4 with
  | 1 => [(a, .onDie)]
  | 2 => [(a, .corrected)]
  | 3 => [(a, .uncorrectable)]
  | _ => []

/-- One tick of 1 ns: the timebase counts unless it is held; while an offset is trimmed it gains or loses one tick in 10,000
(R34, R675, R677). An in-band interrupt that waits goes out (R702). The cells may be struck, the monitor takes what accesses have
found, and an MXE may go on (R218, R399; log entries 28, 118 and 131). -/
def State.tick (s : State) : State :=
  let s := ({ s with
    now := s.now + 1, free := s.free + 2, ms := { s.ms with cells := s.struck ++ s.ms.cells } } : State).sendIbi.drip.deliver
  if s.fget TBC_STATUS_HELD = 1 ∨ s.pwr.held = true ∨ s.pwr.dark = true then s else
  let trims := s.now % 10_000 == 0 && s.tbc.trim != 0
  let up := decide (0 < s.tbc.trim)
  let add := if trims then (if up then 2 else 0) else 1
  let trim := if trims then (if up then s.tbc.trim - 1 else s.tbc.trim + 1) else s.tbc.trim
  { s with tb := (s.tb + add) % 2 ^ 64, tbc := { s.tbc with trim := trim } }

/-- TB.READ: the timebase in RD and RD + 1; RD is even (R56, R679). -/
def execTbRead (c t : Nat) (s : State) : Result :=
  .next (s.issue c t (fun w => opcodeOf w == 0xB8) fun w x s =>
    if qwBad w true then s.failStrand c t cFormat 0 else
    s.needing c t (pairMask (rdOf w))
      (s.advance c t ((x.setReg (rdOf w) (BitVec.ofNat 32 s.tb)).setReg (rdOf w + 1) (BitVec.ofNat 32 (s.tb / 2 ^ 32)))))

end Sys2Proof.Machine
end

