-- ==== Sys2Proof/Machine/Trace.lean ====
section
/-! DEFINITION. The trace unit: samples, marks, triggers, and the slices of a chamber's trace buffer (R681 to R694). -/

namespace Sys2Proof.Machine

/-! ### The buffer of a chamber (R685, R694) -/

/-- LOG_RECS: 8 to 20, other values as the nearer limit. -/
def State.logRecs (s : State) (n : Nat) : Nat := max 8 (min 20 (s.fget TRU_CTRL_LOG_RECS n))

/-- N, the record slots of a slice. -/
def State.sliceLen (s : State) (n : Nat) : Nat := 2 ^ s.logRecs n

/-- Every core of the chamber's galleries, ascending: the k-th uses slice k. -/
def State.traceCores (s : State) (n : Nat) : List Nat :=
  (s.galleriesOf n).flatMap (fun g => (List.range 8).map (8 * g + ·))

/-- Where core `c`'s slice starts. -/
def State.sliceBase (s : State) (n c : Nat) : Nat :=
  let k := (s.traceCores n).findIdx (· == c)
  s.fget TRU_BUF_HI_ADDR n * 2 ^ 32 + s.fget TRU_BUF_LO_ADDR n * 64 + k * (64 + 32 * s.sliceLen n)

/-- MODE; 3 acts as 0. -/
def State.traceMode (s : State) (n : Nat) : Nat := if s.fget TRU_CTRL_MODE n = 3 then 0 else s.fget TRU_CTRL_MODE n

def Slice.fresh (c : Nat) : Slice := { core := c, head := 0, dropped := 0, state := 1, trigIndex := none, post := none }

def State.sliceOf (s : State) (c : Nat) : Slice := (s.tru.slices.find? (fun x => x.core == c)).getD (Slice.fresh c)

def State.setSlice (s : State) (x : Slice) : State :=
  { s with tru := { s.tru with slices := s.tru.slices.map (fun y => if y.core == x.core then x else y) } }

/-- The first 32 bytes of a slice's header. -/
def Slice.header (x : Slice) : List Byte :=
  leBytes 8 x.head ++ leBytes 4 (min x.dropped 0xFFFF_FFFF) ++ leBytes 1 x.state ++ leBytes 1 x.core ++ leBytes 2 0 ++
  leBytes 8 (x.trigIndex.getD (2 ^ 64 - 1)) ++ leBytes 8 0

/-! ### Writes of the TRU -/

/-- Pieces written to chamber memory by the TRU; false where one meets a fault, or leaves the device. -/
def State.truPieces (s : State) (r : MReq) (n : Nat) : List (Nat × Nat) → List Byte → Bool × State
  | [], _ => (true, s)
  | (va, len) :: rest, bs =>
    match s.translate r n va true false with
    | (.error _, s) => (false, s)
    | (.ok ⟨some _, _⟩, s) => (false, s)
    | (.ok ⟨none, pa⟩, s) =>
      match s.writeLine pa (bs.take len) with
      | (some f, s) => (false, s.recordFault r n va true f)
      | (none, s) => s.truPieces r n rest (bs.drop len)

def State.truWrite (s : State) (n va : Nat) (bs : List Byte) : Bool × State :=
  s.truPieces (s.reqTru n) n (linesOf va bs.length) bs

/-- The FIFOs of a chamber's cores emptied without counts, and its triggers in delivery discarded. -/
def State.emptyFifos (s : State) (n : Nat) : State :=
  let s := (s.traceCores n).foldl (fun s c => s.setFifo c Fifo.empty) s
  { s with tru := { s.tru with fired := s.tru.fired.filter (fun e => e.1 != n) } }

/-- A drain write has met a fault: tracing stops for the chamber (R692). -/
def State.truFault (s : State) (n : Nat) : State := (s.fset TRU_STATE_STATE 5 n).emptyFifos n

/-- The header of a slice, written after the records that its HEAD counts (R688). -/
def State.writeHeader (s : State) (n : Nat) (x : Slice) : Bool × State := s.truWrite n (s.sliceBase n x.core) x.header

/-- Every write of a list in turn, up to the first that fails. -/
def allOf {α : Type} (f : State → α → Bool × State) : List α → State → Bool × State
  | [], s => (true, s)
  | a :: l, s =>
    match f s a with
    | (true, s) => allOf f l s
    | (false, s) => (false, s)

/-- Tracing starts, or starts again: every slice RUNNING with HEAD 0 and no trigger, and its header written (R685, R687,
R692). -/
def State.truStart (s : State) (n : Nat) : State :=
  let cores := s.traceCores n
  let s : State := { s with tru := { s.tru with
    slices := s.tru.slices.filter (fun x => !cores.contains x.core) ++ cores.map Slice.fresh
    fired := s.tru.fired.filter (fun e => e.1 != n)
    timed := s.tru.timed.filter (· != n) } }
  let s := (s.fset TRU_STATE_STATE 1 n).wset TRU_RECORDS_LO 0 n
  let s := (s.fset TRU_STATE_TRIG_VALID 0 n).fset TRU_STATE_TRIG_CORE 0 n
  let s := s.wset TRU_RECORDS_HI 0 n
  match allOf (fun s c => s.truWrite n (s.sliceBase n c) ((Slice.fresh c).header ++ List.replicate 32 0#8)) cores s with
  | (true, s) => s
  | (false, s) => s.truFault n

/-! ### Draining (R684 to R688) -/

/-- A trigger reaches a slice: TRIG_INDEX is set, and in mode 2 POST more records follow; one that has stopped keeps its
STATE (R685, R686, R692). -/
def State.reach (s : State) (n c : Nat) (r : List Byte) (d : Nat) : Bool × State :=
  let x := s.sliceOf d
  if !s.coreLive d then (true, s) else
  let post := min (s.fget TRU_POST_POST n) (s.sliceLen n - 1)
  let window := s.traceMode n == 2
  let x := { x with
    trigIndex := some x.head,
    state := if x.state != 1 then x.state else if window && post == 0 then 3 else 2,
    post := if window then some post else none }
  let s := s.setSlice x
  match s.writeHeader n x with
  | (false, s) => (false, s)
  | (true, s) => if d = c then s.truWrite n (s.sliceBase n d + 0x20) r else (true, s)

/-- A record lost to a slice that is full (R686). -/
def State.sliceLoses (s : State) (n : Nat) (x : Slice) (k : Nat) : State :=
  (s.setSlice { x with dropped := x.dropped + k }).bump TRU_DROPPED_COUNT k n

/-- One record placed in its core's slice, or discarded there (R685, R686). -/
def State.placeRecord (s : State) (n c : Nat) (r : List Byte) : Bool × State :=
  let x := s.sliceOf c
  let lost := if recType r == trDrop then fieldAt r 0xC 4 else 0
  if recType r == trTrigger || x.state == 3 then (true, s)
  else if x.state == 4 || (s.traceMode n == 0 && s.sliceLen n ≤ x.head) then
    (true, s.sliceLoses n { x with state := 4 } (lost + 1))
  else
    match s.truWrite n (s.sliceBase n c + 64 + 32 * (x.head % s.sliceLen n)) r with
    | (false, s) => (false, s)
    | (true, s) =>
      let left := x.post.map (· - 1)
      let full := s.traceMode n == 0 && s.sliceLen n ≤ x.head + 1
      let x := { x with
        head := x.head + 1, post := left,
        state := if left == some 0 then 3 else if full then 4 else x.state }
      let s := s.setSlice x
      let s := if lost = 0 then s else s.sliceLoses n x lost
      (true, s.bump64 TRU_RECORDS_LO_COUNT TRU_RECORDS_HI_COUNT 1 n)

/-- Up to `k` records of core `c`'s FIFO placed. -/
def State.drainFifo (s : State) (n c : Nat) : Nat → Bool × State
  | 0 => (true, s)
  | k + 1 =>
    match (s.fifo c).pop with
    | (none, _) => (true, s)
    | (some r, f) =>
      match (s.setFifo c f).placeRecord n c r with
      | (true, s) => s.drainFifo n c k
      | (false, s) => (false, s)

/-- One core's FIFO drained and its slice's header written. -/
def State.drainCore (s : State) (n c : Nat) : Bool × State :=
  if (s.fifo c).recs.isEmpty then (true, s) else
  match s.drainFifo n c ((s.fifo c).recs.length + 1) with
  | (false, s) => (false, s)
  | (true, s) => s.writeHeader n (s.sliceOf c)

/-- Everything that chamber `n` has to drain: triggers to every slice, then the FIFOs (R687, R688). -/
def State.truDrain (s : State) (n : Nat) : State :=
  if s.fget TRU_STATE_STATE n = 0 ∨ s.fget TRU_STATE_STATE n = 5 ∨ s.fget CHB_STATE_STATE n = chbZeroising then s else
  let cores := s.traceCores n
  let mine := s.tru.fired.filter (fun e => e.1 == n)
  let s : State := { s with tru := { s.tru with fired := s.tru.fired.filter (fun e => e.1 != n) } }
  match allOf (fun s e => allOf (fun s d => s.reach n e.2.1 e.2.2 d) cores s) mine s with
  | (false, s) => s.truFault n
  | (true, s) =>
    match allOf (fun s c => s.drainCore n c) cores s with
    | (false, s) => s.truFault n
    | (true, s) =>
      if cores.all (fun c => (s.sliceOf c).state == 3) && !cores.isEmpty then s.fset TRU_STATE_STATE 3 n else s

/-- TRU_DRAIN: the TRU delivers a trigger that has fired and drains the chamber's FIFOs into its slices (R686 to R688). -/
def execTruDrain (n : Nat) (s : State) : Result := .next (if 16 ≤ n then s else s.truDrain n)

/-- TRU_CTRL.ENABLE written: set, tracing starts; cleared, what the FIFOs hold is drained and tracing is off (R694). -/
def State.truEnable (s : State) (n : Nat) (on : Bool) : State :=
  let was := s.fget TRU_CTRL_ENABLE n == 1
  if on && !was then (s.fset TRU_CTRL_ENABLE 1 n).truStart n
  else if !on && was then
    let s := ((s.truDrain n).fset TRU_CTRL_ENABLE 0 n).emptyFifos n
    s.fset TRU_STATE_STATE 0 n
  else s

/-- Everything of a chamber's tracing cleared, as zeroisation does (R691). -/
def State.truClear (s : State) (n : Nat) : State :=
  let cores := s.traceCores n
  let s := s.emptyFifos n
  let s : State := { s with tru := { s.tru with
    slices := s.tru.slices.filter (fun x => !cores.contains x.core), timed := s.tru.timed.filter (· != n) } }
  s.resetRange (0x8100 + 0x40 * n) (0x8140 + 0x40 * n)

/-! ### Triggers (R687, R692) -/

/-- A software trigger; a control session's stands for the lowest live core (R687). -/
def State.softTrigger (s : State) (r : Requester) (n : Nat) : State :=
  match r with
  | .core c t => s.trigger n c t 0 []
  | _ => s.trigger n ((s.coresOf n).headD 0) 0xFFFF 0 []

/-- TRIGGER: a software write of TRU_CTRL.TRIGGER (R687). -/
def execTrigger (r : Requester) (n : Nat) (s : State) : Result :=
  .next (if 16 ≤ n ∨ s.mayWriteSet r n = false then s else s.softTrigger r n)

/-- RESTART: every header is rewritten with HEAD 0, a trigger in delivery is discarded, and STATE is RUNNING (R692,
R694). -/
def execRestart (r : Requester) (n : Nat) (s : State) : Result :=
  .next (if 16 ≤ n ∨ s.mayWriteSet r n = false ∨ s.fget TRU_CTRL_ENABLE n = 0 then s else s.truStart n)

/-- TRU_TIME_TRIGGER: the timebase has reached TRU_TRIG_TIME (R687, R694). -/
def execTruTimeTrigger (n : Nat) (s : State) : Result :=
  .next (if 16 ≤ n ∨ s.fget TRU_CTRL_ENABLE n = 0 ∨ s.fget TRU_TRIG_TIME n = 0 ∨ s.tru.timed.contains n = true ∨
      s.tb < s.pair TRU_TRIG_TIME_LO_TIME TRU_TRIG_TIME_HI_TIME n then s else
    let s := s.trigger n ((s.coresOf n).headD 0) 0xFFFF 3 []
    { s with tru := { s.tru with timed := n :: s.tru.timed } })

/-! ### Marks and samples (R681 to R683) -/

/-- TR.MARK: a SW_MARK record of RD and RD + 1, and with bit [52] a software trigger (R56, R683). -/
def execTrMark (c t : Nat) (s : State) : Result :=
  .next (s.issue c t (fun w => opcodeOf w == 0xB9) fun w x s =>
    if bitsOf w.toNat 51 0 ≠ 0 ∨ rdOf w % 2 = 1 then s.failStrand c t cFormat 0 else
    s.needing c t (pairMask (rdOf w)) (
      let s := s.advance c t x
      let s := s.trace c t trSwMark (leBytes 4 (x.reg (rdOf w)).toNat ++ leBytes 4 (x.reg (rdOf w + 1)).toNat)
      if bitOf w.toNat 52 then s.trigger (s.coreChamber c) c t 0 [] else s))

/-- The STATE code of what a WAITING strand waits for (R681). -/
def State.waitCode (s : State) (c t : Nat) (x : Strand) : Nat :=
  match x.wait with
  | .regs m => if s.ms.ops.any (fun o => o.core == c && o.strand == t && m &&& 2 ^ o.rd != 0) then 2 else 1
  | .engine _ => 5
  | .take => 3
  | .barrier _ _ => 4
  | .pages => 7
  | .release | .fence | .lines | .ending => 2
  | .none | .sequence => 1

/-- What a sample of core `c` records: a strand and its state (R682, R692). -/
def State.sampleOf (s : State) (c : Nat) : Option (Nat × Nat) :=
  let bound := s.boundStrands c
  let held := !s.coreRuns c
  let stage := if held then (bound.find? (fun e => e.2.mode == .issuing)).map (·.1) else s.issuer c
  match stage with
  | some t => some (t, if held then 7 else 0)
  | none =>
    match argMin (fun (e : Nat × Strand) => e.2.boundAt * 8192 + e.1) (bound.filter (fun e => e.2.mode == .waiting)) with
    | some (t, x) => some (t, if held then 7 else s.waitCode c t x)
    | none => (bound.find? (fun e => e.2.mode != .free)).map (fun e => (e.1, 7))

/-- PC_SAMPLE: once per 2^PC_LOG2 cycles, and a pseudo-random offset, a core writes a sample (R682). -/
def execPcSample (c : Nat) (s : State) : Result :=
  .next (if 128 ≤ c ∨ s.coreLive c = false then s else
    let ready := ((s.boundStrands c).filter (fun e => e.2.mode == .ready)).length
    match s.sampleOf c with
    | some (t, st) =>
      let x := s.strand c t
      s.trace c t trPcSample (leBytes 8 x.pc ++ leBytes 1 st ++ leBytes 1 (s.strandClass x) ++ leBytes 2 ready)
    | none => s.trace c 0xFFFF trPcSample (leBytes 8 0 ++ leBytes 1 (if s.coreRuns c then 6 else 7) ++ leBytes 1 0 ++ leBytes 2 ready))

end Sys2Proof.Machine
end

