-- ==== Sys2Proof/Machine/Chambers.lean ====
section
/-! DEFINITION. A chamber's life: stopped, drained, zeroised, applied and LIVE; and the port and group assignment that a survey
brings with it (R98 to R109, R605). -/

namespace Sys2Proof.Machine

/-! ### Draining (R99 step 4, R102, R105) -/

/-- The queue and graph commands that run in chamber `n`'s set end NOT_LIVE (R105, R107, R503). -/
def State.endCommands (s : State) (n : Nat) : State :=
  let s := if s.fget GFE_QCMD_STATUS_STATE n == 1 then (s.forget (.command (2 * n))).qcmdRefuse n 0x03 0 else s
  if s.fget GFE_GCMD_STATUS_STATE n == 1 then (s.forget (.command (2 * n + 1))).gcmdRefuse n 0x07 else s

/-- Chamber `n` leaves LIVE: its queues are torn down, its commands end, slot writes that wait are refused, its streams are closed and
its check-value runs end (R102, R105, R182, R534, R640). -/
def State.stopChamber (s : State) (n : Nat) : State :=
  let s := s.fset CHB_STATE_STATE chbDraining n
  let s := ((s.heldQueues n).filter (fun q => s.queueState q == qActive)).foldl (fun s q => s.teardown q) s
  let s := (s.endCommands n).dropStreams n
  let s := ((s.dropHeldWrites n).decodeAll)
  (s.galleriesOf n).foldl (fun s g => s.stopCvus g 4 0) s

/-- Every queue of chamber `n` is torn down, and no slot write of it is in progress. -/
def State.drained (s : State) (n : Nat) : Bool :=
  (s.heldQueues n).all (fun q => s.queueState q == qTeardownDone) &&
  s.slots.all (fun e => match e.2.write with | some w => w.chamber != n | none => true)

/-! ### Zeroisation (R106 to R109) -/

/-- Zeroisation of chamber `n` begins: what its cores still hold of memory goes, its sequences are released, its tracing stops and its
queue ids are free again, with their epochs kept (R106, R107, R501; log entry 12). -/
def State.zeroBegin (s : State) (n : Nat) : State :=
  let c := s.chamber n
  let mine := fun (k : Nat) => s.coreChamber k == n
  let s := (s.fset CHB_STATE_STATE chbZeroising n).fset CHB_ZERO_DONE 0 n
  let s := s.fset CHB_ZERO_GRANULES_LEFT (popCount 16 c.stackMask * c.perStack) n
  let s : State := { s with
    engOps := s.engOps.filter (fun o => !mine o.core)
    ms := { s.ms with
      ops := s.ms.ops.filter (fun o => o.chamber != n)
      tlb := s.ms.tlb.filter (fun e => s.chamberOf e.gallery != some n)
      invals := s.ms.invals.filter (fun i => i.chamber != n)
      cache := s.ms.cache.filter (fun l => !mine l.core)
      icache := s.ms.icache.filter (fun l => !mine l.core)
      records := s.ms.records.filter (fun r => r.chamber != n)
      observed := s.ms.observed.filter (fun e => !mine e.core)
      upper := s.ms.upper.filter (fun e => s.chamberOf e.gallery != some n) }
    fab := { s.fab with
      arrivals := s.fab.arrivals.filter (fun a => a.chamber != n)
      barriers := s.fab.barriers.filter (fun b => b.chamber != n || s.inGroup n) }
    graphs := s.graphs.filter (fun e => e.1 / 64 != n) }
  let s := (s.releaseSeqs n).truClear n
  let s := (s.heldQueues n).foldl (fun s q =>
    let e := s.fget GFE_Q_STATE_EPOCH q
    let s := s.resetRange (0x90000 + 0x20 * q) (0x90020 + 0x20 * q)
    let s := s.resetRange (0xC0000 + 0x40 * q) (0xC0040 + 0x40 * q)
    (s.fset GFE_Q_STATE_EPOCH e q).setQueue q Queue.none) s
  { s with svy := { s.svy with
    zeroing := s.svy.zeroing ++ (n, none) :: (maskBits 16 c.stackMask).map (fun st => (n, some st)) } }

/-- Chamber `n`'s granules on stack `st` at zero, with valid codes (R106). -/
def State.zeroStack (s : State) (n st : Nat) : State :=
  let c := s.chamber n
  let mine := fun (a : Nat) => hbmBase n ≤ a && a < hbmBase n + c.memSize && (c.interleave (a - hbmBase n)).1 == st
  let s := (s.ms.poison.filter mine).foldl (fun s a => s.setPoison a false) s
  let lines := c.perStack * 2 ^ 19 * (c.pcs.filter (fun e => e.2 == st)).length
  ({ s with mem := smClear mine s.mem } : State).bump64 HBC_WR_LO_COUNT HBC_WR_HI_COUNT lines st

/-- One gallery's SRAM, strand store, slots' units and engine state at their zeroised values; its RTE's epoch number goes on
(R106, R331). -/
def State.zeroGallery (s : State) (g : Nat) : State :=
  let e := s.fget RTE_EPOCH_EPOCH g
  let scan := s.fget LSQ_STATUS_SCAN g
  let inCore := fun (c : Nat) => c / 8 == g
  let s := (List.range 8).foldl (fun s k =>
    let c := 8 * g + k
    let dup := s.rget (regAddr MXE_DUP_CTRL c 0)
    let s := s.resetRange (0x200000 + 0x10000 * c) (0x210000 + 0x10000 * c)
    (s.rput (regAddr MXE_DUP_CTRL c 0) dup).setSample c none) s
  let s := s.resetRange (0x100000 + 0x10000 * g) (0x110000 + 0x10000 * g)
  let s := (s.fset RTE_EPOCH_EPOCH e g).fset LSQ_STATUS_SCAN scan g
  let sram := fun (a : Nat) =>
    (scratchBase (8 * g) ≤ a && a < scratchBase (8 * g + 8)) || (storeBase g ≤ a && a < storeBase (g + 1))
  let inGallery := fun (k : Nat) => 17 + 8 * g ≤ k / 2 ^ 32 && k / 2 ^ 32 < 25 + 8 * g
  { s with
    mem := smClear sram s.mem
    sr := s.sr.filter (fun e => !inCore (e.1 / 2))
    strands := s.strands.filter (fun e => !inCore (e.1 / 8192))
    sels := s.sels.filter (fun e => !inGallery e.1)
    shadows := s.shadows.filter (fun e => !inGallery e.1)
    ms := { s.ms with poison := s.ms.poison.filter (fun a => !sram a) }
    rte := { s.rte with batches := s.rte.batches.filter (fun b => b.gallery != g) } }

/-- Chamber `n`'s galleries, slots and chamber sets at their zeroised values; slots keep their generations (R106). -/
def State.zeroUnits (s : State) (n : Nat) : State :=
  let s := (s.galleriesOf n).foldl (fun s g => s.zeroGallery g) s
  let s : State := { s with
    slots := s.slots.map (fun e =>
      if e.2.owner == some n then (e.1, { Slot.none with gen := e.2.gen }) else e)
    rte := { s.rte with
      profiles := s.rte.profiles.filter (fun e => e.1 / 32 != n)
      halves := s.rte.halves.filter (fun h => h.chamber != n)
      bias := s.rte.bias.filter (fun e => e.1 / 1024 / 32 != n)
      load := s.rte.load.filter (fun e => e.1 / 1024 / 32 != n)
      loops := s.rte.loops.filter (fun e => e.1 / 32 != n) }
    gfeTurn := s.gfeTurn.filter (fun e => e.1 / 2 != n) }
  let s := s.truClear n
  let s := s.resetRange (0x80100 + 0x40 * n) (0x80140 + 0x40 * n)
  let s := s.resetRange (0x81000 + 0x40 * n) (0x81040 + 0x40 * n)
  let s := s.resetRange (0x20000 + 0x40 * n) (0x20040 + 0x40 * n)
  [0, 1].foldl (fun s i =>
    (s.resetRange (0xA100 + 0x1000 * i + 0x40 * n) (0xA140 + 0x1000 * i + 0x40 * n)).resetRange
      (0xC100 + 0x1000 * i + 0x40 * n) (0xC140 + 0x1000 * i + 0x40 * n)) s

/-- One share of a zeroisation done (R108, R109, R116). -/
def State.zeroShare (s : State) (n : Nat) (share : Option Nat) : State :=
  let s := match share with
    | some st =>
      (s.zeroStack n st).fset CHB_ZERO_GRANULES_LEFT (s.fget CHB_ZERO_GRANULES_LEFT n - (s.chamber n).perStack) n
    | none => s.zeroUnits n
  let s : State := { s with svy := { s.svy with zeroing := s.svy.zeroing.filter (fun e => e != (n, share)) } }
  if s.svy.zeroing.any (fun e => e.1 == n) then s else s.fset CHB_ZERO_DONE 1 n

/-! ### Applying (R85, R99 steps 6 and 8, R116) -/

/-- The CHB_ registers of chamber `n` from its definition and digest. -/
def State.showChamber (s : State) (n state : Nat) (c : Chamber) (digest : List Byte) : State :=
  let s := ((s.fset CHB_STATE_STATE state n).fset CHB_STATE_KIND c.kind n).fset CHB_STATE_GALLERIES c.galleries n
  let s := (s.fset CHB_STACKS_STACKS c.stackMask n).fset CHB_STACKS_PER_STACK c.perStack n
  let s := (s.fset CHB_PORTS_OWNED c.owned n).fset CHB_PORTS_SHARED c.shared n
  let s := s.fset CHB_BUDGET_POWER_W c.powerW n
  let s := s.fset CHB_BUDGET_LOCK_OR_WEIGHT (if c.kind == 1 then c.lockMhz else c.weight) n
  let s := s.fset CHB_KV_KV_GIB c.kvGib n
  let s := (s.fset CHB_LIVE_LIVE_GALLERIES 0 n).fset CHB_LIVE_LIVE_CORES 0 n
  (List.range 12).foldl (fun s k => s.wset CHB_DIGEST (fieldAt digest (4 * k) 4) n k) s

/-- A slot's content written into the galleries of its chamber, under the next generation (R85). -/
def State.loadSlot (s : State) (n : Nat) (r : SlotRecord) : State :=
  s.setSlot r.slot {
    owner := some n, gen := nextGen (s.slot r.slot).gen, monotone := bitOf r.flags 0, content := r.payload, write := none }

/-- The galleries of a mask that no chamber has held since the reset, zeroised before they are assigned (R106). Nothing can have
written a granule that no chamber has held. -/
def State.firstUse (s : State) (mask : Nat) : State :=
  let s := ((maskBits 16 mask).filter (fun g => !bitOf s.svy.used g)).foldl (fun s g => s.zeroGallery g) s
  { s with svy := { s.svy with used := s.svy.used ||| mask } }

/-- Chamber `n` set to a definition, with its slot records and routing profiles; it is LOADING, or ABSENT (R104, R106). -/
def State.setChamber (s : State) (n : Nat) (c : Chamber) (digest : List Byte) (slots : List SlotRecord)
    (profiles : List (List Byte)) : State :=
  let s := s.firstUse c.galleries
  let s : State := { s with chambers := (List.range 16).map (fun k => if k == n then c else s.chamber k) }
  let s := s.showChamber n (if c.kind == 0 then chbAbsent else chbLoading) c (if c.kind == 0 then [] else digest)
  let s := slots.foldl (fun s r => s.loadSlot n r) s
  let s := ((List.range profiles.length).zip profiles).foldl (fun (s : State) (e : Nat × List Byte) =>
    { s with rte := { s.rte with profiles := smPut (fun _ => []) s.rte.profiles (32 * n + e.1) e.2 } }) s
  let s := (s.ms.poison.filter (fun a => match regionOf s a with
    | .raw st off => bitOf c.stackMask st && c.first.getD st 0 ≤ off / 2 ^ 30 && off / 2 ^ 30 < c.first.getD st 0 + c.perStack
    | _ => false)).foldl (fun s a => s.setPoison a false) s
  s.refreshLive.refreshSleep

/-- Chamber `n` as an image defines it, applied. -/
def State.applyChamber (s : State) (img : List Byte) (n : Nat) : State :=
  s.setChamber n (s.imageChamber img n) (chamberDigest img n) (slotsOf img n) (routingOf img n)

/-- A chamber LOADING becomes LIVE; the first ever is the device's first use (R99 step 8, R116, R638). -/
def State.goLive (s : State) (n : Nat) : State :=
  if s.fget CHB_STATE_STATE n ≠ chbLoading then s else
  let s := ((s.fset CHB_STATE_STATE chbLive n).bump CHB_LOADS_COUNT 1 n).lockRates n
  if smGet (fun _ => 0) s.hlm.life 3 = 0 then
    { s with hlm := { s.hlm with life := smPut (fun _ => 0) s.hlm.life 3 s.utcNow.1 } }
  else s

/-! ### Ports and group (R81, R99 step 6, R605) -/

/-- A port assignment takes effect: lanes newly named train, from stage 3 of bring-up on, and lanes no longer named leave
service (R81, R584, R649). -/
def State.applyPorts (s : State) (ports : List (Nat × Nat × Nat)) : State :=
  let old := s.fab.ports
  let named := fun (l : List (Nat × Nat × Nat)) (k : Nat) => bitOf (l.getD (k / 4) (0xFF, 0, 0)).2.1 (k % 4)
  let s : State := { s with fab := { s.fab with ports := ports } }
  let s := (List.range 64).foldl (fun s k =>
    if named ports k && !named old k then (if s.fget PWR_STATUS_STAGE < 3 then s else s.trainLane k)
    else if named old k && !named ports k then
      if s.healthOf (unitLane k) == umber then s else s.laneOut k 0
    else s) s
  s.flow

/-- Bring-up enters stage 3: the fabric ports train; stacks train and galleries are scanned by events of their own (R649). -/
def State.enterStage3 (s : State) : State :=
  let s : State := { s with pwr := { s.pwr with waiting := false } }
  (List.range 64).foldl (fun s k => s.trainLane k) (s.toStage 3)

/-- LNK_GROUP_STATUS.DEVICE_ID (R613). -/
def State.showDeviceId (s : State) : State := s.fset LNK_GROUP_STATUS_DEVICE_ID s.deviceId

/-- This device is in no group as it joins or leaves one: no view, no master. -/
def State.outOfGroup (s : State) : State :=
  let s : State := { s with fab := { s.fab with joinedAt := none, members := [] } }
  let s := (s.fset LNK_GROUP_STATUS_FORMED 0).fset LNK_GROUP_STATUS_IS_MASTER 0
  let s := (s.fset LNK_GROUP_STATUS_MASTER_IDX 0).fset LNK_GROUP_MASTER_DEVICE 0
  ((s.fset LNK_GROUP_VIEW_VIEW 0).fset LNK_GROUP_LIVE_COUNT 0).refreshTbc

/-- The members of a new section: those already known keep what is known of them, new ones count as live. -/
def State.newMembers (s : State) (g : GroupCfg) : List Member :=
  g.members.map (fun m => (s.fab.members.find? (fun x => x.id == m.1)).getD
    { id := m.1, live := true, lastHeard := s.now, liveSince := s.now })

/-- A change of the GROUP section at the flip. Another GROUP_ID or DEVICE_ID: LEAVE is sent, every remote access in flight ends
UNREACHABLE and the ports retrain. Otherwise requests to a member removed end UNREACHABLE, and those of a chamber removed
from CHAMBERS end NO_GROUP (R605). -/
def State.applyGroup (s : State) (new : Option GroupCfg) : State :=
  let old := s.fab.group
  if old = new then s else
  let ids := fun (g : Option GroupCfg) => g.map (fun x => (x.groupId, x.deviceId))
  if ids old ≠ ids new then
    let s := if s.formed then
        (s.fab.members.filter (fun m => m.live && m.id != s.deviceId)).foldl (fun s (m : Member) => s.sendMember m.id 3) s
      else s
    let s := s.failTo (fun _ => true) nakUnreachable
    let s := s.refuseArrivals (fun a => s.inGroup a.chamber) nakUnreachable
    let s : State := { s with fab := { s.fab with group := new } }
    let s := s.outOfGroup.showDeviceId
    (List.range 64).foldl (fun s k => if s.fget LNK_LANE_STATUS_STATE (k / 4) (k % 4) == 2 then s.trainLane k else s) s
  else
    match old, new with
    | some o, some g =>
      let gone := (o.members.filter (fun m => !g.members.any (fun x => x.1 == m.1))).map (·.1)
      let out := (List.range 16).filter (fun n => bitOf o.chambers n && !bitOf g.chambers n)
      let was := s.masterId
      let members := if s.formed then s.newMembers g else s.fab.members
      let s := s.failTo (fun x => gone.contains x.packet.dst) nakUnreachable
      let s := s.failTo (fun x => out.contains x.packet.chamber) nakNoGroup
      let s := s.refuseArrivals (fun a => out.contains a.chamber) nakNoGroup
      let s : State := { s with fab := { s.fab with group := new, members := members } }
      let s := s.refreshLiveCount
      if !s.formed then s else
      match (List.range g.masters.length).find? (fun i => g.masters.getD i 0 == was) with
      | some i => s.fset LNK_GROUP_STATUS_MASTER_IDX i
      | none =>
        match (List.range g.masters.length).find? (fun i => s.liveMember (g.masters.getD i 0)) with
        | some i => s.changeMaster i
        | none => s
    | _, _ => s

end Sys2Proof.Machine
end

