-- ==== Sys2Proof/Machine/SurveyBase.lean ====
section
/-! DEFINITION. The survey loader's registers, its flash slots, and the end of a load (R93 to R95, R110, R113, R114). -/

namespace Sys2Proof.Machine

/-! ### The loader's registers -/

/-- The owner session: only it acts on the loader (R93). -/
def State.ownerSession (s : State) (r : Requester) : Bool :=
  match r with
  | .session k => s.fget CTP_OWNER_VALID == 1 && s.fget CTP_OWNER_SLOT == k
  | _ => false

def svyIdle : Nat := 0
def svyStaging : Nat := 1
def svyChecking : Nat := 2
def svyDraining : Nat := 3
def svyZeroising : Nat := 4
def svyApplying : Nat := 5
def svyRefused : Nat := 7

def State.svyState (s : State) : Nat := s.fget SVY_STATUS_STATE

/-- SVY_STATUS set whole (R113). -/
def State.setStatus (s : State) (state code section_ : Nat) : State :=
  s.wset SVY_STATUS (state * 2 ^ 28 + code * 2 ^ 16 + section_)

def State.svyRefusal (s : State) : State := s.bump SVY_REFUSALS_COUNT

/-- The active slot: 0 A, 1 B (R114). -/
def State.activeSlot (s : State) : Nat := s.fget SVY_FLASH_ACTIVE

/-- The bytes of survey slot `k`. -/
def State.surveySlot (s : State) (k : Nat) : List Byte := if k = 0 then s.svy.slotA else s.svy.slotB

/-- Survey slot `k` replaced. -/
def State.setSurveySlot (s : State) (k : Nat) (b : List Byte) : State :=
  if k = 0 then { s with svy := { s.svy with slotA := b } } else { s with svy := { s.svy with slotB := b } }

/-- A_VALID or B_VALID of slot `k` (R114). -/
def State.setValid (s : State) (k : Nat) (on : Bool) : State :=
  s.fset (if k = 0 then SVY_FLASH_A_VALID else SVY_FLASH_B_VALID) (b2n on)

/-- The first `n` bytes of a slot; flash that nothing programmed since its erase reads 0xFF. -/
def flashRead (b : List Byte) (n : Nat) : List Byte := b.take n ++ List.replicate (n - b.length) 0xFF#8

/-- Bytes programmed at an offset of a slot. -/
def flashWrite (b : List Byte) (off : Nat) (bs : List Byte) : List Byte :=
  let b := flashRead b (max b.length (off + bs.length))
  b.take off ++ bs ++ b.drop (off + bs.length)

/-- A load ends: its management item, if one posted it, gets its record (R537). -/
def State.endLoad (s : State) (code : Nat) : State :=
  let via := match s.svy.load with | some l => l.viaMgc | none => false
  let s : State := { s with svy := { s.svy with load := none } }
  if !via then s else if code = 0 then s.mgEnd mqSurvey cServed 0 else s.mgEnd mqSurvey cUnavailable code

/-- A load is refused or abandoned: reported, and counted (R95, R110, R114). -/
def State.refuseLoad (s : State) (code section_ : Nat) : State :=
  ((s.setStatus svyRefused code section_).svyRefusal).endLoad code

/-- Ownership is lost: staging or checking is abandoned with NOT_OWNER (R110). -/
def State.svyOwnerLost (s : State) : State :=
  if s.svyState = svyStaging ∨ s.svyState = svyChecking then s.refuseLoad 0x01 none16 else s

end Sys2Proof.Machine
end

