-- ==== Sys2Proof/Machine/Sessions.lean ====
section
/-! DEFINITION. Sessions and ownership: the frames the device sends, the end of a session, and how ownership is gained and
lost (R456 to R461, R466, R469, R470, R472, R494, R496). -/

namespace Sys2Proof.Machine

/-! ### Sessions -/

def sessFree : Nat := 0
def sessOpening : Nat := 1
def sessObserver : Nat := 2
def sessOwner : Nat := 3
def sessIsolated : Nat := 4

/-- CTP_SESS_STATE.STATE of slot `k` (R496). -/
def State.sessState (s : State) (k : Nat) : Nat := s.fget CTP_SESS_STATE_STATE k

/-- What a slot holds while it is OPENING, OBSERVER or OWNER. -/
def State.session (s : State) (k : Nat) : Option Session := (s.ctp.sessions.find? (fun e => e.1 == k)).map (·.2)

/-- CTP_PORT_STATUS.SESSIONS of both ports (R496). -/
def State.refreshSessions (s : State) : State :=
  [0, 1].foldl (fun s p => s.fset CTP_PORT_STATUS_SESSIONS (s.ctp.sessions.filter (fun e => e.2.port == p)).length p) s

def State.setSession (s : State) (k : Nat) (x : Session) : State :=
  let s : State := { s with ctp := { s.ctp with sessions := (k, x) :: s.ctp.sessions.filter (fun e => e.1 != k) } }
  s.refreshSessions

/-! ### Windows of violations (R479) -/

/-- A port's counts of violations begin again (R479). -/
def State.freshViols (s : State) (p : Nat) : State :=
  { s with ctp := { s.ctp with viols := (p, { since := s.now, port := 0, slots := [] }) :: s.ctp.viols.filter (fun e => e.1 != p) } }

/-- Both ports are enabled: their windows of violations start (R479). -/
def State.enablePorts (s : State) : State := (s.freshViols 0).freshViols 1

/-! ### Encrypted frames (R456, R465) -/

/-- The header of a frame, which is its additional authenticated data (R456). -/
def Frame.header (f : Frame) : List Byte :=
  leBytes 1 f.version ++ leBytes 1 f.type ++ leBytes 1 f.slot ++ leBytes 1 f.flags ++ leBytes 2 f.length ++ leBytes 2 f.reserved ++
  leBytes 8 f.seq

/-- The nonce of a frame in direction `dir`: 0 from the node, 1 from the device (R465). -/
def Frame.nonce (f : Frame) (dir : Nat) : List Byte := leBytes 1 f.slot ++ leBytes 1 dir ++ leBytes 2 0 ++ leBytes 8 f.seq

/-- A frame enciphered and tagged under a traffic key. -/
def Frame.sealed (f : Frame) (key : List Byte) (dir : Nat) : Frame :=
  let c := gcmCrypt key (f.nonce dir) f.payload
  { f with payload := c, tag := gcmTag key (f.nonce dir) f.header c }

/-- A frame whose tag holds under a traffic key, deciphered. -/
def Frame.opened (f : Frame) (key : List Byte) (dir : Nat) : Option Frame :=
  if f.tag == gcmTag key (f.nonce dir) f.header f.payload then
    some { f with payload := gcmCrypt key (f.nonce dir) f.payload, tag := [] }
  else none

/-- A session with its traffic keys, from HKDF's extracted key (R465). -/
def Session.keyed (x : Session) : Session :=
  let prk := if x.entry.isSome then hmac256 (x.dev ++ x.node) x.key else Config.transportExtract x.key (x.dev ++ x.node)
  { x with fromNode := hkdfExpand prk (ascii "AXCP n2d"), toNode := hkdfExpand prk (ascii "AXCP d2n") }

/-! ### Frames the device sends (R457, R460, R461, R466) -/

/-- A frame sent on a port, counted; in a slot that is in use it takes the slot's next SEQ and, where its type is encrypted, the slot's
key; otherwise SEQ 1. -/
def State.sendFrame (s : State) (port slot type : Nat) (encrypted : Bool) (payload : List Byte) : State :=
  let (seq, key, s) := match s.session slot with
    | some x => (x.tx + 1, x.toNode, s.setSession slot { x with tx := x.tx + 1 })
    | none => (1, [], s)
  let f : Frame := {
    version := 1, type := type, slot := slot, flags := b2n encrypted, length := payload.length, reserved := 0, seq := seq,
    payload := payload, tag := [] }
  (s.bump64 CTP_TX_FRAMES_LO_COUNT CTP_TX_FRAMES_HI_COUNT 1 port).emit (.frame port (if encrypted then f.sealed key 1 else f))

/-- The head of a response: RESULT and three bytes of 0 (R460). -/
def head (result : Nat) : List Byte := leBytes 4 result

/-- A NAK's payload: cause, offending TYPE and offending SEQ (R461, R477). -/
def nakBytes (cause type seq : Nat) : List Byte := leBytes 1 cause ++ leBytes 1 type ++ leBytes 6 0 ++ leBytes 8 seq

/-! ### Firmware staging that ends with ownership (R486, R494) -/

def fwIdle : Nat := 0
def fwStaging : Nat := 1
def fwChecking : Nat := 2
def fwReady : Nat := 3
def fwRefused : Nat := 7

/-- SEC_FW_STATUS.STAGE_STATE and ERR_CODE. -/
def State.setStage (s : State) (state code : Nat) : State :=
  (s.fset SEC_FW_STATUS_STAGE_STATE state).fset SEC_FW_STATUS_ERR_CODE code

/-- A firmware commit answered: to its session while that is open, or by its item's record (R461, R486, R537). -/
def State.answerCommit (s : State) (c : FwCommit) (code : Nat) : State :=
  match c.seq with
  | none => if code = 0 then s.mgEnd mqSecurity cServed 0 else s.mgEnd mqSecurity cUnavailable code
  | some _ =>
    match s.session c.session with
    | some x => s.sendFrame x.port c.session 0xE1 true (head code)
    | none => s

/-- A firmware commit ends refused (R486). -/
def State.refuseFw (s : State) (code : Nat) : State :=
  let s := s.setStage fwRefused code
  match s.sec.commit with
  | some c => ({ s with sec := { s.sec with commit := none } } : State).answerCommit c code
  | none => s

/-- Ownership is lost: firmware staging, or a commit before its signature check, is abandoned (R494). -/
def State.fwOwnerLost (s : State) : State :=
  let checked := match s.sec.commit with | some c => c.checked | none => false
  if checked then s
  else if s.fget SEC_FW_STATUS_STAGE_STATE = fwStaging ∨ s.sec.commit.isSome = true then s.refuseFw 0x01 else s

/-! ### Ownership (R470, R472, R476) -/

/-- The UTC base set, in the state and as CTP_UTC_BASE shows it (R470). -/
def State.setUtc (s : State) (utc at_ : Nat) : State :=
  let b := (utc + 2 ^ 64 - at_ % 2 ^ 64) % 2 ^ 64
  ({ s with utcBase := some b } : State).pairSet CTP_UTC_BASE_LO_UTC CTP_UTC_BASE_HI_UTC b

/-- Slot `k` becomes owner; the UTC base is set from its HELLO, and its heartbeat deadline starts (R470, R472). -/
def State.makeOwner (s : State) (k : Nat) : State :=
  let s := ((s.fset CTP_SESS_STATE_STATE sessOwner k).fset CTP_OWNER_VALID 1).fset CTP_OWNER_SLOT k
  let s : State := { s with ctp := { s.ctp with ownerAt := s.now } }
  match s.session k with
  | some x => s.setUtc x.utc x.utcAt
  | none => s

/-- Ownership becomes vacant: what depends on it ends. CTP_OWNER.SLOT is valid only while VALID is 1 (R110, R472, R494, R496). -/
def State.loseOwnership (s : State) : State :=
  if s.fget CTP_OWNER_VALID = 0 then s else
  let k := s.fget CTP_OWNER_SLOT
  let (open_, s) := s.draw 16
  let s := (s.fset CTP_OWNER_VALID 0).fset CTP_OWNER_SLOT open_
  let s := if s.sessState k = sessOwner then s.fset CTP_SESS_STATE_STATE sessObserver k else s
  s.svyOwnerLost.fwOwnerLost

/-! ### The end of a session (R469, R472, R474) -/

/-- CTP_ELECTION.CANDIDATES (R496). -/
def State.refreshElection (s : State) : State :=
  s.fset CTP_ELECTION_CANDIDATES (maskOf (s.ctp.claims.map (·.1)).eraseDups)

/-- Slot `k` drops out of an election; with no candidate left the election ends (R474). -/
def State.dropOut (s : State) (k : Nat) : State :=
  if s.fget CTP_ELECTION_OPEN = 0 then s else
  let s : State := { s with ctp := { s.ctp with claims := s.ctp.claims.filter (fun e => e.1 != k) } }
  let s := s.refreshElection
  if s.ctp.claims.isEmpty then s.fset CTP_ELECTION_OPEN 0 else s

/-- A session ends: its slot becomes FREE, what is still owed to it is not sent, and its selectors and shadows are as at reset
(R20, R22, R469). -/
def State.closeSession (s : State) (k : Nat) : State :=
  match s.session k with
  | none => s
  | some _ =>
    let owned := s.fget CTP_OWNER_VALID == 1 && s.fget CTP_OWNER_SLOT == k
    let forget := fun (l : List Staged) => l.map (fun (x : Staged) => match x.answer with
      | some (j, _, _, _) => if j == k then { x with answer := none } else x
      | none => x)
    let s : State := { s with
      ctp := { s.ctp with
        sessions := s.ctp.sessions.filter (fun e => e.1 != k)
        attest := match s.ctp.attest with | some (j, q, n) => if j == k then none else some (j, q, n) | none => none }
      svy := { s.svy with unprogrammed := forget s.svy.unprogrammed }
      sec := { s.sec with fwStaged := forget s.sec.fwStaged }
      sels := s.sels.filter (fun e => e.1 / 2 ^ 32 != k)
      shadows := s.shadows.filter (fun e => e.1 / 2 ^ 32 != k) }
    let s := ((s.wset CTP_SESS_STATE 0 k).pairSet CTP_SESS_OPEN_LO_TIME CTP_SESS_OPEN_HI_TIME 0 k).refreshSessions
    let s := s.dropOut k
    if owned then s.loseOwnership else s

/-- The SEQ of either direction has reached 2^48: the session closes (R466). -/
def State.closeSpent (s : State) (k : Nat) : State :=
  match s.session k with
  | some x => if 2 ^ 48 ≤ x.rx ∨ 2 ^ 48 ≤ x.tx then s.closeSession k else s
  | none => s

/-- An answer sent once something started by a request has ended: the head and `more`, or a NAK with `cause` (R459, R461). -/
def State.answerLater (s : State) (k type seq cause : Nat) (more : List Byte) : State :=
  match s.session k with
  | none => s
  | some x =>
    let s := if cause = 0 then s.sendFrame x.port k (0x80 + type) true (head 0 ++ more)
      else s.sendFrame x.port k 0xFF true (nakBytes cause type seq)
    s.closeSpent k

end Sys2Proof.Machine
end

