-- ==== Sys2Proof/Machine/Firmware.lean ====
section
/-! DEFINITION. Firmware images: their header, trailer and signatures, and the two slots of flash (R484 to R486). -/

namespace Sys2Proof.Machine

def fwMax : Nat := 25_165_824

/-- The bytes of firmware slot `k`. -/
def State.fwSlot (s : State) (k : Nat) : List Byte := if k = 0 then s.sec.slotA else s.sec.slotB

/-- Firmware slot `k` replaced. -/
def State.setFwSlot (s : State) (k : Nat) (b : List Byte) : State :=
  if k = 0 then { s with sec := { s.sec with slotA := b } } else { s with sec := { s.sec with slotB := b } }

/-- The regions of an image: code, microcode and slate, as offset and length (R485). -/
def fwRegions (img : List Byte) : List (Nat × Nat) :=
  [(0x40, fieldAt img 0x10 4), (fieldAt img 0x14 4, fieldAt img 0x18 4), (fieldAt img 0x1C 4, fieldAt img 0x20 4)]

/-- The header of an image of `len` bytes keeps R485, for a device with an ordering code. -/
def fwHeaderOk (ordering : Nat) (img : List Byte) (len : Nat) : Bool :=
  let r := fwRegions img
  let inside := fun (e : Nat × Nat) => e.2 == 0 || (0x40 ≤ e.1 && e.1 + e.2 ≤ len - trailerSize)
  64 + trailerSize ≤ len && len ≤ fwMax && img.length == len && fieldAt img 0 4 == 0x4846_5841 && fieldAt img 4 2 == 1 &&
  fieldAt img 0xC 4 == len && crc32c (img.take 0x3C) == fieldAt img 0x3C 4 && fieldAt img 6 2 < 4 &&
  bitOf (fieldAt img 6 2) (if ordering == 0x1624 then 0 else 1) && zeroAt img 0x24 4 && zeroAt img 0x30 12 &&
  r.all inside && fieldAt img 0x14 4 % 64 == 0 && fieldAt img 0x1C 4 % 64 == 0 && fieldAt img 0x20 4 ≤ 0x100_0000 &&
  [(0, 1), (0, 2), (1, 2)].all (fun p =>
    apart (r.getD p.1 (0, 0)).1 (r.getD p.1 (0, 0)).2 (r.getD p.2 (0, 0)).1 (r.getD p.2 (0, 0)).2)

/-- The trailer's DIGEST holds over the image. -/
def fwDigestOk (img : List Byte) : Bool := sha384 (img.take (img.length - trailerSize)) == imageDigest img

/-- The trailer names the vendor key set, and both signatures verify under it (R483, R484). -/
def fwSignaturesOk (img : List Byte) : Bool :=
  fieldAt (img.drop (img.length - trailerSize)) 0 4 == 0x5746_5841 &&
  fieldAt (img.drop (img.length - trailerSize)) 4 4 == trailerSize && imageKeyset img == sha384 Config.vendorKeys &&
  signaturesOk Config.vendorKeys img

/-- The image that a slot holds, as long as its header says; empty where the header names no length that a slot can hold. -/
def fwImage (slot : List Byte) : List Byte :=
  let len := fieldAt slot 0xC 4
  if 64 + trailerSize ≤ len ∧ len ≤ fwMax then flashRead slot len else []

/-- Boot ROM accepts a slot (R484). -/
def fwBoots (ordering : Nat) (slot : List Byte) : Bool :=
  let img := fwImage slot
  fwHeaderOk ordering img img.length && fwDigestOk img && fwSignaturesOk img

/-- The check of a commit: the ERR_CODE of what fails first (R486). -/
def fwCommitCheck (ordering floor : Nat) (img : List Byte) (len : Nat) : Option Nat :=
  if !fwHeaderOk ordering img len then some 0x03
  else if !fwDigestOk img then some 0x07
  else if !fwSignaturesOk img then some 0x08
  else if fieldAt img 8 4 < floor then some 0x0A else none

/-- The ordering code of the device: 0x1624 or 0x1616 (R1). -/
def State.orderingCode (s : State) : Nat := if s.granules = 24 then 0x1624 else 0x1616

/-- The identity record, as SEC_IDENT shows it (R481). -/
def State.identity (s : State) : List Byte := (List.range 32).flatMap (fun k => leBytes 4 (s.rget (regAddr SEC_IDENT k 0)).toNat)

/-- What SEC_FW_STATUS, SEC_FW_VERSION and SEC_FW_DIGEST show of the firmware that boot ROM has verified in slot `k`; the slate
area follows the image (R485, R498). -/
def State.bootFirmware (s : State) (k : Nat) : State :=
  let img := fwImage (s.fwSlot k)
  let s := (s.fset SEC_FW_STATUS_VERIFIED 1).fset SEC_FW_STATUS_ACTIVE k
  let s := s.fset SEC_FW_VERSION_VERSION (fieldAt img 8 4)
  let s := (List.range 12).foldl (fun s j => s.wset SEC_FW_DIGEST (fieldAt (imageDigest img) (4 * j) 4) j) s
  let s : State := { s with sec := { s.sec with ucode := sha384 (slice img (fieldAt img 0x14 4) (fieldAt img 0x18 4)) } }
  let slate := slice img (fieldAt img 0x1C 4) (fieldAt img 0x20 4)
  if fieldAt img 0x20 4 = 0 ∨ sha384 slate = sha384 s.sec.slate then s else { s with sec := { s.sec with slate := slate } }

end Sys2Proof.Machine
end

