-- ==== Sys2Proof/Machine/Health.lean ====
section
/-! DEFINITION. Slate scan windows, owner commands on units, the health area of flash, and check-value runs (R624 to R640,
R644). -/

namespace Sys2Proof.Machine

/-! ### Windows (R631 to R633) -/

/-- Galleries with a live core, ascending. -/
def State.liveGalleries (s : State) : List Nat := (List.range 16).filter s.galleryLive

/-- The time from one window of the rotation to the next: the period shared by the live galleries (R631, R642). -/
def State.scanStep (s : State) : Nat :=
  let h := s.fget HLM_SCAN_CTRL_PERIOD_H
  (if h = 0 then 6 else h) * oneHour / max 1 s.liveGalleries.length

/-- HLM_SCAN_NEXT set. -/
def State.setNextScan (s : State) (t : Nat) : State := s.pairSet HLM_SCAN_NEXT_LO_TIME HLM_SCAN_NEXT_HI_TIME t

/-- A gallery of a chamber that drains, is zeroised or loads has its window postponed, in bring-up only while a load runs: the chambers
that wait there for stage 5 are scanned (R110, R649). -/
def State.scanPostponed (s : State) (g : Nat) : Bool :=
  match s.chamberOf g with
  | some n => (s.fget PWR_STATUS_STAGE ≥ 5 || s.svy.load.isSome) && s.fget CHB_STATE_STATE n != chbLive
  | none => false

/-- Bring-up has yet to scan a gallery; the galleries go in ascending order (R631, R649). -/
def State.bringUpScan (s : State) : Option Nat :=
  if s.fget PWR_STATUS_STAGE < 3 then none else s.liveGalleries.find? (fun g => !s.hlm.scanned.contains g)

/-- The gallery that the rotation serves next. -/
def State.rotationNext (s : State) : Option Nat :=
  ((List.range 16).map (fun k => (s.hlm.turn + k) % 16)).find? s.galleryLive

/-- The copy that a mover runs: the one placed on it first. -/
def State.runningCopy (s : State) (g d : Nat) : Option ItemKey :=
  let l := (s.moverItems g d).filter (fun i => !i.unitDone)
  (argMin (fun k => match s.item k with | some i => i.boundAt | none => 0) (l.map (·.key)))

/-- A window opens on gallery `g`: dispatch to it stops, and its movers start no queued copy (R632 steps 1 and 2). -/
def State.openWindow (s : State) (g : Nat) (bringUp : Bool) : State :=
  let copies := (List.range 4).filterMap (fun d => s.runningCopy g d)
  let s : State := { s with hlm := { s.hlm with window := some {
    gallery := g, step := 2, openedAt := s.now, bringUp := bringUp, copies := copies } } }
  ((s.fset LSQ_STATUS_SCAN 1 g).fset HLM_SCAN_STATUS_STATE 1).fset HLM_SCAN_STATUS_GALLERY g

/-- The management item of a SCAN on gallery `g` ends with a code and a cause (R537). -/
def State.endScanItem (s : State) (g code cause : Nat) : State :=
  match (s.mgQueue mqHealth).items with
  | i :: _ => if i.begun && i.command == 1 && i.arg 0 == g then s.mgEnd mqHealth code cause else s
  | [] => s

/-- SCAN_WINDOW: a gallery's window falls due, in bring-up, by a SCAN command, or in the rotation, and dispatch stops. Windows
never overlap; one asked for on a gallery that is no longer live does not open (R110, R537, R631, R632, R640; log entry 14). -/
def execScanWindow (g : Nat) (s : State) : Result :=
  .next (if s.hlm.asked.contains g && !s.galleryLive g then
      ({ s with hlm := { s.hlm with asked := s.hlm.asked.filter (· != g) } } : State).endScanItem g cUnavailable 1
    else if s.hlm.window.isSome || !s.galleryLive g || s.scanPostponed g || 16 ≤ g then s else
    match s.bringUpScan with
    | some h => if g = h then s.openWindow g true else s
    | none =>
      if s.hlm.asked.contains g then s.openWindow g false
      else if s.fget HLM_SCAN_CTRL_ENABLE = 1 ∧ s.rotationNext = some g ∧ s.pair HLM_SCAN_NEXT_LO_TIME HLM_SCAN_NEXT_HI_TIME ≤ s.tb ∧
          3 ≤ s.fget PWR_STATUS_STAGE then
        let s := s.setNextScan (s.pair HLM_SCAN_NEXT_LO_TIME HLM_SCAN_NEXT_HI_TIME + s.scanStep)
        ({ s with hlm := { s.hlm with turn := (g + 1) % 16 } } : State).openWindow g false
      else s)

/-- DUP_SCAN_WINDOW: the window that a DUP_MISMATCH asks for on a core's gallery opens (R624). -/
def execDupScanWindow (c : Nat) (s : State) : Result :=
  .next (if s.hlm.window.isSome || !s.hlm.suspects.contains c || !s.galleryLive (c / 8) || s.scanPostponed (c / 8) then s else
    s.openWindow (c / 8) false)

/-- SCAN_DRAIN_END: DRAIN_MS has passed, or no item is bound any longer, and issue stops on the gallery's cores (R632
step 3). -/
def execScanDrainEnd (s : State) : Result :=
  .next (match s.hlm.window with
    | none => s
    | some w =>
      let idle := (List.range 8).all (fun k => (s.boundStrands (8 * w.gallery + k)).isEmpty)
      if 3 ≤ w.step ∨ (idle = false ∧ s.now < w.openedAt + 1_000_000 * s.fget HLM_SCAN_CTRL_DRAIN_MS) then s else
      { s with hlm := { s.hlm with window := some { w with step := 3 } } })

/-- SCAN_QUIESCED: in-flight engine instructions have their status words and running copies their end; the domain goes to its
operating voltage less 25 mV, and the slate runs (R632 steps 3 to 5). -/
def execScanQuiesced (s : State) : Result :=
  .next (match s.hlm.window with
    | none => s
    | some w =>
      let busy := s.engOps.any (fun o => o.core / 8 == w.gallery) ||
        w.copies.any (fun k => match s.item k with
          | some i => (match i.phase with | .mover _ _ => !i.unitDone | _ => false)
          | none => false)
      if w.step ≠ 3 ∨ busy = true then s else
      let s : State := { s with hlm := { s.hlm with window := some { w with step := 5 } } }
      (s.fset HLM_SCAN_STATUS_STATE 2).refreshDomain w.gallery)

/-- One unit's scan result: 0 transient, 1 reproduced and the slate passed under the new margin, 2 reproduced and failed again.
Answers LAST_RESULT's value for it (R633, R642). -/
def State.scanResult (s : State) (u verdict : Nat) : Nat × State :=
  match s.healthOf u, verdict with
  | 2, _ => (3, s)
  | _, 0 =>
    let s := s.judge u kScanFail 0x3FF
    (if s.healthOf u = umber then 3 else 1, s)
  | 1, _ => (3, (s.logEvent u kScanFail).setUnit u umber)
  | _, v =>
    let s := (s.logEvent u kScanFail).setUnit u 1
    if v = 1 then (2, s) else (3, (s.logEvent u kScanFail).setUnit u umber)

/-- SCAN_SLATE_DONE: the slate run ends; results are judged, then events that waited; voltage, dispatch, copies and issue
return. `fails` gives each unit with a failing pattern, its verdict, and how many patterns failed (R632 step 6, R633,
R640). -/
def execScanSlateDone (fails : List (Nat × Nat × Nat)) (s : State) : Result :=
  .next (match s.hlm.window with
    | none => s
    | some w =>
      if w.step ≠ 5 then s else
      let mine := fails.filter (fun f => unitGalleryOf f.1 == some w.gallery && f.2.1 < 3)
      let later := s.hlm.deferred
      let s : State := { s with hlm := { s.hlm with
        window := none, deferred := [],
        scanned := if w.bringUp then s.hlm.scanned ++ [w.gallery] else s.hlm.scanned,
        asked := s.hlm.asked.filter (· != w.gallery),
        suspects := s.hlm.suspects.filter (fun c => c / 8 != w.gallery) } }
      let s := ((s.fset LSQ_STATUS_SCAN 0 w.gallery).bump HLM_SCANS_COUNT).fset HLM_SCAN_STATUS_STATE 0
      let s := s.bump HLM_SCAN_FAILS_COUNT (mine.map (·.2.2)).sum
      let (worst, s) := mine.foldl (fun (acc : Nat × State) f =>
        let (r, s) := acc.2.scanResult f.1 f.2.1
        (max acc.1 r, s)) (0, s)
      let s := (s.fset HLM_SCAN_STATUS_LAST_RESULT worst).refreshDomain w.gallery
      let s := later.foldl (fun s e => s.judge e.1 e.2 0x3FF) s
      let s := if w.bringUp && s.bringUpScan.isNone then s.setNextScan (s.tb + s.scanStep) else s
      s.endScanItem w.gallery cServed 0)

/-! ### Owner commands on a unit (R625, R640) -/

/-- A unit index that names a unit (R618). -/
def unitOk (u : Nat) : Bool := u < 0x090 || (0x100 ≤ u && u < 0x340)

/-- OP of HLM_UNIT_CMD performed on a unit whose state it applies to: 1 MARK_AMBER, 2 CLEAR_AMBER, 3 RETIRE; recorded as an OWNER
event (R625). -/
def State.unitCmd (s : State) (op u : Nat) : State :=
  if !unitOk u then s else
  match op, s.healthOf u with
  | 1, 0 => (s.logEvent u kOwner).setUnit u 1
  | 2, 1 => (s.logEvent u kOwner).setUnit u 0
  | 3, 0 => (s.logEvent u kOwner).setUnit u umber
  | 3, 1 => (s.logEvent u kOwner).setUnit u umber
  | _, _ => s

/-- HLM_UNIT_CMD written whole (R642). -/
def State.writeUnitCmd (s : State) (op u : Nat) : State :=
  ((s.fset HLM_UNIT_CMD_OP op).fset HLM_UNIT_CMD_UNIT u).unitCmd op u

/-- MARK_AMBER: HLM_UNIT_CMD with OP 1 by the owner (R625). -/
def execMarkAmber (r : Requester) (u : Nat) (s : State) : Result := .next (if s.owns r then s.writeUnitCmd 1 u else s)

/-- CLEAR_AMBER: HLM_UNIT_CMD with OP 2 by the owner (R625). -/
def execClearAmber (r : Requester) (u : Nat) (s : State) : Result := .next (if s.owns r then s.writeUnitCmd 2 u else s)

/-- RETIRE: HLM_UNIT_CMD with OP 3 by the owner; packets of a retired lane go another way (R598, R625, R629). -/
def execRetire (r : Requester) (u : Nat) (s : State) : Result := .next (if s.owns r then (s.writeUnitCmd 3 u).flow else s)

/-! ### The health area of flash (R626, R639, R671) -/

/-- A write of the health area counted and dated; the UTC goes with it where one is known (R627, R638, R642). -/
def State.flashWritten (s : State) : State :=
  let s : State := { s with hlm := { s.hlm with
    life := smPut (fun _ => 0) s.hlm.life 6 (smGet (fun _ => 0) s.hlm.life 6 + 1)
    utcFlash := match s.utcBase with
      | some _ => (s.utcNow.1, s.powerOnNs / 1_000_000_000)
      | none => s.hlm.utcFlash } }
  s.pairSet HLM_FLASH_LAST_LO_TIME HLM_FLASH_LAST_HI_TIME s.tb

/-- One unit's record as flash holds it. -/
def State.recordUnit (s : State) (u : Nat) : State :=
  { s with hlm := { s.hlm with
    flash := (u, (s.healthOf u, s.historyOf u)) :: s.hlm.flash.filter (fun e => e.1 != u)
    unwritten := s.hlm.unwritten.filter (· != u) } }

/-- HEALTH_FLASH_WRITE: the oldest change of state that waits is written (R626). -/
def execHealthFlashWrite (s : State) : Result :=
  .next (match s.hlm.unwritten with
    | [] => s
    | u :: _ =>
      let s := (s.recordUnit u).flashWritten
      s.fset HLM_FLASH_PENDING (b2n (!s.hlm.unwritten.isEmpty)))

/-- The lifetime counters and every history written to flash (R626, R639). -/
def State.lifetimeWrite (s : State) : State :=
  let s := (s.hlm.history.map (·.1)).foldl (fun s u => s.recordUnit u) s
  let s := (s.hlm.unwritten.foldl (fun s u => s.recordUnit u) s).flashWritten
  let s := s.fset HLM_FLASH_PENDING 0
  let life := smPut (fun _ => 0) s.hlm.life 0 s.powerOnNs
  { s with hlm := { s.hlm with life := life, lifeAt := s.now, lifeFlash := life, stepsFlash := s.hlm.steps } }

/-- LIFETIME_WRITE: every 10 minutes of power-on time the lifetime counters and the histories are written (R626, R639). -/
def execLifetimeWrite (s : State) : Result :=
  .next (if s.powerOnNs < smGet (fun _ => 0) s.hlm.lifeFlash 0 + 600 * oneSecond then s else s.lifetimeWrite)

/-! ### Check-value runs (R635 to R637, R644) -/

/-- GO written to CVU `u` of gallery `g` (R636). -/
def State.cvuGo (s : State) (g u : Nat) : State :=
  let c := s.cvuCfg g u
  let refuse := fun (result : Nat) => s.cvuStatus g u 4 result 0 0
  if s.fget CVU_STATUS_STATE g u = 1 then s.fset CVU_STATUS_RESULT 3 g u
  else if c.width = 0 ∨ 64 < c.width ∨ 4 < c.mode ∨ (c.table = true ∧ (c.chunkLog2 < 12 ∨ 24 < c.chunkLog2)) ∨ s.cvuLen g u = 0 then
    refuse 2
  else
    match s.chamberOf g with
    | none => refuse 4
    | some n =>
      if !s.chLive n || !s.galleryLive g then refuse 4 else
      let s := s.setCvuRun g u { cfg := c, addr := s.cvuAddr g u, len := s.cvuLen g u, table := s.cvuTable g u }
      let s := ((s.cvuStatus g u 1 0 0 0).fset CVU_MISMATCH_COUNT 0 g u).fset CVU_FIRST_BAD_CHUNK 0xFFFF_FFFF g u
      s.pairSet CVU_BYTES_LO_COUNT CVU_BYTES_HI_COUNT 0 g u

/-- CVU_GO: CVU_CTRL.GO starts a run or refuses it (R636). -/
def execCvuGo (r : Requester) (g u : Nat) (s : State) : Result :=
  .next (if 16 ≤ g ∨ 2 ≤ u ∨ s.mayWriteGallery r g = false then s else s.cvuGo g u)

/-- CVU_ABORT: CVU_CTRL.ABORT stops a run at its next line (R644). -/
def execCvuAbort (r : Requester) (g u : Nat) (s : State) : Result :=
  .next (if 16 ≤ g ∨ 2 ≤ u ∨ s.mayWriteGallery r g = false then s else s.cvuStop g u 0 0)

/-- A check-value run over its whole range, with its end (R635, R637). -/
def State.cvuWhole (s : State) (g u n : Nat) : State :=
  let (f, s) := s.cvuRun g u n (s.cvuRunOf g u).len
  let bad := s.fget CVU_MISMATCH_COUNT g u ≠ 0
  let s := match f with
    | some f => s.cvuStatus g u 2 5 f.code f.cause
    | none => s.cvuStatus g u 2 (b2n bad) 0 0
  if bad then s.reportScrub else s

/-- CVU_RUN_DONE: a run reaches the end of its range, or meets a fault; a mismatch is a SCRUB event against the device (R635,
R637). -/
def execCvuRunDone (g u : Nat) (s : State) : Result :=
  .next (if 16 ≤ g ∨ 2 ≤ u ∨ s.fget CVU_STATUS_STATE g u ≠ 1 then s else
    match s.chamberOf g with
    | none => s
    | some n =>
      (s.remotely (.cvu g u) 0xFFFF (fun f s => s.cvuStatus g u 2 5 f.code f.cause) (fun s => s.cvuWhole g u n)).deliver)

/-- UNCORRECTABLE_UNCORE_FAULT: the device enters FAILED with CAUSE UNCORE (R617). -/
def execUncorrectableUncoreFault (s : State) : Result := .next (s.deviceFails 1)

end Sys2Proof.Machine
end

