-- ==== Sys2Proof/Machine/Survey.lean ====
section
/-! DEFINITION. Loading a survey: staging, commit, abort, the checks, and the steps of a committed load (R93 to R99, R110,
R112, R719). -/

namespace Sys2Proof.Machine

/-! ### SVY_CTRL (R93, R94, R110, R112) -/

/-- STAGE: opens staging and erases the inactive slot; bytes still to be programmed go with it. During a load it is ignored
and counted (R94, R110; of a load in CHECKING, log entry 129). -/
def State.svyStage (s : State) : State :=
  if s.svy.load.isSome then s.svyRefusal else
  let k := 1 - s.activeSlot
  let s := ((s.setSurveySlot k []).setValid k false).setStatus svyStaging 0 none16
  { s with svy := { s.svy with unprogrammed := s.svy.unprogrammed.map (fun (x : Staged) => { x with bytes := [] }) } }

/-- Whether a COMMIT is BUSY: a load runs, or bring-up has not passed stage 5 and does not wait for a survey (R110, R652). That a load
still in CHECKING, before its commit, also makes COMMIT BUSY and STAGE ignored is the model's choice (log entry 129). -/
def State.commitBusy (s : State) : Bool :=
  s.svy.load.isSome || (s.fget PWR_STATUS_CALIBRATED == 0 && !s.pwr.waiting)

/-- COMMIT for a session: false where it is BUSY, which leaves SVY_STATUS and counts (R95, R110, R652). -/
def State.svyCommit (s : State) (session : Nat) (viaMgc : Bool) : Bool × State :=
  if s.commitBusy then (false, s.svyRefusal) else
  let s := s.setStatus svyChecking 0 none16
  (true, { s with svy := { s.svy with load := some {
    phase := .checking, session := session, viaMgc := viaMgc, image := [], changed := [] } } })

/-- ABORT: staging or checking is abandoned at once; otherwise it is ignored (R110). That an ignored ABORT does not count in
SVY_REFUSALS is the model's choice (log entry 130). -/
def State.svyAbort (s : State) : State :=
  if s.svyState = svyStaging ∨ s.svyState = svyChecking then s.refuseLoad 0x10 none16 else s

/-- SVY_STAGE: a write of SVY_CTRL that sets STAGE alone; only the owner session acts (R93, R94, R110). -/
def execSvyStage (r : Requester) (s : State) : Result :=
  .next (if s.ownerSession r then s.svyStage else s.svyRefusal)

/-- SVY_COMMIT: a write of SVY_CTRL that sets COMMIT alone (R93, R95, R110, R652). -/
def execSvyCommit (r : Requester) (s : State) : Result :=
  .next (if s.ownerSession r then (s.svyCommit (s.fget CTP_OWNER_SLOT) false).2 else s.svyRefusal)

/-- SVY_ABORT: a write of SVY_CTRL that sets ABORT alone (R93, R110). -/
def execSvyAbort (r : Requester) (s : State) : Result :=
  .next (if s.ownerSession r then s.svyAbort else s.svyRefusal)

/-- A write of SVY_CTRL: more than one bit performs none and counts; none does nothing (R93, R112). -/
def State.svyCtrl (s : State) (r : Requester) (w : Nat) : State :=
  match w % 8 with
  | 0 => s
  | 1 => if s.ownerSession r then s.svyStage else s.svyRefusal
  | 2 => if s.ownerSession r then (s.svyCommit (s.fget CTP_OWNER_SLOT) false).2 else s.svyRefusal
  | 4 => if s.ownerSession r then s.svyAbort else s.svyRefusal
  | _ => s.svyRefusal

/-! ### The staging window (R719) -/

/-- Bytes written at an offset of the window, with the answer owed once they are programmed. Only the owner session's are
taken, and only while STAGING; each other register write is counted (R719). -/
def State.windowWrite (s : State) (r : Requester) (off : Nat) (bs : List Byte) (answer : Option (Nat × Nat × Nat × Nat)) :
    Bool × State :=
  if s.ownerSession r && s.svyState == svyStaging && off + bs.length ≤ 2 ^ 25 then
    (true, { s with svy := { s.svy with unprogrammed := s.svy.unprogrammed ++ [{ off := off, bytes := bs, answer := answer }] } })
  else (false, s.bump SVY_REFUSALS_COUNT ((bs.length + 3) / 4))

/-- STAGING_WINDOW_WRITE: words written to consecutive registers of the window from offset `off` (R719). -/
def execStagingWindowWrite (r : Requester) (off : Nat) (words : List Word) (s : State) : Result :=
  .next (s.windowWrite r (off / 4 * 4) (words.flatMap (fun w => leBytes 4 w.toNat)) none).2

/-- STAGE_BYTES_PROGRAMMED: the bytes at the head of the flash's queue are programmed into the inactive slot, and the REG_WRITE
that carried them is answered (R719). -/
def execStageBytesProgrammed (s : State) : Result :=
  .next (match s.svy.unprogrammed with
    | [] => s
    | x :: rest =>
      let k := 1 - s.activeSlot
      let s := if x.bytes.isEmpty then s else s.setSurveySlot k (flashWrite (s.surveySlot k) x.off x.bytes)
      let s : State := { s with svy := { s.svy with unprogrammed := rest } }
      match x.answer with
      | some (slot, type, seq, cause) => s.answerLater slot type seq cause []
      | none => s)

/-! ### Checking (R95, R99 step 3) -/

/-- The active survey; none where none is. -/
def State.activeImage (s : State) : Option (List Byte) := if s.svy.running.isEmpty then none else some s.svy.running

/-- The checks of R95 in order, on the staged image: what fails, or nothing; SVY_FLASH notes checks 3 to 8 (R114). -/
def State.checkStaged (s : State) (session : Nat) (img : List Byte) (len : Nat) : Option Failed × State :=
  let k := 1 - s.activeSlot
  if !s.ownerSession (.session session) then (some (0x01, none16), s) else
  match imageCheck s.sec.keysets img len with
  | some f => (some f, s.setValid k false)
  | none =>
    let s := s.setValid k true
    match fitCheck s.orderingCode (s.fget SEC_FW_VERSION_VERSION) s.activeImage img with
    | some f => (some f, s)
    | none =>
      match s.contentCheck img with
      | some f => (some f, s)
      | none => (if s.scopeOk img (s.changedBy img) then none else some (0x0F, none16), s)

/-- SVY_CHECK: with every staged byte programmed, the checks run; the load is committed and its changed chambers drain, or it
is refused (R95, R97, R99 steps 3 and 4, R719). -/
def execSvyCheck (s : State) : Result :=
  .next (match s.svy.load with
    | none => s
    | some l =>
      if l.phase ≠ .checking ∨ s.svy.unprogrammed.isEmpty = false then s else
      let len := s.fget SVY_STAGE_LEN_LEN
      let img := flashRead (s.surveySlot (1 - s.activeSlot)) len
      match s.checkStaged l.session img len with
      | (some f, s) => s.refuseLoad f.1 f.2
      | (none, s) =>
        let changed := s.changedBy img
        let s := s.setStatus svyDraining 0 none16
        let s : State := { s with svy := { s.svy with load := some {
          l with phase := .draining, image := img, changed := changed } } }
        (changed.filter (fun n => s.chLive n)).foldl (fun s n => s.stopChamber n) s)

/-! ### A committed load (R97 to R99) -/

/-- The load moved on to a phase. -/
def State.loadPhase (s : State) (l : Load) (p : LoadPhase) : State :=
  { s with svy := { s.svy with load := some { l with phase := p } } }

/-- SVY_ZEROISE: once every changed chamber has drained, their resources are zeroised (R99 step 5, R102). -/
def execSvyZeroise (s : State) : Result :=
  .next (match s.svy.load with
    | none => s
    | some l =>
      let old := l.changed.filter (fun n => (s.chamber n).kind != 0)
      if l.phase ≠ .draining ∨ old.all s.drained = false then s else
      let s := (s.setStatus svyZeroising 0 none16).loadPhase l .zeroising
      old.foldl (fun s n => s.zeroBegin n) s)

/-- ZEROISE_DONE: a share of chamber `n` is zeroised: its granules on a stack, or its galleries' SRAM, strand stores and slots
(R106 to R109). -/
def execZeroiseDone (n : Nat) (share : Option Nat) (s : State) : Result :=
  .next (if s.svy.zeroing.contains (n, share) then s.zeroShare n share else s)

/-- SVY_APPLY: once zeroisation ends, the chambers, slots, profiles and assignments are set (R85, R99 step 6). -/
def execSvyApply (s : State) : Result :=
  .next (match s.svy.load with
    | none => s
    | some l =>
      if l.phase ≠ .zeroising ∨ s.svy.zeroing.isEmpty = false then s else
      let s := (s.setStatus svyApplying 0 none16).loadPhase l .applying
      let s := l.changed.foldl (fun s n => s.applyChamber l.image n) s
      s.applyPorts (portsOf l.image))

/-- The active survey as the registers show it (R114). -/
def State.showSurvey (s : State) (img : List Byte) : State :=
  let s := (s.fset SVY_ACTIVE_ID_ID (fieldAt img 8 4)).fset SVY_ACTIVE_VER_VER (fieldAt img 0xC 4)
  let s := (List.range 12).foldl (fun s k => s.wset SVY_DIGEST (fieldAt (imageDigest img) (4 * k) 4) k) s
  { s with svy := { s.svy with running := img } }

/-- SVY_FLIP: the active slot flips, GROUP takes effect, SVY_STATUS returns to IDLE and the changed chambers become LIVE; where
bring-up waited for a survey it goes on from stage 3 and the chambers stay LOADING (R98, R99 steps 7 and 8, R103, R605,
R651). -/
def execSvyFlip (s : State) : Result :=
  .next (match s.svy.load with
    | none => s
    | some l =>
      if l.phase ≠ .applying then s else
      let s := (s.fset SVY_FLASH_ACTIVE (1 - s.activeSlot)).showSurvey l.image
      let s := (s.applyGroup (groupOf l.image)).setStatus svyIdle 0 none16
      let s := if s.pwr.waiting then
          ({ s with svy := { s.svy with applied := true } } : State).fset PWR_BOOT_SURVEY 1 |>.enterStage3
        else l.changed.foldl (fun s n => s.goLive n) s
      s.endLoad 0)

end Sys2Proof.Machine
end

