-- ==== Sys2Proof/Machine/Resets.lean ====
section
/-! DEFINITION. Resets, what they keep, and orderly power-down (R647, R648, R668, R669, R700, R705, R706, R712). -/

namespace Sys2Proof.Machine

/-! ### POWER_ON and WARM (R648) -/

/-- The health area of flash as a reset finds it: a change of state not yet written is lost, its events are not (R640). -/
def State.healthFlash (s : State) : List (Nat × (Nat × UnitHistory)) :=
  s.hlm.unwritten.foldl (fun f u =>
    let was := ((f.find? (fun e => e.1 == u)).map (fun e => e.2.1)).getD 0
    (u, (was, s.historyOf u)) :: f.filter (fun e => e.1 != u)) s.hlm.flash

/-- Registers that flash and fuses keep: the active survey slot, the lifecycle, the firmware floor, the keys held, the identity
record, and which firmware slots hold verified images (R648, R498). -/
def State.keptRegs (s : State) : List (Nat × Word) :=
  [(0x1C, s.rget 0x1C), (0x3000, s.rget 0x3000), (0x3004, s.rget 0x3004 &&& 0x7000_0000#32), (0x300C, s.rget 0x300C),
   (0x3010, s.rget 0x3010)] ++ (List.range 32).map (fun k => (0x3080 + 4 * k, s.rget (0x3080 + 4 * k)))

/-- Every block as after a reset of a kind, 1 POWER_ON or 2 WARM; flash and fuses are kept, and by a WARM reset the supplies and
the delays that seed training. The device is held in reset (R648). -/
def State.reinit (s : State) (kind : Nat) : State :=
  let d := Power.atReset
  let warm := kind == 2
  let domains := if warm then
      s.pwr.domains.map (fun x => { PwrDomain.atReset 0 with target := x.target, vexp := x.vexp, sent := x.sent, mute := x.mute })
    else d.domains
  let volts := (List.range 17).map (fun k => (0x6600 + 0x10 * k, s.rget (0x6600 + 0x10 * k)))
  let r : State := { State.reset with
    pending := s.pending, now := s.now, free := s.free, out := s.out, granules := s.granules
    svy := { State.reset.svy with slotA := s.svy.slotA, slotB := s.svy.slotB }
    sec := { s.sec with fwStaged := [], stager := 0, commit := none }
    hlm := { Hlm.atReset with
      flash := s.healthFlash, stepsFlash := s.hlm.stepsFlash, life := s.hlm.lifeFlash, lifeFlash := s.hlm.lifeFlash, lifeAt := s.now, utcFlash := s.hlm.utcFlash }
    pwr := { d with
      domains := domains, margin := s.pwr.margin, held := true, kind := kind, trip := s.pwr.trip, good := s.pwr.good
      seeded := if warm then s.pwr.seeded else [] }
    i3c := { s.i3c with ibi := false, waiting := [] }, tap := s.tap, pins := { s.pins with offReadyN := true } }
  (s.keptRegs ++ (if warm then volts else [])).foldl (fun s e => s.rput e.1 e.2) r

/-- A reset counted in the lifetime counter RESETS (R638, R648). -/
def State.countReset (s : State) : State :=
  { s with hlm := { s.hlm with life := smPut (fun _ => 0) s.hlm.life 5 (smGet (fun _ => 0) s.hlm.life 5 + 1) } }

/-- The reset ends and stage 1 begins, once PWR_GOOD and RESET_N are high and no boundary instruction holds the device; a trip is
over only with a new PWR_GOOD. The timebase reads 0 (R648, R668, R675, R705, R712). -/
def State.leaveReset (s : State) : State :=
  if s.pwr.held && s.pins.pwrGood && s.pins.resetN && !s.tap.hold then
    let s : State := { s with tb := 0, pwr := { s.pwr with held := false } }
    (s.fset PWR_BOOT_RESET_KIND s.pwr.kind).noteBoard
  else s.noteBoard

/-- POWER_ON: PWR_GOOD rises, and everything but flash and fuses starts anew; the cause of an earlier trip is reported (R648,
R668, R712). -/
def execPowerOn (s : State) : Result :=
  .next (if s.pins.pwrGood then s else
    let s : State := { s with pins := { s.pins with pwrGood := true }, pwr := { s.pwr with good := true } }
    let s := (s.reinit 1).countReset
    let s := s.fset PWR_BOOT_LAST_TRIP s.pwr.trip
    ({ s with pwr := { s.pwr with trip := 0 } } : State).leaveReset)

/-- PWR_GOOD_FALL: steps not completed are lost; FAULT_N and THERMTRIP_N are released (R700, R712). -/
def execPwrGoodFall (s : State) : Result :=
  .next (if !s.pins.pwrGood then s else
    let s : State := { s with
      pins := { s.pins with pwrGood := false, faultN := true, thermtripN := true }
      pwr := { s.pwr with good := false } }
    (s.reinit 1).noteBoard)

/-- RESET_N: held low for 1 µs it requests a WARM reset and releases FAULT_N; a trip it does not end. A reset that has not yet
ended keeps its kind (R648, R700, R712). -/
def execResetN (s : State) : Result :=
  .next (if !s.pins.resetN then s else
    let s : State := { s with pins := { s.pins with resetN := false } }
    if s.pins.pwrGood = false ∨ s.pins.thermtripN = false ∨ s.pwr.held = true then s else
    let s : State := { s with pins := { s.pins with faultN := true } }
    ((s.reinit 2).countReset).leaveReset)

/-- RESET_N_RISES: stage 1 begins, unless a boundary instruction holds the device in reset (R705, R712). -/
def execResetNRises (s : State) : Result :=
  .next (({ s with pins := { s.pins with resetN := true } } : State).leaveReset)

/-- PWR_CTRL.WARM_RESET (R648). -/
def State.warmReset (s : State) : State :=
  if s.pwr.held ∨ s.pins.pwrGood = false ∨ s.pins.thermtripN = false then s else ((s.reinit 2).countReset).leaveReset

/-- WARM_RESET: the owner writes PWR_CTRL.WARM_RESET (R648, R674). -/
def execWarmReset (r : Requester) (s : State) : Result := .next (if s.owns r then s.warmReset else s)

/-! ### PORT (R648) -/

/-- A PORT reset: every session and ownership ends, and the CTP_ block is reinitialised but for the UTC base; the optical links
stand as they do. Everything else runs on (R469, R470, R472, R648). -/
def State.portReset (s : State) : State :=
  let s := (s.ctp.sessions.map (·.1)).foldl (fun s k => s.closeSession k) s
  let up := (s.fget CTP_PORT_STATUS_LINK_UP 0, s.fget CTP_PORT_STATUS_LINK_UP 1)
  let s := s.resetRange 0x2000 0x2208
  let s := s.resetRange 0x2210 0x3000
  let s := (s.fset CTP_PORT_STATUS_LINK_UP up.1 0).fset CTP_PORT_STATUS_LINK_UP up.2 1
  let s : State := { s with ctp := { Ctp.atReset with hello := s.ctp.hello, darkAt := s.ctp.darkAt } }
  (s.enablePorts.countReset.fset PWR_BOOT_RESET_KIND 3).noteBoard

/-- PORT_RESET: the owner writes PWR_CTRL.PORT_RESET (R648, R674). -/
def execPortReset (r : Requester) (s : State) : Result := .next (if s.owns r then s.portReset else s)

/-! ### Loss of the reference clock (R706) -/

/-- REFCLK_LOSS: every clocked island stops, the device enters FAILED with CAUSE UNCORE, and its control ports go dark (R706). -/
def execRefclkLoss (s : State) : Result :=
  .next (if s.pwr.held then s else
    let s : State := { s with pwr := { s.pwr with dark := true, halted := true } }
    let s := (s.fset CTP_PORT_STATUS_LINK_UP 0 0).fset CTP_PORT_STATUS_LINK_UP 0 1
    s.deviceFails 1)

/-! ### Orderly power-down (R669, R672) -/

/-- Orderly power-down begins: new items are refused (R669 step 1). -/
def State.shutdown (s : State) : State :=
  if s.pwr.shutdownAt.isSome ∨ s.pwr.halted = true ∨ s.pwr.held = true then s else
  ({ s with pwr := { s.pwr with shutdownAt := some s.now } } : State).fset PWR_STATUS_SHUTDOWN 1

/-- SHUTDOWN: the owner writes PWR_CTRL.SHUTDOWN (R669). -/
def execShutdown (r : Requester) (s : State) : Result := .next (if s.owns r then s.shutdown else s)

/-- OFF_REQ: OFF_REQ_N has been low for 1 ms; honoured once the MGC runs, in stage 2 (R669, R699, R712). -/
def execOffReq (s : State) : Result :=
  .next (
    let s : State := { s with pins := { s.pins with offReqN := false } }
    if 2 ≤ s.fget PWR_STATUS_STAGE then s.shutdown else s)

/-- SHUTDOWN_DRAIN_END: the outstanding items have ended, or 2 s have passed; every queue is destroyed, early service ends, and
health history and lifetime counters are written (R669 steps 2 to 4, R672). -/
def execShutdownDrainEnd (s : State) : Result :=
  .next (match s.pwr.shutdownAt with
    | none => s
    | some t =>
      if s.pwr.drained = true ∨ s.pwr.halted = true ∨ (s.items.isEmpty = false ∧ s.now < t + 2 * oneSecond) then s else
      let s := ((List.range 16).filter s.chLive).foldl (fun s n => s.stopChamber n) s
      let s := (s.fset PWR_STATUS_EARLY 0).lifetimeWrite
      { s with pwr := { s.pwr with drained := true, handoverAt := none } })

/-- OFF_READY: with every queue torn down the stacks enter self refresh and OFF_READY_N is asserted (R669 step 5). -/
def execOffReady (s : State) : Result :=
  .next (if s.pwr.drained = false ∨ s.pwr.halted = true ∨ s.pins.offReadyN = false ∨
      (List.range 16).all (fun n => (s.heldQueues n).all (fun q => s.queueState q == qTeardownDone)) = false then s else
    let s : State := { s with pins := { s.pins with offReadyN := false } }
    (List.range 16).foldl (fun s st => s.fset HBC_STATUS_LOW_POWER 1 st) s)

end Sys2Proof.Machine
end

