-- ==== Sys2Proof/Machine/Sched.lean ====
section
/-! DEFINITION. Pre-emption: the choice of victims, their suspension and their resumption (R545, R546, R558 to R565). -/

namespace Sys2Proof.Machine

/-- The latency-critical reservation of a live core of chamber `n`: scratchpad and accumulator bytes (R545). -/
def State.lcReserve (s : State) (n : Nat) : Nat × Nat :=
  let share := (s.chamber n).lcShare
  (share * 2_097_152 / 64_000 * 64, share * 524_288 / 64_000 * 64)

/-- The items bound to core `c` and not suspended, of one class. -/
def State.boundItems (s : State) (c cls : Nat) : List Item :=
  s.items.filter (fun i => match i.phase with | .bound d _ => d == c && s.queueClass i.key.queue == cls | _ => false)

/-- Whether R546 lets a latency-critical item reclaim reserved budget on core `c`. -/
def State.reserveAdmits (s : State) (n c : Nat) (i : Item) : Bool :=
  let lc := s.boundItems c 0
  let (u, v) := s.lcReserve n
  (lc.map Item.scratch).sum + i.scratch ≤ u && (lc.map Item.accum).sum + i.accum ≤ v

/-- The strand index of a bound item. -/
def Item.strandIx (i : Item) : Nat := match i.strandOf with | some (_, t) => t | none => 0

/-- The best-effort items of core `c` that may be victims, most recently bound first and then by lower strand index:
never persistent tasks, nor strands already chosen (R559, R579). -/
def State.candidates (s : State) (c : Nat) : List Item :=
  let l := (s.boundItems c 1).filter (fun i => i.kind != kindTask && i.ending.isNone &&
    !(s.strand c i.strandIx).victim)
  l.mergeSort (fun a b => b.boundAt < a.boundAt || (a.boundAt == b.boundAt && a.strandIx ≤ b.strandIx))

/-- Budget of core `c` left over by every item that is not chosen as a victim: scratchpad and accumulator. -/
def State.coreLeft (s : State) (c : Nat) : Nat × Nat :=
  let on := s.items.filter (fun i => match i.phase with | .bound d t => d == c && !(s.strand c t).victim | _ => false)
  (2_097_152 - (on.map Item.scratch).sum, 524_288 - (on.map Item.accum).sum)

/-- Victims taken in order until the item fits; none where even all of them would not do (R559). -/
def takeVictims (needS needA : Nat) : List Item → Nat × Nat → Option (List Item)
  | [], (u, v) => if needS ≤ u ∧ needA ≤ v then some [] else none
  | x :: xs, (u, v) =>
    if needS ≤ u ∧ needA ≤ v then some []
    else (takeVictims needS needA xs (u + x.scratch, v + x.accum)).map (x :: ·)

/-- The victims that would make room for item `i` on core `c`, with at least one. -/
def State.victims (s : State) (c : Nat) (i : Item) : Option (List Item) :=
  match takeVictims i.scratch i.accum (s.candidates c) (s.coreLeft c) with
  | some (v :: vs) => some (v :: vs)
  | _ => none

/-- Accumulator bytes saved for a victim: of its MX.RUN in flight, which holds 4 bytes for each output element
(R561; log entry 7). -/
def State.savedAccum (s : State) (k : ItemKey) : Nat :=
  ((s.engOps.filter (fun o => o.item == k && o.eng == .mxe)).map
    (fun o => 4 * fieldAt o.desc 6 2 * fieldAt o.desc 8 2)).sum

/-- The declared bytes that saving some victims takes (R558). -/
def State.saveBytes (s : State) (c : Nat) (l : List Item) : Nat :=
  (l.map (fun i => (s.strand c i.strandIx).liveLen + s.savedAccum i.key)).sum

/-- The save area of chamber `n`; 0 means none (R581). -/
def State.saveArea (s : State) (n : Nat) : Nat :=
  s.fget GFE_SCH_SAVE_HI_ADDR n * 2 ^ 32 + s.fget GFE_SCH_SAVE_LO_ADDR n * 2 ^ 16

/-- PREEMPT: a latency-critical item waiting in the LSQ of gallery `g` that cannot bind selects victims on the core where
they cost the fewest bytes to save (R558, R559); a victim already pre-empted PREEMPT_MAX times is aborted instead
(R564). -/
def execPreempt (g : Nat) (s : State) : Result :=
  .next (
    let n := (s.chamberOf g).getD 16
    let max_ := s.fget GFE_SCH_CTRL_PREEMPT_MAX n
    if max_ == 0 || s.saveArea n == 0 || s.scanning g then s else
    let waits := (s.lsqItems g).filter (fun i => s.queueClass i.key.queue == 0 && (s.pickCore g i).isNone)
    let plan := fun (i : Item) =>
      let cores := (s.liveCores g).filter (fun c => s.reserveAdmits n c i && (s.victims c i).isSome &&
        0 < s.freeStrands c && (i.kind != kindTask || s.tasksOf c < 1024))
      argMin (fun c => s.saveBytes c ((s.victims c i).getD [])) cores
    match waits.find? (fun i => (plan i).isSome) with
    | none => s
    | some i =>
      match plan i with
      | none => s
      | some c =>
        ((s.victims c i).getD []).foldl (fun s v =>
          if max_ ≤ v.preempts then s.abortOne v.key cPreemptLimit
          else s.setStrand c v.strandIx { s.strand c v.strandIx with victim := true }) s)

/-- The slice of the save area for core `c`: the k-th core of the chamber's galleries, ascending (R565). -/
def State.saveSlice (s : State) (n c : Nat) : Nat :=
  let cores := (s.galleriesOf n).flatMap (fun g => (List.range 8).map (8 * g + ·))
  s.saveArea n + 2_621_440 * (cores.filter (· < c)).length

/-- SUSPEND_DONE: once a victim's VXE, ATU and RTE instructions have ended and all that a release by it must follow is performed, its
declared range is saved, it becomes SUSPENDED and its budget is freed (R440, R561). -/
def execSuspendDone (c t : Nat) (s : State) : Result :=
  .next (
    let x := s.strand c t
    match x.item with
    | none => s
    | some k =>
      if !x.victim || x.mode == .suspended ||
          s.engOps.any (fun o => o.core == c && o.strand == t && o.eng != .mxe) ||
          s.ms.owes c t s.ms.nextId then s else
      match s.item k with
      | none => s
      | some i =>
        if i.ending.isSome then s else
        let n := s.coreChamber c
        let r : MReq := ⟨c / 8, 0xF1⟩
        match s.writeVa r n (.copy k) k.queue (s.saveSlice n c + x.liveOff)
            (s.bytes (scratchBase c + x.liveOff) x.liveLen) with
        | (some f, s) => (s.deliver).failStrand c t f.code f.cause
        | (none, s) =>
          let s := s.deliver
          let s := s.setStrand c t { x with mode := .suspended, run := 0 }
          let s := s.bump GFE_SCH_PREEMPTS_COUNT 1 n
          s.modItem k (fun j => { j with phase := .suspended c t s.now, preempts := (j.preempts + 1) % 2 ^ 16 }))

/-- Whether two ranges overlap. -/
def overlaps (a la b lb : Nat) : Bool := a < b + lb && b < a + la

/-- A suspended item's saved range restored: its strand goes on, with an acquire at chamber scope (R54, R440, R563). -/
def State.restore (s : State) (i : Item) (c t : Nat) : State :=
  let x := s.strand c t
  let n := s.coreChamber c
  match s.readVa ⟨c / 8, 0xF1⟩ n (s.saveSlice n c + x.liveOff) x.liveLen with
  | (.error f, s) => s.failStrand c t f.code f.cause
  | (.ok bs, s) =>
    let s := s.setBytes (scratchBase c + x.liveOff) bs
    let mode := if x.wait = .none then StrandMode.ready else .waiting
    let s := s.setStrand c t { x with mode := mode, victim := false, readyAt := s.tb }
    let s := { s with ms := s.ms.acquire c 2 }
    s.modItem i.key (fun j => { j with phase := .bound c t })

/-- RESUME: the oldest suspension of core `c` that its budget admits and whose range no bound strand's range overlaps is
restored, with the acquire of R440 (R563). -/
def execResume (c : Nat) (s : State) : Result :=
  .next (
    let susp := s.items.filter (fun i => match i.phase with | .suspended d _ _ => d == c | _ => false)
    let since := fun (i : Item) => match i.phase with | .suspended _ _ a => a | _ => 0
    match argMin since susp with
    | none => s
    | some i =>
      let t := i.strandIx
      let x := s.strand c t
      let (u, v) := s.coreLeft c
      let clash := (s.boundStrands c).any (fun e => e.2.mode != .suspended &&
        overlaps e.2.liveOff e.2.liveLen x.liveOff x.liveLen)
      if u < i.scratch ∨ v < i.accum ∨ clash = true ∨ s.scanning (c / 8) = true ∨ s.coreLive c = false then s else
      (s.remotely (.copy i.key) i.key.queue (fun f s => s.failStrand c t f.code f.cause) (fun s => s.restore i c t)).deliver)

end Sys2Proof.Machine
end

