-- ==== Sys2Proof/Machine/Readings.lean ====
section
/-! DEFINITION. What a control-space register reads as, for each requester: the access rules of the blocks, the registers the
device forms at the read, the latches of counters, and the fields that a read clears (R13 to R22, R713 to R717). -/

namespace Sys2Proof.Machine

/-! ### What exists (R715, R717) -/

/-- Whether an address lies in the span of a block. -/
def mapped (a : Nat) : Bool :=
  a < 0xE000 || (0x1_0000 ≤ a && a < 0x2_0400) || (0x8_0000 ≤ a && a < 0xA0_0000) || (0x200_0000 ≤ a && a < 0x400_0000)

/-- Whether an address lies in the survey staging window. -/
def inStaging (a : Nat) : Bool := 0x200_0000 ≤ a && a < 0x400_0000

/-- The instance of `r` at an address it covers. -/
def instAt (r : Reg) (a : Nat) : Nat × Nat := (regInst r a).getD (0, 0)

/-! ### What code in a chamber reads (R45, R111, R115, R163, R197, R233, R266, R307, R347, R349, R376, R408, R410, R495, R497,
R539, R542, R580, R612, R641, R643, R673, R693, R694) -/

/-- LNK_: a sealed chamber's own ports, PORT_STATUS of a pooled chamber's shared ports, and the head of the group set for a
chamber of the group (R612). -/
def State.codeReadsLink (s : State) (n a : Nat) : Bool :=
  let o := a - 0x9000
  let c := s.chamber n
  if 0x800 ≤ o then o ≤ 0x80C && s.inGroup n
  else if c.kind == 1 then bitOf c.owned (o / 0x80)
  else bitOf c.shared (o / 0x80) && a == regAddr LNK_PORT_STATUS (o / 0x80) 0

/-- PWR_: rates of the chamber's own galleries and cores, the uncore's rate, PWR_STATUS, the domain sets of its galleries and
its chamber set (R45, R673). -/
def State.codeReadsPower (s : State) (n a : Nat) : Bool :=
  let o := a - 0x6000
  let own := fun g => s.chamberOf g == some n
  if a = PWR_STATUS.base ∨ o = 0x100 then true
  else if 0x104 ≤ o ∧ o < 0x144 then own ((o - 0x104) / 4)
  else if 0x148 ≤ o ∧ o < 0x188 then own ((o - 0x148) / 4)
  else if 0x200 ≤ o ∧ o < 0x400 then own ((o - 0x200) / 32)
  else if 0x600 ≤ o ∧ o < 0x700 then own ((o - 0x600) / 16)
  else 0x800 ≤ o && o < 0x900 && (o - 0x800) / 16 == n

/-- Whether code in chamber `n` reads the register at `a`; every other read of it returns 0. -/
def State.codeReads (s : State) (n a : Nat) : Bool :=
  let own := fun g => s.chamberOf g == some n
  if 16 ≤ n ∨ a < 0x1000 then false
  else if a < 0x2000 then (a - 0x1000) / 0x100 == n
  else if a < 0x6000 then false
  else if a < 0x7000 then s.codeReadsPower n a
  else if a < 0x8000 then a == TBC_NOW_LO.base || a == TBC_NOW_HI.base || a == TBC_STATUS.base
  else if a < 0x9000 then 0x8100 ≤ a && (a - 0x8100) / 0x40 == n
  else if a < 0xA000 then s.codeReadsLink n a
  else if a < 0xE000 then 0x100 ≤ a % 0x1000 && (a % 0x1000 - 0x100) / 0x40 == n
  else if a < 0x2_0000 then
    bitOf (s.chamber n).stackMask ((a - 0x1_0000) / 0x1000) &&
      ((s.chamber n).kind == 1 || (regInst HBC_STATUS a).isSome || (regInst HBC_PC_LIVE a).isSome)
  else if a < 0x8_0000 then (a - 0x2_0000) / 0x40 == n
  else if a < 0x8_1000 then 0x8_0100 ≤ a && (a - 0x8_0100) / 0x40 == n
  else if a < 0x9_0000 then (a - 0x8_1000) / 0x40 == n
  else if a < 0xC_0000 then
    let q := (a - 0x9_0000) / 0x20
    s.queueState q != qFree && s.queueChamber q == n
  else if a < 0x10_0000 then
    let q := (a - 0xC_0000) / 0x40
    s.queueState q != qFree && s.queueChamber q == n
  else if a < 0x20_0000 then own ((a - 0x10_0000) / 0x1_0000)
  else a < 0xA0_0000 && own ((a - 0x20_0000) / 0x8_0000)

/-- Whether a requester reads the register at `a`: control sessions and management-core firmware read all of them. -/
def State.mayRead (s : State) (r : Requester) (a : Nat) : Bool :=
  match r with
  | .core c _ => s.codeReads (s.coreChamber c) a
  | _ => true

/-! ### Registers formed at the read -/

/-- A value that is defined only while something holds: 0 as at reset while nothing has run, and free otherwise. -/
def State.stale (s : State) (ran : Bool) (bound : Nat) : Nat × State := if ran then s.draw bound else (0, s)

/-- The instructions of an engine of core `c`. -/
def State.engOpsOf (s : State) (c : Nat) (e : Engine) : List EngOp := s.engOps.filter (fun (o : EngOp) => o.core == c && o.eng == e)

/-- The strand of the instruction at the head; it is valid only while there is one. -/
def State.headStrand (s : State) (ops : List EngOp) (ran : Bool) : Nat × State :=
  match ops with
  | o :: _ => (o.strand, s)
  | [] => s.stale ran 8192

/-- MXE_STATUS: banks are in use only while an instruction is (R233, R234). -/
def State.mxeStatus (s : State) (c : Nat) : Nat × State :=
  let ops := s.engOpsOf c .mxe
  let busy := !ops.isEmpty
  let (t, s) := s.headStrand ops (s.pair MXE_MAC_LO_COUNT MXE_MAC_HI_COUNT c != 0)
  let copies := s.engOps.any (fun o => o.checker == some c)
  let (b, s) := s.stale (busy || copies || !(s.engOpsOf c .atu).isEmpty) 4
  (b2n busy * 2 ^ 31 + b * 2 ^ 29 + min 16 ops.length * 2 ^ 24 + t, s)

/-- VXE_STATUS: an ATU softmax step may hold lanes while the ATU works (R267). -/
def State.vxeStatus (s : State) (c : Nat) : Nat × State :=
  let ops := s.engOpsOf c .vxe
  let (t, s) := s.headStrand ops (s.pair VXE_ELEM_LO_COUNT VXE_ELEM_HI_COUNT c != 0)
  let (b, s) := s.stale (!(s.engOpsOf c .atu).isEmpty) 2
  (b2n (!ops.isEmpty) * 2 ^ 31 + min 16 ops.length * 2 ^ 24 + b * 2 ^ 23 + t, s)

/-- SFU_STATUS: the latest grant as the instructions that asked left it; while engines that ask work, which lane groups have a request,
and which grant is the latest, is open (R268). -/
def State.sfuStatus (s : State) (c : Nat) : Nat × State :=
  let works := !(s.engOpsOf c .vxe).isEmpty || !(s.engOpsOf c .atu).isEmpty
  if !works then (s.fget SFU_STATUS_LAST_GRANT c * 2 ^ 28 + s.fget SFU_STATUS_SLOT c, s) else
  let (p, s) := s.draw 16
  let (g, s) := s.draw 4
  let (k, s) := s.draw 512
  (b2n (p != 0) * 2 ^ 31 + g * 2 ^ 28 + p * 2 ^ 24 + k, s)

/-- ATU_STATUS: a block step may hold the MXE while the ATU works (R308). -/
def State.atuStatus (s : State) (c : Nat) : Nat × State :=
  let ops := s.engOpsOf c .atu
  let busy := !ops.isEmpty
  let (t, s) := s.headStrand ops (s.pair ATU_BLK_LO_COUNT ATU_BLK_HI_COUNT c != 0)
  let (b, s) := s.stale busy 2
  (b2n busy * 2 ^ 31 + b * 2 ^ 30 + min 16 ops.length * 2 ^ 24 + t, s)

/-- RTE_STATUS: the queue holds what has not become a batch; the current instruction is the oldest (R310, R348). -/
def State.rteStatus (s : State) (g : Nat) : Nat × State :=
  let ops := s.engOps.filter (fun (o : EngOp) => o.core / 8 == g && 4 ≤ o.eng.index)
  let queued := (ops.filter (fun (o : EngOp) => !(o.eng == .rte && o.decoded))).length
  let live := (s.rte.epochs.filter (fun e => e.gallery == g && e.live)).length
  let (w, s) := match ops with
    | o :: _ => (o.core % 8 * 2 ^ 13 + o.strand, s)
    | [] => s.stale (s.pair RTE_ASSIGN_LO_COUNT RTE_ASSIGN_HI_COUNT g != 0) (2 ^ 16)
  (b2n (!ops.isEmpty) * 2 ^ 31 + min 64 live * 2 ^ 22 + min 32 queued * 2 ^ 16 + w, s)

/-- Rows that a half of the device has sent and whose answers it awaits: rows to other devices, rows that wait for their half or were
moved by loopback and have not come back, and results that have not left their port (R349, R350; log entry 121). -/
def State.rowsInFlight (s : State) (half : Nat) : Nat :=
  let asked := s.fab.outstanding.filter (fun x => match x.owner with | .row g _ _ _ => g / 8 == half | _ => false)
  let looped := (s.rte.batches.filter (fun b => b.gallery / 8 == half)).map (fun b =>
    (b.sel.filter (fun x => x.sent && !x.returned && x.device == s.deviceId)).length)
  let result := fun (p : Packet) => p.type == ptResult && p.src == s.deviceId && galleryOfCode p.stream / 8 == half
  let queued := s.fab.lanes.map (fun e => (e.2.replay.filter result).length)
  asked.length + looped.sum + queued.sum + (s.fab.txq.filter (fun e => result e.2)).length

/-- XCE_STATUS: ports 0 to 7 are the west half's, 8 to 15 the east's; a port shows that it has a lane in service, whatever its own
state (R350). -/
def State.xceStatus (s : State) (half : Nat) : Nat :=
  let k := s.rowsInFlight half
  let up := (List.range 8).filter (fun i => !(s.lanesUp (8 * half + i)).isEmpty)
  b2n (k != 0) * 2 ^ 31 + maskOf up * 2 ^ 16 + saturate 0xFFFF k

/-- Whether a requester sees slot `id`: code sees its own chamber's (R197, R268). -/
def State.slotSeen (s : State) (r : Requester) (id : Nat) : Bool :=
  match r with
  | .core c _ => (s.slot id).owner == some (s.coreChamber c)
  | _ => true

/-- CDC_SLOT_INFO and CDC_SLOT_REFS of the slot a requester selects (R198). -/
def State.slotInfo (s : State) (r : Requester) (id : Nat) : Nat × Nat :=
  let x := s.slot id
  if s.slotSeen r id then
    ((if x.content.isEmpty then 0 else x.gen) * 2 ^ 16 + slotKind id * 2 ^ 14 + b2n x.owner.isSome * 2 ^ 13 + b2n x.write.isSome * 2 ^ 12,
      saturate 0xFFFF (s.slotRefs id))
  else (0, 0)

/-- SFU_TBL_INFO of the function table slot a requester selects (R268). -/
def State.tableInfo (s : State) (r : Requester) (id : Nat) : Nat :=
  let x := s.slot id
  if s.slotSeen r id && slotKind id == 2 && !x.content.isEmpty then
    let T := parseFn x.content
    T.dir % 4 * 2 ^ 30 + T.pre % 4 * 2 ^ 28 + saturate 0xFFFF T.maxUlp
  else 0

/-- The registers of chamber `n`'s ATU sequence set (R307, R309). -/
def State.seqWord (s : State) (n id : Nat) (r : Reg) : Option Nat :=
  let q := s.seq n id
  let waits := s.engOps.filter (fun (o : EngOp) => o.suspended && o.aux.getD 1 0 / 65536 == n)
  if r = ATU_POOL_TOTAL then some (s.poolTotal n)
  else if r = ATU_POOL_FREE then some (s.poolFree n)
  else if r = ATU_POOL_RESV then some (s.poolReserved n)
  else if r = ATU_POOL_ZERO then some (s.poolZero n)
  else if r = ATU_SEQ_OPEN then some (s.openSeqs n)
  else if r = ATU_SEQ_GEN then some q.gen
  else if r = ATU_SEQ_STATE then
    some ((if q.state == 1 && waits.any (fun o => o.aux.getD 1 0 == seqKey n id) then 2 else q.state) * 2 ^ 30 +
      saturate 0xFFFF (s.seqRefs n id))
  else if r = ATU_SEQ_LENGTH then some q.length
  else if r = ATU_SEQ_HIGH then some q.high
  else if r = ATU_SEQ_PAGES then some (s.seqPages n id)
  else if r = ATU_SEQ_MAX then some q.max
  else if r = ATU_SUSPENDED then some waits.length
  else none

/-- RTE_BIAS to RTE_IMB of the profile and expert a requester selects (R347, R348). -/
def State.loopWord (s : State) (n p e : Nat) (r : Reg) : Option Nat :=
  let L := s.loopOf n p
  let named := s.rpOk n p && e < rpExperts (s.rprofile n p)
  if r = RTE_BIAS then some (if named then s.biasOf n p e else 0)
  else if r = RTE_LOAD then some (if named then smGet (fun _ => 0) s.rte.load (biasKey n p e) else 0)
  else if r = RTE_LOOP then some (b2n (L.updates != 0) * 2 ^ 31 + L.updates * 2 ^ 16 + saturate 0xFFFF L.batches)
  else if r = RTE_IMB then some (L.ratio * 2 ^ 16 + L.expert)
  else none

/-- A lifetime counter as software reads it: whole seconds of power-on time, joules of 10 nJ, and mV·s of the 10 µs windows
(R638). -/
def State.lifeValue (s : State) (k : Nat) : Nat :=
  if k = 0 then s.powerOnNs / 1_000_000_000
  else
    let v := smGet (fun _ => 0) s.hlm.life k
    if k = 2 then v / 100_000_000 else if 0x10 ≤ k ∧ k ≤ 0x20 then v / 1_000_000 else v

/-- HLM_UNIT_STATE to HLM_UNIT_LAST_HI and the counter of the requester's selectors (R638, R642). -/
def State.unitWord (s : State) (u life : Nat) (r : Reg) : Option Nat :=
  let h := s.historyOf u
  let known := s.hlm.history.any (fun e => e.1 == u)
  if r = HLM_UNIT_STATE then
    some (s.healthOf u * 2 ^ 30 + b2n known * 2 ^ 29 + b2n h.cap * 2 ^ 28 + b2n h.estimated * 2 ^ 27 + h.kind * 2 ^ 16 +
      saturate 0xFF (s.recent u) * 2 ^ 8)
  else if r = HLM_UNIT_EVENTS then some (saturate 0xFFFF_FFFF h.total)
  else if r = HLM_UNIT_LAST_LO then some (h.stamp % 2 ^ 32)
  else if r = HLM_UNIT_LAST_HI then some (h.stamp / 2 ^ 32 % 2 ^ 32)
  else if r = HLM_LIFE_LO then some (s.lifeValue life % 2 ^ 32)
  else if r = HLM_LIFE_HI then some (s.lifeValue life / 2 ^ 32 % 2 ^ 32)
  else none

/-- Items suspended now in chamber `n`. -/
def State.suspendedItems (s : State) (n : Nat) : Nat :=
  (s.items.filter (fun i => s.queueChamber i.key.queue == n && (match i.phase with | .suspended _ _ _ => true | _ => false))).length

/-- The queues in a state. -/
def State.queuesIn (s : State) (st : Nat) : Nat := ((List.range 4096).filter (fun q => s.queueState q == st)).length

/-- GFE, LSQ and DMV registers formed at the read (R540, R541, R580, R581). -/
def State.gfeWord (s : State) (r : Reg) (i j : Nat) : Option Nat :=
  if r = GFE_STATUS then some (s.queuesIn qActive * 2 ^ 16 + s.queuesIn qDraining)
  else if r = GFE_QUEUES then some (s.heldQueues i).length
  else if r = GFE_SCH_RESV then
    let (u, v) := s.lcReserve i
    some (u / 64 * 2 ^ 16 + v / 64)
  else if r = GFE_SCH_QUEUED then
    some (saturate 0xFFFF (s.backlog i 0).length * 2 ^ 16 + saturate 0xFFFF (s.backlog i 1).length)
  else if r = GFE_SCH_SUSP then some (s.suspendedItems i)
  else if r = GFE_SCH_POWER then
    let ratios := ((s.galleriesOf i).filter (fun g => s.fget PWR_RATE_G_VALID g == 1)).map (fun g => s.fget PWR_RATE_G_RATIO g)
    some (s.fget GFE_SCH_POWER_CAPPED i * 2 ^ 31 + (argMin id ratios).getD 0 * 2 ^ 16)
  else if r = LSQ_STATUS then
    let waiting := (s.items.filter (fun x => match x.phase with | .lsq g _ => g == i | _ => false)).length
    some (waiting * 2 ^ 22 + s.fget LSQ_STATUS_SCAN i * 2 ^ 21 + ((s.liveCores i).map s.freeStrands).sum)
  else if r = LSQ_TASKS then
    some (((List.range 8).map (fun k => ((s.boundStrands (8 * i + k)).filter (fun e => e.2.task)).length)).sum)
  else if r = DMV_STATUS then
    let k := (s.moverItems i j).length
    some (b2n (k != 0) * 2 ^ 31 + k)
  else none

/-- A register of the VXE_TRAIN_ group: an umber core's read 0 (R375, R376). -/
def isTrain (d : Reg) : Bool := VXE_TRAIN_BASE_LO.base ≤ d.base && d.base ≤ VXE_TRAIN_STATUS.base

/-- The word of instance `(i, j)` of a register as a requester that may read it finds it. -/
def State.readValue (s : State) (r : Requester) (d : Reg) (i j : Nat) : Word × State :=
  let a := regAddr d i j
  let num := fun (n : Nat) => (BitVec.ofNat 32 n, s)
  let pack := fun (p : Nat × State) => (BitVec.ofNat 32 p.1, p.2)
  let chosen := fun (q : Reg) (k : Nat) => (s.sel r (regAddr q k 0)).toNat
  let orStored := fun (o : Option Nat) => match o with
    | some v => num v
    | none => (s.rget a, s)
  if d = CDC_SLOT_SEL ∨ d = SFU_TBL_SEL ∨ d = RTE_PROF_SEL ∨ d = RTE_EXP_SEL ∨ d = ATU_SEQ_SEL ∨ d = HLM_UNIT_SEL ∨ d = HLM_LIFE_SEL
  then (s.sel r a, s)
  else if a < 0x8_0000 then
    if d = MGC_STATUS then num (s.fget SEC_FW_STATUS_VERIFIED * 2 ^ 31)
    else if d = TBC_NOW_LO then num (s.tb % 2 ^ 32)
    else if d = TBC_NOW_HI then num (s.tb / 2 ^ 32 % 2 ^ 32)
    else if d = SVY_STAGE_BASE_LO then num 0x200_0000
    else if d = XCE_STATUS then num (s.xceStatus i)
    else if d = MMU_STATUS then pack (s.stale (!s.ms.ops.isEmpty || !s.engOps.isEmpty || !s.items.isEmpty) 65)
    else if 0x5000 ≤ a ∧ a < 0x6000 then
      orStored (s.unitWord (chosen HLM_UNIT_SEL 0) (chosen HLM_LIFE_SEL 0) d)
    else if 0x2_0000 ≤ a then orStored (s.seqWord i (chosen ATU_SEQ_SEL i) d)
    else (s.rget a, s)
  else if a < 0x10_0000 then orStored (s.gfeWord d i j)
  else if a < 0x20_0000 then
    if d = CDC_SLOT_INFO then num (s.slotInfo r (chosen CDC_SLOT_SEL i)).1
    else if d = CDC_SLOT_REFS then num (s.slotInfo r (chosen CDC_SLOT_SEL i)).2
    else if d = RTE_STATUS then pack (s.rteStatus i)
    else if d = RTE_FLAGS_RC then (s.rget (regAddr RTE_FLAGS i 0), s)
    else if d = LSQ_STATUS ∨ d = LSQ_TASKS ∨ d = DMV_STATUS then orStored (s.gfeWord d i j)
    else match s.chamberOf i with
      | some n => orStored (s.loopWord n (chosen RTE_PROF_SEL i) (chosen RTE_EXP_SEL i) d)
      | none => (s.rget a, s)
  else if isTrain d && !s.coreLive i then num 0
  else if d = MXE_STATUS then pack (s.mxeStatus i)
  else if d = VXE_STATUS then pack (s.vxeStatus i)
  else if d = SFU_STATUS then pack (s.sfuStatus i)
  else if d = ATU_STATUS then pack (s.atuStatus i)
  else if d = SFU_TBL_INFO then num (s.tableInfo r (chosen SFU_TBL_SEL i))
  else if d = MXE_FLAGS_RC then (s.rget (regAddr MXE_FLAGS i 0), s)
  else if d = VXE_FLAGS_RC then (s.rget (regAddr VXE_FLAGS i 0), s)
  else if d = SFU_FLAGS_RC then (s.rget (regAddr SFU_FLAGS i 0), s)
  else if d = ATU_FLAGS_RC then (s.rget (regAddr ATU_FLAGS i 0), s)
  else if d = MXE_SR_SEED_LO then num ((s.srGen i false).x % 2 ^ 32)
  else if d = MXE_SR_SEED_HI then num ((s.srGen i false).x / 2 ^ 32)
  else if d = VXE_SR_SEED_LO then num ((s.srGen i true).x % 2 ^ 32)
  else if d = VXE_SR_SEED_HI then num ((s.srGen i true).x / 2 ^ 32)
  else (s.rget a, s)

/-! ### Counters of two words (R19 to R21) -/

/-- The _LO words of 64-bit counters; the _HI word of each lies 4 bytes above. -/
def counterLows : List Reg :=
  [CDC_BLK_LO, CDC_DROPPED_LO, MXE_MAC_LO, MXE_BUSY_LO, MXE_STALL_LO, VXE_ELEM_LO, VXE_BUSY_LO, VXE_STALL_LO, VXE_ATU_LO] ++
  [SFU_RESULTS_LO, SFU_WAIT_LO, ATU_BLK_LO, ATU_SKIP_LO, ATU_STALL_LO, ATU_TOKENS_LO, RTE_ASSIGN_LO, RTE_SUMP_BYTES_LO] ++
  [XCE_TX_ROWS_LO, XCE_RX_ROWS_LO, XCE_RET_ROWS_LO, XCE_LOOPBACK_LO, HBC_RD_LO, HBC_WR_LO, MMU_WALKS_LO, MMU_HITS_LO] ++
  [CTP_RX_FRAMES_LO, CTP_TX_FRAMES_LO, GFE_Q_DONE_LO, LSQ_BOUND_LO, LSQ_SUMP_BYTES_LO, DMV_BYTES_LO, GFE_QA_WAIT_LO] ++
  [GFE_QA_PREEMPT_LO, GFE_QA_SERVICE_LO, LNK_TX_BYTES_LO, LNK_RX_BYTES_LO, HLM_LIFE_LO, CVU_BYTES_LO, PWR_ENERGY_LO] ++
  [TBC_NOW_LO, TRU_RECORDS_LO]

/-- Whether a register is the _LO word of a counter. -/
def isLow (d : Reg) : Bool := counterLows.contains d

/-- Whether a register is the _HI word of a counter. -/
def isHigh (d : Reg) : Bool := counterLows.any (fun l => l.base + 4 == d.base)

/-- What a requester's shadow of the _HI word at `a` holds. -/
def State.shadow (s : State) (r : Requester) (a : Nat) : Word := smGet (fun _ => 0#32) s.shadows (r.number * 2 ^ 32 + a)

/-- The high word that goes with the _LO word at `a` latched for a requester (R19, R20). -/
def State.latch (s : State) (r : Requester) (a : Nat) : State :=
  match regDescAt (a + 4) with
  | none => s
  | some d =>
    let (i, j) := instAt d.reg (a + 4)
    { s with shadows := smPut (fun _ => 0#32) s.shadows (r.number * 2 ^ 32 + (a + 4)) (s.readValue r d.reg i j).1 }

/-! ### Fields that a read clears (R16, R160) -/

/-- The RC fields of the register at `a` cleared. -/
def State.clearRc (s : State) (d : RegDesc) (a : Nat) : State :=
  if d.fields.any (fun f => f.access == .rc) then
    s.rput a (BitVec.ofNat 32 (d.fields.foldl (fun x f => if f.access == .rc then setBitsOf x f.fld.hi f.fld.lo 0 else x) (s.rget a).toNat))
  else s

/-- The flag set whose FLAGS_RC register lies at `a`, and its instance (R158). -/
def flagsRcAt (a : Nat) : Option (FlagSet × Nat) :=
  let f := fun (e : FlagSet) => (regInst ⟨e.reg.base + 4, e.reg.n1, e.reg.s1, e.reg.n2, e.reg.s2⟩ a).map (fun p => (e, p.1))
  ([.mxe, .vxe, .sfu, .atu, .rte] : List FlagSet).findSome? f

/-- One read of a register by a requester, at one instant: the value it returns, and what it latches and clears. What a requester
may not read, and what is reserved, reads 0 (R14 to R22, R715). -/
def State.readReg (s : State) (r : Requester) (a : Nat) : Word × State :=
  match regDescAt a with
  | none => (0#32, s)
  | some d =>
    if !s.mayRead r a then (0#32, s)
    else if isHigh d.reg then (s.shadow r a, s)
    else
      let (i, j) := instAt d.reg a
      let (v, s) := s.readValue r d.reg i j
      let s := match flagsRcAt a with
        | some (e, k) => s.lower e k 0xF
        | none => s.clearRc d a
      (v, if isLow d.reg then s.latch r a else s)

/-! ### Commands -/

/-- RC_READ: a read of a register with RC fields (R16). -/
def execRcRead (r : Requester) (a : Nat) (s : State) : Result :=
  .next (match regDescAt a with
    | none => s
    | some d => if d.fields.any (fun f => f.access == .rc) then (s.readReg r a).2 else s)

/-- COUNTER_LO_READ: a read of a 64-bit counter's _LO word (R19). -/
def execCounterLoRead (r : Requester) (a : Nat) (s : State) : Result :=
  .next (match regDescAt a with
    | none => s
    | some d => if isLow d.reg then (s.readReg r a).2 else s)

/-- FLAGS_RC_READ: a read of an engine's FLAGS_RC (R160). -/
def execFlagsRcRead (r : Requester) (a : Nat) (s : State) : Result :=
  .next (if (flagsRcAt a).isSome then (s.readReg r a).2 else s)

end Sys2Proof.Machine
end

