-- ==== Sys2Proof/Machine/ControlSpace.lean ====
section
/-! DEFINITION. Writes of control-space registers: what each requester may write, what a write does, and the accesses of strands
(R14, R15, R17, R22, R442, R459, R713 to R716, R719, R721). -/

namespace Sys2Proof.Machine

/-! ### The control ports' isolation (R479, R480, R496) -/

/-- CTP_REENABLE.PORT: isolated port `p` is enabled again; ignored when written through this port (R480, R496). -/
def State.reenablePort (s : State) (r : Requester) (p : Nat) : State :=
  let own := match r with
    | .session k => s.ctp.sessions.any (fun e => e.1 == k && e.2.port == p)
    | _ => false
  if own || s.fget CTP_PORT_STATUS_ISOLATED p == 0 then s else (s.fset CTP_PORT_STATUS_ISOLATED 0 p).freshViols p

/-- CTP_REENABLE.SLOTS: the ISOLATED slots of port `p` in a mask become FREE (R479, R496). -/
def State.reenableSlots (s : State) (p mask : Nat) : State :=
  let mine := s.ctp.isolated.filter (fun e => e.2.1 == p && bitOf mask e.1)
  let s := mine.foldl (fun s e => s.wset CTP_SESS_STATE 0 e.1) s
  { s with ctp := { s.ctp with isolated := s.ctp.isolated.filter (fun e => !(e.2.1 == p && bitOf mask e.1)) } }

/-- REENABLE_PORT: the owner writes CTP_REENABLE.PORT of port `p` (R480). -/
def execReenablePort (r : Requester) (p : Nat) (s : State) : Result :=
  .next (if s.owns r && p < 2 then s.reenablePort r p else s)

/-- REENABLE_SLOTS: the owner writes CTP_REENABLE.SLOTS of port `p` (R479). -/
def execReenableSlots (r : Requester) (p mask : Nat) (s : State) : Result :=
  .next (if s.owns r && p < 2 then s.reenableSlots p mask else s)

/-! ### Who may write (R14, R93, R163, R197, R233, R266, R307, R347, R410, R495, R539, R580, R612, R641, R643, R673, R694) -/

/-- Whether a requester may write the fields of one access code in the register at `a`. -/
def State.mayField (s : State) (r : Requester) (a : Nat) (x : Access) : Bool :=
  match x with
  | .ro | .rc => false
  | .ow => s.owns r
  | _ =>
    if a < 0x1000 then s.ownerSession r
    else if a < 0x5000 then s.owns r
    else if a < 0x6000 then
      match x, r with
      | .rw, .core _ _ => false
      | .rw, _ => true
      | _, _ => s.owns r
    else if a < 0x8000 then s.owns r
    else if a < 0x9000 then s.mayWriteSet r ((a - 0x8100) / 0x40)
    else if a < 0xC000 then s.owns r
    else if a < 0xE000 then s.mayWriteSet r ((a % 0x1000 - 0x100) / 0x40)
    else if a < 0x2_0000 then false
    else if a < 0x8_0000 then
      match r with
      | .core _ _ => s.mayWriteSet r ((a - 0x2_0000) / 0x40)
      | _ => false
    else if a < 0x8_1000 then s.mayWriteSet r ((a - 0x8_0100) / 0x40)
    else if a < 0x9_0000 then
      match r with
      | .core _ _ => s.mayWriteSet r ((a - 0x8_1000) / 0x40)
      | _ => false
    else if a < 0xC_0000 then s.mayWriteQueue r ((a - 0x9_0000) / 0x20)
    else if a < 0x10_0000 then false
    else if a < 0x20_0000 then
      let g := (a - 0x10_0000) / 0x1_0000
      let o := a % 0x1_0000
      if o < 0x1000 then s.mayWriteGallery r g
      else if o < 0x2000 then s.mayWriteRte r g
      else 0x4000 ≤ o && s.mayWriteGallery r g
    else
      match r with
      | .core _ _ => s.mayWriteCore r ((a - 0x20_0000) / 0x1_0000)
      | _ => (regInst SFU_TBL_SEL a).isSome

/-! ### Plain fields -/

/-- A word with the fields that may be written taken from `w`: RW and OW fields set, W1C bits cleared, W1S bits set (R14). -/
def mergeWord (d : RegDesc) (may : Access → Bool) (old w : Nat) : Nat :=
  d.fields.foldl (fun x f =>
    let v := bitsOf w f.fld.hi f.fld.lo
    let cur := bitsOf x f.fld.hi f.fld.lo
    if !may f.access then x else
    match f.access with
    | .rw | .ow => setBitsOf x f.fld.hi f.fld.lo v
    | .w1c => setBitsOf x f.fld.hi f.fld.lo (cur - (cur &&& v))
    | .w1s => setBitsOf x f.fld.hi f.fld.lo (cur ||| v)
    | _ => x) old

/-- The plain fields of the register at `a` written. -/
def State.plainWrite (s : State) (d : RegDesc) (a : Nat) (w : Word) (may : Access → Bool) : State :=
  s.rput a (BitVec.ofNat 32 (mergeWord d may (s.rget a).toNat w.toNat))

/-- A field of the word written. -/
def inWord (f : Fld) (w : Word) : Nat := bitsOf w.toNat f.hi f.lo

/-! ### Registers whose write acts -/

/-- A register of the device's own blocks below 0x0008_0000 written; `plain` is the state with the plain fields set. -/
def State.writeDevice (s : State) (r : Requester) (d : Reg) (i j : Nat) (w : Word) (plain : State) (both : State → State) : State :=
  if d = CTP_REENABLE then
    let s := if inWord CTP_REENABLE_PORT w = 1 then s.reenablePort r i else s
    s.reenableSlots i (inWord CTP_REENABLE_SLOTS w)
  else if d = HLM_UNIT_CMD then
    if inWord HLM_UNIT_CMD_GO w = 1 then (s.writeUnitCmd (inWord HLM_UNIT_CMD_OP w) (inWord HLM_UNIT_CMD_UNIT w)).flow else plain
  else if d = HLM_SCAN_CTRL then plain.setNextScan (plain.tb + plain.scanStep)
  else if d = PWR_CTRL then
    if inWord PWR_CTRL_PORT_RESET w = 1 ∧ inWord PWR_CTRL_WARM_RESET w = 0 ∧ inWord PWR_CTRL_SHUTDOWN w = 0 then plain.portReset
    else if inWord PWR_CTRL_WARM_RESET w = 1 then plain.warmReset
    else if inWord PWR_CTRL_SHUTDOWN w = 1 then
      let s := if inWord PWR_CTRL_PORT_RESET w = 1 then plain.portReset else plain
      s.shutdown
    else plain
  else if d = TRU_CTRL then
    let on := inWord TRU_CTRL_ENABLE w = 1
    let was := s.fget TRU_CTRL_ENABLE i == 1
    let s := plain.fset TRU_CTRL_ENABLE (b2n was) i
    let s := if was then s else (s.fset TRU_CTRL_MODE (inWord TRU_CTRL_MODE w) i).fset TRU_CTRL_LOG_RECS (inWord TRU_CTRL_LOG_RECS w) i
    let s := s.truEnable i on
    let s := if on && was && inWord TRU_CTRL_RESTART w == 1 then s.truStart i else s
    if on && inWord TRU_CTRL_TRIGGER w == 1 then s.softTrigger r i else s
  else if d = TRU_BUF_LO ∨ d = TRU_BUF_HI then if s.fget TRU_CTRL_ENABLE i = 1 then s else plain
  else if d = LNK_REENABLE then if inWord LNK_REENABLE_PORT w = 1 then s.reenableLink i else s
  else if d = LNK_LANE_CTRL then if inWord LNK_LANE_CTRL_RETRAIN w = 1 then s.trainLane (4 * i + j) else s
  else if d = MMU_INV_CTRL then
    let s := both plain
    if inWord MMU_INV_CTRL_GO w = 1 then s.invalidate j (s.invVa j) (inWord MMU_INV_CTRL_PAGES w) (inWord MMU_INV_CTRL_ALL w == 1) else s
  else both plain

/-- A GFE_ register written. -/
def State.writeGfe (s : State) (d : Reg) (i : Nat) (w : Word) (plain : State) : State :=
  if d = GFE_QCMD then
    if inWord GFE_QCMD_GO w = 1 then s.qcmd i (inWord GFE_QCMD_OP w) (inWord GFE_QCMD_QUEUE w) else plain
  else if d = GFE_GCMD then
    if inWord GFE_GCMD_GO w = 1 then s.gcmd i (inWord GFE_GCMD_OP w) (inWord GFE_GCMD_GRAPH w) else plain
  else if d = GFE_GAREA_LO ∨ d = GFE_GAREA_HI ∨ d = GFE_GAREA_SIZE then
    if s.pruneGraphs.graphs.any (fun e => e.1 / 64 == i) then s else plain
  else if d = GFE_Q_DB then s.doorbell i w.toNat
  else if d = GFE_Q_CACK then s.cack i w.toNat
  else if d = GFE_Q_CANCEL then s.abortItem ⟨i, w.toNat, none⟩ cCancelled
  else plain

/-- A register of gallery `i`'s blocks written. -/
def State.writeGallery (s : State) (r : Requester) (d : Reg) (i j : Nat) (w : Word) (plain : State) : State :=
  if d = CDC_WCTRL then
    let go := inWord CDC_WCTRL_GO w == 1
    let stop := inWord CDC_WCTRL_ABORT w == 1
    let s := plain
    if go && stop then s.bump CDC_GO_IGNORED_COUNT 1 i
    else if go then
      s.slotGo i (bitsOf (s.sel r (regAddr CDC_SLOT_SEL i 0)).toNat 8 0) (inWord CDC_WCTRL_NOWAIT w == 1) (inWord CDC_WCTRL_HOLD_US w)
    else if stop then s.slotAbort i else s
  else if d = RTE_FLAGS then s.lower .rte i (w.toNat % 16)
  else if d = RTE_CANCEL then s.rteCancel i (inWord RTE_CANCEL_EPOCH w)
  else if d = RTE_BIAS then s.biasWrite r i (inWord RTE_BIAS_BIAS w)
  else if d = CVU_CTRL then
    let s := if inWord CVU_CTRL_ABORT w = 1 then s.cvuStop i j 0 0 else s
    if inWord CVU_CTRL_GO w = 1 ∧ inWord CVU_CTRL_ABORT w = 0 then s.cvuGo i j else s
  else plain

/-- A register of core `i`'s blocks written. -/
def State.writeCore (s : State) (d : Reg) (i : Nat) (w : Word) (plain : State) : State :=
  if d = MXE_FLAGS then s.lower .mxe i (w.toNat % 16)
  else if d = VXE_FLAGS then s.lower .vxe i (w.toNat % 16)
  else if d = SFU_FLAGS then s.lower .sfu i (w.toNat % 16)
  else if d = ATU_FLAGS then s.lower .atu i (w.toNat % 16)
  else if d = MXE_SR_SEED_LO then s.setSrGen i false { s.srGen i false with seedLo := w.toNat }
  else if d = VXE_SR_SEED_LO then s.setSrGen i true { s.srGen i true with seedLo := w.toNat }
  else if d = MXE_SR_SEED_HI then s.loadSeed i false w.toNat
  else if d = VXE_SR_SEED_HI then s.loadSeed i true w.toNat
  else if d = MXE_DUP_CTRL then
    s.dupCtrl i (inWord MXE_DUP_CTRL_ENABLE w) (inWord MXE_DUP_CTRL_RATE_LOG2 w) (inWord MXE_DUP_CTRL_TOL_MULT w)
  else if d = VXE_TRAIN_CTRL then plain.fset VXE_TRAIN_STATUS_FAULT 0 i
  else if d = VXE_TRAIN_CLOSE then
    if inWord VXE_TRAIN_CLOSE_ALL w = 1 then s.trainCloseAll i else s.trainClose i (inWord VXE_TRAIN_CLOSE_ENTRY w) false
  else if d = VXE_TRAIN_REPLAY then
    let e := inWord VXE_TRAIN_REPLAY_ENTRY w
    if inWord VXE_TRAIN_REPLAY_SKIP w = 1 then s.trainSkip i e else s.trainReplay i e (inWord VXE_TRAIN_REPLAY_FMT w)
  else plain

/-! ### A write (R14, R459, R714) -/

/-- Whether some requester can set fields of an access code. -/
def Access.settable : Access → Bool
  | .ro | .rc => false
  | _ => true

/-- The plain fields of a chamber set of the MMU_ written in one instance are written in the other too (R410). -/
def State.bothMmus (s : State) (d : RegDesc) (a : Nat) (w : Word) (may : Access → Bool) : State :=
  if 0xC000 ≤ a ∧ a < 0xD000 then s.plainWrite d (a + 0x1000) w may
  else if 0xD000 ≤ a ∧ a < 0xE000 then s.plainWrite d (a - 0x1000) w may
  else s

/-- Whether a register is a selector (R22). -/
def isSelector (d : Reg) : Bool :=
  [CDC_SLOT_SEL, SFU_TBL_SEL, RTE_PROF_SEL, RTE_EXP_SEL, ATU_SEQ_SEL, HLM_UNIT_SEL, HLM_LIFE_SEL].contains d

/-- The effect of a write of the register at `a`; fields the requester may not write are unchanged. -/
def State.writeEffect (s : State) (r : Requester) (d : RegDesc) (a : Nat) (w : Word) : State :=
  let (i, j) := instAt d.reg a
  let may := s.mayField r a
  if d.reg = SVY_CTRL then s.svyCtrl r w.toNat
  else if !d.fields.any (fun f => may f.access) then s
  else if isSelector d.reg then s.setSel r a (BitVec.ofNat 32 (mergeWord d may 0 w.toNat))
  else
    let plain := s.plainWrite d a w may
    if a < 0x8_0000 then s.writeDevice r d.reg i j w plain (fun s => s.bothMmus d a w may)
    else if a < 0x10_0000 then s.writeGfe d.reg i w plain
    else if a < 0x20_0000 then s.writeGallery r d.reg i j w plain
    else s.writeCore d.reg i w plain

/-- One write of a register by a requester, at one instant: whether it held a field that the requester may not write, though some
requester may, and the state after it. A write of 0 to a WO field never counts as such (R459, R719). -/
def State.writeReg (s : State) (r : Requester) (a : Nat) (w : Word) : Bool × State :=
  if inStaging a then
    let (_, t) := s.windowWrite r (a - 0x200_0000) (leBytes 4 w.toNat) none
    (!s.ownerSession r, t)
  else
    match regDescAt a with
    | none => (false, s)
    | some d =>
      (d.fields.any (fun f => f.access.settable && !s.mayField r a f.access &&
        (f.access != .wo || bitsOf w.toNat f.fld.hi f.fld.lo != 0)), s.writeEffect r d a w)

/-- REGISTER_WRITE: a write of the register at `a` (R14, R15). -/
def execRegisterWrite (r : Requester) (a : Nat) (w : Word) (s : State) : Result :=
  .next (if mapped a && a % 4 == 0 then (s.writeReg r a w).2 else s)

/-! ### Accesses of strands (R442, R713, R715) -/

/-- The cause OUTSIDE_CHAMBER of 0x31 FAULT_PERMISSION. -/
def causeOutside : Nat := 2

/-- A control-space instruction: bits [49:0] are 0, its registers hold values, its address is a multiple of 4 and lies in the span
of a block (R713, R715). It waits for every release and full fence at chamber scope or wider that the strand has issued before it
(R442). -/
def State.csIssue (s : State) (c t op : Nat) (act : Word64 → Strand → Nat → State → State) : State :=
  s.issue c t (fun w => opcodeOf w == op) fun w x s =>
    if bitsOf w.toNat 49 0 ≠ 0 then s.failStrand c t cFormat 0 else
    s.needing c t (regMask (rdOf w) ||| regMask (raOf w)) (
      let a := (x.reg (raOf w)).toNat
      if a % 4 ≠ 0 then s.failStrand c t cFormat 0
      else if !mapped a then s.failStrand c t fPermission causeOutside
      else if s.ms.chamberRelease c t then s.stall c t .fence
      else act w x a s)

/-- Whether `v`, read from the register at `a`, is the status of a CVU that is DONE: the read is an acquire at chamber scope (R636). -/
def cvuDone (a : Nat) (v : Word) : Bool :=
  (regDescAt a).any (fun d => d.reg == CVU_STATUS) && bitsOf v.toNat CVU_STATUS_STATE.hi CVU_STATUS_STATE.lo == 2

/-- CS_LD: CS.LD reads the register whose address is in RA into RD (R713). A CVU_STATUS that returns DONE is an acquire (R636). -/
def execCsLd (c t : Nat) (s : State) : Result :=
  .next (s.csIssue c t 0xBA fun w x a s =>
    let (v, s) := s.readReg (.core c t) a
    let s := if cvuDone a v then { s with ms := s.ms.acquire c 2 } else s
    s.advance c t (x.setReg (rdOf w) v))

/-- CS_ST: CS.ST writes RD to the register whose address is in RA (R713). The write may end the strand's own item. -/
def execCsSt (c t : Nat) (s : State) : Result :=
  .next (s.csIssue c t 0xBB fun w x a s =>
    ((s.advance c t x).writeReg (.core c t) a (x.reg (rdOf w))).2)

end Sys2Proof.Machine
end

