-- ==== Sys2Proof/Machine/Mgmt.lean ====
section
/-! DEFINITION. The commands of the management queues, and a port's test window (R537, R610). Each command takes the item at the
front of its queue. -/

namespace Sys2Proof.Machine

/-! ### Survey and security (R537) -/

/-- SURVEY_COMMIT: a COMMIT item acts as SVY_CTRL.COMMIT; its record is written when the load ends, or at once where it is BUSY
(R110, R537). -/
def execSurveyCommit (s : State) : Result :=
  .next (match s.mgNext mqSurvey 1 with
    | none => s
    | some i =>
      match (s.mgBegin mqSurvey).svyCommit i.session true with
      | (true, s) => s
      | (false, s) => s.mgEnd mqSurvey cUnavailable 0x02)

/-- The inactive firmware slot: the one that the next reset does not boot (R486). -/
def State.stageSlot (s : State) : Nat := 1 - s.sec.nextSlot

/-- The bytes staged so far, those not yet written among them. -/
def State.stagedLength (s : State) : Nat :=
  s.sec.fwStaged.foldl (fun n x => max n (x.off + x.bytes.length)) (s.fwSlot s.stageSlot).length

/-- A firmware commit begins: STAGE_STATE reads CHECKING (R486, R498). -/
def State.startCommit (s : State) (c : FwCommit) : State :=
  ({ s with sec := { s.sec with commit := some c } } : State).setStage fwChecking 0

/-- MGMT_FW_COMMIT: an FW_COMMIT item acts as the frame, on every byte staged; while another commit is checked it waits (R486,
R537). -/
def execMgmtFwCommit (s : State) : Result :=
  .next (match s.mgNext mqSecurity 1 with
    | none => s
    | some i =>
      if s.sec.commit.isSome then s else
      (s.mgBegin mqSecurity).startCommit { session := i.session, seq := none, length := s.stagedLength, checked := false })

/-! ### Health (R537, R640) -/

/-- SCAN: a SCAN item asks for a window on its gallery, outside the rotation, and its record is written when the window ends; a
gallery with no live core is refused (R537, R640). -/
def execScan (s : State) : Result :=
  .next (match s.mgNext mqHealth 1 with
    | none => s
    | some i =>
      let g := i.arg 0
      if !s.galleryLive g then s.mgEnd mqHealth cUnavailable 0x01 else
      let s := s.mgBegin mqHealth
      { s with hlm := { s.hlm with asked := s.hlm.asked.filter (· != g) ++ [g] } })

/-- FLUSH: a FLUSH item writes the health history and the lifetime counters to flash (R537, R639). -/
def execFlush (s : State) : Result :=
  .next (match s.mgNext mqHealth 2 with
    | none => s
    | some _ => s.lifetimeWrite.mgEnd mqHealth cServed 0)

/-! ### Test windows (R537, R610) -/

/-- A test window opens on a port until a time: traffic that waits there goes by other ports (R610, R611). -/
def State.openTest (s : State) (p until_ : Nat) : State :=
  let s : State := { s with fab := { s.fab with tests := (p, until_) :: s.fab.tests.filter (fun e => e.1 != p) } }
  (s.fset LNK_PORT_STATUS_TEST 1 p).flow

/-- A test window ends and the port's lanes retrain (R610). -/
def State.closeTest (s : State) (p : Nat) : State :=
  if s.fget LNK_PORT_STATUS_TEST p = 0 then s else
  let s : State := { s with fab := { s.fab with tests := s.fab.tests.filter (fun e => e.1 != p) } }
  (List.range 4).foldl (fun s k => s.trainLane (4 * p + k)) (s.fset LNK_PORT_STATUS_TEST 0 p)

/-- PORT_TEST: a PORT_TEST item opens a window on its port, and is over with that; a port with no lane in service is refused (R537,
R610). -/
def execPortTest (s : State) : Result :=
  .next (match s.mgNext mqTest 1 with
    | none => s
    | some i =>
      let p := i.arg 0
      if (s.lanesUp p).isEmpty then s.mgEnd mqTest cUnavailable 0x01 else
      (s.openTest p (s.now + oneMs * (i.arg 1 + 256 * i.arg 2))).mgEnd mqTest cServed 0)

/-- END_TEST: an END_TEST item ends the window on its port (R537, R610). -/
def execEndTest (s : State) : Result :=
  .next (match s.mgNext mqTest 2 with
    | none => s
    | some i => (s.closeTest (i.arg 0)).mgEnd mqTest cServed 0)

/-- TEST_WINDOW_END: the time of a port's window has passed (R610). -/
def execTestWindowEnd (p : Nat) (s : State) : Result :=
  .next (match s.fab.tests.find? (fun e => e.1 == p) with
    | some (_, t) => if t ≤ s.now then s.closeTest p else s
    | none => s)

end Sys2Proof.Machine
end

