-- ==== Sys2Proof/Machine/Frames.lean ====
section
/-! DEFINITION. Frames received on a control port: what is judged of every frame, in order, the answers to violations, and the
thresholds that isolate (R456, R457, R460, R466, R471, R477, R479, R480, R727). -/

namespace Sys2Proof.Machine

/-! ### Types (R457) -/

/-- Types that travel in clear. -/
def plainTypes : List Nat := [1, 2, 3, 5]

/-- Types that travel encrypted; a NAK may do either. -/
def sealedTypes : List Nat :=
  [0x04, 0x10, 0x11, 0x20, 0x21, 0x22, 0x23, 0x24, 0x25, 0x30, 0x31, 0x40, 0x50, 0x51, 0x52, 0x53, 0x60, 0x61, 0x62]

/-- Types that a node sends. -/
def nodeTypes : List Nat := 1 :: 3 :: sealedTypes.drop 1

/-- Types that only the owner sends (R457, R471); REG_WRITE is judged field by field (R459). -/
def ownerTypes : List Nat := [0x23, 0x24, 0x31, 0x50, 0x51, 0x52, 0x53, 0x60, 0x61, 0x62]

/-- A frame is MALFORMED in its header (R456, R466, R477, R727). -/
def Frame.badHeader (f : Frame) : Bool :=
  f.version != 1 || 1 < f.flags || f.reserved != 0 || f.seq == 0 || f.length != f.payload.length || 8192 < f.length ||
  f.tag.length != 16 * f.flags ||
  (f.flags == 1 && plainTypes.contains f.type) || (f.flags == 0 && sealedTypes.contains f.type) ||
  (f.type == 1 && f.slot != 0xFF)

/-! ### Answers (R457, R460, R461) -/

/-- The response to a request, while its session is open. -/
def State.reply (s : State) (k type : Nat) (payload : List Byte) : State :=
  match s.session k with
  | some x => s.sendFrame x.port k (0x80 + type) true payload
  | none => s

/-- A NAK in an open slot; encrypted once the slot is established. -/
def State.frameNak (s : State) (k cause type seq : Nat) : State :=
  match s.session k with
  | some x => s.sendFrame x.port k 0xFF (sessObserver ≤ s.sessState k) (nakBytes cause type seq)
  | none => s

/-- A REFUSE on a port (R461, R467). -/
def State.refuse (s : State) (p slot cause : Nat) : State := s.sendFrame p slot 5 false (leBytes 8 cause)

/-! ### Violations (R477, R479, R480) -/

/-- SHA-384 of a session's key. -/
def Session.digest (x : Session) : List Byte := if x.entry.isSome then sha384 x.key else x.key

/-- The counts of port `p` in its current window. -/
def State.viols (s : State) (p : Nat) : ViolCount :=
  ((s.ctp.viols.find? (fun e => e.1 == p)).map (·.2)).getD { since := 0, port := 0, slots := [] }

def State.setViols (s : State) (p : Nat) (v : ViolCount) : State :=
  { s with ctp := { s.ctp with viols := (p, v) :: s.ctp.viols.filter (fun e => e.1 != p) } }

def ViolCount.slot (v : ViolCount) (k : Nat) : Nat := smGet (fun _ => 0) v.slots k

def ViolCount.setSlot (v : ViolCount) (k n : Nat) : ViolCount := { v with slots := smPut (fun _ => 0) v.slots k n }

/-- A violation counted and recorded; CTP_VIOL_LAST.SLOT is valid only when ATTRIBUTED is 1 (R477, R496). -/
def State.noteViol (s : State) (p : Nat) (slot : Option Nat) (cause type : Nat) : State :=
  let s := s.bump CTP_VIOL_COUNT 1 p
  let v := s.viols p
  match slot with
  | some k =>
    let s := (s.bump CTP_SESS_VIOL_COUNT 1 k).setViols p ({ v with port := v.port + 1 }.setSlot k (v.slot k + 1))
    s.wset CTP_VIOL_LAST (cause * 2 ^ 24 + k * 2 ^ 16 + 2 ^ 15 + type) p
  | none =>
    let (k, s) := s.draw 16
    (s.setViols p { v with port := v.port + 1 }).wset CTP_VIOL_LAST (cause * 2 ^ 24 + k * 2 ^ 16 + type) p

/-- Slot `k` of port `p` becomes ISOLATED and holds a key; its count begins again (R479). CTP_SESS_STATE.KEY of a slot whose key
is in no entry is open. -/
def State.isolateSlot (s : State) (p k : Nat) (entry : Option Nat) (digest : List Byte) : State :=
  let s := s.closeSession k
  let (e, s) := match entry with
    | some e => (e, s)
    | none => s.draw 16
  let s := s.wset CTP_SESS_STATE (sessIsolated * 2 ^ 29 + p * 2 ^ 28 + e * 2 ^ 16) k
  let s := s.setViols p ((s.viols p).setSlot k 0)
  { s with ctp := { s.ctp with isolated := (k, p, digest) :: s.ctp.isolated.filter (fun e => e.1 != k) } }

/-- Port `p` is isolated: every session on it closes (R480). -/
def State.isolatePort (s : State) (p : Nat) : State :=
  let s := s.fset CTP_PORT_STATUS_ISOLATED 1 p
  (s.ctp.sessions.filter (fun e => e.2.port == p)).foldl (fun s e => s.closeSession e.1) s

/-- Counts that have reached THRESHOLD isolate: the slot with the key it holds, and the port (R479, R480). -/
def State.judgeViols (s : State) (p : Nat) (slot : Option (Nat × Option Nat × List Byte)) : State :=
  let limit := max 1 (s.fget CTP_VIOL_CTRL_THRESHOLD p)
  let s := match slot with
    | some (k, entry, digest) => if limit ≤ (s.viols p).slot k then s.isolateSlot p k entry digest else s
    | none => s
  if limit ≤ (s.viols p).port ∧ s.fget CTP_PORT_STATUS_ISOLATED p = 0 then s.isolatePort p else s

/-- A violation: counted, answered, and then judged against THRESHOLD (R477, R480). -/
def State.violation (s : State) (p : Nat) (slot : Option (Nat × Option Nat × List Byte)) (cause type : Nat)
    (answer : State → State) : State :=
  (answer (s.noteViol p (slot.map (·.1)) cause type)).judgeViols p slot

/-- A frame that is not attributable, dropped (R477). -/
def State.dropFrame (s : State) (p cause type : Nat) : State :=
  s.violation p none cause type (fun s => s.bump CTP_DROPPED_COUNT 1 p)

/-- A violation by a frame of an open slot, answered with a NAK (R477). -/
def State.frameViol (s : State) (f : Frame) (cause : Nat) : State :=
  match s.session f.slot with
  | none => s
  | some x =>
    s.violation x.port (some (f.slot, x.entry, x.digest)) cause f.type (fun s => s.frameNak f.slot cause f.type f.seq)

/-! ### Reception (R466, R477, R480, R649, R706, R727) -/

/-- Frames arrive on port `p`: its link is up, and the device is past stage 1, out of reset and clocked. -/
def State.ctpUp (s : State) (p : Nat) : Bool :=
  p < 2 && s.fget CTP_PORT_STATUS_LINK_UP p == 1 && 2 ≤ s.fget PWR_STATUS_STAGE && !s.pwr.held && !s.pwr.dark

/-- A frame arrives and is counted; an isolated port drops it (R480). -/
def State.receive (s : State) (p : Nat) (rest : State → State) : State :=
  if !s.ctpUp p then s else
  let s := s.bump64 CTP_RX_FRAMES_LO_COUNT CTP_RX_FRAMES_HI_COUNT 1 p
  if s.fget CTP_PORT_STATUS_ISOLATED p = 1 then s.bump CTP_DROPPED_COUNT 1 p else rest s

/-- The slot is open on this port (R477). -/
def State.attributable (s : State) (p k : Nat) : Bool :=
  match s.session k with
  | some x => x.port == p
  | none => false

/-- A frame is accepted: it raises the highest SEQ and keeps its session and its ownership alive (R466, R469, R472). -/
def State.acceptFrame (s : State) (f : Frame) : State :=
  match s.session f.slot with
  | none => s
  | some x =>
    let s := s.setSession f.slot { x with rx := f.seq, lastAt := s.now }
    if s.ownerSession (.session f.slot) then { s with ctp := { s.ctp with ownerAt := s.now } } else s

/-- A frame other than HELLO, judged in order up to UNKNOWN_TYPE (R727). -/
def State.judged (s : State) (p : Nat) (f : Frame) (rest : State → State) : State :=
  s.receive p fun s =>
    if !s.attributable p f.slot then s.dropFrame p (if f.badHeader then 1 else 0x0A) f.type
    else if f.badHeader then s.frameViol f 1
    else if !nodeTypes.contains f.type then s.frameViol f 9
    else rest s

/-- A frame as its sender wrote it: an encrypted one is deciphered under its session's key, and is none where its tag fails (R456,
R465). -/
def State.openFrame (s : State) (f : Frame) : Option Frame :=
  if f.flags = 0 then some f else
  match s.session f.slot with
  | some x => f.opened x.fromNode 0
  | none => none

/-- A request of a session, judged in order up to NOT_OWNER; `layout` says that its payload is as its type lays it out, and `act` is
its effect, both of the frame deciphered (R460, R465, R466, R471, R477, R727). -/
def State.sessRequest (s : State) (p : Nat) (w : Frame) (layout : Frame → Bool) (act : Frame → Session → State → State) : State :=
  s.judged p w fun s =>
    match s.openFrame w with
    | none => s.frameViol w 2
    | some f =>
      if ((s.session f.slot).map (fun x => decide (f.seq ≤ x.rx))).getD true then s.frameViol f 3
      else
        let s := s.acceptFrame f
        let s :=
          if !layout f then s.frameViol f 1
          else if (s.sessState f.slot == sessOpening) != (f.type == 3) then s.frameViol f 6
          else if ownerTypes.contains f.type && !s.ownerSession (.session f.slot) then s.frameViol f 7
          else match s.session f.slot with
            | some x => act f x s
            | none => s
        s.closeSpent f.slot

/-- UNKNOWN_TYPE: a frame of a type that is not listed, or that only the device sends (R457, R477). -/
def execUnknownType (p : Nat) (f : Frame) (s : State) : Result :=
  .next (if nodeTypes.contains f.type then s else s.judged p f id)

/-! ### Windows and links (R479, R648, R707) -/

/-- VIOL_WINDOW_END: the window of port `p` ends and its counts begin again (R479). -/
def execViolWindowEnd (p : Nat) (s : State) : Result :=
  .next (
    let w := oneMs * max 1 (s.fget CTP_VIOL_CTRL_WINDOW_MS p)
    if 2 ≤ p ∨ s.now < (s.viols p).since + w then s
    else s.setViols p { since := (s.viols p).since + w, port := 0, slots := [] })

/-- OPTICAL_LINK_CHANGE: the optical link of port `p` comes up or goes down; a control port works from stage 2 on (R496, R649,
R706, R707). -/
def execOpticalLinkChange (p : Nat) (up : Bool) (s : State) : Result :=
  .next (if 2 ≤ p ∨ s.fget PWR_STATUS_STAGE < 2 ∨ s.pwr.held = true ∨ s.pwr.dark = true then s else
    let was := s.fget CTP_PORT_STATUS_LINK_UP p
    let s := s.fset CTP_PORT_STATUS_LINK_UP (b2n up) p
    let lit := s.fget CTP_PORT_STATUS_LINK_UP 0 + s.fget CTP_PORT_STATUS_LINK_UP 1
    if lit ≠ 0 then { s with ctp := { s.ctp with darkAt := none } }
    else if was = 1 then { s with ctp := { s.ctp with darkAt := some s.now } }
    else s)

/-- LOSS_OF_LIGHT: neither port has had light for 1 s, which is a PORT reset (R648, R707). -/
def execLossOfLight (s : State) : Result :=
  .next (match s.ctp.darkAt with
    | none => s
    | some t => if s.now < t + oneSecond then s else
      let s := s.portReset
      { s with ctp := { s.ctp with darkAt := none } })

end Sys2Proof.Machine
end

