-- ==== Sys2Proof/Machine/Opening.lean ====
section
/-! DEFINITION. The opening of sessions, heartbeats and closing, ownership, the election and handover (R464 to R476, R490, R652). -/

namespace Sys2Proof.Machine

/-! ### Keys and credentials (R464, R467, R468) -/

/-- The part serial. -/
def State.serial (s : State) : List Byte := slice s.identity 8 16

/-- Lifecycle states (R489). -/
def lifeProvision : Nat := 1
def lifeProduction : Nat := 2
def lifeReturn : Nat := 3

def State.lifecycle (s : State) : Nat := s.fget SEC_LIFECYCLE_STATE

/-- The lowest key store entry whose key has a digest. -/
def State.storeEntry (s : State) (digest : List Byte) : Option (Nat × List Byte) :=
  argMin (·.1) (s.sec.keys.filter (fun e => sha384 e.2 == digest))

/-- The ACCESS entry of the active survey that holds a digest (R88). -/
def State.accessEntry (s : State) (digest : List Byte) : Option (List Byte) :=
  (accessOf s.svy.running).find? (fun e => slice e 0 48 == digest)

/-- What a session's key gives it: whether an owner credential, and its RANK (R468, R490). -/
def State.credOf (s : State) (x : Session) : Bool × Nat :=
  if x.entry.isNone || s.svy.running.isEmpty then (true, 0)
  else match s.accessEntry x.digest with
    | some e => (bitOf (fieldAt e 0x32 2) 0, fieldAt e 0x30 2)
    | none => (false, 0)

/-- The key that a HELLO names, with its entry, or the cause of its refusal (R467, R489, R490). The key of the transport session
stands as its digest. -/
def State.helloKey (s : State) (digest : List Byte) : Except Nat (List Byte × Option Nat) :=
  let stored := s.storeEntry digest
  if s.lifecycle = lifeProvision then
    if s.sec.transport = some digest then .ok (digest, none) else if stored.isSome then .error 6 else .error 5
  else if s.lifecycle = lifeProduction then
    match stored with
    | some (e, key) =>
      if !s.svy.running.isEmpty && (s.accessEntry digest).isNone then .error 5 else .ok (key, some e)
    | none => .error 5
  else .error 6

/-! ### HELLO and PROOF (R464, R466, R467, R470, R490, R496) -/

/-- A slot taken by a HELLO becomes OPENING, and CHALLENGE is sent. CTP_SESS_STATE.KEY of the transport key, which is in no entry,
is open. -/
def State.challenge (s : State) (p k : Nat) (f : Frame) (key : List Byte) (entry : Option Nat) : State :=
  let (dev, s) := s.drawBytes 32
  let (e, s) := match entry with
    | some e => (e, s)
    | none => s.draw 16
  let s := s.wset CTP_SESS_STATE (sessOpening * 2 ^ 29 + p * 2 ^ 28 + e * 2 ^ 16) k
  let x : Session := {
    port := p, key := key, entry := entry, node := slice f.payload 0x30 32, dev := dev, fromNode := [], toNode := []
    utc := fieldAt f.payload 0x50 8, utcAt := s.tb, rx := f.seq, tx := 0, lastAt := s.now }
  let s := s.setSession k x
  (s.sendFrame p k 2 false (leBytes 16 k ++ dev ++ s.identity)).closeSpent k

/-- A HELLO that is accepted: it takes a FREE slot, and its key is looked up; a refusal frees the slot (R464, R467, R479). Which
FREE slot is taken is open. -/
def State.hello (s : State) (p : Nat) (f : Frame) : State :=
  let digest := slice f.payload 0 48
  let s := if s.ctp.hello then s else
    ({ s with ctp := { s.ctp with hello := true } } : State).setUtc (fieldAt f.payload 0x50 8) s.tb
  let unused := (List.range 16).filter (fun k => s.sessState k == sessFree)
  let (i, s) := s.draw unused.length
  match s.helloKey digest, unused[i]? with
  | .error cause, some k => s.violation p (some (k, none, digest)) cause 1 (fun s => s.refuse p k cause)
  | .error cause, none => s.violation p none cause 1 (fun s => s.refuse p 0xFF cause)
  | .ok _, none => s.refuse p 0xFF 0x40
  | .ok (key, entry), some k =>
    if s.ctp.isolated.any (fun e => e.2.1 == p && e.2.2 == digest) then s.refuse p k 0x43
    else s.challenge p k f key entry

/-- HELLO; a malformed one is assigned no slot and dropped (R464, R477). -/
def execHello (p : Nat) (f : Frame) (s : State) : Result :=
  .next (if f.type ≠ 1 then s else s.receive p fun s =>
    if f.badHeader || f.payload.length != 88 then s.dropFrame p 1 1 else s.hello p f)

/-- The HMAC of the opening of a session under its key (R464). -/
def State.openMac (s : State) (x : Session) (label : String) (k : Nat) : List Byte :=
  let m := ascii label ++ x.dev ++ x.node ++ s.serial ++ leBytes 1 x.port ++ leBytes 1 k
  if x.entry.isSome then hmac256 x.key m else Config.transportHmac x.key m

/-! ### Ownership and elections (R468, R472 to R476, R490, R652) -/

/-- What an answer to CLAIM says of the owner: its slot, or 0xFF (R461). -/
def State.winner (s : State) : Nat := if s.fget CTP_OWNER_VALID = 1 then s.fget CTP_OWNER_SLOT else 0xFF

def State.claimAnswer (s : State) (k result : Nat) : State := s.reply k 0x30 (head result ++ leBytes 4 s.winner)

/-- Slot `k` becomes owner; an owner there was becomes an observer and loses its ownership, and with it what it stages (R110, R476,
R490, R494). -/
def State.newOwner (s : State) (k : Nat) : State :=
  if s.fget CTP_OWNER_VALID = 1 then
    (((s.fset CTP_SESS_STATE_STATE sessObserver (s.fget CTP_OWNER_SLOT)).svyOwnerLost).fwOwnerLost).makeOwner k
  else s.makeOwner k

/-- An election closes with slot `k` owner: every CLAIM sent during it is answered (R473, R496). -/
def State.closeElection (s : State) (k : Nat) : State :=
  let claims := s.ctp.claims
  let s : State := { s with ctp := { s.ctp with claims := [] } }
  let s := ((s.wset CTP_ELECTION 0).bump CTP_OWNER_ELECTIONS).newOwner k
  claims.foldl (fun s e => (s.claimAnswer e.1 (if e.1 = k then 0 else 0x47)).closeSpent e.1) s

/-- The session's traffic keys are derived and it becomes OBSERVER: its credential and its opening time show, its slot's count of
violations begins again, and ACCEPT is sent. A session of the transport key is owner from then on (R464, R465, R468, R479, R490). -/
def State.acceptSession (s : State) (k : Nat) (x : Session) : State :=
  let (cred, rank) := s.credOf x
  let s := s.setSession k x.keyed
  let s := ((s.fset CTP_SESS_STATE_STATE sessObserver k).fset CTP_SESS_STATE_OWNER_CRED (b2n cred) k).fset CTP_SESS_STATE_RANK rank k
  let s := s.pairSet CTP_SESS_OPEN_LO_TIME CTP_SESS_OPEN_HI_TIME s.tb k
  let s := s.setViols x.port ((s.viols x.port).setSlot k 0)
  let s := s.sendFrame x.port k 4 true
    (leBytes 1 1 ++ leBytes 1 (b2n cred) ++ leBytes 2 rank ++ leBytes 12 0 ++ s.openMac x "AXCP-ACCEPT" k)
  if x.entry.isSome then s
  else if s.fget CTP_ELECTION_OPEN = 1 then s.closeElection k
  else s.newOwner k

/-- PROOF: an HMAC that does not match frees the slot (R464, R467, R498). -/
def execProof (p : Nat) (f : Frame) (s : State) : Result :=
  .next (if f.type ≠ 3 then s else s.sessRequest p f (fun f => f.payload.length == 32) fun f x s =>
    if f.payload == s.openMac x "AXCP-PROOF" f.slot then s.acceptSession f.slot x
    else (s.bump SEC_AUTH_FAIL_COUNT).violation p (some (f.slot, x.entry, x.digest)) 4 3 (fun s =>
      (s.refuse p f.slot 4).closeSession f.slot))

/-- HEARTBEAT (R461, R472). -/
def execHeartbeat (p : Nat) (f : Frame) (s : State) : Result :=
  .next (if f.type ≠ 0x10 then s else s.sessRequest p f (fun f => f.payload.isEmpty) fun f _ s => s.reply f.slot 0x10 (head 0))

/-- CLOSE: the slot closes after the response (R461, R469). -/
def execClose (p : Nat) (f : Frame) (s : State) : Result :=
  .next (if f.type ≠ 0x11 then s else s.sessRequest p f (fun f => f.payload.isEmpty) fun f _ s =>
    (s.reply f.slot 0x11 (head 0)).closeSession f.slot)

/-- Credentials and RANKs take their new values as an election opens (R103, R468, R494). -/
def State.refreshCreds (s : State) : State :=
  (s.ctp.sessions.filter (fun e => s.sessState e.1 != sessOpening)).foldl (fun s e =>
    let (cred, rank) := s.credOf e.2
    (s.fset CTP_SESS_STATE_OWNER_CRED (b2n cred) e.1).fset CTP_SESS_STATE_RANK rank e.1) s

/-- During stages 2 and 3 no election runs, unless bring-up waits for a survey, or in PROVISION (R652). -/
def State.electionsBarred (s : State) : Bool :=
  s.fget PWR_STATUS_STAGE < 4 && !s.pwr.waiting && s.lifecycle != lifeProvision

/-- CLAIM: it opens an election or joins it, or is refused; of two refusals that both apply, which is given is open (R473, R475,
R652). -/
def execClaim (p : Nat) (f : Frame) (s : State) : Result :=
  .next (if f.type ≠ 0x30 then s else s.sessRequest p f (fun f => f.payload.isEmpty) fun f _ s =>
    let k := f.slot
    if s.electionsBarred then s.claimAnswer k 0x46 else
    let owned := s.fget CTP_OWNER_VALID == 1
    let running := s.fget CTP_ELECTION_OPEN == 1
    let s := if owned || running then s else s.refreshCreds
    let cred := s.fget CTP_SESS_STATE_OWNER_CRED k == 1
    if owned && !cred then
      let (b, s) := s.draw 2
      s.claimAnswer k (0x41 + b)
    else if owned then s.claimAnswer k 0x41
    else if !cred then s.claimAnswer k 0x42
    else
      let s : State := { s with ctp := { s.ctp with
        electionAt := if running then s.ctp.electionAt else s.now
        claims := s.ctp.claims ++ [(k, f.seq)] } }
      (s.fset CTP_ELECTION_OPEN 1).refreshElection)

/-- How candidates rank: the highest RANK, the lower port, the earliest opening, the lower slot (R473). -/
def State.candidateKey (s : State) (k : Nat) : Nat :=
  (((0xFFFF - s.fget CTP_SESS_STATE_RANK k) * 2 + s.fget CTP_SESS_STATE_PORT k) * 2 ^ 64 +
    s.pair CTP_SESS_OPEN_LO_TIME CTP_SESS_OPEN_HI_TIME k) * 16 + k

/-- ELECTION_CLOSE: 50 ms after it opened the election closes (R473). -/
def execElectionClose (s : State) : Result :=
  .next (if s.fget CTP_ELECTION_OPEN = 0 ∨ s.now < s.ctp.electionAt + 50 * oneMs then s else
    match argMin s.candidateKey (s.ctp.claims.map (·.1)) with
    | none => s.fset CTP_ELECTION_OPEN 0
    | some k => s.closeElection k)

/-- HANDOVER: a valid successor becomes owner in one step (R476). -/
def execHandover (p : Nat) (f : Frame) (s : State) : Result :=
  .next (if f.type ≠ 0x31 then s else s.sessRequest p f (fun f => f.payload.length == 4 && zeroAt f.payload 1 3) fun f _ s =>
    let k := fieldAt f.payload 0 1
    if k < 16 ∧ k ≠ f.slot ∧ s.sessState k = sessObserver ∧ s.fget CTP_SESS_STATE_OWNER_CRED k = 1 then
      (s.newOwner k).reply f.slot 0x31 (head 0)
    else s.reply f.slot 0x31 (head 0x45))

/-! ### Silence (R469, R472) -/

/-- SESSION_TIMEOUT: no frame of the session has been accepted for 10 s (R469). -/
def execSessionTimeout (k : Nat) (s : State) : Result :=
  .next (match s.session k with
    | none => s
    | some x => if s.now < x.lastAt + 10 * oneSecond then s else s.closeSession k)

/-- HEARTBEAT_LOSS: no frame of the owner has been accepted for 500 ms (R472). -/
def execHeartbeatLoss (s : State) : Result :=
  .next (if s.fget CTP_OWNER_VALID = 0 ∨ s.now < s.ctp.ownerAt + 500 * oneMs then s else s.loseOwnership)

end Sys2Proof.Machine
end

