-- ==== Sys2Proof/Machine/Requests.lean ====
section
/-! DEFINITION. The requests of an established session for registers, memory and queues, and attestation (R441, R458 to R463, R492,
R493, R521, R522, R537, R726). -/

namespace Sys2Proof.Machine

/-! ### Registers (R459, R461, R719) -/

/-- The addresses that REG_READ and REG_WRITE name. -/
def regTargets (f : Frame) : List Nat :=
  (List.range (fieldAt f.payload 4 2)).map (fun i => fieldAt f.payload 0 4 + 4 * i)

/-- The head of REG_READ and REG_WRITE: COUNT in range, and the reserved bytes 0. -/
def regHeadOk (f : Frame) : Bool :=
  1 ≤ fieldAt f.payload 4 2 && fieldAt f.payload 4 2 ≤ 256 && zeroAt f.payload 6 2

/-- Every address named exists and is aligned (R459, R477). -/
def regsMapped (f : Frame) : Bool := (regTargets f).all (fun a => a % 4 == 0 && mapped a)

/-- REG_READ (R459). -/
def execRegRead (p : Nat) (f : Frame) (s : State) : Result :=
  .next (if f.type ≠ 0x20 then s else s.sessRequest p f (fun f => f.payload.length == 8 && regHeadOk f) fun f _ s =>
    if !regsMapped f then s.frameViol f 8 else
    let (vs, s) := (regTargets f).foldl (fun (e : List Byte × State) a =>
      let (v, s) := e.2.readReg (.session f.slot) a
      (e.1 ++ leBytes 4 v.toNat, s)) ([], s)
    s.reply f.slot 0x20 vs)

/-- REG_WRITE: every address is judged first; a field withheld is answered NOT_OWNER after all registers are performed. Bytes taken
into the staging window are answered once programmed (R459, R719). -/
def execRegWrite (p : Nat) (f : Frame) (s : State) : Result :=
  .next (if f.type ≠ 0x21 then s else
    s.sessRequest p f (fun f => 8 ≤ f.payload.length && regHeadOk f && f.payload.length == 8 + 4 * fieldAt f.payload 4 2) fun f _ s =>
    let r : Requester := .session f.slot
    let a := fieldAt f.payload 0 4
    if !regsMapped f then s.frameViol f 8
    else if inStaging a then
      match s.windowWrite r (a - 0x200_0000) (f.payload.drop 8) (some (f.slot, 0x21, f.seq, 0)) with
      | (true, s) => s
      | (false, s) => if s.ownerSession r then s.reply f.slot 0x21 (head 0) else s.frameViol f 7
    else
      let (held, s) := ((List.range (fieldAt f.payload 4 2)).zip (regTargets f)).foldl (fun (e : Bool × State) (t : Nat × Nat) =>
        let (h, s) := e.2.writeReg r t.2 (BitVec.ofNat 32 (fieldAt f.payload (8 + 4 * t.1) 4))
        (e.1 || h, s)) (false, s)
      if held then s.frameViol f 7 else s.reply f.slot 0x21 (head 0))

/-! ### Chamber memory (R441, R458, R726) -/

/-- A line lies in a region that a request may name (R458). -/
def State.memTarget (s : State) (pa : Nat) : Bool :=
  match regionOf s pa with
  | .hbm _ _ => true
  | .scratch _ _ => true
  | .store _ _ => true
  | _ => false

/-- The unit of a line is in service: its pseudo-channel, core or gallery store (R726). -/
def State.lineUsable (s : State) (pa : Nat) : Bool :=
  match regionOf s pa with
  | .hbm n off =>
    let (st, p, _) := (s.chamber n).interleave off
    s.healthOf (unitPc st p) != umber
  | .scratch c _ => s.coreLive c
  | .store g _ => s.galleryLive g
  | _ => false

/-- Lines read for a session: what each finds in its cells is `evs`; nothing is returned when one cannot be read (R726). -/
def State.memRead (s : State) : List (Nat × Nat) → List CellEvent → Option (List Byte) × State
  | [], _ => (some [], s)
  | (pa, n) :: rest, evs =>
    let (got, s) : Option (List Byte) × State :=
      if !s.lineUsable pa then (none, s) else
      match (s.cellEvent (pa / 64 * 64) (evs.headD .clean)).readLine pa n with
      | (.ok b, s) => (some b, s)
      | (.error _, s) => (none, s)
    let (more, s) := s.memRead rest (evs.drop 1)
    (got.bind (fun b => more.map (b ++ ·)), s)

/-- Lines written for a session, in order; whether all could be. A line written in part is read first (R401, R725, R726). -/
def State.memWriteLines (s : State) : List (Nat × Nat) → List Byte → List CellEvent → Bool × State
  | [], _, _ => (true, s)
  | (pa, n) :: rest, bs, evs =>
    let (ok, s) : Bool × State :=
      if !s.lineUsable pa then (false, s) else
      let s := if n < 64 then s.cellEvent (pa / 64 * 64) (evs.headD .clean) else s
      match s.writeLine pa (bs.take n) with
      | (none, s) => (true, s)
      | (some _, s) => (false, s)
    let (all_, s) := s.memWriteLines rest (bs.drop n) (evs.drop 1)
    (ok && all_, s)

/-- The fields that MEM_READ and MEM_WRITE share, with LENGTH at most `most`. -/
def memHeadOk (f : Frame) (most : Nat) : Bool :=
  zeroAt f.payload 6 2 && 1 ≤ fieldAt f.payload 8 4 && fieldAt f.payload 8 4 ≤ most && zeroAt f.payload 12 4

/-- The lines that a request names. -/
def memLines (f : Frame) : List (Nat × Nat) := linesOf (fieldAt f.payload 0 8) (fieldAt f.payload 8 4)

/-- MEM_READ; `evs` is what its lines find in the cells (R441, R458, R726). -/
def execMemRead (p : Nat) (f : Frame) (evs : List CellEvent) (s : State) : Result :=
  .next (if f.type ≠ 0x22 then s else s.sessRequest p f (fun f => f.payload.length == 16 && memHeadOk f 8192) fun f _ s =>
    if !(memLines f).all (fun l => s.memTarget l.1) then s.frameViol f 8 else
    match s.memRead (memLines f) evs with
    | (some bs, s) => s.reply f.slot 0x22 bs
    | (none, s) => s.frameNak f.slot 0x48 0x22 f.seq)

/-- MEM_WRITE (R441, R458, R726). -/
def execMemWrite (p : Nat) (f : Frame) (evs : List CellEvent) (s : State) : Result :=
  .next (if f.type ≠ 0x23 then s else
    s.sessRequest p f (fun f => 16 ≤ f.payload.length && memHeadOk f 8176 && f.payload.length == 16 + fieldAt f.payload 8 4) fun f _ s =>
    if !(memLines f).all (fun l => s.memTarget l.1) then s.frameViol f 8 else
    let (ok, s) := s.memWriteLines (memLines f) (f.payload.drop 16) evs
    s.reply f.slot 0x23 (head (if ok then 0 else 0x48)))

/-! ### Queues (R521, R522, R537) -/

/-- A queue id that exists: a hardware queue, or a management queue. -/
def queueId (q : Nat) : Bool := q < 4096 || (0x1000 ≤ q && q ≤ 0x1003)

/-- The layout of DOORBELL: INLINE as the queue asks, and the item with it. -/
def doorbellOk (f : Frame) : Bool :=
  let q := fieldAt f.payload 0 2
  let inl := fieldAt f.payload 2 2
  inl ≤ 1 && f.payload.length == 8 + 64 * inl && (!queueId q || (inl == 1) == decide (0x1000 ≤ q))

/-- DOORBELL; STATE of a management queue is 1, as POLL has it (R521, R522, R537). -/
def execDoorbell (p : Nat) (f : Frame) (s : State) : Result :=
  .next (if f.type ≠ 0x24 then s else s.sessRequest p f (fun f => 8 ≤ f.payload.length && doorbellOk f) fun f _ s =>
    let q := fieldAt f.payload 0 2
    if !queueId q then s.frameViol f 8
    else if q < 4096 then
      let s := s.doorbell q (fieldAt f.payload 4 4)
      s.reply f.slot 0x24 (head 0 ++ leBytes 4 (s.queueState q))
    else (s.mgPost (q - 0x1000) f.slot (slice f.payload 8 64)).reply f.slot 0x24 (head 0 ++ leBytes 4 1))

/-- One entry of POLL; FETCHED of a management queue is open (R522, R542). -/
def State.pollEntry (s : State) (q : Nat) : List Byte × State :=
  if q < 4096 then
    (leBytes 2 q ++ leBytes 1 (s.queueState q) ++ leBytes 1 (s.fget GFE_Q_STATE_OVERRUN q) ++
      leBytes 4 (s.fget GFE_Q_FETCHED_COUNT q) ++ leBytes 8 (s.pair GFE_Q_DONE_LO_COUNT GFE_Q_DONE_HI_COUNT q), s)
  else
    let (n, s) := s.draw (2 ^ 32)
    (leBytes 2 q ++ leBytes 1 1 ++ leBytes 1 0 ++ leBytes 4 n ++ leBytes 8 ((s.mgQueue (q - 0x1000)).done % 2 ^ 24), s)

/-- The layout of POLL: a count of 1 to 256 and as many queue ids (R461, R522). -/
def pollOk (f : Frame) : Bool :=
  let n := fieldAt f.payload 0 2
  4 ≤ f.payload.length && 1 ≤ n && n ≤ 256 && zeroAt f.payload 2 2 && f.payload.length == 4 + 2 * n

/-- POLL (R522). -/
def execPoll (p : Nat) (f : Frame) (s : State) : Result :=
  .next (if f.type ≠ 0x25 then s else
    s.sessRequest p f pollOk fun f _ s =>
    let n := fieldAt f.payload 0 2
    let qs := (List.range n).map (fun i => fieldAt f.payload (4 + 2 * i) 2)
    if !qs.all queueId then s.frameViol f 8 else
    let (bs, s) := qs.foldl (fun (e : List Byte × State) q =>
      let (b, s) := e.2.pollEntry q
      (e.1 ++ b, s)) ([], s)
    s.reply f.slot 0x25 bs)

/-! ### Attestation (R462, R463, R492, R493) -/

/-- The health summary of a report (R492). -/
def State.healthSummary (s : State) : List Byte :=
  leBytes 1 (s.fget HLM_SUMMARY_CORE_CORES_AMBER) ++ leBytes 1 (s.fget HLM_SUMMARY_CORE_CORES_UMBER) ++
  leBytes 1 (s.fget HLM_SUMMARY_CORE_GALLERIES_AMBER) ++ leBytes 1 (s.fget HLM_SUMMARY_CORE_GALLERIES_UMBER) ++
  leBytes 2 (s.fget HLM_SUMMARY_MEM_PC_AMBER) ++ leBytes 2 (s.fget HLM_SUMMARY_MEM_PC_UMBER) ++
  leBytes 1 (s.fget HLM_SUMMARY_LANE_LANES_AMBER) ++ leBytes 1 (s.fget HLM_SUMMARY_LANE_LANES_UMBER) ++ leBytes 6 0 ++
  leBytes 4 (s.powerOnNs / oneHour) ++ leBytes 4 (smGet (fun _ => 0) s.hlm.life 1) ++ leBytes 40 0

/-- The words of a register set, as bytes. -/
def State.words (s : State) (r : Reg) (n i : Nat) (inner : Bool) : List Byte :=
  (List.range n).flatMap (fun k => leBytes 4 (s.rget (if inner then regAddr r i k else regAddr r k 0)).toNat)

/-- The signed part of a report (R492). -/
def State.reportBody (s : State) (nonce : List Byte) : List Byte :=
  let flags := s.fget SEC_LIFECYCLE_DEBUG_LOCKED + 2 * s.fget SEC_FW_STATUS_VERIFIED + 4 * b2n (!s.svy.running.isEmpty) +
    8 * s.fget CTP_OWNER_VALID
  leBytes 4 0x5441_5841 ++ leBytes 4 0x4500 ++ nonce ++ s.serial ++ slice s.identity 6 2 ++ leBytes 1 s.lifecycle ++
  leBytes 1 flags ++ leBytes 4 (s.fget SEC_FW_VERSION_VERSION) ++ s.words SEC_FW_DIGEST 12 0 false ++ s.sec.ucode ++
  s.words SVY_DIGEST 12 0 false ++ leBytes 4 (s.fget SVY_ACTIVE_ID_ID) ++ leBytes 4 (s.fget SVY_ACTIVE_VER_VER) ++ leBytes 8 s.tb ++
  (List.range 16).flatMap (fun n =>
    if s.fget CHB_STATE_STATE n = chbAbsent then List.replicate 48 0#8 else s.words CHB_DIGEST 12 n true) ++
  s.healthSummary

/-- A report with both signatures of the identity keys (R483, R492). -/
def State.report_ (s : State) (nonce : List Byte) : List Byte :=
  let body := s.reportBody nonce
  body ++ slice (Config.identitySign body) 0 16608

/-- ATTEST: one report is formed at a time (R462, R493). -/
def execAttest (p : Nat) (f : Frame) (s : State) : Result :=
  .next (if f.type ≠ 0x40 then s else s.sessRequest p f (fun f => f.payload.length == 32) fun f _ s =>
    if s.ctp.attest.isSome then s.reply f.slot 0x40 (leBytes 8 0x46)
    else { s with ctp := { s.ctp with attest := some (f.slot, f.seq, f.payload) } })

/-- ATTEST_REPORT: the report is formed and sent, with the certificate, in five frames (R462, R463, R492). -/
def execAttestReport (s : State) : Result :=
  .next (match s.ctp.attest with
    | none => s
    | some (k, _, nonce) =>
      let s : State := { s with ctp := { s.ctp with attest := none } }
      let content := s.report_ nonce ++ s.sec.certificate
      let s := (List.range 5).foldl (fun s i =>
        s.reply k 0x40 (leBytes 2 0 ++ leBytes 1 i ++ leBytes 1 5 ++ leBytes 4 content.length ++
          (content.drop (8184 * i)).take 8184)) s
      s.closeSpent k)

end Sys2Proof.Machine
end

