-- ==== Sys2Proof/Machine/Administration.lean ====
section
/-! DEFINITION. What the owner administers: the key store, the survey-signing key sets, firmware and the lifecycle (R486 to R491,
R494). -/

namespace Sys2Proof.Machine

/-! ### Keys and key sets (R487, R488, R498) -/

/-- SEC_KEYS shows what is held. -/
def State.refreshKeys (s : State) : State :=
  (s.fset SEC_KEYS_ENTRIES (maskOf (s.sec.keys.map (·.1)))).fset SEC_KEYS_KEYSETS s.sec.keysets.length

/-- Every session of key store entry `e` closes. -/
def State.closeEntry (s : State) (e : Nat) : State :=
  (s.ctp.sessions.filter (fun x => x.2.entry == some e)).foldl (fun s x => s.closeSession x.1) s

/-- Entry `e` of the key store set, or erased. -/
def State.setKey (s : State) (e : Nat) (key : Option (List Byte)) : State :=
  let rest := s.sec.keys.filter (fun x => x.1 != e)
  ({ s with sec := { s.sec with keys := match key with | some k => (e, k) :: rest | none => rest } } : State).refreshKeys

/-- KEY_ENROLL (R461, R487). -/
def execKeyEnroll (p : Nat) (f : Frame) (s : State) : Result :=
  .next (if f.type ≠ 0x50 then s else
    s.sessRequest p f (fun f => f.payload.length == 48 && fieldAt f.payload 0 1 ≤ 15 && zeroAt f.payload 1 15) fun f _ s =>
    let e := fieldAt f.payload 0 1
    let s := s.setKey e (some (slice f.payload 16 32))
    (s.reply f.slot 0x50 (head 0)).closeEntry e)

/-- What is left of the store without entry `e` still serves: a key of an owner entry of the active survey, or with no survey active
any key (R487). -/
def State.revocable (s : State) (e : Nat) : Bool :=
  let rest := s.sec.keys.filter (fun x => x.1 != e)
  s.sec.keys.any (fun x => x.1 == e) &&
  if s.svy.running.isEmpty then !rest.isEmpty
  else rest.any (fun x => match s.accessEntry (sha384 x.2) with
    | some a => bitOf (fieldAt a 0x32 2) 0
    | none => false)

/-- KEY_REVOKE: the sessions of the key close after the answer (R487, R494). -/
def execKeyRevoke (p : Nat) (f : Frame) (s : State) : Result :=
  .next (if f.type ≠ 0x51 then s else
    s.sessRequest p f (fun f => f.payload.length == 4 && fieldAt f.payload 0 1 ≤ 15 && zeroAt f.payload 1 3) fun f _ s =>
    let e := fieldAt f.payload 0 1
    if !s.revocable e then s.reply f.slot 0x51 (head 6)
    else ((s.setKey e none).reply f.slot 0x51 (head 0)).closeEntry e)

/-- KEYSET_ENROLL: a set already held succeeds and is stored once; four are held at most (R488). -/
def execKeysetEnroll (p : Nat) (f : Frame) (s : State) : Result :=
  .next (if f.type ≠ 0x52 then s else s.sessRequest p f (fun f => f.payload.length == 436) fun f _ s =>
    if s.sec.keysets.contains f.payload then s.reply f.slot 0x52 (head 0 ++ sha384 f.payload)
    else if 4 ≤ s.sec.keysets.length then s.reply f.slot 0x52 (head 6 ++ List.replicate 48 0#8)
    else
      let s : State := { s with sec := { s.sec with keysets := s.sec.keysets ++ [f.payload] } }
      s.refreshKeys.reply f.slot 0x52 (head 0 ++ sha384 f.payload))

/-- KEYSET_REMOVE: the set that the active survey names stays (R488). -/
def execKeysetRemove (p : Nat) (f : Frame) (s : State) : Result :=
  .next (if f.type ≠ 0x53 then s else s.sessRequest p f (fun f => f.payload.length == 48) fun f _ s =>
    let active := !s.svy.running.isEmpty && imageKeyset s.svy.running == f.payload
    if active || (keysetNamed s.sec.keysets f.payload).isNone then s.reply f.slot 0x53 (head 6)
    else
      let s : State := { s with sec := { s.sec with keysets := s.sec.keysets.filter (fun k => sha384 k != f.payload) } }
      s.refreshKeys.reply f.slot 0x53 (head 0))

/-! ### Firmware (R461, R486, R494, R498) -/

/-- Firmware slot `k` is valid or not. -/
def State.setFwValid (s : State) (k : Nat) (on : Bool) : State :=
  s.fset (if k = 0 then SEC_FW_STATUS_A_VALID else SEC_FW_STATUS_B_VALID) (b2n on)

/-- FIRST: staging opens and the inactive slot is erased; bytes still to be written go with it, and are answered all the same. -/
def State.fwFirst (s : State) (k : Nat) : State :=
  let j := s.stageSlot
  let s := ((s.setFwSlot j []).setFwValid j false).setStage fwStaging 0
  { s with sec := { s.sec with
    stager := k, fwStaged := s.sec.fwStaged.map (fun (x : Staged) => { x with bytes := [] }) } }

/-- The layout of FW_STAGE: FIRST asks for OFFSET 0, and the data end within a slot. -/
def fwStageOk (f : Frame) : Bool :=
  9 ≤ f.payload.length && fieldAt f.payload 4 1 ≤ 1 && zeroAt f.payload 5 3 &&
  (fieldAt f.payload 4 1 == 0 || fieldAt f.payload 0 4 == 0) && fieldAt f.payload 0 4 + (f.payload.length - 8) ≤ fwMax

/-- FW_STAGE: its data wait for flash; while a commit is checked it is BUSY, and before FIRST it is out of state (R461, R478,
R486). -/
def execFwStage (p : Nat) (f : Frame) (s : State) : Result :=
  .next (if f.type ≠ 0x60 then s else s.sessRequest p f fwStageOk fun f _ s =>
    if s.sec.commit.isSome then s.reply f.slot 0x60 (head 0x46)
    else if fieldAt f.payload 4 1 = 0 ∧ s.fget SEC_FW_STATUS_STAGE_STATE ≠ fwStaging then s.frameViol f 6
    else
      let s := if fieldAt f.payload 4 1 = 1 then s.fwFirst f.slot else s
      { s with sec := { s.sec with fwStaged := s.sec.fwStaged ++ [{
        off := fieldAt f.payload 0 4, bytes := f.payload.drop 8, answer := some (f.slot, 0x60, f.seq, 0) }] } })

/-- FW_STAGE_WRITTEN: the data at the head are written to the inactive slot, and their FW_STAGE is answered (R461, R486). -/
def execFwStageWritten (s : State) : Result :=
  .next (match s.sec.fwStaged with
    | [] => s
    | x :: rest =>
      let k := s.stageSlot
      let s := if x.bytes.isEmpty then s else s.setFwSlot k (flashWrite (s.fwSlot k) x.off x.bytes)
      let s : State := { s with sec := { s.sec with fwStaged := rest } }
      match x.answer with
      | some (slot, type, seq, cause) => s.answerLater slot type seq cause []
      | none => s)

/-- FW_COMMIT: checking begins; one commit at a time (R478, R486). -/
def execFwCommit (p : Nat) (f : Frame) (s : State) : Result :=
  .next (if f.type ≠ 0x61 then s else s.sessRequest p f (fun f => f.payload.length == 8 && zeroAt f.payload 4 4) fun f _ s =>
    if s.sec.commit.isSome then s.reply f.slot 0x61 (head 0x46)
    else s.startCommit { session := f.slot, seq := some f.seq, length := fieldAt f.payload 0 4, checked := false })

/-- FW_COMMIT_DONE: with every staged byte written, the image is checked; one that passes is marked for the next reset, which is a
step of its own, for from the signature check on a loss of ownership no longer stops it (R486, R494). -/
def execFwCommitDone (s : State) : Result :=
  .next (match s.sec.commit with
    | none => s
    | some c =>
      if s.sec.fwStaged.isEmpty = false then s else
      let k := s.stageSlot
      if !c.checked then
        let img := if c.length ≤ fwMax then flashRead (s.fwSlot k) c.length else []
        match fwCommitCheck s.orderingCode (s.fget SEC_FW_FLOOR_FLOOR) img c.length with
        | some code => if c.seq.isSome then (s.refuseFw code).closeSpent c.session else s.refuseFw code
        | none => { s with sec := { s.sec with commit := some { c with checked := true } } }
      else
        let s : State := { s with sec := { s.sec with nextSlot := k, commit := none } }
        let s := ((s.setFwValid k true).setStage fwReady 0).answerCommit c 0
        if c.seq.isSome then s.closeSpent c.session else s)

/-! ### Lifecycle (R486, R489 to R491) -/

/-- SEC_LIFECYCLE and the identity record take a lifecycle state. -/
def State.setLifecycle (s : State) (v : Nat) : State :=
  let s := s.fset SEC_LIFECYCLE_STATE v
  s.wset SEC_IDENT (setBitsOf (s.rget (regAddr SEC_IDENT 20 0)).toNat 7 0 v) 20

/-- No survey is active, none is stored, and no load runs (R491). -/
def State.eraseSurveys (s : State) : State :=
  let s := if s.svy.load.isSome then s.endLoad 0x10 else s
  let s := ((((s.setSurveySlot 0 []).setSurveySlot 1 []).setValid 0 false).setValid 1 false).setStatus svyIdle 0 none16
  let s := (s.fset SVY_ACTIVE_ID_ID 0).fset SVY_ACTIVE_VER_VER 0
  let s := (List.range 12).foldl (fun s k => s.wset SVY_DIGEST 0 k) s
  { s with svy := { s.svy with unprogrammed := [], running := [], applied := false } }

/-- Every chamber torn down and every resource zeroised, whether a chamber holds it or not (R106, R491). -/
def State.zeroiseAll (s : State) : State :=
  let held := (List.range 16).filter (fun n => (s.chamber n).kind != 0)
  let s := held.foldl (fun s n => (s.stopChamber n).zeroBegin n) s
  let s := s.svy.zeroing.foldl (fun s e => s.zeroShare e.1 e.2) s
  let s := (List.range 16).foldl (fun s g => s.zeroGallery g) s
  let s := s.ms.poison.foldl (fun s a => s.setPoison a false) s
  let s : State := { s with
    mem := [], items := [], kv := { pages := [], tables := [], seqs := [], zeroing := [] }, svy := { s.svy with zeroing := [] } }
  held.foldl (fun s n => s.setChamber n Chamber.none [] [] []) s

/-- The move to RETURN (R491, R494). -/
def State.toReturn (s : State) : State :=
  let s := (s.ctp.sessions.map (·.1)).foldl (fun s k => s.closeSession k) s
  let s := ((s.zeroiseAll.eraseSurveys).applyGroup none).applyPorts []
  let s : State := { s with sec := { s.sec with keys := [], keysets := [] } }
  (s.refreshKeys.setLifecycle lifeReturn).fset SEC_LIFECYCLE_DEBUG_LOCKED 0

/-- The layout of LIFECYCLE: ADVANCE names a state, FLOOR none (R461). -/
def lifecycleOk (f : Frame) : Bool :=
  f.payload.length == 4 && zeroAt f.payload 2 2 &&
  ((fieldAt f.payload 0 1 == 1 && fieldAt f.payload 1 1 ≤ 3) || (fieldAt f.payload 0 1 == 2 && fieldAt f.payload 1 1 == 0))

/-- A LIFECYCLE that asks for FLOOR, as far as the device can read it (R461). -/
def State.asksFloor (s : State) (f : Frame) : Bool := (s.openFrame f).any (fun f => fieldAt f.payload 0 1 == 2)

/-- ADVANCE: LIFECYCLE with any OP but FLOOR's, and one that cannot be read; the state moves to the next one (R489 to R491). -/
def execAdvance (p : Nat) (f : Frame) (s : State) : Result :=
  .next (if f.type ≠ 0x62 ∨ s.asksFloor f = true then s else s.sessRequest p f lifecycleOk fun f _ s =>
    let target := fieldAt f.payload 1 1
    if target ≠ s.lifecycle + 1 ∨ (target = lifeProduction ∧ s.sec.keys.isEmpty = true) then s.reply f.slot 0x62 (head 6)
    else if target = lifeReturn then (s.reply f.slot 0x62 (head 0)).toReturn
    else
      let s : State := if target = lifeProduction then { s with sec := { s.sec with transport := none } } else s
      let s := if target = lifeProduction then s.fset SEC_LIFECYCLE_TRANSPORT 0 else s
      (s.setLifecycle target).reply f.slot 0x62 (head 0))

/-- FLOOR: LIFECYCLE with OP FLOOR raises SEC_FW_FLOOR to the running version; it never falls (R486). -/
def execFloor (p : Nat) (f : Frame) (s : State) : Result :=
  .next (if f.type ≠ 0x62 ∨ s.asksFloor f = false then s else s.sessRequest p f lifecycleOk fun f _ s =>
    (s.fset SEC_FW_FLOOR_FLOOR (max (s.fget SEC_FW_FLOOR_FLOOR) (s.fget SEC_FW_VERSION_VERSION))).reply f.slot 0x62 (head 0))

end Sys2Proof.Machine
end

