-- ==== Sys2Proof/Machine/Bringup.lean ====
section
/-! DEFINITION. Staged bring-up, early service and its handover (R649 to R657). -/

namespace Sys2Proof.Machine

/-- Bring-up can go on: the device is out of reset, and nothing has stopped it. -/
def State.booting (s : State) : Bool := !s.pwr.held && !s.pwr.halted && !s.pwr.dark

/-! ### Stages 1 and 2 (R484, R485, R649, R651) -/

/-- The PMBus commands of stage 2 for one regulator, before its first VOUT_COMMAND (R646). -/
def State.initRegulator (s : State) (d : Nat) : State :=
  let x := s.domain d
  let s := (s.emit (.pmbus d 0x03 0)).emit (.pmbus d 0x20 0)
  (s.emit (.pmbus d 0x24 (roundDiv (8700 * 2 ^ x.vexp) 10_000))).emit (.pmbus d 0x27 5)

/-- FIRMWARE_VERIFIED: boot ROM verifies the firmware slot to boot, then the other; the MGC comes up, and every domain goes to its
factory voltage, for 1,680 MHz or, in the uncore, 2,400 MHz. `vexps` are the regulators' VOUT_MODE exponents. With no slot
verified FAULT_N is asserted and the device stays in stage 1 (R484, R646, R649, R650, R662, R712). -/
def execFirmwareVerified (vexps : List Nat) (s : State) : Result :=
  .next (if s.booting = false ∨ s.fget PWR_STATUS_STAGE ≠ 1 ∨ s.pins.faultN = false then s else
    let k := s.sec.nextSlot
    let valid := fun (j : Nat) (on : Bool) (s : State) =>
      s.fset (if j = 0 then SEC_FW_STATUS_A_VALID else SEC_FW_STATUS_B_VALID) (b2n on)
    let first := fwBoots s.orderingCode (s.fwSlot k)
    let second := fwBoots s.orderingCode (s.fwSlot (1 - k))
    let s := valid k first s
    let s := if first then s else valid (1 - k) second s
    if !first && !second then ({ s with pins := { s.pins with faultN := false } } : State).noteBoard else
    let s := ((s.bootFirmware (if first then k else 1 - k)).toStage 2).enablePorts
    let s := (List.range 17).foldl (fun s d =>
      let s := s.setDomain d { s.domain d with vexp := vexps.getD d 9 }
      let s := s.initRegulator d
      if d < 16 then s.placeRate d 1_680_000 1_680_000 else s.placeRate d 2_400_000 2_400_000) s
    let s := s.refreshTbc
    if s.pins.offReqN then s else s.shutdown)

/-- The health history read from flash: umber units take no part in service, amber units have their actions (R628). -/
def State.readHealth (s : State) : State :=
  let s : State := { s with
    health := s.hlm.flash.foldl (fun h e => smPut (fun _ => 0) h e.1 e.2.1) []
    hlm := { s.hlm with
      history := s.hlm.flash.foldl (fun h e => smPut (fun _ => UnitHistory.empty) h e.1 e.2.2) [], steps := s.hlm.stepsFlash } }
  let s := (List.range 16).foldl (fun s g => (s.refreshDomain g).clearRates g) s.refreshSummary
  ((List.range 64).foldl (fun s l => s.refreshLane l) s).refreshLive

/-- The image that a survey slot holds, as long as its header says. -/
def surveyImage (slot : List Byte) : List Byte :=
  let len := fieldAt slot 0x10 4
  if 64 + trailerSize ≤ len ∧ len ≤ 2 ^ 25 then flashRead slot len else []

/-- Checks 3 to 10 and 12 to 14 of the image in survey slot `k`; the slot's valid bit notes checks 3 to 8 (R114, R651). -/
def State.bootCheck (s : State) (k : Nat) : Bool × State :=
  let img := surveyImage (s.surveySlot k)
  match imageCheck s.sec.keysets img img.length with
  | some _ => (false, s.setValid k false)
  | none =>
    let s := s.setValid k true
    ((fitCheck s.orderingCode (s.fget SEC_FW_VERSION_VERSION) none img).isNone && (s.contentCheck img).isNone, s)

/-- Bring-up goes on with the survey of slot `k`: its group and its ports, and stage 3 (R649, R651). -/
def State.bootSurvey (s : State) (k which : Nat) : State :=
  let img := surveyImage (s.surveySlot k)
  let s := ((s.fset SVY_FLASH_ACTIVE k).fset PWR_BOOT_SURVEY which).showSurvey img
  let s := ((s.applyGroup (groupOf img)).applyPorts (portsOf img))
  s.enterStage3

/-- STAGE_2_DONE: the health history is read and the active survey is checked, then the other slot's. Stage 3 begins with the
one that passes; with none bring-up waits in stage 2 (R628, R649, R651). -/
def execStage2Done (s : State) : Result :=
  .next (if s.booting = false ∨ s.fget PWR_STATUS_STAGE ≠ 2 ∨ s.pwr.waiting = true then s else
    let s := s.readHealth
    let k := s.activeSlot
    match s.bootCheck k with
    | (true, s) => s.bootSurvey k 1
    | (false, s) =>
      match s.bootCheck (1 - k) with
      | (true, s) => s.bootSurvey (1 - k) 2
      | (false, s) => { s with pwr := { s.pwr with waiting := true } })

/-! ### Stage 3 (R649, R650) -/

/-- A stack is in service or retired whole. -/
def State.stackDone (s : State) (st : Nat) : Bool :=
  bitOf (s.fget PWR_BOOT_STACKS_READY) st || (List.range 32).all (fun p => s.healthOf (unitPc st p) == umber)

/-- The stack that trains next. -/
def State.nextStack (s : State) : Option Nat := (List.range 16).find? (fun st => !s.stackDone st)

/-- STACK_TRAINED: the stack whose turn it is finishes a training, well or not. A third failure retires it: each of its
pseudo-channels turns umber (R649, R650). -/
def execStackTrained (st : Nat) (ok : Bool) (s : State) : Result :=
  .next (if s.booting = false ∨ s.fget PWR_STATUS_STAGE < 3 ∨ s.nextStack ≠ some st then s else
    if ok then
      let s := s.fset PWR_BOOT_STACKS_READY (s.fget PWR_BOOT_STACKS_READY ||| 2 ^ st)
      let s := ((s.fset HBC_STATUS_TRAINED 1 st).refreshStack st).refreshSleep
      { s with pwr := { s.pwr with seeded := if s.pwr.seeded.contains st then s.pwr.seeded else s.pwr.seeded ++ [st] } }
    else
      let n := smGet (fun _ => 0) s.pwr.failures st + 1
      let s : State := { s with pwr := { s.pwr with failures := smPut (fun _ => 0) s.pwr.failures st n } }
      if n < 3 then s else
      (List.range 32).foldl (fun s p =>
        if s.healthOf (unitPc st p) == umber then s else s.setUnit (unitPc st p) umber) s)

/-! ### Stage 4: early service (R653 to R656) -/

/-- The EARLY section of the active survey, if it is enabled: its body, and whether its directory CHECK holds. -/
def State.earlyBody (s : State) : Option (List Byte × Bool) :=
  match (dirOf s.svy.running).find? (fun e => e.type == secEarly) with
  | none => none
  | some e =>
    let b := slice s.svy.running e.off e.len
    if bitOf (fieldAt b 1 1) 0 then some (b, crc32c b == e.check) else none

/-- The early chamber (R654); `lockMhz` holds RATE_MHZ (R656). -/
def State.earlyChamber (s : State) (b : List Byte) : Chamber :=
  { kind := 2, galleries := fieldAt b 2 2, powerW := fieldAt b 6 2, lockMhz := fieldAt b 4 2, weight := 1,
    lcShare := fieldAt b 0x12 2, kvGib := fieldAt b 0xA 2, queues := fieldAt b 9 1, persistent := 0,
    sequences := fieldAt b 0xC 4, stackMask := 0xF, perStack := fieldAt b 8 1, first := List.replicate 16 0, owned := 0,
    shared := 0, pcs := s.pcList 0xF }

/-- Where the early chamber's page tables lie in its memory: 64 KiB directly below its window tables (R654). -/
def Chamber.earlyTables (c : Chamber) : Nat := c.memSize - c.kvGib * 2 ^ 30 - c.windowTables - 0x1_0000

/-- The page tables of the early chamber: three tables in a row, the third of 1 GiB writable leaves (R389, R390, R654; log
entry 16). -/
def State.earlyPages (s : State) (n : Nat) : State :=
  let c := s.chamber n
  let t := hbmBase n + c.earlyTables
  let s := s.setBytes t (leBytes 8 (t + 0x1000 + 1))
  let s := s.setBytes (t + 0x1000) (leBytes 8 (t + 0x2000 + 1))
  let s := (List.range (c.earlyTables / 2 ^ 30)).foldl (fun s k =>
    s.setBytes (t + 0x2000 + 8 * k) (leBytes 8 (hbmBase n + k * 2 ^ 30 + 0xD))) s
  [0, 1].foldl (fun s i =>
    ((s.fset MMU_ROOT_LO_ADDR (t / 4096 % 2 ^ 20) i n).fset MMU_ROOT_HI_ADDR (t / 2 ^ 32) i n).fset MMU_ROOT_LO_ENABLE 1 i n) s

/-- The set-up of early service, steps 2 and 3; none where a step fails (R655). -/
def State.earlySetup (s : State) (b : List Byte) : Option State :=
  let n := fieldAt b 0 1
  let c := s.earlyChamber b
  let tables := slice b (fieldAt b 0x14 4) (fieldAt b 0x18 4)
  let slots := slotRecords (tables.length / 64 + 1) tables
  let img := slice b (fieldAt b 0x1C 4) (fieldAt b 0x20 4)
  let va := fieldAt b 0x28 8
  let qcbs := (List.range c.queues).map (fun k => slice b (0x40 + 64 * k) 64)
  let room := c.kvGib * 2 ^ 30 + c.windowTables + 0x1_0000 ≤ c.memSize
  let mapped := c.earlyTables / 2 ^ 30 * 2 ^ 30
  if !(n < 16 && room && slots.all SlotRecord.good && va + img.length ≤ mapped && qcbs.all (qcbOk c.galleries)) then none else
  let s := (s.setChamber n c [] slots []).earlyPages n
  let s := s.setBytes (hbmBase n + va) img
  let s := ((s.fset GFE_GAREA_LO_ADDR (fieldAt b 0x30 8 / 2 ^ 16 % 2 ^ 16) n).fset GFE_GAREA_HI_ADDR (fieldAt b 0x30 8 / 2 ^ 32) n).fset
    GFE_GAREA_SIZE_MIB (fieldAt b 0x24 2) n
  let s := ((List.range c.queues).zip qcbs).foldl (fun s e => s.openQueue n e.1 e.2) s
  let goff := fieldAt b 0x38 4
  if goff = 0xFFFF_FFFF then some s else
  let a := va + goff
  let s := (s.fset GFE_GCMD_ADDR_LO_ADDR (a / 64 % 2 ^ 26) n).fset GFE_GCMD_ADDR_HI_ADDR (a / 2 ^ 32) n
  let s := (((s.fset GFE_GCMD_GRAPH 0 n).fset GFE_GCMD_OP 1 n).beginCmd (2 * n + 1) ⟨1, 0, a / 64 * 64⟩).graphCreate n
  if s.fget GFE_GCMD_STATUS_STATE n = 2 then some s else none

/-- Early service skipped, and why: 2 for a stack, 3 for a check (R655, R672). -/
def State.skipEarly (s : State) (why : Nat) : State := s.fset PWR_BOOT_EARLY why

/-- EARLY_SERVICE: with stacks 0 to 3 trained and an enabled EARLY section, stage 4 begins and early service is set up; a stack
retired among them, or a step that fails, skips it (R649, R655, R656, R672). -/
def execEarlyService (s : State) : Result :=
  .next (match s.earlyBody with
    | none => s
    | some (b, ok) =>
      if s.booting = false ∨ s.fget PWR_STATUS_STAGE ≠ 3 ∨ s.fget PWR_BOOT_EARLY ≠ 0 ∨ s.pwr.shutdownAt.isSome = true ∨
          (List.range 4).all s.stackDone = false then s else
      if s.fget PWR_BOOT_STACKS_READY % 16 ≠ 15 then s.skipEarly 2 else
      let s := s.toStage 4
      if !ok then s.skipEarly 3 else
      match s.earlySetup b with
      | none => s.skipEarly 3
      | some s =>
        let n := fieldAt b 0 1
        let s := ((s.goLive n).fset PWR_STATUS_EARLY 1).fset PWR_BOOT_EARLY 1
        (s.galleriesOf n).foldl (fun s g => s.placeRate g (1000 * fieldAt b 4 2) 2_400_000) s)

/-! ### Stage 5 (R657) -/

/-- The chambers of the running survey applied, where they are not yet, and LIVE (R651, R657 step 4). -/
def State.fullChambers (s : State) : State :=
  let img := s.svy.running
  let s := if s.svy.applied then s else (usedChambers img).foldl (fun s n => s.applyChamber img n) s
  let s := (usedChambers img).foldl (fun s n => s.goLive n) s
  { s with
    svy := { s.svy with applied := false }
    pwr := { s.pwr with domains := s.pwr.domains.map (fun (x : PwrDomain) => { x with held := 0 }) } }

/-- STAGE_5: every stack is trained or retired; the early chamber takes no new items, or, with none, the full survey's chambers
are applied. A shutdown lets no stage 5 follow (R649, R657 step 1, R672). -/
def execStage5 (s : State) : Result :=
  .next (if s.booting = false ∨ (s.fget PWR_STATUS_STAGE ≠ 3 ∧ s.fget PWR_STATUS_STAGE ≠ 4) ∨ s.nextStack.isSome = true ∨
      s.pwr.shutdownAt.isSome = true then s else
    let s := s.toStage 5
    if s.fget PWR_STATUS_EARLY = 1 then { s with pwr := { s.pwr with handoverAt := some s.now } } else s.fullChambers)

/-- EARLY_HANDOVER: the next step of the handover that can be made. With its items ended, or after HANDOVER_MS, the early chamber
is torn down; once drained it is zeroised; once zeroised the full survey's chambers are applied (R657 steps 2 to 4). -/
def execEarlyHandover (s : State) : Result :=
  .next (match s.pwr.handoverAt, s.earlyBody with
    | some t, some (b, _) =>
      let n := fieldAt b 0 1
      let st := s.fget CHB_STATE_STATE n
      if s.pwr.halted then s
      else if st = chbLive then
        if s.items.isEmpty = false ∧ s.now < t + 1_000_000 * fieldAt b 0x10 2 then s else s.stopChamber n
      else if st = chbDraining then (if s.drained n then s.zeroBegin n else s)
      else if s.svy.zeroing.isEmpty = false then s
      else
        let s := (s.fset PWR_STATUS_EARLY 0).setChamber n Chamber.none [] [] []
        ({ s with pwr := { s.pwr with handoverAt := none } } : State).fullChambers
    | _, _ => s)

end Sys2Proof.Machine
end

