-- ==== Sys2Proof/Machine/Fetch.lean ====
section
/-! DEFINITION. Instruction fetch and the decode of illegal words (R54, R56), and the end of a rate window (R40 to R44,
R566, R567). -/

namespace Sys2Proof.Machine

/-! ### Illegal words (R55, R56) -/

def aluOpcodes : List Nat :=
  [0x08, 0x09, 0x0A, 0x0B, 0x0C, 0x0D, 0x0E, 0x0F, 0x10, 0x11, 0x12, 0x13]

def compareOpcodes : List Nat := [0x21, 0x22, 0x23, 0x24, 0x25, 0x26]

/-- Opcodes the VXE lists (R239). -/
def vxeOpcodes : List Nat :=
  [0x40, 0x41, 0x42, 0x43, 0x44, 0x45, 0x46, 0x50, 0x51, 0x58, 0x59, 0x60, 0x64, 0x65, 0x66, 0x70]

/-- Whether a scalar word is well formed (R55, R56). Whether S.CALL counts among the branches whose I is 0 is the model's choice:
its I must be 0, and its RA and RB may hold anything (log entry 106). -/
def scalarOk (w : Word64) : Bool :=
  let op := opcodeOf w
  bitsOf w.toNat 45 32 == 0 &&
  (if aluOpcodes.contains op then true
   else if op == 0x14 then rdOf w % 2 == 0 && raOf w % 2 == 0
   else if op == 0x01 || op == 0x02 then !immBit w
   else if op == 0x20 then !immBit w && rdOf w == 0 && raOf w == 0 && rbOf w == 0
   else if compareOpcodes.contains op then !immBit w && rdOf w == 0
   else if op == 0x28 then !immBit w && rdOf w % 2 == 0
   else if op == 0x29 then !immBit w && raOf w % 2 == 0
   else op == 0x2A || op == 0x2F)

/-- What decode makes of a word that no row of its own takes: the code and cause that end the item, or none (R56, R240,
R306, R421). -/
def decodeFault (w : Word64) : Option (Nat × Nat) :=
  let op := opcodeOf w
  if 0x01 ≤ op ∧ op ≤ 0x2F then (if scalarOk w then none else some (cProgram, 1))
  else if 0x40 ≤ op ∧ op ≤ 0x7F then (if vxeOpcodes.contains op then none else some (cFormat, 0))
  else if op = 0xA2 then (if 8 ≤ moAop w then some (cFormat, 0) else none)
  else if op = 0xA3 then (if moOrd w = 0 then some (cFormat, 0) else none)
  else if [0x80, 0x88, 0x89, 0x8A, 0x90, 0x91, 0x92, 0xA0, 0xA1, 0xA4, 0xB0, 0xB1, 0xB2, 0xB3, 0xB4, 0xB8, 0xB9, 0xBA,
           0xBB].contains op then none
  else some (cProgram, 1)

/-! ### The instruction cache (R54) -/

/-- A line put into the instruction cache of 1,024 lines; which line it replaces is open. -/
def State.fillCode (s : State) (c pa : Nat) (bytes : List Byte) : State :=
  let mine := s.ms.icache.filter (fun l => l.core == c)
  let rest := s.ms.icache.filter (fun l => l.core != c)
  let new : CacheLine := { core := c, addr := pa / 64 * 64, bytes := bytes, barred := [] }
  if mine.length < 1024 then { s with ms := { s.ms with icache := new :: s.ms.icache } }
  else
    let (k, s) := s.draw 1024
    { s with ms := { s.ms with icache := new :: (mine.eraseIdx k ++ rest) } }

/-- The word at a virtual address as core `c` fetches it. A program is fetched from local memory: a REMOTE leaf is outside
what the fetch may read (R54). -/
def State.fetchWord (s : State) (c n va : Nat) : Except MFault Word64 × State :=
  match s.translate (reqCore c) n va false false with
  | (.error f, s) => (.error f, s)
  | (.ok ⟨some _, _⟩, s) =>
    let f : MFault := ⟨fPermission, 2, 0⟩
    (.error f, s.recordFault (reqCore c) n va false f)
  | (.ok ⟨none, pa⟩, s) =>
    match s.ms.icache.find? (fun l => l.core == c && l.addr == pa / 64 * 64) with
    | some l => (.ok (BitVec.ofNat 64 (fieldAt l.bytes (pa % 64) 8)), s)
    | none =>
      match s.readLine (pa / 64 * 64) 64 with
      | (.error f, s) => (.error f, s.recordFault (reqCore c) n va false f)
      | (.ok b, s) => (.ok (BitVec.ofNat 64 (fieldAt b (pa % 64) 8)), s.fillCode c pa b)

/-- INSTRUCTION_FETCH: the next word of strand `t` of core `c`; a misaligned PC, a fetch that faults and an illegal word
end the item (R54, R56). -/
def execInstructionFetch (c t : Nat) (s : State) : Result :=
  let x := s.strand c t
  .next (
    if c < 128 ∧ t < 8192 ∧ s.coreRuns c = true ∧ (x.mode = .ready ∨ x.mode = .issuing) ∧ x.ir = none ∧
        x.victim = false then
      if x.pc % 8 ≠ 0 then s.failStrand c t cProgram 1 else
      match s.fetchWord c (s.coreChamber c) x.pc with
      | (.error f, s) => (s.deliver).failMem c t f
      | (.ok w, s) =>
        let s := s.deliver
        match decodeFault w with
        | some (code, cause) => s.failStrand c t code cause
        | none => s.setStrand c t { s.strand c t with ir := some w }
    else s)

/-! ### Rate windows -/

/-- RATE_MHZ and RATIO of `cycles` handshake cycles in 10 µs (R42). -/
def rateMhz (cycles : Nat) : Nat := roundDiv cycles 10
def rateRatio (cycles : Nat) : Nat := roundDiv (cycles * 2048) 24000

/-- The word of PWR_RATE_x (R42). -/
def rateWord (capped : Nat) (cycles : Nat) : Nat :=
  2 ^ 31 + capped * 2 ^ 30 + rateRatio cycles % 2 ^ 12 * 2 ^ 16 + rateMhz cycles % 2 ^ 16

/-- The lowest window since the last read (R43). -/
def State.noteLow (s : State) (valid low : Fld) (mhz i : Nat) : State :=
  let old := s.fget low i
  let m := if s.fget valid i == 1 then min old mhz else mhz
  (s.fset valid 1 i).fset low m i

/-- PWR_RATE_DEV (R44). -/
def State.refreshRateDev (s : State) : State :=
  let live := (List.range 128).filter s.coreLive
  let sum := (live.map (fun c => s.fget PWR_RATE_CORE_RATIO c)).sum
  let valid := !live.isEmpty && live.all (fun c => s.fget PWR_RATE_CORE_VALID c == 1)
  s.wset PWR_RATE_DEV (b2n valid * 2 ^ 31 + (if live.isEmpty then 0 else roundDiv sum live.length) * 2 ^ 16 + live.length)

/-- Whether another chamber shares a pooled stack or port with chamber `n` (R567). -/
def State.sharesWith (s : State) (n : Nat) : Bool :=
  (s.chamber n).kind == 2 && (List.range 16).any (fun m => m != n && (s.chamber m).kind == 2 && s.chLive m &&
    ((s.chamber m).stackMask &&& (s.chamber n).stackMask != 0 || (s.chamber m).shared &&& (s.chamber n).shared != 0))

/-- The items that run on a gallery take the window's RATIO for the part of their run inside it, and a pooled chamber's
item may lose SOLO, since whether another chamber had requests pending is open here (R566, R567). -/
def State.windowItems (s : State) (g ratio : Nat) : State :=
  (s.items.filter (fun i => i.galleryOf == some g)).foldl (fun s i =>
    let pooled := i.solo && s.sharesWith (s.queueChamber i.key.queue)
    let (b, s) := if pooled then s.draw 2 else (1, s)
    s.modItem i.key (fun j => { j with
      ratioSum := j.ratioSum + ratio * (s.now - j.ratioAt), ratioAt := s.now, solo := j.solo && b == 1 })) s

/-- RATE_WINDOW_END: domain `d` (galleries 0 to 15, the uncore 16) counted `cycles` in the window that ends, and its cores
`coreCycles`; its registers are written at once (R40, R42 to R44). -/
def execRateWindowEnd (d cycles : Nat) (coreCycles : List Nat) (s : State) : Result :=
  .next (
    if 16 < d then s
    else if d = 16 then
      (s.wset PWR_RATE_UNC (rateWord 0 cycles)).noteLow PWR_RATE_LOW_UNC_VALID PWR_RATE_LOW_UNC_LOW_MHZ (rateMhz cycles) 0
    else if !s.galleryLive d then
      (s.clearRates d).refreshRateDev
    else
      let s := s.wset PWR_RATE_G (rateWord 0 cycles) d
      let s := s.noteLow PWR_RATE_LOW_G_VALID PWR_RATE_LOW_G_LOW_MHZ (rateMhz cycles) d
      let s := (List.range 8).foldl (fun s k =>
        let c := 8 * d + k
        if s.coreLive c then s.wset PWR_RATE_CORE (rateWord (b2n (s.coreCapped c)) (coreCycles.getD k cycles)) c
        else s) (s.clearRates d)
      (s.refreshRateDev).windowItems d (rateRatio cycles))

end Sys2Proof.Machine
end

