-- ==== Sys2Proof/Machine/Hbc.lean ====
section
/-! DEFINITION. What the stack controllers do by themselves: retraining, refresh, temperature and patrol scrub (R379, R399,
R405 to R409). -/

namespace Sys2Proof.Machine

/-- A stack in service and not asleep. -/
def State.stackAwake (s : State) (st : Nat) : Bool :=
  decide (st < 16) && !s.pwr.held && !s.pwr.dark && s.fget HBC_STATUS_TRAINED st == 1 && s.fget HBC_STATUS_LOW_POWER st == 0

/-! ### Retraining (R405, R406) -/

def State.channel (s : State) (st ch : Nat) : Option HbcChannel :=
  (s.hbc.channels.find? (fun e => e.1 == 16 * st + ch)).map (·.2)

/-- The drift that triggers a step of a channel: half of it where a pseudo-channel is amber (R405, R409, R622). -/
def State.driftLimit (s : State) (st ch : Nat) : Nat :=
  let d := max 1 (s.fget HBC_RETRAIN_CTRL_DRIFT st)
  if s.healthOf (unitPc st (2 * ch)) = 1 ∨ s.healthOf (unitPc st (2 * ch + 1)) = 1 then max 1 (d / 2) else d

/-- Whether a channel's step is due: its margin has drifted so far, or its period has passed; one step in 1 ms (R405). -/
def State.retrainDue (s : State) (st ch drift : Nat) : Bool :=
  match s.channel st ch with
  | none => true
  | some c =>
    let age := s.now - c.stepAt
    decide (1_000_000 ≤ age) &&
      (decide (s.driftLimit st ch ≤ drift) || decide (1000 * max 1000 (s.fget HBC_RETRAIN_CTRL_PERIOD_US st) ≤ age))

/-- HBC_MARGIN: the channel with the smallest margin at its latest step (R409). -/
def State.showMargin (s : State) (st : Nat) : State :=
  let known := (List.range 16).filterMap (fun ch => (s.channel st ch).map (fun c => (ch, c)))
  match argMin (fun e => min e.2.read e.2.write) known with
  | none => s
  | some (ch, c) =>
    ((s.fset HBC_MARGIN_CHANNEL ch st).fset HBC_MARGIN_READ c.read st).fset HBC_MARGIN_WRITE c.write st

/-- The outcome of a channel's retraining step, in its controller and in the health history (R405, R406). -/
def State.stepped (s : State) (k : Nat) (c : HbcChannel) : State :=
  { s with
    hbc := { s.hbc with channels := (k, c) :: s.hbc.channels.filter (fun e => e.1 != k) }
    hlm := { s.hlm with steps := (k, c) :: s.hlm.steps.filter (fun e => e.1 != k) } }

/-- HBC_RETRAIN: a channel whose margin drifted by `drift`, or whose period passed, takes a retraining step that leaves margins
`read` and `write` after a pause of `pause` ns; with either below 1/16 UI the step fails and is an event against both its
pseudo-channels (R405 to R407). The event has no line: HBC_ERR_ADDR is a free value, and so are the counts of the stack's own error
check and scrub, which the step reads (R379; log entry 132). -/
def execHbcRetrain (st ch drift read write pause : Nat) (s : State) : Result :=
  .next (if s.stackAwake st = false ∨ 16 ≤ ch ∨ s.retrainDue st ch drift = false then s else
    let (ecs, s) := s.draw (2 ^ 32)
    let c : HbcChannel := { stepAt := s.now, read := min 255 read, write := min 255 write, scrubbed := ecs }
    let s := (s.stepped (16 * st + ch) c).bump HBC_RETRAIN_COUNT 1 st
    let s := (s.fset HBC_PAUSE_MAX_NS (max (s.fget HBC_PAUSE_MAX_NS st) (saturate 0x7FF pause)) st).showMargin st
    if 16 ≤ c.read ∧ 16 ≤ c.write then s else
    let (line, s) := s.draw (2 ^ 29)
    let s := (s.bump HBC_RETRAIN_FAIL_COUNT 1 st).errorAt st (2 * ch) line 4
    (s.report (unitPc st (2 * ch)) kRetrain).report (unitPc st (2 * ch + 1)) kRetrain)

/-! ### Refresh and temperature (R379) -/

/-- REFRESH: per-bank refresh of a channel; the cells keep what they hold, and no register shows it (R379). -/
def execRefresh (_st _ch : Nat) (s : State) : Result := .next s

/-- TEMPERATURE_READOUT: every 100 µs a stack's temperature is read; above 85 °C refresh runs at double rate, and at 105 °C the
device trips (R379, R409, R667). -/
def execTemperatureReadout (st temp : Nat) (s : State) : Result :=
  .next (if 16 ≤ st ∨ s.elapsed (120 + st) 100_000 = false then s else
    let t := saturate 255 temp
    let s := ((s.mark (120 + st)).fset HBC_STATUS_TEMP_C t st).fset HBC_STATUS_HOT (b2n (85 < t)) st
    let hot := (List.range 16).foldl (fun m k => max m (s.fget HBC_STATUS_TEMP_C k)) 0
    let s := s.fset PWR_THERM_STACK_HOT_C hot
    if 105 ≤ t ∧ s.pwr.held = false then s.tripNow 2 else s)

/-! ### Patrol scrub (R399, R407, R622) -/

/-- The chamber that holds the line at a raw stack offset, and its chamber physical address: R385 read backward. -/
def State.chamberLine (s : State) (st off : Nat) : Option (Nat × Nat) :=
  let p := off / 256 % 32
  let o := off / 8192 * 256 + off % 256
  (List.range 16).findSome? fun n =>
    let c := s.chamber n
    let lo := c.first.getD st 0 * 2 ^ 25
    if c.kind == 0 || !bitOf c.stackMask st || decide (o < lo) || decide (lo + c.perStack * 2 ^ 25 ≤ o) then none else
    (c.pcs.findIdx? (· == (p, st))).map fun j => (n, ((o - lo) / 256 * c.pcs.length + j) * 256 + o % 256)

/-- One line of a stack read by patrol scrub, unless its pseudo-channel is umber or its granule is being zeroised; a corrected line
is rewritten (R399, R407, R629). -/
def State.scrubLine (s : State) (st off : Nat) (ev : CellEvent) : State :=
  if s.healthOf (unitPc st (off / 256 % 32)) == umber then s else
  let home := s.chamberLine st off
  let zeroised := match home with
    | some (n, _) => s.svy.zeroing.contains (n, some st)
    | none => false
  if zeroised then s else
  let pa := match home with
    | some (n, a) => hbmBase n + a
    | none => rawBase st + off
  let s := s.bump64 HBC_RD_LO_COUNT HBC_RD_HI_COUNT 1 st
  let s := if ev == .corrected then s.bump64 HBC_WR_LO_COUNT HBC_WR_HI_COUNT 1 st else s
  s.cellEvent pa ev

/-- The time from one line of a stack's pass to the next, in ns (R399, R409). -/
def State.scrubStep (s : State) (st : Nat) : Nat :=
  let h := s.fget HBC_SCRUB_PERIOD_H st
  (if h = 0 then 24 else h) * oneHour / (s.granules * 2 ^ 24)

/-- Where a pass stands, and its step past the line: key `st` for a stack's own pass, 16 + unit for an amber pseudo-channel's. -/
def State.nextLine (s : State) (k lines : Nat) : Nat × State :=
  let i := smGet (fun _ => 0) s.hbc.patrol k
  (i, { s with hbc := { s.hbc with patrol := smPut (fun _ => 0) s.hbc.patrol k ((i + 1) % lines) } })

/-- PATROL_SCRUB: the next line of a stack's pass, or, between its lines, the next line of an amber pseudo-channel's hourly pass, is
read; `ev` is what its cells show (R399, R407, R622). -/
def execPatrolScrub (st : Nat) (ev : CellEvent) (s : State) : Result :=
  .next (if s.stackAwake st = false ∨ s.pwr.halted = true ∨ s.fget HBC_SCRUB_ENABLE st = 0 then s else
    if s.elapsed (140 + st) (s.scrubStep st) then
      let (i, s) := (s.mark (140 + st)).nextLine st (s.granules * 2 ^ 24)
      s.scrubLine st (64 * i) ev
    else
      let due := (List.range 32).find? (fun p =>
        s.healthOf (unitPc st p) == 1 && s.elapsed (160 + 32 * st + p) (oneHour / (s.granules * 2 ^ 19)))
      match due with
      | none => s
      | some p =>
        let (i, s) := (s.mark (160 + 32 * st + p)).nextLine (16 + 32 * st + p) (s.granules * 2 ^ 19)
        s.scrubLine st (i / 4 * 8192 + p * 256 + i % 4 * 64) ev)

end Sys2Proof.Machine
end

