-- ==== Sys2Proof/Machine/Package.lean ====
section
/-! DEFINITION. Board management over I3C, and the test access port (R702 to R705). -/

namespace Sys2Proof.Machine

/-! ### The I3C target (R702, R703) -/

/-- The target answers: from 20 ms after VAUX came within tolerance, whatever the other rails (R702). -/
def State.i3cAnswers (s : State) : Bool :=
  match s.i3c.vauxAt with
  | some t => t + 20_000_000 ≤ s.now
  | none => false

/-- The target is addressed: by its dynamic address, or, while it has none, by its static one. -/
def State.i3cAddressed (s : State) (addr : Nat) : Bool := s.i3cAnswers && addr == s.i3c.dynamic.getD 0x5A

/-- A direct command code reaches the target by its dynamic address. -/
def State.i3cDirect (s : State) (addr : Nat) : Bool := s.i3cAnswers && s.i3c.dynamic == some addr

/-- VAUX_WITHIN_TOLERANCE: VAUX comes up; the target starts anew, with no address and no interrupts, and answers 20 ms later
(R702, R703). -/
def execVauxWithinTolerance (s : State) : Result :=
  .next { s with i3c := { s.i3c with
    dynamic := none, pointer := 0, ibi := false, waiting := [], latch := none, vauxAt := some s.now } }

/-- Bytes 0x00 to 0x0F of the layout (R702). -/
def State.boardHead (s : State) : List Byte :=
  leBytes 4 0x4D42_5841 ++ leBytes 1 s.boardStage ++ leBytes 1 s.boardFaults ++ leBytes 1 (s.fget PWR_THERM_HOT_C) ++
  leBytes 1 (s.fget PWR_THERM_STACK_HOT_C) ++ leBytes 2 (s.fget PWR_PKG_NOW_W) ++ leBytes 2 (s.fget PWR_CTRL_CAP_W) ++
  leBytes 1 (16 * s.fget PWR_BOOT_RESET_KIND + s.fget PWR_BOOT_LAST_TRIP) ++
  leBytes 1 ((List.range 16).filter (fun d => (s.domain d).mute)).length ++ leBytes 2 0

/-- The byte at offset `p`; 0 from 0x90 on (R702, R703). -/
def State.boardByte (s : State) (p : Nat) : Byte :=
  if p < 0x10 then s.boardHead.getD p 0#8 else if p < 0x90 then s.identity.getD (p - 0x10) 0#8 else 0#8

/-- The multi-byte fields: first offset and length (R481, R702). -/
def boardFields : List (Nat × Nat) :=
  [(0x00, 4), (0x08, 2), (0x0A, 2), (0x10, 4), (0x14, 2), (0x16, 2), (0x18, 16), (0x28, 8), (0x30, 48)]

/-- One byte read at the pointer, which goes on by one and wraps; a field is latched as its first byte is read (R703). -/
def State.boardRead (s : State) : Byte × State :=
  let p := s.i3c.pointer
  let latch := match boardFields.find? (fun f => f.1 == p) with
    | some (o, n) => some (o, (List.range n).map (fun k => s.boardByte (o + k)))
    | none => s.i3c.latch
  let b := match latch with
    | some (o, bs) => if o ≤ p ∧ p < o + bs.length then bs.getD (p - o) 0#8 else s.boardByte p
    | none => s.boardByte p
  (b, { s with i3c := { s.i3c with pointer := (p + 1) % 256, latch := latch } })

/-- `n` bytes read from the pointer upward. -/
def State.boardReads (s : State) : Nat → List Byte × State
  | 0 => ([], s)
  | n + 1 =>
    let (b, s1) := s.boardRead
    let (bs, s2) := s1.boardReads n
    (b :: bs, s2)

/-- I3C_WRITE: the first byte sets the register pointer, and every other byte is ignored (R702). -/
def execI3cWrite (addr : Nat) (bytes : List Byte) (s : State) : Result :=
  .next (match bytes with
    | [] => s
    | b :: _ => if s.i3cAddressed addr then { s with i3c := { s.i3c with pointer := b.toNat, latch := none } } else s)

/-- I3C_READ: `n` bytes from the pointer upward (R702, R703). -/
def execI3cRead (addr n : Nat) (s : State) : Result :=
  .next (if s.i3cAddressed addr = false then s else
    let (bs, s) := s.boardReads n
    s.emit (.i3c bs))

/-- The provisioned ID (R703). -/
def State.provisionedId (s : State) : Nat :=
  0x05B3 * 2 ^ 33 + fieldAt s.identity 6 2 * 2 ^ 16 + fieldAt s.identity 8 2

def i3cBcr : Nat := 0x06
def i3cDcr : Nat := 0x00

/-- The provisioned ID as sent, most significant byte first. -/
def State.pidBytes (s : State) : List Byte := (leBytes 6 s.provisionedId).reverse

/-- ENTDAA: with no dynamic address yet, the target presents its provisioned ID, BCR and DCR, and takes `addr` (R703). -/
def execEntdaa (addr : Nat) (s : State) : Result :=
  .next (if s.i3cAnswers = false ∨ s.i3c.dynamic.isSome = true then s else
    let s := s.emit (.i3c (s.pidBytes ++ leBytes 1 i3cBcr ++ leBytes 1 i3cDcr))
    { s with i3c := { s.i3c with dynamic := some addr } })

/-- SETDASA: the target at static address 0x5A, with no dynamic address yet, takes `addr` (R702, R703). -/
def execSetdasa (static addr : Nat) (s : State) : Result :=
  .next (if s.i3cAnswers = false ∨ static ≠ 0x5A ∨ s.i3c.dynamic.isSome = true then s else
    { s with i3c := { s.i3c with dynamic := some addr } })

/-- RSTDAA: the target gives up its dynamic address (R703). -/
def execRstdaa (s : State) : Result :=
  .next (if s.i3cAnswers then { s with i3c := { s.i3c with dynamic := none } } else s)

/-- GETPID (R703). -/
def execGetpid (addr : Nat) (s : State) : Result := .next (if s.i3cDirect addr then s.emit (.i3c s.pidBytes) else s)

/-- GETBCR (R703). -/
def execGetbcr (addr : Nat) (s : State) : Result := .next (if s.i3cDirect addr then s.emit (.i3c (leBytes 1 i3cBcr)) else s)

/-- GETDCR (R703). -/
def execGetdcr (addr : Nat) (s : State) : Result := .next (if s.i3cDirect addr then s.emit (.i3c (leBytes 1 i3cDcr)) else s)

/-- GETSTATUS: two bytes, most significant first; the pending-interrupt field, bits [3:0], is 1 while an interrupt waits (R703). -/
def execGetstatus (addr : Nat) (s : State) : Result :=
  .next (if s.i3cDirect addr then s.emit (.i3c [0#8, BitVec.ofNat 8 (b2n (!s.i3c.waiting.isEmpty))]) else s)

/-- A command code reaches the target: broadcast, or by its dynamic address. -/
def State.i3cReached (s : State) (target : Option Nat) : Bool :=
  s.i3cAnswers && (match target with | none => true | some addr => s.i3c.dynamic == some addr)

/-- ENEC: bit 0 of the event byte enables in-band interrupts (R703). -/
def execEnec (target : Option Nat) (events : Nat) (s : State) : Result :=
  .next (if s.i3cReached target && bitOf events 0 then { s with i3c := { s.i3c with ibi := true } } else s)

/-- DISEC: bit 0 of the event byte disables in-band interrupts; one that waits is not sent (R703). -/
def execDisec (target : Option Nat) (events : Nat) (s : State) : Result :=
  .next (if s.i3cReached target && bitOf events 0 then { s with i3c := { s.i3c with ibi := false, waiting := [] } } else s)

/-! ### The test access port (R704, R705) -/

/-- The identification code (R704). -/
def idCode : Nat := 0x1A16_29C3

/-- Bits of a number, least significant first. -/
def bitsLsb (n x : Nat) : List Bool := (List.range n).map (bitOf x)

/-- The levels of the lands that the device drives: its own, or, while EXTEST or CLAMP is in effect, the boundary register's; with
HIGHZ they float high (R699, R705). -/
def State.outputLands (s : State) : List Bool :=
  match s.tap.hold, s.tap.ir with
  | true, .extest => (List.range 3).map (fun k => s.tap.boundary.getD (3 + k) true)
  | true, .clamp => (List.range 3).map (fun k => s.tap.boundary.getD (3 + k) true)
  | true, .highz => [true, true, true]
  | _, _ => [s.pins.offReadyN, s.pins.faultN, s.pins.thermtripN]

/-- What the boundary register captures: PWR_GOOD, RESET_N and OFF_REQ_N, the three outputs, then the sixteen lands whose levels
the model does not hold, as free values: PMB0 to PMB3, I3C, ID_STRAP and REFCLK (R699, R704; log entry 17). -/
def State.captureLands (s : State) : List Bool × State :=
  let (x, t) := s.draw (2 ^ 16)
  ([s.pins.pwrGood, s.pins.resetN, s.pins.offReqN] ++ s.outputLands ++ bitsLsb 16 x, t)

/-- A scan of a data register: what it captured shifts out before what is shifted in (IEEE 1149.1). Answers what stays in it. -/
def State.scanOut (s : State) (captured tdi : List Bool) : List Bool × State :=
  let all := captured ++ tdi
  (all.drop tdi.length, s.emit (.tdo (all.take tdi.length)))

/-- The instruction register loaded. -/
def State.loadIr (s : State) (ir : TapIr) : State := { s with tap := { s.tap with ir := ir } }

/-- EXTEST, CLAMP and HIGHZ take effect only while PWR_GOOD or RESET_N is low, and then hold the device in reset; else they act as
BYPASS (R705). -/
def State.loadBoundaryIr (s : State) (ir : TapIr) : State :=
  if s.pins.pwrGood && s.pins.resetN then s.loadIr .bypass else { s with tap := { s.tap with ir := ir, hold := true } }

/-- BYPASS: one bit between TDI and TDO, captured as 0 (R704). -/
def execBypass (tdi : List Bool) (s : State) : Result := .next ((s.loadIr .bypass).scanOut [false] tdi).2

/-- IDCODE: the identification code shifts out (R704). -/
def execIdcode (tdi : List Bool) (s : State) : Result := .next ((s.loadIr .idcode).scanOut (bitsLsb 32 idCode) tdi).2

/-- The boundary register captured, scanned and updated (R704). -/
def State.boundaryScan (s : State) (tdi : List Bool) : State :=
  let (cap, s) := s.captureLands
  let (left, s) := s.scanOut cap tdi
  { s with tap := { s.tap with boundary := left } }

/-- SAMPLE_PRELOAD: the lands are sampled and the boundary register is loaded; the device runs on (R704). -/
def execSamplePreload (tdi : List Bool) (s : State) : Result := .next ((s.loadIr .samplePreload).boundaryScan tdi)

/-- EXTEST: in effect, the outputs follow the boundary register, which is scanned; else as BYPASS (R704, R705). -/
def execExtest (tdi : List Bool) (s : State) : Result :=
  .next (
    let s := s.loadBoundaryIr .extest
    if s.tap.ir = .extest then s.boundaryScan tdi else (s.scanOut [false] tdi).2)

/-- CLAMP: in effect, the outputs stay as the boundary register has them; the bypass bit is scanned (R704, R705). -/
def execClamp (tdi : List Bool) (s : State) : Result := .next ((s.loadBoundaryIr .clamp).scanOut [false] tdi).2

/-- HIGHZ: in effect, the outputs float; the bypass bit is scanned (R704, R705). -/
def execHighz (tdi : List Bool) (s : State) : Result := .next ((s.loadBoundaryIr .highz).scanOut [false] tdi).2

/-- TEST_LOGIC_RESET: the port is reset to IDCODE, and a device held by a boundary instruction may leave reset (R705). -/
def execTestLogicReset (s : State) : Result :=
  .next (({ s with tap := { s.tap with ir := .idcode, hold := false } } : State).leaveReset)

end Sys2Proof.Machine
end

