-- ==== Sys2Proof/Machine/Power.lean ====
section
/-! DEFINITION. The voltage margin loop, the power loop, the thermal limits, and the regulators' telemetry (R646, R660 to R668,
R701). What sensors and canaries measure comes with each command. -/

namespace Sys2Proof.Machine

/-- The device is out of reset, clocked, and not stopped. -/
def State.powered (s : State) : Bool := !s.pwr.held && !s.pwr.halted && !s.pwr.dark

/-! ### The voltage margin loop (R660 to R663) -/

/-- The slack floor and the emergency level as they act, in 1/256 (R674). -/
def State.slackFloor (s : State) : Nat := s.fget PWR_MARGIN_FLOOR
def State.slackEmergency (s : State) : Nat := min (s.fget PWR_MARGIN_EMERGENCY) (s.slackFloor - 1)

/-- The change of the target for a worst slack, in 0.1 mV (R660). -/
def State.marginMove (s : State) (w : Nat) : Int :=
  if w < s.slackFloor then 50 else if w < s.slackFloor + s.fget PWR_MARGIN_HYST then 0 else -25

/-- PWR_DOMd_SLACK.LEARNED_MV and STRETCH (R661, R662, R674). -/
def State.showSlack (s : State) (d : Nat) : State :=
  let x := s.domain d
  let mv := max (-128) (min 127 ((s.learned d + 5) / 10))
  (s.fset PWR_DOM_SLACK_LEARNED_MV (ofSigned 8 mv) d).fset PWR_DOM_SLACK_STRETCH (b2n (x.emergency || x.guard)) d

/-- The margin loops move freely: stage 5, with the early handover past (R656, R657). -/
def State.marginFree (s : State) : Bool := s.fget PWR_STATUS_STAGE == 5 && s.pwr.handoverAt.isNone

/-- A CANARY event: against the gallery, or for the uncore against none; none is judged while the margin table's check fails
(R619, R620, R659, R662). -/
def State.reportCanary (s : State) (d : Nat) : State :=
  if !marginOk s.pwr.margin then s
  else if d < 16 then s.report (unitGallery d) kCanary
  else
    let recent := s.hlm.reports.any (fun e => e.1 == (0x3FF, kCanary) && decide (s.now < e.2 + oneSecond))
    let s : State := { s with hlm := { s.hlm with
      reports := ((0x3FF, kCanary), s.now) :: s.hlm.reports.filter (fun e => e.1 != (0x3FF, kCanary)) } }
    if recent then s else
    ((s.bump HLM_EVENTS_COUNT).fset HLM_EVT_LAST_KIND kCanary).fset HLM_EVT_LAST_UNIT 0x3FF

/-- CALIBRATED once every live domain has held its slack floor for ten steps (R657). -/
def State.refreshCalibrated (s : State) : State :=
  if s.marginFree && (List.range 17).all (fun d => (d < 16 && !s.galleryLive d) || 10 ≤ (s.domain d).held) then
    s.fset PWR_STATUS_CALIBRATED 1
  else s

/-- MARGIN_LOOP_STEP: domain `d`'s loop acts on the worst slack of its window and the canary that gave it, or holds where its
canaries saw no operation; before stage 5 it only raises; a slate window is held without action (R656, R657, R660 to
R663). -/
def execMarginLoopStep (d : Nat) (slack : Option (Nat × Nat)) (s : State) : Result :=
  .next (if s.powered = false ∨ 16 < d ∨ s.fget PWR_STATUS_STAGE < 2 ∨ s.elapsed (1 + d) 100_000 = false then s else
    let s := s.mark (1 + d)
    if s.slateRuns d then s else
    let x := s.domain d
    match slack with
    | none => ((s.setDomain d { x with held := x.held + 1 }).showSlack d).refreshCalibrated
    | some (w, canary) =>
      let w := min 255 w
      let good := s.slackFloor ≤ w
      let move := if s.marginFree then s.marginMove w else max 0 (s.marginMove w)
      let starved := if !good && x.target == 8500 then x.starved + 1 else 0
      let s := (s.fset PWR_DOM_SLACK_WORST w d).fset PWR_DOM_SLACK_CANARY canary d
      let s := s.setDomain d { x with
        target := limitTarget (x.target + move), held := if good then x.held + 1 else 0, starved := starved,
        emergency := x.emergency && !good }
      let s := ((s.refreshDomain d).showSlack d).refreshCalibrated
      if 400 < s.learned d ∨ 10 ≤ starved then s.reportCanary d else s)

/-- CANARY_EMERGENCY: a canary of domain `d` below EMERGENCY inserts delay, counts, and raises the target 10 mV at once (R661,
R663, R672). -/
def execCanaryEmergency (d slack : Nat) (s : State) : Result :=
  .next (if s.powered = false ∨ 16 < d ∨ s.fget PWR_STATUS_STAGE < 2 ∨ s.slackEmergency ≤ slack then s else
    let x := s.domain d
    let target := if s.slateRuns d then x.target else limitTarget (x.target + 100)
    let s := (s.bump PWR_DOM_SLACK_EMERG 1 d).setDomain d { x with emergency := true, target := target }
    (s.refreshDomain d).showSlack d)

/-! ### The power loop (R664 to R666) -/

/-- The package cap as it acts, in W (R674). -/
def State.capW (s : State) : Nat := min 1800 (max 600 (s.fget PWR_CTRL_CAP_W))

/-- A chamber's draw in one window, in mW: its domains, HBM at 28 pJ and links at 40 pJ for each byte, and its part of the uncore
(R664). -/
def State.drawOf (s : State) (n : Nat) (doms : List Nat) (bytes : Nat × Nat) : Nat :=
  let gs := s.galleriesOf n
  (gs.map (fun g => doms.getD g 0)).sum + bytes.1 * 28 / 10_000 + bytes.2 * 40 / 10_000 + doms.getD 16 0 * gs.length / 16

/-- Energy and the stress of each domain over a window of 10 µs (R638, R674). -/
def State.addEnergy (s : State) (pkg : Nat) : State :=
  let e := s.pwr.energy + pkg
  let s : State := { s with pwr := { s.pwr with energy := e } }
  let s := s.pairSet PWR_ENERGY_LO_MJ PWR_ENERGY_HI_MJ (e / 100_000)
  let add := fun (k v : Nat) (l : List (Nat × Nat)) => smPut (fun _ => 0) l k (smGet (fun _ => 0) l k + v)
  let life := (List.range 17).foldl (fun l d => add (if d < 16 then 0x11 + d else 0x10) (s.commanded d) l)
    (add 2 pkg s.hlm.life)
  { s with hlm := { s.hlm with life := life } }

/-- Every gallery domain with or without the inserted delay of the package guard (R666). -/
def State.setGuard (s : State) (on : Bool) : State :=
  let s := (List.range 16).foldl (fun s d => (s.setDomain d { s.domain d with guard := on }).showSlack d) s
  let s := s.fset PWR_STATUS_PKG_LIMITED (b2n on)
  { s with pwr := { s.pwr with guardAt := if on then some s.now else none } }

/-- POWER_WINDOW: a 10 µs window measures each domain (`doms`, in mW, the uncore last), each chamber's HBM and link bytes, and the
package (`pkg`, in mW); a package above CAP_W starts the guard (R664, R666). Watts are rounded up. -/
def execPowerWindow (doms : List Nat) (bytes : List (Nat × Nat)) (pkg : Nat) (s : State) : Result :=
  .next (if s.powered = false ∨ s.fget PWR_STATUS_STAGE < 2 ∨ s.elapsed 0 10_000 = false then s else
    let s := s.mark 0
    let s := (List.range 17).foldl (fun s d => s.fset PWR_DOM_TEMP_POWER_W (saturate 0xFFFF (ceilDiv (doms.getD d 0) 1000)) d) s
    let s := (List.range 16).foldl (fun s n =>
      if (s.chamber n).kind == 0 then s else
      let draw := s.drawOf n doms (bytes.getD n (0, 0))
      let s := s.fset PWR_CH_POWER_DRAW_W (saturate 0xFFFF (ceilDiv draw 1000)) n
      let old := smGet (fun _ => []) s.pwr.draws n
      { s with pwr := { s.pwr with draws := smPut (fun _ => []) s.pwr.draws n ((draw :: old).take 10) } }) s
    let w := saturate 0xFFFF (ceilDiv pkg 1000)
    let s := (s.fset PWR_PKG_NOW_W w).fset PWR_PKG_MAX_W (max w (s.fget PWR_PKG_MAX_W))
    let s := s.addEnergy pkg
    if s.capW < w ∧ s.pwr.guardAt.isNone = true then s.setGuard true else s)

/-- PKG_GUARD_END: the package is under CAP_W again, or 500 µs have passed, and the guard's delay ends (R666). -/
def execPkgGuardEnd (s : State) : Result :=
  .next (match s.pwr.guardAt with
    | none => s
    | some t => if s.fget PWR_PKG_NOW_W ≤ s.capW ∨ t + 500_000 ≤ s.now then s.setGuard false else s)

/-- A chamber's budget in mW: POWER_W, scaled where CAP_W is below the sum of the chambers' budgets (R666). -/
def State.budget (s : State) (n : Nat) : Nat :=
  let sum := ((s.chambers.filter (fun c => c.kind != 0)).map (·.powerW)).sum
  let w := 1000 * (s.chamber n).powerW
  if s.capW < sum then w * s.capW / sum else w

/-- A domain's rate target moved by the power loop, to no more than the ceiling (R665). -/
def State.moveRate (s : State) (n g khz : Nat) (lowered : Bool) : State :=
  let top := s.rateCeiling n
  let rate := min top khz
  let x := s.domain g
  (s.setDomain g { x with capped := lowered || (x.capped && decide (rate < top)) }).setRate g rate

/-- POWER_LOOP_STEP: every 100 µs a chamber's draw over the last ten windows is held against its budget: each gallery domain goes
down 1 %, or, with 3 % to spare and no throttling, up 0.5 % (R665). -/
def execPowerLoopStep (n : Nat) (s : State) : Result :=
  .next (if s.powered = false ∨ s.chLive n = false ∨ s.elapsed (20 + n) 100_000 = false then s else
    let s := s.mark (20 + n)
    let draws := smGet (fun _ => []) s.pwr.draws n
    if draws.isEmpty then s else
    let budget := s.budget n * draws.length
    let s := (s.galleriesOf n).foldl (fun s g =>
      let x := s.domain g
      if budget < draws.sum then s.moveRate n g (x.rate * 99 / 100) true
      else if 100 * draws.sum ≤ 97 * budget ∧ x.throttled = false then s.moveRate n g (x.rate * 1005 / 1000) false
      else if s.rateCeiling n < x.rate then s.moveRate n g x.rate false
      else s) s
    s.refreshChamberPower n)

/-- What a domain's change shows of its chamber. -/
def State.refreshDomainChamber (s : State) (d : Nat) : State :=
  match (if d < 16 then s.chamberOf d else none) with
  | some n => s.refreshChamberPower n
  | none => s

/-- REGULATOR_SETTLED: the regulator has settled after a rise of the voltage, and the rate is raised (R663). -/
def execRegulatorSettled (d : Nat) (s : State) : Result :=
  .next (match (s.domain d).rise with
    | none => s
    | some khz =>
      if s.powered = false then s else
      (s.setDomain d { s.domain d with rate := khz, rise := none }).refreshDomainChamber d)

/-! ### Thermal limits (R667, R668) -/

/-- The throttling temperature as it acts (R674). -/
def State.throttleC (s : State) : Nat := min 105 (max 85 (s.fget PWR_THERM_THROTTLE_C))

/-- The lifetime counter THERMAL_CYCLES (R638). -/
def State.noteHeat (s : State) (hot : Nat) : State :=
  let h := s.hlm
  let low := min h.coolest hot
  let top := if low + 40 ≤ hot ∨ h.hottest ≠ 0 then max h.hottest hot else 0
  if top ≠ 0 ∧ hot + 40 ≤ top then
    { s with hlm := { h with
      coolest := hot, hottest := 0, life := smPut (fun _ => 0) h.life 1 (smGet (fun _ => 0) h.life 1 + 1) } }
  else { s with hlm := { h with coolest := low, hottest := top } }

/-- A pooled chamber's domain lowered 2 % each 100 µs from above THROTTLE_C until 2 °C below it; a sealed chamber's lock is held
(R667). -/
def State.throttle (s : State) (d : Nat) : State :=
  let x := s.domain d
  let t := s.domainTemp d
  let pooled := match s.chamberOf d with
    | some n => (s.chamber n).kind == 2
    | none => false
  let on := pooled && (s.throttleC < t || (x.throttled && decide (s.throttleC < t + 2)))
  let s := s.setDomain d { x with throttled := on, capped := x.capped || on }
  if on && s.elapsed (41 + d) 100_000 then (s.mark (41 + d)).setRate d (x.rate * 98 / 100) else s

/-- A supply condition that has lasted 1 ms trips the device: timers 80 to 96 hold since when a rail has been 50 mV below its
target, timers 100 to 116 since when its STATUS_WORD has reported a fault (R646, R667). -/
def State.supplyTrip (s : State) : State :=
  if s.pwr.timers.any (fun e => 80 ≤ e.1 && e.1 < 117 && e.2 + 1_000_000 ≤ s.now) then s.tripNow 3 else s

/-- THERMAL_READ: every 10 µs the junction sensors are read; `temps` gives the hottest of each domain, in °C. The sensors answer
whatever the device does; the limits act while it runs (R667, R668, R702). -/
def execThermalRead (temps : List Nat) (s : State) : Result :=
  .next (if s.elapsed 40 10_000 = false then s else
    let s := s.mark 40
    let temp := fun d => saturate 255 (temps.getD d 0)
    let s := (List.range 17).foldl (fun s d => s.fset PWR_DOM_TEMP_TEMP_C (temp d) d) s
    let hottest := (argMax temp (List.range 17)).getD 0
    let s := ((s.fset PWR_THERM_HOT_C (temp hottest)).fset PWR_THERM_HOT_DOMAIN hottest).noteHeat (temp hottest)
    if s.powered = false then s else
    let s := (List.range 16).foldl (fun s d => s.throttle d) s
    let s := ((List.range 16).filter (fun n => (s.chamber n).kind != 0)).foldl (fun s n => s.refreshChamberPower n) s
    if 115 ≤ temp hottest then s.tripNow 1 else s.supplyTrip)

/-! ### The regulators (R646, R701) -/

/-- A regulator that acknowledges nothing: its gallery takes no work, or, for the uncore, the device fails (R701). -/
def State.muteDomain (s : State) (d : Nat) : State :=
  let s := s.setDomain d { s.domain d with mute := true }
  if d < 16 then s else s.deviceFails 1

/-- PMBUS_POLL: every 10 ms the device reads a regulator's voltage, current, temperature and status: whether it acknowledged within
its three retries, the ULINEAR16 voltage, and whether STATUS_WORD reports a VOUT, IOUT or power-good fault (R646, R667,
R701). -/
def execPmbusPoll (d : Nat) (acked : Bool) (vout : Nat) (fault : Bool) (s : State) : Result :=
  .next (if s.powered = false ∨ 16 < d ∨ s.fget PWR_STATUS_STAGE < 2 ∨ (s.domain d).mute = true ∨
      s.elapsed (60 + d) 10_000_000 = false then s else
    let s := [0x8B, 0x8C, 0x8D, 0x79].foldl (fun s c => s.emit (.pmbus d c 0)) (s.mark (60 + d))
    if !acked then s.muteDomain d else
    let tenths := vout * 10_000 / 2 ^ (s.domain d).vexp
    let s := s.fset PWR_DOM_V_MEASURED_MV (saturate 0xFFFF (roundDiv tenths 10)) d
    let s := (s.lasting (80 + d) (tenths + 500 ≤ s.commanded d)).2
    ((s.lasting (100 + d) fault).2).supplyTrip)

/-- The domains whose regulators lie on a PMBus segment (R701). -/
def segmentDomains (seg : Nat) : List Nat := (if seg = 0 then [16] else []) ++ (List.range 4).map (4 * seg + ·)

/-- PMBUS_ALERT: PMBn_ALERT_N falls and STATUS_WORD of each regulator of the segment is read at once; `faults` are the domains
that report a VOUT, IOUT or power-good fault (R646, R667). -/
def execPmbusAlert (seg : Nat) (faults : List Nat) (s : State) : Result :=
  .next (if s.powered = false ∨ 4 ≤ seg ∨ s.fget PWR_STATUS_STAGE < 2 then s else
    let s := (segmentDomains seg).foldl (fun s d =>
      ((s.emit (.pmbus d 0x79 0)).lasting (100 + d) (faults.contains d)).2) s
    s.supplyTrip)

end Sys2Proof.Machine
end

