-- ==== Sys2Proof/Machine/Operands.lean ====
section
/-! DEFINITION. The operand forms of the scalar instructions: registers, register pairs, the second source and branch
offsets, and the registers each form names (R55). -/

namespace Sys2Proof.Machine

/-- The second source: RB when I is 0 and IMM when I is 1 (R55). -/
def src2 (w : Word64) (x : Strand) : Word := if immBit w then BitVec.ofNat 32 (immOf w) else x.reg (rbOf w)

/-- The register of the second source, if one is named. -/
def src2Mask (w : Word64) : Nat := if immBit w then 0 else regMask (rbOf w)

/-- IMM as a signed number (S.ADDP, branch offsets, S.JMP; R55). -/
def immSigned (w : Word64) : Int := toSigned 32 (immOf w)

/-- A 57-bit address moved by a signed distance (R55). -/
def addr57 (a : Nat) (d : Int) : Nat := (((a : Int) + d) % (2 ^ 57 : Nat)).toNat

/-- Registers named by the two-source form. -/
def aluMask (w : Word64) : Nat := regMask (rdOf w) ||| regMask (raOf w) ||| src2Mask w

/-- Registers named by the compare branches. -/
def branchMask (w : Word64) : Nat := regMask (raOf w) ||| regMask (rbOf w)

end Sys2Proof.Machine
end

