-- ==== Sys2Proof/Machine/Scalar.lean ====
section
/-! DEFINITION. The scalar instructions (R55). Malformed words never reach them: the fetch has ended the item (R56). -/

namespace Sys2Proof.Machine

/-- The form RD := f(RA, src2): the strand waits while a register it names awaits a value, then writes RD and goes on to
the next word (R55). -/
def State.scalar (s : State) (c t op : Nat) (mask : Word64 → Nat) (f : Word64 → Strand → Strand) : State :=
  s.issue c t (fun w => opcodeOf w == op) fun w x s => s.needing c t (mask w) (s.advance c t (f w x))

/-- The branch form: PC moves by IMM when the condition holds, and by 8 otherwise (R55). -/
def State.branch (s : State) (c t op : Nat) (mask : Word64 → Nat) (cond : Word64 → Strand → Bool) : State :=
  s.issue c t (fun w => opcodeOf w == op) fun w x s =>
    s.needing c t (mask w) (s.setStrand c t (x.issued (if cond w x then addr57 x.pc (immSigned w) else x.pc + 8)))

/-- S.LI: RD := IMM. -/
def execSLi (c t : Nat) (s : State) : Result :=
  .next (s.scalar c t 0x01 (fun w => regMask (rdOf w)) fun w x => x.setReg (rdOf w) (BitVec.ofNat 32 (immOf w)))

/-- S.MOV: RD := RA. -/
def execSMov (c t : Nat) (s : State) : Result :=
  .next (s.scalar c t 0x02 (fun w => regMask (rdOf w) ||| regMask (raOf w))
    fun w x => x.setReg (rdOf w) (x.reg (raOf w)))

/-- S.ADD: RD := RA + src2. -/
def execSAdd (c t : Nat) (s : State) : Result :=
  .next (s.scalar c t 0x8 aluMask fun w x => x.setReg (rdOf w) (x.reg (raOf w) + src2 w x))

/-- S.SUB: RD := RA − src2. -/
def execSSub (c t : Nat) (s : State) : Result :=
  .next (s.scalar c t 0x9 aluMask fun w x => x.setReg (rdOf w) (x.reg (raOf w) - src2 w x))

/-- S.MUL: RD := low 32 bits of RA × src2. -/
def execSMul (c t : Nat) (s : State) : Result :=
  .next (s.scalar c t 0xa aluMask fun w x => x.setReg (rdOf w) (x.reg (raOf w) * src2 w x))

/-- S.MULHU: RD := high 32 bits of the unsigned product RA × src2. -/
def execSMulhu (c t : Nat) (s : State) : Result :=
  .next (s.scalar c t 0xb aluMask fun w x => x.setReg (rdOf w) (BitVec.ofNat 32 ((x.reg (raOf w)).toNat * (src2 w x).toNat / 2 ^ 32)))

/-- S.AND: RD := RA and src2. -/
def execSAnd (c t : Nat) (s : State) : Result :=
  .next (s.scalar c t 0xc aluMask fun w x => x.setReg (rdOf w) (x.reg (raOf w) &&& src2 w x))

/-- S.OR: RD := RA or src2. -/
def execSOr (c t : Nat) (s : State) : Result :=
  .next (s.scalar c t 0xd aluMask fun w x => x.setReg (rdOf w) (x.reg (raOf w) ||| src2 w x))

/-- S.XOR: RD := RA xor src2. -/
def execSXor (c t : Nat) (s : State) : Result :=
  .next (s.scalar c t 0xe aluMask fun w x => x.setReg (rdOf w) (x.reg (raOf w) ^^^ src2 w x))

/-- S.SHL: RD := RA shifted left by (src2 mod 32). -/
def execSShl (c t : Nat) (s : State) : Result :=
  .next (s.scalar c t 0xf aluMask fun w x => x.setReg (rdOf w) (x.reg (raOf w) <<< ((src2 w x).toNat % 32)))

/-- S.SHR: RD := RA shifted right by (src2 mod 32), zeros entering. -/
def execSShr (c t : Nat) (s : State) : Result :=
  .next (s.scalar c t 0x10 aluMask fun w x => x.setReg (rdOf w) (x.reg (raOf w) >>> ((src2 w x).toNat % 32)))

/-- S.SRA: RD := RA shifted right by (src2 mod 32), copies of bit 31 entering. -/
def execSSra (c t : Nat) (s : State) : Result :=
  .next (s.scalar c t 0x11 aluMask fun w x => x.setReg (rdOf w) ((x.reg (raOf w)).sshiftRight ((src2 w x).toNat % 32)))

/-- S.SLT: RD := 1 when RA < src2 as signed values, otherwise 0. -/
def execSSlt (c t : Nat) (s : State) : Result :=
  .next (s.scalar c t 0x12 aluMask fun w x => x.setReg (rdOf w) (if (x.reg (raOf w)).toInt < (src2 w x).toInt then 1#32 else 0#32))

/-- S.SLTU: RD := 1 when RA < src2 as unsigned values, otherwise 0. -/
def execSSltu (c t : Nat) (s : State) : Result :=
  .next (s.scalar c t 0x13 aluMask fun w x => x.setReg (rdOf w) (if (x.reg (raOf w)).toNat < (src2 w x).toNat then 1#32 else 0#32))

/-- S.ADDP: the pair (RD + 1, RD) := ((RA + 1, RA) + src2 sign-extended) mod 2^57; bits [31:25] of RD + 1 are written
0. -/
def execSAddp (c t : Nat) (s : State) : Result :=
  .next (s.scalar c t 0x14 (fun w => pairMask (rdOf w) ||| pairMask (raOf w) ||| src2Mask w)
    fun w x => x.setPair (rdOf w) (addr57 (x.addrPair (raOf w)) (src2 w x).toInt))

/-- S.BR: PC := PC + IMM. -/
def execSBr (c t : Nat) (s : State) : Result := .next (s.branch c t 0x20 (fun _ => 0) fun _ _ => true)

/-- S.BEQ: if RA = RB then PC := PC + IMM. -/
def execSBeq (c t : Nat) (s : State) : Result :=
  .next (s.branch c t 0x21 branchMask fun w x => x.reg (raOf w) == x.reg (rbOf w))

/-- S.BNE: if RA ≠ RB then PC := PC + IMM. -/
def execSBne (c t : Nat) (s : State) : Result :=
  .next (s.branch c t 0x22 branchMask fun w x => x.reg (raOf w) != x.reg (rbOf w))

/-- S.BLT: if RA < RB, signed then PC := PC + IMM. -/
def execSBlt (c t : Nat) (s : State) : Result :=
  .next (s.branch c t 0x23 branchMask fun w x => decide ((x.reg (raOf w)).toInt < (x.reg (rbOf w)).toInt))

/-- S.BGE: if RA ≥ RB, signed then PC := PC + IMM. -/
def execSBge (c t : Nat) (s : State) : Result :=
  .next (s.branch c t 0x24 branchMask fun w x => decide ((x.reg (rbOf w)).toInt ≤ (x.reg (raOf w)).toInt))

/-- S.BLTU: if RA < RB, unsigned then PC := PC + IMM. -/
def execSBltu (c t : Nat) (s : State) : Result :=
  .next (s.branch c t 0x25 branchMask fun w x => decide ((x.reg (raOf w)).toNat < (x.reg (rbOf w)).toNat))

/-- S.BGEU: if RA ≥ RB, unsigned then PC := PC + IMM. -/
def execSBgeu (c t : Nat) (s : State) : Result :=
  .next (s.branch c t 0x26 branchMask fun w x => decide ((x.reg (rbOf w)).toNat ≤ (x.reg (raOf w)).toNat))

/-- S.CALL: the pair (RD + 1, RD) := PC + 8, and PC := PC + IMM. -/
def execSCall (c t : Nat) (s : State) : Result :=
  .next (s.issue c t (fun w => opcodeOf w == 0x28) fun w x s =>
    s.needing c t (pairMask (rdOf w))
      (s.setStrand c t ((x.setPair (rdOf w) ((x.pc + 8) % 2 ^ 57)).issued (addr57 x.pc (immSigned w)))))

/-- S.JMP: PC := (RA + 1, RA) + IMM sign-extended. -/
def execSJmp (c t : Nat) (s : State) : Result :=
  .next (s.issue c t (fun w => opcodeOf w == 0x29) fun w x s =>
    s.needing c t (pairMask (raOf w)) (s.setStrand c t (x.issued (addr57 (x.addrPair (raOf w)) (immSigned w)))))

/-- S.YIELD: the strand leaves the issue stage and returns to READY with a new readiness time. -/
def execSYield (c t : Nat) (s : State) : Result :=
  .next (s.issue c t (fun w => opcodeOf w == 0x2A) fun _ x s =>
    s.setStrand c t { x.issued (x.pc + 8) with mode := .ready, run := 0, readyAt := s.tb })

/-- S.NOP: no operation. -/
def execSNop (c t : Nat) (s : State) : Result := .next (s.scalar c t 0x2F (fun _ => 0) fun _ x => x)

end Sys2Proof.Machine
end

