-- ==== Sys2Proof/Machine/Dispatch.lean ====
section
/-! DEFINITION. One arm per command: its meaning. -/

namespace Sys2Proof.Machine

open Sys2Proof

def exec (i : Instr) (s : State) : Host.Outcome State Fault Refusal :=
  match i with
  | .registerWrite r a w => Sys2Proof.Machine.execRegisterWrite r a w s
  | .rcRead r a => Sys2Proof.Machine.execRcRead r a s
  | .counterLoRead r a => Sys2Proof.Machine.execCounterLoRead r a s
  | .flagsRcRead r a => Sys2Proof.Machine.execFlagsRcRead r a s
  | .rateWindowEnd d cycles coreCycles => Sys2Proof.Machine.execRateWindowEnd d cycles coreCycles s
  | .strandWake c t => Sys2Proof.Machine.execStrandWake c t s
  | .strandQuantumEnd c t => Sys2Proof.Machine.execStrandQuantumEnd c t s
  | .instructionFetch c t => Sys2Proof.Machine.execInstructionFetch c t s
  | .sLi c t => Sys2Proof.Machine.execSLi c t s
  | .sMov c t => Sys2Proof.Machine.execSMov c t s
  | .sAdd c t => Sys2Proof.Machine.execSAdd c t s
  | .sSub c t => Sys2Proof.Machine.execSSub c t s
  | .sMul c t => Sys2Proof.Machine.execSMul c t s
  | .sMulhu c t => Sys2Proof.Machine.execSMulhu c t s
  | .sAnd c t => Sys2Proof.Machine.execSAnd c t s
  | .sOr c t => Sys2Proof.Machine.execSOr c t s
  | .sXor c t => Sys2Proof.Machine.execSXor c t s
  | .sShl c t => Sys2Proof.Machine.execSShl c t s
  | .sShr c t => Sys2Proof.Machine.execSShr c t s
  | .sSra c t => Sys2Proof.Machine.execSSra c t s
  | .sSlt c t => Sys2Proof.Machine.execSSlt c t s
  | .sSltu c t => Sys2Proof.Machine.execSSltu c t s
  | .sAddp c t => Sys2Proof.Machine.execSAddp c t s
  | .sBr c t => Sys2Proof.Machine.execSBr c t s
  | .sBeq c t => Sys2Proof.Machine.execSBeq c t s
  | .sBne c t => Sys2Proof.Machine.execSBne c t s
  | .sBlt c t => Sys2Proof.Machine.execSBlt c t s
  | .sBge c t => Sys2Proof.Machine.execSBge c t s
  | .sBltu c t => Sys2Proof.Machine.execSBltu c t s
  | .sBgeu c t => Sys2Proof.Machine.execSBgeu c t s
  | .sCall c t => Sys2Proof.Machine.execSCall c t s
  | .sJmp c t => Sys2Proof.Machine.execSJmp c t s
  | .sYield c t => Sys2Proof.Machine.execSYield c t s
  | .sNop c t => Sys2Proof.Machine.execSNop c t s
  | .svyStage r => Sys2Proof.Machine.execSvyStage r s
  | .svyCommit r => Sys2Proof.Machine.execSvyCommit r s
  | .svyAbort r => Sys2Proof.Machine.execSvyAbort r s
  | .stagingWindowWrite r off words => Sys2Proof.Machine.execStagingWindowWrite r off words s
  | .stageBytesProgrammed => Sys2Proof.Machine.execStageBytesProgrammed s
  | .svyCheck => Sys2Proof.Machine.execSvyCheck s
  | .svyZeroise => Sys2Proof.Machine.execSvyZeroise s
  | .zeroiseDone n share => Sys2Proof.Machine.execZeroiseDone n share s
  | .svyApply => Sys2Proof.Machine.execSvyApply s
  | .svyFlip => Sys2Proof.Machine.execSvyFlip s
  | .srSeedHiWrite r c vxe hi => Sys2Proof.Machine.execSrSeedHiWrite r c vxe hi s
  | .slotWrite r g nowait hold => Sys2Proof.Machine.execSlotWrite r g nowait hold s
  | .slotWriteAbort r g => Sys2Proof.Machine.execSlotWriteAbort r g s
  | .slotWriteWriting g => Sys2Proof.Machine.execSlotWriteWriting g s
  | .holdExpired g => Sys2Proof.Machine.execHoldExpired g s
  | .slotWriteDone g => Sys2Proof.Machine.execSlotWriteDone g s
  | .mxRun c t => Sys2Proof.Machine.execMxRun c t s
  | .mxRunComplete c => Sys2Proof.Machine.execMxRunComplete c s
  | .dupCompare c upset => Sys2Proof.Machine.execDupCompare c upset s
  | .mxeDupCtrlWrite r c enable rate tol => Sys2Proof.Machine.execMxeDupCtrlWrite r c enable rate tol s
  | .mxeAbortAck c => Sys2Proof.Machine.execMxeAbortAck c s
  | .vxAdd c t => Sys2Proof.Machine.execVxAdd c t s
  | .vxSub c t => Sys2Proof.Machine.execVxSub c t s
  | .vxMul c t => Sys2Proof.Machine.execVxMul c t s
  | .vxFma c t => Sys2Proof.Machine.execVxFma c t s
  | .vxMax c t => Sys2Proof.Machine.execVxMax c t s
  | .vxMin c t => Sys2Proof.Machine.execVxMin c t s
  | .vxUn c t => Sys2Proof.Machine.execVxUn c t s
  | .vxCmp c t => Sys2Proof.Machine.execVxCmp c t s
  | .vxSel c t => Sys2Proof.Machine.execVxSel c t s
  | .vxCvt c t => Sys2Proof.Machine.execVxCvt c t s
  | .vxCstore c t => Sys2Proof.Machine.execVxCstore c t s
  | .vxRed c t => Sys2Proof.Machine.execVxRed c t s
  | .vxRstat c t => Sys2Proof.Machine.execVxRstat c t s
  | .vxRmsn c t => Sys2Proof.Machine.execVxRmsn c t s
  | .vxSmax c t => Sys2Proof.Machine.execVxSmax c t s
  | .vxFn c t => Sys2Proof.Machine.execVxFn c t s
  | .vxeComplete c => Sys2Proof.Machine.execVxeComplete c s
  | .vxeAbortAck c => Sys2Proof.Machine.execVxeAbortAck c s
  | .atRun c t => Sys2Proof.Machine.execAtRun c t s
  | .atAppend c t => Sys2Proof.Machine.execAtAppend c t s
  | .appendResume c => Sys2Proof.Machine.execAppendResume c s
  | .atuComplete c => Sys2Proof.Machine.execAtuComplete c s
  | .atuAbortAck c => Sys2Proof.Machine.execAtuAbortAck c s
  | .seqOpen c t => Sys2Proof.Machine.execOpen c t s
  | .openRetry n => Sys2Proof.Machine.execOpenRetry n s
  | .seqCommit c t => Sys2Proof.Machine.execCommit c t s
  | .seqTruncate c t => Sys2Proof.Machine.execTruncate c t s
  | .seqRelease c t => Sys2Proof.Machine.execRelease c t s
  | .seqOpProceed c => Sys2Proof.Machine.execSeqOpProceed c s
  | .poolPageZeroised n => Sys2Proof.Machine.execPoolPageZeroised n s
  | .rtRun c t => Sys2Proof.Machine.execRtRun c t s
  | .biasWindowClose n p => Sys2Proof.Machine.execBiasWindowClose n p s
  | .rtRunComplete g epoch => Sys2Proof.Machine.execRtRunComplete g epoch s
  | .xcRecv c t => Sys2Proof.Machine.execXcRecv c t s
  | .xcRecvComplete id => Sys2Proof.Machine.execXcRecvComplete id s
  | .xcReturn c t => Sys2Proof.Machine.execXcReturn c t s
  | .rxBusyRetry txn dst => Sys2Proof.Machine.execRxBusyRetry txn dst s
  | .rteBiasWrite r g value => Sys2Proof.Machine.execRteBiasWrite r g value s
  | .rteCancel r g epoch => Sys2Proof.Machine.execRteCancel r g epoch s
  | .rteAbortAck g => Sys2Proof.Machine.execRteAbortAck g s
  | .trainClose r c entry => Sys2Proof.Machine.execTrainClose r c entry s
  | .trainCloseAll r c => Sys2Proof.Machine.execTrainCloseAll r c s
  | .trainReplay r c entry fmt => Sys2Proof.Machine.execTrainReplay r c entry fmt s
  | .trainSkip r c entry => Sys2Proof.Machine.execTrainSkip r c entry s
  | .mmuInvalidate r n pages => Sys2Proof.Machine.execMmuInvalidate r n pages s
  | .mmuInvalidateAll r n => Sys2Proof.Machine.execMmuInvalidateAll r n s
  | .mmuInvalidateDone n => Sys2Proof.Machine.execMmuInvalidateDone n s
  | .homeAccess id ev => Sys2Proof.Machine.execHomeAccess id ev s
  | .hbcRetrain st ch drift read write pause => Sys2Proof.Machine.execHbcRetrain st ch drift read write pause s
  | .refresh st ch => Sys2Proof.Machine.execRefresh st ch s
  | .temperatureReadout st temp => Sys2Proof.Machine.execTemperatureReadout st temp s
  | .patrolScrub st ev => Sys2Proof.Machine.execPatrolScrub st ev s
  | .moLd c t => Sys2Proof.Machine.execMoLd c t s
  | .moSt c t => Sys2Proof.Machine.execMoSt c t s
  | .add c t => Sys2Proof.Machine.execAdd c t s
  | .fadd c t => Sys2Proof.Machine.execFadd c t s
  | .swap c t => Sys2Proof.Machine.execSwap c t s
  | .cas c t => Sys2Proof.Machine.execCas c t s
  | .smax c t => Sys2Proof.Machine.execSmax c t s
  | .smin c t => Sys2Proof.Machine.execSmin c t s
  | .amoOr c t => Sys2Proof.Machine.execAmoOr c t s
  | .amoAnd c t => Sys2Proof.Machine.execAmoAnd c t s
  | .fenceAcquire c t => Sys2Proof.Machine.execFenceAcquire c t s
  | .fenceRelease c t => Sys2Proof.Machine.execFenceRelease c t s
  | .fenceFull c t => Sys2Proof.Machine.execFenceFull c t s
  | .moBar c t => Sys2Proof.Machine.execMoBar c t s
  | .hello p f => Sys2Proof.Machine.execHello p f s
  | .proof p f => Sys2Proof.Machine.execProof p f s
  | .heartbeat p f => Sys2Proof.Machine.execHeartbeat p f s
  | .close p f => Sys2Proof.Machine.execClose p f s
  | .regRead p f => Sys2Proof.Machine.execRegRead p f s
  | .regWrite p f => Sys2Proof.Machine.execRegWrite p f s
  | .memRead p f evs => Sys2Proof.Machine.execMemRead p f evs s
  | .memWrite p f evs => Sys2Proof.Machine.execMemWrite p f evs s
  | .doorbell p f => Sys2Proof.Machine.execDoorbell p f s
  | .poll p f => Sys2Proof.Machine.execPoll p f s
  | .claim p f => Sys2Proof.Machine.execClaim p f s
  | .electionClose => Sys2Proof.Machine.execElectionClose s
  | .handover p f => Sys2Proof.Machine.execHandover p f s
  | .attest p f => Sys2Proof.Machine.execAttest p f s
  | .attestReport => Sys2Proof.Machine.execAttestReport s
  | .keyEnroll p f => Sys2Proof.Machine.execKeyEnroll p f s
  | .keyRevoke p f => Sys2Proof.Machine.execKeyRevoke p f s
  | .keysetEnroll p f => Sys2Proof.Machine.execKeysetEnroll p f s
  | .keysetRemove p f => Sys2Proof.Machine.execKeysetRemove p f s
  | .fwStage p f => Sys2Proof.Machine.execFwStage p f s
  | .fwStageWritten => Sys2Proof.Machine.execFwStageWritten s
  | .fwCommit p f => Sys2Proof.Machine.execFwCommit p f s
  | .fwCommitDone => Sys2Proof.Machine.execFwCommitDone s
  | .advance p f => Sys2Proof.Machine.execAdvance p f s
  | .floor p f => Sys2Proof.Machine.execFloor p f s
  | .unknownType p f => Sys2Proof.Machine.execUnknownType p f s
  | .sessionTimeout k => Sys2Proof.Machine.execSessionTimeout k s
  | .heartbeatLoss => Sys2Proof.Machine.execHeartbeatLoss s
  | .violWindowEnd p => Sys2Proof.Machine.execViolWindowEnd p s
  | .reenablePort r p => Sys2Proof.Machine.execReenablePort r p s
  | .reenableSlots r p mask => Sys2Proof.Machine.execReenableSlots r p mask s
  | .lossOfLight => Sys2Proof.Machine.execLossOfLight s
  | .create r n => Sys2Proof.Machine.execCreate r n s
  | .qcbRead n => Sys2Proof.Machine.execQcbRead n s
  | .destroy r n q => Sys2Proof.Machine.execDestroy r n q s
  | .reclaim r n q => Sys2Proof.Machine.execReclaim r n q s
  | .teardownDone q => Sys2Proof.Machine.execTeardownDone q s
  | .graphCreate r n g => Sys2Proof.Machine.execGraphCreate r n g s
  | .patch r n => Sys2Proof.Machine.execPatch r n s
  | .patchDone n => Sys2Proof.Machine.execPatchDone n s
  | .graphDestroy r n g => Sys2Proof.Machine.execGraphDestroy r n g s
  | .qDbWrite r q tail => Sys2Proof.Machine.execQDbWrite r q tail s
  | .qCackWrite r q v => Sys2Proof.Machine.execQCackWrite r q v s
  | .qCancel r q seq => Sys2Proof.Machine.execQCancel r q seq s
  | .itemFetch n => Sys2Proof.Machine.execItemFetch n s
  | .itemDispatch n => Sys2Proof.Machine.execItemDispatch n s
  | .itemBind g => Sys2Proof.Machine.execItemBind g s
  | .markerEnd q seq => Sys2Proof.Machine.execMarkerEnd q seq s
  | .graphNodeDispatch q seq k => Sys2Proof.Machine.execGraphNodeDispatch q seq k s
  | .messageDispatch q => Sys2Proof.Machine.execMessageDispatch q s
  | .copyComplete k => Sys2Proof.Machine.execCopyComplete k s
  | .dmvAbortAck k => Sys2Proof.Machine.execDmvAbortAck k s
  | .itemTimeout q seq => Sys2Proof.Machine.execItemTimeout q seq s
  | .qwEnd c t => Sys2Proof.Machine.execQwEnd c t s
  | .qwTake c t => Sys2Proof.Machine.execQwTake c t s
  | .qwDone c t => Sys2Proof.Machine.execQwDone c t s
  | .qwExit c t => Sys2Proof.Machine.execQwExit c t s
  | .qwLive c t => Sys2Proof.Machine.execQwLive c t s
  | .surveyCommit => Sys2Proof.Machine.execSurveyCommit s
  | .mgmtFwCommit => Sys2Proof.Machine.execMgmtFwCommit s
  | .scan => Sys2Proof.Machine.execScan s
  | .flush => Sys2Proof.Machine.execFlush s
  | .portTest => Sys2Proof.Machine.execPortTest s
  | .endTest => Sys2Proof.Machine.execEndTest s
  | .testWindowEnd p => Sys2Proof.Machine.execTestWindowEnd p s
  | .ageExpiry a => Sys2Proof.Machine.execAgeExpiry a s
  | .preempt g => Sys2Proof.Machine.execPreempt g s
  | .suspendDone c t => Sys2Proof.Machine.execSuspendDone c t s
  | .resume c => Sys2Proof.Machine.execResume c s
  | .laneTrain l ok => Sys2Proof.Machine.execLaneTrain l ok s
  | .laneTrainRetry l => Sys2Proof.Machine.execLaneTrainRetry l s
  | .retrain r p k => Sys2Proof.Machine.execRetrain r p k s
  | .rdReq l p ev => Sys2Proof.Machine.execRdReq l p ev s
  | .wr l p ev => Sys2Proof.Machine.execWr l p ev s
  | .closeWr l p => Sys2Proof.Machine.execCloseWr l p s
  | .closeWrPerform src n req k => Sys2Proof.Machine.execCloseWrPerform src n req k s
  | .closeTimeout src n req k => Sys2Proof.Machine.execCloseTimeout src n req k s
  | .amo l p ev => Sys2Proof.Machine.execAmo l p ev s
  | .row l p => Sys2Proof.Machine.execRow l p s
  | .rowEnd l p => Sys2Proof.Machine.execRowEnd l p s
  | .barArrive l p => Sys2Proof.Machine.execBarArrive l p s
  | .barRelease l p => Sys2Proof.Machine.execBarRelease l p s
  | .sync l p hopPs => Sys2Proof.Machine.execSync l p hopPs s
  | .syncSend => Sys2Proof.Machine.execSyncSend s
  | .holdover => Sys2Proof.Machine.execHoldover s
  | .memberHeartbeat l p => Sys2Proof.Machine.execMemberHeartbeat l p s
  | .view l p changes => Sys2Proof.Machine.execView l p changes s
  | .leave l p => Sys2Proof.Machine.execLeave l p s
  | .heartbeatSend => Sys2Proof.Machine.execHeartbeatSend s
  | .memberDeparted d => Sys2Proof.Machine.execMemberDeparted d s
  | .masterLost => Sys2Proof.Machine.execMasterLost s
  | .masterTakeover => Sys2Proof.Machine.execMasterTakeover s
  | .rdResp l p => Sys2Proof.Machine.execRdResp l p s
  | .wrAck l p => Sys2Proof.Machine.execWrAck l p s
  | .amoResp l p => Sys2Proof.Machine.execAmoResp l p s
  | .rowDrop l p => Sys2Proof.Machine.execRowDrop l p s
  | .result l p => Sys2Proof.Machine.execResult l p s
  | .nak l p => Sys2Proof.Machine.execNak l p s
  | .packetForward l p => Sys2Proof.Machine.execPacketForward l p s
  | .credit l p => Sys2Proof.Machine.execCredit l p s
  | .ack l p => Sys2Proof.Machine.execAck l p s
  | .replayReq l p => Sys2Proof.Machine.execReplayReq l p s
  | .eqReq l p => Sys2Proof.Machine.execEqReq l p s
  | .eqRsp l p => Sys2Proof.Machine.execEqRsp l p s
  | .param l p assignOk => Sys2Proof.Machine.execParam l p assignOk s
  | .eqUpdate l eyeH eyeV symErr corrected ask => Sys2Proof.Machine.execEqUpdate l eyeH eyeV symErr corrected ask s
  | .lnkViolWindowEnd p => Sys2Proof.Machine.execLnkViolWindowEnd p s
  | .lnkReenable r p => Sys2Proof.Machine.execLnkReenable r p s
  | .scanWindow g => Sys2Proof.Machine.execScanWindow g s
  | .dupScanWindow c => Sys2Proof.Machine.execDupScanWindow c s
  | .scanDrainEnd => Sys2Proof.Machine.execScanDrainEnd s
  | .scanQuiesced => Sys2Proof.Machine.execScanQuiesced s
  | .scanSlateDone fails => Sys2Proof.Machine.execScanSlateDone fails s
  | .markAmber r u => Sys2Proof.Machine.execMarkAmber r u s
  | .clearAmber r u => Sys2Proof.Machine.execClearAmber r u s
  | .retire r u => Sys2Proof.Machine.execRetire r u s
  | .healthFlashWrite => Sys2Proof.Machine.execHealthFlashWrite s
  | .lifetimeWrite => Sys2Proof.Machine.execLifetimeWrite s
  | .cvuGo r g u => Sys2Proof.Machine.execCvuGo r g u s
  | .cvuAbort r g u => Sys2Proof.Machine.execCvuAbort r g u s
  | .cvuRunDone g u => Sys2Proof.Machine.execCvuRunDone g u s
  | .powerOn => Sys2Proof.Machine.execPowerOn s
  | .resetN => Sys2Proof.Machine.execResetN s
  | .warmReset r => Sys2Proof.Machine.execWarmReset r s
  | .portReset r => Sys2Proof.Machine.execPortReset r s
  | .pwrGoodFall => Sys2Proof.Machine.execPwrGoodFall s
  | .firmwareVerified vexps => Sys2Proof.Machine.execFirmwareVerified vexps s
  | .stage2Done => Sys2Proof.Machine.execStage2Done s
  | .stackTrained st ok => Sys2Proof.Machine.execStackTrained st ok s
  | .earlyService => Sys2Proof.Machine.execEarlyService s
  | .stage5 => Sys2Proof.Machine.execStage5 s
  | .earlyHandover => Sys2Proof.Machine.execEarlyHandover s
  | .marginLoopStep d slack => Sys2Proof.Machine.execMarginLoopStep d slack s
  | .canaryEmergency d slack => Sys2Proof.Machine.execCanaryEmergency d slack s
  | .powerWindow doms bytes pkg => Sys2Proof.Machine.execPowerWindow doms bytes pkg s
  | .powerLoopStep n => Sys2Proof.Machine.execPowerLoopStep n s
  | .pkgGuardEnd => Sys2Proof.Machine.execPkgGuardEnd s
  | .regulatorSettled d => Sys2Proof.Machine.execRegulatorSettled d s
  | .thermalRead temps => Sys2Proof.Machine.execThermalRead temps s
  | .pmbusPoll d acked vout fault => Sys2Proof.Machine.execPmbusPoll d acked vout fault s
  | .pmbusAlert seg faults => Sys2Proof.Machine.execPmbusAlert seg faults s
  | .shutdown r => Sys2Proof.Machine.execShutdown r s
  | .offReq => Sys2Proof.Machine.execOffReq s
  | .shutdownDrainEnd => Sys2Proof.Machine.execShutdownDrainEnd s
  | .offReady => Sys2Proof.Machine.execOffReady s
  | .refclkLoss => Sys2Proof.Machine.execRefclkLoss s
  | .tbRead c t => Sys2Proof.Machine.execTbRead c t s
  | .trMark c t => Sys2Proof.Machine.execTrMark c t s
  | .pcSample c => Sys2Proof.Machine.execPcSample c s
  | .truDrain n => Sys2Proof.Machine.execTruDrain n s
  | .trigger r n => Sys2Proof.Machine.execTrigger r n s
  | .restart r n => Sys2Proof.Machine.execRestart r n s
  | .truTimeTrigger n => Sys2Proof.Machine.execTruTimeTrigger n s
  | .i3cWrite addr bytes => Sys2Proof.Machine.execI3cWrite addr bytes s
  | .i3cRead addr n => Sys2Proof.Machine.execI3cRead addr n s
  | .entdaa addr => Sys2Proof.Machine.execEntdaa addr s
  | .setdasa static addr => Sys2Proof.Machine.execSetdasa static addr s
  | .rstdaa => Sys2Proof.Machine.execRstdaa s
  | .getpid addr => Sys2Proof.Machine.execGetpid addr s
  | .getbcr addr => Sys2Proof.Machine.execGetbcr addr s
  | .getdcr addr => Sys2Proof.Machine.execGetdcr addr s
  | .getstatus addr => Sys2Proof.Machine.execGetstatus addr s
  | .enec target events => Sys2Proof.Machine.execEnec target events s
  | .disec target events => Sys2Proof.Machine.execDisec target events s
  | .bypass tdi => Sys2Proof.Machine.execBypass tdi s
  | .idcode tdi => Sys2Proof.Machine.execIdcode tdi s
  | .samplePreload tdi => Sys2Proof.Machine.execSamplePreload tdi s
  | .extest tdi => Sys2Proof.Machine.execExtest tdi s
  | .clamp tdi => Sys2Proof.Machine.execClamp tdi s
  | .highz tdi => Sys2Proof.Machine.execHighz tdi s
  | .testLogicReset => Sys2Proof.Machine.execTestLogicReset s
  | .csLd c t => Sys2Proof.Machine.execCsLd c t s
  | .csSt c t => Sys2Proof.Machine.execCsSt c t s
  | .xcReturnComplete id => Sys2Proof.Machine.execXcReturnComplete id s
  | .graphCreateDone n => Sys2Proof.Machine.execGraphCreateDone n s
  | .badOrOutOfOrderPacket l p bad => Sys2Proof.Machine.execBadOrOutOfOrderPacket l p bad s
  | .unknownPacketType l p => Sys2Proof.Machine.execUnknownPacketType l p s
  | .uncorrectableCodeword l => Sys2Proof.Machine.execUncorrectableCodeword l s
  | .opticalLinkChange p up => Sys2Proof.Machine.execOpticalLinkChange p up s
  | .counterHoldEnd => Sys2Proof.Machine.execCounterHoldEnd s
  | .vauxWithinTolerance => Sys2Proof.Machine.execVauxWithinTolerance s
  | .resetNRises => Sys2Proof.Machine.execResetNRises s
  | .uncorrectableUncoreFault => Sys2Proof.Machine.execUncorrectableUncoreFault s

end Sys2Proof.Machine
end

