-- ==== Sys2Proof/Safety.lean ====
section
/-! DEFINITION. What a safe run keeps, and the words that the statements share: an instruction that issues, and what a command
leaves as it was. -/

namespace Sys2Proof.Machine

/-! ### What every step keeps -/

/-- The sparse parts of the state are in their canonical form: memory lists no byte that reads as an unlisted one, and the
register file no word at its reset value, each in rising order of address. -/
def State.Canonical (s : State) : Prop := Memory.wf s.mem = true ∧ smWf resetAt s.regs = true

/-! ### An instruction that issues -/

/-- Strand `t` of core `c` issues the word `w` of opcode `op` now: it is its turn, it has fetched `w`, and none of the scalar
registers in `mask` awaits a value (R49, R50, R54, R55). -/
def State.issues (s : State) (c t op mask : Nat) (w : Word64) : Prop :=
  s.canIssue c t w ∧ opcodeOf w = op ∧ (s.strand c t).notReady &&& mask = 0

/-! ### Frames -/

/-- Every byte of memory reads as before. -/
def State.KeepsMemory (s s' : State) : Prop := ∀ a, s'.byte a = s.byte a

/-- Every byte of memory outside the `n` bytes from `lo` reads as before. -/
def State.KeepsMemoryOutside (s s' : State) (lo n : Nat) : Prop := ∀ a, a < lo ∨ lo + n ≤ a → s'.byte a = s.byte a

/-- Every register word whose address is not in `l` is as before. -/
def State.KeepsRegsBut (s s' : State) (l : List Nat) : Prop := ∀ a, a ∉ l → s'.rget a = s.rget a

/-- Every strand context but that of strand `t` of core `c` is as before. -/
def State.KeepsStrandsBut (s s' : State) (c t : Nat) : Prop :=
  ∀ d u, u < 8192 → (d, u) ≠ (c, t) → s'.strand d u = s.strand d u

/-- The work in progress is as before: memory, every strand, item, queue and engine instruction, and the memory system. -/
def State.KeepsWork (s s' : State) : Prop :=
  s'.mem = s.mem ∧ s'.strands = s.strands ∧ s'.items = s.items ∧ s'.queues = s.queues ∧ s'.engOps = s.engOps ∧ s'.ms = s.ms

/-! ### Frames of a session -/

/-- Frame `w` of type `ty` arrives on port `p` in the slot of session `x`, and no judgement of R727 up to NOT_OWNER refuses it: the
port takes frames, the header is as R456 lays it out, the tag holds and `w` deciphers to `f` (R465), SEQ rises, and the session's state
and ownership admit the type. -/
def State.takesFrame (s : State) (p : Nat) (w f : Frame) (ty : Nat) (x : Session) : Prop :=
  w.type = ty ∧ s.ctpUp p = true ∧ s.fget CTP_PORT_STATUS_ISOLATED p = 0 ∧ w.slot < 16 ∧ s.session w.slot = some x ∧ x.port = p ∧
  w.badHeader = false ∧ s.openFrame w = some f ∧ x.rx < w.seq ∧ w.seq < 2 ^ 48 ∧ x.tx + 8 < 2 ^ 48 ∧
  (s.sessState w.slot = sessOpening ↔ ty = 3) ∧ (ownerTypes.contains ty = true → s.ownerSession (.session w.slot) = true)

/-- The frame counted and accepted: its SEQ is the highest of its session, and the session and its ownership live on (R466, R469,
R472). -/
def State.tookFrame (s : State) (p : Nat) (f : Frame) : State :=
  (s.bump64 CTP_RX_FRAMES_LO_COUNT CTP_RX_FRAMES_HI_COUNT 1 p).acceptFrame f

/-- The frame that the device sends in the slot of session `x` with its next SEQ but `k`, under the session's key (R465, R466). -/
def Session.says (x : Session) (slot k type : Nat) (payload : List Byte) : OutEvent :=
  .frame x.port (Frame.sealed {
    version := 1, type := type, slot := slot, flags := 1, length := payload.length, reserved := 0
    seq := x.tx + 1 + k, payload := payload, tag := [] } x.toNode 1)

/-- The device answers `f` with one encrypted frame of a type, and the session stays open. -/
def State.Answers (s s' : State) (f : Frame) (x : Session) (type : Nat) (payload : List Byte) : Prop :=
  s'.out = s.out ++ [x.says f.slot 0 type payload] ∧
  s'.session f.slot = some { x with rx := f.seq, tx := x.tx + 1, lastAt := s.now }

/-! ### Packets -/

/-- Packet `p` of a type arrives in order on lane `l` for this device, whole, and its port is not isolated (R597, R598, R608, R609). -/
def State.takesPacket (s : State) (l : Nat) (p : Packet) (type : Nat) : Prop :=
  l < 64 ∧ p.type = type ∧ s.fab.group.isSome = true ∧ p.dst = s.deviceId ∧ s.laneInService l = true ∧
  p.lseq = (s.lane l).rxSeq ∧ s.fget LNK_PORT_STATUS_STATE (l / 4) ≠ 3 ∧ p.malformed = none ∧ p.corrupt = false

/-- LINK packet `p` of a subtype arrives on lane `l`, well formed (R599). -/
def State.takesLink (s : State) (l : Nat) (p : Packet) (subtype : Nat) : Prop :=
  l < 64 ∧ p.type = ptLink ∧ p.arg = subtype ∧ s.laneInService l = true ∧ p.malformed = none

/-- The LINK packet's bytes counted. -/
def State.tookLink (s : State) (l : Nat) (p : Packet) : State :=
  s.bump64 LNK_RX_BYTES_LO_COUNT LNK_RX_BYTES_HI_COUNT p.wire (l / 4)

/-- Nothing on the fabric waits for a lane: every lane with packets to replay is in service, and none waits for credits. -/
def State.flowing (s : State) : Prop := s.fab.txq = [] ∧ ∀ e ∈ s.fab.lanes, s.laneInService e.1 = true

/-! ### Engine instructions -/

/-- The engine instruction that a strand's issue queues: no status word yet, not aborted, after every access issued so far, not yet
decoded. -/
def State.newOp (s : State) (eng : Engine) (c t sreg : Nat) (w : Word64) (desc : List Byte) (aux : List Nat) : EngOp :=
  { id := s.ms.nextId, eng := eng, core := c, strand := t, item := (s.strand c t).current.getD ⟨0, 0, none⟩, sreg := sreg,
    word := w, desc := desc, issuedAt := s.now, mark := s.ms.nextId, sampled := false, checker := none, status := none,
    aborted := false, decoded := false, gated := false, aux := aux, dup := [], tile := none }

/-- The descriptor of `len` bytes at scratchpad offset `off` copied for strand `t` of core `c`: every access before the instruction is
performed, and the copy reads `d` and leaves `v`, the strand's context as it was (R206, R437). -/
def State.copied (s : State) (c t off len : Nat) (d : List Byte) (v : State) : Prop :=
  s.ms.owes c t s.ms.nextId = false ∧ (∃ u, s.ownScratch c off len = (.ok d, u) ∧ v = u.deliver) ∧ v.strand c t = s.strand c t

/-- Strand `t` of core `c` waits for `wt`, to issue the same word again, and nothing else changes (R48). -/
def State.waitsFor (s : State) (c t : Nat) (wt : Wait) : State :=
  s.setStrand c t { s.strand c t with mode := .waiting, wait := wt, run := 0 }

/-- No instruction of queue `q` awaits command decode, and none has the number that the next one takes (R32, R181). -/
def State.DecodedUp (s : State) (q : Nat) : Prop := ∀ p ∈ s.engOps, p.id ≠ s.ms.nextId ∧ (p.queue = q → p.decoded = true)

/-- `o` stands last in its engine's queue, its strand issues on at the next word with SREG awaiting the status word, and memory
and every other strand are as before (R32, R206). -/
def State.Queued (s s' : State) (o : EngOp) : Prop :=
  s'.engOps = s.engOps ++ [o] ∧ s.KeepsMemory s' ∧ s.KeepsStrandsBut s' o.core o.strand ∧
  s'.strand o.core o.strand =
    ((s.strand o.core o.strand).mark (regMask o.sreg)).issued ((s.strand o.core o.strand).pc + 8)

/-- The aborted instructions of `o`'s item in `o`'s queue gone from it, each counted with the code of its item (R223, R308). -/
def State.withoutAborted (s : State) (o : EngOp) : State :=
  (s.abortedWith o).foldl (fun s p => (s.opEnded p (s.endCode p.item) 0).dropEng p.id) s

/-! ### Operations that may read other devices -/

/-- Unit `o` awaits no answer to a read request (R443). -/
def State.awaitsNoRead (s : State) (o : Owner) : Prop :=
  s.fab.outstanding.any (fun x => x.owner == o && x.packet.type == ptRdReq) = false

/-- The state in which unit `o` runs an operation whose reads may go to other devices. -/
def State.asksAs (s : State) (o : Owner) : State := { s with ms := { s.ms with asking := some o } }

/-- The operation of unit `o` over: every line that it read lay here or had been fetched. -/
def State.readAll (s : State) (o : Owner) : State :=
  { s with ms := { s.ms with asking := none, fetched := s.ms.fetched.filter (fun e => e.1 != o) } }

end Sys2Proof.Machine
end

