-- ==== Sys2Proof/Certificates/Slice0/Obligations.lean ====
section
/-! DEFINITION. The statements about the machine, for the provers. -/

open Sys2Proof Sys2Proof.Machine

/-- For every command and every state, a step with that command at the front of the queue is the execution of the
command on the state with the rest of the queue. The queue is the model's own form of the commands that reach the
device from outside (log entry 21). -/
def Obligations.StepTakesFront : Prop :=
  ∀ (s : State) (i : Instr) (rest : List Instr), s.pending = i :: rest → step s = exec i { s with pending := rest }

/-- With an empty queue of commands, no engine instruction and no event waiting for the monitor, a step lets 1 ns pass
(the model's choice, log entry 21): the time since power-on rises by 1; the 64-bit timebase rises by 1 while it is
neither held nor trimmed and the device runs, and stands still while HELD is 1; memory, every register word, every
strand, every item and every queue is as before. -/
def Obligations.IdleTick : Prop :=
  ∀ (s : State), s.pending = [] → s.engOps = [] → s.ms.found = [] → ∃ s', step s = .next s' ∧ s'.now = s.now + 1 ∧
    (s.fget TBC_STATUS_HELD = 0 → s.tbc.trim = 0 → s.pwr.held = false → s.pwr.dark = false → s'.tb = (s.tb + 1) % 2 ^ 64) ∧
    (s.fget TBC_STATUS_HELD = 1 → s'.tb = s.tb) ∧
    s.KeepsMemory s' ∧ s.KeepsRegsBut s' [] ∧ s'.strands = s.strands ∧ s'.items = s.items ∧ s'.queues = s.queues

/-- From every state a step answers a next state. The device reports each failure in its registers, records and
answers, and no command of the table stops the model. -/
def Obligations.StepNeverStops : Prop :=
  ∀ (s : State), ∃ s', step s = .next s'

/-- Right after reset: no command waits; no session owns the device and no survey loads; every chamber is ABSENT,
every queue FREE and every strand FREE; every _HI shadow reads 0 for every requester; a register of a layout without a
value of the part's own holds its Reset column, here GFE_SCH_CTRL (BE_HOLD 1, PREEMPT_MAX 8, AGE_US 0x40), PWR_CTRL
(BOOST 1, CAP_W 0x708) and CTP_VIOL_CTRL (WINDOW_MS 0x3E8, THRESHOLD 0x40). -/
def Obligations.ResetValues : Prop :=
  State.reset.pending = [] ∧ State.reset.fget CTP_OWNER_VALID = 0 ∧ State.reset.fget SVY_STATUS_STATE = 0 ∧
  (∀ n, n < 16 → State.reset.fget CHB_STATE_STATE n = 0) ∧
  (∀ q, q < 4096 → State.reset.fget GFE_Q_STATE_STATE q = 0) ∧
  (∀ c t, (State.reset.strand c t).mode = .free) ∧
  (∀ r a, State.reset.shadow r a = 0#32) ∧
  (∀ n, n < 16 → State.reset.fget GFE_SCH_CTRL_BE_HOLD n = 1 ∧ State.reset.fget GFE_SCH_CTRL_PREEMPT_MAX n = 8 ∧
    State.reset.fget GFE_SCH_CTRL_AGE_US n = 0x40) ∧
  State.reset.fget PWR_CTRL_BOOST = 1 ∧ State.reset.fget PWR_CTRL_CAP_W = 0x708 ∧
  (∀ p, p < 2 → State.reset.fget CTP_VIOL_CTRL_WINDOW_MS p = 0x3E8 ∧ State.reset.fget CTP_VIOL_CTRL_THRESHOLD p = 0x40)

/-- Right after reset memory and the register file are in their canonical form, the invariant of StepKeepsCanonical. -/
def Obligations.ResetCanonical : Prop :=
  State.reset.Canonical

/-- For every state in which memory and the register file are in canonical form (addresses strictly rising, no entry
that an unlisted address would read as), whatever command is in front, the state after the step is in canonical form
too, so that equal memories and equal register files stay equal data. -/
def Obligations.StepKeepsCanonical : Prop :=
  ∀ (s s' : State), s.Canonical → step s = .next s' → s'.Canonical

/-- Bytes written at an address read back lowest address first, every other byte reads as before, and the canonical
form is kept; zeroed bytes read 0 and no other byte changes. -/
def Obligations.MemoryReadAfterWrite : Prop :=
  ∀ (s : State) (a : Nat) (bs : List Byte),
    (s.setBytes a bs).bytes a bs.length = bs ∧
    s.KeepsMemoryOutside (s.setBytes a bs) a bs.length ∧
    (Memory.wf s.mem = true → Memory.wf (s.setBytes a bs).mem = true) ∧
    (∀ n b, a ≤ b → b < a + n → (s.zeroBytes a (a + n)).byte b = 0#8) ∧
    (∀ n, s.KeepsMemoryOutside (s.zeroBytes a (a + n)) a n)

/-- Setting a field of an instance of a register leaves in it the low bits of the value that fit its width, every
other field of that register and every other register word unchanged, and changes nothing but the register file. -/
def Obligations.FieldSet : Prop :=
  ∀ (s : State) (f g : Fld) (v i j : Nat), f.lo ≤ f.hi → f.hi < 32 →
    (s.fset f v i j).fget f i j = v % 2 ^ (f.hi + 1 - f.lo) ∧
    (g.reg = f.reg → g.lo ≤ g.hi → (f.hi < g.lo ∨ g.hi < f.lo) → (s.fset f v i j).fget g i j = s.fget g i j) ∧
    s.KeepsRegsBut (s.fset f v i j) [regAddr f.reg i j] ∧
    { s.fset f v i j with regs := s.regs } = s

/-- A REGISTER_WRITE of an unmapped or misaligned address, of a reserved offset, or of a register with RO and RC
fields alone changes nothing. A write of the scheduling register GFE_SCH_CTRL (OW fields) by a requester that may act
as owner sets BE_HOLD, PREEMPT_MAX and AGE_US to the word's bits and changes no other register and no memory; by any
other requester it changes nothing. A write without GO of GFE_QCMD (RW fields) by a requester that may write the set
sets OP and QUEUE. -/
def Obligations.RegisterWriteAccess : Prop :=
  ∀ (s : State) (r : Requester) (a : Nat) (w : Word),
    (mapped a = false ∨ a % 4 ≠ 0 → exec (.registerWrite r a w) s = .next s) ∧
    (inStaging a = false → regDescAt a = none → exec (.registerWrite r a w) s = .next s) ∧
    (∀ d, inStaging a = false → regDescAt a = some d → (∀ f ∈ d.fields, f.access = .ro ∨ f.access = .rc) →
      exec (.registerWrite r a w) s = .next s) ∧
    (∀ n, n < 16 → s.owns r = true → ∃ s', exec (.registerWrite r (regAddr GFE_SCH_CTRL n 0) w) s = .next s' ∧
      s'.fget GFE_SCH_CTRL_BE_HOLD n = bitsOf w.toNat 31 31 ∧ s'.fget GFE_SCH_CTRL_PREEMPT_MAX n = bitsOf w.toNat 23 16 ∧
      s'.fget GFE_SCH_CTRL_AGE_US n = bitsOf w.toNat 15 0 ∧ s.KeepsRegsBut s' [regAddr GFE_SCH_CTRL n 0] ∧
      s.KeepsMemory s' ∧ s'.strands = s.strands) ∧
    (∀ n, n < 16 → s.owns r = false → exec (.registerWrite r (regAddr GFE_SCH_CTRL n 0) w) s = .next s) ∧
    (∀ n, n < 16 → s.mayWriteSet r n = true → bitsOf w.toNat 31 31 = 0 →
      ∃ s', exec (.registerWrite r (regAddr GFE_QCMD n 0) w) s = .next s' ∧
        s'.fget GFE_QCMD_OP n = bitsOf w.toNat GFE_QCMD_OP.hi GFE_QCMD_OP.lo ∧
        s'.fget GFE_QCMD_QUEUE n = bitsOf w.toNat GFE_QCMD_QUEUE.hi GFE_QCMD_QUEUE.lo ∧
        s.KeepsRegsBut s' [regAddr GFE_QCMD n 0] ∧ s.KeepsMemory s')

/-- For every register of the layouts with an RC field that is stored as such, and every requester that may read it,
RC_READ leaves each RC field of it 0 and every other register word and memory unchanged, and the value that the read
returns is the stored word from before the read. The engines' FLAGS_RC registers are in FlagsRcRead. -/
def Obligations.RcReadClears : Prop :=
  ∀ (s : State) (r : Requester) (a : Nat) (d : RegDesc) (f : FieldDesc),
    regDescAt a = some d → f ∈ d.fields → f.access = .rc → s.mayRead r a = true → flagsRcAt a = none →
    isHigh d.reg = false → isLow d.reg = false →
    (s.readReg r a).1 = s.rget a ∧
    ∃ s', exec (.rcRead r a) s = .next s' ∧ bitsOf (s'.rget a).toNat f.fld.hi f.fld.lo = 0 ∧
      s.KeepsRegsBut s' [a] ∧ s.KeepsMemory s' ∧ s'.strands = s.strands

/-- COUNTER_LO_READ of the element counter of a core, by a requester that may read it, latches the counter's high word
in that requester's shadow, leaves every other requester's shadows and all registers unchanged, and a read of _HI by
the requester returns its shadow; COUNTER_LO_READ of TBC_NOW latches the high word of the timebase. -/
def Obligations.CounterShadows : Prop :=
  ∀ (s : State) (r : Requester) (c : Nat), c < 128 →
    (s.mayRead r (regAddr VXE_ELEM_LO c 0) = true →
      ∃ s', exec (.counterLoRead r (regAddr VXE_ELEM_LO c 0)) s = .next s' ∧
        s'.shadow r (regAddr VXE_ELEM_HI c 0) = s.rget (regAddr VXE_ELEM_HI c 0) ∧
        (∀ q b, q.number ≠ r.number → b < 2 ^ 32 → s'.shadow q b = s.shadow q b) ∧
        s.KeepsRegsBut s' [] ∧ s.KeepsMemory s') ∧
    (s.mayRead r (regAddr VXE_ELEM_HI c 0) = true →
      (s.readReg r (regAddr VXE_ELEM_HI c 0)).1 = s.shadow r (regAddr VXE_ELEM_HI c 0)) ∧
    (s.mayRead r TBC_NOW_LO.base = true →
      ∃ s', exec (.counterLoRead r TBC_NOW_LO.base) s = .next s' ∧
        s'.shadow r TBC_NOW_HI.base = BitVec.ofNat 32 (s.tb / 2 ^ 32 % 2 ^ 32) ∧ s.KeepsRegsBut s' [])

/-- FLAGS_RC_READ at the FLAGS_RC register of an engine instance, by a requester that may read it, returns the flags
as they stand and clears bits [3:0] and FIRST_STRAND of the engine's flag register, and changes no other register and
no memory. -/
def Obligations.FlagsRcRead : Prop :=
  ∀ (s : State) (r : Requester) (a : Nat) (e : FlagSet) (k : Nat),
    flagsRcAt a = some (e, k) → s.mayRead r a = true →
    (s.readReg r a).1 = s.rget (regAddr e.reg k 0) ∧
    ∃ s', exec (.flagsRcRead r a) s = .next s' ∧ s'.fget e.bits k = 0 ∧ s'.fget e.first k = 0 ∧
      s.KeepsRegsBut s' [regAddr e.reg k 0] ∧ s.KeepsMemory s'

/-- REENABLE_PORT by the owner, or by firmware for it, on an isolated port that the owner's session does not use
clears ISOLATED of that port and starts its violation counts again; through the same port, or by another requester, it
changes nothing. REENABLE_SLOTS by the owner makes exactly the isolated slots of that port in the mask FREE and no
longer isolated; by another requester it changes nothing. -/
def Obligations.PortReenable : Prop :=
  ∀ (s : State) (r : Requester) (p mask : Nat), p < 2 →
    (s.owns r = true → (∀ k, r = .session k → s.ctp.sessions.any (fun e => e.1 == k && e.2.port == p) = false) →
      s.fget CTP_PORT_STATUS_ISOLATED p = 1 →
      exec (.reenablePort r p) s = .next ((s.fset CTP_PORT_STATUS_ISOLATED 0 p).freshViols p)) ∧
    (∀ k, s.ctp.sessions.any (fun e => e.1 == k && e.2.port == p) = true →
      exec (.reenablePort (.session k) p) s = .next s) ∧
    (s.owns r = true → ∃ s', exec (.reenableSlots r p mask) s = .next s' ∧
      (∀ e, e ∈ s'.ctp.isolated ↔ e ∈ s.ctp.isolated ∧ ¬ (e.2.1 = p ∧ bitOf mask e.1 = true)) ∧
      (∀ e ∈ s.ctp.isolated, e.2.1 = p → bitOf mask e.1 = true → e.1 < 16 → s'.sessState e.1 = sessFree) ∧
      s.KeepsMemory s' ∧ s'.strands = s.strands) ∧
    (s.owns r = false → exec (.reenablePort r p) s = .next s ∧ exec (.reenableSlots r p mask) s = .next s)

/-- A CS.LD that issues with bits [49:0] 0 and a mapped, 4-aligned address in RA, while no release or full fence of
the strand at chamber scope or wider is pending, writes the value of the read into RD and moves PC by 8, and acquires
at chamber scope where it reads a CVU_STATUS that is DONE; a CS.ST under the same conditions moves PC by 8 and then
performs the write of RD at the address. While such a release or fence is pending both wait. With other bits set, or a
misaligned address, the strand's item ends 0x40 FORMAT_ERROR; at an unmapped address it ends 0x31, cause 2
OUTSIDE_CHAMBER. -/
def Obligations.ControlSpaceAccesses : Prop :=
  ∀ (s : State) (c t : Nat) (w : Word64),
    let x := s.strand c t
    let a := (x.reg (raOf w)).toNat
    let mask := regMask (rdOf w) ||| regMask (raOf w)
    let v := (s.readReg (.core c t) a).1
    let read := (s.readReg (.core c t) a).2
    let after := if cvuDone a v then { read with ms := read.ms.acquire c 2 } else read
    (s.issues c t 0xBA mask w → bitsOf w.toNat 49 0 = 0 → a % 4 = 0 → mapped a = true → s.ms.chamberRelease c t = false →
      exec (.csLd c t) s = .next (after.setStrand c t ((x.setReg (rdOf w) v).issued (x.pc + 8)))) ∧
    (s.issues c t 0xBB mask w → bitsOf w.toNat 49 0 = 0 → a % 4 = 0 → mapped a = true → s.ms.chamberRelease c t = false →
      exec (.csSt c t) s =
        .next ((s.setStrand c t (x.issued (x.pc + 8))).writeReg (.core c t) a (x.reg (rdOf w))).2) ∧
    (∀ p ∈ [(0xBA, Instr.csLd c t), (0xBB, Instr.csSt c t)], s.issues c t p.1 mask w →
      (bitsOf w.toNat 49 0 ≠ 0 ∨ a % 4 ≠ 0 → exec p.2 s = .next (s.failStrand c t 0x40 0)) ∧
      (bitsOf w.toNat 49 0 = 0 → a % 4 = 0 → mapped a = false → exec p.2 s = .next (s.failStrand c t 0x31 2)) ∧
      (bitsOf w.toNat 49 0 = 0 → a % 4 = 0 → mapped a = true → s.ms.chamberRelease c t = true →
        exec p.2 s = .next (s.setStrand c t { x with mode := .waiting, wait := .fence, run := 0 })))

/-- Each scalar instruction of arithmetic, logic, shift, comparison and address that issues writes to RD (S.ADDP: to
the pair RD and RD + 1) the result that the operation table gives, where the second source is RB when I is 0 and IMM
when I is 1; S.NOP writes nothing and S.YIELD makes the strand READY with a new readiness time. PC moves by 8, and
nothing but the strand's context changes: no flag, no register, no memory. -/
def Obligations.ScalarArithmetic : Prop :=
  ∀ (s : State) (c t : Nat) (w : Word64),
    let x := s.strand c t
    let imm := BitVec.ofNat 32 (bitsOf w.toNat 31 0)
    let b := if bitOf w.toNat 46 then imm else x.reg (rbOf w)
    let mask := regMask (rdOf w) ||| regMask (raOf w) ||| (if bitOf w.toNat 46 then 0 else regMask (rbOf w))
    (s.issues c t 0x01 (regMask (rdOf w)) w →
      exec (.sLi c t) s = .next (s.setStrand c t ((x.setReg (rdOf w) imm).issued (x.pc + 8)))) ∧
    (s.issues c t 0x02 (regMask (rdOf w) ||| regMask (raOf w)) w →
      exec (.sMov c t) s = .next (s.setStrand c t ((x.setReg (rdOf w) (x.reg (raOf w))).issued (x.pc + 8)))) ∧
    (s.issues c t 0x08 mask w →
      exec (.sAdd c t) s = .next (s.setStrand c t ((x.setReg (rdOf w) (x.reg (raOf w) + b)).issued (x.pc + 8)))) ∧
    (s.issues c t 0x09 mask w →
      exec (.sSub c t) s = .next (s.setStrand c t ((x.setReg (rdOf w) (x.reg (raOf w) - b)).issued (x.pc + 8)))) ∧
    (s.issues c t 0x0A mask w →
      exec (.sMul c t) s = .next (s.setStrand c t ((x.setReg (rdOf w) (x.reg (raOf w) * b)).issued (x.pc + 8)))) ∧
    (s.issues c t 0x0B mask w →
      exec (.sMulhu c t) s = .next (s.setStrand c t ((x.setReg (rdOf w) (BitVec.ofNat 32 ((x.reg (raOf w)).toNat * b.toNat / 2 ^ 32))).issued (x.pc + 8)))) ∧
    (s.issues c t 0x0C mask w →
      exec (.sAnd c t) s = .next (s.setStrand c t ((x.setReg (rdOf w) (x.reg (raOf w) &&& b)).issued (x.pc + 8)))) ∧
    (s.issues c t 0x0D mask w →
      exec (.sOr c t) s = .next (s.setStrand c t ((x.setReg (rdOf w) (x.reg (raOf w) ||| b)).issued (x.pc + 8)))) ∧
    (s.issues c t 0x0E mask w →
      exec (.sXor c t) s = .next (s.setStrand c t ((x.setReg (rdOf w) (x.reg (raOf w) ^^^ b)).issued (x.pc + 8)))) ∧
    (s.issues c t 0x0F mask w →
      exec (.sShl c t) s = .next (s.setStrand c t ((x.setReg (rdOf w) (x.reg (raOf w) <<< (b.toNat % 32))).issued (x.pc + 8)))) ∧
    (s.issues c t 0x10 mask w →
      exec (.sShr c t) s = .next (s.setStrand c t ((x.setReg (rdOf w) (x.reg (raOf w) >>> (b.toNat % 32))).issued (x.pc + 8)))) ∧
    (s.issues c t 0x11 mask w →
      exec (.sSra c t) s = .next (s.setStrand c t ((x.setReg (rdOf w) ((x.reg (raOf w)).sshiftRight (b.toNat % 32))).issued (x.pc + 8)))) ∧
    (s.issues c t 0x12 mask w →
      exec (.sSlt c t) s = .next (s.setStrand c t ((x.setReg (rdOf w) (if (x.reg (raOf w)).toInt < b.toInt then 1#32 else 0#32)).issued (x.pc + 8)))) ∧
    (s.issues c t 0x13 mask w →
      exec (.sSltu c t) s = .next (s.setStrand c t ((x.setReg (rdOf w) (if (x.reg (raOf w)).toNat < b.toNat then 1#32 else 0#32)).issued (x.pc + 8)))) ∧
    (s.issues c t 0x14 (pairMask (rdOf w) ||| pairMask (raOf w) ||| (if bitOf w.toNat 46 then 0 else regMask (rbOf w))) w →
      exec (.sAddp c t) s = .next (s.setStrand c t
        ((x.setPair (rdOf w) (((x.addrPair (raOf w) : Int) + b.toInt) % 2 ^ 57).toNat).issued (x.pc + 8)))) ∧
    (s.issues c t 0x2F 0 w → exec (.sNop c t) s = .next (s.setStrand c t (x.issued (x.pc + 8)))) ∧
    (s.issues c t 0x2A 0 w → exec (.sYield c t) s = .next (s.setStrand c t
      { x.issued (x.pc + 8) with mode := .ready, run := 0, readyAt := s.tb }))

/-- A branch that issues sets PC to PC + IMM, with IMM signed and addresses modulo 2^57, when its comparison of RA
with RB holds, and to PC + 8 otherwise; S.CALL also writes PC + 8 into the pair RD and RD + 1; S.JMP sets PC to the
pair at RA plus IMM. Nothing else of the strand's registers, no other strand, no register and no memory changes. -/
def Obligations.ScalarBranches : Prop :=
  ∀ (s : State) (c t : Nat) (w : Word64),
    let x := s.strand c t
    let mask := regMask (raOf w) ||| regMask (rbOf w)
    let imm : Int := (BitVec.ofNat 32 (bitsOf w.toNat 31 0)).toInt
    let target := (((x.pc : Int) + imm) % 2 ^ 57).toNat
    (s.issues c t 0x20 0 w → exec (.sBr c t) s = .next (s.setStrand c t (x.issued target))) ∧
    (s.issues c t 0x21 mask w →
      exec (.sBeq c t) s = .next (s.setStrand c t (x.issued (if x.reg (raOf w) = x.reg (rbOf w) then target else x.pc + 8)))) ∧
    (s.issues c t 0x22 mask w →
      exec (.sBne c t) s = .next (s.setStrand c t (x.issued (if x.reg (raOf w) ≠ x.reg (rbOf w) then target else x.pc + 8)))) ∧
    (s.issues c t 0x23 mask w →
      exec (.sBlt c t) s = .next (s.setStrand c t (x.issued (if (x.reg (raOf w)).toInt < (x.reg (rbOf w)).toInt then target else x.pc + 8)))) ∧
    (s.issues c t 0x24 mask w →
      exec (.sBge c t) s = .next (s.setStrand c t (x.issued (if (x.reg (rbOf w)).toInt ≤ (x.reg (raOf w)).toInt then target else x.pc + 8)))) ∧
    (s.issues c t 0x25 mask w →
      exec (.sBltu c t) s = .next (s.setStrand c t (x.issued (if (x.reg (raOf w)).toNat < (x.reg (rbOf w)).toNat then target else x.pc + 8)))) ∧
    (s.issues c t 0x26 mask w →
      exec (.sBgeu c t) s = .next (s.setStrand c t (x.issued (if (x.reg (rbOf w)).toNat ≤ (x.reg (raOf w)).toNat then target else x.pc + 8)))) ∧
    (s.issues c t 0x28 (pairMask (rdOf w)) w → exec (.sCall c t) s =
      .next (s.setStrand c t ((x.setPair (rdOf w) ((x.pc + 8) % 2 ^ 57)).issued target))) ∧
    (s.issues c t 0x29 (pairMask (raOf w)) w → exec (.sJmp c t) s =
      .next (s.setStrand c t (x.issued (((x.addrPair (raOf w) : Int) + imm) % 2 ^ 57).toNat)))

/-- After scalar register r of a strand is set, r reads the value and the seven others read as before; a pair set
reads back as the 57-bit address, with bits [31:25] of its odd register 0; an issued strand keeps its registers and
has PC modulo 2^57; setting the context of one strand leaves every other strand, every register, all memory and all
else of the state as before. -/
def Obligations.StrandContextFrame : Prop :=
  ∀ (s : State) (c t r v pc : Nat) (x : Strand) (w : Word),
    (∀ k, k < 8 → (x.setReg r w).reg k = if k = r then w else x.reg k) ∧
    (r % 2 = 0 → r < 8 → (x.setPair r v).addrPair r = v % 2 ^ 57 ∧ ((x.setPair r v).reg (r + 1)).toNat < 2 ^ 25) ∧
    (∀ k, (x.issued pc).reg k = x.reg k) ∧ (x.issued pc).pc = pc % 2 ^ 57 ∧
    (s.setStrand c t x).strand c t = x ∧ (t < 8192 → s.KeepsStrandsBut (s.setStrand c t x) c t) ∧
    { s.setStrand c t x with strands := s.strands } = s

/-- A strand that has issued 64 instructions in a row leaves the issue stage for READY with the timebase as its new
readiness time (STRAND_QUANTUM_END), and before that the command changes nothing; while it is ISSUING with fewer it is
the strand that issues next. Each scalar instruction that names registers waits while one of them awaits a value: its
strand leaves the issue stage, WAITING for those registers, and nothing else changes. -/
def Obligations.RegisterWaits : Prop :=
  ∀ (s : State) (c t : Nat), let x := s.strand c t
    (x.mode = .issuing → 64 ≤ x.run → exec (.strandQuantumEnd c t) s =
      .next (s.setStrand c t { x with mode := .ready, readyAt := s.tb, run := 0 })) ∧
    (x.mode ≠ .issuing ∨ x.run < 64 → exec (.strandQuantumEnd c t) s = .next s) ∧
    (∀ y, (s.boundStrands c).find? (fun e => e.2.mode == .issuing && !e.2.victim) = some (t, y) →
      s.issuer c = if y.run < 64 then some t else none) ∧
    (∀ w, s.canIssue c t w → ∀ p ∈
      [(0x01, regMask (rdOf w), Instr.sLi c t), (0x02, regMask (rdOf w) ||| regMask (raOf w), Instr.sMov c t),
       (0x08, aluMask w, Instr.sAdd c t), (0x09, aluMask w, Instr.sSub c t), (0x0A, aluMask w, Instr.sMul c t),
       (0x0B, aluMask w, Instr.sMulhu c t), (0x0C, aluMask w, Instr.sAnd c t), (0x0D, aluMask w, Instr.sOr c t),
       (0x0E, aluMask w, Instr.sXor c t), (0x0F, aluMask w, Instr.sShl c t), (0x10, aluMask w, Instr.sShr c t),
       (0x11, aluMask w, Instr.sSra c t), (0x12, aluMask w, Instr.sSlt c t), (0x13, aluMask w, Instr.sSltu c t),
       (0x14, pairMask (rdOf w) ||| pairMask (raOf w) ||| src2Mask w, Instr.sAddp c t),
       (0x21, branchMask w, Instr.sBeq c t), (0x22, branchMask w, Instr.sBne c t),
       (0x23, branchMask w, Instr.sBlt c t), (0x24, branchMask w, Instr.sBge c t),
       (0x25, branchMask w, Instr.sBltu c t), (0x26, branchMask w, Instr.sBgeu c t),
       (0x28, pairMask (rdOf w), Instr.sCall c t), (0x29, pairMask (raOf w), Instr.sJmp c t)],
      opcodeOf w = p.1 → x.notReady &&& p.2.1 ≠ 0 →
      exec p.2.2 s = .next (s.setStrand c t { x with mode := .waiting, wait := .regs p.2.1, run := 0 }))

/-- STRAND_WAKE of a WAITING strand whose condition is met makes it READY with the timebase as its readiness time and
changes nothing else; of any other strand it changes nothing. The condition is met: for registers, when all of them
hold values; for an engine, when its queue has room; for a message, when one has been given to the strand; for earlier
accesses, when the strand owes none; for its releases and fences at chamber scope or wider, when none is pending; for
the limit of unperformed lines, when the core has fewer than 32. A strand that waits for its item to end, a page, a
barrier or a sequence operation is not woken by this command. -/
def Obligations.StrandWake : Prop :=
  ∀ (s : State) (c t : Nat),
    let x := s.strand c t
    let woken := s.setStrand c t { x with mode := .ready, wait := .none, readyAt := s.tb, run := 0 }
    (x.mode = .waiting → s.waitMet c t x = true → exec (.strandWake c t) s = .next woken) ∧
    (x.mode ≠ .waiting ∨ s.waitMet c t x = false → exec (.strandWake c t) s = .next s) ∧
    (∀ m, x.wait = .regs m → (s.waitMet c t x = true ↔ x.notReady &&& m = 0)) ∧
    (∀ e, x.wait = .engine e → s.waitMet c t x = s.engineRoom c e) ∧
    (x.wait = .take → s.waitMet c t x = x.taken.isSome) ∧
    (x.wait = .release → s.waitMet c t x = !s.ms.owes c t s.ms.nextId) ∧
    (x.wait = .fence → s.waitMet c t x = !s.ms.chamberRelease c t) ∧
    (x.wait = .lines → (s.waitMet c t x = true ↔ (s.pendingLines c).length < 32)) ∧
    (x.wait = .ending ∨ x.wait = .pages ∨ x.wait = .sequence ∨ (∃ id rd, x.wait = .barrier id rd) → s.waitMet c t x = false)

/-- For a READY or ISSUING strand of a running core that holds no word and is not being pre-empted: a PC that is not a
multiple of 8 ends its item 0x35, cause 1; a fetched word that decode takes is held for issue; one that decode rejects
ends the item with the code and cause of the opcode map; a fetch that faults ends it with the fault. For any other
strand nothing changes. The opcode map: opcode 0, 0x30 to 0x3F and the values that no row lists are 0x35, cause 1; so
is a scalar word that is not listed, has a reserved bit, sets I where it must be 0 (for S.CALL the model's choice, log
entry 106), names an RD in a branch, RA or RB in S.BR, or an odd register of a pair; an unlisted vector opcode, an AOP
of 8 or more and an ORD of 0 in a fence are 0x40; every other word decodes. -/
def Obligations.InstructionFetch : Prop :=
  (∀ (s : State) (c t : Nat),
    let x := s.strand c t
    let may := c < 128 ∧ t < 8192 ∧ s.coreRuns c = true ∧ (x.mode = .ready ∨ x.mode = .issuing) ∧ x.ir = none ∧ x.victim = false
    (¬ may → exec (.instructionFetch c t) s = .next s) ∧
    (may → x.pc % 8 ≠ 0 → exec (.instructionFetch c t) s = .next (s.failStrand c t 0x35 1)) ∧
    (∀ w u, may → x.pc % 8 = 0 → s.fetchWord c (s.coreChamber c) x.pc = (.ok w, u) → let v := u.deliver
      (decodeFault w = none → exec (.instructionFetch c t) s = .next (v.setStrand c t { v.strand c t with ir := some w })) ∧
      (∀ e, decodeFault w = some e → exec (.instructionFetch c t) s = .next (v.failStrand c t e.1 e.2))) ∧
    (∀ f u, may → x.pc % 8 = 0 → s.fetchWord c (s.coreChamber c) x.pc = (.error f, u) →
      exec (.instructionFetch c t) s = .next (u.deliver.failStrand c t f.code f.cause))) ∧
  (∀ w : Word64, let op := opcodeOf w
    let alu := 0x08 ≤ op ∧ op ≤ 0x13
    let imm := bitOf w.toNat 46
    (1 ≤ op → op ≤ 0x2F → (decodeFault w = none ↔ bitsOf w.toNat 45 32 = 0 ∧
      (alu ∨ ((op = 0x01 ∨ op = 0x02) ∧ imm = false) ∨ (op = 0x14 ∧ rdOf w % 2 = 0 ∧ raOf w % 2 = 0) ∨
        (op = 0x20 ∧ imm = false ∧ rdOf w = 0 ∧ raOf w = 0 ∧ rbOf w = 0) ∨ (0x21 ≤ op ∧ op ≤ 0x26 ∧ imm = false ∧ rdOf w = 0) ∨
        (op = 0x28 ∧ imm = false ∧ rdOf w % 2 = 0) ∨ (op = 0x29 ∧ imm = false ∧ raOf w % 2 = 0) ∨ op = 0x2A ∨ op = 0x2F))) ∧
    (1 ≤ op → op ≤ 0x2F → decodeFault w = none ∨ decodeFault w = some (0x35, 1)) ∧
    (op = 0 ∨ (0x30 ≤ op ∧ op ≤ 0x3F) → decodeFault w = some (0x35, 1)) ∧
    (0x40 ≤ op → op ≤ 0x7F → decodeFault w =
      if op ∈ [0x40, 0x41, 0x42, 0x43, 0x44, 0x45, 0x46, 0x50, 0x51, 0x58, 0x59, 0x60, 0x64, 0x65, 0x66, 0x70] then none else some (0x40, 0)) ∧
    (0x80 ≤ op → op ∉ [0x80, 0x88, 0x89, 0x8A, 0x90, 0x91, 0x92, 0xA0, 0xA1, 0xA2, 0xA3, 0xA4, 0xB0, 0xB1, 0xB2, 0xB3, 0xB4, 0xB8,
      0xB9, 0xBA, 0xBB] → decodeFault w = some (0x35, 1)) ∧
    (op ∈ [0x80, 0x88, 0x89, 0x8A, 0x90, 0x91, 0x92, 0xA0, 0xA1, 0xA4, 0xB0, 0xB1, 0xB2, 0xB3, 0xB4, 0xB8, 0xB9, 0xBA, 0xBB] →
      decodeFault w = none) ∧
    (op = 0xA2 → decodeFault w = if 8 ≤ moAop w then some (0x40, 0) else none) ∧
    (op = 0xA3 → decodeFault w = if moOrd w = 0 then some (0x40, 0) else none))

/-- At the end of a 10 µs window in which the uncore, or a gallery with a live core, counted some handshake cycles,
its rate register holds VALID 1, CAPPED 0, the rate in M cycles/s rounded to nearest and the ratio to 2.4 G cycles/s
in units of 1/2048; the registers of a gallery without a live core and of its cores read 0. Memory and strands are as
before; the uncore's window changes no register but its rate and its lowest rate. -/
def Obligations.RateWindow : Prop :=
  ∀ (s : State) (d cycles : Nat) (cc : List Nat),
    let word := BitVec.ofNat 32 (2 ^ 31 + (cycles * 2048 * 2 + 24000) / 48000 % 4096 * 2 ^ 16 + (2 * cycles + 10) / 20 % 2 ^ 16)
    (∃ s', exec (.rateWindowEnd 16 cycles cc) s = .next s' ∧ s'.rget (regAddr PWR_RATE_UNC 0 0) = word ∧
      s'.fget PWR_RATE_LOW_UNC_VALID = 1 ∧
      s.KeepsRegsBut s' [regAddr PWR_RATE_UNC 0 0, regAddr PWR_RATE_LOW_UNC 0 0] ∧ s.KeepsMemory s' ∧
      s'.strands = s.strands) ∧
    (d < 16 → s.galleryLive d = true → ∃ s', exec (.rateWindowEnd d cycles cc) s = .next s' ∧
      s'.rget (regAddr PWR_RATE_G d 0) = word ∧ s'.fget PWR_RATE_LOW_G_VALID d = 1 ∧ s.KeepsMemory s' ∧
      s'.strands = s.strands) ∧
    (d < 16 → s.galleryLive d = false → ∃ s', exec (.rateWindowEnd d cycles cc) s = .next s' ∧
      s'.rget (regAddr PWR_RATE_G d 0) = 0#32 ∧ (∀ k, k < 8 → s'.rget (regAddr PWR_RATE_CORE (8 * d + k) 0) = 0#32) ∧
      s.KeepsMemory s' ∧ s'.strands = s.strands)

/-- By the owner session: STAGE with no load between commit and flip puts the loader in STAGING and erases the
inactive slot, and the active slot is as before; STAGE during a load, and COMMIT while a load runs or bring-up has not
passed stage 5, only count in SVY_REFUSALS; any other COMMIT puts the loader in CHECKING with the committing session
noted; ABORT in STAGING or CHECKING ends the load REFUSED with 0x10 ABANDONED and counts, and is ignored otherwise. By
any other requester each performs nothing but a count in SVY_REFUSALS. Memory and strands are as before. -/
def Obligations.SurveyStaging : Prop :=
  ∀ (s : State) (r : Requester),
    let counted := s.bump SVY_REFUSALS_COUNT
    (s.ownerSession r = true → s.svy.load = none → ∃ s', exec (.svyStage r) s = .next s' ∧
      s'.fget SVY_STATUS_STATE = svyStaging ∧ s'.surveySlot (1 - s.activeSlot) = [] ∧
      s'.surveySlot s.activeSlot = s.surveySlot s.activeSlot ∧ s.KeepsMemory s' ∧ s'.strands = s.strands) ∧
    (s.ownerSession r = true → s.svy.load.isSome = true → exec (.svyStage r) s = .next counted) ∧
    (s.ownerSession r = true → s.commitBusy = false → ∃ s', exec (.svyCommit r) s = .next s' ∧
      s'.fget SVY_STATUS_STATE = svyChecking ∧
      s'.svy.load = some { phase := .checking, session := s.fget CTP_OWNER_SLOT, viaMgc := false, image := [], changed := [] } ∧
      s'.svy.slotA = s.svy.slotA ∧ s'.svy.slotB = s.svy.slotB ∧ s.KeepsMemory s') ∧
    (s.ownerSession r = true → s.commitBusy = true → exec (.svyCommit r) s = .next counted) ∧
    (s.ownerSession r = true → s.svyState = svyStaging ∨ s.svyState = svyChecking →
      exec (.svyAbort r) s = .next (s.refuseLoad 0x10 0xFFFF)) ∧
    (s.ownerSession r = true → s.svyState ≠ svyStaging → s.svyState ≠ svyChecking → exec (.svyAbort r) s = .next s) ∧
    (s.ownerSession r = false → exec (.svyStage r) s = .next counted ∧ exec (.svyCommit r) s = .next counted ∧
      exec (.svyAbort r) s = .next counted) ∧
    (s.svy.load = none → ∀ code, code < 256 → (s.refuseLoad code 0xFFFF).fget SVY_STATUS_STATE = svyRefused ∧
      (s.refuseLoad code 0xFFFF).fget SVY_STATUS_ERR_CODE = code)

/-- While STAGING, words that the owner session writes into the window wait, after the bytes already waiting, to be
programmed at their offset, least significant byte first; any other window write changes nothing but SVY_REFUSALS.
When the oldest bytes are programmed they stand at their offset in the inactive slot, with erased flash reading 0xFF
below them, and no longer wait; the active slot is as before. -/
def Obligations.StagingWindow : Prop :=
  ∀ (s : State) (r : Requester) (off : Nat) (words : List Word),
    let bytes := words.flatMap (fun w => leBytes 4 w.toNat)
    (s.ownerSession r = true → s.svyState = svyStaging → off % 4 = 0 → off + bytes.length ≤ 2 ^ 25 →
      ∃ s', exec (.stagingWindowWrite r off words) s = .next s' ∧
        s'.svy.unprogrammed = s.svy.unprogrammed ++ [{ off := off, bytes := bytes, answer := none }] ∧
        { s' with svy := s.svy } = s) ∧
    (s.ownerSession r = false ∨ s.svyState ≠ svyStaging →
      exec (.stagingWindowWrite r off words) s = .next (s.bump SVY_REFUSALS_COUNT ((bytes.length + 3) / 4))) ∧
    (∀ x rest, s.svy.unprogrammed = x :: rest → x.answer = none → x.bytes ≠ [] →
      ∃ s', exec .stageBytesProgrammed s = .next s' ∧ s'.svy.unprogrammed = rest ∧
        s'.surveySlot (1 - s.activeSlot) = flashWrite (s.surveySlot (1 - s.activeSlot)) x.off x.bytes ∧
        s'.surveySlot s.activeSlot = s.surveySlot s.activeSlot ∧ { s' with svy := s.svy } = s) ∧
    (∀ x rest slot type seq cause, s.svy.unprogrammed = x :: rest → x.answer = some (slot, type, seq, cause) → x.bytes ≠ [] →
      ∃ s' : State, exec .stageBytesProgrammed s = .next (s'.answerLater slot type seq cause []) ∧ s'.svy.unprogrammed = rest ∧
        s'.surveySlot (1 - s.activeSlot) = flashWrite (s.surveySlot (1 - s.activeSlot)) x.off x.bytes ∧
        { s' with svy := s.svy } = s)

/-- With every staged byte programmed, SVY_CHECK ends the load REFUSED with the first failed check's code and section,
or moves it to DRAINING with its image and changed chambers, and stops those that are LIVE. SVY_ZEROISE moves a load
whose changed chambers of the old survey have drained to ZEROISING and begins the zeroisation of each, and does
nothing before. ZEROISE_DONE of an outstanding share removes that share, with every byte of the chamber on that stack
0 and no other byte changed, or every scratchpad byte of its galleries 0 and its slots empty with their generations;
of a share not outstanding it does nothing. Once no share is left SVY_APPLY moves the load to APPLYING and applies the
changed chambers and the ports from the image. SVY_FLIP ends the load: the active slot has flipped, the image is the
running survey, SVY_STATUS is IDLE and each changed chamber that was LOADING is LIVE (stated for a load of the control
port, a device past stage 2, and a survey that keeps the GROUP). A load in another phase is left as it is. -/
def Obligations.SurveyLoadSteps : Prop :=
  ∀ (s : State),
    let len := s.fget SVY_STAGE_LEN_LEN
    let img := flashRead (s.surveySlot (1 - s.activeSlot)) len
    (∀ l first u, s.svy.load = some l → l.phase = .checking → s.svy.unprogrammed = [] →
      s.checkStaged l.session img len = (first, u) →
      (∀ f, first = some f → exec .svyCheck s = .next (u.refuseLoad f.1 f.2)) ∧
      (first = none → let changed := u.changedBy img
        let v := u.wset SVY_STATUS (3 * 2 ^ 28 + 0xFFFF)
        let x : State := { v with svy := { v.svy with load := some { l with phase := .draining, image := img, changed := changed } } }
        exec .svyCheck s = .next ((changed.filter x.chLive).foldl (fun s n => s.stopChamber n) x))) ∧
    (∀ l, s.svy.load = some l → l.phase = .draining → let old := l.changed.filter (fun n => (s.chamber n).kind != 0)
      (old.all s.drained = true → exec .svyZeroise s =
        .next (old.foldl (fun s n => s.zeroBegin n) ((s.wset SVY_STATUS (4 * 2 ^ 28 + 0xFFFF)).loadPhase l .zeroising))) ∧
      (old.all s.drained = false → exec .svyZeroise s = .next s)) ∧
    (∀ n share, (s.svy.zeroing.contains (n, share) = true → exec (.zeroiseDone n share) s = .next (s.zeroShare n share) ∧
        (s.zeroShare n share).svy.zeroing = s.svy.zeroing.filter (fun e => e != (n, share))) ∧
      (s.svy.zeroing.contains (n, share) = false → exec (.zeroiseDone n share) s = .next s)) ∧
    (∀ n st, let t := s.zeroShare n (some st)
      (∀ a, hbmBase n ≤ a → a < hbmBase n + (s.chamber n).memSize →
        ((s.chamber n).interleave (a - hbmBase n)).1 = st → t.byte a = 0#8) ∧
      (∀ a, ¬ (hbmBase n ≤ a ∧ a < hbmBase n + (s.chamber n).memSize ∧ ((s.chamber n).interleave (a - hbmBase n)).1 = st) →
        t.byte a = s.byte a)) ∧
    (∀ n, let t := s.zeroShare n none
      (∀ g a, g ∈ s.galleriesOf n → scratchBase (8 * g) ≤ a → a < scratchBase (8 * g + 8) → t.byte a = 0#8) ∧
      (∀ id, (s.slot id).owner = some n → (t.slot id).owner = none ∧ (t.slot id).content = [] ∧ (t.slot id).gen = (s.slot id).gen)) ∧
    (∀ l, s.svy.load = some l → l.phase = .zeroising →
      (s.svy.zeroing = [] → exec .svyApply s =
        .next ((l.changed.foldl (fun s n => s.applyChamber l.image n)
          ((s.wset SVY_STATUS (5 * 2 ^ 28 + 0xFFFF)).loadPhase l .applying)).applyPorts (portsOf l.image))) ∧
      (s.svy.zeroing ≠ [] → exec .svyApply s = .next s)) ∧
    (∀ l, s.svy.load = some l → l.phase = .applying → l.viaMgc = false → s.pwr.waiting = false → s.fab.group = groupOf l.image →
      ∃ t, exec .svyFlip s = .next t ∧ t.svy.load = none ∧ t.svy.running = l.image ∧ t.fget SVY_STATUS_STATE = svyIdle ∧
        t.activeSlot = 1 - s.activeSlot ∧ s.KeepsMemory t ∧
        (∀ n ∈ l.changed, n < 16 → s.fget CHB_STATE_STATE n = chbLoading → t.fget CHB_STATE_STATE n = chbLive)) ∧
    (∀ l, s.svy.load = some l → (l.phase ≠ .checking → exec .svyCheck s = .next s) ∧
      (l.phase ≠ .draining → exec .svyZeroise s = .next s) ∧ (l.phase ≠ .zeroising → exec .svyApply s = .next s) ∧
      (l.phase ≠ .applying → exec .svyFlip s = .next s))

/-- Stopping a chamber that holds no queue, no engine instruction and no slot write makes it DRAINING and leaves
memory as it was; beginning its zeroisation makes it ZEROISING with its galleries' share and one share per stack
outstanding; a LOADING chamber becomes LIVE and its load is counted, and a chamber in another state is left as it is. -/
def Obligations.ChamberGoesLive : Prop :=
  ∀ (s : State) (n : Nat), n < 16 →
    (s.heldQueues n = [] → s.engOps = [] → (∀ g, s.writeOf g = none) →
      (s.stopChamber n).fget CHB_STATE_STATE n = chbDraining ∧ s.KeepsMemory (s.stopChamber n)) ∧
    (s.zeroBegin n).svy.zeroing =
      s.svy.zeroing ++ (n, none) :: (maskBits 16 (s.chamber n).stackMask).map (fun st => (n, some st)) ∧
    (s.heldQueues n = [] → (s.zeroBegin n).fget CHB_STATE_STATE n = chbZeroising) ∧
    (s.fget CHB_STATE_STATE n = chbLoading → (s.goLive n).fget CHB_STATE_STATE n = chbLive ∧
      (s.goLive n).fget CHB_LOADS_COUNT n = min (2 ^ 32 - 1) (s.fget CHB_LOADS_COUNT n + 1)) ∧
    (s.fget CHB_STATE_STATE n ≠ chbLoading → s.goLive n = s)

/-- GO by a requester that may write the instance, with no write of the instance running, is refused with the RESULT
of the first of R180's cases that holds: a slot of another chamber, a chamber not LIVE, a slot that a write holds, a
length its kind does not admit, NOWAIT with references. Else, for a slot that items reference, it makes the write HELD
and closes the slot. A HELD write whose references reach 0 becomes WRITING and its payload is read; a payload that its
kind admits is kept, one that it does not admit is refused BAD_CONTENT, and one that faults SOURCE_FAULT. A HELD write
past HOLD_US with references ends REFUSED, HOLD_EXPIRED; one abandoned by ABORT ends REFUSED, ABANDONED; the slot
keeps its content and reopens, and the instructions it held are decoded. A WRITING write that ends sets the content to
the payload, advances GEN by 1 skipping 0, reopens the slot, and decodes what it held. GO while a write of the
instance runs only counts. -/
def Obligations.SlotWrites : Prop :=
  ∀ (s : State) (r : Requester) (g : Nat),
    let asked := fun (nowait : Bool) (hold : Nat) => (s.fset CDC_WCTRL_NOWAIT (b2n nowait) g).fset CDC_WCTRL_HOLD_US hold g
    let id := bitsOf (s.sel r (regAddr CDC_SLOT_SEL g 0)).toNat 8 0
    let len := s.fget CDC_WLEN_LEN g
    let ended := fun (s : State) (k res : Nat) =>
      ((s.setSlot k { s.slot k with write := none }).wset CDC_WSTATUS (4 * 2 ^ 28 + res * 2 ^ 16) g).decodeAll
    (∀ n hold, s.mayWriteGallery r g = true → s.writeOf g = none → s.chamberOf g = some n → s.chLive n = true → n < 16 →
      g < 16 → (s.slot id).owner = some n → (s.slot id).write = none →
      lengthOk (slotKind id) len = true → s.slotRefs id ≠ 0 →
      ∃ t, exec (.slotWrite r g false hold) s = .next t ∧ t.fget CDC_WSTATUS_WSTATE g = 1 ∧
        (t.slot id).write = some {
          gallery := g, chamber := n, writing := false,
          src := s.fget CDC_WSRC_LO_ADDR g + 2 ^ 32 * s.fget CDC_WSRC_HI_ADDR g, len := len,
          holdUs := hold % 2 ^ 16, goAt := s.now, payload := [] } ∧
        (t.slot id).content = (s.slot id).content ∧ s.KeepsMemory t) ∧
    (∀ n nowait hold, s.mayWriteGallery r g = true → s.writeOf g = none → s.chamberOf g = some n → n < 16 → g < 16 →
      let refused := fun (res : Nat) => exec (.slotWrite r g nowait hold) s =
        .next ((asked nowait hold).wset CDC_WSTATUS (4 * 2 ^ 28 + res * 2 ^ 16) g)
      ((s.slot id).owner ≠ some n → refused 1) ∧
      ((s.slot id).owner = some n → s.chLive n = false → refused 8) ∧
      ((s.slot id).owner = some n → s.chLive n = true → (s.slot id).write.isSome = true → refused 2) ∧
      ((s.slot id).owner = some n → s.chLive n = true → (s.slot id).write = none → lengthOk (slotKind id) len = false → refused 5) ∧
      ((s.slot id).owner = some n → s.chLive n = true → (s.slot id).write = none → lengthOk (slotKind id) len = true →
        nowait = true → s.slotRefs id ≠ 0 → refused 3)) ∧
    (∀ nowait hold, s.mayWriteGallery r g = true → (s.writeOf g).isSome = true →
      exec (.slotWrite r g nowait hold) s = .next ((asked nowait hold).bump CDC_GO_IGNORED_COUNT 1 g)) ∧
    (∀ nowait hold, s.mayWriteGallery r g = false → exec (.slotWrite r g nowait hold) s = .next s) ∧
    (∀ k w, s.writeOf g = some (k, w) → w.writing = false → s.slotRefs k = 0 →
      exec (.slotWriteWriting g) s = .next (((s.setSlot k { s.slot k with write := some { w with writing := true } }).wset CDC_WSTATUS
        (2 * 2 ^ 28) w.gallery).readPayload k { w with writing := true })) ∧
    (∀ k w b u, w.gallery = g → s.readVa (reqCdc g) w.chamber w.src w.len = (.ok b, u) →
      (contentOk (slotKind k) b = true → (slotKind k = 2 → (parseFn b).seamsOk = true) →
        s.checkPayload k w = u.setSlot k { u.slot k with write := some { w with payload := b } }) ∧
      (contentOk (slotKind k) b = false → s.checkPayload k w = ended u k 6) ∧
      (contentOk (slotKind k) b = true → slotKind k = 2 → (parseFn b).seamsOk = false → s.checkPayload k w = ended u k 7)) ∧
    (∀ k w f u, w.gallery = g → s.readVa (reqCdc g) w.chamber w.src w.len = (.error f, u) → s.checkPayload k w = ended u k 9) ∧
    (∀ k w, s.writeOf g = some (k, w) → w.writing = false → w.holdUs ≠ 0 → w.goAt + 1000 * w.holdUs ≤ s.now →
      s.slotRefs k ≠ 0 → exec (.holdExpired g) s = .next (ended s k 4)) ∧
    (∀ k w, s.mayWriteGallery r g = true → s.writeOf g = some (k, w) → w.writing = false →
      exec (.slotWriteAbort r g) s = .next (ended s k 10)) ∧
    (∀ k w, s.mayWriteGallery r g = true → s.writeOf g = some (k, w) → w.writing = true →
      exec (.slotWriteAbort r g) s = .next s) ∧
    (∀ k w, s.writeOf g = some (k, w) → w.writing = true → w.payload ≠ [] →
      ∃ t, exec (.slotWriteDone g) s = .next (State.decodeAll t) ∧ (t.slot k).content = w.payload ∧ (t.slot k).write = none ∧
        (t.slot k).gen = (if (s.slot k).gen = 0xFFFF then 1 else (s.slot k).gen + 1) ∧
        (∀ j, j ≠ k → t.slot j = s.slot j) ∧ s.KeepsMemory t ∧ s.KeepsRegsBut t [regAddr CDC_WSTATUS g 0] ∧
        (s.engOps = [] → t.decodeAll = t))

/-- Each of VX_ADD, VX_SUB, VX_MUL, VX_FMA, VX_MAX, VX_MIN, VX_UN, VX_CMP, VX_SEL, VX_CVT, VX_CSTORE, VX_RED,
VX_RSTAT, VX_RMSN, VX_SMAX and VX_FN that issues with room in the VXE's queue, every instruction before it decoded and
no write of the slot it names, and with a word and operands that command decode accepts, stands last in the queue,
decoded, with the values of its six registers copied; its strand goes on with RS awaiting the status word; memory,
every register word and every other strand are as before. One that decode rejects ends its item 0x40 FORMAT_ERROR; one
whose slot is being written and on which its item holds no reference is held in the queue and counted; with no room
the strand waits. -/
def Obligations.VectorIssue : Prop :=
  ∀ (s : State) (c t : Nat) (w : Word64),
    let regs := [rdOf w, raOf w, rbOf w, bitsOf w.toNat 46 44, bitsOf w.toNat 43 41, bitsOf w.toNat 40 38].map
      (fun r => ((s.strand c t).reg r).toNat)
    let o := s.newOp .vxe c t (bitsOf w.toNat 37 35) w [] regs
    let e := s.enqueue c t (s.strand c t) w .vxe (bitsOf w.toNat 37 35) [] regs
    let ok := s.vxOk (s.coreChamber c) w (VxRegs.of regs)
    let after : State → Prop := fun s' =>
      (s.engineRoom c 1 = true → s.DecodedUp (4 * c + 1) →
        ((∀ id ∈ vxSlots w, (s.slot id).write = none) →
          (ok = true → s.Queued s' { o with decoded := true } ∧ s.KeepsRegsBut s' []) ∧
          (ok = false → s' = e.engFailed o 0x40 0)) ∧
        ((∃ id ∈ vxSlots w, s.closedTo o.item id = true) → s' = e.gate o)) ∧
      (s.engineRoom c 1 = false → s' = s.waitsFor c t (.engine 1))
    (s.issues c t 0x40 (vxMask w) w → ∃ s', exec (.vxAdd c t) s = .next s' ∧ after s') ∧
    (s.issues c t 0x41 (vxMask w) w → ∃ s', exec (.vxSub c t) s = .next s' ∧ after s') ∧
    (s.issues c t 0x42 (vxMask w) w → ∃ s', exec (.vxMul c t) s = .next s' ∧ after s') ∧
    (s.issues c t 0x43 (vxMask w) w → ∃ s', exec (.vxFma c t) s = .next s' ∧ after s') ∧
    (s.issues c t 0x44 (vxMask w) w → ∃ s', exec (.vxMax c t) s = .next s' ∧ after s') ∧
    (s.issues c t 0x45 (vxMask w) w → ∃ s', exec (.vxMin c t) s = .next s' ∧ after s') ∧
    (s.issues c t 0x46 (vxMask w) w → ∃ s', exec (.vxUn c t) s = .next s' ∧ after s') ∧
    (s.issues c t 0x50 (vxMask w) w → ∃ s', exec (.vxCmp c t) s = .next s' ∧ after s') ∧
    (s.issues c t 0x51 (vxMask w) w → ∃ s', exec (.vxSel c t) s = .next s' ∧ after s') ∧
    (s.issues c t 0x58 (vxMask w) w → ∃ s', exec (.vxCvt c t) s = .next s' ∧ after s') ∧
    (s.issues c t 0x59 (vxMask w) w → ∃ s', exec (.vxCstore c t) s = .next s' ∧ after s') ∧
    (s.issues c t 0x60 (vxMask w) w → ∃ s', exec (.vxRed c t) s = .next s' ∧ after s') ∧
    (s.issues c t 0x64 (vxMask w) w → ∃ s', exec (.vxRstat c t) s = .next s' ∧ after s') ∧
    (s.issues c t 0x65 (vxMask w) w → ∃ s', exec (.vxRmsn c t) s = .next s' ∧ after s') ∧
    (s.issues c t 0x66 (vxMask w) w → ∃ s', exec (.vxSmax c t) s = .next s' ∧ after s') ∧
    (s.issues c t 0x70 (vxMask w) w → ∃ s', exec (.vxFn c t) s = .next s' ∧ after s')

/-- On finite elements VX.ADD, VX.SUB, VX.MUL and VX.FMA form the exact sum, difference, product and product plus
addend before the one rounding, the sum and the product never invalid; VX.UN clears or inverts the sign; a NaN first
operand of an addition gives NaN, and +∞ plus −∞ gives NaN and is invalid; the four comparisons of a NaN are false but
for the second, not-equal, and 0 equals −0; a softmax row with a NaN gives NaN everywhere, and a row that is −∞
everywhere gives 0 everywhere. -/
def Obligations.VectorResults : Prop :=
  (∀ a b d : Val, a.isFin = true → b.isFin = true → d.isFin = true →
    (vxArith vAdd 0 a b .zero).1.rat = a.rat + b.rat ∧ (vxArith vSub 0 a b .zero).1.rat = a.rat - b.rat ∧
    (vxArith vMul 0 a b .zero).1.rat = a.rat * b.rat ∧ (vxArith vFma 0 a b d).1.rat = a.rat * b.rat + d.rat ∧
    (vxArith vAdd 0 a b .zero).2 = false ∧ (vxArith vMul 0 a b .zero).2 = false ∧ (vxArith vUn 1 a .zero .zero).1.rat = -a.rat) ∧
  (∀ (n : Bool) (m : Rat), (vxArith vUn 0 (.fin n m) .zero .zero).1 = .fin false m) ∧
  (∀ b, (vxArith vAdd 0 .nan b .zero).1 = .nan) ∧
  vxArith vAdd 0 (.inf false) (.inf true) .zero = (.nan, true) ∧
  (∀ b, vxCompare 0 .nan b = false ∧ vxCompare 1 .nan b = true ∧ vxCompare 2 .nan b = false ∧ vxCompare 3 .nan b = false) ∧
  vxCompare 0 (.fin false 0) (.fin true 0) = true ∧
  (∀ (s : State) (T : FnTable) (xs : List Val), xs.any Val.isNan = true →
    ((s.smaxRow T xs).1.out = xs.map (fun _ => .nan) ∧ (s.smaxRow T xs).2 = s)) ∧
  (∀ (s : State) (T : FnTable) (xs : List Val), (∀ x ∈ xs, x = .inf true) → xs ≠ [] →
    (s.smaxRow T xs).1.out = xs.map (fun _ => .zero))

/-- What the queue still awaited is decoded first. The head of a VXE queue that is decoded, not aborted, without a
status word, and whose strand's earlier accesses are performed, computes; when that and its writes succeed it is
served with the flags of both engines in its status word, else its item ends with the code of the fault, or 0x34 for a
bad coded block. Such a head of an MXE queue computes its tile and drains it, once the lines of other devices that it
reads are at hand; when all lines are written an unsampled one is served with its flags, a sampled one keeps its
status word for the compare, and a write that fails ends the item. A head with a status word ends once no line awaits
an acknowledgement and no checker is left. DUP_COMPARE, on a sampled head with no line awaiting one, compares every
element of both outputs: a mismatch counts and reports both cores and ends the item 0x36, else the sample is counted,
the worst ratio kept and the instruction over. Such a head of an ATU queue is run: AT.SEQ, AT.APPEND or AT.RUN; then
the queue goes on. What an engine's accesses met is taken by the monitor. With no such head, nothing but that decode,
and for the ATU an AT.SEQ at the head, happens. -/
def Obligations.EngineCompletion : Prop :=
  ∀ (s : State) (c : Nat),
    (let u := s.vxAdvance c
     (u.engHead c .vxe = none → exec (.vxeComplete c) s = .next u) ∧
     (∀ o, u.engHead c .vxe = some o → o.aborted = true ∨ o.status.isSome = true ∨ u.engReady o = false →
       exec (.vxeComplete c) s = .next u) ∧
     (∀ o, u.engHead c .vxe = some o → o.aborted = false → o.status = none → u.engReady o = true →
       let y := u.vxRunOf o
       (∀ z v, u.vxCompute y = (.ok z, v) →
         (∀ x, v.vxWrite y z = (none, x) →
           exec (.vxeComplete c) s = .next (x.engServed o (statusWord 0 false (z.vfl.or z.sfl))).deliver) ∧
         (∀ f x, v.vxWrite y z = (some f, x) → exec (.vxeComplete c) s = .next (x.engFailed o f.code f.cause).deliver)) ∧
       (∀ f v, u.vxCompute y = (.error (.inl f), v) → exec (.vxeComplete c) s = .next (v.engFailed o f.code f.cause).deliver) ∧
       (∀ k v, u.vxCompute y = (.error (.inr k), v) → exec (.vxeComplete c) s = .next (v.engFailed o 0x34 k).deliver))) ∧
    (let u := s.mxAdvance c
     (u.engHead c .mxe = none → exec (.mxRunComplete c) s = .next u) ∧
     (∀ o, u.engHead c .mxe = some o → o.aborted = true ∨ u.engReady o = false → exec (.mxRunComplete c) s = .next u) ∧
     (∀ o, u.engHead c .mxe = some o → o.aborted = false → u.engReady o = true →
       (o.status = none → u.awaitsNoRead (.eng o.id) → ((u.asksAs (.eng o.id)).mxCompute o).ms.wanted = [] →
         exec (.mxRunComplete c) s = .next (((u.asksAs (.eng o.id)).mxCompute o).readAll (.eng o.id)).deliver) ∧
       (o.status = none → ¬u.awaitsNoRead (.eng o.id) → exec (.mxRunComplete c) s = .next u.deliver) ∧
       (∀ v, o.status = some v → exec (.mxRunComplete c) s =
         .next (if o.checker = none ∧ u.awaits (.eng o.id) = false then u.engOver o v else u)))) ∧
    (∀ (u : State) (o : EngOp) (a : Tile), o.tile = some a →
      (∀ f k v, u.engWrites o (u.coreChamber o.core) a.left = ((some f, k), v) → u.mxCompute o =
        ((v.watch o.core (pfRnd (o.aux.headD 0)) (a.wrote k).watched).raise .mxe o.core o.strand a.flags).engFailed o f.code f.cause) ∧
      (∀ k v, u.engWrites o (u.coreChamber o.core) a.left = ((none, k), v) →
        let z := ((v.watch o.core (pfRnd (o.aux.headD 0)) a.seen).raise .mxe o.core o.strand a.flags).mxCount o.core (o.aux.headD 0)
          (parseMx o.desc)
        (o.sampled = false → u.mxCompute o = z.engServed o (statusWord 0 false a.flags)) ∧
        (o.sampled = true → u.mxCompute o = z.modEng o.id (fun o => { o with status := some (statusWord 0 true a.flags) })))) ∧
    (∀ (u : State) (o : EngOp), o.tile = none →
      (∀ v, u.mxForm o = (none, v) → u.mxCompute o = v) ∧
      (∀ a v, u.mxForm o = (some a, v) → u.mxCompute o = v.mxDrain o a a.left.length)) ∧
    (∀ o v d upset, s.engHead c .mxe = some o → o.aborted = false → o.status = some v → o.checker = some d →
      s.awaits (.eng o.id) = false →
      let x := parseMx o.desc
      let worst := dupWorst (upsetCopy o.dup upset) (pfC (o.aux.headD 0)) (x.k + b2n x.accIn) (s.dupTol c)
      (worst = none → exec (.dupCompare c upset) s = .next ((s.dupMismatch c d o.strand).engFailed o 0x36 0)) ∧
      (∀ r, worst = some r → ∃ b, exec (.dupCompare c upset) s = .next (b.engOver o v) ∧
        b.fget MXE_DUP_SAMPLED_COUNT c = min (2 ^ 32 - 1) (s.fget MXE_DUP_SAMPLED_COUNT c + 1) ∧
        b.fget MXE_DUP_WORST_RATIO c = max r (s.fget MXE_DUP_WORST_RATIO c) % 2 ^ 16 ∧ s.KeepsMemory b ∧ b.strands = s.strands)) ∧
    (let u := s.decodePass atDecoder (fun o => o.core == c && o.eng == .atu)
     (u.engHead c .atu = none → exec (.atuComplete c) s = .next (u.atAdvance c).deliver) ∧
     (∀ o, u.engHead c .atu = some o → o.aborted = true ∨ o.status.isSome = true ∨ o.aux.headD 0 = 1 ∨ u.engReady o = false →
       exec (.atuComplete c) s = .next (u.atAdvance c).deliver) ∧
     (∀ o, u.engHead c .atu = some o → o.aborted = false → o.status = none → o.aux.headD 0 ≠ 1 → u.engReady o = true →
       (opcodeOf o.word = 0x8A → exec (.atuComplete c) s = .next ((u.seqRun o).atAdvance c).deliver) ∧
       (u.awaitsNoRead (.eng o.id) → opcodeOf o.word = 0x89 → ((u.asksAs (.eng o.id)).appendRun o).ms.wanted = [] →
         exec (.atuComplete c) s = .next ((((u.asksAs (.eng o.id)).appendRun o).readAll (.eng o.id)).atAdvance c).deliver) ∧
       (u.awaitsNoRead (.eng o.id) → opcodeOf o.word = 0x88 → ((u.asksAs (.eng o.id)).attendRun o).ms.wanted = [] →
         exec (.atuComplete c) s = .next ((((u.asksAs (.eng o.id)).attendRun o).readAll (.eng o.id)).atAdvance c).deliver)))

/-- A status word holds the code in bits [31:24], SAMPLED in bit 7 and the four flags of the instruction in bits
[3:0]. When it is written into SREG of a strand and the instruction's item is over or has not ended, with no trace of
the core's chamber running, SREG holds it and awaits nothing, the strand's seven other registers and its PC are as
before, memory is as before, and the instruction is no longer queued. -/
def Obligations.StatusWord : Prop :=
  (∀ (code : Nat) (sampled : Bool) (f : Flags), code < 256 →
    bitsOf (statusWord code sampled f) 31 24 = code ∧ bitsOf (statusWord code sampled f) 7 7 = b2n sampled ∧
    bitsOf (statusWord code sampled f) 3 0 = f.bits) ∧
  (∀ (s : State) (o : EngOp) (v : Nat), o.core < 128 → o.strand < 8192 → o.sreg < 8 →
    (∀ i, s.item o.item = some i → i.ending = none) → s.traceChamber o.core = none →
    let x := (s.writeStatus o v).strand o.core o.strand
    x.reg o.sreg = BitVec.ofNat 32 v ∧ x.notReady &&& regMask o.sreg = 0 ∧ x.pc = (s.strand o.core o.strand).pc ∧
    (∀ k, k < 8 → k ≠ o.sreg → x.reg k = (s.strand o.core o.strand).reg k) ∧
    (∀ p ∈ (s.writeStatus o v).engOps, p.id ≠ o.id) ∧ s.KeepsMemory (s.writeStatus o v))

/-- An aborted head of a VXE queue whose strand's earlier accesses are performed first writes its results up to an
open boundary, none for boundary 0; one of an ATU queue that is no AT.SEQ likewise keeps what it wrote up to an open
boundary, where the lines it reads are at hand. Then the first aborted instruction of the engine and the aborted ones
of its item in that engine are gone, each counted with the code of its item, the item may end, the count of aborts
rises by their number, and the queue goes on. With no aborted instruction of the engine nothing changes. RTE_ABORT_ACK
ends every aborted routing or exchange instruction of the gallery, one after another, each after its end markers are
sent, and the gallery's queue goes on. -/
def Obligations.EngineAborts : Prop :=
  ∀ (s : State) (c : Nat),
    let first := fun (u : State) e => u.engOps.find? (fun p => p.core == c && p.eng == e && p.aborted)
    let after := fun (u : State) (o : EngOp) (f : Fld) =>
      ((u.withoutAborted o).settle o.item).bump f (u.abortedWith o).length c
    (let v := match s.engHead c .vxe with
       | some o => if o.aborted && s.engReady o then (s.vxStop o).deliver else s
       | none => s
     (∀ o, first v .vxe = some o → exec (.vxeAbortAck c) s = .next ((after v o VXE_ABORTS_COUNT).vxAdvance c)) ∧
     (first s .vxe = none → exec (.vxeAbortAck c) s = .next s)) ∧
    (∀ o k u, s.draw ((s.vxRunOf o).parts + 1) = (k, u) →
      (k = 0 → s.vxStop o = u) ∧
      (∀ z v, k ≠ 0 → u.vxCompute ((s.vxRunOf o).part k) = (.ok z, v) →
        s.vxStop o = (v.vxWrite ((s.vxRunOf o).part k) z).2)) ∧
    (∀ o, first s .mxe = some o → exec (.mxeAbortAck c) s = .next ((after s o MXE_ABORTS_COUNT).mxAdvance c)) ∧
    (first s .mxe = none → exec (.mxeAbortAck c) s = .next s) ∧
    (let v := match s.engHead c .atu with
       | some o =>
         if o.aborted && opcodeOf o.word != 0x8A && o.aux.headD 0 == 0 && o.status.isNone && s.engReady o then
           s.unlessRemote (.eng o.id) (fun s => if opcodeOf o.word = 0x89 then s.appendStop o else s.attendStop o)
         else s
       | none => s
     (∀ o, first v .atu = some o → exec (.atuAbortAck c) s = .next ((after v o ATU_ABORTS_COUNT).atAdvance c).deliver) ∧
     (first s .atu = none → exec (.atuAbortAck c) s = .next s)) ∧
    (∀ g, exec (.rteAbortAck g) s = .next
      (((s.engOps.filter (fun o => o.aborted && o.core / 8 == g && (o.eng == .rte || o.eng == .xce))).foldl (fun s o =>
        (((s.markAll o.id).opEnded o (s.endCode o.item) 0).dropEng o.id).settle o.item) s).rtAdvance g).deliver)

/-- An MX.RUN that issues: a word with reserved bits or a misaligned descriptor ends its item 0x40; with no room in
the queue its strand waits for it, and with an earlier access of its program order unperformed for that; a fault in
the copy of the descriptor ends the item with its code. Else the descriptor is copied and the instruction sampled or
not; with room still, the instructions before it decoded and no write of a slot it names, one that decode accepts
stands last in the queue, decoded, with its profile, and its strand goes on with SREG awaiting the status word; one
that decode rejects ends its item 0x40; one with a slot being written on which its item holds no reference is held and
counted. The owner's write of MXE_DUP_CTRL sets its fields, and reloads the sample counter when ENABLE or RATE_LOG2
changes. A write of SR_SEED_HI by code that may write the core makes the generator the written high half with the low
half last written, 1 in place of 0. -/
def Obligations.MatrixIssue : Prop :=
  ∀ (s : State) (c t : Nat) (w : Word64) (r : Requester),
    let off := bitsOf w.toNat 20 0
    let sreg := bitsOf w.toNat 55 53
    let good := bitsOf w.toNat 52 21 = 0 ∧ off % 128 = 0
    (s.issues c t 0x80 (regMask sreg) w →
      (¬good → exec (.mxRun c t) s = .next ((s.mxEnded c t 0x40).failStrand c t 0x40 0)) ∧
      (good → s.engineRoom c 0 = false → exec (.mxRun c t) s = .next (s.waitsFor c t (.engine 0))) ∧
      (good → s.engineRoom c 0 = true →
        (s.ms.owes c t s.ms.nextId = true → exec (.mxRun c t) s = .next (s.waitsFor c t .release)) ∧
        (∀ f u, s.ms.owes c t s.ms.nextId = false → s.ownScratch c off 128 = (.error f, u) →
          exec (.mxRun c t) s = .next ((u.deliver.mxEnded c t f.code).failMem c t f)) ∧
        (∀ d v k x, s.copied c t off 128 d v → v.sample c ((s.strand c t).current.getD ⟨0, 0, none⟩) (parseMx d).noDup = (k, x) →
          x.strand c t = s.strand c t → x.engineRoom c 0 = true → x.DecodedUp (4 * c) →
          let o := { x.newOp .mxe c t sreg w d [] with sampled := k.isSome, checker := k }
          let e := x.enqueue c t (s.strand c t) w .mxe sreg d [] k.isSome k
          let p := x.mxProfile (x.coreChamber c) (parseMx d)
          ((∀ id ∈ mxSlots p (parseMx d), (x.slot id).write = none) →
            (x.mxOk (x.coreChamber c) d = true → ∃ s', exec (.mxRun c t) s = .next s' ∧
              x.Queued s' { o with decoded := true, aux := [p] } ∧ x.KeepsRegsBut s' []) ∧
            (x.mxOk (x.coreChamber c) d = false → exec (.mxRun c t) s = .next (e.engFailed o 0x40 0))) ∧
          ((∃ id ∈ mxSlots p (parseMx d), x.closedTo o.item id = true) → exec (.mxRun c t) s = .next (e.gate o))))) ∧
    (∀ enable rate tol, s.owns r = true → c < 128 → enable < 2 → rate < 32 →
      ∃ s', exec (.mxeDupCtrlWrite r c enable rate tol) s = .next s' ∧ s'.fget MXE_DUP_CTRL_ENABLE c = enable ∧
        s'.fget MXE_DUP_CTRL_RATE_LOG2 c = rate ∧ s'.fget MXE_DUP_CTRL_TOL_MULT c = bitsOf tol (MXE_DUP_CTRL_TOL_MULT.hi - MXE_DUP_CTRL_TOL_MULT.lo) 0 ∧
        s.KeepsMemory s' ∧ s.KeepsRegsBut s' [regAddr MXE_DUP_CTRL c 0] ∧
        ((s.fget MXE_DUP_CTRL_ENABLE c ≠ enable ∨ s.fget MXE_DUP_CTRL_RATE_LOG2 c ≠ rate) →
          smGet (fun _ => none) s'.samples c = none) ∧
        (s.fget MXE_DUP_CTRL_ENABLE c = enable → s.fget MXE_DUP_CTRL_RATE_LOG2 c = rate → s'.samples = s.samples)) ∧
    (∀ vxe hi, s.mayWriteCore r c = true → ∃ s', exec (.srSeedHiWrite r c vxe hi) s = .next s' ∧
      (s'.srGen c vxe).x = (let x := hi % 2 ^ 32 * 2 ^ 32 + (s.srGen c vxe).seedLo; if x = 0 then 1 else x) ∧
      (s'.srGen c vxe).left = 0 ∧ s'.srGen c (!vxe) = s.srGen c (!vxe) ∧ { s' with sr := s.sr } = s)

/-- An ATU instruction that issues: a word with reserved bits or a misaligned descriptor ends its item 0x40; with no
room, or with an earlier access unperformed, its strand waits; a fault in the copy of the descriptor ends the item
with its code. Else AT_RUN and AT_APPEND, with room and the instructions before them decoded, are held and counted
while FMT_SLOT is being written, stay undecoded behind an AT.SEQ (the model's choice, log entry 116), and else are
decoded with their list of sequences once its lines are at hand: accepted, the item takes references on the slot and
on every sequence; a bad descriptor or list ends it 0x40 and a stale sequence 0x38 with cause 1. OPEN, COMMIT,
TRUNCATE and RELEASE are the AT.SEQ of OP 0 to 3: under another row's OP nothing happens, a bad descriptor ends the
item 0x40, and one that decode accepts is queued and runs at once where nothing else stands in the ATU's queue.
APPEND_RESUME lets the suspended append at the head go on once a page is free; OPEN_RETRY judges the waiting OPEN of a
chamber again; SEQ_OP_PROCEED ends the waiting TRUNCATE or RELEASE at the head once no reference is left. Each leaves
everything as it was where nothing so waits. -/
def Obligations.AttentionIssue : Prop :=
  ∀ (s : State) (c t : Nat) (w : Word64),
    let off := bitsOf w.toNat 20 0
    let sreg := bitsOf w.toNat 55 53
    let good := bitsOf w.toNat 52 21 = 0 ∧ off % 128 = 0
    let waits : State → Prop := fun s' =>
      (¬good → s' = (s.atEnded c t 0x40 0).failStrand c t 0x40 0) ∧
      (good → s.engineRoom c 3 = false → s' = s.waitsFor c t (.engine 3)) ∧
      (good → s.engineRoom c 3 = true → s.ms.owes c t s.ms.nextId = true → s' = s.waitsFor c t .release)
    let fails : Nat → State → Prop := fun len s' =>
      ∀ f u, good → s.engineRoom c 3 = true → s.ms.owes c t s.ms.nextId = false → s.ownScratch c off len = (.error f, u) →
        s' = (u.deliver.atEnded c t f.code f.cause).failMem c t f
    let listAfter : State → Prop := fun s' => ∀ d v, good → s.engineRoom c 3 = true → s.copied c t off 128 d v →
      v.engineRoom c 3 = true → v.DecodedUp (4 * c + 3) →
      let o := v.newOp .atu c t sreg w d [0]
      let e := v.enqueue c t (s.strand c t) w .atu sreg d [0]
      let behind := v.engOps.any (fun p => p.core == c && p.eng == .atu && p.id < o.id && opcodeOf p.word == 0x8A)
      (v.closedTo o.item (fieldAt d 2 2) = true → s' = e.gate o) ∧
      ((v.slot (fieldAt d 2 2)).write = none → behind = true → s' = e) ∧
      ((v.slot (fieldAt d 2 2)).write = none → behind = false → e.awaitsNoRead (.eng o.id) →
        ((e.asksAs (.eng o.id)).listDecode o).ms.wanted = [] →
        s' = ((e.asksAs (.eng o.id)).listDecode o).readAll (.eng o.id))
    let seqAfter : Nat → State → Prop := fun op s' => fails 64 s' ∧ (∀ d v, good → s.engineRoom c 3 = true →
      s.copied c t off 64 d v →
      (sqOp d < 4 → sqOp d ≠ op → s' = s) ∧
      (sqOp d = op ∨ 4 ≤ sqOp d → v.engineRoom c 3 = true → v.DecodedUp (4 * c + 3) →
        let o := v.newOp .atu c t sreg w d [0]
        let e := v.enqueue c t (s.strand c t) w .atu sreg d [0]
        (seqOk d = false → s' = e.engFailed o 0x40 0) ∧
        (seqOk d = true → s' = (e.take o []).seqStart c) ∧
        (seqOk d = true → (∀ p ∈ v.engOps, p.core = c → p.eng ≠ .atu) →
          v.ms.ops.any (fun p => p.core == c && p.strand == t) = false →
          s' = (e.take o []).seqRun { o with decoded := true })))
    (s.issues c t 0x88 (regMask sreg) w → ∃ s', exec (.atRun c t) s = .next s' ∧ waits s' ∧ fails 128 s' ∧ listAfter s') ∧
    (s.issues c t 0x89 (regMask sreg) w → ∃ s', exec (.atAppend c t) s = .next s' ∧ waits s' ∧ fails 128 s' ∧ listAfter s') ∧
    (s.issues c t 0x8A (regMask sreg) w → ∃ s', exec (.seqOpen c t) s = .next s' ∧ waits s' ∧ seqAfter 0 s') ∧
    (s.issues c t 0x8A (regMask sreg) w → ∃ s', exec (.seqCommit c t) s = .next s' ∧ waits s' ∧ seqAfter 1 s') ∧
    (s.issues c t 0x8A (regMask sreg) w → ∃ s', exec (.seqTruncate c t) s = .next s' ∧ waits s' ∧ seqAfter 2 s') ∧
    (s.issues c t 0x8A (regMask sreg) w → ∃ s', exec (.seqRelease c t) s = .next s' ∧ waits s' ∧ seqAfter 3 s') ∧
    (∀ (e : State) (o : EngOp),
      let n := e.coreChamber o.core
      let append := opcodeOf o.word == 0x89
      let ok := if append then e.appendOk n o.desc else e.runOk n o.desc
      let count := if append then fieldAt o.desc 0xC 2 else fieldAt o.desc 0x10 2
      let slot := fieldAt o.desc 2 2
      (ok = false → e.listDecode o = e.engFailed o 0x40 0) ∧
      (∀ f v, ok = true → e.engRead o.core n (listOf o).1 ((listOf o).2 * count) = (.error f, v) →
        e.listDecode o = v.engFailed o f.code f.cause) ∧
      (∀ b v, ok = true → e.engRead o.core n (listOf o).1 ((listOf o).2 * count) = (.ok b, v) →
        (listOk o b = false → e.listDecode o = v.engFailed o 0x40 0) ∧
        (∀ x ∈ listSeqs o b, listOk o b = true → v.seqLive n x.1 x.2 = false → e.listDecode o = v.engFailed o 0x38 1) ∧
        (listOk o b = true → (∀ x ∈ listSeqs o b, v.seqLive n x.1 x.2 = true) → e.listDecode o =
          ((v.take o [slot]).modItem o.item (fun i =>
            { i with seqRefs := i.seqRefs ++ (listSeqs o b).map (fun x => seqKey n x.1) })).modEng o.id (fun p => { p with
              desc := o.desc ++ b
              aux := [0, v.profileOf n slot (fieldAt o.desc 4 1), v.profileOf n slot (fieldAt o.desc 5 1)] })))) ∧
    (∀ o, s.engHead c .atu = some o → o.suspended = true → 0 < s.poolFree (s.coreChamber c) →
      let back : EngOp := { o with aux := 0 :: o.aux.drop 2 }
      let run := fun (s : State) => ((s.modEng o.id (fun _ => back)).wakeStrand o .pages).appendRun back
      s.awaitsNoRead (.eng o.id) → (run (s.asksAs (.eng o.id))).ms.wanted = [] →
        exec (.appendResume c) s = .next ((run (s.asksAs (.eng o.id))).readAll (.eng o.id)).deliver) ∧
    ((∀ o, s.engHead c .atu = some o → o.suspended = false ∨ s.poolFree (s.coreChamber c) = 0) →
      exec (.appendResume c) s = .next s) ∧
    (∀ n,
      let waiting := s.engOps.filter (fun o => opcodeOf o.word == 0x8A && o.eng == .atu && sqOp o.desc == 0 && o.aux == [1] &&
        !o.aborted && s.coreChamber o.core == n)
      (∀ o, waiting = [o] → exec (.openRetry n) s = .next ((s.seqOpen o).atAdvance o.core)) ∧
      (waiting = [] → exec (.openRetry n) s = .next s)) ∧
    (∀ o, s.engHead c .atu = some o → opcodeOf o.word = 0x8A → 2 ≤ sqOp o.desc → o.aux = [1] → o.aborted = false →
      (s.seqRefs (s.coreChamber c) (sqSeq o.desc) = 0 → exec (.seqOpProceed c) s = .next ((s.seqEnd o).atAdvance c)) ∧
      (s.seqRefs (s.coreChamber c) (sqSeq o.desc) ≠ 0 → exec (.seqOpProceed c) s = .next s))

/-- AT.SEQ COMMIT with the entry's generation on an open sequence sets LENGTH to HIGH and nothing else of any
sequence, and is served. A truncation to p sets HIGH to p and LENGTH to the smaller of LENGTH and p; a release leaves
the entry free with LENGTH 0 and advances GEN by 1, skipping 0; neither touches another sequence, and each writes
memory only in the chamber's window tables. POOL_PAGE_ZEROISED writes 0 over the oldest returned page of the chamber
and no other byte, and that page no longer waits; the sequences are as before. With no returned page it changes
nothing. -/
def Obligations.SequenceEntries : Prop :=
  ∀ (s : State) (n id p : Nat),
    let outside := fun (t : State) => ∀ a, (∀ x ∈ s.kv.tables, x.chamber = n → a < x.pa ∨ x.pa + tableBytes x.level ≤ a) →
      t.byte a = s.byte a
    (let q := s.seq n id
     let t := s.seqTruncate n id p
     (t.seq n id).high = p ∧ (t.seq n id).length = min q.length p ∧ (t.seq n id).gen = q.gen ∧
     (∀ m j, seqKey m j ≠ seqKey n id → t.seq m j = s.seq m j) ∧ outside t) ∧
    (let q := s.seq n id
     let t := s.seqRelease n id
     (t.seq n id).state = 0 ∧ (t.seq n id).length = 0 ∧
     (t.seq n id).gen = (if (q.gen + 1) % 2 ^ 32 = 0 then 1 else (q.gen + 1) % 2 ^ 32) ∧
     (∀ m j, seqKey m j ≠ seqKey n id → t.seq m j = s.seq m j) ∧ outside t) ∧
    (∀ o, sqOp o.desc = 1 → (s.seq (s.coreChamber o.core) (sqSeq o.desc)).state = 1 →
      (s.seq (s.coreChamber o.core) (sqSeq o.desc)).gen = sqGen o.desc →
      ∃ u : State, s.seqRun o = u.engServed o (statusWord 0 false Flags.zero) ∧
        u.seq (s.coreChamber o.core) (sqSeq o.desc) = { s.seq (s.coreChamber o.core) (sqSeq o.desc) with
          length := (s.seq (s.coreChamber o.core) (sqSeq o.desc)).high } ∧
        (∀ m j, seqKey m j ≠ seqKey (s.coreChamber o.core) (sqSeq o.desc) → u.seq m j = s.seq m j) ∧
        { u with kv := s.kv } = s) ∧
    (∀ a, s.kv.zeroing.find? (fun e => e.1 == n) = some (n, a) →
      ∃ t, exec (.poolPageZeroised n) s = .next t ∧ (∀ b, a ≤ b → b < a + 0x10000 → t.byte b = 0#8) ∧
        s.KeepsMemoryOutside t a 0x10000 ∧ t.kv.zeroing.contains (n, a) = false ∧ t.kv.seqs = s.kv.seqs) ∧
    (s.kv.zeroing.find? (fun e => e.1 == n) = none → exec (.poolPageZeroised n) s = .next s)

/-- A routing or exchange instruction that issues: a word with reserved bits or a misaligned descriptor ends its item
0x40; with no room in the gallery's queue, or with an earlier access unperformed, its strand waits; a fault in the
copy of the descriptor ends the item with its code. Else, with room and the instructions before it decoded: RT_RUN is
held and counted while its profile's table slot is being written, stays undecoded while 64 batches run, and else is
decoded once the lines it reads are at hand, and begins its batch, or ends its item 0x40; XC_RECV and XC_RETURN are
queued, decoded, or end their item 0x40 for a bad descriptor and 0x39 with cause 3 when their round may not use its
half. A write of RTE_BIAS by code that may write the gallery, naming a valid profile and an expert of it with a number
in range, stores exactly that bias; a NaN is ignored. A write of a live epoch to RTE_CANCEL closes the epoch as
cancelled, aborts its RT.RUN and notes 0x22 for its item; of one that is not live, nothing. -/
def Obligations.RoutingIssue : Prop :=
  ∀ (s : State) (c t : Nat) (w : Word64) (r : Requester) (g : Nat),
    let off := bitsOf w.toNat 20 0
    let sreg := bitsOf w.toNat 55 53
    let frame : Nat → Nat → (Nat → State → State) → State → Prop := fun len e ended s' =>
      let good := bitsOf w.toNat 52 21 = 0 ∧ off % len = 0
      (¬good → s' = (ended 0x40 s).failStrand c t 0x40 0) ∧
      (good → s.engineRoom c e = false → s' = s.waitsFor c t (.engine e)) ∧
      (good → s.engineRoom c e = true → s.ms.owes c t s.ms.nextId = true → s' = s.waitsFor c t .release) ∧
      (∀ f u, good → s.engineRoom c e = true → s.ms.owes c t s.ms.nextId = false → s.ownScratch c off len = (.error f, u) →
        s' = (ended f.code u.deliver).failMem c t f)
    let xcAfter : State → Prop := fun s' => ∀ d v, bitsOf w.toNat 52 21 = 0 → off % 64 = 0 → s.engineRoom c 5 = true →
      s.copied c t off 64 d v → v.engineRoom c 5 = true → v.DecodedUp (512 + c / 8) →
      let o := v.newOp .xce c t sreg w d []
      let e := v.enqueue c t (s.strand c t) w .xce sreg d []
      (v.xcOk o (v.coreChamber c) = false → s' = (e.engFailed o 0x40 0).deliver) ∧
      (v.xcOk o (v.coreChamber c) = true → v.xcMay o (v.coreChamber c) = false → s' = (e.engFailed o 0x39 3).deliver) ∧
      (v.xcOk o (v.coreChamber c) = true → v.xcMay o (v.coreChamber c) = true → v.ms.found = [] →
        v.Queued s' { o with decoded := true } ∧ v.KeepsRegsBut s' [])
    (s.issues c t 0x90 (regMask sreg) w → ∃ s', exec (.rtRun c t) s = .next s' ∧
      frame 128 4 (fun code s => s.rtEnded (c / 8) t code 0) s' ∧
      (∀ d v, bitsOf w.toNat 52 21 = 0 → off % 128 = 0 → s.engineRoom c 4 = true → s.copied c t off 128 d v →
        v.engineRoom c 4 = true → v.DecodedUp (512 + c / 8) →
        let o := v.newOp .rte c t sreg w d []
        let e := v.enqueue c t (s.strand c t) w .rte sreg d []
        ((rtDecoder.names v o).any (v.closedTo o.item) = true → s' = (e.gate o).deliver) ∧
        ((rtDecoder.names v o).any (v.closedTo o.item) = false → 64 ≤ v.batchesOf (c / 8) → s' = e.deliver) ∧
        ((rtDecoder.names v o).any (v.closedTo o.item) = false → v.batchesOf (c / 8) < 64 → e.awaitsNoRead (.eng o.id) →
          ((e.asksAs (.eng o.id)).rtDecode o).ms.wanted = [] →
          s' = (((e.asksAs (.eng o.id)).rtDecode o).readAll (.eng o.id)).deliver))) ∧
    (s.issues c t 0x91 (regMask sreg) w → ∃ s', exec (.xcRecv c t) s = .next s' ∧
      frame 64 5 (fun code s => s.rteFault (c / 8) t code 0) s' ∧ xcAfter s') ∧
    (s.issues c t 0x92 (regMask sreg) w → ∃ s', exec (.xcReturn c t) s = .next s' ∧
      frame 64 5 (fun code s => s.rteFault (c / 8) t code 0) s' ∧ xcAfter s') ∧
    (∀ (e : State) (o : EngOp),
      let n := e.coreChamber o.core
      let lc := e.queueClass o.item.queue == 0
      let rp := e.rprofile n (fieldAt o.desc 2 1)
      (e.rtOk n lc o.desc = false → e.rtDecode o = e.engFailed o 0x40 0) ∧
      (e.rtOk n lc o.desc = true → e.rtDecode o = (e.take o (if rpScoreFn rp = 0 then [] else [rpFnSlot rp])).rtStart o lc)) ∧
    (∀ n v, s.mayWriteRte r g = true → g < 16 → s.chamberOf g = some n →
      let p := bitsOf (s.sel r (regAddr RTE_PROF_SEL g 0)).toNat 4 0
      let e := bitsOf (s.sel r (regAddr RTE_EXP_SEL g 0)).toNat 9 0
      let b := s.rprofile n p
      s.rpOk n p = true → e < rpExperts b →
      ((fmtBf16.decode (v % 2 ^ 16)).isNan = true → exec (.rteBiasWrite r g v) s = .next s) ∧
      ((fmtBf16.decode (v % 2 ^ 16)).isNan = false → (rpBiasLimit b).lt (fmtBf16.decode (v % 2 ^ 16)) = false →
        (fmtBf16.decode (v % 2 ^ 16)).lt (rpBiasLimit b).negate = false →
        ∃ s', exec (.rteBiasWrite r g v) s = .next s' ∧ s'.biasOf n p e = v % 2 ^ 16 ∧
          (∀ m q f, biasKey m q f ≠ biasKey n p e → s'.biasOf m q f = s.biasOf m q f) ∧ { s' with rte := s.rte } = s)) ∧
    (∀ epoch, s.mayWriteRte r g = true → g < 16 →
      (∀ b o, s.epochLive g epoch = true → s.batch g epoch = some b → s.engOp b.op = some o →
        exec (.rteCancel r g epoch) s =
          .next (((s.closeEpoch g epoch true).modEng o.id (fun o => { o with aborted := true })).noteEnd o.item 0x22 0)) ∧
      (s.epochLive g epoch = false → exec (.rteCancel r g epoch) s = .next s))

/-- An RT.RUN with selection only, or whose markers are sent and whose kept entries have all returned, is over: with
selection only it is served with its flags; else the rows of its tokens without a kept entry are written and it is
served. XC.RECV whose half has its SOURCES end markers and every row they announce writes the counts of its local
experts and is served, an acquire at chamber scope; while one is missing it waits. XC.RETURN, with no other one to
serve before it and every line at hand, sends every filled slot's result, frees the half and is served. One whose half
another round owns ends 0x39 with cause 3. Then the gallery's queue goes on. A window closes after BIAS_N counted
batches: its batch count and its expert counts restart at 0 and its count of all batches stays, and before the 64th
counted batch no bias changes; before BIAS_N nothing changes. -/
def Obligations.RoutingCompletion : Prop :=
  ∀ (s : State),
    (∀ g epoch b o, s.batch g epoch = some b → s.engOp b.op = some o → o.aborted = false → o.status = none →
      (b.selectOnly = true → exec (.rtRunComplete g epoch) s = .next ((s.engServed o b.flags).rtAdvance g).deliver) ∧
      (b.selectOnly = false → b.marked = true → (∀ a ∈ b.sel, a.returned = true) → exec (.rtRunComplete g epoch) s =
        .next ((s.batchOver b o).rtAdvance g).deliver) ∧
      (b.selectOnly = false → (b.marked = false ∨ ∃ a ∈ b.sel, a.returned = false) →
        exec (.rtRunComplete g epoch) s = .next (s.rtAdvance g).deliver)) ∧
    (∀ (u : State) (b b' : Batch) (o : EngOp), b.selectOnly = false →
      let v := u.emptyRows b o (List.range b.tokens)
      v.batch b.gallery b.epoch = some b' → u.batchOver b o = v.engServed o b'.flags) ∧
    (∀ id o, s.engOp id = some o → opcodeOf o.word = 0x91 → o.eng = .xce → o.decoded = true → o.aborted = false → o.status = none →
      let n := s.coreChamber o.core
      let rp := s.rprofile n (fieldAt o.desc 2 1)
      (s.xcMay o n = false → exec (.xcRecvComplete id) s = .next ((s.engFailed o 0x39 3).rtAdvance (o.core / 8)).deliver) ∧
      (∀ h, s.xcMay o n = true → s.half n (fieldAt o.desc 2 1) (fieldAt o.desc 4 2 % 2) = some h →
        (h.markers.length < fieldAt o.desc 6 2 ∨ (∃ m ∈ h.markers, h.rowsOf m.1 m.2.1 < m.2.2) →
          exec (.xcRecvComplete id) s = .next (s.rtAdvance (o.core / 8)).deliver) ∧
        (fieldAt o.desc 6 2 ≤ h.markers.length → (∀ m ∈ h.markers, m.2.2 ≤ h.rowsOf m.1 m.2.1) →
          let counts := (List.range (rpLocalCount rp)).flatMap (fun x => leBytes 4 (h.filledOf x))
          ∀ u, s.writeVa (reqRte (o.core / 8)) n (.eng o.id) o.item.queue (fieldAt o.desc 8 8) counts = (none, u) →
            exec (.xcRecvComplete id) s =
              .next ((({ u with ms := u.ms.acquire o.core 2 } : State).engServed o 0).rtAdvance (o.core / 8)).deliver))) ∧
    (∀ id o, s.engOp id = some o → opcodeOf o.word = 0x92 → o.eng = .xce → o.decoded = true → o.aborted = false → o.status = none →
      let n := s.coreChamber o.core
      let rp := s.rprofile n (fieldAt o.desc 2 1)
      (s.xcBehind o = true → exec (.xcReturnComplete id) s = .next s) ∧
      (s.xcBehind o = false → s.awaitsNoRead (.eng o.id) → ((s.asksAs (.eng o.id)).xcReturn o).ms.wanted = [] →
        exec (.xcReturnComplete id) s =
          .next ((((s.asksAs (.eng o.id)).xcReturn o).readAll (.eng o.id)).rtAdvance (o.core / 8)).deliver) ∧
      (s.xcMay o n = false → s.xcReturn o = s.engFailed o 0x39 3) ∧
      (∀ h u, s.xcMay o n = true → s.half n (fieldAt o.desc 2 1) (fieldAt o.desc 4 2 % 2) = some h →
        s.returnRows o n rp h ((List.range (rpLocalCount rp)).flatMap (fun x => (List.range (h.filledOf x)).map (fun i => (x, i)))) =
          (none, u) →
        s.xcReturn o = (u.freeHalf h).engServed o 0)) ∧
    (∀ n p, let L := s.loopOf n p
      (n < 16 → s.rpOk n p = true → rpBiasN (s.rprofile n p) ≤ L.batches →
        ∃ s', exec (.biasWindowClose n p) s = .next s' ∧
          (s'.loopOf n p).batches = 0 ∧ (s'.loopOf n p).counted = L.counted ∧
          (∀ e, e < 1024 → smGet (fun _ => 0) s'.rte.load (biasKey n p e) = 0) ∧
          (L.counted < 64 → s'.rte.bias = s.rte.bias) ∧ { s' with rte := s.rte } = s) ∧
      (L.batches < rpBiasN (s.rprofile n p) → exec (.biasWindowClose n p) s = .next s))

/-- A load, a store or an atomic of any of the eight operations that issues: a malformed word or a misaligned address
ends the item 0x40 FORMAT_ERROR, and an address that does not translate ends it with the fault. A store to a line that
its core holds no unperformed write of waits while the core holds 32 such lines. Otherwise the access joins the
unperformed accesses last, with its translated address and device, size, operands, RD, and ordering, at the scope in
force; its strand goes on at the next word with the registers it returns into awaiting the value (none for a store);
memory, every register word and every other strand are as before (after the monitor has taken what the translation
met, where that leaves the strand as it was). A fence of each kind joins the accesses, its strand goes on, and the
fences whose orderings hold are done; it is done at once where no access is under way and its strand has observed no
unperformed write. A malformed fence ends the item 0x40. -/
def Obligations.MemoryIssue : Prop :=
  ∀ (s : State) (c t : Nat) (w : Word64),
    let x := s.strand c t
    let n := s.coreChamber c
    let z := moSize w
    let va := moAddr w x
    let ra := pairMask (raOf w)
    let rd := sizedMask (rdOf w) z
    let rb := sizedMask (rbOf w) z
    let after : OpKind → Nat → Nat → Nat → State → Prop := fun k data cmp mark s' =>
      (moMalformed w = true ∨ va % 2 ^ z ≠ 0 → s' = s.failStrand c t 0x40 0) ∧
      (moMalformed w = false → va % 2 ^ z = 0 →
        (∀ f u, s.translate (reqCore c) n va (k != .load) false = (.error f, u) → s' = u.deliver.failStrand c t f.code f.cause) ∧
        (∀ g u, s.translate (reqCore c) n va (k != .load) false = (.ok g, u) →
          let full := k = .store ∧ 32 ≤ (s.pendingLines c).length ∧ (g.device, g.pa / 64) ∉ s.pendingLines c
          let v := u.deliver
          (full → s' = s.waitsFor c t .lines) ∧
          (¬full → v.strand c t = x → ∃ o, s'.ms.ops = v.ms.ops ++ [o] ∧ o.id = v.ms.nextId ∧ o.core = c ∧ o.strand = t ∧ o.kind = k ∧
            o.addr = g.pa ∧ o.remote = g.device ∧ o.size = z ∧ o.rd = rdOf w ∧ o.data = data ∧ o.cmp = cmp ∧ o.sx = moSx w ∧
            (o.acq = true ↔ moOrd w = 1 ∨ moOrd w = 3) ∧ (o.rel = true ↔ moOrd w = 2 ∨ moOrd w = 3) ∧
            o.scope = v.effScope n (moScope w) ∧ o.bypass = moBypass w ∧ o.sent = none ∧ v.KeepsMemory s' ∧ v.KeepsRegsBut s' [] ∧
            v.KeepsStrandsBut s' c t ∧ s'.strand c t = (x.mark mark).issued (x.pc + 8))))
    let fenceAfter : Nat → State → Prop := fun k s' =>
      (moMalformed w = true → s' = s.failStrand c t 0x40 0) ∧
      (moMalformed w = false → ∃ t' o, s' = State.sweep t' ∧ t'.ms.ops = s.ms.ops ++ [o] ∧ o.kind = .fence k ∧ o.core = c ∧
        o.strand = t ∧ s.KeepsMemory t' ∧ s.KeepsRegsBut t' [] ∧ s.KeepsStrandsBut t' c t ∧ t'.strand c t = x.issued (x.pc + 8) ∧
        (s.ms.ops = [] → (∀ e ∈ s.ms.observed, e.core = c → e.strand ≠ t) → t'.ms.sweep.ops = []))
    (s.issues c t 0xA0 (ra ||| rd) w → ∃ s', exec (.moLd c t) s = .next s' ∧ after .load (x.sized (rbOf w) z) 0 rd s') ∧
    (s.issues c t 0xA1 (ra ||| rd) w → ∃ s', exec (.moSt c t) s = .next s' ∧ after .store (x.sized (rdOf w) z) 0 0 s') ∧
    (s.issues c t 0xA2 (ra ||| rd ||| rb) w → moAop w = 0 → ∃ s', exec (.add c t) s = .next s' ∧
      after (.amo 0) (x.sized (rbOf w) z) (0) rd s') ∧
    (s.issues c t 0xA2 (ra ||| rd ||| rb) w → moAop w = 1 → ∃ s', exec (.fadd c t) s = .next s' ∧
      after (.amo 1) (x.sized (rbOf w) z) (0) rd s') ∧
    (s.issues c t 0xA2 (ra ||| rd ||| rb) w → moAop w = 2 → ∃ s', exec (.swap c t) s = .next s' ∧
      after (.amo 2) (x.sized (rbOf w) z) (0) rd s') ∧
    (s.issues c t 0xA2 (ra ||| rd ||| rb) w → moAop w = 3 → ∃ s', exec (.cas c t) s = .next s' ∧
      after (.amo 3) (x.sized (rdOf w) z) (x.sized (rbOf w) z) rd s') ∧
    (s.issues c t 0xA2 (ra ||| rd ||| rb) w → moAop w = 4 → ∃ s', exec (.smax c t) s = .next s' ∧
      after (.amo 4) (x.sized (rbOf w) z) (0) rd s') ∧
    (s.issues c t 0xA2 (ra ||| rd ||| rb) w → moAop w = 5 → ∃ s', exec (.smin c t) s = .next s' ∧
      after (.amo 5) (x.sized (rbOf w) z) (0) rd s') ∧
    (s.issues c t 0xA2 (ra ||| rd ||| rb) w → moAop w = 6 → ∃ s', exec (.amoOr c t) s = .next s' ∧
      after (.amo 6) (x.sized (rbOf w) z) (0) rd s') ∧
    (s.issues c t 0xA2 (ra ||| rd ||| rb) w → moAop w = 7 → ∃ s', exec (.amoAnd c t) s = .next s' ∧
      after (.amo 7) (x.sized (rbOf w) z) (0) rd s') ∧
    (s.issues c t 0xA3 0 w → moOrd w = 1 → ∃ s', exec (.fenceAcquire c t) s = .next s' ∧ fenceAfter 1 s') ∧
    (s.issues c t 0xA3 0 w → moOrd w = 2 → ∃ s', exec (.fenceRelease c t) s = .next s' ∧ fenceAfter 2 s') ∧
    (s.issues c t 0xA3 0 w → moOrd w = 3 → ∃ s', exec (.fenceFull c t) s = .next s' ∧ fenceAfter 3 s')

/-- HOME_ACCESS of an access that has not been sent and that the ordering rules let go performs it at its home when it
is local and no latency-critical one stands before it at its HBC, the monitor taking what it met, or sends its request
to the target device; one sent, one that must wait, and one behind another stay, and nothing changes. Where the rights
refuse it, it fails. A local store whose line can be written is written at its address, least significant byte first,
and leaves the list. A local load whose line can be read returns into RD the bytes at its address with its core's
unperformed writes laid over them. A local atomic whose bytes can be read returns their previous value into RD and
writes what its operation gives, and a CAS whose compare fails writes nothing. An acquire first empties what its scope
covers of the caches. After each the fences whose orderings hold are done. -/
def Obligations.AccessPerformed : Prop :=
  ∀ (s : State) (id : Nat) (ev : CellEvent) (o : MemOp), s.ms.ops.find? (fun o => o.id == id) = some o →
    let s0 : State := if o.acq then { s with ms := s.ms.acquire o.core o.scope } else s
    (o.sent.isSome = true ∨ s.mayPerform o = false → exec (.homeAccess id ev) s = .next s) ∧
    (o.sent = none → s.mayPerform o = true →
      (∀ d, o.remote = some d → exec (.homeAccess id ev) s = .next (s.performRemote o d)) ∧
      (o.remote = none → s.behindLc o = true → exec (.homeAccess id ev) s = .next s) ∧
      (o.remote = none → s.behindLc o = false → exec (.homeAccess id ev) s = .next (s.performLocal o ev).deliver)) ∧
    (∀ f, s.rights o.chamber o.addr o.kind.writes true = some f → s.performLocal o ev = s.failOp o f) ∧
    (∀ u, o.kind = .store → s.rights o.chamber o.addr true true = none →
      s.writeLine o.addr (leBytes (2 ^ o.size) o.data) ev = (none, u) →
      u.mem = (s.setBytes o.addr (leBytes (2 ^ o.size) o.data)).mem ∧
      ∃ v, s.performLocal o ev = ((State.noteRelease v o).dropOp o.id).sweep ∧ v.mem = u.mem ∧ v.regs = u.regs ∧
        v.strands = u.strands) ∧
    (∀ b u, o.kind = .load → s.rights o.chamber o.addr false true = none → s0.loadLine o ev = (.ok b, u) →
      s.performLocal o ev = ((((u.compareAt o).observe o (u.ms.forwarded o)).returnValue o
        (fieldAt (overlayStores b (u.ms.forwarded o)) (o.addr % 64) (2 ^ o.size))).dropOp o.id).sweep) ∧
    (∀ aop b u, o.kind = .amo aop → s.rights o.chamber o.addr true true = none →
      ({ s0 with ms := s0.ms.uncache o.core o.addr } : State).readLine o.addr (2 ^ o.size) ev = (.ok b, u) →
      (aop = 3 → leVal b ≠ o.cmp →
        s.performLocal o ev = (((u.compareAt o).returnValue o (leVal b)).dropOp o.id).sweep) ∧
      (aop ≠ 3 ∨ leVal b = o.cmp → s.performLocal o ev = ((((((u.compareAt o).putLine o.addr
        (leBytes (2 ^ o.size) (amoValue aop o.size (leVal b) o.data o.cmp))).noteRelease o).returnValue o
          (leVal b)).dropOp o.id).sweep)))

/-- For 4-byte and 8-byte operands: ADD wraps at the width; SWAP gives the operand; CAS gives the new value when the
old value equals the compare value and the old value otherwise; SMAX and SMIN give the larger and the smaller signed
value, one of the two operands; OR and AND act bit by bit. A byte or half-word load fills the upper bits of RD with
zeros, or with copies of the top bit when SX is 1. A value placed in a register pair reads back. -/
def Obligations.AtomicValues : Prop :=
  (∀ (size old v cmp : Nat), size = 2 ∨ size = 3 → old < 2 ^ (8 * 2 ^ size) → v < 2 ^ (8 * 2 ^ size) →
    amoValue 0 size old v cmp = (old + v) % 2 ^ (8 * 2 ^ size) ∧ amoValue 2 size old v cmp = v ∧
    amoValue 3 size old v old = v ∧ (old ≠ cmp → amoValue 3 size old v cmp = old) ∧
    toSigned (8 * 2 ^ size) (amoValue 4 size old v cmp) = max (toSigned (8 * 2 ^ size) old) (toSigned (8 * 2 ^ size) v) ∧
    toSigned (8 * 2 ^ size) (amoValue 5 size old v cmp) = min (toSigned (8 * 2 ^ size) old) (toSigned (8 * 2 ^ size) v) ∧
    (∀ i, bitOf (amoValue 6 size old v cmp) i = (bitOf old i || bitOf v i)) ∧
    (∀ i, bitOf (amoValue 7 size old v cmp) i = (bitOf old i && bitOf v i)) ∧
    (∀ aop, aop ≠ 1 → amoValue aop size old v cmp < 2 ^ (8 * 2 ^ size))) ∧
  (∀ (n v : Nat), n = 1 ∨ n = 2 → v < 2 ^ (8 * n) → extend false n v = v ∧
    (extend true n v : Int) = (if 2 * v < 2 ^ (8 * n) then (v : Int) else (v : Int) - 2 ^ (8 * n) + 2 ^ 32)) ∧
  (∀ (x : Strand) (r size v : Nat), r < 8 → (size = 3 → r % 2 = 0) → size ≤ 3 → v < 2 ^ (8 * 2 ^ size) →
    (x.setSized r size v).sized r size = v)

/-- A GO by a requester that may write the set records an invalidation after those not yet complete, with the page
count and address as they stand or of every page, and makes BUSY 1 in both instances; by another requester it does
nothing. When one invalidation of the chamber is left and no access of the chamber on a translation it covers is
unperformed, MMU_INVALIDATE_DONE ends it: no gallery of the chamber keeps a cached translation or upper-level entry
that it covers, and BUSY is 0 in both instances. While such an access is unperformed, or with no invalidation, it
changes nothing. -/
def Obligations.MmuInvalidations : Prop :=
  ∀ (s : State) (r : Requester) (n pages : Nat), n < 16 →
    (s.mayWriteSet r n = true → ∃ s', exec (.mmuInvalidate r n pages) s = .next s' ∧
      s'.ms.invals = s.ms.invals ++ [{ chamber := n, va := s.invVa n, pages := max 1 pages, all := false, at_ := s.now }] ∧
      s'.fget MMU_INV_STATUS_BUSY 0 n = 1 ∧ s'.fget MMU_INV_STATUS_BUSY 1 n = 1 ∧ s.KeepsMemory s' ∧ s'.strands = s.strands ∧
      s.KeepsRegsBut s' [regAddr MMU_INV_STATUS 0 n, regAddr MMU_INV_STATUS 1 n]) ∧
    (s.mayWriteSet r n = true → ∃ s', exec (.mmuInvalidateAll r n) s = .next s' ∧
      s'.ms.invals = s.ms.invals ++ [{ chamber := n, va := s.invVa n, pages := 1, all := true, at_ := s.now }] ∧
      s'.fget MMU_INV_STATUS_BUSY 0 n = 1 ∧ s'.fget MMU_INV_STATUS_BUSY 1 n = 1 ∧ s.KeepsMemory s') ∧
    (s.mayWriteSet r n = false → exec (.mmuInvalidate r n pages) s = .next s ∧ exec (.mmuInvalidateAll r n) s = .next s) ∧
    (∀ i, s.ms.invals = [i] → i.chamber = n →
      (s.usesCovered n i = true → exec (.mmuInvalidateDone n) s = .next s) ∧
      (s.usesCovered n i = false → ∃ s', exec (.mmuInvalidateDone n) s = .next s' ∧ s'.ms.invals = [] ∧
        (∀ e ∈ s'.ms.tlb, ¬ (bitOf (s.chamber n).galleries e.gallery = true ∧ i.covers e = true)) ∧
        (∀ e ∈ s'.ms.upper, ¬ (bitOf (s.chamber n).galleries e.gallery = true ∧ i.coversUpper e = true)) ∧
        s'.fget MMU_INV_STATUS_BUSY 0 n = 0 ∧ s'.fget MMU_INV_STATUS_BUSY 1 n = 0 ∧ s.KeepsMemory s' ∧
        s.KeepsRegsBut s' [regAddr MMU_INV_STATUS 0 n, regAddr MMU_INV_STATUS 1 n])) ∧
    ((∀ i ∈ s.ms.invals, i.chamber ≠ n) → exec (.mmuInvalidateDone n) s = .next s)

/-- On a stack in service and awake a retraining step that is due and leaves both margins at or above 1/16 UI counts
in HBC_RETRAIN and records its time and margins, with memory, strands and health as before; one not due changes
nothing. REFRESH changes nothing. A temperature readout below 105 °C, 100 µs after the last, sets TEMP_C, and HOT
exactly above 85 °C, and changes no other register but PWR_THERM, no memory and no strand; an earlier one changes
nothing. With ENABLE set and the device not halted, the scrub of such a stack reads the next line of its pass once its
step has elapsed; the read of a line whose cells show nothing wrong, where no error lies undetected in memory and none
awaits the monitor, leaves memory as before. Without ENABLE nothing happens. -/
def Obligations.StackMaintenance : Prop :=
  ∀ (s : State) (st : Nat), st < 16 →
    (∀ ch drift read write pause, s.stackAwake st = true → ch < 16 → s.retrainDue st ch drift = true → 16 ≤ read →
      16 ≤ write → ∃ s', exec (.hbcRetrain st ch drift read write pause) s = .next s' ∧
        s'.fget HBC_RETRAIN_COUNT st = min (2 ^ (HBC_RETRAIN_COUNT.hi + 1 - HBC_RETRAIN_COUNT.lo) - 1)
          (s.fget HBC_RETRAIN_COUNT st + 1) ∧
        (∃ x ∈ s'.hbc.channels, x.1 = 16 * st + ch ∧ x.2.stepAt = s.now ∧ x.2.read = min 255 read ∧ x.2.write = min 255 write) ∧
        s.KeepsMemory s' ∧ s'.strands = s.strands ∧ s'.health = s.health) ∧
    (∀ ch drift read write pause, s.retrainDue st ch drift = false → exec (.hbcRetrain st ch drift read write pause) s = .next s) ∧
    (∀ ch, exec (.refresh st ch) s = .next s) ∧
    (∀ temp, s.elapsed (120 + st) 100_000 = true → temp < 105 →
      ∃ s', exec (.temperatureReadout st temp) s = .next s' ∧ s'.fget HBC_STATUS_TEMP_C st = temp ∧
        s'.fget HBC_STATUS_HOT st = (if 85 < temp then 1 else 0) ∧ s.KeepsMemory s' ∧ s'.strands = s.strands ∧
        s.KeepsRegsBut s' [regAddr HBC_STATUS st 0, regAddr PWR_THERM 0 0]) ∧
    (∀ temp, s.elapsed (120 + st) 100_000 = false → exec (.temperatureReadout st temp) s = .next s) ∧
    (∀ (u : State) (off : Nat), u.KeepsMemory (State.scrubLine u st off .clean) ∨ u.ms.cells ≠ [] ∨ u.ms.found ≠ []) ∧
    (s.stackAwake st = false ∨ s.fget HBC_SCRUB_ENABLE st = 0 → ∀ ev, exec (.patrolScrub st ev) s = .next s) ∧
    (s.stackAwake st = true → s.pwr.halted = false → s.fget HBC_SCRUB_ENABLE st = 1 →
      s.elapsed (140 + st) (s.scrubStep st) = true → ∃ i s', (s.mark (140 + st)).nextLine st (s.granules * 2 ^ 24) = (i, s') ∧
        ∀ ev, exec (.patrolScrub st ev) s = .next (s'.scrubLine st (64 * i) ev))

/-- Each training command by code that may write the core closes the entry or every entry, replays it or skips it; by
any other requester it changes nothing. A close of an entry with no elements does nothing; otherwise it clears the
counts, the cause and the observed exponent and counts the close, and its estimate, of 16 bits, is then at least the
observed exponent plus the headroom when nothing saturated and nothing was non-finite. -/
def Obligations.TrainingWatch : Prop :=
  (∀ (s : State) (r : Requester) (c i fmt : Nat), i < 64 →
    (s.mayWriteCore r c = true → exec (.trainClose r c i) s = .next (s.trainClose c i false) ∧
      exec (.trainCloseAll r c) s = .next (s.trainCloseAll c) ∧ exec (.trainReplay r c i fmt) s = .next (s.trainReplay c i fmt) ∧
      exec (.trainSkip r c i) s = .next (s.trainSkip c i)) ∧
    (s.mayWriteCore r c = false → exec (.trainClose r c i) s = .next s ∧ exec (.trainCloseAll r c) s = .next s ∧
      exec (.trainReplay r c i fmt) s = .next s ∧ exec (.trainSkip r c i) s = .next s) ∧
    (∀ e after rec_ s', s.mayWriteCore r c = true → s.trainRead c (0x40 + 64 * i) 64 = (.ok e, s') →
      closeEntry e = some (after, rec_) →
      exec (.trainClose r c i) s = .next ((s'.trainWrite c (0x40 + 64 * i) after).trainLog c logClose i rec_)) ∧
    (∀ e s', s.mayWriteCore r c = true → s.trainRead c (0x40 + 64 * i) 64 = (.ok e, s') → fieldAt e 0x1C 4 = 0 →
      exec (.trainClose r c i) s = .next s')) ∧
  (∀ e : List Byte, fieldAt e 0x1C 4 = 0 → closeEntry e = none) ∧
  (∀ e : List Byte, fieldAt e 0x1C 4 ≠ 0 → (closeEntry e).isSome = true) ∧
  (∀ e after rec_ : List Byte, e.length = 64 → closeEntry e = some (after, rec_) →
    after.length = 64 ∧ (∀ k, k < 6 → fieldAt after (0x1C + 4 * k) 4 = 0) ∧ fieldAt after 0x1A 2 = 0 ∧
    enObs after = none ∧ fieldAt after 0x13 1 = 0 ∧ fieldAt after 0x34 4 = (fieldAt e 0x34 4 + 1) % 2 ^ 32 ∧
    (∀ o, enObs e = some o → fieldAt e 0x28 4 = 0 → fieldAt e 0x2C 4 = 0 → o + enHeadroom e ≤ 32767 →
      o + enHeadroom e ≤ enEst after))

/-- From 20 ms after VAUX came within tolerance the target answers at its dynamic address: a write sets the register
pointer to its first byte; a read of n bytes answers n bytes, the first that at the pointer, and moves the pointer by
n modulo 256; GETPID, GETBCR, GETDCR and GETSTATUS answer the provisioned ID, 0x06, 0x00 and the pending-interrupt
field; ENEC and DISEC with bit 0 enable and disable interrupts, and DISEC discards one that waits; RSTDAA gives the
address up. Without a dynamic address ENTDAA answers ID, BCR and DCR and takes an address, and SETDASA at 0x5A takes
one. A target that does not answer, or is named by another address, does nothing. VAUX coming up resets the target. No
command changes a register, the pins, or the work. -/
def Obligations.BoardManagement : Prop :=
  ∀ (s : State) (addr : Nat),
    (s.i3cAnswers = true → s.i3c.dynamic = some addr →
      (∀ b bs, ∃ s', exec (.i3cWrite addr (b :: bs)) s = .next s' ∧ s' = { s with i3c := s'.i3c } ∧
        s'.i3c = { s.i3c with pointer := b.toNat, latch := none }) ∧
      (∀ n, s.i3c.pointer < 256 → ∃ s' bs, exec (.i3cRead addr n) s = .next s' ∧ s'.out = s.out ++ [.i3c bs] ∧ bs.length = n ∧
        s'.i3c.pointer = (s.i3c.pointer + n) % 256 ∧
        (s.i3c.latch = none → 0 < n → bs.head? = some (s.boardByte s.i3c.pointer)) ∧
        s' = { s with i3c := s'.i3c, out := s'.out }) ∧
      exec (.getpid addr) s = .next (s.emit (.i3c s.pidBytes)) ∧ exec (.getbcr addr) s = .next (s.emit (.i3c [0x06#8])) ∧
      exec (.getdcr addr) s = .next (s.emit (.i3c [0x00#8])) ∧
      exec (.getstatus addr) s = .next (s.emit (.i3c [0#8, if s.i3c.waiting = [] then 0#8 else 1#8])) ∧
      (∀ tg ev, tg = none ∨ tg = some addr → bitOf ev 0 = true →
        exec (.enec tg ev) s = .next { s with i3c := { s.i3c with ibi := true } } ∧
        exec (.disec tg ev) s = .next { s with i3c := { s.i3c with ibi := false, waiting := [] } }) ∧
      exec .rstdaa s = .next { s with i3c := { s.i3c with dynamic := none } } ∧
      (∀ d, d ≠ addr → exec (.getpid d) s = .next s ∧ exec (.i3cRead d 1) s = .next s ∧ exec (.entdaa d) s = .next s ∧
        exec (.setdasa 0x5A d) s = .next s)) ∧
    (s.i3cAnswers = true → s.i3c.dynamic = none →
      exec (.entdaa addr) s = .next { s.emit (.i3c (s.pidBytes ++ [0x06#8, 0x00#8])) with
        i3c := { s.i3c with dynamic := some addr } } ∧
      exec (.setdasa 0x5A addr) s = .next { s with i3c := { s.i3c with dynamic := some addr } }) ∧
    (s.i3cAnswers = false → ∀ i ∈ [Instr.i3cWrite addr [0#8], Instr.i3cRead addr 1, Instr.getpid addr, Instr.getbcr addr,
      Instr.getdcr addr, Instr.getstatus addr, Instr.enec none 1, Instr.disec none 1, Instr.rstdaa, Instr.entdaa addr,
      Instr.setdasa 0x5A addr], exec i s = .next s) ∧
    (∃ s', exec .vauxWithinTolerance s = .next s' ∧ s' = { s with i3c := s'.i3c } ∧ s'.i3c.dynamic = none ∧
      s'.i3c.ibi = false ∧ s'.i3c.waiting = [] ∧ s'.i3c.vauxAt = some s.now ∧ s'.i3cAnswers = false) ∧
    (∀ p, 0x90 ≤ p → s.boardByte p = 0#8)

/-- BYPASS shifts its captured 0 and then what is shifted in; IDCODE shifts the identification code 0x1A1629C3, least
significant bit first; SAMPLE_PRELOAD captures the lands, with the outputs as the device drives them, shifts them out,
and leaves the boundary register loaded. While PWR_GOOD or RESET_N is low EXTEST, CLAMP and HIGHZ take effect; EXTEST
scans the boundary register and the others the bypass bit. While both are high each acts as BYPASS. TEST_LOGIC_RESET
loads IDCODE and ends the hold. No test instruction changes the work, and none but TEST_LOGIC_RESET a register. -/
def Obligations.TestAccess : Prop :=
  ∀ (s : State) (tdi : List Bool),
    (∃ s', exec (.bypass tdi) s = .next s' ∧ s'.tap = { s.tap with ir := .bypass } ∧
      s'.out = s.out ++ [.tdo ((false :: tdi).take tdi.length)] ∧ s' = { s with tap := s'.tap, out := s'.out }) ∧
    (∃ s', exec (.idcode tdi) s = .next s' ∧ s'.tap = { s.tap with ir := .idcode } ∧
      s'.out = s.out ++ [.tdo ((bitsLsb 32 0x1A1629C3 ++ tdi).take tdi.length)] ∧
      s' = { s with tap := s'.tap, out := s'.out }) ∧
    (∃ s' x, exec (.samplePreload tdi) s = .next s' ∧ x.length = 16 ∧
      (let cap := [s.pins.pwrGood, s.pins.resetN, s.pins.offReqN, s.pins.offReadyN, s.pins.faultN, s.pins.thermtripN] ++ x
       s'.out = s.out ++ [.tdo ((cap ++ tdi).take tdi.length)] ∧
       s'.tap = { s.tap with ir := .samplePreload, boundary := (cap ++ tdi).drop tdi.length }) ∧
      s' = { s with tap := s'.tap, out := s'.out, free := s.free + 1 }) ∧
    (s.pins.pwrGood = false ∨ s.pins.resetN = false →
      (∃ s' x, exec (.extest tdi) s = .next s' ∧ x.length = 16 ∧
        (let cap := [s.pins.pwrGood, s.pins.resetN, s.pins.offReqN] ++
            (List.range 3).map (fun k => s.tap.boundary.getD (3 + k) true) ++ x
         s'.out = s.out ++ [.tdo ((cap ++ tdi).take tdi.length)] ∧
         s'.tap = { ir := .extest, hold := true, boundary := (cap ++ tdi).drop tdi.length }) ∧
        s' = { s with tap := s'.tap, out := s'.out, free := s.free + 1 }) ∧
      exec (.clamp tdi) s = .next { s with
        tap := { s.tap with ir := .clamp, hold := true }, out := s.out ++ [.tdo ((false :: tdi).take tdi.length)] } ∧
      exec (.highz tdi) s = .next { s with
        tap := { s.tap with ir := .highz, hold := true }, out := s.out ++ [.tdo ((false :: tdi).take tdi.length)] }) ∧
    (s.pins.pwrGood = true → s.pins.resetN = true → exec (.extest tdi) s = exec (.bypass tdi) s ∧
      exec (.clamp tdi) s = exec (.bypass tdi) s ∧ exec (.highz tdi) s = exec (.bypass tdi) s) ∧
    (∃ s', exec .testLogicReset s = .next s' ∧ s'.tap = { s.tap with ir := .idcode, hold := false } ∧ s.KeepsWork s' ∧
      s'.pins = s.pins ∧ s'.out = s.out ∧
      (s.pwr.held = true → s.pins.pwrGood = true → s.pins.resetN = true → s'.pwr.held = false ∧ s'.tb = 0) ∧
      (s.pwr.held = false → s'.regs = s.regs ∧ s'.tb = s.tb))

/-- For a frame, enciphered or not, that no judgement up to NOT_OWNER refuses: HEARTBEAT is answered with RESULT 0,
REG_READ of one register with its value, MEM_READ with the bytes read or, where a line cannot be read, a NAK,
MEM_WRITE with RESULT 0 or 0x48, DOORBELL of a hardware queue and POLL of one with its state, and a second ATTEST with
BUSY, each (of MEM_READ and MEM_WRITE where no error lies in the cells) in its slot with the session's next SEQ, the
session staying open. MEM_WRITE writes its bytes and no byte outside the range. REG_WRITE of one register outside the
staging window performs the write and is answered RESULT 0, or by a NOT_OWNER violation where a field is withheld.
REG_READ and REG_WRITE of an address that does not exist are BAD_TARGET violations and nothing is performed. DOORBELL
moves the tail of an active queue that has room, and no other queue. The first ATTEST waits for its report;
ATTEST_REPORT then sends report and certificate in five frames. HEARTBEAT, POLL, ATTEST and ATTEST_REPORT leave the
work as it was. -/
def Obligations.ControlRequests : Prop :=
  ∀ (s : State) (p : Nat) (w f : Frame) (x : Session),
    (s.takesFrame p w f 0x10 x → f.payload = [] →
      ∃ s', exec (.heartbeat p w) s = .next s' ∧ s.Answers s' f x 0x90 (leBytes 4 0) ∧ s.KeepsWork s') ∧
    (s.takesFrame p w f 0x20 x → f.payload.length = 8 → regHeadOk f = true → fieldAt f.payload 4 2 = 1 →
      (regsMapped f = false → exec (.regRead p w) s = .next (((s.tookFrame p f).frameViol f 8).closeSpent f.slot)) ∧
      (regsMapped f = true → ∃ s', exec (.regRead p w) s = .next s' ∧ s.KeepsMemory s' ∧ s'.strands = s.strands ∧
        s.Answers s' f x 0xA0 (leBytes 4 ((s.tookFrame p f).readReg (.session f.slot) (fieldAt f.payload 0 4)).1.toNat))) ∧
    (∀ held s2, s.takesFrame p w f 0x21 x → f.payload.length = 12 → regHeadOk f = true → fieldAt f.payload 4 2 = 1 →
      (regsMapped f = false → exec (.regWrite p w) s = .next (((s.tookFrame p f).frameViol f 8).closeSpent f.slot)) ∧
      (regsMapped f = true → inStaging (fieldAt f.payload 0 4) = false →
        (s.tookFrame p f).writeReg (.session f.slot) (fieldAt f.payload 0 4) (BitVec.ofNat 32 (fieldAt f.payload 8 4)) = (held, s2) →
        exec (.regWrite p w) s =
          .next ((if held then s2.frameViol f 7 else s2.reply f.slot 0x21 (leBytes 4 0)).closeSpent f.slot))) ∧
    (∀ evs, s.takesFrame p w f 0x22 x → f.payload.length = 16 → memHeadOk f 8192 = true →
      (memLines f).all (fun l => (s.tookFrame p f).memTarget l.1) = true →
      (∀ bs u, (s.tookFrame p f).memRead (memLines f) evs = (some bs, u) →
        exec (.memRead p w evs) s = .next ((u.reply f.slot 0x22 bs).closeSpent f.slot) ∧
        (evs = [] → s.ms.cells = [] → s.ms.found = [] → ∃ s', exec (.memRead p w evs) s = .next s' ∧ s.Answers s' f x 0xA2 bs ∧
          s.KeepsMemory s' ∧ s'.strands = s.strands)) ∧
      (∀ u, (s.tookFrame p f).memRead (memLines f) evs = (none, u) →
        exec (.memRead p w evs) s = .next ((u.frameNak f.slot 0x48 0x22 f.seq).closeSpent f.slot))) ∧
    (∀ evs ok u, s.takesFrame p w f 0x23 x → memHeadOk f 8176 = true → f.payload.length = 16 + fieldAt f.payload 8 4 →
      (memLines f).all (fun l => (s.tookFrame p f).memTarget l.1) = true →
      (s.tookFrame p f).memWriteLines (memLines f) (f.payload.drop 16) evs = (ok, u) →
      exec (.memWrite p w evs) s = .next ((u.reply f.slot 0x23 (leBytes 4 (if ok then 0 else 0x48))).closeSpent f.slot) ∧
      (evs = [] → s.ms.cells = [] → s.ms.found = [] → ∃ s', exec (.memWrite p w evs) s = .next s' ∧
        s.Answers s' f x 0xA3 (leBytes 4 (if ok then 0 else 0x48)) ∧ s'.strands = s.strands ∧
        s.KeepsMemoryOutside s' (fieldAt f.payload 0 8) (fieldAt f.payload 8 4) ∧
        (ok = true → s'.bytes (fieldAt f.payload 0 8) (fieldAt f.payload 8 4) = f.payload.drop 16))) ∧
    (s.takesFrame p w f 0x24 x → 8 ≤ f.payload.length → doorbellOk f = true → fieldAt f.payload 0 2 < 4096 →
      let q := fieldAt f.payload 0 2
      let tail := fieldAt f.payload 4 4
      ∃ s', exec (.doorbell p w) s = .next s' ∧ s.Answers s' f x 0xA4 (leBytes 4 0 ++ leBytes 4 (s.queueState q)) ∧
        s.KeepsMemory s' ∧ s'.strands = s.strands ∧
        (s.queueState q = qActive → ahead tail (s.fget GFE_Q_CACK_COUNT q) ≤ 2 ^ (s.queue q).logSize →
          (s'.queue q).tail = tail) ∧
        (∀ k, k ≠ q → s'.queue k = s.queue k)) ∧
    (∀ q, s.takesFrame p w f 0x25 x → f.payload = leBytes 2 1 ++ leBytes 2 0 ++ leBytes 2 q → q < 4096 →
      ∃ s', exec (.poll p w) s = .next s' ∧ s.KeepsWork s' ∧
        s.Answers s' f x 0xA5 (leBytes 2 q ++ leBytes 1 (s.queueState q) ++ leBytes 1 (s.fget GFE_Q_STATE_OVERRUN q) ++
          leBytes 4 (s.fget GFE_Q_FETCHED_COUNT q) ++ leBytes 8 (s.pair GFE_Q_DONE_LO_COUNT GFE_Q_DONE_HI_COUNT q))) ∧
    (s.takesFrame p w f 0x40 x → f.payload.length = 32 →
      (s.ctp.attest = none → ∃ s', exec (.attest p w) s = .next s' ∧ s'.ctp.attest = some (f.slot, f.seq, f.payload) ∧
        s'.out = s.out ∧ s.KeepsWork s') ∧
      (s.ctp.attest ≠ none → ∃ s', exec (.attest p w) s = .next s' ∧ s.Answers s' f x 0xC0 (leBytes 8 0x46) ∧
        s'.ctp.attest = s.ctp.attest ∧ s.KeepsWork s')) ∧
    (∀ k q nonce, s.ctp.attest = some (k, q, nonce) → s.session k = some x → x.rx < 2 ^ 48 → x.tx + 5 < 2 ^ 48 →
      let c := s.report_ nonce ++ s.sec.certificate
      ∃ s', exec .attestReport s = .next s' ∧ s'.ctp.attest = none ∧ s.KeepsWork s' ∧
        s'.out = s.out ++ (List.range 5).map (fun i => x.says k i 0xC0
          (leBytes 2 0 ++ leBytes 1 i ++ leBytes 1 5 ++ leBytes 4 c.length ++ (c.drop (8184 * i)).take 8184)))

/-- A malformed HELLO is dropped. A HELLO of a key that has no isolated slot opens a session in the FREE slot, where
there is one, and sends CHALLENGE; one whose key is refused while no slot is FREE is a violation answered REFUSE
(stated after the first HELLO). A PROOF whose HMAC matches makes the session observer, one of a store key without
touching the work; one that does not match is a violation and frees the slot. A CLAIM with an owner credential opens
an election, or joins the open one, while none owns the device, and without one is refused 0x42; while elections are
barred it is refused 0x46, and while the device is owned 0x41. Not before 50 ms the election makes its first candidate
owner and closes. HANDOVER to an observer with an owner credential makes it owner (stated whole where no firmware
commit waits); else RESULT is 0x45. A frame sealed under a traffic key opens to itself. CLOSE, with no firmware commit
waiting, answers and closes; a session silent for 10 s closes; an owner silent for 500 ms loses ownership, and one
that is not keeps it. A type that is not listed is a violation. A violation window that has passed restarts the
counts. From stage 2 on an optical link that changes shows in LINK_UP, and with neither lit the time of darkness
starts; after 1 s of it a PORT reset ends the sessions and ownership. -/
def Obligations.ControlSessions : Prop :=
  ∀ (s : State) (p : Nat) (w f : Frame) (x : Session),
    (f.type = 1 → s.ctpUp p = true → s.fget CTP_PORT_STATUS_ISOLATED p = 0 →
      (f.badHeader = false → f.payload.length = 88 → exec (.hello p f) s =
        .next ((s.bump64 CTP_RX_FRAMES_LO_COUNT CTP_RX_FRAMES_HI_COUNT 1 p).hello p f)) ∧
      (f.badHeader = true ∨ f.payload.length ≠ 88 → exec (.hello p f) s =
        .next ((s.bump64 CTP_RX_FRAMES_LO_COUNT CTP_RX_FRAMES_HI_COUNT 1 p).dropFrame p 1 1))) ∧
    (∀ key e k, p < 2 → e < 16 → s.helloKey (slice f.payload 0 48) = .ok (key, some e) → f.seq < 2 ^ 48 →
      (s.ctp.isolated.any (fun i => i.2.1 == p && i.2.2 == slice f.payload 0 48)) = false →
      (List.range 16).filter (fun k => s.sessState k == sessFree) = [k] → s.session k = none →
      ∃ y, (s.hello p f).session k = some y ∧ y.port = p ∧ y.key = key ∧ y.entry = some e ∧ y.rx = f.seq ∧ y.tx = 1 ∧
        y.lastAt = s.now ∧ (s.hello p f).sessState k = sessOpening ∧ s.KeepsWork (s.hello p f) ∧
        ∃ fr, (s.hello p f).out = s.out ++ [.frame p fr] ∧ fr.type = 2 ∧ fr.slot = k ∧ fr.flags = 0) ∧
    (∀ cause, s.ctp.hello = true → s.helloKey (slice f.payload 0 48) = .error cause →
      (List.range 16).filter (fun k => s.sessState k == sessFree) = [] →
      s.hello p f = ({ s with free := s.free + 1 } : State).violation p none cause 1 (fun s => s.refuse p 0xFF cause)) ∧
    (s.takesFrame p w f 3 x → f.payload.length = 32 →
      (f.payload = s.openMac x "AXCP-PROOF" f.slot → exec (.proof p w) s =
        .next (((s.tookFrame p f).acceptSession f.slot { x with rx := f.seq, lastAt := s.now }).closeSpent f.slot)) ∧
      (f.payload = s.openMac x "AXCP-PROOF" f.slot → x.entry.isSome = true →
        ∃ s', exec (.proof p w) s = .next s' ∧ s'.sessState f.slot = sessObserver ∧ s.KeepsWork s') ∧
      (f.payload ≠ s.openMac x "AXCP-PROOF" f.slot → exec (.proof p w) s =
        .next ((((s.tookFrame p f).bump SEC_AUTH_FAIL_COUNT).violation p (some (f.slot, x.entry, x.digest)) 4 3
          (fun s => (s.refuse p f.slot 4).closeSession f.slot)).closeSpent f.slot))) ∧
    (s.takesFrame p w f 0x30 x → f.payload = [] → s.electionsBarred = false → s.fget CTP_OWNER_VALID = 0 →
      s.fget CTP_ELECTION_OPEN = 1 →
      (s.fget CTP_SESS_STATE_OWNER_CRED f.slot = 1 → ∃ s', exec (.claim p w) s = .next s' ∧
        s'.ctp.claims = s.ctp.claims ++ [(f.slot, f.seq)] ∧ s'.fget CTP_ELECTION_OPEN = 1 ∧ s'.out = s.out ∧ s.KeepsWork s') ∧
      (s.fget CTP_SESS_STATE_OWNER_CRED f.slot = 0 → ∃ s', exec (.claim p w) s = .next s' ∧
        s.Answers s' f x 0xB0 (leBytes 4 0x42 ++ leBytes 4 0xFF) ∧ s.KeepsWork s')) ∧
    (s.takesFrame p w f 0x30 x → f.payload = [] → s.electionsBarred = false → s.fget CTP_OWNER_VALID = 0 →
      s.fget CTP_ELECTION_OPEN = 0 →
      ((s.credOf x).1 = true → ∃ s', exec (.claim p w) s = .next s' ∧ s'.ctp.claims = s.ctp.claims ++ [(f.slot, f.seq)] ∧
        s'.ctp.electionAt = s.now ∧ s'.fget CTP_ELECTION_OPEN = 1 ∧ s'.out = s.out ∧ s.KeepsWork s') ∧
      ((s.credOf x).1 = false → ∃ s', exec (.claim p w) s = .next s' ∧
        s.Answers s' f x 0xB0 (leBytes 4 0x42 ++ leBytes 4 0xFF) ∧ s.KeepsWork s')) ∧
    (s.takesFrame p w f 0x30 x → f.payload = [] →
      (s.electionsBarred = true → ∃ s', exec (.claim p w) s = .next s' ∧
        s.Answers s' f x 0xB0 (leBytes 4 0x46 ++ leBytes 4 s.winner) ∧ s.KeepsWork s') ∧
      (s.electionsBarred = false → s.fget CTP_OWNER_VALID = 1 → s.fget CTP_SESS_STATE_OWNER_CRED f.slot = 1 →
        ∃ s', exec (.claim p w) s = .next s' ∧
          s.Answers s' f x 0xB0 (leBytes 4 0x41 ++ leBytes 4 (s.fget CTP_OWNER_SLOT)) ∧ s.KeepsWork s')) ∧
    (∀ k, s.fget CTP_ELECTION_OPEN = 1 → s.ctp.electionAt + 50_000_000 ≤ s.now →
      argMin s.candidateKey (s.ctp.claims.map (·.1)) = some k → exec .electionClose s = .next (s.closeElection k)) ∧
    (s.fget CTP_ELECTION_OPEN = 1 → s.now < s.ctp.electionAt + 50_000_000 → exec .electionClose s = .next s) ∧
    (∀ k y, s.fget CTP_ELECTION_OPEN = 1 → s.ctp.electionAt + 50_000_000 ≤ s.now → s.ctp.claims = [(k, y)] → k < 16 →
      s.session k = none → s.fget CTP_OWNER_VALID = 0 →
      ∃ s', exec .electionClose s = .next s' ∧ s'.fget CTP_OWNER_VALID = 1 ∧ s'.fget CTP_OWNER_SLOT = k ∧
        s'.fget CTP_ELECTION_OPEN = 0 ∧ s'.ctp.claims = [] ∧ s.KeepsWork s') ∧
    (∀ k, s.takesFrame p w f 0x31 x → f.payload = leBytes 1 k ++ leBytes 3 0 → k < 16 → k ≠ f.slot → s.sessState k = sessObserver →
      s.fget CTP_SESS_STATE_OWNER_CRED k = 1 → s.sec.commit = none →
      ∃ s', exec (.handover p w) s = .next s' ∧ s.Answers s' f x 0xB1 (leBytes 4 0) ∧
        s'.fget CTP_OWNER_VALID = 1 ∧ s'.fget CTP_OWNER_SLOT = k ∧ s'.sessState k = sessOwner ∧
        s'.sessState f.slot = sessObserver ∧ s.KeepsWork s') ∧
    (∀ k, s.takesFrame p w f 0x31 x → f.payload = leBytes 1 k ++ leBytes 3 0 → k < 16 → k ≠ f.slot →
      (s.sessState k = sessObserver → s.fget CTP_SESS_STATE_OWNER_CRED k = 1 → exec (.handover p w) s =
        .next ((((s.tookFrame p f).newOwner k).reply f.slot 0x31 (leBytes 4 0)).closeSpent f.slot)) ∧
      (s.sessState k ≠ sessObserver ∨ s.fget CTP_SESS_STATE_OWNER_CRED k ≠ 1 → ∃ s', exec (.handover p w) s = .next s' ∧
        s.Answers s' f x 0xB1 (leBytes 4 0x45) ∧ s.KeepsWork s')) ∧
    (∀ (g : Frame) (key : List Byte) (dir : Nat), g.tag = [] → (g.sealed key dir).opened key dir = some g) ∧
    (s.takesFrame p w f 0x11 x → f.payload = [] → s.sec.commit = none → ∃ s', exec (.close p w) s = .next s' ∧ s'.session f.slot = none ∧
      s'.out = s.out ++ [x.says f.slot 0 0x91 (leBytes 4 0)] ∧ s.KeepsWork s') ∧
    (∀ k, s.session k = some x → (x.lastAt + 10_000_000_000 ≤ s.now →
        ∃ s', exec (.sessionTimeout k) s = .next s' ∧ s'.session k = none ∧ s.KeepsWork s') ∧
      (s.now < x.lastAt + 10_000_000_000 → exec (.sessionTimeout k) s = .next s)) ∧
    (s.fget CTP_OWNER_VALID = 1 → s.ctp.ownerAt + 500_000_000 ≤ s.now → ∃ s', exec .heartbeatLoss s = .next s' ∧
      s'.fget CTP_OWNER_VALID = 0 ∧ s.KeepsWork s') ∧
    (s.now < s.ctp.ownerAt + 500_000_000 → exec .heartbeatLoss s = .next s) ∧
    (nodeTypes.contains f.type = false → s.ctpUp p = true → s.fget CTP_PORT_STATUS_ISOLATED p = 0 → f.badHeader = false →
      s.session f.slot = some x → x.port = p → exec (.unknownType p f) s =
        .next ((s.bump64 CTP_RX_FRAMES_LO_COUNT CTP_RX_FRAMES_HI_COUNT 1 p).frameViol f 9)) ∧
    (p < 2 → (s.viols p).since + 1_000_000 * max 1 (s.fget CTP_VIOL_CTRL_WINDOW_MS p) ≤ s.now →
      ∃ s', exec (.violWindowEnd p) s = .next s' ∧ (s'.viols p).port = 0 ∧ (s'.viols p).slots = [] ∧
        s' = { s with ctp := s'.ctp }) ∧
    (p < 2 → 2 ≤ s.fget PWR_STATUS_STAGE → s.pwr.held = false → s.pwr.dark = false →
      (∃ s', exec (.opticalLinkChange p true) s = .next s' ∧ s'.fget CTP_PORT_STATUS_LINK_UP p = 1 ∧ s'.ctp.darkAt = none ∧
        s.KeepsWork s') ∧
      (s.fget CTP_PORT_STATUS_LINK_UP p = 1 → s.fget CTP_PORT_STATUS_LINK_UP (1 - p) = 0 →
        ∃ s', exec (.opticalLinkChange p false) s = .next s' ∧ s'.fget CTP_PORT_STATUS_LINK_UP p = 0 ∧
          s'.ctp.darkAt = some s.now ∧ s.KeepsWork s')) ∧
    (∀ t, s.ctp.darkAt = some t → (t + 1_000_000_000 ≤ s.now → ∃ s', exec .lossOfLight s = .next s' ∧ s'.ctp.sessions = [] ∧
        s'.fget CTP_OWNER_VALID = 0 ∧ s'.fget PWR_BOOT_RESET_KIND = 3 ∧ s'.ctp.darkAt = none ∧ s.KeepsWork s') ∧
      (s.now < t + 1_000_000_000 → exec .lossOfLight s = .next s))

/-- Of frames that no judgement up to NOT_OWNER refuses: KEY_ENROLL and KEY_REVOKE, with no firmware commit waiting,
store the key in the entry and erase one that can be revoked, and are answered RESULT 0; one that cannot is answered
6. KEYSET_ENROLL adds a set not yet held and answers its digest, and refuses a fifth with 6; KEYSET_REMOVE takes away
a set that is held and that no active survey names. FW_STAGE with FIRST erases the inactive slot, opens staging and
queues its data; FW_STAGE_WRITTEN writes the data at the head to that slot and answers its FW_STAGE; FW_COMMIT begins
checking; FW_COMMIT_DONE waits for staged data, refuses an image that fails the check, marks one that passes, and in a
later step makes its slot the next to boot. ADVANCE moves to PRODUCTION with a key stored, dropping the transport key,
and to RETURN with all zeroised and keys and sets gone; to a state that is not the next it is answered 6 and nothing
moves. FLOOR raises SEC_FW_FLOOR to the running version where that is greater. But for the move to RETURN and a
refused image, none touches the work. -/
def Obligations.ControlAdministration : Prop :=
  ∀ (s : State) (p : Nat) (w f : Frame) (x : Session),
    (∀ e, s.takesFrame p w f 0x50 x → f.payload.length = 48 → fieldAt f.payload 0 1 = e → e ≤ 15 → zeroAt f.payload 1 15 = true →
      s.sec.commit = none →
      ∃ s', exec (.keyEnroll p w) s = .next s' ∧ s'.sec.keys.find? (fun k => k.1 == e) = some (e, slice f.payload 16 32) ∧
        (∀ d, d ≠ e → s'.sec.keys.find? (fun k => k.1 == d) = s.sec.keys.find? (fun k => k.1 == d)) ∧
        s'.out = s.out ++ [x.says f.slot 0 0xD0 (leBytes 4 0)] ∧ s.KeepsWork s') ∧
    (∀ e, s.takesFrame p w f 0x51 x → f.payload = leBytes 1 e ++ leBytes 3 0 → e ≤ 15 →
      (s.revocable e = true → s.sec.commit = none → ∃ s', exec (.keyRevoke p w) s = .next s' ∧ s'.sec.keys.find? (fun k => k.1 == e) = none ∧
        s'.out = s.out ++ [x.says f.slot 0 0xD1 (leBytes 4 0)] ∧ s.KeepsWork s') ∧
      (s.revocable e = false → ∃ s', exec (.keyRevoke p w) s = .next s' ∧ s'.sec = s.sec ∧
        s.Answers s' f x 0xD1 (leBytes 4 6) ∧ s.KeepsWork s')) ∧
    (s.takesFrame p w f 0x52 x → f.payload.length = 436 → s.sec.keysets.contains f.payload = false →
      (s.sec.keysets.length < 4 → ∃ s', exec (.keysetEnroll p w) s = .next s' ∧
        s'.sec.keysets = s.sec.keysets ++ [f.payload] ∧ s.Answers s' f x 0xD2 (leBytes 4 0 ++ sha384 f.payload) ∧
        s'.fget SEC_KEYS_KEYSETS = s.sec.keysets.length + 1 ∧ s.KeepsWork s') ∧
      (4 ≤ s.sec.keysets.length → ∃ s', exec (.keysetEnroll p w) s = .next s' ∧ s'.sec = s.sec ∧
        s.Answers s' f x 0xD2 (leBytes 4 6 ++ List.replicate 48 0#8) ∧ s.KeepsWork s')) ∧
    (s.takesFrame p w f 0x53 x → f.payload.length = 48 → s.svy.running = [] ∨ imageKeyset s.svy.running ≠ f.payload →
      (keysetNamed s.sec.keysets f.payload).isSome = true →
      ∃ s', exec (.keysetRemove p w) s = .next s' ∧ (∀ k ∈ s'.sec.keysets, sha384 k ≠ f.payload) ∧
        s.Answers s' f x 0xD3 (leBytes 4 0) ∧ s.KeepsWork s') ∧
    (s.takesFrame p w f 0x60 x → fwStageOk f = true → s.sec.commit = none → fieldAt f.payload 4 1 = 1 →
      ∃ s', exec (.fwStage p w) s = .next s' ∧ s'.fwSlot s'.stageSlot = [] ∧ s'.stageSlot = s.stageSlot ∧
        s'.fget SEC_FW_STATUS_STAGE_STATE = fwStaging ∧ s'.sec.fwStaged.getLast? = some
          { off := 0, bytes := f.payload.drop 8, answer := some (f.slot, 0x60, f.seq, 0) } ∧ s'.out = s.out ∧ s.KeepsWork s') ∧
    (∀ y rest, s.sec.fwStaged = y :: rest → y.bytes ≠ [] → y.answer = none → ∃ s', exec .fwStageWritten s = .next s' ∧
      s'.fwSlot s.stageSlot = flashWrite (s.fwSlot s.stageSlot) y.off y.bytes ∧ s'.sec.fwStaged = rest ∧
      s' = { s with sec := s'.sec }) ∧
    (∀ y rest k ty sq, s.sec.fwStaged = y :: rest → y.bytes ≠ [] → y.answer = some (k, ty, sq, 0) → s.session k = some x →
      x.rx < 2 ^ 48 → x.tx + 1 < 2 ^ 48 → ∃ s', exec .fwStageWritten s = .next s' ∧
      s'.fwSlot s.stageSlot = flashWrite (s.fwSlot s.stageSlot) y.off y.bytes ∧ s'.sec.fwStaged = rest ∧
      s'.out = s.out ++ [x.says k 0 (0x80 + ty) (leBytes 4 0)] ∧ s.KeepsWork s') ∧
    (∀ n, s.takesFrame p w f 0x61 x → f.payload = leBytes 4 n ++ leBytes 4 0 → n < 2 ^ 32 → s.sec.commit = none →
      ∃ s', exec (.fwCommit p w) s = .next s' ∧
        s'.sec.commit = some { session := f.slot, seq := some f.seq, length := n, checked := false } ∧
        s'.fget SEC_FW_STATUS_STAGE_STATE = fwChecking ∧ s'.out = s.out ∧ s.KeepsWork s') ∧
    (∀ c, s.sec.commit = some c →
      (s.sec.fwStaged ≠ [] → exec .fwCommitDone s = .next s) ∧
      (s.sec.fwStaged = [] → c.checked = true → ∃ s', exec .fwCommitDone s = .next s' ∧ s'.sec.nextSlot = s.stageSlot ∧
        s'.sec.commit = none ∧ s'.fget SEC_FW_STATUS_STAGE_STATE = fwReady ∧ s.KeepsWork s') ∧
      (s.sec.fwStaged = [] → c.checked = false →
        exec .fwCommitDone s = .next (match fwCommitCheck s.orderingCode (s.fget SEC_FW_FLOOR_FLOOR)
            (if c.length ≤ fwMax then flashRead (s.fwSlot s.stageSlot) c.length else []) c.length with
          | some code => if c.seq.isSome then (s.refuseFw code).closeSpent c.session else s.refuseFw code
          | none => { s with sec := { s.sec with commit := some { c with checked := true } } }))) ∧
    (∀ v, s.takesFrame p w f 0x62 x → f.payload = leBytes 1 1 ++ leBytes 1 v ++ leBytes 2 0 → v ≤ 3 →
      (v ≠ s.lifecycle + 1 → ∃ s', exec (.advance p w) s = .next s' ∧ s.Answers s' f x 0xE2 (leBytes 4 6) ∧
        s'.lifecycle = s.lifecycle ∧ s.KeepsWork s') ∧
      (v = s.lifecycle + 1 → v = lifeProduction → s.sec.keys ≠ [] → ∃ s', exec (.advance p w) s = .next s' ∧
        s.Answers s' f x 0xE2 (leBytes 4 0) ∧ s'.lifecycle = lifeProduction ∧ s'.sec.transport = none ∧ s.KeepsWork s') ∧
      (v = s.lifecycle + 1 → v = lifeReturn → let t := (s.tookFrame p f).reply f.slot 0x62 (leBytes 4 0)
        exec (.advance p w) s = .next t.toReturn ∧ t.zeroiseAll.mem = [] ∧ t.zeroiseAll.items = [] ∧
        t.toReturn.lifecycle = lifeReturn ∧ t.toReturn.sec.keys = [] ∧ t.toReturn.sec.keysets = [])) ∧
    (s.takesFrame p w f 0x62 x → f.payload = leBytes 1 2 ++ leBytes 3 0 → ∃ s', exec (.floor p w) s = .next s' ∧
      s.Answers s' f x 0xE2 (leBytes 4 0) ∧ s.KeepsWork s' ∧
      s'.fget SEC_FW_FLOOR_FLOOR = max (s.fget SEC_FW_FLOOR_FLOOR) (s.fget SEC_FW_VERSION_VERSION))

/-- A GO of CREATE, DESTROY or RECLAIM by a requester that may write the set: while a command is BUSY it sets
REFUSED_BUSY; on a chamber that is not LIVE it is refused NOT_LIVE; otherwise CREATE makes STATE BUSY, DESTROY of an
ACTIVE queue of the chamber makes it DRAINING and ends its items, RECLAIM of one torn down makes it FREE, and either
of another queue is refused BAD_QUEUE. QCB_READ of a running CREATE makes the lowest FREE queue ACTIVE with its QCB's
fields and the next epoch, or refuses: a chamber no longer LIVE, a QCB that faults, that breaks its rules, no queue
left; lines of other devices must be there. TEARDOWN_DONE makes a DRAINING queue with no item and no serving task
TEARDOWN_DONE. A doorbell on an ACTIVE queue sets TAIL within the ring and OVERRUN beyond it; on another queue it does
nothing. A CACK write sets CACK, at most to DONE; a CANCEL ends the item of that SEQ 0x22, and does nothing where none
is outstanding. A requester that may not write changes nothing. -/
def Obligations.QueueCommands : Prop :=
  ∀ (s : State) (r : Requester) (n q : Nat), n < 16 → q < 4096 →
    (s.mayWriteSet r n = true → s.fget GFE_QCMD_STATUS_STATE n ≠ 1 → s.chLive n = true →
      (∃ s', exec (.create r n) s = .next s' ∧ s'.fget GFE_QCMD_STATUS_STATE n = 1 ∧
        s'.gfeCmd (2 * n) = ⟨1, s.fget GFE_QCMD_QUEUE n, s.qcmdAddr n⟩ ∧ s.KeepsWork s' ∧
        s.KeepsRegsBut s' [regAddr GFE_QCMD n 0, regAddr GFE_QCMD_STATUS n 0]) ∧
      (s.queueChamber q = n → s.queueState q = qActive →
        exec (.destroy r n q) s =
          .next (((((s.fset GFE_QCMD_OP 2 n).fset GFE_QCMD_QUEUE q n).teardown q)).qcmdDone n q) ∧
        (s.servers q = [] → s.itemsOf q = [] →
          ∃ s', exec (.destroy r n q) s = .next s' ∧ s'.queueState q = qDraining ∧
            s'.fget GFE_QCMD_STATUS_STATE n = 2 ∧ s'.fget GFE_QCMD_STATUS_QUEUE n = q ∧ s.KeepsWork s')) ∧
      (s.queueChamber q = n → s.queueState q = qTeardownDone → ∃ s', exec (.reclaim r n q) s = .next s' ∧
        s'.queueState q = qFree ∧ s'.fget GFE_QCMD_STATUS_STATE n = 2 ∧ s.KeepsMemory s' ∧ s'.strands = s.strands ∧
        s'.items = s.items ∧ s'.queue q = Queue.none ∧ (∀ k, k ≠ q → s'.queue k = s.queue k)) ∧
      (s.queueChamber q ≠ n ∨ s.queueState q ≠ qActive → ∃ s', exec (.destroy r n q) s = .next s' ∧
        s'.fget GFE_QCMD_STATUS_STATE n = 3 ∧ s'.fget GFE_QCMD_STATUS_RESULT n = 4 ∧ s.KeepsWork s') ∧
      (s.queueChamber q ≠ n ∨ s.queueState q ≠ qTeardownDone → ∃ s', exec (.reclaim r n q) s = .next s' ∧
        s'.fget GFE_QCMD_STATUS_STATE n = 3 ∧ s'.fget GFE_QCMD_STATUS_RESULT n = 4 ∧ s.KeepsWork s')) ∧
    (s.mayWriteSet r n = true → s.fget GFE_QCMD_STATUS_STATE n = 1 →
      exec (.create r n) s = .next (s.fset GFE_QCMD_STATUS_REFUSED_BUSY 1 n) ∧
      exec (.destroy r n q) s = .next (s.fset GFE_QCMD_STATUS_REFUSED_BUSY 1 n) ∧
      exec (.reclaim r n q) s = .next (s.fset GFE_QCMD_STATUS_REFUSED_BUSY 1 n)) ∧
    (s.mayWriteSet r n = true → s.fget GFE_QCMD_STATUS_STATE n ≠ 1 → s.chLive n = false →
      let refused : State → Prop := fun s' =>
        s'.fget GFE_QCMD_STATUS_STATE n = 3 ∧ s'.fget GFE_QCMD_STATUS_RESULT n = 3 ∧ s.KeepsWork s'
      (∃ s', exec (.create r n) s = .next s' ∧ refused s') ∧ (∃ s', exec (.destroy r n q) s = .next s' ∧ refused s') ∧
      (∃ s', exec (.reclaim r n q) s = .next s' ∧ refused s')) ∧
    (s.mayWriteSet r n = false → exec (.create r n) s = .next s ∧ exec (.destroy r n q) s = .next s ∧
      exec (.reclaim r n q) s = .next s) ∧
    (s.fget GFE_QCMD_STATUS_STATE n ≠ 1 → exec (.qcbRead n) s = .next s) ∧
    (s.fget GFE_QCMD_STATUS_STATE n = 1 → s.chLive n = false → exec (.qcbRead n) s = .next (s.qcmdRefuse n 3 0)) ∧
    (let o : Owner := .command (2 * n)
     let t := (s.asksAs o).qcbRead n
     s.fget GFE_QCMD_STATUS_STATE n = 1 → s.chLive n = true → s.awaitsNoRead o → t.ms.wanted = [] →
      exec (.qcbRead n) s = .next (t.readAll o).deliver) ∧
    (∀ f s1, s.readVa (s.reqGfe n) n (s.gfeCmd (2 * n)).addr 64 = (.error f, s1) → s.qcbRead n = s1.qcmdRefuse n 6 0) ∧
    (∀ b s1, s.readVa (s.reqGfe n) n (s.gfeCmd (2 * n)).addr 64 = (.ok b, s1) →
      (qcbOk (s1.chamber n).galleries b = false → s.qcbRead n = s1.qcmdRefuse n 2 0) ∧
      (qcbOk (s1.chamber n).galleries b = true →
        ((s1.chamber n).queues ≤ (s1.heldQueues n).length ∨ (∀ k < 4096, s1.queueState k ≠ qFree) →
          s.qcbRead n = s1.qcmdRefuse n 1 0) ∧
        ((s1.heldQueues n).length < (s1.chamber n).queues →
          (List.range 4096).find? (fun q => s1.queueState q == qFree) = some q →
          let s' := s.qcbRead n
          s'.queueState q = qActive ∧ s'.queueChamber q = n ∧
          s'.queueClass q = fieldAt b 0x11 1 ∧ s'.fget GFE_Q_STATE_EPOCH q = nextEpoch (s1.fget GFE_Q_STATE_EPOCH q) ∧
          s'.fget GFE_QCMD_STATUS_STATE n = 2 ∧ s'.fget GFE_QCMD_STATUS_QUEUE n = q ∧ (s'.queue q).ring = fieldAt b 0 8 ∧
          (s'.queue q).cring = fieldAt b 8 8 ∧ (s'.queue q).logSize = fieldAt b 0x10 1 ∧ (s'.queue q).tail = 0 ∧
          (s'.queue q).galleries = fieldAt b 0x12 2 ∧ (s'.queue q).timeoutUs = fieldAt b 0x14 4 ∧
          (s'.queue q).weight = fieldAt b 0x18 2 ∧ s'.fget GFE_Q_FETCHED_COUNT q = 0 ∧ s1.KeepsMemory s'))) ∧
    (let t := s.settleAll
     (t.queueState q = qDraining → t.itemsOf q = [] → t.servers q = [] →
       exec (.teardownDone q) s = .next (t.fset GFE_Q_STATE_STATE qTeardownDone q)) ∧
     (t.queueState q ≠ qDraining ∨ t.itemsOf q ≠ [] ∨ t.servers q ≠ [] → exec (.teardownDone q) s = .next t)) ∧
    (∀ tail, tail < 2 ^ 32 → s.mayWriteQueue r q = true →
      (s.queueState q = qActive → ahead tail (s.fget GFE_Q_CACK_COUNT q) ≤ 2 ^ (s.queue q).logSize →
        exec (.qDbWrite r q tail) s = .next (s.setQueue q { s.queue q with tail := tail })) ∧
      (s.queueState q = qActive → 2 ^ (s.queue q).logSize < ahead tail (s.fget GFE_Q_CACK_COUNT q) →
        exec (.qDbWrite r q tail) s = .next (s.fset GFE_Q_STATE_OVERRUN 1 q)) ∧
      (s.queueState q ≠ qActive → exec (.qDbWrite r q tail) s = .next s)) ∧
    (∀ v, v < 2 ^ 32 → s.mayWriteQueue r q = true →
      let old := s.fget GFE_Q_CACK_COUNT q
      let done := s.fget GFE_Q_DONE_LO_COUNT q
      ∃ s', exec (.qCackWrite r q v) s = .next s' ∧
        s'.fget GFE_Q_CACK_COUNT q = (if ahead v old ≤ ahead done old then v else done) ∧ s.KeepsWork s' ∧
        s.KeepsRegsBut s' [regAddr GFE_Q_CACK q 0]) ∧
    (∀ seq, s.mayWriteQueue r q = true →
      exec (.qCancel r q seq) s = .next (s.abortItem ⟨q, seq, none⟩ 0x22) ∧
      ((∀ i ∈ s.items, i.key.queue = q → i.key.seq ≠ seq) → exec (.qCancel r q seq) s = .next s)) ∧
    (s.mayWriteQueue r q = false → ∀ v, exec (.qDbWrite r q v) s = .next s ∧ exec (.qCackWrite r q v) s = .next s ∧
      exec (.qCancel r q v) s = .next s)

/-- By a requester that may write the set: while a command is BUSY a GO sets REFUSED_BUSY; on a LIVE chamber
GRAPH_CREATE and PATCH make STATE BUSY, and GRAPH_DESTROY of a stored graph ends DONE, the graph gone when no launch
of it is without its record, and is refused BAD_GRAPH where none is stored. Any other requester changes nothing.
GRAPH_CREATE_DONE and PATCH_DONE do nothing where no such command runs, refuse one whose chamber is no longer LIVE,
and run it once every line of another device is there. A CREATE whose image is read, well formed, not stored yet,
placed in the area and written stores the graph with version 1; an image that breaks its layout is refused. A PATCH of
a stored graph writes the buffer, in place where no launch may still read it and in a free place otherwise, and makes
the next version the newest. A node with its dependencies ended, none failed, that has not started is dispatched to a
gallery, or ends at once when it is a MARKER; one whose launch is not there is not. -/
def Obligations.GraphCommands : Prop :=
  ∀ (s : State) (r : Requester) (n g : Nat), n < 16 → g < 64 →
    (s.mayWriteSet r n = true → s.fget GFE_GCMD_STATUS_STATE n ≠ 1 → s.chLive n = true →
      (∃ s', exec (.graphCreate r n g) s = .next s' ∧ s'.fget GFE_GCMD_STATUS_STATE n = 1 ∧
        s'.gfeCmd (2 * n + 1) = ⟨1, g, s.gcmdAddr n⟩ ∧ s.KeepsWork s' ∧ s'.graphs = s.graphs) ∧
      (∃ s', exec (.patch r n) s = .next s' ∧ s'.fget GFE_GCMD_STATUS_STATE n = 1 ∧
        s'.gfeCmd (2 * n + 1) = ⟨2, s.fget GFE_GCMD_GRAPH n, s.gcmdAddr n⟩ ∧ s.KeepsWork s' ∧ s'.graphs = s.graphs) ∧
      (∀ G, s.pruneGraphs.graph n g = some G → G.destroyed = false → ∃ s', exec (.graphDestroy r n g) s = .next s' ∧
        s'.fget GFE_GCMD_STATUS_STATE n = 2 ∧ s.KeepsWork s' ∧ (s.launches n g = [] → s'.graph n g = none)) ∧
      (s.pruneGraphs.graph n g = none → ∃ s', exec (.graphDestroy r n g) s = .next s' ∧
        s'.fget GFE_GCMD_STATUS_STATE n = 3 ∧ s'.fget GFE_GCMD_STATUS_RESULT n = 4 ∧ s.KeepsWork s')) ∧
    (s.mayWriteSet r n = true → s.fget GFE_GCMD_STATUS_STATE n = 1 →
      exec (.graphCreate r n g) s = .next (s.fset GFE_GCMD_STATUS_REFUSED_BUSY 1 n) ∧
      exec (.patch r n) s = .next (s.fset GFE_GCMD_STATUS_REFUSED_BUSY 1 n) ∧
      exec (.graphDestroy r n g) s = .next (s.fset GFE_GCMD_STATUS_REFUSED_BUSY 1 n)) ∧
    (s.mayWriteSet r n = false → exec (.graphCreate r n g) s = .next s ∧ exec (.patch r n) s = .next s ∧
      exec (.graphDestroy r n g) s = .next s) ∧
    (let o : Owner := .command (2 * n + 1)
     let busy := s.fget GFE_GCMD_STATUS_STATE n = 1
     let op := (s.gfeCmd (2 * n + 1)).op
     (¬busy ∨ op ≠ 1 → exec (.graphCreateDone n) s = .next s) ∧
     (¬busy ∨ op ≠ 2 → exec (.patchDone n) s = .next s) ∧
     (busy → op = 1 → s.chLive n = false → exec (.graphCreateDone n) s = .next (s.gcmdRefuse n 7)) ∧
     (busy → op = 2 → s.chLive n = false → exec (.patchDone n) s = .next (s.gcmdRefuse n 7)) ∧
     (busy → op = 1 → s.chLive n = true → s.awaitsNoRead o → ((s.asksAs o).graphCreate n).ms.wanted = [] →
       exec (.graphCreateDone n) s = .next (((s.asksAs o).graphCreate n).readAll o).deliver) ∧
     (busy → op = 2 → s.chLive n = true → s.awaitsNoRead o → ((s.asksAs o).graphPatch n).ms.wanted = [] →
       exec (.patchDone n) s = .next (((s.asksAs o).graphPatch n).readAll o).deliver)) ∧
    (∀ op va h img s1 s2, s.gfeCmd (2 * n + 1) = ⟨op, g, va⟩ →
      let p := s.pruneGraphs
      p.readVa (p.reqGfe n) n va 64 = (.ok h, s1) → s1.readVa (p.reqGfe n) n va (fieldAt h 8 4) = (.ok img, s2) →
      (imageOk img = false → s.graphCreate n = s2.gcmdRefuse n 1) ∧
      (∀ o s3, imageOk img = true → s2.graph n g = none → s2.areaPlace n img.length = some o →
        s2.writeVa (p.reqGfe n) n (.copy ⟨4096 + n, 0, none⟩) 0xFFFF ((s2.graphArea n).1 + o) img = (none, s3) →
        ∃ G, (s.graphCreate n).fget GFE_GCMD_STATUS_STATE n = 2 ∧ (s.graphCreate n).fget GFE_GCMD_STATUS_VERSION n = 1 ∧
          (s.graphCreate n).graph n g = some G ∧ G.newest = 1 ∧ G.destroyed = false ∧ G.imageOff = o ∧
          G.nodes = (List.range (fieldAt img 4 2)).map (nodeRecord img) ∧ s3.KeepsWork (s.graphCreate n))) ∧
    (∀ op va b G cur buf new old s1 s2 s3 s4 o q, s.gfeCmd (2 * n + 1) = ⟨op, q, va⟩ →
      let p := s.pruneGraphs
      let k := fieldAt b 2 2
      p.readVa (p.reqGfe n) n va 32 = (.ok b, s1) → fieldAt b 0 2 = g → s1.graph n g = some G → G.destroyed = false →
      G.versions.find? (fun v => v.version == G.newest) = some cur → cur.bufs[k]? = some buf →
      fieldAt b 4 4 + fieldAt b 8 4 ≤ buf.len → G.versions.length < 16 →
      (s1.bufferInUse n g k G buf = false ∨ (s1.areaPlace n buf.len).isSome = true) →
      s1.readVa (s1.reqGfe n) n (fieldAt b 0x10 8) (fieldAt b 8 4) = (.ok new, s2) →
      (s2.bufferInUse n g k G buf = false ∧ o = buf.off ∨
        s2.bufferInUse n g k G buf = true ∧ s2.areaPlace n buf.len = some o) →
      s2.readVa (s2.reqGfe n) n ((s2.graphArea n).1 + buf.off) buf.len = (.ok old, s3) →
      s3.writeVa (s2.reqGfe n) n (.copy ⟨4096 + n, 0, none⟩) 0xFFFF ((s2.graphArea n).1 + o)
        (overlay old (fieldAt b 4 4) new) = (none, s4) →
      (s.graphPatch n).fget GFE_GCMD_STATUS_STATE n = 2 ∧
      (s.graphPatch n).fget GFE_GCMD_STATUS_VERSION n = nextEpoch G.newest ∧ s4.KeepsWork (s.graphPatch n) ∧
      ∃ G', (s.graphPatch n).graph n g = some G' ∧ G'.newest = nextEpoch G.newest ∧ G'.nodes = G.nodes) ∧
    (∀ q seq k, s.item ⟨q, seq, none⟩ = none → exec (.graphNodeDispatch q seq k) s = .next s) ∧
    (∀ q seq k p G rec_, s.item ⟨q, seq, none⟩ = some p → s.graph (s.queueChamber q) (fieldAt p.line 0x10 1) = some G →
      G.nodes[k]? = some rec_ → p.kind = kindGraph → p.ending = none → p.ended.any (fun e => e.1 == k) = false →
      s.item ⟨q, seq, some k⟩ = none → firstFailure p.ended = none →
      ((List.range (fieldAt rec_ 0x40 1)).all (fun d => p.ended.any (fun e => e.1 == fieldAt rec_ (0x48 + 2 * d) 2))) = true →
      let i := Item.fetched ⟨q, seq, some k⟩ (s.nodeItem (s.queueChamber q) G p.version rec_) p.epoch s.now
      (i.kind = kindMarker → exec (.graphNodeDispatch q seq k) s =
        .next (({ s with items := s.items ++ [{ i with phase := .gfe }] } : State).endItem i.key 0 0)) ∧
      (∀ h, i.kind ≠ kindMarker → s.pickGallery i = some h → exec (.graphNodeDispatch q seq k) s =
        .next (({ s with items := s.items ++ [i] } : State).place i h)))

/-- ITEM_FETCH reads the item at FETCHED of the queue whose turn it is and admits it, or ends it with the first check
it fails. ITEM_DISPATCH places a LAUNCH that waits alone in the LSQ of the gallery picked; ITEM_BIND binds one that
waits alone in an LSQ to the core picked, whose lowest FREE strand starts it. MARKER_END ends a marker no lower SEQ of
its queue lacks a record for. MESSAGE_DISPATCH gives the first message to the longest-waiting task. COPY_COMPLETE
without CLOSE writes the source bytes, counts them and ends the item; DMV_ABORT_ACK stops a copy after some lines.
AGE_EXPIRY ages a READY strand and a waiting item after AGE_US. ITEM_TIMEOUT aborts after TIMEOUT_US, 0x12 where an
append waits for pages. PREEMPT takes the one victim it needs for the one item that cannot bind, or aborts it at
PREEMPT_MAX. SUSPEND_DONE saves a victim's range and suspends it; RESUME restores the oldest suspension that fits.
Each changes nothing where there is nothing to do. -/
def Obligations.ItemLife : Prop :=
  ∀ (s : State) (n g c t : Nat),
    (s.fetchQueues n 0 = [] → s.fetchQueues n 1 = [] → exec (.itemFetch n) s = .next s) ∧
    (∀ cls q v, (cls = 0 ∧ s.fetchQueues n 0 ≠ []) ∨ (cls = 1 ∧ s.fetchQueues n 0 = []) →
      s.turn n cls (s.fetchQueues n cls) = (some q, v) → s.awaitsNoRead (.fetch q) →
      let u := ((s.asksAs (.fetch q)).turn n cls (s.fetchQueues n cls)).2.fetchFrom q none
      u.ms.wanted = [] → exec (.itemFetch n) s = .next (u.readAll (.fetch q)).deliver) ∧
    (∀ q b v,
      let k := s.fget GFE_Q_FETCHED_COUNT q
      let u := s.bumpWrap GFE_Q_FETCHED_COUNT 1 q
      u.readVa (u.reqGfe (s.queueChamber q)) (s.queueChamber q) ((s.queue q).ring + 64 * (k % 2 ^ (s.queue q).logSize)) 64 =
        (.ok b, v) →
      s.fetchFrom q none = v.admitItem (Item.fetched ⟨q, k, none⟩ b (v.fget GFE_Q_STATE_EPOCH q) v.now)) ∧
    (∀ i, (s.admission i = none → i.kind = kindLaunch → s.admitItem i = { s with items := s.items ++ [i] }) ∧
      (∀ code, s.admission i = some code → s.admitItem i =
        (if code = 0x40 then s else s.bump GFE_SCH_REFUSED_COUNT 1 (s.queueChamber i.key.queue)).finish
          { i with phase := .gfe, ending := some (code, 0) })) ∧
    ((∀ i ∈ s.items, i.phase ≠ .backlog) → exec (.itemDispatch n) s = .next s) ∧
    (∀ i, s.items = [i] → i.phase = .backlog → s.queueChamber i.key.queue = n → s.queueClass i.key.queue < 2 →
      i.kind = kindLaunch → s.pickGallery i = some g →
      exec (.itemDispatch n) s = .next { s with items := [{ i with phase := .lsq g s.now }] }) ∧
    (s.lsqItems g = [] → exec (.itemBind g) s = .next s) ∧
    (∀ i a, s.items = [i] → i.phase = .lsq g a → i.kind = kindLaunch → s.scanning g = false → s.pickCore g i = some c →
      s.lowestFree c = some t → c < 128 → t < 8192 → ∃ s' j, exec (.itemBind g) s = .next s' ∧
        s'.strand c t = Strand.start i s.tb s.now ∧ s'.items = [j] ∧ j.key = i.key ∧ j.phase = .bound c t ∧
        j.boundAt = s.now ∧ s.KeepsMemory s' ∧ s.KeepsStrandsBut s' c t) ∧
    (∀ q seq, s.item ⟨q, seq, none⟩ = none → exec (.markerEnd q seq) s = .next s) ∧
    (∀ q seq i, s.item ⟨q, seq, none⟩ = some i → i.kind = kindMarker → i.phase = .gfe →
      s.items.all (fun j => j.key.queue != q || j.key.seq == seq || ahead j.key.seq seq < 2 ^ 31) = true →
      exec (.markerEnd q seq) s = .next (s.endItem ⟨q, seq, none⟩ 0 0)) ∧
    (∀ q, s.longestTaker q = none → exec (.messageDispatch q) s = .next s) ∧
    (∀ q i w, (s.itemsOf q).find? (fun i => i.kind == kindMessage && i.phase == .backlog && s.inOrderOk i) = some i →
      s.longestTaker q = some (c, t) → (s.strand c t).ir = some w → c < 128 → t < 8192 →
      ∃ s', exec (.messageDispatch q) s = .next s' ∧ s.KeepsMemory s' ∧ s.KeepsStrandsBut s' c t ∧
        s'.strand c t = { (s.strand c t).setPair (rdOf w) ((s.queue q).ring + 64 * (i.key.seq % 2 ^ (s.queue q).logSize)) with
          taken := some i.key, wait := .none, pc := ((s.strand c t).pc + 8) % 2 ^ 57, ir := none }) ∧
    (∀ k i d, s.item k = some i → i.phase = .mover g d →
      let u := (s.asksAs (.copy k)).copyRun i g d
      (s.copyMay i g d = false ∨ s.copyBehind i g d = true → exec (.copyComplete k) s = .next s) ∧
      (s.copyMay i g d = true → s.copyBehind i g d = false → s.awaitsNoRead (.copy k) → u.ms.wanted = [] →
        exec (.copyComplete k) s = .next (u.readAll (.copy k)).deliver)) ∧
    (∀ i d,
      let len := fieldAt i.line 0x20 4
      let m := s.queueChamber i.key.queue
      let r := reqMover g d
      (∀ f u, s.readVa r m (fieldAt i.line 0x10 8) len = (.error f, u) →
        s.copyRun i g d = u.copyOver i.key g d len (some f)) ∧
      (∀ bs u v, bitOf (fieldAt i.line 0x24 1) 0 = false → s.readVa r m (fieldAt i.line 0x10 8) len = (.ok bs, u) →
        bs.length = len → u.copyOut r m i.key (copyPieces (fieldAt i.line 0x18 8) len) bs = (none, v) →
        s.copyRun i g d = (((v.modItem i.key (fun j => { j with unitDone := true, copied := len })).forget (.copy i.key)).bump64
          DMV_BYTES_LO_COUNT DMV_BYTES_HI_COUNT len g d).endItem i.key 0 0)) ∧
    (∀ k i d, s.item k = some i → i.phase = .mover g d →
      (i.ending = none ∨ i.unitDone = true → exec (.dmvAbortAck k) s = .next s) ∧
      (i.ending.isSome = true → i.unitDone = false →
        let lines := (s.draw (fieldAt i.line 0x20 4 / 64)).1
        let v := (s.draw (fieldAt i.line 0x20 4 / 64)).2
        let u := (v.unlessRemote (.copy k) (fun s => s.copyPart i g d lines)).forget (.copy k)
        exec (.dmvAbortAck k) s = .next (((((u.bump64 DMV_BYTES_LO_COUNT DMV_BYTES_HI_COUNT (64 * lines) g d).bump
          DMV_ABORTS_COUNT 1 g d).bump LSQ_ABORTS_COUNT 1 g).modItem k
            (fun j => { j with unitDone := true, copied := 64 * lines })).settle k).deliver)) ∧
    (let x := s.strand c t
     (x.mode = .ready → x.readyAt + s.ageNs (s.coreChamber c) ≤ s.tb →
       exec (.ageExpiry (.strand c t)) s = .next (s.setStrand c t { x with aged := true })) ∧
     (x.mode ≠ .ready ∨ s.tb < x.readyAt + s.ageNs (s.coreChamber c) → exec (.ageExpiry (.strand c t)) s = .next s)) ∧
    (∀ q seq i, s.item ⟨q, seq, none⟩ = some i → (i.phase = .backlog ∨ ∃ a, i.phase = .lsq g a) →
      i.fetchAt + s.ageNs (s.queueChamber q) ≤ s.now →
      ∃ s', exec (.ageExpiry (.item q seq)) s = .next s' ∧ s'.item ⟨q, seq, none⟩ = some { i with aged := true } ∧
        s' = { s with items := s'.items }) ∧
    (∀ q seq i, s.item ⟨q, seq, none⟩ = some i →
      let due := (s.queue q).timeoutUs ≠ 0 ∧ i.fetchAt + 1000 * (s.queue q).timeoutUs ≤ s.now
      (due → s.appendWaits i.key = false → exec (.itemTimeout q seq) s = .next (s.abortItem i.key 0x21)) ∧
      (due → s.appendWaits i.key = true → exec (.itemTimeout q seq) s =
        .next (((s.bump ATU_MIDSTREAM_COUNT 1 (s.queueChamber q)).dropAppend i.key 0x12).abortItem i.key 0x12)) ∧
      (¬due → exec (.itemTimeout q seq) s = .next s)) ∧
    (let m := (s.chamberOf g).getD 16
     let most := s.fget GFE_SCH_CTRL_PREEMPT_MAX m
     let unbound := (s.lsqItems g).filter (fun i => s.queueClass i.key.queue == 0 && (s.pickCore g i).isNone)
     (most = 0 ∨ s.saveArea m = 0 ∨ s.scanning g = true ∨ unbound = [] → exec (.preempt g) s = .next s) ∧
     (∀ i v, most ≠ 0 → s.saveArea m ≠ 0 → s.scanning g = false → unbound = [i] →
       argMin (fun c => s.saveBytes c ((s.victims c i).getD [])) ((s.liveCores g).filter (fun c => s.reserveAdmits m c i &&
         (s.victims c i).isSome && 0 < s.freeStrands c && (i.kind != kindTask || s.tasksOf c < 1024))) = some c →
       s.victims c i = some [v] →
       exec (.preempt g) s = .next (if most ≤ v.preempts then s.abortOne v.key 0x15
         else s.setStrand c v.strandIx { s.strand c v.strandIx with victim := true }))) ∧
    ((s.strand c t).victim = false → exec (.suspendDone c t) s = .next s) ∧
    (∀ k i f s1, (s.strand c t).item = some k → (s.strand c t).victim = true → (s.strand c t).mode ≠ .suspended →
      s.engOps.any (fun o => o.core == c && o.strand == t && o.eng != .mxe) = false → s.ms.owes c t s.ms.nextId = false →
      s.item k = some i → i.ending = none →
      let x := s.strand c t
      s.writeVa ⟨c / 8, 0xF1⟩ (s.coreChamber c) (.copy k) k.queue (s.saveSlice (s.coreChamber c) c + x.liveOff)
        (s.bytes (scratchBase c + x.liveOff) x.liveLen) = (f, s1) → c < 128 → t < 8192 →
      let v := s1.deliver
      (∀ e, f = some e → exec (.suspendDone c t) s = .next (v.failStrand c t e.code e.cause)) ∧
      (f = none → ∃ s', exec (.suspendDone c t) s = .next s' ∧ s'.strand c t = { x with mode := .suspended, run := 0 } ∧
        v.KeepsMemory s' ∧ v.KeepsStrandsBut s' c t)) ∧
    ((∀ i ∈ s.items, ∀ d u a, i.phase ≠ .suspended d u a) → exec (.resume c) s = .next s) ∧
    (∀ i, argMin (fun (i : Item) => match i.phase with | .suspended _ _ a => a | _ => 0)
        (s.items.filter (fun i => match i.phase with | .suspended d _ _ => d == c | _ => false)) = some i →
      let x := s.strand c i.strandIx
      let clash := (s.boundStrands c).any (fun e => e.2.mode != .suspended && overlaps e.2.liveOff e.2.liveLen x.liveOff x.liveLen)
      let u := (s.asksAs (.copy i.key)).restore i c i.strandIx
      ((s.coreLeft c).1 < i.scratch ∨ (s.coreLeft c).2 < i.accum ∨ clash = true ∨ s.scanning (c / 8) = true ∨
        s.coreLive c = false → exec (.resume c) s = .next s) ∧
      (i.scratch ≤ (s.coreLeft c).1 → i.accum ≤ (s.coreLeft c).2 → clash = false → s.scanning (c / 8) = false →
        s.coreLive c = true → s.awaitsNoRead (.copy i.key) → u.ms.wanted = [] →
        exec (.resume c) s = .next (u.readAll (.copy i.key)).deliver)) ∧
    (∀ i bs s1, c < 128 → t < 8192 →
      let x := s.strand c t
      s.readVa ⟨c / 8, 0xF1⟩ (s.coreChamber c) (s.saveSlice (s.coreChamber c) c + x.liveOff) x.liveLen = (.ok bs, s1) →
      let s' := s.restore i c t
      s'.mem = (s1.setBytes (scratchBase c + x.liveOff) bs).mem ∧ s1.KeepsStrandsBut s' c t ∧
      s'.strand c t = { x with mode := if x.wait = .none then .ready else .waiting, victim := false, readyAt := s1.tb })

/-- QW.END of a LAUNCH strand ends its item SERVED, and from a task ends its items 0x35 with cause 4; QW.TAKE of a
task makes it wait for a message, and with one held ends 0x35 with cause 3; QW.DONE completes the message held and
goes on; QW.EXIT ends the task's item, and a message still held 0x20. Outside a task QW.TAKE, QW.DONE and QW.EXIT end
0x35 with cause 2; a reserved bit, or an odd RD of QW.TAKE or QW.LIVE, ends 0x35 with cause 1. QW.LIVE declares the
live range, and ends 0x35 with cause 1 where it is misaligned, longer than declared or outside the scratchpad. TB.READ
places the timebase in RD and RD + 1; TR.MARK goes on and writes a mark. MO.BAR with PARTIES 0 ends 0x40; it waits
while the strand owes an access; in a chamber outside the group an arrival that is its barrier's only one gives the
strand its generation in RD, and one that others must follow makes it wait. -/
def Obligations.StrandWork : Prop :=
  ∀ (s : State) (c t : Nat) (w : Word64),
    let x := s.strand c t
    (∀ k, s.issues c t 0xB0 0 w → bitsOf w.toNat 52 0 = 0 →
      (x.task = false → x.item = some k → exec (.qwEnd c t) s = .next (s.endItem k 0 0)) ∧
      (x.task = true → exec (.qwEnd c t) s = .next (s.failStrand c t 0x35 4))) ∧
    (s.issues c t 0xB1 (pairMask (rdOf w)) w → bitsOf w.toNat 52 0 = 0 → rdOf w % 2 = 0 →
      (x.task = true → x.taken = none → exec (.qwTake c t) s = .next (s.setStrand c t
        { x with mode := .waiting, wait := .take, run := 0, readyAt := s.tb, dropped := false })) ∧
      (x.task = true → x.taken.isSome = true → exec (.qwTake c t) s = .next (s.failStrand c t 0x35 3)) ∧
      (x.task = false → exec (.qwTake c t) s = .next (s.failStrand c t 0x35 2))) ∧
    (s.issues c t 0xB2 0 w → bitsOf w.toNat 52 0 = 0 →
      (∀ k, x.task = true → x.taken = some k →
        exec (.qwDone c t) s = .next ((s.advance c t { x with taken := none }).endItem k 0 0)) ∧
      (x.task = true → x.taken = none → x.dropped = false → exec (.qwDone c t) s = .next (s.failStrand c t 0x35 3)) ∧
      (x.task = true → x.taken = none → x.dropped = true →
        exec (.qwDone c t) s = .next (s.advance c t { x with dropped := false })) ∧
      (x.task = false → exec (.qwDone c t) s = .next (s.failStrand c t 0x35 2))) ∧
    (s.issues c t 0xB3 0 w → bitsOf w.toNat 52 0 = 0 →
      (∀ k, x.task = true → x.item = some k → x.taken = none → exec (.qwExit c t) s = .next (s.endItem k 0 0)) ∧
      (∀ k m, x.task = true → x.item = some k → x.taken = some m →
        exec (.qwExit c t) s = .next ((s.endItem m 0x20 0).endItem k 0 0)) ∧
      (x.task = false → exec (.qwExit c t) s = .next (s.failStrand c t 0x35 2))) ∧
    (s.issues c t 0xB0 0 w → bitsOf w.toNat 52 0 ≠ 0 → exec (.qwEnd c t) s = .next (s.failStrand c t 0x35 1)) ∧
    (s.issues c t 0xB1 0 w → bitsOf w.toNat 52 0 ≠ 0 ∨ rdOf w % 2 = 1 →
      exec (.qwTake c t) s = .next (s.failStrand c t 0x35 1)) ∧
    (s.issues c t 0xB2 0 w → bitsOf w.toNat 52 0 ≠ 0 → exec (.qwDone c t) s = .next (s.failStrand c t 0x35 1)) ∧
    (s.issues c t 0xB3 0 w → bitsOf w.toNat 52 0 ≠ 0 → exec (.qwExit c t) s = .next (s.failStrand c t 0x35 1)) ∧
    (∀ k i, s.issues c t 0xB4 (pairMask (rdOf w)) w → x.item = some k → s.item k = some i →
      let off := (x.reg (rdOf w)).toNat
      let len := (x.reg (rdOf w + 1)).toNat
      let good := bitsOf w.toNat 52 0 = 0 ∧ rdOf w % 2 = 0 ∧ off % 64 = 0 ∧ len % 64 = 0 ∧ len ≤ i.scratch ∧ off + len ≤ 0x20_0000
      (good → exec (.qwLive c t) s = .next (s.advance c t { x with liveOff := off, liveLen := len })) ∧
      (¬good → exec (.qwLive c t) s = .next (s.failStrand c t 0x35 1))) ∧
    (s.issues c t 0xB8 (pairMask (rdOf w)) w → bitsOf w.toNat 52 0 = 0 → rdOf w % 2 = 0 →
      ∃ s', exec (.tbRead c t) s = .next s' ∧ (s'.strand c t).reg (rdOf w) = BitVec.ofNat 32 s.tb ∧
        (s'.strand c t).reg (rdOf w + 1) = BitVec.ofNat 32 (s.tb / 2 ^ 32) ∧
        (∀ k, k < 8 → k ≠ rdOf w → k ≠ rdOf w + 1 → (s'.strand c t).reg k = x.reg k) ∧
        (s'.strand c t).pc = (x.pc + 8) % 2 ^ 57 ∧ s.KeepsStrandsBut s' c t ∧ s' = { s with strands := s'.strands }) ∧
    (s.issues c t 0xB9 (pairMask (rdOf w)) w → bitsOf w.toNat 52 0 = 0 → rdOf w % 2 = 0 →
      exec (.trMark c t) s = .next ((s.advance c t x).trace c t trSwMark
        (leBytes 4 (x.reg (rdOf w)).toNat ++ leBytes 4 (x.reg (rdOf w + 1)).toNat))) ∧
    (s.issues c t 0xA4 (regMask (raOf w) ||| regMask (rdOf w)) w → bitsOf w.toNat 49 0 = 0 →
      let id := (x.reg (raOf w)).toNat % 256
      let parties := (x.reg (raOf w)).toNat / 256
      let n := s.coreChamber c
      let b := s.barrierOf n id
      (parties = 0 → exec (.moBar c t) s = .next (s.failStrand c t 0x40 0)) ∧
      (parties ≠ 0 → s.ms.owes c t s.ms.nextId = true → exec (.moBar c t) s = .next (s.waitsFor c t .release)) ∧
      (parties = 1 → s.ms.owes c t s.ms.nextId = false → s.inGroup n = false → b.arrived = 0 →
        s.fab.arrivals = [] → ∃ s', exec (.moBar c t) s = .next s' ∧ (s'.strand c t).mode = .ready ∧
          (s'.strand c t).reg (rdOf w) = BitVec.ofNat 32 b.generation ∧
          (s'.barrierOf n id).generation = (b.generation + 1) % 2 ^ 32 ∧ s'.fab.arrivals = [] ∧
          s.KeepsMemory s' ∧ s.KeepsStrandsBut s' c t) ∧
      (b.arrived + 1 < parties → s.ms.owes c t s.ms.nextId = false → s.inGroup n = false →
        (b.arrived = 0 ∨ b.parties = parties) → ∃ s', exec (.moBar c t) s = .next s' ∧
          (s'.strand c t).mode = .waiting ∧ (s'.strand c t).wait = .barrier id (rdOf w) ∧
          (s'.barrierOf n id).arrived = b.arrived + 1 ∧ (s'.barrierOf n id).generation = b.generation ∧
          s.KeepsMemory s' ∧ s.KeepsStrandsBut s' c t))

/-- RD_REQ, WR and AMO that arrive in order and whole are judged alike: a bad address is a violation; a request that
the member, the chamber, the port or the state does not admit is answered with the NAK of the first condition that
fails, one of a new stream with the table full with RX_BUSY, one outside the chamber or on lines it may not have with
the range's NAK; a refused write counts in its stream. What passes is performed after what the cells of its first line
show: RD_REQ answers the bytes or MEMORY; WR writes and is acknowledged; AMO applies its operation and answers the
previous value. Where no error lies in the cells WR writes its bytes and no other, and AMO its result, or nothing
where its compare differs. CLOSE_WR is held, and discarded when a write of its CIDX was refused; CLOSE_WR_PERFORM
writes it once its counter equals COUNT and the one before it is over, or refuses it where the range no longer allows
it; CLOSE_TIMEOUT discards it after HOLD_US, and neither does anything to one not held. ROW lands, is dropped with a
notice, or is refused; ROW_END is noted or refused. -/
def Obligations.FabricTargets : Prop :=
  ∀ (s : State) (l : Nat) (p : Packet) (ev : CellEvent), let t := s.acceptOn l p
    let len := p.payload.length
    (∀ (u : State) (n : Nat) (wr good : Bool) (act : State → State), p.corrupt = false →
      let judged := u.judge0 l p n wr good ev act
      let v := u.cellEvent (p.addr / 64 * 64) ev
      (good = false → judged = (if wr = true ∧ u.admitNak (l / 4) p = none then (u.violate (l / 4) vBadAddress p).countWrite p true
        else u.violate (l / 4) vBadAddress p)) ∧
      (∀ c, good = true → u.admitNak (l / 4) p = some c → judged = u.nak (l / 4) p c 0) ∧
      (good = true → u.admitNak (l / 4) p = none →
        (wr = true → u.streamFull p = true → judged = u.nak (l / 4) p nakRxBusy 0) ∧
        (wr = false ∨ u.streamFull p = false →
          (u.inTarget p.chamber p.addr n = false → judged =
            (if wr then (u.nak (l / 4) p nakOutOfRange 0).countWrite p true else u.nak (l / 4) p nakOutOfRange 0)) ∧
          (u.inTarget p.chamber p.addr n = true →
            (∀ c, v.rangeNak p n wr = some c → judged = (if wr then (v.nak (l / 4) p c 0).countWrite p true else v.nak (l / 4) p c 0)) ∧
            (v.rangeNak p n wr = none → judged = act v))))) ∧
    (s.takesPacket l p ptRdReq → exec (.rdReq l p ev) s = .next (t.judge0 l p p.length false (addressOk p.addr p.length) ev
      (fun s => match s.readTarget (linesOf p.addr p.length) with
        | (.error c, s) => s.nak (l / 4) p c 0
        | (.ok bs, s) => s.answer (l / 4) p ptRdResp bs 0)).deliver) ∧
    (s.takesPacket l p ptWr → exec (.wr l p ev) s = .next (t.judge0 l p len true (addressOk p.addr len) ev
      (fun s => ((s.writeTarget (linesOf p.addr len) p.payload).countWrite p false).answer (l / 4) p ptWrAck [] 0)).deliver) ∧
    (∀ size aop, s.takesPacket l p ptAmo → p.arg = 16 * size + aop → aop < 16 →
      let n := 2 ^ size
      exec (.amo l p ev) s = .next (t.judge0 l p n true (p.addr % n == 0) ev (fun s =>
        let old := leVal (s.bytes p.addr n)
        let u := s.countLine p.addr false
        let v := if aop = 3 ∧ old ≠ fieldAt p.payload 8 n then u
          else (u.writeLine p.addr (leBytes n (amoValue aop size old (fieldAt p.payload 0 n) (fieldAt p.payload 8 n)))).2
        (v.countWrite p false).answer (l / 4) p ptAmoResp (leBytes 8 old) 0)).deliver) ∧
    (s.ms.cells = [] → s.ms.found = [] → s.takesPacket l p ptWr → addressOk p.addr len = true → t.admitNak (l / 4) p = none →
      t.streamFull p = false → t.rangeNak p len true = none →
      ∃ s', exec (.wr l p .clean) s = .next s' ∧ s'.bytes p.addr len = p.payload ∧ s.KeepsMemoryOutside s' p.addr len ∧
        s'.strands = s.strands) ∧
    (∀ aop size, s.ms.cells = [] → s.ms.found = [] → s.takesPacket l p ptAmo → p.arg = 16 * size + aop → aop < 8 →
      size = 2 ∨ size = 3 → p.addr % 2 ^ size = 0 → t.admitNak (l / 4) p = none → t.streamFull p = false →
      t.rangeNak p (2 ^ size) true = none →
      let old := leVal (t.bytes p.addr (2 ^ size))
      let cmp := fieldAt p.payload 8 (2 ^ size)
      ∃ s', exec (.amo l p .clean) s = .next s' ∧ s.KeepsMemoryOutside s' p.addr (2 ^ size) ∧ s'.strands = s.strands ∧
        (aop = 3 → old ≠ cmp → s.KeepsMemory s') ∧
        (aop ≠ 3 ∨ old = cmp → s'.bytes p.addr (2 ^ size) =
          leBytes (2 ^ size) (amoValue aop size old (fieldAt p.payload 0 (2 ^ size)) cmp))) ∧
    (s.takesPacket l p ptCloseWr → closeOk p.addr len = true → p.arg ≠ 0 → (t.stream p).held.length < 8 →
      (∀ c, t.admitNak (l / 4) p = some c → exec (.closeWr l p) s = .next (t.nak (l / 4) p c 0).deliver) ∧
      (t.admitNak (l / 4) p = none → t.streamFull p = true → exec (.closeWr l p) s = .next (t.nak (l / 4) p nakRxBusy 0).deliver) ∧
      (t.admitNak (l / 4) p = none → t.streamFull p = false →
        let e := t.stream p
        let h : HeldClose := { packet := p, port := l / 4, at_ := t.now }
        let u := t.setStream { e with held := e.held ++ [h] }
        (∀ c, t.rangeNak p len true = some c → exec (.closeWr l p) s =
          .next ((t.setStream (e.closeOver (streamIx p) p.arg)).nak (l / 4) p c 0).deliver) ∧
        (t.rangeNak p len true = none → e.refused.contains (streamIx p) = false → exec (.closeWr l p) s = .next u.deliver) ∧
        (t.rangeNak p len true = none → e.refused.contains (streamIx p) = true → exec (.closeWr l p) s =
          .next (u.discardClose h nakCloseFailed).deliver))) ∧
    (∀ src n req k, s.heldClose src n req k = none →
      exec (.closeWrPerform src n req k) s = .next s ∧ exec (.closeTimeout src n req k) s = .next s) ∧
    (∀ src n req k h, s.heldClose src n req k = some h →
      let q := h.packet
      let closed := fun (u : State) => u.setStream ((s.stream q).closeOver k q.arg)
      let due := (s.stream q).counters.getD k 0 = q.arg ∧ (s.stream q).closed = k
      (¬due → exec (.closeWrPerform src n req k) s = .next s) ∧
      (∀ c, due → s.rangeNak q q.payload.length true = some c →
        exec (.closeWrPerform src n req k) s = .next ((closed s).nak h.port q c 0)) ∧
      (due → s.rangeNak q q.payload.length true = none →
        exec (.closeWrPerform src n req k) s =
          .next ((closed ((s.writeLine q.addr q.payload).2.closeRecord q).deliver).answer h.port q ptWrAck [] 0)) ∧
      (due → s.rangeNak q q.payload.length true = none → s.ms.cells = [] → s.ms.found = [] →
        ∃ s', exec (.closeWrPerform src n req k) s = .next s' ∧ s'.bytes q.addr q.payload.length = q.payload ∧
          s.KeepsMemoryOutside s' q.addr q.payload.length ∧ s'.strands = s.strands) ∧
      (h.at_ + 1000 * max 1 (s.fget LNK_CLOSE_CTRL_HOLD_US) ≤ s.now →
        exec (.closeTimeout src n req k) s = .next (s.discardClose h nakCloseTimeout)) ∧
      (s.now < h.at_ + 1000 * max 1 (s.fget LNK_CLOSE_CTRL_HOLD_US) → exec (.closeTimeout src n req k) s = .next s)) ∧
    (s.takesPacket l p ptRow →
      (∀ c, t.admitNak (l / 4) p = some c → exec (.row l p) s = .next (t.nak (l / 4) p c 0).deliver) ∧
      (t.admitNak (l / 4) p = none →
        (∀ u, t.landRow (l / 4 / 8) p.chamber p.payload = (.ok false, u) → exec (.row l p) s = .next u.deliver) ∧
        (∀ u, t.landRow (l / 4 / 8) p.chamber p.payload = (.ok true, u) →
          exec (.row l p) s = .next (u.answer (l / 4) p ptRowDrop (p.payload.take 64) 0).deliver) ∧
        (∀ u c, t.landRow (l / 4 / 8) p.chamber p.payload = (.error c, u) →
          exec (.row l p) s = .next (u.nak (l / 4) p c 0).deliver))) ∧
    (s.takesPacket l p ptRowEnd →
      (∀ c, t.admitNak (l / 4) p = some c → exec (.rowEnd l p) s = .next (t.nak (l / 4) p c 0).deliver) ∧
      (t.admitNak (l / 4) p = none →
        (∀ u, t.landMark p.chamber p.src p.payload = (none, u) → exec (.rowEnd l p) s = .next u.deliver) ∧
        (∀ u c, t.landMark p.chamber p.src p.payload = (some c, u) →
          exec (.rowEnd l p) s = .next (u.nak (l / 4) p c 0).deliver)))

/-- An RD_RESP, WR_ACK or AMO_RESP that arrives whole: a stale one is swallowed, one that matches no request of its
kind is a violation, and one that does ends the request, a read's data going to its access or to the unit that still
wants them, an atomic's to its access. ROW_DROP and RESULT reach the routing engine. A NAK: a stale one is swallowed;
one of a barrier arrival refuses the arrival; one that matches no request is a violation but for rows and markers;
RX_BUSY marks the request to be tried again, the first CHECK sends it again, any other cause fails it; NAKs of rows
and markers are counted. RX_BUSY_RETRY does nothing where nothing waits or before 2 µs; then the request is given up
where its item is over or its timeout has passed, and otherwise tried again. PACKET_FORWARD of a packet for another
device leaves by its route with one hop less and, over a DATELINE port, its class one higher; with no hop or class
left it is dropped; a packet for this device is not forwarded. -/
def Obligations.FabricAnswers : Prop :=
  ∀ (s : State) (l : Nat) (p : Packet), let t := s.acceptOn l p
    let asked := fun (types : List Nat) => t.fab.outstanding.find? (fun o => o.packet.txn == p.txn && o.packet.dst == p.src &&
      types.contains o.packet.type)
    let rest := (t.takeOut p.txn p.src).2
    let stale := t.currentAnswer p = false
    (s.takesPacket l p ptRdResp →
      (stale → exec (.rdResp l p) s = .next (t.swallow p).deliver) ∧
      (¬stale → asked [ptRdReq] = none → exec (.rdResp l p) s = .next (t.violate (l / 4) vUnsolicited p).deliver) ∧
      (∀ o, ¬stale → asked [ptRdReq] = some o → exec (.rdResp l p) s = .next (rest.readDone o p.payload).deliver)) ∧
    (s.takesPacket l p ptWrAck →
      (stale → exec (.wrAck l p) s = .next (t.swallow p).deliver) ∧
      (¬stale → asked [ptWr, ptCloseWr] = none → exec (.wrAck l p) s = .next (t.violate (l / 4) vUnsolicited p).deliver) ∧
      (∀ o, ¬stale → asked [ptWr, ptCloseWr] = some o → exec (.wrAck l p) s = .next (rest.ownerDone o.owner []).deliver)) ∧
    (s.takesPacket l p ptAmoResp →
      (stale → exec (.amoResp l p) s = .next (t.swallow p).deliver) ∧
      (¬stale → asked [ptAmo] = none → exec (.amoResp l p) s = .next (t.violate (l / 4) vUnsolicited p).deliver) ∧
      (∀ o, ¬stale → asked [ptAmo] = some o → exec (.amoResp l p) s = .next (rest.ownerDone o.owner p.payload).deliver)) ∧
    (∀ (u : State) (o : Outstanding) (data : List Byte),
      (∀ id, o.owner = .op id → u.readDone o data = u.remoteDone id data ∧ u.ownerDone o.owner data = u.remoteDone id data) ∧
      (∀ id, o.owner = .eng id → u.wants o.owner = true → u.readDone o data = (u.keepFetched o data).engAcked id)) ∧
    (s.takesPacket l p ptRowDrop → exec (.rowDrop l p) s = .next (t.dropIn p.chamber p.payload).deliver) ∧
    (s.takesPacket l p ptResult → exec (.result l p) s = .next (t.resultIn p.chamber p.payload).deliver) ∧
    (s.takesPacket l p ptNak →
      let cause := p.arg % 256
      let type := p.arg / 2 ^ 16 % 256
      let row := type = ptRow ∨ type = ptRowEnd
      let v := if row then t.countXceNak p cause else t
      let found := v.fab.outstanding.find? (fun o => o.packet.txn == p.txn && o.packet.dst == p.src)
      (stale → exec (.nak l p) s = .next (t.swallow p).deliver) ∧
      (¬stale → type = ptBarArrive → exec (.nak l p) s =
        .next (t.refuseArrivals (fun a => a.txn == some p.txn) cause).deliver) ∧
      (¬stale → type ≠ ptBarArrive → found = none →
        exec (.nak l p) s = .next (if row then v else v.violate (l / 4) vUnsolicited p).deliver) ∧
      (∀ o, ¬stale → type ≠ ptBarArrive → found = some o →
        let y := v.unsend o.owner
        (cause = nakRxBusy → exec (.nak l p) s =
          .next (y.modOut p.txn p.src (fun x => { x with busyAt := some y.now })).deliver) ∧
        (cause = nakCheck → o.resent = false → exec (.nak l p) s =
          .next (v.resendOnce o (fun x => { x with resent := true })).deliver) ∧
        (cause ≠ nakRxBusy → cause ≠ nakCheck ∨ o.resent = true →
          exec (.nak l p) s = .next (v.requestFails p.txn p.src cause).deliver))) ∧
    (∀ txn dst, s.fab.outstanding.find? (fun o => o.packet.txn == txn && o.packet.dst == dst) = none →
      exec (.rxBusyRetry txn dst) s = .next s) ∧
    (∀ txn dst o, s.fab.outstanding.find? (fun o => o.packet.txn == txn && o.packet.dst == dst) = some o →
      let u := s.countRetry o
      let v := u.resendOnce o (fun x => { x with busyAt := none })
      (o.busyAt = none → exec (.rxBusyRetry txn dst) s = .next s) ∧
      (∀ at_, o.busyAt = some at_ →
        (s.now < at_ + 2000 → exec (.rxBusyRetry txn dst) s = .next s) ∧
        (at_ + 2000 ≤ s.now → s.overdue o = true →
          exec (.rxBusyRetry txn dst) s = .next ((s.takeOut txn dst).2.abandon o.owner)) ∧
        (at_ + 2000 ≤ s.now → s.overdue o = false →
          (dst = u.deviceId → exec (.rxBusyRetry txn dst) s = .next (u.retryLocal o)) ∧
          (dst ≠ u.deviceId → (∀ g e t k, o.owner ≠ .row g e t k) → exec (.rxBusyRetry txn dst) s = .next v) ∧
          (∀ g e t k, dst ≠ u.deviceId → o.owner = .row g e t k →
            exec (.rxBusyRetry txn dst) s = .next ((v.markSent g e t k true).sendMarks g e))))) ∧
    (p.dst = s.deviceId → exec (.packetForward l p) s = .next s) ∧
    (∀ vc, l < 64 → s.fab.group.isSome = true → p.dst ≠ s.deviceId → vcOf p.type = some vc → s.laneInService l = true →
      p.lseq = (s.lane l).rxSeq → s.fget LNK_PORT_STATUS_STATE (l / 4) ≠ 3 →
      let cls := p.dclass + (if s.fget LNK_PORT_CTRL_DATELINE (l / 4) = 1 ∧ vc ≠ 2 then 1 else 0)
      (p.hops = 0 → exec (.packetForward l p) s = .next (t.hopDrop (l / 4) p)) ∧
      (4 ≤ cls → p.hops ≠ 0 → exec (.packetForward l p) s = .next (t.hopDrop (l / 4) p)) ∧
      (∀ out, p.hops ≠ 0 → cls < 4 → vc = 2 ∨ t.mayUsePort (p.chamber % 16) (l / 4) = true →
        t.egress (p.chamber % 16) p.dst (vc == 2) = some out → exec (.packetForward l p) s =
          .next (t.putOn out { p with hops := p.hops - 1, flags := setBitsOf p.flags 3 2 cls }) ∧
        s.KeepsWork (t.putOn out { p with hops := p.hops - 1, flags := setBitsOf p.flags 3 2 cls })))

/-- LANE_TRAIN of a lane in training without codeword lock locks it, or waits 10 ms for the next attempt, or after the
third reports it; LANE_TRAIN_RETRY comes when that time is over. The owner's RETRAIN starts training of a lane that is
not umber, and nobody else's. PARAM of a partner that agrees brings a locked lane into service with its credits; one
of another group, or that ASSIGN forbids, is a violation and fails the attempt. CREDIT adds the blocks returned; ACK
takes accepted packets off the replay buffer; REPLAY_REQ of a packet not held does nothing, of the first one held
sends the buffer again, and the ninth time trains the lane; EQ_REQ changes its tap; EQ_RSP only counts. EQ_UPDATE,
every 1 ms, shows the margins, and reports one below 16. LNK_VIOL_WINDOW_END restarts a window that has passed;
LNK_REENABLE by the owner ends isolation. A bad packet, or one out of order within 512, asks for a replay, another is
a violation, as is one of an unknown type; an isolated port drops it. UNCORRECTABLE_CODEWORD counts and reports. -/
def Obligations.Lanes : Prop :=
  ∀ (s : State) (l : Nat) (p : Packet), l < 64 → let k := l % 4; let q := l / 4; let x := s.lane l
    let n := smGet (fun _ => 0) s.hlm.life 4 + 1
    let u : State := { s with hlm := { s.hlm with life := smPut (fun _ => 0) s.hlm.life 4 n } }
    (∀ ok, s.laneTraining l = false ∨ x.locked = true → exec (.laneTrain l ok) s = .next s) ∧
    (s.laneTraining l = true → x.locked = false →
      (∃ s', exec (.laneTrain l true) s = .next s' ∧ (s'.lane l).locked = true ∧ smGet (fun _ => 0) s'.hlm.life 4 = n ∧
        s.KeepsWork s' ∧ (s.fab.group.isNone = true → s'.out = s.out)) ∧
      (x.attempts < 2 → exec (.laneTrain l false) s = .next (u.setLane l
        { x with attempts := x.attempts + 1, locked := false, retryAt := s.now + 10_000_000 })) ∧
      (2 ≤ x.attempts → exec (.laneTrain l false) s = .next (((u.setLane l
        { x with attempts := x.attempts + 1, locked := false, retryAt := 0 }).laneOut l 0).report (unitLane l) kLaneTrain))) ∧
    (s.fget LNK_LANE_STATUS_STATE q k = 1 → x.retryAt ≠ 0 →
      (x.retryAt ≤ s.now → exec (.laneTrainRetry l) s = .next (s.setLane l { x with retryAt := 0, locked := false })) ∧
      (s.now < x.retryAt → exec (.laneTrainRetry l) s = .next s)) ∧
    (∀ r, (s.owns r = true → exec (.retrain r q k) s = .next (s.trainLane l)) ∧
      (s.owns r = false → exec (.retrain r q k) s = .next s)) ∧
    (s.healthOf (unitLane l) ≠ umber → bitOf (s.fab.ports.getD q (0, 0, 0)).2.1 k = true → s.fab.txq = [] →
      (∀ e ∈ s.fab.lanes, e.2.replay = []) → x.replay = [] →
      (s.trainLane l).fget LNK_LANE_STATUS_STATE q k = 1 ∧ (s.trainLane l).laneInService l = false) ∧
    (∀ a, s.laneTraining l = false ∨ x.locked = false ∨ p.type ≠ ptLink ∨ p.arg ≠ 6 → exec (.param l p a) s = .next s) ∧
    (∀ a, s.laneTraining l = true → x.locked = true → p.type = ptLink → p.arg = 6 →
      (∀ g, s.fab.group = some g → a = false ∨ fieldAt p.payload 0 4 ≠ g.groupId) →
      exec (.param l p a) s = .next (((s.bump64 LNK_RX_BYTES_LO_COUNT LNK_RX_BYTES_HI_COUNT p.wire q).violate q
        vGroupMismatch p).trainFailed l)) ∧
    (∀ g, s.laneTraining l = true → x.locked = true → p.type = ptLink → p.arg = 6 → s.fab.group = some g →
      fieldAt p.payload 0 4 = g.groupId → g.members.any (fun m => m.1 == fieldAt p.payload 4 2) = true →
      s.fab.joinedAt.isSome = true → s.fab.txq = [] → (∀ e ∈ s.fab.lanes, e.1 ≠ l → s.laneInService e.1 = true) →
      ∃ s', exec (.param l p true) s = .next s' ∧ s'.laneInService l = true ∧
        s'.fget LNK_LANE_STATUS_STATE q k = 2 ∧ (s'.lane l).attempts = 0 ∧ (s'.lane l).txSeq = 0 ∧ (s'.lane l).rxSeq = 0 ∧
        (∀ i, i < 4 → (s'.lane l).credits.getD i 0 = fieldAt p.payload 0xC 2 / 4) ∧ s.KeepsWork s') ∧
    (s.takesLink l p 1 → s.flowing → ∃ s', exec (.credit l p) s = .next s' ∧ s.KeepsWork s' ∧ s'.out = s.out ∧
      ∀ i, i < 9 → (s'.lane l).credits.getD i 0 = x.credits.getD i 0 + fieldAt p.payload (2 * i) 2) ∧
    (s.takesLink l p 2 → s.fab.arrivals = [] → ∃ s', exec (.ack l p) s = .next s' ∧ s.KeepsWork s' ∧
      (s'.lane l).replay = ackedUpTo (fieldAt p.payload 0 2) x.replay ∧ (s'.lane l).rxSeq = x.rxSeq) ∧
    (s.takesLink l p 3 → (∀ y ∈ x.replay, y.lseq ≠ fieldAt p.payload 0 2) → exec (.replayReq l p) s = .next (s.tookLink l p)) ∧
    (∀ y rest, s.takesLink l p 3 → x.replay = y :: rest → y.lseq = fieldAt p.payload 0 2 →
      (x.replays < 8 → ∃ s', exec (.replayReq l p) s = .next s' ∧ s.KeepsWork s' ∧ (s'.lane l).replays = x.replays + 1 ∧
        s'.out = s.out ++ (y :: rest).map (fun z => .packet q z)) ∧
      (8 ≤ x.replays → exec (.replayReq l p) s =
        .next (((s.tookLink l p).setLane l { x with replays := x.replays + 1 }).trainLane l))) ∧
    (s.takesLink l p 4 → ∃ s', exec (.eqReq l p) s = .next s' ∧ s.KeepsWork s' ∧
      smGet (fun _ => 0) (s'.lane l).taps (fieldAt p.payload 0 1) = ofSigned 16
        (toSigned 16 (smGet (fun _ => 0) x.taps (fieldAt p.payload 0 1)) + toSigned 8 (fieldAt p.payload 1 1))) ∧
    (s.takesLink l p 5 → exec (.eqRsp l p) s = .next (s.tookLink l p)) ∧
    (∀ eyeH eyeV sym cor ask,
      (s.laneInService l = false ∨ s.now < x.eqAt + 1_000_000 → exec (.eqUpdate l eyeH eyeV sym cor ask) s = .next s) ∧
      (s.laneInService l = true → x.eqAt + 1_000_000 ≤ s.now → ∃ v : State,
        exec (.eqUpdate l eyeH eyeV sym cor ask) s = .next (if eyeH < 16 then (v.report (unitLane l) kLaneMargin).flow else v) ∧
        s.KeepsWork v ∧ v.fget LNK_LANE_STATUS_EYE_H q k = min 0xFF eyeH ∧ v.fget LNK_LANE_STATUS_EYE_V q k = min 0xFF eyeV ∧
        (v.lane l).eqAt = s.now ∧ (ask = none → v.out = s.out))) ∧
    (let w := s.violWindow q
     (w.2 + 1_000_000 * max 1 (s.fget LNK_VIOL_CTRL_WINDOW_MS q) ≤ s.now →
       exec (.lnkViolWindowEnd q) s = .next (s.setWindow q 0 s.now)) ∧
     (s.now < w.2 + 1_000_000 * max 1 (s.fget LNK_VIOL_CTRL_WINDOW_MS q) → exec (.lnkViolWindowEnd q) s = .next s)) ∧
    (∀ r, (s.owns r = true → s.fget LNK_PORT_STATUS_STATE q = 3 → s.flowing → ∃ s', exec (.lnkReenable r q) s = .next s' ∧
        s'.fget LNK_PORT_STATUS_STATE q ≠ 3 ∧ (s'.violWindow q).1 = 0 ∧ s.KeepsWork s') ∧
      (s.fget LNK_PORT_STATUS_STATE q ≠ 3 → exec (.lnkReenable r q) s = .next s) ∧
      (s.owns r = false → exec (.lnkReenable r q) s = .next s)) ∧
    (∀ bad, s.laneInService l = true → bad = true ∨ p.lseq ≠ x.rxSeq →
      let gap := (p.lseq + 0x1_0000 - x.rxSeq) % 0x1_0000
      let again := s.sendLink q 3 (leBytes 2 x.rxSeq)
      (bad = true ∨ gap < 512 ∨ 0xFE00 < gap →
        exec (.badOrOutOfOrderPacket l p bad) s = .next again ∧ s.KeepsWork again) ∧
      (bad = false → 512 ≤ gap → gap ≤ 0xFE00 →
        exec (.badOrOutOfOrderPacket l p bad) s = .next (s.violate q vBadSeq p))) ∧
    (s.laneInService l = true → p.lseq = x.rxSeq → p.type ≠ ptLink → vcOf p.type = none →
      (s.fget LNK_PORT_STATUS_STATE q ≠ 3 →
        exec (.unknownPacketType l p) s = .next ((s.acceptOn l p).violate q vMalformed p)) ∧
      (s.fget LNK_PORT_STATUS_STATE q = 3 →
        exec (.unknownPacketType l p) s = .next ((s.acceptOn l p).bump LNK_DROPPED_COUNT 1 q))) ∧
    (s.laneInService l = true → exec (.uncorrectableCodeword l) s =
      .next ((s.bump LNK_FEC_UNCORR_COUNT 1 q).report (unitLane l) kLaneFec).flow)

/-- At the master BAR_ARRIVE of a live member for a chamber of the group is counted, or refused where it cannot be;
BAR_RELEASE of the master releases its generation, and one of another device is a violation. At the master
MEMBER_HEARTBEAT of a member makes it live, in a new view if it had departed; VIEW from the master is applied where
its number is higher; LEAVE of a live member makes it departed, and the master sends the view. HEARTBEAT_SEND every 1
ms notes its time. MEMBER_DEPARTED at the master judges a member silent for 10 ms; MASTER_LOST after 10 ms of silence
takes the next live device of the list; MASTER_TAKEOVER after 1 s of life makes a device that stands earlier the
master. SYNC of the master by the first port of the route sets OFFSET_PS, ends holdover, counts, steps the counter
forward past 1 µs and holds it back the other way, and goes on over the other ports while hops are left; by another
port it does nothing, and from another device it is a violation. SYNC_SEND every 100 µs at the master numbers the next
one; HOLDOVER comes 1 ms after the last; COUNTER_HOLD_END ends a hold whose time has come. Each does nothing before
its time. -/
def Obligations.Groups : Prop :=
  ∀ (s : State) (l : Nat) (p : Packet), let t := s.acceptOn l p
    (s.takesPacket l p ptBarArrive → t.fab.members.any (fun m => m.id == p.src && m.live) = true → t.inGroup p.chamber = true →
      t.isMaster = true →
      (∀ u, t.countArrivals p.chamber (p.addr % 256) p.src (p.arg % 2 ^ 24) (fieldAt p.payload 0 4) = (true, u) →
        exec (.barArrive l p) s = .next u.deliver) ∧
      (∀ u, t.countArrivals p.chamber (p.addr % 256) p.src (p.arg % 2 ^ 24) (fieldAt p.payload 0 4) = (false, u) →
        exec (.barArrive l p) s = .next (u.nak (l / 4) p nakBarrier 0).deliver)) ∧
    (s.takesPacket l p ptBarRelease →
      (∀ u, t.fromMaster p.src = (true, u) → exec (.barRelease l p) s = .next ((u.setBarrier
        { u.barrierOf p.chamber (p.addr % 256) with generation := (p.arg + 1) % 2 ^ 32 }).completeBarrier p.chamber (p.addr % 256)
          p.arg).deliver) ∧
      (∀ u, t.fromMaster p.src = (false, u) → exec (.barRelease l p) s = .next (u.violate (l / 4) vUnsolicited p).deliver)) ∧
    (∀ g, s.takesPacket l p ptMember → t.fab.group = some g →
      (p.arg = 1 → t.isMaster = true → fieldAt p.payload 0 4 = g.groupId → fieldAt p.payload 4 2 = p.src →
        (t.liveMember p.src = true → exec (.memberHeartbeat l p) s = .next (t.setLive p.src true).deliver) ∧
        (t.liveMember p.src = false → exec (.memberHeartbeat l p) s = .next ((t.setLive p.src true).sendView p.src).deliver)) ∧
      (∀ u changes, p.arg = 2 → t.fromMaster p.src = (true, u) →
        (u.fget LNK_GROUP_VIEW_VIEW < fieldAt p.payload 0 4 → exec (.view l p changes) s = .next
          (changes.foldl (fun s e => s.setLive e.1 e.2) (u.fset LNK_GROUP_VIEW_VIEW (fieldAt p.payload 0 4))).deliver) ∧
        (fieldAt p.payload 0 4 ≤ u.fget LNK_GROUP_VIEW_VIEW → exec (.view l p changes) s = .next u.deliver)) ∧
      (p.arg = 3 → t.fab.members.any (fun m => m.id == p.src && m.live) = true → 
        exec (.leave l p) s = .next (if (t.setLive p.src false).isMaster then (t.setLive p.src false).sendView p.src
          else t.setLive p.src false).deliver)) ∧
    (∀ d live, s.fab.outstanding = [] → (∀ m ∈ (s.setLive d live).fab.members, m.id = d → m.live = live) ∧
      s.KeepsWork (s.setLive d live)) ∧
    (s.formed = true → s.isMaster = false → s.fab.lastBeat + 1_000_000 ≤ s.now → s.fget HLM_DEVICE_STATE ≠ 2 →
      ∃ s', exec .heartbeatSend s = .next s' ∧ s'.fab.lastBeat = s.now ∧ s.KeepsWork s') ∧
    (s.formed = false ∨ s.isMaster = true ∨ s.now < s.fab.lastBeat + 1_000_000 ∨ s.fget HLM_DEVICE_STATE = 2 →
      exec .heartbeatSend s = .next s) ∧
    (∀ d m, s.fab.members.find? (fun m => m.id == d && m.live) = some m → s.isMaster = true → d ≠ s.deviceId →
      (m.lastHeard + 10_000_000 ≤ s.now → exec (.memberDeparted d) s = .next ((s.setLive d false).sendView d)) ∧
      (s.now < m.lastHeard + 10_000_000 → exec (.memberDeparted d) s = .next s)) ∧
    (∀ j, s.formed = true → s.isMaster = false →
      (s.now < s.fab.masterHeard + 10_000_000 → exec .masterLost s = .next s) ∧
      (let u := s.setLive s.masterId false
       s.fab.masterHeard + 10_000_000 ≤ s.now →
       ((List.range u.masterList.length).map (fun j => (u.masterIdx + 1 + j) % max 1 u.masterList.length)).find?
         (fun j => u.liveMember (u.masterList.getD j 0)) = some j → exec .masterLost s = .next (u.changeMaster j))) ∧
    (∀ at_ i, s.fab.joinedAt = some at_ → s.formed = true → at_ + 1_000_000_000 ≤ s.now →
      (List.range s.masterIdx).find? (fun i => s.masterList.getD i 0 == s.deviceId) = some i → i < 64 →
      s.fab.barriers = [] → s.fab.arrivals = [] →
      ∃ s', exec .masterTakeover s = .next s' ∧ s'.formed = true ∧ s'.isMaster = true ∧ s'.masterIdx = i ∧ s.KeepsWork s') ∧
    (∀ u hop, s.takesPacket l p ptSync → t.fromMaster p.src = (true, u) → u.isMaster = false → u.syncPort = some (l / 4) →
      let ps : Int := (fieldAt p.payload 0 8 * 1000 + (fieldAt p.payload 8 4 + hop) % 2 ^ 32 : Nat) - (u.tb * 1000 : Nat)
      let spread := fun (v : State) => if p.hops = 0 then v else v.spreadSync ((List.range 16).filter (· != l / 4)) p.src (p.hops - 1)
        p.arg (fieldAt p.payload 0 8) ((fieldAt p.payload 8 4 + hop) % 2 ^ 32)
      ∃ s', exec (.sync l p hop) s = .next (State.deliver (spread s')) ∧ (s.ms.found = [] → s'.deliver = s') ∧ s'.fget TBC_OFFSET_PS = signed32 ps ∧ s'.fget TBC_STATUS_HOLDOVER = 0 ∧
        s'.fget TBC_STATUS_SYNC_PORT = l / 4 ∧ s'.fget TBC_SYNCS_COUNT = min (2 ^ 32 - 1) (u.fget TBC_SYNCS_COUNT + 1) ∧
        (1_000_000 < ps → s'.tb = (u.tb + ps.natAbs / 1000) % 2 ^ 64) ∧
        (ps < -1_000_000 → s'.fget TBC_STATUS_HELD = 1 ∧ s'.tb = u.tb) ∧ s'.fab.lastSync = s.now) ∧
    (∀ u hop, s.takesPacket l p ptSync → t.fromMaster p.src = (true, u) → u.isMaster = true ∨ u.syncPort ≠ some (l / 4) →
      exec (.sync l p hop) s = .next u.deliver) ∧
    (∀ u hop, s.takesPacket l p ptSync → t.fromMaster p.src = (false, u) →
      exec (.sync l p hop) s = .next (u.violate (l / 4) vUnsolicited p).deliver) ∧
    (s.formed = true → s.isMaster = true →
      (s.fab.lastSync + 100_000 ≤ s.now → ∃ s', exec .syncSend s = .next s' ∧ s'.fab.lastSync = s.now ∧
        s'.fab.syncNo = (s.fab.syncNo + 1) % 2 ^ 32 ∧ s.KeepsWork s') ∧
      (s.now < s.fab.lastSync + 100_000 → exec .syncSend s = .next s)) ∧
    (s.formed = true → s.isMaster = false → s.fget TBC_STATUS_HOLDOVER = 0 → s.fab.lastSync + 1_000_000 ≤ s.now →
      ∃ s', exec .holdover s = .next s' ∧ s'.fget TBC_STATUS_HOLDOVER = 1 ∧ s'.fget TBC_STATUS_LOCKED = 0 ∧
        s'.tbc.good = 0 ∧ s'.tb = s.tb ∧ s.KeepsWork s') ∧
    (s.fget TBC_STATUS_HELD = 1 → s.tbc.heldUntil ≤ s.now → exec .counterHoldEnd s = .next (s.fset TBC_STATUS_HELD 0)) ∧
    (∀ at_, s.fab.joinedAt = some at_ → s.now < at_ + 1_000_000_000 → exec .masterTakeover s = .next s) ∧
    (s.now < s.fab.lastSync + 1_000_000 → exec .holdover s = .next s) ∧
    (s.now < s.tbc.heldUntil → exec .counterHoldEnd s = .next s)

/-- The item at the front of its queue runs once. SURVEY_COMMIT acts as SVY_CTRL.COMMIT by its session, or ends
refused where that is. MGMT_FW_COMMIT begins checking what is staged, unless a commit is checked already. SCAN asks
for a window on a live gallery and is refused for another. FLUSH writes the lifetime counters and the histories and
ends. PORT_TEST opens a window on a port with a lane in service, or is refused, and ends; END_TEST ends the window of
its port. TEST_WINDOW_END ends one whose time has passed. Without such an item at the front each does nothing. An open
window shows TEST and is listed. The end of a queue's only item empties the queue and counts its record. -/
def Obligations.Management : Prop :=
  ∀ (s : State) (i : MgItem),
    (s.mgNext mqSurvey 1 = some i →
      (∀ u, (s.mgBegin mqSurvey).svyCommit i.session true = (true, u) → exec .surveyCommit s = .next u ∧ s.KeepsWork u) ∧
      (∀ u, (s.mgBegin mqSurvey).svyCommit i.session true = (false, u) →
        exec .surveyCommit s = .next (u.mgEnd mqSurvey cUnavailable 2))) ∧
    (s.mgNext mqSurvey 1 = none → exec .surveyCommit s = .next s) ∧
    (s.mgNext mqSecurity 1 = some i →
      (s.sec.commit = none → ∃ s', exec .mgmtFwCommit s = .next s' ∧ s.KeepsWork s' ∧
        s'.sec.commit = some { session := i.session, seq := none, length := (s.mgBegin mqSecurity).stagedLength, checked := false } ∧
        s'.fget SEC_FW_STATUS_STAGE_STATE = fwChecking) ∧
      (s.sec.commit.isSome = true → exec .mgmtFwCommit s = .next s)) ∧
    (s.mgNext mqSecurity 1 = none → exec .mgmtFwCommit s = .next s) ∧ (s.mgNext mqHealth 1 = none → exec .scan s = .next s) ∧
    (s.mgNext mqHealth 2 = none → exec .flush s = .next s) ∧ (s.mgNext mqTest 1 = none → exec .portTest s = .next s) ∧
    (s.mgNext mqTest 2 = none → exec .endTest s = .next s) ∧
    (s.mgNext mqHealth 1 = some i →
      (s.galleryLive (i.arg 0) = true → ∃ s', exec .scan s = .next s' ∧ s.KeepsWork s' ∧ s'.hlm.asked.contains (i.arg 0) = true ∧
        s'.mgRunning mqHealth = true) ∧
      (s.galleryLive (i.arg 0) = false → exec .scan s = .next (s.mgEnd mqHealth cUnavailable 1))) ∧
    (s.mgNext mqHealth 2 = some i → ∃ s', exec .flush s = .next s' ∧ s.KeepsWork s' ∧ s'.hlm.unwritten = [] ∧
      s'.hlm.lifeFlash = s'.hlm.life ∧ s'.hlm.lifeAt = s.now) ∧
    (s.mgNext mqTest 1 = some i →
      (s.lanesUp (i.arg 0) ≠ [] → exec .portTest s =
        .next ((s.openTest (i.arg 0) (s.now + 1_000_000 * (i.arg 1 + 256 * i.arg 2))).mgEnd mqTest cServed 0)) ∧
      (s.lanesUp (i.arg 0) = [] → exec .portTest s = .next (s.mgEnd mqTest cUnavailable 1))) ∧
    (s.mgNext mqTest 2 = some i → exec .endTest s = .next ((s.closeTest (i.arg 0)).mgEnd mqTest cServed 0)) ∧
    (∀ p until_, p < 16 → s.flowing → (s.openTest p until_).fget LNK_PORT_STATUS_TEST p = 1 ∧ s.KeepsWork (s.openTest p until_) ∧
      (p, until_) ∈ (s.openTest p until_).fab.tests) ∧
    (∀ p, s.fab.tests.find? (fun e => e.1 == p) = none → exec (.testWindowEnd p) s = .next s) ∧
    (∀ p until_, s.fab.tests.find? (fun e => e.1 == p) = some (p, until_) →
      (until_ ≤ s.now → exec (.testWindowEnd p) s = .next (s.closeTest p)) ∧
      (s.now < until_ → exec (.testWindowEnd p) s = .next s)) ∧
    (∀ n code cause, n < 4 → (s.mgQueue n).items = [i] → let t := s.mgEnd n code cause
      (t.mgQueue n).items = [] ∧ (t.mgQueue n).done = (s.mgQueue n).done + 1 ∧ t.fget MGC_MQ_STATE_DEPTH n = 0 ∧ s.KeepsWork t)

/-- PC_SAMPLE: a live core writes a sample of the strand chosen with its state, or with none to show state 6 while it
can issue and 7 otherwise; one that is not live writes none. TRU_DRAIN of a chamber whose tracing is off or stopped,
or that is being zeroised, does nothing; else it delivers the triggers that have fired to each slice, then drains the
FIFOs, and a write that fails stops tracing. A record placed in a RUNNING slice that is not full is written at its
place, and the slice's HEAD rises by 1. The first trigger of an enabled chamber makes STATE TRIGGERED, and a later one
is counted as ignored. TRIGGER by a requester that may write the set triggers for its core, a session's or firmware's
for the lowest live core; RESTART of an enabled chamber starts tracing anew; anybody else changes nothing.
TRU_TIME_TRIGGER comes once, when the timebase has reached its time. A sample and a trigger leave the work in progress
as it was. -/
def Obligations.TraceUnit : Prop :=
  ∀ (s : State) (r : Requester) (n c : Nat), n < 16 → c < 128 →
    (s.coreLive c = false → exec (.pcSample c) s = .next s) ∧
    (s.coreLive c = true → s.boundStrands c = [] → s.issuer c = none → exec (.pcSample c) s = .next (s.trace c 0xFFFF trPcSample
      (leBytes 8 0 ++ leBytes 1 (if s.coreRuns c then 6 else 7) ++ leBytes 1 0 ++ leBytes 2 0))) ∧
    (∀ t st, s.coreLive c = true → s.sampleOf c = some (t, st) → exec (.pcSample c) s = .next (s.trace c t trPcSample
      (leBytes 8 (s.strand c t).pc ++ leBytes 1 st ++ leBytes 1 (s.strandClass (s.strand c t)) ++
        leBytes 2 ((s.boundStrands c).filter (fun e => e.2.mode == .ready)).length))) ∧
    (∀ t b, s.KeepsWork (s.trace c t trPcSample b)) ∧
    (let off := s.fget TRU_STATE_STATE n = 0 ∨ s.fget TRU_STATE_STATE n = 5 ∨ s.fget CHB_STATE_STATE n = chbZeroising
     let cores := s.traceCores n
     let mine := s.tru.fired.filter (fun e => e.1 == n)
     let t : State := { s with tru := { s.tru with fired := s.tru.fired.filter (fun e => e.1 != n) } }
     let reached := allOf (fun s e => allOf (fun s d => s.reach n e.2.1 e.2.2 d) cores s) mine t
     (off → exec (.truDrain n) s = .next s) ∧
     (∀ u, ¬off → reached = (false, u) → exec (.truDrain n) s = .next (u.truFault n)) ∧
     (∀ u v, ¬off → reached = (true, u) → allOf (fun s c => s.drainCore n c) cores u = (false, v) →
       exec (.truDrain n) s = .next (v.truFault n)) ∧
     (∀ u v, ¬off → reached = (true, u) → allOf (fun s c => s.drainCore n c) cores u = (true, v) →
       exec (.truDrain n) s = .next (if cores.all (fun c => (v.sliceOf c).state == 3) && !cores.isEmpty then
         v.fset TRU_STATE_STATE 3 n else v)) ∧
     (¬off → cores = [] → exec (.truDrain n) s = .next t ∧ s.KeepsWork t)) ∧
    (∀ rec_ u, (s.sliceOf c).state = 1 → (s.sliceOf c).post = none → (s.sliceOf c).core = c →
      s.tru.slices.find? (fun x => x.core == c) = some (s.sliceOf c) → recType rec_ ≠ trTrigger → recType rec_ ≠ trDrop →
      (s.sliceOf c).head + 1 < s.sliceLen n →
      s.truWrite n (s.sliceBase n c + 64 + 32 * ((s.sliceOf c).head % s.sliceLen n)) rec_ = (true, u) →
      u.tru.slices = s.tru.slices → u.sliceLen n = s.sliceLen n → ∃ s', s.placeRecord n c rec_ = (true, s') ∧
        (s'.sliceOf c).head = (s.sliceOf c).head + 1 ∧ (s'.sliceOf c).state = 1 ∧ u.KeepsMemory s' ∧ s'.strands = u.strands) ∧
    (∀ t src b, s.fget TRU_CTRL_ENABLE n = 1 → s.fget TRU_STATE_STATE n ≠ 5 →
      (s.fget TRU_STATE_TRIG_VALID n = 1 → s.trigger n c t src b = s.bump TRU_TRIG_IGNORED_COUNT 1 n) ∧
      (s.fget TRU_STATE_TRIG_VALID n = 0 → (s.trigger n c t src b).fget TRU_STATE_TRIG_VALID n = 1 ∧
        (s.trigger n c t src b).fget TRU_STATE_TRIG_CORE n = c ∧ (s.trigger n c t src b).fget TRU_STATE_STATE n = 2 ∧
        s.KeepsWork (s.trigger n c t src b))) ∧
    (s.mayWriteSet r n = true → exec (.trigger r n) s = .next (s.softTrigger r n) ∧ s.KeepsWork (s.softTrigger r n) ∧
      s.softTrigger r n = (match r with
        | .core d t => s.trigger n d t 0 []
        | _ => s.trigger n ((s.coresOf n).headD 0) 0xFFFF 0 []) ∧
      (s.fget TRU_CTRL_ENABLE n = 0 → exec (.restart r n) s = .next s) ∧
      (s.fget TRU_CTRL_ENABLE n = 1 → exec (.restart r n) s = .next (s.truStart n)) ∧
      (s.fget TRU_CTRL_ENABLE n = 1 → s.traceCores n = [] → (s.truStart n).fget TRU_STATE_STATE n = 1 ∧
        (s.truStart n).fget TRU_STATE_TRIG_VALID n = 0 ∧ s.KeepsWork (s.truStart n))) ∧
    (s.mayWriteSet r n = false → exec (.trigger r n) s = .next s ∧ exec (.restart r n) s = .next s) ∧
    (s.fget TRU_CTRL_ENABLE n = 0 ∨ s.fget TRU_TRIG_TIME n = 0 ∨ s.tru.timed.contains n = true →
      exec (.truTimeTrigger n) s = .next s) ∧
    (s.fget TRU_CTRL_ENABLE n = 1 → s.fget TRU_TRIG_TIME n = 1 → s.tru.timed.contains n = false →
      (s.pair TRU_TRIG_TIME_LO_TIME TRU_TRIG_TIME_HI_TIME n ≤ s.tb → ∃ s', exec (.truTimeTrigger n) s = .next s' ∧
        s'.tru.timed.contains n = true ∧ s.KeepsWork s') ∧
      (s.tb < s.pair TRU_TRIG_TIME_LO_TIME TRU_TRIG_TIME_HI_TIME n → exec (.truTimeTrigger n) s = .next s))

/-- With no window open, one opens on a live gallery that is not postponed: by SCAN_WINDOW in its turn in bring-up, or
after it when asked for, by DUP_SCAN_WINDOW for a suspect core; it shows itself and stops dispatch. SCAN_WINDOW for
another opens none while one is open. SCAN_DRAIN_END comes when no strand is bound or DRAIN_MS has passed;
SCAN_QUIESCED once no engine instruction of the gallery and no copy that ran is left; SCAN_SLATE_DONE with no failing
unit of the gallery and nothing deferred closes the window, counts the scan and lets dispatch return. MARK_AMBER,
CLEAR_AMBER and RETIRE by the owner act on a unit in the state each applies to, and on no other; from anybody else
they do nothing. HEALTH_FLASH_WRITE writes the oldest unwritten change; LIFETIME_WRITE comes every 10 minutes of
power-on time. CVU_GO starts a well-formed run in a LIVE chamber, is refused 2 or 4 otherwise, and 3 while one runs;
CVU_ABORT stops one. CVU_RUN_DONE, once no line of another device is awaited, ends a run; one in mode 0 whose range is
read ends DONE with its value. UNCORRECTABLE_UNCORE_FAULT makes the device FAILED. -/
def Obligations.HealthAndChecks : Prop :=
  ∀ (s : State) (r : Requester) (g u : Nat), g < 16 →
    (s.hlm.window = none → s.galleryLive g = true → s.scanPostponed g = false →
      (s.bringUpScan = some g → exec (.scanWindow g) s = .next (s.openWindow g true)) ∧
      (s.bringUpScan = none → s.hlm.asked.contains g = true → exec (.scanWindow g) s = .next (s.openWindow g false)) ∧
      (∀ c, c / 8 = g → s.hlm.suspects.contains c = true → exec (.dupScanWindow c) s = .next (s.openWindow g false))) ∧
    (∀ b, (s.openWindow g b).fget LSQ_STATUS_SCAN g = 1 ∧ (s.openWindow g b).fget HLM_SCAN_STATUS_STATE = 1 ∧
      (s.openWindow g b).fget HLM_SCAN_STATUS_GALLERY = g ∧ s.KeepsWork (s.openWindow g b)) ∧
    (s.hlm.window.isSome = true → (s.hlm.asked.contains g && !s.galleryLive g) = false → exec (.scanWindow g) s = .next s) ∧
    (∀ w, s.hlm.window = some w →
      (w.step < 3 → (List.range 8).all (fun k => (s.boundStrands (8 * w.gallery + k)).isEmpty) = true ∨
          w.openedAt + 1_000_000 * s.fget HLM_SCAN_CTRL_DRAIN_MS ≤ s.now →
        exec .scanDrainEnd s = .next { s with hlm := { s.hlm with window := some { w with step := 3 } } }) ∧
      (w.step ≠ 3 → exec .scanQuiesced s = .next s) ∧
      (w.step = 3 → s.engOps.any (fun o => o.core / 8 == w.gallery) = false → w.copies.all (fun k => match s.item k with
          | some i => (match i.phase with | .mover _ _ => i.unitDone | _ => true)
          | none => true) = true → w.gallery < 16 → ∃ s', exec .scanQuiesced s = .next s' ∧
        s'.hlm.window = some { w with step := 5 } ∧ s'.fget HLM_SCAN_STATUS_STATE = 2 ∧ s.KeepsWork s') ∧
      (∀ fails, w.step ≠ 5 → exec (.scanSlateDone fails) s = .next s) ∧
      (∀ fails, w.step = 5 → w.gallery < 16 → s.hlm.deferred = [] → w.bringUp = false → (s.mgQueue mqHealth).items = [] →
        (∀ f ∈ fails, unitGalleryOf f.1 ≠ some w.gallery) → ∃ s', exec (.scanSlateDone fails) s = .next s' ∧ s'.hlm.window = none ∧ s'.fget LSQ_STATUS_SCAN w.gallery = 0 ∧
          s'.fget HLM_SCANS_COUNT = min (2 ^ 32 - 1) (s.fget HLM_SCANS_COUNT + 1) ∧ s'.fget HLM_SCAN_STATUS_STATE = 0 ∧
          s'.fget HLM_SCAN_STATUS_LAST_RESULT = 0 ∧ s.KeepsWork s')) ∧
    (unitOk u = true → s.owns r = true →
      (s.healthOf u = 0 → ∃ s', exec (.markAmber r u) s = .next s' ∧ s'.healthOf u = 1 ∧ s.KeepsMemory s' ∧
        ∀ v, v ≠ u → s'.healthOf v = s.healthOf v) ∧
      (s.healthOf u = 1 → ∃ s', exec (.clearAmber r u) s = .next s' ∧ s'.healthOf u = 0 ∧ s.KeepsMemory s' ∧
        ∀ v, v ≠ u → s'.healthOf v = s.healthOf v) ∧
      exec (.retire r u) s = .next ((s.writeUnitCmd 3 u).flow) ∧
      (s.healthOf u < 2 → s.writeUnitCmd 3 u =
        ((((s.fset HLM_UNIT_CMD_OP 3).fset HLM_UNIT_CMD_UNIT u).logEvent u kOwner).setUnit u umber))) ∧
    (s.hlm.window = none → exec .scanDrainEnd s = .next s ∧ exec .scanQuiesced s = .next s ∧ exec (.scanSlateDone []) s = .next s) ∧
    (s.owns r = false → exec (.markAmber r u) s = .next s ∧ exec (.clearAmber r u) s = .next s ∧ exec (.retire r u) s = .next s) ∧
    (∀ v rest, s.hlm.unwritten = v :: rest → v ∉ rest → ∃ s', exec .healthFlashWrite s = .next s' ∧ s'.hlm.unwritten = rest ∧
      s'.hlm.flash.find? (fun e => e.1 == v) = some (v, (s.healthOf v, s.historyOf v)) ∧
      s'.fget HLM_FLASH_PENDING = b2n (!rest.isEmpty) ∧ s.KeepsWork s') ∧
    (s.hlm.unwritten = [] → exec .healthFlashWrite s = .next s) ∧
    (smGet (fun _ => 0) s.hlm.lifeFlash 0 + 600_000_000_000 ≤ s.powerOnNs → ∃ s', exec .lifetimeWrite s = .next s' ∧
      s'.hlm.unwritten = [] ∧ s'.hlm.lifeAt = s.now ∧ s'.hlm.lifeFlash = s'.hlm.life ∧ s.KeepsWork s') ∧
    (s.powerOnNs < smGet (fun _ => 0) s.hlm.lifeFlash 0 + 600_000_000_000 → exec .lifetimeWrite s = .next s) ∧
    (u < 2 → s.mayWriteGallery r g = false → exec (.cvuGo r g u) s = .next s ∧ exec (.cvuAbort r g u) s = .next s) ∧
    (u < 2 → s.mayWriteGallery r g = true →
      (let c := s.cvuCfg g u
       let bad := c.width = 0 ∨ 64 < c.width ∨ 4 < c.mode ∨
         ((c.mode = 3 ∨ c.mode = 4) ∧ (c.chunkLog2 < 12 ∨ 24 < c.chunkLog2)) ∨ s.cvuLen g u = 0
       s.fget CVU_STATUS_STATE g u ≠ 1 →
       (¬bad → (∀ n, s.chamberOf g = some n → s.chLive n = false ∨ s.galleryLive g = false) →
         ∃ s', exec (.cvuGo r g u) s = .next s' ∧ s'.fget CVU_STATUS_STATE g u = 4 ∧ s'.fget CVU_STATUS_RESULT g u = 4 ∧
           s.KeepsWork s') ∧
       (∀ n, ¬bad → s.chamberOf g = some n → s.chLive n = true → s.galleryLive g = true → ∃ s', exec (.cvuGo r g u) s = .next s' ∧ s'.fget CVU_STATUS_STATE g u = 1 ∧
           s'.cvuRunOf g u = { cfg := c, addr := s.cvuAddr g u, len := s.cvuLen g u, table := s.cvuTable g u } ∧
           s'.pair CVU_BYTES_LO_COUNT CVU_BYTES_HI_COUNT g u = 0 ∧ s.KeepsWork s') ∧
       (bad → ∃ s', exec (.cvuGo r g u) s = .next s' ∧
         s'.fget CVU_STATUS_STATE g u = 4 ∧ s'.fget CVU_STATUS_RESULT g u = 2 ∧ s.KeepsWork s') ∧
       exec (.cvuAbort r g u) s = .next s) ∧
      (s.fget CVU_STATUS_STATE g u = 1 → exec (.cvuGo r g u) s = .next (s.fset CVU_STATUS_RESULT 3 g u) ∧
        ∃ s', exec (.cvuAbort r g u) s = .next s' ∧ s'.fget CVU_STATUS_STATE g u = 3 ∧ s'.fget CVU_STATUS_RESULT g u = 0)) ∧
    (u < 2 → s.fget CVU_STATUS_STATE g u ≠ 1 → exec (.cvuRunDone g u) s = .next s) ∧
    (∀ n, u < 2 → s.fget CVU_STATUS_STATE g u = 1 → s.chamberOf g = some n → s.awaitsNoRead (.cvu g u) →
      let t := (s.asksAs (.cvu g u)).cvuWhole g u n
      t.ms.wanted = [] → exec (.cvuRunDone g u) s = .next (t.readAll (.cvu g u)).deliver) ∧
    (∀ n bs s1, u < 2 → (s.cvuRunOf g u).cfg.mode = 0 →
      s.readVa (reqCdc g) n (s.cvuRunOf g u).addr (s.cvuRunOf g u).len = (.ok bs, s1) → s1.fget CVU_MISMATCH_COUNT g u = 0 →
      let t := s.cvuWhole g u n
      t.fget CVU_STATUS_STATE g u = 2 ∧ t.fget CVU_STATUS_RESULT g u = 0 ∧
      t.pair CVU_RESULT_LO_VALUE CVU_RESULT_HI_VALUE g u = (s.cvuRunOf g u).cfg.value bs % 2 ^ 64 ∧ s1.KeepsWork t) ∧
    (∃ s', exec .uncorrectableUncoreFault s = .next s' ∧ s'.fget HLM_DEVICE_STATE = 2 ∧ s'.pins.faultN = false ∧
      (s.fget HLM_DEVICE_STATE ≠ 2 → s'.fget HLM_DEVICE_CAUSE = 1) ∧ s.KeepsWork s')

/-- POWER_ON starts everything anew but flash and fuses, with kind POWER_ON, and stage 1 unless RESET_N is low;
RESET_N and the owner's WARM_RESET do likewise with kind WARM, RESET_N holding the device in reset; PWR_GOOD_FALL
holds it in reset; RESET_N_RISES ends a held reset. PORT_RESET by the owner closes every session and leaves the work.
REFCLK_LOSS stops the device. SHUTDOWN by the owner and OFF_REQ begin power-down once; SHUTDOWN_DRAIN_END comes with
no item left or after 2 s and stops each chamber; OFF_READY asserts the pin once the queues left are torn down.
FIRMWARE_VERIFIED leads to stage 2 with the slot that boots, the next one first, or asserts FAULT_N with none.
STAGE_2_DONE goes on with the first survey that passes, or waits. STACK_TRAINED marks a stack ready, counts a failure,
or retires it at the third. EARLY_SERVICE is skipped for a stack or a check, or set up. STAGE_5 begins the handover,
or with no early chamber the full survey. EARLY_HANDOVER drains, zeroises, then applies it. Each does nothing where it
does not apply. -/
def Obligations.ResetsAndBringUp : Prop :=
  ∀ (s : State) (r : Requester),
    (s.pins.pwrGood = false → s.pins.resetN = true → s.tap.hold = false → ∃ s', exec .powerOn s = .next s' ∧
      s'.pins.pwrGood = true ∧ s'.pwr.held = false ∧ s'.tb = 0 ∧ s'.mem = [] ∧ s'.items = [] ∧ s'.strands = [] ∧
      s'.ctp.sessions = [] ∧ s'.fget PWR_BOOT_RESET_KIND = 1 ∧ s'.sec.keys = s.sec.keys ∧ s'.sec.keysets = s.sec.keysets ∧
      s'.sec.slotA = s.sec.slotA ∧ s'.sec.slotB = s.sec.slotB ∧ s'.svy.slotA = s.svy.slotA ∧ s'.svy.slotB = s.svy.slotB ∧
      s'.pending = s.pending) ∧
    (s.pins.pwrGood = false → s.pins.resetN = false ∨ s.tap.hold = true → ∃ s', exec .powerOn s = .next s' ∧
      s'.pins.pwrGood = true ∧ s'.pwr.held = true ∧ s'.mem = [] ∧ s'.strands = [] ∧ s'.sec.keys = s.sec.keys) ∧
    (s.pins.pwrGood = true → exec .powerOn s = .next s) ∧
    (s.pins.pwrGood = false → exec .pwrGoodFall s = .next s) ∧ (s.pins.resetN = false → exec .resetN s = .next s) ∧
    (s.owns r = true → s.pwr.held = true ∨ s.pins.pwrGood = false ∨ s.pins.thermtripN = false → exec (.warmReset r) s = .next s) ∧
    (s.pwr.held = false → exec .resetNRises s = .next (State.noteBoard { s with pins := { s.pins with resetN := true } })) ∧
    (s.pwr.held = true → exec .refclkLoss s = .next s) ∧
    (s.pwr.held = false → s.pins.pwrGood = true → s.pins.resetN = true → s.pins.thermtripN = true → s.tap.hold = false →
      s.owns r = true → ∃ s', exec (.warmReset r) s = .next s' ∧ s'.fget PWR_BOOT_RESET_KIND = 2 ∧ s'.mem = [] ∧
        s'.strands = [] ∧ s'.ctp.sessions = [] ∧ s'.tb = 0 ∧ s'.pwr.held = false ∧ s'.sec.keys = s.sec.keys) ∧
    (s.owns r = false → exec (.warmReset r) s = .next s ∧ exec (.portReset r) s = .next s ∧ exec (.shutdown r) s = .next s) ∧
    (s.pins.resetN = true → s.pins.pwrGood = true → s.pins.thermtripN = true → s.pwr.held = false →
      ∃ s', exec .resetN s = .next s' ∧ s'.pins.resetN = false ∧ s'.pins.faultN = true ∧ s'.pwr.held = true ∧ s'.pwr.kind = 2 ∧
        s'.mem = [] ∧ s'.strands = [] ∧ s'.sec.keys = s.sec.keys) ∧
    (s.pins.pwrGood = true → s.tap.hold = false → s.pwr.held = true → ∃ s', exec .resetNRises s = .next s' ∧
      s'.pins.resetN = true ∧ s'.pwr.held = false ∧ s'.tb = 0 ∧ s.KeepsWork s') ∧
    (s.pins.pwrGood = true → ∃ s', exec .pwrGoodFall s = .next s' ∧ s'.pins.pwrGood = false ∧ s'.pins.faultN = true ∧
      s'.pins.thermtripN = true ∧ s'.pwr.held = true ∧ s'.mem = [] ∧ s'.sec.keys = s.sec.keys) ∧
    (s.owns r = true → ∃ s', exec (.portReset r) s = .next s' ∧ s'.ctp.sessions = [] ∧ s'.fget CTP_OWNER_VALID = 0 ∧
      s'.fget PWR_BOOT_RESET_KIND = 3 ∧ s'.utcBase = s.utcBase ∧ s.KeepsWork s') ∧
    (s.pwr.held = false → ∃ s', exec .refclkLoss s = .next s' ∧ s'.pwr.dark = true ∧ s'.pwr.halted = true ∧
      s'.fget HLM_DEVICE_STATE = 2 ∧ s'.fget CTP_PORT_STATUS_LINK_UP 0 = 0 ∧ s'.fget CTP_PORT_STATUS_LINK_UP 1 = 0 ∧
      s'.pins.faultN = false ∧ s.KeepsWork s') ∧
    (s.pwr.shutdownAt.isSome = true → s.owns r = true → exec (.shutdown r) s = .next s) ∧
    (s.fget PWR_STATUS_STAGE < 2 → exec .offReq s = .next { s with pins := { s.pins with offReqN := false } }) ∧
    (s.pwr.shutdownAt = none → s.pwr.halted = false → s.pwr.held = false →
      (s.owns r = true → ∃ s', exec (.shutdown r) s = .next s' ∧ s'.pwr.shutdownAt = some s.now ∧
        s'.fget PWR_STATUS_SHUTDOWN = 1 ∧ s.KeepsWork s') ∧
      (2 ≤ s.fget PWR_STATUS_STAGE → ∃ s', exec .offReq s = .next s' ∧ s'.pwr.shutdownAt = some s.now ∧
        s'.pins.offReqN = false ∧ s.KeepsWork s')) ∧
    (∀ at_, s.pwr.shutdownAt = some at_ → s.pwr.drained = false → s.pwr.halted = false →
      (s.items ≠ [] → s.now < at_ + 2_000_000_000 → exec .shutdownDrainEnd s = .next s) ∧
      (s.items = [] ∨ at_ + 2_000_000_000 ≤ s.now →
        let t := (((List.range 16).filter s.chLive).foldl (fun s n => s.stopChamber n) s |>.fset PWR_STATUS_EARLY 0).lifetimeWrite
        exec .shutdownDrainEnd s = .next { t with pwr := { t.pwr with drained := true, handoverAt := none } })) ∧
    (s.pwr.shutdownAt = none → exec .shutdownDrainEnd s = .next s) ∧ (s.pwr.drained = false → exec .offReady s = .next s) ∧
    (s.pwr.drained = true → s.pwr.halted = false → s.pins.offReadyN = true → (∀ q, q < 4096 → s.queueState q = qFree ∨ s.queueState q = qTeardownDone) →
      ∃ s', exec .offReady s = .next s' ∧ s'.pins.offReadyN = false ∧ (∀ st, st < 16 → s'.fget HBC_STATUS_LOW_POWER st = 1) ∧
        s.KeepsWork s') ∧
    (s.booting = true → s.pins.faultN = true → s.fget PWR_STATUS_STAGE = 1 → ∀ vexps,
      ∃ s', exec (.firmwareVerified vexps) s = .next s' ∧ s.KeepsWork s' ∧
        (fwBoots s.orderingCode (s.fwSlot s.sec.nextSlot) = true → s'.fget PWR_STATUS_STAGE = 2 ∧
          s'.fget SEC_FW_STATUS_VERIFIED = 1 ∧ s'.fget SEC_FW_STATUS_ACTIVE = s.sec.nextSlot % 2) ∧
        (fwBoots s.orderingCode (s.fwSlot s.sec.nextSlot) = false → fwBoots s.orderingCode (s.fwSlot (1 - s.sec.nextSlot)) = true →
          s'.fget PWR_STATUS_STAGE = 2 ∧ s'.fget SEC_FW_STATUS_VERIFIED = 1 ∧
          s'.fget SEC_FW_STATUS_ACTIVE = 1 - s.sec.nextSlot) ∧
        (fwBoots s.orderingCode (s.fwSlot s.sec.nextSlot) = false →
          fwBoots s.orderingCode (s.fwSlot (1 - s.sec.nextSlot)) = false → s'.pins.faultN = false ∧ s'.fget PWR_STATUS_STAGE = 1)) ∧
    (∀ vexps, s.booting = false ∨ s.fget PWR_STATUS_STAGE ≠ 1 → exec (.firmwareVerified vexps) s = .next s) ∧
    (s.booting = false ∨ s.fget PWR_STATUS_STAGE ≠ 2 → exec .stage2Done s = .next s) ∧
    (∀ st ok, s.nextStack ≠ some st → exec (.stackTrained st ok) s = .next s) ∧
    (s.earlyBody = none → exec .earlyService s = .next s) ∧ (s.booting = false → exec .stage5 s = .next s) ∧
    (s.pwr.handoverAt = none → exec .earlyHandover s = .next s) ∧
    (s.booting = true → s.fget PWR_STATUS_STAGE = 2 → s.pwr.waiting = false →
      let t := s.readHealth
      ∃ s', exec .stage2Done s = .next s' ∧ ∀ a u, t.bootCheck t.activeSlot = (a, u) →
        (a = true → s' = u.bootSurvey t.activeSlot 1) ∧
        (a = false → ∀ b v, u.bootCheck (1 - t.activeSlot) = (b, v) → (b = true → s' = v.bootSurvey (1 - t.activeSlot) 2) ∧
          (b = false → s' = { v with pwr := { v.pwr with waiting := true } }))) ∧
    (∀ st, s.booting = true → 3 ≤ s.fget PWR_STATUS_STAGE → s.nextStack = some st →
      (∃ s', exec (.stackTrained st true) s = .next s' ∧ bitOf (s'.fget PWR_BOOT_STACKS_READY) st = true ∧
        s'.fget HBC_STATUS_TRAINED st = 1 ∧ s'.pwr.seeded.contains st = true ∧ s.KeepsWork s') ∧
      (smGet (fun _ => 0) s.pwr.failures st < 2 → ∃ s', exec (.stackTrained st false) s = .next s' ∧
        smGet (fun _ => 0) s'.pwr.failures st = smGet (fun _ => 0) s.pwr.failures st + 1 ∧
        s' = { s with pwr := s'.pwr }) ∧
      (2 ≤ smGet (fun _ => 0) s.pwr.failures st → exec (.stackTrained st false) s =
        .next ((List.range 32).foldl (fun s p => if s.healthOf (unitPc st p) == umber then s else s.setUnit (unitPc st p) umber)
          { s with pwr := { s.pwr with
            failures := smPut (fun _ => 0) s.pwr.failures st (smGet (fun _ => 0) s.pwr.failures st + 1) } }))) ∧
    (∀ b ok, s.earlyBody = some (b, ok) → s.booting = true → s.fget PWR_STATUS_STAGE = 3 → s.fget PWR_BOOT_EARLY = 0 →
      s.pwr.shutdownAt = none → (List.range 4).all s.stackDone = true →
      (s.fget PWR_BOOT_STACKS_READY % 16 ≠ 15 → exec .earlyService s = .next (s.fset PWR_BOOT_EARLY 2)) ∧
      (s.fget PWR_BOOT_STACKS_READY % 16 = 15 → ok = false → exec .earlyService s = .next ((s.toStage 4).fset PWR_BOOT_EARLY 3)) ∧
      (s.fget PWR_BOOT_STACKS_READY % 16 = 15 → ok = true → (s.toStage 4).earlySetup b = none →
        exec .earlyService s = .next ((s.toStage 4).fset PWR_BOOT_EARLY 3)) ∧
      (∀ u, s.fget PWR_BOOT_STACKS_READY % 16 = 15 → ok = true → (s.toStage 4).earlySetup b = some u →
        let v := ((u.goLive (fieldAt b 0 1)).fset PWR_STATUS_EARLY 1).fset PWR_BOOT_EARLY 1
        exec .earlyService s = .next ((v.galleriesOf (fieldAt b 0 1)).foldl
          (fun s g => s.placeRate g (1000 * fieldAt b 4 2) 2_400_000) v))) ∧
    (s.booting = true → s.fget PWR_STATUS_STAGE = 3 ∨ s.fget PWR_STATUS_STAGE = 4 → s.nextStack = none → s.pwr.shutdownAt = none →
      (s.fget PWR_STATUS_EARLY = 1 → ∃ s', exec .stage5 s = .next s' ∧ s'.fget PWR_STATUS_STAGE = 5 ∧
        s'.pwr.handoverAt = some s.now ∧ s.KeepsWork s') ∧
      (s.fget PWR_STATUS_EARLY = 0 → exec .stage5 s = .next (s.toStage 5).fullChambers)) ∧
    (∀ at_ b ok, s.pwr.handoverAt = some at_ → s.earlyBody = some (b, ok) → s.pwr.halted = false → let n := fieldAt b 0 1
      (s.fget CHB_STATE_STATE n = chbLive → s.items = [] ∨ at_ + 1_000_000 * fieldAt b 0x10 2 ≤ s.now →
        exec .earlyHandover s = .next (s.stopChamber n)) ∧
      (s.fget CHB_STATE_STATE n = chbLive → s.items ≠ [] → s.now < at_ + 1_000_000 * fieldAt b 0x10 2 →
        exec .earlyHandover s = .next s) ∧
      (s.fget CHB_STATE_STATE n = chbDraining → s.drained n = false → exec .earlyHandover s = .next s) ∧
      (s.fget CHB_STATE_STATE n = chbDraining → s.drained n = true → exec .earlyHandover s = .next (s.zeroBegin n)) ∧
      (s.fget CHB_STATE_STATE n = chbZeroising → s.svy.zeroing = [] →
        let u := (s.fset PWR_STATUS_EARLY 0).setChamber n Chamber.none [] [] []
        exec .earlyHandover s = .next ({ u with pwr := { u.pwr with handoverAt := none } } : State).fullChambers))

/-- MARGIN_LOOP_STEP, every 100 µs, does nothing while the slate runs, holds the target where no canary saw an
operation, and otherwise moves it by what the worst slack asks (before stage 5 only up), within 0.55 to 0.85 V.
CANARY_EMERGENCY below EMERGENCY raises the target 10 mV and stretches; above it does nothing. POWER_WINDOW, every 10
µs, shows each domain's and the package's draw, and a package above CAP_W starts the guard; PKG_GUARD_END ends it
under the cap or after 500 µs. POWER_LOOP_STEP, every 100 µs, with no window measured only notes its time; in a
chamber of one gallery it lowers the rate 1 % above the budget and raises it 0.5 % with 3 % to spare.
REGULATOR_SETTLED takes the rate that waited. THERMAL_READ, every 10 µs, shows the hottest temperature, and trips the
device at 115 °C. PMBUS_POLL, every 10 ms, reads a regulator's four values and shows its voltage; one that does not
answer is mute, and the uncore's fails the device. PMBUS_ALERT reads the segment's status. A supply fault that has
lasted 1 ms then trips. None touches the work in progress, but for the canary event of the margin loop. -/
def Obligations.PowerLoops : Prop :=
  ∀ (s : State) (d : Nat), d < 17 →
    (s.powered = true → 2 ≤ s.fget PWR_STATUS_STAGE → s.elapsed (1 + d) 100_000 = true → s.slateRuns d = false →
      d < s.pwr.domains.length →
      (∃ s', exec (.marginLoopStep d none) s = .next s' ∧ (s'.domain d).target = (s.domain d).target ∧
        (s'.domain d).held = (s.domain d).held + 1 ∧ s.KeepsWork s') ∧
      (∀ w canary, w < 256 → s.learned d ≤ 350 → 5500 ≤ (s.domain d).target → (s.domain d).starved < 9 →
        let move := if s.marginFree then s.marginMove w else max 0 (s.marginMove w)
        let good := s.slackFloor ≤ w
        ∃ s', exec (.marginLoopStep d (some (w, canary))) s = .next s' ∧
          (s'.domain d).target = limitTarget ((s.domain d).target + move) ∧
          (s'.domain d).held = (if good then (s.domain d).held + 1 else 0) ∧
          (s'.domain d).emergency = ((s.domain d).emergency && !decide good) ∧ s.KeepsWork s')) ∧
    (∀ x, s.elapsed (1 + d) 100_000 = false → exec (.marginLoopStep d x) s = .next s) ∧
    (∀ x, s.powered = true → 2 ≤ s.fget PWR_STATUS_STAGE → s.elapsed (1 + d) 100_000 = true → s.slateRuns d = true →
      exec (.marginLoopStep d x) s = .next (s.mark (1 + d))) ∧
    (s.powered = true → 2 ≤ s.fget PWR_STATUS_STAGE → d < s.pwr.domains.length → ∀ slack,
      (slack < s.slackEmergency → ∃ s', exec (.canaryEmergency d slack) s = .next s' ∧
        (s'.domain d).target = (if s.slateRuns d then (s.domain d).target else limitTarget ((s.domain d).target + 100)) ∧ (s'.domain d).emergency = true ∧ s.KeepsWork s') ∧
      (s.slackEmergency ≤ slack → exec (.canaryEmergency d slack) s = .next s)) ∧
    (∀ doms bytes pkg, s.powered = true → 2 ≤ s.fget PWR_STATUS_STAGE → s.elapsed 0 10_000 = true →
      ∃ s', exec (.powerWindow doms bytes pkg) s = .next s' ∧ s'.fget PWR_PKG_NOW_W = min 0xFFFF ((pkg + 999) / 1000) ∧
        s'.fget PWR_DOM_TEMP_POWER_W d = min 0xFFFF ((doms.getD d 0 + 999) / 1000) ∧
        (s.capW < min 0xFFFF ((pkg + 999) / 1000) → s.pwr.guardAt = none → s'.pwr.guardAt = some s.now ∧
          s'.fget PWR_STATUS_PKG_LIMITED = 1) ∧ s.KeepsWork s') ∧
    (∀ doms bytes pkg, s.elapsed 0 10_000 = false → exec (.powerWindow doms bytes pkg) s = .next s) ∧
    (s.pwr.guardAt = none → exec .pkgGuardEnd s = .next s) ∧
    (∀ at_, s.pwr.guardAt = some at_ →
      (s.fget PWR_PKG_NOW_W ≤ s.capW ∨ at_ + 500_000 ≤ s.now → ∃ s', exec .pkgGuardEnd s = .next s' ∧ s'.pwr.guardAt = none ∧
        s'.fget PWR_STATUS_PKG_LIMITED = 0 ∧ s.KeepsWork s') ∧
      (s.capW < s.fget PWR_PKG_NOW_W → s.now < at_ + 500_000 → exec .pkgGuardEnd s = .next s)) ∧
    (∀ n, s.elapsed (20 + n) 100_000 = false → exec (.powerLoopStep n) s = .next s) ∧
    (∀ n, s.powered = true → s.chLive n = true → s.elapsed (20 + n) 100_000 = true →
      let t := s.mark (20 + n)
      let draws := smGet (fun _ => []) s.pwr.draws n
      let budget := s.budget n * draws.length
      (draws = [] → exec (.powerLoopStep n) s = .next t) ∧
      (∃ s', exec (.powerLoopStep n) s = .next s' ∧ s.KeepsWork s') ∧
      (∀ g, draws ≠ [] → s.galleriesOf n = [g] →
        let x := s.domain g
        (budget < draws.sum → exec (.powerLoopStep n) s =
          .next ((t.moveRate n g (x.rate * 99 / 100) true).refreshChamberPower n)) ∧
        (100 * draws.sum ≤ 97 * budget → x.throttled = false → draws.sum ≤ budget → exec (.powerLoopStep n) s =
          .next ((t.moveRate n g (x.rate * 1005 / 1000) false).refreshChamberPower n)))) ∧
    (∀ khz, (s.domain d).rise = some khz → s.powered = true → d < s.pwr.domains.length →
      ∃ s', exec (.regulatorSettled d) s = .next s' ∧ (s'.domain d).rate = khz ∧ (s'.domain d).rise = none ∧ s.KeepsWork s') ∧
    ((s.domain d).rise = none → exec (.regulatorSettled d) s = .next s) ∧
    (∀ temps, s.elapsed 40 10_000 = false → exec (.thermalRead temps) s = .next s) ∧
    (∀ acked vout fault, s.elapsed (60 + d) 10_000_000 = false → exec (.pmbusPoll d acked vout fault) s = .next s) ∧
    (∀ temps h, s.elapsed 40 10_000 = true → argMax (fun d => min 255 (temps.getD d 0)) (List.range 17) = some h →
      ∃ s', exec (.thermalRead temps) s = .next s' ∧ s'.fget PWR_THERM_HOT_C = min 255 (temps.getD h 0) ∧
        s'.fget PWR_THERM_HOT_DOMAIN = h ∧ s.KeepsWork s' ∧
        (s.powered = true → 115 ≤ temps.getD h 0 → s'.pwr.halted = true ∧ s'.pwr.trip = 1 ∧ s'.pins.thermtripN = false)) ∧
    (s.powered = true → 2 ≤ s.fget PWR_STATUS_STAGE → (s.domain d).mute = false → s.elapsed (60 + d) 10_000_000 = true →
      d < s.pwr.domains.length → ∀ vout fault,
      (∃ v : State, exec (.pmbusPoll d true vout fault) s = .next v.supplyTrip ∧ s.KeepsWork v ∧ s.KeepsWork v.supplyTrip ∧
        v.out = s.out ++ [.pmbus d 0x8B 0, .pmbus d 0x8C 0, .pmbus d 0x8D 0, .pmbus d 0x79 0] ∧
        v.fget PWR_DOM_V_MEASURED_MV d = min 0xFFFF (roundDiv (vout * 10_000 / 2 ^ (s.domain d).vexp) 10)) ∧
      (∃ s', exec (.pmbusPoll d false vout fault) s = .next s' ∧ (s'.domain d).mute = true ∧ s.KeepsWork s' ∧
        (d = 16 → s'.fget HLM_DEVICE_STATE = 2))) ∧
    (∀ seg faults, s.powered = true → 2 ≤ s.fget PWR_STATUS_STAGE → seg < 4 → ∃ v : State,
      exec (.pmbusAlert seg faults) s = .next v.supplyTrip ∧
      v.out = s.out ++ (segmentDomains seg).map (fun d => .pmbus d 0x79 0) ∧ s.KeepsWork v ∧ s.KeepsWork v.supplyTrip)
end

