-- ==== Sys2Proof/Laws/SMap.lean ====
section
/-! SUPPORT. What a sparse map reads as after each operation, and that each operation keeps the canonical form. -/

namespace Sys2Proof.Machine

variable {α : Type}

/-! ### Reading -/

theorem smGet_smSet (d : Nat → α) (m : List (Nat × α)) (k j : Nat) (v : α) :
    smGet d (smSet m k v) j = if k = j then v else smGet d m j := by
  induction m with
  | nil => simp [smSet, smGet]
  | cons e m ih =>
    obtain ⟨i, u⟩ := e
    by_cases h1 : k < i
    · simp [smSet, smGet, h1]
    · by_cases h2 : k = i
      · subst h2; by_cases h3 : k = j <;> simp [smSet, smGet, h3]
      · by_cases h3 : i = j
        · subst h3; simp [smSet, smGet, h1, h2]
        · simp [smSet, smGet, h1, h2, h3, ih]

/-- A map with some keys no longer listed. -/
theorem smGet_filter (d : Nat → α) (m : List (Nat × α)) (p : Nat → Bool) (j : Nat) :
    smGet d (m.filter (fun e => p e.1)) j = if p j then smGet d m j else d j := by
  induction m with
  | nil => simp [smGet]
  | cons e m ih =>
    obtain ⟨i, u⟩ := e
    by_cases h : i = j
    · subst h; cases hp : p i <;> simp [smGet, hp, ih]
    · cases hp : p i <;> simp [smGet, hp, h, ih]

theorem smGet_smErase (d : Nat → α) (m : List (Nat × α)) (k j : Nat) :
    smGet d (smErase m k) j = if k = j then d j else smGet d m j := by
  rw [smErase, smGet_filter d m (fun i => i != k)]
  by_cases h : k = j
  · simp [h]
  · simp [h, Ne.symm h]

/-- Key `j` after key `k` is set. -/
theorem smGet_smPut [DecidableEq α] (d : Nat → α) (m : List (Nat × α)) (k j : Nat) (v : α) :
    smGet d (smPut d m k v) j = if k = j then v else smGet d m j := by
  by_cases h : v = d k
  · by_cases hk : k = j
    · subst hk; simp [smPut, h, smGet_smErase]
    · simp [smPut, h, smGet_smErase, hk]
  · simp [smPut, h, smGet_smSet]

@[simp] theorem smGet_smPut_self [DecidableEq α] (d : Nat → α) (m : List (Nat × α)) (k : Nat) (v : α) :
    smGet d (smPut d m k v) k = v := by simp [smGet_smPut]

theorem smGet_smPut_ne [DecidableEq α] (d : Nat → α) (m : List (Nat × α)) {k j : Nat} (v : α) (h : k ≠ j) :
    smGet d (smPut d m k v) j = smGet d m j := by simp [smGet_smPut, h]

/-- Key `j` after the keys that satisfy `p` are put back. -/
theorem smGet_smClear (d : Nat → α) (m : List (Nat × α)) (p : Nat → Bool) (j : Nat) :
    smGet d (smClear p m) j = if p j then d j else smGet d m j := by
  rw [smClear, smGet_filter d m (fun i => !p i)]
  cases p j <;> simp

/-! ### The canonical form -/

theorem smWfFrom_mono [DecidableEq α] {d : Nat → α} {lo lo' : Nat} {m : List (Nat × α)} (h : lo' ≤ lo)
    (hm : smWfFrom d lo m = true) : smWfFrom d lo' m = true := by
  cases m with
  | nil => rfl
  | cons e m =>
    obtain ⟨k, v⟩ := e
    simp only [smWfFrom, Bool.and_eq_true, decide_eq_true_eq] at hm ⊢
    exact ⟨⟨by omega, hm.1.2⟩, hm.2⟩

theorem smWfFrom_filter [DecidableEq α] {d : Nat → α} (p : Nat → Bool) (m : List (Nat × α)) :
    ∀ lo, smWfFrom d lo m = true → smWfFrom d lo (m.filter (fun e => p e.1)) = true := by
  induction m with
  | nil => intro lo _; rfl
  | cons e m ih =>
    obtain ⟨k, v⟩ := e
    intro lo h
    simp only [smWfFrom, Bool.and_eq_true, decide_eq_true_eq] at h
    cases hp : p k
    · simpa [List.filter_cons, hp] using smWfFrom_mono (by omega) (ih _ h.2)
    · simpa [List.filter_cons, hp, smWfFrom, h.1] using ih _ h.2

theorem smWfFrom_smSet [DecidableEq α] {d : Nat → α} (k : Nat) (v : α) (hv : v ≠ d k) (m : List (Nat × α)) :
    ∀ lo, lo ≤ k → smWfFrom d lo m = true → smWfFrom d lo (smSet m k v) = true := by
  induction m with
  | nil => intro lo hk _; simp [smSet, smWfFrom, hk, hv]
  | cons e m ih =>
    obtain ⟨i, u⟩ := e
    intro lo hk h
    simp only [smWfFrom, Bool.and_eq_true, decide_eq_true_eq] at h
    by_cases h1 : k < i
    · simp [smSet, h1, smWfFrom, hk, hv, h.1.2, h.2, Nat.succ_le_of_lt h1]
    · by_cases h2 : k = i
      · subst h2; simp [smSet, smWfFrom, hk, hv, h.2]
      · simpa [smSet, h1, h2, smWfFrom, h.1] using ih (i + 1) (by omega) h.2

/-- Setting a key keeps the canonical form. -/
theorem smWf_smPut [DecidableEq α] {d : Nat → α} {m : List (Nat × α)} (k : Nat) (v : α) (h : smWf d m = true) :
    smWf d (smPut d m k v) = true := by
  by_cases hv : v = d k
  · simpa [smPut, hv, smErase, smWf] using smWfFrom_filter (fun i => i != k) m 0 h
  · simpa [smPut, hv, smWf] using smWfFrom_smSet k v hv m 0 (by omega) h

/-- Putting keys back keeps the canonical form. -/
theorem smWf_smClear [DecidableEq α] {d : Nat → α} {m : List (Nat × α)} (p : Nat → Bool) (h : smWf d m = true) :
    smWf d (smClear p m) = true := smWfFrom_filter (fun i => !p i) m 0 h

end Sys2Proof.Machine
end

