-- ==== Sys2Proof/Laws/Memory.lean ====
section
/-! SUPPORT. What memory reads as after each memory operation, and that each of them keeps its canonical form. -/

namespace Sys2Proof.Machine

/-! ### Bytes written into a memory -/

theorem smGet_memWrite (bs : List Byte) : ∀ (m : List Host.Cell) (a b : Nat),
    smGet memDefault (memWrite m a bs) b = if a ≤ b ∧ b < a + bs.length then bs.getD (b - a) 0#8 else smGet memDefault m b := by
  induction bs with
  | nil => intro m a b; simp only [memWrite, List.length_nil]; rw [if_neg (by omega)]
  | cons x bs ih =>
    intro m a b
    rw [memWrite, ih, smGet_smPut]
    by_cases h : a = b
    · subst h; rw [if_neg (by omega)]; simp
    · by_cases h' : a + 1 ≤ b ∧ b < a + 1 + bs.length
      · obtain ⟨k, rfl⟩ : ∃ k, b = a + 1 + k := ⟨b - (a + 1), by omega⟩
        rw [if_pos h', if_pos (by simp only [List.length_cons]; omega), show a + 1 + k - a = k + 1 by omega]
        simp
      · rw [if_neg h', if_neg h, if_neg (by simp only [List.length_cons]; omega)]

theorem memWrite_wf (bs : List Byte) : ∀ (m : List Host.Cell) (a : Nat), Memory.wf m = true → Memory.wf (memWrite m a bs) = true := by
  induction bs with
  | nil => intro m a h; exact h
  | cons x bs ih => intro m a h; exact ih _ _ (smWf_smPut a x h)

theorem smClear_mem_wf {m : List Host.Cell} (p : Nat → Bool) (h : Memory.wf m = true) : Memory.wf (smClear p m) = true :=
  smWf_smClear p h

/-! ### Bytes read -/

/-- A byte after bytes are written: the one written there, or the byte of before. -/
theorem State.byte_setBytes (s : State) (a : Nat) (bs : List Byte) (b : Nat) :
    (s.setBytes a bs).byte b = if a ≤ b ∧ b < a + bs.length then bs.getD (b - a) 0#8 else s.byte b :=
  smGet_memWrite bs s.mem a b

theorem State.byte_setBytes_outside (s : State) {a : Nat} {bs : List Byte} {b : Nat} (h : b < a ∨ a + bs.length ≤ b) :
    (s.setBytes a bs).byte b = s.byte b := by
  rw [State.byte_setBytes, if_neg (by omega)]

/-- A byte after a range is zeroed. -/
theorem State.byte_zeroBytes (s : State) (lo hi b : Nat) :
    (s.zeroBytes lo hi).byte b = if lo ≤ b ∧ b < hi then 0#8 else s.byte b := by
  simp [State.byte, State.zeroBytes, smGet_smClear, memDefault]

/-! ### The canonical form -/

theorem State.setBytes_wf {s : State} (a : Nat) (bs : List Byte) (h : Memory.wf s.mem = true) :
    Memory.wf (s.setBytes a bs).mem = true := memWrite_wf bs s.mem a h

theorem State.zeroBytes_wf {s : State} (lo hi : Nat) (h : Memory.wf s.mem = true) : Memory.wf (s.zeroBytes lo hi).mem = true :=
  smClear_mem_wf (fun a => lo ≤ a && a < hi) h

/-- Memory right after reset is in its canonical form. -/
theorem reset_mem_wf : Memory.wf State.reset.mem = true := rfl

end Sys2Proof.Machine
end

