-- ==== Sys2Proof/Laws/Canonical.lean ====
section
/-! SUPPORT. Each operation of the state keeps its sparse parts in their canonical form: the base lemmas, registers, memory, items, health and queues. -/

set_option linter.unusedTactic false
set_option linter.unreachableTactic false
set_option linter.unusedVariables false
set_option Elab.async false

namespace Sys2Proof.Machine

/-! ### Ways to show the canonical form -/

/-- The state beside a result is in canonical form. -/
def State.CanonicalSnd {α : Type} (r : α × State) : Prop := r.2.Canonical

/-- Only memory and the register file count. -/
theorem State.canonical_ext {s : State} (h : Memory.wf s.mem = true ∧ smWf resetAt s.regs = true) : s.Canonical := h

/-- A record update that leaves memory and the register file as they are. -/
theorem State.canonical_mk {s : State}
    {a0 a1 a2 a5 a6 a7 a8 a9 a10 a11 a12 a13 a14 a15 a16 a17 a18 a19 a20 a21 a22 a23 a24 a25 a26 a27 a28 a29 a30 a31 a32
      a33 a34 a35 a36 a37 a38 a39}
    (h : s.Canonical) :
    (State.mk a0 a1 a2 s.mem s.regs a5 a6 a7 a8 a9 a10 a11 a12 a13 a14 a15 a16 a17 a18 a19 a20 a21 a22 a23 a24 a25 a26
      a27 a28 a29 a30 a31 a32 a33 a34 a35 a36 a37 a38 a39).Canonical := h

theorem State.canonical_fold {s : State} (h : s.Canonical) : Memory.wf s.mem = true ∧ smWf resetAt s.regs = true := h

theorem State.canonicalSnd_mk {α : Type} {a : α} {s : State} (h : s.Canonical) : State.CanonicalSnd (a, s) := h

theorem State.canonical_snd {α : Type} {r : α × State} (h : State.CanonicalSnd r) : r.2.Canonical := h

theorem State.canonical_of_mk {α : Type} {a : α} {s : State} (h : State.CanonicalSnd (a, s)) : s.Canonical := h

theorem State.canonical_of_pair {α : Type} {r : α × State} {a : α} {t : State} (e : r = (a, t)) (h : State.CanonicalSnd r) :
    t.Canonical := by
  subst e; exact h

theorem State.canonical_ite {c : Prop} [Decidable c] {s t : State} (h : s.Canonical) (h' : t.Canonical) :
    (if c then s else t).Canonical := by
  split <;> assumption

theorem State.canonicalSnd_ite {α : Type} {c : Prop} [Decidable c] {s t : α × State} (h : State.CanonicalSnd s)
    (h' : State.CanonicalSnd t) : State.CanonicalSnd (if c then s else t) := by
  split <;> assumption

theorem State.canonical_foldl {β : Type} {f : State → β → State} {l : List β} {s : State} (h : s.Canonical)
    (hf : ∀ t b, t.Canonical → (f t b).Canonical) : (l.foldl f s).Canonical := by
  induction l generalizing s with
  | nil => exact h
  | cons b l ih => exact ih (hf s b h)

theorem State.canonicalSnd_foldl {α β : Type} {f : α × State → β → α × State} {l : List β} {s : α × State}
    (h : State.CanonicalSnd s) (hf : ∀ t b, State.CanonicalSnd t → State.CanonicalSnd (f t b)) :
    State.CanonicalSnd (l.foldl f s) := by
  induction l generalizing s with
  | nil => exact h
  | cons b l ih => exact ih (hf s b h)

/-! ### What touches memory and the register file directly -/

theorem State.canonical_reset : State.reset.Canonical := ⟨rfl, rfl⟩

theorem State.canonical_rput {s : State} {a : Nat} {w : Word} (h : s.Canonical) : (s.rput a w).Canonical :=
  ⟨h.1, smWf_smPut a w h.2⟩

theorem State.canonical_resetRange {s : State} {a b : Nat} (h : s.Canonical) : (s.resetRange a b).Canonical :=
  ⟨h.1, smWf_smClear (fun x => a ≤ x && x < b) h.2⟩

theorem State.canonical_setBytes {s : State} {a : Nat} {b : List Byte} (h : s.Canonical) : (s.setBytes a b).Canonical :=
  ⟨memWrite_wf b s.mem a h.1, h.2⟩

theorem State.canonical_zeroBytes {s : State} {a b : Nat} (h : s.Canonical) : (s.zeroBytes a b).Canonical :=
  ⟨smClear_mem_wf (fun x => a ≤ x && x < b) h.1, h.2⟩

/-- Memory with some bytes back at what an unlisted byte reads as. -/
theorem State.canonical_memClear {s : State} {p : Nat → Bool} (h : s.Canonical) :
    Memory.wf (smClear p s.mem) = true ∧ smWf resetAt s.regs = true := ⟨smClear_mem_wf _ h.1, h.2⟩

/-! ### The operations, in the order in which they are defined -/

theorem State.canonical_fset {s : State} {f : Fld} {v : Nat} {i : Nat} {j : Nat} (hs : s.Canonical) :
    (State.fset s f v i j).Canonical := by
  rw [show @State.fset = _ from by delta State.fset; exact rfl]
  repeat' first
    | with_reducible assumption | with_reducible apply State.canonical_rput | dsimp only

theorem State.canonical_wset {s : State} {r : Reg} {v : Nat} {i : Nat} {j : Nat} (hs : s.Canonical) :
    (State.wset s r v i j).Canonical := by
  rw [show @State.wset = _ from by delta State.wset; exact rfl]
  repeat' first
    | with_reducible assumption | with_reducible apply State.canonical_rput | dsimp only

theorem State.canonical_bump {s : State} {f : Fld} {n : Nat} {i : Nat} {j : Nat} (hs : s.Canonical) :
    (State.bump s f n i j).Canonical := by
  rw [show @State.bump = _ from by delta State.bump; exact rfl]
  repeat' first
    | with_reducible assumption | with_reducible apply State.canonical_fset | dsimp only

theorem State.canonical_bumpWrap {s : State} {f : Fld} {n : Nat} {i : Nat} {j : Nat} (hs : s.Canonical) :
    (State.bumpWrap s f n i j).Canonical := by
  rw [show @State.bumpWrap = _ from by delta State.bumpWrap; exact rfl]
  repeat' first
    | with_reducible assumption | with_reducible apply State.canonical_fset | dsimp only

theorem State.canonical_pairSet {s : State} {lo hi : Fld} {v : Nat} {i : Nat} {j : Nat} (hs : s.Canonical) :
    (State.pairSet s lo hi v i j).Canonical := by
  rw [show @State.pairSet = _ from by delta State.pairSet; exact rfl]
  repeat' first
    | with_reducible assumption | with_reducible apply State.canonical_fset | dsimp only

theorem State.canonical_bump64 {s : State} {lo hi : Fld} {n : Nat} {i : Nat} {j : Nat} (hs : s.Canonical) :
    (State.bump64 s lo hi n i j).Canonical := by
  rw [show @State.bump64 = _ from by delta State.bump64; exact rfl]
  repeat' first
    | with_reducible assumption | with_reducible apply State.canonical_pairSet | dsimp only

theorem State.canonical_setSel {s : State} {r : Requester} {a : Nat} {w : Word} (hs : s.Canonical) :
    (State.setSel s r a w).Canonical := by
  rw [show @State.setSel = _ from by delta State.setSel; exact rfl]
  repeat' first
    | with_reducible assumption | split | dsimp only | with_reducible refine State.canonical_mk ?_

theorem State.canonical_draw {s : State} {bound : Nat} (hs : s.Canonical) :
    State.CanonicalSnd (State.draw s bound) := by
  rw [show @State.draw = _ from by delta State.draw; exact rfl]
  repeat' first
    | with_reducible assumption | dsimp only | with_reducible apply State.canonicalSnd_mk
    | with_reducible refine State.canonical_mk ?_

theorem State.canonical_drawBytes {s : State} {y0 : Nat} (hs : s.Canonical) :
    State.CanonicalSnd (State.drawBytes s y0) := by
  induction y0 generalizing s hs with
  | zero =>
    unfold State.drawBytes
    repeat' first
      | with_reducible assumption | with_reducible apply State.canonical_draw
      | with_reducible (refine State.canonical_of_pair (by assumption) ?_) | split | dsimp only
      | with_reducible apply State.canonicalSnd_mk
  | succ k ih =>
    unfold State.drawBytes
    repeat' first
      | with_reducible assumption | (apply ih <;> with_reducible assumption) | with_reducible apply ih
      | with_reducible apply State.canonical_draw | with_reducible (refine State.canonical_of_pair (by assumption) ?_) | split
      | dsimp only | with_reducible apply State.canonicalSnd_mk

theorem State.canonical_emit {s : State} {e : OutEvent} (hs : s.Canonical) :
    (State.emit s e).Canonical := by
  rw [show @State.emit = _ from by delta State.emit; exact rfl]
  repeat' first
    | with_reducible assumption | dsimp only | with_reducible refine State.canonical_mk ?_

theorem State.canonical_setStrand {s : State} {c t : Nat} {x : Strand} (hs : s.Canonical) :
    (State.setStrand s c t x).Canonical := by
  rw [show @State.setStrand = _ from by delta State.setStrand; exact rfl]
  repeat' first
    | with_reducible assumption | split | dsimp only | with_reducible refine State.canonical_mk ?_

theorem State.canonical_setQueue {s : State} {q : Nat} {x : Queue} (hs : s.Canonical) :
    (State.setQueue s q x).Canonical := by
  rw [show @State.setQueue = _ from by delta State.setQueue; exact rfl]
  repeat' first
    | with_reducible assumption | split | dsimp only | with_reducible refine State.canonical_mk ?_

theorem State.canonical_modItem {s : State} {k : ItemKey} {f : Item → Item} (hs : s.Canonical) :
    (State.modItem s k f).Canonical := by
  rw [show @State.modItem = _ from by delta State.modItem; exact rfl]
  repeat' first
    | with_reducible assumption | split | dsimp only | with_reducible refine State.canonical_mk ?_

theorem State.canonical_dropItem {s : State} {k : ItemKey} (hs : s.Canonical) :
    (State.dropItem s k).Canonical := by
  rw [show @State.dropItem = _ from by delta State.dropItem; exact rfl]
  repeat' first
    | with_reducible assumption | split | dsimp only | with_reducible refine State.canonical_mk ?_

theorem State.canonical_countLine {s : State} {pa : Nat} {wr : Bool} (hs : s.Canonical) :
    (State.countLine s pa wr).Canonical := by
  rw [show @State.countLine = _ from by delta State.countLine; exact rfl]
  repeat' first
    | with_reducible assumption | with_reducible apply State.canonical_bump64 | with_reducible apply State.canonical_ite
    | with_reducible apply State.canonicalSnd_ite | with_reducible (refine State.canonical_of_pair (by assumption) ?_)
    | with_reducible apply State.canonical_snd | split | dsimp only | with_reducible refine State.canonical_mk ?_

theorem State.canonical_setPoison {s : State} {a : Nat} {on : Bool} (hs : s.Canonical) :
    (State.setPoison s a on).Canonical := by
  rw [show @State.setPoison = _ from by delta State.setPoison; exact rfl]
  repeat' first
    | with_reducible assumption | with_reducible apply State.canonical_fset | with_reducible apply State.canonical_bump
    | with_reducible apply State.canonical_ite | with_reducible apply State.canonicalSnd_ite
    | with_reducible (refine State.canonical_of_pair (by assumption) ?_) | with_reducible apply State.canonical_snd | split
    | dsimp only | with_reducible refine State.canonical_mk ?_

theorem State.canonical_rewriteCells {s : State} {lo hi : Nat} (hs : s.Canonical) :
    (State.rewriteCells s lo hi).Canonical := by
  rw [show @State.rewriteCells = _ from by delta State.rewriteCells; exact rfl]
  repeat' first
    | with_reducible assumption | (intro _) | with_reducible (refine State.canonical_of_pair (by assumption) ?_)
    | with_reducible apply State.canonical_snd | split | dsimp only | with_reducible refine State.canonical_mk ?_

theorem State.canonical_noteCell {s : State} {unit kind : Nat} (hs : s.Canonical) :
    (State.noteCell s unit kind).Canonical := by
  rw [show @State.noteCell = _ from by delta State.noteCell; exact rfl]
  repeat' first
    | with_reducible assumption | with_reducible (refine State.canonical_of_pair (by assumption) ?_)
    | with_reducible apply State.canonical_snd | dsimp only | with_reducible refine State.canonical_mk ?_

theorem State.canonical_errorAt {s : State} {st p raw kind : Nat} (hs : s.Canonical) :
    (State.errorAt s st p raw kind).Canonical := by
  rw [show @State.errorAt = _ from by delta State.errorAt; exact rfl]
  repeat' first
    | with_reducible assumption | with_reducible apply State.canonical_fset | dsimp only

theorem State.canonical_meetCells {s : State} {pa n : Nat} {ev : CellEvent} (hs : s.Canonical) :
    State.CanonicalSnd (State.meetCells s pa n ev) := by
  rw [show @State.meetCells = _ from by delta State.meetCells; exact rfl]
  repeat' first
    | with_reducible assumption | with_reducible exact State.canonical_of_mk (by assumption) | (intro _)
    | with_reducible apply State.canonical_bump | with_reducible apply State.canonical_setPoison
    | with_reducible apply State.canonical_rewriteCells | with_reducible apply State.canonical_noteCell
    | with_reducible apply State.canonical_errorAt | with_reducible apply State.canonical_ite
    | with_reducible apply State.canonicalSnd_ite | with_reducible apply State.canonical_foldl
    | with_reducible apply State.canonicalSnd_foldl | with_reducible (refine State.canonical_of_pair (by assumption) ?_)
    | with_reducible apply State.canonical_snd | split | dsimp only | with_reducible apply State.canonicalSnd_mk
    | with_reducible refine State.canonical_mk ?_

theorem State.canonical_readLine {s : State} {pa n : Nat} {ev : CellEvent} (hs : s.Canonical) :
    State.CanonicalSnd (State.readLine s pa n ev) := by
  rw [show @State.readLine = _ from by delta State.readLine; exact rfl]
  repeat' first
    | with_reducible assumption | with_reducible apply State.canonical_countLine
    | with_reducible apply State.canonical_meetCells | with_reducible apply State.canonical_ite
    | with_reducible apply State.canonicalSnd_ite | with_reducible (refine State.canonical_of_pair (by assumption) ?_)
    | with_reducible apply State.canonical_snd | split | dsimp only | with_reducible apply State.canonicalSnd_mk
    | with_reducible refine State.canonical_mk ?_

theorem State.canonical_readEntry {s : State} {n ea level : Nat} (hs : s.Canonical) :
    State.CanonicalSnd (State.readEntry s n ea level) := by
  rw [show @State.readEntry = _ from by delta State.readEntry; exact rfl]
  repeat' first
    | with_reducible assumption | with_reducible apply State.canonical_readLine
    | with_reducible (refine State.canonical_of_pair (by assumption) ?_) | with_reducible apply State.canonical_snd | split
    | dsimp only | with_reducible apply State.canonicalSnd_mk | with_reducible refine State.canonical_mk ?_

theorem State.canonical_keepUpper {s : State} {e : UpperEntry} (hs : s.Canonical) :
    (State.keepUpper s e).Canonical := by
  rw [show @State.keepUpper = _ from by delta State.keepUpper; exact rfl]
  repeat' first
    | with_reducible assumption | (intro _) | with_reducible apply State.canonical_draw
    | with_reducible apply State.canonical_ite | with_reducible apply State.canonicalSnd_ite
    | with_reducible (refine State.canonical_of_pair (by assumption) ?_) | with_reducible apply State.canonical_snd | split
    | dsimp only | with_reducible apply State.canonicalSnd_mk | with_reducible refine State.canonical_mk ?_

theorem canonical_walk {s : State} {g n va : Nat} {t : Nat} {y0 : List (Nat × Nat × Nat × Nat)} (hs : s.Canonical) :
    State.CanonicalSnd (walk s g n va t y0) := by
  induction y0 generalizing s g n va t hs with
  | nil =>
    unfold walk
    repeat' first
      | with_reducible assumption | with_reducible apply State.canonical_readEntry
      | with_reducible apply State.canonical_keepUpper | with_reducible apply State.canonical_ite
      | with_reducible apply State.canonicalSnd_ite | with_reducible (refine State.canonical_of_pair (by assumption) ?_)
      | with_reducible apply State.canonical_snd | split | dsimp only | with_reducible apply State.canonicalSnd_mk
      | with_reducible refine State.canonical_mk ?_
  | cons b l ih =>
    rcases b with ⟨b1, b2⟩
    unfold walk
    repeat' first
      | with_reducible assumption | (apply ih <;> with_reducible assumption) | with_reducible apply ih
      | with_reducible apply State.canonical_readEntry | with_reducible apply State.canonical_keepUpper
      | with_reducible apply State.canonical_ite | with_reducible apply State.canonicalSnd_ite
      | with_reducible (refine State.canonical_of_pair (by assumption) ?_) | with_reducible apply State.canonical_snd | split
      | dsimp only | with_reducible apply State.canonicalSnd_mk | with_reducible refine State.canonical_mk ?_

theorem State.canonical_walkFrom {s : State} {inst g n va : Nat} (hs : s.Canonical) :
    State.CanonicalSnd (State.walkFrom s inst g n va) := by
  rw [show @State.walkFrom = _ from by delta State.walkFrom; exact rfl]
  repeat' first
    | with_reducible assumption | (intro _) | with_reducible apply canonical_walk | with_reducible apply State.canonical_ite
    | with_reducible apply State.canonicalSnd_ite | with_reducible (refine State.canonical_of_pair (by assumption) ?_)
    | with_reducible apply State.canonical_snd | split | dsimp only | with_reducible apply State.canonicalSnd_mk
    | with_reducible refine State.canonical_mk ?_

theorem State.canonical_recordFault {s : State} {r : MReq} {n va : Nat} {wr : Bool} {f : MFault} (hs : s.Canonical) :
    (State.recordFault s r n va wr f).Canonical := by
  rw [show @State.recordFault = _ from by delta State.recordFault; exact rfl]
  repeat' first
    | with_reducible assumption | with_reducible apply State.canonical_wset | with_reducible apply State.canonical_bump
    | dsimp only

theorem State.canonical_lookup {s : State} {r : MReq} {n va : Nat} (hs : s.Canonical) :
    State.CanonicalSnd (State.lookup s r n va) := by
  rw [show @State.lookup = _ from by delta State.lookup; exact rfl]
  repeat' first
    | with_reducible assumption | (intro _) | with_reducible apply State.canonical_bump64
    | with_reducible apply State.canonical_draw | with_reducible apply State.canonical_walkFrom
    | with_reducible apply State.canonical_ite | with_reducible apply State.canonicalSnd_ite
    | with_reducible (refine State.canonical_of_pair (by assumption) ?_) | with_reducible apply State.canonical_snd | split
    | dsimp only | with_reducible apply State.canonicalSnd_mk | with_reducible refine State.canonical_mk ?_

theorem State.canonical_reachPa {s : State} {n pa : Nat} {wr priv : Bool} (hs : s.Canonical) :
    State.CanonicalSnd (State.reachPa s n pa wr priv) := by
  rw [show @State.reachPa = _ from by delta State.reachPa; exact rfl]
  repeat' first
    | with_reducible assumption | split | dsimp only | with_reducible apply State.canonicalSnd_mk
    | with_reducible refine State.canonical_mk ?_

theorem State.canonical_resolve {s : State} {r : MReq} {n va : Nat} {wr priv : Bool} (hs : s.Canonical) :
    State.CanonicalSnd (State.resolve s r n va wr priv) := by
  rw [show @State.resolve = _ from by delta State.resolve; exact rfl]
  repeat' first
    | with_reducible assumption | with_reducible apply State.canonical_lookup | with_reducible apply State.canonical_reachPa
    | with_reducible apply State.canonical_ite | with_reducible apply State.canonicalSnd_ite
    | with_reducible (refine State.canonical_of_pair (by assumption) ?_) | with_reducible apply State.canonical_snd | split
    | dsimp only | with_reducible apply State.canonicalSnd_mk | with_reducible refine State.canonical_mk ?_

theorem State.canonical_translate {s : State} {r : MReq} {n va : Nat} {wr priv : Bool} (hs : s.Canonical) :
    State.CanonicalSnd (State.translate s r n va wr priv) := by
  rw [show @State.translate = _ from by delta State.translate; exact rfl]
  repeat' first
    | with_reducible assumption | with_reducible apply State.canonical_recordFault
    | with_reducible apply State.canonical_resolve | with_reducible (refine State.canonical_of_pair (by assumption) ?_) | split
    | dsimp only | with_reducible apply State.canonicalSnd_mk | with_reducible refine State.canonical_mk ?_

theorem State.canonical_readFirst {s : State} {ev : CellEvent} {y0 : List Nat} (hs : s.Canonical) :
    State.CanonicalSnd (State.readFirst s ev y0) := by
  induction y0 generalizing s ev hs with
  | nil =>
    unfold State.readFirst
    repeat' first
      | with_reducible assumption | with_reducible apply State.canonical_readLine
      | with_reducible (refine State.canonical_of_pair (by assumption) ?_) | with_reducible apply State.canonical_snd | split
      | dsimp only | with_reducible apply State.canonicalSnd_mk | with_reducible refine State.canonical_mk ?_
  | cons b l ih =>
    unfold State.readFirst
    repeat' first
      | with_reducible assumption | (apply ih <;> with_reducible assumption) | with_reducible apply ih
      | with_reducible apply State.canonical_readLine | with_reducible (refine State.canonical_of_pair (by assumption) ?_)
      | with_reducible apply State.canonical_snd | split | dsimp only | with_reducible apply State.canonicalSnd_mk
      | with_reducible refine State.canonical_mk ?_

theorem State.canonical_putLine {s : State} {pa : Nat} {bs : List Byte} (hs : s.Canonical) :
    (State.putLine s pa bs).Canonical := by
  rw [show @State.putLine = _ from by delta State.putLine; exact rfl]
  repeat' first
    | with_reducible assumption | with_reducible exact State.canonical_of_mk (by assumption) | (intro _)
    | with_reducible apply State.canonical_setBytes | with_reducible apply State.canonical_countLine
    | with_reducible apply State.canonical_setPoison | with_reducible apply State.canonical_rewriteCells
    | with_reducible apply State.canonical_foldl | with_reducible apply State.canonicalSnd_foldl
    | with_reducible (refine State.canonical_of_pair (by assumption) ?_) | with_reducible apply State.canonical_snd | split
    | dsimp only | with_reducible apply State.canonicalSnd_mk

theorem State.canonical_writeLine {s : State} {pa : Nat} {bs : List Byte} {ev : CellEvent} (hs : s.Canonical) :
    State.CanonicalSnd (State.writeLine s pa bs ev) := by
  rw [show @State.writeLine = _ from by delta State.writeLine; exact rfl]
  repeat' first
    | with_reducible assumption | with_reducible apply State.canonical_readFirst | with_reducible apply State.canonical_putLine
    | with_reducible (refine State.canonical_of_pair (by assumption) ?_) | with_reducible apply State.canonical_snd | split
    | dsimp only | with_reducible apply State.canonicalSnd_mk | with_reducible refine State.canonical_mk ?_

theorem State.canonical_remoteLine {s : State} {w : Wanted} (hs : s.Canonical) :
    State.CanonicalSnd (State.remoteLine s w) := by
  rw [show @State.remoteLine = _ from by delta State.remoteLine; exact rfl]
  repeat' first
    | with_reducible assumption | (intro _) | with_reducible apply State.canonical_drawBytes
    | with_reducible (refine State.canonical_of_pair (by assumption) ?_) | with_reducible apply State.canonical_snd | split
    | dsimp only | with_reducible apply State.canonicalSnd_mk | with_reducible refine State.canonical_mk ?_

theorem State.canonical_readPieces {s : State} {r : MReq} {n : Nat} {priv : Bool} {y0 : List (Nat × Nat)} (hs : s.Canonical) :
    State.CanonicalSnd (State.readPieces s r n priv y0) := by
  induction y0 generalizing s r n priv hs with
  | nil =>
    unfold State.readPieces
    repeat' first
      | with_reducible assumption | with_reducible apply State.canonical_readLine
      | with_reducible apply State.canonical_recordFault | with_reducible apply State.canonical_translate
      | with_reducible apply State.canonical_remoteLine | with_reducible (refine State.canonical_of_pair (by assumption) ?_)
      | with_reducible apply State.canonical_snd | split | dsimp only | with_reducible apply State.canonicalSnd_mk
      | with_reducible refine State.canonical_mk ?_
  | cons b l ih =>
    rcases b with ⟨b1, b2⟩
    unfold State.readPieces
    repeat' first
      | with_reducible assumption | (apply ih <;> with_reducible assumption) | with_reducible apply ih
      | with_reducible apply State.canonical_readLine | with_reducible apply State.canonical_recordFault
      | with_reducible apply State.canonical_translate | with_reducible apply State.canonical_remoteLine
      | with_reducible (refine State.canonical_of_pair (by assumption) ?_) | with_reducible apply State.canonical_snd | split
      | dsimp only | with_reducible apply State.canonicalSnd_mk | with_reducible refine State.canonical_mk ?_

theorem State.canonical_readVa {s : State} {r : MReq} {n va len : Nat} (hs : s.Canonical) :
    State.CanonicalSnd (State.readVa s r n va len) := by
  rw [show @State.readVa = _ from by delta State.readVa; exact rfl]
  repeat' first
    | with_reducible assumption | with_reducible apply State.canonical_readPieces | dsimp only

theorem State.canonical_setLane {s : State} {l : Nat} {x : Lane} (hs : s.Canonical) :
    (State.setLane s l x).Canonical := by
  rw [show @State.setLane = _ from by delta State.setLane; exact rfl]
  repeat' first
    | with_reducible assumption | split | dsimp only | with_reducible refine State.canonical_mk ?_

theorem State.canonical_putOn {s : State} {port : Nat} {p : Packet} (hs : s.Canonical) :
    (State.putOn s port p).Canonical := by
  rw [show @State.putOn = _ from by delta State.putOn; exact rfl]
  repeat' first
    | with_reducible assumption | with_reducible apply State.canonical_bump64 | with_reducible apply State.canonical_emit
    | with_reducible apply State.canonical_setLane | split | dsimp only | with_reducible refine State.canonical_mk ?_

theorem State.canonical_sendLink {s : State} {port : Nat} {subtype : Nat} {payload : List Byte} (hs : s.Canonical) :
    (State.sendLink s port subtype payload).Canonical := by
  rw [show @State.sendLink = _ from by delta State.sendLink; exact rfl]
  repeat' first
    | with_reducible assumption | with_reducible apply State.canonical_bump64 | with_reducible apply State.canonical_emit
    | dsimp only | with_reducible refine State.canonical_mk ?_

theorem State.canonical_send {s : State} {p : Packet} (hs : s.Canonical) :
    State.CanonicalSnd (State.send s p) := by
  rw [show @State.send = _ from by delta State.send; exact rfl]
  repeat' first
    | with_reducible assumption | with_reducible apply State.canonical_putOn | split | dsimp only
    | with_reducible apply State.canonicalSnd_mk | with_reducible refine State.canonical_mk ?_

theorem State.canonical_setSource {s : State} {x : SourceStream} (hs : s.Canonical) :
    (State.setSource s x).Canonical := by
  rw [show @State.setSource = _ from by delta State.setSource; exact rfl]
  repeat' first
    | with_reducible assumption | split | dsimp only | with_reducible refine State.canonical_mk ?_

theorem State.canonical_request {s : State} {type : Nat} {owner : Owner} {req n dst addr len : Nat} {payload : List Byte} {arg : Nat} {queue : Nat} {va : Option Nat} {expires : Option Nat} (hs : s.Canonical) :
    State.CanonicalSnd (State.request s type owner req n dst addr len payload arg queue va expires) := by
  rw [show @State.request = _ from by delta State.request; exact rfl]
  repeat' first
    | with_reducible assumption | with_reducible apply State.canonical_send | with_reducible apply State.canonical_setSource
    | with_reducible apply State.canonical_ite | with_reducible apply State.canonicalSnd_ite
    | with_reducible (refine State.canonical_of_pair (by assumption) ?_) | with_reducible apply State.canonical_snd | split
    | dsimp only | with_reducible apply State.canonicalSnd_mk | with_reducible refine State.canonical_mk ?_

theorem State.canonical_writePieces {s : State} {r : MReq} {n : Nat} {owner : Owner} {queue : Nat} {priv : Bool} {y0 : List (Nat × Nat)} {y1 : List Byte} (hs : s.Canonical) :
    State.CanonicalSnd (State.writePieces s r n owner queue priv y0 y1) := by
  induction y0 generalizing s r n owner queue priv y1 hs with
  | nil =>
    unfold State.writePieces
    repeat' first
      | with_reducible assumption | with_reducible apply State.canonical_recordFault
      | with_reducible apply State.canonical_translate | with_reducible apply State.canonical_writeLine
      | with_reducible apply State.canonical_request | with_reducible (refine State.canonical_of_pair (by assumption) ?_)
      | with_reducible apply State.canonical_snd | split | dsimp only | with_reducible apply State.canonicalSnd_mk
      | with_reducible refine State.canonical_mk ?_
  | cons b l ih =>
    rcases b with ⟨b1, b2⟩
    unfold State.writePieces
    repeat' first
      | with_reducible assumption | (apply ih <;> with_reducible assumption) | with_reducible apply ih
      | with_reducible apply State.canonical_recordFault | with_reducible apply State.canonical_translate
      | with_reducible apply State.canonical_writeLine | with_reducible apply State.canonical_request
      | with_reducible (refine State.canonical_of_pair (by assumption) ?_) | with_reducible apply State.canonical_snd | split
      | dsimp only | with_reducible apply State.canonicalSnd_mk | with_reducible refine State.canonical_mk ?_

theorem State.canonical_writeVa {s : State} {r : MReq} {n : Nat} {owner : Owner} {queue va : Nat} {bs : List Byte} (hs : s.Canonical) :
    State.CanonicalSnd (State.writeVa s r n owner queue va bs) := by
  rw [show @State.writeVa = _ from by delta State.writeVa; exact rfl]
  repeat' first
    | with_reducible assumption | with_reducible apply State.canonical_writePieces | dsimp only

theorem State.canonical_askFor {s : State} {o : Owner} {queue : Nat} {y0 : List Wanted} (hs : s.Canonical) :
    State.CanonicalSnd (State.askFor s o queue y0) := by
  induction y0 generalizing s o queue hs with
  | nil =>
    unfold State.askFor
    repeat' first
      | with_reducible assumption | with_reducible apply State.canonical_request
      | with_reducible (refine State.canonical_of_pair (by assumption) ?_) | with_reducible apply State.canonical_snd | split
      | dsimp only | with_reducible apply State.canonicalSnd_mk | with_reducible refine State.canonical_mk ?_
  | cons b l ih =>
    unfold State.askFor
    repeat' first
      | with_reducible assumption | (apply ih <;> with_reducible assumption) | with_reducible apply ih
      | with_reducible apply State.canonical_request | with_reducible (refine State.canonical_of_pair (by assumption) ?_)
      | with_reducible apply State.canonical_snd | split | dsimp only | with_reducible apply State.canonicalSnd_mk
      | with_reducible refine State.canonical_mk ?_

theorem State.canonical_remotely {s : State} {o : Owner} {queue : Nat} {fail : MFault → State → State} {run : State → State} (hs : s.Canonical) (hfail : ∀ x0 x1, x1.Canonical → (fail x0 x1).Canonical) (hrun : ∀ x0, x0.Canonical → (run x0).Canonical) :
    (State.remotely s o queue fail run).Canonical := by
  rw [show @State.remotely = _ from by delta State.remotely; exact rfl]
  repeat' first
    | with_reducible assumption | (intro _) | with_reducible apply hfail | with_reducible apply hrun
    | with_reducible apply State.canonical_recordFault | with_reducible apply State.canonical_askFor
    | with_reducible apply State.canonical_ite | with_reducible apply State.canonicalSnd_ite
    | with_reducible (refine State.canonical_of_pair (by assumption) ?_) | with_reducible apply State.canonical_snd | split
    | dsimp only | with_reducible apply State.canonicalSnd_mk | with_reducible refine State.canonical_mk ?_

theorem State.canonical_unlessRemote {s : State} {o : Owner} {run : State → State} (hs : s.Canonical) (hrun : ∀ x0, x0.Canonical → (run x0).Canonical) :
    (State.unlessRemote s o run).Canonical := by
  rw [show @State.unlessRemote = _ from by delta State.unlessRemote; exact rfl]
  repeat' first
    | with_reducible assumption | (intro _) | with_reducible apply hrun | with_reducible apply State.canonical_ite
    | with_reducible apply State.canonicalSnd_ite | with_reducible (refine State.canonical_of_pair (by assumption) ?_)
    | with_reducible apply State.canonical_snd | split | dsimp only | with_reducible refine State.canonical_mk ?_

theorem State.canonical_forget {s : State} {o : Owner} (hs : s.Canonical) :
    (State.forget s o).Canonical := by
  rw [show @State.forget = _ from by delta State.forget; exact rfl]
  repeat' first
    | with_reducible assumption | (intro _) | with_reducible (refine State.canonical_of_pair (by assumption) ?_)
    | with_reducible apply State.canonical_snd | split | dsimp only | with_reducible refine State.canonical_mk ?_

theorem State.canonical_keepFetched {s : State} {x : Outstanding} {data : List Byte} (hs : s.Canonical) :
    (State.keepFetched s x data).Canonical := by
  rw [show @State.keepFetched = _ from by delta State.keepFetched; exact rfl]
  repeat' first
    | with_reducible assumption | with_reducible (refine State.canonical_of_pair (by assumption) ?_)
    | with_reducible apply State.canonical_snd | dsimp only | with_reducible refine State.canonical_mk ?_

theorem State.canonical_setBias {s : State} {n p e v : Nat} (hs : s.Canonical) :
    (State.setBias s n p e v).Canonical := by
  rw [show @State.setBias = _ from by delta State.setBias; exact rfl]
  repeat' first
    | with_reducible assumption | split | dsimp only | with_reducible refine State.canonical_mk ?_

theorem State.canonical_setLoop {s : State} {n p : Nat} {L : BiasLoop} (hs : s.Canonical) :
    (State.setLoop s n p L).Canonical := by
  rw [show @State.setLoop = _ from by delta State.setLoop; exact rfl]
  repeat' first
    | with_reducible assumption | (intro _) | with_reducible (refine State.canonical_of_pair (by assumption) ?_)
    | with_reducible apply State.canonical_snd | split | dsimp only | with_reducible refine State.canonical_mk ?_

theorem State.canonical_moveBiases {s : State} {n p : Nat} {c : List Nat} (hs : s.Canonical) :
    (State.moveBiases s n p c).Canonical := by
  rw [show @State.moveBiases = _ from by delta State.moveBiases; exact rfl]
  repeat' first
    | with_reducible assumption | with_reducible exact State.canonical_of_mk (by assumption) | (intro _)
    | with_reducible apply State.canonical_setBias | with_reducible apply State.canonical_foldl
    | with_reducible apply State.canonicalSnd_foldl | with_reducible (refine State.canonical_of_pair (by assumption) ?_)
    | with_reducible apply State.canonical_snd | split | dsimp only

theorem State.canonical_closeWindow {s : State} {n p : Nat} (hs : s.Canonical) :
    (State.closeWindow s n p).Canonical := by
  rw [show @State.closeWindow = _ from by delta State.closeWindow; exact rfl]
  repeat' first
    | with_reducible assumption | (intro _) | with_reducible apply State.canonical_setLoop
    | with_reducible apply State.canonical_moveBiases | with_reducible apply State.canonical_ite
    | with_reducible apply State.canonicalSnd_ite | with_reducible (refine State.canonical_of_pair (by assumption) ?_)
    | with_reducible apply State.canonical_snd | split | dsimp only | with_reducible refine State.canonical_mk ?_

theorem State.canonical_countBatch {s : State} {b : Batch} (hs : s.Canonical) :
    (State.countBatch s b).Canonical := by
  rw [show @State.countBatch = _ from by delta State.countBatch; exact rfl]
  repeat' first
    | with_reducible assumption | with_reducible exact State.canonical_of_mk (by assumption) | (intro _)
    | with_reducible apply State.canonical_setLoop | with_reducible apply State.canonical_closeWindow
    | with_reducible apply State.canonical_ite | with_reducible apply State.canonicalSnd_ite
    | with_reducible apply State.canonical_foldl | with_reducible apply State.canonicalSnd_foldl
    | with_reducible (refine State.canonical_of_pair (by assumption) ?_) | with_reducible apply State.canonical_snd | split
    | dsimp only | with_reducible refine State.canonical_mk ?_

theorem State.canonical_restartWindows {s : State} {n : Nat} (hs : s.Canonical) :
    (State.restartWindows s n).Canonical := by
  rw [show @State.restartWindows = _ from by delta State.restartWindows; exact rfl]
  repeat' first
    | with_reducible assumption | (intro _) | with_reducible apply State.canonical_ite
    | with_reducible apply State.canonicalSnd_ite | with_reducible (refine State.canonical_of_pair (by assumption) ?_)
    | with_reducible apply State.canonical_snd | split | dsimp only | with_reducible apply State.canonicalSnd_mk
    | with_reducible refine State.canonical_mk ?_

theorem State.canonical_setBatch {s : State} {b : Batch} (hs : s.Canonical) :
    (State.setBatch s b).Canonical := by
  rw [show @State.setBatch = _ from by delta State.setBatch; exact rfl]
  repeat' first
    | with_reducible assumption | split | dsimp only | with_reducible refine State.canonical_mk ?_

theorem State.canonical_closeEpoch {s : State} {g epoch : Nat} {cancelled : Bool} (hs : s.Canonical) :
    (State.closeEpoch s g epoch cancelled).Canonical := by
  rw [show @State.closeEpoch = _ from by delta State.closeEpoch; exact rfl]
  repeat' first
    | with_reducible assumption | split | dsimp only | with_reducible refine State.canonical_mk ?_

theorem State.canonical_endBatch {s : State} {op : Nat} {cancelled : Bool} (hs : s.Canonical) :
    (State.endBatch s op cancelled).Canonical := by
  rw [show @State.endBatch = _ from by delta State.endBatch; exact rfl]
  repeat' first
    | with_reducible assumption | (intro _) | with_reducible apply State.canonical_closeEpoch
    | with_reducible (refine State.canonical_of_pair (by assumption) ?_) | with_reducible apply State.canonical_snd | split
    | dsimp only | with_reducible refine State.canonical_mk ?_

theorem State.canonical_takeEpoch {s : State} {g epoch : Nat} (hs : s.Canonical) :
    (State.takeEpoch s g epoch).Canonical := by
  rw [show @State.takeEpoch = _ from by delta State.takeEpoch; exact rfl]
  repeat' first
    | with_reducible assumption | (intro _) | with_reducible apply State.canonical_fset
    | with_reducible (refine State.canonical_of_pair (by assumption) ?_) | with_reducible apply State.canonical_snd | split
    | dsimp only | with_reducible refine State.canonical_mk ?_

theorem State.canonical_sump {s : State} {g epoch bytes : Nat} (hs : s.Canonical) :
    (State.sump s g epoch bytes).Canonical := by
  rw [show @State.sump = _ from by delta State.sump; exact rfl]
  repeat' first
    | with_reducible assumption | (intro _) | with_reducible apply State.canonical_bump
    | with_reducible apply State.canonical_bump64 | with_reducible apply State.canonical_ite
    | with_reducible apply State.canonicalSnd_ite | with_reducible (refine State.canonical_of_pair (by assumption) ?_)
    | with_reducible apply State.canonical_snd | split | dsimp only

theorem State.canonical_setFifo {s : State} {c : Nat} {f : Fifo} (hs : s.Canonical) :
    (State.setFifo s c f).Canonical := by
  rw [show @State.setFifo = _ from by delta State.setFifo; exact rfl]
  repeat' first
    | with_reducible assumption | with_reducible apply State.canonical_fset | split | dsimp only
    | with_reducible refine State.canonical_mk ?_

theorem State.canonical_trace {s : State} {c strand type : Nat} {data : List Byte} (hs : s.Canonical) :
    (State.trace s c strand type data).Canonical := by
  rw [show @State.trace = _ from by delta State.trace; exact rfl]
  repeat' first
    | with_reducible assumption | with_reducible apply State.canonical_setFifo | with_reducible apply State.canonical_ite
    | split | dsimp only | with_reducible refine State.canonical_mk ?_

theorem State.canonical_trigger {s : State} {n c strand source : Nat} {item : List Byte} (hs : s.Canonical) :
    (State.trigger s n c strand source item).Canonical := by
  rw [show @State.trigger = _ from by delta State.trigger; exact rfl]
  repeat' first
    | with_reducible assumption | with_reducible apply State.canonical_fset | with_reducible apply State.canonical_bump
    | with_reducible apply State.canonical_setFifo | with_reducible apply State.canonical_ite | split | dsimp only
    | with_reducible refine State.canonical_mk ?_

theorem State.canonical_traceBind {s : State} {c t q seq tag : Nat} (hs : s.Canonical) :
    (State.traceBind s c t q seq tag).Canonical := by
  rw [show @State.traceBind = _ from by delta State.traceBind; exact rfl]
  repeat' first
    | with_reducible assumption | with_reducible apply State.canonical_trace | dsimp only

theorem State.canonical_traceEnd {s : State} {c strand q seq code cause : Nat} (hs : s.Canonical) :
    (State.traceEnd s c strand q seq code cause).Canonical := by
  rw [show @State.traceEnd = _ from by delta State.traceEnd; exact rfl]
  repeat' first
    | with_reducible assumption | with_reducible apply State.canonical_trace | with_reducible apply State.canonical_trigger
    | with_reducible apply State.canonical_ite | split | dsimp only | with_reducible refine State.canonical_mk ?_

theorem State.canonical_traceEngine {s : State} {c t engine opcode code : Nat} (hs : s.Canonical) :
    (State.traceEngine s c t engine opcode code).Canonical := by
  rw [show @State.traceEngine = _ from by delta State.traceEngine; exact rfl]
  repeat' first
    | with_reducible assumption | with_reducible apply State.canonical_draw | with_reducible apply State.canonical_trace
    | with_reducible apply State.canonical_snd | split | dsimp only | with_reducible refine State.canonical_mk ?_

theorem State.canonical_account {s : State} {i : Item} {code : Nat} (hs : s.Canonical) :
    (State.account s i code).Canonical := by
  rw [show @State.account = _ from by delta State.account; exact rfl]
  repeat' first
    | with_reducible assumption | with_reducible apply State.canonical_fset | with_reducible apply State.canonical_bump
    | with_reducible apply State.canonical_bump64 | with_reducible apply State.canonical_setQueue
    | with_reducible apply State.canonical_ite | split | dsimp only | with_reducible refine State.canonical_mk ?_

theorem State.canonical_traceItem {s : State} {i : Item} {code cause : Nat} (hs : s.Canonical) :
    (State.traceItem s i code cause).Canonical := by
  rw [show @State.traceItem = _ from by delta State.traceItem; exact rfl]
  repeat' first
    | with_reducible assumption | with_reducible apply State.canonical_traceEnd | split | dsimp only

theorem State.canonical_writeRecord {s : State} {i : Item} {code cause detail : Nat} (hs : s.Canonical) :
    (State.writeRecord s i code cause detail).Canonical := by
  rw [show @State.writeRecord = _ from by delta State.writeRecord; exact rfl]
  repeat' first
    | with_reducible assumption | with_reducible apply State.canonical_fset | with_reducible apply State.canonical_wset
    | with_reducible apply State.canonical_bump64 | with_reducible apply State.canonical_writeVa
    | with_reducible apply State.canonical_account | with_reducible apply State.canonical_traceItem
    | with_reducible apply State.canonical_ite | with_reducible (refine State.canonical_of_pair (by assumption) ?_) | split
    | dsimp only | with_reducible refine State.canonical_mk ?_

theorem State.canonical_releaseUnit {s : State} {i : Item} (hs : s.Canonical) :
    (State.releaseUnit s i).Canonical := by
  rw [show @State.releaseUnit = _ from by delta State.releaseUnit; exact rfl]
  repeat' first
    | with_reducible assumption | with_reducible apply State.canonical_setStrand | with_reducible apply State.canonical_ite
    | split | dsimp only | with_reducible refine State.canonical_mk ?_

theorem State.canonical_mxEnded {s : State} {c t code : Nat} (hs : s.Canonical) :
    (State.mxEnded s c t code).Canonical := by
  rw [show @State.mxEnded = _ from by delta State.mxEnded; exact rfl]
  repeat' first
    | with_reducible assumption | with_reducible apply State.canonical_fset | with_reducible apply State.canonical_bump
    | with_reducible apply State.canonical_ite | split | dsimp only

theorem State.canonical_vxEnded {s : State} {c t code : Nat} (hs : s.Canonical) :
    (State.vxEnded s c t code).Canonical := by
  rw [show @State.vxEnded = _ from by delta State.vxEnded; exact rfl]
  repeat' first
    | with_reducible assumption | with_reducible apply State.canonical_fset | with_reducible apply State.canonical_bump
    | with_reducible apply State.canonical_ite | split | dsimp only

theorem State.canonical_atEnded {s : State} {c t code cause : Nat} (hs : s.Canonical) :
    (State.atEnded s c t code cause).Canonical := by
  rw [show @State.atEnded = _ from by delta State.atEnded; exact rfl]
  repeat' first
    | with_reducible assumption | with_reducible apply State.canonical_fset | with_reducible apply State.canonical_bump
    | with_reducible apply State.canonical_ite | split | dsimp only

theorem State.canonical_rteFault {s : State} {g t code cause : Nat} (hs : s.Canonical) :
    (State.rteFault s g t code cause).Canonical := by
  rw [show @State.rteFault = _ from by delta State.rteFault; exact rfl]
  repeat' first
    | with_reducible assumption | with_reducible apply State.canonical_fset | split | dsimp only

theorem State.canonical_rtEnded {s : State} {g t code cause : Nat} (hs : s.Canonical) :
    (State.rtEnded s g t code cause).Canonical := by
  rw [show @State.rtEnded = _ from by delta State.rtEnded; exact rfl]
  repeat' first
    | with_reducible assumption | with_reducible apply State.canonical_bump | with_reducible apply State.canonical_rteFault
    | with_reducible apply State.canonical_ite | with_reducible apply State.canonicalSnd_ite
    | with_reducible (refine State.canonical_of_pair (by assumption) ?_) | with_reducible apply State.canonical_snd | split
    | dsimp only

theorem State.canonical_opEnded {s : State} {o : EngOp} {code cause : Nat} (hs : s.Canonical) :
    (State.opEnded s o code cause).Canonical := by
  rw [show @State.opEnded = _ from by delta State.opEnded; exact rfl]
  repeat' first
    | with_reducible assumption | (intro _) | with_reducible apply State.canonical_bump
    | with_reducible apply State.canonical_countBatch | with_reducible apply State.canonical_endBatch
    | with_reducible apply State.canonical_mxEnded | with_reducible apply State.canonical_vxEnded
    | with_reducible apply State.canonical_atEnded | with_reducible apply State.canonical_rteFault
    | with_reducible apply State.canonical_rtEnded | with_reducible apply State.canonical_ite
    | with_reducible apply State.canonicalSnd_ite | with_reducible (refine State.canonical_of_pair (by assumption) ?_)
    | with_reducible apply State.canonical_snd | split | dsimp only | with_reducible refine State.canonical_mk ?_

theorem State.canonical_dropEng {s : State} {id : Nat} (hs : s.Canonical) :
    (State.dropEng s id).Canonical := by
  rw [show @State.dropEng = _ from by delta State.dropEng; exact rfl]
  repeat' first
    | with_reducible assumption | (intro _) | with_reducible (refine State.canonical_of_pair (by assumption) ?_)
    | with_reducible apply State.canonical_snd | split | dsimp only | with_reducible refine State.canonical_mk ?_

theorem State.canonical_finish {s : State} {i : Item} (hs : s.Canonical) :
    (State.finish s i).Canonical := by
  rw [show @State.finish = _ from by delta State.finish; exact rfl]
  repeat' first
    | with_reducible assumption | with_reducible apply State.canonical_modItem | with_reducible apply State.canonical_dropItem
    | with_reducible apply State.canonical_traceItem | with_reducible apply State.canonical_writeRecord
    | with_reducible apply State.canonical_releaseUnit | split | dsimp only | with_reducible refine State.canonical_mk ?_

theorem State.canonical_settle {s : State} {k : ItemKey} (hs : s.Canonical) :
    (State.settle s k).Canonical := by
  rw [show @State.settle = _ from by delta State.settle; exact rfl]
  repeat' first
    | with_reducible assumption | with_reducible apply State.canonical_finish | with_reducible apply State.canonical_ite | split
    | dsimp only | with_reducible refine State.canonical_mk ?_

theorem State.canonical_settleAll {s : State} (hs : s.Canonical) :
    (State.settleAll s).Canonical := by
  rw [show @State.settleAll = _ from by delta State.settleAll; exact rfl]
  repeat' first
    | with_reducible assumption | (intro _) | with_reducible apply State.canonical_settle
    | with_reducible apply State.canonical_foldl | dsimp only

theorem State.canonical_stopStrand {s : State} {c t : Nat} (hs : s.Canonical) :
    (State.stopStrand s c t).Canonical := by
  rw [show @State.stopStrand = _ from by delta State.stopStrand; exact rfl]
  repeat' first
    | with_reducible assumption | with_reducible apply State.canonical_setStrand | with_reducible apply State.canonical_ite
    | split | dsimp only | with_reducible refine State.canonical_mk ?_

theorem State.canonical_noteEnd {s : State} {k : ItemKey} {code cause : Nat} (hs : s.Canonical) :
    (State.noteEnd s k code cause).Canonical := by
  rw [show @State.noteEnd = _ from by delta State.noteEnd; exact rfl]
  repeat' first
    | with_reducible assumption | (intro _) | with_reducible apply State.canonical_modItem
    | with_reducible apply State.canonical_stopStrand | with_reducible apply State.canonical_ite
    | with_reducible apply State.canonicalSnd_ite | with_reducible (refine State.canonical_of_pair (by assumption) ?_)
    | with_reducible apply State.canonical_snd | split | dsimp only | with_reducible refine State.canonical_mk ?_

theorem State.canonical_endItem {s : State} {k : ItemKey} {code cause : Nat} (hs : s.Canonical) :
    (State.endItem s k code cause).Canonical := by
  rw [show @State.endItem = _ from by delta State.endItem; exact rfl]
  repeat' first
    | with_reducible assumption | with_reducible apply State.canonical_settle | with_reducible apply State.canonical_noteEnd
    | dsimp only

theorem State.canonical_failStrand {s : State} {c t code cause : Nat} (hs : s.Canonical) :
    (State.failStrand s c t code cause).Canonical := by
  rw [show @State.failStrand = _ from by delta State.failStrand; exact rfl]
  repeat' first
    | with_reducible assumption | with_reducible apply State.canonical_endItem | split | dsimp only
    | with_reducible refine State.canonical_mk ?_

theorem State.canonical_failMem {s : State} {c t : Nat} {f : MFault} (hs : s.Canonical) :
    (State.failMem s c t f).Canonical := by
  rw [show @State.failMem = _ from by delta State.failMem; exact rfl]
  repeat' first
    | with_reducible assumption | with_reducible apply State.canonical_failStrand | dsimp only

theorem State.canonical_abortOne {s : State} {k : ItemKey} {code : Nat} (hs : s.Canonical) :
    (State.abortOne s k code).Canonical := by
  rw [show @State.abortOne = _ from by delta State.abortOne; exact rfl]
  repeat' first
    | with_reducible assumption | with_reducible apply State.canonical_bump | with_reducible apply State.canonical_setStrand
    | with_reducible apply State.canonical_endItem | with_reducible apply State.canonical_ite | split | dsimp only
    | with_reducible refine State.canonical_mk ?_

theorem State.canonical_abortItem {s : State} {k : ItemKey} {code : Nat} (hs : s.Canonical) :
    (State.abortItem s k code).Canonical := by
  rw [show @State.abortItem = _ from by delta State.abortItem; exact rfl]
  repeat' first
    | with_reducible assumption | (intro _) | with_reducible apply State.canonical_settle
    | with_reducible apply State.canonical_noteEnd | with_reducible apply State.canonical_abortOne
    | with_reducible apply State.canonical_ite | with_reducible apply State.canonical_foldl | split | dsimp only
    | with_reducible refine State.canonical_mk ?_

theorem State.canonical_issue {s : State} {c t : Nat} {mine : Word64 → Bool} {act : Word64 → Strand → State → State} (hs : s.Canonical) (hact : ∀ x0 x1 x2, x2.Canonical → (act x0 x1 x2).Canonical) :
    (State.issue s c t mine act).Canonical := by
  rw [show @State.issue = _ from by delta State.issue; exact rfl]
  repeat' first
    | with_reducible assumption | with_reducible apply hact | with_reducible apply State.canonical_ite | split | dsimp only
    | with_reducible refine State.canonical_mk ?_

theorem State.canonical_stall {s : State} {c t : Nat} {wt : Wait} (hs : s.Canonical) :
    (State.stall s c t wt).Canonical := by
  rw [show @State.stall = _ from by delta State.stall; exact rfl]
  repeat' first
    | with_reducible assumption | with_reducible apply State.canonical_setStrand | dsimp only
    | with_reducible refine State.canonical_mk ?_

theorem State.canonical_advance {s : State} {c t : Nat} {x : Strand} (hs : s.Canonical) :
    (State.advance s c t x).Canonical := by
  rw [show @State.advance = _ from by delta State.advance; exact rfl]
  repeat' first
    | with_reducible assumption | with_reducible apply State.canonical_setStrand | dsimp only

theorem State.canonical_needing {s : State} {c t : Nat} {mask : Nat} {k : State} (hs : s.Canonical) (hk : k.Canonical) :
    (State.needing s c t mask k).Canonical := by
  rw [show @State.needing = _ from by delta State.needing; exact rfl]
  repeat' first
    | with_reducible assumption | with_reducible apply State.canonical_stall | with_reducible apply State.canonical_ite | split
    | dsimp only

theorem State.canonical_setSlot {s : State} {id : Nat} {x : Slot} (hs : s.Canonical) :
    (State.setSlot s id x).Canonical := by
  rw [show @State.setSlot = _ from by delta State.setSlot; exact rfl]
  repeat' first
    | with_reducible assumption | split | dsimp only | with_reducible refine State.canonical_mk ?_

theorem State.canonical_cvuStatus {s : State} {g u state result fault cause : Nat} (hs : s.Canonical) :
    (State.cvuStatus s g u state result fault cause).Canonical := by
  rw [show @State.cvuStatus = _ from by delta State.cvuStatus; exact rfl]
  repeat' first
    | with_reducible assumption | with_reducible apply State.canonical_wset | dsimp only

theorem State.canonical_setCvuRun {s : State} {g u : Nat} {x : CvuRun} (hs : s.Canonical) :
    (State.setCvuRun s g u x).Canonical := by
  rw [show @State.setCvuRun = _ from by delta State.setCvuRun; exact rfl]
  repeat' first
    | with_reducible assumption | split | dsimp only | with_reducible refine State.canonical_mk ?_

theorem State.canonical_cvuResult {s : State} {g u v : Nat} (hs : s.Canonical) :
    (State.cvuResult s g u v).Canonical := by
  rw [show @State.cvuResult = _ from by delta State.cvuResult; exact rfl]
  repeat' first
    | with_reducible assumption | with_reducible apply State.canonical_pairSet | dsimp only

theorem State.canonical_cvuMismatch {s : State} {g u k : Nat} (hs : s.Canonical) :
    (State.cvuMismatch s g u k).Canonical := by
  rw [show @State.cvuMismatch = _ from by delta State.cvuMismatch; exact rfl]
  repeat' first
    | with_reducible assumption | with_reducible apply State.canonical_fset | with_reducible apply State.canonical_bump
    | with_reducible apply State.canonical_ite | split | dsimp only

theorem State.canonical_cvuChunks {s : State} {g u n : Nat} {c : CvuCfg} {y0 : Nat} {y1 : Nat} {y2 : Nat} {y3 : Nat} (hs : s.Canonical) :
    State.CanonicalSnd (State.cvuChunks s g u n c y0 y1 y2 y3) := by
  induction y0 generalizing s g u n c y1 y2 y3 hs with
  | zero =>
    unfold State.cvuChunks
    repeat' first
      | with_reducible assumption | with_reducible apply State.canonical_bump64 | with_reducible apply State.canonical_readVa
      | with_reducible apply State.canonical_writeVa | with_reducible apply State.canonical_cvuResult
      | with_reducible apply State.canonical_cvuMismatch | with_reducible apply State.canonical_ite
      | with_reducible apply State.canonicalSnd_ite | with_reducible (refine State.canonical_of_pair (by assumption) ?_) | split
      | dsimp only | with_reducible apply State.canonicalSnd_mk | with_reducible refine State.canonical_mk ?_
  | succ k ih =>
    unfold State.cvuChunks
    repeat' first
      | with_reducible assumption | (apply ih <;> with_reducible assumption) | with_reducible apply ih
      | with_reducible apply State.canonical_bump64 | with_reducible apply State.canonical_readVa
      | with_reducible apply State.canonical_writeVa | with_reducible apply State.canonical_cvuResult
      | with_reducible apply State.canonical_cvuMismatch | with_reducible apply State.canonical_ite
      | with_reducible apply State.canonicalSnd_ite | with_reducible (refine State.canonical_of_pair (by assumption) ?_) | split
      | dsimp only | with_reducible apply State.canonicalSnd_mk | with_reducible refine State.canonical_mk ?_

theorem State.canonical_cvuRun {s : State} {g u n limit : Nat} (hs : s.Canonical) :
    State.CanonicalSnd (State.cvuRun s g u n limit) := by
  rw [show @State.cvuRun = _ from by delta State.cvuRun; exact rfl]
  repeat' first
    | with_reducible assumption | with_reducible apply State.canonical_bump64 | with_reducible apply State.canonical_draw
    | with_reducible apply State.canonical_readVa | with_reducible apply State.canonical_writeVa
    | with_reducible apply State.canonical_cvuResult | with_reducible apply State.canonical_cvuMismatch
    | with_reducible apply State.canonical_cvuChunks | with_reducible apply State.canonicalSnd_ite
    | with_reducible (refine State.canonical_of_pair (by assumption) ?_) | split | dsimp only
    | with_reducible apply State.canonicalSnd_mk | with_reducible refine State.canonical_mk ?_

theorem State.canonical_cvuStop {s : State} {g u result fault : Nat} (hs : s.Canonical) :
    (State.cvuStop s g u result fault).Canonical := by
  rw [show @State.cvuStop = _ from by delta State.cvuStop; exact rfl]
  repeat' first
    | with_reducible assumption | (intro _) | with_reducible apply State.canonical_draw
    | with_reducible apply State.canonical_unlessRemote | with_reducible apply State.canonical_forget
    | with_reducible apply State.canonical_cvuStatus | with_reducible apply State.canonical_cvuRun
    | with_reducible apply State.canonical_ite | with_reducible apply State.canonicalSnd_ite
    | with_reducible (refine State.canonical_of_pair (by assumption) ?_) | with_reducible apply State.canonical_snd | split
    | dsimp only | with_reducible apply State.canonicalSnd_mk | with_reducible refine State.canonical_mk ?_

theorem State.canonical_stopCvus {s : State} {g result fault : Nat} (hs : s.Canonical) :
    (State.stopCvus s g result fault).Canonical := by
  rw [show @State.stopCvus = _ from by delta State.stopCvus; exact rfl]
  repeat' first
    | with_reducible assumption | with_reducible apply State.canonical_cvuStop | dsimp only

theorem State.canonical_noteBoard {s : State} (hs : s.Canonical) :
    (State.noteBoard s).Canonical := by
  rw [show @State.noteBoard = _ from by delta State.noteBoard; exact rfl]
  repeat' first
    | with_reducible assumption | split | dsimp only | with_reducible refine State.canonical_mk ?_

theorem State.canonical_toStage {s : State} {n : Nat} (hs : s.Canonical) :
    (State.toStage s n).Canonical := by
  rw [show @State.toStage = _ from by delta State.toStage; exact rfl]
  repeat' first
    | with_reducible assumption | with_reducible apply State.canonical_fset | with_reducible apply State.canonical_noteBoard
    | dsimp only

theorem State.canonical_sendIbi {s : State} (hs : s.Canonical) :
    (State.sendIbi s).Canonical := by
  rw [show @State.sendIbi = _ from by delta State.sendIbi; exact rfl]
  repeat' first
    | with_reducible assumption | with_reducible apply State.canonical_emit | split | dsimp only
    | with_reducible refine State.canonical_mk ?_

theorem State.canonical_setHistory {s : State} {u : Nat} {h : UnitHistory} (hs : s.Canonical) :
    (State.setHistory s u h).Canonical := by
  rw [show @State.setHistory = _ from by delta State.setHistory; exact rfl]
  repeat' first
    | with_reducible assumption | split | dsimp only | with_reducible refine State.canonical_mk ?_

theorem State.canonical_deviceFails {s : State} {cause : Nat} (hs : s.Canonical) :
    (State.deviceFails s cause).Canonical := by
  rw [show @State.deviceFails = _ from by delta State.deviceFails; exact rfl]
  repeat' first
    | with_reducible assumption | with_reducible apply State.canonical_fset | with_reducible apply State.canonical_noteBoard
    | with_reducible apply State.canonical_ite | split | dsimp only | with_reducible refine State.canonical_mk ?_

theorem State.canonical_refreshDevice {s : State} (hs : s.Canonical) :
    (State.refreshDevice s).Canonical := by
  rw [show @State.refreshDevice = _ from by delta State.refreshDevice; exact rfl]
  repeat' first
    | with_reducible assumption | with_reducible apply State.canonical_fset | with_reducible apply State.canonical_noteBoard
    | with_reducible apply State.canonical_deviceFails | with_reducible apply State.canonical_ite | split | dsimp only

theorem State.canonical_refreshSummary {s : State} (hs : s.Canonical) :
    (State.refreshSummary s).Canonical := by
  rw [show @State.refreshSummary = _ from by delta State.refreshSummary; exact rfl]
  repeat' first
    | with_reducible assumption | with_reducible apply State.canonical_fset | with_reducible apply State.canonical_refreshDevice
    | dsimp only

theorem State.canonical_refreshLive {s : State} (hs : s.Canonical) :
    (State.refreshLive s).Canonical := by
  rw [show @State.refreshLive = _ from by delta State.refreshLive; exact rfl]
  repeat' first
    | with_reducible assumption | (intro _) | with_reducible apply State.canonical_fset
    | with_reducible apply State.canonical_ite | with_reducible apply State.canonical_foldl | split | dsimp only

theorem State.canonical_refreshStack {s : State} {st : Nat} (hs : s.Canonical) :
    (State.refreshStack s st).Canonical := by
  rw [show @State.refreshStack = _ from by delta State.refreshStack; exact rfl]
  repeat' first
    | with_reducible assumption | with_reducible apply State.canonical_fset | with_reducible apply State.canonical_ite | split
    | dsimp only

theorem State.canonical_refreshLane {s : State} {l : Nat} (hs : s.Canonical) :
    (State.refreshLane s l).Canonical := by
  rw [show @State.refreshLane = _ from by delta State.refreshLane; exact rfl]
  repeat' first
    | with_reducible assumption | with_reducible apply State.canonical_fset | with_reducible apply State.canonical_ite | split
    | dsimp only

theorem State.canonical_setDomain {s : State} {d : Nat} {x : PwrDomain} (hs : s.Canonical) :
    (State.setDomain s d x).Canonical := by
  rw [show @State.setDomain = _ from by delta State.setDomain; exact rfl]
  repeat' first
    | with_reducible assumption | dsimp only | with_reducible refine State.canonical_mk ?_

theorem State.canonical_sendVout {s : State} {d : Nat} (hs : s.Canonical) :
    (State.sendVout s d).Canonical := by
  rw [show @State.sendVout = _ from by delta State.sendVout; exact rfl]
  repeat' first
    | with_reducible assumption | with_reducible apply State.canonical_emit | with_reducible apply State.canonical_setDomain
    | with_reducible apply State.canonical_ite | split | dsimp only | with_reducible refine State.canonical_mk ?_

theorem State.canonical_refreshDomain {s : State} {d : Nat} (hs : s.Canonical) :
    (State.refreshDomain s d).Canonical := by
  rw [show @State.refreshDomain = _ from by delta State.refreshDomain; exact rfl]
  repeat' first
    | with_reducible assumption | with_reducible apply State.canonical_fset | with_reducible apply State.canonical_sendVout
    | dsimp only

theorem State.canonical_clearRates {s : State} {g : Nat} (hs : s.Canonical) :
    (State.clearRates s g).Canonical := by
  rw [show @State.clearRates = _ from by delta State.clearRates; exact rfl]
  repeat' first
    | with_reducible assumption | with_reducible exact State.canonical_of_mk (by assumption) | (intro _)
    | with_reducible apply State.canonical_wset | with_reducible apply State.canonical_ite
    | with_reducible apply State.canonicalSnd_ite | with_reducible apply State.canonical_foldl
    | with_reducible apply State.canonicalSnd_foldl | with_reducible (refine State.canonical_of_pair (by assumption) ?_)
    | with_reducible apply State.canonical_snd | split | dsimp only

theorem State.canonical_refreshUnit {s : State} {u : Nat} (hs : s.Canonical) :
    (State.refreshUnit s u).Canonical := by
  rw [show @State.refreshUnit = _ from by delta State.refreshUnit; exact rfl]
  repeat' first
    | with_reducible assumption | with_reducible apply State.canonical_refreshSummary
    | with_reducible apply State.canonical_refreshLive | with_reducible apply State.canonical_refreshStack
    | with_reducible apply State.canonical_refreshLane | with_reducible apply State.canonical_refreshDomain
    | with_reducible apply State.canonical_clearRates | with_reducible apply State.canonical_ite
    | with_reducible apply State.canonicalSnd_ite | with_reducible (refine State.canonical_of_pair (by assumption) ?_)
    | with_reducible apply State.canonical_snd | split | dsimp only | with_reducible refine State.canonical_mk ?_

theorem State.canonical_loseOps {s : State} {l : List EngOp} (hs : s.Canonical) :
    (State.loseOps s l).Canonical := by
  rw [show @State.loseOps = _ from by delta State.loseOps; exact rfl]
  repeat' first
    | with_reducible assumption | with_reducible exact State.canonical_of_mk (by assumption) | (intro _)
    | with_reducible apply State.canonical_opEnded | with_reducible apply State.canonical_dropEng
    | with_reducible apply State.canonical_foldl | with_reducible apply State.canonicalSnd_foldl
    | with_reducible (refine State.canonical_of_pair (by assumption) ?_) | with_reducible apply State.canonical_snd | split
    | dsimp only

theorem State.canonical_loseCore {s : State} {c : Nat} (hs : s.Canonical) :
    (State.loseCore s c).Canonical := by
  rw [show @State.loseCore = _ from by delta State.loseCore; exact rfl]
  repeat' first
    | with_reducible assumption | with_reducible exact State.canonical_of_mk (by assumption) | (intro _)
    | with_reducible apply State.canonical_bump | with_reducible apply State.canonical_setStrand
    | with_reducible apply State.canonical_endItem | with_reducible apply State.canonical_loseOps
    | with_reducible apply State.canonical_ite | with_reducible apply State.canonicalSnd_ite
    | with_reducible apply State.canonical_foldl | with_reducible apply State.canonicalSnd_foldl
    | with_reducible (refine State.canonical_of_pair (by assumption) ?_) | with_reducible apply State.canonical_snd | split
    | dsimp only | with_reducible refine State.canonical_mk ?_

theorem State.canonical_loseGallery {s : State} {g : Nat} (hs : s.Canonical) :
    (State.loseGallery s g).Canonical := by
  rw [show @State.loseGallery = _ from by delta State.loseGallery; exact rfl]
  repeat' first
    | with_reducible assumption | with_reducible exact State.canonical_of_mk (by assumption) | (intro _)
    | with_reducible apply State.canonical_endItem | with_reducible apply State.canonical_stopCvus
    | with_reducible apply State.canonical_loseOps | with_reducible apply State.canonical_loseCore
    | with_reducible apply State.canonical_ite | with_reducible apply State.canonicalSnd_ite
    | with_reducible apply State.canonical_foldl | with_reducible apply State.canonicalSnd_foldl
    | with_reducible (refine State.canonical_of_pair (by assumption) ?_) | with_reducible apply State.canonical_snd | split
    | dsimp only | with_reducible refine State.canonical_mk ?_

theorem State.canonical_loseUnit {s : State} {u : Nat} (hs : s.Canonical) :
    (State.loseUnit s u).Canonical := by
  rw [show @State.loseUnit = _ from by delta State.loseUnit; exact rfl]
  repeat' first
    | with_reducible assumption | with_reducible apply State.canonical_loseCore
    | with_reducible apply State.canonical_loseGallery | with_reducible apply State.canonical_ite | split | dsimp only

theorem State.canonical_setUnit {s : State} {u st : Nat} (hs : s.Canonical) :
    (State.setUnit s u st).Canonical := by
  rw [show @State.setUnit = _ from by delta State.setUnit; exact rfl]
  repeat' first
    | with_reducible assumption | (intro _) | with_reducible apply State.canonical_fset
    | with_reducible apply State.canonical_restartWindows | with_reducible apply State.canonical_setHistory
    | with_reducible apply State.canonical_refreshUnit | with_reducible apply State.canonical_loseUnit
    | with_reducible apply State.canonical_ite | with_reducible apply State.canonicalSnd_ite
    | with_reducible (refine State.canonical_of_pair (by assumption) ?_) | with_reducible apply State.canonical_snd | split
    | dsimp only | with_reducible refine State.canonical_mk ?_

theorem State.canonical_logEvent {s : State} {u kind : Nat} (hs : s.Canonical) :
    (State.logEvent s u kind).Canonical := by
  rw [show @State.logEvent = _ from by delta State.logEvent; exact rfl]
  repeat' first
    | with_reducible assumption | with_reducible apply State.canonical_fset | with_reducible apply State.canonical_bump
    | with_reducible apply State.canonical_setHistory | split | dsimp only | with_reducible refine State.canonical_mk ?_

theorem State.canonical_judge {s : State} {u kind partner : Nat} (hs : s.Canonical) :
    (State.judge s u kind partner).Canonical := by
  rw [show @State.judge = _ from by delta State.judge; exact rfl]
  repeat' first
    | with_reducible assumption | with_reducible apply State.canonical_setUnit | with_reducible apply State.canonical_logEvent
    | with_reducible apply State.canonical_ite | split | dsimp only | with_reducible refine State.canonical_mk ?_

theorem State.canonical_report_go {s : State} {u kind partner : Nat} (hs : s.Canonical) :
    (State.report.go u kind partner s).Canonical := by
  unfold State.report.go
  exact State.canonical_ite hs (State.canonical_judge hs)

theorem State.canonical_report {s : State} {u kind partner : Nat} (hs : s.Canonical) : (s.report u kind partner).Canonical := by
  unfold State.report
  have h : ∀ l, State.Canonical { s with hlm := { s.hlm with reports := l } } := fun _ => hs
  dsimp only
  split
  · exact State.canonical_ite (h _) (State.canonical_report_go (h _))
  · exact State.canonical_report_go (h _)

theorem State.canonical_reportScrub {s : State} (hs : s.Canonical) :
    (State.reportScrub s).Canonical := by
  rw [show @State.reportScrub = _ from by delta State.reportScrub; exact rfl]
  repeat' first
    | with_reducible assumption | with_reducible apply State.canonical_fset | with_reducible apply State.canonical_bump
    | dsimp only

theorem State.canonical_corrected {s : State} {u limit kind : Nat} (hs : s.Canonical) :
    (State.corrected s u limit kind).Canonical := by
  rw [show @State.corrected = _ from by delta State.corrected; exact rfl]
  repeat' first
    | with_reducible assumption | with_reducible apply State.canonical_report | with_reducible apply State.canonical_ite | split
    | dsimp only | with_reducible refine State.canonical_mk ?_

theorem State.canonical_retirePair {s : State} {p : Nat} (hs : s.Canonical) :
    (State.retirePair s p).Canonical := by
  rw [show @State.retirePair = _ from by delta State.retirePair; exact rfl]
  repeat' first
    | with_reducible assumption | with_reducible apply State.canonical_setUnit | with_reducible apply State.canonical_ite
    | with_reducible apply State.canonicalSnd_ite | with_reducible (refine State.canonical_of_pair (by assumption) ?_)
    | with_reducible apply State.canonical_snd | split | dsimp only

theorem State.canonical_takeEvent {s : State} {u kind : Nat} (hs : s.Canonical) :
    (State.takeEvent s u kind).Canonical := by
  rw [show @State.takeEvent = _ from by delta State.takeEvent; exact rfl]
  repeat' first
    | with_reducible assumption | with_reducible apply State.canonical_report | with_reducible apply State.canonical_corrected
    | with_reducible apply State.canonical_retirePair | with_reducible apply State.canonical_ite
    | with_reducible apply State.canonicalSnd_ite | with_reducible (refine State.canonical_of_pair (by assumption) ?_)
    | with_reducible apply State.canonical_snd | split | dsimp only

theorem State.canonical_deliver {s : State} (hs : s.Canonical) :
    (State.deliver s).Canonical := by
  rw [show @State.deliver = _ from by delta State.deliver; exact rfl]
  repeat' first
    | with_reducible assumption | with_reducible exact State.canonical_of_mk (by assumption) | (intro _)
    | with_reducible apply State.canonical_takeEvent | with_reducible apply State.canonical_foldl
    | with_reducible apply State.canonicalSnd_foldl | with_reducible (refine State.canonical_of_pair (by assumption) ?_)
    | with_reducible apply State.canonical_snd | split | dsimp only | with_reducible apply State.canonicalSnd_mk
    | with_reducible refine State.canonical_mk ?_

theorem State.canonical_cellEvent {s : State} {pa : Nat} {ev : CellEvent} (hs : s.Canonical) :
    (State.cellEvent s pa ev).Canonical := by
  rw [show @State.cellEvent = _ from by delta State.cellEvent; exact rfl]
  repeat' first
    | with_reducible assumption | with_reducible apply State.canonical_meetCells | with_reducible apply State.canonical_deliver
    | with_reducible (refine State.canonical_of_pair (by assumption) ?_) | with_reducible apply State.canonical_snd | dsimp only
    | with_reducible apply State.canonicalSnd_mk

theorem State.canonical_qcmdRefuse {s : State} {n result q : Nat} (hs : s.Canonical) :
    (State.qcmdRefuse s n result q).Canonical := by
  rw [show @State.qcmdRefuse = _ from by delta State.qcmdRefuse; exact rfl]
  repeat' first
    | with_reducible assumption | with_reducible apply State.canonical_fset | dsimp only

theorem State.canonical_qcmdDone {s : State} {n q : Nat} (hs : s.Canonical) :
    (State.qcmdDone s n q).Canonical := by
  rw [show @State.qcmdDone = _ from by delta State.qcmdDone; exact rfl]
  repeat' first
    | with_reducible assumption | with_reducible apply State.canonical_fset | dsimp only

theorem State.canonical_teardown {s : State} {q : Nat} (hs : s.Canonical) :
    (State.teardown s q).Canonical := by
  rw [show @State.teardown = _ from by delta State.teardown; exact rfl]
  repeat' first
    | with_reducible assumption | (intro _) | with_reducible apply State.canonical_fset
    | with_reducible apply State.canonical_abortItem | with_reducible apply State.canonical_foldl | split | dsimp only

theorem State.canonical_beginCmd {s : State} {key : Nat} {c : GfeCmd} (hs : s.Canonical) :
    (State.beginCmd s key c).Canonical := by
  rw [show @State.beginCmd = _ from by delta State.beginCmd; exact rfl]
  repeat' first
    | with_reducible assumption | split | dsimp only | with_reducible refine State.canonical_mk ?_

theorem State.canonical_qcmd {s : State} {n op q : Nat} (hs : s.Canonical) :
    (State.qcmd s n op q).Canonical := by
  rw [show @State.qcmd = _ from by delta State.qcmd; exact rfl]
  repeat' first
    | with_reducible assumption | with_reducible apply State.canonical_fset | with_reducible apply State.canonical_setQueue
    | with_reducible apply State.canonical_qcmdRefuse | with_reducible apply State.canonical_qcmdDone
    | with_reducible apply State.canonical_teardown | with_reducible apply State.canonical_beginCmd
    | with_reducible apply State.canonical_ite | split | dsimp only

theorem State.canonical_openQueue {s : State} {n q : Nat} {b : List Byte} (hs : s.Canonical) :
    (State.openQueue s n q b).Canonical := by
  rw [show @State.openQueue = _ from by delta State.openQueue; exact rfl]
  repeat' first
    | with_reducible assumption | with_reducible apply State.canonical_fset | with_reducible apply State.canonical_resetRange
    | with_reducible apply State.canonical_setQueue | with_reducible apply State.canonical_forget
    | with_reducible (refine State.canonical_of_pair (by assumption) ?_) | with_reducible apply State.canonical_snd | dsimp only
    | with_reducible refine State.canonical_mk ?_

theorem State.canonical_qcbRead {s : State} {n : Nat} (hs : s.Canonical) :
    (State.qcbRead s n).Canonical := by
  rw [show @State.qcbRead = _ from by delta State.qcbRead; exact rfl]
  repeat' first
    | with_reducible assumption | (intro _) | with_reducible apply State.canonical_readVa
    | with_reducible apply State.canonical_qcmdRefuse | with_reducible apply State.canonical_qcmdDone
    | with_reducible apply State.canonical_openQueue | with_reducible apply State.canonical_ite
    | with_reducible apply State.canonicalSnd_ite | with_reducible (refine State.canonical_of_pair (by assumption) ?_)
    | with_reducible apply State.canonical_snd | split | dsimp only | with_reducible apply State.canonicalSnd_mk
    | with_reducible refine State.canonical_mk ?_

theorem State.canonical_doorbell {s : State} {q tail : Nat} (hs : s.Canonical) :
    (State.doorbell s q tail).Canonical := by
  rw [show @State.doorbell = _ from by delta State.doorbell; exact rfl]
  repeat' first
    | with_reducible assumption | with_reducible apply State.canonical_fset | with_reducible apply State.canonical_setQueue
    | with_reducible apply State.canonical_ite | split | dsimp only | with_reducible refine State.canonical_mk ?_

theorem State.canonical_cack {s : State} {q v : Nat} (hs : s.Canonical) :
    (State.cack s q v).Canonical := by
  rw [show @State.cack = _ from by delta State.cack; exact rfl]
  repeat' first
    | with_reducible assumption | with_reducible apply State.canonical_fset | split | dsimp only

theorem State.canonical_spendTurn {s : State} {n cls q : Nat} (hs : s.Canonical) :
    (State.spendTurn s n cls q).Canonical := by
  rw [show @State.spendTurn = _ from by delta State.spendTurn; exact rfl]
  repeat' first
    | with_reducible assumption | (intro _) | with_reducible apply State.canonical_setQueue
    | with_reducible (refine State.canonical_of_pair (by assumption) ?_) | with_reducible apply State.canonical_snd | split
    | dsimp only | with_reducible refine State.canonical_mk ?_

theorem State.canonical_turn {s : State} {n cls : Nat} {qs : List Nat} (hs : s.Canonical) :
    State.CanonicalSnd (State.turn s n cls qs) := by
  rw [show @State.turn = _ from by delta State.turn; exact rfl]
  repeat' first
    | with_reducible assumption | with_reducible exact State.canonical_of_mk (by assumption) | (intro _)
    | with_reducible apply State.canonical_setQueue | with_reducible apply State.canonical_spendTurn
    | with_reducible apply State.canonical_ite | with_reducible apply State.canonicalSnd_ite
    | with_reducible apply State.canonical_foldl | with_reducible apply State.canonicalSnd_foldl
    | with_reducible (refine State.canonical_of_pair (by assumption) ?_) | with_reducible apply State.canonical_snd | split
    | dsimp only | with_reducible apply State.canonicalSnd_mk | with_reducible refine State.canonical_mk ?_

theorem State.canonical_admitItem {s : State} {i : Item} (hs : s.Canonical) :
    (State.admitItem s i).Canonical := by
  rw [show @State.admitItem = _ from by delta State.admitItem; exact rfl]
  repeat' first
    | with_reducible assumption | with_reducible apply State.canonical_bump | with_reducible apply State.canonical_finish
    | with_reducible apply State.canonical_ite | split | dsimp only | with_reducible refine State.canonical_mk ?_

theorem State.canonical_fetchFrom {s : State} {q : Nat} {failed : Option MFault} (hs : s.Canonical) :
    (State.fetchFrom s q failed).Canonical := by
  rw [show @State.fetchFrom = _ from by delta State.fetchFrom; exact rfl]
  repeat' first
    | with_reducible assumption | (intro _) | with_reducible apply State.canonical_bumpWrap
    | with_reducible apply State.canonical_readVa | with_reducible apply State.canonical_finish
    | with_reducible apply State.canonical_admitItem | with_reducible (refine State.canonical_of_pair (by assumption) ?_)
    | with_reducible apply State.canonical_snd | split | dsimp only | with_reducible apply State.canonicalSnd_mk
    | with_reducible refine State.canonical_mk ?_

theorem State.canonical_fetchFailed {s : State} {q : Nat} {f : MFault} (hs : s.Canonical) :
    (State.fetchFailed s q f).Canonical := by
  rw [show @State.fetchFailed = _ from by delta State.fetchFailed; exact rfl]
  repeat' first
    | with_reducible assumption | with_reducible apply State.canonical_spendTurn
    | with_reducible apply State.canonical_fetchFrom | with_reducible apply State.canonical_ite
    | with_reducible apply State.canonicalSnd_ite | with_reducible (refine State.canonical_of_pair (by assumption) ?_)
    | with_reducible apply State.canonical_snd | split | dsimp only

theorem State.canonical_place {s : State} {i : Item} {g : Nat} (hs : s.Canonical) :
    (State.place s i g).Canonical := by
  rw [show @State.place = _ from by delta State.place; exact rfl]
  repeat' first
    | with_reducible assumption | with_reducible apply State.canonical_modItem | with_reducible apply State.canonical_ite
    | split | dsimp only | with_reducible refine State.canonical_mk ?_

theorem State.canonical_bind {s : State} {i : Item} {c : Nat} (hs : s.Canonical) :
    (State.bind s i c).Canonical := by
  rw [show @State.bind = _ from by delta State.bind; exact rfl]
  repeat' first
    | with_reducible assumption | (intro _) | with_reducible apply State.canonical_bump64
    | with_reducible apply State.canonical_setStrand | with_reducible apply State.canonical_modItem
    | with_reducible apply State.canonical_traceBind | with_reducible apply State.canonical_ite
    | with_reducible apply State.canonicalSnd_ite | with_reducible (refine State.canonical_of_pair (by assumption) ?_)
    | with_reducible apply State.canonical_snd | split | dsimp only | with_reducible refine State.canonical_mk ?_

theorem State.canonical_copyAsk {s : State} {r : MReq} {n : Nat} {key : ItemKey} {type va d pa : Nat} {bs : List Byte} (hs : s.Canonical) :
    State.CanonicalSnd (State.copyAsk s r n key type va d pa bs) := by
  rw [show @State.copyAsk = _ from by delta State.copyAsk; exact rfl]
  repeat' first
    | with_reducible assumption | with_reducible apply State.canonical_recordFault
    | with_reducible apply State.canonical_request | with_reducible (refine State.canonical_of_pair (by assumption) ?_)
    | with_reducible apply State.canonical_snd | split | dsimp only | with_reducible apply State.canonicalSnd_mk
    | with_reducible refine State.canonical_mk ?_

theorem State.canonical_remoteDest {s t : State} {r : MReq} {n va : Nat} {x : Nat × Nat} (hs : s.Canonical)
    (e : s.remoteDest r n va = some (x, t)) : t.Canonical := by
  unfold State.remoteDest at e
  split at e
  · rename_i e'
    cases e
    exact State.canonical_of_pair e' (State.canonical_translate hs)
  · cases e

theorem State.canonical_copyOut {s : State} {r : MReq} {n : Nat} {key : ItemKey} {l : List (Nat × Nat)} {bs : List Byte}
    (hs : s.Canonical) : State.CanonicalSnd (s.copyOut r n key l bs) := by
  induction l generalizing s bs with
  | nil => exact State.canonicalSnd_mk hs
  | cons b l ih =>
    rcases b with ⟨va, len⟩
    unfold State.copyOut
    extract_lets write
    have hw : State.CanonicalSnd write := by
      show State.CanonicalSnd (match s.remoteDest r n va with
        | some ((d, pa), s) => s.copyAsk r n key ptWr va d pa (bs.take len)
        | none => s.writeVa r n (.copy key) key.queue va (bs.take len))
      split
      · rename_i e
        exact State.canonical_copyAsk (State.canonical_remoteDest hs e)
      · exact State.canonical_writeVa hs
    clear_value write
    split
    · exact State.canonicalSnd_mk (State.canonical_of_mk hw)
    · exact ih (State.canonical_of_mk hw)

theorem State.canonical_copyLast {s : State} {r : MReq} {n : Nat} {key : ItemKey} {va : Nat} {bs : List Byte} (hs : s.Canonical) :
    State.CanonicalSnd (s.copyLast r n key va bs) := by
  unfold State.copyLast
  split
  · rename_i e
    exact State.canonical_copyAsk (State.canonical_remoteDest hs e)
  · exact State.canonical_writeVa hs

theorem State.canonical_copyOver {s : State} {k : ItemKey} {g d len : Nat} {f : Option MFault} (hs : s.Canonical) :
    (State.copyOver s k g d len f).Canonical := by
  rw [show @State.copyOver = _ from by delta State.copyOver; exact rfl]
  repeat' first
    | with_reducible assumption | (intro _) | with_reducible apply State.canonical_wset
    | with_reducible apply State.canonical_bump64 | with_reducible apply State.canonical_modItem
    | with_reducible apply State.canonical_forget | with_reducible apply State.canonical_endItem
    | with_reducible (refine State.canonical_of_pair (by assumption) ?_) | with_reducible apply State.canonical_snd | split
    | dsimp only | with_reducible refine State.canonical_mk ?_

theorem State.canonical_copyRun {s : State} {i : Item} {g d : Nat} (hs : s.Canonical) :
    (State.copyRun s i g d).Canonical := by
  rw [show @State.copyRun = _ from by delta State.copyRun; exact rfl]
  repeat' first
    | with_reducible assumption | with_reducible apply State.canonical_readVa | with_reducible apply State.canonical_copyOut
    | with_reducible apply State.canonical_copyLast | with_reducible apply State.canonical_copyOver
    | with_reducible apply State.canonical_ite | with_reducible apply State.canonicalSnd_ite
    | with_reducible (refine State.canonical_of_pair (by assumption) ?_) | with_reducible apply State.canonical_snd | split
    | dsimp only | with_reducible apply State.canonicalSnd_mk | with_reducible refine State.canonical_mk ?_

theorem State.canonical_copyPart {s : State} {i : Item} {g d lines : Nat} (hs : s.Canonical) :
    (State.copyPart s i g d lines).Canonical := by
  rw [show @State.copyPart = _ from by delta State.copyPart; exact rfl]
  repeat' first
    | with_reducible assumption | with_reducible apply State.canonical_readVa | with_reducible apply State.canonical_copyOut
    | with_reducible (refine State.canonical_of_pair (by assumption) ?_) | with_reducible apply State.canonical_snd | split
    | dsimp only | with_reducible apply State.canonicalSnd_mk | with_reducible refine State.canonical_mk ?_

theorem State.canonical_dropAppend {s : State} {k : ItemKey} {code : Nat} (hs : s.Canonical) :
    (State.dropAppend s k code).Canonical := by
  rw [show @State.dropAppend = _ from by delta State.dropAppend; exact rfl]
  repeat' first
    | with_reducible assumption | (intro _) | with_reducible apply State.canonical_setStrand
    | with_reducible apply State.canonical_opEnded | with_reducible apply State.canonical_dropEng
    | with_reducible apply State.canonical_ite | with_reducible apply State.canonicalSnd_ite
    | with_reducible (refine State.canonical_of_pair (by assumption) ?_) | with_reducible apply State.canonical_snd | split
    | dsimp only | with_reducible refine State.canonical_mk ?_

end Sys2Proof.Machine
end

