-- ==== Sys2Proof/Laws/CanonicalEngines.lean ====
section
/-! SUPPORT. The operations of memory ordering, the engines' queues, codecs, training, the matrix engine and the key-value pool keep the canonical form. -/

set_option linter.unusedTactic false
set_option linter.unreachableTactic false
set_option linter.unusedVariables false
set_option Elab.async false

namespace Sys2Proof.Machine

theorem State.canonical_issueMem {s : State} {c t : Nat} {mine : Word64 → Bool} {kind : Word64 → OpKind} (hs : s.Canonical) :
    (State.issueMem s c t mine kind).Canonical := by
  rw [show @State.issueMem = _ from by delta State.issueMem; exact rfl]
  repeat' first
    | with_reducible assumption | (intro _) | with_reducible apply State.canonical_modItem
    | with_reducible apply State.canonical_translate | with_reducible apply State.canonical_failStrand
    | with_reducible apply State.canonical_issue | with_reducible apply State.canonical_stall
    | with_reducible apply State.canonical_advance | with_reducible apply State.canonical_needing
    | with_reducible apply State.canonical_deliver | with_reducible apply State.canonical_ite
    | with_reducible apply State.canonicalSnd_ite | with_reducible (refine State.canonical_of_pair (by assumption) ?_)
    | with_reducible apply State.canonical_snd | split | dsimp only | with_reducible apply State.canonicalSnd_mk
    | with_reducible refine State.canonical_mk ?_

theorem State.canonical_sweep {s : State} (hs : s.Canonical) :
    (State.sweep s).Canonical := by
  rw [show @State.sweep = _ from by delta State.sweep; exact rfl]
  repeat' first
    | with_reducible assumption | with_reducible apply State.canonical_settleAll | dsimp only
    | with_reducible refine State.canonical_mk ?_

theorem State.canonical_issueFence {s : State} {c t kind : Nat} (hs : s.Canonical) :
    (State.issueFence s c t kind).Canonical := by
  rw [show @State.issueFence = _ from by delta State.issueFence; exact rfl]
  repeat' first
    | with_reducible assumption | (intro _) | with_reducible apply State.canonical_failStrand
    | with_reducible apply State.canonical_issue | with_reducible apply State.canonical_advance
    | with_reducible apply State.canonical_sweep | with_reducible apply State.canonical_ite
    | with_reducible apply State.canonicalSnd_ite | with_reducible (refine State.canonical_of_pair (by assumption) ?_)
    | with_reducible apply State.canonical_snd | split | dsimp only | with_reducible refine State.canonical_mk ?_

theorem State.canonical_observe {s : State} {o : MemOp} {fw : List MemOp} (hs : s.Canonical) :
    (State.observe s o fw).Canonical := by
  rw [show @State.observe = _ from by delta State.observe; exact rfl]
  repeat' first
    | with_reducible assumption | (intro _) | with_reducible (refine State.canonical_of_pair (by assumption) ?_)
    | with_reducible apply State.canonical_snd | split | dsimp only | with_reducible refine State.canonical_mk ?_

theorem State.canonical_dropOp {s : State} {id : Nat} (hs : s.Canonical) :
    (State.dropOp s id).Canonical := by
  rw [show @State.dropOp = _ from by delta State.dropOp; exact rfl]
  repeat' first
    | with_reducible assumption | (intro _) | with_reducible (refine State.canonical_of_pair (by assumption) ?_)
    | with_reducible apply State.canonical_snd | split | dsimp only | with_reducible refine State.canonical_mk ?_

theorem State.canonical_returnValue {s : State} {o : MemOp} {v : Nat} (hs : s.Canonical) :
    (State.returnValue s o v).Canonical := by
  rw [show @State.returnValue = _ from by delta State.returnValue; exact rfl]
  repeat' first
    | with_reducible assumption | with_reducible apply State.canonical_setStrand | split | dsimp only

theorem State.canonical_failOp {s : State} {o : MemOp} {f : MFault} (hs : s.Canonical) :
    (State.failOp s o f).Canonical := by
  rw [show @State.failOp = _ from by delta State.failOp; exact rfl]
  repeat' first
    | with_reducible assumption | with_reducible exact State.canonical_of_mk (by assumption) | (intro _)
    | with_reducible apply State.canonical_recordFault | with_reducible apply State.canonical_noteEnd
    | with_reducible apply State.canonical_sweep | with_reducible apply State.canonical_foldl
    | with_reducible apply State.canonicalSnd_foldl | with_reducible (refine State.canonical_of_pair (by assumption) ?_)
    | with_reducible apply State.canonical_snd | split | dsimp only | with_reducible refine State.canonical_mk ?_

theorem State.canonical_compareRecord {s : State} {o : MemOp} {r : RelRecord} (hs : s.Canonical) :
    (State.compareRecord s o r).Canonical := by
  rw [show @State.compareRecord = _ from by delta State.compareRecord; exact rfl]
  repeat' first
    | with_reducible assumption | with_reducible apply State.canonical_fset | with_reducible apply State.canonical_bump
    | with_reducible apply State.canonical_ite | split | dsimp only

theorem State.canonical_compareAt {s : State} {o : MemOp} (hs : s.Canonical) :
    (State.compareAt s o).Canonical := by
  rw [show @State.compareAt = _ from by delta State.compareAt; exact rfl]
  repeat' first
    | with_reducible assumption | with_reducible apply State.canonical_compareRecord | split | dsimp only
    | with_reducible refine State.canonical_mk ?_

theorem State.canonical_noteRelease {s : State} {o : MemOp} (hs : s.Canonical) :
    (State.noteRelease s o).Canonical := by
  rw [show @State.noteRelease = _ from by delta State.noteRelease; exact rfl]
  repeat' first
    | with_reducible assumption | with_reducible apply State.canonical_ite | split | dsimp only
    | with_reducible refine State.canonical_mk ?_

theorem State.canonical_fill {s : State} {c pa : Nat} {bytes : List Byte} (hs : s.Canonical) :
    (State.fill s c pa bytes).Canonical := by
  rw [show @State.fill = _ from by delta State.fill; exact rfl]
  repeat' first
    | with_reducible assumption | (intro _) | with_reducible apply State.canonical_draw
    | with_reducible apply State.canonical_ite | with_reducible apply State.canonicalSnd_ite
    | with_reducible (refine State.canonical_of_pair (by assumption) ?_) | with_reducible apply State.canonical_snd | split
    | dsimp only | with_reducible apply State.canonicalSnd_mk | with_reducible refine State.canonical_mk ?_

theorem State.canonical_loadLine {s : State} {o : MemOp} {ev : CellEvent} (hs : s.Canonical) :
    State.CanonicalSnd (State.loadLine s o ev) := by
  rw [show @State.loadLine = _ from by delta State.loadLine; exact rfl]
  repeat' first
    | with_reducible assumption | with_reducible apply State.canonical_readLine | with_reducible apply State.canonical_fill
    | with_reducible apply State.canonical_ite | with_reducible apply State.canonicalSnd_ite
    | with_reducible (refine State.canonical_of_pair (by assumption) ?_) | with_reducible apply State.canonical_snd | split
    | dsimp only | with_reducible apply State.canonicalSnd_mk | with_reducible refine State.canonical_mk ?_

theorem State.canonical_performLocal {s : State} {o : MemOp} {ev : CellEvent} (hs : s.Canonical) :
    (State.performLocal s o ev).Canonical := by
  rw [show @State.performLocal = _ from by delta State.performLocal; exact rfl]
  repeat' first
    | with_reducible assumption | (intro _) | with_reducible apply State.canonical_readLine
    | with_reducible apply State.canonical_putLine | with_reducible apply State.canonical_writeLine
    | with_reducible apply State.canonical_sweep | with_reducible apply State.canonical_observe
    | with_reducible apply State.canonical_dropOp | with_reducible apply State.canonical_returnValue
    | with_reducible apply State.canonical_failOp | with_reducible apply State.canonical_compareAt
    | with_reducible apply State.canonical_noteRelease | with_reducible apply State.canonical_loadLine
    | with_reducible apply State.canonical_ite | with_reducible apply State.canonicalSnd_ite
    | with_reducible (refine State.canonical_of_pair (by assumption) ?_) | with_reducible apply State.canonical_snd | split
    | dsimp only | with_reducible apply State.canonicalSnd_mk | with_reducible refine State.canonical_mk ?_

theorem State.canonical_performRemote {s : State} {o : MemOp} {d : Nat} (hs : s.Canonical) :
    (State.performRemote s o d).Canonical := by
  rw [show @State.performRemote = _ from by delta State.performRemote; exact rfl]
  repeat' first
    | with_reducible assumption | (intro _) | with_reducible apply State.canonical_request
    | with_reducible apply State.canonical_observe | with_reducible apply State.canonical_failOp
    | with_reducible apply State.canonical_ite | with_reducible apply State.canonicalSnd_ite
    | with_reducible (refine State.canonical_of_pair (by assumption) ?_) | with_reducible apply State.canonical_snd | split
    | dsimp only | with_reducible apply State.canonicalSnd_mk | with_reducible refine State.canonical_mk ?_

theorem State.canonical_remoteDone {s : State} {id : Nat} {data : List Byte} (hs : s.Canonical) :
    (State.remoteDone s id data).Canonical := by
  rw [show @State.remoteDone = _ from by delta State.remoteDone; exact rfl]
  repeat' first
    | with_reducible assumption | (intro _) | with_reducible apply State.canonical_sweep
    | with_reducible apply State.canonical_dropOp | with_reducible apply State.canonical_returnValue
    | with_reducible apply State.canonical_ite | with_reducible apply State.canonicalSnd_ite
    | with_reducible (refine State.canonical_of_pair (by assumption) ?_) | with_reducible apply State.canonical_snd | split
    | dsimp only | with_reducible refine State.canonical_mk ?_

theorem State.canonical_remoteFail {s : State} {id cause : Nat} (hs : s.Canonical) :
    (State.remoteFail s id cause).Canonical := by
  rw [show @State.remoteFail = _ from by delta State.remoteFail; exact rfl]
  repeat' first
    | with_reducible assumption | with_reducible apply State.canonical_failOp | split | dsimp only
    | with_reducible refine State.canonical_mk ?_

theorem State.canonical_invalidate {s : State} {n va pages : Nat} {all : Bool} (hs : s.Canonical) :
    (State.invalidate s n va pages all).Canonical := by
  rw [show @State.invalidate = _ from by delta State.invalidate; exact rfl]
  repeat' first
    | with_reducible assumption | with_reducible apply State.canonical_fset | split | dsimp only
    | with_reducible refine State.canonical_mk ?_

theorem State.canonical_raise {s : State} {e : FlagSet} {inst strand : Nat} {f : Flags} (hs : s.Canonical) :
    (State.raise s e inst strand f).Canonical := by
  rw [show @State.raise = _ from by delta State.raise; exact rfl]
  repeat' first
    | with_reducible assumption | with_reducible apply State.canonical_fset | with_reducible apply State.canonical_ite | split
    | dsimp only

theorem State.canonical_lower {s : State} {e : FlagSet} {inst mask : Nat} (hs : s.Canonical) :
    (State.lower s e inst mask).Canonical := by
  rw [show @State.lower = _ from by delta State.lower; exact rfl]
  repeat' first
    | with_reducible assumption | with_reducible apply State.canonical_fset | with_reducible apply State.canonical_ite | split
    | dsimp only

theorem State.canonical_setSrGen {s : State} {c : Nat} {vxe : Bool} {g : SrGen} (hs : s.Canonical) :
    (State.setSrGen s c vxe g).Canonical := by
  rw [show @State.setSrGen = _ from by delta State.setSrGen; exact rfl]
  repeat' first
    | with_reducible assumption | split | dsimp only | with_reducible refine State.canonical_mk ?_

theorem State.canonical_shuffle {s : State} {y0 : Nat} {y1 : List Nat} (hs : s.Canonical) :
    State.CanonicalSnd (State.shuffle s y0 y1) := by
  induction y0 generalizing s y1 hs with
  | zero =>
    unfold State.shuffle
    repeat' first
      | with_reducible assumption | with_reducible apply State.canonical_draw
      | with_reducible (refine State.canonical_of_pair (by assumption) ?_) | split | dsimp only
      | with_reducible apply State.canonicalSnd_mk | with_reducible refine State.canonical_mk ?_
  | succ k ih =>
    unfold State.shuffle
    repeat' first
      | with_reducible assumption | (apply ih <;> with_reducible assumption) | with_reducible apply ih
      | with_reducible apply State.canonical_draw | with_reducible (refine State.canonical_of_pair (by assumption) ?_) | split
      | dsimp only | with_reducible apply State.canonicalSnd_mk | with_reducible refine State.canonical_mk ?_

theorem State.canonical_loadSeed {s : State} {c : Nat} {vxe : Bool} {hi : Nat} (hs : s.Canonical) :
    (State.loadSeed s c vxe hi).Canonical := by
  rw [show @State.loadSeed = _ from by delta State.loadSeed; exact rfl]
  repeat' first
    | with_reducible assumption | with_reducible apply State.canonical_setSrGen | split | dsimp only
    | with_reducible refine State.canonical_mk ?_

theorem State.canonical_roundEach {s : State} {core : Nat} {vxe rnd : Bool} {c : Nat} {sat : Bool} {vals : List Val} (hs : s.Canonical) :
    State.CanonicalSnd (State.roundEach s core vxe rnd c sat vals) := by
  rw [show @State.roundEach = _ from by delta State.roundEach; exact rfl]
  repeat' first
    | with_reducible assumption | with_reducible apply State.canonical_setSrGen | with_reducible apply State.canonical_shuffle
    | with_reducible apply State.canonical_ite | with_reducible apply State.canonicalSnd_ite
    | with_reducible (refine State.canonical_of_pair (by assumption) ?_) | with_reducible apply State.canonical_snd | split
    | dsimp only | with_reducible apply State.canonicalSnd_mk

theorem State.canonical_drawUnit {s : State} (hs : s.Canonical) :
    State.CanonicalSnd (State.drawUnit s) := by
  rw [show @State.drawUnit = _ from by delta State.drawUnit; exact rfl]
  repeat' first
    | with_reducible assumption | dsimp only | with_reducible apply State.canonicalSnd_mk
    | with_reducible refine State.canonical_mk ?_

theorem State.canonical_accumulate {s : State} {u : Rat} {terms : List Val} (hs : s.Canonical) :
    State.CanonicalSnd (State.accumulate s u terms) := by
  rw [show @State.accumulate = _ from by delta State.accumulate; exact rfl]
  repeat' first
    | with_reducible assumption | (intro _) | with_reducible apply State.canonical_draw
    | with_reducible apply State.canonical_drawUnit | with_reducible apply State.canonical_ite
    | with_reducible apply State.canonicalSnd_ite | with_reducible (refine State.canonical_of_pair (by assumption) ?_)
    | with_reducible apply State.canonical_snd | split | dsimp only | with_reducible apply State.canonicalSnd_mk

theorem State.canonical_takeRefs {s : State} {k : ItemKey} {ids : List Nat} (hs : s.Canonical) :
    (State.takeRefs s k ids).Canonical := by
  rw [show @State.takeRefs = _ from by delta State.takeRefs; exact rfl]
  repeat' first
    | with_reducible assumption | with_reducible apply State.canonical_modItem | split | dsimp only
    | with_reducible refine State.canonical_mk ?_

theorem State.canonical_ownScratch {s : State} {c off len : Nat} (hs : s.Canonical) :
    State.CanonicalSnd (State.ownScratch s c off len) := by
  rw [show @State.ownScratch = _ from by delta State.ownScratch; exact rfl]
  repeat' first
    | with_reducible assumption | with_reducible exact State.canonical_of_mk (by assumption) | (intro _)
    | with_reducible apply State.canonical_readLine | with_reducible apply State.canonical_foldl
    | with_reducible apply State.canonicalSnd_foldl | with_reducible (refine State.canonical_of_pair (by assumption) ?_)
    | with_reducible apply State.canonical_snd | split | dsimp only | with_reducible apply State.canonicalSnd_mk
    | with_reducible refine State.canonical_mk ?_

theorem State.canonical_describe {s : State} {c t off len : Nat} {failed : MFault → State → State} {act : List Byte → State → State} (hs : s.Canonical) (hfailed : ∀ x0 x1, x1.Canonical → (failed x0 x1).Canonical) (hact : ∀ x0 x1, x1.Canonical → (act x0 x1).Canonical) :
    (State.describe s c t off len failed act).Canonical := by
  rw [show @State.describe = _ from by delta State.describe; exact rfl]
  repeat' first
    | with_reducible assumption | with_reducible apply hfailed | with_reducible apply hact
    | with_reducible apply State.canonical_failMem | with_reducible apply State.canonical_stall
    | with_reducible apply State.canonical_deliver | with_reducible apply State.canonical_ownScratch
    | with_reducible apply State.canonical_ite | with_reducible apply State.canonicalSnd_ite
    | with_reducible (refine State.canonical_of_pair (by assumption) ?_) | with_reducible apply State.canonical_snd | split
    | dsimp only | with_reducible apply State.canonicalSnd_mk | with_reducible refine State.canonical_mk ?_

theorem State.canonical_modEng {s : State} {id : Nat} {f : EngOp → EngOp} (hs : s.Canonical) :
    (State.modEng s id f).Canonical := by
  rw [show @State.modEng = _ from by delta State.modEng; exact rfl]
  repeat' first
    | with_reducible assumption | split | dsimp only | with_reducible refine State.canonical_mk ?_

theorem State.canonical_enqueue {s : State} {c t : Nat} {x : Strand} {w : Word64} {eng : Engine} {sreg : Nat} {desc : List Byte} {aux : List Nat} {sampled : Bool} {checker : Option Nat} (hs : s.Canonical) :
    (State.enqueue s c t x w eng sreg desc aux sampled checker).Canonical := by
  rw [show @State.enqueue = _ from by delta State.enqueue; exact rfl]
  repeat' first
    | with_reducible assumption | with_reducible apply State.canonical_advance
    | with_reducible (refine State.canonical_of_pair (by assumption) ?_) | with_reducible apply State.canonical_snd | dsimp only
    | with_reducible refine State.canonical_mk ?_

theorem State.canonical_take {s : State} {o : EngOp} {slots : List Nat} (hs : s.Canonical) :
    (State.take s o slots).Canonical := by
  rw [show @State.take = _ from by delta State.take; exact rfl]
  repeat' first
    | with_reducible assumption | (intro _) | with_reducible apply State.canonical_takeRefs
    | with_reducible apply State.canonical_modEng | with_reducible (refine State.canonical_of_pair (by assumption) ?_)
    | with_reducible apply State.canonical_snd | split | dsimp only | with_reducible refine State.canonical_mk ?_

theorem State.canonical_gate {s : State} {o : EngOp} (hs : s.Canonical) :
    (State.gate s o).Canonical := by
  rw [show @State.gate = _ from by delta State.gate; exact rfl]
  repeat' first
    | with_reducible assumption | (intro _) | with_reducible apply State.canonical_bump
    | with_reducible apply State.canonical_modEng | with_reducible apply State.canonical_ite
    | with_reducible apply State.canonicalSnd_ite | with_reducible (refine State.canonical_of_pair (by assumption) ?_)
    | with_reducible apply State.canonical_snd | split | dsimp only | with_reducible refine State.canonical_mk ?_

theorem State.canonical_decodePass {s : State} {d : Decoder} {only : EngOp → Bool} (hs : s.Canonical)
    (hd : ∀ s o, s.Canonical → (d.decode s o).Canonical) : (s.decodePass d only).Canonical := by
  unfold State.decodePass
  refine State.canonical_snd (State.canonicalSnd_foldl (State.canonicalSnd_mk hs) fun t b h => ?_)
  have h2 : t.2.Canonical := h
  split
  · exact h
  · refine State.canonicalSnd_ite h (State.canonicalSnd_ite (State.canonicalSnd_mk (State.canonical_gate h2))
      (State.canonicalSnd_ite (State.canonicalSnd_mk h2) ?_))
    exact State.canonicalSnd_mk (hd _ _ h2)

theorem State.canonical_accept {s : State} {c t : Nat} {x : Strand} {w : Word64} {eng : Engine} {sreg : Nat} {desc : List Byte}
    {aux : List Nat} {d : Decoder} {m : Bool} {k : Option Nat} (hs : s.Canonical)
    (hd : ∀ s o, s.Canonical → (d.decode s o).Canonical) : (s.accept c t x w eng sreg desc aux d m k).Canonical := by
  unfold State.accept
  exact State.canonical_ite (State.canonical_stall hs) (State.canonical_decodePass (State.canonical_enqueue hs) hd)

theorem State.canonical_traceOp {s : State} {o : EngOp} {code : Nat} (hs : s.Canonical) :
    (State.traceOp s o code).Canonical := by
  rw [show @State.traceOp = _ from by delta State.traceOp; exact rfl]
  repeat' first
    | with_reducible assumption | with_reducible apply State.canonical_traceEngine | dsimp only

theorem State.canonical_writeStatus {s : State} {o : EngOp} {word : Nat} (hs : s.Canonical) :
    (State.writeStatus s o word).Canonical := by
  rw [show @State.writeStatus = _ from by delta State.writeStatus; exact rfl]
  repeat' first
    | with_reducible assumption | with_reducible apply State.canonical_setStrand | with_reducible apply State.canonical_dropEng
    | with_reducible apply State.canonical_settle | with_reducible apply State.canonical_traceOp | dsimp only

theorem State.canonical_engServed {s : State} {o : EngOp} {word : Nat} (hs : s.Canonical) :
    (State.engServed s o word).Canonical := by
  rw [show @State.engServed = _ from by delta State.engServed; exact rfl]
  repeat' first
    | with_reducible assumption | (intro _) | with_reducible apply State.canonical_opEnded
    | with_reducible apply State.canonical_modEng | with_reducible apply State.canonical_writeStatus
    | with_reducible apply State.canonical_ite | with_reducible apply State.canonicalSnd_ite
    | with_reducible (refine State.canonical_of_pair (by assumption) ?_) | with_reducible apply State.canonical_snd | split
    | dsimp only | with_reducible refine State.canonical_mk ?_

theorem State.canonical_engFailed {s : State} {o : EngOp} {code cause : Nat} (hs : s.Canonical) :
    (State.engFailed s o code cause).Canonical := by
  rw [show @State.engFailed = _ from by delta State.engFailed; exact rfl]
  repeat' first
    | with_reducible assumption | with_reducible apply State.canonical_opEnded | with_reducible apply State.canonical_dropEng
    | with_reducible apply State.canonical_endItem | with_reducible apply State.canonical_failStrand
    | with_reducible apply State.canonical_traceOp | with_reducible (refine State.canonical_of_pair (by assumption) ?_)
    | with_reducible apply State.canonical_snd | dsimp only

theorem State.canonical_ackAbort {s : State} {c : Nat} {e : Engine} (hs : s.Canonical) :
    State.CanonicalSnd (State.ackAbort s c e) := by
  rw [show @State.ackAbort = _ from by delta State.ackAbort; exact rfl]
  repeat' first
    | with_reducible assumption | with_reducible exact State.canonical_of_mk (by assumption) | (intro _)
    | with_reducible apply State.canonical_opEnded | with_reducible apply State.canonical_dropEng
    | with_reducible apply State.canonical_settle | with_reducible apply State.canonical_foldl
    | with_reducible apply State.canonicalSnd_foldl | with_reducible (refine State.canonical_of_pair (by assumption) ?_)
    | with_reducible apply State.canonical_snd | split | dsimp only | with_reducible apply State.canonicalSnd_mk
    | with_reducible refine State.canonical_mk ?_

theorem State.canonical_engRead {s : State} {c n va len : Nat} (hs : s.Canonical) :
    State.CanonicalSnd (State.engRead s c n va len) := by
  rw [show @State.engRead = _ from by delta State.engRead; exact rfl]
  repeat' first
    | with_reducible assumption | with_reducible apply State.canonical_readVa | dsimp only

theorem State.canonical_engReads {s : State} {c n : Nat} {y0 : List (Nat × Nat)} (hs : s.Canonical) :
    State.CanonicalSnd (State.engReads s c n y0) := by
  induction y0 generalizing s c n hs with
  | nil =>
    unfold State.engReads
    repeat' first
      | with_reducible assumption | with_reducible apply State.canonical_engRead
      | with_reducible (refine State.canonical_of_pair (by assumption) ?_) | split | dsimp only
      | with_reducible apply State.canonicalSnd_mk | with_reducible refine State.canonical_mk ?_
  | cons b l ih =>
    rcases b with ⟨b1, b2⟩
    unfold State.engReads
    repeat' first
      | with_reducible assumption | (apply ih <;> with_reducible assumption) | with_reducible apply ih
      | with_reducible apply State.canonical_engRead | with_reducible (refine State.canonical_of_pair (by assumption) ?_)
      | split | dsimp only | with_reducible apply State.canonicalSnd_mk | with_reducible refine State.canonical_mk ?_

theorem State.canonical_engWrites {s : State} {o : EngOp} {n : Nat} {y0 : List (Nat × List Byte)} (hs : s.Canonical) :
    State.CanonicalSnd (State.engWrites s o n y0) := by
  induction y0 generalizing s o n hs with
  | nil =>
    unfold State.engWrites
    repeat' first
      | with_reducible assumption | with_reducible apply State.canonical_writeVa
      | with_reducible (refine State.canonical_of_pair (by assumption) ?_) | with_reducible apply State.canonical_snd | split
      | dsimp only | with_reducible apply State.canonicalSnd_mk | with_reducible refine State.canonical_mk ?_
  | cons b l ih =>
    rcases b with ⟨b1, b2⟩
    unfold State.engWrites
    repeat' first
      | with_reducible assumption | (apply ih <;> with_reducible assumption) | with_reducible apply ih
      | with_reducible apply State.canonical_writeVa | with_reducible (refine State.canonical_of_pair (by assumption) ?_)
      | with_reducible apply State.canonical_snd | split | dsimp only | with_reducible apply State.canonicalSnd_mk
      | with_reducible refine State.canonical_mk ?_

theorem State.canonical_wstatus {s : State} {g st res gen : Nat} (hs : s.Canonical) :
    (State.wstatus s g st res gen).Canonical := by
  rw [show @State.wstatus = _ from by delta State.wstatus; exact rfl]
  repeat' first
    | with_reducible assumption | with_reducible apply State.canonical_wset | dsimp only

theorem State.canonical_refuseWrite {s : State} {g id res : Nat} (hs : s.Canonical) :
    (State.refuseWrite s g id res).Canonical := by
  rw [show @State.refuseWrite = _ from by delta State.refuseWrite; exact rfl]
  repeat' first
    | with_reducible assumption | with_reducible apply State.canonical_setSlot | with_reducible apply State.canonical_wstatus
    | dsimp only | with_reducible refine State.canonical_mk ?_

theorem State.canonical_dropHeldWrites {s : State} {n : Nat} (hs : s.Canonical) :
    (State.dropHeldWrites s n).Canonical := by
  rw [show @State.dropHeldWrites = _ from by delta State.dropHeldWrites; exact rfl]
  repeat' first
    | with_reducible assumption | (intro _) | with_reducible apply State.canonical_refuseWrite
    | with_reducible apply State.canonical_ite | with_reducible apply State.canonical_foldl | split | dsimp only
    | with_reducible refine State.canonical_mk ?_

theorem State.canonical_blockRefused {s : State} {g slot cause found : Nat} (hs : s.Canonical) :
    (State.blockRefused s g slot cause found).Canonical := by
  rw [show @State.blockRefused = _ from by delta State.blockRefused; exact rfl]
  repeat' first
    | with_reducible assumption | with_reducible apply State.canonical_wset | with_reducible apply State.canonical_bump
    | dsimp only

theorem State.canonical_readCodebook {s : State} {c n fmt slot gen : Nat} {content : List Byte} {body hdr count : Nat} (hs : s.Canonical) :
    State.CanonicalSnd (State.readCodebook s c n fmt slot gen content body hdr count) := by
  rw [show @State.readCodebook = _ from by delta State.readCodebook; exact rfl]
  repeat' first
    | with_reducible assumption | with_reducible exact State.canonical_of_mk (by assumption) | (intro _)
    | with_reducible apply State.canonical_bump64 | with_reducible apply State.canonical_engRead
    | with_reducible apply State.canonical_blockRefused | with_reducible apply State.canonicalSnd_ite
    | with_reducible apply State.canonicalSnd_foldl | with_reducible (refine State.canonical_of_pair (by assumption) ?_) | split
    | dsimp only | with_reducible apply State.canonicalSnd_mk | with_reducible refine State.canonical_mk ?_

theorem State.canonical_readCompressed {s : State} {c n slot gen rate fmt : Nat} {table : List Byte} {va blocks : Nat} (hs : s.Canonical) :
    State.CanonicalSnd (State.readCompressed s c n slot gen rate fmt table va blocks) := by
  rw [show @State.readCompressed = _ from by delta State.readCompressed; exact rfl]
  repeat' first
    | with_reducible assumption | with_reducible exact State.canonical_of_mk (by assumption) | (intro _)
    | with_reducible apply State.canonical_bump64 | with_reducible apply State.canonical_engRead
    | with_reducible apply State.canonical_blockRefused | with_reducible apply State.canonical_ite
    | with_reducible apply State.canonicalSnd_ite | with_reducible apply State.canonical_foldl
    | with_reducible apply State.canonicalSnd_foldl | with_reducible (refine State.canonical_of_pair (by assumption) ?_)
    | with_reducible apply State.canonical_snd | split | dsimp only | with_reducible apply State.canonicalSnd_mk
    | with_reducible refine State.canonical_mk ?_

theorem State.canonical_trainFault {s : State} {c : Nat} (hs : s.Canonical) :
    (State.trainFault s c).Canonical := by
  rw [show @State.trainFault = _ from by delta State.trainFault; exact rfl]
  repeat' first
    | with_reducible assumption | with_reducible apply State.canonical_fset | dsimp only

theorem State.canonical_trainRead {s : State} {c off len : Nat} (hs : s.Canonical) :
    State.CanonicalSnd (State.trainRead s c off len) := by
  rw [show @State.trainRead = _ from by delta State.trainRead; exact rfl]
  repeat' first
    | with_reducible assumption | with_reducible apply State.canonical_readVa | dsimp only

theorem State.canonical_trainWrite {s : State} {c off : Nat} {bs : List Byte} (hs : s.Canonical) :
    (State.trainWrite s c off bs).Canonical := by
  rw [show @State.trainWrite = _ from by delta State.trainWrite; exact rfl]
  repeat' first
    | with_reducible assumption | with_reducible apply State.canonical_writeVa | with_reducible apply State.canonical_trainFault
    | with_reducible (refine State.canonical_of_pair (by assumption) ?_) | split | dsimp only
    | with_reducible refine State.canonical_mk ?_

theorem State.canonical_trainLog {s : State} {c type i : Nat} {e : List Byte} (hs : s.Canonical) :
    (State.trainLog s c type i e).Canonical := by
  rw [show @State.trainLog = _ from by delta State.trainLog; exact rfl]
  repeat' first
    | with_reducible assumption | with_reducible apply State.canonical_trainFault
    | with_reducible apply State.canonical_trainRead | with_reducible apply State.canonical_trainWrite
    | with_reducible apply State.canonical_ite | with_reducible (refine State.canonical_of_pair (by assumption) ?_) | split
    | dsimp only | with_reducible refine State.canonical_mk ?_

theorem State.canonical_trainEntries {s : State} {c : Nat} {y0 : Nat} (hs : s.Canonical) :
    State.CanonicalSnd (State.trainEntries s c y0) := by
  induction y0 generalizing s c hs with
  | zero =>
    unfold State.trainEntries
    repeat' first
      | with_reducible assumption | with_reducible apply State.canonical_trainRead
      | with_reducible (refine State.canonical_of_pair (by assumption) ?_) | split | dsimp only
      | with_reducible apply State.canonicalSnd_mk | with_reducible refine State.canonical_mk ?_
  | succ k ih =>
    unfold State.trainEntries
    repeat' first
      | with_reducible assumption | (apply ih <;> with_reducible assumption) | with_reducible apply ih
      | with_reducible apply State.canonical_trainRead | with_reducible (refine State.canonical_of_pair (by assumption) ?_)
      | split | dsimp only | with_reducible apply State.canonicalSnd_mk | with_reducible refine State.canonical_mk ?_

theorem State.canonical_watchEntry {s : State} {c i : Nat} {e0 : List Byte} {rnd : Bool} {l : List (List Elem)} (hs : s.Canonical) :
    (State.watchEntry s c i e0 rnd l).Canonical := by
  rw [show @State.watchEntry = _ from by delta State.watchEntry; exact rfl]
  repeat' first
    | with_reducible assumption | with_reducible exact State.canonical_of_mk (by assumption) | (intro _)
    | with_reducible apply State.canonical_trainWrite | with_reducible apply State.canonical_trainLog
    | with_reducible apply State.canonical_ite | with_reducible apply State.canonicalSnd_ite
    | with_reducible apply State.canonical_foldl | with_reducible apply State.canonicalSnd_foldl
    | with_reducible (refine State.canonical_of_pair (by assumption) ?_) | with_reducible apply State.canonical_snd | split
    | dsimp only | with_reducible apply State.canonicalSnd_mk

theorem State.canonical_watch {s : State} {c : Nat} {rnd : Bool} {rows : List Written} (hs : s.Canonical) :
    (State.watch s c rnd rows).Canonical := by
  rw [show @State.watch = _ from by delta State.watch; exact rfl]
  repeat' first
    | with_reducible assumption | (intro _) | with_reducible apply State.canonical_trainFault
    | with_reducible apply State.canonical_trainEntries | with_reducible apply State.canonical_watchEntry
    | with_reducible apply State.canonical_ite | with_reducible apply State.canonical_foldl
    | with_reducible (refine State.canonical_of_pair (by assumption) ?_) | split | dsimp only
    | with_reducible refine State.canonical_mk ?_

theorem State.canonical_trainClose {s : State} {c i : Nat} {armedOnly : Bool} (hs : s.Canonical) :
    (State.trainClose s c i armedOnly).Canonical := by
  rw [show @State.trainClose = _ from by delta State.trainClose; exact rfl]
  repeat' first
    | with_reducible assumption | with_reducible apply State.canonical_trainFault
    | with_reducible apply State.canonical_trainRead | with_reducible apply State.canonical_trainWrite
    | with_reducible apply State.canonical_trainLog | with_reducible apply State.canonical_ite
    | with_reducible (refine State.canonical_of_pair (by assumption) ?_) | split | dsimp only
    | with_reducible refine State.canonical_mk ?_

theorem State.canonical_trainCloseAll {s : State} {c : Nat} (hs : s.Canonical) :
    (State.trainCloseAll s c).Canonical := by
  rw [show @State.trainCloseAll = _ from by delta State.trainCloseAll; exact rfl]
  repeat' first
    | with_reducible assumption | (intro _) | with_reducible apply State.canonical_trainClose
    | with_reducible apply State.canonical_foldl | split | dsimp only

theorem State.canonical_trainReplay {s : State} {c i fmt : Nat} (hs : s.Canonical) :
    (State.trainReplay s c i fmt).Canonical := by
  rw [show @State.trainReplay = _ from by delta State.trainReplay; exact rfl]
  repeat' first
    | with_reducible assumption | with_reducible apply State.canonical_trainFault
    | with_reducible apply State.canonical_trainRead | with_reducible apply State.canonical_trainWrite
    | with_reducible apply State.canonical_trainLog | with_reducible (refine State.canonical_of_pair (by assumption) ?_) | split
    | dsimp only | with_reducible refine State.canonical_mk ?_

theorem State.canonical_trainSkip {s : State} {c i : Nat} (hs : s.Canonical) :
    (State.trainSkip s c i).Canonical := by
  rw [show @State.trainSkip = _ from by delta State.trainSkip; exact rfl]
  repeat' first
    | with_reducible assumption | with_reducible apply State.canonical_trainFault
    | with_reducible apply State.canonical_trainRead | with_reducible apply State.canonical_trainWrite
    | with_reducible apply State.canonical_trainLog | with_reducible apply State.canonical_ite
    | with_reducible (refine State.canonical_of_pair (by assumption) ?_) | split | dsimp only
    | with_reducible refine State.canonical_mk ?_

theorem State.canonical_sampleLoad {s : State} {c : Nat} (hs : s.Canonical) :
    State.CanonicalSnd (State.sampleLoad s c) := by
  rw [show @State.sampleLoad = _ from by delta State.sampleLoad; exact rfl]
  repeat' first
    | with_reducible assumption | with_reducible apply State.canonical_draw
    | with_reducible (refine State.canonical_of_pair (by assumption) ?_) | split | dsimp only
    | with_reducible apply State.canonicalSnd_mk

theorem State.canonical_setSample {s : State} {c : Nat} {v : Option Nat} (hs : s.Canonical) :
    (State.setSample s c v).Canonical := by
  rw [show @State.setSample = _ from by delta State.setSample; exact rfl]
  repeat' first
    | with_reducible assumption | split | dsimp only | with_reducible refine State.canonical_mk ?_

theorem State.canonical_sampleStep {s : State} {c : Nat} {noDup : Bool} (hs : s.Canonical) :
    State.CanonicalSnd (State.sampleStep s c noDup) := by
  rw [show @State.sampleStep = _ from by delta State.sampleStep; exact rfl]
  repeat' first
    | with_reducible assumption | with_reducible apply State.canonical_sampleLoad
    | with_reducible apply State.canonical_setSample | with_reducible apply State.canonicalSnd_ite
    | with_reducible (refine State.canonical_of_pair (by assumption) ?_) | split | dsimp only
    | with_reducible apply State.canonicalSnd_mk | with_reducible refine State.canonical_mk ?_

theorem State.canonical_pickChecker {s : State} {c : Nat} (hs : s.Canonical) :
    State.CanonicalSnd (State.pickChecker s c) := by
  rw [show @State.pickChecker = _ from by delta State.pickChecker; exact rfl]
  repeat' first
    | with_reducible assumption | (intro _) | with_reducible apply State.canonical_draw
    | with_reducible apply State.canonical_ite | with_reducible apply State.canonicalSnd_ite
    | with_reducible (refine State.canonical_of_pair (by assumption) ?_) | with_reducible apply State.canonical_snd | split
    | dsimp only | with_reducible apply State.canonicalSnd_mk

theorem State.canonical_sample {s : State} {c : Nat} {item : ItemKey} {noDup : Bool} (hs : s.Canonical) :
    State.CanonicalSnd (State.sample s c item noDup) := by
  rw [show @State.sample = _ from by delta State.sample; exact rfl]
  repeat' first
    | with_reducible assumption | (intro _) | with_reducible apply State.canonical_bump
    | with_reducible apply State.canonical_modItem | with_reducible apply State.canonical_sampleStep
    | with_reducible apply State.canonical_pickChecker | with_reducible (refine State.canonical_of_pair (by assumption) ?_)
    | with_reducible apply State.canonical_snd | split | dsimp only | with_reducible apply State.canonicalSnd_mk
    | with_reducible refine State.canonical_mk ?_

theorem canonical_mxDecoder {s : State} {o : EngOp} (hs : s.Canonical) :
    (mxDecoder.decode s o).Canonical := by
  rw [show @mxDecoder = _ from by delta mxDecoder; exact rfl]
  repeat' first
    | with_reducible assumption | (intro _) | with_reducible apply State.canonical_modEng
    | with_reducible apply State.canonical_take | with_reducible apply State.canonical_engFailed
    | with_reducible apply State.canonical_ite | with_reducible apply State.canonicalSnd_ite
    | with_reducible (refine State.canonical_of_pair (by assumption) ?_) | with_reducible apply State.canonical_snd | split
    | dsimp only | with_reducible refine State.canonical_mk ?_

theorem State.canonical_readScales {s : State} {c n code group k base index : Nat} (hs : s.Canonical) :
    State.CanonicalSnd (State.readScales s c n code group k base index) := by
  rw [show @State.readScales = _ from by delta State.readScales; exact rfl]
  repeat' first
    | with_reducible assumption | with_reducible apply State.canonical_engRead | with_reducible apply State.canonicalSnd_ite
    | with_reducible (refine State.canonical_of_pair (by assumption) ?_) | split | dsimp only
    | with_reducible apply State.canonicalSnd_mk | with_reducible refine State.canonical_mk ?_

theorem State.canonical_mxRowA {s : State} {o : EngOp} {n p : Nat} {x : MxDesc} {r : Nat} (hs : s.Canonical) :
    State.CanonicalSnd (State.mxRowA s o n p x r) := by
  rw [show @State.mxRowA = _ from by delta State.mxRowA; exact rfl]
  repeat' first
    | with_reducible assumption | (intro _) | with_reducible apply State.canonical_engRead
    | with_reducible apply State.canonical_readCompressed | with_reducible apply State.canonical_readScales
    | with_reducible apply State.canonical_ite | with_reducible apply State.canonicalSnd_ite
    | with_reducible (refine State.canonical_of_pair (by assumption) ?_) | with_reducible apply State.canonical_snd | split
    | dsimp only | with_reducible apply State.canonicalSnd_mk | with_reducible refine State.canonical_mk ?_

theorem State.canonical_mxColB {s : State} {o : EngOp} {n p : Nat} {x : MxDesc} {j : Nat} (hs : s.Canonical) :
    State.CanonicalSnd (State.mxColB s o n p x j) := by
  rw [show @State.mxColB = _ from by delta State.mxColB; exact rfl]
  repeat' first
    | with_reducible assumption | (intro _) | with_reducible apply State.canonical_place
    | with_reducible apply State.canonical_engRead | with_reducible apply State.canonical_readScales
    | with_reducible apply State.canonical_ite | with_reducible apply State.canonicalSnd_ite
    | with_reducible (refine State.canonical_of_pair (by assumption) ?_) | with_reducible apply State.canonical_snd | split
    | dsimp only | with_reducible apply State.canonicalSnd_mk | with_reducible refine State.canonical_mk ?_

theorem State.canonical_mxB {s : State} {o : EngOp} {n p : Nat} {x : MxDesc} (hs : s.Canonical) :
    State.CanonicalSnd (State.mxB s o n p x) := by
  rw [show @State.mxB = _ from by delta State.mxB; exact rfl]
  repeat' first
    | with_reducible assumption | with_reducible exact State.canonical_of_mk (by assumption) | (intro _)
    | with_reducible apply State.canonical_readCodebook | with_reducible apply State.canonical_readScales
    | with_reducible apply State.canonical_mxColB | with_reducible apply State.canonicalSnd_ite
    | with_reducible apply State.canonicalSnd_foldl | with_reducible (refine State.canonical_of_pair (by assumption) ?_) | split
    | dsimp only | with_reducible apply State.canonicalSnd_mk | with_reducible refine State.canonical_mk ?_

theorem State.canonical_mxA {s : State} {o : EngOp} {n p : Nat} {x : MxDesc} (hs : s.Canonical) :
    State.CanonicalSnd (State.mxA s o n p x) := by
  rw [show @State.mxA = _ from by delta State.mxA; exact rfl]
  repeat' first
    | with_reducible assumption | with_reducible exact State.canonical_of_mk (by assumption) | (intro _)
    | with_reducible apply State.canonical_mxRowA | with_reducible apply State.canonicalSnd_foldl
    | with_reducible (refine State.canonical_of_pair (by assumption) ?_) | split | dsimp only
    | with_reducible apply State.canonicalSnd_mk | with_reducible refine State.canonical_mk ?_

theorem State.canonical_mxCin {s : State} {o : EngOp} {n p : Nat} {x : MxDesc} (hs : s.Canonical) :
    State.CanonicalSnd (State.mxCin s o n p x) := by
  rw [show @State.mxCin = _ from by delta State.mxCin; exact rfl]
  repeat' first
    | with_reducible assumption | with_reducible apply State.canonical_engReads | with_reducible apply State.canonicalSnd_ite
    | with_reducible (refine State.canonical_of_pair (by assumption) ?_) | split | dsimp only
    | with_reducible apply State.canonicalSnd_mk | with_reducible refine State.canonical_mk ?_

theorem State.canonical_mxElement {s : State} {a b : List Val} {cin : Option Val} (hs : s.Canonical) :
    State.CanonicalSnd (State.mxElement s a b cin) := by
  rw [show @State.mxElement = _ from by delta State.mxElement; exact rfl]
  repeat' first
    | with_reducible assumption | with_reducible apply State.canonical_accumulate | with_reducible apply State.canonical_snd
    | split | dsimp only | with_reducible apply State.canonicalSnd_mk

theorem State.canonical_mxTile {s : State} {A B cin : List (List Val)} (hs : s.Canonical) :
    State.CanonicalSnd (State.mxTile s A B cin) := by
  rw [show @State.mxTile = _ from by delta State.mxTile; exact rfl]
  repeat' first
    | with_reducible assumption | with_reducible exact State.canonical_of_mk (by assumption) | (intro _)
    | with_reducible apply State.canonical_mxElement | with_reducible apply State.canonicalSnd_foldl
    | with_reducible apply State.canonical_snd | split | dsimp only | with_reducible apply State.canonicalSnd_mk

theorem State.canonical_drawCodes {s : State} {bits : Nat} {y0 : Nat} (hs : s.Canonical) :
    State.CanonicalSnd (State.drawCodes s bits y0) := by
  induction y0 generalizing s bits hs with
  | zero =>
    unfold State.drawCodes
    repeat' first
      | with_reducible assumption | with_reducible apply State.canonical_draw
      | with_reducible (refine State.canonical_of_pair (by assumption) ?_) | split | dsimp only
      | with_reducible apply State.canonicalSnd_mk
  | succ k ih =>
    unfold State.drawCodes
    repeat' first
      | with_reducible assumption | (apply ih <;> with_reducible assumption) | with_reducible apply ih
      | with_reducible apply State.canonical_draw | with_reducible (refine State.canonical_of_pair (by assumption) ?_) | split
      | dsimp only | with_reducible apply State.canonicalSnd_mk

theorem State.canonical_mxCount {s : State} {c p : Nat} {x : MxDesc} (hs : s.Canonical) :
    (State.mxCount s c p x).Canonical := by
  rw [show @State.mxCount = _ from by delta State.mxCount; exact rfl]
  repeat' first
    | with_reducible assumption | with_reducible apply State.canonical_bump64 | with_reducible apply State.canonical_draw
    | with_reducible apply State.canonical_snd | split | dsimp only

theorem State.canonical_mxOperands {s : State} {o : EngOp} {n p : Nat} {x : MxDesc} (hs : s.Canonical) :
    State.CanonicalSnd (State.mxOperands s o n p x) := by
  rw [show @State.mxOperands = _ from by delta State.mxOperands; exact rfl]
  repeat' first
    | with_reducible assumption | with_reducible apply State.canonical_mxB | with_reducible apply State.canonical_mxA
    | with_reducible apply State.canonical_mxCin | with_reducible (refine State.canonical_of_pair (by assumption) ?_)
    | with_reducible apply State.canonical_snd | split | dsimp only | with_reducible apply State.canonicalSnd_mk
    | with_reducible refine State.canonical_mk ?_

theorem State.canonical_mxProduct {s : State} {o : EngOp} {p : Nat} {ops : List (List Val) × List (List Val) × List (List Val) × Bool} (hs : s.Canonical) :
    State.CanonicalSnd (State.mxProduct s o p ops) := by
  rw [show @State.mxProduct = _ from by delta State.mxProduct; exact rfl]
  repeat' first
    | with_reducible assumption | with_reducible apply State.canonical_roundEach | with_reducible apply State.canonical_mxTile
    | with_reducible (refine State.canonical_of_pair (by assumption) ?_) | with_reducible apply State.canonical_snd | split
    | dsimp only | with_reducible apply State.canonicalSnd_mk

theorem State.canonical_mxMagnitudes {s : State} {A B cin : List (List Val)} (hs : s.Canonical) :
    State.CanonicalSnd (State.mxMagnitudes s A B cin) := by
  rw [show @State.mxMagnitudes = _ from by delta State.mxMagnitudes; exact rfl]
  repeat' first
    | with_reducible assumption | (intro _) | with_reducible apply State.canonical_mxTile
    | with_reducible apply State.canonical_ite | with_reducible apply State.canonicalSnd_ite
    | with_reducible (refine State.canonical_of_pair (by assumption) ?_) | with_reducible apply State.canonical_snd | split
    | dsimp only | with_reducible apply State.canonicalSnd_mk

theorem State.canonical_mxCopy {s : State} {o : EngOp} {d n p : Nat} {x : MxDesc} {clash : Bool} {codes : List Nat} (hs : s.Canonical) :
    State.CanonicalSnd (State.mxCopy s o d n p x clash codes) := by
  rw [show @State.mxCopy = _ from by delta State.mxCopy; exact rfl]
  repeat' first
    | with_reducible assumption | (intro _) | with_reducible apply State.canonical_mxCount
    | with_reducible apply State.canonical_mxOperands | with_reducible apply State.canonical_mxProduct
    | with_reducible apply State.canonical_mxMagnitudes | with_reducible apply State.canonical_ite
    | with_reducible apply State.canonicalSnd_ite | with_reducible (refine State.canonical_of_pair (by assumption) ?_)
    | with_reducible apply State.canonical_snd | split | dsimp only | with_reducible apply State.canonicalSnd_mk
    | with_reducible refine State.canonical_mk ?_

theorem State.canonical_mxSampled {s : State} {o : EngOp} {n p : Nat} {x : MxDesc} {clash : Bool} {codes : List Nat} (hs : s.Canonical) :
    (State.mxSampled s o n p x clash codes).Canonical := by
  rw [show @State.mxSampled = _ from by delta State.mxSampled; exact rfl]
  repeat' first
    | with_reducible assumption | (intro _) | with_reducible apply State.canonical_bump
    | with_reducible apply State.canonical_modEng | with_reducible apply State.canonical_mxCopy
    | with_reducible (refine State.canonical_of_pair (by assumption) ?_) | with_reducible apply State.canonical_snd | split
    | dsimp only | with_reducible apply State.canonicalSnd_mk | with_reducible refine State.canonical_mk ?_

theorem State.canonical_mxForm {s : State} {o : EngOp} (hs : s.Canonical) :
    State.CanonicalSnd (State.mxForm s o) := by
  rw [show @State.mxForm = _ from by delta State.mxForm; exact rfl]
  repeat' first
    | with_reducible assumption | (intro _) | with_reducible apply State.canonical_shuffle
    | with_reducible apply State.canonical_engFailed | with_reducible apply State.canonical_drawCodes
    | with_reducible apply State.canonical_mxOperands | with_reducible apply State.canonical_mxProduct
    | with_reducible apply State.canonical_mxSampled | with_reducible apply State.canonical_ite
    | with_reducible apply State.canonicalSnd_ite | with_reducible (refine State.canonical_of_pair (by assumption) ?_)
    | with_reducible apply State.canonical_snd | split | dsimp only | with_reducible apply State.canonicalSnd_mk
    | with_reducible refine State.canonical_mk ?_

theorem State.canonical_mxDrain {s : State} {o : EngOp} {t : Tile} {k : Nat} (hs : s.Canonical) :
    (State.mxDrain s o t k).Canonical := by
  rw [show @State.mxDrain = _ from by delta State.mxDrain; exact rfl]
  repeat' first
    | with_reducible assumption | (intro _) | with_reducible apply State.canonical_raise
    | with_reducible apply State.canonical_modEng | with_reducible apply State.canonical_take
    | with_reducible apply State.canonical_engServed | with_reducible apply State.canonical_engFailed
    | with_reducible apply State.canonical_engWrites | with_reducible apply State.canonical_watch
    | with_reducible apply State.canonical_mxCount | with_reducible apply State.canonical_ite
    | with_reducible apply State.canonicalSnd_ite | with_reducible (refine State.canonical_of_pair (by assumption) ?_)
    | with_reducible apply State.canonical_snd | split | dsimp only | with_reducible apply State.canonicalSnd_mk
    | with_reducible refine State.canonical_mk ?_

theorem State.canonical_mxCompute {s : State} {o : EngOp} (hs : s.Canonical) :
    (State.mxCompute s o).Canonical := by
  rw [show @State.mxCompute = _ from by delta State.mxCompute; exact rfl]
  repeat' first
    | with_reducible assumption | with_reducible apply State.canonical_mxForm | with_reducible apply State.canonical_mxDrain
    | with_reducible (refine State.canonical_of_pair (by assumption) ?_) | with_reducible apply State.canonical_snd | split
    | dsimp only | with_reducible apply State.canonicalSnd_mk | with_reducible refine State.canonical_mk ?_

theorem State.canonical_mxGoOn {s : State} {o : EngOp} (hs : s.Canonical) :
    (State.mxGoOn s o).Canonical := by
  rw [show @State.mxGoOn = _ from by delta State.mxGoOn; exact rfl]
  repeat' first
    | with_reducible assumption | (intro _) | with_reducible apply State.canonical_modEng
    | with_reducible apply State.canonical_mxForm | with_reducible apply State.canonical_mxDrain
    | with_reducible apply State.canonical_ite | with_reducible apply State.canonicalSnd_ite
    | with_reducible (refine State.canonical_of_pair (by assumption) ?_) | with_reducible apply State.canonical_snd | split
    | dsimp only | with_reducible apply State.canonicalSnd_mk | with_reducible refine State.canonical_mk ?_

theorem State.canonical_drip {s : State} (hs : s.Canonical) :
    (State.drip s).Canonical := by
  rw [show @State.drip = _ from by delta State.drip; exact rfl]
  repeat' first
    | with_reducible assumption | (intro _) | with_reducible apply State.canonical_draw
    | with_reducible apply State.canonical_unlessRemote | with_reducible apply State.canonical_mxGoOn
    | with_reducible apply State.canonical_ite | with_reducible apply State.canonicalSnd_ite
    | with_reducible (refine State.canonical_of_pair (by assumption) ?_) | with_reducible apply State.canonical_snd | split
    | dsimp only | with_reducible apply State.canonicalSnd_mk | with_reducible refine State.canonical_mk ?_

theorem State.canonical_engOver {s : State} {o : EngOp} {w : Nat} (hs : s.Canonical) :
    (State.engOver s o w).Canonical := by
  rw [show @State.engOver = _ from by delta State.engOver; exact rfl]
  repeat' first
    | with_reducible assumption | with_reducible apply State.canonical_opEnded
    | with_reducible apply State.canonical_writeStatus | with_reducible apply State.canonical_ite
    | with_reducible apply State.canonicalSnd_ite | with_reducible (refine State.canonical_of_pair (by assumption) ?_)
    | with_reducible apply State.canonical_snd | split | dsimp only

theorem State.canonical_mxAdvance {s : State} {c : Nat} (hs : s.Canonical) :
    (State.mxAdvance s c).Canonical := by
  rw [show @State.mxAdvance = _ from by delta State.mxAdvance; exact rfl]
  repeat' first
    | with_reducible assumption | (intro _) | with_reducible apply State.canonical_decodePass
    | with_reducible apply canonical_mxDecoder | with_reducible (refine State.canonical_of_pair (by assumption) ?_)
    | with_reducible apply State.canonical_snd | split | dsimp only

theorem State.canonical_engAcked {s : State} {id : Nat} (hs : s.Canonical) :
    (State.engAcked s id).Canonical := by
  rw [show @State.engAcked = _ from by delta State.engAcked; exact rfl]
  repeat' first
    | with_reducible assumption | with_reducible apply State.canonical_engOver | with_reducible apply State.canonical_ite
    | with_reducible apply State.canonicalSnd_ite | with_reducible (refine State.canonical_of_pair (by assumption) ?_)
    | with_reducible apply State.canonical_snd | split | dsimp only | with_reducible refine State.canonical_mk ?_

theorem State.canonical_dupMismatch {s : State} {p c t : Nat} (hs : s.Canonical) :
    (State.dupMismatch s p c t).Canonical := by
  rw [show @State.dupMismatch = _ from by delta State.dupMismatch; exact rfl]
  repeat' first
    | with_reducible assumption | with_reducible apply State.canonical_fset | with_reducible apply State.canonical_bump
    | with_reducible apply State.canonical_report | split | dsimp only | with_reducible refine State.canonical_mk ?_

theorem State.canonical_dupCtrl {s : State} {c enable rate tol : Nat} (hs : s.Canonical) :
    (State.dupCtrl s c enable rate tol).Canonical := by
  rw [show @State.dupCtrl = _ from by delta State.dupCtrl; exact rfl]
  repeat' first
    | with_reducible assumption | with_reducible apply State.canonical_fset | with_reducible apply State.canonical_setSample
    | with_reducible apply State.canonical_ite | split | dsimp only

theorem State.canonical_setSeq {s : State} {n id : Nat} {x : Seq} (hs : s.Canonical) :
    (State.setSeq s n id x).Canonical := by
  rw [show @State.setSeq = _ from by delta State.setSeq; exact rfl]
  repeat' first
    | with_reducible assumption | split | dsimp only | with_reducible refine State.canonical_mk ?_

theorem State.canonical_zeroRange {s : State} {lo hi : Nat} (hs : s.Canonical) :
    (State.zeroRange s lo hi).Canonical := by
  rw [show @State.zeroRange = _ from by delta State.zeroRange; exact rfl]
  repeat' first
    | with_reducible assumption | with_reducible exact State.canonical_of_mk (by assumption) | (intro _)
    | with_reducible apply State.canonical_zeroBytes | with_reducible apply State.canonical_countLine
    | with_reducible apply State.canonical_setPoison | with_reducible apply State.canonical_foldl
    | with_reducible apply State.canonicalSnd_foldl | with_reducible (refine State.canonical_of_pair (by assumption) ?_)
    | with_reducible apply State.canonical_snd | split | dsimp only

theorem State.canonical_zeroPage {s : State} {n p : Nat} (hs : s.Canonical) :
    (State.zeroPage s n p).Canonical := by
  rw [show @State.zeroPage = _ from by delta State.zeroPage; exact rfl]
  repeat' first
    | with_reducible assumption | with_reducible apply State.canonical_zeroRange | split | dsimp only
    | with_reducible refine State.canonical_mk ?_

theorem State.canonical_writeEntry {s : State} {n level i : Nat} (hs : s.Canonical) :
    State.CanonicalSnd (State.writeEntry s n level i) := by
  rw [show @State.writeEntry = _ from by delta State.writeEntry; exact rfl]
  repeat' first
    | with_reducible assumption | (intro _) | with_reducible apply State.canonical_putLine
    | with_reducible (refine State.canonical_of_pair (by assumption) ?_) | with_reducible apply State.canonical_snd | split
    | dsimp only | with_reducible apply State.canonicalSnd_mk | with_reducible refine State.canonical_mk ?_

theorem State.canonical_ensureTable {s : State} {n vpage level : Nat} (hs : s.Canonical) :
    State.CanonicalSnd (State.ensureTable s n vpage level) := by
  rw [show @State.ensureTable = _ from by delta State.ensureTable; exact rfl]
  repeat' first
    | with_reducible assumption | with_reducible apply State.canonical_zeroRange
    | with_reducible apply State.canonical_writeEntry | with_reducible apply State.canonical_ite
    | with_reducible apply State.canonicalSnd_ite | with_reducible (refine State.canonical_of_pair (by assumption) ?_)
    | with_reducible apply State.canonical_snd | split | dsimp only | with_reducible apply State.canonicalSnd_mk
    | with_reducible refine State.canonical_mk ?_

theorem State.canonical_ensureTables {s : State} {n vpage : Nat} {y0 : List Nat} (hs : s.Canonical) :
    State.CanonicalSnd (State.ensureTables s n vpage y0) := by
  induction y0 generalizing s n vpage hs with
  | nil =>
    unfold State.ensureTables
    repeat' first
      | with_reducible assumption | with_reducible apply State.canonical_ensureTable
      | with_reducible (refine State.canonical_of_pair (by assumption) ?_) | with_reducible apply State.canonical_snd | split
      | dsimp only | with_reducible apply State.canonicalSnd_mk | with_reducible refine State.canonical_mk ?_
  | cons b l ih =>
    unfold State.ensureTables
    repeat' first
      | with_reducible assumption | (apply ih <;> with_reducible assumption) | with_reducible apply ih
      | with_reducible apply State.canonical_ensureTable | with_reducible (refine State.canonical_of_pair (by assumption) ?_)
      | with_reducible apply State.canonical_snd | split | dsimp only | with_reducible apply State.canonicalSnd_mk
      | with_reducible refine State.canonical_mk ?_

theorem State.canonical_drawPage {s : State} {n vpage : Nat} (hs : s.Canonical) :
    State.CanonicalSnd (State.drawPage s n vpage) := by
  rw [show @State.drawPage = _ from by delta State.drawPage; exact rfl]
  repeat' first
    | with_reducible assumption | (intro _) | with_reducible apply State.canonical_draw
    | with_reducible apply State.canonical_zeroPage | with_reducible apply State.canonical_writeEntry
    | with_reducible apply State.canonical_ensureTables | with_reducible apply State.canonical_ite
    | with_reducible apply State.canonicalSnd_ite | with_reducible (refine State.canonical_of_pair (by assumption) ?_)
    | with_reducible apply State.canonical_snd | split | dsimp only | with_reducible apply State.canonicalSnd_mk
    | with_reducible refine State.canonical_mk ?_

theorem State.canonical_dropTable {s : State} {t : KvTable} (hs : s.Canonical) :
    (State.dropTable s t).Canonical := by
  rw [show @State.dropTable = _ from by delta State.dropTable; exact rfl]
  repeat' first
    | with_reducible assumption | with_reducible apply State.canonical_zeroRange
    | with_reducible apply State.canonical_writeEntry | with_reducible apply State.canonical_ite
    | with_reducible apply State.canonicalSnd_ite | with_reducible (refine State.canonical_of_pair (by assumption) ?_)
    | with_reducible apply State.canonical_snd | split | dsimp only | with_reducible apply State.canonicalSnd_mk

theorem State.canonical_returnPages {s : State} {n : Nat} {p : KvPage → Bool} (hs : s.Canonical) :
    (State.returnPages s n p).Canonical := by
  rw [show @State.returnPages = _ from by delta State.returnPages; exact rfl]
  repeat' first
    | with_reducible assumption | with_reducible exact State.canonical_of_mk (by assumption) | (intro _)
    | with_reducible apply State.canonical_writeEntry | with_reducible apply State.canonical_dropTable
    | with_reducible apply State.canonical_foldl | with_reducible apply State.canonicalSnd_foldl
    | with_reducible (refine State.canonical_of_pair (by assumption) ?_) | with_reducible apply State.canonical_snd | split
    | dsimp only | with_reducible apply State.canonicalSnd_mk | with_reducible refine State.canonical_mk ?_

theorem State.canonical_releaseSeqs {s : State} {n : Nat} (hs : s.Canonical) :
    (State.releaseSeqs s n).Canonical := by
  rw [show @State.releaseSeqs = _ from by delta State.releaseSeqs; exact rfl]
  repeat' first
    | with_reducible assumption | (intro _) | with_reducible apply State.canonical_ite
    | with_reducible apply State.canonicalSnd_ite | with_reducible (refine State.canonical_of_pair (by assumption) ?_)
    | with_reducible apply State.canonical_snd | split | dsimp only | with_reducible apply State.canonicalSnd_mk
    | with_reducible refine State.canonical_mk ?_

theorem State.canonical_atStatus {s : State} {o : EngOp} {f : Flags} (hs : s.Canonical) :
    (State.atStatus s o f).Canonical := by
  rw [show @State.atStatus = _ from by delta State.atStatus; exact rfl]
  repeat' first
    | with_reducible assumption | with_reducible apply State.canonical_engServed
    | with_reducible (refine State.canonical_of_pair (by assumption) ?_) | with_reducible apply State.canonical_snd | dsimp only

theorem State.canonical_holdStrand {s : State} {o : EngOp} {wt : Wait} (hs : s.Canonical) :
    (State.holdStrand s o wt).Canonical := by
  rw [show @State.holdStrand = _ from by delta State.holdStrand; exact rfl]
  repeat' first
    | with_reducible assumption | with_reducible apply State.canonical_setStrand | with_reducible apply State.canonical_ite
    | split | dsimp only | with_reducible refine State.canonical_mk ?_

theorem State.canonical_wakeStrand {s : State} {o : EngOp} {wt : Wait} (hs : s.Canonical) :
    (State.wakeStrand s o wt).Canonical := by
  rw [show @State.wakeStrand = _ from by delta State.wakeStrand; exact rfl]
  repeat' first
    | with_reducible assumption | with_reducible apply State.canonical_setStrand | with_reducible apply State.canonical_ite
    | split | dsimp only | with_reducible refine State.canonical_mk ?_

theorem State.canonical_seqOpen {s : State} {o : EngOp} (hs : s.Canonical) :
    (State.seqOpen s o).Canonical := by
  rw [show @State.seqOpen = _ from by delta State.seqOpen; exact rfl]
  repeat' first
    | with_reducible assumption | (intro _) | with_reducible apply State.canonical_draw
    | with_reducible apply State.canonical_modEng | with_reducible apply State.canonical_engFailed
    | with_reducible apply State.canonical_engWrites | with_reducible apply State.canonical_setSeq
    | with_reducible apply State.canonical_atStatus | with_reducible apply State.canonical_holdStrand
    | with_reducible apply State.canonical_wakeStrand | with_reducible apply State.canonical_ite
    | with_reducible apply State.canonicalSnd_ite | with_reducible (refine State.canonical_of_pair (by assumption) ?_)
    | with_reducible apply State.canonical_snd | split | dsimp only | with_reducible apply State.canonicalSnd_mk
    | with_reducible refine State.canonical_mk ?_

theorem State.canonical_seqTruncate {s : State} {n id p : Nat} (hs : s.Canonical) :
    (State.seqTruncate s n id p).Canonical := by
  rw [show @State.seqTruncate = _ from by delta State.seqTruncate; exact rfl]
  repeat' first
    | with_reducible assumption | with_reducible apply State.canonical_setSeq | with_reducible apply State.canonical_returnPages
    | split | dsimp only | with_reducible refine State.canonical_mk ?_

theorem State.canonical_seqRelease {s : State} {n id : Nat} (hs : s.Canonical) :
    (State.seqRelease s n id).Canonical := by
  rw [show @State.seqRelease = _ from by delta State.seqRelease; exact rfl]
  repeat' first
    | with_reducible assumption | with_reducible apply State.canonical_setSeq | with_reducible apply State.canonical_returnPages
    | split | dsimp only | with_reducible refine State.canonical_mk ?_

theorem State.canonical_cancelAppends {s : State} {n id : Nat} (hs : s.Canonical) :
    (State.cancelAppends s n id).Canonical := by
  rw [show @State.cancelAppends = _ from by delta State.cancelAppends; exact rfl]
  repeat' first
    | with_reducible assumption | with_reducible exact State.canonical_of_mk (by assumption) | (intro _)
    | with_reducible apply State.canonical_abortItem | with_reducible apply State.canonical_dropAppend
    | with_reducible apply State.canonical_foldl | with_reducible apply State.canonicalSnd_foldl
    | with_reducible (refine State.canonical_of_pair (by assumption) ?_) | with_reducible apply State.canonical_snd | split
    | dsimp only

theorem State.canonical_seqEnd {s : State} {o : EngOp} (hs : s.Canonical) :
    (State.seqEnd s o).Canonical := by
  rw [show @State.seqEnd = _ from by delta State.seqEnd; exact rfl]
  repeat' first
    | with_reducible assumption | with_reducible apply State.canonical_modEng | with_reducible apply State.canonical_setSeq
    | with_reducible apply State.canonical_atStatus | with_reducible apply State.canonical_holdStrand
    | with_reducible apply State.canonical_wakeStrand | with_reducible apply State.canonical_seqTruncate
    | with_reducible apply State.canonical_seqRelease | with_reducible apply State.canonical_cancelAppends
    | with_reducible apply State.canonical_ite | split | dsimp only | with_reducible refine State.canonical_mk ?_

theorem State.canonical_seqRun {s : State} {o : EngOp} (hs : s.Canonical) :
    (State.seqRun s o).Canonical := by
  rw [show @State.seqRun = _ from by delta State.seqRun; exact rfl]
  repeat' first
    | with_reducible assumption | with_reducible apply State.canonical_engFailed | with_reducible apply State.canonical_setSeq
    | with_reducible apply State.canonical_atStatus | with_reducible apply State.canonical_seqOpen
    | with_reducible apply State.canonical_seqEnd | with_reducible apply State.canonical_ite
    | with_reducible apply State.canonicalSnd_ite | with_reducible (refine State.canonical_of_pair (by assumption) ?_)
    | with_reducible apply State.canonical_snd | split | dsimp only | with_reducible refine State.canonical_mk ?_

theorem State.canonical_releaseOver {s : State} {c : Nat} (hs : s.Canonical) :
    (State.releaseOver s c).Canonical := by
  rw [show @State.releaseOver = _ from by delta State.releaseOver; exact rfl]
  repeat' first
    | with_reducible assumption | with_reducible apply State.canonical_cancelAppends | split | dsimp only
    | with_reducible refine State.canonical_mk ?_

theorem State.canonical_seqStart {s : State} {c : Nat} (hs : s.Canonical) :
    (State.seqStart s c).Canonical := by
  rw [show @State.seqStart = _ from by delta State.seqStart; exact rfl]
  repeat' first
    | with_reducible assumption | with_reducible apply State.canonical_seqRun | with_reducible apply State.canonical_releaseOver
    | with_reducible apply State.canonical_ite | split | dsimp only | with_reducible refine State.canonical_mk ?_

end Sys2Proof.Machine
end

