-- ==== Sys2Proof/Laws/CanonicalAttend.lean ====
section
/-! SUPPORT. The operations of attention, its backward pass, its queue and the vector engine keep the canonical form. -/

set_option linter.unusedTactic false
set_option linter.unreachableTactic false
set_option linter.unusedVariables false
set_option Elab.async false

namespace Sys2Proof.Machine

theorem State.canonical_kvWrite {s : State} {o : EngOp} {n va : Nat} {bs : List Byte} (hs : s.Canonical) :
    State.CanonicalSnd (State.kvWrite s o n va bs) := by
  rw [show @State.kvWrite = _ from by delta State.kvWrite; exact rfl]
  repeat' first
    | with_reducible assumption | with_reducible apply State.canonical_writePieces | dsimp only

theorem State.canonical_kvWrites {s : State} {o : EngOp} {n : Nat} {y0 : List (Nat × List Byte)} (hs : s.Canonical) :
    State.CanonicalSnd (State.kvWrites s o n y0) := by
  induction y0 generalizing s o n hs with
  | nil =>
    unfold State.kvWrites
    repeat' first
      | with_reducible assumption | with_reducible apply State.canonical_kvWrite
      | with_reducible (refine State.canonical_of_pair (by assumption) ?_) | with_reducible apply State.canonical_snd | split
      | dsimp only | with_reducible apply State.canonicalSnd_mk | with_reducible refine State.canonical_mk ?_
  | cons b l ih =>
    rcases b with ⟨b1, b2⟩
    unfold State.kvWrites
    repeat' first
      | with_reducible assumption | (apply ih <;> with_reducible assumption) | with_reducible apply ih
      | with_reducible apply State.canonical_kvWrite | with_reducible (refine State.canonical_of_pair (by assumption) ?_)
      | with_reducible apply State.canonical_snd | split | dsimp only | with_reducible apply State.canonicalSnd_mk
      | with_reducible refine State.canonical_mk ?_

theorem State.canonical_checkPage {s : State} {o : EngOp} {n : Nat} {q : Seq} {id t j : Nat} (hs : s.Canonical) :
    State.CanonicalSnd (State.checkPage s o n q id t j) := by
  rw [show @State.checkPage = _ from by delta State.checkPage; exact rfl]
  repeat' first
    | with_reducible assumption | with_reducible apply State.canonical_engRead | with_reducible apply State.canonicalSnd_ite
    | with_reducible (refine State.canonical_of_pair (by assumption) ?_) | split | dsimp only
    | with_reducible apply State.canonicalSnd_mk | with_reducible refine State.canonical_mk ?_

theorem State.canonical_rotError {s : State} {v : Val} {x y : Val} (hs : s.Canonical) :
    State.CanonicalSnd (State.rotError s v x y) := by
  rw [show @State.rotError = _ from by delta State.rotError; exact rfl]
  repeat' first
    | with_reducible assumption | with_reducible apply State.canonical_drawUnit
    | with_reducible (refine State.canonical_of_pair (by assumption) ?_) | split | dsimp only
    | with_reducible apply State.canonicalSnd_mk | with_reducible refine State.canonical_mk ?_

theorem State.canonical_rotatePair {s : State} {x y : Val} {a : Rat} (hs : s.Canonical) :
    State.CanonicalSnd (State.rotatePair s x y a) := by
  rw [show @State.rotatePair = _ from by delta State.rotatePair; exact rfl]
  repeat' first
    | with_reducible assumption | with_reducible apply State.canonical_rotError
    | with_reducible (refine State.canonical_of_pair (by assumption) ?_) | with_reducible apply State.canonical_snd | split
    | dsimp only | with_reducible apply State.canonicalSnd_mk

theorem State.canonical_rotateRow {s : State} {mode dims : Nat} {freq : List Val} {pos : Nat} {back : Bool} {row : List Val} (hs : s.Canonical) :
    State.CanonicalSnd (State.rotateRow s mode dims freq pos back row) := by
  rw [show @State.rotateRow = _ from by delta State.rotateRow; exact rfl]
  repeat' first
    | with_reducible assumption | with_reducible exact State.canonical_of_mk (by assumption) | (intro _)
    | with_reducible apply State.canonical_rotatePair | with_reducible apply State.canonical_ite
    | with_reducible apply State.canonicalSnd_ite | with_reducible apply State.canonical_foldl
    | with_reducible apply State.canonicalSnd_foldl | with_reducible (refine State.canonical_of_pair (by assumption) ?_)
    | with_reducible apply State.canonical_snd | split | dsimp only | with_reducible apply State.canonicalSnd_mk
    | with_reducible refine State.canonical_mk ?_

theorem State.canonical_readFreq {s : State} {o : EngOp} {n mode dims va : Nat} (hs : s.Canonical) :
    State.CanonicalSnd (State.readFreq s o n mode dims va) := by
  rw [show @State.readFreq = _ from by delta State.readFreq; exact rfl]
  repeat' first
    | with_reducible assumption | with_reducible apply State.canonical_engRead | with_reducible apply State.canonicalSnd_ite
    | with_reducible (refine State.canonical_of_pair (by assumption) ?_) | split | dsimp only
    | with_reducible apply State.canonicalSnd_mk | with_reducible refine State.canonical_mk ?_

theorem State.canonical_appendPage {s : State} {o : EngOp} {n id t j : Nat} (hs : s.Canonical) :
    State.CanonicalSnd (State.appendPage s o n id t j) := by
  rw [show @State.appendPage = _ from by delta State.appendPage; exact rfl]
  repeat' first
    | with_reducible assumption | (intro _) | with_reducible apply State.canonical_recordFault
    | with_reducible apply State.canonical_writePieces | with_reducible apply State.canonical_setSeq
    | with_reducible apply State.canonical_drawPage | with_reducible apply State.canonical_ite
    | with_reducible apply State.canonicalSnd_ite | with_reducible (refine State.canonical_of_pair (by assumption) ?_)
    | with_reducible apply State.canonical_snd | split | dsimp only | with_reducible apply State.canonicalSnd_mk
    | with_reducible refine State.canonical_mk ?_

theorem State.canonical_appendDraw {s : State} {o : EngOp} {n : Nat} {y0 : List (Nat × Nat × Nat)} (hs : s.Canonical) :
    State.CanonicalSnd (State.appendDraw s o n y0) := by
  induction y0 generalizing s o n hs with
  | nil =>
    unfold State.appendDraw
    repeat' first
      | with_reducible assumption | with_reducible apply State.canonical_appendPage
      | with_reducible (refine State.canonical_of_pair (by assumption) ?_) | with_reducible apply State.canonical_snd | split
      | dsimp only | with_reducible apply State.canonicalSnd_mk | with_reducible refine State.canonical_mk ?_
  | cons b l ih =>
    rcases b with ⟨b1, b2⟩
    unfold State.appendDraw
    repeat' first
      | with_reducible assumption | (apply ih <;> with_reducible assumption) | with_reducible apply ih
      | with_reducible apply State.canonical_appendPage | with_reducible (refine State.canonical_of_pair (by assumption) ?_)
      | with_reducible apply State.canonical_snd | split | dsimp only | with_reducible apply State.canonicalSnd_mk
      | with_reducible refine State.canonical_mk ?_

theorem State.canonical_storeGroup {s : State} {fmt : Nat} {xs : List Val} (hs : s.Canonical) :
    State.CanonicalSnd (State.storeGroup s fmt xs) := by
  rw [show @State.storeGroup = _ from by delta State.storeGroup; exact rfl]
  repeat' first
    | with_reducible assumption | with_reducible exact State.canonical_of_mk (by assumption) | (intro _)
    | with_reducible apply State.canonical_drawCodes | with_reducible apply State.canonical_ite
    | with_reducible apply State.canonicalSnd_ite | with_reducible apply State.canonical_foldl
    | with_reducible apply State.canonicalSnd_foldl | with_reducible (refine State.canonical_of_pair (by assumption) ?_)
    | with_reducible apply State.canonical_snd | split | dsimp only | with_reducible apply State.canonicalSnd_mk
    | with_reducible refine State.canonical_mk ?_

theorem State.canonical_storeRow {s : State} {fmt : Nat} {row : List Val} (hs : s.Canonical) :
    State.CanonicalSnd (State.storeRow s fmt row) := by
  rw [show @State.storeRow = _ from by delta State.storeRow; exact rfl]
  repeat' first
    | with_reducible assumption | with_reducible exact State.canonical_of_mk (by assumption) | (intro _)
    | with_reducible apply State.canonical_take | with_reducible apply State.canonical_storeGroup
    | with_reducible apply State.canonical_ite | with_reducible apply State.canonicalSnd_ite
    | with_reducible apply State.canonical_foldl | with_reducible apply State.canonicalSnd_foldl
    | with_reducible (refine State.canonical_of_pair (by assumption) ?_) | with_reducible apply State.canonical_snd | split
    | dsimp only | with_reducible apply State.canonicalSnd_mk

theorem State.canonical_appendStore {s : State} {o : EngOp} {n : Nat} {q : Seq} {va slot : Nat} {key val : StoredRow} {env : List Nat} (hs : s.Canonical) :
    State.CanonicalSnd (State.appendStore s o n q va slot key val env) := by
  rw [show @State.appendStore = _ from by delta State.appendStore; exact rfl]
  repeat' first
    | with_reducible assumption | with_reducible apply State.canonical_bump64 | with_reducible apply State.canonical_kvWrites
    | with_reducible apply State.canonical_ite | with_reducible apply State.canonicalSnd_ite
    | with_reducible (refine State.canonical_of_pair (by assumption) ?_) | with_reducible apply State.canonical_snd | split
    | dsimp only | with_reducible apply State.canonicalSnd_mk | with_reducible refine State.canonical_mk ?_

theorem State.canonical_appendToken {s : State} {o : EngOp} {n : Nat} {freq : List Val} {e : AppEntry} {i h : Nat} (hs : s.Canonical) :
    State.CanonicalSnd (State.appendToken s o n freq e i h) := by
  rw [show @State.appendToken = _ from by delta State.appendToken; exact rfl]
  repeat' first
    | with_reducible assumption | (intro _) | with_reducible apply State.canonical_engRead
    | with_reducible apply State.canonical_engReads | with_reducible apply State.canonical_checkPage
    | with_reducible apply State.canonical_rotateRow | with_reducible apply State.canonical_storeRow
    | with_reducible apply State.canonical_appendStore | with_reducible apply State.canonical_ite
    | with_reducible apply State.canonicalSnd_ite | with_reducible (refine State.canonical_of_pair (by assumption) ?_)
    | with_reducible apply State.canonical_snd | split | dsimp only | with_reducible apply State.canonicalSnd_mk
    | with_reducible refine State.canonical_mk ?_

theorem State.canonical_appendTokens {s : State} {o : EngOp} {n : Nat} {freq : List Val} {y0 : List (AppEntry × Nat × Nat)} (hs : s.Canonical) :
    State.CanonicalSnd (State.appendTokens s o n freq y0) := by
  induction y0 generalizing s o n freq hs with
  | nil =>
    unfold State.appendTokens
    repeat' first
      | with_reducible assumption | with_reducible apply State.canonical_appendToken | with_reducible apply State.canonical_ite
      | with_reducible apply State.canonicalSnd_ite | with_reducible (refine State.canonical_of_pair (by assumption) ?_)
      | with_reducible apply State.canonical_snd | split | dsimp only | with_reducible apply State.canonicalSnd_mk
      | with_reducible refine State.canonical_mk ?_
  | cons b l ih =>
    rcases b with ⟨b1, b2⟩
    unfold State.appendTokens
    repeat' first
      | with_reducible assumption | (apply ih <;> with_reducible assumption) | with_reducible apply ih
      | with_reducible apply State.canonical_appendToken | with_reducible apply State.canonical_ite
      | with_reducible apply State.canonicalSnd_ite | with_reducible (refine State.canonical_of_pair (by assumption) ?_)
      | with_reducible apply State.canonical_snd | split | dsimp only | with_reducible apply State.canonicalSnd_mk
      | with_reducible refine State.canonical_mk ?_

theorem State.canonical_atStopped {s : State} {o : EngOp} {y0 : KvStop} (hs : s.Canonical) :
    (State.atStopped s o y0).Canonical := by
  rw [show @State.atStopped = _ from by delta State.atStopped; exact rfl]
  repeat' first
    | with_reducible assumption | with_reducible apply State.canonical_engFailed
    | with_reducible (refine State.canonical_of_pair (by assumption) ?_) | with_reducible apply State.canonical_snd | split
    | dsimp only

theorem State.canonical_appendFirst {s : State} {o : EngOp} {n k : Nat} (hs : s.Canonical) :
    State.CanonicalSnd (State.appendFirst s o n k) := by
  rw [show @State.appendFirst = _ from by delta State.appendFirst; exact rfl]
  repeat' first
    | with_reducible assumption | with_reducible apply State.canonical_raise | with_reducible apply State.canonical_take
    | with_reducible apply State.canonical_watch | with_reducible apply State.canonical_readFreq
    | with_reducible apply State.canonical_appendTokens | with_reducible (refine State.canonical_of_pair (by assumption) ?_)
    | with_reducible apply State.canonical_snd | split | dsimp only | with_reducible apply State.canonicalSnd_mk
    | with_reducible refine State.canonical_mk ?_

theorem State.canonical_appendWrite {s : State} {o : EngOp} {n : Nat} (hs : s.Canonical) :
    (State.appendWrite s o n).Canonical := by
  rw [show @State.appendWrite = _ from by delta State.appendWrite; exact rfl]
  repeat' first
    | with_reducible assumption | with_reducible exact State.canonical_of_mk (by assumption) | (intro _)
    | with_reducible apply State.canonical_setSeq | with_reducible apply State.canonical_atStatus
    | with_reducible apply State.canonical_atStopped | with_reducible apply State.canonical_appendFirst
    | with_reducible apply State.canonical_foldl | with_reducible apply State.canonicalSnd_foldl
    | with_reducible (refine State.canonical_of_pair (by assumption) ?_) | with_reducible apply State.canonical_snd | split
    | dsimp only | with_reducible apply State.canonicalSnd_mk | with_reducible refine State.canonical_mk ?_

theorem State.canonical_appendRun {s : State} {o : EngOp} (hs : s.Canonical) :
    (State.appendRun s o).Canonical := by
  rw [show @State.appendRun = _ from by delta State.appendRun; exact rfl]
  repeat' first
    | with_reducible assumption | (intro _) | with_reducible apply State.canonical_modEng
    | with_reducible apply State.canonical_engFailed | with_reducible apply State.canonical_holdStrand
    | with_reducible apply State.canonical_appendDraw | with_reducible apply State.canonical_appendWrite
    | with_reducible apply State.canonical_ite | with_reducible apply State.canonicalSnd_ite
    | with_reducible (refine State.canonical_of_pair (by assumption) ?_) | with_reducible apply State.canonical_snd | split
    | dsimp only | with_reducible apply State.canonicalSnd_mk | with_reducible refine State.canonical_mk ?_

theorem State.canonical_appendStop {s : State} {o : EngOp} (hs : s.Canonical) :
    (State.appendStop s o).Canonical := by
  rw [show @State.appendStop = _ from by delta State.appendStop; exact rfl]
  repeat' first
    | with_reducible assumption | with_reducible apply State.canonical_draw | with_reducible apply State.canonical_take
    | with_reducible apply State.canonical_appendDraw | with_reducible apply State.canonical_appendFirst
    | with_reducible apply State.canonical_ite | with_reducible apply State.canonicalSnd_ite
    | with_reducible (refine State.canonical_of_pair (by assumption) ?_) | with_reducible apply State.canonical_snd | split
    | dsimp only | with_reducible apply State.canonicalSnd_mk | with_reducible refine State.canonical_mk ?_

theorem State.canonical_readBlock {s : State} {o : EngOp} {n : Nat} {q : Seq} {id t b qfmt : Nat} (hs : s.Canonical) :
    State.CanonicalSnd (s.readBlock o n q id t b qfmt) := by
  rw [show @State.readBlock = _ from by delta State.readBlock; exact rfl]
  extract_lets j slot va m kb vb
  split
  · rename_i e
    exact State.canonicalSnd_mk (State.canonical_of_pair e (State.canonical_checkPage hs))
  · rename_i e
    have h := State.canonical_of_pair e (State.canonical_checkPage hs)
    split
    · rename_i e
      exact State.canonicalSnd_mk (State.canonical_of_pair e (State.canonical_engReads h))
    · rename_i e
      exact State.canonicalSnd_mk (State.canonical_of_pair e (State.canonical_engReads h))

theorem State.canonical_readEnvelope {s : State} {o : EngOp} {n : Nat} {q : Seq} {id t b : Nat} (hs : s.Canonical) :
    State.CanonicalSnd (s.readEnvelope o n q id t b) := by
  rw [show @State.readEnvelope = _ from by delta State.readEnvelope; exact rfl]
  extract_lets j
  split
  · rename_i e
    exact State.canonicalSnd_mk (State.canonical_of_pair e (State.canonical_checkPage hs))
  · rename_i e
    have h := State.canonical_of_pair e (State.canonical_checkPage hs)
    split
    · rename_i e
      exact State.canonicalSnd_mk (State.canonical_of_pair e (State.canonical_engRead h))
    · rename_i e
      exact State.canonicalSnd_mk (State.canonical_of_pair e (State.canonical_engRead h))

theorem State.canonical_countBlock {s : State} {c : Nat} {used : List CacheRow} (hs : s.Canonical) :
    (State.countBlock s c used).Canonical := by
  rw [show @State.countBlock = _ from by delta State.countBlock; exact rfl]
  repeat' first
    | with_reducible assumption | with_reducible apply State.canonical_bump | with_reducible apply State.canonical_bump64
    | with_reducible (refine State.canonical_of_pair (by assumption) ?_) | with_reducible apply State.canonical_snd | dsimp only

theorem State.canonical_readRows {s : State} {o : EngOp} {n fmt d base first cnt : Nat} (hs : s.Canonical) :
    State.CanonicalSnd (State.readRows s o n fmt d base first cnt) := by
  rw [show @State.readRows = _ from by delta State.readRows; exact rfl]
  repeat' first
    | with_reducible assumption | with_reducible apply State.canonical_engReads
    | with_reducible (refine State.canonical_of_pair (by assumption) ?_) | split | dsimp only
    | with_reducible apply State.canonicalSnd_mk | with_reducible refine State.canonical_mk ?_

theorem State.canonical_queryRows {s : State} {o : EngOp} {n ps : Nat} {freq : List Val} {e : RunEntry} (hs : s.Canonical) :
    State.CanonicalSnd (State.queryRows s o n ps freq e) := by
  rw [show @State.queryRows = _ from by delta State.queryRows; exact rfl]
  repeat' first
    | with_reducible assumption | with_reducible exact State.canonical_of_mk (by assumption) | (intro _)
    | with_reducible apply State.canonical_engRead | with_reducible apply State.canonical_rotateRow
    | with_reducible apply State.canonical_readRows | with_reducible apply State.canonical_ite
    | with_reducible apply State.canonicalSnd_ite | with_reducible apply State.canonical_foldl
    | with_reducible apply State.canonicalSnd_foldl | with_reducible (refine State.canonical_of_pair (by assumption) ?_)
    | with_reducible apply State.canonical_snd | split | dsimp only | with_reducible apply State.canonicalSnd_mk
    | with_reducible refine State.canonical_mk ?_

theorem State.canonical_score {s : State} {sm : Rat} {q : List Val} {k : CacheRow} (hs : s.Canonical) :
    State.CanonicalSnd (State.score s sm q k) := by
  rw [show @State.score = _ from by delta State.score; exact rfl]
  repeat' first
    | with_reducible assumption | with_reducible apply State.canonical_accumulate | with_reducible apply State.canonical_ite
    | with_reducible apply State.canonicalSnd_ite | with_reducible (refine State.canonical_of_pair (by assumption) ?_)
    | with_reducible apply State.canonical_snd | split | dsimp only | with_reducible apply State.canonicalSnd_mk

theorem State.canonical_nearF32 {s : State} {q : Rat} {k : Nat} (hs : s.Canonical) :
    State.CanonicalSnd (State.nearF32 s q k) := by
  rw [show @State.nearF32 = _ from by delta State.nearF32; exact rfl]
  repeat' first
    | with_reducible assumption | with_reducible apply State.canonical_drawUnit | with_reducible apply State.canonical_ite
    | with_reducible apply State.canonicalSnd_ite | with_reducible (refine State.canonical_of_pair (by assumption) ?_)
    | with_reducible apply State.canonical_snd | split | dsimp only | with_reducible apply State.canonicalSnd_mk

theorem State.canonical_tableExp {s : State} {a b : Val} (hs : s.Canonical) :
    State.CanonicalSnd (State.tableExp s a b) := by
  rw [show @State.tableExp = _ from by delta State.tableExp; exact rfl]
  repeat' first
    | with_reducible assumption | with_reducible apply State.canonical_nearF32 | with_reducible apply State.canonical_ite
    | with_reducible apply State.canonicalSnd_ite | with_reducible (refine State.canonical_of_pair (by assumption) ?_)
    | with_reducible apply State.canonical_snd | split | dsimp only | with_reducible apply State.canonicalSnd_mk
    | with_reducible refine State.canonical_mk ?_

theorem State.canonical_tableExps {s : State} {m : Val} {y0 : List KeyTerm} (hs : s.Canonical) :
    State.CanonicalSnd (State.tableExps s m y0) := by
  induction y0 generalizing s m hs with
  | nil =>
    unfold State.tableExps
    repeat' first
      | with_reducible assumption | with_reducible apply State.canonical_score | with_reducible apply State.canonical_tableExp
      | with_reducible (refine State.canonical_of_pair (by assumption) ?_) | with_reducible apply State.canonical_snd | split
      | dsimp only | with_reducible apply State.canonicalSnd_mk
  | cons b l ih =>
    unfold State.tableExps
    repeat' first
      | with_reducible assumption | (apply ih <;> with_reducible assumption) | with_reducible apply ih
      | with_reducible apply State.canonical_score | with_reducible apply State.canonical_tableExp
      | with_reducible (refine State.canonical_of_pair (by assumption) ?_) | with_reducible apply State.canonical_snd | split
      | dsimp only | with_reducible apply State.canonicalSnd_mk

theorem State.canonical_takeBlock {s : State} {m : Val} {l : Rat} {ks : List KeyTerm} (hs : s.Canonical) :
    State.CanonicalSnd (State.takeBlock s m l ks) := by
  rw [show @State.takeBlock = _ from by delta State.takeBlock; exact rfl]
  repeat' first
    | with_reducible assumption | with_reducible exact State.canonical_of_mk (by assumption) | (intro _)
    | with_reducible apply State.canonical_drawUnit | with_reducible apply State.canonical_score
    | with_reducible apply State.canonical_tableExp | with_reducible apply State.canonical_tableExps
    | with_reducible apply State.canonical_ite | with_reducible apply State.canonicalSnd_ite
    | with_reducible apply State.canonical_foldl | with_reducible apply State.canonicalSnd_foldl
    | with_reducible (refine State.canonical_of_pair (by assumption) ?_) | with_reducible apply State.canonical_snd | split
    | dsimp only | with_reducible apply State.canonicalSnd_mk

theorem State.canonical_scores {s : State} {sm : Rat} {q : List Val} {y0 : List CacheRow} (hs : s.Canonical) :
    State.CanonicalSnd (State.scores s sm q y0) := by
  induction y0 generalizing s sm q hs with
  | nil =>
    unfold State.scores
    repeat' first
      | with_reducible assumption | with_reducible apply State.canonical_score
      | with_reducible (refine State.canonical_of_pair (by assumption) ?_) | with_reducible apply State.canonical_snd | split
      | dsimp only | with_reducible apply State.canonicalSnd_mk
  | cons b l ih =>
    unfold State.scores
    repeat' first
      | with_reducible assumption | (apply ih <;> with_reducible assumption) | with_reducible apply ih
      | with_reducible apply State.canonical_score | with_reducible (refine State.canonical_of_pair (by assumption) ?_)
      | with_reducible apply State.canonical_snd | split | dsimp only | with_reducible apply State.canonicalSnd_mk

theorem State.canonical_visitRow {s : State} {y : RunCtx} {block : List CacheRow} {r : QRow} (hs : s.Canonical) :
    State.CanonicalSnd (State.visitRow s y block r) := by
  rw [show @State.visitRow = _ from by delta State.visitRow; exact rfl]
  repeat' first
    | with_reducible assumption | (intro _) | with_reducible apply State.canonical_takeBlock
    | with_reducible apply State.canonical_scores | with_reducible apply State.canonical_ite
    | with_reducible apply State.canonicalSnd_ite | with_reducible (refine State.canonical_of_pair (by assumption) ?_)
    | with_reducible apply State.canonical_snd | split | dsimp only | with_reducible apply State.canonicalSnd_mk
    | with_reducible refine State.canonical_mk ?_

theorem State.canonical_eachRow {s : State} {f : QRow → State → QRow × State} {y0 : List QRow} (hs : s.Canonical) (hf : ∀ x0 x1, x1.Canonical → State.CanonicalSnd (f x0 x1)) :
    State.CanonicalSnd (State.eachRow s f y0) := by
  induction y0 generalizing s f hs hf with
  | nil =>
    unfold State.eachRow
    repeat' first
      | with_reducible assumption | with_reducible apply hf | with_reducible (refine State.canonical_of_pair (by assumption) ?_)
      | split | dsimp only | with_reducible apply State.canonicalSnd_mk
  | cons b l ih =>
    unfold State.eachRow
    repeat' first
      | with_reducible assumption | (apply ih <;> with_reducible assumption) | with_reducible apply ih | with_reducible apply hf
      | with_reducible (refine State.canonical_of_pair (by assumption) ?_) | split | dsimp only
      | with_reducible apply State.canonicalSnd_mk

theorem State.canonical_skipRow {s : State} {y : RunCtx} {env : List Val × List Val} {b : Nat} {r : QRow} (hs : s.Canonical) :
    State.CanonicalSnd (State.skipRow s y env b r) := by
  rw [show @State.skipRow = _ from by delta State.skipRow; exact rfl]
  repeat' first
    | with_reducible assumption | with_reducible apply State.canonical_draw | with_reducible apply State.canonical_ite
    | with_reducible apply State.canonicalSnd_ite | with_reducible (refine State.canonical_of_pair (by assumption) ?_)
    | with_reducible apply State.canonical_snd | split | dsimp only | with_reducible apply State.canonicalSnd_mk
    | with_reducible refine State.canonical_mk ?_

theorem State.canonical_skipAll {s : State} {y : RunCtx} {env : List Val × List Val} {b : Nat} {y0 : List QRow} (hs : s.Canonical) :
    State.CanonicalSnd (State.skipAll s y env b y0) := by
  induction y0 generalizing s y env b hs with
  | nil =>
    unfold State.skipAll
    repeat' first
      | with_reducible assumption | with_reducible apply State.canonical_skipRow
      | with_reducible (refine State.canonical_of_pair (by assumption) ?_) | split | dsimp only
      | with_reducible apply State.canonicalSnd_mk | with_reducible refine State.canonical_mk ?_
  | cons b l ih =>
    unfold State.skipAll
    repeat' first
      | with_reducible assumption | (apply ih <;> with_reducible assumption) | with_reducible apply ih
      | with_reducible apply State.canonical_skipRow | with_reducible (refine State.canonical_of_pair (by assumption) ?_)
      | split | dsimp only | with_reducible apply State.canonicalSnd_mk | with_reducible refine State.canonical_mk ?_

theorem State.canonical_visitBlock {s : State} {y : RunCtx} {exempt : Bool} {b : Nat} {z : WalkState} (hs : s.Canonical) :
    State.CanonicalSnd (s.visitBlock y exempt b z) := by
  rw [show @State.visitBlock = _ from by delta State.visitBlock; exact rfl]
  extract_lets test
  have ht : State.CanonicalSnd test := by
    refine State.canonicalSnd_ite (State.canonicalSnd_mk hs) ?_
    split
    · rename_i e
      exact State.canonicalSnd_mk (State.canonical_of_pair e (State.canonical_readEnvelope hs))
    · rename_i e
      have h := State.canonical_of_pair e (State.canonical_readEnvelope hs)
      split
      rename_i e
      exact State.canonicalSnd_mk (State.canonical_of_pair e (State.canonical_skipAll h))
  clear_value test
  split
  · exact State.canonicalSnd_mk (State.canonical_of_mk ht)
  · exact State.canonicalSnd_mk (State.canonical_bump64 (State.canonical_of_mk ht))
  · rename_i s1
    have h1 : s1.Canonical := State.canonical_of_mk ht
    split
    · rename_i e
      exact State.canonicalSnd_mk (State.canonical_of_pair e (State.canonical_readBlock h1))
    · rename_i e
      have h := State.canonical_of_pair e (State.canonical_readBlock h1)
      extract_lets used
      split
      rename_i e
      exact State.canonicalSnd_mk
        (State.canonical_of_pair e (State.canonical_eachRow (State.canonical_countBlock h) fun _ _ h => State.canonical_visitRow h))

theorem State.canonical_visitBlocks {s : State} {y : RunCtx} {top : Nat} {y0 : List Nat} {y1 : WalkState} (hs : s.Canonical) :
    State.CanonicalSnd (State.visitBlocks s y top y0 y1) := by
  induction y0 generalizing s y top y1 hs with
  | nil =>
    unfold State.visitBlocks
    repeat' first
      | with_reducible assumption | with_reducible apply State.canonical_visitBlock
      | with_reducible (refine State.canonical_of_pair (by assumption) ?_) | split | dsimp only
      | with_reducible apply State.canonicalSnd_mk | with_reducible refine State.canonical_mk ?_
  | cons b l ih =>
    unfold State.visitBlocks
    repeat' first
      | with_reducible assumption | (apply ih <;> with_reducible assumption) | with_reducible apply ih
      | with_reducible apply State.canonical_visitBlock | with_reducible (refine State.canonical_of_pair (by assumption) ?_)
      | split | dsimp only | with_reducible apply State.canonicalSnd_mk | with_reducible refine State.canonical_mk ?_

theorem State.canonical_blockSteps {s : State} {m : Val} {y0 : List (List KeyTerm)} (hs : s.Canonical) :
    State.CanonicalSnd (State.blockSteps s m y0) := by
  induction y0 generalizing s m hs with
  | nil =>
    unfold State.blockSteps
    repeat' first
      | with_reducible assumption | with_reducible exact State.canonical_of_mk (by assumption) | (intro _)
      | with_reducible apply State.canonical_score | with_reducible apply State.canonical_tableExp
      | with_reducible apply State.canonical_tableExps | with_reducible apply State.canonical_ite
      | with_reducible apply State.canonicalSnd_ite | with_reducible apply State.canonical_foldl
      | with_reducible apply State.canonicalSnd_foldl | with_reducible (refine State.canonical_of_pair (by assumption) ?_)
      | with_reducible apply State.canonical_snd | split | dsimp only | with_reducible apply State.canonicalSnd_mk
  | cons b l ih =>
    unfold State.blockSteps
    repeat' first
      | with_reducible assumption | (apply ih <;> with_reducible assumption) | with_reducible apply ih
      | with_reducible exact State.canonical_of_mk (by assumption) | (intro _) | with_reducible apply State.canonical_score
      | with_reducible apply State.canonical_tableExp | with_reducible apply State.canonical_tableExps
      | with_reducible apply State.canonical_ite | with_reducible apply State.canonicalSnd_ite
      | with_reducible apply State.canonical_foldl | with_reducible apply State.canonicalSnd_foldl
      | with_reducible (refine State.canonical_of_pair (by assumption) ?_) | with_reducible apply State.canonical_snd | split
      | dsimp only | with_reducible apply State.canonicalSnd_mk

theorem State.canonical_formAcc {s : State} {d : Nat} {y0 : List BlockStep} {y1 : Val} {y2 : Bool} (hs : s.Canonical) :
    State.CanonicalSnd (State.formAcc s d y0 y1 y2) := by
  induction y0 generalizing s d y1 y2 hs with
  | nil =>
    unfold State.formAcc
    repeat' first
      | with_reducible assumption | (intro _) | with_reducible apply State.canonical_accumulate
      | with_reducible (refine State.canonical_of_pair (by assumption) ?_) | with_reducible apply State.canonical_snd | split
      | dsimp only | with_reducible apply State.canonicalSnd_mk
  | cons b l ih =>
    unfold State.formAcc
    repeat' first
      | with_reducible assumption | (apply ih <;> with_reducible assumption) | with_reducible apply ih | (intro _)
      | with_reducible apply State.canonical_accumulate | with_reducible (refine State.canonical_of_pair (by assumption) ?_)
      | with_reducible apply State.canonical_snd | split | dsimp only | with_reducible apply State.canonicalSnd_mk

theorem State.canonical_boundElem {s : State} {r : QRow} {D : Nat} {ps : List Rat} {sigma : Rat} {vs : List Val} (hs : s.Canonical) :
    State.CanonicalSnd (State.boundElem s r D ps sigma vs) := by
  rw [show @State.boundElem = _ from by delta State.boundElem; exact rfl]
  repeat' first
    | with_reducible assumption | (intro _) | with_reducible apply State.canonical_drawUnit
    | with_reducible apply State.canonical_ite | with_reducible apply State.canonicalSnd_ite
    | with_reducible (refine State.canonical_of_pair (by assumption) ?_) | with_reducible apply State.canonical_snd | split
    | dsimp only | with_reducible apply State.canonicalSnd_mk

theorem State.canonical_outElem {s : State} {r : QRow} {D d : Nat} {ps : List Rat} {sigma : Rat} {steps : List BlockStep} (hs : s.Canonical) :
    State.CanonicalSnd (State.outElem s r D d ps sigma steps) := by
  rw [show @State.outElem = _ from by delta State.outElem; exact rfl]
  repeat' first
    | with_reducible assumption | (intro _) | with_reducible apply State.canonical_formAcc
    | with_reducible apply State.canonical_boundElem | with_reducible apply State.canonical_ite
    | with_reducible apply State.canonicalSnd_ite | with_reducible (refine State.canonical_of_pair (by assumption) ?_)
    | with_reducible apply State.canonical_snd | split | dsimp only | with_reducible apply State.canonicalSnd_mk

theorem State.canonical_rowDone {s : State} {D : Nat} {r : QRow} (hs : s.Canonical) :
    State.CanonicalSnd (State.rowDone s D r) := by
  rw [show @State.rowDone = _ from by delta State.rowDone; exact rfl]
  repeat' first
    | with_reducible assumption | with_reducible exact State.canonical_of_mk (by assumption) | (intro _)
    | with_reducible apply State.canonical_draw | with_reducible apply State.canonical_score
    | with_reducible apply State.canonical_blockSteps | with_reducible apply State.canonical_outElem
    | with_reducible apply State.canonical_ite | with_reducible apply State.canonicalSnd_ite
    | with_reducible apply State.canonical_foldl | with_reducible apply State.canonicalSnd_foldl
    | with_reducible (refine State.canonical_of_pair (by assumption) ?_) | with_reducible apply State.canonical_snd | split
    | dsimp only | with_reducible apply State.canonicalSnd_mk

theorem State.canonical_rowsDone {s : State} {D : Nat} {y0 : List QRow} (hs : s.Canonical) :
    State.CanonicalSnd (State.rowsDone s D y0) := by
  induction y0 generalizing s D hs with
  | nil =>
    unfold State.rowsDone
    repeat' first
      | with_reducible assumption | with_reducible apply State.canonical_rowDone
      | with_reducible (refine State.canonical_of_pair (by assumption) ?_) | split | dsimp only
      | with_reducible apply State.canonicalSnd_mk
  | cons b l ih =>
    unfold State.rowsDone
    repeat' first
      | with_reducible assumption | (apply ih <;> with_reducible assumption) | with_reducible apply ih
      | with_reducible apply State.canonical_rowDone | with_reducible (refine State.canonical_of_pair (by assumption) ?_)
      | split | dsimp only | with_reducible apply State.canonicalSnd_mk

theorem State.canonical_roundLists {s : State} {core fmt : Nat} {rnd sat : Bool} {y0 : List (List Val)} (hs : s.Canonical) :
    State.CanonicalSnd (State.roundLists s core fmt rnd sat y0) := by
  induction y0 generalizing s core fmt rnd sat hs with
  | nil =>
    unfold State.roundLists
    repeat' first
      | with_reducible assumption | with_reducible apply State.canonical_roundEach
      | with_reducible (refine State.canonical_of_pair (by assumption) ?_) | with_reducible apply State.canonical_snd | split
      | dsimp only | with_reducible apply State.canonicalSnd_mk
  | cons b l ih =>
    unfold State.roundLists
    repeat' first
      | with_reducible assumption | (apply ih <;> with_reducible assumption) | with_reducible apply ih
      | with_reducible apply State.canonical_roundEach | with_reducible (refine State.canonical_of_pair (by assumption) ?_)
      | with_reducible apply State.canonical_snd | split | dsimp only | with_reducible apply State.canonicalSnd_mk

theorem State.canonical_entryWrite {s : State} {o : EngOp} {n : Nat} {flags : Flags} {writes : List (Nat × List Byte)} {seen : List Written} (hs : s.Canonical) :
    State.CanonicalSnd (State.entryWrite s o n flags writes seen) := by
  rw [show @State.entryWrite = _ from by delta State.entryWrite; exact rfl]
  repeat' first
    | with_reducible assumption | with_reducible apply State.canonical_engWrites
    | with_reducible (refine State.canonical_of_pair (by assumption) ?_) | with_reducible apply State.canonical_snd | split
    | dsimp only | with_reducible apply State.canonicalSnd_mk | with_reducible refine State.canonical_mk ?_

theorem State.canonical_forwardWrite {s : State} {y : RunCtx} {z : WalkState} (hs : s.Canonical) :
    State.CanonicalSnd (State.forwardWrite s y z) := by
  rw [show @State.forwardWrite = _ from by delta State.forwardWrite; exact rfl]
  repeat' first
    | with_reducible assumption | (intro _) | with_reducible apply State.canonical_rowsDone
    | with_reducible apply State.canonical_roundLists | with_reducible apply State.canonical_entryWrite
    | with_reducible apply State.canonical_ite | with_reducible apply State.canonicalSnd_ite
    | with_reducible (refine State.canonical_of_pair (by assumption) ?_) | with_reducible apply State.canonical_snd | split
    | dsimp only | with_reducible apply State.canonicalSnd_mk

theorem State.canonical_forwardEntry {s : State} {y : RunCtx} {freq : List Val} (hs : s.Canonical) :
    State.CanonicalSnd (State.forwardEntry s y freq) := by
  rw [show @State.forwardEntry = _ from by delta State.forwardEntry; exact rfl]
  repeat' first
    | with_reducible assumption | with_reducible apply State.canonical_queryRows
    | with_reducible apply State.canonical_visitBlocks | with_reducible apply State.canonical_forwardWrite
    | with_reducible (refine State.canonical_of_pair (by assumption) ?_) | with_reducible apply State.canonical_snd | split
    | dsimp only | with_reducible apply State.canonicalSnd_mk | with_reducible refine State.canonical_mk ?_

theorem State.canonical_dot {s : State} {a b : List Val} (hs : s.Canonical) :
    State.CanonicalSnd (State.dot s a b) := by
  rw [show @State.dot = _ from by delta State.dot; exact rfl]
  repeat' first
    | with_reducible assumption | with_reducible apply State.canonical_accumulate
    | with_reducible (refine State.canonical_of_pair (by assumption) ?_) | with_reducible apply State.canonical_snd | split
    | dsimp only | with_reducible apply State.canonicalSnd_mk

theorem State.canonical_savedProb {s : State} {sc mx sm : Val} (hs : s.Canonical) :
    State.CanonicalSnd (State.savedProb s sc mx sm) := by
  rw [show @State.savedProb = _ from by delta State.savedProb; exact rfl]
  repeat' first
    | with_reducible assumption | with_reducible apply State.canonical_tableExp
    | with_reducible (refine State.canonical_of_pair (by assumption) ?_) | with_reducible apply State.canonical_snd | split
    | dsimp only | with_reducible apply State.canonicalSnd_mk

theorem State.canonical_backRows {s : State} {y : RunCtx} {rows : List QRow} (hs : s.Canonical) :
    State.CanonicalSnd (State.backRows s y rows) := by
  rw [show @State.backRows = _ from by delta State.backRows; exact rfl]
  repeat' first
    | with_reducible assumption | with_reducible exact State.canonical_of_mk (by assumption) | (intro _)
    | with_reducible apply State.canonical_engRead | with_reducible apply State.canonical_readRows
    | with_reducible apply State.canonical_dot | with_reducible apply State.canonical_foldl
    | with_reducible apply State.canonicalSnd_foldl | with_reducible (refine State.canonical_of_pair (by assumption) ?_)
    | with_reducible apply State.canonical_snd | split | dsimp only | with_reducible apply State.canonicalSnd_mk
    | with_reducible refine State.canonical_mk ?_

theorem State.canonical_backKey {s : State} {y : RunCtx} {k : CacheRow} {y0 : List BRow} (hs : s.Canonical) :
    State.CanonicalSnd (State.backKey s y k y0) := by
  induction y0 generalizing s y k hs with
  | nil =>
    unfold State.backKey
    repeat' first
      | with_reducible assumption | with_reducible apply State.canonical_accumulate | with_reducible apply State.canonical_score
      | with_reducible apply State.canonical_dot | with_reducible apply State.canonical_savedProb
      | with_reducible apply State.canonical_ite | with_reducible apply State.canonicalSnd_ite
      | with_reducible (refine State.canonical_of_pair (by assumption) ?_) | with_reducible apply State.canonical_snd | split
      | dsimp only | with_reducible apply State.canonicalSnd_mk
  | cons b l ih =>
    unfold State.backKey
    repeat' first
      | with_reducible assumption | (apply ih <;> with_reducible assumption) | with_reducible apply ih
      | with_reducible apply State.canonical_accumulate | with_reducible apply State.canonical_score
      | with_reducible apply State.canonical_dot | with_reducible apply State.canonical_savedProb
      | with_reducible apply State.canonical_ite | with_reducible apply State.canonicalSnd_ite
      | with_reducible (refine State.canonical_of_pair (by assumption) ?_) | with_reducible apply State.canonical_snd | split
      | dsimp only | with_reducible apply State.canonicalSnd_mk

theorem State.canonical_backKeys {s : State} {y : RunCtx} {rows : List BRow} {y0 : List CacheRow} (hs : s.Canonical) :
    State.CanonicalSnd (State.backKeys s y rows y0) := by
  induction y0 generalizing s y rows hs with
  | nil =>
    unfold State.backKeys
    repeat' first
      | with_reducible assumption | with_reducible apply State.canonical_backKey
      | with_reducible (refine State.canonical_of_pair (by assumption) ?_) | with_reducible apply State.canonical_snd | split
      | dsimp only | with_reducible apply State.canonicalSnd_mk
  | cons b l ih =>
    unfold State.backKeys
    repeat' first
      | with_reducible assumption | (apply ih <;> with_reducible assumption) | with_reducible apply ih
      | with_reducible apply State.canonical_backKey | with_reducible (refine State.canonical_of_pair (by assumption) ?_)
      | with_reducible apply State.canonical_snd | split | dsimp only | with_reducible apply State.canonicalSnd_mk

theorem State.canonical_weighted {s : State} {D : Nat} {ws : List Val} {rows : List (List Val)} {scale : Rat} (hs : s.Canonical) :
    State.CanonicalSnd (State.weighted s D ws rows scale) := by
  rw [show @State.weighted = _ from by delta State.weighted; exact rfl]
  repeat' first
    | with_reducible assumption | with_reducible exact State.canonical_of_mk (by assumption) | (intro _)
    | with_reducible apply State.canonical_dot | with_reducible apply State.canonical_foldl
    | with_reducible apply State.canonicalSnd_foldl | with_reducible (refine State.canonical_of_pair (by assumption) ?_)
    | with_reducible apply State.canonical_snd | split | dsimp only | with_reducible apply State.canonicalSnd_mk

theorem State.canonical_gradRow {s : State} {y : RunCtx} {freq : List Val} {pos : Nat} {ws : List Val} {rows : List (List Val)} (hs : s.Canonical) :
    State.CanonicalSnd (State.gradRow s y freq pos ws rows) := by
  rw [show @State.gradRow = _ from by delta State.gradRow; exact rfl]
  repeat' first
    | with_reducible assumption | with_reducible apply State.canonical_rotateRow | with_reducible apply State.canonical_weighted
    | with_reducible (refine State.canonical_of_pair (by assumption) ?_) | with_reducible apply State.canonical_snd | split
    | dsimp only | with_reducible apply State.canonicalSnd_mk

theorem State.canonical_readBlocks {s : State} {y : RunCtx} {rows : List QRow} {l : List Nat} (hs : s.Canonical) :
    State.CanonicalSnd (s.readBlocks y rows l) := by
  induction l generalizing s with
  | nil => exact State.canonicalSnd_mk hs
  | cons b l ih =>
    unfold State.readBlocks
    split
    · rename_i e
      exact State.canonicalSnd_mk (State.canonical_of_pair e (State.canonical_readBlock hs))
    · rename_i e
      have h := State.canonical_of_pair e (State.canonical_readBlock hs)
      extract_lets used
      split
      · rename_i e
        exact State.canonicalSnd_mk (State.canonical_of_pair e (ih (State.canonical_countBlock h)))
      · rename_i e
        exact State.canonicalSnd_mk (State.canonical_of_pair e (ih (State.canonical_countBlock h)))

theorem State.canonical_gradients {s : State} {y : RunCtx} {freq : List Val} {rows : List BRow} {keys : List CacheRow}
    (hs : s.Canonical) : State.CanonicalSnd (s.gradients y freq rows keys) := by
  unfold State.gradients
  split
  rename_i e1
  have h1 := State.canonical_of_pair e1 (State.canonical_backKeys hs)
  split
  rename_i e2
  have h2 := State.canonical_of_pair e2 (State.canonicalSnd_foldl (State.canonicalSnd_mk h1) (fun t b ht => by
    rcases t with ⟨⟨l, inv⟩, t⟩
    dsimp only
    exact State.canonicalSnd_mk (State.canonical_snd (State.canonical_gradRow (State.canonical_of_mk ht)))))
  split
  rename_i e3
  have h3 := State.canonical_of_pair e3 (State.canonicalSnd_foldl (State.canonicalSnd_mk h2) (fun t b ht => by
    rcases t with ⟨⟨l, inv⟩, t⟩
    dsimp only
    exact State.canonicalSnd_mk (State.canonical_snd (State.canonical_weighted
      (State.canonical_snd (State.canonical_gradRow (State.canonical_of_mk ht)))))))
  exact State.canonicalSnd_mk h3

theorem State.canonical_backwardEntry {s : State} {y : RunCtx} {freq : List Val} (hs : s.Canonical) :
    State.CanonicalSnd (State.backwardEntry s y freq) := by
  rw [show @State.backwardEntry = _ from by delta State.backwardEntry; exact rfl]
  repeat' first
    | with_reducible assumption | with_reducible apply State.canonical_queryRows
    | with_reducible apply State.canonical_roundLists | with_reducible apply State.canonical_entryWrite
    | with_reducible apply State.canonical_backRows | with_reducible apply State.canonical_readBlocks
    | with_reducible apply State.canonical_gradients | with_reducible apply State.canonical_ite
    | with_reducible apply State.canonicalSnd_ite | with_reducible (refine State.canonical_of_pair (by assumption) ?_)
    | with_reducible apply State.canonical_snd | split | dsimp only | with_reducible apply State.canonicalSnd_mk
    | with_reducible refine State.canonical_mk ?_

theorem State.canonical_runEntry {s : State} {o : EngOp} {n : Nat} {freq : List Val} {e : RunEntry} (hs : s.Canonical) :
    State.CanonicalSnd (State.runEntry s o n freq e) := by
  rw [show @State.runEntry = _ from by delta State.runEntry; exact rfl]
  repeat' first
    | with_reducible assumption | with_reducible apply State.canonical_forwardEntry
    | with_reducible apply State.canonical_backwardEntry | with_reducible apply State.canonical_ite
    | with_reducible apply State.canonicalSnd_ite | with_reducible (refine State.canonical_of_pair (by assumption) ?_)
    | with_reducible apply State.canonical_snd | split | dsimp only | with_reducible apply State.canonicalSnd_mk

theorem State.canonical_runEach {s : State} {o : EngOp} {n : Nat} {freq : List Val} {y0 : List RunEntry} (hs : s.Canonical) :
    State.CanonicalSnd (State.runEach s o n freq y0) := by
  induction y0 generalizing s o n freq hs with
  | nil =>
    unfold State.runEach
    repeat' first
      | with_reducible assumption | with_reducible apply State.canonical_runEntry | with_reducible apply State.canonical_ite
      | with_reducible apply State.canonicalSnd_ite | with_reducible (refine State.canonical_of_pair (by assumption) ?_)
      | with_reducible apply State.canonical_snd | split | dsimp only | with_reducible apply State.canonicalSnd_mk
  | cons b l ih =>
    unfold State.runEach
    repeat' first
      | with_reducible assumption | (apply ih <;> with_reducible assumption) | with_reducible apply ih
      | with_reducible apply State.canonical_runEntry | with_reducible apply State.canonical_ite
      | with_reducible apply State.canonicalSnd_ite | with_reducible (refine State.canonical_of_pair (by assumption) ?_)
      | with_reducible apply State.canonical_snd | split | dsimp only | with_reducible apply State.canonicalSnd_mk

theorem State.canonical_runCount {s : State} {c : Nat} (hs : s.Canonical) :
    (State.runCount s c).Canonical := by
  rw [show @State.runCount = _ from by delta State.runCount; exact rfl]
  repeat' first
    | with_reducible assumption | with_reducible apply State.canonical_fset | with_reducible apply State.canonical_bump64
    | with_reducible apply State.canonical_draw | with_reducible apply State.canonical_ite
    | with_reducible apply State.canonicalSnd_ite | with_reducible (refine State.canonical_of_pair (by assumption) ?_)
    | with_reducible apply State.canonical_snd | split | dsimp only | with_reducible apply State.canonicalSnd_mk

theorem State.canonical_runFirst {s : State} {o : EngOp} {k : Nat} (hs : s.Canonical) : State.CanonicalSnd (s.runFirst o k) := by
  unfold State.runFirst
  extract_lets n d
  split
  · rename_i e
    exact State.canonicalSnd_mk (State.canonical_of_pair e (State.canonical_readFreq hs))
  · rename_i e
    have h := State.canonical_of_pair e (State.canonical_readFreq hs)
    split
    rename_i e
    have h := State.canonical_of_pair e (State.canonical_runEach h)
    exact State.canonicalSnd_mk (State.canonical_runCount (State.canonical_raise (State.canonical_watch h)))

theorem State.canonical_attendRun {s : State} {o : EngOp} (hs : s.Canonical) :
    (State.attendRun s o).Canonical := by
  rw [show @State.attendRun = _ from by delta State.attendRun; exact rfl]
  repeat' first
    | with_reducible assumption | with_reducible apply State.canonical_atStatus | with_reducible apply State.canonical_atStopped
    | with_reducible apply State.canonical_runFirst | with_reducible (refine State.canonical_of_pair (by assumption) ?_)
    | with_reducible apply State.canonical_snd | split | dsimp only | with_reducible apply State.canonicalSnd_mk
    | with_reducible refine State.canonical_mk ?_

theorem State.canonical_attendStop {s : State} {o : EngOp} (hs : s.Canonical) :
    (State.attendStop s o).Canonical := by
  rw [show @State.attendStop = _ from by delta State.attendStop; exact rfl]
  repeat' first
    | with_reducible assumption | with_reducible apply State.canonical_draw | with_reducible apply State.canonical_runFirst
    | with_reducible apply State.canonical_ite | with_reducible apply State.canonicalSnd_ite
    | with_reducible (refine State.canonical_of_pair (by assumption) ?_) | with_reducible apply State.canonical_snd | split
    | dsimp only | with_reducible apply State.canonicalSnd_mk

theorem State.canonical_listDecode {s : State} {o : EngOp} (hs : s.Canonical) :
    (State.listDecode s o).Canonical := by
  rw [show @State.listDecode = _ from by delta State.listDecode; exact rfl]
  repeat' first
    | with_reducible assumption | (intro _) | with_reducible apply State.canonical_modItem
    | with_reducible apply State.canonical_modEng | with_reducible apply State.canonical_take
    | with_reducible apply State.canonical_engFailed | with_reducible apply State.canonical_engRead
    | with_reducible apply State.canonical_ite | with_reducible apply State.canonicalSnd_ite
    | with_reducible (refine State.canonical_of_pair (by assumption) ?_) | with_reducible apply State.canonical_snd | split
    | dsimp only | with_reducible apply State.canonicalSnd_mk | with_reducible refine State.canonical_mk ?_

theorem canonical_atDecoder {s : State} {o : EngOp} (hs : s.Canonical) :
    (atDecoder.decode s o).Canonical := by
  rw [show @atDecoder = _ from by delta atDecoder; exact rfl]
  repeat' first
    | with_reducible assumption | (intro _) | with_reducible apply State.canonical_remotely
    | with_reducible apply State.canonical_take | with_reducible apply State.canonical_engFailed
    | with_reducible apply State.canonical_seqStart | with_reducible apply State.canonical_listDecode
    | with_reducible apply State.canonical_ite | with_reducible apply State.canonicalSnd_ite
    | with_reducible (refine State.canonical_of_pair (by assumption) ?_) | with_reducible apply State.canonical_snd | split
    | dsimp only

theorem State.canonical_atAdvance {s : State} {c : Nat} (hs : s.Canonical) :
    (State.atAdvance s c).Canonical := by
  rw [show @State.atAdvance = _ from by delta State.atAdvance; exact rfl]
  repeat' first
    | with_reducible assumption | (intro _) | with_reducible apply State.canonical_decodePass
    | with_reducible apply State.canonical_seqStart | with_reducible apply canonical_atDecoder
    | with_reducible (refine State.canonical_of_pair (by assumption) ?_) | with_reducible apply State.canonical_snd | split
    | dsimp only

theorem State.canonical_atIssue {s : State} {c t op len : Nat} {skip : List Byte → Bool} (hs : s.Canonical) :
    (State.atIssue s c t op len skip).Canonical := by
  rw [show @State.atIssue = _ from by delta State.atIssue; exact rfl]
  repeat' first
    | with_reducible assumption | (intro _) | with_reducible apply State.canonical_atEnded
    | with_reducible apply State.canonical_failStrand | with_reducible apply State.canonical_issue
    | with_reducible apply State.canonical_stall | with_reducible apply State.canonical_needing
    | with_reducible apply State.canonical_describe | with_reducible apply State.canonical_accept
    | with_reducible apply canonical_atDecoder | with_reducible apply State.canonical_ite
    | with_reducible apply State.canonicalSnd_ite | with_reducible (refine State.canonical_of_pair (by assumption) ?_)
    | with_reducible apply State.canonical_snd | split | dsimp only

theorem State.canonical_seqIssue {s : State} {c t op : Nat} (hs : s.Canonical) :
    (State.seqIssue s c t op).Canonical := by
  rw [show @State.seqIssue = _ from by delta State.seqIssue; exact rfl]
  repeat' first
    | with_reducible assumption | (intro _) | with_reducible apply State.canonical_atIssue
    | with_reducible (refine State.canonical_of_pair (by assumption) ?_) | with_reducible apply State.canonical_snd | split
    | dsimp only

theorem State.canonical_atRunHead {s : State} {c : Nat} (hs : s.Canonical) :
    (State.atRunHead s c).Canonical := by
  rw [show @State.atRunHead = _ from by delta State.atRunHead; exact rfl]
  repeat' first
    | with_reducible assumption | (intro _) | with_reducible apply State.canonical_remotely
    | with_reducible apply State.canonical_engFailed | with_reducible apply State.canonical_seqRun
    | with_reducible apply State.canonical_appendRun | with_reducible apply State.canonical_attendRun
    | with_reducible apply State.canonical_ite | with_reducible apply State.canonicalSnd_ite
    | with_reducible (refine State.canonical_of_pair (by assumption) ?_) | with_reducible apply State.canonical_snd | split
    | dsimp only | with_reducible refine State.canonical_mk ?_

theorem canonical_vxDecoder {s : State} {o : EngOp} (hs : s.Canonical) :
    (vxDecoder.decode s o).Canonical := by
  rw [show @vxDecoder = _ from by delta vxDecoder; exact rfl]
  repeat' first
    | with_reducible assumption | (intro _) | with_reducible apply State.canonical_take
    | with_reducible apply State.canonical_engFailed | with_reducible apply State.canonical_ite
    | with_reducible apply State.canonicalSnd_ite | with_reducible (refine State.canonical_of_pair (by assumption) ?_)
    | with_reducible apply State.canonical_snd | split | dsimp only

theorem State.canonical_vxIssue {s : State} {c t op : Nat} (hs : s.Canonical) :
    (State.vxIssue s c t op).Canonical := by
  rw [show @State.vxIssue = _ from by delta State.vxIssue; exact rfl]
  repeat' first
    | with_reducible assumption | (intro _) | with_reducible apply State.canonical_issue
    | with_reducible apply State.canonical_needing | with_reducible apply State.canonical_accept
    | with_reducible apply canonical_vxDecoder | with_reducible (refine State.canonical_of_pair (by assumption) ?_)
    | with_reducible apply State.canonical_snd | split | dsimp only

theorem State.canonical_vxElems {s : State} {y : VxRun} {fmt off cnt : Nat} (hs : s.Canonical) :
    State.CanonicalSnd (State.vxElems s y fmt off cnt) := by
  rw [show @State.vxElems = _ from by delta State.vxElems; exact rfl]
  repeat' first
    | with_reducible assumption | with_reducible apply State.canonical_engRead
    | with_reducible (refine State.canonical_of_pair (by assumption) ?_) | split | dsimp only
    | with_reducible apply State.canonicalSnd_mk | with_reducible refine State.canonical_mk ?_

theorem State.canonical_vxB {s : State} {y : VxRun} (hs : s.Canonical) :
    State.CanonicalSnd (State.vxB s y) := by
  rw [show @State.vxB = _ from by delta State.vxB; exact rfl]
  repeat' first
    | with_reducible assumption | with_reducible apply State.canonical_vxElems | with_reducible apply State.canonicalSnd_ite
    | split | dsimp only | with_reducible apply State.canonicalSnd_mk

theorem State.canonical_vxRounded {s : State} {y : VxRun} {vals : List Val} {inv : Bool} (hs : s.Canonical) :
    State.CanonicalSnd (State.vxRounded s y vals inv) := by
  rw [show @State.vxRounded = _ from by delta State.vxRounded; exact rfl]
  repeat' first
    | with_reducible assumption | with_reducible apply State.canonical_roundEach | with_reducible apply State.canonical_ite
    | with_reducible apply State.canonicalSnd_ite | with_reducible (refine State.canonical_of_pair (by assumption) ?_)
    | with_reducible apply State.canonical_snd | split | dsimp only | with_reducible apply State.canonicalSnd_mk

theorem State.canonical_vxElementwise {s : State} {y : VxRun} (hs : s.Canonical) :
    State.CanonicalSnd (State.vxElementwise s y) := by
  rw [show @State.vxElementwise = _ from by delta State.vxElementwise; exact rfl]
  repeat' first
    | with_reducible assumption | with_reducible apply State.canonical_vxElems | with_reducible apply State.canonical_vxB
    | with_reducible apply State.canonical_vxRounded | with_reducible apply State.canonicalSnd_ite
    | with_reducible (refine State.canonical_of_pair (by assumption) ?_) | with_reducible apply State.canonical_snd | split
    | dsimp only | with_reducible apply State.canonicalSnd_mk | with_reducible refine State.canonical_mk ?_

theorem State.canonical_vxCmpRun {s : State} {y : VxRun} (hs : s.Canonical) :
    State.CanonicalSnd (State.vxCmpRun s y) := by
  rw [show @State.vxCmpRun = _ from by delta State.vxCmpRun; exact rfl]
  repeat' first
    | with_reducible assumption | with_reducible apply State.canonical_vxElems | with_reducible apply State.canonical_vxB
    | with_reducible (refine State.canonical_of_pair (by assumption) ?_) | split | dsimp only
    | with_reducible apply State.canonicalSnd_mk | with_reducible refine State.canonical_mk ?_

theorem State.canonical_vxSelRun {s : State} {y : VxRun} (hs : s.Canonical) :
    State.CanonicalSnd (State.vxSelRun s y) := by
  rw [show @State.vxSelRun = _ from by delta State.vxSelRun; exact rfl]
  repeat' first
    | with_reducible assumption | with_reducible apply State.canonical_engRead | with_reducible apply State.canonical_vxElems
    | with_reducible apply State.canonical_vxB | with_reducible apply State.canonical_vxRounded
    | with_reducible (refine State.canonical_of_pair (by assumption) ?_) | split | dsimp only
    | with_reducible apply State.canonicalSnd_mk | with_reducible refine State.canonical_mk ?_

theorem State.canonical_vxScales {s : State} {y : VxRun} (hs : s.Canonical) :
    State.CanonicalSnd (State.vxScales s y) := by
  rw [show @State.vxScales = _ from by delta State.vxScales; exact rfl]
  repeat' first
    | with_reducible assumption | with_reducible apply State.canonical_engRead | with_reducible apply State.canonicalSnd_ite
    | with_reducible (refine State.canonical_of_pair (by assumption) ?_) | split | dsimp only
    | with_reducible apply State.canonicalSnd_mk | with_reducible refine State.canonical_mk ?_

theorem State.canonical_vxCvtRun {s : State} {y : VxRun} (hs : s.Canonical) :
    State.CanonicalSnd (State.vxCvtRun s y) := by
  rw [show @State.vxCvtRun = _ from by delta State.vxCvtRun; exact rfl]
  repeat' first
    | with_reducible assumption | (intro _) | with_reducible apply State.canonical_roundEach
    | with_reducible apply State.canonical_readCodebook | with_reducible apply State.canonical_vxElems
    | with_reducible apply State.canonical_vxScales | with_reducible apply State.canonical_ite
    | with_reducible apply State.canonicalSnd_ite | with_reducible (refine State.canonical_of_pair (by assumption) ?_)
    | with_reducible apply State.canonical_snd | split | dsimp only | with_reducible apply State.canonicalSnd_mk
    | with_reducible refine State.canonical_mk ?_

theorem State.canonical_vxCstoreRun {s : State} {y : VxRun} (hs : s.Canonical) :
    State.CanonicalSnd (State.vxCstoreRun s y) := by
  rw [show @State.vxCstoreRun = _ from by delta State.vxCstoreRun; exact rfl]
  repeat' first
    | with_reducible assumption | (intro _) | with_reducible apply State.canonical_bump64
    | with_reducible apply State.canonical_take | with_reducible apply State.canonical_vxElems
    | with_reducible apply State.canonical_ite | with_reducible apply State.canonicalSnd_ite
    | with_reducible (refine State.canonical_of_pair (by assumption) ?_) | with_reducible apply State.canonical_snd | split
    | dsimp only | with_reducible apply State.canonicalSnd_mk | with_reducible refine State.canonical_mk ?_

theorem State.canonical_reduceRow {s : State} {sub : Nat} {l : List Val} (hs : s.Canonical) :
    State.CanonicalSnd (State.reduceRow s sub l) := by
  rw [show @State.reduceRow = _ from by delta State.reduceRow; exact rfl]
  repeat' first
    | with_reducible assumption | with_reducible apply State.canonical_accumulate | split | dsimp only
    | with_reducible apply State.canonicalSnd_mk | with_reducible refine State.canonical_mk ?_

theorem State.canonical_vxRows {α : Type} {s : State} {y : VxRun} {f : Nat → List Val → State → α × State} (hs : s.Canonical) (hf : ∀ x0 x1 x2, x2.Canonical → State.CanonicalSnd (f x0 x1 x2)) :
    State.CanonicalSnd (State.vxRows s y f) := by
  rw [show @State.vxRows = _ from by delta State.vxRows; exact rfl]
  repeat' first
    | with_reducible assumption | with_reducible exact State.canonical_of_mk (by assumption) | (intro _)
    | with_reducible apply hf | with_reducible apply State.canonical_vxElems | with_reducible apply State.canonicalSnd_foldl
    | with_reducible (refine State.canonical_of_pair (by assumption) ?_) | split | dsimp only
    | with_reducible apply State.canonicalSnd_mk | with_reducible refine State.canonical_mk ?_

theorem State.canonical_vxRedRun {s : State} {y : VxRun} (hs : s.Canonical) :
    State.CanonicalSnd (State.vxRedRun s y) := by
  rw [show @State.vxRedRun = _ from by delta State.vxRedRun; exact rfl]
  repeat' first
    | with_reducible assumption | (intro _) | with_reducible apply State.canonical_reduceRow
    | with_reducible apply State.canonical_vxRows | with_reducible apply State.canonical_ite
    | with_reducible apply State.canonicalSnd_ite | with_reducible (refine State.canonical_of_pair (by assumption) ?_)
    | with_reducible apply State.canonical_snd | split | dsimp only | with_reducible apply State.canonicalSnd_mk
    | with_reducible refine State.canonical_mk ?_

theorem State.canonical_rowStats {s : State} {xs : List Val} (hs : s.Canonical) :
    State.CanonicalSnd (State.rowStats s xs) := by
  rw [show @State.rowStats = _ from by delta State.rowStats; exact rfl]
  repeat' first
    | with_reducible assumption | (intro _) | with_reducible apply State.canonical_draw
    | with_reducible apply State.canonical_accumulate | with_reducible apply State.canonical_ite
    | with_reducible apply State.canonicalSnd_ite | with_reducible (refine State.canonical_of_pair (by assumption) ?_)
    | with_reducible apply State.canonical_snd | split | dsimp only | with_reducible apply State.canonicalSnd_mk

theorem State.canonical_vxRstatRun {s : State} {y : VxRun} (hs : s.Canonical) :
    State.CanonicalSnd (State.vxRstatRun s y) := by
  rw [show @State.vxRstatRun = _ from by delta State.vxRstatRun; exact rfl]
  repeat' first
    | with_reducible assumption | (intro _) | with_reducible apply State.canonical_vxRows
    | with_reducible apply State.canonical_rowStats | with_reducible (refine State.canonical_of_pair (by assumption) ?_)
    | with_reducible apply State.canonical_snd | split | dsimp only | with_reducible apply State.canonicalSnd_mk
    | with_reducible refine State.canonical_mk ?_

theorem State.canonical_rmsFactor {s : State} {sumsq : Val} {n : Nat} {eps : Nat} {e : Int} (hs : s.Canonical) :
    State.CanonicalSnd (State.rmsFactor s sumsq n eps e) := by
  rw [show @State.rmsFactor = _ from by delta State.rmsFactor; exact rfl]
  repeat' first
    | with_reducible assumption | with_reducible apply State.canonical_drawUnit | with_reducible apply State.canonical_ite
    | with_reducible apply State.canonicalSnd_ite | with_reducible (refine State.canonical_of_pair (by assumption) ?_)
    | with_reducible apply State.canonical_snd | split | dsimp only | with_reducible apply State.canonicalSnd_mk
    | with_reducible refine State.canonical_mk ?_

theorem State.canonical_rmsRow {s : State} {w : Word64} {gain xs : List Val} (hs : s.Canonical) :
    State.CanonicalSnd (State.rmsRow s w gain xs) := by
  rw [show @State.rmsRow = _ from by delta State.rmsRow; exact rfl]
  repeat' first
    | with_reducible assumption | (intro _) | with_reducible apply State.canonical_rowStats
    | with_reducible apply State.canonical_rmsFactor | with_reducible apply State.canonical_ite
    | with_reducible apply State.canonicalSnd_ite | with_reducible (refine State.canonical_of_pair (by assumption) ?_)
    | with_reducible apply State.canonical_snd | split | dsimp only | with_reducible apply State.canonicalSnd_mk

theorem State.canonical_roundRows {s : State} {y : VxRun} {y0 : List (List Val)} (hs : s.Canonical) :
    State.CanonicalSnd (State.roundRows s y y0) := by
  induction y0 generalizing s y hs with
  | nil =>
    unfold State.roundRows
    repeat' first
      | with_reducible assumption | with_reducible apply State.canonical_roundEach
      | with_reducible (refine State.canonical_of_pair (by assumption) ?_) | with_reducible apply State.canonical_snd | split
      | dsimp only | with_reducible apply State.canonicalSnd_mk
  | cons b l ih =>
    unfold State.roundRows
    repeat' first
      | with_reducible assumption | (apply ih <;> with_reducible assumption) | with_reducible apply ih
      | with_reducible apply State.canonical_roundEach | with_reducible (refine State.canonical_of_pair (by assumption) ?_)
      | with_reducible apply State.canonical_snd | split | dsimp only | with_reducible apply State.canonicalSnd_mk

theorem State.canonical_vxRmsnRun {s : State} {y : VxRun} (hs : s.Canonical) :
    State.CanonicalSnd (State.vxRmsnRun s y) := by
  rw [show @State.vxRmsnRun = _ from by delta State.vxRmsnRun; exact rfl]
  repeat' first
    | with_reducible assumption | (intro _) | with_reducible apply State.canonical_vxElems
    | with_reducible apply State.canonical_vxRows | with_reducible apply State.canonical_rmsRow
    | with_reducible apply State.canonical_roundRows | with_reducible apply State.canonical_ite
    | with_reducible apply State.canonicalSnd_ite | with_reducible (refine State.canonical_of_pair (by assumption) ?_)
    | with_reducible apply State.canonical_snd | split | dsimp only | with_reducible apply State.canonicalSnd_mk
    | with_reducible refine State.canonical_mk ?_

theorem State.canonical_smaxRow {s : State} {T : FnTable} {xs : List Val} (hs : s.Canonical) :
    State.CanonicalSnd (State.smaxRow s T xs) := by
  rw [show @State.smaxRow = _ from by delta State.smaxRow; exact rfl]
  repeat' first
    | with_reducible assumption | with_reducible apply State.canonical_accumulate | with_reducible apply State.canonicalSnd_ite
    | with_reducible apply State.canonical_snd | split | dsimp only | with_reducible apply State.canonicalSnd_mk

theorem State.canonical_vxSmaxRun {s : State} {y : VxRun} (hs : s.Canonical) :
    State.CanonicalSnd (State.vxSmaxRun s y) := by
  rw [show @State.vxSmaxRun = _ from by delta State.vxSmaxRun; exact rfl]
  repeat' first
    | with_reducible assumption | (intro _) | with_reducible apply State.canonical_vxRows
    | with_reducible apply State.canonical_roundRows | with_reducible apply State.canonical_smaxRow
    | with_reducible (refine State.canonical_of_pair (by assumption) ?_) | with_reducible apply State.canonical_snd | split
    | dsimp only | with_reducible apply State.canonicalSnd_mk | with_reducible refine State.canonical_mk ?_

theorem State.canonical_vxFnRun {s : State} {y : VxRun} (hs : s.Canonical) :
    State.CanonicalSnd (State.vxFnRun s y) := by
  rw [show @State.vxFnRun = _ from by delta State.vxFnRun; exact rfl]
  repeat' first
    | with_reducible assumption | (intro _) | with_reducible apply State.canonical_roundEach
    | with_reducible apply State.canonical_vxElems | with_reducible (refine State.canonical_of_pair (by assumption) ?_)
    | with_reducible apply State.canonical_snd | split | dsimp only | with_reducible apply State.canonicalSnd_mk
    | with_reducible refine State.canonical_mk ?_

theorem State.canonical_vxCompute {s : State} {y : VxRun} (hs : s.Canonical) :
    State.CanonicalSnd (State.vxCompute s y) := by
  rw [show @State.vxCompute = _ from by delta State.vxCompute; exact rfl]
  repeat' first
    | with_reducible assumption | with_reducible apply State.canonical_vxElementwise
    | with_reducible apply State.canonical_vxCmpRun | with_reducible apply State.canonical_vxSelRun
    | with_reducible apply State.canonical_vxCvtRun | with_reducible apply State.canonical_vxCstoreRun
    | with_reducible apply State.canonical_vxRedRun | with_reducible apply State.canonical_vxRstatRun
    | with_reducible apply State.canonical_vxRmsnRun | with_reducible apply State.canonical_vxSmaxRun
    | with_reducible apply State.canonical_vxFnRun | with_reducible apply State.canonicalSnd_ite | split | dsimp only

theorem State.canonical_freeWrites {s : State} {y0 : List (Nat × List Byte)} (hs : s.Canonical) :
    State.CanonicalSnd (State.freeWrites s y0) := by
  induction y0 generalizing s hs with
  | nil =>
    unfold State.freeWrites
    repeat' first
      | with_reducible assumption | with_reducible apply State.canonical_drawBytes
      | with_reducible (refine State.canonical_of_pair (by assumption) ?_) | split | dsimp only
      | with_reducible apply State.canonicalSnd_mk
  | cons b l ih =>
    rcases b with ⟨b1, b2⟩
    unfold State.freeWrites
    repeat' first
      | with_reducible assumption | (apply ih <;> with_reducible assumption) | with_reducible apply ih
      | with_reducible apply State.canonical_drawBytes | with_reducible (refine State.canonical_of_pair (by assumption) ?_)
      | split | dsimp only | with_reducible apply State.canonicalSnd_mk

theorem State.canonical_freeSeen {s : State} {f : Nat} {y0 : List Written} (hs : s.Canonical) :
    State.CanonicalSnd (State.freeSeen s f y0) := by
  induction y0 generalizing s f hs with
  | nil =>
    unfold State.freeSeen
    repeat' first
      | with_reducible assumption | with_reducible apply State.canonical_drawCodes
      | with_reducible (refine State.canonical_of_pair (by assumption) ?_) | with_reducible apply State.canonical_snd | split
      | dsimp only | with_reducible apply State.canonicalSnd_mk | with_reducible refine State.canonical_mk ?_
  | cons b l ih =>
    unfold State.freeSeen
    repeat' first
      | with_reducible assumption | (apply ih <;> with_reducible assumption) | with_reducible apply ih
      | with_reducible apply State.canonical_drawCodes | with_reducible (refine State.canonical_of_pair (by assumption) ?_)
      | with_reducible apply State.canonical_snd | split | dsimp only | with_reducible apply State.canonicalSnd_mk
      | with_reducible refine State.canonical_mk ?_

theorem State.canonical_vxCount {s : State} {c : Nat} {w : Word64} {z : VxDone} (hs : s.Canonical) :
    (State.vxCount s c w z).Canonical := by
  rw [show @State.vxCount = _ from by delta State.vxCount; exact rfl]
  repeat' first
    | with_reducible assumption | with_reducible apply State.canonical_fset | with_reducible apply State.canonical_bump
    | with_reducible apply State.canonical_bump64 | with_reducible apply State.canonical_draw
    | with_reducible apply State.canonical_ite | with_reducible apply State.canonical_snd | split | dsimp only

theorem State.canonical_vxWrite {s : State} {y : VxRun} {z : VxDone} (hs : s.Canonical) :
    State.CanonicalSnd (State.vxWrite s y z) := by
  rw [show @State.vxWrite = _ from by delta State.vxWrite; exact rfl]
  repeat' first
    | with_reducible assumption | (intro _) | with_reducible apply State.canonical_raise
    | with_reducible apply State.canonical_engWrites | with_reducible apply State.canonical_watch
    | with_reducible apply State.canonical_freeWrites | with_reducible apply State.canonical_freeSeen
    | with_reducible apply State.canonical_vxCount | with_reducible apply State.canonical_ite
    | with_reducible apply State.canonicalSnd_ite | with_reducible (refine State.canonical_of_pair (by assumption) ?_)
    | with_reducible apply State.canonical_snd | split | dsimp only | with_reducible apply State.canonicalSnd_mk
    | with_reducible refine State.canonical_mk ?_

theorem State.canonical_vxFinish {s : State} {y : VxRun} {z : VxDone} (hs : s.Canonical) :
    (State.vxFinish s y z).Canonical := by
  rw [show @State.vxFinish = _ from by delta State.vxFinish; exact rfl]
  repeat' first
    | with_reducible assumption | with_reducible apply State.canonical_engServed
    | with_reducible apply State.canonical_engFailed | with_reducible apply State.canonical_vxWrite
    | with_reducible (refine State.canonical_of_pair (by assumption) ?_) | with_reducible apply State.canonical_snd | split
    | dsimp only | with_reducible apply State.canonicalSnd_mk | with_reducible refine State.canonical_mk ?_

theorem State.canonical_vxRun {s : State} {o : EngOp} (hs : s.Canonical) :
    (State.vxRun s o).Canonical := by
  rw [show @State.vxRun = _ from by delta State.vxRun; exact rfl]
  repeat' first
    | with_reducible assumption | with_reducible apply State.canonical_engFailed
    | with_reducible apply State.canonical_vxCompute | with_reducible apply State.canonical_vxFinish
    | with_reducible (refine State.canonical_of_pair (by assumption) ?_) | with_reducible apply State.canonical_snd | split
    | dsimp only | with_reducible apply State.canonicalSnd_mk | with_reducible refine State.canonical_mk ?_

theorem State.canonical_vxAdvance {s : State} {c : Nat} (hs : s.Canonical) :
    (State.vxAdvance s c).Canonical := by
  rw [show @State.vxAdvance = _ from by delta State.vxAdvance; exact rfl]
  repeat' first
    | with_reducible assumption | (intro _) | with_reducible apply State.canonical_decodePass
    | with_reducible apply canonical_vxDecoder | with_reducible (refine State.canonical_of_pair (by assumption) ?_)
    | with_reducible apply State.canonical_snd | split | dsimp only

theorem State.canonical_vxStop {s : State} {o : EngOp} (hs : s.Canonical) :
    (State.vxStop s o).Canonical := by
  rw [show @State.vxStop = _ from by delta State.vxStop; exact rfl]
  repeat' first
    | with_reducible assumption | with_reducible apply State.canonical_draw | with_reducible apply State.canonical_vxCompute
    | with_reducible apply State.canonical_vxWrite | with_reducible apply State.canonical_ite
    | with_reducible apply State.canonicalSnd_ite | with_reducible (refine State.canonical_of_pair (by assumption) ?_)
    | with_reducible apply State.canonical_snd | split | dsimp only | with_reducible apply State.canonicalSnd_mk
    | with_reducible refine State.canonical_mk ?_

end Sys2Proof.Machine
end

