-- ==== Sys2Proof/Laws/CanonicalFabric.lean ====
section
/-! SUPPORT. The operations of the exchange, the fabric, groups, the timebase and trace keep the canonical form. -/

set_option linter.unusedTactic false
set_option linter.unreachableTactic false
set_option linter.unusedVariables false
set_option Elab.async false

namespace Sys2Proof.Machine

theorem State.canonical_setHalf {s : State} {h : RxHalf} (hs : s.Canonical) :
    (State.setHalf s h).Canonical := by
  rw [show @State.setHalf = _ from by delta State.setHalf; exact rfl]
  repeat' first
    | with_reducible assumption | split | dsimp only | with_reducible refine State.canonical_mk ?_

theorem State.canonical_freeHalf {s : State} {h : RxHalf} (hs : s.Canonical) :
    (State.freeHalf s h).Canonical := by
  rw [show @State.freeHalf = _ from by delta State.freeHalf; exact rfl]
  repeat' first
    | with_reducible assumption | split | dsimp only | with_reducible refine State.canonical_mk ?_

theorem State.canonical_landRow {s : State} {x n : Nat} {payload : List Byte} (hs : s.Canonical) :
    State.CanonicalSnd (State.landRow s x n payload) := by
  rw [show @State.landRow = _ from by delta State.landRow; exact rfl]
  repeat' first
    | with_reducible assumption | with_reducible apply State.canonical_bump | with_reducible apply State.canonical_bump64
    | with_reducible apply State.canonical_readVa | with_reducible apply State.canonical_writeVa
    | with_reducible apply State.canonical_setHalf | with_reducible apply State.canonicalSnd_ite
    | with_reducible (refine State.canonical_of_pair (by assumption) ?_) | split | dsimp only
    | with_reducible apply State.canonicalSnd_mk | with_reducible refine State.canonical_mk ?_

theorem State.canonical_landMark {s : State} {n dev : Nat} {payload : List Byte} (hs : s.Canonical) :
    State.CanonicalSnd (State.landMark s n dev payload) := by
  rw [show @State.landMark = _ from by delta State.landMark; exact rfl]
  repeat' first
    | with_reducible assumption | with_reducible apply State.canonical_setHalf | with_reducible apply State.canonicalSnd_ite
    | split | dsimp only | with_reducible apply State.canonicalSnd_mk | with_reducible refine State.canonical_mk ?_

theorem State.canonical_batchRaise {s : State} {g epoch strand : Nat} {f : Flags} (hs : s.Canonical) :
    (State.batchRaise s g epoch strand f).Canonical := by
  rw [show @State.batchRaise = _ from by delta State.batchRaise; exact rfl]
  repeat' first
    | with_reducible assumption | with_reducible apply State.canonical_setBatch | with_reducible apply State.canonical_raise
    | with_reducible (refine State.canonical_of_pair (by assumption) ?_) | with_reducible apply State.canonical_snd | split
    | dsimp only | with_reducible refine State.canonical_mk ?_

theorem State.canonical_noteCause {s : State} {g epoch cause : Nat} (hs : s.Canonical) :
    (State.noteCause s g epoch cause).Canonical := by
  rw [show @State.noteCause = _ from by delta State.noteCause; exact rfl]
  repeat' first
    | with_reducible assumption | with_reducible apply State.canonical_setBatch
    | with_reducible (refine State.canonical_of_pair (by assumption) ?_) | with_reducible apply State.canonical_snd | split
    | dsimp only | with_reducible refine State.canonical_mk ?_

theorem State.canonical_waitLocal {s : State} {b : Batch} {type : Nat} {owner : Owner} {payload : List Byte} (hs : s.Canonical) :
    (State.waitLocal s b type owner payload).Canonical := by
  rw [show @State.waitLocal = _ from by delta State.waitLocal; exact rfl]
  repeat' first
    | with_reducible assumption | with_reducible (refine State.canonical_of_pair (by assumption) ?_)
    | with_reducible apply State.canonical_snd | dsimp only | with_reducible refine State.canonical_mk ?_

theorem State.canonical_sendMark {s : State} {b : Batch} {d : Nat} (hs : s.Canonical) :
    (State.sendMark s b d).Canonical := by
  rw [show @State.sendMark = _ from by delta State.sendMark; exact rfl]
  repeat' first
    | with_reducible assumption | with_reducible apply State.canonical_request | with_reducible apply State.canonical_landMark
    | with_reducible apply State.canonical_noteCause | with_reducible apply State.canonical_waitLocal
    | with_reducible apply State.canonical_ite | with_reducible apply State.canonicalSnd_ite
    | with_reducible (refine State.canonical_of_pair (by assumption) ?_) | with_reducible apply State.canonical_snd | split
    | dsimp only | with_reducible apply State.canonicalSnd_mk | with_reducible refine State.canonical_mk ?_

theorem State.canonical_markAll {s : State} {op : Nat} (hs : s.Canonical) :
    (State.markAll s op).Canonical := by
  rw [show @State.markAll = _ from by delta State.markAll; exact rfl]
  repeat' first
    | with_reducible assumption | with_reducible exact State.canonical_of_mk (by assumption) | (intro _)
    | with_reducible apply State.canonical_setBatch | with_reducible apply State.canonical_sendMark
    | with_reducible apply State.canonical_ite | with_reducible apply State.canonicalSnd_ite
    | with_reducible apply State.canonical_foldl | with_reducible apply State.canonicalSnd_foldl
    | with_reducible (refine State.canonical_of_pair (by assumption) ?_) | with_reducible apply State.canonical_snd | split
    | dsimp only | with_reducible refine State.canonical_mk ?_

theorem State.canonical_rtFailed {s : State} {o : EngOp} {code cause : Nat} (hs : s.Canonical) :
    (State.rtFailed s o code cause).Canonical := by
  rw [show @State.rtFailed = _ from by delta State.rtFailed; exact rfl]
  repeat' first
    | with_reducible assumption | with_reducible apply State.canonical_engFailed | with_reducible apply State.canonical_markAll
    | with_reducible (refine State.canonical_of_pair (by assumption) ?_) | with_reducible apply State.canonical_snd | dsimp only

theorem State.canonical_failBatch {s : State} {b : Batch} {code cause : Nat} (hs : s.Canonical) :
    (State.failBatch s b code cause).Canonical := by
  rw [show @State.failBatch = _ from by delta State.failBatch; exact rfl]
  repeat' first
    | with_reducible assumption | with_reducible apply State.canonical_rtFailed
    | with_reducible (refine State.canonical_of_pair (by assumption) ?_) | with_reducible apply State.canonical_snd | split
    | dsimp only | with_reducible refine State.canonical_mk ?_

theorem State.canonical_sendMarks {s : State} {g epoch : Nat} (hs : s.Canonical) :
    (State.sendMarks s g epoch).Canonical := by
  rw [show @State.sendMarks = _ from by delta State.sendMarks; exact rfl]
  repeat' first
    | with_reducible assumption | (intro _) | with_reducible apply State.canonical_markAll
    | with_reducible apply State.canonical_failBatch | with_reducible apply State.canonical_ite
    | with_reducible apply State.canonicalSnd_ite | with_reducible (refine State.canonical_of_pair (by assumption) ?_)
    | with_reducible apply State.canonical_snd | split | dsimp only | with_reducible refine State.canonical_mk ?_

theorem State.canonical_exchangeNak {s : State} {g epoch nak : Nat} (hs : s.Canonical) :
    (State.exchangeNak s g epoch nak).Canonical := by
  rw [show @State.exchangeNak = _ from by delta State.exchangeNak; exact rfl]
  repeat' first
    | with_reducible assumption | with_reducible apply State.canonical_noteCause
    | with_reducible apply State.canonical_sendMarks | with_reducible (refine State.canonical_of_pair (by assumption) ?_)
    | with_reducible apply State.canonical_snd | dsimp only

theorem State.canonical_sumTerms {s : State} {u : Rat} {y0 : List (List Val)} (hs : s.Canonical) :
    State.CanonicalSnd (State.sumTerms s u y0) := by
  induction y0 generalizing s u hs with
  | nil =>
    unfold State.sumTerms
    repeat' first
      | with_reducible assumption | with_reducible apply State.canonical_accumulate
      | with_reducible (refine State.canonical_of_pair (by assumption) ?_) | with_reducible apply State.canonical_snd | split
      | dsimp only | with_reducible apply State.canonicalSnd_mk
  | cons b l ih =>
    unfold State.sumTerms
    repeat' first
      | with_reducible assumption | (apply ih <;> with_reducible assumption) | with_reducible apply ih
      | with_reducible apply State.canonical_accumulate | with_reducible (refine State.canonical_of_pair (by assumption) ?_)
      | with_reducible apply State.canonical_snd | split | dsimp only | with_reducible apply State.canonicalSnd_mk

theorem State.canonical_writeOut {s : State} {b : Batch} {o : EngOp} {t : Nat} {vals : List Val} (hs : s.Canonical) :
    (State.writeOut s b o t vals).Canonical := by
  rw [show @State.writeOut = _ from by delta State.writeOut; exact rfl]
  repeat' first
    | with_reducible assumption | with_reducible apply State.canonical_writeVa | with_reducible apply State.canonical_batchRaise
    | with_reducible apply State.canonical_failBatch | with_reducible (refine State.canonical_of_pair (by assumption) ?_)
    | with_reducible apply State.canonical_snd | split | dsimp only | with_reducible apply State.canonicalSnd_mk
    | with_reducible refine State.canonical_mk ?_

theorem State.canonical_tokenOut_readAll {r : MReq} {n : Nat} {l : List (Nat × Nat)} {s : State} (hs : s.Canonical) :
    State.CanonicalSnd (State.tokenOut.readAll r n l s) := by
  induction l generalizing s with
  | nil => exact hs
  | cons b l ih =>
    rcases b with ⟨va, len⟩
    unfold State.tokenOut.readAll
    split
    · exact State.canonical_of_pair (by assumption) (State.canonical_readVa hs)
    · have h := State.canonical_of_pair (by assumption) (State.canonical_readVa hs)
      split <;> exact State.canonical_of_pair (by assumption) (ih h)

theorem State.canonical_tokenOut {s : State} {b : Batch} {o : EngOp} {t : Nat} (hs : s.Canonical) :
    (State.tokenOut s b o t).Canonical := by
  rw [show @State.tokenOut = _ from by delta State.tokenOut; exact rfl]
  repeat' first
    | with_reducible assumption | (intro _) | with_reducible apply State.canonical_readVa
    | with_reducible apply State.canonical_batchRaise | with_reducible apply State.canonical_failBatch
    | with_reducible apply State.canonical_sumTerms | with_reducible apply State.canonical_writeOut
    | with_reducible apply State.canonical_tokenOut_readAll | with_reducible apply State.canonical_ite
    | with_reducible apply State.canonicalSnd_ite | with_reducible (refine State.canonical_of_pair (by assumption) ?_)
    | with_reducible apply State.canonical_snd | split | dsimp only | with_reducible apply State.canonicalSnd_mk
    | with_reducible refine State.canonical_mk ?_

theorem State.canonical_tokenCheck {s : State} {g epoch t : Nat} (hs : s.Canonical) :
    (State.tokenCheck s g epoch t).Canonical := by
  rw [show @State.tokenCheck = _ from by delta State.tokenCheck; exact rfl]
  repeat' first
    | with_reducible assumption | with_reducible apply State.canonical_tokenOut | with_reducible apply State.canonical_ite
    | split | dsimp only | with_reducible refine State.canonical_mk ?_

theorem State.canonical_combine {s : State} {b : Batch} {o : EngOp} {a : Assign} {row : List Byte} (hs : s.Canonical) :
    (State.combine s b o a row).Canonical := by
  rw [show @State.combine = _ from by delta State.combine; exact rfl]
  repeat' first
    | with_reducible assumption | with_reducible apply State.canonical_readVa | with_reducible apply State.canonical_writeVa
    | with_reducible apply State.canonical_batchRaise | with_reducible apply State.canonical_failBatch
    | with_reducible apply State.canonical_ite | with_reducible apply State.canonicalSnd_ite
    | with_reducible (refine State.canonical_of_pair (by assumption) ?_) | with_reducible apply State.canonical_snd | split
    | dsimp only | with_reducible apply State.canonicalSnd_mk | with_reducible refine State.canonical_mk ?_

theorem State.canonical_rowAnswered {s : State} {t : List Byte} (hs : s.Canonical) :
    (State.rowAnswered s t).Canonical := by
  rw [show @State.rowAnswered = _ from by delta State.rowAnswered; exact rfl]
  repeat' first
    | with_reducible assumption | (intro _) | with_reducible (refine State.canonical_of_pair (by assumption) ?_)
    | with_reducible apply State.canonical_snd | split | dsimp only | with_reducible refine State.canonical_mk ?_

theorem State.canonical_comeBack {s : State} {n : Nat} {t : List Byte} {bytes : Nat} {act : Batch → EngOp → Assign → State → State} (hs : s.Canonical) (hact : ∀ x0 x1 x2 x3, x3.Canonical → (act x0 x1 x2 x3).Canonical) :
    (State.comeBack s n t bytes act).Canonical := by
  rw [show @State.comeBack = _ from by delta State.comeBack; exact rfl]
  repeat' first
    | with_reducible assumption | with_reducible apply hact | with_reducible apply State.canonical_sump
    | with_reducible apply State.canonical_rowAnswered | with_reducible apply State.canonical_ite
    | with_reducible apply State.canonicalSnd_ite | with_reducible (refine State.canonical_of_pair (by assumption) ?_)
    | with_reducible apply State.canonical_snd | split | dsimp only | with_reducible refine State.canonical_mk ?_

theorem State.canonical_resultIn {s : State} {n : Nat} {payload : List Byte} (hs : s.Canonical) :
    (State.resultIn s n payload).Canonical := by
  rw [show @State.resultIn = _ from by delta State.resultIn; exact rfl]
  repeat' first
    | with_reducible assumption | (intro _) | with_reducible apply State.canonical_setBatch
    | with_reducible apply State.canonical_take | with_reducible apply State.canonical_tokenCheck
    | with_reducible apply State.canonical_combine | with_reducible apply State.canonical_comeBack
    | with_reducible (refine State.canonical_of_pair (by assumption) ?_) | with_reducible apply State.canonical_snd | split
    | dsimp only | with_reducible refine State.canonical_mk ?_

theorem State.canonical_dropIn {s : State} {n : Nat} {t : List Byte} (hs : s.Canonical) :
    (State.dropIn s n t).Canonical := by
  rw [show @State.dropIn = _ from by delta State.dropIn; exact rfl]
  repeat' first
    | with_reducible assumption | (intro _) | with_reducible apply State.canonical_bump
    | with_reducible apply State.canonical_writeVa | with_reducible apply State.canonical_setBatch
    | with_reducible apply State.canonical_failBatch | with_reducible apply State.canonical_tokenCheck
    | with_reducible apply State.canonical_comeBack | with_reducible (refine State.canonical_of_pair (by assumption) ?_)
    | with_reducible apply State.canonical_snd | split | dsimp only | with_reducible apply State.canonicalSnd_mk
    | with_reducible refine State.canonical_mk ?_

theorem State.canonical_markSent {s : State} {g epoch token k : Nat} {sent : Bool} (hs : s.Canonical) :
    (State.markSent s g epoch token k sent).Canonical := by
  rw [show @State.markSent = _ from by delta State.markSent; exact rfl]
  repeat' first
    | with_reducible assumption | (intro _) | with_reducible apply State.canonical_setBatch
    | with_reducible (refine State.canonical_of_pair (by assumption) ?_) | with_reducible apply State.canonical_snd | split
    | dsimp only | with_reducible refine State.canonical_mk ?_

theorem State.canonical_rowLooped {s : State} {x n g epoch token k : Nat} {dropped : Bool} {payload : List Byte} (hs : s.Canonical) :
    (State.rowLooped s x n g epoch token k dropped payload).Canonical := by
  rw [show @State.rowLooped = _ from by delta State.rowLooped; exact rfl]
  repeat' first
    | with_reducible assumption | with_reducible apply State.canonical_bump64 | with_reducible apply State.canonical_take
    | with_reducible apply State.canonical_dropIn | with_reducible apply State.canonical_markSent
    | with_reducible apply State.canonical_ite | with_reducible apply State.canonicalSnd_ite
    | with_reducible (refine State.canonical_of_pair (by assumption) ?_) | with_reducible apply State.canonical_snd | split
    | dsimp only

theorem State.canonical_sendRow {s : State} {b : Batch} {o : EngOp} {a : Assign} {row : List Byte} (hs : s.Canonical) :
    (State.sendRow s b o a row).Canonical := by
  rw [show @State.sendRow = _ from by delta State.sendRow; exact rfl]
  repeat' first
    | with_reducible assumption | (intro _) | with_reducible apply State.canonical_bump64
    | with_reducible apply State.canonical_request | with_reducible apply State.canonical_landRow
    | with_reducible apply State.canonical_waitLocal | with_reducible apply State.canonical_exchangeNak
    | with_reducible apply State.canonical_markSent | with_reducible apply State.canonical_rowLooped
    | with_reducible apply State.canonical_ite | with_reducible apply State.canonicalSnd_ite
    | with_reducible (refine State.canonical_of_pair (by assumption) ?_) | with_reducible apply State.canonical_snd | split
    | dsimp only | with_reducible apply State.canonicalSnd_mk | with_reducible refine State.canonical_mk ?_

theorem State.canonical_gcmdEnd {s : State} {n state result : Nat} (hs : s.Canonical) :
    (State.gcmdEnd s n state result).Canonical := by
  rw [show @State.gcmdEnd = _ from by delta State.gcmdEnd; exact rfl]
  repeat' first
    | with_reducible assumption | with_reducible apply State.canonical_fset | dsimp only

theorem State.canonical_gcmdRefuse {s : State} {n result : Nat} (hs : s.Canonical) :
    (State.gcmdRefuse s n result).Canonical := by
  rw [show @State.gcmdRefuse = _ from by delta State.gcmdRefuse; exact rfl]
  repeat' first
    | with_reducible assumption | with_reducible apply State.canonical_gcmdEnd | dsimp only

theorem State.canonical_pruneGraphs {s : State} (hs : s.Canonical) :
    (State.pruneGraphs s).Canonical := by
  rw [show @State.pruneGraphs = _ from by delta State.pruneGraphs; exact rfl]
  repeat' first
    | with_reducible assumption | split | dsimp only | with_reducible refine State.canonical_mk ?_

theorem State.canonical_setGraph {s : State} {n g : Nat} {G : Graph} (hs : s.Canonical) :
    (State.setGraph s n g G).Canonical := by
  rw [show @State.setGraph = _ from by delta State.setGraph; exact rfl]
  repeat' first
    | with_reducible assumption | split | dsimp only | with_reducible refine State.canonical_mk ?_

theorem State.canonical_gcmd {s : State} {n op g : Nat} (hs : s.Canonical) :
    (State.gcmd s n op g).Canonical := by
  rw [show @State.gcmd = _ from by delta State.gcmd; exact rfl]
  repeat' first
    | with_reducible assumption | with_reducible apply State.canonical_fset | with_reducible apply State.canonical_beginCmd
    | with_reducible apply State.canonical_gcmdEnd | with_reducible apply State.canonical_gcmdRefuse
    | with_reducible apply State.canonical_pruneGraphs | with_reducible apply State.canonical_setGraph
    | with_reducible apply State.canonical_ite | split | dsimp only | with_reducible refine State.canonical_mk ?_

theorem State.canonical_graphCreate {s : State} {n : Nat} (hs : s.Canonical) :
    (State.graphCreate s n).Canonical := by
  rw [show @State.graphCreate = _ from by delta State.graphCreate; exact rfl]
  repeat' first
    | with_reducible assumption | with_reducible apply State.canonical_fset | with_reducible apply State.canonical_readVa
    | with_reducible apply State.canonical_writeVa | with_reducible apply State.canonical_gcmdEnd
    | with_reducible apply State.canonical_gcmdRefuse | with_reducible apply State.canonical_pruneGraphs
    | with_reducible apply State.canonical_setGraph | with_reducible apply State.canonical_ite
    | with_reducible (refine State.canonical_of_pair (by assumption) ?_) | split | dsimp only
    | with_reducible refine State.canonical_mk ?_

theorem State.canonical_gcmdRun {s : State} {n op : Nat} {run : State → State} (hs : s.Canonical) (hrun : ∀ x0, x0.Canonical → (run x0).Canonical) :
    (State.gcmdRun s n op run).Canonical := by
  rw [show @State.gcmdRun = _ from by delta State.gcmdRun; exact rfl]
  repeat' first
    | with_reducible assumption | (intro _) | with_reducible apply hrun | with_reducible apply State.canonical_remotely
    | with_reducible apply State.canonical_deliver | with_reducible apply State.canonical_gcmdRefuse
    | with_reducible apply State.canonical_ite | with_reducible apply State.canonicalSnd_ite
    | with_reducible (refine State.canonical_of_pair (by assumption) ?_) | with_reducible apply State.canonical_snd | split
    | dsimp only

theorem State.canonical_patchBuffer {s : State} {n g p off : Nat} {G : Graph} {bufs : List GraphBuf} {buf : GraphBuf} {new : List Byte} (hs : s.Canonical) :
    (State.patchBuffer s n g p off G bufs buf new).Canonical := by
  rw [show @State.patchBuffer = _ from by delta State.patchBuffer; exact rfl]
  repeat' first
    | with_reducible assumption | with_reducible apply State.canonical_fset | with_reducible apply State.canonical_readVa
    | with_reducible apply State.canonical_writeVa | with_reducible apply State.canonical_gcmdEnd
    | with_reducible apply State.canonical_gcmdRefuse | with_reducible apply State.canonical_pruneGraphs
    | with_reducible apply State.canonical_setGraph | with_reducible apply State.canonical_ite
    | with_reducible apply State.canonicalSnd_ite | with_reducible (refine State.canonical_of_pair (by assumption) ?_)
    | with_reducible apply State.canonical_snd | split | dsimp only | with_reducible apply State.canonicalSnd_mk
    | with_reducible refine State.canonical_mk ?_

theorem State.canonical_graphPatch {s : State} {n : Nat} (hs : s.Canonical) :
    (State.graphPatch s n).Canonical := by
  rw [show @State.graphPatch = _ from by delta State.graphPatch; exact rfl]
  repeat' first
    | with_reducible assumption | (intro _) | with_reducible apply State.canonical_readVa
    | with_reducible apply State.canonical_gcmdRefuse | with_reducible apply State.canonical_pruneGraphs
    | with_reducible apply State.canonical_patchBuffer | with_reducible apply State.canonical_ite
    | with_reducible apply State.canonicalSnd_ite | with_reducible (refine State.canonical_of_pair (by assumption) ?_)
    | with_reducible apply State.canonical_snd | split | dsimp only | with_reducible apply State.canonicalSnd_mk
    | with_reducible refine State.canonical_mk ?_

theorem State.canonical_answer {s : State} {port : Nat} {p : Packet} {type : Nat} {payload : List Byte} {arg : Nat} (hs : s.Canonical) :
    (State.answer s port p type payload arg).Canonical := by
  rw [show @State.answer = _ from by delta State.answer; exact rfl]
  repeat' first
    | with_reducible assumption | with_reducible apply State.canonical_putOn | with_reducible apply State.canonical_send
    | with_reducible (refine State.canonical_of_pair (by assumption) ?_) | split | dsimp only
    | with_reducible refine State.canonical_mk ?_

theorem State.canonical_nak {s : State} {port : Nat} {p : Packet} {cause viol : Nat} (hs : s.Canonical) :
    (State.nak s port p cause viol).Canonical := by
  rw [show @State.nak = _ from by delta State.nak; exact rfl]
  repeat' first
    | with_reducible assumption | with_reducible apply State.canonical_bump | with_reducible apply State.canonical_answer
    | dsimp only

theorem State.canonical_engRefused {s : State} {o : EngOp} {cause : Nat} (hs : s.Canonical) :
    (State.engRefused s o cause).Canonical := by
  rw [show @State.engRefused = _ from by delta State.engRefused; exact rfl]
  repeat' first
    | with_reducible assumption | with_reducible apply State.canonical_engFailed | with_reducible apply State.canonical_rtFailed
    | with_reducible apply State.canonical_ite | with_reducible apply State.canonicalSnd_ite
    | with_reducible (refine State.canonical_of_pair (by assumption) ?_) | with_reducible apply State.canonical_snd | split
    | dsimp only

theorem State.canonical_copyRefused {s : State} {k : ItemKey} {cause queue : Nat} (hs : s.Canonical) :
    (State.copyRefused s k cause queue).Canonical := by
  rw [show @State.copyRefused = _ from by delta State.copyRefused; exact rfl]
  repeat' first
    | with_reducible assumption | with_reducible apply State.canonical_fset | with_reducible apply State.canonical_wset
    | with_reducible apply State.canonical_endItem | with_reducible apply State.canonical_ite
    | with_reducible apply State.canonicalSnd_ite | with_reducible (refine State.canonical_of_pair (by assumption) ?_)
    | with_reducible apply State.canonical_snd | split | dsimp only | with_reducible refine State.canonical_mk ?_

theorem State.canonical_ownerFail {s : State} {o : Owner} {cause : Nat} {queue : Nat} (hs : s.Canonical) :
    (State.ownerFail s o cause queue).Canonical := by
  rw [show @State.ownerFail = _ from by delta State.ownerFail; exact rfl]
  repeat' first
    | with_reducible assumption | with_reducible apply State.canonical_wset | with_reducible apply State.canonical_forget
    | with_reducible apply State.canonical_qcmdRefuse | with_reducible apply State.canonical_fetchFailed
    | with_reducible apply State.canonical_remoteFail | with_reducible apply State.canonical_refuseWrite
    | with_reducible apply State.canonical_exchangeNak | with_reducible apply State.canonical_gcmdRefuse
    | with_reducible apply State.canonical_engRefused | with_reducible apply State.canonical_copyRefused
    | with_reducible apply State.canonical_ite | with_reducible apply State.canonicalSnd_ite
    | with_reducible (refine State.canonical_of_pair (by assumption) ?_) | with_reducible apply State.canonical_snd | split
    | dsimp only | with_reducible refine State.canonical_mk ?_

theorem State.canonical_recordRefusal {s : State} {o : Outstanding} {cause : Nat} (hs : s.Canonical) :
    (State.recordRefusal s o cause).Canonical := by
  rw [show @State.recordRefusal = _ from by delta State.recordRefusal; exact rfl]
  repeat' first
    | with_reducible assumption | with_reducible apply State.canonical_recordFault
    | with_reducible (refine State.canonical_of_pair (by assumption) ?_) | with_reducible apply State.canonical_snd | split
    | dsimp only | with_reducible refine State.canonical_mk ?_

theorem State.canonical_takeOut {s : State} {txn dst : Nat} (hs : s.Canonical) :
    State.CanonicalSnd (State.takeOut s txn dst) := by
  rw [show @State.takeOut = _ from by delta State.takeOut; exact rfl]
  repeat' first
    | with_reducible assumption | split | dsimp only | with_reducible apply State.canonicalSnd_mk
    | with_reducible refine State.canonical_mk ?_

theorem State.canonical_refuseArrivals {s : State} {p : Arrival → Bool} {cause : Nat} (hs : s.Canonical) :
    (State.refuseArrivals s p cause).Canonical := by
  rw [show @State.refuseArrivals = _ from by delta State.refuseArrivals; exact rfl]
  repeat' first
    | with_reducible assumption | (intro _) | with_reducible apply State.canonical_failStrand
    | with_reducible apply State.canonical_ite | with_reducible apply State.canonical_foldl | split | dsimp only
    | with_reducible refine State.canonical_mk ?_

theorem State.canonical_requestFails {s : State} {txn dst cause : Nat} (hs : s.Canonical) :
    (State.requestFails s txn dst cause).Canonical := by
  rw [show @State.requestFails = _ from by delta State.requestFails; exact rfl]
  repeat' first
    | with_reducible assumption | (intro _) | with_reducible apply State.canonical_ownerFail
    | with_reducible apply State.canonical_recordRefusal | with_reducible apply State.canonical_takeOut
    | with_reducible apply State.canonical_refuseArrivals | with_reducible (refine State.canonical_of_pair (by assumption) ?_)
    | with_reducible apply State.canonical_snd | split | dsimp only | with_reducible apply State.canonicalSnd_mk
    | with_reducible refine State.canonical_mk ?_

theorem State.canonical_unreachable {s : State} {port : Nat} {p : Packet} (hs : s.Canonical) :
    (State.unreachable s port p).Canonical := by
  rw [show @State.unreachable = _ from by delta State.unreachable; exact rfl]
  repeat' first
    | with_reducible assumption | with_reducible apply State.canonical_nak | with_reducible apply State.canonical_requestFails
    | with_reducible apply State.canonical_ite | split | dsimp only

theorem State.canonical_refreshPort {s : State} {p : Nat} (hs : s.Canonical) :
    (State.refreshPort s p).Canonical := by
  rw [show @State.refreshPort = _ from by delta State.refreshPort; exact rfl]
  repeat' first
    | with_reducible assumption | with_reducible apply State.canonical_fset | with_reducible apply State.canonical_ite | split
    | dsimp only

theorem State.canonical_laneOut {s : State} {l state : Nat} (hs : s.Canonical) :
    (State.laneOut s l state).Canonical := by
  rw [show @State.laneOut = _ from by delta State.laneOut; exact rfl]
  repeat' first
    | with_reducible assumption | with_reducible apply State.canonical_fset | with_reducible apply State.canonical_refreshPort
    | split | dsimp only

theorem State.canonical_resend {s : State} {port : Nat} {p : Packet} (hs : s.Canonical) :
    (State.resend s port p).Canonical := by
  rw [show @State.resend = _ from by delta State.resend; exact rfl]
  repeat' first
    | with_reducible assumption | with_reducible apply State.canonical_putOn | with_reducible apply State.canonical_unreachable
    | with_reducible apply State.canonical_ite | split | dsimp only | with_reducible refine State.canonical_mk ?_

theorem State.canonical_flow {s : State} (hs : s.Canonical) :
    (State.flow s).Canonical := by
  rw [show @State.flow = _ from by delta State.flow; exact rfl]
  repeat' first
    | with_reducible assumption | (intro _) | with_reducible apply State.canonical_setLane
    | with_reducible apply State.canonical_resend | with_reducible apply State.canonical_foldl | split | dsimp only
    | with_reducible refine State.canonical_mk ?_

theorem State.canonical_trainLane {s : State} {l : Nat} (hs : s.Canonical) :
    (State.trainLane s l).Canonical := by
  rw [show @State.trainLane = _ from by delta State.trainLane; exact rfl]
  repeat' first
    | with_reducible assumption | with_reducible apply State.canonical_setLane | with_reducible apply State.canonical_laneOut
    | with_reducible apply State.canonical_flow | with_reducible apply State.canonical_ite | split | dsimp only
    | with_reducible refine State.canonical_mk ?_

theorem State.canonical_setWindow {s : State} {p count start : Nat} (hs : s.Canonical) :
    (State.setWindow s p count start).Canonical := by
  rw [show @State.setWindow = _ from by delta State.setWindow; exact rfl]
  repeat' first
    | with_reducible assumption | split | dsimp only | with_reducible refine State.canonical_mk ?_

theorem State.canonical_violate {s : State} {port cause : Nat} {p : Packet} (hs : s.Canonical) :
    (State.violate s port cause p).Canonical := by
  rw [show @State.violate = _ from by delta State.violate; exact rfl]
  repeat' first
    | with_reducible assumption | with_reducible apply State.canonical_fset | with_reducible apply State.canonical_wset
    | with_reducible apply State.canonical_bump | with_reducible apply State.canonical_nak
    | with_reducible apply State.canonical_flow | with_reducible apply State.canonical_setWindow
    | with_reducible apply State.canonical_ite | split | dsimp only

theorem State.canonical_acceptOn {s : State} {l : Nat} {p : Packet} (hs : s.Canonical) :
    (State.acceptOn s l p).Canonical := by
  rw [show @State.acceptOn = _ from by delta State.acceptOn; exact rfl]
  repeat' first
    | with_reducible assumption | with_reducible apply State.canonical_bump64 | with_reducible apply State.canonical_setLane
    | with_reducible apply State.canonical_sendLink | split | dsimp only | with_reducible refine State.canonical_mk ?_

theorem State.canonical_arrive {s : State} {l : Nat} {p : Packet} {type : Nat} {act : State → State} (hs : s.Canonical) (hact : ∀ x0, x0.Canonical → (act x0).Canonical) :
    (State.arrive s l p type act).Canonical := by
  rw [show @State.arrive = _ from by delta State.arrive; exact rfl]
  repeat' first
    | with_reducible assumption | with_reducible apply hact | with_reducible apply State.canonical_bump
    | with_reducible apply State.canonical_deliver | with_reducible apply State.canonical_violate
    | with_reducible apply State.canonical_acceptOn | with_reducible apply State.canonical_ite
    | with_reducible apply State.canonicalSnd_ite | with_reducible (refine State.canonical_of_pair (by assumption) ?_)
    | with_reducible apply State.canonical_snd | split | dsimp only | with_reducible refine State.canonical_mk ?_

theorem State.canonical_e2eFail {s : State} {l : Nat} (hs : s.Canonical) :
    (State.e2eFail s l).Canonical := by
  rw [show @State.e2eFail = _ from by delta State.e2eFail; exact rfl]
  repeat' first
    | with_reducible assumption | with_reducible apply State.canonical_bump | with_reducible apply State.canonical_report
    | dsimp only

theorem State.canonical_refreshStreams {s : State} (hs : s.Canonical) :
    (State.refreshStreams s).Canonical := by
  rw [show @State.refreshStreams = _ from by delta State.refreshStreams; exact rfl]
  repeat' first
    | with_reducible assumption | with_reducible apply State.canonical_fset | split | dsimp only

theorem State.canonical_setStream {s : State} {x : TargetStream} (hs : s.Canonical) :
    (State.setStream s x).Canonical := by
  rw [show @State.setStream = _ from by delta State.setStream; exact rfl]
  repeat' first
    | with_reducible assumption | with_reducible apply State.canonical_refreshStreams | split | dsimp only
    | with_reducible refine State.canonical_mk ?_

theorem State.canonical_discardClose {s : State} {h : HeldClose} {cause : Nat} (hs : s.Canonical) :
    (State.discardClose s h cause).Canonical := by
  rw [show @State.discardClose = _ from by delta State.discardClose; exact rfl]
  repeat' first
    | with_reducible assumption | with_reducible apply State.canonical_bump | with_reducible apply State.canonical_nak
    | with_reducible apply State.canonical_setStream | dsimp only

theorem State.canonical_countWrite {s : State} {p : Packet} {refused : Bool} (hs : s.Canonical) :
    (State.countWrite s p refused).Canonical := by
  rw [show @State.countWrite = _ from by delta State.countWrite; exact rfl]
  repeat' first
    | with_reducible assumption | with_reducible apply State.canonical_setStream
    | with_reducible apply State.canonical_discardClose | with_reducible apply State.canonical_ite | split | dsimp only
    | with_reducible refine State.canonical_mk ?_

theorem State.canonical_dropStreams {s : State} {n : Nat} (hs : s.Canonical) :
    (State.dropStreams s n).Canonical := by
  rw [show @State.dropStreams = _ from by delta State.dropStreams; exact rfl]
  repeat' first
    | with_reducible assumption | (intro _) | with_reducible apply State.canonical_refreshStreams
    | with_reducible apply State.canonical_discardClose | with_reducible apply State.canonical_foldl | split | dsimp only
    | with_reducible refine State.canonical_mk ?_

theorem State.canonical_readTarget {s : State} {y0 : List (Nat × Nat)} (hs : s.Canonical) :
    State.CanonicalSnd (State.readTarget s y0) := by
  induction y0 generalizing s hs with
  | nil =>
    unfold State.readTarget
    repeat' first
      | with_reducible assumption | with_reducible apply State.canonical_readLine
      | with_reducible (refine State.canonical_of_pair (by assumption) ?_) | split | dsimp only
      | with_reducible apply State.canonicalSnd_mk | with_reducible refine State.canonical_mk ?_
  | cons b l ih =>
    rcases b with ⟨b1, b2⟩
    unfold State.readTarget
    repeat' first
      | with_reducible assumption | (apply ih <;> with_reducible assumption) | with_reducible apply ih
      | with_reducible apply State.canonical_readLine | with_reducible (refine State.canonical_of_pair (by assumption) ?_)
      | split | dsimp only | with_reducible apply State.canonicalSnd_mk | with_reducible refine State.canonical_mk ?_

theorem State.canonical_writeTarget {s : State} {y0 : List (Nat × Nat)} {y1 : List Byte} (hs : s.Canonical) :
    (State.writeTarget s y0 y1).Canonical := by
  induction y0 generalizing s y1 hs with
  | nil =>
    unfold State.writeTarget
    repeat' first
      | with_reducible assumption | with_reducible apply State.canonical_writeLine | with_reducible apply State.canonical_snd
      | split | dsimp only
  | cons b l ih =>
    rcases b with ⟨b1, b2⟩
    unfold State.writeTarget
    repeat' first
      | with_reducible assumption | (apply ih <;> with_reducible assumption) | with_reducible apply ih
      | with_reducible apply State.canonical_writeLine | with_reducible apply State.canonical_snd | split | dsimp only

theorem State.canonical_judge0 {s : State} {l : Nat} {p : Packet} {len : Nat} {wr addrOk : Bool} {ev : CellEvent} {act : State → State} (hs : s.Canonical) (hact : ∀ x0, x0.Canonical → (act x0).Canonical) :
    (State.judge0 s l p len wr addrOk ev act).Canonical := by
  rw [show @State.judge0 = _ from by delta State.judge0; exact rfl]
  repeat' first
    | with_reducible assumption | with_reducible apply hact | with_reducible apply State.canonical_cellEvent
    | with_reducible apply State.canonical_nak | with_reducible apply State.canonical_violate
    | with_reducible apply State.canonical_e2eFail | with_reducible apply State.canonical_countWrite
    | with_reducible apply State.canonical_ite | split | dsimp only | with_reducible refine State.canonical_mk ?_

theorem State.canonical_closeRecord {s : State} {p : Packet} (hs : s.Canonical) :
    (State.closeRecord s p).Canonical := by
  rw [show @State.closeRecord = _ from by delta State.closeRecord; exact rfl]
  repeat' first
    | with_reducible assumption | with_reducible apply State.canonical_ite | split | dsimp only
    | with_reducible refine State.canonical_mk ?_

theorem State.canonical_abandon {s : State} {o : Owner} (hs : s.Canonical) :
    (State.abandon s o).Canonical := by
  rw [show @State.abandon = _ from by delta State.abandon; exact rfl]
  repeat' first
    | with_reducible assumption | with_reducible apply State.canonical_settle | with_reducible apply State.canonical_sweep
    | with_reducible apply State.canonical_dropOp | with_reducible apply State.canonical_engAcked
    | with_reducible (refine State.canonical_of_pair (by assumption) ?_) | with_reducible apply State.canonical_snd | split
    | dsimp only | with_reducible refine State.canonical_mk ?_

theorem State.canonical_swallow {s : State} {p : Packet} (hs : s.Canonical) :
    (State.swallow s p).Canonical := by
  rw [show @State.swallow = _ from by delta State.swallow; exact rfl]
  repeat' first
    | with_reducible assumption | with_reducible apply State.canonical_bump | with_reducible apply State.canonical_bump64
    | with_reducible apply State.canonical_takeOut | with_reducible apply State.canonical_abandon
    | with_reducible (refine State.canonical_of_pair (by assumption) ?_) | split | dsimp only
    | with_reducible refine State.canonical_mk ?_

theorem State.canonical_modOut {s : State} {txn dst : Nat} {f : Outstanding → Outstanding} (hs : s.Canonical) :
    (State.modOut s txn dst f).Canonical := by
  rw [show @State.modOut = _ from by delta State.modOut; exact rfl]
  repeat' first
    | with_reducible assumption | split | dsimp only | with_reducible refine State.canonical_mk ?_

theorem State.canonical_resendOnce {s : State} {o : Outstanding} {f : Outstanding → Outstanding} (hs : s.Canonical) :
    (State.resendOnce s o f).Canonical := by
  rw [show @State.resendOnce = _ from by delta State.resendOnce; exact rfl]
  repeat' first
    | with_reducible assumption | with_reducible apply State.canonical_send | with_reducible apply State.canonical_requestFails
    | with_reducible apply State.canonical_modOut | with_reducible (refine State.canonical_of_pair (by assumption) ?_) | split
    | dsimp only | with_reducible refine State.canonical_mk ?_

theorem State.canonical_answerTo {s : State} {l : Nat} {p : Packet} {asks : List Nat} {act : Outstanding → State → State} (hs : s.Canonical) (hact : ∀ x0 x1, x1.Canonical → (act x0 x1).Canonical) :
    (State.answerTo s l p asks act).Canonical := by
  rw [show @State.answerTo = _ from by delta State.answerTo; exact rfl]
  repeat' first
    | with_reducible assumption | with_reducible apply hact | with_reducible apply State.canonical_takeOut
    | with_reducible apply State.canonical_requestFails | with_reducible apply State.canonical_violate
    | with_reducible apply State.canonical_e2eFail | with_reducible apply State.canonical_swallow
    | with_reducible apply State.canonical_resendOnce | with_reducible apply State.canonical_ite
    | with_reducible apply State.canonical_snd | split | dsimp only | with_reducible refine State.canonical_mk ?_

theorem State.canonical_ownerDone {s : State} {o : Owner} {data : List Byte} (hs : s.Canonical) :
    (State.ownerDone s o data).Canonical := by
  rw [show @State.ownerDone = _ from by delta State.ownerDone; exact rfl]
  repeat' first
    | with_reducible assumption | with_reducible apply State.canonical_remoteDone | with_reducible apply State.canonical_abandon
    | with_reducible (refine State.canonical_of_pair (by assumption) ?_) | with_reducible apply State.canonical_snd | split
    | dsimp only | with_reducible refine State.canonical_mk ?_

theorem State.canonical_readDone {s : State} {x : Outstanding} {data : List Byte} (hs : s.Canonical) :
    (State.readDone s x data).Canonical := by
  rw [show @State.readDone = _ from by delta State.readDone; exact rfl]
  repeat' first
    | with_reducible assumption | with_reducible apply State.canonical_keepFetched
    | with_reducible apply State.canonical_remoteDone | with_reducible apply State.canonical_abandon
    | with_reducible apply State.canonical_ite | with_reducible apply State.canonicalSnd_ite
    | with_reducible (refine State.canonical_of_pair (by assumption) ?_) | with_reducible apply State.canonical_snd | split
    | dsimp only | with_reducible refine State.canonical_mk ?_

theorem State.canonical_countXceNak {s : State} {p : Packet} {cause : Nat} (hs : s.Canonical) :
    (State.countXceNak s p cause).Canonical := by
  rw [show @State.countXceNak = _ from by delta State.countXceNak; exact rfl]
  repeat' first
    | with_reducible assumption | with_reducible apply State.canonical_wset | with_reducible apply State.canonical_bump
    | with_reducible apply State.canonical_ite | with_reducible apply State.canonicalSnd_ite
    | with_reducible (refine State.canonical_of_pair (by assumption) ?_) | with_reducible apply State.canonical_snd | split
    | dsimp only

theorem State.canonical_unsend {s : State} {o : Owner} (hs : s.Canonical) :
    (State.unsend s o).Canonical := by
  rw [show @State.unsend = _ from by delta State.unsend; exact rfl]
  repeat' first
    | with_reducible assumption | with_reducible apply State.canonical_markSent | with_reducible apply State.canonical_ite
    | with_reducible apply State.canonicalSnd_ite | with_reducible (refine State.canonical_of_pair (by assumption) ?_)
    | with_reducible apply State.canonical_snd | split | dsimp only | with_reducible refine State.canonical_mk ?_

theorem State.canonical_countRetry {s : State} {o : Outstanding} (hs : s.Canonical) :
    (State.countRetry s o).Canonical := by
  rw [show @State.countRetry = _ from by delta State.countRetry; exact rfl]
  repeat' first
    | with_reducible assumption | with_reducible apply State.canonical_bump | split | dsimp only
    | with_reducible refine State.canonical_mk ?_

theorem State.canonical_retryLocal {s : State} {o : Outstanding} (hs : s.Canonical) :
    (State.retryLocal s o).Canonical := by
  rw [show @State.retryLocal = _ from by delta State.retryLocal; exact rfl]
  repeat' first
    | with_reducible assumption | (intro _) | with_reducible apply State.canonical_landRow
    | with_reducible apply State.canonical_landMark | with_reducible apply State.canonical_sendMarks
    | with_reducible apply State.canonical_exchangeNak | with_reducible apply State.canonical_rowLooped
    | with_reducible apply State.canonical_takeOut | with_reducible apply State.canonical_modOut
    | with_reducible apply State.canonical_ite | with_reducible apply State.canonicalSnd_ite
    | with_reducible (refine State.canonical_of_pair (by assumption) ?_) | with_reducible apply State.canonical_snd | split
    | dsimp only | with_reducible apply State.canonicalSnd_mk | with_reducible refine State.canonical_mk ?_

theorem State.canonical_hopDrop {s : State} {port : Nat} {p : Packet} (hs : s.Canonical) :
    (State.hopDrop s port p).Canonical := by
  rw [show @State.hopDrop = _ from by delta State.hopDrop; exact rfl]
  repeat' first
    | with_reducible assumption | with_reducible apply State.canonical_bump | with_reducible apply State.canonical_nak
    | with_reducible apply State.canonical_ite | split | dsimp only

theorem State.canonical_tokenScores {s : State} {b : List Byte} {T : FnTable} {logits : List Val} (hs : s.Canonical) :
    State.CanonicalSnd (State.tokenScores s b T logits) := by
  rw [show @State.tokenScores = _ from by delta State.tokenScores; exact rfl]
  repeat' first
    | with_reducible assumption | with_reducible apply State.canonical_smaxRow
    | with_reducible (refine State.canonical_of_pair (by assumption) ?_) | with_reducible apply State.canonical_snd | split
    | dsimp only | with_reducible apply State.canonicalSnd_mk | with_reducible refine State.canonical_mk ?_

theorem State.canonical_allScores {s : State} {b : List Byte} {T : FnTable} {y0 : List (List Val)} (hs : s.Canonical) :
    State.CanonicalSnd (State.allScores s b T y0) := by
  induction y0 generalizing s b T hs with
  | nil =>
    unfold State.allScores
    repeat' first
      | with_reducible assumption | with_reducible apply State.canonical_tokenScores
      | with_reducible (refine State.canonical_of_pair (by assumption) ?_) | with_reducible apply State.canonical_snd | split
      | dsimp only | with_reducible apply State.canonicalSnd_mk
  | cons b l ih =>
    unfold State.allScores
    repeat' first
      | with_reducible assumption | (apply ih <;> with_reducible assumption) | with_reducible apply ih
      | with_reducible apply State.canonical_tokenScores | with_reducible (refine State.canonical_of_pair (by assumption) ?_)
      | with_reducible apply State.canonical_snd | split | dsimp only | with_reducible apply State.canonicalSnd_mk

theorem State.canonical_selRecord {s : State} {l : List Assign} (hs : s.Canonical) :
    State.CanonicalSnd (State.selRecord s l) := by
  rw [show @State.selRecord = _ from by delta State.selRecord; exact rfl]
  repeat' first
    | with_reducible assumption | with_reducible exact State.canonical_of_mk (by assumption) | (intro _)
    | with_reducible apply State.canonical_drawBytes | with_reducible apply State.canonicalSnd_foldl
    | with_reducible (refine State.canonical_of_pair (by assumption) ?_) | split | dsimp only
    | with_reducible apply State.canonicalSnd_mk | with_reducible refine State.canonical_mk ?_

theorem State.canonical_sendRows {s : State} {b : Batch} {o : EngOp} {tokens width : Nat} {y0 : List Assign} (hs : s.Canonical) :
    (State.sendRows s b o tokens width y0).Canonical := by
  induction y0 generalizing s b o tokens width hs with
  | nil =>
    unfold State.sendRows
    repeat' first
      | with_reducible assumption | with_reducible apply State.canonical_readVa | with_reducible apply State.canonical_rtFailed
      | with_reducible apply State.canonical_sendRow | with_reducible apply State.canonical_ite
      | with_reducible apply State.canonicalSnd_ite | with_reducible (refine State.canonical_of_pair (by assumption) ?_)
      | with_reducible apply State.canonical_snd | split | dsimp only | with_reducible apply State.canonicalSnd_mk
      | with_reducible refine State.canonical_mk ?_
  | cons b l ih =>
    unfold State.sendRows
    repeat' first
      | with_reducible assumption | (apply ih <;> with_reducible assumption) | with_reducible apply ih
      | with_reducible apply State.canonical_readVa | with_reducible apply State.canonical_rtFailed
      | with_reducible apply State.canonical_sendRow | with_reducible apply State.canonical_ite
      | with_reducible apply State.canonicalSnd_ite | with_reducible (refine State.canonical_of_pair (by assumption) ?_)
      | with_reducible apply State.canonical_snd | split | dsimp only | with_reducible apply State.canonicalSnd_mk
      | with_reducible refine State.canonical_mk ?_

theorem State.canonical_select {s : State} {n p t : Nat} {map lg : List Byte} (hs : s.Canonical) :
    State.CanonicalSnd (State.select s n p t map lg) := by
  rw [show @State.select = _ from by delta State.select; exact rfl]
  repeat' first
    | with_reducible assumption | (intro _) | with_reducible apply State.canonical_allScores
    | with_reducible (refine State.canonical_of_pair (by assumption) ?_) | with_reducible apply State.canonical_snd | split
    | dsimp only | with_reducible apply State.canonicalSnd_mk

theorem State.canonical_selRecords {s : State} {sel : List Assign} {t : Nat} (hs : s.Canonical) :
    State.CanonicalSnd (State.selRecords s sel t) := by
  rw [show @State.selRecords = _ from by delta State.selRecords; exact rfl]
  repeat' first
    | with_reducible assumption | with_reducible exact State.canonical_of_mk (by assumption) | (intro _)
    | with_reducible apply State.canonical_selRecord | with_reducible apply State.canonical_foldl
    | with_reducible apply State.canonicalSnd_foldl | with_reducible (refine State.canonical_of_pair (by assumption) ?_)
    | with_reducible apply State.canonical_snd | split | dsimp only | with_reducible apply State.canonicalSnd_mk

theorem State.canonical_rtDispatch {s : State} {o : EngOp} {b : Batch} (hs : s.Canonical) :
    (State.rtDispatch s o b).Canonical := by
  rw [show @State.rtDispatch = _ from by delta State.rtDispatch; exact rfl]
  repeat' first
    | with_reducible assumption | (intro _) | with_reducible apply State.canonical_writeVa
    | with_reducible apply State.canonical_rtFailed | with_reducible apply State.canonical_sendMarks
    | with_reducible apply State.canonical_sendRows | with_reducible apply State.canonical_selRecords
    | with_reducible apply State.canonical_ite | with_reducible apply State.canonicalSnd_ite
    | with_reducible (refine State.canonical_of_pair (by assumption) ?_) | with_reducible apply State.canonical_snd | split
    | dsimp only | with_reducible apply State.canonicalSnd_mk | with_reducible refine State.canonical_mk ?_

theorem State.canonical_rtStart {s : State} {o : EngOp} {lc : Bool} (hs : s.Canonical) :
    (State.rtStart s o lc).Canonical := by
  rw [show @State.rtStart = _ from by delta State.rtStart; exact rfl]
  repeat' first
    | with_reducible assumption | (intro _) | with_reducible apply State.canonical_bump
    | with_reducible apply State.canonical_bump64 | with_reducible apply State.canonical_readVa
    | with_reducible apply State.canonical_writeVa | with_reducible apply State.canonical_setBatch
    | with_reducible apply State.canonical_takeEpoch | with_reducible apply State.canonical_raise
    | with_reducible apply State.canonical_rtFailed | with_reducible apply State.canonical_select
    | with_reducible apply State.canonical_rtDispatch | with_reducible (refine State.canonical_of_pair (by assumption) ?_)
    | with_reducible apply State.canonical_snd | split | dsimp only | with_reducible apply State.canonicalSnd_mk
    | with_reducible refine State.canonical_mk ?_

theorem State.canonical_rtDecode {s : State} {o : EngOp} (hs : s.Canonical) :
    (State.rtDecode s o).Canonical := by
  rw [show @State.rtDecode = _ from by delta State.rtDecode; exact rfl]
  repeat' first
    | with_reducible assumption | with_reducible apply State.canonical_take | with_reducible apply State.canonical_engFailed
    | with_reducible apply State.canonical_rtStart | with_reducible apply State.canonical_ite
    | with_reducible apply State.canonicalSnd_ite | with_reducible (refine State.canonical_of_pair (by assumption) ?_)
    | with_reducible apply State.canonical_snd | split | dsimp only

theorem State.canonical_xcDecode {s : State} {o : EngOp} (hs : s.Canonical) :
    (State.xcDecode s o).Canonical := by
  rw [show @State.xcDecode = _ from by delta State.xcDecode; exact rfl]
  repeat' first
    | with_reducible assumption | with_reducible apply State.canonical_take | with_reducible apply State.canonical_engFailed
    | with_reducible apply State.canonical_ite | with_reducible apply State.canonicalSnd_ite
    | with_reducible (refine State.canonical_of_pair (by assumption) ?_) | with_reducible apply State.canonical_snd | split
    | dsimp only

theorem canonical_rtDecoder {s : State} {o : EngOp} (hs : s.Canonical) :
    (rtDecoder.decode s o).Canonical := by
  rw [show @rtDecoder = _ from by delta rtDecoder; exact rfl]
  repeat' first
    | with_reducible assumption | (intro _) | with_reducible apply State.canonical_remotely
    | with_reducible apply State.canonical_rtFailed | with_reducible apply State.canonical_rtDecode
    | with_reducible apply State.canonical_xcDecode | with_reducible apply State.canonical_ite
    | with_reducible apply State.canonicalSnd_ite | with_reducible (refine State.canonical_of_pair (by assumption) ?_)
    | with_reducible apply State.canonical_snd | split | dsimp only

theorem State.canonical_rtAdvance {s : State} {g : Nat} (hs : s.Canonical) :
    (State.rtAdvance s g).Canonical := by
  rw [show @State.rtAdvance = _ from by delta State.rtAdvance; exact rfl]
  repeat' first
    | with_reducible assumption | (intro _) | with_reducible apply State.canonical_decodePass
    | with_reducible apply canonical_rtDecoder | with_reducible (refine State.canonical_of_pair (by assumption) ?_)
    | with_reducible apply State.canonical_snd | split | dsimp only

theorem State.canonical_rtIssue {s : State} {c t op len : Nat} {eng : Engine} {fail : Nat → State → State} (hs : s.Canonical) (hfail : ∀ x0 x1, x1.Canonical → (fail x0 x1).Canonical) :
    (State.rtIssue s c t op len eng fail).Canonical := by
  rw [show @State.rtIssue = _ from by delta State.rtIssue; exact rfl]
  repeat' first
    | with_reducible assumption | (intro _) | with_reducible apply hfail | with_reducible apply State.canonical_failStrand
    | with_reducible apply State.canonical_issue | with_reducible apply State.canonical_stall
    | with_reducible apply State.canonical_needing | with_reducible apply State.canonical_deliver
    | with_reducible apply State.canonical_describe | with_reducible apply State.canonical_accept
    | with_reducible apply canonical_rtDecoder | with_reducible apply State.canonical_ite
    | with_reducible apply State.canonicalSnd_ite | with_reducible (refine State.canonical_of_pair (by assumption) ?_)
    | with_reducible apply State.canonical_snd | split | dsimp only

theorem State.canonical_emptyRows {s : State} {b : Batch} {o : EngOp} {y0 : List Nat} (hs : s.Canonical) :
    (State.emptyRows s b o y0).Canonical := by
  induction y0 generalizing s b o hs with
  | nil =>
    unfold State.emptyRows
    repeat' first
      | with_reducible assumption | with_reducible apply State.canonical_writeOut | with_reducible apply State.canonical_ite
      | split | dsimp only | with_reducible refine State.canonical_mk ?_
  | cons b l ih =>
    unfold State.emptyRows
    repeat' first
      | with_reducible assumption | (apply ih <;> with_reducible assumption) | with_reducible apply ih
      | with_reducible apply State.canonical_writeOut | with_reducible apply State.canonical_ite | split | dsimp only
      | with_reducible refine State.canonical_mk ?_

theorem State.canonical_batchOver {s : State} {b : Batch} {o : EngOp} (hs : s.Canonical) :
    (State.batchOver s b o).Canonical := by
  rw [show @State.batchOver = _ from by delta State.batchOver; exact rfl]
  repeat' first
    | with_reducible assumption | with_reducible apply State.canonical_engServed
    | with_reducible apply State.canonical_emptyRows | with_reducible apply State.canonical_ite
    | with_reducible apply State.canonicalSnd_ite | with_reducible (refine State.canonical_of_pair (by assumption) ?_)
    | with_reducible apply State.canonical_snd | split | dsimp only | with_reducible refine State.canonical_mk ?_

theorem State.canonical_xcRecv {s : State} {o : EngOp} (hs : s.Canonical) :
    (State.xcRecv s o).Canonical := by
  rw [show @State.xcRecv = _ from by delta State.xcRecv; exact rfl]
  repeat' first
    | with_reducible assumption | (intro _) | with_reducible apply State.canonical_writeVa
    | with_reducible apply State.canonical_engServed | with_reducible apply State.canonical_engFailed
    | with_reducible apply State.canonical_ite | with_reducible apply State.canonicalSnd_ite
    | with_reducible (refine State.canonical_of_pair (by assumption) ?_) | with_reducible apply State.canonical_snd | split
    | dsimp only | with_reducible apply State.canonicalSnd_mk | with_reducible refine State.canonical_mk ?_

theorem State.canonical_returnRows {s : State} {o : EngOp} {n : Nat} {rp : List Byte} {h : RxHalf} {y0 : List (Nat × Nat)} (hs : s.Canonical) :
    State.CanonicalSnd (State.returnRows s o n rp h y0) := by
  induction y0 generalizing s o n rp h hs with
  | nil =>
    unfold State.returnRows
    repeat' first
      | with_reducible assumption | with_reducible apply State.canonical_bump64 | with_reducible apply State.canonical_readVa
      | with_reducible apply State.canonical_send | with_reducible apply State.canonical_resultIn
      | with_reducible apply State.canonical_ite | with_reducible (refine State.canonical_of_pair (by assumption) ?_)
      | with_reducible apply State.canonical_snd | split | dsimp only | with_reducible apply State.canonicalSnd_mk
      | with_reducible refine State.canonical_mk ?_
  | cons b l ih =>
    rcases b with ⟨b1, b2⟩
    unfold State.returnRows
    repeat' first
      | with_reducible assumption | (apply ih <;> with_reducible assumption) | with_reducible apply ih
      | with_reducible apply State.canonical_bump64 | with_reducible apply State.canonical_readVa
      | with_reducible apply State.canonical_send | with_reducible apply State.canonical_resultIn
      | with_reducible apply State.canonical_ite | with_reducible (refine State.canonical_of_pair (by assumption) ?_)
      | with_reducible apply State.canonical_snd | split | dsimp only | with_reducible apply State.canonicalSnd_mk
      | with_reducible refine State.canonical_mk ?_

theorem State.canonical_xcReturn {s : State} {o : EngOp} (hs : s.Canonical) :
    (State.xcReturn s o).Canonical := by
  rw [show @State.xcReturn = _ from by delta State.xcReturn; exact rfl]
  repeat' first
    | with_reducible assumption | (intro _) | with_reducible apply State.canonical_engServed
    | with_reducible apply State.canonical_engFailed | with_reducible apply State.canonical_freeHalf
    | with_reducible apply State.canonical_returnRows | with_reducible apply State.canonical_ite
    | with_reducible apply State.canonicalSnd_ite | with_reducible (refine State.canonical_of_pair (by assumption) ?_)
    | with_reducible apply State.canonical_snd | split | dsimp only | with_reducible apply State.canonicalSnd_mk
    | with_reducible refine State.canonical_mk ?_

theorem State.canonical_biasWrite {s : State} {r : Requester} {g value : Nat} (hs : s.Canonical) :
    (State.biasWrite s r g value).Canonical := by
  rw [show @State.biasWrite = _ from by delta State.biasWrite; exact rfl]
  repeat' first
    | with_reducible assumption | with_reducible apply State.canonical_setBias | with_reducible apply State.canonical_ite
    | split | dsimp only | with_reducible refine State.canonical_mk ?_

theorem State.canonical_rteCancel {s : State} {g epoch : Nat} (hs : s.Canonical) :
    (State.rteCancel s g epoch).Canonical := by
  rw [show @State.rteCancel = _ from by delta State.rteCancel; exact rfl]
  repeat' first
    | with_reducible assumption | with_reducible apply State.canonical_closeEpoch | with_reducible apply State.canonical_noteEnd
    | with_reducible apply State.canonical_modEng | with_reducible apply State.canonical_ite | split | dsimp only
    | with_reducible refine State.canonical_mk ?_

theorem State.canonical_restore {s : State} {i : Item} {c t : Nat} (hs : s.Canonical) :
    (State.restore s i c t).Canonical := by
  rw [show @State.restore = _ from by delta State.restore; exact rfl]
  repeat' first
    | with_reducible assumption | (intro _) | with_reducible apply State.canonical_setStrand
    | with_reducible apply State.canonical_modItem | with_reducible apply State.canonical_setBytes
    | with_reducible apply State.canonical_readVa | with_reducible apply State.canonical_failStrand
    | with_reducible apply State.canonical_ite | with_reducible apply State.canonicalSnd_ite
    | with_reducible (refine State.canonical_of_pair (by assumption) ?_) | with_reducible apply State.canonical_snd | split
    | dsimp only | with_reducible apply State.canonicalSnd_mk | with_reducible refine State.canonical_mk ?_

theorem State.canonical_refreshLiveCount {s : State} (hs : s.Canonical) :
    (State.refreshLiveCount s).Canonical := by
  rw [show @State.refreshLiveCount = _ from by delta State.refreshLiveCount; exact rfl]
  repeat' first
    | with_reducible assumption | with_reducible apply State.canonical_fset | split | dsimp only

theorem State.canonical_refreshTbc {s : State} (hs : s.Canonical) :
    (State.refreshTbc s).Canonical := by
  rw [show @State.refreshTbc = _ from by delta State.refreshTbc; exact rfl]
  repeat' first
    | with_reducible assumption | with_reducible apply State.canonical_fset | with_reducible apply State.canonical_ite | split
    | dsimp only | with_reducible refine State.canonical_mk ?_

theorem State.canonical_setMaster {s : State} {i : Nat} (hs : s.Canonical) :
    (State.setMaster s i).Canonical := by
  rw [show @State.setMaster = _ from by delta State.setMaster; exact rfl]
  repeat' first
    | with_reducible assumption | with_reducible apply State.canonical_fset | with_reducible apply State.canonical_refreshTbc
    | dsimp only | with_reducible refine State.canonical_mk ?_

theorem State.canonical_changeMaster {s : State} {i : Nat} (hs : s.Canonical) :
    (State.changeMaster s i).Canonical := by
  rw [show @State.changeMaster = _ from by delta State.changeMaster; exact rfl]
  repeat' first
    | with_reducible assumption | with_reducible apply State.canonical_bump
    | with_reducible apply State.canonical_refuseArrivals | with_reducible apply State.canonical_setMaster | split | dsimp only
    | with_reducible refine State.canonical_mk ?_

theorem State.canonical_joinGroup {s : State} (hs : s.Canonical) :
    (State.joinGroup s).Canonical := by
  rw [show @State.joinGroup = _ from by delta State.joinGroup; exact rfl]
  repeat' first
    | with_reducible assumption | with_reducible apply State.canonical_refreshLiveCount
    | with_reducible apply State.canonical_setMaster | with_reducible apply State.canonical_ite | split | dsimp only
    | with_reducible refine State.canonical_mk ?_

theorem State.canonical_fromMaster {s : State} {src : Nat} (hs : s.Canonical) :
    State.CanonicalSnd (State.fromMaster s src) := by
  rw [show @State.fromMaster = _ from by delta State.fromMaster; exact rfl]
  repeat' first
    | with_reducible assumption | with_reducible apply State.canonical_changeMaster
    | with_reducible apply State.canonicalSnd_ite | split | dsimp only | with_reducible apply State.canonicalSnd_mk
    | with_reducible refine State.canonical_mk ?_

theorem State.canonical_setBarrier {s : State} {b : Barrier} (hs : s.Canonical) :
    (State.setBarrier s b).Canonical := by
  rw [show @State.setBarrier = _ from by delta State.setBarrier; exact rfl]
  repeat' first
    | with_reducible assumption | split | dsimp only | with_reducible refine State.canonical_mk ?_

theorem State.canonical_completeBarrier {s : State} {n id gen : Nat} (hs : s.Canonical) :
    (State.completeBarrier s n id gen).Canonical := by
  rw [show @State.completeBarrier = _ from by delta State.completeBarrier; exact rfl]
  repeat' first
    | with_reducible assumption | (intro _) | with_reducible apply State.canonical_setStrand
    | with_reducible apply State.canonical_ite | with_reducible apply State.canonical_foldl | split | dsimp only
    | with_reducible refine State.canonical_mk ?_

theorem State.canonical_countArrivals {s : State} {n id dev parties count : Nat} (hs : s.Canonical) :
    State.CanonicalSnd (State.countArrivals s n id dev parties count) := by
  rw [show @State.countArrivals = _ from by delta State.countArrivals; exact rfl]
  repeat' first
    | with_reducible assumption | (intro _) | with_reducible apply State.canonical_send
    | with_reducible apply State.canonical_setBarrier | with_reducible apply State.canonical_completeBarrier
    | with_reducible apply State.canonical_ite | with_reducible apply State.canonicalSnd_ite
    | with_reducible apply State.canonical_foldl | with_reducible apply State.canonical_snd | split | dsimp only
    | with_reducible apply State.canonicalSnd_mk | with_reducible refine State.canonical_mk ?_

theorem State.canonical_sendArrivals {s : State} {n id : Nat} (hs : s.Canonical) :
    (State.sendArrivals s n id).Canonical := by
  rw [show @State.sendArrivals = _ from by delta State.sendArrivals; exact rfl]
  repeat' first
    | with_reducible assumption | with_reducible apply State.canonical_send
    | with_reducible apply State.canonical_refuseArrivals | with_reducible (refine State.canonical_of_pair (by assumption) ?_)
    | split | dsimp only | with_reducible refine State.canonical_mk ?_

theorem State.canonical_sendAllArrivals {s : State} (hs : s.Canonical) :
    (State.sendAllArrivals s).Canonical := by
  rw [show @State.sendAllArrivals = _ from by delta State.sendAllArrivals; exact rfl]
  repeat' first
    | with_reducible assumption | (intro _) | with_reducible apply State.canonical_sendArrivals
    | with_reducible apply State.canonical_foldl | split | dsimp only

theorem State.canonical_failTo {s : State} {p : Outstanding → Bool} {cause : Nat} (hs : s.Canonical) :
    (State.failTo s p cause).Canonical := by
  rw [show @State.failTo = _ from by delta State.failTo; exact rfl]
  repeat' first
    | with_reducible assumption | (intro _) | with_reducible apply State.canonical_requestFails
    | with_reducible apply State.canonical_foldl | split | dsimp only

theorem State.canonical_setLive {s : State} {d : Nat} {live : Bool} (hs : s.Canonical) :
    (State.setLive s d live).Canonical := by
  rw [show @State.setLive = _ from by delta State.setLive; exact rfl]
  repeat' first
    | with_reducible assumption | with_reducible apply State.canonical_refreshLiveCount
    | with_reducible apply State.canonical_failTo | with_reducible apply State.canonical_ite | split | dsimp only
    | with_reducible refine State.canonical_mk ?_

theorem State.canonical_sendView {s : State} {d : Nat} (hs : s.Canonical) :
    (State.sendView s d).Canonical := by
  rw [show @State.sendView = _ from by delta State.sendView; exact rfl]
  repeat' first
    | with_reducible assumption | (intro _) | with_reducible apply State.canonical_fset
    | with_reducible apply State.canonical_send | with_reducible apply State.canonical_foldl
    | with_reducible apply State.canonical_snd | split | dsimp only | with_reducible refine State.canonical_mk ?_

theorem State.canonical_sendMember {s : State} {d kind : Nat} (hs : s.Canonical) :
    (State.sendMember s d kind).Canonical := by
  rw [show @State.sendMember = _ from by delta State.sendMember; exact rfl]
  repeat' first
    | with_reducible assumption | with_reducible apply State.canonical_send | with_reducible apply State.canonical_snd | split
    | dsimp only | with_reducible refine State.canonical_mk ?_

theorem State.canonical_hold {s : State} {ns : Nat} (hs : s.Canonical) :
    (State.hold s ns).Canonical := by
  rw [show @State.hold = _ from by delta State.hold; exact rfl]
  repeat' first
    | with_reducible assumption | with_reducible apply State.canonical_fset | with_reducible apply State.canonical_bump | split
    | dsimp only | with_reducible refine State.canonical_mk ?_

theorem State.canonical_correct {s : State} {ps : Int} (hs : s.Canonical) :
    (State.correct s ps).Canonical := by
  rw [show @State.correct = _ from by delta State.correct; exact rfl]
  repeat' first
    | with_reducible assumption | with_reducible apply State.canonical_fset | with_reducible apply State.canonical_bump
    | with_reducible apply State.canonical_hold | with_reducible apply State.canonical_ite | split | dsimp only
    | with_reducible refine State.canonical_mk ?_

theorem State.canonical_lockOn {s : State} {ps : Int} (hs : s.Canonical) :
    (State.lockOn s ps).Canonical := by
  rw [show @State.lockOn = _ from by delta State.lockOn; exact rfl]
  repeat' first
    | with_reducible assumption | with_reducible apply State.canonical_fset | split | dsimp only
    | with_reducible refine State.canonical_mk ?_

theorem State.canonical_spreadSync {s : State} {ports : List Nat} {src hops arg time delay : Nat} (hs : s.Canonical) :
    (State.spreadSync s ports src hops arg time delay).Canonical := by
  rw [show @State.spreadSync = _ from by delta State.spreadSync; exact rfl]
  repeat' first
    | with_reducible assumption | (intro _) | with_reducible apply State.canonical_putOn
    | with_reducible apply State.canonical_ite | with_reducible apply State.canonical_foldl | split | dsimp only
    | with_reducible refine State.canonical_mk ?_

theorem State.canonical_tick {s : State} (hs : s.Canonical) :
    (State.tick s).Canonical := by
  rw [show @State.tick = _ from by delta State.tick; exact rfl]
  repeat' first
    | with_reducible assumption | with_reducible apply State.canonical_sendIbi | with_reducible apply State.canonical_deliver
    | with_reducible apply State.canonical_drip | with_reducible apply State.canonical_ite
    | with_reducible apply State.canonicalSnd_ite | with_reducible (refine State.canonical_of_pair (by assumption) ?_)
    | with_reducible apply State.canonical_snd | split | dsimp only | with_reducible refine State.canonical_mk ?_

theorem State.canonical_setSlice {s : State} {x : Slice} (hs : s.Canonical) :
    (State.setSlice s x).Canonical := by
  rw [show @State.setSlice = _ from by delta State.setSlice; exact rfl]
  repeat' first
    | with_reducible assumption | split | dsimp only | with_reducible refine State.canonical_mk ?_

theorem State.canonical_truPieces {s : State} {r : MReq} {n : Nat} {y0 : List (Nat × Nat)} {y1 : List Byte} (hs : s.Canonical) :
    State.CanonicalSnd (State.truPieces s r n y0 y1) := by
  induction y0 generalizing s r n y1 hs with
  | nil =>
    unfold State.truPieces
    repeat' first
      | with_reducible assumption | with_reducible apply State.canonical_recordFault
      | with_reducible apply State.canonical_translate | with_reducible apply State.canonical_writeLine
      | with_reducible (refine State.canonical_of_pair (by assumption) ?_) | split | dsimp only
      | with_reducible apply State.canonicalSnd_mk | with_reducible refine State.canonical_mk ?_
  | cons b l ih =>
    rcases b with ⟨b1, b2⟩
    unfold State.truPieces
    repeat' first
      | with_reducible assumption | (apply ih <;> with_reducible assumption) | with_reducible apply ih
      | with_reducible apply State.canonical_recordFault | with_reducible apply State.canonical_translate
      | with_reducible apply State.canonical_writeLine | with_reducible (refine State.canonical_of_pair (by assumption) ?_)
      | split | dsimp only | with_reducible apply State.canonicalSnd_mk | with_reducible refine State.canonical_mk ?_

theorem State.canonical_truWrite {s : State} {n va : Nat} {bs : List Byte} (hs : s.Canonical) :
    State.CanonicalSnd (State.truWrite s n va bs) := by
  rw [show @State.truWrite = _ from by delta State.truWrite; exact rfl]
  repeat' first
    | with_reducible assumption | with_reducible apply State.canonical_truPieces | dsimp only

theorem State.canonical_emptyFifos {s : State} {n : Nat} (hs : s.Canonical) :
    (State.emptyFifos s n).Canonical := by
  rw [show @State.emptyFifos = _ from by delta State.emptyFifos; exact rfl]
  repeat' first
    | with_reducible assumption | (intro _) | with_reducible apply State.canonical_setFifo
    | with_reducible apply State.canonical_foldl | split | dsimp only | with_reducible refine State.canonical_mk ?_

theorem State.canonical_truFault {s : State} {n : Nat} (hs : s.Canonical) :
    (State.truFault s n).Canonical := by
  rw [show @State.truFault = _ from by delta State.truFault; exact rfl]
  repeat' first
    | with_reducible assumption | with_reducible apply State.canonical_fset | with_reducible apply State.canonical_emptyFifos
    | dsimp only

theorem State.canonical_writeHeader {s : State} {n : Nat} {x : Slice} (hs : s.Canonical) :
    State.CanonicalSnd (State.writeHeader s n x) := by
  rw [show @State.writeHeader = _ from by delta State.writeHeader; exact rfl]
  repeat' first
    | with_reducible assumption | with_reducible apply State.canonical_truWrite | dsimp only

theorem canonical_allOf {α : Type} {f : State → α → Bool × State} {y0 : List α} {y1 : State} (hf : ∀ x0 x1, x0.Canonical → State.CanonicalSnd (f x0 x1)) (hy1 : y1.Canonical) :
    State.CanonicalSnd (allOf f y0 y1) := by
  induction y0 generalizing f y1 hf hy1 with
  | nil =>
    unfold allOf
    repeat' first
      | with_reducible assumption | with_reducible apply hf | with_reducible (refine State.canonical_of_pair (by assumption) ?_)
      | split | dsimp only | with_reducible apply State.canonicalSnd_mk | with_reducible refine State.canonical_mk ?_
  | cons b l ih =>
    unfold allOf
    repeat' first
      | with_reducible assumption | (apply ih <;> with_reducible assumption) | with_reducible apply ih | with_reducible apply hf
      | with_reducible (refine State.canonical_of_pair (by assumption) ?_) | split | dsimp only
      | with_reducible apply State.canonicalSnd_mk | with_reducible refine State.canonical_mk ?_

theorem State.canonical_truStart {s : State} {n : Nat} (hs : s.Canonical) :
    (State.truStart s n).Canonical := by
  rw [show @State.truStart = _ from by delta State.truStart; exact rfl]
  repeat' first
    | with_reducible assumption | (intro _) | with_reducible apply State.canonical_fset
    | with_reducible apply State.canonical_wset | with_reducible apply State.canonical_truWrite
    | with_reducible apply State.canonical_truFault | with_reducible apply canonical_allOf
    | with_reducible (refine State.canonical_of_pair (by assumption) ?_) | split | dsimp only
    | with_reducible refine State.canonical_mk ?_

theorem State.canonical_reach {s : State} {n c : Nat} {r : List Byte} {d : Nat} (hs : s.Canonical) :
    State.CanonicalSnd (State.reach s n c r d) := by
  rw [show @State.reach = _ from by delta State.reach; exact rfl]
  repeat' first
    | with_reducible assumption | with_reducible apply State.canonical_setSlice | with_reducible apply State.canonical_truWrite
    | with_reducible apply State.canonical_writeHeader | with_reducible apply State.canonicalSnd_ite
    | with_reducible (refine State.canonical_of_pair (by assumption) ?_) | split | dsimp only
    | with_reducible apply State.canonicalSnd_mk | with_reducible refine State.canonical_mk ?_

theorem State.canonical_sliceLoses {s : State} {n : Nat} {x : Slice} {k : Nat} (hs : s.Canonical) :
    (State.sliceLoses s n x k).Canonical := by
  rw [show @State.sliceLoses = _ from by delta State.sliceLoses; exact rfl]
  repeat' first
    | with_reducible assumption | with_reducible apply State.canonical_bump | with_reducible apply State.canonical_setSlice
    | dsimp only | with_reducible refine State.canonical_mk ?_

theorem State.canonical_placeRecord {s : State} {n c : Nat} {r : List Byte} (hs : s.Canonical) :
    State.CanonicalSnd (State.placeRecord s n c r) := by
  rw [show @State.placeRecord = _ from by delta State.placeRecord; exact rfl]
  repeat' first
    | with_reducible assumption | with_reducible apply State.canonical_bump64 | with_reducible apply State.canonical_setSlice
    | with_reducible apply State.canonical_truWrite | with_reducible apply State.canonical_sliceLoses
    | with_reducible apply State.canonicalSnd_ite | with_reducible (refine State.canonical_of_pair (by assumption) ?_) | split
    | dsimp only | with_reducible apply State.canonicalSnd_mk | with_reducible refine State.canonical_mk ?_

theorem State.canonical_drainFifo {s : State} {n c : Nat} {y0 : Nat} (hs : s.Canonical) :
    State.CanonicalSnd (State.drainFifo s n c y0) := by
  induction y0 generalizing s n c hs with
  | zero =>
    unfold State.drainFifo
    repeat' first
      | with_reducible assumption | with_reducible apply State.canonical_setFifo
      | with_reducible apply State.canonical_placeRecord | with_reducible (refine State.canonical_of_pair (by assumption) ?_)
      | split | dsimp only | with_reducible apply State.canonicalSnd_mk | with_reducible refine State.canonical_mk ?_
  | succ k ih =>
    unfold State.drainFifo
    repeat' first
      | with_reducible assumption | (apply ih <;> with_reducible assumption) | with_reducible apply ih
      | with_reducible apply State.canonical_setFifo | with_reducible apply State.canonical_placeRecord
      | with_reducible (refine State.canonical_of_pair (by assumption) ?_) | split | dsimp only
      | with_reducible apply State.canonicalSnd_mk | with_reducible refine State.canonical_mk ?_

theorem State.canonical_drainCore {s : State} {n c : Nat} (hs : s.Canonical) :
    State.CanonicalSnd (State.drainCore s n c) := by
  rw [show @State.drainCore = _ from by delta State.drainCore; exact rfl]
  repeat' first
    | with_reducible assumption | with_reducible apply State.canonical_writeHeader
    | with_reducible apply State.canonical_drainFifo | with_reducible apply State.canonicalSnd_ite
    | with_reducible (refine State.canonical_of_pair (by assumption) ?_) | split | dsimp only
    | with_reducible apply State.canonicalSnd_mk | with_reducible refine State.canonical_mk ?_

theorem State.canonical_truDrain {s : State} {n : Nat} (hs : s.Canonical) :
    (State.truDrain s n).Canonical := by
  rw [show @State.truDrain = _ from by delta State.truDrain; exact rfl]
  repeat' first
    | with_reducible assumption | (intro _) | with_reducible apply State.canonical_fset
    | with_reducible apply State.canonical_truFault | with_reducible apply canonical_allOf
    | with_reducible apply State.canonical_reach | with_reducible apply State.canonical_drainCore
    | with_reducible apply State.canonical_ite | with_reducible apply State.canonicalSnd_ite
    | with_reducible (refine State.canonical_of_pair (by assumption) ?_) | with_reducible apply State.canonical_snd | split
    | dsimp only | with_reducible apply State.canonicalSnd_mk | with_reducible refine State.canonical_mk ?_

theorem State.canonical_truEnable {s : State} {n : Nat} {on : Bool} (hs : s.Canonical) :
    (State.truEnable s n on).Canonical := by
  rw [show @State.truEnable = _ from by delta State.truEnable; exact rfl]
  repeat' first
    | with_reducible assumption | with_reducible apply State.canonical_fset | with_reducible apply State.canonical_emptyFifos
    | with_reducible apply State.canonical_truStart | with_reducible apply State.canonical_truDrain
    | with_reducible apply State.canonical_ite | split | dsimp only

theorem State.canonical_truClear {s : State} {n : Nat} (hs : s.Canonical) :
    (State.truClear s n).Canonical := by
  rw [show @State.truClear = _ from by delta State.truClear; exact rfl]
  repeat' first
    | with_reducible assumption | with_reducible apply State.canonical_resetRange
    | with_reducible apply State.canonical_emptyFifos | split | dsimp only | with_reducible refine State.canonical_mk ?_

theorem State.canonical_softTrigger {s : State} {r : Requester} {n : Nat} (hs : s.Canonical) :
    (State.softTrigger s r n).Canonical := by
  rw [show @State.softTrigger = _ from by delta State.softTrigger; exact rfl]
  repeat' first
    | with_reducible assumption | with_reducible apply State.canonical_trigger | split | dsimp only
    | with_reducible refine State.canonical_mk ?_

theorem State.canonical_trainFailed {s : State} {l : Nat} (hs : s.Canonical) :
    (State.trainFailed s l).Canonical := by
  rw [show @State.trainFailed = _ from by delta State.trainFailed; exact rfl]
  repeat' first
    | with_reducible assumption | with_reducible apply State.canonical_setLane | with_reducible apply State.canonical_report
    | with_reducible apply State.canonical_laneOut | with_reducible apply State.canonical_ite | split | dsimp only
    | with_reducible refine State.canonical_mk ?_

theorem State.canonical_arriveLink {s : State} {l : Nat} {p : Packet} {subtype : Nat} {act : State → State} (hs : s.Canonical) (hact : ∀ x0, x0.Canonical → (act x0).Canonical) :
    (State.arriveLink s l p subtype act).Canonical := by
  rw [show @State.arriveLink = _ from by delta State.arriveLink; exact rfl]
  repeat' first
    | with_reducible assumption | with_reducible apply hact | with_reducible apply State.canonical_bump64
    | with_reducible apply State.canonical_violate | with_reducible apply State.canonical_ite | split | dsimp only
    | with_reducible refine State.canonical_mk ?_

theorem State.canonical_reenableLink {s : State} {p : Nat} (hs : s.Canonical) :
    (State.reenableLink s p).Canonical := by
  rw [show @State.reenableLink = _ from by delta State.reenableLink; exact rfl]
  repeat' first
    | with_reducible assumption | with_reducible apply State.canonical_fset | with_reducible apply State.canonical_refreshPort
    | with_reducible apply State.canonical_flow | with_reducible apply State.canonical_setWindow
    | with_reducible apply State.canonical_ite | split | dsimp only

end Sys2Proof.Machine
end

