-- ==== Sys2Proof/Laws/CanonicalChambers.lean ====
section
/-! SUPPORT. The operations of management, chambers, the survey, sessions, resets and the control space keep the canonical form. -/

set_option linter.unusedTactic false
set_option linter.unreachableTactic false
set_option linter.unusedVariables false
set_option Elab.async false

namespace Sys2Proof.Machine

theorem State.canonical_setMgQueue {s : State} {n : Nat} {q : MgQueue} (hs : s.Canonical) :
    (State.setMgQueue s n q).Canonical := by
  rw [show @State.setMgQueue = _ from by delta State.setMgQueue; exact rfl]
  repeat' first
    | with_reducible assumption | with_reducible apply State.canonical_fset | split | dsimp only
    | with_reducible refine State.canonical_mk ?_

theorem State.canonical_mgRecord {s : State} {n : Nat} {i : MgItem} {code cause : Nat} (hs : s.Canonical) :
    (State.mgRecord s n i code cause).Canonical := by
  rw [show @State.mgRecord = _ from by delta State.mgRecord; exact rfl]
  repeat' first
    | with_reducible assumption | (intro _) | with_reducible apply State.canonical_wset
    | with_reducible apply State.canonical_setMgQueue | with_reducible apply State.canonical_foldl | split | dsimp only
    | with_reducible refine State.canonical_mk ?_

theorem State.canonical_mgSkip {s : State} {n k : Nat} (hs : s.Canonical) : (s.mgSkip n k).Canonical := by
  induction k generalizing s with
  | zero => exact hs
  | succ k ih =>
    unfold State.mgSkip
    split
    · exact State.canonical_ite hs (ih (State.canonical_mgRecord (State.canonical_setMgQueue hs)))
    · exact hs

theorem State.canonical_mgEnd {s : State} {n code cause : Nat} (hs : s.Canonical) :
    (State.mgEnd s n code cause).Canonical := by
  rw [show @State.mgEnd = _ from by delta State.mgEnd; exact rfl]
  repeat' first
    | with_reducible assumption | with_reducible apply State.canonical_setMgQueue
    | with_reducible apply State.canonical_mgRecord | with_reducible apply State.canonical_mgSkip | split | dsimp only
    | with_reducible refine State.canonical_mk ?_

theorem State.canonical_mgPost {s : State} {n session : Nat} {line : List Byte} (hs : s.Canonical) :
    (State.mgPost s n session line).Canonical := by
  rw [show @State.mgPost = _ from by delta State.mgPost; exact rfl]
  repeat' first
    | with_reducible assumption | with_reducible apply State.canonical_setMgQueue
    | with_reducible apply State.canonical_mgRecord | with_reducible apply State.canonical_mgSkip
    | with_reducible apply State.canonical_ite | split | dsimp only | with_reducible refine State.canonical_mk ?_

theorem State.canonical_mgBegin {s : State} {n : Nat} (hs : s.Canonical) :
    (State.mgBegin s n).Canonical := by
  rw [show @State.mgBegin = _ from by delta State.mgBegin; exact rfl]
  repeat' first
    | with_reducible assumption | with_reducible apply State.canonical_setMgQueue | split | dsimp only
    | with_reducible refine State.canonical_mk ?_

theorem State.canonical_decodeAll {s : State} (hs : s.Canonical) : s.decodeAll.Canonical := by
  rw [show @State.decodeAll = _ from by delta State.decodeAll; exact rfl]
  refine State.canonical_decodePass hs fun t o ht => ?_
  show ((decoderOf o).decode t o).Canonical
  rcases o with ⟨_, e⟩
  cases e
  · exact canonical_mxDecoder ht
  · exact canonical_vxDecoder ht
  · exact canonical_vxDecoder ht
  · exact canonical_atDecoder ht
  · exact canonical_rtDecoder ht
  · exact canonical_rtDecoder ht
theorem State.canonical_checkPayload {s : State} {id : Nat} {w : SlotWrite} (hs : s.Canonical) :
    (State.checkPayload s id w).Canonical := by
  rw [show @State.checkPayload = _ from by delta State.checkPayload; exact rfl]
  repeat' first
    | with_reducible assumption | with_reducible apply State.canonical_readVa | with_reducible apply State.canonical_setSlot
    | with_reducible apply State.canonical_refuseWrite | with_reducible apply State.canonical_decodeAll
    | with_reducible apply State.canonical_ite | with_reducible apply State.canonicalSnd_ite
    | with_reducible (refine State.canonical_of_pair (by assumption) ?_) | with_reducible apply State.canonical_snd | split
    | dsimp only | with_reducible apply State.canonicalSnd_mk | with_reducible refine State.canonical_mk ?_

theorem State.canonical_readPayload {s : State} {id : Nat} {w : SlotWrite} (hs : s.Canonical) :
    (State.readPayload s id w).Canonical := by
  rw [show @State.readPayload = _ from by delta State.readPayload; exact rfl]
  repeat' first
    | with_reducible assumption | (intro _) | with_reducible apply State.canonical_remotely
    | with_reducible apply State.canonical_deliver | with_reducible apply State.canonical_refuseWrite
    | with_reducible apply State.canonical_decodeAll | with_reducible apply State.canonical_checkPayload
    | with_reducible (refine State.canonical_of_pair (by assumption) ?_) | with_reducible apply State.canonical_snd | split
    | dsimp only

theorem State.canonical_startWriting {s : State} {id : Nat} {w : SlotWrite} (hs : s.Canonical) :
    (State.startWriting s id w).Canonical := by
  rw [show @State.startWriting = _ from by delta State.startWriting; exact rfl]
  repeat' first
    | with_reducible assumption | with_reducible apply State.canonical_setSlot | with_reducible apply State.canonical_wstatus
    | with_reducible apply State.canonical_readPayload | with_reducible (refine State.canonical_of_pair (by assumption) ?_)
    | with_reducible apply State.canonical_snd | dsimp only | with_reducible refine State.canonical_mk ?_

theorem State.canonical_slotGo {s : State} {g id : Nat} {nowait : Bool} {hold : Nat} (hs : s.Canonical) :
    (State.slotGo s g id nowait hold).Canonical := by
  rw [show @State.slotGo = _ from by delta State.slotGo; exact rfl]
  repeat' first
    | with_reducible assumption | with_reducible apply State.canonical_bump | with_reducible apply State.canonical_setSlot
    | with_reducible apply State.canonical_wstatus | with_reducible apply State.canonical_startWriting
    | with_reducible apply State.canonical_ite | split | dsimp only | with_reducible refine State.canonical_mk ?_

theorem State.canonical_slotAbort {s : State} {g : Nat} (hs : s.Canonical) :
    (State.slotAbort s g).Canonical := by
  rw [show @State.slotAbort = _ from by delta State.slotAbort; exact rfl]
  repeat' first
    | with_reducible assumption | with_reducible apply State.canonical_refuseWrite
    | with_reducible apply State.canonical_decodeAll | with_reducible apply State.canonical_ite
    | with_reducible apply State.canonicalSnd_ite | with_reducible (refine State.canonical_of_pair (by assumption) ?_)
    | with_reducible apply State.canonical_snd | split | dsimp only | with_reducible refine State.canonical_mk ?_

theorem State.canonical_mark {s : State} {k : Nat} (hs : s.Canonical) :
    (State.mark s k).Canonical := by
  rw [show @State.mark = _ from by delta State.mark; exact rfl]
  repeat' first
    | with_reducible assumption | split | dsimp only | with_reducible refine State.canonical_mk ?_

theorem State.canonical_lasting {s : State} {k : Nat} {on : Bool} (hs : s.Canonical) :
    State.CanonicalSnd (State.lasting s k on) := by
  rw [show @State.lasting = _ from by delta State.lasting; exact rfl]
  repeat' first
    | with_reducible assumption | with_reducible apply State.canonical_mark | with_reducible apply State.canonicalSnd_ite
    | split | dsimp only | with_reducible apply State.canonicalSnd_mk | with_reducible refine State.canonical_mk ?_

theorem State.canonical_refreshChamberPower {s : State} {n : Nat} (hs : s.Canonical) :
    (State.refreshChamberPower s n).Canonical := by
  rw [show @State.refreshChamberPower = _ from by delta State.refreshChamberPower; exact rfl]
  repeat' first
    | with_reducible assumption | with_reducible apply State.canonical_fset | split | dsimp only

theorem State.canonical_setRate {s : State} {d khz : Nat} (hs : s.Canonical) :
    (State.setRate s d khz).Canonical := by
  rw [show @State.setRate = _ from by delta State.setRate; exact rfl]
  repeat' first
    | with_reducible assumption | with_reducible apply State.canonical_setDomain
    | with_reducible apply State.canonical_refreshDomain | with_reducible apply State.canonical_ite | split | dsimp only
    | with_reducible refine State.canonical_mk ?_

theorem State.canonical_placeRate {s : State} {d khz volts : Nat} (hs : s.Canonical) :
    (State.placeRate s d khz volts).Canonical := by
  rw [show @State.placeRate = _ from by delta State.placeRate; exact rfl]
  repeat' first
    | with_reducible assumption | with_reducible apply State.canonical_setDomain
    | with_reducible apply State.canonical_refreshDomain | dsimp only | with_reducible refine State.canonical_mk ?_

theorem State.canonical_lockRates {s : State} {n : Nat} (hs : s.Canonical) :
    (State.lockRates s n).Canonical := by
  rw [show @State.lockRates = _ from by delta State.lockRates; exact rfl]
  repeat' first
    | with_reducible assumption | (intro _) | with_reducible apply State.canonical_refreshChamberPower
    | with_reducible apply State.canonical_setRate | with_reducible apply State.canonical_ite
    | with_reducible apply State.canonical_foldl | split | dsimp only

theorem State.canonical_refreshSleep {s : State} (hs : s.Canonical) :
    (State.refreshSleep s).Canonical := by
  rw [show @State.refreshSleep = _ from by delta State.refreshSleep; exact rfl]
  repeat' first
    | with_reducible assumption | (intro _) | with_reducible apply State.canonical_fset
    | with_reducible apply State.canonical_ite | with_reducible apply State.canonical_foldl | split | dsimp only

theorem State.canonical_tripNow {s : State} {cause : Nat} (hs : s.Canonical) :
    (State.tripNow s cause).Canonical := by
  rw [show @State.tripNow = _ from by delta State.tripNow; exact rfl]
  repeat' first
    | with_reducible assumption | (intro _) | with_reducible apply State.canonical_fset
    | with_reducible apply State.canonical_noteBoard | with_reducible apply State.canonical_ite
    | with_reducible apply State.canonical_foldl | split | dsimp only | with_reducible refine State.canonical_mk ?_

theorem State.canonical_endCommands {s : State} {n : Nat} (hs : s.Canonical) :
    (State.endCommands s n).Canonical := by
  rw [show @State.endCommands = _ from by delta State.endCommands; exact rfl]
  repeat' first
    | with_reducible assumption | with_reducible apply State.canonical_forget | with_reducible apply State.canonical_qcmdRefuse
    | with_reducible apply State.canonical_gcmdRefuse | with_reducible apply State.canonical_ite
    | with_reducible apply State.canonicalSnd_ite | with_reducible (refine State.canonical_of_pair (by assumption) ?_)
    | with_reducible apply State.canonical_snd | split | dsimp only

theorem State.canonical_stopChamber {s : State} {n : Nat} (hs : s.Canonical) :
    (State.stopChamber s n).Canonical := by
  rw [show @State.stopChamber = _ from by delta State.stopChamber; exact rfl]
  repeat' first
    | with_reducible assumption | with_reducible exact State.canonical_of_mk (by assumption) | (intro _)
    | with_reducible apply State.canonical_fset | with_reducible apply State.canonical_stopCvus
    | with_reducible apply State.canonical_teardown | with_reducible apply State.canonical_dropHeldWrites
    | with_reducible apply State.canonical_dropStreams | with_reducible apply State.canonical_decodeAll
    | with_reducible apply State.canonical_endCommands | with_reducible apply State.canonical_foldl
    | with_reducible apply State.canonicalSnd_foldl | with_reducible (refine State.canonical_of_pair (by assumption) ?_)
    | with_reducible apply State.canonical_snd | split | dsimp only

theorem State.canonical_zeroBegin {s : State} {n : Nat} (hs : s.Canonical) : (s.zeroBegin n).Canonical := by
  rw [show @State.zeroBegin = _ from by delta State.zeroBegin; exact rfl]
  have svy : ∀ (t : State) (x : Survey), t.Canonical → State.Canonical { t with svy := x } := fun _ _ h => h
  extract_lets c mine s1 s2 ms fab s3 s4 s5
  have h1 : s1.Canonical := State.canonical_fset (State.canonical_fset hs)
  have h2 : s2.Canonical := State.canonical_fset h1
  clear_value s2
  have h3 : s3.Canonical := ⟨h2.1, h2.2⟩
  clear_value s3
  have h4 : ((s3.releaseSeqs n).truClear n).Canonical := State.canonical_truClear (State.canonical_releaseSeqs h3)
  replace h4 : s4.Canonical := h4
  have h5 : s5.Canonical := by
    refine State.canonical_foldl h4 fun t q h => ?_
    dsimp only
    exact State.canonical_setQueue (State.canonical_fset (State.canonical_resetRange (State.canonical_resetRange h)))
  exact svy _ _ h5

theorem State.canonical_zeroStack {s : State} {n st : Nat} (hs : s.Canonical) : (s.zeroStack n st).Canonical := by
  rw [show @State.zeroStack = _ from by delta State.zeroStack; exact rfl]
  extract_lets c mine s1 lines
  have h : s1.Canonical := State.canonical_foldl hs fun _ _ h => State.canonical_setPoison h
  clear_value s1
  exact State.canonical_bump64 (State.canonical_ext (State.canonical_memClear h))
theorem State.canonical_zeroGallery {s : State} {g : Nat} (hs : s.Canonical) : (s.zeroGallery g).Canonical := by
  rw [show @State.zeroGallery = _ from by delta State.zeroGallery; exact rfl]
  extract_lets e scan inCore s1 s2 s3 sram inGallery
  have h1 : s1.Canonical := by
    refine State.canonical_foldl hs fun _ _ h => ?_
    exact State.canonical_setSample (State.canonical_rput (State.canonical_resetRange h))
  clear_value s1
  have h3 : s3.Canonical := State.canonical_fset (State.canonical_fset (State.canonical_resetRange h1))
  clear_value s3
  exact State.canonical_ext (State.canonical_memClear h3)
theorem State.canonical_zeroUnits {s : State} {n : Nat} (hs : s.Canonical) :
    (State.zeroUnits s n).Canonical := by
  rw [show @State.zeroUnits = _ from by delta State.zeroUnits; exact rfl]
  repeat' first
    | with_reducible assumption | (intro _) | with_reducible apply State.canonical_resetRange
    | with_reducible apply State.canonical_truClear | with_reducible apply State.canonical_zeroGallery
    | with_reducible apply State.canonical_foldl | split | dsimp only | with_reducible refine State.canonical_mk ?_

theorem State.canonical_zeroShare {s : State} {n : Nat} {share : Option Nat} (hs : s.Canonical) :
    (State.zeroShare s n share).Canonical := by
  rw [show @State.zeroShare = _ from by delta State.zeroShare; exact rfl]
  repeat' first
    | with_reducible assumption | with_reducible apply State.canonical_fset | with_reducible apply State.canonical_zeroStack
    | with_reducible apply State.canonical_zeroUnits | with_reducible apply State.canonical_ite | split | dsimp only
    | with_reducible refine State.canonical_mk ?_

theorem State.canonical_showChamber {s : State} {n state : Nat} {c : Chamber} {digest : List Byte} (hs : s.Canonical) :
    (State.showChamber s n state c digest).Canonical := by
  rw [show @State.showChamber = _ from by delta State.showChamber; exact rfl]
  repeat' first
    | with_reducible assumption | (intro _) | with_reducible apply State.canonical_fset
    | with_reducible apply State.canonical_wset | with_reducible apply State.canonical_foldl | split | dsimp only

theorem State.canonical_loadSlot {s : State} {n : Nat} {r : SlotRecord} (hs : s.Canonical) :
    (State.loadSlot s n r).Canonical := by
  rw [show @State.loadSlot = _ from by delta State.loadSlot; exact rfl]
  repeat' first
    | with_reducible assumption | with_reducible apply State.canonical_setSlot | dsimp only

theorem State.canonical_firstUse {s : State} {mask : Nat} (hs : s.Canonical) :
    (State.firstUse s mask).Canonical := by
  rw [show @State.firstUse = _ from by delta State.firstUse; exact rfl]
  repeat' first
    | with_reducible assumption | with_reducible exact State.canonical_of_mk (by assumption) | (intro _)
    | with_reducible apply State.canonical_zeroGallery | with_reducible apply State.canonical_foldl
    | with_reducible apply State.canonicalSnd_foldl | with_reducible (refine State.canonical_of_pair (by assumption) ?_)
    | with_reducible apply State.canonical_snd | split | dsimp only | with_reducible refine State.canonical_mk ?_

theorem State.canonical_setChamber {s : State} {n : Nat} {c : Chamber} {digest : List Byte} {slots : List SlotRecord} {profiles : List (List Byte)} (hs : s.Canonical) :
    (State.setChamber s n c digest slots profiles).Canonical := by
  rw [show @State.setChamber = _ from by delta State.setChamber; exact rfl]
  repeat' first
    | with_reducible assumption | with_reducible exact State.canonical_of_mk (by assumption) | (intro _)
    | with_reducible apply State.canonical_setPoison | with_reducible apply State.canonical_refreshLive
    | with_reducible apply State.canonical_refreshSleep | with_reducible apply State.canonical_showChamber
    | with_reducible apply State.canonical_loadSlot | with_reducible apply State.canonical_firstUse
    | with_reducible apply State.canonical_ite | with_reducible apply State.canonicalSnd_ite
    | with_reducible apply State.canonical_foldl | with_reducible apply State.canonicalSnd_foldl
    | with_reducible (refine State.canonical_of_pair (by assumption) ?_) | with_reducible apply State.canonical_snd | split
    | dsimp only | with_reducible apply State.canonicalSnd_mk | with_reducible refine State.canonical_mk ?_

theorem State.canonical_applyChamber {s : State} {img : List Byte} {n : Nat} (hs : s.Canonical) :
    (State.applyChamber s img n).Canonical := by
  rw [show @State.applyChamber = _ from by delta State.applyChamber; exact rfl]
  repeat' first
    | with_reducible assumption | with_reducible apply State.canonical_setChamber | dsimp only

theorem State.canonical_goLive {s : State} {n : Nat} (hs : s.Canonical) :
    (State.goLive s n).Canonical := by
  rw [show @State.goLive = _ from by delta State.goLive; exact rfl]
  repeat' first
    | with_reducible assumption | with_reducible apply State.canonical_fset | with_reducible apply State.canonical_bump
    | with_reducible apply State.canonical_lockRates | with_reducible apply State.canonical_ite | split | dsimp only
    | with_reducible refine State.canonical_mk ?_

theorem State.canonical_applyPorts {s : State} {ports : List (Nat × Nat × Nat)} (hs : s.Canonical) :
    (State.applyPorts s ports).Canonical := by
  rw [show @State.applyPorts = _ from by delta State.applyPorts; exact rfl]
  repeat' first
    | with_reducible assumption | (intro _) | with_reducible apply State.canonical_laneOut
    | with_reducible apply State.canonical_flow | with_reducible apply State.canonical_trainLane
    | with_reducible apply State.canonical_ite | with_reducible apply State.canonical_foldl | split | dsimp only
    | with_reducible refine State.canonical_mk ?_

theorem State.canonical_enterStage3 {s : State} (hs : s.Canonical) :
    (State.enterStage3 s).Canonical := by
  rw [show @State.enterStage3 = _ from by delta State.enterStage3; exact rfl]
  repeat' first
    | with_reducible assumption | (intro _) | with_reducible apply State.canonical_toStage
    | with_reducible apply State.canonical_trainLane | with_reducible apply State.canonical_foldl | split | dsimp only
    | with_reducible refine State.canonical_mk ?_

theorem State.canonical_showDeviceId {s : State} (hs : s.Canonical) :
    (State.showDeviceId s).Canonical := by
  rw [show @State.showDeviceId = _ from by delta State.showDeviceId; exact rfl]
  repeat' first
    | with_reducible assumption | with_reducible apply State.canonical_fset | dsimp only

theorem State.canonical_outOfGroup {s : State} (hs : s.Canonical) :
    (State.outOfGroup s).Canonical := by
  rw [show @State.outOfGroup = _ from by delta State.outOfGroup; exact rfl]
  repeat' first
    | with_reducible assumption | with_reducible apply State.canonical_fset | with_reducible apply State.canonical_refreshTbc
    | dsimp only | with_reducible refine State.canonical_mk ?_

theorem State.canonical_applyGroup {s : State} {new : Option GroupCfg} (hs : s.Canonical) :
    (State.applyGroup s new).Canonical := by
  rw [show @State.applyGroup = _ from by delta State.applyGroup; exact rfl]
  repeat' first
    | with_reducible assumption | (intro _) | with_reducible apply State.canonical_fset
    | with_reducible apply State.canonical_refuseArrivals | with_reducible apply State.canonical_trainLane
    | with_reducible apply State.canonical_refreshLiveCount | with_reducible apply State.canonical_changeMaster
    | with_reducible apply State.canonical_failTo | with_reducible apply State.canonical_sendMember
    | with_reducible apply State.canonical_showDeviceId | with_reducible apply State.canonical_outOfGroup
    | with_reducible apply State.canonical_ite | with_reducible apply State.canonical_foldl | split | dsimp only
    | with_reducible refine State.canonical_mk ?_

theorem State.canonical_setStatus {s : State} {state code section_ : Nat} (hs : s.Canonical) :
    (State.setStatus s state code section_).Canonical := by
  rw [show @State.setStatus = _ from by delta State.setStatus; exact rfl]
  repeat' first
    | with_reducible assumption | with_reducible apply State.canonical_wset | dsimp only

theorem State.canonical_svyRefusal {s : State} (hs : s.Canonical) :
    (State.svyRefusal s).Canonical := by
  rw [show @State.svyRefusal = _ from by delta State.svyRefusal; exact rfl]
  repeat' first
    | with_reducible assumption | with_reducible apply State.canonical_bump | dsimp only

theorem State.canonical_setSurveySlot {s : State} {k : Nat} {b : List Byte} (hs : s.Canonical) :
    (State.setSurveySlot s k b).Canonical := by
  rw [show @State.setSurveySlot = _ from by delta State.setSurveySlot; exact rfl]
  repeat' first
    | with_reducible assumption | with_reducible apply State.canonical_ite | split | dsimp only
    | with_reducible refine State.canonical_mk ?_

theorem State.canonical_setValid {s : State} {k : Nat} {on : Bool} (hs : s.Canonical) :
    (State.setValid s k on).Canonical := by
  rw [show @State.setValid = _ from by delta State.setValid; exact rfl]
  repeat' first
    | with_reducible assumption | with_reducible apply State.canonical_fset | split | dsimp only

theorem State.canonical_endLoad {s : State} {code : Nat} (hs : s.Canonical) :
    (State.endLoad s code).Canonical := by
  rw [show @State.endLoad = _ from by delta State.endLoad; exact rfl]
  repeat' first
    | with_reducible assumption | with_reducible apply State.canonical_mgEnd | with_reducible apply State.canonical_ite | split
    | dsimp only | with_reducible refine State.canonical_mk ?_

theorem State.canonical_refuseLoad {s : State} {code section_ : Nat} (hs : s.Canonical) :
    (State.refuseLoad s code section_).Canonical := by
  rw [show @State.refuseLoad = _ from by delta State.refuseLoad; exact rfl]
  repeat' first
    | with_reducible assumption | with_reducible apply State.canonical_setStatus
    | with_reducible apply State.canonical_svyRefusal | with_reducible apply State.canonical_endLoad | dsimp only

theorem State.canonical_svyOwnerLost {s : State} (hs : s.Canonical) :
    (State.svyOwnerLost s).Canonical := by
  rw [show @State.svyOwnerLost = _ from by delta State.svyOwnerLost; exact rfl]
  repeat' first
    | with_reducible assumption | with_reducible apply State.canonical_refuseLoad | with_reducible apply State.canonical_ite
    | split | dsimp only

theorem State.canonical_refreshSessions {s : State} (hs : s.Canonical) :
    (State.refreshSessions s).Canonical := by
  rw [show @State.refreshSessions = _ from by delta State.refreshSessions; exact rfl]
  repeat' first
    | with_reducible assumption | (intro _) | with_reducible apply State.canonical_fset
    | with_reducible apply State.canonical_foldl | split | dsimp only

theorem State.canonical_setSession {s : State} {k : Nat} {x : Session} (hs : s.Canonical) :
    (State.setSession s k x).Canonical := by
  rw [show @State.setSession = _ from by delta State.setSession; exact rfl]
  repeat' first
    | with_reducible assumption | with_reducible apply State.canonical_refreshSessions | split | dsimp only
    | with_reducible refine State.canonical_mk ?_

theorem State.canonical_freshViols {s : State} {p : Nat} (hs : s.Canonical) :
    (State.freshViols s p).Canonical := by
  rw [show @State.freshViols = _ from by delta State.freshViols; exact rfl]
  repeat' first
    | with_reducible assumption | split | dsimp only | with_reducible refine State.canonical_mk ?_

theorem State.canonical_enablePorts {s : State} (hs : s.Canonical) :
    (State.enablePorts s).Canonical := by
  rw [show @State.enablePorts = _ from by delta State.enablePorts; exact rfl]
  repeat' first
    | with_reducible assumption | with_reducible apply State.canonical_freshViols | dsimp only

theorem State.canonical_sendFrame {s : State} {port slot type : Nat} {encrypted : Bool} {payload : List Byte} (hs : s.Canonical) :
    (State.sendFrame s port slot type encrypted payload).Canonical := by
  rw [show @State.sendFrame = _ from by delta State.sendFrame; exact rfl]
  repeat' first
    | with_reducible assumption | with_reducible apply State.canonical_bump64 | with_reducible apply State.canonical_emit
    | with_reducible apply State.canonical_setSession | with_reducible apply State.canonical_ite
    | with_reducible apply State.canonicalSnd_ite | with_reducible (refine State.canonical_of_pair (by assumption) ?_)
    | with_reducible apply State.canonical_snd | split | dsimp only | with_reducible apply State.canonicalSnd_mk
    | with_reducible refine State.canonical_mk ?_

theorem State.canonical_setStage {s : State} {state code : Nat} (hs : s.Canonical) :
    (State.setStage s state code).Canonical := by
  rw [show @State.setStage = _ from by delta State.setStage; exact rfl]
  repeat' first
    | with_reducible assumption | with_reducible apply State.canonical_fset | dsimp only

theorem State.canonical_answerCommit {s : State} {c : FwCommit} {code : Nat} (hs : s.Canonical) :
    (State.answerCommit s c code).Canonical := by
  rw [show @State.answerCommit = _ from by delta State.answerCommit; exact rfl]
  repeat' first
    | with_reducible assumption | with_reducible apply State.canonical_mgEnd | with_reducible apply State.canonical_sendFrame
    | with_reducible apply State.canonical_ite | split | dsimp only | with_reducible refine State.canonical_mk ?_

theorem State.canonical_refuseFw {s : State} {code : Nat} (hs : s.Canonical) :
    (State.refuseFw s code).Canonical := by
  rw [show @State.refuseFw = _ from by delta State.refuseFw; exact rfl]
  repeat' first
    | with_reducible assumption | with_reducible apply State.canonical_setStage
    | with_reducible apply State.canonical_answerCommit | split | dsimp only | with_reducible refine State.canonical_mk ?_

theorem State.canonical_fwOwnerLost {s : State} (hs : s.Canonical) :
    (State.fwOwnerLost s).Canonical := by
  rw [show @State.fwOwnerLost = _ from by delta State.fwOwnerLost; exact rfl]
  repeat' first
    | with_reducible assumption | with_reducible apply State.canonical_refuseFw | with_reducible apply State.canonical_ite
    | split | dsimp only | with_reducible refine State.canonical_mk ?_

theorem State.canonical_setUtc {s : State} {utc at_ : Nat} (hs : s.Canonical) :
    (State.setUtc s utc at_).Canonical := by
  rw [show @State.setUtc = _ from by delta State.setUtc; exact rfl]
  repeat' first
    | with_reducible assumption | with_reducible apply State.canonical_pairSet | dsimp only
    | with_reducible refine State.canonical_mk ?_

theorem State.canonical_makeOwner {s : State} {k : Nat} (hs : s.Canonical) :
    (State.makeOwner s k).Canonical := by
  rw [show @State.makeOwner = _ from by delta State.makeOwner; exact rfl]
  repeat' first
    | with_reducible assumption | with_reducible apply State.canonical_fset | with_reducible apply State.canonical_setUtc
    | split | dsimp only | with_reducible refine State.canonical_mk ?_

theorem State.canonical_loseOwnership {s : State} (hs : s.Canonical) :
    (State.loseOwnership s).Canonical := by
  rw [show @State.loseOwnership = _ from by delta State.loseOwnership; exact rfl]
  repeat' first
    | with_reducible assumption | with_reducible apply State.canonical_fset | with_reducible apply State.canonical_draw
    | with_reducible apply State.canonical_svyOwnerLost | with_reducible apply State.canonical_fwOwnerLost
    | with_reducible apply State.canonical_ite | with_reducible apply State.canonical_snd | split | dsimp only

theorem State.canonical_refreshElection {s : State} (hs : s.Canonical) :
    (State.refreshElection s).Canonical := by
  rw [show @State.refreshElection = _ from by delta State.refreshElection; exact rfl]
  repeat' first
    | with_reducible assumption | with_reducible apply State.canonical_fset | dsimp only

theorem State.canonical_dropOut {s : State} {k : Nat} (hs : s.Canonical) :
    (State.dropOut s k).Canonical := by
  rw [show @State.dropOut = _ from by delta State.dropOut; exact rfl]
  repeat' first
    | with_reducible assumption | with_reducible apply State.canonical_fset
    | with_reducible apply State.canonical_refreshElection | with_reducible apply State.canonical_ite | split | dsimp only
    | with_reducible refine State.canonical_mk ?_

theorem State.canonical_closeSession {s : State} {k : Nat} (hs : s.Canonical) :
    (State.closeSession s k).Canonical := by
  rw [show @State.closeSession = _ from by delta State.closeSession; exact rfl]
  repeat' first
    | with_reducible assumption | with_reducible apply State.canonical_wset | with_reducible apply State.canonical_pairSet
    | with_reducible apply State.canonical_refreshSessions | with_reducible apply State.canonical_loseOwnership
    | with_reducible apply State.canonical_dropOut | with_reducible apply State.canonical_ite | split | dsimp only
    | with_reducible refine State.canonical_mk ?_

theorem State.canonical_closeSpent {s : State} {k : Nat} (hs : s.Canonical) :
    (State.closeSpent s k).Canonical := by
  rw [show @State.closeSpent = _ from by delta State.closeSpent; exact rfl]
  repeat' first
    | with_reducible assumption | with_reducible apply State.canonical_closeSession | with_reducible apply State.canonical_ite
    | split | dsimp only | with_reducible refine State.canonical_mk ?_

theorem State.canonical_answerLater {s : State} {k type seq cause : Nat} {more : List Byte} (hs : s.Canonical) :
    (State.answerLater s k type seq cause more).Canonical := by
  rw [show @State.answerLater = _ from by delta State.answerLater; exact rfl]
  repeat' first
    | with_reducible assumption | with_reducible apply State.canonical_sendFrame
    | with_reducible apply State.canonical_closeSpent | with_reducible apply State.canonical_ite | split | dsimp only
    | with_reducible refine State.canonical_mk ?_

theorem State.canonical_setFwSlot {s : State} {k : Nat} {b : List Byte} (hs : s.Canonical) :
    (State.setFwSlot s k b).Canonical := by
  rw [show @State.setFwSlot = _ from by delta State.setFwSlot; exact rfl]
  repeat' first
    | with_reducible assumption | with_reducible apply State.canonical_ite | split | dsimp only
    | with_reducible refine State.canonical_mk ?_

theorem State.canonical_bootFirmware {s : State} {k : Nat} (hs : s.Canonical) :
    (State.bootFirmware s k).Canonical := by
  rw [show @State.bootFirmware = _ from by delta State.bootFirmware; exact rfl]
  repeat' first
    | with_reducible assumption | (intro _) | with_reducible apply State.canonical_fset
    | with_reducible apply State.canonical_wset | with_reducible apply State.canonical_ite
    | with_reducible apply State.canonical_foldl | split | dsimp only | with_reducible refine State.canonical_mk ?_

theorem State.canonical_setNextScan {s : State} {t : Nat} (hs : s.Canonical) :
    (State.setNextScan s t).Canonical := by
  rw [show @State.setNextScan = _ from by delta State.setNextScan; exact rfl]
  repeat' first
    | with_reducible assumption | with_reducible apply State.canonical_pairSet | dsimp only

theorem State.canonical_openWindow {s : State} {g : Nat} {bringUp : Bool} (hs : s.Canonical) :
    (State.openWindow s g bringUp).Canonical := by
  rw [show @State.openWindow = _ from by delta State.openWindow; exact rfl]
  repeat' first
    | with_reducible assumption | with_reducible apply State.canonical_fset | split | dsimp only
    | with_reducible refine State.canonical_mk ?_

theorem State.canonical_endScanItem {s : State} {g code cause : Nat} (hs : s.Canonical) :
    (State.endScanItem s g code cause).Canonical := by
  rw [show @State.endScanItem = _ from by delta State.endScanItem; exact rfl]
  repeat' first
    | with_reducible assumption | with_reducible apply State.canonical_mgEnd | with_reducible apply State.canonical_ite | split
    | dsimp only | with_reducible refine State.canonical_mk ?_

theorem State.canonical_scanResult {s : State} {u verdict : Nat} (hs : s.Canonical) :
    State.CanonicalSnd (State.scanResult s u verdict) := by
  rw [show @State.scanResult = _ from by delta State.scanResult; exact rfl]
  repeat' first
    | with_reducible assumption | with_reducible apply State.canonical_setUnit | with_reducible apply State.canonical_logEvent
    | with_reducible apply State.canonical_judge | with_reducible apply State.canonicalSnd_ite | split | dsimp only
    | with_reducible apply State.canonicalSnd_mk | with_reducible refine State.canonical_mk ?_

theorem State.canonical_unitCmd {s : State} {op u : Nat} (hs : s.Canonical) :
    (State.unitCmd s op u).Canonical := by
  rw [show @State.unitCmd = _ from by delta State.unitCmd; exact rfl]
  repeat' first
    | with_reducible assumption | with_reducible apply State.canonical_setUnit | with_reducible apply State.canonical_logEvent
    | with_reducible apply State.canonical_ite | split | dsimp only | with_reducible refine State.canonical_mk ?_

theorem State.canonical_writeUnitCmd {s : State} {op u : Nat} (hs : s.Canonical) :
    (State.writeUnitCmd s op u).Canonical := by
  rw [show @State.writeUnitCmd = _ from by delta State.writeUnitCmd; exact rfl]
  repeat' first
    | with_reducible assumption | with_reducible apply State.canonical_fset | with_reducible apply State.canonical_unitCmd
    | dsimp only

theorem State.canonical_flashWritten {s : State} (hs : s.Canonical) :
    (State.flashWritten s).Canonical := by
  rw [show @State.flashWritten = _ from by delta State.flashWritten; exact rfl]
  repeat' first
    | with_reducible assumption | with_reducible apply State.canonical_pairSet | split | dsimp only
    | with_reducible refine State.canonical_mk ?_

theorem State.canonical_recordUnit {s : State} {u : Nat} (hs : s.Canonical) :
    (State.recordUnit s u).Canonical := by
  rw [show @State.recordUnit = _ from by delta State.recordUnit; exact rfl]
  repeat' first
    | with_reducible assumption | split | dsimp only | with_reducible refine State.canonical_mk ?_

theorem State.canonical_lifetimeWrite {s : State} (hs : s.Canonical) :
    (State.lifetimeWrite s).Canonical := by
  rw [show @State.lifetimeWrite = _ from by delta State.lifetimeWrite; exact rfl]
  repeat' first
    | with_reducible assumption | with_reducible exact State.canonical_of_mk (by assumption) | (intro _)
    | with_reducible apply State.canonical_fset | with_reducible apply State.canonical_flashWritten
    | with_reducible apply State.canonical_recordUnit | with_reducible apply State.canonical_foldl
    | with_reducible apply State.canonicalSnd_foldl | with_reducible (refine State.canonical_of_pair (by assumption) ?_)
    | with_reducible apply State.canonical_snd | split | dsimp only | with_reducible refine State.canonical_mk ?_

theorem State.canonical_cvuGo {s : State} {g u : Nat} (hs : s.Canonical) :
    (State.cvuGo s g u).Canonical := by
  rw [show @State.cvuGo = _ from by delta State.cvuGo; exact rfl]
  repeat' first
    | with_reducible assumption | with_reducible apply State.canonical_fset | with_reducible apply State.canonical_pairSet
    | with_reducible apply State.canonical_cvuStatus | with_reducible apply State.canonical_setCvuRun
    | with_reducible apply State.canonical_ite | split | dsimp only | with_reducible refine State.canonical_mk ?_

theorem State.canonical_cvuWhole {s : State} {g u n : Nat} (hs : s.Canonical) :
    (State.cvuWhole s g u n).Canonical := by
  rw [show @State.cvuWhole = _ from by delta State.cvuWhole; exact rfl]
  repeat' first
    | with_reducible assumption | with_reducible apply State.canonical_cvuStatus | with_reducible apply State.canonical_cvuRun
    | with_reducible apply State.canonical_reportScrub | with_reducible apply State.canonical_ite
    | with_reducible apply State.canonicalSnd_ite | with_reducible (refine State.canonical_of_pair (by assumption) ?_)
    | with_reducible apply State.canonical_snd | split | dsimp only | with_reducible apply State.canonicalSnd_mk
    | with_reducible refine State.canonical_mk ?_

theorem State.canonical_svyStage {s : State} (hs : s.Canonical) :
    (State.svyStage s).Canonical := by
  rw [show @State.svyStage = _ from by delta State.svyStage; exact rfl]
  repeat' first
    | with_reducible assumption | with_reducible apply State.canonical_setStatus
    | with_reducible apply State.canonical_svyRefusal | with_reducible apply State.canonical_setSurveySlot
    | with_reducible apply State.canonical_setValid | with_reducible apply State.canonical_ite | split | dsimp only
    | with_reducible refine State.canonical_mk ?_

theorem State.canonical_svyCommit {s : State} {session : Nat} {viaMgc : Bool} (hs : s.Canonical) :
    State.CanonicalSnd (State.svyCommit s session viaMgc) := by
  rw [show @State.svyCommit = _ from by delta State.svyCommit; exact rfl]
  repeat' first
    | with_reducible assumption | with_reducible apply State.canonical_setStatus
    | with_reducible apply State.canonical_svyRefusal | with_reducible apply State.canonicalSnd_ite | split | dsimp only
    | with_reducible apply State.canonicalSnd_mk | with_reducible refine State.canonical_mk ?_

theorem State.canonical_svyAbort {s : State} (hs : s.Canonical) :
    (State.svyAbort s).Canonical := by
  rw [show @State.svyAbort = _ from by delta State.svyAbort; exact rfl]
  repeat' first
    | with_reducible assumption | with_reducible apply State.canonical_refuseLoad | with_reducible apply State.canonical_ite
    | split | dsimp only

theorem State.canonical_svyCtrl {s : State} {r : Requester} {w : Nat} (hs : s.Canonical) :
    (State.svyCtrl s r w).Canonical := by
  rw [show @State.svyCtrl = _ from by delta State.svyCtrl; exact rfl]
  repeat' first
    | with_reducible assumption | with_reducible apply State.canonical_svyRefusal
    | with_reducible apply State.canonical_svyStage | with_reducible apply State.canonical_svyCommit
    | with_reducible apply State.canonical_svyAbort | with_reducible apply State.canonical_ite
    | with_reducible apply State.canonical_snd | split | dsimp only | with_reducible refine State.canonical_mk ?_

theorem State.canonical_windowWrite {s : State} {r : Requester} {off : Nat} {bs : List Byte} {answer : Option (Nat × Nat × Nat × Nat)} (hs : s.Canonical) :
    State.CanonicalSnd (State.windowWrite s r off bs answer) := by
  rw [show @State.windowWrite = _ from by delta State.windowWrite; exact rfl]
  repeat' first
    | with_reducible assumption | with_reducible apply State.canonical_bump | with_reducible apply State.canonicalSnd_ite
    | split | dsimp only | with_reducible apply State.canonicalSnd_mk | with_reducible refine State.canonical_mk ?_

theorem State.canonical_checkStaged {s : State} {session : Nat} {img : List Byte} {len : Nat} (hs : s.Canonical) :
    State.CanonicalSnd (State.checkStaged s session img len) := by
  rw [show @State.checkStaged = _ from by delta State.checkStaged; exact rfl]
  repeat' first
    | with_reducible assumption | with_reducible apply State.canonical_setValid | with_reducible apply State.canonicalSnd_ite
    | split | dsimp only | with_reducible apply State.canonicalSnd_mk | with_reducible refine State.canonical_mk ?_

theorem State.canonical_loadPhase {s : State} {l : Load} {p : LoadPhase} (hs : s.Canonical) :
    (State.loadPhase s l p).Canonical := by
  rw [show @State.loadPhase = _ from by delta State.loadPhase; exact rfl]
  repeat' first
    | with_reducible assumption | dsimp only | with_reducible refine State.canonical_mk ?_

theorem State.canonical_showSurvey {s : State} {img : List Byte} (hs : s.Canonical) :
    (State.showSurvey s img).Canonical := by
  rw [show @State.showSurvey = _ from by delta State.showSurvey; exact rfl]
  repeat' first
    | with_reducible assumption | (intro _) | with_reducible apply State.canonical_fset
    | with_reducible apply State.canonical_wset | with_reducible apply State.canonical_foldl | split | dsimp only
    | with_reducible refine State.canonical_mk ?_

theorem State.canonical_reinit {s : State} {kind : Nat} : (s.reinit kind).Canonical :=
  State.canonical_foldl ⟨rfl, rfl⟩ fun _ _ h => State.canonical_rput h

theorem State.canonical_countReset {s : State} (hs : s.Canonical) :
    (State.countReset s).Canonical := by
  rw [show @State.countReset = _ from by delta State.countReset; exact rfl]
  repeat' first
    | with_reducible assumption | split | dsimp only | with_reducible refine State.canonical_mk ?_

theorem State.canonical_leaveReset {s : State} (hs : s.Canonical) :
    (State.leaveReset s).Canonical := by
  rw [show @State.leaveReset = _ from by delta State.leaveReset; exact rfl]
  repeat' first
    | with_reducible assumption | with_reducible apply State.canonical_fset | with_reducible apply State.canonical_noteBoard
    | with_reducible apply State.canonical_ite | split | dsimp only | with_reducible refine State.canonical_mk ?_

theorem State.canonical_warmReset {s : State} (hs : s.Canonical) :
    (State.warmReset s).Canonical := by
  rw [show @State.warmReset = _ from by delta State.warmReset; exact rfl]
  repeat' first
    | with_reducible assumption | with_reducible apply State.canonical_reinit | with_reducible apply State.canonical_countReset
    | with_reducible apply State.canonical_leaveReset | with_reducible apply State.canonical_ite | split | dsimp only

theorem State.canonical_portReset {s : State} (hs : s.Canonical) :
    (State.portReset s).Canonical := by
  rw [show @State.portReset = _ from by delta State.portReset; exact rfl]
  repeat' first
    | with_reducible assumption | (intro _) | with_reducible apply State.canonical_fset
    | with_reducible apply State.canonical_resetRange | with_reducible apply State.canonical_noteBoard
    | with_reducible apply State.canonical_enablePorts | with_reducible apply State.canonical_closeSession
    | with_reducible apply State.canonical_countReset | with_reducible apply State.canonical_foldl | split | dsimp only
    | with_reducible refine State.canonical_mk ?_

theorem State.canonical_shutdown {s : State} (hs : s.Canonical) :
    (State.shutdown s).Canonical := by
  rw [show @State.shutdown = _ from by delta State.shutdown; exact rfl]
  repeat' first
    | with_reducible assumption | with_reducible apply State.canonical_fset | with_reducible apply State.canonical_ite | split
    | dsimp only | with_reducible refine State.canonical_mk ?_

theorem State.canonical_stale {s : State} {ran : Bool} {bound : Nat} (hs : s.Canonical) :
    State.CanonicalSnd (State.stale s ran bound) := by
  rw [show @State.stale = _ from by delta State.stale; exact rfl]
  repeat' first
    | with_reducible assumption | with_reducible apply State.canonical_draw | with_reducible apply State.canonicalSnd_ite
    | split | dsimp only | with_reducible apply State.canonicalSnd_mk

theorem State.canonical_headStrand {s : State} {ops : List EngOp} {ran : Bool} (hs : s.Canonical) :
    State.CanonicalSnd (State.headStrand s ops ran) := by
  rw [show @State.headStrand = _ from by delta State.headStrand; exact rfl]
  repeat' first
    | with_reducible assumption | with_reducible apply State.canonical_stale | split | dsimp only
    | with_reducible apply State.canonicalSnd_mk | with_reducible refine State.canonical_mk ?_

theorem State.canonical_mxeStatus {s : State} {c : Nat} (hs : s.Canonical) :
    State.CanonicalSnd (State.mxeStatus s c) := by
  rw [show @State.mxeStatus = _ from by delta State.mxeStatus; exact rfl]
  repeat' first
    | with_reducible assumption | (intro _) | with_reducible apply State.canonical_stale
    | with_reducible apply State.canonical_headStrand | with_reducible (refine State.canonical_of_pair (by assumption) ?_)
    | with_reducible apply State.canonical_snd | split | dsimp only | with_reducible apply State.canonicalSnd_mk

theorem State.canonical_vxeStatus {s : State} {c : Nat} (hs : s.Canonical) :
    State.CanonicalSnd (State.vxeStatus s c) := by
  rw [show @State.vxeStatus = _ from by delta State.vxeStatus; exact rfl]
  repeat' first
    | with_reducible assumption | with_reducible apply State.canonical_stale | with_reducible apply State.canonical_headStrand
    | with_reducible apply State.canonical_snd | split | dsimp only | with_reducible apply State.canonicalSnd_mk

theorem State.canonical_sfuStatus {s : State} {c : Nat} (hs : s.Canonical) :
    State.CanonicalSnd (State.sfuStatus s c) := by
  rw [show @State.sfuStatus = _ from by delta State.sfuStatus; exact rfl]
  repeat' first
    | with_reducible assumption | with_reducible apply State.canonical_draw | with_reducible apply State.canonical_ite
    | with_reducible apply State.canonicalSnd_ite | with_reducible (refine State.canonical_of_pair (by assumption) ?_)
    | with_reducible apply State.canonical_snd | split | dsimp only | with_reducible apply State.canonicalSnd_mk

theorem State.canonical_atuStatus {s : State} {c : Nat} (hs : s.Canonical) :
    State.CanonicalSnd (State.atuStatus s c) := by
  rw [show @State.atuStatus = _ from by delta State.atuStatus; exact rfl]
  repeat' first
    | with_reducible assumption | with_reducible apply State.canonical_stale | with_reducible apply State.canonical_headStrand
    | with_reducible apply State.canonical_snd | split | dsimp only | with_reducible apply State.canonicalSnd_mk

theorem State.canonical_rteStatus {s : State} {g : Nat} (hs : s.Canonical) :
    State.CanonicalSnd (State.rteStatus s g) := by
  rw [show @State.rteStatus = _ from by delta State.rteStatus; exact rfl]
  repeat' first
    | with_reducible assumption | (intro _) | with_reducible apply State.canonical_stale
    | with_reducible (refine State.canonical_of_pair (by assumption) ?_) | with_reducible apply State.canonical_snd | split
    | dsimp only | with_reducible apply State.canonicalSnd_mk | with_reducible refine State.canonical_mk ?_

theorem State.canonical_readValue {s : State} {r : Requester} {d : Reg} {i j : Nat} (hs : s.Canonical) :
    State.CanonicalSnd (State.readValue s r d i j) := by
  rw [show @State.readValue = _ from by delta State.readValue; exact rfl]
  repeat' first
    | with_reducible assumption | (intro _) | with_reducible apply State.canonical_stale
    | with_reducible apply State.canonical_mxeStatus | with_reducible apply State.canonical_vxeStatus
    | with_reducible apply State.canonical_sfuStatus | with_reducible apply State.canonical_atuStatus
    | with_reducible apply State.canonical_rteStatus | with_reducible apply State.canonical_ite
    | with_reducible apply State.canonicalSnd_ite | with_reducible (refine State.canonical_of_pair (by assumption) ?_)
    | with_reducible apply State.canonical_snd | split | dsimp only | with_reducible apply State.canonicalSnd_mk
    | with_reducible refine State.canonical_mk ?_

theorem State.canonical_latch {s : State} {r : Requester} {a : Nat} (hs : s.Canonical) :
    (State.latch s r a).Canonical := by
  rw [show @State.latch = _ from by delta State.latch; exact rfl]
  repeat' first
    | with_reducible assumption | split | dsimp only | with_reducible refine State.canonical_mk ?_

theorem State.canonical_clearRc {s : State} {d : RegDesc} {a : Nat} (hs : s.Canonical) :
    (State.clearRc s d a).Canonical := by
  rw [show @State.clearRc = _ from by delta State.clearRc; exact rfl]
  repeat' first
    | with_reducible assumption | with_reducible apply State.canonical_rput | with_reducible apply State.canonical_ite | split
    | dsimp only

theorem State.canonical_readReg {s : State} {r : Requester} {a : Nat} (hs : s.Canonical) :
    State.CanonicalSnd (State.readReg s r a) := by
  rw [show @State.readReg = _ from by delta State.readReg; exact rfl]
  repeat' first
    | with_reducible assumption | with_reducible apply State.canonical_lower | with_reducible apply State.canonical_readValue
    | with_reducible apply State.canonical_latch | with_reducible apply State.canonical_clearRc
    | with_reducible apply State.canonicalSnd_ite | with_reducible (refine State.canonical_of_pair (by assumption) ?_) | split
    | dsimp only | with_reducible apply State.canonicalSnd_mk | with_reducible refine State.canonical_mk ?_

theorem State.canonical_reenablePort {s : State} {r : Requester} {p : Nat} (hs : s.Canonical) :
    (State.reenablePort s r p).Canonical := by
  rw [show @State.reenablePort = _ from by delta State.reenablePort; exact rfl]
  repeat' first
    | with_reducible assumption | with_reducible apply State.canonical_fset | with_reducible apply State.canonical_freshViols
    | with_reducible apply State.canonical_ite | split | dsimp only | with_reducible refine State.canonical_mk ?_

theorem State.canonical_reenableSlots {s : State} {p mask : Nat} (hs : s.Canonical) :
    (State.reenableSlots s p mask).Canonical := by
  rw [show @State.reenableSlots = _ from by delta State.reenableSlots; exact rfl]
  repeat' first
    | with_reducible assumption | (intro _) | with_reducible apply State.canonical_wset
    | with_reducible apply State.canonical_foldl | split | dsimp only | with_reducible refine State.canonical_mk ?_

theorem State.canonical_plainWrite {s : State} {d : RegDesc} {a : Nat} {w : Word} {may : Access → Bool} (hs : s.Canonical) :
    (State.plainWrite s d a w may).Canonical := by
  rw [show @State.plainWrite = _ from by delta State.plainWrite; exact rfl]
  repeat' first
    | with_reducible assumption | with_reducible apply State.canonical_rput | dsimp only

theorem State.canonical_writeDevice {s : State} {r : Requester} {d : Reg} {i j : Nat} {w : Word} {plain : State} {both : State → State} (hs : s.Canonical) (hplain : plain.Canonical) (hboth : ∀ x0, x0.Canonical → (both x0).Canonical) :
    (State.writeDevice s r d i j w plain both).Canonical := by
  rw [show @State.writeDevice = _ from by delta State.writeDevice; exact rfl]
  repeat' first
    | with_reducible assumption | with_reducible apply hboth | with_reducible apply State.canonical_fset
    | with_reducible apply State.canonical_invalidate | with_reducible apply State.canonical_flow
    | with_reducible apply State.canonical_trainLane | with_reducible apply State.canonical_truStart
    | with_reducible apply State.canonical_truEnable | with_reducible apply State.canonical_softTrigger
    | with_reducible apply State.canonical_reenableLink | with_reducible apply State.canonical_setNextScan
    | with_reducible apply State.canonical_writeUnitCmd | with_reducible apply State.canonical_warmReset
    | with_reducible apply State.canonical_portReset | with_reducible apply State.canonical_shutdown
    | with_reducible apply State.canonical_reenablePort | with_reducible apply State.canonical_reenableSlots
    | with_reducible apply State.canonical_ite | split | dsimp only

theorem State.canonical_writeGfe {s : State} {d : Reg} {i : Nat} {w : Word} {plain : State} (hs : s.Canonical) (hplain : plain.Canonical) :
    (State.writeGfe s d i w plain).Canonical := by
  rw [show @State.writeGfe = _ from by delta State.writeGfe; exact rfl]
  repeat' first
    | with_reducible assumption | with_reducible apply State.canonical_abortItem | with_reducible apply State.canonical_qcmd
    | with_reducible apply State.canonical_doorbell | with_reducible apply State.canonical_cack
    | with_reducible apply State.canonical_gcmd | with_reducible apply State.canonical_ite | split | dsimp only

theorem State.canonical_writeGallery {s : State} {r : Requester} {d : Reg} {i j : Nat} {w : Word} {plain : State} (hs : s.Canonical) (hplain : plain.Canonical) :
    (State.writeGallery s r d i j w plain).Canonical := by
  rw [show @State.writeGallery = _ from by delta State.writeGallery; exact rfl]
  repeat' first
    | with_reducible assumption | with_reducible apply State.canonical_bump | with_reducible apply State.canonical_cvuStop
    | with_reducible apply State.canonical_lower | with_reducible apply State.canonical_biasWrite
    | with_reducible apply State.canonical_rteCancel | with_reducible apply State.canonical_slotGo
    | with_reducible apply State.canonical_slotAbort | with_reducible apply State.canonical_cvuGo
    | with_reducible apply State.canonical_ite | split | dsimp only

theorem State.canonical_writeCore {s : State} {d : Reg} {i : Nat} {w : Word} {plain : State} (hs : s.Canonical) (hplain : plain.Canonical) :
    (State.writeCore s d i w plain).Canonical := by
  rw [show @State.writeCore = _ from by delta State.writeCore; exact rfl]
  repeat' first
    | with_reducible assumption | with_reducible apply State.canonical_fset | with_reducible apply State.canonical_lower
    | with_reducible apply State.canonical_setSrGen | with_reducible apply State.canonical_loadSeed
    | with_reducible apply State.canonical_trainClose | with_reducible apply State.canonical_trainCloseAll
    | with_reducible apply State.canonical_trainReplay | with_reducible apply State.canonical_trainSkip
    | with_reducible apply State.canonical_dupCtrl | with_reducible apply State.canonical_ite | split | dsimp only
    | with_reducible refine State.canonical_mk ?_

theorem State.canonical_bothMmus {s : State} {d : RegDesc} {a : Nat} {w : Word} {may : Access → Bool} (hs : s.Canonical) :
    (State.bothMmus s d a w may).Canonical := by
  rw [show @State.bothMmus = _ from by delta State.bothMmus; exact rfl]
  repeat' first
    | with_reducible assumption | with_reducible apply State.canonical_plainWrite | with_reducible apply State.canonical_ite
    | with_reducible apply State.canonicalSnd_ite | with_reducible (refine State.canonical_of_pair (by assumption) ?_)
    | with_reducible apply State.canonical_snd | split | dsimp only

theorem State.canonical_writeEffect {s : State} {r : Requester} {d : RegDesc} {a : Nat} {w : Word} (hs : s.Canonical) :
    (State.writeEffect s r d a w).Canonical := by
  rw [show @State.writeEffect = _ from by delta State.writeEffect; exact rfl]
  repeat' first
    | with_reducible assumption | (intro _) | with_reducible apply State.canonical_setSel
    | with_reducible apply State.canonical_svyCtrl | with_reducible apply State.canonical_plainWrite
    | with_reducible apply State.canonical_writeDevice | with_reducible apply State.canonical_writeGfe
    | with_reducible apply State.canonical_writeGallery | with_reducible apply State.canonical_writeCore
    | with_reducible apply State.canonical_bothMmus | with_reducible apply State.canonical_ite
    | with_reducible apply State.canonicalSnd_ite | with_reducible (refine State.canonical_of_pair (by assumption) ?_)
    | with_reducible apply State.canonical_snd | split | dsimp only | with_reducible apply State.canonicalSnd_mk

theorem State.canonical_writeReg {s : State} {r : Requester} {a : Nat} {w : Word} (hs : s.Canonical) :
    State.CanonicalSnd (State.writeReg s r a w) := by
  rw [show @State.writeReg = _ from by delta State.writeReg; exact rfl]
  repeat' first
    | with_reducible assumption | with_reducible apply State.canonical_windowWrite
    | with_reducible apply State.canonical_writeEffect | with_reducible apply State.canonicalSnd_ite
    | with_reducible (refine State.canonical_of_pair (by assumption) ?_) | split | dsimp only
    | with_reducible apply State.canonicalSnd_mk | with_reducible refine State.canonical_mk ?_

theorem State.canonical_csIssue {s : State} {c t op : Nat} {act : Word64 → Strand → Nat → State → State} (hs : s.Canonical) (hact : ∀ x0 x1 x2 x3, x3.Canonical → (act x0 x1 x2 x3).Canonical) :
    (State.csIssue s c t op act).Canonical := by
  rw [show @State.csIssue = _ from by delta State.csIssue; exact rfl]
  repeat' first
    | with_reducible assumption | (intro _) | with_reducible apply hact | with_reducible apply State.canonical_failStrand
    | with_reducible apply State.canonical_issue | with_reducible apply State.canonical_stall
    | with_reducible apply State.canonical_needing | with_reducible apply State.canonical_ite
    | with_reducible apply State.canonicalSnd_ite | with_reducible (refine State.canonical_of_pair (by assumption) ?_)
    | with_reducible apply State.canonical_snd | split | dsimp only

end Sys2Proof.Machine
end

