-- ==== Sys2Proof/Laws/CanonicalSessions.lean ====
section
/-! SUPPORT. The operations of fetch, the memory controllers, frames, session opening, administration, bring-up, power and the package keep the canonical form. -/

set_option linter.unusedTactic false
set_option linter.unreachableTactic false
set_option linter.unusedVariables false
set_option Elab.async false

namespace Sys2Proof.Machine

theorem State.canonical_fillCode {s : State} {c pa : Nat} {bytes : List Byte} (hs : s.Canonical) :
    (State.fillCode s c pa bytes).Canonical := by
  rw [show @State.fillCode = _ from by delta State.fillCode; exact rfl]
  repeat' first
    | with_reducible assumption | (intro _) | with_reducible apply State.canonical_draw
    | with_reducible apply State.canonical_ite | with_reducible apply State.canonicalSnd_ite
    | with_reducible (refine State.canonical_of_pair (by assumption) ?_) | with_reducible apply State.canonical_snd | split
    | dsimp only | with_reducible apply State.canonicalSnd_mk | with_reducible refine State.canonical_mk ?_

theorem State.canonical_fetchWord {s : State} {c n va : Nat} (hs : s.Canonical) :
    State.CanonicalSnd (State.fetchWord s c n va) := by
  rw [show @State.fetchWord = _ from by delta State.fetchWord; exact rfl]
  repeat' first
    | with_reducible assumption | with_reducible apply State.canonical_readLine
    | with_reducible apply State.canonical_recordFault | with_reducible apply State.canonical_translate
    | with_reducible apply State.canonical_fillCode | with_reducible (refine State.canonical_of_pair (by assumption) ?_) | split
    | dsimp only | with_reducible apply State.canonicalSnd_mk | with_reducible refine State.canonical_mk ?_

theorem State.canonical_noteLow {s : State} {valid low : Fld} {mhz i : Nat} (hs : s.Canonical) :
    (State.noteLow s valid low mhz i).Canonical := by
  rw [show @State.noteLow = _ from by delta State.noteLow; exact rfl]
  repeat' first
    | with_reducible assumption | with_reducible apply State.canonical_fset | split | dsimp only

theorem State.canonical_refreshRateDev {s : State} (hs : s.Canonical) :
    (State.refreshRateDev s).Canonical := by
  rw [show @State.refreshRateDev = _ from by delta State.refreshRateDev; exact rfl]
  repeat' first
    | with_reducible assumption | with_reducible apply State.canonical_wset | split | dsimp only

theorem State.canonical_windowItems {s : State} {g ratio : Nat} (hs : s.Canonical) :
    (State.windowItems s g ratio).Canonical := by
  rw [show @State.windowItems = _ from by delta State.windowItems; exact rfl]
  repeat' first
    | with_reducible assumption | (intro _) | with_reducible apply State.canonical_draw
    | with_reducible apply State.canonical_modItem | with_reducible apply State.canonicalSnd_ite
    | with_reducible apply State.canonical_foldl | with_reducible apply State.canonical_snd | split | dsimp only
    | with_reducible apply State.canonicalSnd_mk | with_reducible refine State.canonical_mk ?_

theorem State.canonical_scalar {s : State} {c t op : Nat} {mask : Word64 → Nat} {f : Word64 → Strand → Strand} (hs : s.Canonical) :
    (State.scalar s c t op mask f).Canonical := by
  rw [show @State.scalar = _ from by delta State.scalar; exact rfl]
  repeat' first
    | with_reducible assumption | (intro _) | with_reducible apply State.canonical_issue
    | with_reducible apply State.canonical_advance | with_reducible apply State.canonical_needing | split | dsimp only

theorem State.canonical_branch {s : State} {c t op : Nat} {mask : Word64 → Nat} {cond : Word64 → Strand → Bool} (hs : s.Canonical) :
    (State.branch s c t op mask cond).Canonical := by
  rw [show @State.branch = _ from by delta State.branch; exact rfl]
  repeat' first
    | with_reducible assumption | (intro _) | with_reducible apply State.canonical_setStrand
    | with_reducible apply State.canonical_issue | with_reducible apply State.canonical_needing | split | dsimp only

theorem State.canonical_showMargin {s : State} {st : Nat} (hs : s.Canonical) :
    (State.showMargin s st).Canonical := by
  rw [show @State.showMargin = _ from by delta State.showMargin; exact rfl]
  repeat' first
    | with_reducible assumption | with_reducible apply State.canonical_fset | split | dsimp only
    | with_reducible refine State.canonical_mk ?_

theorem State.canonical_stepped {s : State} {k : Nat} {c : HbcChannel} (hs : s.Canonical) :
    (State.stepped s k c).Canonical := by
  rw [show @State.stepped = _ from by delta State.stepped; exact rfl]
  repeat' first
    | with_reducible assumption | (intro _) | with_reducible (refine State.canonical_of_pair (by assumption) ?_)
    | with_reducible apply State.canonical_snd | split | dsimp only | with_reducible refine State.canonical_mk ?_

theorem State.canonical_scrubLine {s : State} {st off : Nat} {ev : CellEvent} (hs : s.Canonical) :
    (State.scrubLine s st off ev).Canonical := by
  rw [show @State.scrubLine = _ from by delta State.scrubLine; exact rfl]
  repeat' first
    | with_reducible assumption | with_reducible apply State.canonical_bump64 | with_reducible apply State.canonical_cellEvent
    | with_reducible apply State.canonical_ite | split | dsimp only | with_reducible refine State.canonical_mk ?_

theorem State.canonical_nextLine {s : State} {k lines : Nat} (hs : s.Canonical) :
    State.CanonicalSnd (State.nextLine s k lines) := by
  rw [show @State.nextLine = _ from by delta State.nextLine; exact rfl]
  repeat' first
    | with_reducible assumption | split | dsimp only | with_reducible apply State.canonicalSnd_mk
    | with_reducible refine State.canonical_mk ?_

theorem State.canonical_startCommit {s : State} {c : FwCommit} (hs : s.Canonical) :
    (State.startCommit s c).Canonical := by
  rw [show @State.startCommit = _ from by delta State.startCommit; exact rfl]
  repeat' first
    | with_reducible assumption | with_reducible apply State.canonical_setStage | dsimp only
    | with_reducible refine State.canonical_mk ?_

theorem State.canonical_openTest {s : State} {p until_ : Nat} (hs : s.Canonical) :
    (State.openTest s p until_).Canonical := by
  rw [show @State.openTest = _ from by delta State.openTest; exact rfl]
  repeat' first
    | with_reducible assumption | with_reducible apply State.canonical_fset | with_reducible apply State.canonical_flow | split
    | dsimp only | with_reducible refine State.canonical_mk ?_

theorem State.canonical_closeTest {s : State} {p : Nat} (hs : s.Canonical) :
    (State.closeTest s p).Canonical := by
  rw [show @State.closeTest = _ from by delta State.closeTest; exact rfl]
  repeat' first
    | with_reducible assumption | (intro _) | with_reducible apply State.canonical_fset
    | with_reducible apply State.canonical_trainLane | with_reducible apply State.canonical_ite
    | with_reducible apply State.canonical_foldl | split | dsimp only | with_reducible refine State.canonical_mk ?_

theorem State.canonical_reply {s : State} {k type : Nat} {payload : List Byte} (hs : s.Canonical) :
    (State.reply s k type payload).Canonical := by
  rw [show @State.reply = _ from by delta State.reply; exact rfl]
  repeat' first
    | with_reducible assumption | with_reducible apply State.canonical_sendFrame | split | dsimp only
    | with_reducible refine State.canonical_mk ?_

theorem State.canonical_frameNak {s : State} {k cause type seq : Nat} (hs : s.Canonical) :
    (State.frameNak s k cause type seq).Canonical := by
  rw [show @State.frameNak = _ from by delta State.frameNak; exact rfl]
  repeat' first
    | with_reducible assumption | with_reducible apply State.canonical_sendFrame | split | dsimp only
    | with_reducible refine State.canonical_mk ?_

theorem State.canonical_refuse {s : State} {p slot cause : Nat} (hs : s.Canonical) :
    (State.refuse s p slot cause).Canonical := by
  rw [show @State.refuse = _ from by delta State.refuse; exact rfl]
  repeat' first
    | with_reducible assumption | with_reducible apply State.canonical_sendFrame | dsimp only

theorem State.canonical_setViols {s : State} {p : Nat} {v : ViolCount} (hs : s.Canonical) :
    (State.setViols s p v).Canonical := by
  rw [show @State.setViols = _ from by delta State.setViols; exact rfl]
  repeat' first
    | with_reducible assumption | split | dsimp only | with_reducible refine State.canonical_mk ?_

theorem State.canonical_noteViol {s : State} {p : Nat} {slot : Option Nat} {cause type : Nat} (hs : s.Canonical) :
    (State.noteViol s p slot cause type).Canonical := by
  rw [show @State.noteViol = _ from by delta State.noteViol; exact rfl]
  repeat' first
    | with_reducible assumption | with_reducible apply State.canonical_wset | with_reducible apply State.canonical_bump
    | with_reducible apply State.canonical_draw | with_reducible apply State.canonical_setViols
    | with_reducible apply State.canonical_snd | split | dsimp only | with_reducible refine State.canonical_mk ?_

theorem State.canonical_isolateSlot {s : State} {p k : Nat} {entry : Option Nat} {digest : List Byte} (hs : s.Canonical) :
    (State.isolateSlot s p k entry digest).Canonical := by
  rw [show @State.isolateSlot = _ from by delta State.isolateSlot; exact rfl]
  repeat' first
    | with_reducible assumption | with_reducible apply State.canonical_wset | with_reducible apply State.canonical_draw
    | with_reducible apply State.canonical_closeSession | with_reducible apply State.canonical_setViols
    | with_reducible apply State.canonical_snd | split | dsimp only | with_reducible refine State.canonical_mk ?_

theorem State.canonical_isolatePort {s : State} {p : Nat} (hs : s.Canonical) :
    (State.isolatePort s p).Canonical := by
  rw [show @State.isolatePort = _ from by delta State.isolatePort; exact rfl]
  repeat' first
    | with_reducible assumption | (intro _) | with_reducible apply State.canonical_fset
    | with_reducible apply State.canonical_closeSession | with_reducible apply State.canonical_foldl | split | dsimp only

theorem State.canonical_judgeViols {s : State} {p : Nat} {slot : Option (Nat × Option Nat × List Byte)} (hs : s.Canonical) :
    (State.judgeViols s p slot).Canonical := by
  rw [show @State.judgeViols = _ from by delta State.judgeViols; exact rfl]
  repeat' first
    | with_reducible assumption | with_reducible apply State.canonical_isolateSlot
    | with_reducible apply State.canonical_isolatePort | with_reducible apply State.canonical_ite | split | dsimp only
    | with_reducible refine State.canonical_mk ?_

theorem State.canonical_violation {s : State} {p : Nat} {slot : Option (Nat × Option Nat × List Byte)} {cause type : Nat} {answer : State → State} (hs : s.Canonical) (hanswer : ∀ x0, x0.Canonical → (answer x0).Canonical) :
    (State.violation s p slot cause type answer).Canonical := by
  rw [show @State.violation = _ from by delta State.violation; exact rfl]
  repeat' first
    | with_reducible assumption | with_reducible apply hanswer | with_reducible apply State.canonical_noteViol
    | with_reducible apply State.canonical_judgeViols | dsimp only

theorem State.canonical_dropFrame {s : State} {p cause type : Nat} (hs : s.Canonical) :
    (State.dropFrame s p cause type).Canonical := by
  rw [show @State.dropFrame = _ from by delta State.dropFrame; exact rfl]
  repeat' first
    | with_reducible assumption | (intro _) | with_reducible apply State.canonical_bump
    | with_reducible apply State.canonical_violation | split | dsimp only

theorem State.canonical_frameViol {s : State} {f : Frame} {cause : Nat} (hs : s.Canonical) :
    (State.frameViol s f cause).Canonical := by
  rw [show @State.frameViol = _ from by delta State.frameViol; exact rfl]
  repeat' first
    | with_reducible assumption | (intro _) | with_reducible apply State.canonical_frameNak
    | with_reducible apply State.canonical_violation | split | dsimp only | with_reducible refine State.canonical_mk ?_

theorem State.canonical_receive {s : State} {p : Nat} {rest : State → State} (hs : s.Canonical) (hrest : ∀ x0, x0.Canonical → (rest x0).Canonical) :
    (State.receive s p rest).Canonical := by
  rw [show @State.receive = _ from by delta State.receive; exact rfl]
  repeat' first
    | with_reducible assumption | with_reducible apply hrest | with_reducible apply State.canonical_bump
    | with_reducible apply State.canonical_bump64 | with_reducible apply State.canonical_ite | split | dsimp only

theorem State.canonical_acceptFrame {s : State} {f : Frame} (hs : s.Canonical) :
    (State.acceptFrame s f).Canonical := by
  rw [show @State.acceptFrame = _ from by delta State.acceptFrame; exact rfl]
  repeat' first
    | with_reducible assumption | with_reducible apply State.canonical_setSession | with_reducible apply State.canonical_ite
    | split | dsimp only | with_reducible refine State.canonical_mk ?_

theorem State.canonical_judged {s : State} {p : Nat} {f : Frame} {rest : State → State} (hs : s.Canonical) (hrest : ∀ x0, x0.Canonical → (rest x0).Canonical) :
    (State.judged s p f rest).Canonical := by
  rw [show @State.judged = _ from by delta State.judged; exact rfl]
  repeat' first
    | with_reducible assumption | (intro _) | with_reducible apply hrest | with_reducible apply State.canonical_dropFrame
    | with_reducible apply State.canonical_frameViol | with_reducible apply State.canonical_receive
    | with_reducible apply State.canonical_ite | split | dsimp only

theorem State.canonical_sessRequest {s : State} {p : Nat} {w : Frame} {layout : Frame → Bool} {act : Frame → Session → State → State} (hs : s.Canonical) (hact : ∀ x0 x1 x2, x2.Canonical → (act x0 x1 x2).Canonical) :
    (State.sessRequest s p w layout act).Canonical := by
  rw [show @State.sessRequest = _ from by delta State.sessRequest; exact rfl]
  repeat' first
    | with_reducible assumption | (intro _) | with_reducible apply hact | with_reducible apply State.canonical_closeSpent
    | with_reducible apply State.canonical_frameViol | with_reducible apply State.canonical_acceptFrame
    | with_reducible apply State.canonical_judged | with_reducible apply State.canonical_ite
    | with_reducible apply State.canonicalSnd_ite | with_reducible (refine State.canonical_of_pair (by assumption) ?_)
    | with_reducible apply State.canonical_snd | split | dsimp only | with_reducible refine State.canonical_mk ?_

theorem State.canonical_challenge {s : State} {p k : Nat} {f : Frame} {key : List Byte} {entry : Option Nat} (hs : s.Canonical) :
    (State.challenge s p k f key entry).Canonical := by
  rw [show @State.challenge = _ from by delta State.challenge; exact rfl]
  repeat' first
    | with_reducible assumption | with_reducible apply State.canonical_wset | with_reducible apply State.canonical_draw
    | with_reducible apply State.canonical_drawBytes | with_reducible apply State.canonical_setSession
    | with_reducible apply State.canonical_sendFrame | with_reducible apply State.canonical_closeSpent
    | with_reducible (refine State.canonical_of_pair (by assumption) ?_) | with_reducible apply State.canonical_snd | split
    | dsimp only | with_reducible apply State.canonicalSnd_mk | with_reducible refine State.canonical_mk ?_

theorem State.canonical_hello {s : State} {p : Nat} {f : Frame} (hs : s.Canonical) : (s.hello p f).Canonical := by
  rw [show @State.hello = _ from by delta State.hello; exact rfl]
  extract_lets digest ctp s1 unused
  have h1 : s1.Canonical := State.canonical_ite hs (State.canonical_setUtc hs)
  clear_value s1
  split
  rename_i e
  have h := State.canonical_of_pair e (State.canonical_draw h1)
  split
  · exact State.canonical_violation h fun _ h => State.canonical_refuse h
  · exact State.canonical_violation h fun _ h => State.canonical_refuse h
  · exact State.canonical_refuse h
  · exact State.canonical_ite (State.canonical_refuse h) (State.canonical_challenge h)

theorem State.canonical_claimAnswer {s : State} {k result : Nat} (hs : s.Canonical) :
    (State.claimAnswer s k result).Canonical := by
  rw [show @State.claimAnswer = _ from by delta State.claimAnswer; exact rfl]
  repeat' first
    | with_reducible assumption | with_reducible apply State.canonical_reply | dsimp only

theorem State.canonical_newOwner {s : State} {k : Nat} (hs : s.Canonical) :
    (State.newOwner s k).Canonical := by
  rw [show @State.newOwner = _ from by delta State.newOwner; exact rfl]
  repeat' first
    | with_reducible assumption | with_reducible apply State.canonical_fset | with_reducible apply State.canonical_svyOwnerLost
    | with_reducible apply State.canonical_fwOwnerLost | with_reducible apply State.canonical_makeOwner
    | with_reducible apply State.canonical_ite | with_reducible apply State.canonicalSnd_ite
    | with_reducible (refine State.canonical_of_pair (by assumption) ?_) | with_reducible apply State.canonical_snd | split
    | dsimp only

theorem State.canonical_closeElection {s : State} {k : Nat} (hs : s.Canonical) :
    (State.closeElection s k).Canonical := by
  rw [show @State.closeElection = _ from by delta State.closeElection; exact rfl]
  repeat' first
    | with_reducible assumption | (intro _) | with_reducible apply State.canonical_wset
    | with_reducible apply State.canonical_bump | with_reducible apply State.canonical_closeSpent
    | with_reducible apply State.canonical_claimAnswer | with_reducible apply State.canonical_newOwner
    | with_reducible apply State.canonical_foldl | split | dsimp only | with_reducible refine State.canonical_mk ?_

theorem State.canonical_acceptSession {s : State} {k : Nat} {x : Session} (hs : s.Canonical) :
    (State.acceptSession s k x).Canonical := by
  rw [show @State.acceptSession = _ from by delta State.acceptSession; exact rfl]
  repeat' first
    | with_reducible assumption | with_reducible apply State.canonical_fset | with_reducible apply State.canonical_pairSet
    | with_reducible apply State.canonical_setSlot | with_reducible apply State.canonical_setSession
    | with_reducible apply State.canonical_sendFrame | with_reducible apply State.canonical_setViols
    | with_reducible apply State.canonical_newOwner | with_reducible apply State.canonical_closeElection
    | with_reducible apply State.canonical_ite | with_reducible apply State.canonicalSnd_ite
    | with_reducible (refine State.canonical_of_pair (by assumption) ?_) | with_reducible apply State.canonical_snd | split
    | dsimp only | with_reducible apply State.canonicalSnd_mk

theorem State.canonical_refreshCreds {s : State} (hs : s.Canonical) :
    (State.refreshCreds s).Canonical := by
  rw [show @State.refreshCreds = _ from by delta State.refreshCreds; exact rfl]
  repeat' first
    | with_reducible assumption | (intro _) | with_reducible apply State.canonical_fset
    | with_reducible apply State.canonical_foldl | split | dsimp only

theorem State.canonical_memRead {s : State} {y0 : List (Nat × Nat)} {y1 : List CellEvent} (hs : s.Canonical) :
    State.CanonicalSnd (State.memRead s y0 y1) := by
  induction y0 generalizing s y1 hs with
  | nil =>
    unfold State.memRead
    repeat' first
      | with_reducible assumption | with_reducible apply State.canonical_readLine
      | with_reducible apply State.canonical_cellEvent | with_reducible apply State.canonicalSnd_ite
      | with_reducible (refine State.canonical_of_pair (by assumption) ?_) | split | dsimp only
      | with_reducible apply State.canonicalSnd_mk | with_reducible refine State.canonical_mk ?_
  | cons b l ih =>
    rcases b with ⟨b1, b2⟩
    unfold State.memRead
    repeat' first
      | with_reducible assumption | (apply ih <;> with_reducible assumption) | with_reducible apply ih
      | with_reducible apply State.canonical_readLine | with_reducible apply State.canonical_cellEvent
      | with_reducible apply State.canonicalSnd_ite | with_reducible (refine State.canonical_of_pair (by assumption) ?_) | split
      | dsimp only | with_reducible apply State.canonicalSnd_mk | with_reducible refine State.canonical_mk ?_

theorem State.canonical_memWriteLines {s : State} {y0 : List (Nat × Nat)} {y1 : List Byte} {y2 : List CellEvent} (hs : s.Canonical) :
    State.CanonicalSnd (State.memWriteLines s y0 y1 y2) := by
  induction y0 generalizing s y1 y2 hs with
  | nil =>
    unfold State.memWriteLines
    repeat' first
      | with_reducible assumption | with_reducible apply State.canonical_writeLine
      | with_reducible apply State.canonical_cellEvent | with_reducible apply State.canonicalSnd_ite
      | with_reducible (refine State.canonical_of_pair (by assumption) ?_) | split | dsimp only
      | with_reducible apply State.canonicalSnd_mk | with_reducible refine State.canonical_mk ?_
  | cons b l ih =>
    rcases b with ⟨b1, b2⟩
    unfold State.memWriteLines
    repeat' first
      | with_reducible assumption | (apply ih <;> with_reducible assumption) | with_reducible apply ih
      | with_reducible apply State.canonical_writeLine | with_reducible apply State.canonical_cellEvent
      | with_reducible apply State.canonicalSnd_ite | with_reducible (refine State.canonical_of_pair (by assumption) ?_) | split
      | dsimp only | with_reducible apply State.canonicalSnd_mk | with_reducible refine State.canonical_mk ?_

theorem State.canonical_pollEntry {s : State} {q : Nat} (hs : s.Canonical) :
    State.CanonicalSnd (State.pollEntry s q) := by
  rw [show @State.pollEntry = _ from by delta State.pollEntry; exact rfl]
  repeat' first
    | with_reducible assumption | with_reducible apply State.canonical_draw | with_reducible apply State.canonicalSnd_ite
    | with_reducible (refine State.canonical_of_pair (by assumption) ?_) | split | dsimp only
    | with_reducible apply State.canonicalSnd_mk

theorem State.canonical_refreshKeys {s : State} (hs : s.Canonical) :
    (State.refreshKeys s).Canonical := by
  rw [show @State.refreshKeys = _ from by delta State.refreshKeys; exact rfl]
  repeat' first
    | with_reducible assumption | with_reducible apply State.canonical_fset | dsimp only

theorem State.canonical_closeEntry {s : State} {e : Nat} (hs : s.Canonical) :
    (State.closeEntry s e).Canonical := by
  rw [show @State.closeEntry = _ from by delta State.closeEntry; exact rfl]
  repeat' first
    | with_reducible assumption | (intro _) | with_reducible apply State.canonical_closeSession
    | with_reducible apply State.canonical_foldl | split | dsimp only

theorem State.canonical_setKey {s : State} {e : Nat} {key : Option (List Byte)} (hs : s.Canonical) :
    (State.setKey s e key).Canonical := by
  rw [show @State.setKey = _ from by delta State.setKey; exact rfl]
  repeat' first
    | with_reducible assumption | with_reducible apply State.canonical_refreshKeys | split | dsimp only
    | with_reducible refine State.canonical_mk ?_

theorem State.canonical_setFwValid {s : State} {k : Nat} {on : Bool} (hs : s.Canonical) :
    (State.setFwValid s k on).Canonical := by
  rw [show @State.setFwValid = _ from by delta State.setFwValid; exact rfl]
  repeat' first
    | with_reducible assumption | with_reducible apply State.canonical_fset | split | dsimp only

theorem State.canonical_fwFirst {s : State} {k : Nat} (hs : s.Canonical) :
    (State.fwFirst s k).Canonical := by
  rw [show @State.fwFirst = _ from by delta State.fwFirst; exact rfl]
  repeat' first
    | with_reducible assumption | with_reducible apply State.canonical_setStage | with_reducible apply State.canonical_setFwSlot
    | with_reducible apply State.canonical_setFwValid | split | dsimp only | with_reducible refine State.canonical_mk ?_

theorem State.canonical_setLifecycle {s : State} {v : Nat} (hs : s.Canonical) :
    (State.setLifecycle s v).Canonical := by
  rw [show @State.setLifecycle = _ from by delta State.setLifecycle; exact rfl]
  repeat' first
    | with_reducible assumption | with_reducible apply State.canonical_fset | with_reducible apply State.canonical_wset
    | dsimp only

theorem State.canonical_eraseSurveys {s : State} (hs : s.Canonical) :
    (State.eraseSurveys s).Canonical := by
  rw [show @State.eraseSurveys = _ from by delta State.eraseSurveys; exact rfl]
  repeat' first
    | with_reducible assumption | (intro _) | with_reducible apply State.canonical_fset
    | with_reducible apply State.canonical_wset | with_reducible apply State.canonical_setStatus
    | with_reducible apply State.canonical_setSurveySlot | with_reducible apply State.canonical_setValid
    | with_reducible apply State.canonical_endLoad | with_reducible apply State.canonical_foldl | split | dsimp only
    | with_reducible refine State.canonical_mk ?_

theorem State.canonical_zeroiseAll {s : State} (hs : s.Canonical) : s.zeroiseAll.Canonical := by
  rw [show @State.zeroiseAll = _ from by delta State.zeroiseAll; exact rfl]
  dsimp only
  refine State.canonical_foldl ?_ fun _ _ h => State.canonical_setChamber h
  refine State.canonical_ext ?_
  dsimp only
  refine ⟨rfl, (State.canonical_fold ?_).2⟩
  refine State.canonical_foldl ?_ fun _ _ h => State.canonical_setPoison h
  refine State.canonical_foldl ?_ fun _ _ h => State.canonical_zeroGallery h
  refine State.canonical_foldl ?_ fun _ _ h => State.canonical_zeroShare h
  exact State.canonical_foldl hs fun _ _ h => State.canonical_zeroBegin (State.canonical_stopChamber h)

theorem State.canonical_toReturn {s : State} (hs : s.Canonical) :
    (State.toReturn s).Canonical := by
  rw [show @State.toReturn = _ from by delta State.toReturn; exact rfl]
  repeat' first
    | with_reducible assumption | (intro _) | with_reducible apply State.canonical_fset
    | with_reducible apply State.canonical_applyPorts | with_reducible apply State.canonical_applyGroup
    | with_reducible apply State.canonical_closeSession | with_reducible apply State.canonical_refreshKeys
    | with_reducible apply State.canonical_setLifecycle | with_reducible apply State.canonical_eraseSurveys
    | with_reducible apply State.canonical_zeroiseAll | with_reducible apply State.canonical_foldl | split | dsimp only
    | with_reducible refine State.canonical_mk ?_

theorem State.canonical_initRegulator {s : State} {d : Nat} (hs : s.Canonical) :
    (State.initRegulator s d).Canonical := by
  rw [show @State.initRegulator = _ from by delta State.initRegulator; exact rfl]
  repeat' first
    | with_reducible assumption | with_reducible apply State.canonical_emit | dsimp only

theorem State.canonical_readHealth {s : State} (hs : s.Canonical) :
    (State.readHealth s).Canonical := by
  rw [show @State.readHealth = _ from by delta State.readHealth; exact rfl]
  repeat' first
    | with_reducible assumption | with_reducible exact State.canonical_of_mk (by assumption) | (intro _)
    | with_reducible apply State.canonical_refreshSummary | with_reducible apply State.canonical_refreshLive
    | with_reducible apply State.canonical_refreshLane | with_reducible apply State.canonical_refreshDomain
    | with_reducible apply State.canonical_clearRates | with_reducible apply State.canonical_foldl
    | with_reducible apply State.canonicalSnd_foldl | with_reducible (refine State.canonical_of_pair (by assumption) ?_)
    | with_reducible apply State.canonical_snd | split | dsimp only | with_reducible apply State.canonicalSnd_mk
    | with_reducible refine State.canonical_mk ?_

theorem State.canonical_bootCheck {s : State} {k : Nat} (hs : s.Canonical) :
    State.CanonicalSnd (State.bootCheck s k) := by
  rw [show @State.bootCheck = _ from by delta State.bootCheck; exact rfl]
  repeat' first
    | with_reducible assumption | with_reducible apply State.canonical_setValid | split | dsimp only
    | with_reducible apply State.canonicalSnd_mk | with_reducible refine State.canonical_mk ?_

theorem State.canonical_bootSurvey {s : State} {k which : Nat} (hs : s.Canonical) :
    (State.bootSurvey s k which).Canonical := by
  rw [show @State.bootSurvey = _ from by delta State.bootSurvey; exact rfl]
  repeat' first
    | with_reducible assumption | with_reducible apply State.canonical_fset | with_reducible apply State.canonical_applyPorts
    | with_reducible apply State.canonical_enterStage3 | with_reducible apply State.canonical_applyGroup
    | with_reducible apply State.canonical_showSurvey | dsimp only

theorem State.canonical_earlyPages {s : State} {n : Nat} (hs : s.Canonical) :
    (State.earlyPages s n).Canonical := by
  rw [show @State.earlyPages = _ from by delta State.earlyPages; exact rfl]
  repeat' first
    | with_reducible assumption | (intro _) | with_reducible apply State.canonical_fset
    | with_reducible apply State.canonical_setBytes | with_reducible apply State.canonical_foldl | split | dsimp only

theorem State.canonical_earlySetup {s t : State} {b : List Byte} (hs : s.Canonical) (e : s.earlySetup b = some t) : t.Canonical := by
  rw [show @State.earlySetup = _ from by delta State.earlySetup; exact rfl] at e
  extract_lets n c tables slots img va qcbs room mapped s1 s2 s3 s4 goff a s5 s6 at e
  have h1 : s1.Canonical := State.canonical_earlyPages (State.canonical_setChamber hs)
  clear_value s1
  have h2 : s2.Canonical := State.canonical_setBytes h1
  clear_value s2
  have h3 : s3.Canonical := State.canonical_fset (State.canonical_fset (State.canonical_fset h2))
  clear_value s3
  have h4 : s4.Canonical := State.canonical_foldl h3 fun _ _ h => State.canonical_openQueue h
  clear_value s4
  have h5 : s5.Canonical := State.canonical_fset (State.canonical_fset h4)
  clear_value s5
  have h6 : s6.Canonical := State.canonical_graphCreate (State.canonical_beginCmd (State.canonical_fset (State.canonical_fset h5)))
  clear_value s6
  split at e
  · cases e
  · split at e
    · cases e; exact h4
    · split at e
      · cases e; exact h6
      · cases e

theorem State.canonical_skipEarly {s : State} {why : Nat} (hs : s.Canonical) :
    (State.skipEarly s why).Canonical := by
  rw [show @State.skipEarly = _ from by delta State.skipEarly; exact rfl]
  repeat' first
    | with_reducible assumption | with_reducible apply State.canonical_fset | dsimp only

theorem State.canonical_fullChambers {s : State} (hs : s.Canonical) :
    (State.fullChambers s).Canonical := by
  rw [show @State.fullChambers = _ from by delta State.fullChambers; exact rfl]
  repeat' first
    | with_reducible assumption | (intro _) | with_reducible apply State.canonical_applyChamber
    | with_reducible apply State.canonical_goLive | with_reducible apply State.canonical_foldl | split | dsimp only
    | with_reducible refine State.canonical_mk ?_

theorem State.canonical_showSlack {s : State} {d : Nat} (hs : s.Canonical) :
    (State.showSlack s d).Canonical := by
  rw [show @State.showSlack = _ from by delta State.showSlack; exact rfl]
  repeat' first
    | with_reducible assumption | with_reducible apply State.canonical_fset | dsimp only

theorem State.canonical_reportCanary {s : State} {d : Nat} (hs : s.Canonical) :
    (State.reportCanary s d).Canonical := by
  rw [show @State.reportCanary = _ from by delta State.reportCanary; exact rfl]
  repeat' first
    | with_reducible assumption | with_reducible apply State.canonical_fset | with_reducible apply State.canonical_bump
    | with_reducible apply State.canonical_report | with_reducible apply State.canonical_ite | split | dsimp only
    | with_reducible refine State.canonical_mk ?_

theorem State.canonical_refreshCalibrated {s : State} (hs : s.Canonical) :
    (State.refreshCalibrated s).Canonical := by
  rw [show @State.refreshCalibrated = _ from by delta State.refreshCalibrated; exact rfl]
  repeat' first
    | with_reducible assumption | with_reducible apply State.canonical_fset | with_reducible apply State.canonical_ite | split
    | dsimp only

theorem State.canonical_addEnergy {s : State} {pkg : Nat} (hs : s.Canonical) :
    (State.addEnergy s pkg).Canonical := by
  rw [show @State.addEnergy = _ from by delta State.addEnergy; exact rfl]
  repeat' first
    | with_reducible assumption | with_reducible apply State.canonical_pairSet | split | dsimp only
    | with_reducible refine State.canonical_mk ?_

theorem State.canonical_setGuard {s : State} {on : Bool} (hs : s.Canonical) :
    (State.setGuard s on).Canonical := by
  rw [show @State.setGuard = _ from by delta State.setGuard; exact rfl]
  repeat' first
    | with_reducible assumption | (intro _) | with_reducible apply State.canonical_fset
    | with_reducible apply State.canonical_setDomain | with_reducible apply State.canonical_showSlack
    | with_reducible apply State.canonical_foldl | split | dsimp only | with_reducible refine State.canonical_mk ?_

theorem State.canonical_moveRate {s : State} {n g khz : Nat} {lowered : Bool} (hs : s.Canonical) :
    (State.moveRate s n g khz lowered).Canonical := by
  rw [show @State.moveRate = _ from by delta State.moveRate; exact rfl]
  repeat' first
    | with_reducible assumption | with_reducible apply State.canonical_setDomain | with_reducible apply State.canonical_setRate
    | dsimp only | with_reducible refine State.canonical_mk ?_

theorem State.canonical_refreshDomainChamber {s : State} {d : Nat} (hs : s.Canonical) :
    (State.refreshDomainChamber s d).Canonical := by
  rw [show @State.refreshDomainChamber = _ from by delta State.refreshDomainChamber; exact rfl]
  repeat' first
    | with_reducible assumption | with_reducible apply State.canonical_refreshChamberPower | split | dsimp only
    | with_reducible refine State.canonical_mk ?_

theorem State.canonical_noteHeat {s : State} {hot : Nat} (hs : s.Canonical) :
    (State.noteHeat s hot).Canonical := by
  rw [show @State.noteHeat = _ from by delta State.noteHeat; exact rfl]
  repeat' first
    | with_reducible assumption | with_reducible apply State.canonical_ite | split | dsimp only
    | with_reducible refine State.canonical_mk ?_

theorem State.canonical_throttle {s : State} {d : Nat} (hs : s.Canonical) :
    (State.throttle s d).Canonical := by
  rw [show @State.throttle = _ from by delta State.throttle; exact rfl]
  repeat' first
    | with_reducible assumption | with_reducible apply State.canonical_setDomain | with_reducible apply State.canonical_mark
    | with_reducible apply State.canonical_setRate | with_reducible apply State.canonical_ite | split | dsimp only
    | with_reducible refine State.canonical_mk ?_

theorem State.canonical_supplyTrip {s : State} (hs : s.Canonical) :
    (State.supplyTrip s).Canonical := by
  rw [show @State.supplyTrip = _ from by delta State.supplyTrip; exact rfl]
  repeat' first
    | with_reducible assumption | with_reducible apply State.canonical_tripNow | with_reducible apply State.canonical_ite
    | split | dsimp only

theorem State.canonical_muteDomain {s : State} {d : Nat} (hs : s.Canonical) :
    (State.muteDomain s d).Canonical := by
  rw [show @State.muteDomain = _ from by delta State.muteDomain; exact rfl]
  repeat' first
    | with_reducible assumption | with_reducible apply State.canonical_deviceFails
    | with_reducible apply State.canonical_setDomain | with_reducible apply State.canonical_ite | split | dsimp only
    | with_reducible refine State.canonical_mk ?_

theorem State.canonical_boardRead {s : State} (hs : s.Canonical) :
    State.CanonicalSnd (State.boardRead s) := by
  rw [show @State.boardRead = _ from by delta State.boardRead; exact rfl]
  repeat' first
    | with_reducible assumption | split | dsimp only | with_reducible apply State.canonicalSnd_mk
    | with_reducible refine State.canonical_mk ?_

theorem State.canonical_boardReads {s : State} {y0 : Nat} (hs : s.Canonical) :
    State.CanonicalSnd (State.boardReads s y0) := by
  induction y0 generalizing s hs with
  | zero =>
    unfold State.boardReads
    repeat' first
      | with_reducible assumption | with_reducible apply State.canonical_boardRead
      | with_reducible (refine State.canonical_of_pair (by assumption) ?_) | split | dsimp only
      | with_reducible apply State.canonicalSnd_mk
  | succ k ih =>
    unfold State.boardReads
    repeat' first
      | with_reducible assumption | (apply ih <;> with_reducible assumption) | with_reducible apply ih
      | with_reducible apply State.canonical_boardRead | with_reducible (refine State.canonical_of_pair (by assumption) ?_)
      | split | dsimp only | with_reducible apply State.canonicalSnd_mk

theorem State.canonical_captureLands {s : State} (hs : s.Canonical) :
    State.CanonicalSnd (State.captureLands s) := by
  rw [show @State.captureLands = _ from by delta State.captureLands; exact rfl]
  repeat' first
    | with_reducible assumption | with_reducible apply State.canonical_draw
    | with_reducible (refine State.canonical_of_pair (by assumption) ?_) | split | dsimp only
    | with_reducible apply State.canonicalSnd_mk

theorem State.canonical_scanOut {s : State} {captured tdi : List Bool} (hs : s.Canonical) :
    State.CanonicalSnd (State.scanOut s captured tdi) := by
  rw [show @State.scanOut = _ from by delta State.scanOut; exact rfl]
  repeat' first
    | with_reducible assumption | with_reducible apply State.canonical_emit | dsimp only
    | with_reducible apply State.canonicalSnd_mk

theorem State.canonical_loadIr {s : State} {ir : TapIr} (hs : s.Canonical) :
    (State.loadIr s ir).Canonical := by
  rw [show @State.loadIr = _ from by delta State.loadIr; exact rfl]
  repeat' first
    | with_reducible assumption | dsimp only | with_reducible refine State.canonical_mk ?_

theorem State.canonical_loadBoundaryIr {s : State} {ir : TapIr} (hs : s.Canonical) :
    (State.loadBoundaryIr s ir).Canonical := by
  rw [show @State.loadBoundaryIr = _ from by delta State.loadBoundaryIr; exact rfl]
  repeat' first
    | with_reducible assumption | with_reducible apply State.canonical_loadIr | with_reducible apply State.canonical_ite | split
    | dsimp only | with_reducible refine State.canonical_mk ?_

theorem State.canonical_boundaryScan {s : State} {tdi : List Bool} (hs : s.Canonical) :
    (State.boundaryScan s tdi).Canonical := by
  rw [show @State.boundaryScan = _ from by delta State.boundaryScan; exact rfl]
  repeat' first
    | with_reducible assumption | with_reducible apply State.canonical_captureLands
    | with_reducible apply State.canonical_scanOut | with_reducible (refine State.canonical_of_pair (by assumption) ?_) | split
    | dsimp only | with_reducible refine State.canonical_mk ?_

theorem State.canonical_withFetchWord {s : State} {nbits w : Nat} (hs : s.Canonical) :
    (State.withFetchWord s nbits w).Canonical := by
  rw [show @State.withFetchWord = _ from by delta State.withFetchWord; exact rfl]
  repeat' first
    | with_reducible assumption | split | dsimp only | with_reducible refine State.canonical_mk ?_

end Sys2Proof.Machine
end

