-- ==== Sys2Proof/Laws/Cipher.lean ====
section
/-! SUPPORT. Sealed frames: what is enciphered and deciphered under the same key and nonce is as it was. -/

namespace Sys2Proof.Machine

theorem xorBytes_length (a b : List Byte) : (xorBytes a b).length = min a.length b.length := by
  simp [xorBytes]

theorem xorBytes_cancel (a k : List Byte) (h : a.length ≤ k.length) : xorBytes (xorBytes a k) k = a := by
  induction a generalizing k with
  | nil => simp [xorBytes]
  | cons x xs ih =>
    cases k with
    | nil => simp at h
    | cons y ys =>
      have := ih ys (by simpa using h)
      simp only [xorBytes, List.zipWith_cons_cons, List.cons.injEq] at this ⊢
      exact ⟨by rw [BitVec.xor_assoc, BitVec.xor_self, BitVec.xor_zero], this⟩

/-- Every word of a key schedule keeps its four bytes, and it grows by one word a step. -/
theorem aesExpand_words (n i : Nat) (r : Byte) (ws : List (List Byte)) (h8 : 8 ≤ ws.length) (h4 : ∀ w ∈ ws, w.length = 4) :
    (aesExpand n i r ws).length = ws.length + n ∧ ∀ w ∈ aesExpand n i r ws, w.length = 4 := by
  induction n generalizing i r ws with
  | zero => exact ⟨rfl, h4⟩
  | succ n ih =>
    have hd : (ws.headD []).length = 4 := by
      cases ws with
      | nil => simp at h8
      | cons w _ => exact h4 w (by simp)
    have h7 : (ws.getD 7 []).length = 4 := by
      rw [List.getD_eq_getElem?_getD, List.getElem?_eq_getElem (by omega)]
      exact h4 _ (List.getElem_mem _)
    have step : ∀ u : List Byte, u.length = 4 → ∀ w ∈ xorBytes (ws.getD 7 []) u :: ws, w.length = 4 := by
      intro u hu w hw
      rcases List.mem_cons.mp hw with rfl | hw
      · rw [xorBytes_length, h7, hu]; rfl
      · exact h4 w hw
    unfold aesExpand
    have key := fun r' u hu => ih (i + 1) r' (xorBytes (ws.getD 7 []) u :: ws) (by simp only [List.length_cons]; omega) (step u hu)
    obtain ⟨ha, hb⟩ := key (if i % 8 = 0 then xtime r else r)
      (if i % 8 = 0 then xorBytes (((ws.headD []).drop 1 ++ (ws.headD []).take 1).map aesSub) [r, 0#8, 0#8, 0#8]
        else if i % 8 = 4 then (ws.headD []).map aesSub else ws.headD [])
      (by
        split_ifs
        · simp only [xorBytes_length, List.length_map, List.length_append, List.length_drop, List.length_take, hd, List.length_cons,
            List.length_nil]
          rfl
        · rw [List.length_map, hd]
        · exact hd)
    exact ⟨by rw [ha, List.length_cons]; omega, hb⟩

theorem piecesOf_length (k n : Nat) (bs : List Byte) (h : k * n ≤ bs.length) : ∀ w ∈ piecesOf k n bs, w.length = k := by
  induction n generalizing bs with
  | zero => simp [piecesOf]
  | succ n ih =>
    intro w hw
    rw [Nat.mul_succ] at h
    rcases List.mem_cons.mp hw with rfl | hw
    · rw [List.length_take]; omega
    · exact ih (bs.drop k) (by rw [List.length_drop]; omega) w hw

theorem piecesOf_count (k n : Nat) (bs : List Byte) : (piecesOf k n bs).length = n := by
  induction n generalizing bs with
  | zero => rfl
  | succ n ih => simp [piecesOf, ih]

/-- Every round key has 16 bytes. -/
theorem aesKeys_length (key : List Byte) : ∀ k ∈ aesKeys key, k.length = 16 := by
  have hs : (slice key 0 32).length = 32 := by
    simp only [slice, List.length_append, List.length_replicate, List.length_take, List.length_drop]; omega
  have h := aesExpand_words 52 8 1#8 (piecesOf 4 8 (slice key 0 32)).reverse
    (by rw [List.length_reverse, piecesOf_count]) (fun w hw => piecesOf_length 4 8 _ (by omega) w (List.mem_reverse.mp hw))
  obtain ⟨hn, hw⟩ := h
  rw [List.length_reverse, piecesOf_count] at hn
  apply piecesOf_length
  rw [List.length_flatten, List.map_congr_left (g := fun _ => 4) (fun w h => hw w (List.mem_reverse.mp h)), List.map_const',
    List.length_reverse, hn]
  decide

theorem aesBlock_length (key x : List Byte) : (aesBlock (aesKeys key) x).length = 16 := by
  unfold aesBlock
  simp only [xorBytes_length, aesShift, List.length_map, List.length_range]
  rw [List.getD_eq_getElem?_getD, List.getElem?_eq_getElem (by rw [aesKeys, piecesOf_count]; decide)]
  rw [Option.getD_some, aesKeys_length key _ (List.getElem_mem _)]; rfl

theorem gcmStream_length (key nonce : List Byte) (n i : Nat) : (gcmStream (aesKeys key) nonce n i).length = 16 * n := by
  induction n generalizing i with
  | zero => rfl
  | succ n ih => rw [gcmStream, List.length_append, aesBlock_length, ih]; omega

@[simp] theorem gcmCrypt_length (key nonce bs : List Byte) : (gcmCrypt key nonce bs).length = bs.length := by
  rw [gcmCrypt, xorBytes_length, gcmStream_length]; omega

/-- What is enciphered and then deciphered under one key and nonce is as it was. -/
@[simp] theorem gcmCrypt_gcmCrypt (key nonce bs : List Byte) : gcmCrypt key nonce (gcmCrypt key nonce bs) = bs := by
  have hl := gcmCrypt_length key nonce bs
  rw [gcmCrypt, hl]
  exact xorBytes_cancel _ _ (by rw [gcmStream_length]; omega)

theorem leBytes_length (n v : Nat) : (leBytes n v).length = n := by
  induction n generalizing v with
  | zero => rfl
  | succ n ih => rw [leBytes, List.length_cons, ih]

theorem gcmTag_length (key nonce aad bs : List Byte) : (gcmTag key nonce aad bs).length = 16 := by
  rw [gcmTag, xorBytes_length, aesBlock_length, beBytes, List.length_reverse, leBytes_length]; rfl

/-- An encrypted frame is well formed in its header, sealed or not, where its tag has 16 bytes. -/
theorem Frame.badHeader_sealed (f : Frame) (key : List Byte) (dir : Nat) :
    (f.sealed key dir).badHeader = ({ f with tag := List.replicate 16 0#8 } : Frame).badHeader := by
  simp only [Frame.sealed, Frame.badHeader, gcmCrypt_length, gcmTag_length, List.length_replicate]
  rfl

/-- A frame sealed under a key opens under it, as it was. -/
theorem Frame.opened_sealed (f : Frame) (key : List Byte) (dir : Nat) (ht : f.tag = []) : (f.sealed key dir).opened key dir = some f := by
  simp only [Frame.sealed, Frame.opened, Frame.header, Frame.nonce, beq_self_eq_true, if_true, gcmCrypt_gcmCrypt]
  cases f
  simp_all

end Sys2Proof.Machine
end

