-- ==== Sys2Proof/WellFormed.lean ====
section
/-! DEFINITION. Well-formed commands: every operand names a unit that the device has, or a value that its field can hold. -/

namespace Sys2Proof.Machine

/-! ### Ranges of operands (R1, R22, R47, R456, R500, R585, R618, R695, R703) -/

def coreOk (c : Nat) : Bool := decide (c < 128)
def strandOk (t : Nat) : Bool := decide (t < 8192)
def galleryOk (g : Nat) : Bool := decide (g < 16)
def chamberOk (n : Nat) : Bool := decide (n < 16)
def stackOk (st : Nat) : Bool := decide (st < 16)
def portOk (p : Nat) : Bool := decide (p < 16)
def ctlPortOk (p : Nat) : Bool := decide (p < 2)
def laneOk (l : Nat) : Bool := decide (l < 64)
def queueOk (q : Nat) : Bool := decide (q < 4096)
def deviceOk (d : Nat) : Bool := decide (d < 2 ^ 16)
/-- A power domain: those of the galleries, and the uncore as 16. -/
def domainOk (d : Nat) : Bool := decide (d < 17)
def wordOk (v : Nat) : Bool := decide (v < 2 ^ 32)

def Requester.wf : Requester → Bool
  | .session k => decide (k < 16)
  | .firmware => true
  | .core c t => coreOk c && strandOk t

def ItemKey.wf (k : ItemKey) : Bool := queueOk k.queue && wordOk k.seq && k.node.all (fun n => decide (n < 4096))

def Aging.wf : Aging → Bool
  | .strand c t => coreOk c && strandOk t
  | .item q seq => queueOk q && wordOk seq

/-- Every field fits its place in the header of R585. -/
def Packet.wf (p : Packet) : Bool :=
  decide (p.type < 256) && decide (p.flags < 256) && decide (p.hops < 256) && decide (p.chamber < 256) && deviceOk p.dst &&
  deviceOk p.src && decide (p.addr < 2 ^ 48) && decide (p.length < 2 ^ 16) && wordOk p.txn && wordOk p.arg &&
  decide (p.queue < 2 ^ 16) && decide (p.qepoch < 2 ^ 16) && decide (p.stream < 2 ^ 16) && decide (p.lseq < 2 ^ 16) &&
  decide (p.payload.length ≤ 4096) && decide (p.e2e < 2 ^ 64)

/-- Every field fits its place in the header of R456. -/
def Frame.wf (f : Frame) : Bool :=
  decide (f.version < 256) && decide (f.type < 256) && decide (f.slot < 256) && decide (f.flags < 256) &&
  decide (f.length < 2 ^ 16) && decide (f.reserved < 2 ^ 16) && decide (f.seq < 2 ^ 64) && decide (f.payload.length < 2 ^ 16)

end Sys2Proof.Machine

namespace Sys2Proof

open Sys2Proof.Machine

/-- A command names units and values in range. -/
def Instr.wf (i : Instr) : Bool :=
  match i with
  | .registerWrite r a _ => r.wf && wordOk a
  | .rcRead r a => r.wf && wordOk a
  | .counterLoRead r a => r.wf && wordOk a
  | .flagsRcRead r a => r.wf && wordOk a
  | .rateWindowEnd d _ coreCycles => domainOk d && decide (coreCycles.length ≤ 8)
  | .strandWake c t => coreOk c && strandOk t
  | .strandQuantumEnd c t => coreOk c && strandOk t
  | .instructionFetch c t => coreOk c && strandOk t
  | .sLi c t => coreOk c && strandOk t
  | .sMov c t => coreOk c && strandOk t
  | .sAdd c t => coreOk c && strandOk t
  | .sSub c t => coreOk c && strandOk t
  | .sMul c t => coreOk c && strandOk t
  | .sMulhu c t => coreOk c && strandOk t
  | .sAnd c t => coreOk c && strandOk t
  | .sOr c t => coreOk c && strandOk t
  | .sXor c t => coreOk c && strandOk t
  | .sShl c t => coreOk c && strandOk t
  | .sShr c t => coreOk c && strandOk t
  | .sSra c t => coreOk c && strandOk t
  | .sSlt c t => coreOk c && strandOk t
  | .sSltu c t => coreOk c && strandOk t
  | .sAddp c t => coreOk c && strandOk t
  | .sBr c t => coreOk c && strandOk t
  | .sBeq c t => coreOk c && strandOk t
  | .sBne c t => coreOk c && strandOk t
  | .sBlt c t => coreOk c && strandOk t
  | .sBge c t => coreOk c && strandOk t
  | .sBltu c t => coreOk c && strandOk t
  | .sBgeu c t => coreOk c && strandOk t
  | .sCall c t => coreOk c && strandOk t
  | .sJmp c t => coreOk c && strandOk t
  | .sYield c t => coreOk c && strandOk t
  | .sNop c t => coreOk c && strandOk t
  | .svyStage r => r.wf
  | .svyCommit r => r.wf
  | .svyAbort r => r.wf
  | .stagingWindowWrite r off words => r.wf && decide (off < 2 ^ 25) && decide (off + 4 * words.length ≤ 2 ^ 25)
  | .stageBytesProgrammed => true
  | .svyCheck => true
  | .svyZeroise => true
  | .zeroiseDone n share => chamberOk n && share.all stackOk
  | .svyApply => true
  | .svyFlip => true
  | .srSeedHiWrite r c _ hi => r.wf && coreOk c && wordOk hi
  | .slotWrite r g _ hold => r.wf && galleryOk g && decide (hold < 2 ^ 16)
  | .slotWriteAbort r g => r.wf && galleryOk g
  | .slotWriteWriting g => galleryOk g
  | .holdExpired g => galleryOk g
  | .slotWriteDone g => galleryOk g
  | .mxRun c t => coreOk c && strandOk t
  | .mxRunComplete c => coreOk c
  | .dupCompare c _ => coreOk c
  | .mxeDupCtrlWrite r c enable rate tol => r.wf && coreOk c && decide (enable < 2) && decide (rate < 64) && decide (tol < 256)
  | .mxeAbortAck c => coreOk c
  | .vxAdd c t => coreOk c && strandOk t
  | .vxSub c t => coreOk c && strandOk t
  | .vxMul c t => coreOk c && strandOk t
  | .vxFma c t => coreOk c && strandOk t
  | .vxMax c t => coreOk c && strandOk t
  | .vxMin c t => coreOk c && strandOk t
  | .vxUn c t => coreOk c && strandOk t
  | .vxCmp c t => coreOk c && strandOk t
  | .vxSel c t => coreOk c && strandOk t
  | .vxCvt c t => coreOk c && strandOk t
  | .vxCstore c t => coreOk c && strandOk t
  | .vxRed c t => coreOk c && strandOk t
  | .vxRstat c t => coreOk c && strandOk t
  | .vxRmsn c t => coreOk c && strandOk t
  | .vxSmax c t => coreOk c && strandOk t
  | .vxFn c t => coreOk c && strandOk t
  | .vxeComplete c => coreOk c
  | .vxeAbortAck c => coreOk c
  | .atRun c t => coreOk c && strandOk t
  | .atAppend c t => coreOk c && strandOk t
  | .appendResume c => coreOk c
  | .atuComplete c => coreOk c
  | .atuAbortAck c => coreOk c
  | .seqOpen c t => coreOk c && strandOk t
  | .openRetry n => chamberOk n
  | .seqCommit c t => coreOk c && strandOk t
  | .seqTruncate c t => coreOk c && strandOk t
  | .seqRelease c t => coreOk c && strandOk t
  | .seqOpProceed c => coreOk c
  | .poolPageZeroised n => chamberOk n
  | .rtRun c t => coreOk c && strandOk t
  | .biasWindowClose n p => chamberOk n && decide (p < 32)
  | .rtRunComplete g epoch => galleryOk g && decide (epoch < 2 ^ 16)
  | .xcRecv c t => coreOk c && strandOk t
  | .xcRecvComplete _ => true
  | .xcReturn c t => coreOk c && strandOk t
  | .rxBusyRetry txn dst => wordOk txn && deviceOk dst
  | .rteBiasWrite r g value => r.wf && galleryOk g && wordOk value
  | .rteCancel r g epoch => r.wf && galleryOk g && decide (epoch < 2 ^ 16)
  | .rteAbortAck g => galleryOk g
  | .trainClose r c entry => r.wf && coreOk c && decide (entry < 64)
  | .trainCloseAll r c => r.wf && coreOk c
  | .trainReplay r c entry fmt => r.wf && coreOk c && decide (entry < 64) && decide (fmt < 16)
  | .trainSkip r c entry => r.wf && coreOk c && decide (entry < 64)
  | .mmuInvalidate r n pages => r.wf && chamberOk n && decide (pages < 2 ^ 16)
  | .mmuInvalidateAll r n => r.wf && chamberOk n
  | .mmuInvalidateDone n => chamberOk n
  | .homeAccess _ _ => true
  | .hbcRetrain st ch _ _ _ _ => stackOk st && decide (ch < 16)
  | .refresh st ch => stackOk st && decide (ch < 16)
  | .temperatureReadout st _ => stackOk st
  | .patrolScrub st _ => stackOk st
  | .moLd c t => coreOk c && strandOk t
  | .moSt c t => coreOk c && strandOk t
  | .add c t => coreOk c && strandOk t
  | .fadd c t => coreOk c && strandOk t
  | .swap c t => coreOk c && strandOk t
  | .cas c t => coreOk c && strandOk t
  | .smax c t => coreOk c && strandOk t
  | .smin c t => coreOk c && strandOk t
  | .amoOr c t => coreOk c && strandOk t
  | .amoAnd c t => coreOk c && strandOk t
  | .fenceAcquire c t => coreOk c && strandOk t
  | .fenceRelease c t => coreOk c && strandOk t
  | .fenceFull c t => coreOk c && strandOk t
  | .moBar c t => coreOk c && strandOk t
  | .hello p f => ctlPortOk p && f.wf
  | .proof p f => ctlPortOk p && f.wf
  | .heartbeat p f => ctlPortOk p && f.wf
  | .close p f => ctlPortOk p && f.wf
  | .regRead p f => ctlPortOk p && f.wf
  | .regWrite p f => ctlPortOk p && f.wf
  | .memRead p f _ => ctlPortOk p && f.wf
  | .memWrite p f _ => ctlPortOk p && f.wf
  | .doorbell p f => ctlPortOk p && f.wf
  | .poll p f => ctlPortOk p && f.wf
  | .claim p f => ctlPortOk p && f.wf
  | .electionClose => true
  | .handover p f => ctlPortOk p && f.wf
  | .attest p f => ctlPortOk p && f.wf
  | .attestReport => true
  | .keyEnroll p f => ctlPortOk p && f.wf
  | .keyRevoke p f => ctlPortOk p && f.wf
  | .keysetEnroll p f => ctlPortOk p && f.wf
  | .keysetRemove p f => ctlPortOk p && f.wf
  | .fwStage p f => ctlPortOk p && f.wf
  | .fwStageWritten => true
  | .fwCommit p f => ctlPortOk p && f.wf
  | .fwCommitDone => true
  | .advance p f => ctlPortOk p && f.wf
  | .floor p f => ctlPortOk p && f.wf
  | .unknownType p f => ctlPortOk p && f.wf
  | .sessionTimeout k => decide (k < 16)
  | .heartbeatLoss => true
  | .violWindowEnd p => ctlPortOk p
  | .reenablePort r p => r.wf && ctlPortOk p
  | .reenableSlots r p mask => r.wf && ctlPortOk p && decide (mask < 2 ^ 16)
  | .lossOfLight => true
  | .create r n => r.wf && chamberOk n
  | .qcbRead n => chamberOk n
  | .destroy r n q => r.wf && chamberOk n && queueOk q
  | .reclaim r n q => r.wf && chamberOk n && queueOk q
  | .teardownDone q => queueOk q
  | .graphCreate r n g => r.wf && chamberOk n && decide (g < 64)
  | .patch r n => r.wf && chamberOk n
  | .patchDone n => chamberOk n
  | .graphDestroy r n g => r.wf && chamberOk n && decide (g < 64)
  | .qDbWrite r q tail => r.wf && queueOk q && wordOk tail
  | .qCackWrite r q v => r.wf && queueOk q && wordOk v
  | .qCancel r q seq => r.wf && queueOk q && wordOk seq
  | .itemFetch n => chamberOk n
  | .itemDispatch n => chamberOk n
  | .itemBind g => galleryOk g
  | .markerEnd q seq => queueOk q && wordOk seq
  | .graphNodeDispatch q seq k => queueOk q && wordOk seq && decide (k < 4096)
  | .messageDispatch q => queueOk q
  | .copyComplete k => k.wf
  | .dmvAbortAck k => k.wf
  | .itemTimeout q seq => queueOk q && wordOk seq
  | .qwEnd c t => coreOk c && strandOk t
  | .qwTake c t => coreOk c && strandOk t
  | .qwDone c t => coreOk c && strandOk t
  | .qwExit c t => coreOk c && strandOk t
  | .qwLive c t => coreOk c && strandOk t
  | .surveyCommit => true
  | .mgmtFwCommit => true
  | .scan => true
  | .flush => true
  | .portTest => true
  | .endTest => true
  | .testWindowEnd p => portOk p
  | .ageExpiry a => a.wf
  | .preempt g => galleryOk g
  | .suspendDone c t => coreOk c && strandOk t
  | .resume c => coreOk c
  | .laneTrain l _ => laneOk l
  | .laneTrainRetry l => laneOk l
  | .retrain r p k => r.wf && portOk p && decide (k < 4)
  | .rdReq l p _ => laneOk l && p.wf
  | .wr l p _ => laneOk l && p.wf
  | .closeWr l p => laneOk l && p.wf
  | .closeWrPerform src n req k => deviceOk src && chamberOk n && decide (req < 256) && wordOk k
  | .closeTimeout src n req k => deviceOk src && chamberOk n && decide (req < 256) && wordOk k
  | .amo l p _ => laneOk l && p.wf
  | .row l p => laneOk l && p.wf
  | .rowEnd l p => laneOk l && p.wf
  | .barArrive l p => laneOk l && p.wf
  | .barRelease l p => laneOk l && p.wf
  | .sync l p _ => laneOk l && p.wf
  | .syncSend => true
  | .holdover => true
  | .memberHeartbeat l p => laneOk l && p.wf
  | .view l p changes => laneOk l && p.wf && changes.all (fun e => deviceOk e.1)
  | .leave l p => laneOk l && p.wf
  | .heartbeatSend => true
  | .memberDeparted d => deviceOk d
  | .masterLost => true
  | .masterTakeover => true
  | .rdResp l p => laneOk l && p.wf
  | .wrAck l p => laneOk l && p.wf
  | .amoResp l p => laneOk l && p.wf
  | .rowDrop l p => laneOk l && p.wf
  | .result l p => laneOk l && p.wf
  | .nak l p => laneOk l && p.wf
  | .packetForward l p => laneOk l && p.wf
  | .credit l p => laneOk l && p.wf
  | .ack l p => laneOk l && p.wf
  | .replayReq l p => laneOk l && p.wf
  | .eqReq l p => laneOk l && p.wf
  | .eqRsp l p => laneOk l && p.wf
  | .param l p _ => laneOk l && p.wf
  | .eqUpdate l _ _ _ _ _ => laneOk l
  | .lnkViolWindowEnd p => portOk p
  | .lnkReenable r p => r.wf && portOk p
  | .scanWindow g => galleryOk g
  | .dupScanWindow c => coreOk c
  | .scanDrainEnd => true
  | .scanQuiesced => true
  | .scanSlateDone fails => fails.all (fun e => decide (e.1 < 1024))
  | .markAmber r u => r.wf && decide (u < 1024)
  | .clearAmber r u => r.wf && decide (u < 1024)
  | .retire r u => r.wf && decide (u < 1024)
  | .healthFlashWrite => true
  | .lifetimeWrite => true
  | .cvuGo r g u => r.wf && galleryOk g && decide (u < 2)
  | .cvuAbort r g u => r.wf && galleryOk g && decide (u < 2)
  | .cvuRunDone g u => galleryOk g && decide (u < 2)
  | .powerOn => true
  | .resetN => true
  | .warmReset r => r.wf
  | .portReset r => r.wf
  | .pwrGoodFall => true
  | .firmwareVerified vexps => decide (vexps.length = 17)
  | .stage2Done => true
  | .stackTrained st _ => stackOk st
  | .earlyService => true
  | .stage5 => true
  | .earlyHandover => true
  | .marginLoopStep d _ => domainOk d
  | .canaryEmergency d _ => domainOk d
  | .powerWindow doms bytes _ => decide (doms.length = 17) && decide (bytes.length = 16)
  | .powerLoopStep n => chamberOk n
  | .pkgGuardEnd => true
  | .regulatorSettled d => domainOk d
  | .thermalRead temps => decide (temps.length = 17)
  | .pmbusPoll d _ _ _ => domainOk d
  | .pmbusAlert seg faults => decide (seg < 4) && faults.all domainOk
  | .shutdown r => r.wf
  | .offReq => true
  | .shutdownDrainEnd => true
  | .offReady => true
  | .refclkLoss => true
  | .tbRead c t => coreOk c && strandOk t
  | .trMark c t => coreOk c && strandOk t
  | .pcSample c => coreOk c
  | .truDrain n => chamberOk n
  | .trigger r n => r.wf && chamberOk n
  | .restart r n => r.wf && chamberOk n
  | .truTimeTrigger n => chamberOk n
  | .i3cWrite addr _ => decide (addr < 128)
  | .i3cRead addr _ => decide (addr < 128)
  | .entdaa addr => decide (addr < 128)
  | .setdasa static addr => decide (static < 128) && decide (addr < 128)
  | .rstdaa => true
  | .getpid addr => decide (addr < 128)
  | .getbcr addr => decide (addr < 128)
  | .getdcr addr => decide (addr < 128)
  | .getstatus addr => decide (addr < 128)
  | .enec target events => target.all (fun a => decide (a < 128)) && decide (events < 256)
  | .disec target events => target.all (fun a => decide (a < 128)) && decide (events < 256)
  | .bypass _ => true
  | .idcode _ => true
  | .samplePreload _ => true
  | .extest _ => true
  | .clamp _ => true
  | .highz _ => true
  | .testLogicReset => true
  | .csLd c t => coreOk c && strandOk t
  | .csSt c t => coreOk c && strandOk t
  | .xcReturnComplete _ => true
  | .graphCreateDone n => chamberOk n
  | .badOrOutOfOrderPacket l p _ => laneOk l && p.wf
  | .unknownPacketType l p => laneOk l && p.wf
  | .uncorrectableCodeword l => laneOk l
  | .opticalLinkChange p _ => ctlPortOk p
  | .counterHoldEnd => true
  | .vauxWithinTolerance => true
  | .resetNRises => true
  | .uncorrectableUncoreFault => true

end Sys2Proof
end

