-- ==== Sys2Proof/Laws/PerInstr.lean ====
section
/-! SUPPORT. Every unit that a well-formed command names is a unit of the device: family `Operands`, one lemma per
command. -/

namespace Sys2Proof.Laws.Operands

open Sys2Proof.Machine

/-- A unit, or a sender or a message, that a command names. -/
inductive Named where
  | strand (c t : Nat)
  | core (c : Nat)
  | gallery (g : Nat)
  | chamber (n : Nat)
  | stack (st : Nat)
  | queue (q : Nat)
  | port (p : Nat)
  | ctlPort (p : Nat)
  | lane (l : Nat)
  | domain (d : Nat)
  | requester (r : Requester)
  | frame (f : Frame)
  | packet (p : Packet)
  | item (k : ItemKey)
  | aging (a : Aging)
deriving DecidableEq, Repr

/-- The device has the unit; a message's fields fit their places (R1, R456, R585, R642). -/
def Named.ok : Named → Prop
  | .strand c t => c < 128 ∧ t < 8192
  | .core c => c < 128
  | .gallery g => g < 16
  | .chamber n => n < 16
  | .stack st => st < 16
  | .queue q => q < 4096
  | .port p => p < 16
  | .ctlPort p => p < 2
  | .lane l => l < 64
  | .domain d => d < 17
  | .requester (.session k) => k < 16
  | .requester .firmware => True
  | .requester (.core c t) => c < 128 ∧ t < 8192
  | .frame f => f.type < 256 ∧ f.slot < 256 ∧ f.seq < 2 ^ 64
  | .packet p => p.type < 256 ∧ p.dst < 2 ^ 16 ∧ p.src < 2 ^ 16 ∧ p.txn < 2 ^ 32 ∧ p.lseq < 2 ^ 16
  | .item k => k.queue < 4096 ∧ k.seq < 2 ^ 32
  | .aging (.strand c t) => c < 128 ∧ t < 8192
  | .aging (.item q seq) => q < 4096 ∧ seq < 2 ^ 32

/-- The units that a command names. -/
def named (i : Instr) : List Named :=
  match i with
  | .registerWrite r _ _ => [.requester r]
  | .rcRead r _ => [.requester r]
  | .counterLoRead r _ => [.requester r]
  | .flagsRcRead r _ => [.requester r]
  | .rateWindowEnd d _ _ => [.domain d]
  | .strandWake c t => [.strand c t]
  | .strandQuantumEnd c t => [.strand c t]
  | .instructionFetch c t => [.strand c t]
  | .sLi c t => [.strand c t]
  | .sMov c t => [.strand c t]
  | .sAdd c t => [.strand c t]
  | .sSub c t => [.strand c t]
  | .sMul c t => [.strand c t]
  | .sMulhu c t => [.strand c t]
  | .sAnd c t => [.strand c t]
  | .sOr c t => [.strand c t]
  | .sXor c t => [.strand c t]
  | .sShl c t => [.strand c t]
  | .sShr c t => [.strand c t]
  | .sSra c t => [.strand c t]
  | .sSlt c t => [.strand c t]
  | .sSltu c t => [.strand c t]
  | .sAddp c t => [.strand c t]
  | .sBr c t => [.strand c t]
  | .sBeq c t => [.strand c t]
  | .sBne c t => [.strand c t]
  | .sBlt c t => [.strand c t]
  | .sBge c t => [.strand c t]
  | .sBltu c t => [.strand c t]
  | .sBgeu c t => [.strand c t]
  | .sCall c t => [.strand c t]
  | .sJmp c t => [.strand c t]
  | .sYield c t => [.strand c t]
  | .sNop c t => [.strand c t]
  | .svyStage r => [.requester r]
  | .svyCommit r => [.requester r]
  | .svyAbort r => [.requester r]
  | .stagingWindowWrite r _ _ => [.requester r]
  | .stageBytesProgrammed => []
  | .svyCheck => []
  | .svyZeroise => []
  | .zeroiseDone n _ => [.chamber n]
  | .svyApply => []
  | .svyFlip => []
  | .srSeedHiWrite r c _ _ => [.requester r, .core c]
  | .slotWrite r g _ _ => [.requester r, .gallery g]
  | .slotWriteAbort r g => [.requester r, .gallery g]
  | .slotWriteWriting g => [.gallery g]
  | .holdExpired g => [.gallery g]
  | .slotWriteDone g => [.gallery g]
  | .mxRun c t => [.strand c t]
  | .mxRunComplete c => [.core c]
  | .dupCompare c _ => [.core c]
  | .mxeDupCtrlWrite r c _ _ _ => [.requester r, .core c]
  | .mxeAbortAck c => [.core c]
  | .vxAdd c t => [.strand c t]
  | .vxSub c t => [.strand c t]
  | .vxMul c t => [.strand c t]
  | .vxFma c t => [.strand c t]
  | .vxMax c t => [.strand c t]
  | .vxMin c t => [.strand c t]
  | .vxUn c t => [.strand c t]
  | .vxCmp c t => [.strand c t]
  | .vxSel c t => [.strand c t]
  | .vxCvt c t => [.strand c t]
  | .vxCstore c t => [.strand c t]
  | .vxRed c t => [.strand c t]
  | .vxRstat c t => [.strand c t]
  | .vxRmsn c t => [.strand c t]
  | .vxSmax c t => [.strand c t]
  | .vxFn c t => [.strand c t]
  | .vxeComplete c => [.core c]
  | .vxeAbortAck c => [.core c]
  | .atRun c t => [.strand c t]
  | .atAppend c t => [.strand c t]
  | .appendResume c => [.core c]
  | .atuComplete c => [.core c]
  | .atuAbortAck c => [.core c]
  | .seqOpen c t => [.strand c t]
  | .openRetry n => [.chamber n]
  | .seqCommit c t => [.strand c t]
  | .seqTruncate c t => [.strand c t]
  | .seqRelease c t => [.strand c t]
  | .seqOpProceed c => [.core c]
  | .poolPageZeroised n => [.chamber n]
  | .rtRun c t => [.strand c t]
  | .biasWindowClose n _ => [.chamber n]
  | .rtRunComplete g _ => [.gallery g]
  | .xcRecv c t => [.strand c t]
  | .xcRecvComplete _ => []
  | .xcReturn c t => [.strand c t]
  | .rxBusyRetry _ _ => []
  | .rteBiasWrite r g _ => [.requester r, .gallery g]
  | .rteCancel r g _ => [.requester r, .gallery g]
  | .rteAbortAck g => [.gallery g]
  | .trainClose r c _ => [.requester r, .core c]
  | .trainCloseAll r c => [.requester r, .core c]
  | .trainReplay r c _ _ => [.requester r, .core c]
  | .trainSkip r c _ => [.requester r, .core c]
  | .mmuInvalidate r n _ => [.requester r, .chamber n]
  | .mmuInvalidateAll r n => [.requester r, .chamber n]
  | .mmuInvalidateDone n => [.chamber n]
  | .homeAccess _ _ => []
  | .hbcRetrain st _ _ _ _ _ => [.stack st]
  | .refresh st _ => [.stack st]
  | .temperatureReadout st _ => [.stack st]
  | .patrolScrub st _ => [.stack st]
  | .moLd c t => [.strand c t]
  | .moSt c t => [.strand c t]
  | .add c t => [.strand c t]
  | .fadd c t => [.strand c t]
  | .swap c t => [.strand c t]
  | .cas c t => [.strand c t]
  | .smax c t => [.strand c t]
  | .smin c t => [.strand c t]
  | .amoOr c t => [.strand c t]
  | .amoAnd c t => [.strand c t]
  | .fenceAcquire c t => [.strand c t]
  | .fenceRelease c t => [.strand c t]
  | .fenceFull c t => [.strand c t]
  | .moBar c t => [.strand c t]
  | .hello p f => [.ctlPort p, .frame f]
  | .proof p f => [.ctlPort p, .frame f]
  | .heartbeat p f => [.ctlPort p, .frame f]
  | .close p f => [.ctlPort p, .frame f]
  | .regRead p f => [.ctlPort p, .frame f]
  | .regWrite p f => [.ctlPort p, .frame f]
  | .memRead p f _ => [.ctlPort p, .frame f]
  | .memWrite p f _ => [.ctlPort p, .frame f]
  | .doorbell p f => [.ctlPort p, .frame f]
  | .poll p f => [.ctlPort p, .frame f]
  | .claim p f => [.ctlPort p, .frame f]
  | .electionClose => []
  | .handover p f => [.ctlPort p, .frame f]
  | .attest p f => [.ctlPort p, .frame f]
  | .attestReport => []
  | .keyEnroll p f => [.ctlPort p, .frame f]
  | .keyRevoke p f => [.ctlPort p, .frame f]
  | .keysetEnroll p f => [.ctlPort p, .frame f]
  | .keysetRemove p f => [.ctlPort p, .frame f]
  | .fwStage p f => [.ctlPort p, .frame f]
  | .fwStageWritten => []
  | .fwCommit p f => [.ctlPort p, .frame f]
  | .fwCommitDone => []
  | .advance p f => [.ctlPort p, .frame f]
  | .floor p f => [.ctlPort p, .frame f]
  | .unknownType p f => [.ctlPort p, .frame f]
  | .sessionTimeout _ => []
  | .heartbeatLoss => []
  | .violWindowEnd p => [.ctlPort p]
  | .reenablePort r p => [.requester r, .ctlPort p]
  | .reenableSlots r p _ => [.requester r, .ctlPort p]
  | .lossOfLight => []
  | .create r n => [.requester r, .chamber n]
  | .qcbRead n => [.chamber n]
  | .destroy r n q => [.requester r, .chamber n, .queue q]
  | .reclaim r n q => [.requester r, .chamber n, .queue q]
  | .teardownDone q => [.queue q]
  | .graphCreate r n _ => [.requester r, .chamber n]
  | .patch r n => [.requester r, .chamber n]
  | .patchDone n => [.chamber n]
  | .graphDestroy r n _ => [.requester r, .chamber n]
  | .qDbWrite r q _ => [.requester r, .queue q]
  | .qCackWrite r q _ => [.requester r, .queue q]
  | .qCancel r q _ => [.requester r, .queue q]
  | .itemFetch n => [.chamber n]
  | .itemDispatch n => [.chamber n]
  | .itemBind g => [.gallery g]
  | .markerEnd q _ => [.queue q]
  | .graphNodeDispatch q _ _ => [.queue q]
  | .messageDispatch q => [.queue q]
  | .copyComplete k => [.item k]
  | .dmvAbortAck k => [.item k]
  | .itemTimeout q _ => [.queue q]
  | .qwEnd c t => [.strand c t]
  | .qwTake c t => [.strand c t]
  | .qwDone c t => [.strand c t]
  | .qwExit c t => [.strand c t]
  | .qwLive c t => [.strand c t]
  | .surveyCommit => []
  | .mgmtFwCommit => []
  | .scan => []
  | .flush => []
  | .portTest => []
  | .endTest => []
  | .testWindowEnd p => [.port p]
  | .ageExpiry a => [.aging a]
  | .preempt g => [.gallery g]
  | .suspendDone c t => [.strand c t]
  | .resume c => [.core c]
  | .laneTrain l _ => [.lane l]
  | .laneTrainRetry l => [.lane l]
  | .retrain r p _ => [.requester r, .port p]
  | .rdReq l p _ => [.lane l, .packet p]
  | .wr l p _ => [.lane l, .packet p]
  | .closeWr l p => [.lane l, .packet p]
  | .closeWrPerform _ n _ _ => [.chamber n]
  | .closeTimeout _ n _ _ => [.chamber n]
  | .amo l p _ => [.lane l, .packet p]
  | .row l p => [.lane l, .packet p]
  | .rowEnd l p => [.lane l, .packet p]
  | .barArrive l p => [.lane l, .packet p]
  | .barRelease l p => [.lane l, .packet p]
  | .sync l p _ => [.lane l, .packet p]
  | .syncSend => []
  | .holdover => []
  | .memberHeartbeat l p => [.lane l, .packet p]
  | .view l p _ => [.lane l, .packet p]
  | .leave l p => [.lane l, .packet p]
  | .heartbeatSend => []
  | .memberDeparted _ => []
  | .masterLost => []
  | .masterTakeover => []
  | .rdResp l p => [.lane l, .packet p]
  | .wrAck l p => [.lane l, .packet p]
  | .amoResp l p => [.lane l, .packet p]
  | .rowDrop l p => [.lane l, .packet p]
  | .result l p => [.lane l, .packet p]
  | .nak l p => [.lane l, .packet p]
  | .packetForward l p => [.lane l, .packet p]
  | .credit l p => [.lane l, .packet p]
  | .ack l p => [.lane l, .packet p]
  | .replayReq l p => [.lane l, .packet p]
  | .eqReq l p => [.lane l, .packet p]
  | .eqRsp l p => [.lane l, .packet p]
  | .param l p _ => [.lane l, .packet p]
  | .eqUpdate l _ _ _ _ _ => [.lane l]
  | .lnkViolWindowEnd p => [.port p]
  | .lnkReenable r p => [.requester r, .port p]
  | .scanWindow g => [.gallery g]
  | .dupScanWindow c => [.core c]
  | .scanDrainEnd => []
  | .scanQuiesced => []
  | .scanSlateDone _ => []
  | .markAmber r _ => [.requester r]
  | .clearAmber r _ => [.requester r]
  | .retire r _ => [.requester r]
  | .healthFlashWrite => []
  | .lifetimeWrite => []
  | .cvuGo r g _ => [.requester r, .gallery g]
  | .cvuAbort r g _ => [.requester r, .gallery g]
  | .cvuRunDone g _ => [.gallery g]
  | .powerOn => []
  | .resetN => []
  | .warmReset r => [.requester r]
  | .portReset r => [.requester r]
  | .pwrGoodFall => []
  | .firmwareVerified _ => []
  | .stage2Done => []
  | .stackTrained st _ => [.stack st]
  | .earlyService => []
  | .stage5 => []
  | .earlyHandover => []
  | .marginLoopStep d _ => [.domain d]
  | .canaryEmergency d _ => [.domain d]
  | .powerWindow _ _ _ => []
  | .powerLoopStep n => [.chamber n]
  | .pkgGuardEnd => []
  | .regulatorSettled d => [.domain d]
  | .thermalRead _ => []
  | .pmbusPoll d _ _ _ => [.domain d]
  | .pmbusAlert _ _ => []
  | .shutdown r => [.requester r]
  | .offReq => []
  | .shutdownDrainEnd => []
  | .offReady => []
  | .refclkLoss => []
  | .tbRead c t => [.strand c t]
  | .trMark c t => [.strand c t]
  | .pcSample c => [.core c]
  | .truDrain n => [.chamber n]
  | .trigger r n => [.requester r, .chamber n]
  | .restart r n => [.requester r, .chamber n]
  | .truTimeTrigger n => [.chamber n]
  | .i3cWrite _ _ => []
  | .i3cRead _ _ => []
  | .entdaa _ => []
  | .setdasa _ _ => []
  | .rstdaa => []
  | .getpid _ => []
  | .getbcr _ => []
  | .getdcr _ => []
  | .getstatus _ => []
  | .enec _ _ => []
  | .disec _ _ => []
  | .bypass _ => []
  | .idcode _ => []
  | .samplePreload _ => []
  | .extest _ => []
  | .clamp _ => []
  | .highz _ => []
  | .testLogicReset => []
  | .csLd c t => [.strand c t]
  | .csSt c t => [.strand c t]
  | .xcReturnComplete _ => []
  | .graphCreateDone n => [.chamber n]
  | .badOrOutOfOrderPacket l p _ => [.lane l, .packet p]
  | .unknownPacketType l p => [.lane l, .packet p]
  | .uncorrectableCodeword l => [.lane l]
  | .opticalLinkChange p _ => [.ctlPort p]
  | .counterHoldEnd => []
  | .vauxWithinTolerance => []
  | .resetNRises => []
  | .uncorrectableUncoreFault => []

/-- What is said of each command: if it is well formed, every unit that it names is one the device has. -/
def Statement (i : Instr) : Prop := i.wf = true → ∀ x ∈ named i, x.ok

/-! ### One lemma per kind of unit -/

theorem requester_ok {r : Requester} (h : r.wf = true) : (Named.requester r).ok := by
  cases r <;> simp_all [Requester.wf, Named.ok, coreOk, strandOk]

theorem frame_ok {f : Frame} (h : f.wf = true) : (Named.frame f).ok := by
  simp_all [Frame.wf, Named.ok]

theorem packet_ok {p : Packet} (h : p.wf = true) : (Named.packet p).ok := by
  simp_all [Packet.wf, Named.ok, deviceOk, wordOk]

theorem item_ok {k : ItemKey} (h : k.wf = true) : (Named.item k).ok := by
  simp_all [ItemKey.wf, Named.ok, queueOk, wordOk]

theorem aging_ok {a : Aging} (h : a.wf = true) : (Named.aging a).ok := by
  cases a <;> simp_all [Aging.wf, Named.ok, queueOk, wordOk, coreOk, strandOk]

theorem strand_ok {c t : Nat} (hc : coreOk c = true) (ht : strandOk t = true) : (Named.strand c t).ok :=
  ⟨of_decide_eq_true hc, of_decide_eq_true ht⟩

theorem core_ok {c : Nat} (h : coreOk c = true) : (Named.core c).ok := (of_decide_eq_true h : c < 128)

theorem gallery_ok {g : Nat} (h : galleryOk g = true) : (Named.gallery g).ok := (of_decide_eq_true h : g < 16)

theorem chamber_ok {n : Nat} (h : chamberOk n = true) : (Named.chamber n).ok := (of_decide_eq_true h : n < 16)

theorem stack_ok {st : Nat} (h : stackOk st = true) : (Named.stack st).ok := (of_decide_eq_true h : st < 16)

theorem queue_ok {q : Nat} (h : queueOk q = true) : (Named.queue q).ok := (of_decide_eq_true h : q < 4096)

theorem port_ok {p : Nat} (h : portOk p = true) : (Named.port p).ok := (of_decide_eq_true h : p < 16)

theorem ctlPort_ok {p : Nat} (h : ctlPortOk p = true) : (Named.ctlPort p).ok := (of_decide_eq_true h : p < 2)

theorem lane_ok {l : Nat} (h : laneOk l = true) : (Named.lane l).ok := (of_decide_eq_true h : l < 64)

theorem domain_ok {d : Nat} (h : domainOk d = true) : (Named.domain d).ok := (of_decide_eq_true h : d < 17)

theorem lt {a b : Bool} (h : (a && b) = true) : a = true := by cases a <;> simp_all

theorem rt {a b : Bool} (h : (a && b) = true) : b = true := by cases a <;> simp_all

/-! ### From the units to the command -/

theorem of0 {i : Instr} (hn : named i = []) : Statement i := fun _ x hx => by simp [hn] at hx

theorem of1 {i : Instr} {x : Named} (hn : named i = [x]) (h : i.wf = true → x.ok) : Statement i := fun hw y hy => by
  simp only [hn, List.mem_singleton] at hy; exact hy ▸ h hw

theorem of2 {i : Instr} {x y : Named} (hn : named i = [x, y]) (h : i.wf = true → x.ok ∧ y.ok) : Statement i :=
  fun hw z hz => by
    simp only [hn, List.mem_cons, List.not_mem_nil, or_false] at hz
    rcases hz with rfl | rfl
    · exact (h hw).1
    · exact (h hw).2

theorem of3 {i : Instr} {x y z : Named} (hn : named i = [x, y, z]) (h : i.wf = true → x.ok ∧ y.ok ∧ z.ok) : Statement i :=
  fun hw u hu => by
    simp only [hn, List.mem_cons, List.not_mem_nil, or_false] at hu
    rcases hu with rfl | rfl | rfl
    · exact (h hw).1
    · exact (h hw).2.1
    · exact (h hw).2.2

/-! ### The commands -/

set_option Elab.async false

theorem registerWrite (r : Requester) (a : Nat) (w : Word) : Statement (.registerWrite r a w) :=
  of1 rfl fun (h : (r.wf && wordOk a) = true) => requester_ok (lt h)
theorem rcRead (r : Requester) (a : Nat) : Statement (.rcRead r a) :=
  of1 rfl fun (h : (r.wf && wordOk a) = true) => requester_ok (lt h)
theorem counterLoRead (r : Requester) (a : Nat) : Statement (.counterLoRead r a) :=
  of1 rfl fun (h : (r.wf && wordOk a) = true) => requester_ok (lt h)
theorem flagsRcRead (r : Requester) (a : Nat) : Statement (.flagsRcRead r a) :=
  of1 rfl fun (h : (r.wf && wordOk a) = true) => requester_ok (lt h)
theorem rateWindowEnd (d : Nat) (cycles : Nat) (coreCycles : List Nat) : Statement (.rateWindowEnd d cycles coreCycles) :=
  of1 rfl fun (h : (domainOk d && decide (coreCycles.length ≤ 8)) = true) => domain_ok (lt h)
theorem strandWake (c : Nat) (t : Nat) : Statement (.strandWake c t) :=
  of1 rfl fun (h : (coreOk c && strandOk t) = true) => strand_ok (lt h) (rt h)
theorem strandQuantumEnd (c : Nat) (t : Nat) : Statement (.strandQuantumEnd c t) :=
  of1 rfl fun (h : (coreOk c && strandOk t) = true) => strand_ok (lt h) (rt h)
theorem instructionFetch (c : Nat) (t : Nat) : Statement (.instructionFetch c t) :=
  of1 rfl fun (h : (coreOk c && strandOk t) = true) => strand_ok (lt h) (rt h)
theorem sLi (c : Nat) (t : Nat) : Statement (.sLi c t) :=
  of1 rfl fun (h : (coreOk c && strandOk t) = true) => strand_ok (lt h) (rt h)
theorem sMov (c : Nat) (t : Nat) : Statement (.sMov c t) :=
  of1 rfl fun (h : (coreOk c && strandOk t) = true) => strand_ok (lt h) (rt h)
theorem sAdd (c : Nat) (t : Nat) : Statement (.sAdd c t) :=
  of1 rfl fun (h : (coreOk c && strandOk t) = true) => strand_ok (lt h) (rt h)
theorem sSub (c : Nat) (t : Nat) : Statement (.sSub c t) :=
  of1 rfl fun (h : (coreOk c && strandOk t) = true) => strand_ok (lt h) (rt h)
theorem sMul (c : Nat) (t : Nat) : Statement (.sMul c t) :=
  of1 rfl fun (h : (coreOk c && strandOk t) = true) => strand_ok (lt h) (rt h)
theorem sMulhu (c : Nat) (t : Nat) : Statement (.sMulhu c t) :=
  of1 rfl fun (h : (coreOk c && strandOk t) = true) => strand_ok (lt h) (rt h)
theorem sAnd (c : Nat) (t : Nat) : Statement (.sAnd c t) :=
  of1 rfl fun (h : (coreOk c && strandOk t) = true) => strand_ok (lt h) (rt h)
theorem sOr (c : Nat) (t : Nat) : Statement (.sOr c t) :=
  of1 rfl fun (h : (coreOk c && strandOk t) = true) => strand_ok (lt h) (rt h)
theorem sXor (c : Nat) (t : Nat) : Statement (.sXor c t) :=
  of1 rfl fun (h : (coreOk c && strandOk t) = true) => strand_ok (lt h) (rt h)
theorem sShl (c : Nat) (t : Nat) : Statement (.sShl c t) :=
  of1 rfl fun (h : (coreOk c && strandOk t) = true) => strand_ok (lt h) (rt h)
theorem sShr (c : Nat) (t : Nat) : Statement (.sShr c t) :=
  of1 rfl fun (h : (coreOk c && strandOk t) = true) => strand_ok (lt h) (rt h)
theorem sSra (c : Nat) (t : Nat) : Statement (.sSra c t) :=
  of1 rfl fun (h : (coreOk c && strandOk t) = true) => strand_ok (lt h) (rt h)
theorem sSlt (c : Nat) (t : Nat) : Statement (.sSlt c t) :=
  of1 rfl fun (h : (coreOk c && strandOk t) = true) => strand_ok (lt h) (rt h)
theorem sSltu (c : Nat) (t : Nat) : Statement (.sSltu c t) :=
  of1 rfl fun (h : (coreOk c && strandOk t) = true) => strand_ok (lt h) (rt h)
theorem sAddp (c : Nat) (t : Nat) : Statement (.sAddp c t) :=
  of1 rfl fun (h : (coreOk c && strandOk t) = true) => strand_ok (lt h) (rt h)
theorem sBr (c : Nat) (t : Nat) : Statement (.sBr c t) :=
  of1 rfl fun (h : (coreOk c && strandOk t) = true) => strand_ok (lt h) (rt h)
theorem sBeq (c : Nat) (t : Nat) : Statement (.sBeq c t) :=
  of1 rfl fun (h : (coreOk c && strandOk t) = true) => strand_ok (lt h) (rt h)
theorem sBne (c : Nat) (t : Nat) : Statement (.sBne c t) :=
  of1 rfl fun (h : (coreOk c && strandOk t) = true) => strand_ok (lt h) (rt h)
theorem sBlt (c : Nat) (t : Nat) : Statement (.sBlt c t) :=
  of1 rfl fun (h : (coreOk c && strandOk t) = true) => strand_ok (lt h) (rt h)
theorem sBge (c : Nat) (t : Nat) : Statement (.sBge c t) :=
  of1 rfl fun (h : (coreOk c && strandOk t) = true) => strand_ok (lt h) (rt h)
theorem sBltu (c : Nat) (t : Nat) : Statement (.sBltu c t) :=
  of1 rfl fun (h : (coreOk c && strandOk t) = true) => strand_ok (lt h) (rt h)
theorem sBgeu (c : Nat) (t : Nat) : Statement (.sBgeu c t) :=
  of1 rfl fun (h : (coreOk c && strandOk t) = true) => strand_ok (lt h) (rt h)
theorem sCall (c : Nat) (t : Nat) : Statement (.sCall c t) :=
  of1 rfl fun (h : (coreOk c && strandOk t) = true) => strand_ok (lt h) (rt h)
theorem sJmp (c : Nat) (t : Nat) : Statement (.sJmp c t) :=
  of1 rfl fun (h : (coreOk c && strandOk t) = true) => strand_ok (lt h) (rt h)
theorem sYield (c : Nat) (t : Nat) : Statement (.sYield c t) :=
  of1 rfl fun (h : (coreOk c && strandOk t) = true) => strand_ok (lt h) (rt h)
theorem sNop (c : Nat) (t : Nat) : Statement (.sNop c t) :=
  of1 rfl fun (h : (coreOk c && strandOk t) = true) => strand_ok (lt h) (rt h)
theorem svyStage (r : Requester) : Statement (.svyStage r) := of1 rfl fun (h : (r.wf) = true) => requester_ok h
theorem svyCommit (r : Requester) : Statement (.svyCommit r) := of1 rfl fun (h : (r.wf) = true) => requester_ok h
theorem svyAbort (r : Requester) : Statement (.svyAbort r) := of1 rfl fun (h : (r.wf) = true) => requester_ok h
theorem stagingWindowWrite (r : Requester) (off : Nat) (words : List Word) : Statement (.stagingWindowWrite r off words) :=
  of1 rfl fun (h : (r.wf && decide (off < 2 ^ 25) && decide (off + 4 * words.length ≤ 2 ^ 25)) = true) => requester_ok (lt (lt h))
theorem stageBytesProgrammed : Statement .stageBytesProgrammed := of0 rfl
theorem svyCheck : Statement .svyCheck := of0 rfl
theorem svyZeroise : Statement .svyZeroise := of0 rfl
theorem zeroiseDone (n : Nat) (share : Option Nat) : Statement (.zeroiseDone n share) :=
  of1 rfl fun (h : (chamberOk n && share.all stackOk) = true) => chamber_ok (lt h)
theorem svyApply : Statement .svyApply := of0 rfl
theorem svyFlip : Statement .svyFlip := of0 rfl
theorem srSeedHiWrite (r : Requester) (c : Nat) (vxe : Bool) (hi : Nat) : Statement (.srSeedHiWrite r c vxe hi) :=
  of2 rfl fun (h : (r.wf && coreOk c && wordOk hi) = true) => ⟨requester_ok (lt (lt h)), core_ok (rt (lt h))⟩
theorem slotWrite (r : Requester) (g : Nat) (nowait : Bool) (hold : Nat) : Statement (.slotWrite r g nowait hold) :=
  of2 rfl fun (h : (r.wf && galleryOk g && decide (hold < 2 ^ 16)) = true) => ⟨requester_ok (lt (lt h)), gallery_ok (rt (lt h))⟩
theorem slotWriteAbort (r : Requester) (g : Nat) : Statement (.slotWriteAbort r g) :=
  of2 rfl fun (h : (r.wf && galleryOk g) = true) => ⟨requester_ok (lt h), gallery_ok (rt h)⟩
theorem slotWriteWriting (g : Nat) : Statement (.slotWriteWriting g) :=
  of1 rfl fun (h : (galleryOk g) = true) => gallery_ok h
theorem holdExpired (g : Nat) : Statement (.holdExpired g) := of1 rfl fun (h : (galleryOk g) = true) => gallery_ok h
theorem slotWriteDone (g : Nat) : Statement (.slotWriteDone g) := of1 rfl fun (h : (galleryOk g) = true) => gallery_ok h
theorem mxRun (c : Nat) (t : Nat) : Statement (.mxRun c t) :=
  of1 rfl fun (h : (coreOk c && strandOk t) = true) => strand_ok (lt h) (rt h)
theorem mxRunComplete (c : Nat) : Statement (.mxRunComplete c) := of1 rfl fun (h : (coreOk c) = true) => core_ok h
theorem dupCompare (c : Nat) (upset : List (Nat × Nat)) : Statement (.dupCompare c upset) :=
  of1 rfl fun (h : (coreOk c) = true) => core_ok h
theorem mxeDupCtrlWrite (r : Requester) (c : Nat) (enable : Nat) (rate : Nat) (tol : Nat) : Statement (.mxeDupCtrlWrite r c enable rate tol) :=
  of2 rfl fun (h : (r.wf && coreOk c && decide (enable < 2) && decide (rate < 64) && decide (tol < 256)) = true) => ⟨requester_ok (lt (lt (lt (lt h)))), core_ok (rt (lt (lt (lt h))))⟩
theorem mxeAbortAck (c : Nat) : Statement (.mxeAbortAck c) := of1 rfl fun (h : (coreOk c) = true) => core_ok h
theorem vxAdd (c : Nat) (t : Nat) : Statement (.vxAdd c t) :=
  of1 rfl fun (h : (coreOk c && strandOk t) = true) => strand_ok (lt h) (rt h)
theorem vxSub (c : Nat) (t : Nat) : Statement (.vxSub c t) :=
  of1 rfl fun (h : (coreOk c && strandOk t) = true) => strand_ok (lt h) (rt h)
theorem vxMul (c : Nat) (t : Nat) : Statement (.vxMul c t) :=
  of1 rfl fun (h : (coreOk c && strandOk t) = true) => strand_ok (lt h) (rt h)
theorem vxFma (c : Nat) (t : Nat) : Statement (.vxFma c t) :=
  of1 rfl fun (h : (coreOk c && strandOk t) = true) => strand_ok (lt h) (rt h)
theorem vxMax (c : Nat) (t : Nat) : Statement (.vxMax c t) :=
  of1 rfl fun (h : (coreOk c && strandOk t) = true) => strand_ok (lt h) (rt h)
theorem vxMin (c : Nat) (t : Nat) : Statement (.vxMin c t) :=
  of1 rfl fun (h : (coreOk c && strandOk t) = true) => strand_ok (lt h) (rt h)
theorem vxUn (c : Nat) (t : Nat) : Statement (.vxUn c t) :=
  of1 rfl fun (h : (coreOk c && strandOk t) = true) => strand_ok (lt h) (rt h)
theorem vxCmp (c : Nat) (t : Nat) : Statement (.vxCmp c t) :=
  of1 rfl fun (h : (coreOk c && strandOk t) = true) => strand_ok (lt h) (rt h)
theorem vxSel (c : Nat) (t : Nat) : Statement (.vxSel c t) :=
  of1 rfl fun (h : (coreOk c && strandOk t) = true) => strand_ok (lt h) (rt h)
theorem vxCvt (c : Nat) (t : Nat) : Statement (.vxCvt c t) :=
  of1 rfl fun (h : (coreOk c && strandOk t) = true) => strand_ok (lt h) (rt h)
theorem vxCstore (c : Nat) (t : Nat) : Statement (.vxCstore c t) :=
  of1 rfl fun (h : (coreOk c && strandOk t) = true) => strand_ok (lt h) (rt h)
theorem vxRed (c : Nat) (t : Nat) : Statement (.vxRed c t) :=
  of1 rfl fun (h : (coreOk c && strandOk t) = true) => strand_ok (lt h) (rt h)
theorem vxRstat (c : Nat) (t : Nat) : Statement (.vxRstat c t) :=
  of1 rfl fun (h : (coreOk c && strandOk t) = true) => strand_ok (lt h) (rt h)
theorem vxRmsn (c : Nat) (t : Nat) : Statement (.vxRmsn c t) :=
  of1 rfl fun (h : (coreOk c && strandOk t) = true) => strand_ok (lt h) (rt h)
theorem vxSmax (c : Nat) (t : Nat) : Statement (.vxSmax c t) :=
  of1 rfl fun (h : (coreOk c && strandOk t) = true) => strand_ok (lt h) (rt h)
theorem vxFn (c : Nat) (t : Nat) : Statement (.vxFn c t) :=
  of1 rfl fun (h : (coreOk c && strandOk t) = true) => strand_ok (lt h) (rt h)
theorem vxeComplete (c : Nat) : Statement (.vxeComplete c) := of1 rfl fun (h : (coreOk c) = true) => core_ok h
theorem vxeAbortAck (c : Nat) : Statement (.vxeAbortAck c) := of1 rfl fun (h : (coreOk c) = true) => core_ok h
theorem atRun (c : Nat) (t : Nat) : Statement (.atRun c t) :=
  of1 rfl fun (h : (coreOk c && strandOk t) = true) => strand_ok (lt h) (rt h)
theorem atAppend (c : Nat) (t : Nat) : Statement (.atAppend c t) :=
  of1 rfl fun (h : (coreOk c && strandOk t) = true) => strand_ok (lt h) (rt h)
theorem appendResume (c : Nat) : Statement (.appendResume c) := of1 rfl fun (h : (coreOk c) = true) => core_ok h
theorem atuComplete (c : Nat) : Statement (.atuComplete c) := of1 rfl fun (h : (coreOk c) = true) => core_ok h
theorem atuAbortAck (c : Nat) : Statement (.atuAbortAck c) := of1 rfl fun (h : (coreOk c) = true) => core_ok h
theorem seqOpen (c : Nat) (t : Nat) : Statement (.seqOpen c t) :=
  of1 rfl fun (h : (coreOk c && strandOk t) = true) => strand_ok (lt h) (rt h)
theorem openRetry (n : Nat) : Statement (.openRetry n) := of1 rfl fun (h : (chamberOk n) = true) => chamber_ok h
theorem seqCommit (c : Nat) (t : Nat) : Statement (.seqCommit c t) :=
  of1 rfl fun (h : (coreOk c && strandOk t) = true) => strand_ok (lt h) (rt h)
theorem seqTruncate (c : Nat) (t : Nat) : Statement (.seqTruncate c t) :=
  of1 rfl fun (h : (coreOk c && strandOk t) = true) => strand_ok (lt h) (rt h)
theorem seqRelease (c : Nat) (t : Nat) : Statement (.seqRelease c t) :=
  of1 rfl fun (h : (coreOk c && strandOk t) = true) => strand_ok (lt h) (rt h)
theorem seqOpProceed (c : Nat) : Statement (.seqOpProceed c) := of1 rfl fun (h : (coreOk c) = true) => core_ok h
theorem poolPageZeroised (n : Nat) : Statement (.poolPageZeroised n) :=
  of1 rfl fun (h : (chamberOk n) = true) => chamber_ok h
theorem rtRun (c : Nat) (t : Nat) : Statement (.rtRun c t) :=
  of1 rfl fun (h : (coreOk c && strandOk t) = true) => strand_ok (lt h) (rt h)
theorem biasWindowClose (n : Nat) (p : Nat) : Statement (.biasWindowClose n p) :=
  of1 rfl fun (h : (chamberOk n && decide (p < 32)) = true) => chamber_ok (lt h)
theorem rtRunComplete (g : Nat) (epoch : Nat) : Statement (.rtRunComplete g epoch) :=
  of1 rfl fun (h : (galleryOk g && decide (epoch < 2 ^ 16)) = true) => gallery_ok (lt h)
theorem xcRecv (c : Nat) (t : Nat) : Statement (.xcRecv c t) :=
  of1 rfl fun (h : (coreOk c && strandOk t) = true) => strand_ok (lt h) (rt h)
theorem xcRecvComplete (id : Nat) : Statement (.xcRecvComplete id) := of0 rfl
theorem xcReturn (c : Nat) (t : Nat) : Statement (.xcReturn c t) :=
  of1 rfl fun (h : (coreOk c && strandOk t) = true) => strand_ok (lt h) (rt h)
theorem rxBusyRetry (txn : Nat) (dst : Nat) : Statement (.rxBusyRetry txn dst) := of0 rfl
theorem rteBiasWrite (r : Requester) (g : Nat) (value : Nat) : Statement (.rteBiasWrite r g value) :=
  of2 rfl fun (h : (r.wf && galleryOk g && wordOk value) = true) => ⟨requester_ok (lt (lt h)), gallery_ok (rt (lt h))⟩
theorem rteCancel (r : Requester) (g : Nat) (epoch : Nat) : Statement (.rteCancel r g epoch) :=
  of2 rfl fun (h : (r.wf && galleryOk g && decide (epoch < 2 ^ 16)) = true) => ⟨requester_ok (lt (lt h)), gallery_ok (rt (lt h))⟩
theorem rteAbortAck (g : Nat) : Statement (.rteAbortAck g) := of1 rfl fun (h : (galleryOk g) = true) => gallery_ok h
theorem trainClose (r : Requester) (c : Nat) (entry : Nat) : Statement (.trainClose r c entry) :=
  of2 rfl fun (h : (r.wf && coreOk c && decide (entry < 64)) = true) => ⟨requester_ok (lt (lt h)), core_ok (rt (lt h))⟩
theorem trainCloseAll (r : Requester) (c : Nat) : Statement (.trainCloseAll r c) :=
  of2 rfl fun (h : (r.wf && coreOk c) = true) => ⟨requester_ok (lt h), core_ok (rt h)⟩
theorem trainReplay (r : Requester) (c : Nat) (entry : Nat) (fmt : Nat) : Statement (.trainReplay r c entry fmt) :=
  of2 rfl fun (h : (r.wf && coreOk c && decide (entry < 64) && decide (fmt < 16)) = true) => ⟨requester_ok (lt (lt (lt h))), core_ok (rt (lt (lt h)))⟩
theorem trainSkip (r : Requester) (c : Nat) (entry : Nat) : Statement (.trainSkip r c entry) :=
  of2 rfl fun (h : (r.wf && coreOk c && decide (entry < 64)) = true) => ⟨requester_ok (lt (lt h)), core_ok (rt (lt h))⟩
theorem mmuInvalidate (r : Requester) (n : Nat) (pages : Nat) : Statement (.mmuInvalidate r n pages) :=
  of2 rfl fun (h : (r.wf && chamberOk n && decide (pages < 2 ^ 16)) = true) => ⟨requester_ok (lt (lt h)), chamber_ok (rt (lt h))⟩
theorem mmuInvalidateAll (r : Requester) (n : Nat) : Statement (.mmuInvalidateAll r n) :=
  of2 rfl fun (h : (r.wf && chamberOk n) = true) => ⟨requester_ok (lt h), chamber_ok (rt h)⟩
theorem mmuInvalidateDone (n : Nat) : Statement (.mmuInvalidateDone n) :=
  of1 rfl fun (h : (chamberOk n) = true) => chamber_ok h
theorem homeAccess (id : Nat) (ev : CellEvent) : Statement (.homeAccess id ev) := of0 rfl
theorem hbcRetrain (st : Nat) (ch : Nat) (drift : Nat) (read : Nat) (write : Nat) (pause : Nat) : Statement (.hbcRetrain st ch drift read write pause) :=
  of1 rfl fun (h : (stackOk st && decide (ch < 16)) = true) => stack_ok (lt h)
theorem refresh (st : Nat) (ch : Nat) : Statement (.refresh st ch) :=
  of1 rfl fun (h : (stackOk st && decide (ch < 16)) = true) => stack_ok (lt h)
theorem temperatureReadout (st : Nat) (temp : Nat) : Statement (.temperatureReadout st temp) :=
  of1 rfl fun (h : (stackOk st) = true) => stack_ok h
theorem patrolScrub (st : Nat) (ev : CellEvent) : Statement (.patrolScrub st ev) :=
  of1 rfl fun (h : (stackOk st) = true) => stack_ok h
theorem moLd (c : Nat) (t : Nat) : Statement (.moLd c t) :=
  of1 rfl fun (h : (coreOk c && strandOk t) = true) => strand_ok (lt h) (rt h)
theorem moSt (c : Nat) (t : Nat) : Statement (.moSt c t) :=
  of1 rfl fun (h : (coreOk c && strandOk t) = true) => strand_ok (lt h) (rt h)
theorem add (c : Nat) (t : Nat) : Statement (.add c t) :=
  of1 rfl fun (h : (coreOk c && strandOk t) = true) => strand_ok (lt h) (rt h)
theorem fadd (c : Nat) (t : Nat) : Statement (.fadd c t) :=
  of1 rfl fun (h : (coreOk c && strandOk t) = true) => strand_ok (lt h) (rt h)
theorem swap (c : Nat) (t : Nat) : Statement (.swap c t) :=
  of1 rfl fun (h : (coreOk c && strandOk t) = true) => strand_ok (lt h) (rt h)
theorem cas (c : Nat) (t : Nat) : Statement (.cas c t) :=
  of1 rfl fun (h : (coreOk c && strandOk t) = true) => strand_ok (lt h) (rt h)
theorem smax (c : Nat) (t : Nat) : Statement (.smax c t) :=
  of1 rfl fun (h : (coreOk c && strandOk t) = true) => strand_ok (lt h) (rt h)
theorem smin (c : Nat) (t : Nat) : Statement (.smin c t) :=
  of1 rfl fun (h : (coreOk c && strandOk t) = true) => strand_ok (lt h) (rt h)
theorem amoOr (c : Nat) (t : Nat) : Statement (.amoOr c t) :=
  of1 rfl fun (h : (coreOk c && strandOk t) = true) => strand_ok (lt h) (rt h)
theorem amoAnd (c : Nat) (t : Nat) : Statement (.amoAnd c t) :=
  of1 rfl fun (h : (coreOk c && strandOk t) = true) => strand_ok (lt h) (rt h)
theorem fenceAcquire (c : Nat) (t : Nat) : Statement (.fenceAcquire c t) :=
  of1 rfl fun (h : (coreOk c && strandOk t) = true) => strand_ok (lt h) (rt h)
theorem fenceRelease (c : Nat) (t : Nat) : Statement (.fenceRelease c t) :=
  of1 rfl fun (h : (coreOk c && strandOk t) = true) => strand_ok (lt h) (rt h)
theorem fenceFull (c : Nat) (t : Nat) : Statement (.fenceFull c t) :=
  of1 rfl fun (h : (coreOk c && strandOk t) = true) => strand_ok (lt h) (rt h)
theorem moBar (c : Nat) (t : Nat) : Statement (.moBar c t) :=
  of1 rfl fun (h : (coreOk c && strandOk t) = true) => strand_ok (lt h) (rt h)
theorem hello (p : Nat) (f : Frame) : Statement (.hello p f) :=
  of2 rfl fun (h : (ctlPortOk p && f.wf) = true) => ⟨ctlPort_ok (lt h), frame_ok (rt h)⟩
theorem proof (p : Nat) (f : Frame) : Statement (.proof p f) :=
  of2 rfl fun (h : (ctlPortOk p && f.wf) = true) => ⟨ctlPort_ok (lt h), frame_ok (rt h)⟩
theorem heartbeat (p : Nat) (f : Frame) : Statement (.heartbeat p f) :=
  of2 rfl fun (h : (ctlPortOk p && f.wf) = true) => ⟨ctlPort_ok (lt h), frame_ok (rt h)⟩
theorem close (p : Nat) (f : Frame) : Statement (.close p f) :=
  of2 rfl fun (h : (ctlPortOk p && f.wf) = true) => ⟨ctlPort_ok (lt h), frame_ok (rt h)⟩
theorem regRead (p : Nat) (f : Frame) : Statement (.regRead p f) :=
  of2 rfl fun (h : (ctlPortOk p && f.wf) = true) => ⟨ctlPort_ok (lt h), frame_ok (rt h)⟩
theorem regWrite (p : Nat) (f : Frame) : Statement (.regWrite p f) :=
  of2 rfl fun (h : (ctlPortOk p && f.wf) = true) => ⟨ctlPort_ok (lt h), frame_ok (rt h)⟩
theorem memRead (p : Nat) (f : Frame) (evs : List CellEvent) : Statement (.memRead p f evs) :=
  of2 rfl fun (h : (ctlPortOk p && f.wf) = true) => ⟨ctlPort_ok (lt h), frame_ok (rt h)⟩
theorem memWrite (p : Nat) (f : Frame) (evs : List CellEvent) : Statement (.memWrite p f evs) :=
  of2 rfl fun (h : (ctlPortOk p && f.wf) = true) => ⟨ctlPort_ok (lt h), frame_ok (rt h)⟩
theorem doorbell (p : Nat) (f : Frame) : Statement (.doorbell p f) :=
  of2 rfl fun (h : (ctlPortOk p && f.wf) = true) => ⟨ctlPort_ok (lt h), frame_ok (rt h)⟩
theorem poll (p : Nat) (f : Frame) : Statement (.poll p f) :=
  of2 rfl fun (h : (ctlPortOk p && f.wf) = true) => ⟨ctlPort_ok (lt h), frame_ok (rt h)⟩
theorem claim (p : Nat) (f : Frame) : Statement (.claim p f) :=
  of2 rfl fun (h : (ctlPortOk p && f.wf) = true) => ⟨ctlPort_ok (lt h), frame_ok (rt h)⟩
theorem electionClose : Statement .electionClose := of0 rfl
theorem handover (p : Nat) (f : Frame) : Statement (.handover p f) :=
  of2 rfl fun (h : (ctlPortOk p && f.wf) = true) => ⟨ctlPort_ok (lt h), frame_ok (rt h)⟩
theorem attest (p : Nat) (f : Frame) : Statement (.attest p f) :=
  of2 rfl fun (h : (ctlPortOk p && f.wf) = true) => ⟨ctlPort_ok (lt h), frame_ok (rt h)⟩
theorem attestReport : Statement .attestReport := of0 rfl
theorem keyEnroll (p : Nat) (f : Frame) : Statement (.keyEnroll p f) :=
  of2 rfl fun (h : (ctlPortOk p && f.wf) = true) => ⟨ctlPort_ok (lt h), frame_ok (rt h)⟩
theorem keyRevoke (p : Nat) (f : Frame) : Statement (.keyRevoke p f) :=
  of2 rfl fun (h : (ctlPortOk p && f.wf) = true) => ⟨ctlPort_ok (lt h), frame_ok (rt h)⟩
theorem keysetEnroll (p : Nat) (f : Frame) : Statement (.keysetEnroll p f) :=
  of2 rfl fun (h : (ctlPortOk p && f.wf) = true) => ⟨ctlPort_ok (lt h), frame_ok (rt h)⟩
theorem keysetRemove (p : Nat) (f : Frame) : Statement (.keysetRemove p f) :=
  of2 rfl fun (h : (ctlPortOk p && f.wf) = true) => ⟨ctlPort_ok (lt h), frame_ok (rt h)⟩
theorem fwStage (p : Nat) (f : Frame) : Statement (.fwStage p f) :=
  of2 rfl fun (h : (ctlPortOk p && f.wf) = true) => ⟨ctlPort_ok (lt h), frame_ok (rt h)⟩
theorem fwStageWritten : Statement .fwStageWritten := of0 rfl
theorem fwCommit (p : Nat) (f : Frame) : Statement (.fwCommit p f) :=
  of2 rfl fun (h : (ctlPortOk p && f.wf) = true) => ⟨ctlPort_ok (lt h), frame_ok (rt h)⟩
theorem fwCommitDone : Statement .fwCommitDone := of0 rfl
theorem advance (p : Nat) (f : Frame) : Statement (.advance p f) :=
  of2 rfl fun (h : (ctlPortOk p && f.wf) = true) => ⟨ctlPort_ok (lt h), frame_ok (rt h)⟩
theorem floor (p : Nat) (f : Frame) : Statement (.floor p f) :=
  of2 rfl fun (h : (ctlPortOk p && f.wf) = true) => ⟨ctlPort_ok (lt h), frame_ok (rt h)⟩
theorem unknownType (p : Nat) (f : Frame) : Statement (.unknownType p f) :=
  of2 rfl fun (h : (ctlPortOk p && f.wf) = true) => ⟨ctlPort_ok (lt h), frame_ok (rt h)⟩
theorem sessionTimeout (k : Nat) : Statement (.sessionTimeout k) := of0 rfl
theorem heartbeatLoss : Statement .heartbeatLoss := of0 rfl
theorem violWindowEnd (p : Nat) : Statement (.violWindowEnd p) := of1 rfl fun (h : (ctlPortOk p) = true) => ctlPort_ok h
theorem reenablePort (r : Requester) (p : Nat) : Statement (.reenablePort r p) :=
  of2 rfl fun (h : (r.wf && ctlPortOk p) = true) => ⟨requester_ok (lt h), ctlPort_ok (rt h)⟩
theorem reenableSlots (r : Requester) (p : Nat) (mask : Nat) : Statement (.reenableSlots r p mask) :=
  of2 rfl fun (h : (r.wf && ctlPortOk p && decide (mask < 2 ^ 16)) = true) => ⟨requester_ok (lt (lt h)), ctlPort_ok (rt (lt h))⟩
theorem lossOfLight : Statement .lossOfLight := of0 rfl
theorem create (r : Requester) (n : Nat) : Statement (.create r n) :=
  of2 rfl fun (h : (r.wf && chamberOk n) = true) => ⟨requester_ok (lt h), chamber_ok (rt h)⟩
theorem qcbRead (n : Nat) : Statement (.qcbRead n) := of1 rfl fun (h : (chamberOk n) = true) => chamber_ok h
theorem destroy (r : Requester) (n : Nat) (q : Nat) : Statement (.destroy r n q) :=
  of3 rfl fun (h : (r.wf && chamberOk n && queueOk q) = true) => ⟨requester_ok (lt (lt h)), chamber_ok (rt (lt h)), queue_ok (rt h)⟩
theorem reclaim (r : Requester) (n : Nat) (q : Nat) : Statement (.reclaim r n q) :=
  of3 rfl fun (h : (r.wf && chamberOk n && queueOk q) = true) => ⟨requester_ok (lt (lt h)), chamber_ok (rt (lt h)), queue_ok (rt h)⟩
theorem teardownDone (q : Nat) : Statement (.teardownDone q) := of1 rfl fun (h : (queueOk q) = true) => queue_ok h
theorem graphCreate (r : Requester) (n : Nat) (g : Nat) : Statement (.graphCreate r n g) :=
  of2 rfl fun (h : (r.wf && chamberOk n && decide (g < 64)) = true) => ⟨requester_ok (lt (lt h)), chamber_ok (rt (lt h))⟩
theorem patch (r : Requester) (n : Nat) : Statement (.patch r n) :=
  of2 rfl fun (h : (r.wf && chamberOk n) = true) => ⟨requester_ok (lt h), chamber_ok (rt h)⟩
theorem patchDone (n : Nat) : Statement (.patchDone n) := of1 rfl fun (h : (chamberOk n) = true) => chamber_ok h
theorem graphDestroy (r : Requester) (n : Nat) (g : Nat) : Statement (.graphDestroy r n g) :=
  of2 rfl fun (h : (r.wf && chamberOk n && decide (g < 64)) = true) => ⟨requester_ok (lt (lt h)), chamber_ok (rt (lt h))⟩
theorem qDbWrite (r : Requester) (q : Nat) (tail : Nat) : Statement (.qDbWrite r q tail) :=
  of2 rfl fun (h : (r.wf && queueOk q && wordOk tail) = true) => ⟨requester_ok (lt (lt h)), queue_ok (rt (lt h))⟩
theorem qCackWrite (r : Requester) (q : Nat) (v : Nat) : Statement (.qCackWrite r q v) :=
  of2 rfl fun (h : (r.wf && queueOk q && wordOk v) = true) => ⟨requester_ok (lt (lt h)), queue_ok (rt (lt h))⟩
theorem qCancel (r : Requester) (q : Nat) (seq : Nat) : Statement (.qCancel r q seq) :=
  of2 rfl fun (h : (r.wf && queueOk q && wordOk seq) = true) => ⟨requester_ok (lt (lt h)), queue_ok (rt (lt h))⟩
theorem itemFetch (n : Nat) : Statement (.itemFetch n) := of1 rfl fun (h : (chamberOk n) = true) => chamber_ok h
theorem itemDispatch (n : Nat) : Statement (.itemDispatch n) := of1 rfl fun (h : (chamberOk n) = true) => chamber_ok h
theorem itemBind (g : Nat) : Statement (.itemBind g) := of1 rfl fun (h : (galleryOk g) = true) => gallery_ok h
theorem markerEnd (q : Nat) (seq : Nat) : Statement (.markerEnd q seq) :=
  of1 rfl fun (h : (queueOk q && wordOk seq) = true) => queue_ok (lt h)
theorem graphNodeDispatch (q : Nat) (seq : Nat) (k : Nat) : Statement (.graphNodeDispatch q seq k) :=
  of1 rfl fun (h : (queueOk q && wordOk seq && decide (k < 4096)) = true) => queue_ok (lt (lt h))
theorem messageDispatch (q : Nat) : Statement (.messageDispatch q) := of1 rfl fun (h : (queueOk q) = true) => queue_ok h
theorem copyComplete (k : ItemKey) : Statement (.copyComplete k) := of1 rfl fun (h : (k.wf) = true) => item_ok h
theorem dmvAbortAck (k : ItemKey) : Statement (.dmvAbortAck k) := of1 rfl fun (h : (k.wf) = true) => item_ok h
theorem itemTimeout (q : Nat) (seq : Nat) : Statement (.itemTimeout q seq) :=
  of1 rfl fun (h : (queueOk q && wordOk seq) = true) => queue_ok (lt h)
theorem qwEnd (c : Nat) (t : Nat) : Statement (.qwEnd c t) :=
  of1 rfl fun (h : (coreOk c && strandOk t) = true) => strand_ok (lt h) (rt h)
theorem qwTake (c : Nat) (t : Nat) : Statement (.qwTake c t) :=
  of1 rfl fun (h : (coreOk c && strandOk t) = true) => strand_ok (lt h) (rt h)
theorem qwDone (c : Nat) (t : Nat) : Statement (.qwDone c t) :=
  of1 rfl fun (h : (coreOk c && strandOk t) = true) => strand_ok (lt h) (rt h)
theorem qwExit (c : Nat) (t : Nat) : Statement (.qwExit c t) :=
  of1 rfl fun (h : (coreOk c && strandOk t) = true) => strand_ok (lt h) (rt h)
theorem qwLive (c : Nat) (t : Nat) : Statement (.qwLive c t) :=
  of1 rfl fun (h : (coreOk c && strandOk t) = true) => strand_ok (lt h) (rt h)
theorem surveyCommit : Statement .surveyCommit := of0 rfl
theorem mgmtFwCommit : Statement .mgmtFwCommit := of0 rfl
theorem scan : Statement .scan := of0 rfl
theorem flush : Statement .flush := of0 rfl
theorem portTest : Statement .portTest := of0 rfl
theorem endTest : Statement .endTest := of0 rfl
theorem testWindowEnd (p : Nat) : Statement (.testWindowEnd p) := of1 rfl fun (h : (portOk p) = true) => port_ok h
theorem ageExpiry (a : Aging) : Statement (.ageExpiry a) := of1 rfl fun (h : (a.wf) = true) => aging_ok h
theorem preempt (g : Nat) : Statement (.preempt g) := of1 rfl fun (h : (galleryOk g) = true) => gallery_ok h
theorem suspendDone (c : Nat) (t : Nat) : Statement (.suspendDone c t) :=
  of1 rfl fun (h : (coreOk c && strandOk t) = true) => strand_ok (lt h) (rt h)
theorem resume (c : Nat) : Statement (.resume c) := of1 rfl fun (h : (coreOk c) = true) => core_ok h
theorem laneTrain (l : Nat) (ok : Bool) : Statement (.laneTrain l ok) := of1 rfl fun (h : (laneOk l) = true) => lane_ok h
theorem laneTrainRetry (l : Nat) : Statement (.laneTrainRetry l) := of1 rfl fun (h : (laneOk l) = true) => lane_ok h
theorem retrain (r : Requester) (p : Nat) (k : Nat) : Statement (.retrain r p k) :=
  of2 rfl fun (h : (r.wf && portOk p && decide (k < 4)) = true) => ⟨requester_ok (lt (lt h)), port_ok (rt (lt h))⟩
theorem rdReq (l : Nat) (p : Packet) (ev : CellEvent) : Statement (.rdReq l p ev) :=
  of2 rfl fun (h : (laneOk l && p.wf) = true) => ⟨lane_ok (lt h), packet_ok (rt h)⟩
theorem wr (l : Nat) (p : Packet) (ev : CellEvent) : Statement (.wr l p ev) :=
  of2 rfl fun (h : (laneOk l && p.wf) = true) => ⟨lane_ok (lt h), packet_ok (rt h)⟩
theorem closeWr (l : Nat) (p : Packet) : Statement (.closeWr l p) :=
  of2 rfl fun (h : (laneOk l && p.wf) = true) => ⟨lane_ok (lt h), packet_ok (rt h)⟩
theorem closeWrPerform (src : Nat) (n : Nat) (req : Nat) (k : Nat) : Statement (.closeWrPerform src n req k) :=
  of1 rfl fun (h : (deviceOk src && chamberOk n && decide (req < 256) && wordOk k) = true) => chamber_ok (rt (lt (lt h)))
theorem closeTimeout (src : Nat) (n : Nat) (req : Nat) (k : Nat) : Statement (.closeTimeout src n req k) :=
  of1 rfl fun (h : (deviceOk src && chamberOk n && decide (req < 256) && wordOk k) = true) => chamber_ok (rt (lt (lt h)))
theorem amo (l : Nat) (p : Packet) (ev : CellEvent) : Statement (.amo l p ev) :=
  of2 rfl fun (h : (laneOk l && p.wf) = true) => ⟨lane_ok (lt h), packet_ok (rt h)⟩
theorem row (l : Nat) (p : Packet) : Statement (.row l p) :=
  of2 rfl fun (h : (laneOk l && p.wf) = true) => ⟨lane_ok (lt h), packet_ok (rt h)⟩
theorem rowEnd (l : Nat) (p : Packet) : Statement (.rowEnd l p) :=
  of2 rfl fun (h : (laneOk l && p.wf) = true) => ⟨lane_ok (lt h), packet_ok (rt h)⟩
theorem barArrive (l : Nat) (p : Packet) : Statement (.barArrive l p) :=
  of2 rfl fun (h : (laneOk l && p.wf) = true) => ⟨lane_ok (lt h), packet_ok (rt h)⟩
theorem barRelease (l : Nat) (p : Packet) : Statement (.barRelease l p) :=
  of2 rfl fun (h : (laneOk l && p.wf) = true) => ⟨lane_ok (lt h), packet_ok (rt h)⟩
theorem sync (l : Nat) (p : Packet) (hopPs : Nat) : Statement (.sync l p hopPs) :=
  of2 rfl fun (h : (laneOk l && p.wf) = true) => ⟨lane_ok (lt h), packet_ok (rt h)⟩
theorem syncSend : Statement .syncSend := of0 rfl
theorem holdover : Statement .holdover := of0 rfl
theorem memberHeartbeat (l : Nat) (p : Packet) : Statement (.memberHeartbeat l p) :=
  of2 rfl fun (h : (laneOk l && p.wf) = true) => ⟨lane_ok (lt h), packet_ok (rt h)⟩
theorem view (l : Nat) (p : Packet) (changes : List (Nat × Bool)) : Statement (.view l p changes) :=
  of2 rfl fun (h : (laneOk l && p.wf && changes.all (fun e => deviceOk e.1)) = true) => ⟨lane_ok (lt (lt h)), packet_ok (rt (lt h))⟩
theorem leave (l : Nat) (p : Packet) : Statement (.leave l p) :=
  of2 rfl fun (h : (laneOk l && p.wf) = true) => ⟨lane_ok (lt h), packet_ok (rt h)⟩
theorem heartbeatSend : Statement .heartbeatSend := of0 rfl
theorem memberDeparted (d : Nat) : Statement (.memberDeparted d) := of0 rfl
theorem masterLost : Statement .masterLost := of0 rfl
theorem masterTakeover : Statement .masterTakeover := of0 rfl
theorem rdResp (l : Nat) (p : Packet) : Statement (.rdResp l p) :=
  of2 rfl fun (h : (laneOk l && p.wf) = true) => ⟨lane_ok (lt h), packet_ok (rt h)⟩
theorem wrAck (l : Nat) (p : Packet) : Statement (.wrAck l p) :=
  of2 rfl fun (h : (laneOk l && p.wf) = true) => ⟨lane_ok (lt h), packet_ok (rt h)⟩
theorem amoResp (l : Nat) (p : Packet) : Statement (.amoResp l p) :=
  of2 rfl fun (h : (laneOk l && p.wf) = true) => ⟨lane_ok (lt h), packet_ok (rt h)⟩
theorem rowDrop (l : Nat) (p : Packet) : Statement (.rowDrop l p) :=
  of2 rfl fun (h : (laneOk l && p.wf) = true) => ⟨lane_ok (lt h), packet_ok (rt h)⟩
theorem result (l : Nat) (p : Packet) : Statement (.result l p) :=
  of2 rfl fun (h : (laneOk l && p.wf) = true) => ⟨lane_ok (lt h), packet_ok (rt h)⟩
theorem nak (l : Nat) (p : Packet) : Statement (.nak l p) :=
  of2 rfl fun (h : (laneOk l && p.wf) = true) => ⟨lane_ok (lt h), packet_ok (rt h)⟩
theorem packetForward (l : Nat) (p : Packet) : Statement (.packetForward l p) :=
  of2 rfl fun (h : (laneOk l && p.wf) = true) => ⟨lane_ok (lt h), packet_ok (rt h)⟩
theorem credit (l : Nat) (p : Packet) : Statement (.credit l p) :=
  of2 rfl fun (h : (laneOk l && p.wf) = true) => ⟨lane_ok (lt h), packet_ok (rt h)⟩
theorem ack (l : Nat) (p : Packet) : Statement (.ack l p) :=
  of2 rfl fun (h : (laneOk l && p.wf) = true) => ⟨lane_ok (lt h), packet_ok (rt h)⟩
theorem replayReq (l : Nat) (p : Packet) : Statement (.replayReq l p) :=
  of2 rfl fun (h : (laneOk l && p.wf) = true) => ⟨lane_ok (lt h), packet_ok (rt h)⟩
theorem eqReq (l : Nat) (p : Packet) : Statement (.eqReq l p) :=
  of2 rfl fun (h : (laneOk l && p.wf) = true) => ⟨lane_ok (lt h), packet_ok (rt h)⟩
theorem eqRsp (l : Nat) (p : Packet) : Statement (.eqRsp l p) :=
  of2 rfl fun (h : (laneOk l && p.wf) = true) => ⟨lane_ok (lt h), packet_ok (rt h)⟩
theorem param (l : Nat) (p : Packet) (assignOk : Bool) : Statement (.param l p assignOk) :=
  of2 rfl fun (h : (laneOk l && p.wf) = true) => ⟨lane_ok (lt h), packet_ok (rt h)⟩
theorem eqUpdate (l : Nat) (eyeH : Nat) (eyeV : Nat) (symErr : Nat) (corrected : Nat) (ask : Option (Nat × Nat)) : Statement (.eqUpdate l eyeH eyeV symErr corrected ask) :=
  of1 rfl fun (h : (laneOk l) = true) => lane_ok h
theorem lnkViolWindowEnd (p : Nat) : Statement (.lnkViolWindowEnd p) := of1 rfl fun (h : (portOk p) = true) => port_ok h
theorem lnkReenable (r : Requester) (p : Nat) : Statement (.lnkReenable r p) :=
  of2 rfl fun (h : (r.wf && portOk p) = true) => ⟨requester_ok (lt h), port_ok (rt h)⟩
theorem scanWindow (g : Nat) : Statement (.scanWindow g) := of1 rfl fun (h : (galleryOk g) = true) => gallery_ok h
theorem dupScanWindow (c : Nat) : Statement (.dupScanWindow c) := of1 rfl fun (h : (coreOk c) = true) => core_ok h
theorem scanDrainEnd : Statement .scanDrainEnd := of0 rfl
theorem scanQuiesced : Statement .scanQuiesced := of0 rfl
theorem scanSlateDone (fails : List (Nat × Nat × Nat)) : Statement (.scanSlateDone fails) := of0 rfl
theorem markAmber (r : Requester) (u : Nat) : Statement (.markAmber r u) :=
  of1 rfl fun (h : (r.wf && decide (u < 1024)) = true) => requester_ok (lt h)
theorem clearAmber (r : Requester) (u : Nat) : Statement (.clearAmber r u) :=
  of1 rfl fun (h : (r.wf && decide (u < 1024)) = true) => requester_ok (lt h)
theorem retire (r : Requester) (u : Nat) : Statement (.retire r u) :=
  of1 rfl fun (h : (r.wf && decide (u < 1024)) = true) => requester_ok (lt h)
theorem healthFlashWrite : Statement .healthFlashWrite := of0 rfl
theorem lifetimeWrite : Statement .lifetimeWrite := of0 rfl
theorem cvuGo (r : Requester) (g : Nat) (u : Nat) : Statement (.cvuGo r g u) :=
  of2 rfl fun (h : (r.wf && galleryOk g && decide (u < 2)) = true) => ⟨requester_ok (lt (lt h)), gallery_ok (rt (lt h))⟩
theorem cvuAbort (r : Requester) (g : Nat) (u : Nat) : Statement (.cvuAbort r g u) :=
  of2 rfl fun (h : (r.wf && galleryOk g && decide (u < 2)) = true) => ⟨requester_ok (lt (lt h)), gallery_ok (rt (lt h))⟩
theorem cvuRunDone (g : Nat) (u : Nat) : Statement (.cvuRunDone g u) :=
  of1 rfl fun (h : (galleryOk g && decide (u < 2)) = true) => gallery_ok (lt h)
theorem powerOn : Statement .powerOn := of0 rfl
theorem resetN : Statement .resetN := of0 rfl
theorem warmReset (r : Requester) : Statement (.warmReset r) := of1 rfl fun (h : (r.wf) = true) => requester_ok h
theorem portReset (r : Requester) : Statement (.portReset r) := of1 rfl fun (h : (r.wf) = true) => requester_ok h
theorem pwrGoodFall : Statement .pwrGoodFall := of0 rfl
theorem firmwareVerified (vexps : List Nat) : Statement (.firmwareVerified vexps) := of0 rfl
theorem stage2Done : Statement .stage2Done := of0 rfl
theorem stackTrained (st : Nat) (ok : Bool) : Statement (.stackTrained st ok) :=
  of1 rfl fun (h : (stackOk st) = true) => stack_ok h
theorem earlyService : Statement .earlyService := of0 rfl
theorem stage5 : Statement .stage5 := of0 rfl
theorem earlyHandover : Statement .earlyHandover := of0 rfl
theorem marginLoopStep (d : Nat) (slack : Option (Nat × Nat)) : Statement (.marginLoopStep d slack) :=
  of1 rfl fun (h : (domainOk d) = true) => domain_ok h
theorem canaryEmergency (d : Nat) (slack : Nat) : Statement (.canaryEmergency d slack) :=
  of1 rfl fun (h : (domainOk d) = true) => domain_ok h
theorem powerWindow (doms : List Nat) (bytes : List (Nat × Nat)) (pkg : Nat) : Statement (.powerWindow doms bytes pkg) :=
  of0 rfl
theorem powerLoopStep (n : Nat) : Statement (.powerLoopStep n) := of1 rfl fun (h : (chamberOk n) = true) => chamber_ok h
theorem pkgGuardEnd : Statement .pkgGuardEnd := of0 rfl
theorem regulatorSettled (d : Nat) : Statement (.regulatorSettled d) := of1 rfl fun (h : (domainOk d) = true) => domain_ok h
theorem thermalRead (temps : List Nat) : Statement (.thermalRead temps) := of0 rfl
theorem pmbusPoll (d : Nat) (acked : Bool) (vout : Nat) (fault : Bool) : Statement (.pmbusPoll d acked vout fault) :=
  of1 rfl fun (h : (domainOk d) = true) => domain_ok h
theorem pmbusAlert (seg : Nat) (faults : List Nat) : Statement (.pmbusAlert seg faults) := of0 rfl
theorem shutdown (r : Requester) : Statement (.shutdown r) := of1 rfl fun (h : (r.wf) = true) => requester_ok h
theorem offReq : Statement .offReq := of0 rfl
theorem shutdownDrainEnd : Statement .shutdownDrainEnd := of0 rfl
theorem offReady : Statement .offReady := of0 rfl
theorem refclkLoss : Statement .refclkLoss := of0 rfl
theorem tbRead (c : Nat) (t : Nat) : Statement (.tbRead c t) :=
  of1 rfl fun (h : (coreOk c && strandOk t) = true) => strand_ok (lt h) (rt h)
theorem trMark (c : Nat) (t : Nat) : Statement (.trMark c t) :=
  of1 rfl fun (h : (coreOk c && strandOk t) = true) => strand_ok (lt h) (rt h)
theorem pcSample (c : Nat) : Statement (.pcSample c) := of1 rfl fun (h : (coreOk c) = true) => core_ok h
theorem truDrain (n : Nat) : Statement (.truDrain n) := of1 rfl fun (h : (chamberOk n) = true) => chamber_ok h
theorem trigger (r : Requester) (n : Nat) : Statement (.trigger r n) :=
  of2 rfl fun (h : (r.wf && chamberOk n) = true) => ⟨requester_ok (lt h), chamber_ok (rt h)⟩
theorem restart (r : Requester) (n : Nat) : Statement (.restart r n) :=
  of2 rfl fun (h : (r.wf && chamberOk n) = true) => ⟨requester_ok (lt h), chamber_ok (rt h)⟩
theorem truTimeTrigger (n : Nat) : Statement (.truTimeTrigger n) := of1 rfl fun (h : (chamberOk n) = true) => chamber_ok h
theorem i3cWrite (addr : Nat) (bytes : List Byte) : Statement (.i3cWrite addr bytes) := of0 rfl
theorem i3cRead (addr : Nat) (n : Nat) : Statement (.i3cRead addr n) := of0 rfl
theorem entdaa (addr : Nat) : Statement (.entdaa addr) := of0 rfl
theorem setdasa (static : Nat) (addr : Nat) : Statement (.setdasa static addr) := of0 rfl
theorem rstdaa : Statement .rstdaa := of0 rfl
theorem getpid (addr : Nat) : Statement (.getpid addr) := of0 rfl
theorem getbcr (addr : Nat) : Statement (.getbcr addr) := of0 rfl
theorem getdcr (addr : Nat) : Statement (.getdcr addr) := of0 rfl
theorem getstatus (addr : Nat) : Statement (.getstatus addr) := of0 rfl
theorem enec (target : Option Nat) (events : Nat) : Statement (.enec target events) := of0 rfl
theorem disec (target : Option Nat) (events : Nat) : Statement (.disec target events) := of0 rfl
theorem bypass (tdi : List Bool) : Statement (.bypass tdi) := of0 rfl
theorem idcode (tdi : List Bool) : Statement (.idcode tdi) := of0 rfl
theorem samplePreload (tdi : List Bool) : Statement (.samplePreload tdi) := of0 rfl
theorem extest (tdi : List Bool) : Statement (.extest tdi) := of0 rfl
theorem clamp (tdi : List Bool) : Statement (.clamp tdi) := of0 rfl
theorem highz (tdi : List Bool) : Statement (.highz tdi) := of0 rfl
theorem testLogicReset : Statement .testLogicReset := of0 rfl
theorem csLd (c : Nat) (t : Nat) : Statement (.csLd c t) :=
  of1 rfl fun (h : (coreOk c && strandOk t) = true) => strand_ok (lt h) (rt h)
theorem csSt (c : Nat) (t : Nat) : Statement (.csSt c t) :=
  of1 rfl fun (h : (coreOk c && strandOk t) = true) => strand_ok (lt h) (rt h)
theorem xcReturnComplete (id : Nat) : Statement (.xcReturnComplete id) := of0 rfl
theorem graphCreateDone (n : Nat) : Statement (.graphCreateDone n) := of1 rfl fun (h : (chamberOk n) = true) => chamber_ok h
theorem badOrOutOfOrderPacket (l : Nat) (p : Packet) (bad : Bool) : Statement (.badOrOutOfOrderPacket l p bad) :=
  of2 rfl fun (h : (laneOk l && p.wf) = true) => ⟨lane_ok (lt h), packet_ok (rt h)⟩
theorem unknownPacketType (l : Nat) (p : Packet) : Statement (.unknownPacketType l p) :=
  of2 rfl fun (h : (laneOk l && p.wf) = true) => ⟨lane_ok (lt h), packet_ok (rt h)⟩
theorem uncorrectableCodeword (l : Nat) : Statement (.uncorrectableCodeword l) :=
  of1 rfl fun (h : (laneOk l) = true) => lane_ok h
theorem opticalLinkChange (p : Nat) (up : Bool) : Statement (.opticalLinkChange p up) :=
  of1 rfl fun (h : (ctlPortOk p) = true) => ctlPort_ok h
theorem counterHoldEnd : Statement .counterHoldEnd := of0 rfl
theorem vauxWithinTolerance : Statement .vauxWithinTolerance := of0 rfl
theorem resetNRises : Statement .resetNRises := of0 rfl
theorem uncorrectableUncoreFault : Statement .uncorrectableUncoreFault := of0 rfl

end Sys2Proof.Laws.Operands
end

