-- ==== Sys2Proof/Laws/Registers.lean ====
section
/-! SUPPORT. What a field of a control-space register reads as after a field, a word or a counter is set. -/

namespace Sys2Proof.Machine

/-! ### Bit fields of a number -/

theorem bitsOf_eq (x hi lo : Nat) : bitsOf x hi lo = x / 2 ^ lo % 2 ^ (hi + 1 - lo) := by
  simp [bitsOf, Nat.shiftRight_eq_div_pow]

theorem setBitsOf_eq {x hi lo v : Nat} (h : lo ≤ hi) :
    setBitsOf x hi lo v = x / 2 ^ (hi + 1) * 2 ^ (hi + 1) + v % 2 ^ (hi + 1 - lo) * 2 ^ lo + x % 2 ^ lo := by
  have e : 2 ^ (hi + 1) = 2 ^ lo * 2 ^ (hi + 1 - lo) := by rw [← pow_add]; congr 1; omega
  have h1 := Nat.div_add_mod x (2 ^ lo)
  have h2 := Nat.div_add_mod (x / 2 ^ lo) (2 ^ (hi + 1 - lo))
  have h3 : x / 2 ^ (hi + 1) = x / 2 ^ lo / 2 ^ (hi + 1 - lo) := by rw [e, Nat.div_div_eq_div_mul]
  rw [setBitsOf, bitsOf_eq, Nat.shiftLeft_eq, Nat.shiftLeft_eq, h3, e]
  set q := x / 2 ^ lo / 2 ^ (hi + 1 - lo)
  set r := x / 2 ^ lo % 2 ^ (hi + 1 - lo)
  have h4 : x = q * (2 ^ lo * 2 ^ (hi + 1 - lo)) + r * 2 ^ lo + x % 2 ^ lo := by
    conv_lhs => rw [← h1, ← h2]
    ring
  omega

theorem setBitsOf_lt {x hi lo v : Nat} (h : lo ≤ hi) (hh : hi < 32) (hx : x < 2 ^ 32) : setBitsOf x hi lo v < 2 ^ 32 := by
  rw [setBitsOf_eq h]
  have e1 : 2 ^ (hi + 1) = 2 ^ lo * 2 ^ (hi + 1 - lo) := by rw [← pow_add]; congr 1; omega
  have e2 : 2 ^ 32 = 2 ^ (hi + 1) * 2 ^ (32 - (hi + 1)) := by rw [← pow_add]; congr 1; omega
  have a1 : x / 2 ^ (hi + 1) < 2 ^ (32 - (hi + 1)) := by
    rw [Nat.div_lt_iff_lt_mul (by positivity), mul_comm, ← e2]; exact hx
  have a2 : v % 2 ^ (hi + 1 - lo) + 1 ≤ 2 ^ (hi + 1 - lo) := Nat.mod_lt _ (by positivity)
  have a3 : x % 2 ^ lo < 2 ^ lo := Nat.mod_lt _ (by positivity)
  have a4 : v % 2 ^ (hi + 1 - lo) * 2 ^ lo + 2 ^ lo ≤ 2 ^ (hi + 1) := by
    rw [e1, mul_comm (2 ^ lo)]; nlinarith [Nat.two_pow_pos lo]
  have a5 : x / 2 ^ (hi + 1) * 2 ^ (hi + 1) + 2 ^ (hi + 1) ≤ 2 ^ 32 := by
    rw [e2, mul_comm (2 ^ (hi + 1)) (2 ^ (32 - (hi + 1)))]
    calc x / 2 ^ (hi + 1) * 2 ^ (hi + 1) + 2 ^ (hi + 1) = (x / 2 ^ (hi + 1) + 1) * 2 ^ (hi + 1) := by ring
      _ ≤ _ := Nat.mul_le_mul_right _ a1
  omega

/-- The field just set. -/
theorem bitsOf_setBitsOf {x hi lo v : Nat} (h : lo ≤ hi) : bitsOf (setBitsOf x hi lo v) hi lo = v % 2 ^ (hi + 1 - lo) := by
  have e : 2 ^ (hi + 1) = 2 ^ lo * 2 ^ (hi + 1 - lo) := by rw [← pow_add]; congr 1; omega
  rw [bitsOf_eq, setBitsOf_eq h]
  have : x / 2 ^ (hi + 1) * 2 ^ (hi + 1) + v % 2 ^ (hi + 1 - lo) * 2 ^ lo + x % 2 ^ lo =
      x % 2 ^ lo + 2 ^ lo * (x / 2 ^ (hi + 1) * 2 ^ (hi + 1 - lo) + v % 2 ^ (hi + 1 - lo)) := by rw [e]; ring
  rw [this, Nat.add_mul_div_left _ _ (by positivity), Nat.div_eq_of_lt (Nat.mod_lt _ (by positivity)), Nat.zero_add,
    Nat.add_comm, Nat.add_mul_mod_self_right, Nat.mod_mod]

/-- A field above the one set. -/
theorem bitsOf_setBitsOf_above {x hi lo v hi' lo' : Nat} (h : lo ≤ hi) (h' : hi < lo') :
    bitsOf (setBitsOf x hi lo v) hi' lo' = bitsOf x hi' lo' := by
  have e : 2 ^ (hi + 1) = 2 ^ lo * 2 ^ (hi + 1 - lo) := by rw [← pow_add]; congr 1; omega
  have key : setBitsOf x hi lo v / 2 ^ (hi + 1) = x / 2 ^ (hi + 1) := by
    suffices small : v % 2 ^ (hi + 1 - lo) * 2 ^ lo + x % 2 ^ lo < 2 ^ (hi + 1) by
      rw [setBitsOf_eq h, add_assoc, mul_comm, Nat.mul_add_div (by positivity), Nat.div_eq_of_lt small, Nat.add_zero]
    have a2 : v % 2 ^ (hi + 1 - lo) + 1 ≤ 2 ^ (hi + 1 - lo) := Nat.mod_lt _ (by positivity)
    have a3 : x % 2 ^ lo < 2 ^ lo := Nat.mod_lt _ (by positivity)
    rw [e]; nlinarith [Nat.two_pow_pos lo]
  have e2 : 2 ^ lo' = 2 ^ (hi + 1) * 2 ^ (lo' - (hi + 1)) := by rw [← pow_add]; congr 1; omega
  rw [bitsOf_eq, bitsOf_eq, e2, ← Nat.div_div_eq_div_mul, ← Nat.div_div_eq_div_mul, key]

/-- A field below the one set. -/
theorem bitsOf_setBitsOf_below {x hi lo v hi' lo' : Nat} (h : lo ≤ hi) (h' : hi' < lo) (hl : lo' ≤ hi') :
    bitsOf (setBitsOf x hi lo v) hi' lo' = bitsOf x hi' lo' := by
  have e : 2 ^ (hi + 1) = 2 ^ lo * 2 ^ (hi + 1 - lo) := by rw [← pow_add]; congr 1; omega
  have key : setBitsOf x hi lo v % 2 ^ lo = x % 2 ^ lo := by
    rw [setBitsOf_eq h, e]
    have : x / (2 ^ lo * 2 ^ (hi + 1 - lo)) * (2 ^ lo * 2 ^ (hi + 1 - lo)) + v % 2 ^ (hi + 1 - lo) * 2 ^ lo + x % 2 ^ lo =
      x % 2 ^ lo + 2 ^ lo * (x / (2 ^ lo * 2 ^ (hi + 1 - lo)) * 2 ^ (hi + 1 - lo) + v % 2 ^ (hi + 1 - lo)) := by ring
    rw [this, Nat.add_mul_mod_self_left, Nat.mod_mod]
  have cut : ∀ y, bitsOf y hi' lo' = bitsOf (y % 2 ^ lo) hi' lo' := by
    intro y
    have e1 : 2 ^ lo = 2 ^ lo' * 2 ^ (lo - lo') := by rw [← pow_add]; congr 1; omega
    have e2 : 2 ^ (lo - lo') = 2 ^ (hi' + 1 - lo') * 2 ^ (lo - hi' - 1) := by rw [← pow_add]; congr 1; omega
    rw [bitsOf_eq, bitsOf_eq, e1, Nat.mod_mul_right_div_self, e2, Nat.mod_mul_right_mod]
  rw [cut, key, ← cut]

/-! ### Words of registers -/

@[simp] theorem State.rget_rput_self (s : State) (a : Nat) (w : Word) : (s.rput a w).rget a = w := by
  simp [State.rget, State.rput]

theorem State.rget_rput (s : State) (a b : Nat) (w : Word) : (s.rput a w).rget b = if a = b then w else s.rget b := by
  simp [State.rget, State.rput, smGet_smPut]

theorem State.rget_rput_ne (s : State) {a b : Nat} (w : Word) (h : a ≠ b) : (s.rput a w).rget b = s.rget b := by
  simp [State.rget_rput, h]

/-- A register after a range of addresses is reset. -/
theorem State.rget_resetRange (s : State) (lo hi a : Nat) :
    (s.resetRange lo hi).rget a = if lo ≤ a ∧ a < hi then resetAt a else s.rget a := by
  simp [State.rget, State.resetRange, smGet_smClear]

/-! ### Fields -/

/-- The field that was set. -/
theorem State.fget_fset_self (s : State) (f : Fld) (v i j : Nat) (h : f.lo ≤ f.hi ∧ f.hi < 32) :
    (s.fset f v i j).fget f i j = v % 2 ^ (f.hi + 1 - f.lo) := by
  simp only [State.fget, State.fset, State.rget_rput_self, BitVec.toNat_ofNat]
  rw [Nat.mod_eq_of_lt (setBitsOf_lt h.1 h.2 (s.rget _).isLt), bitsOf_setBitsOf h.1]

/-- Another field of the register in which a field was set. -/
theorem State.fget_fset_other (s : State) (f g : Fld) (v i j i' j' : Nat) (hf : f.lo ≤ f.hi ∧ f.hi < 32) (hg : g.lo ≤ g.hi)
    (hd : f.hi < g.lo ∨ g.hi < f.lo) : (s.fset f v i j).fget g i' j' = s.fget g i' j' := by
  by_cases ha : regAddr f.reg i j = regAddr g.reg i' j'
  · simp only [State.fget, State.fset, ← ha, State.rget_rput_self, BitVec.toNat_ofNat]
    rw [Nat.mod_eq_of_lt (setBitsOf_lt hf.1 hf.2 (s.rget _).isLt)]
    rcases hd with hd | hd
    · exact bitsOf_setBitsOf_above hf.1 hd
    · exact bitsOf_setBitsOf_below hf.1 hd hg
  · simp [State.fget, State.fset, State.rget_rput_ne _ _ ha]

/-- A field of a register at another address. -/
theorem State.fget_fset_ne (s : State) (f g : Fld) (v i j i' j' : Nat) (h : regAddr f.reg i j ≠ regAddr g.reg i' j') :
    (s.fset f v i j).fget g i' j' = s.fget g i' j' := by
  simp [State.fget, State.fset, State.rget_rput_ne _ _ h]

theorem State.rget_fset_ne (s : State) (f : Fld) (v i j a : Nat) (h : regAddr f.reg i j ≠ a) :
    (s.fset f v i j).rget a = s.rget a := State.rget_rput_ne _ _ h

/-- A field of the register whose word was set. -/
theorem State.fget_wset_self (s : State) (g : Fld) (v i j : Nat) :
    (s.wset g.reg v i j).fget g i j = bitsOf (v % 2 ^ 32) g.hi g.lo := by
  simp [State.fget, State.wset, State.rget_rput_self]

theorem State.fget_wset_ne (s : State) (r : Reg) (g : Fld) (v i j i' j' : Nat) (h : regAddr r i j ≠ regAddr g.reg i' j') :
    (s.wset r v i j).fget g i' j' = s.fget g i' j' := by
  simp [State.fget, State.wset, State.rget_rput_ne _ _ h]

/-- A field reads less than its width allows. -/
theorem State.fget_lt (s : State) (f : Fld) (i j : Nat) : s.fget f i j < 2 ^ (f.hi + 1 - f.lo) := by
  rw [State.fget, bitsOf_eq]; exact Nat.mod_lt _ (by positivity)

/-- A count after it is advanced: it saturates (R690). -/
theorem State.fget_bump_self (s : State) (f : Fld) (n i j : Nat) (h : f.lo ≤ f.hi ∧ f.hi < 32) :
    (s.bump f n i j).fget f i j = min (2 ^ (f.hi + 1 - f.lo) - 1) (s.fget f i j + n) := by
  rw [State.bump, State.fget_fset_self _ _ _ _ _ h, saturate]
  have hp : 0 < 2 ^ (f.hi + 1 - f.lo) := by positivity
  split
  · rw [Nat.mod_eq_of_lt (by omega)]; omega
  · rw [Nat.mod_eq_of_lt (by omega)]; omega

end Sys2Proof.Machine
end

