-- ==== Sys2Proof/Laws/Queues.lean ====
section
/-! SUPPORT. Which queues a chamber holds, read from the registers that differ from their reset values. -/

namespace Sys2Proof.Machine

/-- Every GFE_Q_STATE is 0 at reset: a FREE queue. -/
theorem resetAt_q_state {q : Nat} (h : q < 4096) : resetAt (regAddr GFE_Q_STATE q 0) = 0#32 := by
  have e : regAddr GFE_Q_STATE q 0 = 0x90004 + 0x20 * q := by simp [regAddr, GFE_Q_STATE]
  rw [e]
  have hb : blockRegs (0x90004 + 0x20 * q) = some regsGFEQ := by
    unfold blockRegs
    repeat' first | rw [if_neg (by omega)] | rw [if_pos (by omega)]
  unfold resetAt regDescAt
  rw [hb]
  have h1 : regInst GFE_Q_DB (0x90004 + 0x20 * q) = none := by
    simp [regInst, GFE_Q_DB]; omega
  have h2 : (regInst GFE_Q_STATE (0x90004 + 0x20 * q)).isSome = true := by
    simp [regInst, GFE_Q_STATE]; omega
  simp only [regsGFEQ, List.find?, h1, h2, Option.isSome_none]
  decide

/-- A lookup of a key that is not listed gives the default. -/
theorem smGet_unlisted {α : Type} (d : Nat → α) (m : List (Nat × α)) (k : Nat) (h : ∀ e ∈ m, e.1 ≠ k) : smGet d m k = d k := by
  induction m with
  | nil => rfl
  | cons e l ih =>
    have := h e (by simp)
    simp only [smGet]
    split
    · simp_all
    · exact ih (fun x hx => h x (by simp [hx]))

/-- A queue whose GFE_Q_STATE is not listed is FREE. -/
theorem queueState_unlisted (s : State) {q : Nat} (hq : q < 4096) (h : ∀ e ∈ s.regs, e.1 ≠ regAddr GFE_Q_STATE q 0) :
    s.queueState q = qFree := by
  unfold State.queueState State.fget State.rget
  show bitsOf (smGet resetAt s.regs (regAddr GFE_Q_STATE q 0)).toNat _ _ = _
  rw [smGet_unlisted resetAt s.regs _ h, resetAt_q_state hq]
  decide

/-- A chamber holds no queue while no GFE_Q_STATE is listed. -/
theorem heldQueues_nil (s : State) (n : Nat) (h : s.regs.all (fun e => e.1 < 0x90004 || 0xB0000 ≤ e.1) = true) :
    s.heldQueues n = [] := by
  unfold State.heldQueues
  rw [List.filter_eq_nil_iff]
  intro q hq
  have hq : q < 4096 := by simpa using hq
  rw [queueState_unlisted s hq]
  · simp
  · intro e he
    have := List.all_eq_true.mp h e he
    simp [regAddr, GFE_Q_STATE] at this ⊢
    omega

/-- A chamber holds queue 4095 alone when only that GFE_Q_STATE is listed and names the chamber. -/
theorem heldQueues_last (s : State) (n : Nat)
    (h : s.regs.all (fun e => e.1 < 0x90004 || 0xAFFE4 ≤ e.1) = true)
    (hs : s.queueState 4095 ≠ qFree) (hn : s.queueChamber 4095 = n) : s.heldQueues n = [4095] := by
  unfold State.heldQueues
  rw [show (4096 : Nat) = 4095 + 1 from rfl, List.range_succ, List.filter_append]
  have : (List.range 4095).filter (fun q => s.queueState q != qFree && s.queueChamber q == n) = [] := by
    rw [List.filter_eq_nil_iff]
    intro q hq
    have hq : q < 4095 := by simpa using hq
    rw [queueState_unlisted s (by omega)]
    · simp
    · intro e he
      have := List.all_eq_true.mp h e he
      simp [regAddr, GFE_Q_STATE] at this ⊢
      omega
  rw [this]
  simp [hs, hn]

end Sys2Proof.Machine
end

