-- ==== Sys2Proof/Laws/State.lean ====
section
/-! SUPPORT. What each update of the state leaves as it was: per update, each field that it does not write, and what a reader of
another field answers after it. -/

namespace Sys2Proof.Machine

variable (s : State)

/-! ### `rput` writes `regs` -/

@[simp] theorem State.rput_pending (a : Nat) (w : Word) : (s.rput a w).pending = s.pending := rfl
@[simp] theorem State.rput_now (a : Nat) (w : Word) : (s.rput a w).now = s.now := rfl
@[simp] theorem State.rput_free (a : Nat) (w : Word) : (s.rput a w).free = s.free := rfl
@[simp] theorem State.rput_mem (a : Nat) (w : Word) : (s.rput a w).mem = s.mem := rfl
@[simp] theorem State.rput_shadows (a : Nat) (w : Word) : (s.rput a w).shadows = s.shadows := rfl
@[simp] theorem State.rput_sels (a : Nat) (w : Word) : (s.rput a w).sels = s.sels := rfl
@[simp] theorem State.rput_health (a : Nat) (w : Word) : (s.rput a w).health = s.health := rfl
@[simp] theorem State.rput_strands (a : Nat) (w : Word) : (s.rput a w).strands = s.strands := rfl
@[simp] theorem State.rput_items (a : Nat) (w : Word) : (s.rput a w).items = s.items := rfl
@[simp] theorem State.rput_queues (a : Nat) (w : Word) : (s.rput a w).queues = s.queues := rfl
@[simp] theorem State.rput_graphs (a : Nat) (w : Word) : (s.rput a w).graphs = s.graphs := rfl
@[simp] theorem State.rput_gfeTurn (a : Nat) (w : Word) : (s.rput a w).gfeTurn = s.gfeTurn := rfl
@[simp] theorem State.rput_gfeCmds (a : Nat) (w : Word) : (s.rput a w).gfeCmds = s.gfeCmds := rfl
@[simp] theorem State.rput_cvus (a : Nat) (w : Word) : (s.rput a w).cvus = s.cvus := rfl
@[simp] theorem State.rput_engOps (a : Nat) (w : Word) : (s.rput a w).engOps = s.engOps := rfl
@[simp] theorem State.rput_sr (a : Nat) (w : Word) : (s.rput a w).sr = s.sr := rfl
@[simp] theorem State.rput_samples (a : Nat) (w : Word) : (s.rput a w).samples = s.samples := rfl
@[simp] theorem State.rput_ms (a : Nat) (w : Word) : (s.rput a w).ms = s.ms := rfl
@[simp] theorem State.rput_chambers (a : Nat) (w : Word) : (s.rput a w).chambers = s.chambers := rfl
@[simp] theorem State.rput_slots (a : Nat) (w : Word) : (s.rput a w).slots = s.slots := rfl
@[simp] theorem State.rput_svy (a : Nat) (w : Word) : (s.rput a w).svy = s.svy := rfl
@[simp] theorem State.rput_fab (a : Nat) (w : Word) : (s.rput a w).fab = s.fab := rfl
@[simp] theorem State.rput_kv (a : Nat) (w : Word) : (s.rput a w).kv = s.kv := rfl
@[simp] theorem State.rput_rte (a : Nat) (w : Word) : (s.rput a w).rte = s.rte := rfl
@[simp] theorem State.rput_hlm (a : Nat) (w : Word) : (s.rput a w).hlm = s.hlm := rfl
@[simp] theorem State.rput_hbc (a : Nat) (w : Word) : (s.rput a w).hbc = s.hbc := rfl
@[simp] theorem State.rput_pwr (a : Nat) (w : Word) : (s.rput a w).pwr = s.pwr := rfl
@[simp] theorem State.rput_utcBase (a : Nat) (w : Word) : (s.rput a w).utcBase = s.utcBase := rfl
@[simp] theorem State.rput_granules (a : Nat) (w : Word) : (s.rput a w).granules = s.granules := rfl
@[simp] theorem State.rput_tb (a : Nat) (w : Word) : (s.rput a w).tb = s.tb := rfl
@[simp] theorem State.rput_tbc (a : Nat) (w : Word) : (s.rput a w).tbc = s.tbc := rfl
@[simp] theorem State.rput_tru (a : Nat) (w : Word) : (s.rput a w).tru = s.tru := rfl
@[simp] theorem State.rput_ctp (a : Nat) (w : Word) : (s.rput a w).ctp = s.ctp := rfl
@[simp] theorem State.rput_sec (a : Nat) (w : Word) : (s.rput a w).sec = s.sec := rfl
@[simp] theorem State.rput_mgc (a : Nat) (w : Word) : (s.rput a w).mgc = s.mgc := rfl
@[simp] theorem State.rput_i3c (a : Nat) (w : Word) : (s.rput a w).i3c = s.i3c := rfl
@[simp] theorem State.rput_tap (a : Nat) (w : Word) : (s.rput a w).tap = s.tap := rfl
@[simp] theorem State.rput_pins (a : Nat) (w : Word) : (s.rput a w).pins = s.pins := rfl
@[simp] theorem State.rput_out (a : Nat) (w : Word) : (s.rput a w).out = s.out := rfl
@[simp] theorem State.healthOf_rput (a : Nat) (w : Word) (n₂ : Nat) : (s.rput a w).healthOf n₂ = s.healthOf n₂ := rfl
@[simp] theorem State.chamber_rput (a : Nat) (w : Word) (n₂ : Nat) : (s.rput a w).chamber n₂ = s.chamber n₂ := rfl
@[simp] theorem State.strand_rput (a : Nat) (w : Word) (c₂ t₂ : Nat) : (s.rput a w).strand c₂ t₂ = s.strand c₂ t₂ := rfl
@[simp] theorem State.queue_rput (a : Nat) (w : Word) (n₂ : Nat) : (s.rput a w).queue n₂ = s.queue n₂ := rfl
@[simp] theorem State.item_rput (a : Nat) (w : Word) (k₂ : ItemKey) : (s.rput a w).item k₂ = s.item k₂ := rfl
@[simp] theorem State.byte_rput (a : Nat) (w : Word) (n₂ : Nat) : (s.rput a w).byte n₂ = s.byte n₂ := rfl
@[simp] theorem State.slot_rput (a : Nat) (w : Word) (n₂ : Nat) : (s.rput a w).slot n₂ = s.slot n₂ := rfl
@[simp] theorem State.domain_rput (a : Nat) (w : Word) (n₂ : Nat) : (s.rput a w).domain n₂ = s.domain n₂ := rfl
@[simp] theorem State.lane_rput (a : Nat) (w : Word) (n₂ : Nat) : (s.rput a w).lane n₂ = s.lane n₂ := rfl
@[simp] theorem State.session_rput (a : Nat) (w : Word) (n₂ : Nat) : (s.rput a w).session n₂ = s.session n₂ := rfl
@[simp] theorem State.seq_rput (a : Nat) (w : Word) (n₂ m₂ : Nat) : (s.rput a w).seq n₂ m₂ = s.seq n₂ m₂ := rfl

/-! ### `fset` writes `regs` -/

@[simp] theorem State.fset_pending (f : Fld) (v i j : Nat) : (s.fset f v i j).pending = s.pending := rfl
@[simp] theorem State.fset_now (f : Fld) (v i j : Nat) : (s.fset f v i j).now = s.now := rfl
@[simp] theorem State.fset_free (f : Fld) (v i j : Nat) : (s.fset f v i j).free = s.free := rfl
@[simp] theorem State.fset_mem (f : Fld) (v i j : Nat) : (s.fset f v i j).mem = s.mem := rfl
@[simp] theorem State.fset_shadows (f : Fld) (v i j : Nat) : (s.fset f v i j).shadows = s.shadows := rfl
@[simp] theorem State.fset_sels (f : Fld) (v i j : Nat) : (s.fset f v i j).sels = s.sels := rfl
@[simp] theorem State.fset_health (f : Fld) (v i j : Nat) : (s.fset f v i j).health = s.health := rfl
@[simp] theorem State.fset_strands (f : Fld) (v i j : Nat) : (s.fset f v i j).strands = s.strands := rfl
@[simp] theorem State.fset_items (f : Fld) (v i j : Nat) : (s.fset f v i j).items = s.items := rfl
@[simp] theorem State.fset_queues (f : Fld) (v i j : Nat) : (s.fset f v i j).queues = s.queues := rfl
@[simp] theorem State.fset_graphs (f : Fld) (v i j : Nat) : (s.fset f v i j).graphs = s.graphs := rfl
@[simp] theorem State.fset_gfeTurn (f : Fld) (v i j : Nat) : (s.fset f v i j).gfeTurn = s.gfeTurn := rfl
@[simp] theorem State.fset_gfeCmds (f : Fld) (v i j : Nat) : (s.fset f v i j).gfeCmds = s.gfeCmds := rfl
@[simp] theorem State.fset_cvus (f : Fld) (v i j : Nat) : (s.fset f v i j).cvus = s.cvus := rfl
@[simp] theorem State.fset_engOps (f : Fld) (v i j : Nat) : (s.fset f v i j).engOps = s.engOps := rfl
@[simp] theorem State.fset_sr (f : Fld) (v i j : Nat) : (s.fset f v i j).sr = s.sr := rfl
@[simp] theorem State.fset_samples (f : Fld) (v i j : Nat) : (s.fset f v i j).samples = s.samples := rfl
@[simp] theorem State.fset_ms (f : Fld) (v i j : Nat) : (s.fset f v i j).ms = s.ms := rfl
@[simp] theorem State.fset_chambers (f : Fld) (v i j : Nat) : (s.fset f v i j).chambers = s.chambers := rfl
@[simp] theorem State.fset_slots (f : Fld) (v i j : Nat) : (s.fset f v i j).slots = s.slots := rfl
@[simp] theorem State.fset_svy (f : Fld) (v i j : Nat) : (s.fset f v i j).svy = s.svy := rfl
@[simp] theorem State.fset_fab (f : Fld) (v i j : Nat) : (s.fset f v i j).fab = s.fab := rfl
@[simp] theorem State.fset_kv (f : Fld) (v i j : Nat) : (s.fset f v i j).kv = s.kv := rfl
@[simp] theorem State.fset_rte (f : Fld) (v i j : Nat) : (s.fset f v i j).rte = s.rte := rfl
@[simp] theorem State.fset_hlm (f : Fld) (v i j : Nat) : (s.fset f v i j).hlm = s.hlm := rfl
@[simp] theorem State.fset_hbc (f : Fld) (v i j : Nat) : (s.fset f v i j).hbc = s.hbc := rfl
@[simp] theorem State.fset_pwr (f : Fld) (v i j : Nat) : (s.fset f v i j).pwr = s.pwr := rfl
@[simp] theorem State.fset_utcBase (f : Fld) (v i j : Nat) : (s.fset f v i j).utcBase = s.utcBase := rfl
@[simp] theorem State.fset_granules (f : Fld) (v i j : Nat) : (s.fset f v i j).granules = s.granules := rfl
@[simp] theorem State.fset_tb (f : Fld) (v i j : Nat) : (s.fset f v i j).tb = s.tb := rfl
@[simp] theorem State.fset_tbc (f : Fld) (v i j : Nat) : (s.fset f v i j).tbc = s.tbc := rfl
@[simp] theorem State.fset_tru (f : Fld) (v i j : Nat) : (s.fset f v i j).tru = s.tru := rfl
@[simp] theorem State.fset_ctp (f : Fld) (v i j : Nat) : (s.fset f v i j).ctp = s.ctp := rfl
@[simp] theorem State.fset_sec (f : Fld) (v i j : Nat) : (s.fset f v i j).sec = s.sec := rfl
@[simp] theorem State.fset_mgc (f : Fld) (v i j : Nat) : (s.fset f v i j).mgc = s.mgc := rfl
@[simp] theorem State.fset_i3c (f : Fld) (v i j : Nat) : (s.fset f v i j).i3c = s.i3c := rfl
@[simp] theorem State.fset_tap (f : Fld) (v i j : Nat) : (s.fset f v i j).tap = s.tap := rfl
@[simp] theorem State.fset_pins (f : Fld) (v i j : Nat) : (s.fset f v i j).pins = s.pins := rfl
@[simp] theorem State.fset_out (f : Fld) (v i j : Nat) : (s.fset f v i j).out = s.out := rfl
@[simp] theorem State.healthOf_fset (f : Fld) (v i j : Nat) (n₂ : Nat) : (s.fset f v i j).healthOf n₂ = s.healthOf n₂ := rfl
@[simp] theorem State.chamber_fset (f : Fld) (v i j : Nat) (n₂ : Nat) : (s.fset f v i j).chamber n₂ = s.chamber n₂ := rfl
@[simp] theorem State.strand_fset (f : Fld) (v i j : Nat) (c₂ t₂ : Nat) : (s.fset f v i j).strand c₂ t₂ = s.strand c₂ t₂ := rfl
@[simp] theorem State.queue_fset (f : Fld) (v i j : Nat) (n₂ : Nat) : (s.fset f v i j).queue n₂ = s.queue n₂ := rfl
@[simp] theorem State.item_fset (f : Fld) (v i j : Nat) (k₂ : ItemKey) : (s.fset f v i j).item k₂ = s.item k₂ := rfl
@[simp] theorem State.byte_fset (f : Fld) (v i j : Nat) (n₂ : Nat) : (s.fset f v i j).byte n₂ = s.byte n₂ := rfl
@[simp] theorem State.slot_fset (f : Fld) (v i j : Nat) (n₂ : Nat) : (s.fset f v i j).slot n₂ = s.slot n₂ := rfl
@[simp] theorem State.domain_fset (f : Fld) (v i j : Nat) (n₂ : Nat) : (s.fset f v i j).domain n₂ = s.domain n₂ := rfl
@[simp] theorem State.lane_fset (f : Fld) (v i j : Nat) (n₂ : Nat) : (s.fset f v i j).lane n₂ = s.lane n₂ := rfl
@[simp] theorem State.session_fset (f : Fld) (v i j : Nat) (n₂ : Nat) : (s.fset f v i j).session n₂ = s.session n₂ := rfl
@[simp] theorem State.seq_fset (f : Fld) (v i j : Nat) (n₂ m₂ : Nat) : (s.fset f v i j).seq n₂ m₂ = s.seq n₂ m₂ := rfl

/-! ### `wset` writes `regs` -/

@[simp] theorem State.wset_pending (r : Reg) (v i j : Nat) : (s.wset r v i j).pending = s.pending := rfl
@[simp] theorem State.wset_now (r : Reg) (v i j : Nat) : (s.wset r v i j).now = s.now := rfl
@[simp] theorem State.wset_free (r : Reg) (v i j : Nat) : (s.wset r v i j).free = s.free := rfl
@[simp] theorem State.wset_mem (r : Reg) (v i j : Nat) : (s.wset r v i j).mem = s.mem := rfl
@[simp] theorem State.wset_shadows (r : Reg) (v i j : Nat) : (s.wset r v i j).shadows = s.shadows := rfl
@[simp] theorem State.wset_sels (r : Reg) (v i j : Nat) : (s.wset r v i j).sels = s.sels := rfl
@[simp] theorem State.wset_health (r : Reg) (v i j : Nat) : (s.wset r v i j).health = s.health := rfl
@[simp] theorem State.wset_strands (r : Reg) (v i j : Nat) : (s.wset r v i j).strands = s.strands := rfl
@[simp] theorem State.wset_items (r : Reg) (v i j : Nat) : (s.wset r v i j).items = s.items := rfl
@[simp] theorem State.wset_queues (r : Reg) (v i j : Nat) : (s.wset r v i j).queues = s.queues := rfl
@[simp] theorem State.wset_graphs (r : Reg) (v i j : Nat) : (s.wset r v i j).graphs = s.graphs := rfl
@[simp] theorem State.wset_gfeTurn (r : Reg) (v i j : Nat) : (s.wset r v i j).gfeTurn = s.gfeTurn := rfl
@[simp] theorem State.wset_gfeCmds (r : Reg) (v i j : Nat) : (s.wset r v i j).gfeCmds = s.gfeCmds := rfl
@[simp] theorem State.wset_cvus (r : Reg) (v i j : Nat) : (s.wset r v i j).cvus = s.cvus := rfl
@[simp] theorem State.wset_engOps (r : Reg) (v i j : Nat) : (s.wset r v i j).engOps = s.engOps := rfl
@[simp] theorem State.wset_sr (r : Reg) (v i j : Nat) : (s.wset r v i j).sr = s.sr := rfl
@[simp] theorem State.wset_samples (r : Reg) (v i j : Nat) : (s.wset r v i j).samples = s.samples := rfl
@[simp] theorem State.wset_ms (r : Reg) (v i j : Nat) : (s.wset r v i j).ms = s.ms := rfl
@[simp] theorem State.wset_chambers (r : Reg) (v i j : Nat) : (s.wset r v i j).chambers = s.chambers := rfl
@[simp] theorem State.wset_slots (r : Reg) (v i j : Nat) : (s.wset r v i j).slots = s.slots := rfl
@[simp] theorem State.wset_svy (r : Reg) (v i j : Nat) : (s.wset r v i j).svy = s.svy := rfl
@[simp] theorem State.wset_fab (r : Reg) (v i j : Nat) : (s.wset r v i j).fab = s.fab := rfl
@[simp] theorem State.wset_kv (r : Reg) (v i j : Nat) : (s.wset r v i j).kv = s.kv := rfl
@[simp] theorem State.wset_rte (r : Reg) (v i j : Nat) : (s.wset r v i j).rte = s.rte := rfl
@[simp] theorem State.wset_hlm (r : Reg) (v i j : Nat) : (s.wset r v i j).hlm = s.hlm := rfl
@[simp] theorem State.wset_hbc (r : Reg) (v i j : Nat) : (s.wset r v i j).hbc = s.hbc := rfl
@[simp] theorem State.wset_pwr (r : Reg) (v i j : Nat) : (s.wset r v i j).pwr = s.pwr := rfl
@[simp] theorem State.wset_utcBase (r : Reg) (v i j : Nat) : (s.wset r v i j).utcBase = s.utcBase := rfl
@[simp] theorem State.wset_granules (r : Reg) (v i j : Nat) : (s.wset r v i j).granules = s.granules := rfl
@[simp] theorem State.wset_tb (r : Reg) (v i j : Nat) : (s.wset r v i j).tb = s.tb := rfl
@[simp] theorem State.wset_tbc (r : Reg) (v i j : Nat) : (s.wset r v i j).tbc = s.tbc := rfl
@[simp] theorem State.wset_tru (r : Reg) (v i j : Nat) : (s.wset r v i j).tru = s.tru := rfl
@[simp] theorem State.wset_ctp (r : Reg) (v i j : Nat) : (s.wset r v i j).ctp = s.ctp := rfl
@[simp] theorem State.wset_sec (r : Reg) (v i j : Nat) : (s.wset r v i j).sec = s.sec := rfl
@[simp] theorem State.wset_mgc (r : Reg) (v i j : Nat) : (s.wset r v i j).mgc = s.mgc := rfl
@[simp] theorem State.wset_i3c (r : Reg) (v i j : Nat) : (s.wset r v i j).i3c = s.i3c := rfl
@[simp] theorem State.wset_tap (r : Reg) (v i j : Nat) : (s.wset r v i j).tap = s.tap := rfl
@[simp] theorem State.wset_pins (r : Reg) (v i j : Nat) : (s.wset r v i j).pins = s.pins := rfl
@[simp] theorem State.wset_out (r : Reg) (v i j : Nat) : (s.wset r v i j).out = s.out := rfl
@[simp] theorem State.healthOf_wset (r : Reg) (v i j : Nat) (n₂ : Nat) : (s.wset r v i j).healthOf n₂ = s.healthOf n₂ := rfl
@[simp] theorem State.chamber_wset (r : Reg) (v i j : Nat) (n₂ : Nat) : (s.wset r v i j).chamber n₂ = s.chamber n₂ := rfl
@[simp] theorem State.strand_wset (r : Reg) (v i j : Nat) (c₂ t₂ : Nat) : (s.wset r v i j).strand c₂ t₂ = s.strand c₂ t₂ := rfl
@[simp] theorem State.queue_wset (r : Reg) (v i j : Nat) (n₂ : Nat) : (s.wset r v i j).queue n₂ = s.queue n₂ := rfl
@[simp] theorem State.item_wset (r : Reg) (v i j : Nat) (k₂ : ItemKey) : (s.wset r v i j).item k₂ = s.item k₂ := rfl
@[simp] theorem State.byte_wset (r : Reg) (v i j : Nat) (n₂ : Nat) : (s.wset r v i j).byte n₂ = s.byte n₂ := rfl
@[simp] theorem State.slot_wset (r : Reg) (v i j : Nat) (n₂ : Nat) : (s.wset r v i j).slot n₂ = s.slot n₂ := rfl
@[simp] theorem State.domain_wset (r : Reg) (v i j : Nat) (n₂ : Nat) : (s.wset r v i j).domain n₂ = s.domain n₂ := rfl
@[simp] theorem State.lane_wset (r : Reg) (v i j : Nat) (n₂ : Nat) : (s.wset r v i j).lane n₂ = s.lane n₂ := rfl
@[simp] theorem State.session_wset (r : Reg) (v i j : Nat) (n₂ : Nat) : (s.wset r v i j).session n₂ = s.session n₂ := rfl
@[simp] theorem State.seq_wset (r : Reg) (v i j : Nat) (n₂ m₂ : Nat) : (s.wset r v i j).seq n₂ m₂ = s.seq n₂ m₂ := rfl

/-! ### `bump` writes `regs` -/

@[simp] theorem State.bump_pending (f : Fld) (n i j : Nat) : (s.bump f n i j).pending = s.pending := rfl
@[simp] theorem State.bump_now (f : Fld) (n i j : Nat) : (s.bump f n i j).now = s.now := rfl
@[simp] theorem State.bump_free (f : Fld) (n i j : Nat) : (s.bump f n i j).free = s.free := rfl
@[simp] theorem State.bump_mem (f : Fld) (n i j : Nat) : (s.bump f n i j).mem = s.mem := rfl
@[simp] theorem State.bump_shadows (f : Fld) (n i j : Nat) : (s.bump f n i j).shadows = s.shadows := rfl
@[simp] theorem State.bump_sels (f : Fld) (n i j : Nat) : (s.bump f n i j).sels = s.sels := rfl
@[simp] theorem State.bump_health (f : Fld) (n i j : Nat) : (s.bump f n i j).health = s.health := rfl
@[simp] theorem State.bump_strands (f : Fld) (n i j : Nat) : (s.bump f n i j).strands = s.strands := rfl
@[simp] theorem State.bump_items (f : Fld) (n i j : Nat) : (s.bump f n i j).items = s.items := rfl
@[simp] theorem State.bump_queues (f : Fld) (n i j : Nat) : (s.bump f n i j).queues = s.queues := rfl
@[simp] theorem State.bump_graphs (f : Fld) (n i j : Nat) : (s.bump f n i j).graphs = s.graphs := rfl
@[simp] theorem State.bump_gfeTurn (f : Fld) (n i j : Nat) : (s.bump f n i j).gfeTurn = s.gfeTurn := rfl
@[simp] theorem State.bump_gfeCmds (f : Fld) (n i j : Nat) : (s.bump f n i j).gfeCmds = s.gfeCmds := rfl
@[simp] theorem State.bump_cvus (f : Fld) (n i j : Nat) : (s.bump f n i j).cvus = s.cvus := rfl
@[simp] theorem State.bump_engOps (f : Fld) (n i j : Nat) : (s.bump f n i j).engOps = s.engOps := rfl
@[simp] theorem State.bump_sr (f : Fld) (n i j : Nat) : (s.bump f n i j).sr = s.sr := rfl
@[simp] theorem State.bump_samples (f : Fld) (n i j : Nat) : (s.bump f n i j).samples = s.samples := rfl
@[simp] theorem State.bump_ms (f : Fld) (n i j : Nat) : (s.bump f n i j).ms = s.ms := rfl
@[simp] theorem State.bump_chambers (f : Fld) (n i j : Nat) : (s.bump f n i j).chambers = s.chambers := rfl
@[simp] theorem State.bump_slots (f : Fld) (n i j : Nat) : (s.bump f n i j).slots = s.slots := rfl
@[simp] theorem State.bump_svy (f : Fld) (n i j : Nat) : (s.bump f n i j).svy = s.svy := rfl
@[simp] theorem State.bump_fab (f : Fld) (n i j : Nat) : (s.bump f n i j).fab = s.fab := rfl
@[simp] theorem State.bump_kv (f : Fld) (n i j : Nat) : (s.bump f n i j).kv = s.kv := rfl
@[simp] theorem State.bump_rte (f : Fld) (n i j : Nat) : (s.bump f n i j).rte = s.rte := rfl
@[simp] theorem State.bump_hlm (f : Fld) (n i j : Nat) : (s.bump f n i j).hlm = s.hlm := rfl
@[simp] theorem State.bump_hbc (f : Fld) (n i j : Nat) : (s.bump f n i j).hbc = s.hbc := rfl
@[simp] theorem State.bump_pwr (f : Fld) (n i j : Nat) : (s.bump f n i j).pwr = s.pwr := rfl
@[simp] theorem State.bump_utcBase (f : Fld) (n i j : Nat) : (s.bump f n i j).utcBase = s.utcBase := rfl
@[simp] theorem State.bump_granules (f : Fld) (n i j : Nat) : (s.bump f n i j).granules = s.granules := rfl
@[simp] theorem State.bump_tb (f : Fld) (n i j : Nat) : (s.bump f n i j).tb = s.tb := rfl
@[simp] theorem State.bump_tbc (f : Fld) (n i j : Nat) : (s.bump f n i j).tbc = s.tbc := rfl
@[simp] theorem State.bump_tru (f : Fld) (n i j : Nat) : (s.bump f n i j).tru = s.tru := rfl
@[simp] theorem State.bump_ctp (f : Fld) (n i j : Nat) : (s.bump f n i j).ctp = s.ctp := rfl
@[simp] theorem State.bump_sec (f : Fld) (n i j : Nat) : (s.bump f n i j).sec = s.sec := rfl
@[simp] theorem State.bump_mgc (f : Fld) (n i j : Nat) : (s.bump f n i j).mgc = s.mgc := rfl
@[simp] theorem State.bump_i3c (f : Fld) (n i j : Nat) : (s.bump f n i j).i3c = s.i3c := rfl
@[simp] theorem State.bump_tap (f : Fld) (n i j : Nat) : (s.bump f n i j).tap = s.tap := rfl
@[simp] theorem State.bump_pins (f : Fld) (n i j : Nat) : (s.bump f n i j).pins = s.pins := rfl
@[simp] theorem State.bump_out (f : Fld) (n i j : Nat) : (s.bump f n i j).out = s.out := rfl
@[simp] theorem State.healthOf_bump (f : Fld) (n i j : Nat) (n₂ : Nat) : (s.bump f n i j).healthOf n₂ = s.healthOf n₂ := rfl
@[simp] theorem State.chamber_bump (f : Fld) (n i j : Nat) (n₂ : Nat) : (s.bump f n i j).chamber n₂ = s.chamber n₂ := rfl
@[simp] theorem State.strand_bump (f : Fld) (n i j : Nat) (c₂ t₂ : Nat) : (s.bump f n i j).strand c₂ t₂ = s.strand c₂ t₂ := rfl
@[simp] theorem State.queue_bump (f : Fld) (n i j : Nat) (n₂ : Nat) : (s.bump f n i j).queue n₂ = s.queue n₂ := rfl
@[simp] theorem State.item_bump (f : Fld) (n i j : Nat) (k₂ : ItemKey) : (s.bump f n i j).item k₂ = s.item k₂ := rfl
@[simp] theorem State.byte_bump (f : Fld) (n i j : Nat) (n₂ : Nat) : (s.bump f n i j).byte n₂ = s.byte n₂ := rfl
@[simp] theorem State.slot_bump (f : Fld) (n i j : Nat) (n₂ : Nat) : (s.bump f n i j).slot n₂ = s.slot n₂ := rfl
@[simp] theorem State.domain_bump (f : Fld) (n i j : Nat) (n₂ : Nat) : (s.bump f n i j).domain n₂ = s.domain n₂ := rfl
@[simp] theorem State.lane_bump (f : Fld) (n i j : Nat) (n₂ : Nat) : (s.bump f n i j).lane n₂ = s.lane n₂ := rfl
@[simp] theorem State.session_bump (f : Fld) (n i j : Nat) (n₂ : Nat) : (s.bump f n i j).session n₂ = s.session n₂ := rfl
@[simp] theorem State.seq_bump (f : Fld) (n i j : Nat) (n₂ m₂ : Nat) : (s.bump f n i j).seq n₂ m₂ = s.seq n₂ m₂ := rfl

/-! ### `bumpWrap` writes `regs` -/

@[simp] theorem State.bumpWrap_pending (f : Fld) (n i j : Nat) : (s.bumpWrap f n i j).pending = s.pending := rfl
@[simp] theorem State.bumpWrap_now (f : Fld) (n i j : Nat) : (s.bumpWrap f n i j).now = s.now := rfl
@[simp] theorem State.bumpWrap_free (f : Fld) (n i j : Nat) : (s.bumpWrap f n i j).free = s.free := rfl
@[simp] theorem State.bumpWrap_mem (f : Fld) (n i j : Nat) : (s.bumpWrap f n i j).mem = s.mem := rfl
@[simp] theorem State.bumpWrap_shadows (f : Fld) (n i j : Nat) : (s.bumpWrap f n i j).shadows = s.shadows := rfl
@[simp] theorem State.bumpWrap_sels (f : Fld) (n i j : Nat) : (s.bumpWrap f n i j).sels = s.sels := rfl
@[simp] theorem State.bumpWrap_health (f : Fld) (n i j : Nat) : (s.bumpWrap f n i j).health = s.health := rfl
@[simp] theorem State.bumpWrap_strands (f : Fld) (n i j : Nat) : (s.bumpWrap f n i j).strands = s.strands := rfl
@[simp] theorem State.bumpWrap_items (f : Fld) (n i j : Nat) : (s.bumpWrap f n i j).items = s.items := rfl
@[simp] theorem State.bumpWrap_queues (f : Fld) (n i j : Nat) : (s.bumpWrap f n i j).queues = s.queues := rfl
@[simp] theorem State.bumpWrap_graphs (f : Fld) (n i j : Nat) : (s.bumpWrap f n i j).graphs = s.graphs := rfl
@[simp] theorem State.bumpWrap_gfeTurn (f : Fld) (n i j : Nat) : (s.bumpWrap f n i j).gfeTurn = s.gfeTurn := rfl
@[simp] theorem State.bumpWrap_gfeCmds (f : Fld) (n i j : Nat) : (s.bumpWrap f n i j).gfeCmds = s.gfeCmds := rfl
@[simp] theorem State.bumpWrap_cvus (f : Fld) (n i j : Nat) : (s.bumpWrap f n i j).cvus = s.cvus := rfl
@[simp] theorem State.bumpWrap_engOps (f : Fld) (n i j : Nat) : (s.bumpWrap f n i j).engOps = s.engOps := rfl
@[simp] theorem State.bumpWrap_sr (f : Fld) (n i j : Nat) : (s.bumpWrap f n i j).sr = s.sr := rfl
@[simp] theorem State.bumpWrap_samples (f : Fld) (n i j : Nat) : (s.bumpWrap f n i j).samples = s.samples := rfl
@[simp] theorem State.bumpWrap_ms (f : Fld) (n i j : Nat) : (s.bumpWrap f n i j).ms = s.ms := rfl
@[simp] theorem State.bumpWrap_chambers (f : Fld) (n i j : Nat) : (s.bumpWrap f n i j).chambers = s.chambers := rfl
@[simp] theorem State.bumpWrap_slots (f : Fld) (n i j : Nat) : (s.bumpWrap f n i j).slots = s.slots := rfl
@[simp] theorem State.bumpWrap_svy (f : Fld) (n i j : Nat) : (s.bumpWrap f n i j).svy = s.svy := rfl
@[simp] theorem State.bumpWrap_fab (f : Fld) (n i j : Nat) : (s.bumpWrap f n i j).fab = s.fab := rfl
@[simp] theorem State.bumpWrap_kv (f : Fld) (n i j : Nat) : (s.bumpWrap f n i j).kv = s.kv := rfl
@[simp] theorem State.bumpWrap_rte (f : Fld) (n i j : Nat) : (s.bumpWrap f n i j).rte = s.rte := rfl
@[simp] theorem State.bumpWrap_hlm (f : Fld) (n i j : Nat) : (s.bumpWrap f n i j).hlm = s.hlm := rfl
@[simp] theorem State.bumpWrap_hbc (f : Fld) (n i j : Nat) : (s.bumpWrap f n i j).hbc = s.hbc := rfl
@[simp] theorem State.bumpWrap_pwr (f : Fld) (n i j : Nat) : (s.bumpWrap f n i j).pwr = s.pwr := rfl
@[simp] theorem State.bumpWrap_utcBase (f : Fld) (n i j : Nat) : (s.bumpWrap f n i j).utcBase = s.utcBase := rfl
@[simp] theorem State.bumpWrap_granules (f : Fld) (n i j : Nat) : (s.bumpWrap f n i j).granules = s.granules := rfl
@[simp] theorem State.bumpWrap_tb (f : Fld) (n i j : Nat) : (s.bumpWrap f n i j).tb = s.tb := rfl
@[simp] theorem State.bumpWrap_tbc (f : Fld) (n i j : Nat) : (s.bumpWrap f n i j).tbc = s.tbc := rfl
@[simp] theorem State.bumpWrap_tru (f : Fld) (n i j : Nat) : (s.bumpWrap f n i j).tru = s.tru := rfl
@[simp] theorem State.bumpWrap_ctp (f : Fld) (n i j : Nat) : (s.bumpWrap f n i j).ctp = s.ctp := rfl
@[simp] theorem State.bumpWrap_sec (f : Fld) (n i j : Nat) : (s.bumpWrap f n i j).sec = s.sec := rfl
@[simp] theorem State.bumpWrap_mgc (f : Fld) (n i j : Nat) : (s.bumpWrap f n i j).mgc = s.mgc := rfl
@[simp] theorem State.bumpWrap_i3c (f : Fld) (n i j : Nat) : (s.bumpWrap f n i j).i3c = s.i3c := rfl
@[simp] theorem State.bumpWrap_tap (f : Fld) (n i j : Nat) : (s.bumpWrap f n i j).tap = s.tap := rfl
@[simp] theorem State.bumpWrap_pins (f : Fld) (n i j : Nat) : (s.bumpWrap f n i j).pins = s.pins := rfl
@[simp] theorem State.bumpWrap_out (f : Fld) (n i j : Nat) : (s.bumpWrap f n i j).out = s.out := rfl
@[simp] theorem State.healthOf_bumpWrap (f : Fld) (n i j : Nat) (n₂ : Nat) : (s.bumpWrap f n i j).healthOf n₂ = s.healthOf n₂ := rfl
@[simp] theorem State.chamber_bumpWrap (f : Fld) (n i j : Nat) (n₂ : Nat) : (s.bumpWrap f n i j).chamber n₂ = s.chamber n₂ := rfl
@[simp] theorem State.strand_bumpWrap (f : Fld) (n i j : Nat) (c₂ t₂ : Nat) : (s.bumpWrap f n i j).strand c₂ t₂ = s.strand c₂ t₂ := rfl
@[simp] theorem State.queue_bumpWrap (f : Fld) (n i j : Nat) (n₂ : Nat) : (s.bumpWrap f n i j).queue n₂ = s.queue n₂ := rfl
@[simp] theorem State.item_bumpWrap (f : Fld) (n i j : Nat) (k₂ : ItemKey) : (s.bumpWrap f n i j).item k₂ = s.item k₂ := rfl
@[simp] theorem State.byte_bumpWrap (f : Fld) (n i j : Nat) (n₂ : Nat) : (s.bumpWrap f n i j).byte n₂ = s.byte n₂ := rfl
@[simp] theorem State.slot_bumpWrap (f : Fld) (n i j : Nat) (n₂ : Nat) : (s.bumpWrap f n i j).slot n₂ = s.slot n₂ := rfl
@[simp] theorem State.domain_bumpWrap (f : Fld) (n i j : Nat) (n₂ : Nat) : (s.bumpWrap f n i j).domain n₂ = s.domain n₂ := rfl
@[simp] theorem State.lane_bumpWrap (f : Fld) (n i j : Nat) (n₂ : Nat) : (s.bumpWrap f n i j).lane n₂ = s.lane n₂ := rfl
@[simp] theorem State.session_bumpWrap (f : Fld) (n i j : Nat) (n₂ : Nat) : (s.bumpWrap f n i j).session n₂ = s.session n₂ := rfl
@[simp] theorem State.seq_bumpWrap (f : Fld) (n i j : Nat) (n₂ m₂ : Nat) : (s.bumpWrap f n i j).seq n₂ m₂ = s.seq n₂ m₂ := rfl

/-! ### `pairSet` writes `regs` -/

@[simp] theorem State.pairSet_pending (lo hi : Fld) (v i j : Nat) : (s.pairSet lo hi v i j).pending = s.pending := by simp only [State.pairSet, State.fset_pending]
@[simp] theorem State.pairSet_now (lo hi : Fld) (v i j : Nat) : (s.pairSet lo hi v i j).now = s.now := by simp only [State.pairSet, State.fset_now]
@[simp] theorem State.pairSet_free (lo hi : Fld) (v i j : Nat) : (s.pairSet lo hi v i j).free = s.free := by simp only [State.pairSet, State.fset_free]
@[simp] theorem State.pairSet_mem (lo hi : Fld) (v i j : Nat) : (s.pairSet lo hi v i j).mem = s.mem := by simp only [State.pairSet, State.fset_mem]
@[simp] theorem State.pairSet_shadows (lo hi : Fld) (v i j : Nat) : (s.pairSet lo hi v i j).shadows = s.shadows := by simp only [State.pairSet, State.fset_shadows]
@[simp] theorem State.pairSet_sels (lo hi : Fld) (v i j : Nat) : (s.pairSet lo hi v i j).sels = s.sels := by simp only [State.pairSet, State.fset_sels]
@[simp] theorem State.pairSet_health (lo hi : Fld) (v i j : Nat) : (s.pairSet lo hi v i j).health = s.health := by simp only [State.pairSet, State.fset_health]
@[simp] theorem State.pairSet_strands (lo hi : Fld) (v i j : Nat) : (s.pairSet lo hi v i j).strands = s.strands := by simp only [State.pairSet, State.fset_strands]
@[simp] theorem State.pairSet_items (lo hi : Fld) (v i j : Nat) : (s.pairSet lo hi v i j).items = s.items := by simp only [State.pairSet, State.fset_items]
@[simp] theorem State.pairSet_queues (lo hi : Fld) (v i j : Nat) : (s.pairSet lo hi v i j).queues = s.queues := by simp only [State.pairSet, State.fset_queues]
@[simp] theorem State.pairSet_graphs (lo hi : Fld) (v i j : Nat) : (s.pairSet lo hi v i j).graphs = s.graphs := by simp only [State.pairSet, State.fset_graphs]
@[simp] theorem State.pairSet_gfeTurn (lo hi : Fld) (v i j : Nat) : (s.pairSet lo hi v i j).gfeTurn = s.gfeTurn := by simp only [State.pairSet, State.fset_gfeTurn]
@[simp] theorem State.pairSet_gfeCmds (lo hi : Fld) (v i j : Nat) : (s.pairSet lo hi v i j).gfeCmds = s.gfeCmds := by simp only [State.pairSet, State.fset_gfeCmds]
@[simp] theorem State.pairSet_cvus (lo hi : Fld) (v i j : Nat) : (s.pairSet lo hi v i j).cvus = s.cvus := by simp only [State.pairSet, State.fset_cvus]
@[simp] theorem State.pairSet_engOps (lo hi : Fld) (v i j : Nat) : (s.pairSet lo hi v i j).engOps = s.engOps := by simp only [State.pairSet, State.fset_engOps]
@[simp] theorem State.pairSet_sr (lo hi : Fld) (v i j : Nat) : (s.pairSet lo hi v i j).sr = s.sr := by simp only [State.pairSet, State.fset_sr]
@[simp] theorem State.pairSet_samples (lo hi : Fld) (v i j : Nat) : (s.pairSet lo hi v i j).samples = s.samples := by simp only [State.pairSet, State.fset_samples]
@[simp] theorem State.pairSet_ms (lo hi : Fld) (v i j : Nat) : (s.pairSet lo hi v i j).ms = s.ms := by simp only [State.pairSet, State.fset_ms]
@[simp] theorem State.pairSet_chambers (lo hi : Fld) (v i j : Nat) : (s.pairSet lo hi v i j).chambers = s.chambers := by simp only [State.pairSet, State.fset_chambers]
@[simp] theorem State.pairSet_slots (lo hi : Fld) (v i j : Nat) : (s.pairSet lo hi v i j).slots = s.slots := by simp only [State.pairSet, State.fset_slots]
@[simp] theorem State.pairSet_svy (lo hi : Fld) (v i j : Nat) : (s.pairSet lo hi v i j).svy = s.svy := by simp only [State.pairSet, State.fset_svy]
@[simp] theorem State.pairSet_fab (lo hi : Fld) (v i j : Nat) : (s.pairSet lo hi v i j).fab = s.fab := by simp only [State.pairSet, State.fset_fab]
@[simp] theorem State.pairSet_kv (lo hi : Fld) (v i j : Nat) : (s.pairSet lo hi v i j).kv = s.kv := by simp only [State.pairSet, State.fset_kv]
@[simp] theorem State.pairSet_rte (lo hi : Fld) (v i j : Nat) : (s.pairSet lo hi v i j).rte = s.rte := by simp only [State.pairSet, State.fset_rte]
@[simp] theorem State.pairSet_hlm (lo hi : Fld) (v i j : Nat) : (s.pairSet lo hi v i j).hlm = s.hlm := by simp only [State.pairSet, State.fset_hlm]
@[simp] theorem State.pairSet_hbc (lo hi : Fld) (v i j : Nat) : (s.pairSet lo hi v i j).hbc = s.hbc := by simp only [State.pairSet, State.fset_hbc]
@[simp] theorem State.pairSet_pwr (lo hi : Fld) (v i j : Nat) : (s.pairSet lo hi v i j).pwr = s.pwr := by simp only [State.pairSet, State.fset_pwr]
@[simp] theorem State.pairSet_utcBase (lo hi : Fld) (v i j : Nat) : (s.pairSet lo hi v i j).utcBase = s.utcBase := by simp only [State.pairSet, State.fset_utcBase]
@[simp] theorem State.pairSet_granules (lo hi : Fld) (v i j : Nat) : (s.pairSet lo hi v i j).granules = s.granules := by simp only [State.pairSet, State.fset_granules]
@[simp] theorem State.pairSet_tb (lo hi : Fld) (v i j : Nat) : (s.pairSet lo hi v i j).tb = s.tb := by simp only [State.pairSet, State.fset_tb]
@[simp] theorem State.pairSet_tbc (lo hi : Fld) (v i j : Nat) : (s.pairSet lo hi v i j).tbc = s.tbc := by simp only [State.pairSet, State.fset_tbc]
@[simp] theorem State.pairSet_tru (lo hi : Fld) (v i j : Nat) : (s.pairSet lo hi v i j).tru = s.tru := by simp only [State.pairSet, State.fset_tru]
@[simp] theorem State.pairSet_ctp (lo hi : Fld) (v i j : Nat) : (s.pairSet lo hi v i j).ctp = s.ctp := by simp only [State.pairSet, State.fset_ctp]
@[simp] theorem State.pairSet_sec (lo hi : Fld) (v i j : Nat) : (s.pairSet lo hi v i j).sec = s.sec := by simp only [State.pairSet, State.fset_sec]
@[simp] theorem State.pairSet_mgc (lo hi : Fld) (v i j : Nat) : (s.pairSet lo hi v i j).mgc = s.mgc := by simp only [State.pairSet, State.fset_mgc]
@[simp] theorem State.pairSet_i3c (lo hi : Fld) (v i j : Nat) : (s.pairSet lo hi v i j).i3c = s.i3c := by simp only [State.pairSet, State.fset_i3c]
@[simp] theorem State.pairSet_tap (lo hi : Fld) (v i j : Nat) : (s.pairSet lo hi v i j).tap = s.tap := by simp only [State.pairSet, State.fset_tap]
@[simp] theorem State.pairSet_pins (lo hi : Fld) (v i j : Nat) : (s.pairSet lo hi v i j).pins = s.pins := by simp only [State.pairSet, State.fset_pins]
@[simp] theorem State.pairSet_out (lo hi : Fld) (v i j : Nat) : (s.pairSet lo hi v i j).out = s.out := by simp only [State.pairSet, State.fset_out]
@[simp] theorem State.healthOf_pairSet (lo hi : Fld) (v i j : Nat) (n₂ : Nat) : (s.pairSet lo hi v i j).healthOf n₂ = s.healthOf n₂ := by simp only [State.pairSet, State.healthOf_fset]
@[simp] theorem State.chamber_pairSet (lo hi : Fld) (v i j : Nat) (n₂ : Nat) : (s.pairSet lo hi v i j).chamber n₂ = s.chamber n₂ := by simp only [State.pairSet, State.chamber_fset]
@[simp] theorem State.strand_pairSet (lo hi : Fld) (v i j : Nat) (c₂ t₂ : Nat) : (s.pairSet lo hi v i j).strand c₂ t₂ = s.strand c₂ t₂ := by simp only [State.pairSet, State.strand_fset]
@[simp] theorem State.queue_pairSet (lo hi : Fld) (v i j : Nat) (n₂ : Nat) : (s.pairSet lo hi v i j).queue n₂ = s.queue n₂ := by simp only [State.pairSet, State.queue_fset]
@[simp] theorem State.item_pairSet (lo hi : Fld) (v i j : Nat) (k₂ : ItemKey) : (s.pairSet lo hi v i j).item k₂ = s.item k₂ := by simp only [State.pairSet, State.item_fset]
@[simp] theorem State.byte_pairSet (lo hi : Fld) (v i j : Nat) (n₂ : Nat) : (s.pairSet lo hi v i j).byte n₂ = s.byte n₂ := by simp only [State.pairSet, State.byte_fset]
@[simp] theorem State.slot_pairSet (lo hi : Fld) (v i j : Nat) (n₂ : Nat) : (s.pairSet lo hi v i j).slot n₂ = s.slot n₂ := by simp only [State.pairSet, State.slot_fset]
@[simp] theorem State.domain_pairSet (lo hi : Fld) (v i j : Nat) (n₂ : Nat) : (s.pairSet lo hi v i j).domain n₂ = s.domain n₂ := by simp only [State.pairSet, State.domain_fset]
@[simp] theorem State.lane_pairSet (lo hi : Fld) (v i j : Nat) (n₂ : Nat) : (s.pairSet lo hi v i j).lane n₂ = s.lane n₂ := by simp only [State.pairSet, State.lane_fset]
@[simp] theorem State.session_pairSet (lo hi : Fld) (v i j : Nat) (n₂ : Nat) : (s.pairSet lo hi v i j).session n₂ = s.session n₂ := by simp only [State.pairSet, State.session_fset]
@[simp] theorem State.seq_pairSet (lo hi : Fld) (v i j : Nat) (n₂ m₂ : Nat) : (s.pairSet lo hi v i j).seq n₂ m₂ = s.seq n₂ m₂ := by simp only [State.pairSet, State.seq_fset]

/-! ### `bump64` writes `regs` -/

@[simp] theorem State.bump64_pending (lo hi : Fld) (n i j : Nat) : (s.bump64 lo hi n i j).pending = s.pending := by simp only [State.bump64, State.pairSet_pending]
@[simp] theorem State.bump64_now (lo hi : Fld) (n i j : Nat) : (s.bump64 lo hi n i j).now = s.now := by simp only [State.bump64, State.pairSet_now]
@[simp] theorem State.bump64_free (lo hi : Fld) (n i j : Nat) : (s.bump64 lo hi n i j).free = s.free := by simp only [State.bump64, State.pairSet_free]
@[simp] theorem State.bump64_mem (lo hi : Fld) (n i j : Nat) : (s.bump64 lo hi n i j).mem = s.mem := by simp only [State.bump64, State.pairSet_mem]
@[simp] theorem State.bump64_shadows (lo hi : Fld) (n i j : Nat) : (s.bump64 lo hi n i j).shadows = s.shadows := by simp only [State.bump64, State.pairSet_shadows]
@[simp] theorem State.bump64_sels (lo hi : Fld) (n i j : Nat) : (s.bump64 lo hi n i j).sels = s.sels := by simp only [State.bump64, State.pairSet_sels]
@[simp] theorem State.bump64_health (lo hi : Fld) (n i j : Nat) : (s.bump64 lo hi n i j).health = s.health := by simp only [State.bump64, State.pairSet_health]
@[simp] theorem State.bump64_strands (lo hi : Fld) (n i j : Nat) : (s.bump64 lo hi n i j).strands = s.strands := by simp only [State.bump64, State.pairSet_strands]
@[simp] theorem State.bump64_items (lo hi : Fld) (n i j : Nat) : (s.bump64 lo hi n i j).items = s.items := by simp only [State.bump64, State.pairSet_items]
@[simp] theorem State.bump64_queues (lo hi : Fld) (n i j : Nat) : (s.bump64 lo hi n i j).queues = s.queues := by simp only [State.bump64, State.pairSet_queues]
@[simp] theorem State.bump64_graphs (lo hi : Fld) (n i j : Nat) : (s.bump64 lo hi n i j).graphs = s.graphs := by simp only [State.bump64, State.pairSet_graphs]
@[simp] theorem State.bump64_gfeTurn (lo hi : Fld) (n i j : Nat) : (s.bump64 lo hi n i j).gfeTurn = s.gfeTurn := by simp only [State.bump64, State.pairSet_gfeTurn]
@[simp] theorem State.bump64_gfeCmds (lo hi : Fld) (n i j : Nat) : (s.bump64 lo hi n i j).gfeCmds = s.gfeCmds := by simp only [State.bump64, State.pairSet_gfeCmds]
@[simp] theorem State.bump64_cvus (lo hi : Fld) (n i j : Nat) : (s.bump64 lo hi n i j).cvus = s.cvus := by simp only [State.bump64, State.pairSet_cvus]
@[simp] theorem State.bump64_engOps (lo hi : Fld) (n i j : Nat) : (s.bump64 lo hi n i j).engOps = s.engOps := by simp only [State.bump64, State.pairSet_engOps]
@[simp] theorem State.bump64_sr (lo hi : Fld) (n i j : Nat) : (s.bump64 lo hi n i j).sr = s.sr := by simp only [State.bump64, State.pairSet_sr]
@[simp] theorem State.bump64_samples (lo hi : Fld) (n i j : Nat) : (s.bump64 lo hi n i j).samples = s.samples := by simp only [State.bump64, State.pairSet_samples]
@[simp] theorem State.bump64_ms (lo hi : Fld) (n i j : Nat) : (s.bump64 lo hi n i j).ms = s.ms := by simp only [State.bump64, State.pairSet_ms]
@[simp] theorem State.bump64_chambers (lo hi : Fld) (n i j : Nat) : (s.bump64 lo hi n i j).chambers = s.chambers := by simp only [State.bump64, State.pairSet_chambers]
@[simp] theorem State.bump64_slots (lo hi : Fld) (n i j : Nat) : (s.bump64 lo hi n i j).slots = s.slots := by simp only [State.bump64, State.pairSet_slots]
@[simp] theorem State.bump64_svy (lo hi : Fld) (n i j : Nat) : (s.bump64 lo hi n i j).svy = s.svy := by simp only [State.bump64, State.pairSet_svy]
@[simp] theorem State.bump64_fab (lo hi : Fld) (n i j : Nat) : (s.bump64 lo hi n i j).fab = s.fab := by simp only [State.bump64, State.pairSet_fab]
@[simp] theorem State.bump64_kv (lo hi : Fld) (n i j : Nat) : (s.bump64 lo hi n i j).kv = s.kv := by simp only [State.bump64, State.pairSet_kv]
@[simp] theorem State.bump64_rte (lo hi : Fld) (n i j : Nat) : (s.bump64 lo hi n i j).rte = s.rte := by simp only [State.bump64, State.pairSet_rte]
@[simp] theorem State.bump64_hlm (lo hi : Fld) (n i j : Nat) : (s.bump64 lo hi n i j).hlm = s.hlm := by simp only [State.bump64, State.pairSet_hlm]
@[simp] theorem State.bump64_hbc (lo hi : Fld) (n i j : Nat) : (s.bump64 lo hi n i j).hbc = s.hbc := by simp only [State.bump64, State.pairSet_hbc]
@[simp] theorem State.bump64_pwr (lo hi : Fld) (n i j : Nat) : (s.bump64 lo hi n i j).pwr = s.pwr := by simp only [State.bump64, State.pairSet_pwr]
@[simp] theorem State.bump64_utcBase (lo hi : Fld) (n i j : Nat) : (s.bump64 lo hi n i j).utcBase = s.utcBase := by simp only [State.bump64, State.pairSet_utcBase]
@[simp] theorem State.bump64_granules (lo hi : Fld) (n i j : Nat) : (s.bump64 lo hi n i j).granules = s.granules := by simp only [State.bump64, State.pairSet_granules]
@[simp] theorem State.bump64_tb (lo hi : Fld) (n i j : Nat) : (s.bump64 lo hi n i j).tb = s.tb := by simp only [State.bump64, State.pairSet_tb]
@[simp] theorem State.bump64_tbc (lo hi : Fld) (n i j : Nat) : (s.bump64 lo hi n i j).tbc = s.tbc := by simp only [State.bump64, State.pairSet_tbc]
@[simp] theorem State.bump64_tru (lo hi : Fld) (n i j : Nat) : (s.bump64 lo hi n i j).tru = s.tru := by simp only [State.bump64, State.pairSet_tru]
@[simp] theorem State.bump64_ctp (lo hi : Fld) (n i j : Nat) : (s.bump64 lo hi n i j).ctp = s.ctp := by simp only [State.bump64, State.pairSet_ctp]
@[simp] theorem State.bump64_sec (lo hi : Fld) (n i j : Nat) : (s.bump64 lo hi n i j).sec = s.sec := by simp only [State.bump64, State.pairSet_sec]
@[simp] theorem State.bump64_mgc (lo hi : Fld) (n i j : Nat) : (s.bump64 lo hi n i j).mgc = s.mgc := by simp only [State.bump64, State.pairSet_mgc]
@[simp] theorem State.bump64_i3c (lo hi : Fld) (n i j : Nat) : (s.bump64 lo hi n i j).i3c = s.i3c := by simp only [State.bump64, State.pairSet_i3c]
@[simp] theorem State.bump64_tap (lo hi : Fld) (n i j : Nat) : (s.bump64 lo hi n i j).tap = s.tap := by simp only [State.bump64, State.pairSet_tap]
@[simp] theorem State.bump64_pins (lo hi : Fld) (n i j : Nat) : (s.bump64 lo hi n i j).pins = s.pins := by simp only [State.bump64, State.pairSet_pins]
@[simp] theorem State.bump64_out (lo hi : Fld) (n i j : Nat) : (s.bump64 lo hi n i j).out = s.out := by simp only [State.bump64, State.pairSet_out]
@[simp] theorem State.healthOf_bump64 (lo hi : Fld) (n i j : Nat) (n₂ : Nat) : (s.bump64 lo hi n i j).healthOf n₂ = s.healthOf n₂ := by simp only [State.bump64, State.healthOf_pairSet]
@[simp] theorem State.chamber_bump64 (lo hi : Fld) (n i j : Nat) (n₂ : Nat) : (s.bump64 lo hi n i j).chamber n₂ = s.chamber n₂ := by simp only [State.bump64, State.chamber_pairSet]
@[simp] theorem State.strand_bump64 (lo hi : Fld) (n i j : Nat) (c₂ t₂ : Nat) : (s.bump64 lo hi n i j).strand c₂ t₂ = s.strand c₂ t₂ := by simp only [State.bump64, State.strand_pairSet]
@[simp] theorem State.queue_bump64 (lo hi : Fld) (n i j : Nat) (n₂ : Nat) : (s.bump64 lo hi n i j).queue n₂ = s.queue n₂ := by simp only [State.bump64, State.queue_pairSet]
@[simp] theorem State.item_bump64 (lo hi : Fld) (n i j : Nat) (k₂ : ItemKey) : (s.bump64 lo hi n i j).item k₂ = s.item k₂ := by simp only [State.bump64, State.item_pairSet]
@[simp] theorem State.byte_bump64 (lo hi : Fld) (n i j : Nat) (n₂ : Nat) : (s.bump64 lo hi n i j).byte n₂ = s.byte n₂ := by simp only [State.bump64, State.byte_pairSet]
@[simp] theorem State.slot_bump64 (lo hi : Fld) (n i j : Nat) (n₂ : Nat) : (s.bump64 lo hi n i j).slot n₂ = s.slot n₂ := by simp only [State.bump64, State.slot_pairSet]
@[simp] theorem State.domain_bump64 (lo hi : Fld) (n i j : Nat) (n₂ : Nat) : (s.bump64 lo hi n i j).domain n₂ = s.domain n₂ := by simp only [State.bump64, State.domain_pairSet]
@[simp] theorem State.lane_bump64 (lo hi : Fld) (n i j : Nat) (n₂ : Nat) : (s.bump64 lo hi n i j).lane n₂ = s.lane n₂ := by simp only [State.bump64, State.lane_pairSet]
@[simp] theorem State.session_bump64 (lo hi : Fld) (n i j : Nat) (n₂ : Nat) : (s.bump64 lo hi n i j).session n₂ = s.session n₂ := by simp only [State.bump64, State.session_pairSet]
@[simp] theorem State.seq_bump64 (lo hi : Fld) (n i j : Nat) (n₂ m₂ : Nat) : (s.bump64 lo hi n i j).seq n₂ m₂ = s.seq n₂ m₂ := by simp only [State.bump64, State.seq_pairSet]

/-! ### `resetRange` writes `regs` -/

@[simp] theorem State.resetRange_pending (lo hi : Nat) : (s.resetRange lo hi).pending = s.pending := rfl
@[simp] theorem State.resetRange_now (lo hi : Nat) : (s.resetRange lo hi).now = s.now := rfl
@[simp] theorem State.resetRange_free (lo hi : Nat) : (s.resetRange lo hi).free = s.free := rfl
@[simp] theorem State.resetRange_mem (lo hi : Nat) : (s.resetRange lo hi).mem = s.mem := rfl
@[simp] theorem State.resetRange_shadows (lo hi : Nat) : (s.resetRange lo hi).shadows = s.shadows := rfl
@[simp] theorem State.resetRange_sels (lo hi : Nat) : (s.resetRange lo hi).sels = s.sels := rfl
@[simp] theorem State.resetRange_health (lo hi : Nat) : (s.resetRange lo hi).health = s.health := rfl
@[simp] theorem State.resetRange_strands (lo hi : Nat) : (s.resetRange lo hi).strands = s.strands := rfl
@[simp] theorem State.resetRange_items (lo hi : Nat) : (s.resetRange lo hi).items = s.items := rfl
@[simp] theorem State.resetRange_queues (lo hi : Nat) : (s.resetRange lo hi).queues = s.queues := rfl
@[simp] theorem State.resetRange_graphs (lo hi : Nat) : (s.resetRange lo hi).graphs = s.graphs := rfl
@[simp] theorem State.resetRange_gfeTurn (lo hi : Nat) : (s.resetRange lo hi).gfeTurn = s.gfeTurn := rfl
@[simp] theorem State.resetRange_gfeCmds (lo hi : Nat) : (s.resetRange lo hi).gfeCmds = s.gfeCmds := rfl
@[simp] theorem State.resetRange_cvus (lo hi : Nat) : (s.resetRange lo hi).cvus = s.cvus := rfl
@[simp] theorem State.resetRange_engOps (lo hi : Nat) : (s.resetRange lo hi).engOps = s.engOps := rfl
@[simp] theorem State.resetRange_sr (lo hi : Nat) : (s.resetRange lo hi).sr = s.sr := rfl
@[simp] theorem State.resetRange_samples (lo hi : Nat) : (s.resetRange lo hi).samples = s.samples := rfl
@[simp] theorem State.resetRange_ms (lo hi : Nat) : (s.resetRange lo hi).ms = s.ms := rfl
@[simp] theorem State.resetRange_chambers (lo hi : Nat) : (s.resetRange lo hi).chambers = s.chambers := rfl
@[simp] theorem State.resetRange_slots (lo hi : Nat) : (s.resetRange lo hi).slots = s.slots := rfl
@[simp] theorem State.resetRange_svy (lo hi : Nat) : (s.resetRange lo hi).svy = s.svy := rfl
@[simp] theorem State.resetRange_fab (lo hi : Nat) : (s.resetRange lo hi).fab = s.fab := rfl
@[simp] theorem State.resetRange_kv (lo hi : Nat) : (s.resetRange lo hi).kv = s.kv := rfl
@[simp] theorem State.resetRange_rte (lo hi : Nat) : (s.resetRange lo hi).rte = s.rte := rfl
@[simp] theorem State.resetRange_hlm (lo hi : Nat) : (s.resetRange lo hi).hlm = s.hlm := rfl
@[simp] theorem State.resetRange_hbc (lo hi : Nat) : (s.resetRange lo hi).hbc = s.hbc := rfl
@[simp] theorem State.resetRange_pwr (lo hi : Nat) : (s.resetRange lo hi).pwr = s.pwr := rfl
@[simp] theorem State.resetRange_utcBase (lo hi : Nat) : (s.resetRange lo hi).utcBase = s.utcBase := rfl
@[simp] theorem State.resetRange_granules (lo hi : Nat) : (s.resetRange lo hi).granules = s.granules := rfl
@[simp] theorem State.resetRange_tb (lo hi : Nat) : (s.resetRange lo hi).tb = s.tb := rfl
@[simp] theorem State.resetRange_tbc (lo hi : Nat) : (s.resetRange lo hi).tbc = s.tbc := rfl
@[simp] theorem State.resetRange_tru (lo hi : Nat) : (s.resetRange lo hi).tru = s.tru := rfl
@[simp] theorem State.resetRange_ctp (lo hi : Nat) : (s.resetRange lo hi).ctp = s.ctp := rfl
@[simp] theorem State.resetRange_sec (lo hi : Nat) : (s.resetRange lo hi).sec = s.sec := rfl
@[simp] theorem State.resetRange_mgc (lo hi : Nat) : (s.resetRange lo hi).mgc = s.mgc := rfl
@[simp] theorem State.resetRange_i3c (lo hi : Nat) : (s.resetRange lo hi).i3c = s.i3c := rfl
@[simp] theorem State.resetRange_tap (lo hi : Nat) : (s.resetRange lo hi).tap = s.tap := rfl
@[simp] theorem State.resetRange_pins (lo hi : Nat) : (s.resetRange lo hi).pins = s.pins := rfl
@[simp] theorem State.resetRange_out (lo hi : Nat) : (s.resetRange lo hi).out = s.out := rfl
@[simp] theorem State.healthOf_resetRange (lo hi : Nat) (n₂ : Nat) : (s.resetRange lo hi).healthOf n₂ = s.healthOf n₂ := rfl
@[simp] theorem State.chamber_resetRange (lo hi : Nat) (n₂ : Nat) : (s.resetRange lo hi).chamber n₂ = s.chamber n₂ := rfl
@[simp] theorem State.strand_resetRange (lo hi : Nat) (c₂ t₂ : Nat) : (s.resetRange lo hi).strand c₂ t₂ = s.strand c₂ t₂ := rfl
@[simp] theorem State.queue_resetRange (lo hi : Nat) (n₂ : Nat) : (s.resetRange lo hi).queue n₂ = s.queue n₂ := rfl
@[simp] theorem State.item_resetRange (lo hi : Nat) (k₂ : ItemKey) : (s.resetRange lo hi).item k₂ = s.item k₂ := rfl
@[simp] theorem State.byte_resetRange (lo hi : Nat) (n₂ : Nat) : (s.resetRange lo hi).byte n₂ = s.byte n₂ := rfl
@[simp] theorem State.slot_resetRange (lo hi : Nat) (n₂ : Nat) : (s.resetRange lo hi).slot n₂ = s.slot n₂ := rfl
@[simp] theorem State.domain_resetRange (lo hi : Nat) (n₂ : Nat) : (s.resetRange lo hi).domain n₂ = s.domain n₂ := rfl
@[simp] theorem State.lane_resetRange (lo hi : Nat) (n₂ : Nat) : (s.resetRange lo hi).lane n₂ = s.lane n₂ := rfl
@[simp] theorem State.session_resetRange (lo hi : Nat) (n₂ : Nat) : (s.resetRange lo hi).session n₂ = s.session n₂ := rfl
@[simp] theorem State.seq_resetRange (lo hi : Nat) (n₂ m₂ : Nat) : (s.resetRange lo hi).seq n₂ m₂ = s.seq n₂ m₂ := rfl

/-! ### `setSel` writes `sels` -/

@[simp] theorem State.setSel_pending (r : Requester) (a : Nat) (w : Word) : (s.setSel r a w).pending = s.pending := rfl
@[simp] theorem State.setSel_now (r : Requester) (a : Nat) (w : Word) : (s.setSel r a w).now = s.now := rfl
@[simp] theorem State.setSel_free (r : Requester) (a : Nat) (w : Word) : (s.setSel r a w).free = s.free := rfl
@[simp] theorem State.setSel_mem (r : Requester) (a : Nat) (w : Word) : (s.setSel r a w).mem = s.mem := rfl
@[simp] theorem State.setSel_regs (r : Requester) (a : Nat) (w : Word) : (s.setSel r a w).regs = s.regs := rfl
@[simp] theorem State.setSel_shadows (r : Requester) (a : Nat) (w : Word) : (s.setSel r a w).shadows = s.shadows := rfl
@[simp] theorem State.setSel_health (r : Requester) (a : Nat) (w : Word) : (s.setSel r a w).health = s.health := rfl
@[simp] theorem State.setSel_strands (r : Requester) (a : Nat) (w : Word) : (s.setSel r a w).strands = s.strands := rfl
@[simp] theorem State.setSel_items (r : Requester) (a : Nat) (w : Word) : (s.setSel r a w).items = s.items := rfl
@[simp] theorem State.setSel_queues (r : Requester) (a : Nat) (w : Word) : (s.setSel r a w).queues = s.queues := rfl
@[simp] theorem State.setSel_graphs (r : Requester) (a : Nat) (w : Word) : (s.setSel r a w).graphs = s.graphs := rfl
@[simp] theorem State.setSel_gfeTurn (r : Requester) (a : Nat) (w : Word) : (s.setSel r a w).gfeTurn = s.gfeTurn := rfl
@[simp] theorem State.setSel_gfeCmds (r : Requester) (a : Nat) (w : Word) : (s.setSel r a w).gfeCmds = s.gfeCmds := rfl
@[simp] theorem State.setSel_cvus (r : Requester) (a : Nat) (w : Word) : (s.setSel r a w).cvus = s.cvus := rfl
@[simp] theorem State.setSel_engOps (r : Requester) (a : Nat) (w : Word) : (s.setSel r a w).engOps = s.engOps := rfl
@[simp] theorem State.setSel_sr (r : Requester) (a : Nat) (w : Word) : (s.setSel r a w).sr = s.sr := rfl
@[simp] theorem State.setSel_samples (r : Requester) (a : Nat) (w : Word) : (s.setSel r a w).samples = s.samples := rfl
@[simp] theorem State.setSel_ms (r : Requester) (a : Nat) (w : Word) : (s.setSel r a w).ms = s.ms := rfl
@[simp] theorem State.setSel_chambers (r : Requester) (a : Nat) (w : Word) : (s.setSel r a w).chambers = s.chambers := rfl
@[simp] theorem State.setSel_slots (r : Requester) (a : Nat) (w : Word) : (s.setSel r a w).slots = s.slots := rfl
@[simp] theorem State.setSel_svy (r : Requester) (a : Nat) (w : Word) : (s.setSel r a w).svy = s.svy := rfl
@[simp] theorem State.setSel_fab (r : Requester) (a : Nat) (w : Word) : (s.setSel r a w).fab = s.fab := rfl
@[simp] theorem State.setSel_kv (r : Requester) (a : Nat) (w : Word) : (s.setSel r a w).kv = s.kv := rfl
@[simp] theorem State.setSel_rte (r : Requester) (a : Nat) (w : Word) : (s.setSel r a w).rte = s.rte := rfl
@[simp] theorem State.setSel_hlm (r : Requester) (a : Nat) (w : Word) : (s.setSel r a w).hlm = s.hlm := rfl
@[simp] theorem State.setSel_hbc (r : Requester) (a : Nat) (w : Word) : (s.setSel r a w).hbc = s.hbc := rfl
@[simp] theorem State.setSel_pwr (r : Requester) (a : Nat) (w : Word) : (s.setSel r a w).pwr = s.pwr := rfl
@[simp] theorem State.setSel_utcBase (r : Requester) (a : Nat) (w : Word) : (s.setSel r a w).utcBase = s.utcBase := rfl
@[simp] theorem State.setSel_granules (r : Requester) (a : Nat) (w : Word) : (s.setSel r a w).granules = s.granules := rfl
@[simp] theorem State.setSel_tb (r : Requester) (a : Nat) (w : Word) : (s.setSel r a w).tb = s.tb := rfl
@[simp] theorem State.setSel_tbc (r : Requester) (a : Nat) (w : Word) : (s.setSel r a w).tbc = s.tbc := rfl
@[simp] theorem State.setSel_tru (r : Requester) (a : Nat) (w : Word) : (s.setSel r a w).tru = s.tru := rfl
@[simp] theorem State.setSel_ctp (r : Requester) (a : Nat) (w : Word) : (s.setSel r a w).ctp = s.ctp := rfl
@[simp] theorem State.setSel_sec (r : Requester) (a : Nat) (w : Word) : (s.setSel r a w).sec = s.sec := rfl
@[simp] theorem State.setSel_mgc (r : Requester) (a : Nat) (w : Word) : (s.setSel r a w).mgc = s.mgc := rfl
@[simp] theorem State.setSel_i3c (r : Requester) (a : Nat) (w : Word) : (s.setSel r a w).i3c = s.i3c := rfl
@[simp] theorem State.setSel_tap (r : Requester) (a : Nat) (w : Word) : (s.setSel r a w).tap = s.tap := rfl
@[simp] theorem State.setSel_pins (r : Requester) (a : Nat) (w : Word) : (s.setSel r a w).pins = s.pins := rfl
@[simp] theorem State.setSel_out (r : Requester) (a : Nat) (w : Word) : (s.setSel r a w).out = s.out := rfl
@[simp] theorem State.rget_setSel (r : Requester) (a : Nat) (w : Word) (n₂ : Nat) : (s.setSel r a w).rget n₂ = s.rget n₂ := rfl
@[simp] theorem State.fget_setSel (r : Requester) (a : Nat) (w : Word) (g₂ : Fld) (i₂ j₂ : Nat) : (s.setSel r a w).fget g₂ i₂ j₂ = s.fget g₂ i₂ j₂ := rfl
@[simp] theorem State.healthOf_setSel (r : Requester) (a : Nat) (w : Word) (n₂ : Nat) : (s.setSel r a w).healthOf n₂ = s.healthOf n₂ := rfl
@[simp] theorem State.chamber_setSel (r : Requester) (a : Nat) (w : Word) (n₂ : Nat) : (s.setSel r a w).chamber n₂ = s.chamber n₂ := rfl
@[simp] theorem State.strand_setSel (r : Requester) (a : Nat) (w : Word) (c₂ t₂ : Nat) : (s.setSel r a w).strand c₂ t₂ = s.strand c₂ t₂ := rfl
@[simp] theorem State.queue_setSel (r : Requester) (a : Nat) (w : Word) (n₂ : Nat) : (s.setSel r a w).queue n₂ = s.queue n₂ := rfl
@[simp] theorem State.item_setSel (r : Requester) (a : Nat) (w : Word) (k₂ : ItemKey) : (s.setSel r a w).item k₂ = s.item k₂ := rfl
@[simp] theorem State.byte_setSel (r : Requester) (a : Nat) (w : Word) (n₂ : Nat) : (s.setSel r a w).byte n₂ = s.byte n₂ := rfl
@[simp] theorem State.slot_setSel (r : Requester) (a : Nat) (w : Word) (n₂ : Nat) : (s.setSel r a w).slot n₂ = s.slot n₂ := rfl
@[simp] theorem State.domain_setSel (r : Requester) (a : Nat) (w : Word) (n₂ : Nat) : (s.setSel r a w).domain n₂ = s.domain n₂ := rfl
@[simp] theorem State.lane_setSel (r : Requester) (a : Nat) (w : Word) (n₂ : Nat) : (s.setSel r a w).lane n₂ = s.lane n₂ := rfl
@[simp] theorem State.session_setSel (r : Requester) (a : Nat) (w : Word) (n₂ : Nat) : (s.setSel r a w).session n₂ = s.session n₂ := rfl
@[simp] theorem State.seq_setSel (r : Requester) (a : Nat) (w : Word) (n₂ m₂ : Nat) : (s.setSel r a w).seq n₂ m₂ = s.seq n₂ m₂ := rfl

/-! ### `emit` writes `out` -/

@[simp] theorem State.emit_pending (e : OutEvent) : (s.emit e).pending = s.pending := rfl
@[simp] theorem State.emit_now (e : OutEvent) : (s.emit e).now = s.now := rfl
@[simp] theorem State.emit_free (e : OutEvent) : (s.emit e).free = s.free := rfl
@[simp] theorem State.emit_mem (e : OutEvent) : (s.emit e).mem = s.mem := rfl
@[simp] theorem State.emit_regs (e : OutEvent) : (s.emit e).regs = s.regs := rfl
@[simp] theorem State.emit_shadows (e : OutEvent) : (s.emit e).shadows = s.shadows := rfl
@[simp] theorem State.emit_sels (e : OutEvent) : (s.emit e).sels = s.sels := rfl
@[simp] theorem State.emit_health (e : OutEvent) : (s.emit e).health = s.health := rfl
@[simp] theorem State.emit_strands (e : OutEvent) : (s.emit e).strands = s.strands := rfl
@[simp] theorem State.emit_items (e : OutEvent) : (s.emit e).items = s.items := rfl
@[simp] theorem State.emit_queues (e : OutEvent) : (s.emit e).queues = s.queues := rfl
@[simp] theorem State.emit_graphs (e : OutEvent) : (s.emit e).graphs = s.graphs := rfl
@[simp] theorem State.emit_gfeTurn (e : OutEvent) : (s.emit e).gfeTurn = s.gfeTurn := rfl
@[simp] theorem State.emit_gfeCmds (e : OutEvent) : (s.emit e).gfeCmds = s.gfeCmds := rfl
@[simp] theorem State.emit_cvus (e : OutEvent) : (s.emit e).cvus = s.cvus := rfl
@[simp] theorem State.emit_engOps (e : OutEvent) : (s.emit e).engOps = s.engOps := rfl
@[simp] theorem State.emit_sr (e : OutEvent) : (s.emit e).sr = s.sr := rfl
@[simp] theorem State.emit_samples (e : OutEvent) : (s.emit e).samples = s.samples := rfl
@[simp] theorem State.emit_ms (e : OutEvent) : (s.emit e).ms = s.ms := rfl
@[simp] theorem State.emit_chambers (e : OutEvent) : (s.emit e).chambers = s.chambers := rfl
@[simp] theorem State.emit_slots (e : OutEvent) : (s.emit e).slots = s.slots := rfl
@[simp] theorem State.emit_svy (e : OutEvent) : (s.emit e).svy = s.svy := rfl
@[simp] theorem State.emit_fab (e : OutEvent) : (s.emit e).fab = s.fab := rfl
@[simp] theorem State.emit_kv (e : OutEvent) : (s.emit e).kv = s.kv := rfl
@[simp] theorem State.emit_rte (e : OutEvent) : (s.emit e).rte = s.rte := rfl
@[simp] theorem State.emit_hlm (e : OutEvent) : (s.emit e).hlm = s.hlm := rfl
@[simp] theorem State.emit_hbc (e : OutEvent) : (s.emit e).hbc = s.hbc := rfl
@[simp] theorem State.emit_pwr (e : OutEvent) : (s.emit e).pwr = s.pwr := rfl
@[simp] theorem State.emit_utcBase (e : OutEvent) : (s.emit e).utcBase = s.utcBase := rfl
@[simp] theorem State.emit_granules (e : OutEvent) : (s.emit e).granules = s.granules := rfl
@[simp] theorem State.emit_tb (e : OutEvent) : (s.emit e).tb = s.tb := rfl
@[simp] theorem State.emit_tbc (e : OutEvent) : (s.emit e).tbc = s.tbc := rfl
@[simp] theorem State.emit_tru (e : OutEvent) : (s.emit e).tru = s.tru := rfl
@[simp] theorem State.emit_ctp (e : OutEvent) : (s.emit e).ctp = s.ctp := rfl
@[simp] theorem State.emit_sec (e : OutEvent) : (s.emit e).sec = s.sec := rfl
@[simp] theorem State.emit_mgc (e : OutEvent) : (s.emit e).mgc = s.mgc := rfl
@[simp] theorem State.emit_i3c (e : OutEvent) : (s.emit e).i3c = s.i3c := rfl
@[simp] theorem State.emit_tap (e : OutEvent) : (s.emit e).tap = s.tap := rfl
@[simp] theorem State.emit_pins (e : OutEvent) : (s.emit e).pins = s.pins := rfl
@[simp] theorem State.rget_emit (e : OutEvent) (n₂ : Nat) : (s.emit e).rget n₂ = s.rget n₂ := rfl
@[simp] theorem State.fget_emit (e : OutEvent) (g₂ : Fld) (i₂ j₂ : Nat) : (s.emit e).fget g₂ i₂ j₂ = s.fget g₂ i₂ j₂ := rfl
@[simp] theorem State.healthOf_emit (e : OutEvent) (n₂ : Nat) : (s.emit e).healthOf n₂ = s.healthOf n₂ := rfl
@[simp] theorem State.chamber_emit (e : OutEvent) (n₂ : Nat) : (s.emit e).chamber n₂ = s.chamber n₂ := rfl
@[simp] theorem State.strand_emit (e : OutEvent) (c₂ t₂ : Nat) : (s.emit e).strand c₂ t₂ = s.strand c₂ t₂ := rfl
@[simp] theorem State.queue_emit (e : OutEvent) (n₂ : Nat) : (s.emit e).queue n₂ = s.queue n₂ := rfl
@[simp] theorem State.item_emit (e : OutEvent) (k₂ : ItemKey) : (s.emit e).item k₂ = s.item k₂ := rfl
@[simp] theorem State.byte_emit (e : OutEvent) (n₂ : Nat) : (s.emit e).byte n₂ = s.byte n₂ := rfl
@[simp] theorem State.slot_emit (e : OutEvent) (n₂ : Nat) : (s.emit e).slot n₂ = s.slot n₂ := rfl
@[simp] theorem State.domain_emit (e : OutEvent) (n₂ : Nat) : (s.emit e).domain n₂ = s.domain n₂ := rfl
@[simp] theorem State.lane_emit (e : OutEvent) (n₂ : Nat) : (s.emit e).lane n₂ = s.lane n₂ := rfl
@[simp] theorem State.session_emit (e : OutEvent) (n₂ : Nat) : (s.emit e).session n₂ = s.session n₂ := rfl
@[simp] theorem State.seq_emit (e : OutEvent) (n₂ m₂ : Nat) : (s.emit e).seq n₂ m₂ = s.seq n₂ m₂ := rfl

/-! ### `setStrand` writes `strands` -/

@[simp] theorem State.setStrand_pending (c t : Nat) (x : Strand) : (s.setStrand c t x).pending = s.pending := rfl
@[simp] theorem State.setStrand_now (c t : Nat) (x : Strand) : (s.setStrand c t x).now = s.now := rfl
@[simp] theorem State.setStrand_free (c t : Nat) (x : Strand) : (s.setStrand c t x).free = s.free := rfl
@[simp] theorem State.setStrand_mem (c t : Nat) (x : Strand) : (s.setStrand c t x).mem = s.mem := rfl
@[simp] theorem State.setStrand_regs (c t : Nat) (x : Strand) : (s.setStrand c t x).regs = s.regs := rfl
@[simp] theorem State.setStrand_shadows (c t : Nat) (x : Strand) : (s.setStrand c t x).shadows = s.shadows := rfl
@[simp] theorem State.setStrand_sels (c t : Nat) (x : Strand) : (s.setStrand c t x).sels = s.sels := rfl
@[simp] theorem State.setStrand_health (c t : Nat) (x : Strand) : (s.setStrand c t x).health = s.health := rfl
@[simp] theorem State.setStrand_items (c t : Nat) (x : Strand) : (s.setStrand c t x).items = s.items := rfl
@[simp] theorem State.setStrand_queues (c t : Nat) (x : Strand) : (s.setStrand c t x).queues = s.queues := rfl
@[simp] theorem State.setStrand_graphs (c t : Nat) (x : Strand) : (s.setStrand c t x).graphs = s.graphs := rfl
@[simp] theorem State.setStrand_gfeTurn (c t : Nat) (x : Strand) : (s.setStrand c t x).gfeTurn = s.gfeTurn := rfl
@[simp] theorem State.setStrand_gfeCmds (c t : Nat) (x : Strand) : (s.setStrand c t x).gfeCmds = s.gfeCmds := rfl
@[simp] theorem State.setStrand_cvus (c t : Nat) (x : Strand) : (s.setStrand c t x).cvus = s.cvus := rfl
@[simp] theorem State.setStrand_engOps (c t : Nat) (x : Strand) : (s.setStrand c t x).engOps = s.engOps := rfl
@[simp] theorem State.setStrand_sr (c t : Nat) (x : Strand) : (s.setStrand c t x).sr = s.sr := rfl
@[simp] theorem State.setStrand_samples (c t : Nat) (x : Strand) : (s.setStrand c t x).samples = s.samples := rfl
@[simp] theorem State.setStrand_ms (c t : Nat) (x : Strand) : (s.setStrand c t x).ms = s.ms := rfl
@[simp] theorem State.setStrand_chambers (c t : Nat) (x : Strand) : (s.setStrand c t x).chambers = s.chambers := rfl
@[simp] theorem State.setStrand_slots (c t : Nat) (x : Strand) : (s.setStrand c t x).slots = s.slots := rfl
@[simp] theorem State.setStrand_svy (c t : Nat) (x : Strand) : (s.setStrand c t x).svy = s.svy := rfl
@[simp] theorem State.setStrand_fab (c t : Nat) (x : Strand) : (s.setStrand c t x).fab = s.fab := rfl
@[simp] theorem State.setStrand_kv (c t : Nat) (x : Strand) : (s.setStrand c t x).kv = s.kv := rfl
@[simp] theorem State.setStrand_rte (c t : Nat) (x : Strand) : (s.setStrand c t x).rte = s.rte := rfl
@[simp] theorem State.setStrand_hlm (c t : Nat) (x : Strand) : (s.setStrand c t x).hlm = s.hlm := rfl
@[simp] theorem State.setStrand_hbc (c t : Nat) (x : Strand) : (s.setStrand c t x).hbc = s.hbc := rfl
@[simp] theorem State.setStrand_pwr (c t : Nat) (x : Strand) : (s.setStrand c t x).pwr = s.pwr := rfl
@[simp] theorem State.setStrand_utcBase (c t : Nat) (x : Strand) : (s.setStrand c t x).utcBase = s.utcBase := rfl
@[simp] theorem State.setStrand_granules (c t : Nat) (x : Strand) : (s.setStrand c t x).granules = s.granules := rfl
@[simp] theorem State.setStrand_tb (c t : Nat) (x : Strand) : (s.setStrand c t x).tb = s.tb := rfl
@[simp] theorem State.setStrand_tbc (c t : Nat) (x : Strand) : (s.setStrand c t x).tbc = s.tbc := rfl
@[simp] theorem State.setStrand_tru (c t : Nat) (x : Strand) : (s.setStrand c t x).tru = s.tru := rfl
@[simp] theorem State.setStrand_ctp (c t : Nat) (x : Strand) : (s.setStrand c t x).ctp = s.ctp := rfl
@[simp] theorem State.setStrand_sec (c t : Nat) (x : Strand) : (s.setStrand c t x).sec = s.sec := rfl
@[simp] theorem State.setStrand_mgc (c t : Nat) (x : Strand) : (s.setStrand c t x).mgc = s.mgc := rfl
@[simp] theorem State.setStrand_i3c (c t : Nat) (x : Strand) : (s.setStrand c t x).i3c = s.i3c := rfl
@[simp] theorem State.setStrand_tap (c t : Nat) (x : Strand) : (s.setStrand c t x).tap = s.tap := rfl
@[simp] theorem State.setStrand_pins (c t : Nat) (x : Strand) : (s.setStrand c t x).pins = s.pins := rfl
@[simp] theorem State.setStrand_out (c t : Nat) (x : Strand) : (s.setStrand c t x).out = s.out := rfl
@[simp] theorem State.rget_setStrand (c t : Nat) (x : Strand) (n₂ : Nat) : (s.setStrand c t x).rget n₂ = s.rget n₂ := rfl
@[simp] theorem State.fget_setStrand (c t : Nat) (x : Strand) (g₂ : Fld) (i₂ j₂ : Nat) : (s.setStrand c t x).fget g₂ i₂ j₂ = s.fget g₂ i₂ j₂ := rfl
@[simp] theorem State.healthOf_setStrand (c t : Nat) (x : Strand) (n₂ : Nat) : (s.setStrand c t x).healthOf n₂ = s.healthOf n₂ := rfl
@[simp] theorem State.chamber_setStrand (c t : Nat) (x : Strand) (n₂ : Nat) : (s.setStrand c t x).chamber n₂ = s.chamber n₂ := rfl
@[simp] theorem State.queue_setStrand (c t : Nat) (x : Strand) (n₂ : Nat) : (s.setStrand c t x).queue n₂ = s.queue n₂ := rfl
@[simp] theorem State.item_setStrand (c t : Nat) (x : Strand) (k₂ : ItemKey) : (s.setStrand c t x).item k₂ = s.item k₂ := rfl
@[simp] theorem State.byte_setStrand (c t : Nat) (x : Strand) (n₂ : Nat) : (s.setStrand c t x).byte n₂ = s.byte n₂ := rfl
@[simp] theorem State.slot_setStrand (c t : Nat) (x : Strand) (n₂ : Nat) : (s.setStrand c t x).slot n₂ = s.slot n₂ := rfl
@[simp] theorem State.domain_setStrand (c t : Nat) (x : Strand) (n₂ : Nat) : (s.setStrand c t x).domain n₂ = s.domain n₂ := rfl
@[simp] theorem State.lane_setStrand (c t : Nat) (x : Strand) (n₂ : Nat) : (s.setStrand c t x).lane n₂ = s.lane n₂ := rfl
@[simp] theorem State.session_setStrand (c t : Nat) (x : Strand) (n₂ : Nat) : (s.setStrand c t x).session n₂ = s.session n₂ := rfl
@[simp] theorem State.seq_setStrand (c t : Nat) (x : Strand) (n₂ m₂ : Nat) : (s.setStrand c t x).seq n₂ m₂ = s.seq n₂ m₂ := rfl

/-! ### `setQueue` writes `queues` -/

@[simp] theorem State.setQueue_pending (q : Nat) (x : Queue) : (s.setQueue q x).pending = s.pending := rfl
@[simp] theorem State.setQueue_now (q : Nat) (x : Queue) : (s.setQueue q x).now = s.now := rfl
@[simp] theorem State.setQueue_free (q : Nat) (x : Queue) : (s.setQueue q x).free = s.free := rfl
@[simp] theorem State.setQueue_mem (q : Nat) (x : Queue) : (s.setQueue q x).mem = s.mem := rfl
@[simp] theorem State.setQueue_regs (q : Nat) (x : Queue) : (s.setQueue q x).regs = s.regs := rfl
@[simp] theorem State.setQueue_shadows (q : Nat) (x : Queue) : (s.setQueue q x).shadows = s.shadows := rfl
@[simp] theorem State.setQueue_sels (q : Nat) (x : Queue) : (s.setQueue q x).sels = s.sels := rfl
@[simp] theorem State.setQueue_health (q : Nat) (x : Queue) : (s.setQueue q x).health = s.health := rfl
@[simp] theorem State.setQueue_strands (q : Nat) (x : Queue) : (s.setQueue q x).strands = s.strands := rfl
@[simp] theorem State.setQueue_items (q : Nat) (x : Queue) : (s.setQueue q x).items = s.items := rfl
@[simp] theorem State.setQueue_graphs (q : Nat) (x : Queue) : (s.setQueue q x).graphs = s.graphs := rfl
@[simp] theorem State.setQueue_gfeTurn (q : Nat) (x : Queue) : (s.setQueue q x).gfeTurn = s.gfeTurn := rfl
@[simp] theorem State.setQueue_gfeCmds (q : Nat) (x : Queue) : (s.setQueue q x).gfeCmds = s.gfeCmds := rfl
@[simp] theorem State.setQueue_cvus (q : Nat) (x : Queue) : (s.setQueue q x).cvus = s.cvus := rfl
@[simp] theorem State.setQueue_engOps (q : Nat) (x : Queue) : (s.setQueue q x).engOps = s.engOps := rfl
@[simp] theorem State.setQueue_sr (q : Nat) (x : Queue) : (s.setQueue q x).sr = s.sr := rfl
@[simp] theorem State.setQueue_samples (q : Nat) (x : Queue) : (s.setQueue q x).samples = s.samples := rfl
@[simp] theorem State.setQueue_ms (q : Nat) (x : Queue) : (s.setQueue q x).ms = s.ms := rfl
@[simp] theorem State.setQueue_chambers (q : Nat) (x : Queue) : (s.setQueue q x).chambers = s.chambers := rfl
@[simp] theorem State.setQueue_slots (q : Nat) (x : Queue) : (s.setQueue q x).slots = s.slots := rfl
@[simp] theorem State.setQueue_svy (q : Nat) (x : Queue) : (s.setQueue q x).svy = s.svy := rfl
@[simp] theorem State.setQueue_fab (q : Nat) (x : Queue) : (s.setQueue q x).fab = s.fab := rfl
@[simp] theorem State.setQueue_kv (q : Nat) (x : Queue) : (s.setQueue q x).kv = s.kv := rfl
@[simp] theorem State.setQueue_rte (q : Nat) (x : Queue) : (s.setQueue q x).rte = s.rte := rfl
@[simp] theorem State.setQueue_hlm (q : Nat) (x : Queue) : (s.setQueue q x).hlm = s.hlm := rfl
@[simp] theorem State.setQueue_hbc (q : Nat) (x : Queue) : (s.setQueue q x).hbc = s.hbc := rfl
@[simp] theorem State.setQueue_pwr (q : Nat) (x : Queue) : (s.setQueue q x).pwr = s.pwr := rfl
@[simp] theorem State.setQueue_utcBase (q : Nat) (x : Queue) : (s.setQueue q x).utcBase = s.utcBase := rfl
@[simp] theorem State.setQueue_granules (q : Nat) (x : Queue) : (s.setQueue q x).granules = s.granules := rfl
@[simp] theorem State.setQueue_tb (q : Nat) (x : Queue) : (s.setQueue q x).tb = s.tb := rfl
@[simp] theorem State.setQueue_tbc (q : Nat) (x : Queue) : (s.setQueue q x).tbc = s.tbc := rfl
@[simp] theorem State.setQueue_tru (q : Nat) (x : Queue) : (s.setQueue q x).tru = s.tru := rfl
@[simp] theorem State.setQueue_ctp (q : Nat) (x : Queue) : (s.setQueue q x).ctp = s.ctp := rfl
@[simp] theorem State.setQueue_sec (q : Nat) (x : Queue) : (s.setQueue q x).sec = s.sec := rfl
@[simp] theorem State.setQueue_mgc (q : Nat) (x : Queue) : (s.setQueue q x).mgc = s.mgc := rfl
@[simp] theorem State.setQueue_i3c (q : Nat) (x : Queue) : (s.setQueue q x).i3c = s.i3c := rfl
@[simp] theorem State.setQueue_tap (q : Nat) (x : Queue) : (s.setQueue q x).tap = s.tap := rfl
@[simp] theorem State.setQueue_pins (q : Nat) (x : Queue) : (s.setQueue q x).pins = s.pins := rfl
@[simp] theorem State.setQueue_out (q : Nat) (x : Queue) : (s.setQueue q x).out = s.out := rfl
@[simp] theorem State.rget_setQueue (q : Nat) (x : Queue) (n₂ : Nat) : (s.setQueue q x).rget n₂ = s.rget n₂ := rfl
@[simp] theorem State.fget_setQueue (q : Nat) (x : Queue) (g₂ : Fld) (i₂ j₂ : Nat) : (s.setQueue q x).fget g₂ i₂ j₂ = s.fget g₂ i₂ j₂ := rfl
@[simp] theorem State.healthOf_setQueue (q : Nat) (x : Queue) (n₂ : Nat) : (s.setQueue q x).healthOf n₂ = s.healthOf n₂ := rfl
@[simp] theorem State.chamber_setQueue (q : Nat) (x : Queue) (n₂ : Nat) : (s.setQueue q x).chamber n₂ = s.chamber n₂ := rfl
@[simp] theorem State.strand_setQueue (q : Nat) (x : Queue) (c₂ t₂ : Nat) : (s.setQueue q x).strand c₂ t₂ = s.strand c₂ t₂ := rfl
@[simp] theorem State.item_setQueue (q : Nat) (x : Queue) (k₂ : ItemKey) : (s.setQueue q x).item k₂ = s.item k₂ := rfl
@[simp] theorem State.byte_setQueue (q : Nat) (x : Queue) (n₂ : Nat) : (s.setQueue q x).byte n₂ = s.byte n₂ := rfl
@[simp] theorem State.slot_setQueue (q : Nat) (x : Queue) (n₂ : Nat) : (s.setQueue q x).slot n₂ = s.slot n₂ := rfl
@[simp] theorem State.domain_setQueue (q : Nat) (x : Queue) (n₂ : Nat) : (s.setQueue q x).domain n₂ = s.domain n₂ := rfl
@[simp] theorem State.lane_setQueue (q : Nat) (x : Queue) (n₂ : Nat) : (s.setQueue q x).lane n₂ = s.lane n₂ := rfl
@[simp] theorem State.session_setQueue (q : Nat) (x : Queue) (n₂ : Nat) : (s.setQueue q x).session n₂ = s.session n₂ := rfl
@[simp] theorem State.seq_setQueue (q : Nat) (x : Queue) (n₂ m₂ : Nat) : (s.setQueue q x).seq n₂ m₂ = s.seq n₂ m₂ := rfl

/-! ### `modItem` writes `items` -/

@[simp] theorem State.modItem_pending (k : ItemKey) (f : Item → Item) : (s.modItem k f).pending = s.pending := rfl
@[simp] theorem State.modItem_now (k : ItemKey) (f : Item → Item) : (s.modItem k f).now = s.now := rfl
@[simp] theorem State.modItem_free (k : ItemKey) (f : Item → Item) : (s.modItem k f).free = s.free := rfl
@[simp] theorem State.modItem_mem (k : ItemKey) (f : Item → Item) : (s.modItem k f).mem = s.mem := rfl
@[simp] theorem State.modItem_regs (k : ItemKey) (f : Item → Item) : (s.modItem k f).regs = s.regs := rfl
@[simp] theorem State.modItem_shadows (k : ItemKey) (f : Item → Item) : (s.modItem k f).shadows = s.shadows := rfl
@[simp] theorem State.modItem_sels (k : ItemKey) (f : Item → Item) : (s.modItem k f).sels = s.sels := rfl
@[simp] theorem State.modItem_health (k : ItemKey) (f : Item → Item) : (s.modItem k f).health = s.health := rfl
@[simp] theorem State.modItem_strands (k : ItemKey) (f : Item → Item) : (s.modItem k f).strands = s.strands := rfl
@[simp] theorem State.modItem_queues (k : ItemKey) (f : Item → Item) : (s.modItem k f).queues = s.queues := rfl
@[simp] theorem State.modItem_graphs (k : ItemKey) (f : Item → Item) : (s.modItem k f).graphs = s.graphs := rfl
@[simp] theorem State.modItem_gfeTurn (k : ItemKey) (f : Item → Item) : (s.modItem k f).gfeTurn = s.gfeTurn := rfl
@[simp] theorem State.modItem_gfeCmds (k : ItemKey) (f : Item → Item) : (s.modItem k f).gfeCmds = s.gfeCmds := rfl
@[simp] theorem State.modItem_cvus (k : ItemKey) (f : Item → Item) : (s.modItem k f).cvus = s.cvus := rfl
@[simp] theorem State.modItem_engOps (k : ItemKey) (f : Item → Item) : (s.modItem k f).engOps = s.engOps := rfl
@[simp] theorem State.modItem_sr (k : ItemKey) (f : Item → Item) : (s.modItem k f).sr = s.sr := rfl
@[simp] theorem State.modItem_samples (k : ItemKey) (f : Item → Item) : (s.modItem k f).samples = s.samples := rfl
@[simp] theorem State.modItem_ms (k : ItemKey) (f : Item → Item) : (s.modItem k f).ms = s.ms := rfl
@[simp] theorem State.modItem_chambers (k : ItemKey) (f : Item → Item) : (s.modItem k f).chambers = s.chambers := rfl
@[simp] theorem State.modItem_slots (k : ItemKey) (f : Item → Item) : (s.modItem k f).slots = s.slots := rfl
@[simp] theorem State.modItem_svy (k : ItemKey) (f : Item → Item) : (s.modItem k f).svy = s.svy := rfl
@[simp] theorem State.modItem_fab (k : ItemKey) (f : Item → Item) : (s.modItem k f).fab = s.fab := rfl
@[simp] theorem State.modItem_kv (k : ItemKey) (f : Item → Item) : (s.modItem k f).kv = s.kv := rfl
@[simp] theorem State.modItem_rte (k : ItemKey) (f : Item → Item) : (s.modItem k f).rte = s.rte := rfl
@[simp] theorem State.modItem_hlm (k : ItemKey) (f : Item → Item) : (s.modItem k f).hlm = s.hlm := rfl
@[simp] theorem State.modItem_hbc (k : ItemKey) (f : Item → Item) : (s.modItem k f).hbc = s.hbc := rfl
@[simp] theorem State.modItem_pwr (k : ItemKey) (f : Item → Item) : (s.modItem k f).pwr = s.pwr := rfl
@[simp] theorem State.modItem_utcBase (k : ItemKey) (f : Item → Item) : (s.modItem k f).utcBase = s.utcBase := rfl
@[simp] theorem State.modItem_granules (k : ItemKey) (f : Item → Item) : (s.modItem k f).granules = s.granules := rfl
@[simp] theorem State.modItem_tb (k : ItemKey) (f : Item → Item) : (s.modItem k f).tb = s.tb := rfl
@[simp] theorem State.modItem_tbc (k : ItemKey) (f : Item → Item) : (s.modItem k f).tbc = s.tbc := rfl
@[simp] theorem State.modItem_tru (k : ItemKey) (f : Item → Item) : (s.modItem k f).tru = s.tru := rfl
@[simp] theorem State.modItem_ctp (k : ItemKey) (f : Item → Item) : (s.modItem k f).ctp = s.ctp := rfl
@[simp] theorem State.modItem_sec (k : ItemKey) (f : Item → Item) : (s.modItem k f).sec = s.sec := rfl
@[simp] theorem State.modItem_mgc (k : ItemKey) (f : Item → Item) : (s.modItem k f).mgc = s.mgc := rfl
@[simp] theorem State.modItem_i3c (k : ItemKey) (f : Item → Item) : (s.modItem k f).i3c = s.i3c := rfl
@[simp] theorem State.modItem_tap (k : ItemKey) (f : Item → Item) : (s.modItem k f).tap = s.tap := rfl
@[simp] theorem State.modItem_pins (k : ItemKey) (f : Item → Item) : (s.modItem k f).pins = s.pins := rfl
@[simp] theorem State.modItem_out (k : ItemKey) (f : Item → Item) : (s.modItem k f).out = s.out := rfl
@[simp] theorem State.rget_modItem (k : ItemKey) (f : Item → Item) (n₂ : Nat) : (s.modItem k f).rget n₂ = s.rget n₂ := rfl
@[simp] theorem State.fget_modItem (k : ItemKey) (f : Item → Item) (g₂ : Fld) (i₂ j₂ : Nat) : (s.modItem k f).fget g₂ i₂ j₂ = s.fget g₂ i₂ j₂ := rfl
@[simp] theorem State.healthOf_modItem (k : ItemKey) (f : Item → Item) (n₂ : Nat) : (s.modItem k f).healthOf n₂ = s.healthOf n₂ := rfl
@[simp] theorem State.chamber_modItem (k : ItemKey) (f : Item → Item) (n₂ : Nat) : (s.modItem k f).chamber n₂ = s.chamber n₂ := rfl
@[simp] theorem State.strand_modItem (k : ItemKey) (f : Item → Item) (c₂ t₂ : Nat) : (s.modItem k f).strand c₂ t₂ = s.strand c₂ t₂ := rfl
@[simp] theorem State.queue_modItem (k : ItemKey) (f : Item → Item) (n₂ : Nat) : (s.modItem k f).queue n₂ = s.queue n₂ := rfl
@[simp] theorem State.byte_modItem (k : ItemKey) (f : Item → Item) (n₂ : Nat) : (s.modItem k f).byte n₂ = s.byte n₂ := rfl
@[simp] theorem State.slot_modItem (k : ItemKey) (f : Item → Item) (n₂ : Nat) : (s.modItem k f).slot n₂ = s.slot n₂ := rfl
@[simp] theorem State.domain_modItem (k : ItemKey) (f : Item → Item) (n₂ : Nat) : (s.modItem k f).domain n₂ = s.domain n₂ := rfl
@[simp] theorem State.lane_modItem (k : ItemKey) (f : Item → Item) (n₂ : Nat) : (s.modItem k f).lane n₂ = s.lane n₂ := rfl
@[simp] theorem State.session_modItem (k : ItemKey) (f : Item → Item) (n₂ : Nat) : (s.modItem k f).session n₂ = s.session n₂ := rfl
@[simp] theorem State.seq_modItem (k : ItemKey) (f : Item → Item) (n₂ m₂ : Nat) : (s.modItem k f).seq n₂ m₂ = s.seq n₂ m₂ := rfl

/-! ### `dropItem` writes `items` -/

@[simp] theorem State.dropItem_pending (k : ItemKey) : (s.dropItem k).pending = s.pending := rfl
@[simp] theorem State.dropItem_now (k : ItemKey) : (s.dropItem k).now = s.now := rfl
@[simp] theorem State.dropItem_free (k : ItemKey) : (s.dropItem k).free = s.free := rfl
@[simp] theorem State.dropItem_mem (k : ItemKey) : (s.dropItem k).mem = s.mem := rfl
@[simp] theorem State.dropItem_regs (k : ItemKey) : (s.dropItem k).regs = s.regs := rfl
@[simp] theorem State.dropItem_shadows (k : ItemKey) : (s.dropItem k).shadows = s.shadows := rfl
@[simp] theorem State.dropItem_sels (k : ItemKey) : (s.dropItem k).sels = s.sels := rfl
@[simp] theorem State.dropItem_health (k : ItemKey) : (s.dropItem k).health = s.health := rfl
@[simp] theorem State.dropItem_strands (k : ItemKey) : (s.dropItem k).strands = s.strands := rfl
@[simp] theorem State.dropItem_queues (k : ItemKey) : (s.dropItem k).queues = s.queues := rfl
@[simp] theorem State.dropItem_graphs (k : ItemKey) : (s.dropItem k).graphs = s.graphs := rfl
@[simp] theorem State.dropItem_gfeTurn (k : ItemKey) : (s.dropItem k).gfeTurn = s.gfeTurn := rfl
@[simp] theorem State.dropItem_gfeCmds (k : ItemKey) : (s.dropItem k).gfeCmds = s.gfeCmds := rfl
@[simp] theorem State.dropItem_cvus (k : ItemKey) : (s.dropItem k).cvus = s.cvus := rfl
@[simp] theorem State.dropItem_engOps (k : ItemKey) : (s.dropItem k).engOps = s.engOps := rfl
@[simp] theorem State.dropItem_sr (k : ItemKey) : (s.dropItem k).sr = s.sr := rfl
@[simp] theorem State.dropItem_samples (k : ItemKey) : (s.dropItem k).samples = s.samples := rfl
@[simp] theorem State.dropItem_ms (k : ItemKey) : (s.dropItem k).ms = s.ms := rfl
@[simp] theorem State.dropItem_chambers (k : ItemKey) : (s.dropItem k).chambers = s.chambers := rfl
@[simp] theorem State.dropItem_slots (k : ItemKey) : (s.dropItem k).slots = s.slots := rfl
@[simp] theorem State.dropItem_svy (k : ItemKey) : (s.dropItem k).svy = s.svy := rfl
@[simp] theorem State.dropItem_fab (k : ItemKey) : (s.dropItem k).fab = s.fab := rfl
@[simp] theorem State.dropItem_kv (k : ItemKey) : (s.dropItem k).kv = s.kv := rfl
@[simp] theorem State.dropItem_rte (k : ItemKey) : (s.dropItem k).rte = s.rte := rfl
@[simp] theorem State.dropItem_hlm (k : ItemKey) : (s.dropItem k).hlm = s.hlm := rfl
@[simp] theorem State.dropItem_hbc (k : ItemKey) : (s.dropItem k).hbc = s.hbc := rfl
@[simp] theorem State.dropItem_pwr (k : ItemKey) : (s.dropItem k).pwr = s.pwr := rfl
@[simp] theorem State.dropItem_utcBase (k : ItemKey) : (s.dropItem k).utcBase = s.utcBase := rfl
@[simp] theorem State.dropItem_granules (k : ItemKey) : (s.dropItem k).granules = s.granules := rfl
@[simp] theorem State.dropItem_tb (k : ItemKey) : (s.dropItem k).tb = s.tb := rfl
@[simp] theorem State.dropItem_tbc (k : ItemKey) : (s.dropItem k).tbc = s.tbc := rfl
@[simp] theorem State.dropItem_tru (k : ItemKey) : (s.dropItem k).tru = s.tru := rfl
@[simp] theorem State.dropItem_ctp (k : ItemKey) : (s.dropItem k).ctp = s.ctp := rfl
@[simp] theorem State.dropItem_sec (k : ItemKey) : (s.dropItem k).sec = s.sec := rfl
@[simp] theorem State.dropItem_mgc (k : ItemKey) : (s.dropItem k).mgc = s.mgc := rfl
@[simp] theorem State.dropItem_i3c (k : ItemKey) : (s.dropItem k).i3c = s.i3c := rfl
@[simp] theorem State.dropItem_tap (k : ItemKey) : (s.dropItem k).tap = s.tap := rfl
@[simp] theorem State.dropItem_pins (k : ItemKey) : (s.dropItem k).pins = s.pins := rfl
@[simp] theorem State.dropItem_out (k : ItemKey) : (s.dropItem k).out = s.out := rfl
@[simp] theorem State.rget_dropItem (k : ItemKey) (n₂ : Nat) : (s.dropItem k).rget n₂ = s.rget n₂ := rfl
@[simp] theorem State.fget_dropItem (k : ItemKey) (g₂ : Fld) (i₂ j₂ : Nat) : (s.dropItem k).fget g₂ i₂ j₂ = s.fget g₂ i₂ j₂ := rfl
@[simp] theorem State.healthOf_dropItem (k : ItemKey) (n₂ : Nat) : (s.dropItem k).healthOf n₂ = s.healthOf n₂ := rfl
@[simp] theorem State.chamber_dropItem (k : ItemKey) (n₂ : Nat) : (s.dropItem k).chamber n₂ = s.chamber n₂ := rfl
@[simp] theorem State.strand_dropItem (k : ItemKey) (c₂ t₂ : Nat) : (s.dropItem k).strand c₂ t₂ = s.strand c₂ t₂ := rfl
@[simp] theorem State.queue_dropItem (k : ItemKey) (n₂ : Nat) : (s.dropItem k).queue n₂ = s.queue n₂ := rfl
@[simp] theorem State.byte_dropItem (k : ItemKey) (n₂ : Nat) : (s.dropItem k).byte n₂ = s.byte n₂ := rfl
@[simp] theorem State.slot_dropItem (k : ItemKey) (n₂ : Nat) : (s.dropItem k).slot n₂ = s.slot n₂ := rfl
@[simp] theorem State.domain_dropItem (k : ItemKey) (n₂ : Nat) : (s.dropItem k).domain n₂ = s.domain n₂ := rfl
@[simp] theorem State.lane_dropItem (k : ItemKey) (n₂ : Nat) : (s.dropItem k).lane n₂ = s.lane n₂ := rfl
@[simp] theorem State.session_dropItem (k : ItemKey) (n₂ : Nat) : (s.dropItem k).session n₂ = s.session n₂ := rfl
@[simp] theorem State.seq_dropItem (k : ItemKey) (n₂ m₂ : Nat) : (s.dropItem k).seq n₂ m₂ = s.seq n₂ m₂ := rfl

/-! ### `setBytes` writes `mem` -/

@[simp] theorem State.setBytes_pending (a : Nat) (bs : List Byte) : (s.setBytes a bs).pending = s.pending := rfl
@[simp] theorem State.setBytes_now (a : Nat) (bs : List Byte) : (s.setBytes a bs).now = s.now := rfl
@[simp] theorem State.setBytes_free (a : Nat) (bs : List Byte) : (s.setBytes a bs).free = s.free := rfl
@[simp] theorem State.setBytes_regs (a : Nat) (bs : List Byte) : (s.setBytes a bs).regs = s.regs := rfl
@[simp] theorem State.setBytes_shadows (a : Nat) (bs : List Byte) : (s.setBytes a bs).shadows = s.shadows := rfl
@[simp] theorem State.setBytes_sels (a : Nat) (bs : List Byte) : (s.setBytes a bs).sels = s.sels := rfl
@[simp] theorem State.setBytes_health (a : Nat) (bs : List Byte) : (s.setBytes a bs).health = s.health := rfl
@[simp] theorem State.setBytes_strands (a : Nat) (bs : List Byte) : (s.setBytes a bs).strands = s.strands := rfl
@[simp] theorem State.setBytes_items (a : Nat) (bs : List Byte) : (s.setBytes a bs).items = s.items := rfl
@[simp] theorem State.setBytes_queues (a : Nat) (bs : List Byte) : (s.setBytes a bs).queues = s.queues := rfl
@[simp] theorem State.setBytes_graphs (a : Nat) (bs : List Byte) : (s.setBytes a bs).graphs = s.graphs := rfl
@[simp] theorem State.setBytes_gfeTurn (a : Nat) (bs : List Byte) : (s.setBytes a bs).gfeTurn = s.gfeTurn := rfl
@[simp] theorem State.setBytes_gfeCmds (a : Nat) (bs : List Byte) : (s.setBytes a bs).gfeCmds = s.gfeCmds := rfl
@[simp] theorem State.setBytes_cvus (a : Nat) (bs : List Byte) : (s.setBytes a bs).cvus = s.cvus := rfl
@[simp] theorem State.setBytes_engOps (a : Nat) (bs : List Byte) : (s.setBytes a bs).engOps = s.engOps := rfl
@[simp] theorem State.setBytes_sr (a : Nat) (bs : List Byte) : (s.setBytes a bs).sr = s.sr := rfl
@[simp] theorem State.setBytes_samples (a : Nat) (bs : List Byte) : (s.setBytes a bs).samples = s.samples := rfl
@[simp] theorem State.setBytes_ms (a : Nat) (bs : List Byte) : (s.setBytes a bs).ms = s.ms := rfl
@[simp] theorem State.setBytes_chambers (a : Nat) (bs : List Byte) : (s.setBytes a bs).chambers = s.chambers := rfl
@[simp] theorem State.setBytes_slots (a : Nat) (bs : List Byte) : (s.setBytes a bs).slots = s.slots := rfl
@[simp] theorem State.setBytes_svy (a : Nat) (bs : List Byte) : (s.setBytes a bs).svy = s.svy := rfl
@[simp] theorem State.setBytes_fab (a : Nat) (bs : List Byte) : (s.setBytes a bs).fab = s.fab := rfl
@[simp] theorem State.setBytes_kv (a : Nat) (bs : List Byte) : (s.setBytes a bs).kv = s.kv := rfl
@[simp] theorem State.setBytes_rte (a : Nat) (bs : List Byte) : (s.setBytes a bs).rte = s.rte := rfl
@[simp] theorem State.setBytes_hlm (a : Nat) (bs : List Byte) : (s.setBytes a bs).hlm = s.hlm := rfl
@[simp] theorem State.setBytes_hbc (a : Nat) (bs : List Byte) : (s.setBytes a bs).hbc = s.hbc := rfl
@[simp] theorem State.setBytes_pwr (a : Nat) (bs : List Byte) : (s.setBytes a bs).pwr = s.pwr := rfl
@[simp] theorem State.setBytes_utcBase (a : Nat) (bs : List Byte) : (s.setBytes a bs).utcBase = s.utcBase := rfl
@[simp] theorem State.setBytes_granules (a : Nat) (bs : List Byte) : (s.setBytes a bs).granules = s.granules := rfl
@[simp] theorem State.setBytes_tb (a : Nat) (bs : List Byte) : (s.setBytes a bs).tb = s.tb := rfl
@[simp] theorem State.setBytes_tbc (a : Nat) (bs : List Byte) : (s.setBytes a bs).tbc = s.tbc := rfl
@[simp] theorem State.setBytes_tru (a : Nat) (bs : List Byte) : (s.setBytes a bs).tru = s.tru := rfl
@[simp] theorem State.setBytes_ctp (a : Nat) (bs : List Byte) : (s.setBytes a bs).ctp = s.ctp := rfl
@[simp] theorem State.setBytes_sec (a : Nat) (bs : List Byte) : (s.setBytes a bs).sec = s.sec := rfl
@[simp] theorem State.setBytes_mgc (a : Nat) (bs : List Byte) : (s.setBytes a bs).mgc = s.mgc := rfl
@[simp] theorem State.setBytes_i3c (a : Nat) (bs : List Byte) : (s.setBytes a bs).i3c = s.i3c := rfl
@[simp] theorem State.setBytes_tap (a : Nat) (bs : List Byte) : (s.setBytes a bs).tap = s.tap := rfl
@[simp] theorem State.setBytes_pins (a : Nat) (bs : List Byte) : (s.setBytes a bs).pins = s.pins := rfl
@[simp] theorem State.setBytes_out (a : Nat) (bs : List Byte) : (s.setBytes a bs).out = s.out := rfl
@[simp] theorem State.rget_setBytes (a : Nat) (bs : List Byte) (n₂ : Nat) : (s.setBytes a bs).rget n₂ = s.rget n₂ := rfl
@[simp] theorem State.fget_setBytes (a : Nat) (bs : List Byte) (g₂ : Fld) (i₂ j₂ : Nat) : (s.setBytes a bs).fget g₂ i₂ j₂ = s.fget g₂ i₂ j₂ := rfl
@[simp] theorem State.healthOf_setBytes (a : Nat) (bs : List Byte) (n₂ : Nat) : (s.setBytes a bs).healthOf n₂ = s.healthOf n₂ := rfl
@[simp] theorem State.chamber_setBytes (a : Nat) (bs : List Byte) (n₂ : Nat) : (s.setBytes a bs).chamber n₂ = s.chamber n₂ := rfl
@[simp] theorem State.strand_setBytes (a : Nat) (bs : List Byte) (c₂ t₂ : Nat) : (s.setBytes a bs).strand c₂ t₂ = s.strand c₂ t₂ := rfl
@[simp] theorem State.queue_setBytes (a : Nat) (bs : List Byte) (n₂ : Nat) : (s.setBytes a bs).queue n₂ = s.queue n₂ := rfl
@[simp] theorem State.item_setBytes (a : Nat) (bs : List Byte) (k₂ : ItemKey) : (s.setBytes a bs).item k₂ = s.item k₂ := rfl
@[simp] theorem State.slot_setBytes (a : Nat) (bs : List Byte) (n₂ : Nat) : (s.setBytes a bs).slot n₂ = s.slot n₂ := rfl
@[simp] theorem State.domain_setBytes (a : Nat) (bs : List Byte) (n₂ : Nat) : (s.setBytes a bs).domain n₂ = s.domain n₂ := rfl
@[simp] theorem State.lane_setBytes (a : Nat) (bs : List Byte) (n₂ : Nat) : (s.setBytes a bs).lane n₂ = s.lane n₂ := rfl
@[simp] theorem State.session_setBytes (a : Nat) (bs : List Byte) (n₂ : Nat) : (s.setBytes a bs).session n₂ = s.session n₂ := rfl
@[simp] theorem State.seq_setBytes (a : Nat) (bs : List Byte) (n₂ m₂ : Nat) : (s.setBytes a bs).seq n₂ m₂ = s.seq n₂ m₂ := rfl

/-! ### `zeroBytes` writes `mem` -/

@[simp] theorem State.zeroBytes_pending (lo hi : Nat) : (s.zeroBytes lo hi).pending = s.pending := rfl
@[simp] theorem State.zeroBytes_now (lo hi : Nat) : (s.zeroBytes lo hi).now = s.now := rfl
@[simp] theorem State.zeroBytes_free (lo hi : Nat) : (s.zeroBytes lo hi).free = s.free := rfl
@[simp] theorem State.zeroBytes_regs (lo hi : Nat) : (s.zeroBytes lo hi).regs = s.regs := rfl
@[simp] theorem State.zeroBytes_shadows (lo hi : Nat) : (s.zeroBytes lo hi).shadows = s.shadows := rfl
@[simp] theorem State.zeroBytes_sels (lo hi : Nat) : (s.zeroBytes lo hi).sels = s.sels := rfl
@[simp] theorem State.zeroBytes_health (lo hi : Nat) : (s.zeroBytes lo hi).health = s.health := rfl
@[simp] theorem State.zeroBytes_strands (lo hi : Nat) : (s.zeroBytes lo hi).strands = s.strands := rfl
@[simp] theorem State.zeroBytes_items (lo hi : Nat) : (s.zeroBytes lo hi).items = s.items := rfl
@[simp] theorem State.zeroBytes_queues (lo hi : Nat) : (s.zeroBytes lo hi).queues = s.queues := rfl
@[simp] theorem State.zeroBytes_graphs (lo hi : Nat) : (s.zeroBytes lo hi).graphs = s.graphs := rfl
@[simp] theorem State.zeroBytes_gfeTurn (lo hi : Nat) : (s.zeroBytes lo hi).gfeTurn = s.gfeTurn := rfl
@[simp] theorem State.zeroBytes_gfeCmds (lo hi : Nat) : (s.zeroBytes lo hi).gfeCmds = s.gfeCmds := rfl
@[simp] theorem State.zeroBytes_cvus (lo hi : Nat) : (s.zeroBytes lo hi).cvus = s.cvus := rfl
@[simp] theorem State.zeroBytes_engOps (lo hi : Nat) : (s.zeroBytes lo hi).engOps = s.engOps := rfl
@[simp] theorem State.zeroBytes_sr (lo hi : Nat) : (s.zeroBytes lo hi).sr = s.sr := rfl
@[simp] theorem State.zeroBytes_samples (lo hi : Nat) : (s.zeroBytes lo hi).samples = s.samples := rfl
@[simp] theorem State.zeroBytes_ms (lo hi : Nat) : (s.zeroBytes lo hi).ms = s.ms := rfl
@[simp] theorem State.zeroBytes_chambers (lo hi : Nat) : (s.zeroBytes lo hi).chambers = s.chambers := rfl
@[simp] theorem State.zeroBytes_slots (lo hi : Nat) : (s.zeroBytes lo hi).slots = s.slots := rfl
@[simp] theorem State.zeroBytes_svy (lo hi : Nat) : (s.zeroBytes lo hi).svy = s.svy := rfl
@[simp] theorem State.zeroBytes_fab (lo hi : Nat) : (s.zeroBytes lo hi).fab = s.fab := rfl
@[simp] theorem State.zeroBytes_kv (lo hi : Nat) : (s.zeroBytes lo hi).kv = s.kv := rfl
@[simp] theorem State.zeroBytes_rte (lo hi : Nat) : (s.zeroBytes lo hi).rte = s.rte := rfl
@[simp] theorem State.zeroBytes_hlm (lo hi : Nat) : (s.zeroBytes lo hi).hlm = s.hlm := rfl
@[simp] theorem State.zeroBytes_hbc (lo hi : Nat) : (s.zeroBytes lo hi).hbc = s.hbc := rfl
@[simp] theorem State.zeroBytes_pwr (lo hi : Nat) : (s.zeroBytes lo hi).pwr = s.pwr := rfl
@[simp] theorem State.zeroBytes_utcBase (lo hi : Nat) : (s.zeroBytes lo hi).utcBase = s.utcBase := rfl
@[simp] theorem State.zeroBytes_granules (lo hi : Nat) : (s.zeroBytes lo hi).granules = s.granules := rfl
@[simp] theorem State.zeroBytes_tb (lo hi : Nat) : (s.zeroBytes lo hi).tb = s.tb := rfl
@[simp] theorem State.zeroBytes_tbc (lo hi : Nat) : (s.zeroBytes lo hi).tbc = s.tbc := rfl
@[simp] theorem State.zeroBytes_tru (lo hi : Nat) : (s.zeroBytes lo hi).tru = s.tru := rfl
@[simp] theorem State.zeroBytes_ctp (lo hi : Nat) : (s.zeroBytes lo hi).ctp = s.ctp := rfl
@[simp] theorem State.zeroBytes_sec (lo hi : Nat) : (s.zeroBytes lo hi).sec = s.sec := rfl
@[simp] theorem State.zeroBytes_mgc (lo hi : Nat) : (s.zeroBytes lo hi).mgc = s.mgc := rfl
@[simp] theorem State.zeroBytes_i3c (lo hi : Nat) : (s.zeroBytes lo hi).i3c = s.i3c := rfl
@[simp] theorem State.zeroBytes_tap (lo hi : Nat) : (s.zeroBytes lo hi).tap = s.tap := rfl
@[simp] theorem State.zeroBytes_pins (lo hi : Nat) : (s.zeroBytes lo hi).pins = s.pins := rfl
@[simp] theorem State.zeroBytes_out (lo hi : Nat) : (s.zeroBytes lo hi).out = s.out := rfl
@[simp] theorem State.rget_zeroBytes (lo hi : Nat) (n₂ : Nat) : (s.zeroBytes lo hi).rget n₂ = s.rget n₂ := rfl
@[simp] theorem State.fget_zeroBytes (lo hi : Nat) (g₂ : Fld) (i₂ j₂ : Nat) : (s.zeroBytes lo hi).fget g₂ i₂ j₂ = s.fget g₂ i₂ j₂ := rfl
@[simp] theorem State.healthOf_zeroBytes (lo hi : Nat) (n₂ : Nat) : (s.zeroBytes lo hi).healthOf n₂ = s.healthOf n₂ := rfl
@[simp] theorem State.chamber_zeroBytes (lo hi : Nat) (n₂ : Nat) : (s.zeroBytes lo hi).chamber n₂ = s.chamber n₂ := rfl
@[simp] theorem State.strand_zeroBytes (lo hi : Nat) (c₂ t₂ : Nat) : (s.zeroBytes lo hi).strand c₂ t₂ = s.strand c₂ t₂ := rfl
@[simp] theorem State.queue_zeroBytes (lo hi : Nat) (n₂ : Nat) : (s.zeroBytes lo hi).queue n₂ = s.queue n₂ := rfl
@[simp] theorem State.item_zeroBytes (lo hi : Nat) (k₂ : ItemKey) : (s.zeroBytes lo hi).item k₂ = s.item k₂ := rfl
@[simp] theorem State.slot_zeroBytes (lo hi : Nat) (n₂ : Nat) : (s.zeroBytes lo hi).slot n₂ = s.slot n₂ := rfl
@[simp] theorem State.domain_zeroBytes (lo hi : Nat) (n₂ : Nat) : (s.zeroBytes lo hi).domain n₂ = s.domain n₂ := rfl
@[simp] theorem State.lane_zeroBytes (lo hi : Nat) (n₂ : Nat) : (s.zeroBytes lo hi).lane n₂ = s.lane n₂ := rfl
@[simp] theorem State.session_zeroBytes (lo hi : Nat) (n₂ : Nat) : (s.zeroBytes lo hi).session n₂ = s.session n₂ := rfl
@[simp] theorem State.seq_zeroBytes (lo hi : Nat) (n₂ m₂ : Nat) : (s.zeroBytes lo hi).seq n₂ m₂ = s.seq n₂ m₂ := rfl

/-! ### `modEng` writes `engOps` -/

@[simp] theorem State.modEng_pending (id : Nat) (f : EngOp → EngOp) : (s.modEng id f).pending = s.pending := rfl
@[simp] theorem State.modEng_now (id : Nat) (f : EngOp → EngOp) : (s.modEng id f).now = s.now := rfl
@[simp] theorem State.modEng_free (id : Nat) (f : EngOp → EngOp) : (s.modEng id f).free = s.free := rfl
@[simp] theorem State.modEng_mem (id : Nat) (f : EngOp → EngOp) : (s.modEng id f).mem = s.mem := rfl
@[simp] theorem State.modEng_regs (id : Nat) (f : EngOp → EngOp) : (s.modEng id f).regs = s.regs := rfl
@[simp] theorem State.modEng_shadows (id : Nat) (f : EngOp → EngOp) : (s.modEng id f).shadows = s.shadows := rfl
@[simp] theorem State.modEng_sels (id : Nat) (f : EngOp → EngOp) : (s.modEng id f).sels = s.sels := rfl
@[simp] theorem State.modEng_health (id : Nat) (f : EngOp → EngOp) : (s.modEng id f).health = s.health := rfl
@[simp] theorem State.modEng_strands (id : Nat) (f : EngOp → EngOp) : (s.modEng id f).strands = s.strands := rfl
@[simp] theorem State.modEng_items (id : Nat) (f : EngOp → EngOp) : (s.modEng id f).items = s.items := rfl
@[simp] theorem State.modEng_queues (id : Nat) (f : EngOp → EngOp) : (s.modEng id f).queues = s.queues := rfl
@[simp] theorem State.modEng_graphs (id : Nat) (f : EngOp → EngOp) : (s.modEng id f).graphs = s.graphs := rfl
@[simp] theorem State.modEng_gfeTurn (id : Nat) (f : EngOp → EngOp) : (s.modEng id f).gfeTurn = s.gfeTurn := rfl
@[simp] theorem State.modEng_gfeCmds (id : Nat) (f : EngOp → EngOp) : (s.modEng id f).gfeCmds = s.gfeCmds := rfl
@[simp] theorem State.modEng_cvus (id : Nat) (f : EngOp → EngOp) : (s.modEng id f).cvus = s.cvus := rfl
@[simp] theorem State.modEng_sr (id : Nat) (f : EngOp → EngOp) : (s.modEng id f).sr = s.sr := rfl
@[simp] theorem State.modEng_samples (id : Nat) (f : EngOp → EngOp) : (s.modEng id f).samples = s.samples := rfl
@[simp] theorem State.modEng_ms (id : Nat) (f : EngOp → EngOp) : (s.modEng id f).ms = s.ms := rfl
@[simp] theorem State.modEng_chambers (id : Nat) (f : EngOp → EngOp) : (s.modEng id f).chambers = s.chambers := rfl
@[simp] theorem State.modEng_slots (id : Nat) (f : EngOp → EngOp) : (s.modEng id f).slots = s.slots := rfl
@[simp] theorem State.modEng_svy (id : Nat) (f : EngOp → EngOp) : (s.modEng id f).svy = s.svy := rfl
@[simp] theorem State.modEng_fab (id : Nat) (f : EngOp → EngOp) : (s.modEng id f).fab = s.fab := rfl
@[simp] theorem State.modEng_kv (id : Nat) (f : EngOp → EngOp) : (s.modEng id f).kv = s.kv := rfl
@[simp] theorem State.modEng_rte (id : Nat) (f : EngOp → EngOp) : (s.modEng id f).rte = s.rte := rfl
@[simp] theorem State.modEng_hlm (id : Nat) (f : EngOp → EngOp) : (s.modEng id f).hlm = s.hlm := rfl
@[simp] theorem State.modEng_hbc (id : Nat) (f : EngOp → EngOp) : (s.modEng id f).hbc = s.hbc := rfl
@[simp] theorem State.modEng_pwr (id : Nat) (f : EngOp → EngOp) : (s.modEng id f).pwr = s.pwr := rfl
@[simp] theorem State.modEng_utcBase (id : Nat) (f : EngOp → EngOp) : (s.modEng id f).utcBase = s.utcBase := rfl
@[simp] theorem State.modEng_granules (id : Nat) (f : EngOp → EngOp) : (s.modEng id f).granules = s.granules := rfl
@[simp] theorem State.modEng_tb (id : Nat) (f : EngOp → EngOp) : (s.modEng id f).tb = s.tb := rfl
@[simp] theorem State.modEng_tbc (id : Nat) (f : EngOp → EngOp) : (s.modEng id f).tbc = s.tbc := rfl
@[simp] theorem State.modEng_tru (id : Nat) (f : EngOp → EngOp) : (s.modEng id f).tru = s.tru := rfl
@[simp] theorem State.modEng_ctp (id : Nat) (f : EngOp → EngOp) : (s.modEng id f).ctp = s.ctp := rfl
@[simp] theorem State.modEng_sec (id : Nat) (f : EngOp → EngOp) : (s.modEng id f).sec = s.sec := rfl
@[simp] theorem State.modEng_mgc (id : Nat) (f : EngOp → EngOp) : (s.modEng id f).mgc = s.mgc := rfl
@[simp] theorem State.modEng_i3c (id : Nat) (f : EngOp → EngOp) : (s.modEng id f).i3c = s.i3c := rfl
@[simp] theorem State.modEng_tap (id : Nat) (f : EngOp → EngOp) : (s.modEng id f).tap = s.tap := rfl
@[simp] theorem State.modEng_pins (id : Nat) (f : EngOp → EngOp) : (s.modEng id f).pins = s.pins := rfl
@[simp] theorem State.modEng_out (id : Nat) (f : EngOp → EngOp) : (s.modEng id f).out = s.out := rfl
@[simp] theorem State.rget_modEng (id : Nat) (f : EngOp → EngOp) (n₂ : Nat) : (s.modEng id f).rget n₂ = s.rget n₂ := rfl
@[simp] theorem State.fget_modEng (id : Nat) (f : EngOp → EngOp) (g₂ : Fld) (i₂ j₂ : Nat) : (s.modEng id f).fget g₂ i₂ j₂ = s.fget g₂ i₂ j₂ := rfl
@[simp] theorem State.healthOf_modEng (id : Nat) (f : EngOp → EngOp) (n₂ : Nat) : (s.modEng id f).healthOf n₂ = s.healthOf n₂ := rfl
@[simp] theorem State.chamber_modEng (id : Nat) (f : EngOp → EngOp) (n₂ : Nat) : (s.modEng id f).chamber n₂ = s.chamber n₂ := rfl
@[simp] theorem State.strand_modEng (id : Nat) (f : EngOp → EngOp) (c₂ t₂ : Nat) : (s.modEng id f).strand c₂ t₂ = s.strand c₂ t₂ := rfl
@[simp] theorem State.queue_modEng (id : Nat) (f : EngOp → EngOp) (n₂ : Nat) : (s.modEng id f).queue n₂ = s.queue n₂ := rfl
@[simp] theorem State.item_modEng (id : Nat) (f : EngOp → EngOp) (k₂ : ItemKey) : (s.modEng id f).item k₂ = s.item k₂ := rfl
@[simp] theorem State.byte_modEng (id : Nat) (f : EngOp → EngOp) (n₂ : Nat) : (s.modEng id f).byte n₂ = s.byte n₂ := rfl
@[simp] theorem State.slot_modEng (id : Nat) (f : EngOp → EngOp) (n₂ : Nat) : (s.modEng id f).slot n₂ = s.slot n₂ := rfl
@[simp] theorem State.domain_modEng (id : Nat) (f : EngOp → EngOp) (n₂ : Nat) : (s.modEng id f).domain n₂ = s.domain n₂ := rfl
@[simp] theorem State.lane_modEng (id : Nat) (f : EngOp → EngOp) (n₂ : Nat) : (s.modEng id f).lane n₂ = s.lane n₂ := rfl
@[simp] theorem State.session_modEng (id : Nat) (f : EngOp → EngOp) (n₂ : Nat) : (s.modEng id f).session n₂ = s.session n₂ := rfl
@[simp] theorem State.seq_modEng (id : Nat) (f : EngOp → EngOp) (n₂ m₂ : Nat) : (s.modEng id f).seq n₂ m₂ = s.seq n₂ m₂ := rfl

/-! ### `dropEng` writes `engOps` and `ms` -/

@[simp] theorem State.dropEng_pending (id : Nat) : (s.dropEng id).pending = s.pending := rfl
@[simp] theorem State.dropEng_now (id : Nat) : (s.dropEng id).now = s.now := rfl
@[simp] theorem State.dropEng_free (id : Nat) : (s.dropEng id).free = s.free := rfl
@[simp] theorem State.dropEng_mem (id : Nat) : (s.dropEng id).mem = s.mem := rfl
@[simp] theorem State.dropEng_regs (id : Nat) : (s.dropEng id).regs = s.regs := rfl
@[simp] theorem State.dropEng_shadows (id : Nat) : (s.dropEng id).shadows = s.shadows := rfl
@[simp] theorem State.dropEng_sels (id : Nat) : (s.dropEng id).sels = s.sels := rfl
@[simp] theorem State.dropEng_health (id : Nat) : (s.dropEng id).health = s.health := rfl
@[simp] theorem State.dropEng_strands (id : Nat) : (s.dropEng id).strands = s.strands := rfl
@[simp] theorem State.dropEng_items (id : Nat) : (s.dropEng id).items = s.items := rfl
@[simp] theorem State.dropEng_queues (id : Nat) : (s.dropEng id).queues = s.queues := rfl
@[simp] theorem State.dropEng_graphs (id : Nat) : (s.dropEng id).graphs = s.graphs := rfl
@[simp] theorem State.dropEng_gfeTurn (id : Nat) : (s.dropEng id).gfeTurn = s.gfeTurn := rfl
@[simp] theorem State.dropEng_gfeCmds (id : Nat) : (s.dropEng id).gfeCmds = s.gfeCmds := rfl
@[simp] theorem State.dropEng_cvus (id : Nat) : (s.dropEng id).cvus = s.cvus := rfl
@[simp] theorem State.dropEng_sr (id : Nat) : (s.dropEng id).sr = s.sr := rfl
@[simp] theorem State.dropEng_samples (id : Nat) : (s.dropEng id).samples = s.samples := rfl
@[simp] theorem State.dropEng_chambers (id : Nat) : (s.dropEng id).chambers = s.chambers := rfl
@[simp] theorem State.dropEng_slots (id : Nat) : (s.dropEng id).slots = s.slots := rfl
@[simp] theorem State.dropEng_svy (id : Nat) : (s.dropEng id).svy = s.svy := rfl
@[simp] theorem State.dropEng_fab (id : Nat) : (s.dropEng id).fab = s.fab := rfl
@[simp] theorem State.dropEng_kv (id : Nat) : (s.dropEng id).kv = s.kv := rfl
@[simp] theorem State.dropEng_rte (id : Nat) : (s.dropEng id).rte = s.rte := rfl
@[simp] theorem State.dropEng_hlm (id : Nat) : (s.dropEng id).hlm = s.hlm := rfl
@[simp] theorem State.dropEng_hbc (id : Nat) : (s.dropEng id).hbc = s.hbc := rfl
@[simp] theorem State.dropEng_pwr (id : Nat) : (s.dropEng id).pwr = s.pwr := rfl
@[simp] theorem State.dropEng_utcBase (id : Nat) : (s.dropEng id).utcBase = s.utcBase := rfl
@[simp] theorem State.dropEng_granules (id : Nat) : (s.dropEng id).granules = s.granules := rfl
@[simp] theorem State.dropEng_tb (id : Nat) : (s.dropEng id).tb = s.tb := rfl
@[simp] theorem State.dropEng_tbc (id : Nat) : (s.dropEng id).tbc = s.tbc := rfl
@[simp] theorem State.dropEng_tru (id : Nat) : (s.dropEng id).tru = s.tru := rfl
@[simp] theorem State.dropEng_ctp (id : Nat) : (s.dropEng id).ctp = s.ctp := rfl
@[simp] theorem State.dropEng_sec (id : Nat) : (s.dropEng id).sec = s.sec := rfl
@[simp] theorem State.dropEng_mgc (id : Nat) : (s.dropEng id).mgc = s.mgc := rfl
@[simp] theorem State.dropEng_i3c (id : Nat) : (s.dropEng id).i3c = s.i3c := rfl
@[simp] theorem State.dropEng_tap (id : Nat) : (s.dropEng id).tap = s.tap := rfl
@[simp] theorem State.dropEng_pins (id : Nat) : (s.dropEng id).pins = s.pins := rfl
@[simp] theorem State.dropEng_out (id : Nat) : (s.dropEng id).out = s.out := rfl
@[simp] theorem State.rget_dropEng (id : Nat) (n₂ : Nat) : (s.dropEng id).rget n₂ = s.rget n₂ := rfl
@[simp] theorem State.fget_dropEng (id : Nat) (g₂ : Fld) (i₂ j₂ : Nat) : (s.dropEng id).fget g₂ i₂ j₂ = s.fget g₂ i₂ j₂ := rfl
@[simp] theorem State.healthOf_dropEng (id : Nat) (n₂ : Nat) : (s.dropEng id).healthOf n₂ = s.healthOf n₂ := rfl
@[simp] theorem State.chamber_dropEng (id : Nat) (n₂ : Nat) : (s.dropEng id).chamber n₂ = s.chamber n₂ := rfl
@[simp] theorem State.strand_dropEng (id : Nat) (c₂ t₂ : Nat) : (s.dropEng id).strand c₂ t₂ = s.strand c₂ t₂ := rfl
@[simp] theorem State.queue_dropEng (id : Nat) (n₂ : Nat) : (s.dropEng id).queue n₂ = s.queue n₂ := rfl
@[simp] theorem State.item_dropEng (id : Nat) (k₂ : ItemKey) : (s.dropEng id).item k₂ = s.item k₂ := rfl
@[simp] theorem State.byte_dropEng (id : Nat) (n₂ : Nat) : (s.dropEng id).byte n₂ = s.byte n₂ := rfl
@[simp] theorem State.slot_dropEng (id : Nat) (n₂ : Nat) : (s.dropEng id).slot n₂ = s.slot n₂ := rfl
@[simp] theorem State.domain_dropEng (id : Nat) (n₂ : Nat) : (s.dropEng id).domain n₂ = s.domain n₂ := rfl
@[simp] theorem State.lane_dropEng (id : Nat) (n₂ : Nat) : (s.dropEng id).lane n₂ = s.lane n₂ := rfl
@[simp] theorem State.session_dropEng (id : Nat) (n₂ : Nat) : (s.dropEng id).session n₂ = s.session n₂ := rfl
@[simp] theorem State.seq_dropEng (id : Nat) (n₂ m₂ : Nat) : (s.dropEng id).seq n₂ m₂ = s.seq n₂ m₂ := rfl

/-! ### `setSlot` writes `slots` -/

@[simp] theorem State.setSlot_pending (id : Nat) (x : Slot) : (s.setSlot id x).pending = s.pending := rfl
@[simp] theorem State.setSlot_now (id : Nat) (x : Slot) : (s.setSlot id x).now = s.now := rfl
@[simp] theorem State.setSlot_free (id : Nat) (x : Slot) : (s.setSlot id x).free = s.free := rfl
@[simp] theorem State.setSlot_mem (id : Nat) (x : Slot) : (s.setSlot id x).mem = s.mem := rfl
@[simp] theorem State.setSlot_regs (id : Nat) (x : Slot) : (s.setSlot id x).regs = s.regs := rfl
@[simp] theorem State.setSlot_shadows (id : Nat) (x : Slot) : (s.setSlot id x).shadows = s.shadows := rfl
@[simp] theorem State.setSlot_sels (id : Nat) (x : Slot) : (s.setSlot id x).sels = s.sels := rfl
@[simp] theorem State.setSlot_health (id : Nat) (x : Slot) : (s.setSlot id x).health = s.health := rfl
@[simp] theorem State.setSlot_strands (id : Nat) (x : Slot) : (s.setSlot id x).strands = s.strands := rfl
@[simp] theorem State.setSlot_items (id : Nat) (x : Slot) : (s.setSlot id x).items = s.items := rfl
@[simp] theorem State.setSlot_queues (id : Nat) (x : Slot) : (s.setSlot id x).queues = s.queues := rfl
@[simp] theorem State.setSlot_graphs (id : Nat) (x : Slot) : (s.setSlot id x).graphs = s.graphs := rfl
@[simp] theorem State.setSlot_gfeTurn (id : Nat) (x : Slot) : (s.setSlot id x).gfeTurn = s.gfeTurn := rfl
@[simp] theorem State.setSlot_gfeCmds (id : Nat) (x : Slot) : (s.setSlot id x).gfeCmds = s.gfeCmds := rfl
@[simp] theorem State.setSlot_cvus (id : Nat) (x : Slot) : (s.setSlot id x).cvus = s.cvus := rfl
@[simp] theorem State.setSlot_engOps (id : Nat) (x : Slot) : (s.setSlot id x).engOps = s.engOps := rfl
@[simp] theorem State.setSlot_sr (id : Nat) (x : Slot) : (s.setSlot id x).sr = s.sr := rfl
@[simp] theorem State.setSlot_samples (id : Nat) (x : Slot) : (s.setSlot id x).samples = s.samples := rfl
@[simp] theorem State.setSlot_ms (id : Nat) (x : Slot) : (s.setSlot id x).ms = s.ms := rfl
@[simp] theorem State.setSlot_chambers (id : Nat) (x : Slot) : (s.setSlot id x).chambers = s.chambers := rfl
@[simp] theorem State.setSlot_svy (id : Nat) (x : Slot) : (s.setSlot id x).svy = s.svy := rfl
@[simp] theorem State.setSlot_fab (id : Nat) (x : Slot) : (s.setSlot id x).fab = s.fab := rfl
@[simp] theorem State.setSlot_kv (id : Nat) (x : Slot) : (s.setSlot id x).kv = s.kv := rfl
@[simp] theorem State.setSlot_rte (id : Nat) (x : Slot) : (s.setSlot id x).rte = s.rte := rfl
@[simp] theorem State.setSlot_hlm (id : Nat) (x : Slot) : (s.setSlot id x).hlm = s.hlm := rfl
@[simp] theorem State.setSlot_hbc (id : Nat) (x : Slot) : (s.setSlot id x).hbc = s.hbc := rfl
@[simp] theorem State.setSlot_pwr (id : Nat) (x : Slot) : (s.setSlot id x).pwr = s.pwr := rfl
@[simp] theorem State.setSlot_utcBase (id : Nat) (x : Slot) : (s.setSlot id x).utcBase = s.utcBase := rfl
@[simp] theorem State.setSlot_granules (id : Nat) (x : Slot) : (s.setSlot id x).granules = s.granules := rfl
@[simp] theorem State.setSlot_tb (id : Nat) (x : Slot) : (s.setSlot id x).tb = s.tb := rfl
@[simp] theorem State.setSlot_tbc (id : Nat) (x : Slot) : (s.setSlot id x).tbc = s.tbc := rfl
@[simp] theorem State.setSlot_tru (id : Nat) (x : Slot) : (s.setSlot id x).tru = s.tru := rfl
@[simp] theorem State.setSlot_ctp (id : Nat) (x : Slot) : (s.setSlot id x).ctp = s.ctp := rfl
@[simp] theorem State.setSlot_sec (id : Nat) (x : Slot) : (s.setSlot id x).sec = s.sec := rfl
@[simp] theorem State.setSlot_mgc (id : Nat) (x : Slot) : (s.setSlot id x).mgc = s.mgc := rfl
@[simp] theorem State.setSlot_i3c (id : Nat) (x : Slot) : (s.setSlot id x).i3c = s.i3c := rfl
@[simp] theorem State.setSlot_tap (id : Nat) (x : Slot) : (s.setSlot id x).tap = s.tap := rfl
@[simp] theorem State.setSlot_pins (id : Nat) (x : Slot) : (s.setSlot id x).pins = s.pins := rfl
@[simp] theorem State.setSlot_out (id : Nat) (x : Slot) : (s.setSlot id x).out = s.out := rfl
@[simp] theorem State.rget_setSlot (id : Nat) (x : Slot) (n₂ : Nat) : (s.setSlot id x).rget n₂ = s.rget n₂ := rfl
@[simp] theorem State.fget_setSlot (id : Nat) (x : Slot) (g₂ : Fld) (i₂ j₂ : Nat) : (s.setSlot id x).fget g₂ i₂ j₂ = s.fget g₂ i₂ j₂ := rfl
@[simp] theorem State.healthOf_setSlot (id : Nat) (x : Slot) (n₂ : Nat) : (s.setSlot id x).healthOf n₂ = s.healthOf n₂ := rfl
@[simp] theorem State.chamber_setSlot (id : Nat) (x : Slot) (n₂ : Nat) : (s.setSlot id x).chamber n₂ = s.chamber n₂ := rfl
@[simp] theorem State.strand_setSlot (id : Nat) (x : Slot) (c₂ t₂ : Nat) : (s.setSlot id x).strand c₂ t₂ = s.strand c₂ t₂ := rfl
@[simp] theorem State.queue_setSlot (id : Nat) (x : Slot) (n₂ : Nat) : (s.setSlot id x).queue n₂ = s.queue n₂ := rfl
@[simp] theorem State.item_setSlot (id : Nat) (x : Slot) (k₂ : ItemKey) : (s.setSlot id x).item k₂ = s.item k₂ := rfl
@[simp] theorem State.byte_setSlot (id : Nat) (x : Slot) (n₂ : Nat) : (s.setSlot id x).byte n₂ = s.byte n₂ := rfl
@[simp] theorem State.domain_setSlot (id : Nat) (x : Slot) (n₂ : Nat) : (s.setSlot id x).domain n₂ = s.domain n₂ := rfl
@[simp] theorem State.lane_setSlot (id : Nat) (x : Slot) (n₂ : Nat) : (s.setSlot id x).lane n₂ = s.lane n₂ := rfl
@[simp] theorem State.session_setSlot (id : Nat) (x : Slot) (n₂ : Nat) : (s.setSlot id x).session n₂ = s.session n₂ := rfl
@[simp] theorem State.seq_setSlot (id : Nat) (x : Slot) (n₂ m₂ : Nat) : (s.setSlot id x).seq n₂ m₂ = s.seq n₂ m₂ := rfl

/-! ### `setDomain` writes `pwr` -/

@[simp] theorem State.setDomain_pending (d : Nat) (x : PwrDomain) : (s.setDomain d x).pending = s.pending := rfl
@[simp] theorem State.setDomain_now (d : Nat) (x : PwrDomain) : (s.setDomain d x).now = s.now := rfl
@[simp] theorem State.setDomain_free (d : Nat) (x : PwrDomain) : (s.setDomain d x).free = s.free := rfl
@[simp] theorem State.setDomain_mem (d : Nat) (x : PwrDomain) : (s.setDomain d x).mem = s.mem := rfl
@[simp] theorem State.setDomain_regs (d : Nat) (x : PwrDomain) : (s.setDomain d x).regs = s.regs := rfl
@[simp] theorem State.setDomain_shadows (d : Nat) (x : PwrDomain) : (s.setDomain d x).shadows = s.shadows := rfl
@[simp] theorem State.setDomain_sels (d : Nat) (x : PwrDomain) : (s.setDomain d x).sels = s.sels := rfl
@[simp] theorem State.setDomain_health (d : Nat) (x : PwrDomain) : (s.setDomain d x).health = s.health := rfl
@[simp] theorem State.setDomain_strands (d : Nat) (x : PwrDomain) : (s.setDomain d x).strands = s.strands := rfl
@[simp] theorem State.setDomain_items (d : Nat) (x : PwrDomain) : (s.setDomain d x).items = s.items := rfl
@[simp] theorem State.setDomain_queues (d : Nat) (x : PwrDomain) : (s.setDomain d x).queues = s.queues := rfl
@[simp] theorem State.setDomain_graphs (d : Nat) (x : PwrDomain) : (s.setDomain d x).graphs = s.graphs := rfl
@[simp] theorem State.setDomain_gfeTurn (d : Nat) (x : PwrDomain) : (s.setDomain d x).gfeTurn = s.gfeTurn := rfl
@[simp] theorem State.setDomain_gfeCmds (d : Nat) (x : PwrDomain) : (s.setDomain d x).gfeCmds = s.gfeCmds := rfl
@[simp] theorem State.setDomain_cvus (d : Nat) (x : PwrDomain) : (s.setDomain d x).cvus = s.cvus := rfl
@[simp] theorem State.setDomain_engOps (d : Nat) (x : PwrDomain) : (s.setDomain d x).engOps = s.engOps := rfl
@[simp] theorem State.setDomain_sr (d : Nat) (x : PwrDomain) : (s.setDomain d x).sr = s.sr := rfl
@[simp] theorem State.setDomain_samples (d : Nat) (x : PwrDomain) : (s.setDomain d x).samples = s.samples := rfl
@[simp] theorem State.setDomain_ms (d : Nat) (x : PwrDomain) : (s.setDomain d x).ms = s.ms := rfl
@[simp] theorem State.setDomain_chambers (d : Nat) (x : PwrDomain) : (s.setDomain d x).chambers = s.chambers := rfl
@[simp] theorem State.setDomain_slots (d : Nat) (x : PwrDomain) : (s.setDomain d x).slots = s.slots := rfl
@[simp] theorem State.setDomain_svy (d : Nat) (x : PwrDomain) : (s.setDomain d x).svy = s.svy := rfl
@[simp] theorem State.setDomain_fab (d : Nat) (x : PwrDomain) : (s.setDomain d x).fab = s.fab := rfl
@[simp] theorem State.setDomain_kv (d : Nat) (x : PwrDomain) : (s.setDomain d x).kv = s.kv := rfl
@[simp] theorem State.setDomain_rte (d : Nat) (x : PwrDomain) : (s.setDomain d x).rte = s.rte := rfl
@[simp] theorem State.setDomain_hlm (d : Nat) (x : PwrDomain) : (s.setDomain d x).hlm = s.hlm := rfl
@[simp] theorem State.setDomain_hbc (d : Nat) (x : PwrDomain) : (s.setDomain d x).hbc = s.hbc := rfl
@[simp] theorem State.setDomain_utcBase (d : Nat) (x : PwrDomain) : (s.setDomain d x).utcBase = s.utcBase := rfl
@[simp] theorem State.setDomain_granules (d : Nat) (x : PwrDomain) : (s.setDomain d x).granules = s.granules := rfl
@[simp] theorem State.setDomain_tb (d : Nat) (x : PwrDomain) : (s.setDomain d x).tb = s.tb := rfl
@[simp] theorem State.setDomain_tbc (d : Nat) (x : PwrDomain) : (s.setDomain d x).tbc = s.tbc := rfl
@[simp] theorem State.setDomain_tru (d : Nat) (x : PwrDomain) : (s.setDomain d x).tru = s.tru := rfl
@[simp] theorem State.setDomain_ctp (d : Nat) (x : PwrDomain) : (s.setDomain d x).ctp = s.ctp := rfl
@[simp] theorem State.setDomain_sec (d : Nat) (x : PwrDomain) : (s.setDomain d x).sec = s.sec := rfl
@[simp] theorem State.setDomain_mgc (d : Nat) (x : PwrDomain) : (s.setDomain d x).mgc = s.mgc := rfl
@[simp] theorem State.setDomain_i3c (d : Nat) (x : PwrDomain) : (s.setDomain d x).i3c = s.i3c := rfl
@[simp] theorem State.setDomain_tap (d : Nat) (x : PwrDomain) : (s.setDomain d x).tap = s.tap := rfl
@[simp] theorem State.setDomain_pins (d : Nat) (x : PwrDomain) : (s.setDomain d x).pins = s.pins := rfl
@[simp] theorem State.setDomain_out (d : Nat) (x : PwrDomain) : (s.setDomain d x).out = s.out := rfl
@[simp] theorem State.rget_setDomain (d : Nat) (x : PwrDomain) (n₂ : Nat) : (s.setDomain d x).rget n₂ = s.rget n₂ := rfl
@[simp] theorem State.fget_setDomain (d : Nat) (x : PwrDomain) (g₂ : Fld) (i₂ j₂ : Nat) : (s.setDomain d x).fget g₂ i₂ j₂ = s.fget g₂ i₂ j₂ := rfl
@[simp] theorem State.healthOf_setDomain (d : Nat) (x : PwrDomain) (n₂ : Nat) : (s.setDomain d x).healthOf n₂ = s.healthOf n₂ := rfl
@[simp] theorem State.chamber_setDomain (d : Nat) (x : PwrDomain) (n₂ : Nat) : (s.setDomain d x).chamber n₂ = s.chamber n₂ := rfl
@[simp] theorem State.strand_setDomain (d : Nat) (x : PwrDomain) (c₂ t₂ : Nat) : (s.setDomain d x).strand c₂ t₂ = s.strand c₂ t₂ := rfl
@[simp] theorem State.queue_setDomain (d : Nat) (x : PwrDomain) (n₂ : Nat) : (s.setDomain d x).queue n₂ = s.queue n₂ := rfl
@[simp] theorem State.item_setDomain (d : Nat) (x : PwrDomain) (k₂ : ItemKey) : (s.setDomain d x).item k₂ = s.item k₂ := rfl
@[simp] theorem State.byte_setDomain (d : Nat) (x : PwrDomain) (n₂ : Nat) : (s.setDomain d x).byte n₂ = s.byte n₂ := rfl
@[simp] theorem State.slot_setDomain (d : Nat) (x : PwrDomain) (n₂ : Nat) : (s.setDomain d x).slot n₂ = s.slot n₂ := rfl
@[simp] theorem State.lane_setDomain (d : Nat) (x : PwrDomain) (n₂ : Nat) : (s.setDomain d x).lane n₂ = s.lane n₂ := rfl
@[simp] theorem State.session_setDomain (d : Nat) (x : PwrDomain) (n₂ : Nat) : (s.setDomain d x).session n₂ = s.session n₂ := rfl
@[simp] theorem State.seq_setDomain (d : Nat) (x : PwrDomain) (n₂ m₂ : Nat) : (s.setDomain d x).seq n₂ m₂ = s.seq n₂ m₂ := rfl

/-! ### `setLane` writes `fab` -/

@[simp] theorem State.setLane_pending (l : Nat) (x : Lane) : (s.setLane l x).pending = s.pending := rfl
@[simp] theorem State.setLane_now (l : Nat) (x : Lane) : (s.setLane l x).now = s.now := rfl
@[simp] theorem State.setLane_free (l : Nat) (x : Lane) : (s.setLane l x).free = s.free := rfl
@[simp] theorem State.setLane_mem (l : Nat) (x : Lane) : (s.setLane l x).mem = s.mem := rfl
@[simp] theorem State.setLane_regs (l : Nat) (x : Lane) : (s.setLane l x).regs = s.regs := rfl
@[simp] theorem State.setLane_shadows (l : Nat) (x : Lane) : (s.setLane l x).shadows = s.shadows := rfl
@[simp] theorem State.setLane_sels (l : Nat) (x : Lane) : (s.setLane l x).sels = s.sels := rfl
@[simp] theorem State.setLane_health (l : Nat) (x : Lane) : (s.setLane l x).health = s.health := rfl
@[simp] theorem State.setLane_strands (l : Nat) (x : Lane) : (s.setLane l x).strands = s.strands := rfl
@[simp] theorem State.setLane_items (l : Nat) (x : Lane) : (s.setLane l x).items = s.items := rfl
@[simp] theorem State.setLane_queues (l : Nat) (x : Lane) : (s.setLane l x).queues = s.queues := rfl
@[simp] theorem State.setLane_graphs (l : Nat) (x : Lane) : (s.setLane l x).graphs = s.graphs := rfl
@[simp] theorem State.setLane_gfeTurn (l : Nat) (x : Lane) : (s.setLane l x).gfeTurn = s.gfeTurn := rfl
@[simp] theorem State.setLane_gfeCmds (l : Nat) (x : Lane) : (s.setLane l x).gfeCmds = s.gfeCmds := rfl
@[simp] theorem State.setLane_cvus (l : Nat) (x : Lane) : (s.setLane l x).cvus = s.cvus := rfl
@[simp] theorem State.setLane_engOps (l : Nat) (x : Lane) : (s.setLane l x).engOps = s.engOps := rfl
@[simp] theorem State.setLane_sr (l : Nat) (x : Lane) : (s.setLane l x).sr = s.sr := rfl
@[simp] theorem State.setLane_samples (l : Nat) (x : Lane) : (s.setLane l x).samples = s.samples := rfl
@[simp] theorem State.setLane_ms (l : Nat) (x : Lane) : (s.setLane l x).ms = s.ms := rfl
@[simp] theorem State.setLane_chambers (l : Nat) (x : Lane) : (s.setLane l x).chambers = s.chambers := rfl
@[simp] theorem State.setLane_slots (l : Nat) (x : Lane) : (s.setLane l x).slots = s.slots := rfl
@[simp] theorem State.setLane_svy (l : Nat) (x : Lane) : (s.setLane l x).svy = s.svy := rfl
@[simp] theorem State.setLane_kv (l : Nat) (x : Lane) : (s.setLane l x).kv = s.kv := rfl
@[simp] theorem State.setLane_rte (l : Nat) (x : Lane) : (s.setLane l x).rte = s.rte := rfl
@[simp] theorem State.setLane_hlm (l : Nat) (x : Lane) : (s.setLane l x).hlm = s.hlm := rfl
@[simp] theorem State.setLane_hbc (l : Nat) (x : Lane) : (s.setLane l x).hbc = s.hbc := rfl
@[simp] theorem State.setLane_pwr (l : Nat) (x : Lane) : (s.setLane l x).pwr = s.pwr := rfl
@[simp] theorem State.setLane_utcBase (l : Nat) (x : Lane) : (s.setLane l x).utcBase = s.utcBase := rfl
@[simp] theorem State.setLane_granules (l : Nat) (x : Lane) : (s.setLane l x).granules = s.granules := rfl
@[simp] theorem State.setLane_tb (l : Nat) (x : Lane) : (s.setLane l x).tb = s.tb := rfl
@[simp] theorem State.setLane_tbc (l : Nat) (x : Lane) : (s.setLane l x).tbc = s.tbc := rfl
@[simp] theorem State.setLane_tru (l : Nat) (x : Lane) : (s.setLane l x).tru = s.tru := rfl
@[simp] theorem State.setLane_ctp (l : Nat) (x : Lane) : (s.setLane l x).ctp = s.ctp := rfl
@[simp] theorem State.setLane_sec (l : Nat) (x : Lane) : (s.setLane l x).sec = s.sec := rfl
@[simp] theorem State.setLane_mgc (l : Nat) (x : Lane) : (s.setLane l x).mgc = s.mgc := rfl
@[simp] theorem State.setLane_i3c (l : Nat) (x : Lane) : (s.setLane l x).i3c = s.i3c := rfl
@[simp] theorem State.setLane_tap (l : Nat) (x : Lane) : (s.setLane l x).tap = s.tap := rfl
@[simp] theorem State.setLane_pins (l : Nat) (x : Lane) : (s.setLane l x).pins = s.pins := rfl
@[simp] theorem State.setLane_out (l : Nat) (x : Lane) : (s.setLane l x).out = s.out := rfl
@[simp] theorem State.rget_setLane (l : Nat) (x : Lane) (n₂ : Nat) : (s.setLane l x).rget n₂ = s.rget n₂ := rfl
@[simp] theorem State.fget_setLane (l : Nat) (x : Lane) (g₂ : Fld) (i₂ j₂ : Nat) : (s.setLane l x).fget g₂ i₂ j₂ = s.fget g₂ i₂ j₂ := rfl
@[simp] theorem State.healthOf_setLane (l : Nat) (x : Lane) (n₂ : Nat) : (s.setLane l x).healthOf n₂ = s.healthOf n₂ := rfl
@[simp] theorem State.chamber_setLane (l : Nat) (x : Lane) (n₂ : Nat) : (s.setLane l x).chamber n₂ = s.chamber n₂ := rfl
@[simp] theorem State.strand_setLane (l : Nat) (x : Lane) (c₂ t₂ : Nat) : (s.setLane l x).strand c₂ t₂ = s.strand c₂ t₂ := rfl
@[simp] theorem State.queue_setLane (l : Nat) (x : Lane) (n₂ : Nat) : (s.setLane l x).queue n₂ = s.queue n₂ := rfl
@[simp] theorem State.item_setLane (l : Nat) (x : Lane) (k₂ : ItemKey) : (s.setLane l x).item k₂ = s.item k₂ := rfl
@[simp] theorem State.byte_setLane (l : Nat) (x : Lane) (n₂ : Nat) : (s.setLane l x).byte n₂ = s.byte n₂ := rfl
@[simp] theorem State.slot_setLane (l : Nat) (x : Lane) (n₂ : Nat) : (s.setLane l x).slot n₂ = s.slot n₂ := rfl
@[simp] theorem State.domain_setLane (l : Nat) (x : Lane) (n₂ : Nat) : (s.setLane l x).domain n₂ = s.domain n₂ := rfl
@[simp] theorem State.session_setLane (l : Nat) (x : Lane) (n₂ : Nat) : (s.setLane l x).session n₂ = s.session n₂ := rfl
@[simp] theorem State.seq_setLane (l : Nat) (x : Lane) (n₂ m₂ : Nat) : (s.setLane l x).seq n₂ m₂ = s.seq n₂ m₂ := rfl

/-! ### `setSeq` writes `kv` -/

@[simp] theorem State.setSeq_pending (n id : Nat) (x : Seq) : (s.setSeq n id x).pending = s.pending := rfl
@[simp] theorem State.setSeq_now (n id : Nat) (x : Seq) : (s.setSeq n id x).now = s.now := rfl
@[simp] theorem State.setSeq_free (n id : Nat) (x : Seq) : (s.setSeq n id x).free = s.free := rfl
@[simp] theorem State.setSeq_mem (n id : Nat) (x : Seq) : (s.setSeq n id x).mem = s.mem := rfl
@[simp] theorem State.setSeq_regs (n id : Nat) (x : Seq) : (s.setSeq n id x).regs = s.regs := rfl
@[simp] theorem State.setSeq_shadows (n id : Nat) (x : Seq) : (s.setSeq n id x).shadows = s.shadows := rfl
@[simp] theorem State.setSeq_sels (n id : Nat) (x : Seq) : (s.setSeq n id x).sels = s.sels := rfl
@[simp] theorem State.setSeq_health (n id : Nat) (x : Seq) : (s.setSeq n id x).health = s.health := rfl
@[simp] theorem State.setSeq_strands (n id : Nat) (x : Seq) : (s.setSeq n id x).strands = s.strands := rfl
@[simp] theorem State.setSeq_items (n id : Nat) (x : Seq) : (s.setSeq n id x).items = s.items := rfl
@[simp] theorem State.setSeq_queues (n id : Nat) (x : Seq) : (s.setSeq n id x).queues = s.queues := rfl
@[simp] theorem State.setSeq_graphs (n id : Nat) (x : Seq) : (s.setSeq n id x).graphs = s.graphs := rfl
@[simp] theorem State.setSeq_gfeTurn (n id : Nat) (x : Seq) : (s.setSeq n id x).gfeTurn = s.gfeTurn := rfl
@[simp] theorem State.setSeq_gfeCmds (n id : Nat) (x : Seq) : (s.setSeq n id x).gfeCmds = s.gfeCmds := rfl
@[simp] theorem State.setSeq_cvus (n id : Nat) (x : Seq) : (s.setSeq n id x).cvus = s.cvus := rfl
@[simp] theorem State.setSeq_engOps (n id : Nat) (x : Seq) : (s.setSeq n id x).engOps = s.engOps := rfl
@[simp] theorem State.setSeq_sr (n id : Nat) (x : Seq) : (s.setSeq n id x).sr = s.sr := rfl
@[simp] theorem State.setSeq_samples (n id : Nat) (x : Seq) : (s.setSeq n id x).samples = s.samples := rfl
@[simp] theorem State.setSeq_ms (n id : Nat) (x : Seq) : (s.setSeq n id x).ms = s.ms := rfl
@[simp] theorem State.setSeq_chambers (n id : Nat) (x : Seq) : (s.setSeq n id x).chambers = s.chambers := rfl
@[simp] theorem State.setSeq_slots (n id : Nat) (x : Seq) : (s.setSeq n id x).slots = s.slots := rfl
@[simp] theorem State.setSeq_svy (n id : Nat) (x : Seq) : (s.setSeq n id x).svy = s.svy := rfl
@[simp] theorem State.setSeq_fab (n id : Nat) (x : Seq) : (s.setSeq n id x).fab = s.fab := rfl
@[simp] theorem State.setSeq_rte (n id : Nat) (x : Seq) : (s.setSeq n id x).rte = s.rte := rfl
@[simp] theorem State.setSeq_hlm (n id : Nat) (x : Seq) : (s.setSeq n id x).hlm = s.hlm := rfl
@[simp] theorem State.setSeq_hbc (n id : Nat) (x : Seq) : (s.setSeq n id x).hbc = s.hbc := rfl
@[simp] theorem State.setSeq_pwr (n id : Nat) (x : Seq) : (s.setSeq n id x).pwr = s.pwr := rfl
@[simp] theorem State.setSeq_utcBase (n id : Nat) (x : Seq) : (s.setSeq n id x).utcBase = s.utcBase := rfl
@[simp] theorem State.setSeq_granules (n id : Nat) (x : Seq) : (s.setSeq n id x).granules = s.granules := rfl
@[simp] theorem State.setSeq_tb (n id : Nat) (x : Seq) : (s.setSeq n id x).tb = s.tb := rfl
@[simp] theorem State.setSeq_tbc (n id : Nat) (x : Seq) : (s.setSeq n id x).tbc = s.tbc := rfl
@[simp] theorem State.setSeq_tru (n id : Nat) (x : Seq) : (s.setSeq n id x).tru = s.tru := rfl
@[simp] theorem State.setSeq_ctp (n id : Nat) (x : Seq) : (s.setSeq n id x).ctp = s.ctp := rfl
@[simp] theorem State.setSeq_sec (n id : Nat) (x : Seq) : (s.setSeq n id x).sec = s.sec := rfl
@[simp] theorem State.setSeq_mgc (n id : Nat) (x : Seq) : (s.setSeq n id x).mgc = s.mgc := rfl
@[simp] theorem State.setSeq_i3c (n id : Nat) (x : Seq) : (s.setSeq n id x).i3c = s.i3c := rfl
@[simp] theorem State.setSeq_tap (n id : Nat) (x : Seq) : (s.setSeq n id x).tap = s.tap := rfl
@[simp] theorem State.setSeq_pins (n id : Nat) (x : Seq) : (s.setSeq n id x).pins = s.pins := rfl
@[simp] theorem State.setSeq_out (n id : Nat) (x : Seq) : (s.setSeq n id x).out = s.out := rfl
@[simp] theorem State.rget_setSeq (n id : Nat) (x : Seq) (n₂ : Nat) : (s.setSeq n id x).rget n₂ = s.rget n₂ := rfl
@[simp] theorem State.fget_setSeq (n id : Nat) (x : Seq) (g₂ : Fld) (i₂ j₂ : Nat) : (s.setSeq n id x).fget g₂ i₂ j₂ = s.fget g₂ i₂ j₂ := rfl
@[simp] theorem State.healthOf_setSeq (n id : Nat) (x : Seq) (n₂ : Nat) : (s.setSeq n id x).healthOf n₂ = s.healthOf n₂ := rfl
@[simp] theorem State.chamber_setSeq (n id : Nat) (x : Seq) (n₂ : Nat) : (s.setSeq n id x).chamber n₂ = s.chamber n₂ := rfl
@[simp] theorem State.strand_setSeq (n id : Nat) (x : Seq) (c₂ t₂ : Nat) : (s.setSeq n id x).strand c₂ t₂ = s.strand c₂ t₂ := rfl
@[simp] theorem State.queue_setSeq (n id : Nat) (x : Seq) (n₂ : Nat) : (s.setSeq n id x).queue n₂ = s.queue n₂ := rfl
@[simp] theorem State.item_setSeq (n id : Nat) (x : Seq) (k₂ : ItemKey) : (s.setSeq n id x).item k₂ = s.item k₂ := rfl
@[simp] theorem State.byte_setSeq (n id : Nat) (x : Seq) (n₂ : Nat) : (s.setSeq n id x).byte n₂ = s.byte n₂ := rfl
@[simp] theorem State.slot_setSeq (n id : Nat) (x : Seq) (n₂ : Nat) : (s.setSeq n id x).slot n₂ = s.slot n₂ := rfl
@[simp] theorem State.domain_setSeq (n id : Nat) (x : Seq) (n₂ : Nat) : (s.setSeq n id x).domain n₂ = s.domain n₂ := rfl
@[simp] theorem State.lane_setSeq (n id : Nat) (x : Seq) (n₂ : Nat) : (s.setSeq n id x).lane n₂ = s.lane n₂ := rfl
@[simp] theorem State.session_setSeq (n id : Nat) (x : Seq) (n₂ : Nat) : (s.setSeq n id x).session n₂ = s.session n₂ := rfl

/-! ### `setSrGen` writes `sr` -/

@[simp] theorem State.setSrGen_pending (c : Nat) (vxe : Bool) (g : SrGen) : (s.setSrGen c vxe g).pending = s.pending := rfl
@[simp] theorem State.setSrGen_now (c : Nat) (vxe : Bool) (g : SrGen) : (s.setSrGen c vxe g).now = s.now := rfl
@[simp] theorem State.setSrGen_free (c : Nat) (vxe : Bool) (g : SrGen) : (s.setSrGen c vxe g).free = s.free := rfl
@[simp] theorem State.setSrGen_mem (c : Nat) (vxe : Bool) (g : SrGen) : (s.setSrGen c vxe g).mem = s.mem := rfl
@[simp] theorem State.setSrGen_regs (c : Nat) (vxe : Bool) (g : SrGen) : (s.setSrGen c vxe g).regs = s.regs := rfl
@[simp] theorem State.setSrGen_shadows (c : Nat) (vxe : Bool) (g : SrGen) : (s.setSrGen c vxe g).shadows = s.shadows := rfl
@[simp] theorem State.setSrGen_sels (c : Nat) (vxe : Bool) (g : SrGen) : (s.setSrGen c vxe g).sels = s.sels := rfl
@[simp] theorem State.setSrGen_health (c : Nat) (vxe : Bool) (g : SrGen) : (s.setSrGen c vxe g).health = s.health := rfl
@[simp] theorem State.setSrGen_strands (c : Nat) (vxe : Bool) (g : SrGen) : (s.setSrGen c vxe g).strands = s.strands := rfl
@[simp] theorem State.setSrGen_items (c : Nat) (vxe : Bool) (g : SrGen) : (s.setSrGen c vxe g).items = s.items := rfl
@[simp] theorem State.setSrGen_queues (c : Nat) (vxe : Bool) (g : SrGen) : (s.setSrGen c vxe g).queues = s.queues := rfl
@[simp] theorem State.setSrGen_graphs (c : Nat) (vxe : Bool) (g : SrGen) : (s.setSrGen c vxe g).graphs = s.graphs := rfl
@[simp] theorem State.setSrGen_gfeTurn (c : Nat) (vxe : Bool) (g : SrGen) : (s.setSrGen c vxe g).gfeTurn = s.gfeTurn := rfl
@[simp] theorem State.setSrGen_gfeCmds (c : Nat) (vxe : Bool) (g : SrGen) : (s.setSrGen c vxe g).gfeCmds = s.gfeCmds := rfl
@[simp] theorem State.setSrGen_cvus (c : Nat) (vxe : Bool) (g : SrGen) : (s.setSrGen c vxe g).cvus = s.cvus := rfl
@[simp] theorem State.setSrGen_engOps (c : Nat) (vxe : Bool) (g : SrGen) : (s.setSrGen c vxe g).engOps = s.engOps := rfl
@[simp] theorem State.setSrGen_samples (c : Nat) (vxe : Bool) (g : SrGen) : (s.setSrGen c vxe g).samples = s.samples := rfl
@[simp] theorem State.setSrGen_ms (c : Nat) (vxe : Bool) (g : SrGen) : (s.setSrGen c vxe g).ms = s.ms := rfl
@[simp] theorem State.setSrGen_chambers (c : Nat) (vxe : Bool) (g : SrGen) : (s.setSrGen c vxe g).chambers = s.chambers := rfl
@[simp] theorem State.setSrGen_slots (c : Nat) (vxe : Bool) (g : SrGen) : (s.setSrGen c vxe g).slots = s.slots := rfl
@[simp] theorem State.setSrGen_svy (c : Nat) (vxe : Bool) (g : SrGen) : (s.setSrGen c vxe g).svy = s.svy := rfl
@[simp] theorem State.setSrGen_fab (c : Nat) (vxe : Bool) (g : SrGen) : (s.setSrGen c vxe g).fab = s.fab := rfl
@[simp] theorem State.setSrGen_kv (c : Nat) (vxe : Bool) (g : SrGen) : (s.setSrGen c vxe g).kv = s.kv := rfl
@[simp] theorem State.setSrGen_rte (c : Nat) (vxe : Bool) (g : SrGen) : (s.setSrGen c vxe g).rte = s.rte := rfl
@[simp] theorem State.setSrGen_hlm (c : Nat) (vxe : Bool) (g : SrGen) : (s.setSrGen c vxe g).hlm = s.hlm := rfl
@[simp] theorem State.setSrGen_hbc (c : Nat) (vxe : Bool) (g : SrGen) : (s.setSrGen c vxe g).hbc = s.hbc := rfl
@[simp] theorem State.setSrGen_pwr (c : Nat) (vxe : Bool) (g : SrGen) : (s.setSrGen c vxe g).pwr = s.pwr := rfl
@[simp] theorem State.setSrGen_utcBase (c : Nat) (vxe : Bool) (g : SrGen) : (s.setSrGen c vxe g).utcBase = s.utcBase := rfl
@[simp] theorem State.setSrGen_granules (c : Nat) (vxe : Bool) (g : SrGen) : (s.setSrGen c vxe g).granules = s.granules := rfl
@[simp] theorem State.setSrGen_tb (c : Nat) (vxe : Bool) (g : SrGen) : (s.setSrGen c vxe g).tb = s.tb := rfl
@[simp] theorem State.setSrGen_tbc (c : Nat) (vxe : Bool) (g : SrGen) : (s.setSrGen c vxe g).tbc = s.tbc := rfl
@[simp] theorem State.setSrGen_tru (c : Nat) (vxe : Bool) (g : SrGen) : (s.setSrGen c vxe g).tru = s.tru := rfl
@[simp] theorem State.setSrGen_ctp (c : Nat) (vxe : Bool) (g : SrGen) : (s.setSrGen c vxe g).ctp = s.ctp := rfl
@[simp] theorem State.setSrGen_sec (c : Nat) (vxe : Bool) (g : SrGen) : (s.setSrGen c vxe g).sec = s.sec := rfl
@[simp] theorem State.setSrGen_mgc (c : Nat) (vxe : Bool) (g : SrGen) : (s.setSrGen c vxe g).mgc = s.mgc := rfl
@[simp] theorem State.setSrGen_i3c (c : Nat) (vxe : Bool) (g : SrGen) : (s.setSrGen c vxe g).i3c = s.i3c := rfl
@[simp] theorem State.setSrGen_tap (c : Nat) (vxe : Bool) (g : SrGen) : (s.setSrGen c vxe g).tap = s.tap := rfl
@[simp] theorem State.setSrGen_pins (c : Nat) (vxe : Bool) (g : SrGen) : (s.setSrGen c vxe g).pins = s.pins := rfl
@[simp] theorem State.setSrGen_out (c : Nat) (vxe : Bool) (g : SrGen) : (s.setSrGen c vxe g).out = s.out := rfl
@[simp] theorem State.rget_setSrGen (c : Nat) (vxe : Bool) (g : SrGen) (n₂ : Nat) : (s.setSrGen c vxe g).rget n₂ = s.rget n₂ := rfl
@[simp] theorem State.fget_setSrGen (c : Nat) (vxe : Bool) (g : SrGen) (g₂ : Fld) (i₂ j₂ : Nat) : (s.setSrGen c vxe g).fget g₂ i₂ j₂ = s.fget g₂ i₂ j₂ := rfl
@[simp] theorem State.healthOf_setSrGen (c : Nat) (vxe : Bool) (g : SrGen) (n₂ : Nat) : (s.setSrGen c vxe g).healthOf n₂ = s.healthOf n₂ := rfl
@[simp] theorem State.chamber_setSrGen (c : Nat) (vxe : Bool) (g : SrGen) (n₂ : Nat) : (s.setSrGen c vxe g).chamber n₂ = s.chamber n₂ := rfl
@[simp] theorem State.strand_setSrGen (c : Nat) (vxe : Bool) (g : SrGen) (c₂ t₂ : Nat) : (s.setSrGen c vxe g).strand c₂ t₂ = s.strand c₂ t₂ := rfl
@[simp] theorem State.queue_setSrGen (c : Nat) (vxe : Bool) (g : SrGen) (n₂ : Nat) : (s.setSrGen c vxe g).queue n₂ = s.queue n₂ := rfl
@[simp] theorem State.item_setSrGen (c : Nat) (vxe : Bool) (g : SrGen) (k₂ : ItemKey) : (s.setSrGen c vxe g).item k₂ = s.item k₂ := rfl
@[simp] theorem State.byte_setSrGen (c : Nat) (vxe : Bool) (g : SrGen) (n₂ : Nat) : (s.setSrGen c vxe g).byte n₂ = s.byte n₂ := rfl
@[simp] theorem State.slot_setSrGen (c : Nat) (vxe : Bool) (g : SrGen) (n₂ : Nat) : (s.setSrGen c vxe g).slot n₂ = s.slot n₂ := rfl
@[simp] theorem State.domain_setSrGen (c : Nat) (vxe : Bool) (g : SrGen) (n₂ : Nat) : (s.setSrGen c vxe g).domain n₂ = s.domain n₂ := rfl
@[simp] theorem State.lane_setSrGen (c : Nat) (vxe : Bool) (g : SrGen) (n₂ : Nat) : (s.setSrGen c vxe g).lane n₂ = s.lane n₂ := rfl
@[simp] theorem State.session_setSrGen (c : Nat) (vxe : Bool) (g : SrGen) (n₂ : Nat) : (s.setSrGen c vxe g).session n₂ = s.session n₂ := rfl
@[simp] theorem State.seq_setSrGen (c : Nat) (vxe : Bool) (g : SrGen) (n₂ m₂ : Nat) : (s.setSrGen c vxe g).seq n₂ m₂ = s.seq n₂ m₂ := rfl

/-! ### `setSample` writes `samples` -/

@[simp] theorem State.setSample_pending (c : Nat) (v : Option Nat) : (s.setSample c v).pending = s.pending := rfl
@[simp] theorem State.setSample_now (c : Nat) (v : Option Nat) : (s.setSample c v).now = s.now := rfl
@[simp] theorem State.setSample_free (c : Nat) (v : Option Nat) : (s.setSample c v).free = s.free := rfl
@[simp] theorem State.setSample_mem (c : Nat) (v : Option Nat) : (s.setSample c v).mem = s.mem := rfl
@[simp] theorem State.setSample_regs (c : Nat) (v : Option Nat) : (s.setSample c v).regs = s.regs := rfl
@[simp] theorem State.setSample_shadows (c : Nat) (v : Option Nat) : (s.setSample c v).shadows = s.shadows := rfl
@[simp] theorem State.setSample_sels (c : Nat) (v : Option Nat) : (s.setSample c v).sels = s.sels := rfl
@[simp] theorem State.setSample_health (c : Nat) (v : Option Nat) : (s.setSample c v).health = s.health := rfl
@[simp] theorem State.setSample_strands (c : Nat) (v : Option Nat) : (s.setSample c v).strands = s.strands := rfl
@[simp] theorem State.setSample_items (c : Nat) (v : Option Nat) : (s.setSample c v).items = s.items := rfl
@[simp] theorem State.setSample_queues (c : Nat) (v : Option Nat) : (s.setSample c v).queues = s.queues := rfl
@[simp] theorem State.setSample_graphs (c : Nat) (v : Option Nat) : (s.setSample c v).graphs = s.graphs := rfl
@[simp] theorem State.setSample_gfeTurn (c : Nat) (v : Option Nat) : (s.setSample c v).gfeTurn = s.gfeTurn := rfl
@[simp] theorem State.setSample_gfeCmds (c : Nat) (v : Option Nat) : (s.setSample c v).gfeCmds = s.gfeCmds := rfl
@[simp] theorem State.setSample_cvus (c : Nat) (v : Option Nat) : (s.setSample c v).cvus = s.cvus := rfl
@[simp] theorem State.setSample_engOps (c : Nat) (v : Option Nat) : (s.setSample c v).engOps = s.engOps := rfl
@[simp] theorem State.setSample_sr (c : Nat) (v : Option Nat) : (s.setSample c v).sr = s.sr := rfl
@[simp] theorem State.setSample_ms (c : Nat) (v : Option Nat) : (s.setSample c v).ms = s.ms := rfl
@[simp] theorem State.setSample_chambers (c : Nat) (v : Option Nat) : (s.setSample c v).chambers = s.chambers := rfl
@[simp] theorem State.setSample_slots (c : Nat) (v : Option Nat) : (s.setSample c v).slots = s.slots := rfl
@[simp] theorem State.setSample_svy (c : Nat) (v : Option Nat) : (s.setSample c v).svy = s.svy := rfl
@[simp] theorem State.setSample_fab (c : Nat) (v : Option Nat) : (s.setSample c v).fab = s.fab := rfl
@[simp] theorem State.setSample_kv (c : Nat) (v : Option Nat) : (s.setSample c v).kv = s.kv := rfl
@[simp] theorem State.setSample_rte (c : Nat) (v : Option Nat) : (s.setSample c v).rte = s.rte := rfl
@[simp] theorem State.setSample_hlm (c : Nat) (v : Option Nat) : (s.setSample c v).hlm = s.hlm := rfl
@[simp] theorem State.setSample_hbc (c : Nat) (v : Option Nat) : (s.setSample c v).hbc = s.hbc := rfl
@[simp] theorem State.setSample_pwr (c : Nat) (v : Option Nat) : (s.setSample c v).pwr = s.pwr := rfl
@[simp] theorem State.setSample_utcBase (c : Nat) (v : Option Nat) : (s.setSample c v).utcBase = s.utcBase := rfl
@[simp] theorem State.setSample_granules (c : Nat) (v : Option Nat) : (s.setSample c v).granules = s.granules := rfl
@[simp] theorem State.setSample_tb (c : Nat) (v : Option Nat) : (s.setSample c v).tb = s.tb := rfl
@[simp] theorem State.setSample_tbc (c : Nat) (v : Option Nat) : (s.setSample c v).tbc = s.tbc := rfl
@[simp] theorem State.setSample_tru (c : Nat) (v : Option Nat) : (s.setSample c v).tru = s.tru := rfl
@[simp] theorem State.setSample_ctp (c : Nat) (v : Option Nat) : (s.setSample c v).ctp = s.ctp := rfl
@[simp] theorem State.setSample_sec (c : Nat) (v : Option Nat) : (s.setSample c v).sec = s.sec := rfl
@[simp] theorem State.setSample_mgc (c : Nat) (v : Option Nat) : (s.setSample c v).mgc = s.mgc := rfl
@[simp] theorem State.setSample_i3c (c : Nat) (v : Option Nat) : (s.setSample c v).i3c = s.i3c := rfl
@[simp] theorem State.setSample_tap (c : Nat) (v : Option Nat) : (s.setSample c v).tap = s.tap := rfl
@[simp] theorem State.setSample_pins (c : Nat) (v : Option Nat) : (s.setSample c v).pins = s.pins := rfl
@[simp] theorem State.setSample_out (c : Nat) (v : Option Nat) : (s.setSample c v).out = s.out := rfl
@[simp] theorem State.rget_setSample (c : Nat) (v : Option Nat) (n₂ : Nat) : (s.setSample c v).rget n₂ = s.rget n₂ := rfl
@[simp] theorem State.fget_setSample (c : Nat) (v : Option Nat) (g₂ : Fld) (i₂ j₂ : Nat) : (s.setSample c v).fget g₂ i₂ j₂ = s.fget g₂ i₂ j₂ := rfl
@[simp] theorem State.healthOf_setSample (c : Nat) (v : Option Nat) (n₂ : Nat) : (s.setSample c v).healthOf n₂ = s.healthOf n₂ := rfl
@[simp] theorem State.chamber_setSample (c : Nat) (v : Option Nat) (n₂ : Nat) : (s.setSample c v).chamber n₂ = s.chamber n₂ := rfl
@[simp] theorem State.strand_setSample (c : Nat) (v : Option Nat) (c₂ t₂ : Nat) : (s.setSample c v).strand c₂ t₂ = s.strand c₂ t₂ := rfl
@[simp] theorem State.queue_setSample (c : Nat) (v : Option Nat) (n₂ : Nat) : (s.setSample c v).queue n₂ = s.queue n₂ := rfl
@[simp] theorem State.item_setSample (c : Nat) (v : Option Nat) (k₂ : ItemKey) : (s.setSample c v).item k₂ = s.item k₂ := rfl
@[simp] theorem State.byte_setSample (c : Nat) (v : Option Nat) (n₂ : Nat) : (s.setSample c v).byte n₂ = s.byte n₂ := rfl
@[simp] theorem State.slot_setSample (c : Nat) (v : Option Nat) (n₂ : Nat) : (s.setSample c v).slot n₂ = s.slot n₂ := rfl
@[simp] theorem State.domain_setSample (c : Nat) (v : Option Nat) (n₂ : Nat) : (s.setSample c v).domain n₂ = s.domain n₂ := rfl
@[simp] theorem State.lane_setSample (c : Nat) (v : Option Nat) (n₂ : Nat) : (s.setSample c v).lane n₂ = s.lane n₂ := rfl
@[simp] theorem State.session_setSample (c : Nat) (v : Option Nat) (n₂ : Nat) : (s.setSample c v).session n₂ = s.session n₂ := rfl
@[simp] theorem State.seq_setSample (c : Nat) (v : Option Nat) (n₂ m₂ : Nat) : (s.setSample c v).seq n₂ m₂ = s.seq n₂ m₂ := rfl

end Sys2Proof.Machine
end

