-- ==== Sys2Proof/Laws/Strands.lean ====
section
/-! SUPPORT. What a strand's context holds after each update of it, and what an issue does. -/

namespace Sys2Proof.Machine

/-! ### The scalar registers of a context -/

theorem Strand.reg_setReg (x : Strand) (r : Nat) (w : Word) {k : Nat} (hk : k < 8) :
    (x.setReg r w).reg k = if k = r then w else x.reg k := by
  simp only [Strand.setReg, Strand.reg, List.getD_eq_getElem?_getD]
  rw [List.getElem?_map, List.getElem?_range hk]; rfl

@[simp] theorem Strand.setReg_pc (x : Strand) (r : Nat) (w : Word) : (x.setReg r w).pc = x.pc := rfl
@[simp] theorem Strand.setReg_mode (x : Strand) (r : Nat) (w : Word) : (x.setReg r w).mode = x.mode := rfl
@[simp] theorem Strand.setReg_notReady (x : Strand) (r : Nat) (w : Word) : (x.setReg r w).notReady = x.notReady := rfl
@[simp] theorem Strand.setPair_pc (x : Strand) (r v : Nat) : (x.setPair r v).pc = x.pc := rfl
@[simp] theorem Strand.mark_pc (x : Strand) (m : Nat) : (x.mark m).pc = x.pc := rfl
@[simp] theorem Strand.mark_regs (x : Strand) (m : Nat) : (x.mark m).regs = x.regs := rfl
@[simp] theorem Strand.unmark_regs (x : Strand) (m : Nat) : (x.unmark m).regs = x.regs := rfl
@[simp] theorem Strand.issued_regs (x : Strand) (pc : Nat) : (x.issued pc).regs = x.regs := rfl

/-! ### The context of a strand after one is replaced -/

@[simp] theorem State.strand_setStrand_self (s : State) (c t : Nat) (x : Strand) : (s.setStrand c t x).strand c t = x := by
  simp [State.strand, State.setStrand]

theorem State.strand_setStrand_ne (s : State) {c t d u : Nat} (x : Strand) (ht : t < 8192) (hu : u < 8192)
    (h : (d, u) ≠ (c, t)) : (s.setStrand c t x).strand d u = s.strand d u := by
  rw [State.strand, State.setStrand, smGet_smPut, if_neg, ← State.strand]
  intro e; apply h; simp only [strandKey] at e; ext <;> simp <;> omega

@[simp] theorem State.queue_setQueue_self (s : State) (q : Nat) (x : Queue) : (s.setQueue q x).queue q = x := by
  simp [State.queue, State.setQueue]

theorem State.queue_setQueue_ne (s : State) {q p : Nat} (x : Queue) (h : q ≠ p) : (s.setQueue q x).queue p = s.queue p := by
  simp [State.queue, State.setQueue, smGet_smPut, h]

@[simp] theorem State.slot_setSlot_self (s : State) (id : Nat) (x : Slot) : (s.setSlot id x).slot id = x := by
  simp [State.slot, State.setSlot]

theorem State.slot_setSlot_ne (s : State) {a b : Nat} (x : Slot) (h : a ≠ b) : (s.setSlot a x).slot b = s.slot b := by
  simp [State.slot, State.setSlot, smGet_smPut, h]

@[simp] theorem State.lane_setLane_self (s : State) (l : Nat) (x : Lane) : (s.setLane l x).lane l = x := by
  simp [State.lane, State.setLane]

theorem State.lane_setLane_ne (s : State) {a b : Nat} (x : Lane) (h : a ≠ b) : (s.setLane a x).lane b = s.lane b := by
  simp [State.lane, State.setLane, smGet_smPut, h]

@[simp] theorem State.seq_setSeq_self (s : State) (n id : Nat) (x : Seq) : (s.setSeq n id x).seq n id = x := by
  simp [State.seq, State.setSeq]

/-! ### Issue -/

/-- An instruction that issues acts on its word and its strand's context; everything else about issue is decided by `canIssue`
(R49, R50). -/
theorem State.issue_of_canIssue {s : State} {c t : Nat} {w : Word64} {mine : Word64 → Bool}
    {act : Word64 → Strand → State → State} (h : s.canIssue c t w) (hm : mine w = true) :
    s.issue c t mine act = act w (s.strand c t) s := by
  obtain ⟨h1, h2, h3, h4, h5⟩ := h
  simp [State.issue, h1, h2, h3, h4, h5, hm]

/-- A strand none of whose sources awaits a value goes on; one that waits leaves everything else as it was (R55, R206). -/
theorem State.needing_of_ready {s k : State} {c t mask : Nat} (h : (s.strand c t).notReady &&& mask = 0) :
    s.needing c t mask k = k := if_pos h

theorem State.needing_of_waiting {s k : State} {c t mask : Nat} (h : (s.strand c t).notReady &&& mask ≠ 0) :
    s.needing c t mask k = s.stall c t (.regs mask) := if_neg h

/-- An issued instruction replaces its strand's context and nothing else. -/
theorem State.advance_eq (s : State) (c t : Nat) (x : Strand) : s.advance c t x = s.setStrand c t (x.issued (x.pc + 8)) := rfl

end Sys2Proof.Machine
end

