-- ==== Sys2Proof/Laws/Shared.lean ====
section
/-! SUPPORT. What the operations that many commands share do, once what decides them is known: an engine accepts an instruction, a
packet arrives, a session's frame is taken. -/

namespace Sys2Proof.Machine

/-! ### Engines (R32, R177, R206) -/

/-- An instruction that joins its queue stands last. -/
theorem State.enqueue_engOps (s : State) (c t : Nat) (x : Strand) (w : Word64) (eng : Engine) (sreg : Nat) (desc : List Byte)
    (aux : List Nat) (hx : x.current = (s.strand c t).current) :
    (s.enqueue c t x w eng sreg desc aux).engOps = s.engOps ++ [s.newOp eng c t sreg w desc aux] := by
  simp [State.enqueue, State.newOp, State.advance, State.setStrand, hx]

/-- With room in an engine's queue and every instruction before it decoded, an instruction joins the queue and is held, waits or is
decoded (R32, R181). -/
theorem State.accept_decodes {s : State} {c t : Nat} {x : Strand} {w : Word64} {eng : Engine} {sreg : Nat} {desc : List Byte}
    {aux : List Nat} {d : Decoder} (hr : s.engineRoom c eng.index = true) (hx : x.current = (s.strand c t).current)
    (hq : s.DecodedUp (s.newOp eng c t sreg w desc aux).queue) :
    let u := s.enqueue c t x w eng sreg desc aux
    let o := s.newOp eng c t sreg w desc aux
    s.accept c t x w eng sreg desc aux d =
      if (d.names u o).any (u.closedTo o.item) then u.gate o else if d.waits u o then u else d.decode u o := by
  have ho := s.enqueue_engOps c t x w eng sreg desc aux hx
  have hf : (s.enqueue c t x w eng sreg desc aux).engOps.filter
      (fun p => !p.decoded && p.queue == (s.newOp eng c t sreg w desc aux).queue) = [s.newOp eng c t sreg w desc aux] := by
    rw [ho, List.filter_append, List.filter_eq_nil_iff.mpr]
    · simp [State.newOp]
    · intro p hp; by_cases h : p.queue = (s.newOp eng c t sreg w desc aux).queue
      · simp [(hq p hp).2 h]
      · simp [h]
  have he : (s.enqueue c t x w eng sreg desc aux).engOp s.ms.nextId = some (s.newOp eng c t sreg w desc aux) := by
    simp only [State.engOp, ho]
    rw [List.find?_append, List.find?_eq_none.mpr]
    · simp [State.newOp]
    · intro p hp; simp [(hq p hp).1]
  intro u o
  simp only [State.accept, hr, Bool.not_true, Bool.false_eq_true, if_false]
  have hqq : (if eng.index < 4 then 4 * c + eng.index else 512 + c / 8) = (s.newOp eng c t sreg w desc aux).queue := rfl
  rw [hqq]
  simp only [State.decodePass, hf, List.foldl_cons, List.foldl_nil]
  rw [show (s.newOp eng c t sreg w desc aux).id = s.ms.nextId from rfl, he]
  simp only [List.contains_nil, Bool.false_or]
  rw [show (s.newOp eng c t sreg w desc aux).aborted = false from rfl]
  simp only [Bool.false_eq_true, if_false]
  split
  · rfl
  · split <;> rfl

/-- An instruction that joins its queue changes nothing but its strand, the queues and the number of the next one. -/
theorem State.enqueue_strand (s : State) (c t : Nat) (w : Word64) (eng : Engine) (sreg : Nat) (desc : List Byte) (aux : List Nat) :
    s.enqueue c t (s.strand c t) w eng sreg desc aux =
      { s.advance c t ((s.strand c t).mark (regMask sreg)) with
        engOps := s.engOps ++ [s.newOp eng c t sreg w desc aux], ms := { s.ms with nextId := s.ms.nextId + 1 } } := by
  simp [State.enqueue, State.newOp, State.advance, State.setStrand]

/-- An instruction that decode takes stands last in its queue, decoded. -/
theorem State.take_queued {s : State} {c t : Nat} {w : Word64} {eng : Engine} {sreg : Nat} {desc : List Byte} {aux : List Nat}
    (ht : t < 8192) (hq : ∀ p ∈ s.engOps, p.id ≠ s.ms.nextId) (slots : List Nat) :
    let o := s.newOp eng c t sreg w desc aux
    let u := (s.enqueue c t (s.strand c t) w eng sreg desc aux).take o slots
    s.Queued u { o with decoded := true } ∧ u.regs = s.regs := by
  intro o u
  have hu : u.engOps = s.engOps ++ [{ o with decoded := true }] := by
    show ((s.enqueue c t (s.strand c t) w eng sreg desc aux).engOps.map _) = _
    rw [s.enqueue_engOps c t _ w eng sreg desc aux rfl, List.map_append]
    congr 1
    · conv_rhs => rw [← List.map_id s.engOps]
      refine List.map_congr_left fun p hp => ?_
      simp [o, State.newOp, hq p hp]
    · simp [o]
  refine ⟨⟨hu, fun a => rfl, ?_, ?_⟩, rfl⟩
  · intro d v hv hne
    show (s.advance c t ((s.strand c t).mark (regMask sreg))).strand d v = _
    exact State.strand_setStrand_ne s _ ht hv hne
  · show (s.advance c t ((s.strand c t).mark (regMask sreg))).strand c t = _
    rw [State.advance_eq, State.strand_setStrand_self]; rfl

/-- Nothing is decoded where nothing awaits decode. -/
theorem State.decodePass_of_none {s : State} {d : Decoder} {only : EngOp → Bool}
    (h : ∀ p ∈ s.engOps, only p = true → p.decoded = true) : s.decodePass d only = s := by
  have : s.engOps.filter (fun o => !o.decoded && only o) = [] := by
    rw [List.filter_eq_nil_iff]; intro p hp; by_cases e : only p = true
    · simp [h p hp e]
    · simp [e]
  simp only [State.decodePass, this, List.foldl_nil]

/-- A slot that no write holds is closed to no item. -/
theorem State.closedTo_of_open {s : State} {k : ItemKey} {l : List Nat} (h : ∀ id ∈ l, (s.slot id).write = none) :
    l.any (s.closedTo k) = false := by
  rw [List.any_eq_false]; intro id hi; simp [State.closedTo, h id hi]

/-- With no room in the engine's queue the strand waits for it. -/
theorem State.accept_full {s : State} {c t : Nat} {x : Strand} {w : Word64} {eng : Engine} {sreg : Nat} {desc : List Byte}
    {aux : List Nat} {d : Decoder} {m : Bool} {k : Option Nat} (hr : s.engineRoom c eng.index = false) :
    s.accept c t x w eng sreg desc aux d m k = s.stall c t (.engine eng.index) := by
  simp [State.accept, hr]

/-! ### Operations that may read other devices (R443) -/

/-- An operation whose reads all lie here, or were fetched, is done at once. -/
theorem State.remotely_local {s : State} {o : Owner} {q : Nat} {fail : MFault → State → State} {run : State → State}
    (h : s.awaitsNoRead o) (hw : (run (s.asksAs o)).ms.wanted = []) :
    s.remotely o q fail run = (run (s.asksAs o)).readAll o := by
  unfold State.remotely
  rw [if_neg (by rw [h]; exact Bool.false_ne_true)]
  show (match (run (s.asksAs o)).ms.wanted with | [] => (run (s.asksAs o)).readAll o | l => _) = _
  rw [hw]

/-- With no event found, the monitor takes none. -/
theorem State.deliver_of_none {s : State} (h : s.ms.found = []) : s.deliver = s := by
  rw [State.deliver, h, List.foldl_nil, ← h]

/-! ### Counters of 64 bits -/

/-- A field outside the two words of a counter, after the counter advances. -/
theorem State.fget_bump64_ne (s : State) (lo hi g : Fld) (n i j i' j' : Nat) (h : regAddr lo.reg i j ≠ regAddr g.reg i' j')
    (h' : regAddr hi.reg i j ≠ regAddr g.reg i' j') : (s.bump64 lo hi n i j).fget g i' j' = s.fget g i' j' := by
  simp only [State.bump64, State.pairSet]
  rw [State.fget_fset_ne _ _ _ _ _ _ _ _ h', State.fget_fset_ne _ _ _ _ _ _ _ _ h]

/-! ### Packets (R597 to R599, R608, R609) -/

/-- What a port's state reads as does not depend on what the port has counted. -/
theorem State.portState_acceptOn (s : State) (l : Nat) (p : Packet) :
    (s.acceptOn l p).fget LNK_PORT_STATUS_STATE (l / 4) = s.fget LNK_PORT_STATUS_STATE (l / 4) := by
  have a : ∀ (r : Reg), r = LNK_TX_BYTES_LO ∨ r = LNK_TX_BYTES_HI ∨ r = LNK_RX_BYTES_LO ∨ r = LNK_RX_BYTES_HI →
      regAddr r (l / 4) 0 ≠ regAddr LNK_PORT_STATUS (l / 4) 0 := by
    rintro r (rfl | rfl | rfl | rfl) <;> simp [regAddr, LNK_TX_BYTES_LO, LNK_TX_BYTES_HI, LNK_RX_BYTES_LO, LNK_RX_BYTES_HI,
      LNK_PORT_STATUS]
  have k : ∀ (u : State) (n : Nat) (b : List Byte),
      (u.sendLink (l / 4) n b).fget LNK_PORT_STATUS_STATE (l / 4) = u.fget LNK_PORT_STATUS_STATE (l / 4) := by
    intro u n b
    have h := State.fget_bump64_ne u LNK_TX_BYTES_LO_COUNT LNK_TX_BYTES_HI_COUNT LNK_PORT_STATUS_STATE
      (Packet.wire { Packet.zero with type := ptLink, arg := n, length := 32, src := u.deviceId, payload := slice b 0 32 }) (l / 4) 0
      (l / 4) 0 (a LNK_TX_BYTES_LO (by simp)) (a LNK_TX_BYTES_HI (by simp))
    simpa only [State.sendLink, State.fget, State.rget, State.emit_regs] using h
  simp only [State.acceptOn]
  rw [k, k]
  rw [State.fget_bump64_ne _ _ _ _ _ _ _ _ _ (a LNK_RX_BYTES_LO (by simp)) (a LNK_RX_BYTES_HI (by simp))]
  rfl

/-- A packet that arrives in order and whole has its effect on the state that has accepted it. -/
theorem State.arrive_of_takesPacket {s : State} {l : Nat} {p : Packet} {type : Nat} {act : State → State}
    (h : s.takesPacket l p type) : s.arrive l p type act = (act (s.acceptOn l p)).deliver := by
  obtain ⟨h1, h2, h3, h4, h5, h6, h7, h8, _⟩ := h
  have hg : s.fab.group.isNone = false := by cases hx : s.fab.group <;> simp_all
  have hst := State.portState_acceptOn s l p
  simp only [State.arrive]
  rw [if_neg (by simp [h2, hg, h4, h5, h6]; omega), hst, if_neg h7, h8]

/-- A LINK packet that is well formed has its effect on the state that has counted it. -/
theorem State.arriveLink_of_takesLink {s : State} {l : Nat} {p : Packet} {subtype : Nat} {act : State → State}
    (h : s.takesLink l p subtype) : s.arriveLink l p subtype act = act (s.tookLink l p) := by
  obtain ⟨h1, h2, h3, h4, h5⟩ := h
  simp only [State.arriveLink]
  rw [if_neg (by simp [h2, h3, h4]; omega), h5]; rfl

/-! ### Frames (R456, R466, R469, R472, R727) -/

@[simp] theorem State.setSession_ctp (s : State) (k : Nat) (x : Session) :
    (s.setSession k x).ctp = { s.ctp with sessions := (k, x) :: s.ctp.sessions.filter (fun e => e.1 != k) } := by
  simp only [State.setSession, State.refreshSessions, List.foldl_cons, List.foldl_nil, State.fset_ctp]

/-- A session in a slot after one is put there. -/
@[simp] theorem State.session_setSession_self (s : State) (k : Nat) (x : Session) : (s.setSession k x).session k = some x := by
  simp only [State.session, State.setSession_ctp, List.find?_cons_of_pos, BEq.rfl, Option.map_some]

/-- The session of an accepted frame: its SEQ is the highest, and its time is now. -/
theorem State.session_acceptFrame {s : State} {f : Frame} {x : Session} (h : s.session f.slot = some x) :
    (s.acceptFrame f).session f.slot = some { x with rx := f.seq, lastAt := s.now } := by
  have k := State.session_setSession_self s f.slot { x with rx := f.seq, lastAt := s.now }
  simp only [State.acceptFrame, h]
  split
  · simpa only [State.session] using k
  · exact k

/-- Neither a slot's state nor the owner depends on the counts of sessions and frames. -/
theorem State.fget_tookFrame {s : State} {p : Nat} {f : Frame} {x : Session} (hp : p < 2) (h : s.session f.slot = some x)
    (g : Fld) (i : Nat) (hg : 0x2100 ≤ regAddr g.reg i 0) : (s.tookFrame p f).fget g i = s.fget g i := by
  have a : ∀ q, q < 2 → regAddr CTP_PORT_STATUS q 0 ≠ regAddr g.reg i 0 := by
    intro q hq; have : regAddr CTP_PORT_STATUS q 0 < 0x2100 := by simp [regAddr, CTP_PORT_STATUS]; omega
    omega
  have b1 : regAddr CTP_RX_FRAMES_LO p 0 ≠ regAddr g.reg i 0 := by
    have : regAddr CTP_RX_FRAMES_LO p 0 < 0x2100 := by simp [regAddr, CTP_RX_FRAMES_LO]; omega
    omega
  have b2 : regAddr CTP_RX_FRAMES_HI p 0 ≠ regAddr g.reg i 0 := by
    have : regAddr CTP_RX_FRAMES_HI p 0 < 0x2100 := by simp [regAddr, CTP_RX_FRAMES_HI]; omega
    omega
  have hs : (s.bump64 CTP_RX_FRAMES_LO_COUNT CTP_RX_FRAMES_HI_COUNT 1 p).session f.slot = some x := by
    simpa only [State.session, State.bump64_ctp] using h
  have hb : (s.bump64 CTP_RX_FRAMES_LO_COUNT CTP_RX_FRAMES_HI_COUNT 1 p).fget g i = s.fget g i :=
    State.fget_bump64_ne _ _ _ _ _ _ _ _ _ b1 b2
  have hset : ∀ (u : State) (y : Session), (u.setSession f.slot y).fget g i = u.fget g i := by
    intro u y
    simp only [State.setSession, State.refreshSessions, List.foldl_cons, List.foldl_nil]
    rw [State.fget_fset_ne _ _ _ _ _ _ _ _ (a 1 (by omega)), State.fget_fset_ne _ _ _ _ _ _ _ _ (a 0 (by omega))]
    simp only [State.fget, State.rget]
  have k := fun y => (hset (s.bump64 CTP_RX_FRAMES_LO_COUNT CTP_RX_FRAMES_HI_COUNT 1 p) y).trans hb
  simp only [State.tookFrame, State.acceptFrame, hs]
  split
  · simpa only [State.fget, State.rget] using k _
  · exact k _

/-- Deciphering keeps a frame's type, slot and SEQ. -/
theorem State.openFrame_same {s : State} {w f : Frame} (h : s.openFrame w = some f) :
    f.type = w.type ∧ f.slot = w.slot ∧ f.seq = w.seq := by
  simp only [State.openFrame, Frame.opened] at h
  split at h
  · cases h; exact ⟨rfl, rfl, rfl⟩
  · split at h
    · split at h
      · cases h; exact ⟨rfl, rfl, rfl⟩
      · cases h
    · cases h

/-- A frame deciphers as before once it is counted. -/
theorem State.openFrame_bump {s : State} {p : Nat} {w f : Frame} (h : s.openFrame w = some f) :
    (s.bump64 CTP_RX_FRAMES_LO_COUNT CTP_RX_FRAMES_HI_COUNT 1 p).openFrame w = some f := by
  simpa only [State.openFrame, State.session, State.bump64_ctp] using h

/-- A request that no judgement refuses has its effect on the state that has taken the frame. -/
theorem State.sessRequest_of_takesFrame {s : State} {p : Nat} {w f : Frame} {ty : Nat} {x : Session} {layout : Frame → Bool}
    {act : Frame → Session → State → State} (h : s.takesFrame p w f ty x) (hn : nodeTypes.contains ty = true) (hl : layout f = true) :
    s.sessRequest p w layout act = (act f { x with rx := f.seq, lastAt := s.now } (s.tookFrame p f)).closeSpent f.slot := by
  obtain ⟨h1, h2, h3, h4, h5, h6, h7, h8, h9, h10, h11, h12, h13⟩ := h
  subst h1
  have hw := State.openFrame_bump (p := p) h8
  obtain ⟨e1, e2, e3⟩ := State.openFrame_same h8
  rw [← e2] at h4 h5 h12 h13
  rw [← e3] at h9 h10
  rw [← e1] at hn h12 h13
  have hp : p < 2 := by
    simp only [State.ctpUp, Bool.and_eq_true, decide_eq_true_eq] at h2; exact h2.1.1.1.1
  have hi : (s.bump64 CTP_RX_FRAMES_LO_COUNT CTP_RX_FRAMES_HI_COUNT 1 p).fget CTP_PORT_STATUS_ISOLATED p = 0 := by
    rw [State.fget_bump64_ne, h3] <;> simp [regAddr, CTP_RX_FRAMES_LO_COUNT, CTP_RX_FRAMES_HI_COUNT, CTP_PORT_STATUS_ISOLATED,
      CTP_RX_FRAMES_LO, CTP_RX_FRAMES_HI, CTP_PORT_STATUS]
  have hb : (s.bump64 CTP_RX_FRAMES_LO_COUNT CTP_RX_FRAMES_HI_COUNT 1 p).session f.slot = some x := by
    simpa only [State.session, State.bump64_ctp] using h5
  have hst : (s.tookFrame p f).sessState f.slot = s.sessState f.slot :=
    State.fget_tookFrame hp h5 _ _ (by simp [regAddr, CTP_SESS_STATE_STATE, CTP_SESS_STATE])
  have how : (s.tookFrame p f).ownerSession (.session f.slot) = s.ownerSession (.session f.slot) := by
    simp only [State.ownerSession]
    rw [State.fget_tookFrame hp h5 _ _ (by simp [regAddr, CTP_OWNER_VALID, CTP_OWNER]),
      State.fget_tookFrame hp h5 _ _ (by simp [regAddr, CTP_OWNER_SLOT, CTP_OWNER])]
  have hss : (s.tookFrame p f).session f.slot = some { x with rx := f.seq, lastAt := s.now } := by
    simpa only [State.tookFrame, State.bump64_now] using State.session_acceptFrame hb
  have hat : (s.bump64 CTP_RX_FRAMES_LO_COUNT CTP_RX_FRAMES_HI_COUNT 1 p).attributable p f.slot = true := by
    simp [State.attributable, hb, h6]
  have hx : ((s.sessState f.slot == sessOpening) != (f.type == 3)) = false := by
    by_cases hq : f.type = 3
    · simp [hq, h12.mpr hq]
    · simp [hq, mt h12.mp hq]
  have ho : (ownerTypes.contains f.type && !s.ownerSession (.session f.slot)) = false := by
    by_cases hq : ownerTypes.contains f.type = true
    · rw [h13 hq]; simp
    · simp only [Bool.not_eq_true] at hq; rw [hq]; rfl
  rw [e2] at hat
  rw [e1] at hn
  simp only [State.sessRequest, State.judged, State.receive, h2, hi, hat, h7, hn, hw, hb]
  simp only [State.tookFrame] at hst how hss ⊢
  simp only [hst, how, hss, hx, ho]
  simp [Nat.not_le.mpr h9, hl]

end Sys2Proof.Machine
end

