-- ==== Sys2Proof/Tests/Slice0.lean ====
section
/-! SUPPORT. Tests: ill-formed commands that well-formedness refuses; for each statement, states and operands that meet the
hypotheses of its clauses; and single steps whose results come from the spec. -/

namespace Sys2Proof.Tests

set_option maxRecDepth 100000
set_option Elab.async false

open Sys2Proof Sys2Proof.Machine

/-! ### States -/

/-- Chamber 0: gallery 0, two queues, memory on stack 0. -/
def room : Chamber :=
  { Chamber.none with
    kind := 1, galleries := 1, queues := 2, sequences := 4, stackMask := 1, perStack := 1, first := [0], pcs := [(0, 0)] }

/-- A device in service 20 s after power-on: chamber 0 is LIVE. -/
def dev : State :=
  let s : State := { State.reset with
    now := 20_000_000_000, tb := 20_000_000_000, chambers := [room], pwr := { State.reset.pwr with held := false, good := true } }
  ((s.fset PWR_STATUS_STAGE 6).fset PWR_STATUS_CALIBRATED 1).fset CHB_STATE_STATE chbLive 0

/-- A session on port 0. -/
def sess : Session :=
  { port := 0, key := [], entry := some 0, node := [], dev := [], fromNode := [1#8], toNode := [2#8], utc := 0, utcAt := 0, rx := 4,
    tx := 4, lastAt := 20_000_000_000 }

/-- Slot 0 holds the owner's session, slot 1 an observer's with an owner credential. -/
def owned : State :=
  let s : State := { dev with ctp := { dev.ctp with sessions := [(0, sess), (1, sess)], ownerAt := 20_000_000_000 } }
  ((((((s.fset CTP_OWNER_VALID 1).fset CTP_OWNER_SLOT 0).fset CTP_SESS_STATE_STATE sessOwner 0).fset CTP_SESS_STATE_STATE
    sessObserver 1).fset CTP_SESS_STATE_OWNER_CRED 1 1).fset CTP_PORT_STATUS_LINK_UP 1 0).fset CTP_PORT_STATUS_LINK_UP 1 1

/-- Strand 0 of core 0 ISSUING, with `w` fetched and no item. -/
def strandAt (w : Word64) : Strand := { Strand.fresh with mode := .issuing, pc := 0x1000, ir := some w }

/-- A device whose strand 0 of core 0 holds the context `x`. -/
def on (x : Strand) : State := dev.setStrand 0 0 x

/-- A device whose strand 0 of core 0 issues `w` with scalar registers `r`. -/
def run (w : Word64) (r : List Word) : State := on { strandAt w with regs := r }

/-- The item of queue 0 with sequence number 0 and a line. -/
def itemOf (line : List Byte) (ph : Phase) : Item :=
  { key := ⟨0, 0, none⟩, line := line, epoch := 1, fetchAt := 0, phase := ph, boundAt := 0, waitNs := 0, preempts := 0,
    sampled := false, remote := false, ending := none, version := 0, ended := [], solo := false, copied := 0, slotRefs := [],
    seqRefs := [], ratioSum := 0, ratioAt := 0, aged := false, unitDone := false, ender := none }

/-- An item's line of a kind. -/
def lineOf (kind : Nat) : List Byte := leBytes 1 kind ++ List.replicate 63 0#8

/-- Scratch of core 0 by its direct virtual address (R387). -/
def direct (off : Nat) : Nat := 0x01FF_0000_0000_0000 + scratchBase 0 + off

/-- Bytes placed in core 0's scratch. -/
def stored (s : State) (off : Nat) (bs : List Byte) : State := s.setBytes (scratchBase 0 + off) bs

/-- Whether a read or a check answered with a value that satisfies `p`. -/
def good {ε α σ : Type} (r : Except ε α × σ) (p : α → σ → Bool) : Bool :=
  match r with
  | (.ok a, s) => p a s
  | _ => false

/-- Whether it answered with an error. -/
def bad {ε α σ : Type} (r : Except ε α × σ) : Bool :=
  match r with
  | (.error _, _) => true
  | _ => false

/-- Whether a command ends in a next state that satisfies `p`. -/
def after (r : Result) (p : State → Bool) : Bool :=
  match r with
  | .next s => p s
  | _ => false

/-! ### Well-formedness refuses -/

theorem test_wf_core : (Instr.sAdd 128 0).wf = false := by decide
theorem test_wf_strand : (Instr.sAdd 0 8192).wf = false := by decide
theorem test_wf_session : (Instr.rcRead (.session 16) 0).wf = false := by decide
theorem test_wf_requester_core : (Instr.rcRead (.core 0 8192) 0).wf = false := by decide
theorem test_wf_address : (Instr.rcRead .firmware (2 ^ 32)).wf = false := by decide
theorem test_wf_gallery : (Instr.preempt 16).wf = false := by decide
theorem test_wf_chamber : (Instr.itemFetch 16).wf = false := by decide
theorem test_wf_stack : (Instr.temperatureReadout 16 20).wf = false := by decide
theorem test_wf_queue : (Instr.markerEnd 4096 0).wf = false := by decide
theorem test_wf_seq : (Instr.markerEnd 0 (2 ^ 32)).wf = false := by decide
theorem test_wf_item : (Instr.copyComplete ⟨0, 0, some 4096⟩).wf = false := by decide
theorem test_wf_aging : (Instr.ageExpiry (.item 4096 0)).wf = false := by decide
theorem test_wf_domain : (Instr.regulatorSettled 17).wf = false := by decide
theorem test_wf_control_port : (Instr.violWindowEnd 2).wf = false := by decide
theorem test_wf_port : (Instr.retrain .firmware 16 0).wf = false := by decide
theorem test_wf_lane : (Instr.laneTrain 64 true).wf = false := by decide
theorem test_wf_device : (Instr.memberDeparted (2 ^ 16)).wf = false := by decide
theorem test_wf_unit : (Instr.markAmber .firmware 1024).wf = false := by decide
theorem test_wf_cvu : (Instr.cvuAbort .firmware 0 2).wf = false := by decide

/-- A frame with every field 0 but its type. -/
def frameOf (type : Nat) : Frame :=
  { version := 1, type := type, slot := 0, flags := 1, length := 0, reserved := 0, seq := 5, payload := [], tag := [] }

/-- A packet of a type for device 0 from device 1. -/
def packetOf (type : Nat) : Packet :=
  { type := type, flags := 0, hops := 0, chamber := 0, dst := 0, src := 1, addr := 0, length := 0, txn := 0, arg := 0,
    queue := 0xFFFF, qepoch := 0, stream := 0, lseq := 0, payload := [], e2e := 0 }

theorem test_wf_frame_type : (Instr.heartbeat 0 (frameOf 256)).wf = false := by decide
theorem test_wf_frame_seq : (Instr.heartbeat 0 { frameOf 0x10 with seq := 2 ^ 64 }).wf = false := by decide
theorem test_wf_packet_type : (Instr.rdReq 0 (packetOf 256) .clean).wf = false := by decide
theorem test_wf_packet_dst : (Instr.rdReq 0 { packetOf 1 with dst := 2 ^ 16 } .clean).wf = false := by decide
theorem test_wf_good : (Instr.sAdd 127 8191).wf = true ∧ (Instr.heartbeat 1 (frameOf 0x10)).wf = true ∧
    (Instr.rdReq 63 (packetOf 1) .clean).wf = true := by decide


/-- An access of strand 0 of core 0 that waits to be performed. -/
def memOp (kind : OpKind) (remote : Option Nat) : MemOp :=
  { id := 0, core := 0, strand := 0, chamber := 0, item := ⟨0, 0, none⟩, kind := kind, remote := remote, va := direct 0x100,
    addr := scratchBase 0 + 0x100, size := 2, data := 5, cmp := 7, rd := 4, sx := false, acq := false, rel := false, scope := 0,
    bypass := false, close := false, issuedAt := 0, sent := none, own := [] }

/-- A device with accesses that wait. -/
def withOps (l : List MemOp) : State := { dev with ms := { dev.ms with ops := l, nextId := 8 } }

/-! ### Steps, reset and registers -/

theorem test_meets_StepTakesFront : ({ dev with pending := [.flush, .idcode []] } : State).pending = .flush :: [.idcode []] := rfl

theorem test_meets_IdleTick : dev.pending = [] ∧ dev.fget TBC_STATUS_HELD = 0 ∧ dev.tbc.trim = 0 ∧ dev.pwr.held = false ∧
    dev.pwr.dark = false ∧ (dev.fset TBC_STATUS_HELD 1).pending = [] ∧ (dev.fset TBC_STATUS_HELD 1).fget TBC_STATUS_HELD = 1 := by
  decide +kernel

theorem test_idle_premises : dev.engOps = [] ∧ dev.ms.found = [] := by decide +kernel

theorem test_meets_StepKeepsCanonical : dev.Canonical ∧ (stored dev 0 [1#8, 0#8, 2#8]).Canonical := by
  unfold State.Canonical; decide +kernel

theorem test_canonical_refuses : Memory.wf [(5, 1#8), (4, 1#8)] = false ∧ Memory.wf [(4, 0#8)] = false := by decide

theorem test_memory_write : (stored dev 0 [1#8, 0#8, 2#8]).mem = [(scratchBase 0, 1#8), (scratchBase 0 + 2, 2#8)] := by
  decide +kernel

theorem test_meets_FieldSet : CTP_OWNER_VALID.lo ≤ CTP_OWNER_VALID.hi ∧ CTP_OWNER_VALID.hi < 32 ∧
    CTP_OWNER_SLOT.reg = CTP_OWNER_VALID.reg ∧ CTP_OWNER_SLOT.lo ≤ CTP_OWNER_SLOT.hi ∧
    CTP_OWNER_SLOT.hi < CTP_OWNER_VALID.lo := by decide

theorem test_meets_RegisterWriteAccess : mapped 0xE000 = false ∧ 0x3002 % 4 ≠ 0 ∧
    (inStaging 0x3FFC = false ∧ regDescAt 0x3FFC = none) ∧
    ((regDescAt TBC_OFFSET_PS.reg.base).any (fun d => d.fields.all (fun f => f.access == .ro || f.access == .rc))) = true ∧
    owned.owns (.session 0) = true ∧ owned.owns (.session 1) = false ∧ owned.mayWriteSet (.session 0) 15 = true ∧
    owned.mayWriteSet (.core 7 8191) 0 = true := by decide +kernel

theorem test_write_sched : after (exec (.registerWrite (.session 0) (regAddr GFE_SCH_CTRL 15 0) 0x00FF_0001#32) owned)
    (fun s => s.rget (regAddr GFE_SCH_CTRL 15 0) == 0x00FF_0001#32) = true := by decide +kernel

/-- SVY_REFUSALS is a register with an RC field alone (R96). -/
theorem test_meets_RcReadClears :
    (regDescAt SVY_REFUSALS_COUNT.reg.base).any (fun d => d.fields.any (fun f => f.access == .rc) &&
      !isHigh d.reg && !isLow d.reg) = true ∧ dev.mayRead .firmware SVY_REFUSALS_COUNT.reg.base = true ∧
    flagsRcAt SVY_REFUSALS_COUNT.reg.base = none := by decide +kernel

theorem test_rc_read : ((dev.fset SVY_REFUSALS_COUNT 7).readReg .firmware SVY_REFUSALS_COUNT.reg.base).1 = 7#32 ∧
    after (exec (.rcRead .firmware SVY_REFUSALS_COUNT.reg.base) (dev.fset SVY_REFUSALS_COUNT 7))
      (fun s => s.fget SVY_REFUSALS_COUNT == 0) = true := by decide +kernel

theorem test_meets_CounterShadows : dev.mayRead (.session 15) (regAddr VXE_ELEM_LO 127 0) = true ∧
    dev.mayRead (.core 0 0) (regAddr VXE_ELEM_LO 0 0) = true ∧ dev.mayRead (.core 0 0) (regAddr VXE_ELEM_HI 0 0) = true ∧
    dev.mayRead .firmware TBC_NOW_LO.base = true ∧ (Requester.session 0).number ≠ (Requester.core 0 0).number := by
  decide +kernel

theorem test_meets_FlagsRcRead : (flagsRcAt (regAddr MXE_FLAGS_RC 127 0)).any (fun p => p.2 == 127) = true ∧
    (flagsRcAt (regAddr VXE_FLAGS_RC 0 0)).isSome = true ∧ (flagsRcAt (regAddr SFU_FLAGS_RC 0 0)).isSome = true ∧
    (flagsRcAt (regAddr ATU_FLAGS_RC 0 0)).isSome = true ∧ (flagsRcAt (regAddr RTE_FLAGS_RC 15 0)).isSome = true ∧
    dev.mayRead .firmware (regAddr MXE_FLAGS_RC 127 0) = true := by decide +kernel

theorem test_meets_PortReenable :
    let s := owned.fset CTP_PORT_STATUS_ISOLATED 1 1
    s.owns (.session 0) = true ∧ s.ctp.sessions.any (fun e => e.1 == 0 && e.2.port == 1) = false ∧
    s.fget CTP_PORT_STATUS_ISOLATED 1 = 1 ∧ s.owns .firmware = true ∧
    s.ctp.sessions.any (fun e => e.1 == 0 && e.2.port == 0) = true ∧ s.owns (.session 1) = false := by decide +kernel

/-! ### Strands -/

/-- CS.LD s1, [s2] and CS.ST s1, [s2], and a load word with a reserved bit set (R163). -/
def csLdWord : Word64 := 0xBA28_0000_0000_0000#64
def csStWord : Word64 := 0xBB28_0000_0000_0000#64

theorem test_meets_ControlSpaceAccesses :
    let regs := fun (a : Word) => [0#32, 0#32, a, 0#32, 0#32, 0#32, 0#32, 0#32]
    (∀ p ∈ [(0xBA, csLdWord), (0xBB, csStWord)], ∀ a ∈ [TBC_NOW_LO.base, 0xE000, 2],
      (run p.2 (regs (BitVec.ofNat 32 a))).issues 0 0 p.1 (regMask 1 ||| regMask 2) p.2) ∧
    bitsOf csLdWord.toNat 49 0 = 0 ∧ TBC_NOW_LO.base % 4 = 0 ∧ mapped TBC_NOW_LO.base = true ∧ mapped 0xE000 = false ∧
    2 % 4 ≠ 0 ∧ dev.ms.chamberRelease 0 0 = false ∧
    (let s : State := { run csLdWord (regs 0) with ms := (withOps [{ memOp (.fence 3) none with scope := 2 }]).ms }
     s.ms.chamberRelease 0 0 = true ∧ s.issues 0 0 0xBA 6 csLdWord) := by
  unfold State.issues State.canIssue; decide +kernel

/-- The words of the scalar instructions with rd s1, ra s2 and rb s3, by opcode. -/
def scalarWord (op : Nat) : Word64 := BitVec.ofNat 64 (op * 2 ^ 56 + 1 * 2 ^ 53 + 2 * 2 ^ 50 + 3 * 2 ^ 47 + 5)

theorem test_meets_ScalarArithmetic : ∀ op ∈ [0x01, 0x02, 0x08, 0x09, 0x0A, 0x0B, 0x0C, 0x0D, 0x0E, 0x0F, 0x10, 0x11, 0x12, 0x13,
    0x14, 0x2A, 0x2F], (run (scalarWord op) []).issues 0 0 op 0xFF (scalarWord op) := by
  unfold State.issues State.canIssue; decide +kernel

theorem test_meets_ScalarBranches : ∀ op ∈ [0x20, 0x21, 0x22, 0x23, 0x24, 0x25, 0x26, 0x28, 0x29],
    (run (scalarWord op) []).issues 0 0 op 0xFF (scalarWord op) := by
  unfold State.issues State.canIssue; decide +kernel

/-- A register of strand 0 of core 0 after a command. -/
def regAfter (i : Instr) (w : Word64) (r : List Word) (k : Nat) : Option Word :=
  match exec i (run w r) with
  | .next s => some ((s.strand 0 0).reg k)
  | _ => none

/-- 0xFFFF_FFFF + 2 wraps to 1 (R56). -/
theorem test_add_wraps : regAfter (.sAdd 0 0) 0x0829_8000_0000_0000#64 [0, 0, 0xFFFF_FFFF#32, 2#32, 0, 0, 0, 0] 1 = some 1#32 := by
  decide +kernel

/-- S.MULHU takes the high 32 bits of the product (R56). -/
theorem test_mulhu : regAfter (.sMulhu 0 0) 0x0B29_8000_0000_0000#64 [0, 0, 0xFFFF_FFFF#32, 0xFFFF_FFFF#32, 0, 0, 0, 0] 1 =
    some 0xFFFF_FFFE#32 := by decide +kernel

/-- A shift uses the low five bits of its amount (R56). -/
theorem test_shift_amount : regAfter (.sShl 0 0) 0x0F29_8000_0000_0000#64 [0, 0, 1#32, 33#32, 0, 0, 0, 0] 1 = some 2#32 := by
  decide +kernel

theorem test_sra : regAfter (.sSra 0 0) 0x1129_8000_0000_0000#64 [0, 0, 0x8000_0000#32, 31#32, 0, 0, 0, 0] 1 =
    some 0xFFFF_FFFF#32 := by decide +kernel

theorem test_slt_signed : regAfter (.sSlt 0 0) 0x1229_8000_0000_0000#64 [0, 0, 0xFFFF_FFFF#32, 0#32, 0, 0, 0, 0] 1 = some 1#32 ∧
    regAfter (.sSltu 0 0) 0x1329_8000_0000_0000#64 [0, 0, 0xFFFF_FFFF#32, 0#32, 0, 0, 0, 0] 1 = some 0#32 := by decide +kernel

/-- S.SUB with its destination a source, and an immediate (bit 46). -/
theorem test_sub_immediate : regAfter (.sSub 0 0) 0x0924_4000_0000_0001#64 [0, 7#32, 0, 0, 0, 0, 0, 0] 1 = some 6#32 := by
  decide +kernel

/-- A taken branch of −16 from 0x1000, and one not taken. -/
theorem test_branch : after (exec (.sBeq 0 0) (run 0x2109_8000_FFFF_FFF0#64 [0, 0, 4#32, 4#32, 0, 0, 0, 0]))
      (fun s => (s.strand 0 0).pc == 0xFF0) = true ∧
    after (exec (.sBeq 0 0) (run 0x2109_8000_FFFF_FFF0#64 [0, 0, 4#32, 5#32, 0, 0, 0, 0]))
      (fun s => (s.strand 0 0).pc == 0x1008) = true := by decide +kernel

theorem test_call_links : regAfter (.sCall 0 0) 0x2840_0000_0000_0010#64 [0, 0, 0, 0, 0, 0, 0, 0] 2 = some 0x1008#32 := by
  decide +kernel

theorem test_meets_RegisterWaits :
    (∃ x, (on { strandAt 0 with run := 64 }).strand 0 0 = x ∧ x.mode = .issuing ∧ 64 ≤ x.run) ∧
    ((on { strandAt 0 with run := 63 }).boundStrands 0).find? (fun e => e.2.mode == .issuing && !e.2.victim) =
      some (0, { strandAt 0 with run := 63 }) ∧
    (∀ p ∈ [(0x01, regMask 1), (0x02, regMask 1 ||| regMask 2), (0x14, pairMask 1 ||| pairMask 2 ||| src2Mask (scalarWord 0x14)),
        (0x28, pairMask 1), (0x29, pairMask 2)] ++ [8, 9, 10, 11, 12, 13, 14, 15, 16, 17, 18, 19].map (fun k => (k, aluMask (scalarWord k))) ++
        [0x21, 0x22, 0x23, 0x24, 0x25, 0x26].map (fun k => (k, branchMask (scalarWord k))),
      (on { strandAt (scalarWord p.1) with notReady := 0xFF }).canIssue 0 0 (scalarWord p.1) ∧ opcodeOf (scalarWord p.1) = p.1 ∧
        ((on { strandAt (scalarWord p.1) with notReady := 0xFF }).strand 0 0).notReady &&& p.2 ≠ 0) := by
  refine ⟨⟨_, rfl, ?_⟩, ?_, ?_⟩
  · decide +kernel
  · decide +kernel
  · unfold State.canIssue; decide +kernel

/-- Strand 0 of core 0 WAITING on `w`, with the registers of mask `n` unready. -/
def waitsOn (w : Wait) (n : Nat) : State :=
  on { strandAt 0 with mode := .waiting, wait := w, notReady := n, taken := some ⟨0, 0, none⟩ }

theorem test_meets_StrandWake :
    (∀ w ∈ [Wait.regs 4, .engine 1, .take, .release, .fence, .lines],
      ((waitsOn w 0).strand 0 0).wait = w ∧ ((waitsOn w 0).strand 0 0).mode = .waiting ∧
      (waitsOn w 0).waitMet 0 0 ((waitsOn w 0).strand 0 0) = true) ∧
    (∀ w ∈ [Wait.regs 4, .ending, .pages, .sequence, .barrier 0 1],
      ((waitsOn w 4).strand 0 0).wait = w ∧ (waitsOn w 4).waitMet 0 0 ((waitsOn w 4).strand 0 0) = false) ∧
    (dev.strand 0 0).mode ≠ .waiting := by
  decide +kernel

theorem test_release_waits : ({ waitsOn .release 0 with ms := (withOps [memOp .store none]).ms } : State).waitMet 0 0
    ((waitsOn .release 0).strand 0 0) = false := by decide +kernel

/-- A READY strand at a direct address of its own scratch, which holds S.ADD there (R53, R387). -/
def atCode (w : Word64) (off : Nat) : State :=
  stored (on { Strand.fresh with mode := .ready, pc := direct off }) off (leBytes 8 w.toNat)

theorem test_meets_InstructionFetch :
    dev.coreRuns 0 = true ∧ ((atCode (scalarWord 8) 0x40).strand 0 0).ir = none ∧
    direct 0x44 % 8 ≠ 0 ∧
    (let s := atCode (scalarWord 8) 0x40
     good (s.fetchWord 0 (s.coreChamber 0) (direct 0x40)) (fun w _ => decodeFault w == none)) = true ∧
    (let s := atCode 0#64 0x40
     good (s.fetchWord 0 (s.coreChamber 0) (direct 0x40)) (fun w _ => decodeFault w == some (0x35, 1))) = true ∧
    bad (dev.fetchWord 0 (dev.coreChamber 0) 0x1000) = true ∧
    (∀ op ∈ [0, 1, 0x2F, 0x30, 0x3F, 0x40, 0x47, 0x7F, 0x80, 0x81, 0xA2, 0xA3, 0xBB, 0xFF], opcodeOf (scalarWord op) = op) := by
  decide +kernel

theorem test_fetch : after (exec (.instructionFetch 0 0) (atCode (scalarWord 8) 0x40))
    (fun s => (s.strand 0 0).ir == some (scalarWord 8)) = true := by decide +kernel

theorem test_meets_RateWindow : dev.galleryLive 15 = true ∧
    ({ dev with health := [(unitGallery 15, umber)] } : State).galleryLive 15 = false := by decide +kernel

/-! ### Surveys and slots -/

/-- A load in a phase. -/
def loadIn (ph : LoadPhase) : Load := { phase := ph, session := 0, viaMgc := false, image := [], changed := [] }

/-- The owner's device with a survey load in a phase. -/
def loading (ph : LoadPhase) (status : Nat) : State :=
  ({ owned with svy := { owned.svy with load := some (loadIn ph) } } : State).fset SVY_STATUS_STATE status

theorem test_meets_SurveyStaging : owned.ownerSession (.session 0) = true ∧ owned.svy.load = none ∧
    (loading .checking svyChecking).ownerSession (.session 0) = true ∧ (loading .checking svyChecking).svy.load.isSome = true ∧
    owned.commitBusy = false ∧ (loading .checking svyChecking).commitBusy = true ∧
    (loading .checking svyChecking).svyState = svyChecking ∧ (owned.fset SVY_STATUS_STATE svyStaging).svyState = svyStaging ∧
    owned.svyState ≠ svyStaging ∧ owned.svyState ≠ svyChecking ∧ owned.ownerSession (.session 1) = false ∧ 255 < 256 := by
  decide +kernel

/-- A staged write of two bytes that waits for the flash. -/
def staged (answer : Option (Nat × Nat × Nat × Nat)) : State :=
  { owned with svy := { owned.svy with unprogrammed := [{ off := 4, bytes := [1#8, 2#8], answer := answer }] } }

theorem test_meets_StagingWindow :
    (let s := owned.fset SVY_STATUS_STATE svyStaging
     s.ownerSession (.session 0) = true ∧ s.svyState = svyStaging ∧ (2 ^ 25 - 4) % 4 = 0 ∧
      2 ^ 25 - 4 + ([5#32].flatMap (fun w => leBytes 4 w.toNat)).length ≤ 2 ^ 25) ∧
    owned.ownerSession (.session 1) = false ∧
    (staged none).svy.unprogrammed = [{ off := 4, bytes := [1#8, 2#8], answer := none }] ∧
    (staged (some (0, 0x60, 5, 0))).svy.unprogrammed = [{ off := 4, bytes := [1#8, 2#8], answer := some (0, 0x60, 5, 0) }] := by
  decide +kernel

/-- The image of no bytes fails the checks of the header (R95). -/
theorem test_svy_check_refuses : after (exec .svyCheck (loading .checking svyChecking))
    (fun s => s.fget SVY_STATUS_STATE == svyRefused && s.fget SVY_STATUS_ERR_CODE == 0x03) = true := by decide +kernel

theorem test_meets_ChamberGoesLive : dev.heldQueues 0 = [] ∧ dev.engOps = [] ∧ (∀ g, dev.writeOf g = none) ∧
    (dev.fset CHB_STATE_STATE chbLoading 15).fget CHB_STATE_STATE 15 = chbLoading ∧ dev.fget CHB_STATE_STATE 15 ≠ chbLoading :=
  ⟨heldQueues_nil _ _ (by decide +kernel), by decide +kernel, fun _ => rfl, by decide +kernel, by decide +kernel⟩

/-- Slot 3 of chamber 0, empty or with a write from gallery 0. -/
def withSlot (w : Option SlotWrite) : State := dev.setSlot 3 { owner := some 0, gen := 1, monotone := false, content := List.replicate 48 0#8, write := w }

/-- A write to slot 3 that waits, or has begun. -/
def writeTo (began : Bool) : SlotWrite :=
  { gallery := 0, chamber := 0, writing := began, src := 0, len := 48, holdUs := 5, goAt := 0, payload := List.replicate 48 1#8 }

/-- Slot 3 with a write and an item that holds a reference on it. -/
def heldSlot (w : Option SlotWrite) : State :=
  { withSlot w with items := [{ itemOf (lineOf 0) (.bound 0 0) with slotRefs := [(3, 1)] }] }

/-- The commit of an image, that is of a load in CHECKING whose checks all hold, has no witness here: whether the signature of an image
verifies is left open (log entry 10). -/
theorem test_meets_SurveyLoadSteps :
    (loading .checking svyChecking).svy.load = some (loadIn .checking) ∧ (loading .checking svyChecking).svy.unprogrammed = [] ∧
    ((loading .checking svyChecking).checkStaged 0 [] 0).1 = some (0x03, 0xFFFF) ∧
    (loading .draining svyDraining).svy.load = some (loadIn .draining) ∧
    [0].filter (fun n => (dev.chamber n).kind != 0) = [0] ∧
    ({ dev with svy := { dev.svy with zeroing := [(0, none)] } } : State).svy.zeroing ≠ [] ∧
    dev.svy.zeroing.contains (0, none) = false ∧
    (let s : State := { dev with svy := { dev.svy with zeroing := [(0, none), (0, some 0)] } }
     s.svy.zeroing.contains (0, none) = true ∧ s.svy.zeroing.contains (0, some 0) = true ∧ s.ms.poison = []) ∧
    (loading .zeroising svyZeroising).svy.zeroing = [] ∧ (loadIn .applying).changed = [] ∧ (loadIn .applying).viaMgc = false ∧
    (loading .applying 5).pwr.waiting = false ∧ (loading .applying 5).fab.group = groupOf (loadIn .applying).image := by
  decide +kernel

theorem test_meets_drained : dev.drained 0 = true ∧ (heldSlot (some (writeTo true))).drained 0 = false := by
  constructor
  · rw [State.drained, heldQueues_nil _ _ (by decide +kernel)]; decide +kernel
  · rw [State.drained, Bool.and_eq_false_iff]; exact .inr (by decide +kernel)

theorem test_meets_SlotWrites :
    (let s := ((heldSlot none).setSel (.core 0 0) (regAddr CDC_SLOT_SEL 0 0) 3#32).fset CDC_WLEN_LEN 48 0
     s.mayWriteGallery (.core 0 0) 0 = true ∧ s.writeOf 0 = none ∧ s.chamberOf 0 = some 0 ∧ s.chLive 0 = true ∧
      bitsOf (s.sel (.core 0 0) (regAddr CDC_SLOT_SEL 0 0)).toNat 8 0 = 3 ∧ (s.slot 3).owner = some 0 ∧ (s.slot 3).write = none ∧
      lengthOk (slotKind 3) (s.fget CDC_WLEN_LEN 0) = true ∧ s.slotRefs 3 ≠ 0) ∧
    (withSlot (some (writeTo false))).writeOf 0 = some (3, writeTo false) ∧ dev.mayWriteGallery (.core 8 0) 0 = false ∧
    (withSlot (some (writeTo false))).slotRefs 3 = 0 ∧ (writeTo false).holdUs ≠ 0 ∧
    (writeTo false).goAt + 1000 * (writeTo false).holdUs ≤ dev.now ∧ (heldSlot (some (writeTo false))).slotRefs 3 ≠ 0 ∧
    (heldSlot (some (writeTo false))).writeOf 0 = some (3, writeTo false) ∧
    (withSlot (some (writeTo true))).writeOf 0 = some (3, writeTo true) := by decide +kernel

/-- A function table whose layout holds, with SYM 2 and a direction (R248, R252). -/
def seamless : List Byte := leBytes 8 (1 + 2 * 2 ^ 16 + 8 * 2 ^ 24 + 2 ^ 40) ++ List.replicate 3128 0#8

theorem test_meets_SlotWrites_refused :
    (dev.slot 3).owner ≠ some 0 ∧ ((withSlot none).fset CHB_STATE_STATE chbLoading 0).chLive 0 = false ∧
    ((withSlot (some (writeTo false))).slot 3).write.isSome = true ∧ lengthOk (slotKind 3) 47 = false ∧
    contentOk (slotKind 3) (List.replicate 48 0xFF#8) = false ∧ contentOk (slotKind 0x140) seamless = true ∧
    slotKind 0x140 = 2 ∧ (parseFn seamless).seamsOk = false ∧ (writeTo true).payload ≠ [] ∧ (withSlot none).engOps = [] ∧
    good ((withSlot none).readVa (reqCdc 0) 0 (direct 0) 48) (fun _ _ => true) = true ∧
    bad ((withSlot none).readVa (reqCdc 0) 0 0x1000 48) = true := by decide +kernel

theorem test_slot_write_done : after (exec (.slotWriteDone 0) (withSlot (some (writeTo true))))
    (fun s => (s.slot 3).content == List.replicate 48 1#8 && (s.slot 3).gen == 2) = true := by decide +kernel

/-! ### Engines -/

/-- A VX.ADD of f32 rows at scratch offsets 0x100, 0x200 and 0x300: rd s1, ra s2, rb s3, length s4, status s5, TYPE f32. -/
def vxWord (op : Nat) : Word64 :=
  BitVec.ofNat 64 (op * 2 ^ 56 + 1 * 2 ^ 53 + 2 * 2 ^ 50 + 3 * 2 ^ 47 + 4 * 2 ^ 41 + 5 * 2 ^ 35 + cF32 * 2 ^ 31)

def vxRegsOf (b : Word) : List Word := [0, 0x100#32, 0x200#32, b, 8#32, 0, 0, 0]

/-- A VX.CVT of one coded block through slot 3 at scratch offset 0x200 (R189, R241). -/
def cvtWord : Word64 := BitVec.ofNat 64 (0x58 * 2 ^ 56 + 1 * 2 ^ 53 + 2 * 2 ^ 50 + 4 * 2 ^ 41 + 5 * 2 ^ 35 + cCb4 * 2 ^ 31 + cF32 * 2 ^ 27 +
  3 * 2 ^ 11)

theorem test_meets_VectorIssue :
    (∀ op ∈ [0x40, 0x41, 0x42, 0x43, 0x44, 0x45, 0x46, 0x50, 0x51, 0x58, 0x59, 0x60, 0x64, 0x65, 0x66, 0x70],
      (run (vxWord op) (vxRegsOf 0x300#32)).issues 0 0 op (vxMask (vxWord op)) (vxWord op)) ∧
    bitsOf (vxWord 0x40).toNat 43 41 = 4 ∧
    dev.vxOk 0 (vxWord 0x40) (VxRegs.of [0x100, 0x200, 0x300, 0, 8, 0]) = true ∧
    dev.vxOk 0 (vxWord 0x40) (VxRegs.of [0x100, 0x200, 0x301, 0, 8, 0]) = false ∧
    dev.engineRoom 0 1 = true ∧ vxSlots (vxWord 0x40) = [] ∧ (run (vxWord 0x40) []).DecodedUp 5 ∧
    vxSlots cvtWord = [3] ∧ (withSlot (some (writeTo true))).closedTo ⟨0, 0, none⟩ 3 = true := by
  unfold State.issues State.canIssue State.DecodedUp; decide +kernel

/-- A VXE queue of 16 instructions is full (R241). -/
def vxOp (id : Nat) : EngOp :=
  { id := id, eng := .vxe, core := 0, strand := 0, item := ⟨0, 0, none⟩, sreg := 5, word := vxWord 0x40, desc := [],
    issuedAt := 0, mark := id, sampled := false, checker := none, status := none, aborted := false, decoded := true, gated := false,
    aux := [0x100, 0x200, 0x300, 0, 8, 0], dup := [], tile := none }

theorem test_vxe_full : ({ dev with engOps := (List.range 16).map vxOp } : State).engineRoom 0 1 = false := by decide +kernel

theorem test_meets_VectorResults : (Val.fin true (3/2)).isFin = true ∧ [Val.zero, .nan].any Val.isNan = true ∧
    (∀ x ∈ [Val.inf true, .inf true], x = .inf true) ∧ [Val.inf true] ≠ [] := by decide +kernel

/-- 2.0 + 2.0 = 4.0 in f32, element by element (R7, R235). -/
def vxData : State := stored (stored dev 0x200 (leBytes 4 0x40000000)) 0x300 (leBytes 4 0x40000000)

/-- A device whose VXE has one instruction at the head of its queue. -/
def vxQueued (s : State) (o : EngOp) : State := { s with engOps := [o] }

/-- Whether the compute of a head fails as `p` says. -/
def vxFails (s : State) (o : EngOp) (p : MFault ⊕ Nat → Bool) : Bool :=
  match (s.vxCompute (s.vxRunOf o)).1 with
  | .error e => p e
  | .ok _ => false

theorem test_meets_EngineCompletion_vxe :
    dev.engHead 0 .vxe = none ∧ (vxQueued vxData (vxOp 0)).engHead 0 .vxe = some (vxOp 0) ∧
    (vxQueued vxData (vxOp 0)).engReady (vxOp 0) = true ∧
    good ((vxQueued vxData (vxOp 0)).vxCompute ((vxQueued vxData (vxOp 0)).vxRunOf (vxOp 0))) (fun _ _ => true) = true ∧
    vxFails (vxData.setPoison (scratchBase 0 + 0x200) true) (vxOp 0) Sum.isLeft = true ∧
    vxFails (withSlot none) { vxOp 0 with word := cvtWord, aux := [0x1000, 0x200, 0, 0x280, 256, 0] } Sum.isRight = true ∧
    ({ vxQueued vxData (vxOp 3) with ms := (withOps [memOp .store none]).ms } : State).engReady (vxOp 3) = false := by
  decide +kernel

/-- Fields of a descriptor of `n` bytes: offset, length, value. -/
def descOf (n : Nat) (l : List (Nat × Nat × Nat)) : List Byte :=
  l.foldl (fun d f => overlay d f.1 (leBytes f.2.1 f.2.2)) (List.replicate n 0#8)

/-- The word of opcode `op` with its status in s5 and its descriptor at scratch offset 0x80 (R205). -/
def runWord (op : Nat) : Word64 := BitVec.ofNat 64 (op * 2 ^ 56 + 5 * 2 ^ 53 + 0x80)

/-- A format slot, 0x1C0, with one profile: f16 by f16 into f32, VALID (R201, R202). -/
def profile : Nat := cF16 + cF16 * 2 ^ 8 + cF16 * 2 ^ 16 + cF16 * 2 ^ 24 + 2 ^ 47
def withProfile (s : State) : State :=
  s.setSlot 0x1C0 { owner := some 0, gen := 1, monotone := false, write := none, content := descOf 528 [(1, 1, 2), (0x10, 16, profile), (0x20, 16, profile)] }

def mxDesc : List Byte :=
  descOf 128 [(0, 1, 1), (1, 1, 2), (2, 2, 0x1C0), (6, 2, 1), (8, 2, 1), (0xA, 2, 0xFFFF), (0xC, 2, 0xFFFF), (0x10, 4, 32),
    (0x14, 4, 64), (0x18, 4, 64), (0x1C, 4, 64)]

/-- An MX.RUN with a tile of one line, or of none, still to drain, at scratch offset 0x100. -/
def mxOp (lines : List (Nat × List Byte)) : EngOp :=
  { vxOp 0 with eng := .mxe, word := 0#64, aux := [0], tile := some { left := lines, done := [], seen := [], flags := Flags.zero } }

/-- A sampled MX.RUN with its status word, that core 1 checks: one element, a NaN, and `copy` in its place. -/
def mxSampled (copy : Nat) : EngOp :=
  { mxOp [] with
    sampled := true, status := some 0x80, checker := some 1, aux := [profile],
    dup := [{ primary := 0x7E00, copy := copy, magnitude := none }] }

theorem test_meets_EngineCompletion_mxe :
    dev.engHead 0 .mxe = none ∧ (vxQueued dev (mxOp [])).engHead 0 .mxe = some (mxOp []) ∧
    (vxQueued dev (mxOp [])).engReady (mxOp []) = true ∧ (vxQueued dev (mxOp [])).awaitsNoRead (.eng 0) ∧
    (dev.engWrites (mxOp []) 0 []).1 = (none, 0) ∧ (dev.engWrites (mxOp []) 0 [(0x1000, [1#8])]).1.1.isSome = true ∧
    (vxQueued dev (mxSampled 0x7E00)).engHead 0 .mxe = some (mxSampled 0x7E00) ∧ (vxQueued dev (mxSampled 0)).awaits (.eng 0) = false ∧
    dupWorst (mxSampled 0).dup (pfC ((mxSampled 0).aux.headD 0)) ((parseMx []).k + b2n (parseMx []).accIn) (dev.dupTol 0) = none ∧
    dupWorst (mxSampled 0x7E00).dup (pfC ((mxSampled 0).aux.headD 0)) ((parseMx []).k + b2n (parseMx []).accIn) (dev.dupTol 0) = some 0 := by
  unfold State.awaitsNoRead; decide +kernel

/-- An MX.RUN decoded from a descriptor. -/
def mxRunOp (d : List Byte) : EngOp := { vxOp 0 with eng := .mxe, word := runWord 0x80, desc := d, aux := [profile] }

/-- The same with its matrices in core 0's scratch, A at 0x1000, B at 0x2000 and C at 0x3000. -/
def mxPlaced : List Byte :=
  [(0x20, 0x1000), (0x30, 0x2000), (0x48, 0x3000)].foldl (fun d p => overlay d p.1 (leBytes 8 (direct p.2))) mxDesc

theorem test_meets_tile_formed :
    (match (withProfile dev).mxForm (mxRunOp mxPlaced) with | (some _, _) => true | _ => false) = true ∧
    (match (withProfile dev).mxForm (mxRunOp mxDesc) with | (none, _) => true | _ => false) = true := by
  decide +kernel

theorem test_meets_EngineCompletion_atu :
    dev.engHead 0 .atu = none ∧ dev.awaitsNoRead (.eng 0) ∧
    (∀ w ∈ [0x88, 0x89, 0x8A], (let o : EngOp := { vxOp 0 with eng := .atu, word := BitVec.ofNat 64 (w * 2 ^ 56), aux := [0] }
     (vxQueued dev o).engHead 0 .atu = some o ∧ o.aux.headD 0 ≠ 1 ∧ opcodeOf o.word = w ∧ (vxQueued dev o).engReady o = true)) := by
  unfold State.awaitsNoRead; decide +kernel

theorem test_vx_add :
    (let r := [0x100, 0x200, 0x300, 0, 1, 0]
     good (vxData.vxCompute { o := vxOp 0, n := 0, w := vxWord 0x40, r := VxRegs.of r })
       (fun z _ => z.writes == [(0x100, leBytes 4 0x40800000)])) = true := by decide +kernel

theorem test_meets_StatusWord : dev.item ⟨0, 0, none⟩ = none ∧ dev.traceChamber 0 = none ∧ (vxOp 0).sreg < 8 := by decide +kernel

theorem test_meets_EngineAborts :
    (∀ e ∈ [Engine.mxe, .atu], (let o : EngOp := { vxOp 0 with eng := e, aborted := true, word := 0x8A00_0000_0000_0000#64 }
     (vxQueued dev o).engOps.find? (fun p => p.core == 0 && p.eng == e && p.aborted) = some o)) ∧
    (let o : EngOp := { vxOp 0 with aborted := true, decoded := false }
     (vxQueued dev o).engHead 0 .vxe = none ∧ (vxQueued dev o).engOps.find? (fun p => p.core == 0 && p.eng == .vxe && p.aborted) = some o) ∧
    (∀ e ∈ [Engine.vxe, .mxe, .atu], dev.engOps.find? (fun p => p.core == 0 && p.eng == e && p.aborted) = none) ∧
    (let y := vxData.vxRunOf (vxOp 0)
     y.parts = 0 ∧ good (vxData.vxCompute (y.part 1)) (fun _ _ => true) = true) ∧
    (let o : EngOp := { vxOp 0 with eng := .rte, aborted := true }
     (vxQueued dev o).engOps.filter (fun p => p.aborted && p.core / 8 == 0 && (p.eng == .rte || p.eng == .xce)) = [o]) := by
  decide +kernel

def mxState (d : List Byte) : State := stored (withProfile (run (runWord 0x80) [])) 0x80 d

/-- Whether a descriptor's copy succeeds with the strand's context as it was, and descriptor and state satisfy `p`. -/
def copies (s : State) (off len : Nat) (p : List Byte → State → Bool) : Bool :=
  !s.ms.owes 0 0 s.ms.nextId &&
  good (s.ownScratch 0 off len) (fun d u => u.deliver.strand 0 0 == s.strand 0 0 && p d u.deliver)

/-- A device whose strand 0 of core 0 has a store that waits. -/
def owing (s : State) : State := { s with ms := (withOps [memOp .store none]).ms }

theorem test_meets_MatrixIssue :
    (mxState mxDesc).issues 0 0 0x80 (regMask 5) (runWord 0x80) ∧ bitsOf (runWord 0x80).toNat 52 21 = 0 ∧
    bitsOf (runWord 0x80).toNat 20 0 % 128 = 0 ∧ (mxState mxDesc).engineRoom 0 0 = true ∧
    (owing (mxState mxDesc)).issues 0 0 0x80 (regMask 5) (runWord 0x80) ∧ (owing (mxState mxDesc)).ms.owes 0 0 8 = true ∧
    ({ mxState mxDesc with engOps := (List.range 16).map (fun k => { vxOp k with eng := .mxe }) } : State).engineRoom 0 0 = false ∧
    bad (((mxState mxDesc).setPoison (scratchBase 0 + 0x80) true).ownScratch 0 0x80 128) = true ∧
    copies (mxState mxDesc) 0x80 128 (fun d v => v.mxOk (v.coreChamber 0) d && v.engineRoom 0 0 &&
      (mxSlots (v.mxProfile (v.coreChamber 0) (parseMx d)) (parseMx d)).all (fun id => (v.slot id).write == none) &&
      v.engOps == [] && (v.sample 0 ⟨0, 0, none⟩ (parseMx d).noDup).1 == none) = true ∧
    copies (mxState (List.replicate 128 0#8)) 0x80 128 (fun d v => !v.mxOk (v.coreChamber 0) d) = true ∧
    copies ((mxState mxDesc).setSlot 0x1C0 { (mxState mxDesc).slot 0x1C0 with write := some (writeTo true) }) 0x80 128 (fun d v =>
      (mxSlots (v.mxProfile (v.coreChamber 0) (parseMx d)) (parseMx d)).any (v.closedTo ⟨0, 0, none⟩)) = true ∧
    bitsOf (BitVec.ofNat 64 (0x80 * 2 ^ 56 + 0x40) : Word64).toNat 20 0 % 128 ≠ 0 ∧ owned.owns (.session 0) = true ∧
    dev.fget MXE_DUP_CTRL_RATE_LOG2 127 ≠ 31 ∧ dev.mayWriteCore (.core 0 0) 0 = true := by
  unfold State.issues State.canIssue; decide +kernel

/-! ### Attention, sequences, routing -/

/-- A chamber with a pool of 1 GiB (R394). -/
def pooled (s : State) : State := { s with chambers := [{ room with kvGib := 1 }] }

def atState (op : Nat) (d : List Byte) : State := stored (withProfile (run (runWord op) [])) 0x80 d

/-- AT.RUN on one token of D 64, and AT.APPEND of one token (R284, R294). -/
def atRunDesc : List Byte :=
  descOf 128 [(0, 1, 2), (2, 2, 0x1C0), (8, 2, 64), (0xA, 1, 1), (0x10, 2, 1), (0x18, 4, 0x3F800000)]
def atAppendDesc : List Byte := descOf 128 [(0, 1, 3), (2, 2, 0x1C0), (6, 1, cF16), (8, 2, 64), (0xC, 2, 1)]

/-- AT.SEQ with an operation; the fields of an OPEN of 32 tokens of D 64 in f16 (R271, R272). -/
def sqDesc (op : Nat) : List Byte :=
  descOf 64 [(0, 1, 4), (1, 1, op), (4, 4, 1), (8, 4, 32), (0xC, 4, 1), (0x10, 2, 64), (0x12, 1, cF16), (0x13, 1, cF16),
    (0x14, 2, 1), (0x16, 2, 1)]

/-- Sequence 7 of chamber 0, OPEN with generation 1 and 40 tokens appended, 32 committed (R269, R270). -/
def withSeq (s : State) : State :=
  s.setSeq 0 7 { Seq.none with state := 1, gen := 1, d := 64, length := 32, high := 40, max := 64 }

/-- An AT.RUN or AT.APPEND over one list entry at scratch offset 0x400, which names sequence 7 under a generation. -/
def listDesc (d : List Byte) (at_ : Nat) : List Byte := overlay d at_ (leBytes 8 (direct 0x400))
def listEntry (n gen : Nat) : List Byte :=
  if n = 16 then descOf 16 [(0, 2, 7), (2, 2, 1), (4, 4, gen)] else descOf 32 [(0, 2, 7), (2, 2, 1), (4, 4, gen), (0xC, 4, 1)]

/-- A device with sequence 7 OPEN whose strand issues an AT.RUN or AT.APPEND on it. -/
def atOver (op : Nat) (d : List Byte) (at_ n : Nat) : State :=
  stored (withSeq (atState op (listDesc d at_))) 0x400 (listEntry n 1)

/-- The engine instruction of a descriptor in core 0's ATU. -/
def atOp (op : Nat) (d : List Byte) : EngOp := { vxOp 4 with eng := .atu, word := runWord op, desc := d, aux := [0], decoded := false }

theorem test_meets_AttentionIssue_issue :
    (∀ op ∈ [0x88, 0x89, 0x8A], (atState op []).issues 0 0 op (regMask 5) (runWord op) ∧
      (owing (atState op [])).issues 0 0 op (regMask 5) (runWord op)) ∧
    bitsOf (runWord 0x88).toNat 52 21 = 0 ∧ bitsOf (runWord 0x88).toNat 20 0 % 128 = 0 ∧
    bitsOf (BitVec.ofNat 64 (0x88 * 2 ^ 56 + 0x40) : Word64).toNat 20 0 % 128 ≠ 0 ∧
    (atState 0x88 []).engineRoom 0 3 = true ∧ (owing (atState 0x88 [])).ms.owes 0 0 8 = true ∧
    ({ dev with engOps := (List.range 16).map (fun k => { vxOp k with eng := .atu }) } : State).engineRoom 0 3 = false ∧
    bad (((atState 0x88 atRunDesc).setPoison (scratchBase 0 + 0x80) true).ownScratch 0 0x80 128) = true := by
  unfold State.issues State.canIssue; decide +kernel

theorem test_meets_AttentionIssue_list :
    (∀ p ∈ [(0x88, atRunDesc, 0x20, 32), (0x89, atAppendDesc, 0x10, 16)],
      copies (atOver p.1 p.2.1 p.2.2.1 p.2.2.2) 0x80 128 (fun d v =>
        let o := v.newOp .atu 0 0 5 (runWord p.1) d [0]
        let e := v.enqueue 0 0 (v.strand 0 0) (runWord p.1) .atu 5 d [0]
        v.engOps == [] && (v.slot (fieldAt d 2 2)).write == none && !e.fab.outstanding.any (fun x => x.owner == .eng o.id) &&
        ((e.asksAs (.eng o.id)).listDecode o).ms.wanted == []) = true) := by decide +kernel

theorem test_meets_AttentionIssue_held :
    (withProfile dev |>.setSlot 0x1C0 { (withProfile dev).slot 0x1C0 with write := some (writeTo true) }).closedTo ⟨0, 0, none⟩ 0x1C0 = true ∧
    [{ atOp 0x8A [] with id := 0 }].any (fun p => p.core == 0 && p.eng == .atu && p.id < 4 && opcodeOf p.word == 0x8A) = true := by
  decide +kernel

/-- Whether decode takes a descriptor. -/
def listTaken (s : State) (o : EngOp) : Bool := if opcodeOf o.word == 0x89 then s.appendOk 0 o.desc else s.runOk 0 o.desc

theorem test_meets_AttentionIssue_decode :
    (∀ p ∈ [(0x88, atRunDesc, 0x20, 32), (0x89, atAppendDesc, 0x10, 16)],
      listTaken (atOver p.1 p.2.1 p.2.2.1 p.2.2.2) (atOp p.1 (listDesc p.2.1 p.2.2.1)) = true ∧
      listTaken dev (atOp p.1 []) = false ∧
      listOf (atOp p.1 (listDesc p.2.1 p.2.2.1)) = (direct 0x400, p.2.2.2) ∧
      good ((atOver p.1 p.2.1 p.2.2.1 p.2.2.2).engRead 0 0 (direct 0x400) p.2.2.2) (fun b v =>
        listOk (atOp p.1 (listDesc p.2.1 p.2.2.1)) b && listSeqs (atOp p.1 (listDesc p.2.1 p.2.2.1)) b == [(7, 1)] &&
        v.seqLive 0 7 1 && !v.seqLive 0 7 2) = true ∧
      bad (dev.engRead 0 0 0 p.2.2.2) = true ∧
      listOk (atOp p.1 (listDesc p.2.1 p.2.2.1)) (List.replicate 32 0#8) = false) := by decide +kernel

theorem test_meets_AttentionIssue_seq :
    (∀ op ∈ [0, 1, 2, 3], copies (atState 0x8A (sqDesc op)) 0x80 64 (fun d v =>
      sqOp d == op && seqOk d && v.engineRoom 0 3 && v.engOps == [] && !v.ms.ops.any (fun p => p.core == 0 && p.strand == 0)) = true) ∧
    seqOk (List.replicate 64 0#8) = false ∧ sqOp (sqDesc 5) = 5 := by decide +kernel

theorem test_meets_AttentionIssue_waiting :
    (let o : EngOp := { vxOp 0 with eng := .atu, word := runWord 0x89, aux := [1] }
     let s := vxQueued (pooled dev) o
     s.engHead 0 .atu = some o ∧ o.suspended = true ∧ 0 < s.poolFree 0 ∧ dev.poolFree 0 = 0 ∧
     s.awaitsNoRead (.eng 0)) ∧
    (let o : EngOp := { vxOp 0 with eng := .atu, word := runWord 0x8A, aux := [1], desc := sqDesc 0 }
     (vxQueued dev o).engOps.filter (fun o => opcodeOf o.word == 0x8A && o.eng == .atu && sqOp o.desc == 0 && o.aux == [1] &&
       !o.aborted && dev.coreChamber o.core == 0) = [o]) ∧
    (let o : EngOp := { vxOp 0 with eng := .atu, word := runWord 0x8A, aux := [1], desc := sqDesc 2 }
     (vxQueued dev o).engHead 0 .atu = some o ∧ 2 ≤ sqOp o.desc ∧ (vxQueued dev o).seqRefs 0 (sqSeq o.desc) = 0 ∧
     ({ dev with items := [{ itemOf [] .backlog with seqRefs := [seqKey 0 (sqSeq o.desc)] }] } : State).seqRefs 0 (sqSeq o.desc) ≠ 0) := by
  unfold State.awaitsNoRead; decide +kernel

def seqState : State := withSeq dev

theorem test_meets_SequenceEntries :
    (let d := descOf 64 [(0, 1, 4), (1, 1, 1), (2, 2, 7), (4, 4, 1)]
     sqOp d = 1 ∧ (seqState.seq 0 (sqSeq d)).state = 1 ∧ (seqState.seq 0 (sqSeq d)).gen = sqGen d) ∧ seqKey 0 8 ≠ seqKey 0 7 ∧
    (let s : State := { dev with kv := { dev.kv with zeroing := [(0, 0x10000)] } }
     s.kv.zeroing.find? (fun e => e.1 == 0) = some (0, 0x10000)) ∧ dev.kv.zeroing.find? (fun e => e.1 == 0) = none := by decide +kernel

/-- The generation that follows 0xFFFF_FFFF is 1 (R269). -/
theorem test_seq_generation : nextSeqGen 0xFFFF_FFFF = 1 ∧ ((seqState.seqRelease 0 7).seq 0 7).gen = 2 ∧
    ((seqState.seqTruncate 0 7 16).seq 0 7).length = 16 := by decide +kernel

/-- Routing profile 0 of chamber 0: VALID, top-1 of 8 experts, one local expert, bias limit 1.0 (R312). -/
def rProfile : List Byte :=
  descOf 64 [(0, 1, 0x80), (1, 1, 1), (2, 2, 8), (4, 1, 1), (5, 1, cF16), (0x16, 2, 32), (0x1C, 2, 0x3F80), (0x1E, 2, 1)]

def routed (s : State) : State := { s with rte := { s.rte with profiles := [(0, rProfile)] } }

def rtDesc : List Byte := descOf 128 [(0, 1, 5), (1, 1, 1), (3, 1, cF16), (4, 2, 1)]
def xcDesc (type chunk : Nat) : List Byte := descOf 64 [(0, 1, type), (4, 2, 1), (6, 2, chunk)]

/-- The half of round 1 of profile 0, with one source's marker and its rows. -/
def rxHalf : RxHalf :=
  { chamber := 0, profile := 0, parity := 1, round := 1, markers := [(0, 0, 2)], rows := [(0, 0, 2)], filled := [(0, 2)] }

def xcState (op : Nat) (d : List Byte) : State :=
  let s := stored (routed (run (runWord op) [])) 0x80 d
  { s with rte := { s.rte with halves := [rxHalf] } }

/-- An instruction of gallery 0's queue. -/
def rtOp (op : Nat) (d : List Byte) : EngOp := { vxOp 9 with eng := if op = 0x90 then .rte else .xce, word := runWord op, desc := d, aux := [] }

/-- A batch of epoch 3 in gallery 0. -/
def batchOf (only marked : Bool) (sel : List Assign) : Batch :=
  { op := 9, gallery := 0, chamber := 0, epoch := 3, profile := 0, round := 1, tokens := 1, lc := false, selectOnly := only, sel := sel,
    devices := [], marked := marked, cause := none, flags := 0 }

/-- A device with that batch. -/
def batching (only marked : Bool) (sel : List Assign) : State :=
  { vxQueued dev (rtOp 0x90 []) with rte := { dev.rte with
      batches := [batchOf only marked sel], epochs := [{ gallery := 0, epoch := 3, live := true, cancelled := false }] } }

theorem test_meets_RoutingIssue_issue :
    (∀ op ∈ [0x90, 0x91, 0x92], (atState op []).issues 0 0 op (regMask 5) (runWord op) ∧ (atState op []).engineRoom 0 4 = true ∧
      (atState op []).engineRoom 0 5 = true) ∧ (owing (atState 0x90 [])).ms.owes 0 0 8 = true ∧
    bitsOf (BitVec.ofNat 64 (0x92 * 2 ^ 56 + 0x20) : Word64).toNat 20 0 % 64 ≠ 0 ∧ bitsOf (runWord 0x92).toNat 52 21 = 0 ∧
    bad (((atState 0x90 rtDesc).setPoison (scratchBase 0 + 0x80) true).ownScratch 0 0x80 64) = true := by
  unfold State.issues State.canIssue; decide +kernel

theorem test_meets_RoutingIssue_rt :
    copies (stored (routed (run (runWord 0x90) [])) 0x80 rtDesc) 0x80 128 (fun d v =>
      v.engOps == [] && v.engineRoom 0 4 && v.rtOk 0 false d && decide (v.batchesOf 0 < 64) &&
      (rtDecoder.names v (v.newOp .rte 0 0 5 (runWord 0x90) d [])) == []) = true ∧
    copies (atState 0x90 []) 0x80 128 (fun d v =>
      let o := v.newOp .rte 0 0 5 (runWord 0x90) d []
      let e := v.enqueue 0 0 (v.strand 0 0) (runWord 0x90) .rte 5 d []
      ((e.asksAs (.eng o.id)).rtDecode o).ms.wanted == [] && !e.rtOk 0 true d) = true ∧
    (withSlot (some (writeTo true))).closedTo ⟨0, 0, none⟩ 3 = true ∧
    ({ dev with rte := { dev.rte with batches := List.replicate 64 (batchOf true false []) } } : State).batchesOf 0 = 64 := by
  decide +kernel

theorem test_meets_RoutingIssue_xc :
    (∀ p ∈ [(0x91, 6, 1), (0x92, 7, 0)], copies (xcState p.1 (xcDesc p.2.1 p.2.2)) 0x80 64 (fun d v =>
      let o := v.newOp .xce 0 0 5 (runWord p.1) d []
      v.engOps == [] && v.xcOk o 0 && v.xcMay o 0 && v.ms.found == [] && v.engineRoom 0 5 &&
      !(routed dev).xcOk { o with desc := [] } 0) = true) ∧
    (xcState 0x92 []).xcMay (rtOp 0x92 (overlay (xcDesc 7 0) 4 (leBytes 2 3))) 0 = false := by decide +kernel

theorem test_meets_RoutingIssue_writes :
    ((routed dev).mayWriteRte (.core 0 0) 0 = true ∧ (routed dev).rpOk 0 0 = true ∧ 7 < rpExperts rProfile ∧ dev.chamberOf 0 = some 0 ∧
      (fmtBf16.decode 0x7FC0).isNan = true ∧
      (fmtBf16.decode 0x3F00).isNan = false ∧ (rpBiasLimit rProfile).lt (fmtBf16.decode 0x3F00) = false ∧
      (fmtBf16.decode 0x3F00).lt (rpBiasLimit rProfile).negate = false) ∧
    ((batching true false []).epochLive 0 3 = true ∧ (batching true false []).batch 0 3 = some (batchOf true false []) ∧
      (batching true false []).engOp 9 = some (rtOp 0x90 []) ∧ dev.epochLive 0 3 = false) := by decide +kernel

/-- An XCE instruction of round 1 of profile 0. -/
def xcOp (op : Nat) : EngOp := rtOp op (overlay (xcDesc 6 1) 8 (leBytes 8 (direct 0x400)))

/-- A device with that instruction, routing profile 0 and the half `h`. -/
def exchanging (op : Nat) (h : RxHalf) : State :=
  { routed dev with engOps := [xcOp op], rte := { (routed dev).rte with halves := [h] } }

theorem test_meets_RoutingCompletion :
    (∀ s ∈ [batching true false [], batching false true [], batching false false []], s.engOp 9 = some (rtOp 0x90 [])) ∧
    (rtOp 0x90 []).aborted = false ∧ (rtOp 0x90 []).status = none ∧
    ((batching false true []).emptyRows (batchOf false true []) (rtOp 0x90 []) []).batch 0 3 = some (batchOf false true []) ∧
    (let s := exchanging 0x91 rxHalf
     s.engOp 9 = some (xcOp 0x91) ∧ opcodeOf (xcOp 0x91).word = 0x91 ∧ (xcOp 0x91).eng = .xce ∧ (xcOp 0x91).decoded = true ∧
     s.xcMay (xcOp 0x91) 0 = true ∧ s.half 0 0 1 = some rxHalf ∧ fieldAt (xcOp 0x91).desc 6 2 ≤ rxHalf.markers.length ∧
     (∀ m ∈ rxHalf.markers, m.2.2 ≤ rxHalf.rowsOf m.1 m.2.1) ∧
     (List.range (rpLocalCount (s.rprofile 0 0))).flatMap (fun x => leBytes 4 (rxHalf.filledOf x)) = leBytes 4 2 ∧
     (s.writeVa (reqRte 0) 0 (.eng 9) 0 (direct 0x400) (leBytes 4 2)).1 = none) ∧
    (exchanging 0x91 { rxHalf with round := 3 }).xcMay (xcOp 0x91) 0 = false ∧
    (exchanging 0x91 { rxHalf with markers := [] }).half 0 0 1 = some { rxHalf with markers := [] } ∧
    ({ rxHalf with rows := [] } : RxHalf).rowsOf 0 0 < 2 := by decide +kernel

theorem test_meets_RoutingCompletion_return :
    (let h : RxHalf := { rxHalf with filled := [] }
     let s := exchanging 0x92 h
     s.engOp 9 = some (xcOp 0x92) ∧ s.xcBehind (xcOp 0x92) = false ∧ s.xcMay (xcOp 0x92) 0 = true ∧ s.half 0 0 1 = some h ∧
     (s.returnRows (xcOp 0x92) 0 rProfile h []).1 = none ∧ s.awaitsNoRead (.eng 9) ∧
     ((s.asksAs (.eng 9)).xcReturn (xcOp 0x92)).ms.wanted = []) ∧
    (exchanging 0x92 { rxHalf with round := 3 }).xcMay (xcOp 0x92) 0 = false := by
  unfold State.awaitsNoRead; decide +kernel

theorem test_meets_bias_window :
    (let s : State := { routed dev with rte := { (routed dev).rte with loops := [(0, ⟨5, 9, 0, 0, 0⟩)] } }
     s.rpOk 0 0 = true ∧ rpBiasN (s.rprofile 0 0) ≤ (s.loopOf 0 0).batches ∧ (s.loopOf 0 0).counted < 64) ∧
    (let s : State := { dev with rte := { dev.rte with profiles := [(0, overlay rProfile 0x18 (leBytes 2 5))] } }
     (s.loopOf 0 0).batches < rpBiasN (s.rprofile 0 0)) := by decide +kernel

/-! ### Memory -/

/-- A memory word: address in s2 and s3, data in s4, compare operand in s0, size 2, and ORD. -/
def moWord (op ord aop : Nat) : Word64 :=
  BitVec.ofNat 64 (op * 2 ^ 56 + 4 * 2 ^ 53 + 2 * 2 ^ 50 + 0 * 2 ^ 47 + 2 * 2 ^ 42 + ord * 2 ^ 40 + aop * 2 ^ 32)

/-- s2 and s3 hold a virtual address. -/
def moRegs (va : Nat) : List Word := [7#32, 0, BitVec.ofNat 32 va, BitVec.ofNat 32 (va / 2 ^ 32), 5#32, 0, 0, 0]

def moState (op aop va : Nat) : State := run (moWord op 0 aop) (moRegs va)

theorem test_meets_MemoryIssue :
    (∀ p ∈ [(0xA0, 0), (0xA1, 0), (0xA2, 0), (0xA2, 1), (0xA2, 2), (0xA2, 3), (0xA2, 4), (0xA2, 5), (0xA2, 6), (0xA2, 7)],
      (moState p.1 p.2 (direct 0x100)).issues 0 0 p.1 0xFF (moWord p.1 0 p.2) ∧ moAop (moWord p.1 0 p.2) = p.2 ∧
      moMalformed (moWord p.1 0 p.2) = false ∧
      moAddr (moWord p.1 0 p.2) ((moState p.1 p.2 (direct 0x100)).strand 0 0) = direct 0x100 ∧
      direct 0x100 % 2 ^ moSize (moWord p.1 0 p.2) = 0 ∧ ((moState p.1 p.2 (direct 0x100)).pendingLines 0).length < 32 ∧
      good ((moState p.1 p.2 (direct 0x100)).translate (reqCore 0) 0 (direct 0x100) (p.1 != 0xA0) false)
        (fun tg s' => tg.pa == scratchBase 0 + 0x100 && s'.strand 0 0 == (moState p.1 p.2 (direct 0x100)).strand 0 0) = true ∧
      bad ((moState p.1 p.2 0x100).translate (reqCore 0) 0 0x100 (p.1 != 0xA0) false) = true) ∧
    direct 0x102 % 4 ≠ 0 ∧ moMalformed (moWord 0xA0 2 0) = true ∧ (withOps []).ms.ops = [] ∧ (withOps []).ms.observed = [] ∧
    (let s := withOps ((List.range 32).map (fun k => { memOp .store none with id := k, addr := 64 * k }))
     32 ≤ (s.pendingLines 0).length ∧ (none, 32) ∉ s.pendingLines 0) ∧
    (∀ k ∈ [1, 2, 3], (run (moWord 0xA3 k 0) []).issues 0 0 0xA3 0 (moWord 0xA3 k 0) ∧ moOrd (moWord 0xA3 k 0) = k ∧
      moMalformed (moWord 0xA3 k 0) = false) ∧ moMalformed (moWord 0xA3 1 0 ||| 0x0000_4000_0000_0000#64) = true := by
  unfold State.issues State.canIssue; decide +kernel

theorem test_meets_AccessPerformed :
    (withOps [memOp .store none]).ms.ops.find? (fun o => o.id == 0) = some (memOp .store none) ∧
    (withOps [memOp .store none]).mayPerform (memOp .store none) = true ∧ (withOps [memOp .store none]).behindLc (memOp .store none) = false ∧
    (withOps [memOp .load (some 1)]).mayPerform (memOp .load (some 1)) = true ∧
    (let o : MemOp := { memOp .store none with id := 1 }
     (withOps [{ memOp .load none with acq := true }, o]).mayPerform o = false) ∧
    ({ memOp .load (some 1) with sent := some 0 } : MemOp).sent.isSome = true ∧
    dev.rights 0 (scratchBase 0 + 0x100) true true = none ∧ (dev.rights 1 (scratchBase 0 + 0x100) true true).isSome = true ∧
    ((withOps [memOp .store none]).writeLine (scratchBase 0 + 0x100) (leBytes 4 5) .clean).1 = none ∧
    good ((withOps [memOp .load none]).loadLine (memOp .load none) .clean) (fun _ _ => true) = true ∧
    good ((withOps [memOp (.amo 3) none]).readLine (scratchBase 0 + 0x100) 4 .clean) (fun b _ => leVal b != 7) = true ∧
    good ((stored dev 0x100 [7#8]).readLine (scratchBase 0 + 0x100) 4 .clean) (fun b _ => leVal b == 7) = true := by decide +kernel

/-- A store of a best-effort queue to the pseudo-channel at which a load of a latency-critical one waits (R549). -/
theorem test_behind_lc :
    (let o : MemOp := { memOp .store none with addr := 0, issuedAt := 20_000_000_000, item := ⟨1, 0, none⟩ }
     ((withOps [o, { memOp .load none with id := 1, addr := 0x40, strand := 1 }]).fset GFE_Q_STATE_CLASS 1 1).behindLc o) = true := by
  decide +kernel

/-- A store performed at its home changes its bytes (R396); SWAP returns the old value and stores the new (R433). -/
theorem test_store : after (exec (.homeAccess 0 .clean) (withOps [memOp .store none]))
    (fun s => s.bytes (scratchBase 0 + 0x100) 4 == leBytes 4 5 && s.ms.ops == []) = true := by decide +kernel

theorem test_swap : after (exec (.homeAccess 0 .clean) { stored dev 0x100 [9#8] with ms := (withOps [memOp (.amo 2) none]).ms })
    (fun s => s.bytes (scratchBase 0 + 0x100) 4 == leBytes 4 5 && (s.strand 0 0).reg 4 == 9#32) = true := by decide +kernel

theorem test_meets_AtomicValues : (0xFFFF_FFFF : Nat) < 2 ^ (8 * 2 ^ 2) ∧ 0x80 < 2 ^ (8 * 1) ∧ (3 = 3 → 6 % 2 = 0) ∧ 6 < 8 := by
  decide

/-- SMAX and SMIN are signed; a sign-extended byte fills its register (R422, R433). -/
theorem test_amo_values : amoValue 4 2 0xFFFF_FFFF 1 0 = 1 ∧ amoValue 5 2 0xFFFF_FFFF 1 0 = 0xFFFF_FFFF ∧
    amoValue 0 2 0xFFFF_FFFF 1 0 = 0 ∧ extend true 1 0x80 = 0xFFFF_FF80 := by decide +kernel

theorem test_meets_MmuInvalidations : owned.mayWriteSet (.session 0) 15 = true ∧ owned.mayWriteSet (.session 1) 15 = false ∧
    (let i : Inval := { chamber := 0, va := direct 0x100, pages := 1, all := false, at_ := 5 }
     let s : State := { withOps [memOp (.fence 3) none] with ms := { (withOps [memOp (.fence 3) none]).ms with invals := [i] } }
     let t : State := { withOps [memOp .store none] with ms := { (withOps [memOp .store none]).ms with invals := [i] } }
     s.ms.invals = [i] ∧ s.usesCovered 0 i = false ∧ t.ms.invals = [i] ∧ t.usesCovered 0 i = true) ∧ dev.ms.invals = [] := by
  decide +kernel

theorem test_meets_StackMaintenance :
    (let s := (dev.fset HBC_STATUS_TRAINED 1 15).fset HBC_SCRUB_ENABLE 1 15
     s.stackAwake 15 = true ∧ s.retrainDue 15 15 0 = true ∧ s.elapsed (120 + 15) 100_000 = true ∧ 104 < 105 ∧
     s.pwr.halted = false ∧ s.fget HBC_SCRUB_ENABLE 15 = 1 ∧ s.elapsed (140 + 15) (s.scrubStep 15) = true) ∧
    dev.stackAwake 15 = false ∧
    ({ dev with hbc := { dev.hbc with channels := [(0, ⟨20_000_000_000, 20, 20, 0⟩)] } } : State).retrainDue 0 0 0 = false ∧
    (dev.mark (120 + 15)).elapsed (120 + 15) 100_000 = false := by decide +kernel

/-- HOT rises above 85 °C, not at 85 °C (R407). -/
theorem test_hot : after (exec (.temperatureReadout 3 85) dev) (fun s => s.fget HBC_STATUS_HOT 3 == 0) = true ∧
    after (exec (.temperatureReadout 3 86) dev) (fun s => s.fget HBC_STATUS_HOT 3 == 1 && s.fget HBC_STATUS_TEMP_C 3 == 86) = true := by
  decide +kernel

/-- A watch entry of 10 elements whose largest observed exponent is 3 (R361, R363). -/
def watchEntry : List Byte := descOf 64 [(0x10, 1, 1), (0x11, 1, cF16), (0x14, 2, 3), (0x1C, 4, 10), (0x34, 4, 6)]

/-- A training block in core 0's scratch (R360). -/
def trainState : State :=
  let va := direct 0x1000
  stored ((dev.fset VXE_TRAIN_BASE_LO_ADDR (va % 2 ^ 32 / 64) 0).fset VXE_TRAIN_BASE_HI_ADDR (va / 2 ^ 32) 0) 0x1040 watchEntry

theorem test_meets_TrainingWatch : dev.mayWriteCore (.core 0 0) 0 = true ∧ dev.mayWriteCore (.core 0 0) 127 = false ∧
    good (trainState.trainRead 0 0x40 64) (fun e _ => e == watchEntry) = true ∧ (closeEntry watchEntry).isSome = true ∧
    good (trainState.trainRead 0 0x80 64) (fun e _ => fieldAt e 0x1C 4 == 0) = true ∧ watchEntry.length = 64 ∧
    enObs watchEntry = some 3 ∧ fieldAt watchEntry 0x28 4 = 0 ∧ fieldAt watchEntry 0x2C 4 = 0 := by decide +kernel

theorem test_close_counts : (closeEntry watchEntry).any (fun p => fieldAt p.1 0x34 4 == 7 && fieldAt p.1 0x1C 4 == 0) = true := by
  decide +kernel

/-! ### Side band -/

/-- A device whose I3C target holds dynamic address 0x08 (R702). -/
def sideband (dyn : Option Nat) : State := { dev with i3c := { dev.i3c with vauxAt := some 0, dynamic := dyn } }

theorem test_meets_BoardManagement : (sideband (some 0x08)).i3cAnswers = true ∧ (sideband (some 0x08)).i3c.dynamic = some 0x08 ∧
    (sideband (some 0x08)).i3c.pointer < 256 ∧ (sideband (some 0x08)).i3c.latch = none ∧ bitOf 1 0 = true ∧ 0x09 ≠ 0x08 ∧
    (sideband none).i3cAnswers = true ∧ (sideband none).i3c.dynamic = none ∧
    ({ dev with i3c := { dev.i3c with vauxAt := none } } : State).i3cAnswers = false := by decide +kernel

/-- GETBCR and GETDCR answer 0x06 and 0x00 (R702). -/
theorem test_getbcr : after (exec (.getbcr 0x08) (sideband (some 0x08))) (fun s => s.out == [.i3c [0x06#8]]) = true := by
  decide +kernel

theorem test_meets_TestAccess :
    (let s : State := { dev with pins := { dev.pins with pwrGood := false } }
     s.pins.pwrGood = false) ∧
    (let s : State := { dev with pins := { dev.pins with pwrGood := true, resetN := true } }
     s.pins.pwrGood = true ∧ s.pins.resetN = true ∧ s.pwr.held = false ∧ ({ s with pwr := { s.pwr with held := true } } : State).pwr.held = true) := by
  decide +kernel

/-- The identification code shifts out from its least significant bit (R704). -/
theorem test_idcode : after (exec (.idcode (List.replicate 32 false)) dev)
    (fun s => match s.out with
      | [.tdo b] => b.foldr (fun x n => 2 * n + b2n x) 0 == 0x1A1629C3
      | _ => false) = true := by decide +kernel

/-! ### The control protocol -/

/-- A sealed request in slot 0 with SEQ 5. -/
def framed (type : Nat) (payload : List Byte) : Frame := { frameOf type with payload := payload, length := payload.length }

/-- What an encrypted frame of the session `x` must be, beside sealed, for the device to take it (R456, R465, R466). -/
abbrev Fits (s : State) (p : Nat) (f : Frame) (ty : Nat) (x : Session) : Prop :=
  f.type = ty ∧ f.tag = [] ∧ f.flags = 1 ∧ s.ctpUp p = true ∧ s.fget CTP_PORT_STATUS_ISOLATED p = 0 ∧ f.slot < 16 ∧
  s.session f.slot = some x ∧ x.port = p ∧ ({ f with tag := List.replicate 16 0#8 } : Frame).badHeader = false ∧ x.rx < f.seq ∧
  f.seq < 2 ^ 48 ∧ x.tx + 8 < 2 ^ 48 ∧ (s.sessState f.slot = sessOpening ↔ ty = 3) ∧
  (ownerTypes.contains ty = true → s.ownerSession (.session f.slot) = true)

/-- A frame that fits, sealed by the node under its session's key, is taken: the tests below show frames that fit. -/
theorem test_fits_takes (s : State) (p : Nat) (f : Frame) (ty : Nat) (x : Session) (h : Fits s p f ty x) :
    s.takesFrame p (f.sealed x.fromNode 0) f ty x := by
  obtain ⟨h1, h2, h3, h4, h5, h6, h7, h8, h9, h10, h11, h12, h13, h14⟩ := h
  refine ⟨h1, h4, h5, h6, h7, h8, ?_, ?_, h10, h11, h12, h13, h14⟩
  · rw [Frame.badHeader_sealed]; exact h9
  · have hs : s.session (f.sealed x.fromNode 0).slot = some x := h7
    have hf : (f.sealed x.fromNode 0).flags = 1 := h3
    simp only [State.openFrame, hs, hf, Nat.one_ne_zero, if_false]
    exact Frame.opened_sealed f _ _ h2

/-- A REG_READ or REG_WRITE head: address and count (R459). -/
def regHead (a : Nat) : List Byte := leBytes 4 a ++ leBytes 2 1 ++ leBytes 2 0

/-- A MEM_READ or MEM_WRITE head of 64 bytes of core 0's scratch (R458). -/
def memHead : List Byte := leBytes 8 (scratchBase 0) ++ leBytes 4 64 ++ leBytes 4 0

/-- Queue 4095 ACTIVE with a ring of 64 entries. -/
def queued : State := owned.fset GFE_Q_STATE_STATE qActive 4095

theorem test_meets_ControlRequests :
    Fits owned 0 (framed 0x10 []) 0x10 sess ∧
    (Fits owned 0 (framed 0x20 (regHead 0)) 0x20 sess ∧ regHeadOk (framed 0x20 (regHead 0)) = true ∧
      regsMapped (framed 0x20 (regHead 0)) = true) ∧
    (Fits owned 0 (framed 0x21 (regHead 0 ++ leBytes 4 1)) 0x21 sess ∧ regHeadOk (framed 0x21 (regHead 0 ++ leBytes 4 1)) = true ∧
      regsMapped (framed 0x21 (regHead 0 ++ leBytes 4 1)) = true ∧ regsMapped (framed 0x21 (regHead 0xE000 ++ leBytes 4 1)) = false ∧
      inStaging 0 = false) ∧
    (regsMapped (framed 0x20 (regHead 0xE000)) = false ∧ owned.ms.cells = [] ∧ owned.ms.found = []) ∧
    (let f := framed 0x22 memHead
     let bad := owned.setPoison (scratchBase 0) true
     ((bad.tookFrame 0 f).memRead (memLines f) []).1.isNone = true ∧
     Fits owned 0 f 0x22 sess ∧ memHeadOk f 8192 = true ∧
      (memLines f).all (fun l => (owned.tookFrame 0 f).memTarget l.1) = true ∧
      ((owned.tookFrame 0 f).memRead (memLines f) []).1.isSome = true) ∧
    (let f := framed 0x23 (memHead ++ List.replicate 64 1#8)
     Fits owned 0 f 0x23 sess ∧ memHeadOk f 8176 = true ∧ f.payload.length = 16 + fieldAt f.payload 8 4 ∧
      (memLines f).all (fun l => (owned.tookFrame 0 f).memTarget l.1) = true) ∧
    (let f := framed 0x24 (leBytes 2 4095 ++ leBytes 2 0 ++ leBytes 4 64)
     Fits queued 0 f 0x24 sess ∧ doorbellOk f = true ∧ queued.queueState 4095 = qActive ∧
      ahead 64 (queued.fget GFE_Q_CACK_COUNT 4095) ≤ 2 ^ (queued.queue 4095).logSize) ∧
    Fits owned 0 (framed 0x25 (leBytes 2 1 ++ leBytes 2 0 ++ leBytes 2 4095)) 0x25 sess ∧
    (Fits owned 0 (framed 0x40 (List.replicate 32 1#8)) 0x40 sess ∧ owned.ctp.attest = none ∧
      (let s : State := { owned with ctp := { owned.ctp with attest := some (0, 5, []) } }
       Fits s 0 (framed 0x40 (List.replicate 32 1#8)) 0x40 sess ∧ s.session 0 = some sess)) := by
  repeat' apply And.intro
  all_goals decide +kernel

/-- HEARTBEAT is answered with RESULT 0 under the next SEQ, sealed under the session's key (R457, R465, R466). -/
theorem test_heartbeat : after (exec (.heartbeat 0 ((framed 0x10 []).sealed sess.fromNode 0)) owned)
    (fun s => match s.out with
      | [.frame 0 f] => f.type == 0x90 && f.seq == 5 && (f.opened sess.toNode 1).any (fun g => g.payload == leBytes 4 0)
      | _ => false) = true := by decide +kernel

/-- A key, and its SHA-384 digest. -/
def keyBytes : List Byte := List.replicate 32 0x11#8

/-- A device in PRODUCTION with a key in entry 15. -/
def keyed : State :=
  let s : State := { dev with
    sec := { dev.sec with keys := [(15, keyBytes)] }
    ctp := { dev.ctp with hello := true } }
  (s.fset SEC_LIFECYCLE_STATE lifeProduction).fset CTP_PORT_STATUS_LINK_UP 1 0

/-- A HELLO with a key's digest (R464). -/
def helloFrame (digest : List Byte) : Frame :=
  { framed 1 (digest ++ List.replicate 40 0#8) with slot := 0xFF, flags := 0 }

/-- A session of entry 0 in slot 2 that has not proved its key. -/
def opening : State :=
  let s : State := { dev with ctp := { dev.ctp with sessions := [(2, sess)] } }
  (s.fset CTP_SESS_STATE_STATE sessOpening 2).fset CTP_PORT_STATUS_LINK_UP 1 0

def proofFrame (mac : List Byte) : Frame := { framed 3 mac with slot := 2, flags := 0 }

theorem test_meets_ControlSessions_open :
    (dev.fset CTP_PORT_STATUS_LINK_UP 1 1).ctpUp 1 = true ∧ (helloFrame []).badHeader = false ∧
    ({ helloFrame [] with version := 2 } : Frame).badHeader = true ∧
    (good (((keyed.helloKey (sha384 keyBytes)), ()) : Except Nat (List Byte × Option Nat) × Unit)
      (fun p _ => p == (keyBytes, some 15))) = true ∧ keyed.ctp.hello = true ∧
    keyed.ctp.isolated.any (fun i => i.2.1 == 0 && i.2.2 == sha384 keyBytes) = false ∧
    (let s := (List.range 15).foldl (fun s k => s.fset CTP_SESS_STATE_STATE sessObserver k) keyed
     (List.range 16).filter (fun k => s.sessState k == sessFree) = [15] ∧ s.session 15 = none ∧
     (List.range 16).filter (fun k => (s.fset CTP_SESS_STATE_STATE sessObserver 15).sessState k == sessFree) = []) ∧
    bad (((keyed.helloKey []), ()) : Except Nat (List Byte × Option Nat) × Unit) = true := by decide +kernel

theorem test_meets_ControlSessions_proof :
    (let mac := opening.openMac sess "AXCP-PROOF" 2
     opening.takesFrame 0 (proofFrame mac) (proofFrame mac) 3 sess ∧ mac.length = 32 ∧ sess.entry.isSome = true) ∧
    opening.takesFrame 0 (proofFrame (List.replicate 32 0#8)) (proofFrame (List.replicate 32 0#8)) 3 sess ∧
    List.replicate 32 0#8 ≠ opening.openMac sess "AXCP-PROOF" 2 := by
  repeat' apply And.intro
  all_goals decide +kernel

/-- No owner; an election is open, and slot 1's session has an owner credential. -/
def electing : State := (owned.fset CTP_OWNER_VALID 0).fset CTP_ELECTION_OPEN 1

theorem test_meets_ControlSessions_owner :
    (let f : Frame := { framed 0x30 [] with slot := 1 }
     Fits electing 0 f 0x30 sess ∧ electing.electionsBarred = false ∧ electing.fget CTP_OWNER_VALID = 0 ∧
      electing.fget CTP_ELECTION_OPEN = 1 ∧ electing.fget CTP_SESS_STATE_OWNER_CRED 1 = 1 ∧
      Fits electing 0 (framed 0x30 []) 0x30 sess ∧ electing.fget CTP_SESS_STATE_OWNER_CRED 0 = 0) ∧
    (let f : Frame := { framed 0x30 [] with slot := 1 }
     let s := electing.fset CTP_ELECTION_OPEN 0
     Fits s 0 f 0x30 sess ∧ s.fget CTP_ELECTION_OPEN = 0 ∧ (s.credOf sess).1 = true ∧
      ({ s with svy := { s.svy with running := [0#8] } } : State).accessEntry sess.digest = none ∧ sess.entry.isNone = false ∧
      (let t := (electing.fset PWR_STATUS_STAGE 3).fset SEC_LIFECYCLE_STATE lifeProduction
       Fits t 0 f 0x30 sess ∧ t.electionsBarred = true) ∧
      Fits owned 0 f 0x30 sess ∧ owned.electionsBarred = false ∧ owned.fget CTP_OWNER_VALID = 1) ∧
    (let s : State := { electing with ctp := { electing.ctp with claims := [(15, 5)], electionAt := 0 } }
     s.ctp.electionAt + 50_000_000 ≤ s.now ∧ s.session 15 = none ∧ s.fget CTP_OWNER_VALID = 0 ∧
      argMin s.candidateKey (s.ctp.claims.map (·.1)) = some 15 ∧
      owned.now < ({ electing with ctp := { electing.ctp with electionAt := 19_999_999_999 } } : State).ctp.electionAt + 50_000_000) ∧
    (let f := framed 0x31 (leBytes 1 1 ++ leBytes 3 0)
     Fits owned 0 f 0x31 sess ∧ 1 ≠ f.slot ∧ owned.sessState 1 = sessObserver ∧ owned.fget CTP_SESS_STATE_OWNER_CRED 1 = 1 ∧
      owned.sessState 15 ≠ sessObserver) ∧
    Fits owned 0 (framed 0x11 []) 0x11 sess ∧ owned.sec.commit = none ∧
    (let s : State := { owned with now := 30_000_000_000 }
     s.session 0 = some sess ∧ sess.lastAt + 10_000_000_000 ≤ s.now ∧ owned.now < sess.lastAt + 10_000_000_000 ∧
     s.fget CTP_OWNER_VALID = 1 ∧ s.ctp.ownerAt + 500_000_000 ≤ s.now) ∧
    (let f : Frame := { framed 0x7F [] with flags := 0 }
     nodeTypes.contains f.type = false ∧ owned.ctpUp 0 = true ∧ owned.fget CTP_PORT_STATUS_ISOLATED 0 = 0 ∧ f.badHeader = false ∧
     owned.session f.slot = some sess) ∧
    (owned.viols 1).since + 1_000_000 * max 1 (owned.fget CTP_VIOL_CTRL_WINDOW_MS 1) ≤ owned.now ∧
    2 ≤ owned.fget PWR_STATUS_STAGE ∧ owned.fget CTP_PORT_STATUS_LINK_UP 1 = 1 ∧
    (owned.fset CTP_PORT_STATUS_LINK_UP 0 0).fget CTP_PORT_STATUS_LINK_UP (1 - 1) = 0 ∧
    (let s : State := { owned with ctp := { owned.ctp with darkAt := some 19_000_000_000 } }
     s.ctp.darkAt = some 19_000_000_000 ∧ 19_000_000_000 + 1_000_000_000 ≤ s.now ∧ s.now < 19_000_000_001 + 1_000_000_000) := by
  repeat' apply And.intro
  all_goals decide +kernel

/-- The owner's device in a lifecycle state. -/
def inLife (l : Nat) : State := owned.fset SEC_LIFECYCLE_STATE l

def keysetBytes : List Byte := List.replicate 436 0x22#8

theorem test_meets_ControlAdministration :
    (let f := framed 0x50 (leBytes 1 15 ++ List.replicate 15 0#8 ++ keyBytes)
     Fits owned 0 f 0x50 sess ∧ f.payload.length = 48 ∧ fieldAt f.payload 0 1 = 15 ∧ zeroAt f.payload 1 15 = true) ∧
    (let s : State := { owned with sec := { owned.sec with keys := [(0, keyBytes), (15, keyBytes)] } }
     Fits s 0 (framed 0x51 (leBytes 1 15 ++ leBytes 3 0)) 0x51 sess ∧ s.revocable 15 = true ∧ s.revocable 7 = false) ∧
    (Fits owned 0 (framed 0x52 keysetBytes) 0x52 sess ∧ keysetBytes.length = 436 ∧
      owned.sec.keysets.contains keysetBytes = false ∧ owned.sec.keysets.length < 4 ∧
      (let s : State := { owned with sec := { owned.sec with keysets := [[1#8], [2#8], [3#8], [4#8]] } }
       Fits s 0 (framed 0x52 keysetBytes) 0x52 sess ∧ 4 ≤ s.sec.keysets.length)) ∧
    (let s : State := { owned with sec := { owned.sec with keysets := [[1#8]] } }
     Fits s 0 (framed 0x53 (sha384 [1#8])) 0x53 sess ∧ (sha384 [1#8]).length = 48 ∧ s.svy.running = [] ∧
      (keysetNamed s.sec.keysets (sha384 [1#8])).isSome = true) ∧
    (let f := framed 0x60 (leBytes 4 0 ++ leBytes 1 1 ++ leBytes 3 0 ++ [1#8])
     Fits owned 0 f 0x60 sess ∧ fwStageOk f = true ∧ fieldAt f.payload 4 1 = 1) ∧
    Fits owned 0 (framed 0x61 (leBytes 4 64 ++ leBytes 4 0)) 0x61 sess ∧
    Fits (inLife 1) 0 (framed 0x62 (leBytes 1 1 ++ leBytes 1 3 ++ leBytes 2 0)) 0x62 sess ∧ 3 ≠ (inLife 1).lifecycle + 1 ∧
    lifeProduction = (inLife 1).lifecycle + 1 ∧ lifeReturn = (inLife 2).lifecycle + 1 ∧
    Fits (inLife 2) 0 (framed 0x62 (leBytes 1 1 ++ leBytes 1 3 ++ leBytes 2 0)) 0x62 sess ∧
    (let s : State := { inLife 1 with sec := { owned.sec with keys := [(0, keyBytes)] } }
     Fits s 0 (framed 0x62 (leBytes 1 1 ++ leBytes 1 2 ++ leBytes 2 0)) 0x62 sess ∧ s.sec.keys ≠ []) ∧
    Fits owned 0 (framed 0x62 (leBytes 1 2 ++ leBytes 3 0)) 0x62 sess := by
  repeat' apply And.intro
  all_goals decide +kernel

/-- SHA-384 of the empty string (FIPS 180-4): its first bytes. -/
theorem test_sha384 : (sha384 []).take 4 = [0x38#8, 0xB0#8, 0x60#8, 0xA7#8] := by decide +kernel

/-- The example product of FIPS 197, section 4.2, and its S-box example of section 5.1.1. -/
theorem test_aes_field : aesMul 8 0x57#8 0x83#8 = 0xC1#8 ∧ aesSubOf 0x53#8 = 0xED#8 := by decide +kernel

/-- Test case 13 of the GCM specification: a key and a nonce of zeros, and no data. -/
theorem test_gcm_tag : gcmTag (List.replicate 32 0#8) (List.replicate 12 0#8) [] [] =
    beBytes 16 0x530f8afbc74536b9a963b4f1c4cb738b := by decide +kernel

/-- Test case 14 of the GCM specification: 16 bytes of zeros enciphered. -/
theorem test_gcm_crypt : gcmCrypt (List.replicate 32 0#8) (List.replicate 12 0#8) (List.replicate 16 0#8) =
    beBytes 16 0xcea7403d4d606b6e074ec5d3baf39d18 := by decide +kernel

/-- HKDF-Expand of RFC 5869, test case 1: the first 32 bytes. -/
theorem test_hkdf : hkdfExpand (beBytes 32 0x077709362c2e32df0ddc3f0dc47bba6390b6c73bb50f9c3122ec844ad7c2b3e5)
    (beBytes 10 0xf0f1f2f3f4f5f6f7f8f9) = beBytes 32 0x3cb25f25faacd57a90434f64d0362f2a2d2d0a90cf1a5a4c5db02d56ecc4c5bf := by
  decide +kernel

/-- Data staged for firmware, and commits in progress. -/
def staging (c : Option FwCommit) (w : List Staged) : State := { owned with sec := { owned.sec with commit := c, fwStaged := w } }

theorem test_meets_ControlAdministration_commit :
    (staging none [{ off := 0, bytes := [1#8], answer := none }]).sec.fwStaged = { off := 0, bytes := [1#8], answer := none } :: [] ∧
    (∀ b ∈ [true, false], (staging (some { session := 0, seq := none, length := 64, checked := b }) []).sec.commit =
      some { session := 0, seq := none, length := 64, checked := b }) ∧ 64 ≤ fwMax ∧ owned.sec.commit = none ∧
    (staging none [{ off := 0, bytes := [1#8], answer := some (0, 0x60, 5, 0) }]).session 0 = some sess ∧ sess.rx < 2 ^ 48 ∧
    sess.tx + 1 < 2 ^ 48 ∧ (staging none [{ off := 0, bytes := [1#8], answer := none }]).sec.fwStaged ≠ [] := by decide +kernel

/-! ### Queues, graphs and items -/

/-- A queue control block with the largest ring that R502 allows and the ring in core 0's scratch. -/
def qcb (logSize : Nat) : List Byte := descOf 64 [(0, 8, direct 0x8000), (8, 8, direct 0x9000), (0x10, 1, logSize), (0x18, 2, 1000)]

/-- Chamber set 0 runs a CREATE whose QCB lies at 0x2000 of core 0's scratch. -/
def creating (b : List Byte) : State :=
  (stored (owned.fset GFE_QCMD_STATUS_STATE 1 0) 0x2000 b).beginCmd 0 ⟨1, 0, direct 0x2000⟩

theorem test_meets_QueueCommands :
    (owned.mayWriteSet (.session 0) 0 = true ∧ owned.fget GFE_QCMD_STATUS_STATE 0 ≠ 1 ∧ owned.chLive 0 = true ∧
      owned.chLive 15 = false ∧ owned.mayWriteSet (.session 1) 0 = false ∧ queued.queueChamber 4095 = 0 ∧
      queued.queueState 4095 = qActive ∧ queued.servers 4095 = [] ∧ queued.itemsOf 4095 = [] ∧
      (queued.fset GFE_Q_STATE_CHAMBER 15 4095).queueChamber 4095 ≠ 0 ∧
      (owned.fset GFE_Q_STATE_STATE qTeardownDone 4095).queueState 4095 = qTeardownDone) ∧
    (∀ logSize ∈ [6, 16], good ((creating (qcb logSize)).readVa ((creating (qcb logSize)).reqGfe 0) 0
        ((creating (qcb logSize)).gfeCmd 0).addr 64)
      (fun b s1 => b == qcb logSize && qcbOk (s1.chamber 0).galleries b && s1.queueState 0 == qFree) = true) ∧
    qcbOk room.galleries (qcb 5) = false ∧ qcbOk room.galleries (qcb 17) = false ∧
    (let t := (owned.fset GFE_Q_STATE_STATE qDraining 4095).settleAll
     t.queueState 4095 = qDraining ∧ t.itemsOf 4095 = [] ∧ t.servers 4095 = []) ∧
    queued.mayWriteQueue (.session 0) 4095 = true ∧ queued.mayWriteQueue (.session 1) 4095 = false ∧
    (let s := queued.setQueue 4095 { Queue.none with logSize := 6 }
     ahead 64 (s.fget GFE_Q_CACK_COUNT 4095) ≤ 2 ^ (s.queue 4095).logSize ∧
     2 ^ (s.queue 4095).logSize < ahead 65 (s.fget GFE_Q_CACK_COUNT 4095)) := by decide +kernel

theorem test_first_queue : (creating (qcb 6)).heldQueues 0 = [] ∧
    (List.range 4096).find? (fun q => (creating (qcb 6)).queueState q == qFree) = some 0 := by
  refine ⟨heldQueues_nil _ _ ?_, ?_⟩ <;> decide +kernel

/-- A doorbell 65 entries ahead overruns a ring of 64 (R504); the epoch after 0xFFFF is 1 (R501). -/
theorem test_doorbell : after (exec (.qDbWrite (.session 0) 4095 65) (queued.setQueue 4095 { Queue.none with logSize := 6 }))
    (fun s => s.fget GFE_Q_STATE_OVERRUN 4095 == 1 && (s.queue 4095).tail == 0) = true ∧ nextEpoch 0xFFFF = 1 := by decide +kernel

/-- An image of two LAUNCH nodes, node 1 after node 0, with one parameter of 64 bytes that replaces node 1's ARGS (R527). -/
def image : List Byte :=
  descOf 64 [(0, 4, 0x52475841), (4, 2, 2), (6, 2, 1), (8, 4, 0x190 + 0x70)] ++ descOf 128 [(0, 1, kindLaunch), (0x42, 2, 0xFFFF)] ++
  descOf 128 [(0, 1, kindLaunch), (0x40, 1, 1)] ++ descOf 64 [(0, 4, 0x180), (4, 4, 64)] ++ List.replicate 128 5#8

/-- A PATCH record for buffer 0 of graph 63: its last 4 bytes (R532). -/
def patchRec : List Byte := descOf 32 [(0, 2, 63), (4, 4, 60), (8, 4, 4), (0x10, 8, direct 0x3000)]

/-- Chamber set 0 with its graph area at 64 KiB of core 0's scratch; a graph command runs on what lies at 0x2000. -/
def graphing (op : Nat) (b : List Byte) : State :=
  let va := direct 0x1_0000
  let s := (owned.fset GFE_GAREA_LO_ADDR (va % 2 ^ 32 / 2 ^ 16) 0).fset GFE_GAREA_HI_ADDR (va / 2 ^ 32) 0
  (stored ((s.fset GFE_GAREA_SIZE_MIB 1 0).fset GFE_GCMD_STATUS_STATE 1 0) 0x2000 b).beginCmd 1 ⟨op, 63, direct 0x2000⟩

/-- Graph 63 of chamber 0 as a CREATE stores it. -/
def graph63 : Graph :=
  { nodes := (List.range 2).map (nodeRecord image), imageOff := 0, imageLen := 512,
    versions := [{ version := 1, bufs := [{ off := 0x180, len := 64 }] }], newest := 1, destroyed := false }

def withGraph (s : State) : State := { s with graphs := [(63, graph63)] }

theorem test_meets_GraphCreate : imageOk image = true ∧ image.length = 512 ∧
    (let p := (graphing 1 image).pruneGraphs
     p.gfeCmd 1 = ⟨1, 63, direct 0x2000⟩ ∧ p.fget GFE_GCMD_STATUS_STATE 0 = 1 ∧
     good (p.readVa (p.reqGfe 0) 0 (direct 0x2000) 64) (fun h s1 => fieldAt h 8 4 == 512 &&
       good (s1.readVa (p.reqGfe 0) 0 (direct 0x2000) 512) (fun img s2 => img == image && (s2.graph 0 63).isNone &&
         s2.areaPlace 0 512 == some 0 &&
         (s2.writeVa (p.reqGfe 0) 0 (.copy ⟨4096, 0, none⟩) 0xFFFF (s2.graphArea 0).1 img).1.isNone)) = true ∧
     imageOk (overlay image 4 (leBytes 2 0)) = false) := by decide +kernel

theorem test_meets_GraphPatch :
    let s := stored (withGraph (graphing 2 patchRec)) 0x3000 [1#8, 2#8, 3#8, 4#8]
    let p := s.pruneGraphs
    s.gfeCmd 1 = ⟨2, 63, direct 0x2000⟩ ∧ p.graph 0 63 = some graph63 ∧ graph63.versions.length < 16 ∧
    p.bufferInUse 0 63 0 graph63 ⟨0x180, 64⟩ = false ∧
    good (p.readVa (p.reqGfe 0) 0 (direct 0x2000) 32) (fun b s1 => b == patchRec && s1.graph 0 63 == some graph63 &&
      good (s1.readVa (p.reqGfe 0) 0 (fieldAt b 0x10 8) 4) (fun new s2 => new == [1#8, 2#8, 3#8, 4#8] &&
        good (s2.readVa (p.reqGfe 0) 0 ((p.graphArea 0).1 + 0x180) 64) (fun old s3 =>
          (s3.writeVa (p.reqGfe 0) 0 (.copy ⟨4096, 0, none⟩) 0 ((p.graphArea 0).1 + 0x180) (overlay old 60 new)).1.isNone))) = true ∧
    60 + 4 ≤ 64 := by decide +kernel

/-- The launch of graph 63 as item 0 of queue 4095, with some nodes ended. -/
def launch (ended : List (Nat × Nat × Nat × Nat)) : Item :=
  { itemOf (descOf 64 [(0, 1, kindGraph), (0x10, 1, 63)]) .gfe with key := ⟨4095, 0, none⟩, version := 1, ended := ended }

theorem test_meets_GraphCommands :
    (withGraph owned).pruneGraphs.graph 0 63 = some graph63 ∧ graph63.destroyed = false ∧ (withGraph owned).launches 0 63 = [] ∧
    owned.pruneGraphs.graph 0 62 = none ∧ owned.fget GFE_GCMD_STATUS_STATE 0 ≠ 1 ∧ owned.mayWriteSet .firmware 0 = true ∧
    (let s := { withGraph queued with items := [launch []] }
     s.item ⟨4095, 0, none⟩ = some (launch []) ∧ s.graph (s.queueChamber 4095) 63 = some graph63 ∧
     graph63.nodes[0]? = some (nodeRecord image 0) ∧ fieldAt (nodeRecord image 0) 0x40 1 = 0 ∧
     s.item ⟨4095, 0, some 0⟩ = none ∧ firstFailure (launch []).ended = none ∧
     (let i := Item.fetched ⟨4095, 0, some 0⟩ (s.nodeItem 0 graph63 1 (nodeRecord image 0)) 1 s.now
      i.kind ≠ kindMarker ∧ s.pickGallery i = some 0)) ∧
    (let p := launch [(0, 0, 0, 5)]
     let s := { withGraph queued with items := [p] }
     s.item ⟨4095, 0, none⟩ = some p ∧ graph63.nodes[1]? = some (nodeRecord image 1) ∧
     p.ended.any (fun e => e.1 == 1) = false ∧ firstFailure p.ended = none ∧
     ((List.range (fieldAt (nodeRecord image 1) 0x40 1)).all (fun d => p.ended.any (fun e =>
       e.1 == fieldAt (nodeRecord image 1) (0x48 + 2 * d) 2))) = true) := by decide +kernel

/-- A parameter buffer replaces ARGS of a LAUNCH node (R527). -/
theorem test_node_args : fieldAt ((withGraph (graphing 1 image)).nodeItem 0 graph63 1 (nodeRecord image 1)) 0x18 8 =
    direct 0x1_0180 := by decide +kernel

/-- A LAUNCH of queue 4095 whose program and arguments lie at the top of the virtual space. -/
def launchLine : List Byte := descOf 64 [(0, 1, kindLaunch), (0x10, 8, 2 ^ 57 - 64), (0x18, 8, 2 ^ 57 - 64), (0x20, 4, 128)]

def launchItem (ph : Phase) : Item := { itemOf launchLine ph with key := ⟨4095, 0, none⟩ }

/-- Queue 4095 with its ring at 0x8000 of core 0's scratch, one entry rung and not fetched. -/
def ringed (cls : Nat) (line : List Byte) : State :=
  let s := ((stored queued 0x8000 line).fset GFE_Q_STATE_CLASS cls 4095).setQueue 4095
    { Queue.none with ring := direct 0x8000, cring := direct 0x9000, logSize := 6, weight := 1, tail := 1 }
  s

theorem test_meets_ItemFetch : owned.fetchQueues 0 0 = [] ∧ owned.fetchQueues 0 1 = [] ∧
    (ringed 0 launchLine).fetchQueues 0 0 = [4095] ∧
    (let s := ringed 0 launchLine
     (s.turn 0 0 [4095]).1 = some 4095 ∧
     (let s1 := (s.turn 0 0 [4095]).2
      let u := s1.bumpWrap GFE_Q_FETCHED_COUNT 1 4095
      good (u.readVa (u.reqGfe 0) 0 ((s1.queue 4095).ring + 64 * (s1.fget GFE_Q_FETCHED_COUNT 4095 % 64)) 64)
        (fun b s2 => b == launchLine && s2.admission (Item.fetched ⟨4095, 0, none⟩ b 0 s2.now) == none) = true)) := by
  have h : owned.heldQueues 0 = [] := heldQueues_nil _ _ (by decide +kernel)
  have k : (ringed 0 launchLine).heldQueues 0 = [4095] :=
    heldQueues_last _ _ (by decide +kernel) (by decide +kernel) (by decide +kernel)
  refine ⟨?_, ?_, ?_, ?_⟩
  · unfold State.fetchQueues; rw [h]; decide +kernel
  · unfold State.fetchQueues; rw [h]; decide +kernel
  · unfold State.fetchQueues; rw [k]; decide +kernel
  · decide +kernel

def holding (cls : Nat) (i : Item) : State := { ringed cls launchLine with items := [i] }

theorem test_meets_ItemDispatch :
    (let s := holding 1 (launchItem .backlog)
     s.queueChamber 4095 = 0 ∧ s.queueClass 4095 < 2 ∧ (launchItem .backlog).kind = kindLaunch ∧
     s.pickGallery (launchItem .backlog) = some 0) ∧
    (let s := holding 1 (launchItem (.lsq 0 7))
     s.scanning 0 = false ∧ s.pickCore 0 (launchItem (.lsq 0 7)) = some 0 ∧ s.lowestFree 0 = some 0) := by decide +kernel

/-- A strand starts at PROGRAM with ARGS, SEQ, TAG and the queue in s0 to s4 (R511). -/
theorem test_bind : after (exec (.itemBind 0) (holding 1 (launchItem (.lsq 0 7)))) (fun s =>
    (s.strand 0 0).pc == 2 ^ 57 - 64 && (s.strand 0 0).reg 0 == 0xFFFF_FFC0#32 && (s.strand 0 0).reg 1 == 0x01FF_FFFF#32 &&
    (s.strand 0 0).reg 4 == 4095#32) = true := by decide +kernel

/-- A task on strand 0 of core 0 that serves queue 4095 and waits in QW.TAKE into s6 and s7. -/
def taskItem : Item := { itemOf (descOf 64 [(0, 1, kindTask), (0x28, 2, 4095)]) (.bound 0 0) with key := ⟨4094, 0, none⟩ }
def takeWord : Word64 := BitVec.ofNat 64 (0xB1 * 2 ^ 56 + 6 * 2 ^ 53)
def takerStrand : Strand := { strandAt takeWord with mode := .waiting, wait := .take, task := true, item := some ⟨4094, 0, none⟩ }
def messageItem : Item := { itemOf (lineOf kindMessage) .backlog with key := ⟨4095, 64, none⟩ }

theorem test_meets_ItemMessages :
    (let i := { itemOf (lineOf kindMarker) .gfe with key := ⟨4095, 0xFFFF_FFFF, none⟩ }
     let s := holding 0 i
     s.item ⟨4095, 0xFFFF_FFFF, none⟩ = some i ∧ i.kind = kindMarker ∧
     s.items.all (fun j => j.key.queue != 4095 || j.key.seq == 0xFFFF_FFFF || ahead j.key.seq 0xFFFF_FFFF < 2 ^ 31) = true) ∧
    (let s := ({ ringed 0 launchLine with items := [taskItem, messageItem] } : State).setStrand 0 0 takerStrand
     (s.itemsOf 4095).find? (fun i => i.kind == kindMessage && i.phase == .backlog && s.inOrderOk i) = some messageItem ∧
     s.longestTaker 4095 = some (0, 0) ∧ (s.strand 0 0).ir = some takeWord) := by decide +kernel

/-- QW.TAKE receives the message's ring entry, SEQ modulo the ring (R516). -/
theorem test_message : after (exec (.messageDispatch 4095)
    (({ ringed 0 launchLine with items := [taskItem, messageItem] } : State).setStrand 0 0 takerStrand))
    (fun s => (s.strand 0 0).reg 6 == BitVec.ofNat 32 (direct 0x8000) && (s.strand 0 0).reg 7 == BitVec.ofNat 32 (direct 0x8000 / 2 ^ 32) &&
      (s.strand 0 0).taken == some ⟨4095, 64, none⟩) = true := by decide +kernel

/-- A COPY of 128 bytes from 0x2000 to 0x3000 of core 0's scratch, on mover 3 of gallery 0. -/
def copyItem (ending : Option (Nat × Nat)) : Item :=
  { itemOf (descOf 64 [(0, 1, kindCopy), (0x10, 8, direct 0x2000), (0x18, 8, direct 0x3000), (0x20, 4, 128)]) (.mover 0 3) with
    key := ⟨4095, 0, none⟩, ending := ending }

theorem test_meets_ItemCopies :
    (let s := stored (holding 0 (copyItem none)) 0x2000 (List.replicate 128 9#8)
     s.item ⟨4095, 0, none⟩ = some (copyItem none) ∧ s.copyHeld 0 ⟨4095, 0, none⟩ = false ∧ (copyItem none).unitDone = false ∧
     bitOf (fieldAt (copyItem none).line 0x24 1) 0 = false ∧
     good (s.readVa (reqMover 0 3) 0 (direct 0x2000) 128) (fun bs s1 => bs.length == 128 &&
       (s1.copyOut (reqMover 0 3) 0 ⟨4095, 0, none⟩ (copyPieces (direct 0x3000) 128) bs).1.isNone) = true) ∧
    (let s := holding 0 (copyItem (some (0x20, 0)))
     s.item ⟨4095, 0, none⟩ = some (copyItem (some (0x20, 0))) ∧ (copyItem (some (0x20, 0))).ending.isSome = true) := by
  decide +kernel

theorem test_meets_ItemTimes :
    (on { Strand.fresh with mode := .ready, readyAt := dev.tb - dev.ageNs 0 }).ageNs
      ((on Strand.fresh).coreChamber 0) = dev.ageNs 0 ∧ dev.ageNs 0 ≤ dev.tb ∧ Strand.fresh.mode ≠ .ready ∧
    (let i := { launchItem .backlog with fetchAt := dev.now - dev.ageNs 0 }
     let s := holding 0 i
     s.item ⟨4095, 0, none⟩ = some i ∧ i.fetchAt + s.ageNs (s.queueChamber 4095) ≤ s.now) ∧
    (let s := (holding 0 (launchItem .backlog)).setQueue 4095 { Queue.none with timeoutUs := 20_000_000 }
     (s.queue 4095).timeoutUs ≠ 0 ∧ (launchItem .backlog).fetchAt + 1000 * 20_000_000 ≤ s.now ∧
     s.appendWaits ⟨4095, 0, none⟩ = false ∧ ((holding 0 (launchItem .backlog)).queue 4095).timeoutUs = 0) := by decide +kernel

/-- A best-effort victim of 2 MiB on strand 0 of core 0, and a latency-critical item that waits in the LSQ of gallery 0, in a
chamber of one live core that reserves all of it. -/
def victim (n : Nat) : Item :=
  { itemOf (descOf 64 [(0, 1, kindLaunch), (0x20, 4, 2_097_152)]) (.bound 0 0) with key := ⟨1, 0, none⟩, preempts := n }

def preempting (n : Nat) : State :=
  let s : State := { dev with chambers := [{ room with lcShare := 1000 }] }
  let s : State := { s with health := (List.range 7).map (fun k => (unitCore (k + 1), umber)) }
  let s : State := { s with items := [victim n, { launchItem (.lsq 0 7) with key := ⟨0, 0, none⟩ }] }
  (((s.fset GFE_Q_STATE_CLASS 1 1).fset GFE_SCH_CTRL_PREEMPT_MAX 1 0).fset GFE_SCH_SAVE_LO_ADDR 1 0).setStrand 0 0
    { Strand.fresh with mode := .ready, item := some ⟨1, 0, none⟩ }

theorem test_meets_ItemPreempt : (dev.fset GFE_SCH_CTRL_PREEMPT_MAX 0 0).fget GFE_SCH_CTRL_PREEMPT_MAX 0 = 0 ∧
    (∀ n ∈ [0, 1], let s := preempting n
      let i := { launchItem (.lsq 0 7) with key := ⟨0, 0, none⟩ }
      s.fget GFE_SCH_CTRL_PREEMPT_MAX 0 = 1 ∧ s.saveArea 0 ≠ 0 ∧ s.scanning 0 = false ∧
      (s.lsqItems 0).filter (fun i => s.queueClass i.key.queue == 0 && (s.pickCore 0 i).isNone) = [i] ∧
      argMin (fun c => s.saveBytes c ((s.victims c i).getD [])) ((s.liveCores 0).filter (fun c => s.reserveAdmits 0 c i &&
        (s.victims c i).isSome && 0 < s.freeStrands c && (i.kind != kindTask || s.tasksOf c < 1024))) = some 0 ∧
      s.victims 0 i = some [victim n]) := by decide +kernel

/-- A victim on strand 0 of core 0 with 64 live bytes, saved to 0x1_0000 of core 0's scratch. -/
def suspending (mode : StrandMode) (ph : Phase) : State :=
  let va := direct 0x1_0000
  let s : State := { dev with items := [{ victim 0 with phase := ph, line := launchLine }] }
  ((s.fset GFE_SCH_SAVE_LO_ADDR (va % 2 ^ 32 / 2 ^ 16) 0).fset GFE_SCH_SAVE_HI_ADDR (va / 2 ^ 32) 0).setStrand 0 0
    { Strand.fresh with mode := mode, victim := true, item := some ⟨1, 0, none⟩, liveOff := 0x40, liveLen := 64 }

theorem test_meets_ItemSuspend :
    (let s := suspending .ready (.bound 0 0)
     (s.strand 0 0).item = some ⟨1, 0, none⟩ ∧ (s.strand 0 0).victim = true ∧ (s.strand 0 0).mode ≠ .suspended ∧
     s.engOps = [] ∧ s.ms.ops = [] ∧ (s.item ⟨1, 0, none⟩).any (fun i => i.ending.isNone) = true ∧
     (s.writeVa ⟨0, 0xF1⟩ 0 (.copy ⟨1, 0, none⟩) 1 (s.saveSlice 0 0 + 0x40) (s.bytes (scratchBase 0 + 0x40) 64)).1 = none) ∧
    (let s := suspending .suspended (.suspended 0 0 5)
     argMin (fun (i : Item) => match i.phase with | .suspended _ _ a => a | _ => 0)
       (s.items.filter (fun i => match i.phase with | .suspended d _ _ => d == 0 | _ => false)) =
       some { victim 0 with phase := .suspended 0 0 5, line := launchLine } ∧
     128 ≤ (s.coreLeft 0).1 ∧ s.scanning 0 = false ∧ s.coreLive 0 = true ∧
     (s.boundStrands 0).any (fun e => e.2.mode != .suspended && overlaps e.2.liveOff e.2.liveLen 0x40 64) = false ∧
     good (s.readVa ⟨0, 0xF1⟩ 0 (s.saveSlice 0 0 + 0x40) 64) (fun bs _ => bs.length == 64) = true) := by decide +kernel

theorem test_meets_QueueCommands_read :
    (let s := creating []
     let t := s.beginCmd 0 ⟨1, 0, 0x1000⟩
     s.fget GFE_QCMD_STATUS_STATE 0 = 1 ∧ s.chLive 0 = true ∧ t.awaitsNoRead (.command 0) ∧
     ((t.asksAs (.command 0)).qcbRead 0).ms.wanted = [] ∧ bad (t.readVa (t.reqGfe 0) 0 (t.gfeCmd 0).addr 64) = true ∧
     (s.fset CHB_STATE_STATE chbLoading 0).chLive 0 = false ∧ owned.fget GFE_QCMD_STATUS_STATE 0 ≠ 1) ∧
    ({ dev with chambers := [{ room with queues := 0 }] } : State).chamber 0 = { room with queues := 0 } ∧
    (∀ i ∈ owned.items, i.key.queue = 4095 → i.key.seq ≠ 7) ∧ owned.queueState 4095 ≠ qActive := by
  unfold State.awaitsNoRead; decide +kernel

theorem test_meets_GraphCommands_run :
    (let s := (graphing 1 image).beginCmd 1 ⟨1, 63, 0x1000⟩
     s.fget GFE_GCMD_STATUS_STATE 0 = 1 ∧ (s.gfeCmd 1).op = 1 ∧ s.chLive 0 = true ∧ s.awaitsNoRead (.command 1) ∧
     ((s.asksAs (.command 1)).graphCreate 0).ms.wanted = []) ∧
    (let s := (graphing 2 patchRec).beginCmd 1 ⟨2, 63, 0x1000⟩
     s.fget GFE_GCMD_STATUS_STATE 0 = 1 ∧ (s.gfeCmd 1).op = 2 ∧ s.awaitsNoRead (.command 1) ∧
     ((s.asksAs (.command 1)).graphPatch 0).ms.wanted = [] ∧ (s.fset CHB_STATE_STATE chbLoading 0).chLive 0 = false) ∧
    (let s := { withGraph (graphing 2 patchRec) with items := [launch []] }
     s.bufferInUse 0 63 0 graph63 ⟨0x180, 64⟩ = true ∧ s.areaPlace 0 64 = some 512) ∧
    owned.item ⟨4095, 0, none⟩ = none ∧
    (Item.fetched ⟨4095, 0, some 0⟩ (lineOf kindMarker) 1 0).kind = kindMarker := by
  unfold State.awaitsNoRead; decide +kernel

theorem test_meets_ItemLife_none :
    (∀ i ∈ (holding 0 (launchItem (.lsq 0 7))).items, i.phase ≠ .backlog) ∧ owned.lsqItems 0 = [] ∧ owned.item ⟨4095, 0, none⟩ = none ∧
    queued.longestTaker 4095 = none ∧ (queued.strand 0 0).victim = false ∧
    (∀ i ∈ owned.items, ∀ d u a, i.phase ≠ .suspended d u a) ∧
    (ringed 0 launchLine).admission (Item.fetched ⟨4095, 0, none⟩ (List.replicate 64 0xFF#8) 0 0) = some 0x40 ∧
    ((ringed 0 launchLine).fset CHB_STATE_STATE chbLoading 0).admission (Item.fetched ⟨4095, 0, none⟩ launchLine 0 0) ≠ none := by
  refine ⟨?_, ?_, ?_, ?_, ?_, ?_, ?_, ?_⟩
  case refine_6 =>
    have h : owned.items = [] := by decide +kernel
    rw [h]; exact fun _ hi => absurd hi List.not_mem_nil
  all_goals decide +kernel

theorem test_meets_ItemFetch_run :
    let s := (ringed 0 launchLine).setQueue 4095 { (ringed 0 launchLine).queue 4095 with ring := 0x1000 }
    s.awaitsNoRead (.fetch 4095) ∧ (((s.asksAs (.fetch 4095)).turn 0 0 [4095]).2.fetchFrom 4095 none).ms.wanted = [] := by
  unfold State.awaitsNoRead; decide +kernel

theorem test_meets_ItemCopies_run :
    (let s := stored (holding 0 (copyItem none)) 0x2000 (List.replicate 128 9#8)
     s.copyMay (copyItem none) 0 3 = true ∧ s.copyBehind (copyItem none) 0 3 = false ∧ s.awaitsNoRead (.copy ⟨4095, 0, none⟩) ∧
     ((s.asksAs (.copy ⟨4095, 0, none⟩)).copyRun (copyItem none) 0 3).ms.wanted = []) ∧
    dev.copyMay (copyItem (some (0x20, 0))) 0 3 = false ∧ bad (dev.readVa (reqMover 0 3) 0 0x1000 128) = true ∧
    ({ copyItem (some (0x20, 0)) with unitDone := true } : Item).unitDone = true := by
  unfold State.awaitsNoRead; decide +kernel

/-- A copy of a best-effort queue behind one of a latency-critical queue on its mover (R549). -/
theorem test_copy_behind :
    (let i := { copyItem none with key := ⟨1, 0, none⟩, boundAt := 20_000_000_000 }
     ((holding 0 (copyItem none)).fset GFE_Q_STATE_CLASS 1 1).copyBehind i 0 3 = true) := by decide +kernel

theorem test_meets_ItemTimes_append :
    (let s : State := { (holding 0 (launchItem .backlog)).setQueue 4095 { Queue.none with timeoutUs := 20_000_000 } with
      engOps := [{ vxOp 0 with eng := .atu, word := runWord 0x89, aux := [1], item := ⟨4095, 0, none⟩ }] }
     s.appendWaits ⟨4095, 0, none⟩ = true ∧ (s.queue 4095).timeoutUs ≠ 0) := by decide +kernel

theorem test_meets_ItemSuspend_fails :
    (let s := (suspending .ready (.bound 0 0)).fset GFE_SCH_SAVE_HI_ADDR 0 0
     (s.writeVa ⟨0, 0xF1⟩ 0 (.copy ⟨1, 0, none⟩) 1 (s.saveSlice 0 0 + 0x40) (s.bytes (scratchBase 0 + 0x40) 64)).1.isSome = true ∧
     s.ms.owes 0 0 s.ms.nextId = false) ∧
    (let s := suspending .suspended (.suspended 0 0 5)
     let i := { victim 0 with phase := .suspended 0 0 5, line := launchLine }
     s.awaitsNoRead (.copy i.key) ∧ ((s.asksAs (.copy i.key)).restore i 0 0).ms.wanted = [] ∧ i.scratch ≤ (s.coreLeft 0).1 ∧
     i.accum ≤ (s.coreLeft 0).2 ∧ (({ s with health := [(unitCore 0, umber)] } : State).coreLive 0 = false)) := by
  unfold State.awaitsNoRead; decide +kernel

/-- Strand 0 issues a queue-work word; it is a task or a launch, with or without a message taken. -/
def worker (op rd : Nat) (task : Bool) (taken : Option ItemKey) (r : List Word) : State :=
  { on { strandAt (BitVec.ofNat 64 (op * 2 ^ 56 + rd * 2 ^ 53)) with task := task, taken := taken, item := some ⟨0, 0, none⟩, regs := r }
    with items := [itemOf (descOf 64 [(0, 1, kindLaunch), (0x20, 4, 128)]) (.bound 0 0)] }

theorem test_meets_StrandWork :
    (∀ p ∈ [(0xB0, false, none), (0xB0, true, none), (0xB2, true, none), (0xB2, true, some ⟨1, 0, none⟩), (0xB3, true, none),
        (0xB3, true, some (⟨1, 0, none⟩ : ItemKey))],
      (worker p.1 0 p.2.1 p.2.2 []).issues 0 0 p.1 0 (BitVec.ofNat 64 (p.1 * 2 ^ 56))) ∧
    (∀ p ∈ [(true, none), (true, some (⟨1, 0, none⟩ : ItemKey)), (false, none)],
      (worker 0xB1 6 p.1 p.2 []).issues 0 0 0xB1 (pairMask 6) takeWord) ∧ rdOf takeWord = 6 ∧ bitsOf takeWord.toNat 52 0 = 0 ∧
    (on { strandAt 0xB010_0000_0000_0000#64 with item := some ⟨0, 0, none⟩ }).issues 0 0 0xB0 0 0xB010_0000_0000_0000#64 ∧
    bitsOf (0xB010_0000_0000_0000#64 : Word64).toNat 52 0 ≠ 0 ∧
    (let w : Word64 := BitVec.ofNat 64 (0xB4 * 2 ^ 56)
     let s := worker 0xB4 0 false none [0x1F_FFC0#32, 64#32]
     s.issues 0 0 0xB4 (pairMask 0) w ∧ ((s.strand 0 0).reg 0).toNat + ((s.strand 0 0).reg 1).toNat = 0x20_0000 ∧
     (s.item ⟨0, 0, none⟩).any (fun i => 64 ≤ i.scratch && i.scratch < 192) = true) ∧
    (run (BitVec.ofNat 64 (0xB8 * 2 ^ 56 + 6 * 2 ^ 53)) []).issues 0 0 0xB8 (pairMask 6) (BitVec.ofNat 64 (0xB8 * 2 ^ 56 + 6 * 2 ^ 53)) ∧
    (run (BitVec.ofNat 64 (0xB9 * 2 ^ 56 + 6 * 2 ^ 53)) []).issues 0 0 0xB9 (pairMask 6) (BitVec.ofNat 64 (0xB9 * 2 ^ 56 + 6 * 2 ^ 53)) := by
  unfold State.issues State.canIssue; decide +kernel

/-- MO.BAR with its barrier and PARTIES in s2 and its generation to s7. -/
def barWord : Word64 := BitVec.ofNat 64 (0xA4 * 2 ^ 56 + 7 * 2 ^ 53 + 2 * 2 ^ 50)

theorem test_meets_Barrier :
    (∀ parties ∈ [0, 1], let s := run barWord [0#32, 0#32, BitVec.ofNat 32 (256 * parties + 255)]
      s.issues 0 0 0xA4 (regMask (raOf barWord) ||| regMask (rdOf barWord)) barWord ∧ bitsOf barWord.toNat 49 0 = 0 ∧
      ((s.strand 0 0).reg (raOf barWord)).toNat / 256 = parties ∧ s.ms.ops = [] ∧ s.ms.observed = [] ∧
      s.inGroup (s.coreChamber 0) = false ∧ (s.barrierOf 0 255).arrived = 0 ∧ s.fab.arrivals = []) ∧
    (owing (run barWord [])).ms.owes 0 0 8 = true ∧
    (let s := run barWord [0#32, 0#32, BitVec.ofNat 32 (256 * 2 + 255)]
     s.issues 0 0 0xA4 (regMask (raOf barWord) ||| regMask (rdOf barWord)) barWord ∧ (s.barrierOf 0 255).arrived + 1 < 2) := by
  unfold State.issues State.canIssue; decide +kernel

/-- TB.READ gives the timebase, low word in RD (R607); a barrier of one party is complete at once (R679). -/
theorem test_tb_read : after (exec (.tbRead 0 0) (run (BitVec.ofNat 64 (0xB8 * 2 ^ 56 + 6 * 2 ^ 53)) []))
    (fun s => (s.strand 0 0).reg 6 == BitVec.ofNat 32 20_000_000_000 && (s.strand 0 0).reg 7 == 4#32) = true := by decide +kernel
/-! ### The fabric -/

/-- Devices 0, 1 and 2 form group 7, with routes over ports 15 and 14; the master list is `ms`. -/
def gang (ms : List Nat) : GroupCfg := { groupId := 7, deviceId := 0, masters := ms, members := [(0, 0), (1, 0x8000), (2, 0x4000)], chambers := 1 }

def member (d : Nat) : Member := { id := d, live := true, lastHeard := 0, liveSince := 0 }

/-- Device 0 in the group, with lane 63 of port 15 and lane 59 of port 14 in service and chamber 0 sharing both. -/
def ganged (ms : List Nat) : State :=
  let s : State := { dev with chambers := [{ room with shared := 0xC000, owned := 0 }] }
  let s : State := { s with fab := { s.fab with group := some (gang ms), members := [member 0, member 1, member 2] } }
  let s := (((s.fset LNK_PORT_STATUS_STATE 2 15).fset LNK_PORT_STATUS_IN_SERVICE 8 15).fset LNK_PORT_STATUS_STATE 2 14).fset
    LNK_PORT_STATUS_IN_SERVICE 8 14
  (s.fset LNK_LANE_STATUS_STATE 2 15 3).fset LNK_LANE_STATUS_STATE 2 14 3

/-- A request of device 1 with its check value. -/
def ask (type addr arg : Nat) (payload : List Byte) : Packet :=
  { packetOf type with addr := addr, length := payload.length, arg := arg, payload := payload }.seal

def rdPacket : Packet := { packetOf ptRdReq with addr := scratchBase 0 + 0x1F_FFC0, length := 64 }
def wrPacket : Packet := ask ptWr (scratchBase 0 + 0x1F_FFC0) 0 (List.replicate 64 1#8)
def closePacket : Packet := ask ptCloseWr (scratchBase 0 + 0x1F_FFC0) 1 (List.replicate 64 1#8)

/-- The packet is admitted on lane 63 and its range may be accessed. -/
def admits (s : State) (p : Packet) (len : Nat) (wr : Bool) : Bool :=
  let t := s.acceptOn 63 p
  t.admitNak 15 p == none && !(wr && t.streamFull p) && t.rangeNak p len wr == none

theorem test_meets_FabricTargets :
    ((ganged []).takesPacket 63 rdPacket ptRdReq ∧ addressOk rdPacket.addr 64 = true ∧ admits (ganged []) rdPacket 64 false = true ∧
      good (((ganged []).acceptOn 63 rdPacket).readTarget (linesOf rdPacket.addr 64)) (fun b _ => b.length == 64) = true) ∧
    ((ganged []).takesPacket 63 wrPacket ptWr ∧ addressOk wrPacket.addr 64 = true ∧ admits (ganged []) wrPacket 64 true = true) ∧
    ((ganged []).takesPacket 63 closePacket ptCloseWr ∧ closeOk closePacket.addr 64 = true ∧ admits (ganged []) closePacket 64 true = true ∧
      (((ganged []).acceptOn 63 closePacket).stream closePacket).held.length < 8 ∧
      (((ganged []).acceptOn 63 closePacket).stream closePacket).refused.contains (streamIx closePacket) = false) := by
  unfold State.takesPacket; repeat' apply And.intro
  all_goals decide +kernel

theorem test_meets_FabricAtomics : ∀ e ∈ [(2, 0), (2, 3), (3, 3), (3, 7)],
    let p := ask ptAmo (scratchBase 0 + 0x1F_FFF8) (16 * e.1 + e.2) (leBytes 8 0 ++ leBytes 8 0)
    (ganged []).takesPacket 63 p ptAmo ∧ p.addr % 2 ^ e.1 = 0 ∧ admits (ganged []) p (2 ^ e.1) true = true := by
  unfold State.takesPacket; decide +kernel

/-- A CAS answers the previous value and stores its operand where the compare value holds (R433, R587). -/
theorem test_remote_cas :
    after (exec (.amo 63 (ask ptAmo (scratchBase 0) 0x23 (leBytes 8 9 ++ leBytes 8 5)) .clean) (stored (ganged []) 0 [5#8]))
      (fun s => s.bytes (scratchBase 0) 4 == leBytes 4 9) = true ∧
    after (exec (.amo 63 (ask ptAmo (scratchBase 0) 0x23 (leBytes 8 9 ++ leBytes 8 6)) .clean) (stored (ganged []) 0 [5#8]))
      (fun s => s.bytes (scratchBase 0) 4 == leBytes 4 5) = true := by decide +kernel

/-- What each judgement of a packet meets: a bad address, no member, a range outside the chamber, poisoned lines, and none (R588). -/
theorem test_meets_FabricJudgement :
    addressOk 0x41 64 = false ∧ (ganged []).ms.cells = [] ∧ (ganged []).ms.found = [] ∧
    ((ganged []).admitNak 15 { wrPacket with src := 9 }).isSome = true ∧ (ganged []).admitNak 15 wrPacket = none ∧
    (ganged []).inTarget 0 (scratchBase 127 + 0x1F_FFC0) 128 = false ∧ (ganged []).inTarget 0 wrPacket.addr 64 = true ∧
    (((ganged []).setPoison wrPacket.addr true).cellEvent wrPacket.addr .clean).rangeNak wrPacket 64 true = some nakMemory ∧
    ((ganged []).cellEvent wrPacket.addr .clean).rangeNak wrPacket 64 true = none ∧
    (ganged []).streamFull wrPacket = false ∧ wrPacket.corrupt = false ∧
    ((ganged []).acceptOn 63 { closePacket with src := 9 }).admitNak 15 { closePacket with src := 9 } = some nakNotMember := by
  decide +kernel

/-- A target whose streams are all in use by others (R595). -/
def crowded : State :=
  { ganged [] with fab := { (ganged []).fab with streams := List.replicate 16_384 {
      src := 2, chamber := 0, requester := 0, counters := [1], refused := [], held := [], closed := 0, gone := [] } } }

theorem test_stream_full : crowded.streamFull wrPacket = true := by
  have h : wrPacket.src = 1 := by decide +kernel
  simp only [State.streamFull, State.stream, crowded, List.find?_replicate, List.filter_replicate, h]
  decide +kernel

/-- Device 1's stream 0 of chamber 0 holds a closing write of COUNT 1 under CIDX 0, with `n` packets counted. -/
def closing (n at_ : Nat) : State :=
  let s := ganged []
  { s with fab := { s.fab with streams := [{
    src := 1, chamber := 0, requester := 0, counters := [n, 0, 0, 0, 0, 0, 0, 0], refused := [],
    held := [{ packet := closePacket, port := 15, at_ := at_ }], closed := 0, gone := [] }] } }

theorem test_meets_HeldCloses :
    ((closing 1 0).heldClose 1 0 0 0).any (fun h => h.packet == closePacket) = true ∧
    ((closing 1 0).stream closePacket).counters.getD 0 0 = closePacket.arg ∧ ((closing 1 0).stream closePacket).closed = 0 ∧
    (closing 1 0).rangeNak closePacket 64 true = none ∧ ((closing 0 0).stream closePacket).counters.getD 0 0 ≠ closePacket.arg ∧
    0 + 1000 * max 1 ((closing 0 0).fget LNK_CLOSE_CTRL_HOLD_US) ≤ dev.now ∧
    dev.now < dev.now + 1000 * max 1 ((closing 0 dev.now).fget LNK_CLOSE_CTRL_HOLD_US) := by decide +kernel

/-- Routing profile 0 of chamber 0 with its expert map and its receive area of one row in core 0's scratch (R332). -/
def rxProfile : List Byte :=
  overlay (overlay (overlay rProfile 0x20 (leBytes 8 (direct 0x2000))) 0x28 (leBytes 8 (direct 0x4000))) 0x30 (leBytes 4 1)

def receiving (h : List RxHalf) : State := { ganged [] with rte := { dev.rte with profiles := [(0, rxProfile)], halves := h } }

def rowPacket : Packet := ask ptRow 0 0 (tagBytes 1 0 0 3 0 0 1 0 0 ++ List.replicate 64 1#8)
def endPacket : Packet := ask ptRowEnd 0 0 (leBytes 4 0 ++ leBytes 4 1 ++ leBytes 4 0 ++ leBytes 4 2)
def halfOf (round filled : Nat) : RxHalf :=
  { chamber := 0, profile := 0, parity := 1, round := round, markers := [], rows := [], filled := [(0, filled)] }

theorem test_meets_FabricRows :
    (receiving []).takesPacket 63 rowPacket ptRow ∧ ((receiving []).acceptOn 63 rowPacket).admitNak 15 rowPacket = none ∧
    good (((receiving []).acceptOn 63 rowPacket).landRow 1 0 rowPacket.payload) (fun d _ => !d) = true ∧
    good (((receiving [halfOf 1 1]).acceptOn 63 rowPacket).landRow 1 0 rowPacket.payload) (fun d _ => d) = true ∧
    bad (((receiving [halfOf 3 0]).acceptOn 63 rowPacket).landRow 1 0 rowPacket.payload) = true ∧
    (receiving []).takesPacket 63 endPacket ptRowEnd ∧ ((receiving []).acceptOn 63 endPacket).admitNak 15 endPacket = none ∧
    (((receiving []).acceptOn 63 endPacket).landMark 0 1 endPacket.payload).1 = none ∧
    (((receiving [halfOf 3 0]).acceptOn 63 endPacket).landMark 0 1 endPacket.payload).1 = some nakRxBusy ∧
    (let s : State := { ganged [] with fab := { (ganged []).fab with members := [member 0] } }
     (s.acceptOn 63 wrPacket).admitNak 15 wrPacket = some nakNotMember ∧ s.takesPacket 63 wrPacket ptWr) := by
  unfold State.takesPacket; repeat' apply And.intro
  all_goals decide +kernel

/-- A request of this device to device 1 with transaction 5. -/
def outReq (type : Nat) (busy : Option Nat) : Outstanding :=
  { packet := { packetOf type with dst := 1, src := 0, txn := 5 }, owner := .op 0, resent := false, requester := 0, busyAt := busy,
    va := none, expires := none }

def asking (type : Nat) (busy : Option Nat) : State :=
  { ganged [] with fab := { (ganged []).fab with outstanding := [outReq type busy] }, ms := (withOps [memOp .load (some 1)]).ms }

/-- An answer of device 1 to transaction 5, for queue 0xFFFF or for a queue that is not ACTIVE. -/
def reply (type arg queue : Nat) (payload : List Byte) : Packet := { ask type 0 arg payload with txn := 5, queue := queue }.seal

theorem test_meets_FabricAnswers :
    (∀ e ∈ [(ptRdResp, ptRdReq, List.replicate 64 1#8), (ptWrAck, ptWr, []), (ptWrAck, ptCloseWr, []),
        (ptAmoResp, ptAmo, List.replicate 8 1#8)],
      let s := asking e.2.1 none
      let p := reply e.1 0 0xFFFF e.2.2
      s.takesPacket 63 p e.1 ∧ (s.acceptOn 63 p).currentAnswer p = true ∧
      ((s.acceptOn 63 p).fab.outstanding.find? (fun o => o.packet.txn == p.txn && o.packet.dst == p.src &&
        o.packet.type == e.2.1)).isSome = true ∧ ((ganged []).acceptOn 63 p).fab.outstanding = [] ∧
      (ganged []).takesPacket 63 p e.1 ∧ (ganged []).takesPacket 63 (reply e.1 0 4095 e.2.2) e.1 ∧
      ((ganged []).acceptOn 63 (reply e.1 0 4095 e.2.2)).currentAnswer (reply e.1 0 4095 e.2.2) = false) ∧
    (ganged []).takesPacket 63 (reply ptRowDrop 0 0xFFFF (List.replicate 64 1#8)) ptRowDrop ∧
    (ganged []).takesPacket 63 (reply ptResult 0 0xFFFF (List.replicate 64 1#8)) ptResult ∧
    (∀ cause ∈ [nakRxBusy, nakUnreachable], ∀ type ∈ [ptRdReq, ptWr, ptCloseWr, ptAmo],
      let p := reply ptNak (cause + type * 2 ^ 16) 0xFFFF []
      (asking type none).takesPacket 63 p ptNak ∧ p.arg % 256 = cause ∧ p.arg / 2 ^ 16 % 256 = type ∧
      ((asking type none).acceptOn 63 p).currentAnswer p = true ∧
      ((asking type none).acceptOn 63 p).fab.outstanding = [outReq type none]) ∧
    (ganged []).takesPacket 63 (reply ptNak 1 4095 []) ptNak ∧ nakUnreachable ≠ nakCheck := by
  unfold State.takesPacket; repeat' apply And.intro
  all_goals decide +kernel

theorem test_meets_FabricRetries :
    (∀ at_ ∈ [dev.now - 2000, dev.now], (asking ptWr (some at_)).fab.outstanding.find?
      (fun o => o.packet.txn == 5 && o.packet.dst == 1) = some (outReq ptWr (some at_))) ∧
    dev.now - 2000 + 2000 ≤ dev.now ∧ dev.now < dev.now + 2000 ∧
    (asking ptWr (some 0)).overdue (outReq ptWr (some 0)) = true ∧
    (let s : State := { asking ptWr (some 0) with items := [itemOf (lineOf kindLaunch) (.bound 0 0)] }
     s.overdue (outReq ptWr (some 0)) = false ∧ 1 ≠ s.deviceId) ∧
    (let o : Outstanding := { outReq ptRow (some 0) with owner := .row 0 3 0 0, expires := some (dev.now + 1) }
     (ganged []).overdue o = false ∧ (ganged []).overdue { o with expires := some 0 } = true) ∧
    (ganged []).fab.outstanding = [] ∧ (outReq ptWr none).busyAt = none ∧
    (∀ p ∈ [{ wrPacket with dst := 2 }, { wrPacket with dst := 2, hops := 1 }, { wrPacket with dst := 2, flags := 15, hops := 1 }],
      p.dst ≠ (ganged []).deviceId ∧ vcOf p.type = some 0 ∧ (ganged []).laneInService 63 = true ∧
      p.lseq = ((ganged []).lane 63).rxSeq ∧ (ganged []).fget LNK_PORT_STATUS_STATE 15 ≠ 3) ∧
    ({ wrPacket with flags := 15 } : Packet).dclass = 3 ∧ ((ganged []).fset LNK_PORT_CTRL_DATELINE 1 15).fget LNK_PORT_CTRL_DATELINE 15 = 1 ∧
    (let p := { wrPacket with dst := 2, hops := 1 }
     ((ganged []).acceptOn 63 p).mayUsePort (p.chamber % 16) 15 = true ∧
     ((ganged []).acceptOn 63 p).egress (p.chamber % 16) 2 false = some 14) := by decide +kernel

theorem test_meets_HeldCloses_more :
    ((closing 1 0).fab.streams.map (fun e => { e with refused := [streamIx closePacket], held := [] })).all (fun e =>
      e.refused.contains (streamIx closePacket)) = true ∧
    (ganged []).heldClose 1 0 0 0 = none ∧ ((closing 1 0).setPoison closePacket.addr true).rangeNak closePacket 64 true = some nakMemory ∧
    (closing 1 0).ms.cells = [] ∧ (closing 1 0).ms.found = [] ∧ closePacket.arg ≠ 0 := by decide +kernel

theorem test_meets_FabricAnswers_more :
    (vxQueued dev (vxOp 0)).wants (.eng 0) = true ∧
    (let p := reply ptNak (nakBarrier + ptBarArrive * 2 ^ 16) 0xFFFF []
     (asking ptWr none).takesPacket 63 p ptNak ∧ p.arg / 2 ^ 16 % 256 = ptBarArrive) ∧
    (let p := reply ptNak (nakCheck + ptWr * 2 ^ 16) 0xFFFF []
     (asking ptWr none).takesPacket 63 p ptNak ∧ p.arg % 256 = nakCheck ∧ (outReq ptWr none).resent = false ∧
     ((asking ptWr none).acceptOn 63 p).fab.outstanding.find? (fun o => o.packet.txn == p.txn && o.packet.dst == p.src) =
       some (outReq ptWr none)) ∧
    (let p := reply ptNak (nakRxBusy + ptWr * 2 ^ 16) 0xFFFF []
     ((ganged []).acceptOn 63 p).fab.outstanding = [] ∧ (ganged []).takesPacket 63 p ptNak) ∧
    (let o : Outstanding := { outReq ptRow (some 0) with packet := { packetOf ptRow with dst := 0, txn := 5 } }
     let s : State := { ganged [] with fab := { (ganged []).fab with outstanding := [o] } }
     s.fab.outstanding.find? (fun o => o.packet.txn == 5 && o.packet.dst == 0) = some o ∧ (s.countRetry o).deviceId = 0) ∧
    (packetOf ptWr).dst = (ganged []).deviceId := by
  unfold State.takesPacket; repeat' apply And.intro
  all_goals decide +kernel

/-- Lane 63 in training, with codeword lock or without, after some attempts. -/
def training (locked : Bool) (attempts retryAt : Nat) : State :=
  let s := ((ganged []).fset LNK_LANE_STATUS_STATE 1 15 3).fset LNK_PORT_STATUS_IN_SERVICE 0 15
  let s : State := { s with fab := { s.fab with joinedAt := some 0 } }
  let s : State := { s with fab := { s.fab with ports := (List.range 16).map (fun _ => (0, 15, 0)) } }
  s.setLane 63 { Lane.fresh with locked := locked, attempts := attempts, retryAt := retryAt }

def linkPacket (subtype : Nat) (payload : List Byte) : Packet := ask ptLink 0 subtype (slice payload 0 32)

def withLane (x : Lane) : State := (ganged []).setLane 63 x

theorem test_meets_LaneTraining :
    (∀ n ∈ [0, 1, 2], (training false n 0).laneTraining 63 = true ∧ ((training false n 0).lane 63).locked = false ∧
      ((training false n 0).lane 63).attempts = n) ∧
    (∀ at_ ∈ [dev.now, dev.now + 1], (training false 1 at_).fget LNK_LANE_STATUS_STATE 15 3 = 1 ∧
      ((training false 1 at_).lane 63).retryAt = at_) ∧ dev.now ≠ 0 ∧
    (let s := training false 0 0
     s.healthOf (unitLane 63) ≠ umber ∧ bitOf (s.fab.ports.getD 15 (0, 0, 0)).2.1 3 = true ∧ s.fab.txq = [] ∧
     (∀ e ∈ s.fab.lanes, e.2.replay = []) ∧ (s.lane 63).replay = []) ∧
    (let s := training true 0 0
     let p := linkPacket 6 (leBytes 4 7 ++ leBytes 2 1)
     s.laneTraining 63 = true ∧ (s.lane 63).locked = true ∧ p.type = ptLink ∧ p.arg = 6 ∧ s.fab.group = some (gang []) ∧
     fieldAt p.payload 0 4 = 7 ∧ (gang []).members.any (fun m => m.1 == fieldAt p.payload 4 2) = true ∧
     s.fab.joinedAt.isSome = true ∧ s.fab.txq = [] ∧ (∀ e ∈ s.fab.lanes, e.1 = 63)) := by decide +kernel

theorem test_meets_LinkPackets :
    (∀ k ∈ [1, 2, 3, 4, 5], (ganged []).takesLink 63 (linkPacket k []) k) ∧ (ganged []).flowing ∧ (ganged []).fab.arrivals = [] ∧
    (∀ y ∈ ((ganged []).lane 63).replay, y.lseq ≠ 0) ∧
    (let s := withLane { Lane.fresh with replay := [{ wrPacket with lseq := 5 }], replays := 7 }
     s.takesLink 63 (linkPacket 3 (leBytes 2 5)) 3 ∧ (s.lane 63).replay = [{ wrPacket with lseq := 5 }] ∧ (s.lane 63).replays < 8) ∧
    (ganged []).laneInService 63 = true ∧ ((ganged []).lane 63).eqAt + 1_000_000 ≤ dev.now := by
  unfold State.takesLink State.flowing; repeat' apply And.intro
  all_goals decide +kernel

theorem test_meets_LinkViolations :
    (let s := (ganged []).setWindow 15 3 0
     (s.violWindow 15).2 + 1_000_000 * max 1 (s.fget LNK_VIOL_CTRL_WINDOW_MS 15) ≤ s.now) ∧
    (let s := (ganged []).setWindow 15 3 dev.now
     s.now < (s.violWindow 15).2 + 1_000_000 * max 1 (s.fget LNK_VIOL_CTRL_WINDOW_MS 15)) ∧
    (owned.fset LNK_PORT_STATUS_STATE 3 15).fget LNK_PORT_STATUS_STATE 15 = 3 ∧ (owned.fset LNK_PORT_STATUS_STATE 3 15).fab.txq = [] ∧
    (owned.fset LNK_PORT_STATUS_STATE 3 15).fab.lanes = [] ∧ owned.owns (.session 0) = true ∧ owned.owns (.session 1) = false ∧
    (packetOf 0).type ≠ ptLink ∧ vcOf (packetOf 0).type = none ∧ (packetOf 0).lseq = ((ganged []).lane 63).rxSeq ∧
    (ganged []).fget LNK_PORT_STATUS_STATE 15 ≠ 3 ∧
    ((ganged []).fset LNK_PORT_STATUS_STATE 3 15).laneInService 63 = true := by decide +kernel

theorem test_meets_Lanes_none :
    (ganged []).laneTraining 63 = false ∧ (training true 0 0).laneTraining 63 = true ∧
    (let s := training true 0 0
     let p := linkPacket 6 (leBytes 4 8 ++ leBytes 2 1)
     p.type = ptLink ∧ p.arg = 6 ∧ fieldAt p.payload 0 4 ≠ (gang []).groupId ∧ s.fab.group = some (gang [])) ∧
    (linkPacket 5 []).arg ≠ 6 ∧
    (let s := withLane { Lane.fresh with replay := [{ wrPacket with lseq := 5 }], replays := 8 }
     8 ≤ (s.lane 63).replays) ∧
    dev.laneInService 63 = false ∧ dev.now < (Lane.fresh).eqAt + dev.now + 1 ∧
    (∀ gap ∈ [511, 512, 0xFE00, 0xFE01], ({ wrPacket with lseq := gap } : Packet).lseq ≠ ((ganged []).lane 63).rxSeq ∧
      (gap + 0x1_0000 - ((ganged []).lane 63).rxSeq) % 0x1_0000 = gap) := by decide +kernel

/-- The third failed attempt ends training and reports the lane; an earlier one waits 10 ms (R584). -/
theorem test_train_fails : after (exec (.laneTrain 63 false) (training false 2 0)) (fun s => !s.laneTraining 63 &&
      (s.lane 63).retryAt == 0) = true ∧
    after (exec (.laneTrain 63 false) (training false 1 0)) (fun s => (s.lane 63).retryAt == dev.now + 10_000_000) = true := by
  decide +kernel

/-! ### Groups and the timebase -/

/-- Device 0 with master index `i` of the list `ms`. -/
def led (ms : List Nat) (i : Nat) : State :=
  let s : State := { ganged ms with fab := { (ganged ms).fab with joinedAt := some 0 } }
  (((s.fset LNK_GROUP_STATUS_FORMED 1).fset LNK_GROUP_STATUS_MASTER_IDX i).fset LNK_GROUP_STATUS_IS_MASTER
    (b2n (ms.getD i 0 == 0))).fset LNK_GROUP_MASTER_DEVICE (ms.getD i 0)

def barPacket (type parties : Nat) : Packet :=
  if type = ptBarArrive then ask type 255 parties (leBytes 4 1 ++ leBytes 12 0) else { packetOf type with addr := 255, arg := 0 }

def membership (kind : Nat) (payload : List Byte) : Packet := ask ptMember 0 kind (slice payload 0 64)

theorem test_meets_GroupBarriers :
    (let s := led [0, 1] 0
     let p := barPacket ptBarArrive 1
     s.takesPacket 63 p ptBarArrive ∧ (s.acceptOn 63 p).fab.members.any (fun m => m.id == p.src && m.live) = true ∧
     (s.acceptOn 63 p).inGroup 0 = true ∧ (s.acceptOn 63 p).isMaster = true ∧
     ((s.acceptOn 63 p).countArrivals 0 255 1 1 1).1 = true) ∧
    (let b : Barrier := { chamber := 0, id := 255, generation := 0, parties := 2, arrived := 1, from_ := [1] }
     (((led [0, 1] 0).setBarrier b).countArrivals 0 255 1 1 1).1 = false) ∧
    (let s := led [1, 0] 0
     let p := barPacket ptBarRelease 0
     s.takesPacket 63 p ptBarRelease ∧ ((s.acceptOn 63 p).fromMaster 1).1 = true ∧ ((s.acceptOn 63 p).fromMaster 2).1 = false) := by
  unfold State.takesPacket; repeat' apply And.intro
  all_goals decide +kernel

theorem test_meets_GroupMembers :
    (let s := led [0, 1] 0
     let p := membership 1 (leBytes 4 7 ++ leBytes 2 1)
     s.takesPacket 63 p ptMember ∧ (s.acceptOn 63 p).isMaster = true ∧ fieldAt p.payload 0 4 = 7 ∧ fieldAt p.payload 4 2 = p.src ∧
     (s.acceptOn 63 p).liveMember 1 = true ∧ ((s.setLive 1 false).acceptOn 63 p).liveMember 1 = false) ∧
    (let s := led [1, 0] 0
     let p := membership 2 (leBytes 4 1)
     s.takesPacket 63 p ptMember ∧ ((s.acceptOn 63 p).fromMaster 1).1 = true ∧
     ((s.acceptOn 63 p).fromMaster 1).2.fget LNK_GROUP_VIEW_VIEW = 0 ∧ fieldAt p.payload 0 4 = 1) ∧
    (let s := led [2, 0] 0
     let p := membership 3 []
     s.takesPacket 63 p ptMember ∧ (s.acceptOn 63 p).fab.members.any (fun m => m.id == p.src && m.live) = true ∧
     ((s.acceptOn 63 p).setLive 1 false).isMaster = false ∧ s.fab.outstanding = []) ∧
    ((led [0, 1] 0).fab.members.find? (fun m => m.id == 1 && m.live) = some (member 1) ∧ (member 1).lastHeard + 10_000_000 ≤ dev.now) := by
  unfold State.takesPacket; repeat' apply And.intro
  all_goals decide +kernel

theorem test_meets_GroupMaster :
    (let s := led [1, 0] 0
     s.formed = true ∧ s.isMaster = false ∧ s.fab.lastBeat + 1_000_000 ≤ s.now ∧ s.fget HLM_DEVICE_STATE ≠ 2 ∧
     s.fab.masterHeard + 10_000_000 ≤ s.now ∧
     (let u := s.setLive s.masterId false
      ((List.range u.masterList.length).map (fun j => (u.masterIdx + 1 + j) % max 1 u.masterList.length)).find?
        (fun j => u.liveMember (u.masterList.getD j 0)) = some 1)) ∧
    (let s := led [0, 1] 1
     s.fab.joinedAt = some 0 ∧ s.formed = true ∧ 0 + 1_000_000_000 ≤ s.now ∧
     (List.range s.masterIdx).find? (fun i => s.masterList.getD i 0 == s.deviceId) = some 0 ∧ s.fab.barriers = [] ∧
     s.fab.arrivals = []) := by decide +kernel

/-- A SYNC of device 1 whose offset is `ps` picoseconds at 20 s. -/
def syncOf (ns ps : Nat) : Packet := ask ptSync 0 0 (leBytes 8 ns ++ leBytes 4 ps ++ leBytes 4 0)

theorem test_meets_Sync :
    (∀ e ∈ [(20_000_000_000, 0), (20_000_001_000, 1), (19_999_998_000, 0)],
      let s := led [1, 0] 0
      let p := syncOf e.1 e.2
      s.takesPacket 63 p ptSync ∧ ((s.acceptOn 63 p).fromMaster 1).1 = true ∧ ((s.acceptOn 63 p).fromMaster 1).2.isMaster = false ∧
      ((s.acceptOn 63 p).fromMaster 1).2.syncPort = some 15 ∧ p.hops = 0 ∧ ((s.acceptOn 63 p).fromMaster 1).2.tb = 20_000_000_000) ∧
    (((led [2, 0] 0).acceptOn 63 (syncOf 0 0)).fromMaster 1).1 = false ∧
    (led [0, 1] 0).formed = true ∧ (led [0, 1] 0).isMaster = true ∧ (led [0, 1] 0).fab.lastSync + 100_000 ≤ dev.now ∧
    (led [1, 0] 0).fget TBC_STATUS_HOLDOVER = 0 ∧ (led [1, 0] 0).fab.lastSync + 1_000_000 ≤ dev.now ∧
    (dev.fset TBC_STATUS_HELD 1).fget TBC_STATUS_HELD = 1 ∧ dev.tbc.heldUntil ≤ dev.now ∧
    dev.now < ({ dev with tbc := { dev.tbc with heldUntil := dev.now + 1 } } : State).tbc.heldUntil := by
  unfold State.takesPacket; repeat' apply And.intro
  all_goals decide +kernel

theorem test_meets_Groups_none :
    dev.formed = false ∧ (led [1, 0] 0).now < ({ (led [1, 0] 0).fab with lastBeat := dev.now } : Fabric).lastBeat + 1_000_000 ∧
    dev.now < ({ member 1 with lastHeard := dev.now } : Member).lastHeard + 10_000_000 ∧
    dev.now < ({ (led [1, 0] 0).fab with masterHeard := dev.now } : Fabric).masterHeard + 10_000_000 ∧
    dev.now < ({ (led [0, 1] 0).fab with lastSync := dev.now } : Fabric).lastSync + 100_000 ∧
    (let s : State := { led [0, 1] 1 with fab := { (led [0, 1] 1).fab with joinedAt := some dev.now } }
     s.fab.joinedAt = some dev.now ∧ s.now < dev.now + 1_000_000_000) ∧
    (let p := syncOf 0 0
     (led [0, 1] 0).takesPacket 63 p ptSync ∧ ((led [1, 0] 0).acceptOn 63 p).ms.found = []) ∧
    (let p := membership 2 (leBytes 4 0)
     let s := led [1, 0] 0
     fieldAt p.payload 0 4 ≤ ((s.acceptOn 63 p).fromMaster 1).2.fget LNK_GROUP_VIEW_VIEW) := by
  unfold State.takesPacket; decide +kernel

/-- An offset above 1 µs is stepped; one of 1 µs is trimmed (R677). -/
theorem test_sync_step : after (exec (.sync 63 (syncOf 20_000_001_000 1) 0) (led [1, 0] 0)) (fun s => s.tb == 20_000_001_000) = true ∧
    after (exec (.sync 63 (syncOf 20_000_001_000 0) 0) (led [1, 0] 0)) (fun s => s.tb == 20_000_000_000 && s.tbc.trim == 1000) = true := by
  decide +kernel
/-! ### Management, tracing and health -/

/-- Management queue `n` holds one item with a command and its ARG bytes. -/
def mgItem (cmd : Nat) (args : List Nat) (begun : Bool) : MgItem :=
  { seq := 0, session := 0, line := slice (leBytes 1 kindMgmt ++ leBytes 15 0 ++ leBytes 1 cmd ++ args.flatMap (leBytes 1)) 0 64, begun := begun }

def managed (s : State) (n cmd : Nat) (args : List Nat) : State :=
  s.setMgQueue n { items := [mgItem cmd args false], tail := 1, done := 0 }

theorem test_meets_Management :
    (managed dev 0 1 []).mgNext mqSurvey 1 = some (mgItem 1 [] false) ∧
    (((managed dev 0 1 []).mgBegin mqSurvey).svyCommit 0 true).1 = true ∧
    (((managed (loading .checking svyChecking) 0 1 []).mgBegin mqSurvey).svyCommit 0 true).1 = false ∧
    dev.mgNext mqSurvey 1 = none ∧
    (managed dev 1 1 []).mgNext mqSecurity 1 = some (mgItem 1 [] false) ∧ (managed dev 1 1 []).sec.commit = none ∧
    (managed dev 2 1 [0]).mgNext mqHealth 1 = some (mgItem 1 [0] false) ∧ dev.galleryLive ((mgItem 1 [0] false).arg 0) = true ∧
    (mgItem 1 [15] false).arg 0 = 15 ∧ ({ dev with health := [(unitGallery 15, umber)] } : State).galleryLive 15 = false ∧
    (managed dev 2 2 []).mgNext mqHealth 2 = some (mgItem 2 [] false) ∧
    (managed (ganged []) 3 1 [15, 0xFF, 0xFF]).mgNext mqTest 1 = some (mgItem 1 [15, 0xFF, 0xFF] false) ∧
    (managed (ganged []) 3 1 [15, 0xFF, 0xFF]).lanesUp 15 ≠ [] ∧ (managed (ganged []) 3 1 [0, 0, 0]).lanesUp 0 = [] ∧
    (managed dev 3 2 [15]).mgNext mqTest 2 = some (mgItem 2 [15] false) ∧ dev.fab.txq = [] ∧ dev.fab.lanes = [] ∧
    (∀ t ∈ [dev.now, dev.now + 1], ({ dev with fab := { dev.fab with tests := [(15, t)] } } : State).fab.tests.find?
      (fun e => e.1 == 15) = some (15, t)) ∧ ((managed dev 3 2 [15]).mgQueue 3).items = [mgItem 2 [15] false] := by decide +kernel

theorem test_meets_Management_idle :
    dev.mgNext mqSecurity 1 = none ∧ dev.mgNext mqHealth 1 = none ∧ dev.mgNext mqHealth 2 = none ∧ dev.mgNext mqTest 1 = none ∧
    dev.mgNext mqTest 2 = none ∧ (staging (some ⟨0, none, 0, false⟩) []).sec.commit.isSome = true ∧
    ({ dev with fab := { dev.fab with tests := [(15, 0)] } } : State).fab.tests.find? (fun e => e.1 == 14) = none := by decide +kernel

/-- Chamber 0 traced into core 0's scratch from 0x1_0000 on, in MODE 0 with slices of 256 records. -/
def traced (head : Nat) : State :=
  let va := direct 0x1_0000
  let s : State := { dev with tru := { dev.tru with slices := [{ Slice.fresh 0 with head := head }] } }
  (((s.fset TRU_CTRL_ENABLE 1 0).fset TRU_STATE_STATE 1 0).fset TRU_BUF_LO_ADDR (va % 2 ^ 32 / 64) 0).fset TRU_BUF_HI_ADDR (va / 2 ^ 32) 0

theorem test_meets_TraceUnit :
    ({ dev with health := [(unitCore 127, umber)] } : State).coreLive 127 = false ∧ dev.coreLive 127 = true ∧
    dev.boundStrands 127 = [] ∧ dev.issuer 127 = none ∧ dev.fget TRU_STATE_STATE 15 = 0 ∧
    ((traced 0).fset TRU_STATE_STATE 1 15).fget TRU_STATE_STATE 15 = 1 ∧ dev.traceCores 15 = [] ∧
    (let s := traced 254
     let r := traceBytes 5 trSwMark 0 0 []
     (s.sliceOf 0).state = 1 ∧ (s.sliceOf 0).post = none ∧ s.tru.slices.find? (fun x => x.core == 0) = some (s.sliceOf 0) ∧
     recType r = trSwMark ∧ (s.sliceOf 0).head + 1 < s.sliceLen 0 ∧
     (s.truWrite 0 (s.sliceBase 0 0 + 64 + 32 * (254 % s.sliceLen 0)) r).1 = true ∧
     (s.truWrite 0 (s.sliceBase 0 0 + 64 + 32 * (254 % s.sliceLen 0)) r).2.tru.slices = s.tru.slices ∧
     (s.truWrite 0 (s.sliceBase 0 0 + 64 + 32 * (254 % s.sliceLen 0)) r).2.sliceLen 0 = s.sliceLen 0) ∧
    (traced 0).fget TRU_CTRL_ENABLE 0 = 1 ∧ (traced 0).fget TRU_STATE_STATE 0 ≠ 5 ∧ (traced 0).fget TRU_STATE_TRIG_VALID 0 = 0 ∧
    ((traced 0).fset TRU_STATE_TRIG_VALID 1 0).fget TRU_STATE_TRIG_VALID 0 = 1 ∧ (traced 0).mayWriteSet .firmware 0 = true ∧
    (traced 0).mayWriteSet (.core 8 0) 0 = false ∧ ((traced 0).fset TRU_CTRL_ENABLE 1 15).mayWriteSet .firmware 15 = true ∧
    (let s := ((traced 0).fset TRU_TRIG_TIME 1 0).pairSet TRU_TRIG_TIME_LO_TIME TRU_TRIG_TIME_HI_TIME dev.tb 0
     s.fget TRU_TRIG_TIME 0 = 1 ∧ s.tru.timed.contains 0 = false ∧
      s.pair TRU_TRIG_TIME_LO_TIME TRU_TRIG_TIME_HI_TIME 0 ≤ s.tb) ∧
    (let s := ((traced 0).fset TRU_TRIG_TIME 1 0).pairSet TRU_TRIG_TIME_LO_TIME TRU_TRIG_TIME_HI_TIME (dev.tb + 1) 0
     s.tb < s.pair TRU_TRIG_TIME_LO_TIME TRU_TRIG_TIME_HI_TIME 0) := by decide +kernel

/-- Chamber 0 traced, with a trigger that has fired. -/
def fired (s : State) : State := { s with tru := { s.tru with fired := [(0, 0, traceBytes 5 trTrigger 0 0 [])] } }

theorem test_meets_TraceDrain :
    dev.sampleOf 127 = none ∧ (on (strandAt 0)).sampleOf 0 = some (0, 0) ∧ (on (strandAt 0)).coreLive 0 = true ∧
    (dev.fset TRU_STATE_STATE 5 15).fget TRU_STATE_STATE 15 = 5 ∧
    (let s := fired (traced 0)
     ¬(s.fget TRU_STATE_STATE 0 = 0 ∨ s.fget TRU_STATE_STATE 0 = 5 ∨ s.fget CHB_STATE_STATE 0 = chbZeroising) ∧
     s.tru.fired.filter (fun e => e.1 == 0) ≠ [] ∧ s.traceCores 0 = List.range 8 ∧
     (allOf (fun s e => allOf (fun s d => s.reach 0 e.2.1 e.2.2 d) (s.traceCores 0) s) (s.tru.fired.filter (fun e => e.1 == 0)) s).1 =
       true ∧
     (allOf (fun s c => s.drainCore 0 c) (s.traceCores 0) s).1 = true) ∧
    (let s := (fired (traced 0)).fset TRU_BUF_HI_ADDR 0 0
     (allOf (fun s e => allOf (fun s d => s.reach 0 e.2.1 e.2.2 d) (s.traceCores 0) s) (s.tru.fired.filter (fun e => e.1 == 0)) s).1 =
       false) ∧
    (let s := ((traced 0).fset TRU_BUF_HI_ADDR 0 0).setFifo 0 { recs := [traceBytes 5 trSwMark 0 0 []], dropOpen := false, later := none }
     s.tru.fired = [] ∧ (allOf (fun s c => s.drainCore 0 c) (s.traceCores 0) s).1 = false) ∧
    (dev.fset TRU_CTRL_ENABLE 0 0).fget TRU_CTRL_ENABLE 0 = 0 ∧ dev.fget TRU_TRIG_TIME 0 = 0 ∧
    ({ dev with tru := { dev.tru with timed := [0] } } : State).tru.timed.contains 0 = true ∧
    (dev.fset TRU_CTRL_ENABLE 1 15).fget TRU_CTRL_ENABLE 15 = 1 ∧ (dev.fset TRU_CTRL_ENABLE 1 15).traceCores 15 = [] := by
  decide +kernel

/-- A window of gallery 15 at a step. -/
def windowAt (step openedAt : Nat) : ScanWindow := { gallery := 15, step := step, openedAt := openedAt, bringUp := false, copies := [] }

def scanningAt (step openedAt : Nat) : State := { dev with hlm := { dev.hlm with window := some (windowAt step openedAt) } }

/-- Bring-up has scanned every gallery. -/
def scannedAll : State := { dev with hlm := { dev.hlm with scanned := List.range 16 } }

theorem test_meets_ScanWindows :
    dev.hlm.window = none ∧ dev.galleryLive 0 = true ∧ dev.scanPostponed 0 = false ∧ dev.bringUpScan = some 0 ∧
    scannedAll.bringUpScan = none ∧ scannedAll.galleryLive 15 = true ∧ scannedAll.scanPostponed 15 = false ∧
    ({ scannedAll with hlm := { scannedAll.hlm with asked := [15] } } : State).hlm.asked.contains 15 = true ∧
    ({ dev with hlm := { dev.hlm with suspects := [127] } } : State).hlm.suspects.contains 127 = true ∧ 127 / 8 = 15 ∧
    (scanningAt 2 0).hlm.window = some (windowAt 2 0) ∧
    (List.range 8).all (fun k => ((scanningAt 2 0).boundStrands (8 * 15 + k)).isEmpty) = true ∧
    0 + 1_000_000 * (scanningAt 2 0).fget HLM_SCAN_CTRL_DRAIN_MS ≤ dev.now ∧
    (scanningAt 3 0).engOps = [] ∧ (scanningAt 5 0).hlm.deferred = [] ∧ ((scanningAt 5 0).mgQueue mqHealth).items = [] ∧
    ((scanningAt 5 0).hlm.asked.contains 0 && !(scanningAt 5 0).galleryLive 0) = false := by decide +kernel

theorem test_meets_ScanSteps :
    (scanningAt 3 0).hlm.window.isSome = true ∧ (∀ k ∈ [2, 4, 5], (windowAt k 0).step ≠ 3) ∧ (∀ k ∈ [3, 4, 6], (windowAt k 0).step ≠ 5) ∧
    (windowAt 3 0).step = 3 ∧ (windowAt 3 0).copies = [] ∧ (windowAt 5 0).step = 5 ∧ (windowAt 5 0).bringUp = false ∧
    (scanningAt 3 0).engOps.any (fun o => o.core / 8 == 15) = false ∧
    (∀ f ∈ [((0 : Nat), (0 : Nat)), (0x0EF, 1)], unitGalleryOf f.1 ≠ some 15) ∧
    (let w := windowAt 2 dev.now
     w.step < 3 ∧ (∀ s ∈ [on (strandAt 0)], (List.range 8).all (fun k => (s.boundStrands (8 * 15 + k)).isEmpty) = true)) := by
  decide +kernel

def unwritten (l : List Nat) : State := { dev with hlm := { dev.hlm with unwritten := l } }

theorem test_meets_UnitCommands :
    (∀ u ∈ [0, 0x08F, 0x100, 0x33F], unitOk u = true ∧ dev.healthOf u = 0 ∧
      ({ dev with health := [(u, 1)] } : State).healthOf u = 1) ∧ unitOk 0x090 = false ∧ unitOk 0x340 = false ∧
    owned.owns (.session 0) = true ∧ owned.owns (.session 1) = false ∧ (unwritten [5, 6]).hlm.unwritten = 5 :: [6] ∧ 5 ∉ [6] ∧
    (unwritten []).hlm.unwritten = [] ∧
    (let s : State := { dev with now := 600_000_000_000 }
     smGet (fun _ => 0) s.hlm.lifeFlash 0 + 600_000_000_000 ≤ s.powerOnNs) := by decide +kernel

/-- The smallest retired unit is not marked amber (R625). -/
theorem test_amber_of_umber : after (exec (.markAmber .firmware 0) { dev with health := [(0, 2)] }) (fun s => s.healthOf 0 == 2) = true := by
  decide +kernel

/-- CVU 1 of gallery 0 with a CRC of 64 bits over a range of `len` bytes. -/
def checking (width mode len : Nat) : State :=
  (((dev.fset CVU_CFG_WIDTH width 0 1).fset CVU_CFG_MODE mode 0 1).fset CVU_LEN_LO_LEN len 0 1)

def checkRun : State :=
  let s := checking 64 0 64
  (s.setCvuRun 0 1 { cfg := s.cvuCfg 0 1, addr := direct 0x100, len := 64, table := 0 }).fset CVU_STATUS_STATE 1 0 1

theorem test_meets_CheckUnits :
    (∀ w ∈ [1, 64], ((checking w 2 64).cvuCfg 0 1).width = w ∧ ((checking w 2 64).cvuCfg 0 1).mode = 2 ∧
      (checking w 2 64).cvuLen 0 1 ≠ 0 ∧ (checking w 2 64).fget CVU_STATUS_STATE 0 1 ≠ 1) ∧
    dev.chamberOf 0 = some 0 ∧ dev.chLive 0 = true ∧ dev.galleryLive 0 = true ∧ dev.mayWriteGallery (.core 7 0) 0 = true ∧
    64 < ((checking 65 0 64).cvuCfg 0 1).width ∧ 4 < ((checking 8 5 64).cvuCfg 0 1).mode ∧ (checking 8 0 0).cvuLen 0 1 = 0 ∧
    checkRun.fget CVU_STATUS_STATE 0 1 = 1 ∧ (checkRun.cvuRunOf 0 1).cfg.mode = 0 ∧ checkRun.fget CVU_MISMATCH_COUNT 0 1 = 0 ∧
    good (checkRun.readVa (reqCdc 0) 0 (direct 0x100) 64) (fun _ s1 => s1.fget CVU_MISMATCH_COUNT 0 1 == 0) = true := by
  decide +kernel

theorem test_meets_CheckUnits_refused :
    ({ dev with health := [(unitGallery 15, umber)] } : State).chamberOf 15 = none ∧
    (dev.fset CHB_STATE_STATE chbDraining 0).chamberOf 0 = some 0 ∧ (dev.fset CHB_STATE_STATE chbDraining 0).chLive 0 = false ∧
    ((checking 64 3 64).fset CVU_CFG_CHUNK_LOG2 11 0 1 |>.cvuCfg 0 1).chunkLog2 < 12 ∧
    24 < ((checking 64 4 64).fset CVU_CFG_CHUNK_LOG2 25 0 1 |>.cvuCfg 0 1).chunkLog2 ∧
    (∀ k ∈ [12, 24], ((checking 64 3 64).fset CVU_CFG_CHUNK_LOG2 k 0 1 |>.cvuCfg 0 1).chunkLog2 = k) ∧
    (checking 0 0 64).cvuCfg 0 1 = { (checking 64 0 64).cvuCfg 0 1 with width := 0 } ∧
    dev.mayWriteGallery (.core 8 0) 0 = false ∧ owned.mayWriteGallery (.session 1) 0 = false ∧ dev.fget CVU_STATUS_STATE 0 1 ≠ 1 ∧
    dev.powerOnNs < smGet (fun _ => 0) dev.hlm.lifeFlash 0 + 600_000_000_000 ∧ dev.hlm.window = none := by decide +kernel

theorem test_meets_CheckUnits_run : checkRun.awaitsNoRead (.cvu 0 1) ∧ checkRun.chamberOf 0 = some 0 ∧
    ((checkRun.asksAs (.cvu 0 1)).cvuWhole 0 1 0).ms.wanted = [] := by
  unfold State.awaitsNoRead; decide +kernel

/-- CRC-32 of IEEE 802.3 over "123456789" is 0xCBF43926, and CRC-32C is 0xE3069283. -/
theorem test_cvu_value :
    ({ mode := 0, chunkLog2 := 0, finalInv := true, refout := true, refin := true, width := 32, poly := 0x04C11DB7,
       init := 0xFFFF_FFFF } : CvuCfg).value (leBytes 9 0x39_3837_3635_3433_3231) = 0xCBF4_3926 ∧
    crc32c (leBytes 9 0x39_3837_3635_3433_3231) = 0xE306_9283 := by decide +kernel

/-! ### Resets, bring-up and power -/

def pinned (p : Pins) (held : Bool) : State := { owned with pins := p, pwr := { owned.pwr with held := held } }
def pinsUp : Pins := owned.pins

theorem test_meets_Resets :
    (pinned { pinsUp with pwrGood := false } false).pins.pwrGood = false ∧ pinsUp.resetN = true ∧ owned.tap.hold = false ∧
    pinsUp.pwrGood = true ∧ pinsUp.thermtripN = true ∧ owned.pwr.held = false ∧ owned.owns .firmware = true ∧
    owned.owns (.core 0 0) = false ∧ (pinned pinsUp true).pwr.held = true ∧ owned.pwr.shutdownAt = none ∧ owned.pwr.halted = false ∧
    2 ≤ owned.fget PWR_STATUS_STAGE ∧
    (let s : State := { dev with pwr := { dev.pwr with shutdownAt := some 0 }, chambers := [] }
     s.pwr.shutdownAt = some 0 ∧ s.pwr.drained = false ∧ s.items = []) ∧
    (let s : State := { dev with pwr := { dev.pwr with drained := true } }
     s.pwr.drained = true ∧ s.pwr.halted = false ∧ s.pins.offReadyN = true) := by decide +kernel

theorem test_meets_Resets_idle : (List.range 16).filter (dev.fset CHB_STATE_STATE 0 0).chLive = [] ∧
    (∀ q, q < 4096 → dev.queueState q = qFree) := by
  refine ⟨by decide +kernel, fun q hq => queueState_unlisted _ hq ?_⟩
  intro e he
  have h : dev.regs.all (fun e => e.1 < 0x90004 || 0xB0000 ≤ e.1) = true := by decide +kernel
  have := List.all_eq_true.mp h e he
  simp [regAddr, GFE_Q_STATE] at this ⊢
  omega

/-- A fall of PWR_GOOD lists no memory and keeps what the fuses hold (R648). -/
theorem test_pwr_good_fall : after (exec .pwrGoodFall (stored dev 0 [5#8])) (fun s => s.mem == [] && !s.pins.pwrGood && s.pwr.held) = true := by
  decide +kernel

theorem test_meets_Resets_none :
    (pinned { pinsUp with resetN := false } false).pins.resetN = false ∧
    ({ owned with tap := { owned.tap with hold := true } } : State).tap.hold = true ∧
    (pinned { pinsUp with thermtripN := false } false).pins.thermtripN = false ∧ (dev.fset PWR_STATUS_STAGE 1).fget PWR_STATUS_STAGE < 2 ∧
    ({ owned with pwr := { owned.pwr with shutdownAt := some 0 } } : State).pwr.shutdownAt.isSome = true ∧ dev.pwr.drained = false ∧
    ({ dev with pwr := { dev.pwr with shutdownAt := some dev.now }, items := [itemOf (lineOf 1) .backlog] } : State).items ≠ [] ∧
    dev.now < dev.now + 2_000_000_000 ∧
    ({ dev with pwr := { dev.pwr with shutdownAt := some (dev.now - 2_000_000_000) } } : State).pwr.shutdownAt =
      some (dev.now - 2_000_000_000) ∧ dev.now - 2_000_000_000 + 2_000_000_000 ≤ dev.now := by decide +kernel

/-- A device in a stage of bring-up. -/
def stage (n : Nat) : State := dev.fset PWR_STATUS_STAGE n

/-- An EARLY section for chamber 15 with one queue on stacks 0 to 3 and no graph (R654). -/
def earlySection : List Byte :=
  descOf 64 [(0, 1, 15), (1, 1, 1), (2, 2, 1), (4, 2, 1000), (8, 1, 16), (9, 1, 1), (0x10, 2, 50), (0x14, 4, 64), (0x1C, 4, 64), (0x38, 4, 0xFFFF_FFFF)] ++
    descOf 64 [(0x10, 1, 6), (0x18, 2, 1)]

/-- A survey with that section, its CHECK holding or not. -/
def earlySurvey (check : Nat) : List Byte :=
  descOf 64 [(6, 2, 1)] ++ leBytes 2 secEarly ++ leBytes 2 0 ++ leBytes 4 80 ++ leBytes 4 128 ++ leBytes 4 check ++ earlySection

/-- Stage 3 with stacks 0 to 3 in service, or some of them retired. -/
def earlyStage (check ready : Nat) : State :=
  let s := (stage 3).fset PWR_BOOT_STACKS_READY ready
  { s with svy := { s.svy with running := earlySurvey check } }

theorem test_meets_BringUp :
    (stage 1).booting = true ∧ (stage 1).pins.faultN = true ∧ (stage 1).fget PWR_STATUS_STAGE = 1 ∧ (stage 1).pins.offReqN = true ∧
    (stage 2).pwr.waiting = false ∧ (stage 2).fget PWR_STATUS_STAGE = 2 ∧
    (let s := (stage 3).fset PWR_BOOT_STACKS_READY 0x7FFF
     s.nextStack = some 15 ∧ smGet (fun _ => 0) s.pwr.failures 15 < 2) ∧ (stage 3).nextStack = some 0 ∧
    (let s := (stage 3).fset PWR_BOOT_STACKS_READY 0xFFFF
     s.nextStack = none ∧ s.fget PWR_STATUS_EARLY = 0 ∧ (s.fset PWR_STATUS_EARLY 1).fget PWR_STATUS_EARLY = 1) := by decide +kernel

theorem test_meets_EarlyService :
    (let s := earlyStage (crc32c earlySection) 0xF
     s.earlyBody = some (earlySection, true) ∧ s.booting = true ∧ s.fget PWR_BOOT_EARLY = 0 ∧ s.pwr.shutdownAt = none ∧
     (List.range 4).all s.stackDone = true ∧ s.fget PWR_BOOT_STACKS_READY % 16 = 15) ∧
    (earlyStage 0 0xF).earlyBody = some (earlySection, false) := by decide +kernel

theorem test_meets_EarlySetup : (((earlyStage (crc32c earlySection) 0xF).toStage 4).earlySetup earlySection).isSome = true := by
  decide +kernel

/-- In `test_meets_BringUp` the slot whose firmware boots is open (`fwBoots`): each of the cases of FIRMWARE_VERIFIED and of
STAGE_2_DONE is some slot's. -/
theorem test_meets_BringUp_none :
    ({ dev with pwr := { dev.pwr with halted := true } } : State).booting = false ∧ (stage 2).fget PWR_STATUS_STAGE ≠ 1 ∧
    (stage 3).fget PWR_STATUS_STAGE ≠ 2 ∧ (stage 3).nextStack ≠ some 1 ∧ dev.earlyBody = none ∧ dev.pwr.handoverAt = none ∧
    (let s : State := { stage 3 with pwr := { dev.pwr with failures := [(0, 2)] } }
     s.nextStack = some 0 ∧ 2 ≤ smGet (fun _ => 0) s.pwr.failures 0) ∧
    (let s : State := { earlyStage (crc32c earlySection) 0xE with health := (List.range 32).map (fun p => (unitPc 0 p, umber)) }
     s.earlyBody = some (earlySection, true) ∧ (List.range 4).all s.stackDone = true ∧ s.fget PWR_BOOT_STACKS_READY % 16 ≠ 15) ∧
    (let s : State := { earlyStage (crc32c earlySection) 0xF with
       pwr := { dev.pwr with handoverAt := some dev.now }
       items := [itemOf (lineOf 1) .backlog] }
     s.earlyBody = some (earlySection, true) ∧ s.items ≠ [] ∧ s.now < dev.now + 1_000_000 * fieldAt earlySection 0x10 2) := by
  decide +kernel

/-- An EARLY section for chamber 16, which is none. -/
def earlyAway : List Byte := descOf 64 [(0, 1, 16)] ++ earlySection.drop 64

theorem test_meets_EarlySetup_none : (((earlyStage (crc32c earlySection) 0xF).toStage 4).earlySetup earlyAway).isNone = true := by
  decide +kernel

theorem test_meets_EarlyHandover_waits :
    (let s := dev.fset CHB_STATE_STATE chbDraining 0
     let s := s.setSlot 3 { s.slot 3 with write := some (writeTo true) }
     s.fget CHB_STATE_STATE 0 = chbDraining ∧ s.drained 0 = false) := by
  unfold State.drained
  refine ⟨by decide +kernel, ?_⟩
  rw [heldQueues_nil _ _ (by decide +kernel)]
  decide +kernel

theorem test_meets_EarlyHandover :
    (let s := { earlyStage (crc32c earlySection) 0xF with pwr := { dev.pwr with handoverAt := some 0 } }
     s.pwr.handoverAt = some 0 ∧ s.earlyBody = some (earlySection, true) ∧ s.pwr.halted = false ∧ fieldAt earlySection 0 1 = 15 ∧
     s.items = [] ∧ s.svy.zeroing = [] ∧ (s.fset CHB_STATE_STATE chbLive 15).fget CHB_STATE_STATE 15 = chbLive ∧
     (s.fset CHB_STATE_STATE chbDraining 15).fget CHB_STATE_STATE 15 = chbDraining ∧
     (s.fset CHB_STATE_STATE chbZeroising 15).fget CHB_STATE_STATE 15 = chbZeroising) ∧
    (dev.fset CHB_STATE_STATE chbDraining 15).drained 15 = true := by
  refine ⟨by decide +kernel, ?_⟩
  unfold State.drained
  rw [heldQueues_nil _ _ (by decide +kernel)]
  decide +kernel

/-- Stage 5 with the timers at rest and one domain's target, rise and silence. -/
def powering (d : Nat) (x : PwrDomain) : State :=
  let s : State := { stage 5 with pwr := { dev.pwr with domains := (List.range 17).map PwrDomain.atReset } }
  { s with pwr := { s.pwr with domains := s.pwr.domains.set d x } }

theorem test_meets_PowerLoops :
    dev.powered = true ∧ 2 ≤ dev.fget PWR_STATUS_STAGE ∧ dev.elapsed 17 100_000 = true ∧ dev.slateRuns 16 = false ∧
    16 < dev.pwr.domains.length ∧
    (∀ v ∈ [5500, 8500], let s := powering 16 { PwrDomain.atReset 16 with target := v }
      s.marginFree = true ∧ s.slackFloor ≤ 255 ∧ s.learned 16 ≤ 400 ∧ 5500 ≤ (s.domain 16).target) ∧
    0 < dev.slackEmergency ∧ dev.elapsed 0 10_000 = true ∧ dev.capW < min 0xFFFF ((2_000_000 + 999) / 1000) ∧ dev.pwr.guardAt = none ∧
    (let s : State := { dev with pwr := { dev.pwr with guardAt := some (dev.now - 500_000) } }
     s.pwr.guardAt = some (dev.now - 500_000) ∧ dev.now - 500_000 + 500_000 ≤ s.now ∧ s.fget PWR_PKG_NOW_W ≤ s.capW) ∧
    (let s := ({ dev with pwr := { dev.pwr with guardAt := some dev.now } } : State).fset PWR_PKG_NOW_W 0xFFFF
     s.capW < s.fget PWR_PKG_NOW_W ∧ s.now < dev.now + 500_000) ∧
    dev.chLive 0 = true ∧ dev.elapsed 20 100_000 = true ∧ smGet (fun _ => []) dev.pwr.draws 0 = [] ∧
    ((powering 16 { PwrDomain.atReset 16 with rise := some 5 }).domain 16).rise = some 5 ∧ (dev.domain 16).rise = none ∧
    dev.elapsed 40 10_000 = true ∧
    argMax (fun d => min 255 ((List.replicate 16 20 ++ [300] : List Nat).getD d 0)) (List.range 17) = some 16 ∧ (115 : Nat) ≤ 300 ∧
    (dev.domain 16).mute = false ∧ dev.elapsed 76 10_000_000 = true := by decide +kernel

theorem test_meets_PowerLoops_idle :
    ({ dev with pwr := { dev.pwr with timers := [(17, dev.now), (0, dev.now), (20, dev.now), (40, dev.now), (76, dev.now)] } } : State).elapsed
      17 100_000 = false ∧
    (let s : State := { dev with hlm := { dev.hlm with window := some (windowAt 5 0) } }
     s.slateRuns 15 = true ∧ s.elapsed 16 100_000 = true) ∧ (dev.domain 16).starved < 9 ∧
    (powering 16 (PwrDomain.atReset 16)).learned 16 ≤ 350 ∧ dev.slackEmergency ≤ 255 ∧ dev.pwr.guardAt = none := by decide +kernel

/-- Chamber 0 has drawn `w` mW in each of ten windows, with a budget of 100 W. -/
def drawing (w : Nat) : State :=
  { dev with chambers := [{ room with powerW := 100 }], pwr := { dev.pwr with draws := [(0, List.replicate 10 w)] } }

theorem test_meets_PowerLoops_draws :
    (∀ w ∈ [97_000, 100_001], (drawing w).galleriesOf 0 = [0] ∧ smGet (fun _ => []) (drawing w).pwr.draws 0 = List.replicate 10 w ∧
      (drawing w).budget 0 * 10 = 1_000_000) ∧ 1_000_000 < (List.replicate 10 100_001).sum ∧
    100 * (List.replicate 10 97_000).sum ≤ 97 * 1_000_000 ∧ ((drawing 97_000).domain 0).throttled = false := by decide +kernel

/-- 115 °C trips the device, 114 °C does not (R667, R668). -/
theorem test_trip : after (exec (.thermalRead [115]) dev) (fun s => s.pwr.trip == 1 && !s.pins.thermtripN) = true ∧
    after (exec (.thermalRead [114]) dev) (fun s => s.pwr.trip == 0 && s.pins.thermtripN) = true := by decide +kernel
end Sys2Proof.Tests
end

section
/-! PROOFS. O7, O8 and O4: bytes written read back, a field set leaves the rest of the register file, and the values after reset. -/

namespace Sys2Proof.Machine

/-! ### Memory and fields -/

theorem State.bytes_setBytes_self (s : State) (a : Nat) (bs : List Byte) : (s.setBytes a bs).bytes a bs.length = bs := by
  apply List.ext_getElem
  · simp [State.bytes]
  · intro k _ hk
    simp [State.bytes, State.byte_setBytes, hk]

theorem State.keepsMemoryOutside_setBytes (s : State) (a : Nat) (bs : List Byte) :
    s.KeepsMemoryOutside (s.setBytes a bs) a bs.length := fun _ hb => State.byte_setBytes_outside s hb

theorem State.keepsMemoryOutside_zeroBytes (s : State) (a n : Nat) : s.KeepsMemoryOutside (s.zeroBytes a (a + n)) a n :=
  fun b hb => by rw [State.byte_zeroBytes, if_neg (by omega)]

/-- Settles O7. -/
theorem memoryReadAfterWrite : Obligations.MemoryReadAfterWrite := fun s a bs =>
  ⟨s.bytes_setBytes_self a bs, s.keepsMemoryOutside_setBytes a bs, State.setBytes_wf a bs,
    fun n b hlo hhi => by rw [State.byte_zeroBytes, if_pos ⟨hlo, hhi⟩], s.keepsMemoryOutside_zeroBytes a⟩

theorem State.keepsRegsBut_rput (s : State) (a : Nat) (w : Word) : s.KeepsRegsBut (s.rput a w) [a] :=
  fun _ hb => State.rget_rput_ne s w (fun h => hb (by simp [h]))

/-- Settles O8: a field's set is the write of its register's word. -/
theorem fieldSet : Obligations.FieldSet := fun s f g v i j hlo hhi =>
  ⟨s.fget_fset_self f v i j ⟨hlo, hhi⟩, fun _ hg hd => s.fget_fset_other f g v i j i j ⟨hlo, hhi⟩ hg hd,
    s.keepsRegsBut_rput _ _, rfl⟩

/-! ### After reset -/

theorem reset_chamber_absent : ∀ n < 16, State.reset.fget CHB_STATE_STATE n = 0 := by decide +kernel

/-- No register that the part gives a value lies among the queues' sets. -/
theorem reset_queue_free {q : Nat} (hq : q < 4096) : State.reset.queueState q = qFree := by
  refine queueState_unlisted State.reset hq fun e he => ?_
  have hlow : ∀ e ∈ resetRegs, e.1 < 0x90004 := by decide
  have := hlow e he
  simp only [regAddr, GFE_Q_STATE]
  omega

theorem reset_sched : ∀ n < 16, State.reset.fget GFE_SCH_CTRL_BE_HOLD n = 1 ∧ State.reset.fget GFE_SCH_CTRL_PREEMPT_MAX n = 8 ∧
    State.reset.fget GFE_SCH_CTRL_AGE_US n = 0x40 := by decide +kernel

theorem reset_viol : ∀ p < 2, State.reset.fget CTP_VIOL_CTRL_WINDOW_MS p = 0x3E8 ∧
    State.reset.fget CTP_VIOL_CTRL_THRESHOLD p = 0x40 := by decide +kernel

/-- Settles O4. -/
theorem resetValues : Obligations.ResetValues :=
  ⟨rfl, by decide +kernel, by decide +kernel, reset_chamber_absent, fun _ => reset_queue_free, fun _ _ => rfl, fun _ _ => rfl,
    reset_sched, by decide +kernel, by decide +kernel, reset_viol⟩

end Sys2Proof.Machine
end

section
/-! PROOFS. O9: what a write of a register changes, by the access codes of its fields. -/

namespace Sys2Proof.Machine

/-! ### The registers of the layouts -/

/-- The registers of the layouts, block by block. -/
def layoutBlocks : List (List RegDesc) :=
  [regsSVY, regsCHB, regsCTP, regsSEC, regsMGC, regsHLM, regsPWR, regsTBC, regsTRU, regsLNK, regsLNKG, regsXCE, regsMMU, regsHBC,
    regsATUSEQ, regsGFE, regsGFEQ, regsGFEQA, regsCDC, regsRTE, regsLSQ, regsDMV, regsCVU, regsMXE, regsVXE, regsSFU, regsATU]

theorem galleryRegs_mem (o : Nat) : galleryRegs o = [] ∨ galleryRegs o ∈ layoutBlocks := by
  unfold galleryRegs
  split_ifs <;> simp only [layoutBlocks, List.mem_cons, true_or, or_true]

theorem coreRegs_mem (o : Nat) : coreRegs o = [] ∨ coreRegs o ∈ layoutBlocks := by
  unfold coreRegs
  split_ifs <;> simp only [layoutBlocks, List.mem_cons, true_or, or_true]

/-- One guard of a look-up among the blocks. -/
theorem ite_some_mem {c : Prop} [Decidable c] {k l : List RegDesc} {x : Option (List RegDesc)} (hk : k = [] ∨ k ∈ layoutBlocks)
    (hx : x = some l → l = [] ∨ l ∈ layoutBlocks) : (if c then some k else x) = some l → l = [] ∨ l ∈ layoutBlocks := by
  split
  · rintro ⟨⟩
    exact hk
  · exact hx

theorem blockRegs_mem {a : Nat} {l : List RegDesc} : blockRegs a = some l → l = [] ∨ l ∈ layoutBlocks := by
  unfold blockRegs
  iterate 18 refine ite_some_mem (by simp only [layoutBlocks, List.mem_cons, true_or, or_true]) ?_
  exact ite_some_mem (galleryRegs_mem _) (ite_some_mem (coreRegs_mem _) nofun)

/-- What holds of every register of the layouts holds of the register that an address names. -/
theorem regDescAt_forall {P : RegDesc → Prop} (hP : ∀ l ∈ layoutBlocks, ∀ d ∈ l, P d) {a : Nat} {d : RegDesc}
    (h : regDescAt a = some d) : P d := by
  unfold regDescAt at h
  split at h
  · cases h
  next l hl =>
    have hd := List.mem_of_find?_eq_some h
    rcases blockRegs_mem hl with rfl | hm
    · cases hd
    · exact hP l hm d hd

theorem regInst_of_regDescAt {a : Nat} {d : RegDesc} (h : regDescAt a = some d) : (regInst d.reg a).isSome = true := by
  unfold regDescAt at h
  split at h
  · cases h
  · exact List.find?_some (p := fun d : RegDesc => (regInst d.reg a).isSome) h

/-- The index pair that an address has in a register gives that address back (R717, R718). -/
theorem regAddr_of_regInst {r : Reg} {a i j : Nat} (h : regInst r a = some (i, j)) : regAddr r i j = a := by
  obtain ⟨base, n1, s1, n2, s2⟩ := r
  rw [regInst, Option.ite_none_left_eq_some, Option.ite_none_right_eq_some] at h
  obtain ⟨hb, ⟨hq, -, -⟩, e⟩ := h
  obtain ⟨rfl, rfl⟩ := Prod.mk.inj (Option.some.inj e)
  have h1 := Nat.div_add_mod (a - base) s1
  have h2 := Nat.div_add_mod (if s1 = 0 then a - base else (a - base) % s1) s2
  simp only [regAddr]
  split_ifs at hq h2 ⊢ <;> simp_all <;> omega

theorem regAddr_instAt {a : Nat} {d : RegDesc} (h : regDescAt a = some d) :
    regAddr d.reg (instAt d.reg a).1 (instAt d.reg a).2 = a := by
  obtain ⟨p, hp⟩ := Option.isSome_iff_exists.mp (regInst_of_regDescAt h)
  rw [instAt, hp]
  exact regAddr_of_regInst hp

/-- Every field of the layouts lies in its register's word, and no two fields of a register share a bit. -/
theorem layout_fields : ∀ l ∈ layoutBlocks, ∀ d ∈ l, (∀ f ∈ d.fields, f.fld.lo ≤ f.fld.hi ∧ f.fld.hi < 32) ∧
    d.fields.Pairwise (fun f g => f.fld.hi < g.fld.lo ∨ g.fld.hi < f.fld.lo) := by decide +kernel

theorem fields_inWord {a : Nat} {d : RegDesc} (h : regDescAt a = some d) : ∀ f ∈ d.fields, f.fld.lo ≤ f.fld.hi ∧ f.fld.hi < 32 :=
  (regDescAt_forall layout_fields h).1

theorem fields_disjoint {a : Nat} {d : RegDesc} (h : regDescAt a = some d) :
    d.fields.Pairwise (fun f g => f.fld.hi < g.fld.lo ∨ g.fld.hi < f.fld.lo) :=
  (regDescAt_forall layout_fields h).2

/-! ### A word rebuilt field by field -/

/-- A step of a word's rebuilding that touches no bit outside its field. -/
def SetsField (step : Nat → FieldDesc → Nat) : Prop :=
  ∀ x f, step x f = x ∨ ∃ v, step x f = setBitsOf x f.fld.hi f.fld.lo v

theorem bitsOf_step_other {step : Nat → FieldDesc → Nat} (hs : SetsField step) {f g : FieldDesc} (hf : f.fld.lo ≤ f.fld.hi)
    (hg : g.fld.lo ≤ g.fld.hi) (hd : f.fld.hi < g.fld.lo ∨ g.fld.hi < f.fld.lo) (x : Nat) :
    bitsOf (step x f) g.fld.hi g.fld.lo = bitsOf x g.fld.hi g.fld.lo := by
  rcases hs x f with e | ⟨v, e⟩ <;> rw [e]
  rcases hd with hd | hd
  · exact bitsOf_setBitsOf_above hf hd
  · exact bitsOf_setBitsOf_below hf hd hg

theorem foldl_fields_lt {step : Nat → FieldDesc → Nat} (hs : SetsField step) {l : List FieldDesc}
    (hl : ∀ f ∈ l, f.fld.lo ≤ f.fld.hi ∧ f.fld.hi < 32) {x : Nat} (hx : x < 2 ^ 32) : l.foldl step x < 2 ^ 32 := by
  induction l generalizing x with
  | nil => exact hx
  | cons f l ih =>
    refine ih (fun g hg => hl g (List.mem_cons_of_mem _ hg)) ?_
    obtain ⟨hlo, hhi⟩ := hl f List.mem_cons_self
    rcases hs x f with e | ⟨v, e⟩ <;> rw [e]
    · exact hx
    · exact setBitsOf_lt hlo hhi hx

theorem bitsOf_foldl_other {step : Nat → FieldDesc → Nat} (hs : SetsField step) {l : List FieldDesc} {g : FieldDesc}
    (hl : ∀ f ∈ l, f.fld.lo ≤ f.fld.hi ∧ f.fld.hi < 32) (hg : g.fld.lo ≤ g.fld.hi)
    (hd : ∀ f ∈ l, g.fld.hi < f.fld.lo ∨ f.fld.hi < g.fld.lo) (x : Nat) :
    bitsOf (l.foldl step x) g.fld.hi g.fld.lo = bitsOf x g.fld.hi g.fld.lo := by
  induction l generalizing x with
  | nil => rfl
  | cons f l ih =>
    rw [List.foldl_cons, ih (fun f hf => hl f (List.mem_cons_of_mem _ hf)) (fun f hf => hd f (List.mem_cons_of_mem _ hf)),
      bitsOf_step_other hs (hl f List.mem_cons_self).1 hg (hd f List.mem_cons_self).symm]

/-- Each field ends as its own step leaves it. -/
theorem bitsOf_foldl_field {step : Nat → FieldDesc → Nat} (hs : SetsField step) {l : List FieldDesc} {f : FieldDesc} {v : Nat}
    (hl : ∀ f ∈ l, f.fld.lo ≤ f.fld.hi ∧ f.fld.hi < 32)
    (hd : l.Pairwise (fun f g => f.fld.hi < g.fld.lo ∨ g.fld.hi < f.fld.lo)) (hf : f ∈ l)
    (hv : ∀ x, bitsOf (step x f) f.fld.hi f.fld.lo = v) (x : Nat) : bitsOf (l.foldl step x) f.fld.hi f.fld.lo = v := by
  induction l generalizing x with
  | nil => cases hf
  | cons g l ih =>
    obtain ⟨hgl, hd⟩ := List.pairwise_cons.mp hd
    have hl' : ∀ f ∈ l, f.fld.lo ≤ f.fld.hi ∧ f.fld.hi < 32 := fun f hf => hl f (List.mem_cons_of_mem _ hf)
    rcases List.mem_cons.mp hf with rfl | hf
    · rw [List.foldl_cons, bitsOf_foldl_other hs hl' (hl f List.mem_cons_self).1 hgl, hv]
    · exact ih hl' hd hf _

theorem bitsOf_mod (x hi lo : Nat) : bitsOf x hi lo % 2 ^ (hi + 1 - lo) = bitsOf x hi lo := by
  rw [bitsOf_eq, Nat.mod_mod]

/-! ### Writes -/

/-- What a write of `w` makes of one field of the word `x` (R14). -/
def mergeStep (may : Access → Bool) (w x : Nat) (f : FieldDesc) : Nat :=
  let v := bitsOf w f.fld.hi f.fld.lo
  let cur := bitsOf x f.fld.hi f.fld.lo
  if !may f.access then x else
  match f.access with
  | .rw | .ow => setBitsOf x f.fld.hi f.fld.lo v
  | .w1c => setBitsOf x f.fld.hi f.fld.lo (cur - (cur &&& v))
  | .w1s => setBitsOf x f.fld.hi f.fld.lo (cur ||| v)
  | _ => x

theorem mergeWord_eq (d : RegDesc) (may : Access → Bool) (old w : Nat) :
    mergeWord d may old w = d.fields.foldl (mergeStep may w) old := rfl

theorem mergeStep_setsField (may : Access → Bool) (w : Nat) : SetsField (mergeStep may w) := by
  intro x f
  rw [mergeStep]
  split_ifs
  · exact .inl rfl
  · split
    · exact .inr ⟨_, rfl⟩
    · exact .inr ⟨_, rfl⟩
    · exact .inr ⟨_, rfl⟩
    · exact .inr ⟨_, rfl⟩
    · exact .inl rfl

/-- An RW or OW field that the requester may write takes its bits from the word written. -/
theorem bitsOf_mergeStep_set {may : Access → Bool} {f : FieldDesc} (hlo : f.fld.lo ≤ f.fld.hi) (hmay : may f.access = true)
    (ha : f.access = .rw ∨ f.access = .ow) (w x : Nat) :
    bitsOf (mergeStep may w x f) f.fld.hi f.fld.lo = bitsOf w f.fld.hi f.fld.lo := by
  have e : mergeStep may w x f = setBitsOf x f.fld.hi f.fld.lo (bitsOf w f.fld.hi f.fld.lo) := by
    rcases ha with h | h <;> simp [mergeStep, h ▸ hmay, h]
  rw [e, bitsOf_setBitsOf hlo, bitsOf_mod]

theorem State.keepsRegsBut_plainWrite (s : State) (d : RegDesc) (a : Nat) (w : Word) (may : Access → Bool) :
    s.KeepsRegsBut (s.plainWrite d a w may) [a] := s.keepsRegsBut_rput _ _

/-- A field that may be written holds the bits written. -/
theorem State.bitsOf_plainWrite (s : State) {d : RegDesc} {a : Nat} {f : FieldDesc} {may : Access → Bool} (w : Word)
    (h : regDescAt a = some d) (hf : f ∈ d.fields) (hmay : may f.access = true) (ha : f.access = .rw ∨ f.access = .ow) :
    bitsOf ((s.plainWrite d a w may).rget a).toNat f.fld.hi f.fld.lo = bitsOf w.toNat f.fld.hi f.fld.lo := by
  have hin := fields_inWord h
  rw [State.plainWrite, State.rget_rput_self, BitVec.toNat_ofNat, mergeWord_eq,
    Nat.mod_eq_of_lt (foldl_fields_lt (mergeStep_setsField may _) hin (s.rget a).isLt)]
  exact bitsOf_foldl_field (mergeStep_setsField may _) hin (fields_disjoint h) hf
    (bitsOf_mergeStep_set (hin f hf).1 hmay ha _) _

/-- A write of a register none of whose fields the requester may write changes nothing; SVY_CTRL counts a refusal (R113). -/
theorem State.writeEffect_unwritable {s : State} {r : Requester} {d : RegDesc} {a : Nat} (w : Word) (hd : d.reg ≠ SVY_CTRL)
    (hf : ∀ f ∈ d.fields, s.mayField r a f.access = false) : s.writeEffect r d a w = s := by
  have hany : d.fields.any (fun f => s.mayField r a f.access) = false := by simpa using hf
  simp [State.writeEffect, hd, hany]

theorem execRegisterWrite_of_desc {s : State} {r : Requester} {a : Nat} {d : RegDesc} (w : Word)
    (hs : inStaging a = false) (hd : regDescAt a = some d) :
    execRegisterWrite r a w s = .next (if mapped a && a % 4 == 0 then s.writeEffect r d a w else s) := by
  simp [execRegisterWrite, State.writeReg, hs, hd]

/-- SVY_CTRL has fields that a write sets off (R112). -/
theorem layout_svyCtrl : ∀ l ∈ layoutBlocks, ∀ d ∈ l, d.reg = SVY_CTRL → ∃ f ∈ d.fields, f.access = .wo := by decide +kernel

theorem readOnly_ne_svyCtrl {a : Nat} {d : RegDesc} (h : regDescAt a = some d) (hro : ∀ f ∈ d.fields, f.access = .ro ∨ f.access = .rc) :
    d.reg ≠ SVY_CTRL := by
  intro e
  obtain ⟨f, hf, ha⟩ := regDescAt_forall layout_svyCtrl h e
  rcases hro f hf with h' | h' <;> rw [h'] at ha <;> cases ha

theorem execRegisterWrite_readOnly {s : State} {r : Requester} {a : Nat} {d : RegDesc} (w : Word)
    (hs : inStaging a = false) (hd : regDescAt a = some d) (hro : ∀ f ∈ d.fields, f.access = .ro ∨ f.access = .rc) :
    execRegisterWrite r a w s = .next s := by
  have hf : ∀ f ∈ d.fields, s.mayField r a f.access = false := fun f hf => by
    rcases hro f hf with h | h <;> rw [h] <;> rfl
  rw [execRegisterWrite_of_desc w hs hd, State.writeEffect_unwritable w (readOnly_ne_svyCtrl hd hro) hf, ite_self]

/-! ### Two registers of the scheduler -/

/-- GFE_SCH_CTRL as its layout gives it (R581). -/
def schCtrl : RegDesc :=
  ⟨GFE_SCH_CTRL, [⟨GFE_SCH_CTRL_BE_HOLD, .ow, 1⟩, ⟨GFE_SCH_CTRL_PREEMPT_MAX, .ow, 8⟩, ⟨GFE_SCH_CTRL_AGE_US, .ow, 0x40⟩]⟩

/-- GFE_QCMD as its layout gives it (R540). -/
def qcmdReg : RegDesc := ⟨GFE_QCMD, [⟨GFE_QCMD_GO, .wo, 0⟩, ⟨GFE_QCMD_OP, .rw, 0⟩, ⟨GFE_QCMD_QUEUE, .rw, 0⟩]⟩

theorem regDescAt_schCtrl : ∀ n < 16, regDescAt (regAddr GFE_SCH_CTRL n 0) = some schCtrl := by decide +kernel

theorem regDescAt_qcmd : ∀ n < 16, regDescAt (regAddr GFE_QCMD n 0) = some qcmdReg := by decide +kernel

/-- A register of the scheduler whose write does not act is written field by field. -/
theorem execRegisterWrite_gfe {s : State} {r : Requester} {a : Nat} {d : RegDesc} {w : Word} (hlo : 0x80000 ≤ a) (hhi : a < 0x100000)
    (h4 : a % 4 = 0) (hd : regDescAt a = some d) (hr : d.reg ≠ SVY_CTRL) (hsel : isSelector d.reg = false)
    (hany : ∃ f ∈ d.fields, s.mayField r a f.access = true)
    (hplain : ∀ p, s.writeGfe d.reg (instAt d.reg a).1 w p = p) :
    execRegisterWrite r a w s = .next (s.plainWrite d a w (s.mayField r a)) := by
  have hs : inStaging a = false := by simp [inStaging]; omega
  have hm : mapped a = true := by simp [mapped]; omega
  have hany : d.fields.any (fun f => s.mayField r a f.access) = true := by simpa using hany
  rw [execRegisterWrite_of_desc w hs hd]
  simp [hm, h4, State.writeEffect, hr, hsel, hany, hplain, show ¬ a < 0x80000 by omega, hhi]

theorem execRegisterWrite_schCtrl {s : State} {r : Requester} {n : Nat} (w : Word) (hn : n < 16) (ho : s.owns r = true) :
    execRegisterWrite r (regAddr GFE_SCH_CTRL n 0) w s =
      .next (s.plainWrite schCtrl (regAddr GFE_SCH_CTRL n 0) w (s.mayField r (regAddr GFE_SCH_CTRL n 0))) := by
  have e : regAddr GFE_SCH_CTRL n 0 = 0x81000 + 0x40 * n := by simp [regAddr, GFE_SCH_CTRL]
  exact execRegisterWrite_gfe (by omega) (by omega) (by omega) (regDescAt_schCtrl n hn) (by decide) (by decide)
    ⟨_, List.mem_cons_self, ho⟩ (fun _ => rfl)

theorem State.mayField_qcmd {s : State} {r : Requester} {n : Nat} (hn : n < 16) (hw : s.mayWriteSet r n = true) :
    s.mayField r (regAddr GFE_QCMD n 0) .rw = true := by
  have e : regAddr GFE_QCMD n 0 = 0x80108 + 0x40 * n := by simp [regAddr, GFE_QCMD]
  have hq : (0x80108 + 0x40 * n - 0x80100) / 0x40 = n := by omega
  unfold State.mayField
  rw [e]
  dsimp only
  iterate 9 rw [if_neg (by omega)]
  rw [if_pos (by omega), hq, hw]

theorem execRegisterWrite_qcmd {s : State} {r : Requester} {n : Nat} {w : Word} (hn : n < 16) (hw : s.mayWriteSet r n = true)
    (hgo : bitsOf w.toNat 31 31 = 0) :
    execRegisterWrite r (regAddr GFE_QCMD n 0) w s =
      .next (s.plainWrite qcmdReg (regAddr GFE_QCMD n 0) w (s.mayField r (regAddr GFE_QCMD n 0))) := by
  have e : regAddr GFE_QCMD n 0 = 0x80108 + 0x40 * n := by simp [regAddr, GFE_QCMD]
  have hgo : inWord GFE_QCMD_GO w ≠ 1 := by
    rw [show inWord GFE_QCMD_GO w = 0 from hgo]
    decide
  refine execRegisterWrite_gfe (by omega) (by omega) (by omega) (regDescAt_qcmd n hn) (by decide) (by decide)
    ⟨⟨GFE_QCMD_OP, .rw, 0⟩, by decide, State.mayField_qcmd hn hw⟩ fun p => ?_
  show (if GFE_QCMD = GFE_QCMD then _ else _) = p
  rw [if_pos rfl, if_neg hgo]

theorem registerWrite_schCtrl_owner {s : State} {r : Requester} {n : Nat} (w : Word) (hn : n < 16) (ho : s.owns r = true) :
    ∃ s', exec (.registerWrite r (regAddr GFE_SCH_CTRL n 0) w) s = .next s' ∧
      s'.fget GFE_SCH_CTRL_BE_HOLD n = bitsOf w.toNat 31 31 ∧ s'.fget GFE_SCH_CTRL_PREEMPT_MAX n = bitsOf w.toNat 23 16 ∧
      s'.fget GFE_SCH_CTRL_AGE_US n = bitsOf w.toNat 15 0 ∧ s.KeepsRegsBut s' [regAddr GFE_SCH_CTRL n 0] ∧
      s.KeepsMemory s' ∧ s'.strands = s.strands := by
  have hd := regDescAt_schCtrl n hn
  have field : ∀ f ∈ schCtrl.fields, bitsOf ((s.plainWrite schCtrl (regAddr GFE_SCH_CTRL n 0) w
      (s.mayField r (regAddr GFE_SCH_CTRL n 0))).rget (regAddr GFE_SCH_CTRL n 0)).toNat f.fld.hi f.fld.lo =
      bitsOf w.toNat f.fld.hi f.fld.lo := fun f hf => by
    have ha : f.access = .ow := (by decide : ∀ f ∈ schCtrl.fields, f.access = .ow) f hf
    exact s.bitsOf_plainWrite w hd hf (by rw [ha]; exact ho) (.inr ha)
  exact ⟨_, execRegisterWrite_schCtrl w hn ho, field ⟨GFE_SCH_CTRL_BE_HOLD, .ow, 1⟩ (by decide),
    field ⟨GFE_SCH_CTRL_PREEMPT_MAX, .ow, 8⟩ (by decide), field ⟨GFE_SCH_CTRL_AGE_US, .ow, 0x40⟩ (by decide),
    s.keepsRegsBut_plainWrite _ _ _ _, fun _ => rfl, rfl⟩

theorem registerWrite_schCtrl_other {s : State} {r : Requester} {n : Nat} (w : Word) (hn : n < 16) (ho : s.owns r = false) :
    exec (.registerWrite r (regAddr GFE_SCH_CTRL n 0) w) s = .next s := by
  have e : regAddr GFE_SCH_CTRL n 0 = 0x81000 + 0x40 * n := by simp [regAddr, GFE_SCH_CTRL]
  have hs : inStaging (regAddr GFE_SCH_CTRL n 0) = false := by simp [inStaging]; omega
  have hf : ∀ f ∈ schCtrl.fields, s.mayField r (regAddr GFE_SCH_CTRL n 0) f.access = false := fun f hf => by
    rw [(by decide : ∀ f ∈ schCtrl.fields, f.access = .ow) f hf]
    exact ho
  show execRegisterWrite r (regAddr GFE_SCH_CTRL n 0) w s = .next s
  rw [execRegisterWrite_of_desc w hs (regDescAt_schCtrl n hn), State.writeEffect_unwritable w (by decide) hf, ite_self]

theorem registerWrite_qcmd {s : State} {r : Requester} {n : Nat} {w : Word} (hn : n < 16) (hw : s.mayWriteSet r n = true)
    (hgo : bitsOf w.toNat 31 31 = 0) :
    ∃ s', exec (.registerWrite r (regAddr GFE_QCMD n 0) w) s = .next s' ∧
      s'.fget GFE_QCMD_OP n = bitsOf w.toNat GFE_QCMD_OP.hi GFE_QCMD_OP.lo ∧
      s'.fget GFE_QCMD_QUEUE n = bitsOf w.toNat GFE_QCMD_QUEUE.hi GFE_QCMD_QUEUE.lo ∧
      s.KeepsRegsBut s' [regAddr GFE_QCMD n 0] ∧ s.KeepsMemory s' := by
  have hmay := State.mayField_qcmd hn hw
  exact ⟨_, execRegisterWrite_qcmd hn hw hgo,
    s.bitsOf_plainWrite (f := ⟨GFE_QCMD_OP, .rw, 0⟩) w (regDescAt_qcmd n hn) (by decide) hmay (.inl rfl),
    s.bitsOf_plainWrite (f := ⟨GFE_QCMD_QUEUE, .rw, 0⟩) w (regDescAt_qcmd n hn) (by decide) hmay (.inl rfl),
    s.keepsRegsBut_plainWrite _ _ _ _, fun _ => rfl⟩

/-- Settles O9. -/
theorem registerWriteAccess : Obligations.RegisterWriteAccess := by
  refine fun s r a w => ⟨fun h => ?_, fun hs hd => ?_, fun d hs hd hro => execRegisterWrite_readOnly w hs hd hro,
    fun n hn ho => registerWrite_schCtrl_owner w hn ho, fun n hn ho => registerWrite_schCtrl_other w hn ho,
    fun n hn hw hgo => registerWrite_qcmd hn hw hgo⟩
  · show execRegisterWrite r a w s = .next s
    have hskip : ¬(mapped a && a % 4 == 0) = true := by rcases h with h | h <;> simp [h]
    rw [execRegisterWrite, if_neg hskip]
  · show execRegisterWrite r a w s = .next s
    simp [execRegisterWrite, State.writeReg, hs, hd]

end Sys2Proof.Machine
end

section
/-! PROOFS. O10 and O11: what a read of a register returns, clears and latches. -/

namespace Sys2Proof.Machine

/-! ### Registers that read as stored -/

/-- The FLAGS_RC registers, whose reads clear another register's fields (R158, R160). -/
def flagsRcRegs : List Reg := [MXE_FLAGS_RC, VXE_FLAGS_RC, SFU_FLAGS_RC, ATU_FLAGS_RC, RTE_FLAGS_RC]

/-- The registers that `State.unitWord` forms (R638, R642). -/
def unitRegs : List Reg := [HLM_UNIT_STATE, HLM_UNIT_EVENTS, HLM_UNIT_LAST_LO, HLM_UNIT_LAST_HI, HLM_LIFE_LO, HLM_LIFE_HI]

/-- The registers that `State.seqWord` forms (R307, R309). -/
def seqRegs : List Reg :=
  [ATU_POOL_TOTAL, ATU_POOL_FREE, ATU_POOL_RESV, ATU_POOL_ZERO, ATU_SEQ_OPEN, ATU_SEQ_GEN, ATU_SEQ_STATE, ATU_SEQ_LENGTH,
    ATU_SEQ_HIGH, ATU_SEQ_PAGES, ATU_SEQ_MAX, ATU_SUSPENDED]

/-- The registers that `State.gfeWord` forms (R540, R541, R580, R581). -/
def gfeRegs : List Reg :=
  [GFE_STATUS, GFE_QUEUES, GFE_SCH_RESV, GFE_SCH_QUEUED, GFE_SCH_SUSP, GFE_SCH_POWER, LSQ_STATUS, LSQ_TASKS, DMV_STATUS]

/-- The registers that `State.loopWord` forms (R347, R348). -/
def loopRegs : List Reg := [RTE_BIAS, RTE_LOAD, RTE_LOOP, RTE_IMB]

/-- The other registers that a read forms or takes from elsewhere. -/
def formedRegs : List Reg :=
  [CDC_SLOT_SEL, SFU_TBL_SEL, RTE_PROF_SEL, RTE_EXP_SEL, ATU_SEQ_SEL, HLM_UNIT_SEL, HLM_LIFE_SEL, MGC_STATUS, TBC_NOW_LO,
    TBC_NOW_HI, SVY_STAGE_BASE_LO, XCE_STATUS, MMU_STATUS, CDC_SLOT_INFO, CDC_SLOT_REFS, RTE_STATUS, MXE_STATUS, VXE_STATUS,
    SFU_STATUS, ATU_STATUS, SFU_TBL_INFO, MXE_SR_SEED_LO, MXE_SR_SEED_HI, VXE_SR_SEED_LO, VXE_SR_SEED_HI]

/-- Whether a register is none of those: its read returns the stored word. -/
def readsStored (d : Reg) : Bool :=
  !(isTrain d || flagsRcRegs.contains d || unitRegs.contains d || seqRegs.contains d || gfeRegs.contains d || loopRegs.contains d ||
    formedRegs.contains d)

theorem State.unitWord_none (s : State) {d : Reg} (h : d ∉ unitRegs) (u life : Nat) : s.unitWord u life d = none := by
  simp only [unitRegs, List.mem_cons, List.not_mem_nil, not_or] at h
  simp [State.unitWord, h]

theorem State.seqWord_none (s : State) {d : Reg} (h : d ∉ seqRegs) (n id : Nat) : s.seqWord n id d = none := by
  simp only [seqRegs, List.mem_cons, List.not_mem_nil, not_or] at h
  simp [State.seqWord, h]

theorem State.gfeWord_none (s : State) {d : Reg} (h : d ∉ gfeRegs) (i j : Nat) : s.gfeWord d i j = none := by
  simp only [gfeRegs, List.mem_cons, List.not_mem_nil, not_or] at h
  simp [State.gfeWord, h]

theorem State.loopWord_none (s : State) {d : Reg} (h : d ∉ loopRegs) (n p e : Nat) : s.loopWord n p e d = none := by
  simp only [loopRegs, List.mem_cons, List.not_mem_nil, not_or] at h
  simp [State.loopWord, h]

/-- A register that reads as stored returns its word, and its read changes nothing. -/
theorem State.readValue_stored (s : State) (r : Requester) {d : Reg} (h : readsStored d = true) (i j : Nat) :
    s.readValue r d i j = (s.rget (regAddr d i j), s) := by
  simp only [readsStored, Bool.not_eq_true', Bool.or_eq_false_iff, List.contains_eq_mem, decide_eq_false_iff_not] at h
  obtain ⟨⟨⟨⟨⟨⟨htrain, hflags⟩, hunit⟩, hseq⟩, hgfe⟩, hloop⟩, hform⟩ := h
  have hnot := hgfe
  simp only [gfeRegs, flagsRcRegs, formedRegs, List.mem_cons, List.not_mem_nil, not_or] at hflags hform hnot
  cases hc : s.chamberOf i <;>
    simp only [State.readValue, s.unitWord_none hunit, s.seqWord_none hseq, s.gfeWord_none hgfe, s.loopWord_none hloop, htrain,
      hflags, hform, hnot, hc, or_self, if_false, Bool.false_and, Bool.false_eq_true, ite_self]

/-! ### Fields that a read clears -/

/-- A register with an RC field reads as stored, but for FLAGS_RC (R16, R158). -/
theorem layout_rc : ∀ l ∈ layoutBlocks, ∀ d ∈ l, d.fields.any (fun f => f.access == .rc) = true →
    d.reg ∈ flagsRcRegs ∨ readsStored d.reg = true := by decide +kernel

theorem flagsRcAt_isSome {d : Reg} {a : Nat} (hd : d ∈ flagsRcRegs) (h : (regInst d a).isSome = true) :
    (flagsRcAt a).isSome = true := by
  have hreg : ∀ d ∈ flagsRcRegs, ∃ e ∈ ([.mxe, .vxe, .sfu, .atu, .rte] : List FlagSet),
      (⟨e.reg.base + 4, e.reg.n1, e.reg.s1, e.reg.n2, e.reg.s2⟩ : Reg) = d := by decide
  obtain ⟨e, he, rfl⟩ := hreg d hd
  rw [flagsRcAt, List.findSome?_isSome_iff]
  exact ⟨e, he, by rw [Option.isSome_map, h]⟩

/-- A step of the clearing of RC fields. -/
def clearStep (x : Nat) (f : FieldDesc) : Nat := if f.access == .rc then setBitsOf x f.fld.hi f.fld.lo 0 else x

theorem clearStep_setsField : SetsField clearStep := by
  intro x f
  unfold clearStep
  split
  · exact .inr ⟨0, rfl⟩
  · exact .inl rfl

theorem bitsOf_clearStep {f : FieldDesc} (hlo : f.fld.lo ≤ f.fld.hi) (ha : f.access = .rc) (x : Nat) :
    bitsOf (clearStep x f) f.fld.hi f.fld.lo = 0 := by
  rw [clearStep, if_pos (by rw [ha]; rfl), bitsOf_setBitsOf hlo, Nat.zero_mod]

theorem State.clearRc_eq (s : State) {d : RegDesc} (h : d.fields.any (fun f => f.access == .rc) = true) (a : Nat) :
    s.clearRc d a = s.rput a (BitVec.ofNat 32 (d.fields.foldl clearStep (s.rget a).toNat)) := if_pos h

/-- A register without RC fields is unchanged by its read. -/
theorem State.clearRc_none (s : State) {d : RegDesc} (h : d.fields.any (fun f => f.access == .rc) = false) (a : Nat) :
    s.clearRc d a = s := if_neg (by rw [h]; decide)

theorem any_rc {d : RegDesc} {f : FieldDesc} (hf : f ∈ d.fields) (ha : f.access = .rc) :
    d.fields.any (fun f => f.access == .rc) = true := List.any_eq_true.mpr ⟨f, hf, by rw [ha]; rfl⟩

theorem State.bitsOf_clearRc (s : State) {d : RegDesc} {a : Nat} {f : FieldDesc} (h : regDescAt a = some d) (hf : f ∈ d.fields)
    (ha : f.access = .rc) : bitsOf ((s.clearRc d a).rget a).toNat f.fld.hi f.fld.lo = 0 := by
  have hin := fields_inWord h
  rw [s.clearRc_eq (any_rc hf ha), State.rget_rput_self, BitVec.toNat_ofNat,
    Nat.mod_eq_of_lt (foldl_fields_lt clearStep_setsField hin (s.rget a).isLt)]
  exact bitsOf_foldl_field clearStep_setsField hin (fields_disjoint h) hf (bitsOf_clearStep (hin f hf).1 ha) _

/-! ### Reads -/

/-- A read of a register that reads as stored, other than the _HI word of a counter: the word as it stands, the RC fields cleared, and
for a _LO word the high word latched. -/
theorem State.readReg_stored (s : State) {r : Requester} {a : Nat} {d : RegDesc} (hd : regDescAt a = some d)
    (hr : s.mayRead r a = true) (hh : isHigh d.reg = false) (hst : readsStored d.reg = true) (hfl : flagsRcAt a = none) :
    s.readReg r a = (s.rget a, if isLow d.reg then (s.clearRc d a).latch r a else s.clearRc d a) := by
  simp [State.readReg, hd, hr, hh, s.readValue_stored r hst, hfl, regAddr_instAt hd]

/-- A read of the _HI word of a counter returns the requester's shadow (R19). -/
theorem State.readReg_high (s : State) {r : Requester} {a : Nat} {d : RegDesc} (hd : regDescAt a = some d)
    (hr : s.mayRead r a = true) (hh : isHigh d.reg = true) : s.readReg r a = (s.shadow r a, s) := by
  simp [State.readReg, hd, hr, hh]

/-- Settles O10. -/
theorem rcReadClears : Obligations.RcReadClears := by
  intro s r a d f hd hf ha hr hfl hh hlow
  have hany := any_rc hf ha
  have hst : readsStored d.reg = true := by
    refine (regDescAt_forall layout_rc hd hany).resolve_left fun hmem => ?_
    have := flagsRcAt_isSome hmem (regInst_of_regDescAt hd)
    rw [hfl] at this
    cases this
  have hread : s.readReg r a = (s.rget a, s.clearRc d a) := by rw [s.readReg_stored hd hr hh hst hfl, hlow]; rfl
  refine ⟨by rw [hread], s.clearRc d a, ?_, s.bitsOf_clearRc hd hf ha, ?_⟩
  · show execRcRead r a s = _
    simp only [execRcRead, hd, hany, if_true, hread]
  · rw [s.clearRc_eq hany]
    exact ⟨s.keepsRegsBut_rput _ _, fun _ => rfl, rfl⟩

/-! ### Counters of two words -/

theorem execCounterLoRead_of_desc {s : State} {r : Requester} {a : Nat} {d : RegDesc} (hd : regDescAt a = some d)
    (hl : isLow d.reg = true) : execCounterLoRead r a s = .next (s.readReg r a).2 := by
  simp [execCounterLoRead, hd, hl]

/-- The latch writes the value of the _HI word in the requester's shadow. -/
theorem State.shadow_latch_self (s : State) {r : Requester} {a : Nat} {d : RegDesc} (hd : regDescAt (a + 4) = some d) :
    (s.latch r a).shadow r (a + 4) =
      (s.readValue r d.reg (instAt d.reg (a + 4)).1 (instAt d.reg (a + 4)).2).1 := by
  simp [State.latch, hd, State.shadow]

theorem State.shadow_latch_other (s : State) {r q : Requester} {a b : Nat} (hq : q.number ≠ r.number) (ha : a + 4 < 2 ^ 32)
    (hb : b < 2 ^ 32) : (s.latch r a).shadow q b = s.shadow q b := by
  unfold State.latch
  split
  · rfl
  · exact smGet_smPut_ne _ _ _ (by omega)

theorem State.keepsRegsBut_latch (s : State) (r : Requester) (a : Nat) : s.KeepsRegsBut (s.latch r a) [] := by
  intro b _
  unfold State.latch
  split <;> rfl

theorem State.keepsMemory_latch (s : State) (r : Requester) (a : Nat) : s.KeepsMemory (s.latch r a) := by
  intro b
  unfold State.latch
  split <;> rfl

/-- VXE_ELEM_LO and VXE_ELEM_HI as their layout gives them (R267). -/
def elemLo : RegDesc := ⟨VXE_ELEM_LO, [⟨VXE_ELEM_LO_COUNT, .ro, 0⟩]⟩

def elemHi : RegDesc := ⟨VXE_ELEM_HI, [⟨VXE_ELEM_HI_COUNT, .ro, 0⟩]⟩

theorem regDescAt_elem : ∀ c < 128, regDescAt (regAddr VXE_ELEM_LO c 0) = some elemLo ∧
    regDescAt (regAddr VXE_ELEM_HI c 0) = some elemHi ∧ flagsRcAt (regAddr VXE_ELEM_LO c 0) = none := by decide +kernel

theorem regAddr_elem (c : Nat) : regAddr VXE_ELEM_HI c 0 = regAddr VXE_ELEM_LO c 0 + 4 := by
  simp only [regAddr, VXE_ELEM_HI, VXE_ELEM_LO]
  omega

/-- A read of the element counter's _LO word latches its high word and does nothing more. -/
theorem execCounterLoRead_elem {s : State} {r : Requester} {c : Nat} (hc : c < 128)
    (hr : s.mayRead r (regAddr VXE_ELEM_LO c 0) = true) :
    execCounterLoRead r (regAddr VXE_ELEM_LO c 0) s = .next (s.latch r (regAddr VXE_ELEM_LO c 0)) := by
  obtain ⟨hlo, -, hfl⟩ := regDescAt_elem c hc
  rw [execCounterLoRead_of_desc hlo (by decide), s.readReg_stored hlo hr (by decide) (by decide) hfl, s.clearRc_none (by decide),
    if_pos (by decide)]

theorem State.shadow_latch_elem (s : State) (r : Requester) {c : Nat} (hc : c < 128) :
    (s.latch r (regAddr VXE_ELEM_LO c 0)).shadow r (regAddr VXE_ELEM_HI c 0) = s.rget (regAddr VXE_ELEM_HI c 0) := by
  obtain ⟨-, hhi, -⟩ := regDescAt_elem c hc
  have haddr := regAddr_instAt hhi
  rw [regAddr_elem] at hhi haddr ⊢
  rw [s.shadow_latch_self hhi, s.readValue_stored r (by decide), haddr]

theorem counterLoRead_elem {s : State} {r : Requester} {c : Nat} (hc : c < 128)
    (hr : s.mayRead r (regAddr VXE_ELEM_LO c 0) = true) :
    ∃ s', exec (.counterLoRead r (regAddr VXE_ELEM_LO c 0)) s = .next s' ∧
      s'.shadow r (regAddr VXE_ELEM_HI c 0) = s.rget (regAddr VXE_ELEM_HI c 0) ∧
      (∀ q b, q.number ≠ r.number → b < 2 ^ 32 → s'.shadow q b = s.shadow q b) ∧ s.KeepsRegsBut s' [] ∧ s.KeepsMemory s' := by
  have hlt : regAddr VXE_ELEM_LO c 0 + 4 < 2 ^ 32 := by
    simp only [regAddr, VXE_ELEM_LO]
    omega
  exact ⟨_, execCounterLoRead_elem hc hr, s.shadow_latch_elem r hc, fun q b hq hb => s.shadow_latch_other hq hlt hb,
    s.keepsRegsBut_latch _ _, s.keepsMemory_latch _ _⟩

/-- TBC_NOW_LO and TBC_NOW_HI as their layout gives them (R693). -/
def nowLo : RegDesc := ⟨TBC_NOW_LO, [⟨TBC_NOW_LO_TIME, .ro, 0⟩]⟩

def nowHi : RegDesc := ⟨TBC_NOW_HI, [⟨TBC_NOW_HI_TIME, .ro, 0⟩]⟩

theorem regDescAt_nowLo : regDescAt TBC_NOW_LO.base = some nowLo := by decide +kernel

theorem regDescAt_nowHi : regDescAt TBC_NOW_HI.base = some nowHi := by decide +kernel

theorem State.readValue_nowLo (s : State) (r : Requester) : s.readValue r TBC_NOW_LO 0 0 = (BitVec.ofNat 32 (s.tb % 2 ^ 32), s) := rfl

theorem State.readValue_nowHi (s : State) (r : Requester) :
    s.readValue r TBC_NOW_HI 0 0 = (BitVec.ofNat 32 (s.tb / 2 ^ 32 % 2 ^ 32), s) := rfl

theorem readReg_nowLo {s : State} {r : Requester} (hr : s.mayRead r TBC_NOW_LO.base = true) :
    s.readReg r TBC_NOW_LO.base = (BitVec.ofNat 32 (s.tb % 2 ^ 32), s.latch r TBC_NOW_LO.base) := by
  have hh : isHigh nowLo.reg = false := by decide
  have hl : isLow nowLo.reg = true := by decide
  have hi : instAt nowLo.reg TBC_NOW_LO.base = (0, 0) := by decide
  have hv : s.readValue r nowLo.reg 0 0 = _ := s.readValue_nowLo r
  have hfl : flagsRcAt TBC_NOW_LO.base = none := by decide
  simp [State.readReg, regDescAt_nowLo, hr, hh, hl, hi, hv, hfl, s.clearRc_none (d := nowLo) (by decide)]

theorem counterLoRead_now {s : State} {r : Requester} (hr : s.mayRead r TBC_NOW_LO.base = true) :
    ∃ s', exec (.counterLoRead r TBC_NOW_LO.base) s = .next s' ∧
      s'.shadow r TBC_NOW_HI.base = BitVec.ofNat 32 (s.tb / 2 ^ 32 % 2 ^ 32) ∧ s.KeepsRegsBut s' [] := by
  refine ⟨s.latch r TBC_NOW_LO.base, ?_, ?_, s.keepsRegsBut_latch _ _⟩
  · show execCounterLoRead r TBC_NOW_LO.base s = _
    rw [execCounterLoRead_of_desc regDescAt_nowLo (by decide), readReg_nowLo hr]
  · exact (s.shadow_latch_self regDescAt_nowHi).trans (congrArg Prod.fst (s.readValue_nowHi r))

/-- Settles O11. -/
theorem counterShadows : Obligations.CounterShadows := by
  refine fun s r c hc => ⟨counterLoRead_elem hc, fun hr => ?_, counterLoRead_now⟩
  obtain ⟨-, hhi, -⟩ := regDescAt_elem c hc
  rw [s.readReg_high hhi hr (by decide)]

end Sys2Proof.Machine
end

section
/-! PROOFS. O5 and O6: every command, and the tick of an idle step, keeps memory and the register file in canonical form. The laws
say of each shared operation that it keeps the form; a command's proof follows its branches and names the operations on each. -/

namespace Sys2Proof.Machine

open State

/-- Every next state of a command's result is in canonical form. -/
def Result.Canonical (r : Result) : Prop := ∀ s', r = .next s' → s'.Canonical

theorem canonical_next {s : State} (h : s.Canonical) : Result.Canonical (.next s) := by
  rintro _ ⟨⟩
  exact h

/-- A guard whose second branch is a state that its first branch goes on from. -/
theorem canonical_ite_of_else {c : Prop} [Decidable c] {s t : State} (hf : t.Canonical → s.Canonical) (h : t.Canonical) :
    (if c then s else t).Canonical := canonical_ite (hf h) h

/-- A guard whose first branch is a state that its second branch goes on from. -/
theorem canonical_ite_of_then {c : Prop} [Decidable c] {s t : State} (hf : s.Canonical → t.Canonical) (h : s.Canonical) :
    (if c then s else t).Canonical := canonical_ite h (hf h)

section Commands

variable {s : State} (hs : s.Canonical)
include hs

/-! ### Strands, queues and items -/

theorem execQcbRead_canonical {n : Nat} : Result.Canonical (execQcbRead n s) :=
  canonical_next <| canonical_ite hs <| canonical_ite (canonical_qcmdRefuse hs) <| canonical_deliver <|
    canonical_remotely hs (fun _ _ ht => canonical_qcmdRefuse ht) fun _ ht => canonical_qcbRead ht

theorem execItemFetch_canonical {n : Nat} : Result.Canonical (execItemFetch n s) := by
  refine canonical_next ?_
  dsimp only
  split
  · exact hs
  · exact canonical_deliver <| canonical_remotely hs (fun _ _ ht => canonical_fetchFailed ht) fun _ ht =>
      canonical_fetchFrom <| canonical_snd <| canonical_turn ht

theorem execItemDispatch_canonical {n : Nat} : Result.Canonical (execItemDispatch n s) := by
  refine canonical_next ?_
  dsimp only
  split
  · exact hs
  · refine canonical_ite (canonical_endItem hs) ?_
    split
    · exact hs
    · exact canonical_place hs

theorem execItemBind_canonical {g : Nat} : Result.Canonical (execItemBind g s) := by
  refine canonical_next ?_
  dsimp only
  split
  · exact hs
  · refine canonical_ite (canonical_endItem hs) ?_
    split
    · exact hs
    · exact canonical_bind hs

theorem execAgeExpiry_canonical {a : Aging} : Result.Canonical (execAgeExpiry a s) := by
  refine canonical_next ?_
  split
  · exact canonical_ite (canonical_setStrand hs) hs
  · exact canonical_modItem hs

theorem execMarkerEnd_canonical {q seq : Nat} : Result.Canonical (execMarkerEnd q seq s) := by
  refine canonical_next ?_
  split
  · exact hs
  · exact canonical_ite (canonical_endItem hs) hs

theorem execMessageDispatch_canonical {q : Nat} : Result.Canonical (execMessageDispatch q s) := by
  refine canonical_next ?_
  split
  · exact canonical_modItem <| canonical_setStrand hs
  · exact hs

theorem execCopyComplete_canonical {k : ItemKey} : Result.Canonical (execCopyComplete k s) := by
  refine canonical_next ?_
  split
  · exact hs
  · split
    · exact canonical_ite hs <| canonical_deliver <| canonical_remotely hs (fun _ _ ht => canonical_copyOver ht)
        fun _ ht => canonical_copyRun ht
    · exact hs

theorem execDmvAbortAck_canonical {k : ItemKey} : Result.Canonical (execDmvAbortAck k s) := by
  refine canonical_next ?_
  split
  · exact hs
  · split
    · exact canonical_ite hs <| canonical_deliver <| canonical_settle <| canonical_modItem <| canonical_bump <|
        canonical_bump <| canonical_bump64 <| canonical_forget <| canonical_unlessRemote (canonical_mk hs) fun _ ht =>
        canonical_copyPart ht
    · exact hs

theorem execItemTimeout_canonical {q seq : Nat} : Result.Canonical (execItemTimeout q seq s) := by
  refine canonical_next ?_
  split
  · exact hs
  · exact canonical_ite (canonical_ite (canonical_abortItem <| canonical_dropAppend <| canonical_bump hs) <|
      canonical_abortItem hs) hs

theorem execQwEnd_canonical {c t : Nat} : Result.Canonical (execQwEnd c t s) := by
  refine canonical_next <| canonical_issue hs fun _ _ _ ht => canonical_ite (canonical_failStrand ht) <| canonical_ite
    (canonical_failStrand ht) ?_
  split
  · exact canonical_endItem ht
  · exact ht

theorem execQwTake_canonical {c t : Nat} : Result.Canonical (execQwTake c t s) :=
  canonical_next <| canonical_issue hs fun _ _ _ ht => canonical_ite (canonical_failStrand ht) <| canonical_ite
    (canonical_failStrand ht) <| canonical_ite (canonical_failStrand ht) <| canonical_needing ht <|
    canonical_setStrand ht

theorem execQwDone_canonical {c t : Nat} : Result.Canonical (execQwDone c t s) := by
  refine canonical_next <| canonical_issue hs fun _ _ _ ht => canonical_ite (canonical_failStrand ht) <| canonical_ite
    (canonical_failStrand ht) ?_
  split
  · exact canonical_endItem <| canonical_advance ht
  · exact canonical_ite (canonical_advance ht) <| canonical_failStrand ht

theorem execQwExit_canonical {c t : Nat} : Result.Canonical (execQwExit c t s) := by
  refine canonical_next <| canonical_issue hs fun _ _ _ ht => canonical_ite (canonical_failStrand ht) <| canonical_ite
    (canonical_failStrand ht) ?_
  dsimp only
  split
  · refine canonical_endItem ?_
    split
    · exact canonical_endItem ht
    · exact ht
  · split
    · exact canonical_endItem ht
    · exact ht

theorem execQwLive_canonical {c t : Nat} : Result.Canonical (execQwLive c t s) :=
  canonical_next <| canonical_issue hs fun _ _ _ ht => canonical_needing ht <| canonical_ite
    (canonical_failStrand ht) <| canonical_advance ht

/-! ### Stored graphs -/

theorem execGraphNodeDispatch_canonical {q seq k : Nat} :
    Result.Canonical (execGraphNodeDispatch q seq k s) := by
  refine canonical_next ?_
  split
  · exact hs
  · dsimp only
    split
    · exact hs
    · split
      · exact hs
      · refine canonical_ite hs <| canonical_ite (canonical_endItem <| canonical_mk hs) <| canonical_ite
          (canonical_endItem <| canonical_mk hs) ?_
        split
        · exact hs
        · exact canonical_place <| canonical_mk hs

/-! ### Memory accesses and fences -/

theorem execHomeAccess_canonical {id : Nat} {ev : CellEvent} : Result.Canonical (execHomeAccess id ev s) := by
  refine canonical_next ?_
  split
  · exact hs
  · refine canonical_ite hs ?_
    split
    · exact canonical_ite hs <| canonical_deliver <| canonical_performLocal hs
    · exact canonical_performRemote hs

theorem execMmuInvalidateDone_canonical {n : Nat} : Result.Canonical (execMmuInvalidateDone n s) := by
  refine canonical_next ?_
  split
  · exact hs
  · exact canonical_ite hs <| canonical_ite_of_then (fun ht => canonical_fset <| canonical_fset ht) <| canonical_mk hs

/-! ### The matrix engine -/

theorem execMxRun_canonical {c t : Nat} : Result.Canonical (execMxRun c t s) :=
  canonical_next <| canonical_issue hs fun _ _ _ ht => canonical_needing ht <| canonical_ite (canonical_failStrand <|
    canonical_mxEnded ht) <| canonical_ite (canonical_stall ht) <| canonical_describe ht (fun _ _ ht1 =>
    canonical_mxEnded ht1) fun _ _ ht1 => canonical_accept (canonical_snd <| canonical_sample ht1) fun _ _ ht2 =>
    canonical_mxDecoder ht2

theorem execMxRunComplete_canonical {c : Nat} : Result.Canonical (execMxRunComplete c s) := by
  refine canonical_next ?_
  split
  · exact canonical_mxAdvance hs
  · refine canonical_ite_of_then (fun ht => ?_) <| canonical_mxAdvance hs
    split
    · exact canonical_deliver <| canonical_remotely ht (fun _ _ ht1 => canonical_engFailed ht1) fun _ ht1 =>
        canonical_mxCompute ht1
    · exact canonical_ite_of_else (fun _ => canonical_engOver ht) ht

theorem execDupCompare_canonical {c : Nat} {upset : List (Nat × Nat)} :
    Result.Canonical (execDupCompare c upset s) := by
  refine canonical_next ?_
  split
  · exact hs
  · split
    · refine canonical_ite hs ?_
      dsimp only
      split
      · exact canonical_engFailed <| canonical_dupMismatch hs
      · exact canonical_engOver <| canonical_fset <| canonical_bump hs
    · exact hs

theorem execMxeAbortAck_canonical {c : Nat} : Result.Canonical (execMxeAbortAck c s) :=
  canonical_next <| canonical_ite_of_then (fun ht => canonical_mxAdvance <| canonical_bump ht) <| canonical_snd <|
    canonical_ackAbort hs

/-! ### The vector engine -/

theorem execVxeComplete_canonical {c : Nat} : Result.Canonical (execVxeComplete c s) := by
  refine canonical_next ?_
  split
  · exact canonical_vxAdvance hs
  · exact canonical_ite_of_then (fun ht => canonical_deliver <| canonical_vxRun ht) <| canonical_vxAdvance hs

theorem execVxeAbortAck_canonical {c : Nat} : Result.Canonical (execVxeAbortAck c s) := by
  refine canonical_next <| canonical_ite_of_then (fun ht => canonical_vxAdvance <| canonical_bump ht) <|
    canonical_snd <| canonical_ackAbort ?_
  split
  · exact canonical_ite (canonical_deliver <| canonical_vxStop hs) hs
  · exact hs

/-! ### Packets for this device -/

theorem execRdReq_canonical {l : Nat} {p : Packet} {ev : CellEvent} : Result.Canonical (execRdReq l p ev s) := by
  refine canonical_next <| canonical_arrive hs fun _ ht => canonical_judge0 ht fun _ ht1 => ?_
  split
  next e => exact canonical_nak <| canonical_of_pair e <| canonical_readTarget ht1
  next e => exact canonical_answer <| canonical_of_pair e <| canonical_readTarget ht1

theorem execWr_canonical {l : Nat} {p : Packet} {ev : CellEvent} : Result.Canonical (execWr l p ev s) :=
  canonical_next <| canonical_arrive hs fun _ ht => canonical_judge0 ht fun _ ht1 => canonical_answer <|
    canonical_countWrite <| canonical_writeTarget ht1

theorem execAmo_canonical {l : Nat} {p : Packet} {ev : CellEvent} : Result.Canonical (execAmo l p ev s) :=
  canonical_next <| canonical_arrive hs fun _ ht => canonical_judge0 ht fun _ ht1 => canonical_answer <|
    canonical_countWrite <| canonical_ite_of_then (fun ht2 => canonical_snd <| canonical_writeLine ht2) <|
    canonical_countLine ht1

theorem execCloseWr_canonical {l : Nat} {p : Packet} : Result.Canonical (execCloseWr l p s) := by
  refine canonical_next <| canonical_arrive hs fun _ ht => canonical_ite (canonical_nak <| canonical_e2eFail ht) <|
    canonical_ite (canonical_violate ht) <| canonical_ite (canonical_violate ht) ?_
  split
  · exact canonical_nak ht
  · refine canonical_ite (canonical_nak ht) ?_
    split
    · exact canonical_nak <| canonical_setStream ht
    · exact canonical_ite_of_else canonical_discardClose <| canonical_setStream ht

theorem execCloseWrPerform_canonical {src n req k : Nat} :
    Result.Canonical (execCloseWrPerform src n req k s) := by
  refine canonical_next ?_
  split
  · exact hs
  · refine canonical_ite hs ?_
    split
    · exact canonical_nak <| canonical_setStream hs
    · exact canonical_answer <| canonical_setStream <| canonical_deliver <| canonical_closeRecord <| canonical_snd <|
        canonical_writeLine hs

theorem execCloseTimeout_canonical {src n req k : Nat} : Result.Canonical (execCloseTimeout src n req k s) := by
  refine canonical_next ?_
  split
  · exact hs
  · exact canonical_ite hs <| canonical_discardClose hs

theorem execRow_canonical {l : Nat} {p : Packet} : Result.Canonical (execRow l p s) := by
  refine canonical_next <| canonical_arrive hs fun _ ht => canonical_ite (canonical_nak <| canonical_e2eFail ht) ?_
  split
  · exact canonical_nak ht
  · split
    next e1 => exact canonical_nak <| canonical_of_pair e1 <| canonical_landRow ht
    next e1 => exact canonical_answer <| canonical_of_pair e1 <| canonical_landRow ht
    next e1 => exact canonical_of_pair e1 <| canonical_landRow ht

theorem execRowEnd_canonical {l : Nat} {p : Packet} : Result.Canonical (execRowEnd l p s) := by
  refine canonical_next <| canonical_arrive hs fun _ ht => canonical_ite (canonical_nak <| canonical_e2eFail ht) ?_
  split
  · exact canonical_nak ht
  · split
    next e1 => exact canonical_nak <| canonical_of_pair e1 <| canonical_landMark ht
    next e1 => exact canonical_of_pair e1 <| canonical_landMark ht

/-! ### Answers to this device -/

theorem execRdResp_canonical {l : Nat} {p : Packet} : Result.Canonical (execRdResp l p s) :=
  canonical_next <| canonical_arrive hs fun _ ht => canonical_answerTo ht fun _ _ ht1 => canonical_readDone ht1

theorem execWrAck_canonical {l : Nat} {p : Packet} : Result.Canonical (execWrAck l p s) :=
  canonical_next <| canonical_arrive hs fun _ ht => canonical_answerTo ht fun _ _ ht1 => canonical_ownerDone ht1

theorem execAmoResp_canonical {l : Nat} {p : Packet} : Result.Canonical (execAmoResp l p s) :=
  canonical_next <| canonical_arrive hs fun _ ht => canonical_answerTo ht fun _ _ ht1 => canonical_ownerDone ht1

theorem execRowDrop_canonical {l : Nat} {p : Packet} : Result.Canonical (execRowDrop l p s) :=
  canonical_next <| canonical_arrive hs fun _ ht => canonical_ite (canonical_e2eFail ht) <| canonical_dropIn ht

theorem execResult_canonical {l : Nat} {p : Packet} : Result.Canonical (execResult l p s) :=
  canonical_next <| canonical_arrive hs fun _ ht => canonical_ite (canonical_e2eFail ht) <| canonical_resultIn ht

theorem execNak_canonical {l : Nat} {p : Packet} : Result.Canonical (execNak l p s) := by
  refine canonical_next <| canonical_arrive hs fun _ ht => canonical_ite (canonical_swallow ht) <| canonical_ite
    (canonical_refuseArrivals ht) ?_
  dsimp only
  split
  · exact canonical_ite_of_then canonical_violate <| canonical_ite (canonical_countXceNak ht) ht
  · exact canonical_ite (canonical_modOut <| canonical_unsend <| canonical_ite (canonical_countXceNak ht) ht) <|
      canonical_ite (canonical_resendOnce <| canonical_ite (canonical_countXceNak ht) ht) <| canonical_requestFails <|
      canonical_ite (canonical_countXceNak ht) ht

theorem execRxBusyRetry_canonical {txn dst : Nat} : Result.Canonical (execRxBusyRetry txn dst s) := by
  refine canonical_next ?_
  split
  · exact hs
  · split
    · exact hs
    · refine canonical_ite hs <| canonical_ite (canonical_abandon <| canonical_snd <| canonical_takeOut hs) <|
        canonical_ite (canonical_retryLocal <| canonical_countRetry hs) ?_
      dsimp only
      split
      · exact canonical_sendMarks <| canonical_markSent <| canonical_resendOnce <| canonical_countRetry hs
      · exact canonical_resendOnce <| canonical_countRetry hs

theorem execPacketForward_canonical {l : Nat} {p : Packet} : Result.Canonical (execPacketForward l p s) := by
  refine canonical_next <| canonical_ite hs <| canonical_ite (canonical_bump <| canonical_acceptOn hs) <|
    canonical_ite_of_then (fun ht => canonical_ite ht <| canonical_ite (canonical_ite_of_else canonical_nak <|
    canonical_acceptOn hs) ?_) <| canonical_hopDrop <| canonical_acceptOn hs
  split
  · exact canonical_putOn <| canonical_acceptOn hs
  · exact canonical_ite_of_else canonical_nak <| canonical_acceptOn hs

/-! ### Groups -/

theorem execMoBar_canonical {c t : Nat} : Result.Canonical (execMoBar c t s) := by
  refine canonical_next <| canonical_issue hs fun _ _ _ ht => canonical_ite_of_then (fun ht1 =>
    canonical_needing ht <| canonical_ite ht1 <| canonical_ite (canonical_stall ht) <| canonical_ite ?_ <|
    canonical_sendArrivals <| canonical_mk <| canonical_setStrand <| canonical_advance ht) <| canonical_failStrand ht
  split
  next e =>
    exact canonical_of_pair e <| canonical_countArrivals <| canonical_mk <| canonical_setStrand <|
      canonical_advance ht
  next e =>
    exact canonical_refuseArrivals <| canonical_of_pair e <| canonical_countArrivals <| canonical_mk <|
      canonical_setStrand <| canonical_advance ht

theorem execBarArrive_canonical {l : Nat} {p : Packet} : Result.Canonical (execBarArrive l p s) := by
  refine canonical_next <| canonical_arrive hs fun _ ht => canonical_ite (canonical_nak ht) <| canonical_ite
    (canonical_nak ht) <| canonical_ite (canonical_nak ht) ?_
  split
  next e => exact canonical_of_pair e <| canonical_countArrivals ht
  next e => exact canonical_nak <| canonical_of_pair e <| canonical_countArrivals ht

theorem execBarRelease_canonical {l : Nat} {p : Packet} : Result.Canonical (execBarRelease l p s) := by
  refine canonical_next <| canonical_arrive hs fun _ ht => ?_
  split
  next e => exact canonical_violate <| canonical_of_pair e <| canonical_fromMaster ht
  next e =>
    exact canonical_completeBarrier <| canonical_setBarrier <| canonical_of_pair e <| canonical_fromMaster ht

theorem execMemberHeartbeat_canonical {l : Nat} {p : Packet} : Result.Canonical (execMemberHeartbeat l p s) := by
  refine canonical_next <| canonical_arrive hs fun _ ht => ?_
  split
  · exact ht
  · exact canonical_ite ht <| canonical_ite_of_then canonical_sendView <| canonical_setLive ht

theorem execView_canonical {l : Nat} {p : Packet} {changes : List (Nat × Bool)} :
    Result.Canonical (execView l p changes s) := by
  refine canonical_next <| canonical_arrive hs fun _ ht => canonical_ite ht ?_
  split
  next e => exact canonical_of_pair e <| canonical_fromMaster ht
  next e =>
    exact canonical_ite (canonical_of_pair e <| canonical_fromMaster ht) <| canonical_foldl (canonical_fset <|
      canonical_of_pair e <| canonical_fromMaster ht) fun _ _ ht1 => canonical_setLive ht1

theorem execLeave_canonical {l : Nat} {p : Packet} : Result.Canonical (execLeave l p s) :=
  canonical_next <| canonical_arrive hs fun _ ht => canonical_ite ht <| canonical_ite_of_else canonical_sendView <|
    canonical_setLive ht

theorem execMemberDeparted_canonical {d : Nat} : Result.Canonical (execMemberDeparted d s) := by
  refine canonical_next ?_
  split
  · exact hs
  · exact canonical_ite hs <| canonical_sendView <| canonical_setLive hs

theorem execMasterLost_canonical : Result.Canonical (execMasterLost s) := by
  refine canonical_next <| canonical_ite hs ?_
  dsimp only
  split
  · exact canonical_changeMaster <| canonical_setLive hs
  · exact canonical_setLive hs

theorem execMasterTakeover_canonical : Result.Canonical (execMasterTakeover s) := by
  refine canonical_next ?_
  split
  · exact hs
  · refine canonical_ite hs ?_
    split
    · exact canonical_changeMaster hs
    · exact hs

/-! ### Lanes and links -/

theorem execLaneTrain_canonical {l : Nat} {ok : Bool} : Result.Canonical (execLaneTrain l ok s) := by
  refine canonical_next <| canonical_ite hs <| canonical_ite (canonical_trainFailed <| canonical_mk hs) ?_
  dsimp only
  split
  · exact canonical_setLane <| canonical_mk hs
  · exact canonical_sendLink <| canonical_setLane <| canonical_mk hs

theorem execParam_canonical {l : Nat} {p : Packet} {assignOk : Bool} :
    Result.Canonical (execParam l p assignOk s) :=
  canonical_next <| canonical_ite hs <| canonical_ite (canonical_trainFailed <| canonical_violate <|
    canonical_bump64 hs) <| canonical_flow <| canonical_joinGroup <| canonical_refreshPort <| canonical_fset <|
    canonical_fset <| canonical_fset <| canonical_setLane <| canonical_bump64 hs

theorem execAck_canonical {l : Nat} {p : Packet} : Result.Canonical (execAck l p s) :=
  canonical_next <| canonical_arriveLink hs fun _ ht => canonical_sendAllArrivals <| canonical_setLane ht

theorem execReplayReq_canonical {l : Nat} {p : Packet} : Result.Canonical (execReplayReq l p s) := by
  refine canonical_next <| canonical_arriveLink hs fun _ ht => ?_
  dsimp only
  split
  · exact ht
  · exact canonical_ite (canonical_trainLane <| canonical_setLane ht) <| canonical_foldl (canonical_setLane ht)
      fun _ _ ht1 => canonical_emit <| canonical_bump <| canonical_bump64 ht1

theorem execEqReq_canonical {l : Nat} {p : Packet} : Result.Canonical (execEqReq l p s) :=
  canonical_next <| canonical_arriveLink hs fun _ ht => canonical_sendLink <| canonical_mk <|
    canonical_setLane ht

theorem execEqUpdate_canonical {l eyeH eyeV symErr corrected : Nat} {ask : Option (Nat × Nat)} :
    Result.Canonical (execEqUpdate l eyeH eyeV symErr corrected ask s) := by
  refine canonical_next <| canonical_ite hs <| canonical_ite_of_else (fun ht => canonical_flow <| canonical_report
    ht) ?_
  split
  · exact canonical_sendLink <| canonical_bump <| canonical_bump <| canonical_bump <| canonical_fset <|
      canonical_fset <| canonical_setLane hs
  · exact canonical_bump <| canonical_bump <| canonical_bump <| canonical_fset <| canonical_fset <|
      canonical_setLane hs

theorem execBadOrOutOfOrderPacket_canonical {l : Nat} {p : Packet} {bad : Bool} :
    Result.Canonical (execBadOrOutOfOrderPacket l p bad s) :=
  canonical_next <| canonical_ite hs <| canonical_ite (canonical_violate hs) <| canonical_sendLink hs

theorem execUnknownPacketType_canonical {l : Nat} {p : Packet} :
    Result.Canonical (execUnknownPacketType l p s) :=
  canonical_next <| canonical_ite hs <| canonical_ite (canonical_bump <| canonical_acceptOn hs) <|
    canonical_violate <| canonical_acceptOn hs

/-! ### The key–value cache and attention -/

theorem execPoolPageZeroised_canonical {n : Nat} : Result.Canonical (execPoolPageZeroised n s) := by
  refine canonical_next ?_
  split
  · exact hs
  · exact canonical_zeroPage hs

/-! ### Append -/

theorem execAppendResume_canonical {c : Nat} : Result.Canonical (execAppendResume c s) := by
  refine canonical_next ?_
  split
  · exact hs
  · exact canonical_ite (canonical_deliver <| canonical_remotely hs (fun _ _ ht => canonical_engFailed ht) fun _ ht =>
      canonical_appendRun <| canonical_wakeStrand <| canonical_modEng ht) hs

/-! ### AtuQueue -/

theorem execSeqOpProceed_canonical {c : Nat} : Result.Canonical (execSeqOpProceed c s) := by
  refine canonical_next ?_
  split
  · exact hs
  · exact canonical_ite (canonical_atAdvance <| canonical_seqEnd hs) hs

theorem execAtuComplete_canonical {c : Nat} : Result.Canonical (execAtuComplete c s) :=
  canonical_next <| canonical_deliver <| canonical_atAdvance <| canonical_atRunHead <| canonical_decodePass hs
    fun _ _ ht => canonical_atDecoder ht

theorem execAtuAbortAck_canonical {c : Nat} : Result.Canonical (execAtuAbortAck c s) := by
  refine canonical_next <| canonical_ite_of_then (fun ht => canonical_deliver <| canonical_atAdvance <|
    canonical_bump ht) <| canonical_snd <| canonical_ackAbort ?_
  split
  · exact canonical_ite (canonical_unlessRemote hs fun _ ht => canonical_ite (canonical_appendStop ht) <|
      canonical_attendStop ht) hs
  · exact hs

/-! ### Routing and exchange -/

theorem execRtRunComplete_canonical {g epoch : Nat} : Result.Canonical (execRtRunComplete g epoch s) := by
  refine canonical_next <| canonical_deliver <| canonical_rtAdvance ?_
  split
  · exact hs
  · split
    · exact hs
    · exact canonical_ite hs <| canonical_batchOver hs

theorem execXcRecvComplete_canonical {id : Nat} : Result.Canonical (execXcRecvComplete id s) := by
  refine canonical_next ?_
  split
  · exact hs
  · exact canonical_deliver <| canonical_rtAdvance <| canonical_xcRecv hs

theorem execXcReturnComplete_canonical {id : Nat} : Result.Canonical (execXcReturnComplete id s) := by
  refine canonical_next ?_
  split
  · exact hs
  · exact canonical_ite hs <| canonical_deliver <| canonical_rtAdvance <| canonical_remotely hs (fun _ _ ht =>
      canonical_engFailed ht) fun _ ht => canonical_xcReturn ht

theorem execRteAbortAck_canonical {g : Nat} : Result.Canonical (execRteAbortAck g s) :=
  canonical_next <| canonical_deliver <| canonical_rtAdvance <| canonical_foldl hs fun _ _ ht => canonical_settle <|
    canonical_dropEng <| canonical_opEnded <| canonical_markAll ht

/-! ### Table slots -/

theorem execSlotWriteWriting_canonical {g : Nat} : Result.Canonical (execSlotWriteWriting g s) := by
  refine canonical_next ?_
  split
  · exact canonical_ite (canonical_startWriting hs) hs
  · exact hs

theorem execHoldExpired_canonical {g : Nat} : Result.Canonical (execHoldExpired g s) := by
  refine canonical_next ?_
  split
  · exact canonical_ite (canonical_decodeAll <| canonical_refuseWrite hs) hs
  · exact hs

theorem execSlotWriteDone_canonical {g : Nat} : Result.Canonical (execSlotWriteDone g s) := by
  refine canonical_next ?_
  split
  · exact canonical_ite hs <| canonical_ite (canonical_readPayload hs) <| canonical_decodeAll <| canonical_wstatus <|
      canonical_setSlot hs
  · exact hs

/-! ### The timebase -/

theorem execSync_canonical {l : Nat} {p : Packet} {hopPs : Nat} : Result.Canonical (execSync l p hopPs s) := by
  refine canonical_next <| canonical_arrive hs fun _ ht => ?_
  split
  next e => exact canonical_violate <| canonical_of_pair e <| canonical_fromMaster ht
  next e =>
    exact canonical_ite (canonical_of_pair e <| canonical_fromMaster ht) <| canonical_ite_of_then
      canonical_spreadSync <| canonical_lockOn <| canonical_correct <| canonical_mk <| canonical_fset <|
      canonical_fset <| canonical_fset <| canonical_bump <| canonical_fset <| canonical_of_pair e <|
      canonical_fromMaster ht

theorem execHoldover_canonical : Result.Canonical (execHoldover s) :=
  canonical_next <| canonical_ite hs <| canonical_mk <| canonical_bump <| canonical_fset <| canonical_fset hs

theorem execTbRead_canonical {c t : Nat} : Result.Canonical (execTbRead c t s) :=
  canonical_next <| canonical_issue hs fun _ _ _ ht => canonical_ite (canonical_failStrand ht) <|
    canonical_needing ht <| canonical_advance ht

/-! ### The trace unit -/

theorem execTrMark_canonical {c t : Nat} : Result.Canonical (execTrMark c t s) :=
  canonical_next <| canonical_issue hs fun _ _ _ ht => canonical_ite (canonical_failStrand ht) <|
    canonical_needing ht <| canonical_ite_of_else canonical_trigger <| canonical_trace <| canonical_advance ht

theorem execPcSample_canonical {c : Nat} : Result.Canonical (execPcSample c s) := by
  refine canonical_next <| canonical_ite hs ?_
  dsimp only
  split
  · exact canonical_trace hs
  · exact canonical_trace hs

/-! ### Health -/

theorem execScanWindow_canonical {g : Nat} : Result.Canonical (execScanWindow g s) := by
  refine canonical_next <| canonical_ite (canonical_endScanItem <| canonical_mk hs) <| canonical_ite hs ?_
  split
  · exact canonical_ite (canonical_openWindow hs) hs
  · exact canonical_ite (canonical_openWindow hs) <| canonical_ite (canonical_openWindow <| canonical_mk <|
      canonical_setNextScan hs) hs

theorem execScanDrainEnd_canonical : Result.Canonical (execScanDrainEnd s) := by
  refine canonical_next ?_
  split
  · exact hs
  · exact canonical_ite hs <| canonical_mk hs

theorem execScanQuiesced_canonical : Result.Canonical (execScanQuiesced s) := by
  refine canonical_next ?_
  split
  · exact hs
  · exact canonical_ite hs <| canonical_refreshDomain <| canonical_fset <| canonical_mk hs

theorem execScanSlateDone_canonical {fails : List (Nat × Nat × Nat)} :
    Result.Canonical (execScanSlateDone fails s) := by
  refine canonical_next ?_
  split
  · exact hs
  · exact canonical_ite hs <| canonical_endScanItem <| canonical_ite_of_else canonical_setNextScan <| canonical_foldl
      (canonical_refreshDomain <| canonical_fset <| canonical_snd <| canonicalSnd_foldl (canonicalSnd_mk <|
      canonical_bump <| canonical_fset <| canonical_bump <| canonical_fset <| canonical_mk hs) fun _ _ ht =>
      canonicalSnd_mk <| canonical_snd <| canonical_scanResult <| canonical_snd ht) fun _ _ ht => canonical_judge ht

theorem execHealthFlashWrite_canonical : Result.Canonical (execHealthFlashWrite s) := by
  refine canonical_next ?_
  split
  · exact hs
  · exact canonical_fset <| canonical_flashWritten <| canonical_recordUnit hs

theorem execCvuRunDone_canonical {g u : Nat} : Result.Canonical (execCvuRunDone g u s) := by
  refine canonical_next <| canonical_ite hs ?_
  split
  · exact hs
  · exact canonical_deliver <| canonical_remotely hs (fun _ _ ht => canonical_cvuStatus ht) fun _ ht =>
      canonical_cvuWhole ht

/-! ### The survey -/

theorem execSvyCommit_canonical {r : Requester} : Result.Canonical (execSvyCommit r s) :=
  canonical_next <| canonical_ite (canonical_snd <| canonical_svyCommit hs) <| canonical_svyRefusal hs

theorem execStageBytesProgrammed_canonical : Result.Canonical (execStageBytesProgrammed s) := by
  refine canonical_next ?_
  split
  · exact hs
  · dsimp only
    split
    · exact canonical_answerLater <| canonical_mk <| canonical_ite hs <| canonical_setSurveySlot hs
    · exact canonical_mk <| canonical_ite hs <| canonical_setSurveySlot hs

theorem execSvyCheck_canonical : Result.Canonical (execSvyCheck s) := by
  refine canonical_next ?_
  split
  · exact hs
  · refine canonical_ite hs ?_
    dsimp only
    split
    next e1 => exact canonical_refuseLoad <| canonical_of_pair e1 <| canonical_checkStaged hs
    next e1 =>
      exact canonical_foldl (canonical_mk <| canonical_setStatus <| canonical_of_pair e1 <| canonical_checkStaged hs)
        fun _ _ ht => canonical_stopChamber ht

theorem execSvyZeroise_canonical : Result.Canonical (execSvyZeroise s) := by
  refine canonical_next ?_
  split
  · exact hs
  · exact canonical_ite hs <| canonical_foldl (canonical_loadPhase <| canonical_setStatus hs) fun _ _ ht =>
      canonical_zeroBegin ht

theorem execSvyApply_canonical : Result.Canonical (execSvyApply s) := by
  refine canonical_next ?_
  split
  · exact hs
  · exact canonical_ite hs <| canonical_applyPorts <| canonical_foldl (canonical_loadPhase <| canonical_setStatus hs)
      fun _ _ ht => canonical_applyChamber ht

theorem execSvyFlip_canonical : Result.Canonical (execSvyFlip s) := by
  refine canonical_next ?_
  split
  · exact hs
  · exact canonical_ite hs <| canonical_endLoad <| canonical_ite (canonical_enterStage3 <| canonical_fset <|
      canonical_mk <| canonical_setStatus <| canonical_applyGroup <| canonical_showSurvey <| canonical_fset hs) <|
      canonical_foldl (canonical_setStatus <| canonical_applyGroup <| canonical_showSurvey <| canonical_fset hs)
      fun _ _ ht => canonical_goLive ht

/-! ### Resets -/

theorem execPowerOn_canonical : Result.Canonical (execPowerOn s) :=
  canonical_next <| canonical_ite hs <| canonical_leaveReset <| canonical_mk <| canonical_fset <| canonical_countReset
    canonical_reinit

theorem execResetN_canonical : Result.Canonical (execResetN s) :=
  canonical_next <| canonical_ite hs <| canonical_ite_of_then (fun _ => canonical_leaveReset <| canonical_countReset
    canonical_reinit) <| canonical_mk hs

theorem execRefclkLoss_canonical : Result.Canonical (execRefclkLoss s) :=
  canonical_next <| canonical_ite hs <| canonical_deviceFails <| canonical_fset <| canonical_fset <| canonical_mk hs

theorem execShutdownDrainEnd_canonical : Result.Canonical (execShutdownDrainEnd s) := by
  refine canonical_next ?_
  split
  · exact hs
  · exact canonical_ite hs <| canonical_mk <| canonical_lifetimeWrite <| canonical_fset <| canonical_foldl hs
      fun _ _ ht => canonical_stopChamber ht

theorem execOffReady_canonical : Result.Canonical (execOffReady s) :=
  canonical_next <| canonical_ite hs <| canonical_foldl (canonical_mk hs) fun _ _ ht => canonical_fset ht

/-! ### Preemption -/

theorem execPreempt_canonical {g : Nat} : Result.Canonical (execPreempt g s) := by
  refine canonical_next <| canonical_ite hs ?_
  dsimp only
  split
  · exact hs
  · split
    · exact hs
    · exact canonical_foldl hs fun _ _ ht => canonical_ite (canonical_abortOne ht) <| canonical_setStrand ht

theorem execSuspendDone_canonical {c t : Nat} : Result.Canonical (execSuspendDone c t s) := by
  refine canonical_next ?_
  dsimp only
  split
  · exact hs
  · refine canonical_ite hs ?_
    split
    · exact hs
    · refine canonical_ite hs ?_
      split
      next e2 =>
        exact canonical_failStrand <| canonical_deliver <| canonical_of_pair e2 <| canonical_writeVa hs
      next e2 =>
        exact canonical_modItem <| canonical_bump <| canonical_setStrand <| canonical_deliver <|
          canonical_of_pair e2 <| canonical_writeVa hs

theorem execResume_canonical {c : Nat} : Result.Canonical (execResume c s) := by
  refine canonical_next ?_
  dsimp only
  split
  · exact hs
  · exact canonical_ite hs <| canonical_deliver <| canonical_remotely hs (fun _ _ ht => canonical_failStrand ht)
      fun _ ht => canonical_restore ht

/-! ### Registers -/

theorem execRcRead_canonical {r : Requester} {a : Nat} : Result.Canonical (execRcRead r a s) := by
  refine canonical_next ?_
  split
  · exact hs
  · exact canonical_ite (canonical_snd <| canonical_readReg hs) hs

theorem execCounterLoRead_canonical {r : Requester} {a : Nat} : Result.Canonical (execCounterLoRead r a s) := by
  refine canonical_next ?_
  split
  · exact hs
  · exact canonical_ite (canonical_snd <| canonical_readReg hs) hs

/-! ### ControlSpace -/

theorem execCsLd_canonical {c t : Nat} : Result.Canonical (execCsLd c t s) :=
  canonical_next <| canonical_csIssue hs fun _ _ _ _ ht => canonical_advance <| canonical_ite_of_else canonical_mk <|
    canonical_snd <| canonical_readReg ht

theorem execCsSt_canonical {c t : Nat} : Result.Canonical (execCsSt c t s) :=
  canonical_next <| canonical_csIssue hs fun _ _ _ _ ht => canonical_snd <| canonical_writeReg <| canonical_advance ht

/-! ### Management queues -/

theorem execSurveyCommit_canonical : Result.Canonical (execSurveyCommit s) := by
  refine canonical_next ?_
  split
  · exact hs
  · split
    next e1 => exact canonical_of_pair e1 <| canonical_svyCommit <| canonical_mgBegin hs
    next e1 => exact canonical_mgEnd <| canonical_of_pair e1 <| canonical_svyCommit <| canonical_mgBegin hs

theorem execMgmtFwCommit_canonical : Result.Canonical (execMgmtFwCommit s) := by
  refine canonical_next ?_
  split
  · exact hs
  · exact canonical_ite hs <| canonical_startCommit <| canonical_mgBegin hs

theorem execScan_canonical : Result.Canonical (execScan s) := by
  refine canonical_next ?_
  split
  · exact hs
  · exact canonical_ite (canonical_mgEnd hs) <| canonical_mk <| canonical_mgBegin hs

theorem execFlush_canonical : Result.Canonical (execFlush s) := by
  refine canonical_next ?_
  split
  · exact hs
  · exact canonical_mgEnd <| canonical_lifetimeWrite hs

theorem execPortTest_canonical : Result.Canonical (execPortTest s) := by
  refine canonical_next ?_
  split
  · exact hs
  · exact canonical_ite (canonical_mgEnd hs) <| canonical_mgEnd <| canonical_openTest hs

theorem execEndTest_canonical : Result.Canonical (execEndTest s) := by
  refine canonical_next ?_
  split
  · exact hs
  · exact canonical_mgEnd <| canonical_closeTest hs

theorem execTestWindowEnd_canonical {p : Nat} : Result.Canonical (execTestWindowEnd p s) := by
  refine canonical_next ?_
  split
  · exact canonical_ite (canonical_closeTest hs) hs
  · exact hs

/-! ### Frames -/

theorem execOpticalLinkChange_canonical {p : Nat} {up : Bool} :
    Result.Canonical (execOpticalLinkChange p up s) :=
  canonical_next <| canonical_ite hs <| canonical_ite (canonical_mk <| canonical_fset hs) <| canonical_ite_of_else
    canonical_mk <| canonical_fset hs

theorem execLossOfLight_canonical : Result.Canonical (execLossOfLight s) := by
  refine canonical_next ?_
  split
  · exact hs
  · exact canonical_ite hs <| canonical_mk <| canonical_portReset hs

/-! ### Sessions -/

theorem execHello_canonical {p : Nat} {f : Frame} : Result.Canonical (execHello p f s) :=
  canonical_next <| canonical_ite hs <| canonical_receive hs fun _ ht => canonical_ite (canonical_dropFrame ht) <|
    canonical_hello ht

theorem execProof_canonical {p : Nat} {f : Frame} : Result.Canonical (execProof p f s) :=
  canonical_next <| canonical_ite hs <| canonical_sessRequest hs fun _ _ _ ht => canonical_ite
    (canonical_acceptSession ht) <| canonical_violation (canonical_bump ht) fun _ ht1 => canonical_closeSession <|
    canonical_refuse ht1

theorem execHeartbeat_canonical {p : Nat} {f : Frame} : Result.Canonical (execHeartbeat p f s) :=
  canonical_next <| canonical_ite hs <| canonical_sessRequest hs fun _ _ _ ht => canonical_reply ht

theorem execClose_canonical {p : Nat} {f : Frame} : Result.Canonical (execClose p f s) :=
  canonical_next <| canonical_ite hs <| canonical_sessRequest hs fun _ _ _ ht => canonical_closeSession <|
    canonical_reply ht

theorem execClaim_canonical {p : Nat} {f : Frame} : Result.Canonical (execClaim p f s) :=
  canonical_next <| canonical_ite hs <| canonical_sessRequest hs fun _ _ _ ht => canonical_ite
    (canonical_claimAnswer ht) <| canonical_ite (canonical_claimAnswer <| canonical_mk <|
    canonical_ite ht <| canonical_refreshCreds ht) <| canonical_ite (canonical_claimAnswer <| canonical_ite ht <|
    canonical_refreshCreds ht) <| canonical_ite (canonical_claimAnswer <| canonical_ite ht <|
    canonical_refreshCreds ht) <| canonical_refreshElection <| canonical_fset <| canonical_mk <| canonical_ite ht <|
    canonical_refreshCreds ht

theorem execElectionClose_canonical : Result.Canonical (execElectionClose s) := by
  refine canonical_next <| canonical_ite hs ?_
  split
  · exact canonical_fset hs
  · exact canonical_closeElection hs

theorem execHandover_canonical {p : Nat} {f : Frame} : Result.Canonical (execHandover p f s) :=
  canonical_next <| canonical_ite hs <| canonical_sessRequest hs fun _ _ _ ht => canonical_ite (canonical_reply <|
    canonical_newOwner ht) <| canonical_reply ht

theorem execSessionTimeout_canonical {k : Nat} : Result.Canonical (execSessionTimeout k s) := by
  refine canonical_next ?_
  split
  · exact hs
  · exact canonical_ite hs <| canonical_closeSession hs

/-! ### Requests of sessions -/

theorem execRegRead_canonical {p : Nat} {f : Frame} : Result.Canonical (execRegRead p f s) :=
  canonical_next <| canonical_ite hs <| canonical_sessRequest hs fun _ _ _ ht => canonical_ite
    (canonical_frameViol ht) <| canonical_reply <| canonical_snd <| canonicalSnd_foldl (canonicalSnd_mk ht)
    fun _ _ ht1 => canonicalSnd_mk <| canonical_snd <| canonical_readReg <| canonical_snd ht1

theorem execRegWrite_canonical {p : Nat} {f : Frame} : Result.Canonical (execRegWrite p f s) := by
  refine canonical_next <| canonical_ite hs <| canonical_sessRequest hs fun _ _ _ ht => canonical_ite
    (canonical_frameViol ht) <| canonical_ite ?_ <| canonical_ite (canonical_frameViol <| canonical_snd <|
    canonicalSnd_foldl (canonicalSnd_mk ht) fun _ _ ht1 => canonicalSnd_mk <| canonical_snd <| canonical_writeReg <|
    canonical_snd ht1) <| canonical_reply <| canonical_snd <| canonicalSnd_foldl (canonicalSnd_mk ht) fun _ _ ht1 =>
    canonicalSnd_mk <| canonical_snd <| canonical_writeReg <| canonical_snd ht1
  split
  next e => exact canonical_of_pair e <| canonical_windowWrite ht
  next e =>
    exact canonical_ite (canonical_reply <| canonical_of_pair e <| canonical_windowWrite ht) <| canonical_frameViol <|
      canonical_of_pair e <| canonical_windowWrite ht

theorem execMemRead_canonical {p : Nat} {f : Frame} {evs : List CellEvent} :
    Result.Canonical (execMemRead p f evs s) := by
  refine canonical_next <| canonical_ite hs <| canonical_sessRequest hs fun _ _ _ ht => canonical_ite
    (canonical_frameViol ht) ?_
  split
  next e => exact canonical_reply <| canonical_of_pair e <| canonical_memRead ht
  next e => exact canonical_frameNak <| canonical_of_pair e <| canonical_memRead ht

theorem execMemWrite_canonical {p : Nat} {f : Frame} {evs : List CellEvent} :
    Result.Canonical (execMemWrite p f evs s) :=
  canonical_next <| canonical_ite hs <| canonical_sessRequest hs fun _ _ _ ht => canonical_ite
    (canonical_frameViol ht) <| canonical_reply <| canonical_snd <| canonical_memWriteLines ht

theorem execDoorbell_canonical {p : Nat} {f : Frame} : Result.Canonical (execDoorbell p f s) :=
  canonical_next <| canonical_ite hs <| canonical_sessRequest hs fun _ _ _ ht => canonical_ite
    (canonical_frameViol ht) <| canonical_ite (canonical_reply <| canonical_doorbell ht) <| canonical_reply <|
    canonical_mgPost ht

theorem execPoll_canonical {p : Nat} {f : Frame} : Result.Canonical (execPoll p f s) :=
  canonical_next <| canonical_ite hs <| canonical_sessRequest hs fun _ _ _ ht => canonical_ite
    (canonical_frameViol ht) <| canonical_reply <| canonical_snd <| canonicalSnd_foldl (canonicalSnd_mk ht)
    fun _ _ ht1 => canonicalSnd_mk <| canonical_snd <| canonical_pollEntry <| canonical_snd ht1

theorem execAttest_canonical {p : Nat} {f : Frame} : Result.Canonical (execAttest p f s) :=
  canonical_next <| canonical_ite hs <| canonical_sessRequest hs fun _ _ _ ht => canonical_ite (canonical_reply ht) <|
    canonical_mk ht

theorem execAttestReport_canonical : Result.Canonical (execAttestReport s) := by
  refine canonical_next ?_
  split
  · exact hs
  · exact canonical_closeSpent <| canonical_foldl (canonical_mk hs) fun _ _ ht => canonical_reply ht

/-! ### Administration -/

theorem execKeyEnroll_canonical {p : Nat} {f : Frame} : Result.Canonical (execKeyEnroll p f s) :=
  canonical_next <| canonical_ite hs <| canonical_sessRequest hs fun _ _ _ ht => canonical_closeEntry <|
    canonical_reply <| canonical_setKey ht

theorem execKeyRevoke_canonical {p : Nat} {f : Frame} : Result.Canonical (execKeyRevoke p f s) :=
  canonical_next <| canonical_ite hs <| canonical_sessRequest hs fun _ _ _ ht => canonical_ite (canonical_reply ht) <|
    canonical_closeEntry <| canonical_reply <| canonical_setKey ht

theorem execKeysetEnroll_canonical {p : Nat} {f : Frame} : Result.Canonical (execKeysetEnroll p f s) :=
  canonical_next <| canonical_ite hs <| canonical_sessRequest hs fun _ _ _ ht => canonical_ite (canonical_reply ht) <|
    canonical_ite (canonical_reply ht) <| canonical_reply <| canonical_refreshKeys <| canonical_mk ht

theorem execKeysetRemove_canonical {p : Nat} {f : Frame} : Result.Canonical (execKeysetRemove p f s) :=
  canonical_next <| canonical_ite hs <| canonical_sessRequest hs fun _ _ _ ht => canonical_ite (canonical_reply ht) <|
    canonical_reply <| canonical_refreshKeys <| canonical_mk ht

theorem execFwStage_canonical {p : Nat} {f : Frame} : Result.Canonical (execFwStage p f s) :=
  canonical_next <| canonical_ite hs <| canonical_sessRequest hs fun _ _ _ ht => canonical_ite (canonical_reply ht) <|
    canonical_ite (canonical_frameViol ht) <| canonical_mk <| canonical_ite (canonical_fwFirst ht) ht

theorem execFwStageWritten_canonical : Result.Canonical (execFwStageWritten s) := by
  refine canonical_next ?_
  split
  · exact hs
  · dsimp only
    split
    · exact canonical_answerLater <| canonical_mk <| canonical_ite hs <| canonical_setFwSlot hs
    · exact canonical_mk <| canonical_ite hs <| canonical_setFwSlot hs

theorem execFwCommit_canonical {p : Nat} {f : Frame} : Result.Canonical (execFwCommit p f s) :=
  canonical_next <| canonical_ite hs <| canonical_sessRequest hs fun _ _ _ ht => canonical_ite (canonical_reply ht) <|
    canonical_startCommit ht

theorem execFwCommitDone_canonical : Result.Canonical (execFwCommitDone s) := by
  refine canonical_next ?_
  split
  · exact hs
  · refine canonical_ite hs <| canonical_ite ?_ <| canonical_ite_of_else canonical_closeSpent <|
      canonical_answerCommit <| canonical_setStage <| canonical_setFwValid <| canonical_mk hs
    dsimp only
    split
    · exact canonical_ite_of_else canonical_closeSpent <| canonical_refuseFw hs
    · exact canonical_mk hs

theorem execAdvance_canonical {p : Nat} {f : Frame} : Result.Canonical (execAdvance p f s) :=
  canonical_next <| canonical_ite hs <| canonical_sessRequest hs fun _ _ _ ht => canonical_ite (canonical_reply ht) <|
    canonical_ite (canonical_toReturn <| canonical_reply ht) <| canonical_reply <| canonical_setLifecycle <|
    canonical_ite_of_else canonical_fset <| canonical_ite (canonical_mk ht) ht

theorem execFloor_canonical {p : Nat} {f : Frame} : Result.Canonical (execFloor p f s) :=
  canonical_next <| canonical_ite hs <| canonical_sessRequest hs fun _ _ _ ht => canonical_reply <| canonical_fset ht

/-! ### Bring-up -/

theorem execFirmwareVerified_canonical {vexps : List Nat} : Result.Canonical (execFirmwareVerified vexps s) :=
  canonical_next <| canonical_ite hs <| canonical_ite (canonical_noteBoard <| canonical_mk <| canonical_ite_of_then
    canonical_fset <| canonical_fset hs) <| canonical_ite_of_then canonical_shutdown <| canonical_refreshTbc <|
    canonical_foldl (canonical_enablePorts <| canonical_toStage <| canonical_bootFirmware <| canonical_ite_of_then
    canonical_fset <| canonical_fset hs) fun _ _ ht => canonical_ite (canonical_placeRate <|
    canonical_initRegulator <| canonical_setDomain ht) <| canonical_placeRate <| canonical_initRegulator <|
    canonical_setDomain ht

theorem execStage2Done_canonical : Result.Canonical (execStage2Done s) := by
  refine canonical_next <| canonical_ite hs ?_
  dsimp only
  split
  next e => exact canonical_bootSurvey <| canonical_of_pair e <| canonical_bootCheck <| canonical_readHealth hs
  next e =>
    split
    next e1 =>
      exact canonical_bootSurvey <| canonical_of_pair e1 <| canonical_bootCheck <| canonical_of_pair e <|
        canonical_bootCheck <| canonical_readHealth hs
    next e1 =>
      exact canonical_mk <| canonical_of_pair e1 <| canonical_bootCheck <| canonical_of_pair e <|
        canonical_bootCheck <| canonical_readHealth hs

theorem execStackTrained_canonical {st : Nat} {ok : Bool} : Result.Canonical (execStackTrained st ok s) :=
  canonical_next <| canonical_ite hs <| canonical_ite (canonical_mk <| canonical_refreshSleep <|
    canonical_refreshStack <| canonical_fset <| canonical_fset hs) <| canonical_ite_of_then (fun ht =>
    canonical_foldl ht fun _ _ ht1 => canonical_ite ht1 <| canonical_setUnit ht1) <| canonical_mk hs

theorem execEarlyService_canonical : Result.Canonical (execEarlyService s) := by
  refine canonical_next ?_
  split
  · exact hs
  · have h4 := canonical_toStage (n := 4) hs
    refine canonical_ite hs <| canonical_ite (canonical_skipEarly hs) <| canonical_ite (canonical_skipEarly h4) ?_
    split
    · exact canonical_skipEarly h4
    next e =>
      exact canonical_foldl (canonical_fset <| canonical_fset <| canonical_goLive <| canonical_earlySetup h4 e)
        fun _ _ ht => canonical_placeRate ht

theorem execStage5_canonical : Result.Canonical (execStage5 s) :=
  canonical_next <| canonical_ite hs <| canonical_ite (canonical_mk <| canonical_toStage hs) <|
    canonical_fullChambers <| canonical_toStage hs

theorem execEarlyHandover_canonical : Result.Canonical (execEarlyHandover s) := by
  refine canonical_next ?_
  split
  · exact canonical_ite hs <| canonical_ite (canonical_ite hs <| canonical_stopChamber hs) <| canonical_ite
      (canonical_ite (canonical_zeroBegin hs) hs) <| canonical_ite hs <| canonical_fullChambers <| canonical_mk <|
      canonical_setChamber <| canonical_fset hs
  · exact hs

/-! ### Fetch and rates -/

theorem execInstructionFetch_canonical {c t : Nat} : Result.Canonical (execInstructionFetch c t s) := by
  refine canonical_next <| canonical_ite (canonical_ite (canonical_failStrand hs) ?_) hs
  split
  next e => exact canonical_failMem <| canonical_deliver <| canonical_of_pair e <| canonical_fetchWord hs
  next e =>
    dsimp only
    split
    · exact canonical_failStrand <| canonical_deliver <| canonical_of_pair e <| canonical_fetchWord hs
    · exact canonical_setStrand <| canonical_deliver <| canonical_of_pair e <| canonical_fetchWord hs

theorem execRateWindowEnd_canonical {d cycles : Nat} {coreCycles : List Nat} :
    Result.Canonical (execRateWindowEnd d cycles coreCycles s) :=
  canonical_next <| canonical_ite hs <| canonical_ite (canonical_noteLow <| canonical_wset hs) <| canonical_ite
    (canonical_refreshRateDev <| canonical_clearRates hs) <| canonical_windowItems <| canonical_refreshRateDev <|
    canonical_foldl (canonical_clearRates <| canonical_noteLow <| canonical_wset hs) fun _ _ ht => canonical_ite
    (canonical_wset ht) ht

/-! ### Stacks -/

theorem execHbcRetrain_canonical {st ch drift read write pause : Nat} :
    Result.Canonical (execHbcRetrain st ch drift read write pause s) :=
  canonical_next <| canonical_ite hs <| canonical_ite_of_then (fun ht => canonical_report <| canonical_report <|
    canonical_errorAt <| canonical_bump <| canonical_mk ht) <| canonical_showMargin <|
    canonical_fset <| canonical_bump <| canonical_stepped <| canonical_mk hs

theorem execTemperatureReadout_canonical {st temp : Nat} :
    Result.Canonical (execTemperatureReadout st temp s) :=
  canonical_next <| canonical_ite hs <| canonical_ite_of_else canonical_tripNow <| canonical_fset <| canonical_fset <|
    canonical_fset <| canonical_mark hs

theorem execPatrolScrub_canonical {st : Nat} {ev : CellEvent} : Result.Canonical (execPatrolScrub st ev s) := by
  refine canonical_next <| canonical_ite hs <| canonical_ite (canonical_scrubLine <| canonical_snd <|
    canonical_nextLine <| canonical_mark hs) ?_
  dsimp only
  split
  · exact hs
  · exact canonical_scrubLine <| canonical_snd <| canonical_nextLine <| canonical_mark hs

/-! ### The package -/

theorem execI3cWrite_canonical {addr : Nat} {bytes : List Byte} :
    Result.Canonical (execI3cWrite addr bytes s) := by
  refine canonical_next ?_
  split
  · exact hs
  · exact canonical_ite (canonical_mk hs) hs

theorem execI3cRead_canonical {addr n : Nat} : Result.Canonical (execI3cRead addr n s) :=
  canonical_next <| canonical_ite hs <| canonical_emit <| canonical_snd <| canonical_boardReads hs

theorem execExtest_canonical {tdi : List Bool} : Result.Canonical (execExtest tdi s) :=
  canonical_next <| canonical_ite (canonical_boundaryScan <| canonical_loadBoundaryIr hs) <| canonical_snd <|
    canonical_scanOut <| canonical_loadBoundaryIr hs

/-! ### Power -/

theorem execMarginLoopStep_canonical {d : Nat} {slack : Option (Nat × Nat)} :
    Result.Canonical (execMarginLoopStep d slack s) := by
  refine canonical_next <| canonical_ite hs <| canonical_ite_of_then (fun ht => ?_) <| canonical_mark hs
  dsimp only
  split
  · exact canonical_refreshCalibrated <| canonical_showSlack <| canonical_setDomain ht
  · exact canonical_ite_of_else canonical_reportCanary <| canonical_refreshCalibrated <| canonical_showSlack <|
      canonical_refreshDomain <| canonical_setDomain <| canonical_fset <| canonical_fset ht

theorem execCanaryEmergency_canonical {d slack : Nat} : Result.Canonical (execCanaryEmergency d slack s) :=
  canonical_next <| canonical_ite hs <| canonical_showSlack <| canonical_refreshDomain <| canonical_setDomain <|
    canonical_bump hs

theorem execPowerWindow_canonical {doms : List Nat} {bytes : List (Nat × Nat)} {pkg : Nat} :
    Result.Canonical (execPowerWindow doms bytes pkg s) :=
  canonical_next <| canonical_ite hs <| canonical_ite_of_else canonical_setGuard <| canonical_addEnergy <|
    canonical_fset <| canonical_fset <| canonical_foldl (canonical_foldl (canonical_mark hs) fun _ _ ht =>
    canonical_fset ht) fun _ _ ht => canonical_ite ht <| canonical_mk <| canonical_fset ht

theorem execPkgGuardEnd_canonical : Result.Canonical (execPkgGuardEnd s) := by
  refine canonical_next ?_
  split
  · exact hs
  · exact canonical_ite (canonical_setGuard hs) hs

theorem execPowerLoopStep_canonical {n : Nat} : Result.Canonical (execPowerLoopStep n s) :=
  canonical_next <| canonical_ite hs <| canonical_ite_of_then (fun ht => canonical_refreshChamberPower <|
    canonical_foldl ht fun _ _ ht1 => canonical_ite (canonical_moveRate ht1) <| canonical_ite
    (canonical_moveRate ht1) <| canonical_ite (canonical_moveRate ht1) ht1) <| canonical_mark hs

theorem execRegulatorSettled_canonical {d : Nat} : Result.Canonical (execRegulatorSettled d s) := by
  refine canonical_next ?_
  split
  · exact hs
  · exact canonical_ite hs <| canonical_refreshDomainChamber <| canonical_setDomain hs

theorem execThermalRead_canonical {temps : List Nat} : Result.Canonical (execThermalRead temps s) :=
  canonical_next <| canonical_ite hs <| canonical_ite_of_then (fun ht => canonical_ite (canonical_tripNow <|
    canonical_foldl (canonical_foldl ht fun _ _ ht1 => canonical_throttle ht1) fun _ _ ht1 =>
    canonical_refreshChamberPower ht1) <| canonical_supplyTrip <| canonical_foldl (canonical_foldl ht fun _ _ ht1 =>
    canonical_throttle ht1) fun _ _ ht1 => canonical_refreshChamberPower ht1) <| canonical_noteHeat <|
    canonical_fset <| canonical_fset <| canonical_foldl (canonical_mark hs) fun _ _ ht => canonical_fset ht

theorem execPmbusPoll_canonical {d : Nat} {acked : Bool} {vout : Nat} {fault : Bool} :
    Result.Canonical (execPmbusPoll d acked vout fault s) :=
  canonical_next <| canonical_ite hs <| canonical_ite (canonical_muteDomain <| canonical_foldl (canonical_mark hs)
    fun _ _ ht => canonical_emit ht) <| canonical_supplyTrip <| canonical_snd <| canonical_lasting <| canonical_snd <|
    canonical_lasting <| canonical_fset <| canonical_foldl (canonical_mark hs) fun _ _ ht => canonical_emit ht

theorem execPmbusAlert_canonical {seg : Nat} {faults : List Nat} :
    Result.Canonical (execPmbusAlert seg faults s) :=
  canonical_next <| canonical_ite hs <| canonical_supplyTrip <| canonical_foldl hs fun _ _ ht => canonical_snd <|
    canonical_lasting <| canonical_emit ht

/-! ### Scalar instructions -/

theorem execSCall_canonical {c t : Nat} : Result.Canonical (execSCall c t s) :=
  canonical_next <| canonical_issue hs fun _ _ _ ht => canonical_needing ht <| canonical_setStrand ht

theorem execSJmp_canonical {c t : Nat} : Result.Canonical (execSJmp c t s) :=
  canonical_next <| canonical_issue hs fun _ _ _ ht => canonical_needing ht <| canonical_setStrand ht

/-! ### Every command, and a step -/

/-- A command that runs on a state in canonical form leaves one: its meaning is one shared operation, guarded or not, or one of the
meanings above. -/
theorem exec_canonical (i : Instr) : Result.Canonical (exec i s) := by
  cases i with
  | registerWrite => exact canonical_next <| canonical_ite (canonical_snd <| canonical_writeReg hs) hs
  | rcRead => exact execRcRead_canonical hs
  | counterLoRead => exact execCounterLoRead_canonical hs
  | flagsRcRead => exact canonical_next <| canonical_ite (canonical_snd <| canonical_readReg hs) hs
  | rateWindowEnd => exact execRateWindowEnd_canonical hs
  | strandWake => exact canonical_next <| canonical_ite (canonical_setStrand hs) hs
  | strandQuantumEnd => exact canonical_next <| canonical_ite (canonical_setStrand hs) hs
  | instructionFetch => exact execInstructionFetch_canonical hs
  | sLi => exact canonical_next <| canonical_scalar hs
  | sMov => exact canonical_next <| canonical_scalar hs
  | sAdd => exact canonical_next <| canonical_scalar hs
  | sSub => exact canonical_next <| canonical_scalar hs
  | sMul => exact canonical_next <| canonical_scalar hs
  | sMulhu => exact canonical_next <| canonical_scalar hs
  | sAnd => exact canonical_next <| canonical_scalar hs
  | sOr => exact canonical_next <| canonical_scalar hs
  | sXor => exact canonical_next <| canonical_scalar hs
  | sShl => exact canonical_next <| canonical_scalar hs
  | sShr => exact canonical_next <| canonical_scalar hs
  | sSra => exact canonical_next <| canonical_scalar hs
  | sSlt => exact canonical_next <| canonical_scalar hs
  | sSltu => exact canonical_next <| canonical_scalar hs
  | sAddp => exact canonical_next <| canonical_scalar hs
  | sBr => exact canonical_next <| canonical_branch hs
  | sBeq => exact canonical_next <| canonical_branch hs
  | sBne => exact canonical_next <| canonical_branch hs
  | sBlt => exact canonical_next <| canonical_branch hs
  | sBge => exact canonical_next <| canonical_branch hs
  | sBltu => exact canonical_next <| canonical_branch hs
  | sBgeu => exact canonical_next <| canonical_branch hs
  | sCall => exact execSCall_canonical hs
  | sJmp => exact execSJmp_canonical hs
  | sYield => exact canonical_next <| canonical_issue hs fun _ _ _ ht => canonical_setStrand ht
  | sNop => exact canonical_next <| canonical_scalar hs
  | svyStage => exact canonical_next <| canonical_ite (canonical_svyStage hs) <| canonical_svyRefusal hs
  | svyCommit => exact execSvyCommit_canonical hs
  | svyAbort => exact canonical_next <| canonical_ite (canonical_svyAbort hs) <| canonical_svyRefusal hs
  | stagingWindowWrite => exact canonical_next <| canonical_snd <| canonical_windowWrite hs
  | stageBytesProgrammed => exact execStageBytesProgrammed_canonical hs
  | svyCheck => exact execSvyCheck_canonical hs
  | svyZeroise => exact execSvyZeroise_canonical hs
  | zeroiseDone => exact canonical_next <| canonical_ite (canonical_zeroShare hs) hs
  | svyApply => exact execSvyApply_canonical hs
  | svyFlip => exact execSvyFlip_canonical hs
  | srSeedHiWrite => exact canonical_next <| canonical_ite (canonical_loadSeed hs) hs
  | slotWrite => exact canonical_next <| canonical_ite (canonical_slotGo <| canonical_fset <| canonical_fset hs) hs
  | slotWriteAbort => exact canonical_next <| canonical_ite (canonical_slotAbort hs) hs
  | slotWriteWriting => exact execSlotWriteWriting_canonical hs
  | holdExpired => exact execHoldExpired_canonical hs
  | slotWriteDone => exact execSlotWriteDone_canonical hs
  | mxRun => exact execMxRun_canonical hs
  | mxRunComplete => exact execMxRunComplete_canonical hs
  | dupCompare => exact execDupCompare_canonical hs
  | mxeDupCtrlWrite => exact canonical_next <| canonical_ite (canonical_dupCtrl hs) hs
  | mxeAbortAck => exact execMxeAbortAck_canonical hs
  | vxAdd => exact canonical_next <| canonical_vxIssue hs
  | vxSub => exact canonical_next <| canonical_vxIssue hs
  | vxMul => exact canonical_next <| canonical_vxIssue hs
  | vxFma => exact canonical_next <| canonical_vxIssue hs
  | vxMax => exact canonical_next <| canonical_vxIssue hs
  | vxMin => exact canonical_next <| canonical_vxIssue hs
  | vxUn => exact canonical_next <| canonical_vxIssue hs
  | vxCmp => exact canonical_next <| canonical_vxIssue hs
  | vxSel => exact canonical_next <| canonical_vxIssue hs
  | vxCvt => exact canonical_next <| canonical_vxIssue hs
  | vxCstore => exact canonical_next <| canonical_vxIssue hs
  | vxRed => exact canonical_next <| canonical_vxIssue hs
  | vxRstat => exact canonical_next <| canonical_vxIssue hs
  | vxRmsn => exact canonical_next <| canonical_vxIssue hs
  | vxSmax => exact canonical_next <| canonical_vxIssue hs
  | vxFn => exact canonical_next <| canonical_vxIssue hs
  | vxeComplete => exact execVxeComplete_canonical hs
  | vxeAbortAck => exact execVxeAbortAck_canonical hs
  | atRun => exact canonical_next <| canonical_atIssue hs
  | atAppend => exact canonical_next <| canonical_atIssue hs
  | appendResume => exact execAppendResume_canonical hs
  | atuComplete => exact execAtuComplete_canonical hs
  | atuAbortAck => exact execAtuAbortAck_canonical hs
  | seqOpen => exact canonical_next <| canonical_seqIssue hs
  | openRetry => exact canonical_next <| canonical_foldl hs fun _ _ ht => canonical_atAdvance <| canonical_seqOpen ht
  | seqCommit => exact canonical_next <| canonical_seqIssue hs
  | seqTruncate => exact canonical_next <| canonical_seqIssue hs
  | seqRelease => exact canonical_next <| canonical_seqIssue hs
  | seqOpProceed => exact execSeqOpProceed_canonical hs
  | poolPageZeroised => exact execPoolPageZeroised_canonical hs
  | rtRun => exact canonical_next <| canonical_rtIssue hs fun _ _ ht => canonical_rtEnded ht
  | biasWindowClose => exact canonical_next <| canonical_ite hs <| canonical_closeWindow hs
  | rtRunComplete => exact execRtRunComplete_canonical hs
  | xcRecv => exact canonical_next <| canonical_rtIssue hs fun _ _ ht => canonical_rteFault ht
  | xcRecvComplete => exact execXcRecvComplete_canonical hs
  | xcReturn => exact canonical_next <| canonical_rtIssue hs fun _ _ ht => canonical_rteFault ht
  | rxBusyRetry => exact execRxBusyRetry_canonical hs
  | rteBiasWrite => exact canonical_next <| canonical_ite hs <| canonical_biasWrite hs
  | rteCancel => exact canonical_next <| canonical_ite hs <| canonical_rteCancel hs
  | rteAbortAck => exact execRteAbortAck_canonical hs
  | trainClose => exact canonical_next <| canonical_ite (canonical_trainClose hs) hs
  | trainCloseAll => exact canonical_next <| canonical_ite (canonical_trainCloseAll hs) hs
  | trainReplay => exact canonical_next <| canonical_ite (canonical_trainReplay hs) hs
  | trainSkip => exact canonical_next <| canonical_ite (canonical_trainSkip hs) hs
  | mmuInvalidate => exact canonical_next <| canonical_ite (canonical_invalidate hs) hs
  | mmuInvalidateAll => exact canonical_next <| canonical_ite (canonical_invalidate hs) hs
  | mmuInvalidateDone => exact execMmuInvalidateDone_canonical hs
  | homeAccess => exact execHomeAccess_canonical hs
  | hbcRetrain => exact execHbcRetrain_canonical hs
  | refresh => exact canonical_next hs
  | temperatureReadout => exact execTemperatureReadout_canonical hs
  | patrolScrub => exact execPatrolScrub_canonical hs
  | moLd => exact canonical_next <| canonical_issueMem hs
  | moSt => exact canonical_next <| canonical_issueMem hs
  | add => exact canonical_next <| canonical_issueMem hs
  | fadd => exact canonical_next <| canonical_issueMem hs
  | swap => exact canonical_next <| canonical_issueMem hs
  | cas => exact canonical_next <| canonical_issueMem hs
  | smax => exact canonical_next <| canonical_issueMem hs
  | smin => exact canonical_next <| canonical_issueMem hs
  | amoOr => exact canonical_next <| canonical_issueMem hs
  | amoAnd => exact canonical_next <| canonical_issueMem hs
  | fenceAcquire => exact canonical_next <| canonical_issueFence hs
  | fenceRelease => exact canonical_next <| canonical_issueFence hs
  | fenceFull => exact canonical_next <| canonical_issueFence hs
  | moBar => exact execMoBar_canonical hs
  | hello => exact execHello_canonical hs
  | proof => exact execProof_canonical hs
  | heartbeat => exact execHeartbeat_canonical hs
  | close => exact execClose_canonical hs
  | regRead => exact execRegRead_canonical hs
  | regWrite => exact execRegWrite_canonical hs
  | memRead => exact execMemRead_canonical hs
  | memWrite => exact execMemWrite_canonical hs
  | doorbell => exact execDoorbell_canonical hs
  | poll => exact execPoll_canonical hs
  | claim => exact execClaim_canonical hs
  | electionClose => exact execElectionClose_canonical hs
  | handover => exact execHandover_canonical hs
  | attest => exact execAttest_canonical hs
  | attestReport => exact execAttestReport_canonical hs
  | keyEnroll => exact execKeyEnroll_canonical hs
  | keyRevoke => exact execKeyRevoke_canonical hs
  | keysetEnroll => exact execKeysetEnroll_canonical hs
  | keysetRemove => exact execKeysetRemove_canonical hs
  | fwStage => exact execFwStage_canonical hs
  | fwStageWritten => exact execFwStageWritten_canonical hs
  | fwCommit => exact execFwCommit_canonical hs
  | fwCommitDone => exact execFwCommitDone_canonical hs
  | advance => exact execAdvance_canonical hs
  | floor => exact execFloor_canonical hs
  | unknownType => exact canonical_next <| canonical_ite hs <| canonical_judged hs fun _ ht => ht
  | sessionTimeout => exact execSessionTimeout_canonical hs
  | heartbeatLoss => exact canonical_next <| canonical_ite hs <| canonical_loseOwnership hs
  | violWindowEnd => exact canonical_next <| canonical_ite hs <| canonical_setViols hs
  | reenablePort => exact canonical_next <| canonical_ite (canonical_reenablePort hs) hs
  | reenableSlots => exact canonical_next <| canonical_ite (canonical_reenableSlots hs) hs
  | lossOfLight => exact execLossOfLight_canonical hs
  | create => exact canonical_next <| canonical_ite (canonical_qcmd hs) hs
  | qcbRead => exact execQcbRead_canonical hs
  | destroy => exact canonical_next <| canonical_ite (canonical_qcmd hs) hs
  | reclaim => exact canonical_next <| canonical_ite (canonical_qcmd hs) hs
  | teardownDone => exact canonical_next <| canonical_ite_of_else canonical_fset <| canonical_settleAll hs
  | graphCreate => exact canonical_next <| canonical_ite (canonical_gcmd hs) hs
  | patch => exact canonical_next <| canonical_ite (canonical_gcmd hs) hs
  | patchDone => exact canonical_next <| canonical_gcmdRun hs fun _ ht => canonical_graphPatch ht
  | graphDestroy => exact canonical_next <| canonical_ite (canonical_gcmd hs) hs
  | qDbWrite => exact canonical_next <| canonical_ite (canonical_doorbell hs) hs
  | qCackWrite => exact canonical_next <| canonical_ite (canonical_cack hs) hs
  | qCancel => exact canonical_next <| canonical_ite (canonical_abortItem hs) hs
  | itemFetch n => exact execItemFetch_canonical (n := n) hs
  | itemDispatch => exact execItemDispatch_canonical hs
  | itemBind => exact execItemBind_canonical hs
  | markerEnd => exact execMarkerEnd_canonical hs
  | graphNodeDispatch => exact execGraphNodeDispatch_canonical hs
  | messageDispatch => exact execMessageDispatch_canonical hs
  | copyComplete => exact execCopyComplete_canonical hs
  | dmvAbortAck => exact execDmvAbortAck_canonical hs
  | itemTimeout => exact execItemTimeout_canonical hs
  | qwEnd => exact execQwEnd_canonical hs
  | qwTake => exact execQwTake_canonical hs
  | qwDone => exact execQwDone_canonical hs
  | qwExit => exact execQwExit_canonical hs
  | qwLive => exact execQwLive_canonical hs
  | surveyCommit => exact execSurveyCommit_canonical hs
  | mgmtFwCommit => exact execMgmtFwCommit_canonical hs
  | scan => exact execScan_canonical hs
  | flush => exact execFlush_canonical hs
  | portTest => exact execPortTest_canonical hs
  | endTest => exact execEndTest_canonical hs
  | testWindowEnd => exact execTestWindowEnd_canonical hs
  | ageExpiry => exact execAgeExpiry_canonical hs
  | preempt => exact execPreempt_canonical hs
  | suspendDone => exact execSuspendDone_canonical hs
  | resume => exact execResume_canonical hs
  | laneTrain => exact execLaneTrain_canonical hs
  | laneTrainRetry => exact canonical_next <| canonical_ite hs <| canonical_setLane hs
  | retrain => exact canonical_next <| canonical_ite (canonical_trainLane hs) hs
  | rdReq => exact execRdReq_canonical hs
  | wr => exact execWr_canonical hs
  | closeWr => exact execCloseWr_canonical hs
  | closeWrPerform => exact execCloseWrPerform_canonical hs
  | closeTimeout => exact execCloseTimeout_canonical hs
  | amo => exact execAmo_canonical hs
  | row => exact execRow_canonical hs
  | rowEnd => exact execRowEnd_canonical hs
  | barArrive => exact execBarArrive_canonical hs
  | barRelease => exact execBarRelease_canonical hs
  | sync => exact execSync_canonical hs
  | syncSend => exact canonical_next <| canonical_ite hs <| canonical_spreadSync <| canonical_mk hs
  | holdover => exact execHoldover_canonical hs
  | memberHeartbeat => exact execMemberHeartbeat_canonical hs
  | view => exact execView_canonical hs
  | leave => exact execLeave_canonical hs
  | heartbeatSend => exact canonical_next <| canonical_ite hs <| canonical_mk <| canonical_sendMember hs
  | memberDeparted => exact execMemberDeparted_canonical hs
  | masterLost => exact execMasterLost_canonical hs
  | masterTakeover => exact execMasterTakeover_canonical hs
  | rdResp => exact execRdResp_canonical hs
  | wrAck => exact execWrAck_canonical hs
  | amoResp => exact execAmoResp_canonical hs
  | rowDrop => exact execRowDrop_canonical hs
  | result => exact execResult_canonical hs
  | nak => exact execNak_canonical hs
  | packetForward => exact execPacketForward_canonical hs
  | credit => exact canonical_next <| canonical_arriveLink hs fun _ ht => canonical_flow <| canonical_setLane ht
  | ack => exact execAck_canonical hs
  | replayReq => exact execReplayReq_canonical hs
  | eqReq => exact execEqReq_canonical hs
  | eqRsp => exact canonical_next <| canonical_arriveLink hs fun _ ht => ht
  | param => exact execParam_canonical hs
  | eqUpdate => exact execEqUpdate_canonical hs
  | lnkViolWindowEnd => exact canonical_next <| canonical_ite hs <| canonical_ite hs <| canonical_setWindow hs
  | lnkReenable => exact canonical_next <| canonical_ite (canonical_reenableLink hs) hs
  | scanWindow => exact execScanWindow_canonical hs
  | dupScanWindow => exact canonical_next <| canonical_ite hs <| canonical_openWindow hs
  | scanDrainEnd => exact execScanDrainEnd_canonical hs
  | scanQuiesced => exact execScanQuiesced_canonical hs
  | scanSlateDone => exact execScanSlateDone_canonical hs
  | markAmber => exact canonical_next <| canonical_ite (canonical_writeUnitCmd hs) hs
  | clearAmber => exact canonical_next <| canonical_ite (canonical_writeUnitCmd hs) hs
  | retire => exact canonical_next <| canonical_ite (canonical_flow <| canonical_writeUnitCmd hs) hs
  | healthFlashWrite => exact execHealthFlashWrite_canonical hs
  | lifetimeWrite => exact canonical_next <| canonical_ite hs <| canonical_lifetimeWrite hs
  | cvuGo => exact canonical_next <| canonical_ite hs <| canonical_cvuGo hs
  | cvuAbort => exact canonical_next <| canonical_ite hs <| canonical_cvuStop hs
  | cvuRunDone => exact execCvuRunDone_canonical hs
  | powerOn => exact execPowerOn_canonical hs
  | resetN => exact execResetN_canonical hs
  | warmReset => exact canonical_next <| canonical_ite (canonical_warmReset hs) hs
  | portReset => exact canonical_next <| canonical_ite (canonical_portReset hs) hs
  | pwrGoodFall => exact canonical_next <| canonical_ite hs <| canonical_noteBoard canonical_reinit
  | firmwareVerified => exact execFirmwareVerified_canonical hs
  | stage2Done => exact execStage2Done_canonical hs
  | stackTrained => exact execStackTrained_canonical hs
  | earlyService => exact execEarlyService_canonical hs
  | stage5 => exact execStage5_canonical hs
  | earlyHandover => exact execEarlyHandover_canonical hs
  | marginLoopStep => exact execMarginLoopStep_canonical hs
  | canaryEmergency => exact execCanaryEmergency_canonical hs
  | powerWindow => exact execPowerWindow_canonical hs
  | powerLoopStep => exact execPowerLoopStep_canonical hs
  | pkgGuardEnd => exact execPkgGuardEnd_canonical hs
  | regulatorSettled => exact execRegulatorSettled_canonical hs
  | thermalRead => exact execThermalRead_canonical hs
  | pmbusPoll => exact execPmbusPoll_canonical hs
  | pmbusAlert => exact execPmbusAlert_canonical hs
  | shutdown => exact canonical_next <| canonical_ite (canonical_shutdown hs) hs
  | offReq => exact canonical_next <| canonical_ite_of_else canonical_shutdown <| canonical_mk hs
  | shutdownDrainEnd => exact execShutdownDrainEnd_canonical hs
  | offReady => exact execOffReady_canonical hs
  | refclkLoss => exact execRefclkLoss_canonical hs
  | tbRead => exact execTbRead_canonical hs
  | trMark => exact execTrMark_canonical hs
  | pcSample => exact execPcSample_canonical hs
  | truDrain => exact canonical_next <| canonical_ite hs <| canonical_truDrain hs
  | trigger => exact canonical_next <| canonical_ite hs <| canonical_softTrigger hs
  | restart => exact canonical_next <| canonical_ite hs <| canonical_truStart hs
  | truTimeTrigger => exact canonical_next <| canonical_ite hs <| canonical_mk <| canonical_trigger hs
  | i3cWrite => exact execI3cWrite_canonical hs
  | i3cRead => exact execI3cRead_canonical hs
  | entdaa => exact canonical_next <| canonical_ite hs <| canonical_mk <| canonical_emit hs
  | setdasa => exact canonical_next <| canonical_ite hs <| canonical_mk hs
  | rstdaa => exact canonical_next <| canonical_ite (canonical_mk hs) hs
  | getpid => exact canonical_next <| canonical_ite (canonical_emit hs) hs
  | getbcr => exact canonical_next <| canonical_ite (canonical_emit hs) hs
  | getdcr => exact canonical_next <| canonical_ite (canonical_emit hs) hs
  | getstatus => exact canonical_next <| canonical_ite (canonical_emit hs) hs
  | enec => exact canonical_next <| canonical_ite (canonical_mk hs) hs
  | disec => exact canonical_next <| canonical_ite (canonical_mk hs) hs
  | bypass => exact canonical_next <| canonical_snd <| canonical_scanOut <| canonical_loadIr hs
  | idcode => exact canonical_next <| canonical_snd <| canonical_scanOut <| canonical_loadIr hs
  | samplePreload => exact canonical_next <| canonical_boundaryScan <| canonical_loadIr hs
  | extest => exact execExtest_canonical hs
  | clamp => exact canonical_next <| canonical_snd <| canonical_scanOut <| canonical_loadBoundaryIr hs
  | highz => exact canonical_next <| canonical_snd <| canonical_scanOut <| canonical_loadBoundaryIr hs
  | testLogicReset => exact canonical_next <| canonical_leaveReset <| canonical_mk hs
  | csLd => exact execCsLd_canonical hs
  | csSt => exact execCsSt_canonical hs
  | xcReturnComplete => exact execXcReturnComplete_canonical hs
  | graphCreateDone => exact canonical_next <| canonical_gcmdRun hs fun _ ht => canonical_graphCreate ht
  | badOrOutOfOrderPacket => exact execBadOrOutOfOrderPacket_canonical hs
  | unknownPacketType => exact execUnknownPacketType_canonical hs
  | uncorrectableCodeword =>
    exact canonical_next <| canonical_ite hs <| canonical_flow <| canonical_report <| canonical_bump hs
  | opticalLinkChange => exact execOpticalLinkChange_canonical hs
  | counterHoldEnd => exact canonical_next <| canonical_ite (canonical_fset hs) hs
  | vauxWithinTolerance => exact canonical_next <| canonical_mk hs
  | resetNRises => exact canonical_next <| canonical_leaveReset <| canonical_mk hs
  | uncorrectableUncoreFault => exact canonical_next <| canonical_deviceFails hs

theorem step_canonical : Result.Canonical (step s) := by
  unfold step
  split
  · exact canonical_next (canonical_tick hs)
  · exact exec_canonical (canonical_mk hs) _

end Commands

/-- Settles O5: reset lists no byte of memory, and the registers that the part gives values of its own stand in order. -/
theorem resetCanonical : Obligations.ResetCanonical := canonical_reset

/-- Settles O6, command by command. -/
theorem stepKeepsCanonical : Obligations.StepKeepsCanonical := fun _ s' hs h => step_canonical hs s' h

end Sys2Proof.Machine
end

section
/-! PROOFS. O17, O15, O16, O18 and O19: a strand's context, the scalar instructions, and what a strand waits for. -/

namespace Sys2Proof.Machine

/-! ### A strand's context (R47, R54, R55) -/

theorem rdOf_lt (w : Word64) : rdOf w < 8 := Nat.mod_lt _ (by decide)

theorem Strand.reg_setPair_low (x : Strand) {r : Nat} (v : Nat) (hr : r < 8) : (x.setPair r v).reg r = BitVec.ofNat 32 v := by
  rw [Strand.setPair, Strand.reg_setReg _ _ _ hr, if_neg (by omega), Strand.reg_setReg _ _ _ hr, if_pos rfl]

theorem Strand.reg_setPair_high (x : Strand) {r : Nat} (v : Nat) (hr : r + 1 < 8) :
    (x.setPair r v).reg (r + 1) = BitVec.ofNat 32 (v / 2 ^ 32 % 2 ^ 25) := by
  rw [Strand.setPair, Strand.reg_setReg _ _ _ hr, if_pos rfl]

theorem Strand.addrPair_setPair (x : Strand) {r : Nat} (v : Nat) (hr : r + 1 < 8) : (x.setPair r v).addrPair r = v % 2 ^ 57 := by
  rw [Strand.addrPair, x.reg_setPair_low v (by omega), x.reg_setPair_high v hr, BitVec.toNat_ofNat, BitVec.toNat_ofNat]
  omega

theorem Strand.reg_setPair_high_lt (x : Strand) {r : Nat} (v : Nat) (hr : r + 1 < 8) :
    ((x.setPair r v).reg (r + 1)).toNat < 2 ^ 25 := by
  rw [x.reg_setPair_high v hr, BitVec.toNat_ofNat]
  omega

theorem State.keepsStrandsBut_setStrand (s : State) {c t : Nat} (x : Strand) (ht : t < 8192) :
    s.KeepsStrandsBut (s.setStrand c t x) c t := fun _ _ hu hne => s.strand_setStrand_ne x ht hu hne

/-- Settles O17: an update of a context is a write of one entry of the table of strands. -/
theorem strandContextFrame : Obligations.StrandContextFrame := fun s c t r v _ x w =>
  ⟨fun _ hk => x.reg_setReg r w hk,
    fun he hr => ⟨x.addrPair_setPair v (by omega), x.reg_setPair_high_lt v (by omega)⟩,
    fun _ => rfl, rfl, s.strand_setStrand_self c t x, s.keepsStrandsBut_setStrand x, rfl⟩

/-! ### Issue of a scalar instruction (R50, R55) -/

/-- A command answers the state that its effect comes to. -/
theorem next_congr {u v : State} (h : u = v) : (.next u : Result) = .next v := by rw [h]

section Issue

variable {s : State} {c t op : Nat} {w : Word64} {mask : Word64 → Nat}

/-- An instruction that issues acts. -/
theorem State.issue_of_issues {m : Nat} {act : Word64 → Strand → State → State} (h : s.issues c t op m w) :
    s.issue c t (fun w => opcodeOf w == op) act = act w (s.strand c t) s :=
  State.issue_of_canIssue h.1 (beq_iff_eq.mpr h.2.1)

/-- The registers that an issuing instruction names hold values. -/
theorem State.needing_of_issues {m : Nat} {k : State} (h : s.issues c t op m w) : s.needing c t m k = k :=
  State.needing_of_ready h.2.2

/-- An instruction that names a register awaiting a value waits for its registers, and nothing else changes. -/
theorem State.issue_waits {act : Word64 → Strand → State → State} (h : s.canIssue c t w) (ho : opcodeOf w = op)
    (hn : (s.strand c t).notReady &&& mask w ≠ 0) :
    s.issue c t (fun w => opcodeOf w == op) (fun w x s => s.needing c t (mask w) (act w x s)) =
      s.waitsFor c t (.regs (mask w)) :=
  (State.issue_of_canIssue (mine := fun w => opcodeOf w == op) h (beq_iff_eq.mpr ho)).trans (State.needing_of_waiting hn)

/-- A scalar instruction that issues makes the context what its operation gives, at the next word. -/
theorem State.scalar_of_issues {f : Word64 → Strand → Strand} (h : s.issues c t op (mask w) w) :
    s.scalar c t op mask f = s.advance c t (f w (s.strand c t)) :=
  (State.issue_of_issues h).trans (State.needing_of_issues h)

end Issue

theorem addr57_eq (a : Nat) (d : Int) : addr57 a d = (((a : Int) + d) % 2 ^ 57).toNat := rfl

theorem immSigned_eq (w : Word64) : immSigned w = (BitVec.ofNat 32 (bitsOf w.toNat 31 0)).toInt := by
  rw [BitVec.toInt, BitVec.toNat_ofNat]
  rfl

/-- A branch that issues goes to its target when the comparison holds, and to the next word otherwise. -/
theorem State.branch_of_issues {s : State} {c t op : Nat} {w : Word64} {mask : Word64 → Nat} {cond : Word64 → Strand → Bool}
    {P : Prop} [Decidable P] (h : s.issues c t op (mask w) w) (hc : cond w (s.strand c t) = true ↔ P) :
    s.branch c t op mask cond = s.setStrand c t ((s.strand c t).issued (if P then
      ((((s.strand c t).pc : Int) + (BitVec.ofNat 32 (bitsOf w.toNat 31 0)).toInt) % 2 ^ 57).toNat
      else (s.strand c t).pc + 8)) := by
  rw [State.branch, State.issue_of_issues h, State.needing_of_issues h, ← immSigned_eq, ← addr57_eq]
  simp only [hc]

/-- Settles O15, operation by operation. -/
theorem scalarArithmetic : Obligations.ScalarArithmetic := by
  intro s c t w x imm b mask
  refine ⟨?_, ?_, ?_, ?_, ?_, ?_, ?_, ?_, ?_, ?_, ?_, ?_, ?_, ?_, ?_, ?_, fun h => next_congr (State.issue_of_issues h)⟩ <;>
    exact fun h => next_congr (State.scalar_of_issues h)

/-- Settles O16: each comparison is the one that its branch names. -/
theorem scalarBranches : Obligations.ScalarBranches := by
  intro s c t w x mask imm target
  refine ⟨fun h => next_congr ((State.branch_of_issues h (P := True) (by simp)).trans (by rw [if_pos trivial])),
    fun h => next_congr (State.branch_of_issues h beq_iff_eq), fun h => next_congr (State.branch_of_issues h bne_iff_ne),
    fun h => next_congr (State.branch_of_issues h decide_eq_true_iff),
    fun h => next_congr (State.branch_of_issues h decide_eq_true_iff),
    fun h => next_congr (State.branch_of_issues h decide_eq_true_iff),
    fun h => next_congr (State.branch_of_issues h decide_eq_true_iff), fun h => ?_, fun h => ?_⟩
  · refine next_congr ((State.issue_of_issues h).trans ((State.needing_of_issues h).trans ?_))
    rw [immSigned_eq, addr57_eq]
  · refine next_congr ((State.issue_of_issues h).trans ((State.needing_of_issues h).trans ?_))
    rw [immSigned_eq, addr57_eq]

/-! ### Waits (R48, R49, R50) -/

theorem State.issuer_of_issuing {s : State} {c t : Nat} {y : Strand}
    (h : (s.boundStrands c).find? (fun e => e.2.mode == .issuing && !e.2.victim) = some (t, y)) :
    s.issuer c = if y.run < 64 then some t else none := by
  rw [State.issuer, h]

/-- Settles O18. -/
theorem registerWaits : Obligations.RegisterWaits := by
  intro s c t x
  refine ⟨fun hm hr => next_congr (if_pos ⟨hm, hr⟩), fun h => next_congr (if_neg ?_), fun _ => State.issuer_of_issuing, ?_⟩
  · rintro ⟨hm, hr⟩
    exact h.elim (· hm) (Nat.not_lt.mpr hr)
  · intro w hw p hp ho hn
    simp only [List.mem_cons, List.not_mem_nil, or_false] at hp
    rcases hp with rfl | rfl | rfl | rfl | rfl | rfl | rfl | rfl | rfl | rfl | rfl | rfl | rfl | rfl | rfl | rfl | rfl | rfl |
      rfl | rfl | rfl | rfl | rfl <;> exact next_congr (State.issue_waits hw ho hn)

/-- Settles O19: what each wait asks for, wait by wait. -/
theorem strandWake : Obligations.StrandWake := by
  intro s c t x woken
  refine ⟨fun hm hw => next_congr (if_pos ⟨hm, hw⟩), fun h => next_congr (if_neg ?_), fun m h => ?_, fun e h => ?_,
    fun h => ?_, fun h => ?_, fun h => ?_, fun h => ?_, ?_⟩
  · rintro ⟨hm, hw⟩
    exact h.elim (· hm) (fun hf => Bool.false_ne_true (hf.symm.trans hw))
  · simp only [State.waitMet, h, beq_iff_eq]
  · simp only [State.waitMet, h]
  · simp only [State.waitMet, h]
  · simp only [State.waitMet, h]
  · simp only [State.waitMet, h]
  · simp only [State.waitMet, h, decide_eq_true_eq]
  · rintro (h | h | h | ⟨id, rd, h⟩) <;> simp only [State.waitMet, h]

end Sys2Proof.Machine
end

section
/-! PROOFS. O2: a tick with nothing under way. -/

namespace Sys2Proof.Machine

/-- Sending an interrupt to board management changes what waits for it and what has been sent. -/
theorem State.sendIbi_eq (s : State) : ∃ i o, s.sendIbi = { s with i3c := i, out := o } := by
  unfold State.sendIbi
  split
  · exact ⟨s.i3c, s.out, rfl⟩
  · exact ⟨_, _, rfl⟩

/-- With no engine instruction no MXE goes on; which one would is drawn all the same. -/
theorem State.drip_of_none {s : State} (h : s.engOps = []) : s.drip = { s with free := s.free + 1 } := by
  have he : ∀ c, ({ s with free := s.free + 1 } : State).engHead c .mxe = none := fun c => by simp [State.engHead, h]
  simp only [State.drip, State.draw, he, ite_self]

/-- With nothing under way what follows the count of a tick changes only what board management sees and the free values. -/
theorem State.sendIbi_drip_deliver {s : State} (he : s.engOps = []) (hf : s.ms.found = []) :
    ∃ f i o, s.sendIbi.drip.deliver = { s with free := f, i3c := i, out := o } := by
  obtain ⟨i, o, hi⟩ := s.sendIbi_eq
  have hd := State.drip_of_none (s := { s with i3c := i, out := o }) he
  rw [hi, hd]
  exact ⟨_, i, o, State.deliver_of_none hf⟩

/-- The timebase of a running device that is neither held nor trimmed counts 1; held it stands still (R34, R675, R677). -/
theorem State.tick_idle {s : State} (he : s.engOps = []) (hf : s.ms.found = []) :
    ∃ f c i o u b, s.tick =
        { s with now := s.now + 1, free := f, ms := { s.ms with cells := c }, i3c := i, out := o, tbc := u, tb := b } ∧
      (s.fget TBC_STATUS_HELD = 0 → s.tbc.trim = 0 → s.pwr.held = false → s.pwr.dark = false → b = (s.tb + 1) % 2 ^ 64) ∧
      (s.fget TBC_STATUS_HELD = 1 → b = s.tb) := by
  obtain ⟨f, i, o, hb⟩ := State.sendIbi_drip_deliver (s := { s with
    now := s.now + 1, free := s.free + 2, ms := { s.ms with cells := s.struck ++ s.ms.cells } }) he hf
  rw [State.tick, hb]
  by_cases hs : s.fget TBC_STATUS_HELD = 1 ∨ s.pwr.held = true ∨ s.pwr.dark = true
  · refine ⟨f, _, i, o, s.tbc, s.tb, if_pos hs, fun h0 _ hh hd => ?_, fun _ => rfl⟩
    simp [h0, hh, hd] at hs
  · refine ⟨f, _, i, o, _, _, if_neg hs, fun _ ht _ _ => ?_, fun h1 => absurd (.inl h1) hs⟩
    simp [ht]

/-- Settles O2. -/
theorem idleTick : Obligations.IdleTick := by
  intro s hp he hf
  obtain ⟨f, c, i, o, u, b, ht, hcount, hheld⟩ := State.tick_idle he hf
  refine ⟨s.tick, by rw [step, hp], ?_⟩
  rw [ht]
  exact ⟨rfl, hcount, hheld, fun _ => rfl, fun _ _ => rfl, rfl, rfl, rfl⟩

end Sys2Proof.Machine
end

section
/-! PROOFS. O20: the fetch of a strand's next word, and the words that decode rejects. -/

namespace Sys2Proof.Machine

/-! ### The opcode map (R55, R56) -/

theorem aluOpcodes_contains (op : Nat) : aluOpcodes.contains op = true ↔ 0x08 ≤ op ∧ op ≤ 0x13 := by
  simp only [aluOpcodes, List.contains_iff_mem, List.mem_cons, List.not_mem_nil, or_false]
  omega

theorem compareOpcodes_contains (op : Nat) : compareOpcodes.contains op = true ↔ 0x21 ≤ op ∧ op ≤ 0x26 := by
  simp only [compareOpcodes, List.contains_iff_mem, List.mem_cons, List.not_mem_nil, or_false]
  omega

/-- A scalar word is well formed when no reserved bit is set and its opcode is listed with the fields that it may set. -/
theorem scalarOk_iff (w : Word64) : scalarOk w = true ↔ bitsOf w.toNat 45 32 = 0 ∧
    ((0x08 ≤ opcodeOf w ∧ opcodeOf w ≤ 0x13) ∨ ((opcodeOf w = 0x01 ∨ opcodeOf w = 0x02) ∧ immBit w = false) ∨
      (opcodeOf w = 0x14 ∧ rdOf w % 2 = 0 ∧ raOf w % 2 = 0) ∨
      (opcodeOf w = 0x20 ∧ immBit w = false ∧ rdOf w = 0 ∧ raOf w = 0 ∧ rbOf w = 0) ∨
      (0x21 ≤ opcodeOf w ∧ opcodeOf w ≤ 0x26 ∧ immBit w = false ∧ rdOf w = 0) ∨
      (opcodeOf w = 0x28 ∧ immBit w = false ∧ rdOf w % 2 = 0) ∨ (opcodeOf w = 0x29 ∧ immBit w = false ∧ raOf w % 2 = 0) ∨
      opcodeOf w = 0x2A ∨ opcodeOf w = 0x2F) := by
  rw [scalarOk, Bool.and_eq_true, beq_iff_eq]
  refine and_congr_right fun _ => ?_
  simp only [aluOpcodes_contains, compareOpcodes_contains, Bool.or_eq_true, beq_iff_eq]
  split_ifs <;> grind

theorem decodeFault_scalar {w : Word64} (h1 : 0x01 ≤ opcodeOf w) (h2 : opcodeOf w ≤ 0x2F) :
    decodeFault w = if scalarOk w then none else some (0x35, 1) := if_pos ⟨h1, h2⟩

theorem decodeFault_scalar_none_iff {w : Word64} (h1 : 0x01 ≤ opcodeOf w) (h2 : opcodeOf w ≤ 0x2F) :
    decodeFault w = none ↔ scalarOk w = true := by
  rw [decodeFault_scalar h1 h2]
  simp

theorem decodeFault_scalar_eq_or {w : Word64} (h1 : 0x01 ≤ opcodeOf w) (h2 : opcodeOf w ≤ 0x2F) :
    decodeFault w = none ∨ decodeFault w = some (0x35, 1) := by
  rw [decodeFault_scalar h1 h2]
  exact ite_eq_or_eq _ _ _

theorem decodeFault_vector {w : Word64} (h1 : 0x40 ≤ opcodeOf w) (h2 : opcodeOf w ≤ 0x7F) :
    decodeFault w = if vxeOpcodes.contains (opcodeOf w) then none else some (0x40, 0) := by
  rw [decodeFault, if_neg (by omega), if_pos ⟨h1, h2⟩]
  rfl

theorem decodeFault_atomic {w : Word64} (h : opcodeOf w = 0xA2) :
    decodeFault w = if 8 ≤ moAop w then some (0x40, 0) else none := by
  rw [decodeFault, if_neg (by omega), if_neg (by omega), if_pos h]
  rfl

theorem decodeFault_fence {w : Word64} (h : opcodeOf w = 0xA3) :
    decodeFault w = if moOrd w = 0 then some (0x40, 0) else none := by
  rw [decodeFault, if_neg (by omega), if_neg (by omega), if_neg (by omega), if_pos h]
  rfl

/-- The opcodes of the other classes that decode without a look at their fields. -/
def listedOpcodes : List Nat :=
  [0x80, 0x88, 0x89, 0x8A, 0x90, 0x91, 0x92, 0xA0, 0xA1, 0xA4, 0xB0, 0xB1, 0xB2, 0xB3, 0xB4, 0xB8, 0xB9, 0xBA, 0xBB]

theorem le_of_mem_listedOpcodes {op : Nat} (h : op ∈ listedOpcodes) : 0x80 ≤ op ∧ op ≠ 0xA2 ∧ op ≠ 0xA3 := by
  revert op
  decide

/-- Outside the scalar and vector ranges a word decodes by its opcode alone, but for atomics and fences. -/
theorem decodeFault_other {w : Word64} (h : opcodeOf w = 0 ∨ (0x30 ≤ opcodeOf w ∧ opcodeOf w ≤ 0x3F) ∨ 0x80 ≤ opcodeOf w)
    (ha : opcodeOf w ≠ 0xA2) (hf : opcodeOf w ≠ 0xA3) :
    decodeFault w = if opcodeOf w ∈ listedOpcodes then none else some (0x35, 1) := by
  rw [decodeFault, if_neg (by omega), if_neg (by omega), if_neg ha, if_neg hf]
  simp only [List.contains_iff_mem]
  rfl

/-! ### Fetch (R54, R56) -/

section Fetch

variable {s : State} {c t : Nat}

/-- Strand `t` of core `c` may fetch its next word. -/
def State.mayFetch (s : State) (c t : Nat) : Prop :=
  c < 128 ∧ t < 8192 ∧ s.coreRuns c = true ∧ ((s.strand c t).mode = .ready ∨ (s.strand c t).mode = .issuing) ∧
    (s.strand c t).ir = none ∧ (s.strand c t).victim = false

theorem instructionFetch_idle (h : ¬ s.mayFetch c t) : exec (.instructionFetch c t) s = .next s := next_congr (if_neg h)

theorem instructionFetch_misaligned (h : s.mayFetch c t) (hpc : (s.strand c t).pc % 8 ≠ 0) :
    exec (.instructionFetch c t) s = .next (s.failStrand c t 0x35 1) :=
  next_congr ((if_pos h).trans (if_pos hpc))

variable {u : State} (h : s.mayFetch c t) (hpc : (s.strand c t).pc % 8 = 0)
include h hpc

theorem instructionFetch_fault {f : MFault} (hf : s.fetchWord c (s.coreChamber c) (s.strand c t).pc = (.error f, u)) :
    exec (.instructionFetch c t) s = .next (u.deliver.failStrand c t f.code f.cause) := by
  refine next_congr ((if_pos h).trans ((if_neg (not_not.mpr hpc)).trans ?_))
  rw [hf]
  rfl

variable {w : Word64} (hw : s.fetchWord c (s.coreChamber c) (s.strand c t).pc = (.ok w, u))
include hw

theorem instructionFetch_illegal {e : Nat × Nat} (he : decodeFault w = some e) :
    exec (.instructionFetch c t) s = .next (u.deliver.failStrand c t e.1 e.2) := by
  refine next_congr ((if_pos h).trans ((if_neg (not_not.mpr hpc)).trans ?_))
  simp only [hw, he]

theorem instructionFetch_held (he : decodeFault w = none) :
    exec (.instructionFetch c t) s = .next (u.deliver.setStrand c t { u.deliver.strand c t with ir := some w }) := by
  refine next_congr ((if_pos h).trans ((if_neg (not_not.mpr hpc)).trans ?_))
  simp only [hw, he]

end Fetch

/-- Settles O20. -/
theorem instructionFetch : Obligations.InstructionFetch := by
  refine ⟨fun s c t => ⟨instructionFetch_idle, instructionFetch_misaligned,
      fun w u hm hpc hw => ⟨instructionFetch_held hm hpc hw, fun e => instructionFetch_illegal hm hpc hw⟩,
      fun f u hm hpc => instructionFetch_fault hm hpc⟩, fun w => ?_⟩
  intro op alu imm
  refine ⟨fun h1 h2 => (decodeFault_scalar_none_iff h1 h2).trans (scalarOk_iff w), decodeFault_scalar_eq_or, fun h => ?_,
    fun h1 h2 => ?_, fun h1 hn => ?_, fun hm => ?_, decodeFault_atomic, decodeFault_fence⟩
  · rw [decodeFault_other (h.imp_right .inl) (by omega) (by omega), if_neg]
    intro hm
    have := (le_of_mem_listedOpcodes hm).1
    omega
  · rw [decodeFault_vector h1 h2]
    simp only [List.contains_iff_mem]
    rfl
  · simp only [List.mem_cons, List.not_mem_nil, or_false, not_or] at hn
    rw [decodeFault_other (.inr (.inr h1)) (by omega) (by omega), if_neg]
    simp only [listedOpcodes, List.mem_cons, List.not_mem_nil, or_false]
    omega
  · obtain ⟨h1, ha, hf⟩ := le_of_mem_listedOpcodes hm
    exact (decodeFault_other (.inr (.inr h1)) ha hf).trans (if_pos hm)

end Sys2Proof.Machine
end

section
/-! PROOFS. O21: what the end of a rate window writes. -/

namespace Sys2Proof.Machine

/-! ### The registers of rates (R42, R43) -/

theorem rateWord_eq (cycles : Nat) : rateWord 0 cycles =
    2 ^ 31 + (cycles * 2048 * 2 + 24000) / 48000 % 4096 * 2 ^ 16 + (2 * cycles + 10) / 20 % 2 ^ 16 := by
  simp only [rateWord, rateRatio, rateMhz, roundDiv, Nat.mul_comm 2 (cycles * 2048), Nat.zero_mul, Nat.add_zero, Nat.reduceMul,
    Nat.reducePow]

theorem State.rget_wset_self (s : State) (r : Reg) (v i j : Nat) : (s.wset r v i j).rget (regAddr r i j) = BitVec.ofNat 32 v :=
  s.rget_rput_self _ _

theorem State.rget_wset_ne (s : State) {r : Reg} {i j a : Nat} (v : Nat) (h : regAddr r i j ≠ a) :
    (s.wset r v i j).rget a = s.rget a := s.rget_rput_ne _ h

theorem State.rget_noteLow_ne (s : State) {valid low : Fld} {i a : Nat} (mhz : Nat) (hv : regAddr valid.reg i 0 ≠ a)
    (hl : regAddr low.reg i 0 ≠ a) : (s.noteLow valid low mhz i).rget a = s.rget a := by
  rw [State.noteLow, State.rget_fset_ne _ _ _ _ _ _ hl, State.rget_fset_ne _ _ _ _ _ _ hv]

/-- A lowest rate once noted is valid. -/
theorem State.fget_noteLow_valid (s : State) {valid low : Fld} (mhz i : Nat) (hv : valid.lo = valid.hi ∧ valid.hi < 32)
    (hl : low.lo ≤ low.hi ∧ low.hi < valid.lo) : (s.noteLow valid low mhz i).fget valid i = 1 := by
  obtain ⟨he, hhi⟩ := hv
  rw [State.noteLow, State.fget_fset_other _ _ _ _ _ _ _ _ ⟨hl.1, by omega⟩ he.le (.inl hl.2),
    State.fget_fset_self _ _ _ _ _ ⟨he.le, hhi⟩, he, Nat.add_sub_cancel_left]
  rfl

/-! ### What the windows leave as it was -/

/-- Nothing has changed but registers at `lo` and above. -/
def State.KeepsBelow (lo : Nat) (s s' : State) : Prop := s' = { s with regs := s'.regs } ∧ ∀ a < lo, s'.rget a = s.rget a

theorem State.KeepsBelow.refl (lo : Nat) (s : State) : s.KeepsBelow lo s := ⟨rfl, fun _ _ => rfl⟩

theorem State.KeepsBelow.trans {lo : Nat} {s t u : State} (h : s.KeepsBelow lo t) (h' : t.KeepsBelow lo u) :
    s.KeepsBelow lo u :=
  ⟨by rw [h'.1, h.1], fun a ha => (h'.2 a ha).trans (h.2 a ha)⟩

theorem State.KeepsBelow.mono {lo hi : Nat} {s t : State} (h : s.KeepsBelow hi t) (hl : lo ≤ hi) : s.KeepsBelow lo t :=
  ⟨h.1, fun a ha => h.2 a (Nat.lt_of_lt_of_le ha hl)⟩

theorem State.KeepsBelow.keepsMemory {lo : Nat} {s t : State} (h : s.KeepsBelow lo t) : s.KeepsMemory t :=
  fun a => (congrArg (fun u : State => u.byte a) h.1).trans rfl

theorem State.KeepsBelow.strands {lo : Nat} {s t : State} (h : s.KeepsBelow lo t) : t.strands = s.strands :=
  (congrArg State.strands h.1).trans rfl

theorem State.KeepsBelow.galleryLive {lo : Nat} {s t : State} (h : s.KeepsBelow lo t) (g : Nat) :
    t.galleryLive g = s.galleryLive g := (congrArg (State.galleryLive · g) h.1).trans rfl

theorem State.keepsBelow_wset {lo : Nat} {s t : State} (h : s.KeepsBelow lo t) {r : Reg} {i j : Nat} (v : Nat)
    (hr : lo ≤ regAddr r i j) : s.KeepsBelow lo (t.wset r v i j) :=
  h.trans ⟨rfl, fun _ ha => t.rget_wset_ne v (by omega)⟩

theorem State.keepsBelow_noteLow {lo : Nat} {s t : State} (h : s.KeepsBelow lo t) {valid low : Fld} {i : Nat} (mhz : Nat)
    (hv : lo ≤ regAddr valid.reg i 0) (hl : lo ≤ regAddr low.reg i 0) : s.KeepsBelow lo (t.noteLow valid low mhz i) :=
  h.trans ⟨rfl, fun _ ha => t.rget_noteLow_ne mhz (by omega) (by omega)⟩

theorem State.keepsBelow_foldl {α : Type} {lo : Nat} {f : State → α → State}
    (hf : ∀ (s : State) (a : α), s.KeepsBelow lo (f s a)) (l : List α) (s : State) : s.KeepsBelow lo (l.foldl f s) := by
  induction l generalizing s with
  | nil => exact .refl lo s
  | cons a l ih => exact (hf s a).trans (ih _)

/-- The rate registers of the cores, and that of the device, lie above those of the galleries. -/
theorem regAddr_rateCore (c : Nat) : regAddr PWR_RATE_CORE c 0 = 0x6200 + 4 * c := by simp [regAddr, PWR_RATE_CORE]

theorem regAddr_rateGallery (g : Nat) : regAddr PWR_RATE_G g 0 = 0x6104 + 4 * g := by simp [regAddr, PWR_RATE_G]

theorem regAddr_rateLow (g : Nat) : regAddr PWR_RATE_LOW_G g 0 = 0x6148 + 4 * g := by simp [regAddr, PWR_RATE_LOW_G]

theorem State.keepsBelow_rateCore (s : State) (v c : Nat) : s.KeepsBelow 0x6200 (s.wset PWR_RATE_CORE v c) :=
  State.keepsBelow_wset (.refl _ s) v (by rw [regAddr_rateCore]; omega)

theorem State.keepsBelow_ite {lo : Nat} {p : Prop} [Decidable p] {s t u : State} (ht : s.KeepsBelow lo t)
    (hu : s.KeepsBelow lo u) : s.KeepsBelow lo (if p then t else u) := by
  split
  · exact ht
  · exact hu

/-- The rate words of the retired cores of gallery `g` at 0. -/
def State.clearCores (s : State) (g : Nat) (l : List Nat) : State :=
  l.foldl (fun s k => if s.coreLive (8 * g + k) then s else s.wset PWR_RATE_CORE 0 (8 * g + k)) s

theorem State.clearRates_eq (s : State) (g : Nat) :
    s.clearRates g = (if s.galleryLive g then s else s.wset PWR_RATE_G 0 g).clearCores g (List.range 8) := rfl

theorem State.keepsBelow_clearCores (s : State) (g : Nat) (l : List Nat) : s.KeepsBelow 0x6200 (s.clearCores g l) := by
  rw [State.clearCores]
  exact State.keepsBelow_foldl (fun s _ => State.keepsBelow_ite (.refl _ s) (s.keepsBelow_rateCore _ _)) l s

/-- The cores of a gallery with no live core are not live. -/
theorem State.coreLive_of_galleryLive {s : State} {g k : Nat} (h : s.galleryLive g = false) (hk : k < 8) :
    s.coreLive (8 * g + k) = false := by
  rw [State.galleryLive, Bool.not_eq_false', List.isEmpty_iff, State.liveCores, List.filter_eq_nil_iff] at h
  exact Bool.eq_false_iff.mpr (h _ (List.mem_map.mpr ⟨k, List.mem_range.mpr hk, rfl⟩))

/-- Every retired core whose word is cleared reads 0. -/
theorem State.rget_clearCores {s : State} {g : Nat} (l : List Nat) {k : Nat} (hd : s.coreLive (8 * g + k) = false)
    (hk : k ∈ l ∨ s.rget (regAddr PWR_RATE_CORE (8 * g + k) 0) = 0#32) :
    (s.clearCores g l).rget (regAddr PWR_RATE_CORE (8 * g + k) 0) = 0#32 := by
  induction l generalizing s with
  | nil => exact hk.resolve_left List.not_mem_nil
  | cons j l ih =>
    rw [State.clearCores, List.foldl_cons, ← State.clearCores]
    split
    case isTrue hj =>
      refine ih hd (hk.imp_left fun h => (List.mem_cons.mp h).resolve_left ?_)
      rintro rfl
      exact Bool.false_ne_true (hd.symm.trans hj)
    case isFalse =>
      refine ih hd ?_
      by_cases e : k = j
      · subst e
        exact .inr (s.rget_wset_self _ _ _ _)
      · refine hk.imp (fun h => (List.mem_cons.mp h).resolve_left e) fun h => ?_
        rw [s.rget_wset_ne 0 (by simp only [regAddr_rateCore]; omega), h]

theorem State.keepsBelow_refreshRateDev (s : State) : s.KeepsBelow 0x6400 s.refreshRateDev :=
  State.keepsBelow_wset (.refl _ s) _ (by decide)

/-- The items that run on a gallery: a window changes them and draws free values. -/
theorem State.windowItems_eq (s : State) (g ratio : Nat) :
    ∃ is f, s.windowItems g ratio = { s with items := is, free := f } := by
  refine List.foldlRecOn (motive := fun t : State => ∃ is f, t = { s with items := is, free := f }) _ _ ⟨s.items, s.free, rfl⟩ ?_
  rintro _ ⟨is, f, rfl⟩ i _
  dsimp only
  split <;> exact ⟨_, _, rfl⟩

theorem State.windowItems_regs (s : State) (g ratio : Nat) : (s.windowItems g ratio).regs = s.regs := by
  obtain ⟨is, f, h⟩ := s.windowItems_eq g ratio
  rw [h]

theorem State.windowItems_mem (s : State) (g ratio : Nat) : (s.windowItems g ratio).mem = s.mem := by
  obtain ⟨is, f, h⟩ := s.windowItems_eq g ratio
  rw [h]

theorem State.windowItems_strands (s : State) (g ratio : Nat) : (s.windowItems g ratio).strands = s.strands := by
  obtain ⟨is, f, h⟩ := s.windowItems_eq g ratio
  rw [h]

theorem State.rget_windowItems (s : State) (g ratio a : Nat) : (s.windowItems g ratio).rget a = s.rget a :=
  congrArg (smGet resetAt · a) (s.windowItems_regs g ratio)

theorem State.keepsMemory_windowItems {s t : State} (h : s.KeepsMemory t) (g ratio : Nat) : s.KeepsMemory (t.windowItems g ratio) :=
  fun a => (congrArg (smGet memDefault · a) (t.windowItems_mem g ratio)).trans (h a)

/-! ### The windows (R40, R42, R43) -/

/-- The rate words of the live cores of gallery `d`. -/
def State.writeCores (s : State) (d cycles : Nat) (cc : List Nat) : State :=
  (List.range 8).foldl (fun s k =>
    if s.coreLive (8 * d + k) then
      s.wset PWR_RATE_CORE (rateWord (b2n (s.coreCapped (8 * d + k))) (cc.getD k cycles)) (8 * d + k)
    else s) s

theorem State.keepsBelow_writeCores (s : State) (d cycles : Nat) (cc : List Nat) :
    s.KeepsBelow 0x6200 (s.writeCores d cycles cc) := by
  rw [State.writeCores]
  exact State.keepsBelow_foldl (fun s _ => State.keepsBelow_ite (s.keepsBelow_rateCore _ _) (.refl _ s)) _ s

theorem execRateWindowEnd_uncore (s : State) (cycles : Nat) (cc : List Nat) :
    execRateWindowEnd 16 cycles cc s = .next ((s.wset PWR_RATE_UNC (rateWord 0 cycles)).noteLow PWR_RATE_LOW_UNC_VALID
      PWR_RATE_LOW_UNC_LOW_MHZ (rateMhz cycles) 0) := by
  unfold execRateWindowEnd
  rw [if_neg (by decide), if_pos rfl]

theorem rateWindow_uncore (s : State) (cycles : Nat) (cc : List Nat) :
    ∃ s', exec (.rateWindowEnd 16 cycles cc) s = .next s' ∧
      s'.rget (regAddr PWR_RATE_UNC 0 0) = BitVec.ofNat 32 (rateWord 0 cycles) ∧ s'.fget PWR_RATE_LOW_UNC_VALID = 1 ∧
      s.KeepsRegsBut s' [regAddr PWR_RATE_UNC 0 0, regAddr PWR_RATE_LOW_UNC 0 0] ∧ s.KeepsMemory s' ∧
      s'.strands = s.strands := by
  have hall := State.keepsBelow_noteLow (State.keepsBelow_wset (.refl 0 s) (r := PWR_RATE_UNC) (i := 0) (j := 0)
    (rateWord 0 cycles) (Nat.zero_le _)) (valid := PWR_RATE_LOW_UNC_VALID) (low := PWR_RATE_LOW_UNC_LOW_MHZ) (i := 0)
    (rateMhz cycles) (Nat.zero_le _) (Nat.zero_le _)
  refine ⟨_, execRateWindowEnd_uncore s cycles cc, ?_, State.fget_noteLow_valid _ _ _ (by decide) (by decide), fun a ha => ?_,
    hall.keepsMemory, hall.strands⟩
  · exact (State.rget_noteLow_ne _ _ (by decide) (by decide)).trans (s.rget_wset_self _ _ _ _)
  · simp only [List.mem_cons, List.not_mem_nil, or_false, not_or] at ha
    exact (State.rget_noteLow_ne _ _ (Ne.symm ha.2) (Ne.symm ha.2)).trans (s.rget_wset_ne _ (Ne.symm ha.1))

/-- The gallery's own registers at the end of its window. -/
def State.galleryRates (s : State) (d cycles : Nat) : State :=
  (s.wset PWR_RATE_G (rateWord 0 cycles) d).noteLow PWR_RATE_LOW_G_VALID PWR_RATE_LOW_G_LOW_MHZ (rateMhz cycles) d

theorem State.keepsBelow_galleryRates (s : State) (d cycles : Nat) : s.KeepsBelow 0 (s.galleryRates d cycles) :=
  State.keepsBelow_noteLow (State.keepsBelow_wset (.refl 0 s) _ (Nat.zero_le _)) _ (Nat.zero_le _) (Nat.zero_le _)

theorem State.rget_galleryRates (s : State) (d cycles : Nat) :
    (s.galleryRates d cycles).rget (regAddr PWR_RATE_G d 0) = BitVec.ofNat 32 (rateWord 0 cycles) := by
  have hne : regAddr PWR_RATE_LOW_G d 0 ≠ regAddr PWR_RATE_G d 0 := by
    rw [regAddr_rateLow, regAddr_rateGallery]
    omega
  exact (State.rget_noteLow_ne _ _ hne hne).trans (s.rget_wset_self _ _ _ _)

theorem State.fget_galleryRates_valid (s : State) (d cycles : Nat) :
    (s.galleryRates d cycles).fget PWR_RATE_LOW_G_VALID d = 1 :=
  State.fget_noteLow_valid _ _ _ (by decide) (by decide)

/-- A gallery with a live core: its own registers, then those of its cores and of the device. -/
def State.liveRates (s : State) (d cycles : Nat) (cc : List Nat) : State :=
  (((s.galleryRates d cycles).clearRates d).writeCores d cycles cc).refreshRateDev

theorem State.keepsBelow_liveRates {s : State} {d : Nat} (cycles : Nat) (cc : List Nat) (hl : s.galleryLive d = true) :
    (s.galleryRates d cycles).KeepsBelow 0x6200 (s.liveRates d cycles cc) := by
  have hclear : (s.galleryRates d cycles).KeepsBelow 0x6200 ((s.galleryRates d cycles).clearRates d) := by
    rw [State.clearRates_eq, if_pos (((s.keepsBelow_galleryRates d cycles).galleryLive d).trans hl)]
    exact State.keepsBelow_clearCores _ _ _
  exact (hclear.trans (State.keepsBelow_writeCores _ d cycles cc)).trans ((State.keepsBelow_refreshRateDev _).mono (by decide))

theorem execRateWindowEnd_live {s : State} {d : Nat} (cycles : Nat) (cc : List Nat) (hd : d < 16) (hl : s.galleryLive d = true) :
    execRateWindowEnd d cycles cc s = .next
      ((s.liveRates d cycles cc).windowItems d (rateRatio cycles)) := by
  unfold execRateWindowEnd
  rw [if_neg (by omega), if_neg (by omega), if_neg (by simp [hl])]
  rfl

theorem execRateWindowEnd_dead {s : State} {d : Nat} (cycles : Nat) (cc : List Nat) (hd : d < 16) (hl : s.galleryLive d = false) :
    execRateWindowEnd d cycles cc s = .next (s.clearRates d).refreshRateDev := by
  unfold execRateWindowEnd
  rw [if_neg (by omega), if_neg (by omega), if_pos (by simp [hl])]

theorem rateWindow_live {s : State} {d : Nat} (cycles : Nat) (cc : List Nat) (hd : d < 16) (hl : s.galleryLive d = true) :
    ∃ s', exec (.rateWindowEnd d cycles cc) s = .next s' ∧
      s'.rget (regAddr PWR_RATE_G d 0) = BitVec.ofNat 32 (rateWord 0 cycles) ∧ s'.fget PWR_RATE_LOW_G_VALID d = 1 ∧
      s.KeepsMemory s' ∧ s'.strands = s.strands := by
  have hrates := State.keepsBelow_liveRates cycles cc hl
  have hall := (s.keepsBelow_galleryRates d cycles).trans (hrates.mono (Nat.zero_le _))
  refine ⟨_, execRateWindowEnd_live cycles cc hd hl, ?_, ?_, State.keepsMemory_windowItems hall.keepsMemory _ _,
    (State.windowItems_strands _ _ _).trans hall.strands⟩
  · rw [State.rget_windowItems, hrates.2 _ (by rw [regAddr_rateGallery]; omega), State.rget_galleryRates]
  · have hlow : regAddr PWR_RATE_LOW_G_VALID.reg d 0 < 0x6200 := (regAddr_rateLow d).trans_lt (by omega)
    rw [State.fget, State.rget_windowItems, hrates.2 _ hlow]
    exact s.fget_galleryRates_valid d cycles

theorem rateWindow_dead {s : State} {d : Nat} (cycles : Nat) (cc : List Nat) (hd : d < 16) (hl : s.galleryLive d = false) :
    ∃ s', exec (.rateWindowEnd d cycles cc) s = .next s' ∧ s'.rget (regAddr PWR_RATE_G d 0) = 0#32 ∧
      (∀ k, k < 8 → s'.rget (regAddr PWR_RATE_CORE (8 * d + k) 0) = 0#32) ∧ s.KeepsMemory s' ∧ s'.strands = s.strands := by
  have hclear : s.clearRates d = (s.wset PWR_RATE_G 0 d).clearCores d (List.range 8) := by
    rw [State.clearRates_eq, hl]
    rfl
  have hcores := (s.wset PWR_RATE_G 0 d).keepsBelow_clearCores d (List.range 8)
  have hdev := ((s.wset PWR_RATE_G 0 d).clearCores d (List.range 8)).keepsBelow_refreshRateDev
  have hall := hcores.trans (hdev.mono (by decide))
  refine ⟨_, execRateWindowEnd_dead cycles cc hd hl, ?_⟩
  rw [hclear]
  have hframe := (State.keepsBelow_wset (.refl 0 s) (r := PWR_RATE_G) (i := d) (j := 0) 0 (Nat.zero_le _)).trans
    (hall.mono (Nat.zero_le _))
  refine ⟨(hall.2 _ ?_).trans (s.rget_wset_self _ _ _ _), fun k hk => (hdev.2 _ ?_).trans ?_, hframe.keepsMemory, hframe.strands⟩
  · rw [regAddr_rateGallery]
    omega
  · rw [regAddr_rateCore]
    omega
  · exact State.rget_clearCores _ (State.coreLive_of_galleryLive hl hk) (.inl (List.mem_range.mpr hk))

/-- Settles O21. -/
theorem rateWindow : Obligations.RateWindow := by
  intro s d cycles cc word
  have hword : word = BitVec.ofNat 32 (rateWord 0 cycles) := by rw [rateWord_eq]
  rw [hword]
  exact ⟨rateWindow_uncore s cycles cc, rateWindow_live cycles cc, rateWindow_dead cycles cc⟩

end Sys2Proof.Machine
end

section
/-! PROOFS. O27: what the issue of a vector instruction comes to. -/

namespace Sys2Proof.Machine

section VectorIssue

variable {s : State} {c t op : Nat} {w : Word64}

/-- The instruction that the issue of vector word `w` queues. -/
abbrev State.vxOp (s : State) (c t : Nat) (w : Word64) : EngOp :=
  s.newOp .vxe c t (vxRs w) w [] (vxRegs w (s.strand c t))

/-- The state in which it stands last in its queue. -/
abbrev State.vxQueued (s : State) (c t : Nat) (w : Word64) : State :=
  s.enqueue c t (s.strand c t) w .vxe (vxRs w) [] (vxRegs w (s.strand c t))

theorem State.vxIssue_of_issues (h : s.issues c t op (vxMask w) w) :
    s.vxIssue c t op = s.accept c t (s.strand c t) w .vxe (vxRs w) [] (vxRegs w (s.strand c t)) vxDecoder :=
  (State.issue_of_issues h).trans (State.needing_of_issues h)

theorem State.vxIssue_full (h : s.issues c t op (vxMask w) w) (hr : s.engineRoom c 1 = false) :
    s.vxIssue c t op = s.waitsFor c t (.engine 1) :=
  (State.vxIssue_of_issues h).trans (State.accept_full hr)

/-- With room, and every instruction before it decoded, it is held for its slot, taken or rejected (R181, R240). -/
theorem State.vxIssue_decodes (h : s.issues c t op (vxMask w) w) (hr : s.engineRoom c 1 = true) (hq : s.DecodedUp (4 * c + 1)) :
    s.vxIssue c t op =
      if (vxSlots w).any (s.closedTo (s.vxOp c t w).item) then (s.vxQueued c t w).gate (s.vxOp c t w)
      else if s.vxOk (s.coreChamber c) w (VxRegs.of (vxRegs w (s.strand c t))) then
        (s.vxQueued c t w).take (s.vxOp c t w) (vxSlots w)
      else (s.vxQueued c t w).engFailed (s.vxOp c t w) 0x40 0 :=
  (State.vxIssue_of_issues h).trans (State.accept_decodes hr rfl hq)

theorem State.vxIssue_held (h : s.issues c t op (vxMask w) w) (hr : s.engineRoom c 1 = true) (hq : s.DecodedUp (4 * c + 1))
    (hc : ∃ id ∈ vxSlots w, s.closedTo (s.vxOp c t w).item id = true) :
    s.vxIssue c t op = (s.vxQueued c t w).gate (s.vxOp c t w) :=
  (State.vxIssue_decodes h hr hq).trans (if_pos (List.any_eq_true.mpr hc))

theorem State.vxIssue_open (h : s.issues c t op (vxMask w) w) (hr : s.engineRoom c 1 = true) (hq : s.DecodedUp (4 * c + 1))
    (ho : ∀ id ∈ vxSlots w, (s.slot id).write = none) :
    s.vxIssue c t op =
      if s.vxOk (s.coreChamber c) w (VxRegs.of (vxRegs w (s.strand c t))) then
        (s.vxQueued c t w).take (s.vxOp c t w) (vxSlots w)
      else (s.vxQueued c t w).engFailed (s.vxOp c t w) 0x40 0 :=
  (State.vxIssue_decodes h hr hq).trans (if_neg (by rw [State.closedTo_of_open ho]; exact Bool.false_ne_true))

theorem State.vxIssue_taken (h : s.issues c t op (vxMask w) w) (hr : s.engineRoom c 1 = true) (hq : s.DecodedUp (4 * c + 1))
    (ho : ∀ id ∈ vxSlots w, (s.slot id).write = none)
    (hok : s.vxOk (s.coreChamber c) w (VxRegs.of (vxRegs w (s.strand c t))) = true) :
    s.Queued (s.vxIssue c t op) { s.vxOp c t w with decoded := true } ∧ s.KeepsRegsBut (s.vxIssue c t op) [] := by
  obtain ⟨-, ht, -⟩ := h.1
  rw [State.vxIssue_open h hr hq ho, if_pos hok]
  obtain ⟨hqueued, hregs⟩ := State.take_queued (eng := .vxe) (desc := []) ht (fun p hp => (hq p hp).1) (vxSlots w)
  exact ⟨hqueued, fun a _ => congrArg (smGet resetAt · a) hregs⟩

theorem State.vxIssue_rejected (h : s.issues c t op (vxMask w) w) (hr : s.engineRoom c 1 = true)
    (hq : s.DecodedUp (4 * c + 1)) (ho : ∀ id ∈ vxSlots w, (s.slot id).write = none)
    (hok : s.vxOk (s.coreChamber c) w (VxRegs.of (vxRegs w (s.strand c t))) = false) :
    s.vxIssue c t op = (s.vxQueued c t w).engFailed (s.vxOp c t w) 0x40 0 :=
  (State.vxIssue_open h hr hq ho).trans (if_neg (by rw [hok]; exact Bool.false_ne_true))

end VectorIssue

/-- Settles O27: the sixteen rows share one issue. -/
theorem vectorIssue : Obligations.VectorIssue := by
  intro s c t w regs o e ok after
  have key : ∀ op, s.issues c t op (vxMask w) w → after (s.vxIssue c t op) := fun op h =>
    ⟨fun hr hq => ⟨fun ho => ⟨State.vxIssue_taken h hr hq ho, State.vxIssue_rejected h hr hq ho⟩, State.vxIssue_held h hr hq⟩,
      State.vxIssue_full h⟩
  refine ⟨?_, ?_, ?_, ?_, ?_, ?_, ?_, ?_, ?_, ?_, ?_, ?_, ?_, ?_, ?_, ?_⟩ <;> exact fun h => ⟨_, rfl, key _ h⟩

end Sys2Proof.Machine
end

section
/-! PROOFS. O51: the queue-work instructions, the timebase read, the trace mark and the barrier, as a strand issues them. -/

namespace Sys2Proof.Machine

/-! ### Queue work (R516, R560) -/

theorem qwBad_iff (w : Word64) (even : Bool) :
    qwBad w even = true ↔ bitsOf w.toNat 52 0 ≠ 0 ∨ (even = true ∧ rdOf w % 2 = 1) := by
  simp [qwBad]

/-- A word with no bit of [52:0] set is no bad one. -/
theorem qwBad_plain {w : Word64} (hb : bitsOf w.toNat 52 0 = 0) : qwBad w false = false := by
  rw [Bool.eq_false_iff, ne_eq, qwBad_iff]
  exact fun h => h.elim (· hb) fun ⟨h, _⟩ => Bool.false_ne_true h

/-- Nor is one that names an even register where one is asked for. -/
theorem qwBad_even {w : Word64} (hb : bitsOf w.toNat 52 0 = 0) (he : rdOf w % 2 = 0) : qwBad w true = false := by
  rw [Bool.eq_false_iff, ne_eq, qwBad_iff]
  exact fun h => h.elim (· hb) fun ⟨_, h⟩ => by omega

section QueueWork

variable {s : State} {c t m : Nat} {w : Word64}

/-! Each instruction's effect once it issues. -/

theorem qwEnd_of_issues (h : s.issues c t 0xB0 m w) : exec (.qwEnd c t) s = .next
    (if qwBad w false then s.failStrand c t 0x35 1 else if (s.strand c t).task then s.failStrand c t 0x35 4
    else match (s.strand c t).item with
      | some k => s.endItem k 0 0
      | none => s) := next_congr (State.issue_of_issues h)

theorem qwTake_of_issues (h : s.issues c t 0xB1 m w) : exec (.qwTake c t) s = .next
    (if qwBad w true then s.failStrand c t 0x35 1 else if !(s.strand c t).task then s.failStrand c t 0x35 2
    else if (s.strand c t).taken.isSome then s.failStrand c t 0x35 3
    else s.needing c t (pairMask (rdOf w)) (s.setStrand c t
      { s.strand c t with mode := .waiting, wait := .take, run := 0, readyAt := s.tb, dropped := false })) :=
  next_congr (State.issue_of_issues h)

theorem qwDone_of_issues (h : s.issues c t 0xB2 m w) : exec (.qwDone c t) s = .next
    (if qwBad w false then s.failStrand c t 0x35 1 else if !(s.strand c t).task then s.failStrand c t 0x35 2
    else match (s.strand c t).taken with
      | some k => (s.advance c t { s.strand c t with taken := none }).endItem k 0 0
      | none => if (s.strand c t).dropped then s.advance c t { s.strand c t with dropped := false }
        else s.failStrand c t 0x35 3) := next_congr (State.issue_of_issues h)

/-- The MESSAGE that a task still holds as it exits ends ABORTED. -/
def State.dropTaken (s : State) (c t : Nat) : State :=
  match (s.strand c t).taken with
  | some m => s.endItem m 0x20 0
  | none => s

theorem qwExit_of_issues (h : s.issues c t 0xB3 m w) : exec (.qwExit c t) s = .next
    (if qwBad w false then s.failStrand c t 0x35 1 else if !(s.strand c t).task then s.failStrand c t 0x35 2
    else match (s.strand c t).item with
      | some k => (s.dropTaken c t).endItem k 0 0
      | none => s.dropTaken c t) := next_congr (State.issue_of_issues h)

theorem qwLive_of_issues {k : ItemKey} {i : Item} (h : s.issues c t 0xB4 (pairMask (rdOf w)) w)
    (hk : (s.strand c t).item = some k) (hi : s.item k = some i) : exec (.qwLive c t) s = .next
    (let off := ((s.strand c t).reg (rdOf w)).toNat
     let len := ((s.strand c t).reg (rdOf w + 1)).toNat
     if qwBad w true || off % 64 != 0 || len % 64 != 0 || decide (i.scratch < len) || decide (0x20_0000 < off + len) then
      s.failStrand c t 0x35 1
     else s.advance c t { s.strand c t with liveOff := off, liveLen := len }) := by
  refine next_congr ((State.issue_of_issues h).trans ((State.needing_of_issues h).trans ?_))
  simp only [hk, hi]
  rfl

/-! A bad word ends the item. -/

theorem qwEnd_bad (h : s.issues c t 0xB0 m w) (hb : bitsOf w.toNat 52 0 ≠ 0) :
    exec (.qwEnd c t) s = .next (s.failStrand c t 0x35 1) := by
  rw [qwEnd_of_issues h, if_pos ((qwBad_iff _ _).mpr (.inl hb))]

theorem qwTake_bad (h : s.issues c t 0xB1 m w) (hb : bitsOf w.toNat 52 0 ≠ 0 ∨ rdOf w % 2 = 1) :
    exec (.qwTake c t) s = .next (s.failStrand c t 0x35 1) := by
  rw [qwTake_of_issues h, if_pos ((qwBad_iff _ _).mpr (hb.imp_right fun he => ⟨rfl, he⟩))]

theorem qwDone_bad (h : s.issues c t 0xB2 m w) (hb : bitsOf w.toNat 52 0 ≠ 0) :
    exec (.qwDone c t) s = .next (s.failStrand c t 0x35 1) := by
  rw [qwDone_of_issues h, if_pos ((qwBad_iff _ _).mpr (.inl hb))]

theorem qwExit_bad (h : s.issues c t 0xB3 m w) (hb : bitsOf w.toNat 52 0 ≠ 0) :
    exec (.qwExit c t) s = .next (s.failStrand c t 0x35 1) := by
  rw [qwExit_of_issues h, if_pos ((qwBad_iff _ _).mpr (.inl hb))]

/-! A well-formed word, by what the strand is and holds. -/

variable (hb : bitsOf w.toNat 52 0 = 0)
include hb

theorem qwEnd_launch {k : ItemKey} (h : s.issues c t 0xB0 m w) (ht : (s.strand c t).task = false)
    (hk : (s.strand c t).item = some k) : exec (.qwEnd c t) s = .next (s.endItem k 0 0) := by
  rw [qwEnd_of_issues h, qwBad_plain hb, ht, hk]
  rfl

theorem qwEnd_task (h : s.issues c t 0xB0 m w) (ht : (s.strand c t).task = true) :
    exec (.qwEnd c t) s = .next (s.failStrand c t 0x35 4) := by
  rw [qwEnd_of_issues h, qwBad_plain hb, ht]
  rfl

section Take

variable (h : s.issues c t 0xB1 (pairMask (rdOf w)) w) (he : rdOf w % 2 = 0)
include h he

theorem qwTake_waits (ht : (s.strand c t).task = true) (hn : (s.strand c t).taken = none) :
    exec (.qwTake c t) s = .next (s.setStrand c t
      { s.strand c t with mode := .waiting, wait := .take, run := 0, readyAt := s.tb, dropped := false }) := by
  rw [qwTake_of_issues h, qwBad_even hb he, ht, hn, State.needing_of_issues h]
  rfl

theorem qwTake_holding (ht : (s.strand c t).task = true) (hm : (s.strand c t).taken.isSome = true) :
    exec (.qwTake c t) s = .next (s.failStrand c t 0x35 3) := by
  rw [qwTake_of_issues h, qwBad_even hb he, ht, hm]
  rfl

theorem qwTake_outside (ht : (s.strand c t).task = false) : exec (.qwTake c t) s = .next (s.failStrand c t 0x35 2) := by
  rw [qwTake_of_issues h, qwBad_even hb he, ht]
  rfl

end Take

section Done

variable (h : s.issues c t 0xB2 m w)
include h

theorem qwDone_holding {k : ItemKey} (ht : (s.strand c t).task = true) (hk : (s.strand c t).taken = some k) :
    exec (.qwDone c t) s = .next ((s.advance c t { s.strand c t with taken := none }).endItem k 0 0) := by
  rw [qwDone_of_issues h, qwBad_plain hb, ht, hk]
  rfl

theorem qwDone_empty (ht : (s.strand c t).task = true) (hn : (s.strand c t).taken = none)
    (hd : (s.strand c t).dropped = false) : exec (.qwDone c t) s = .next (s.failStrand c t 0x35 3) := by
  rw [qwDone_of_issues h, qwBad_plain hb, ht, hn, hd]
  rfl

theorem qwDone_dropped (ht : (s.strand c t).task = true) (hn : (s.strand c t).taken = none)
    (hd : (s.strand c t).dropped = true) :
    exec (.qwDone c t) s = .next (s.advance c t { s.strand c t with dropped := false }) := by
  rw [qwDone_of_issues h, qwBad_plain hb, ht, hn, hd]
  rfl

theorem qwDone_outside (ht : (s.strand c t).task = false) : exec (.qwDone c t) s = .next (s.failStrand c t 0x35 2) := by
  rw [qwDone_of_issues h, qwBad_plain hb, ht]
  rfl

end Done

section Exit

variable (h : s.issues c t 0xB3 m w)
include h

theorem qwExit_task {k : ItemKey} (ht : (s.strand c t).task = true) (hk : (s.strand c t).item = some k) :
    exec (.qwExit c t) s = .next ((s.dropTaken c t).endItem k 0 0) := by
  rw [qwExit_of_issues h, qwBad_plain hb, ht, hk]
  rfl

theorem qwExit_outside (ht : (s.strand c t).task = false) : exec (.qwExit c t) s = .next (s.failStrand c t 0x35 2) := by
  rw [qwExit_of_issues h, qwBad_plain hb, ht]
  rfl

end Exit

end QueueWork

theorem State.dropTaken_none {s : State} {c t : Nat} (h : (s.strand c t).taken = none) : s.dropTaken c t = s := by
  rw [State.dropTaken, h]

theorem State.dropTaken_some {s : State} {c t : Nat} {m : ItemKey} (h : (s.strand c t).taken = some m) :
    s.dropTaken c t = s.endItem m 0x20 0 := by
  rw [State.dropTaken, h]

section Live

variable {s : State} {c t : Nat} {w : Word64} {k : ItemKey} {i : Item}

/-- A live range that QW.LIVE takes: aligned, within what the item declared and within the scratchpad. -/
def liveOk (w : Word64) (i : Item) (off len : Nat) : Prop :=
  bitsOf w.toNat 52 0 = 0 ∧ rdOf w % 2 = 0 ∧ off % 64 = 0 ∧ len % 64 = 0 ∧ len ≤ i.scratch ∧ off + len ≤ 0x20_0000

theorem liveOk_iff (w : Word64) (i : Item) (off len : Nat) : liveOk w i off len ↔
    (qwBad w true || off % 64 != 0 || len % 64 != 0 || decide (i.scratch < len) || decide (0x20_0000 < off + len)) = false := by
  rw [liveOk, Bool.eq_false_iff, ne_eq]
  simp only [Bool.or_eq_true, qwBad_iff, bne_iff_ne, decide_eq_true_eq, true_and]
  omega

variable (h : s.issues c t 0xB4 (pairMask (rdOf w)) w) (hk : (s.strand c t).item = some k) (hi : s.item k = some i)
include h hk hi

theorem qwLive_declares (hg : liveOk w i ((s.strand c t).reg (rdOf w)).toNat ((s.strand c t).reg (rdOf w + 1)).toNat) :
    exec (.qwLive c t) s = .next (s.advance c t { s.strand c t with
      liveOff := ((s.strand c t).reg (rdOf w)).toNat, liveLen := ((s.strand c t).reg (rdOf w + 1)).toNat }) := by
  rw [qwLive_of_issues h hk hi]
  exact next_congr (if_neg (Bool.eq_false_iff.mp ((liveOk_iff ..).mp hg)))

theorem qwLive_refused (hg : ¬ liveOk w i ((s.strand c t).reg (rdOf w)).toNat ((s.strand c t).reg (rdOf w + 1)).toNat) :
    exec (.qwLive c t) s = .next (s.failStrand c t 0x35 1) := by
  rw [qwLive_of_issues h hk hi]
  exact next_congr (if_pos (Bool.of_not_eq_false (mt (liveOk_iff ..).mpr hg)))

end Live

/-! ### The timebase and the trace (R56, R679, R683) -/

section Timebase

variable {s : State} {c t : Nat} {w : Word64}

theorem tbRead_of_issues (h : s.issues c t 0xB8 (pairMask (rdOf w)) w) (hb : bitsOf w.toNat 52 0 = 0) (he : rdOf w % 2 = 0) :
    exec (.tbRead c t) s = .next (s.advance c t (((s.strand c t).setReg (rdOf w) (BitVec.ofNat 32 s.tb)).setReg (rdOf w + 1)
      (BitVec.ofNat 32 (s.tb / 2 ^ 32)))) :=
  next_congr ((State.issue_of_issues h).trans
    ((if_neg (Bool.eq_false_iff.mp (qwBad_even hb he))).trans (State.needing_of_issues h)))

/-- The timebase stands in RD and RD + 1, and nothing but the strand's context changes. -/
theorem tbRead_frame (h : s.issues c t 0xB8 (pairMask (rdOf w)) w) (hb : bitsOf w.toNat 52 0 = 0) (he : rdOf w % 2 = 0) :
    ∃ s', exec (.tbRead c t) s = .next s' ∧ (s'.strand c t).reg (rdOf w) = BitVec.ofNat 32 s.tb ∧
      (s'.strand c t).reg (rdOf w + 1) = BitVec.ofNat 32 (s.tb / 2 ^ 32) ∧
      (∀ k, k < 8 → k ≠ rdOf w → k ≠ rdOf w + 1 → (s'.strand c t).reg k = (s.strand c t).reg k) ∧
      (s'.strand c t).pc = ((s.strand c t).pc + 8) % 2 ^ 57 ∧ s.KeepsStrandsBut s' c t ∧
      s' = { s with strands := s'.strands } := by
  obtain ⟨-, ht, -⟩ := h.1
  have hrd := rdOf_lt w
  refine ⟨_, tbRead_of_issues h hb he, ?_⟩
  rw [State.advance_eq, State.strand_setStrand_self]
  refine ⟨?_, ?_, fun k hk hne hne' => ?_, rfl, s.keepsStrandsBut_setStrand _ ht, rfl⟩
  · exact (Strand.reg_setReg _ _ _ hrd).trans ((if_neg (by omega)).trans ((Strand.reg_setReg _ _ _ hrd).trans (if_pos rfl)))
  · exact (Strand.reg_setReg _ _ _ (by omega)).trans (if_pos rfl)
  · exact (Strand.reg_setReg _ _ _ hk).trans ((if_neg hne').trans ((Strand.reg_setReg _ _ _ hk).trans (if_neg hne)))

/-- A mark whose bit [52] is 0 triggers nothing. -/
theorem trMark_of_issues (h : s.issues c t 0xB9 (pairMask (rdOf w)) w) (hb : bitsOf w.toNat 52 0 = 0) (he : rdOf w % 2 = 0) :
    exec (.trMark c t) s = .next ((s.advance c t (s.strand c t)).trace c t trSwMark
      (leBytes 4 ((s.strand c t).reg (rdOf w)).toNat ++ leBytes 4 ((s.strand c t).reg (rdOf w + 1)).toNat)) := by
  have hlow : bitsOf w.toNat 51 0 = 0 ∧ bitOf w.toNat 52 = false := by
    simp only [bitsOf, bitOf, Nat.shiftRight_eq_div_pow, beq_eq_false_iff_ne] at hb ⊢
    omega
  refine next_congr ((State.issue_of_issues h).trans ((if_neg ?_).trans ((State.needing_of_issues h).trans ?_)))
  · rw [hlow.1, he]
    decide
  · rw [hlow.2]
    rfl

end Timebase

/-! ### Barriers (R606, R607) -/

theorem State.barrierOf_key (s : State) (n id : Nat) : (s.barrierOf n id).chamber = n ∧ (s.barrierOf n id).id = id := by
  rw [State.barrierOf]
  cases h : s.fab.barriers.find? (fun b => b.chamber == n && b.id == id) with
  | none => exact ⟨rfl, rfl⟩
  | some b => simpa using List.find?_some h

theorem State.strand_setBarrier (s : State) (b : Barrier) (d v : Nat) : (s.setBarrier b).strand d v = s.strand d v := rfl

theorem State.arrivals_setBarrier (s : State) (b : Barrier) : (s.setBarrier b).fab.arrivals = s.fab.arrivals := rfl

theorem State.keepsMemory_setBarrier (s : State) (b : Barrier) : s.KeepsMemory (s.setBarrier b) := fun _ => rfl

theorem State.barrierOf_setBarrier (s : State) {b : Barrier} {n id : Nat} (hn : b.chamber = n) (hi : b.id = id) :
    (s.setBarrier b).barrierOf n id = b := by
  simp [State.barrierOf, State.setBarrier, hn, hi]

/-- A barrier whose generation is released: the next one begins. -/
def Barrier.completed (b : Barrier) : Barrier :=
  { b with generation := (b.generation + 1) % 2 ^ 32, parties := 0, arrived := 0, from_ := [] }

/-- A barrier of `parties` with `count` more arrivals, from the devices `l`. -/
def Barrier.counting (b : Barrier) (parties count : Nat) (l : List Nat) : Barrier :=
  { b with parties := parties, arrived := b.arrived + count, from_ := l }

section Barrier

variable {s : State} {n id dev parties count : Nat}

/-- An arrival that others of its generation must follow is counted. -/
theorem State.countArrivals_waits (hp : (s.barrierOf n id).arrived = 0 ∨ (s.barrierOf n id).parties = parties)
    (hlt : (s.barrierOf n id).arrived + count < parties) : ∃ l, s.countArrivals n id dev parties count =
      (true, s.setBarrier ((s.barrierOf n id).counting parties count l)) := by
  refine ⟨if (s.barrierOf n id).from_.contains dev then (s.barrierOf n id).from_ else (s.barrierOf n id).from_ ++ [dev], ?_⟩
  rw [State.countArrivals]
  exact (if_neg (fun ⟨h0, h1⟩ => hp.elim h0 h1)).trans (if_pos hlt)

/-- The arrival that completes a barrier of this device alone begins the next generation and wakes those who wait. -/
theorem State.countArrivals_completes (ha : (s.barrierOf n id).arrived = 0) (hle : parties ≤ count) (hg : s.inGroup n = false) :
    s.countArrivals n id dev parties count =
      (true, (s.setBarrier (s.barrierOf n id).completed).completeBarrier n id (s.barrierOf n id).generation) := by
  have hu : ∀ b, (s.setBarrier b).inGroup n = false := fun _ => hg
  rw [State.countArrivals]
  refine (if_neg (fun ⟨h0, _⟩ => h0 ha)).trans ((if_neg (by omega)).trans ?_)
  simp only [hu, Bool.false_eq_true, if_false, Barrier.completed]

/-- The context of a strand that a barrier's generation `gen` wakes with its register `rd`. -/
def Strand.passed (x : Strand) (rd gen tb : Nat) : Strand :=
  { x.setReg rd (BitVec.ofNat 32 gen) with mode := .ready, wait := .none, readyAt := tb, run := 0 }

/-- Strand `t` of core `c`, the only one that waited at a barrier, goes on with context `y`, an acquire at group scope. -/
def State.wakeOnly (s : State) (c t : Nat) (y : Strand) : State :=
  { s.setStrand c t y with fab := { s.fab with arrivals := [] }, ms := s.ms.acquire c 3 }

theorem State.strand_wakeOnly (s : State) (c t : Nat) (y : Strand) : (s.wakeOnly c t y).strand c t = y :=
  s.strand_setStrand_self c t y

/-- The one arrival that waits is woken. -/
theorem State.completeBarrier_one {a : Arrival} {x : Strand} {rd gen : Nat} (hall : s.fab.arrivals = [a]) (hn : a.chamber = n)
    (hi : a.id = id) (hc : a.counted = true) (hs : s.strand a.core a.strand = x) (hw : x.wait = .barrier id rd)
    (hk : x.item = a.item) : s.completeBarrier n id gen = s.wakeOnly a.core a.strand (x.passed rd gen s.tb) := by
  have hx : ∀ f, ({ s with fab := f } : State).strand a.core a.strand = x := fun _ => hs
  simp [State.completeBarrier, hall, hn, hi, hc, hx, hw, hk, Strand.passed, State.wakeOnly, State.setStrand]

end Barrier

/-- The context of a strand that waits at barrier `id` for the generation that register `rd` receives. -/
def Strand.atBarrier (x : Strand) (id rd : Nat) : Strand :=
  { x.issued (x.pc + 8) with mode := .waiting, wait := .barrier id rd, run := 0 }

/-- Strand `t` of core `c` waits at barrier `id`. -/
def State.waitsAt (s : State) (c t id rd : Nat) : State :=
  (s.advance c t (s.strand c t)).setStrand c t ((s.strand c t).atBarrier id rd)

/-- Its arrival, which this device counts or sends to the master. -/
def State.arrivalOf (s : State) (c t id parties : Nat) (counted : Bool) : Arrival :=
  { chamber := s.coreChamber c, id := id, parties := parties, core := c, strand := t, item := (s.strand c t).item, txn := none,
    counted := counted }

/-- An arrival noted. -/
def State.withArrival (s : State) (a : Arrival) : State := { s with fab := { s.fab with arrivals := s.fab.arrivals ++ [a] } }

/-- What MO.BAR does once it is well formed and every earlier access is performed. -/
def State.arrives (s : State) (c t id parties rd : Nat) : State :=
  let n := s.coreChamber c
  let u := s.waitsAt c t id rd
  let here := !u.inGroup n || u.isMaster
  let v := u.withArrival (s.arrivalOf c t id parties here)
  if here then
    match v.countArrivals n id v.deviceId parties 1 with
    | (true, v) => v
    | (false, v) => v.refuseArrivals (fun b => b == s.arrivalOf c t id parties here) nakBarrier
  else v.sendArrivals n id

/-- The arrival of a strand of a chamber outside the group, as this device counts it. -/
def State.arrived (s : State) (c t id parties rd : Nat) : State :=
  (s.waitsAt c t id rd).withArrival (s.arrivalOf c t id parties true)

theorem State.strand_arrived (s : State) (c t id parties rd : Nat) (d v : Nat) :
    (s.arrived c t id parties rd).strand d v = (s.waitsAt c t id rd).strand d v := rfl

theorem State.barrierOf_arrived (s : State) (c t id parties rd n k : Nat) :
    (s.arrived c t id parties rd).barrierOf n k = s.barrierOf n k := rfl

theorem State.keepsMemory_arrived (s : State) (c t id parties rd : Nat) : s.KeepsMemory (s.arrived c t id parties rd) :=
  fun _ => rfl

theorem State.arrives_counted {s u : State} {c t id parties rd : Nat} (hg : s.inGroup (s.coreChamber c) = false)
    (hu : (s.arrived c t id parties rd).countArrivals (s.coreChamber c) id s.deviceId parties 1 = (true, u)) :
    s.arrives c t id parties rd = u := by
  have hgroup : (s.waitsAt c t id rd).inGroup (s.coreChamber c) = false := hg
  have hdev : ((s.waitsAt c t id rd).withArrival (s.arrivalOf c t id parties true)).deviceId = s.deviceId := rfl
  simp only [State.arrived] at hu
  simp only [State.arrives, hgroup, Bool.not_false, Bool.true_or, if_true, hdev, hu]

theorem State.strand_waitsAt (s : State) (c t id rd : Nat) : (s.waitsAt c t id rd).strand c t = (s.strand c t).atBarrier id rd :=
  State.strand_setStrand_self (s.advance c t (s.strand c t)) c t _

theorem State.KeepsStrandsBut.setStrand {s u : State} {c t : Nat} (h : s.KeepsStrandsBut u c t) (ht : t < 8192) (x : Strand) :
    s.KeepsStrandsBut (u.setStrand c t x) c t :=
  fun d v hv hne => (u.strand_setStrand_ne x ht hv hne).trans (h d v hv hne)

theorem State.keepsStrandsBut_waitsAt (s : State) {c t : Nat} (ht : t < 8192) (id rd : Nat) :
    s.KeepsStrandsBut (s.waitsAt c t id rd) c t :=
  State.KeepsStrandsBut.setStrand (s.keepsStrandsBut_setStrand _ ht) ht _

section MoBar

variable {s : State} {c t : Nat} {w : Word64} (h : s.issues c t 0xA4 (regMask (raOf w) ||| regMask (rdOf w)) w)
  (hb : bitsOf w.toNat 49 0 = 0)
include h hb

theorem moBar_noParties (hp : ((s.strand c t).reg (raOf w)).toNat / 256 = 0) :
    exec (.moBar c t) s = .next (s.failStrand c t 0x40 0) :=
  next_congr ((State.issue_of_issues h).trans
    ((if_neg (not_not.mpr hb)).trans ((State.needing_of_issues h).trans (if_pos hp))))

variable (hp : ((s.strand c t).reg (raOf w)).toNat / 256 ≠ 0)
include hp

theorem moBar_owing (ho : s.ms.owes c t s.ms.nextId = true) : exec (.moBar c t) s = .next (s.waitsFor c t .release) :=
  next_congr ((State.issue_of_issues h).trans
    ((if_neg (not_not.mpr hb)).trans ((State.needing_of_issues h).trans ((if_neg hp).trans (if_pos ho)))))

theorem moBar_arrives (ho : s.ms.owes c t s.ms.nextId = false) : exec (.moBar c t) s = .next
    (s.arrives c t (((s.strand c t).reg (raOf w)).toNat % 256) (((s.strand c t).reg (raOf w)).toNat / 256) (rdOf w)) := by
  refine next_congr ((State.issue_of_issues h).trans ((if_neg (not_not.mpr hb)).trans ((State.needing_of_issues h).trans
    ((if_neg hp).trans ((if_neg (Bool.eq_false_iff.mp ho)).trans ?_)))))
  simp only [State.advance_eq, State.strand_setStrand_self]
  rfl

end MoBar

section Arrive

variable {s : State} {c t id parties rd : Nat} (hg : s.inGroup (s.coreChamber c) = false)
include hg

/-- The only arrival of a barrier passes it with the generation in its register. -/
theorem State.arrives_passes (hp : parties = 1) (hb : (s.barrierOf (s.coreChamber c) id).arrived = 0)
    (ha : s.fab.arrivals = []) : s.arrives c t id parties rd =
      ((s.arrived c t id parties rd).setBarrier (s.barrierOf (s.coreChamber c) id).completed).wakeOnly c t
        (((s.strand c t).atBarrier id rd).passed rd (s.barrierOf (s.coreChamber c) id).generation s.tb) := by
  have hone : (s.arrived c t id parties rd).fab.arrivals = [s.arrivalOf c t id parties true] :=
    congrArg (· ++ [s.arrivalOf c t id parties true]) ha
  have hx : (s.arrived c t id parties rd).strand c t = (s.strand c t).atBarrier id rd := s.strand_waitsAt c t id rd
  have hcount := State.countArrivals_completes (s := s.arrived c t id parties rd) (dev := s.deviceId) hb hp.le hg
  rw [s.barrierOf_arrived] at hcount
  exact State.arrives_counted hg (hcount.trans (congrArg (Prod.mk true)
    (State.completeBarrier_one (a := s.arrivalOf c t id parties true)
      ((State.arrivals_setBarrier ..).trans hone) rfl rfl rfl ((State.strand_setBarrier ..).trans hx) rfl rfl)))

/-- An arrival that others must follow waits. -/
theorem State.arrives_waits (hlt : (s.barrierOf (s.coreChamber c) id).arrived + 1 < parties)
    (hb : (s.barrierOf (s.coreChamber c) id).arrived = 0 ∨ (s.barrierOf (s.coreChamber c) id).parties = parties) :
    ∃ l, s.arrives c t id parties rd = (s.arrived c t id parties rd).setBarrier
      ((s.barrierOf (s.coreChamber c) id).counting parties 1 l) := by
  obtain ⟨l, hl⟩ := State.countArrivals_waits (s := s.arrived c t id parties rd) (dev := s.deviceId) hb hlt
  exact ⟨l, State.arrives_counted hg hl⟩

end Arrive

/-! What the strand and the barrier hold afterwards. -/

section Arrived

variable {s u v : State} {c t n id rd : Nat} {b : Barrier} (ht : t < 8192)
include ht

/-- The arrival counted: the strand waits, and the barrier is `b`. -/
theorem State.counted_post {parties : Nat} (hu : u = (s.arrived c t id parties rd).setBarrier b) (hn : b.chamber = n)
    (hi : b.id = id) : (u.strand c t).mode = .waiting ∧ (u.strand c t).wait = .barrier id rd ∧ u.barrierOf n id = b ∧
      s.KeepsMemory u ∧ s.KeepsStrandsBut u c t := by
  subst hu
  have hx : ∀ d k, ((s.arrived c t id parties rd).setBarrier b).strand d k = (s.waitsAt c t id rd).strand d k := fun d k =>
    (State.strand_setBarrier _ b d k).trans (s.strand_arrived c t id parties rd d k)
  refine ⟨?_, ?_, State.barrierOf_setBarrier _ hn hi,
    fun a => (State.keepsMemory_setBarrier _ b a).trans (s.keepsMemory_arrived c t id parties rd a),
    fun d k hk hne => (hx d k).trans (s.keepsStrandsBut_waitsAt ht id rd d k hk hne)⟩
  · rw [hx, s.strand_waitsAt]
    rfl
  · rw [hx, s.strand_waitsAt]
    rfl

/-- The strand woken: it goes on with the generation in its register. -/
theorem State.woken_post {y : Strand} {gen tb : Nat} (hrd : rd < 8) (hu : u = v.wakeOnly c t (y.passed rd gen tb))
    (hmem : s.KeepsMemory v) (hst : s.KeepsStrandsBut v c t) : (u.strand c t).mode = .ready ∧
      (u.strand c t).reg rd = BitVec.ofNat 32 gen ∧ u.barrierOf n id = v.barrierOf n id ∧ u.fab.arrivals = [] ∧
      s.KeepsMemory u ∧ s.KeepsStrandsBut u c t := by
  subst hu
  refine ⟨?_, ?_, rfl, rfl, hmem, hst.setStrand ht (y.passed rd gen tb)⟩
  · rw [State.strand_wakeOnly]
    rfl
  · rw [State.strand_wakeOnly]
    exact (Strand.reg_setReg _ _ _ hrd).trans (if_pos rfl)

end Arrived

/-- Settles O51, instruction by instruction. -/
theorem strandWork : Obligations.StrandWork := by
  intro s c t w x
  refine ⟨fun k h hb => ⟨qwEnd_launch hb h, qwEnd_task hb h⟩,
    fun h hb he => ⟨qwTake_waits hb h he, qwTake_holding hb h he, qwTake_outside hb h he⟩,
    fun h hb => ⟨fun k => qwDone_holding hb h, qwDone_empty hb h, qwDone_dropped hb h, qwDone_outside hb h⟩,
    fun h hb => ⟨fun k ht hk hn => ?_, fun k m ht hk hm => ?_, qwExit_outside hb h⟩,
    qwEnd_bad, qwTake_bad, qwDone_bad, qwExit_bad,
    fun k i h hk hi => ⟨qwLive_declares h hk hi, qwLive_refused h hk hi⟩, fun h hb he => ?_, trMark_of_issues, fun h hb => ?_⟩
  · rw [qwExit_task hb h ht hk, State.dropTaken_none hn]
  · rw [qwExit_task hb h ht hk, State.dropTaken_some hm]
  · exact tbRead_frame h hb he
  · obtain ⟨-, ht, -⟩ := h.1
    intro id parties n b
    obtain ⟨hn, hi⟩ := s.barrierOf_key n id
    refine ⟨moBar_noParties h hb, moBar_owing h hb, fun hp ho hg h0 ha => ?_, fun hlt ho hg h0 => ?_⟩
    · have hp' : parties ≠ 0 := by omega
      obtain ⟨-, -, hbar, hmem, hst⟩ := State.counted_post (s := s) (parties := parties) (rd := rdOf w) (b := b.completed)
        ht rfl hn hi
      obtain ⟨hmode, hreg, hsame, hnone, hmem, hst⟩ := State.woken_post ht (rdOf_lt w) rfl hmem hst
      exact ⟨_, (moBar_arrives h hb hp' ho).trans (next_congr (State.arrives_passes hg hp h0 ha)), hmode, hreg,
        congrArg Barrier.generation (hsame.trans hbar), hnone, hmem, hst⟩
    · have hp' : parties ≠ 0 := by omega
      obtain ⟨l, hl⟩ := State.arrives_waits (t := t) (rd := rdOf w) hg hlt h0
      obtain ⟨hmode, hwait, hbar, hmem, hst⟩ := State.counted_post (s := s) (parties := parties) (rd := rdOf w)
        (b := b.counting parties 1 l) ht rfl hn hi
      exact ⟨_, (moBar_arrives h hb hp' ho).trans (next_congr hl), hmode, hwait, (congrArg Barrier.arrived hbar).trans rfl,
        (congrArg Barrier.generation hbar).trans rfl, hmem, hst⟩

end Sys2Proof.Machine
end

section
/-! PROOFS. O25: stopping a chamber ends the check-value runs of its galleries, and such a run may still write memory as it ends. -/

namespace Sys2Proof.Machine

/-! ### A chamber that is stopped (R99 step 4, R640) -/

/-- Chamber `n` DRAINING, with what it had in progress ended, before its galleries' check-value runs stop. -/
def State.stopWork (s : State) (n : Nat) : State :=
  ((((s.fset CHB_STATE_STATE chbDraining n).endCommands n).dropStreams n).dropHeldWrites n).decodeAll

theorem State.stopChamber_of_noQueues {s : State} {n : Nat} (h : (s.fset CHB_STATE_STATE chbDraining n).heldQueues n = []) :
    s.stopChamber n = ((s.stopWork n).galleriesOf n).foldl (fun s g => s.stopCvus g 4 0) (s.stopWork n) := by
  simp only [State.stopChamber, h, List.filter_nil, List.foldl_nil, State.stopWork]

/-- The end of a stopped run that has read `limit` bytes. -/
def State.cvuEnd (s : State) (g u n limit result fault : Nat) : State :=
  ((s.unlessRemote (.cvu g u) (fun s => (s.cvuRun g u n limit).2)).forget (.cvu g u)).cvuStatus g u 3 result fault 0

/-- A run over an empty range is always stopped after its 0 bytes; no free value decides how far it came. -/
theorem State.cvuStop_emptyRange {s : State} {g u n : Nat} (result fault : Nat) (hrun : s.fget CVU_STATUS_STATE g u = 1)
    (hlen : (s.cvuRunOf g u).len = 0) (hn : s.chamberOf g = some n) :
    s.cvuStop g u result fault = State.cvuEnd { s with free := s.free + 1 } g u n 0 result fault := by
  have hn' : State.chamberOf { s with free := s.free + 1 } g = some n := hn
  simp only [State.cvuStop, hrun, ne_eq, not_true_eq_false, if_false, State.draw, hlen, Nat.zero_div, Nat.zero_add, Nat.mod_one,
    hn', Nat.mul_zero, State.cvuEnd]

theorem State.cvuStop_idle {s : State} {g u : Nat} (result fault : Nat) (h : s.fget CVU_STATUS_STATE g u ≠ 1) :
    s.cvuStop g u result fault = s := if_pos h

/-- CVU 0 of gallery 0 runs in mode 1 over an empty range whose trailer is the first line of core 0's scratchpad. Its chamber 0 holds
no queue, no engine instruction and no slot write. -/
def emptyRun : State :=
  ({ State.reset with
    chambers := [{ Chamber.none with kind := 1, galleries := 1 }]
    cvus := [(0, { CvuRun.none with
      cfg := { CvuRun.none.cfg with mode := 1, width := 8, poly := 7, init := 1 }
      addr := 0x01FF_0000_0000_0000 + scratchBase 0 })] } : State).fset CVU_STATUS_STATE 1

theorem emptyRun_noQueues : emptyRun.heldQueues 0 = [] := heldQueues_nil _ _ (by decide +kernel)

theorem emptyRun_draining_noQueues : (emptyRun.fset CHB_STATE_STATE chbDraining 0).heldQueues 0 = [] :=
  heldQueues_nil _ _ (by decide +kernel)

theorem emptyRun_stopWork : (emptyRun.stopWork 0).galleriesOf 0 = [0] ∧ (emptyRun.stopWork 0).fget CVU_STATUS_STATE 0 0 = 1 ∧
    ((emptyRun.stopWork 0).cvuRunOf 0 0).len = 0 ∧ (emptyRun.stopWork 0).chamberOf 0 = some 0 := by decide +kernel

/-- The first CVU's run ends with its trailer written; the second has no run. -/
theorem emptyRun_ended : let s := State.cvuEnd { emptyRun.stopWork 0 with free := (emptyRun.stopWork 0).free + 1 } 0 0 0 0 4 0
    s.fget CVU_STATUS_STATE 0 1 ≠ 1 ∧ s.byte (scratchBase 0) = 1#8 := by decide +kernel

theorem emptyRun_stopChamber : (emptyRun.stopChamber 0).byte (scratchBase 0) = 1#8 := by
  obtain ⟨hg, hrun, hlen, hn⟩ := emptyRun_stopWork
  obtain ⟨hidle, hbyte⟩ := emptyRun_ended
  rw [State.stopChamber_of_noQueues emptyRun_draining_noQueues, hg, List.foldl_cons, List.foldl_nil, State.stopCvus,
    State.cvuStop_emptyRange 4 0 hrun hlen hn, State.cvuStop_idle 4 0 hidle, hbyte]

/-- Refutes O25: stopping a chamber stops its check-value runs (R640), and a run of a mode that writes leaves in memory what it has
digested by then. How far a run has come is a free value; the counterexample is a run over an empty range, which has always reached its
end and writes its trailer. (GO refuses an empty range, R636; the statement holds of every state. A run of mode 4 that has digested a
chunk writes its table entry in the same way.) -/
theorem not_chamberGoesLive : ¬ Obligations.ChamberGoesLive := by
  intro h
  obtain ⟨hstop, -⟩ := h emptyRun 0 (by decide)
  obtain ⟨-, hkeeps⟩ := hstop emptyRun_noQueues rfl (fun _ => rfl)
  have hsame := hkeeps (scratchBase 0)
  rw [emptyRun_stopChamber] at hsame
  exact absurd hsame (by decide +kernel)

end Sys2Proof.Machine
end

section
/-! PROOFS. O22 and O23: staging a survey, COMMIT and ABORT, and the staging window. -/

namespace Sys2Proof.Machine

/-! ### The flash slots and SVY_STATUS (R113, R114) -/

/-- A field reads the same in two states with the same register file. -/
theorem State.fget_congr {s t : State} (h : s.regs = t.regs) (f : Fld) (i j : Nat) : s.fget f i j = t.fget f i j := by
  simp only [State.fget, State.rget, h]

theorem State.keepsMemory_of_mem {s t : State} (h : t.mem = s.mem) : s.KeepsMemory t := fun a => by
  simp only [State.byte, h]

theorem State.activeSlot_lt (s : State) : s.activeSlot < 2 := s.fget_lt SVY_FLASH_ACTIVE 0 0

theorem State.surveySlot_setSurveySlot_self (s : State) (k : Nat) (b : List Byte) : (s.setSurveySlot k b).surveySlot k = b := by
  unfold State.setSurveySlot State.surveySlot
  split <;> rfl

/-- The active slot as the inactive one is replaced. -/
theorem State.surveySlot_setSurveySlot_active (s : State) (b : List Byte) :
    (s.setSurveySlot (1 - s.activeSlot) b).surveySlot s.activeSlot = s.surveySlot s.activeSlot := by
  have hlt := s.activeSlot_lt
  by_cases h : s.activeSlot = 0
  · simp [State.setSurveySlot, State.surveySlot, h]
  · simp [State.setSurveySlot, State.surveySlot, h, show 1 - s.activeSlot = 0 by omega]

/-- A slot's replacement writes the loader's state only. -/
theorem State.setSurveySlot_frame (s : State) (k : Nat) (b : List Byte) : { s.setSurveySlot k b with svy := s.svy } = s := by
  unfold State.setSurveySlot
  split <;> rfl

theorem State.setSurveySlot_mem (s : State) (k : Nat) (b : List Byte) : (s.setSurveySlot k b).mem = s.mem :=
  (congrArg State.mem (s.setSurveySlot_frame k b) :)

theorem State.setSurveySlot_strands (s : State) (k : Nat) (b : List Byte) : (s.setSurveySlot k b).strands = s.strands :=
  (congrArg State.strands (s.setSurveySlot_frame k b) :)

theorem State.fget_setStatus_state (s : State) {state code section_ : Nat} (hstate : state < 16) (hcode : code < 256)
    (hsection : section_ < 2 ^ 16) : (s.setStatus state code section_).fget SVY_STATUS_STATE = state := by
  refine (s.fget_wset_self SVY_STATUS_STATE _ 0 0).trans ?_
  simp only [bitsOf_eq, SVY_STATUS_STATE]
  omega

theorem State.fget_setStatus_code (s : State) {state code section_ : Nat} (hcode : code < 256) (hsection : section_ < 2 ^ 16) :
    (s.setStatus state code section_).fget SVY_STATUS_ERR_CODE = code := by
  refine (s.fget_wset_self SVY_STATUS_ERR_CODE _ 0 0).trans ?_
  simp only [bitsOf_eq, SVY_STATUS_ERR_CODE]
  omega

/-! ### STAGE, COMMIT and ABORT (R93 to R95, R110) -/

theorem execSvyStage_owner {s : State} {r : Requester} (h : s.ownerSession r = true) : exec (.svyStage r) s = .next s.svyStage :=
  next_congr (if_pos h)

theorem execSvyCommit_owner {s : State} {r : Requester} (h : s.ownerSession r = true) :
    exec (.svyCommit r) s = .next (s.svyCommit (s.fget CTP_OWNER_SLOT) false).2 := next_congr (if_pos h)

theorem execSvyAbort_owner {s : State} {r : Requester} (h : s.ownerSession r = true) : exec (.svyAbort r) s = .next s.svyAbort :=
  next_congr (if_pos h)

/-- Anybody else's write of SVY_CTRL counts as a refusal. -/
theorem execSvyCtrl_other {s : State} {r : Requester} (h : s.ownerSession r = false) :
    exec (.svyStage r) s = .next (s.bump SVY_REFUSALS_COUNT) ∧ exec (.svyCommit r) s = .next (s.bump SVY_REFUSALS_COUNT) ∧
      exec (.svyAbort r) s = .next (s.bump SVY_REFUSALS_COUNT) := by
  have hne : ¬ s.ownerSession r = true := by rw [h]; decide
  exact ⟨next_congr (if_neg hne), next_congr (if_neg hne), next_congr (if_neg hne)⟩

/-- The inactive slot erased and no longer valid, and the loader STAGING. -/
def State.erased (s : State) : State :=
  ((s.setSurveySlot (1 - s.activeSlot) []).setValid (1 - s.activeSlot) false).setStatus svyStaging 0 none16

theorem State.erased_svy (s : State) : s.erased.svy = (s.setSurveySlot (1 - s.activeSlot) []).svy := rfl

theorem State.erased_mem (s : State) : s.erased.mem = s.mem := s.setSurveySlot_mem _ _

theorem State.erased_strands (s : State) : s.erased.strands = s.strands := s.setSurveySlot_strands _ _

theorem State.fget_erased_state (s : State) : s.erased.fget SVY_STATUS_STATE = svyStaging :=
  State.fget_setStatus_state _ (by decide) (by decide) (by decide)

theorem State.surveySlot_erased (s : State) (k : Nat) :
    s.erased.surveySlot k = (s.setSurveySlot (1 - s.activeSlot) []).surveySlot k := by
  simp only [State.surveySlot, State.erased_svy]

/-- STAGE with no load: bytes that waited to be programmed are dropped. -/
theorem State.svyStage_erased {s : State} (h : s.svy.load = none) : s.svyStage = { s.erased with svy := { s.erased.svy with
    unprogrammed := s.erased.svy.unprogrammed.map (fun (x : Staged) => { x with bytes := [] }) } } :=
  if_neg (by rw [h]; decide)

theorem State.svyStage_opens {s : State} (h : s.svy.load = none) :
    s.svyStage.fget SVY_STATUS_STATE = svyStaging ∧ s.svyStage.surveySlot (1 - s.activeSlot) = [] ∧
      s.svyStage.surveySlot s.activeSlot = s.surveySlot s.activeSlot ∧ s.KeepsMemory s.svyStage ∧
      s.svyStage.strands = s.strands := by
  have he := State.svyStage_erased h
  have hslot : ∀ k, s.svyStage.surveySlot k = (s.setSurveySlot (1 - s.activeSlot) []).surveySlot k := fun k => by
    rw [← s.surveySlot_erased, he]
    rfl
  refine ⟨?_, (hslot _).trans (s.surveySlot_setSurveySlot_self _ _), (hslot _).trans (s.surveySlot_setSurveySlot_active _),
    State.keepsMemory_of_mem ?_, ?_⟩
  · exact (State.fget_congr (congrArg State.regs he) _ _ _).trans s.fget_erased_state
  · exact (congrArg State.mem he).trans s.erased_mem
  · exact (congrArg State.strands he).trans s.erased_strands

theorem State.svyStage_loading {s : State} (h : s.svy.load.isSome = true) : s.svyStage = s.bump SVY_REFUSALS_COUNT := if_pos h

/-- COMMIT that is not BUSY. -/
theorem State.svyCommit_starts {s : State} (h : s.commitBusy = false) (session : Nat) (viaMgc : Bool) :
    s.svyCommit session viaMgc = (true, { s.setStatus svyChecking 0 none16 with svy := { s.svy with
      load := some { phase := .checking, session := session, viaMgc := viaMgc, image := [], changed := [] } } }) :=
  if_neg (by rw [h]; decide)

theorem State.svyCommit_busy {s : State} (h : s.commitBusy = true) (session : Nat) (viaMgc : Bool) :
    s.svyCommit session viaMgc = (false, s.bump SVY_REFUSALS_COUNT) := if_pos h

theorem execSvyCommit_starts {s : State} {r : Requester} (ho : s.ownerSession r = true) (h : s.commitBusy = false) :
    ∃ s', exec (.svyCommit r) s = .next s' ∧ s'.fget SVY_STATUS_STATE = svyChecking ∧
      s'.svy.load = some { phase := .checking, session := s.fget CTP_OWNER_SLOT, viaMgc := false, image := [], changed := [] } ∧
      s'.svy.slotA = s.svy.slotA ∧ s'.svy.slotB = s.svy.slotB ∧ s.KeepsMemory s' := by
  refine ⟨_, execSvyCommit_owner ho, ?_⟩
  rw [State.svyCommit_starts h]
  refine ⟨?_, rfl, rfl, rfl, fun _ => rfl⟩
  exact (State.fget_congr (t := s.setStatus svyChecking 0 none16) rfl _ _ _).trans
    (s.fget_setStatus_state (by decide) (by decide) (by decide))

/-- The end of a load that no management item posted. -/
theorem State.endLoad_of_port {s : State} (h : ∀ l, s.svy.load = some l → l.viaMgc = false) (code : Nat) :
    s.endLoad code = { s with svy := { s.svy with load := none } } := by
  unfold State.endLoad
  split
  next l hl => simp only [h l hl, Bool.not_false, if_true]
  next => rfl

/-- A load is refused while none has begun: SVY_STATUS says why. -/
theorem State.refuseLoad_status {s : State} (h : s.svy.load = none) {code : Nat} (hc : code < 256) :
    (s.refuseLoad code 0xFFFF).fget SVY_STATUS_STATE = svyRefused ∧ (s.refuseLoad code 0xFFFF).fget SVY_STATUS_ERR_CODE = code := by
  have hnone : ∀ l, ((s.setStatus svyRefused code 0xFFFF).svyRefusal).svy.load = some l → l.viaMgc = false := by
    rw [State.svyRefusal, State.bump_svy, State.setStatus, State.wset_svy, h]
    nofun
  have hregs : (s.refuseLoad code 0xFFFF).regs = ((s.setStatus svyRefused code 0xFFFF).svyRefusal).regs := by
    rw [State.refuseLoad, State.endLoad_of_port hnone]
  have hr : ∀ g : Fld, g.reg = SVY_STATUS → (s.refuseLoad code 0xFFFF).fget g = (s.setStatus svyRefused code 0xFFFF).fget g :=
    fun g hg => (State.fget_congr hregs g 0 0).trans (State.fget_fset_ne _ _ g _ 0 0 0 0 (by rw [hg]; decide))
  rw [hr _ rfl, hr _ rfl]
  exact ⟨s.fget_setStatus_state (by decide) hc (by decide), s.fget_setStatus_code hc (by decide)⟩

/-- Settles O22. -/
theorem surveyStaging : Obligations.SurveyStaging := by
  refine fun s r => ⟨fun ho hl => ⟨_, execSvyStage_owner ho, State.svyStage_opens hl⟩, fun ho hl => ?_,
    execSvyCommit_starts, fun ho hb => ?_, fun ho hst => ?_, fun ho hs hc => ?_, execSvyCtrl_other,
    fun hl _ hc => State.refuseLoad_status hl hc⟩
  · rw [execSvyStage_owner ho, State.svyStage_loading hl]
  · rw [execSvyCommit_owner ho, State.svyCommit_busy hb]
  · exact (execSvyAbort_owner ho).trans (next_congr (if_pos hst))
  · exact (execSvyAbort_owner ho).trans (next_congr (if_neg (not_or.mpr ⟨hs, hc⟩)))

/-! ### The staging window (R94, R719) -/

theorem State.windowWrite_taken {s : State} {r : Requester} {off : Nat} {bs : List Byte} (ho : s.ownerSession r = true)
    (hst : s.svyState = svyStaging) (hend : off + bs.length ≤ 2 ^ 25) (answer : Option (Nat × Nat × Nat × Nat)) :
    s.windowWrite r off bs answer = (true, { s with svy := { s.svy with
      unprogrammed := s.svy.unprogrammed ++ [{ off := off, bytes := bs, answer := answer }] } }) :=
  if_pos (by rw [ho, hst, decide_eq_true hend]; rfl)

theorem State.windowWrite_refused {s : State} {r : Requester} (h : s.ownerSession r = false ∨ s.svyState ≠ svyStaging) (off : Nat)
    (bs : List Byte) (answer : Option (Nat × Nat × Nat × Nat)) :
    s.windowWrite r off bs answer = (false, s.bump SVY_REFUSALS_COUNT ((bs.length + 3) / 4)) :=
  if_neg (by rcases h with h | h <;> simp [h])

/-- The oldest staged bytes written into the inactive slot, and no longer waiting. -/
def State.programmed (s : State) (x : Staged) (rest : List Staged) : State :=
  let t := s.setSurveySlot (1 - s.activeSlot) (flashWrite (s.surveySlot (1 - s.activeSlot)) x.off x.bytes)
  { t with svy := { t.svy with unprogrammed := rest } }

theorem State.surveySlot_programmed (s : State) (x : Staged) (rest : List Staged) :
    (s.programmed x rest).surveySlot (1 - s.activeSlot) = flashWrite (s.surveySlot (1 - s.activeSlot)) x.off x.bytes :=
  s.surveySlot_setSurveySlot_self _ _

theorem State.surveySlot_programmed_active (s : State) (x : Staged) (rest : List Staged) :
    (s.programmed x rest).surveySlot s.activeSlot = s.surveySlot s.activeSlot := s.surveySlot_setSurveySlot_active _

theorem State.programmed_frame (s : State) (x : Staged) (rest : List Staged) : { s.programmed x rest with svy := s.svy } = s :=
  s.setSurveySlot_frame _ _

theorem execStageBytesProgrammed_silent {s : State} {x : Staged} {rest : List Staged} (h : s.svy.unprogrammed = x :: rest)
    (hx : x.bytes ≠ []) (ha : x.answer = none) : exec .stageBytesProgrammed s = .next (s.programmed x rest) := by
  show execStageBytesProgrammed s = _
  simp only [execStageBytesProgrammed, h, List.isEmpty_eq_false_iff.mpr hx, ha, Bool.false_eq_true, if_false]
  rfl

/-- The REG_WRITE that carried the bytes is answered once they are programmed (R719). -/
theorem execStageBytesProgrammed_answers {s : State} {x : Staged} {rest : List Staged} {slot type seq cause : Nat}
    (h : s.svy.unprogrammed = x :: rest) (hx : x.bytes ≠ []) (ha : x.answer = some (slot, type, seq, cause)) :
    exec .stageBytesProgrammed s = .next ((s.programmed x rest).answerLater slot type seq cause []) := by
  show execStageBytesProgrammed s = _
  simp only [execStageBytesProgrammed, h, List.isEmpty_eq_false_iff.mpr hx, ha, Bool.false_eq_true, if_false]
  rfl

/-- Settles O23. -/
theorem stagingWindow : Obligations.StagingWindow := by
  refine fun s r off words => ⟨fun ho hst hoff hend => ?_, fun h => ?_, fun x rest h ha hx => ?_,
    fun x rest slot type seq cause h ha hx => ?_⟩
  · have hmul : off / 4 * 4 = off := by omega
    have he : exec (.stagingWindowWrite r off words) s =
        .next (s.windowWrite r off (words.flatMap (fun w => leBytes 4 w.toNat)) none).2 := by
      show execStagingWindowWrite r off words s = _
      rw [execStagingWindowWrite, hmul]
    exact ⟨_, he.trans (next_congr (congrArg Prod.snd (State.windowWrite_taken ho hst hend none))), rfl, rfl⟩
  · show execStagingWindowWrite r off words s = _
    rw [execStagingWindowWrite, State.windowWrite_refused h]
  · exact ⟨s.programmed x rest, execStageBytesProgrammed_silent h hx ha, rfl, s.surveySlot_programmed x rest,
      s.surveySlot_programmed_active x rest, s.programmed_frame x rest⟩
  · exact ⟨s.programmed x rest, execStageBytesProgrammed_answers h hx ha, rfl, s.surveySlot_programmed x rest,
      s.programmed_frame x rest⟩

end Sys2Proof.Machine
end

section
/-! PROOFS. O24: the steps of a survey load after COMMIT. -/

namespace Sys2Proof.Machine

/-! ### What a list of operations leaves as it was -/

theorem State.foldl_keeps {α β : Type} (p : State → β) {f : State → α → State} (h : ∀ s a, p (f s a) = p s) (l : List α)
    (s : State) : p (l.foldl f s) = p s := by
  induction l generalizing s with
  | nil => rfl
  | cons a l ih => exact (ih _).trans (h s a)

/-- A map whose values are changed by a function that keeps the default. -/
theorem smGet_map {α : Type} (f : α → α) {d : α} (hd : f d = d) (m : List (Nat × α)) (k : Nat) :
    smGet (fun _ => d) (m.map (fun e => (e.1, f e.2))) k = f (smGet (fun _ => d) m k) := by
  induction m with
  | nil => exact hd.symm
  | cons e m ih =>
    simp only [List.map_cons, smGet, ih]
    split <;> rfl

/-- Memory, the loader and the slots are these. -/
structure State.Holds (s : State) (mem : List Host.Cell) (svy : Survey) (slots : List (Nat × Slot)) : Prop where
  mem_eq : s.mem = mem
  svy_eq : s.svy = svy
  slots_eq : s.slots = slots

section Holds

variable {s : State} {mem : List Host.Cell} {svy : Survey} {slots : List (Nat × Slot)}

theorem State.holds_self (s : State) : s.Holds s.mem s.svy s.slots := ⟨rfl, rfl, rfl⟩

theorem State.Holds.fset (h : s.Holds mem svy slots) (f : Fld) (v i j : Nat) : (s.fset f v i j).Holds mem svy slots :=
  ⟨h.mem_eq, h.svy_eq, h.slots_eq⟩

theorem State.Holds.rput (h : s.Holds mem svy slots) (a : Nat) (w : Word) : (s.rput a w).Holds mem svy slots :=
  ⟨h.mem_eq, h.svy_eq, h.slots_eq⟩

theorem State.Holds.resetRange (h : s.Holds mem svy slots) (lo hi : Nat) : (s.resetRange lo hi).Holds mem svy slots :=
  ⟨h.mem_eq, h.svy_eq, h.slots_eq⟩

theorem State.Holds.setSample (h : s.Holds mem svy slots) (c : Nat) (v : Option Nat) : (s.setSample c v).Holds mem svy slots :=
  ⟨h.mem_eq, h.svy_eq, h.slots_eq⟩

theorem State.Holds.foldl {α : Type} {f : State → α → State} (h : s.Holds mem svy slots)
    (hf : ∀ t a, t.Holds mem svy slots → (f t a).Holds mem svy slots) (l : List α) : (l.foldl f s).Holds mem svy slots :=
  List.foldlRecOn l f h fun t ht a _ => hf t a ht

/-! ### Zeroisation (R106 to R109) -/

theorem State.Holds.setPoison (h : s.Holds mem svy slots) (a : Nat) (on : Bool) : (s.setPoison a on).Holds mem svy slots := by
  unfold State.setPoison
  split
  · exact h
  · extract_lets m t
    have ht : t.Holds mem svy slots := ⟨h.mem_eq, h.svy_eq, h.slots_eq⟩
    clear_value t
    split
    · split
      · exact ht.fset _ _ _ _
      · exact ht.fset _ _ _ _
    · exact ht

/-- The bytes of chamber `n` that lie on stack `st`. -/
def State.onStack (s : State) (n st a : Nat) : Bool :=
  hbmBase n ≤ a && a < hbmBase n + (s.chamber n).memSize && ((s.chamber n).interleave (a - hbmBase n)).1 == st

theorem State.onStack_iff (s : State) (n st a : Nat) : s.onStack n st a = true ↔
    hbmBase n ≤ a ∧ a < hbmBase n + (s.chamber n).memSize ∧ ((s.chamber n).interleave (a - hbmBase n)).1 = st := by
  simp [State.onStack, and_assoc]

theorem State.holds_zeroStack (s : State) (n st : Nat) :
    (s.zeroStack n st).Holds (smClear (s.onStack n st) s.mem) s.svy s.slots := by
  unfold State.zeroStack
  extract_lets c mine t lines
  have ht : t.Holds s.mem s.svy s.slots := s.holds_self.foldl (fun _ _ h => h.setPoison _ _) _
  clear_value t
  obtain ⟨hmem, hsvy, hslots⟩ := ht
  exact ⟨congrArg (smClear (s.onStack n st)) hmem, hsvy, hslots⟩

/-- The SRAM of gallery `g`: its cores' scratchpads and its strand store (R381). -/
def inSram (g a : Nat) : Bool :=
  (scratchBase (8 * g) ≤ a && a < scratchBase (8 * g + 8)) || (storeBase g ≤ a && a < storeBase (g + 1))

theorem State.Holds.zeroGallery (h : s.Holds mem svy slots) (g : Nat) :
    (s.zeroGallery g).Holds (smClear (inSram g) mem) svy slots := by
  unfold State.zeroGallery
  extract_lets e scan inCore t u v sram inGallery
  have ht : t.Holds mem svy slots := h.foldl (fun _ _ ht => ((ht.resetRange _ _).rput _ _).setSample _ _) _
  clear_value t
  have hv : v.Holds mem svy slots := ((ht.resetRange _ _).fset _ _ _ _).fset _ _ _ _
  clear_value v
  obtain ⟨hmem, hsvy, hslots⟩ := hv
  exact ⟨congrArg (smClear (inSram g)) hmem, hsvy, hslots⟩

/-- The galleries of a list zeroised, one after the other. -/
theorem State.Holds.zeroGalleries (h : s.Holds mem svy slots) (l : List Nat) :
    (l.foldl (fun s g => s.zeroGallery g) s).Holds (l.foldl (fun m g => smClear (inSram g) m) mem) svy slots := by
  induction l generalizing s mem with
  | nil => exact h
  | cons g l ih =>
    rw [List.foldl_cons, List.foldl_cons]
    exact ih (h.zeroGallery g)

theorem State.Holds.setFifo (h : s.Holds mem svy slots) (c : Nat) (x : Fifo) : (s.setFifo c x).Holds mem svy slots := by
  unfold State.setFifo
  extract_lets m t u
  have ht : t.Holds mem svy slots := ⟨h.mem_eq, h.svy_eq, h.slots_eq⟩
  exact (ht.fset _ _ _ _).fset _ _ _ _

theorem State.Holds.emptyFifos (h : s.Holds mem svy slots) (n : Nat) : (s.emptyFifos n).Holds mem svy slots := by
  have ht := h.foldl (fun _ c ht => ht.setFifo c Fifo.empty) (s.traceCores n)
  exact ⟨ht.mem_eq, ht.svy_eq, ht.slots_eq⟩

theorem State.Holds.truClear (h : s.Holds mem svy slots) (n : Nat) : (s.truClear n).Holds mem svy slots := by
  unfold State.truClear
  extract_lets cores t m u
  have ht : t.Holds mem svy slots := h.emptyFifos n
  clear_value t
  have hu : u.Holds mem svy slots := ⟨ht.mem_eq, ht.svy_eq, ht.slots_eq⟩
  exact hu.resetRange _ _

/-- A slot of chamber `n` emptied, with its generation (R106). -/
def Slot.zeroed (n : Nat) (x : Slot) : Slot := if x.owner == some n then { Slot.none with gen := x.gen } else x

theorem zeroedSlots_eq (n : Nat) (l : List (Nat × Slot)) :
    l.map (fun e => if e.2.owner == some n then (e.1, { Slot.none with gen := e.2.gen }) else e) =
      l.map (fun e => (e.1, e.2.zeroed n)) := by
  refine List.map_congr_left fun e _ => ?_
  unfold Slot.zeroed
  split <;> rfl

theorem State.holds_zeroUnits (s : State) (n : Nat) :
    (s.zeroUnits n).Holds ((s.galleriesOf n).foldl (fun m g => smClear (inSram g) m) s.mem) s.svy
      (s.slots.map (fun e => (e.1, e.2.zeroed n))) := by
  unfold State.zeroUnits
  extract_lets t empty rte u v w x y
  have ht := s.holds_self.zeroGalleries (s.galleriesOf n)
  have hu : u.Holds _ s.svy (s.slots.map (fun e => (e.1, e.2.zeroed n))) :=
    ⟨ht.mem_eq, ht.svy_eq, (zeroedSlots_eq n t.slots).trans (congrArg _ ht.slots_eq)⟩
  clear_value u
  have hy : y.Holds _ s.svy _ := (((hu.truClear n).resetRange _ _).resetRange _ _).resetRange _ _
  clear_value y
  exact hy.foldl (fun _ _ h => (h.resetRange _ _).resetRange _ _) _

end Holds

/-- The bytes of one share of chamber `n`: its granules on a stack, or the SRAM of its galleries (R108). -/
def State.inShare (s : State) (n : Nat) (share : Option Nat) (a : Nat) : Bool :=
  share.elim ((s.galleriesOf n).any (inSram · a)) (s.onStack n · a)

theorem smGet_clearedBy {p : Nat → Nat → Bool} (l : List Nat) (m : List Host.Cell) (a : Nat) :
    smGet memDefault (l.foldl (fun m g => smClear (p g) m) m) a = if l.any (p · a) then 0#8 else smGet memDefault m a := by
  induction l generalizing m with
  | nil => rfl
  | cons g l ih =>
    rw [List.foldl_cons, ih, smGet_smClear, List.any_cons]
    cases p g a <;> cases l.any (p · a) <;> rfl

/-- A share done: its bytes are 0 and no other changes, it is no longer outstanding, and with the galleries' share the slots are
empty. -/
theorem State.zeroShare_spec (s : State) (n : Nat) (share : Option Nat) :
    (∀ a, (s.zeroShare n share).byte a = if s.inShare n share a then 0#8 else s.byte a) ∧
      (s.zeroShare n share).svy.zeroing = s.svy.zeroing.filter (fun e => e != (n, share)) ∧
      (s.zeroShare n share).slots = share.elim (s.slots.map (fun e => (e.1, e.2.zeroed n))) (fun _ => s.slots) := by
  have key : ∃ mem, (s.zeroShare n share).Holds mem { s.svy with zeroing := s.svy.zeroing.filter (fun e => e != (n, share)) }
      (share.elim (s.slots.map (fun e => (e.1, e.2.zeroed n))) (fun _ => s.slots)) ∧
      ∀ a, smGet memDefault mem a = if s.inShare n share a then 0#8 else s.byte a := by
    unfold State.zeroShare
    extract_lets t m u
    have ht : ∃ mem, t.Holds mem s.svy (share.elim (s.slots.map (fun e => (e.1, e.2.zeroed n))) (fun _ => s.slots)) ∧
        ∀ a, smGet memDefault mem a = if s.inShare n share a then 0#8 else s.byte a := by
      cases share with
      | none => exact ⟨_, s.holds_zeroUnits n, smGet_clearedBy _ _⟩
      | some st => exact ⟨_, (s.holds_zeroStack n st).fset _ _ _ _, smGet_smClear _ _ _⟩
    clear_value t
    obtain ⟨mem, ⟨hmem, hsvy, hslots⟩, hbyte⟩ := ht
    have hu : u.Holds mem { s.svy with zeroing := s.svy.zeroing.filter (fun e => e != (n, share)) } _ :=
      ⟨hmem, by rw [← hsvy], hslots⟩
    clear_value u
    refine ⟨mem, ?_, hbyte⟩
    split
    · exact hu
    · exact hu.fset _ _ _ _
  obtain ⟨mem, ⟨hmem, hsvy, hslots⟩, hbyte⟩ := key
  exact ⟨fun a => by rw [State.byte, hmem, hbyte], by rw [hsvy], hslots⟩

theorem execZeroiseDone_spec (s : State) (n : Nat) (share : Option Nat) :
    (s.svy.zeroing.contains (n, share) = true → exec (.zeroiseDone n share) s = .next (s.zeroShare n share) ∧
        (s.zeroShare n share).svy.zeroing = s.svy.zeroing.filter (fun e => e != (n, share))) ∧
      (s.svy.zeroing.contains (n, share) = false → exec (.zeroiseDone n share) s = .next s) :=
  ⟨fun h => ⟨next_congr (if_pos h), (s.zeroShare_spec n share).2.1⟩, fun h => next_congr (if_neg (by rw [h]; decide))⟩

theorem State.zeroShare_stack (s : State) (n st : Nat) : let t := s.zeroShare n (some st)
    (∀ a, hbmBase n ≤ a → a < hbmBase n + (s.chamber n).memSize → ((s.chamber n).interleave (a - hbmBase n)).1 = st →
      t.byte a = 0#8) ∧
    (∀ a, ¬ (hbmBase n ≤ a ∧ a < hbmBase n + (s.chamber n).memSize ∧ ((s.chamber n).interleave (a - hbmBase n)).1 = st) →
      t.byte a = s.byte a) := by
  obtain ⟨hbyte, -⟩ := s.zeroShare_spec n (some st)
  exact ⟨fun a hlo hhi hst => (hbyte a).trans (if_pos ((s.onStack_iff n st a).mpr ⟨hlo, hhi, hst⟩)),
    fun a hout => (hbyte a).trans (if_neg (mt (s.onStack_iff n st a).mp hout))⟩

theorem State.slot_zeroShare (s : State) (n id : Nat) : (s.zeroShare n none).slot id = (s.slot id).zeroed n := by
  have hd : Slot.none.zeroed n = Slot.none := rfl
  obtain ⟨-, -, hslots⟩ := s.zeroShare_spec n none
  exact (congrArg (smGet (fun _ => Slot.none) · id) hslots).trans (smGet_map (Slot.zeroed n) hd s.slots id)

theorem State.zeroShare_units (s : State) (n : Nat) : let t := s.zeroShare n none
    (∀ g a, g ∈ s.galleriesOf n → scratchBase (8 * g) ≤ a → a < scratchBase (8 * g + 8) → t.byte a = 0#8) ∧
    (∀ id, (s.slot id).owner = some n →
      (t.slot id).owner = none ∧ (t.slot id).content = [] ∧ (t.slot id).gen = (s.slot id).gen) := by
  obtain ⟨hbyte, -⟩ := s.zeroShare_spec n none
  refine ⟨fun g a hg hlo hhi => (hbyte a).trans (if_pos (List.any_eq_true.mpr ⟨g, hg, ?_⟩)), fun id ho => ?_⟩
  · simp [inSram, hlo, hhi]
  · rw [s.slot_zeroShare, Slot.zeroed, if_pos (by rw [ho, beq_self_eq_true])]
    exact ⟨rfl, rfl, rfl⟩

/-! ### SVY_CHECK, SVY_ZEROISE and SVY_APPLY (R95, R99, R102, R106) -/

theorem State.setStatus_plain (s : State) (state : Nat) :
    s.setStatus state 0 none16 = s.wset SVY_STATUS (state * 2 ^ 28 + 0xFFFF) := by
  rw [State.setStatus, Nat.zero_mul, Nat.add_zero, none16]

/-- The staged image. -/
def State.stagedImage (s : State) : List Byte := flashRead (s.surveySlot (1 - s.activeSlot)) (s.fget SVY_STAGE_LEN_LEN)

section Load

variable {s u : State} {l : Load} (hl : s.svy.load = some l)
include hl

theorem execSvyCheck_refused {f : Failed} (hp : l.phase = .checking) (hw : s.svy.unprogrammed = [])
    (hc : s.checkStaged l.session s.stagedImage (s.fget SVY_STAGE_LEN_LEN) = (some f, u)) :
    exec .svyCheck s = .next (u.refuseLoad f.1 f.2) := by
  show execSvyCheck s = _
  rw [State.stagedImage] at hc
  simp only [execSvyCheck, hl, hp, hw, hc, ne_eq, not_true_eq_false, List.isEmpty_nil, Bool.true_eq_false, or_self, if_false]

theorem execSvyCheck_commits (hp : l.phase = .checking) (hw : s.svy.unprogrammed = [])
    (hc : s.checkStaged l.session s.stagedImage (s.fget SVY_STAGE_LEN_LEN) = (none, u)) :
    let changed := u.changedBy s.stagedImage
    let v := u.wset SVY_STATUS (3 * 2 ^ 28 + 0xFFFF)
    let x : State := { v with svy := { v.svy with
      load := some { l with phase := .draining, image := s.stagedImage, changed := changed } } }
    exec .svyCheck s = .next ((changed.filter x.chLive).foldl (fun s n => s.stopChamber n) x) := by
  show execSvyCheck s = _
  rw [State.stagedImage] at hc
  simp only [execSvyCheck, hl, hp, hw, hc, ne_eq, not_true_eq_false, List.isEmpty_nil, Bool.true_eq_false, or_self, if_false,
    State.setStatus_plain, svyDraining, State.stagedImage]

theorem execSvyZeroise_drained (hp : l.phase = .draining)
    (hd : (l.changed.filter (fun n => (s.chamber n).kind != 0)).all s.drained = true) : exec .svyZeroise s =
      .next ((l.changed.filter (fun n => (s.chamber n).kind != 0)).foldl (fun s n => s.zeroBegin n)
        ((s.wset SVY_STATUS (4 * 2 ^ 28 + 0xFFFF)).loadPhase l .zeroising)) := by
  show execSvyZeroise s = _
  simp only [execSvyZeroise, hl, hp, hd, ne_eq, not_true_eq_false, Bool.true_eq_false, or_self, if_false, State.setStatus_plain,
    svyZeroising]

theorem execSvyZeroise_draining (hd : (l.changed.filter (fun n => (s.chamber n).kind != 0)).all s.drained = false) :
    exec .svyZeroise s = .next s := by
  show execSvyZeroise s = _
  simp only [execSvyZeroise, hl, hd, or_true, if_true]

theorem execSvyApply_zeroised (hp : l.phase = .zeroising) (hz : s.svy.zeroing = []) : exec .svyApply s =
    .next ((l.changed.foldl (fun s n => s.applyChamber l.image n)
      ((s.wset SVY_STATUS (5 * 2 ^ 28 + 0xFFFF)).loadPhase l .applying)).applyPorts (portsOf l.image)) := by
  show execSvyApply s = _
  simp only [execSvyApply, hl, hp, hz, ne_eq, not_true_eq_false, List.isEmpty_nil, Bool.true_eq_false, or_self, if_false,
    State.setStatus_plain, svyApplying]

theorem execSvyApply_zeroising (hz : s.svy.zeroing ≠ []) : exec .svyApply s = .next s := by
  show execSvyApply s = _
  simp only [execSvyApply, hl, List.isEmpty_eq_false_iff.mpr hz, or_true, if_true]

/-- A load in another phase is left as it is. -/
theorem execSvy_otherPhase : (l.phase ≠ .checking → exec .svyCheck s = .next s) ∧
    (l.phase ≠ .draining → exec .svyZeroise s = .next s) ∧ (l.phase ≠ .zeroising → exec .svyApply s = .next s) ∧
    (l.phase ≠ .applying → exec .svyFlip s = .next s) := by
  refine ⟨fun hp => ?_, fun hp => ?_, fun hp => ?_, fun hp => ?_⟩
  · show execSvyCheck s = _
    simp only [execSvyCheck, hl, hp, ne_eq, not_false_eq_true, true_or, if_true]
  · show execSvyZeroise s = _
    simp only [execSvyZeroise, hl, hp, ne_eq, not_false_eq_true, true_or, if_true]
  · show execSvyApply s = _
    simp only [execSvyApply, hl, hp, ne_eq, not_false_eq_true, true_or, if_true]
  · show execSvyFlip s = _
    simp only [execSvyFlip, hl, hp, ne_eq, not_false_eq_true, if_true]

end Load

/-! ### A chamber that becomes LIVE (R91, R99 step 8, R116) -/

/-- Memory, the loader and every register below `lo` are as before. -/
structure State.KeepsLow (lo : Nat) (s t : State) : Prop where
  mem_eq : t.mem = s.mem
  svy_eq : t.svy = s.svy
  rget_eq : ∀ a < lo, t.rget a = s.rget a

section KeepsLow

variable {lo : Nat} {s t u : State}

theorem State.KeepsLow.refl (lo : Nat) (s : State) : s.KeepsLow lo s := ⟨rfl, rfl, fun _ _ => rfl⟩

theorem State.KeepsLow.trans (h : s.KeepsLow lo t) (h' : t.KeepsLow lo u) : s.KeepsLow lo u :=
  ⟨h'.mem_eq.trans h.mem_eq, h'.svy_eq.trans h.svy_eq, fun a ha => (h'.rget_eq a ha).trans (h.rget_eq a ha)⟩

theorem State.KeepsLow.mono {hi : Nat} (h : s.KeepsLow hi t) (hle : lo ≤ hi) : s.KeepsLow lo t :=
  ⟨h.mem_eq, h.svy_eq, fun a ha => h.rget_eq a (by omega)⟩

theorem State.KeepsLow.fget_eq (h : s.KeepsLow lo t) (f : Fld) (i j : Nat) (ha : regAddr f.reg i j < lo) :
    t.fget f i j = s.fget f i j := by
  simp only [State.fget, h.rget_eq _ ha]

theorem State.KeepsLow.fset (h : s.KeepsLow lo t) (f : Fld) (v i j : Nat) (ha : lo ≤ f.reg.base) :
    s.KeepsLow lo (t.fset f v i j) :=
  h.trans ⟨rfl, rfl, fun a hlt => t.rget_fset_ne f v i j a (by simp only [regAddr]; omega)⟩

theorem State.KeepsLow.setDomain (h : s.KeepsLow lo t) (d : Nat) (x : PwrDomain) : s.KeepsLow lo (t.setDomain d x) :=
  h.trans ⟨rfl, rfl, fun _ _ => rfl⟩

theorem State.KeepsLow.emit (h : s.KeepsLow lo t) (e : OutEvent) : s.KeepsLow lo (t.emit e) :=
  h.trans ⟨rfl, rfl, fun _ _ => rfl⟩

theorem State.KeepsLow.foldl {α : Type} {f : State → α → State} (h : s.KeepsLow lo t)
    (hf : ∀ u a, s.KeepsLow lo u → s.KeepsLow lo (f u a)) (l : List α) : s.KeepsLow lo (l.foldl f t) :=
  List.foldlRecOn l f h fun u hu a _ => hf u a hu

/-- The registers of the power loop lie from 0x6000 on. -/
theorem State.KeepsLow.refreshDomain (h : s.KeepsLow 0x6000 t) (d : Nat) : s.KeepsLow 0x6000 (t.refreshDomain d) := by
  have hf : s.KeepsLow 0x6000 ((t.fset PWR_DOM_V_TARGET_MV (roundDiv (t.commanded d) 10) d).fset PWR_DOM_SLACK_AMBER
      (b2n (t.amberDomain d)) d) := (h.fset _ _ _ _ (by decide)).fset _ _ _ _ (by decide)
  unfold State.refreshDomain State.sendVout
  extract_lets x code
  split
  · exact hf
  · exact (hf.setDomain _ _).emit _

theorem State.KeepsLow.setRate (h : s.KeepsLow 0x6000 t) (d khz : Nat) : s.KeepsLow 0x6000 (t.setRate d khz) := by
  unfold State.setRate
  extract_lets x v
  split
  · exact (h.setDomain _ _).refreshDomain d
  · split
    · exact (h.setDomain _ _).refreshDomain d
    · exact (h.setDomain _ _).refreshDomain d

theorem State.KeepsLow.refreshChamberPower (h : s.KeepsLow 0x6000 t) (n : Nat) :
    s.KeepsLow 0x6000 (t.refreshChamberPower n) :=
  ((((h.fset _ _ _ _ (by decide)).fset _ _ _ _ (by decide)).fset _ _ _ _ (by decide)).fset _ _ _ _ (by decide)).fset _ _ _ _
    (by decide)

theorem State.KeepsLow.lockRates (h : s.KeepsLow 0x6000 t) (n : Nat) : s.KeepsLow 0x6000 (t.lockRates n) := by
  unfold State.lockRates
  split
  · exact h
  · exact (h.foldl (fun _ g hu => hu.setRate g _) _).refreshChamberPower n

end KeepsLow

/-- The chamber's load counted, as it becomes LIVE. -/
def State.countLoad (s : State) (n : Nat) : State := (s.fset CHB_STATE_STATE chbLive n).bump CHB_LOADS_COUNT 1 n

theorem State.countLoad_mem (s : State) (n : Nat) : (s.countLoad n).mem = s.mem := by
  rw [State.countLoad, State.bump_mem, State.fset_mem]

theorem State.countLoad_svy (s : State) (n : Nat) : (s.countLoad n).svy = s.svy := by
  rw [State.countLoad, State.bump_svy, State.fset_svy]

/-- After the load is counted nothing below the power loop's registers changes. -/
theorem State.goLive_loading {s : State} {n : Nat} (h : s.fget CHB_STATE_STATE n = chbLoading) :
    (s.countLoad n).KeepsLow 0x6000 (s.goLive n) := by
  have hl : (s.countLoad n).KeepsLow 0x6000 ((s.countLoad n).lockRates n) := (State.KeepsLow.refl _ _).lockRates n
  unfold State.goLive
  rw [if_neg (not_not_intro h)]
  extract_lets t
  have ht : (s.countLoad n).KeepsLow 0x6000 t := hl
  clear_value t
  split
  · exact ht.trans ⟨rfl, rfl, fun _ _ => rfl⟩
  · exact ht

theorem State.goLive_other {s : State} {n : Nat} (h : s.fget CHB_STATE_STATE n ≠ chbLoading) : s.goLive n = s := if_pos h

theorem regAddr_chbState (n : Nat) : regAddr CHB_STATE n 0 = 0x1000 + 0x100 * n := by simp [regAddr, CHB_STATE]

theorem regAddr_chbLoads (n : Nat) : regAddr CHB_LOADS n 0 = 0x1018 + 0x100 * n := by simp [regAddr, CHB_LOADS]

theorem State.rget_countLoad_ne (s : State) {n a : Nat} (hs : a ≠ 0x1000 + 0x100 * n) (hl : a ≠ 0x1018 + 0x100 * n) :
    (s.countLoad n).rget a = s.rget a := by
  have h1 : regAddr CHB_LOADS_COUNT.reg n 0 ≠ a := by rw [show CHB_LOADS_COUNT.reg = CHB_LOADS from rfl, regAddr_chbLoads]; omega
  have h2 : regAddr CHB_STATE_STATE.reg n 0 ≠ a := by rw [show CHB_STATE_STATE.reg = CHB_STATE from rfl, regAddr_chbState]; omega
  rw [State.countLoad, State.bump, State.rget_fset_ne _ _ _ _ _ _ h1, State.rget_fset_ne _ _ _ _ _ _ h2]

/-- The loader's registers, memory and the loader's state are as before. -/
theorem State.keepsLow_goLive (s : State) (n : Nat) : s.KeepsLow 0x1000 (s.goLive n) := by
  by_cases h : s.fget CHB_STATE_STATE n = chbLoading
  · exact State.KeepsLow.trans (t := s.countLoad n)
      ⟨s.countLoad_mem n, s.countLoad_svy n, fun a ha => s.rget_countLoad_ne (by omega) (by omega)⟩
      ((State.goLive_loading h).mono (by decide))
  · rw [State.goLive_other h]
    exact .refl _ s

/-- CHB_STATE of chamber `n` after chamber `m` has gone LIVE. -/
theorem State.chbState_goLive (s : State) (m : Nat) {n : Nat} (hn : n < 16) : (s.goLive m).fget CHB_STATE_STATE n =
    if n = m ∧ s.fget CHB_STATE_STATE n = chbLoading then chbLive else s.fget CHB_STATE_STATE n := by
  have hlow : regAddr CHB_STATE_STATE.reg n 0 < 0x6000 := by
    rw [show CHB_STATE_STATE.reg = CHB_STATE from rfl, regAddr_chbState]; omega
  by_cases h : s.fget CHB_STATE_STATE m = chbLoading
  · rw [(State.goLive_loading h).fget_eq _ _ _ hlow]
    by_cases hm : n = m
    · subst hm
      have hne : regAddr CHB_LOADS_COUNT.reg n 0 ≠ regAddr CHB_STATE_STATE.reg n 0 := by
        rw [show CHB_LOADS_COUNT.reg = CHB_LOADS from rfl, show CHB_STATE_STATE.reg = CHB_STATE from rfl, regAddr_chbState,
          regAddr_chbLoads]
        omega
      rw [if_pos ⟨rfl, h⟩, State.countLoad, State.bump, State.fget_fset_ne _ _ _ _ _ _ _ _ hne,
        State.fget_fset_self _ _ _ _ _ (by decide)]
      rfl
    · rw [if_neg fun hc => hm hc.1, State.fget, State.rget_countLoad_ne, ← State.fget]
      · rw [show CHB_STATE_STATE.reg = CHB_STATE from rfl, regAddr_chbState]; omega
      · rw [show CHB_STATE_STATE.reg = CHB_STATE from rfl, regAddr_chbState]; omega
  · rw [State.goLive_other h, if_neg]
    rintro ⟨rfl, hc⟩
    exact h hc

/-- Every chamber of a list that was LOADING is LIVE once the list has gone LIVE. -/
theorem State.chbState_goLives (l : List Nat) (s : State) {n : Nat} (hn : n < 16) :
    (l.foldl (fun s m => s.goLive m) s).fget CHB_STATE_STATE n =
      if n ∈ l ∧ s.fget CHB_STATE_STATE n = chbLoading then chbLive else s.fget CHB_STATE_STATE n := by
  induction l generalizing s with
  | nil => simp
  | cons m l ih =>
    have hne : chbLive ≠ chbLoading := by decide
    rw [List.foldl_cons, ih, s.chbState_goLive m hn]
    generalize s.fget CHB_STATE_STATE n = x
    by_cases hc : x = chbLoading
    · by_cases hm : n = m <;> simp [hm, hc, hne]
    · simp [hc]

/-! ### SVY_FLIP (R98, R99 steps 7 and 8, R114) -/

/-- The registers that show the active survey (R114). -/
def State.surveyRegs (s : State) (img : List Byte) : State :=
  (List.range 12).foldl (fun s k => s.wset SVY_DIGEST (fieldAt (imageDigest img) (4 * k) 4) k)
    ((s.fset SVY_ACTIVE_ID_ID (fieldAt img 8 4)).fset SVY_ACTIVE_VER_VER (fieldAt img 0xC 4))

/-- The loader's state replaced. -/
def State.withSvy (s : State) (v : Survey) : State := { s with svy := v }

theorem State.withSvy_mem (s : State) (v : Survey) : (s.withSvy v).mem = s.mem := rfl

theorem State.withSvy_svy (s : State) (v : Survey) : (s.withSvy v).svy = v := rfl

theorem State.withSvy_fab (s : State) (v : Survey) : (s.withSvy v).fab = s.fab := rfl

theorem State.withSvy_pwr (s : State) (v : Survey) : (s.withSvy v).pwr = s.pwr := rfl

theorem State.rget_withSvy (s : State) (v : Survey) (a : Nat) : (s.withSvy v).rget a = s.rget a := rfl

theorem State.fget_withSvy (s : State) (v : Survey) (f : Fld) (i j : Nat) : (s.withSvy v).fget f i j = s.fget f i j := rfl

theorem State.showSurvey_eq (s : State) (img : List Byte) : s.showSurvey img =
    (s.surveyRegs img).withSvy { (s.surveyRegs img).svy with running := img } := rfl

/-- The survey's registers lie below those of the chambers, and apart from SVY_FLASH. -/
theorem State.rget_surveyRegs (s : State) (img : List Byte) {a : Nat} (ha : a = 0x1C ∨ 0x1000 ≤ a) :
    (s.surveyRegs img).rget a = s.rget a := by
  have hver : regAddr SVY_ACTIVE_VER_VER.reg 0 0 ≠ a := by rw [show regAddr SVY_ACTIVE_VER_VER.reg 0 0 = 0x18 from rfl]; omega
  have hid : regAddr SVY_ACTIVE_ID_ID.reg 0 0 ≠ a := by rw [show regAddr SVY_ACTIVE_ID_ID.reg 0 0 = 0x14 from rfl]; omega
  refine List.foldlRecOn (motive := fun u : State => u.rget a = s.rget a) _ _ ?_ fun u hu k hk => ?_
  · rw [State.rget_fset_ne _ _ _ _ _ _ hver, State.rget_fset_ne _ _ _ _ _ _ hid]
  · have hk : k < 12 := List.mem_range.mp hk
    rw [State.rget_wset_ne _ _ (by simp only [regAddr, SVY_DIGEST]; omega), hu]

theorem State.surveyRegs_mem (s : State) (img : List Byte) : (s.surveyRegs img).mem = s.mem := by
  rw [State.surveyRegs, State.foldl_keeps State.mem fun t k => t.wset_mem _ _ _ _, State.fset_mem, State.fset_mem]

theorem State.surveyRegs_svy (s : State) (img : List Byte) : (s.surveyRegs img).svy = s.svy := by
  rw [State.surveyRegs, State.foldl_keeps State.svy fun t k => t.wset_svy _ _ _ _, State.fset_svy, State.fset_svy]

theorem State.surveyRegs_fab (s : State) (img : List Byte) : (s.surveyRegs img).fab = s.fab := by
  rw [State.surveyRegs, State.foldl_keeps State.fab fun t k => t.wset_fab _ _ _ _, State.fset_fab, State.fset_fab]

theorem State.surveyRegs_pwr (s : State) (img : List Byte) : (s.surveyRegs img).pwr = s.pwr := by
  rw [State.surveyRegs, State.foldl_keeps State.pwr fun t k => t.wset_pwr _ _ _ _, State.fset_pwr, State.fset_pwr]

/-- The device with the active slot flipped, the image of load `l` shown and the loader IDLE, before its chambers go LIVE. -/
def State.flipped (s : State) (l : Load) : State :=
  ((s.fset SVY_FLASH_ACTIVE (1 - s.activeSlot)).showSurvey l.image).setStatus svyIdle 0 none16

section Flipped

variable (s : State) (l : Load)

theorem State.flipped_mem : (s.flipped l).mem = s.mem := by
  rw [State.flipped, State.setStatus, State.wset_mem, State.showSurvey_eq, State.withSvy_mem, State.surveyRegs_mem, State.fset_mem]

theorem State.flipped_svy : (s.flipped l).svy = { s.svy with running := l.image } := by
  rw [State.flipped, State.setStatus, State.wset_svy, State.showSurvey_eq, State.withSvy_svy, State.surveyRegs_svy, State.fset_svy]

theorem State.flipped_pwr : (s.flipped l).pwr = s.pwr := by
  rw [State.flipped, State.setStatus, State.wset_pwr, State.showSurvey_eq, State.withSvy_pwr, State.surveyRegs_pwr, State.fset_pwr]

theorem State.fget_flipped_state : (s.flipped l).fget SVY_STATUS_STATE = svyIdle :=
  State.fget_setStatus_state _ (by decide) (by decide) (by decide)

/-- SVY_FLASH and the registers from 0x1000 on change in the active slot only. -/
theorem State.rget_flipped {a : Nat} (ha : a = 0x1C ∨ 0x1000 ≤ a) :
    (s.flipped l).rget a = (s.fset SVY_FLASH_ACTIVE (1 - s.activeSlot)).rget a := by
  have hne : regAddr SVY_STATUS 0 0 ≠ a := by rw [show regAddr SVY_STATUS 0 0 = 0x4 from rfl]; omega
  rw [State.flipped, State.setStatus, State.rget_wset_ne _ _ hne, State.showSurvey_eq, State.rget_withSvy,
    State.rget_surveyRegs _ _ ha]

theorem State.activeSlot_flipped : (s.flipped l).activeSlot = 1 - s.activeSlot := by
  have hlt := s.activeSlot_lt
  have haddr : regAddr SVY_FLASH_ACTIVE.reg 0 0 = 0x1C := rfl
  rw [State.activeSlot, State.fget, s.rget_flipped l (.inl haddr), ← State.fget, State.fget_fset_self _ _ _ _ _ (by decide)]
  exact Nat.mod_eq_of_lt (by simp only [SVY_FLASH_ACTIVE]; omega)

theorem State.chbState_flipped (n : Nat) : (s.flipped l).fget CHB_STATE_STATE n = s.fget CHB_STATE_STATE n := by
  have hge : 0x1000 ≤ regAddr CHB_STATE_STATE.reg n 0 := by
    rw [show CHB_STATE_STATE.reg = CHB_STATE from rfl, regAddr_chbState]; omega
  have hne : regAddr SVY_FLASH_ACTIVE.reg 0 0 ≠ regAddr CHB_STATE_STATE.reg n 0 := by
    rw [show regAddr SVY_FLASH_ACTIVE.reg 0 0 = 0x1C from rfl]; omega
  rw [State.fget, s.rget_flipped l (.inr hge), State.rget_fset_ne _ _ _ _ _ _ hne, ← State.fget]

/-- The flipped device with the changed chambers LIVE. -/
def State.flippedLive : State := l.changed.foldl (fun s n => s.goLive n) (s.flipped l)

theorem State.keepsLow_flippedLive : (s.flipped l).KeepsLow 0x1000 (s.flippedLive l) :=
  (State.KeepsLow.refl _ _).foldl (fun u n hu => hu.trans (u.keepsLow_goLive n)) _

end Flipped

theorem State.applyGroup_same {s : State} {g : Option GroupCfg} (h : s.fab.group = g) : s.applyGroup g = s := if_pos h

theorem State.flip_sameGroup {s : State} {l : Load} (hg : s.fab.group = groupOf l.image) :
    (((s.fset SVY_FLASH_ACTIVE (1 - s.activeSlot)).showSurvey l.image).applyGroup (groupOf l.image)).setStatus svyIdle 0 none16 =
      s.flipped l := by
  have hfab : ((s.fset SVY_FLASH_ACTIVE (1 - s.activeSlot)).showSurvey l.image).fab.group = groupOf l.image := by
    rw [State.showSurvey_eq, State.withSvy_fab, State.surveyRegs_fab, State.fset_fab, hg]
  rw [State.applyGroup_same hfab, State.flipped]

theorem execSvyFlip_port {s : State} {l : Load} (hl : s.svy.load = some l) (hp : l.phase = .applying) (hv : l.viaMgc = false)
    (hw : s.pwr.waiting = false) (hg : s.fab.group = groupOf l.image) :
    exec .svyFlip s = .next ((s.flippedLive l).withSvy { (s.flippedLive l).svy with load := none }) := by
  have hwait : ¬ (s.flipped l).pwr.waiting = true := by rw [s.flipped_pwr l, hw]; decide
  have hload : ∀ l', (s.flippedLive l).svy.load = some l' → l'.viaMgc = false := by
    rw [(s.keepsLow_flippedLive l).svy_eq, s.flipped_svy l]
    intro l' hl'
    rw [← Option.some.inj (hl.symm.trans hl'), hv]
  rw [State.withSvy, ← State.endLoad_of_port hload 0]
  show execSvyFlip s = _
  simp only [execSvyFlip, hl, hp, ne_eq, not_true_eq_false, if_false, State.flip_sameGroup hg, if_neg hwait]
  rfl

theorem svyFlip_spec {s : State} {l : Load} (hl : s.svy.load = some l) (hp : l.phase = .applying) (hv : l.viaMgc = false)
    (hw : s.pwr.waiting = false) (hg : s.fab.group = groupOf l.image) :
    ∃ t, exec .svyFlip s = .next t ∧ t.svy.load = none ∧ t.svy.running = l.image ∧ t.fget SVY_STATUS_STATE = svyIdle ∧
      t.activeSlot = 1 - s.activeSlot ∧ s.KeepsMemory t ∧
      (∀ n ∈ l.changed, n < 16 → s.fget CHB_STATE_STATE n = chbLoading → t.fget CHB_STATE_STATE n = chbLive) := by
  have hk := s.keepsLow_flippedLive l
  refine ⟨_, execSvyFlip_port hl hp hv hw hg, by rw [State.withSvy_svy], ?_, ?_, ?_, State.keepsMemory_of_mem ?_,
    fun n hn h16 hc => ?_⟩
  · rw [State.withSvy_svy, hk.svy_eq, s.flipped_svy]
  · rw [State.fget_withSvy, hk.fget_eq _ _ _ (by decide), s.fget_flipped_state]
  · rw [State.activeSlot, State.fget_withSvy, hk.fget_eq _ _ _ (by decide), ← State.activeSlot, s.activeSlot_flipped]
  · rw [State.withSvy_mem, hk.mem_eq, s.flipped_mem]
  · rw [State.fget_withSvy, State.flippedLive, State.chbState_goLives _ _ h16, s.chbState_flipped, if_pos ⟨hn, hc⟩]

/-- Settles O24. -/
theorem surveyLoadSteps : Obligations.SurveyLoadSteps := by
  refine fun s => ⟨fun l first u hl hp hw hc => ⟨fun f hf => ?_, fun hf => ?_⟩,
    fun l hl hp => ⟨execSvyZeroise_drained hl hp, execSvyZeroise_draining hl⟩, execZeroiseDone_spec s, s.zeroShare_stack,
    s.zeroShare_units, fun l hl hp => ⟨execSvyApply_zeroised hl hp, execSvyApply_zeroising hl⟩,
    fun l hl hp hv hw hg => svyFlip_spec hl hp hv hw hg, fun l hl => execSvy_otherPhase hl⟩
  · exact execSvyCheck_refused hl hp hw (hf ▸ hc)
  · exact execSvyCheck_commits hl hp hw (hf ▸ hc)

end Sys2Proof.Machine
end

section
/-! PROOFS. O56: the commands of the management queues, and a port's test window. -/

namespace Sys2Proof.Machine

/-! ### The work in progress -/

section KeepsWork

variable {s t u : State}

theorem State.KeepsWork.trans (h : s.KeepsWork t) (h' : t.KeepsWork u) : s.KeepsWork u := by
  obtain ⟨hmem, hstrands, hitems, hqueues, hops, hms⟩ := h
  obtain ⟨hmem', hstrands', hitems', hqueues', hops', hms'⟩ := h'
  exact ⟨hmem'.trans hmem, hstrands'.trans hstrands, hitems'.trans hitems, hqueues'.trans hqueues, hops'.trans hops, hms'.trans hms⟩

theorem State.keepsWork_fset (s : State) (f : Fld) (v i j : Nat) : s.KeepsWork (s.fset f v i j) := ⟨rfl, rfl, rfl, rfl, rfl, rfl⟩

theorem State.keepsWork_wset (s : State) (r : Reg) (v i j : Nat) : s.KeepsWork (s.wset r v i j) := ⟨rfl, rfl, rfl, rfl, rfl, rfl⟩

theorem State.keepsWork_withSvy (s : State) (v : Survey) : s.KeepsWork (s.withSvy v) := ⟨rfl, rfl, rfl, rfl, rfl, rfl⟩

/-- The health monitor's state replaced. -/
def State.withHlm (s : State) (h : Hlm) : State := { s with hlm := h }

theorem State.keepsWork_withHlm (s : State) (h : Hlm) : s.KeepsWork (s.withHlm h) := ⟨rfl, rfl, rfl, rfl, rfl, rfl⟩

theorem State.mgRunning_withHlm (s : State) (h : Hlm) (n : Nat) : (s.withHlm h).mgRunning n = s.mgRunning n := rfl

theorem State.withHlm_hlm (s : State) (h : Hlm) : (s.withHlm h).hlm = h := rfl

/-! ### What a management queue's operations touch (R537, R542) -/

/-- Nothing has changed but registers and the management queues. -/
def State.OnlyMgc (s t : State) : Prop := t = { s with regs := t.regs, mgc := t.mgc }

theorem State.OnlyMgc.refl (s : State) : s.OnlyMgc s := rfl

theorem State.OnlyMgc.trans (h : s.OnlyMgc t) (h' : t.OnlyMgc u) : s.OnlyMgc u := by
  rw [State.OnlyMgc] at h h' ⊢
  rw [h', h]

theorem State.OnlyMgc.keepsWork (h : s.OnlyMgc t) : s.KeepsWork t :=
  ⟨(congrArg State.mem h :), (congrArg State.strands h :), (congrArg State.items h :), (congrArg State.queues h :),
    (congrArg State.engOps h :), (congrArg State.ms h :)⟩

theorem State.OnlyMgc.hlm_eq (h : s.OnlyMgc t) : t.hlm = s.hlm := (congrArg State.hlm h :)

theorem State.OnlyMgc.stagedLength_eq (h : s.OnlyMgc t) : t.stagedLength = s.stagedLength :=
  (congrArg State.stagedLength h).trans rfl

theorem State.OnlyMgc.fset (h : s.OnlyMgc t) (f : Fld) (v i j : Nat) : s.OnlyMgc (t.fset f v i j) := h.trans rfl

theorem State.OnlyMgc.wset (h : s.OnlyMgc t) (r : Reg) (v i j : Nat) : s.OnlyMgc (t.wset r v i j) := h.trans rfl

theorem State.OnlyMgc.setMgQueue (h : s.OnlyMgc t) (n : Nat) (q : MgQueue) : s.OnlyMgc (t.setMgQueue n q) := by
  unfold State.setMgQueue
  extract_lets u
  have hu : s.OnlyMgc u := h.trans rfl
  clear_value u
  exact (hu.fset _ _ _ _).fset _ _ _ _

theorem State.mgQueue_fset (s : State) (f : Fld) (v i j n : Nat) : (s.fset f v i j).mgQueue n = s.mgQueue n := rfl

theorem State.mgQueue_wset (s : State) (r : Reg) (v i j n : Nat) : (s.wset r v i j).mgQueue n = s.mgQueue n := rfl

/-- The record of an item in MGC_MQn_REC (R518). -/
def State.setRecord (s : State) (n : Nat) (r : List Byte) : State :=
  (List.range 8).foldl (fun s k => s.wset MGC_MQ_REC (fieldAt r (4 * k) 4) n k) s

theorem State.OnlyMgc.setRecord (h : s.OnlyMgc t) (n : Nat) (r : List Byte) : s.OnlyMgc (t.setRecord n r) :=
  List.foldlRecOn (motive := fun t : State => s.OnlyMgc t) _ _ h fun _ ht _ _ => ht.wset _ _ _ _

theorem State.mgQueue_setRecord (s : State) (n : Nat) (r : List Byte) (m : Nat) : (s.setRecord n r).mgQueue m = s.mgQueue m :=
  State.foldl_keeps (State.mgQueue · m) (fun t k => t.mgQueue_wset MGC_MQ_REC _ n k m) _ s

/-- A record is written, then counted. -/
theorem State.mgRecord_eq (s : State) (n : Nat) (i : MgItem) (code cause : Nat) :
    let t := s.setRecord n (recordBytes i.seq code cause 0 (fieldAt i.line 4 4) 0 s.tb 0 0 0)
    s.mgRecord n i code cause = t.setMgQueue n { t.mgQueue n with done := (t.mgQueue n).done + 1 } := rfl

theorem State.OnlyMgc.mgRecord (h : s.OnlyMgc t) (n : Nat) (i : MgItem) (code cause : Nat) : s.OnlyMgc (t.mgRecord n i code cause) := by
  rw [t.mgRecord_eq]
  exact (h.setRecord n _).setMgQueue n _

theorem State.onlyMgc_mgSkip (n fuel : Nat) (s : State) : s.OnlyMgc (s.mgSkip n fuel) := by
  induction fuel generalizing s with
  | zero => exact .refl s
  | succ fuel ih =>
    rw [State.mgSkip]
    split
    · split
      · exact .refl s
      · exact (((State.OnlyMgc.refl s).setMgQueue n _).mgRecord n _ _ _).trans (ih _)
    · exact .refl s

theorem State.onlyMgc_mgEnd (s : State) (n code cause : Nat) : s.OnlyMgc (s.mgEnd n code cause) := by
  unfold State.mgEnd
  split
  · exact (((State.OnlyMgc.refl s).setMgQueue n _).mgRecord n _ _ _).trans (State.onlyMgc_mgSkip n 32 _)
  · exact .refl s

theorem State.onlyMgc_mgBegin (s : State) (n : Nat) : s.OnlyMgc (s.mgBegin n) := (State.OnlyMgc.refl s).setMgQueue n _

/-- The queue as it was before MGC_MQn_STATE shows it. -/
theorem State.mgQueue_setMgQueue (s : State) (n : Nat) (q : MgQueue) : (s.setMgQueue n q).mgQueue n = q := by
  unfold State.setMgQueue
  extract_lets t
  have ht : t.mgQueue n = q := smGet_smPut_self _ _ n q
  clear_value t
  rw [State.mgQueue_fset, State.mgQueue_fset, ht]

theorem State.fget_setMgQueue_depth (s : State) (n : Nat) (q : MgQueue) :
    (s.setMgQueue n q).fget MGC_MQ_STATE_DEPTH n = q.items.length % 64 := by
  unfold State.setMgQueue
  extract_lets t
  clear_value t
  rw [State.fget_fset_other _ _ _ _ _ _ _ _ (by decide) (by decide) (.inl (by decide)), State.fget_fset_self _ _ _ _ _ (by decide)]
  rfl

theorem State.mgQueue_mgRecord (s : State) (n : Nat) (i : MgItem) (code cause : Nat) :
    (s.mgRecord n i code cause).mgQueue n = { s.mgQueue n with done := (s.mgQueue n).done + 1 } := by
  rw [State.mgRecord_eq, State.mgQueue_setMgQueue, State.mgQueue_setRecord]

theorem State.fget_mgRecord_depth (s : State) (n : Nat) (i : MgItem) (code cause : Nat) :
    (s.mgRecord n i code cause).fget MGC_MQ_STATE_DEPTH n = (s.mgQueue n).items.length % 64 := by
  rw [State.mgRecord_eq, State.fget_setMgQueue_depth, State.mgQueue_setRecord]

theorem State.mgSkip_empty {n : Nat} (h : (s.mgQueue n).items = []) (fuel : Nat) : s.mgSkip n fuel = s := by
  cases fuel with
  | zero => rfl
  | succ fuel => rw [State.mgSkip, h]

/-- The end of a queue's only item. -/
theorem State.mgEnd_only {i : MgItem} {n : Nat} (code cause : Nat) (h : (s.mgQueue n).items = [i]) :
    ((s.mgEnd n code cause).mgQueue n).items = [] ∧ ((s.mgEnd n code cause).mgQueue n).done = (s.mgQueue n).done + 1 ∧
      (s.mgEnd n code cause).fget MGC_MQ_STATE_DEPTH n = 0 := by
  have hend : s.mgEnd n code cause = (s.setMgQueue n { s.mgQueue n with items := [] }).mgRecord n i code cause := by
    rw [State.mgEnd, h]
    exact State.mgSkip_empty (by rw [State.mgQueue_mgRecord, State.mgQueue_setMgQueue]) 32
  rw [hend, State.mgQueue_mgRecord, State.fget_mgRecord_depth, State.mgQueue_setMgQueue]
  exact ⟨rfl, rfl, rfl⟩

/-! ### The item at the front of a queue -/

theorem State.mgNext_eq_some {i : MgItem} {n command : Nat} (h : s.mgNext n command = some i) :
    ∃ rest, (s.mgQueue n).items = i :: rest := by
  unfold State.mgNext at h
  split at h
  next j rest hq =>
    obtain ⟨-, hj⟩ := Option.ite_none_right_eq_some.mp h
    exact ⟨rest, by rw [hq, Option.some.inj hj]⟩
  next => cases h

theorem State.mgRunning_mgBegin {i : MgItem} {n command : Nat} (h : s.mgNext n command = some i) :
    (s.mgBegin n).mgRunning n = true := by
  obtain ⟨rest, hq⟩ := State.mgNext_eq_some h
  rw [State.mgRunning, State.mgBegin, State.mgQueue_setMgQueue, hq]

end KeepsWork

/-! ### Survey and security (R110, R486, R537) -/

theorem State.keepsWork_svyCommit (s : State) (session : Nat) (viaMgc : Bool) : s.KeepsWork (s.svyCommit session viaMgc).2 := by
  cases h : s.commitBusy
  · rw [State.svyCommit_starts h]
    exact (s.keepsWork_wset _ _ _ _).trans (State.keepsWork_withSvy _ _)
  · rw [State.svyCommit_busy h]
    exact s.keepsWork_fset _ _ _ _

section Commands

variable {s : State} {i : MgItem}

theorem execSurveyCommit_starts (hi : s.mgNext mqSurvey 1 = some i) {u : State}
    (hu : (s.mgBegin mqSurvey).svyCommit i.session true = (true, u)) : exec .surveyCommit s = .next u ∧ s.KeepsWork u := by
  have hk := (s.onlyMgc_mgBegin mqSurvey).keepsWork.trans (State.keepsWork_svyCommit _ i.session true)
  rw [hu] at hk
  refine ⟨?_, hk⟩
  show execSurveyCommit s = _
  simp only [execSurveyCommit, hi, hu]

theorem execSurveyCommit_busy (hi : s.mgNext mqSurvey 1 = some i) {u : State}
    (hu : (s.mgBegin mqSurvey).svyCommit i.session true = (false, u)) :
    exec .surveyCommit s = .next (u.mgEnd mqSurvey cUnavailable 2) := by
  show execSurveyCommit s = _
  simp only [execSurveyCommit, hi, hu]

theorem State.startCommit_spec (s : State) (c : FwCommit) : s.KeepsWork (s.startCommit c) ∧ (s.startCommit c).sec.commit = some c ∧
    (s.startCommit c).fget SEC_FW_STATUS_STAGE_STATE = fwChecking := by
  unfold State.startCommit State.setStage
  generalize ht : ({ s with sec := { s.sec with commit := some c } } : State) = t
  have hk : s.KeepsWork t := by subst ht; exact ⟨rfl, rfl, rfl, rfl, rfl, rfl⟩
  have hc : t.sec.commit = some c := by subst ht; rfl
  clear ht
  refine ⟨(hk.trans (t.keepsWork_fset _ _ _ _)).trans (State.keepsWork_fset _ _ _ _ _), hc, ?_⟩
  rw [State.fget_fset_other _ _ _ _ _ _ _ _ (by decide) (by decide) (.inl (by decide)), State.fget_fset_self _ _ _ _ _ (by decide)]
  rfl

theorem execMgmtFwCommit_starts (hi : s.mgNext mqSecurity 1 = some i) (hc : s.sec.commit = none) :
    ∃ s', exec .mgmtFwCommit s = .next s' ∧ s.KeepsWork s' ∧ s'.sec.commit =
        some { session := i.session, seq := none, length := (s.mgBegin mqSecurity).stagedLength, checked := false } ∧
      s'.fget SEC_FW_STATUS_STAGE_STATE = fwChecking := by
  have hlen : (s.mgBegin mqSecurity).stagedLength = s.stagedLength := (s.onlyMgc_mgBegin mqSecurity).stagedLength_eq
  obtain ⟨hk, hcommit, hstage⟩ := (s.mgBegin mqSecurity).startCommit_spec
    { session := i.session, seq := none, length := s.stagedLength, checked := false }
  rw [hlen]
  refine ⟨_, ?_, (s.onlyMgc_mgBegin mqSecurity).keepsWork.trans hk, hcommit, hstage⟩
  show execMgmtFwCommit s = _
  simp only [execMgmtFwCommit, hi, hc, Option.isSome_none, Bool.false_eq_true, if_false]

theorem execMgmtFwCommit_waits (hi : s.mgNext mqSecurity 1 = some i) (hc : s.sec.commit.isSome = true) :
    exec .mgmtFwCommit s = .next s := by
  show execMgmtFwCommit s = _
  simp only [execMgmtFwCommit, hi, hc, if_true]

/-- Without its item at the front a command does nothing. -/
theorem execManagement_idle : (s.mgNext mqSurvey 1 = none → exec .surveyCommit s = .next s) ∧
    (s.mgNext mqSecurity 1 = none → exec .mgmtFwCommit s = .next s) ∧ (s.mgNext mqHealth 1 = none → exec .scan s = .next s) ∧
    (s.mgNext mqHealth 2 = none → exec .flush s = .next s) ∧ (s.mgNext mqTest 1 = none → exec .portTest s = .next s) ∧
    (s.mgNext mqTest 2 = none → exec .endTest s = .next s) := by
  refine ⟨fun h => ?_, fun h => ?_, fun h => ?_, fun h => ?_, fun h => ?_, fun h => ?_⟩
  · show execSurveyCommit s = _
    simp only [execSurveyCommit, h]
  · show execMgmtFwCommit s = _
    simp only [execMgmtFwCommit, h]
  · show execScan s = _
    simp only [execScan, h]
  · show execFlush s = _
    simp only [execFlush, h]
  · show execPortTest s = _
    simp only [execPortTest, h]
  · show execEndTest s = _
    simp only [execEndTest, h]

/-! ### Health (R537, R639, R640) -/

/-- A window asked for on gallery `g`, after those already asked for. -/
def State.askScan (s : State) (g : Nat) : State := s.withHlm { s.hlm with asked := s.hlm.asked.filter (· != g) ++ [g] }

theorem execScan_asks (hi : s.mgNext mqHealth 1 = some i) (hg : s.galleryLive (i.arg 0) = true) :
    ∃ s', exec .scan s = .next s' ∧ s.KeepsWork s' ∧ s'.hlm.asked.contains (i.arg 0) = true ∧ s'.mgRunning mqHealth = true := by
  refine ⟨(s.mgBegin mqHealth).askScan (i.arg 0), ?_, (s.onlyMgc_mgBegin mqHealth).keepsWork.trans (State.keepsWork_withHlm _ _), ?_,
    (State.mgRunning_withHlm _ _ _).trans (State.mgRunning_mgBegin hi)⟩
  · show execScan s = _
    simp only [execScan, hi, hg, Bool.not_true, Bool.false_eq_true, if_false]
    rfl
  · rw [State.askScan, State.withHlm_hlm, List.contains_iff_mem]
    exact List.mem_append_right _ List.mem_cons_self

theorem execScan_refused (hi : s.mgNext mqHealth 1 = some i) (hg : s.galleryLive (i.arg 0) = false) :
    exec .scan s = .next (s.mgEnd mqHealth cUnavailable 1) := by
  show execScan s = _
  simp only [execScan, hi, hg, Bool.not_false, if_true]

/-- The record of one unit written to flash, and its change no longer waiting. -/
theorem State.recordUnit_spec (s : State) (u : Nat) :
    s.KeepsWork (s.recordUnit u) ∧ (s.recordUnit u).now = s.now ∧ (s.recordUnit u).hlm.unwritten = s.hlm.unwritten.filter (· != u) :=
  ⟨⟨rfl, rfl, rfl, rfl, rfl, rfl⟩, rfl, rfl⟩

theorem State.recordUnits_spec (l : List Nat) (s : State) : s.KeepsWork (l.foldl (fun s u => s.recordUnit u) s) ∧
    (l.foldl (fun s u => s.recordUnit u) s).now = s.now ∧
    (l.foldl (fun s u => s.recordUnit u) s).hlm.unwritten = s.hlm.unwritten.filter (· ∉ l) := by
  induction l generalizing s with
  | nil => exact ⟨⟨rfl, rfl, rfl, rfl, rfl, rfl⟩, rfl, by simp⟩
  | cons u l ih =>
    obtain ⟨hk, hnow, hw⟩ := s.recordUnit_spec u
    obtain ⟨hk', hnow', hw'⟩ := ih (s.recordUnit u)
    rw [List.foldl_cons]
    refine ⟨hk.trans hk', hnow'.trans hnow, ?_⟩
    rw [hw', hw, List.filter_filter]
    refine List.filter_congr fun x _ => ?_
    by_cases hx : x = u <;> simp [hx]

theorem State.flashWritten_spec (s : State) : s.KeepsWork s.flashWritten ∧ s.flashWritten.now = s.now ∧
    s.flashWritten.hlm.unwritten = s.hlm.unwritten := by
  unfold State.flashWritten
  extract_lets m t
  have ht : s.KeepsWork t ∧ t.now = s.now ∧ t.hlm.unwritten = s.hlm.unwritten := ⟨⟨rfl, rfl, rfl, rfl, rfl, rfl⟩, rfl, rfl⟩
  clear_value t
  exact ht

/-- Every change that waits written to flash. -/
theorem State.recordAll_spec (s : State) : let t := s.hlm.unwritten.foldl (fun s u => s.recordUnit u) s
    s.KeepsWork t.flashWritten ∧ t.flashWritten.now = s.now ∧ t.flashWritten.hlm.unwritten = [] := by
  intro t
  obtain ⟨hk, hnow, hw⟩ := State.recordUnits_spec s.hlm.unwritten s
  obtain ⟨hk', hnow', hw'⟩ := t.flashWritten_spec
  refine ⟨hk.trans hk', hnow'.trans hnow, hw'.trans (hw.trans (List.filter_eq_nil_iff.mpr fun x hx => ?_))⟩
  simp [hx]

theorem State.lifetimeWrite_spec (s : State) : s.KeepsWork s.lifetimeWrite ∧ s.lifetimeWrite.hlm.unwritten = [] ∧
    s.lifetimeWrite.hlm.lifeFlash = s.lifetimeWrite.hlm.life ∧ s.lifetimeWrite.hlm.lifeAt = s.now := by
  unfold State.lifetimeWrite
  extract_lets t u v life m
  obtain ⟨hkt, hnowt, -⟩ := State.recordUnits_spec (s.hlm.history.map (·.1)) s
  obtain ⟨hku, hnowu, hwu⟩ := t.recordAll_spec
  have hv : s.KeepsWork v ∧ v.now = s.now ∧ v.hlm.unwritten = [] :=
    ⟨(hkt.trans hku).trans (u.keepsWork_fset _ _ _ _), hnowu.trans hnowt, hwu⟩
  clear_value v
  obtain ⟨hk, hnow, hw⟩ := hv
  exact ⟨hk, hw, rfl, hnow⟩

theorem execFlush_spec (hi : s.mgNext mqHealth 2 = some i) : ∃ s', exec .flush s = .next s' ∧ s.KeepsWork s' ∧
    s'.hlm.unwritten = [] ∧ s'.hlm.lifeFlash = s'.hlm.life ∧ s'.hlm.lifeAt = s.now := by
  obtain ⟨hk, hw, hlife, hat⟩ := s.lifetimeWrite_spec
  have hend := s.lifetimeWrite.onlyMgc_mgEnd mqHealth cServed 0
  refine ⟨s.lifetimeWrite.mgEnd mqHealth cServed 0, ?_, hk.trans hend.keepsWork, ?_⟩
  · show execFlush s = _
    simp only [execFlush, hi]
  · rw [hend.hlm_eq]
    exact ⟨hw, hlife, hat⟩

/-! ### Test windows (R537, R610) -/

theorem execPortTest_opens (hi : s.mgNext mqTest 1 = some i) (hl : s.lanesUp (i.arg 0) ≠ []) : exec .portTest s =
    .next ((s.openTest (i.arg 0) (s.now + 1_000_000 * (i.arg 1 + 256 * i.arg 2))).mgEnd mqTest cServed 0) := by
  show execPortTest s = _
  simp only [execPortTest, hi, List.isEmpty_eq_false_iff.mpr hl, Bool.false_eq_true, if_false, oneMs]

theorem execPortTest_refused (hi : s.mgNext mqTest 1 = some i) (hl : s.lanesUp (i.arg 0) = []) :
    exec .portTest s = .next (s.mgEnd mqTest cUnavailable 1) := by
  show execPortTest s = _
  simp only [execPortTest, hi, hl, List.isEmpty_nil, if_true]

theorem execEndTest_ends (hi : s.mgNext mqTest 2 = some i) :
    exec .endTest s = .next ((s.closeTest (i.arg 0)).mgEnd mqTest cServed 0) := by
  show execEndTest s = _
  simp only [execEndTest, hi]

theorem execTestWindowEnd_some {p until_ : Nat} (h : s.fab.tests.find? (fun e => e.1 == p) = some (p, until_)) :
    exec (.testWindowEnd p) s = .next (if until_ ≤ s.now then s.closeTest p else s) := by
  show execTestWindowEnd p s = _
  simp only [execTestWindowEnd, h]

theorem execTestWindowEnd_none {p : Nat} (h : s.fab.tests.find? (fun e => e.1 == p) = none) :
    exec (.testWindowEnd p) s = .next s := by
  show execTestWindowEnd p s = _
  simp only [execTestWindowEnd, h]

end Commands

/-- With nothing that waits for a lane nothing is sent again. -/
theorem State.flow_of_flowing {s : State} (h : s.flowing) : s.flow = s := by
  obtain ⟨htxq, hlanes⟩ := h
  have hlost : s.fab.lanes.filter (fun e => !s.laneInService e.1) = [] :=
    List.filter_eq_nil_iff.mpr fun e he => by rw [hlanes e he]; decide
  simp only [State.flow, hlost, List.flatMap_nil, List.nil_append, htxq, List.foldl_nil]
  rw [← htxq]

/-- The window listed, and shown in LNK_PORT_STATUS. -/
def State.withTest (s : State) (p until_ : Nat) : State :=
  ({ s with fab := { s.fab with tests := (p, until_) :: s.fab.tests.filter (fun e => e.1 != p) } } : State).fset LNK_PORT_STATUS_TEST 1 p

/-- TEST is no bit of the lanes in service. -/
theorem State.laneInService_withTest (s : State) (p until_ l : Nat) : (s.withTest p until_).laneInService l = s.laneInService l := by
  have hf : (s.withTest p until_).fget LNK_PORT_STATUS_IN_SERVICE (l / 4) = s.fget LNK_PORT_STATUS_IN_SERVICE (l / 4) := by
    rw [State.withTest, State.fget_fset_other _ _ _ _ _ _ _ _ (by decide) (by decide) (.inr (by decide))]
    rfl
  simp only [State.laneInService, State.lanesUp, hf]

theorem State.withTest_fab (s : State) (p until_ : Nat) : (s.withTest p until_).fab =
    { s.fab with tests := (p, until_) :: s.fab.tests.filter (fun e => e.1 != p) } := by
  rw [State.withTest, State.fset_fab]

theorem State.keepsWork_withTest (s : State) (p until_ : Nat) : s.KeepsWork (s.withTest p until_) :=
  State.KeepsWork.trans ⟨rfl, rfl, rfl, rfl, rfl, rfl⟩ (State.keepsWork_fset _ _ _ _ _)

theorem State.flowing_withTest {s : State} (h : s.flowing) (p until_ : Nat) : (s.withTest p until_).flowing := by
  obtain ⟨htxq, hlanes⟩ := h
  rw [State.flowing, State.withTest_fab]
  exact ⟨htxq, fun e he => (s.laneInService_withTest p until_ e.1).trans (hlanes e he)⟩

theorem State.openTest_of_flowing {s : State} (h : s.flowing) (p until_ : Nat) : s.openTest p until_ = s.withTest p until_ := by
  have hflow := State.flow_of_flowing (State.flowing_withTest h p until_)
  rw [State.withTest] at hflow ⊢
  exact hflow

theorem State.openTest_spec {s : State} (h : s.flowing) (p until_ : Nat) :
    (s.openTest p until_).fget LNK_PORT_STATUS_TEST p = 1 ∧ s.KeepsWork (s.openTest p until_) ∧
      (p, until_) ∈ (s.openTest p until_).fab.tests := by
  rw [State.openTest_of_flowing h]
  refine ⟨?_, s.keepsWork_withTest p until_, ?_⟩
  · rw [State.withTest, State.fget_fset_self _ _ _ _ _ (by decide)]
    rfl
  · rw [State.withTest_fab]
    exact List.mem_cons_self

/-- Settles O56. -/
theorem management : Obligations.Management := by
  intro s i
  obtain ⟨hsurvey, hsec, hscan, hflush, htest, hend⟩ := execManagement_idle (s := s)
  refine ⟨fun hi => ⟨fun u hu => execSurveyCommit_starts hi hu, fun u hu => execSurveyCommit_busy hi hu⟩, hsurvey,
    fun hi => ⟨execMgmtFwCommit_starts hi, fun hc => ?_⟩, hsec, hscan, hflush, htest, hend,
    fun hi => ⟨execScan_asks hi, execScan_refused hi⟩, execFlush_spec, fun hi => ⟨execPortTest_opens hi, execPortTest_refused hi⟩,
    execEndTest_ends, fun p until_ _ hf => State.openTest_spec hf p until_, fun p => execTestWindowEnd_none,
    fun p until_ hf => ⟨fun hle => ?_, fun hlt => ?_⟩, fun n code cause _ hq => ?_⟩
  · exact execMgmtFwCommit_waits hi hc
  · rw [execTestWindowEnd_some hf, if_pos hle]
  · rw [execTestWindowEnd_some hf, if_neg (by omega)]
  · obtain ⟨hitems, hdone, hdepth⟩ := State.mgEnd_only code cause hq
    exact ⟨hitems, hdone, hdepth, (s.onlyMgc_mgEnd n code cause).keepsWork⟩

end Sys2Proof.Machine
end

section
/-! PROOFS. O28: what the vector classes compute on the values of their elements. -/

namespace Sys2Proof.Machine

/-! ### The signed rational of a result (R137, R142) -/

theorem Val.rat_fin (n : Bool) (m : Rat) : (Val.fin n m).rat = if n then -m else m := rfl

@[simp] theorem Val.rat_ofRat (q : Rat) : (Val.ofRat q).rat = q := by
  by_cases h : q < 0 <;> simp [Val.ofRat, Val.rat, h]

@[simp] theorem Val.rat_negate (v : Val) : v.negate.rat = -v.rat := by
  cases v with
  | nan | inf => rfl
  | fin n m => cases n <;> simp [Val.negate, Val.rat]

theorem Val.isFin_negate {v : Val} (h : v.isFin = true) : v.negate.isFin = true := by
  cases v with
  | fin => rfl
  | nan | inf => cases h

/-- A sum of finite values is exact and valid. -/
theorem Val.add_of_isFin {a b : Val} (ha : a.isFin = true) (hb : b.isFin = true) :
    (a.add b).1.rat = a.rat + b.rat ∧ (a.add b).2 = false := by
  cases a with
  | nan | inf => cases ha
  | fin x p =>
    cases b with
    | nan | inf => cases hb
    | fin y q =>
      by_cases hz : p = 0 ∧ q = 0
      · simp [Val.add, Val.rat, hz]
      · by_cases hr : (if x then -p else p) + (if y then -q else q) = 0
        · simp [Val.add, hz, hr, Val.rat]
        · simp only [Val.add, if_neg hz, if_neg hr, Val.rat_ofRat, Val.rat_fin, and_self]

/-- A product of finite values is exact, finite and valid. -/
theorem Val.mul_of_isFin {a b : Val} (ha : a.isFin = true) (hb : b.isFin = true) :
    (a.mul b).1.rat = a.rat * b.rat ∧ (a.mul b).1.isFin = true ∧ (a.mul b).2 = false := by
  cases a with
  | nan | inf => cases ha
  | fin x p =>
    cases b with
    | nan | inf => cases hb
    | fin y q => cases x <;> cases y <;> simp [Val.mul, Val.rat, Val.isFin]

/-- A fused multiply-add of finite values forms product and sum exactly. -/
theorem Val.rat_fma_of_isFin {a b d : Val} (ha : a.isFin = true) (hb : b.isFin = true) (hd : d.isFin = true) :
    (a.fma b d).1.rat = a.rat * b.rat + d.rat := by
  obtain ⟨hrat, hfin, -⟩ := Val.mul_of_isFin ha hb
  exact (Val.add_of_isFin hfin hd).1.trans (congrArg (· + d.rat) hrat)

/-! ### Comparisons of a NaN (R144) -/

@[simp] theorem Val.eq_nan_left (b : Val) : Val.nan.eq b = false := rfl

@[simp] theorem Val.lt_nan_left (b : Val) : Val.nan.lt b = false := rfl

theorem vxCompare_nan_left (b : Val) :
    vxCompare 0 .nan b = false ∧ vxCompare 1 .nan b = true ∧ vxCompare 2 .nan b = false ∧ vxCompare 3 .nan b = false := by
  simp [vxCompare]

/-! ### Softmax rows (R260) -/

/-- A row with a NaN. -/
theorem State.smaxRow_of_nan (s : State) (T : FnTable) {xs : List Val} (h : xs.any Val.isNan = true) :
    (s.smaxRow T xs).1.out = xs.map (fun _ => .nan) ∧ (s.smaxRow T xs).2 = s := by
  simp [State.smaxRow, h]

/-- A row that is −∞ everywhere: it holds neither a NaN nor +∞, and only infinities. -/
theorem State.smaxRow_of_negInf (s : State) (T : FnTable) {xs : List Val} (h : ∀ x ∈ xs, x = .inf true) :
    (s.smaxRow T xs).1.out = xs.map (fun _ => .zero) := by
  have hnan : xs.any Val.isNan = false := List.any_eq_false.mpr fun x hx => by rw [h x hx]; decide
  have hpos : xs.any (fun v => v == .inf false) = false := List.any_eq_false.mpr fun x hx => by rw [h x hx]; decide
  have hinf : xs.all Val.isInf = true := List.all_eq_true.mpr fun x hx => by rw [h x hx]; rfl
  simp [State.smaxRow, hnan, hpos, hinf]

/-- Settles O28: the results on finite values follow from the exactness of the sum and the product. -/
theorem vectorResults : Obligations.VectorResults := by
  refine ⟨fun a b d ha hb hd => ?_, fun _ _ => rfl, fun _ => rfl, rfl, vxCompare_nan_left, by decide,
    fun s T _ h => s.smaxRow_of_nan T h, fun s T _ h _ => s.smaxRow_of_negInf T h⟩
  obtain ⟨hsum, hsumValid⟩ := Val.add_of_isFin ha hb
  obtain ⟨hprod, -, hprodValid⟩ := Val.mul_of_isFin ha hb
  have hdiff : (a.add b.negate).1.rat = a.rat - b.rat := by
    rw [(Val.add_of_isFin ha (Val.isFin_negate hb)).1, Val.rat_negate, sub_eq_add_neg]
  exact ⟨hsum, hdiff, hprod, Val.rat_fma_of_isFin ha hb hd, hsumValid, hprodValid, a.rat_negate⟩

end Sys2Proof.Machine
end

section
/-! PROOFS. O12: what a read of an engine's FLAGS_RC returns and clears. -/

namespace Sys2Proof.Machine

/-! ### The FLAGS_RC registers (R158) -/

/-- The FLAGS_RC register of an engine. -/
def FlagSet.rcReg : FlagSet → Reg
  | .mxe => MXE_FLAGS_RC
  | .vxe => VXE_FLAGS_RC
  | .sfu => SFU_FLAGS_RC
  | .atu => ATU_FLAGS_RC
  | .rte => RTE_FLAGS_RC

/-- An address names an instance that the register has. -/
theorem regInst_lt {r : Reg} {a i j : Nat} (h : regInst r a = some (i, j)) : i < r.n1 ∧ j < r.n2 := by
  rw [regInst, Option.ite_none_left_eq_some, Option.ite_none_right_eq_some] at h
  obtain ⟨-, ⟨-, hi, hj⟩, e⟩ := h
  obtain ⟨rfl, rfl⟩ := Prod.mk.inj (Option.some.inj e)
  exact ⟨hi, hj⟩

/-- FLAGS_RC lies 4 bytes above FLAGS, with as many instances in one row. -/
theorem FlagSet.rcReg_eq (e : FlagSet) : (⟨e.reg.base + 4, e.reg.n1, e.reg.s1, e.reg.n2, e.reg.s2⟩ : Reg) = e.rcReg := by
  cases e <;> rfl

theorem FlagSet.rcReg_n2 (e : FlagSet) : e.rcReg.n2 = 1 := by
  cases e <;> rfl

/-- An address at which `flagsRcAt` finds an engine is that of an instance of the engine's FLAGS_RC. -/
theorem eq_regAddr_of_flagsRcAt {a k : Nat} {e : FlagSet} (h : flagsRcAt a = some (e, k)) :
    k < e.rcReg.n1 ∧ a = regAddr e.rcReg k 0 := by
  obtain ⟨e', -, he'⟩ := List.exists_of_findSome?_eq_some h
  obtain ⟨⟨i, j⟩, hinst, hpair⟩ := Option.map_eq_some_iff.mp he'
  obtain ⟨rfl, rfl⟩ := Prod.mk.inj hpair
  rw [FlagSet.rcReg_eq] at hinst
  obtain ⟨hi, hj⟩ := regInst_lt hinst
  rw [FlagSet.rcReg_n2] at hj
  obtain rfl : j = 0 := by omega
  exact ⟨hi, (regAddr_of_regInst hinst).symm⟩

/-- The layouts list FLAGS_RC at every instance's address, and no other register lies there. -/
theorem regDescAt_rcReg (e : FlagSet) : ∀ k < e.rcReg.n1,
    (regDescAt (regAddr e.rcReg k 0)).map RegDesc.reg = some e.rcReg ∧ instAt e.rcReg (regAddr e.rcReg k 0) = (k, 0) := by
  cases e <;> decide +kernel

theorem FlagSet.rcReg_not_counter (e : FlagSet) : isHigh e.rcReg = false ∧ isLow e.rcReg = false := by
  cases e <;> decide

/-- FLAGS_RC is none of the registers that a read forms otherwise. -/
theorem FlagSet.rcReg_not_formed (e : FlagSet) : e.rcReg ∉ formedRegs ∧ e.rcReg ∉ gfeRegs ∧ isTrain e.rcReg = false := by
  cases e <;> decide

/-- The RTE's instances lie in the gallery blocks, the others in the core blocks (R718). -/
theorem FlagSet.regAddr_rcReg_bounds (e : FlagSet) {k : Nat} (hk : k < e.rcReg.n1) :
    0x10_0000 ≤ regAddr e.rcReg k 0 ∧ (regAddr e.rcReg k 0 < 0x20_0000 ↔ e = .rte) := by
  revert k
  cases e <;> decide +kernel

/-- FLAGS_RC reads as the engine's FLAGS stands (R160). -/
theorem State.readValue_rcReg (s : State) (r : Requester) (e : FlagSet) {k : Nat} (hk : k < e.rcReg.n1) :
    s.readValue r e.rcReg k 0 = (s.rget (regAddr e.reg k 0), s) := by
  obtain ⟨hform, hgfe, htrain⟩ := e.rcReg_not_formed
  obtain ⟨hlo, hrte⟩ := e.regAddr_rcReg_bounds hk
  have hcontrol : ¬ regAddr e.rcReg k 0 < 0x8_0000 := by omega
  simp only [formedRegs, gfeRegs, List.mem_cons, List.not_mem_nil, not_or] at hform hgfe
  simp only [State.readValue, hform, hgfe, htrain, hcontrol, hlo.not_gt, hrte, or_self, if_false, Bool.false_and,
    Bool.false_eq_true]
  cases e <;> rfl

/-! ### The flags cleared (R160) -/

theorem FlagSet.fields_apart (e : FlagSet) :
    e.bits.lo ≤ e.bits.hi ∧ e.bits.hi < e.first.lo ∧ e.first.lo ≤ e.first.hi ∧ e.first.hi < 32 := by
  simp [FlagSet.bits, FlagSet.first]

/-- Clearing all four flags leaves none, so FIRST_STRAND returns to 0. -/
theorem State.lower_all (s : State) (e : FlagSet) (k : Nat) : s.lower e k 0xF = (s.fset e.bits 0 k).fset e.first 0 k := by
  have hlt : s.fget e.bits k < 2 ^ 4 := s.fget_lt e.bits k 0
  have hand : s.fget e.bits k &&& 0xF = s.fget e.bits k := by
    rw [show 0xF = 2 ^ 4 - 1 from rfl, Nat.and_two_pow_sub_one_eq_mod, Nat.mod_eq_of_lt hlt]
  simp only [State.lower, hand, Nat.sub_self, if_true]

theorem State.fget_lower_all (s : State) (e : FlagSet) (k : Nat) :
    (s.lower e k 0xF).fget e.bits k = 0 ∧ (s.lower e k 0xF).fget e.first k = 0 := by
  obtain ⟨hbits, hapart, hfirst, hword⟩ := e.fields_apart
  rw [s.lower_all]
  constructor
  · rw [State.fget_fset_other _ _ _ _ _ _ _ _ ⟨hfirst, hword⟩ hbits (.inr hapart),
      State.fget_fset_self _ _ _ _ _ ⟨hbits, by omega⟩, Nat.zero_mod]
  · rw [State.fget_fset_self _ _ _ _ _ ⟨hfirst, hword⟩, Nat.zero_mod]

theorem State.keepsRegsBut_lower_all (s : State) (e : FlagSet) (k : Nat) :
    s.KeepsRegsBut (s.lower e k 0xF) [regAddr e.reg k 0] := by
  intro a ha
  have hne : regAddr e.reg k 0 ≠ a := fun h => ha (List.mem_singleton.mpr h.symm)
  rw [s.lower_all, State.rget_fset_ne _ e.first _ _ _ _ hne, State.rget_fset_ne _ e.bits _ _ _ _ hne]

theorem State.keepsMemory_lower_all (s : State) (e : FlagSet) (k : Nat) : s.KeepsMemory (s.lower e k 0xF) := by
  intro a
  simp only [s.lower_all, State.byte_fset]

/-! ### The read -/

/-- A read of FLAGS_RC returns FLAGS and clears its flags. -/
theorem State.readReg_flagsRc (s : State) {r : Requester} {a k : Nat} {e : FlagSet} (h : flagsRcAt a = some (e, k))
    (hr : s.mayRead r a = true) : s.readReg r a = (s.rget (regAddr e.reg k 0), s.lower e k 0xF) := by
  obtain ⟨hk, ha⟩ := eq_regAddr_of_flagsRcAt h
  obtain ⟨hdesc, hinst⟩ := regDescAt_rcReg e k hk
  obtain ⟨hhigh, hlow⟩ := e.rcReg_not_counter
  rw [← ha] at hdesc hinst
  obtain ⟨d, hd, hreg⟩ := Option.map_eq_some_iff.mp hdesc
  simp [State.readReg, hd, hreg, hr, hhigh, hlow, hinst, s.readValue_rcReg r e hk, h]

/-- Settles O12: the read is one of FLAGS that clears all four flags. -/
theorem flagsRcRead : Obligations.FlagsRcRead := by
  intro s r a e k h hr
  have hread := s.readReg_flagsRc h hr
  obtain ⟨hbits, hfirst⟩ := s.fget_lower_all e k
  refine ⟨by rw [hread], s.lower e k 0xF, ?_, hbits, hfirst, s.keepsRegsBut_lower_all e k, s.keepsMemory_lower_all e k⟩
  show execFlagsRcRead r a s = _
  simp [execFlagsRcRead, h, hread]

end Sys2Proof.Machine
end

section
/-! PROOFS. O26: the steps of a table-slot write. -/

namespace Sys2Proof.Machine

/-! ### GO (R179, R180) -/

/-- The operands of a write of CDC_WCTRL. -/
def State.wctrl (s : State) (g : Nat) (nowait : Bool) (hold : Nat) : State :=
  (s.fset CDC_WCTRL_NOWAIT (b2n nowait) g).fset CDC_WCTRL_HOLD_US hold g

section Wctrl
variable (s : State) (g : Nat) (nowait : Bool) (hold : Nat)

@[simp] theorem State.slot_wctrl (id : Nat) : (s.wctrl g nowait hold).slot id = s.slot id := by
  rw [State.wctrl, State.slot_fset, State.slot_fset]

@[simp] theorem State.slotRefs_wctrl (id : Nat) : (s.wctrl g nowait hold).slotRefs id = s.slotRefs id := by
  rw [State.slotRefs, State.wctrl, State.fset_items, State.fset_items, State.slotRefs]

@[simp] theorem State.wctrl_now : (s.wctrl g nowait hold).now = s.now := by
  rw [State.wctrl, State.fset_now, State.fset_now]

@[simp] theorem State.byte_wctrl (a : Nat) : (s.wctrl g nowait hold).byte a = s.byte a := by
  rw [State.wctrl, State.byte_fset, State.byte_fset]

@[simp] theorem State.writeOf_wctrl (k : Nat) : (s.wctrl g nowait hold).writeOf k = s.writeOf k := by
  rw [State.writeOf, State.wctrl, State.fset_slots, State.fset_slots, State.writeOf]

@[simp] theorem State.chamberOf_wctrl (k : Nat) : (s.wctrl g nowait hold).chamberOf k = s.chamberOf k := by
  simp only [State.chamberOf, State.wctrl, State.chamber_fset]

@[simp] theorem State.sel_wctrl (r : Requester) (a : Nat) : (s.wctrl g nowait hold).sel r a = s.sel r a := by
  rw [State.sel, State.wctrl, State.fset_sels, State.fset_sels, State.sel]

end Wctrl

/-- A field of a register other than CDC_WCTRL. -/
theorem State.fget_wctrl (s : State) (g : Nat) (nowait : Bool) (hold : Nat) (f : Fld) (i j : Nat)
    (h : regAddr CDC_WCTRL g 0 ≠ regAddr f.reg i j) : (s.wctrl g nowait hold).fget f i j = s.fget f i j := by
  rw [State.wctrl, State.fget_fset_ne _ CDC_WCTRL_HOLD_US _ _ _ _ _ _ h, State.fget_fset_ne _ CDC_WCTRL_NOWAIT _ _ _ _ _ _ h]

theorem State.fget_wctrl_len (s : State) (g : Nat) (nowait : Bool) (hold : Nat) :
    (s.wctrl g nowait hold).fget CDC_WLEN_LEN g = s.fget CDC_WLEN_LEN g :=
  s.fget_wctrl g nowait hold CDC_WLEN_LEN g 0 (by simp [regAddr, CDC_WCTRL, CDC_WLEN_LEN, CDC_WLEN])

theorem State.fget_wctrl_src (s : State) (g : Nat) (nowait : Bool) (hold : Nat) :
    (s.wctrl g nowait hold).fget CDC_WSRC_LO_ADDR g = s.fget CDC_WSRC_LO_ADDR g ∧
      (s.wctrl g nowait hold).fget CDC_WSRC_HI_ADDR g = s.fget CDC_WSRC_HI_ADDR g :=
  ⟨s.fget_wctrl g nowait hold CDC_WSRC_LO_ADDR g 0 (by simp [regAddr, CDC_WCTRL, CDC_WSRC_LO_ADDR, CDC_WSRC_LO]),
    s.fget_wctrl g nowait hold CDC_WSRC_HI_ADDR g 0 (by simp [regAddr, CDC_WCTRL, CDC_WSRC_HI_ADDR, CDC_WSRC_HI])⟩

/-- The state of a chamber lies below the gallery blocks. -/
theorem State.chLive_wctrl (s : State) (g : Nat) (nowait : Bool) (hold n : Nat) :
    (s.wctrl g nowait hold).chLive n = s.chLive n := by
  by_cases hn : n < 16
  · rw [State.chLive, State.chLive, s.fget_wctrl]
    simp only [regAddr, CDC_WCTRL, CHB_STATE_STATE, CHB_STATE]
    omega
  · simp [State.chLive, hn]

theorem elim_ite_some {α β : Type} {c : Prop} [Decidable c] (a : α) (o : Option α) (x : β) (f : α → β) :
    (if c then some a else o).elim x f = if c then f a else o.elim x f := by
  split <;> rfl

/-- The RESULT of the first of R180's cases that refuses the write of slot `id` from gallery `g` of chamber `n`. -/
def State.goRefusal (s : State) (g n id : Nat) (nowait : Bool) : Option Nat :=
  if (s.slot id).owner ≠ some n then some wNotOwned
  else if !s.chLive n then some wNotLive
  else if (s.slot id).write.isSome then some wBusy
  else if !lengthOk (slotKind id) (s.fget CDC_WLEN_LEN g) then some wBadLength
  else if nowait && s.slotRefs id != 0 then some wInUse
  else none

theorem State.goRefusal_wctrl (s : State) (g n id : Nat) (nowait asks : Bool) (hold : Nat) :
    (s.wctrl g asks hold).goRefusal g n id nowait = s.goRefusal g n id nowait := by
  simp only [State.goRefusal, State.slot_wctrl, s.chLive_wctrl, s.fget_wctrl_len, State.slotRefs_wctrl]

/-- The write that GO at gallery `g` of chamber `n` asks for, not yet WRITING. -/
def State.goWrite (s : State) (g n hold : Nat) : SlotWrite :=
  { gallery := g, chamber := n, writing := false, src := s.fget CDC_WSRC_LO_ADDR g + 2 ^ 32 * s.fget CDC_WSRC_HI_ADDR g,
    len := s.fget CDC_WLEN_LEN g, holdUs := hold, goAt := s.now, payload := [] }

theorem State.goWrite_wctrl (s : State) (g n : Nat) (nowait : Bool) (asks hold : Nat) :
    (s.wctrl g nowait asks).goWrite g n hold = s.goWrite g n hold := by
  obtain ⟨hlo, hhi⟩ := s.fget_wctrl_src g nowait asks
  simp only [State.goWrite, hlo, hhi, s.fget_wctrl_len, State.wctrl_now]

/-- A write of slot `id` HELD, the slot closed. -/
def State.holdSlot (s : State) (id : Nat) (w : SlotWrite) : State :=
  (s.setSlot id { s.slot id with write := some w }).wstatus w.gallery 1 0 0

section Go
variable {s : State} {g n id hold : Nat} {nowait : Bool}

theorem State.slotGo_running (h : (s.writeOf g).isSome = true) : s.slotGo g id nowait hold = s.bump CDC_GO_IGNORED_COUNT 1 g :=
  if_pos h

/-- GO with no write running: a refusal, or a write HELD that begins at once where no item references the slot. -/
theorem State.slotGo_eq (hw : s.writeOf g = none) (hc : s.chamberOf g = some n) : s.slotGo g id nowait hold =
    (s.goRefusal g n id nowait).elim
      (let w := s.goWrite g n hold
       if (s.holdSlot id w).slotRefs id == 0 then (s.holdSlot id w).startWriting id w else s.holdSlot id w)
      (fun res => s.wstatus g 4 res 0) := by
  simp only [State.slotGo, State.goRefusal, hw, hc, Option.isSome_none, Bool.false_eq_true, if_false,
    State.holdSlot, State.goWrite, elim_ite_some, Option.elim_none]
  rfl

end Go

theorem State.slotRefs_holdSlot (s : State) (id : Nat) (w : SlotWrite) (k : Nat) : (s.holdSlot id w).slotRefs k = s.slotRefs k := by
  rw [State.slotRefs, State.holdSlot, State.wstatus, State.wset_items, State.setSlot_items, State.slotRefs]

theorem State.wstatus_refused (s : State) (g res : Nat) :
    s.wstatus g 4 res 0 = s.wset CDC_WSTATUS (4 * 2 ^ 28 + res * 2 ^ 16) g := by rw [State.wstatus, Nat.add_zero]

/-- A HELD write. -/
theorem State.holdSlot_spec (s : State) (id : Nat) (w : SlotWrite) :
    (s.holdSlot id w).fget CDC_WSTATUS_WSTATE w.gallery = 1 ∧ ((s.holdSlot id w).slot id).write = some w ∧
      ((s.holdSlot id w).slot id).content = (s.slot id).content ∧ s.KeepsMemory (s.holdSlot id w) := by
  refine ⟨?_, ?_, ?_, fun _ => rfl⟩
  · rw [State.holdSlot, State.wstatus]
    exact (State.fget_wset_self _ CDC_WSTATUS_WSTATE _ _ _).trans (by decide)
  · simp [State.holdSlot, State.wstatus]
  · simp [State.holdSlot, State.wstatus]

section ExecGo
variable {s : State} {r : Requester} {g : Nat} (hmay : s.mayWriteGallery r g = true)
include hmay

theorem execSlotWrite_may (nowait : Bool) (hold : Nat) :
    exec (.slotWrite r g nowait hold) s = .next ((s.wctrl g nowait hold).slotGo g
      (bitsOf (s.sel r (regAddr CDC_SLOT_SEL g 0)).toNat 8 0) nowait (hold % 2 ^ 16)) := by
  show execSlotWrite r g nowait hold s = _
  rw [execSlotWrite, if_pos hmay, ← s.sel_wctrl g nowait hold, State.wctrl]

theorem execSlotWrite_running (h : (s.writeOf g).isSome = true) (nowait : Bool) (hold : Nat) :
    exec (.slotWrite r g nowait hold) s = .next ((s.wctrl g nowait hold).bump CDC_GO_IGNORED_COUNT 1 g) := by
  rw [execSlotWrite_may hmay, State.slotGo_running (by rwa [State.writeOf_wctrl])]

variable {n id hold : Nat} {nowait : Bool} (hw : s.writeOf g = none) (hc : s.chamberOf g = some n)
  (hid : bitsOf (s.sel r (regAddr CDC_SLOT_SEL g 0)).toNat 8 0 = id)
include hw hc hid

theorem execSlotWrite_refused {res : Nat} (h : s.goRefusal g n id nowait = some res) :
    exec (.slotWrite r g nowait hold) s =
      .next ((s.wctrl g nowait hold).wset CDC_WSTATUS (4 * 2 ^ 28 + res * 2 ^ 16) g) := by
  rw [execSlotWrite_may hmay, hid, State.slotGo_eq (n := n) (by rwa [State.writeOf_wctrl]) (by rwa [State.chamberOf_wctrl]),
    State.goRefusal_wctrl, h, Option.elim_some, State.wstatus_refused]

theorem execSlotWrite_held (h : s.goRefusal g n id nowait = none) (hrefs : s.slotRefs id ≠ 0) :
    exec (.slotWrite r g nowait hold) s = .next ((s.wctrl g nowait hold).holdSlot id (s.goWrite g n (hold % 2 ^ 16))) := by
  rw [execSlotWrite_may hmay, hid, State.slotGo_eq (n := n) (by rwa [State.writeOf_wctrl]) (by rwa [State.chamberOf_wctrl]),
    State.goRefusal_wctrl, h, Option.elim_none]
  simp only [State.goWrite_wctrl, State.slotRefs_holdSlot, State.slotRefs_wctrl, beq_iff_eq, if_neg hrefs]

end ExecGo

/-! ### The payload (R184) -/

section Payload
variable {s u : State} {k : Nat} {w : SlotWrite} {b : List Byte}

theorem State.checkPayload_kept (h : s.readVa (reqCdc w.gallery) w.chamber w.src w.len = (.ok b, u))
    (hb : contentOk (slotKind k) b = true) (hs : slotKind k = 2 → (parseFn b).seamsOk = true) :
    s.checkPayload k w = u.setSlot k { u.slot k with write := some { w with payload := b } } := by
  by_cases hk : slotKind k = 2
  · simp [State.checkPayload, h, hb, hs hk]
  · simp [State.checkPayload, h, hb, hk]

theorem State.checkPayload_badContent (h : s.readVa (reqCdc w.gallery) w.chamber w.src w.len = (.ok b, u))
    (hb : contentOk (slotKind k) b = false) : s.checkPayload k w = (u.refuseWrite w.gallery k wBadContent).decodeAll := by
  simp [State.checkPayload, h, hb]

theorem State.checkPayload_seam (h : s.readVa (reqCdc w.gallery) w.chamber w.src w.len = (.ok b, u))
    (hb : contentOk (slotKind k) b = true) (hk : slotKind k = 2) (hs : (parseFn b).seamsOk = false) :
    s.checkPayload k w = (u.refuseWrite w.gallery k wTableSeam).decodeAll := by
  rw [hk] at hb
  simp [State.checkPayload, h, hb, hk, hs]

theorem State.checkPayload_fault {f : MFault} (h : s.readVa (reqCdc w.gallery) w.chamber w.src w.len = (.error f, u)) :
    s.checkPayload k w = (u.refuseWrite w.gallery k wSourceFault).decodeAll := by
  simp [State.checkPayload, h]

end Payload

/-! ### The later steps of a write (R175, R179, R182, R183) -/

section Steps
variable {s : State} {r : Requester} {g k : Nat} {w : SlotWrite} (h : s.writeOf g = some (k, w))
include h

theorem execSlotWriteWriting_starts (hw : w.writing = false) (hr : s.slotRefs k = 0) :
    exec (.slotWriteWriting g) s = .next (s.startWriting k w) := by
  show execSlotWriteWriting g s = _
  simp [execSlotWriteWriting, h, hw, hr]

theorem execHoldExpired_refuses (hw : w.writing = false) (hh : w.holdUs ≠ 0) (ht : w.goAt + 1000 * w.holdUs ≤ s.now)
    (hr : s.slotRefs k ≠ 0) : exec (.holdExpired g) s = .next (s.refuseWrite g k wHoldExpired).decodeAll := by
  show execHoldExpired g s = _
  simp [execHoldExpired, h, hw, hh, ht, hr]

theorem State.slotAbort_held (hw : w.writing = false) : s.slotAbort g = (s.refuseWrite g k wAbandoned).decodeAll := by
  simp [State.slotAbort, h, hw]

theorem State.slotAbort_writing (hw : w.writing = true) : s.slotAbort g = s := by
  simp [State.slotAbort, h, hw]

end Steps

theorem execSlotWriteAbort_may {s : State} {r : Requester} {g : Nat} (h : s.mayWriteGallery r g = true) :
    exec (.slotWriteAbort r g) s = .next (s.slotAbort g) :=
  congrArg Host.Outcome.next (if_pos h)

/-- The payload in the slot under its next generation, the slot reopened. -/
def State.fillSlot (s : State) (g k : Nat) (w : SlotWrite) : State :=
  let gen := nextGen (s.slot k).gen
  (s.setSlot k { s.slot k with gen := gen, content := w.payload, write := none }).wstatus g 3 wOk gen

theorem execSlotWriteDone_fills {s : State} {g k : Nat} {w : SlotWrite} (h : s.writeOf g = some (k, w)) (hw : w.writing = true)
    (hp : w.payload ≠ []) : exec (.slotWriteDone g) s = .next (s.fillSlot g k w).decodeAll := by
  show execSlotWriteDone g s = _
  simp [execSlotWriteDone, h, hw, hp, State.fillSlot]

theorem State.slot_fillSlot (s : State) (g k : Nat) (w : SlotWrite) (j : Nat) : (s.fillSlot g k w).slot j =
    if j = k then { s.slot k with gen := nextGen (s.slot k).gen, content := w.payload, write := none } else s.slot j := by
  rw [State.fillSlot, State.wstatus, State.slot_wset]
  split
  case isTrue hj => rw [hj, State.slot_setSlot_self]
  case isFalse hj => exact State.slot_setSlot_ne s _ (Ne.symm hj)

theorem State.keepsRegsBut_fillSlot (s : State) (g k : Nat) (w : SlotWrite) :
    s.KeepsRegsBut (s.fillSlot g k w) [regAddr CDC_WSTATUS g 0] :=
  (s.setSlot k _).keepsRegsBut_rput _ _

/-- Where no engine instruction is queued there is nothing to decode. -/
theorem State.decodeAll_of_idle {s : State} (h : s.engOps = []) : s.decodeAll = s :=
  State.decodePass_of_none (by simp [h])

/-- Settles O26: GO by the refusals of R180, then the steps of a running write. -/
theorem slotWrites : Obligations.SlotWrites := by
  intro s r g asked id len ended
  refine ⟨fun n hold hmay hw hc hlive _ _ howner hfree hlen hrefs => ?_, fun n nowait hold hmay hw hc _ _ => ?_,
    fun nowait hold hmay hw => execSlotWrite_running hmay hw nowait hold, fun nowait hold hmay => ?_,
    fun k w hw hheld hrefs => execSlotWriteWriting_starts hw hheld hrefs, fun k w b u hg hread => ?_,
    fun k w f u hg hread => ?_, fun k w hw hheld hhold htime hrefs => ?_, fun k w hmay hw hheld => ?_,
    fun k w hmay hw hwriting => ?_, fun k w hw hwriting hpay => ?_⟩
  · have hok : s.goRefusal g n id false = none := by simpa [State.goRefusal, howner, hlive, hfree] using hlen
    obtain ⟨hstate, hwrite, hcontent, hmem⟩ := (s.wctrl g false hold).holdSlot_spec id (s.goWrite g n (hold % 2 ^ 16))
    exact ⟨_, execSlotWrite_held hmay hw hc rfl hok hrefs, hstate, hwrite, hcontent.trans (by rw [State.slot_wctrl]), fun a =>
      (hmem a).trans (s.byte_wctrl ..)⟩
  · intro refused
    have hrefused : ∀ res, s.goRefusal g n id nowait = some res → refused res := fun res h =>
      execSlotWrite_refused hmay hw hc rfl h
    refine ⟨fun ho => hrefused 1 ?_, fun ho hl => hrefused 8 ?_, fun ho hl hb => hrefused 2 ?_, fun ho hl hf hlen => hrefused 5 ?_,
      fun ho hl hf hlen hn hrefs => hrefused 3 ?_⟩
    · simp [State.goRefusal, ho, wNotOwned]
    · simp [State.goRefusal, ho, hl, wNotLive]
    · simp [State.goRefusal, ho, hl, hb, wBusy]
    · simp [State.goRefusal, ho, hl, hf, show lengthOk (slotKind id) (s.fget CDC_WLEN_LEN g) = false from hlen, wBadLength]
    · simp [State.goRefusal, ho, hl, hf, show lengthOk (slotKind id) (s.fget CDC_WLEN_LEN g) = true from hlen, hn, hrefs, wInUse]
  · show execSlotWrite r g nowait hold s = _
    rw [execSlotWrite, if_neg (by simp [hmay])]
  · subst hg
    exact ⟨State.checkPayload_kept hread, State.checkPayload_badContent hread, State.checkPayload_seam hread⟩
  · subst hg
    exact State.checkPayload_fault hread
  · rw [execHoldExpired_refuses hw hheld hhold htime hrefs]
    rfl
  · rw [execSlotWriteAbort_may hmay, State.slotAbort_held hw hheld]
    rfl
  · rw [execSlotWriteAbort_may hmay, State.slotAbort_writing hw hwriting]
  · have hself := s.slot_fillSlot g k w k
    rw [if_pos rfl] at hself
    exact ⟨s.fillSlot g k w, execSlotWriteDone_fills hw hwriting hpay, congrArg Slot.content hself, congrArg Slot.write hself,
      congrArg Slot.gen hself, fun j hj => (s.slot_fillSlot g k w j).trans (if_neg hj), fun _ => rfl, s.keepsRegsBut_fillSlot g k w,
      fun hidle => State.decodeAll_of_idle hidle⟩

end Sys2Proof.Machine
end

section
/-! PROOFS. O29: how the head of an engine's queue runs to its status word or ends its item. -/

namespace Sys2Proof.Machine

section
variable {s u v x : State} {c : Nat} {o : EngOp}

/-! ### VXE_COMPLETE (R181, R243) -/

theorem execVxeComplete_empty (h : (s.vxAdvance c).engHead c .vxe = none) : exec (.vxeComplete c) s = .next (s.vxAdvance c) := by
  show execVxeComplete c s = _
  simp only [execVxeComplete, h]

theorem execVxeComplete_head (h : (s.vxAdvance c).engHead c .vxe = some o) : exec (.vxeComplete c) s =
    .next (if o.aborted || o.status.isSome || !(s.vxAdvance c).engReady o then s.vxAdvance c
      else ((s.vxAdvance c).vxRun o).deliver) := by
  show execVxeComplete c s = _
  simp only [execVxeComplete, h]

theorem execVxeComplete_waits (h : (s.vxAdvance c).engHead c .vxe = some o)
    (hw : o.aborted = true ∨ o.status.isSome = true ∨ (s.vxAdvance c).engReady o = false) :
    exec (.vxeComplete c) s = .next (s.vxAdvance c) := by
  rw [execVxeComplete_head h, if_pos (by simpa [or_assoc] using hw)]

theorem execVxeComplete_runs (h : (s.vxAdvance c).engHead c .vxe = some o) (ha : o.aborted = false) (hs : o.status = none)
    (hr : (s.vxAdvance c).engReady o = true) : exec (.vxeComplete c) s = .next ((s.vxAdvance c).vxRun o).deliver := by
  rw [execVxeComplete_head h, if_neg (by simp [ha, hs, hr])]

theorem State.vxRun_stops {f : MFault} (h : u.vxCompute (u.vxRunOf o) = (.error (.inl f), v)) :
    u.vxRun o = v.engFailed o f.code f.cause := by
  simp only [State.vxRun, h]

theorem State.vxRun_badBlock {k : Nat} (h : u.vxCompute (u.vxRunOf o) = (.error (.inr k), v)) :
    u.vxRun o = v.engFailed o cCodedBlock k := by
  simp only [State.vxRun, h]

theorem State.vxRun_computes {z : VxDone} (h : u.vxCompute (u.vxRunOf o) = (.ok z, v)) :
    u.vxRun o = v.vxFinish (u.vxRunOf o) z := by
  simp only [State.vxRun, h]

theorem State.vxFinish_written {y : VxRun} {z : VxDone} (h : v.vxWrite y z = (none, x)) :
    v.vxFinish y z = x.engServed y.o (statusWord 0 false (z.vfl.or z.sfl)) := by
  simp only [State.vxFinish, h]

theorem State.vxFinish_fault {y : VxRun} {z : VxDone} {f : MFault} (h : v.vxWrite y z = (some f, x)) :
    v.vxFinish y z = x.engFailed y.o f.code f.cause := by
  simp only [State.vxFinish, h]

/-! ### MX_RUN_COMPLETE (R181, R219, R443) -/

/-- An operation that still awaits an answer from another device does nothing. -/
theorem State.remotely_awaiting {w : Owner} {q : Nat} {fail : MFault → State → State} {run : State → State}
    (h : ¬ s.awaitsNoRead w) : s.remotely w q fail run = s :=
  if_pos (Bool.eq_true_of_not_eq_false h)

theorem execMxRunComplete_empty (h : (s.mxAdvance c).engHead c .mxe = none) :
    exec (.mxRunComplete c) s = .next (s.mxAdvance c) := by
  show execMxRunComplete c s = _
  simp only [execMxRunComplete, h]

theorem execMxRunComplete_waits (h : (s.mxAdvance c).engHead c .mxe = some o)
    (hw : o.aborted = true ∨ (s.mxAdvance c).engReady o = false) : exec (.mxRunComplete c) s = .next (s.mxAdvance c) := by
  show execMxRunComplete c s = _
  simp only [execMxRunComplete, h]
  rw [if_pos (by simpa using hw)]

section
variable (h : (s.mxAdvance c).engHead c .mxe = some o) (ha : o.aborted = false) (hr : (s.mxAdvance c).engReady o = true)
include h ha hr

theorem execMxRunComplete_runs (hs : o.status = none) : exec (.mxRunComplete c) s =
    .next ((s.mxAdvance c).remotely (.eng o.id) o.item.queue (fun f s => s.engFailed o f.code f.cause)
      (fun s => s.mxCompute o)).deliver := by
  show execMxRunComplete c s = _
  simp [execMxRunComplete, h, ha, hr, hs]

theorem execMxRunComplete_ends {w : Nat} (hs : o.status = some w) : exec (.mxRunComplete c) s =
    .next (if o.checker = none ∧ (s.mxAdvance c).awaits (.eng o.id) = false then (s.mxAdvance c).engOver o w else s.mxAdvance c) := by
  show execMxRunComplete c s = _
  simp [execMxRunComplete, h, ha, hr, hs]

end

/-! ### A tile drained to the end (R218, R219, R221) -/

/-- Lines of a tile that the watch sees, and the tile's flags raised. -/
def State.mxShown (s : State) (o : EngOp) (a : Tile) (rows : List Written) : State :=
  (s.watch o.core (pfRnd (o.aux.headD 0)) rows).raise .mxe o.core o.strand a.flags

theorem State.mxDrain_fault {a : Tile} {f : MFault} {k : Nat}
    (h : u.engWrites o (u.coreChamber o.core) a.left = ((some f, k), v)) :
    u.mxDrain o a a.left.length = (v.mxShown o a (a.wrote k).watched).engFailed o f.code f.cause := by
  simp only [State.mxDrain, List.take_length, h, State.mxShown]

theorem State.mxDrain_written {a : Tile} {k : Nat} (h : u.engWrites o (u.coreChamber o.core) a.left = ((none, k), v)) :
    let z := (v.mxShown o a a.seen).mxCount o.core (o.aux.headD 0) (parseMx o.desc)
    u.mxDrain o a a.left.length = if o.sampled then z.modEng o.id (fun o => { o with status := some (statusWord 0 true a.flags) })
      else z.engServed o (statusWord 0 false a.flags) := by
  simp only [State.mxDrain, List.take_length, h, Nat.lt_irrefl, if_false, State.mxShown]

theorem State.mxCompute_begun {a : Tile} (h : o.tile = some a) : u.mxCompute o = u.mxDrain o a a.left.length := by
  simp only [State.mxCompute, h]

theorem State.mxCompute_unformed (ht : o.tile = none) (h : u.mxForm o = (none, v)) : u.mxCompute o = v := by
  simp only [State.mxCompute, ht, h]

theorem State.mxCompute_formed {a : Tile} (ht : o.tile = none) (h : u.mxForm o = (some a, v)) :
    u.mxCompute o = v.mxDrain o a a.left.length := by
  simp only [State.mxCompute, ht, h]

/-! ### DUP_COMPARE (R229 to R231) -/

/-- What the compare of `o` finds. -/
def State.dupFound (s : State) (c : Nat) (o : EngOp) (upset : List (Nat × Nat)) : Option Nat :=
  dupWorst (upsetCopy o.dup upset) (pfC (o.aux.headD 0)) ((parseMx o.desc).k + b2n (parseMx o.desc).accIn) (s.dupTol c)

/-- A compare that passed, counted with its worst ratio. -/
def State.dupPassed (s : State) (c r : Nat) : State :=
  let s := s.bump MXE_DUP_SAMPLED_COUNT 1 c
  s.fset MXE_DUP_WORST_RATIO (max r (s.fget MXE_DUP_WORST_RATIO c)) c

section
variable {w d : Nat} {upset : List (Nat × Nat)} (h : s.engHead c .mxe = some o) (ha : o.aborted = false) (hs : o.status = some w)
  (hd : o.checker = some d) (hw : s.awaits (.eng o.id) = false)
include h ha hs hd hw

theorem execDupCompare_mismatch (hf : s.dupFound c o upset = none) :
    exec (.dupCompare c upset) s = .next ((s.dupMismatch c d o.strand).engFailed o cDupMismatch 0) := by
  rw [State.dupFound] at hf
  show execDupCompare c upset s = _
  simp only [execDupCompare, h, hs, hd, ha, hw, Bool.or_self, Bool.false_eq_true, if_false, hf]

theorem execDupCompare_passes {r : Nat} (hf : s.dupFound c o upset = some r) :
    exec (.dupCompare c upset) s = .next ((s.dupPassed c r).engOver o w) := by
  rw [State.dupFound] at hf
  show execDupCompare c upset s = _
  simp only [execDupCompare, h, hs, hd, ha, hw, Bool.or_self, Bool.false_eq_true, if_false, hf, State.dupPassed]

end

theorem State.dupPassed_spec (s : State) (c r : Nat) :
    (s.dupPassed c r).fget MXE_DUP_SAMPLED_COUNT c = min (2 ^ 32 - 1) (s.fget MXE_DUP_SAMPLED_COUNT c + 1) ∧
      (s.dupPassed c r).fget MXE_DUP_WORST_RATIO c = max r (s.fget MXE_DUP_WORST_RATIO c) % 2 ^ 16 ∧
      s.KeepsMemory (s.dupPassed c r) ∧ (s.dupPassed c r).strands = s.strands := by
  have hworst : regAddr MXE_DUP_SAMPLED_COUNT.reg c 0 ≠ regAddr MXE_DUP_WORST_RATIO.reg c 0 := by
    simp [regAddr, MXE_DUP_SAMPLED_COUNT, MXE_DUP_SAMPLED, MXE_DUP_WORST_RATIO, MXE_DUP_WORST]
  have hkept : (s.bump MXE_DUP_SAMPLED_COUNT 1 c).fget MXE_DUP_WORST_RATIO c = s.fget MXE_DUP_WORST_RATIO c := by
    rw [State.bump, State.fget_fset_ne _ _ _ _ _ _ _ _ hworst]
  refine ⟨?_, ?_, fun a => ?_, ?_⟩
  · rw [State.dupPassed, State.fget_fset_ne _ _ _ _ _ _ _ _ hworst.symm, State.fget_bump_self _ _ _ _ _ (by decide)]
    rfl
  · rw [State.dupPassed, State.fget_fset_self _ _ _ _ _ (by decide), hkept]
    rfl
  · rw [State.dupPassed, State.byte_fset, State.byte_bump]
  · rw [State.dupPassed, State.fset_strands, State.bump_strands]

/-! ### ATU_COMPLETE (R290, R296) -/

/-- Core `c`'s ATU queue decoded as far as it can be. -/
def State.atDecoded (s : State) (c : Nat) : State := s.decodePass atDecoder (fun o => o.core == c && o.eng == .atu)

theorem execAtuComplete_eq : exec (.atuComplete c) s = .next (((s.atDecoded c).atRunHead c).atAdvance c).deliver := rfl

theorem State.atRunHead_empty (h : u.engHead c .atu = none) : u.atRunHead c = u := by
  simp only [State.atRunHead, h]

theorem State.atRunHead_waits (h : u.engHead c .atu = some o)
    (hw : o.aborted = true ∨ o.status.isSome = true ∨ o.aux.headD 0 = 1 ∨ u.engReady o = false) : u.atRunHead c = u := by
  simp only [State.atRunHead, h]
  rw [if_pos (by simpa [or_assoc] using hw)]

section
variable (h : u.engHead c .atu = some o) (ha : o.aborted = false) (hs : o.status = none) (hx : o.aux.headD 0 ≠ 1)
  (hr : u.engReady o = true)
include h ha hs hx hr

theorem State.atRunHead_goes : u.atRunHead c = if isSeq o then u.seqRun o else
    u.remotely (.eng o.id) o.item.queue (fun f s => s.engFailed o f.code f.cause)
      (fun s => if isAppend o then s.appendRun o else s.attendRun o) := by
  simp only [State.atRunHead, h]
  rw [if_neg (by simpa [ha, hs, hr] using hx)]

theorem State.atRunHead_seq (hop : opcodeOf o.word = 0x8A) : u.atRunHead c = u.seqRun o := by
  rw [State.atRunHead_goes h ha hs hx hr, if_pos (by simp [isSeq, hop])]

theorem State.atRunHead_append (hn : u.awaitsNoRead (.eng o.id)) (hop : opcodeOf o.word = 0x89)
    (hw : ((u.asksAs (.eng o.id)).appendRun o).ms.wanted = []) :
    u.atRunHead c = ((u.asksAs (.eng o.id)).appendRun o).readAll (.eng o.id) := by
  have happ : isAppend o = true := by simp [isAppend, hop]
  rw [State.atRunHead_goes h ha hs hx hr, if_neg (by simp [isSeq, hop])]
  simp only [happ, if_true]
  exact State.remotely_local hn hw

theorem State.atRunHead_attend (hn : u.awaitsNoRead (.eng o.id)) (hop : opcodeOf o.word = 0x88)
    (hw : ((u.asksAs (.eng o.id)).attendRun o).ms.wanted = []) :
    u.atRunHead c = ((u.asksAs (.eng o.id)).attendRun o).readAll (.eng o.id) := by
  have happ : isAppend o = false := by simp [isAppend, hop]
  rw [State.atRunHead_goes h ha hs hx hr, if_neg (by simp [isSeq, hop])]
  simp only [happ, Bool.false_eq_true, if_false]
  exact State.remotely_local hn hw

end
end

/-- Settles O29, engine by engine. -/
theorem engineCompletion : Obligations.EngineCompletion := by
  intro s c
  refine ⟨?vxe, ?mxe, fun u o a ht => ⟨fun f k v hw => ?fault, fun k v hw => ?drained⟩, fun u o ht =>
    ⟨fun v => State.mxCompute_unformed ht, fun a v => State.mxCompute_formed ht⟩, ?dup, ?atu⟩
  case vxe =>
    refine ⟨execVxeComplete_empty, fun o => execVxeComplete_waits, fun o h ha hs hr => ?_⟩
    rw [execVxeComplete_runs h ha hs hr]
    refine ⟨fun z v hz => ⟨fun x hx => ?_, fun f x hx => ?_⟩, fun f v hf => ?_, fun k v hk => ?_⟩
    · rw [State.vxRun_computes hz, State.vxFinish_written hx]
      rfl
    · rw [State.vxRun_computes hz, State.vxFinish_fault hx]
      rfl
    · rw [State.vxRun_stops hf]
    · rw [State.vxRun_badBlock hk]
      rfl
  case mxe =>
    refine ⟨execMxRunComplete_empty, fun o => execMxRunComplete_waits, fun o h ha hr =>
      ⟨fun hs hn hw => ?_, fun hs hn => ?_, fun v => execMxRunComplete_ends h ha hr⟩⟩
    · rw [execMxRunComplete_runs h ha hr hs, State.remotely_local hn hw]
    · rw [execMxRunComplete_runs h ha hr hs, State.remotely_awaiting hn]
  case fault => exact (State.mxCompute_begun ht).trans (State.mxDrain_fault hw)
  case drained =>
    have hdrain := (State.mxCompute_begun ht).trans (State.mxDrain_written hw)
    exact ⟨fun hs => hdrain.trans (if_neg (by simp [hs])), fun hs => hdrain.trans (if_pos hs)⟩
  case dup =>
    intro o w d upset h ha hs hd hw
    exact ⟨execDupCompare_mismatch h ha hs hd hw, fun r hf =>
      ⟨s.dupPassed c r, execDupCompare_passes h ha hs hd hw hf, s.dupPassed_spec c r⟩⟩
  case atu =>
    refine ⟨fun h => ?_, fun o h hw => ?_, fun o h ha hs hx hr => ⟨fun hop => ?_, fun hn hop hw => ?_, fun hn hop hw => ?_⟩⟩
    · rw [execAtuComplete_eq, State.atDecoded, State.atRunHead_empty h]
    · rw [execAtuComplete_eq, State.atDecoded, State.atRunHead_waits h hw]
    · rw [execAtuComplete_eq, State.atDecoded, State.atRunHead_seq h ha hs hx hr hop]
    · rw [execAtuComplete_eq, State.atDecoded, State.atRunHead_append h ha hs hx hr hn hop hw]
    · rw [execAtuComplete_eq, State.atDecoded, State.atRunHead_attend h ha hs hx hr hn hop hw]

end Sys2Proof.Machine
end

section
/-! PROOFS. O30: the status word, and the register that receives it. -/

namespace Sys2Proof.Machine

/-! ### The fields of a status word (R220) -/

theorem Flags.bits_lt (f : Flags) : f.bits < 16 := by
  obtain ⟨of, uf, ix, iv⟩ := f
  revert of uf ix iv
  decide

theorem b2n_le_one (b : Bool) : b2n b ≤ 1 := by cases b <;> decide

section
variable (code : Nat) (sampled : Bool) (f : Flags)

theorem bitsOf_statusWord_code (h : code < 256) : bitsOf (statusWord code sampled f) 31 24 = code := by
  have hflags := f.bits_lt
  have hsampled := b2n_le_one sampled
  rw [bitsOf_eq, statusWord]
  omega

theorem bitsOf_statusWord_sampled : bitsOf (statusWord code sampled f) 7 7 = b2n sampled := by
  have hflags := f.bits_lt
  have hsampled := b2n_le_one sampled
  rw [bitsOf_eq, statusWord]
  omega

theorem bitsOf_statusWord_flags : bitsOf (statusWord code sampled f) 3 0 = f.bits := by
  have hflags := f.bits_lt
  rw [bitsOf_eq, statusWord]
  omega

end

/-! ### The write of a status word (R219) -/

/-- A number without its bit `r` shares no bit with the mask of `r`. -/
theorem sub_and_two_pow_and_two_pow (n r : Nat) : n - (n &&& 2 ^ r) &&& 2 ^ r = 0 := by
  rw [Nat.and_two_pow, Nat.and_two_pow]
  cases h : n.testBit r with
  | false => simp [h]
  | true =>
    have hq := Nat.div_eq_sub_div (Nat.two_pow_pos r) (Nat.ge_two_pow_of_testBit h)
    rw [Nat.testBit_eq_decide_div_mod_eq, decide_eq_true_eq] at h
    have hclear : (n - 2 ^ r).testBit r = false := by
      rw [Nat.testBit_eq_decide_div_mod_eq, decide_eq_false_iff_not]
      omega
    simp [hclear]

theorem Strand.unmark_notReady (x : Strand) (r : Nat) : (x.unmark (regMask r)).notReady &&& regMask r = 0 :=
  sub_and_two_pow_and_two_pow x.notReady r

/-- No record of an engine's instruction is written where its chamber does not trace (R681). -/
theorem State.traceOp_of_untraced {s : State} {o : EngOp} (h : s.traceChamber o.core = none) (code : Nat) :
    s.traceOp o code = s := by
  simp only [State.traceOp, State.traceEngine, h]

/-- An item that is over, or that has not ended, is not settled. -/
theorem State.settle_of_unended {s : State} {k : ItemKey} (h : ∀ i, s.item k = some i → i.ending = none) : s.settle k = s := by
  cases hi : s.item k with
  | none => simp only [State.settle, hi]
  | some i => simp [State.settle, hi, h i hi]

/-- The context of a strand whose register `o.sreg` receives the status word `v`. -/
def EngOp.answered (o : EngOp) (x : Strand) (v : Nat) : Strand :=
  (x.setReg o.sreg (BitVec.ofNat 32 v)).unmark (regMask o.sreg)

theorem State.writeStatus_eq {s : State} {o : EngOp} {v : Nat} (hi : ∀ i, s.item o.item = some i → i.ending = none)
    (ht : s.traceChamber o.core = none) :
    s.writeStatus o v = (s.setStrand o.core o.strand (o.answered (s.strand o.core o.strand) v)).dropEng o.id := by
  rw [State.writeStatus, State.traceOp_of_untraced ht]
  exact State.settle_of_unended hi

theorem EngOp.answered_reg (o : EngOp) (x : Strand) (v : Nat) {k : Nat} (hk : k < 8) :
    (o.answered x v).reg k = if k = o.sreg then BitVec.ofNat 32 v else x.reg k :=
  x.reg_setReg o.sreg _ hk

/-- Settles O30. (`statusWord` itself is the model's function.) -/
theorem statusWord_spec : Obligations.StatusWord := by
  refine ⟨fun code sampled f hc => ⟨bitsOf_statusWord_code code sampled f hc, bitsOf_statusWord_sampled code sampled f,
    bitsOf_statusWord_flags code sampled f⟩, fun s o v _ _ hr hi ht => ?_⟩
  rw [State.writeStatus_eq hi ht]
  intro x
  have hx : x = o.answered (s.strand o.core o.strand) v := State.strand_setStrand_self ..
  rw [hx]
  refine ⟨(o.answered_reg _ v hr).trans (if_pos rfl), Strand.unmark_notReady _ _, rfl,
    fun k hk hne => (o.answered_reg _ v hk).trans (if_neg hne), fun p hp => ?_, fun a => rfl⟩
  simpa using (List.mem_filter.mp hp).2

end Sys2Proof.Machine
end

section
/-! PROOFS. What the issue of an engine instruction with a descriptor comes to, whatever its engine: the matrix engine, the ATU, and the
routing engines. -/

namespace Sys2Proof.Machine

/-! ### What an issue and a copied descriptor say (R49, R54, R437) -/

section
variable {s v : State} {c t op m off len : Nat} {w : Word64} {d : List Byte}

theorem State.issues.strand_lt (h : s.issues c t op m w) : t < 8192 := by
  obtain ⟨⟨-, ht, -⟩, -⟩ := h
  exact ht

theorem State.issues.opcode (h : s.issues c t op m w) : opcodeOf w = op := by
  obtain ⟨-, hop, -⟩ := h
  exact hop

theorem State.copied.strand (h : s.copied c t off len d v) : v.strand c t = s.strand c t := by
  obtain ⟨-, -, hx⟩ := h
  exact hx

end

/-! ### The issue up to the copy of the descriptor (R32, R205, R206, R437) -/

/-- The issue of an instruction for engine `e` once its registers hold values: where its word is not `good` it ends as `bad`, with no room
in the engine's queue its strand waits, and else its descriptor is copied. -/
def State.engIssue (s : State) (c t e off len : Nat) (good : Prop) [Decidable good] (bad : State) (failed : MFault → State → State)
    (act : List Byte → State → State) : State :=
  if ¬good then bad else if s.engineRoom c e = false then s.stall c t (.engine e) else s.describe c t off len failed act

section
variable {s u v bad : State} {c t e off len : Nat} {good : Prop} [Decidable good] {failed : MFault → State → State}
  {act : List Byte → State → State} {f : MFault} {d : List Byte}

theorem State.engIssue_bad (hg : ¬good) : s.engIssue c t e off len good bad failed act = bad := if_pos hg

theorem State.engIssue_full (hg : good) (hr : s.engineRoom c e = false) :
    s.engIssue c t e off len good bad failed act = s.waitsFor c t (.engine e) := by
  rw [State.engIssue, if_neg (not_not_intro hg), if_pos hr]
  rfl

theorem State.engIssue_room (hg : good) (hr : s.engineRoom c e = true) :
    s.engIssue c t e off len good bad failed act = s.describe c t off len failed act := by
  rw [State.engIssue, if_neg (not_not_intro hg), if_neg (by simp [hr])]

theorem State.engIssue_owing (hg : good) (hr : s.engineRoom c e = true) (ho : s.ms.owes c t s.ms.nextId = true) :
    s.engIssue c t e off len good bad failed act = s.waitsFor c t .release :=
  (State.engIssue_room hg hr).trans (if_pos ho)

theorem State.engIssue_failed (hg : good) (hr : s.engineRoom c e = true) (ho : s.ms.owes c t s.ms.nextId = false)
    (hf : s.ownScratch c off len = (.error f, u)) :
    s.engIssue c t e off len good bad failed act = (failed f u.deliver).failMem c t f := by
  rw [State.engIssue_room hg hr, State.describe, if_neg (by simp [ho]), hf]

theorem State.engIssue_copied (hg : good) (hr : s.engineRoom c e = true) (hd : s.copied c t off len d v) :
    s.engIssue c t e off len good bad failed act = act d v := by
  obtain ⟨ho, ⟨u, hu, rfl⟩, -⟩ := hd
  rw [State.engIssue_room hg hr, State.describe, if_neg (by simp [ho]), hu]

end

/-! ### What joining a queue, and being taken from it, leave as it was (R177, R206) -/

section
variable (s : State) (c t : Nat) (x : Strand) (w : Word64) (eng : Engine) (sreg : Nat) (desc : List Byte) (aux : List Nat) (m : Bool)
  (k : Option Nat) (o : EngOp) (slots : List Nat)

@[simp] theorem State.enqueue_mem : (s.enqueue c t x w eng sreg desc aux m k).mem = s.mem := rfl
@[simp] theorem State.enqueue_regs : (s.enqueue c t x w eng sreg desc aux m k).regs = s.regs := rfl
@[simp] theorem State.enqueue_strands :
    (s.enqueue c t x w eng sreg desc aux m k).strands = (s.advance c t (x.mark (regMask sreg))).strands := rfl
@[simp] theorem State.take_mem : (s.take o slots).mem = s.mem := rfl
@[simp] theorem State.take_regs : (s.take o slots).regs = s.regs := rfl
@[simp] theorem State.take_strands : (s.take o slots).strands = s.strands := rfl

end

/-! ### The last instruction of a queue (R32, R177, R181) -/

/-- Where one instruction of a queue awaits decode, and it stands last, it is held, waits or is decoded. -/
theorem State.decodePass_last {u : State} {d : Decoder} {l : List EngOp} {o : EngOp} (hu : u.engOps = l ++ [o])
    (hl : ∀ p ∈ l, p.id ≠ o.id ∧ (p.queue = o.queue → p.decoded = true)) (hd : o.decoded = false) (ha : o.aborted = false) :
    u.decodePass d (fun p => p.queue == o.queue) =
      if (d.names u o).any (u.closedTo o.item) then u.gate o else if d.waits u o then u else d.decode u o := by
  have hearlier : l.filter (fun p => !p.decoded && p.queue == o.queue) = [] := by
    rw [List.filter_eq_nil_iff]
    intro p hp
    by_cases hq : p.queue = o.queue
    · simp [(hl p hp).2 hq]
    · simp [hq]
  have hundecoded : u.engOps.filter (fun p => !p.decoded && p.queue == o.queue) = [o] := by
    rw [hu, List.filter_append, hearlier]
    simp [hd]
  have hfound : u.engOp o.id = some o := by
    rw [State.engOp, hu, List.find?_append, List.find?_eq_none.mpr (fun p hp => by simp [(hl p hp).1])]
    simp
  simp only [State.decodePass, hundecoded, List.foldl_cons, List.foldl_nil, hfound, List.contains_nil, ha, Bool.or_self,
    Bool.false_eq_true, if_false]
  split
  · rfl
  · split <;> rfl

/-- The last instruction changed by its number. -/
theorem State.modEng_last {u : State} {l : List EngOp} {o : EngOp} (f : EngOp → EngOp) (hu : u.engOps = l ++ [o])
    (hl : ∀ p ∈ l, p.id ≠ o.id) : (u.modEng o.id f).engOps = l ++ [f o] := by
  have hkept : l.map (fun p => if p.id == o.id then f p else p) = l :=
    (List.map_congr_left (g := id) fun p hp => by simp [hl p hp]).trans (List.map_id l)
  show u.engOps.map _ = _
  rw [hu, List.map_append, hkept]
  simp

/-- An instruction stands last, its strand at the next word, where the queues and the strands say so and memory is as before. -/
theorem State.queued_of_engOps {s u : State} {o : EngOp} (ht : o.strand < 8192) (hops : u.engOps = s.engOps ++ [o])
    (hmem : u.mem = s.mem)
    (hstrands : u.strands = (s.advance o.core o.strand ((s.strand o.core o.strand).mark (regMask o.sreg))).strands) :
    s.Queued u o := by
  have hctx : ∀ d v, u.strand d v = (s.advance o.core o.strand ((s.strand o.core o.strand).mark (regMask o.sreg))).strand d v :=
    fun d v => by rw [State.strand, hstrands]; rfl
  refine ⟨hops, fun a => by rw [State.byte, hmem]; rfl, fun d v hv hne => ?_, ?_⟩
  · rw [hctx, State.advance_eq, s.strand_setStrand_ne _ ht hv hne]
  · rw [hctx, State.advance_eq, s.strand_setStrand_self]
    rfl

end Sys2Proof.Machine
end

section
/-! PROOFS. O32: the issue of MX.RUN, the writes of MXE_DUP_CTRL and of the seeds. -/

namespace Sys2Proof.Machine

/-! ### A sampled instruction joins its queue (R206, R225) -/

section
variable {s : State} {c t : Nat} {w : Word64} {x : Strand} {eng : Engine} {sreg : Nat} {desc : List Byte} {aux : List Nat}
  {m : Bool} {k : Option Nat}

/-- The instruction that a strand's issue queues, sampled or not, with its checker. -/
abbrev State.sampledOp (s : State) (eng : Engine) (c t sreg : Nat) (w : Word64) (desc : List Byte) (aux : List Nat) (m : Bool)
    (k : Option Nat) : EngOp :=
  { s.newOp eng c t sreg w desc aux with sampled := m, checker := k }

theorem State.enqueue_sampled_engOps (hx : s.strand c t = x) :
    (s.enqueue c t x w eng sreg desc aux m k).engOps = s.engOps ++ [s.sampledOp eng c t sreg w desc aux m k] := by
  subst hx
  rfl

theorem State.accept_sampled {d : Decoder} (hr : s.engineRoom c eng.index = true) (hx : s.strand c t = x)
    (hq : s.DecodedUp (s.newOp eng c t sreg w desc aux).queue) :
    let u := s.enqueue c t x w eng sreg desc aux m k
    let o := s.sampledOp eng c t sreg w desc aux m k
    s.accept c t x w eng sreg desc aux d m k =
      if (d.names u o).any (u.closedTo o.item) then u.gate o else if d.waits u o then u else d.decode u o := by
  intro u o
  rw [State.accept, if_neg (by simp [hr])]
  exact State.decodePass_last (State.enqueue_sampled_engOps hx) hq rfl rfl

end

/-! ### MX.RUN (R205, R206, R208, R210) -/

/-- MX.RUN once its descriptor is copied: it is sampled or not, and joins the MXE's queue. -/
def State.mxAccept (v : State) (c t : Nat) (y : Strand) (w : Word64) (d : List Byte) : State :=
  let (checker, x) := v.sample c (y.current.getD ⟨0, 0, none⟩) (parseMx d).noDup
  x.accept c t y w .mxe (sregOf w) d [] mxDecoder checker.isSome checker

/-- The instruction that the issue of MX.RUN queues. -/
abbrev State.mxOp (x : State) (c t : Nat) (w : Word64) (d : List Byte) (k : Option Nat) : EngOp :=
  x.sampledOp .mxe c t (sregOf w) w d [] k.isSome k

/-- The state in which it stands last in its queue. -/
abbrev State.mxQueued (x : State) (c t : Nat) (y : Strand) (w : Word64) (d : List Byte) (k : Option Nat) : State :=
  x.enqueue c t y w .mxe (sregOf w) d [] k.isSome k

/-- The slots that a descriptor names under its profile (R210). -/
abbrev State.mxNames (x : State) (c : Nat) (d : List Byte) : List Nat := mxSlots (x.mxProfile (x.coreChamber c) (parseMx d)) (parseMx d)

/-- The instruction that command decode accepts: its item has its references, and it carries its profile. -/
def State.mxTaken (x e : State) (c : Nat) (o : EngOp) (d : List Byte) : State :=
  (e.take o (x.mxNames c d)).modEng o.id (fun o => { o with aux := [x.mxProfile (x.coreChamber c) (parseMx d)] })

theorem mxRun_of_issues {s : State} {c t : Nat} {w : Word64} (h : s.issues c t 0x80 (regMask (sregOf w)) w) :
    exec (.mxRun c t) s =
      .next (s.engIssue c t 0 (bitsOf w.toNat 20 0) 128 (bitsOf w.toNat 52 21 = 0 ∧ bitsOf w.toNat 20 0 % 128 = 0)
        ((s.mxEnded c t 0x40).failStrand c t 0x40 0) (fun f s => s.mxEnded c t f.code)
        (fun d v => v.mxAccept c t (s.strand c t) w d)) := by
  refine next_congr ((State.issue_of_issues h).trans ((State.needing_of_issues h).trans ?_))
  exact if_congr not_and_or.symm rfl (if_congr (by simp [Engine.index]) rfl rfl)

section
variable {v x : State} {c t : Nat} {w : Word64} {d : List Byte} {k : Option Nat} {y : Strand}
  (hs : v.sample c (y.current.getD ⟨0, 0, none⟩) (parseMx d).noDup = (k, x)) (hx : x.strand c t = y)
  (hr : x.engineRoom c 0 = true) (hq : x.DecodedUp (4 * c))
include hs hx hr hq

theorem State.mxAccept_decodes : v.mxAccept c t y w d =
    if (x.mxNames c d).any (x.closedTo (x.mxOp c t w d k).item) then (x.mxQueued c t y w d k).gate (x.mxOp c t w d k)
    else if x.mxOk (x.coreChamber c) d then x.mxTaken (x.mxQueued c t y w d k) c (x.mxOp c t w d k) d
    else (x.mxQueued c t y w d k).engFailed (x.mxOp c t w d k) 0x40 0 := by
  have hdecode : mxDecoder.decode (x.mxQueued c t y w d k) (x.mxOp c t w d k) = if !x.mxOk (x.coreChamber c) d then
      (x.mxQueued c t y w d k).engFailed (x.mxOp c t w d k) 0x40 0
      else x.mxTaken (x.mxQueued c t y w d k) c (x.mxOp c t w d k) d := rfl
  rw [State.mxAccept, hs]
  refine (State.accept_sampled (eng := .mxe) hr hx hq).trans (if_congr Iff.rfl rfl (hdecode.trans ?_))
  cases x.mxOk (x.coreChamber c) d <;> rfl

theorem State.mxAccept_held (hc : ∃ id ∈ x.mxNames c d, x.closedTo (x.mxOp c t w d k).item id = true) :
    v.mxAccept c t y w d = (x.mxQueued c t y w d k).gate (x.mxOp c t w d k) :=
  (State.mxAccept_decodes hs hx hr hq).trans (if_pos (List.any_eq_true.mpr hc))

theorem State.mxAccept_open (ho : ∀ id ∈ x.mxNames c d, (x.slot id).write = none) :
    v.mxAccept c t y w d =
      if x.mxOk (x.coreChamber c) d then x.mxTaken (x.mxQueued c t y w d k) c (x.mxOp c t w d k) d
      else (x.mxQueued c t y w d k).engFailed (x.mxOp c t w d k) 0x40 0 :=
  (State.mxAccept_decodes hs hx hr hq).trans (if_neg (by rw [State.closedTo_of_open ho]; exact Bool.false_ne_true))

end

/-- An MX.RUN that decode accepts stands last, decoded, with its profile. -/
theorem State.mxTaken_queued {x : State} {c t : Nat} {w : Word64} {d : List Byte} {k : Option Nat} {y : Strand}
    (hx : x.strand c t = y) (ht : t < 8192) (hq : x.DecodedUp (4 * c)) :
    x.Queued (x.mxTaken (x.mxQueued c t y w d k) c (x.mxOp c t w d k) d)
      { x.mxOp c t w d k with decoded := true, aux := [x.mxProfile (x.coreChamber c) (parseMx d)] } := by
  have hfresh : ∀ p ∈ x.engOps, p.id ≠ (x.mxOp c t w d k).id := fun p hp => (hq p hp).1
  have htake : ((x.mxQueued c t y w d k).take (x.mxOp c t w d k) (x.mxNames c d)).engOps =
      x.engOps ++ [{ x.mxOp c t w d k with decoded := true }] :=
    State.modEng_last _ (State.enqueue_sampled_engOps hx) hfresh
  exact State.queued_of_engOps ht (State.modEng_last _ htake hfresh) (by simp [State.mxTaken]) (by simp [State.mxTaken, hx, State.newOp])

theorem State.keepsRegsBut_mxTaken {x : State} {c t : Nat} {w : Word64} {d : List Byte} {k : Option Nat} {y : Strand} {o : EngOp} :
    x.KeepsRegsBut (x.mxTaken (x.mxQueued c t y w d k) c o d) [] := fun a _ => by simp [State.rget, State.mxTaken]

/-! ### MXE_DUP_CTRL (R226) -/

theorem State.samples_setSample_self (s : State) (c : Nat) (v : Option Nat) :
    smGet (fun _ => none) (s.setSample c v).samples c = v := smGet_smPut_self ..

/-- The three fields of MXE_DUP_CTRL set. -/
def State.dupFields (s : State) (c enable rate tol : Nat) : State :=
  ((s.fset MXE_DUP_CTRL_ENABLE enable c).fset MXE_DUP_CTRL_RATE_LOG2 rate c).fset MXE_DUP_CTRL_TOL_MULT tol c

section
variable (s : State) (c enable rate tol : Nat)

theorem State.dupFields_enable (h : enable < 2) : (s.dupFields c enable rate tol).fget MXE_DUP_CTRL_ENABLE c = enable := by
  rw [State.dupFields, State.fget_fset_other _ _ _ _ _ _ _ _ (by decide) (by decide) (by decide),
    State.fget_fset_other _ _ _ _ _ _ _ _ (by decide) (by decide) (by decide), State.fget_fset_self _ _ _ _ _ (by decide)]
  exact Nat.mod_eq_of_lt h

theorem State.dupFields_rate (h : rate < 32) : (s.dupFields c enable rate tol).fget MXE_DUP_CTRL_RATE_LOG2 c = rate := by
  rw [State.dupFields, State.fget_fset_other _ _ _ _ _ _ _ _ (by decide) (by decide) (by decide),
    State.fget_fset_self _ _ _ _ _ (by decide)]
  exact Nat.mod_eq_of_lt h

theorem State.dupFields_tol : (s.dupFields c enable rate tol).fget MXE_DUP_CTRL_TOL_MULT c =
    bitsOf tol (MXE_DUP_CTRL_TOL_MULT.hi - MXE_DUP_CTRL_TOL_MULT.lo) 0 := by
  rw [State.dupFields, State.fget_fset_self _ _ _ _ _ (by decide)]
  rfl

theorem State.keepsRegsBut_dupFields : s.KeepsRegsBut (s.dupFields c enable rate tol) [regAddr MXE_DUP_CTRL c 0] := by
  intro a ha
  have hne : regAddr MXE_DUP_CTRL c 0 ≠ a := fun e => ha (by simp [e])
  rw [State.dupFields, State.rget_fset_ne _ _ _ _ _ _ hne, State.rget_fset_ne _ _ _ _ _ _ hne,
    State.rget_fset_ne _ _ _ _ _ _ hne]

theorem State.dupFields_frame : s.KeepsMemory (s.dupFields c enable rate tol) ∧ (s.dupFields c enable rate tol).samples = s.samples := by
  simp [State.KeepsMemory, State.dupFields]

variable {s c enable rate tol}

/-- A change of ENABLE or RATE_LOG2 reloads the sample counter. -/
theorem State.dupCtrl_changed (he : enable < 2) (hr : rate < 32)
    (h : s.fget MXE_DUP_CTRL_ENABLE c ≠ enable ∨ s.fget MXE_DUP_CTRL_RATE_LOG2 c ≠ rate) :
    s.dupCtrl c enable rate tol = (s.dupFields c enable rate tol).setSample c none := by
  rw [State.dupCtrl, Nat.mod_eq_of_lt he, Nat.mod_eq_of_lt hr]
  exact if_pos (by simpa using h)

theorem State.dupCtrl_unchanged (he : s.fget MXE_DUP_CTRL_ENABLE c = enable) (hr : s.fget MXE_DUP_CTRL_RATE_LOG2 c = rate)
    (he' : enable < 2) (hr' : rate < 32) : s.dupCtrl c enable rate tol = s.dupFields c enable rate tol := by
  rw [State.dupCtrl, Nat.mod_eq_of_lt he', Nat.mod_eq_of_lt hr']
  exact if_neg (by simp [he, hr])

/-- Whatever happens to the sample counter, the registers and memory are as the fields leave them. -/
theorem State.dupCtrl_frame : (s.dupCtrl c enable rate tol).regs = (s.dupFields c enable rate tol).regs ∧
    (s.dupCtrl c enable rate tol).mem = (s.dupFields c enable rate tol).mem := by
  rw [State.dupCtrl, ← State.dupFields]
  split
  · exact ⟨State.setSample_regs .., State.setSample_mem ..⟩
  · exact ⟨rfl, rfl⟩

end

theorem execMxeDupCtrlWrite_spec {s : State} {r : Requester} {c enable rate : Nat} (tol : Nat) (ho : s.owns r = true) (hc : c < 128)
    (he : enable < 2) (hr : rate < 32) :
    ∃ s', exec (.mxeDupCtrlWrite r c enable rate tol) s = .next s' ∧ s'.fget MXE_DUP_CTRL_ENABLE c = enable ∧
      s'.fget MXE_DUP_CTRL_RATE_LOG2 c = rate ∧
      s'.fget MXE_DUP_CTRL_TOL_MULT c = bitsOf tol (MXE_DUP_CTRL_TOL_MULT.hi - MXE_DUP_CTRL_TOL_MULT.lo) 0 ∧
      s.KeepsMemory s' ∧ s.KeepsRegsBut s' [regAddr MXE_DUP_CTRL c 0] ∧
      ((s.fget MXE_DUP_CTRL_ENABLE c ≠ enable ∨ s.fget MXE_DUP_CTRL_RATE_LOG2 c ≠ rate) →
        smGet (fun _ => none) s'.samples c = none) ∧
      (s.fget MXE_DUP_CTRL_ENABLE c = enable → s.fget MXE_DUP_CTRL_RATE_LOG2 c = rate → s'.samples = s.samples) := by
  obtain ⟨hmem, hsamples⟩ := s.dupFields_frame c enable rate tol
  obtain ⟨hregs, hmem'⟩ := State.dupCtrl_frame (s := s) (c := c) (enable := enable) (rate := rate) (tol := tol)
  refine ⟨s.dupCtrl c enable rate tol, next_congr (if_pos (by simp [ho, hc])), ?enable, ?rate, ?tol, ?memory, ?regs,
    fun h => ?reload, fun h1 h2 => ?kept⟩
  case reload =>
    rw [State.dupCtrl_changed he hr h]
    exact State.samples_setSample_self ..
  case kept => rw [State.dupCtrl_unchanged h1 h2 he hr, hsamples]
  case enable => exact (State.fget_congr hregs ..).trans (s.dupFields_enable c enable rate tol he)
  case rate => exact (State.fget_congr hregs ..).trans (s.dupFields_rate c enable rate tol hr)
  case tol => exact (State.fget_congr hregs ..).trans (s.dupFields_tol c enable rate tol)
  case memory => exact fun a => by rw [State.byte, hmem']; exact hmem a
  case regs => exact fun a ha => by rw [State.rget, hregs]; exact s.keepsRegsBut_dupFields c enable rate tol a ha

/-! ### Seeds (R140) -/

theorem State.srGen_setSrGen_self (s : State) (c : Nat) (vxe : Bool) (g : SrGen) : (s.setSrGen c vxe g).srGen c vxe = g :=
  smGet_smPut_self ..

theorem State.srGen_setSrGen_other (s : State) (c : Nat) (vxe : Bool) (g : SrGen) :
    (s.setSrGen c vxe g).srGen c (!vxe) = s.srGen c (!vxe) :=
  smGet_smPut_ne _ _ _ (by cases vxe <;> simp [b2n])

theorem State.setSrGen_frame (s : State) (c : Nat) (vxe : Bool) (g : SrGen) : { s.setSrGen c vxe g with sr := s.sr } = s := rfl

/-- The generator that a seed gives: 1 in place of 0. -/
def SrGen.seeded (g : SrGen) (hi : Nat) : SrGen :=
  let x := hi % 2 ^ 32 * 2 ^ 32 + g.seedLo
  { g with x := if x = 0 then 1 else x, left := 0 }

theorem execSrSeedHiWrite_eq {s : State} {r : Requester} {c : Nat} (vxe : Bool) (hi : Nat) (h : s.mayWriteCore r c = true) :
    exec (.srSeedHiWrite r c vxe hi) s = .next (s.setSrGen c vxe ((s.srGen c vxe).seeded hi)) :=
  next_congr (if_pos h)

/-- Settles O32. -/
theorem matrixIssue : Obligations.MatrixIssue := by
  intro s c t w r off sreg good
  refine ⟨fun h => ⟨fun hg => ?bad, fun hg hr => ?full, fun hg hr => ⟨fun ho => ?owing, fun f u ho hf => ?failed, ?copied⟩⟩,
    fun enable rate tol ho hc he hr => execMxeDupCtrlWrite_spec tol ho hc he hr,
    fun vxe hi h => ⟨_, execSrSeedHiWrite_eq vxe hi h, ?x, ?left, s.srGen_setSrGen_other c vxe _, s.setSrGen_frame c vxe _⟩⟩
  case bad => rw [mxRun_of_issues h, State.engIssue_bad hg]
  case full => rw [mxRun_of_issues h, State.engIssue_full hg hr]
  case owing => rw [mxRun_of_issues h, State.engIssue_owing hg hr ho]
  case failed => rw [mxRun_of_issues h, State.engIssue_failed hg hr ho hf]
  case copied =>
    intro d v k x hd hs hx hrx hq o e p
    have hexec : exec (.mxRun c t) s = .next (v.mxAccept c t (s.strand c t) w d) := by
      rw [mxRun_of_issues h, State.engIssue_copied hg hr hd]
    refine ⟨fun hopen => ⟨fun hok => ⟨_, ?_, State.mxTaken_queued hx h.strand_lt hq,
      State.keepsRegsBut_mxTaken⟩, fun hok => ?_⟩, fun hclosed => ?_⟩
    · rw [hexec, State.mxAccept_open hs hx hrx hq hopen, if_pos hok]
    · rw [hexec, State.mxAccept_open hs hx hrx hq hopen, if_neg (by simp [hok])]
      rfl
    · rw [hexec, State.mxAccept_held hs hx hrx hq hclosed]
      rfl
  case x => rw [State.srGen_setSrGen_self, SrGen.seeded]
  case left => rw [State.srGen_setSrGen_self, SrGen.seeded]

end Sys2Proof.Machine
end

section
/-! PROOFS. O33: the issue of the ATU's instructions, and what carries on those that wait. -/

namespace Sys2Proof.Machine

/-! ### Issue (R205, R206, R271, R295) -/

/-- The instruction that the issue of an ATU word queues. -/
abbrev State.atOp (v : State) (c t : Nat) (w : Word64) (d : List Byte) : EngOp := v.newOp .atu c t (sregOf w) w d [0]

/-- The state in which it stands last in its queue. -/
abbrev State.atQueued (v : State) (c t : Nat) (x : Strand) (w : Word64) (d : List Byte) : State :=
  v.enqueue c t x w .atu (sregOf w) d [0]

/-- The word of an ATU instruction is well formed. -/
abbrev atGood (w : Word64) : Prop := bitsOf w.toNat 52 21 = 0 ∧ bitsOf w.toNat 20 0 % 128 = 0

section
variable {s u v : State} {c t op len : Nat} {w : Word64} {skip : List Byte → Bool} {f : MFault} {d : List Byte}
  (h : s.issues c t op (regMask (sregOf w)) w)
include h

theorem State.atIssue_of_issues : s.atIssue c t op len skip =
    s.engIssue c t 3 (bitsOf w.toNat 20 0) len (atGood w) ((s.atEnded c t 0x40 0).failStrand c t 0x40 0)
      (fun f s => s.atEnded c t f.code f.cause)
      (fun d v => if skip d then s else v.accept c t (s.strand c t) w .atu (sregOf w) d [0] atDecoder) := by
  refine (State.issue_of_issues h).trans ((State.needing_of_issues h).trans ?_)
  refine if_congr ?_ rfl (if_congr (by simp [Engine.index]) rfl rfl)
  rw [atGood, not_and_or]
  simp [atWordOk]

/-- Until its descriptor is copied an ATU instruction fails, or its strand waits. -/
theorem State.atIssue_waits :
    (¬atGood w → s.atIssue c t op len skip = (s.atEnded c t 0x40 0).failStrand c t 0x40 0) ∧
    (atGood w → s.engineRoom c 3 = false → s.atIssue c t op len skip = s.waitsFor c t (.engine 3)) ∧
    (atGood w → s.engineRoom c 3 = true → s.ms.owes c t s.ms.nextId = true →
      s.atIssue c t op len skip = s.waitsFor c t .release) := by
  rw [State.atIssue_of_issues h]
  exact ⟨State.engIssue_bad, State.engIssue_full, State.engIssue_owing⟩

theorem State.atIssue_fails (hg : atGood w) (hr : s.engineRoom c 3 = true) (ho : s.ms.owes c t s.ms.nextId = false)
    (hf : s.ownScratch c (bitsOf w.toNat 20 0) len = (.error f, u)) :
    s.atIssue c t op len skip = (u.deliver.atEnded c t f.code f.cause).failMem c t f :=
  (State.atIssue_of_issues h).trans (State.engIssue_failed hg hr ho hf)

theorem State.atIssue_copied (hg : atGood w) (hr : s.engineRoom c 3 = true)
    (hd : s.copied c t (bitsOf w.toNat 20 0) len d v) : s.atIssue c t op len skip =
      if skip d then s else v.accept c t (s.strand c t) w .atu (sregOf w) d [0] atDecoder :=
  (State.atIssue_of_issues h).trans (State.engIssue_copied hg hr hd)

end

/-! ### Command decode of what joins the queue (R181, R306) -/

section
variable {v : State} {c t : Nat} {w : Word64} {d : List Byte} {x : Strand}
  (hx : v.strand c t = x) (hr : v.engineRoom c 3 = true) (hq : v.DecodedUp (4 * c + 3))
include hx hr hq

/-- Whether an AT.SEQ stands before the next instruction in core `c`'s ATU queue. -/
def State.behindSeq (v : State) (c id : Nat) : Bool :=
  v.engOps.any (fun p => p.core == c && p.eng == .atu && p.id < id && opcodeOf p.word == 0x8A)

omit hr hq in
/-- An instruction does not stand behind itself. -/
theorem State.behindSeq_atQueued : (v.atQueued c t x w d).behindSeq c v.ms.nextId = v.behindSeq c v.ms.nextId := by
  rw [State.behindSeq, State.enqueue_engOps v c t x w .atu _ d [0] (by rw [hx]), List.any_append]
  simp [State.behindSeq, State.newOp]

/-- An AT.RUN or AT.APPEND is held for its slot, stands behind an AT.SEQ, or is decoded. -/
theorem State.atAccept_list (hw : opcodeOf w ≠ 0x8A) : v.accept c t x w .atu (sregOf w) d [0] atDecoder =
    if v.closedTo (v.atOp c t w d).item (fieldAt d 2 2) then (v.atQueued c t x w d).gate (v.atOp c t w d)
    else if v.behindSeq c v.ms.nextId then v.atQueued c t x w d
    else (v.atQueued c t x w d).remotely (.eng (v.atOp c t w d).id) (v.atOp c t w d).item.queue
      (fun f s => s.engFailed (v.atOp c t w d) f.code f.cause) (fun s => s.listDecode (v.atOp c t w d)) := by
  have hlist : isSeq (v.atOp c t w d) = false := by simp [isSeq, State.newOp, hw]
  have hnames : ∀ u, atDecoder.names u (v.atOp c t w d) = [fieldAt d 2 2] := fun u => by
    simp only [atDecoder, hlist]
    rfl
  have hwaits : atDecoder.waits (v.atQueued c t x w d) (v.atOp c t w d) = v.behindSeq c v.ms.nextId := by
    rw [← State.behindSeq_atQueued (w := w) (d := d) hx]
    simp only [atDecoder, hlist, Bool.not_false, Bool.true_and]
    rfl
  have hdecode : ∀ u : State, atDecoder.decode u (v.atOp c t w d) = u.remotely (.eng (v.atOp c t w d).id)
      (v.atOp c t w d).item.queue (fun f s => s.engFailed (v.atOp c t w d) f.code f.cause)
      (fun s => s.listDecode (v.atOp c t w d)) := fun u => by
    simp only [atDecoder, hlist, Bool.not_false, if_true]
  refine (State.accept_decodes (eng := .atu) hr (by rw [hx]) hq).trans ?_
  rw [hnames, hwaits, hdecode]
  refine if_congr ?_ rfl rfl
  simp only [List.any_cons, List.any_nil, Bool.or_false]
  rfl

/-- An AT.SEQ is rejected, or queued and run as far as it can be. -/
theorem State.atAccept_seq (hw : opcodeOf w = 0x8A) : v.accept c t x w .atu (sregOf w) d [0] atDecoder =
    if seqOk d then ((v.atQueued c t x w d).take (v.atOp c t w d) []).seqStart c
    else (v.atQueued c t x w d).engFailed (v.atOp c t w d) 0x40 0 := by
  have hseq : isSeq (v.atOp c t w d) = true := by simp [isSeq, State.newOp, hw]
  have hnames : ∀ u, atDecoder.names u (v.atOp c t w d) = [] := fun u => by simp only [atDecoder, hseq, if_true]
  have hwaits : ∀ u, atDecoder.waits u (v.atOp c t w d) = false := fun u => by simp only [atDecoder, hseq, Bool.not_true, Bool.false_and]
  have hdecode : ∀ u : State, atDecoder.decode u (v.atOp c t w d) =
      if !seqOk d then u.engFailed (v.atOp c t w d) 0x40 0 else (u.take (v.atOp c t w d) []).seqStart c := fun u => by
    simp only [atDecoder, hseq, Bool.not_true, Bool.false_eq_true, if_false]
    rfl
  refine (State.accept_decodes (eng := .atu) hr (by rw [hx]) hq).trans ?_
  rw [hnames, hwaits, hdecode]
  cases seqOk d <;> rfl

end

/-! ### An AT.SEQ alone in its queue (R306) -/

/-- The head of an ATU queue whose instructions before `o` are none. -/
theorem State.engHead_of_alone {u : State} {l : List EngOp} {o : EngOp} (hu : u.engOps = l ++ [o])
    (hl : ∀ p ∈ l, p.core = o.core → p.eng ≠ o.eng) (hm : (u.strand o.core o.strand).mode ≠ .suspended) (hd : o.decoded = true) :
    u.engHead o.core o.eng = some o := by
  rw [State.engHead, hu, List.find?_append, List.find?_eq_none.mpr fun p hp => by
    by_cases hc : p.core = o.core
    · simp [hc, hl p hp hc]
    · simp [hc]]
  simp [hm, hd]

/-- An AT.SEQ at the head of its queue ends no append. -/
theorem State.releaseOver_of_seq {u : State} {c : Nat} {o : EngOp} (hh : u.engHead c .atu = some o) (hw : opcodeOf o.word = 0x8A) :
    u.releaseOver c = u := by
  have hs : o.suspended = false := by simp [EngOp.suspended, hw]
  have hnever : u.engOps.find? (fun _ => false) = none := List.find?_eq_none.mpr fun _ _ => Bool.false_ne_true
  simp [State.releaseOver, hh, hs, hnever]

theorem State.seqStart_head {u : State} {c : Nat} {o : EngOp} (hh : u.engHead c .atu = some o) (hw : opcodeOf o.word = 0x8A)
    (hx : o.aux = [0]) (ha : o.aborted = false) (hr : u.engReady o = true) : u.seqStart c = u.seqRun o := by
  simp [State.seqStart, State.releaseOver_of_seq hh hw, hh, hw, hx, ha, hr]

/-- An AT.SEQ taken where nothing else stands in the ATU's queue, and no access before it is unperformed, runs at once. -/
theorem State.seqStart_taken {v : State} {c t : Nat} {w : Word64} {d : List Byte} {x : Strand} (hx : v.strand c t = x)
    (hq : v.DecodedUp (4 * c + 3)) (hw : opcodeOf w = 0x8A) (hl : ∀ p ∈ v.engOps, p.core = c → p.eng ≠ .atu)
    (hm : v.ms.ops.any (fun p => p.core == c && p.strand == t) = false) :
    ((v.atQueued c t x w d).take (v.atOp c t w d) []).seqStart c =
      ((v.atQueued c t x w d).take (v.atOp c t w d) []).seqRun { v.atOp c t w d with decoded := true } := by
  have hops : ((v.atQueued c t x w d).take (v.atOp c t w d) []).engOps = v.engOps ++ [{ v.atOp c t w d with decoded := true }] :=
    State.modEng_last _ (State.enqueue_engOps v c t x w .atu _ d [0] (by rw [hx])) (fun p hp => (hq p hp).1)
  have hmode : (((v.atQueued c t x w d).take (v.atOp c t w d) []).strand c t).mode = .issuing := by
    show ((v.advance c t (x.mark (regMask (sregOf w)))).strand c t).mode = _
    rw [State.advance_eq, State.strand_setStrand_self]
    rfl
  refine State.seqStart_head (State.engHead_of_alone hops hl ?_ rfl) hw rfl rfl ?_
  · exact fun hsuspended => absurd (hmode.symm.trans hsuspended) (by decide)
  · rw [State.engReady, Bool.not_eq_true', List.any_eq_false]
    intro p hp hprev
    have hnone := List.any_eq_false.mp hm p hp
    simp only [Bool.and_eq_true] at hprev hnone
    exact hnone hprev.1

/-! ### Command decode of a list (R177, R274, R284, R291, R295) -/

section
variable {e v : State} {o : EngOp}

/-- What command decode asks of the descriptor of an AT.RUN or AT.APPEND. -/
def State.listAsks (e : State) (o : EngOp) : Bool :=
  if isAppend o then e.appendOk (e.coreChamber o.core) o.desc else e.runOk (e.coreChamber o.core) o.desc

/-- The read of the list of an AT.RUN or AT.APPEND. -/
def State.listRead (e : State) (o : EngOp) : Except MFault (List Byte) × State :=
  e.engRead o.core (e.coreChamber o.core) (listOf o).1 ((listOf o).2 * (if isAppend o then fieldAt o.desc 0xC 2 else fieldAt o.desc 0x10 2))

/-- `o` taken with its list `b`: its item has references on the slot and on every sequence, and it carries its profiles. -/
def State.takeList (s : State) (o : EngOp) (n : Nat) (b : List Byte) : State :=
  ((s.take o [fieldAt o.desc 2 2]).modItem o.item (fun i =>
    { i with seqRefs := i.seqRefs ++ (listSeqs o b).map (fun x => seqKey n x.1) })).modEng o.id (fun p => { p with
      desc := o.desc ++ b
      aux := [0, s.profileOf n (fieldAt o.desc 2 2) (fieldAt o.desc 4 1), s.profileOf n (fieldAt o.desc 2 2) (fieldAt o.desc 5 1)] })

theorem State.listDecode_bad (h : e.listAsks o = false) : e.listDecode o = e.engFailed o 0x40 0 :=
  if_pos (by rw [State.listAsks] at h; rw [h]; rfl)

theorem State.listDecode_asked (h : e.listAsks o = true) : e.listDecode o =
    match e.listRead o with
    | (.error f, s) => s.engFailed o f.code f.cause
    | (.ok b, s) =>
      if !listOk o b then s.engFailed o 0x40 0
      else if !(listSeqs o b).all (fun x => s.seqLive (e.coreChamber o.core) x.1 x.2) then s.engFailed o 0x38 1
      else s.takeList o (e.coreChamber o.core) b :=
  if_neg (by rw [State.listAsks] at h; rw [h]; exact Bool.false_ne_true)

theorem State.listDecode_fault {f : MFault} (h : e.listAsks o = true) (hb : e.listRead o = (.error f, v)) :
    e.listDecode o = v.engFailed o f.code f.cause := by
  rw [State.listDecode_asked h, hb]

section
variable {b : List Byte} (h : e.listAsks o = true) (hb : e.listRead o = (.ok b, v))
include h hb

theorem State.listDecode_badList (hl : listOk o b = false) : e.listDecode o = v.engFailed o 0x40 0 := by
  rw [State.listDecode_asked h, hb]
  exact if_pos (by rw [hl]; rfl)

theorem State.listDecode_stale (hl : listOk o b = true) {x : Nat × Nat} (hx : x ∈ listSeqs o b)
    (hs : v.seqLive (e.coreChamber o.core) x.1 x.2 = false) : e.listDecode o = v.engFailed o 0x38 1 := by
  rw [State.listDecode_asked h, hb]
  refine (if_neg (by simp [hl])).trans (if_pos ?_)
  rw [Bool.not_eq_true', List.all_eq_false]
  exact ⟨x, hx, by simp [hs]⟩

theorem State.listDecode_taken (hl : listOk o b = true)
    (hs : ∀ x ∈ listSeqs o b, v.seqLive (e.coreChamber o.core) x.1 x.2 = true) :
    e.listDecode o = v.takeList o (e.coreChamber o.core) b := by
  rw [State.listDecode_asked h, hb]
  refine (if_neg (by simp [hl])).trans (if_neg ?_)
  rw [List.all_eq_true.mpr hs]
  exact Bool.false_ne_true

end
end

/-! ### What carries on an instruction that waits (R283, R306, R555) -/

section
variable {s : State} {c : Nat} {o : EngOp}

/-- The suspended append `o` at work again (R283). -/
def EngOp.resumed (o : EngOp) : EngOp := { o with aux := 0 :: o.aux.drop 2 }

def State.resume (s : State) (o : EngOp) : State :=
  ((s.modEng o.id (fun _ => o.resumed)).wakeStrand o .pages).appendRun o.resumed

theorem execAppendResume_resumes (h : s.engHead c .atu = some o) (hs : o.suspended = true)
    (hp : 0 < s.poolFree (s.coreChamber c)) (hn : s.awaitsNoRead (.eng o.id))
    (hw : ((s.asksAs (.eng o.id)).resume o).ms.wanted = []) :
    exec (.appendResume c) s = .next (((s.asksAs (.eng o.id)).resume o).readAll (.eng o.id)).deliver := by
  refine next_congr ?_
  simp only [h, hs, hp, decide_true, Bool.and_self, if_true]
  exact congrArg State.deliver (State.remotely_local (run := fun s => s.resume o) hn hw)

theorem execAppendResume_idle
    (h : ∀ o, s.engHead c .atu = some o → o.suspended = false ∨ s.poolFree (s.coreChamber c) = 0) :
    exec (.appendResume c) s = .next s := by
  refine next_congr ?_
  cases ho : s.engHead c .atu with
  | none => rfl
  | some o =>
    refine if_neg ?_
    rcases h o ho with hs | hp
    · simp [hs]
    · simp [hp]

/-- The waiting OPENs of a chamber, judged in order. -/
theorem execOpenRetry_of_waiting {n : Nat} {l : List EngOp} (h : s.engOps.filter (fun o => opcodeOf o.word == 0x8A && o.eng == .atu &&
      sqOp o.desc == 0 && o.aux == [1] && !o.aborted && s.coreChamber o.core == n) = l) :
    exec (.openRetry n) s = .next (l.foldl (fun s (o : EngOp) => (s.seqOpen o).atAdvance o.core) s) :=
  next_congr (congrArg (List.foldl (fun s (o : EngOp) => (s.seqOpen o).atAdvance o.core) s) h)

theorem execSeqOpProceed_head (h : s.engHead c .atu = some o) (hw : opcodeOf o.word = 0x8A) (hop : 2 ≤ sqOp o.desc)
    (hx : o.aux = [1]) (ha : o.aborted = false) : exec (.seqOpProceed c) s =
      .next (if s.seqRefs (s.coreChamber c) (sqSeq o.desc) = 0 then (s.seqEnd o).atAdvance c else s) := by
  refine next_congr ?_
  simp only [h]
  exact if_congr (by simp [isSeq, hw, hop, hx, ha]) rfl rfl

end

/-- Settles O33, by the parts of an issue. -/
theorem attentionIssue : Obligations.AttentionIssue := by
  intro s c t w off sreg good waits fails listAfter seqAfter
  have hwaits : ∀ op len skip, s.issues c t op (regMask sreg) w → waits (s.atIssue c t op len skip) :=
    fun op len skip h => State.atIssue_waits h
  have hfails : ∀ op len skip, s.issues c t op (regMask sreg) w → fails len (s.atIssue c t op len skip) :=
    fun op len skip h f u hg hr ho hf => State.atIssue_fails h hg hr ho hf
  have hlist : ∀ op, op ≠ 0x8A → s.issues c t op (regMask sreg) w → listAfter (s.atIssue c t op 128 (fun _ => false)) := by
    intro op hne h d v hg hr hd hrv hq o e behind
    have hx : v.strand c t = s.strand c t := hd.strand
    have haccept := (State.atIssue_copied (skip := fun _ => false) h hg hr hd).trans
      (State.atAccept_list hx hrv hq (h.opcode.symm ▸ hne))
    have hopen : (v.slot (fieldAt d 2 2)).write = none → v.closedTo o.item (fieldAt d 2 2) ≠ true := fun hn => by
      simp [State.closedTo, hn]
    refine ⟨fun hc => haccept.trans (if_pos hc), fun hn hb => haccept.trans ?_, fun hn hb hawait hw => haccept.trans ?_⟩
    · exact (if_neg (hopen hn)).trans (if_pos hb)
    · exact (if_neg (hopen hn)).trans ((if_neg (Bool.eq_false_iff.mp hb)).trans (State.remotely_local hawait hw))
  have hseq : ∀ op, s.issues c t 0x8A (regMask sreg) w → seqAfter op (s.seqIssue c t op) := by
    intro op h
    refine ⟨hfails _ _ _ h, fun d v hg hr hd => ⟨fun h4 hne => ?_, fun hop hrv hq => ?_⟩⟩
    · exact (State.atIssue_copied h hg hr hd).trans (if_pos (by simp [h4, hne]))
    · intro o e
      have hx : v.strand c t = s.strand c t := hd.strand
      have hkept : ¬(decide (sqOp d < 4) && sqOp d != op) = true := by
        rcases hop with hop | hop
        · simp [hop]
        · simp [Nat.not_lt.mpr hop]
      have haccept : s.seqIssue c t op = _ :=
        (State.atIssue_copied h hg hr hd).trans ((if_neg hkept).trans (State.atAccept_seq hx hrv hq h.opcode))
      refine ⟨fun hok => haccept.trans (if_neg (by simp [hok])), fun hok => haccept.trans (if_pos hok), fun hok hl hm => ?_⟩
      exact (haccept.trans (if_pos hok)).trans (State.seqStart_taken hx hq h.opcode hl hm)
  refine ⟨fun h => ⟨_, rfl, hwaits _ _ _ h, hfails _ _ _ h, hlist _ (by decide) h⟩,
    fun h => ⟨_, rfl, hwaits _ _ _ h, hfails _ _ _ h, hlist _ (by decide) h⟩,
    fun h => ⟨_, rfl, hwaits _ _ _ h, hseq 0 h⟩, fun h => ⟨_, rfl, hwaits _ _ _ h, hseq 1 h⟩,
    fun h => ⟨_, rfl, hwaits _ _ _ h, hseq 2 h⟩, fun h => ⟨_, rfl, hwaits _ _ _ h, hseq 3 h⟩,
    ?decode, fun o h hs hp => ?resume, execAppendResume_idle, ?retry, fun o h hw hop hx ha => ?proceed⟩
  case decode =>
    intro e o n append ok count slot
    exact ⟨State.listDecode_bad, fun f v => State.listDecode_fault, fun b v hok hb =>
      ⟨State.listDecode_badList hok hb, fun x hx hl => State.listDecode_stale hok hb hl hx, State.listDecode_taken hok hb⟩⟩
  case resume =>
    intro back run
    exact execAppendResume_resumes h hs hp
  case retry =>
    intro n waiting
    exact ⟨fun o hw => execOpenRetry_of_waiting hw, fun hw => execOpenRetry_of_waiting hw⟩
  case proceed =>
    rw [execSeqOpProceed_head h hw hop hx ha]
    exact ⟨fun hz => by rw [if_pos hz], fun hz => by rw [if_neg hz]⟩

end Sys2Proof.Machine
end

section
/-! PROOFS. O35: the issue of the routing and exchange instructions, the write of a bias, and the cancellation of an epoch. -/

namespace Sys2Proof.Machine

/-! ### Issue (R205, R206, R310) -/

section
variable {s v u : State} {c t op len : Nat} {w : Word64} {eng : Engine} {fail : Nat → State → State} {f : MFault} {d : List Byte}
  (h : s.issues c t op (regMask (sregOf w)) w)
include h

theorem State.rtIssue_of_issues : s.rtIssue c t op len eng fail =
    s.engIssue c t eng.index (bitsOf w.toNat 20 0) len (bitsOf w.toNat 52 21 = 0 ∧ bitsOf w.toNat 20 0 % len = 0)
      ((fail 0x40 s).failStrand c t 0x40 0) (fun f s => fail f.code s)
      (fun d v => (v.accept c t (s.strand c t) w eng (sregOf w) d [] rtDecoder).deliver) := by
  refine (State.issue_of_issues h).trans ((State.needing_of_issues h).trans ?_)
  exact if_congr (by rw [not_and_or]; simp) rfl (if_congr (by simp) rfl rfl)

/-- Until its descriptor is copied a routing or exchange instruction fails, or its strand waits. -/
theorem State.rtIssue_uncopied :
    let good := bitsOf w.toNat 52 21 = 0 ∧ bitsOf w.toNat 20 0 % len = 0
    (¬good → s.rtIssue c t op len eng fail = (fail 0x40 s).failStrand c t 0x40 0) ∧
    (good → s.engineRoom c eng.index = false → s.rtIssue c t op len eng fail = s.waitsFor c t (.engine eng.index)) ∧
    (good → s.engineRoom c eng.index = true → s.ms.owes c t s.ms.nextId = true →
      s.rtIssue c t op len eng fail = s.waitsFor c t .release) ∧
    (∀ f u, good → s.engineRoom c eng.index = true → s.ms.owes c t s.ms.nextId = false →
      s.ownScratch c (bitsOf w.toNat 20 0) len = (.error f, u) →
      s.rtIssue c t op len eng fail = (fail f.code u.deliver).failMem c t f) := by
  intro good
  rw [State.rtIssue_of_issues h]
  exact ⟨State.engIssue_bad, State.engIssue_full, State.engIssue_owing, fun f u => State.engIssue_failed⟩

theorem State.rtIssue_copied (hw : bitsOf w.toNat 52 21 = 0) (hoff : bitsOf w.toNat 20 0 % len = 0)
    (hr : s.engineRoom c eng.index = true) (hd : s.copied c t (bitsOf w.toNat 20 0) len d v) :
    s.rtIssue c t op len eng fail = (v.accept c t (s.strand c t) w eng (sregOf w) d [] rtDecoder).deliver :=
  (State.rtIssue_of_issues h).trans (State.engIssue_copied ⟨hw, hoff⟩ hr hd)

end

/-! ### Command decode of what joins the queue (R181, R310, R313, R337) -/

/-- The instruction that the issue of a routing or exchange word queues. -/
abbrev State.rtOp (v : State) (eng : Engine) (c t : Nat) (w : Word64) (d : List Byte) : EngOp := v.newOp eng c t (sregOf w) w d []

/-- The state in which it stands last in its queue. -/
abbrev State.rtQueued (v : State) (eng : Engine) (c t : Nat) (x : Strand) (w : Word64) (d : List Byte) : State :=
  v.enqueue c t x w eng (sregOf w) d []

section
variable {v : State} {c t : Nat} {w : Word64} {d : List Byte} {x : Strand} (hx : v.strand c t = x)
  (hq : v.DecodedUp (512 + c / 8))
include hx hq

/-- An RT.RUN is held for its profile's table slot, waits behind 64 batches, or is decoded. -/
theorem State.rtAccept_run (hr : v.engineRoom c 4 = true) (hw : opcodeOf w = 0x90) :
    v.accept c t x w .rte (sregOf w) d [] rtDecoder =
      if (rtDecoder.names v (v.rtOp .rte c t w d)).any (v.closedTo (v.rtOp .rte c t w d).item) then
        (v.rtQueued .rte c t x w d).gate (v.rtOp .rte c t w d)
      else if 64 ≤ v.batchesOf (c / 8) then v.rtQueued .rte c t x w d
      else (v.rtQueued .rte c t x w d).remotely (.eng (v.rtOp .rte c t w d).id) (v.rtOp .rte c t w d).item.queue
        (fun f s => s.rtFailed (v.rtOp .rte c t w d) f.code f.cause) (fun s => s.rtDecode (v.rtOp .rte c t w d)) := by
  have hrun : isRtRun (v.rtOp .rte c t w d) = true := by simp [isRtRun, State.newOp, hw]
  refine (State.accept_decodes (eng := .rte) hr (by rw [hx]) hq).trans (if_congr Iff.rfl rfl (if_congr ?_ rfl ?_))
  · simp only [rtDecoder, hrun, Bool.true_and, decide_eq_true_eq]
    rfl
  · simp only [rtDecoder, hrun, if_true]

/-- An exchange instruction is decoded at once. -/
theorem State.rtAccept_exchange (hr : v.engineRoom c 5 = true) (hw : opcodeOf w ≠ 0x90) :
    v.accept c t x w .xce (sregOf w) d [] rtDecoder = (v.rtQueued .xce c t x w d).xcDecode (v.rtOp .xce c t w d) := by
  have hrun : isRtRun (v.rtOp .xce c t w d) = false := by simp [isRtRun, State.newOp, hw]
  refine (State.accept_decodes (eng := .xce) hr (by rw [hx]) hq).trans ?_
  simp [rtDecoder, hrun]

/-- An exchange instruction that decode takes stands last, decoded. -/
theorem State.rtTaken_queued (ht : t < 8192) :
    let u := (v.rtQueued .xce c t x w d).take (v.rtOp .xce c t w d) []
    v.Queued u { v.rtOp .xce c t w d with decoded := true } ∧ v.KeepsRegsBut u [] := by
  subst hx
  obtain ⟨hqueued, hregs⟩ := State.take_queued (s := v) (c := c) (w := w) (eng := .xce) (desc := d) (aux := []) ht
    (fun p hp => (hq p hp).1) []
  exact ⟨hqueued, fun a _ => congrArg (smGet resetAt · a) hregs⟩

end

section
variable {e : State} {o : EngOp}

theorem State.rtDecode_bad (h : e.rtOk (e.coreChamber o.core) (e.queueClass o.item.queue == 0) o.desc = false) :
    e.rtDecode o = e.engFailed o 0x40 0 := if_pos (by rw [h]; rfl)

theorem State.rtDecode_begins (h : e.rtOk (e.coreChamber o.core) (e.queueClass o.item.queue == 0) o.desc = true) :
    e.rtDecode o =
      (e.take o (if rpScoreFn (e.rprofile (e.coreChamber o.core) (fieldAt o.desc 2 1)) = 0 then []
        else [rpFnSlot (e.rprofile (e.coreChamber o.core) (fieldAt o.desc 2 1))])).rtStart o (e.queueClass o.item.queue == 0) :=
  if_neg (by rw [h]; exact Bool.false_ne_true)

theorem State.xcDecode_bad (h : e.xcOk o (e.coreChamber o.core) = false) : e.xcDecode o = e.engFailed o 0x40 0 :=
  if_pos (by rw [h]; rfl)

theorem State.xcDecode_refused (h : e.xcOk o (e.coreChamber o.core) = true) (hm : e.xcMay o (e.coreChamber o.core) = false) :
    e.xcDecode o = e.engFailed o 0x39 3 :=
  (if_neg (by rw [h]; exact Bool.false_ne_true)).trans (if_pos (by rw [hm]; rfl))

theorem State.xcDecode_taken (h : e.xcOk o (e.coreChamber o.core) = true) (hm : e.xcMay o (e.coreChamber o.core) = true) :
    e.xcDecode o = e.take o [] :=
  (if_neg (by rw [h]; exact Bool.false_ne_true)).trans (if_neg (by rw [hm]; exact Bool.false_ne_true))

end

/-! ### RTE_BIAS (R319, R347) -/

section
variable {s : State} {r : Requester} {g n : Nat} (hm : s.mayWriteRte r g = true) (hg : g < 16)
include hm hg

theorem execRteBiasWrite_eq (v : Nat) : exec (.rteBiasWrite r g v) s = .next (s.biasWrite r g v) :=
  next_congr (if_neg (by simp [hm, hg]))

theorem execRteCancel_eq (epoch : Nat) : exec (.rteCancel r g epoch) s = .next (s.rteCancel g epoch) :=
  next_congr (if_neg (by simp [hm, hg]))

end

/-- The routing profile, and the expert, that a requester's selectors name in gallery `g`. -/
def State.biasProfile (s : State) (r : Requester) (g : Nat) : Nat := bitsOf (s.sel r (regAddr RTE_PROF_SEL g 0)).toNat 4 0
def State.biasExpert (s : State) (r : Requester) (g : Nat) : Nat := bitsOf (s.sel r (regAddr RTE_EXP_SEL g 0)).toNat 9 0

section
variable {s : State} {r : Requester} {g n v : Nat}

theorem State.biasWrite_nan (hn : s.chamberOf g = some n) (hv : (fmtBf16.decode (v % 2 ^ 16)).isNan = true) :
    s.biasWrite r g v = s := by
  simp only [State.biasWrite, hn]
  exact if_pos (.inr (.inr hv))

/-- A value within ±BIAS_LIMIT is not clamped. -/
theorem clampBias_of_within {b : List Byte} (hhi : (rpBiasLimit b).lt (fmtBf16.decode v) = false)
    (hlo : (fmtBf16.decode v).lt (rpBiasLimit b).negate = false) : clampBias b v = v := by
  simp [clampBias, hhi, hlo]

/-- A number within ±BIAS_LIMIT written to an expert of a valid profile is the expert's bias. -/
theorem State.biasWrite_within (hn : s.chamberOf g = some n) (hp : s.rpOk n (s.biasProfile r g) = true)
    (he : s.biasExpert r g < rpExperts (s.rprofile n (s.biasProfile r g))) (hv : (fmtBf16.decode (v % 2 ^ 16)).isNan = false)
    (hhi : (rpBiasLimit (s.rprofile n (s.biasProfile r g))).lt (fmtBf16.decode (v % 2 ^ 16)) = false)
    (hlo : (fmtBf16.decode (v % 2 ^ 16)).lt (rpBiasLimit (s.rprofile n (s.biasProfile r g))).negate = false) :
    s.biasWrite r g v = s.setBias n (s.biasProfile r g) (s.biasExpert r g) (v % 2 ^ 16) := by
  have hkept : ¬(s.rpOk n (s.biasProfile r g) = false ∨ rpExperts (s.rprofile n (s.biasProfile r g)) ≤ s.biasExpert r g ∨
      (fmtBf16.decode (v % 2 ^ 16)).isNan = true) := by
    rintro (h | h | h)
    · exact Bool.false_ne_true (h.symm.trans hp)
    · exact Nat.not_le.mpr he h
    · exact Bool.false_ne_true (hv.symm.trans h)
  simp only [State.biasWrite, hn]
  refine (if_neg hkept).trans ?_
  rw [← State.biasProfile, clampBias_of_within hhi hlo, ← State.biasExpert]

theorem State.biasOf_setBias_self (s : State) {n p e v : Nat} (hv : v < 2 ^ 32) : (s.setBias n p e v).biasOf n p e = v := by
  rw [State.biasOf, State.setBias, smGet_smPut_self, BitVec.toNat_ofNat, Nat.mod_eq_of_lt hv]

theorem State.setBias_frame (s : State) (n p e v : Nat) : { s.setBias n p e v with rte := s.rte } = s := rfl

theorem State.biasOf_setBias_ne (s : State) {n p e v m q f : Nat} (h : biasKey m q f ≠ biasKey n p e) :
    (s.setBias n p e v).biasOf m q f = s.biasOf m q f := by
  rw [State.biasOf, State.setBias, smGet_smPut_ne _ _ _ (Ne.symm h), ← State.biasOf]

end

/-! ### RTE_CANCEL (R342) -/

section
variable {s : State} {g epoch : Nat} {b : Batch} {o : EngOp}

theorem State.rteCancel_live (hl : s.epochLive g epoch = true) (hb : s.batch g epoch = some b) (ho : s.engOp b.op = some o) :
    s.rteCancel g epoch = ((s.closeEpoch g epoch true).modEng o.id (fun o => { o with aborted := true })).noteEnd o.item 0x22 0 := by
  rw [State.rteCancel, if_neg (by simp [hl])]
  simp only [hb, ho]
  rfl

theorem State.rteCancel_over (hl : s.epochLive g epoch = false) : s.rteCancel g epoch = s := if_pos hl

end

/-- Settles O35, by the parts of an issue. -/
theorem routingIssue : Obligations.RoutingIssue := by
  intro s c t w r g off sreg frame xcAfter
  have hexchange : ∀ op fail, op ≠ 0x90 → s.issues c t op (regMask sreg) w → xcAfter (s.rtIssue c t op 64 .xce fail) := by
    intro op fail hne h d v hw hoff hr hd hrv hq o e
    have hx : v.strand c t = s.strand c t := hd.strand
    have haccept : _ = (e.xcDecode o).deliver := (State.rtIssue_copied (eng := .xce) (fail := fail) h hw hoff hr hd).trans
      (congrArg State.deliver (State.rtAccept_exchange (d := d) hx hq hrv (h.opcode.symm ▸ hne)))
    refine ⟨fun hok => ?_, fun hok hm => ?_, fun hok hm hf => ?_⟩
    · exact haccept.trans (congrArg State.deliver (State.xcDecode_bad hok))
    · exact haccept.trans (congrArg State.deliver (State.xcDecode_refused hok hm))
    · have htaken := (congrArg State.deliver (State.xcDecode_taken (e := e) (o := o) hok hm)).trans (State.deliver_of_none hf)
      rw [haccept, htaken]
      exact State.rtTaken_queued hx hq h.strand_lt
  refine ⟨fun h => ⟨_, rfl, State.rtIssue_uncopied h, fun d v hw hoff hr hd hrv hq => ?run⟩,
    fun h => ⟨_, rfl, State.rtIssue_uncopied h, hexchange _ _ (by decide) h⟩,
    fun h => ⟨_, rfl, State.rtIssue_uncopied h, hexchange _ _ (by decide) h⟩,
    fun e o => ⟨State.rtDecode_bad, State.rtDecode_begins⟩, fun n v hm hg hn => ?bias,
    fun epoch hm hg => ⟨fun b o hl hb ho => ?live, fun hl => ?lapsed⟩⟩
  case run =>
    intro o e
    have hx : v.strand c t = s.strand c t := hd.strand
    have haccept := (State.rtIssue_copied (eng := .rte) (fail := fun code s => s.rtEnded (c / 8) t code 0) h hw hoff hr hd).trans
      (congrArg State.deliver (State.rtAccept_run (d := d) hx hq hrv h.opcode))
    refine ⟨fun hc => haccept.trans (congrArg State.deliver (if_pos hc)), fun hc hb => ?_, fun hc hb hn hwanted => ?_⟩
    · exact haccept.trans (congrArg State.deliver ((if_neg (Bool.eq_false_iff.mp hc)).trans (if_pos hb)))
    · exact haccept.trans (congrArg State.deliver ((if_neg (Bool.eq_false_iff.mp hc)).trans
        ((if_neg (Nat.not_le.mpr hb)).trans (State.remotely_local hn hwanted))))
  case bias =>
    intro p e b hp he
    refine ⟨fun hv => ?_, fun hv hhi hlo => ⟨s.setBias n p e (v % 2 ^ 16), ?_, s.biasOf_setBias_self (by omega),
      fun m q f => s.biasOf_setBias_ne, s.setBias_frame n p e _⟩⟩
    · rw [execRteBiasWrite_eq hm hg, State.biasWrite_nan hn hv]
    · rw [execRteBiasWrite_eq hm hg, State.biasWrite_within hn hp he hv hhi hlo]
      rfl
  case live => rw [execRteCancel_eq hm hg, State.rteCancel_live hl hb ho]
  case lapsed => rw [execRteCancel_eq hm hg, State.rteCancel_over hl]

end Sys2Proof.Machine
end

section
/-! PROOFS. O42: the commands of adapter training, and what a close leaves in a watch entry. -/

namespace Sys2Proof.Machine

/-! ### Bytes written over a structure (R12) -/

section
variable {bs new : List Byte} {o n o' n' : Nat}

theorem slice_eq_map_getD (bs : List Byte) (o n : Nat) : slice bs o n = (List.range n).map (fun k => bs.getD (o + k) 0#8) := by
  refine List.ext_getElem (by simp [slice]) fun k hk _ => ?_
  simp only [slice, List.getElem_map, List.getElem_range, List.getD_eq_getElem?_getD]
  by_cases hin : k < ((bs.drop o).take n).length
  · rw [List.getElem_append_left hin]
    simp only [List.length_take, List.length_drop] at hin
    simp [List.getElem?_eq_getElem (show o + k < bs.length by omega)]
  · rw [List.getElem_append_right (by omega), List.getElem_replicate, List.getElem?_eq_none]
    · rfl
    · simp [slice] at hin hk; omega

theorem length_overlay (h : o + new.length ≤ bs.length) : (overlay bs o new).length = bs.length := by
  simp [overlay]; omega

theorem getD_overlay (h : o + new.length ≤ bs.length) (k : Nat) : (overlay bs o new).getD k 0#8 =
    if o ≤ k ∧ k < o + new.length then new.getD (k - o) 0#8 else bs.getD k 0#8 := by
  have hto : (bs.take o).length = o := by simp; omega
  simp only [overlay, List.append_assoc, List.getD_eq_getElem?_getD]
  rcases Nat.lt_or_ge k o with hlo | hlo
  · rw [List.getElem?_append_left (by omega), List.getElem?_take_of_lt hlo, if_neg (by omega)]
  · rw [List.getElem?_append_right (by omega), hto]
    rcases Nat.lt_or_ge k (o + new.length) with hhi | hhi
    · rw [List.getElem?_append_left (by omega), if_pos ⟨hlo, hhi⟩]
    · rw [List.getElem?_append_right (by omega), List.getElem?_drop, if_neg (by omega)]
      congr 2; omega

theorem slice_overlay_within (h : o + new.length ≤ bs.length) (hlo : o ≤ o') (hhi : o' + n ≤ o + new.length) :
    slice (overlay bs o new) o' n = slice new (o' - o) n := by
  rw [slice_eq_map_getD, slice_eq_map_getD]
  refine List.map_congr_left fun k hk => ?_
  have hk := List.mem_range.mp hk
  rw [getD_overlay h, if_pos (by omega)]
  congr 1; omega

theorem slice_overlay_apart (h : o + new.length ≤ bs.length) (ha : o' + n ≤ o ∨ o + new.length ≤ o') :
    slice (overlay bs o new) o' n = slice bs o' n := by
  rw [slice_eq_map_getD, slice_eq_map_getD]
  refine List.map_congr_left fun k hk => ?_
  have hk := List.mem_range.mp hk
  rw [getD_overlay h, if_neg (by omega)]

theorem slice_whole (bs : List Byte) : slice bs 0 bs.length = bs := by simp [slice]

theorem leVal_leBytes (n v : Nat) : leVal (leBytes n v) = v % 256 ^ n := by
  induction n generalizing v with
  | zero => simp [leBytes, leVal, Nat.mod_one]
  | succ n ih =>
    have hbyte : (BitVec.ofNat 8 v).toNat = v % 256 := BitVec.toNat_ofNat v 8
    rw [leBytes, leVal, ih, hbyte, pow_succ', Nat.mod_mul]

end

/-! ### The fields of a watch entry (R361) -/

section
variable {e : List Byte} {o n v o' n' : Nat}

theorem length_putAt (h : e.length = 64) (hn : o + n ≤ 64) : (putAt e o n v).length = 64 :=
  (length_overlay (by rwa [leBytes_length, h])).trans h

theorem fieldAt_putAt_self (h : o + n ≤ e.length) : fieldAt (putAt e o n v) o n = v % 256 ^ n := by
  have hn := leBytes_length n v
  have hwhole : slice (leBytes n v) 0 n = leBytes n v := by simpa [hn] using slice_whole (leBytes n v)
  rw [fieldAt, putAt, slice_overlay_within (by omega) le_rfl (by omega), Nat.sub_self, hwhole, leVal_leBytes]

theorem fieldAt_putAt_apart (h : o + n ≤ e.length) (ha : o' + n' ≤ o ∨ o + n ≤ o') :
    fieldAt (putAt e o n v) o' n' = fieldAt e o' n' := by
  rw [fieldAt, putAt, slice_overlay_apart (by rwa [leBytes_length]) (by rwa [leBytes_length]), fieldAt]

theorem length_clearCounts (h : e.length = 64) : (clearCounts e).length = 64 :=
  (length_overlay (by simp [h])).trans h

theorem fieldAt_clearCounts_apart (h : e.length = 64) (ha : o' + n' ≤ 0x1C ∨ 0x34 ≤ o') :
    fieldAt (clearCounts e) o' n' = fieldAt e o' n' := by
  rw [fieldAt, clearCounts, slice_overlay_apart (by simp [h]) (by simpa using ha), fieldAt]

theorem fieldAt_clearCounts_count {k : Nat} (h : e.length = 64) (hk : k < 6) : fieldAt (clearCounts e) (0x1C + 4 * k) 4 = 0 := by
  rw [fieldAt, clearCounts, slice_overlay_within (by simp [h]) (by omega) (by simp; omega)]
  interval_cases k <;> rfl

theorem toSigned_ofSigned_16 {x : Int} (hlo : -32768 ≤ x) (hhi : x ≤ 32767) : toSigned 16 (ofSigned 16 x) = x := by
  have hcode : (ofSigned 16 x : Int) = x % 65536 := Int.toNat_of_nonneg (Int.emod_nonneg _ (by decide))
  simp only [toSigned]
  split <;> omega

/-- A 16-bit estimate or observed exponent is in range (R361). -/
theorem toSigned_16_mem (x : Nat) : -32768 ≤ toSigned 16 x ∧ toSigned 16 x ≤ 32767 := by
  simp only [toSigned]
  split <;> omega

theorem length_putCtrl {i : Nat} {on : Bool} (h : e.length = 64) : (putCtrl e i on).length = 64 :=
  length_putAt h (by decide)

theorem fieldAt_putCtrl_apart {i : Nat} {on : Bool} (h : e.length = 64) (ha : o' + n' ≤ 0x10 ∨ 0x11 ≤ o') :
    fieldAt (putCtrl e i on) o' n' = fieldAt e o' n' := fieldAt_putAt_apart (by omega) ha

/-- The trip bit of CTRL is no part of HEADROOM (R361). -/
theorem enHeadroom_putCtrl_trip {on : Bool} (h : e.length = 64) : enHeadroom (putCtrl e 2 on) = enHeadroom e := by
  have hctrl : bitsOf (setBitsOf (fieldAt e 0x10 1) 2 2 (b2n on) % 256 ^ 1) 5 3 = bitsOf (fieldAt e 0x10 1) 5 3 := by
    rw [← bitsOf_setBitsOf_above (x := fieldAt e 0x10 1) (v := b2n on) (by decide : 2 ≤ 2) (by decide : 2 < 3),
      bitsOf_eq, bitsOf_eq]
    omega
  rw [enHeadroom, putCtrl, fieldAt_putAt_self (by omega), hctrl, enHeadroom]

theorem length_putEst {x : Int} (h : e.length = 64) : (putEst e x).length = 64 :=
  length_putAt (length_putAt h (by decide)) (by decide)

/-- SCALE_E and the estimate alone change with the estimate (R367). -/
theorem fieldAt_putEst_apart {x : Int} (h : e.length = 64) (hs : o' + n' ≤ 0x12 ∨ 0x13 ≤ o')
    (he : o' + n' ≤ 0x16 ∨ 0x18 ≤ o') :
    fieldAt (putEst e x) o' n' = fieldAt e o' n' := by
  have hest : (putAt e 0x16 2 (ofSigned 16 x)).length = 64 := length_putAt h (by decide)
  rw [putEst, fieldAt_putAt_apart (by omega) hs, fieldAt_putAt_apart (by omega) he]

theorem enEst_putEst {x : Int} (h : e.length = 64) (hlo : -32768 ≤ x) (hhi : x ≤ 32767) : enEst (putEst e x) = x := by
  have hest : (putAt e 0x16 2 (ofSigned 16 x)).length = 64 := length_putAt h (by decide)
  have hfits : ofSigned 16 x < 256 ^ 2 := by simp only [ofSigned]; omega
  rw [enEst, putEst, fieldAt_putAt_apart (by omega) (by omega), fieldAt_putAt_self (by omega), Nat.mod_eq_of_lt hfits,
    toSigned_ofSigned_16 hlo hhi]

end

/-! ### What a close writes (R366) -/

/-- The cause that a close leaves in its record: what stood there, 2 where too much saturated, and 1 for a non-finite element. -/
def closeCause (e : List Byte) : Nat :=
  enCause e ||| (if fieldAt e 0x18 2 * fieldAt e 0x1C 4 < fieldAt e 0x28 4 * 1000 then 2 else 0) |||
    (if 0 < fieldAt e 0x2C 4 then 1 else 0)

/-- An entry with the cause of its close, and the trip that a cause sets. -/
def closeTripped (e : List Byte) : List Byte :=
  if closeCause e ≠ 0 then putCtrl (putAt e 0x1A 2 (closeCause e)) 2 true else putAt e 0x1A 2 (closeCause e)

/-- The estimate that a close of `e` sets, where `sat` elements saturated and `bad` were non-finite. -/
def closeEst (e : List Byte) (sat bad : Nat) : Int :=
  match enObs e with
  | some o => if sat ≠ 0 ∨ bad ≠ 0 then max (enEst e + 1) (o + enHeadroom e + 1) else max (o + enHeadroom e) (enEst e - 1)
  | none => if sat ≠ 0 ∨ bad ≠ 0 then enEst e + 1 else enEst e

/-- The line of an entry that a CLOSE record reports. -/
def closeReported (e : List Byte) : List Byte :=
  putEst (closeTripped e) (closeEst (closeTripped e) (fieldAt e 0x28 4) (fieldAt e 0x2C 4))

/-- The line that a close leaves, from the one it reports: what the entry observed cleared, and the close counted. -/
def closeCleared (e : List Byte) : List Byte :=
  putAt (putAt (putAt (putAt (clearCounts e) 0x14 2 0x8000) 0x1A 2 0) 0x34 4 (fieldAt e 0x34 4 + 1)) 0x13 1 0

theorem closeEntry_of_elems_zero {e : List Byte} (h : fieldAt e 0x1C 4 = 0) : closeEntry e = none := if_pos h

theorem closeEntry_of_elems {e : List Byte} (h : fieldAt e 0x1C 4 ≠ 0) :
    closeEntry e = some (closeCleared (closeReported e), closeReported e) := if_neg h

section
variable {e : List Byte} (h : e.length = 64)
include h

theorem length_closeTripped : (closeTripped e).length = 64 := by
  have hcause : (putAt e 0x1A 2 (closeCause e)).length = 64 := length_putAt h (by decide)
  rw [closeTripped]
  split
  · exact length_putCtrl hcause
  · exact hcause

theorem fieldAt_closeTripped_apart {o n : Nat} (hctrl : o + n ≤ 0x10 ∨ 0x11 ≤ o) (hcause : o + n ≤ 0x1A ∨ 0x1C ≤ o) :
    fieldAt (closeTripped e) o n = fieldAt e o n := by
  have hlen : (putAt e 0x1A 2 (closeCause e)).length = 64 := length_putAt h (by decide)
  rw [closeTripped]
  split
  · rw [fieldAt_putCtrl_apart hlen hctrl, fieldAt_putAt_apart (by omega) hcause]
  · rw [fieldAt_putAt_apart (by omega) hcause]

theorem enObs_closeTripped : enObs (closeTripped e) = enObs e := by
  rw [enObs, fieldAt_closeTripped_apart h (by omega) (by omega), enObs]

theorem enEst_closeTripped : enEst (closeTripped e) = enEst e := by
  rw [enEst, fieldAt_closeTripped_apart h (by omega) (by omega), enEst]

theorem enHeadroom_closeTripped : enHeadroom (closeTripped e) = enHeadroom e := by
  have hlen : (putAt e 0x1A 2 (closeCause e)).length = 64 := length_putAt h (by decide)
  have hcause : enHeadroom (putAt e 0x1A 2 (closeCause e)) = enHeadroom e := by
    rw [enHeadroom, fieldAt_putAt_apart (by omega) (by omega), enHeadroom]
  rw [closeTripped]
  split
  · rw [enHeadroom_putCtrl_trip hlen, hcause]
  · exact hcause

theorem length_closeReported : (closeReported e).length = 64 := length_putEst (length_closeTripped h)

/-- A close does not count itself before it is over. -/
theorem closes_closeReported : fieldAt (closeReported e) 0x34 4 = fieldAt e 0x34 4 := by
  rw [closeReported, fieldAt_putEst_apart (length_closeTripped h) (by omega) (by omega),
    fieldAt_closeTripped_apart h (by omega) (by omega)]

/-- With nothing saturated or non-finite the estimate falls by at most 1, and not below what was observed and the headroom. -/
theorem closeEst_of_clean {o : Int} (ho : enObs e = some o) :
    closeEst (closeTripped e) 0 0 = max (o + enHeadroom e) (enEst e - 1) := by
  rw [closeEst, enObs_closeTripped h, ho, enHeadroom_closeTripped h, enEst_closeTripped h]
  rfl

/-- The estimate of a clean close is not cut off by its 16 bits. -/
theorem enEst_closeReported_of_clean {o : Int} (ho : enObs e = some o) (hsat : fieldAt e 0x28 4 = 0) (hbad : fieldAt e 0x2C 4 = 0)
    (hfits : o + enHeadroom e ≤ 32767) : enEst (closeReported e) = max (o + enHeadroom e) (enEst e - 1) := by
  have hest : -32768 ≤ enEst e ∧ enEst e ≤ 32767 := toSigned_16_mem _
  have hobs : -32768 ≤ o := by
    rw [enObs] at ho
    split at ho
    · cases ho
    · cases ho
      exact (toSigned_16_mem _).1
  have hroom : 0 ≤ enHeadroom e := Int.natCast_nonneg _
  rw [closeReported, hsat, hbad, closeEst_of_clean h ho, enEst_putEst (length_closeTripped h) (by omega) (by omega)]

end

/-! ### What a close clears (R366) -/

section
variable {e : List Byte} (h : e.length = 64)
include h

/-- The lines on the way to what a close leaves have the length of an entry. -/
theorem length_closeCleared_steps : (clearCounts e).length = 64 ∧ (putAt (clearCounts e) 0x14 2 0x8000).length = 64 ∧
    (putAt (putAt (clearCounts e) 0x14 2 0x8000) 0x1A 2 0).length = 64 ∧
    (putAt (putAt (putAt (clearCounts e) 0x14 2 0x8000) 0x1A 2 0) 0x34 4 (fieldAt e 0x34 4 + 1)).length = 64 := by
  have hcounts := length_clearCounts h
  have hobs : (putAt (clearCounts e) 0x14 2 0x8000).length = 64 := length_putAt hcounts (by decide)
  have hcause : (putAt (putAt (clearCounts e) 0x14 2 0x8000) 0x1A 2 0).length = 64 := length_putAt hobs (by decide)
  exact ⟨hcounts, hobs, hcause, length_putAt hcause (by decide)⟩

theorem length_closeCleared : (closeCleared e).length = 64 := by
  obtain ⟨_, _, _, hcloses⟩ := length_closeCleared_steps h
  exact length_putAt hcloses (by decide)

theorem replays_closeCleared : fieldAt (closeCleared e) 0x13 1 = 0 := by
  obtain ⟨_, _, _, hcloses⟩ := length_closeCleared_steps h
  rw [closeCleared, fieldAt_putAt_self (by omega), Nat.zero_mod]

theorem closes_closeCleared : fieldAt (closeCleared e) 0x34 4 = (fieldAt e 0x34 4 + 1) % 2 ^ 32 := by
  obtain ⟨_, _, hcause, hcloses⟩ := length_closeCleared_steps h
  rw [closeCleared, fieldAt_putAt_apart (by omega) (by omega), fieldAt_putAt_self (by omega)]
  rfl

theorem cause_closeCleared : fieldAt (closeCleared e) 0x1A 2 = 0 := by
  obtain ⟨_, hobs, hcause, hcloses⟩ := length_closeCleared_steps h
  rw [closeCleared, fieldAt_putAt_apart (by omega) (by omega), fieldAt_putAt_apart (by omega) (by omega),
    fieldAt_putAt_self (by omega), Nat.zero_mod]

/-- Up to CLOSES, what is outside the cause and the replays is what clearing the counts and the observed exponent left. -/
theorem fieldAt_closeCleared_apart {o n : Nat} (hreplays : o + n ≤ 0x13 ∨ 0x14 ≤ o) (hcause : o + n ≤ 0x1A ∨ 0x1C ≤ o)
    (hcloses : o + n ≤ 0x34) :
    fieldAt (closeCleared e) o n = fieldAt (putAt (clearCounts e) 0x14 2 0x8000) o n := by
  obtain ⟨_, h1, h2, h3⟩ := length_closeCleared_steps h
  rw [closeCleared, fieldAt_putAt_apart (by omega) hreplays, fieldAt_putAt_apart (by omega) (.inl hcloses),
    fieldAt_putAt_apart (by omega) hcause]

theorem counts_closeCleared {k : Nat} (hk : k < 6) : fieldAt (closeCleared e) (0x1C + 4 * k) 4 = 0 := by
  obtain ⟨hcounts, _, _, _⟩ := length_closeCleared_steps h
  rw [fieldAt_closeCleared_apart h (by omega) (by omega) (by omega), fieldAt_putAt_apart (by omega) (by omega),
    fieldAt_clearCounts_count h hk]

theorem enObs_closeCleared : enObs (closeCleared e) = none := by
  obtain ⟨hcounts, _, _, _⟩ := length_closeCleared_steps h
  have hobs : fieldAt (closeCleared e) 0x14 2 = 0x8000 := by
    rw [fieldAt_closeCleared_apart h (by omega) (by omega) (by omega), fieldAt_putAt_self (by omega)]
    rfl
  exact if_pos hobs

theorem enEst_closeCleared : enEst (closeCleared e) = enEst e := by
  obtain ⟨hcounts, _, _, _⟩ := length_closeCleared_steps h
  rw [enEst, fieldAt_closeCleared_apart h (by omega) (by omega) (by omega), fieldAt_putAt_apart (by omega) (by omega),
    fieldAt_clearCounts_apart h (by omega), enEst]

end

/-! ### The commands (R366, R371, R372) -/

section
variable {s s' : State} {r : Requester} {c i : Nat} {e after rec_ : List Byte}

theorem exec_trainClose_of_mayWrite (hm : s.mayWriteCore r c = true) (hi : i < 64) :
    exec (.trainClose r c i) s = .next (s.trainClose c i false) := congrArg Host.Outcome.next (if_pos (by simp [hm, hi]))

theorem exec_trainCloseAll_of_mayWrite (hm : s.mayWriteCore r c = true) :
    exec (.trainCloseAll r c) s = .next (s.trainCloseAll c) := congrArg Host.Outcome.next (if_pos hm)

theorem exec_trainReplay_of_mayWrite (fmt : Nat) (hm : s.mayWriteCore r c = true) (hi : i < 64) :
    exec (.trainReplay r c i fmt) s = .next (s.trainReplay c i fmt) := congrArg Host.Outcome.next (if_pos (by simp [hm, hi]))

theorem exec_trainSkip_of_mayWrite (hm : s.mayWriteCore r c = true) (hi : i < 64) :
    exec (.trainSkip r c i) s = .next (s.trainSkip c i) := congrArg Host.Outcome.next (if_pos (by simp [hm, hi]))

/-- A requester that may not write the core's registers changes nothing by a training command (R266, R716). -/
theorem exec_train_refused (i fmt : Nat) (hm : s.mayWriteCore r c = false) :
    exec (.trainClose r c i) s = .next s ∧ exec (.trainCloseAll r c) s = .next s ∧
      exec (.trainReplay r c i fmt) s = .next s ∧ exec (.trainSkip r c i) s = .next s := by
  refine ⟨?_, ?_, ?_, ?_⟩ <;> exact congrArg Host.Outcome.next (if_neg (by simp [hm]))

theorem State.trainClose_of_close (hr : s.trainRead c (0x40 + 64 * i) 64 = (.ok e, s'))
    (hc : Machine.closeEntry e = some (after, rec_)) :
    s.trainClose c i false = (s'.trainWrite c (0x40 + 64 * i) after).trainLog c logClose i rec_ := by
  simp [State.trainClose, hr, hc]

theorem State.trainClose_of_none (hr : s.trainRead c (0x40 + 64 * i) 64 = (.ok e, s')) (hc : Machine.closeEntry e = none) :
    s.trainClose c i false = s' := by
  simp [State.trainClose, hr, hc]

end

/-- Settles O42, by what a close reports and what it clears. -/
theorem trainingWatch : Obligations.TrainingWatch := by
  refine ⟨fun s r c i fmt hi => ⟨fun hm => ?run, exec_train_refused i fmt, fun e after rec_ s' hm hr hc => ?closed,
      fun e s' hm hr hz => ?empty⟩,
    fun e => closeEntry_of_elems_zero, fun e h => by rw [closeEntry_of_elems h]; rfl, fun e after rec_ h hc => ?left⟩
  case run =>
    exact ⟨exec_trainClose_of_mayWrite hm hi, exec_trainCloseAll_of_mayWrite hm, exec_trainReplay_of_mayWrite fmt hm hi,
      exec_trainSkip_of_mayWrite hm hi⟩
  case closed => rw [exec_trainClose_of_mayWrite hm hi, State.trainClose_of_close hr hc]
  case empty => rw [exec_trainClose_of_mayWrite hm hi, State.trainClose_of_none hr (closeEntry_of_elems_zero hz)]
  case left =>
    have helems : fieldAt e 0x1C 4 ≠ 0 := fun hz => by simp [closeEntry_of_elems_zero hz] at hc
    obtain ⟨rfl, rfl⟩ : closeCleared (closeReported e) = after ∧ closeReported e = rec_ := by
      simpa [closeEntry_of_elems helems] using hc
    have hrec := length_closeReported h
    refine ⟨length_closeCleared hrec, fun k => counts_closeCleared hrec, cause_closeCleared hrec, enObs_closeCleared hrec,
      replays_closeCleared hrec, ?_, fun o ho hsat hbad hfits => ?_⟩
    · rw [closes_closeCleared hrec, closes_closeReported h]
    · rw [enEst_closeCleared hrec, enEst_closeReported_of_clean h ho hsat hbad hfits]
      exact le_max_left _ _

end Sys2Proof.Machine
end

section
/-! PROOFS. O34: the sequence table after COMMIT, TRUNCATE and RELEASE, and the pages and window tables that the
allocator zeroises. -/

namespace Sys2Proof.Machine

/-! ### Lines put at their home: what they leave of the allocator and of memory (R401, R409) -/

section
variable {s : State} {b : Nat}

@[simp] theorem State.countLine_kv (s : State) (pa : Nat) (wr : Bool) : (s.countLine pa wr).kv = s.kv := by
  simp only [State.countLine]
  split
  · split <;> exact State.bump64_kv ..
  · rfl

@[simp] theorem State.countLine_mem (s : State) (pa : Nat) (wr : Bool) : (s.countLine pa wr).mem = s.mem := by
  simp only [State.countLine]
  split
  · split <;> exact State.bump64_mem ..
  · rfl

@[simp] theorem State.setPoison_kv (s : State) (a : Nat) (on : Bool) : (s.setPoison a on).kv = s.kv := by
  simp only [State.setPoison]
  split
  · rfl
  · split
    · split <;> rfl
    · rfl

@[simp] theorem State.setPoison_mem (s : State) (a : Nat) (on : Bool) : (s.setPoison a on).mem = s.mem :=
  (s.holds_self.setPoison a on).mem_eq

@[simp] theorem State.zeroRange_kv (s : State) (lo hi : Nat) : (s.zeroRange lo hi).kv = s.kv := by
  simp only [State.zeroRange, State.zeroBytes_kv]
  rw [State.foldl_keeps State.kv fun t _ => t.countLine_kv .., State.foldl_keeps State.kv fun t _ => t.setPoison_kv ..]

/-- Of memory, a zeroised range is just bytes at 0 (R106). -/
theorem State.zeroRange_mem (s : State) (lo hi : Nat) : (s.zeroRange lo hi).mem = (s.zeroBytes lo hi).mem := by
  simp only [State.zeroRange, State.zeroBytes]
  rw [State.foldl_keeps State.mem fun t _ => t.countLine_mem .., State.foldl_keeps State.mem fun t _ => t.setPoison_mem ..]

theorem State.byte_zeroRange (s : State) (lo hi b : Nat) :
    (s.zeroRange lo hi).byte b = if lo ≤ b ∧ b < hi then 0#8 else s.byte b := by
  rw [← State.byte_zeroBytes, State.byte, State.zeroRange_mem, State.byte]

@[simp] theorem State.putLine_kv (s : State) (pa : Nat) (bs : List Byte) : (s.putLine pa bs).kv = s.kv := by
  simp only [State.putLine, State.setBytes_kv, State.rewriteCells]
  rw [State.foldl_keeps State.kv fun t _ => t.setPoison_kv .., State.countLine_kv]

/-- Of memory, a line at its home is just its bytes. -/
theorem State.putLine_mem (s : State) (pa : Nat) (bs : List Byte) : (s.putLine pa bs).mem = (s.setBytes pa bs).mem := by
  simp only [State.putLine, State.setBytes, State.rewriteCells]
  rw [State.foldl_keeps State.mem fun t _ => t.setPoison_mem .., State.countLine_mem]

theorem State.byte_putLine_outside {pa : Nat} {bs : List Byte} (h : b < pa ∨ pa + bs.length ≤ b) :
    (s.putLine pa bs).byte b = s.byte b := by
  rw [← s.byte_setBytes_outside h, State.byte, State.putLine_mem, State.byte]

end

/-! ### Window tables (R389, R394) -/

/-- Address `a` lies in none of the listed window tables of chamber `n`. -/
def OutsideTables (l : List KvTable) (n a : Nat) : Prop :=
  ∀ x ∈ l, x.chamber = n → a < x.pa ∨ x.pa + tableBytes x.level ≤ a

theorem OutsideTables.mono {l l' : List KvTable} {n a : Nat} (h : OutsideTables l n a) (hsub : l' ⊆ l) : OutsideTables l' n a :=
  fun x hx => h x (hsub hx)

section
variable {s : State} {n level i index a : Nat} {t : KvTable}

theorem State.windowTable_spec (h : s.windowTable n level index = some t) :
    t ∈ s.kv.tables ∧ t.chamber = n ∧ t.level = level := by
  obtain ⟨⟨hn, hl⟩, -⟩ : (t.chamber = n ∧ t.level = level) ∧ t.index = index := by simpa using List.find?_some h
  exact ⟨List.mem_of_find?_eq_some h, hn, hl⟩

/-- The line that holds an entry lies within its table. -/
theorem entryLine_le_tableBytes (level i : Nat) : i % (tableBytes level / 8) / 8 * 64 + 64 ≤ tableBytes level := by
  unfold tableBytes
  split <;> omega

/-- What an entry's write can do: nothing, or put a line within a table of its chamber. -/
theorem State.writeEntry_cases (s : State) (n level i : Nat) : (s.writeEntry n level i).2 = s ∨
    ∃ t ∈ s.kv.tables, t.chamber = n ∧ ∃ pa bs, t.pa ≤ pa ∧ pa + bs.length ≤ t.pa + tableBytes t.level ∧
      (s.writeEntry n level i).2 = s.putLine pa bs := by
  simp only [State.writeEntry]
  split
  · exact .inl rfl
  case h_2 t ht =>
    obtain ⟨hmem, hn, rfl⟩ := State.windowTable_spec ht
    split
    · exact .inl rfl
    · refine .inr ⟨t, hmem, hn, _, _, Nat.le_add_right .., ?_, rfl⟩
      simp only [List.length_flatMap, leBytes_length, List.map_const', List.length_range, List.sum_replicate]
      exact (Nat.add_assoc ..).trans_le (Nat.add_le_add_left (entryLine_le_tableBytes t.level i) _)

@[simp] theorem State.writeEntry_kv (s : State) (n level i : Nat) : (s.writeEntry n level i).2.kv = s.kv := by
  obtain h | ⟨-, -, -, pa, bs, -, -, h⟩ := s.writeEntry_cases n level i
  · rw [h]
  · rw [h, State.putLine_kv]

theorem State.byte_writeEntry_outside (level i : Nat) (ha : OutsideTables s.kv.tables n a) :
    (s.writeEntry n level i).2.byte a = s.byte a := by
  obtain h | ⟨t, ht, hn, pa, bs, hlo, hhi, h⟩ := s.writeEntry_cases n level i
  · rw [h]
  · rw [h, State.byte_putLine_outside]
    have := ha t ht hn
    omega

@[simp] theorem State.dropTable_kv (s : State) (t : KvTable) : (s.dropTable t).kv = s.kv := by
  simp only [State.dropTable]
  split
  · exact s.zeroRange_kv ..
  · rw [State.writeEntry_kv, State.zeroRange_kv]

theorem State.byte_dropTable_outside (ht : a < t.pa ∨ t.pa + tableBytes t.level ≤ a)
    (ha : OutsideTables s.kv.tables t.chamber a) : (s.dropTable t).byte a = s.byte a := by
  have hzero : (s.zeroRange t.pa (t.pa + tableBytes t.level)).byte a = s.byte a := by
    rw [State.byte_zeroRange, if_neg (by omega)]
  simp only [State.dropTable]
  split
  · exact hzero
  · rw [State.byte_writeEntry_outside _ _ (by rwa [State.zeroRange_kv]), hzero]

/-- A byte that each of a list of operations leaves, as long as the allocator stands, is left by them all. -/
theorem State.byte_foldl {α : Type} {f : State → α → State} {l : List α} (hkv : ∀ u x, (f u x).kv = u.kv)
    (hbyte : ∀ u, u.kv = s.kv → ∀ x ∈ l, (f u x).byte a = u.byte a) : (l.foldl f s).byte a = s.byte a :=
  (List.foldlRecOn (motive := fun u : State => u.kv = s.kv ∧ u.byte a = s.byte a) l f ⟨rfl, rfl⟩
    fun u ⟨hu, hb⟩ x hx => ⟨(hkv u x).trans hu, (hbyte u hu x hx).trans hb⟩).2

end

/-! ### Pages returned (R280, R282, R395) -/

section
variable {s : State} {n a : Nat}

theorem State.returnPages_seqs (s : State) (n : Nat) (p : KvPage → Bool) : (s.returnPages n p).kv.seqs = s.kv.seqs := by
  simp only [State.returnPages]
  rw [State.foldl_keeps State.kv State.dropTable_kv, State.foldl_keeps State.kv fun t _ => t.writeEntry_kv ..]

/-- The allocator that returns pages writes in the window tables that it had, those that it gives back among them. -/
theorem State.byte_returnPages_outside (p : KvPage → Bool) (ha : OutsideTables s.kv.tables n a) :
    (s.returnPages n p).byte a = s.byte a := by
  unfold State.returnPages
  extract_lets gone kept serves bare mine ms kv u
  have hu : OutsideTables u.kv.tables n a := ha.mono List.filter_sublist.subset
  have hwritten : (gone.foldl (fun s e => (s.writeEntry n 4 e.vpage).2) u).kv = u.kv :=
    State.foldl_keeps State.kv (fun t _ => t.writeEntry_kv ..) _ u
  have hbare : ∀ t ∈ bare, t ∈ s.kv.tables ∧ t.chamber = n := fun t ht => by
    obtain ⟨hmem, hserves⟩ := List.mem_filter.1 ht
    exact ⟨hmem, by_contra fun hn => by simp [serves, hn] at hserves⟩
  rw [State.byte_foldl State.dropTable_kv, State.byte_foldl fun t _ => t.writeEntry_kv ..]
  · rfl
  · exact fun v hv e _ => State.byte_writeEntry_outside _ _ (by rwa [hv])
  · intro v hv t ht
    obtain ⟨hmem, rfl⟩ := hbare t ht
    exact State.byte_dropTable_outside (ha t hmem rfl) (by rwa [hv, hwritten])

end

/-! ### The sequence table (R269 to R271) -/

section
variable {s : State} {n id m j a : Nat} {o : EngOp}

theorem State.seq_of_seqs {s t : State} (h : t.kv.seqs = s.kv.seqs) (n id : Nat) : t.seq n id = s.seq n id := by
  rw [State.seq, h, State.seq]

theorem State.seq_setSeq_ne (s : State) (x : Seq) (h : seqKey m j ≠ seqKey n id) : (s.setSeq n id x).seq m j = s.seq m j :=
  smGet_smPut_ne _ _ _ h.symm

theorem State.seq_seqTruncate_self (s : State) (n id p : Nat) : let q := s.seq n id
    let t := (s.seqTruncate n id p).seq n id
    t.high = p ∧ t.length = min q.length p ∧ t.gen = q.gen := by
  simp [State.seqTruncate]

theorem State.seq_seqTruncate_ne (s : State) (p : Nat) (h : seqKey m j ≠ seqKey n id) :
    (s.seqTruncate n id p).seq m j = s.seq m j := by
  rw [State.seqTruncate, State.seq_setSeq_ne _ _ h, State.seq_of_seqs (State.returnPages_seqs ..)]

theorem State.byte_seqTruncate_outside (id p : Nat) (ha : OutsideTables s.kv.tables n a) :
    (s.seqTruncate n id p).byte a = s.byte a := by
  rw [State.seqTruncate, State.byte_setSeq, State.byte_returnPages_outside _ ha]

theorem State.seq_seqRelease_self (s : State) (n id : Nat) :
    (s.seqRelease n id).seq n id = { Seq.none with gen := nextSeqGen (s.seq n id).gen } :=
  State.seq_setSeq_self ..

theorem State.seq_seqRelease_ne (s : State) (h : seqKey m j ≠ seqKey n id) : (s.seqRelease n id).seq m j = s.seq m j := by
  rw [State.seqRelease, State.seq_setSeq_ne _ _ h, State.seq_of_seqs (State.returnPages_seqs ..)]

theorem State.byte_seqRelease_outside (id : Nat) (ha : OutsideTables s.kv.tables n a) :
    (s.seqRelease n id).byte a = s.byte a := by
  rw [State.seqRelease, State.byte_setSeq, State.byte_returnPages_outside _ ha]

/-- COMMIT on an open sequence of the generation named (R271). -/
theorem State.seqRun_commit (hop : sqOp o.desc = 1) (hopen : (s.seq (s.coreChamber o.core) (sqSeq o.desc)).state = 1)
    (hgen : (s.seq (s.coreChamber o.core) (sqSeq o.desc)).gen = sqGen o.desc) :
    s.seqRun o = (s.setSeq (s.coreChamber o.core) (sqSeq o.desc) { s.seq (s.coreChamber o.core) (sqSeq o.desc) with
      length := (s.seq (s.coreChamber o.core) (sqSeq o.desc)).high }).engServed o (statusWord 0 false Flags.zero) := by
  simp [State.seqRun, State.atStatus, hop, hopen, hgen]

end

/-! ### Zeroisation of returned pages (R282) -/

section
variable {s : State} {n a : Nat}

theorem State.byte_zeroPage (s : State) (n p b : Nat) :
    (s.zeroPage n p).byte b = if p ≤ b ∧ b < p + 0x10000 then 0#8 else s.byte b := s.byte_zeroRange ..

theorem State.zeroPage_seqs (s : State) (n p : Nat) : (s.zeroPage n p).kv.seqs = s.kv.seqs := by
  simp [State.zeroPage]

theorem State.zeroPage_waits_no_more (s : State) (n p : Nat) : (s.zeroPage n p).kv.zeroing.contains (n, p) = false := by
  simp [State.zeroPage]

theorem exec_poolPageZeroised_of_some (h : s.kv.zeroing.find? (fun e => e.1 == n) = some (n, a)) :
    exec (.poolPageZeroised n) s = .next (s.zeroPage n a) := by
  change execPoolPageZeroised n s = _
  simp only [execPoolPageZeroised, h]

theorem exec_poolPageZeroised_of_none (h : s.kv.zeroing.find? (fun e => e.1 == n) = none) :
    exec (.poolPageZeroised n) s = .next s := by
  change execPoolPageZeroised n s = _
  simp only [execPoolPageZeroised, h]

end

/-- Settles O34: every line that the allocator writes lies in a window table that it had. -/
theorem sequenceEntries : Obligations.SequenceEntries := by
  refine fun s n id p => ⟨?truncate, ?release, fun o hop hopen hgen => ?commit, fun a h => ?zeroised,
    exec_poolPageZeroised_of_none⟩
  case truncate =>
    obtain ⟨hhigh, hlength, hgen⟩ := s.seq_seqTruncate_self n id p
    exact ⟨hhigh, hlength, hgen, fun _ _ => s.seq_seqTruncate_ne p, fun _ => State.byte_seqTruncate_outside id p⟩
  case release =>
    refine ⟨?_, ?_, ?_, fun _ _ => s.seq_seqRelease_ne, fun _ => State.byte_seqRelease_outside id⟩ <;>
      rw [s.seq_seqRelease_self] <;> rfl
  case commit =>
    exact ⟨_, State.seqRun_commit hop hopen hgen, s.seq_setSeq_self .., fun _ _ => s.seq_setSeq_ne _, rfl⟩
  case zeroised =>
    refine ⟨_, exec_poolPageZeroised_of_some h, fun b hlo hhi => ?_, fun b hb => ?_, s.zeroPage_waits_no_more n a,
      s.zeroPage_seqs n a⟩
    · rw [State.byte_zeroPage, if_pos ⟨hlo, hhi⟩]
    · rw [State.byte_zeroPage, if_neg (by omega)]

end Sys2Proof.Machine
end

section
/-! PROOFS. O36: how RT.RUN, XC.RECV and XC.RETURN complete, and how a bias window closes. -/

namespace Sys2Proof.Machine

/-! ### RT_RUN_COMPLETE (R310, R340, R341) -/

section
variable {s : State} {g epoch : Nat} {b : Batch} {o : EngOp}

/-- A batch is found by the gallery and the epoch that it carries. -/
theorem State.batch_self (h : s.batch g epoch = some b) : s.batch b.gallery b.epoch = some b := by
  obtain ⟨hg, he⟩ : b.gallery = g ∧ b.epoch = epoch := by simpa using List.find?_some h
  rwa [hg, he]

theorem State.batchOver_selectOnly (hb : s.batch g epoch = some b) (hsel : b.selectOnly = true) :
    s.batchOver b o = s.engServed o b.flags := by
  simp only [State.batchOver, hsel, if_true, State.batch_self hb]
  rfl

theorem State.batchOver_dispatched {u : State} {b' : Batch} (hsel : b.selectOnly = false)
    (hb : (u.emptyRows b o (List.range b.tokens)).batch b.gallery b.epoch = some b') :
    u.batchOver b o = (u.emptyRows b o (List.range b.tokens)).engServed o b'.flags := by
  simp only [State.batchOver, hsel, Bool.false_eq_true, if_false, hb]
  rfl

section
variable (hb : s.batch g epoch = some b) (ho : s.engOp b.op = some o) (ha : o.aborted = false) (hs : o.status = none)
include hb ho ha hs

theorem execRtRunComplete_of_live : exec (.rtRunComplete g epoch) s = .next
    ((if b.selectOnly || (b.marked && b.sel.all (fun a => a.returned)) then s.batchOver b o else s).rtAdvance g).deliver := by
  show execRtRunComplete g epoch s = _
  simp only [execRtRunComplete, hb, ho, ha, hs]
  cases b.selectOnly || (b.marked && b.sel.all (fun a => a.returned)) <;> rfl

theorem execRtRunComplete_selectOnly (hsel : b.selectOnly = true) :
    exec (.rtRunComplete g epoch) s = .next ((s.engServed o b.flags).rtAdvance g).deliver := by
  rw [execRtRunComplete_of_live hb ho ha hs, if_pos (by simp [hsel]), State.batchOver_selectOnly hb hsel]

theorem execRtRunComplete_returned (hm : b.marked = true) (hret : ∀ a ∈ b.sel, a.returned = true) :
    exec (.rtRunComplete g epoch) s = .next ((s.batchOver b o).rtAdvance g).deliver := by
  rw [execRtRunComplete_of_live hb ho ha hs, if_pos (by simpa [hm] using .inr hret)]

theorem execRtRunComplete_awaiting (hsel : b.selectOnly = false) (hw : b.marked = false ∨ ∃ a ∈ b.sel, a.returned = false) :
    exec (.rtRunComplete g epoch) s = .next (s.rtAdvance g).deliver := by
  rw [execRtRunComplete_of_live hb ho ha hs, if_neg]
  rcases hw with hm | ⟨a, hmem, hret⟩
  · simp [hsel, hm]
  · have hall : b.sel.all (fun a => a.returned) = false := List.all_eq_false.mpr ⟨a, hmem, by simp [hret]⟩
    simp [hsel, hall]

end

end

/-! ### XC_RECV_COMPLETE and XC_RETURN_COMPLETE (R334, R336, R337, R549) -/

section
variable {s u : State} {id op : Nat} {o : EngOp} {h : RxHalf}

/-- An exchange instruction that is decoded and neither aborted nor over may complete. -/
theorem State.xcReady_of_live (hi : s.engOp id = some o) (hop : opcodeOf o.word = op) (he : o.eng = .xce)
    (hd : o.decoded = true) (ha : o.aborted = false) (hs : o.status = none) : s.xcReady id op = some o := by
  simp [State.xcReady, hi, hop, he, hd, ha, hs]

theorem execXcRecvComplete_of_ready (hr : s.xcReady id 0x91 = some o) :
    exec (.xcRecvComplete id) s = .next ((s.xcRecv o).rtAdvance (o.core / 8)).deliver := by
  show execXcRecvComplete id s = _
  simp only [execXcRecvComplete, hr]

theorem State.xcRecv_refused (hm : s.xcMay o (s.coreChamber o.core) = false) : s.xcRecv o = s.engFailed o 0x39 3 := by
  simp only [State.xcRecv, hm]
  rfl

/-- Whether a half lacks one of its round's end markers, or a row that one announces. -/
def RxHalf.lacks (h : RxHalf) (sources : Nat) : Bool :=
  h.markers.length < sources || h.markers.any (fun m => h.rowsOf m.1 m.2.1 < m.2.2)

theorem RxHalf.lacks_iff {n : Nat} :
    h.lacks n = true ↔ h.markers.length < n ∨ ∃ m ∈ h.markers, h.rowsOf m.1 m.2.1 < m.2.2 := by
  simp [RxHalf.lacks]

theorem RxHalf.lacks_eq_false_iff {n : Nat} :
    h.lacks n = false ↔ n ≤ h.markers.length ∧ ∀ m ∈ h.markers, m.2.2 ≤ h.rowsOf m.1 m.2.1 := by
  simp [RxHalf.lacks]

section
variable (hm : s.xcMay o (s.coreChamber o.core) = true)
  (hh : s.half (s.coreChamber o.core) (fieldAt o.desc 2 1) (fieldAt o.desc 4 2 % 2) = some h)
include hm hh

/-- A round that lacks an end marker, or a row that one announces, waits. -/
theorem State.xcRecv_waits (hw : h.markers.length < fieldAt o.desc 6 2 ∨ ∃ m ∈ h.markers, h.rowsOf m.1 m.2.1 < m.2.2) :
    s.xcRecv o = s := by
  simp only [State.xcRecv, hm, hh, Bool.not_true, Bool.false_eq_true, if_false]
  exact if_pos (RxHalf.lacks_iff.mpr hw)

theorem State.xcRecv_served (hn : fieldAt o.desc 6 2 ≤ h.markers.length) (hrows : ∀ m ∈ h.markers, m.2.2 ≤ h.rowsOf m.1 m.2.1)
    (hwrite : s.writeVa (reqRte (o.core / 8)) (s.coreChamber o.core) (.eng o.id) o.item.queue (fieldAt o.desc 8 8)
      ((List.range (rpLocalCount (s.rprofile (s.coreChamber o.core) (fieldAt o.desc 2 1)))).flatMap
        (fun x => leBytes 4 (h.filledOf x))) = (none, u)) :
    s.xcRecv o = ({ u with ms := u.ms.acquire o.core 2 } : State).engServed o 0 := by
  simp only [State.xcRecv, hm, hh, hwrite, Bool.not_true, Bool.false_eq_true, if_false]
  exact if_neg (Bool.eq_false_iff.mp (RxHalf.lacks_eq_false_iff.mpr ⟨hn, hrows⟩))

theorem State.xcReturn_sent
    (hsent : s.returnRows o (s.coreChamber o.core) (s.rprofile (s.coreChamber o.core) (fieldAt o.desc 2 1)) h
      ((List.range (rpLocalCount (s.rprofile (s.coreChamber o.core) (fieldAt o.desc 2 1)))).flatMap
        (fun x => (List.range (h.filledOf x)).map (fun i => (x, i)))) = (none, u)) :
    s.xcReturn o = (u.freeHalf h).engServed o 0 := by
  simp only [State.xcReturn, hm, hh, hsent]
  rfl

end

theorem State.xcReturn_refused (hm : s.xcMay o (s.coreChamber o.core) = false) : s.xcReturn o = s.engFailed o 0x39 3 := by
  simp only [State.xcReturn, hm]
  rfl

theorem execXcReturnComplete_behind (hr : s.xcReady id 0x92 = some o) (hb : s.xcBehind o = true) :
    exec (.xcReturnComplete id) s = .next s := by
  show execXcReturnComplete id s = _
  simp only [execXcReturnComplete, hr, hb, if_true]

theorem execXcReturnComplete_local (hr : s.xcReady id 0x92 = some o) (hb : s.xcBehind o = false)
    (hn : s.awaitsNoRead (.eng o.id)) (hw : ((s.asksAs (.eng o.id)).xcReturn o).ms.wanted = []) :
    exec (.xcReturnComplete id) s =
      .next ((((s.asksAs (.eng o.id)).xcReturn o).readAll (.eng o.id)).rtAdvance (o.core / 8)).deliver := by
  show execXcReturnComplete id s = _
  simp only [execXcReturnComplete, hr, hb]
  exact next_congr (congrArg (fun u : State => (u.rtAdvance (o.core / 8)).deliver)
    (State.remotely_local (run := fun s => s.xcReturn o) hn hw))

end

/-! ### BIAS_WINDOW_CLOSE (R320, R348) -/

section
variable {s : State} {n p : Nat}

/-- The loop's moves of the biases change nothing outside the routing state. -/
theorem State.moveBiases_frame (s : State) (n p : Nat) (c : List Nat) : { s.moveBiases n p c with rte := s.rte } = s := by
  refine State.foldl_keeps (fun t : State => { t with rte := s.rte }) ?_ _ s
  exact fun _ _ => rfl

theorem State.closeWindow_frame (s : State) (n p : Nat) : { s.closeWindow n p with rte := s.rte } = s := by
  simp only [State.closeWindow, State.setLoop]
  split
  · exact s.moveBiases_frame n p _
  · rfl

/-- The loop that a closed window leaves: no batch is in the new window, and the count of all batches stands. -/
theorem State.loopOf_closeWindow (s : State) (n p : Nat) :
    ((s.closeWindow n p).loopOf n p).batches = 0 ∧ ((s.closeWindow n p).loopOf n p).counted = (s.loopOf n p).counted := by
  simp [State.closeWindow, State.loopOf, State.setLoop]

/-- Every expert of the profile counts from 0 in the new window. -/
theorem State.load_closeWindow (s : State) (n p : Nat) {e : Nat} (he : e < 1024) :
    smGet (fun _ => 0) (s.closeWindow n p).rte.load (biasKey n p e) = 0 := by
  have hkey : biasKey n p e / 1024 = 32 * n + p := by
    unfold biasKey
    omega
  simp [State.closeWindow, smGet_smClear, hkey]

/-- The loop moves no bias before its 64th counted batch. -/
theorem State.bias_closeWindow (h : (s.loopOf n p).counted < 64) : (s.closeWindow n p).rte.bias = s.rte.bias := by
  simp [State.closeWindow, State.setLoop, Nat.not_le.mpr h]

theorem execBiasWindowClose_full (hn : n < 16) (hp : s.rpOk n p = true)
    (hb : rpBiasN (s.rprofile n p) ≤ (s.loopOf n p).batches) : exec (.biasWindowClose n p) s = .next (s.closeWindow n p) :=
  next_congr (if_neg (by
    rintro (h | h | h)
    · omega
    · exact Bool.false_ne_true (h.symm.trans hp)
    · omega))

theorem execBiasWindowClose_open (hb : (s.loopOf n p).batches < rpBiasN (s.rprofile n p)) :
    exec (.biasWindowClose n p) s = .next s := next_congr (if_pos (.inr (.inr hb)))

end

/-- Settles O36, by the branches of each completion and by what the close of a window leaves. -/
theorem routingCompletion : Obligations.RoutingCompletion := by
  refine fun s => ⟨fun g epoch b o hb ho ha hs => ?run, fun u b b' o hsel => State.batchOver_dispatched hsel,
    fun id o hi hop he hd ha hs => ?recv, fun id o hi hop he hd ha hs => ?ret, fun n p => ?window⟩
  case run =>
    exact ⟨execRtRunComplete_selectOnly hb ho ha hs, fun _ => execRtRunComplete_returned hb ho ha hs,
      execRtRunComplete_awaiting hb ho ha hs⟩
  case recv =>
    have hexec := execXcRecvComplete_of_ready (State.xcReady_of_live hi hop he hd ha hs)
    refine ⟨fun hm => ?_, fun h hm hh => ⟨fun hw => ?_, fun hn hrows => ?_⟩⟩
    · rw [hexec, State.xcRecv_refused hm]
    · rw [hexec, State.xcRecv_waits hm hh hw]
    · intro counts u hwrite
      rw [hexec, State.xcRecv_served hm hh hn hrows hwrite]
  case ret =>
    have hr := State.xcReady_of_live hi hop he hd ha hs
    exact ⟨execXcReturnComplete_behind hr, execXcReturnComplete_local hr, State.xcReturn_refused,
      fun h u => State.xcReturn_sent⟩
  case window =>
    obtain ⟨hbatches, hcounted⟩ := s.loopOf_closeWindow n p
    exact ⟨fun hn hp hb => ⟨_, execBiasWindowClose_full hn hp hb, hbatches, hcounted, fun _ => s.load_closeWindow n p,
      State.bias_closeWindow, s.closeWindow_frame n p⟩, execBiasWindowClose_open⟩

end Sys2Proof.Machine
end

section
/-! PROOFS. O53: answers and NAKs at the source of a request, the retry of a busy one, and the forwarding of packets. -/

namespace Sys2Proof.Machine

/-! ### What lanes and ports leave as it was (R590, R598, R599) -/

section
variable {s : State}

theorem State.keepsWork_setLane (s : State) (l : Nat) (x : Lane) : s.KeepsWork (s.setLane l x) := ⟨rfl, rfl, rfl, rfl, rfl, rfl⟩

theorem State.keepsWork_bump64 (s : State) (lo hi : Fld) (n i j : Nat) : s.KeepsWork (s.bump64 lo hi n i j) := by
  simp [State.KeepsWork]

theorem State.keepsWork_emit (s : State) (e : OutEvent) : s.KeepsWork (s.emit e) := ⟨rfl, rfl, rfl, rfl, rfl, rfl⟩

theorem State.keepsWork_sendLink (s : State) (port type : Nat) (payload : List Byte) : s.KeepsWork (s.sendLink port type payload) :=
  (s.keepsWork_bump64 ..).trans (State.keepsWork_emit ..)

theorem State.keepsWork_acceptOn (s : State) (l : Nat) (p : Packet) : s.KeepsWork (s.acceptOn l p) :=
  (s.keepsWork_setLane ..).trans <| (State.keepsWork_bump64 ..).trans <| (State.keepsWork_sendLink ..).trans <|
    State.keepsWork_sendLink ..

theorem State.keepsWork_putOn (s : State) (port : Nat) (p : Packet) : s.KeepsWork (s.putOn port p) := by
  simp only [State.putOn]
  split
  · exact ⟨rfl, rfl, rfl, rfl, rfl, rfl⟩
  · exact (s.keepsWork_setLane ..).trans <| (State.keepsWork_bump64 ..).trans <| State.keepsWork_emit ..

/-- The counters of bytes that a port keeps (R613). -/
def portByteRegs : List Reg := [LNK_RX_BYTES_LO, LNK_RX_BYTES_HI, LNK_TX_BYTES_LO, LNK_TX_BYTES_HI]

theorem State.fget_sendLink (s : State) {port i j : Nat} {f : Fld} (type : Nat) (payload : List Byte)
    (hf : ∀ r ∈ portByteRegs, regAddr r port 0 ≠ regAddr f.reg i j) : (s.sendLink port type payload).fget f i j = s.fget f i j := by
  have hbump := fun n => s.fget_bump64_ne LNK_TX_BYTES_LO_COUNT LNK_TX_BYTES_HI_COUNT f n port 0 i j
    (hf LNK_TX_BYTES_LO (by decide)) (hf LNK_TX_BYTES_HI (by decide))
  simp only [State.fget, State.rget] at hbump ⊢
  simp only [State.sendLink, State.emit_regs, hbump]

/-- An accepted packet changes no field but the port's counters of bytes. -/
theorem State.fget_acceptOn (s : State) {l i j : Nat} {f : Fld} (p : Packet)
    (hf : ∀ r ∈ portByteRegs, regAddr r (l / 4) 0 ≠ regAddr f.reg i j) : (s.acceptOn l p).fget f i j = s.fget f i j := by
  simp only [State.acceptOn]
  rw [State.fget_sendLink _ _ _ hf, State.fget_sendLink _ _ _ hf,
    State.fget_bump64_ne _ _ _ _ _ _ _ _ _ (hf LNK_RX_BYTES_LO (by decide)) (hf LNK_RX_BYTES_HI (by decide))]
  rfl

theorem State.dateline_acceptOn (s : State) (l : Nat) (p : Packet) :
    (s.acceptOn l p).fget LNK_PORT_CTRL_DATELINE (l / 4) = s.fget LNK_PORT_CTRL_DATELINE (l / 4) := by
  refine s.fget_acceptOn p ?_
  simp [portByteRegs, regAddr, LNK_RX_BYTES_LO, LNK_RX_BYTES_HI, LNK_TX_BYTES_LO, LNK_TX_BYTES_HI, LNK_PORT_CTRL_DATELINE, LNK_PORT_CTRL]

end

/-! ### RD_RESP, WR_ACK and AMO_RESP (R501, R594, R608) -/

section
variable {s : State} {l type : Nat} {p : Packet} {asks : List Nat} {act : Outstanding → State → State}

/-- The request of one of the types `asks` that an answer matches. -/
def State.matching (s : State) (p : Packet) (asks : List Nat) : Option Outstanding :=
  s.fab.outstanding.find? (fun o => o.packet.txn == p.txn && o.packet.dst == p.src && asks.contains o.packet.type)

theorem State.answerTo_stale (hc : s.currentAnswer p = false) : s.answerTo l p asks act = s.swallow p := by
  simp only [State.answerTo, hc, Bool.not_false, if_true]

theorem State.answerTo_unsolicited (hc : s.currentAnswer p = true) (hm : s.matching p asks = none) :
    s.answerTo l p asks act = s.violate (l / 4) vUnsolicited p := by
  rw [State.matching] at hm
  simp only [State.answerTo, hc, hm, Bool.not_true, Bool.false_eq_true, if_false]

theorem State.answerTo_matching {o : Outstanding} (hc : s.currentAnswer p = true) (hw : p.corrupt = false)
    (hm : s.matching p asks = some o) : s.answerTo l p asks act = act o (s.takeOut p.txn p.src).2 := by
  rw [State.matching] at hm
  simp only [State.answerTo, hc, hm, hw, Bool.not_true, Bool.false_eq_true, if_false]

/-- An answer that arrives whole is swallowed, is a violation, or ends the request that it matches. -/
theorem State.arrive_answer (h : s.takesPacket l p type) : let t := s.acceptOn l p
    let r : Result := .next (s.arrive l p type fun s => s.answerTo l p asks act)
    (t.currentAnswer p = false → r = .next (t.swallow p).deliver) ∧
    (¬t.currentAnswer p = false → t.matching p asks = none → r = .next (t.violate (l / 4) vUnsolicited p).deliver) ∧
    (∀ o, ¬t.currentAnswer p = false → t.matching p asks = some o → r = .next (act o (t.takeOut p.txn p.src).2).deliver) := by
  intro t r
  obtain ⟨-, -, -, -, -, -, -, -, hw⟩ := id h
  refine ⟨fun hc => ?_, fun hc hm => ?_, fun o hc hm => ?_⟩ <;> refine next_congr ((State.arrive_of_takesPacket h).trans ?_)
  · rw [State.answerTo_stale hc]
  · rw [State.answerTo_unsolicited (Bool.eq_true_of_not_eq_false hc) hm]
  · rw [State.answerTo_matching (Bool.eq_true_of_not_eq_false hc) hw hm]

theorem State.readDone_op {o : Outstanding} {id : Nat} (data : List Byte) (ho : o.owner = .op id) :
    s.readDone o data = s.remoteDone id data ∧ s.ownerDone o.owner data = s.remoteDone id data := by
  simp only [State.readDone, State.ownerDone, ho, and_self]

theorem State.readDone_eng {o : Outstanding} {id : Nat} (data : List Byte) (ho : o.owner = .eng id) (hw : s.wants o.owner = true) :
    s.readDone o data = (s.keepFetched o data).engAcked id := by
  rw [ho] at hw
  simp only [State.readDone, ho, hw, if_true, State.abandon]

end

/-! ### ROW_DROP and RESULT (R335, R338) -/

section
variable {s : State} {l : Nat} {p : Packet}

theorem execRowDrop_of_takesPacket (h : s.takesPacket l p ptRowDrop) :
    exec (.rowDrop l p) s = .next ((s.acceptOn l p).dropIn p.chamber p.payload).deliver := by
  obtain ⟨-, -, -, -, -, -, -, -, hw⟩ := id h
  refine next_congr ((State.arrive_of_takesPacket h).trans ?_)
  simp only [hw, Bool.false_eq_true, if_false]

theorem execResult_of_takesPacket (h : s.takesPacket l p ptResult) :
    exec (.result l p) s = .next ((s.acceptOn l p).resultIn p.chamber p.payload).deliver := by
  obtain ⟨-, -, -, -, -, -, -, -, hw⟩ := id h
  refine next_congr ((State.arrive_of_takesPacket h).trans ?_)
  simp only [hw, Bool.false_eq_true, if_false]

end

/-! ### NAK (R333, R350, R593, R594, R597) -/

section
variable {s : State} {l : Nat} {p : Packet} {o : Outstanding}

/-- A NAK of a row or marker recorded and counted by the exchange. -/
def State.nakNoted (s : State) (p : Packet) : State :=
  if p.arg / 2 ^ 16 % 256 = ptRow ∨ p.arg / 2 ^ 16 % 256 = ptRowEnd then s.countXceNak p (p.arg % 256) else s

/-- The request that a NAK names. -/
def State.naked (s : State) (p : Packet) : Option Outstanding :=
  s.fab.outstanding.find? (fun o => o.packet.txn == p.txn && o.packet.dst == p.src)

section
variable (h : s.takesPacket l p ptNak)
include h

theorem execNak_stale (hc : (s.acceptOn l p).currentAnswer p = false) :
    exec (.nak l p) s = .next ((s.acceptOn l p).swallow p).deliver := by
  refine next_congr ((State.arrive_of_takesPacket h).trans ?_)
  simp only [hc, Bool.not_false, if_true]

variable (hc : ¬(s.acceptOn l p).currentAnswer p = false)
include hc

theorem execNak_barrier (hb : p.arg / 2 ^ 16 % 256 = ptBarArrive) : exec (.nak l p) s =
    .next ((s.acceptOn l p).refuseArrivals (fun a => a.txn == some p.txn) (p.arg % 256)).deliver := by
  refine next_congr ((State.arrive_of_takesPacket h).trans ?_)
  simp only [Bool.eq_true_of_not_eq_false hc, Bool.not_true, Bool.false_eq_true, if_false, hb, if_true]

variable (hb : p.arg / 2 ^ 16 % 256 ≠ ptBarArrive)
include hb

theorem execNak_unsolicited (hn : ((s.acceptOn l p).nakNoted p).naked p = none) : exec (.nak l p) s =
    .next (if p.arg / 2 ^ 16 % 256 = ptRow ∨ p.arg / 2 ^ 16 % 256 = ptRowEnd then (s.acceptOn l p).nakNoted p
      else ((s.acceptOn l p).nakNoted p).violate (l / 4) vUnsolicited p).deliver := by
  refine next_congr ((State.arrive_of_takesPacket h).trans ?_)
  rw [State.naked, State.nakNoted] at hn
  simp only [Bool.eq_true_of_not_eq_false hc, Bool.not_true, Bool.false_eq_true, if_false, hb, hn, State.nakNoted]

variable (ho : ((s.acceptOn l p).nakNoted p).naked p = some o)
include ho

/-- A NAK of a request of this device makes it wait, has it sent again, or ends it. -/
theorem execNak_matched : exec (.nak l p) s = .next (let v := (s.acceptOn l p).nakNoted p
    if p.arg % 256 = nakRxBusy then
      (v.unsend o.owner).modOut p.txn p.src (fun x => { x with busyAt := some (v.unsend o.owner).now })
    else if p.arg % 256 = nakCheck ∧ o.resent = false then v.resendOnce o (fun x => { x with resent := true })
    else v.requestFails p.txn p.src (p.arg % 256)).deliver := by
  refine next_congr ((State.arrive_of_takesPacket h).trans ?_)
  rw [State.naked, State.nakNoted] at ho
  simp only [Bool.eq_true_of_not_eq_false hc, Bool.not_true, Bool.false_eq_true, if_false, hb, ho, State.nakNoted]

theorem execNak_busy (hcause : p.arg % 256 = nakRxBusy) : exec (.nak l p) s =
    .next ((((s.acceptOn l p).nakNoted p).unsend o.owner).modOut p.txn p.src (fun x =>
      { x with busyAt := some (((s.acceptOn l p).nakNoted p).unsend o.owner).now })).deliver :=
  (execNak_matched h hc hb ho).trans (next_congr (congrArg State.deliver (if_pos hcause)))

theorem execNak_check (hcause : p.arg % 256 = nakCheck) (hr : o.resent = false) : exec (.nak l p) s =
    .next (((s.acceptOn l p).nakNoted p).resendOnce o (fun x => { x with resent := true })).deliver := by
  have hbusy : p.arg % 256 ≠ nakRxBusy := hcause ▸ by decide
  exact (execNak_matched h hc hb ho).trans
    (next_congr (congrArg State.deliver ((if_neg hbusy).trans (if_pos ⟨hcause, hr⟩))))

theorem execNak_final (hbusy : p.arg % 256 ≠ nakRxBusy) (hcheck : p.arg % 256 ≠ nakCheck ∨ o.resent = true) : exec (.nak l p) s =
    .next (((s.acceptOn l p).nakNoted p).requestFails p.txn p.src (p.arg % 256)).deliver := by
  have hno : ¬(p.arg % 256 = nakCheck ∧ o.resent = false) := fun ⟨hcause, hr⟩ =>
    hcheck.elim (· hcause) (fun ht => Bool.false_ne_true (hr.symm.trans ht))
  exact (execNak_matched h hc hb ho).trans (next_congr (congrArg State.deliver ((if_neg hbusy).trans (if_neg hno))))

end

end

/-! ### RX_BUSY_RETRY (R333, R594) -/

section
variable {s : State} {txn dst at_ : Nat} {o : Outstanding}

/-- The request `txn` to device `dst` that awaits its answer. -/
def State.requested (s : State) (txn dst : Nat) : Option Outstanding :=
  s.fab.outstanding.find? (fun o => o.packet.txn == txn && o.packet.dst == dst)

theorem execRxBusyRetry_none (h : s.requested txn dst = none) : exec (.rxBusyRetry txn dst) s = .next s := by
  show execRxBusyRetry txn dst s = _
  rw [State.requested] at h
  simp only [execRxBusyRetry, h]

section
variable (h : s.requested txn dst = some o)
include h

theorem execRxBusyRetry_idle (hb : o.busyAt = none) : exec (.rxBusyRetry txn dst) s = .next s := by
  show execRxBusyRetry txn dst s = _
  rw [State.requested] at h
  simp only [execRxBusyRetry, h, hb]

variable (hb : o.busyAt = some at_)
include hb

theorem execRxBusyRetry_early (ht : s.now < at_ + 2000) : exec (.rxBusyRetry txn dst) s = .next s := by
  show execRxBusyRetry txn dst s = _
  rw [State.requested] at h
  simp only [execRxBusyRetry, h, hb, ht, if_true]

variable (ht : at_ + 2000 ≤ s.now)
include ht

theorem execRxBusyRetry_overdue (hd : s.overdue o = true) :
    exec (.rxBusyRetry txn dst) s = .next ((s.takeOut txn dst).2.abandon o.owner) := by
  show execRxBusyRetry txn dst s = _
  rw [State.requested] at h
  simp only [execRxBusyRetry, h, hb, Nat.not_lt.mpr ht, if_false, hd, if_true]

variable (hd : s.overdue o = false)
include hd

theorem execRxBusyRetry_local (hdst : dst = (s.countRetry o).deviceId) :
    exec (.rxBusyRetry txn dst) s = .next ((s.countRetry o).retryLocal o) := by
  show execRxBusyRetry txn dst s = _
  rw [State.requested] at h
  simp only [execRxBusyRetry, h, hb, Nat.not_lt.mpr ht, if_false, hd, Bool.false_eq_true, ← hdst, if_true]

variable (hdst : dst ≠ (s.countRetry o).deviceId)
include hdst

/-- A request that is no row is sent again. -/
theorem execRxBusyRetry_resent (hrow : ∀ g e t k, o.owner ≠ .row g e t k) : exec (.rxBusyRetry txn dst) s =
    .next ((s.countRetry o).resendOnce o (fun x => { x with busyAt := none })) := by
  show execRxBusyRetry txn dst s = _
  rw [State.requested] at h
  simp only [execRxBusyRetry, h, hb, Nat.not_lt.mpr ht, if_false, hd, Bool.false_eq_true, hdst]

/-- A row sent again is marked as sent, and the markers of its batch may follow. -/
theorem execRxBusyRetry_row {g e t k : Nat} (hrow : o.owner = .row g e t k) : exec (.rxBusyRetry txn dst) s =
    .next ((((s.countRetry o).resendOnce o (fun x => { x with busyAt := none })).markSent g e t k true).sendMarks g e) := by
  show execRxBusyRetry txn dst s = _
  rw [State.requested] at h
  simp only [execRxBusyRetry, h, hb, Nat.not_lt.mpr ht, if_false, hd, Bool.false_eq_true, hdst, hrow]

end

end

/-! ### PACKET_FORWARD (R590 to R592) -/

section
variable {s : State} {l vc : Nat} {p : Packet}

theorem execPacketForward_here (h : p.dst = s.deviceId) : exec (.packetForward l p) s = .next s :=
  next_congr (if_pos (.inr (.inr (.inl h))))

/-- The deadlock class with which a packet that has arrived on lane `l` leaves. -/
def State.nextClass (s : State) (l vc : Nat) (p : Packet) : Nat :=
  p.dclass + (if s.fget LNK_PORT_CTRL_DATELINE (l / 4) = 1 ∧ vc ≠ 2 then 1 else 0)

/-- The packet as it leaves: one hop less, in its next class. -/
def Packet.forwarded (p : Packet) (cls : Nat) : Packet := { p with hops := p.hops - 1, flags := setBitsOf p.flags 3 2 cls }

/-- A packet of virtual channel `vc` for another device arrives in order on lane `l`, and its port is not isolated. -/
def State.passesOn (s : State) (l vc : Nat) (p : Packet) : Prop :=
  l < 64 ∧ s.fab.group.isSome = true ∧ p.dst ≠ s.deviceId ∧ vcOf p.type = some vc ∧ s.laneInService l = true ∧
  p.lseq = (s.lane l).rxSeq ∧ s.fget LNK_PORT_STATUS_STATE (l / 4) ≠ 3

section
variable (h : s.passesOn l vc p)
include h

/-- Such a packet is accepted. -/
theorem State.passesOn.accepted : ¬(64 ≤ l ∨ s.fab.group.isNone = true ∨ p.dst = s.deviceId ∨ (vcOf p.type).isNone = true ∨
    s.laneInService l = false ∨ p.lseq ≠ (s.lane l).rxSeq) := by
  obtain ⟨hl, hg, hdst, hvc, hlane, hseq, -⟩ := h
  rw [Option.isSome_iff_ne_none] at hg
  simp [Nat.not_le.mpr hl, hg, hdst, hvc, hlane, hseq]

theorem State.passesOn.portState : (s.acceptOn l p).fget LNK_PORT_STATUS_STATE (l / 4) ≠ 3 := by
  obtain ⟨-, -, -, -, -, -, hport⟩ := h
  rwa [State.portState_acceptOn]

/-- The class in which the packet leaves, as the port that has accepted it reckons it. -/
theorem State.passesOn.nextClass_eq :
    p.dclass + (if (s.acceptOn l p).fget LNK_PORT_CTRL_DATELINE (l / 4) == 1 && !(vcOf p.type == some 2) then 1 else 0) =
      s.nextClass l vc p := by
  obtain ⟨-, -, -, hvc, -⟩ := h
  simp [State.nextClass, State.dateline_acceptOn, hvc]

theorem execPacketForward_noHops (hh : p.hops = 0) :
    exec (.packetForward l p) s = .next ((s.acceptOn l p).hopDrop (l / 4) p) := by
  refine next_congr ((if_neg h.accepted).trans ((if_neg h.portState).trans (if_pos hh)))

theorem execPacketForward_noClass (hh : p.hops ≠ 0) (hc : 4 ≤ s.nextClass l vc p) :
    exec (.packetForward l p) s = .next ((s.acceptOn l p).hopDrop (l / 4) p) := by
  refine next_congr ((if_neg h.accepted).trans ((if_neg h.portState).trans ((if_neg hh).trans (if_pos ?_))))
  exact h.nextClass_eq.symm ▸ hc

theorem execPacketForward_leaves {out : Nat} (hh : p.hops ≠ 0) (hc : s.nextClass l vc p < 4)
    (hport : vc = 2 ∨ (s.acceptOn l p).mayUsePort (p.chamber % 16) (l / 4) = true)
    (hout : (s.acceptOn l p).egress (p.chamber % 16) p.dst (vc == 2) = some out) :
    exec (.packetForward l p) s = .next ((s.acceptOn l p).putOn out (p.forwarded (s.nextClass l vc p))) := by
  have hcls := h.nextClass_eq
  obtain ⟨-, -, -, hvc, -⟩ := id h
  have hvc2 : (vcOf p.type == some 2) = (vc == 2) := by rw [hvc]; rfl
  have hmay : ¬(!(vc == 2) && !(s.acceptOn l p).mayUsePort (p.chamber % 16) (l / 4)) = true := by
    rcases hport with rfl | hm
    · simp
    · simp [hm]
  refine next_congr ((if_neg h.accepted).trans ((if_neg h.portState).trans ((if_neg hh).trans ?_)))
  simp only [hcls]
  simp only [hvc2, Nat.not_le.mpr hc, hmay, hout, if_false]
  rfl

end

end

/-- Settles O53, by the branches of each packet's arrival. -/
theorem fabricAnswers : Obligations.FabricAnswers := by
  refine fun s l p => ⟨State.arrive_answer, State.arrive_answer, State.arrive_answer,
    fun u o data => ⟨fun id => State.readDone_op data, fun id => State.readDone_eng data⟩, execRowDrop_of_takesPacket,
    execResult_of_takesPacket, fun h => ?nak, fun txn dst => execRxBusyRetry_none, fun txn dst o h => ?retry,
    execPacketForward_here, fun vc hl hg hdst hvc hlane hseq hport => ?forward⟩
  case nak =>
    exact ⟨execNak_stale h, execNak_barrier h, execNak_unsolicited h, fun o hc hb ho =>
      ⟨execNak_busy h hc hb ho, execNak_check h hc hb ho, execNak_final h hc hb ho⟩⟩
  case retry =>
    exact ⟨execRxBusyRetry_idle h, fun at_ hb => ⟨execRxBusyRetry_early h hb, execRxBusyRetry_overdue h hb, fun ht hd =>
      ⟨execRxBusyRetry_local h hb ht hd, execRxBusyRetry_resent h hb ht hd, fun g e t k hdst => execRxBusyRetry_row h hb ht hd hdst⟩⟩⟩
  case forward =>
    have h : s.passesOn l vc p := ⟨hl, hg, hdst, hvc, hlane, hseq, hport⟩
    exact ⟨execPacketForward_noHops h, fun hc hh => execPacketForward_noClass h hh hc, fun out hh hc hmay hout =>
      ⟨execPacketForward_leaves h hh hc hmay hout, (s.keepsWork_acceptOn l p).trans (State.keepsWork_putOn ..)⟩⟩

end Sys2Proof.Machine
end

section
/-! PROOFS. O52: how requests of other devices are judged at their target, and what an admitted write, atomic or closing write leaves
in memory. -/

namespace Sys2Proof.Machine

/-! ### The judgement of a request (R587, R588, R595, R597) -/

section
variable {s : State} {l n c : Nat} {p : Packet} {wr : Bool} {ev : CellEvent} {act : State → State}

/-- A range that may be accessed lies within its chamber, on lines that may be accessed. -/
theorem State.of_rangeNak_none (h : s.rangeNak p n wr = none) :
    s.inTarget p.chamber p.addr n = true ∧ s.badLines p.chamber p.addr n = false := by
  unfold State.rangeNak at h
  split_ifs at h with hin hpool hbad
  exact ⟨by simpa using hin, by simpa using hbad⟩

theorem State.rangeNak_outside (h : s.inTarget p.chamber p.addr n = false) : s.rangeNak p n wr = some nakOutOfRange := by
  simp [State.rangeNak, h]

section
variable (hw : p.corrupt = false)
include hw

theorem State.judge0_badAddress : s.judge0 l p n wr false ev act =
    if wr = true ∧ s.admitNak (l / 4) p = none then (s.violate (l / 4) vBadAddress p).countWrite p true
    else s.violate (l / 4) vBadAddress p := by
  simp [State.judge0, hw]

theorem State.judge0_refused (ha : s.admitNak (l / 4) p = some c) :
    s.judge0 l p n wr true ev act = s.nak (l / 4) p c 0 := by
  simp [State.judge0, hw, ha]

variable (ha : s.admitNak (l / 4) p = none)
include ha

theorem State.judge0_tableFull (hf : s.streamFull p = true) :
    s.judge0 l p n true true ev act = s.nak (l / 4) p nakRxBusy 0 := by
  simp [State.judge0, hw, ha, hf]

variable (hf : wr = false ∨ s.streamFull p = false)
include hf

theorem State.judge0_outside (hin : s.inTarget p.chamber p.addr n = false) : s.judge0 l p n wr true ev act =
    if wr then (s.nak (l / 4) p nakOutOfRange 0).countWrite p true else s.nak (l / 4) p nakOutOfRange 0 := by
  have hroom : (wr && s.streamFull p) = false := Bool.and_eq_false_iff.mpr hf
  simp [State.judge0, hw, ha, hroom, hin, State.rangeNak_outside hin]

variable (hin : s.inTarget p.chamber p.addr n = true)
include hin

theorem State.judge0_badRange (hr : (s.cellEvent (p.addr / 64 * 64) ev).rangeNak p n wr = some c) :
    s.judge0 l p n wr true ev act =
      if wr then ((s.cellEvent (p.addr / 64 * 64) ev).nak (l / 4) p c 0).countWrite p true
      else (s.cellEvent (p.addr / 64 * 64) ev).nak (l / 4) p c 0 := by
  have hroom : (wr && s.streamFull p) = false := Bool.and_eq_false_iff.mpr hf
  simp [State.judge0, hw, ha, hroom, hin, hr]

theorem State.judge0_performed (hr : (s.cellEvent (p.addr / 64 * 64) ev).rangeNak p n wr = none) :
    s.judge0 l p n wr true ev act = act (s.cellEvent (p.addr / 64 * 64) ev) := by
  have hroom : (wr && s.streamFull p) = false := Bool.and_eq_false_iff.mpr hf
  simp [State.judge0, hw, ha, hroom, hin, hr]

end

end

/-! ### RD_REQ, WR and AMO (R422, R588, R594) -/

theorem State.takesPacket.whole {s : State} {l type : Nat} {p : Packet} (h : s.takesPacket l p type) : p.corrupt = false := by
  obtain ⟨-, -, -, -, -, -, -, -, hwhole⟩ := h
  exact hwhole

section
variable {s : State} {l size aop : Nat} {p : Packet} {ev : CellEvent}

/-- The stored value of an AMO's operand, changed or compared at its home. -/
def State.amoStored (s : State) (p : Packet) (size aop : Nat) : State :=
  let old := leVal (s.bytes p.addr (2 ^ size))
  let u := s.countLine p.addr false
  if aop = 3 ∧ old ≠ fieldAt p.payload 8 (2 ^ size) then u
  else (u.writeLine p.addr (leBytes (2 ^ size)
    (amoValue aop size old (fieldAt p.payload 0 (2 ^ size)) (fieldAt p.payload 8 (2 ^ size))))).2

/-- An AMO that passes every judgement: performed, counted in its stream and answered. -/
def State.amoPerformed (s : State) (l : Nat) (p : Packet) (size aop : Nat) : State :=
  ((s.amoStored p size aop).countWrite p false).answer (l / 4) p ptAmoResp (leBytes 8 (leVal (s.bytes p.addr (2 ^ size)))) 0

/-- A WR that passes every judgement. -/
def State.wrPerformed (s : State) (l : Nat) (p : Packet) : State :=
  ((s.writeTarget (linesOf p.addr p.payload.length) p.payload).countWrite p false).answer (l / 4) p ptWrAck [] 0

theorem execWr_of_takesPacket (h : s.takesPacket l p ptWr) : exec (.wr l p ev) s =
    .next ((s.acceptOn l p).judge0 l p p.payload.length true (addressOk p.addr p.payload.length) ev
      (fun u => u.wrPerformed l p)).deliver :=
  next_congr (State.arrive_of_takesPacket h)

theorem execAmo_of_takesPacket (h : s.takesPacket l p ptAmo) (harg : p.arg = 16 * size + aop) (haop : aop < 16) :
    exec (.amo l p ev) s = .next ((s.acceptOn l p).judge0 l p (2 ^ size) true (p.addr % 2 ^ size == 0) ev
      (fun u => u.amoPerformed l p size aop)).deliver := by
  have hsize : p.arg / 16 = size := by omega
  have hop : p.arg % 16 = aop := by omega
  refine next_congr ((State.arrive_of_takesPacket h).trans ?_)
  simp only [hsize, hop]
  rfl

end

/-! ### Bytes stored while no error lies in the cells (R399 to R401) -/

/-- No error lies undetected in the cells, and the monitor has nothing to take. -/
def State.quiet (s : State) : Prop := s.ms.cells = [] ∧ s.ms.found = []

/-- `bs` lies at `a`, every other byte and every strand is as before, and the cells are quiet. -/
def State.Stores (s s' : State) (a : Nat) (bs : List Byte) : Prop :=
  s'.mem = memWrite s.mem a bs ∧ s'.strands = s.strands ∧ s'.quiet

theorem memWrite_append (m : List Host.Cell) (a : Nat) (bs cs : List Byte) :
    memWrite m a (bs ++ cs) = memWrite (memWrite m a bs) (a + bs.length) cs := by
  induction bs generalizing m a with
  | nil => rfl
  | cons b bs ih => rw [List.cons_append, memWrite, memWrite, ih, List.length_cons, Nat.add_right_comm, Nat.add_assoc]

section
variable {s t u : State} {a : Nat} {bs cs : List Byte}

theorem State.Stores.bytes_eq (h : s.Stores t a bs) : t.bytes a bs.length = bs := by
  obtain ⟨hmem, -, -⟩ := h
  exact .trans (by simp only [State.bytes, State.byte, hmem]; rfl) (s.bytes_setBytes_self a bs)

theorem State.Stores.outside (h : s.Stores t a bs) : s.KeepsMemoryOutside t a bs.length := fun b hb => by
  obtain ⟨hmem, -, -⟩ := h
  rw [← s.byte_setBytes_outside hb, State.byte, hmem]
  rfl

theorem State.Stores.strands_eq (h : s.Stores t a bs) : t.strands = s.strands := by
  obtain ⟨-, hstrands, -⟩ := h
  exact hstrands

theorem State.Stores.quiet (h : s.Stores t a bs) : t.quiet := by
  obtain ⟨-, -, hquiet⟩ := h
  exact hquiet

theorem State.Stores.keepsMemory (h : s.Stores t a []) : s.KeepsMemory t := State.keepsMemory_of_mem h.1

theorem State.quiet.deliver_eq (h : t.quiet) : t.deliver = t := by
  obtain ⟨-, hfound⟩ := h
  exact State.deliver_of_none hfound

/-- Bytes stored, and further bytes stored behind them. -/
theorem State.Stores.append (h : s.Stores t a bs) (h' : t.Stores u (a + bs.length) cs) : s.Stores u a (bs ++ cs) := by
  obtain ⟨hmem, hstrands, -⟩ := h
  obtain ⟨hmem', hstrands', hquiet⟩ := h'
  exact ⟨by rw [hmem', hmem, memWrite_append], hstrands'.trans hstrands, hquiet⟩

theorem State.Stores.keepsWork (h : s.Stores t a bs) (hk : t.KeepsWork u) : s.Stores u a bs := by
  obtain ⟨hmem, hstrands, hquiet⟩ := h
  obtain ⟨kmem, kstrands, -, -, -, kms⟩ := hk
  exact ⟨kmem.trans hmem, kstrands.trans hstrands, by rwa [State.quiet, kms]⟩

theorem State.KeepsWork.stores (hk : s.KeepsWork t) (h : t.Stores u a bs) : s.Stores u a bs := by
  obtain ⟨hmem, hstrands, hquiet⟩ := h
  obtain ⟨kmem, kstrands, -⟩ := hk
  exact ⟨by rw [hmem, kmem], hstrands.trans kstrands, hquiet⟩

theorem State.KeepsWork.quiet (hk : s.KeepsWork t) (h : s.quiet) : t.quiet := by
  obtain ⟨-, -, -, -, -, kms⟩ := hk
  rwa [State.quiet, kms]

theorem State.quiet.stores (h : s.quiet) (a : Nat) : s.Stores s a [] := ⟨rfl, rfl, h⟩

end

/-! ### A line read and written (R399 to R401, R409) -/

section
variable {s : State} {pa n : Nat} {bs : List Byte}

theorem State.keepsWork_countLine (s : State) (pa : Nat) (wr : Bool) : s.KeepsWork (s.countLine pa wr) := by
  simp only [State.countLine]
  split
  · split <;> exact s.keepsWork_bump64 ..
  · exact ⟨rfl, rfl, rfl, rfl, rfl, rfl⟩

theorem State.poisoned_countLine (s : State) (pa : Nat) (wr : Bool) (a n : Nat) :
    (s.countLine pa wr).poisoned a n = s.poisoned a n := by
  simp only [State.countLine]
  split
  · split <;> simp [State.poisoned, State.cellSpan, regionOf]
  · rfl

theorem State.meetCells_quiet (h : s.quiet) (pa n : Nat) : s.meetCells pa n .clean = (false, s) := by
  have hlatent : s.latent pa n = .clean := by simp [State.latent, h.1]
  simp only [State.meetCells, hlatent, lt_irrefl, if_false]
  split
  · rfl
  · split <;> rfl

/-- Cells that show nothing leave everything as it was. -/
theorem State.cellEvent_quiet (h : s.quiet) (pa : Nat) : s.cellEvent pa .clean = s := by
  rw [State.cellEvent, State.meetCells_quiet h, h.deliver_eq]

/-- A read among quiet cells is counted, and fails only on poison. -/
theorem State.readLine_quiet (h : s.quiet) (pa n : Nat) : (s.readLine pa n).2 = s.countLine pa false ∧
    (s.poisoned pa n = false → (s.readLine pa n).1 = .ok ((s.countLine pa false).bytes pa n)) := by
  simp only [State.readLine, State.poisoned_countLine, State.meetCells_quiet ((s.keepsWork_countLine pa false).quiet h)]
  cases s.poisoned pa n <;> simp

/-- What a write reads first leaves the work in progress as it was, and stops the write only on poison. -/
theorem State.readFirst_quiet (h : s.quiet) (l : List Nat) : s.KeepsWork (s.readFirst .clean l).2 ∧
    ((∀ a ∈ l, s.poisoned a 8 = false) → (s.readFirst .clean l).1 = none) := by
  induction l generalizing s with
  | nil => exact ⟨⟨rfl, rfl, rfl, rfl, rfl, rfl⟩, fun _ => rfl⟩
  | cons a l ih =>
    have hcount := s.keepsWork_countLine a false
    obtain ⟨hstate, hok⟩ := State.readLine_quiet h a 8
    obtain ⟨hkeeps, hnone⟩ := ih (hcount.quiet h)
    rw [State.readFirst]
    split
    next f u hread =>
      obtain rfl : u = s.countLine a false := by rw [← hstate, hread]
      refine ⟨hcount, fun hp => ?_⟩
      have := hok (hp a List.mem_cons_self)
      rw [hread] at this
      cases this
    next b u hread =>
      obtain rfl : u = s.countLine a false := by rw [← hstate, hread]
      exact ⟨hcount.trans hkeeps, fun hp => hnone fun b hb => by
        rw [State.poisoned_countLine]
        exact hp b (List.mem_cons_of_mem _ hb)⟩

/-- The parts of a state that poison set or cleared leaves as they were. -/
def State.cellWork (s : State) : List (Nat × Strand) × List (Nat × CellEvent) × List (Nat × Nat) :=
  (s.strands, s.ms.cells, s.ms.found)

theorem State.cellWork_setPoison (s : State) (a : Nat) (on : Bool) : (s.setPoison a on).cellWork = s.cellWork := by
  simp only [State.setPoison]
  split
  · rfl
  · split
    · split <;> rfl
    · rfl

theorem State.putLine_stores (h : s.quiet) (pa : Nat) (bs : List Byte) : s.Stores (s.putLine pa bs) pa bs := by
  obtain ⟨hcells, hfound⟩ := h
  have hwork : (s.putLine pa bs).cellWork = (s.strands, [], s.ms.found) := by
    obtain ⟨-, hstrands, -, -, -, hms⟩ := s.keepsWork_countLine pa true
    have hfold := fun l : List Nat => State.foldl_keeps State.cellWork (fun t a => t.cellWork_setPoison a false) l
      (s.countLine pa true)
    simp only [State.cellWork, hstrands, hms, hcells, Prod.mk.injEq] at hfold
    simp [State.putLine, State.cellWork, State.rewriteCells, State.setBytes, hfold]
  simp only [State.cellWork, Prod.mk.injEq] at hwork
  obtain ⟨hstrands, hcells', hfound'⟩ := hwork
  exact ⟨s.putLine_mem pa bs, hstrands, hcells', hfound'.trans hfound⟩

/-- A write among quiet cells whose partly covered words show no poison stores its bytes. -/
theorem State.writeLine_stores (h : s.quiet) (hp : ∀ a ∈ s.partly pa bs.length, s.poisoned a 8 = false) :
    s.Stores (s.writeLine pa bs).2 pa bs := by
  obtain ⟨hkeeps, hnone⟩ := State.readFirst_quiet h (s.partly pa bs.length)
  have hread : s.readFirst .clean (s.partly pa bs.length) = (none, (s.readFirst .clean (s.partly pa bs.length)).2) :=
    Prod.ext (hnone hp) rfl
  rw [State.writeLine, hread]
  exact hkeeps.stores (State.putLine_stores (hkeeps.quiet h) pa bs)

/-- A write of no bytes stores nothing, whether poison stops it or not. -/
theorem State.writeLine_nil_stores (h : s.quiet) (pa : Nat) : s.Stores (s.writeLine pa []).2 pa [] := by
  obtain ⟨hkeeps, -⟩ := State.readFirst_quiet h (s.partly pa 0)
  have hquiet := hkeeps.quiet h
  rw [State.writeLine, List.length_nil]
  rcases hread : s.readFirst .clean (s.partly pa 0) with ⟨_ | f, u⟩ <;> rw [hread] at hkeeps hquiet
  · exact hkeeps.stores (State.putLine_stores hquiet pa [])
  · exact hkeeps.stores (hquiet.stores pa)

/-! ### The words of a range (R381, R399, R414) -/

/-- An address of a scratchpad or a gallery store. -/
def inSramSpace (x : Nat) : Prop :=
  0x0C00_0000_0000 ≤ x ∧ x < 0x0C00_1000_0000 ∨ 0x0C10_0000_0000 ≤ x ∧ x < 0x0C10_1000_0000

theorem State.cellSpan_hbm (s : State) {x : Nat} (h : x < 0x0800_0000_0000) (n : Nat) :
    s.cellSpan x n = (x / 64 * 64, x / 64 * 64 + 64) := by
  simp only [State.cellSpan, regionOf, h, if_true]
  split_ifs <;> rfl

theorem State.cellSpan_sram (s : State) {x : Nat} (h : inSramSpace x) (n : Nat) :
    s.cellSpan x n = (x / 8 * 8, roundUp (x + n) 8) := by
  unfold inSramSpace at h
  rcases h with h | h
  · simp only [State.cellSpan, regionOf, if_neg (show ¬x < 0x0800_0000_0000 by omega), if_neg (show ¬x < 0x0880_0000_0000 by omega),
      if_pos h]
  · simp only [State.cellSpan, regionOf, if_neg (show ¬x < 0x0800_0000_0000 by omega), if_neg (show ¬x < 0x0880_0000_0000 by omega),
      if_neg (show ¬(0x0C00_0000_0000 ≤ x ∧ x < 0x0C00_1000_0000) by omega), if_pos h]

theorem regionOf_hbm {m off : Nat} (h : regionOf s pa = .hbm m off) : pa < 0x0800_0000_0000 := by
  by_contra hpa
  simp only [regionOf, if_neg hpa] at h
  split_ifs at h

theorem regionOf_scratch {c off : Nat} (h : regionOf s pa = .scratch c off) :
    (0x0C00_0000_0000 ≤ pa ∧ pa < 0x0C00_1000_0000) ∧ (pa - 0x0C00_0000_0000) % 0x20_0000 = off := by
  simp only [regionOf] at h
  split_ifs at h with _ _ _ _ hs
  exact ⟨hs, (Region.scratch.inj h).2⟩

theorem regionOf_store {g off : Nat} (h : regionOf s pa = .store g off) :
    (0x0C10_0000_0000 ≤ pa ∧ pa < 0x0C10_1000_0000) ∧ (pa - 0x0C10_0000_0000) % 0x100_0000 = off := by
  simp only [regionOf] at h
  split_ifs at h with _ _ _ _ _ hs
  exact ⟨hs, (Region.store.inj h).2⟩

theorem State.placeOf_hbm {m off : Nat} (h : regionOf s pa = .hbm m off) : s.placeOf pa ≠ none := by
  unfold State.placeOf
  split
  next => exact Option.some_ne_none _
  next => exact Option.some_ne_none _
  next hne _ => exact absurd h (hne m off)

/-- A chamber's range lies in its HBM, or within one scratchpad or store. -/
theorem State.inTarget_cases {m len : Nat} (h : s.inTarget m pa len = true) :
    pa < 0x0800_0000_0000 ∧ s.placeOf pa ≠ none ∨
      s.placeOf pa = none ∧ inSramSpace pa ∧ ∀ x, pa ≤ x → x < pa + len → inSramSpace x := by
  unfold State.inTarget at h
  split at h
  next k off hr => exact .inl ⟨regionOf_hbm hr, State.placeOf_hbm hr⟩
  next c off hr =>
    obtain ⟨hpa, hoff⟩ := regionOf_scratch hr
    simp only [Bool.and_eq_true, decide_eq_true_eq] at h
    exact .inr ⟨by simp only [State.placeOf, hr], .inl hpa, fun x hlo hhi => .inl (by omega)⟩
  next g off hr =>
    obtain ⟨hpa, hoff⟩ := regionOf_store hr
    simp only [Bool.and_eq_true, decide_eq_true_eq] at h
    exact .inr ⟨by simp only [State.placeOf, hr], .inr hpa, fun x hlo hhi => .inr (by omega)⟩
  next => cases h

/-- A range has a piece in the line of each of its bytes. -/
theorem mem_linesOf {va len x : Nat} (hlo : va ≤ x) (hhi : x < va + len) :
    ∃ k, (max va (x / 64 * 64), k) ∈ linesOf va len := by
  have hle : va / 64 ≤ x / 64 := Nat.div_le_div_right hlo
  have hk : va / 64 + (x / 64 - va / 64) = x / 64 := by omega
  have hmem : x / 64 - va / 64 ∈ List.range ((va + len - 1) / 64 - va / 64 + 1) := List.mem_range.mpr (by omega)
  rw [linesOf, if_neg (by omega)]
  exact ⟨_, List.mem_map.mpr ⟨_, hmem, by simp only [hk]; rfl⟩⟩

/-- A word within a span that shows no poison shows none. -/
theorem State.poisoned_of_within {a b k m : Nat} (h : s.poisoned b m = false) (hlo : (s.cellSpan b m).1 ≤ (s.cellSpan a k).1)
    (hhi : (s.cellSpan a k).2 ≤ (s.cellSpan b m).2) : s.poisoned a k = false := by
  simp only [State.poisoned, List.any_eq_false, Bool.and_eq_true, decide_eq_true_eq, not_and] at h ⊢
  exact fun x hx hxlo hxhi => h x hx (hlo.trans hxlo) (Nat.lt_of_lt_of_le hxhi hhi)

/-- The words that an access reads first show no poison where no line of its range does. -/
theorem State.partly_clean {m len : Nat} (hin : s.inTarget m pa len = true) (hb : s.badLines m pa len = false) (hlen : 0 < len) :
    ∀ a ∈ s.partly pa len, s.poisoned a 8 = false := by
  have hline : ∀ x, pa ≤ x → x < pa + len → s.poisoned (max pa (x / 64 * 64)) = false := fun x hlo hhi => by
    obtain ⟨k, hmem⟩ := mem_linesOf hlo hhi
    have hclean := List.any_eq_false.mp hb _ hmem
    rw [Bool.not_eq_true, Bool.or_eq_false_iff] at hclean
    exact hclean.1
  intro a ha
  rcases s.inTarget_cases hin with ⟨hpa, hplace⟩ | ⟨hplace, hpa, hrange⟩
  · obtain rfl : a = pa / 64 * 64 := by
      obtain ⟨place, hp⟩ := Option.ne_none_iff_exists'.mp hplace
      simp only [State.partly, hp, s.cellSpan_hbm hpa] at ha
      split_ifs at ha
      · exact List.mem_singleton.mp ha
      · cases ha
    refine State.poisoned_of_within (hline pa le_rfl (by omega)) ?_ ?_ <;>
      rw [s.cellSpan_hbm (by omega), s.cellSpan_hbm (by omega)] <;> dsimp only <;> omega
  · have hspace : ∀ x, pa ≤ x → x < pa + len → inSramSpace (x / 8 * 8) := fun x hlo hhi =>
      (hrange x hlo hhi).imp (by omega) (by omega)
    have hends : a = pa / 8 * 8 ∨ a = (pa + len - 1) / 8 * 8 := by
      simp only [State.partly, hplace, s.cellSpan_sram hpa, roundUp, List.mem_eraseDups, List.mem_append] at ha
      refine ha.imp (fun h => ?_) (fun h => ?_)
      · split_ifs at h
        · cases h
        · exact List.mem_singleton.mp h
      · split_ifs at h
        · cases h
        · have := List.mem_singleton.mp h
          omega
    have hclean : ∀ x, pa ≤ x → x < pa + len → s.poisoned (x / 8 * 8) 8 = false := fun x hlo hhi => by
      have hfirst : inSramSpace (max pa (x / 64 * 64)) := hrange _ (by omega) (by omega)
      refine State.poisoned_of_within (hline x hlo hhi) ?_ ?_ <;>
        rw [s.cellSpan_sram hfirst, s.cellSpan_sram (hspace x hlo hhi)] <;> simp only [roundUp] <;> omega
    rcases hends with rfl | rfl
    · exact hclean pa le_rfl (by omega)
    · exact hclean (pa + len - 1) (by omega) (by omega)

theorem State.placeOf_congr {t : State} (hreg : regionOf t pa = regionOf s pa) (hch : t.chamber = s.chamber) :
    t.placeOf pa = s.placeOf pa := by
  unfold State.placeOf
  rw [hreg, hch]

theorem State.partly_bump64 (s : State) (lo hi : Fld) (k i j pa n : Nat) :
    (s.bump64 lo hi k i j).partly pa n = s.partly pa n := by
  have hreg : regionOf (s.bump64 lo hi k i j) pa = regionOf s pa := by simp [regionOf]
  have hplace := State.placeOf_congr hreg (funext fun m => by simp)
  have hspan : (s.bump64 lo hi k i j).cellSpan pa n = s.cellSpan pa n := by rw [State.cellSpan, State.cellSpan, hreg]
  rw [State.partly, State.partly, hspan, hplace]

theorem State.partly_countLine (s : State) (pa : Nat) (wr : Bool) (a n : Nat) :
    (s.countLine pa wr).partly a n = s.partly a n := by
  simp only [State.countLine]
  split
  · split <;> exact s.partly_bump64 ..
  · rfl

end

/-! ### A range written line by line (R400) -/

section
variable {s : State} {a len k : Nat} {bs : List Byte}

theorem State.cellSpan_line (s : State) (ha : a % 64 = 0) : s.cellSpan a 64 = (a, a + 64) := by
  unfold State.cellSpan
  split <;> simp only [roundUp, Prod.mk.injEq] <;> omega

/-- A write of a whole line reads nothing first. -/
theorem State.partly_line (s : State) (ha : a % 64 = 0) : s.partly a 64 = [] := by
  simp only [State.partly, s.cellSpan_line ha]
  split
  · rfl
  · simp

theorem linesOf_within (hlen : 0 < len) (h : a / 64 = (a + len - 1) / 64) : linesOf a len = [(a, len)] := by
  have hlo : max a ((a / 64 + 0) * 64) = a := by omega
  have hhi : min (a + len) ((a / 64 + 0 + 1) * 64) - a = len := by omega
  rw [linesOf, if_neg hlen.ne', ← h, Nat.sub_self]
  simp only [Nat.zero_add, List.range_one, List.map_cons, List.map_nil, hlo, hhi]

/-- `k` whole lines from `a` on. -/
def wholeLines (a k : Nat) : List (Nat × Nat) := (List.range k).map fun i => (a + 64 * i, 64)

theorem wholeLines_succ (a k : Nat) : wholeLines a (k + 1) = (a, 64) :: wholeLines (a + 64) k := by
  have hshift : ∀ i, a + 64 * (i + 1) = a + 64 + 64 * i := fun i => by omega
  simp [wholeLines, List.range_succ_eq_map, Function.comp_def, hshift]

theorem linesOf_whole (ha : a % 64 = 0) (hk : 0 < k) : linesOf a (64 * k) = wholeLines a k := by
  have hcount : (a + 64 * k - 1) / 64 - a / 64 + 1 = k := by omega
  rw [linesOf, if_neg (by omega), hcount, wholeLines]
  refine List.map_congr_left fun i hi => ?_
  have hi := List.mem_range.mp hi
  simp only [Prod.mk.injEq]
  omega

/-- Whole lines written among quiet cells store their bytes, one line behind the other. -/
theorem State.writeTarget_wholeLines (h : s.quiet) (ha : a % 64 = 0) (hlen : bs.length = 64 * k) :
    s.Stores (s.writeTarget (wholeLines a k) bs) a bs := by
  induction k generalizing s a bs with
  | zero =>
    obtain rfl : bs = [] := List.length_eq_zero_iff.mp hlen
    exact h.stores a
  | succ k ih =>
    have htake : (bs.take 64).length = 64 := by rw [List.length_take]; omega
    have hfirst : s.Stores (s.writeLine a (bs.take 64)).2 a (bs.take 64) := State.writeLine_stores h fun x hx => by
      rw [htake, s.partly_line ha] at hx
      cases hx
    have hquiet : (s.writeLine a (bs.take 64)).2.quiet := hfirst.quiet
    rw [wholeLines_succ, State.writeTarget]
    have hrest := ih (a := a + 64) (bs := bs.drop 64) hquiet (by omega) (by rw [List.length_drop]; omega)
    have hboth := hfirst.append (u := _) (cs := bs.drop 64) (by rw [htake]; exact hrest)
    rwa [List.take_append_drop] at hboth

/-- A well-formed write whose partly covered words show no poison stores its bytes. -/
theorem State.writeTarget_stores (h : s.quiet) (hlen : 0 < bs.length) (hok : addressOk a bs.length = true)
    (hp : ∀ x ∈ s.partly a bs.length, s.poisoned x 8 = false) :
    s.Stores (s.writeTarget (linesOf a bs.length) bs) a bs := by
  unfold addressOk at hok
  split_ifs at hok with hlarge
  · simp only [Bool.and_eq_true, beq_iff_eq] at hok
    obtain ⟨ha, hwhole⟩ := hok
    have hlines : bs.length = 64 * (bs.length / 64) := by omega
    have hall := linesOf_whole (k := bs.length / 64) ha (by omega)
    rw [← hlines] at hall
    rw [hall]
    exact State.writeTarget_wholeLines h ha hlines
  · rw [linesOf_within hlen (beq_iff_eq.mp hok), State.writeTarget, List.take_length, State.writeTarget]
    exact State.writeLine_stores h hp

end

/-! ### What the fabric does beside (R594, R595) -/

section
variable {s t : State} {a : Nat} {bs : List Byte}

theorem State.keepsWork_setStream (s : State) (x : TargetStream) : s.KeepsWork (s.setStream x) :=
  ⟨rfl, rfl, rfl, rfl, rfl, rfl⟩

theorem State.keepsWork_countWrite (s : State) (p : Packet) : s.KeepsWork (s.countWrite p false) := s.keepsWork_setStream _

theorem State.keepsWork_of_send {p : Packet} {sent : Bool} (h : s.send p = (sent, t)) : s.KeepsWork t := by
  obtain rfl : (s.send p).2 = t := congrArg Prod.snd h
  unfold State.send
  split
  · exact ⟨rfl, rfl, rfl, rfl, rfl, rfl⟩
  · exact s.keepsWork_putOn ..

theorem State.keepsWork_answer (s : State) (port : Nat) (p : Packet) (type : Nat) (payload : List Byte) (arg : Nat) :
    s.KeepsWork (s.answer port p type payload arg) := by
  simp only [State.answer]
  split
  next u hsend => exact State.keepsWork_of_send hsend
  next u hsend => exact (State.keepsWork_of_send hsend).trans (u.keepsWork_putOn ..)

theorem State.Stores.closeRecord (h : s.Stores t a bs) (p : Packet) : s.Stores (t.closeRecord p) a bs := by
  simp only [State.closeRecord]
  split
  · exact h
  · exact h

end

/-! ### A write and an atomic performed among quiet cells (R399, R422, R588) -/

section
variable {s : State} {l n size aop : Nat} {p : Packet} {act : State → State}

/-- An admitted access whose first line's cells show nothing is performed as it stands. -/
theorem State.judge0_quiet (hq : s.quiet) (hw : p.corrupt = false) (ha : s.admitNak (l / 4) p = none) (hf : s.streamFull p = false)
    (hr : s.rangeNak p n true = none) : s.judge0 l p n true true .clean act = act s := by
  have hcell := State.cellEvent_quiet hq (p.addr / 64 * 64)
  rw [State.judge0_performed hw ha (.inr hf) (State.of_rangeNak_none hr).1 (by rw [hcell]; exact hr), hcell]

/-- A WR that passes the checks of its form has something to write. -/
theorem State.takesPacket.payload_pos (h : s.takesPacket l p ptWr) : 0 < p.payload.length := by
  obtain ⟨-, ht, -, -, -, -, -, hp, -⟩ := h
  unfold Packet.malformed at hp
  split_ifs at hp with _ hsized
  rw [Bool.not_eq_true, Bool.not_eq_false'] at hsized
  have hother : p.type ≠ ptRdReq := by rw [ht]; decide
  have hwrite : p.type = ptWr ∨ p.type = ptRdResp := .inl ht
  simp only [Packet.sized, if_neg hother, if_pos hwrite, Bool.and_eq_true, decide_eq_true_eq] at hsized
  omega

theorem State.wrPerformed_stores (hq : s.quiet) (hlen : 0 < p.payload.length) (hok : addressOk p.addr p.payload.length = true)
    (hr : s.rangeNak p p.payload.length true = none) : s.Stores (s.wrPerformed l p) p.addr p.payload := by
  obtain ⟨hin, hclean⟩ := State.of_rangeNak_none hr
  have hstored := State.writeTarget_stores hq hlen hok (State.partly_clean hin hclean hlen)
  exact hstored.keepsWork ((State.keepsWork_countWrite _ p).trans (State.keepsWork_answer ..))

theorem execWr_stores (hq : s.quiet) (h : s.takesPacket l p ptWr) (hok : addressOk p.addr p.payload.length = true)
    (ha : (s.acceptOn l p).admitNak (l / 4) p = none) (hf : (s.acceptOn l p).streamFull p = false)
    (hr : (s.acceptOn l p).rangeNak p p.payload.length true = none) :
    ∃ s', exec (.wr l p .clean) s = .next s' ∧ s.Stores s' p.addr p.payload := by
  have haccept := s.keepsWork_acceptOn l p
  have hquiet := haccept.quiet hq
  have hstored := State.wrPerformed_stores (l := l) hquiet h.payload_pos hok hr
  refine ⟨_, ?_, haccept.stores hstored⟩
  rw [execWr_of_takesPacket h, hok, State.judge0_quiet hquiet h.whole ha hf hr, hstored.quiet.deliver_eq]

/-- The bytes that an AMO leaves at its operand. -/
def State.amoBytes (s : State) (p : Packet) (size aop : Nat) : List Byte :=
  leBytes (2 ^ size) (amoValue aop size (leVal (s.bytes p.addr (2 ^ size))) (fieldAt p.payload 0 (2 ^ size))
    (fieldAt p.payload 8 (2 ^ size)))

/-- An AMO's compare differs: the operand stays as it is. -/
def State.amoFails (s : State) (p : Packet) (size aop : Nat) : Prop :=
  aop = 3 ∧ leVal (s.bytes p.addr (2 ^ size)) ≠ fieldAt p.payload 8 (2 ^ size)

theorem State.amoStored_of_fails (hq : s.quiet) (hc : s.amoFails p size aop) : s.Stores (s.amoStored p size aop) p.addr [] := by
  unfold State.amoFails at hc
  refine (hq.stores p.addr).keepsWork ?_
  simp only [State.amoStored, if_pos hc]
  exact s.keepsWork_countLine ..

theorem State.amoStored_stores (hq : s.quiet) (hc : ¬s.amoFails p size aop) (hr : s.rangeNak p (2 ^ size) true = none) :
    s.Stores (s.amoStored p size aop) p.addr (s.amoBytes p size aop) := by
  have hcount := s.keepsWork_countLine p.addr false
  obtain ⟨hin, hclean⟩ := State.of_rangeNak_none hr
  unfold State.amoFails at hc
  simp only [State.amoStored, if_neg hc]
  refine hcount.stores (State.writeLine_stores (hcount.quiet hq) fun x hx => ?_)
  rw [leBytes_length, State.partly_countLine] at hx
  rw [State.poisoned_countLine]
  exact State.partly_clean hin hclean (by positivity) x hx

theorem State.keepsWork_amoPerformed (s : State) (l : Nat) (p : Packet) (size aop : Nat) :
    (s.amoStored p size aop).KeepsWork (s.amoPerformed l p size aop) :=
  (State.keepsWork_countWrite _ p).trans (State.keepsWork_answer ..)

theorem execAmo_stores {bs : List Byte} (hq : s.quiet) (h : s.takesPacket l p ptAmo) (harg : p.arg = 16 * size + aop) (haop : aop < 16)
    (hok : p.addr % 2 ^ size = 0) (ha : (s.acceptOn l p).admitNak (l / 4) p = none) (hf : (s.acceptOn l p).streamFull p = false)
    (hr : (s.acceptOn l p).rangeNak p (2 ^ size) true = none)
    (hs : (s.acceptOn l p).Stores ((s.acceptOn l p).amoStored p size aop) p.addr bs) :
    ∃ s', exec (.amo l p .clean) s = .next s' ∧ s.Stores s' p.addr bs := by
  have haccept := s.keepsWork_acceptOn l p
  have hstored := hs.keepsWork (State.keepsWork_amoPerformed _ l p size aop)
  refine ⟨_, ?_, haccept.stores hstored⟩
  rw [execAmo_of_takesPacket h harg haop, beq_iff_eq.mpr hok, State.judge0_quiet (haccept.quiet hq) h.whole ha hf hr,
    hstored.quiet.deliver_eq]

end

/-! ### CLOSE_WR, and a closing write held (R595, R596) -/

section
variable {s : State} {l c : Nat} {p : Packet}

/-- A CLOSE_WR held: it waits in its stream from now on. -/
def State.closeHeld (s : State) (l : Nat) (p : Packet) : HeldClose := { packet := p, port := l / 4, at_ := s.now }

def State.holdClose (s : State) (l : Nat) (p : Packet) : State :=
  s.setStream { s.stream p with held := (s.stream p).held ++ [s.closeHeld l p] }

section
variable (h : s.takesPacket l p ptCloseWr) (hok : closeOk p.addr p.payload.length = true) (harg : p.arg ≠ 0)
  (hheld : ((s.acceptOn l p).stream p).held.length < 8)
include h hok harg hheld

theorem execCloseWr_refused (ha : (s.acceptOn l p).admitNak (l / 4) p = some c) :
    exec (.closeWr l p) s = .next ((s.acceptOn l p).nak (l / 4) p c 0).deliver := by
  refine next_congr ((State.arrive_of_takesPacket h).trans ?_)
  simp [h.whole, hok, harg, Nat.not_le.mpr hheld, ha]

variable (ha : (s.acceptOn l p).admitNak (l / 4) p = none)
include ha

theorem execCloseWr_tableFull (hf : (s.acceptOn l p).streamFull p = true) :
    exec (.closeWr l p) s = .next ((s.acceptOn l p).nak (l / 4) p nakRxBusy 0).deliver := by
  refine next_congr ((State.arrive_of_takesPacket h).trans ?_)
  simp [h.whole, hok, harg, Nat.not_le.mpr hheld, ha, hf]

variable (hf : (s.acceptOn l p).streamFull p = false)
include hf

theorem execCloseWr_badRange (hr : (s.acceptOn l p).rangeNak p p.payload.length true = some c) : exec (.closeWr l p) s =
    .next (((s.acceptOn l p).setStream (((s.acceptOn l p).stream p).closeOver (streamIx p) p.arg)).nak (l / 4) p c 0).deliver := by
  refine next_congr ((State.arrive_of_takesPacket h).trans ?_)
  simp [h.whole, hok, harg, Nat.not_le.mpr hheld, ha, hf, hr]

variable (hr : (s.acceptOn l p).rangeNak p p.payload.length true = none)
include hr

theorem execCloseWr_held (hg : ((s.acceptOn l p).stream p).refused.contains (streamIx p) = false) :
    exec (.closeWr l p) s = .next ((s.acceptOn l p).holdClose l p).deliver := by
  refine next_congr ((State.arrive_of_takesPacket h).trans ?_)
  simp only [h.whole, hok, harg, Nat.not_le.mpr hheld, ha, hf, hr, hg, State.holdClose, State.closeHeld]
  rfl

theorem execCloseWr_discarded (hg : ((s.acceptOn l p).stream p).refused.contains (streamIx p) = true) : exec (.closeWr l p) s =
    .next (((s.acceptOn l p).holdClose l p).discardClose ((s.acceptOn l p).closeHeld l p) nakCloseFailed).deliver := by
  refine next_congr ((State.arrive_of_takesPacket h).trans ?_)
  simp only [h.whole, hok, harg, Nat.not_le.mpr hheld, ha, hf, hr, hg, State.holdClose, State.closeHeld]
  rfl

end

end

section
variable {s : State} {src n req k c : Nat} {h : HeldClose}

theorem execCloseWrPerform_none (hh : s.heldClose src n req k = none) : exec (.closeWrPerform src n req k) s = .next s := by
  show execCloseWrPerform src n req k s = _
  simp only [execCloseWrPerform, hh]

theorem execCloseTimeout_none (hh : s.heldClose src n req k = none) : exec (.closeTimeout src n req k) s = .next s := by
  show execCloseTimeout src n req k s = _
  simp only [execCloseTimeout, hh]

/-- A held closing write is due: its counter equals COUNT, and the one before it is over. -/
def State.closeDue (s : State) (h : HeldClose) (k : Nat) : Prop :=
  (s.stream h.packet).counters.getD k 0 = h.packet.arg ∧ (s.stream h.packet).closed = k

/-- A closing write's stream once the closing write `k` that was held there is over. -/
def State.overStream (s : State) (h : HeldClose) (k : Nat) : TargetStream := (s.stream h.packet).closeOver k h.packet.arg

variable (hh : s.heldClose src n req k = some h)
include hh

theorem execCloseTimeout_due (ht : h.at_ + 1000 * max 1 (s.fget LNK_CLOSE_CTRL_HOLD_US) ≤ s.now) :
    exec (.closeTimeout src n req k) s = .next (s.discardClose h nakCloseTimeout) := by
  show execCloseTimeout src n req k s = _
  simp only [execCloseTimeout, hh, if_neg (Nat.not_lt.mpr ht)]

theorem execCloseTimeout_early (ht : s.now < h.at_ + 1000 * max 1 (s.fget LNK_CLOSE_CTRL_HOLD_US)) :
    exec (.closeTimeout src n req k) s = .next s := by
  show execCloseTimeout src n req k s = _
  simp only [execCloseTimeout, hh, if_pos ht]

theorem execCloseWrPerform_early (hd : ¬s.closeDue h k) : exec (.closeWrPerform src n req k) s = .next s := by
  have hnot : (s.stream h.packet).counters.getD k 0 ≠ h.packet.arg ∨ (s.stream h.packet).closed ≠ k := not_and_or.mp hd
  show execCloseWrPerform src n req k s = _
  simp only [execCloseWrPerform, hh, if_pos hnot]

variable (hd : s.closeDue h k)
include hd

theorem execCloseWrPerform_badRange (hr : s.rangeNak h.packet h.packet.payload.length true = some c) :
    exec (.closeWrPerform src n req k) s = .next ((s.setStream (s.overStream h k)).nak h.port h.packet c 0) := by
  have hnot : ¬((s.stream h.packet).counters.getD k 0 ≠ h.packet.arg ∨ (s.stream h.packet).closed ≠ k) :=
    fun hor => hor.elim (absurd hd.1) (absurd hd.2)
  show execCloseWrPerform src n req k s = _
  simp only [execCloseWrPerform, hh, if_neg hnot, hr, State.overStream]

variable (hr : s.rangeNak h.packet h.packet.payload.length true = none)
include hr

theorem execCloseWrPerform_writes : exec (.closeWrPerform src n req k) s =
    .next (((((s.writeLine h.packet.addr h.packet.payload).2.closeRecord h.packet).deliver).setStream (s.overStream h k)).answer
      h.port h.packet ptWrAck [] 0) := by
  have hnot : ¬((s.stream h.packet).counters.getD k 0 ≠ h.packet.arg ∨ (s.stream h.packet).closed ≠ k) :=
    fun hor => hor.elim (absurd hd.1) (absurd hd.2)
  show execCloseWrPerform src n req k s = _
  simp only [execCloseWrPerform, hh, if_neg hnot, hr, State.overStream]

theorem execCloseWrPerform_stores (hq : s.quiet) :
    ∃ s', exec (.closeWrPerform src n req k) s = .next s' ∧ s.Stores s' h.packet.addr h.packet.payload := by
  have hwrite : s.Stores (s.writeLine h.packet.addr h.packet.payload).2 h.packet.addr h.packet.payload := by
    obtain ⟨hin, hclean⟩ := State.of_rangeNak_none hr
    rcases Nat.eq_zero_or_pos h.packet.payload.length with hnil | hpos
    · rw [List.length_eq_zero_iff.mp hnil]
      exact State.writeLine_nil_stores hq _
    · exact State.writeLine_stores hq (State.partly_clean hin hclean hpos)
  have hrecord := hwrite.closeRecord h.packet
  refine ⟨_, execCloseWrPerform_writes hh hd hr, ?_⟩
  rw [hrecord.quiet.deliver_eq]
  exact hrecord.keepsWork ((State.keepsWork_setStream ..).trans (State.keepsWork_answer ..))

end

/-! ### ROW and ROW_END (R332, R333) -/

section
variable {s u : State} {l c : Nat} {p : Packet}

theorem execRow_refused (h : s.takesPacket l p ptRow) (ha : (s.acceptOn l p).admitNak (l / 4) p = some c) :
    exec (.row l p) s = .next ((s.acceptOn l p).nak (l / 4) p c 0).deliver := by
  refine next_congr ((State.arrive_of_takesPacket h).trans ?_)
  simp [h.whole, ha]

theorem execRowEnd_refused (h : s.takesPacket l p ptRowEnd) (ha : (s.acceptOn l p).admitNak (l / 4) p = some c) :
    exec (.rowEnd l p) s = .next ((s.acceptOn l p).nak (l / 4) p c 0).deliver := by
  refine next_congr ((State.arrive_of_takesPacket h).trans ?_)
  simp [h.whole, ha]

variable (ha : (s.acceptOn l p).admitNak (l / 4) p = none)
include ha

section
variable (h : s.takesPacket l p ptRow)
include h

theorem execRow_lands (hl : (s.acceptOn l p).landRow (l / 4 / 8) p.chamber p.payload = (.ok false, u)) :
    exec (.row l p) s = .next u.deliver := by
  refine next_congr ((State.arrive_of_takesPacket h).trans ?_)
  simp [h.whole, ha, hl]

theorem execRow_dropped (hl : (s.acceptOn l p).landRow (l / 4 / 8) p.chamber p.payload = (.ok true, u)) :
    exec (.row l p) s = .next (u.answer (l / 4) p ptRowDrop (p.payload.take 64) 0).deliver := by
  refine next_congr ((State.arrive_of_takesPacket h).trans ?_)
  simp [h.whole, ha, hl]

theorem execRow_landError (hl : (s.acceptOn l p).landRow (l / 4 / 8) p.chamber p.payload = (.error c, u)) :
    exec (.row l p) s = .next (u.nak (l / 4) p c 0).deliver := by
  refine next_congr ((State.arrive_of_takesPacket h).trans ?_)
  simp [h.whole, ha, hl]

end

variable (h : s.takesPacket l p ptRowEnd)
include h

theorem execRowEnd_noted (hl : (s.acceptOn l p).landMark p.chamber p.src p.payload = (none, u)) :
    exec (.rowEnd l p) s = .next u.deliver := by
  refine next_congr ((State.arrive_of_takesPacket h).trans ?_)
  simp [h.whole, ha, hl]

theorem execRowEnd_landError (hl : (s.acceptOn l p).landMark p.chamber p.src p.payload = (some c, u)) :
    exec (.rowEnd l p) s = .next (u.nak (l / 4) p c 0).deliver := by
  refine next_congr ((State.arrive_of_takesPacket h).trans ?_)
  simp [h.whole, ha, hl]

end

/-- Settles O52: every request is judged by the branch of the judgement its conditions name, and among quiet cells the lines and
words a write covers hold its bytes when it is acknowledged. The order of the refusals and which refused writes count in a stream
are the model's choices (log 55, 56), where R588, R595 and R608 leave them open. -/
theorem fabricTargets : Obligations.FabricTargets := by
  unfold Obligations.FabricTargets
  intro s l p ev
  refine ⟨?judged, fun h => next_congr (State.arrive_of_takesPacket h), execWr_of_takesPacket,
    fun size aop h harg haop => execAmo_of_takesPacket h harg haop, ?wrClean, ?amoClean, ?closeWr,
    fun src n req k hh => ⟨execCloseWrPerform_none hh, execCloseTimeout_none hh⟩, ?held, ?row, ?rowEnd⟩
  case judged =>
    intro u n wr good act hw
    refine ⟨fun hg => ?_, fun c hg ha => ?_, fun hg ha => ?_⟩ <;> subst hg
    · exact State.judge0_badAddress hw
    · exact State.judge0_refused hw ha
    · refine ⟨fun hwr hf => ?_, fun hf => ⟨State.judge0_outside hw ha hf, fun hin =>
        ⟨fun c => State.judge0_badRange hw ha hf hin, State.judge0_performed hw ha hf hin⟩⟩⟩
      subst hwr
      exact State.judge0_tableFull hw ha hf
  case wrClean =>
    intro hcells hfound h hok ha hf hr
    obtain ⟨s', hexec, hstored⟩ := execWr_stores ⟨hcells, hfound⟩ h hok ha hf hr
    exact ⟨s', hexec, hstored.bytes_eq, hstored.outside, hstored.strands_eq⟩
  case amoClean =>
    intro aop size hcells hfound h harg haop _ hok ha hf hr
    have hquiet := (s.keepsWork_acceptOn l p).quiet ⟨hcells, hfound⟩
    have hperformed := fun bs => execAmo_stores (bs := bs) ⟨hcells, hfound⟩ h harg (by omega) hok ha hf hr
    by_cases hc : (s.acceptOn l p).amoFails p size aop
    · obtain ⟨s', hexec, hstored⟩ := hperformed _ (State.amoStored_of_fails hquiet hc)
      refine ⟨s', hexec, fun b _ => hstored.keepsMemory b, hstored.strands_eq, fun _ _ => hstored.keepsMemory, fun hor => ?_⟩
      exact absurd hc (not_and_or.mpr (hor.imp_right not_not.mpr))
    · obtain ⟨s', hexec, hstored⟩ := hperformed _ (State.amoStored_stores hquiet hc hr)
      have hlen : ((s.acceptOn l p).amoBytes p size aop).length = 2 ^ size := leBytes_length ..
      have houtside := hstored.outside
      have hbytes := hstored.bytes_eq
      rw [hlen] at houtside hbytes
      exact ⟨s', hexec, houtside, hstored.strands_eq, fun h3 hne => absurd ⟨h3, hne⟩ hc, fun _ => hbytes⟩
  case closeWr =>
    intro h hok harg hheld
    exact ⟨fun c => execCloseWr_refused h hok harg hheld, execCloseWr_tableFull h hok harg hheld, fun ha hf =>
      ⟨fun c => execCloseWr_badRange h hok harg hheld ha hf, execCloseWr_held h hok harg hheld ha hf,
        execCloseWr_discarded h hok harg hheld ha hf⟩⟩
  case held =>
    intro src n req k h hh
    refine ⟨execCloseWrPerform_early hh, fun c hd => execCloseWrPerform_badRange hh hd, execCloseWrPerform_writes hh,
      fun hd hr hcells hfound => ?_, execCloseTimeout_due hh, execCloseTimeout_early hh⟩
    obtain ⟨s', hexec, hstored⟩ := execCloseWrPerform_stores hh hd hr ⟨hcells, hfound⟩
    exact ⟨s', hexec, hstored.bytes_eq, hstored.outside, hstored.strands_eq⟩
  case row =>
    intro h
    exact ⟨fun c => execRow_refused h, fun ha => ⟨fun u => execRow_lands ha h, fun u => execRow_dropped ha h,
      fun u c => execRow_landError ha h⟩⟩
  case rowEnd =>
    intro h
    exact ⟨fun c => execRowEnd_refused h, fun ha => ⟨fun u => execRowEnd_noted ha h, fun u c => execRowEnd_landError ha h⟩⟩

end Sys2Proof.Machine
end

section
/-! PROOFS. O38: what HOME_ACCESS makes of an access, and what a store, a load and an atomic performed at their home come to. -/

namespace Sys2Proof.Machine

/-! ### What a read and a write of a line make of memory (R399 to R401) -/

section
variable {s u : State} {pa : Nat} {bs : List Byte} {ev : CellEvent}

@[simp] theorem State.errorAt_mem (s : State) (st p raw kind : Nat) : (s.errorAt st p raw kind).mem = s.mem := by
  simp only [State.errorAt, State.fset_mem]

@[simp] theorem State.noteCell_mem (s : State) (unit kind : Nat) : (s.noteCell unit kind).mem = s.mem := rfl

@[simp] theorem State.rewriteCells_mem (s : State) (lo hi : Nat) : (s.rewriteCells lo hi).mem = s.mem := rfl

/-- What a read meets in its cells changes no byte: what it corrects or poisons is kept beside memory. -/
theorem State.meetCells_mem (s : State) (pa n : Nat) (ev : CellEvent) : (s.meetCells pa n ev).2.mem = s.mem := by
  simp only [State.meetCells]
  split
  case h_1 =>
    split
    case h_2 => rw [State.bump_mem]
    case h_3 => rw [State.noteCell_mem, State.errorAt_mem, State.bump_mem]
    case h_4 => rw [State.noteCell_mem, State.rewriteCells_mem, State.setPoison_mem, State.errorAt_mem, State.bump_mem]
    case h_6 => rw [State.noteCell_mem, State.errorAt_mem]
    all_goals rfl
  case h_2 =>
    split
    · rfl
    · split <;> simp only [State.noteCell_mem, State.rewriteCells_mem]
      exact State.foldl_keeps State.mem (fun t a => t.setPoison_mem a true) _ s

theorem State.readLine_mem (s : State) (pa n : Nat) (ev : CellEvent) : (s.readLine pa n ev).2.mem = s.mem := by
  have hmeet := (s.countLine pa false).meetCells_mem pa n ev
  rw [State.countLine_mem] at hmeet
  simp only [State.readLine]
  split
  · exact s.countLine_mem pa false
  · split <;> rename_i hcells <;> rwa [hcells] at hmeet

theorem State.readFirst_mem (s : State) (ev : CellEvent) (l : List Nat) : (s.readFirst ev l).2.mem = s.mem := by
  induction l generalizing s ev with
  | nil => rfl
  | cons a l ih =>
    have hread := s.readLine_mem a 8 ev
    rw [State.readFirst]
    split <;> rename_i hline <;> rw [hline] at hread
    · exact hread
    · exact (ih _ _).trans hread

/-- A write that nothing stops has put its bytes at their address. -/
theorem State.writeLine_mem (h : s.writeLine pa bs ev = (none, u)) : u.mem = (s.setBytes pa bs).mem := by
  have hfirst := s.readFirst_mem ev (s.partly pa bs.length)
  rw [State.writeLine] at h
  split at h
  next => cases h
  next hread =>
    cases h
    rw [hread] at hfirst
    rw [State.putLine_mem, State.setBytes, State.setBytes, hfirst]

end

/-! ### HOME_ACCESS (R413, R443, R549) -/

section
variable {s : State} {id : Nat} {ev : CellEvent} {o : MemOp}
variable (hfind : s.ms.ops.find? (fun o => o.id == id) = some o)
include hfind

theorem execHomeAccess_stays (h : o.sent.isSome = true ∨ s.mayPerform o = false) : exec (.homeAccess id ev) s = .next s := by
  change execHomeAccess id ev s = _
  rw [execHomeAccess, hfind]
  exact next_congr (if_pos (by simpa using h))

variable (hsent : o.sent = none) (hmay : s.mayPerform o = true)
include hsent hmay

theorem execHomeAccess_remote {d : Nat} (hremote : o.remote = some d) :
    exec (.homeAccess id ev) s = .next (s.performRemote o d) := by
  change execHomeAccess id ev s = _
  simp only [execHomeAccess, hfind, hsent, hmay, hremote, Option.isSome_none, Bool.not_true, Bool.or_self, Bool.false_eq_true,
    if_false]

theorem execHomeAccess_local (hremote : o.remote = none) :
    exec (.homeAccess id ev) s = .next (if s.behindLc o then s else (s.performLocal o ev).deliver) := by
  change execHomeAccess id ev s = _
  simp only [execHomeAccess, hfind, hsent, hmay, hremote, Option.isSome_none, Bool.not_true, Bool.or_self, Bool.false_eq_true,
    if_false]

end

/-! ### An access performed at its home (R401, R422, R433 to R436) -/

section
variable {s u : State} {o : MemOp} {ev : CellEvent}

/-- The state in which an access that is an acquire reads: its caches emptied of what its scope covers (R434). -/
def State.acquired (s : State) (o : MemOp) : State := if o.acq then { s with ms := s.ms.acquire o.core o.scope } else s

/-- The bytes of a store laid over its core's cached copy of the line (R433). -/
def State.storeCached (s : State) (o : MemOp) : State :=
  { s with ms := { s.ms with cache := s.ms.cache.map (fun (l : CacheLine) =>
      if l.core == o.core && l.addr == o.addr / 64 * 64 then { l with bytes := overlay l.bytes o.piece.1 o.piece.2 } else l) } }

theorem State.performLocal_refused {f : MFault} (hr : s.rights o.chamber o.addr o.kind.writes true = some f) :
    s.performLocal o ev = s.failOp o f := by
  rw [State.performLocal, hr]

theorem State.performLocal_store (hk : o.kind = .store) (hr : s.rights o.chamber o.addr o.kind.writes true = none)
    (hw : s.writeLine o.addr (leBytes (2 ^ o.size) o.data) ev = (none, u)) :
    s.performLocal o ev = (((u.storeCached o).noteRelease o).dropOp o.id).sweep := by
  rw [State.performLocal, hr]
  simp only [hk, MemOp.piece, hw, State.storeCached]

theorem State.performLocal_load {b : List Byte} (hk : o.kind = .load) (hr : s.rights o.chamber o.addr o.kind.writes true = none)
    (hl : (s.acquired o).loadLine o ev = (.ok b, u)) :
    s.performLocal o ev = ((((u.compareAt o).observe o (u.ms.forwarded o)).returnValue o
      (fieldAt (overlayStores b (u.ms.forwarded o)) (o.addr % 64) (2 ^ o.size))).dropOp o.id).sweep := by
  rw [State.acquired] at hl
  rw [State.performLocal, hr]
  simp only [hk, hl]

theorem State.performLocal_amo {aop : Nat} {b : List Byte} (hk : o.kind = .amo aop)
    (hr : s.rights o.chamber o.addr o.kind.writes true = none)
    (hl : ({ s.acquired o with ms := (s.acquired o).ms.uncache o.core o.addr } : State).readLine o.addr (2 ^ o.size) ev = (.ok b, u)) :
    s.performLocal o ev = (((if aop = 3 ∧ leVal b ≠ o.cmp then u.compareAt o
      else ((u.compareAt o).putLine o.addr (leBytes (2 ^ o.size) (amoValue aop o.size (leVal b) o.data o.cmp))).noteRelease o).returnValue o
        (leVal b)).dropOp o.id).sweep := by
  rw [State.acquired] at hl
  rw [State.performLocal, hr]
  simp only [hk, hl]

end

/-- Settles O38: each clause is the branch of HOME_ACCESS, or of the access at its home, that its conditions name. -/
theorem accessPerformed : Obligations.AccessPerformed := by
  unfold Obligations.AccessPerformed
  intro s id ev o hfind s0
  have hwrites : ∀ {k b}, o.kind = k → k.writes = b → s.rights o.chamber o.addr b true = none →
      s.rights o.chamber o.addr o.kind.writes true = none := by rintro k b rfl rfl hr; exact hr
  refine ⟨execHomeAccess_stays hfind, fun hsent hmay => ⟨fun d => execHomeAccess_remote hfind hsent hmay, fun hremote hbehind => ?_,
    fun hremote hbehind => ?_⟩, fun f => State.performLocal_refused, fun u hk hr hw => ?store,
    fun b u hk hr => State.performLocal_load hk (hwrites hk rfl hr), fun aop b u hk hr hl => ?amo⟩
  · rw [execHomeAccess_local hfind hsent hmay hremote, hbehind, if_pos rfl]
  · rw [execHomeAccess_local hfind hsent hmay hremote, hbehind, if_neg Bool.false_ne_true]
  case store =>
    exact ⟨State.writeLine_mem hw, u.storeCached o, State.performLocal_store hk (hwrites hk rfl hr) hw, rfl, rfl, rfl⟩
  case amo =>
    rw [State.performLocal_amo hk (hwrites hk rfl hr) hl]
    exact ⟨fun haop hne => by rw [if_pos ⟨haop, hne⟩], fun hstores => by rw [if_neg (by tauto)]⟩

end Sys2Proof.Machine
end

section
/-! PROOFS. O40: an invalidation recorded by GO, and the end of the last one of its chamber. -/

namespace Sys2Proof.Machine

/-! ### BUSY of both instances (R393) -/

section
variable {s t : State} {n v : Nat}

/-- MMU_INV_STATUS.BUSY of chamber `n` set in both instances. -/
def State.setInvBusy (s : State) (n v : Nat) : State := (s.fset MMU_INV_STATUS_BUSY v 0 n).fset MMU_INV_STATUS_BUSY v 1 n

theorem State.fget_setInvBusy (s : State) (n : Nat) (hv : v < 2) {i : Nat} (hi : i < 2) :
    (s.setInvBusy n v).fget MMU_INV_STATUS_BUSY i n = v := by
  have hself := fun u : State => u.fget_fset_self MMU_INV_STATUS_BUSY v i n (by decide)
  rw [show v % 2 ^ (MMU_INV_STATUS_BUSY.hi + 1 - MMU_INV_STATUS_BUSY.lo) = v from Nat.mod_eq_of_lt hv] at hself
  obtain rfl | rfl : i = 0 ∨ i = 1 := by omega
  · rw [State.setInvBusy, State.fget_fset_ne _ _ _ _ _ _ _ _ (by simp [regAddr, MMU_INV_STATUS_BUSY, MMU_INV_STATUS]), hself]
  · exact hself _

theorem State.keepsRegsBut_setInvBusy (s : State) (n v : Nat) :
    s.KeepsRegsBut (s.setInvBusy n v) [regAddr MMU_INV_STATUS 0 n, regAddr MMU_INV_STATUS 1 n] := fun a ha => by
  simp only [List.mem_cons, List.not_mem_nil, or_false, not_or] at ha
  rw [State.setInvBusy, State.rget_fset_ne _ _ _ _ _ _ (Ne.symm ha.2), State.rget_fset_ne _ _ _ _ _ _ (Ne.symm ha.1)]

@[simp] theorem State.setInvBusy_ms (s : State) (n v : Nat) : (s.setInvBusy n v).ms = s.ms := by
  rw [State.setInvBusy, State.fset_ms, State.fset_ms]

@[simp] theorem State.setInvBusy_mem (s : State) (n v : Nat) : (s.setInvBusy n v).mem = s.mem := by
  rw [State.setInvBusy, State.fset_mem, State.fset_mem]

@[simp] theorem State.setInvBusy_strands (s : State) (n v : Nat) : (s.setInvBusy n v).strands = s.strands := by
  rw [State.setInvBusy, State.fset_strands, State.fset_strands]

end

/-! ### MMU_INVALIDATE and MMU_INVALIDATE_ALL (R393) -/

section
variable {s : State} {r : Requester} {n : Nat}

/-- The invalidation that a GO of chamber `n` asks for. -/
def State.asked (s : State) (n va pages : Nat) (all : Bool) : Inval :=
  { chamber := n, va := va, pages := max 1 pages, all := all, at_ := s.now }

/-- The state in which the invalidation `i` has joined those not yet complete. -/
def State.withInval (s : State) (i : Inval) : State := { s with ms := { s.ms with invals := s.ms.invals ++ [i] } }

theorem State.invalidate_eq (s : State) (n va pages : Nat) (all : Bool) :
    s.invalidate n va pages all = (s.withInval (s.asked n va pages all)).setInvBusy n 1 := by
  have hpages : (if pages = 0 then 1 else pages) = max 1 pages := by split <;> omega
  rw [State.invalidate, hpages]
  rfl

theorem execMmuInvalidate_granted (h : s.mayWriteSet r n = true) (pages : Nat) : exec (.mmuInvalidate r n pages) s =
    .next ((s.withInval (s.asked n (s.invVa n) pages false)).setInvBusy n 1) := by
  rw [← State.invalidate_eq]; exact next_congr (if_pos h)

theorem execMmuInvalidateAll_granted (h : s.mayWriteSet r n = true) : exec (.mmuInvalidateAll r n) s =
    .next ((s.withInval (s.asked n (s.invVa n) 1 true)).setInvBusy n 1) := by
  rw [← State.invalidate_eq]; exact next_congr (if_pos h)

theorem execMmuInvalidate_denied (h : s.mayWriteSet r n = false) (pages : Nat) :
    exec (.mmuInvalidate r n pages) s = .next s ∧ exec (.mmuInvalidateAll r n) s = .next s := by
  have hno : ¬s.mayWriteSet r n = true := Bool.eq_false_iff.mp h
  exact ⟨next_congr (if_neg hno), next_congr (if_neg hno)⟩

end

/-! ### MMU_INVALIDATE_DONE (R393) -/

section
variable {s : State} {n : Nat} {i : Inval}

/-- The state in which invalidation `i` of chamber `n` is complete: its galleries keep nothing that it covers. -/
def State.completed (s : State) (n : Nat) (i : Inval) : State :=
  { s with ms := { s.ms with
      tlb := s.ms.tlb.filter (fun e => !(bitOf (s.chamber n).galleries e.gallery && i.covers e)),
      upper := s.ms.upper.filter (fun e => !(bitOf (s.chamber n).galleries e.gallery && i.coversUpper e)),
      invals := s.ms.invals.erase i } }

theorem State.completed_tlb {e : TlbEntry} (he : e ∈ (s.completed n i).ms.tlb) :
    ¬(bitOf (s.chamber n).galleries e.gallery = true ∧ i.covers e = true) := by
  simpa [imp_iff_not_or] using (List.mem_filter.mp he).2

theorem State.completed_upper {e : UpperEntry} (he : e ∈ (s.completed n i).ms.upper) :
    ¬(bitOf (s.chamber n).galleries e.gallery = true ∧ i.coversUpper e = true) := by
  simpa [imp_iff_not_or] using (List.mem_filter.mp he).2

theorem execMmuInvalidateDone_none (h : ∀ i ∈ s.ms.invals, i.chamber ≠ n) : exec (.mmuInvalidateDone n) s = .next s := by
  have hfind : s.ms.invals.find? (fun i => i.chamber == n) = none := List.find?_eq_none.mpr (by simpa using h)
  change execMmuInvalidateDone n s = _
  rw [execMmuInvalidateDone, hfind]

section
variable (hinvals : s.ms.invals = [i]) (hn : i.chamber = n)
include hinvals hn

theorem execMmuInvalidateDone_waits (h : s.usesCovered n i = true) : exec (.mmuInvalidateDone n) s = .next s := by
  have hfind : s.ms.invals.find? (fun i => i.chamber == n) = some i := by simp [hinvals, hn]
  change execMmuInvalidateDone n s = _
  rw [execMmuInvalidateDone, hfind]
  exact next_congr (if_pos h)

/-- The last invalidation completes, and BUSY falls with it. -/
theorem execMmuInvalidateDone_last (h : s.usesCovered n i = false) :
    exec (.mmuInvalidateDone n) s = .next ((s.completed n i).setInvBusy n 0) := by
  have hfind : s.ms.invals.find? (fun i => i.chamber == n) = some i := by simp [hinvals, hn]
  have hnone : (s.ms.invals.erase i).any (fun j => j.chamber == n) = false := by simp [hinvals]
  change execMmuInvalidateDone n s = _
  rw [execMmuInvalidateDone, hfind]
  exact next_congr ((if_neg (Bool.eq_false_iff.mp h)).trans (if_neg (Bool.eq_false_iff.mp hnone)))

end
end

/-- Settles O40. -/
theorem mmuInvalidations : Obligations.MmuInvalidations := by
  unfold Obligations.MmuInvalidations
  intro s r n pages _
  refine ⟨fun h => ?go, fun h => ?goAll, fun h => execMmuInvalidate_denied h pages, fun i hi hn =>
    ⟨execMmuInvalidateDone_waits hi hn, fun h => ?last⟩, execMmuInvalidateDone_none⟩
  case go =>
    exact ⟨_, execMmuInvalidate_granted h pages, by rw [State.setInvBusy_ms]; rfl, State.fget_setInvBusy _ n (by decide) (by decide),
      State.fget_setInvBusy _ n (by decide) (by decide), State.keepsMemory_of_mem (State.setInvBusy_mem _ n 1),
      State.setInvBusy_strands _ n 1, State.keepsRegsBut_setInvBusy _ n 1⟩
  case goAll =>
    exact ⟨_, execMmuInvalidateAll_granted h, by rw [State.setInvBusy_ms]; rfl, State.fget_setInvBusy _ n (by decide) (by decide),
      State.fget_setInvBusy _ n (by decide) (by decide), State.keepsMemory_of_mem (State.setInvBusy_mem _ n 1)⟩
  case last =>
    refine ⟨_, execMmuInvalidateDone_last hi hn h, ?_, fun e he => ?_, fun e he => ?_,
      State.fget_setInvBusy _ n (by decide) (by decide), State.fget_setInvBusy _ n (by decide) (by decide),
      State.keepsMemory_of_mem (State.setInvBusy_mem _ n 0), State.keepsRegsBut_setInvBusy _ n 0⟩
    · rw [State.setInvBusy_ms]; simp [State.completed, hi]
    · rw [State.setInvBusy_ms] at he; exact State.completed_tlb he
    · rw [State.setInvBusy_ms] at he; exact State.completed_upper he

end Sys2Proof.Machine
end

section
/-! PROOFS. O41: a retraining step, a temperature readout and the patrol scrub of a stack. -/

namespace Sys2Proof.Machine

/-! ### Retraining (R405, R406, R409) -/

section
variable {s t : State} {st ch drift read write pause : Nat}

theorem State.keepsBelow_fset {lo : Nat} (h : s.KeepsBelow lo t) {f : Fld} {i j : Nat} (v : Nat)
    (hf : lo ≤ regAddr f.reg i j) : s.KeepsBelow lo (t.fset f v i j) :=
  h.trans ⟨rfl, fun _ ha => t.rget_fset_ne f v i j _ (by omega)⟩

/-- A field below what has changed reads as before. -/
theorem State.KeepsBelow.fget {lo : Nat} (h : s.KeepsBelow lo t) {f : Fld} {i j : Nat} (hf : regAddr f.reg i j < lo) :
    t.fget f i j = s.fget f i j := by
  rw [State.fget, State.fget, h.2 _ hf]

/-- The margin shown is HBC_MARGIN's alone. -/
theorem State.keepsBelow_showMargin (s : State) (st : Nat) : s.KeepsBelow (regAddr HBC_MARGIN st 0) (s.showMargin st) := by
  have hset : ∀ {t : State} {f : Fld} (v : Nat), f.reg = HBC_MARGIN → s.KeepsBelow (regAddr HBC_MARGIN st 0) t →
      s.KeepsBelow (regAddr HBC_MARGIN st 0) (t.fset f v st) := fun v hf h => State.keepsBelow_fset h v (by rw [hf])
  simp only [State.showMargin]
  split
  · exact .refl _ s
  · exact hset _ rfl (hset _ rfl (hset _ rfl (.refl _ s)))

/-- What a channel's step that leaves both margins large enough writes (R405). -/
def State.stepOutcome (s : State) (read write : Nat) : HbcChannel :=
  { stepAt := s.now, read := min 255 read, write := min 255 write, scrubbed := (s.draw (2 ^ 32)).1 }

/-- The step recorded and counted. -/
def State.stepCounted (s : State) (st ch read write : Nat) : State :=
  ((s.draw (2 ^ 32)).2.stepped (16 * st + ch) (s.stepOutcome read write)).bump HBC_RETRAIN_COUNT 1 st

/-- The step with its pause, and the smallest margin of the stack, in the registers. -/
def State.retrained (s : State) (st ch read write pause : Nat) : State :=
  ((s.stepCounted st ch read write).fset HBC_PAUSE_MAX_NS
    (max ((s.stepCounted st ch read write).fget HBC_PAUSE_MAX_NS st) (saturate 0x7FF pause)) st).showMargin st

theorem execHbcRetrain_passes (ha : s.stackAwake st = true) (hch : ch < 16) (hdue : s.retrainDue st ch drift = true)
    (hread : 16 ≤ read) (hwrite : 16 ≤ write) :
    exec (.hbcRetrain st ch drift read write pause) s = .next (s.retrained st ch read write pause) := by
  have hdoes : ¬(s.stackAwake st = false ∨ 16 ≤ ch ∨ s.retrainDue st ch drift = false) := by simp [ha, hdue, hch]
  have hmargins : 16 ≤ min 255 read ∧ 16 ≤ min 255 write := by omega
  exact next_congr ((if_neg hdoes).trans (if_pos hmargins))

theorem execHbcRetrain_early (h : s.retrainDue st ch drift = false) :
    exec (.hbcRetrain st ch drift read write pause) s = .next s := next_congr (if_pos (.inr (.inr h)))

theorem State.keepsBelow_retrained (s : State) (st ch read write pause : Nat) :
    (s.stepCounted st ch read write).KeepsBelow (regAddr HBC_PAUSE_MAX st 0) (s.retrained st ch read write pause) :=
  (State.keepsBelow_fset (.refl _ _) _ (by rw [HBC_PAUSE_MAX_NS])).trans
    ((State.keepsBelow_showMargin _ st).mono (by simp [regAddr, HBC_PAUSE_MAX, HBC_MARGIN]))

theorem State.fget_retrained (s : State) (st ch read write pause : Nat) :
    (s.retrained st ch read write pause).fget HBC_RETRAIN_COUNT st =
      min (2 ^ (HBC_RETRAIN_COUNT.hi + 1 - HBC_RETRAIN_COUNT.lo) - 1) (s.fget HBC_RETRAIN_COUNT st + 1) := by
  rw [(s.keepsBelow_retrained st ch read write pause).fget (by simp [regAddr, HBC_RETRAIN_COUNT, HBC_RETRAIN, HBC_PAUSE_MAX]),
    State.stepCounted, State.fget_bump_self _ _ _ _ _ (by decide)]
  rfl

theorem State.retrained_channels (s : State) (st ch read write pause : Nat) :
    (16 * st + ch, s.stepOutcome read write) ∈ (s.retrained st ch read write pause).hbc.channels := by
  rw [(s.keepsBelow_retrained st ch read write pause).1]
  change _ ∈ (s.stepCounted st ch read write).hbc.channels
  rw [State.stepCounted, State.bump_hbc]
  exact List.mem_cons_self

theorem State.stepCounted_frame (s : State) (st ch read write : Nat) :
    (s.stepCounted st ch read write).mem = s.mem ∧ (s.stepCounted st ch read write).strands = s.strands ∧
      (s.stepCounted st ch read write).health = s.health := by
  rw [State.stepCounted, State.bump_mem, State.bump_strands, State.bump_health]
  exact ⟨rfl, rfl, rfl⟩

end

/-! ### Temperature (R379, R409, R667) -/

section
variable {s : State} {st temp : Nat}

/-- The temperature of a stack in its status register, HOT above 85 °C. -/
def State.showTemp (s : State) (st temp : Nat) : State :=
  ((s.mark (120 + st)).fset HBC_STATUS_TEMP_C temp st).fset HBC_STATUS_HOT (b2n (85 < temp)) st

/-- The highest temperature that a stack shows. -/
def State.hottest (s : State) : Nat := (List.range 16).foldl (fun m k => max m (s.fget HBC_STATUS_TEMP_C k)) 0

/-- The state after a readout below 105 °C. -/
def State.tempRead (s : State) (st temp : Nat) : State :=
  (s.showTemp st temp).fset PWR_THERM_STACK_HOT_C (s.showTemp st temp).hottest

theorem execTemperatureReadout_due (hst : st < 16) (he : s.elapsed (120 + st) 100_000 = true) (ht : temp < 105) :
    exec (.temperatureReadout st temp) s = .next (s.tempRead st temp) := by
  have hdue : ¬(16 ≤ st ∨ s.elapsed (120 + st) 100_000 = false) := by simp [he, hst]
  have hsat : saturate 255 temp = temp := if_neg (by omega)
  change execTemperatureReadout st temp s = _
  rw [execTemperatureReadout, hsat, if_neg hdue]
  exact next_congr (if_neg (by omega))

theorem execTemperatureReadout_early (he : s.elapsed (120 + st) 100_000 = false) :
    exec (.temperatureReadout st temp) s = .next s := next_congr (if_pos (.inr he))

/-- HBC_STATUS lies apart from PWR_THERM. -/
theorem regAddr_therm_ne (st : Nat) : regAddr PWR_THERM 0 0 ≠ regAddr HBC_STATUS st 0 := by
  simp only [regAddr, PWR_THERM, HBC_STATUS]; omega

theorem State.fget_tempRead_temp (s : State) (st : Nat) (ht : temp < 105) :
    (s.tempRead st temp).fget HBC_STATUS_TEMP_C st = temp := by
  rw [State.tempRead, State.fget_fset_ne _ _ _ _ _ _ _ _ (regAddr_therm_ne st), State.showTemp,
    State.fget_fset_other _ _ _ _ _ _ _ _ (by decide) (by decide) (by decide), State.fget_fset_self _ _ _ _ _ (by decide)]
  exact Nat.mod_eq_of_lt (ht.trans (by decide))

theorem State.fget_tempRead_hot (s : State) (st temp : Nat) :
    (s.tempRead st temp).fget HBC_STATUS_HOT st = if 85 < temp then 1 else 0 := by
  rw [State.tempRead, State.fget_fset_ne _ _ _ _ _ _ _ _ (regAddr_therm_ne st), State.showTemp,
    State.fget_fset_self _ _ _ _ _ (by decide)]
  by_cases h : 85 < temp <;> simp [h, b2n, HBC_STATUS_HOT]

theorem State.keepsRegsBut_tempRead (s : State) (st temp : Nat) :
    s.KeepsRegsBut (s.tempRead st temp) [regAddr HBC_STATUS st 0, regAddr PWR_THERM 0 0] := fun a ha => by
  simp only [List.mem_cons, List.not_mem_nil, or_false, not_or] at ha
  obtain ⟨hstatus, htherm⟩ := ha
  rw [State.tempRead, State.rget_fset_ne _ _ _ _ _ _ (Ne.symm htherm), State.showTemp,
    State.rget_fset_ne _ _ _ _ _ _ (Ne.symm hstatus), State.rget_fset_ne _ _ _ _ _ _ (Ne.symm hstatus)]
  rfl

theorem State.tempRead_mem (s : State) (st temp : Nat) : (s.tempRead st temp).mem = s.mem := by
  rw [State.tempRead, State.fset_mem, State.showTemp, State.fset_mem, State.fset_mem]
  rfl

theorem State.tempRead_strands (s : State) (st temp : Nat) : (s.tempRead st temp).strands = s.strands := by
  rw [State.tempRead, State.fset_strands, State.showTemp, State.fset_strands, State.fset_strands]
  rfl

end

/-! ### Patrol scrub (R399) -/

section
variable {s : State} {st : Nat} {ev : CellEvent}

/-- A line whose cells show nothing wrong, read where no error lies undetected: the read is counted, and that is all. -/
theorem State.keepsWork_scrubLine_quiet (h : s.quiet) (st off : Nat) : s.KeepsWork (s.scrubLine st off .clean) := by
  have hcount := s.keepsWork_bump64 HBC_RD_LO_COUNT HBC_RD_HI_COUNT 1 st 0
  have hself : s.KeepsWork s := ⟨rfl, rfl, rfl, rfl, rfl, rfl⟩
  unfold State.scrubLine
  split
  · exact hself
  · extract_lets home zeroised pa u v
    split
    · exact hself
    · change s.KeepsWork (u.cellEvent pa .clean)
      rwa [State.cellEvent_quiet (hcount.quiet h)]

theorem execPatrolScrub_idle (h : s.stackAwake st = false ∨ s.fget HBC_SCRUB_ENABLE st = 0) :
    exec (.patrolScrub st ev) s = .next s := next_congr (if_pos (h.imp_right .inr))

/-- The state after the stack's next line is taken, and that line. -/
def State.passLine (s : State) (st : Nat) : Nat × State := (s.mark (140 + st)).nextLine st (s.granules * 2 ^ 24)

theorem execPatrolScrub_due (ha : s.stackAwake st = true) (hh : s.pwr.halted = false) (hen : s.fget HBC_SCRUB_ENABLE st = 1)
    (he : s.elapsed (140 + st) (s.scrubStep st) = true) :
    exec (.patrolScrub st ev) s = .next ((s.passLine st).2.scrubLine st (64 * (s.passLine st).1) ev) := by
  have hruns : ¬(s.stackAwake st = false ∨ s.pwr.halted = true ∨ s.fget HBC_SCRUB_ENABLE st = 0) := by simp [ha, hh, hen]
  exact next_congr ((if_neg hruns).trans (if_pos he))

end

/-- Settles O41. -/
theorem stackMaintenance : Obligations.StackMaintenance := by
  unfold Obligations.StackMaintenance
  intro s st hst
  refine ⟨fun ch drift read write pause ha hch hdue hread hwrite => ?retrain, fun ch drift read write pause => execHbcRetrain_early,
    fun ch => rfl, fun temp he ht => ?temp, fun temp => execTemperatureReadout_early, fun u off => ?line,
    fun h ev => execPatrolScrub_idle h, fun ha hh hen he => ⟨_, _, rfl, fun ev => execPatrolScrub_due ha hh hen he⟩⟩
  case retrain =>
    have hkeeps := s.keepsBelow_retrained st ch read write pause
    obtain ⟨hmem, hstrands, hhealth⟩ := s.stepCounted_frame st ch read write
    exact ⟨_, execHbcRetrain_passes ha hch hdue hread hwrite, s.fget_retrained st ch read write pause,
      ⟨_, s.retrained_channels st ch read write pause, rfl, rfl, rfl, rfl⟩,
      fun a => (hkeeps.keepsMemory a).trans (State.keepsMemory_of_mem hmem a), hkeeps.strands.trans hstrands,
      (congrArg State.health hkeeps.1).trans hhealth⟩
  case temp =>
    exact ⟨_, execTemperatureReadout_due hst he ht, s.fget_tempRead_temp st ht, s.fget_tempRead_hot st temp,
      State.keepsMemory_of_mem (s.tempRead_mem st temp), s.tempRead_strands st temp, s.keepsRegsBut_tempRead st temp⟩
  case line =>
    by_cases hcells : u.ms.cells = []
    · by_cases hfound : u.ms.found = []
      · exact .inl (State.keepsMemory_of_mem (State.keepsWork_scrubLine_quiet ⟨hcells, hfound⟩ st off).1)
      · exact .inr (.inr hfound)
    · exact .inr (.inl hcells)

end Sys2Proof.Machine
end

section
/-! PROOFS. O39: what each atomic operation computes, how a loaded value fills RD, and a value placed in a register pair. -/

namespace Sys2Proof.Machine

/-! ### The atomic operations (R422) -/

section
variable {size old v cmp : Nat}

theorem bitOf_eq_testBit (x i : Nat) : bitOf x i = x.testBit i := by
  rw [bitOf, Nat.testBit_eq_decide_div_mod_eq, Nat.shiftRight_eq_div_pow]
  rfl

theorem toSigned_amoValue_smax (size old v cmp : Nat) : toSigned (8 * 2 ^ size) (amoValue 4 size old v cmp) =
    max (toSigned (8 * 2 ^ size) old) (toSigned (8 * 2 ^ size) v) := by
  rw [max_def_lt, ← apply_ite]
  rfl

theorem toSigned_amoValue_smin (size old v cmp : Nat) : toSigned (8 * 2 ^ size) (amoValue 5 size old v cmp) =
    min (toSigned (8 * 2 ^ size) old) (toSigned (8 * 2 ^ size) v) := by
  rw [min_comm, min_def_lt, ← apply_ite]
  rfl

/-- Every operation on integers gives a value of the operands' width. -/
theorem amoValue_lt (hold : old < 2 ^ (8 * 2 ^ size)) (hv : v < 2 ^ (8 * 2 ^ size)) {aop : Nat} (haop : aop ≠ 1) :
    amoValue aop size old v cmp < 2 ^ (8 * 2 ^ size) := by
  unfold amoValue
  split
  case h_1 => exact Nat.mod_lt _ (Nat.two_pow_pos _)
  case h_2 => exact absurd rfl haop
  case h_3 => exact hv
  case h_7 => exact Nat.or_lt_two_pow hold hv
  case h_8 => exact Nat.and_lt_two_pow _ hv
  all_goals
    dsimp only
    split <;> assumption

end

/-! ### Loaded values and register pairs (R423) -/

/-- A byte or half-word with SX 1: its two's complement value, modulo 2^32. -/
theorem extend_signed {n v : Nat} (hn : n = 1 ∨ n = 2) (hv : v < 2 ^ (8 * n)) :
    (extend true n v : Int) = if 2 * v < 2 ^ (8 * n) then (v : Int) else (v : Int) - 2 ^ (8 * n) + 2 ^ 32 := by
  simp only [extend, if_true, ofSigned, toSigned, Nat.mod_eq_of_lt hv]
  rcases hn with rfl | rfl <;> split <;> omega

theorem Strand.sized_setSized (x : Strand) {r size v : Nat} (hr : r < 8) (heven : size = 3 → r % 2 = 0)
    (hv : v < 2 ^ (8 * 2 ^ size)) (hsize : size ≤ 3) : (x.setSized r size v).sized r size = v := by
  by_cases h3 : size = 3
  · subst h3
    have hr1 : r + 1 < 8 := by have := heven rfl; omega
    rw [Strand.setSized, if_pos rfl, Strand.sized, if_pos rfl, Strand.reg_setReg _ _ _ hr, if_neg (by omega),
      Strand.reg_setReg _ _ _ hr, if_pos rfl, Strand.reg_setReg _ _ _ hr1, if_pos rfl, BitVec.toNat_ofNat, BitVec.toNat_ofNat]
    omega
  · have hwidth : 2 ^ (8 * 2 ^ size) ≤ 2 ^ 32 :=
      Nat.pow_le_pow_right (by omega) (by interval_cases size <;> simp at *)
    rw [Strand.setSized, if_neg h3, Strand.sized, if_neg h3, Strand.reg_setReg _ _ _ hr, if_pos rfl, BitVec.toNat_ofNat,
      Nat.mod_eq_of_lt (hv.trans_le hwidth), Nat.mod_eq_of_lt hv]

/-- Settles O39, operation by operation. -/
theorem atomicValues : Obligations.AtomicValues := by
  unfold Obligations.AtomicValues
  refine ⟨fun size old v cmp hsize hold hv => ⟨rfl, rfl, if_pos rfl, fun hne => if_neg hne, toSigned_amoValue_smax size old v cmp,
    toSigned_amoValue_smin size old v cmp, fun i => ?or, fun i => ?and, fun aop => amoValue_lt hold hv⟩,
    fun n v hn hv => ⟨rfl, extend_signed hn hv⟩,
    fun x r size v hr heven hsize hv => x.sized_setSized hr heven hv hsize⟩
  case or =>
    simp only [bitOf_eq_testBit]
    exact Nat.testBit_or old v i
  case and =>
    simp only [bitOf_eq_testBit]
    exact Nat.testBit_and old v i

end Sys2Proof.Machine
end

section
/-! PROOFS. O37: what a memory instruction that issues comes to, and the access or the fence that it adds. -/

namespace Sys2Proof.Machine

/-! ### The access of an issuing instruction (R413, R420 to R423) -/

/-- The scalar registers that a memory instruction names: RA's pair, RD, and for an atomic RB (R420, R423). -/
def accessMask (w : Word64) (k : OpKind) : Nat :=
  pairMask (raOf w) ||| sizedMask (rdOf w) (moSize w) ||| (match k with | .amo _ => sizedMask (rbOf w) (moSize w) | _ => 0)

theorem accessMask_load (w : Word64) : accessMask w .load = pairMask (raOf w) ||| sizedMask (rdOf w) (moSize w) := Nat.or_zero _

theorem accessMask_store (w : Word64) : accessMask w .store = pairMask (raOf w) ||| sizedMask (rdOf w) (moSize w) := Nat.or_zero _

/-- The operand of an access: what a store writes, CAS's new value, and the operand of every other atomic (R422). -/
def accessData (w : Word64) (x : Strand) (k : OpKind) : Nat :=
  match k with
  | .amo 3 => x.sized (rdOf w) (moSize w)
  | _ => x.sized (match k with | .store => rdOf w | _ => rbOf w) (moSize w)

/-- The compare value of CAS (R422). -/
def accessCmp (w : Word64) (x : Strand) (k : OpKind) : Nat :=
  match k with | .amo 3 => x.sized (rbOf w) (moSize w) | _ => 0

/-- The registers that await the value which an access returns (R55, R423). -/
def accessMark (w : Word64) (k : OpKind) : Nat :=
  match k with | .store => 0 | _ => sizedMask (rdOf w) (moSize w)

/-- The access of kind `k` at target `g` that word `w` of strand `t` of core `c` makes for chamber `n`, the strand's context being
`x`. -/
def State.accessOf (s : State) (c t n : Nat) (w : Word64) (x : Strand) (k : OpKind) (g : Target) : MemOp :=
  { id := s.ms.nextId, core := c, strand := t, chamber := n, item := x.current.getD ⟨0, 0, none⟩, kind := k,
    remote := g.device, va := moAddr w x, addr := g.pa, size := moSize w, data := accessData w x k, cmp := accessCmp w x k,
    rd := rdOf w, sx := moSx w, acq := moOrd w == 1 || moOrd w == 3, rel := moOrd w == 2 || moOrd w == 3,
    scope := s.effScope n (moScope w), bypass := moBypass w,
    close := moClose w && g.device.isSome && s.inGroup n, issuedAt := s.now, sent := none, own := [] }

/-- Access `o` stands last among the unperformed ones. -/
def State.withAccess (s : State) (o : MemOp) : State :=
  { s with ms := { s.ms with ops := s.ms.ops ++ [o], nextId := s.ms.nextId + 1 } }

/-- The item of a write or an atomic to another device noted as one that has written there (R439, R444). -/
def State.noteRemote (s : State) (o : MemOp) : State :=
  if o.kind != .load && o.remote.isSome then s.modItem o.item (fun i => { i with remote := true }) else s

theorem State.noteRemote_frame (s : State) (o : MemOp) : { s.noteRemote o with items := s.items } = s := by
  unfold State.noteRemote
  split <;> rfl

/-- Access `o` joins the unperformed ones, and its strand, with context `y`, goes on at the next word. -/
def State.joined (s : State) (c t : Nat) (y : Strand) (o : MemOp) : State := ((s.withAccess o).noteRemote o).advance c t y

theorem State.joined_spec (s : State) {c t : Nat} (ht : t < 8192) (o : MemOp) (y : Strand) :
    let u := s.joined c t y o
    u.ms = (s.withAccess o).ms ∧ s.KeepsMemory u ∧ s.KeepsRegsBut u [] ∧ s.KeepsStrandsBut u c t ∧
      u.strand c t = y.issued (y.pc + 8) := by
  have hframe := (s.withAccess o).noteRemote_frame o
  intro u
  have hmem : u.mem = s.mem := (congrArg State.mem hframe :)
  have hregs : u.regs = s.regs := (congrArg State.regs hframe :)
  have hstrands : ((s.withAccess o).noteRemote o).strands = s.strands := (congrArg State.strands hframe :)
  have hkeeps : s.KeepsStrandsBut ((s.withAccess o).noteRemote o) c t := fun d n _ _ => by
    rw [State.strand, hstrands]
    rfl
  exact ⟨(congrArg State.ms hframe :), State.keepsMemory_of_mem hmem, fun a _ => by rw [State.rget, hregs]; rfl,
    hkeeps.setStrand ht _, State.strand_setStrand_self _ c t _⟩

theorem State.canIssue.strand_lt {s : State} {c t : Nat} {w : Word64} (h : s.canIssue c t w) : t < 8192 := by
  obtain ⟨-, ht, -⟩ := h
  exact ht

/-! ### Issue of a memory instruction (R420, R421, R436) -/

/-- What the translation of an issuing access comes to: the fault, the wait for one of the core's 32 lines, or the access among the
unperformed ones. -/
def State.access (s : State) (c t : Nat) (w : Word64) (k : OpKind) : Except MFault Target × State → State
  | (.error f, u) => u.deliver.failStrand c t f.code f.cause
  | (.ok g, u) =>
    if k == .store && 32 ≤ (s.pendingLines c).length && !(s.pendingLines c).contains (g.device, g.pa / 64) then s.waitsFor c t .lines
    else
      u.deliver.joined c t ((s.strand c t).mark (accessMark w k)) (u.deliver.accessOf c t (s.coreChamber c) w (s.strand c t) k g)

section
variable {s : State} {c t : Nat} {w : Word64} {k : OpKind} {mine : Word64 → Bool}
variable (h : s.canIssue c t w) (hmine : mine w = true)
include h hmine

theorem State.issueMem_malformed (hbad : moMalformed w = true) :
    s.issueMem c t mine (fun _ => k) = s.failStrand c t 0x40 0 :=
  (State.issue_of_canIssue h hmine).trans (if_pos hbad)

variable (hgood : moMalformed w = false) (hready : (s.strand c t).notReady &&& accessMask w k = 0)
include hgood hready

theorem State.issueMem_misaligned (hva : moAddr w (s.strand c t) % 2 ^ moSize w ≠ 0) :
    s.issueMem c t mine (fun _ => k) = s.failStrand c t 0x40 0 := by
  rw [State.issueMem, State.issue_of_canIssue h hmine]
  simp only [hgood, Bool.false_eq_true, if_false]
  exact (State.needing_of_ready hready).trans (if_pos (bne_iff_ne.mpr hva))

theorem State.issueMem_aligned (hva : moAddr w (s.strand c t) % 2 ^ moSize w = 0) :
    s.issueMem c t mine (fun _ => k) = s.access c t w k
      (s.translate (reqCore c) (s.coreChamber c) (moAddr w (s.strand c t)) (k != .load) false) := by
  rw [State.issueMem, State.issue_of_canIssue h hmine]
  simp only [hgood, Bool.false_eq_true, if_false]
  refine (State.needing_of_ready hready).trans ((if_neg (by simpa [moBytes] using hva)).trans ?_)
  cases k <;> rfl

end

/-! ### Fences (R431) -/

/-- The fence of a KIND that word `w` of strand `t` of core `c` adds for chamber `n`, the strand's context being `x`. -/
def State.fenceOf (s : State) (c t n : Nat) (w : Word64) (x : Strand) (kind : Nat) : MemOp :=
  { id := s.ms.nextId, core := c, strand := t, chamber := n, item := x.current.getD ⟨0, 0, none⟩, kind := .fence kind,
    remote := none, va := 0, addr := 0, size := 0, data := 0, cmp := 0, rd := 0, sx := false, acq := false, rel := false,
    scope := s.effScope n (moScope w), bypass := false, close := false, issuedAt := s.now, sent := none, own := [] }

@[simp] theorem MemSys.acquire_ops (m : MemSys) (c scope : Nat) : (m.acquire c scope).ops = m.ops := by
  unfold MemSys.acquire
  split <;> split <;> rfl

/-- A fence that stands alone and whose strand has observed no unperformed write is done at once. -/
theorem MemSys.sweep_alone {m : MemSys} {o : MemOp} {kind : Nat} (hops : m.ops = [o]) (hk : o.kind = .fence kind)
    (hobs : m.awaitsObserved o = false) : m.sweep.ops = [] := by
  have hearlier : m.earlier o = [] := by simp [MemSys.earlier, hops]
  have hdone : m.fenceDone o = true := by
    rw [MemSys.fenceDone, hk, hearlier, hobs]
    split <;> simp_all
  simp only [MemSys.sweep, hops, hk, List.filter_cons_of_pos, List.filter_nil, List.foldl_cons, List.foldl_nil, hdone, if_true]
  split <;> simp

section
variable {s : State} {c t kind : Nat} {w : Word64} (h : s.issues c t 0xA3 0 w) (hord : moOrd w = kind)
include h hord

theorem State.issueFence_malformed (hbad : moMalformed w = true) : s.issueFence c t kind = s.failStrand c t 0x40 0 :=
  (State.issue_of_canIssue h.1 (by simp [h.2.1, hord])).trans (if_pos hbad)

theorem State.issueFence_joins (hgood : moMalformed w = false) : s.issueFence c t kind =
    (s.joined c t (s.strand c t) (s.fenceOf c t (s.coreChamber c) w (s.strand c t) kind)).sweep :=
  (State.issue_of_canIssue h.1 (by simp [h.2.1, hord])).trans (if_neg (by simp [hgood]))

end

/-- Settles O37: one issue for the load, the store and the eight atomics, and one for the three fences. -/
theorem memoryIssue : Obligations.MemoryIssue := by
  unfold Obligations.MemoryIssue
  intro s c t w x n z va ra rd rb after fenceAfter
  have haccess : ∀ {mine k data cmp mark}, s.canIssue c t w → mine w = true → x.notReady &&& accessMask w k = 0 →
      accessData w x k = data → accessCmp w x k = cmp → accessMark w k = mark →
      after k data cmp mark (s.issueMem c t mine (fun _ => k)) := by
    rintro mine k _ _ _ h hmine hready rfl rfl rfl
    refine ⟨fun hbad => ?bad, fun hgood hva => ⟨fun f u htr => ?fault, fun g u htr => ?reached⟩⟩
    case bad =>
      by_cases hmal : moMalformed w = true
      · exact State.issueMem_malformed h hmine hmal
      · rw [Bool.not_eq_true] at hmal
        exact State.issueMem_misaligned h hmine hmal hready (hbad.resolve_left (by simp [hmal]))
    case fault => rw [State.issueMem_aligned h hmine hgood hready hva, htr]; rfl
    case reached =>
      intro full v
      rw [State.issueMem_aligned h hmine hgood hready hva, htr]
      have hiff : full ↔ (k == .store && 32 ≤ (s.pendingLines c).length &&
          !(s.pendingLines c).contains (g.device, g.pa / 64)) = true := by
        simp [full, and_assoc]
      refine ⟨fun hfull => if_pos (hiff.mp hfull), fun hroom _ => ?_⟩
      obtain ⟨hms, hmem, hregs, hstrands, hself⟩ := v.joined_spec h.strand_lt (v.accessOf c t n w x k g) (x.mark (accessMark w k))
      have hs' : s.access c t w k (.ok g, u) = _ := if_neg (mt hiff.mpr hroom)
      rw [hs']
      exact ⟨_, congrArg MemSys.ops hms, rfl, rfl, rfl, rfl, rfl, rfl, rfl, rfl, rfl, rfl, rfl, by simp [State.accessOf],
        by simp [State.accessOf], rfl, rfl, rfl, hmem, hregs, hstrands, hself⟩
  have hfence : ∀ {kind}, s.issues c t 0xA3 0 w → moOrd w = kind → fenceAfter kind (s.issueFence c t kind) := by
    intro kind h hord
    refine ⟨State.issueFence_malformed h hord, fun hgood => ?_⟩
    obtain ⟨hms, hmem, hregs, hstrands, hself⟩ := s.joined_spec h.1.strand_lt (s.fenceOf c t n w x kind) x
    refine ⟨_, _, State.issueFence_joins h hord hgood, congrArg MemSys.ops hms, rfl, rfl, rfl, hmem, hregs, hstrands, hself,
      fun hops hobs => MemSys.sweep_alone (o := s.fenceOf c t n w x kind) (by rw [hms]; simp [State.withAccess, hops]) rfl ?_⟩
    rw [hms, MemSys.awaitsObserved, List.any_eq_false]
    intro e he
    simpa [State.fenceOf] using fun hc ht => absurd ht (hobs e he hc)
  have hamo : ∀ {aop data cmp}, s.issues c t 0xA2 (ra ||| rd ||| rb) w → moAop w = aop → accessData w x (.amo aop) = data →
      accessCmp w x (.amo aop) = cmp → after (.amo aop) data cmp rd (s.issueMem c t (isAmo aop) (fun _ => .amo aop)) :=
    fun ⟨hissue, hop, hready⟩ haop hdata hcmp => haccess hissue (by simp [isAmo, hop, haop]) hready hdata hcmp rfl
  refine ⟨fun ⟨hissue, hop, hready⟩ => ⟨_, rfl, haccess hissue (beq_iff_eq.mpr hop) (accessMask_load w ▸ hready) rfl rfl rfl⟩,
    fun ⟨hissue, hop, hready⟩ => ⟨_, rfl, haccess hissue (beq_iff_eq.mpr hop) (accessMask_store w ▸ hready) rfl rfl rfl⟩,
    fun h haop => ⟨_, rfl, hamo h haop rfl rfl⟩, fun h haop => ⟨_, rfl, hamo h haop rfl rfl⟩,
    fun h haop => ⟨_, rfl, hamo h haop rfl rfl⟩, fun h haop => ⟨_, rfl, hamo h haop rfl rfl⟩,
    fun h haop => ⟨_, rfl, hamo h haop rfl rfl⟩, fun h haop => ⟨_, rfl, hamo h haop rfl rfl⟩,
    fun h haop => ⟨_, rfl, hamo h haop rfl rfl⟩, fun h haop => ⟨_, rfl, hamo h haop rfl rfl⟩,
    fun h hord => ⟨_, rfl, hfence h hord⟩, fun h hord => ⟨_, rfl, hfence h hord⟩, fun h hord => ⟨_, rfl, hfence h hord⟩⟩

end Sys2Proof.Machine
end

section
/-! PROOFS. O45: the requests of an established session for registers, memory, queues and attestation, and what is sent for each. -/

namespace Sys2Proof.Machine

/-! ### A frame taken, and the answer to it (R460, R465, R466) -/

section
variable {s t u : State} {p k : Nat} {w f : Frame} {x : Session}

theorem State.KeepsWork.refl (s : State) : s.KeepsWork s := ⟨rfl, rfl, rfl, rfl, rfl, rfl⟩

theorem State.keepsWork_setSession (s : State) (k : Nat) (x : Session) : s.KeepsWork (s.setSession k x) := by
  simp only [State.KeepsWork, State.setSession, State.refreshSessions, List.foldl_cons, List.foldl_nil, State.fset_mem,
    State.fset_strands, State.fset_items, State.fset_queues, State.fset_engOps, State.fset_ms, and_self]

@[simp] theorem State.setSession_out (s : State) (k : Nat) (x : Session) : (s.setSession k x).out = s.out := by
  simp only [State.setSession, State.refreshSessions, List.foldl_cons, List.foldl_nil, State.fset_out]

/-- A session's frame accepted leaves all but the sessions and the owner's time as it was. -/
theorem State.acceptFrame_spec (s : State) (f : Frame) :
    s.KeepsWork (s.acceptFrame f) ∧ (s.acceptFrame f).out = s.out ∧ (s.acceptFrame f).ctp.attest = s.ctp.attest := by
  simp only [State.acceptFrame]
  split
  next => exact ⟨.refl s, rfl, rfl⟩
  next x _ =>
    have hwork := s.keepsWork_setSession f.slot { x with rx := f.seq, lastAt := s.now }
    have hout := s.setSession_out f.slot { x with rx := f.seq, lastAt := s.now }
    have hattest : (s.setSession f.slot { x with rx := f.seq, lastAt := s.now }).ctp.attest = s.ctp.attest := by
      rw [State.setSession_ctp]
    generalize s.setSession f.slot { x with rx := f.seq, lastAt := s.now } = u at hwork hout hattest ⊢
    split <;> exact ⟨hwork, hout, hattest⟩

theorem State.keepsWork_tookFrame (s : State) (p : Nat) (f : Frame) : s.KeepsWork (s.tookFrame p f) :=
  (s.keepsWork_bump64 ..).trans (State.acceptFrame_spec _ f).1

theorem State.tookFrame_attest (s : State) (p : Nat) (f : Frame) : (s.tookFrame p f).ctp.attest = s.ctp.attest := by
  obtain ⟨-, -, hattest⟩ := State.acceptFrame_spec (s.bump64 CTP_RX_FRAMES_LO_COUNT CTP_RX_FRAMES_HI_COUNT 1 p) f
  rwa [State.bump64_ctp] at hattest

/-- In `u` the frame `f` that `s` received is taken, its session `x` is open, and nothing has been sent yet. -/
def State.Heard (s u : State) (f : Frame) (x : Session) : Prop :=
  u.session f.slot = some { x with rx := f.seq, lastAt := s.now } ∧ u.out = s.out ∧ f.seq < 2 ^ 48 ∧ x.tx + 8 < 2 ^ 48

theorem State.Heard.congr (h : s.Heard t f x) (hsessions : u.ctp.sessions = t.ctp.sessions) (hout : u.out = t.out) :
    s.Heard u f x := by
  obtain ⟨hsession, ht, hrx, htx⟩ := h
  exact ⟨by rw [← hsession, State.session, State.session, hsessions], hout.trans ht, hrx, htx⟩

theorem State.takesFrame.heard {ty : Nat} (h : s.takesFrame p w f ty x) : s.Heard (s.tookFrame p f) f x := by
  obtain ⟨-, -, -, -, hsession, -, -, hopen, -, hseq, htx, -⟩ := h
  obtain ⟨-, hslot, hfseq⟩ := State.openFrame_same hopen
  have hcounted : (s.bump64 CTP_RX_FRAMES_LO_COUNT CTP_RX_FRAMES_HI_COUNT 1 p).session f.slot = some x := by
    rw [State.session, State.bump64_ctp, hslot]
    exact hsession
  have hnow : (s.bump64 CTP_RX_FRAMES_LO_COUNT CTP_RX_FRAMES_HI_COUNT 1 p).now = s.now := State.bump64_now ..
  obtain ⟨-, hout, -⟩ := State.acceptFrame_spec (s.bump64 CTP_RX_FRAMES_LO_COUNT CTP_RX_FRAMES_HI_COUNT 1 p) f
  exact ⟨hnow ▸ State.session_acceptFrame hcounted, hout.trans (State.bump64_out ..), hfseq ▸ hseq, htx⟩

theorem State.takesFrame.fget_tookFrame {ty : Nat} (h : s.takesFrame p w f ty x) (g : Fld) (i : Nat)
    (hg : 0x2100 ≤ g.reg.base) : (s.tookFrame p f).fget g i = s.fget g i := by
  obtain ⟨-, hup, -, -, hsession, -, -, hopen, -⟩ := h
  obtain ⟨-, hslot, -⟩ := State.openFrame_same hopen
  simp only [State.ctpUp, Bool.and_eq_true, decide_eq_true_eq] at hup
  obtain ⟨⟨⟨⟨hp, -⟩, -⟩, -⟩, -⟩ := hup
  exact State.fget_tookFrame hp (hslot ▸ hsession) g i (by simp only [regAddr]; omega)

/-- The response sent in an open slot takes the next SEQ and leaves the work, and the report that is waited for, as they were. -/
theorem State.reply_spec (h : s.session k = some x) (type : Nat) (payload : List Byte) : let t := s.reply k type payload
    t.out = s.out ++ [x.says k 0 (0x80 + type) payload] ∧ t.session k = some { x with tx := x.tx + 1 } ∧
      s.KeepsWork t ∧ t.ctp.attest = s.ctp.attest := by
  have hsent : s.reply k type payload = ((s.setSession k { x with tx := x.tx + 1 }).bump64 CTP_TX_FRAMES_LO_COUNT
      CTP_TX_FRAMES_HI_COUNT 1 x.port).emit (x.says k 0 (0x80 + type) payload) := by
    simp only [State.reply, State.sendFrame, h]
    rfl
  intro t
  simp only [t, hsent]
  refine ⟨?_, ?_, ?_, ?_⟩
  · rw [State.emit, State.bump64_out, State.setSession_out]
  · rw [← s.session_setSession_self k { x with tx := x.tx + 1 }, State.session, State.session, State.emit_ctp, State.bump64_ctp]
  · exact (s.keepsWork_setSession _ _).trans ((State.keepsWork_bump64 ..).trans (State.keepsWork_emit ..))
  · rw [State.emit_ctp, State.bump64_ctp, State.setSession_ctp]

theorem State.closeSpent_open (h : s.session k = some x) (hrx : x.rx < 2 ^ 48) (htx : x.tx < 2 ^ 48) : s.closeSpent k = s := by
  simp only [State.closeSpent, h]
  exact if_neg (by omega)

/-- The answer to a frame that was taken: it takes the session's next SEQ, and the session stays open. -/
theorem State.Heard.answers (h : s.Heard u f x) (type : Nat) (payload : List Byte) :
    let v := (u.reply f.slot type payload).closeSpent f.slot
    s.Answers v f x (0x80 + type) payload ∧ u.KeepsWork v ∧ v.ctp.attest = u.ctp.attest := by
  obtain ⟨hsession, hout, hrx, htx⟩ := h
  obtain ⟨hsent, hnext, hwork, hattest⟩ := State.reply_spec hsession type payload
  intro v
  have hv : v = u.reply f.slot type payload := State.closeSpent_open hnext hrx (by simp only; omega)
  rw [hv]
  exact ⟨⟨hsent.trans (by rw [hout]; rfl), hnext⟩, hwork, hattest⟩

end

/-! ### REG_READ and REG_WRITE (R16, R19 to R21, R459, R461) -/

/-- `t` is `s` but for the free values taken. -/
def State.Drawn (s t : State) : Prop := t = { s with free := t.free }

section
variable {s t u : State}

theorem State.Drawn.refl (s : State) : s.Drawn s := rfl

theorem State.Drawn.trans (h : s.Drawn t) (h' : t.Drawn u) : s.Drawn u := by
  rw [State.Drawn] at h h' ⊢
  rw [h', h]

theorem State.drawn_stale (s : State) (ran : Bool) (bound : Nat) : s.Drawn (s.stale ran bound).2 := by
  unfold State.stale
  split <;> rfl

theorem State.drawn_headStrand (s : State) (ops : List EngOp) (ran : Bool) : s.Drawn (s.headStrand ops ran).2 := by
  unfold State.headStrand
  split
  · rfl
  · exact s.drawn_stale ran 8192

theorem State.drawn_mxeStatus (s : State) (c : Nat) : s.Drawn (s.mxeStatus c).2 :=
  (s.drawn_headStrand _ _).trans (State.drawn_stale _ _ _)

theorem State.drawn_vxeStatus (s : State) (c : Nat) : s.Drawn (s.vxeStatus c).2 :=
  (s.drawn_headStrand _ _).trans (State.drawn_stale _ _ _)

theorem State.drawn_atuStatus (s : State) (c : Nat) : s.Drawn (s.atuStatus c).2 :=
  (s.drawn_headStrand _ _).trans (State.drawn_stale _ _ _)

theorem State.drawn_sfuStatus (s : State) (c : Nat) : s.Drawn (s.sfuStatus c).2 := by
  simp only [State.sfuStatus]
  split <;> rfl

theorem State.drawn_rteStatus (s : State) (g : Nat) : s.Drawn (s.rteStatus g).2 := by
  simp only [State.rteStatus]
  split
  · rfl
  · exact s.drawn_stale _ _

theorem State.drawn_ite {c : Prop} [Decidable c] {a b : Word × State} (ha : s.Drawn a.2) (hb : s.Drawn b.2) :
    s.Drawn (if c then a else b).2 := by
  split
  · exact ha
  · exact hb

theorem State.drawn_readValue (s : State) (r : Requester) (d : Reg) (i j : Nat) : s.Drawn (s.readValue r d i j).2 := by
  have hsome : ∀ (o : Option Nat) (a : Nat), s.Drawn (match o with | some v => (BitVec.ofNat 32 v, s) | none => (s.rget a, s)).2 := by
    intro o a
    cases o <;> rfl
  simp only [State.readValue]
  refine drawn_ite (.refl s) (drawn_ite ?control (drawn_ite (hsome _ _) (drawn_ite ?gallery ?core)))
  case control =>
    exact drawn_ite (.refl s) <| drawn_ite (.refl s) <| drawn_ite (.refl s) <| drawn_ite (.refl s) <| drawn_ite (.refl s) <|
      drawn_ite (s.drawn_stale _ _) <| drawn_ite (hsome _ _) <| drawn_ite (hsome _ _) (.refl s)
  case gallery =>
    refine drawn_ite (.refl s) <| drawn_ite (.refl s) <| drawn_ite (s.drawn_rteStatus i) <| drawn_ite (.refl s) <|
      drawn_ite (hsome _ _) ?_
    split
    · exact hsome _ _
    · rfl
  case core =>
    exact drawn_ite (.refl s) <| drawn_ite (s.drawn_mxeStatus i) <| drawn_ite (s.drawn_vxeStatus i) <|
      drawn_ite (s.drawn_sfuStatus i) <| drawn_ite (s.drawn_atuStatus i) <| drawn_ite (.refl s) <| drawn_ite (.refl s) <|
      drawn_ite (.refl s) <| drawn_ite (.refl s) <| drawn_ite (.refl s) <| drawn_ite (.refl s) <| drawn_ite (.refl s) <|
      drawn_ite (.refl s) <| drawn_ite (.refl s) (.refl s)

/-- `t` is `s` but for what reads of registers take, clear and latch. -/
def State.ReadFrom (s t : State) : Prop := t = { s with regs := t.regs, free := t.free, shadows := t.shadows }

theorem State.ReadFrom.refl (s : State) : s.ReadFrom s := rfl

theorem State.ReadFrom.trans (h : s.ReadFrom t) (h' : t.ReadFrom u) : s.ReadFrom u := by
  rw [State.ReadFrom] at h h' ⊢
  rw [h', h]

theorem State.ReadFrom.frame (h : s.ReadFrom t) : t.ctp = s.ctp ∧ t.out = s.out ∧ t.mem = s.mem ∧ t.strands = s.strands :=
  ⟨(congrArg State.ctp h :), (congrArg State.out h :), (congrArg State.mem h :), (congrArg State.strands h :)⟩

theorem State.Drawn.readFrom (h : s.Drawn t) : s.ReadFrom t := by
  rw [State.Drawn] at h
  rw [State.ReadFrom, h]

theorem State.readFrom_fset (s : State) (f : Fld) (v i j : Nat) : s.ReadFrom (s.fset f v i j) := rfl

theorem State.readFrom_lower (s : State) (e : FlagSet) (k mask : Nat) : s.ReadFrom (s.lower e k mask) := by
  have hbits := s.readFrom_fset e.bits (s.fget e.bits k - (s.fget e.bits k &&& mask)) k 0
  simp only [State.lower]
  split
  · exact hbits.trans (State.readFrom_fset ..)
  · exact hbits

theorem State.readFrom_clearRc (s : State) (d : RegDesc) (a : Nat) : s.ReadFrom (s.clearRc d a) := by
  rw [State.clearRc]
  split <;> rfl

theorem State.readFrom_latch (s : State) (r : Requester) (a : Nat) : s.ReadFrom (s.latch r a) := by
  rw [State.latch]
  split <;> rfl

theorem State.readFrom_readReg (s : State) (r : Requester) (a : Nat) : s.ReadFrom (s.readReg r a).2 := by
  simp only [State.readReg]
  split
  next => rfl
  next d _ =>
    split
    · rfl
    · split
      · rfl
      · have hvalue := (s.drawn_readValue r d.reg (instAt d.reg a).1 (instAt d.reg a).2).readFrom
        generalize (s.readValue r d.reg (instAt d.reg a).1 (instAt d.reg a).2).2 = v at hvalue
        have hcleared : s.ReadFrom (match flagsRcAt a with | some (e, k) => v.lower e k 0xF | none => v.clearRc d a) := by
          split
          · exact hvalue.trans (v.readFrom_lower _ _ _)
          · exact hvalue.trans (v.readFrom_clearRc d a)
        split
        · exact hcleared.trans (State.readFrom_latch _ r a)
        · exact hcleared

end

theorem regTargets_one {f : Frame} (h : fieldAt f.payload 4 2 = 1) : regTargets f = [fieldAt f.payload 0 4] := by
  simp [regTargets, h]

/-- What a request does that no judgement up to NOT_OWNER refuses, in the command of its type. -/
theorem State.request_of_takesFrame {s : State} {p : Nat} {w f : Frame} {ty : Nat} {x : Session} {layout : Frame → Bool}
    {act : Frame → Session → State → State} (h : s.takesFrame p w f ty x) (hn : nodeTypes.contains ty = true) (hl : layout f = true) :
    (if w.type ≠ ty then s else s.sessRequest p w layout act) =
      (act f { x with rx := f.seq, lastAt := s.now } (s.tookFrame p f)).closeSpent f.slot :=
  (if_neg (not_not.mpr h.1)).trans (State.sessRequest_of_takesFrame h hn hl)

section
variable {s : State} {p : Nat} {w f : Frame} {x : Session}

theorem execHeartbeat_of_takesFrame (h : s.takesFrame p w f 0x10 x) (hempty : f.payload = []) :
    exec (.heartbeat p w) s = .next (((s.tookFrame p f).reply f.slot 0x10 (leBytes 4 0)).closeSpent f.slot) :=
  next_congr (State.request_of_takesFrame h (by decide) (by simp [hempty]))

section
variable (h : s.takesFrame p w f 0x20 x) (hlen : f.payload.length = 8) (hhead : regHeadOk f = true)
include h hlen hhead

theorem execRegRead_unmapped (hmap : regsMapped f = false) :
    exec (.regRead p w) s = .next (((s.tookFrame p f).frameViol f 8).closeSpent f.slot) := by
  refine next_congr ((State.request_of_takesFrame h (by decide) (by simp [hlen, hhead])).trans ?_)
  simp [hmap]

theorem execRegRead_one (hcount : fieldAt f.payload 4 2 = 1) (hmap : regsMapped f = true) :
    exec (.regRead p w) s = .next
      ((((s.tookFrame p f).readReg (.session f.slot) (fieldAt f.payload 0 4)).2.reply f.slot 0x20
        (leBytes 4 ((s.tookFrame p f).readReg (.session f.slot) (fieldAt f.payload 0 4)).1.toNat)).closeSpent f.slot) := by
  refine next_congr ((State.request_of_takesFrame h (by decide) (by simp [hlen, hhead])).trans ?_)
  simp only [hmap, regTargets_one hcount, List.foldl_cons, List.foldl_nil, List.nil_append, Bool.not_true, Bool.false_eq_true, if_false]

end

section
variable (h : s.takesFrame p w f 0x21 x) (hlen : f.payload.length = 12) (hhead : regHeadOk f = true)
  (hcount : fieldAt f.payload 4 2 = 1)
include h hlen hhead hcount

theorem execRegWrite_unmapped (hmap : regsMapped f = false) :
    exec (.regWrite p w) s = .next (((s.tookFrame p f).frameViol f 8).closeSpent f.slot) := by
  refine next_congr ((State.request_of_takesFrame h (by decide) (by simp [hlen, hhead, hcount])).trans ?_)
  simp [hmap]

theorem execRegWrite_one {held : Bool} {u : State} (hmap : regsMapped f = true) (hstage : inStaging (fieldAt f.payload 0 4) = false)
    (hw : (s.tookFrame p f).writeReg (.session f.slot) (fieldAt f.payload 0 4) (BitVec.ofNat 32 (fieldAt f.payload 8 4)) = (held, u)) :
    exec (.regWrite p w) s =
      .next ((if held then u.frameViol f 7 else u.reply f.slot 0x21 (leBytes 4 0)).closeSpent f.slot) := by
  refine next_congr ((State.request_of_takesFrame h (by decide) (by simp [hlen, hhead, hcount])).trans ?_)
  simp [hmap, hstage, hcount, regTargets_one hcount, hw, head]

end
end

/-! ### MEM_READ and MEM_WRITE among quiet cells (R399 to R401, R441, R458, R726) -/

/-- The parts of a state that an answer to a session depends on and adds to. -/
def State.sessionWork (s : State) : Ctp × List OutEvent := (s.ctp, s.out)

theorem State.Heard.of_sessionWork {s t u : State} {f : Frame} {x : Session} (h : s.Heard t f x)
    (hwork : u.sessionWork = t.sessionWork) : s.Heard u f x := by
  rw [State.sessionWork, State.sessionWork, Prod.mk.injEq] at hwork
  obtain ⟨hctp, hout⟩ := hwork
  exact h.congr (congrArg Ctp.sessions hctp) hout

section
variable {s t : State}

theorem State.sessionWork_fset (s : State) (f : Fld) (v i j : Nat) : (s.fset f v i j).sessionWork = s.sessionWork := rfl

theorem State.sessionWork_countLine (s : State) (pa : Nat) (wr : Bool) : (s.countLine pa wr).sessionWork = s.sessionWork := by
  simp only [State.countLine]
  split
  · split <;> simp only [State.sessionWork, State.bump64_ctp, State.bump64_out]
  · rfl

theorem State.sessionWork_setPoison (s : State) (a : Nat) (on : Bool) : (s.setPoison a on).sessionWork = s.sessionWork := by
  simp only [State.setPoison]
  split
  · rfl
  · split
    · split <;> rfl
    · rfl

theorem State.sessionWork_putLine (s : State) (pa : Nat) (bs : List Byte) : (s.putLine pa bs).sessionWork = s.sessionWork :=
  (State.foldl_keeps State.sessionWork (fun t a => t.sessionWork_setPoison a false) _ (s.countLine pa true)).trans
    (s.sessionWork_countLine pa true)

theorem State.sessionWork_readFirst (h : s.quiet) (l : List Nat) : (s.readFirst .clean l).2.sessionWork = s.sessionWork := by
  induction l generalizing s with
  | nil => rfl
  | cons a l ih =>
    have hread := (State.readLine_quiet h a 8).1
    have hcount := s.sessionWork_countLine a false
    have hquiet := (s.keepsWork_countLine a false).quiet h
    rw [← hread] at hcount hquiet
    rw [State.readFirst]
    split <;> rename_i hline <;> rw [hline] at hcount hquiet
    · exact hcount
    · exact (ih hquiet).trans hcount

/-- A write among quiet cells stores its bytes, or poison in what it covers in part stops it; the sessions are as before. -/
theorem State.writeLine_quiet (h : s.quiet) (pa : Nat) (bs : List Byte) : let r := s.writeLine pa bs
    r.2.sessionWork = s.sessionWork ∧ (r.1 = none ∧ s.Stores r.2 pa bs ∨ r.1.isSome = true ∧ s.KeepsWork r.2) := by
  obtain ⟨hkeeps, -⟩ := State.readFirst_quiet h (s.partly pa bs.length)
  have hwork := State.sessionWork_readFirst h (s.partly pa bs.length)
  simp only [State.writeLine]
  split <;> rename_i hread <;> rw [hread] at hkeeps hwork
  · exact ⟨hwork, .inr ⟨rfl, hkeeps⟩⟩
  · exact ⟨(State.sessionWork_putLine _ pa bs).trans hwork, .inl ⟨rfl, hkeeps.stores (State.putLine_stores (hkeeps.quiet h) pa bs)⟩⟩

/-- The lines of a MEM_READ are counted, and nothing else changes. -/
theorem State.memRead_quiet (h : s.quiet) (l : List (Nat × Nat)) :
    s.KeepsWork (s.memRead l []).2 ∧ (s.memRead l []).2.sessionWork = s.sessionWork := by
  induction l generalizing s with
  | nil => exact ⟨.refl s, rfl⟩
  | cons e l ih =>
    obtain ⟨pa, n⟩ := e
    simp only [State.memRead, List.headD_nil, List.drop_nil, State.cellEvent_quiet h]
    by_cases hu : s.lineUsable pa = true
    · have hkeeps := s.keepsWork_countLine pa false
      have hwork := s.sessionWork_countLine pa false
      rw [← (State.readLine_quiet h pa n).1] at hkeeps hwork
      simp only [hu, Bool.not_true, Bool.false_eq_true, if_false]
      rcases hread : s.readLine pa n with ⟨f | b, t⟩ <;> rw [hread] at hkeeps hwork <;>
        exact ⟨hkeeps.trans (ih (hkeeps.quiet h)).1, (ih (hkeeps.quiet h)).2.trans hwork⟩
    · simp only [Bool.not_eq_true] at hu
      simp only [hu, Bool.not_false, if_true]
      exact ih h

/-- The pieces of `l` lie one behind another from `a` to `b`: each is an address and a length. -/
def Consecutive : Nat → List (Nat × Nat) → Nat → Prop
  | a, [], b => a = b
  | a, (c, n) :: l, b => c = a ∧ Consecutive (a + n) l b

theorem Consecutive.le {l : List (Nat × Nat)} {a b : Nat} (h : Consecutive a l b) : a ≤ b := by
  induction l generalizing a with
  | nil => exact Nat.le_of_eq h
  | cons e l ih =>
    obtain ⟨-, hrest⟩ := h
    exact (Nat.le_add_right a e.2).trans (ih hrest)

theorem consecutive_range' {b : Nat → Nat} (hb : Monotone b) (k m : Nat) :
    Consecutive (b k) ((List.range' k m).map fun i => (b i, b (i + 1) - b i)) (b (k + m)) := by
  induction m generalizing k with
  | zero => rfl
  | succ m ih =>
    have hrest := ih (k + 1)
    rw [Nat.add_right_comm] at hrest
    rw [List.range'_succ, List.map_cons]
    exact ⟨rfl, by rwa [Nat.add_sub_cancel' (hb (Nat.le_succ k))]⟩

/-- Where the `k`th line that an access of `len` bytes from `va` touches begins within the access. -/
def lineStart (va len k : Nat) : Nat := min (va + len) (max va ((va / 64 + k) * 64))

theorem monotone_lineStart (va len : Nat) : Monotone (lineStart va len) := fun i j h => by
  simp only [lineStart]
  omega

/-- The lines of an access cover it from its first byte to its last, in order. -/
theorem consecutive_linesOf (va len : Nat) : Consecutive va (linesOf va len) (va + len) := by
  unfold linesOf
  split
  case isTrue hzero => exact hzero ▸ rfl
  case isFalse hpos =>
    have hlines := consecutive_range' (monotone_lineStart va len) 0 ((va + len - 1) / 64 - va / 64 + 1)
    have hstart : lineStart va len 0 = va := by simp only [lineStart]; omega
    have hend : lineStart va len (0 + ((va + len - 1) / 64 - va / 64 + 1)) = va + len := by simp only [lineStart]; omega
    rw [hstart, hend, ← List.range_eq_range'] at hlines
    convert hlines using 1
    refine List.map_congr_left fun k hk => ?_
    rw [List.mem_range] at hk
    simp only [lineStart, Prod.mk.injEq]
    omega

/-- Of the bytes `bs` for address `a` some or all are stored, all of them when `ok`; nothing else of memory has changed, the cells are
quiet, and strands and sessions are as before. -/
def State.Wrote (s t : State) (a : Nat) (bs : List Byte) (ok : Bool) : Prop :=
  t.quiet ∧ t.strands = s.strands ∧ t.sessionWork = s.sessionWork ∧ s.KeepsMemoryOutside t a bs.length ∧
    (ok = true → s.Stores t a bs)

theorem State.Wrote.append {u : State} {a : Nat} {bs cs : List Byte} {ok ok' : Bool} (h : s.Wrote t a bs ok)
    (h' : t.Wrote u (a + bs.length) cs ok') : s.Wrote u a (bs ++ cs) (ok && ok') := by
  obtain ⟨-, hstrands, hwork, hmem, hstores⟩ := h
  obtain ⟨hquiet, hstrands', hwork', hmem', hstores'⟩ := h'
  refine ⟨hquiet, hstrands'.trans hstrands, hwork'.trans hwork, fun b hb => ?_, fun hok => ?_⟩
  · rw [List.length_append] at hb
    exact (hmem' b (by omega)).trans (hmem b (by omega))
  · rw [Bool.and_eq_true] at hok
    exact (hstores hok.1).append (hstores' hok.2)

theorem State.KeepsWork.wrote (hk : s.KeepsWork t) (h : s.quiet) (hwork : t.sessionWork = s.sessionWork) (a : Nat) (bs : List Byte) :
    s.Wrote t a bs false := by
  have hquiet := hk.quiet h
  obtain ⟨hmem, hstrands, -⟩ := hk
  exact ⟨hquiet, hstrands, hwork, fun b _ => State.keepsMemory_of_mem hmem b, Bool.false_ne_true.elim⟩

theorem State.Stores.wrote {a : Nat} {bs : List Byte} (h : s.Stores t a bs) (hwork : t.sessionWork = s.sessionWork) :
    s.Wrote t a bs true :=
  ⟨h.quiet, h.strands_eq, hwork, h.outside, fun _ => h⟩

/-- MEM_WRITE among quiet cells, line by line: every line that can be written is. -/
theorem State.memWriteLines_quiet {l : List (Nat × Nat)} {a : Nat} {bs : List Byte} (h : s.quiet)
    (hl : Consecutive a l (a + bs.length)) :
    s.Wrote (s.memWriteLines l bs []).2 a bs (s.memWriteLines l bs []).1 := by
  induction l generalizing s a bs with
  | nil =>
    obtain rfl : bs = [] := List.length_eq_zero_iff.mp (Nat.left_eq_add.mp hl)
    exact (h.stores a).wrote rfl
  | cons e l ih =>
    obtain ⟨pa, n⟩ := e
    obtain ⟨rfl, hrest⟩ := hl
    have hn : n ≤ bs.length := by have := hrest.le; omega
    have htake : (bs.take n).length = n := List.length_take_of_le hn
    have hend : pa + bs.length = pa + n + (bs.drop n).length := by rw [List.length_drop]; omega
    have hstep : ∀ {t : State} {ok : Bool}, s.Wrote t pa (bs.take n) ok →
        s.Wrote (t.memWriteLines l (bs.drop n) []).2 pa bs (ok && (t.memWriteLines l (bs.drop n) []).1) := by
      intro t ok hfirst
      have hdone := hfirst.append (by rw [htake]; exact ih hfirst.1 (hend ▸ hrest))
      rwa [List.take_append_drop] at hdone
    obtain ⟨hwork, hcases⟩ := State.writeLine_quiet h pa (bs.take n)
    simp only [State.memWriteLines, List.headD_nil, List.drop_nil, State.cellEvent_quiet h, ite_self]
    by_cases hu : s.lineUsable pa = true
    · simp only [hu, Bool.not_true, Bool.false_eq_true, if_false]
      rcases hwrite : s.writeLine pa (bs.take n) with ⟨_ | f, t⟩ <;> rw [hwrite] at hwork hcases
      · exact hstep ((hcases.resolve_right (by simp)).2.wrote hwork)
      · exact hstep ((hcases.resolve_left (by simp)).2.wrote h hwork pa _)
    · simp only [Bool.not_eq_true] at hu
      simp only [hu, Bool.not_false, if_true]
      exact hstep ((State.KeepsWork.refl s).wrote h rfl pa _)

end

section
variable {s u : State} {p : Nat} {w f : Frame} {x : Session} {evs : List CellEvent}

section
variable (h : s.takesFrame p w f 0x22 x) (hlen : f.payload.length = 16) (hhead : memHeadOk f 8192 = true)
  (htarget : (memLines f).all (fun l => (s.tookFrame p f).memTarget l.1) = true)
include h hlen hhead htarget

theorem execMemRead_read {bs : List Byte} (hread : (s.tookFrame p f).memRead (memLines f) evs = (some bs, u)) :
    exec (.memRead p w evs) s = .next ((u.reply f.slot 0x22 bs).closeSpent f.slot) := by
  refine next_congr ((State.request_of_takesFrame h (by decide) (by simp [hlen, hhead])).trans ?_)
  simp only [htarget, hread, Bool.not_true, Bool.false_eq_true, if_false]

theorem execMemRead_nak (hread : (s.tookFrame p f).memRead (memLines f) evs = (none, u)) :
    exec (.memRead p w evs) s = .next ((u.frameNak f.slot 0x48 0x22 f.seq).closeSpent f.slot) := by
  refine next_congr ((State.request_of_takesFrame h (by decide) (by simp [hlen, hhead])).trans ?_)
  simp only [htarget, hread, Bool.not_true, Bool.false_eq_true, if_false]

end

section
variable {ok : Bool} (h : s.takesFrame p w f 0x23 x) (hlen : f.payload.length = 16 + fieldAt f.payload 8 4)
  (hhead : memHeadOk f 8176 = true) (htarget : (memLines f).all (fun l => (s.tookFrame p f).memTarget l.1) = true)
include h hlen hhead htarget

theorem execMemWrite_of_takesFrame (hwrite : (s.tookFrame p f).memWriteLines (memLines f) (f.payload.drop 16) evs = (ok, u)) :
    exec (.memWrite p w evs) s = .next ((u.reply f.slot 0x23 (leBytes 4 (if ok then 0 else 0x48))).closeSpent f.slot) := by
  refine next_congr ((State.request_of_takesFrame h (by decide) (by simp [hlen, hhead])).trans ?_)
  simp only [htarget, hwrite, Bool.not_true, Bool.false_eq_true, if_false, head]

/-- Among quiet cells a MEM_WRITE changes no byte outside its range, and one that succeeds has put its bytes there. -/
theorem execMemWrite_quiet (hquiet : s.quiet)
    (hwrite : (s.tookFrame p f).memWriteLines (memLines f) (f.payload.drop 16) [] = (ok, u)) :
    ∃ s', exec (.memWrite p w []) s = .next s' ∧ s.Answers s' f x 0xA3 (leBytes 4 (if ok then 0 else 0x48)) ∧
      s'.strands = s.strands ∧ s.KeepsMemoryOutside s' (fieldAt f.payload 0 8) (fieldAt f.payload 8 4) ∧
      (ok = true → s'.bytes (fieldAt f.payload 0 8) (fieldAt f.payload 8 4) = f.payload.drop 16) := by
  have htook := s.keepsWork_tookFrame p f
  have hrest : (f.payload.drop 16).length = fieldAt f.payload 8 4 := by rw [List.length_drop]; omega
  have hlines : Consecutive (fieldAt f.payload 0 8) (memLines f) (fieldAt f.payload 0 8 + (f.payload.drop 16).length) := by
    rw [hrest]
    exact consecutive_linesOf (fieldAt f.payload 0 8) (fieldAt f.payload 8 4)
  have hwrote := State.memWriteLines_quiet (htook.quiet hquiet) hlines
  rw [hwrite] at hwrote
  obtain ⟨-, hstrands, hsessions, houtside, hstores⟩ := hwrote
  obtain ⟨htmem, htstrands, -⟩ := htook
  obtain ⟨hanswer, ⟨hmem, hstrands', -⟩, -⟩ :=
    (h.heard.of_sessionWork hsessions).answers 0x23 (leBytes 4 (if ok then 0 else 0x48))
  refine ⟨_, execMemWrite_of_takesFrame h hlen hhead htarget hwrite, hanswer, hstrands'.trans (hstrands.trans htstrands),
    fun a ha => ?_, fun hok => ?_⟩
  · rw [hrest] at houtside
    exact (State.keepsMemory_of_mem hmem a).trans ((houtside a ha).trans (State.keepsMemory_of_mem htmem a))
  · rw [← (hstores hok).bytes_eq, hrest, State.bytes, State.bytes]
    exact List.map_congr_left fun i _ => State.keepsMemory_of_mem hmem _

end
end

/-! ### DOORBELL and POLL (R504, R521, R522) -/

section
variable {s : State} {p : Nat} {w f : Frame} {x : Session}

theorem leVal_lt (bs : List Byte) : leVal bs < 256 ^ bs.length := by
  induction bs with
  | nil => exact Nat.one_pos
  | cons b bs ih =>
    have hb := b.isLt
    rw [leVal, List.length_cons, Nat.pow_succ]
    omega

theorem length_slice (bs : List Byte) (o n : Nat) : (slice bs o n).length = n := by
  simp only [slice, List.length_append, List.length_replicate, List.length_take]
  omega

theorem fieldAt_lt (bs : List Byte) (o n : Nat) : fieldAt bs o n < 256 ^ n := by
  have hlt := leVal_lt (slice bs o n)
  rwa [length_slice] at hlt

theorem State.doorbell_cases (s : State) (q tail : Nat) : s.doorbell q tail = s ∨
    s.doorbell q tail = s.fset GFE_Q_STATE_OVERRUN 1 q ∨ s.doorbell q tail = s.setQueue q { s.queue q with tail := tail % 2 ^ 32 } := by
  unfold State.doorbell
  split
  · exact .inl rfl
  · split
    · exact .inr (.inl rfl)
    · exact .inr (.inr rfl)

/-- A doorbell concerns its queue alone, and that queue's state stays. -/
theorem State.doorbell_spec (s : State) (q tail : Nat) : let t := s.doorbell q tail
    t.sessionWork = s.sessionWork ∧ t.mem = s.mem ∧ t.strands = s.strands ∧ t.queueState q = s.queueState q ∧
      ∀ k, k ≠ q → t.queue k = s.queue k := by
  intro t
  obtain h | h | h := s.doorbell_cases q tail
  · exact h.symm ▸ ⟨rfl, rfl, rfl, rfl, fun _ _ => rfl⟩
  · rw [show t = _ from h]
    exact ⟨State.sessionWork_fset .., State.fset_mem .., State.fset_strands ..,
      s.fget_fset_other _ _ _ _ _ _ _ (by decide) (by decide) (by decide), fun k _ => State.queue_fset ..⟩
  · rw [show t = _ from h]
    exact ⟨rfl, rfl, rfl, rfl, fun k hk => s.queue_setQueue_ne _ hk.symm⟩

/-- An active queue with room for it takes the new tail. -/
theorem State.queue_doorbell_self {q tail : Nat} (hstate : s.queueState q = qActive)
    (hroom : ahead tail (s.fget GFE_Q_CACK_COUNT q) ≤ 2 ^ (s.queue q).logSize) :
    ((s.doorbell q tail).queue q).tail = tail % 2 ^ 32 := by
  rw [State.doorbell, hstate, if_neg (by decide), if_neg (Nat.not_lt.mpr hroom), State.queue_setQueue_self]

theorem State.queue_congr {t u : State} (h : u.queues = t.queues) (k : Nat) : u.queue k = t.queue k := by
  rw [State.queue, State.queue, h]

section
variable (h : s.takesFrame p w f 0x24 x) (hlen : 8 ≤ f.payload.length) (hok : doorbellOk f = true) (hq : fieldAt f.payload 0 2 < 4096)
include h hlen hok hq

theorem execDoorbell_of_takesFrame : let t := (s.tookFrame p f).doorbell (fieldAt f.payload 0 2) (fieldAt f.payload 4 4)
    exec (.doorbell p w) s =
      .next ((t.reply f.slot 0x24 (leBytes 4 0 ++ leBytes 4 (s.queueState (fieldAt f.payload 0 2)))).closeSpent f.slot) := by
  intro t
  have hid : queueId (fieldAt f.payload 0 2) = true := by simp [queueId, hq]
  have hstate : t.queueState (fieldAt f.payload 0 2) = s.queueState (fieldAt f.payload 0 2) := by
    obtain ⟨-, -, -, hstays, -⟩ := (s.tookFrame p f).doorbell_spec (fieldAt f.payload 0 2) (fieldAt f.payload 4 4)
    exact hstays.trans (h.fget_tookFrame _ _ (by decide))
  rw [← hstate]
  refine next_congr ((State.request_of_takesFrame h (by decide) (by simp [hlen, hok])).trans ?_)
  simp only [hid, hq, Bool.not_true, Bool.false_eq_true, if_false, if_true, head, t]

/-- DOORBELL answers its queue's state, moves that queue's tail where it has room, and concerns no other queue. -/
theorem execDoorbell_spec : let q := fieldAt f.payload 0 2
    let tail := fieldAt f.payload 4 4
    ∃ s', exec (.doorbell p w) s = .next s' ∧ s.Answers s' f x 0xA4 (leBytes 4 0 ++ leBytes 4 (s.queueState q)) ∧
      s.KeepsMemory s' ∧ s'.strands = s.strands ∧
      (s.queueState q = qActive → ahead tail (s.fget GFE_Q_CACK_COUNT q) ≤ 2 ^ (s.queue q).logSize → (s'.queue q).tail = tail) ∧
      (∀ k, k ≠ q → s'.queue k = s.queue k) := by
  intro q tail
  obtain ⟨htmem, htstrands, -, htqueues, -⟩ := s.keepsWork_tookFrame p f
  obtain ⟨hsessions, hmem, hstrands, -, hqueues⟩ := (s.tookFrame p f).doorbell_spec q tail
  obtain ⟨hanswer, ⟨hmem', hstrands', -, hqueues', -⟩, -⟩ :=
    (h.heard.of_sessionWork hsessions).answers 0x24 (leBytes 4 0 ++ leBytes 4 (s.queueState q))
  refine ⟨_, execDoorbell_of_takesFrame h hlen hok hq, hanswer, State.keepsMemory_of_mem (hmem'.trans (hmem.trans htmem)),
    hstrands'.trans (hstrands.trans htstrands), fun hactive hroom => ?_, fun k hk => ?_⟩
  · have hactive' : (s.tookFrame p f).queueState q = qActive := (h.fget_tookFrame _ _ (by decide)).trans hactive
    rw [← h.fget_tookFrame _ _ (by decide), ← State.queue_congr htqueues] at hroom
    rw [State.queue_congr hqueues', State.queue_doorbell_self hactive' hroom]
    exact Nat.mod_eq_of_lt (fieldAt_lt f.payload 4 4)
  · exact (State.queue_congr hqueues' k).trans ((hqueues k hk).trans (State.queue_congr htqueues k))

end

theorem State.pollEntry_hardware {q : Nat} (hq : q < 4096) : s.pollEntry q =
    (leBytes 2 q ++ leBytes 1 (s.queueState q) ++ leBytes 1 (s.fget GFE_Q_STATE_OVERRUN q) ++
      leBytes 4 (s.fget GFE_Q_FETCHED_COUNT q) ++ leBytes 8 (s.pair GFE_Q_DONE_LO_COUNT GFE_Q_DONE_HI_COUNT q), s) := if_pos hq

/-- The entry of a hardware queue is as before the frame that asks for it. -/
theorem State.takesFrame.pollEntry {q ty : Nat} (h : s.takesFrame p w f ty x) (hq : q < 4096) :
    (s.tookFrame p f).pollEntry q = ((s.pollEntry q).1, s.tookFrame p f) := by
  rw [State.pollEntry_hardware hq, State.pollEntry_hardware hq, State.queueState, State.queueState, State.pair, State.pair,
    h.fget_tookFrame GFE_Q_STATE_STATE q (by decide), h.fget_tookFrame GFE_Q_STATE_OVERRUN q (by decide),
    h.fget_tookFrame GFE_Q_FETCHED_COUNT q (by decide), h.fget_tookFrame GFE_Q_DONE_LO_COUNT q (by decide),
    h.fget_tookFrame GFE_Q_DONE_HI_COUNT q (by decide)]

theorem execPoll_one {q : Nat} (h : s.takesFrame p w f 0x25 x) (hpay : f.payload = leBytes 2 1 ++ leBytes 2 0 ++ leBytes 2 q)
    (hq : q < 4096) :
    exec (.poll p w) s = .next (((s.tookFrame p f).reply f.slot 0x25 (s.pollEntry q).1).closeSpent f.slot) := by
  have hcount : fieldAt f.payload 0 2 = 1 := by rw [hpay]; rfl
  have hid : fieldAt f.payload 4 2 = q := by
    rw [hpay, fieldAt, show slice _ 4 2 = leBytes 2 q from rfl, leVal_leBytes]
    omega
  have hok : pollOk f = true := by rw [pollOk, hcount, hpay]; rfl
  refine next_congr ((State.request_of_takesFrame h (by decide) hok).trans ?_)
  simp [hcount, hid, queueId, hq, h.pollEntry hq]

end

/-! ### ATTEST and ATTEST_REPORT (R462, R463, R492, R493) -/

section
variable {s : State} {p k : Nat} {w f : Frame} {x : Session}

theorem State.Heard.closeSpent {u : State} (h : s.Heard u f x) : u.closeSpent f.slot = u := by
  obtain ⟨hsession, -, hrx, htx⟩ := h
  exact State.closeSpent_open hsession hrx (by simp only; omega)

/-- An ATTEST waits for its report. -/
def State.withAttest (s : State) (a : Option (Nat × Nat × List Byte)) : State := { s with ctp := { s.ctp with attest := a } }

theorem execAttest_first (h : s.takesFrame p w f 0x40 x) (hlen : f.payload.length = 32) (hnone : s.ctp.attest = none) :
    exec (.attest p w) s = .next ((s.tookFrame p f).withAttest (some (f.slot, f.seq, f.payload))) := by
  have hheard : s.Heard ((s.tookFrame p f).withAttest (some (f.slot, f.seq, f.payload))) f x := h.heard.congr rfl rfl
  refine next_congr ((State.request_of_takesFrame h (by decide) (by simp [hlen])).trans ?_)
  rw [State.tookFrame_attest, hnone]
  exact hheard.closeSpent

theorem execAttest_second (h : s.takesFrame p w f 0x40 x) (hlen : f.payload.length = 32) (hsome : s.ctp.attest ≠ none) :
    exec (.attest p w) s = .next (((s.tookFrame p f).reply f.slot 0x40 (leBytes 8 0x46)).closeSpent f.slot) := by
  refine next_congr ((State.request_of_takesFrame h (by decide) (by simp [hlen])).trans ?_)
  rw [State.tookFrame_attest, Option.isSome_iff_ne_none.mpr hsome, if_pos rfl]

/-- Responses sent one after another take one SEQ after another. -/
theorem State.replies_spec (h : s.session k = some x) (type : Nat) (g : Nat → List Byte) (n : Nat) :
    let t := (List.range n).foldl (fun s i => s.reply k type (g i)) s
    t.out = s.out ++ (List.range n).map (fun i => x.says k i (0x80 + type) (g i)) ∧
      t.session k = some { x with tx := x.tx + n } ∧ s.KeepsWork t ∧ t.ctp.attest = s.ctp.attest := by
  induction n with
  | zero => exact ⟨(List.append_nil _).symm, h, .refl s, rfl⟩
  | succ n ih =>
    obtain ⟨hout, hsession, hwork, hattest⟩ := ih
    obtain ⟨hout', hsession', hwork', hattest'⟩ := State.reply_spec hsession type (g n)
    simp only [List.range_succ, List.foldl_append, List.foldl_cons, List.foldl_nil, List.map_append, List.map_cons, List.map_nil]
    refine ⟨?_, hsession', hwork.trans hwork', hattest'.trans hattest⟩
    rw [hout', hout, List.append_assoc]
    simp only [Session.says, Nat.add_zero, Nat.add_right_comm x.tx n 1]

/-- Frame `i` of a report's five, which hold `content` in order. -/
def reportFrame (content : List Byte) (i : Nat) : List Byte :=
  leBytes 2 0 ++ leBytes 1 i ++ leBytes 1 5 ++ leBytes 4 content.length ++ (content.drop (8184 * i)).take 8184

theorem execAttestReport_spec {q : Nat} {nonce : List Byte} (ha : s.ctp.attest = some (k, q, nonce)) (h : s.session k = some x)
    (hrx : x.rx < 2 ^ 48) (htx : x.tx + 5 < 2 ^ 48) : ∃ s', exec .attestReport s = .next s' ∧ s'.ctp.attest = none ∧ s.KeepsWork s' ∧
      s'.out = s.out ++ (List.range 5).map (fun i => x.says k i 0xC0 (reportFrame (s.report_ nonce ++ s.sec.certificate) i)) := by
  obtain ⟨hout, hsession, hwork, hattest⟩ := State.replies_spec (s := s.withAttest none) h 0x40
    (reportFrame (s.report_ nonce ++ s.sec.certificate)) 5
  refine ⟨_, next_congr ?_, hattest, .trans ⟨rfl, rfl, rfl, rfl, rfl, rfl⟩ hwork, hout⟩
  rw [ha]
  exact State.closeSpent_open hsession hrx htx

end

/-- Settles O45: each request is the branch of its command that its conditions name, and its answer the next frame of its session. -/
theorem controlRequests : Obligations.ControlRequests := by
  unfold Obligations.ControlRequests
  intro s p w f x
  have htook := s.keepsWork_tookFrame p f
  refine ⟨fun h hempty => ?heartbeat, fun h hlen hhead hcount => ⟨execRegRead_unmapped h hlen hhead, fun hmap => ?regRead⟩,
    fun held s2 h hlen hhead hcount => ⟨execRegWrite_unmapped h hlen hhead hcount, execRegWrite_one h hlen hhead hcount⟩,
    fun evs h hlen hhead htarget => ⟨fun bs u hread => ?memRead, fun u hread => ?memNak⟩,
    fun evs ok u h hhead hlen htarget hwrite => ?memWrite, fun h hlen hok hq => ?doorbell, fun q h hpay hq => ?poll,
    fun h hlen => ⟨fun hnone => ?attest, fun hsome => ?busy⟩, fun k q nonce ha hsession hrx htx => ?report⟩
  case heartbeat =>
    obtain ⟨hanswer, hwork, -⟩ := h.heard.answers 0x10 (leBytes 4 0)
    exact ⟨_, execHeartbeat_of_takesFrame h hempty, hanswer, htook.trans hwork⟩
  case regRead =>
    obtain ⟨htmem, htstrands, -⟩ := htook
    obtain ⟨hctp, hout, hmem, hstrands⟩ := ((s.tookFrame p f).readFrom_readReg (.session f.slot) (fieldAt f.payload 0 4)).frame
    obtain ⟨hanswer, ⟨hmem', hstrands', -⟩, -⟩ := (h.heard.congr (congrArg Ctp.sessions hctp) hout).answers 0x20
      (leBytes 4 ((s.tookFrame p f).readReg (.session f.slot) (fieldAt f.payload 0 4)).1.toNat)
    exact ⟨_, execRegRead_one h hlen hhead hcount hmap, State.keepsMemory_of_mem (hmem'.trans (hmem.trans htmem)),
      hstrands'.trans (hstrands.trans htstrands), hanswer⟩
  case memRead =>
    refine ⟨execMemRead_read h hlen hhead htarget hread, ?_⟩
    rintro rfl hcells hfound
    obtain ⟨hwork, hsessions⟩ := State.memRead_quiet (htook.quiet ⟨hcells, hfound⟩) (memLines f)
    rw [hread] at hwork hsessions
    obtain ⟨hanswer, hwork', -⟩ := (h.heard.of_sessionWork hsessions).answers 0x22 bs
    obtain ⟨hmem, hstrands, -⟩ := htook.trans (hwork.trans hwork')
    exact ⟨_, execMemRead_read h hlen hhead htarget hread, hanswer, State.keepsMemory_of_mem hmem, hstrands⟩
  case memNak => exact execMemRead_nak h hlen hhead htarget hread
  case memWrite =>
    refine ⟨execMemWrite_of_takesFrame h hlen hhead htarget hwrite, ?_⟩
    rintro rfl hcells hfound
    exact execMemWrite_quiet h hlen hhead htarget ⟨hcells, hfound⟩ hwrite
  case doorbell => exact execDoorbell_spec h hlen hok hq
  case poll =>
    obtain ⟨hanswer, hwork, -⟩ := h.heard.answers 0x25 (s.pollEntry q).1
    refine ⟨_, execPoll_one h hpay hq, htook.trans hwork, ?_⟩
    rw [State.pollEntry_hardware hq] at hanswer ⊢
    exact hanswer
  case attest =>
    obtain ⟨-, hout, -⟩ := h.heard
    exact ⟨_, execAttest_first h hlen hnone, rfl, hout, htook.trans ⟨rfl, rfl, rfl, rfl, rfl, rfl⟩⟩
  case busy =>
    obtain ⟨hanswer, hwork, hattest⟩ := h.heard.answers 0x40 (leBytes 8 0x46)
    exact ⟨_, execAttest_second h hlen hsome, hanswer, hattest.trans (s.tookFrame_attest p f), htook.trans hwork⟩
  case report => exact execAttestReport_spec ha hsession hrx htx

end Sys2Proof.Machine
end

section
/-! PROOFS. What leaves the work in progress as it was, and what writes registers and nothing else. -/

namespace Sys2Proof.Machine

section

variable {s t u : State} {α : Type}

/-! ### The work in progress -/

theorem State.KeepsWork.rput (h : s.KeepsWork t) {a : Nat} {w : Word} : s.KeepsWork (t.rput a w) :=
  h.trans ⟨rfl, rfl, rfl, rfl, rfl, rfl⟩

theorem State.KeepsWork.fset (h : s.KeepsWork t) {f : Fld} {v i j : Nat} : s.KeepsWork (t.fset f v i j) := h.rput

theorem State.KeepsWork.wset (h : s.KeepsWork t) {r : Reg} {v i j : Nat} : s.KeepsWork (t.wset r v i j) := h.rput

theorem State.KeepsWork.bump (h : s.KeepsWork t) {f : Fld} {n i j : Nat} : s.KeepsWork (t.bump f n i j) := h.fset

theorem State.KeepsWork.pairSet (h : s.KeepsWork t) {lo hi : Fld} {v i j : Nat} : s.KeepsWork (t.pairSet lo hi v i j) := h.fset.fset

theorem State.KeepsWork.bump64 (h : s.KeepsWork t) {lo hi : Fld} {n i j : Nat} : s.KeepsWork (t.bump64 lo hi n i j) := h.pairSet

theorem State.KeepsWork.emit (h : s.KeepsWork t) {e : OutEvent} : s.KeepsWork (t.emit e) := h.trans ⟨rfl, rfl, rfl, rfl, rfl, rfl⟩

theorem State.KeepsWork.setDomain (h : s.KeepsWork t) {d : Nat} {x : PwrDomain} : s.KeepsWork (t.setDomain d x) :=
  h.trans ⟨rfl, rfl, rfl, rfl, rfl, rfl⟩

/-! A part of the state that is no work in progress may be replaced. -/

theorem State.KeepsWork.pwr (h : s.KeepsWork t) {x} : s.KeepsWork { t with pwr := x } := h.trans ⟨rfl, rfl, rfl, rfl, rfl, rfl⟩

theorem State.KeepsWork.hlm (h : s.KeepsWork t) {x} : s.KeepsWork { t with hlm := x } := h.trans ⟨rfl, rfl, rfl, rfl, rfl, rfl⟩

theorem State.KeepsWork.pins (h : s.KeepsWork t) {x} : s.KeepsWork { t with pins := x } := h.trans ⟨rfl, rfl, rfl, rfl, rfl, rfl⟩

theorem State.KeepsWork.fab (h : s.KeepsWork t) {x} : s.KeepsWork { t with fab := x } := h.trans ⟨rfl, rfl, rfl, rfl, rfl, rfl⟩

theorem State.KeepsWork.ctp (h : s.KeepsWork t) {x} : s.KeepsWork { t with ctp := x } := h.trans ⟨rfl, rfl, rfl, rfl, rfl, rfl⟩

theorem State.KeepsWork.tru (h : s.KeepsWork t) {x} : s.KeepsWork { t with tru := x } := h.trans ⟨rfl, rfl, rfl, rfl, rfl, rfl⟩

theorem State.KeepsWork.tbc (h : s.KeepsWork t) {x} : s.KeepsWork { t with tbc := x } := h.trans ⟨rfl, rfl, rfl, rfl, rfl, rfl⟩

theorem State.KeepsWork.sec (h : s.KeepsWork t) {x} : s.KeepsWork { t with sec := x } := h.trans ⟨rfl, rfl, rfl, rfl, rfl, rfl⟩

theorem State.KeepsWork.mgc (h : s.KeepsWork t) {x} : s.KeepsWork { t with mgc := x } := h.trans ⟨rfl, rfl, rfl, rfl, rfl, rfl⟩

theorem State.KeepsWork.svy (h : s.KeepsWork t) {x} : s.KeepsWork { t with svy := x } := h.trans ⟨rfl, rfl, rfl, rfl, rfl, rfl⟩

theorem State.KeepsWork.i3c (h : s.KeepsWork t) {x} : s.KeepsWork { t with i3c := x } := h.trans ⟨rfl, rfl, rfl, rfl, rfl, rfl⟩

theorem State.KeepsWork.health (h : s.KeepsWork t) {x} : s.KeepsWork { t with health := x } := h.trans ⟨rfl, rfl, rfl, rfl, rfl, rfl⟩

theorem State.KeepsWork.out (h : s.KeepsWork t) {x} : s.KeepsWork { t with out := x } := h.trans ⟨rfl, rfl, rfl, rfl, rfl, rfl⟩

theorem State.KeepsWork.noteBoard (h : s.KeepsWork t) : s.KeepsWork t.noteBoard := h.trans ⟨rfl, rfl, rfl, rfl, rfl, rfl⟩

theorem State.KeepsWork.ite {c : Prop} [Decidable c] (ht : s.KeepsWork t) (hu : s.KeepsWork u) : s.KeepsWork (if c then t else u) := by
  split
  · exact ht
  · exact hu

/-- An operation done for each of a list leaves the work as each does. -/
theorem State.KeepsWork.foldl {f : State → α → State} (h : s.KeepsWork t) (hf : ∀ (u : State) x, u.KeepsWork (f u x)) (l : List α) :
    s.KeepsWork (l.foldl f t) := by
  induction l generalizing t with
  | nil => exact h
  | cons x l ih => exact ih (h.trans (hf t x))

/-! ### Operations that write registers and nothing else -/

/-- Nothing but registers differs. -/
def State.OnlyRegs (s t : State) : Prop := t = { s with regs := t.regs }

theorem State.OnlyRegs.refl (s : State) : s.OnlyRegs s := rfl

theorem State.OnlyRegs.trans (h : s.OnlyRegs t) (h' : t.OnlyRegs u) : s.OnlyRegs u := by
  rw [State.OnlyRegs, h', h]

theorem State.OnlyRegs.rput (h : s.OnlyRegs t) {a : Nat} {w : Word} : s.OnlyRegs (t.rput a w) := h.trans rfl

theorem State.OnlyRegs.fset (h : s.OnlyRegs t) {f : Fld} {v i j : Nat} : s.OnlyRegs (t.fset f v i j) := h.rput

theorem State.OnlyRegs.wset (h : s.OnlyRegs t) {r : Reg} {v i j : Nat} : s.OnlyRegs (t.wset r v i j) := h.rput

theorem State.OnlyRegs.bump (h : s.OnlyRegs t) {f : Fld} {n i j : Nat} : s.OnlyRegs (t.bump f n i j) := h.fset

theorem State.OnlyRegs.pairSet (h : s.OnlyRegs t) {lo hi : Fld} {v i j : Nat} : s.OnlyRegs (t.pairSet lo hi v i j) := h.fset.fset

theorem State.OnlyRegs.bump64 (h : s.OnlyRegs t) {lo hi : Fld} {n i j : Nat} : s.OnlyRegs (t.bump64 lo hi n i j) := h.pairSet

theorem State.OnlyRegs.ite {c : Prop} [Decidable c] (ht : s.OnlyRegs t) (hu : s.OnlyRegs u) : s.OnlyRegs (if c then t else u) := by
  split
  · exact ht
  · exact hu

theorem State.OnlyRegs.foldl {f : State → α → State} (h : s.OnlyRegs t) (hf : ∀ (u : State) x, u.OnlyRegs (f u x)) (l : List α) :
    s.OnlyRegs (l.foldl f t) := by
  induction l generalizing t with
  | nil => exact h
  | cons x l ih => exact ih (h.trans (hf t x))

theorem State.OnlyRegs.keepsWork (h : s.OnlyRegs t) : s.KeepsWork t :=
  ⟨(congrArg State.mem h :), (congrArg State.strands h :), (congrArg State.items h :), (congrArg State.queues h :),
    (congrArg State.engOps h :), (congrArg State.ms h :)⟩

/-! ### What a register reads as -/

theorem State.fget_of_rget {f : Fld} {i j : Nat} (h : t.rget (regAddr f.reg i j) = s.rget (regAddr f.reg i j)) :
    t.fget f i j = s.fget f i j := by simp only [State.fget, h]

theorem State.rget_of_regs (h : t.regs = s.regs) (a : Nat) : t.rget a = s.rget a := congrArg (fun r => smGet resetAt r a) h

theorem State.rget_with_pwr (s : State) (x) (a : Nat) : ({ s with pwr := x } : State).rget a = s.rget a := rfl

theorem State.rget_with_hlm (s : State) (x) (a : Nat) : ({ s with hlm := x } : State).rget a = s.rget a := rfl

theorem State.rget_with_pins (s : State) (x) (a : Nat) : ({ s with pins := x } : State).rget a = s.rget a := rfl

theorem State.rget_with_tbc (s : State) (x) (a : Nat) : ({ s with tbc := x } : State).rget a = s.rget a := rfl

theorem State.rget_with_sec (s : State) (x) (a : Nat) : ({ s with sec := x } : State).rget a = s.rget a := rfl

@[simp] theorem State.rget_noteBoard (s : State) (a : Nat) : s.noteBoard.rget a = s.rget a := rfl

@[simp] theorem State.noteBoard_pwr (s : State) : s.noteBoard.pwr = s.pwr := rfl

@[simp] theorem State.noteBoard_pins (s : State) : s.noteBoard.pins = s.pins := rfl

theorem State.rget_foldl {f : State → α → State} {a : Nat} (h : ∀ (u : State) x, (f u x).rget a = u.rget a) (l : List α) (s : State) :
    (l.foldl f s).rget a = s.rget a := State.foldl_keeps (·.rget a) h l s

theorem State.fget_fset_of_lt (s : State) {f : Fld} {v : Nat} (i j : Nat) (h : f.lo ≤ f.hi ∧ f.hi < 32)
    (hv : v < 2 ^ (f.hi + 1 - f.lo)) : (s.fset f v i j).fget f i j = v := by
  rw [State.fget_fset_self s f v i j h, Nat.mod_eq_of_lt hv]

theorem State.rget_wset_at_ne (s : State) {r : Reg} {v i j a : Nat} (h : regAddr r i j ≠ a) : (s.wset r v i j).rget a = s.rget a :=
  State.rget_rput_ne _ _ h

theorem State.rget_bump_ne (s : State) {f : Fld} {n i j a : Nat} (h : regAddr f.reg i j ≠ a) : (s.bump f n i j).rget a = s.rget a :=
  State.rget_rput_ne _ _ h

theorem State.rget_pairSet_ne (s : State) {lo hi : Fld} {v i j a : Nat} (hlo : regAddr lo.reg i j ≠ a) (hhi : regAddr hi.reg i j ≠ a) :
    (s.pairSet lo hi v i j).rget a = s.rget a := (State.rget_rput_ne _ _ hhi).trans (State.rget_rput_ne _ _ hlo)

theorem State.rget_bump64_ne (s : State) {lo hi : Fld} {n i j a : Nat} (hlo : regAddr lo.reg i j ≠ a) (hhi : regAddr hi.reg i j ≠ a) :
    (s.bump64 lo hi n i j).rget a = s.rget a := s.rget_pairSet_ne hlo hhi

/-- One field set in each of several instances reads in each as what was set there. -/
theorem State.fget_foldl_fset (f : Fld) (v : Nat → Nat) {d : Nat} (hf : f.lo ≤ f.hi ∧ f.hi < 32)
    (hv : v d < 2 ^ (f.hi + 1 - f.lo)) (hs : f.reg.s1 ≠ 0) (l : List Nat) (s : State) (h : d ∈ l ∨ s.fget f d = v d) :
    (l.foldl (fun s d => s.fset f (v d) d) s).fget f d = v d := by
  induction l generalizing s with
  | nil => exact h.resolve_left (by simp)
  | cons e l ih =>
    refine ih _ ?_
    by_cases he : e = d
    · exact .inr (he ▸ State.fget_fset_of_lt s e 0 hf (he ▸ hv))
    · refine h.imp (fun h => (List.mem_cons.mp h).resolve_left (Ne.symm he)) fun h => ?_
      rw [State.fget_fset_ne, h]
      simp [regAddr, he, hs]

end

end Sys2Proof.Machine
end

section
/-! PROOFS. O1, O3, O13 and O14: a step and the commands it runs, the ends of isolation, and the accesses of strands to control
space. -/

namespace Sys2Proof.Machine

/-! ### A step (R459, R713) -/

/-- Settles O1. -/
theorem stepTakesFront : Obligations.StepTakesFront := fun s i rest h => by rw [step, h]

/-- Every command's meaning answers a next state, whatever its operands. -/
theorem exec_answers (i : Instr) (s : State) : ∃ s', exec i s = .next s' := by
  cases i <;> exact ⟨_, rfl⟩

/-- Settles O3: an empty queue lets time pass, and the command at the front of another answers. -/
theorem stepNeverStops : Obligations.StepNeverStops := by
  intro s
  cases h : s.pending with
  | nil => exact ⟨s.tick, by rw [step, h]⟩
  | cons i rest =>
    obtain ⟨s', hs'⟩ := exec_answers i { s with pending := rest }
    exact ⟨s', (stepTakesFront s i rest h).trans hs'⟩

/-! ### The ends of isolation (R479, R480, R496) -/

section

variable {s : State} {r : Requester} {p : Nat}

/-- A command of the owner alone, by another requester. -/
theorem next_of_not_owns {b : Bool} {t : State} (h : s.owns r = false) : (.next (if s.owns r && b then t else s) : Result) = .next s :=
  next_congr (if_neg (by simp [h]))

theorem execReenablePort_owner (hp : p < 2) (h : s.owns r = true) : exec (.reenablePort r p) s = .next (s.reenablePort r p) :=
  next_congr (if_pos (by simp [h, hp]))

/-- CTP_REENABLE through the port that it names is ignored. -/
theorem execReenablePort_same {k : Nat} (h : s.ctp.sessions.any (fun e => e.1 == k && e.2.port == p) = true) :
    exec (.reenablePort (.session k) p) s = .next s := by
  refine next_congr (ite_eq_right_iff.mpr fun _ => ?_)
  rw [State.reenablePort, if_pos (by rw [h, Bool.true_or])]

theorem State.reenablePort_isolated (hother : ∀ k, r = .session k → s.ctp.sessions.any (fun e => e.1 == k && e.2.port == p) = false)
    (hi : s.fget CTP_PORT_STATUS_ISOLATED p = 1) : s.reenablePort r p = (s.fset CTP_PORT_STATUS_ISOLATED 0 p).freshViols p := by
  cases r with
  | session k => simp [State.reenablePort, hother k rfl, hi]
  | firmware => simp [State.reenablePort, hi]
  | core c t => simp [State.reenablePort, hi]

/-- The slots of a list made FREE. -/
def State.freeSlots (s : State) (l : List (Nat × Nat × List Byte)) : State := l.foldl (fun s e => s.wset CTP_SESS_STATE 0 e.1) s

theorem State.onlyRegs_freeSlots (s : State) (l : List (Nat × Nat × List Byte)) : s.OnlyRegs (s.freeSlots l) :=
  (State.OnlyRegs.refl s).foldl (fun u _ => (State.OnlyRegs.refl u).wset) l

theorem State.sessState_wset_free (s : State) (e k : Nat) : (s.wset CTP_SESS_STATE 0 e).sessState k =
    if regAddr CTP_SESS_STATE e 0 = regAddr CTP_SESS_STATE k 0 then sessFree else s.sessState k := by
  split
  · next h => simp [State.sessState, State.fget, State.wset, CTP_SESS_STATE_STATE, h, bitsOf, sessFree]
  · next h => exact State.fget_wset_ne s CTP_SESS_STATE CTP_SESS_STATE_STATE 0 e 0 k 0 h

/-- A slot of the list is FREE, and one that was FREE stays so. -/
theorem State.sessState_freeSlots {k : Nat} (l : List (Nat × Nat × List Byte)) (s : State)
    (h : s.sessState k = sessFree ∨ ∃ e ∈ l, e.1 = k) : (s.freeSlots l).sessState k = sessFree := by
  induction l generalizing s with
  | nil => exact h.resolve_right (by simp)
  | cons e l ih =>
    refine ih _ ?_
    rw [State.sessState_wset_free]
    rcases h with h | ⟨d, hd, rfl⟩
    · exact .inl (by rw [h, ite_self])
    · rcases List.mem_cons.mp hd with rfl | hd
      · exact .inl (if_pos rfl)
      · exact .inr ⟨d, hd, rfl⟩

theorem State.reenableSlots_spec (s : State) (p mask : Nat) : let s' := s.reenableSlots p mask
    (∀ e, e ∈ s'.ctp.isolated ↔ e ∈ s.ctp.isolated ∧ ¬(e.2.1 = p ∧ bitOf mask e.1 = true)) ∧
    (∀ e ∈ s.ctp.isolated, e.2.1 = p → bitOf mask e.1 = true → e.1 < 16 → s'.sessState e.1 = sessFree) ∧
    s.KeepsMemory s' ∧ s'.strands = s.strands := by
  intro s'
  let mine := s.ctp.isolated.filter (fun e => e.2.1 == p && bitOf mask e.1)
  have hframe := s.onlyRegs_freeSlots mine
  have hctp : (s.freeSlots mine).ctp = s.ctp := (congrArg State.ctp hframe :)
  refine ⟨fun e => ?_, fun e he hp hm _ => ?_, State.keepsMemory_of_mem (congrArg State.mem hframe :), (congrArg State.strands hframe :)⟩
  · show e ∈ (s.freeSlots mine).ctp.isolated.filter _ ↔ _
    rw [hctp, List.mem_filter]
    simp [imp_iff_not_or]
  · exact State.sessState_freeSlots mine s (.inr ⟨e, List.mem_filter.mpr ⟨he, by simp [hp, hm]⟩, rfl⟩)

end

/-- Settles O13. -/
theorem portReenable : Obligations.PortReenable := fun s r p mask hp =>
  ⟨fun ho hother hi => (execReenablePort_owner hp ho).trans (next_congr (State.reenablePort_isolated hother hi)),
    fun _ h => execReenablePort_same h,
    fun ho => ⟨_, next_congr (if_pos (by simp [ho, hp])), s.reenableSlots_spec p mask⟩,
    fun ho => ⟨next_of_not_owns ho, next_of_not_owns ho⟩⟩

/-! ### CS.LD and CS.ST (R442, R636, R713, R715) -/

section

variable {s : State} {c t op : Nat} {w : Word64} {act : Word64 → Strand → Nat → State → State}

/-- The registers that a control-space instruction names: RD and RA. -/
def csMask (w : Word64) : Nat := regMask (rdOf w) ||| regMask (raOf w)

/-- The address that a control-space instruction names. -/
def State.csAddr (s : State) (c t : Nat) (w : Word64) : Nat := ((s.strand c t).reg (raOf w)).toNat

section

variable (h : s.issues c t op (csMask w) w)
include h

theorem State.csIssue_badBits (hb : bitsOf w.toNat 49 0 ≠ 0) : s.csIssue c t op act = s.failStrand c t 0x40 0 :=
  (State.issue_of_issues h).trans (if_pos hb)

variable (hb : bitsOf w.toNat 49 0 = 0)
include hb

/-- An instruction without reserved bits comes to the judgement of its address. -/
theorem State.csIssue_good : s.csIssue c t op act =
    if s.csAddr c t w % 4 ≠ 0 then s.failStrand c t 0x40 0
    else if !mapped (s.csAddr c t w) then s.failStrand c t 0x31 2
    else if s.ms.chamberRelease c t then s.stall c t .fence
    else act w (s.strand c t) (s.csAddr c t w) s :=
  (State.issue_of_issues h).trans ((if_neg (not_not_intro hb)).trans (State.needing_of_issues h))

theorem State.csIssue_misaligned (ha : s.csAddr c t w % 4 ≠ 0) : s.csIssue c t op act = s.failStrand c t 0x40 0 :=
  (State.csIssue_good h hb).trans (if_pos ha)

variable (ha : s.csAddr c t w % 4 = 0)
include ha

theorem State.csIssue_unmapped (hm : mapped (s.csAddr c t w) = false) : s.csIssue c t op act = s.failStrand c t 0x31 2 := by
  rw [State.csIssue_good h hb, if_neg (not_not_intro ha), hm]
  rfl

variable (hm : mapped (s.csAddr c t w) = true)
include hm

theorem State.csIssue_mapped : s.csIssue c t op act =
    if s.ms.chamberRelease c t then s.stall c t .fence else act w (s.strand c t) (s.csAddr c t w) s := by
  rw [State.csIssue_good h hb, if_neg (not_not_intro ha), hm]
  rfl

theorem State.csIssue_waits (hr : s.ms.chamberRelease c t = true) : s.csIssue c t op act = s.waitsFor c t .fence :=
  (State.csIssue_mapped h hb ha hm).trans (if_pos hr)

theorem State.csIssue_acts (hr : s.ms.chamberRelease c t = false) :
    s.csIssue c t op act = act w (s.strand c t) (s.csAddr c t w) s :=
  (State.csIssue_mapped h hb ha hm).trans (if_neg (by simp [hr]))

end

/-- What a control-space instruction of opcode `op`, whatever it does where it acts, comes to where it does not. -/
theorem State.csIssue_refused (h : s.issues c t op (csMask w) w) : let a := s.csAddr c t w
    (bitsOf w.toNat 49 0 ≠ 0 ∨ a % 4 ≠ 0 → s.csIssue c t op act = s.failStrand c t 0x40 0) ∧
    (bitsOf w.toNat 49 0 = 0 → a % 4 = 0 → mapped a = false → s.csIssue c t op act = s.failStrand c t 0x31 2) ∧
    (bitsOf w.toNat 49 0 = 0 → a % 4 = 0 → mapped a = true → s.ms.chamberRelease c t = true →
      s.csIssue c t op act = s.waitsFor c t .fence) := by
  refine ⟨fun hbad => ?_, fun hb ha hm => State.csIssue_unmapped h hb ha hm, fun hb ha hm hr => State.csIssue_waits h hb ha hm hr⟩
  by_cases hb : bitsOf w.toNat 49 0 = 0
  · exact State.csIssue_misaligned h hb (hbad.resolve_left (not_not_intro hb))
  · exact State.csIssue_badBits h hb

end

/-- Settles O14. -/
theorem controlSpaceAccesses : Obligations.ControlSpaceAccesses := by
  intro s c t w x a mask v read after
  have hrefused : ∀ {op : Nat} {i : Instr} {act : Word64 → Strand → Nat → State → State},
      exec i s = .next (s.csIssue c t op act) → s.issues c t op mask w →
      (bitsOf w.toNat 49 0 ≠ 0 ∨ a % 4 ≠ 0 → exec i s = .next (s.failStrand c t 0x40 0)) ∧
      (bitsOf w.toNat 49 0 = 0 → a % 4 = 0 → mapped a = false → exec i s = .next (s.failStrand c t 0x31 2)) ∧
      (bitsOf w.toNat 49 0 = 0 → a % 4 = 0 → mapped a = true → s.ms.chamberRelease c t = true →
        exec i s = .next (s.setStrand c t { x with mode := .waiting, wait := .fence, run := 0 })) := by
    intro op i act hi h
    obtain ⟨hformat, houtside, hwaits⟩ := State.csIssue_refused (act := act) h
    exact ⟨fun hb => hi.trans (next_congr (hformat hb)), fun hb ha hm => hi.trans (next_congr (houtside hb ha hm)),
      fun hb ha hm hr => hi.trans (next_congr (hwaits hb ha hm hr))⟩
  refine ⟨fun h hb ha hm hr => next_congr ((State.csIssue_acts h hb ha hm hr).trans rfl),
    fun h hb ha hm hr => next_congr (State.csIssue_acts h hb ha hm hr), fun p hp h => ?_⟩
  rcases List.mem_pair.mp hp with rfl | rfl
  · exact hrefused rfl h
  · exact hrefused rfl h

end Sys2Proof.Machine
end

section
/-! PROOFS. O43: the I3C target. -/

namespace Sys2Proof.Machine

section

variable {s : State} {addr : Nat}

/-! ### What the target takes (R702, R703) -/

theorem State.i3cAddressed_dynamic (ha : s.i3cAnswers = true) (hd : s.i3c.dynamic = some addr) (d : Nat) :
    s.i3cAddressed d = (d == addr) := by
  rw [State.i3cAddressed, ha, hd]
  rfl

theorem State.i3cDirect_dynamic (ha : s.i3cAnswers = true) (hd : s.i3c.dynamic = some addr) (d : Nat) :
    s.i3cDirect d = (addr == d) := by
  rw [State.i3cDirect, ha, hd]
  rfl

theorem State.i3cReached_dynamic (ha : s.i3cAnswers = true) (hd : s.i3c.dynamic = some addr) {tg : Option Nat}
    (ht : tg = none ∨ tg = some addr) : s.i3cReached tg = true := by
  rcases ht with rfl | rfl <;> simp [State.i3cReached, ha, hd]

/-! ### Reads (R703) -/

/-- The byte at the pointer is the first of a read, as the register holds it where no field is latched. -/
theorem State.boardRead_first (hl : s.i3c.latch = none) : s.boardRead.1 = s.boardByte s.i3c.pointer := by
  cases h : boardFields.find? (fun f => f.1 == s.i3c.pointer) with
  | none => simp [State.boardRead, h, hl]
  | some f =>
    obtain ⟨o, n⟩ := f
    have ho : o = s.i3c.pointer := by simpa using List.find?_some h
    subst ho
    by_cases hn : 0 < n <;> simp [State.boardRead, h, hn]

theorem State.boardRead_i3c (s : State) : s.boardRead.2 = { s with i3c := s.boardRead.2.i3c } ∧
    s.boardRead.2.i3c.pointer = (s.i3c.pointer + 1) % 256 := ⟨rfl, rfl⟩

theorem State.boardReads_spec (n : Nat) (s : State) (hp : s.i3c.pointer < 256) : (s.boardReads n).1.length = n ∧
    (s.boardReads n).2 = { s with i3c := (s.boardReads n).2.i3c } ∧
    (s.boardReads n).2.i3c.pointer = (s.i3c.pointer + n) % 256 := by
  induction n generalizing s with
  | zero => exact ⟨rfl, rfl, (Nat.mod_eq_of_lt hp).symm⟩
  | succ n ih =>
    obtain ⟨hstep, hnext⟩ := s.boardRead_i3c
    obtain ⟨hlen, hframe, hpointer⟩ := ih s.boardRead.2 (hnext ▸ Nat.mod_lt _ (by decide))
    refine ⟨congrArg (· + 1) hlen, hframe.trans ?_, hpointer.trans ?_⟩
    · show _ = ({ s with i3c := (s.boardRead.2.boardReads n).2.i3c } : State)
      rw [hstep]
    · rw [hnext]; omega

theorem execI3cRead_spec (ha : s.i3cAddressed addr = true) (n : Nat) (hp : s.i3c.pointer < 256) :
    ∃ s' bs, exec (.i3cRead addr n) s = .next s' ∧ s'.out = s.out ++ [.i3c bs] ∧ bs.length = n ∧
      s'.i3c.pointer = (s.i3c.pointer + n) % 256 ∧
      (s.i3c.latch = none → 0 < n → bs.head? = some (s.boardByte s.i3c.pointer)) ∧ s' = { s with i3c := s'.i3c, out := s'.out } := by
  obtain ⟨hlen, hframe, hpointer⟩ := State.boardReads_spec n s hp
  have hexec : exec (.i3cRead addr n) s =
      .next (({ s with i3c := (s.boardReads n).2.i3c } : State).emit (.i3c (s.boardReads n).1)) :=
    next_congr ((if_neg (by simp [ha])).trans (congrArg (fun u : State => u.emit (.i3c (s.boardReads n).1)) hframe))
  refine ⟨_, _, hexec, rfl, hlen, hpointer, fun hl hn => ?_, rfl⟩
  obtain ⟨n, rfl⟩ : ∃ m, n = m + 1 := ⟨n - 1, by omega⟩
  exact congrArg some (State.boardRead_first hl)

end

theorem execI3c_silent {s : State} {addr : Nat} (ha : s.i3cAnswers = false) :
    ∀ i ∈ [Instr.i3cWrite addr [0#8], Instr.i3cRead addr 1, Instr.getpid addr, Instr.getbcr addr, Instr.getdcr addr,
      Instr.getstatus addr, Instr.enec none 1, Instr.disec none 1, Instr.rstdaa, Instr.entdaa addr, Instr.setdasa 0x5A addr],
      exec i s = .next s := by
  have haddr : s.i3cAddressed addr = false := by rw [State.i3cAddressed, ha]; rfl
  have hdirect : s.i3cDirect addr = false := by rw [State.i3cDirect, ha]; rfl
  have hreached : s.i3cReached none = false := by rw [State.i3cReached, ha]; rfl
  simp only [List.forall_mem_cons, List.not_mem_nil, false_imp_iff, implies_true, and_true]
  exact ⟨next_congr (if_neg (by simp [haddr])), next_congr (if_pos haddr), next_congr (if_neg (by simp [hdirect])),
    next_congr (if_neg (by simp [hdirect])), next_congr (if_neg (by simp [hdirect])), next_congr (if_neg (by simp [hdirect])),
    next_congr (if_neg (by simp [hreached])), next_congr (if_neg (by simp [hreached])), next_congr (if_neg (by simp [ha])),
    next_congr (if_pos (.inl ha)), next_congr (if_pos (.inl ha))⟩

/-- Settles O43. -/
theorem boardManagement : Obligations.BoardManagement := by
  intro s addr
  refine ⟨fun ha hd => ?addressed, fun ha hd => ?unaddressed, execI3c_silent,
    ⟨_, rfl, rfl, rfl, rfl, rfl, rfl, ?waits⟩, fun p hp => ?beyond⟩
  case addressed =>
    have haddr := State.i3cAddressed_dynamic ha hd
    have hdirect := State.i3cDirect_dynamic ha hd
    refine ⟨fun b bs => ⟨_, next_congr (if_pos (by simp [haddr])), rfl, rfl⟩,
      fun n hp => execI3cRead_spec (by simp [haddr]) n hp, next_congr (if_pos (by simp [hdirect])),
      next_congr (if_pos (by simp [hdirect])), next_congr (if_pos (by simp [hdirect])), ?status,
      fun tg ev ht he => ⟨next_congr (if_pos ?_), next_congr (if_pos ?_)⟩, next_congr (if_pos ha), fun d hne => ?other⟩
    case status =>
      refine next_congr ((if_pos (by simp [hdirect])).trans ?_)
      cases s.i3c.waiting <;> rfl
    case other =>
      exact ⟨next_congr (if_neg (by simp [hdirect, Ne.symm hne])), next_congr (if_pos (by simp [haddr, hne])),
        next_congr (if_pos (by simp [hd])), next_congr (if_pos (by simp [hd]))⟩
    all_goals simp [State.i3cReached_dynamic ha hd ht, he]
  case unaddressed =>
    exact ⟨next_congr (if_neg (by simp [ha, hd])), next_congr (if_neg (by simp [ha, hd]))⟩
  case waits => simp [State.i3cAnswers]
  case beyond => rw [State.boardByte, if_neg (by omega), if_neg (by omega)]

end Sys2Proof.Machine
end

section
/-! PROOFS. O44: the test access port. -/

namespace Sys2Proof.Machine

section

variable {s : State} {tdi : List Bool}

/-- A free value in sixteen bits. -/
theorem length_bitsLsb (n x : Nat) : (bitsLsb n x).length = n := by simp [bitsLsb]

/-- The state in which an instruction of the bypass bit leaves the port. -/
def State.bypassed (s : State) (tap : Tap) (tdi : List Bool) : State :=
  { s with tap := tap, out := s.out ++ [.tdo ((false :: tdi).take tdi.length)] }

/-- A captured boundary register scanned: the lands shift out, and what is shifted in stays. -/
def State.scanned (s : State) (tap : Tap) (cap tdi : List Bool) : State :=
  { s with tap := { tap with boundary := (cap ++ tdi).drop tdi.length }, out := s.out ++ [.tdo ((cap ++ tdi).take tdi.length)],
           free := s.free + 1 }

/-- The sixteen lands whose levels the model does not hold. -/
def State.freeLands (s : State) : List Bool := bitsLsb 16 (s.draw (2 ^ 16)).1

/-- SAMPLE_PRELOAD finds the outputs as the device drives them (R704). -/
theorem State.outputLands_sampling (s : State) :
    (s.loadIr .samplePreload).outputLands = [s.pins.offReadyN, s.pins.faultN, s.pins.thermtripN] := by
  cases h : s.tap.hold <;> simp [State.outputLands, State.loadIr, h]

theorem execSamplePreload_scans : exec (.samplePreload tdi) s = .next (s.scanned { s.tap with ir := .samplePreload }
    ([s.pins.pwrGood, s.pins.resetN, s.pins.offReqN, s.pins.offReadyN, s.pins.faultN, s.pins.thermtripN] ++ s.freeLands) tdi) :=
  next_congr (congrArg (fun lands => s.scanned { s.tap with ir := .samplePreload }
    ([s.pins.pwrGood, s.pins.resetN, s.pins.offReqN] ++ lands ++ s.freeLands) tdi) s.outputLands_sampling)

/-! ### Instructions that take effect, and those that do not (R705) -/

theorem State.boundaryIr_in_reset (h : s.pins.pwrGood = false ∨ s.pins.resetN = false) : (s.pins.pwrGood && s.pins.resetN) = false := by
  rcases h with h | h <;> simp [h]

theorem execExtest_in_effect (h : s.pins.pwrGood = false ∨ s.pins.resetN = false) : exec (.extest tdi) s =
    .next (s.scanned { s.tap with ir := .extest, hold := true } ([s.pins.pwrGood, s.pins.resetN, s.pins.offReqN] ++
      (List.range 3).map (fun k => s.tap.boundary.getD (3 + k) true) ++ s.freeLands) tdi) := by
  have hl : s.loadBoundaryIr .extest = { s with tap := { s.tap with ir := .extest, hold := true } } :=
    if_neg (by simp [State.boundaryIr_in_reset h])
  show Host.Outcome.next (if (s.loadBoundaryIr .extest).tap.ir = .extest then _ else _) = _
  rw [hl]
  rfl

theorem execClamp_in_effect (h : s.pins.pwrGood = false ∨ s.pins.resetN = false) :
    exec (.clamp tdi) s = .next (s.bypassed { s.tap with ir := .clamp, hold := true } tdi) :=
  next_congr (congrArg (fun u => (u.scanOut [false] tdi).2) (if_neg (by simp [State.boundaryIr_in_reset h]) :
    s.loadBoundaryIr .clamp = { s with tap := { s.tap with ir := .clamp, hold := true } }))

theorem execHighz_in_effect (h : s.pins.pwrGood = false ∨ s.pins.resetN = false) :
    exec (.highz tdi) s = .next (s.bypassed { s.tap with ir := .highz, hold := true } tdi) :=
  next_congr (congrArg (fun u => (u.scanOut [false] tdi).2) (if_neg (by simp [State.boundaryIr_in_reset h]) :
    s.loadBoundaryIr .highz = { s with tap := { s.tap with ir := .highz, hold := true } }))

/-- With PWR_GOOD and RESET_N high a boundary instruction is loaded as BYPASS. -/
theorem State.loadBoundaryIr_running (hg : s.pins.pwrGood = true) (hr : s.pins.resetN = true) (ir : TapIr) :
    s.loadBoundaryIr ir = s.loadIr .bypass := if_pos (by simp [hg, hr])

theorem exec_boundary_running (hg : s.pins.pwrGood = true) (hr : s.pins.resetN = true) :
    exec (.extest tdi) s = exec (.bypass tdi) s ∧ exec (.clamp tdi) s = exec (.bypass tdi) s ∧
      exec (.highz tdi) s = exec (.bypass tdi) s := by
  have h := State.loadBoundaryIr_running hg hr
  refine ⟨?_, next_congr (congrArg (fun u => (u.scanOut [false] tdi).2) (h .clamp)),
    next_congr (congrArg (fun u => (u.scanOut [false] tdi).2) (h .highz))⟩
  show Host.Outcome.next (if (s.loadBoundaryIr .extest).tap.ir = .extest then _ else _) = _
  rw [h]
  rfl

/-! ### The end of a held reset (R705, R712) -/

theorem State.leaveReset_frame (s : State) : s.leaveReset = { s with
    regs := s.leaveReset.regs, tb := s.leaveReset.tb, pwr := s.leaveReset.pwr, i3c := s.leaveReset.i3c } := by
  unfold State.leaveReset
  split <;> rfl

theorem State.leaveReset_held (hh : s.pwr.held = true) (hg : s.pins.pwrGood = true) (hr : s.pins.resetN = true)
    (ht : s.tap.hold = false) : s.leaveReset.pwr.held = false ∧ s.leaveReset.tb = 0 := by
  rw [State.leaveReset, if_pos (by simp [hh, hg, hr, ht])]
  exact ⟨rfl, rfl⟩

theorem State.leaveReset_running (hh : s.pwr.held = false) : s.leaveReset = s.noteBoard := if_neg (by simp [hh])

end

/-- Settles O44. -/
theorem testAccess : Obligations.TestAccess := fun s tdi =>
  ⟨⟨s.bypassed { s.tap with ir := .bypass } tdi, rfl, rfl, rfl, rfl⟩, ⟨_, rfl, rfl, rfl, rfl⟩,
    ⟨_, s.freeLands, execSamplePreload_scans, length_bitsLsb _ _, ⟨rfl, rfl⟩, rfl⟩,
    fun h => ⟨⟨_, s.freeLands, execExtest_in_effect h, length_bitsLsb _ _, ⟨rfl, rfl⟩, rfl⟩, execClamp_in_effect h,
      execHighz_in_effect h⟩,
    exec_boundary_running, by
      let u : State := { s with tap := { s.tap with ir := .idcode, hold := false } }
      have hframe := u.leaveReset_frame
      refine ⟨u.leaveReset, rfl, ?_, ?_, ?_, ?_, fun hh hg hr => State.leaveReset_held hh hg hr rfl, fun hh => ?_⟩
      · rw [hframe]
      · rw [hframe]; exact ⟨rfl, rfl, rfl, rfl, rfl, rfl⟩
      · rw [hframe]
      · rw [hframe]
      · rw [State.leaveReset_running (s := u) hh]; exact ⟨rfl, rfl⟩⟩

end Sys2Proof.Machine
end

section
/-! PROOFS. O60: the margin loop, the power loop, the thermal limits and the regulators. -/

namespace Sys2Proof.Machine

/-! ### Domains (R658, R660, R662, R674) -/

section

variable {s : State} {d e : Nat}

theorem State.domain_setDomain_self (h : d < s.pwr.domains.length) (x : PwrDomain) : (s.setDomain d x).domain d = x := by
  simp [State.domain, State.setDomain, h]

theorem State.setDomain_domain (s : State) (d : Nat) : s.setDomain d (s.domain d) = s := by
  have : s.pwr.domains.set d (s.domain d) = s.pwr.domains := by
    apply List.ext_getElem (by simp)
    intro k h1 h2
    rw [List.getElem_set]
    split
    · next hk => subst hk; simp [State.domain, h2]
    · rfl
  rw [State.setDomain, this]

/-- What a domain's regulator is sent changes only the step that it was sent, and what has been sent out. -/
theorem State.sendVout_spec (s : State) (d : Nat) : s.KeepsWork (s.sendVout d) ∧ (s.sendVout d).regs = s.regs ∧
    ∃ v, (s.sendVout d).pwr = (s.setDomain d { s.domain d with sent := v }).pwr := by
  by_cases h : s.fget PWR_STATUS_STAGE < 2 ∨ roundDiv (s.commanded d * 2 ^ (s.domain d).vexp) 10_000 = (s.domain d).sent
  · have hs : s.sendVout d = s := if_pos h
    rw [hs]
    exact ⟨.refl s, rfl, _, (congrArg State.pwr (s.setDomain_domain d)).symm⟩
  · rw [State.sendVout, if_neg h]
    exact ⟨⟨rfl, rfl, rfl, rfl, rfl, rfl⟩, rfl, _, rfl⟩

/-- The registers of a domain written with its target. -/
def State.showDomain (s : State) (d : Nat) : State :=
  (s.fset PWR_DOM_V_TARGET_MV (roundDiv (s.commanded d) 10) d).fset PWR_DOM_SLACK_AMBER (b2n (s.amberDomain d)) d

theorem State.refreshDomain_def (s : State) (d : Nat) : s.refreshDomain d = (s.showDomain d).sendVout d := rfl

theorem State.onlyRegs_showDomain (s : State) (d : Nat) : s.OnlyRegs (s.showDomain d) :=
  (State.OnlyRegs.refl s).fset.fset

theorem State.keepsWork_refreshDomain (s : State) (d : Nat) : s.KeepsWork (s.refreshDomain d) :=
  (s.onlyRegs_showDomain d).keepsWork.trans ((s.showDomain d).sendVout_spec d).1

theorem State.refreshDomain_pwr (s : State) (d : Nat) : ∃ v,
    (s.refreshDomain d).pwr = (s.setDomain d { s.domain d with sent := v }).pwr := by
  obtain ⟨-, -, v, h⟩ := (s.showDomain d).sendVout_spec d
  have hpwr : (s.showDomain d).pwr = s.pwr := (congrArg State.pwr (s.onlyRegs_showDomain d) :)
  exact ⟨v, by rw [State.refreshDomain_def, h]; simp only [State.setDomain, State.domain, hpwr]⟩

theorem State.domain_refreshDomain (h : d < s.pwr.domains.length) :
    ∃ v, (s.refreshDomain d).domain d = { s.domain d with sent := v } := by
  obtain ⟨v, hs⟩ := s.refreshDomain_pwr d
  refine ⟨v, ?_⟩
  rw [State.domain, hs]
  exact State.domain_setDomain_self h _

theorem State.rget_refreshDomain {a : Nat} (hv : a ≠ 0x6600 + 0x10 * d) (hs : a ≠ 0x6604 + 0x10 * d) :
    (s.refreshDomain d).rget a = s.rget a := by
  have hne : regAddr PWR_DOM_V d 0 ≠ a ∧ regAddr PWR_DOM_SLACK d 0 ≠ a := by
    simp only [regAddr, PWR_DOM_V, PWR_DOM_SLACK]; omega
  have hsent : (s.refreshDomain d).rget a = (s.showDomain d).rget a := State.rget_of_regs ((s.showDomain d).sendVout_spec d).2.1 a
  rw [hsent, State.showDomain, State.rget_fset_ne _ _ _ _ _ _ hne.2, State.rget_fset_ne _ _ _ _ _ _ hne.1]

theorem State.onlyRegs_showSlack (s : State) (d : Nat) : s.OnlyRegs (s.showSlack d) :=
  (State.OnlyRegs.refl s).fset.fset

theorem State.rget_showSlack {a : Nat} (h : a ≠ 0x6604 + 0x10 * d) : (s.showSlack d).rget a = s.rget a := by
  have hne : regAddr PWR_DOM_SLACK d 0 ≠ a := by simpa [regAddr, PWR_DOM_SLACK] using h.symm
  exact (State.rget_fset_ne _ PWR_DOM_SLACK_STRETCH _ _ _ _ hne).trans (State.rget_fset_ne _ PWR_DOM_SLACK_LEARNED_MV _ _ _ _ hne)

theorem State.onlyRegs_refreshCalibrated (s : State) : s.OnlyRegs s.refreshCalibrated := by
  unfold State.refreshCalibrated
  split
  · exact (State.OnlyRegs.refl s).fset
  · exact .refl s

theorem State.rget_refreshCalibrated {a : Nat} (h : a ≠ 0x6000) : s.refreshCalibrated.rget a = s.rget a := by
  unfold State.refreshCalibrated
  split
  · exact State.rget_fset_ne _ _ _ _ _ _ h.symm
  · rfl

/-- A domain whose rates, margin table and temperature are as before has the learned offset that its target gives. -/
theorem State.learned_congr {t : State} {x : PwrDomain} (hd : t.domain d = x) (hx : x.rise = (s.domain d).rise)
    (hr : x.rate = (s.domain d).rate) (hm : t.pwr.margin = s.pwr.margin) (ht : t.domainTemp d = s.domainTemp d) :
    t.learned d = x.target - (s.domain d).target + s.learned d := by
  simp only [State.learned, State.tableAt, hd, hx, hr, hm, ht]
  omega

theorem limitTarget_le {v : Int} {m : Nat} (hv : v ≤ m) (hm : 5500 ≤ m) : limitTarget v ≤ m := by
  unfold limitTarget
  split
  · exact hm
  · split <;> omega

end

/-! ### The margin loop (R660 to R663) -/

section

variable {s : State} {d : Nat}

/-- What the worst slack of a window makes of a domain. -/
def State.marginDomain (s : State) (d w : Nat) : PwrDomain :=
  let x := s.domain d
  let good := s.slackFloor ≤ w
  { x with target := limitTarget (x.target + if s.marginFree then s.marginMove w else max 0 (s.marginMove w)),
           held := if good then x.held + 1 else 0, starved := if !good && x.target == 8500 then x.starved + 1 else 0,
           emergency := x.emergency && !good }

/-- The loop's action on a worst slack, up to the report of a domain that has learned too much. -/
def State.marginMoved (s : State) (d w canary : Nat) : State :=
  ((((((s.fset PWR_DOM_SLACK_WORST w d).fset PWR_DOM_SLACK_CANARY canary d).setDomain d (s.marginDomain d w)).refreshDomain d).showSlack
    d).refreshCalibrated)

section

variable (hp : s.powered = true) (hst : 2 ≤ s.fget PWR_STATUS_STAGE) (he : s.elapsed (1 + d) 100_000 = true) (hd : d < 17)
include hp hst he hd

theorem execMarginLoopStep_slate (hs : s.slateRuns d = true) (x : Option (Nat × Nat)) :
    exec (.marginLoopStep d x) s = .next (s.mark (1 + d)) :=
  next_congr ((if_neg (by simp [hp, he]; omega)).trans (if_pos hs))

theorem execMarginLoopStep_none (hs : s.slateRuns d = false) : exec (.marginLoopStep d none) s =
    .next ((((s.mark (1 + d)).setDomain d { s.domain d with held := (s.domain d).held + 1 }).showSlack d).refreshCalibrated) :=
  next_congr ((if_neg (by simp [hp, he]; omega)).trans (if_neg (by rw [Bool.not_eq_true]; exact hs)))

theorem execMarginLoopStep_some (hs : s.slateRuns d = false) {w : Nat} (hw : w < 256) (canary : Nat) :
    exec (.marginLoopStep d (some (w, canary))) s = .next (let t := (s.mark (1 + d)).marginMoved d w canary
      if 400 < t.learned d ∨ 10 ≤ ((s.mark (1 + d)).marginDomain d w).starved then t.reportCanary d else t) := by
  have hmin : min 255 w = w := by omega
  refine next_congr ((if_neg (by simp [hp, he]; omega)).trans ((if_neg (by rw [Bool.not_eq_true]; exact hs)).trans ?_))
  simp only [hmin]
  rfl

end

/-- A domain that has taken what a worst slack makes of it, before its registers show it. -/
def State.withSlack (s : State) (d w canary : Nat) : State :=
  ((s.fset PWR_DOM_SLACK_WORST w d).fset PWR_DOM_SLACK_CANARY canary d).setDomain d (s.marginDomain d w)

/-- What shows once the domain's registers do: nothing but registers differs. -/
theorem State.marginMoved_regs (s : State) (d w canary : Nat) :
    ((s.withSlack d w canary).refreshDomain d).OnlyRegs (s.marginMoved d w canary) :=
  (State.onlyRegs_showSlack _ d).trans (State.onlyRegs_refreshCalibrated _)

theorem State.keepsWork_marginMoved (s : State) (d w canary : Nat) : s.KeepsWork (s.marginMoved d w canary) :=
  ((State.KeepsWork.refl s).fset.fset.setDomain.trans (State.keepsWork_refreshDomain _ d)).trans (s.marginMoved_regs d w canary).keepsWork

theorem State.marginMoved_pwr (s : State) (d w canary : Nat) :
    (s.marginMoved d w canary).pwr = ((s.withSlack d w canary).refreshDomain d).pwr :=
  (congrArg State.pwr (s.marginMoved_regs d w canary) :)

theorem State.domain_marginMoved (h : d < s.pwr.domains.length) (w canary : Nat) :
    ∃ v, (s.marginMoved d w canary).domain d = { s.marginDomain d w with sent := v } := by
  have hdom : (s.withSlack d w canary).domain d = s.marginDomain d w :=
    State.domain_setDomain_self (s := (s.fset PWR_DOM_SLACK_WORST w d).fset PWR_DOM_SLACK_CANARY canary d) h _
  obtain ⟨v, hv⟩ := State.domain_refreshDomain (s := s.withSlack d w canary) (d := d) (by simpa [State.withSlack, State.setDomain] using h)
  refine ⟨v, ?_⟩
  rw [State.domain, s.marginMoved_pwr, ← hdom]
  exact hv

theorem State.margin_marginMoved (s : State) (d w canary : Nat) : (s.marginMoved d w canary).pwr.margin = s.pwr.margin := by
  obtain ⟨v, hv⟩ := (s.withSlack d w canary).refreshDomain_pwr d
  rw [s.marginMoved_pwr, hv]
  rfl

theorem State.domainTemp_marginMoved (s : State) (d w canary : Nat) : (s.marginMoved d w canary).domainTemp d = s.domainTemp d := by
  refine State.fget_of_rget ?_
  have ha : regAddr PWR_DOM_TEMP_TEMP_C.reg d 0 = 0x6608 + 0x10 * d := by simp [regAddr, PWR_DOM_TEMP_TEMP_C, PWR_DOM_TEMP]
  have hs : ∀ u v, u + 0x10 * d ≠ v + 0x10 * d ∨ u = v := fun u v => by omega
  rw [ha, State.marginMoved, State.rget_refreshCalibrated (by omega), State.rget_showSlack (by omega),
    State.rget_refreshDomain (by omega) (by omega), State.rget_setDomain, State.rget_fset_ne, State.rget_fset_ne] <;>
  · simp only [regAddr, PWR_DOM_SLACK_WORST, PWR_DOM_SLACK_CANARY, PWR_DOM_SLACK]; omega

/-- The target moves by at most 5 mV up, so what the domain has learned does too. -/
theorem State.learned_marginMoved (h : d < s.pwr.domains.length) (ht : 5500 ≤ (s.domain d).target) (w canary : Nat) :
    (s.marginMoved d w canary).learned d ≤ s.learned d + 50 := by
  obtain ⟨v, hv⟩ := State.domain_marginMoved h w canary
  rw [State.learned_congr hv rfl rfl (s.margin_marginMoved d w canary) (s.domainTemp_marginMoved d w canary)]
  have hmove : (if s.marginFree then s.marginMove w else max 0 (s.marginMove w)) ≤ 50 := by
    unfold State.marginMove
    split <;> split <;> try split
    all_goals omega
  have hlimit : (s.marginDomain d w).target ≤ (s.domain d).target + 50 :=
    limitTarget_le (by push_cast; omega) (by omega)
  show ((s.marginDomain d w).target : Int) - _ + _ ≤ _
  omega

theorem marginLoopStep_some (hp : s.powered = true) (hst : 2 ≤ s.fget PWR_STATUS_STAGE) (he : s.elapsed (1 + d) 100_000 = true)
    (hd : d < 17) (hs : s.slateRuns d = false) (hlen : d < s.pwr.domains.length) {w : Nat} (hw : w < 256) (canary : Nat)
    (hlearned : s.learned d ≤ 350) (ht : 5500 ≤ (s.domain d).target) (hstarved : (s.domain d).starved < 9) :
    ∃ s' v, exec (.marginLoopStep d (some (w, canary))) s = .next s' ∧ s'.domain d = { s.marginDomain d w with sent := v } ∧
      s.KeepsWork s' := by
  have hu : s.KeepsWork (s.mark (1 + d)) := ⟨rfl, rfl, rfl, rfl, rfl, rfl⟩
  obtain ⟨v, hv⟩ := State.domain_marginMoved (s := s.mark (1 + d)) (d := d) hlen w canary
  have hle := State.learned_marginMoved (s := s.mark (1 + d)) hlen ht w canary
  have hsame : (s.mark (1 + d)).learned d = s.learned d := rfl
  have hcount : ((s.mark (1 + d)).marginDomain d w).starved < 10 := by
    have hsame : (s.mark (1 + d)).domain d = s.domain d := rfl
    unfold State.marginDomain
    dsimp only
    rw [hsame]
    split
    · exact Nat.succ_lt_succ hstarved
    · omega
  refine ⟨_, v, (execMarginLoopStep_some hp hst he hd hs hw canary).trans (next_congr (if_neg ?_)), hv,
    hu.trans (State.keepsWork_marginMoved _ d w canary)⟩
  omega

theorem marginLoopStep_none (hp : s.powered = true) (hst : 2 ≤ s.fget PWR_STATUS_STAGE) (he : s.elapsed (1 + d) 100_000 = true)
    (hd : d < 17) (hs : s.slateRuns d = false) (hlen : d < s.pwr.domains.length) :
    ∃ s', exec (.marginLoopStep d none) s = .next s' ∧ (s'.domain d).target = (s.domain d).target ∧
      (s'.domain d).held = (s.domain d).held + 1 ∧ s.KeepsWork s' := by
  let u := (s.mark (1 + d)).setDomain d { s.domain d with held := (s.domain d).held + 1 }
  have hregs : u.OnlyRegs ((u.showSlack d).refreshCalibrated) := (u.onlyRegs_showSlack d).trans (State.onlyRegs_refreshCalibrated _)
  have hdom : ((u.showSlack d).refreshCalibrated).domain d = { s.domain d with held := (s.domain d).held + 1 } := by
    have hpwr : ((u.showSlack d).refreshCalibrated).pwr = u.pwr := (congrArg State.pwr hregs :)
    rw [State.domain, hpwr]
    exact State.domain_setDomain_self (s := s.mark (1 + d)) hlen _
  have hu : s.KeepsWork u := ⟨rfl, rfl, rfl, rfl, rfl, rfl⟩
  exact ⟨_, execMarginLoopStep_none hp hst he hd hs, by rw [hdom], by rw [hdom], hu.trans hregs.keepsWork⟩

end

/-! ### A canary's emergency (R661) -/

section

variable {s : State} {d slack : Nat}

/-- The domain that a canary's emergency makes. -/
def State.emergencyDomain (s : State) (d : Nat) : PwrDomain :=
  { s.domain d with emergency := true, target := if s.slateRuns d then (s.domain d).target else limitTarget ((s.domain d).target + 100) }

theorem canaryEmergency_below (hp : s.powered = true) (hst : 2 ≤ s.fget PWR_STATUS_STAGE) (hd : d < 17) (hlen : d < s.pwr.domains.length)
    (h : slack < s.slackEmergency) : ∃ s' v, exec (.canaryEmergency d slack) s = .next s' ∧
      s'.domain d = { s.emergencyDomain d with sent := v } ∧ s.KeepsWork s' := by
  let u := (s.bump PWR_DOM_SLACK_EMERG 1 d).setDomain d (s.emergencyDomain d)
  obtain ⟨v, hv⟩ := State.domain_refreshDomain (s := u) (d := d) (by simpa [u, State.setDomain] using hlen)
  have hregs := (u.refreshDomain d).onlyRegs_showSlack d
  refine ⟨_, v, next_congr (if_neg (by simp [hp]; omega)), ?_,
    ((State.KeepsWork.refl s).bump.setDomain.trans (u.keepsWork_refreshDomain d)).trans hregs.keepsWork⟩
  have hpwr : ((u.refreshDomain d).showSlack d).pwr = (u.refreshDomain d).pwr := (congrArg State.pwr hregs :)
  have hdom : u.domain d = s.emergencyDomain d := State.domain_setDomain_self (s := s.bump PWR_DOM_SLACK_EMERG 1 d) hlen _
  show State.domain ((u.refreshDomain d).showSlack d) d = _
  rw [State.domain, hpwr, ← hdom]
  exact hv

theorem canaryEmergency_above (h : s.slackEmergency ≤ slack) : exec (.canaryEmergency d slack) s = .next s :=
  next_congr (if_pos (.inr (.inr (.inr h))))

end

end Sys2Proof.Machine
end

section
/-! PROOFS. O60, continued: the power loop, the thermal limits and the regulators. -/

namespace Sys2Proof.Machine

/-! ### The power windows and the guard of the package (R664, R666) -/

section

variable {s : State} {d a : Nat}

theorem saturate_eq_min (m x : Nat) : saturate m x = min m x := by unfold saturate; split <;> omega

/-- The registers of what each domain draws. -/
def State.showDraws (s : State) (doms : List Nat) : State :=
  (List.range 17).foldl (fun s d => s.fset PWR_DOM_TEMP_POWER_W (saturate 0xFFFF (ceilDiv (doms.getD d 0) 1000)) d) s

/-- What a chamber draws, shown and noted. -/
def State.noteDraw (doms : List Nat) (bytes : List (Nat × Nat)) (s : State) (n : Nat) : State :=
  if (s.chamber n).kind == 0 then s else
  let draw := s.drawOf n doms (bytes.getD n (0, 0))
  let s := s.fset PWR_CH_POWER_DRAW_W (saturate 0xFFFF (ceilDiv draw 1000)) n
  let old := smGet (fun _ => []) s.pwr.draws n
  { s with pwr := { s.pwr with draws := smPut (fun _ => []) s.pwr.draws n ((draw :: old).take 10) } }

/-- The registers of what the package draws. -/
def State.showPackage (s : State) (w : Nat) : State := (s.fset PWR_PKG_NOW_W w).fset PWR_PKG_MAX_W (max w (s.fget PWR_PKG_MAX_W))

/-- The window's measurements, before the guard. -/
def State.measured (s : State) (doms : List Nat) (bytes : List (Nat × Nat)) (pkg : Nat) : State :=
  (((List.range 16).foldl (State.noteDraw doms bytes) ((s.mark 0).showDraws doms)).showPackage
    (saturate 0xFFFF (ceilDiv pkg 1000))).addEnergy pkg

theorem execPowerWindow_due (hp : s.powered = true) (hst : 2 ≤ s.fget PWR_STATUS_STAGE) (he : s.elapsed 0 10_000 = true)
    (doms : List Nat) (bytes : List (Nat × Nat)) (pkg : Nat) : exec (.powerWindow doms bytes pkg) s =
      .next (let t := s.measured doms bytes pkg
        if t.capW < saturate 0xFFFF (ceilDiv pkg 1000) ∧ t.pwr.guardAt.isNone = true then t.setGuard true else t) := by
  show execPowerWindow doms bytes pkg s = _
  rw [execPowerWindow, if_neg (by simp [hp, he]; omega)]
  extract_lets s₁ s₂ s₃ w s₄ s₅ t
  have ht : s₅ = t := rfl
  rw [ht]

/-- What the work, the clock and the guard share: an operation on the draws changes none. -/
def State.SameGuard (s t : State) : Prop := s.KeepsWork t ∧ t.now = s.now ∧ t.pwr.guardAt = s.pwr.guardAt

theorem State.SameGuard.trans {s t u : State} (h : s.SameGuard t) (h' : t.SameGuard u) : s.SameGuard u :=
  ⟨h.1.trans h'.1, h'.2.1.trans h.2.1, h'.2.2.trans h.2.2⟩

theorem State.SameGuard.of_onlyRegs {s t : State} (h : s.OnlyRegs t) : s.SameGuard t :=
  ⟨h.keepsWork, (congrArg State.now h :), (congrArg (fun s => s.pwr.guardAt) h :)⟩

theorem State.noteDraw_frame (doms : List Nat) (bytes : List (Nat × Nat)) (s : State) (n : Nat) :
    s.SameGuard (s.noteDraw doms bytes n) ∧ ∀ a < 0x6800, (s.noteDraw doms bytes n).rget a = s.rget a := by
  by_cases hk : ((s.chamber n).kind == 0) = true
  · rw [State.noteDraw, if_pos hk]
    exact ⟨⟨.refl s, rfl, rfl⟩, fun _ _ => rfl⟩
  · rw [State.noteDraw, if_neg hk]
    extract_lets draw u old p
    have hu : s.OnlyRegs u := (State.OnlyRegs.refl s).fset
    refine ⟨⟨hu.keepsWork.pwr, (congrArg State.now hu :), (congrArg (fun s => s.pwr.guardAt) hu :)⟩, fun a ha => ?_⟩
    refine (State.rget_with_pwr u _ a).trans (State.rget_fset_ne _ PWR_CH_POWER_DRAW_W _ n 0 _ ?_)
    simp only [regAddr, PWR_CH_POWER_DRAW_W, PWR_CH_POWER]
    omega

theorem State.noteDraws_frame (doms : List Nat) (bytes : List (Nat × Nat)) (s : State) (l : List Nat) :
    s.SameGuard (l.foldl (State.noteDraw doms bytes) s) ∧
      ∀ a < 0x6800, (l.foldl (State.noteDraw doms bytes) s).rget a = s.rget a := by
  induction l generalizing s with
  | nil => exact ⟨⟨.refl s, rfl, rfl⟩, fun _ _ => rfl⟩
  | cons n l ih =>
    obtain ⟨h, hr⟩ := s.noteDraw_frame doms bytes n
    obtain ⟨h', hr'⟩ := ih (s.noteDraw doms bytes n)
    exact ⟨h.trans h', fun a ha => (hr' a ha).trans (hr a ha)⟩

theorem State.onlyRegs_showDraws (s : State) (doms : List Nat) : s.OnlyRegs (s.showDraws doms) :=
  (State.OnlyRegs.refl s).foldl (fun u _ => (State.OnlyRegs.refl u).fset) _

theorem State.rget_showDraws (s : State) (doms : List Nat) (ha : a < 0x6608) : (s.showDraws doms).rget a = s.rget a := by
  refine State.rget_foldl (fun u d => State.rget_fset_ne _ _ _ _ _ _ ?_) _ _
  simp only [regAddr, PWR_DOM_TEMP_POWER_W, PWR_DOM_TEMP]
  omega

theorem State.onlyRegs_showPackage (s : State) (w : Nat) : s.OnlyRegs (s.showPackage w) := (State.OnlyRegs.refl s).fset.fset

theorem State.addEnergy_frame (s : State) (pkg : Nat) : s.SameGuard (s.addEnergy pkg) ∧
    ∀ a, a ≠ 0x6018 → a ≠ 0x601C → (s.addEnergy pkg).rget a = s.rget a := by
  unfold State.addEnergy
  extract_lets e p u v add life
  have hv : u.OnlyRegs v := (State.OnlyRegs.refl u).pairSet
  refine ⟨⟨((State.KeepsWork.refl s).pwr.trans hv.keepsWork).hlm, (congrArg State.now hv :), (congrArg (fun s => s.pwr.guardAt) hv :)⟩,
    fun a hlo hhi => ?_⟩
  exact (State.rget_with_hlm v _ a).trans (u.rget_pairSet_ne (lo := PWR_ENERGY_LO_MJ) (hi := PWR_ENERGY_HI_MJ) hlo.symm hhi.symm)

theorem State.measured_frame (s : State) (doms : List Nat) (bytes : List (Nat × Nat)) (pkg : Nat) :
    s.SameGuard (s.measured doms bytes pkg) := by
  have hmark : s.SameGuard (s.mark 0) := ⟨⟨rfl, rfl, rfl, rfl, rfl, rfl⟩, rfl, rfl⟩
  exact (((hmark.trans (.of_onlyRegs (State.onlyRegs_showDraws _ doms))).trans (State.noteDraws_frame doms bytes _ _).1).trans
    (.of_onlyRegs (State.onlyRegs_showPackage _ _))).trans (State.addEnergy_frame _ pkg).1

/-- A register that the measurements write none of. -/
theorem State.rget_measured (s : State) (doms : List Nat) (bytes : List (Nat × Nat)) (pkg : Nat) (ha : a < 0x6800)
    (hlo : a ≠ 0x6018) (hhi : a ≠ 0x601C) (hpk : a ≠ 0x600C) :
    (s.measured doms bytes pkg).rget a = ((s.mark 0).showDraws doms).rget a := by
  rw [State.measured, (State.addEnergy_frame _ pkg).2 a hlo hhi, State.showPackage,
    State.rget_fset_ne _ PWR_PKG_MAX_W _ 0 0 _ hpk.symm, State.rget_fset_ne _ PWR_PKG_NOW_W _ 0 0 _ hpk.symm, (State.noteDraws_frame doms bytes _ _).2 a ha]

theorem State.capW_measured (s : State) (doms : List Nat) (bytes : List (Nat × Nat)) (pkg : Nat) :
    (s.measured doms bytes pkg).capW = s.capW := by
  have hcap : (s.measured doms bytes pkg).fget PWR_CTRL_CAP_W = s.fget PWR_CTRL_CAP_W := by
    have hmark : (s.mark 0).rget 0x6008 = s.rget 0x6008 := s.rget_with_pwr _ _
    exact State.fget_of_rget (((s.rget_measured doms bytes pkg (by decide) (by decide) (by decide) (by decide)).trans
      (State.rget_showDraws _ doms (by decide))).trans hmark)
  rw [State.capW, State.capW, hcap]

theorem State.fget_now_w_measured (s : State) (doms : List Nat) (bytes : List (Nat × Nat)) (pkg : Nat) :
    (s.measured doms bytes pkg).fget PWR_PKG_NOW_W = min 0xFFFF ((pkg + 999) / 1000) := by
  have hval : saturate 0xFFFF (ceilDiv pkg 1000) = min 0xFFFF ((pkg + 999) / 1000) := saturate_eq_min _ _
  rw [State.measured, State.fget_of_rget ((State.addEnergy_frame _ pkg).2 _ (by decide) (by decide)), State.showPackage,
    State.fget_fset_other _ _ _ _ _ _ _ _ (by decide) (by decide) (by decide), hval]
  exact State.fget_fset_of_lt _ _ _ (by decide) (by simp [PWR_PKG_NOW_W])

theorem State.fget_power_w_measured (s : State) (doms : List Nat) (bytes : List (Nat × Nat)) (pkg : Nat) (hd : d < 17) :
    (s.measured doms bytes pkg).fget PWR_DOM_TEMP_POWER_W d = min 0xFFFF ((doms.getD d 0 + 999) / 1000) := by
  have ha : regAddr PWR_DOM_TEMP_POWER_W.reg d 0 = 0x6608 + 0x10 * d := by simp [regAddr, PWR_DOM_TEMP_POWER_W, PWR_DOM_TEMP]
  have hval : saturate 0xFFFF (ceilDiv (doms.getD d 0) 1000) = min 0xFFFF ((doms.getD d 0 + 999) / 1000) := saturate_eq_min _ _
  rw [State.fget_of_rget (s.rget_measured doms bytes pkg (by omega) (by omega) (by omega) (by omega)), ← hval]
  refine State.fget_foldl_fset PWR_DOM_TEMP_POWER_W (fun d => saturate 0xFFFF (ceilDiv (doms.getD d 0) 1000)) (by decide) ?_ (by decide)
    _ _ (.inl (by simp; omega))
  rw [hval]
  simp [PWR_DOM_TEMP_POWER_W]

/-- A domain with or without the guard's delay. -/
def State.guardDomain (on : Bool) (s : State) (d : Nat) : State := (s.setDomain d { s.domain d with guard := on }).showSlack d

/-- Every gallery domain with or without the guard's delay. -/
def State.guardDomains (s : State) (on : Bool) : State := (List.range 16).foldl (State.guardDomain on) s

theorem State.guardDomain_frame (on : Bool) (u : State) (d : Nat) : u.KeepsWork (u.guardDomain on d) ∧
    (u.guardDomain on d).now = u.now ∧ ∀ a, a ≠ 0x6604 + 0x10 * d → (u.guardDomain on d).rget a = u.rget a := by
  have h := State.onlyRegs_showSlack (u.setDomain d { u.domain d with guard := on }) d
  have hnow : (u.guardDomain on d).now = (u.setDomain d { u.domain d with guard := on }).now := (congrArg State.now h :)
  exact ⟨(State.KeepsWork.refl u).setDomain.trans h.keepsWork, hnow, fun a ha => State.rget_showSlack ha⟩

theorem State.guardDomains_frame (s : State) (on : Bool) : s.KeepsWork (s.guardDomains on) ∧ (s.guardDomains on).now = s.now ∧
    ∀ a, (∀ e, a ≠ 0x6604 + 0x10 * e) → (s.guardDomains on).rget a = s.rget a :=
  ⟨(State.KeepsWork.refl s).foldl (fun u d => (u.guardDomain_frame on d).1) _,
    State.foldl_keeps State.now (fun u d => (u.guardDomain_frame on d).2.1) _ s,
    fun a ha => State.rget_foldl (fun u d => (u.guardDomain_frame on d).2.2 a (ha d)) _ s⟩

/-- Since when the guard acts. -/
def State.noteGuard (s : State) (on : Bool) : State := { s with pwr := { s.pwr with guardAt := if on then some s.now else none } }

theorem State.setGuard_def (s : State) (on : Bool) :
    s.setGuard on = ((s.guardDomains on).fset PWR_STATUS_PKG_LIMITED (b2n on)).noteGuard on := rfl

theorem State.rget_noteGuard (s : State) (on : Bool) (a : Nat) : (s.noteGuard on).rget a = s.rget a := rfl

theorem State.keepsWork_setGuard (s : State) (on : Bool) : s.KeepsWork (s.setGuard on) :=
  (s.guardDomains_frame on).1.fset.pwr

theorem State.guardAt_setGuard (s : State) (on : Bool) : (s.setGuard on).pwr.guardAt = if on then some s.now else none := by
  have h : ∀ u : State, (u.noteGuard on).pwr.guardAt = if on then some u.now else none := fun _ => rfl
  rw [State.setGuard_def, h, State.fset_now, (s.guardDomains_frame on).2.1]

theorem State.fget_limited_setGuard (s : State) (on : Bool) : (s.setGuard on).fget PWR_STATUS_PKG_LIMITED = b2n on := by
  rw [State.setGuard_def, State.fget_of_rget (State.rget_noteGuard _ on _)]
  refine State.fget_fset_of_lt (s.guardDomains on) 0 0 (by decide) ?_
  cases on <;> decide

theorem State.rget_setGuard (s : State) (on : Bool) (ha : ∀ e, a ≠ 0x6604 + 0x10 * e) (hs : a ≠ 0x6000) :
    (s.setGuard on).rget a = s.rget a := by
  rw [State.setGuard_def, State.rget_noteGuard, State.rget_fset_ne _ PWR_STATUS_PKG_LIMITED _ 0 0 _ hs.symm,
    (s.guardDomains_frame on).2.2 a ha]

theorem powerWindow_due (hp : s.powered = true) (hst : 2 ≤ s.fget PWR_STATUS_STAGE) (he : s.elapsed 0 10_000 = true) (hd : d < 17)
    (doms : List Nat) (bytes : List (Nat × Nat)) (pkg : Nat) :
    ∃ s', exec (.powerWindow doms bytes pkg) s = .next s' ∧ s'.fget PWR_PKG_NOW_W = min 0xFFFF ((pkg + 999) / 1000) ∧
      s'.fget PWR_DOM_TEMP_POWER_W d = min 0xFFFF ((doms.getD d 0 + 999) / 1000) ∧
      (s.capW < min 0xFFFF ((pkg + 999) / 1000) → s.pwr.guardAt = none → s'.pwr.guardAt = some s.now ∧
        s'.fget PWR_STATUS_PKG_LIMITED = 1) ∧ s.KeepsWork s' := by
  obtain ⟨hk, hnow, hguard⟩ := s.measured_frame doms bytes pkg
  have hval : saturate 0xFFFF (ceilDiv pkg 1000) = min 0xFFFF ((pkg + 999) / 1000) := saturate_eq_min _ _
  have hw := s.fget_now_w_measured doms bytes pkg
  have hpw := s.fget_power_w_measured doms bytes pkg hd
  have hexec := execPowerWindow_due hp hst he doms bytes pkg
  by_cases hc : (s.measured doms bytes pkg).capW < saturate 0xFFFF (ceilDiv pkg 1000) ∧
      (s.measured doms bytes pkg).pwr.guardAt.isNone = true
  · refine ⟨_, hexec.trans (next_congr (if_pos hc)), ?_, ?_, fun _ _ => ⟨?_, State.fget_limited_setGuard _ true⟩,
      hk.trans (State.keepsWork_setGuard _ true)⟩
    · rw [← hw]
      refine State.fget_of_rget (State.rget_setGuard _ true (fun e => ?_) ?_) <;>
        simp only [regAddr, PWR_PKG_NOW_W, PWR_PKG] <;> omega
    · rw [← hpw]
      refine State.fget_of_rget (State.rget_setGuard _ true (fun e => ?_) ?_) <;>
        simp only [regAddr, PWR_DOM_TEMP_POWER_W, PWR_DOM_TEMP] <;> omega
    · rw [State.guardAt_setGuard, if_pos rfl, hnow]
  · refine ⟨_, hexec.trans (next_congr (if_neg hc)), hw, hpw, fun hcap hnone => absurd ⟨?_, ?_⟩ hc, hk⟩
    · rw [s.capW_measured, hval]; exact hcap
    · rw [hguard, hnone]; rfl

theorem powerWindow_early (he : s.elapsed 0 10_000 = false) (doms : List Nat) (bytes : List (Nat × Nat)) (pkg : Nat) :
    exec (.powerWindow doms bytes pkg) s = .next s := next_congr (if_pos (.inr (.inr he)))

theorem execPkgGuardEnd_some {t : Nat} (h : s.pwr.guardAt = some t) : exec .pkgGuardEnd s =
    .next (if s.fget PWR_PKG_NOW_W ≤ s.capW ∨ t + 500_000 ≤ s.now then s.setGuard false else s) := by
  show execPkgGuardEnd s = _
  rw [execPkgGuardEnd, h]

theorem pkgGuardEnd_none (h : s.pwr.guardAt = none) : exec .pkgGuardEnd s = .next s := by
  show execPkgGuardEnd s = _
  rw [execPkgGuardEnd, h]

theorem pkgGuardEnd_ends {t : Nat} (h : s.pwr.guardAt = some t) (hc : s.fget PWR_PKG_NOW_W ≤ s.capW ∨ t + 500_000 ≤ s.now) :
    ∃ s', exec .pkgGuardEnd s = .next s' ∧ s'.pwr.guardAt = none ∧ s'.fget PWR_STATUS_PKG_LIMITED = 0 ∧ s.KeepsWork s' :=
  ⟨_, (execPkgGuardEnd_some h).trans (next_congr (if_pos hc)), s.guardAt_setGuard false, s.fget_limited_setGuard false,
    s.keepsWork_setGuard false⟩

theorem pkgGuardEnd_lasts {t : Nat} (h : s.pwr.guardAt = some t) (hc : s.capW < s.fget PWR_PKG_NOW_W) (ht : s.now < t + 500_000) :
    exec .pkgGuardEnd s = .next s :=
  (execPkgGuardEnd_some h).trans (next_congr (if_neg (by omega)))

end

end Sys2Proof.Machine
end

section
/-! PROOFS. O60, settled: the power loop's step, the thermal limits, the regulators, and the statement from its parts. -/

namespace Sys2Proof.Machine

/-! ### Rate targets and the power loop's step (R663, R665) -/

section

variable {s : State} {d a n g khz : Nat}

theorem State.keepsWork_setRate (s : State) (d khz : Nat) : s.KeepsWork (s.setRate d khz) := by
  have h : ∀ x, s.KeepsWork ((s.setDomain d x).refreshDomain d) := fun x =>
    (State.KeepsWork.refl s).setDomain.trans (State.keepsWork_refreshDomain _ d)
  unfold State.setRate
  extract_lets x v
  exact .ite (h _) (.ite (h _) (h _))

theorem State.keepsWork_moveRate (s : State) (n g khz : Nat) (lowered : Bool) : s.KeepsWork (s.moveRate n g khz lowered) := by
  unfold State.moveRate
  extract_lets top rate x
  exact (State.KeepsWork.refl s).setDomain.trans (State.keepsWork_setRate _ g rate)

theorem State.onlyRegs_refreshChamberPower (s : State) (n : Nat) : s.OnlyRegs (s.refreshChamberPower n) := by
  unfold State.refreshChamberPower
  extract_lets gs rates short capped s₁ s₂ s₃
  exact (State.OnlyRegs.refl s).fset.fset.fset.fset.fset

theorem State.onlyRegs_refreshDomainChamber (s : State) (d : Nat) : s.OnlyRegs (s.refreshDomainChamber d) := by
  unfold State.refreshDomainChamber
  split
  · exact s.onlyRegs_refreshChamberPower _
  · exact .refl s

/-- The power loop's action on one domain, for what the chamber drew and may draw. -/
def State.loopDomain (n drawn budget : Nat) (s : State) (g : Nat) : State :=
  let x := s.domain g
  if budget < drawn then s.moveRate n g (x.rate * 99 / 100) true
  else if 100 * drawn ≤ 97 * budget ∧ x.throttled = false then s.moveRate n g (x.rate * 1005 / 1000) false
  else if s.rateCeiling n < x.rate then s.moveRate n g x.rate false
  else s

theorem State.keepsWork_loopDomain (n drawn budget : Nat) (s : State) (g : Nat) : s.KeepsWork (s.loopDomain n drawn budget g) := by
  unfold State.loopDomain
  extract_lets x
  exact .ite (s.keepsWork_moveRate _ _ _ _) (.ite (s.keepsWork_moveRate _ _ _ _) (.ite (s.keepsWork_moveRate _ _ _ _) (.refl s)))

section

variable (hp : s.powered = true) (hlive : s.chLive n = true) (he : s.elapsed (20 + n) 100_000 = true)
include hp hlive he

theorem powerLoopStep_idle (h : smGet (fun _ => []) s.pwr.draws n = []) : exec (.powerLoopStep n) s = .next (s.mark (20 + n)) := by
  show execPowerLoopStep n s = _
  rw [execPowerLoopStep, if_neg (by simp [hp, hlive, he])]
  extract_lets t draws budget u
  have hd : draws = [] := h
  rw [if_pos (by rw [hd]; rfl)]

theorem execPowerLoopStep_draws {draws : List Nat} (h : smGet (fun _ => []) s.pwr.draws n = draws) (hne : draws ≠ []) :
    exec (.powerLoopStep n) s = .next (((s.galleriesOf n).foldl (State.loopDomain n draws.sum (s.budget n * draws.length))
      (s.mark (20 + n))).refreshChamberPower n) := by
  show execPowerLoopStep n s = _
  rw [execPowerLoopStep, if_neg (by simp [hp, hlive, he])]
  extract_lets t l budget u
  have hl : l = draws := h
  rw [if_neg (by rw [hl]; simpa using hne), ← hl]
  rfl

theorem powerLoopStep_keeps : ∃ s', exec (.powerLoopStep n) s = .next s' ∧ s.KeepsWork s' := by
  have hmark : s.KeepsWork (s.mark (20 + n)) := (State.KeepsWork.refl s).pwr
  by_cases h : smGet (fun _ => []) s.pwr.draws n = []
  · exact ⟨_, powerLoopStep_idle hp hlive he h, hmark⟩
  · exact ⟨_, execPowerLoopStep_draws hp hlive he rfl h,
      (hmark.foldl (fun u g => u.keepsWork_loopDomain _ _ _ g) _).trans (State.onlyRegs_refreshChamberPower _ n).keepsWork⟩

theorem powerLoopStep_over {draws : List Nat} (h : smGet (fun _ => []) s.pwr.draws n = draws) (hne : draws ≠ [])
    (hg : s.galleriesOf n = [g]) (hover : s.budget n * draws.length < draws.sum) : exec (.powerLoopStep n) s =
      .next (((s.mark (20 + n)).moveRate n g ((s.domain g).rate * 99 / 100) true).refreshChamberPower n) := by
  rw [execPowerLoopStep_draws hp hlive he h hne, hg, List.foldl_cons, List.foldl_nil, State.loopDomain, if_pos hover]
  rfl

theorem powerLoopStep_under {draws : List Nat} (h : smGet (fun _ => []) s.pwr.draws n = draws) (hne : draws ≠ [])
    (hg : s.galleriesOf n = [g]) (hspare : 100 * draws.sum ≤ 97 * (s.budget n * draws.length)) (ht : (s.domain g).throttled = false)
    (hle : draws.sum ≤ s.budget n * draws.length) : exec (.powerLoopStep n) s =
      .next (((s.mark (20 + n)).moveRate n g ((s.domain g).rate * 1005 / 1000) false).refreshChamberPower n) := by
  have ht' : ((s.mark (20 + n)).domain g).throttled = false := ht
  rw [execPowerLoopStep_draws hp hlive he h hne, hg, List.foldl_cons, List.foldl_nil, State.loopDomain, if_neg (by omega),
    if_pos ⟨hspare, ht'⟩]
  rfl

end

theorem powerLoopStep_early (he : s.elapsed (20 + n) 100_000 = false) : exec (.powerLoopStep n) s = .next s :=
  next_congr (if_pos (.inr (.inr he)))

theorem execRegulatorSettled_some (h : (s.domain d).rise = some khz) : exec (.regulatorSettled d) s =
    .next (if s.powered = false then s else (s.setDomain d { s.domain d with rate := khz, rise := none }).refreshDomainChamber d) := by
  show execRegulatorSettled d s = _
  rw [execRegulatorSettled, h]

theorem regulatorSettled_none (h : (s.domain d).rise = none) : exec (.regulatorSettled d) s = .next s := by
  show execRegulatorSettled d s = _
  rw [execRegulatorSettled, h]

theorem regulatorSettled_some (h : (s.domain d).rise = some khz) (hp : s.powered = true) (hlen : d < s.pwr.domains.length) :
    ∃ s', exec (.regulatorSettled d) s = .next s' ∧ (s'.domain d).rate = khz ∧ (s'.domain d).rise = none ∧ s.KeepsWork s' := by
  have hregs := State.onlyRegs_refreshDomainChamber (s.setDomain d { s.domain d with rate := khz, rise := none }) d
  have hpwr := (congrArg State.pwr hregs :)
  have hdom : ((s.setDomain d { s.domain d with rate := khz, rise := none }).refreshDomainChamber d).domain d =
      { s.domain d with rate := khz, rise := none } := by
    rw [State.domain, hpwr]
    exact State.domain_setDomain_self hlen _
  exact ⟨_, (execRegulatorSettled_some h).trans (next_congr (if_neg (by simp [hp]))), by rw [hdom], by rw [hdom],
    (State.KeepsWork.refl s).setDomain.trans hregs.keepsWork⟩

end

/-! ### Trips (R668) -/

section

variable {s t u : State} {a : Nat}

/-- The device stopped by a trip, before the stacks enter self refresh. -/
def State.tripped (s : State) (cause : Nat) : State :=
  { s with pwr := { s.pwr with halted := true, trip := cause }, pins := { s.pins with thermtripN := false } }

theorem State.rget_tripped (s : State) (cause a : Nat) : (s.tripped cause).rget a = s.rget a := rfl

/-- Every stack in self refresh. -/
def State.allSleep (s : State) : State := (List.range 16).foldl (fun s st => s.fset HBC_STATUS_LOW_POWER 1 st) s

theorem State.tripNow_def (s : State) (cause : Nat) :
    s.tripNow cause = if s.pwr.halted then s else (s.tripped cause).allSleep.noteBoard := rfl

theorem State.onlyRegs_allSleep (s : State) : s.OnlyRegs s.allSleep :=
  (State.OnlyRegs.refl s).foldl (fun u _ => (State.OnlyRegs.refl u).fset) _

theorem State.rget_allSleep (s : State) (ha : a < 0x10000) : s.allSleep.rget a = s.rget a := by
  refine State.rget_foldl (fun u st => State.rget_fset_ne _ HBC_STATUS_LOW_POWER _ st 0 _ ?_) _ _
  simp only [regAddr, HBC_STATUS_LOW_POWER, HBC_STATUS]
  omega

theorem State.keepsWork_tripNow (s : State) (cause : Nat) : s.KeepsWork (s.tripNow cause) := by
  have h : s.KeepsWork (s.tripped cause) := ⟨rfl, rfl, rfl, rfl, rfl, rfl⟩
  rw [State.tripNow_def]
  exact .ite (.refl s) (h.trans (State.onlyRegs_allSleep _).keepsWork).noteBoard

theorem State.rget_tripNow (s : State) (cause : Nat) (ha : a < 0x10000) : (s.tripNow cause).rget a = s.rget a := by
  rw [State.tripNow_def]
  split
  · rfl
  · rw [State.rget_noteBoard, State.rget_allSleep _ ha, State.rget_tripped]

theorem State.tripNow_running (h : s.pwr.halted = false) (cause : Nat) : (s.tripNow cause).pwr.halted = true ∧
    (s.tripNow cause).pwr.trip = cause ∧ (s.tripNow cause).pins.thermtripN = false := by
  have hregs := (s.tripped cause).onlyRegs_allSleep
  have hpwr : (s.tripped cause).allSleep.pwr = (s.tripped cause).pwr := (congrArg State.pwr hregs :)
  have hpins : (s.tripped cause).allSleep.pins = (s.tripped cause).pins := (congrArg State.pins hregs :)
  rw [State.tripNow_def, if_neg (by simp [h]), State.noteBoard_pwr, State.noteBoard_pins, hpwr, hpins]
  exact ⟨rfl, rfl, rfl⟩

theorem State.keepsWork_supplyTrip (s : State) : s.KeepsWork s.supplyTrip := .ite (s.keepsWork_tripNow 3) (.refl s)

theorem State.rget_supplyTrip (s : State) (ha : a < 0x10000) : s.supplyTrip.rget a = s.rget a := by
  unfold State.supplyTrip
  split
  · exact s.rget_tripNow 3 ha
  · rfl

/-! ### The thermal limits (R667) -/

/-- What the limits keep: the work, what stops the device, and the register of the hottest sensor. -/
def State.SameHeat (s t : State) : Prop := s.KeepsWork t ∧ t.pwr.halted = s.pwr.halted ∧ t.rget 0x6010 = s.rget 0x6010

theorem State.SameHeat.refl (s : State) : s.SameHeat s := ⟨.refl s, rfl, rfl⟩

theorem State.SameHeat.trans (h : s.SameHeat t) (h' : t.SameHeat u) : s.SameHeat u :=
  ⟨h.1.trans h'.1, h'.2.1.trans h.2.1, h'.2.2.trans h.2.2⟩

theorem State.SameHeat.foldl {α : Type} {f : State → α → State} (hf : ∀ (u : State) x, u.SameHeat (f u x)) (l : List α) (s : State) :
    s.SameHeat (l.foldl f s) := by
  induction l generalizing s with
  | nil => exact .refl s
  | cons x l ih => exact (hf s x).trans (ih _)

theorem State.sameHeat_setDomain (s : State) (d : Nat) (x : PwrDomain) : s.SameHeat (s.setDomain d x) :=
  ⟨(State.KeepsWork.refl s).setDomain, rfl, rfl⟩

theorem State.sameHeat_refreshDomain (s : State) (d : Nat) : s.SameHeat (s.refreshDomain d) := by
  obtain ⟨v, h⟩ := s.refreshDomain_pwr d
  refine ⟨s.keepsWork_refreshDomain d, ?_, State.rget_refreshDomain (by omega) (by omega)⟩
  rw [h]
  rfl

theorem State.sameHeat_setRate (s : State) (d khz : Nat) : s.SameHeat (s.setRate d khz) := by
  have h : ∀ x, s.SameHeat ((s.setDomain d x).refreshDomain d) := fun x =>
    (s.sameHeat_setDomain d x).trans (State.sameHeat_refreshDomain _ d)
  unfold State.setRate
  extract_lets x v
  by_cases h1 : khz = x.rate
  · rw [if_pos h1]; exact h _
  by_cases h2 : x.rate < khz
  · rw [if_neg h1, if_pos h2]; exact h _
  · rw [if_neg h1, if_neg h2]; exact h _

theorem State.sameHeat_throttle (s : State) (d : Nat) : s.SameHeat (s.throttle d) := by
  unfold State.throttle
  extract_lets x t pooled on v
  have hv : s.SameHeat v := s.sameHeat_setDomain d _
  split
  · exact (hv.trans ⟨(State.KeepsWork.refl v).pwr, rfl, rfl⟩).trans (State.sameHeat_setRate _ d _)
  · exact hv

theorem State.sameHeat_refreshChamberPower (s : State) (n : Nat) : s.SameHeat (s.refreshChamberPower n) := by
  have h := s.onlyRegs_refreshChamberPower n
  refine ⟨h.keepsWork, (congrArg (fun s => s.pwr.halted) h :), ?_⟩
  unfold State.refreshChamberPower
  extract_lets gs rates short capped s₁ s₂ s₃
  have hn : regAddr PWR_CH_POWER n 0 ≠ 0x6010 ∧ regAddr GFE_SCH_POWER n 0 ≠ 0x6010 := by
    simp only [regAddr, PWR_CH_POWER, GFE_SCH_POWER]; omega
  have h₁ : s₁.rget 0x6010 = s.rget 0x6010 :=
    (State.rget_fset_ne _ GFE_SCH_POWER_CAPPED _ n 0 _ hn.2).trans (State.rget_fset_ne _ PWR_CH_POWER_CAPPED _ n 0 _ hn.1)
  have h₂ : s₂.rget 0x6010 = s₁.rget 0x6010 := State.rget_fset_ne _ PWR_CH_POWER_THROTTLED _ n 0 _ hn.1
  have h₃ : s₃.rget 0x6010 = s₂.rget 0x6010 := State.rget_fset_ne _ PWR_CH_POWER_RATE_MHZ _ n 0 _ hn.1
  rw [State.rget_fset_ne _ PWR_STATUS_THROTTLE _ 0 0 _ (by decide), h₃, h₂, h₁]

/-- The registers of the sensors' readings. -/
def State.showTemps (s : State) (temps : List Nat) : State :=
  (List.range 17).foldl (fun s d => s.fset PWR_DOM_TEMP_TEMP_C (saturate 255 (temps.getD d 0)) d) s

/-- The sensors read, before the limits act: `h` is the hottest. -/
def State.heatRead (s : State) (temps : List Nat) (h : Nat) : State :=
  ((((s.mark 40).showTemps temps).fset PWR_THERM_HOT_C (saturate 255 (temps.getD h 0))).fset PWR_THERM_HOT_DOMAIN h).noteHeat
    (saturate 255 (temps.getD h 0))

/-- The limits act on every domain, and show. -/
def State.throttleAll (s : State) : State :=
  let s := (List.range 16).foldl (fun s d => s.throttle d) s
  ((List.range 16).filter (fun n => (s.chamber n).kind != 0)).foldl (fun s n => s.refreshChamberPower n) s

theorem State.sameHeat_throttleAll (s : State) : s.SameHeat s.throttleAll := by
  unfold State.throttleAll
  extract_lets t
  exact (State.SameHeat.foldl State.sameHeat_throttle _ s).trans (State.SameHeat.foldl State.sameHeat_refreshChamberPower _ t)

theorem State.noteHeat_eq (s : State) (hot : Nat) : ∃ h, s.noteHeat hot = { s with hlm := h } := by
  unfold State.noteHeat
  extract_lets h low top
  split
  · exact ⟨_, rfl⟩
  · exact ⟨_, rfl⟩

theorem argMax_mem {α : Type} {key : α → Nat} {l : List α} {x : α} (h : argMax key l = some x) : x ∈ l := by
  induction l generalizing x with
  | nil => simp [argMax] at h
  | cons y l ih =>
    rw [argMax] at h
    split at h
    · simp_all
    · next z hz =>
      split at h
      · obtain rfl : z = x := by simpa using h
        exact List.mem_cons_of_mem _ (ih hz)
      · simp_all

theorem execThermalRead_due (he : s.elapsed 40 10_000 = true) {temps : List Nat} {h : Nat}
    (hm : argMax (fun d => saturate 255 (temps.getD d 0)) (List.range 17) = some h) : exec (.thermalRead temps) s =
      .next (let t := s.heatRead temps h
        if t.powered = false then t else
        if 115 ≤ saturate 255 (temps.getD h 0) then t.throttleAll.tripNow 1 else t.throttleAll.supplyTrip) := by
  show execThermalRead temps s = _
  rw [execThermalRead, if_neg (by simp [he])]
  extract_lets s₁ temp s₂ hottest s₃ s₄ s₅ t
  have hh : hottest = h := congrArg (·.getD 0) hm
  subst hh
  have ht : s₃ = t := rfl
  have h₅ : s₅ = t.throttleAll := rfl
  rw [h₅, ht]

theorem State.keepsWork_heatRead (s : State) (temps : List Nat) (h : Nat) : s.KeepsWork (s.heatRead temps h) := by
  have hmark : s.KeepsWork (s.mark 40) := (State.KeepsWork.refl s).pwr
  have htemps : (s.mark 40).KeepsWork ((s.mark 40).showTemps temps) :=
    (State.KeepsWork.refl _).foldl (fun u _ => (State.KeepsWork.refl u).fset) _
  obtain ⟨x, hx⟩ := State.noteHeat_eq ((((s.mark 40).showTemps temps).fset PWR_THERM_HOT_C (saturate 255 (temps.getD h 0))).fset
    PWR_THERM_HOT_DOMAIN h) (saturate 255 (temps.getD h 0))
  rw [State.heatRead, hx]
  exact (hmark.trans htemps).fset.fset.hlm

theorem State.pwr_heatRead (s : State) (temps : List Nat) (h : Nat) : (s.heatRead temps h).pwr = (s.mark 40).pwr := by
  obtain ⟨x, hx⟩ := State.noteHeat_eq ((((s.mark 40).showTemps temps).fset PWR_THERM_HOT_C (saturate 255 (temps.getD h 0))).fset
    PWR_THERM_HOT_DOMAIN h) (saturate 255 (temps.getD h 0))
  have htemps : (s.mark 40).OnlyRegs ((s.mark 40).showTemps temps) :=
    (State.OnlyRegs.refl _).foldl (fun u _ => (State.OnlyRegs.refl u).fset) _
  have hpwr : ((s.mark 40).showTemps temps).pwr = (s.mark 40).pwr := (congrArg State.pwr htemps :)
  rw [State.heatRead, hx, State.fset_pwr, State.fset_pwr, hpwr]

theorem State.fget_heatRead (s : State) (temps : List Nat) {h : Nat} (hh : h < 17) :
    (s.heatRead temps h).fget PWR_THERM_HOT_C = min 255 (temps.getD h 0) ∧ (s.heatRead temps h).fget PWR_THERM_HOT_DOMAIN = h := by
  let u := ((s.mark 40).showTemps temps).fset PWR_THERM_HOT_C (saturate 255 (temps.getD h 0))
  obtain ⟨x, hx⟩ := State.noteHeat_eq (u.fset PWR_THERM_HOT_DOMAIN h) (saturate 255 (temps.getD h 0))
  have hr : ∀ f : Fld, (s.heatRead temps h).fget f = (u.fset PWR_THERM_HOT_DOMAIN h).fget f := fun f => by
    rw [State.heatRead, hx]
    exact State.fget_of_rget (State.rget_with_hlm _ _ _)
  rw [hr, hr, State.fget_fset_other _ _ PWR_THERM_HOT_C _ _ _ _ _ (by decide) (by decide) (by decide), ← saturate_eq_min]
  exact ⟨State.fget_fset_of_lt _ 0 0 (by decide) (by rw [saturate_eq_min]; simp [PWR_THERM_HOT_C]),
    State.fget_fset_of_lt _ 0 0 (by decide) (by simp [PWR_THERM_HOT_DOMAIN]; omega)⟩

theorem State.powered_congr (h : t.pwr = s.pwr) : t.powered = s.powered := by simp only [State.powered, h]

theorem State.powered_mark (s : State) (k : Nat) : (s.mark k).powered = s.powered := rfl

theorem State.halted_of_powered (h : s.powered = true) : s.pwr.halted = false := by
  simp only [State.powered, Bool.and_eq_true, Bool.not_eq_true'] at h
  exact h.1.2

theorem thermalRead_due (he : s.elapsed 40 10_000 = true) {temps : List Nat} {h : Nat}
    (hm : argMax (fun d => min 255 (temps.getD d 0)) (List.range 17) = some h) :
    ∃ s', exec (.thermalRead temps) s = .next s' ∧ s'.fget PWR_THERM_HOT_C = min 255 (temps.getD h 0) ∧
      s'.fget PWR_THERM_HOT_DOMAIN = h ∧ s.KeepsWork s' ∧
      (s.powered = true → 115 ≤ temps.getD h 0 → s'.pwr.halted = true ∧ s'.pwr.trip = 1 ∧ s'.pins.thermtripN = false) := by
  have hexec := execThermalRead_due he (temps := temps) (h := h) (by simpa only [saturate_eq_min] using hm)
  obtain ⟨hc, hd⟩ := s.fget_heatRead temps (h := h) (by simpa using argMax_mem hm)
  have hpow : (s.heatRead temps h).powered = s.powered := (State.powered_congr (s.pwr_heatRead temps h)).trans (s.powered_mark 40)
  obtain ⟨hall, hhalt, hhot⟩ := (s.heatRead temps h).sameHeat_throttleAll
  have hk := s.keepsWork_heatRead temps h
  have hsame : ∀ {u : State}, u.rget 0x6010 = (s.heatRead temps h).throttleAll.rget 0x6010 →
      u.fget PWR_THERM_HOT_C = min 255 (temps.getD h 0) ∧ u.fget PWR_THERM_HOT_DOMAIN = h := fun hu =>
    ⟨(State.fget_of_rget (hu.trans hhot)).trans hc, (State.fget_of_rget (hu.trans hhot)).trans hd⟩
  cases hp : s.powered with
  | false =>
    exact ⟨_, hexec.trans (next_congr (if_pos (hpow.trans hp))), hc, hd, hk, fun h => absurd h (by decide)⟩
  | true =>
    have hrun : (s.heatRead temps h).throttleAll.pwr.halted = false :=
      hhalt.trans (State.halted_of_powered (hpow.trans hp))
    have hnot : ¬ (s.heatRead temps h).powered = false := by simp [hpow, hp]
    by_cases hot : 115 ≤ saturate 255 (temps.getD h 0)
    · obtain ⟨h1, h2⟩ := hsame (State.rget_tripNow (s.heatRead temps h).throttleAll 1 (by decide))
      exact ⟨_, hexec.trans (next_congr ((if_neg hnot).trans (if_pos hot))), h1, h2, (hk.trans hall).trans (State.keepsWork_tripNow _ 1),
        fun _ _ => State.tripNow_running hrun 1⟩
    · obtain ⟨h1, h2⟩ := hsame (State.rget_supplyTrip (s.heatRead temps h).throttleAll (by decide))
      refine ⟨_, hexec.trans (next_congr ((if_neg hnot).trans (if_neg hot))), h1, h2, (hk.trans hall).trans (State.keepsWork_supplyTrip _),
        fun _ h115 => absurd ?_ hot⟩
      rw [saturate_eq_min]
      omega

theorem thermalRead_early (he : s.elapsed 40 10_000 = false) (temps : List Nat) : exec (.thermalRead temps) s = .next s :=
  next_congr (if_pos he)

end

/-! ### The regulators (R646, R701) -/

section

variable {s : State} {d : Nat}

/-- Noting since when a condition lasts touches the timers only. -/
theorem State.lasting_eq (s : State) (k : Nat) (on : Bool) : ∃ p, (s.lasting k on).2 = { s with pwr := p } := by
  unfold State.lasting
  split
  · exact ⟨_, rfl⟩
  · split
    · exact ⟨s.pwr, rfl⟩
    · exact ⟨_, rfl⟩

/-- A regulator's four values asked for. -/
def State.pollRegulator (s : State) (d : Nat) : State :=
  [0x8B, 0x8C, 0x8D, 0x79].foldl (fun s c => s.emit (.pmbus d c 0)) (s.mark (60 + d))

theorem State.pollRegulator_frame (s : State) (d : Nat) : s.KeepsWork (s.pollRegulator d) ∧
    (s.pollRegulator d).out = s.out ++ [.pmbus d 0x8B 0, .pmbus d 0x8C 0, .pmbus d 0x8D 0, .pmbus d 0x79 0] ∧
    (s.pollRegulator d).pwr = (s.mark (60 + d)).pwr := by
  refine ⟨(State.KeepsWork.refl s).pwr.foldl (fun u _ => (State.KeepsWork.refl u).emit) _, ?_, rfl⟩
  simp [State.pollRegulator, State.emit, State.mark]

/-- What a regulator that answers makes of the state, before the supply conditions are judged. -/
def State.regulatorRead (s : State) (d vout : Nat) (fault : Bool) : State :=
  let tenths := vout * 10_000 / 2 ^ (s.domain d).vexp
  let s := s.fset PWR_DOM_V_MEASURED_MV (saturate 0xFFFF (roundDiv tenths 10)) d
  let s := (s.lasting (80 + d) (tenths + 500 ≤ s.commanded d)).2
  (s.lasting (100 + d) fault).2

theorem State.regulatorRead_eq (s : State) (d vout : Nat) (fault : Bool) : ∃ p, s.regulatorRead d vout fault =
    { s.fset PWR_DOM_V_MEASURED_MV (saturate 0xFFFF (roundDiv (vout * 10_000 / 2 ^ (s.domain d).vexp) 10)) d with pwr := p } := by
  unfold State.regulatorRead
  extract_lets tenths u v
  obtain ⟨p, hp⟩ := u.lasting_eq (80 + d) (tenths + 500 ≤ u.commanded d)
  obtain ⟨q, hq⟩ := v.lasting_eq (100 + d) fault
  have hv : v = { u with pwr := p } := hp
  exact ⟨q, by rw [hq, hv]⟩

section

variable (hp : s.powered = true) (hst : 2 ≤ s.fget PWR_STATUS_STAGE) (hm : (s.domain d).mute = false)
  (he : s.elapsed (60 + d) 10_000_000 = true) (hd : d < 17)
include hp hst hm he hd

theorem execPmbusPoll_due (acked : Bool) (vout : Nat) (fault : Bool) : exec (.pmbusPoll d acked vout fault) s =
    .next (if !acked then (s.pollRegulator d).muteDomain d else ((s.pollRegulator d).regulatorRead d vout fault).supplyTrip) := by
  show execPmbusPoll d acked vout fault s = _
  rw [execPmbusPoll, if_neg (by simp [hp, hm, he]; omega)]
  extract_lets u tenths v w
  have hu : u = s.pollRegulator d := rfl
  have hw : (w.lasting (100 + d) fault).2 = (s.pollRegulator d).regulatorRead d vout fault := rfl
  rw [hw, hu]

theorem pmbusPoll_acked (vout : Nat) (fault : Bool) : ∃ v : State, exec (.pmbusPoll d true vout fault) s = .next v.supplyTrip ∧
    s.KeepsWork v ∧ s.KeepsWork v.supplyTrip ∧
    v.out = s.out ++ [.pmbus d 0x8B 0, .pmbus d 0x8C 0, .pmbus d 0x8D 0, .pmbus d 0x79 0] ∧
    v.fget PWR_DOM_V_MEASURED_MV d = min 0xFFFF (roundDiv (vout * 10_000 / 2 ^ (s.domain d).vexp) 10) := by
  obtain ⟨hk, hout, hpwr⟩ := s.pollRegulator_frame d
  obtain ⟨p, hread⟩ := (s.pollRegulator d).regulatorRead_eq d vout fault
  have hexp : ((s.pollRegulator d).domain d).vexp = (s.domain d).vexp := by rw [State.domain, hpwr]; rfl
  have hv : s.KeepsWork ((s.pollRegulator d).regulatorRead d vout fault) := by rw [hread]; exact hk.fset.pwr
  refine ⟨_, execPmbusPoll_due hp hst hm he hd true vout fault, hv, hv.trans (State.keepsWork_supplyTrip _), ?_, ?_⟩
  · rw [hread]; exact hout
  · rw [hread, hexp, State.fget_of_rget (State.rget_with_pwr _ _ _), saturate_eq_min]
    exact State.fget_fset_of_lt _ d 0 (by decide) (by simp [PWR_DOM_V_MEASURED_MV])

end

theorem State.keepsWork_deviceFails (s : State) (cause : Nat) : s.KeepsWork (s.deviceFails cause) := by
  unfold State.deviceFails
  extract_lets p u
  have hu : s.KeepsWork u := (State.KeepsWork.refl s).pins
  exact (State.KeepsWork.ite hu hu.fset.fset).noteBoard

theorem State.pwr_deviceFails (s : State) (cause : Nat) : (s.deviceFails cause).pwr = s.pwr := by
  unfold State.deviceFails
  extract_lets p u
  have hu : u.pwr = s.pwr := rfl
  rw [State.noteBoard_pwr]
  split
  · exact hu
  · rw [State.fset_pwr, State.fset_pwr, hu]

theorem State.fget_deviceFails (s : State) (cause : Nat) : (s.deviceFails cause).fget HLM_DEVICE_STATE = 2 := by
  unfold State.deviceFails
  extract_lets p u
  rw [State.fget_of_rget (State.rget_noteBoard _ _)]
  split
  · next h => simpa using h
  · rw [State.fget_fset_other _ _ _ _ _ _ _ _ (by decide) (by decide) (by decide)]
    exact State.fget_fset_of_lt _ 0 0 (by decide) (by decide)

theorem State.muteDomain_spec {s : State} (hd : d < 17) (hlen : d < s.pwr.domains.length) : ((s.muteDomain d).domain d).mute = true ∧
    s.KeepsWork (s.muteDomain d) ∧ (d = 16 → (s.muteDomain d).fget HLM_DEVICE_STATE = 2) := by
  have hdom : ((s.setDomain d { s.domain d with mute := true }).domain d).mute = true := by rw [State.domain_setDomain_self hlen]
  have hk : s.KeepsWork (s.setDomain d { s.domain d with mute := true }) := (State.KeepsWork.refl s).setDomain
  unfold State.muteDomain
  extract_lets p u
  by_cases h : d < 16
  · rw [if_pos h]
    exact ⟨hdom, hk, by omega⟩
  · rw [if_neg h]
    refine ⟨?_, hk.trans (State.keepsWork_deviceFails u 1), fun _ => State.fget_deviceFails u 1⟩
    rw [State.domain, State.pwr_deviceFails]
    exact hdom

theorem pmbusPoll_mute (hp : s.powered = true) (hst : 2 ≤ s.fget PWR_STATUS_STAGE) (hm : (s.domain d).mute = false)
    (he : s.elapsed (60 + d) 10_000_000 = true) (hd : d < 17) (hlen : d < s.pwr.domains.length) (vout : Nat) (fault : Bool) :
    ∃ s', exec (.pmbusPoll d false vout fault) s = .next s' ∧ (s'.domain d).mute = true ∧ s.KeepsWork s' ∧
      (d = 16 → s'.fget HLM_DEVICE_STATE = 2) := by
  obtain ⟨hk, -, hpwr⟩ := s.pollRegulator_frame d
  obtain ⟨hmute, hkm, hf⟩ := State.muteDomain_spec (s := s.pollRegulator d) hd (by rw [hpwr]; exact hlen)
  exact ⟨_, execPmbusPoll_due hp hst hm he hd false vout fault, hmute, hk.trans hkm, hf⟩

theorem pmbusPoll_early (he : s.elapsed (60 + d) 10_000_000 = false) (acked : Bool) (vout : Nat) (fault : Bool) :
    exec (.pmbusPoll d acked vout fault) s = .next s := next_congr (if_pos (.inr (.inr (.inr (.inr he)))))

/-- The status of one regulator read on an alert. -/
def State.alertRead (faults : List Nat) (s : State) (d : Nat) : State :=
  ((s.emit (.pmbus d 0x79 0)).lasting (100 + d) (faults.contains d)).2

theorem State.alertRead_foldl (faults l : List Nat) (s : State) : s.KeepsWork (l.foldl (State.alertRead faults) s) ∧
    (l.foldl (State.alertRead faults) s).out = s.out ++ l.map (fun d => .pmbus d 0x79 0) := by
  induction l generalizing s with
  | nil => exact ⟨.refl s, by simp⟩
  | cons d l ih =>
    obtain ⟨p, hp⟩ := (s.emit (.pmbus d 0x79 0)).lasting_eq (100 + d) (faults.contains d)
    have hread : s.alertRead faults d = { s.emit (.pmbus d 0x79 0) with pwr := p } := hp
    obtain ⟨hk, hout⟩ := ih (s.alertRead faults d)
    refine ⟨State.KeepsWork.trans ?_ hk, hout.trans ?_⟩
    · rw [hread]; exact (State.KeepsWork.refl s).emit.pwr
    · rw [hread]; simp [State.emit]

theorem pmbusAlert_read (hp : s.powered = true) (hst : 2 ≤ s.fget PWR_STATUS_STAGE) {seg : Nat} (hs : seg < 4) (faults : List Nat) :
    ∃ v : State, exec (.pmbusAlert seg faults) s = .next v.supplyTrip ∧
      v.out = s.out ++ (segmentDomains seg).map (fun d => .pmbus d 0x79 0) ∧ s.KeepsWork v ∧ s.KeepsWork v.supplyTrip := by
  obtain ⟨hk, hout⟩ := s.alertRead_foldl faults (segmentDomains seg)
  exact ⟨_, next_congr (if_neg (by simp [hp]; omega)), hout, hk, hk.trans (State.keepsWork_supplyTrip _)⟩

end

/-- Settles O60: each loop's step by its own lemma; what a loop moves it leaves out of the work in progress. -/
theorem powerLoops : Obligations.PowerLoops := by
  unfold Obligations.PowerLoops
  intro s d hd
  refine ⟨fun hp hst he hs hlen => ⟨marginLoopStep_none hp hst he hd hs hlen, fun w canary hw hl ht hst' => ?_⟩,
    fun x he => next_congr (if_pos (.inr (.inr (.inr he)))), fun x hp hst he hs => execMarginLoopStep_slate hp hst he hd hs x,
    fun hp hst hlen slack => ⟨fun h => ?_, canaryEmergency_above⟩, fun doms bytes pkg hp hst he => powerWindow_due hp hst he hd doms bytes pkg,
    fun doms bytes pkg he => powerWindow_early he doms bytes pkg, pkgGuardEnd_none,
    fun t h => ⟨pkgGuardEnd_ends h, pkgGuardEnd_lasts h⟩, fun n => powerLoopStep_early,
    fun n hp hlive he => ⟨powerLoopStep_idle hp hlive he, powerLoopStep_keeps hp hlive he, fun g hne hg =>
      ⟨powerLoopStep_over hp hlive he rfl hne hg, powerLoopStep_under hp hlive he rfl hne hg⟩⟩,
    fun khz h hp hlen => regulatorSettled_some h hp hlen, regulatorSettled_none, fun temps he => thermalRead_early he temps,
    fun acked vout fault he => pmbusPoll_early he acked vout fault, fun temps h he hm => thermalRead_due he hm,
    fun hp hst hm he hlen vout fault => ⟨pmbusPoll_acked hp hst hm he hd vout fault, pmbusPoll_mute hp hst hm he hd hlen vout fault⟩,
    fun seg faults hp hst hs => pmbusAlert_read hp hst hs faults⟩
  · obtain ⟨s', v, hexec, hdom, hk⟩ := marginLoopStep_some hp hst he hd hs hlen hw canary hl ht hst'
    refine ⟨s', hexec, ?_, ?_, ?_, hk⟩ <;> rw [hdom] <;> rfl
  · obtain ⟨s', v, hexec, hdom, hk⟩ := canaryEmergency_below hp hst hd hlen h
    refine ⟨s', hexec, ?_, ?_, hk⟩ <;> rw [hdom] <;> rfl

end Sys2Proof.Machine
end

section
/-! PROOFS. O57: the trace unit. -/

namespace Sys2Proof.Machine

/-! ### Records, FIFOs and triggers (R681, R684, R687) -/

section

variable {s : State} {n c : Nat}

theorem State.keepsWork_setFifo (s : State) (c : Nat) (f : Fifo) : s.KeepsWork (s.setFifo c f) :=
  (State.KeepsWork.refl s).tru.fset.fset

theorem State.keepsWork_trace (s : State) (c strand type : Nat) (data : List Byte) : s.KeepsWork (s.trace c strand type data) := by
  unfold State.trace
  split
  · exact .refl s
  · exact .ite (.refl s) (s.keepsWork_setFifo _ _)

/-- The first trigger that a chamber counts. -/
def State.firstTrigger (s : State) (n c strand source : Nat) (item : List Byte) : State :=
  (((s.setFifo c ((s.fifo c).push c (traceBytes s.tb trTrigger c strand (leBytes 1 source ++ item)))).fset TRU_STATE_TRIG_VALID 1
    n).fset TRU_STATE_TRIG_CORE c n).fset TRU_STATE_STATE 2 n

/-- A trigger in delivery. -/
def State.withFired (s : State) (e : Nat × Nat × List Byte) : State := { s with tru := { s.tru with fired := s.tru.fired ++ [e] } }

theorem State.rget_withFired (s : State) (e : Nat × Nat × List Byte) (a : Nat) : (s.withFired e).rget a = s.rget a := rfl

theorem State.trigger_ignored (he : s.fget TRU_CTRL_ENABLE n = 1) (hs : s.fget TRU_STATE_STATE n ≠ 5)
    (hv : s.fget TRU_STATE_TRIG_VALID n = 1) (c strand source : Nat) (item : List Byte) :
    s.trigger n c strand source item = s.bump TRU_TRIG_IGNORED_COUNT 1 n := by
  rw [State.trigger, if_neg (by simp [he, hs]), if_pos (by simp [hv])]

theorem State.trigger_first (he : s.fget TRU_CTRL_ENABLE n = 1) (hs : s.fget TRU_STATE_STATE n ≠ 5)
    (hv : s.fget TRU_STATE_TRIG_VALID n = 0) (c strand source : Nat) (item : List Byte) :
    ∃ e, s.trigger n c strand source item = (s.firstTrigger n c strand source item).withFired e := by
  rw [State.trigger, if_neg (by simp [he, hs]), if_neg (by simp [hv])]
  exact ⟨_, rfl⟩

theorem State.keepsWork_trigger (s : State) (n c strand source : Nat) (item : List Byte) :
    s.KeepsWork (s.trigger n c strand source item) := by
  unfold State.trigger
  extract_lets r u v w
  have hu : s.KeepsWork u := s.keepsWork_setFifo c _
  exact .ite (.refl s) (.ite (State.KeepsWork.refl s).bump hu.fset.fset.fset.tru)

theorem State.trigger_first_spec (he : s.fget TRU_CTRL_ENABLE n = 1) (hs : s.fget TRU_STATE_STATE n ≠ 5)
    (hv : s.fget TRU_STATE_TRIG_VALID n = 0) (hc : c < 128) (strand source : Nat) (item : List Byte) :
    (s.trigger n c strand source item).fget TRU_STATE_TRIG_VALID n = 1 ∧
      (s.trigger n c strand source item).fget TRU_STATE_TRIG_CORE n = c ∧
      (s.trigger n c strand source item).fget TRU_STATE_STATE n = 2 := by
  obtain ⟨e, ht⟩ := State.trigger_first he hs hv c strand source item
  have hf : ∀ f : Fld, (s.trigger n c strand source item).fget f n = (s.firstTrigger n c strand source item).fget f n := fun f => by
    rw [ht]
    exact State.fget_of_rget (State.rget_withFired _ _ _)
  rw [hf, hf, hf, State.firstTrigger]
  refine ⟨?_, ?_, State.fget_fset_of_lt _ n 0 (by decide) (by decide)⟩
  · rw [State.fget_fset_other _ _ _ _ _ _ _ _ (by decide) (by decide) (by decide),
      State.fget_fset_other _ _ _ _ _ _ _ _ (by decide) (by decide) (by decide)]
    exact State.fget_fset_of_lt _ n 0 (by decide) (by decide)
  · rw [State.fget_fset_other _ _ _ _ _ _ _ _ (by decide) (by decide) (by decide)]
    exact State.fget_fset_of_lt _ n 0 (by decide) (by simpa [TRU_STATE_TRIG_CORE] using hc)

theorem State.keepsWork_softTrigger (s : State) (r : Requester) (n : Nat) : s.KeepsWork (s.softTrigger r n) := by
  cases r <;> exact s.keepsWork_trigger _ _ _ _ _

end

/-! ### Samples (R682) -/

section

variable {s : State} {c : Nat}

theorem State.sampleOf_none (hb : s.boundStrands c = []) (hi : s.issuer c = none) : s.sampleOf c = none := by
  simp [State.sampleOf, hb, hi, argMin]

theorem execPcSample_dead (h : s.coreLive c = false) : exec (.pcSample c) s = .next s := next_congr (if_pos (.inr h))

theorem execPcSample_none (hc : c < 128) (hl : s.coreLive c = true) (h : s.sampleOf c = none) : exec (.pcSample c) s =
    .next (s.trace c 0xFFFF trPcSample (leBytes 8 0 ++ leBytes 1 (if s.coreRuns c then 6 else 7) ++ leBytes 1 0 ++
      leBytes 2 ((s.boundStrands c).filter (fun e => e.2.mode == .ready)).length)) := by
  show execPcSample c s = _
  rw [execPcSample, if_neg (by simp [hl]; omega), h]

theorem execPcSample_some (hc : c < 128) (hl : s.coreLive c = true) {t st : Nat} (h : s.sampleOf c = some (t, st)) :
    exec (.pcSample c) s = .next (s.trace c t trPcSample (leBytes 8 (s.strand c t).pc ++ leBytes 1 st ++
      leBytes 1 (s.strandClass (s.strand c t)) ++ leBytes 2 ((s.boundStrands c).filter (fun e => e.2.mode == .ready)).length)) := by
  show execPcSample c s = _
  rw [execPcSample, if_neg (by simp [hl]; omega), h]

end

/-! ### Draining (R686 to R688) -/

section

variable {s u v : State} {n c : Nat}

theorem allOf_true {α : Type} {f : State → α → Bool × State} (hf : ∀ s a, f s a = (true, s)) (l : List α) (s : State) :
    allOf f l s = (true, s) := by
  induction l with
  | nil => rfl
  | cons a l ih => rw [allOf, hf]; exact ih

/-- The chamber does not drain. -/
def State.truIdle (s : State) (n : Nat) : Prop :=
  s.fget TRU_STATE_STATE n = 0 ∨ s.fget TRU_STATE_STATE n = 5 ∨ s.fget CHB_STATE_STATE n = chbZeroising

/-- The triggers of the chamber taken out of delivery. -/
def State.takeFired (s : State) (n : Nat) : State :=
  { s with tru := { s.tru with fired := s.tru.fired.filter (fun e => e.1 != n) } }

/-- The chamber's triggers delivered to every slice. -/
def State.reached (s : State) (n : Nat) : Bool × State :=
  allOf (fun t e => allOf (fun t d => t.reach n e.2.1 e.2.2 d) (s.traceCores n) t) (s.tru.fired.filter (fun e => e.1 == n)) (s.takeFired n)

theorem execTruDrain_idle (h : s.truIdle n) : exec (.truDrain n) s = .next s := by
  refine next_congr ?_
  split
  · rfl
  · exact if_pos h

section

variable (hn : n < 16) (hi : ¬ s.truIdle n)
include hn hi

theorem execTruDrain_reachFails (hr : s.reached n = (false, u)) : exec (.truDrain n) s = .next (u.truFault n) := by
  refine next_congr ((if_neg (by omega)).trans ((if_neg hi).trans ?_))
  extract_lets cores mine p t
  have h : allOf (fun s e => allOf (fun s d => s.reach n e.2.1 e.2.2 d) cores s) mine t = (false, u) := hr
  rw [h]

theorem execTruDrain_fails (hr : s.reached n = (true, u)) (hd : allOf (fun s c => s.drainCore n c) (s.traceCores n) u = (false, v)) :
    exec (.truDrain n) s = .next (v.truFault n) := by
  refine next_congr ((if_neg (by omega)).trans ((if_neg hi).trans ?_))
  extract_lets cores mine p t
  have h : allOf (fun s e => allOf (fun s d => s.reach n e.2.1 e.2.2 d) cores s) mine t = (true, u) := hr
  have h' : allOf (fun s c => s.drainCore n c) cores u = (false, v) := hd
  rw [h]
  dsimp only
  rw [h']

theorem execTruDrain_drains (hr : s.reached n = (true, u)) (hd : allOf (fun s c => s.drainCore n c) (s.traceCores n) u = (true, v)) :
    exec (.truDrain n) s = .next (if (s.traceCores n).all (fun c => (v.sliceOf c).state == 3) && !(s.traceCores n).isEmpty then
      v.fset TRU_STATE_STATE 3 n else v) := by
  refine next_congr ((if_neg (by omega)).trans ((if_neg hi).trans ?_))
  extract_lets cores mine p t
  have h : allOf (fun s e => allOf (fun s d => s.reach n e.2.1 e.2.2 d) cores s) mine t = (true, u) := hr
  have h' : allOf (fun s c => s.drainCore n c) cores u = (true, v) := hd
  rw [h]
  dsimp only
  rw [h']

theorem execTruDrain_noCores (hc : s.traceCores n = []) : exec (.truDrain n) s = .next (s.takeFired n) := by
  have hr : s.reached n = (true, s.takeFired n) := by
    rw [State.reached, hc]
    exact allOf_true (fun _ _ => rfl) _ _
  rw [execTruDrain_drains hn hi hr (by rw [hc]; rfl), hc]
  rfl

end

/-! ### Records in a slice (R685, R686) -/

section

theorem State.sliceOf_of_find {x : Slice} (h : s.tru.slices.find? (fun y => y.core == c) = some x) : s.sliceOf c = x := by
  rw [State.sliceOf, h]; rfl

/-- A slice that is listed is found as it was set. -/
theorem State.sliceOf_setSlice {x y : Slice} (hx : x.core = c) (h : s.tru.slices.find? (fun y => y.core == c) = some y) :
    (s.setSlice x).sliceOf c = x := by
  have key : ∀ l : List Slice, l.find? (fun y => y.core == c) = some y →
      (l.map (fun y => if y.core == x.core then x else y)).find? (fun y => y.core == c) = some x := fun l => by
    induction l with
    | nil => simp
    | cons z l ih =>
      by_cases hz : z.core = c
      · simp [hz, hx]
      · simpa [hz, hx] using ih
  exact State.sliceOf_of_find (key _ h)

theorem State.sliceOf_congr {t : State} (h : t.tru = s.tru) (c : Nat) : t.sliceOf c = s.sliceOf c := by
  rw [State.sliceOf, State.sliceOf, h]

theorem State.keepsWork_setSlice (s : State) (x : Slice) : s.KeepsWork (s.setSlice x) := (State.KeepsWork.refl s).tru

theorem placeRecord_running {rec_ : List Byte} (hst : (s.sliceOf c).state = 1) (hpost : (s.sliceOf c).post = none)
    (ht : recType rec_ ≠ trTrigger) (hd : recType rec_ ≠ trDrop) (hlen : (s.sliceOf c).head + 1 < s.sliceLen n)
    (hw : s.truWrite n (s.sliceBase n c + 64 + 32 * ((s.sliceOf c).head % s.sliceLen n)) rec_ = (true, u))
    (hu : u.sliceLen n = s.sliceLen n) : s.placeRecord n c rec_ = (true,
      (u.setSlice { s.sliceOf c with head := (s.sliceOf c).head + 1, post := none, state := 1 }).bump64 TRU_RECORDS_LO_COUNT TRU_RECORDS_HI_COUNT 1 n) := by
  have hlost : (if recType rec_ == trDrop then fieldAt rec_ 0xC 4 else 0) = 0 := if_neg (by simpa using hd)
  have hfull : (u.traceMode n == 0 && decide (u.sliceLen n ≤ (s.sliceOf c).head + 1)) = false := by
    rw [hu, decide_eq_false (by omega), Bool.and_false]
  unfold State.placeRecord
  simp only [hst, hpost, hlost, hw, hfull]
  rw [if_neg (by simp [ht]), if_neg (by simp; omega)]
  rfl

theorem placeRecord_spec {rec_ : List Byte} (hst : (s.sliceOf c).state = 1) (hpost : (s.sliceOf c).post = none)
    (hcore : (s.sliceOf c).core = c) (hfind : s.tru.slices.find? (fun x => x.core == c) = some (s.sliceOf c))
    (ht : recType rec_ ≠ trTrigger) (hd : recType rec_ ≠ trDrop) (hlen : (s.sliceOf c).head + 1 < s.sliceLen n)
    (hw : s.truWrite n (s.sliceBase n c + 64 + 32 * ((s.sliceOf c).head % s.sliceLen n)) rec_ = (true, u))
    (hslices : u.tru.slices = s.tru.slices) (hu : u.sliceLen n = s.sliceLen n) : ∃ s', s.placeRecord n c rec_ = (true, s') ∧
      (s'.sliceOf c).head = (s.sliceOf c).head + 1 ∧ (s'.sliceOf c).state = 1 ∧ u.KeepsMemory s' ∧ s'.strands = u.strands := by
  let x : Slice := { s.sliceOf c with head := (s.sliceOf c).head + 1, post := none, state := 1 }
  have hset : (u.setSlice x).sliceOf c = x := State.sliceOf_setSlice hcore (by rw [hslices, hfind])
  have hsame := State.sliceOf_congr ((u.setSlice x).bump64_tru TRU_RECORDS_LO_COUNT TRU_RECORDS_HI_COUNT 1 n 0) c
  have hk : u.KeepsWork ((u.setSlice x).bump64 TRU_RECORDS_LO_COUNT TRU_RECORDS_HI_COUNT 1 n) := (u.keepsWork_setSlice x).bump64
  exact ⟨_, placeRecord_running hst hpost ht hd hlen hw hu, by rw [hsame, hset], by rw [hsame, hset],
    State.keepsMemory_of_mem hk.1, hk.2.1⟩

end

end

/-! ### Starting again, and the time trigger (R687, R692, R694) -/

section

variable {s : State} {n : Nat} {r : Requester}

/-- Every slice of the chamber made anew, before the headers are written. -/
def State.truFresh (s : State) (n : Nat) : State :=
  let cores := s.traceCores n
  let s : State := { s with tru := { s.tru with
    slices := s.tru.slices.filter (fun x => !cores.contains x.core) ++ cores.map Slice.fresh
    fired := s.tru.fired.filter (fun e => e.1 != n)
    timed := s.tru.timed.filter (· != n) } }
  let s := (s.fset TRU_STATE_STATE 1 n).wset TRU_RECORDS_LO 0 n
  let s := (s.fset TRU_STATE_TRIG_VALID 0 n).fset TRU_STATE_TRIG_CORE 0 n
  s.wset TRU_RECORDS_HI 0 n

theorem State.truStart_noCores (h : s.traceCores n = []) : s.truStart n = s.truFresh n := by
  unfold State.truStart State.truFresh
  simp only [h]
  rfl

theorem State.truFresh_spec (s : State) (n : Nat) : (s.truFresh n).fget TRU_STATE_STATE n = 1 ∧
    (s.truFresh n).fget TRU_STATE_TRIG_VALID n = 0 ∧ s.KeepsWork (s.truFresh n) := by
  unfold State.truFresh
  extract_lets cores p s₁ s₂ s₃
  have hk : s.KeepsWork s₁ := (State.KeepsWork.refl s).tru
  have hhi : regAddr TRU_RECORDS_HI n 0 ≠ regAddr TRU_STATE n 0 := by simp only [regAddr, TRU_RECORDS_HI, TRU_STATE]; omega
  have hlo : regAddr TRU_RECORDS_LO n 0 ≠ regAddr TRU_STATE n 0 := by simp only [regAddr, TRU_RECORDS_LO, TRU_STATE]; omega
  refine ⟨?_, ?_, (hk.fset.wset.fset.fset).wset⟩
  · rw [State.fget_wset_ne _ TRU_RECORDS_HI TRU_STATE_STATE _ _ _ _ _ hhi,
      State.fget_fset_other _ _ _ _ _ _ _ _ (by decide) (by decide) (by decide),
      State.fget_fset_other _ _ _ _ _ _ _ _ (by decide) (by decide) (by decide),
      State.fget_wset_ne _ TRU_RECORDS_LO TRU_STATE_STATE _ _ _ _ _ hlo]
    exact State.fget_fset_of_lt _ n 0 (by decide) (by decide)
  · rw [State.fget_wset_ne _ TRU_RECORDS_HI TRU_STATE_TRIG_VALID _ _ _ _ _ hhi,
      State.fget_fset_other _ _ _ _ _ _ _ _ (by decide) (by decide) (by decide)]
    exact State.fget_fset_of_lt _ n 0 (by decide) (by decide)

theorem truTimeTrigger_fires (hn : n < 16) (he : s.fget TRU_CTRL_ENABLE n = 1) (ht : s.fget TRU_TRIG_TIME n = 1)
    (hnot : s.tru.timed.contains n = false) (h : s.pair TRU_TRIG_TIME_LO_TIME TRU_TRIG_TIME_HI_TIME n ≤ s.tb) :
    ∃ s', exec (.truTimeTrigger n) s = .next s' ∧ s'.tru.timed.contains n = true ∧ s.KeepsWork s' := by
  refine ⟨_, next_congr (if_neg ?_), ?_, (s.keepsWork_trigger _ _ _ _ _).tru⟩
  · rintro (h' | h' | h' | h' | h')
    · omega
    · omega
    · omega
    · rw [hnot] at h'; simp at h'
    · omega
  · simp

end

/-- Settles O57: each command by its own lemma; a record changes FIFOs, slices and registers, and never the work. -/
theorem traceUnit : Obligations.TraceUnit := by
  unfold Obligations.TraceUnit
  intro s r n c hn hc
  refine ⟨execPcSample_dead, fun hl hb hi => ?_, fun t st hl h => execPcSample_some hc hl h, fun t b => s.keepsWork_trace _ _ _ _,
    ⟨execTruDrain_idle, fun u hi hr => execTruDrain_reachFails hn hi hr, fun u v hi hr hd => execTruDrain_fails hn hi hr hd,
      fun u v hi hr hd => execTruDrain_drains hn hi hr hd, fun hi hcores => ⟨execTruDrain_noCores hn hi hcores, ?_⟩⟩,
    fun rec_ u hst hpost hcore hfind ht hd hlen hw hslices hu => placeRecord_spec hst hpost hcore hfind ht hd hlen hw hslices hu,
    fun t src b he hs => ⟨fun hv => State.trigger_ignored he hs hv _ _ _ _, fun hv => ?_⟩, fun hr => ⟨?_, s.keepsWork_softTrigger r n, ?_,
      fun he => next_congr (if_pos (.inr (.inr he))), fun he => next_congr (if_neg ?_), fun he h => ?_⟩,
    fun hr => ⟨next_congr (if_pos (.inr hr)), next_congr (if_pos (.inr (.inl hr)))⟩, fun h => next_congr (if_pos ?_),
    fun he ht hnot => ⟨truTimeTrigger_fires hn he ht hnot, fun h => next_congr (if_pos (.inr (.inr (.inr (.inr h)))))⟩⟩
  · have h := execPcSample_none hc hl (State.sampleOf_none hb hi)
    rwa [hb] at h
  · exact (State.KeepsWork.refl s).tru
  · obtain ⟨h1, h2, h3⟩ := State.trigger_first_spec he hs hv hc t src b
    exact ⟨h1, h2, h3, s.keepsWork_trigger _ _ _ _ _⟩
  · exact next_congr (if_neg (by simp [hr]; omega))
  · cases r <;> rfl
  · rintro (h | h | h)
    · omega
    · rw [hr] at h; simp at h
    · omega
  · rw [State.truStart_noCores h]
    exact s.truFresh_spec n
  · rcases h with h | h | h
    · exact .inr (.inl h)
    · exact .inr (.inr (.inl h))
    · exact .inr (.inr (.inr (.inl h)))

end Sys2Proof.Machine
end

section
/-! PROOFS. What the operations of sessions, ownership, the survey loader and staged firmware change: the control plane, and nothing of
what runs. -/

namespace Sys2Proof.Machine

section

variable {s t u : State} {α : Type}

/-- Nothing differs but registers, sessions and their views, the loader, the security state, the management queues, what has been
sent, and the free values taken. -/
def State.OnlyControl (s t : State) : Prop :=
  t = { s with regs := t.regs, shadows := t.shadows, sels := t.sels, svy := t.svy, ctp := t.ctp, sec := t.sec, mgc := t.mgc,
               out := t.out, free := t.free }

namespace State.OnlyControl

theorem refl (s : State) : s.OnlyControl s := rfl

theorem trans (h : s.OnlyControl t) (h' : t.OnlyControl u) : s.OnlyControl u := by
  rw [State.OnlyControl] at h h' ⊢
  rw [h', h]

theorem keepsWork (h : s.OnlyControl t) : s.KeepsWork t :=
  ⟨(congrArg State.mem h :), (congrArg State.strands h :), (congrArg State.items h :), (congrArg State.queues h :),
    (congrArg State.engOps h :), (congrArg State.ms h :)⟩

theorem pwr_eq (h : s.OnlyControl t) : t.pwr = s.pwr := (congrArg State.pwr h :)

theorem utcBase_eq (h : s.OnlyControl t) : t.utcBase = s.utcBase := (congrArg State.utcBase h :)

theorem now_eq (h : s.OnlyControl t) : t.now = s.now := (congrArg State.now h :)

theorem regs (h : s.OnlyControl t) (h' : t.OnlyRegs u) : s.OnlyControl u := h.trans (by rw [State.OnlyRegs] at h'; rw [h']; rfl)

theorem mgcs (h : s.OnlyControl t) (h' : t.OnlyMgc u) : s.OnlyControl u := h.trans (by rw [State.OnlyMgc] at h'; rw [h']; rfl)

theorem fset (h : s.OnlyControl t) {f : Fld} {v i j : Nat} : s.OnlyControl (t.fset f v i j) := h.regs (State.OnlyRegs.refl t).fset

theorem wset (h : s.OnlyControl t) {r : Reg} {v i j : Nat} : s.OnlyControl (t.wset r v i j) := h.regs (State.OnlyRegs.refl t).wset

theorem bump (h : s.OnlyControl t) {f : Fld} {n i j : Nat} : s.OnlyControl (t.bump f n i j) := h.fset

theorem pairSet (h : s.OnlyControl t) {lo hi : Fld} {v i j : Nat} : s.OnlyControl (t.pairSet lo hi v i j) := h.fset.fset

theorem bump64 (h : s.OnlyControl t) {lo hi : Fld} {n i j : Nat} : s.OnlyControl (t.bump64 lo hi n i j) := h.pairSet

theorem emit (h : s.OnlyControl t) {e : OutEvent} : s.OnlyControl (t.emit e) := h.trans rfl

theorem ctp (h : s.OnlyControl t) {x} : s.OnlyControl { t with ctp := x } := h.trans rfl

theorem sec (h : s.OnlyControl t) {x} : s.OnlyControl { t with sec := x } := h.trans rfl

theorem svy (h : s.OnlyControl t) {x} : s.OnlyControl { t with svy := x } := h.trans rfl

theorem foldl {f : State → α → State} (h : s.OnlyControl t) (hf : ∀ (u : State) x, u.OnlyControl (f u x)) (l : List α) :
    s.OnlyControl (l.foldl f t) := by
  induction l generalizing t with
  | nil => exact h
  | cons x l ih => exact ih (h.trans (hf t x))

theorem ite {c : Prop} [Decidable c] (ht : s.OnlyControl t) (hu : s.OnlyControl u) : s.OnlyControl (if c then t else u) := by
  split
  · exact ht
  · exact hu

end State.OnlyControl

/-! ### Sessions and what is sent in them -/

theorem State.onlyRegs_refreshSessions (s : State) : s.OnlyRegs s.refreshSessions :=
  (State.OnlyRegs.refl s).foldl (fun u _ => (State.OnlyRegs.refl u).fset) _

theorem State.onlyControl_setSession (s : State) (k : Nat) (x : Session) : s.OnlyControl (s.setSession k x) :=
  (State.OnlyControl.refl s).ctp.regs (State.onlyRegs_refreshSessions _)

theorem State.onlyControl_sendFrame (s : State) (port slot type : Nat) (encrypted : Bool) (payload : List Byte) :
    s.OnlyControl (s.sendFrame port slot type encrypted payload) := by
  unfold State.sendFrame
  cases s.session slot with
  | none => exact (State.OnlyControl.refl s).bump64.emit
  | some x => exact (s.onlyControl_setSession slot _).bump64.emit

/-! ### The loader and staged firmware as ownership ends (R110, R494) -/

theorem State.onlyControl_endLoad (s : State) (code : Nat) : s.OnlyControl (s.endLoad code) := by
  unfold State.endLoad
  extract_lets via v u
  have hu : s.OnlyControl u := (State.OnlyControl.refl s).svy
  exact .ite hu (.ite (hu.mgcs (u.onlyMgc_mgEnd _ _ _)) (hu.mgcs (u.onlyMgc_mgEnd _ _ _)))

theorem State.onlyControl_svyOwnerLost (s : State) : s.OnlyControl s.svyOwnerLost :=
  .ite ((State.OnlyControl.refl s).wset.bump.trans (State.onlyControl_endLoad _ _)) (.refl s)

theorem State.onlyControl_answerCommit (s : State) (c : FwCommit) (code : Nat) : s.OnlyControl (s.answerCommit c code) := by
  unfold State.answerCommit
  split
  · exact .ite ((State.OnlyControl.refl s).mgcs (s.onlyMgc_mgEnd _ _ _)) ((State.OnlyControl.refl s).mgcs (s.onlyMgc_mgEnd _ _ _))
  · split
    · exact s.onlyControl_sendFrame _ _ _ _ _
    · exact .refl s

theorem State.onlyControl_setStage (s : State) (state code : Nat) : s.OnlyControl (s.setStage state code) :=
  (State.OnlyControl.refl s).fset.fset

theorem State.onlyControl_refuseFw (s : State) (code : Nat) : s.OnlyControl (s.refuseFw code) := by
  unfold State.refuseFw
  extract_lets u
  have hu : s.OnlyControl u := s.onlyControl_setStage _ _
  split
  · exact hu.sec.trans (State.onlyControl_answerCommit _ _ _)
  · exact hu

theorem State.onlyControl_fwOwnerLost (s : State) : s.OnlyControl s.fwOwnerLost := by
  unfold State.fwOwnerLost
  extract_lets checked
  exact .ite (.refl s) (.ite (s.onlyControl_refuseFw _) (.refl s))

/-! ### Ownership and the end of a session (R469, R472, R474) -/

theorem State.onlyControl_loseOwnership (s : State) : s.OnlyControl s.loseOwnership := by
  unfold State.loseOwnership
  split
  · exact .refl s
  · dsimp only [State.draw]
    have h : s.OnlyControl { s with free := s.free + 1 } := rfl
    exact ((State.OnlyControl.ite h.fset.fset.fset h.fset.fset).trans (State.onlyControl_svyOwnerLost _)).trans
      (State.onlyControl_fwOwnerLost _)

theorem State.onlyControl_dropOut (s : State) (k : Nat) : s.OnlyControl (s.dropOut k) := by
  unfold State.dropOut
  split
  · exact .refl s
  · extract_lets c u v
    have hv : s.OnlyControl v := (State.OnlyControl.refl s).ctp.fset
    exact .ite hv.fset hv

theorem State.onlyControl_closeSession (s : State) (k : Nat) : s.OnlyControl (s.closeSession k) := by
  unfold State.closeSession
  split
  · exact .refl s
  · extract_lets owned forget c v w u r d
    have hu : s.OnlyControl u := rfl
    have hd : s.OnlyControl d := (hu.wset.pairSet.regs (State.onlyRegs_refreshSessions _)).trans (State.onlyControl_dropOut _ k)
    exact .ite (hd.trans (State.onlyControl_loseOwnership _)) hd

theorem State.onlyControl_enablePorts (s : State) : s.OnlyControl s.enablePorts :=
  ((State.OnlyControl.refl s).ctp : s.OnlyControl (s.freshViols 0)).ctp

end

end Sys2Proof.Machine
end

section
/-! PROOFS. O59: resets and what they keep (R648, R700, R705, R706). -/

namespace Sys2Proof.Machine

section

variable {s t : State}

/-! ### POWER_ON and WARM -/

/-- Every block has started anew; flash and fuses, and the commands that wait, are kept. -/
structure State.Restarted (s t : State) : Prop where
  mem : t.mem = []
  items : t.items = []
  strands : t.strands = []
  sessions : t.ctp.sessions = []
  keys : t.sec.keys = s.sec.keys
  keysets : t.sec.keysets = s.sec.keysets
  fwA : t.sec.slotA = s.sec.slotA
  fwB : t.sec.slotB = s.sec.slotB
  svyA : t.svy.slotA = s.svy.slotA
  svyB : t.svy.slotB = s.svy.slotB
  pending : t.pending = s.pending

theorem State.Restarted.update (h : s.Restarted t) {r tb p i x} :
    s.Restarted { t with regs := r, tb := tb, pwr := p, i3c := i, hlm := x } :=
  ⟨h.mem, h.items, h.strands, h.sessions, h.keys, h.keysets, h.fwA, h.fwB, h.svyA, h.svyB, h.pending⟩

theorem State.Restarted.regs {u : State} (h : s.Restarted t) (hu : t.OnlyRegs u) : s.Restarted u := by
  rw [State.OnlyRegs] at hu
  rw [hu]
  exact h.update

theorem State.Restarted.leaveReset (h : s.Restarted t) : s.Restarted t.leaveReset := by
  rw [t.leaveReset_frame]
  exact h.update

theorem State.reinit_spec (s : State) (kind : Nat) : s.Restarted (s.reinit kind) ∧
    (s.reinit kind).pins = { s.pins with offReadyN := true } ∧ (s.reinit kind).tap = s.tap ∧ (s.reinit kind).tb = 0 ∧
    (s.reinit kind).pwr.held = true ∧ (s.reinit kind).pwr.kind = kind := by
  unfold State.reinit
  extract_lets d warm x domains volts st svy hlm sec i3c pins r
  have hbase : s.Restarted r := ⟨rfl, rfl, rfl, rfl, rfl, rfl, rfl, rfl, rfl, rfl, rfl⟩
  have hpins : r.pins = { s.pins with offReadyN := true } := rfl
  have htap : r.tap = s.tap := rfl
  have htb : r.tb = 0 := rfl
  have hheld : r.pwr.held = true := rfl
  have hkind : r.pwr.kind = kind := rfl
  clear_value r
  have h : r.OnlyRegs ((s.keptRegs ++ (if warm then volts else [])).foldl (fun s e => s.rput e.1 e.2) r) :=
    (State.OnlyRegs.refl r).foldl (fun u _ => (State.OnlyRegs.refl u).rput) _
  exact ⟨hbase.regs h, (congrArg State.pins h :).trans hpins, (congrArg State.tap h :).trans htap, (congrArg State.tb h :).trans htb,
    (congrArg (fun s => s.pwr.held) h :).trans hheld, (congrArg (fun s => s.pwr.kind) h :).trans hkind⟩

/-- The reset ends, and its kind shows. -/
theorem State.leaveReset_ends (hh : s.pwr.held = true) (hg : s.pins.pwrGood = true) (hr : s.pins.resetN = true)
    (ht : s.tap.hold = false) (hk : s.pwr.kind < 16) : s.leaveReset.pwr.held = false ∧ s.leaveReset.tb = 0 ∧
      s.leaveReset.pins = s.pins ∧ s.leaveReset.fget PWR_BOOT_RESET_KIND = s.pwr.kind := by
  obtain ⟨hheld, htb⟩ := State.leaveReset_held hh hg hr ht
  have hpins : s.leaveReset.pins = s.pins := by rw [s.leaveReset_frame]
  refine ⟨hheld, htb, hpins, ?_⟩
  rw [State.leaveReset, if_pos (by simp [hh, hg, hr, ht])]
  extract_lets p u
  rw [State.fget_of_rget (State.rget_noteBoard _ _)]
  exact State.fget_fset_of_lt u 0 0 (by decide) (by simpa [PWR_BOOT_RESET_KIND] using hk)

/-- The reset is held. -/
theorem State.leaveReset_stays (h : s.pins.resetN = false ∨ s.tap.hold = true) : s.leaveReset = s.noteBoard := by
  refine if_neg ?_
  rcases h with h | h <;> simp [h]

@[simp] theorem State.countReset_pins (s : State) : s.countReset.pins = s.pins := rfl

@[simp] theorem State.countReset_tap (s : State) : s.countReset.tap = s.tap := rfl

@[simp] theorem State.countReset_pwr (s : State) : s.countReset.pwr = s.pwr := rfl

theorem State.countReset_rget (s : State) (a : Nat) : s.countReset.rget a = s.rget a := rfl

theorem State.Restarted.countReset (h : s.Restarted t) : s.Restarted t.countReset := h.update

/-- The cause of an earlier trip reported. -/
def State.reportTrip (s : State) : State :=
  let s := s.fset PWR_BOOT_LAST_TRIP s.pwr.trip
  { s with pwr := { s.pwr with trip := 0 } }

theorem State.reportTrip_spec (s : State) : s.reportTrip.pins = s.pins ∧ s.reportTrip.tap = s.tap ∧
    s.reportTrip.pwr.held = s.pwr.held ∧ s.reportTrip.pwr.kind = s.pwr.kind := ⟨rfl, rfl, rfl, rfl⟩

theorem State.Restarted.reportTrip (h : s.Restarted t) : s.Restarted t.reportTrip :=
  (h.regs (State.OnlyRegs.refl t).fset).update

/-- PWR_GOOD has risen. -/
def State.powerHigh (s : State) : State :=
  { s with pins := { s.pins with pwrGood := true }, pwr := { s.pwr with good := true } }

/-- POWER_ON up to where the reset may end. -/
def State.poweredOn (s : State) : State := (s.powerHigh.reinit 1).countReset.reportTrip

theorem execPowerOn_rises (h : s.pins.pwrGood = false) : exec .powerOn s = .next s.poweredOn.leaveReset :=
  next_congr (if_neg (by simp [h]))

theorem State.poweredOn_spec (s : State) : s.Restarted s.poweredOn ∧
    s.poweredOn.pins = { s.pins with pwrGood := true, offReadyN := true } ∧ s.poweredOn.tap = s.tap ∧
    s.poweredOn.pwr.held = true ∧ s.poweredOn.pwr.kind = 1 := by
  obtain ⟨hr, hpins, htap, -, hheld, hkind⟩ := s.powerHigh.reinit_spec 1
  obtain ⟨h1, h2, h3, h4⟩ := (s.powerHigh.reinit 1).countReset.reportTrip_spec
  have hs : s.Restarted (s.powerHigh.reinit 1) :=
    ⟨hr.mem, hr.items, hr.strands, hr.sessions, hr.keys, hr.keysets, hr.fwA, hr.fwB, hr.svyA, hr.svyB, hr.pending⟩
  rw [State.countReset_pins, hpins] at h1
  rw [State.countReset_tap, htap] at h2
  rw [State.countReset_pwr, hheld] at h3
  rw [State.countReset_pwr, hkind] at h4
  exact ⟨hs.countReset.reportTrip, h1, h2, h3, h4⟩

theorem powerOn_starts (hr : s.pins.resetN = true) (ht : s.tap.hold = false) :
    s.Restarted s.poweredOn.leaveReset ∧ s.poweredOn.leaveReset.pins.pwrGood = true ∧ s.poweredOn.leaveReset.pwr.held = false ∧
      s.poweredOn.leaveReset.tb = 0 ∧ s.poweredOn.leaveReset.fget PWR_BOOT_RESET_KIND = 1 := by
  obtain ⟨hre, hpins, htap, hheld, hkind⟩ := s.poweredOn_spec
  obtain ⟨h1, h2, h3, h4⟩ := State.leaveReset_ends hheld (by rw [hpins]) (by rw [hpins]; exact hr) (by rw [htap]; exact ht)
    (by rw [hkind]; decide)
  exact ⟨hre.leaveReset, by rw [h3, hpins], h1, h2, h4.trans hkind⟩

theorem powerOn_held (h : s.pins.resetN = false ∨ s.tap.hold = true) : s.Restarted s.poweredOn.leaveReset ∧
    s.poweredOn.leaveReset.pins.pwrGood = true ∧ s.poweredOn.leaveReset.pwr.held = true := by
  obtain ⟨hre, hpins, htap, hheld, hkind⟩ := s.poweredOn_spec
  have hstay : s.poweredOn.leaveReset = s.poweredOn.noteBoard := State.leaveReset_stays (by rw [hpins, htap]; exact h)
  refine ⟨hre.leaveReset, ?_, ?_⟩
  · rw [hstay, State.noteBoard_pins, hpins]
  · rw [hstay, State.noteBoard_pwr, hheld]

/-- A WARM reset up to where it may end. -/
theorem State.warmed_spec (s : State) : s.Restarted (s.reinit 2).countReset ∧
    (s.reinit 2).countReset.pins = { s.pins with offReadyN := true } ∧ (s.reinit 2).countReset.tap = s.tap ∧
    (s.reinit 2).countReset.pwr.held = true ∧ (s.reinit 2).countReset.pwr.kind = 2 := by
  obtain ⟨hr, hpins, htap, -, hheld, hkind⟩ := s.reinit_spec 2
  rw [State.countReset_pins, State.countReset_tap, State.countReset_pwr]
  exact ⟨hr.countReset, hpins, htap, hheld, hkind⟩

theorem warmReset_starts (hh : s.pwr.held = false) (hg : s.pins.pwrGood = true) (hr : s.pins.resetN = true)
    (hth : s.pins.thermtripN = true) (ht : s.tap.hold = false) {r : Requester} (ho : s.owns r = true) :
    ∃ s', exec (.warmReset r) s = .next s' ∧ s.Restarted s' ∧ s'.fget PWR_BOOT_RESET_KIND = 2 ∧ s'.tb = 0 ∧ s'.pwr.held = false := by
  obtain ⟨hre, hpins, htap, hheld, hkind⟩ := s.warmed_spec
  obtain ⟨h1, h2, h3, h4⟩ := State.leaveReset_ends hheld (by rw [hpins]; exact hg) (by rw [hpins]; exact hr) (by rw [htap]; exact ht)
    (by rw [hkind]; decide)
  exact ⟨_, next_congr ((if_pos ho).trans (if_neg (by simp [hh, hg, hth]))), hre.leaveReset, h4.trans hkind, h2, h1⟩

theorem execWarmReset_stopped {r : Requester} (ho : s.owns r = true)
    (h : s.pwr.held = true ∨ s.pins.pwrGood = false ∨ s.pins.thermtripN = false) : exec (.warmReset r) s = .next s :=
  next_congr ((if_pos ho).trans (if_pos h))

/-- RESET_N is low, and FAULT_N is released. -/
def State.resetLow (s : State) : State := { s with pins := { s.pins with resetN := false, faultN := true } }

theorem execResetN_falls (hr : s.pins.resetN = true) (hg : s.pins.pwrGood = true) (hth : s.pins.thermtripN = true)
    (hh : s.pwr.held = false) : exec .resetN s = .next (s.resetLow.reinit 2).countReset.leaveReset :=
  next_congr ((if_neg (by simp [hr])).trans (if_neg (by simp [hg, hth, hh])))

theorem resetN_holds (s : State) : s.Restarted (s.resetLow.reinit 2).countReset.leaveReset ∧
    (s.resetLow.reinit 2).countReset.leaveReset.pins.resetN = false ∧
    (s.resetLow.reinit 2).countReset.leaveReset.pins.faultN = true ∧
    (s.resetLow.reinit 2).countReset.leaveReset.pwr.held = true ∧ (s.resetLow.reinit 2).countReset.leaveReset.pwr.kind = 2 := by
  obtain ⟨hre, hpins, htap, hheld, hkind⟩ := s.resetLow.warmed_spec
  have hs : s.Restarted (s.resetLow.reinit 2).countReset :=
    ⟨hre.mem, hre.items, hre.strands, hre.sessions, hre.keys, hre.keysets, hre.fwA, hre.fwB, hre.svyA, hre.svyB, hre.pending⟩
  have hstay := State.leaveReset_stays (s := (s.resetLow.reinit 2).countReset) (.inl (by rw [hpins]; rfl))
  refine ⟨hs.leaveReset, ?_, ?_, ?_, ?_⟩
  · rw [hstay, State.noteBoard_pins, hpins]; rfl
  · rw [hstay, State.noteBoard_pins, hpins]; rfl
  · rw [hstay, State.noteBoard_pwr, hheld]
  · rw [hstay, State.noteBoard_pwr, hkind]

theorem resetNRises_ends (hg : s.pins.pwrGood = true) (ht : s.tap.hold = false) (hh : s.pwr.held = true) :
    ∃ s', exec .resetNRises s = .next s' ∧ s'.pins.resetN = true ∧ s'.pwr.held = false ∧ s'.tb = 0 ∧ s.KeepsWork s' := by
  let u : State := { s with pins := { s.pins with resetN := true } }
  have hframe := u.leaveReset_frame
  obtain ⟨h1, h2⟩ := State.leaveReset_held (s := u) hh hg rfl ht
  refine ⟨u.leaveReset, rfl, ?_, h1, h2, ?_⟩
  · rw [hframe]
  · rw [hframe]; exact ⟨rfl, rfl, rfl, rfl, rfl, rfl⟩

theorem resetNRises_running (hh : s.pwr.held = false) :
    exec .resetNRises s = .next (State.noteBoard { s with pins := { s.pins with resetN := true } }) :=
  next_congr (State.leaveReset_running hh)

/-- PWR_GOOD is low, and FAULT_N and THERMTRIP_N are released. -/
def State.powerLow (s : State) : State :=
  { s with pins := { s.pins with pwrGood := false, faultN := true, thermtripN := true }, pwr := { s.pwr with good := false } }

theorem pwrGoodFall_holds (hg : s.pins.pwrGood = true) : ∃ s', exec .pwrGoodFall s = .next s' ∧ s'.pins.pwrGood = false ∧
    s'.pins.faultN = true ∧ s'.pins.thermtripN = true ∧ s'.pwr.held = true ∧ s'.mem = [] ∧ s'.sec.keys = s.sec.keys := by
  obtain ⟨hr, hpins, htap, htb, hheld, hkind⟩ := s.powerLow.reinit_spec 1
  have hboard : ∀ u : State, u.noteBoard.mem = u.mem ∧ u.noteBoard.sec = u.sec := fun _ => ⟨rfl, rfl⟩
  refine ⟨(s.powerLow.reinit 1).noteBoard, next_congr (if_neg (by simp [hg])), ?_, ?_, ?_, ?_, ?_, ?_⟩
  · rw [State.noteBoard_pins, hpins]; rfl
  · rw [State.noteBoard_pins, hpins]; rfl
  · rw [State.noteBoard_pins, hpins]; rfl
  · rw [State.noteBoard_pwr, hheld]
  · rw [(hboard _).1, hr.mem]
  · rw [(hboard _).2, hr.keys]; rfl

/-! ### PORT, and the loss of the reference clock -/

/-- Every session closed. -/
def State.closeAll (s : State) : State := (s.ctp.sessions.map (·.1)).foldl (fun s k => s.closeSession k) s

/-- The CTP_ block back at its reset values, but for the UTC base and the optical links. -/
def State.portRegs (s : State) : State :=
  (((s.resetRange 0x2000 0x2208).resetRange 0x2210 0x3000).fset CTP_PORT_STATUS_LINK_UP (s.fget CTP_PORT_STATUS_LINK_UP 0) 0).fset
    CTP_PORT_STATUS_LINK_UP (s.fget CTP_PORT_STATUS_LINK_UP 1) 1

/-- The state of the control ports as after a reset. -/
def State.portFresh (s : State) : State := { s with ctp := { Ctp.atReset with hello := s.ctp.hello, darkAt := s.ctp.darkAt } }

theorem State.portReset_def (s : State) :
    s.portReset = ((s.closeAll.portRegs.portFresh.enablePorts.countReset).fset PWR_BOOT_RESET_KIND 3).noteBoard := rfl

theorem State.onlyRegs_portRegs (s : State) : s.OnlyRegs s.portRegs := by
  have h : s.OnlyRegs ((s.resetRange 0x2000 0x2208).resetRange 0x2210 0x3000) := rfl
  exact h.fset.fset

theorem State.onlyControl_closeAll (s : State) : s.OnlyControl s.closeAll :=
  (State.OnlyControl.refl s).foldl (fun u k => u.onlyControl_closeSession k) _

theorem State.onlyControl_portFresh (s : State) : s.OnlyControl s.closeAll.portRegs.portFresh.enablePorts :=
  ((s.onlyControl_closeAll.regs (State.onlyRegs_portRegs _)).ctp : s.OnlyControl s.closeAll.portRegs.portFresh).trans
    (State.onlyControl_enablePorts _)

theorem State.fget_owner_portRegs (s : State) : s.portRegs.rget 0x2200 = resetAt 0x2200 := by
  rw [State.portRegs, State.rget_fset_ne _ CTP_PORT_STATUS_LINK_UP _ 1 0 _ (by decide),
    State.rget_fset_ne _ CTP_PORT_STATUS_LINK_UP _ 0 0 _ (by decide), State.rget_resetRange, State.rget_resetRange]
  rfl

theorem State.portFresh_rget (s : State) (a : Nat) : s.portFresh.enablePorts.rget a = s.rget a := rfl

theorem State.portFresh_ctp (s : State) : s.portFresh.enablePorts.ctp.sessions = [] ∧
    s.portFresh.enablePorts.ctp.darkAt = s.ctp.darkAt := ⟨rfl, rfl⟩

theorem State.portReset_spec (s : State) : s.portReset.ctp.sessions = [] ∧ s.portReset.fget CTP_OWNER_VALID = 0 ∧
    s.portReset.fget PWR_BOOT_RESET_KIND = 3 ∧ s.portReset.utcBase = s.utcBase ∧ s.KeepsWork s.portReset := by
  have hc := s.onlyControl_portFresh
  obtain ⟨hsess, -⟩ := s.closeAll.portRegs.portFresh_ctp
  have hctp : ∀ u : State, ((u.countReset).fset PWR_BOOT_RESET_KIND 3).noteBoard.ctp = u.ctp := fun _ => rfl
  have hutc : ∀ u : State, ((u.countReset).fset PWR_BOOT_RESET_KIND 3).noteBoard.utcBase = u.utcBase := fun _ => rfl
  rw [State.portReset_def, hctp, hutc]
  refine ⟨hsess, ?_, ?_, hc.utcBase_eq, (hc.keepsWork.hlm : s.KeepsWork (State.countReset _)).fset.noteBoard⟩
  · have howner : (s.closeAll.portRegs.portFresh.enablePorts.countReset).rget 0x2200 = resetAt 0x2200 := by
      rw [State.countReset_rget, State.portFresh_rget, State.fget_owner_portRegs]
    rw [State.fget_of_rget (State.rget_noteBoard _ _), State.fget_fset_ne _ _ _ _ _ _ _ _ (by decide), State.fget]
    rw [show regAddr CTP_OWNER_VALID.reg 0 0 = 0x2200 from rfl, howner]
    decide
  · rw [State.fget_of_rget (State.rget_noteBoard _ _)]
    exact State.fget_fset_of_lt _ 0 0 (by decide) (by decide)

theorem portReset_owner {r : Requester} (ho : s.owns r = true) : ∃ s', exec (.portReset r) s = .next s' ∧ s'.ctp.sessions = [] ∧
    s'.fget CTP_OWNER_VALID = 0 ∧ s'.fget PWR_BOOT_RESET_KIND = 3 ∧ s'.utcBase = s.utcBase ∧ s.KeepsWork s' :=
  ⟨_, next_congr (if_pos ho), s.portReset_spec⟩

theorem State.rget_deviceFails (s : State) (cause : Nat) {a : Nat} (ha : a ≠ 0x5000) : (s.deviceFails cause).rget a = s.rget a := by
  unfold State.deviceFails
  extract_lets p u
  have hu : u.rget a = s.rget a := rfl
  rw [State.rget_noteBoard]
  split
  · exact hu
  · rw [State.rget_fset_ne _ HLM_DEVICE_CAUSE _ 0 0 _ ha.symm, State.rget_fset_ne _ HLM_DEVICE_STATE _ 0 0 _ ha.symm, hu]

theorem State.faultN_deviceFails (s : State) (cause : Nat) : (s.deviceFails cause).pins.faultN = false := by
  unfold State.deviceFails
  extract_lets p u
  have hu : u.pins.faultN = false := rfl
  rw [State.noteBoard_pins]
  split
  · exact hu
  · rw [State.fset_pins, State.fset_pins, hu]

/-- Every clocked island stopped, and the control ports dark. -/
def State.clockLost (s : State) : State :=
  (({ s with pwr := { s.pwr with dark := true, halted := true } } : State).fset CTP_PORT_STATUS_LINK_UP 0 0).fset
    CTP_PORT_STATUS_LINK_UP 0 1

theorem refclkLoss_stops (hh : s.pwr.held = false) : ∃ s', exec .refclkLoss s = .next s' ∧ s'.pwr.dark = true ∧ s'.pwr.halted = true ∧
    s'.fget HLM_DEVICE_STATE = 2 ∧ s'.fget CTP_PORT_STATUS_LINK_UP 0 = 0 ∧ s'.fget CTP_PORT_STATUS_LINK_UP 1 = 0 ∧
    s'.pins.faultN = false ∧ s.KeepsWork s' := by
  have hpwr : (s.clockLost.deviceFails 1).pwr = s.clockLost.pwr := State.pwr_deviceFails _ 1
  have hclock : s.clockLost.pwr.dark = true ∧ s.clockLost.pwr.halted = true := ⟨rfl, rfl⟩
  have hk : s.KeepsWork s.clockLost := (State.KeepsWork.refl s).pwr.fset.fset
  refine ⟨s.clockLost.deviceFails 1, next_congr (if_neg (by simp [hh])), by rw [hpwr]; exact hclock.1, by rw [hpwr]; exact hclock.2,
    State.fget_deviceFails _ 1, ?_, ?_, State.faultN_deviceFails _ 1, hk.trans (State.keepsWork_deviceFails _ 1)⟩
  · rw [State.fget_of_rget (State.rget_deviceFails _ 1 (by decide)), State.clockLost, State.fget_fset_ne _ _ _ _ _ _ _ _ (by decide)]
    exact State.fget_fset_of_lt _ 0 0 (by decide) (by decide)
  · rw [State.fget_of_rget (State.rget_deviceFails _ 1 (by decide)), State.clockLost]
    exact State.fget_fset_of_lt _ 1 0 (by decide) (by decide)

end

end Sys2Proof.Machine
end

section
/-! PROOFS. O59, settled: orderly power-down and the stages of bring-up (R484, R628, R649 to R657, R669). -/

namespace Sys2Proof.Machine

section

variable {s : State}

/-! ### Orderly power-down -/

theorem State.keepsWork_toStage (s : State) (n : Nat) : s.KeepsWork (s.toStage n) := (State.KeepsWork.refl s).fset.noteBoard

/-- Power-down begun. -/
def State.shuttingDown (s : State) : State :=
  ({ s with pwr := { s.pwr with shutdownAt := some s.now } } : State).fset PWR_STATUS_SHUTDOWN 1

theorem State.shutdown_begins (hn : s.pwr.shutdownAt = none) (hh : s.pwr.halted = false) (hr : s.pwr.held = false) :
    s.shutdown = s.shuttingDown := if_neg (by simp [hn, hh, hr])

theorem State.keepsWork_shutdown (s : State) : s.KeepsWork s.shutdown := .ite (.refl s) (State.KeepsWork.refl s).pwr.fset

theorem State.rget_shutdown (s : State) {a : Nat} (ha : a ≠ 0x6000) : s.shutdown.rget a = s.rget a := by
  unfold State.shutdown
  split
  · rfl
  · rw [State.rget_fset_ne _ PWR_STATUS_SHUTDOWN _ 0 0 _ ha.symm, State.rget_with_pwr]

theorem State.fget_stage_shutdown (s : State) : s.shutdown.fget PWR_STATUS_STAGE = s.fget PWR_STATUS_STAGE := by
  unfold State.shutdown
  split
  · rfl
  · rw [State.fget_fset_other _ _ _ _ _ _ _ _ (by decide) (by decide) (by decide)]
    exact State.fget_of_rget (State.rget_with_pwr _ _ _)

theorem State.shuttingDown_spec (s : State) : s.shuttingDown.pwr.shutdownAt = some s.now ∧
    s.shuttingDown.fget PWR_STATUS_SHUTDOWN = 1 ∧ s.KeepsWork s.shuttingDown :=
  ⟨rfl, State.fget_fset_of_lt _ 0 0 (by decide) (by decide), (State.KeepsWork.refl s).pwr.fset⟩

theorem shutdown_owner {r : Requester} (hn : s.pwr.shutdownAt = none) (hh : s.pwr.halted = false) (hr : s.pwr.held = false)
    (ho : s.owns r = true) : ∃ s', exec (.shutdown r) s = .next s' ∧ s'.pwr.shutdownAt = some s.now ∧
      s'.fget PWR_STATUS_SHUTDOWN = 1 ∧ s.KeepsWork s' :=
  ⟨_, next_congr ((if_pos ho).trans (State.shutdown_begins hn hh hr)), s.shuttingDown_spec⟩

/-- OFF_REQ_N is low. -/
def State.offAsked (s : State) : State := { s with pins := { s.pins with offReqN := false } }

theorem offReq_early (h : s.fget PWR_STATUS_STAGE < 2) : exec .offReq s = .next s.offAsked :=
  next_congr (if_neg (by show ¬ 2 ≤ s.fget PWR_STATUS_STAGE; omega))

theorem offReq_begins (hn : s.pwr.shutdownAt = none) (hh : s.pwr.halted = false) (hr : s.pwr.held = false)
    (hst : 2 ≤ s.fget PWR_STATUS_STAGE) : ∃ s', exec .offReq s = .next s' ∧ s'.pwr.shutdownAt = some s.now ∧
      s'.pins.offReqN = false ∧ s.KeepsWork s' := by
  obtain ⟨h1, -, h3⟩ := s.offAsked.shuttingDown_spec
  have hk : s.KeepsWork s.offAsked := (State.KeepsWork.refl s).pins
  have hpins : s.offAsked.shuttingDown.pins = s.offAsked.pins := State.fset_pins _ _ _ _ _
  have hbegin : s.offAsked.shutdown = s.offAsked.shuttingDown := State.shutdown_begins hn hh hr
  have hexec : exec .offReq s = .next s.offAsked.shutdown := next_congr (if_pos hst)
  exact ⟨s.offAsked.shuttingDown, by rw [hexec, hbegin], h1, by rw [hpins, State.offAsked], hk.trans h3⟩

theorem shutdownDrainEnd_waits {at_ : Nat} (h : s.pwr.shutdownAt = some at_) (hi : s.items ≠ []) (ht : s.now < at_ + 2_000_000_000) : exec .shutdownDrainEnd s = .next s := by
  show execShutdownDrainEnd s = _
  rw [execShutdownDrainEnd, h]
  exact next_congr (if_pos (.inr (.inr ⟨by simpa using hi, ht⟩)))

theorem shutdownDrainEnd_ends {at_ : Nat} (h : s.pwr.shutdownAt = some at_) (hd : s.pwr.drained = false)
    (hh : s.pwr.halted = false) (hi : s.items = [] ∨ at_ + 2_000_000_000 ≤ s.now) :
    let t := (((List.range 16).filter s.chLive).foldl (fun s n => s.stopChamber n) s |>.fset PWR_STATUS_EARLY 0).lifetimeWrite
    exec .shutdownDrainEnd s = .next { t with pwr := { t.pwr with drained := true, handoverAt := none } } := by
  have hnot : ¬ (s.pwr.drained = true ∨ s.pwr.halted = true ∨ (s.items.isEmpty = false ∧ s.now < at_ + 2 * oneSecond)) := by
    have h2 : 2 * oneSecond = 2_000_000_000 := rfl
    rw [hd, hh, h2]
    rcases hi with hi | hi
    · simp [hi]
    · simp; omega
  show execShutdownDrainEnd s = _
  rw [execShutdownDrainEnd, h]
  exact next_congr (if_neg hnot)

theorem shutdownDrainEnd_none (h : s.pwr.shutdownAt = none) : exec .shutdownDrainEnd s = .next s := by
  show execShutdownDrainEnd s = _
  rw [execShutdownDrainEnd, h]

theorem offReady_asserts (hd : s.pwr.drained = true) (hh : s.pwr.halted = false) (hp : s.pins.offReadyN = true)
    (hq : ∀ q, q < 4096 → s.queueState q = qFree ∨ s.queueState q = qTeardownDone) :
    ∃ s', exec .offReady s = .next s' ∧ s'.pins.offReadyN = false ∧ (∀ st, st < 16 → s'.fget HBC_STATUS_LOW_POWER st = 1) ∧
      s.KeepsWork s' := by
  let u : State := { s with pins := { s.pins with offReadyN := false } }
  have hall : (List.range 16).all (fun n => (s.heldQueues n).all (fun q => s.queueState q == qTeardownDone)) = true := by
    simp only [List.all_eq_true]
    intro n _ q hmem
    simp only [State.heldQueues, List.mem_filter, List.mem_range, Bool.and_eq_true, bne_iff_ne] at hmem
    obtain ⟨hlt, hfree, -⟩ := hmem
    simpa using (hq q hlt).resolve_left hfree
  have hk : s.KeepsWork u := (State.KeepsWork.refl s).pins
  have hregs := u.onlyRegs_allSleep
  refine ⟨u.allSleep, next_congr (if_neg ?_), ?_, fun st hst => ?_, hk.trans hregs.keepsWork⟩
  · rintro (h | h | h | h)
    · rw [hd] at h; cases h
    · rw [hh] at h; cases h
    · rw [hp] at h; cases h
    · rw [hall] at h; cases h
  · have hpins : u.allSleep.pins = u.pins := (congrArg State.pins hregs :)
    rw [hpins]
  · exact State.fget_foldl_fset HBC_STATUS_LOW_POWER (fun _ => 1) (by decide) (by decide) (by decide) _ _ (.inl (by simpa using hst))

/-! ### Stage 1: the firmware that boots (R484, R646) -/

/-- What boot ROM found of a firmware slot shows. -/
def State.showValid (k : Nat) (on : Bool) (s : State) : State :=
  s.fset (if k = 0 then SEC_FW_STATUS_A_VALID else SEC_FW_STATUS_B_VALID) (b2n on)

/-- Whether the slot to boot, or the other, verifies. -/
def State.firstBoots (s : State) : Bool := fwBoots s.orderingCode (s.fwSlot s.sec.nextSlot)
def State.otherBoots (s : State) : Bool := fwBoots s.orderingCode (s.fwSlot (1 - s.sec.nextSlot))

/-- The firmware slots as found. -/
def State.slotsShown (s : State) : State :=
  let k := s.sec.nextSlot
  if s.firstBoots then State.showValid k true s else State.showValid (1 - k) s.otherBoots (State.showValid k false s)

/-- A domain's regulator started, and its factory voltage. -/
def State.bootDomain (vexps : List Nat) (s : State) (d : Nat) : State :=
  let s := s.setDomain d { s.domain d with vexp := vexps.getD d 9 }
  let s := s.initRegulator d
  if d < 16 then s.placeRate d 1_680_000 1_680_000 else s.placeRate d 2_400_000 2_400_000

/-- Stage 2 begun with the firmware of slot `k`. -/
def State.booted (s : State) (vexps : List Nat) (k : Nat) : State :=
  let s := ((s.bootFirmware k).toStage 2).enablePorts
  let s := (List.range 17).foldl (State.bootDomain vexps) s
  let s := s.refreshTbc
  if s.pins.offReqN then s else s.shutdown

theorem execFirmwareVerified_due (hb : s.booting = true) (hf : s.pins.faultN = true) (hst : s.fget PWR_STATUS_STAGE = 1)
    (vexps : List Nat) : exec (.firmwareVerified vexps) s = .next (if !s.firstBoots && !s.otherBoots then
      ({ s.slotsShown with pins := { s.slotsShown.pins with faultN := false } } : State).noteBoard
      else s.slotsShown.booted vexps (if s.firstBoots then s.sec.nextSlot else 1 - s.sec.nextSlot)) := by
  have hslots : s.slotsShown = (if s.firstBoots then State.showValid s.sec.nextSlot s.firstBoots s
      else State.showValid (1 - s.sec.nextSlot) s.otherBoots (State.showValid s.sec.nextSlot s.firstBoots s)) := by
    unfold State.slotsShown
    cases s.firstBoots <;> rfl
  show execFirmwareVerified vexps s = _
  rw [execFirmwareVerified, if_neg (by simp [hb, hf, hst])]
  extract_lets k valid first second s₁ s₂ p s₃ s₄ s₅
  have h₂ : s₂ = s.slotsShown := hslots.symm
  clear_value s₂
  subst h₂
  rfl

theorem State.onlyRegs_slotsShown (s : State) : s.OnlyRegs s.slotsShown := by
  unfold State.slotsShown
  extract_lets k
  exact .ite (State.OnlyRegs.refl s).fset (State.OnlyRegs.refl s).fset.fset

theorem State.rget_slotsShown (s : State) {a : Nat} (ha : a ≠ 0x3004) : s.slotsShown.rget a = s.rget a := by
  have h : ∀ (u : State) j on, (State.showValid j on u).rget a = u.rget a := fun u j on => by
    refine State.rget_fset_ne u _ _ 0 0 a ?_
    split <;> exact ha.symm
  unfold State.slotsShown
  extract_lets k
  split
  · exact h _ _ _
  · rw [h, h]

theorem State.keepsWork_initRegulator (s : State) (d : Nat) : s.KeepsWork (s.initRegulator d) :=
  (State.KeepsWork.refl s).emit.emit.emit.emit

theorem State.rget_initRegulator (s : State) (d a : Nat) : (s.initRegulator d).rget a = s.rget a := by
  simp only [State.initRegulator, State.rget_emit]

theorem State.placeRate_frame (s : State) (d khz volts : Nat) : s.KeepsWork (s.placeRate d khz volts) ∧
    ∀ a < 0x6600, (s.placeRate d khz volts).rget a = s.rget a := by
  let u := s.setDomain d { s.domain d with rate := khz, rise := none, target := limitTarget (s.tableAt d volts) }
  have hk : s.KeepsWork u := (State.KeepsWork.refl s).setDomain
  have hplace : s.placeRate d khz volts = u.refreshDomain d := rfl
  rw [hplace]
  refine ⟨hk.trans (u.keepsWork_refreshDomain d), fun a ha => ?_⟩
  rw [State.rget_refreshDomain (by omega) (by omega), State.rget_setDomain]

theorem State.bootDomain_frame (vexps : List Nat) (s : State) (d : Nat) : s.KeepsWork (s.bootDomain vexps d) ∧
    ∀ a < 0x6600, (s.bootDomain vexps d).rget a = s.rget a := by
  unfold State.bootDomain
  extract_lets x u v
  have hk : s.KeepsWork v := (State.KeepsWork.refl s).setDomain.trans (u.keepsWork_initRegulator d)
  have hv : ∀ a, v.rget a = s.rget a := fun a => (u.rget_initRegulator d a).trans (State.rget_setDomain _ _ _ _)
  split
  · obtain ⟨h, hr⟩ := v.placeRate_frame d 1_680_000 1_680_000
    exact ⟨hk.trans h, fun a ha => (hr a ha).trans (hv a)⟩
  · obtain ⟨h, hr⟩ := v.placeRate_frame d 2_400_000 2_400_000
    exact ⟨hk.trans h, fun a ha => (hr a ha).trans (hv a)⟩

theorem State.refreshTbc_frame (s : State) : s.KeepsWork s.refreshTbc ∧ ∀ a, a ≠ 0x7008 → s.refreshTbc.rget a = s.rget a := by
  unfold State.refreshTbc
  extract_lets free u v w
  have hk : s.KeepsWork u := (State.KeepsWork.refl s).tbc
  refine ⟨.ite hk.fset.fset.fset.fset.fset.fset hk.fset.fset.fset.fset, fun a ha => ?_⟩
  have hu : u.rget a = s.rget a := State.rget_with_tbc s _ a
  have hv : v.rget a = u.rget a := (State.rget_fset_ne _ TBC_STATUS_LOCKED _ 0 0 _ ha.symm).trans
    (State.rget_fset_ne _ TBC_STATUS_MASTER _ 0 0 _ ha.symm)
  have hw : w.rget a = v.rget a := (State.rget_fset_ne _ TBC_STATUS_HELD _ 0 0 _ ha.symm).trans
    (State.rget_fset_ne _ TBC_STATUS_HOLDOVER _ 0 0 _ ha.symm)
  split
  · rw [State.rget_fset_ne _ TBC_STATUS_SYNC_PORT _ 0 0 _ ha.symm, State.rget_fset_ne _ TBC_STATUS_HOPS _ 0 0 _ ha.symm, hw, hv, hu]
  · rw [hw, hv, hu]

/-- The firmware image of a slot shown, before what the device takes from it. -/
def State.fwShown (s : State) (k : Nat) (img : List Byte) : State :=
  let s := (s.fset SEC_FW_STATUS_VERIFIED 1).fset SEC_FW_STATUS_ACTIVE k
  let s := s.fset SEC_FW_VERSION_VERSION (fieldAt img 8 4)
  (List.range 12).foldl (fun t j => t.wset SEC_FW_DIGEST (fieldAt (imageDigest img) (4 * j) 4) j) s

theorem State.fwShown_frame (s : State) (k : Nat) (img : List Byte) : s.KeepsWork (s.fwShown k img) ∧
    (s.fwShown k img).fget SEC_FW_STATUS_VERIFIED = 1 ∧ (s.fwShown k img).fget SEC_FW_STATUS_ACTIVE = k % 2 := by
  unfold State.fwShown
  extract_lets u v
  have hv : v.rget 0x3004 = u.rget 0x3004 := State.rget_fset_ne _ SEC_FW_VERSION_VERSION _ 0 0 _ (by decide)
  have hw : ((List.range 12).foldl (fun t j => t.wset SEC_FW_DIGEST (fieldAt (imageDigest img) (4 * j) 4) j) v).rget 0x3004 =
      u.rget 0x3004 := by
    refine List.foldlRecOn (motive := fun t : State => t.rget 0x3004 = u.rget 0x3004) _ _ hv fun t ht j hj => ?_
    rw [State.rget_wset_at_ne, ht]
    simp only [regAddr, SEC_FW_DIGEST]
    omega
  have hk : s.KeepsWork v := (State.KeepsWork.refl s).fset.fset.fset
  refine ⟨hk.foldl (fun t j => (State.KeepsWork.refl t).wset) _, ?_, ?_⟩
  · rw [State.fget_of_rget hw, State.fget_fset_other _ _ _ _ _ _ _ _ (by decide) (by decide) (by decide)]
    exact State.fget_fset_of_lt _ 0 0 (by decide) (by decide)
  · rw [State.fget_of_rget hw, State.fget_fset_self _ _ _ _ _ (by decide)]
    rfl

theorem State.bootFirmware_frame (s : State) (k : Nat) : s.KeepsWork (s.bootFirmware k) ∧
    (s.bootFirmware k).fget SEC_FW_STATUS_VERIFIED = 1 ∧ (s.bootFirmware k).fget SEC_FW_STATUS_ACTIVE = k % 2 := by
  unfold State.bootFirmware
  extract_lets img u v w sec t slate
  have hw : w = s.fwShown k img := rfl
  obtain ⟨hk, hv, ha⟩ := s.fwShown_frame k img
  have ht : t.rget 0x3004 = w.rget 0x3004 := State.rget_with_sec w _ _
  have hkt : w.KeepsWork t := (State.KeepsWork.refl w).sec
  clear_value t
  rw [hw] at ht hkt
  split
  · exact ⟨hk.trans hkt, (State.fget_of_rget ht).trans hv, (State.fget_of_rget ht).trans ha⟩
  · have hs := (State.rget_with_sec t { t.sec with slate := slate } 0x3004).trans ht
    exact ⟨(hk.trans hkt).sec, (State.fget_of_rget hs).trans hv, (State.fget_of_rget hs).trans ha⟩

theorem State.fget_toStage (s : State) {n : Nat} (hn : n < 16) : (s.toStage n).fget PWR_STATUS_STAGE = n := by
  rw [State.toStage, State.fget_of_rget (State.rget_noteBoard _ _)]
  exact State.fget_fset_of_lt _ 0 0 (by decide) (by simpa [PWR_STATUS_STAGE] using hn)

theorem State.rget_toStage (s : State) (n : Nat) {a : Nat} (ha : a ≠ 0x6000) : (s.toStage n).rget a = s.rget a := by
  rw [State.toStage, State.rget_noteBoard, State.rget_fset_ne _ PWR_STATUS_STAGE _ 0 0 _ ha.symm]

theorem State.rget_enablePorts (s : State) (a : Nat) : s.enablePorts.rget a = s.rget a := rfl

theorem State.booted_spec (s : State) (vexps : List Nat) (k : Nat) : s.KeepsWork (s.booted vexps k) ∧
    (s.booted vexps k).fget PWR_STATUS_STAGE = 2 ∧ (s.booted vexps k).fget SEC_FW_STATUS_VERIFIED = 1 ∧
    (s.booted vexps k).fget SEC_FW_STATUS_ACTIVE = k % 2 := by
  unfold State.booted
  extract_lets u v w
  obtain ⟨hb, hver, hact⟩ := s.bootFirmware_frame k
  have hu : s.KeepsWork u := (hb.trans (State.keepsWork_toStage _ 2)).trans (State.onlyControl_enablePorts _).keepsWork
  have hv : u.KeepsWork v := (State.KeepsWork.refl u).foldl (fun t d => (t.bootDomain_frame vexps d).1) _
  obtain ⟨hw, htbc⟩ := v.refreshTbc_frame
  have hlow : ∀ a < 0x6600, w.rget a = u.rget a := fun a ha => (htbc a (by omega)).trans
    (State.foldl_keeps (·.rget a) (fun t d => (t.bootDomain_frame vexps d).2 a ha) _ u)
  have hstage : w.fget PWR_STATUS_STAGE = 2 := by
    rw [State.fget_of_rget (hlow _ (by decide)), State.fget_of_rget (State.rget_enablePorts _ _), State.fget_toStage _ (by decide)]
  have hfw : ∀ f : Fld, regAddr f.reg 0 0 = 0x3004 → w.fget f = (s.bootFirmware k).fget f := fun f hf => by
    rw [State.fget_of_rget (hlow _ (by rw [hf]; decide)), State.fget_of_rget (State.rget_enablePorts _ _),
      State.fget_of_rget (State.rget_toStage _ 2 (by rw [hf]; decide))]
  have hkw : s.KeepsWork w := (hu.trans hv).trans hw
  split
  · exact ⟨hkw, hstage, (hfw _ rfl).trans hver, (hfw _ rfl).trans hact⟩
  · exact ⟨hkw.trans w.keepsWork_shutdown, w.fget_stage_shutdown.trans hstage,
      (State.fget_of_rget (w.rget_shutdown (by decide))).trans ((hfw _ rfl).trans hver),
      (State.fget_of_rget (w.rget_shutdown (by decide))).trans ((hfw _ rfl).trans hact)⟩

theorem firmwareVerified_due (hb : s.booting = true) (hf : s.pins.faultN = true) (hst : s.fget PWR_STATUS_STAGE = 1)
    (vexps : List Nat) : ∃ s', exec (.firmwareVerified vexps) s = .next s' ∧ s.KeepsWork s' ∧
      (s.firstBoots = true → s'.fget PWR_STATUS_STAGE = 2 ∧ s'.fget SEC_FW_STATUS_VERIFIED = 1 ∧
        s'.fget SEC_FW_STATUS_ACTIVE = s.sec.nextSlot % 2) ∧
      (s.firstBoots = false → s.otherBoots = true → s'.fget PWR_STATUS_STAGE = 2 ∧ s'.fget SEC_FW_STATUS_VERIFIED = 1 ∧
        s'.fget SEC_FW_STATUS_ACTIVE = 1 - s.sec.nextSlot) ∧
      (s.firstBoots = false → s.otherBoots = false → s'.pins.faultN = false ∧ s'.fget PWR_STATUS_STAGE = 1) := by
  have hexec := execFirmwareVerified_due hb hf hst vexps
  have hshown := s.onlyRegs_slotsShown.keepsWork
  cases h1 : s.firstBoots with
  | true =>
    obtain ⟨hk, h2, h3, h4⟩ := s.slotsShown.booted_spec vexps s.sec.nextSlot
    refine ⟨_, hexec.trans (next_congr ((if_neg (by simp [h1])).trans (by rw [h1, if_pos rfl]))), hshown.trans hk, fun _ => ⟨h2, h3, h4⟩, fun h => ?_, fun h => ?_⟩ <;> cases h
  | false =>
    cases h2 : s.otherBoots with
    | true =>
      obtain ⟨hk, h3, h4, h5⟩ := s.slotsShown.booted_spec vexps (1 - s.sec.nextSlot)
      refine ⟨_, hexec.trans (next_congr ((if_neg (by simp [h2])).trans (by rw [h1, if_neg (by decide)]))), hshown.trans hk, fun h => ?_,
        fun _ _ => ⟨h3, h4, ?_⟩, fun _ h => ?_⟩
      · cases h
      · rw [h5]; omega
      · cases h
    | false =>
      refine ⟨({ s.slotsShown with pins := { s.slotsShown.pins with faultN := false } } : State).noteBoard,
        hexec.trans (next_congr (if_pos (by simp [h1, h2]))), hshown.pins.noteBoard, fun h => ?_, fun _ h => ?_, fun _ _ => ⟨?_, ?_⟩⟩
      · cases h
      · cases h
      · rw [State.noteBoard_pins]
      · rw [State.fget_of_rget (State.rget_noteBoard _ _), State.fget_of_rget (State.rget_with_pins _ _ _),
          State.fget_of_rget (State.rget_slotsShown _ (by decide)), hst]

end

end Sys2Proof.Machine
end

section
/-! PROOFS. O59, settled: stages 2 to 5, early service and its handover. -/

namespace Sys2Proof.Machine

section

variable {s : State}

/-! ### Stage 2 (R628, R651) -/

/-- What the check of the slot that is not active makes of bring-up. -/
def otherChosen (k : Nat) : Bool × State → State
  | (true, v) => v.bootSurvey (1 - k) 2
  | (false, v) => { v with pwr := { v.pwr with waiting := true } }

/-- What the check of the active slot makes of bring-up. -/
def activeChosen (k : Nat) : Bool × State → State
  | (true, u) => u.bootSurvey k 1
  | (false, u) => otherChosen k (u.bootCheck (1 - k))

/-- Bring-up after the checks of the survey slots. -/
def State.surveyChosen (t : State) : State := activeChosen t.activeSlot (t.bootCheck t.activeSlot)

theorem State.surveyChosen_spec (t : State) (a : Bool) (u : State) (h : t.bootCheck t.activeSlot = (a, u)) :
    (a = true → t.surveyChosen = u.bootSurvey t.activeSlot 1) ∧
    (a = false → ∀ b v, u.bootCheck (1 - t.activeSlot) = (b, v) → (b = true → t.surveyChosen = v.bootSurvey (1 - t.activeSlot) 2) ∧
      (b = false → t.surveyChosen = { v with pwr := { v.pwr with waiting := true } })) := by
  refine ⟨fun ha => ?_, fun ha b v hb => ⟨fun hb' => ?_, fun hb' => ?_⟩⟩
  · rw [State.surveyChosen, h, ha, activeChosen]
  · rw [State.surveyChosen, h, ha, activeChosen, hb, hb', otherChosen]
  · rw [State.surveyChosen, h, ha, activeChosen, hb, hb', otherChosen]

theorem execStage2Done_due (hb : s.booting = true) (hst : s.fget PWR_STATUS_STAGE = 2) (hw : s.pwr.waiting = false) :
    exec .stage2Done s = .next s.readHealth.surveyChosen := by
  show execStage2Done s = _
  rw [execStage2Done, if_neg (by simp [hb, hst, hw])]
  rfl

theorem execStage2Done_not (h : s.booting = false ∨ s.fget PWR_STATUS_STAGE ≠ 2) : exec .stage2Done s = .next s :=
  next_congr (if_pos (h.imp_right .inl))

/-! ### Stage 3: the stacks (R649, R650) -/

theorem State.nextStack_lt {st : Nat} (h : s.nextStack = some st) : st < 16 := by
  simpa using List.mem_of_find?_eq_some h

theorem State.refreshStack_frame (s : State) (st : Nat) : s.OnlyRegs (s.refreshStack st) ∧
    (s.refreshStack st).rget 0x6004 = s.rget 0x6004 ∧ (s.refreshStack st).fget HBC_STATUS_TRAINED st = s.fget HBC_STATUS_TRAINED st := by
  unfold State.refreshStack
  split
  · exact ⟨.refl s, rfl, rfl⟩
  · extract_lets live
    have hlive : regAddr HBC_PC_LIVE st 0 ≠ 0x6004 ∧ regAddr HBC_STATUS st 0 ≠ 0x6004 := by
      simp only [regAddr, HBC_PC_LIVE, HBC_STATUS]; omega
    refine ⟨(State.OnlyRegs.refl s).fset.fset, ?_, ?_⟩
    · rw [State.rget_fset_ne _ HBC_STATUS_LIVE_PC _ st 0 _ hlive.2, State.rget_fset_ne _ HBC_PC_LIVE_MASK _ st 0 _ hlive.1]
    · rw [State.fget_fset_other _ _ _ _ _ _ _ _ (by decide) (by decide) (by decide), State.fget_fset_ne]
      simp only [regAddr, HBC_PC_LIVE_MASK, HBC_PC_LIVE, HBC_STATUS_TRAINED, HBC_STATUS]
      omega

/-- The sleep of one stack shown. -/
def State.sleepStack (s : State) (st : Nat) : State :=
  if s.fget HBC_STATUS_TRAINED st == 0 then s else
  s.fset HBC_STATUS_LOW_POWER (b2n (!s.chambers.any (fun c => c.kind != 0 && bitOf c.stackMask st))) st

theorem State.refreshSleep_def (s : State) : s.refreshSleep = (List.range 16).foldl State.sleepStack s := rfl

theorem State.sleepStack_frame (s : State) (st k : Nat) : s.OnlyRegs (s.sleepStack st) ∧
    (s.sleepStack st).rget 0x6004 = s.rget 0x6004 ∧ (s.sleepStack st).fget HBC_STATUS_TRAINED k = s.fget HBC_STATUS_TRAINED k := by
  unfold State.sleepStack
  split
  · exact ⟨.refl s, rfl, rfl⟩
  · refine ⟨(State.OnlyRegs.refl s).fset, State.rget_fset_ne _ HBC_STATUS_LOW_POWER _ st 0 _ ?_,
      State.fget_fset_other _ _ _ _ _ _ _ _ (by decide) (by decide) (by decide)⟩
    simp only [regAddr, HBC_STATUS_LOW_POWER, HBC_STATUS]; omega

theorem State.refreshSleep_frame (s : State) (k : Nat) : s.OnlyRegs s.refreshSleep ∧
    s.refreshSleep.rget 0x6004 = s.rget 0x6004 ∧ s.refreshSleep.fget HBC_STATUS_TRAINED k = s.fget HBC_STATUS_TRAINED k := by
  rw [State.refreshSleep_def]
  exact ⟨(State.OnlyRegs.refl s).foldl (fun u st => (u.sleepStack_frame st k).1) _,
    State.foldl_keeps (·.rget 0x6004) (fun u st => (u.sleepStack_frame st k).2.1) _ s,
    State.foldl_keeps (·.fget HBC_STATUS_TRAINED k) (fun u st => (u.sleepStack_frame st k).2.2) _ s⟩

/-- A stack in service, as the registers show it. -/
def State.stackShown (s : State) (st : Nat) : State :=
  ((((s.fset PWR_BOOT_STACKS_READY (s.fget PWR_BOOT_STACKS_READY ||| 2 ^ st)).fset HBC_STATUS_TRAINED 1 st).refreshStack st).refreshSleep)

theorem State.stackShown_spec (s : State) {st : Nat} (h : st < 16) : s.OnlyRegs (s.stackShown st) ∧
    bitOf ((s.stackShown st).fget PWR_BOOT_STACKS_READY) st = true ∧ (s.stackShown st).fget HBC_STATUS_TRAINED st = 1 := by
  let u := s.fset PWR_BOOT_STACKS_READY (s.fget PWR_BOOT_STACKS_READY ||| 2 ^ st)
  let v := u.fset HBC_STATUS_TRAINED 1 st
  obtain ⟨h1, h2, h3⟩ := v.refreshStack_frame st
  obtain ⟨h4, h5, h6⟩ := (v.refreshStack st).refreshSleep_frame st
  have hv : v.rget 0x6004 = u.rget 0x6004 := State.rget_fset_ne _ HBC_STATUS_TRAINED _ st 0 _ (by
    simp only [regAddr, HBC_STATUS_TRAINED, HBC_STATUS]; omega)
  have hready : (s.stackShown st).fget PWR_BOOT_STACKS_READY = s.fget PWR_BOOT_STACKS_READY ||| 2 ^ st := by
    rw [State.fget_of_rget ((h5.trans h2).trans hv)]
    exact State.fget_fset_of_lt s 0 0 (by decide) (Nat.or_lt_two_pow (s.fget_lt PWR_BOOT_STACKS_READY 0 0)
      (Nat.pow_lt_pow_right (by decide) h))
  refine ⟨(((State.OnlyRegs.refl s).fset.fset : s.OnlyRegs v).trans h1).trans h4, ?_, ?_⟩
  · rw [hready, bitOf_eq_testBit, Nat.testBit_or, Nat.testBit_two_pow_self, Bool.or_true]
  · rw [State.stackShown, h6, h3]
    exact State.fget_fset_of_lt _ st 0 (by decide) (by decide)

/-- The delays that seed a stack's next training are kept. -/
def State.seedStack (s : State) (st : Nat) : State :=
  { s with pwr := { s.pwr with seeded := if s.pwr.seeded.contains st then s.pwr.seeded else s.pwr.seeded ++ [st] } }

theorem State.seedStack_spec (s : State) (st : Nat) : s.KeepsWork (s.seedStack st) ∧ (∀ a, (s.seedStack st).rget a = s.rget a) ∧
    (s.seedStack st).pwr.seeded.contains st = true := by
  refine ⟨(State.KeepsWork.refl s).pwr, fun _ => rfl, ?_⟩
  show List.contains (if s.pwr.seeded.contains st then s.pwr.seeded else s.pwr.seeded ++ [st]) st = true
  split
  · assumption
  · simp

section

variable {st : Nat} (hb : s.booting = true) (hst : 3 ≤ s.fget PWR_STATUS_STAGE) (hn : s.nextStack = some st)
include hb hst hn

theorem stackTrained_ok : ∃ s', exec (.stackTrained st true) s = .next s' ∧ bitOf (s'.fget PWR_BOOT_STACKS_READY) st = true ∧
    s'.fget HBC_STATUS_TRAINED st = 1 ∧ s'.pwr.seeded.contains st = true ∧ s.KeepsWork s' := by
  obtain ⟨hregs, hready, htrained⟩ := s.stackShown_spec (State.nextStack_lt hn)
  obtain ⟨hk, hr, hseed⟩ := (s.stackShown st).seedStack_spec st
  exact ⟨(s.stackShown st).seedStack st, next_congr ((if_neg (by simp [hb, hn]; omega)).trans (if_pos rfl)),
    by rw [State.fget_of_rget (hr _)]; exact hready, (State.fget_of_rget (hr _)).trans htrained, hseed, hregs.keepsWork.trans hk⟩

theorem stackTrained_fails (hf : smGet (fun _ => 0) s.pwr.failures st < 2) : ∃ s', exec (.stackTrained st false) s = .next s' ∧
    smGet (fun _ => 0) s'.pwr.failures st = smGet (fun _ => 0) s.pwr.failures st + 1 ∧ s' = { s with pwr := s'.pwr } := by
  have hfew : smGet (fun _ => 0) s.pwr.failures st + 1 < 3 := by omega
  refine ⟨{ s with pwr := { s.pwr with
    failures := smPut (fun _ => 0) s.pwr.failures st (smGet (fun _ => 0) s.pwr.failures st + 1) } },
    next_congr ((if_neg (by simp [hb, hn]; omega)).trans ((if_neg (by decide)).trans (if_pos hfew))), ?_, rfl⟩
  dsimp only
  rw [smGet_smPut_self]

theorem execStackTrained_retires (hf : 2 ≤ smGet (fun _ => 0) s.pwr.failures st) : exec (.stackTrained st false) s =
    .next ((List.range 32).foldl (fun s p => if s.healthOf (unitPc st p) == umber then s else s.setUnit (unitPc st p) umber)
      { s with pwr := { s.pwr with
        failures := smPut (fun _ => 0) s.pwr.failures st (smGet (fun _ => 0) s.pwr.failures st + 1) } }) := by
  have hmany : ¬ smGet (fun _ => 0) s.pwr.failures st + 1 < 3 := by omega
  exact next_congr ((if_neg (by simp [hb, hn]; omega)).trans ((if_neg (by decide)).trans (if_neg hmany)))

end

theorem execStackTrained_other {st : Nat} (ok : Bool) (h : s.nextStack ≠ some st) : exec (.stackTrained st ok) s = .next s :=
  next_congr (if_pos (.inr (.inr h)))

/-! ### Stage 4: early service (R655, R656) -/

theorem execEarlyService_none (h : s.earlyBody = none) : exec .earlyService s = .next s := by
  show execEarlyService s = _
  rw [execEarlyService, h]

/-- Early service set up in the early chamber. -/
def State.earlyLive (u : State) (b : List Byte) : State :=
  let v := ((u.goLive (fieldAt b 0 1)).fset PWR_STATUS_EARLY 1).fset PWR_BOOT_EARLY 1
  (v.galleriesOf (fieldAt b 0 1)).foldl (fun s g => s.placeRate g (1000 * fieldAt b 4 2) 2_400_000) v

theorem execEarlyService_due {b : List Byte} {ok : Bool} (h : s.earlyBody = some (b, ok)) (hb : s.booting = true)
    (hst : s.fget PWR_STATUS_STAGE = 3) (he : s.fget PWR_BOOT_EARLY = 0) (hs : s.pwr.shutdownAt = none)
    (hall : (List.range 4).all s.stackDone = true) : exec .earlyService s =
      .next (if s.fget PWR_BOOT_STACKS_READY % 16 ≠ 15 then s.fset PWR_BOOT_EARLY 2
        else if ok then match (s.toStage 4).earlySetup b with
          | none => (s.toStage 4).fset PWR_BOOT_EARLY 3
          | some u => u.earlyLive b
        else (s.toStage 4).fset PWR_BOOT_EARLY 3) := by
  show execEarlyService s = _
  rw [execEarlyService, h]
  refine next_congr ((if_neg ?_).trans ?_)
  · rintro (h | h | h | h | h)
    · rw [hb] at h; cases h
    · exact h hst
    · exact h he
    · rw [hs] at h; cases h
    · rw [hall] at h; cases h
  · extract_lets u
    have hu : u = s.toStage 4 := rfl
    rw [hu]
    cases ok <;> rfl

/-! ### Stage 5 and the handover (R657) -/

theorem execStage5_not (h : s.booting = false) : exec .stage5 s = .next s := next_congr (if_pos (.inl h))

theorem execStage5_due (hb : s.booting = true) (hst : s.fget PWR_STATUS_STAGE = 3 ∨ s.fget PWR_STATUS_STAGE = 4)
    (hn : s.nextStack = none) (hs : s.pwr.shutdownAt = none) : exec .stage5 s =
      .next (if (s.toStage 5).fget PWR_STATUS_EARLY = 1 then
        { s.toStage 5 with pwr := { (s.toStage 5).pwr with handoverAt := some (s.toStage 5).now } } else (s.toStage 5).fullChambers) := by
  refine next_congr (if_neg ?_)
  rintro (h | h | h | h)
  · rw [hb] at h; cases h
  · omega
  · rw [hn] at h; cases h
  · rw [hs] at h; cases h

theorem State.fget_early_toStage (s : State) (n : Nat) : (s.toStage n).fget PWR_STATUS_EARLY = s.fget PWR_STATUS_EARLY := by
  rw [State.toStage, State.fget_of_rget (State.rget_noteBoard _ _)]
  exact State.fget_fset_other _ _ _ _ _ _ _ _ (by decide) (by decide) (by decide)

theorem State.now_toStage (s : State) (n : Nat) : (s.toStage n).now = s.now := by
  have hboard : ∀ u : State, u.noteBoard.now = u.now := fun _ => rfl
  rw [State.toStage, hboard, State.fset_now]

theorem stage5_handover (hb : s.booting = true) (hst : s.fget PWR_STATUS_STAGE = 3 ∨ s.fget PWR_STATUS_STAGE = 4)
    (hn : s.nextStack = none) (hs : s.pwr.shutdownAt = none) (he : s.fget PWR_STATUS_EARLY = 1) :
    ∃ s', exec .stage5 s = .next s' ∧ s'.fget PWR_STATUS_STAGE = 5 ∧ s'.pwr.handoverAt = some s.now ∧ s.KeepsWork s' := by
  have hexec := execStage5_due hb hst hn hs
  rw [if_pos ((s.fget_early_toStage 5).trans he), s.now_toStage 5] at hexec
  exact ⟨_, hexec, (State.fget_of_rget (State.rget_with_pwr _ _ _)).trans (s.fget_toStage (by decide)), rfl, (s.keepsWork_toStage 5).pwr⟩

theorem execStage5_full (hb : s.booting = true) (hst : s.fget PWR_STATUS_STAGE = 3 ∨ s.fget PWR_STATUS_STAGE = 4)
    (hn : s.nextStack = none) (hs : s.pwr.shutdownAt = none) (he : s.fget PWR_STATUS_EARLY = 0) :
    exec .stage5 s = .next (s.toStage 5).fullChambers := by
  have hexec := execStage5_due hb hst hn hs
  rwa [if_neg (by rw [s.fget_early_toStage 5, he]; decide)] at hexec

/-- The last step of the handover. -/
def State.earlyGone (s : State) (n : Nat) : State :=
  let u := (s.fset PWR_STATUS_EARLY 0).setChamber n Chamber.none [] [] []
  ({ u with pwr := { u.pwr with handoverAt := none } } : State).fullChambers

theorem execEarlyHandover_none (h : s.pwr.handoverAt = none) : exec .earlyHandover s = .next s := by
  show execEarlyHandover s = _
  rw [execEarlyHandover, h]

theorem execEarlyHandover_due {at_ : Nat} {b : List Byte} {ok : Bool} (h : s.pwr.handoverAt = some at_)
    (hbody : s.earlyBody = some (b, ok)) (hh : s.pwr.halted = false) : exec .earlyHandover s =
      .next (let n := fieldAt b 0 1
        if s.fget CHB_STATE_STATE n = chbLive then
          if s.items.isEmpty = false ∧ s.now < at_ + 1_000_000 * fieldAt b 0x10 2 then s else s.stopChamber n
        else if s.fget CHB_STATE_STATE n = chbDraining then if s.drained n then s.zeroBegin n else s
        else if s.svy.zeroing.isEmpty = false then s else s.earlyGone n) := by
  show execEarlyHandover s = _
  rw [execEarlyHandover, h, hbody]
  exact next_congr (if_neg (by simp [hh]))

theorem earlyHandover_spec {at_ : Nat} {b : List Byte} {ok : Bool} (h : s.pwr.handoverAt = some at_)
    (hbody : s.earlyBody = some (b, ok)) (hh : s.pwr.halted = false) : let n := fieldAt b 0 1
    (s.fget CHB_STATE_STATE n = chbLive → s.items = [] ∨ at_ + 1_000_000 * fieldAt b 0x10 2 ≤ s.now →
      exec .earlyHandover s = .next (s.stopChamber n)) ∧
    (s.fget CHB_STATE_STATE n = chbLive → s.items ≠ [] → s.now < at_ + 1_000_000 * fieldAt b 0x10 2 →
      exec .earlyHandover s = .next s) ∧
    (s.fget CHB_STATE_STATE n = chbDraining → s.drained n = false → exec .earlyHandover s = .next s) ∧
    (s.fget CHB_STATE_STATE n = chbDraining → s.drained n = true → exec .earlyHandover s = .next (s.zeroBegin n)) ∧
    (s.fget CHB_STATE_STATE n = chbZeroising → s.svy.zeroing = [] → exec .earlyHandover s = .next (s.earlyGone n)) := by
  have hexec := execEarlyHandover_due h hbody hh
  intro n
  refine ⟨fun hs hi => hexec.trans (next_congr ((if_pos hs).trans (if_neg ?_))),
    fun hs hi ht => hexec.trans (next_congr ((if_pos hs).trans (if_pos ⟨by simpa using hi, ht⟩))),
    fun hs hd => hexec.trans (next_congr ((if_neg ?_).trans ((if_pos hs).trans (if_neg (by simp [n, hd]))))),
    fun hs hd => hexec.trans (next_congr ((if_neg ?_).trans ((if_pos hs).trans (if_pos hd)))),
    fun hs hz => hexec.trans (next_congr ((if_neg ?_).trans ((if_neg ?_).trans (if_neg (by simp [hz])))))⟩
  · rcases hi with hi | hi
    · simp [hi]
    · simp; omega
  all_goals rw [hs]; decide

end

/-- Settles O59: each command by its own lemma. -/
theorem resetsAndBringUp : Obligations.ResetsAndBringUp := by
  unfold Obligations.ResetsAndBringUp
  intro s r
  refine ⟨fun hg hr ht => ?_, fun hg h => ?_, fun hg => next_congr (if_pos hg), fun hg => next_congr (if_pos (by simp [hg])),
    fun hr => next_congr (if_pos (by simp [hr])), execWarmReset_stopped, resetNRises_running, fun hh => next_congr (if_pos hh),
    fun hh hg hr hth ht ho => ?_, fun ho => ?_, fun hr hg hth hh => ?_, resetNRises_ends, pwrGoodFall_holds, portReset_owner,
    refclkLoss_stops, fun hs ho => next_congr ((if_pos ho).trans (if_pos (.inl hs))), offReq_early,
    fun hn hh hr => ⟨shutdown_owner hn hh hr, offReq_begins hn hh hr⟩,
    fun at_ h hd hh => ⟨shutdownDrainEnd_waits h, shutdownDrainEnd_ends h hd hh⟩, shutdownDrainEnd_none,
    fun hd => next_congr (if_pos (.inl hd)), offReady_asserts, fun hb hf hst vexps => firmwareVerified_due hb hf hst vexps,
    fun vexps h => next_congr (if_pos (h.imp_right .inl)), execStage2Done_not, fun st ok h => execStackTrained_other ok h,
    execEarlyService_none, execStage5_not, execEarlyHandover_none,
    fun hb hst hw => ⟨_, execStage2Done_due hb hst hw, s.readHealth.surveyChosen_spec⟩,
    fun st hb hst hn => ⟨stackTrained_ok hb hst hn, stackTrained_fails hb hst hn, execStackTrained_retires hb hst hn⟩,
    fun b ok h hb hst he hs hall => ?_,
    fun hb hst hn hs => ⟨stage5_handover hb hst hn hs, execStage5_full hb hst hn hs⟩,
    fun at_ b ok h hbody hh => earlyHandover_spec h hbody hh⟩
  · obtain ⟨h, h1, h2, h3, h4⟩ := powerOn_starts hr ht
    exact ⟨_, execPowerOn_rises hg, h1, h2, h3, h.mem, h.items, h.strands, h.sessions, h4, h.keys, h.keysets, h.fwA, h.fwB, h.svyA,
      h.svyB, h.pending⟩
  · obtain ⟨h, h1, h2⟩ := powerOn_held h
    exact ⟨_, execPowerOn_rises hg, h1, h2, h.mem, h.strands, h.keys⟩
  · obtain ⟨s', hexec, h, h1, h2, h3⟩ := warmReset_starts hh hg hr hth ht ho
    exact ⟨s', hexec, h1, h.mem, h.strands, h.sessions, h2, h3, h.keys⟩
  · exact ⟨next_congr (if_neg (by simp [ho])), next_congr (if_neg (by simp [ho])), next_congr (if_neg (by simp [ho]))⟩
  · obtain ⟨h, h1, h2, h3, h4⟩ := resetN_holds s
    exact ⟨_, execResetN_falls hr hg hth hh, h1, h2, h3, h4, h.mem, h.strands, h.keys⟩
  · have hexec := execEarlyService_due h hb hst he hs hall
    refine ⟨fun hr => hexec.trans (next_congr (if_pos hr)), fun hr hok => hexec.trans (next_congr ((if_neg (by simp [hr])).trans ?_)),
      fun hr hok hset => hexec.trans (next_congr ((if_neg (by simp [hr])).trans ?_)),
      fun u hr hok hset => hexec.trans (next_congr ((if_neg (by simp [hr])).trans ?_))⟩
    · rw [hok]; rfl
    · rw [hok, if_pos rfl, hset]
    · rw [hok, if_pos rfl, hset]; rfl

end Sys2Proof.Machine
end

section
/-! PROOFS. O58: slate windows, owner commands on units, and the health area of flash. -/

namespace Sys2Proof.Machine

section

variable {s t u : State} {α : Type}

/-! ### What the registers show of the units (R622, R629, R642) -/

/-- Nothing differs but registers, domains, the board's notes, the pins and what has been sent. -/
def State.OnlyShown (s t : State) : Prop :=
  t = { s with regs := t.regs, pwr := t.pwr, i3c := t.i3c, pins := t.pins, out := t.out }

namespace State.OnlyShown

theorem refl (s : State) : s.OnlyShown s := rfl

theorem trans (h : s.OnlyShown t) (h' : t.OnlyShown u) : s.OnlyShown u := by
  rw [State.OnlyShown] at h h' ⊢
  rw [h', h]

theorem keepsWork (h : s.OnlyShown t) : s.KeepsWork t :=
  ⟨(congrArg State.mem h :), (congrArg State.strands h :), (congrArg State.items h :), (congrArg State.queues h :),
    (congrArg State.engOps h :), (congrArg State.ms h :)⟩

theorem hlm_eq (h : s.OnlyShown t) : t.hlm = s.hlm := (congrArg State.hlm h :)

theorem health_eq (h : s.OnlyShown t) : t.health = s.health := (congrArg State.health h :)

theorem mgc_eq (h : s.OnlyShown t) : t.mgc = s.mgc := (congrArg State.mgc h :)

theorem regs (h : s.OnlyShown t) (h' : t.OnlyRegs u) : s.OnlyShown u := h.trans (by rw [State.OnlyRegs] at h'; rw [h']; rfl)

theorem fset (h : s.OnlyShown t) {f : Fld} {v i j : Nat} : s.OnlyShown (t.fset f v i j) := h.regs (State.OnlyRegs.refl t).fset

theorem wset (h : s.OnlyShown t) {r : Reg} {v i j : Nat} : s.OnlyShown (t.wset r v i j) := h.regs (State.OnlyRegs.refl t).wset

theorem noteBoard (h : s.OnlyShown t) : s.OnlyShown t.noteBoard := h.trans rfl

theorem foldl {f : State → α → State} (h : s.OnlyShown t) (hf : ∀ (u : State) x, u.OnlyShown (f u x)) (l : List α) :
    s.OnlyShown (l.foldl f t) := by
  induction l generalizing t with
  | nil => exact h
  | cons x l ih => exact ih (h.trans (hf t x))

theorem ite {c : Prop} [Decidable c] (ht : s.OnlyShown t) (hu : s.OnlyShown u) : s.OnlyShown (if c then t else u) := by
  split
  · exact ht
  · exact hu

end State.OnlyShown

theorem State.onlyShown_refreshDomain (s : State) (d : Nat) : s.OnlyShown (s.refreshDomain d) := by
  rw [State.refreshDomain_def, State.sendVout]
  have h : s.OnlyShown (s.showDomain d) := (State.OnlyShown.refl s).regs (s.onlyRegs_showDomain d)
  generalize s.showDomain d = t at h
  have hsent : ∀ x e, s.OnlyShown ((t.setDomain d x).emit e) := fun _ _ => h.trans rfl
  exact .ite h (hsent _ _)

theorem State.onlyShown_deviceFails (s : State) (cause : Nat) : s.OnlyShown (s.deviceFails cause) := by
  unfold State.deviceFails
  extract_lets p v
  have hv : s.OnlyShown v := rfl
  exact (State.OnlyShown.ite hv hv.fset.fset).noteBoard

theorem State.onlyShown_refreshDevice (s : State) : s.OnlyShown s.refreshDevice :=
  .ite (.refl s) (.ite (s.onlyShown_deviceFails 2) (.ite (s.onlyShown_deviceFails 3) (State.OnlyShown.refl s).fset.noteBoard))

theorem State.onlyShown_refreshSummary (s : State) : s.OnlyShown s.refreshSummary :=
  ((State.OnlyShown.refl s).fset.fset.fset.fset.fset.fset.fset.fset).trans (State.onlyShown_refreshDevice _)

theorem State.onlyShown_clearRates (s : State) (g : Nat) : s.OnlyShown (s.clearRates g) := by
  unfold State.clearRates
  extract_lets v
  have hv : s.OnlyShown v := .ite (.refl s) (State.OnlyShown.refl s).wset
  exact hv.foldl (fun t k => .ite (.refl t) (State.OnlyShown.refl t).wset) _

theorem State.onlyShown_refreshLive (s : State) : s.OnlyShown s.refreshLive := by
  unfold State.refreshLive
  extract_lets v
  have hv : s.OnlyShown v := (State.OnlyShown.refl s).foldl (fun t n => .ite (.refl t) (State.OnlyShown.refl t).fset.fset) _
  exact hv.fset

theorem State.onlyShown_refreshLane (s : State) (l : Nat) : s.OnlyShown (s.refreshLane l) := by
  unfold State.refreshLane
  dsimp only
  exact .ite (State.OnlyShown.refl s).fset.fset.fset.fset.fset (State.OnlyShown.refl s).fset.fset.fset

theorem State.onlyShown_refreshUnit (s : State) (u : Nat) : s.OnlyShown (s.refreshUnit u) := by
  unfold State.refreshUnit
  extract_lets v
  have hv : s.OnlyShown v := s.onlyShown_refreshSummary
  split
  · exact ((hv.trans (v.onlyShown_refreshDomain _)).trans (State.onlyShown_clearRates _ _)).trans (State.onlyShown_refreshLive _)
  · exact .ite (hv.regs (v.refreshStack_frame _).1) (hv.trans (v.onlyShown_refreshLane _))

end

/-! ### Owner commands on a unit (R625) -/

section

variable {s : State} {r : Requester} {u st : Nat}

/-- Only the monitor's state, its registers and counts of windows differ beside what is shown, and the health of one unit. -/
def State.UnitSet (s t : State) (u st : Nat) : Prop :=
  t.mem = s.mem ∧ t.health = smPut (fun _ => 0) s.health u st

theorem State.UnitSet.spec {t : State} (h : s.UnitSet t u st) :
    t.healthOf u = st ∧ s.KeepsMemory t ∧ ∀ v, v ≠ u → t.healthOf v = s.healthOf v := by
  obtain ⟨hmem, hhealth⟩ := h
  refine ⟨?_, State.keepsMemory_of_mem hmem, fun v hv => ?_⟩
  · rw [State.healthOf, hhealth, smGet_smPut_self]
  · rw [State.healthOf, hhealth, smGet_smPut, if_neg (Ne.symm hv), State.healthOf]

theorem State.UnitSet.shown {t v : State} (h : s.UnitSet t u st) (h' : t.OnlyShown v) : s.UnitSet v u st :=
  ⟨h'.keepsWork.1.trans h.1, h'.health_eq.trans h.2⟩

/-- A unit that is not retired takes nothing with it. -/
theorem State.unitSet_setUnit (s : State) (u : Nat) (h : st ≠ umber) : s.UnitSet (s.setUnit u st) u st := by
  have hone : (st == umber) = false := by simpa using h
  unfold State.setUnit
  extract_lets kept a h b m c d e
  have ha : s.UnitSet a u st := ⟨rfl, rfl⟩
  have hb : s.UnitSet b u st := by
    show s.UnitSet (if st == 1 then _ else a) u st
    split
    · split
      · exact ha
      · exact ha
    · exact ha
  have hc : s.UnitSet c u st := hb
  have hd : s.UnitSet d u st := (hc.shown (State.OnlyShown.refl c).fset).shown (State.onlyShown_refreshUnit _ u)
  have he : s.UnitSet e u st := by
    show s.UnitSet (if st == umber then _ else d) u st
    rw [hone]
    exact hd
  clear_value e kept
  split
  · split
    · exact he
    · exact he
  · exact he

/-- The registers of the last event. -/
def State.eventShown (s : State) (u kind : Nat) : State :=
  ((s.bump HLM_EVENTS_COUNT).fset HLM_EVT_LAST_KIND kind).fset HLM_EVT_LAST_UNIT u

theorem State.logEvent_eq (s : State) (u kind : Nat) : ∃ x, s.logEvent u kind = (s.eventShown u kind).setHistory u x := ⟨_, rfl⟩

theorem State.setHistory_frame (s : State) (u : Nat) (x : UnitHistory) :
    (s.setHistory u x).mem = s.mem ∧ (s.setHistory u x).health = s.health := ⟨rfl, rfl⟩

theorem State.logEvent_frame (s : State) (u kind : Nat) :
    (s.logEvent u kind).mem = s.mem ∧ (s.logEvent u kind).health = s.health := by
  obtain ⟨x, hx⟩ := s.logEvent_eq u kind
  have hregs : s.OnlyRegs (s.eventShown u kind) := (State.OnlyRegs.refl s).bump.fset.fset
  obtain ⟨hmem, hhealth⟩ := (s.eventShown u kind).setHistory_frame u x
  rw [hx]
  exact ⟨hmem.trans (congrArg State.mem hregs :), hhealth.trans (congrArg State.health hregs :)⟩

/-- HLM_UNIT_CMD shows the command. -/
def State.unitCmdShown (s : State) (op u : Nat) : State := (s.fset HLM_UNIT_CMD_OP op).fset HLM_UNIT_CMD_UNIT u

theorem State.healthOf_unitCmdShown (s : State) (op u v : Nat) : (s.unitCmdShown op u).healthOf v = s.healthOf v := by
  rw [State.unitCmdShown, State.healthOf_fset, State.healthOf_fset]

theorem State.unitCmdShown_frame (s : State) (op u : Nat) :
    (s.unitCmdShown op u).mem = s.mem ∧ (s.unitCmdShown op u).health = s.health :=
  ⟨(State.fset_mem _ _ _ _ _).trans (State.fset_mem _ _ _ _ _), (State.fset_health _ _ _ _ _).trans (State.fset_health _ _ _ _ _)⟩

theorem State.unitCmd_applies {s : State} {op u : Nat} (hu : unitOk u = true) :
    (op = 1 → s.healthOf u = 0 → s.unitCmd op u = (s.logEvent u kOwner).setUnit u 1) ∧
    (op = 2 → s.healthOf u = 1 → s.unitCmd op u = (s.logEvent u kOwner).setUnit u 0) ∧
    (op = 3 → s.healthOf u < 2 → s.unitCmd op u = (s.logEvent u kOwner).setUnit u umber) := by
  have hok : ¬ (!unitOk u) = true := by simp [hu]
  refine ⟨fun ho h => ?_, fun ho h => ?_, fun ho h => ?_⟩
  · unfold State.unitCmd
    rw [if_neg hok, ho, h]
    rfl
  · unfold State.unitCmd
    rw [if_neg hok, ho, h]
    rfl
  · unfold State.unitCmd
    obtain h | h : s.healthOf u = 0 ∨ s.healthOf u = 1 := by omega
    · rw [if_neg hok, ho, h]; rfl
    · rw [if_neg hok, ho, h]; rfl

theorem State.writeUnitCmd_mark (hu : unitOk u = true) (h : s.healthOf u = 0) :
    s.writeUnitCmd 1 u = ((s.unitCmdShown 1 u).logEvent u kOwner).setUnit u 1 :=
  (State.unitCmd_applies hu).1 rfl ((s.healthOf_unitCmdShown 1 u u).trans h)

theorem State.writeUnitCmd_clear (hu : unitOk u = true) (h : s.healthOf u = 1) :
    s.writeUnitCmd 2 u = ((s.unitCmdShown 2 u).logEvent u kOwner).setUnit u 0 :=
  (State.unitCmd_applies hu).2.1 rfl ((s.healthOf_unitCmdShown 2 u u).trans h)

theorem State.writeUnitCmd_retire (hu : unitOk u = true) (h : s.healthOf u < 2) :
    s.writeUnitCmd 3 u = ((s.unitCmdShown 3 u).logEvent u kOwner).setUnit u umber :=
  (State.unitCmd_applies hu).2.2 rfl ((s.healthOf_unitCmdShown 3 u u).trans_lt h)

theorem State.unitSet_logged (s : State) (op u : Nat) (h : st ≠ umber) :
    s.UnitSet (((s.unitCmdShown op u).logEvent u kOwner).setUnit u st) u st := by
  obtain ⟨hmem, hhealth⟩ := (s.unitCmdShown op u).logEvent_frame u kOwner
  obtain ⟨hm, hh⟩ := ((s.unitCmdShown op u).logEvent u kOwner).unitSet_setUnit u h
  obtain ⟨hm', hh'⟩ := s.unitCmdShown_frame op u
  exact ⟨hm.trans (hmem.trans hm'), by rw [hh, hhealth, hh']⟩

theorem markAmber_clear (hu : unitOk u = true) (ho : s.owns r = true) (h : s.healthOf u = 0) :
    ∃ s', exec (.markAmber r u) s = .next s' ∧ s'.healthOf u = 1 ∧ s.KeepsMemory s' ∧ ∀ v, v ≠ u → s'.healthOf v = s.healthOf v :=
  ⟨_, next_congr ((if_pos ho).trans (State.writeUnitCmd_mark hu h)), (s.unitSet_logged 1 u (by decide)).spec⟩

theorem clearAmber_amber (hu : unitOk u = true) (ho : s.owns r = true) (h : s.healthOf u = 1) :
    ∃ s', exec (.clearAmber r u) s = .next s' ∧ s'.healthOf u = 0 ∧ s.KeepsMemory s' ∧ ∀ v, v ≠ u → s'.healthOf v = s.healthOf v :=
  ⟨_, next_congr ((if_pos ho).trans (State.writeUnitCmd_clear hu h)), (s.unitSet_logged 2 u (by decide)).spec⟩

end

/-! ### Windows (R631 to R633, R640) -/

section

variable {s : State} {g : Nat} {w : ScanWindow}

theorem State.openWindow_spec (s : State) (hg : g < 16) (b : Bool) : (s.openWindow g b).fget LSQ_STATUS_SCAN g = 1 ∧
    (s.openWindow g b).fget HLM_SCAN_STATUS_STATE = 1 ∧ (s.openWindow g b).fget HLM_SCAN_STATUS_GALLERY = g ∧
    s.KeepsWork (s.openWindow g b) := by
  unfold State.openWindow
  extract_lets copies m v
  have hv : s.KeepsWork v := (State.KeepsWork.refl s).hlm
  clear_value v
  have hne : regAddr HLM_SCAN_STATUS 0 0 ≠ regAddr LSQ_STATUS g 0 := by simp only [regAddr, HLM_SCAN_STATUS, LSQ_STATUS]; omega
  refine ⟨?_, ?_, ?_, hv.fset.fset.fset⟩
  · rw [State.fget_fset_ne _ HLM_SCAN_STATUS_GALLERY LSQ_STATUS_SCAN _ _ _ _ _ hne,
      State.fget_fset_ne _ HLM_SCAN_STATUS_STATE LSQ_STATUS_SCAN _ _ _ _ _ hne]
    exact State.fget_fset_of_lt _ g 0 (by decide) (by decide)
  · rw [State.fget_fset_other _ _ _ _ _ _ _ _ (by decide) (by decide) (by decide)]
    exact State.fget_fset_of_lt _ 0 0 (by decide) (by decide)
  · exact State.fget_fset_of_lt _ 0 0 (by decide) (by simpa [HLM_SCAN_STATUS_GALLERY] using hg)

section

variable (hw : s.hlm.window = none) (hl : s.galleryLive g = true) (hp : s.scanPostponed g = false)
include hw hl hp

theorem execScanWindow_due (hg : g < 16) : exec (.scanWindow g) s = .next (match s.bringUpScan with
    | some h => if g = h then s.openWindow g true else s
    | none => if s.hlm.asked.contains g then s.openWindow g false
      else if s.fget HLM_SCAN_CTRL_ENABLE = 1 ∧ s.rotationNext = some g ∧ s.pair HLM_SCAN_NEXT_LO_TIME HLM_SCAN_NEXT_HI_TIME ≤ s.tb ∧
          3 ≤ s.fget PWR_STATUS_STAGE then
        let s := s.setNextScan (s.pair HLM_SCAN_NEXT_LO_TIME HLM_SCAN_NEXT_HI_TIME + s.scanStep)
        ({ s with hlm := { s.hlm with turn := (g + 1) % 16 } } : State).openWindow g false
      else s) := by
  show execScanWindow g s = _
  rw [execScanWindow, if_neg (by simp [hl]), if_neg (by simp [hw, hl, hp]; omega)] <;> rfl

theorem scanWindow_bringUp (hg : g < 16) (hb : s.bringUpScan = some g) : exec (.scanWindow g) s = .next (s.openWindow g true) := by
  rw [execScanWindow_due hw hl hp hg, hb]
  exact next_congr (if_pos rfl)

theorem scanWindow_asked (hg : g < 16) (hb : s.bringUpScan = none) (ha : s.hlm.asked.contains g = true) :
    exec (.scanWindow g) s = .next (s.openWindow g false) := by
  rw [execScanWindow_due hw hl hp hg, hb]
  exact next_congr (if_pos ha)

theorem execDupScanWindow_due {c : Nat} (hc : c / 8 = g) (hs : s.hlm.suspects.contains c = true) :
    exec (.dupScanWindow c) s = .next (s.openWindow g false) := by
  subst hc
  exact next_congr (if_neg (by simp only [hw, hs, hl, hp]; decide))

end

theorem execScanWindow_open (hw : s.hlm.window.isSome = true) (ha : (s.hlm.asked.contains g && !s.galleryLive g) = false) :
    exec (.scanWindow g) s = .next s :=
  next_congr ((if_neg (by rw [ha]; decide)).trans (if_pos (by rw [hw]; rfl)))

/-- What keeps a window from going on to its slate. -/
def State.windowBusy (s : State) (w : ScanWindow) : Bool :=
  s.engOps.any (fun o => o.core / 8 == w.gallery) ||
    w.copies.any (fun k => match s.item k with
      | some i => (match i.phase with | .mover _ _ => !i.unitDone | _ => false)
      | none => false)

theorem State.windowBusy_false (he : s.engOps.any (fun o => o.core / 8 == w.gallery) = false)
    (hc : w.copies.all (fun k => match s.item k with
      | some i => (match i.phase with | .mover _ _ => i.unitDone | _ => true)
      | none => true) = true) : s.windowBusy w = false := by
  rw [State.windowBusy, he, Bool.false_or, List.any_eq_false]
  intro k hk
  have h := List.all_eq_true.mp hc k hk
  split
  · next i hi =>
    rw [hi] at h
    split
    · next hphase => simp only [hphase] at h; simp [h]
    · simp
  · simp

/-- The window gone from what the health logic holds. -/
def State.windowGone (s : State) (w : ScanWindow) : State := { s with hlm := { s.hlm with
    window := none, deferred := [],
    scanned := if w.bringUp then s.hlm.scanned ++ [w.gallery] else s.hlm.scanned,
    asked := s.hlm.asked.filter (· != w.gallery),
    suspects := s.hlm.suspects.filter (fun c => c / 8 != w.gallery) } }

/-- The window closed, and the scan counted. -/
def State.windowClosed (s : State) (w : ScanWindow) : State :=
  (((s.windowGone w).fset LSQ_STATUS_SCAN 0 w.gallery).bump HLM_SCANS_COUNT).fset HLM_SCAN_STATUS_STATE 0

theorem State.windowClosed_spec (hg : w.gallery < 16) : s.KeepsWork (s.windowClosed w) ∧ (s.windowClosed w).hlm.window = none ∧
    (s.windowClosed w).mgc = s.mgc ∧ (s.windowClosed w).fget LSQ_STATUS_SCAN w.gallery = 0 ∧
    (s.windowClosed w).fget HLM_SCANS_COUNT = min (2 ^ 32 - 1) (s.fget HLM_SCANS_COUNT + 1) ∧
    (s.windowClosed w).fget HLM_SCAN_STATUS_STATE = 0 := by
  unfold State.windowClosed
  have hu : s.KeepsWork (s.windowGone w) := (State.KeepsWork.refl s).hlm
  have hwin : (s.windowGone w).hlm.window = none := rfl
  have hmgc : (s.windowGone w).mgc = s.mgc := rfl
  have hr : ∀ a, (s.windowGone w).rget a = s.rget a := fun a => State.rget_with_hlm s _ a
  generalize s.windowGone w = u at hu hwin hmgc hr ⊢
  have hlsq : regAddr LSQ_STATUS w.gallery 0 = 0x102000 + 0x10000 * w.gallery := by simp [regAddr, LSQ_STATUS]
  refine ⟨hu.fset.bump.fset, ?_, ?_, ?_, ?_, State.fget_fset_of_lt _ 0 0 (by decide) (by decide)⟩
  · rw [State.fset_hlm, State.bump_hlm, State.fset_hlm, hwin]
  · rw [State.fset_mgc, State.bump_mgc, State.fset_mgc, hmgc]
  · have h1 : regAddr HLM_SCAN_STATUS 0 0 ≠ regAddr LSQ_STATUS w.gallery 0 := by rw [hlsq]; simp [regAddr, HLM_SCAN_STATUS]; omega
    have h2 : regAddr HLM_SCANS 0 0 ≠ regAddr LSQ_STATUS w.gallery 0 := by rw [hlsq]; simp [regAddr, HLM_SCANS]; omega
    rw [State.fget_fset_ne _ HLM_SCAN_STATUS_STATE LSQ_STATUS_SCAN _ _ _ _ _ h1,
      State.fget_of_rget (State.rget_bump_ne (f := HLM_SCANS_COUNT) (i := 0) (j := 0) _
        (show regAddr HLM_SCANS_COUNT.reg 0 0 ≠ regAddr LSQ_STATUS_SCAN.reg w.gallery 0 from h2))]
    exact State.fget_fset_of_lt _ w.gallery 0 (by decide) (by decide)
  · have h1 : regAddr LSQ_STATUS w.gallery 0 ≠ regAddr HLM_SCANS 0 0 := by rw [hlsq]; simp [regAddr, HLM_SCANS]; omega
    rw [State.fget_fset_ne _ _ _ _ _ _ _ _ (by decide), State.fget_bump_self _ _ _ _ _ (by decide),
      State.fget_fset_ne _ LSQ_STATUS_SCAN HLM_SCANS_COUNT _ _ _ _ _ h1, State.fget_of_rget (hr _)]
    rfl

/-- What a scan that found nothing leaves shown. -/
def State.passShown (s : State) (g : Nat) : State :=
  ((s.bump HLM_SCAN_FAILS_COUNT 0).fset HLM_SCAN_STATUS_LAST_RESULT 0).refreshDomain g

/-- A scan that found nothing. -/
def State.scanClean (s : State) (w : ScanWindow) : State := (s.windowClosed w).passShown w.gallery

theorem State.rget_passShown {a : Nat} (s : State) (hg : g < 16) (ha : a < 0x6600 ∨ 0x7000 ≤ a) (h1 : a ≠ 0x5044) (h2 : a ≠ 0x5054) :
    (s.passShown g).rget a = s.rget a := by
  have hs : regAddr HLM_SCAN_STATUS_LAST_RESULT.reg 0 0 ≠ a := fun h => h1 h.symm
  have hf : regAddr HLM_SCAN_FAILS_COUNT.reg 0 0 ≠ a := fun h => h2 h.symm
  rw [State.passShown, State.rget_refreshDomain (by omega) (by omega), State.rget_fset_ne _ _ _ _ _ _ hs, State.rget_bump_ne _ hf]

theorem State.passShown_spec (s : State) (hg : g < 16) : s.KeepsWork (s.passShown g) ∧ (s.passShown g).hlm = s.hlm ∧
    (s.passShown g).mgc = s.mgc ∧ (s.passShown g).fget HLM_SCAN_STATUS_STATE = s.fget HLM_SCAN_STATUS_STATE ∧
    (s.passShown g).fget HLM_SCANS_COUNT = s.fget HLM_SCANS_COUNT ∧
    (s.passShown g).fget HLM_SCAN_STATUS_LAST_RESULT = 0 ∧ (s.passShown g).fget LSQ_STATUS_SCAN g = s.fget LSQ_STATUS_SCAN g := by
  have hk : s.KeepsWork ((s.bump HLM_SCAN_FAILS_COUNT 0).fset HLM_SCAN_STATUS_LAST_RESULT 0) := (State.KeepsWork.refl s).bump.fset
  have hshown := ((s.bump HLM_SCAN_FAILS_COUNT 0).fset HLM_SCAN_STATUS_LAST_RESULT 0).onlyShown_refreshDomain g
  have hdom : ∀ a, a < 0x6600 → (s.passShown g).rget a = ((s.bump HLM_SCAN_FAILS_COUNT 0).fset HLM_SCAN_STATUS_LAST_RESULT 0).rget a :=
    fun a ha => State.rget_refreshDomain (by omega) (by omega)
  have hlsq : regAddr LSQ_STATUS g 0 = 0x102000 + 0x10000 * g := by simp [regAddr, LSQ_STATUS]
  refine ⟨hk.trans hshown.keepsWork, ?_, ?_, ?_, ?_, ?_, ?_⟩
  · exact hshown.hlm_eq.trans ((State.fset_hlm _ _ _ _ _).trans (State.bump_hlm _ _ _ _ _))
  · exact hshown.mgc_eq.trans ((State.fset_mgc _ _ _ _ _).trans (State.bump_mgc _ _ _ _ _))
  · rw [State.fget_of_rget (hdom _ (by decide)), State.fget_fset_other _ _ _ _ _ _ _ _ (by decide) (by decide) (by decide),
      State.fget_of_rget (State.rget_bump_ne (f := HLM_SCAN_FAILS_COUNT) (i := 0) (j := 0) _ (by decide))]
  · rw [State.fget_of_rget (State.rget_passShown s hg (.inl (by decide)) (by decide) (by decide))]
  · rw [State.fget_of_rget (hdom _ (by decide))]
    exact State.fget_fset_of_lt _ 0 0 (by decide) (by decide)
  · refine State.fget_of_rget (State.rget_passShown s hg (.inr ?_) ?_ ?_) <;> exact hlsq ▸ (by omega)

theorem State.endScanItem_none (hq : (s.mgQueue mqHealth).items = []) (g code cause : Nat) : s.endScanItem g code cause = s := by
  rw [State.endScanItem, hq]

section

variable (hw : s.hlm.window = some w)
include hw

theorem scanDrainEnd_stops (hs : w.step < 3)
    (h : (List.range 8).all (fun k => (s.boundStrands (8 * w.gallery + k)).isEmpty) = true ∨
      w.openedAt + 1_000_000 * s.fget HLM_SCAN_CTRL_DRAIN_MS ≤ s.now) :
    exec .scanDrainEnd s = .next { s with hlm := { s.hlm with window := some { w with step := 3 } } } := by
  show execScanDrainEnd s = _
  rw [execScanDrainEnd, hw]
  refine next_congr (if_neg ?_)
  rintro (h' | ⟨h', ht⟩)
  · omega
  · rcases h with h | h
    · rw [h] at h'; cases h'
    · omega

theorem execScanQuiesced_some : exec .scanQuiesced s = .next (if w.step ≠ 3 ∨ s.windowBusy w = true then s else
    (({ s with hlm := { s.hlm with window := some { w with step := 5 } } } : State).fset HLM_SCAN_STATUS_STATE 2).refreshDomain
      w.gallery) := by
  show execScanQuiesced s = _
  rw [execScanQuiesced, hw]
  rfl

theorem scanQuiesced_runs (hs : w.step = 3) (hbusy : s.windowBusy w = false) :
    ∃ s', exec .scanQuiesced s = .next s' ∧ s'.hlm.window = some { w with step := 5 } ∧ s'.fget HLM_SCAN_STATUS_STATE = 2 ∧
      s.KeepsWork s' := by
  let v : State := { s with hlm := { s.hlm with window := some { w with step := 5 } } }
  have hv : s.KeepsWork v := (State.KeepsWork.refl s).hlm
  have hshown := (v.fset HLM_SCAN_STATUS_STATE 2).onlyShown_refreshDomain w.gallery
  refine ⟨_, (execScanQuiesced_some hw).trans (next_congr (if_neg (by simp [hs, hbusy]))), ?_, ?_, hv.fset.trans hshown.keepsWork⟩
  · rw [hshown.hlm_eq, State.fset_hlm]
  · have ha : regAddr HLM_SCAN_STATUS_STATE.reg 0 0 = 0x5044 := rfl
    rw [State.fget_of_rget (State.rget_refreshDomain (by rw [ha]; omega) (by rw [ha]; omega))]
    exact State.fget_fset_of_lt _ 0 0 (by decide) (by decide)

theorem execScanQuiesced_other (hs : w.step ≠ 3) : exec .scanQuiesced s = .next s :=
  (execScanQuiesced_some hw).trans (next_congr (if_pos (.inl hs)))

theorem execScanSlateDone_other (fails : List (Nat × Nat × Nat)) (hs : w.step ≠ 5) : exec (.scanSlateDone fails) s = .next s := by
  show execScanSlateDone fails s = _
  rw [execScanSlateDone, hw]
  exact next_congr (if_pos hs)

theorem execScanSlateDone_clean (fails : List (Nat × Nat × Nat)) (hs : w.step = 5) (hd : s.hlm.deferred = []) (hb : w.bringUp = false)
    (hf : ∀ f ∈ fails, unitGalleryOf f.1 ≠ some w.gallery) :
    exec (.scanSlateDone fails) s = .next ((s.scanClean w).endScanItem w.gallery cServed 0) := by
  have hmine : fails.filter (fun f => unitGalleryOf f.1 == some w.gallery && f.2.1 < 3) = [] := by
    rw [List.filter_eq_nil_iff]
    intro f hmem
    simp [hf f hmem]
  show execScanSlateDone fails s = _
  rw [execScanSlateDone, hw]
  refine next_congr ((if_neg (by simp [hs])).trans ?_)
  rw [hmine, hd]
  extract_lets m u v x y z
  have hz : z = (s.windowClosed w).bump HLM_SCAN_FAILS_COUNT 0 := rfl
  clear_value z
  subst hz
  simp only [List.foldl_nil, u, hb, Bool.false_and, Bool.false_eq_true, if_false]
  rfl

theorem scanSlateDone_clean (fails : List (Nat × Nat × Nat)) (hs : w.step = 5) (hg : w.gallery < 16) (hd : s.hlm.deferred = [])
    (hb : w.bringUp = false) (hq : (s.mgQueue mqHealth).items = []) (hf : ∀ f ∈ fails, unitGalleryOf f.1 ≠ some w.gallery) :
    ∃ s', exec (.scanSlateDone fails) s = .next s' ∧ s'.hlm.window = none ∧ s'.fget LSQ_STATUS_SCAN w.gallery = 0 ∧
      s'.fget HLM_SCANS_COUNT = min (2 ^ 32 - 1) (s.fget HLM_SCANS_COUNT + 1) ∧ s'.fget HLM_SCAN_STATUS_STATE = 0 ∧
      s'.fget HLM_SCAN_STATUS_LAST_RESULT = 0 ∧ s.KeepsWork s' := by
  obtain ⟨hk, hwin, hmgc, hlsq, hscans, hstate⟩ := State.windowClosed_spec (s := s) hg
  obtain ⟨hk', hhlm, hmgc', hstate', hscans', hlast, hlsq'⟩ := State.passShown_spec (s.windowClosed w) hg
  have hq' : ((s.scanClean w).mgQueue mqHealth).items = [] := by
    rw [State.mgQueue, State.scanClean, hmgc', hmgc]
    exact hq
  exact ⟨s.scanClean w, (execScanSlateDone_clean hw fails hs hd hb hf).trans (next_congr (State.endScanItem_none hq' _ _ _)),
    (congrArg Hlm.window hhlm).trans hwin, hlsq'.trans hlsq, hscans'.trans hscans, hstate'.trans hstate, hlast, hk.trans hk'⟩

end

end

end Sys2Proof.Machine
end

section
/-! PROOFS. O58: the health area of flash, the check-value runs, the failure of the device (R617, R626, R635 to R644). -/

namespace Sys2Proof.Machine

section

variable {s : State} {r : Requester} {g u v : Nat}

/-! ### The health area of flash (R626, R639) -/

theorem State.recordUnit_flash (s : State) (v : Nat) :
    (s.recordUnit v).hlm.flash.find? (fun e => e.1 == v) = some (v, (s.healthOf v, s.historyOf v)) := by
  show List.find? _ ((v, (s.healthOf v, s.historyOf v)) :: _) = _
  simp

theorem State.flashWritten_flash (s : State) : s.flashWritten.hlm.flash = s.hlm.flash := by
  unfold State.flashWritten
  extract_lets m t
  have ht : t.hlm.flash = s.hlm.flash := rfl
  clear_value t
  rw [State.pairSet_hlm, ht]

theorem healthFlashWrite_oldest {rest : List Nat} (hw : s.hlm.unwritten = v :: rest) (hv : v ∉ rest) :
    ∃ s', exec .healthFlashWrite s = .next s' ∧ s'.hlm.unwritten = rest ∧
      s'.hlm.flash.find? (fun e => e.1 == v) = some (v, (s.healthOf v, s.historyOf v)) ∧
      s'.fget HLM_FLASH_PENDING = b2n (!rest.isEmpty) ∧ s.KeepsWork s' := by
  obtain ⟨hk, -, hun⟩ := s.recordUnit_spec v
  obtain ⟨hk', -, hun'⟩ := (s.recordUnit v).flashWritten_spec
  have hrest : (s.recordUnit v).flashWritten.hlm.unwritten = rest := by
    rw [hun', hun, hw]
    simp only [List.filter_cons, bne_self_eq_false, Bool.false_eq_true, if_false]
    exact List.filter_eq_self.mpr fun x hx => bne_iff_ne.mpr (ne_of_mem_of_not_mem hx hv)
  refine ⟨(s.recordUnit v).flashWritten.fset HLM_FLASH_PENDING (b2n (!rest.isEmpty)), ?_, ?_, ?_, ?_, (hk.trans hk').fset⟩
  · show execHealthFlashWrite s = _
    simp only [execHealthFlashWrite, hw, hrest]
  · rw [State.fset_hlm, hrest]
  · rw [State.fset_hlm, State.flashWritten_flash, State.recordUnit_flash]
  · exact State.fget_fset_of_lt _ 0 0 (by decide) (by cases rest.isEmpty <;> decide)

theorem healthFlashWrite_nothing (hw : s.hlm.unwritten = []) : exec .healthFlashWrite s = .next s := by
  show execHealthFlashWrite s = _
  simp only [execHealthFlashWrite, hw]

theorem lifetimeWrite_due (h : smGet (fun _ => 0) s.hlm.lifeFlash 0 + 600_000_000_000 ≤ s.powerOnNs) :
    ∃ s', exec .lifetimeWrite s = .next s' ∧ s'.hlm.unwritten = [] ∧ s'.hlm.lifeAt = s.now ∧ s'.hlm.lifeFlash = s'.hlm.life ∧
      s.KeepsWork s' := by
  obtain ⟨hk, hun, hlife, hat⟩ := s.lifetimeWrite_spec
  exact ⟨s.lifetimeWrite, next_congr (if_neg (Nat.not_lt.mpr h)), hun, hat, hlife, hk⟩

theorem lifetimeWrite_early (h : s.powerOnNs < smGet (fun _ => 0) s.hlm.lifeFlash 0 + 600_000_000_000) :
    exec .lifetimeWrite s = .next s := next_congr (if_pos h)

/-! ### Check-value runs (R635, R636, R644) -/

/-- A pair of registers set reads as what was set. -/
theorem State.pair_pairSet (s : State) {lo hi : Fld} (v i j : Nat) (hlo : lo.lo = 0 ∧ lo.hi = 31) (hhi : hi.lo = 0 ∧ hi.hi = 31)
    (h : regAddr hi.reg i j ≠ regAddr lo.reg i j) : (s.pairSet lo hi v i j).pair lo hi i j = v % 2 ^ 64 := by
  rw [State.pair, State.pairSet, State.fget_fset_ne _ _ _ _ _ _ _ _ h, State.fget_fset_self _ _ _ _ _ (by omega),
    State.fget_fset_self _ _ _ _ _ (by omega), hlo.1, hlo.2, hhi.1, hhi.2]
  omega

theorem State.pair_congr {t : State} {lo hi : Fld} {i j : Nat} (hlo : t.rget (regAddr lo.reg i j) = s.rget (regAddr lo.reg i j))
    (hhi : t.rget (regAddr hi.reg i j) = s.rget (regAddr hi.reg i j)) : t.pair lo hi i j = s.pair lo hi i j := by
  rw [State.pair, State.fget_of_rget hlo, State.fget_of_rget hhi]
  rfl

theorem State.cvuStatus_spec (s : State) (g u : Nat) {state result fault cause : Nat} (hs : state < 16) (hr : result < 256)
    (hf : fault < 256) (hc : cause < 256) : s.KeepsWork (s.cvuStatus g u state result fault cause) ∧
      (s.cvuStatus g u state result fault cause).fget CVU_STATUS_STATE g u = state ∧
      (s.cvuStatus g u state result fault cause).fget CVU_STATUS_RESULT g u = result := by
  have hval : ∀ f : Fld, f.reg = CVU_STATUS → (s.cvuStatus g u state result fault cause).fget f g u =
      bitsOf ((state * 2 ^ 28 + result * 2 ^ 16 + fault * 2 ^ 8 + cause) % 2 ^ 32) f.hi f.lo := by
    intro f hreg
    rw [State.cvuStatus, ← hreg, State.fget_wset_self]
  refine ⟨(State.KeepsWork.refl s).wset, (hval CVU_STATUS_STATE rfl).trans ?_, (hval CVU_STATUS_RESULT rfl).trans ?_⟩ <;>
    simp only [bitsOf, CVU_STATUS_STATE, CVU_STATUS_RESULT, Nat.shiftRight_eq_div_pow] <;> omega

theorem State.rget_cvuStatus {a : Nat} (s : State) (g u state result fault cause : Nat) (h : regAddr CVU_STATUS g u ≠ a) :
    (s.cvuStatus g u state result fault cause).rget a = s.rget a := State.rget_wset_at_ne _ h

/-- The settings of CVU `u` that no run takes (R636). -/
def State.cvuBad (s : State) (g u : Nat) : Prop :=
  (s.cvuCfg g u).width = 0 ∨ 64 < (s.cvuCfg g u).width ∨ 4 < (s.cvuCfg g u).mode ∨
    (((s.cvuCfg g u).mode = 3 ∨ (s.cvuCfg g u).mode = 4) ∧ ((s.cvuCfg g u).chunkLog2 < 12 ∨ 24 < (s.cvuCfg g u).chunkLog2)) ∨
    s.cvuLen g u = 0

theorem State.cvuBad_iff : ((s.cvuCfg g u).width = 0 ∨ 64 < (s.cvuCfg g u).width ∨ 4 < (s.cvuCfg g u).mode ∨
    ((s.cvuCfg g u).table = true ∧ ((s.cvuCfg g u).chunkLog2 < 12 ∨ 24 < (s.cvuCfg g u).chunkLog2)) ∨ s.cvuLen g u = 0) ↔
    s.cvuBad g u := by
  simp [State.cvuBad, CvuCfg.table]

/-- A run taken, with its counters at their start. -/
def State.cvuTaken (s : State) (g u : Nat) : State :=
  ((((s.setCvuRun g u { cfg := s.cvuCfg g u, addr := s.cvuAddr g u, len := s.cvuLen g u, table := s.cvuTable g u }).cvuStatus
    g u 1 0 0 0).fset CVU_MISMATCH_COUNT 0 g u).fset CVU_FIRST_BAD_CHUNK 0xFFFF_FFFF g u).pairSet CVU_BYTES_LO_COUNT CVU_BYTES_HI_COUNT
    0 g u

section

variable (hi : s.fget CVU_STATUS_STATE g u ≠ 1)
include hi

theorem State.cvuGo_bad (hb : s.cvuBad g u) : s.cvuGo g u = s.cvuStatus g u 4 2 0 0 := by
  unfold State.cvuGo
  exact (if_neg hi).trans (if_pos (State.cvuBad_iff.mpr hb))

theorem State.cvuGo_notLive (hb : ¬ s.cvuBad g u) (h : ∀ n, s.chamberOf g = some n → s.chLive n = false ∨ s.galleryLive g = false) :
    s.cvuGo g u = s.cvuStatus g u 4 4 0 0 := by
  unfold State.cvuGo
  refine ((if_neg hi).trans (if_neg fun hc => hb (State.cvuBad_iff.mp hc))).trans ?_
  cases hn : s.chamberOf g with
  | none => rfl
  | some n => exact if_pos (by simpa using h n hn)

theorem State.cvuGo_taken {n : Nat} (hb : ¬ s.cvuBad g u) (hn : s.chamberOf g = some n) (hl : s.chLive n = true)
    (hg : s.galleryLive g = true) : s.cvuGo g u = s.cvuTaken g u := by
  unfold State.cvuGo
  refine ((if_neg hi).trans (if_neg fun hc => hb (State.cvuBad_iff.mp hc))).trans ?_
  rw [hn]
  exact if_neg (by simp [hl, hg])

end

theorem State.cvuRunOf_taken (s : State) (g u : Nat) : (s.cvuTaken g u).cvuRunOf g u =
    { cfg := s.cvuCfg g u, addr := s.cvuAddr g u, len := s.cvuLen g u, table := s.cvuTable g u } := by
  rw [State.cvuRunOf, State.cvuTaken, State.pairSet_cvus, State.fset_cvus, State.fset_cvus, State.cvuStatus, State.wset_cvus]
  exact smGet_smPut_self _ _ _ _

theorem regAddr_cvu (r : Reg) (g u : Nat) (h : r.s1 = 0x10000 ∧ r.s2 = 0x80) : regAddr r g u = r.base + 0x10000 * g + 0x80 * u := by
  rw [regAddr, h.1, h.2]

theorem State.cvuTaken_spec (s : State) (g u : Nat) : s.KeepsWork (s.cvuTaken g u) ∧ (s.cvuTaken g u).fget CVU_STATUS_STATE g u = 1 ∧
    (s.cvuTaken g u).pair CVU_BYTES_LO_COUNT CVU_BYTES_HI_COUNT g u = 0 := by
  have hset : s.KeepsWork (s.setCvuRun g u
      { cfg := s.cvuCfg g u, addr := s.cvuAddr g u, len := s.cvuLen g u, table := s.cvuTable g u }) := ⟨rfl, rfl, rfl, rfl, rfl, rfl⟩
  unfold State.cvuTaken
  generalize s.setCvuRun g u _ = t at hset ⊢
  obtain ⟨hk, hstate, -⟩ := t.cvuStatus_spec g u (state := 1) (result := 0) (fault := 0) (cause := 0) (by omega) (by omega) (by omega)
    (by omega)
  have haddr : ∀ r : Reg, r.s1 = 0x10000 ∧ r.s2 = 0x80 → r.base ≠ CVU_STATUS.base → regAddr r g u ≠ regAddr CVU_STATUS g u := by
    intro r hr hb
    rw [regAddr_cvu r g u hr, regAddr_cvu CVU_STATUS g u (by decide)]
    omega
  refine ⟨(hset.trans hk).fset.fset.pairSet, ?_, State.pair_pairSet _ _ _ _ (by decide) (by decide) ?_⟩
  · rw [State.fget_of_rget (State.rget_pairSet_ne _ (haddr CVU_BYTES_LO (by decide) (by decide))
        (haddr CVU_BYTES_HI (by decide) (by decide))),
      State.fget_fset_ne _ _ _ _ _ _ _ _ (haddr CVU_FIRST_BAD (by decide) (by decide)),
      State.fget_fset_ne _ _ _ _ _ _ _ _ (haddr CVU_MISMATCH (by decide) (by decide)), hstate]
  · show regAddr CVU_BYTES_HI g u ≠ regAddr CVU_BYTES_LO g u
    rw [regAddr_cvu _ g u (by decide), regAddr_cvu _ g u (by decide)]
    simp only [CVU_BYTES_HI, CVU_BYTES_LO]
    omega

theorem State.cvuStop_stops (h : s.fget CVU_STATUS_STATE g u = 1) (result fault : Nat) :
    ∃ t : State, s.cvuStop g u result fault = t.cvuStatus g u 3 result fault 0 := by
  rw [State.cvuStop, if_neg (not_not.mpr h)]
  exact ⟨_, rfl⟩

section

variable (hg : g < 16) (hu : u < 2)
include hg hu

theorem execCvuGo_may (hm : s.mayWriteGallery r g = true) : exec (.cvuGo r g u) s = .next (s.cvuGo g u) :=
  next_congr (if_neg (by simp [hm]; omega))

theorem execCvuAbort_may (hm : s.mayWriteGallery r g = true) : exec (.cvuAbort r g u) s = .next (s.cvuStop g u 0 0) :=
  next_congr (if_neg (by simp [hm]; omega))

theorem cvuRunDone_whole {n : Nat} (h : s.fget CVU_STATUS_STATE g u = 1) (hn : s.chamberOf g = some n)
    (ha : s.awaitsNoRead (.cvu g u)) (hw : ((s.asksAs (.cvu g u)).cvuWhole g u n).ms.wanted = []) :
    exec (.cvuRunDone g u) s = .next (((s.asksAs (.cvu g u)).cvuWhole g u n).readAll (.cvu g u)).deliver := by
  show execCvuRunDone g u s = _
  refine next_congr ((if_neg (by rw [not_or, not_or]; exact ⟨by omega, by omega, not_not.mpr h⟩)).trans ?_)
  rw [hn]
  exact congrArg State.deliver (State.remotely_local ha hw)

end

theorem cvu_notAllowed (hm : s.mayWriteGallery r g = false) :
    exec (.cvuGo r g u) s = .next s ∧ exec (.cvuAbort r g u) s = .next s :=
  ⟨next_congr (if_pos (.inr (.inr hm))), next_congr (if_pos (.inr (.inr hm)))⟩

theorem cvuRunDone_idle (h : s.fget CVU_STATUS_STATE g u ≠ 1) : exec (.cvuRunDone g u) s = .next s :=
  next_congr (if_pos (.inr (.inr h)))

/-- A run over its range in mode 0 whose range is read, without what it counts (R635). -/
def State.cvuDigested (s : State) (g u len v : Nat) : State :=
  (s.bump64 CVU_BYTES_LO_COUNT CVU_BYTES_HI_COUNT len g u).cvuResult g u v

theorem State.cvuRun_mode0 {n : Nat} {bs : List Byte} {s1 : State} (hm : (s.cvuRunOf g u).cfg.mode = 0)
    (hr : s.readVa (reqCdc g) n (s.cvuRunOf g u).addr (s.cvuRunOf g u).len = (.ok bs, s1)) :
    s.cvuRun g u n (s.cvuRunOf g u).len =
      (none, s1.cvuDigested g u (s.cvuRunOf g u).len ((s.cvuRunOf g u).cfg.value bs)) := by
  unfold State.cvuRun
  extract_lets c len
  rw [if_neg (by simp [c, CvuCfg.table, hm]), if_neg (Nat.lt_irrefl _), hr]
  show (if c.mode = 1 then _ else if c.mode = 2 then _ else _) = _
  rw [if_neg (by simp [c, hm]), if_neg (by simp [c, hm])]
  rfl

theorem State.cvuDigested_spec (s : State) (g u len v : Nat) : s.KeepsWork (s.cvuDigested g u len v) ∧
    (s.cvuDigested g u len v).fget CVU_MISMATCH_COUNT g u = s.fget CVU_MISMATCH_COUNT g u ∧
    (s.cvuDigested g u len v).pair CVU_RESULT_LO_VALUE CVU_RESULT_HI_VALUE g u = v % 2 ^ 64 := by
  have haddr : ∀ r : Reg, r.s1 = 0x10000 ∧ r.s2 = 0x80 → r.base ≠ CVU_MISMATCH.base → regAddr r g u ≠ regAddr CVU_MISMATCH g u := by
    intro r hr hb
    rw [regAddr_cvu r g u hr, regAddr_cvu CVU_MISMATCH g u (by decide)]
    omega
  refine ⟨(State.KeepsWork.refl s).bump64.pairSet, ?_, State.pair_pairSet _ _ _ _ (by decide) (by decide) ?_⟩
  · exact State.fget_of_rget ((State.rget_pairSet_ne _ (haddr CVU_RESULT_LO (by decide) (by decide))
      (haddr CVU_RESULT_HI (by decide) (by decide))).trans (State.rget_bump64_ne _ (haddr CVU_BYTES_LO (by decide) (by decide))
        (haddr CVU_BYTES_HI (by decide) (by decide))))
  · show regAddr CVU_RESULT_HI g u ≠ regAddr CVU_RESULT_LO g u
    rw [regAddr_cvu _ g u (by decide), regAddr_cvu _ g u (by decide)]
    simp only [CVU_RESULT_HI, CVU_RESULT_LO]
    omega

theorem State.cvuWhole_mode0 {n : Nat} {bs : List Byte} {s1 : State} (hm : (s.cvuRunOf g u).cfg.mode = 0)
    (hr : s.readVa (reqCdc g) n (s.cvuRunOf g u).addr (s.cvuRunOf g u).len = (.ok bs, s1)) (h0 : s1.fget CVU_MISMATCH_COUNT g u = 0) :
    s.cvuWhole g u n =
      (s1.cvuDigested g u (s.cvuRunOf g u).len ((s.cvuRunOf g u).cfg.value bs)).cvuStatus g u 2 0 0 0 := by
  obtain ⟨-, hmis, -⟩ := s1.cvuDigested_spec g u (s.cvuRunOf g u).len ((s.cvuRunOf g u).cfg.value bs)
  unfold State.cvuWhole
  rw [State.cvuRun_mode0 hm hr]
  generalize s1.cvuDigested g u _ _ = t at hmis ⊢
  simp only [hmis, h0, ne_eq, not_true_eq_false, if_false]
  rfl

theorem State.cvuWhole_done {n : Nat} {bs : List Byte} {s1 : State} (hm : (s.cvuRunOf g u).cfg.mode = 0)
    (hr : s.readVa (reqCdc g) n (s.cvuRunOf g u).addr (s.cvuRunOf g u).len = (.ok bs, s1)) (h0 : s1.fget CVU_MISMATCH_COUNT g u = 0) :
    (s.cvuWhole g u n).fget CVU_STATUS_STATE g u = 2 ∧ (s.cvuWhole g u n).fget CVU_STATUS_RESULT g u = 0 ∧
      (s.cvuWhole g u n).pair CVU_RESULT_LO_VALUE CVU_RESULT_HI_VALUE g u = (s.cvuRunOf g u).cfg.value bs % 2 ^ 64 ∧
      s1.KeepsWork (s.cvuWhole g u n) := by
  obtain ⟨hk, -, hpair⟩ := s1.cvuDigested_spec g u (s.cvuRunOf g u).len ((s.cvuRunOf g u).cfg.value bs)
  rw [State.cvuWhole_mode0 hm hr h0]
  generalize s1.cvuDigested g u _ _ = t at hk hpair ⊢
  obtain ⟨hk', hstate, hresult⟩ := t.cvuStatus_spec g u (state := 2) (result := 0) (fault := 0) (cause := 0) (by omega) (by omega)
    (by omega) (by omega)
  have haddr : ∀ r : Reg, r.s1 = 0x10000 ∧ r.s2 = 0x80 → r.base ≠ CVU_STATUS.base → regAddr CVU_STATUS g u ≠ regAddr r g u := by
    intro r hr hb
    rw [regAddr_cvu r g u hr, regAddr_cvu CVU_STATUS g u (by decide)]
    omega
  refine ⟨hstate, hresult, (State.pair_congr ?_ ?_).trans hpair, hk.trans hk'⟩
  · exact State.rget_cvuStatus _ _ _ _ _ _ _ (haddr CVU_RESULT_LO (by decide) (by decide))
  · exact State.rget_cvuStatus _ _ _ _ _ _ _ (haddr CVU_RESULT_HI (by decide) (by decide))

/-! ### The failure of the device (R617) -/

theorem State.cause_deviceFails (h : s.fget HLM_DEVICE_STATE ≠ 2) {cause : Nat} (hc : cause < 256) :
    (s.deviceFails cause).fget HLM_DEVICE_CAUSE = cause := by
  unfold State.deviceFails
  extract_lets p t
  have ht : t.fget HLM_DEVICE_STATE = s.fget HLM_DEVICE_STATE := rfl
  rw [State.fget_of_rget (State.rget_noteBoard _ _), if_neg (by simpa [ht] using h)]
  exact State.fget_fset_of_lt _ 0 0 (by decide) hc

theorem uncorrectableUncoreFault_fails (s : State) : ∃ s', exec .uncorrectableUncoreFault s = .next s' ∧ s'.fget HLM_DEVICE_STATE = 2 ∧
    s'.pins.faultN = false ∧ (s.fget HLM_DEVICE_STATE ≠ 2 → s'.fget HLM_DEVICE_CAUSE = 1) ∧ s.KeepsWork s' :=
  ⟨s.deviceFails 1, rfl, s.fget_deviceFails 1, s.faultN_deviceFails 1, fun h => State.cause_deviceFails h (by omega),
    s.keepsWork_deviceFails 1⟩

/-! ### Requests that change nothing -/

theorem windowSteps_none (hw : s.hlm.window = none) :
    exec .scanDrainEnd s = .next s ∧ exec .scanQuiesced s = .next s ∧ exec (.scanSlateDone []) s = .next s := by
  refine ⟨?_, ?_, ?_⟩
  · show execScanDrainEnd s = _
    rw [execScanDrainEnd, hw]
  · show execScanQuiesced s = _
    rw [execScanQuiesced, hw]
  · show execScanSlateDone [] s = _
    rw [execScanSlateDone, hw]

theorem unitCommands_notOwner (ho : s.owns r = false) :
    exec (.markAmber r u) s = .next s ∧ exec (.clearAmber r u) s = .next s ∧ exec (.retire r u) s = .next s :=
  ⟨next_congr (if_neg (by simp [ho])), next_congr (if_neg (by simp [ho])), next_congr (if_neg (by simp [ho]))⟩

theorem retire_owner (ho : s.owns r = true) : exec (.retire r u) s = .next (s.writeUnitCmd 3 u).flow := next_congr (if_pos ho)

/-! ### GO and ABORT of a check-value unit, by the state it is in (R636) -/

section

variable (hg : g < 16) (hu : u < 2) (hm : s.mayWriteGallery r g = true)
include hg hu hm

theorem cvuGo_refused (hi : s.fget CVU_STATUS_STATE g u ≠ 1) (hb : s.cvuBad g u) : ∃ s', exec (.cvuGo r g u) s = .next s' ∧
    s'.fget CVU_STATUS_STATE g u = 4 ∧ s'.fget CVU_STATUS_RESULT g u = 2 ∧ s.KeepsWork s' := by
  obtain ⟨hk, hstate, hresult⟩ := s.cvuStatus_spec g u (state := 4) (result := 2) (fault := 0) (cause := 0) (by omega) (by omega)
    (by omega) (by omega)
  exact ⟨_, (execCvuGo_may hg hu hm).trans (next_congr (State.cvuGo_bad hi hb)), hstate, hresult, hk⟩

theorem cvuGo_notLive (hi : s.fget CVU_STATUS_STATE g u ≠ 1) (hb : ¬ s.cvuBad g u)
    (h : ∀ n, s.chamberOf g = some n → s.chLive n = false ∨ s.galleryLive g = false) : ∃ s', exec (.cvuGo r g u) s = .next s' ∧
    s'.fget CVU_STATUS_STATE g u = 4 ∧ s'.fget CVU_STATUS_RESULT g u = 4 ∧ s.KeepsWork s' := by
  obtain ⟨hk, hstate, hresult⟩ := s.cvuStatus_spec g u (state := 4) (result := 4) (fault := 0) (cause := 0) (by omega) (by omega)
    (by omega) (by omega)
  exact ⟨_, (execCvuGo_may hg hu hm).trans (next_congr (State.cvuGo_notLive hi hb h)), hstate, hresult, hk⟩

theorem cvuGo_starts {n : Nat} (hi : s.fget CVU_STATUS_STATE g u ≠ 1) (hb : ¬ s.cvuBad g u) (hn : s.chamberOf g = some n)
    (hl : s.chLive n = true) (hlg : s.galleryLive g = true) : ∃ s', exec (.cvuGo r g u) s = .next s' ∧ s'.fget CVU_STATUS_STATE g u = 1 ∧
    s'.cvuRunOf g u = { cfg := s.cvuCfg g u, addr := s.cvuAddr g u, len := s.cvuLen g u, table := s.cvuTable g u } ∧
    s'.pair CVU_BYTES_LO_COUNT CVU_BYTES_HI_COUNT g u = 0 ∧ s.KeepsWork s' := by
  obtain ⟨hk, hstate, hbytes⟩ := s.cvuTaken_spec g u
  exact ⟨_, (execCvuGo_may hg hu hm).trans (next_congr (State.cvuGo_taken hi hb hn hl hlg)), hstate, s.cvuRunOf_taken g u, hbytes, hk⟩

theorem cvuAbort_idle (hi : s.fget CVU_STATUS_STATE g u ≠ 1) : exec (.cvuAbort r g u) s = .next s :=
  (execCvuAbort_may hg hu hm).trans (next_congr (State.cvuStop_idle 0 0 hi))

theorem cvuGo_running (h : s.fget CVU_STATUS_STATE g u = 1) : exec (.cvuGo r g u) s = .next (s.fset CVU_STATUS_RESULT 3 g u) :=
  (execCvuGo_may hg hu hm).trans (next_congr (if_pos h))

theorem cvuAbort_running (h : s.fget CVU_STATUS_STATE g u = 1) : ∃ s', exec (.cvuAbort r g u) s = .next s' ∧
    s'.fget CVU_STATUS_STATE g u = 3 ∧ s'.fget CVU_STATUS_RESULT g u = 0 := by
  obtain ⟨t, ht⟩ := State.cvuStop_stops h 0 0
  obtain ⟨-, hstate, hresult⟩ := t.cvuStatus_spec g u (state := 3) (result := 0) (fault := 0) (cause := 0) (by omega) (by omega)
    (by omega) (by omega)
  exact ⟨_, (execCvuAbort_may hg hu hm).trans (next_congr ht), hstate, hresult⟩

end

end

/-- Settles O58: the slate window by its steps, the owner's commands by the unit's state, the check-value runs by their state. -/
theorem healthAndChecks : Obligations.HealthAndChecks := by
  unfold Obligations.HealthAndChecks
  intro s r g u hg
  refine ⟨fun hw hl hp => ⟨scanWindow_bringUp hw hl hp hg, scanWindow_asked hw hl hp hg, fun c => execDupScanWindow_due hw hl hp⟩,
    fun b => s.openWindow_spec hg b, execScanWindow_open, ?_, ?_, windowSteps_none, unitCommands_notOwner,
    fun v rest => healthFlashWrite_oldest, healthFlashWrite_nothing, lifetimeWrite_due, lifetimeWrite_early, fun _ => cvu_notAllowed,
    ?_, fun _ => cvuRunDone_idle, fun n hu h hn ha => cvuRunDone_whole hg hu h hn ha, ?_, uncorrectableUncoreFault_fails s⟩
  · intro w hw
    refine ⟨scanDrainEnd_stops hw, execScanQuiesced_other hw, fun hs he hc _ => scanQuiesced_runs hw hs (State.windowBusy_false he hc),
      execScanSlateDone_other hw, fun fails hs hwg hd hb hq hf => scanSlateDone_clean hw fails hs hwg hd hb hq hf⟩
  · exact fun hu ho => ⟨markAmber_clear hu ho, clearAmber_amber hu ho, retire_owner ho, State.writeUnitCmd_retire hu⟩
  · intro hu hm
    refine ⟨fun hi => ⟨fun hb => cvuGo_notLive hg hu hm hi hb, fun n hb hn hl hlg => cvuGo_starts hg hu hm hi hb hn hl hlg,
      fun hb => cvuGo_refused hg hu hm hi hb, cvuAbort_idle hg hu hm hi⟩,
      fun h => ⟨cvuGo_running hg hu hm h, cvuAbort_running hg hu hm h⟩⟩
  · exact fun n bs s1 _ hm hr h0 => State.cvuWhole_done hm hr h0

end Sys2Proof.Machine
end

section
/-! PROOFS. What the control port's operations show in its registers: sessions, frames sent, ownership gained and lost (R466, R470,
R472, R496). -/

namespace Sys2Proof.Machine

section

variable {s t u : State} {p k a : Nat} {w f : Frame} {x : Session}

/-! ### Registers that an operation leaves (R496, R542) -/

theorem State.rget_setSession (s : State) (k : Nat) (x : Session) (h0 : a ≠ 0x2000) (h1 : a ≠ 0x2040) :
    (s.setSession k x).rget a = s.rget a := by
  unfold State.setSession
  extract_lets c v
  have hv : v.rget a = s.rget a := rfl
  rw [State.refreshSessions]
  simp only [List.foldl_cons, List.foldl_nil]
  rw [State.rget_fset_ne _ CTP_PORT_STATUS_SESSIONS _ 1 0 _ (fun h => h1 h.symm),
    State.rget_fset_ne _ CTP_PORT_STATUS_SESSIONS _ 0 0 _ (fun h => h0 h.symm), hv]

theorem State.rget_acceptFrame (s : State) (f : Frame) (ha : 0x2100 ≤ a) : (s.acceptFrame f).rget a = s.rget a := by
  unfold State.acceptFrame
  split
  · rfl
  · next y _ =>
    have hset := s.rget_setSession f.slot { y with rx := f.seq, lastAt := s.now } (a := a) (by omega) (by omega)
    extract_lets v
    have hv : v.rget a = s.rget a := hset
    clear_value v
    split <;> exact hv

/-- Where a port's counters lie. -/
theorem regAddr_port_lt {r : Reg} {d : Nat} (hp : p < 2) (hr : r.base < 0x2040 ∧ r.s1 = 0x40 ∧ r.s2 = 0) : regAddr r p d < 0x2080 := by
  obtain ⟨hbase, hs1, hs2⟩ := hr
  simp only [regAddr, hs1, hs2]
  omega

theorem State.rget_tookFrame (hp : p < 2) (ha : 0x2100 ≤ a) : (s.tookFrame p f).rget a = s.rget a := by
  have h1 := regAddr_port_lt (r := CTP_RX_FRAMES_LO) (d := 0) hp (by decide)
  have h2 := regAddr_port_lt (r := CTP_RX_FRAMES_HI) (d := 0) hp (by decide)
  rw [State.tookFrame, State.rget_acceptFrame _ _ ha]
  exact State.rget_bump64_ne _ (lo := CTP_RX_FRAMES_LO_COUNT) (hi := CTP_RX_FRAMES_HI_COUNT) (Nat.ne_of_lt (Nat.lt_of_lt_of_le h1 (by omega)))
    (Nat.ne_of_lt (Nat.lt_of_lt_of_le h2 (by omega)))

/-- A frame of one kind sent in an open slot: what it changes, but for what the frame holds. -/
theorem State.sendFrame_open (h : s.session k = some x) (port type : Nat) (encrypted : Bool) (payload : List Byte) :
    ∃ fr : Frame, fr.type = type ∧ fr.slot = k ∧ fr.flags = b2n encrypted ∧ s.sendFrame port k type encrypted payload =
      ((s.setSession k { x with tx := x.tx + 1 }).bump64 CTP_TX_FRAMES_LO_COUNT CTP_TX_FRAMES_HI_COUNT 1 port).emit (.frame port fr) := by
  unfold State.sendFrame
  rw [h]
  dsimp only
  cases encrypted
  · exact ⟨_, rfl, rfl, rfl, rfl⟩
  · exact ⟨_, rfl, rfl, rfl, rfl⟩

theorem State.sendFrame_closed (h : s.session k = none) (port type : Nat) (encrypted : Bool) (payload : List Byte) :
    ∃ fr : Frame, s.sendFrame port k type encrypted payload =
      (s.bump64 CTP_TX_FRAMES_LO_COUNT CTP_TX_FRAMES_HI_COUNT 1 port).emit (.frame port fr) := by
  unfold State.sendFrame
  rw [h]
  exact ⟨_, rfl⟩

theorem State.rget_countSent (s : State) (port : Nat) (e : OutEvent) (hlo : regAddr CTP_TX_FRAMES_LO port 0 ≠ a)
    (hhi : regAddr CTP_TX_FRAMES_HI port 0 ≠ a) :
    ((s.bump64 CTP_TX_FRAMES_LO_COUNT CTP_TX_FRAMES_HI_COUNT 1 port).emit e).rget a = s.rget a :=
  (State.rget_emit _ _ _).trans <| State.rget_bump64_ne s (lo := CTP_TX_FRAMES_LO_COUNT) (hi := CTP_TX_FRAMES_HI_COUNT) hlo hhi

theorem State.rget_sendFrame (s : State) (port k type : Nat) (encrypted : Bool) (payload : List Byte) (h0 : a ≠ 0x2000)
    (h1 : a ≠ 0x2040) (hlo : regAddr CTP_TX_FRAMES_LO port 0 ≠ a) (hhi : regAddr CTP_TX_FRAMES_HI port 0 ≠ a) :
    (s.sendFrame port k type encrypted payload).rget a = s.rget a := by
  cases h : s.session k with
  | none =>
    obtain ⟨fr, hsent⟩ := State.sendFrame_closed h port type encrypted payload
    rw [hsent, State.rget_countSent _ _ _ hlo hhi]
  | some x =>
    obtain ⟨fr, -, -, -, hsent⟩ := State.sendFrame_open h port type encrypted payload
    rw [hsent, State.rget_countSent _ _ _ hlo hhi, State.rget_setSession _ _ _ h0 h1]

/-- A frame sent on a port that there is leaves the slots' registers and those above. -/
theorem State.rget_sendFrame_high (s : State) {port : Nat} (k type : Nat) (encrypted : Bool) (payload : List Byte) (hp : port < 2)
    (ha : 0x2100 ≤ a) : (s.sendFrame port k type encrypted payload).rget a = s.rget a := by
  have h1 := regAddr_port_lt (r := CTP_TX_FRAMES_LO) (d := 0) hp (by decide)
  have h2 := regAddr_port_lt (r := CTP_TX_FRAMES_HI) (d := 0) hp (by decide)
  exact s.rget_sendFrame port k type encrypted payload (by omega) (by omega) (by omega) (by omega)

theorem State.rget_setMgQueue (s : State) (n : Nat) (q : MgQueue) (ha : a < 0x4010) : (s.setMgQueue n q).rget a = s.rget a := by
  unfold State.setMgQueue
  extract_lets v
  have hv : v.rget a = s.rget a := rfl
  have hne : regAddr MGC_MQ_STATE n 0 ≠ a := by simp only [regAddr, MGC_MQ_STATE]; omega
  rw [State.rget_fset_ne _ MGC_MQ_STATE_DONE _ n 0 _ hne, State.rget_fset_ne _ MGC_MQ_STATE_DEPTH _ n 0 _ hne, hv]

theorem State.rget_setRecord (s : State) (n : Nat) (r : List Byte) (ha : a < 0x4010) : (s.setRecord n r).rget a = s.rget a :=
  State.foldl_keeps (State.rget · a) (fun u j => State.rget_wset_at_ne u (by simp only [regAddr, MGC_MQ_REC]; omega)) _ s

theorem State.rget_mgRecord (s : State) (n : Nat) (i : MgItem) (code cause : Nat) (ha : a < 0x4010) :
    (s.mgRecord n i code cause).rget a = s.rget a := by
  rw [s.mgRecord_eq, State.rget_setMgQueue _ _ _ ha, State.rget_setRecord _ _ _ ha]

theorem State.rget_mgSkip (n fuel : Nat) (s : State) (ha : a < 0x4010) : (s.mgSkip n fuel).rget a = s.rget a := by
  induction fuel generalizing s with
  | zero => rfl
  | succ fuel ih =>
    rw [State.mgSkip]
    split
    · split
      · rfl
      · rw [ih, State.rget_mgRecord _ _ _ _ _ ha, State.rget_setMgQueue _ _ _ ha]
    · rfl

theorem State.rget_mgEnd (s : State) (n code cause : Nat) (ha : a < 0x4010) : (s.mgEnd n code cause).rget a = s.rget a := by
  unfold State.mgEnd
  split
  · rw [State.rget_mgSkip _ _ _ ha, State.rget_mgRecord _ _ _ _ _ ha, State.rget_setMgQueue _ _ _ ha]
  · rfl

/-! ### What ownership takes with it as it ends (R110, R494) -/

/-- Nothing differs but the loader, the management queues, and registers outside the control port's. -/
def State.OnlyLoader (s t : State) : Prop :=
  t = { s with regs := t.regs, svy := t.svy, mgc := t.mgc } ∧ ∀ a, 0x2000 ≤ a → a < 0x3000 → t.rget a = s.rget a

namespace State.OnlyLoader

theorem refl (s : State) : s.OnlyLoader s := ⟨rfl, fun _ _ _ => rfl⟩

theorem trans (h : s.OnlyLoader t) (h' : t.OnlyLoader u) : s.OnlyLoader u := by
  obtain ⟨he, hr⟩ := h
  obtain ⟨he', hr'⟩ := h'
  exact ⟨by rw [he', he], fun a h1 h2 => (hr' a h1 h2).trans (hr a h1 h2)⟩

theorem rget_eq (h : s.OnlyLoader t) (h1 : 0x2000 ≤ a) (h2 : a < 0x3000) : t.rget a = s.rget a := h.2 a h1 h2

theorem ctp_eq (h : s.OnlyLoader t) : t.ctp = s.ctp := (congrArg State.ctp h.1 :)

theorem sec_eq (h : s.OnlyLoader t) : t.sec = s.sec := (congrArg State.sec h.1 :)

theorem out_eq (h : s.OnlyLoader t) : t.out = s.out := (congrArg State.out h.1 :)

theorem now_eq (h : s.OnlyLoader t) : t.now = s.now := (congrArg State.now h.1 :)

theorem keepsWork (h : s.OnlyLoader t) : s.KeepsWork t :=
  ⟨(congrArg State.mem h.1 :), (congrArg State.strands h.1 :), (congrArg State.items h.1 :), (congrArg State.queues h.1 :),
    (congrArg State.engOps h.1 :), (congrArg State.ms h.1 :)⟩

theorem of_onlyRegs (h : s.OnlyRegs t) (hr : ∀ a, 0x2000 ≤ a → a < 0x3000 → t.rget a = s.rget a) : s.OnlyLoader t := by
  rw [State.OnlyRegs] at h
  exact ⟨by rw [h], hr⟩

end State.OnlyLoader

theorem State.onlyLoader_mgEnd (s : State) (n code cause : Nat) : s.OnlyLoader (s.mgEnd n code cause) := by
  have h := s.onlyMgc_mgEnd n code cause
  rw [State.OnlyMgc] at h
  exact ⟨by rw [h], fun a _ ha => s.rget_mgEnd n code cause (by omega)⟩

theorem State.onlyLoader_endLoad (s : State) (code : Nat) : s.OnlyLoader (s.endLoad code) := by
  unfold State.endLoad
  extract_lets via v u
  have hu : s.OnlyLoader u := ⟨rfl, fun _ _ _ => rfl⟩
  clear_value u
  split
  · exact hu
  · split <;> exact hu.trans (State.onlyLoader_mgEnd u _ _ _)

theorem State.onlyLoader_svyOwnerLost (s : State) : s.OnlyLoader s.svyOwnerLost := by
  unfold State.svyOwnerLost
  split
  · refine (State.OnlyLoader.of_onlyRegs (State.OnlyRegs.refl s).wset.bump fun a h1 h2 => ?_).trans (State.onlyLoader_endLoad _ _)
    rw [State.rget_bump_ne (f := SVY_REFUSALS_COUNT) (i := 0) (j := 0) _ (by simp [regAddr, SVY_REFUSALS_COUNT, SVY_REFUSALS]; omega),
      State.rget_wset_at_ne _ (by simp [regAddr, SVY_STATUS]; omega)]
  · exact .refl s

theorem State.onlyLoader_setStage (s : State) (state code : Nat) : s.OnlyLoader (s.setStage state code) := by
  refine .of_onlyRegs (State.OnlyRegs.refl s).fset.fset fun a h1 h2 => ?_
  have hne : regAddr SEC_FW_STATUS 0 0 ≠ a := by simp [regAddr, SEC_FW_STATUS]; omega
  exact (State.rget_fset_ne _ SEC_FW_STATUS_ERR_CODE _ 0 0 _ hne).trans (State.rget_fset_ne _ SEC_FW_STATUS_STAGE_STATE _ 0 0 _ hne)

/-- With no firmware commit waiting, ownership takes with it at most what is staged. -/
theorem State.onlyLoader_fwOwnerLost (h : s.sec.commit = none) : s.OnlyLoader s.fwOwnerLost := by
  unfold State.fwOwnerLost
  rw [h]
  dsimp only
  rw [if_neg Bool.false_ne_true]
  split
  · have hstage := s.onlyLoader_setStage fwRefused 1
    have hnone : (s.setStage fwRefused 1).sec.commit = none := by rw [hstage.sec_eq, h]
    rw [State.refuseFw]
    dsimp only
    rw [hnone]
    exact hstage
  · exact .refl s

/-- CTP_OWNER outlives the end of a firmware commit. -/
theorem State.rget_owner_answerCommit (s : State) (c : FwCommit) (code : Nat) : (s.answerCommit c code).rget 0x2200 = s.rget 0x2200 := by
  unfold State.answerCommit
  split
  · split <;> exact s.rget_mgEnd _ _ _ (by omega)
  · split
    · refine s.rget_sendFrame _ _ _ _ _ (by omega) (by omega) ?_ ?_ <;>
        simp only [regAddr, CTP_TX_FRAMES_LO, CTP_TX_FRAMES_HI] <;> omega
    · rfl

theorem State.rget_owner_refuseFw (s : State) (code : Nat) : (s.refuseFw code).rget 0x2200 = s.rget 0x2200 := by
  unfold State.refuseFw
  extract_lets u
  have hu : u.rget 0x2200 = s.rget 0x2200 := (s.onlyLoader_setStage fwRefused code).rget_eq (by omega) (by omega)
  clear_value u
  split
  · exact (State.rget_owner_answerCommit _ _ _).trans ((State.rget_with_sec u _ _).trans hu)
  · exact hu

theorem State.rget_owner_fwOwnerLost (s : State) : s.fwOwnerLost.rget 0x2200 = s.rget 0x2200 := by
  unfold State.fwOwnerLost
  extract_lets checked
  split
  · rfl
  · split
    · exact s.rget_owner_refuseFw 1
    · rfl

theorem State.owner_loseOwnership (s : State) : s.loseOwnership.fget CTP_OWNER_VALID = 0 := by
  unfold State.loseOwnership
  split
  · assumption
  · dsimp only [State.draw]
    rw [State.fget_of_rget (State.rget_owner_fwOwnerLost _),
      State.fget_of_rget ((State.onlyLoader_svyOwnerLost _).rget_eq (by decide) (by decide))]
    have hvacant : ∀ (u : State) (v : Nat), ((u.fset CTP_OWNER_VALID 0).fset CTP_OWNER_SLOT v).fget CTP_OWNER_VALID = 0 := by
      intro u v
      rw [State.fget_fset_other _ _ _ _ _ _ _ _ (by decide) (by decide) (by decide)]
      exact State.fget_fset_of_lt _ 0 0 (by decide) (by decide)
    have hslot : s.fget CTP_OWNER_SLOT < 16 := s.fget_lt CTP_OWNER_SLOT 0 0
    split
    · rw [State.fget_fset_ne, hvacant]
      simp only [regAddr, CTP_SESS_STATE_STATE, CTP_SESS_STATE, CTP_OWNER_VALID, CTP_OWNER]
      omega
    · exact hvacant _ _

/-! ### Ownership gained (R470, R472, R476) -/

theorem State.setUtc_spec (s : State) (utc at_ : Nat) : s.KeepsWork (s.setUtc utc at_) ∧ (s.setUtc utc at_).ctp = s.ctp ∧
    (s.setUtc utc at_).out = s.out ∧ (s.setUtc utc at_).sec = s.sec ∧ (s.setUtc utc at_).svy = s.svy ∧
    (s.setUtc utc at_).now = s.now ∧
    ∀ a, a ≠ 0x2208 → a ≠ 0x220c → (s.setUtc utc at_).rget a = s.rget a := by
  unfold State.setUtc
  extract_lets b
  refine ⟨State.KeepsWork.pairSet ⟨rfl, rfl, rfl, rfl, rfl, rfl⟩, ?_, ?_, ?_, ?_, ?_, fun a h1 h2 => ?_⟩
  · rw [State.pairSet_ctp]
  · rw [State.pairSet_out]
  · rw [State.pairSet_sec]
  · rw [State.pairSet_svy]
  · rw [State.pairSet_now]
  · exact State.rget_pairSet_ne _ (lo := CTP_UTC_BASE_LO_UTC) (hi := CTP_UTC_BASE_HI_UTC) (i := 0) (j := 0) (fun h => h1 h.symm)
      (fun h => h2 h.symm)

/-- Slot `k` shown as the owner. -/
def State.shownOwner (s : State) (k : Nat) : State :=
  ((s.fset CTP_SESS_STATE_STATE sessOwner k).fset CTP_OWNER_VALID 1).fset CTP_OWNER_SLOT k

/-- The owner's time begins. -/
def State.ownerTimed (s : State) : State := { s with ctp := { s.ctp with ownerAt := s.now } }

theorem State.makeOwner_def (s : State) (k : Nat) : s.makeOwner k = match (s.shownOwner k).ownerTimed.session k with
    | some x => (s.shownOwner k).ownerTimed.setUtc x.utc x.utcAt
    | none => (s.shownOwner k).ownerTimed := rfl

theorem regAddr_sess (k : Nat) : regAddr CTP_SESS_STATE k 0 = 0x2100 + 0x10 * k := by simp [regAddr, CTP_SESS_STATE]

theorem State.rget_shownOwner (s : State) (k : Nat) (h1 : a ≠ 0x2200) (h2 : a ≠ 0x2100 + 0x10 * k) :
    (s.shownOwner k).rget a = s.rget a := by
  rw [State.shownOwner, State.rget_fset_ne _ CTP_OWNER_SLOT _ 0 0 _ (fun h => h1 h.symm),
    State.rget_fset_ne _ CTP_OWNER_VALID _ 0 0 _ (fun h => h1 h.symm),
    State.rget_fset_ne _ CTP_SESS_STATE_STATE _ k 0 _ (fun h => h2 ((regAddr_sess k).symm.trans h).symm)]

theorem State.shownOwner_spec (s : State) (hk : k < 16) : (s.shownOwner k).sessState k = sessOwner ∧
    (s.shownOwner k).fget CTP_OWNER_VALID = 1 ∧ (s.shownOwner k).fget CTP_OWNER_SLOT = k := by
  have hne : regAddr CTP_OWNER 0 0 ≠ regAddr CTP_SESS_STATE k 0 := by rw [regAddr_sess]; simp [regAddr, CTP_OWNER]; omega
  unfold State.shownOwner State.sessState
  refine ⟨?_, ?_, State.fget_fset_of_lt _ 0 0 (by decide) (by simpa [CTP_OWNER_SLOT] using hk)⟩
  · rw [State.fget_fset_ne _ CTP_OWNER_SLOT CTP_SESS_STATE_STATE _ _ _ _ _ hne,
      State.fget_fset_ne _ CTP_OWNER_VALID CTP_SESS_STATE_STATE _ _ _ _ _ hne]
    exact State.fget_fset_of_lt _ k 0 (by decide) (by decide)
  · rw [State.fget_fset_other _ _ _ _ _ _ _ _ (by decide) (by decide) (by decide)]
    exact State.fget_fset_of_lt _ 0 0 (by decide) (by decide)

/-- Nothing differs but registers, the UTC base, the loader, the management queues, and since when the owner is heard. -/
def State.OnlyOwned (s t : State) : Prop :=
  t = { s with regs := t.regs, utcBase := t.utcBase, svy := t.svy, mgc := t.mgc, ctp := { s.ctp with ownerAt := t.ctp.ownerAt } }

theorem State.OnlyOwned.trans (h : s.OnlyOwned t) (h' : t.OnlyOwned u) : s.OnlyOwned u := by
  rw [State.OnlyOwned] at h h' ⊢
  rw [h', h]

theorem State.OnlyOwned.keepsWork (h : s.OnlyOwned t) : s.KeepsWork t :=
  ⟨(congrArg State.mem h :), (congrArg State.strands h :), (congrArg State.items h :), (congrArg State.queues h :),
    (congrArg State.engOps h :), (congrArg State.ms h :)⟩

theorem State.OnlyOwned.out_eq (h : s.OnlyOwned t) : t.out = s.out := (congrArg State.out h :)

theorem State.OnlyOwned.sessions_eq (h : s.OnlyOwned t) : t.ctp.sessions = s.ctp.sessions := (congrArg (fun s => s.ctp.sessions) h :)

theorem State.OnlyOwned.claims_eq (h : s.OnlyOwned t) : t.ctp.claims = s.ctp.claims := (congrArg (fun s => s.ctp.claims) h :)

theorem State.OnlyLoader.onlyOwned (h : s.OnlyLoader t) : s.OnlyOwned t := by
  have he := h.1
  rw [State.OnlyOwned, he]

theorem State.OnlyRegs.onlyOwned (h : s.OnlyRegs t) : s.OnlyOwned t := by
  rw [State.OnlyRegs] at h
  rw [State.OnlyOwned, h]

theorem State.onlyOwned_ownerTimed (s : State) : s.OnlyOwned s.ownerTimed := rfl

theorem State.rget_ownerTimed (s : State) (a : Nat) : s.ownerTimed.rget a = s.rget a := rfl

theorem State.onlyOwned_setUtc (s : State) (utc at_ : Nat) : s.OnlyOwned (s.setUtc utc at_) := by
  unfold State.setUtc
  extract_lets b
  have hset : s.OnlyOwned ({ s with utcBase := some b } : State) := rfl
  exact hset.trans (State.OnlyRegs.onlyOwned (State.OnlyRegs.refl _).pairSet)

theorem State.onlyOwned_makeOwner (s : State) (k : Nat) : s.OnlyOwned (s.makeOwner k) := by
  have hregs : s.OnlyRegs (s.shownOwner k) := (State.OnlyRegs.refl s).fset.fset.fset
  have htimed : s.OnlyOwned (s.shownOwner k).ownerTimed := hregs.onlyOwned.trans (State.onlyOwned_ownerTimed _)
  rw [State.makeOwner_def]
  split
  · exact htimed.trans (State.onlyOwned_setUtc _ _ _)
  · exact htimed

theorem State.rget_makeOwner (s : State) (k : Nat) (h1 : a < 0x2208 ∨ 0x2210 ≤ a) :
    (s.makeOwner k).rget a = (s.shownOwner k).rget a := by
  rw [State.makeOwner_def]
  split
  · next x _ =>
    obtain ⟨-, -, -, -, -, -, hr⟩ := (s.shownOwner k).ownerTimed.setUtc_spec x.utc x.utcAt
    exact (hr a (by omega) (by omega)).trans (State.rget_ownerTimed _ _)
  · exact State.rget_ownerTimed _ _

theorem State.makeOwner_spec (s : State) (hk : k < 16) : (s.makeOwner k).sessState k = sessOwner ∧
    (s.makeOwner k).fget CTP_OWNER_VALID = 1 ∧ (s.makeOwner k).fget CTP_OWNER_SLOT = k := by
  obtain ⟨hstate, hvalid, hslot⟩ := s.shownOwner_spec hk
  refine ⟨(State.fget_of_rget (s.rget_makeOwner k (.inl ?_))).trans hstate,
    (State.fget_of_rget (s.rget_makeOwner k (.inl (by decide)))).trans hvalid,
    (State.fget_of_rget (s.rget_makeOwner k (.inl (by decide)))).trans hslot⟩
  show regAddr CTP_SESS_STATE k 0 < _
  rw [regAddr_sess]
  omega

/-- A former owner made an observer, and what went with its ownership. -/
def State.ownerGone (s : State) : State :=
  ((s.fset CTP_SESS_STATE_STATE sessObserver (s.fget CTP_OWNER_SLOT)).svyOwnerLost).fwOwnerLost

theorem State.newOwner_owned (h : s.fget CTP_OWNER_VALID = 1) (k : Nat) : s.newOwner k = s.ownerGone.makeOwner k := if_pos h

theorem State.newOwner_vacant (h : s.fget CTP_OWNER_VALID = 0) (k : Nat) : s.newOwner k = s.makeOwner k :=
  if_neg (by rw [h]; omega)

/-- With no commit waiting, the end of an ownership leaves the control port's registers but the former owner's state. -/
theorem State.ownerGone_spec (hc : s.sec.commit = none) : s.OnlyOwned s.ownerGone ∧
    ∀ a, 0x2000 ≤ a → a < 0x3000 → s.ownerGone.rget a = (s.fset CTP_SESS_STATE_STATE sessObserver (s.fget CTP_OWNER_SLOT)).rget a := by
  have hsvy := State.onlyLoader_svyOwnerLost (s.fset CTP_SESS_STATE_STATE sessObserver (s.fget CTP_OWNER_SLOT))
  have hfw := State.onlyLoader_fwOwnerLost (hsvy.sec_eq.trans ((State.fset_sec _ _ _ _ _).trans rfl) ▸ hc :
    ((s.fset CTP_SESS_STATE_STATE sessObserver (s.fget CTP_OWNER_SLOT)).svyOwnerLost).sec.commit = none)
  have hall := hsvy.trans hfw
  exact ⟨(State.OnlyRegs.onlyOwned (State.OnlyRegs.refl s).fset).trans hall.onlyOwned, fun a h1 h2 => hall.rget_eq h1 h2⟩

end

end Sys2Proof.Machine
end

section
/-! PROOFS. O46: HELLO and PROOF, the opening of a session (R464 to R467, R477). -/

namespace Sys2Proof.Machine

section

variable {s t u : State} {p k : Nat} {w f : Frame} {x : Session}

/-! ### What a frame that is taken leaves (R466, R727) -/

/-- Nothing differs but registers, what has been sent, the sessions, and since when the owner is heard. -/
def State.OnlySessions (s t : State) : Prop :=
  t = { s with regs := t.regs, out := t.out, ctp := { s.ctp with sessions := t.ctp.sessions, ownerAt := t.ctp.ownerAt } }

namespace State.OnlySessions

theorem refl (s : State) : s.OnlySessions s := rfl

theorem trans (h : s.OnlySessions t) (h' : t.OnlySessions u) : s.OnlySessions u := by
  rw [State.OnlySessions] at h h' ⊢
  rw [h', h]

theorem of_onlyRegs (h : s.OnlyRegs t) : s.OnlySessions t := by
  rw [State.OnlyRegs] at h
  rw [State.OnlySessions, h]

theorem claims_eq (h : s.OnlySessions t) : t.ctp.claims = s.ctp.claims := (congrArg (fun s => s.ctp.claims) h :)

theorem svy_eq (h : s.OnlySessions t) : t.svy = s.svy := (congrArg State.svy h :)

theorem sec_eq (h : s.OnlySessions t) : t.sec = s.sec := (congrArg State.sec h :)

theorem pwr_eq (h : s.OnlySessions t) : t.pwr = s.pwr := (congrArg State.pwr h :)

theorem now_eq (h : s.OnlySessions t) : t.now = s.now := (congrArg State.now h :)

end State.OnlySessions

theorem State.onlySessions_setSession (s : State) (k : Nat) (x : Session) : s.OnlySessions (s.setSession k x) := by
  unfold State.setSession
  extract_lets c v
  have hv : s.OnlySessions v := rfl
  exact hv.trans (.of_onlyRegs v.onlyRegs_refreshSessions)

theorem State.onlySessions_acceptFrame (s : State) (f : Frame) : s.OnlySessions (s.acceptFrame f) := by
  unfold State.acceptFrame
  split
  · exact .refl s
  · extract_lets v
    have hv : s.OnlySessions v := s.onlySessions_setSession _ _
    clear_value v
    split
    · exact hv.trans rfl
    · exact hv

theorem State.onlySessions_tookFrame (s : State) (p : Nat) (f : Frame) : s.OnlySessions (s.tookFrame p f) :=
  (State.OnlySessions.of_onlyRegs (State.OnlyRegs.refl s).bump64).trans (State.onlySessions_acceptFrame _ f)

theorem State.takesFrame.port_lt {ty : Nat} (h : s.takesFrame p w f ty x) : p < 2 := by
  obtain ⟨-, hup, -⟩ := h
  simp only [State.ctpUp, Bool.and_eq_true, decide_eq_true_eq] at hup
  obtain ⟨⟨⟨⟨hp, -⟩, -⟩, -⟩, -⟩ := hup
  exact hp

theorem State.takesFrame.sessionPort_lt {ty : Nat} (h : s.takesFrame p w f ty x) : x.port < 2 := by
  have hp := h.port_lt
  obtain ⟨-, -, -, -, -, hport, -⟩ := h
  exact hport ▸ hp

theorem State.takesFrame.slot_lt {ty : Nat} (h : s.takesFrame p w f ty x) : f.slot < 16 := by
  obtain ⟨-, -, -, hslot, -, -, -, hopen, -⟩ := h
  obtain ⟨-, heq, -⟩ := State.openFrame_same hopen
  exact heq ▸ hslot

/-- A frame arrives on a port that takes frames. -/
theorem State.receive_up (hup : s.ctpUp p = true) (hi : s.fget CTP_PORT_STATUS_ISOLATED p = 0) (rest : State → State) :
    s.receive p rest = rest (s.bump64 CTP_RX_FRAMES_LO_COUNT CTP_RX_FRAMES_HI_COUNT 1 p) := by
  have hi' : (s.bump64 CTP_RX_FRAMES_LO_COUNT CTP_RX_FRAMES_HI_COUNT 1 p).fget CTP_PORT_STATUS_ISOLATED p = 0 := by
    rw [State.fget_bump64_ne, hi] <;> simp [regAddr, CTP_RX_FRAMES_LO_COUNT, CTP_RX_FRAMES_HI_COUNT, CTP_PORT_STATUS_ISOLATED,
      CTP_RX_FRAMES_LO, CTP_RX_FRAMES_HI, CTP_PORT_STATUS]
  unfold State.receive
  rw [if_neg (by simp [hup])]
  exact if_neg (by rw [hi']; decide)

theorem hello_wellFormed (ht : f.type = 1) (hup : s.ctpUp p = true) (hi : s.fget CTP_PORT_STATUS_ISOLATED p = 0)
    (hb : f.badHeader = false) (hl : f.payload.length = 88) :
    exec (.hello p f) s = .next ((s.bump64 CTP_RX_FRAMES_LO_COUNT CTP_RX_FRAMES_HI_COUNT 1 p).hello p f) :=
  next_congr ((if_neg (not_not.mpr ht)).trans ((State.receive_up hup hi _).trans (if_neg (by simp [hb, hl]))))

theorem hello_malformed (ht : f.type = 1) (hup : s.ctpUp p = true) (hi : s.fget CTP_PORT_STATUS_ISOLATED p = 0)
    (hb : f.badHeader = true ∨ f.payload.length ≠ 88) :
    exec (.hello p f) s = .next ((s.bump64 CTP_RX_FRAMES_LO_COUNT CTP_RX_FRAMES_HI_COUNT 1 p).dropFrame p 1 1) :=
  next_congr ((if_neg (not_not.mpr ht)).trans ((State.receive_up hup hi _).trans (if_pos (by simpa using hb))))

/-! ### HELLO (R464, R466, R467) -/

/-- A HELLO has been accepted. -/
def State.helloMarked (s : State) : State := { s with ctp := { s.ctp with hello := true } }

/-- The first HELLO since power-up sets the UTC base (R470). -/
def State.helloUtc (s : State) (f : Frame) : State := if s.ctp.hello then s else s.helloMarked.setUtc (fieldAt f.payload 0x50 8) s.tb

/-- The slots that are FREE. -/
def State.unusedSlots (s : State) : List Nat := (List.range 16).filter (fun k => s.sessState k == sessFree)

/-- A HELLO judged, with place `i` among the FREE slots drawn. -/
def State.helloWith (s : State) (p : Nat) (f : Frame) (unused : List Nat) (i : Nat) : State :=
  match s.helloKey (slice f.payload 0 48), unused[i]? with
  | .error cause, some k => s.violation p (some (k, none, slice f.payload 0 48)) cause 1 (fun s => s.refuse p k cause)
  | .error cause, none => s.violation p none cause 1 (fun s => s.refuse p 0xFF cause)
  | .ok _, none => s.refuse p 0xFF 0x40
  | .ok (key, entry), some k =>
    if s.ctp.isolated.any (fun e => e.2.1 == p && e.2.2 == slice f.payload 0 48) then s.refuse p k 0x43
    else s.challenge p k f key entry

/-- One free value taken. -/
def State.drawn1 (s : State) : State := { s with free := s.free + 1 }

theorem State.hello_def (s : State) (p : Nat) (f : Frame) : s.hello p f = (s.helloUtc f).drawn1.helloWith p f (s.helloUtc f).unusedSlots
    (Config.freeNat (s.helloUtc f).free % (s.helloUtc f).unusedSlots.length) := rfl

theorem State.helloKey_congr (hsec : t.sec = s.sec) (hsvy : t.svy = s.svy) (hlife : t.rget 0x3000 = s.rget 0x3000) (d : List Byte) :
    t.helloKey d = s.helloKey d := by
  have hl : t.lifecycle = s.lifecycle := State.fget_of_rget hlife
  have hs : t.storeEntry d = s.storeEntry d := by rw [State.storeEntry, State.storeEntry, hsec]
  have ha : t.accessEntry d = s.accessEntry d := by rw [State.accessEntry, State.accessEntry, hsvy]
  unfold State.helloKey
  rw [hs, ha, hl, hsec, hsvy]

theorem hello_noSlot {cause : Nat} (hh : s.ctp.hello = true) (hkey : s.helloKey (slice f.payload 0 48) = .error cause)
    (hf : (List.range 16).filter (fun k => s.sessState k == sessFree) = []) :
    s.hello p f = ({ s with free := s.free + 1 } : State).violation p none cause 1 (fun s => s.refuse p 0xFF cause) := by
  have hutc : s.helloUtc f = s := if_pos hh
  have hkey' : s.drawn1.helloKey (slice f.payload 0 48) = .error cause :=
    (State.helloKey_congr (s := s) (t := s.drawn1) rfl rfl rfl _).trans hkey
  rw [State.hello_def, hutc, show s.unusedSlots = [] from hf, State.helloWith, hkey']
  rfl

/-- What the first HELLO's UTC leaves. -/
theorem State.helloUtc_spec (s : State) (f : Frame) : s.KeepsWork (s.helloUtc f) ∧ (s.helloUtc f).out = s.out ∧
    (s.helloUtc f).sec = s.sec ∧ (s.helloUtc f).svy = s.svy ∧ (s.helloUtc f).now = s.now ∧
    (s.helloUtc f).ctp.isolated = s.ctp.isolated ∧ ∀ a, a ≠ 0x2208 → a ≠ 0x220c → (s.helloUtc f).rget a = s.rget a := by
  unfold State.helloUtc
  split
  · exact ⟨.refl s, rfl, rfl, rfl, rfl, rfl, fun _ _ _ => rfl⟩
  · have hmark : s.KeepsWork s.helloMarked := ⟨rfl, rfl, rfl, rfl, rfl, rfl⟩
    have hisol : s.helloMarked.ctp.isolated = s.ctp.isolated := rfl
    have hreg : ∀ a, s.helloMarked.rget a = s.rget a := fun _ => rfl
    obtain ⟨hk, hctp, hout, hsec, hsvy, hnow, hr⟩ := s.helloMarked.setUtc_spec (fieldAt f.payload 0x50 8) s.tb
    exact ⟨hmark.trans hk, hout, hsec, hsvy, hnow, (congrArg Ctp.isolated hctp).trans hisol, fun a h1 h2 => (hr a h1 h2).trans (hreg a)⟩

theorem State.drawn_drawBytes (n : Nat) (s : State) : s.Drawn (s.drawBytes n).2 := by
  induction n generalizing s with
  | zero => exact .refl s
  | succ n ih => exact State.Drawn.trans (t := s.drawn1) rfl (ih _)

/-- A session that a HELLO opens in a slot. -/
def State.opened (s : State) (p : Nat) (f : Frame) (key : List Byte) (entry : Option Nat) (dev : List Byte) : Session :=
  { port := p, key := key, entry := entry, node := slice f.payload 0x30 32, dev := dev, fromNode := [], toNode := []
    utc := fieldAt f.payload 0x50 8, utcAt := s.tb, rx := f.seq, tx := 0, lastAt := s.now }

/-- A slot that a HELLO has taken. -/
def State.slotTaken (s : State) (p k : Nat) (f : Frame) (key : List Byte) (e : Nat) (dev : List Byte) : State :=
  (s.wset CTP_SESS_STATE (sessOpening * 2 ^ 29 + p * 2 ^ 28 + e * 2 ^ 16) k).setSession k
    ((s.wset CTP_SESS_STATE (sessOpening * 2 ^ 29 + p * 2 ^ 28 + e * 2 ^ 16) k).opened p f key (some e) dev)

theorem State.challenge_def (s : State) (p k : Nat) (f : Frame) (key : List Byte) (e : Nat) : s.challenge p k f key (some e) =
    (((s.drawBytes 32).2.slotTaken p k f key e (s.drawBytes 32).1).sendFrame p k 2 false
      (leBytes 16 k ++ (s.drawBytes 32).1 ++ ((s.drawBytes 32).2.slotTaken p k f key e (s.drawBytes 32).1).identity)).closeSpent k := rfl

theorem State.session_sendFrame_self (h : s.session k = some x) (port type : Nat) (encrypted : Bool) (payload : List Byte) :
    (s.sendFrame port k type encrypted payload).session k = some { x with tx := x.tx + 1 } := by
  obtain ⟨fr, -, -, -, hsent⟩ := State.sendFrame_open h port type encrypted payload
  rw [hsent, ← s.session_setSession_self k { x with tx := x.tx + 1 }, State.session, State.session, State.emit_ctp, State.bump64_ctp]

/-- What a HELLO's session holds before anything is sent in it. -/
def Session.openedBy (y : Session) (p : Nat) (f : Frame) (key : List Byte) (e now sent : Nat) : Prop :=
  y.port = p ∧ y.key = key ∧ y.entry = some e ∧ y.rx = f.seq ∧ y.tx = sent ∧ y.lastAt = now

theorem State.opened_spec (s : State) (p : Nat) (f : Frame) (key : List Byte) (e : Nat) (dev : List Byte) :
    (s.opened p f key (some e) dev).openedBy p f key e s.now 0 := ⟨rfl, rfl, rfl, rfl, rfl, rfl⟩

theorem Session.openedBy.sent {y : Session} {key : List Byte} {e now : Nat} (h : y.openedBy p f key e now 0) :
    ({ y with tx := y.tx + 1 } : Session).openedBy p f key e now 1 := by
  obtain ⟨h1, h2, h3, h4, h5, h6⟩ := h
  exact ⟨h1, h2, h3, h4, congrArg (· + 1) h5, h6⟩

theorem State.slotTaken_spec (s : State) (hp : p < 2) (hk : k < 16) {e : Nat} (he : e < 16) (key dev : List Byte) :
    s.KeepsWork (s.slotTaken p k f key e dev) ∧ (s.slotTaken p k f key e dev).out = s.out ∧
    (s.slotTaken p k f key e dev).sessState k = sessOpening ∧
    ∃ y, (s.slotTaken p k f key e dev).session k = some y ∧ y.openedBy p f key e s.now 0 := by
  unfold State.slotTaken
  have hopened := (s.wset CTP_SESS_STATE (sessOpening * 2 ^ 29 + p * 2 ^ 28 + e * 2 ^ 16) k).opened_spec p f key e dev
  rw [State.wset_now] at hopened
  refine ⟨(State.KeepsWork.refl s).wset.trans (State.keepsWork_setSession _ _ _), ?_, ?_, _, State.session_setSession_self _ _ _, hopened⟩
  · rw [State.setSession_out, State.wset_out]
  · have haddr : regAddr CTP_SESS_STATE_STATE.reg k 0 = 0x2100 + 0x10 * k := regAddr_sess k
    rw [State.sessState, State.fget_of_rget (State.rget_setSession _ _ _ (by rw [haddr]; omega) (by rw [haddr]; omega))]
    refine (State.fget_wset_self _ CTP_SESS_STATE_STATE _ k 0).trans ?_
    simp only [bitsOf, CTP_SESS_STATE_STATE, sessOpening, Nat.shiftRight_eq_div_pow]
    omega

theorem State.sessState_sendFrame (s : State) {port : Nat} (k slot type : Nat) (encrypted : Bool) (payload : List Byte)
    (hp : port < 2) : (s.sendFrame port slot type encrypted payload).sessState k = s.sessState k := by
  refine State.fget_of_rget (State.rget_sendFrame_high _ _ _ _ _ hp ?_)
  show _ ≤ regAddr CTP_SESS_STATE k 0
  rw [regAddr_sess]
  omega

theorem State.challenge_spec (s : State) (hp : p < 2) (hk : k < 16) {e : Nat} (he : e < 16) (hseq : f.seq < 2 ^ 48) (key : List Byte) :
    ∃ y, (s.challenge p k f key (some e)).session k = some y ∧ y.openedBy p f key e s.now 1 ∧
      (s.challenge p k f key (some e)).sessState k = sessOpening ∧ s.KeepsWork (s.challenge p k f key (some e)) ∧
      ∃ fr, (s.challenge p k f key (some e)).out = s.out ++ [.frame p fr] ∧ fr.type = 2 ∧ fr.slot = k ∧ fr.flags = 0 := by
  rw [State.challenge_def]
  have hdrawn := State.drawn_drawBytes 32 s
  generalize s.drawBytes 32 = d at hdrawn ⊢
  have hv : s.KeepsWork d.2 := by
    rw [hdrawn]
    exact ⟨rfl, rfl, rfl, rfl, rfl, rfl⟩
  have hvout : d.2.out = s.out := (congrArg State.out hdrawn :)
  have hvnow : d.2.now = s.now := (congrArg State.now hdrawn :)
  obtain ⟨hwork, hout, hstate, y, hsession, hy⟩ := d.2.slotTaken_spec (f := f) hp hk he key d.1
  generalize d.2.slotTaken p k f key e d.1 = t at hwork hout hstate hsession ⊢
  rw [hvnow] at hy
  have hnext := State.session_sendFrame_self hsession p 2 false (leBytes 16 k ++ d.1 ++ t.identity)
  have hsent := hy.sent
  obtain ⟨-, -, -, hrx, htx, -⟩ := id hsent
  rw [State.closeSpent_open hnext (by omega) (by omega)]
  refine ⟨_, hnext, hsent, (State.sessState_sendFrame _ _ _ _ _ _ hp).trans hstate, (hv.trans hwork).trans
    (State.onlyControl_sendFrame _ _ _ _ _ _).keepsWork, ?_⟩
  obtain ⟨fr, htype, hslot, hflags, hframe⟩ := State.sendFrame_open hsession p 2 false (leBytes 16 k ++ d.1 ++ t.identity)
  refine ⟨fr, ?_, htype, hslot, hflags⟩
  rw [hframe, State.emit, State.bump64_out, State.setSession_out, hout, hvout]

theorem hello_opens {key : List Byte} {e : Nat} (hp : p < 2) (he : e < 16) (hkey : s.helloKey (slice f.payload 0 48) = .ok (key, some e))
    (hseq : f.seq < 2 ^ 48) (hiso : (s.ctp.isolated.any (fun i => i.2.1 == p && i.2.2 == slice f.payload 0 48)) = false)
    (hfree : (List.range 16).filter (fun k => s.sessState k == sessFree) = [k]) :
    ∃ y, (s.hello p f).session k = some y ∧ y.port = p ∧ y.key = key ∧ y.entry = some e ∧ y.rx = f.seq ∧ y.tx = 1 ∧
      y.lastAt = s.now ∧ (s.hello p f).sessState k = sessOpening ∧ s.KeepsWork (s.hello p f) ∧
      ∃ fr, (s.hello p f).out = s.out ++ [.frame p fr] ∧ fr.type = 2 ∧ fr.slot = k ∧ fr.flags = 0 := by
  obtain ⟨hwork, hout, hsec, hsvy, hnow, hisol, hr⟩ := s.helloUtc_spec f
  have hk : k < 16 := by
    have hmem : k ∈ (List.range 16).filter (fun k => s.sessState k == sessFree) := hfree ▸ List.mem_singleton_self k
    exact List.mem_range.mp (List.mem_of_mem_filter hmem)
  have hslots : (s.helloUtc f).unusedSlots = [k] := by
    rw [← hfree, State.unusedSlots]
    refine List.filter_congr fun j hj => ?_
    have hlt := List.mem_range.mp hj
    have haddr : regAddr CTP_SESS_STATE_STATE.reg j 0 = 0x2100 + 0x10 * j := regAddr_sess j
    rw [State.sessState, State.fget_of_rget (hr _ (by rw [haddr]; omega) (by rw [haddr]; omega))]
    rfl
  have hkey' : (s.helloUtc f).drawn1.helloKey (slice f.payload 0 48) = .ok (key, some e) :=
    (State.helloKey_congr (t := (s.helloUtc f).drawn1) hsec hsvy (hr 0x3000 (by omega) (by omega)) _).trans hkey
  have hdef : s.hello p f = (s.helloUtc f).drawn1.challenge p k f key (some e) := by
    rw [State.hello_def, hslots, State.helloWith, hkey', List.length_singleton, Nat.mod_one]
    exact if_neg (by rw [show (s.helloUtc f).drawn1.ctp.isolated = s.ctp.isolated from hisol, hiso]; exact Bool.false_ne_true)
  rw [hdef]
  obtain ⟨y, hy, ⟨hport, hyk, hentry, hrx, htx, hlast⟩, hstate, hwork', fr, hsent, hkind⟩ :=
    (s.helloUtc f).drawn1.challenge_spec (f := f) hp hk he hseq key
  have hdrawn : (s.helloUtc f).KeepsWork (s.helloUtc f).drawn1 := ⟨rfl, rfl, rfl, rfl, rfl, rfl⟩
  have hnow' : (s.helloUtc f).drawn1.now = s.now := hnow
  have hout' : (s.helloUtc f).drawn1.out = s.out := hout
  rw [hnow'] at hlast
  rw [hout'] at hsent
  exact ⟨y, hy, hport, hyk, hentry, hrx, htx, hlast, hstate, (hwork.trans hdrawn).trans hwork', fr, hsent, hkind⟩

/-! ### PROOF (R464, R465, R467) -/

theorem State.openMac_tookFrame (hp : p < 2) (l : String) (k seq at_ : Nat) :
    (s.tookFrame p f).openMac { x with rx := seq, lastAt := at_ } l k = s.openMac x l k := by
  have hid : (s.tookFrame p f).identity = s.identity := by
    unfold State.identity
    refine List.flatMap_congr fun j _ => ?_
    rw [State.rget_tookFrame hp (by simp [regAddr, SEC_IDENT]; omega)]
  simp only [State.openMac, State.serial, hid]

theorem proof_matches (h : s.takesFrame p w f 3 x) (hl : f.payload.length = 32) (hmac : f.payload = s.openMac x "AXCP-PROOF" f.slot) :
    exec (.proof p w) s = .next (((s.tookFrame p f).acceptSession f.slot { x with rx := f.seq, lastAt := s.now }).closeSpent f.slot) := by
  refine next_congr ((State.request_of_takesFrame h (by decide) (by simp [hl])).trans (congrArg (State.closeSpent · f.slot) (if_pos ?_)))
  rw [State.openMac_tookFrame h.port_lt, ← hmac, beq_self_eq_true]

theorem proof_fails (h : s.takesFrame p w f 3 x) (hl : f.payload.length = 32) (hmac : f.payload ≠ s.openMac x "AXCP-PROOF" f.slot) :
    exec (.proof p w) s = .next ((((s.tookFrame p f).bump SEC_AUTH_FAIL_COUNT).violation p (some (f.slot, x.entry, x.digest)) 4 3
      (fun s => (s.refuse p f.slot 4).closeSession f.slot)).closeSpent f.slot) := by
  refine next_congr ((State.request_of_takesFrame h (by decide) (by simp [hl])).trans (congrArg (State.closeSpent · f.slot) (if_neg ?_)))
  rw [State.openMac_tookFrame h.port_lt]
  simpa using hmac

/-- Slot `k` shown as an observer, with its credential and its opening time. -/
def State.shownObserver (s : State) (k : Nat) (c : Bool × Nat) (tb : Nat) : State :=
  (((s.fset CTP_SESS_STATE_STATE sessObserver k).fset CTP_SESS_STATE_OWNER_CRED (b2n c.1) k).fset CTP_SESS_STATE_RANK c.2 k).pairSet
    CTP_SESS_OPEN_LO_TIME CTP_SESS_OPEN_HI_TIME tb k

theorem State.sessState_shownObserver (s : State) (k : Nat) (c : Bool × Nat) (tb : Nat) :
    (s.shownObserver k c tb).sessState k = sessObserver := by
  unfold State.shownObserver State.sessState
  have h1 : regAddr CTP_SESS_OPEN_LO_TIME.reg k 0 ≠ regAddr CTP_SESS_STATE_STATE.reg k 0 := by
    simp [regAddr, CTP_SESS_OPEN_LO_TIME, CTP_SESS_OPEN_LO, CTP_SESS_STATE_STATE, CTP_SESS_STATE]
  have h2 : regAddr CTP_SESS_OPEN_HI_TIME.reg k 0 ≠ regAddr CTP_SESS_STATE_STATE.reg k 0 := by
    simp [regAddr, CTP_SESS_OPEN_HI_TIME, CTP_SESS_OPEN_HI, CTP_SESS_STATE_STATE, CTP_SESS_STATE]
  rw [State.fget_of_rget (State.rget_pairSet_ne _ h1 h2),
    State.fget_fset_other _ _ _ _ _ _ _ _ (by decide) (by decide) (by decide),
    State.fget_fset_other _ _ _ _ _ _ _ _ (by decide) (by decide) (by decide)]
  exact State.fget_fset_of_lt _ k 0 (by decide) (by decide)

theorem State.shownObserver_frame (s : State) (k : Nat) (c : Bool × Nat) (tb : Nat) : s.KeepsWork (s.shownObserver k c tb) ∧
    (s.shownObserver k c tb).ctp = s.ctp := by
  unfold State.shownObserver
  refine ⟨(State.KeepsWork.refl s).fset.fset.fset.pairSet, ?_⟩
  rw [State.pairSet_ctp, State.fset_ctp, State.fset_ctp, State.fset_ctp]

/-- A session keyed, and its slot shown as an observer's. -/
def State.observerTold (s : State) (k : Nat) (x : Session) (c : Bool × Nat) : State :=
  (s.setSession k x.keyed).shownObserver k c (((((s.setSession k x.keyed).fset CTP_SESS_STATE_STATE sessObserver k).fset
    CTP_SESS_STATE_OWNER_CRED (b2n c.1) k).fset CTP_SESS_STATE_RANK c.2 k)).tb

/-- The slot's count of violations begun again. -/
def State.slotForgiven (s : State) (p k : Nat) : State := s.setViols p ((s.viols p).setSlot k 0)

/-- A slot shown as an observer's, its count of violations begun again. -/
def State.observerShown (s : State) (k : Nat) (x : Session) (c : Bool × Nat) : State := (s.observerTold k x c).slotForgiven x.port k

theorem State.acceptSession_stored (hx : x.entry.isSome = true) : s.acceptSession k x =
    (s.observerShown k x (s.credOf x)).sendFrame x.port k 4 true (leBytes 1 1 ++ leBytes 1 (b2n (s.credOf x).1) ++
      leBytes 2 (s.credOf x).2 ++ leBytes 12 0 ++ (s.observerShown k x (s.credOf x)).openMac x "AXCP-ACCEPT" k) := if_pos hx

theorem State.slotForgiven_frame (s : State) (p k : Nat) : s.KeepsWork (s.slotForgiven p k) ∧
    (s.slotForgiven p k).ctp.sessions = s.ctp.sessions ∧ ∀ a, (s.slotForgiven p k).rget a = s.rget a :=
  ⟨⟨rfl, rfl, rfl, rfl, rfl, rfl⟩, rfl, fun _ => rfl⟩

theorem State.observerTold_spec (s : State) (k : Nat) (x : Session) (c : Bool × Nat) : s.KeepsWork (s.observerTold k x c) ∧
    (s.observerTold k x c).sessState k = sessObserver ∧ (s.observerTold k x c).session k = some x.keyed := by
  unfold State.observerTold
  obtain ⟨hwork, hctp⟩ := (s.setSession k x.keyed).shownObserver_frame k c ((((s.setSession k x.keyed).fset CTP_SESS_STATE_STATE
    sessObserver k).fset CTP_SESS_STATE_OWNER_CRED (b2n c.1) k).fset CTP_SESS_STATE_RANK c.2 k).tb
  refine ⟨(s.keepsWork_setSession k x.keyed).trans hwork, State.sessState_shownObserver _ _ _ _, ?_⟩
  rw [State.session, hctp]
  exact s.session_setSession_self k x.keyed

theorem State.observerShown_spec (s : State) (k : Nat) (x : Session) (c : Bool × Nat) : s.KeepsWork (s.observerShown k x c) ∧
    (s.observerShown k x c).sessState k = sessObserver ∧ (s.observerShown k x c).session k = some x.keyed := by
  obtain ⟨hwork, hstate, hsession⟩ := s.observerTold_spec k x c
  rw [State.observerShown]
  generalize s.observerTold k x c = v at hwork hstate hsession ⊢
  obtain ⟨hwork', hsessions, hr⟩ := v.slotForgiven_frame x.port k
  refine ⟨hwork.trans hwork', (State.fget_of_rget (hr _)).trans hstate, ?_⟩
  rw [State.session, hsessions]
  exact hsession

theorem proof_observer (h : s.takesFrame p w f 3 x) (hl : f.payload.length = 32) (hmac : f.payload = s.openMac x "AXCP-PROOF" f.slot)
    (hx : x.entry.isSome = true) : ∃ s', exec (.proof p w) s = .next s' ∧ s'.sessState f.slot = sessObserver ∧ s.KeepsWork s' := by
  obtain ⟨-, -, hrx, htx⟩ := h.heard
  let y : Session := { x with rx := f.seq, lastAt := s.now }
  obtain ⟨hwork, hstate, hsession⟩ := (s.tookFrame p f).observerShown_spec f.slot y ((s.tookFrame p f).credOf y)
  have hacc := State.acceptSession_stored (s := s.tookFrame p f) (k := f.slot) (x := y) hx
  generalize (s.tookFrame p f).observerShown f.slot y ((s.tookFrame p f).credOf y) = t at hwork hstate hsession hacc
  refine ⟨_, proof_matches h hl hmac, ?_⟩
  rw [hacc, State.closeSpent_open (State.session_sendFrame_self hsession _ _ _ _) hrx (by show x.tx + 1 < 2 ^ 48; omega)]
  exact ⟨(State.sessState_sendFrame _ _ _ _ _ _ h.sessionPort_lt).trans hstate,
    ((s.keepsWork_tookFrame p f).trans hwork).trans (State.onlyControl_sendFrame _ _ _ _ _ _).keepsWork⟩

end

end Sys2Proof.Machine
end

section
/-! PROOFS. O46: CLAIM, the election, HANDOVER, CLOSE, silence, windows and links (R468 to R476, R479, R496, R648, R652). -/

namespace Sys2Proof.Machine

section

variable {s t u : State} {p k : Nat} {w f : Frame} {x : Session}

/-! ### What a request finds in the state that has taken its frame -/

theorem State.electionsBarred_congr (hstage : t.rget (regAddr PWR_STATUS 0 0) = s.rget (regAddr PWR_STATUS 0 0)) (hpwr : t.pwr = s.pwr)
    (hlife : t.rget 0x3000 = s.rget 0x3000) : t.electionsBarred = s.electionsBarred := by
  have hs : t.fget PWR_STATUS_STAGE = s.fget PWR_STATUS_STAGE := State.fget_of_rget hstage
  have hl : t.lifecycle = s.lifecycle := State.fget_of_rget hlife
  unfold State.electionsBarred
  rw [hs, hpwr, hl]

theorem State.takesFrame.electionsBarred {ty : Nat} (h : s.takesFrame p w f ty x) :
    (s.tookFrame p f).electionsBarred = s.electionsBarred :=
  State.electionsBarred_congr (State.rget_tookFrame h.port_lt (by simp [regAddr, PWR_STATUS])) (s.onlySessions_tookFrame p f).pwr_eq
    (State.rget_tookFrame h.port_lt (by omega))

theorem State.winner_congr (h : t.rget 0x2200 = s.rget 0x2200) : t.winner = s.winner := by
  have hv : t.fget CTP_OWNER_VALID = s.fget CTP_OWNER_VALID := State.fget_of_rget h
  have hk : t.fget CTP_OWNER_SLOT = s.fget CTP_OWNER_SLOT := State.fget_of_rget h
  rw [State.winner, State.winner, hv, hk]

theorem State.takesFrame.winner {ty : Nat} (h : s.takesFrame p w f ty x) : (s.tookFrame p f).winner = s.winner :=
  State.winner_congr (State.rget_tookFrame h.port_lt (by omega))

theorem State.takesFrame.fget_cred {ty : Nat} (h : s.takesFrame p w f ty x) (k : Nat) :
    (s.tookFrame p f).fget CTP_SESS_STATE_OWNER_CRED k = s.fget CTP_SESS_STATE_OWNER_CRED k := h.fget_tookFrame _ _ (by decide)

theorem State.takesFrame.sessState {ty : Nat} (h : s.takesFrame p w f ty x) (k : Nat) :
    (s.tookFrame p f).sessState k = s.sessState k := h.fget_tookFrame _ _ (by decide)

/-! ### CLAIM (R468, R473, R475, R652) -/

/-- An election opened, or the open one joined. -/
def State.claimJoined (s : State) (k seq : Nat) (running : Bool) : State :=
  (({ s with ctp := { s.ctp with electionAt := if running then s.ctp.electionAt else s.now, claims := s.ctp.claims ++ [(k, seq)] } } :
    State).fset CTP_ELECTION_OPEN 1).refreshElection

/-- A CLAIM of slot `k`. -/
def State.claimed (s : State) (k seq : Nat) : State :=
  if s.electionsBarred then s.claimAnswer k 0x46 else
  let owned := s.fget CTP_OWNER_VALID == 1
  let running := s.fget CTP_ELECTION_OPEN == 1
  let s := if owned || running then s else s.refreshCreds
  let cred := s.fget CTP_SESS_STATE_OWNER_CRED k == 1
  if owned && !cred then
    let (b, s) := s.draw 2
    s.claimAnswer k (0x41 + b)
  else if owned then s.claimAnswer k 0x41
  else if !cred then s.claimAnswer k 0x42
  else s.claimJoined k seq running

theorem execClaim_of_takesFrame (h : s.takesFrame p w f 0x30 x) (hpay : f.payload = []) :
    exec (.claim p w) s = .next (((s.tookFrame p f).claimed f.slot f.seq).closeSpent f.slot) :=
  next_congr (State.request_of_takesFrame h (by decide) (by simp [hpay]))

section

variable {seq : Nat}

theorem State.claimed_barred (hb : s.electionsBarred = true) : s.claimed k seq = s.claimAnswer k 0x46 := if_pos hb

variable (hb : s.electionsBarred = false)
include hb

theorem State.claimed_owned (ho : s.fget CTP_OWNER_VALID = 1) (hc : s.fget CTP_SESS_STATE_OWNER_CRED k = 1) :
    s.claimed k seq = s.claimAnswer k 0x41 := by
  simp [State.claimed, hb, ho, hc]

theorem State.claimed_running (ho : s.fget CTP_OWNER_VALID = 0) (hr : s.fget CTP_ELECTION_OPEN = 1) : s.claimed k seq =
    if s.fget CTP_SESS_STATE_OWNER_CRED k = 1 then s.claimJoined k seq true else s.claimAnswer k 0x42 := by
  by_cases hc : s.fget CTP_SESS_STATE_OWNER_CRED k = 1 <;> simp [State.claimed, hb, ho, hr, hc]

theorem State.claimed_first (ho : s.fget CTP_OWNER_VALID = 0) (hr : s.fget CTP_ELECTION_OPEN = 0) : s.claimed k seq =
    if s.refreshCreds.fget CTP_SESS_STATE_OWNER_CRED k = 1 then s.refreshCreds.claimJoined k seq false
    else s.refreshCreds.claimAnswer k 0x42 := by
  by_cases hc : s.refreshCreds.fget CTP_SESS_STATE_OWNER_CRED k = 1 <;> simp [State.claimed, hb, ho, hr, hc]

end

/-- The claims of an election replaced. -/
def State.withClaims (s : State) (at_ : Nat) (l : List (Nat × Nat)) : State :=
  { s with ctp := { s.ctp with electionAt := at_, claims := l } }

theorem State.withClaims_frame (s : State) (at_ : Nat) (l : List (Nat × Nat)) : s.KeepsWork (s.withClaims at_ l) ∧
    (s.withClaims at_ l).ctp.sessions = s.ctp.sessions ∧ (s.withClaims at_ l).ctp.claims = l ∧
    (s.withClaims at_ l).ctp.electionAt = at_ ∧ (s.withClaims at_ l).out = s.out :=
  ⟨⟨rfl, rfl, rfl, rfl, rfl, rfl⟩, rfl, rfl, rfl, rfl⟩

theorem State.claimJoined_def (s : State) (k seq : Nat) (running : Bool) : s.claimJoined k seq running =
    ((s.withClaims (if running then s.ctp.electionAt else s.now) (s.ctp.claims ++ [(k, seq)])).fset CTP_ELECTION_OPEN 1).refreshElection :=
  rfl

theorem State.claimJoined_spec (s : State) (k seq : Nat) (running : Bool) : s.KeepsWork (s.claimJoined k seq running) ∧
    (s.claimJoined k seq running).ctp.sessions = s.ctp.sessions ∧
    (s.claimJoined k seq running).ctp.claims = s.ctp.claims ++ [(k, seq)] ∧
    (s.claimJoined k seq running).ctp.electionAt = (if running then s.ctp.electionAt else s.now) ∧
    (s.claimJoined k seq running).out = s.out ∧ (s.claimJoined k seq running).fget CTP_ELECTION_OPEN = 1 := by
  rw [State.claimJoined_def]
  obtain ⟨hwork, hsessions, hclaims, hat, hout⟩ := s.withClaims_frame (if running then s.ctp.electionAt else s.now) (s.ctp.claims ++ [(k, seq)])
  generalize s.withClaims _ _ = v at hwork hsessions hclaims hat hout ⊢
  unfold State.refreshElection
  refine ⟨hwork.fset.fset, ?_, ?_, ?_, ?_, ?_⟩
  · rw [State.fset_ctp, State.fset_ctp, hsessions]
  · rw [State.fset_ctp, State.fset_ctp, hclaims]
  · rw [State.fset_ctp, State.fset_ctp, hat]
  · rw [State.fset_out, State.fset_out, hout]
  · rw [State.fget_fset_other _ _ _ _ _ _ _ _ (by decide) (by decide) (by decide)]
    exact State.fget_fset_of_lt _ 0 0 (by decide) (by decide)

/-- An answer to a CLAIM whose frame has been taken. -/
theorem State.Heard.claimAnswer (h : s.Heard u f x) (result : Nat) : let v := (u.claimAnswer f.slot result).closeSpent f.slot
    s.Answers v f x 0xB0 (leBytes 4 result ++ leBytes 4 u.winner) ∧ u.KeepsWork v := by
  obtain ⟨hanswer, hwork, -⟩ := h.answers 0x30 (leBytes 4 result ++ leBytes 4 u.winner)
  exact ⟨hanswer, hwork⟩

theorem State.Heard.claimJoined (h : s.Heard u f x) (running : Bool) :
    (u.claimJoined f.slot f.seq running).closeSpent f.slot = u.claimJoined f.slot f.seq running := by
  obtain ⟨-, hsessions, -, -, hout, -⟩ := u.claimJoined_spec f.slot f.seq running
  exact (h.congr hsessions hout).closeSpent

section

variable (h : s.takesFrame p w f 0x30 x) (hpay : f.payload = [])
include h hpay

theorem claim_barred (hb : s.electionsBarred = true) : ∃ s', exec (.claim p w) s = .next s' ∧
    s.Answers s' f x 0xB0 (leBytes 4 0x46 ++ leBytes 4 s.winner) ∧ s.KeepsWork s' := by
  obtain ⟨hanswer, hwork⟩ := h.heard.claimAnswer 0x46
  refine ⟨_, execClaim_of_takesFrame h hpay, ?_⟩
  rw [State.claimed_barred (h.electionsBarred.trans hb)]
  exact ⟨h.winner ▸ hanswer, (s.keepsWork_tookFrame p f).trans hwork⟩

variable (hb : s.electionsBarred = false)
include hb

theorem claim_owned (ho : s.fget CTP_OWNER_VALID = 1) (hc : s.fget CTP_SESS_STATE_OWNER_CRED f.slot = 1) :
    ∃ s', exec (.claim p w) s = .next s' ∧ s.Answers s' f x 0xB0 (leBytes 4 0x41 ++ leBytes 4 (s.fget CTP_OWNER_SLOT)) ∧
      s.KeepsWork s' := by
  obtain ⟨hanswer, hwork⟩ := h.heard.claimAnswer 0x41
  refine ⟨_, execClaim_of_takesFrame h hpay, ?_⟩
  rw [State.claimed_owned (h.electionsBarred.trans hb) ((h.fget_tookFrame _ _ (by decide)).trans ho) ((h.fget_cred _).trans hc)]
  have hwin : s.winner = s.fget CTP_OWNER_SLOT := if_pos ho
  exact ⟨hwin ▸ h.winner ▸ hanswer, (s.keepsWork_tookFrame p f).trans hwork⟩

variable (ho : s.fget CTP_OWNER_VALID = 0)
include ho

theorem claim_joins (hr : s.fget CTP_ELECTION_OPEN = 1) (hc : s.fget CTP_SESS_STATE_OWNER_CRED f.slot = 1) :
    ∃ s', exec (.claim p w) s = .next s' ∧ s'.ctp.claims = s.ctp.claims ++ [(f.slot, f.seq)] ∧ s'.fget CTP_ELECTION_OPEN = 1 ∧
      s'.out = s.out ∧ s.KeepsWork s' := by
  obtain ⟨hwork, -, hclaims, -, hout, hopen⟩ := (s.tookFrame p f).claimJoined_spec f.slot f.seq true
  have hsame := s.onlySessions_tookFrame p f
  obtain ⟨-, htook, -, -⟩ := h.heard
  refine ⟨_, execClaim_of_takesFrame h hpay, ?_⟩
  rw [State.claimed_running (h.electionsBarred.trans hb) ((h.fget_tookFrame _ _ (by decide)).trans ho)
    ((h.fget_tookFrame _ _ (by decide)).trans hr), if_pos ((h.fget_cred _).trans hc), h.heard.claimJoined true]
  exact ⟨hclaims.trans (congrArg (· ++ _) hsame.claims_eq), hopen, hout.trans htook,
    (s.keepsWork_tookFrame p f).trans hwork⟩

theorem claim_noCredential (hr : s.fget CTP_ELECTION_OPEN = 1) (hc : s.fget CTP_SESS_STATE_OWNER_CRED f.slot = 0) :
    ∃ s', exec (.claim p w) s = .next s' ∧ s.Answers s' f x 0xB0 (leBytes 4 0x42 ++ leBytes 4 0xFF) ∧ s.KeepsWork s' := by
  obtain ⟨hanswer, hwork⟩ := h.heard.claimAnswer 0x42
  have hwin : s.winner = 0xFF := if_neg (by rw [ho]; omega)
  refine ⟨_, execClaim_of_takesFrame h hpay, ?_⟩
  rw [State.claimed_running (h.electionsBarred.trans hb) ((h.fget_tookFrame _ _ (by decide)).trans ho)
    ((h.fget_tookFrame _ _ (by decide)).trans hr), if_neg (by rw [h.fget_cred, hc]; omega)]
  exact ⟨hwin ▸ h.winner ▸ hanswer, (s.keepsWork_tookFrame p f).trans hwork⟩

end

/-! ### Credentials as an election opens (R103, R468, R494) -/

/-- The credential and RANK of one session shown. -/
def State.credShown (s : State) (e : Nat × Session) : State :=
  (s.fset CTP_SESS_STATE_OWNER_CRED (b2n (s.credOf e.2).1) e.1).fset CTP_SESS_STATE_RANK (s.credOf e.2).2 e.1

theorem State.refreshCreds_def (s : State) :
    s.refreshCreds = (s.ctp.sessions.filter (fun e => s.sessState e.1 != sessOpening)).foldl State.credShown s := rfl

theorem State.onlyRegs_credShown (s : State) (e : Nat × Session) : s.OnlyRegs (s.credShown e) := (State.OnlyRegs.refl s).fset.fset

theorem State.onlyRegs_refreshCreds (s : State) : s.OnlyRegs s.refreshCreds :=
  (State.OnlyRegs.refl s).foldl (fun u e => u.onlyRegs_credShown e) _

/-- The owner's slot and whether there is one lie beside the fields that a credential is shown in, whatever the slot's number. -/
theorem State.fget_refreshCreds (s : State) {g : Fld} (hg : g.lo ≤ g.hi ∧ 16 ≤ g.lo ∧ (g.hi < 27 ∨ 27 < g.lo)) (i : Nat) :
    s.refreshCreds.fget g i = s.fget g i := by
  have hstep : ∀ (u : State) (e : Nat × Session), (u.credShown e).fget g i = u.fget g i := by
    intro u e
    rw [State.credShown, State.fget_fset_other _ CTP_SESS_STATE_RANK _ _ _ _ _ _ (by decide) hg.1 (.inl (by
      show 15 < g.lo
      omega)), State.fget_fset_other _ CTP_SESS_STATE_OWNER_CRED _ _ _ _ _ _ (by decide) hg.1 (by
      show 27 < g.lo ∨ g.hi < 27
      omega)]
  exact State.foldl_keeps (State.fget · g i) hstep _ s

theorem State.cred_credShown_ne (s : State) {e : Nat × Session} (h : e.1 ≠ k) :
    (s.credShown e).fget CTP_SESS_STATE_OWNER_CRED k = s.fget CTP_SESS_STATE_OWNER_CRED k := by
  have hne : regAddr CTP_SESS_STATE e.1 0 ≠ regAddr CTP_SESS_STATE k 0 := by
    rw [regAddr_sess, regAddr_sess]
    omega
  rw [State.credShown, State.fget_fset_ne _ CTP_SESS_STATE_RANK CTP_SESS_STATE_OWNER_CRED _ _ _ _ _ hne,
    State.fget_fset_ne _ CTP_SESS_STATE_OWNER_CRED CTP_SESS_STATE_OWNER_CRED _ _ _ _ _ hne]

theorem State.cred_credShown_self (s : State) (k : Nat) (y : Session) :
    (s.credShown (k, y)).fget CTP_SESS_STATE_OWNER_CRED k = b2n (s.credOf y).1 := by
  rw [State.credShown, State.fget_fset_other _ _ _ _ _ _ _ _ (by decide) (by decide) (by decide)]
  exact State.fget_fset_of_lt _ k 0 (by decide) (by cases (s.credOf y).1 <;> decide)

theorem State.cred_credsShown_ne (l : List (Nat × Session)) (s : State) (h : ∀ e ∈ l, e.1 ≠ k) :
    (l.foldl State.credShown s).fget CTP_SESS_STATE_OWNER_CRED k = s.fget CTP_SESS_STATE_OWNER_CRED k := by
  induction l generalizing s with
  | nil => rfl
  | cons e l ih =>
    rw [List.foldl_cons, ih _ fun d hd => h d (List.mem_cons_of_mem e hd), State.cred_credShown_ne _ (h e List.mem_cons_self)]

/-- The sessions once a frame is accepted: its own stands first. -/
theorem State.sessions_acceptFrame (h : s.session f.slot = some x) : (s.acceptFrame f).ctp.sessions =
    (f.slot, { x with rx := f.seq, lastAt := s.now }) :: s.ctp.sessions.filter (fun e => e.1 != f.slot) := by
  unfold State.acceptFrame
  rw [h]
  dsimp only
  have hset := congrArg Ctp.sessions (s.setSession_ctp f.slot { x with rx := f.seq, lastAt := s.now })
  generalize s.setSession f.slot { x with rx := f.seq, lastAt := s.now } = v at hset ⊢
  split <;> exact hset

/-- The credential that an open session's slot shows once credentials are refreshed. -/
theorem State.cred_refreshCreds {y : Session} {l : List (Nat × Session)} (hl : s.ctp.sessions = (k, y) :: l) (hne : ∀ e ∈ l, e.1 ≠ k)
    (ho : s.sessState k ≠ sessOpening) : s.refreshCreds.fget CTP_SESS_STATE_OWNER_CRED k = b2n (s.credOf y).1 := by
  rw [State.refreshCreds_def, hl, List.filter_cons_of_pos (by simpa using ho), List.foldl_cons,
    State.cred_credsShown_ne _ _ fun e he => hne e (List.mem_of_mem_filter he), State.cred_credShown_self]

theorem State.credOf_congr {y : Session} (hsvy : t.svy = s.svy) (hentry : y.entry = x.entry) (hkey : y.key = x.key) :
    t.credOf y = s.credOf x := by
  have hd : y.digest = x.digest := by rw [Session.digest, Session.digest, hentry, hkey]
  unfold State.credOf State.accessEntry
  rw [hsvy, hentry, hd]

theorem State.takesFrame.cred_refreshCreds (h : s.takesFrame p w f 0x30 x) :
    (s.tookFrame p f).refreshCreds.fget CTP_SESS_STATE_OWNER_CRED f.slot = b2n (s.credOf x).1 := by
  have hst : s.sessState f.slot ≠ sessOpening := by
    obtain ⟨-, -, -, -, -, -, -, hopen, -, -, -, hopening, -⟩ := h
    obtain ⟨-, hslot, -⟩ := State.openFrame_same hopen
    rw [hslot]
    exact fun hc => absurd (hopening.mp hc) (by decide)
  have hsession : (s.bump64 CTP_RX_FRAMES_LO_COUNT CTP_RX_FRAMES_HI_COUNT 1 p).session f.slot = some x := by
    obtain ⟨-, -, -, -, hsession, -, -, hopen, -⟩ := h
    obtain ⟨-, hslot, -⟩ := State.openFrame_same hopen
    rw [State.session, State.bump64_ctp, hslot]
    exact hsession
  have hl := State.sessions_acceptFrame hsession
  rw [State.cred_refreshCreds (s := s.tookFrame p f) hl (fun e he => by simpa using List.of_mem_filter he)
    (by rw [h.sessState]; exact hst)]
  exact congrArg (fun c : Bool × Nat => b2n c.1) (State.credOf_congr (s.onlySessions_tookFrame p f).svy_eq rfl rfl)

theorem State.takesFrame.heard_refreshCreds (h : s.takesFrame p w f 0x30 x) : s.Heard (s.tookFrame p f).refreshCreds f x := by
  have hregs := (s.tookFrame p f).onlyRegs_refreshCreds
  rw [State.OnlyRegs] at hregs
  exact h.heard.congr (congrArg (fun s => s.ctp.sessions) hregs :) (congrArg State.out hregs :)

section

variable (h : s.takesFrame p w f 0x30 x) (hpay : f.payload = []) (hb : s.electionsBarred = false)
  (ho : s.fget CTP_OWNER_VALID = 0) (hr : s.fget CTP_ELECTION_OPEN = 0)
include h hpay hb ho hr

theorem execClaim_first : exec (.claim p w) s = .next
    ((if (s.credOf x).1 then (s.tookFrame p f).refreshCreds.claimJoined f.slot f.seq false
      else (s.tookFrame p f).refreshCreds.claimAnswer f.slot 0x42).closeSpent f.slot) := by
  rw [execClaim_of_takesFrame h hpay, State.claimed_first (h.electionsBarred.trans hb) ((h.fget_tookFrame _ _ (by decide)).trans ho)
    ((h.fget_tookFrame _ _ (by decide)).trans hr), h.cred_refreshCreds]
  cases (s.credOf x).1 <;> rfl

theorem claim_opens (hc : (s.credOf x).1 = true) : ∃ s', exec (.claim p w) s = .next s' ∧
    s'.ctp.claims = s.ctp.claims ++ [(f.slot, f.seq)] ∧ s'.ctp.electionAt = s.now ∧ s'.fget CTP_ELECTION_OPEN = 1 ∧ s'.out = s.out ∧
    s.KeepsWork s' := by
  have hheard := h.heard_refreshCreds
  have hsame := (s.onlySessions_tookFrame p f).trans (.of_onlyRegs (State.onlyRegs_refreshCreds _))
  have hkeep := (s.keepsWork_tookFrame p f).trans (s.tookFrame p f).onlyRegs_refreshCreds.keepsWork
  refine ⟨_, execClaim_first h hpay hb ho hr, ?_⟩
  rw [hc, if_pos rfl, hheard.claimJoined false]
  obtain ⟨hwork, -, hclaims, hat, hout, hopen⟩ := (s.tookFrame p f).refreshCreds.claimJoined_spec f.slot f.seq false
  obtain ⟨-, htook, -, -⟩ := hheard
  exact ⟨hclaims.trans (congrArg (· ++ _) hsame.claims_eq), hat.trans hsame.now_eq, hopen,
    hout.trans htook, hkeep.trans hwork⟩

theorem claim_firstRefused (hc : (s.credOf x).1 = false) : ∃ s', exec (.claim p w) s = .next s' ∧
    s.Answers s' f x 0xB0 (leBytes 4 0x42 ++ leBytes 4 0xFF) ∧ s.KeepsWork s' := by
  have hkeep := (s.keepsWork_tookFrame p f).trans (s.tookFrame p f).onlyRegs_refreshCreds.keepsWork
  obtain ⟨hanswer, hwork⟩ := h.heard_refreshCreds.claimAnswer 0x42
  have hvalid : (s.tookFrame p f).refreshCreds.fget CTP_OWNER_VALID = 0 :=
    (State.fget_refreshCreds _ (by decide) 0).trans ((h.fget_tookFrame _ _ (by decide)).trans ho)
  have hwin : (s.tookFrame p f).refreshCreds.winner = 0xFF := if_neg (by rw [hvalid]; omega)
  refine ⟨_, execClaim_first h hpay hb ho hr, ?_⟩
  rw [hc, if_neg Bool.false_ne_true]
  exact ⟨hwin ▸ hanswer, hkeep.trans hwork⟩

end

/-! ### The close of an election (R473) -/

theorem electionClose_due {k : Nat} (ho : s.fget CTP_ELECTION_OPEN = 1) (ht : s.ctp.electionAt + 50_000_000 ≤ s.now)
    (hk : argMin s.candidateKey (s.ctp.claims.map (·.1)) = some k) : exec .electionClose s = .next (s.closeElection k) := by
  show execElectionClose s = _
  refine next_congr ((if_neg ?_).trans (by rw [hk]))
  rw [ho, oneMs]
  omega

theorem electionClose_early (ht : s.now < s.ctp.electionAt + 50_000_000) : exec .electionClose s = .next s :=
  next_congr (if_pos (.inr ht))

/-- The election's own registers as it closes. -/
def State.electionEnded (s : State) : State :=
  (({ s with ctp := { s.ctp with claims := [] } } : State).wset CTP_ELECTION 0).bump CTP_OWNER_ELECTIONS

theorem State.electionEnded_spec (s : State) : s.KeepsWork s.electionEnded ∧ s.electionEnded.ctp.sessions = s.ctp.sessions ∧
    s.electionEnded.ctp.claims = [] ∧ s.electionEnded.fget CTP_ELECTION_OPEN = 0 ∧
    s.electionEnded.fget CTP_OWNER_VALID = s.fget CTP_OWNER_VALID := by
  unfold State.electionEnded
  have hv : ∀ c, s.KeepsWork ({ s with ctp := c } : State) := fun _ => ⟨rfl, rfl, rfl, rfl, rfl, rfl⟩
  have hr : ∀ c, ({ s with ctp := c } : State).fget CTP_OWNER_VALID = s.fget CTP_OWNER_VALID := fun _ => rfl
  refine ⟨(hv _).wset.bump, ?_, ?_, ?_, ?_⟩
  · rw [State.bump_ctp, State.wset_ctp]
  · rw [State.bump_ctp, State.wset_ctp]
  · rw [State.fget_of_rget (State.rget_bump_ne (f := CTP_OWNER_ELECTIONS) (i := 0) (j := 0) _ (by decide))]
    exact State.fget_wset_self _ CTP_ELECTION_OPEN 0 0 0
  · rw [State.bump, State.fget_fset_other _ _ _ _ _ _ _ _ (by decide) (by decide) (by decide), State.fget_wset_ne _ _ _ _ _ _ _ _
      (by decide), hr]

theorem State.closeElection_def (s : State) (k : Nat) : s.closeElection k = s.ctp.claims.foldl
    (fun s e => (s.claimAnswer e.1 (if e.1 = k then 0 else 0x47)).closeSpent e.1) (s.electionEnded.newOwner k) := rfl

theorem electionClose_alone {k y : Nat} (ho : s.fget CTP_ELECTION_OPEN = 1) (ht : s.ctp.electionAt + 50_000_000 ≤ s.now)
    (hc : s.ctp.claims = [(k, y)]) (hk : k < 16) (hs : s.session k = none) (hv : s.fget CTP_OWNER_VALID = 0) :
    ∃ s', exec .electionClose s = .next s' ∧ s'.fget CTP_OWNER_VALID = 1 ∧ s'.fget CTP_OWNER_SLOT = k ∧
      s'.fget CTP_ELECTION_OPEN = 0 ∧ s'.ctp.claims = [] ∧ s.KeepsWork s' := by
  obtain ⟨hwork, hsessions, hclaims, hopen, hvalid⟩ := s.electionEnded_spec
  have howned := s.electionEnded.onlyOwned_makeOwner k
  have hnone : (s.electionEnded.makeOwner k).session k = none := by
    rw [State.session, howned.sessions_eq, hsessions]
    exact hs
  have hanswer : ∀ r, (s.electionEnded.makeOwner k).claimAnswer k r = s.electionEnded.makeOwner k := by
    intro r
    rw [State.claimAnswer, State.reply, hnone]
  have hclose : (s.electionEnded.makeOwner k).closeSpent k = s.electionEnded.makeOwner k := by rw [State.closeSpent, hnone]
  have hdef : s.closeElection k = s.electionEnded.makeOwner k := by
    rw [State.closeElection_def, hc, List.foldl_cons, List.foldl_nil, State.newOwner_vacant (hvalid.trans hv), hanswer, hclose]
  refine ⟨_, electionClose_due ho ht (k := k) (by rw [hc]; rfl), ?_⟩
  rw [hdef]
  obtain ⟨-, hone, hslot⟩ := s.electionEnded.makeOwner_spec hk
  refine ⟨hone, hslot, ?_, howned.claims_eq.trans hclaims, hwork.trans howned.keepsWork⟩
  rw [State.fget_of_rget ((State.rget_makeOwner _ k (.inl (by decide))).trans (State.rget_shownOwner _ k (by decide) ?_)), hopen]
  show regAddr CTP_ELECTION 0 0 ≠ _
  simp only [regAddr, CTP_ELECTION]
  omega

/-! ### HANDOVER (R476) -/

section

variable (h : s.takesFrame p w f 0x31 x) (hpay : f.payload = leBytes 1 k ++ leBytes 3 0) (hk : k < 16)
include h hpay hk

theorem execHandover_of_takesFrame : exec (.handover p w) s = .next
    ((if k < 16 ∧ k ≠ f.slot ∧ s.sessState k = sessObserver ∧ s.fget CTP_SESS_STATE_OWNER_CRED k = 1 then
        ((s.tookFrame p f).newOwner k).reply f.slot 0x31 (leBytes 4 0)
      else (s.tookFrame p f).reply f.slot 0x31 (leBytes 4 0x45)).closeSpent f.slot) := by
  have hlayout : (f.payload.length == 4 && zeroAt f.payload 1 3) = true := by
    rw [hpay]
    simp [leBytes, zeroAt, slice]
  have hfield : fieldAt f.payload 0 1 = k := by
    rw [hpay]
    simp [leBytes, fieldAt, slice, leVal]
    omega
  refine next_congr ((State.request_of_takesFrame h (by decide) hlayout).trans ?_)
  dsimp only
  rw [hfield, h.sessState, h.fget_cred]
  rfl

theorem handover_valid (hne : k ≠ f.slot) (ho : s.sessState k = sessObserver) (hc : s.fget CTP_SESS_STATE_OWNER_CRED k = 1) :
    exec (.handover p w) s = .next ((((s.tookFrame p f).newOwner k).reply f.slot 0x31 (leBytes 4 0)).closeSpent f.slot) := by
  rw [execHandover_of_takesFrame h hpay hk, if_pos ⟨hk, hne, ho, hc⟩]

theorem handover_invalid (ho : s.sessState k ≠ sessObserver ∨ s.fget CTP_SESS_STATE_OWNER_CRED k ≠ 1) :
    ∃ s', exec (.handover p w) s = .next s' ∧ s.Answers s' f x 0xB1 (leBytes 4 0x45) ∧ s.KeepsWork s' := by
  obtain ⟨hanswer, hwork, -⟩ := h.heard.answers 0x31 (leBytes 4 0x45)
  refine ⟨_, execHandover_of_takesFrame h hpay hk, ?_⟩
  rw [if_neg fun ⟨_, _, hst, hcr⟩ => ho.elim (absurd hst) (absurd hcr)]
  exact ⟨hanswer, (s.keepsWork_tookFrame p f).trans hwork⟩

end

/-- A request of the owner leaves who the owner is as it was. -/
theorem State.takesFrame.owner (h : s.takesFrame p w f 0x31 x) : (s.tookFrame p f).fget CTP_OWNER_VALID = 1 ∧
    (s.tookFrame p f).fget CTP_OWNER_SLOT = f.slot := by
  have howner : s.ownerSession (.session f.slot) = true := by
    obtain ⟨-, -, -, -, -, -, -, hopen, -, -, -, -, howner⟩ := h
    obtain ⟨-, hslot, -⟩ := State.openFrame_same hopen
    exact hslot ▸ howner (by decide)
  rw [h.fget_tookFrame _ _ (by decide), h.fget_tookFrame _ _ (by decide)]
  simpa [State.ownerSession] using howner

/-- Ownership passed on, with no commit waiting. -/
theorem State.newOwner_spec (hv : s.fget CTP_OWNER_VALID = 1) (hc : s.sec.commit = none) (hk : k < 16) (hj : s.fget CTP_OWNER_SLOT < 16)
    (hne : k ≠ s.fget CTP_OWNER_SLOT) : s.OnlyOwned (s.newOwner k) ∧ (s.newOwner k).fget CTP_OWNER_VALID = 1 ∧
      (s.newOwner k).fget CTP_OWNER_SLOT = k ∧ (s.newOwner k).sessState k = sessOwner ∧
      (s.newOwner k).sessState (s.fget CTP_OWNER_SLOT) = sessObserver := by
  rw [State.newOwner_owned hv]
  obtain ⟨hgone, hr⟩ := State.ownerGone_spec hc
  obtain ⟨hstate, hvalid, hslot⟩ := s.ownerGone.makeOwner_spec hk
  refine ⟨hgone.trans (s.ownerGone.onlyOwned_makeOwner k), hvalid, hslot, hstate, ?_⟩
  generalize s.fget CTP_OWNER_SLOT = j at hr hj hne ⊢
  have haddr : regAddr CTP_SESS_STATE_STATE.reg j 0 = 0x2100 + 0x10 * j := regAddr_sess j
  have hkept : (s.ownerGone.makeOwner k).rget (regAddr CTP_SESS_STATE_STATE.reg j 0) =
      (s.fset CTP_SESS_STATE_STATE sessObserver j).rget (regAddr CTP_SESS_STATE_STATE.reg j 0) := by
    rw [State.rget_makeOwner _ _ (.inl (by omega)), State.rget_shownOwner _ _ (by omega) (by omega), hr _ (by omega) (by omega)]
  rw [State.sessState, State.fget_of_rget hkept]
  exact State.fget_fset_of_lt _ j 0 (by decide) (by decide)

theorem State.reply_open (h : s.session k = some x) (type : Nat) (payload : List Byte) :
    s.reply k type payload = s.sendFrame x.port k (0x80 + type) true payload := by
  rw [State.reply, h]

theorem handover_done (h : s.takesFrame p w f 0x31 x) (hpay : f.payload = leBytes 1 k ++ leBytes 3 0) (hk : k < 16) (hne : k ≠ f.slot)
    (ho : s.sessState k = sessObserver) (hc : s.fget CTP_SESS_STATE_OWNER_CRED k = 1) (hcommit : s.sec.commit = none) :
    ∃ s', exec (.handover p w) s = .next s' ∧ s.Answers s' f x 0xB1 (leBytes 4 0) ∧ s'.fget CTP_OWNER_VALID = 1 ∧
      s'.fget CTP_OWNER_SLOT = k ∧ s'.sessState k = sessOwner ∧ s'.sessState f.slot = sessObserver ∧ s.KeepsWork s' := by
  obtain ⟨hvalid, hslot⟩ := h.owner
  have hslotlt := h.slot_lt
  obtain ⟨howned, hone, hto, hstate, hformer⟩ := State.newOwner_spec (s := s.tookFrame p f) hvalid
    ((congrArg Sec.commit (s.onlySessions_tookFrame p f).sec_eq).trans hcommit) hk (hslot ▸ hslotlt) (hslot ▸ hne)
  rw [hslot] at hformer
  refine ⟨_, handover_valid h hpay hk hne ho hc, ?_⟩
  have hheard : s.Heard ((s.tookFrame p f).newOwner k) f x := h.heard.congr howned.sessions_eq howned.out_eq
  have hkeep := (s.keepsWork_tookFrame p f).trans howned.keepsWork
  generalize (s.tookFrame p f).newOwner k = t at hone hto hstate hformer hheard hkeep
  obtain ⟨hanswer, hwork, -⟩ := hheard.answers 0x31 (leBytes 4 0)
  have hsent : (t.reply f.slot 0x31 (leBytes 4 0)).closeSpent f.slot = t.sendFrame x.port f.slot 0xB1 true (leBytes 4 0) := by
    obtain ⟨hsession, -, hrx, htx⟩ := hheard
    rw [State.reply_open hsession, State.closeSpent_open (State.session_sendFrame_self hsession _ _ _ _) hrx
      (by show x.tx + 1 < 2 ^ 48; omega)]
  refine ⟨hanswer, ?_, ?_, ?_, ?_, hkeep.trans hwork⟩ <;> rw [hsent]
  · exact (State.fget_of_rget (t.rget_sendFrame_high _ _ _ _ h.sessionPort_lt (by decide))).trans hone
  · exact (State.fget_of_rget (t.rget_sendFrame_high _ _ _ _ h.sessionPort_lt (by decide))).trans hto
  · exact (t.sessState_sendFrame _ _ _ _ _ h.sessionPort_lt).trans hstate
  · exact (t.sessState_sendFrame _ _ _ _ _ h.sessionPort_lt).trans hformer

end

end Sys2Proof.Machine
end

section
/-! PROOFS. O46: CLOSE, silence, violations, links and light (R469, R472, R477, R479, R496, R648). -/

namespace Sys2Proof.Machine

section

variable {s t u : State} {p k j : Nat} {w f : Frame} {x : Session}

/-! ### A slot that is free stays free (R469) -/

theorem State.session_congr (h : t.ctp.sessions = s.ctp.sessions) (k : Nat) : t.session k = s.session k := by
  rw [State.session, State.session, h]

theorem State.session_setSession_ne (s : State) {y : Session} (h : j ≠ k) : (s.setSession j y).session k = s.session k := by
  rw [State.session, State.session, State.setSession_ctp, List.find?_cons_of_neg (by simpa using h), List.find?_filter]
  refine congrArg _ (List.find?_congr fun e _ => ?_)
  by_cases he : e.1 = k
  · simp [he, Ne.symm h]
  · simp [he]

theorem State.session_sendFrame_none (h : s.session k = none) (port j type : Nat) (encrypted : Bool) (payload : List Byte) :
    (s.sendFrame port j type encrypted payload).session k = none := by
  cases hj : s.session j with
  | none =>
    obtain ⟨fr, hsent⟩ := State.sendFrame_closed hj port type encrypted payload
    rw [hsent, State.session, State.emit_ctp, State.bump64_ctp]
    exact h
  | some y =>
    obtain ⟨fr, -, -, -, hsent⟩ := State.sendFrame_open hj port type encrypted payload
    have hne : j ≠ k := by
      rintro rfl
      rw [h] at hj
      cases hj
    rw [hsent, State.session, State.emit_ctp, State.bump64_ctp]
    exact (s.session_setSession_ne hne).trans h

theorem State.session_answerCommit_none (h : s.session k = none) (c : FwCommit) (code : Nat) : (s.answerCommit c code).session k = none := by
  unfold State.answerCommit
  split
  · split <;> exact (State.session_congr (congrArg Ctp.sessions (s.onlyLoader_mgEnd _ _ _).ctp_eq) k).trans h
  · split
    · exact State.session_sendFrame_none h _ _ _ _ _
    · exact h

theorem State.session_with_sec (s : State) (c : Sec) (k : Nat) : ({ s with sec := c } : State).session k = s.session k := rfl

theorem State.session_refuseFw_none (h : s.session k = none) (code : Nat) : (s.refuseFw code).session k = none := by
  unfold State.refuseFw
  extract_lets v
  have hv : v.session k = none :=
    (State.session_congr (congrArg Ctp.sessions (s.onlyLoader_setStage fwRefused code).ctp_eq) k).trans h
  clear_value v
  split
  · exact State.session_answerCommit_none ((v.session_with_sec _ k).trans hv) _ code
  · exact hv

theorem State.session_fwOwnerLost_none (h : s.session k = none) : s.fwOwnerLost.session k = none := by
  unfold State.fwOwnerLost
  extract_lets checked
  split
  · exact h
  · split
    · exact State.session_refuseFw_none h 1
    · exact h

/-- Ownership shown as vacant, and its slot as an observer's. -/
def State.vacated (s : State) (k slot : Nat) : State :=
  let t := (s.fset CTP_OWNER_VALID 0).fset CTP_OWNER_SLOT slot
  if t.sessState k = sessOwner then t.fset CTP_SESS_STATE_STATE sessObserver k else t

theorem State.onlyRegs_vacated (s : State) (k slot : Nat) : s.OnlyRegs (s.vacated k slot) := by
  have ht : s.OnlyRegs ((s.fset CTP_OWNER_VALID 0).fset CTP_OWNER_SLOT slot) := (State.OnlyRegs.refl s).fset.fset
  exact .ite ht.fset ht

theorem State.loseOwnership_def (s : State) : s.loseOwnership = if s.fget CTP_OWNER_VALID = 0 then s else
    (s.drawn1.vacated (s.fget CTP_OWNER_SLOT) (s.draw 16).1).svyOwnerLost.fwOwnerLost := rfl

theorem State.vacated_frame (s : State) (k slot : Nat) : (s.drawn1.vacated k slot).svyOwnerLost.ctp = s.ctp ∧
    (s.drawn1.vacated k slot).svyOwnerLost.out = s.out ∧ (s.drawn1.vacated k slot).svyOwnerLost.sec = s.sec := by
  have hregs := s.drawn1.onlyRegs_vacated k slot
  have hlost := (s.drawn1.vacated k slot).onlyLoader_svyOwnerLost
  rw [State.OnlyRegs] at hregs
  refine ⟨hlost.ctp_eq.trans ?_, hlost.out_eq.trans ?_, hlost.sec_eq.trans ?_⟩ <;> rw [hregs] <;> rfl

theorem State.session_loseOwnership_none (h : s.session k = none) : s.loseOwnership.session k = none := by
  rw [State.loseOwnership_def]
  split
  · exact h
  · obtain ⟨hctp, -, -⟩ := s.vacated_frame (s.fget CTP_OWNER_SLOT) (s.draw 16).1
    exact State.session_fwOwnerLost_none ((State.session_congr (congrArg Ctp.sessions hctp) k).trans h)

/-- With no firmware commit waiting, nothing is sent as ownership ends. -/
theorem State.out_loseOwnership (h : s.sec.commit = none) : s.loseOwnership.out = s.out := by
  rw [State.loseOwnership_def]
  split
  · rfl
  · obtain ⟨-, hout, hsec⟩ := s.vacated_frame (s.fget CTP_OWNER_SLOT) (s.draw 16).1
    exact (State.onlyLoader_fwOwnerLost ((congrArg Sec.commit hsec).trans h)).out_eq.trans hout

theorem State.dropOut_frame (s : State) (k : Nat) : (s.dropOut k).ctp.sessions = s.ctp.sessions ∧ (s.dropOut k).out = s.out ∧
    (s.dropOut k).sec = s.sec := by
  unfold State.dropOut
  split
  · exact ⟨rfl, rfl, rfl⟩
  · extract_lets c v r
    have hv : v.ctp.sessions = s.ctp.sessions ∧ v.out = s.out ∧ v.sec = s.sec := ⟨rfl, rfl, rfl⟩
    clear_value v
    have hr : r.ctp.sessions = s.ctp.sessions ∧ r.out = s.out ∧ r.sec = s.sec := by
      rw [show r = v.fset CTP_ELECTION_CANDIDATES _ from rfl, State.fset_ctp, State.fset_out, State.fset_sec]
      exact hv
    clear_value r
    split
    · rw [State.fset_ctp, State.fset_out, State.fset_sec]
      exact hr
    · exact hr

/-- A session taken off its slot, before the election and the ownership that may depend on it. -/
def State.withoutSession (s t : State) (k : Nat) : Prop :=
  t.ctp.sessions = s.ctp.sessions.filter (fun e => e.1 != k) ∧ t.out = s.out ∧ t.sec.commit = s.sec.commit

/-- The end of a session: what holds of the slot given up, with or without the ownership, holds once it is closed. -/
theorem State.closeSession_induct {P : State → Prop} (h : s.session k = some x)
    (hP : ∀ t, s.withoutSession t k → P t ∧ P t.loseOwnership) : P (s.closeSession k) := by
  unfold State.closeSession
  split
  · next hn => rw [h] at hn; cases hn
  · extract_lets owned forget c v m u r d
    have hu : s.withoutSession u k := ⟨rfl, rfl, rfl⟩
    clear_value u
    have hr : r.ctp = u.ctp ∧ r.out = u.out ∧ r.sec = u.sec := by
      have hregs : u.OnlyRegs r := (State.OnlyRegs.refl u).wset.pairSet.trans (State.onlyRegs_refreshSessions _)
      rw [State.OnlyRegs] at hregs
      refine ⟨?_, ?_, ?_⟩ <;> rw [hregs]
    clear_value r
    obtain ⟨hsessions, hout, hsec⟩ := r.dropOut_frame k
    obtain ⟨hr1, hr2, hr3⟩ := hr
    obtain ⟨hu1, hu2, hu3⟩ := hu
    obtain ⟨hkept, hlost⟩ := hP d ⟨by rw [hsessions, hr1, hu1], by rw [hout, hr2, hu2], by rw [hsec, hr3, hu3]⟩
    split
    · exact hlost
    · exact hkept

theorem State.withoutSession.session_none (h : s.withoutSession t k) : t.session k = none := by
  obtain ⟨hsessions, -, -⟩ := h
  rw [State.session, hsessions, List.find?_filter, List.find?_eq_none.mpr fun e _ => by simp]
  rfl

theorem State.session_closeSession (s : State) (k : Nat) : (s.closeSession k).session k = none := by
  cases h : s.session k with
  | none => rw [State.closeSession, h]; exact h
  | some x =>
    exact State.closeSession_induct (P := fun t => t.session k = none) h fun t ht =>
      ⟨ht.session_none, State.session_loseOwnership_none ht.session_none⟩

theorem State.out_closeSession (k : Nat) (hc : s.sec.commit = none) : (s.closeSession k).out = s.out := by
  cases h : s.session k with
  | none => rw [State.closeSession, h]
  | some x =>
    exact State.closeSession_induct (P := fun t => t.out = s.out) h fun t ⟨_, hout, hcommit⟩ =>
      ⟨hout, (State.out_loseOwnership (hcommit.trans hc)).trans hout⟩

/-! ### CLOSE and silence (R469, R472) -/

theorem execClose_of_takesFrame (h : s.takesFrame p w f 0x11 x) (hpay : f.payload = []) : exec (.close p w) s = .next
    ((((s.tookFrame p f).reply f.slot 0x11 (leBytes 4 0)).closeSession f.slot).closeSpent f.slot) :=
  next_congr (State.request_of_takesFrame h (by decide) (by simp [hpay]))

theorem close_closes (h : s.takesFrame p w f 0x11 x) (hpay : f.payload = []) (hc : s.sec.commit = none) :
    ∃ s', exec (.close p w) s = .next s' ∧ s'.session f.slot = none ∧ s'.out = s.out ++ [x.says f.slot 0 0x91 (leBytes 4 0)] ∧
      s.KeepsWork s' := by
  obtain ⟨hsession, htook, -, -⟩ := h.heard
  obtain ⟨hsent, hnext, hwork, -⟩ := State.reply_spec hsession 0x11 (leBytes 4 0)
  have hcommit : ((s.tookFrame p f).reply f.slot 0x11 (leBytes 4 0)).sec.commit = none := by
    have hsec : ((s.tookFrame p f).reply f.slot 0x11 (leBytes 4 0)).sec = (s.tookFrame p f).sec := by
      obtain ⟨fr, -, -, -, hframe⟩ := State.sendFrame_open hsession x.port 0x91 true (leBytes 4 0)
      rw [State.reply_open hsession, hframe, State.emit_sec, State.bump64_sec, (State.onlySessions_setSession _ _ _).sec_eq]
    rw [hsec, (s.onlySessions_tookFrame p f).sec_eq, hc]
  have hnone := ((s.tookFrame p f).reply f.slot 0x11 (leBytes 4 0)).session_closeSession f.slot
  refine ⟨_, execClose_of_takesFrame h hpay, ?_⟩
  rw [State.closeSpent, hnone]
  refine ⟨hnone, (State.out_closeSession f.slot hcommit).trans (hsent.trans ?_), ((s.keepsWork_tookFrame p f).trans hwork).trans
    (State.onlyControl_closeSession _ _).keepsWork⟩
  rw [htook]
  rfl

theorem sessionTimeout_silent (h : s.session k = some x) (ht : x.lastAt + 10_000_000_000 ≤ s.now) :
    ∃ s', exec (.sessionTimeout k) s = .next s' ∧ s'.session k = none ∧ s.KeepsWork s' := by
  refine ⟨s.closeSession k, ?_, s.session_closeSession k, (s.onlyControl_closeSession k).keepsWork⟩
  show execSessionTimeout k s = _
  rw [execSessionTimeout, h]
  exact next_congr (if_neg (Nat.not_lt.mpr ht))

theorem sessionTimeout_heard (h : s.session k = some x) (ht : s.now < x.lastAt + 10_000_000_000) :
    exec (.sessionTimeout k) s = .next s := by
  show execSessionTimeout k s = _
  rw [execSessionTimeout, h]
  exact next_congr (if_pos ht)

theorem heartbeatLoss_silent (ho : s.fget CTP_OWNER_VALID = 1) (ht : s.ctp.ownerAt + 500_000_000 ≤ s.now) :
    ∃ s', exec .heartbeatLoss s = .next s' ∧ s'.fget CTP_OWNER_VALID = 0 ∧ s.KeepsWork s' := by
  refine ⟨s.loseOwnership, next_congr (if_neg ?_), s.owner_loseOwnership, s.onlyControl_loseOwnership.keepsWork⟩
  rw [ho, oneMs]
  omega

theorem heartbeatLoss_heard (ht : s.now < s.ctp.ownerAt + 500_000_000) : exec .heartbeatLoss s = .next s :=
  next_congr (if_pos (.inr ht))

/-! ### Types, windows of violations, links and light (R457, R477, R479, R496, R648) -/

theorem unknownType_violates (ht : nodeTypes.contains f.type = false) (hup : s.ctpUp p = true)
    (hi : s.fget CTP_PORT_STATUS_ISOLATED p = 0) (hb : f.badHeader = false) (h : s.session f.slot = some x) (hp : x.port = p) :
    exec (.unknownType p f) s = .next ((s.bump64 CTP_RX_FRAMES_LO_COUNT CTP_RX_FRAMES_HI_COUNT 1 p).frameViol f 9) := by
  have hcounted : (s.bump64 CTP_RX_FRAMES_LO_COUNT CTP_RX_FRAMES_HI_COUNT 1 p).attributable p f.slot = true := by
    rw [State.attributable, State.session, State.bump64_ctp, ← State.session, h]
    simpa using hp
  refine next_congr ((if_neg (by rw [ht]; exact Bool.false_ne_true)).trans ((State.receive_up hup hi _).trans ?_))
  rw [if_neg (by rw [hcounted]; decide), if_neg (by rw [hb]; exact Bool.false_ne_true), if_pos (by rw [ht]; decide)]

theorem State.viols_setViols (s : State) (p : Nat) (v : ViolCount) : (s.setViols p v).viols p = v := by
  simp [State.viols, State.setViols]

theorem State.setViols_eq (s : State) (p : Nat) (v : ViolCount) : s.setViols p v = { s with ctp := (s.setViols p v).ctp } := rfl

theorem violWindowEnd_passed (hp : p < 2) (ht : (s.viols p).since + 1_000_000 * max 1 (s.fget CTP_VIOL_CTRL_WINDOW_MS p) ≤ s.now) :
    ∃ s', exec (.violWindowEnd p) s = .next s' ∧ (s'.viols p).port = 0 ∧ (s'.viols p).slots = [] ∧ s' = { s with ctp := s'.ctp } := by
  refine ⟨s.setViols p { since := (s.viols p).since + oneMs * max 1 (s.fget CTP_VIOL_CTRL_WINDOW_MS p), port := 0, slots := [] },
    next_congr (if_neg ?_), ?_, ?_, s.setViols_eq p _⟩
  · rw [oneMs]
    omega
  · rw [State.viols_setViols]
  · rw [State.viols_setViols]

/-- Since when neither port has had light. -/
def State.withDark (s : State) (d : Option Nat) : State := { s with ctp := { s.ctp with darkAt := d } }

theorem State.withDark_frame (s : State) (d : Option Nat) : s.KeepsWork (s.withDark d) ∧ (s.withDark d).ctp.darkAt = d ∧
    (s.withDark d).ctp.sessions = s.ctp.sessions ∧ ∀ a, (s.withDark d).rget a = s.rget a :=
  ⟨⟨rfl, rfl, rfl, rfl, rfl, rfl⟩, rfl, rfl, fun _ => rfl⟩

section

variable (hp : p < 2) (hst : 2 ≤ s.fget PWR_STATUS_STAGE) (hh : s.pwr.held = false) (hd : s.pwr.dark = false)
include hp hst hh hd

theorem execOpticalLinkChange_up (up : Bool) : exec (.opticalLinkChange p up) s = .next
    (let t := s.fset CTP_PORT_STATUS_LINK_UP (b2n up) p
     if t.fget CTP_PORT_STATUS_LINK_UP 0 + t.fget CTP_PORT_STATUS_LINK_UP 1 ≠ 0 then t.withDark none
     else if s.fget CTP_PORT_STATUS_LINK_UP p = 1 then t.withDark (some t.now) else t) :=
  next_congr (if_neg (by simp [hh, hd]; omega))

theorem opticalLink_lit : ∃ s', exec (.opticalLinkChange p true) s = .next s' ∧ s'.fget CTP_PORT_STATUS_LINK_UP p = 1 ∧
    s'.ctp.darkAt = none ∧ s.KeepsWork s' := by
  have hone : (s.fset CTP_PORT_STATUS_LINK_UP (b2n true) p).fget CTP_PORT_STATUS_LINK_UP p = 1 :=
    State.fget_fset_of_lt _ p 0 (by decide) (by decide)
  refine ⟨_, (execOpticalLinkChange_up hp hst hh hd true).trans (next_congr (if_pos ?_)), ?_⟩
  · have hcase : p = 0 ∨ p = 1 := by omega
    rcases hcase with rfl | rfl <;> rw [hone] <;> omega
  · obtain ⟨hwork, hdark, -, hr⟩ := (s.fset CTP_PORT_STATUS_LINK_UP (b2n true) p).withDark_frame none
    exact ⟨(State.fget_of_rget (hr _)).trans hone, hdark, (State.KeepsWork.refl s).fset.trans hwork⟩

theorem opticalLink_dark (hu : s.fget CTP_PORT_STATUS_LINK_UP p = 1) (ho : s.fget CTP_PORT_STATUS_LINK_UP (1 - p) = 0) :
    ∃ s', exec (.opticalLinkChange p false) s = .next s' ∧ s'.fget CTP_PORT_STATUS_LINK_UP p = 0 ∧ s'.ctp.darkAt = some s.now ∧
      s.KeepsWork s' := by
  have hzero : (s.fset CTP_PORT_STATUS_LINK_UP (b2n false) p).fget CTP_PORT_STATUS_LINK_UP p = 0 :=
    State.fget_fset_of_lt _ p 0 (by decide) (by decide)
  have hother : (s.fset CTP_PORT_STATUS_LINK_UP (b2n false) p).fget CTP_PORT_STATUS_LINK_UP (1 - p) = 0 := by
    rw [State.fget_fset_ne, ho]
    simp only [regAddr, CTP_PORT_STATUS_LINK_UP, CTP_PORT_STATUS]
    omega
  refine ⟨(s.fset CTP_PORT_STATUS_LINK_UP (b2n false) p).withDark (some (s.fset CTP_PORT_STATUS_LINK_UP (b2n false) p).now),
    (execOpticalLinkChange_up hp hst hh hd false).trans (next_congr ((if_neg ?_).trans (if_pos hu))), ?_⟩
  · have hcase : p = 0 ∨ p = 1 := by omega
    rcases hcase with rfl | rfl
    · rw [hzero, show (1 : Nat) = 1 - 0 from rfl, hother]; omega
    · rw [hzero, show (0 : Nat) = 1 - 1 from rfl, hother]; omega
  · obtain ⟨hwork, hdark, -, hr⟩ :=
      (s.fset CTP_PORT_STATUS_LINK_UP (b2n false) p).withDark_frame (some (s.fset CTP_PORT_STATUS_LINK_UP (b2n false) p).now)
    have hnow : (s.fset CTP_PORT_STATUS_LINK_UP (b2n false) p).now = s.now := State.fset_now ..
    refine ⟨?_, hdark.trans (congrArg some hnow), ?_⟩
    · exact (State.fget_of_rget (hr _)).trans hzero
    · exact (State.KeepsWork.refl s).fset.trans hwork

end

theorem lossOfLight_resets {t : Nat} (hd : s.ctp.darkAt = some t) (ht : t + 1_000_000_000 ≤ s.now) :
    ∃ s', exec .lossOfLight s = .next s' ∧ s'.ctp.sessions = [] ∧ s'.fget CTP_OWNER_VALID = 0 ∧ s'.fget PWR_BOOT_RESET_KIND = 3 ∧
      s'.ctp.darkAt = none ∧ s.KeepsWork s' := by
  obtain ⟨hsessions, howner, hkind, -, hwork⟩ := s.portReset_spec
  obtain ⟨hwork', hdark, hsess, hr⟩ := s.portReset.withDark_frame none
  refine ⟨s.portReset.withDark none, ?_, hsess.trans hsessions, (State.fget_of_rget (hr _)).trans howner,
    (State.fget_of_rget (hr _)).trans hkind, hdark, hwork.trans hwork'⟩
  show execLossOfLight s = _
  rw [execLossOfLight, hd]
  exact next_congr (if_neg (Nat.not_lt.mpr ht))

theorem lossOfLight_early {t : Nat} (hd : s.ctp.darkAt = some t) (ht : s.now < t + 1_000_000_000) : exec .lossOfLight s = .next s := by
  show execLossOfLight s = _
  rw [execLossOfLight, hd]
  exact next_congr (if_pos ht)

end

/-- Settles O46: each command of the control port is the branch of it that its conditions name. -/
theorem controlSessions : Obligations.ControlSessions := by
  unfold Obligations.ControlSessions
  intro s p w f x
  refine ⟨fun ht hup hi => ⟨hello_wellFormed ht hup hi, hello_malformed ht hup hi⟩,
    fun key e k hp he hkey hseq hiso hfree _ => hello_opens hp he hkey hseq hiso hfree, fun cause => hello_noSlot,
    fun h hl => ⟨proof_matches h hl, proof_observer h hl, proof_fails h hl⟩,
    fun h hpay hb ho hr => ⟨claim_joins h hpay hb ho hr, claim_noCredential h hpay hb ho hr⟩,
    fun h hpay hb ho hr => ⟨claim_opens h hpay hb ho hr, claim_firstRefused h hpay hb ho hr⟩,
    fun h hpay => ⟨claim_barred h hpay, claim_owned h hpay⟩, fun k => electionClose_due, fun _ => electionClose_early,
    fun k y => electionClose_alone, fun k h hpay hk hne ho hc => handover_done h hpay hk hne ho hc,
    fun k h hpay hk hne => ⟨handover_valid h hpay hk hne, handover_invalid h hpay hk⟩,
    fun g key dir hg => g.opened_sealed key dir hg, close_closes, fun k h => ⟨sessionTimeout_silent h, sessionTimeout_heard h⟩,
    heartbeatLoss_silent, heartbeatLoss_heard, unknownType_violates, violWindowEnd_passed,
    fun hp hst hh hd => ⟨opticalLink_lit hp hst hh hd, opticalLink_dark hp hst hh hd⟩,
    fun t hd => ⟨lossOfLight_resets hd, lossOfLight_early hd⟩⟩

end Sys2Proof.Machine
end

section
/-! PROOFS. O47 fails: a firmware commit asked for in a slot that no port has. -/

namespace Sys2Proof.Machine

/-- A session in a slot numbered 240, whose SEQ has run out. -/
def straySession : Session :=
  { port := 0, key := [], entry := none, node := [], dev := [], fromNode := [], toNode := [], utc := 0, utcAt := 0, rx := 2 ^ 48, tx := 0,
    lastAt := 0 }

/-- The commit of a session in slot 240 has passed its check. CTP_SESS_OPEN_LO of a slot 240, were there one, would be
SEC_FW_STATUS. -/
def strayCommit : State :=
  { State.reset with
    ctp := { State.reset.ctp with sessions := [(240, straySession)] }
    sec := { State.reset.sec with fwStaged := [], commit := some { session := 240, seq := some 1, length := 0, checked := true } } }

theorem regAddr_strayOpen : regAddr CTP_SESS_OPEN_LO 240 0 = regAddr SEC_FW_STATUS 0 0 := by decide

/-- What STAGE_STATE reads after a command. -/
def stageStateOf (r : Result) : Nat :=
  match r with
  | .next s => s.fget SEC_FW_STATUS_STAGE_STATE
  | _ => fwIdle

theorem strayCommit_done : stageStateOf (exec .fwCommitDone strayCommit) = fwIdle := by decide +kernel

/-- A frame of no type. -/
def emptyFrame : Frame :=
  { version := 0, type := 0, slot := 0, flags := 0, length := 0, reserved := 0, seq := 0, payload := [], tag := [] }

/-- Refutes O47: FW_COMMIT_DONE marks the image and answers, and the answered session closes where its SEQ has run out (R466). The
statement holds of every state and every commit in it; in one whose session has slot 240, which no device has, closing it sets
CTP_SESS_OPEN of that slot, and with it SEC_FW_STATUS, to 0: STAGE_STATE does not read READY. -/
theorem not_controlAdministration : ¬ Obligations.ControlAdministration := by
  unfold Obligations.ControlAdministration
  intro h
  obtain ⟨-, -, -, -, -, -, -, -, hdone, -⟩ := h strayCommit 0 emptyFrame emptyFrame straySession
  obtain ⟨-, hready, -⟩ := hdone { session := 240, seq := some 1, length := 0, checked := true } rfl
  obtain ⟨s', hs', -, -, hstate, -⟩ := hready rfl rfl
  have hidle := strayCommit_done
  rw [hs'] at hidle
  exact absurd (hidle.symm.trans hstate) (by decide)

end Sys2Proof.Machine
end

section
/-! PROOFS. O48: queue commands, doorbells and acknowledgements (R499 to R505, R521, R524, R534, R538, R539). -/

namespace Sys2Proof.Machine

section

variable {s t : State} {r : Requester} {n q op a : Nat}

/-! ### The registers of a chamber's queue commands (R503) -/

theorem regAddr_qcmd (n : Nat) : regAddr GFE_QCMD n 0 = 0x80108 + 0x40 * n := by simp [regAddr, GFE_QCMD]

theorem regAddr_qcmdStatus (n : Nat) : regAddr GFE_QCMD_STATUS n 0 = 0x8010c + 0x40 * n := by simp [regAddr, GFE_QCMD_STATUS]

theorem regAddr_qState (q : Nat) : regAddr GFE_Q_STATE q 0 = 0x90004 + 0x20 * q := by simp [regAddr, GFE_Q_STATE]

/-- OP and QUEUE as a GO write gives them. -/
def State.qcmdGiven (s : State) (n op q : Nat) : State := (s.fset GFE_QCMD_OP op n).fset GFE_QCMD_QUEUE q n

theorem State.onlyRegs_qcmdGiven (s : State) (n op q : Nat) : s.OnlyRegs (s.qcmdGiven n op q) := (State.OnlyRegs.refl s).fset.fset

theorem State.rget_qcmdGiven (s : State) (n op q : Nat) (h : regAddr GFE_QCMD n 0 ≠ a) : (s.qcmdGiven n op q).rget a = s.rget a :=
  (State.rget_fset_ne _ GFE_QCMD_QUEUE _ n 0 _ h).trans (State.rget_fset_ne _ GFE_QCMD_OP _ n 0 _ h)

/-- A command's status as it ends. -/
def State.qcmdStatus (s : State) (n state result q : Nat) : State :=
  ((s.fset GFE_QCMD_STATUS_STATE state n).fset GFE_QCMD_STATUS_RESULT result n).fset GFE_QCMD_STATUS_QUEUE q n

theorem State.qcmdRefuse_def (s : State) (n result q : Nat) : s.qcmdRefuse n result q = s.qcmdStatus n 3 result q := rfl

theorem State.qcmdDone_def (s : State) (n q : Nat) : s.qcmdDone n q = s.qcmdStatus n 2 0 q := rfl

theorem State.onlyRegs_qcmdStatus (s : State) (n state result q : Nat) : s.OnlyRegs (s.qcmdStatus n state result q) :=
  (State.OnlyRegs.refl s).fset.fset.fset

theorem State.rget_qcmdStatus (s : State) (n state result q : Nat) (h : regAddr GFE_QCMD_STATUS n 0 ≠ a) :
    (s.qcmdStatus n state result q).rget a = s.rget a :=
  (State.rget_fset_ne _ GFE_QCMD_STATUS_QUEUE _ n 0 _ h).trans ((State.rget_fset_ne _ GFE_QCMD_STATUS_RESULT _ n 0 _ h).trans
    (State.rget_fset_ne _ GFE_QCMD_STATUS_STATE _ n 0 _ h))

theorem State.fget_qcmdStatus (s : State) (n : Nat) {state result q : Nat} (hs : state < 16) (hr : result < 256) (hq : q < 4096) :
    (s.qcmdStatus n state result q).fget GFE_QCMD_STATUS_STATE n = state ∧
    (s.qcmdStatus n state result q).fget GFE_QCMD_STATUS_RESULT n = result ∧
    (s.qcmdStatus n state result q).fget GFE_QCMD_STATUS_QUEUE n = q := by
  unfold State.qcmdStatus
  refine ⟨?_, ?_, State.fget_fset_of_lt _ n 0 (by decide) hq⟩
  · rw [State.fget_fset_other _ _ _ _ _ _ _ _ (by decide) (by decide) (by decide),
      State.fget_fset_other _ _ _ _ _ _ _ _ (by decide) (by decide) (by decide)]
    exact State.fget_fset_of_lt _ n 0 (by decide) hs
  · rw [State.fget_fset_other _ _ _ _ _ _ _ _ (by decide) (by decide) (by decide)]
    exact State.fget_fset_of_lt _ n 0 (by decide) hr

/-- A queue's registers lie apart from a chamber's commands. -/
theorem qState_ne_qcmd (n q : Nat) : regAddr GFE_QCMD n 0 ≠ regAddr GFE_Q_STATE q 0 ∧
    regAddr GFE_QCMD_STATUS n 0 ≠ regAddr GFE_Q_STATE q 0 := by
  rw [regAddr_qcmd, regAddr_qcmdStatus, regAddr_qState]
  omega

theorem State.queueState_congr (h : t.rget (regAddr GFE_Q_STATE q 0) = s.rget (regAddr GFE_Q_STATE q 0)) :
    t.queueState q = s.queueState q := State.fget_of_rget h

theorem State.queueChamber_congr (h : t.rget (regAddr GFE_Q_STATE q 0) = s.rget (regAddr GFE_Q_STATE q 0)) :
    t.queueChamber q = s.queueChamber q := State.fget_of_rget h

theorem State.chLive_congr (h : t.rget (regAddr CHB_STATE n 0) = s.rget (regAddr CHB_STATE n 0)) : t.chLive n = s.chLive n := by
  have hf : t.fget CHB_STATE_STATE n = s.fget CHB_STATE_STATE n := State.fget_of_rget h
  rw [State.chLive, State.chLive, hf]

theorem State.chLive_qcmdGiven (s : State) (m op q : Nat) : (s.qcmdGiven m op q).chLive n = s.chLive n :=
  State.chLive_congr (s.rget_qcmdGiven m op q (by rw [regAddr_qcmd]; simp [regAddr, CHB_STATE]; omega))

/-! ### GO of a queue command (R502, R503, R534) -/

theorem State.qcmd_busy (hb : s.fget GFE_QCMD_STATUS_STATE n = 1) (op q : Nat) :
    s.qcmd n op q = s.fset GFE_QCMD_STATUS_REFUSED_BUSY 1 n := if_pos (by rw [hb]; decide)

/-- What a GO does while no command runs. -/
theorem State.qcmd_idle (hb : s.fget GFE_QCMD_STATUS_STATE n ≠ 1) (hop : op ≠ 0) : s.qcmd n op q =
    let t := s.qcmdGiven n op q
    if !t.chLive n then t.qcmdRefuse n 0x03 q
    else if op == 1 then (t.fset GFE_QCMD_STATUS_STATE 1 n).beginCmd (2 * n) ⟨1, q, t.qcmdAddr n⟩
    else if t.queueChamber q != n || t.queueState q != (if op == 2 then qActive else qTeardownDone) then t.qcmdRefuse n 0x04 q
    else if op == 2 then (t.teardown q).qcmdDone n q
    else ((t.fset GFE_Q_STATE_STATE qFree q).setQueue q Queue.none).qcmdDone n q := by
  unfold State.qcmd
  refine (if_neg (by simpa using hb)).trans ?_
  exact if_neg (by simpa using hop)

section

variable (hb : s.fget GFE_QCMD_STATUS_STATE n ≠ 1)
include hb

theorem State.qcmd_notLive (hop : op ≠ 0) (hl : s.chLive n = false) :
    s.qcmd n op q = (s.qcmdGiven n op q).qcmdStatus n 3 3 q :=
  (State.qcmd_idle hb hop).trans (if_pos (by rw [State.chLive_qcmdGiven, hl]; rfl))

variable (hl : s.chLive n = true)
include hl

theorem State.qcmd_create : s.qcmd n 1 q =
    ((s.qcmdGiven n 1 q).fset GFE_QCMD_STATUS_STATE 1 n).beginCmd (2 * n) ⟨1, q, (s.qcmdGiven n 1 q).qcmdAddr n⟩ :=
  (State.qcmd_idle hb (by decide)).trans ((if_neg (by rw [State.chLive_qcmdGiven, hl]; decide)).trans (if_pos rfl))

theorem State.qcmd_judged (hop : op = 2 ∨ op = 3) : s.qcmd n op q =
    if s.queueChamber q ≠ n ∨ s.queueState q ≠ (if op = 2 then qActive else qTeardownDone) then
      (s.qcmdGiven n op q).qcmdStatus n 3 4 q
    else if op = 2 then ((s.qcmdGiven n op q).teardown q).qcmdStatus n 2 0 q
    else (((s.qcmdGiven n op q).fset GFE_Q_STATE_STATE qFree q).setQueue q Queue.none).qcmdStatus n 2 0 q := by
  have hrget := s.rget_qcmdGiven n op q (a := regAddr GFE_Q_STATE q 0) (qState_ne_qcmd n q).1
  have hlive := State.chLive_qcmdGiven (n := n) s n op q
  rw [State.qcmd_idle hb (by omega)]
  dsimp only
  rw [hlive, hl, State.queueChamber_congr hrget, State.queueState_congr hrget]
  obtain rfl | rfl := hop <;> simp [State.qcmdRefuse_def, State.qcmdDone_def]

end

/-! ### CREATE, DESTROY and RECLAIM by who may write the set (R500, R502, R534, R539) -/

theorem execCreate_may (hm : s.mayWriteSet r n = true) : exec (.create r n) s = .next (s.qcmd n 1 (s.fget GFE_QCMD_QUEUE n)) :=
  next_congr (if_pos hm)

theorem execDestroy_may (hm : s.mayWriteSet r n = true) : exec (.destroy r n q) s = .next (s.qcmd n 2 q) := next_congr (if_pos hm)

theorem execReclaim_may (hm : s.mayWriteSet r n = true) : exec (.reclaim r n q) s = .next (s.qcmd n 3 q) := next_congr (if_pos hm)

theorem queueCommands_denied (hm : s.mayWriteSet r n = false) :
    exec (.create r n) s = .next s ∧ exec (.destroy r n q) s = .next s ∧ exec (.reclaim r n q) s = .next s :=
  ⟨next_congr (if_neg (by simp [hm])), next_congr (if_neg (by simp [hm])), next_congr (if_neg (by simp [hm]))⟩

theorem queueCommands_busy (hm : s.mayWriteSet r n = true) (hb : s.fget GFE_QCMD_STATUS_STATE n = 1) :
    exec (.create r n) s = .next (s.fset GFE_QCMD_STATUS_REFUSED_BUSY 1 n) ∧
    exec (.destroy r n q) s = .next (s.fset GFE_QCMD_STATUS_REFUSED_BUSY 1 n) ∧
    exec (.reclaim r n q) s = .next (s.fset GFE_QCMD_STATUS_REFUSED_BUSY 1 n) :=
  ⟨(execCreate_may hm).trans (next_congr (State.qcmd_busy hb _ _)), (execDestroy_may hm).trans (next_congr (State.qcmd_busy hb _ _)),
    (execReclaim_may hm).trans (next_congr (State.qcmd_busy hb _ _))⟩

/-- A refusal of a command leaves the work. -/
theorem State.qcmdRefused_spec (s : State) (n op : Nat) {q result : Nat} (hr : result < 256) (hq : q < 4096) :
    ((s.qcmdGiven n op q).qcmdStatus n 3 result q).fget GFE_QCMD_STATUS_STATE n = 3 ∧
    ((s.qcmdGiven n op q).qcmdStatus n 3 result q).fget GFE_QCMD_STATUS_RESULT n = result ∧
    s.KeepsWork ((s.qcmdGiven n op q).qcmdStatus n 3 result q) := by
  obtain ⟨hstate, hresult, -⟩ := (s.qcmdGiven n op q).fget_qcmdStatus n (state := 3) (by omega) hr hq
  exact ⟨hstate, hresult, ((s.onlyRegs_qcmdGiven n op q).trans (State.onlyRegs_qcmdStatus _ _ _ _ _)).keepsWork⟩

theorem queueCommands_notLive (hq : q < 4096) (hm : s.mayWriteSet r n = true) (hb : s.fget GFE_QCMD_STATUS_STATE n ≠ 1)
    (hl : s.chLive n = false) :
    let refused : State → Prop := fun s' =>
      s'.fget GFE_QCMD_STATUS_STATE n = 3 ∧ s'.fget GFE_QCMD_STATUS_RESULT n = 3 ∧ s.KeepsWork s'
    (∃ s', exec (.create r n) s = .next s' ∧ refused s') ∧ (∃ s', exec (.destroy r n q) s = .next s' ∧ refused s') ∧
      (∃ s', exec (.reclaim r n q) s = .next s' ∧ refused s') :=
  ⟨⟨_, (execCreate_may hm).trans (next_congr (State.qcmd_notLive hb (by decide) hl)),
      s.qcmdRefused_spec n 1 (by omega) (s.fget_lt GFE_QCMD_QUEUE n 0)⟩,
    ⟨_, (execDestroy_may hm).trans (next_congr (State.qcmd_notLive hb (by decide) hl)), s.qcmdRefused_spec n 2 (by omega) hq⟩,
    ⟨_, (execReclaim_may hm).trans (next_congr (State.qcmd_notLive hb (by decide) hl)), s.qcmdRefused_spec n 3 (by omega) hq⟩⟩

theorem State.itemsOf_congr (hi : t.items = s.items) (q : Nat) : t.itemsOf q = s.itemsOf q := by
  rw [State.itemsOf, State.itemsOf, hi]

theorem State.item_congr (hi : t.items = s.items) (k : ItemKey) : t.item k = s.item k := by
  rw [State.item, State.item, hi]

theorem State.servers_congr (hs : t.strands = s.strands) (hi : t.items = s.items) (q : Nat) : t.servers q = s.servers q := by
  simp only [State.servers, hs, State.item_congr hi]

theorem State.qcmdAddr_qcmdGiven (s : State) (n op q : Nat) : (s.qcmdGiven n op q).qcmdAddr n = s.qcmdAddr n := by
  have h1 : regAddr GFE_QCMD n 0 ≠ regAddr GFE_QCMD_ADDR_LO_ADDR.reg n 0 := by
    simp [regAddr, GFE_QCMD, GFE_QCMD_ADDR_LO_ADDR, GFE_QCMD_ADDR_LO]
  have h2 : regAddr GFE_QCMD n 0 ≠ regAddr GFE_QCMD_ADDR_HI_ADDR.reg n 0 := by
    simp [regAddr, GFE_QCMD, GFE_QCMD_ADDR_HI_ADDR, GFE_QCMD_ADDR_HI]
  unfold State.qcmdAddr
  rw [State.fget_of_rget (s.rget_qcmdGiven n op q h1), State.fget_of_rget (s.rget_qcmdGiven n op q h2)]

theorem State.beginCmd_spec (s : State) (k : Nat) (c : GfeCmd) : (s.beginCmd k c).gfeCmd k = c ∧ s.KeepsWork (s.beginCmd k c) ∧
    ∀ a, (s.beginCmd k c).rget a = s.rget a :=
  ⟨smGet_smPut_self _ _ _ _, ⟨rfl, rfl, rfl, rfl, rfl, rfl⟩, fun _ => rfl⟩

section

variable (hm : s.mayWriteSet r n = true) (hb : s.fget GFE_QCMD_STATUS_STATE n ≠ 1) (hl : s.chLive n = true)
include hm hb hl

theorem create_begins : ∃ s', exec (.create r n) s = .next s' ∧ s'.fget GFE_QCMD_STATUS_STATE n = 1 ∧
    s'.gfeCmd (2 * n) = ⟨1, s.fget GFE_QCMD_QUEUE n, s.qcmdAddr n⟩ ∧ s.KeepsWork s' ∧
    s.KeepsRegsBut s' [regAddr GFE_QCMD n 0, regAddr GFE_QCMD_STATUS n 0] := by
  have hregs : s.OnlyRegs ((s.qcmdGiven n 1 (s.fget GFE_QCMD_QUEUE n)).fset GFE_QCMD_STATUS_STATE 1 n) :=
    (s.onlyRegs_qcmdGiven n 1 _).fset
  have hone : ((s.qcmdGiven n 1 (s.fget GFE_QCMD_QUEUE n)).fset GFE_QCMD_STATUS_STATE 1 n).fget GFE_QCMD_STATUS_STATE n = 1 :=
    State.fget_fset_of_lt _ n 0 (by decide) (by decide)
  have hkept : s.KeepsRegsBut ((s.qcmdGiven n 1 (s.fget GFE_QCMD_QUEUE n)).fset GFE_QCMD_STATUS_STATE 1 n)
      [regAddr GFE_QCMD n 0, regAddr GFE_QCMD_STATUS n 0] := by
    intro a ha
    obtain ⟨h1, h2⟩ : a ≠ regAddr GFE_QCMD n 0 ∧ a ≠ regAddr GFE_QCMD_STATUS n 0 := by simpa using ha
    rw [State.rget_fset_ne _ GFE_QCMD_STATUS_STATE _ n 0 _ h2.symm, s.rget_qcmdGiven n 1 _ h1.symm]
  refine ⟨_, (execCreate_may hm).trans (next_congr (State.qcmd_create hb hl)), ?_⟩
  rw [State.qcmdAddr_qcmdGiven]
  generalize (s.qcmdGiven n 1 (s.fget GFE_QCMD_QUEUE n)).fset GFE_QCMD_STATUS_STATE 1 n = t at hregs hone hkept ⊢
  obtain ⟨hcmd, hwork, hr⟩ := t.beginCmd_spec (2 * n) ⟨1, s.fget GFE_QCMD_QUEUE n, s.qcmdAddr n⟩
  exact ⟨(State.fget_of_rget (hr _)).trans hone, hcmd, hregs.keepsWork.trans hwork, fun a ha => (hr a).trans (hkept a ha)⟩

theorem destroy_active (hc : s.queueChamber q = n) (hs : s.queueState q = qActive) : exec (.destroy r n q) s =
    .next (((s.qcmdGiven n 2 q).teardown q).qcmdStatus n 2 0 q) :=
  (execDestroy_may hm).trans (next_congr ((State.qcmd_judged hb hl (.inl rfl)).trans
    ((if_neg (by simp [hc, hs])).trans (if_pos rfl))))

theorem destroy_bad (hq : q < 4096) (h : s.queueChamber q ≠ n ∨ s.queueState q ≠ qActive) : ∃ s', exec (.destroy r n q) s = .next s' ∧
    s'.fget GFE_QCMD_STATUS_STATE n = 3 ∧ s'.fget GFE_QCMD_STATUS_RESULT n = 4 ∧ s.KeepsWork s' :=
  ⟨_, (execDestroy_may hm).trans (next_congr ((State.qcmd_judged hb hl (.inl rfl)).trans (if_pos h))),
    s.qcmdRefused_spec n 2 (by omega) hq⟩

theorem reclaim_bad (hq : q < 4096) (h : s.queueChamber q ≠ n ∨ s.queueState q ≠ qTeardownDone) :
    ∃ s', exec (.reclaim r n q) s = .next s' ∧ s'.fget GFE_QCMD_STATUS_STATE n = 3 ∧ s'.fget GFE_QCMD_STATUS_RESULT n = 4 ∧
      s.KeepsWork s' :=
  ⟨_, (execReclaim_may hm).trans (next_congr ((State.qcmd_judged hb hl (.inr rfl)).trans (if_pos h))),
    s.qcmdRefused_spec n 3 (by omega) hq⟩

theorem destroy_idle (hq : q < 4096) (hc : s.queueChamber q = n) (hs : s.queueState q = qActive) (hservers : s.servers q = [])
    (hitems : s.itemsOf q = []) : ∃ s', exec (.destroy r n q) s = .next s' ∧ s'.queueState q = qDraining ∧
      s'.fget GFE_QCMD_STATUS_STATE n = 2 ∧ s'.fget GFE_QCMD_STATUS_QUEUE n = q ∧ s.KeepsWork s' := by
  have hregs : s.OnlyRegs ((s.qcmdGiven n 2 q).fset GFE_Q_STATE_STATE qDraining q) := (s.onlyRegs_qcmdGiven n 2 q).fset
  have hteardown : (s.qcmdGiven n 2 q).teardown q = (s.qcmdGiven n 2 q).fset GFE_Q_STATE_STATE qDraining q := by
    obtain ⟨-, hstrands, hitemsKept, -⟩ := hregs.keepsWork
    have hs' := (State.servers_congr hstrands hitemsKept q).trans hservers
    have hi' := (State.itemsOf_congr hitemsKept q).trans hitems
    unfold State.teardown
    generalize (s.qcmdGiven n 2 q).fset GFE_Q_STATE_STATE qDraining q = u at hs' hi'
    dsimp only
    rw [hs', List.foldl_nil, hi', List.foldl_nil]
  refine ⟨_, destroy_active hm hb hl hc hs, ?_⟩
  rw [hteardown]
  obtain ⟨hstate, -, hqueue⟩ := ((s.qcmdGiven n 2 q).fset GFE_Q_STATE_STATE qDraining q).fget_qcmdStatus n (state := 2) (result := 0)
    (by omega) (by omega) hq
  refine ⟨(State.queueState_congr (State.rget_qcmdStatus _ _ _ _ _ (qState_ne_qcmd n q).2)).trans ?_, hstate, hqueue,
    (hregs.trans (State.onlyRegs_qcmdStatus _ _ _ _ _)).keepsWork⟩
  exact State.fget_fset_of_lt _ q 0 (by decide) (by decide)

theorem reclaim_frees (hq : q < 4096) (hc : s.queueChamber q = n) (hs : s.queueState q = qTeardownDone) :
    ∃ s', exec (.reclaim r n q) s = .next s' ∧ s'.queueState q = qFree ∧ s'.fget GFE_QCMD_STATUS_STATE n = 2 ∧ s.KeepsMemory s' ∧
      s'.strands = s.strands ∧ s'.items = s.items ∧ s'.queue q = Queue.none ∧ ∀ k, k ≠ q → s'.queue k = s.queue k := by
  refine ⟨_, (execReclaim_may hm).trans (next_congr ((State.qcmd_judged hb hl (.inr rfl)).trans
    ((if_neg (by simp [hc, hs])).trans (if_neg (by decide))))), ?_⟩
  have hregs : s.OnlyRegs ((s.qcmdGiven n 3 q).fset GFE_Q_STATE_STATE qFree q) := (s.onlyRegs_qcmdGiven n 3 q).fset
  have hfree : ((s.qcmdGiven n 3 q).fset GFE_Q_STATE_STATE qFree q).queueState q = qFree :=
    State.fget_fset_of_lt _ q 0 (by decide) (by decide)
  have hwork := hregs.keepsWork
  generalize (s.qcmdGiven n 3 q).fset GFE_Q_STATE_STATE qFree q = t at hfree hwork ⊢
  obtain ⟨hmem, hstrands, hitems, hqueues, -, -⟩ := hwork
  obtain ⟨hmem', hstrands', hitems', hqueues', -, -⟩ := ((t.setQueue q Queue.none).onlyRegs_qcmdStatus n 2 0 q).keepsWork
  rw [State.setQueue_mem] at hmem'
  rw [State.setQueue_strands] at hstrands'
  rw [State.setQueue_items] at hitems'
  obtain ⟨hstate, -, -⟩ := (t.setQueue q Queue.none).fget_qcmdStatus n (state := 2) (result := 0) (by omega) (by omega) hq
  refine ⟨?_, hstate, State.keepsMemory_of_mem (hmem'.trans hmem), hstrands'.trans hstrands, hitems'.trans hitems, ?_, fun k hk => ?_⟩
  · exact (State.queueState_congr ((State.rget_qcmdStatus _ _ _ _ _ (qState_ne_qcmd n q).2).trans (State.rget_setQueue _ _ _ _))).trans hfree
  · rw [State.queue_congr hqueues', State.queue_setQueue_self]
  · rw [State.queue_congr hqueues', State.queue_setQueue_ne _ _ hk.symm, State.queue_congr hqueues]

end

/-! ### QCB_READ (R502, R503) -/

theorem qcbRead_idle (h : s.fget GFE_QCMD_STATUS_STATE n ≠ 1) : exec (.qcbRead n) s = .next s :=
  next_congr (if_pos (by simpa using h))

theorem qcbRead_notLive (h : s.fget GFE_QCMD_STATUS_STATE n = 1) (hl : s.chLive n = false) :
    exec (.qcbRead n) s = .next (s.qcmdRefuse n 3 0) :=
  next_congr ((if_neg (by simp [h])).trans (if_pos (by simp [hl])))

theorem qcbRead_local (h : s.fget GFE_QCMD_STATUS_STATE n = 1) (hl : s.chLive n = true) (ha : s.awaitsNoRead (.command (2 * n)))
    (hw : ((s.asksAs (.command (2 * n))).qcbRead n).ms.wanted = []) :
    exec (.qcbRead n) s = .next (((s.asksAs (.command (2 * n))).qcbRead n).readAll (.command (2 * n))).deliver :=
  next_congr ((if_neg (by simp [h])).trans ((if_neg (by simp [hl])).trans (congrArg State.deliver (State.remotely_local ha hw))))

section

variable {b : List Byte} {s1 : State}

theorem State.qcbRead_fault {f : MFault} (h : s.readVa (s.reqGfe n) n (s.gfeCmd (2 * n)).addr 64 = (.error f, s1)) :
    s.qcbRead n = s1.qcmdRefuse n 6 0 := by
  rw [State.qcbRead, h]

/-- A QCB that keeps its rules, and the queue found for it. -/
def State.qcbPlaced (s : State) (n : Nat) (b : List Byte) (found : Option Nat) : State :=
  match found with
  | none => s.qcmdRefuse n 0x01 0
  | some q => (s.openQueue n q b).qcmdDone n q

/-- The lowest FREE queue. -/
def State.freeQueue (s : State) : Option Nat := (List.range 4096).find? (fun q => s.queueState q == qFree)

theorem State.freeQueue_none (h : ∀ k < 4096, s.queueState k ≠ qFree) : s.freeQueue = none := by
  rw [State.freeQueue, List.find?_eq_none]
  intro k hk hf
  exact h k (List.mem_range.mp hk) (eq_of_beq hf)

variable (h : s.readVa (s.reqGfe n) n (s.gfeCmd (2 * n)).addr 64 = (.ok b, s1))
include h

theorem State.qcbRead_read : s.qcbRead n = if !qcbOk (s1.chamber n).galleries b then s1.qcmdRefuse n 0x02 0
    else if (s1.chamber n).queues ≤ (s1.heldQueues n).length then s1.qcmdRefuse n 0x01 0 else s1.qcbPlaced n b s1.freeQueue := by
  rw [State.qcbRead, h, State.freeQueue]
  dsimp only
  generalize (List.range 4096).find? (fun q => s1.queueState q == qFree) = found
  cases found <;> rfl

theorem State.qcbRead_bad (hok : qcbOk (s1.chamber n).galleries b = false) : s.qcbRead n = s1.qcmdRefuse n 2 0 := by
  rw [State.qcbRead_read h, hok]
  rfl

variable (hok : qcbOk (s1.chamber n).galleries b = true)
include hok

theorem State.qcbRead_full (hf : (s1.chamber n).queues ≤ (s1.heldQueues n).length ∨ ∀ k < 4096, s1.queueState k ≠ qFree) :
    s.qcbRead n = s1.qcmdRefuse n 1 0 := by
  rw [State.qcbRead_read h, if_neg (by simp [hok])]
  by_cases hheld : (s1.chamber n).queues ≤ (s1.heldQueues n).length
  · exact if_pos hheld
  · rw [if_neg hheld, State.freeQueue_none (hf.resolve_left hheld)]
    rfl

theorem State.qcbRead_opens (hheld : (s1.heldQueues n).length < (s1.chamber n).queues) (hfree : s1.freeQueue = some q) :
    s.qcbRead n = (s1.openQueue n q b).qcmdStatus n 2 0 q := by
  rw [State.qcbRead_read h, if_neg (by simp [hok]), if_neg (Nat.not_le.mpr hheld), hfree]
  rfl

end

/-- A queue's registers as at reset, before its QCB is taken. -/
def State.queueReset (s : State) (q : Nat) : State :=
  ((s.forget (.fetch q)).resetRange (regAddr GFE_Q_DB q 0) (regAddr GFE_Q_DB q 0 + 0x20)).resetRange (regAddr GFE_QA_WAIT_LO q 0)
    (regAddr GFE_QA_WAIT_LO q 0 + 0x40)

/-- What GFE_Q_STATE shows of a queue made ACTIVE. -/
def State.queueShown (s : State) (n q epoch : Nat) (b : List Byte) : State :=
  ((((s.fset GFE_Q_STATE_STATE qActive q).fset GFE_Q_STATE_CLASS (fieldAt b 0x11 1) q).fset GFE_Q_STATE_SERVED (fieldAt b 0x1A 2) q).fset
    GFE_Q_STATE_CHAMBER n q).fset GFE_Q_STATE_EPOCH epoch q

/-- A queue as its QCB describes it. -/
def qcbQueue (b : List Byte) : Queue := { Queue.none with
  ring := fieldAt b 0 8, cring := fieldAt b 8 8, logSize := fieldAt b 0x10 1, galleries := fieldAt b 0x12 2,
  timeoutUs := fieldAt b 0x14 4, weight := fieldAt b 0x18 2, inOrder := bitOf (fieldAt b 0x1A 2) 1 }

theorem State.openQueue_def (s : State) (n q : Nat) (b : List Byte) : s.openQueue n q b =
    ((s.queueReset q).queueShown n q (nextEpoch ((s.forget (.fetch q)).fget GFE_Q_STATE_EPOCH q)) b).setQueue q (qcbQueue b) := rfl

theorem State.fget_queueShown (s : State) (hn : n < 16) (q : Nat) {epoch : Nat} {b : List Byte} (he : epoch < 2 ^ 16)
    (hc : fieldAt b 0x11 1 ≤ 1) : (s.queueShown n q epoch b).fget GFE_Q_STATE_STATE q = qActive ∧
      (s.queueShown n q epoch b).fget GFE_Q_STATE_CHAMBER q = n ∧ (s.queueShown n q epoch b).fget GFE_Q_STATE_CLASS q = fieldAt b 0x11 1 ∧
      (s.queueShown n q epoch b).fget GFE_Q_STATE_EPOCH q = epoch := by
  unfold State.queueShown
  have hother : ∀ (u : State) (f g : Fld) (v : Nat), f.lo ≤ f.hi ∧ f.hi < 32 → g.lo ≤ g.hi → f.hi < g.lo ∨ g.hi < f.lo →
      (u.fset f v q).fget g q = u.fget g q := fun u f g v hf hg hd => u.fget_fset_other f g v q 0 q 0 hf hg hd
  refine ⟨?_, ?_, ?_, State.fget_fset_of_lt _ q 0 (by decide) he⟩
  · rw [hother _ _ _ _ (by decide) (by decide) (by decide), hother _ _ _ _ (by decide) (by decide) (by decide),
      hother _ _ _ _ (by decide) (by decide) (by decide), hother _ _ _ _ (by decide) (by decide) (by decide)]
    exact State.fget_fset_of_lt _ q 0 (by decide) (by decide)
  · rw [hother _ _ _ _ (by decide) (by decide) (by decide)]
    exact State.fget_fset_of_lt _ q 0 (by decide) (by simpa [GFE_Q_STATE_CHAMBER] using hn)
  · rw [hother _ _ _ _ (by decide) (by decide) (by decide), hother _ _ _ _ (by decide) (by decide) (by decide),
      hother _ _ _ _ (by decide) (by decide) (by decide)]
    exact State.fget_fset_of_lt _ q 0 (by decide) (by simp only [GFE_Q_STATE_CLASS]; omega)

theorem State.onlyRegs_queueShown (s : State) (n q epoch : Nat) (b : List Byte) : s.OnlyRegs (s.queueShown n q epoch b) :=
  (State.OnlyRegs.refl s).fset.fset.fset.fset.fset

theorem State.rget_queueShown (s : State) (n q epoch : Nat) (b : List Byte) (h : regAddr GFE_Q_STATE q 0 ≠ a) :
    (s.queueShown n q epoch b).rget a = s.rget a := by
  rw [State.queueShown, State.rget_fset_ne _ GFE_Q_STATE_EPOCH _ q 0 _ h, State.rget_fset_ne _ GFE_Q_STATE_CHAMBER _ q 0 _ h,
    State.rget_fset_ne _ GFE_Q_STATE_SERVED _ q 0 _ h, State.rget_fset_ne _ GFE_Q_STATE_CLASS _ q 0 _ h,
    State.rget_fset_ne _ GFE_Q_STATE_STATE _ q 0 _ h]

/-- GFE_Q_FETCHED is 0 at reset. -/
theorem resetAt_q_fetched (h : q < 4096) : resetAt (regAddr GFE_Q_FETCHED q 0) = 0#32 := by
  have e : regAddr GFE_Q_FETCHED q 0 = 0x90010 + 0x20 * q := by simp [regAddr, GFE_Q_FETCHED]
  have hb : blockRegs (0x90010 + 0x20 * q) = some regsGFEQ := by
    unfold blockRegs
    repeat' first | rw [if_neg (by omega)] | rw [if_pos (by omega)]
  have hnone : ∀ d : Reg, d.base < 0x90010 ∧ d.n1 = 4096 ∧ d.s1 = 0x20 ∧ d.n2 = 1 ∧ d.s2 = 0 ∧ 0x90000 ≤ d.base →
      regInst d (0x90010 + 0x20 * q) = none := by
    intro d ⟨h1, h2, h3, h4, h5, h6⟩
    simp [regInst, h2, h3, h4, h5]
    omega
  have hsome : (regInst GFE_Q_FETCHED (0x90010 + 0x20 * q)).isSome = true := by
    simp [regInst, GFE_Q_FETCHED]; omega
  rw [e]
  unfold resetAt regDescAt
  rw [hb]
  simp only [regsGFEQ, List.find?, hnone GFE_Q_DB (by decide), hnone GFE_Q_STATE (by decide), hnone GFE_Q_DONE_LO (by decide),
    hnone GFE_Q_DONE_HI (by decide), hsome, Option.isSome_none]
  decide

theorem State.queueReset_spec (s : State) (hq : q < 4096) : (s.queueReset q).mem = s.mem ∧
    (s.queueReset q).fget GFE_Q_FETCHED_COUNT q = 0 := by
  refine ⟨rfl, ?_⟩
  have haddr : regAddr GFE_Q_FETCHED q 0 = 0x90010 + 0x20 * q := by simp [regAddr, GFE_Q_FETCHED]
  have hdb : regAddr GFE_Q_DB q 0 = 0x90000 + 0x20 * q := by simp [regAddr, GFE_Q_DB]
  have hwait : regAddr GFE_QA_WAIT_LO q 0 = 0xc0000 + 0x40 * q := by simp [regAddr, GFE_QA_WAIT_LO]
  have hr : (s.queueReset q).rget (regAddr GFE_Q_FETCHED q 0) = 0#32 := by
    rw [State.queueReset, State.rget_resetRange, if_neg (by omega), State.rget_resetRange, if_pos (by omega), resetAt_q_fetched hq]
  rw [State.fget, show regAddr GFE_Q_FETCHED_COUNT.reg q 0 = regAddr GFE_Q_FETCHED q 0 from rfl, hr]
  decide

theorem nextEpoch_lt (e : Nat) : nextEpoch e < 2 ^ 16 := by
  unfold nextEpoch
  split <;> omega

theorem State.rget_forgotten (s : State) (o : Owner) (a : Nat) : (s.forget o).rget a = s.rget a := rfl

/-- A queue's registers as its QCB is taken. -/
def State.queueMade (s : State) (n q : Nat) (b : List Byte) : State :=
  (s.queueReset q).queueShown n q (nextEpoch (s.fget GFE_Q_STATE_EPOCH q)) b

theorem State.openQueue_made (s : State) (n q : Nat) (b : List Byte) :
    s.openQueue n q b = (s.queueMade n q b).setQueue q (qcbQueue b) := by
  rw [State.openQueue_def, State.fget_of_rget (s.rget_forgotten (.fetch q) _)]
  rfl

theorem State.queueMade_shown (s : State) (hn : n < 16) (q : Nat) {b : List Byte} (hc : fieldAt b 0x11 1 ≤ 1) :
    (s.queueMade n q b).fget GFE_Q_STATE_STATE q = qActive ∧ (s.queueMade n q b).fget GFE_Q_STATE_CHAMBER q = n ∧
    (s.queueMade n q b).fget GFE_Q_STATE_CLASS q = fieldAt b 0x11 1 ∧
    (s.queueMade n q b).fget GFE_Q_STATE_EPOCH q = nextEpoch (s.fget GFE_Q_STATE_EPOCH q) :=
  (s.queueReset q).fget_queueShown hn q (nextEpoch_lt _) hc

theorem State.queueMade_kept (s : State) (n : Nat) (hq : q < 4096) (b : List Byte) :
    (s.queueMade n q b).fget GFE_Q_FETCHED_COUNT q = 0 ∧ (s.queueMade n q b).mem = s.mem := by
  obtain ⟨hmem, hfetched⟩ := s.queueReset_spec hq
  obtain ⟨hshown, -⟩ := ((s.queueReset q).onlyRegs_queueShown n q (nextEpoch (s.fget GFE_Q_STATE_EPOCH q)) b).keepsWork
  have hne : regAddr GFE_Q_STATE q 0 ≠ regAddr GFE_Q_FETCHED_COUNT.reg q 0 := by
    simp [regAddr, GFE_Q_STATE, GFE_Q_FETCHED_COUNT, GFE_Q_FETCHED]
  exact ⟨(State.fget_of_rget (State.rget_queueShown _ _ _ _ _ hne)).trans hfetched, hshown.trans hmem⟩

theorem State.openQueue_spec (s : State) (hn : n < 16) (hq : q < 4096) {b : List Byte} (hc : fieldAt b 0x11 1 ≤ 1) :
    (s.openQueue n q b).queueState q = qActive ∧ (s.openQueue n q b).queueChamber q = n ∧
    (s.openQueue n q b).queueClass q = fieldAt b 0x11 1 ∧
    (s.openQueue n q b).fget GFE_Q_STATE_EPOCH q = nextEpoch (s.fget GFE_Q_STATE_EPOCH q) ∧
    (s.openQueue n q b).queue q = qcbQueue b ∧ (s.openQueue n q b).fget GFE_Q_FETCHED_COUNT q = 0 ∧ (s.openQueue n q b).mem = s.mem := by
  obtain ⟨hstate, hchamber, hclass, hepoch⟩ := s.queueMade_shown hn q hc
  obtain ⟨hfetched, hmem⟩ := s.queueMade_kept n hq b
  have hr : ∀ a, (s.openQueue n q b).rget a = (s.queueMade n q b).rget a := by
    rw [State.openQueue_made]
    exact State.rget_setQueue _ _ _
  have hqueue : (s.openQueue n q b).queue q = qcbQueue b := by
    rw [State.openQueue_made]
    exact State.queue_setQueue_self _ _ _
  have hkept : (s.openQueue n q b).mem = s.mem := by
    rw [State.openQueue_made, State.setQueue_mem]
    exact hmem
  exact ⟨(State.fget_of_rget (hr _)).trans hstate, (State.fget_of_rget (hr _)).trans hchamber, (State.fget_of_rget (hr _)).trans hclass,
    (State.fget_of_rget (hr _)).trans hepoch, hqueue, (State.fget_of_rget (hr _)).trans hfetched, hkept⟩

theorem State.qcbRead_created {b : List Byte} {s1 : State} (hn : n < 16) (hq : q < 4096)
    (h : s.readVa (s.reqGfe n) n (s.gfeCmd (2 * n)).addr 64 = (.ok b, s1)) (hok : qcbOk (s1.chamber n).galleries b = true)
    (hheld : (s1.heldQueues n).length < (s1.chamber n).queues)
    (hfree : (List.range 4096).find? (fun q => s1.queueState q == qFree) = some q) :
    let s' := s.qcbRead n
    s'.queueState q = qActive ∧ s'.queueChamber q = n ∧
    s'.queueClass q = fieldAt b 0x11 1 ∧ s'.fget GFE_Q_STATE_EPOCH q = nextEpoch (s1.fget GFE_Q_STATE_EPOCH q) ∧
    s'.fget GFE_QCMD_STATUS_STATE n = 2 ∧ s'.fget GFE_QCMD_STATUS_QUEUE n = q ∧ (s'.queue q).ring = fieldAt b 0 8 ∧
    (s'.queue q).cring = fieldAt b 8 8 ∧ (s'.queue q).logSize = fieldAt b 0x10 1 ∧ (s'.queue q).tail = 0 ∧
    (s'.queue q).galleries = fieldAt b 0x12 2 ∧ (s'.queue q).timeoutUs = fieldAt b 0x14 4 ∧
    (s'.queue q).weight = fieldAt b 0x18 2 ∧ s'.fget GFE_Q_FETCHED_COUNT q = 0 ∧ s1.KeepsMemory s' := by
  have hclass : fieldAt b 0x11 1 ≤ 1 := by
    simp only [qcbOk, Bool.and_eq_true, decide_eq_true_eq] at hok
    omega
  intro s'
  have hs' : s' = (s1.openQueue n q b).qcmdStatus n 2 0 q := State.qcbRead_opens h hok hheld hfree
  obtain ⟨hstate, hchamber, hcls, hepoch, hqueue, hfetched, hmem⟩ := s1.openQueue_spec hn hq hclass
  rw [hs']
  generalize s1.openQueue n q b = t at hstate hchamber hcls hepoch hqueue hfetched hmem ⊢
  obtain ⟨hdone, -, hshown⟩ := t.fget_qcmdStatus n (state := 2) (result := 0) (by omega) (by omega) hq
  obtain ⟨hmem', -, -, hqueues, -, -⟩ := (t.onlyRegs_qcmdStatus n 2 0 q).keepsWork
  have hq' : (t.qcmdStatus n 2 0 q).queue q = qcbQueue b := (State.queue_congr hqueues q).trans hqueue
  have hkept : (t.qcmdStatus n 2 0 q).rget (regAddr GFE_Q_STATE q 0) = t.rget (regAddr GFE_Q_STATE q 0) :=
    State.rget_qcmdStatus _ _ _ _ _ (qState_ne_qcmd n q).2
  have hkeptFetched : (t.qcmdStatus n 2 0 q).rget (regAddr GFE_Q_FETCHED q 0) = t.rget (regAddr GFE_Q_FETCHED q 0) :=
    State.rget_qcmdStatus _ _ _ _ _ (by rw [regAddr_qcmdStatus]; simp [regAddr, GFE_Q_FETCHED]; omega)
  rw [hq']
  exact ⟨(State.fget_of_rget hkept).trans hstate, (State.fget_of_rget hkept).trans hchamber, (State.fget_of_rget hkept).trans hcls,
    (State.fget_of_rget hkept).trans hepoch, hdone, hshown, rfl, rfl, rfl, rfl, rfl, rfl, rfl,
    (State.fget_of_rget hkeptFetched).trans hfetched, State.keepsMemory_of_mem (hmem'.trans hmem)⟩

/-! ### TEARDOWN_DONE, doorbells, acknowledgements and cancellation (R499, R504, R524, R534, R538) -/

theorem teardownDone_over (hs : s.settleAll.queueState q = qDraining) (hi : s.settleAll.itemsOf q = [])
    (hv : s.settleAll.servers q = []) :
    exec (.teardownDone q) s = .next (s.settleAll.fset GFE_Q_STATE_STATE qTeardownDone q) :=
  next_congr (if_pos ⟨hs, by rw [hi]; rfl, by rw [hv]; rfl⟩)

theorem teardownDone_waits (h : s.settleAll.queueState q ≠ qDraining ∨ s.settleAll.itemsOf q ≠ [] ∨ s.settleAll.servers q ≠ []) :
    exec (.teardownDone q) s = .next s.settleAll :=
  next_congr (if_neg fun ⟨hs, hi, hv⟩ => h.elim (absurd hs) fun h => h.elim (absurd (List.isEmpty_iff.mp hi)) (absurd (List.isEmpty_iff.mp hv)))

section

variable (hm : s.mayWriteQueue r q = true)
include hm

theorem qDbWrite_takes {tail : Nat} (ht : tail < 2 ^ 32) (hs : s.queueState q = qActive)
    (hroom : ahead tail (s.fget GFE_Q_CACK_COUNT q) ≤ 2 ^ (s.queue q).logSize) :
    exec (.qDbWrite r q tail) s = .next (s.setQueue q { s.queue q with tail := tail }) := by
  refine next_congr ((if_pos hm).trans ((if_neg (by simp [hs])).trans ((if_neg (Nat.not_lt.mpr hroom)).trans ?_)))
  rw [Nat.mod_eq_of_lt ht]

theorem qDbWrite_overruns {tail : Nat} (hs : s.queueState q = qActive)
    (hover : 2 ^ (s.queue q).logSize < ahead tail (s.fget GFE_Q_CACK_COUNT q)) :
    exec (.qDbWrite r q tail) s = .next (s.fset GFE_Q_STATE_OVERRUN 1 q) :=
  next_congr ((if_pos hm).trans ((if_neg (by simp [hs])).trans (if_pos hover)))

theorem qDbWrite_inactive {tail : Nat} (hs : s.queueState q ≠ qActive) : exec (.qDbWrite r q tail) s = .next s :=
  next_congr ((if_pos hm).trans (if_pos (by simpa using hs)))

theorem qCackWrite_takes {v : Nat} (hv : v < 2 ^ 32) :
    let old := s.fget GFE_Q_CACK_COUNT q
    let done := s.fget GFE_Q_DONE_LO_COUNT q
    ∃ s', exec (.qCackWrite r q v) s = .next s' ∧
      s'.fget GFE_Q_CACK_COUNT q = (if ahead v old ≤ ahead done old then v else done) ∧ s.KeepsWork s' ∧
      s.KeepsRegsBut s' [regAddr GFE_Q_CACK q 0] := by
  intro old done
  have hdone : done < 2 ^ 32 := s.fget_lt GFE_Q_DONE_LO_COUNT q 0
  refine ⟨_, next_congr (if_pos hm), ?_, (State.KeepsWork.refl s).fset, State.keepsRegsBut_rput _ _ _⟩
  show (s.fset GFE_Q_CACK_COUNT (if ahead done old < ahead v old then done else v) q).fget GFE_Q_CACK_COUNT q = _
  by_cases h : ahead done old < ahead v old
  · rw [if_pos h, if_neg (Nat.not_le.mpr h)]
    exact State.fget_fset_of_lt _ q 0 (by decide) hdone
  · rw [if_neg h, if_pos (Nat.not_lt.mp h)]
    exact State.fget_fset_of_lt _ q 0 (by decide) hv

theorem qCancel_aborts (seq : Nat) : exec (.qCancel r q seq) s = .next (s.abortItem ⟨q, seq, none⟩ 0x22) := next_congr (if_pos hm)

end

/-- An abort of an item that is not there does nothing. -/
theorem State.abortItem_absent {seq : Nat} (h : ∀ i ∈ s.items, i.key.queue = q → i.key.seq ≠ seq) (code : Nat) :
    s.abortItem ⟨q, seq, none⟩ code = s := by
  have hnone : s.item ⟨q, seq, none⟩ = none := by
    refine List.find?_eq_none.mpr fun i hi hk => ?_
    have hkey : i.key = ⟨q, seq, none⟩ := by simpa using hk
    exact h i hi (by rw [hkey]) (by rw [hkey])
  have hnodes : s.items.filter (fun j => j.key.queue == q && j.key.seq == seq && j.key.node.isSome) = [] := by
    refine List.filter_eq_nil_iff.mpr fun i hi hk => ?_
    simp only [Bool.and_eq_true, beq_iff_eq] at hk
    exact h i hi hk.1.1 hk.1.2
  have hone : s.abortOne ⟨q, seq, none⟩ code = s := by rw [State.abortOne, hnone]
  have hsettle : s.settle ⟨q, seq, none⟩ = s := by rw [State.settle, hnone]
  unfold State.abortItem
  simp only [hnodes, hnone, List.foldl_nil, ite_self, hone, hsettle]

theorem queueWrites_denied (hm : s.mayWriteQueue r q = false) (v : Nat) :
    exec (.qDbWrite r q v) s = .next s ∧ exec (.qCackWrite r q v) s = .next s ∧ exec (.qCancel r q v) s = .next s :=
  ⟨next_congr (if_neg (by simp [hm])), next_congr (if_neg (by simp [hm])), next_congr (if_neg (by simp [hm]))⟩

end

/-- Settles O48: each queue command by the order of R503, then the doorbells, acknowledgements and cancellations by who may write. -/
theorem queueCommands : Obligations.QueueCommands := by
  unfold Obligations.QueueCommands
  intro s r n q hn hq
  refine ⟨fun hm hb hl => ⟨create_begins hm hb hl, fun hc hs => ⟨destroy_active hm hb hl hc hs, destroy_idle hm hb hl hq hc hs⟩,
      reclaim_frees hm hb hl hq, destroy_bad hm hb hl hq, reclaim_bad hm hb hl hq⟩,
    queueCommands_busy, queueCommands_notLive hq, queueCommands_denied, qcbRead_idle, qcbRead_notLive, qcbRead_local,
    fun f s1 => State.qcbRead_fault, fun b s1 h => ⟨State.qcbRead_bad h, fun hok => ⟨State.qcbRead_full h hok,
      State.qcbRead_created hn hq h hok⟩⟩,
    ⟨teardownDone_over, teardownDone_waits⟩,
    fun tail ht hm => ⟨qDbWrite_takes hm ht, qDbWrite_overruns hm, qDbWrite_inactive hm⟩, fun v hv hm => qCackWrite_takes hm hv,
    fun seq hm => ⟨qCancel_aborts hm seq, fun h => (qCancel_aborts hm seq).trans (next_congr (State.abortItem_absent h _))⟩,
    queueWrites_denied⟩

end Sys2Proof.Machine
end

section
/-! PROOFS. O49: the commands on stored graphs and the dispatch of their nodes (R503, R526 to R533, R540). -/

namespace Sys2Proof.Machine

section

variable {s t : State} {r : Requester} {n g op a : Nat} {G : Graph}

/-! ### The registers of a chamber's graph commands (R503, R540) -/

theorem regAddr_gcmd (n : Nat) : regAddr GFE_GCMD n 0 = 0x80118 + 0x40 * n := by simp [regAddr, GFE_GCMD]

/-- OP and GRAPH as a GO write gives them. -/
def State.gcmdGiven (s : State) (n op g : Nat) : State := (s.fset GFE_GCMD_OP op n).fset GFE_GCMD_GRAPH g n

theorem State.onlyRegs_gcmdGiven (s : State) (n op g : Nat) : s.OnlyRegs (s.gcmdGiven n op g) := (State.OnlyRegs.refl s).fset.fset

theorem State.gcmdGiven_graphs (s : State) (n op g : Nat) : (s.gcmdGiven n op g).graphs = s.graphs := by
  rw [State.gcmdGiven, State.fset_graphs, State.fset_graphs]

theorem State.gcmdGiven_items (s : State) (n op g : Nat) : (s.gcmdGiven n op g).items = s.items := by
  rw [State.gcmdGiven, State.fset_items, State.fset_items]

theorem State.rget_gcmdGiven (s : State) (n op g : Nat) (h : regAddr GFE_GCMD n 0 ≠ a) : (s.gcmdGiven n op g).rget a = s.rget a :=
  (State.rget_fset_ne _ GFE_GCMD_GRAPH _ n 0 _ h).trans (State.rget_fset_ne _ GFE_GCMD_OP _ n 0 _ h)

theorem State.chLive_gcmdGiven (s : State) (m op g : Nat) : (s.gcmdGiven m op g).chLive n = s.chLive n :=
  State.chLive_congr (s.rget_gcmdGiven m op g (by rw [regAddr_gcmd]; simp [regAddr, CHB_STATE]; omega))

/-- A queue's registers lie above those of the graph commands. -/
theorem State.queueChamber_gcmdGiven (s : State) (hn : n < 16) (op g q : Nat) :
    (s.gcmdGiven n op g).queueChamber q = s.queueChamber q :=
  State.queueChamber_congr (s.rget_gcmdGiven n op g (by rw [regAddr_gcmd, regAddr_qState]; omega))

theorem State.gcmdAddr_congr (h1 : t.rget (regAddr GFE_GCMD_ADDR_LO n 0) = s.rget (regAddr GFE_GCMD_ADDR_LO n 0))
    (h2 : t.rget (regAddr GFE_GCMD_ADDR_HI n 0) = s.rget (regAddr GFE_GCMD_ADDR_HI n 0)) : t.gcmdAddr n = s.gcmdAddr n := by
  have hlo : t.fget GFE_GCMD_ADDR_LO_ADDR n = s.fget GFE_GCMD_ADDR_LO_ADDR n := State.fget_of_rget h1
  have hhi : t.fget GFE_GCMD_ADDR_HI_ADDR n = s.fget GFE_GCMD_ADDR_HI_ADDR n := State.fget_of_rget h2
  rw [State.gcmdAddr, State.gcmdAddr, hlo, hhi]

theorem State.gcmdAddr_gcmdGiven (s : State) (n op g : Nat) : (s.gcmdGiven n op g).gcmdAddr n = s.gcmdAddr n :=
  State.gcmdAddr_congr (s.rget_gcmdGiven n op g (by simp [regAddr, GFE_GCMD, GFE_GCMD_ADDR_LO]))
    (s.rget_gcmdGiven n op g (by simp [regAddr, GFE_GCMD, GFE_GCMD_ADDR_HI]))

theorem State.onlyRegs_gcmdEnd (s : State) (n state result : Nat) : s.OnlyRegs (s.gcmdEnd n state result) :=
  (State.OnlyRegs.refl s).fset.fset

theorem State.gcmdEnd_graphs (s : State) (n state result : Nat) : (s.gcmdEnd n state result).graphs = s.graphs := by
  rw [State.gcmdEnd, State.fset_graphs, State.fset_graphs]

theorem State.fget_gcmdEnd (s : State) (n : Nat) {state result : Nat} (hs : state < 16) (hr : result < 256) :
    (s.gcmdEnd n state result).fget GFE_GCMD_STATUS_STATE n = state ∧
    (s.gcmdEnd n state result).fget GFE_GCMD_STATUS_RESULT n = result := by
  unfold State.gcmdEnd
  refine ⟨?_, State.fget_fset_of_lt _ n 0 (by decide) hr⟩
  rw [State.fget_fset_other _ _ _ _ _ _ _ _ (by decide) (by decide) (by decide)]
  exact State.fget_fset_of_lt _ n 0 (by decide) hs

/-- DONE with a version, as a CREATE or a PATCH ends. -/
theorem State.gcmdEnd_version (s : State) (n : Nat) {v : Nat} (hv : v < 2 ^ 16) :
    ((s.gcmdEnd n 2 0).fset GFE_GCMD_STATUS_VERSION v n).fget GFE_GCMD_STATUS_STATE n = 2 ∧
    ((s.gcmdEnd n 2 0).fset GFE_GCMD_STATUS_VERSION v n).fget GFE_GCMD_STATUS_VERSION n = v ∧
    ((s.gcmdEnd n 2 0).fset GFE_GCMD_STATUS_VERSION v n).graphs = s.graphs ∧
    s.KeepsWork ((s.gcmdEnd n 2 0).fset GFE_GCMD_STATUS_VERSION v n) := by
  refine ⟨?_, State.fget_fset_of_lt _ n 0 (by decide) hv, ?_, (s.onlyRegs_gcmdEnd n 2 0).keepsWork.fset⟩
  · rw [State.fget_fset_other _ _ _ _ _ _ _ _ (by decide) (by decide) (by decide)]
    exact (s.fget_gcmdEnd n (by omega) (by omega)).1
  · rw [State.fset_graphs, State.gcmdEnd_graphs]

/-! ### Stored graphs (R531, R533) -/

theorem State.graph_congr (h : t.graphs = s.graphs) (n g : Nat) : t.graph n g = s.graph n g := by rw [State.graph, State.graph, h]

theorem State.launches_congr (hi : t.items = s.items) (hq : ∀ q, t.queueChamber q = s.queueChamber q) (n g : Nat) :
    t.launches n g = s.launches n g := by
  simp only [State.launches, hi, hq]

theorem State.versionLive_congr (hi : t.items = s.items) (hq : ∀ q, t.queueChamber q = s.queueChamber q) (n g : Nat) (G : Graph)
    (v : Nat) : t.versionLive n g G v = s.versionLive n g G v := by
  simp only [State.versionLive, hi, hq]

theorem State.graph_pruneGraphs_congr (hi : t.items = s.items) (hg : t.graphs = s.graphs)
    (hq : ∀ q, t.queueChamber q = s.queueChamber q) (n g : Nat) : t.pruneGraphs.graph n g = s.pruneGraphs.graph n g := by
  refine State.graph_congr ?_ n g
  simp only [State.pruneGraphs, hg, State.launches_congr hi hq, State.versionLive_congr hi hq]

theorem State.keepsWork_pruneGraphs (s : State) : s.KeepsWork s.pruneGraphs := ⟨rfl, rfl, rfl, rfl, rfl, rfl⟩

theorem State.keepsWork_setGraph (s : State) (n g : Nat) (G : Graph) : s.KeepsWork (s.setGraph n g G) := ⟨rfl, rfl, rfl, rfl, rfl, rfl⟩

theorem State.rget_pruneGraphs (s : State) (a : Nat) : s.pruneGraphs.rget a = s.rget a := rfl

theorem State.pruneGraphs_items (s : State) : s.pruneGraphs.items = s.items := rfl

theorem State.graph_setGraph_self (s : State) (n g : Nat) (G : Graph) : (s.setGraph n g G).graph n g = some G := by
  simp [State.setGraph, State.graph]

/-- A graph just set that is not destroyed is kept, but for its versions. -/
theorem State.graph_prune_setGraph (s : State) (n g : Nat) (hG : G.destroyed = false) :
    ∃ G', (s.setGraph n g G).pruneGraphs.graph n g = some G' ∧ G'.newest = G.newest ∧ G'.nodes = G.nodes := by
  simp [State.setGraph, State.pruneGraphs, State.graph, hG]

/-- A graph just destroyed that no launch uses is gone. -/
theorem State.graph_prune_destroyed (hg : g < 64) (hG : G.destroyed = true) (hl : s.launches n g = []) :
    (s.setGraph n g G).pruneGraphs.graph n g = none := by
  have hdiv : (64 * n + g) / 64 = n := by omega
  have hmod : (64 * n + g) % 64 = g := by omega
  have hl' : (s.setGraph n g G).launches ((64 * n + g) / 64) ((64 * n + g) % 64) = [] := by rw [hdiv, hmod]; exact hl
  have hnone : ∀ e ∈ (s.setGraph n g G).pruneGraphs.graphs, e.1 ≠ 64 * n + g := by
    intro e he hk
    obtain ⟨e', he', rfl⟩ := List.mem_map.mp he
    obtain ⟨hin, hkept⟩ := List.mem_filter.mp he'
    obtain rfl | hrest := List.mem_cons.mp hin
    · dsimp only at hkept
      rw [hl', hG] at hkept
      exact absurd hkept (by decide)
    · exact (show e'.1 ≠ 64 * n + g by simpa using (List.mem_filter.mp hrest).2) hk
  rw [State.graph, List.find?_eq_none.mpr fun e he => by simpa using hnone e he]
  rfl

/-! ### GO of a graph command (R503, R528, R532, R533) -/

theorem State.gcmd_busy (hb : s.fget GFE_GCMD_STATUS_STATE n = 1) (op g : Nat) :
    s.gcmd n op g = s.fset GFE_GCMD_STATUS_REFUSED_BUSY 1 n := if_pos (by rw [hb]; decide)

/-- DESTROY of the graph found in a state whose dead graphs are gone. -/
def State.destroyFound (s : State) (n g : Nat) (found : Option Graph) : State :=
  match found with
  | some G => if G.destroyed then s.gcmdRefuse n 0x04
      else ((s.setGraph n g { G with destroyed := true }).pruneGraphs).gcmdEnd n 2 0
  | none => s.gcmdRefuse n 0x04

theorem State.gcmd_live (hb : s.fget GFE_GCMD_STATUS_STATE n ≠ 1) (hop : op ≠ 0) (hl : s.chLive n = true) : s.gcmd n op g =
    if op == 3 then (s.gcmdGiven n op g).pruneGraphs.destroyFound n g ((s.gcmdGiven n op g).pruneGraphs.graph n g)
    else ((s.gcmdGiven n op g).fset GFE_GCMD_STATUS_STATE 1 n).beginCmd (2 * n + 1) ⟨op, g, (s.gcmdGiven n op g).gcmdAddr n⟩ := by
  have hlive := (State.chLive_gcmdGiven (n := n) s n op g).trans hl
  unfold State.gcmd
  refine (if_neg (by simpa using hb)).trans ((if_neg (by simpa using hop)).trans ?_)
  refine (if_neg (by rw [show ((s.fset GFE_GCMD_OP op n).fset GFE_GCMD_GRAPH g n) = s.gcmdGiven n op g from rfl, hlive]; decide)).trans ?_
  rfl

theorem execGraphCreate_may (hm : s.mayWriteSet r n = true) : exec (.graphCreate r n g) s = .next (s.gcmd n 1 g) :=
  next_congr (if_pos hm)

theorem execPatch_may (hm : s.mayWriteSet r n = true) : exec (.patch r n) s = .next (s.gcmd n 2 (s.fget GFE_GCMD_GRAPH n)) :=
  next_congr (if_pos hm)

theorem execGraphDestroy_may (hm : s.mayWriteSet r n = true) : exec (.graphDestroy r n g) s = .next (s.gcmd n 3 g) :=
  next_congr (if_pos hm)

theorem graphCommands_denied (hm : s.mayWriteSet r n = false) : exec (.graphCreate r n g) s = .next s ∧
    exec (.patch r n) s = .next s ∧ exec (.graphDestroy r n g) s = .next s :=
  ⟨next_congr (if_neg (by simp [hm])), next_congr (if_neg (by simp [hm])), next_congr (if_neg (by simp [hm]))⟩

theorem graphCommands_busy (hm : s.mayWriteSet r n = true) (hb : s.fget GFE_GCMD_STATUS_STATE n = 1) :
    exec (.graphCreate r n g) s = .next (s.fset GFE_GCMD_STATUS_REFUSED_BUSY 1 n) ∧
    exec (.patch r n) s = .next (s.fset GFE_GCMD_STATUS_REFUSED_BUSY 1 n) ∧
    exec (.graphDestroy r n g) s = .next (s.fset GFE_GCMD_STATUS_REFUSED_BUSY 1 n) :=
  ⟨(execGraphCreate_may hm).trans (next_congr (State.gcmd_busy hb _ _)), (execPatch_may hm).trans (next_congr (State.gcmd_busy hb _ _)),
    (execGraphDestroy_may hm).trans (next_congr (State.gcmd_busy hb _ _))⟩

theorem State.beginCmd_graphs (s : State) (k : Nat) (c : GfeCmd) : (s.beginCmd k c).graphs = s.graphs := rfl

/-- A CREATE or a PATCH begins with the address that the registers name. -/
theorem State.gcmd_begins (hb : s.fget GFE_GCMD_STATUS_STATE n ≠ 1) (hl : s.chLive n = true) (hop : op ≠ 0 ∧ op ≠ 3) (g : Nat) :
    (s.gcmd n op g).fget GFE_GCMD_STATUS_STATE n = 1 ∧ (s.gcmd n op g).gfeCmd (2 * n + 1) = ⟨op, g, s.gcmdAddr n⟩ ∧
    s.KeepsWork (s.gcmd n op g) ∧ (s.gcmd n op g).graphs = s.graphs := by
  rw [State.gcmd_live hb hop.1 hl, if_neg (by simpa using hop.2), State.gcmdAddr_gcmdGiven]
  have hone := State.fget_fset_of_lt (s.gcmdGiven n op g) (f := GFE_GCMD_STATUS_STATE) (v := 1) n 0 (by decide) (by decide)
  have hregs := (s.onlyRegs_gcmdGiven n op g).fset (f := GFE_GCMD_STATUS_STATE) (v := 1) (i := n) (j := 0)
  have hgraphs := (State.fset_graphs (s.gcmdGiven n op g) GFE_GCMD_STATUS_STATE 1 n 0).trans (s.gcmdGiven_graphs n op g)
  generalize (s.gcmdGiven n op g).fset GFE_GCMD_STATUS_STATE 1 n = u at hone hregs hgraphs ⊢
  obtain ⟨hcmd, hwork, hr⟩ := u.beginCmd_spec (2 * n + 1) ⟨op, g, s.gcmdAddr n⟩
  exact ⟨(State.fget_of_rget (hr _)).trans hone, hcmd, hregs.keepsWork.trans hwork, (u.beginCmd_graphs _ _).trans hgraphs⟩

theorem State.destroyFound_some (s : State) (n : Nat) (hg : g < 64) (hG : G.destroyed = false) :
    (s.destroyFound n g (some G)).fget GFE_GCMD_STATUS_STATE n = 2 ∧ s.KeepsWork (s.destroyFound n g (some G)) ∧
    (s.launches n g = [] → (s.destroyFound n g (some G)).graph n g = none) := by
  have heq : s.destroyFound n g (some G) = ((s.setGraph n g { G with destroyed := true }).pruneGraphs).gcmdEnd n 2 0 :=
    if_neg (by simp [hG])
  rw [heq]
  refine ⟨(State.fget_gcmdEnd _ n (by omega) (by omega)).1, ((s.keepsWork_setGraph n g _).trans (State.keepsWork_pruneGraphs _)).trans
    (State.onlyRegs_gcmdEnd _ n 2 0).keepsWork, fun h => ?_⟩
  exact (State.graph_congr (State.gcmdEnd_graphs _ _ _ _) n g).trans (State.graph_prune_destroyed hg rfl h)

theorem State.destroyFound_none (s : State) (n g : Nat) : (s.destroyFound n g none).fget GFE_GCMD_STATUS_STATE n = 3 ∧
    (s.destroyFound n g none).fget GFE_GCMD_STATUS_RESULT n = 4 ∧ s.KeepsWork (s.destroyFound n g none) :=
  ⟨(s.fget_gcmdEnd n (by omega) (by omega)).1, (s.fget_gcmdEnd n (by omega) (by omega)).2, (s.onlyRegs_gcmdEnd n 3 4).keepsWork⟩

section

variable (hn : n < 16) (hb : s.fget GFE_GCMD_STATUS_STATE n ≠ 1) (hl : s.chLive n = true)
include hn hb hl

theorem State.gcmd_destroy (g : Nat) : s.gcmd n 3 g = (s.gcmdGiven n 3 g).pruneGraphs.destroyFound n g (s.pruneGraphs.graph n g) := by
  rw [State.gcmd_live hb (by decide) hl, if_pos (show (3 == 3) = true from rfl),
    State.graph_pruneGraphs_congr (s.gcmdGiven_items n 3 g) (s.gcmdGiven_graphs n 3 g) (s.queueChamber_gcmdGiven hn 3 g) n g]

theorem graphDestroy_stored (hg : g < 64) (hm : s.mayWriteSet r n = true) (hf : s.pruneGraphs.graph n g = some G)
    (hG : G.destroyed = false) : ∃ s', exec (.graphDestroy r n g) s = .next s' ∧ s'.fget GFE_GCMD_STATUS_STATE n = 2 ∧
      s.KeepsWork s' ∧ (s.launches n g = [] → s'.graph n g = none) := by
  refine ⟨_, execGraphDestroy_may hm, ?_⟩
  rw [State.gcmd_destroy hn hb hl, hf]
  obtain ⟨hstate, hwork, hgone⟩ := (s.gcmdGiven n 3 g).pruneGraphs.destroyFound_some n hg hG
  refine ⟨hstate, ((s.onlyRegs_gcmdGiven n 3 g).keepsWork.trans (State.keepsWork_pruneGraphs _)).trans hwork, fun h => hgone ?_⟩
  rw [State.launches_congr ((State.pruneGraphs_items _).trans (s.gcmdGiven_items n 3 g)) fun q =>
    (State.queueChamber_congr (State.rget_pruneGraphs _ _)).trans (s.queueChamber_gcmdGiven hn 3 g q)]
  exact h

theorem graphDestroy_absent (hm : s.mayWriteSet r n = true) (hf : s.pruneGraphs.graph n g = none) :
    ∃ s', exec (.graphDestroy r n g) s = .next s' ∧ s'.fget GFE_GCMD_STATUS_STATE n = 3 ∧
      s'.fget GFE_GCMD_STATUS_RESULT n = 4 ∧ s.KeepsWork s' := by
  refine ⟨_, execGraphDestroy_may hm, ?_⟩
  rw [State.gcmd_destroy hn hb hl, hf]
  obtain ⟨hstate, hresult, hwork⟩ := (s.gcmdGiven n 3 g).pruneGraphs.destroyFound_none n g
  exact ⟨hstate, hresult, ((s.onlyRegs_gcmdGiven n 3 g).keepsWork.trans (State.keepsWork_pruneGraphs _)).trans hwork⟩

end

/-! ### GRAPH_CREATE_DONE and PATCH_DONE (R503, R528, R532) -/

section

variable {run : State → State}

theorem State.gcmdRun_other (h : ¬s.fget GFE_GCMD_STATUS_STATE n = 1 ∨ (s.gfeCmd (2 * n + 1)).op ≠ op) : s.gcmdRun n op run = s := by
  refine if_pos ?_
  simpa using h

variable (hb : s.fget GFE_GCMD_STATUS_STATE n = 1) (hop : (s.gfeCmd (2 * n + 1)).op = op)
include hb hop

theorem State.gcmdRun_notLive (hl : s.chLive n = false) : s.gcmdRun n op run = s.gcmdRefuse n 7 :=
  (if_neg (by simp [hb, hop])).trans (if_pos (by simp [hl]))

theorem State.gcmdRun_local (hl : s.chLive n = true) (ha : s.awaitsNoRead (.command (2 * n + 1)))
    (hw : (run (s.asksAs (.command (2 * n + 1)))).ms.wanted = []) :
    s.gcmdRun n op run = ((run (s.asksAs (.command (2 * n + 1)))).readAll (.command (2 * n + 1))).deliver :=
  (if_neg (by simp [hb, hop])).trans ((if_neg (by simp [hl])).trans (congrArg State.deliver (State.remotely_local ha hw)))

end

/-! ### A CREATE runs (R526 to R528) -/

/-- The graph that image `img` at offset `o` of the area becomes, its newest version 1. -/
def graphOf (img : List Byte) (o : Nat) : Graph :=
  { nodes := (List.range (fieldAt img 4 2)).map (nodeRecord img), imageOff := o, imageLen := img.length,
    versions := [{ version := 1, bufs := (List.range (fieldAt img 6 2)).map (fun p =>
      ({ off := o + (paramEntry img (fieldAt img 4 2) p).1, len := (paramEntry img (fieldAt img 4 2) p).2 } : GraphBuf)) }],
    newest := 1, destroyed := false }

section

variable {va : Nat} {h img : List Byte} {s1 s2 : State} (hcmd : s.gfeCmd (2 * n + 1) = ⟨op, g, va⟩)
  (hh : s.pruneGraphs.readVa (s.pruneGraphs.reqGfe n) n va 64 = (.ok h, s1))
  (himg : s1.readVa (s.pruneGraphs.reqGfe n) n va (fieldAt h 8 4) = (.ok img, s2))
include hcmd hh himg

theorem State.graphCreate_bad (hok : imageOk img = false) : s.graphCreate n = s2.gcmdRefuse n 1 := by
  have hcmd' : s.pruneGraphs.gfeCmd (2 * n + 1) = ⟨op, g, va⟩ := hcmd
  unfold State.graphCreate
  dsimp only
  rw [hcmd', hh]
  dsimp only
  rw [himg]
  exact if_pos (by rw [hok]; rfl)

theorem State.graphCreate_stores {o : Nat} {s3 : State} (hok : imageOk img = true) (hfree : s2.graph n g = none)
    (hplace : s2.areaPlace n img.length = some o)
    (hwrite : s2.writeVa (s.pruneGraphs.reqGfe n) n (.copy ⟨4096 + n, 0, none⟩) 0xFFFF ((s2.graphArea n).1 + o) img = (none, s3)) :
    s.graphCreate n = (((s3.setGraph n g (graphOf img o)).gcmdEnd n 2 0).fset GFE_GCMD_STATUS_VERSION 1 n) := by
  have hcmd' : s.pruneGraphs.gfeCmd (2 * n + 1) = ⟨op, g, va⟩ := hcmd
  unfold State.graphCreate
  dsimp only
  rw [hcmd', hh]
  dsimp only
  rw [himg]
  dsimp only
  rw [if_neg (by simp [hok]), if_neg (by simp [hfree]), hplace]
  dsimp only
  rw [hwrite]
  rfl

theorem State.graphCreate_spec {o : Nat} {s3 : State} (hok : imageOk img = true) (hfree : s2.graph n g = none)
    (hplace : s2.areaPlace n img.length = some o)
    (hwrite : s2.writeVa (s.pruneGraphs.reqGfe n) n (.copy ⟨4096 + n, 0, none⟩) 0xFFFF ((s2.graphArea n).1 + o) img = (none, s3)) :
    ∃ G, (s.graphCreate n).fget GFE_GCMD_STATUS_STATE n = 2 ∧ (s.graphCreate n).fget GFE_GCMD_STATUS_VERSION n = 1 ∧
      (s.graphCreate n).graph n g = some G ∧ G.newest = 1 ∧ G.destroyed = false ∧ G.imageOff = o ∧
      G.nodes = (List.range (fieldAt img 4 2)).map (nodeRecord img) ∧ s3.KeepsWork (s.graphCreate n) := by
  rw [State.graphCreate_stores hcmd hh himg hok hfree hplace hwrite]
  obtain ⟨hstate, hversion, hgraphs, hwork⟩ := (s3.setGraph n g (graphOf img o)).gcmdEnd_version n (v := 1) (by decide)
  exact ⟨graphOf img o, hstate, hversion, (State.graph_congr hgraphs n g).trans (s3.graph_setGraph_self n g _), rfl, rfl, rfl, rfl,
    (s3.keepsWork_setGraph n g _).trans hwork⟩

end

/-! ### A PATCH runs (R531, R532) -/

/-- Graph `G` with a next version, whose buffers are those given. -/
def Graph.patched (G : Graph) (bufs : List GraphBuf) : Graph :=
  { G with versions := G.versions ++ [{ version := nextEpoch G.newest, bufs := bufs }], newest := nextEpoch G.newest }

section

variable {b new old : List Byte} {cur : GraphVersion} {buf : GraphBuf} {s1 s2 s3 s4 : State} {o k off : Nat} {bufs : List GraphBuf}

/-- A patched buffer, once its bytes are read and its new ones written. -/
theorem State.patchBuffer_writes
    (ho : s2.bufferInUse n g k G buf = false ∧ o = buf.off ∨ s2.bufferInUse n g k G buf = true ∧ s2.areaPlace n buf.len = some o)
    (hold : s2.readVa (s2.reqGfe n) n ((s2.graphArea n).1 + buf.off) buf.len = (.ok old, s3))
    (hwrite : s3.writeVa (s2.reqGfe n) n (.copy ⟨4096 + n, 0, none⟩) 0xFFFF ((s2.graphArea n).1 + o) (overlay old off new) = (none, s4)) :
    s2.patchBuffer n g k off G bufs buf new =
      (((s4.setGraph n g (G.patched (bufs.set k { off := o, len := buf.len }))).pruneGraphs.gcmdEnd n 2 0).fset
        GFE_GCMD_STATUS_VERSION (nextEpoch G.newest) n) := by
  have hplace : (if s2.bufferInUse n g k G buf then s2.areaPlace n buf.len else some buf.off) = some o := by
    obtain ⟨hfree, rfl⟩ | ⟨hused, hsome⟩ := ho
    · exact if_neg (by simp [hfree])
    · exact (if_pos hused).trans hsome
  unfold State.patchBuffer
  dsimp only
  rw [hplace]
  dsimp only
  rw [hold]
  dsimp only
  rw [hwrite]
  rfl

/-- A PATCH whose record names a buffer of the newest version patches it. -/
theorem State.graphPatch_patches {va q : Nat} (hg : g < 64) (hcmd : s.gfeCmd (2 * n + 1) = ⟨op, q, va⟩)
    (hb : s.pruneGraphs.readVa (s.pruneGraphs.reqGfe n) n va 32 = (.ok b, s1)) (hbg : fieldAt b 0 2 = g)
    (hG : s1.graph n g = some G) (hd : G.destroyed = false) (hcur : G.versions.find? (fun v => v.version == G.newest) = some cur)
    (hbuf : cur.bufs[fieldAt b 2 2]? = some buf) (hlen : fieldAt b 4 4 + fieldAt b 8 4 ≤ buf.len) (hroom : G.versions.length < 16)
    (hplace : s1.bufferInUse n g (fieldAt b 2 2) G buf = false ∨ (s1.areaPlace n buf.len).isSome = true)
    (hnew : s1.readVa (s1.reqGfe n) n (fieldAt b 0x10 8) (fieldAt b 8 4) = (.ok new, s2)) :
    s.graphPatch n = s2.patchBuffer n g (fieldAt b 2 2) (fieldAt b 4 4) G cur.bufs buf new := by
  have hcmd' : s.pruneGraphs.gfeCmd (2 * n + 1) = ⟨op, q, va⟩ := hcmd
  unfold State.graphPatch
  dsimp only
  rw [hcmd', hb]
  dsimp only
  rw [hbg, if_pos hg, hG]
  dsimp only
  rw [hcur, Option.getD_some, hbuf]
  dsimp only
  rw [if_neg (by simp [hd, hlen]), if_neg (by omega), if_neg, hnew]
  obtain h | h := hplace
  · simp [h]
  · simp [Option.isNone_iff_eq_none, Option.isSome_iff_ne_none.mp h]

theorem State.patchBuffer_spec
    (ho : s2.bufferInUse n g k G buf = false ∧ o = buf.off ∨ s2.bufferInUse n g k G buf = true ∧ s2.areaPlace n buf.len = some o)
    (hold : s2.readVa (s2.reqGfe n) n ((s2.graphArea n).1 + buf.off) buf.len = (.ok old, s3))
    (hwrite : s3.writeVa (s2.reqGfe n) n (.copy ⟨4096 + n, 0, none⟩) 0xFFFF ((s2.graphArea n).1 + o) (overlay old off new) = (none, s4))
    (hd : G.destroyed = false) :
    (s2.patchBuffer n g k off G bufs buf new).fget GFE_GCMD_STATUS_STATE n = 2 ∧
    (s2.patchBuffer n g k off G bufs buf new).fget GFE_GCMD_STATUS_VERSION n = nextEpoch G.newest ∧
    s4.KeepsWork (s2.patchBuffer n g k off G bufs buf new) ∧
    ∃ G', (s2.patchBuffer n g k off G bufs buf new).graph n g = some G' ∧ G'.newest = nextEpoch G.newest ∧ G'.nodes = G.nodes := by
  rw [State.patchBuffer_writes ho hold hwrite]
  generalize hP : G.patched (bufs.set k { off := o, len := buf.len }) = P
  have hPd : P.destroyed = false := by rw [← hP]; exact hd
  have hPn : P.newest = nextEpoch G.newest ∧ P.nodes = G.nodes := by rw [← hP]; exact ⟨rfl, rfl⟩
  obtain ⟨hstate, hversion, hgraphs, hwork⟩ := (s4.setGraph n g P).pruneGraphs.gcmdEnd_version n (nextEpoch_lt G.newest)
  obtain ⟨G', hG', hnewest, hnodes⟩ := s4.graph_prune_setGraph n g hPd
  exact ⟨hstate, hversion, ((s4.keepsWork_setGraph n g P).trans (State.keepsWork_pruneGraphs _)).trans hwork,
    G', (State.graph_congr hgraphs n g).trans hG', hnewest.trans hPn.1, hnodes.trans hPn.2⟩

end

/-! ### GRAPH_NODE_DISPATCH (R529, R530) -/

theorem graphNodeDispatch_absent {q seq : Nat} (h : s.item ⟨q, seq, none⟩ = none) (k : Nat) :
    exec (.graphNodeDispatch q seq k) s = .next s := by
  refine next_congr ?_
  rw [h]

/-- A least element of a list is in it. -/
theorem argMin_mem {α : Type} {key : α → Nat} {l : List α} {x : α} (h : argMin key l = some x) : x ∈ l := by
  induction l generalizing x with
  | nil => exact nomatch h
  | cons y l ih =>
    rw [argMin] at h
    cases hl : argMin key l with
    | none => simp_all
    | some z =>
      have hz := ih hl
      rw [hl] at h
      dsimp only at h
      split at h <;> simp_all

/-- A gallery picked is live and one that the item may use. -/
theorem State.pickGallery_live {i : Item} {h : Nat} (hp : s.pickGallery i = some h) :
    h ∈ s.itemGalleries i ∧ s.galleryLive h = true := by
  obtain ⟨hmem, hcond⟩ := List.mem_filter.mp (argMin_mem hp)
  simp only [Bool.and_eq_true] at hcond
  obtain ⟨⟨⟨hlive, -⟩, -⟩, -⟩ := hcond
  exact ⟨hmem, hlive⟩

/-- A node item that is ready: a MARKER ends at once, another goes to the gallery picked, or ends where none is left. -/
def State.nodeStarts (s : State) (i : Item) : State :=
  if i.kind == kindMarker then ({ s with items := s.items ++ [{ i with phase := .gfe }] }).endItem i.key cServed 0
  else if (s.itemGalleries i).isEmpty || !((s.itemGalleries i).any s.galleryLive) then
    ({ s with items := s.items ++ [i] }).endItem i.key cUnavailable 0
  else match s.pickGallery i with
    | none => s
    | some g => ({ s with items := s.items ++ [i] }).place i g

theorem State.nodeStarts_marker {i : Item} (h : i.kind = kindMarker) :
    s.nodeStarts i = ({ s with items := s.items ++ [{ i with phase := .gfe }] } : State).endItem i.key 0 0 :=
  if_pos (by rw [h]; rfl)

theorem State.nodeStarts_picked {i : Item} {h : Nat} (hk : i.kind ≠ kindMarker) (hp : s.pickGallery i = some h) :
    s.nodeStarts i = ({ s with items := s.items ++ [i] } : State).place i h := by
  obtain ⟨hmem, hlive⟩ := State.pickGallery_live hp
  have hany : (s.itemGalleries i).any s.galleryLive = true := List.any_eq_true.mpr ⟨h, hmem, hlive⟩
  have hne : (s.itemGalleries i).isEmpty = false := List.isEmpty_eq_false_iff.mpr (List.ne_nil_of_mem hmem)
  unfold State.nodeStarts
  rw [if_neg (by simpa using hk), if_neg (by simp [hany, hne]), hp]

theorem graphNodeDispatch_ready {q seq k : Nat} {p : Item} {rec_ : List Byte} (hp : s.item ⟨q, seq, none⟩ = some p)
    (hG : s.graph (s.queueChamber q) (fieldAt p.line 0x10 1) = some G) (hrec : G.nodes[k]? = some rec_) (hkind : p.kind = kindGraph)
    (hend : p.ending = none) (hnot : p.ended.any (fun e => e.1 == k) = false) (hitem : s.item ⟨q, seq, some k⟩ = none)
    (hfail : firstFailure p.ended = none)
    (hdeps : ((List.range (fieldAt rec_ 0x40 1)).all (fun d => p.ended.any (fun e => e.1 == fieldAt rec_ (0x48 + 2 * d) 2))) = true) :
    exec (.graphNodeDispatch q seq k) s =
      .next (s.nodeStarts (Item.fetched ⟨q, seq, some k⟩ (s.nodeItem (s.queueChamber q) G p.version rec_) p.epoch s.now)) := by
  have hready : ((List.range (fieldAt rec_ 0x40 1)).map (fun d => fieldAt rec_ (0x48 + 2 * d) 2)).all
      (fun d => p.ended.any (fun e => e.1 == d)) = true := by
    rw [List.all_map]
    exact hdeps
  refine next_congr ?_
  rw [hp]
  dsimp only
  rw [hG]
  dsimp only
  rw [hrec]
  dsimp only
  rw [if_neg (by rw [hready, hkind, hend, hnot, hitem, hfail]; decide)]
  rfl

end

/-- Settles O49: the GO writes by who may write the set and the order of R503, then what a running CREATE or PATCH and a node do. -/
theorem graphCommands : Obligations.GraphCommands := by
  unfold Obligations.GraphCommands
  intro s r n g hn hg
  refine ⟨fun hm hb hl => ⟨⟨_, execGraphCreate_may hm, State.gcmd_begins hb hl (by decide) g⟩,
      ⟨_, execPatch_may hm, State.gcmd_begins hb hl (by decide) _⟩, fun G hf hG => graphDestroy_stored hn hb hl hg hm hf hG,
      graphDestroy_absent hn hb hl hm⟩,
    graphCommands_busy, graphCommands_denied,
    ⟨fun h => next_congr (State.gcmdRun_other h), fun h => next_congr (State.gcmdRun_other h),
      fun hb hop hl => next_congr (State.gcmdRun_notLive hb hop hl), fun hb hop hl => next_congr (State.gcmdRun_notLive hb hop hl),
      fun hb hop hl ha hw => next_congr (State.gcmdRun_local hb hop hl ha hw),
      fun hb hop hl ha hw => next_congr (State.gcmdRun_local hb hop hl ha hw)⟩,
    fun op va h img s1 s2 hcmd hh himg => ⟨State.graphCreate_bad hcmd hh himg,
      fun o s3 => State.graphCreate_spec hcmd hh himg⟩,
    fun op va b G cur buf new old s1 s2 s3 s4 o q hcmd hb hbg hG hd hcur hbuf hlen hroom hplace hnew ho hold hwrite => ?_,
    fun q seq k h => graphNodeDispatch_absent h k,
    fun q seq k p G rec_ hp hG hrec hkind hend hnot hitem hfail hdeps => ?_⟩
  · rw [State.graphPatch_patches hg hcmd hb hbg hG hd hcur hbuf hlen hroom hplace hnew]
    exact State.patchBuffer_spec ho hold hwrite hd
  · have hready := graphNodeDispatch_ready hp hG hrec hkind hend hnot hitem hfail hdeps
    exact ⟨fun hk => hready.trans (next_congr (State.nodeStarts_marker hk)),
      fun h hk hpick => hready.trans (next_congr (State.nodeStarts_picked hk hpick))⟩

end Sys2Proof.Machine
end

section
/-! PROOFS. O50: the life of an item, from its fetch to its resumption (R504, R509 to R517, R523, R547, R553, R558 to R563). -/

namespace Sys2Proof.Machine

section

variable {s t : State} {n g q seq c u : Nat} {i : Item} {k : ItemKey}

/-! ### Fetch and admission (R504, R548, R550) -/

theorem itemFetch_idle (h0 : s.fetchQueues n 0 = []) (h1 : s.fetchQueues n 1 = []) : exec (.itemFetch n) s = .next s := by
  refine next_congr ?_
  rw [h0, h1]
  rfl

theorem itemFetch_local {cls : Nat} {v : State}
    (hcls : (cls = 0 ∧ s.fetchQueues n 0 ≠ []) ∨ (cls = 1 ∧ s.fetchQueues n 0 = []))
    (hturn : s.turn n cls (s.fetchQueues n cls) = (some q, v)) (ha : s.awaitsNoRead (.fetch q))
    (hw : (((s.asksAs (.fetch q)).turn n cls (s.fetchQueues n cls)).2.fetchFrom q none).ms.wanted = []) :
    exec (.itemFetch n) s =
      .next ((((s.asksAs (.fetch q)).turn n cls (s.fetchQueues n cls)).2.fetchFrom q none).readAll (.fetch q)).deliver := by
  have hqs : (if (s.fetchQueues n 0).isEmpty then (1, s.fetchQueues n 1) else (0, s.fetchQueues n 0)) =
      (cls, s.fetchQueues n cls) := by
    obtain ⟨rfl, h⟩ | ⟨rfl, h⟩ := hcls
    · exact if_neg (by simpa using h)
    · exact if_pos (by simpa using h)
  refine next_congr ?_
  dsimp only
  rw [hqs]
  dsimp only
  rw [hturn]
  exact congrArg State.deliver (State.remotely_local
    (run := fun s' => (s'.turn n cls (s.fetchQueues n cls)).2.fetchFrom q none) ha hw)

theorem State.fetchFrom_reads {b : List Byte} {v : State}
    (h : (s.bumpWrap GFE_Q_FETCHED_COUNT 1 q).readVa ((s.bumpWrap GFE_Q_FETCHED_COUNT 1 q).reqGfe (s.queueChamber q)) (s.queueChamber q)
      ((s.queue q).ring + 64 * (s.fget GFE_Q_FETCHED_COUNT q % 2 ^ (s.queue q).logSize)) 64 = (.ok b, v)) :
    s.fetchFrom q none =
      v.admitItem (Item.fetched ⟨q, s.fget GFE_Q_FETCHED_COUNT q, none⟩ b (v.fget GFE_Q_STATE_EPOCH q) v.now) := by
  unfold State.fetchFrom
  dsimp only
  rw [h]

theorem State.admitItem_launch (h : s.admission i = none) (hk : i.kind = kindLaunch) :
    s.admitItem i = { s with items := s.items ++ [i] } := by
  unfold State.admitItem
  dsimp only
  rw [h]
  exact (if_neg (by rw [hk]; decide)).trans (if_neg (by rw [hk]; decide))

theorem State.admitItem_fails {code : Nat} (h : s.admission i = some code) : s.admitItem i =
    (if code = 0x40 then s else s.bump GFE_SCH_REFUSED_COUNT 1 (s.queueChamber i.key.queue)).finish
      { i with phase := .gfe, ending := some (code, 0) } := by
  unfold State.admitItem
  dsimp only
  rw [h]
  dsimp only
  by_cases hc : code = 0x40
  · subst hc
    rfl
  · have hne : (code != cFormat) = true := by simpa [cFormat] using hc
    rw [if_neg hc, if_pos hne]

/-! ### An item that waits alone (R509, R510) -/

/-- No item goes before itself. -/
theorem ahead_self (a : Nat) : ahead a a = 0 := by
  unfold ahead
  omega

section

variable (hitems : s.items = [i])
include hitems

theorem State.inOrderOk_alone : s.inOrderOk i = true := by
  simp [State.inOrderOk, hitems, ahead_self]

theorem State.modItem_alone (f : Item → Item) : s.modItem i.key f = { s with items := [f i] } := by
  rw [State.modItem, hitems]
  simp

theorem State.backlog_alone (hp : i.phase = .backlog) (hc : s.queueClass i.key.queue < 2) (hn : s.queueChamber i.key.queue = n) :
    s.backlog n 0 ++ s.backlog n 1 = [i] := by
  simp only [State.backlog, hitems, List.filter_cons, List.filter_nil, hp, hn]
  obtain h | h : s.queueClass i.key.queue = 0 ∨ s.queueClass i.key.queue = 1 := by omega
  · simp [h]
  · simp [h]

end

theorem itemDispatch_idle (h : ∀ i ∈ s.items, i.phase ≠ .backlog) (n : Nat) : exec (.itemDispatch n) s = .next s := by
  have hb : ∀ cls, s.backlog n cls = [] := fun cls => List.filter_eq_nil_iff.mpr fun i hi hp => by
    simp only [Bool.and_eq_true, beq_iff_eq] at hp
    exact h i hi hp.1.1
  refine next_congr ?_
  simp [hb, argMin]

theorem itemDispatch_alone (hitems : s.items = [i]) (hp : i.phase = .backlog) (hn : s.queueChamber i.key.queue = n)
    (hc : s.queueClass i.key.queue < 2) (hk : i.kind = kindLaunch) (hpick : s.pickGallery i = some g) :
    exec (.itemDispatch n) s = .next { s with items := [{ i with phase := .lsq g s.now }] } := by
  have htask : (i.kind == kindTask) = false := by rw [hk]; rfl
  have hwaits : (i.kind != kindMessage && s.inOrderOk i && ((s.pickGallery i).isSome || (i.kind == kindTask && s.tasksFull i))) = true := by
    rw [State.inOrderOk_alone hitems, hpick, hk]
    rfl
  refine next_congr ?_
  dsimp only
  rw [State.backlog_alone hitems hp hc hn, List.filter_cons, if_pos hwaits, List.filter_nil]
  have hfirst : s.items.filter (fun j => [i].any (fun l => l.key == j.key)) = [i] := by simp [hitems]
  rw [hfirst]
  dsimp only [argMin]
  rw [if_neg (by simp [htask]), hpick]
  refine (if_neg (by rw [hk]; decide)).trans ?_
  exact State.modItem_alone hitems _

/-! ### ITEM_BIND (R52, R511) -/

theorem itemBind_idle (h : s.lsqItems g = []) : exec (.itemBind g) s = .next s := by
  refine next_congr ?_
  simp [h, argMin]

/-- A first item bound to core `c`, its strand `u` started: the counts and the trace follow. -/
def State.bound (s : State) (i : Item) (c u : Nat) : State :=
  ({ s with ms := s.ms.acquire c 2 }.bump64 LSQ_BOUND_LO_COUNT LSQ_BOUND_HI_COUNT 1 (c / 8)).traceBind c u i.key.queue i.key.seq i.tag

theorem State.bound_spec (s : State) (i : Item) (c u : Nat) : (s.bound i c u).mem = s.mem ∧ (s.bound i c u).strands = s.strands ∧
    (s.bound i c u).items = s.items := by
  obtain ⟨hmem, hstrands, hitems, -⟩ := ((State.KeepsWork.refl { s with ms := s.ms.acquire c 2 }).bump64 (lo := LSQ_BOUND_LO_COUNT)
    (hi := LSQ_BOUND_HI_COUNT) (n := 1) (i := c / 8) (j := 0)).trans (State.keepsWork_trace _ c u trItemBind
      (leBytes 2 i.key.queue ++ leBytes 4 i.key.seq ++ leBytes 4 i.tag))
  exact ⟨hmem, hstrands, hitems⟩

/-- Item `i` as it is bound to strand `u` of core `c` that no other item shares. -/
def Item.boundTo (i : Item) (c u now : Nat) : Item :=
  { i with phase := .bound c u, boundAt := now, waitNs := saturate 0xFFFF_FFFF (now - i.fetchAt), ratioAt := now, solo := i.solo && true }

theorem State.bind_alone {a : Nat} (hitems : s.items = [i]) (hp : i.phase = .lsq g a) (hf : s.lowestFree c = some u) :
    s.bind i c = (({ s with items := [i.boundTo c u s.now] } : State).setStrand c u (Strand.start i s.tb s.now)).bound i c u := by
  unfold State.bind
  rw [hf]
  extract_lets on alone s1
  have halone : alone = true := by
    simp only [alone, hitems, List.filter_cons, List.filter_nil, on, hp]
    rfl
  have h1 : s1 = s := if_pos halone
  dsimp only
  rw [h1, halone, State.modItem_alone hitems]
  rfl

theorem itemBind_alone {a : Nat} (hitems : s.items = [i]) (hp : i.phase = .lsq g a) (hk : i.kind = kindLaunch)
    (hs : s.scanning g = false) (hpick : s.pickCore g i = some c) (hf : s.lowestFree c = some u) (hu : u < 8192) :
    ∃ s' j, exec (.itemBind g) s = .next s' ∧ s'.strand c u = Strand.start i s.tb s.now ∧ s'.items = [j] ∧ j.key = i.key ∧
      j.phase = .bound c u ∧ j.boundAt = s.now ∧ s.KeepsMemory s' ∧ s.KeepsStrandsBut s' c u := by
  have hlsq : s.lsqItems g = [i] := by
    rw [State.lsqItems, hitems]
    simp [hp]
  have htask : (i.kind == kindTask) = false := by rw [hk]; rfl
  have hexec : exec (.itemBind g) s = .next (s.bind i c) := by
    refine next_congr ?_
    dsimp only
    rw [hlsq, List.filter_cons, if_pos (by rw [hs, hpick]; simp), List.filter_nil]
    dsimp only [argMin]
    rw [if_neg (by simp [htask]), hpick]
  refine ⟨_, i.boundTo c u s.now, hexec, ?_⟩
  rw [State.bind_alone hitems hp hf]
  obtain ⟨hmem, hstrands, hitems'⟩ :=
    (({ s with items := [i.boundTo c u s.now] } : State).setStrand c u (Strand.start i s.tb s.now)).bound_spec i c u
  refine ⟨?_, hitems', rfl, rfl, rfl, State.keepsMemory_of_mem hmem, fun d v hv hne => ?_⟩
  · rw [State.strand, hstrands]
    exact State.strand_setStrand_self _ c u _
  · rw [State.strand, hstrands]
    exact State.strand_setStrand_ne { s with items := [i.boundTo c u s.now] } _ hu hv hne

/-! ### Markers and messages (R509, R516, R517) -/

theorem State.item_key (h : s.item k = some i) : i.key = k := by simpa using List.find?_some h

theorem markerEnd_absent (h : s.item ⟨q, seq, none⟩ = none) : exec (.markerEnd q seq) s = .next s := by
  refine next_congr ?_
  rw [h]

theorem markerEnd_ends (h : s.item ⟨q, seq, none⟩ = some i) (hk : i.kind = kindMarker) (hp : i.phase = .gfe)
    (hall : s.items.all (fun j => j.key.queue != q || j.key.seq == seq || ahead j.key.seq seq < 2 ^ 31) = true) :
    exec (.markerEnd q seq) s = .next (s.endItem ⟨q, seq, none⟩ 0 0) := by
  refine next_congr ?_
  rw [h]
  refine (if_pos ⟨hk, hp, hall⟩).trans ?_
  rw [State.item_key h]
  rfl

theorem messageDispatch_idle (h : s.longestTaker q = none) : exec (.messageDispatch q) s = .next s := by
  refine next_congr ?_
  rw [h]
  cases (s.itemsOf q).find? (fun i => i.kind == kindMessage && i.phase == .backlog && s.inOrderOk i) <;> rfl

theorem messageDispatch_takes {w : Word64}
    (hi : (s.itemsOf q).find? (fun i => i.kind == kindMessage && i.phase == .backlog && s.inOrderOk i) = some i)
    (ht : s.longestTaker q = some (c, u)) (hw : (s.strand c u).ir = some w) (hu : u < 8192) :
    ∃ s', exec (.messageDispatch q) s = .next s' ∧ s.KeepsMemory s' ∧ s.KeepsStrandsBut s' c u ∧
      s'.strand c u = { (s.strand c u).setPair (rdOf w) ((s.queue q).ring + 64 * (i.key.seq % 2 ^ (s.queue q).logSize)) with
        taken := some i.key, wait := .none, pc := ((s.strand c u).pc + 8) % 2 ^ 57, ir := none } := by
  refine ⟨_, next_congr (by rw [hi, ht]), State.keepsMemory_of_mem ?_, ?_, ?_⟩
  · rw [State.modItem_mem, State.setStrand_mem]
  · exact fun d v hv hne => (State.strand_modItem _ _ _ _ _).trans (s.strand_setStrand_ne _ hu hv hne)
  · dsimp only
    rw [State.strand_modItem, State.strand_setStrand_self, hw, Strand.setPair_pc]

/-! ### Copies (R443, R513, R514, R536) -/

section

variable {d : Nat} (hk : s.item k = some i) (hp : i.phase = .mover g d)
include hk hp

theorem copyComplete_waits (h : s.copyMay i g d = false ∨ s.copyBehind i g d = true) : exec (.copyComplete k) s = .next s := by
  refine next_congr ?_
  rw [hk]
  dsimp only
  rw [hp]
  refine if_pos ?_
  obtain h | h := h <;> simp [h]

theorem copyComplete_runs (hmay : s.copyMay i g d = true) (hfirst : s.copyBehind i g d = false) (ha : s.awaitsNoRead (.copy k))
    (hw : ((s.asksAs (.copy k)).copyRun i g d).ms.wanted = []) :
    exec (.copyComplete k) s = .next (((s.asksAs (.copy k)).copyRun i g d).readAll (.copy k)).deliver := by
  refine next_congr ?_
  rw [hk]
  dsimp only
  rw [hp]
  exact (if_neg (by simp [hmay, hfirst])).trans (congrArg State.deliver (State.remotely_local (run := fun s => s.copyRun i g d) ha hw))

theorem dmvAbortAck_idle (h : i.ending = none ∨ i.unitDone = true) : exec (.dmvAbortAck k) s = .next s := by
  refine next_congr ?_
  rw [hk]
  dsimp only
  rw [hp]
  refine if_pos ?_
  obtain h | h := h <;> simp [h]

theorem dmvAbortAck_stops (hend : i.ending.isSome = true) (hdone : i.unitDone = false) :
    let lines := (s.draw (fieldAt i.line 0x20 4 / 64)).1
    let v := (s.draw (fieldAt i.line 0x20 4 / 64)).2
    let u := (v.unlessRemote (.copy k) (fun s => s.copyPart i g d lines)).forget (.copy k)
    exec (.dmvAbortAck k) s = .next (((((u.bump64 DMV_BYTES_LO_COUNT DMV_BYTES_HI_COUNT (64 * lines) g d).bump
      DMV_ABORTS_COUNT 1 g d).bump LSQ_ABORTS_COUNT 1 g).modItem k
        (fun j => { j with unitDone := true, copied := 64 * lines })).settle k).deliver := by
  refine next_congr ?_
  rw [hk]
  dsimp only
  rw [hp]
  exact if_neg (by simp [Option.isNone_eq_false_iff.mpr hend, hdone])

end

theorem State.copyRun_fault {d : Nat} {f : MFault} {v : State}
    (h : s.readVa (reqMover g d) (s.queueChamber i.key.queue) (fieldAt i.line 0x10 8) (fieldAt i.line 0x20 4) = (.error f, v)) :
    s.copyRun i g d = v.copyOver i.key g d (fieldAt i.line 0x20 4) (some f) := by
  unfold State.copyRun
  dsimp only
  rw [h]

theorem State.copyRun_whole {d : Nat} {bs : List Byte} {v w : State} (hclose : bitOf (fieldAt i.line 0x24 1) 0 = false)
    (h : s.readVa (reqMover g d) (s.queueChamber i.key.queue) (fieldAt i.line 0x10 8) (fieldAt i.line 0x20 4) = (.ok bs, v))
    (hlen : bs.length = fieldAt i.line 0x20 4)
    (hout : v.copyOut (reqMover g d) (s.queueChamber i.key.queue) i.key (copyPieces (fieldAt i.line 0x18 8) (fieldAt i.line 0x20 4)) bs =
      (none, w)) :
    s.copyRun i g d = (((w.modItem i.key (fun j => { j with unitDone := true, copied := fieldAt i.line 0x20 4 })).forget
      (.copy i.key)).bump64 DMV_BYTES_LO_COUNT DMV_BYTES_HI_COUNT (fieldAt i.line 0x20 4) g d).endItem i.key 0 0 := by
  unfold State.copyRun
  dsimp only
  rw [h]
  dsimp only
  rw [hclose, if_neg Bool.false_ne_true, List.take_of_length_le (Nat.le_of_eq hlen), hout]
  rfl

/-! ### Ageing and time-outs (R283, R523, R547, R553) -/

theorem ageExpiry_strand (hm : (s.strand c u).mode = .ready) (hdue : (s.strand c u).readyAt + s.ageNs (s.coreChamber c) ≤ s.tb) :
    exec (.ageExpiry (.strand c u)) s = .next (s.setStrand c u { s.strand c u with aged := true }) :=
  next_congr (if_pos ⟨hm, hdue⟩)

theorem ageExpiry_early (h : (s.strand c u).mode ≠ .ready ∨ s.tb < (s.strand c u).readyAt + s.ageNs (s.coreChamber c)) :
    exec (.ageExpiry (.strand c u)) s = .next s :=
  next_congr (if_neg fun hc => h.elim (fun hm => hm hc.1) fun hd => absurd hc.2 (Nat.not_le.mpr hd))

/-- An item changed by a function that keeps keys is the changed one. -/
theorem State.item_modItem_self {f : Item → Item} (hf : ∀ j, (f j).key = j.key) (h : s.item k = some i) :
    (s.modItem k f).item k = some (f i) := by
  have hkey : (fun j => j.key == k) ∘ (fun j : Item => if j.key == k then f j else j) = fun j => j.key == k := by
    funext j
    simp only [Function.comp_apply]
    split
    · rw [hf]
    · rfl
  rw [State.item, State.modItem, List.find?_map, hkey, ← State.item, h, Option.map_some, if_pos (by simp [State.item_key h])]

/-- What AGE_EXPIRY makes of an item. -/
def State.aging (s : State) (q : Nat) (i : Item) : Item :=
  let waits := match i.phase with | .backlog => true | .lsq _ _ => true | _ => false
  if waits && i.fetchAt + s.ageNs (s.queueChamber q) ≤ s.now then { i with aged := true } else i

theorem State.aging_key (s : State) (q : Nat) (i : Item) : (s.aging q i).key = i.key := by
  unfold State.aging
  extract_lets waits
  split <;> rfl

theorem State.aging_waits (hp : i.phase = .backlog ∨ ∃ a, i.phase = .lsq g a) (hdue : i.fetchAt + s.ageNs (s.queueChamber q) ≤ s.now) :
    s.aging q i = { i with aged := true } := by
  unfold State.aging
  obtain hp | ⟨a, hp⟩ := hp <;> rw [hp] <;> exact if_pos (by simp [hdue])

theorem ageExpiry_item (h : s.item ⟨q, seq, none⟩ = some i) (hp : i.phase = .backlog ∨ ∃ a, i.phase = .lsq g a)
    (hdue : i.fetchAt + s.ageNs (s.queueChamber q) ≤ s.now) :
    ∃ s', exec (.ageExpiry (.item q seq)) s = .next s' ∧ s'.item ⟨q, seq, none⟩ = some { i with aged := true } ∧
      s' = { s with items := s'.items } := by
  refine ⟨s.modItem ⟨q, seq, none⟩ (s.aging q), rfl, ?_, rfl⟩
  rw [State.item_modItem_self (s.aging_key q) h, State.aging_waits hp hdue]

theorem itemTimeout_item (h : s.item ⟨q, seq, none⟩ = some i) :
    let due := (s.queue q).timeoutUs ≠ 0 ∧ i.fetchAt + 1000 * (s.queue q).timeoutUs ≤ s.now
    (due → s.appendWaits i.key = false → exec (.itemTimeout q seq) s = .next (s.abortItem i.key 0x21)) ∧
    (due → s.appendWaits i.key = true → exec (.itemTimeout q seq) s =
      .next (((s.bump ATU_MIDSTREAM_COUNT 1 (s.queueChamber q)).dropAppend i.key 0x12).abortItem i.key 0x12)) ∧
    (¬due → exec (.itemTimeout q seq) s = .next s) := by
  refine ⟨fun hdue hw => ?_, fun hdue hw => ?_, fun hdue => ?_⟩ <;> refine next_congr ?_ <;> rw [h]
  · exact (if_pos hdue).trans (if_neg (by simp [hw]))
  · exact (if_pos hdue).trans (if_pos hw)
  · exact if_neg hdue

end

end Sys2Proof.Machine
end

section
/-! PROOFS. O50: pre-emption, suspension and resumption (R440, R545, R558 to R564). -/

namespace Sys2Proof.Machine

section

variable {s t : State} {n g q c u : Nat} {i v : Item} {k : ItemKey}

/-! ### PREEMPT (R558, R559, R564) -/

theorem preempt_idle (h : s.fget GFE_SCH_CTRL_PREEMPT_MAX ((s.chamberOf g).getD 16) = 0 ∨ s.saveArea ((s.chamberOf g).getD 16) = 0 ∨
      s.scanning g = true ∨ (s.lsqItems g).filter (fun i => s.queueClass i.key.queue == 0 && (s.pickCore g i).isNone) = []) :
    exec (.preempt g) s = .next s := by
  refine next_congr ?_
  dsimp only
  split
  · rfl
  · next hmay =>
    have hnone : (s.lsqItems g).filter (fun i => s.queueClass i.key.queue == 0 && (s.pickCore g i).isNone) = [] := by
      obtain h | h | h | h := h
      · simp [h] at hmay
      · simp [h] at hmay
      · simp [h] at hmay
      · exact h
    rw [hnone]
    rfl

theorem preempt_victim (hmost : s.fget GFE_SCH_CTRL_PREEMPT_MAX ((s.chamberOf g).getD 16) ≠ 0)
    (harea : s.saveArea ((s.chamberOf g).getD 16) ≠ 0) (hscan : s.scanning g = false)
    (hone : (s.lsqItems g).filter (fun i => s.queueClass i.key.queue == 0 && (s.pickCore g i).isNone) = [i])
    (hcore : argMin (fun c => s.saveBytes c ((s.victims c i).getD [])) ((s.liveCores g).filter (fun c =>
      s.reserveAdmits ((s.chamberOf g).getD 16) c i && (s.victims c i).isSome && 0 < s.freeStrands c &&
        (i.kind != kindTask || s.tasksOf c < 1024))) = some c)
    (hv : s.victims c i = some [v]) :
    exec (.preempt g) s = .next (if s.fget GFE_SCH_CTRL_PREEMPT_MAX ((s.chamberOf g).getD 16) ≤ v.preempts then s.abortOne v.key 0x15
      else s.setStrand c v.strandIx { s.strand c v.strandIx with victim := true }) := by
  refine next_congr ?_
  dsimp only
  rw [if_neg (by simp [hmost, harea, hscan]), hone, List.find?_cons_of_pos (by rw [hcore]; rfl)]
  dsimp only
  rw [hcore]
  dsimp only
  rw [hv]
  rfl

/-! ### SUSPEND_DONE (R440, R561) -/

theorem suspendDone_idle (h : (s.strand c u).victim = false) : exec (.suspendDone c u) s = .next s := by
  refine next_congr ?_
  dsimp only
  cases (s.strand c u).item with
  | none => rfl
  | some k => exact if_pos (by simp [h])

/-- A victim whose range has been written: its strand is suspended, and the pre-emption is counted. -/
def State.suspends (s : State) (k : ItemKey) (c u n : Nat) (x : Strand) : State :=
  let s := s.setStrand c u { x with mode := .suspended, run := 0 }
  let s := s.bump GFE_SCH_PREEMPTS_COUNT 1 n
  s.modItem k (fun j => { j with phase := .suspended c u s.now, preempts := (j.preempts + 1) % 2 ^ 16 })

theorem State.suspends_spec (s : State) (k : ItemKey) (n : Nat) (x : Strand) (hu : u < 8192) :
    (s.suspends k c u n x).strand c u = { x with mode := .suspended, run := 0 } ∧ s.KeepsMemory (s.suspends k c u n x) ∧
      s.KeepsStrandsBut (s.suspends k c u n x) c u := by
  have hstrand : ∀ d v, (s.suspends k c u n x).strand d v = (s.setStrand c u { x with mode := .suspended, run := 0 }).strand d v :=
    fun d v => (State.strand_modItem _ _ _ _ _).trans (State.strand_bump _ _ _ _ _ _ _)
  refine ⟨(hstrand c u).trans (s.strand_setStrand_self c u _), State.keepsMemory_of_mem ?_, fun d v hv hne =>
    (hstrand d v).trans (s.strand_setStrand_ne _ hu hv hne)⟩
  rw [State.suspends, State.modItem_mem, State.bump_mem, State.setStrand_mem]

theorem suspendDone_writes {f : Option MFault} {s1 : State} (hk : (s.strand c u).item = some k) (hvictim : (s.strand c u).victim = true)
    (hmode : (s.strand c u).mode ≠ .suspended)
    (hops : s.engOps.any (fun o => o.core == c && o.strand == u && o.eng != .mxe) = false) (howes : s.ms.owes c u s.ms.nextId = false)
    (hi : s.item k = some i) (hend : i.ending = none)
    (hw : s.writeVa ⟨c / 8, 0xF1⟩ (s.coreChamber c) (.copy k) k.queue (s.saveSlice (s.coreChamber c) c + (s.strand c u).liveOff)
      (s.bytes (scratchBase c + (s.strand c u).liveOff) (s.strand c u).liveLen) = (f, s1)) :
    (∀ e, f = some e → exec (.suspendDone c u) s = .next (s1.deliver.failStrand c u e.code e.cause)) ∧
    (f = none → exec (.suspendDone c u) s = .next (s1.deliver.suspends k c u (s.coreChamber c) (s.strand c u))) := by
  have hgo : (!(s.strand c u).victim || (s.strand c u).mode == .suspended ||
      s.engOps.any (fun o => o.core == c && o.strand == u && o.eng != .mxe) || s.ms.owes c u s.ms.nextId) = false := by
    rw [hvictim, hops, howes]
    simpa using hmode
  have hexec : exec (.suspendDone c u) s = .next (match (f, s1) with
      | (some f, s) => s.deliver.failStrand c u f.code f.cause
      | (none, t) => t.deliver.suspends k c u (s.coreChamber c) (s.strand c u)) := by
    refine next_congr ?_
    dsimp only
    rw [hk]
    dsimp only
    rw [if_neg (by rw [hgo]; decide), hi]
    dsimp only
    rw [if_neg (by simp [hend]), hw, ← hk]
    cases f <;> rfl
  exact ⟨fun e he => by rw [hexec, he], fun he => by rw [hexec, he]⟩

/-! ### RESUME (R563) -/

theorem resume_idle (h : ∀ i ∈ s.items, ∀ d u a, i.phase ≠ .suspended d u a) : exec (.resume c) s = .next s := by
  have hnone : ∀ p : Item → Bool, (∀ i, (∀ d u a, i.phase ≠ .suspended d u a) → p i = false) → s.items.filter p = [] := fun p hp =>
    List.filter_eq_nil_iff.mpr fun i hi => by simp [hp i (h i hi)]
  refine next_congr ?_
  dsimp only
  rw [hnone _ fun i hi => ?_]
  · rfl
  · split
    · next hphase => exact absurd hphase (hi _ _ _)
    · rfl

/-- The oldest suspension of core `c`. -/
def State.oldestSuspension (s : State) (c : Nat) : Option Item :=
  argMin (fun (i : Item) => match i.phase with | .suspended _ _ a => a | _ => 0)
    (s.items.filter (fun i => match i.phase with | .suspended d _ _ => d == c | _ => false))

/-- RESUME of the suspension found. -/
def State.resumeFound (s : State) (c : Nat) (found : Option Item) : State :=
  match found with
  | none => s
  | some i =>
    let x := s.strand c i.strandIx
    let clash := (s.boundStrands c).any (fun e => e.2.mode != .suspended &&
      overlaps e.2.liveOff e.2.liveLen x.liveOff x.liveLen)
    if (s.coreLeft c).1 < i.scratch ∨ (s.coreLeft c).2 < i.accum ∨ clash = true ∨ s.scanning (c / 8) = true ∨
      s.coreLive c = false then s
    else (s.remotely (.copy i.key) i.key.queue (fun f s => s.failStrand c i.strandIx f.code f.cause)
      (fun s => s.restore i c i.strandIx)).deliver

theorem execResume_found (s : State) (c : Nat) : exec (.resume c) s = .next (s.resumeFound c (s.oldestSuspension c)) := by
  refine next_congr ?_
  unfold State.oldestSuspension
  dsimp only
  generalize argMin _ _ = found
  cases found <;> rfl

theorem resume_first (h : s.oldestSuspension c = some i) :
    let x := s.strand c i.strandIx
    let clash := (s.boundStrands c).any (fun e => e.2.mode != .suspended && overlaps e.2.liveOff e.2.liveLen x.liveOff x.liveLen)
    let held := (s.coreLeft c).1 < i.scratch ∨ (s.coreLeft c).2 < i.accum ∨ clash = true ∨ s.scanning (c / 8) = true ∨
      s.coreLive c = false
    (held → exec (.resume c) s = .next s) ∧
    (¬held → s.awaitsNoRead (.copy i.key) → ((s.asksAs (.copy i.key)).restore i c i.strandIx).ms.wanted = [] →
      exec (.resume c) s = .next (((s.asksAs (.copy i.key)).restore i c i.strandIx).readAll (.copy i.key)).deliver) := by
  intro x clash held
  rw [execResume_found, h]
  exact ⟨fun hheld => next_congr (if_pos hheld), fun hfree ha hw => next_congr ((if_neg hfree).trans
    (congrArg State.deliver (State.remotely_local (run := fun s => s.restore i c i.strandIx) ha hw)))⟩

theorem State.restore_reads {bs : List Byte} {s1 : State} (hu : u < 8192)
    (h : s.readVa ⟨c / 8, 0xF1⟩ (s.coreChamber c) (s.saveSlice (s.coreChamber c) c + (s.strand c u).liveOff) (s.strand c u).liveLen =
      (.ok bs, s1)) :
    (s.restore i c u).mem = (s1.setBytes (scratchBase c + (s.strand c u).liveOff) bs).mem ∧ s1.KeepsStrandsBut (s.restore i c u) c u ∧
    (s.restore i c u).strand c u =
      { s.strand c u with mode := if (s.strand c u).wait = .none then .ready else .waiting, victim := false, readyAt := s1.tb } := by
  unfold State.restore
  dsimp only
  rw [h]
  dsimp only
  refine ⟨?_, fun d v hv hne => ?_, ?_⟩
  · rw [State.modItem_mem]
    rfl
  · rw [State.strand_modItem]
    exact State.strand_setStrand_ne (s1.setBytes (scratchBase c + (s.strand c u).liveOff) bs) _ hu hv hne
  · rw [State.strand_modItem]
    exact State.strand_setStrand_self (s1.setBytes (scratchBase c + (s.strand c u).liveOff) bs) c u _

end

/-- Settles O50: each command of an item's life by its one case, in the order in which an item meets them. -/
theorem itemLife : Obligations.ItemLife := by
  unfold Obligations.ItemLife
  intro s n g c t
  refine ⟨itemFetch_idle, fun cls q v hcls hturn ha hw => itemFetch_local hcls hturn ha hw, fun q b v h => State.fetchFrom_reads h,
    fun i => ⟨State.admitItem_launch, fun code => State.admitItem_fails⟩,
    fun h => itemDispatch_idle h n, fun i hi hp hn hc hk hpick => itemDispatch_alone hi hp hn hc hk hpick,
    itemBind_idle, fun i a hi hp hk hs hpick hf _ ht => itemBind_alone hi hp hk hs hpick hf ht,
    fun q seq => markerEnd_absent, fun q seq i => markerEnd_ends,
    fun q => messageDispatch_idle, fun q i w hi htaker hw _ ht => messageDispatch_takes hi htaker hw ht,
    fun k i d hk hp => ⟨copyComplete_waits hk hp, copyComplete_runs hk hp⟩,
    fun i d => ⟨fun f u => State.copyRun_fault, fun bs u v hclose h hlen hout => State.copyRun_whole hclose h hlen hout⟩,
    fun k i d hk hp => ⟨dmvAbortAck_idle hk hp, dmvAbortAck_stops hk hp⟩,
    ⟨ageExpiry_strand, ageExpiry_early⟩,
    fun q seq i h hp hdue => ageExpiry_item h hp hdue, fun q seq i h => itemTimeout_item h,
    ⟨preempt_idle, fun i v => preempt_victim⟩,
    suspendDone_idle, fun k i f s1 hk hvictim hmode hops howes hi hend hw _ ht => ?_,
    resume_idle, fun i h => ?_, fun i bs s1 _ ht h => State.restore_reads ht h⟩
  · obtain ⟨hfault, hdone⟩ := suspendDone_writes hk hvictim hmode hops howes hi hend hw
    exact ⟨hfault, fun hf => ⟨_, hdone hf, State.suspends_spec _ k _ _ ht⟩⟩
  · obtain ⟨hheld, hfree⟩ := resume_first h
    refine ⟨hheld, fun hs ha hclash hscan hlive => hfree ?_⟩
    rintro (h | h | h | h | h)
    · omega
    · omega
    · exact absurd (hclash.symm.trans h) (by decide)
    · exact absurd (hscan.symm.trans h) (by decide)
    · exact absurd (hlive.symm.trans h) (by decide)

end Sys2Proof.Machine
end

section
/-! PROOFS. O54: lanes and LINK packets (R584, R598 to R601, R608, R609, R613). -/

namespace Sys2Proof.Machine

section

variable {s t : State} {l q k a : Nat} {p : Packet}

/-! ### The lanes of a port in service (R601) -/

theorem State.laneInService_eq (s : State) (l : Nat) :
    s.laneInService l = bitOf (s.fget LNK_PORT_STATUS_IN_SERVICE (l / 4)) (l % 4) := by
  rw [Bool.eq_iff_iff]
  simp only [State.laneInService, State.lanesUp, maskBits, List.contains_iff_mem, List.mem_map, List.mem_filter, List.mem_range]
  constructor
  · rintro ⟨j, ⟨hj, hbit⟩, he⟩
    obtain rfl : j = l % 4 := by omega
    exact hbit
  · exact fun h => ⟨l % 4, ⟨by omega, h⟩, by omega⟩

theorem State.laneInService_congr (h : t.fget LNK_PORT_STATUS_IN_SERVICE (l / 4) = s.fget LNK_PORT_STATUS_IN_SERVICE (l / 4)) :
    t.laneInService l = s.laneInService l := by rw [State.laneInService_eq, State.laneInService_eq, h]

/-- A bit cleared in a mask of four lanes. -/
theorem bitOf_cleared : ∀ m < 16, ∀ k < 4, m - (m &&& 2 ^ k) < 16 ∧ bitOf (m - (m &&& 2 ^ k)) k = false := by decide

/-- A bit set in a mask of four lanes. -/
theorem bitOf_added : ∀ m < 16, ∀ k < 4, m ||| 2 ^ k < 16 ∧ bitOf (m ||| 2 ^ k) k = true := by decide

theorem bitOf_kept : ∀ m < 16, ∀ k < 4, ∀ j < 4, bitOf m j = true → bitOf (m ||| 2 ^ k) j = true := by decide

theorem State.inService_lt (s : State) (q : Nat) : s.fget LNK_PORT_STATUS_IN_SERVICE q < 16 :=
  s.fget_lt LNK_PORT_STATUS_IN_SERVICE q 0

/-! ### A port's state and its lanes' (R613) -/

/-- LNK_PORT_STATUS.STATE becomes at most 2, or stays. -/
theorem State.refreshPort_cases (s : State) (q : Nat) :
    (s.fget LNK_PORT_STATUS_STATE q = 3 ∧ s.refreshPort q = s) ∨
    (s.fget LNK_PORT_STATUS_STATE q ≠ 3 ∧ ∃ v < 3, s.refreshPort q = s.fset LNK_PORT_STATUS_STATE v q) := by
  by_cases h : s.fget LNK_PORT_STATUS_STATE q = 3
  · exact .inl ⟨h, if_pos (by rw [h]; decide)⟩
  · exact .inr ⟨h, _, by split <;> [skip; split] <;> decide, if_neg (by simpa using h)⟩

theorem State.onlyRegs_refreshPort (s : State) (q : Nat) : s.OnlyRegs (s.refreshPort q) := by
  obtain ⟨-, h⟩ | ⟨-, v, -, h⟩ := s.refreshPort_cases q <;> rw [h]
  · exact State.OnlyRegs.refl s
  · exact (State.OnlyRegs.refl s).fset

theorem State.rget_refreshPort (s : State) (h : regAddr LNK_PORT_STATUS q 0 ≠ a) : (s.refreshPort q).rget a = s.rget a := by
  obtain ⟨-, he⟩ | ⟨-, v, -, he⟩ := s.refreshPort_cases q <;> rw [he]
  exact State.rget_fset_ne _ LNK_PORT_STATUS_STATE _ q 0 _ h

/-- A field below STATE, of whatever register. -/
theorem State.fget_refreshPort (s : State) (q i j : Nat) {f : Fld} (hf : f.lo ≤ f.hi) (hlow : f.hi < 30) :
    (s.refreshPort q).fget f i j = s.fget f i j := by
  obtain ⟨-, he⟩ | ⟨-, v, -, he⟩ := s.refreshPort_cases q <;> rw [he]
  exact State.fget_fset_other s LNK_PORT_STATUS_STATE f v q 0 i j (by decide) hf (.inr hlow)

theorem regAddr_laneStatus (q k : Nat) : regAddr LNK_LANE_STATUS q k = 0x9040 + 0x80 * q + 0x10 * k := by
  simp [regAddr, LNK_LANE_STATUS]

theorem regAddr_portStatus (q : Nat) : regAddr LNK_PORT_STATUS q 0 = 0x9000 + 0x80 * q := by simp [regAddr, LNK_PORT_STATUS]

/-- A lane's registers are none of a port's first ones, nor another port's. -/
theorem portStatus_ne_laneStatus (q r : Nat) {k : Nat} (hk : k < 4) : regAddr LNK_PORT_STATUS r 0 ≠ regAddr LNK_LANE_STATUS q k := by
  rw [regAddr_portStatus, regAddr_laneStatus]
  omega

theorem portBytes_ne_laneStatus (q : Nat) {k : Nat} (hk : k < 4) : ∀ r ∈ portByteRegs, regAddr r q 0 ≠ regAddr LNK_LANE_STATUS q k := by
  rw [regAddr_laneStatus]
  simp [portByteRegs, regAddr, LNK_RX_BYTES_LO, LNK_RX_BYTES_HI, LNK_TX_BYTES_LO, LNK_TX_BYTES_HI]
  omega

theorem portBytes_ne_portStatus (q r : Nat) : ∀ e ∈ portByteRegs, regAddr e q 0 ≠ regAddr LNK_PORT_STATUS r 0 := by
  rw [regAddr_portStatus]
  simp [portByteRegs, regAddr, LNK_RX_BYTES_LO, LNK_RX_BYTES_HI, LNK_TX_BYTES_LO, LNK_TX_BYTES_HI]
  omega

/-! ### A lane out of service (R601) -/

theorem State.onlyRegs_laneOut (s : State) (l st : Nat) : s.OnlyRegs (s.laneOut l st) :=
  ((State.OnlyRegs.refl s).fset.fset).trans (State.onlyRegs_refreshPort _ _)

theorem State.laneOut_spec (s : State) (l : Nat) {st : Nat} (hst : st < 4) :
    (s.laneOut l st).fget LNK_LANE_STATUS_STATE (l / 4) (l % 4) = st ∧ (s.laneOut l st).laneInService l = false := by
  obtain ⟨hlt, hbit⟩ := bitOf_cleared _ (s.inService_lt (l / 4)) (l % 4) (by omega)
  have hne := portStatus_ne_laneStatus (l / 4) (l / 4) (k := l % 4) (by omega)
  unfold State.laneOut
  dsimp only
  generalize hm : s.fget LNK_PORT_STATUS_IN_SERVICE (l / 4) - (s.fget LNK_PORT_STATUS_IN_SERVICE (l / 4) &&& 2 ^ (l % 4)) = m at hlt hbit
  have hset := State.fget_fset_of_lt s (f := LNK_PORT_STATUS_IN_SERVICE) (l / 4) 0 (by decide) (show m < 2 ^ 4 from hlt)
  generalize s.fset LNK_PORT_STATUS_IN_SERVICE m (l / 4) = u at hset
  refine ⟨(State.fget_of_rget (State.rget_refreshPort _ hne)).trans (State.fget_fset_of_lt _ _ _ (by decide) hst), ?_⟩
  rw [State.laneInService_eq, State.fget_refreshPort _ _ _ _ (by decide) (by decide),
    State.fget_of_rget (f := LNK_PORT_STATUS_IN_SERVICE) (State.rget_fset_ne u LNK_LANE_STATUS_STATE st (l / 4) (l % 4)
      (regAddr LNK_PORT_STATUS (l / 4) 0) hne.symm), hset, hbit]

theorem mem_smPut {α : Type} [DecidableEq α] {d : Nat → α} {m : List (Nat × α)} {j : Nat} {v : α} {e : Nat × α}
    (h : e ∈ smPut d m j v) : e = (j, v) ∨ e ∈ m := by
  have hset : ∀ m : List (Nat × α), e ∈ smSet m j v → e = (j, v) ∨ e ∈ m := by
    intro m
    induction m with
    | nil => exact fun h => .inl (by simpa [smSet] using h)
    | cons x m ih =>
      intro h
      rw [smSet] at h
      split at h
      · exact (List.mem_cons.mp h).imp_right fun h => h
      · split at h
        · exact (List.mem_cons.mp h).imp_right (List.mem_cons_of_mem _)
        · obtain rfl | h := List.mem_cons.mp h
          · exact .inr List.mem_cons_self
          · exact (ih h).imp_right (List.mem_cons_of_mem _)
  rw [smPut] at h
  split at h
  · exact .inr (List.mem_filter.mp h).1
  · exact hset m h

theorem State.mem_lanes_setLane {x : Lane} {e : Nat × Lane} (h : e ∈ (s.setLane l x).fab.lanes) : e = (l, x) ∨ e ∈ s.fab.lanes :=
  mem_smPut (d := fun _ => Lane.fresh) h

/-- With nothing to send again, packets that wait for lanes change no register. -/
theorem State.rget_flow_empty (htxq : s.fab.txq = []) (hreplay : ∀ e ∈ s.fab.lanes, e.2.replay = []) (a : Nat) :
    s.flow.rget a = s.rget a := by
  have hpend : (s.fab.lanes.filter (fun e => !s.laneInService e.1)).flatMap (fun e => e.2.replay.map (fun p => (e.1 / 4, p))) = [] :=
    List.flatMap_eq_nil_iff.mpr fun e he => by rw [hreplay e (List.mem_filter.mp he).1, List.map_nil]
  unfold State.flow
  dsimp only
  rw [hpend, htxq, List.append_nil, List.foldl_nil]
  exact State.rget_foldl (fun u x => State.rget_setLane u _ _ _) _ s

theorem State.trainLane_starts (hh : s.healthOf (unitLane l) ≠ umber) (hp : bitOf (s.fab.ports.getD (l / 4) (0, 0, 0)).2.1 (l % 4) = true) :
    s.trainLane l = ((s.setLane l { s.lane l with attempts := 0, retryAt := 0, locked := false }).laneOut l 1).flow :=
  if_neg (by rw [hp]; simpa using hh)

theorem State.trainLane_spec (hh : s.healthOf (unitLane l) ≠ umber)
    (hp : bitOf (s.fab.ports.getD (l / 4) (0, 0, 0)).2.1 (l % 4) = true) (htxq : s.fab.txq = [])
    (hreplay : ∀ e ∈ s.fab.lanes, e.2.replay = []) (hx : (s.lane l).replay = []) :
    (s.trainLane l).fget LNK_LANE_STATUS_STATE (l / 4) (l % 4) = 1 ∧ (s.trainLane l).laneInService l = false := by
  rw [State.trainLane_starts hh hp]
  have hlanes : ∀ e ∈ (s.setLane l { s.lane l with attempts := 0, retryAt := 0, locked := false }).fab.lanes, e.2.replay = [] := by
    intro e he
    obtain rfl | he := State.mem_lanes_setLane he
    · exact hx
    · exact hreplay e he
  have htxq' : (s.setLane l { s.lane l with attempts := 0, retryAt := 0, locked := false }).fab.txq = [] := htxq
  generalize s.setLane l { s.lane l with attempts := 0, retryAt := 0, locked := false } = u at hlanes htxq'
  have hfab : (u.laneOut l 1).fab = u.fab := by rw [u.onlyRegs_laneOut l 1]
  have hflow := State.rget_flow_empty (s := u.laneOut l 1) (by rw [hfab]; exact htxq') (by rw [hfab]; exact hlanes)
  obtain ⟨hstate, hservice⟩ := u.laneOut_spec l (st := 1) (by omega)
  exact ⟨(State.fget_of_rget (hflow _)).trans hstate, (State.laneInService_congr (State.fget_of_rget (hflow _))).trans hservice⟩

/-! ### LANE_TRAIN, LANE_TRAIN_RETRY and RETRAIN (R584, R599, R601, R638) -/

theorem laneTrain_other (h : s.laneTraining l = false ∨ (s.lane l).locked = true) (ok : Bool) : exec (.laneTrain l ok) s = .next s :=
  next_congr (if_pos h)

/-- An attempt counted. -/
def State.trainCounted (s : State) : State :=
  { s with hlm := { s.hlm with life := smPut (fun _ => 0) s.hlm.life 4 (smGet (fun _ => 0) s.hlm.life 4 + 1) } }

/-- A lane with codeword lock sends its PARAM. -/
def State.sendParam (s : State) (l : Nat) : State :=
  match s.fab.group with
  | none => s
  | some g =>
    s.sendLink (l / 4) 6 (leBytes 4 g.groupId ++ leBytes 2 g.deviceId ++ leBytes 1 (l / 4) ++ leBytes 1 (l % 4) ++
      leBytes 4 (s.fget SVY_ACTIVE_VER_VER) ++ leBytes 2 768 ++ leBytes 2 768 ++ leBytes 2 64)

theorem State.sendLink_fab (s : State) (port type : Nat) (b : List Byte) : (s.sendLink port type b).fab = s.fab := by
  rw [State.sendLink, State.emit_fab, State.bump64_fab]

theorem State.lane_sendLink (s : State) (port type : Nat) (b : List Byte) (l : Nat) : (s.sendLink port type b).lane l = s.lane l := by
  rw [State.lane, State.sendLink_fab, State.lane]

theorem State.sendLink_hlm (s : State) (port type : Nat) (b : List Byte) : (s.sendLink port type b).hlm = s.hlm := by
  rw [State.sendLink, State.emit_hlm, State.bump64_hlm]

theorem State.sendParam_spec (s : State) (l : Nat) : (s.sendParam l).lane l = s.lane l ∧ (s.sendParam l).hlm = s.hlm ∧
    s.KeepsWork (s.sendParam l) ∧ (s.fab.group.isNone = true → (s.sendParam l).out = s.out) := by
  unfold State.sendParam
  cases h : s.fab.group with
  | none => exact ⟨rfl, rfl, State.KeepsWork.refl s, fun _ => rfl⟩
  | some g => exact ⟨s.lane_sendLink .., s.sendLink_hlm .., s.keepsWork_sendLink .., fun h => nomatch h⟩

section

variable (ht : s.laneTraining l = true) (hx : (s.lane l).locked = false)
include ht hx

theorem laneTrain_locks : ∃ s', exec (.laneTrain l true) s = .next s' ∧ (s'.lane l).locked = true ∧
    smGet (fun _ => 0) s'.hlm.life 4 = smGet (fun _ => 0) s.hlm.life 4 + 1 ∧ s.KeepsWork s' ∧
    (s.fab.group.isNone = true → s'.out = s.out) := by
  refine ⟨(s.trainCounted.setLane l { s.lane l with locked := true }).sendParam l,
    next_congr (if_neg (by simp [ht, hx])), ?_⟩
  obtain ⟨hlane, hhlm, hwork, hout⟩ := (s.trainCounted.setLane l { s.lane l with locked := true }).sendParam_spec l
  refine ⟨by rw [hlane, State.lane_setLane_self], ?_, State.KeepsWork.trans ⟨rfl, rfl, rfl, rfl, rfl, rfl⟩ hwork, hout⟩
  rw [hhlm]
  exact smGet_smPut_self (fun _ => 0) s.hlm.life 4 (smGet (fun _ => 0) s.hlm.life 4 + 1)

theorem laneTrain_fails : exec (.laneTrain l false) s = .next (s.trainCounted.trainFailed l) :=
  next_congr (if_neg (by simp [ht, hx]))

end

theorem State.trainFailed_again (h : (s.lane l).attempts < 2) : s.trainFailed l =
    s.setLane l { s.lane l with attempts := (s.lane l).attempts + 1, locked := false, retryAt := s.now + 10_000_000 } :=
  if_pos (show (s.lane l).attempts + 1 < 3 by omega)

theorem State.trainFailed_third (h : 2 ≤ (s.lane l).attempts) : s.trainFailed l =
    ((s.setLane l { s.lane l with attempts := (s.lane l).attempts + 1, locked := false, retryAt := 0 }).laneOut l 0).report
      (unitLane l) kLaneTrain :=
  if_neg (show ¬(s.lane l).attempts + 1 < 3 by omega)

theorem laneTrainRetry_due (hl : l < 64) (hst : s.fget LNK_LANE_STATUS_STATE (l / 4) (l % 4) = 1) (hr : (s.lane l).retryAt ≠ 0) :
    ((s.lane l).retryAt ≤ s.now → exec (.laneTrainRetry l) s = .next (s.setLane l { s.lane l with retryAt := 0, locked := false })) ∧
    (s.now < (s.lane l).retryAt → exec (.laneTrainRetry l) s = .next s) :=
  ⟨fun h => next_congr (if_neg (by simp [hst, hr]; omega)), fun h => next_congr (if_pos (.inr (.inr (.inr h))))⟩

theorem retrain_owner (hl : l < 64) (r : Requester) : (s.owns r = true → exec (.retrain r (l / 4) (l % 4)) s = .next (s.trainLane l)) ∧
    (s.owns r = false → exec (.retrain r (l / 4) (l % 4)) s = .next s) := by
  have hsame : 4 * (l / 4) + l % 4 = l := by omega
  refine ⟨fun h => ?_, fun h => next_congr (if_neg (by simp [h]))⟩
  refine (next_congr (if_pos ?_)).trans (by rw [hsame])
  simp only [h, Bool.true_and, Bool.and_eq_true, decide_eq_true_eq]
  omega

end

end Sys2Proof.Machine
end

section
/-! PROOFS. O54: PARAM, LINK packets and errors of a lane (R584, R598 to R601, R608, R609, R613). -/

namespace Sys2Proof.Machine

section

variable {s t u : State} {l q k : Nat} {p : Packet}

/-! ### PARAM (R584, R599, R601, R602, R610) -/

theorem param_other (h : s.laneTraining l = false ∨ (s.lane l).locked = false ∨ p.type ≠ ptLink ∨ p.arg ≠ 6) (a : Bool) :
    exec (.param l p a) s = .next s := next_congr (if_pos h)

/-- Whether the partner's PARAM agrees with the group, its members and ASSIGN (R584). -/
def State.paramAgrees (s : State) (l : Nat) (p : Packet) (a : Bool) : Bool :=
  match s.fab.group with
  | some g => fieldAt p.payload 0 4 == g.groupId && a &&
      (g.members.any (fun m => m.1 == fieldAt p.payload 4 2) || s.fget LNK_PORT_STATUS_TEST (l / 4) == 1)
  | none => false

/-- The lane as an agreed PARAM leaves it: from the first packet, with the partner's credits. -/
def Lane.started (x : Lane) (p : Packet) (now : Nat) : Lane :=
  { x with
    attempts := 0, locked := false, txSeq := 0, rxSeq := 0, replay := [], replays := 0, eqAt := now,
    credits := List.replicate 4 (fieldAt p.payload 0xC 2 / 4) ++ List.replicate 4 (fieldAt p.payload 0xE 2 / 4) ++
      [fieldAt p.payload 0x10 2] }

/-- Lane `l` shown in service with its partner. -/
def State.laneShown (s : State) (l partner : Nat) : State :=
  let s := s.fset LNK_LANE_STATUS_STATE 2 (l / 4) (l % 4)
  let s := s.fset LNK_PORT_STATUS_IN_SERVICE (s.fget LNK_PORT_STATUS_IN_SERVICE (l / 4) ||| 2 ^ (l % 4)) (l / 4)
  (s.fset LNK_PORT_STATUS_PARTNER partner (l / 4)).refreshPort (l / 4)

/-- PARAM on a lane that trains with codeword lock. -/
def State.paramTaken (s : State) (l : Nat) (p : Packet) (a : Bool) : State :=
  if !s.paramAgrees l p a then (s.violate (l / 4) vGroupMismatch p).trainFailed l
  else ((s.setLane l ((s.lane l).started p s.now)).laneShown l (fieldAt p.payload 4 2)).joinGroup.flow

section

variable (ht : s.laneTraining l = true) (hx : (s.lane l).locked = true) (htype : p.type = ptLink) (harg : p.arg = 6)
include ht hx htype harg

theorem execParam_taken (a : Bool) : exec (.param l p a) s = .next ((s.tookLink l p).paramTaken l p a) :=
  next_congr (if_neg (by simp [ht, hx, htype, harg]))

end

theorem State.tookLink_fab (s : State) (l : Nat) (p : Packet) : (s.tookLink l p).fab = s.fab := State.bump64_fab _ _ _ _ _ _

theorem State.lane_tookLink (s : State) (l : Nat) (p : Packet) (j : Nat) : (s.tookLink l p).lane j = s.lane j := by
  rw [State.lane, State.tookLink_fab, State.lane]

theorem State.tookLink_out (s : State) (l : Nat) (p : Packet) : (s.tookLink l p).out = s.out := State.bump64_out _ _ _ _ _ _

theorem State.onlyRegs_tookLink (s : State) (l : Nat) (p : Packet) : s.OnlyRegs (s.tookLink l p) := (State.OnlyRegs.refl s).bump64

theorem State.rget_tookLink (s : State) (l : Nat) (p : Packet) {a : Nat} (h : ∀ r ∈ portByteRegs, regAddr r (l / 4) 0 ≠ a) :
    (s.tookLink l p).rget a = s.rget a :=
  State.rget_bump64_ne s (h LNK_RX_BYTES_LO (by decide)) (h LNK_RX_BYTES_HI (by decide))

theorem State.laneInService_tookLink (s : State) (l : Nat) (p : Packet) (j : Nat) :
    (s.tookLink l p).laneInService j = s.laneInService j :=
  State.laneInService_congr (State.fget_of_rget (s.rget_tookLink l p (portBytes_ne_portStatus _ _)))

theorem State.paramTaken_mismatch {a : Bool} (h : ∀ g, s.fab.group = some g → a = false ∨ fieldAt p.payload 0 4 ≠ g.groupId) :
    s.paramTaken l p a = (s.violate (l / 4) vGroupMismatch p).trainFailed l := by
  have hno : s.paramAgrees l p a = false := by
    unfold State.paramAgrees
    cases hg : s.fab.group with
    | none => rfl
    | some g =>
      dsimp only
      obtain ha | hid := h g hg
      · rw [ha, Bool.and_false, Bool.false_and]
      · rw [beq_false_of_ne hid, Bool.false_and, Bool.false_and]
  exact if_pos (by rw [hno]; rfl)

theorem State.OnlyRegs.fab_eq (h : s.OnlyRegs t) : t.fab = s.fab := by rw [h]

theorem State.OnlyRegs.out_eq (h : s.OnlyRegs t) : t.out = s.out := by rw [h]

theorem State.onlyRegs_laneShown (s : State) (l partner : Nat) : s.OnlyRegs (s.laneShown l partner) :=
  ((State.OnlyRegs.refl s).fset.fset.fset).trans (State.onlyRegs_refreshPort _ _)

/-- Only the port's status and the lane's change. -/
theorem State.rget_laneShown (s : State) (l partner : Nat) {a : Nat} (hp : regAddr LNK_PORT_STATUS (l / 4) 0 ≠ a)
    (hl : regAddr LNK_LANE_STATUS (l / 4) (l % 4) ≠ a) : (s.laneShown l partner).rget a = s.rget a := by
  unfold State.laneShown
  dsimp only
  rw [State.rget_refreshPort _ hp]
  exact (State.rget_fset_ne _ LNK_PORT_STATUS_PARTNER _ (l / 4) 0 _ hp).trans
    ((State.rget_fset_ne _ LNK_PORT_STATUS_IN_SERVICE _ (l / 4) 0 _ hp).trans
      (State.rget_fset_ne _ LNK_LANE_STATUS_STATE _ (l / 4) (l % 4) _ hl))

theorem State.inService_laneShown (s : State) (l partner : Nat) : (s.laneShown l partner).fget LNK_PORT_STATUS_IN_SERVICE (l / 4) =
    s.fget LNK_PORT_STATUS_IN_SERVICE (l / 4) ||| 2 ^ (l % 4) := by
  have hne := portStatus_ne_laneStatus (l / 4) (l / 4) (k := l % 4) (by omega)
  have hsame : (s.fset LNK_LANE_STATUS_STATE 2 (l / 4) (l % 4)).fget LNK_PORT_STATUS_IN_SERVICE (l / 4) =
      s.fget LNK_PORT_STATUS_IN_SERVICE (l / 4) :=
    State.fget_of_rget (State.rget_fset_ne s LNK_LANE_STATUS_STATE 2 (l / 4) (l % 4) (regAddr LNK_PORT_STATUS (l / 4) 0) hne.symm)
  unfold State.laneShown
  dsimp only
  rw [hsame, State.fget_refreshPort _ _ _ _ (by decide) (by decide),
    State.fget_fset_other _ _ _ _ _ _ _ _ (by decide) (by decide) (by decide)]
  exact State.fget_fset_of_lt _ (l / 4) 0 (by decide) (bitOf_added _ (s.inService_lt _) (l % 4) (by omega)).1

theorem State.laneState_laneShown (s : State) (l partner : Nat) :
    (s.laneShown l partner).fget LNK_LANE_STATUS_STATE (l / 4) (l % 4) = 2 := by
  have hne : regAddr LNK_PORT_STATUS_PARTNER.reg (l / 4) 0 ≠ regAddr LNK_LANE_STATUS_STATE.reg (l / 4) (l % 4) :=
    portStatus_ne_laneStatus (l / 4) (l / 4) (by omega)
  have hne' : regAddr LNK_PORT_STATUS_IN_SERVICE.reg (l / 4) 0 ≠ regAddr LNK_LANE_STATUS_STATE.reg (l / 4) (l % 4) := hne
  unfold State.laneShown
  dsimp only
  generalize (s.fset LNK_LANE_STATUS_STATE 2 (l / 4) (l % 4)).fget LNK_PORT_STATUS_IN_SERVICE (l / 4) ||| 2 ^ (l % 4) = m
  refine (State.fget_of_rget (State.rget_refreshPort _ hne)).trans ((State.fget_of_rget
    (State.rget_fset_ne _ LNK_PORT_STATUS_PARTNER _ (l / 4) 0 _ hne)).trans ((State.fget_of_rget
    (State.rget_fset_ne _ LNK_PORT_STATUS_IN_SERVICE _ (l / 4) 0 _ hne')).trans ?_))
  exact State.fget_fset_of_lt s (l / 4) (l % 4) (by decide) (by decide)

theorem State.laneInService_laneShown (s : State) (l partner : Nat) : (s.laneShown l partner).laneInService l = true := by
  rw [State.laneInService_eq, State.inService_laneShown]
  exact (bitOf_added _ (s.inService_lt _) (l % 4) (by omega)).2

/-- A lane in service stays so when another is shown in service. -/
theorem State.laneInService_laneShown_other (partner : Nat) {j : Nat} (h : s.laneInService j = true) :
    (s.laneShown l partner).laneInService j = true := by
  by_cases hport : j / 4 = l / 4
  · rw [State.laneInService_eq, hport, State.inService_laneShown]
    rw [State.laneInService_eq, hport] at h
    exact bitOf_kept _ (s.inService_lt _) (l % 4) (by omega) (j % 4) (by omega) h
  · refine (State.laneInService_congr (State.fget_of_rget (s.rget_laneShown l partner ?_ ?_))).trans h
    · show regAddr LNK_PORT_STATUS (l / 4) 0 ≠ regAddr LNK_PORT_STATUS (j / 4) 0
      rw [regAddr_portStatus, regAddr_portStatus]
      omega
    · exact (portStatus_ne_laneStatus (l / 4) (j / 4) (by omega)).symm

theorem State.joinGroup_joined {g : GroupCfg} (hg : s.fab.group = some g) (hj : s.fab.joinedAt.isSome = true) : s.joinGroup = s := by
  unfold State.joinGroup
  rw [hg]
  exact if_pos hj

theorem State.paramTaken_agrees {g : GroupCfg} (hg : s.fab.group = some g) (hid : fieldAt p.payload 0 4 = g.groupId)
    (hm : g.members.any (fun m => m.1 == fieldAt p.payload 4 2) = true) (hj : s.fab.joinedAt.isSome = true) (htxq : s.fab.txq = [])
    (hlanes : ∀ e ∈ s.fab.lanes, e.1 ≠ l → s.laneInService e.1 = true) :
    s.paramTaken l p true = (s.setLane l ((s.lane l).started p s.now)).laneShown l (fieldAt p.payload 4 2) := by
  have hyes : s.paramAgrees l p true = true := by
    unfold State.paramAgrees
    rw [hg]
    simp [hid, hm]
  refine (if_neg (by rw [hyes]; decide)).trans ?_
  generalize hv : s.setLane l ((s.lane l).started p s.now) = v
  have hvg : v.fab.group = some g := by rw [← hv]; exact hg
  have hvj : v.fab.joinedAt.isSome = true := by rw [← hv]; exact hj
  have hvt : v.fab.txq = [] := by rw [← hv]; exact htxq
  have hvl : ∀ e ∈ v.fab.lanes, e.1 ≠ l → v.laneInService e.1 = true := by
    rw [← hv]
    intro e he hne
    obtain rfl | he := State.mem_lanes_setLane he
    · exact absurd rfl hne
    · exact (State.laneInService_congr (State.fget_setLane ..)).trans (hlanes e he hne)
  have hfab : (v.laneShown l (fieldAt p.payload 4 2)).fab = v.fab := (v.onlyRegs_laneShown l _).fab_eq
  rw [State.joinGroup_joined (by rw [hfab]; exact hvg) (by rw [hfab]; exact hvj)]
  refine State.flow_of_flowing ?_
  rw [State.flowing, hfab]
  refine ⟨hvt, fun e he => ?_⟩
  by_cases hl : e.1 = l
  · rw [hl]
    exact v.laneInService_laneShown l _
  · exact State.laneInService_laneShown_other _ (hvl e he hl)

theorem Lane.started_credits (x : Lane) (p : Packet) (now : Nat) :
    ∀ i < 4, (x.started p now).credits.getD i 0 = fieldAt p.payload 0xC 2 / 4 := by
  intro i hi
  obtain rfl | rfl | rfl | rfl : i = 0 ∨ i = 1 ∨ i = 2 ∨ i = 3 := by omega
  all_goals rfl

theorem param_enters {g : GroupCfg} (ht : s.laneTraining l = true) (hx : (s.lane l).locked = true) (htype : p.type = ptLink)
    (harg : p.arg = 6) (hg : s.fab.group = some g) (hid : fieldAt p.payload 0 4 = g.groupId)
    (hm : g.members.any (fun m => m.1 == fieldAt p.payload 4 2) = true) (hj : s.fab.joinedAt.isSome = true) (htxq : s.fab.txq = [])
    (hlanes : ∀ e ∈ s.fab.lanes, e.1 ≠ l → s.laneInService e.1 = true) :
    ∃ s', exec (.param l p true) s = .next s' ∧ s'.laneInService l = true ∧
      s'.fget LNK_LANE_STATUS_STATE (l / 4) (l % 4) = 2 ∧ (s'.lane l).attempts = 0 ∧ (s'.lane l).txSeq = 0 ∧ (s'.lane l).rxSeq = 0 ∧
      (∀ i, i < 4 → (s'.lane l).credits.getD i 0 = fieldAt p.payload 0xC 2 / 4) ∧ s.KeepsWork s' := by
  refine ⟨_, execParam_taken ht hx htype harg true, ?_⟩
  have hwork := (s.onlyRegs_tookLink l p).keepsWork
  have hfab := s.tookLink_fab l p
  have hservice := s.laneInService_tookLink l p
  generalize s.tookLink l p = v at hwork hfab hservice
  rw [State.paramTaken_agrees (by rw [hfab]; exact hg) hid hm (by rw [hfab]; exact hj) (by rw [hfab]; exact htxq)
    (by rw [hfab]; exact fun e he hne => (hservice e.1).trans (hlanes e he hne))]
  have hset := v.keepsWork_setLane l ((v.lane l).started p v.now)
  have hlane := v.lane_setLane_self l ((v.lane l).started p v.now)
  generalize v.setLane l ((v.lane l).started p v.now) = w at hset hlane
  have hlane' : (w.laneShown l (fieldAt p.payload 4 2)).lane l = (v.lane l).started p v.now := by
    rw [← hlane, State.lane, State.lane, show (w.laneShown l (fieldAt p.payload 4 2)).fab = w.fab from (w.onlyRegs_laneShown l _).fab_eq]
  rw [hlane']
  exact ⟨w.laneInService_laneShown l _, w.laneState_laneShown l _, rfl, rfl, rfl, Lane.started_credits _ p _,
    (hwork.trans hset).trans (w.onlyRegs_laneShown l _).keepsWork⟩

end

end Sys2Proof.Machine
end

section
/-! PROOFS. O54: LINK packets, equalisation, windows and errors (R598 to R600, R608, R609, R613). -/

namespace Sys2Proof.Machine

section

variable {s t u : State} {l q k : Nat} {p : Packet}

/-! ### CREDIT, ACK and REPLAY_REQ (R598, R599) -/

/-- A lane's contents replaced leave what waits as it was, if the lane is in service. -/
theorem State.flowing_setLane (h : s.flowing) (hl : s.laneInService l = true) (x : Lane) : (s.setLane l x).flowing := by
  obtain ⟨htxq, hlanes⟩ := h
  refine ⟨htxq, fun e he => (State.laneInService_congr (State.fget_setLane ..)).trans ?_⟩
  obtain rfl | he := State.mem_lanes_setLane he
  · exact hl
  · exact hlanes e he

theorem State.flowing_tookLink (h : s.flowing) (l : Nat) (p : Packet) : (s.tookLink l p).flowing := by
  rw [State.flowing, State.tookLink_fab]
  exact ⟨h.1, fun e he => (s.laneInService_tookLink l p e.1).trans (h.2 e he)⟩

/-- The credits a CREDIT returns, place by place. -/
def creditsBack (x : Lane) (p : Packet) : List Nat := (List.range 9).map (fun i => x.credits.getD i 0 + fieldAt p.payload (2 * i) 2)

theorem getD_creditsBack (x : Lane) (p : Packet) : ∀ i < 9,
    (creditsBack x p).getD i 0 = x.credits.getD i 0 + fieldAt p.payload (2 * i) 2 := by
  intro i hi
  simp [creditsBack, List.getD_eq_getElem?_getD, hi]

theorem credit_adds (h : s.takesLink l p 1) (hf : s.flowing) : ∃ s', exec (.credit l p) s = .next s' ∧ s.KeepsWork s' ∧
    s'.out = s.out ∧ ∀ i, i < 9 → (s'.lane l).credits.getD i 0 = (s.lane l).credits.getD i 0 + fieldAt p.payload (2 * i) 2 := by
  have hservice : (s.tookLink l p).laneInService l = true := by
    obtain ⟨-, -, -, hl, -⟩ := h
    exact (s.laneInService_tookLink l p l).trans hl
  refine ⟨_, next_congr ((State.arriveLink_of_takesLink h).trans
    (State.flow_of_flowing (State.flowing_setLane (State.flowing_tookLink hf l p) hservice
      { (s.tookLink l p).lane l with credits := creditsBack ((s.tookLink l p).lane l) p }))), ?_, s.tookLink_out l p, ?_⟩
  · exact (s.onlyRegs_tookLink l p).keepsWork.trans (State.keepsWork_setLane ..)
  · intro i hi
    rw [State.lane_setLane_self, State.lane_tookLink]
    exact getD_creditsBack _ p i hi

theorem State.sendAllArrivals_none (h : s.fab.arrivals = []) : s.sendAllArrivals = s := by
  rw [State.sendAllArrivals, h]
  rfl

theorem State.sendAllArrivals_setLane (h : s.fab.arrivals = []) (x : Lane) : (s.setLane l x).sendAllArrivals = s.setLane l x :=
  State.sendAllArrivals_none h

theorem ack_takes (h : s.takesLink l p 2) (ha : s.fab.arrivals = []) : ∃ s', exec (.ack l p) s = .next s' ∧ s.KeepsWork s' ∧
    (s'.lane l).replay = ackedUpTo (fieldAt p.payload 0 2) (s.lane l).replay ∧ (s'.lane l).rxSeq = (s.lane l).rxSeq := by
  have ha' : (s.tookLink l p).fab.arrivals = [] := by rw [State.tookLink_fab]; exact ha
  have hlane := s.lane_tookLink l p l
  have hwork := (s.onlyRegs_tookLink l p).keepsWork
  refine ⟨_, next_congr (State.arriveLink_of_takesLink h), ?_⟩
  generalize s.tookLink l p = v at ha' hlane hwork
  dsimp only
  rw [State.sendAllArrivals_setLane ha', State.lane_setLane_self, hlane]
  exact ⟨hwork.trans (State.keepsWork_setLane ..), rfl, rfl⟩

theorem State.out_emit (s : State) (e : OutEvent) : (s.emit e).out = s.out ++ [e] := rfl

/-- A packet sent again on port `q`. -/
def State.sendOnce (s : State) (q : Nat) (y : Packet) : State :=
  ((s.bump64 LNK_TX_BYTES_LO_COUNT LNK_TX_BYTES_HI_COUNT y.wire q).bump LNK_REPLAY_COUNT 1 q).emit (.packet q y)

theorem State.sendOnce_spec (s : State) (q : Nat) (y : Packet) : s.KeepsWork (s.sendOnce q y) ∧ (s.sendOnce q y).fab = s.fab ∧
    (s.sendOnce q y).out = s.out ++ [.packet q y] := by
  refine ⟨(State.KeepsWork.refl s).bump64.bump.emit, ?_, ?_⟩
  · rw [State.sendOnce, State.emit_fab, State.bump_fab, State.bump64_fab]
  · rw [State.sendOnce, State.out_emit, State.bump_out, State.bump64_out]

/-- Packets sent again on port `q`. -/
def State.sendAgain (s : State) (q : Nat) (again : List Packet) : State := again.foldl (fun s y => s.sendOnce q y) s

theorem State.sendAgain_cons (s : State) (q : Nat) (y : Packet) (again : List Packet) :
    s.sendAgain q (y :: again) = (s.sendOnce q y).sendAgain q again := by simp only [State.sendAgain, List.foldl_cons]

theorem State.sendAgain_spec (s : State) (q : Nat) (again : List Packet) : s.KeepsWork (s.sendAgain q again) ∧
    (s.sendAgain q again).fab = s.fab ∧ (s.sendAgain q again).out = s.out ++ again.map (fun z => .packet q z) := by
  induction again generalizing s with
  | nil => exact ⟨State.KeepsWork.refl s, rfl, by simp [State.sendAgain]⟩
  | cons y again ih =>
    obtain ⟨hwork, hfab, hout⟩ := s.sendOnce_spec q y
    obtain ⟨hwork', hfab', hout'⟩ := ih (s.sendOnce q y)
    rw [State.sendAgain_cons]
    refine ⟨hwork.trans hwork', hfab'.trans hfab, hout'.trans ?_⟩
    rw [hout, List.append_assoc]
    rfl

/-- REPLAY_REQ taken, `again` being what the buffer holds from the packet named. -/
def State.replays (s : State) (l : Nat) (again : List Packet) : State :=
  match again with
  | [] => s
  | _ =>
    let times := if again.length == (s.lane l).replay.length then (s.lane l).replays + 1 else 1
    let s := s.setLane l { s.lane l with replay := again, replays := times }
    if 8 < times then s.trainLane l else s.sendAgain (l / 4) again

theorem execReplayReq_taken (h : s.takesLink l p 3) : exec (.replayReq l p) s = .next ((s.tookLink l p).replays l
    ((s.lane l).replay.dropWhile (fun y => y.lseq != fieldAt p.payload 0 2))) := by
  refine next_congr ((State.arriveLink_of_takesLink h).trans ?_)
  rw [State.lane_tookLink]
  dsimp only
  generalize hagain : (s.lane l).replay.dropWhile (fun y => y.lseq != fieldAt p.payload 0 2) = again
  cases again with
  | nil => rfl
  | cons y rest =>
    unfold State.replays
    rw [State.lane_tookLink] <;> rfl

theorem replayReq_unheld (h : s.takesLink l p 3) (hno : ∀ y ∈ (s.lane l).replay, y.lseq ≠ fieldAt p.payload 0 2) :
    exec (.replayReq l p) s = .next (s.tookLink l p) := by
  rw [execReplayReq_taken h, List.dropWhile_eq_nil_iff.mpr fun y hy => by simpa using hno y hy]
  rfl

section

variable {y : Packet} {rest : List Packet} (hr : (s.lane l).replay = y :: rest)
include hr

theorem State.replays_all : s.replays l (y :: rest) =
    if 8 < (s.lane l).replays + 1 then (s.setLane l { s.lane l with replays := (s.lane l).replays + 1 }).trainLane l
    else (s.setLane l { s.lane l with replays := (s.lane l).replays + 1 }).sendAgain (l / 4) (y :: rest) := by
  have hsame : ((y :: rest).length == (s.lane l).replay.length) = true := by rw [hr]; exact beq_self_eq_true _
  have hlane : ({ s.lane l with replay := y :: rest, replays := (s.lane l).replays + 1 } : Lane) =
      { s.lane l with replays := (s.lane l).replays + 1 } := by rw [← hr]
  unfold State.replays
  dsimp only
  rw [if_pos hsame, hlane]

theorem replayReq_first (h : s.takesLink l p 3) (hy : y.lseq = fieldAt p.payload 0 2) :
    ((s.lane l).replays < 8 → ∃ s', exec (.replayReq l p) s = .next s' ∧ s.KeepsWork s' ∧ (s'.lane l).replays = (s.lane l).replays + 1 ∧
      s'.out = s.out ++ (y :: rest).map (fun z => .packet (l / 4) z)) ∧
    (8 ≤ (s.lane l).replays → exec (.replayReq l p) s =
      .next (((s.tookLink l p).setLane l { s.lane l with replays := (s.lane l).replays + 1 }).trainLane l)) := by
  have hdrop : (s.lane l).replay.dropWhile (fun y => y.lseq != fieldAt p.payload 0 2) = y :: rest := by
    rw [hr, List.dropWhile_cons, if_neg (by simp [hy])]
  have hlane := s.lane_tookLink l p l
  have hexec := execReplayReq_taken h
  rw [hdrop, State.replays_all (by rw [hlane]; exact hr), hlane] at hexec
  refine ⟨fun hfew => ?_, fun hmany => hexec.trans (next_congr (if_pos (by omega)))⟩
  rw [if_neg (by omega)] at hexec
  refine ⟨_, hexec, ?_⟩
  obtain ⟨hwork, hfab, hout⟩ :=
    ((s.tookLink l p).setLane l { s.lane l with replays := (s.lane l).replays + 1 }).sendAgain_spec (l / 4) (y :: rest)
  refine ⟨((s.onlyRegs_tookLink l p).keepsWork.trans (State.keepsWork_setLane ..)).trans hwork, ?_, hout.trans ?_⟩
  · rw [State.lane, hfab, ← State.lane, State.lane_setLane_self]
  · rw [State.setLane_out, State.tookLink_out]

end

/-! ### Equalisation (R599, R600, R613) -/

/-- EQ_REQ taken: the tap moved, and the codeword at which it moves is answered. -/
def State.tapMoved (s : State) (l tap value : Nat) : State :=
  let s := s.setLane l { s.lane l with taps := smPut (fun _ => 0) (s.lane l).taps tap value }
  (s.draw (2 ^ 32)).2.sendLink (l / 4) 5 (leBytes 1 tap ++ leBytes 2 value ++ leBytes 4 (s.draw (2 ^ 32)).1)

theorem State.tapMoved_spec (s : State) (l tap value : Nat) : s.KeepsWork (s.tapMoved l tap value) ∧
    smGet (fun _ => 0) ((s.tapMoved l tap value).lane l).taps tap = value := by
  unfold State.tapMoved
  dsimp only
  refine ⟨State.KeepsWork.trans (t := ((s.setLane l { s.lane l with taps := smPut (fun _ => 0) (s.lane l).taps tap value }).draw (2 ^ 32)).2)
    ⟨rfl, rfl, rfl, rfl, rfl, rfl⟩ (State.keepsWork_sendLink ..), ?_⟩
  rw [State.lane_sendLink]
  exact (congrArg (fun x : Lane => smGet (fun _ => 0) x.taps tap) (State.lane_setLane_self s l _)).trans (smGet_smPut_self _ _ _ _)

theorem eqReq_moves (h : s.takesLink l p 4) : ∃ s', exec (.eqReq l p) s = .next s' ∧ s.KeepsWork s' ∧
    smGet (fun _ => 0) (s'.lane l).taps (fieldAt p.payload 0 1) = ofSigned 16
      (toSigned 16 (smGet (fun _ => 0) (s.lane l).taps (fieldAt p.payload 0 1)) + toSigned 8 (fieldAt p.payload 1 1)) := by
  refine ⟨_, next_congr (State.arriveLink_of_takesLink h), ?_⟩
  have hlane := s.lane_tookLink l p l
  have hwork := (s.onlyRegs_tookLink l p).keepsWork
  generalize s.tookLink l p = v at hlane hwork
  obtain ⟨hmoved, htap⟩ := v.tapMoved_spec l (fieldAt p.payload 0 1) (ofSigned 16
    (toSigned 16 (smGet (fun _ => 0) (v.lane l).taps (fieldAt p.payload 0 1)) + toSigned 8 (fieldAt p.payload 1 1)))
  rw [← hlane]
  exact ⟨hwork.trans hmoved, htap⟩

theorem eqRsp_counts (h : s.takesLink l p 5) : exec (.eqRsp l p) s = .next (s.tookLink l p) :=
  next_congr (State.arriveLink_of_takesLink h)

/-- A step of a tap asked of the partner. -/
def State.askStep (s : State) (q : Nat) (ask : Option (Nat × Nat)) : State :=
  match ask with
  | some (tap, step) => s.sendLink q 4 (leBytes 1 tap ++ leBytes 1 step)
  | none => s

/-- The margins and the errors of lane `k` of port `q` shown. -/
def State.marginsShown (s : State) (q k eyeH eyeV sym cor : Nat) : State :=
  let s := (s.fset LNK_LANE_STATUS_EYE_H (saturate 0xFF eyeH) q k).fset LNK_LANE_STATUS_EYE_V (saturate 0xFF eyeV) q k
  let s := (s.bump LNK_LANE_SYMERR_COUNT sym q k).bump LNK_LANE_EQ_COUNT 1 q k
  s.bump LNK_FEC_CORR_COUNT cor q

theorem State.askStep_spec (s : State) (q : Nat) (ask : Option (Nat × Nat)) : s.KeepsWork (s.askStep q ask) ∧
    (s.askStep q ask).fab = s.fab ∧ (∀ k < 4, (s.askStep q ask).rget (regAddr LNK_LANE_STATUS q k) = s.rget (regAddr LNK_LANE_STATUS q k)) ∧
    (ask = none → (s.askStep q ask).out = s.out) := by
  match ask with
  | none => exact ⟨State.KeepsWork.refl s, rfl, fun _ _ => rfl, fun _ => rfl⟩
  | some (tap, step) =>
    refine ⟨s.keepsWork_sendLink .., s.sendLink_fab .., fun k hk => ?_, fun h => nomatch h⟩
    have hne := portBytes_ne_laneStatus q hk
    exact (State.rget_emit _ _ _).trans
      (State.rget_bump64_ne s (hne LNK_TX_BYTES_LO (by decide)) (hne LNK_TX_BYTES_HI (by decide)))

theorem State.marginsShown_spec (s : State) (q : Nat) {k : Nat} (hk : k < 4) (eyeH eyeV sym cor : Nat) :
    s.OnlyRegs (s.marginsShown q k eyeH eyeV sym cor) ∧
    (s.marginsShown q k eyeH eyeV sym cor).fget LNK_LANE_STATUS_EYE_H q k = min 0xFF eyeH ∧
    (s.marginsShown q k eyeH eyeV sym cor).fget LNK_LANE_STATUS_EYE_V q k = min 0xFF eyeV := by
  have hsym : regAddr LNK_LANE_SYMERR_COUNT.reg q k ≠ regAddr LNK_LANE_STATUS q k := by
    simp [regAddr, LNK_LANE_STATUS, LNK_LANE_SYMERR_COUNT, LNK_LANE_SYMERR]
  have heq : regAddr LNK_LANE_EQ_COUNT.reg q k ≠ regAddr LNK_LANE_STATUS q k := by
    simp [regAddr, LNK_LANE_STATUS, LNK_LANE_EQ_COUNT, LNK_LANE_EQ]
  have hfec : regAddr LNK_FEC_CORR_COUNT.reg q 0 ≠ regAddr LNK_LANE_STATUS q k := by
    simp [regAddr, LNK_LANE_STATUS, LNK_FEC_CORR_COUNT, LNK_FEC_CORR]
    omega
  have hrget : ∀ u : State, (((u.bump LNK_LANE_SYMERR_COUNT sym q k).bump LNK_LANE_EQ_COUNT 1 q k).bump LNK_FEC_CORR_COUNT cor q).rget
      (regAddr LNK_LANE_STATUS q k) = u.rget (regAddr LNK_LANE_STATUS q k) := fun u =>
    (State.rget_bump_ne _ hfec).trans ((State.rget_bump_ne _ heq).trans (State.rget_bump_ne _ hsym))
  have hlt : ∀ v, min 0xFF v < 2 ^ 8 := fun v => by omega
  unfold State.marginsShown
  rw [saturate_eq_min, saturate_eq_min]
  refine ⟨(State.OnlyRegs.refl s).fset.fset.bump.bump.bump, (State.fget_of_rget (hrget _)).trans ?_,
    (State.fget_of_rget (hrget _)).trans ?_⟩
  · rw [State.fget_fset_other _ _ _ _ _ _ _ _ (by decide) (by decide) (by decide)]
    exact State.fget_fset_of_lt s (f := LNK_LANE_STATUS_EYE_H) q k (by decide) (hlt eyeH)
  · exact State.fget_fset_of_lt _ (f := LNK_LANE_STATUS_EYE_V) q k (by decide) (hlt eyeV)

theorem eqUpdate_early {eyeH eyeV sym cor : Nat} {ask : Option (Nat × Nat)}
    (h : s.laneInService l = false ∨ s.now < (s.lane l).eqAt + 1_000_000) : exec (.eqUpdate l eyeH eyeV sym cor ask) s = .next s :=
  next_congr (if_pos (.inr h))

theorem eqUpdate_due (hl : l < 64) {eyeH eyeV sym cor : Nat} {ask : Option (Nat × Nat)} (h : s.laneInService l = true)
    (hdue : (s.lane l).eqAt + 1_000_000 ≤ s.now) : ∃ v : State, exec (.eqUpdate l eyeH eyeV sym cor ask) s =
      .next (if eyeH < 16 then (v.report (unitLane l) kLaneMargin).flow else v) ∧ s.KeepsWork v ∧
      v.fget LNK_LANE_STATUS_EYE_H (l / 4) (l % 4) = min 0xFF eyeH ∧ v.fget LNK_LANE_STATUS_EYE_V (l / 4) (l % 4) = min 0xFF eyeV ∧
      (v.lane l).eqAt = s.now ∧ (ask = none → v.out = s.out) := by
  refine ⟨((s.setLane l { s.lane l with eqAt := s.now }).marginsShown (l / 4) (l % 4) eyeH eyeV sym cor).askStep (l / 4) ask,
    next_congr (if_neg ?_), ?_⟩
  · rintro (h' | h' | h')
    · omega
    · exact absurd (h.symm.trans h') (by decide)
    · exact absurd h' (Nat.not_lt.mpr hdue)
  have hset := s.keepsWork_setLane l { s.lane l with eqAt := s.now }
  have hlane := s.lane_setLane_self l { s.lane l with eqAt := s.now }
  have hout := s.setLane_out l { s.lane l with eqAt := s.now }
  generalize s.setLane l { s.lane l with eqAt := s.now } = w at hset hlane hout
  obtain ⟨hregs, hH, hV⟩ := w.marginsShown_spec (l / 4) (k := l % 4) (by omega) eyeH eyeV sym cor
  obtain ⟨hwork, hfab, hrget, hask⟩ := (w.marginsShown (l / 4) (l % 4) eyeH eyeV sym cor).askStep_spec (l / 4) ask
  have hfab' : (w.marginsShown (l / 4) (l % 4) eyeH eyeV sym cor).fab = w.fab := hregs.fab_eq
  have hout' : (w.marginsShown (l / 4) (l % 4) eyeH eyeV sym cor).out = w.out := hregs.out_eq
  refine ⟨(hset.trans hregs.keepsWork).trans hwork, (State.fget_of_rget (hrget _ (by omega))).trans hH,
    (State.fget_of_rget (hrget _ (by omega))).trans hV, ?_, fun hn => (hask hn).trans (hout'.trans hout)⟩
  rw [State.lane, hfab, hfab', ← State.lane, hlane]

/-! ### Violation windows and errors (R598, R600, R608, R609) -/

theorem lnkViolWindowEnd_due (hq : q < 16)
    (h : (s.violWindow q).2 + 1_000_000 * max 1 (s.fget LNK_VIOL_CTRL_WINDOW_MS q) ≤ s.now) :
    exec (.lnkViolWindowEnd q) s = .next (s.setWindow q 0 s.now) :=
  next_congr ((if_neg (by omega)).trans (if_neg (Nat.not_lt.mpr h)))

theorem lnkViolWindowEnd_early (hq : q < 16)
    (h : s.now < (s.violWindow q).2 + 1_000_000 * max 1 (s.fget LNK_VIOL_CTRL_WINDOW_MS q)) :
    exec (.lnkViolWindowEnd q) s = .next s :=
  next_congr ((if_neg (by omega)).trans (if_pos h))

theorem State.violWindow_setWindow (s : State) (q count start : Nat) : (s.setWindow q count start).violWindow q = (count, start) := by
  simp [State.violWindow, State.setWindow]

theorem State.flowing_setWindow (h : s.flowing) (q count start : Nat) : (s.setWindow q count start).flowing :=
  ⟨h.1, fun e he => h.2 e he⟩

/-- Isolation is no bit of the lanes in service. -/
theorem State.flowing_notIsolated (h : s.flowing) (q : Nat) : ((s.fset LNK_PORT_STATUS_STATE 0 q).refreshPort q).flowing := by
  have hfab : ((s.fset LNK_PORT_STATUS_STATE 0 q).refreshPort q).fab = s.fab :=
    ((State.OnlyRegs.refl s).fset.trans (State.onlyRegs_refreshPort _ q)).fab_eq
  rw [State.flowing, hfab]
  refine ⟨h.1, fun e he => (State.laneInService_congr ?_).trans (h.2 e he)⟩
  rw [State.fget_refreshPort _ _ _ _ (by decide) (by decide), State.fget_fset_other _ _ _ _ _ _ _ _ (by decide) (by decide) (by decide)]

theorem State.reenableLink_spec (hst : s.fget LNK_PORT_STATUS_STATE q = 3) (hf : s.flowing) :
    (s.reenableLink q).fget LNK_PORT_STATUS_STATE q ≠ 3 ∧ ((s.reenableLink q).violWindow q).1 = 0 ∧ s.KeepsWork (s.reenableLink q) := by
  have hflow := State.flow_of_flowing (State.flowing_setWindow (State.flowing_notIsolated hf q) q 0 s.now)
  have heq : s.reenableLink q = ((s.fset LNK_PORT_STATUS_STATE 0 q).refreshPort q).setWindow q 0 s.now := by
    refine (if_pos (by rw [hst]; decide)).trans ?_
    exact hflow
  rw [heq, State.violWindow_setWindow]
  refine ⟨?_, rfl, State.KeepsWork.trans (((State.OnlyRegs.refl s).fset).trans (State.onlyRegs_refreshPort _ q)).keepsWork
    ⟨rfl, rfl, rfl, rfl, rfl, rfl⟩⟩
  show ((s.fset LNK_PORT_STATUS_STATE 0 q).refreshPort q).fget LNK_PORT_STATUS_STATE q ≠ 3
  have h0 := State.fget_fset_of_lt s (f := LNK_PORT_STATUS_STATE) (v := 0) q 0 (by decide) (by decide)
  obtain ⟨h3, -⟩ | ⟨-, v, hv, he⟩ := (s.fset LNK_PORT_STATUS_STATE 0 q).refreshPort_cases q
  · exact absurd (h0.symm.trans h3) (by decide)
  · rw [he, State.fget_fset_of_lt _ q 0 (by decide) (show v < 2 ^ 2 by omega)]
    omega

theorem lnkReenable_owner (hq : q < 16) (r : Requester) :
    (s.owns r = true → s.fget LNK_PORT_STATUS_STATE q = 3 → s.flowing → ∃ s', exec (.lnkReenable r q) s = .next s' ∧
      s'.fget LNK_PORT_STATUS_STATE q ≠ 3 ∧ (s'.violWindow q).1 = 0 ∧ s.KeepsWork s') ∧
    (s.fget LNK_PORT_STATUS_STATE q ≠ 3 → exec (.lnkReenable r q) s = .next s) ∧
    (s.owns r = false → exec (.lnkReenable r q) s = .next s) := by
  refine ⟨fun ho hst hf => ⟨_, next_congr (if_pos (by simp [ho, hq])), State.reenableLink_spec hst hf⟩, fun hst => ?_,
    fun ho => next_congr (if_neg (by simp [ho]))⟩
  have hno : s.reenableLink q = s := if_neg (by simpa using hst)
  refine next_congr ?_
  rw [hno, ite_self]

theorem badPacket_judged (hl : l < 64) {bad : Bool} (h : s.laneInService l = true) (hb : bad = true ∨ p.lseq ≠ (s.lane l).rxSeq) :
    let gap := (p.lseq + 0x1_0000 - (s.lane l).rxSeq) % 0x1_0000
    let again := s.sendLink (l / 4) 3 (leBytes 2 (s.lane l).rxSeq)
    (bad = true ∨ gap < 512 ∨ 0xFE00 < gap →
      exec (.badOrOutOfOrderPacket l p bad) s = .next again ∧ s.KeepsWork again) ∧
    (bad = false → 512 ≤ gap → gap ≤ 0xFE00 →
      exec (.badOrOutOfOrderPacket l p bad) s = .next (s.violate (l / 4) vBadSeq p)) := by
  intro gap again
  have hin : ¬(64 ≤ l ∨ s.laneInService l = false ∨ (bad = false ∧ p.lseq = (s.lane l).rxSeq)) := by
    rintro (h' | h' | ⟨h1, h2⟩)
    · omega
    · exact absurd (h.symm.trans h') (by decide)
    · exact hb.elim (fun hb => absurd (hb.symm.trans h1) (by decide)) fun hne => hne h2
  refine ⟨fun hnear => ⟨next_congr ((if_neg hin).trans (if_neg ?_)), s.keepsWork_sendLink ..⟩,
    fun hgood hlo hhi => next_congr ((if_neg hin).trans (if_pos ?_))⟩
  · show ¬((!bad && decide (512 ≤ gap) && decide (gap ≤ 0x1_0000 - 512)) = true)
    obtain rfl | h | h := hnear
    · simp
    · simp [Nat.not_le.mpr h]
    · simp [Nat.not_le.mpr h]
  · show (!bad && decide (512 ≤ gap) && decide (gap ≤ 0x1_0000 - 512)) = true
    simp [hgood, hlo, hhi]

theorem unknownPacketType_taken (hl : l < 64) (h : s.laneInService l = true) (hseq : p.lseq = (s.lane l).rxSeq) (ht : p.type ≠ ptLink)
    (hv : vcOf p.type = none) :
    (s.fget LNK_PORT_STATUS_STATE (l / 4) ≠ 3 →
      exec (.unknownPacketType l p) s = .next ((s.acceptOn l p).violate (l / 4) vMalformed p)) ∧
    (s.fget LNK_PORT_STATUS_STATE (l / 4) = 3 →
      exec (.unknownPacketType l p) s = .next ((s.acceptOn l p).bump LNK_DROPPED_COUNT 1 (l / 4))) := by
  have hin : ¬(64 ≤ l ∨ s.laneInService l = false ∨ p.lseq ≠ (s.lane l).rxSeq ∨ p.type = ptLink ∨ (vcOf p.type).isSome = true) := by
    simp [h, hseq, ht, hv, Nat.not_le.mpr hl]
  exact ⟨fun hst => next_congr ((if_neg hin).trans (if_neg (by rw [State.portState_acceptOn]; exact hst))),
    fun hst => next_congr ((if_neg hin).trans (if_pos ((State.portState_acceptOn s l p).trans hst)))⟩

theorem uncorrectableCodeword_counts (hl : l < 64) (h : s.laneInService l = true) : exec (.uncorrectableCodeword l) s =
    .next ((s.bump LNK_FEC_UNCORR_COUNT 1 (l / 4)).report (unitLane l) kLaneFec).flow :=
  next_congr (if_neg (by simp [h, Nat.not_le.mpr hl]))

end

/-- Settles O54: training, then each LINK packet taken, then equalisation, windows and errors, one lemma for each. -/
theorem lanes : Obligations.Lanes := by
  unfold Obligations.Lanes
  intro s l p hl
  have hq : l / 4 < 16 := by omega
  exact ⟨fun ok h => laneTrain_other h ok,
    fun ht hx => ⟨laneTrain_locks ht hx,
      fun h => (laneTrain_fails ht hx).trans (next_congr (State.trainFailed_again (s := s.trainCounted) h)),
      fun h => (laneTrain_fails ht hx).trans (next_congr (State.trainFailed_third (s := s.trainCounted) h))⟩,
    laneTrainRetry_due hl, retrain_owner hl, State.trainLane_spec, fun a h => param_other h a,
    fun a ht hx htype harg h => (execParam_taken ht hx htype harg a).trans
      (next_congr (State.paramTaken_mismatch (by rw [State.tookLink_fab]; exact h))),
    fun g => param_enters, credit_adds, ack_takes, replayReq_unheld, fun y rest h hr hy => replayReq_first hr h hy, eqReq_moves, eqRsp_counts,
    fun eyeH eyeV sym cor ask => ⟨eqUpdate_early, eqUpdate_due hl⟩,
    ⟨lnkViolWindowEnd_due hq, lnkViolWindowEnd_early hq⟩, lnkReenable_owner hq, fun bad => badPacket_judged hl,
    unknownPacketType_taken hl, uncorrectableCodeword_counts hl⟩

end Sys2Proof.Machine
end

section
/-! PROOFS. O55 fails: a SYNC by which this device adopts another master, and what that costs. -/

namespace Sys2Proof.Machine

/-- An item bound to a strand of core 0. -/
def boundItem (q u : Nat) : Item :=
  { Item.fetched ⟨q, 0, none⟩ (List.replicate 64 0#8) 0 0 with phase := .bound 0 u }

/-- The context of a strand that waits at barrier 0 for item 0 of queue `q`. -/
def waitingStrand (q : Nat) : Strand := { Strand.fresh with mode := .waiting, wait := .barrier 0 0, item := some ⟨q, 0, none⟩ }

/-- A queue whose record ring begins one byte into the scratchpad of core `c`. -/
def oddQueue (c : Nat) : Queue := { Queue.none with cring := 0x01FF_0000_0000_0000 + scratchBase c + 1 }

/-- Device 0 follows master 2, and device 1 stands before it in the list. A strand of core 0, which is amber, waits at a group barrier. -/
def adopter : State :=
  let s : State := { State.reset with
    chambers := [{ Chamber.none with kind := 1, galleries := 1 }]
    health := [(0, 1)]
    items := [boundItem 1 0, boundItem 2 1]
    strands := [(strandKey 0 0, waitingStrand 1), (strandKey 0 1, waitingStrand 2)]
    queues := [(1, oddQueue 0), (2, oddQueue 1)]
    ms := { State.reset.ms with cells := [(scratchBase 0, .uncorrectable), (scratchBase 1, .uncorrectable)] }
    fab := { State.reset.fab with
      group := some { groupId := 7, deviceId := 0, masters := [1, 2], members := [(1, 0x8000)], chambers := 1 }
      joinedAt := some 0
      arrivals := [{ chamber := 0, id := 0, parties := 2, core := 0, strand := 0, item := some ⟨1, 0, none⟩, txn := none, counted := false }] } }
  (((s.fset LNK_PORT_STATUS_STATE 2 15).fset LNK_PORT_STATUS_IN_SERVICE 8 15).fset LNK_GROUP_STATUS_FORMED 1).fset
    LNK_GROUP_STATUS_MASTER_IDX 1

/-- A SYNC of device 1 at its last hop. -/
def lastSync : Packet :=
  { Packet.zero with type := ptSync, hops := 0, src := 1, length := 16, payload := List.replicate 16 0#8 }.seal

theorem lastSync_hops : lastSync.hops = 0 := by decide +kernel

theorem adopter_takes : adopter.takesPacket 63 lastSync ptSync := by
  unfold State.takesPacket
  decide +kernel

/-- Device 1 is adopted, and the route to it leads over the port of arrival. -/
theorem adopter_adopts : ((adopter.acceptOn 63 lastSync).fromMaster 1).1 = true ∧
    ((adopter.acceptOn 63 lastSync).fromMaster 1).2.isMaster = false ∧
    ((adopter.acceptOn 63 lastSync).fromMaster 1).2.syncPort = some 15 := by decide +kernel

/-- The events that still wait for the monitor after a command. -/
def foundAfter (r : Result) : List (Nat × Nat) :=
  match r with
  | .next s => s.ms.found
  | _ => []

/-- Those that wait once it has taken them a second time. -/
def foundLater (r : Result) : List (Nat × Nat) :=
  match r with
  | .next s => s.deliver.ms.found
  | _ => []

/-- The record of the second item meets the error in the scratchpad of core 1 while the monitor takes that of core 0. -/
theorem adopter_found : foundAfter (exec (.sync 63 lastSync 0) adopter) = [(1, kSramUe)] ∧
    foundLater (exec (.sync 63 lastSync 0) adopter) = [] := by decide +kernel

/-- Refutes O55: the SYNC that makes a device adopt an earlier master refuses its pending group barriers (R603, R607), and the item of a
strand so refused writes its record. The statement holds of every state and says that the monitor then has nothing left to take. Where a
record ring lies at an odd address of a scratchpad, the record reads words of it first: the error found in core 0's makes that amber
core umber, the item that it loses writes its own record, and this meets an error in core 1's, which the monitor has still to take. -/
theorem not_groups : ¬ Obligations.Groups := by
  unfold Obligations.Groups
  intro h
  obtain ⟨-, -, -, -, -, -, -, -, -, hsync, -⟩ := h adopter 63 lastSync
  obtain ⟨htrue, hmaster, hport⟩ := adopter_adopts
  obtain ⟨s', hs', hquiet, -⟩ := hsync ((adopter.acceptOn 63 lastSync).fromMaster 1).2 0 adopter_takes (Prod.ext htrue rfl) hmaster hport
  have hfixed : s'.deliver = s' := hquiet rfl
  dsimp only at hs'
  rw [if_pos lastSync_hops, hfixed] at hs'
  obtain ⟨hafter, hlater⟩ := adopter_found
  rw [hs'] at hafter hlater
  have hsame : s'.deliver.ms.found = s'.ms.found := congrArg (fun s : State => s.ms.found) hfixed
  exact absurd (hafter.symm.trans (hsame.symm.trans hlater)) (by decide)

end Sys2Proof.Machine
end
